-- ==== Sys2Proof/Word.lean ====
section
/-! DEFINITION. Word.lean: the word types of the device's registers and structures. -/

namespace Sys2Proof

/-- One byte of memory, of a frame or of an in-memory structure. -/
abbrev Byte := BitVec 8
/-- A 32-bit register (R63). -/
abbrev W32 := BitVec 32

end Sys2Proof
end

