-- ==== Sys2Proof/Outside.lean ====
section
/-! DEFINITION. Outside.lean: what the outside world is to the device: the requesters of register accesses, and the
answers that hosts, drives and sensors give to accesses which a command sets off. These are operands of the commands;
the device itself never chooses them. -/

namespace Sys2Proof

/-- A requester of register accesses (chapter 3): a PCIe function of a host link, a tiller thread that holds the
owner-register capability, or the action requester of scheduled register actions (R690). -/
inductive Requester where
  | fn (link fnum : Nat)
  | thread (tiller n : Nat)
  | action
deriving DecidableEq, Repr

/-- The outcome of one host-memory read: its bytes, or the host-access status it fails with (R106). -/
inductive HostData where
  | ok (bytes : List Byte)
  | failed (sts : Byte)
deriving DecidableEq, Repr

/-- What host memory answers to the accesses that a command sets off, in the order the command makes them: the data of
its reads, and the status of its writes. -/
structure Env where
  reads  : List HostData := []
  writes : List Byte := []
deriving DecidableEq, Repr

/-- What a management message asks (R638, R639); the standards that R638 names lay the messages out. -/
inductive MgmtMsg where
  /-- MCTP control, PLDM base and monitoring. -/
  | plain
  /-- SPDM attestation: GET_VERSION to CHALLENGE. -/
  | attest
  /-- SPDM GET_MEASUREMENTS of one index. -/
  | measure (index : Nat)
  /-- PLDM Firmware Update: the start of an update, a piece of the image, the checks, the activation. -/
  | fwBegin
  | fwData (off : Nat) (bytes : List Byte)
  | fwVerify
  | fwActivate
  /-- A message of a secured SPDM session with mutual authentication. -/
  | session
  /-- The vendor-defined SPDM command that places the owner's first WRAP key in a slot of slice 0 (R436). -/
  | ownerKey (slot key : Nat)
  /-- IDE_KM: the key of a stream of a host link is programmed, the stream starts with it, or it stops (R126). -/
  | ideKey (stream key : Nat)
  | ideGo (stream : Nat)
  | ideStop (stream : Nat)
  /-- TDISP of a function: 2 lock, 3 start, 1 stop (R127). -/
  | tdisp (fnum st : Nat)
deriving DecidableEq, Repr

/-- What the parts of the device answer to start-up (R23, R31, R598): the density of each GDDR7 controller's device (the code of
GL_CAP, 3 where training fails, 4 where the capacity table does not list it), the units that fail their own self-test, and the
unit that fails the calibration of fabric time. -/
structure BootRes where
  dens    : List Nat := List.replicate 16 0
  failed  : List Nat := []
  calFail : Option Nat := none
deriving DecidableEq, Repr

/-- How TCLK_IN runs from now on: it has stopped, it strays by more than 100 ppm from 10 MHz, or it runs as it should (R40, R692). -/
inductive ClockState where
  | stopped
  | strayed
  | good
deriving DecidableEq, Repr

/-- The stair whose table command window is written, and what the error correction of each stair's table SRAM finds while the
command runs: two bits for each stair (R276, R312). -/
structure TableSite where
  stair : Nat
  ecc   : Nat := 0
deriving DecidableEq, Repr

/-- A step of a climb in a stair that serves, with the number of corrected errors in the table SRAM words that it reads (R276), or
the same step in a twin. -/
inductive StepKind where
  | live (ecc : Nat)
  | twin
deriving DecidableEq, Repr

/-- The entry that the scrub rewrites, and what its shadow's words hold: 0 good, 1 a corrected error, 2 an uncorrectable one (R296). -/
structure ScrubFind where
  idx    : Nat
  shadow : Nat := 0
deriving DecidableEq, Repr

/-- The stair that loads from the mirror, and how many entries it loads now (R301). -/
structure LoadPart where
  stair   : Nat
  entries : Nat
deriving DecidableEq, Repr

/-- The monitors of a rail at the end of a dip, in mV: what they read now, and their lowest in the dip (R644). -/
structure RailEnd where
  mvs  : List Nat
  lows : List Nat
deriving DecidableEq, Repr

/-- A rail and what its monitors read, in mV (R643). -/
structure RailRead where
  rail : Nat
  mvs  : List Nat
deriving DecidableEq, Repr

/-- What stands on the pins when every rail is back: the faces' straps, the links whose PERST_N is asserted, and the readings of
the 32 monitors in mV (R643, R668, R674). -/
structure PowerPins where
  bifs  : List Nat
  clks  : List Nat
  perst : List Nat
  mvs   : List Nat
deriving DecidableEq, Repr

end Sys2Proof
end

