-- ==== Sys2Proof/Syntax.lean ====
section
/-! DEFINITION. Syntax.lean: the commands of the device, one constructor per row of the spec's opcode table, in the
table's order, with the operands that the row's rule needs: the register values, units and addresses it names, and
what the outside world supplies to it. -/

namespace Sys2Proof


/-- A command. -/
inductive Instr where
  /-- REGISTER_WRITE (R63). -/
  | registerWrite (req : Requester) (off be : Nat) (v : W32) (env : Env)
  /-- LO_REGISTER_READ (R65). -/
  | loRegisterRead (req : Requester) (off : Nat)
  /-- RC_REGISTER_READ (R5). -/
  | rcRegisterRead (req : Requester) (off : Nat)
  /-- LO_REGISTER_WRITE (R66). -/
  | loRegisterWrite (req : Requester) (off be : Nat) (v : W32)
  /-- HI_REGISTER_WRITE (R66). -/
  | hiRegisterWrite (req : Requester) (off be : Nat) (v : W32)
  /-- ALIAS_WRITE (R69). -/
  | aliasWrite (req : Requester) (off be : Nat) (v : W32)
  /-- GL_UNLOCK_WRITE (R78). -/
  | glUnlockWrite (req : Requester) (be : Nat) (v : W32)
  /-- UNLOCK_WINDOW_EXPIRE (R78). -/
  | unlockWindowExpire
  /-- IND_DATA_READ (R73). -/
  | indDataRead (req : Requester) (off : Nat)
  /-- IND_DATA_WRITE (R73). -/
  | indDataWrite (req : Requester) (off be : Nat) (v : W32)
  /-- IND_CMD_READ (R73). -/
  | indCmdRead (req : Requester) (off be : Nat) (v : W32)
  /-- IND_DOMAIN_ANSWER (R73). -/
  | indDomainAnswer (k : Nat) (word : W32) (ok : Bool)
  /-- IND_OVERRUN (R74). -/
  | indOverrun (k : Nat)
  /-- IND_TIMEOUT (R75). -/
  | indTimeout (k : Nat)
  /-- SNAPSHOT_GO (R82). -/
  | snapshotGo (req : Requester) (be : Nat) (v : W32)
  /-- SNAP_AT_FIRE (R83). -/
  | snapAtFire
  /-- WARM_RESET (R91). -/
  | warmReset (req : Requester) (be : Nat) (v : W32)
  /-- FT_SRC_CTL_WRITE (R56). -/
  | ftSrcCtlWrite (req : Requester) (be : Nat) (v : W32)
  /-- FT_PHASE_IN_LO_WRITE (R37). -/
  | ftPhaseInLoWrite (req : Requester) (be : Nat) (v : W32)
  /-- PHASE_SAMPLE_SUBMIT (R37). -/
  | phaseSampleSubmit (req : Requester) (be : Nat) (v : W32)
  /-- PPS_IN_EDGE (R35). -/
  | ppsInEdge
  /-- PTM_EXCHANGE (R35). -/
  | ptmExchange
  /-- PTM_EXCHANGE_DONE (R35). -/
  | ptmExchangeDone (master : Option Nat)
  /-- SOURCE_LOST_TIMEOUT (R40). -/
  | sourceLostTimeout
  /-- TCLK_IN_FAULT (R692). -/
  | tclkInFault (state : ClockState)
  /-- FT_STEP (R42). -/
  | ftStep (req : Requester) (be : Nat) (v : W32) (env : Env)
  /-- RACT_FIRE (R53). -/
  | ractFire (k : Nat) (env : Env)
  /-- DEPARTURE_RELEASE (R418). -/
  | departureRelease (q : Nat)
  /-- PPS_OUT_RISE (R50). -/
  | ppsOutRise
  /-- PPS_OUT_FALL (R50). -/
  | ppsOutFall
  /-- EPOCH_BOUNDARY (R619). -/
  | epochBoundary
  /-- LD_EPOCH_CTL_WRITE (R619). -/
  | ldEpochCtlWrite (req : Requester) (be : Nat) (v : W32)
  /-- CONFIG_WRITE (R99). -/
  | configWrite (link fnum off be v : Nat)
  /-- BUS_MASTER_DISABLE (R115). -/
  | busMasterDisable (link fnum : Nat)
  /-- BUS_MASTER_ENABLE (R116). -/
  | busMasterEnable (link fnum : Nat)
  /-- D3HOT_ENTRY (R100). -/
  | d3hotEntry (link fnum : Nat)
  /-- D3HOT_EXIT (R100). -/
  | d3hotExit (link fnum : Nat)
  /-- FUNCTION_LEVEL_RESET (R118). -/
  | functionLevelReset (link fnum : Nat)
  /-- FLR_END (R118). -/
  | flrEnd (link fnum : Nat)
  /-- VF_ENABLE_CHANGE (R119). -/
  | vfEnableChange (link : Nat) (on : Bool) (num : Nat)
  /-- BAR_RESIZE (R103). -/
  | barResize (link : Nat) (vf : Bool) (bar log : Nat)
  /-- MSIX_TABLE_WRITE (R114). -/
  | msixTableWrite (link fnum idx word be v : Nat)
  /-- PERST_ASSERT (R120). -/
  | perstAssert (link : Nat)
  /-- PERST_DEASSERT (R121). -/
  | perstDeassert (link : Nat)
  /-- HOT_RESET_RECEIVED (R120). -/
  | hotResetReceived (link : Nat)
  /-- HOST_LINK_DOWN (R120). -/
  | hostLinkDown (link : Nat)
  /-- HOST_LINK_UP (R121). -/
  | hostLinkUp (link rate width : Nat) (flit : Bool)
  /-- HOST_READ_COMPLETION (R105). -/
  | hostReadCompletion (link tag : Nat) (d : HostData)
  /-- COMPLETION_TIMEOUT (R107). -/
  | completionTimeout (link tag : Nat)
  /-- TAG_WAIT_END (R111). -/
  | tagWaitEnd (link : Nat)
  /-- PEER_WINDOW_REQUEST (R123). -/
  | peerWindowRequest (link fnum : Nat) (write : Bool) (addr len : Nat) (bs : List Byte)
  /-- WIN_SWAP (R124). -/
  | winSwap (req : Requester) (be face : Nat) (v : W32)
  /-- WIN_OLD_DRAINED (R124). -/
  | winOldDrained (link fnum : Nat)
  /-- FN_CFG_WRITE (R113). -/
  | fnCfgWrite (req : Requester) (be face : Nat) (v : W32)
  /-- IDE_CHECK_FAIL (R126). -/
  | ideCheckFail (link k : Nat)
  /-- SPDM_REQUEST (R126). -/
  | spdmRequest (link : Nat) (m : MgmtMsg)
  /-- RP_MERGE_WRITE (R131). -/
  | rpMergeWrite (req : Requester) (be : Nat) (v : W32)
  /-- SLOT_CONTROL_WRITE (R134). -/
  | slotControlWrite (req : Requester) (be p : Nat) (v : W32)
  /-- SLOT_PERST_RELEASE (R135). -/
  | slotPerstRelease (p : Nat)
  /-- SLOT_POWER_DROP (R135). -/
  | slotPowerDrop (p : Nat)
  /-- PRESENCE_CHANGE (R136). -/
  | presenceChange (p : Nat) (present : Bool)
  /-- POWER_FAULT (R136). -/
  | powerFault (p : Nat)
  /-- ATTENTION_BUTTON (R138). -/
  | attentionButton (p : Nat)
  /-- RP_LINK_DOWN (R139). -/
  | rpLinkDown (p : Nat)
  /-- RP_LINK_UP (R132). -/
  | rpLinkUp (p rate width : Nat)
  /-- DCFG_READ (R142). -/
  | dcfgRead (req : Requester) (be p : Nat) (v : W32)
  /-- DCFG_WRITE (R142). -/
  | dcfgWrite (req : Requester) (be p : Nat) (v : W32)
  /-- DCFG_ANSWER (R142). -/
  | dcfgAnswer (p result data : Nat)
  /-- DRIVE_WRITE_FORWARD (R21). -/
  | driveWriteForward (p id : Nat) (bytes : List Byte)
  /-- DRIVE_COMPLETION (R140). -/
  | driveCompletion (p id : Nat) (timeout : Bool)
  /-- PG_MODE_WRITE (R145). -/
  | pgModeWrite (req : Requester) (be pg : Nat) (v : W32)
  /-- PG_MODE_CHANGE_DONE (R145). -/
  | pgModeChangeDone (pg : Nat)
  /-- PORT_ENABLE (R148). -/
  | portEnable (req : Requester) (be p : Nat) (v : W32)
  /-- PORT_DISABLE (R148). -/
  | portDisable (req : Requester) (be p : Nat) (v : W32)
  /-- SIGNAL_DETECT (R148). -/
  | signalDetect (pg lane : Nat) (signal cdr : Bool)
  /-- TRAINING_COMPLETE (R149). -/
  | trainingComplete (p : Nat) (same : Bool) (taps : List Nat)
  /-- TRAINING_TIMEOUT (R148). -/
  | trainingTimeout (p lanes : Nat)
  /-- TRAIN_FAIL_RETRY (R148). -/
  | trainFailRetry (p : Nat)
  /-- LOCK_CHANGE (R150). -/
  | lockChange (p : Nat) (lock lf rf : Bool)
  /-- DEBOUNCE_EXPIRE (R151). -/
  | debounceExpire (p : Nat)
  /-- FEC_DEGRADE_WINDOW (R147). -/
  | fecDegradeWindow (p cw uncorr syms : Nat)
  /-- FRAME_RECEIVE (R153). -/
  | frameReceive (p : Nat) (b : List Byte) (fcsOk uncorr cut : Bool)
  /-- MAC_CONTROL_FRAME (R155). -/
  | macControlFrame (p : Nat) (b : List Byte)
  /-- PAUSE_TIMER_EXPIRE (R156). -/
  | pauseTimerExpire (p : Nat)
  /-- PFC_WATCHDOG (R158). -/
  | pfcWatchdog (p c : Nat)
  /-- PFC_REFRESH (R159). -/
  | pfcRefresh (p : Nat)
  /-- FRAME_TRANSMIT (R154). -/
  | frameTransmit (p : Nat)
  /-- TS_FIFO_POP (R164). -/
  | tsFifoPop (req : Requester) (p : Nat)
  /-- RCLK_SQUELCH (R165). -/
  | rclkSquelch (pg : Nat)
  /-- RCLK_RESUME (R165). -/
  | rclkResume (pg : Nat)
  /-- DOORBELL (R180). -/
  | doorbell (link fnum page be : Nat)
  /-- PIDX_WRITE (R181). -/
  | pidxWrite (link fnum page slot be : Nat) (v : W32)
  /-- CIDX_WRITE (R184). -/
  | cidxWrite (link fnum page slot be : Nat) (v : W32)
  /-- CQ_ARM (R193). -/
  | cqArm (link fnum page slot be : Nat) (v : W32)
  /-- DESCRIPTOR_FETCH (R183). -/
  | descriptorFetch (ch : Nat)
  /-- DESCRIPTOR_ARRIVE (R188). -/
  | descriptorArrive (read : Nat)
  /-- COMPLETION_WRITE (R177). -/
  | completionWrite (ch : Nat)
  /-- ETH_TX_COMPLETION (R192). -/
  | ethTxCompletion (ch : Nat)
  /-- MSIX_MOD_TIMER (R196). -/
  | msixModTimer (ch : Nat)
  /-- NOP (R204). -/
  | nop (sl : Nat) (cmd : List Byte)
  /-- QUERY_STATUS (R204). -/
  | queryStatus (sl : Nat) (cmd : List Byte)
  /-- CREATE_CHANNEL (R205). -/
  | createChannel (sl : Nat) (cmd : List Byte)
  /-- DESTROY_CHANNEL (R206). -/
  | destroyChannel (sl : Nat) (cmd : List Byte)
  /-- MODIFY_CHANNEL (R206). -/
  | modifyChannel (sl : Nat) (cmd : List Byte)
  /-- DISABLE_CHANNEL (R198). -/
  | disableChannel (sl : Nat) (cmd : List Byte)
  /-- ENABLE_CHANNEL (R198). -/
  | enableChannel (sl : Nat) (cmd : List Byte)
  /-- RESET_CHANNEL (R199). -/
  | resetChannel (sl : Nat) (cmd : List Byte)
  /-- QUERY_CHANNEL (R204). -/
  | queryChannel (sl : Nat) (cmd : List Byte) (env : Env)
  /-- AQ_ENABLE (R214). -/
  | aqEnable (req : Requester) (be sl : Nat) (v : W32)
  /-- AQ_DISABLE (R215). -/
  | aqDisable (req : Requester) (be sl : Nat) (v : W32)
  /-- SL_CTL_RESET (R226). -/
  | slCtlReset (req : Requester) (be sl : Nat) (v : W32)
  /-- CREATE_SLICE (R223). -/
  | createSlice (sl : Nat) (cmd : List Byte)
  /-- DESTROY_SLICE (R226). -/
  | destroySlice (sl : Nat) (cmd : List Byte)
  /-- SET_QUOTA (R217). -/
  | setQuota (sl : Nat) (cmd : List Byte)
  /-- QUERY_QUOTA (R222). -/
  | queryQuota (sl : Nat) (cmd : List Byte) (env : Env)
  /-- RESET_SLICE (R226). -/
  | resetSlice (sl : Nat) (cmd : List Byte)
  /-- QUERY_SLICE (R222). -/
  | querySlice (sl : Nat) (cmd : List Byte)
  /-- SLICE_RESET_START (R227). -/
  | sliceResetStart (sl : Nat)
  /-- SLICE_RESET_END (R227). -/
  | sliceResetEnd (sl : Nat)
  /-- BACKGROUND_ZERO (R228). -/
  | backgroundZero (sl mib : Nat)
  /-- LOG_START (R230). -/
  | logStart (sl : Nat) (cmd : List Byte)
  /-- LOG_FLUSH (R232). -/
  | logFlush (sl : Nat) (cmd : List Byte) (env : Env)
  /-- LOG_STOP (R233). -/
  | logStop (sl : Nat) (cmd : List Byte)
  /-- FREEZE_SLICE (R234). -/
  | freezeSlice (sl : Nat) (cmd : List Byte)
  /-- FREEZE_COMPLETE (R234). -/
  | freezeComplete (sl : Nat)
  /-- FREEZE_TIMEOUT (R234). -/
  | freezeTimeout (sl : Nat)
  /-- EXPORT_SLICE (R235). -/
  | exportSlice (sl : Nat) (cmd : List Byte) (env : Env)
  /-- IMPORT_SLICE (R236). -/
  | importSlice (sl : Nat) (cmd : List Byte) (env : Env)
  /-- THAW_SLICE (R237). -/
  | thawSlice (sl : Nat) (cmd : List Byte)
  /-- INGRESS_ENTRY (R12). -/
  | ingressEntry (role fl : Nat) (mark : Bool)
  /-- FLIGHT_STEP (R356). -/
  | flightStep (p fl seq : Nat) (kind : StepKind)
  /-- INGRESS_RETIRE (R330). -/
  | ingressRetire (role : Nat) (twin : Bool)
  /-- ARRAY_MARKER_RETIRE (R337). -/
  | arrayMarkerRetire (role fl : Nat)
  /-- REENTRY_RELEASE (R302). -/
  | reentryRelease (id : Nat)
  /-- GLEAN_WAIT_EXPIRE (R261). -/
  | gleanWaitExpire (id : Nat)
  /-- GLEAN_AGE (R262). -/
  | gleanAge (p slot : Nat)
  /-- PARSE_WRITE (R249). -/
  | parseWrite (req : Requester) (be st : Nat) (v : W32)
  /-- PARSE_READ (R249). -/
  | parseRead (req : Requester) (be st : Nat) (v : W32)
  /-- TABLE_LOOKUP (R308). -/
  | tableLookup (req : Requester) (be : Nat) (site : TableSite) (v : W32)
  /-- TABLE_READ (R308). -/
  | tableRead (req : Requester) (be : Nat) (site : TableSite) (v : W32)
  /-- TABLE_INSERT (R287). -/
  | tableInsert (req : Requester) (be : Nat) (site : TableSite) (v : W32)
  /-- TABLE_UPDATE (R308). -/
  | tableUpdate (req : Requester) (be : Nat) (site : TableSite) (v : W32)
  /-- TABLE_DELETE (R308). -/
  | tableDelete (req : Requester) (be : Nat) (site : TableSite) (v : W32)
  /-- TABLE_WRITE (R295). -/
  | tableWrite (req : Requester) (be : Nat) (site : TableSite) (v : W32)
  /-- TABLE_ERASE (R308). -/
  | tableErase (req : Requester) (be : Nat) (site : TableSite) (v : W32)
  /-- TABLE_ITER (R308). -/
  | tableIter (req : Requester) (be : Nat) (site : TableSite) (v : W32)
  /-- TABLE_CLEAR (R308). -/
  | tableClear (req : Requester) (be : Nat) (site : TableSite) (v : W32)
  /-- TABLE_COMMAND_RESUME (R309). -/
  | tableCommandResume (st : Nat)
  /-- TBL_CFG_APPLY (R306). -/
  | tblCfgApply (req : Requester) (be p t : Nat) (v : W32)
  /-- SHEAF_SWEEP (R280). -/
  | sheafSweep
  /-- TCAM_SCRUB (R296). -/
  | tcamScrub (p t : Nat) (found : ScrubFind)
  /-- L2_LEARN (R298). -/
  | l2Learn (p : Nat)
  /-- L2_AGEING_PASS (R299). -/
  | l2AgeingPass (p : Nat)
  /-- L2_LOAD_COMPLETE (R301). -/
  | l2LoadComplete (part : LoadPart)
  /-- DEEP_FETCH_START (R304). -/
  | deepFetchStart (p t b : Nat)
  /-- DEEP_FETCH_COMPLETE (R302). -/
  | deepFetchComplete (p t b : Nat) (ok : Bool)
  /-- SHEAF_COMMIT (R318). -/
  | sheafCommit (req : Requester) (be : Nat) (v : W32)
  /-- SHEAF_COMMIT_AT (R319). -/
  | sheafCommitAt (req : Requester) (be : Nat) (v : W32)
  /-- SHEAF_COMMIT_EFFECT (R322). -/
  | sheafCommitEffect
  /-- SHEAF_CANCEL (R319). -/
  | sheafCancel (req : Requester) (be : Nat) (v : W32)
  /-- SHEAF_UNSTAGE (R323). -/
  | sheafUnstage (req : Requester) (be : Nat) (v : W32)
  /-- SHEAF_DRAIN (R324). -/
  | sheafDrain
  /-- SHEAF_DRAIN_LIMIT (R325). -/
  | sheafDrainLimit
  /-- ARRAY_READ (R337). -/
  | arrayRead (req : Requester) (be st fl : Nat) (v : W32)
  /-- ARRAY_READ_SNAP (R337). -/
  | arrayReadSnap (req : Requester) (be st fl : Nat) (v : W32)
  /-- ARRAY_WRITE (R337). -/
  | arrayWrite (req : Requester) (be st fl : Nat) (v : W32)
  /-- ARRAY_READ_CLEAR (R337). -/
  | arrayReadClear (req : Requester) (be st fl : Nat) (v : W32)
  /-- ARRAY_CLEAR (R337). -/
  | arrayClear (req : Requester) (be st fl : Nat) (v : W32)
  /-- ARR_CFG_WRITE (R352). -/
  | arrCfgWrite (req : Requester) (be p fl a : Nat) (v : W32)
  /-- REHEARSAL_START (R343). -/
  | rehearsalStart (req : Requester) (be : Nat) (v : W32)
  /-- REHEARSAL_STOP (R348). -/
  | rehearsalStop (req : Requester) (be : Nat) (v : W32)
  /-- UC_DATA_WRITE (R373). -/
  | ucDataWrite (req : Requester) (be p fl k : Nat) (v : W32)
  /-- UC_DATA_READ (R372). -/
  | ucDataRead (req : Requester) (p fl k : Nat)
  /-- WRITE_NW (R372). -/
  | writeNw (req : Requester) (be p fl k : Nat) (v : W32)
  /-- READ_NW (R372). -/
  | readNw (req : Requester) (be p fl k : Nat) (v : W32)
  /-- STEP_CTL_WRITE (R373). -/
  | stepCtlWrite (req : Requester) (be p fl k : Nat) (v : W32)
  /-- LOAD_BUSY_TIMEOUT (R374). -/
  | loadBusyTimeout (p fl k : Nat)
  /-- UC_SCRUB (R382). -/
  | ucScrub (p fl k store bank addr : Nat)
  /-- INLINE_VERIFY_DONE (R398). -/
  | inlineVerifyDone (q id : Nat)
  /-- DISPATCH (R411). -/
  | dispatch (root : Nat)
  /-- EGRESS_RETIRE (R330). -/
  | egressRetire (role : Nat) (twin : Bool) (sts : Byte)
  /-- HOST_GRAIN_WAIT_END (R391). -/
  | hostGrainWaitEnd (ch idx : Nat)
  /-- OVERFLOW_COPY_DONE (R404). -/
  | overflowCopyDone (q id : Nat)
  /-- OVF_SIZE_WRITE (R406). -/
  | ovfSizeWrite (req : Requester) (be : Nat) (v : W32)
  /-- NODE_SEL_WRITE (R426). -/
  | nodeSelWrite (req : Requester) (be : Nat) (v : W32)
  /-- APPLY (R427). -/
  | apply (req : Requester) (be : Nat) (v : W32)
  /-- FLUSH (R421). -/
  | flush (req : Requester) (be : Nat) (v : W32)
  /-- CLR_CNT (R426). -/
  | clrCnt (req : Requester) (be : Nat) (v : W32)
  /-- METER_ASSIGN (R416). -/
  | meterAssign (req : Requester) (be st fl : Nat) (v : W32)
  /-- METER_REFRESH_PASS (R415). -/
  | meterRefreshPass (role fl a : Nat)
  /-- KEY_IMPORT (R436). -/
  | keyImport (sl : Nat) (cmd : List Byte) (env : Env)
  /-- KEY_GENERATE (R436). -/
  | keyGenerate (sl : Nat) (cmd : List Byte)
  /-- KEY_ERASE (R434). -/
  | keyErase (sl : Nat) (cmd : List Byte)
  /-- KEY_QUERY (R435). -/
  | keyQuery (sl : Nat) (cmd : List Byte)
  /-- CCTX_CREATE (R437). -/
  | cctxCreate (sl : Nat) (cmd : List Byte) (env : Env)
  /-- CCTX_DESTROY (R437). -/
  | cctxDestroy (sl : Nat) (cmd : List Byte)
  /-- CCTX_QUERY (R437). -/
  | cctxQuery (sl : Nat) (cmd : List Byte) (env : Env)
  /-- KEY_DERIVED (R446). -/
  | keyDerived (p fl : Nat) (qp : Bool) (ctx : Nat)
  /-- LANE_GO (R448). -/
  | laneGo (be sl l : Nat) (v : W32)
  /-- LOOKASIDE_COMPLETE (R448). -/
  | lookasideComplete (id : Nat) (env : Env)
  /-- KEY_ERASE_ALARM (R454). -/
  | keyEraseAlarm (bits : Nat)
  /-- KS_ALARM_WRITE (R455). -/
  | ksAlarmWrite (req : Requester) (be : Nat) (v : W32) (active : Nat)
  /-- ENTROPY_FAIL (R456). -/
  | entropyFail (test : Nat)
  /-- ENTROPY_RECOVER (R456). -/
  | entropyRecover
  /-- QP_MODIFY (R473). -/
  | qpModify (sl : Nat) (cmd : List Byte) (env : Env)
  /-- QP_QUERY (R475). -/
  | qpQuery (sl : Nat) (cmd : List Byte) (env : Env)
  /-- REG_REGION (R483). -/
  | regRegion (sl : Nat) (cmd : List Byte)
  /-- DEREG_REGION (R486). -/
  | deregRegion (sl : Nat) (cmd : List Byte)
  /-- DEREG_COMPLETE (R486). -/
  | deregComplete (key : Nat)
  /-- REVOKE_SLOW (R504). -/
  | revokeSlow (key : Nat)
  /-- QUERY_REGION (R475). -/
  | queryRegion (sl : Nat) (cmd : List Byte) (env : Env)
  /-- PATH_SET (R476). -/
  | pathSet (sl : Nat) (cmd : List Byte) (env : Env)
  /-- PATH_QUERY (R475). -/
  | pathQuery (sl : Nat) (cmd : List Byte) (env : Env)
  /-- GRMT_PACKET_GENERATE (R464). -/
  | grmtPacketGenerate (qp what : Nat) (env : Env)
  /-- ACK_DELAY_TIMER (R489). -/
  | ackDelayTimer (qp : Nat)
  /-- RETRANSMIT_TIMEOUT (R491). -/
  | retransmitTimeout (qp : Nat)
  /-- RNR_WAIT_EXPIRE (R492). -/
  | rnrWaitExpire (qp : Nat)
  /-- MSG_TIMEOUT (R493). -/
  | msgTimeout (qp : Nat)
  /-- QP_FETCH_COMPLETE (R499). -/
  | qpFetchComplete (qp : Nat) (sts : Byte)
  /-- QP_EVICT (R500). -/
  | qpEvict (start : Bool)
  /-- QP_WRITEBACK_DONE (R500). -/
  | qpWritebackDone (qp : Nat) (sts : Byte)
  /-- SQ_TAIL_DOORBELL (R510). -/
  | sqTailDoorbell (link fnum y v : Nat)
  /-- CQ_HEAD_DOORBELL (R510). -/
  | cqHeadDoorbell (link fnum y v : Nat)
  /-- CC_ENABLE (R509). -/
  | ccEnable (link fnum v : Nat)
  /-- CC_DISABLE (R528). -/
  | ccDisable (link fnum v : Nat)
  /-- CONTROLLER_DRAIN_END (R528). -/
  | controllerDrainEnd (c : Nat)
  /-- CC_SHUTDOWN (R529). -/
  | ccShutdown (link fnum v : Nat)
  /-- DELETE_IO_SUBMISSION_QUEUE (R513). -/
  | deleteIoSubmissionQueue (c : Nat) (sqe : List Byte)
  /-- CREATE_IO_SUBMISSION_QUEUE (R513). -/
  | createIoSubmissionQueue (c : Nat) (sqe : List Byte)
  /-- GET_LOG_PAGE (R513). -/
  | getLogPage (c : Nat) (sqe : List Byte) (env : Env)
  /-- DELETE_IO_COMPLETION_QUEUE (R513). -/
  | deleteIoCompletionQueue (c : Nat) (sqe : List Byte)
  /-- CREATE_IO_COMPLETION_QUEUE (R512). -/
  | createIoCompletionQueue (c : Nat) (sqe : List Byte)
  /-- IDENTIFY (R511). -/
  | identify (c : Nat) (sqe : List Byte) (env : Env)
  /-- ABORT (R532). -/
  | abort (c : Nat) (sqe : List Byte) (ahead : Bool)
  /-- SET_FEATURES (R513). -/
  | setFeatures (c : Nat) (sqe : List Byte)
  /-- GET_FEATURES (R513). -/
  | getFeatures (c : Nat) (sqe : List Byte)
  /-- ASYNCHRONOUS_EVENT_REQUEST (R513). -/
  | asynchronousEventRequest (c : Nat) (sqe : List Byte)
  /-- FIRMWARE_IMAGE_DOWNLOAD (R530). -/
  | firmwareImageDownload (c : Nat) (sqe : List Byte) (env : Env)
  /-- FIRMWARE_COMMIT (R530). -/
  | firmwareCommit (c : Nat) (sqe : List Byte)
  /-- FIRMWARE_ACTIVATION_DONE (R531). -/
  | firmwareActivationDone (c : Nat)
  /-- DEVICE_SELF_TEST (R533). -/
  | deviceSelfTest (c : Nat) (sqe : List Byte)
  /-- SELF_TEST_SEGMENT (R533). -/
  | selfTestSegment (c : Nat) (ok : Bool)
  /-- SELF_TEST_RESUME (R533). -/
  | selfTestResume (c : Nat)
  /-- NVME_FLUSH (R527). -/
  | nvmeFlush (c q : Nat) (sqe : List Byte)
  /-- NVME_WRITE (R520). -/
  | nvmeWrite (c q : Nat) (sqe : List Byte) (env : Env) (held : Option Nat)
  /-- NVME_READ (R525). -/
  | nvmeRead (c q : Nat) (sqe : List Byte) (env : Env) (held : Option Nat)
  /-- WRITE_ZEROES (R513). -/
  | writeZeroes (c q : Nat) (sqe : List Byte) (env : Env) (held : Option Nat)
  /-- DATASET_MANAGEMENT (R513). -/
  | datasetManagement (c q : Nat) (sqe : List Byte) (env : Env) (held : Option Nat)
  /-- BACKING_COMPLETE (R520). -/
  | backingComplete (id status : Nat) (bytes : List Byte)
  /-- JOURNAL_REPLAY (R522). -/
  | journalReplay (p : Nat) (j0 j1 : Option (List (List Byte))) (blocks : List (Nat × Nat × List Byte))
  /-- POOL_MEMBER_FAIL (R535). -/
  | poolMemberFail (p m cause : Nat)
  /-- POOL_REBUILD_DONE (R536). -/
  | poolRebuildDone (p : Nat)
  /-- NS_NOT_READY (R537). -/
  | nsNotReady (n : Nat)
  /-- NS_READY (R537). -/
  | nsReady (n : Nat)
  /-- STORAGE_CAPSULE (R539). -/
  | storageCapsule (c : Nat) (bytes : List Byte)
  /-- CTRL_CREATE (R540). -/
  | ctrlCreate (sl : Nat) (cmd : List Byte)
  /-- CTRL_DESTROY (R540). -/
  | ctrlDestroy (sl : Nat) (cmd : List Byte)
  /-- CTRL_QUERY (R540). -/
  | ctrlQuery (sl : Nat) (cmd : List Byte) (env : Env)
  /-- POOL_CREATE (R540). -/
  | poolCreate (sl : Nat) (cmd : List Byte) (d0 d1 : Option Nat)
  /-- POOL_DESTROY (R540). -/
  | poolDestroy (sl : Nat) (cmd : List Byte)
  /-- POOL_REBUILD (R536). -/
  | poolRebuild (sl : Nat) (cmd : List Byte) (d : Option Nat)
  /-- POOL_QUERY (R540). -/
  | poolQuery (sl : Nat) (cmd : List Byte)
  /-- NS_CREATE (R518). -/
  | nsCreate (sl : Nat) (cmd : List Byte) (d : Option (List Nat))
  /-- NS_DESTROY (R540). -/
  | nsDestroy (sl : Nat) (cmd : List Byte)
  /-- NS_ATTACH (R516). -/
  | nsAttach (sl : Nat) (cmd : List Byte)
  /-- NS_DETACH (R516). -/
  | nsDetach (sl : Nat) (cmd : List Byte)
  /-- NS_MODIFY (R537). -/
  | nsModify (sl : Nat) (cmd : List Byte)
  /-- NS_QUERY (R540). -/
  | nsQuery (sl : Nat) (cmd : List Byte)
  /-- CH_PUT (R556). -/
  | chPut (t n rs1 rs2 f7 : Nat)
  /-- CH_RECV (R561). -/
  | chRecv (t n rs1 : Nat) (addr : Option Nat) (f7 deadline : Nat)
  /-- CH_WAIT (R560). -/
  | chWait (t n rs1 rs2f f7 deadline : Nat)
  /-- CH_ABORT (R557). -/
  | chAbort (t n rs1 rs2f f7 : Nat)
  /-- CH_TIMER (R565). -/
  | chTimer (t n rs1 rs2 f7 : Nat)
  /-- CH_INFO (R560). -/
  | chInfo (t n rs1 rs2f f7 : Nat)
  /-- CHANNEL_UNBLOCK (R562). -/
  | channelUnblock (t n : Nat)
  /-- CHANNEL_DEADLINE (R562). -/
  | channelDeadline (t n : Nat)
  /-- THREAD_TIMER_EXPIRE (R565). -/
  | threadTimerExpire (t n k : Nat)
  /-- TH_HALT (R564). -/
  | thHalt (req : Requester) (be t n : Nat) (v : W32)
  /-- TH_RESUME (R569). -/
  | thResume (req : Requester) (be t n : Nat) (v : W32)
  /-- TH_RESET (R571). -/
  | thReset (req : Requester) (be t n : Nat) (v : W32)
  /-- TH_CANCEL (R563). -/
  | thCancel (req : Requester) (be t n : Nat) (v : W32)
  /-- TH_WAKE (R563). -/
  | thWake (req : Requester) (be t n : Nat) (v : W32)
  /-- THREAD_CONTEXT_WRITE (R550). -/
  | threadContextWrite (req : Requester) (be t n k : Nat) (v : W32)
  /-- TH_GROUP_WRITE (R572). -/
  | thGroupWrite (req : Requester) (be t n : Nat) (v : W32)
  /-- PORT_SEL_WRITE (R575). -/
  | portSelWrite (req : Requester) (be t : Nat) (v : W32)
  /-- PORT_APPLY (R553). -/
  | portApply (req : Requester) (be t : Nat) (v : W32)
  /-- DMA_REQUEST (R567). -/
  | dmaRequest (t : Nat)
  /-- DMA_COMPLETE (R567). -/
  | dmaComplete (t : Nat) (env : Env)
  /-- THREAD_FAULT (R568). -/
  | threadFault (t n mode cause xcause xepc xtval : Nat)
  /-- FAULT_RECORD_POST (R569). -/
  | faultRecordPost (t : Nat)
  /-- STANDSTILL (R573). -/
  | standstill (t g : Nat)
  /-- DBG_HALT (R574). -/
  | dbgHalt (req : Requester) (be t : Nat) (v : W32)
  /-- DBG_RESUME (R574). -/
  | dbgResume (req : Requester) (be t : Nat) (v : W32)
  /-- DBG_STEP (R574). -/
  | dbgStep (req : Requester) (be t : Nat) (v : W32) (pc : Nat)
  /-- DBG_RD_REG (R574). -/
  | dbgRdReg (req : Requester) (be t : Nat) (v : W32)
  /-- DBG_WR_REG (R574). -/
  | dbgWrReg (req : Requester) (be t : Nat) (v : W32)
  /-- DBG_RD_MEM (R574). -/
  | dbgRdMem (req : Requester) (be t : Nat) (v : W32) (pa : Option Nat)
  /-- DBG_WR_MEM (R574). -/
  | dbgWrMem (req : Requester) (be t : Nat) (v : W32) (pa : Option Nat)
  /-- ABANDON (R558). -/
  | abandon (req : Requester) (be t : Nat) (v : W32)
  /-- DBG_RESET (R574). -/
  | dbgReset (req : Requester) (be t : Nat) (v : W32)
  /-- BP_SET (R574). -/
  | bpSet (req : Requester) (be t : Nat) (v : W32)
  /-- BP_CLR (R574). -/
  | bpClr (req : Requester) (be t : Nat) (v : W32)
  /-- BREAKPOINT_HIT (R574). -/
  | breakpointHit (t n pc : Nat)
  /-- TILLER_RELEASE (R549). -/
  | tillerRelease (t role : Nat)
  /-- HEARTBEAT (R581). -/
  | heartbeat (u : Nat)
  /-- HEARTBEAT_TIMEOUT (R581). -/
  | heartbeatTimeout (u : Nat)
  /-- MACHINE_CHECK (R580). -/
  | machineCheck (u : Nat) (what : List Nat)
  /-- TAKEOVER_COMPLETE (R588). -/
  | takeoverComplete (kind role : Nat) (bad : List Nat)
  /-- FENCE (R582). -/
  | fence (req : Requester) (be : Nat) (v : W32)
  /-- READMIT (R597). -/
  | readmit (req : Requester) (be : Nat) (v : W32)
  /-- AUTO_READMIT (R597). -/
  | autoReadmit (u : Nat)
  /-- RETIRE (R597). -/
  | retire (req : Requester) (be : Nat) (v : W32)
  /-- HANDOVER (R603). -/
  | handover (req : Requester) (be : Nat) (v : W32)
  /-- HANDOVER_END (R603). -/
  | handoverEnd
  /-- ROLLING_UPDATE_STEP (R604). -/
  | rollingUpdateStep
  /-- SELF_TEST_DONE (R597). -/
  | selfTestDone (u outcome : Nat)
  /-- GM_LOSE (R600). -/
  | gmLose (req : Requester) (be c : Nat) (v : W32)
  /-- CONTROLLER_LOST (R600). -/
  | controllerLost (c cause : Nat)
  /-- GM_RETRAIN (R601). -/
  | gmRetrain (req : Requester) (be c : Nat) (v : W32) (ok : Bool)
  /-- RESYNC_COMPLETE (R601). -/
  | resyncComplete (c : Nat)
  /-- GUARDED_READ_FIX (R600). -/
  | guardedReadFix (c : Nat)
  /-- EVENT_DELIVER (R614). -/
  | eventDeliver
  /-- RATE_LIMIT_WINDOW (R688). -/
  | rateLimitWindow (src key : Nat)
  /-- TM_RING_BIND (R621). -/
  | tmRingBind (req : Requester) (be r : Nat) (v : W32)
  /-- HITARR_WRITE (R618). -/
  | hitarrWrite (req : Requester) (be p t : Nat) (v : W32)
  /-- INFO (R661). -/
  | info (req : Requester) (be : Nat) (v : W32)
  /-- LOG_READ (R661). -/
  | logRead (req : Requester) (be : Nat) (v : W32) (env : Env)
  /-- BIND_MGMT (R640). -/
  | bindMgmt (req : Requester) (be : Nat) (v : W32)
  /-- FW_BEGIN (R654). -/
  | fwBegin (req : Requester) (be : Nat) (v : W32)
  /-- FW_WRITE (R654). -/
  | fwWrite (req : Requester) (be : Nat) (v : W32) (env : Env)
  /-- FW_VERIFY (R653). -/
  | fwVerify (req : Requester) (be : Nat) (v : W32)
  /-- FW_ACTIVATE (R654). -/
  | fwActivate (req : Requester) (be : Nat) (v : W32)
  /-- FW_COMMIT (R655). -/
  | fwCommit (req : Requester) (be : Nat) (v : W32)
  /-- FW_REVERT (R654). -/
  | fwRevert (req : Requester) (be : Nat) (v : W32)
  /-- STAIR_PROBE (R661). -/
  | stairProbe (req : Requester) (be : Nat) (v : W32) (env : Env)
  /-- OZ_KEY_ERASE (R661). -/
  | ozKeyErase (req : Requester) (be : Nat) (v : W32)
  /-- LC_TRANSITION (R658). -/
  | lcTransition (req : Requester) (be : Nat) (v : W32) (env : Env)
  /-- BCR_WRITE (R651). -/
  | bcrWrite (req : Requester) (be : Nat) (v : W32) (env : Env)
  /-- OZ_RESTART (R656). -/
  | ozRestart (req : Requester) (be : Nat) (v : W32)
  /-- NONCE (R659). -/
  | nonce (req : Requester) (be : Nat) (v : W32)
  /-- DEBUG_OPEN (R659). -/
  | debugOpen (req : Requester) (be : Nat) (v : W32) (env : Env)
  /-- DEBUG_CLOSE (R659). -/
  | debugClose (req : Requester) (be : Nat) (v : W32)
  /-- DEBUG_EXPIRY (R659). -/
  | debugExpiry
  /-- MCTP_MESSAGE (R639). -/
  | mctpMessage (iface : Nat) (m : MgmtMsg)
  /-- MGMT_FRAME_RECEIVE (R640). -/
  | mgmtFrameReceive (bytes : List Byte) (good : Bool)
  /-- MGMT_FRAME_SEND (R640). -/
  | mgmtFrameSend (addr len : Nat)
  /-- PMBUS_POLL (R641). -/
  | pmbusPoll (rail : Nat) (status : Option Nat)
  /-- SUPPLY_DIP (R644). -/
  | supplyDip (rail : Nat) (mvs : List Nat)
  /-- SUPPLY_CLEAR (R644). -/
  | supplyClear (rail : Nat) (ends : RailEnd)
  /-- THROTTLE_RELEASE (R644). -/
  | throttleRelease
  /-- UNSTABLE_END (R645). -/
  | unstableEnd
  /-- SUPPLY_RESET (R646). -/
  | supplyReset (read : RailRead)
  /-- SUPPLY_RESET_END (R668). -/
  | supplyResetEnd (pins : PowerPins)
  /-- THERMAL_LEVEL (R648). -/
  | thermalLevel (sensor : Nat) (reading : Int)
  /-- LOG_MIRROR (R650). -/
  | logMirror
  /-- OZELM_FAULT (R638). -/
  | ozelmFault (cause : Nat)
  /-- OZELM_RESTART_DONE (R656). -/
  | ozelmRestartDone
  /-- POWER_GOOD (R677). -/
  | powerGood (bifs clks perst : List Nat) (flash : List (Nat × List Byte))
  /-- POWER_GOOD_DEASSERT (R667). -/
  | powerGoodDeassert
  /-- PLL_LOCK_TIMEOUT (R675). -/
  | pllLockTimeout
  /-- STARTUP_STAGE (R677). -/
  | startupStage (r : BootRes)
  /-- CLOCK_MONITOR_EXCURSION (R663). -/
  | clockMonitorExcursion (monitor : Nat) (ppm : Int)
  /-- RP_ERROR_MESSAGE (R140). -/
  | rpErrorMessage (p bit sev : Nat)
deriving DecidableEq, Repr

end Sys2Proof
end

