-- ==== Sys2Proof/Config.lean ====
section
/-! DEFINITION. Config.lean: what one implementation fixes and the spec does not state. Each constant is opaque: no
proof sees a value of it, so a claim holds whatever it is. -/

namespace Sys2Proof

/-- The free values: where the spec leaves a value or a choice open, the model takes the next of this sequence
(State.draws counts them). Log entry 2. -/
opaque Config.freeValue : Nat → Nat

/-- The unique device identifier of the fuses (R661 INFO), as a number of 128 bits. Log entry 3. -/
opaque Config.deviceId : Nat

/-- The AES-256 key wrap KW of SP 800-38F (R436), as an uninterpreted function of the wrapping key and the plain bytes;
the spec names the standard and does not restate it. Log entry 4. -/
opaque Config.wrapKey : Nat → List Byte → List Byte
/-- The inverse of `wrapKey`: none when the integrity check fails. Log entry 4. -/
opaque Config.unwrapKey : Nat → List Byte → Option (List Byte)
/-- AES-256-GCM encryption: key, 12-byte nonce, additional data, text; the cipher text followed by the 16-byte tag.
Log entry 4. -/
opaque Config.gcmEnc : Nat → List Byte → List Byte → List Byte → List Byte
/-- AES-256-GCM verification and decryption: none when the tag does not verify. Log entry 4. -/
opaque Config.gcmDec : Nat → List Byte → List Byte → List Byte → Option (List Byte)
/-- AES-256-XTS over one data unit: key, tweak, text (encryption). Log entry 4. -/
opaque Config.xtsEnc : Nat → List Byte → List Byte → List Byte
/-- AES-256-XTS decryption. Log entry 4. -/
opaque Config.xtsDec : Nat → List Byte → List Byte → List Byte
/-- The key-derivation function of R438, of the slot's key and the derivation inputs. Log entry 4. -/
opaque Config.deriveKey : Nat → List Byte → Nat
/-- SHA-384 of a byte string, as its 48 bytes. Log entry 4. -/
opaque Config.sha384 : List Byte → List Byte
/-- SHA-256 of a byte string, as its 32 bytes. Log entry 4. -/
opaque Config.sha256 : List Byte → List Byte
/-- ECDSA P-384 verification: public key, message, signature r and s. Log entry 4. -/
opaque Config.ecdsaOk : List Byte → List Byte → List Byte → List Byte → Bool

/-- The fused hashes of the vendor keys 0 to 3 (R653), and the keys that are revoked. Log entry 3. -/
opaque Config.vendorHash : Nat → List Byte
opaque Config.vendorRevoked : Nat → Bool
/-- How many gallery pages slice 0 owns (R209 gives it none of its own); log entry 11. -/
opaque Config.ownerPages : Nat
/-- MiB of guarded and of bulk data in the device's reserved regions (R219), by the density code of GL_CAP. Log entry 12. -/
opaque Config.gmGuarded : Nat → Nat
opaque Config.gmBulk : Nat → Nat
/-- The controller pair that holds a guarded datum, by its kind, its object and its place. Log entry 12. -/
opaque Config.gmHome : Nat → Nat → Nat → Nat
/-- The Device ID of the root ports (R141 lays their configuration space out by the standard). Log entry 20. -/
opaque Config.rpDevice : Nat
/-- The ASCII device serial (R511). Log entry 3. -/
opaque Config.serial : List Byte
/-- The UUID that Identify gives a namespace (R513, CNS 0x03), as a number of 128 bits. Log entry 3. -/
opaque Config.nsUuid : Nat → Nat
/-- The version of the ROM (SPDM measurement 1). Log entry 3. -/
opaque Config.romVersion : List Byte

end Sys2Proof
end

