-- ==== Sys2Proof/Machine/Operands.lean ====
section
/-! DEFINITION. Machine/Operands.lean: bit fields, byte strings and check sums: how a field is read from and placed
into a word, the little-endian layout of in-memory structures (R1), the network order of wire headers (R2), and the
cyclic redundancy checks the spec names. -/

namespace Sys2Proof.Machine

/-- The field of `w` bits of `x` whose lowest bit is `lo`. -/
def fld (x lo w : Nat) : Nat := (x >>> lo) % 2 ^ w

/-- `x` with the field of `w` bits at `lo` replaced by `v` (taken modulo `2 ^ w`). -/
def putFld (x lo w v : Nat) : Nat := x - fld x lo w * 2 ^ lo + (v % 2 ^ w) * 2 ^ lo

/-- One bit as a number. -/
def b2n (b : Bool) : Nat := if b then 1 else 0

/-- The numeric value of a field of a register. -/
def rfld (r : W32) (lo w : Nat) : Nat := fld r.toNat lo w

/-- Whether bit `i` of a register is set. -/
def rbit (r : W32) (i : Nat) : Bool := r.toNat.testBit i

/-- A register with one field replaced. -/
def rput (r : W32) (lo w v : Nat) : W32 := BitVec.ofNat 32 (putFld r.toNat lo w v)

/-- The two's-complement reading of a `w`-bit number. -/
def signed (w x : Nat) : Int :=
  let y := x % 2 ^ w
  if y < 2 ^ (w - 1) then (y : Int) else (y : Int) - (2 ^ w : Nat)

/-- The `w`-bit two's-complement pattern of an integer. -/
def unsign (w : Nat) (x : Int) : Nat := (x % ((2 ^ w : Nat) : Int)).toNat

/-- `n` bytes of `x`, least significant first (R1). -/
def le : Nat → Nat → List Byte
  | 0, _ => []
  | n + 1, x => BitVec.ofNat 8 x :: le n (x / 256)

/-- The number whose little-endian bytes are given. -/
def ofLe : List Byte → Nat
  | [] => 0
  | b :: bs => b.toNat + 256 * ofLe bs

/-- `n` bytes of `x`, most significant first (R2). -/
def be (n x : Nat) : List Byte := (le n x).reverse

/-- The number whose big-endian bytes are given. -/
def ofBe (bs : List Byte) : Nat := ofLe bs.reverse

/-- `n` bytes from offset `o`; bytes beyond the end read zero. -/
def slice (bs : List Byte) (o n : Nat) : List Byte :=
  let got := (bs.drop o).take n
  got ++ List.replicate (n - got.length) 0

/-- The little-endian number in `n` bytes at offset `o`. -/
def leAt (bs : List Byte) (o n : Nat) : Nat := ofLe (slice bs o n)

/-- The big-endian number in `n` bytes at offset `o`. -/
def beAt (bs : List Byte) (o n : Nat) : Nat := ofBe (slice bs o n)

/-- The bytes with those from offset `o` overwritten; what would lie beyond the end is not written. -/
def patch (bs : List Byte) (o : Nat) (new : List Byte) : List Byte :=
  let new' := new.take (bs.length - o)
  bs.take o ++ new' ++ bs.drop (o + new'.length)

/-- The list padded with zeros, or cut, to `n` bytes. -/
def fit (n : Nat) (bs : List Byte) : List Byte := slice bs 0 n

/-- Assembles a structure of `n` bytes from fields given as byte offset, first bit within the word at that offset,
width in bits, and value: each field is placed at bit `8 * offset + first`. -/
def pack (n : Nat) (fs : List (Nat × Nat × Nat × Nat)) : List Byte :=
  le n (fs.foldl (fun acc f => putFld acc (8 * f.1 + f.2.1) f.2.2.1 f.2.2.2) 0)

/-- One bit step of a reflected CRC. -/
def crcBits (poly : Nat) : Nat → Nat → Nat
  | 0, c => c
  | k + 1, c => crcBits poly k (if c % 2 = 1 then (c / 2) ^^^ poly else c / 2)

/-- CRC32C over bytes, from a running value, without the initial and final inversion. -/
def crc32cRaw (init : Nat) (bs : List Byte) : Nat :=
  bs.foldl (fun c b => crcBits 0x82F63B78 8 (c ^^^ b.toNat)) init

/-- CRC32C with initial value and final exclusive-or 0xFFFF_FFFF. -/
def crc32c (bs : List Byte) : Nat := crc32cRaw 0xFFFFFFFF bs ^^^ 0xFFFFFFFF

/-- The frame check sequence of an Ethernet frame, and the frame as it stands on the line: preamble with start-of-frame delimiter,
the bytes, the FCS (R154). The polynomial and the order of the FCS are those of IEEE 802.3 (PRESUMED, log entry 17). -/
def fcs32 (bs : List Byte) : Nat := bs.foldl (fun c b => crcBits 0xEDB88320 8 (c ^^^ b.toNat)) 0xFFFFFFFF ^^^ 0xFFFFFFFF
def lineFrame (bs : List Byte) : List Byte := List.replicate 7 0x55 ++ [0xD5] ++ bs ++ le 4 (fcs32 bs)

/-- One bit step of CRC-16 with polynomial 0x1021, most significant bit first. -/
def crc16Bits : Nat → Nat → Nat
  | 0, c => c
  | k + 1, c => crc16Bits k (if c / 0x8000 % 2 = 1 then (c * 2 % 0x10000) ^^^ 0x1021 else c * 2 % 0x10000)

/-- CRC-16 of R649: polynomial 0x1021, initial value 0xFFFF, no final exclusive-or. -/
def crc16 (bs : List Byte) : Nat :=
  bs.foldl (fun c b => crc16Bits 8 (c ^^^ (b.toNat * 256))) 0xFFFF

/-- Sum of the 16-bit big-endian words of a byte string, an odd last byte padded with zero. -/
def sum16 : List Byte → Nat
  | [] => 0
  | [a] => a.toNat * 256
  | a :: b :: bs => a.toNat * 256 + b.toNat + sum16 bs

/-- Folding a sum into 16 bits with end-around carry (enough rounds for any frame). -/
def fold16 (x : Nat) : Nat :=
  let y := x / 0x10000 + x % 0x10000
  let z := y / 0x10000 + y % 0x10000
  z / 0x10000 + z % 0x10000

/-- The Internet check sum: the ones' complement of the ones'-complement sum. -/
def inetCsum (bs : List Byte) : Nat := 0xFFFF - fold16 (sum16 bs)

/-- A word with writable and clearable fields takes a value. -/
def mergeWord (old rw w1c v : Nat) : Nat :=
  (((old &&& (0xFFFFFFFF ^^^ rw)) ||| (v &&& rw)) &&& (0xFFFFFFFF ^^^ (v &&& w1c))) &&& 0xFFFFFFFF

/-- Whether `n` is a power of two from `lo` to `hi`, both given as exponents. -/
def pow2In (n lo hi : Nat) : Bool := (List.range (hi + 1)).any (fun k => lo ≤ k && n == 2 ^ k)

/-- The base-2 logarithm, rounded down (0 for 0). -/
def log2 (n : Nat) : Nat := Nat.log2 n

def ceilDiv (a b : Nat) : Nat := (a + b - 1) / b

end Sys2Proof.Machine
end

