-- ==== Sys2Proof/Machine/RegMap.lean ====
section
/-! DEFINITION. Machine/RegMap.lean: the register maps of the spec, one row per register (array), taken from the
register tables of the chapters: byte offset, index strides, the bits of each access code (R3), the reset value (R6),
whether the register is a Counter with a snapshot copy (R81), its part in a LO/HI pair (R65, R66) and whether it is
guarded (R78). Offsets below 0x0400_0000 are those of the owner's BAR0/1 (R61). Two further ranges hold the slice
control blocks (R213, 0x1000_0000 + 0x80 * slice) and the cipher lanes (R447, 0x2000_0000 + 0x1000 * slice +
0x100 * lane). -/

namespace Sys2Proof.Machine

/-- One row of a register map. -/
structure RegDef where
  name    : String
  base    : Nat
  dims    : List (Nat × Nat)
  rw      : Nat
  w1c     : Nat
  wo      : Nat
  rc      : Bool
  reset   : Nat
  counter : Bool
  pair    : Nat
  guarded : Bool
deriving DecidableEq, Repr

/-- Whether `off` is one of the addresses `Σ strideₖ · iₖ` with `iₖ` below each count, outermost stride first. -/
def dimsHit : List (Nat × Nat) → Nat → Bool
  | [], off => off == 0
  | (st, n) :: ds, off =>
    let i := off / st
    if i < n then dimsHit ds (off - i * st) else false

def RegDef.hit (d : RegDef) (off : Nat) : Bool := d.base ≤ off && dimsHit d.dims (off - d.base)

abbrev Reg.GL_ID : Nat := 0x0
abbrev Reg.GL_CAP : Nat := 0x4
abbrev Reg.GL_DEVICE_READY : Nat := 0x8
abbrev Reg.GL_BOOT_STAGE : Nat := 0xc
abbrev Reg.GL_UNLOCK : Nat := 0x10
abbrev Reg.GL_UNLOCK_STATUS : Nat := 0x14
abbrev Reg.GL_ERR_STATUS : Nat := 0x18
abbrev Reg.GL_ERR_ADDR : Nat := 0x1c
abbrev Reg.GL_SNAP_MASK_LO : Nat := 0x20
abbrev Reg.GL_SNAP_MASK_HI : Nat := 0x24
abbrev Reg.GL_SNAP_CMD : Nat := 0x28
abbrev Reg.GL_SNAP_GEN : Nat := 0x2c
abbrev Reg.GL_SNAP_AT_LO : Nat := 0x30
abbrev Reg.GL_SNAP_AT_HI : Nat := 0x34
abbrev Reg.GL_SNAP_AT_CTL : Nat := 0x38
abbrev Reg.GL_SNAP_TIME_LO : Nat := 0x40
abbrev Reg.GL_SNAP_TIME_HI : Nat := 0x44
abbrev Reg.GL_RESET_CTL : Nat := 0x50
abbrev Reg.GL_SCRATCH (a : Nat) : Nat := 0x60 + 0x4 * a
abbrev Reg.FT_NOW_LO : Nat := 0x100000
abbrev Reg.FT_NOW_HI : Nat := 0x100004
abbrev Reg.FT_NOW_FRAC : Nat := 0x100008
abbrev Reg.FT_SRC_CTL : Nat := 0x100010
abbrev Reg.FT_STATUS : Nat := 0x100014
abbrev Reg.FT_STEP_GEN : Nat := 0x100018
abbrev Reg.FT_FREQ_ADJ : Nat := 0x100020
abbrev Reg.FT_SERVO_GAIN : Nat := 0x100024
abbrev Reg.FT_LOCK_THRESH : Nat := 0x100028
abbrev Reg.FT_HOLD_TIMEOUT : Nat := 0x10002c
abbrev Reg.FT_ALARM_THRESH : Nat := 0x100030
abbrev Reg.FT_PHASE_IN_LO : Nat := 0x100038
abbrev Reg.FT_PHASE_IN_HI : Nat := 0x10003c
abbrev Reg.FT_PTM_OFFSET_LO : Nat := 0x100040
abbrev Reg.FT_PTM_OFFSET_HI : Nat := 0x100044
abbrev Reg.FT_PTM_INTERVAL : Nat := 0x100048
abbrev Reg.FT_STEP_VAL_LO : Nat := 0x100050
abbrev Reg.FT_STEP_VAL_HI : Nat := 0x100054
abbrev Reg.FT_STEP_CTL : Nat := 0x100058
abbrev Reg.FT_HOLD_TIME_LO : Nat := 0x100060
abbrev Reg.FT_HOLD_TIME_HI : Nat := 0x100064
abbrev Reg.FT_PPS_CTL : Nat := 0x100068
abbrev Reg.FT_PPS_IN_TS_LO : Nat := 0x100070
abbrev Reg.FT_PPS_IN_TS_HI : Nat := 0x100074
abbrev Reg.FT_EPOCH_PERIOD_LO : Nat := 0x100078
abbrev Reg.FT_EPOCH_PERIOD_HI : Nat := 0x10007c
abbrev Reg.FT_EPOCH_ORIGIN_LO : Nat := 0x100080
abbrev Reg.FT_EPOCH_ORIGIN_HI : Nat := 0x100084
abbrev Reg.FT_DEP_USED : Nat := 0x100088
abbrev Reg.FT_DEP_HWM : Nat := 0x10008c
abbrev Reg.FT_LATE_CNT : Nat := 0x100090
abbrev Reg.FT_RACT_TIME_LO (a : Nat) : Nat := 0x110000 + 0x10 * a
abbrev Reg.FT_RACT_TIME_HI (a : Nat) : Nat := 0x110004 + 0x10 * a
abbrev Reg.FT_RACT_CTL (a : Nat) : Nat := 0x110008 + 0x10 * a
abbrev Reg.FT_RACT_DATA (a : Nat) : Nat := 0x11000c + 0x10 * a
abbrev Reg.OZ_STATUS : Nat := 0x200000
abbrev Reg.OZ_RESET_CAUSE : Nat := 0x200004
abbrev Reg.OZ_SVN : Nat := 0x200008
abbrev Reg.OZ_IMAGE : Nat := 0x20000c
abbrev Reg.OZ_BOOT_CNT : Nat := 0x200010
abbrev Reg.OZ_TEMP_MAX : Nat := 0x200014
abbrev Reg.OZ_TEMP_HWM : Nat := 0x200018
abbrev Reg.OZ_DIP_CNT : Nat := 0x20001c
abbrev Reg.OZ_LOG_LOST_CNT : Nat := 0x200020
abbrev Reg.OZ_LOG_NEXT : Nat := 0x200024
abbrev Reg.OZ_SLICE_SEL : Nat := 0x210000
abbrev Reg.OZ_EV_ROUTE (a : Nat) : Nat := 0x220000 + 0x4 * a
abbrev Reg.OZ_EV_DEST (a : Nat) : Nat := 0x230000 + 0x4 * a
abbrev Reg.OZ_EV_UNDELIV_CNT : Nat := 0x230040
abbrev Reg.OZ_EV_LOST_CNT : Nat := 0x230044
abbrev Reg.OZ_EV_QUEUED : Nat := 0x230048
abbrev Reg.OZ_MB_CMD : Nat := 0x240000
abbrev Reg.OZ_MB_STATUS : Nat := 0x240004
abbrev Reg.OZ_MB_ARG (a : Nat) : Nat := 0x240010 + 0x4 * a
abbrev Reg.OZ_MB_RES (a : Nat) : Nat := 0x240040 + 0x4 * a
abbrev Reg.MS_UNIT_W0 (a : Nat) : Nat := 0x300000 + 0x8 * a
abbrev Reg.MS_UNIT_W1 (a : Nat) : Nat := 0x300004 + 0x8 * a
abbrev Reg.MS_UNIT_CMD : Nat := 0x300800
abbrev Reg.MS_TAKEOVER_NS : Nat := 0x300808
abbrev Reg.MS_HANDOVER_LIMIT : Nat := 0x30080c
abbrev Reg.MS_READMIT_CTL : Nat := 0x300810
abbrev Reg.MS_STALE_SRC_CNT : Nat := 0x300820
abbrev Reg.MS_STALE_DST_CNT : Nat := 0x300824
abbrev Reg.MS_TAKEOVER_CNT : Nat := 0x300828
abbrev Reg.MS_ENTRY_DROP_CNT : Nat := 0x30082c
abbrev Reg.MS_NOSPARE_DROP_CNT : Nat := 0x300830
abbrev Reg.MS_COPY_ERR_CNT : Nat := 0x300834
abbrev Reg.HF_FACE_STATUS (a : Nat) : Nat := 0x400000 + 0x100000 * a
abbrev Reg.HF_MSIX_USED (a : Nat) : Nat := 0x400004 + 0x100000 * a
abbrev Reg.HF_LINK_STATUS (a b : Nat) : Nat := 0x410000 + 0x100000 * a + 0x10000 * b
abbrev Reg.HF_LTR (a b : Nat) : Nat := 0x410004 + 0x100000 * a + 0x10000 * b
abbrev Reg.HF_TAG_POOL (a b : Nat) : Nat := 0x410008 + 0x100000 * a + 0x10000 * b
abbrev Reg.HF_TAG_INUSE (a b : Nat) : Nat := 0x41000c + 0x100000 * a + 0x10000 * b
abbrev Reg.HF_TAG_QUAR (a b : Nat) : Nat := 0x410010 + 0x100000 * a + 0x10000 * b
abbrev Reg.HF_CPL_TIMEOUT_CNT (a b : Nat) : Nat := 0x410014 + 0x100000 * a + 0x10000 * b
abbrev Reg.HF_LATE_CPL_CNT (a b : Nat) : Nat := 0x410018 + 0x100000 * a + 0x10000 * b
abbrev Reg.HF_STALL_DROP_CNT (a b : Nat) : Nat := 0x41001c + 0x100000 * a + 0x10000 * b
abbrev Reg.HF_UR_IN_CNT (a b : Nat) : Nat := 0x410020 + 0x100000 * a + 0x10000 * b
abbrev Reg.HF_FN_SEL (a : Nat) : Nat := 0x450000 + 0x100000 * a
abbrev Reg.HF_FN_STATUS (a : Nat) : Nat := 0x450004 + 0x100000 * a
abbrev Reg.HF_FN_CFG (a : Nat) : Nat := 0x450008 + 0x100000 * a
abbrev Reg.HF_FN_TAG_MAX (a : Nat) : Nat := 0x45000c + 0x100000 * a
abbrev Reg.HF_FN_CFG_STATUS (a : Nat) : Nat := 0x450010 + 0x100000 * a
abbrev Reg.HF_WIN_SWAP (a : Nat) : Nat := 0x450020 + 0x100000 * a
abbrev Reg.HF_WIN_GEN (a : Nat) : Nat := 0x450024 + 0x100000 * a
abbrev Reg.HF_WIN_OLD_DRAINED (a : Nat) : Nat := 0x450028 + 0x100000 * a
abbrev Reg.HF_WIN_UR_CNT (a : Nat) : Nat := 0x45002c + 0x100000 * a
abbrev Reg.RP_CTL (a : Nat) : Nat := 0x801000 + 0x10000 * a
abbrev Reg.RP_STATUS (a : Nat) : Nat := 0x801004 + 0x10000 * a
abbrev Reg.RP_DCFG_ADDR (a : Nat) : Nat := 0x801008 + 0x10000 * a
abbrev Reg.RP_DCFG_DATA (a : Nat) : Nat := 0x80100c + 0x10000 * a
abbrev Reg.RP_DCFG_CMD (a : Nat) : Nat := 0x801010 + 0x10000 * a
abbrev Reg.RP_DCFG_STATUS (a : Nat) : Nat := 0x801014 + 0x10000 * a
abbrev Reg.RP_SLOT_CFG (a : Nat) : Nat := 0x801018 + 0x10000 * a
abbrev Reg.RP_SURPRISE_CNT (a : Nat) : Nat := 0x801030 + 0x10000 * a
abbrev Reg.RP_PWRFLT_CNT (a : Nat) : Nat := 0x801034 + 0x10000 * a
abbrev Reg.RP_ABORT_CNT (a : Nat) : Nat := 0x801038 + 0x10000 * a
abbrev Reg.RP_MERGE : Nat := 0x801020
abbrev Reg.EN_PG_CTL (a : Nat) : Nat := 0x900000 + 0x100000 * a
abbrev Reg.EN_PG_STATUS (a : Nat) : Nat := 0x900004 + 0x100000 * a
abbrev Reg.EN_RCLK_CTL (a : Nat) : Nat := 0x900008 + 0x100000 * a
abbrev Reg.EN_LANE_CTL (a b : Nat) : Nat := 0x950000 + 0x100000 * a + 0x1000 * b
abbrev Reg.EN_LANE_STATUS (a b : Nat) : Nat := 0x950004 + 0x100000 * a + 0x1000 * b
abbrev Reg.EN_PORT_CTL (a b : Nat) : Nat := 0x910000 + 0x100000 * a + 0x10000 * b
abbrev Reg.EN_PORT_STATUS (a b : Nat) : Nat := 0x910004 + 0x100000 * a + 0x10000 * b
abbrev Reg.EN_PORT_MAXFRAME (a b : Nat) : Nat := 0x910008 + 0x100000 * a + 0x10000 * b
abbrev Reg.EN_PORT_DEBOUNCE (a b : Nat) : Nat := 0x91000c + 0x100000 * a + 0x10000 * b
abbrev Reg.EN_PORT_MAC_LO (a b : Nat) : Nat := 0x910010 + 0x100000 * a + 0x10000 * b
abbrev Reg.EN_PORT_MAC_HI (a b : Nat) : Nat := 0x910014 + 0x100000 * a + 0x10000 * b
abbrev Reg.EN_PFC_CTL (a b : Nat) : Nat := 0x910018 + 0x100000 * a + 0x10000 * b
abbrev Reg.EN_PFC_QUANTA (a b : Nat) : Nat := 0x91001c + 0x100000 * a + 0x10000 * b
abbrev Reg.EN_PFC_REFRESH (a b : Nat) : Nat := 0x910020 + 0x100000 * a + 0x10000 * b
abbrev Reg.EN_PRI2CLASS (a b : Nat) : Nat := 0x910024 + 0x100000 * a + 0x10000 * b
abbrev Reg.EN_PFC_WATCHDOG (a b : Nat) : Nat := 0x910028 + 0x100000 * a + 0x10000 * b
abbrev Reg.EN_FEC_DEGRADE (a b : Nat) : Nat := 0x91002c + 0x100000 * a + 0x10000 * b
abbrev Reg.EN_TS_FIFO_W0 (a b : Nat) : Nat := 0x910030 + 0x100000 * a + 0x10000 * b
abbrev Reg.EN_TS_FIFO_W1 (a b : Nat) : Nat := 0x910034 + 0x100000 * a + 0x10000 * b
abbrev Reg.EN_TS_FIFO_W2 (a b : Nat) : Nat := 0x910038 + 0x100000 * a + 0x10000 * b
abbrev Reg.EN_TS_FIFO_W3 (a b : Nat) : Nat := 0x91003c + 0x100000 * a + 0x10000 * b
abbrev Reg.EN_PORT_CNT_LO (a b c : Nat) : Nat := 0x910100 + 0x100000 * a + 0x10000 * b + 0x8 * c
abbrev Reg.EN_PORT_CNT_HI (a b c : Nat) : Nat := 0x910104 + 0x100000 * a + 0x10000 * b + 0x8 * c
abbrev Reg.EN_RX_PFC_CNT (a b c : Nat) : Nat := 0x910200 + 0x100000 * a + 0x10000 * b + 0x4 * c
abbrev Reg.EN_TX_PFC_CNT (a b c : Nat) : Nat := 0x910220 + 0x100000 * a + 0x10000 * b + 0x4 * c
abbrev Reg.STA_PARSE_CMD (a : Nat) : Nat := 0x1101000 + 0x200000 * a
abbrev Reg.STA_PARSE_BANK (a : Nat) : Nat := 0x1101004 + 0x200000 * a
abbrev Reg.STA_PARSE_DATA (a b : Nat) : Nat := 0x1101020 + 0x200000 * a + 0x4 * b
abbrev Reg.STA_PROF_CTL (a b : Nat) : Nat := 0x1101100 + 0x200000 * a + 0x80 * b
abbrev Reg.STA_PROF_DFLT_ACT (a b c : Nat) : Nat := 0x1101110 + 0x200000 * a + 0x80 * b + 0x8 * c
abbrev Reg.STA_PROF_DFLT_TGT (a b c : Nat) : Nat := 0x1101114 + 0x200000 * a + 0x80 * b + 0x8 * c
abbrev Reg.STA_PROF_CNT (a b c : Nat) : Nat := 0x1101140 + 0x200000 * a + 0x80 * b + 0x4 * c
abbrev Reg.STA_PROF_2SLOT_CNT (a b : Nat) : Nat := 0x1101154 + 0x200000 * a + 0x80 * b
abbrev Reg.STA_GLEAN_CTL (a : Nat) : Nat := 0x1101600 + 0x200000 * a
abbrev Reg.STA_GLEAN_USED (a : Nat) : Nat := 0x1101604 + 0x200000 * a
abbrev Reg.STA_GLEAN_INS_CNT (a : Nat) : Nat := 0x1101610 + 0x200000 * a
abbrev Reg.STA_GLEAN_HIT_CNT (a : Nat) : Nat := 0x1101614 + 0x200000 * a
abbrev Reg.STA_GLEAN_PARK_CNT (a : Nat) : Nat := 0x1101618 + 0x200000 * a
abbrev Reg.STA_GLEAN_WAIT_EXP_CNT (a : Nat) : Nat := 0x110161c + 0x200000 * a
abbrev Reg.STA_GLEAN_FULL_CNT (a : Nat) : Nat := 0x1101620 + 0x200000 * a
abbrev Reg.STA_GLEAN_AGED_CNT (a : Nat) : Nat := 0x1101624 + 0x200000 * a
abbrev Reg.STA_GLEAN_PARK_DROP_CNT (a : Nat) : Nat := 0x1101628 + 0x200000 * a
abbrev Reg.STA_PUNT_DROP_CNT (a : Nat) : Nat := 0x110162c + 0x200000 * a
abbrev Reg.STA_TBL_CMD (a : Nat) : Nat := 0x1102000 + 0x200000 * a
abbrev Reg.STA_TBL_STATUS (a : Nat) : Nat := 0x1102004 + 0x200000 * a
abbrev Reg.STA_TBL_INDEX (a : Nat) : Nat := 0x1102008 + 0x200000 * a
abbrev Reg.STA_TBL_RESULT (a : Nat) : Nat := 0x110200c + 0x200000 * a
abbrev Reg.STA_TBL_HDR0 (a : Nat) : Nat := 0x1102010 + 0x200000 * a
abbrev Reg.STA_TBL_HDR1 (a : Nat) : Nat := 0x1102014 + 0x200000 * a
abbrev Reg.STA_TBL_KEY (a b : Nat) : Nat := 0x1102020 + 0x200000 * a + 0x4 * b
abbrev Reg.STA_TBL_MASK (a b : Nat) : Nat := 0x1102080 + 0x200000 * a + 0x4 * b
abbrev Reg.STA_TBL_DATA (a b : Nat) : Nat := 0x11020e0 + 0x200000 * a + 0x4 * b
abbrev Reg.STA_TBL_CFG_STATUS (a : Nat) : Nat := 0x1102100 + 0x200000 * a
abbrev Reg.STA_TBL_CFG (a b c : Nat) : Nat := 0x1102400 + 0x200000 * a + 0x40 * b + 0x4 * c
abbrev Reg.STA_TBL_HIT_CNT_LO (a b : Nat) : Nat := 0x1103400 + 0x200000 * a + 0x10 * b
abbrev Reg.STA_TBL_HIT_CNT_HI (a b : Nat) : Nat := 0x1103404 + 0x200000 * a + 0x10 * b
abbrev Reg.STA_TBL_MISS_CNT_LO (a b : Nat) : Nat := 0x1103408 + 0x200000 * a + 0x10 * b
abbrev Reg.STA_TBL_MISS_CNT_HI (a b : Nat) : Nat := 0x110340c + 0x200000 * a + 0x10 * b
abbrev Reg.STA_TBL_FULL_CNT (a : Nat) : Nat := 0x1103800 + 0x200000 * a
abbrev Reg.STA_TBL_SCRUB_FIX_CNT (a : Nat) : Nat := 0x1103804 + 0x200000 * a
abbrev Reg.STA_TBL_ECC_CNT (a : Nat) : Nat := 0x1103808 + 0x200000 * a
abbrev Reg.STA_DEEP_MISS_CNT (a : Nat) : Nat := 0x110380c + 0x200000 * a
abbrev Reg.STA_DEEP_PARK_DROP_CNT (a : Nat) : Nat := 0x1103810 + 0x200000 * a
abbrev Reg.STA_DEEP_FETCH_ERR_CNT (a : Nat) : Nat := 0x1103814 + 0x200000 * a
abbrev Reg.STA_DEEP_PARKED (a : Nat) : Nat := 0x1103818 + 0x200000 * a
abbrev Reg.STA_L2_CTL (a : Nat) : Nat := 0x1103820 + 0x200000 * a
abbrev Reg.STA_L2_USED (a : Nat) : Nat := 0x1103824 + 0x200000 * a
abbrev Reg.STA_L2_LEARN_CNT (a : Nat) : Nat := 0x1103828 + 0x200000 * a
abbrev Reg.STA_L2_MOVE_CNT (a : Nat) : Nat := 0x110382c + 0x200000 * a
abbrev Reg.STA_L2_STATIC_MOVE_CNT (a : Nat) : Nat := 0x1103830 + 0x200000 * a
abbrev Reg.STA_L2_AGED_CNT (a : Nat) : Nat := 0x1103834 + 0x200000 * a
abbrev Reg.STA_L2_FULL_CNT (a : Nat) : Nat := 0x1103838 + 0x200000 * a
abbrev Reg.STA_L2_LEARN_DROP_CNT (a : Nat) : Nat := 0x110383c + 0x200000 * a
abbrev Reg.STA_TBL_HITARR (a b : Nat) : Nat := 0x1103900 + 0x200000 * a + 0x4 * b
abbrev Reg.STA_TBL_HIT_RANGE_CNT (a : Nat) : Nat := 0x1103840 + 0x200000 * a
abbrev Reg.STA_RET_STATUS (a b : Nat) : Nat := 0x1103a00 + 0x200000 * a + 0x100000 * b
abbrev Reg.STA_RET_MARK (a b : Nat) : Nat := 0x1103a04 + 0x200000 * a + 0x100000 * b
abbrev Reg.STA_RET_PKT_CNT_LO (a b : Nat) : Nat := 0x1103a08 + 0x200000 * a + 0x100000 * b
abbrev Reg.STA_RET_PKT_CNT_HI (a b : Nat) : Nat := 0x1103a0c + 0x200000 * a + 0x100000 * b
abbrev Reg.STA_RET_WITHDRAW_CNT (a b : Nat) : Nat := 0x1103a10 + 0x200000 * a + 0x100000 * b
abbrev Reg.STA_RET_BYPASS_CNT (a b : Nat) : Nat := 0x1103a14 + 0x200000 * a + 0x100000 * b
abbrev Reg.STA_INTENT_OVF_CNT (a b : Nat) : Nat := 0x1103a18 + 0x200000 * a + 0x100000 * b
abbrev Reg.STA_RET_REPLAY_CNT (a b : Nat) : Nat := 0x1103a1c + 0x200000 * a + 0x100000 * b
abbrev Reg.STA_RET_BUF_HWM (a b : Nat) : Nat := 0x1103a20 + 0x200000 * a + 0x100000 * b
abbrev Reg.STA_RET_PARK_DROP_CNT (a b : Nat) : Nat := 0x1103a24 + 0x200000 * a + 0x100000 * b
abbrev Reg.STA_ARR_CMD (a b : Nat) : Nat := 0x1103a40 + 0x200000 * a + 0x100000 * b
abbrev Reg.STA_ARR_INDEX (a b : Nat) : Nat := 0x1103a44 + 0x200000 * a + 0x100000 * b
abbrev Reg.STA_ARR_STATUS (a b : Nat) : Nat := 0x1103a48 + 0x200000 * a + 0x100000 * b
abbrev Reg.STA_ARR_DATA (a b c : Nat) : Nat := 0x1103a50 + 0x200000 * a + 0x100000 * b + 0x4 * c
abbrev Reg.STA_ARR_CFG (a b c : Nat) : Nat := 0x1103a80 + 0x200000 * a + 0x100000 * b + 0x4 * c
abbrev Reg.STA_UC_BANK (a b : Nat) : Nat := 0x1103b00 + 0x200000 * a + 0x100000 * b
abbrev Reg.STA_UC_PAR_CNT (a b : Nat) : Nat := 0x1103b04 + 0x200000 * a + 0x100000 * b
abbrev Reg.STA_UC_IDX_ERR_CNT (a b : Nat) : Nat := 0x1103b08 + 0x200000 * a + 0x100000 * b
abbrev Reg.STA_UC_HDR_OVF_CNT (a b : Nat) : Nat := 0x1103b0c + 0x200000 * a + 0x100000 * b
abbrev Reg.STA_MTR_RATE (a b c : Nat) : Nat := 0x1100000 + 0x200000 * a + 0x100000 * b + 0x10 * c
abbrev Reg.STA_MTR_BURST (a b c : Nat) : Nat := 0x1100004 + 0x200000 * a + 0x100000 * b + 0x10 * c
abbrev Reg.STA_MTR_CMD (a b : Nat) : Nat := 0x1103c00 + 0x200000 * a + 0x100000 * b
abbrev Reg.STA_MTR_FIRST (a b : Nat) : Nat := 0x1103c04 + 0x200000 * a + 0x100000 * b
abbrev Reg.STA_MTR_COUNT (a b : Nat) : Nat := 0x1103c08 + 0x200000 * a + 0x100000 * b
abbrev Reg.STA_MTR_STATUS (a b : Nat) : Nat := 0x1103c0c + 0x200000 * a + 0x100000 * b
abbrev Reg.LD_ARR_RSV : Nat := 0x2300000
abbrev Reg.LD_HDRM_SIZE : Nat := 0x2300004
abbrev Reg.LD_LOW_TH : Nat := 0x2300008
abbrev Reg.LD_FREE : Nat := 0x2300010
abbrev Reg.LD_QUEUED : Nat := 0x2300014
abbrev Reg.LD_HDRM_USED : Nat := 0x2300018
abbrev Reg.LD_UNADMITTED : Nat := 0x230001c
abbrev Reg.LD_FREE_LWM : Nat := 0x2300020
abbrev Reg.LD_OVF_SIZE : Nat := 0x2300030
abbrev Reg.LD_OVF_USED : Nat := 0x2300034
abbrev Reg.LD_OVF_BACKLOG : Nat := 0x2300038
abbrev Reg.LD_ARR_DROP_CNT (a : Nat) : Nat := 0x2300040 + 0x4 * a
abbrev Reg.LD_ADMIT_DROP_CNT (a : Nat) : Nat := 0x2300060 + 0x4 * a
abbrev Reg.LD_ECN_MARK_CNT : Nat := 0x2300080
abbrev Reg.LD_OVF_LOST_CNT : Nat := 0x2300084
abbrev Reg.LD_HOST_WAIT_CNT : Nat := 0x2300088
abbrev Reg.LD_SLICE_SEL : Nat := 0x2310000
abbrev Reg.LD_SLICE_CFG : Nat := 0x2310004
abbrev Reg.LD_SLICE_USE : Nat := 0x2310008
abbrev Reg.LD_SLICE_REFUSE : Nat := 0x231000c
abbrev Reg.LD_PFC_XOFF (a b : Nat) : Nat := 0x2320000 + 0x100 * a + 0x20 * b
abbrev Reg.LD_PFC_XON (a b : Nat) : Nat := 0x2320004 + 0x100 * a + 0x20 * b
abbrev Reg.LD_PFC_HDRM (a b : Nat) : Nat := 0x2320008 + 0x100 * a + 0x20 * b
abbrev Reg.LD_PFC_USE (a b : Nat) : Nat := 0x232000c + 0x100 * a + 0x20 * b
abbrev Reg.LD_PFC_HUSE (a b : Nat) : Nat := 0x2320010 + 0x100 * a + 0x20 * b
abbrev Reg.LD_PFC_STATE (a b : Nat) : Nat := 0x2320014 + 0x100 * a + 0x20 * b
abbrev Reg.LD_TM_CFG_HANDLE (a : Nat) : Nat := 0x2340000 + 0x8 * a
abbrev Reg.LD_TM_CFG_CTL (a : Nat) : Nat := 0x2340004 + 0x8 * a
abbrev Reg.LD_TM_STATUS : Nat := 0x2340080
abbrev Reg.LD_TM_REC_CNT (a : Nat) : Nat := 0x2340100 + 0x8 * a
abbrev Reg.LD_TM_DROP_CNT (a : Nat) : Nat := 0x2340104 + 0x8 * a
abbrev Reg.LD_EPOCH_CTL : Nat := 0x2340200
abbrev Reg.LD_LEDGER_DFLT : Nat := 0x2340204
abbrev Reg.LD_SHEAF_CUR : Nat := 0x2370000
abbrev Reg.LD_SHEAF_DRAIN : Nat := 0x2370004
abbrev Reg.LD_SHEAF_CMD : Nat := 0x2370008
abbrev Reg.LD_SHEAF_AT_LO : Nat := 0x2370010
abbrev Reg.LD_SHEAF_AT_HI : Nat := 0x2370014
abbrev Reg.LD_SHEAF_LIMIT : Nat := 0x2370018
abbrev Reg.LD_SHEAF_OLD_CNT : Nat := 0x237001c
abbrev Reg.LD_SHEAF_COMMIT_TIME_LO : Nat := 0x2370020
abbrev Reg.LD_SHEAF_COMMIT_TIME_HI : Nat := 0x2370024
abbrev Reg.LD_SHEAF_EXPIRED_CNT : Nat := 0x2370028
abbrev Reg.LD_SHEAF_SWEEP : Nat := 0x237002c
abbrev Reg.LD_RH_CTL : Nat := 0x2370100
abbrev Reg.LD_RH_STATUS : Nat := 0x2370104
abbrev Reg.LD_RH_RING : Nat := 0x2370108
abbrev Reg.LD_RH_MASK : Nat := 0x237010c
abbrev Reg.LD_RH_TWIN_CNT_LO : Nat := 0x2370110
abbrev Reg.LD_RH_TWIN_CNT_HI : Nat := 0x2370114
abbrev Reg.LD_RH_DIV_CNT : Nat := 0x2370118
abbrev Reg.LD_RH_SKIP_CNT : Nat := 0x237011c
abbrev Reg.LD_RH_REC_DROP_CNT : Nat := 0x2370120
abbrev Reg.SC_NODE_SEL : Nat := 0x2400000
abbrev Reg.SC_NODE_CMD : Nat := 0x2400004
abbrev Reg.SC_NODE_CFG (a : Nat) : Nat := 0x2400010 + 0x4 * a
abbrev Reg.SC_NODE_DEPTH_PKT : Nat := 0x2400040
abbrev Reg.SC_NODE_DEPTH_GR : Nat := 0x2400044
abbrev Reg.SC_NODE_DEPTH_OVF : Nat := 0x2400048
abbrev Reg.SC_NODE_STATE : Nat := 0x240004c
abbrev Reg.SC_NODE_CREDIT_LO : Nat := 0x2400050
abbrev Reg.SC_NODE_CREDIT_HI : Nat := 0x2400054
abbrev Reg.SC_NODE_ENQ_LO : Nat := 0x2400060
abbrev Reg.SC_NODE_ENQ_HI : Nat := 0x2400064
abbrev Reg.SC_NODE_DEQ_LO : Nat := 0x2400068
abbrev Reg.SC_NODE_DEQ_HI : Nat := 0x240006c
abbrev Reg.SC_NODE_DEQ_GR_LO : Nat := 0x2400070
abbrev Reg.SC_NODE_DEQ_GR_HI : Nat := 0x2400074
abbrev Reg.SC_NODE_DROP (a : Nat) : Nat := 0x2400078 + 0x4 * a
abbrev Reg.SC_NODE_ECN : Nat := 0x2400094
abbrev Reg.SC_NODE_FLUSHED : Nat := 0x2400098
abbrev Reg.SC_NODE_OVF_LOST : Nat := 0x240009c
abbrev Reg.SC_ROOT_STATUS (a : Nat) : Nat := 0x2500000 + 0x4 * a
abbrev Reg.SC_DISP_CNT_LO : Nat := 0x2500100
abbrev Reg.SC_DISP_CNT_HI : Nat := 0x2500104
abbrev Reg.SC_TIMED_CNT : Nat := 0x2500108
abbrev Reg.SC_TARGET_DROP_CNT : Nat := 0x250010c
abbrev Reg.CY_LA_STATUS : Nat := 0x2600000
abbrev Reg.CY_LA_REQ_CNT_LO : Nat := 0x2600010
abbrev Reg.CY_LA_REQ_CNT_HI : Nat := 0x2600014
abbrev Reg.CY_LA_BYTES_LO : Nat := 0x2600018
abbrev Reg.CY_LA_BYTES_HI : Nat := 0x260001c
abbrev Reg.CY_LA_AUTH_FAIL_CNT : Nat := 0x2600020
abbrev Reg.CY_LA_REDO_CNT : Nat := 0x2600024
abbrev Reg.CY_SLICE_SEL : Nat := 0x2610000
abbrev Reg.CY_SLICE_AUTH_FAIL : Nat := 0x2610004
abbrev Reg.CY_SLICE_NOKEY : Nat := 0x2610008
abbrev Reg.CY_IN_VERIFY_CNT (a : Nat) : Nat := 0x2600100 + 0x20 * a
abbrev Reg.CY_IN_AUTH_FAIL_CNT (a : Nat) : Nat := 0x2600104 + 0x20 * a
abbrev Reg.CY_IN_ENC_CNT (a : Nat) : Nat := 0x2600108 + 0x20 * a
abbrev Reg.CY_IN_FMT_CNT (a : Nat) : Nat := 0x260010c + 0x20 * a
abbrev Reg.CY_IN_NOKEY_CNT (a : Nat) : Nat := 0x2600110 + 0x20 * a
abbrev Reg.CY_IN_ASIDE_DROP_CNT (a : Nat) : Nat := 0x2600114 + 0x20 * a
abbrev Reg.CY_IN_REKEY_CNT (a : Nat) : Nat := 0x2600118 + 0x20 * a
abbrev Reg.CY_IN_EXHAUST_DROP_CNT (a : Nat) : Nat := 0x260011c + 0x20 * a
abbrev Reg.KS_STATUS : Nat := 0x2700000
abbrev Reg.KS_ALARM : Nat := 0x2700004
abbrev Reg.KS_ERASE_CNT : Nat := 0x2700008
abbrev Reg.KS_SLOTS_USED : Nat := 0x270000c
abbrev Reg.KS_CCTX_USED : Nat := 0x2700010
abbrev Reg.KS_DERIVE_CNT : Nat := 0x2700014
abbrev Reg.KS_ERASE_TIME_LO : Nat := 0x2700018
abbrev Reg.KS_ERASE_TIME_HI : Nat := 0x270001c
abbrev Reg.RM_CTL : Nat := 0x2800000
abbrev Reg.RM_UDP_PORT : Nat := 0x2800004
abbrev Reg.RM_SPILL_MB : Nat := 0x2800008
abbrev Reg.RM_REO_NS : Nat := 0x280000c
abbrev Reg.RM_QP_USED : Nat := 0x2800010
abbrev Reg.RM_QP_CACHED : Nat := 0x2800014
abbrev Reg.RM_QP_BUSY : Nat := 0x2800018
abbrev Reg.RM_REGIONS_USED : Nat := 0x280001c
abbrev Reg.RM_WR_INFLIGHT : Nat := 0x2800020
abbrev Reg.RM_TX_PKT_CNT_LO : Nat := 0x2800040
abbrev Reg.RM_TX_PKT_CNT_HI : Nat := 0x2800044
abbrev Reg.RM_RX_PKT_CNT_LO : Nat := 0x2800048
abbrev Reg.RM_RX_PKT_CNT_HI : Nat := 0x280004c
abbrev Reg.RM_RETX_CNT : Nat := 0x2800050
abbrev Reg.RM_RTO_CNT : Nat := 0x2800054
abbrev Reg.RM_DUP_CNT : Nat := 0x2800058
abbrev Reg.RM_NAK_TX_CNT : Nat := 0x280005c
abbrev Reg.RM_NAK_RX_CNT : Nat := 0x2800060
abbrev Reg.RM_REFUSE_CNT (a : Nat) : Nat := 0x2800070 + 0x4 * a
abbrev Reg.RM_CSUM_ERR_CNT : Nat := 0x2800090
abbrev Reg.RM_PARK_CNT : Nat := 0x2800094
abbrev Reg.RM_PARK_DROP_CNT : Nat := 0x2800098
abbrev Reg.RM_FETCH_GM_CNT : Nat := 0x280009c
abbrev Reg.RM_FETCH_HOST_CNT : Nat := 0x28000a0
abbrev Reg.RM_EVICT_CNT : Nat := 0x28000a4
abbrev Reg.RM_EVICT_ABORT_CNT : Nat := 0x28000a8
abbrev Reg.RM_ERROR_CNT : Nat := 0x28000ac
abbrev Reg.RM_CC_TARGET_NS (a : Nat) : Nat := 0x2800100 + 0x20 * a
abbrev Reg.RM_CC_MIN_RATE (a : Nat) : Nat := 0x2800104 + 0x20 * a
abbrev Reg.RM_CC_MAX_RATE (a : Nat) : Nat := 0x2800108 + 0x20 * a
abbrev Reg.RM_CC_AI (a : Nat) : Nat := 0x280010c + 0x20 * a
abbrev Reg.RM_CC_STEP (a : Nat) : Nat := 0x2800110 + 0x20 * a
abbrev Reg.RM_CC_BASE_WIN_US (a : Nat) : Nat := 0x2800114 + 0x20 * a
abbrev Reg.SV_CTRL_USED : Nat := 0x2900000
abbrev Reg.SV_NS_USED : Nat := 0x2900004
abbrev Reg.SV_INFLIGHT : Nat := 0x2900008
abbrev Reg.SV_INFLIGHT_HWM : Nat := 0x290000c
abbrev Reg.SV_POOL_DEGRADED_LO : Nat := 0x2900010
abbrev Reg.SV_POOL_DEGRADED_HI : Nat := 0x2900014
abbrev Reg.SV_RD_CMD_CNT_LO : Nat := 0x2900020
abbrev Reg.SV_RD_CMD_CNT_HI : Nat := 0x2900024
abbrev Reg.SV_WR_CMD_CNT_LO : Nat := 0x2900028
abbrev Reg.SV_WR_CMD_CNT_HI : Nat := 0x290002c
abbrev Reg.SV_RD_BYTES_LO : Nat := 0x2900030
abbrev Reg.SV_RD_BYTES_HI : Nat := 0x2900034
abbrev Reg.SV_WR_BYTES_LO : Nat := 0x2900038
abbrev Reg.SV_WR_BYTES_HI : Nat := 0x290003c
abbrev Reg.SV_OVERLAP_WAIT_CNT : Nat := 0x2900040
abbrev Reg.SV_ABORT_CAUGHT_CNT : Nat := 0x2900044
abbrev Reg.SV_ABORT_MISS_CNT : Nat := 0x2900048
abbrev Reg.SV_DB_EMPTY_CNT : Nat := 0x290004c
abbrev Reg.SV_RESET_DRAIN_CNT : Nat := 0x2900050
abbrev Reg.SV_REISSUE_CNT : Nat := 0x2900054
abbrev Reg.SV_JOURNAL_REC_CNT : Nat := 0x2900058
abbrev Reg.TIL_STATUS (a b : Nat) : Nat := 0x2a00000 + 0x100000 * a + 0x10000 * b
abbrev Reg.TIL_SS_QUIET (a b : Nat) : Nat := 0x2a00008 + 0x100000 * a + 0x10000 * b
abbrev Reg.TIL_DMA_HANDLE (a b : Nat) : Nat := 0x2a0000c + 0x100000 * a + 0x10000 * b
abbrev Reg.TIL_FAULT_CNT (a b : Nat) : Nat := 0x2a00010 + 0x100000 * a + 0x10000 * b
abbrev Reg.TIL_SS_CNT (a b : Nat) : Nat := 0x2a00014 + 0x100000 * a + 0x10000 * b
abbrev Reg.TIL_PUNT_CNT_LO (a b : Nat) : Nat := 0x2a00018 + 0x100000 * a + 0x10000 * b
abbrev Reg.TIL_PUNT_CNT_HI (a b : Nat) : Nat := 0x2a0001c + 0x100000 * a + 0x10000 * b
abbrev Reg.TIL_DBG_SCOPE (a b : Nat) : Nat := 0x2a00020 + 0x100000 * a + 0x10000 * b
abbrev Reg.TIL_DBG_CMD (a b : Nat) : Nat := 0x2a00024 + 0x100000 * a + 0x10000 * b
abbrev Reg.TIL_DBG_STATUS (a b : Nat) : Nat := 0x2a00028 + 0x100000 * a + 0x10000 * b
abbrev Reg.TIL_DBG_ADDR (a b : Nat) : Nat := 0x2a0002c + 0x100000 * a + 0x10000 * b
abbrev Reg.TIL_DBG_DATA_LO (a b : Nat) : Nat := 0x2a00030 + 0x100000 * a + 0x10000 * b
abbrev Reg.TIL_DBG_DATA_HI (a b : Nat) : Nat := 0x2a00034 + 0x100000 * a + 0x10000 * b
abbrev Reg.TIL_PORT_SEL (a b : Nat) : Nat := 0x2a00040 + 0x100000 * a + 0x10000 * b
abbrev Reg.TIL_PORT_CMD (a b : Nat) : Nat := 0x2a00044 + 0x100000 * a + 0x10000 * b
abbrev Reg.TIL_PORT_CFG (a b c : Nat) : Nat := 0x2a00050 + 0x100000 * a + 0x10000 * b + 0x4 * c
abbrev Reg.TIL_HANDOVER (a b : Nat) : Nat := 0x2a00070 + 0x100000 * a + 0x10000 * b
abbrev Reg.TH_CTL (a b c : Nat) : Nat := 0x2a00400 + 0x100000 * a + 0x10000 * b + 0x40 * c
abbrev Reg.TH_STATUS (a b c : Nat) : Nat := 0x2a00404 + 0x100000 * a + 0x10000 * b + 0x40 * c
abbrev Reg.TH_PC_LO (a b c : Nat) : Nat := 0x2a00408 + 0x100000 * a + 0x10000 * b + 0x40 * c
abbrev Reg.TH_PC_HI (a b c : Nat) : Nat := 0x2a0040c + 0x100000 * a + 0x10000 * b + 0x40 * c
abbrev Reg.TH_SP_LO (a b c : Nat) : Nat := 0x2a00410 + 0x100000 * a + 0x10000 * b + 0x40 * c
abbrev Reg.TH_SP_HI (a b c : Nat) : Nat := 0x2a00414 + 0x100000 * a + 0x10000 * b + 0x40 * c
abbrev Reg.TH_CAP (a b c : Nat) : Nat := 0x2a00418 + 0x100000 * a + 0x10000 * b + 0x40 * c
abbrev Reg.TH_PRIO (a b c : Nat) : Nat := 0x2a0041c + 0x100000 * a + 0x10000 * b + 0x40 * c
abbrev Reg.TH_SLICE (a b c : Nat) : Nat := 0x2a00420 + 0x100000 * a + 0x10000 * b + 0x40 * c
abbrev Reg.TH_GROUP (a b c : Nat) : Nat := 0x2a00424 + 0x100000 * a + 0x10000 * b + 0x40 * c
abbrev Reg.TH_WAKE_LO (a b c : Nat) : Nat := 0x2a00428 + 0x100000 * a + 0x10000 * b + 0x40 * c
abbrev Reg.TH_WAKE_HI (a b c : Nat) : Nat := 0x2a0042c + 0x100000 * a + 0x10000 * b + 0x40 * c
abbrev Reg.TH_WAKE_PORT (a b c : Nat) : Nat := 0x2a00430 + 0x100000 * a + 0x10000 * b + 0x40 * c
abbrev Reg.GM_STATUS (a b : Nat) : Nat := 0x2f00000 + 0x100000 * a + 0x10000 * b
abbrev Reg.GM_CMD (a b : Nat) : Nat := 0x2f00004 + 0x100000 * a + 0x10000 * b
abbrev Reg.GM_CE_CNT (a b : Nat) : Nat := 0x2f00008 + 0x100000 * a + 0x10000 * b
abbrev Reg.GM_UE_CNT (a b : Nat) : Nat := 0x2f0000c + 0x100000 * a + 0x10000 * b
abbrev Reg.GM_GUARD_FIX_CNT (a b : Nat) : Nat := 0x2f00010 + 0x100000 * a + 0x10000 * b
abbrev Reg.HF_IND_ADDR (a : Nat) : Nat := 0x403f00 + 0x100000 * a
abbrev Reg.HF_IND_DATA (a : Nat) : Nat := 0x403f04 + 0x100000 * a
abbrev Reg.HF_IND_STATUS (a : Nat) : Nat := 0x403f08 + 0x100000 * a
abbrev Reg.HF_IND_RDATA (a : Nat) : Nat := 0x403f0c + 0x100000 * a
abbrev Reg.HF_IND_CMD (a : Nat) : Nat := 0x403f10 + 0x100000 * a
abbrev Reg.RP_IND_ADDR (a : Nat) : Nat := 0x803f00 + 0x10000 * a
abbrev Reg.RP_IND_DATA (a : Nat) : Nat := 0x803f04 + 0x10000 * a
abbrev Reg.RP_IND_STATUS (a : Nat) : Nat := 0x803f08 + 0x10000 * a
abbrev Reg.RP_IND_RDATA (a : Nat) : Nat := 0x803f0c + 0x10000 * a
abbrev Reg.RP_IND_CMD (a : Nat) : Nat := 0x803f10 + 0x10000 * a
abbrev Reg.EN_IND_ADDR (a : Nat) : Nat := 0x903f00 + 0x100000 * a
abbrev Reg.EN_IND_DATA (a : Nat) : Nat := 0x903f04 + 0x100000 * a
abbrev Reg.EN_IND_STATUS (a : Nat) : Nat := 0x903f08 + 0x100000 * a
abbrev Reg.EN_IND_RDATA (a : Nat) : Nat := 0x903f0c + 0x100000 * a
abbrev Reg.EN_IND_CMD (a : Nat) : Nat := 0x903f10 + 0x100000 * a
abbrev Reg.GM_IND_ADDR (a b : Nat) : Nat := 0x2f03f00 + 0x100000 * a + 0x10000 * b
abbrev Reg.GM_IND_DATA (a b : Nat) : Nat := 0x2f03f04 + 0x100000 * a + 0x10000 * b
abbrev Reg.GM_IND_STATUS (a b : Nat) : Nat := 0x2f03f08 + 0x100000 * a + 0x10000 * b
abbrev Reg.GM_IND_RDATA (a b : Nat) : Nat := 0x2f03f0c + 0x100000 * a + 0x10000 * b
abbrev Reg.GM_IND_CMD (a b : Nat) : Nat := 0x2f03f10 + 0x100000 * a + 0x10000 * b
abbrev Reg.OZ_IND_ADDR : Nat := 0x203f00
abbrev Reg.OZ_IND_DATA : Nat := 0x203f04
abbrev Reg.OZ_IND_STATUS : Nat := 0x203f08
abbrev Reg.OZ_IND_RDATA : Nat := 0x203f0c
abbrev Reg.OZ_IND_CMD : Nat := 0x203f10
abbrev Reg.SL_ID (a : Nat) : Nat := 0x10000000 + 0x80 * a
abbrev Reg.SL_STATE (a : Nat) : Nat := 0x10000004 + 0x80 * a
abbrev Reg.SL_PASID (a : Nat) : Nat := 0x10000008 + 0x80 * a
abbrev Reg.SL_PAGES (a : Nat) : Nat := 0x1000000c + 0x80 * a
abbrev Reg.SL_AQ_BASE_LO (a : Nat) : Nat := 0x10000010 + 0x80 * a
abbrev Reg.SL_AQ_BASE_HI (a : Nat) : Nat := 0x10000014 + 0x80 * a
abbrev Reg.SL_AQ_SIZE (a : Nat) : Nat := 0x10000018 + 0x80 * a
abbrev Reg.SL_ACQ_BASE_LO (a : Nat) : Nat := 0x10000020 + 0x80 * a
abbrev Reg.SL_ACQ_BASE_HI (a : Nat) : Nat := 0x10000024 + 0x80 * a
abbrev Reg.SL_ACQ_SIZE (a : Nat) : Nat := 0x10000028 + 0x80 * a
abbrev Reg.SL_AQ_MIRROR_LO (a : Nat) : Nat := 0x10000030 + 0x80 * a
abbrev Reg.SL_AQ_MIRROR_HI (a : Nat) : Nat := 0x10000034 + 0x80 * a
abbrev Reg.SL_ACQ_MIRROR_LO (a : Nat) : Nat := 0x10000038 + 0x80 * a
abbrev Reg.SL_ACQ_MIRROR_HI (a : Nat) : Nat := 0x1000003c + 0x80 * a
abbrev Reg.SL_CTL (a : Nat) : Nat := 0x10000040 + 0x80 * a
abbrev Reg.SL_AQ_STATUS (a : Nat) : Nat := 0x10000044 + 0x80 * a
abbrev Reg.SL_AQ_HANDLE (a : Nat) : Nat := 0x10000048 + 0x80 * a
abbrev Reg.SL_ACQ_HANDLE (a : Nat) : Nat := 0x1000004c + 0x80 * a
abbrev Reg.LN_CTL (a b : Nat) : Nat := 0x20000000 + 0x1000 * a + 0x100 * b
abbrev Reg.LN_SLOT (a b : Nat) : Nat := 0x20000004 + 0x1000 * a + 0x100 * b
abbrev Reg.LN_LEN (a b : Nat) : Nat := 0x20000008 + 0x1000 * a + 0x100 * b
abbrev Reg.LN_SRC_LO (a b : Nat) : Nat := 0x20000010 + 0x1000 * a + 0x100 * b
abbrev Reg.LN_SRC_HI (a b : Nat) : Nat := 0x20000014 + 0x1000 * a + 0x100 * b
abbrev Reg.LN_DST_LO (a b : Nat) : Nat := 0x20000018 + 0x1000 * a + 0x100 * b
abbrev Reg.LN_DST_HI (a b : Nat) : Nat := 0x2000001c + 0x1000 * a + 0x100 * b
abbrev Reg.LN_IV (a b c : Nat) : Nat := 0x20000020 + 0x1000 * a + 0x100 * b + 0x4 * c
abbrev Reg.LN_STATUS (a b : Nat) : Nat := 0x20000030 + 0x1000 * a + 0x100 * b
abbrev Reg.LN_OUT_LEN (a b : Nat) : Nat := 0x20000034 + 0x1000 * a + 0x100 * b
abbrev Reg.LN_NOTIFY_LO (a b : Nat) : Nat := 0x20000038 + 0x1000 * a + 0x100 * b
abbrev Reg.LN_NOTIFY_HI (a b : Nat) : Nat := 0x2000003c + 0x1000 * a + 0x100 * b
abbrev Reg.LN_NONCE_OUT (a b c : Nat) : Nat := 0x20000040 + 0x1000 * a + 0x100 * b + 0x4 * c

/-- The page of step `step` of a flight (0 ingress, 1 egress) of a stair (R385). -/
abbrev Reg.stepPage (stair flight step : Nat) : Nat :=
  0x1110000 + 0x200000 * stair + 0x100000 * flight + 0x10000 * (step / 4) + 0x1000 * (step % 4)

def regRowsGL0 : List RegDef := [
  ⟨"GL_ID", 0x0, [], 0x0, 0x0, 0x0, false, 0x106400, false, 0, false⟩,
  ⟨"GL_CAP", 0x4, [], 0x0, 0x0, 0x0, false, 0x0, false, 0, false⟩,
  ⟨"GL_DEVICE_READY", 0x8, [], 0x0, 0x0, 0x0, false, 0x0, false, 0, false⟩,
  ⟨"GL_BOOT_STAGE", 0xc, [], 0x0, 0x0, 0x0, false, 0x0, false, 0, false⟩,
  ⟨"GL_UNLOCK", 0x10, [], 0x0, 0x0, 0x3fffff, false, 0x0, false, 0, false⟩,
  ⟨"GL_UNLOCK_STATUS", 0x14, [], 0x0, 0x0, 0x0, false, 0x0, false, 0, false⟩,
  ⟨"GL_ERR_STATUS", 0x18, [], 0x0, 0x7, 0x0, false, 0x0, false, 0, false⟩,
  ⟨"GL_ERR_ADDR", 0x1c, [], 0x0, 0x0, 0x0, false, 0x0, false, 0, false⟩,
  ⟨"GL_SNAP_MASK_LO", 0x20, [], 0xffffffff, 0x0, 0x0, false, 0x0, false, 1, false⟩,
  ⟨"GL_SNAP_MASK_HI", 0x24, [], 0xffffffff, 0x0, 0x0, false, 0x0, false, 2, false⟩,
  ⟨"GL_SNAP_CMD", 0x28, [], 0x0, 0x0, 0x1, false, 0x0, false, 0, false⟩,
  ⟨"GL_SNAP_GEN", 0x2c, [], 0x0, 0x0, 0x0, false, 0x0, false, 0, false⟩,
  ⟨"GL_SNAP_AT_LO", 0x30, [], 0xffffffff, 0x0, 0x0, false, 0x0, false, 1, false⟩,
  ⟨"GL_SNAP_AT_HI", 0x34, [], 0xffffffff, 0x0, 0x0, false, 0x0, false, 2, false⟩,
  ⟨"GL_SNAP_AT_CTL", 0x38, [], 0x1, 0x6, 0x0, false, 0x0, false, 0, false⟩,
  ⟨"GL_SNAP_TIME_LO", 0x40, [], 0x0, 0x0, 0x0, false, 0x0, false, 1, false⟩,
  ⟨"GL_SNAP_TIME_HI", 0x44, [], 0x0, 0x0, 0x0, false, 0x0, false, 2, false⟩,
  ⟨"GL_RESET_CTL", 0x50, [], 0x0, 0x0, 0x1, false, 0x0, false, 0, true⟩,
  ⟨"GL_SCRATCH[i]", 0x60, [(0x4, 4)], 0xffffffff, 0x0, 0x0, false, 0x0, false, 0, false⟩]

def regRowsFT0 : List RegDef := [
  ⟨"FT_NOW_LO", 0x100000, [], 0x0, 0x0, 0x0, false, 0x0, false, 1, false⟩,
  ⟨"FT_NOW_HI", 0x100004, [], 0x0, 0x0, 0x0, false, 0x0, false, 2, false⟩,
  ⟨"FT_NOW_FRAC", 0x100008, [], 0x0, 0x0, 0x0, false, 0x0, false, 0, false⟩,
  ⟨"FT_SRC_CTL", 0x100010, [], 0xf07, 0x0, 0x0, false, 0x0, false, 0, false⟩,
  ⟨"FT_STATUS", 0x100014, [], 0x0, 0x0, 0x0, false, 0x0, false, 0, false⟩,
  ⟨"FT_STEP_GEN", 0x100018, [], 0x0, 0x0, 0x0, false, 0x0, false, 0, false⟩,
  ⟨"FT_FREQ_ADJ", 0x100020, [], 0xffffffff, 0x0, 0x0, false, 0x0, false, 0, false⟩,
  ⟨"FT_SERVO_GAIN", 0x100024, [], 0x1f1f, 0x0, 0x0, false, 0xe0a, false, 0, false⟩,
  ⟨"FT_LOCK_THRESH", 0x100028, [], 0xffffffff, 0x0, 0x0, false, 0x32, false, 0, false⟩,
  ⟨"FT_HOLD_TIMEOUT", 0x10002c, [], 0xffffffff, 0x0, 0x0, false, 0x2dc6c0, false, 0, false⟩,
  ⟨"FT_ALARM_THRESH", 0x100030, [], 0xffffffff, 0x0, 0x0, false, 0x3e8, false, 0, false⟩,
  ⟨"FT_PHASE_IN_LO", 0x100038, [], 0x0, 0x0, 0xffffffff, false, 0x0, false, 1, false⟩,
  ⟨"FT_PHASE_IN_HI", 0x10003c, [], 0x0, 0x0, 0xffffffff, false, 0x0, false, 2, false⟩,
  ⟨"FT_PTM_OFFSET_LO", 0x100040, [], 0xffffffff, 0x0, 0x0, false, 0x0, false, 1, false⟩,
  ⟨"FT_PTM_OFFSET_HI", 0x100044, [], 0xffffffff, 0x0, 0x0, false, 0x0, false, 2, false⟩,
  ⟨"FT_PTM_INTERVAL", 0x100048, [], 0xffffffff, 0x0, 0x0, false, 0x3e8, false, 0, false⟩,
  ⟨"FT_STEP_VAL_LO", 0x100050, [], 0xffffffff, 0x0, 0x0, false, 0x0, false, 1, false⟩,
  ⟨"FT_STEP_VAL_HI", 0x100054, [], 0xffffffff, 0x0, 0x0, false, 0x0, false, 2, false⟩,
  ⟨"FT_STEP_CTL", 0x100058, [], 0x2, 0x8, 0x1, false, 0x0, false, 0, true⟩,
  ⟨"FT_HOLD_TIME_LO", 0x100060, [], 0x0, 0x0, 0x0, false, 0x0, false, 1, false⟩,
  ⟨"FT_HOLD_TIME_HI", 0x100064, [], 0x0, 0x0, 0x0, false, 0x0, false, 2, false⟩,
  ⟨"FT_PPS_CTL", 0x100068, [], 0xffffff03, 0x0, 0x0, false, 0x186a000, false, 0, false⟩,
  ⟨"FT_PPS_IN_TS_LO", 0x100070, [], 0x0, 0x0, 0x0, false, 0x0, false, 1, false⟩,
  ⟨"FT_PPS_IN_TS_HI", 0x100074, [], 0x0, 0x0, 0x0, false, 0x0, false, 2, false⟩,
  ⟨"FT_EPOCH_PERIOD_LO", 0x100078, [], 0xffffffff, 0x0, 0x0, false, 0x0, false, 1, false⟩,
  ⟨"FT_EPOCH_PERIOD_HI", 0x10007c, [], 0xffffffff, 0x0, 0x0, false, 0x0, false, 2, false⟩,
  ⟨"FT_EPOCH_ORIGIN_LO", 0x100080, [], 0xffffffff, 0x0, 0x0, false, 0x0, false, 1, false⟩,
  ⟨"FT_EPOCH_ORIGIN_HI", 0x100084, [], 0xffffffff, 0x0, 0x0, false, 0x0, false, 2, false⟩,
  ⟨"FT_DEP_USED", 0x100088, [], 0x0, 0x0, 0x0, false, 0x0, false, 0, false⟩,
  ⟨"FT_DEP_HWM", 0x10008c, [], 0x0, 0x0, 0x0, true, 0x0, false, 0, false⟩,
  ⟨"FT_LATE_CNT", 0x100090, [], 0x0, 0x0, 0x0, true, 0x0, true, 0, false⟩,
  ⟨"FT_RACT[i].TIME_LO", 0x110000, [(0x10, 1024)], 0xffffffff, 0x0, 0x0, false, 0x0, false, 0, false⟩,
  ⟨"FT_RACT[i].TIME_HI", 0x110004, [(0x10, 1024)], 0xffffffff, 0x0, 0x0, false, 0x0, false, 0, false⟩,
  ⟨"FT_RACT[i].CTL", 0x110008, [(0x10, 1024)], 0x13ffffff, 0xe0000000, 0x0, false, 0x0, false, 0, false⟩,
  ⟨"FT_RACT[i].DATA", 0x11000c, [(0x10, 1024)], 0xffffffff, 0x0, 0x0, false, 0x0, false, 0, false⟩]

def regRowsOZ0 : List RegDef := [
  ⟨"OZ_STATUS", 0x200000, [], 0x0, 0x0, 0x0, false, 0x0, false, 0, false⟩,
  ⟨"OZ_RESET_CAUSE", 0x200004, [], 0x0, 0x0, 0x0, false, 0x0, false, 0, false⟩,
  ⟨"OZ_SVN", 0x200008, [], 0x0, 0x0, 0x0, false, 0x0, false, 0, false⟩,
  ⟨"OZ_IMAGE", 0x20000c, [], 0x0, 0x0, 0x0, false, 0x0, false, 0, false⟩,
  ⟨"OZ_BOOT_CNT", 0x200010, [], 0x0, 0x0, 0x0, false, 0x0, false, 0, false⟩,
  ⟨"OZ_TEMP_MAX", 0x200014, [], 0x0, 0x0, 0x0, false, 0x0, false, 0, false⟩,
  ⟨"OZ_TEMP_HWM", 0x200018, [], 0x0, 0x0, 0x0, true, 0x0, false, 0, false⟩,
  ⟨"OZ_DIP_CNT", 0x20001c, [], 0x0, 0x0, 0x0, true, 0x0, true, 0, false⟩,
  ⟨"OZ_LOG_LOST_CNT", 0x200020, [], 0x0, 0x0, 0x0, true, 0x0, true, 0, false⟩,
  ⟨"OZ_LOG_NEXT", 0x200024, [], 0x0, 0x0, 0x0, false, 0x0, false, 0, false⟩,
  ⟨"OZ_SLICE_SEL", 0x210000, [], 0x3fff, 0x0, 0x0, false, 0x0, false, 0, false⟩,
  ⟨"OZ_EV_ROUTE[s]", 0x220000, [(0x4, 3648)], 0x3f, 0x0, 0x0, false, 0x20, false, 0, false⟩,
  ⟨"OZ_EV_DEST[d]", 0x230000, [(0x4, 16)], 0xffffffff, 0x0, 0x0, false, 0x0, false, 0, false⟩,
  ⟨"OZ_EV_UNDELIV_CNT", 0x230040, [], 0x0, 0x0, 0x0, true, 0x0, true, 0, false⟩,
  ⟨"OZ_EV_LOST_CNT", 0x230044, [], 0x0, 0x0, 0x0, true, 0x0, true, 0, false⟩,
  ⟨"OZ_EV_QUEUED", 0x230048, [], 0x0, 0x0, 0x0, false, 0x0, false, 0, false⟩,
  ⟨"OZ_MB_CMD", 0x240000, [], 0x0, 0x200, 0xff, false, 0x0, false, 0, false⟩,
  ⟨"OZ_MB_STATUS", 0x240004, [], 0x0, 0x0, 0x0, false, 0x0, false, 0, false⟩,
  ⟨"OZ_MB_ARG[w]", 0x240010, [(0x4, 8)], 0xffffffff, 0x0, 0x0, false, 0x0, false, 0, false⟩,
  ⟨"OZ_MB_RES[w]", 0x240040, [(0x4, 8)], 0x0, 0x0, 0x0, false, 0x0, false, 0, false⟩,
  ⟨"OZ_IND_ADDR", 0x203f00, [], 0x1ffffff, 0x0, 0x0, false, 0x0, false, 0, false⟩,
  ⟨"OZ_IND_DATA", 0x203f04, [], 0x0, 0x0, 0x0, false, 0x0, false, 0, false⟩,
  ⟨"OZ_IND_STATUS", 0x203f08, [], 0x0, 0xe, 0x0, false, 0x0, false, 0, false⟩,
  ⟨"OZ_IND_RDATA", 0x203f0c, [], 0x0, 0x0, 0x0, false, 0x0, false, 0, false⟩,
  ⟨"OZ_IND_CMD", 0x203f10, [], 0x0, 0x0, 0x1, false, 0x0, false, 0, false⟩]

def regRowsMS0 : List RegDef := [
  ⟨"MS_UNIT[u] word 0", 0x300000, [(0x8, 80)], 0x0, 0x0, 0x0, false, 0x0, false, 0, false⟩,
  ⟨"MS_UNIT[u] word 1", 0x300004, [(0x8, 80)], 0x0, 0x0, 0x0, false, 0x0, false, 0, false⟩,
  ⟨"MS_UNIT_CMD", 0x300800, [], 0x7f07f, 0x2000000, 0x700, false, 0x0, false, 0, true⟩,
  ⟨"MS_TAKEOVER_NS", 0x300808, [], 0x0, 0x0, 0x0, false, 0x0, false, 0, false⟩,
  ⟨"MS_HANDOVER_LIMIT", 0x30080c, [], 0xffff, 0x0, 0x0, false, 0x3e8, false, 0, false⟩,
  ⟨"MS_READMIT_CTL", 0x300810, [], 0xf01, 0x0, 0x0, false, 0x301, false, 0, false⟩,
  ⟨"MS_STALE_SRC_CNT", 0x300820, [], 0x0, 0x0, 0x0, true, 0x0, true, 0, false⟩,
  ⟨"MS_STALE_DST_CNT", 0x300824, [], 0x0, 0x0, 0x0, true, 0x0, true, 0, false⟩,
  ⟨"MS_TAKEOVER_CNT", 0x300828, [], 0x0, 0x0, 0x0, true, 0x0, true, 0, false⟩,
  ⟨"MS_ENTRY_DROP_CNT", 0x30082c, [], 0x0, 0x0, 0x0, true, 0x0, true, 0, false⟩,
  ⟨"MS_NOSPARE_DROP_CNT", 0x300830, [], 0x0, 0x0, 0x0, true, 0x0, true, 0, false⟩,
  ⟨"MS_COPY_ERR_CNT", 0x300834, [], 0x0, 0x0, 0x0, true, 0x0, true, 0, false⟩]

def regRowsHF0 : List RegDef := [
  ⟨"HF_FACE_STATUS", 0x400000, [(0x100000, 4)], 0x0, 0x0, 0x0, false, 0x0, false, 0, false⟩,
  ⟨"HF_MSIX_USED", 0x400004, [(0x100000, 4)], 0x0, 0x0, 0x0, false, 0x0, false, 0, false⟩,
  ⟨"HF_LINK_STATUS_k", 0x410000, [(0x100000, 4), (0x10000, 4)], 0x0, 0x0, 0x0, false, 0x0, false, 0, false⟩,
  ⟨"HF_LTR_k", 0x410004, [(0x100000, 4), (0x10000, 4)], 0xffffffff, 0x0, 0x0, false, 0x0, false, 0, false⟩,
  ⟨"HF_TAG_POOL_k", 0x410008, [(0x100000, 4), (0x10000, 4)], 0x0, 0x0, 0x0, false, 0x0, false, 0, false⟩,
  ⟨"HF_TAG_INUSE_k", 0x41000c, [(0x100000, 4), (0x10000, 4)], 0x0, 0x0, 0x0, false, 0x0, false, 0, false⟩,
  ⟨"HF_TAG_QUAR_k", 0x410010, [(0x100000, 4), (0x10000, 4)], 0x0, 0x0, 0x0, false, 0x0, false, 0, false⟩,
  ⟨"HF_CPL_TIMEOUT_CNT_k", 0x410014, [(0x100000, 4), (0x10000, 4)], 0x0, 0x0, 0x0, true, 0x0, true, 0, false⟩,
  ⟨"HF_LATE_CPL_CNT_k", 0x410018, [(0x100000, 4), (0x10000, 4)], 0x0, 0x0, 0x0, true, 0x0, true, 0, false⟩,
  ⟨"HF_STALL_DROP_CNT_k", 0x41001c, [(0x100000, 4), (0x10000, 4)], 0x0, 0x0, 0x0, true, 0x0, true, 0, false⟩,
  ⟨"HF_UR_IN_CNT_k", 0x410020, [(0x100000, 4), (0x10000, 4)], 0x0, 0x0, 0x0, true, 0x0, true, 0, false⟩,
  ⟨"HF_FN_SEL", 0x450000, [(0x100000, 4)], 0x3ff, 0x0, 0x0, false, 0x0, false, 0, false⟩,
  ⟨"HF_FN_STATUS", 0x450004, [(0x100000, 4)], 0x0, 0x0, 0x0, false, 0x0, false, 0, false⟩,
  ⟨"HF_FN_CFG", 0x450008, [(0x100000, 4)], 0x10fff, 0x0, 0x0, false, 0x0, false, 0, false⟩,
  ⟨"HF_FN_TAG_MAX", 0x45000c, [(0x100000, 4)], 0x7fff, 0x0, 0x0, false, 0x0, false, 0, false⟩,
  ⟨"HF_FN_CFG_STATUS", 0x450010, [(0x100000, 4)], 0x0, 0x1, 0x0, false, 0x0, false, 0, false⟩,
  ⟨"HF_WIN_SWAP", 0x450020, [(0x100000, 4)], 0x0, 0x4, 0x1, false, 0x0, false, 0, false⟩,
  ⟨"HF_WIN_GEN", 0x450024, [(0x100000, 4)], 0x0, 0x0, 0x0, false, 0x0, false, 0, false⟩,
  ⟨"HF_WIN_OLD_DRAINED", 0x450028, [(0x100000, 4)], 0x0, 0x0, 0x0, false, 0x1, false, 0, false⟩,
  ⟨"HF_WIN_UR_CNT", 0x45002c, [(0x100000, 4)], 0x0, 0x0, 0x0, true, 0x0, true, 0, false⟩,
  ⟨"HF_IND_ADDR", 0x403f00, [(0x100000, 4)], 0x1ffffff, 0x0, 0x0, false, 0x0, false, 0, false⟩,
  ⟨"HF_IND_DATA", 0x403f04, [(0x100000, 4)], 0x0, 0x0, 0x0, false, 0x0, false, 0, false⟩,
  ⟨"HF_IND_STATUS", 0x403f08, [(0x100000, 4)], 0x0, 0xe, 0x0, false, 0x0, false, 0, false⟩,
  ⟨"HF_IND_RDATA", 0x403f0c, [(0x100000, 4)], 0x0, 0x0, 0x0, false, 0x0, false, 0, false⟩,
  ⟨"HF_IND_CMD", 0x403f10, [(0x100000, 4)], 0x0, 0x0, 0x1, false, 0x0, false, 0, false⟩]

def regRowsRP0 : List RegDef := [
  ⟨"RP_CTL", 0x801000, [(0x10000, 8)], 0x1, 0x0, 0x0, false, 0x0, false, 0, false⟩,
  ⟨"RP_STATUS", 0x801004, [(0x10000, 8)], 0x0, 0x0, 0x0, false, 0x0, false, 0, false⟩,
  ⟨"RP_DCFG_ADDR", 0x801008, [(0x10000, 8)], 0x3ffffff, 0x0, 0x0, false, 0x0, false, 0, false⟩,
  ⟨"RP_DCFG_DATA", 0x80100c, [(0x10000, 8)], 0xffffffff, 0x0, 0x0, false, 0x0, false, 0, false⟩,
  ⟨"RP_DCFG_CMD", 0x801010, [(0x10000, 8)], 0x0, 0x0, 0x3, false, 0x0, false, 0, false⟩,
  ⟨"RP_DCFG_STATUS", 0x801014, [(0x10000, 8)], 0x0, 0x0, 0x0, false, 0x0, false, 0, false⟩,
  ⟨"RP_SLOT_CFG", 0x801018, [(0x10000, 8)], 0x3ff, 0x0, 0x0, false, 0x19, false, 0, false⟩,
  ⟨"RP_SURPRISE_CNT", 0x801030, [(0x10000, 8)], 0x0, 0x0, 0x0, true, 0x0, true, 0, false⟩,
  ⟨"RP_PWRFLT_CNT", 0x801034, [(0x10000, 8)], 0x0, 0x0, 0x0, true, 0x0, true, 0, false⟩,
  ⟨"RP_ABORT_CNT", 0x801038, [(0x10000, 8)], 0x0, 0x0, 0x0, true, 0x0, true, 0, false⟩,
  ⟨"RP_MERGE", 0x801020, [], 0xf, 0x0, 0x0, false, 0x0, false, 0, false⟩,
  ⟨"RP_IND_ADDR", 0x803f00, [(0x10000, 8)], 0x1ffffff, 0x0, 0x0, false, 0x0, false, 0, false⟩,
  ⟨"RP_IND_DATA", 0x803f04, [(0x10000, 8)], 0x0, 0x0, 0x0, false, 0x0, false, 0, false⟩,
  ⟨"RP_IND_STATUS", 0x803f08, [(0x10000, 8)], 0x0, 0xe, 0x0, false, 0x0, false, 0, false⟩,
  ⟨"RP_IND_RDATA", 0x803f0c, [(0x10000, 8)], 0x0, 0x0, 0x0, false, 0x0, false, 0, false⟩,
  ⟨"RP_IND_CMD", 0x803f10, [(0x10000, 8)], 0x0, 0x0, 0x1, false, 0x0, false, 0, false⟩]

def regRowsEN0 : List RegDef := [
  ⟨"EN_PG_CTL", 0x900000, [(0x100000, 8)], 0x7, 0x0, 0x0, false, 0x0, false, 0, false⟩,
  ⟨"EN_PG_STATUS", 0x900004, [(0x100000, 8)], 0x0, 0x0, 0x0, false, 0x0, false, 0, false⟩,
  ⟨"EN_RCLK_CTL", 0x900008, [(0x100000, 8)], 0xf, 0x0, 0x0, false, 0x0, false, 0, false⟩,
  ⟨"EN_LANE_CTL_l", 0x950000, [(0x100000, 8), (0x1000, 4)], 0x7, 0x0, 0x0, false, 0x0, false, 0, false⟩,
  ⟨"EN_LANE_STATUS_l", 0x950004, [(0x100000, 8), (0x1000, 4)], 0x0, 0x0, 0x0, false, 0x0, false, 0, false⟩,
  ⟨"EN_PORT_CTL", 0x910000, [(0x100000, 8), (0x10000, 4)], 0x3f, 0x0, 0x0, false, 0x0, false, 0, false⟩,
  ⟨"EN_PORT_STATUS", 0x910004, [(0x100000, 8), (0x10000, 4)], 0x0, 0x0, 0x0, false, 0x0, false, 0, false⟩,
  ⟨"EN_PORT_MAXFRAME", 0x910008, [(0x100000, 8), (0x10000, 4)], 0x3fff, 0x0, 0x0, false, 0x2400, false, 0, false⟩,
  ⟨"EN_PORT_DEBOUNCE", 0x91000c, [(0x100000, 8), (0x10000, 4)], 0xffff, 0x0, 0x0, false, 0x0, false, 0, false⟩,
  ⟨"EN_PORT_MAC_LO", 0x910010, [(0x100000, 8), (0x10000, 4)], 0xffffffff, 0x0, 0x0, false, 0x0, false, 1, false⟩,
  ⟨"EN_PORT_MAC_HI", 0x910014, [(0x100000, 8), (0x10000, 4)], 0xffff, 0x0, 0x0, false, 0x0, false, 2, false⟩,
  ⟨"EN_PFC_CTL", 0x910018, [(0x100000, 8), (0x10000, 4)], 0xffff, 0x0, 0x0, false, 0x0, false, 0, false⟩,
  ⟨"EN_PFC_QUANTA", 0x91001c, [(0x100000, 8), (0x10000, 4)], 0xffff, 0x0, 0x0, false, 0xffff, false, 0, false⟩,
  ⟨"EN_PFC_REFRESH", 0x910020, [(0x100000, 8), (0x10000, 4)], 0xffff, 0x0, 0x0, false, 0x7fff, false, 0, false⟩,
  ⟨"EN_PRI2CLASS", 0x910024, [(0x100000, 8), (0x10000, 4)], 0xffffff, 0x0, 0x0, false, 0xfac688, false, 0, false⟩,
  ⟨"EN_PFC_WATCHDOG", 0x910028, [(0x100000, 8), (0x10000, 4)], 0xffffffff, 0x0, 0x0, false, 0x186a0, false, 0, false⟩,
  ⟨"EN_FEC_DEGRADE", 0x91002c, [(0x100000, 8), (0x10000, 4)], 0xffffff, 0x0, 0x0, false, 0x0, false, 0, false⟩,
  ⟨"EN_TS_FIFO_W0", 0x910030, [(0x100000, 8), (0x10000, 4)], 0x0, 0x0, 0x0, true, 0x0, false, 0, false⟩,
  ⟨"EN_TS_FIFO_W1", 0x910034, [(0x100000, 8), (0x10000, 4)], 0x0, 0x0, 0x0, false, 0x0, false, 0, false⟩,
  ⟨"EN_TS_FIFO_W2", 0x910038, [(0x100000, 8), (0x10000, 4)], 0x0, 0x0, 0x0, false, 0x0, false, 0, false⟩,
  ⟨"EN_TS_FIFO_W3", 0x91003c, [(0x100000, 8), (0x10000, 4)], 0x0, 0x0, 0x0, false, 0x0, false, 0, false⟩,
  ⟨"EN_port counter j, LO", 0x910100, [(0x100000, 8), (0x10000, 4), (0x8, 21)], 0x0, 0x0, 0x0, true, 0x0, true, 1, false⟩,
  ⟨"EN_port counter j, HI", 0x910104, [(0x100000, 8), (0x10000, 4), (0x8, 21)], 0x0, 0x0, 0x0, true, 0x0, true, 2, false⟩,
  ⟨"EN_RX_PFC_CNT[i]", 0x910200, [(0x100000, 8), (0x10000, 4), (0x4, 8)], 0x0, 0x0, 0x0, true, 0x0, true, 0, false⟩,
  ⟨"EN_TX_PFC_CNT[i]", 0x910220, [(0x100000, 8), (0x10000, 4), (0x4, 8)], 0x0, 0x0, 0x0, true, 0x0, true, 0, false⟩,
  ⟨"EN_IND_ADDR", 0x903f00, [(0x100000, 8)], 0x1ffffff, 0x0, 0x0, false, 0x0, false, 0, false⟩,
  ⟨"EN_IND_DATA", 0x903f04, [(0x100000, 8)], 0x0, 0x0, 0x0, false, 0x0, false, 0, false⟩,
  ⟨"EN_IND_STATUS", 0x903f08, [(0x100000, 8)], 0x0, 0xe, 0x0, false, 0x0, false, 0, false⟩,
  ⟨"EN_IND_RDATA", 0x903f0c, [(0x100000, 8)], 0x0, 0x0, 0x0, false, 0x0, false, 0, false⟩,
  ⟨"EN_IND_CMD", 0x903f10, [(0x100000, 8)], 0x0, 0x0, 0x1, false, 0x0, false, 0, false⟩]

def regRowsSTA0 : List RegDef := [
  ⟨"STA_PARSE_CMD", 0x1101000, [(0x200000, 9)], 0x3ff, 0x8000, 0x3000, false, 0x0, false, 0, false⟩,
  ⟨"STA_PARSE_BANK", 0x1101004, [(0x200000, 9)], 0x2, 0x0, 0x0, false, 0x0, false, 0, false⟩,
  ⟨"STA_PARSE_DATA[w]", 0x1101020, [(0x200000, 9), (0x4, 8)], 0xffffffff, 0x0, 0x0, false, 0x0, false, 0, false⟩,
  ⟨"STA_PROF_CTL[p]", 0x1101100, [(0x200000, 9), (0x80, 8)], 0x3ffffff, 0x0, 0x0, false, 0x2300500, false, 0, false⟩,
  ⟨"STA_PROF_DFLT_ACT[p][c]", 0x1101110, [(0x200000, 9), (0x80, 8), (0x8, 5)], 0x7, 0x0, 0x0, false, 0x0, false, 0, false⟩,
  ⟨"STA_PROF_DFLT_TGT[p][c]", 0x1101114, [(0x200000, 9), (0x80, 8), (0x8, 5)], 0xffffffff, 0x0, 0x0, false, 0x0, false, 0, false⟩,
  ⟨"STA_PROF_CNT[p][c]", 0x1101140, [(0x200000, 9), (0x80, 8), (0x4, 5)], 0x0, 0x0, 0x0, true, 0x0, true, 0, false⟩,
  ⟨"STA_PROF_2SLOT_CNT[p]", 0x1101154, [(0x200000, 9), (0x80, 8)], 0x0, 0x0, 0x0, true, 0x0, true, 0, false⟩,
  ⟨"STA_GLEAN_CTL", 0x1101600, [(0x200000, 9)], 0xffffffff, 0x0, 0x0, false, 0xc807d0, false, 0, false⟩,
  ⟨"STA_GLEAN_USED", 0x1101604, [(0x200000, 9)], 0x0, 0x0, 0x0, false, 0x0, false, 0, false⟩,
  ⟨"STA_GLEAN_INS_CNT", 0x1101610, [(0x200000, 9)], 0x0, 0x0, 0x0, true, 0x0, true, 0, false⟩,
  ⟨"STA_GLEAN_HIT_CNT", 0x1101614, [(0x200000, 9)], 0x0, 0x0, 0x0, true, 0x0, true, 0, false⟩,
  ⟨"STA_GLEAN_PARK_CNT", 0x1101618, [(0x200000, 9)], 0x0, 0x0, 0x0, true, 0x0, true, 0, false⟩,
  ⟨"STA_GLEAN_WAIT_EXP_CNT", 0x110161c, [(0x200000, 9)], 0x0, 0x0, 0x0, true, 0x0, true, 0, false⟩,
  ⟨"STA_GLEAN_FULL_CNT", 0x1101620, [(0x200000, 9)], 0x0, 0x0, 0x0, true, 0x0, true, 0, false⟩,
  ⟨"STA_GLEAN_AGED_CNT", 0x1101624, [(0x200000, 9)], 0x0, 0x0, 0x0, true, 0x0, true, 0, false⟩,
  ⟨"STA_GLEAN_PARK_DROP_CNT", 0x1101628, [(0x200000, 9)], 0x0, 0x0, 0x0, true, 0x0, true, 0, false⟩,
  ⟨"STA_PUNT_DROP_CNT", 0x110162c, [(0x200000, 9)], 0x0, 0x0, 0x0, true, 0x0, true, 0, false⟩,
  ⟨"STA_TBL_CMD", 0x1102000, [(0x200000, 9)], 0x703f, 0x20000, 0xf00, false, 0x0, false, 0, false⟩,
  ⟨"STA_TBL_STATUS", 0x1102004, [(0x200000, 9)], 0x0, 0x0, 0x0, false, 0x0, false, 0, false⟩,
  ⟨"STA_TBL_INDEX", 0x1102008, [(0x200000, 9)], 0x3ffffff, 0x0, 0x0, false, 0x0, false, 0, false⟩,
  ⟨"STA_TBL_RESULT", 0x110200c, [(0x200000, 9)], 0x0, 0x0, 0x0, false, 0x0, false, 0, false⟩,
  ⟨"STA_TBL_HDR0", 0x1102010, [(0x200000, 9)], 0xffffffff, 0x0, 0x0, false, 0x0, false, 0, false⟩,
  ⟨"STA_TBL_HDR1", 0x1102014, [(0x200000, 9)], 0xffffffff, 0x0, 0x0, false, 0x0, false, 0, false⟩,
  ⟨"STA_TBL_KEY[w]", 0x1102020, [(0x200000, 9), (0x4, 20)], 0xffffffff, 0x0, 0x0, false, 0x0, false, 0, false⟩,
  ⟨"STA_TBL_MASK[w]", 0x1102080, [(0x200000, 9), (0x4, 20)], 0xffffffff, 0x0, 0x0, false, 0x0, false, 0, false⟩,
  ⟨"STA_TBL_DATA[w]", 0x11020e0, [(0x200000, 9), (0x4, 8)], 0xffffffff, 0x0, 0x0, false, 0x0, false, 0, false⟩,
  ⟨"STA_TBL_CFG_STATUS", 0x1102100, [(0x200000, 9)], 0x0, 0x1, 0x0, false, 0x0, false, 0, false⟩,
  ⟨"STA_TBL_CFG[t][w]", 0x1102400, [(0x200000, 9), (0x40, 64), (0x4, 16)], 0xffffffff, 0x0, 0x0, false, 0x0, false, 0, false⟩,
  ⟨"STA_TBL_HIT_CNT[t] LO", 0x1103400, [(0x200000, 9), (0x10, 64)], 0x0, 0x0, 0x0, true, 0x0, true, 1, false⟩,
  ⟨"STA_TBL_HIT_CNT[t] HI", 0x1103404, [(0x200000, 9), (0x10, 64)], 0x0, 0x0, 0x0, true, 0x0, true, 2, false⟩,
  ⟨"STA_TBL_MISS_CNT[t] LO", 0x1103408, [(0x200000, 9), (0x10, 64)], 0x0, 0x0, 0x0, true, 0x0, true, 1, false⟩,
  ⟨"STA_TBL_MISS_CNT[t] HI", 0x110340c, [(0x200000, 9), (0x10, 64)], 0x0, 0x0, 0x0, true, 0x0, true, 2, false⟩,
  ⟨"STA_TBL_FULL_CNT", 0x1103800, [(0x200000, 9)], 0x0, 0x0, 0x0, true, 0x0, true, 0, false⟩,
  ⟨"STA_TBL_SCRUB_FIX_CNT", 0x1103804, [(0x200000, 9)], 0x0, 0x0, 0x0, true, 0x0, true, 0, false⟩,
  ⟨"STA_TBL_ECC_CNT", 0x1103808, [(0x200000, 9)], 0x0, 0x0, 0x0, true, 0x0, true, 0, false⟩,
  ⟨"STA_DEEP_MISS_CNT", 0x110380c, [(0x200000, 9)], 0x0, 0x0, 0x0, true, 0x0, true, 0, false⟩,
  ⟨"STA_DEEP_PARK_DROP_CNT", 0x1103810, [(0x200000, 9)], 0x0, 0x0, 0x0, true, 0x0, true, 0, false⟩,
  ⟨"STA_DEEP_FETCH_ERR_CNT", 0x1103814, [(0x200000, 9)], 0x0, 0x0, 0x0, true, 0x0, true, 0, false⟩,
  ⟨"STA_DEEP_PARKED", 0x1103818, [(0x200000, 9)], 0x0, 0x0, 0x0, false, 0x0, false, 0, false⟩]

def regRowsSTA1 : List RegDef := [
  ⟨"STA_L2_CTL", 0x1103820, [(0x200000, 9)], 0x1ffff, 0x0, 0x0, false, 0x1012c, false, 0, false⟩,
  ⟨"STA_L2_USED", 0x1103824, [(0x200000, 9)], 0x0, 0x0, 0x0, false, 0x0, false, 0, false⟩,
  ⟨"STA_L2_LEARN_CNT", 0x1103828, [(0x200000, 9)], 0x0, 0x0, 0x0, true, 0x0, true, 0, false⟩,
  ⟨"STA_L2_MOVE_CNT", 0x110382c, [(0x200000, 9)], 0x0, 0x0, 0x0, true, 0x0, true, 0, false⟩,
  ⟨"STA_L2_STATIC_MOVE_CNT", 0x1103830, [(0x200000, 9)], 0x0, 0x0, 0x0, true, 0x0, true, 0, false⟩,
  ⟨"STA_L2_AGED_CNT", 0x1103834, [(0x200000, 9)], 0x0, 0x0, 0x0, true, 0x0, true, 0, false⟩,
  ⟨"STA_L2_FULL_CNT", 0x1103838, [(0x200000, 9)], 0x0, 0x0, 0x0, true, 0x0, true, 0, false⟩,
  ⟨"STA_L2_LEARN_DROP_CNT", 0x110383c, [(0x200000, 9)], 0x0, 0x0, 0x0, true, 0x0, true, 0, false⟩,
  ⟨"STA_TBL_HITARR[t]", 0x1103900, [(0x200000, 9), (0x4, 62)], 0x1f, 0x0, 0x0, false, 0x0, false, 0, false⟩,
  ⟨"STA_TBL_HIT_RANGE_CNT", 0x1103840, [(0x200000, 9)], 0x0, 0x0, 0x0, true, 0x0, false, 0, false⟩,
  ⟨"STA_RET_STATUS", 0x1103a00, [(0x200000, 9), (0x100000, 2)], 0x0, 0x0, 0x0, false, 0x1, false, 0, false⟩,
  ⟨"STA_RET_MARK", 0x1103a04, [(0x200000, 9), (0x100000, 2)], 0x0, 0x0, 0x0, false, 0x0, false, 0, false⟩,
  ⟨"STA_RET_PKT_CNT_LO", 0x1103a08, [(0x200000, 9), (0x100000, 2)], 0x0, 0x0, 0x0, true, 0x0, true, 1, false⟩,
  ⟨"STA_RET_PKT_CNT_HI", 0x1103a0c, [(0x200000, 9), (0x100000, 2)], 0x0, 0x0, 0x0, true, 0x0, true, 2, false⟩,
  ⟨"STA_RET_WITHDRAW_CNT", 0x1103a10, [(0x200000, 9), (0x100000, 2)], 0x0, 0x0, 0x0, true, 0x0, true, 0, false⟩,
  ⟨"STA_RET_BYPASS_CNT", 0x1103a14, [(0x200000, 9), (0x100000, 2)], 0x0, 0x0, 0x0, true, 0x0, true, 0, false⟩,
  ⟨"STA_INTENT_OVF_CNT", 0x1103a18, [(0x200000, 9), (0x100000, 2)], 0x0, 0x0, 0x0, true, 0x0, true, 0, false⟩,
  ⟨"STA_RET_REPLAY_CNT", 0x1103a1c, [(0x200000, 9), (0x100000, 2)], 0x0, 0x0, 0x0, true, 0x0, true, 0, false⟩,
  ⟨"STA_RET_BUF_HWM", 0x1103a20, [(0x200000, 9), (0x100000, 2)], 0x0, 0x0, 0x0, true, 0x0, false, 0, false⟩,
  ⟨"STA_RET_PARK_DROP_CNT", 0x1103a24, [(0x200000, 9), (0x100000, 2)], 0x0, 0x0, 0x0, true, 0x0, true, 0, false⟩,
  ⟨"STA_ARR_CMD", 0x1103a40, [(0x200000, 9), (0x100000, 2)], 0x10f, 0x20000, 0xf0, false, 0x0, false, 0, false⟩,
  ⟨"STA_ARR_INDEX", 0x1103a44, [(0x200000, 9), (0x100000, 2)], 0x7fffff, 0x0, 0x0, false, 0x0, false, 0, false⟩,
  ⟨"STA_ARR_STATUS", 0x1103a48, [(0x200000, 9), (0x100000, 2)], 0x0, 0x100, 0x0, false, 0x0, false, 0, false⟩,
  ⟨"STA_ARR_DATA[w]", 0x1103a50, [(0x200000, 9), (0x100000, 2), (0x4, 4)], 0xffffffff, 0x0, 0x0, false, 0x0, false, 0, false⟩,
  ⟨"STA_ARR_CFG[a]", 0x1103a80, [(0x200000, 9), (0x100000, 2), (0x4, 16)], 0xffff07, 0x0, 0x0, false, 0x0, false, 0, false⟩,
  ⟨"STA_UC_BANK", 0x1103b00, [(0x200000, 9), (0x100000, 2)], 0x2, 0x0, 0x0, false, 0x0, false, 0, false⟩,
  ⟨"STA_UC_PAR_CNT", 0x1103b04, [(0x200000, 9), (0x100000, 2)], 0x0, 0x0, 0x0, true, 0x0, true, 0, false⟩,
  ⟨"STA_UC_IDX_ERR_CNT", 0x1103b08, [(0x200000, 9), (0x100000, 2)], 0x0, 0x0, 0x0, true, 0x0, true, 0, false⟩,
  ⟨"STA_UC_HDR_OVF_CNT", 0x1103b0c, [(0x200000, 9), (0x100000, 2)], 0x0, 0x0, 0x0, true, 0x0, true, 0, false⟩,
  ⟨"STA_MTR_RATE[k]", 0x1100000, [(0x200000, 9), (0x100000, 2), (0x10, 256)], 0xffffffff, 0x0, 0x0, false, 0xffffffff, false, 0, false⟩,
  ⟨"STA_MTR_BURST[k]", 0x1100004, [(0x200000, 9), (0x100000, 2), (0x10, 256)], 0x1ffff, 0x0, 0x0, false, 0x0, false, 0, false⟩,
  ⟨"STA_MTR_CMD", 0x1103c00, [(0x200000, 9), (0x100000, 2)], 0x1fff, 0x20000, 0x2000, false, 0x0, false, 0, false⟩,
  ⟨"STA_MTR_FIRST", 0x1103c04, [(0x200000, 9), (0x100000, 2)], 0x7fffff, 0x0, 0x0, false, 0x0, false, 0, false⟩,
  ⟨"STA_MTR_COUNT", 0x1103c08, [(0x200000, 9), (0x100000, 2)], 0xffffff, 0x0, 0x0, false, 0x0, false, 0, false⟩,
  ⟨"STA_MTR_STATUS", 0x1103c0c, [(0x200000, 9), (0x100000, 2)], 0x0, 0x0, 0x0, false, 0x0, false, 0, false⟩]

def regRowsSTEP0 : List RegDef := [
  ⟨"STA_STEP_CTL_s", 0x1110000, [(0x200000, 9), (0x10000, 5), (0x1000, 4)], 0x7ff, 0x0, 0x0, false, 0x0, false, 0, false⟩,
  ⟨"STA_STEP_CTL_ACT_s", 0x1110004, [(0x200000, 9), (0x10000, 5), (0x1000, 4)], 0x0, 0x0, 0x0, false, 0x0, false, 0, false⟩,
  ⟨"STA_UC_ADDR_s", 0x1110008, [(0x200000, 9), (0x10000, 5), (0x1000, 4)], 0x3fff, 0x0, 0x0, false, 0x0, false, 0, false⟩,
  ⟨"STA_UC_DATA_s", 0x111000c, [(0x200000, 9), (0x10000, 5), (0x1000, 4)], 0xffffffff, 0x0, 0x0, false, 0x0, false, 0, false⟩,
  ⟨"STA_UC_CMD_s", 0x1110010, [(0x200000, 9), (0x10000, 5), (0x1000, 4)], 0x0, 0x0, 0x3, false, 0x0, false, 0, false⟩,
  ⟨"STA_UC_STATUS_s", 0x1110014, [(0x200000, 9), (0x10000, 5), (0x1000, 4)], 0x0, 0x2, 0x0, false, 0x0, false, 0, false⟩,
  ⟨"STA_NW_DATA_s[w]", 0x1110020, [(0x200000, 9), (0x10000, 5), (0x1000, 4), (0x4, 12)], 0xffffffff, 0x0, 0x0, false, 0x0, false, 0, false⟩,
  ⟨"STA_STEP_ACT_CNT_s", 0x1110080, [(0x200000, 9), (0x10000, 5), (0x1000, 4)], 0x0, 0x0, 0x0, true, 0x0, true, 0, false⟩,
  ⟨"STA_STEP_CTL_s", 0x1210000, [(0x200000, 9), (0x10000, 3), (0x1000, 4)], 0x7ff, 0x0, 0x0, false, 0x0, false, 0, false⟩,
  ⟨"STA_STEP_CTL_ACT_s", 0x1210004, [(0x200000, 9), (0x10000, 3), (0x1000, 4)], 0x0, 0x0, 0x0, false, 0x0, false, 0, false⟩,
  ⟨"STA_UC_ADDR_s", 0x1210008, [(0x200000, 9), (0x10000, 3), (0x1000, 4)], 0x3fff, 0x0, 0x0, false, 0x0, false, 0, false⟩,
  ⟨"STA_UC_DATA_s", 0x121000c, [(0x200000, 9), (0x10000, 3), (0x1000, 4)], 0xffffffff, 0x0, 0x0, false, 0x0, false, 0, false⟩,
  ⟨"STA_UC_CMD_s", 0x1210010, [(0x200000, 9), (0x10000, 3), (0x1000, 4)], 0x0, 0x0, 0x3, false, 0x0, false, 0, false⟩,
  ⟨"STA_UC_STATUS_s", 0x1210014, [(0x200000, 9), (0x10000, 3), (0x1000, 4)], 0x0, 0x2, 0x0, false, 0x0, false, 0, false⟩,
  ⟨"STA_NW_DATA_s[w]", 0x1210020, [(0x200000, 9), (0x10000, 3), (0x1000, 4), (0x4, 12)], 0xffffffff, 0x0, 0x0, false, 0x0, false, 0, false⟩,
  ⟨"STA_STEP_ACT_CNT_s", 0x1210080, [(0x200000, 9), (0x10000, 3), (0x1000, 4)], 0x0, 0x0, 0x0, true, 0x0, true, 0, false⟩]

def regRowsLD0 : List RegDef := [
  ⟨"LD_ARR_RSV", 0x2300000, [], 0x1fffff, 0x0, 0x0, false, 0x8000, false, 0, false⟩,
  ⟨"LD_HDRM_SIZE", 0x2300004, [], 0x1fffff, 0x0, 0x0, false, 0x0, false, 0, false⟩,
  ⟨"LD_LOW_TH", 0x2300008, [], 0x1fffff, 0x0, 0x0, false, 0x10000, false, 0, false⟩,
  ⟨"LD_FREE", 0x2300010, [], 0x0, 0x0, 0x0, false, 0x100000, false, 0, false⟩,
  ⟨"LD_QUEUED", 0x2300014, [], 0x0, 0x0, 0x0, false, 0x0, false, 0, false⟩,
  ⟨"LD_HDRM_USED", 0x2300018, [], 0x0, 0x0, 0x0, false, 0x0, false, 0, false⟩,
  ⟨"LD_UNADMITTED", 0x230001c, [], 0x0, 0x0, 0x0, false, 0x0, false, 0, false⟩,
  ⟨"LD_FREE_LWM", 0x2300020, [], 0x0, 0x0, 0x0, true, 0x100000, false, 0, false⟩,
  ⟨"LD_OVF_SIZE", 0x2300030, [], 0xffff, 0x0, 0x0, false, 0x0, false, 0, false⟩,
  ⟨"LD_OVF_USED", 0x2300034, [], 0x0, 0x0, 0x0, false, 0x0, false, 0, false⟩,
  ⟨"LD_OVF_BACKLOG", 0x2300038, [], 0x0, 0x0, 0x0, false, 0x0, false, 0, false⟩,
  ⟨"LD_ARR_DROP_CNT[n]", 0x2300040, [(0x4, 8)], 0x0, 0x0, 0x0, true, 0x0, true, 0, false⟩,
  ⟨"LD_ADMIT_DROP_CNT[c]", 0x2300060, [(0x4, 8)], 0x0, 0x0, 0x0, true, 0x0, true, 0, false⟩,
  ⟨"LD_ECN_MARK_CNT", 0x2300080, [], 0x0, 0x0, 0x0, true, 0x0, true, 0, false⟩,
  ⟨"LD_OVF_LOST_CNT", 0x2300084, [], 0x0, 0x0, 0x0, true, 0x0, true, 0, false⟩,
  ⟨"LD_HOST_WAIT_CNT", 0x2300088, [], 0x0, 0x0, 0x0, true, 0x0, true, 0, false⟩,
  ⟨"LD_SLICE_SEL", 0x2310000, [], 0x3fff, 0x0, 0x0, false, 0x0, false, 0, false⟩,
  ⟨"LD_SLICE_CFG", 0x2310004, [], 0xf, 0x0, 0x0, false, 0x8, false, 0, false⟩,
  ⟨"LD_SLICE_USE", 0x2310008, [], 0x0, 0x0, 0x0, false, 0x0, false, 0, false⟩,
  ⟨"LD_SLICE_REFUSE", 0x231000c, [], 0x0, 0x0, 0x0, false, 0x0, false, 0, false⟩,
  ⟨"LD_PFC_XOFF", 0x2320000, [(0x100, 32), (0x20, 8)], 0x1fffff, 0x0, 0x0, false, 0x0, false, 0, false⟩,
  ⟨"LD_PFC_XON", 0x2320004, [(0x100, 32), (0x20, 8)], 0x1fffff, 0x0, 0x0, false, 0x0, false, 0, false⟩,
  ⟨"LD_PFC_HDRM", 0x2320008, [(0x100, 32), (0x20, 8)], 0x1fffff, 0x0, 0x0, false, 0x0, false, 0, false⟩,
  ⟨"LD_PFC_USE", 0x232000c, [(0x100, 32), (0x20, 8)], 0x0, 0x0, 0x0, false, 0x0, false, 0, false⟩,
  ⟨"LD_PFC_HUSE", 0x2320010, [(0x100, 32), (0x20, 8)], 0x0, 0x0, 0x0, false, 0x0, false, 0, false⟩,
  ⟨"LD_PFC_STATE", 0x2320014, [(0x100, 32), (0x20, 8)], 0x0, 0x0, 0x0, false, 0x0, false, 0, false⟩,
  ⟨"LD_TM_CFG_HANDLE[r]", 0x2340000, [(0x8, 16)], 0xffffffff, 0x0, 0x0, false, 0x0, false, 0, false⟩,
  ⟨"LD_TM_CFG_CTL[r]", 0x2340004, [(0x8, 16)], 0x7, 0x0, 0x0, false, 0x0, false, 0, false⟩,
  ⟨"LD_TM_STATUS", 0x2340080, [], 0x0, 0x1, 0x0, false, 0x0, false, 0, false⟩,
  ⟨"LD_TM_REC_CNT[r]", 0x2340100, [(0x8, 16)], 0x0, 0x0, 0x0, true, 0x0, true, 0, false⟩,
  ⟨"LD_TM_DROP_CNT[r]", 0x2340104, [(0x8, 16)], 0x0, 0x0, 0x0, true, 0x0, true, 0, false⟩,
  ⟨"LD_EPOCH_CTL", 0x2340200, [], 0x3f, 0x0, 0x0, false, 0x0, false, 0, false⟩,
  ⟨"LD_LEDGER_DFLT", 0x2340204, [], 0xfff, 0x0, 0x0, false, 0x0, false, 0, false⟩,
  ⟨"LD_SHEAF_CUR", 0x2370000, [], 0x0, 0x0, 0x0, false, 0x10000, false, 0, false⟩,
  ⟨"LD_SHEAF_DRAIN", 0x2370004, [], 0x0, 0x0, 0x0, false, 0x0, false, 0, false⟩,
  ⟨"LD_SHEAF_CMD", 0x2370008, [], 0x2, 0x8, 0x3001, false, 0x0, false, 0, false⟩,
  ⟨"LD_SHEAF_AT_LO", 0x2370010, [], 0xffffffff, 0x0, 0x0, false, 0x0, false, 1, false⟩,
  ⟨"LD_SHEAF_AT_HI", 0x2370014, [], 0xffffffff, 0x0, 0x0, false, 0x0, false, 2, false⟩,
  ⟨"LD_SHEAF_LIMIT", 0x2370018, [], 0xffffffff, 0x0, 0x0, false, 0x7d0, false, 0, false⟩,
  ⟨"LD_SHEAF_OLD_CNT", 0x237001c, [], 0x0, 0x0, 0x0, false, 0x0, false, 0, false⟩]

def regRowsLD1 : List RegDef := [
  ⟨"LD_SHEAF_COMMIT_TIME_LO", 0x2370020, [], 0x0, 0x0, 0x0, false, 0x0, false, 1, false⟩,
  ⟨"LD_SHEAF_COMMIT_TIME_HI", 0x2370024, [], 0x0, 0x0, 0x0, false, 0x0, false, 2, false⟩,
  ⟨"LD_SHEAF_EXPIRED_CNT", 0x2370028, [], 0x0, 0x0, 0x0, true, 0x0, true, 0, false⟩,
  ⟨"LD_SHEAF_SWEEP", 0x237002c, [], 0x0, 0x0, 0x0, false, 0x0, false, 0, false⟩,
  ⟨"LD_RH_CTL", 0x2370100, [], 0xffff00ff, 0x0, 0x0, false, 0x0, false, 0, false⟩,
  ⟨"LD_RH_STATUS", 0x2370104, [], 0x0, 0x0, 0x0, false, 0x0, false, 0, false⟩,
  ⟨"LD_RH_RING", 0x2370108, [], 0xffffffff, 0x0, 0x0, false, 0x0, false, 0, false⟩,
  ⟨"LD_RH_MASK", 0x237010c, [], 0xffffffff, 0x0, 0x0, false, 0x0, false, 0, false⟩,
  ⟨"LD_RH_TWIN_CNT_LO", 0x2370110, [], 0x0, 0x0, 0x0, true, 0x0, true, 1, false⟩,
  ⟨"LD_RH_TWIN_CNT_HI", 0x2370114, [], 0x0, 0x0, 0x0, true, 0x0, true, 2, false⟩,
  ⟨"LD_RH_DIV_CNT", 0x2370118, [], 0x0, 0x0, 0x0, true, 0x0, true, 0, false⟩,
  ⟨"LD_RH_SKIP_CNT", 0x237011c, [], 0x0, 0x0, 0x0, true, 0x0, true, 0, false⟩,
  ⟨"LD_RH_REC_DROP_CNT", 0x2370120, [], 0x0, 0x0, 0x0, true, 0x0, true, 0, false⟩]

def regRowsSC0 : List RegDef := [
  ⟨"SC_NODE_SEL", 0x2400000, [], 0xfffff, 0x0, 0x0, false, 0x0, false, 0, false⟩,
  ⟨"SC_NODE_CMD", 0x2400004, [], 0x0, 0x200, 0x7, false, 0x0, false, 0, false⟩,
  ⟨"SC_NODE_CFG[w]", 0x2400010, [(0x4, 10)], 0xffffffff, 0x0, 0x0, false, 0x0, false, 0, false⟩,
  ⟨"SC_NODE_DEPTH_PKT", 0x2400040, [], 0x0, 0x0, 0x0, false, 0x0, false, 0, false⟩,
  ⟨"SC_NODE_DEPTH_GR", 0x2400044, [], 0x0, 0x0, 0x0, false, 0x0, false, 0, false⟩,
  ⟨"SC_NODE_DEPTH_OVF", 0x2400048, [], 0x0, 0x0, 0x0, false, 0x0, false, 0, false⟩,
  ⟨"SC_NODE_STATE", 0x240004c, [], 0x0, 0x0, 0x0, false, 0x0, false, 0, false⟩,
  ⟨"SC_NODE_CREDIT_LO", 0x2400050, [], 0x0, 0x0, 0x0, false, 0x0, false, 1, false⟩,
  ⟨"SC_NODE_CREDIT_HI", 0x2400054, [], 0x0, 0x0, 0x0, false, 0x0, false, 2, false⟩,
  ⟨"SC_NODE_ENQ_LO", 0x2400060, [], 0x0, 0x0, 0x0, false, 0x0, false, 1, false⟩,
  ⟨"SC_NODE_ENQ_HI", 0x2400064, [], 0x0, 0x0, 0x0, false, 0x0, false, 2, false⟩,
  ⟨"SC_NODE_DEQ_LO", 0x2400068, [], 0x0, 0x0, 0x0, false, 0x0, false, 1, false⟩,
  ⟨"SC_NODE_DEQ_HI", 0x240006c, [], 0x0, 0x0, 0x0, false, 0x0, false, 2, false⟩,
  ⟨"SC_NODE_DEQ_GR_LO", 0x2400070, [], 0x0, 0x0, 0x0, false, 0x0, false, 1, false⟩,
  ⟨"SC_NODE_DEQ_GR_HI", 0x2400074, [], 0x0, 0x0, 0x0, false, 0x0, false, 2, false⟩,
  ⟨"SC_NODE_DROP[c]", 0x2400078, [(0x4, 7)], 0x0, 0x0, 0x0, false, 0x0, false, 0, false⟩,
  ⟨"SC_NODE_ECN", 0x2400094, [], 0x0, 0x0, 0x0, false, 0x0, false, 0, false⟩,
  ⟨"SC_NODE_FLUSHED", 0x2400098, [], 0x0, 0x0, 0x0, false, 0x0, false, 0, false⟩,
  ⟨"SC_NODE_OVF_LOST", 0x240009c, [], 0x0, 0x0, 0x0, false, 0x0, false, 0, false⟩,
  ⟨"SC_ROOT_STATUS[r]", 0x2500000, [(0x4, 48)], 0x0, 0x0, 0x0, false, 0x0, false, 0, false⟩,
  ⟨"SC_DISP_CNT_LO", 0x2500100, [], 0x0, 0x0, 0x0, true, 0x0, true, 1, false⟩,
  ⟨"SC_DISP_CNT_HI", 0x2500104, [], 0x0, 0x0, 0x0, true, 0x0, true, 2, false⟩,
  ⟨"SC_TIMED_CNT", 0x2500108, [], 0x0, 0x0, 0x0, true, 0x0, true, 0, false⟩,
  ⟨"SC_TARGET_DROP_CNT", 0x250010c, [], 0x0, 0x0, 0x0, true, 0x0, true, 0, false⟩]

def regRowsCY0 : List RegDef := [
  ⟨"CY_LA_STATUS", 0x2600000, [], 0x0, 0x0, 0x0, false, 0xff, false, 0, false⟩,
  ⟨"CY_LA_REQ_CNT_LO", 0x2600010, [], 0x0, 0x0, 0x0, true, 0x0, true, 1, false⟩,
  ⟨"CY_LA_REQ_CNT_HI", 0x2600014, [], 0x0, 0x0, 0x0, true, 0x0, true, 2, false⟩,
  ⟨"CY_LA_BYTES_LO", 0x2600018, [], 0x0, 0x0, 0x0, true, 0x0, true, 1, false⟩,
  ⟨"CY_LA_BYTES_HI", 0x260001c, [], 0x0, 0x0, 0x0, true, 0x0, true, 2, false⟩,
  ⟨"CY_LA_AUTH_FAIL_CNT", 0x2600020, [], 0x0, 0x0, 0x0, true, 0x0, true, 0, false⟩,
  ⟨"CY_LA_REDO_CNT", 0x2600024, [], 0x0, 0x0, 0x0, true, 0x0, true, 0, false⟩,
  ⟨"CY_SLICE_SEL", 0x2610000, [], 0x3fff, 0x0, 0x0, false, 0x0, false, 0, false⟩,
  ⟨"CY_SLICE_AUTH_FAIL", 0x2610004, [], 0x0, 0x0, 0x0, false, 0x0, false, 0, false⟩,
  ⟨"CY_SLICE_NOKEY", 0x2610008, [], 0x0, 0x0, 0x0, false, 0x0, false, 0, false⟩,
  ⟨"CY_IN_VERIFY_CNT", 0x2600100, [(0x20, 9)], 0x0, 0x0, 0x0, true, 0x0, true, 0, false⟩,
  ⟨"CY_IN_AUTH_FAIL_CNT", 0x2600104, [(0x20, 9)], 0x0, 0x0, 0x0, true, 0x0, true, 0, false⟩,
  ⟨"CY_IN_ENC_CNT", 0x2600108, [(0x20, 9)], 0x0, 0x0, 0x0, true, 0x0, true, 0, false⟩,
  ⟨"CY_IN_FMT_CNT", 0x260010c, [(0x20, 9)], 0x0, 0x0, 0x0, true, 0x0, true, 0, false⟩,
  ⟨"CY_IN_NOKEY_CNT", 0x2600110, [(0x20, 9)], 0x0, 0x0, 0x0, true, 0x0, true, 0, false⟩,
  ⟨"CY_IN_ASIDE_DROP_CNT", 0x2600114, [(0x20, 9)], 0x0, 0x0, 0x0, true, 0x0, true, 0, false⟩,
  ⟨"CY_IN_REKEY_CNT", 0x2600118, [(0x20, 9)], 0x0, 0x0, 0x0, true, 0x0, true, 0, false⟩,
  ⟨"CY_IN_EXHAUST_DROP_CNT", 0x260011c, [(0x20, 9)], 0x0, 0x0, 0x0, true, 0x0, true, 0, false⟩]

def regRowsKS0 : List RegDef := [
  ⟨"KS_STATUS", 0x2700000, [], 0x0, 0x0, 0x0, false, 0x0, false, 0, false⟩,
  ⟨"KS_ALARM", 0x2700004, [], 0x0, 0x1c, 0x0, false, 0x0, false, 0, true⟩,
  ⟨"KS_ERASE_CNT", 0x2700008, [], 0x0, 0x0, 0x0, true, 0x0, true, 0, false⟩,
  ⟨"KS_SLOTS_USED", 0x270000c, [], 0x0, 0x0, 0x0, false, 0x0, false, 0, false⟩,
  ⟨"KS_CCTX_USED", 0x2700010, [], 0x0, 0x0, 0x0, false, 0x0, false, 0, false⟩,
  ⟨"KS_DERIVE_CNT", 0x2700014, [], 0x0, 0x0, 0x0, true, 0x0, true, 0, false⟩,
  ⟨"KS_ERASE_TIME_LO", 0x2700018, [], 0x0, 0x0, 0x0, false, 0x0, false, 1, false⟩,
  ⟨"KS_ERASE_TIME_HI", 0x270001c, [], 0x0, 0x0, 0x0, false, 0x0, false, 2, false⟩]

def regRowsRM0 : List RegDef := [
  ⟨"RM_CTL", 0x2800000, [], 0x1, 0x0, 0x0, false, 0x0, false, 0, false⟩,
  ⟨"RM_UDP_PORT", 0x2800004, [], 0xffff, 0x0, 0x0, false, 0x0, false, 0, false⟩,
  ⟨"RM_SPILL_MB", 0x2800008, [], 0xffff, 0x0, 0x0, false, 0x0, false, 0, false⟩,
  ⟨"RM_REO_NS", 0x280000c, [], 0xffff, 0x0, 0x0, false, 0x7d0, false, 0, false⟩,
  ⟨"RM_QP_USED", 0x2800010, [], 0x0, 0x0, 0x0, false, 0x0, false, 0, false⟩,
  ⟨"RM_QP_CACHED", 0x2800014, [], 0x0, 0x0, 0x0, false, 0x0, false, 0, false⟩,
  ⟨"RM_QP_BUSY", 0x2800018, [], 0x0, 0x0, 0x0, false, 0x0, false, 0, false⟩,
  ⟨"RM_REGIONS_USED", 0x280001c, [], 0x0, 0x0, 0x0, false, 0x0, false, 0, false⟩,
  ⟨"RM_WR_INFLIGHT", 0x2800020, [], 0x0, 0x0, 0x0, false, 0x0, false, 0, false⟩,
  ⟨"RM_TX_PKT_CNT_LO", 0x2800040, [], 0x0, 0x0, 0x0, true, 0x0, true, 1, false⟩,
  ⟨"RM_TX_PKT_CNT_HI", 0x2800044, [], 0x0, 0x0, 0x0, true, 0x0, true, 2, false⟩,
  ⟨"RM_RX_PKT_CNT_LO", 0x2800048, [], 0x0, 0x0, 0x0, true, 0x0, true, 1, false⟩,
  ⟨"RM_RX_PKT_CNT_HI", 0x280004c, [], 0x0, 0x0, 0x0, true, 0x0, true, 2, false⟩,
  ⟨"RM_RETX_CNT", 0x2800050, [], 0x0, 0x0, 0x0, true, 0x0, true, 0, false⟩,
  ⟨"RM_RTO_CNT", 0x2800054, [], 0x0, 0x0, 0x0, true, 0x0, true, 0, false⟩,
  ⟨"RM_DUP_CNT", 0x2800058, [], 0x0, 0x0, 0x0, true, 0x0, true, 0, false⟩,
  ⟨"RM_NAK_TX_CNT", 0x280005c, [], 0x0, 0x0, 0x0, true, 0x0, true, 0, false⟩,
  ⟨"RM_NAK_RX_CNT", 0x2800060, [], 0x0, 0x0, 0x0, true, 0x0, true, 0, false⟩,
  ⟨"RM_REFUSE_CNT[c]", 0x2800070, [(0x4, 7)], 0x0, 0x0, 0x0, true, 0x0, true, 0, false⟩,
  ⟨"RM_CSUM_ERR_CNT", 0x2800090, [], 0x0, 0x0, 0x0, true, 0x0, true, 0, false⟩,
  ⟨"RM_PARK_CNT", 0x2800094, [], 0x0, 0x0, 0x0, true, 0x0, true, 0, false⟩,
  ⟨"RM_PARK_DROP_CNT", 0x2800098, [], 0x0, 0x0, 0x0, true, 0x0, true, 0, false⟩,
  ⟨"RM_FETCH_GM_CNT", 0x280009c, [], 0x0, 0x0, 0x0, true, 0x0, true, 0, false⟩,
  ⟨"RM_FETCH_HOST_CNT", 0x28000a0, [], 0x0, 0x0, 0x0, true, 0x0, true, 0, false⟩,
  ⟨"RM_EVICT_CNT", 0x28000a4, [], 0x0, 0x0, 0x0, true, 0x0, true, 0, false⟩,
  ⟨"RM_EVICT_ABORT_CNT", 0x28000a8, [], 0x0, 0x0, 0x0, true, 0x0, true, 0, false⟩,
  ⟨"RM_ERROR_CNT", 0x28000ac, [], 0x0, 0x0, 0x0, true, 0x0, true, 0, false⟩,
  ⟨"RM_CC_TARGET_NS[k]", 0x2800100, [(0x20, 8)], 0xffffffff, 0x0, 0x0, false, 0xfa0, false, 0, false⟩,
  ⟨"RM_CC_MIN_RATE[k]", 0x2800104, [(0x20, 8)], 0xffffffff, 0x0, 0x0, false, 0x0, false, 0, false⟩,
  ⟨"RM_CC_MAX_RATE[k]", 0x2800108, [(0x20, 8)], 0xffffffff, 0x0, 0x0, false, 0xffffffff, false, 0, false⟩,
  ⟨"RM_CC_AI[k]", 0x280010c, [(0x20, 8)], 0xffffffff, 0x0, 0x0, false, 0x10000, false, 0, false⟩,
  ⟨"RM_CC_STEP[k]", 0x2800110, [(0x20, 8)], 0xffffff, 0x0, 0x0, false, 0x30005, false, 0, false⟩,
  ⟨"RM_CC_BASE_WIN_US[k]", 0x2800114, [(0x20, 8)], 0xffffffff, 0x0, 0x0, false, 0x2710, false, 0, false⟩]

def regRowsSV0 : List RegDef := [
  ⟨"SV_CTRL_USED", 0x2900000, [], 0x0, 0x0, 0x0, false, 0x0, false, 0, false⟩,
  ⟨"SV_NS_USED", 0x2900004, [], 0x0, 0x0, 0x0, false, 0x0, false, 0, false⟩,
  ⟨"SV_INFLIGHT", 0x2900008, [], 0x0, 0x0, 0x0, false, 0x0, false, 0, false⟩,
  ⟨"SV_INFLIGHT_HWM", 0x290000c, [], 0x0, 0x0, 0x0, true, 0x0, false, 0, false⟩,
  ⟨"SV_POOL_DEGRADED_LO", 0x2900010, [], 0x0, 0x0, 0x0, false, 0x0, false, 1, false⟩,
  ⟨"SV_POOL_DEGRADED_HI", 0x2900014, [], 0x0, 0x0, 0x0, false, 0x0, false, 2, false⟩,
  ⟨"SV_RD_CMD_CNT_LO", 0x2900020, [], 0x0, 0x0, 0x0, true, 0x0, true, 1, false⟩,
  ⟨"SV_RD_CMD_CNT_HI", 0x2900024, [], 0x0, 0x0, 0x0, true, 0x0, true, 2, false⟩,
  ⟨"SV_WR_CMD_CNT_LO", 0x2900028, [], 0x0, 0x0, 0x0, true, 0x0, true, 1, false⟩,
  ⟨"SV_WR_CMD_CNT_HI", 0x290002c, [], 0x0, 0x0, 0x0, true, 0x0, true, 2, false⟩,
  ⟨"SV_RD_BYTES_LO", 0x2900030, [], 0x0, 0x0, 0x0, true, 0x0, true, 1, false⟩,
  ⟨"SV_RD_BYTES_HI", 0x2900034, [], 0x0, 0x0, 0x0, true, 0x0, true, 2, false⟩,
  ⟨"SV_WR_BYTES_LO", 0x2900038, [], 0x0, 0x0, 0x0, true, 0x0, true, 1, false⟩,
  ⟨"SV_WR_BYTES_HI", 0x290003c, [], 0x0, 0x0, 0x0, true, 0x0, true, 2, false⟩,
  ⟨"SV_OVERLAP_WAIT_CNT", 0x2900040, [], 0x0, 0x0, 0x0, true, 0x0, true, 0, false⟩,
  ⟨"SV_ABORT_CAUGHT_CNT", 0x2900044, [], 0x0, 0x0, 0x0, true, 0x0, true, 0, false⟩,
  ⟨"SV_ABORT_MISS_CNT", 0x2900048, [], 0x0, 0x0, 0x0, true, 0x0, true, 0, false⟩,
  ⟨"SV_DB_EMPTY_CNT", 0x290004c, [], 0x0, 0x0, 0x0, true, 0x0, true, 0, false⟩,
  ⟨"SV_RESET_DRAIN_CNT", 0x2900050, [], 0x0, 0x0, 0x0, true, 0x0, true, 0, false⟩,
  ⟨"SV_REISSUE_CNT", 0x2900054, [], 0x0, 0x0, 0x0, true, 0x0, true, 0, false⟩,
  ⟨"SV_JOURNAL_REC_CNT", 0x2900058, [], 0x0, 0x0, 0x0, true, 0x0, true, 0, false⟩]

def regRowsTIL0 : List RegDef := [
  ⟨"TIL_STATUS", 0x2a00000, [(0x100000, 5), (0x10000, 8)], 0x0, 0x0, 0x0, false, 0x1f8, false, 0, false⟩,
  ⟨"TIL_SS_QUIET", 0x2a00008, [(0x100000, 5), (0x10000, 8)], 0xffff, 0x0, 0x0, false, 0x64, false, 0, false⟩,
  ⟨"TIL_DMA_HANDLE", 0x2a0000c, [(0x100000, 5), (0x10000, 8)], 0x0, 0x0, 0x0, false, 0x0, false, 0, false⟩,
  ⟨"TIL_FAULT_CNT", 0x2a00010, [(0x100000, 5), (0x10000, 8)], 0x0, 0x0, 0x0, true, 0x0, true, 0, false⟩,
  ⟨"TIL_SS_CNT", 0x2a00014, [(0x100000, 5), (0x10000, 8)], 0x0, 0x0, 0x0, true, 0x0, true, 0, false⟩,
  ⟨"TIL_PUNT_CNT_LO", 0x2a00018, [(0x100000, 5), (0x10000, 8)], 0x0, 0x0, 0x0, true, 0x0, true, 1, false⟩,
  ⟨"TIL_PUNT_CNT_HI", 0x2a0001c, [(0x100000, 5), (0x10000, 8)], 0x0, 0x0, 0x0, true, 0x0, true, 2, false⟩,
  ⟨"TIL_DBG_SCOPE", 0x2a00020, [(0x100000, 5), (0x10000, 8)], 0x0, 0x0, 0x0, false, 0x0, false, 0, false⟩,
  ⟨"TIL_DBG_CMD", 0x2a00024, [(0x100000, 5), (0x10000, 8)], 0x3f0, 0x0, 0xf, false, 0x0, false, 0, false⟩,
  ⟨"TIL_DBG_STATUS", 0x2a00028, [(0x100000, 5), (0x10000, 8)], 0x0, 0x0, 0x0, false, 0x0, false, 0, false⟩,
  ⟨"TIL_DBG_ADDR", 0x2a0002c, [(0x100000, 5), (0x10000, 8)], 0xffffffff, 0x0, 0x0, false, 0x0, false, 0, false⟩,
  ⟨"TIL_DBG_DATA_LO", 0x2a00030, [(0x100000, 5), (0x10000, 8)], 0xffffffff, 0x0, 0x0, false, 0x0, false, 1, false⟩,
  ⟨"TIL_DBG_DATA_HI", 0x2a00034, [(0x100000, 5), (0x10000, 8)], 0xffffffff, 0x0, 0x0, false, 0x0, false, 2, false⟩,
  ⟨"TIL_PORT_SEL", 0x2a00040, [(0x100000, 5), (0x10000, 8)], 0x3ff, 0x0, 0x0, false, 0x0, false, 0, false⟩,
  ⟨"TIL_PORT_CMD", 0x2a00044, [(0x100000, 5), (0x10000, 8)], 0x0, 0x4, 0x1, false, 0x0, false, 0, false⟩,
  ⟨"TIL_PORT_CFG[w]", 0x2a00050, [(0x100000, 5), (0x10000, 8), (0x4, 8)], 0xffffffff, 0x0, 0x0, false, 0x0, false, 0, false⟩,
  ⟨"TIL_HANDOVER", 0x2a00070, [(0x100000, 5), (0x10000, 8)], 0x3, 0x0, 0x0, false, 0x0, false, 0, false⟩]

def regRowsTH0 : List RegDef := [
  ⟨"TH_CTL", 0x2a00400, [(0x100000, 5), (0x10000, 8), (0x40, 64)], 0xff08, 0x0, 0x17, false, 0x8, false, 0, false⟩,
  ⟨"TH_STATUS", 0x2a00404, [(0x100000, 5), (0x10000, 8), (0x40, 64)], 0x0, 0x0, 0x0, false, 0x0, false, 0, false⟩,
  ⟨"TH_PC_LO", 0x2a00408, [(0x100000, 5), (0x10000, 8), (0x40, 64)], 0xffffffff, 0x0, 0x0, false, 0x0, false, 1, false⟩,
  ⟨"TH_PC_HI", 0x2a0040c, [(0x100000, 5), (0x10000, 8), (0x40, 64)], 0xffffffff, 0x0, 0x0, false, 0x0, false, 2, false⟩,
  ⟨"TH_SP_LO", 0x2a00410, [(0x100000, 5), (0x10000, 8), (0x40, 64)], 0xffffffff, 0x0, 0x0, false, 0x0, false, 1, false⟩,
  ⟨"TH_SP_HI", 0x2a00414, [(0x100000, 5), (0x10000, 8), (0x40, 64)], 0xffffffff, 0x0, 0x0, false, 0x0, false, 2, false⟩,
  ⟨"TH_CAP", 0x2a00418, [(0x100000, 5), (0x10000, 8), (0x40, 64)], 0xffffffff, 0x0, 0x0, false, 0x0, false, 0, false⟩,
  ⟨"TH_PRIO", 0x2a0041c, [(0x100000, 5), (0x10000, 8), (0x40, 64)], 0x3, 0x0, 0x0, false, 0x0, false, 0, false⟩,
  ⟨"TH_SLICE", 0x2a00420, [(0x100000, 5), (0x10000, 8), (0x40, 64)], 0xbfff, 0x0, 0x0, false, 0x0, false, 0, false⟩,
  ⟨"TH_GROUP", 0x2a00424, [(0x100000, 5), (0x10000, 8), (0x40, 64)], 0x3f, 0x0, 0x0, false, 0x0, false, 0, false⟩,
  ⟨"TH_WAKE_LO", 0x2a00428, [(0x100000, 5), (0x10000, 8), (0x40, 64)], 0xffffffff, 0x0, 0x0, false, 0x0, false, 1, false⟩,
  ⟨"TH_WAKE_HI", 0x2a0042c, [(0x100000, 5), (0x10000, 8), (0x40, 64)], 0xffffffff, 0x0, 0x0, false, 0x0, false, 2, false⟩,
  ⟨"TH_WAKE_PORT", 0x2a00430, [(0x100000, 5), (0x10000, 8), (0x40, 64)], 0xf, 0x0, 0x0, false, 0x0, false, 0, false⟩]

def regRowsGM0 : List RegDef := [
  ⟨"GM_STATUS", 0x2f00000, [(0x100000, 2), (0x10000, 8)], 0x0, 0x0, 0x0, false, 0x0, false, 0, false⟩,
  ⟨"GM_CMD", 0x2f00004, [(0x100000, 2), (0x10000, 8)], 0x0, 0x0, 0x3, false, 0x0, false, 0, true⟩,
  ⟨"GM_CE_CNT", 0x2f00008, [(0x100000, 2), (0x10000, 8)], 0x0, 0x0, 0x0, true, 0x0, true, 0, false⟩,
  ⟨"GM_UE_CNT", 0x2f0000c, [(0x100000, 2), (0x10000, 8)], 0x0, 0x0, 0x0, true, 0x0, true, 0, false⟩,
  ⟨"GM_GUARD_FIX_CNT", 0x2f00010, [(0x100000, 2), (0x10000, 8)], 0x0, 0x0, 0x0, true, 0x0, true, 0, false⟩,
  ⟨"GM_IND_ADDR", 0x2f03f00, [(0x100000, 2), (0x10000, 8)], 0x1ffffff, 0x0, 0x0, false, 0x0, false, 0, false⟩,
  ⟨"GM_IND_DATA", 0x2f03f04, [(0x100000, 2), (0x10000, 8)], 0x0, 0x0, 0x0, false, 0x0, false, 0, false⟩,
  ⟨"GM_IND_STATUS", 0x2f03f08, [(0x100000, 2), (0x10000, 8)], 0x0, 0xe, 0x0, false, 0x0, false, 0, false⟩,
  ⟨"GM_IND_RDATA", 0x2f03f0c, [(0x100000, 2), (0x10000, 8)], 0x0, 0x0, 0x0, false, 0x0, false, 0, false⟩,
  ⟨"GM_IND_CMD", 0x2f03f10, [(0x100000, 2), (0x10000, 8)], 0x0, 0x0, 0x1, false, 0x0, false, 0, false⟩]

def regRowsSL0 : List RegDef := [
  ⟨"SL_ID", 0x10000000, [(0x80, 16384)], 0x0, 0x0, 0x0, false, 0x0, false, 0, false⟩,
  ⟨"SL_STATE", 0x10000004, [(0x80, 16384)], 0x0, 0x0, 0x0, false, 0x0, false, 0, false⟩,
  ⟨"SL_PASID", 0x10000008, [(0x80, 16384)], 0x0, 0x0, 0x0, false, 0x0, false, 0, false⟩,
  ⟨"SL_PAGES", 0x1000000c, [(0x80, 16384)], 0x0, 0x0, 0x0, false, 0x0, false, 0, false⟩,
  ⟨"SL_AQ_BASE_LO", 0x10000010, [(0x80, 16384)], 0xffffffff, 0x0, 0x0, false, 0x0, false, 1, false⟩,
  ⟨"SL_AQ_BASE_HI", 0x10000014, [(0x80, 16384)], 0xffffffff, 0x0, 0x0, false, 0x0, false, 2, false⟩,
  ⟨"SL_AQ_SIZE", 0x10000018, [(0x80, 16384)], 0x1ffff, 0x0, 0x0, false, 0x0, false, 0, false⟩,
  ⟨"SL_ACQ_BASE_LO", 0x10000020, [(0x80, 16384)], 0xffffffff, 0x0, 0x0, false, 0x0, false, 1, false⟩,
  ⟨"SL_ACQ_BASE_HI", 0x10000024, [(0x80, 16384)], 0xffffffff, 0x0, 0x0, false, 0x0, false, 2, false⟩,
  ⟨"SL_ACQ_SIZE", 0x10000028, [(0x80, 16384)], 0x1ffff, 0x0, 0x0, false, 0x0, false, 0, false⟩,
  ⟨"SL_AQ_MIRROR_LO", 0x10000030, [(0x80, 16384)], 0xffffffff, 0x0, 0x0, false, 0x0, false, 1, false⟩,
  ⟨"SL_AQ_MIRROR_HI", 0x10000034, [(0x80, 16384)], 0xffffffff, 0x0, 0x0, false, 0x0, false, 2, false⟩,
  ⟨"SL_ACQ_MIRROR_LO", 0x10000038, [(0x80, 16384)], 0xffffffff, 0x0, 0x0, false, 0x0, false, 1, false⟩,
  ⟨"SL_ACQ_MIRROR_HI", 0x1000003c, [(0x80, 16384)], 0xffffffff, 0x0, 0x0, false, 0x0, false, 2, false⟩,
  ⟨"SL_CTL", 0x10000040, [(0x80, 16384)], 0x1, 0x0, 0x2, false, 0x0, false, 0, false⟩,
  ⟨"SL_AQ_STATUS", 0x10000044, [(0x80, 16384)], 0x0, 0x0, 0x0, false, 0x0, false, 0, false⟩,
  ⟨"SL_AQ_HANDLE", 0x10000048, [(0x80, 16384)], 0x0, 0x0, 0x0, false, 0x0, false, 0, false⟩,
  ⟨"SL_ACQ_HANDLE", 0x1000004c, [(0x80, 16384)], 0x0, 0x0, 0x0, false, 0x0, false, 0, false⟩]

def regRowsLN0 : List RegDef := [
  ⟨"LN_CTL", 0x20000000, [(0x1000, 16384), (0x100, 16)], 0xffff00ff, 0x0, 0x100, false, 0x0, false, 0, false⟩,
  ⟨"LN_SLOT", 0x20000004, [(0x1000, 16384), (0x100, 16)], 0xffff, 0x0, 0x0, false, 0x0, false, 0, false⟩,
  ⟨"LN_LEN", 0x20000008, [(0x1000, 16384), (0x100, 16)], 0x1ffffff, 0x0, 0x0, false, 0x0, false, 0, false⟩,
  ⟨"LN_SRC_LO", 0x20000010, [(0x1000, 16384), (0x100, 16)], 0xffffffff, 0x0, 0x0, false, 0x0, false, 1, false⟩,
  ⟨"LN_SRC_HI", 0x20000014, [(0x1000, 16384), (0x100, 16)], 0xffffffff, 0x0, 0x0, false, 0x0, false, 2, false⟩,
  ⟨"LN_DST_LO", 0x20000018, [(0x1000, 16384), (0x100, 16)], 0xffffffff, 0x0, 0x0, false, 0x0, false, 1, false⟩,
  ⟨"LN_DST_HI", 0x2000001c, [(0x1000, 16384), (0x100, 16)], 0xffffffff, 0x0, 0x0, false, 0x0, false, 2, false⟩,
  ⟨"LN_IV[w]", 0x20000020, [(0x1000, 16384), (0x100, 16), (0x4, 4)], 0xffffffff, 0x0, 0x0, false, 0x0, false, 0, false⟩,
  ⟨"LN_STATUS", 0x20000030, [(0x1000, 16384), (0x100, 16)], 0x0, 0x6, 0x0, false, 0x0, false, 0, false⟩,
  ⟨"LN_OUT_LEN", 0x20000034, [(0x1000, 16384), (0x100, 16)], 0x0, 0x0, 0x0, false, 0x0, false, 0, false⟩,
  ⟨"LN_NOTIFY_LO", 0x20000038, [(0x1000, 16384), (0x100, 16)], 0xffffffff, 0x0, 0x0, false, 0x0, false, 1, false⟩,
  ⟨"LN_NOTIFY_HI", 0x2000003c, [(0x1000, 16384), (0x100, 16)], 0xffffffff, 0x0, 0x0, false, 0x0, false, 2, false⟩,
  ⟨"LN_NONCE_OUT[w]", 0x20000040, [(0x1000, 16384), (0x100, 16), (0x4, 4)], 0x0, 0x0, 0x0, false, 0x0, false, 0, false⟩]

/-- Every register of the device, in no particular order. -/
def regMap : List RegDef :=
  regRowsGL0 ++
  regRowsFT0 ++
  regRowsOZ0 ++
  regRowsMS0 ++
  regRowsHF0 ++
  regRowsRP0 ++
  regRowsEN0 ++
  regRowsSTA0 ++
  regRowsSTA1 ++
  regRowsSTEP0 ++
  regRowsLD0 ++
  regRowsLD1 ++
  regRowsSC0 ++
  regRowsCY0 ++
  regRowsKS0 ++
  regRowsRM0 ++
  regRowsSV0 ++
  regRowsTIL0 ++
  regRowsTH0 ++
  regRowsGM0 ++
  regRowsSL0 ++
  regRowsLN0

/-- The row that an offset falls in, if it is a register. -/
def regFind : List RegDef → Nat → Option RegDef
  | [], _ => none
  | d :: ds, off => if d.hit off then some d else regFind ds off

def regDef (off : Nat) : Option RegDef := regFind regMap off

/-- Word 0 of the admission-table entry of unit u at cold reset (R578, R605): stairs are units 0 to 8, tillers 16 to 49,
engines 64 to 72; unit k of a kind serves role k, and the last of each kind (of tillers, the last two) are spares. -/
def unitReset (u : Nat) : Nat :=
  let entry (k served total : Nat) : Nat :=
    if k < served then 0x10000 + k * 0x80000 else if k < total then 0x20000 + 0x3F * 0x80000 else 0
  if u < 16 then entry u 8 9 else if u < 64 then entry (u - 16) 32 34 else entry (u - 64) 8 9

/-- The reset value of a register (R6); an offset that is no register reads zero (R62). -/
def regReset (off : Nat) : W32 :=
  if 0x300000 ≤ off ∧ off < 0x300280 ∧ off % 8 = 0 then BitVec.ofNat 32 (unitReset ((off - 0x300000) / 8)) else
  match regDef off with
  | some d => BitVec.ofNat 32 d.reset
  | none => 0

end Sys2Proof.Machine
end

