-- ==== Sys2Proof/Machine/TypesCore.lean ====
section
/-! DEFINITION. Machine/TypesCore.lean: the shared parts of the state: associative maps, what the device sends out,
fabric time, the state of register accesses, and the event router. -/

namespace Sys2Proof.Machine

/-- A finite map from numbers, kept sorted by key with no key twice. -/
abbrev AMap (α : Type) := List (Nat × α)

/-- The output pins whose level the spec gives. The index is the port, slot or group the pin belongs to. A clock output
(TCLK_OUT, a recovered clock) that is driven high here runs, one driven low is held low. -/
inductive Pin where
  | ppsOut | tclkOut | recclk | rpPwren | rpPerstN | rpAtnled | rpPwrled | thermtripN | smbAlertN | spiCsN | uartTx
deriving DecidableEq, Repr

/-- What a port's transmit lanes carry (R148, R150, R596). -/
inductive LineOut where
  /-- `adv` is what auto-negotiation advertises (R149): the port's mode, RS(544,514) FEC being the only one, and the pause
  abilities of its FC mode; none with AN_EN clear. -/
  | training (adv : Option (Nat × Nat))
  | electricalIdle | frames | idles | remoteFault
deriving DecidableEq, Repr

/-- What leaves the device. State.out lists it, newest first. -/
inductive Emit where
  /-- A register read answered with a value. -/
  | regRead (r : Requester) (off : Nat) (v : W32)
  /-- A posted write to host memory under a function, with a PASID when the slice has one. `attr` has bit 0 for
  Relaxed Ordering, bit 1 for No Snoop, and a TPH steering tag plus one from bit 2 upward (R108, R109). -/
  | hostWrite (link fnum : Nat) (pasid : Option Nat) (addr attr : Nat) (bytes : List Byte)
  /-- A read request to host memory; `attr` as of a write, with bit 0 clear. -/
  | hostRead (link fnum : Nat) (pasid : Option Nat) (tag addr len attr : Nat)
  /-- An MSI-X message of a vector: the address and the data of its entry (R112). -/
  | msix (link fnum vector addr data : Nat)
  /-- A PCIe message or completion on a host link: what it is, and its numbers. -/
  | linkMsg (link : Nat) (what : String) (args : List Nat)
  /-- The answer to an inbound memory read in BAR4/5. -/
  | peerReply (link fnum : Nat) (sts : Nat) (bytes : List Byte)
  /-- A request to a drive below a root port. -/
  | drive (port : Nat) (what : String) (addr : Nat) (bytes : List Byte)
  /-- A frame sent on a logical Ethernet port, from its preamble to its FCS (R154). -/
  | frame (port : Nat) (bytes : List Byte)
  /-- What a port's transmit lanes carry has changed. -/
  | line (port : Nat) (what : LineOut)
  /-- The recovered-clock output of a port group carries the clock of a lane, divided (R165). -/
  | recovered (pg lane divider : Nat)
  /-- A frame sent on the management port. -/
  | mgmtFrame (bytes : List Byte)
  /-- A level driven on a pin. -/
  | pin (p : Pin) (i : Nat) (high : Bool)
  /-- A request to an indirect domain (R73): the set, whether it writes, the address and the word. -/
  | indirect (set : Nat) (write : Bool) (addr : Nat) (word : W32)
  /-- The result of a channel instruction or debug access, returned to the thread or debugger. -/
  | threadReply (tiller n : Nat) (sts : Nat) (words : List Nat)
  /-- An answer on a management interface (SMBus, I3C) or over DOE: the interface and the message. -/
  | mgmtReply (iface : Nat) (bytes : List Byte)
  /-- An NVMe completion handed to a remote or pass-through peer, or a request to a backing. -/
  | backing (what : String) (args : List Nat) (bytes : List Byte)
  /-- The value of a NONCE, INFO or other mailbox result is in registers; this marks a restart or a reset request. -/
  | control (what : String) (args : List Nat)
deriving DecidableEq, Repr

/-- Fabric time (R30 to R34). Both counts are in units of 2^-16 ns; `rem` is the part of a unit not yet counted, in
1/3,000,000 of a unit. -/
structure TimeSt where
  /-- Fabric time: bits above 16 are the nanosecond count, the low 16 the fraction. -/
  now     : Nat := 0
  /-- Elapsed time: fabric time with every step removed (R34). -/
  elapsed : Nat := 0
  rem     : Nat := 0
  /-- Core clocks since reset. -/
  clocks  : Nat := 0
  /-- The highest nanosecond count fabric time has reached (R46). -/
  maxNs   : Nat := 0
  /-- The rate correction in use, 2^-16 ppm (R32). -/
  rate    : Int := 0
  /-- The servo's integral term, 2^-16 ppm. -/
  acc     : Int := 0
  /-- Consecutive accepted samples below FT_LOCK_THRESH (R39). -/
  goodRun : Nat := 0
  /-- The next sample is the first after a step and is discarded (R41). -/
  discardNext : Bool := false
  /-- The servo stands in the clamp (EV_FT_SLEW_LIMIT is raised once per entry). -/
  inClamp : Bool := false
  /-- Elapsed time of the last accepted sample, or of the selection of the source. -/
  lastSample : Nat := 0
  /-- Elapsed time of the last PPS_IN edge, or of the selection of source 2. -/
  lastEdge : Nat := 0
  /-- PTM exchanges failed in a row; whether one is under way; elapsed time of the last start. -/
  ptmFails : Nat := 0
  ptmBusy  : Bool := false
  ptmStart : Nat := 0
  /-- The level of PPS_OUT and the elapsed time of its last rising edge. -/
  ppsHigh : Bool := false
  ppsRise : Nat := 0
  /-- The whole second of the last rising edge of PPS_OUT, if there was one. -/
  ppsSecond : Option Nat := none
  /-- Next telemetry epoch number for each action (R619): armed boundary, none while disarmed. -/
  epochRec  : Option Nat := none
  epochSnap : Option Nat := none
  /-- The highest nanosecond count before the last backward step: boundaries up to it are not crossed again (R46). -/
  barred    : Nat := 0
  /-- Core clock from which GL_SNAP_AT is the owner's again after AUTO_SNAP was cleared (R619). -/
  snapFree : Nat := 0
  /-- Register actions armed with a time already past (R47), not yet fired. -/
  lateActs : List Nat := []
  /-- TCLK_IN: 0 it runs within 100 ppm of 10 MHz, else the cause of R692, 3 stopped or 4 strayed. -/
  tclk : Nat := 0
  /-- A forward step is under way whose GL_SNAP_AT snapshot has been taken (R45, R84). -/
  stepSnap : Bool := false
deriving DecidableEq, Repr

/-- The single guarded-write window (R78, R79). -/
structure Window where
  owner : Requester
  block : Nat
  /-- Core clock at which the GL_UNLOCK write took effect. -/
  opened : Nat
deriving DecidableEq, Repr

/-- An access waiting for, or under way in, an indirect domain. -/
structure IndOp where
  /-- The stalled reader of IND_DATA, or of IND_CMD, if any. -/
  reader : Option Requester
  write  : Bool
  addr   : Nat
  word   : W32
  /-- Elapsed time of the issue, or of the arrival while it waits. -/
  since  : Nat
  /-- The requester of a write that waits (R60). -/
  owner  : Option Requester := none
  /-- An access of IND_CMD that starts nothing: a read, or a write with READ clear (R74). -/
  idle   : Bool := false
deriving DecidableEq, Repr

/-- An indirect register set: the access under way (BUSY) and those that wait. -/
structure IndSt where
  cur     : Option IndOp := none
  waiting : List IndOp := []
deriving DecidableEq, Repr

/-- An access of a requester, one of whose earlier writes still waits for an indirect domain (R60): the row of chapter 3 that
carries it (0 REGISTER_WRITE, 1 LO_REGISTER_WRITE, 2 HI_REGISTER_WRITE, 3 ALIAS_WRITE, 4 FT_STEP, 5 LO_REGISTER_READ,
6 RC_REGISTER_READ, 7 IND_DATA_READ, 8 IND_DATA_WRITE, 9 IND_CMD_READ) and its operands. -/
structure Access where
  row : Nat
  req : Requester
  off : Nat
  be  : Nat := 15
  v   : W32 := 0
  env : Env := {}
deriving DecidableEq, Repr

/-- The state of register accesses: held LO values (R66), read latches (R65), the unlock window and the IND_ sets. -/
structure AccSt where
  held   : List ((Requester × Nat) × W32) := []
  latch  : List ((Requester × Nat) × W32) := []
  window : Option Window := none
  ind    : AMap IndSt := []
  /-- Accesses behind a write that waits for an indirect domain, in order of arrival (R60). -/
  later  : List Access := []
  /-- The lowest mV of each voltage monitor since its word was last read (R642). -/
  lows   : AMap Nat := []
  /-- The model's own field: the offset of the write under way, where it is not the register's (R689). -/
  own    : Option Nat := none
deriving DecidableEq, Repr

/-- An event record awaiting delivery (R610), with the route word and destination it was given (R615). -/
structure EvRec where
  source : Nat
  seq    : Nat
  code   : Nat
  time   : Nat
  data   : List Byte
  route  : Nat
  dest   : Nat
deriving DecidableEq, Repr

/-- The window of a rate-limited source (R688): when its last record was raised, and what has been counted since. -/
structure LimWin where
  start : Nat
  count : Nat
  /-- Data fields of the last occurrence counted: width in bytes and value. -/
  last  : List (Nat × Nat)
  time  : Nat
deriving DecidableEq, Repr

/-- The event router. -/
structure EvSt where
  seq   : AMap Nat := []
  queue : List EvRec := []
  /-- Records lost before routing whose EV_EV_LOST is still to be raised. -/
  lost  : Nat := 0
  /-- Windows by source and sub-key (link or pair), source * 65,536 + key. -/
  wins  : AMap LimWin := []
deriving DecidableEq, Repr

end Sys2Proof.Machine
end

