-- ==== Sys2Proof/Machine/TypesPipe.lean ====
section
/-! DEFINITION. Machine/TypesPipe.lean: the state of the packet path: packets, logical ports (chapter 5), stairs with
their flights, tables, arrays and control stores (chapters 8 to 11), sheaves and rehearsal (chapter 10), and the
landing with its queues and shapers (chapter 12). -/

namespace Sys2Proof.Machine

/-- Why a packet is marked for parking, or what it waits for in the waiting hall. -/
inductive ParkKey where
  /-- A DEEP table of a stair: stair, table, h0, with h1 beside it (R302). -/
  | deep (stair table h0 h1 : Nat)
  /-- A glean key of a stair (R260). -/
  | glean (stair : Nat) (key : List Byte)
  /-- A queue pair, by handle index (R499). -/
  | qp (index : Nat)
  /-- Behind an earlier packet of the same flow hash (R333). -/
  | behind (id : Nat)
deriving DecidableEq, Repr

/-- A packet: its header window, the rest of its body, and its metadata word, with the copy that the landing keeps of
header and word as they stood at flight entry (R14). -/
structure Pkt where
  id     : Nat
  hdr    : List Byte
  body   : List Byte
  md     : List Byte
  hdr0   : List Byte := []
  md0    : List Byte := []
  /-- Grains held (R389). -/
  grains : Nat := 1
  /-- Departure time in ns, which holds an entry of FT_DEP_USED (R417). -/
  depart : Option Nat := none
  /-- The departure was released LATE (R45, R47). -/
  late   : Bool := false
  /-- The channel handle and entry index of the ETH_TX descriptor it came from. -/
  origin : Option (Nat × Nat) := none
  /-- For a packet the device generated: the queue pair's handle index. -/
  qp     : Option Nat := none
  /-- GRMT, what the ingress engine found (R484): none where it made no check, some 0 where the check failed, else the
  key of the region it took a reference on. -/
  rkey   : Option Nat := none
  /-- The physical stair of its ingress flight. -/
  stair  : Nat := 0
  /-- The default-action class taken, 0xFF for none (R566). -/
  cls    : Nat := 0xFF
  /-- Its body still awaits inline verification (R398). -/
  unverified : Bool := false
  /-- A glean lookup is bypassed: the FRAGMENT default is forced (R261). -/
  forced : Bool := false
  /-- Released from a glean park: it re-enters in one slot, whatever its header took first (R261). -/
  single : Bool := false
  /-- The keys it has been parked under, in order (R303, R304). -/
  waited : List ParkKey := []
  /-- The glean key of R258 with SLICE zero, for a fragment that has one. -/
  gkey   : Option (List Byte) := none
  /-- Dispatched: the root it leaves through and the channel it goes to (0 for a port). -/
  root   : Nat := 0
  dst    : Nat := 0
deriving DecidableEq, Repr

/-- An intent (R328): its kind as R365 numbers it, its array (for FLOW, the table), the element or slot, and what it
does there. A METER intent carries the element it leaves behind. -/
structure Intent where
  kind  : Nat
  array : Nat
  idx   : Nat
  op    : Nat := 0
  opnd  : Nat := 0
  cmp   : Nat := 0
  pos   : Nat := 0
  bytes : List Byte := []
deriving DecidableEq, Repr

/-- What one step did to a packet (R626). -/
structure StepRec where
  en     : Bool := false
  path   : Bool := false
  aTable : Option Nat := none
  aHit   : Option Nat := none
  bTable : Option Nat := none
  bHit   : Option Nat := none
  /-- ACTION of the entries hit in slots A and B. -/
  aAct   : Nat := 0
  bAct   : Nat := 0
  nInt   : Nat := 0
  ovf    : Bool := false
  park   : Bool := false
  action : Nat := 0
  flags  : Nat := 0
deriving DecidableEq, Repr

/-- A packet in a flight. -/
structure Climb where
  pkt   : Pkt
  /-- Flight sequence in slots (R338). -/
  seq   : Nat
  /-- The next step to run. -/
  step  : Nat := 0
  bank  : Nat := 0
  entryNs : Nat
  /-- Elapsed time of flight entry, ns. -/
  entryEl : Nat
  park  : Option ParkKey := none
  withdrawn : Bool := false
  /-- The earlier packet it must wait behind when it is withdrawn under R333. -/
  after : Option Nat := none
  intents : List Intent := []
  /-- Intents that were discarded (R331). -/
  shed  : List Intent := []
  /-- An intent was dropped under R327. -/
  ovf   : Bool := false
  /-- The packets whose pending intents it read (R332). -/
  deps  : List Nat := []
  /-- DEEP lines it hit, which stay pinned until it retires (R304). -/
  pins  : List (Nat × Nat) := []
  /-- Layers whose IPv4 checksum is recomputed at retire (R368). -/
  csum  : List Nat := []
  /-- A header edit overflowed the window (R367). -/
  hdrOvf : Bool := false
  steps : List StepRec := []
  replay : Bool := false
  reentry : Bool := false
  /-- A twin: the sequence of the live climb it shadows. -/
  twin  : Option Nat := none
  /-- A marker of a software command on an array or meter: its number (R337). -/
  marker : Option Nat := none
deriving DecidableEq, Repr

/-- What waits to enter a flight through the third source of R12 besides packets: a marker (R337, R415, R416). `what`
is 2 WRITE, 3 READ_CLEAR, 5 CLEAR, 6 a meter assignment, 7 a meter refresh; `src` is the stair whose registers carried
the command, and `bcast` says whether it went to all nine. -/
structure Marker where
  what  : Nat
  array : Nat
  idx   : Nat
  opnd  : Nat
  src   : Nat
  bcast : Bool
  /-- It stands for this many markers, of rising elements. -/
  n     : Nat := 1
deriving DecidableEq, Repr

/-- The sources of a flight (R12): wire frames, re-entries, and packets and markers of the third source. -/
structure EntryQ where
  wire   : List Pkt := []
  again  : List Pkt := []
  other  : List Pkt := []
  marks  : List Marker := []
  /-- Packets to be replayed before any other source: their sequence and entry times (R340). -/
  replay : List (Pkt × Nat × Nat × Nat) := []
deriving DecidableEq, Repr

/-- A flight of a stair. -/
structure Flight where
  climbs : List Climb := []
  /-- The sequence that the next entry takes, and the retire mark. -/
  seq    : Nat := 1
  mark   : Nat := 0
  nextMark : Nat := 0
  /-- Markers in the flight, by number. -/
  inside : AMap Marker := []
  /-- The element found by each bank exchange: which bank of an array is live (R336). -/
  liveBank : AMap Nat := []
  /-- Array elements by array * 2^24 + bank * 2^23 + index. -/
  elems  : AMap Nat := []
  /-- Candidates counted per ring (R624), and ledger records waiting for a ring. -/
  cand   : AMap Nat := []
deriving DecidableEq, Repr

/-- A table entry (R278); for L2, `flags` has bit 0 STATIC and bit 1 HIT. -/
structure TEntry where
  always  : Bool := true
  retSet  : Bool := false
  action  : Nat := 0
  pri     : Nat := 0
  born    : Nat := 0
  retired : Nat := 0
  flags   : Nat := 0
  key     : List Byte := []
  mask    : List Byte := []
  data    : List Byte := []
deriving DecidableEq, Repr

/-- A table command that waits (R309, R318): the registers it read at its start. -/
structure TblCmd where
  op     : Nat
  table  : Nat
  bcast  : Bool
  staged : Bool
  flag   : Bool
  index  : Nat
  hdr0   : Nat
  hdr1   : Nat
  key    : List Byte
  mask   : List Byte
  data   : List Byte
  /-- No pending commit held it when it was written, so that a commit waits for it (R318, R319). -/
  early  : Bool := false
  /-- What the table SRAM words that it reads in each stair hold, two bits per stair: 0 good words, 1 a corrected error, 2 or 3 an
  uncorrectable one (R276). -/
  ecc    : Nat := 0
deriving DecidableEq, Repr

/-- A DEEP bucket being fetched or cached: table, bucket; `used` orders replacement, least recent first. -/
structure DeepLine where
  table  : Nat
  bucket : Nat
  valid  : Bool
  used   : Nat
deriving DecidableEq, Repr

/-- A learn request (R298): the 16-byte operand. -/
abbrev LearnReq := List Byte

/-- A result slot of a step (R272). -/
structure Slot where
  table  : Nat
  hit    : Bool := false
  idx    : Nat := 0
  action : Nat := 0
  data   : List Byte := []
deriving DecidableEq, Repr

/-- A physical stair. Its state blocks are those of the role it serves (R339). -/
structure Stair where
  ing    : Flight := {}
  egr    : Flight := {}
  /-- Parse entries by bank * 256 + index, 256 bits each. -/
  parse  : AMap Nat := []
  /-- Control stores: see `ucKey`. -/
  uc     : AMap Nat := []
  tbls   : AMap (AMap TEntry) := []
  /-- The guarded copy of the entries that commands wrote, by table (R277). -/
  shadow : AMap (AMap TEntry) := []
  lines  : List DeepLine := []
  clock  : Nat := 0
  learns : List LearnReq := []
  /-- Bridge-domain keys whose HIT a learn request set in the core clock `learntAt` (R299). -/
  learnt : List (List Byte) := []
  learntAt : Nat := 0
  /-- What a takeover has yet to load of the L2 mirror, and how many entries it has loaded while it lasts (R301). -/
  loading : List TEntry := []
  loaded : Option Nat := none
  /-- What the mirror of the L2 store holds beyond the store itself: a stair keeps it through its reset (R301). -/
  mirror : List TEntry := []
  cmd    : Option TblCmd := none
  /-- Outcomes by stair of the array command (key: flight) or meter command (key: 2 + flight) that its registers run. -/
  outs   : AMap (List (Nat × Byte)) := []
  /-- Held configuration words, by table * 16 + word. -/
  held   : AMap Nat := []
  /-- Elapsed time of the last ageing pass. -/
  aged   : Nat := 0
  /-- Twins under way, ingress then egress. -/
  twinI  : List Climb := []
  twinE  : List Climb := []
deriving DecidableEq, Repr

/-- A packet in the waiting hall. -/
structure Parked where
  stair : Nat
  flight : Nat
  key   : ParkKey
  pkt   : Pkt
  since : Nat
deriving DecidableEq, Repr

/-- The outcome of a live retire that a twin is compared with (R347). -/
structure Outcome where
  flight : Nat
  seq    : Nat
  skip   : Bool
  time   : Nat
  md     : List Byte
  intents : List Intent
  steps  : List StepRec
deriving DecidableEq, Repr

/-- Sheaves and rehearsal. -/
structure SheafSt where
  /-- A pending commit waits for a staged command, or (timed) for its time. -/
  pending : Bool := false
  timed   : Bool := false
  late    : Bool := false
  /-- Elapsed ns of the last commit, and whether the drain limit has acted. -/
  since   : Nat := 0
  limited : Bool := false
  expired : Nat := 0
  /-- Fabric time, ns, at which what holds a timed commit last ended: a drain or a staged command (R319). -/
  freed   : Nat := 0
  /-- Sheaves whose sweep is unfinished, oldest first (R280). -/
  sweeps  : List Nat := []
  /-- Flights whose banks the last commit exchanged: bit 0 ingress, bit 1 egress. -/
  exchanged : Nat := 0
  /-- Headers counted per flight during a rehearsal, and live outcomes not yet matched. -/
  rhCount : AMap Nat := []
  live    : List Outcome := []
deriving DecidableEq, Repr

/-- A packet in a queue of the landing. -/
structure QPkt where
  pkt   : Pkt
  /-- 0 shared, 1 headroom, 2 overflow. -/
  pool  : Nat
  /-- Overflow units held. -/
  units : Nat := 0
  /-- The copy to overflow is not complete. -/
  copying : Bool := false
  /-- Controller of the overflow body. -/
  ctrl  : Nat := 0
  /-- The pair it is accounted to: port * 8 + priority. -/
  pair  : Option Nat := none
  /-- Logical stair of its egress flight. -/
  stair : Nat := 0
  /-- Its departure has been released (R418). -/
  released : Bool := false
deriving DecidableEq, Repr

/-- A shaper (R412): credit in 2^-16 credit. -/
structure Shaper where
  credit : Int := 65536
  rem    : Nat := 0
  last   : Nat := 0
deriving DecidableEq, Repr

/-- A node of the scheduling tree. -/
structure Node where
  /-- The ten configuration words in force. -/
  cfg    : List Nat
  sh     : Shaper := {}
  pkts   : List QPkt := []
  /-- Queued and headroom grains, and overflow units. -/
  use    : Nat := 0
  ovf    : Nat := 0
  enq    : Nat := 0
  deq    : Nat := 0
  deqGr  : Nat := 0
  drops  : AMap Nat := []
  ecn    : Nat := 0
  flushed : Nat := 0
  ovfLost : Nat := 0
  /-- Groups and classes: the child that holds the turn, and the dispatches left of its turn (R409). -/
  turn   : Nat := 0
  left   : Nat := 0
  /-- Queues: order of creation, by EN (R221). -/
  born   : Nat := 0
deriving DecidableEq, Repr

/-- Congestion-control state of a transmit queue (R496). -/
structure CcSt where
  rate    : Nat
  base   : Int
  winMin : Int
  winStart : Nat
  lastCut : Nat := 0
  lastInc : Nat := 0
  stepGen : Nat := 0
deriving DecidableEq, Repr

/-- The landing. -/
structure Landing where
  queues : AMap Node := []
  groups : AMap Node := []
  classes : AMap Node := []
  roots  : AMap Node := []
  /-- Slices: ALPHA, grains in use, refusals. -/
  alpha  : AMap Nat := []
  use    : AMap Nat := []
  refuse : AMap Nat := []
  hall   : List Parked := []
  /-- Entry sources by logical stair * 2 + flight. -/
  entry  : AMap EntryQ := []
  nextPkt : Nat := 0
  /-- Queues created so far. -/
  births : Nat := 0
  /-- The next controller for an overflow copy. -/
  rotate : Nat := 0
  cc     : AMap CcSt := []
  /-- Packets dispatched and not yet begun at the transmit contact, by root (R408). -/
  begun  : AMap Nat := []
  /-- The core clock in which each logical stair's egress flight last took a header, and the packet that a root keeps as its
  choice, by queue and number, because it found that slot taken (R410). -/
  slots  : AMap Nat := []
  kept   : AMap (Nat × Nat) := []
  /-- Packets at the write engine whose function may not issue requests now, oldest first (R116, R117). -/
  stuck  : List Pkt := []
deriving DecidableEq, Repr

/-- A frame handed to a MAC: the bytes without FCS, and the transmit directive's metadata. -/
structure TxFrame where
  bytes  : List Byte
  md     : List Byte
  origin : Option (Nat × Nat) := none
  late   : Bool := false
  grains : Nat := 0
deriving DecidableEq, Repr

/-- A logical port. -/
structure PortSt where
  /-- Lock holds on every lane; local fault and remote fault ordered sets are received. -/
  lock   : Bool := false
  lf     : Bool := false
  rf     : Bool := false
  /-- Elapsed time since which the present combination of these has held. -/
  since  : Nat := 0
  /-- Elapsed time of entry to TRAINING or TRAIN_FAIL. -/
  trained : Nat := 0
  /-- Pause timers by priority, 8 for 802.3x: the elapsed time at which each ends. -/
  pause  : AMap Nat := []
  /-- Classes paused by reception: the elapsed time since which, and those whose pause is ignored (R158). -/
  paused : AMap Nat := []
  ignore : List Nat := []
  /-- Priorities in XOFF: the elapsed time of the last frame sent for each. -/
  xoff   : AMap Nat := []
  /-- Priorities whose XOFF changed since the last control frame, and the elapsed time at which that frame has been sent. -/
  ctl    : List Nat := []
  ctlEnd : Nat := 0
  fifo   : List (Nat × Nat × Nat) := []
  tx     : List TxFrame := []
  /-- Consecutive milliseconds at or below the degrade threshold, and the millisecond of elapsed time judged last. -/
  goodMs : Nat := 0
  fecMs  : Nat := 0
  /-- What the transmit lanes carry. -/
  sends  : LineOut := .electricalIdle
  /-- SerDes words by lane * 2^20 + word. -/
  serdes : AMap Nat := []
deriving DecidableEq, Repr

/-- The network side: ports by number, a mode change under way by group (the mode, its elapsed start), and the elapsed time
since which the lane of a group's recovered clock has held lock and signal. -/
structure NetSt where
  ports : AMap PortSt := []
  modes : AMap (Nat × Nat) := []
  rclk  : AMap Nat := []
deriving DecidableEq, Repr

/-- Units under the failover sequencer (chapter 17). -/
structure UnitSt where
  /-- Elapsed time of each unit's last heartbeat. -/
  beats : AMap Nat := []
  /-- Takeovers under way by kind * 64 + role: failed unit, spare unit, elapsed start. -/
  takeovers : AMap (Nat × Nat × Nat) := []
  /-- Re-admissions under way by unit: elapsed start. -/
  tests : AMap Nat := []
  /-- Handover under way: old unit, new unit, phase, elapsed start. -/
  handover : Option (Nat × Nat × Nat × Nat) := none
  /-- Elapsed times of each unit's fences of the last 24 hours. -/
  fences : AMap (List Nat) := []
  /-- A rolling update: the logical tillers still to hand over, and the image. -/
  rolling : List Nat := []
  /-- A word of the golden copy could not be read: loads are refused with cause 7 (R384). -/
  goldenBad : Bool := false
  /-- Stairs fenced for a parity error: its flight, step, store, bank and address (R383). -/
  mcheck : AMap (List Nat) := []
  /-- Elapsed times of the last uncorrectable errors of each GDDR7 controller (R600). -/
  ues : AMap (List Nat) := []
deriving DecidableEq, Repr

end Sys2Proof.Machine
end

