-- ==== Sys2Proof/Machine/TypesCy.lean ====
section
/-! DEFINITION. Machine/TypesCy.lean: the state of the key store and the cipher engines (chapter 13). -/

namespace Sys2Proof.Machine

/-- A key slot that holds a key (R431, R432): role 0 unset, 1 DIRECT, 2 ROOT, 3 WRAP; `ctr` is the counter of lookaside
GCM_ENC (R441). -/
structure KeySlot where
  key  : Nat
  salt : Nat
  role : Nat := 0
  ctr  : Nat := 0
deriving DecidableEq, Repr

/-- A cipher context (R437); `slot` is the absolute number of its key slot. -/
structure Cctx where
  slice  : Nat
  slot   : Nat
  derive : Bool
  side   : Nat
  label  : List Byte
  /-- 0 ACTIVE, 1 EXHAUSTED, 2 KEYLESS. -/
  state  : Nat := 0
  txEpoch : Nat
  txCtr  : Nat := 0
  rxEpoch : Nat
  /-- The previous receive epoch, once there has been one (R442). -/
  rxPrev : Option Nat := none
  fails  : Nat := 0
deriving DecidableEq, Repr

/-- Where a lookaside request comes from. -/
inductive LaFrom where
  | lane (l : Nat)
  | chan (ch idx : Nat)
deriving DecidableEq, Repr

/-- A lookaside request: what it read at its start. -/
structure LaReq where
  slice  : Nat
  origin : LaFrom
  engine : Nat
  op     : Nat
  aad    : Nat
  len    : Nat
  src    : Nat
  dst    : Nat
  iv     : List Byte
  /-- Absolute slots of its keys, and the keys and salt as loaded. -/
  slots  : List Nat := []
  keys   : List Nat := []
  salt   : Nat := 0
  /-- GCM_ENC: the nonce drawn for it. -/
  nonce  : List Byte := []
  /-- The status it fails with, or completes with at once. -/
  fixed  : Option Byte := none
  notify : Nat := 0
deriving DecidableEq, Repr

/-- A packet that an inline engine has set aside (R446): at ingress it stays in its queue. -/
structure Aside where
  stair  : Nat
  flight : Nat
  qp     : Bool
  ctx    : Nat
  /-- The derived key it waits for: direction (0 transmit, 1 receive) and epoch. -/
  dir    : Nat
  epoch  : Nat
  /-- Ingress: the queue and packet number. Egress: the packet, its nonce written, and its logical stair. -/
  queue  : Nat := 0
  id     : Nat := 0
  pkt    : Option Pkt := none
  role   : Nat := 0
  nonce  : List Byte := []
deriving DecidableEq, Repr

/-- The key store and cipher engines. -/
structure CySt where
  slots  : AMap KeySlot := []
  ctxs   : AMap Cctx := []
  /-- Derivation caches by physical stair: key by `dkCode`. -/
  caches : AMap (AMap Nat) := []
  aside  : List Aside := []
  reqs   : AMap LaReq := []
  nextReq : Nat := 0
  /-- The request that each lookaside engine runs, and the slice it served last (R452). -/
  serving : AMap Nat := []
  turn   : AMap Nat := []
  /-- Completions by lane, slice * 16 + lane. -/
  lanes  : AMap Nat := []
  /-- Authentication failures and key misses by slice. -/
  authFail : AMap Nat := []
  noKey  : AMap Nat := []
deriving DecidableEq, Repr

end Sys2Proof.Machine
end

