-- ==== Sys2Proof/Machine/TypesHost.lean ====
section
/-! DEFINITION. Machine/TypesHost.lean: the state of host links, functions, host-memory reads and root ports
(chapter 4), of channels (chapter 6) and of slices (chapter 7). -/

namespace Sys2Proof.Machine

/-- One entry of an MSI-X table with its pending bit (R112). -/
structure MsixEnt where
  addr    : Nat := 0
  data    : Nat := 0
  masked  : Bool := true
  /-- The TPH steering tag of the entry (R99, R109). -/
  st      : Nat := 0
  pending : Bool := false
deriving DecidableEq, Repr

/-- A peer window (R122): the fields of its six words. -/
structure PeerWin where
  baseMb  : Nat := 0
  sizeMb  : Nat := 0
  target  : Nat := 0
  kind    : Nat := 0
  rdEn    : Bool := false
  wrEn    : Bool := false
  link    : Nat := 0
  tfn     : Nat := 0
  pasidEn : Bool := false
  pasid   : Nat := 0
deriving DecidableEq, Repr

/-- A PCIe function. Its configuration space is held by double word; a word not listed has its reset value. -/
structure FnSt where
  cfg      : AMap Nat := []
  /-- A VF is enabled by VF Enable and NumVFs; PF0 always is. -/
  enabled  : Bool := false
  /-- Elapsed time at which a running FLR started. -/
  flr      : Option Nat := none
  /-- 0 none, 1 CONFIG_UNLOCKED, 2 CONFIG_LOCKED, 3 RUN, 4 ERROR (R127). -/
  tdisp    : Nat := 0
  msixAlloc : Nat := 0
  nvme     : Bool := false
  tagMax   : Nat := 0
  cfgErr   : Bool := false
  cfgCause : Nat := 0
  /-- Base-2 logarithms of the BAR2/3 and BAR4/5 sizes, and of the VF BAR sizes of PF0. -/
  bar2     : Nat := 0
  bar4     : Nat := 0
  vfBar2   : Nat := 0
  vfBar4   : Nat := 0
  msix     : AMap MsixEnt := []
  live     : AMap PeerWin := []
  shadow   : AMap PeerWin := []
  winGen   : Nat := 0
  winErr   : Bool := false
  /-- Accesses under way that were translated under the live set, and under the previous one (R124). -/
  winBusy  : Nat := 0
  oldBusy  : Nat := 0
  drained  : Bool := true
  winUrCnt : Nat := 0
deriving DecidableEq, Repr

/-- What a host-memory read is for. -/
inductive Work where
  /-- `n` ring entries of a channel from index `first`. -/
  | desc (ch first n : Nat)
  /-- The gather list of entry `idx`. -/
  | gather (ch idx : Nat)
  /-- Payload of entry `idx`, placed at byte `pos` of the packet. -/
  | payload (ch idx pos : Nat)
  /-- A peer-window read on another link: the asking function, and HF_WIN_GEN when it was translated. -/
  | peer (link fnum gen : Nat)
deriving DecidableEq, Repr

/-- One request of a host-memory read (R104): its piece of the read, its tag once issued, and its timeout. -/
structure RdReq where
  read    : Nat
  link    : Nat
  fnum    : Nat
  addr    : Nat
  len     : Nat
  tag     : Option Nat := none
  /-- Bytes of the request that have arrived. -/
  got     : Nat := 0
  /-- Elapsed time at which it times out (R107). -/
  deadline : Nat := 0
  /-- Its completion is discarded on arrival: Bus Master Enable was cleared (R115). -/
  discard : Bool := false
  /-- Its tag is in quarantine after a reset (R118). -/
  quarantine : Bool := false
deriving DecidableEq, Repr

/-- A host-memory read under way or complete. -/
structure HRead where
  work  : Work
  link  : Nat
  fnum  : Nat
  pasid : Option Nat
  addr  : Nat
  data  : List Byte
  /-- Requests not yet complete. -/
  left  : Nat
  failed : Option Byte := none
  /-- No Snoop and the steering tag of its requests (R109). -/
  attr  : Nat := 0
deriving DecidableEq, Repr

/-- A configuration request to a drive (R142). -/
structure DriveCfg where
  write : Bool
  addr  : Nat
  data  : Nat
  since : Nat
deriving DecidableEq, Repr

/-- A request outstanding to a drive; the key of its map is the storage command it serves. -/
structure DriveReq where
  write : Bool
  /-- Bytes of read data already forwarded to the host (R21). -/
  got   : Nat := 0
  /-- The drive has completed it. -/
  done  : Bool := false
deriving DecidableEq, Repr

/-- A root port and its slot. -/
structure RootPort where
  cfg      : AMap Nat := []
  /-- Filtered presence. -/
  present  : Bool := false
  /-- RP_PWREN; RP_PERST_N asserted. -/
  power    : Bool := false
  perst    : Bool := true
  /-- Elapsed time at which slot power rose, while RP_PERST_N is still to be released (R135). -/
  rose     : Option Nat := none
  /-- Elapsed time at which RP_PERST_N was asserted for a power-off, while RP_PWREN is still to fall (R135). -/
  dropping : Option Nat := none
  /-- DPC has triggered and the port is contained. -/
  dpc      : Bool := false
  dcfg     : Option DriveCfg := none
  reqs     : AMap DriveReq := []
deriving DecidableEq, Repr

/-- Host faces and root ports. Link, rate and PERST levels stand in the HF_ registers. -/
structure HostSt where
  fns   : AMap FnSt := []
  reads : AMap HRead := []
  nextRead : Nat := 0
  reqs  : List RdReq := []
  /-- IDE streams by link * 4 + stream: 0 no key, 1 secure, 2 insecure (R126; the codes are the model's, log entry 23). -/
  ide   : AMap Nat := []
  /-- The keys of IDE streams, by link * 4 + stream (R126). -/
  ideKeys : AMap Nat := []
  rps   : AMap RootPort := []
  /-- The host link of the owner function; none when the owner is on tillers (R208). -/
  owner : Option Nat := none
  /-- Straps sampled at power good: bifurcation mode and clock mode by face (R93, R674). -/
  clkMode : AMap Nat := []
deriving DecidableEq, Repr

/-- The completion of an entry (R191), but for its handle, index and phase. -/
structure Cpl where
  cookie : Nat := 0
  handle : Nat := 0
  status : Byte := 0
  op     : Nat := 0
  /-- Bits 16 to 19 of word 0x0C: LATE, TS_VALID, IMM_VALID, DROPPED. -/
  flags  : Nat := 0
  len    : Nat := 0
  aux    : Nat := 0
  /-- TIME where the entry carries one of its own; else the time at which it is written. -/
  time   : Option Nat := none
deriving DecidableEq, Repr

/-- A fetched entry whose completion has not been written. -/
structure Ent where
  idx    : Nat
  desc   : List Byte
  /-- Its work has begun (R199). -/
  begun  : Bool := false
  /-- It holds a departure entry that no packet has taken over (R417). -/
  dep    : Bool := false
  /-- Its departure time had passed when the descriptor was fetched (R47). -/
  late   : Bool := false
  /-- Its frame waits for free grains (R391). -/
  hold   : Bool := false
  /-- The packet that carries its frame, once there is one. -/
  pkt    : Option Nat := none
  /-- The gather or scatter elements: address, length, key. -/
  elems  : List (Nat × Nat × Nat) := []
  /-- Payload gathered so far, and the number of reads still to complete. -/
  buf    : List Byte := []
  waits  : Nat := 0
  result : Option Cpl := none
deriving DecidableEq, Repr

/-- A command held while its channel is STALLED (R201): 0 disable, 1 enable, 2 reset. -/
abbrev HeldCmd := Nat

/-- A pending notification of an event ring (R195): the channel, the code, and its data. -/
structure Note where
  handle : Nat
  code   : Nat
  state  : Nat
  status : Nat
  pidx   : Nat
deriving DecidableEq, Repr

/-- A channel. The map key of a channel is its index; its handle is gen * 2^24 + index (R171). -/
structure Chan where
  gen      : Nat
  kind     : Nat
  slice    : Nat
  page     : Nat
  slot     : Nat
  size     : Nat
  base     : Nat
  mirror   : Nat
  bind     : Nat
  srq      : Nat := 0
  prefetch : Nat := 8
  modCount : Nat := 0
  modTime  : Nat := 0
  vector   : Nat := 0
  noVector : Bool := true
  /-- 1 ACTIVE, 2 DISABLED, 3 STALLED, 4 ERROR. -/
  state    : Nat := 1
  /-- The state that STALLED returns to. -/
  before   : Nat := 1
  err      : Nat := 0
  /-- Software-produced rings: the PIDX register and its last sample. -/
  pidxReg  : Nat := 0
  sampled  : Nat := 0
  cidx     : Nat := 0
  /-- Device-produced rings: the device's own producer index. -/
  pidx     : Nat := 0
  armVal   : Nat := 0
  armed    : Bool := false
  idle     : Bool := false
  /-- Entries whose read is under way, from `cidx` upward. -/
  fetching : Nat := 0
  ents     : List Ent := []
  /-- Completion slots reserved on this CQ (R183). -/
  reserved : Nat := 0
  entries  : Nat := 0
  nobuf    : Nat := 0
  home     : Nat := 0
  /-- Order of creation (R221). -/
  born     : Nat := 0
  held     : List HeldCmd := []
  /-- Event rings: notifications not yet written, their sequence, and device records dropped for want of room. -/
  notes    : List Note := []
  noteSeq  : Nat := 0
  dropped  : Nat := 0
  /-- Event rings: entries since the last message, and the elapsed time of the first of them (R196). -/
  modN     : Nat := 0
  modFirst : Nat := 0
  /-- What waits for the drain of R199: 1 reset, 2 destruction, 3 destruction by a reclaim (R221); 0 nothing. -/
  draining : Nat := 0
deriving DecidableEq, Repr

/-- Channels, and the memory of free indices (R171, R172). -/
structure ChanSt where
  chans  : AMap Chan := []
  /-- The generation each used index last carried. -/
  gens   : AMap Nat := []
  /-- Elapsed time of the last destruction of each index. -/
  freed  : AMap Nat := []
  /-- PAGE_DB_EMPTY by function page: (link * 256 + fn) * 65,536 + page. -/
  dbEmpty : AMap Nat := []
  births : Nat := 0
  /-- Indices held by channel ports and DMA engines of tillers, with their generations (R552). -/
  ports  : AMap Nat := []
  /-- Admin commands that complete later, by issuing slice: opcode, cookie, and the handle or number they wait on. -/
  adminWait : AMap (Nat × Nat × Nat) := []
deriving DecidableEq, Repr

/-- A dirty-log range (R230): the pages marked and not yet reported. -/
structure LogRange where
  base   : Nat
  len    : Nat
  bitmap : Nat
  marks  : List Nat := []
deriving DecidableEq, Repr

/-- A slice. -/
structure Slice where
  /-- The host link and function; no link for slice 0 with the owner on tillers. -/
  link   : Option Nat
  fnum   : Nat
  pasid  : Option Nat
  page0  : Nat
  pages  : Nat
  hbase  : Nat := 0
  hcount : Nat := 0
  /-- 1 ACTIVE, 2 RESETTING, 3 FAULTED, 4 FROZEN. -/
  state  : Nat := 1
  fault  : Nat := 0
  gen    : Nat := 0
  /-- Limits by resource 0 to 7 (R216). -/
  limits : AMap Nat := []
  ksBase : Nat := 0
  logs   : AMap LogRange := []
  /-- A running freeze: elapsed start and timeout in microseconds (0 none). -/
  freeze : Option (Nat × Nat) := none
  /-- The running reset has stopped the slice's work (R227, steps 2 to 5). -/
  stopped : Bool := false
  /-- The running reset ends in ABSENT (DESTROY_SLICE). -/
  dying  : Bool := false
  /-- Why the running reset started: 1 SL_CTL, 2 RESET_SLICE, 3 FLR, 4 link reset, 5 VF Enable, 6 DESTROY_SLICE. -/
  cause  : Nat := 0
  /-- MiB of its GDDR7 that have been written or zeroed since allocation (R228). -/
  written : List Nat := []
deriving DecidableEq, Repr

/-- Slice 0: bound to the owner function, with every quota at its maximum (R209, R216). -/
def ownerSlice (owner : Option Nat) : Slice :=
  { link := owner, fnum := 0, pasid := none, page0 := 0, pages := 1 + Config.ownerPages % 16320,
    limits := [(0, 1048576), (1, 262144), (2, 8388608), (3, 4194304), (4, 16777216), (5, 65536), (6, 1024), (7, 0)] }

end Sys2Proof.Machine
end

