-- ==== Sys2Proof/Machine/TypesOz.lean ====
section
/-! DEFINITION. Machine/TypesOz.lean: the state of Ozelm (chapter 20) and of telemetry (chapter 18). -/

namespace Sys2Proof.Machine

/-- Telemetry rings: records each ring has dropped since its last epoch record, and ledgers written to it. -/
structure TmSt where
  drops  : AMap Nat := []
  ledger : AMap Nat := []
deriving DecidableEq, Repr

/-- A mailbox command that waits for the flash-write deferral to end (R647): its OP, its arguments, and what host memory
answers it. -/
structure MbWait where
  op   : Nat
  args : List Nat
  env  : Env
deriving DecidableEq, Repr

/-- Ozelm, its always-on domain and the fuses. -/
structure OzSt where
  /-- The log records in SRAM, oldest first, with their numbers, and how many of the last are not yet mirrored. -/
  log  : List (Nat × List Byte) := []
  todo : Nat := 0
  /-- PWR_GOOD is asserted; a supply reset holds the device since an elapsed time (R668). -/
  good : Bool := false
  down : Option Nat := none
  /-- The update session: its route (0 mailbox, 1 PLDM, 2 NVMe) and its step, 1 begun, 2 verified, 3 activated (R654). -/
  route : Nat := 0
  step  : Nat := 0
  /-- A running restart: elapsed start, slot, cause (R656). -/
  restart : Option (Nat × Nat × Nat) := none
  /-- The unused nonce of the last NONCE command, with its elapsed time. -/
  nonce : Option (Nat × Nat) := none
  /-- The open debug scope: KIND, slice, EXPIRY (R659). -/
  scope : Option (Nat × Nat × Nat) := none
  /-- SPDM measurement 8: the running chain of scopes opened. -/
  history : List Byte := []
  /-- Fuses: life-cycle state, anti-rollback count, hash of the owner's key, and its revocation. -/
  lc   : Nat := 0
  svn  : Nat := 0
  ownerKey : List Byte := []
  ownerRevoked : Bool := false
  /-- The IN port of the management MAC (R640). -/
  mgmt : Nat := 0
  /-- Rails in dip: elapsed time of the falling crossing and lowest mV (R644). -/
  dips : AMap (Nat × Nat) := []
  /-- Elapsed times at which the dips of the last second began. -/
  begun : List Nat := []
  /-- Elapsed time at which the last rail left dip, while throttle and deferral still hold. -/
  left : Option Nat := none
  held : Option MbWait := none
  /-- Update messages of an interface that wait for the same, oldest first. -/
  msgs : List (Nat × MgmtMsg) := []
  /-- Polls that each regulator has not answered (R641). -/
  silent : AMap Nat := []
  /-- The board configuration record that the last cold reset found (R651). -/
  bcr  : Option (List Byte) := none
  /-- A warm reset is held for a thermal trip (R648). -/
  tripped : Bool := false
  /-- The straps of the four faces sampled at the last assertion of PWR_GOOD: HF_BIF_f and HF_CLKMODE_f (R93, R674). -/
  bifs : List Nat := []
  clks : List Nat := []
  /-- The start-up under way, or the last one, followed a cold reset. -/
  cold : Bool := false
deriving DecidableEq, Repr

end Sys2Proof.Machine
end

