-- ==== Sys2Proof/Machine/TypesRm.lean ====
section
/-! DEFINITION. Machine/TypesRm.lean: the state of the remote memory transport (chapter 14). -/

namespace Sys2Proof.Machine

/-- A registered region (R483). The map key of a region is its key. -/
structure Region where
  slice  : Nat
  addr   : Nat
  len    : Nat
  access : Nat
  refs   : Nat := 0
  revoking : Bool := false
  /-- Elapsed time at which its deregistration started, and whether EV_RM_REVOKE_SLOW has been raised for it. -/
  since  : Nat := 0
  slow   : Bool := false
  /-- Order of creation (R221). -/
  born   : Nat := 0
deriving DecidableEq, Repr

/-- A data packet of a queue pair that is kept until it has been acknowledged (R487). -/
structure TxPkt where
  psn   : Nat
  /-- Its opcode; the entry index of its work request, or for a READ_RESP the PSN of the READ_REQ. -/
  op    : Nat
  work  : Nat
  /-- Offset and length of its payload in the message. -/
  off   : Nat
  len   : Nat
  /-- SEND_TIME of its last transmission, in ns. -/
  sent  : Nat
  acked : Bool := false
  /-- It is to be retransmitted. -/
  resend : Bool := false
deriving DecidableEq, Repr

/-- A work request under execution (R477, R478). -/
structure TxWork where
  idx  : Nat
  op   : Nat
  msn  : Nat
  len  : Nat
  /-- The PSN of its first packet. -/
  psn0 : Nat
  /-- Payload bytes put into packets so far; whether its last packet has been generated. -/
  pos  : Nat := 0
  full : Bool := false
  /-- READ: bytes written to the scatter list. -/
  got  : Nat := 0
  /-- Local keys that it holds references on. -/
  keys : List Nat := []
deriving DecidableEq, Repr

/-- A READ that a responder executes (R480). -/
structure RdResp where
  reqPsn : Nat
  va   : Nat
  len  : Nat
  key  : Nat
  pos  : Nat := 0
  full : Bool := false
  since : Nat
deriving DecidableEq, Repr

/-- An incoming message (R479). -/
structure RxMsg where
  msn  : Nat
  /-- 0: no packet of it has arrived; it holds a buffer taken for it ahead of a later message (R479). -/
  op   : Nat
  len  : Nat
  /-- Elapsed time at which its first packet was processed. -/
  since : Nat
  /-- The region it holds a reference on; 0 for none. -/
  key  : Nat := 0
  /-- PSNs placed. -/
  placed : List Nat := []
  /-- The receive buffer it took: SRQ channel index and entry index, with the local keys referenced. -/
  buf  : Option (Nat × Nat) := none
  keys : List Nat := []
  imm  : Nat := 0
  /-- Every packet has been placed. -/
  done : Bool := false
deriving DecidableEq, Repr

/-- A READ_REQ received and not yet executable: its PSN and request. -/
structure RdWait where
  psn : Nat
  va  : Nat
  len : Nat
  key : Nat
deriving DecidableEq, Repr

/-- A queue pair's transport state. The map key is its channel index. -/
structure Qp where
  /-- 0 RESET, 1 INIT, 2 RTR, 3 RTS, 4 ERROR (R472). -/
  tstate : Nat := 0
  /-- The 128-byte record's attributes (R474), but for the fields below. -/
  enc    : Bool := false
  side   : Nat := 0
  ccEn   : Bool := false
  ccProf : Nat := 0
  spillHost : Bool := false
  pmtu   : Nat := 0
  retry  : Nat := 0
  rnrRetry : Nat := 0
  peer   : Nat := 0
  path   : Nat := 0
  sport  : Nat := 0
  sqNxt  : Nat := 0
  sqUna  : Nat := 0
  epsn   : Nat := 0
  txMsn  : Nat := 0
  rxMsn  : Nat := 0
  txQ    : Nat := 0
  rxQ    : Nat := 0
  window : Nat := 0
  coalesce : Nat := 0
  rtoMin : Nat := 0
  ackDelay : Nat := 0
  rtoMax : Nat := 0
  msgTimeout : Nat := 0
  rnrTime : Nat := 0
  slot   : Nat := 0
  inst   : Nat := 0
  idA    : List Byte := []
  idB    : List Byte := []
  spillAddr : Nat := 0
  /-- The GDDR7 spill slot. -/
  spill  : Option Nat := none
  /-- The cipher context of an encrypted queue pair, from RTR on. -/
  sec    : Option Cctx := none
  /-- Sender. -/
  sent   : List TxPkt := []
  works  : List TxWork := []
  resps  : List RdResp := []
  /-- ACK, NAK and ABORT packets owed: opcode and extension header. -/
  owed   : List (Nat × List Byte) := []
  rto    : Nat := 0
  rtoAt  : Nat := 0
  expiries : Nat := 0
  rnrCnt : Nat := 0
  /-- An RNR wait: the elapsed time of its end, NAK_PSN, and its length. -/
  rnrWait : Option (Nat × Nat × Nat) := none
  /-- Receiver: PSNs above `epsn` that have been received, messages, READs that wait for lower PSNs. -/
  rcvd   : List Nat := []
  msgs   : List RxMsg := []
  waits  : List RdWait := []
  /-- In-order packets not yet acknowledged, and of the first of them its elapsed time, SEND_TIME and one-way delay. -/
  unacked : Nat := 0
  ackAt  : Option (Nat × Nat × Int) := none
  ce     : Nat := 0
  /-- A responder that sent RNR_NAK discards packets from here until the packet at this PSN arrives (R492). -/
  rnrFrom : Option Nat := none
  /-- Messages that a slice reset cut: their later packets are answered with NAK_ACCESS (R227). -/
  cut    : List Nat := []
deriving DecidableEq, Repr

/-- A line of the state cache: 0 VALID, 1 LEAVING, 2 LEAVING with the write-back started, 3 FETCHING (R500). -/
structure QpLine where
  qp   : Nat
  st   : Nat
  used : Nat
deriving DecidableEq, Repr

/-- The remote memory transport. -/
structure RmSt where
  qps   : AMap Qp := []
  regions : AMap Region := []
  /-- The tag each region index last carried, and the elapsed time of its deregistration. -/
  tags  : AMap Nat := []
  freed : AMap Nat := []
  births : Nat := 0
  paths : AMap (List Byte) := []
  lines : AMap QpLine := []
  clock : Nat := 0
  /-- Queue pairs whose fetch waits for a line, oldest first. -/
  wants : List Nat := []
  /-- Queue pairs to be fetched at once when their write-back completes. -/
  again : List Nat := []
deriving DecidableEq, Repr

end Sys2Proof.Machine
end

