-- ==== Sys2Proof/Machine/TypesSv.lean ====
section
/-! DEFINITION. Machine/TypesSv.lean: the state of the storage front end (chapter 15): controllers with their queues,
commands in flight, pools and namespaces. -/

namespace Sys2Proof.Machine

/-- A namespace (R516 to R519). The bytes of its blocks, as they are stored, lie in its window of memory; `mapped` lists
its mapped units, for a pool. -/
structure Ns where
  /-- 0 pool, 1 remote, 2 pass-through. -/
  backing : Nat := 0
  lba4k   : Bool := true
  enc     : Bool := false
  /-- The pool, the queue pair's handle, or the root port. -/
  target  : Nat := 0
  /-- NSID at the target or drive. -/
  nsid    : Nat := 0
  size    : Nat := 0
  /-- Absolute key slot of its data key, the tweak key beside it. -/
  keySlot : Option Nat := none
  /-- 0 READY, 1 NOT_READY, 2 KEYLESS. -/
  state   : Nat := 0
  mapped  : List Nat := []
  /-- Pass-through: NAWUN, NAWUPF, NABSPF and NSFEAT bit 1 of the drive. -/
  drive   : List Nat := []
deriving DecidableEq, Repr

/-- A pool (R518, R535, R536): a member is its root port and drive namespace, whether it is present, its size in map
units, and its journal of map records with their sequence. -/
structure Member where
  port    : Nat
  nsid    : Nat
  present : Bool := true
  units   : Nat
  journal : List (List Byte) := []
deriving DecidableEq, Repr

structure Pool where
  mirror  : Bool
  members : List Member
  /-- The highest journal sequence written. -/
  seq     : Nat := 0
  /-- Which member a rebuild copies to. -/
  rebuild : Option Nat := none
deriving DecidableEq, Repr

/-- A submission queue. -/
structure SvSq where
  base : Nat
  size : Nat
  cq   : Nat
  head : Nat := 0
  tail : Nat := 0
deriving DecidableEq, Repr

/-- A completion queue. -/
structure SvCq where
  base   : Nat
  size   : Nat
  vector : Nat := 0
  ien    : Bool := true
  head   : Nat := 0
  tail   : Nat := 0
  phase  : Nat := 1
deriving DecidableEq, Repr

/-- A completion that is due: it waits for room in its queue, and for its function (R515). -/
structure SvPost where
  sq     : Nat
  cq     : Nat
  cid    : Nat
  dw0    : Nat := 0
  /-- Status with DNR: SC, SCT * 256, DNR * 16384. -/
  status : Nat := 0
  /-- Data written to the host before it: address and bytes. -/
  data   : List (Nat × List Byte) := []
deriving DecidableEq, Repr

/-- Where a command in flight stands. -/
inductive SvStage where
  /-- Fetched, and not yet sent to its backing (R525, R539). -/
  | waiting
  /-- Sent to its backing. -/
  | sent
  /-- A Write of a pool that was completed from staging and is not yet durable (R520). -/
  | staged
  /-- An Asynchronous Event Request. -/
  | event
  /-- An Abort that waits for the end of a command. -/
  | abort (id : Nat)
  /-- An Abort of a command that its queue holds and that is not yet fetched. -/
  | abortAhead (sq cid : Nat)
  /-- A Flush that waits for commands, and for the drives or targets of the namespaces for which it sent one. -/
  | flush (ids away : List Nat)
  /-- A Firmware Commit that waits for the rolling update. -/
  | commit
deriving DecidableEq, Repr

/-- A command in flight (R514). -/
structure SvCmd where
  ctrl  : Nat
  sq    : Nat
  /-- The completion queue of its submission queue. -/
  cq    : Nat
  sqe   : List Byte
  stage : SvStage
  /-- The namespace it acts on. -/
  ns    : Option Nat := none
  /-- Data sent with it (a capsule's) or read for it. -/
  data  : List Byte := []
  /-- Pieces of host memory that its data goes to: address and length. -/
  prps  : List (Nat × Nat) := []
  /-- LBA ranges that it covers: first block and count (R525). -/
  ranges : List (Nat × Nat) := []
  /-- Its controller was reset: it is never reported (R528). -/
  silent : Bool := false
deriving DecidableEq, Repr

/-- A Device Self-test under way (R533). -/
structure SvTest where
  /-- STC: 1 short, 2 extended. -/
  kind    : Nat
  nsid    : Nat
  segment : Nat := 1
  paused  : Bool := false
  /-- Elapsed time of the last completion on a namespace under test. -/
  last    : Nat := 0
deriving DecidableEq, Repr

/-- A virtual controller (R505 to R510). -/
structure Ctrl where
  /-- 0 host, 1 target. -/
  kind   : Nat
  slice  : Nat
  fw     : Bool := false
  qp     : Nat := 0
  cc     : Nat := 0
  rdy    : Bool := false
  cfs    : Bool := false
  shst   : Nat := 0
  aqa    : Nat := 0
  asq    : Nat := 0
  acq    : Nat := 0
  sqs    : AMap SvSq := []
  cqs    : AMap SvCq := []
  /-- Features that do not hold their default, by FID; vectors' coalescing words by 0x10000 + vector; the under-temperature
  threshold by 0x104. -/
  feats  : AMap Nat := []
  /-- Attached namespaces by NSID. -/
  nss    : AMap Nat := []
  /-- Changed Namespace List. -/
  changed : List Nat := []
  posts  : List SvPost := []
  /-- Error Information entries, newest first, and how many errors there have been. -/
  errors : List (List Byte) := []
  errCnt : Nat := 0
  test   : Option SvTest := none
  /-- Self-test results, newest first: 28 bytes each. -/
  results : List (List Byte) := []
  /-- The submission queue served last (R514). -/
  turn   : Nat := 0
  /-- Commands and data units for the SMART log. -/
  rdCmds : Nat := 0
  wrCmds : Nat := 0
  rdBytes : Nat := 0
  wrBytes : Nat := 0
deriving DecidableEq, Repr

/-- The storage front end. -/
structure SvSt where
  ctrls : AMap Ctrl := []
  nss   : AMap Ns := []
  pools : AMap Pool := []
  cmds  : AMap SvCmd := []
  next  : Nat := 0
deriving DecidableEq, Repr

end Sys2Proof.Machine
end

