-- ==== Sys2Proof/Machine/TypesTil.lean ====
section
/-! DEFINITION. Machine/TypesTil.lean: the state of tillers, their threads and channel ports (chapter 16). -/

namespace Sys2Proof.Machine

/-- A message in the queue of an IN port; its words lie in the slot of the queue. -/
structure Msg where
  slot   : Nat
  words  : Nat
  /-- SRC_KIND and SENDER of R560, and LATE. -/
  kind   : Nat
  sender : Nat := 0
  late   : Bool := false
deriving DecidableEq, Repr

/-- A channel port of a thread (R552 to R558, R575). -/
structure TPort where
  /-- 0 unbound, 1 IN, 2 OUT. -/
  mode     : Nat := 0
  puntOk   : Bool := false
  event    : Bool := false
  hw       : Bool := false
  depthLog : Nat := 0
  qbase    : Nat := 0
  handle   : Nat := 0
  dest     : Nat := 0
  pbase    : Nat := 0
  pslots   : Nat := 0
  /-- IN: the messages queued, the reservations held, the next slot, the count of punts, and TIL_PREL. -/
  msgs     : List Msg := []
  resv     : Nat := 0
  tail     : Nat := 0
  puntK    : Nat := 0
  prel     : Nat := 0
  /-- OUT: an open message and its words; a sealed message that waits at the sender (R592). -/
  opened   : Bool := false
  words    : List Nat := []
  sealed   : Bool := false
  /-- The open message was discarded by ABANDON, or by an unbinding of the destination (R558). -/
  abandoned : Bool := false
  destGone : Bool := false
deriving DecidableEq, Repr

/-- What a BLOCKED thread waits for. -/
structure Block where
  /-- 0 CH.PUT, 1 CH.RECV, 2 CH.WAIT. -/
  op   : Nat
  port : Nat := 0
  mask : Nat := 0
  word : Nat := 0
  fin  : Bool := false
  /-- CH.RECV: the physical address of the buffer, none where its translation faults. -/
  addr : Option Nat := none
  /-- The absolute fabric time in ns of its deadline. -/
  dl   : Option Nat := none
deriving DecidableEq, Repr

/-- A thread. Its state, group, slice and capability stand in its TH_ registers. -/
structure Thread where
  block  : Option Block := none
  /-- Armed timers, and those fired that wait for a slot: the port, the time, LATE. -/
  timers : AMap (Nat × Nat × Bool) := []
  fired  : AMap (Nat × Nat × Bool) := []
  bps    : AMap Nat := []
  /-- Registers known while it is halted, as RD_REG numbers them (R574). -/
  regs   : AMap Nat := []
  entryPc : Nat := 0
  entrySp : Nat := 0
  /-- Elapsed time at which it last issued or a message last entered one of its ports. -/
  since  : Nat := 0
deriving DecidableEq, Repr

/-- A DMA request: its four words, the capability mask of its sender, and its status once the copy ended. -/
structure DmaReq where
  words : List Nat
  cap   : Nat
  done  : Option Byte := none
deriving DecidableEq, Repr

/-- A physical tiller. -/
structure Tiller where
  /-- Ports by thread * 16 + port. -/
  ports   : AMap TPort := []
  threads : AMap Thread := []
  /-- Records that wait for the fault port (R569). -/
  faults  : List (List Nat) := []
  dma     : List DmaReq := []
  dmaCur  : Option DmaReq := none
  /-- The flash slot of the image it was released with. -/
  image   : Nat := 0
  /-- Groups whose standstill has been reported, until a member issues. -/
  still   : List Nat := []
deriving DecidableEq, Repr

end Sys2Proof.Machine
end

