-- ==== Sys2Proof/Machine/State.lean ====
section
/-! DEFINITION. Machine/State.lean: the state of the device, its faults and refusals, and the state after reset. -/

namespace Sys2Proof.Machine

/-- Faults. -/
inductive Fault where
  /-- Raised by no meaning of this model: the spec gives every command an effect, a drop or a status. Safe. -/
  | unreachable
deriving DecidableEq, Repr

/-- Refusals. -/
inductive Refusal where
  /-- Raised by Dispatch for a command that has no meaning yet. Safe. -/
  | notModelled (mnemonic : String)
deriving DecidableEq, Repr

/-- The state of the device. -/
structure State where
  /-- Commands waiting, first in, first out. -/
  pending : List Instr := []
  /-- The register file: the registers that have been written, by offset; one that is not listed holds its reset value. -/
  regs  : AMap W32 := []
  /-- Snapshot copies of counters, by the offset of the counter (R81, R82). -/
  snap  : AMap W32 := []
  /-- Fabric time and elapsed time (chapter 2). -/
  time  : TimeSt := {}
  /-- What register accesses hold: the unlock window, held and latched words, indirect sets (chapter 3). -/
  acc   : AccSt := {}
  /-- The event router (chapter 18). -/
  ev    : EvSt := {}
  /-- Memory, byte by byte in canonical form: slice GDDR7, scratch, the firmware region, the flash, storage blocks. -/
  mem   : List Host.Cell := []
  /-- Host links, functions and root ports (chapter 4). -/
  host  : HostSt := {}
  /-- Channels (chapter 6). -/
  ch    : ChanSt := {}
  /-- Slices by number (chapter 7). -/
  slices : AMap Slice := []
  /-- Network ports (chapter 5). -/
  net   : NetSt := {}
  /-- Physical stairs 0 to 8, the golden copy of control stores and parse banks, and the LPM prefixes of all galleries
  by prefix index, each with its table. -/
  stairs : AMap Stair := []
  golden : Stair := {}
  lpm   : AMap (Nat × TEntry) := []
  /-- Sheaves and rehearsal (chapter 10). -/
  sheaf : SheafSt := {}
  /-- The landing and the scheduler (chapter 12). -/
  land  : Landing := {}
  /-- Units under the failover sequencer (chapter 17). -/
  unit  : UnitSt := {}
  /-- Physical tillers 0 to 33. -/
  tils  : AMap Tiller := []
  /-- Telemetry rings (chapter 18). -/
  tm    : TmSt := {}
  /-- Ozelm and the fuses (chapter 20). -/
  oz    : OzSt := {}
  /-- The key store and the cipher engines (chapter 13). -/
  cy    : CySt := {}
  /-- Remote memory (chapter 14). -/
  rm    : RmSt := {}
  /-- Storage (chapter 15). -/
  sv    : SvSt := {}
  /-- What has left the device, newest first. -/
  out   : List Emit := []
  /-- The model's own field: how many free values have been used. -/
  draws : Nat := 0
deriving DecidableEq, Repr

/-- The machine right after a cold reset (R6, R669): slice 0 exists, and is bound to no function before start-up names the owner
(R209). -/
def State.reset : State := { slices := [(0, ownerSlice none)] }

end Sys2Proof.Machine
end

