-- ==== Sys2Proof/Machine/Ops.lean ====
section
/-! DEFINITION. Machine/Ops.lean: the named operations over the state: associative maps, the register file and its
counters, memory, fabric and elapsed time, free values and emissions. -/

namespace Sys2Proof.Machine

/-! Associative maps. -/

/-- The value a map holds under a key. -/
def aget {α : Type} : AMap α → Nat → Option α
  | [], _ => none
  | (k, v) :: m, i => if i = k then some v else aget m i

/-- The map with a key set to a value, kept sorted by key. -/
def aset {α : Type} : AMap α → Nat → α → AMap α
  | [], i, a => [(i, a)]
  | (k, v) :: m, i, a =>
    if i < k then (i, a) :: (k, v) :: m
    else if i = k then (i, a) :: m
    else (k, v) :: aset m i a

/-- The map without a key. -/
def adel {α : Type} : AMap α → Nat → AMap α
  | [], _ => []
  | (k, v) :: m, i => if i = k then adel m i else (k, v) :: adel m i

/-- The value under a key, or a default. -/
def agetD {α : Type} (m : AMap α) (i : Nat) (d : α) : α := (aget m i).getD d

/-- The map with the value under a present key changed by `f`. -/
def aupd {α : Type} (m : AMap α) (i : Nat) (f : α → α) : AMap α :=
  match aget m i with
  | some a => aset m i (f a)
  | none => m

/-- Every value changed by `f`, which also sees the key. -/
def amap {α : Type} (m : AMap α) (f : Nat → α → α) : AMap α := m.map (fun e => (e.1, f e.1 e.2))

/-- The smallest number below `n` that is no key of the map. -/
def afree {α : Type} (m : AMap α) (n : Nat) : Option Nat :=
  (List.range (min n (m.length + 1))).find? (fun i => (aget m i).isNone)

/-! The register file. A register that is not listed holds its reset value (R6). -/

/-- The stored value of a register. -/
def rd (s : State) (off : Nat) : W32 :=
  match aget s.regs off with
  | some v => v
  | none => regReset off

/-- The stored value of a register as a number. -/
def rdN (s : State) (off : Nat) : Nat := (rd s off).toNat

/-- One field of a register. -/
def rdF (s : State) (off lo w : Nat) : Nat := fld (rdN s off) lo w

/-- The 64-bit value of a LO/HI pair. -/
def rd64 (s : State) (lo : Nat) : Nat := rdN s lo + rdN s (lo + 4) * 0x100000000

/-- Stores a value in a register, whatever its access codes: what the device itself does. -/
def wr (s : State) (off : Nat) (v : W32) : State := { s with regs := aset s.regs off v }

def wrN (s : State) (off v : Nat) : State := wr s off (BitVec.ofNat 32 v)

/-- Replaces one field of a register. -/
def wrF (s : State) (off lo w v : Nat) : State := wr s off (rput (rd s off) lo w v)

/-- Stores a 64-bit value in a LO/HI pair. -/
def wr64 (s : State) (lo v : Nat) : State := wrN (wrN s lo (v % 0x100000000)) (lo + 4) (v / 0x100000000)

/-- Adds to a 32-bit counter, which wraps (R616). -/
def bump (s : State) (off : Nat) (n : Nat := 1) : State := wrN s off (rdN s off + n)

/-- Adds to a 64-bit counter pair, which wraps (R616). -/
def bump64 (s : State) (lo : Nat) (n : Nat := 1) : State := wr64 s lo ((rd64 s lo + n) % 2 ^ 64)

/-- Drops every register of a range back to its reset value (R6, R669). -/
def resetRegs (s : State) (lo hi : Nat) : State :=
  { s with regs := s.regs.filter (fun e => e.1 < lo || hi ≤ e.1) }

/-! Time. -/

/-- Units of 2^-16 ns in some intervals. -/
abbrev usUnits : Nat := 65536000
abbrev msUnits : Nat := 65536000000

/-- Fabric time in nanoseconds (R30). -/
def nowNs (s : State) : Nat := s.time.now / 65536

/-- Elapsed time in nanoseconds (R34). -/
def elNs (s : State) : Nat := s.time.elapsed / 65536

/-- Elapsed time in microseconds. -/
def elUs (s : State) : Nat := s.time.elapsed / usUnits

/-- One core clock passes (R32, R34): fabric and elapsed time advance by a third of a nanosecond corrected by the rate
in use, and FT_HOLD_TIME follows while the time keeper is in HOLDOVER (R40). Log entry 5. -/
def tick (s : State) : State :=
  let num : Int := 65536000000 + s.time.rate + s.time.rem
  let d := (num / 3000000).toNat
  let t := { s.time with now := (s.time.now + d) % 2 ^ 80, elapsed := s.time.elapsed + d, rem := (num % 3000000).toNat,
                         clocks := s.time.clocks + 1, maxNs := max s.time.maxNs ((s.time.now + d) % 2 ^ 80 / 65536) }
  let hold := t.elapsed / 65536 - s.time.elapsed / 65536
  let s' := { s with time := t }
  if rdF s Reg.FT_STATUS 0 2 = 3 then wr64 s' Reg.FT_HOLD_TIME_LO ((rd64 s Reg.FT_HOLD_TIME_LO + hold) % 2 ^ 64) else s'

/-! Free values and emissions. -/

/-- The next free value and the state that has used it. -/
def draw (s : State) : Nat × State := (Config.freeValue s.draws, { s with draws := s.draws + 1 })

/-- A free choice among the members of a list that is not empty. -/
def pick {α : Type} (s : State) (l : List α) : Option α × State :=
  (l[(Config.freeValue s.draws) % l.length]?, { s with draws := s.draws + 1 })

/-- Sends something out of the device. -/
def emit (s : State) (e : Emit) : State := { s with out := e :: s.out }

/-- Drives a pin. -/
def drive (s : State) (p : Pin) (i : Nat) (high : Bool) : State := emit s (.pin p i high)

/-! Memory. One byte-addressed space holds every memory inside the device whose bytes commands can reach; each is a
window of it. A byte that is not listed reads zero. -/

/-- Slice GDDR7 of slice n: R228 makes unwritten bytes read zero. -/
def gmBase (slice : Nat) : Nat := 0x100000000000000 + slice * 0x10000000000
/-- The scratch memory of physical tiller t, and its 256 shared registers 1 MiB above (R546). -/
def scratchBase (t : Nat) : Nat := 0x200000000000000 + t * 0x200000
/-- The firmware region (R546); addresses of it are offsets from its start. -/
def fwBase : Nat := 0x300000000000000
/-- The serial flash (R651). -/
def flashBase : Nat := 0x400000000000000
/-- The drive queues and buffers of the storage layer and the rest of the owner's GDDR7. -/
def poolBase : Nat := 0x500000000000000

/-- The byte at an address. -/
def memByte : List Host.Cell → Nat → Byte
  | [], _ => 0
  | (k, v) :: m, a => if a = k then v else if a < k then 0 else memByte m a

/-- The memory with one byte stored; a byte equal to what an unlisted address reads as is not listed. -/
def memPut : List Host.Cell → Nat → Byte → List Host.Cell
  | [], a, b => if b = 0 then [] else [(a, b)]
  | (k, v) :: m, a, b =>
    if a < k then (if b = 0 then (k, v) :: m else (a, b) :: (k, v) :: m)
    else if a = k then (if b = 0 then m else (a, b) :: m)
    else (k, v) :: memPut m a b

/-- The memory with bytes stored from an address upward. -/
def memPuts : List Host.Cell → Nat → List Byte → List Host.Cell
  | m, _, [] => m
  | m, a, b :: bs => memPuts (memPut m a b) (a + 1) bs

/-- `n` bytes from an address upward. -/
def memGets (m : List Host.Cell) (a : Nat) : Nat → List Byte
  | 0 => []
  | n + 1 => memByte m a :: memGets m (a + 1) n

def store (s : State) (a : Nat) (bs : List Byte) : State := { s with mem := memPuts s.mem a bs }

/-- Removes every listed byte of an address range: the range reads zero. -/
def memClear (m : List Host.Cell) (lo hi : Nat) : List Host.Cell := m.filter (fun e => e.1 < lo || hi ≤ e.1)

/-- The canonical form: addresses strictly rising, no byte equal to zero, which unlisted addresses read as. -/
def Memory.wf : List Host.Cell → Bool
  | [] => true
  | [(_, b)] => b != 0
  | (k, b) :: (k', b') :: m => b != 0 && decide (k < k') && Memory.wf ((k', b') :: m)

end Sys2Proof.Machine
end

