-- ==== Sys2Proof/Machine/Flags.lean ====
section
/-! DEFINITION. Machine/Flags.lean: status codes, event records and their rate limits, the error record of the
global registers, and late firings: the flag and status computations that every block shares. -/

namespace Sys2Proof.Machine

/-- A data field of an event record: width in bytes and value (R612). -/
abbrev EvField := Nat × Nat

/-- The 16 data bytes of an event record (R612). -/
def evData (fs : List EvField) : List Byte := fit 16 (fs.flatMap (fun f => le f.1 f.2))

/-- The sources that a chapter assigns, by range; the others raise nothing and their route words read zero (R609,
R628). -/
def evAssigned (src : Nat) : Bool :=
  (0x010 ≤ src && src ≤ 0x013) || (0x020 ≤ src && src ≤ 0x024) || src == 0x030 || src == 0x031 ||
  (0x040 ≤ src && src ≤ 0x04C) || (0x100 ≤ src && src ≤ 0x108) ||
  (0x180 ≤ src && src < 0x380 && src % 32 < 16) || (0x380 ≤ src && src < 0x400 && src % 16 < 9) ||
  (0x400 ≤ src && src < 0x500) ||
  (0x500 ≤ src && src < 0x740 &&
    (let k := (src - 0x500) % 64; k < 4 || (8 ≤ k && k < 13) || k == 16 || k == 17 || (20 ≤ k && k < 24))) ||
  (0x740 ≤ src && src ≤ 0x745) || (0x7F0 ≤ src && src ≤ 0x7F5) || (0x800 ≤ src && src ≤ 0x806) ||
  (0x880 ≤ src && src ≤ 0x885) || (0x900 ≤ src && src ≤ 0x907) || (0x980 ≤ src && src ≤ 0x986) ||
  (0x990 ≤ src && src ≤ 0x993) || (0xA00 ≤ src && src < 0xE40 && src % 32 < 5)

/-- The route word of a source (R628). -/
def evRoute (s : State) (src : Nat) : Nat := rdN s (Reg.OZ_EV_ROUTE src)

/-- The router holds 4,096 records (R615). -/
abbrev evCapacity : Nat := 4096

/-- Raises a record of an event: its sequence number is consumed, and it enters the router with the route it finds,
or is lost when the router is full (R610, R614, R615). -/
def raiseAt (s : State) (src code time : Nat) (fs : List EvField) : State :=
  let seq := agetD s.ev.seq src 0
  let ev := { s.ev with seq := aset s.ev.seq src ((seq + 1) % 2 ^ 20) }
  if ev.queue.length < evCapacity then
    let route := evRoute s src
    let rec' : EvRec :=
      { source := src, seq := seq, code := code, time := time, data := evData fs, route := route,
        dest := rdN s (Reg.OZ_EV_DEST (fld route 1 4)) }
    { s with ev := { ev with queue := ev.queue ++ [rec'] } }
  else
    bump { s with ev := { ev with lost := ev.lost + 1 } } Reg.OZ_EV_LOST_CNT

/-- A single occurrence of an event that is not rate-limited: FORM 1 (R611). -/
def raise (s : State) (src : Nat) (fs : List EvField) : State := raiseAt s src 1 (nowNs s) fs

/-- A single occurrence of an absolute-time item, with the LATE bit of CODE (R611). -/
def raiseLate (s : State) (src : Nat) (late : Bool) (fs : List EvField) : State :=
  raiseAt s src (1 + 16 * b2n late) (nowNs s) fs

/-- The start (3) or end (4) of a phase (R611). -/
def raisePhase (s : State) (src form : Nat) (fs : List EvField) : State := raiseAt s src form (nowNs s) fs

/-- The key of a rate-limit window: a source and, where it is limited per link or pair, which one (R688). -/
def winKey (src key : Nat) : Nat := src * 65536 + key

/-- One millisecond of elapsed time has passed since a window began. -/
def winOver (s : State) (w : LimWin) : Bool := w.start + msUnits ≤ s.time.elapsed

/-- Raises the record of a rate-limited source with its count and starts a new window (R688). -/
def raiseWin (s : State) (src key count time : Nat) (fs : List EvField) : State :=
  let t := raiseAt s src 2 time (fs ++ [(4, min count 0xFFFFFFFF)])
  { t with ev := { t.ev with wins := aset t.ev.wins (winKey src key) { start := t.time.elapsed, count := 0, last := [], time := 0 } } }

/-- `n` occurrences of an event that is limited to once per millisecond (R688): the first after a quiet millisecond
is raised at once, later ones are counted. -/
def raiseLim (s : State) (src key : Nat) (fs : List EvField) (n : Nat := 1) : State :=
  match aget s.ev.wins (winKey src key) with
  | none => raiseWin s src key n (nowNs s) fs
  | some w =>
    if winOver s w && w.count == 0 then raiseWin s src key n (nowNs s) fs
    else
      let s := if winOver s w then raiseWin s src key w.count w.time w.last else s
      let c := if winOver s w then 0 else w.count
      { s with ev := { s.ev with wins := aupd s.ev.wins (winKey src key) (fun w' => { w' with count := c + n, last := fs, time := nowNs s }) } }

/-- The requester as event data (R92): 4 bytes, a function as link * 256 + function, a thread with bit 31 set. Log
entry 10. -/
def reqCode : Requester → Nat
  | .fn l f => l * 256 + f
  | .thread t n => 0x80000000 + t * 64 + n
  | .action => 0x40000000

/-- The offset of the write's own access: that of the register, unless the write came by an alias, a short-decode copy or a
slice control page (R689). -/
def ownOff (s : State) (off : Nat) : Nat := s.acc.own.getD off

/-- Sets a bit of GL_ERR_STATUS; the offset is recorded if every bit was zero before (R689). -/
def glError (s : State) (bit off : Nat) : State :=
  let old := rdN s Reg.GL_ERR_STATUS
  let s := if old = 0 then wrN s Reg.GL_ERR_ADDR (ownOff s off % 0x4000000) else s
  wrF s Reg.GL_ERR_STATUS bit 1 1

/-- A write dropped with BAD_ACCESS (R63, R90, R689): the bit, the recorded offset and EV_GL_BAD_ACCESS. -/
def badAccess (s : State) (req : Requester) (off : Nat) : State :=
  raise (glError s 1 off) 0x011 [(4, ownOff s off), (4, reqCode req)]

/-- A guarded write dropped (R80): LOCKED_WR, the recorded offset and EV_GL_LOCKED_WRITE. -/
def lockedWrite (s : State) (req : Requester) (off : Nat) : State :=
  raise (glError s 0 off) 0x010 [(4, ownOff s off), (4, reqCode req)]

/-- LATE firings outside a step: FT_LATE_CNT, and EV_FT_LATE at most once per millisecond (R48). -/
def lateFiring (s : State) : State := raiseLim (bump s Reg.FT_LATE_CNT) 0x105 0 []

/-- The multiple of 8 ns at or after a time (R51, R53). -/
def tick8 (t : Nat) : Nat := ceilDiv t 8 * 8

/-! Status codes (R207 and the chapters' own tables). -/

abbrev STS_OK : Byte := 0x00
abbrev STS_INVALID_OPCODE : Byte := 0x01
abbrev STS_INVALID_PARAM : Byte := 0x02
abbrev STS_NOT_READY : Byte := 0x03
abbrev STS_PERMISSION : Byte := 0x04
abbrev STS_TIMEOUT : Byte := 0x05
abbrev STS_IMAGE_AUTH : Byte := 0x06
abbrev STS_ROLLBACK : Byte := 0x07
abbrev STS_LC_STATE : Byte := 0x08
abbrev STS_TOKEN : Byte := 0x09
abbrev STS_HOST_UR : Byte := 0x0A
abbrev STS_HOST_CA : Byte := 0x0B
abbrev STS_HOST_TIMEOUT : Byte := 0x0C
abbrev STS_HOST_POISON : Byte := 0x0D
abbrev STS_HOST_ATS : Byte := 0x0E
abbrev STS_OZ_BUSY : Byte := 0x0F
abbrev STS_FLUSHED : Byte := 0x10
abbrev STS_RING_INDEX : Byte := 0x11
abbrev STS_RING_SIZE : Byte := 0x12
abbrev STS_GATHER_COUNT : Byte := 0x13
abbrev STS_LEN_RANGE : Byte := 0x14
abbrev STS_BAD_HANDLE : Byte := 0x15
abbrev STS_BAD_KIND : Byte := 0x16
abbrev STS_QUOTA : Byte := 0x17
abbrev STS_GALLERY : Byte := 0x18
abbrev STS_CHAN_STATE : Byte := 0x19
abbrev STS_IN_USE : Byte := 0x1A
abbrev STS_BAD_DESC : Byte := 0x1B
abbrev STS_RX_TRUNC : Byte := 0x1C
abbrev STS_ALIGN : Byte := 0x1D
abbrev STS_NO_RESOURCE : Byte := 0x1E
abbrev STS_VECTOR : Byte := 0x1F
abbrev STS_PORT_EMPTY : Byte := 0x20
abbrev STS_PORT_FULL : Byte := 0x21
abbrev STS_PORT_UNBOUND : Byte := 0x22
abbrev STS_MSG_STATE : Byte := 0x23
abbrev STS_CANCELLED : Byte := 0x24
abbrev STS_ABANDONED : Byte := 0x25
abbrev STS_CAPABILITY : Byte := 0x26
abbrev STS_RM_RETRY_EXCEEDED : Byte := 0x30
abbrev STS_RM_RNR_EXCEEDED : Byte := 0x31
abbrev STS_RM_REMOTE_ACCESS : Byte := 0x32
abbrev STS_RM_REMOTE_INVALID : Byte := 0x33
abbrev STS_RM_REMOTE_OP : Byte := 0x34
abbrev STS_RM_LOCAL_PROT : Byte := 0x35
abbrev STS_RM_PEER_ABORT : Byte := 0x36
abbrev STS_RM_QP_STATE : Byte := 0x37
abbrev STS_RM_ATTR : Byte := 0x38
abbrev STS_RM_BAD_KEY : Byte := 0x39
abbrev STS_RM_MSG_TIMEOUT : Byte := 0x3A
abbrev STS_RM_KEYLESS : Byte := 0x3B
abbrev STS_RM_STATE_LOST : Byte := 0x3C
abbrev STS_SV_BINDING : Byte := 0x50
abbrev STS_SV_POOL : Byte := 0x51
abbrev STS_SV_CAPACITY : Byte := 0x52
abbrev STS_SV_NSID : Byte := 0x53
abbrev STS_SV_NS : Byte := 0x54
abbrev STS_SV_CTRL : Byte := 0x55
abbrev STS_SV_BACKING : Byte := 0x56
abbrev STS_SV_STATE : Byte := 0x57
abbrev STS_KEY_SLOT : Byte := 0x70
abbrev STS_KEY_EMPTY : Byte := 0x71
abbrev STS_KEY_ROLE : Byte := 0x72
abbrev STS_AUTH : Byte := 0x73
abbrev STS_UNWRAP : Byte := 0x74
abbrev STS_KEY_ERASED : Byte := 0x75
abbrev STS_NONCE_EXHAUSTED : Byte := 0x76
abbrev STS_OVERLAP : Byte := 0x77
abbrev STS_KEY_BUSY : Byte := 0x78
abbrev STS_CCTX : Byte := 0x79
abbrev STS_ENTROPY : Byte := 0x7A
abbrev STS_NO_SLICE : Byte := 0x80
abbrev STS_SLICE_STATE : Byte := 0x81
abbrev STS_BINDING : Byte := 0x82
abbrev STS_HANDLE_RANGE : Byte := 0x83
abbrev STS_QUOTA_TOTAL : Byte := 0x84
abbrev STS_KEY_RANGE : Byte := 0x85
abbrev STS_RESOURCE_ID : Byte := 0x86
abbrev STS_LOG_RANGE : Byte := 0x87
abbrev STS_IMAGE : Byte := 0x88
abbrev STS_IMAGE_FIT : Byte := 0x89
abbrev STS_SLICE_FAULTED : Byte := 0x8A
abbrev STS_TABLE_FULL : Byte := 0x90
abbrev STS_NO_ENTRY : Byte := 0x91
abbrev STS_EXISTS : Byte := 0x92
abbrev STS_BAD_TABLE : Byte := 0x93
abbrev STS_BAD_INDEX : Byte := 0x94
abbrev STS_BAD_ENTRY : Byte := 0x95
abbrev STS_STAGED_CONFLICT : Byte := 0x96
abbrev STS_ENTRY_ERR : Byte := 0x97
abbrev STS_PARTIAL : Byte := 0x98
abbrev STS_SHEAF_DRAINING : Byte := 0x99
abbrev STS_SHEAF_PENDING : Byte := 0x9A
abbrev STS_SHEAF_SWEEP : Byte := 0x9B
abbrev STS_RH_BUSY : Byte := 0x9C

end Sys2Proof.Machine
end

