-- ==== Sys2Proof/Machine/HostOps.lean ====
section
/-! DEFINITION. Machine/HostOps.lean: shared operations over host links (chapter 4): functions and their configuration
space, host-memory writes and their dirty marks, host-memory reads and tags, and MSI-X messages. -/

namespace Sys2Proof.Machine

/-! Links and functions. -/

def fnKey (link fnum : Nat) : Nat := link * 256 + fnum

/-- The bifurcation mode of the face of a link: 0 x16, 1 2×x8, 2 4×x4; 3 is treated as x16 (R93). -/
def linkMode (s : State) (link : Nat) : Nat :=
  let m := rdF s (Reg.HF_FACE_STATUS (link / 4)) 0 2
  if m = 3 then 0 else m

/-- Whether the mode of its face uses a link number (R94). -/
def linkPresent (s : State) (link : Nat) : Bool :=
  link < 16 && (match linkMode s link with
    | 0 => link % 4 == 0
    | 1 => link % 2 == 0
    | _ => true)

/-- The tag pool of a link (R110). -/
def tagPool (s : State) (link : Nat) : Nat :=
  if !linkPresent s link then 0 else
  match linkMode s link with
  | 0 => 16384
  | 1 => 8192
  | _ => 4096

abbrev hfLink (link : Nat) : Nat := 0x410000 + 0x100000 * (link / 4) + 0x10000 * (link % 4)

def linkUp (s : State) (link : Nat) : Bool := rbit (rd s (hfLink link)) 0

/-- Whether PERST_N of a link is seen asserted. -/
def linkPerst (s : State) (link : Nat) : Bool := rbit (rd s (hfLink link)) 10

/-- A function after reset (R101: default BAR sizes); PF0 is always enabled. -/
def fnReset (fnum : Nat) : FnSt :=
  { enabled := fnum == 0, bar2 := if fnum = 0 then 26 else 20, bar4 := 20, vfBar2 := 20, vfBar4 := 20 }

def fnGet (s : State) (link fnum : Nat) : FnSt := agetD s.host.fns (fnKey link fnum) (fnReset fnum)

/-- The link and the number of the function that HF_FN_SEL of a face selects (R97). -/
def selFn (s : State) (face : Nat) : Nat × Nat :=
  let n := rdF s (Reg.HF_FN_SEL face) 0 10
  (4 * face + n / 256, n % 256)

def fnSet (s : State) (link fnum : Nat) (f : FnSt) : State :=
  { s with host := { s.host with fns := aset s.host.fns (fnKey link fnum) f } }

def fnUpd (s : State) (link fnum : Nat) (g : FnSt → FnSt) : State := fnSet s link fnum (g (fnGet s link fnum))

/-- The words of the capabilities that PF0 and every VF have (R99; the standard's layout, log entry 20). -/
def cfgBoth (off : Nat) : Nat :=
  match off with
  | 0x04 => 0x00100000
  | 0x08 => 0x02000010
  | 0x34 => 0x40
  | 0x40 => 0x00035001
  | 0x44 => 0x8
  | 0x50 => 0x00029010
  | 0x54 => 0x10008023
  | 0x58 => 0x2810
  | 0x74 => 0x0003080F
  | 0x7C => 0x800000FE
  | 0x90 => 0x11
  | 0x94 => 4
  | 0x98 => 0x80004
  | 0x10C => 0x00462030
  | 0x114 => 0xE000
  | 0x118 => 0xA0
  | 0x190 => 0x1A01000F
  | 0x194 => 0x20
  | 0x1A0 => 0x1B01001B
  | 0x1A4 => 0x1400
  | 0x1B4 => 0x507
  | 0x3C4 => 6
  | _ => 0

/-- The words that PF0 alone has, or has with another next pointer. -/
def cfgPf (off : Nat) : Option Nat :=
  match off with
  | 0x00 => some 0x64001D2A
  | 0x10 => some 4
  | 0x18 => some 4
  | 0x20 => some 4
  | 0x100 => some 0x14820001
  | 0x148 => some 0x1501000E
  | 0x150 => some 0x19010010
  | 0x154 => some 2
  | 0x15C => some 0x00FF00FF
  | 0x164 => some 0x00010001
  | 0x168 => some 0x64010000
  | 0x16C => some 0x1FF
  | 0x170 => some 1
  | 0x174 => some 4
  | 0x17C => some 4
  | 0x184 => some 4
  | 0x1B0 => some 0x1F010017
  | 0x1F0 => some 0x20010018
  | 0x200 => some 0x2101001F
  | 0x204 => some 1
  | 0x210 => some 0x24010015
  | 0x214 => some 0xFFF0
  | 0x21C => some 0x1FFFF0
  | 0x240 => some 0x27010024
  | 0x244 => some 0x1FF0
  | 0x24C => some 0x1FFFF0
  | 0x270 => some 0x2901002E
  | 0x290 => some 0x32010030
  | 0x294 => some 0x00030002
  | 0x320 => some 0x34010019
  | 0x340 => some 0x35010025
  | 0x344 => some 0x80000001
  | 0x350 => some 0x36C10026
  | 0x36C => some 0x3881002A
  | 0x388 => some 0x3A410031
  | 0x3A4 => some 0x3C010039
  | 0x3C0 => some 0x3E01002F
  | 0x3E0 => some 0x00010027
  | _ => none

/-- The words of a VF that PF0 has otherwise. -/
def cfgVf (off : Nat) : Option Nat :=
  match off with
  | 0x00 => some 0x64011D2A
  | 0x100 => some 0x19020001
  | 0x1B0 => some 0x3C010017
  | 0x3C0 => some 0x0001002F
  | _ => none

/-- The reset value of a configuration double word (R98, R99; the defaults of the PCIe standard, log entry 20). -/
def cfgReset (fnum off : Nat) : Nat := (if fnum = 0 then cfgPf off else cfgVf off).getD (cfgBoth off)

/-- A double word of a function's configuration space; the class code of a VF follows its personality (R98). -/
def cfgRd (fnum : Nat) (f : FnSt) (off : Nat) : Nat :=
  if off = 0x08 && fnum ≠ 0 && f.nvme then 0x01080210 else agetD f.cfg off (cfgReset fnum off)

/-- The board configuration record in use (R651), and the subsystem identifiers that it gives (R98). -/
def bcrInUse (s : State) : Option (List Byte) := s.oz.bcr
def bcrSsvid (s : State) : Nat := match bcrInUse s with | some b => leAt b 0xA 2 | none => 0x1D2A
def bcrSsid (s : State) : Nat := match bcrInUse s with | some b => leAt b 0xC 2 | none => 0

/-- Memory Space Enable: of the Command register for PF0, of SR-IOV Control for a VF (log entry 20). -/
def fnMse (s : State) (link fnum : Nat) : Bool :=
  if fnum = 0 then (cfgRd 0 (fnGet s link 0) 0x04).testBit 1 else (cfgRd 0 (fnGet s link 0) 0x158).testBit 3

/-- Base-2 logarithms of the sizes of BAR2/3 and BAR4/5; those of VFs are PF0's VF Resizable BARs (R101). -/
def bar2Log (s : State) (link fnum : Nat) : Nat := if fnum = 0 then (fnGet s link 0).bar2 else (fnGet s link 0).vfBar2
def bar4Log (s : State) (link fnum : Nat) : Nat := if fnum = 0 then (fnGet s link 0).bar4 else (fnGet s link 0).vfBar4

/-- Base-2 logarithm of the size of BAR0/1 of PF0 (R59): 64 MiB of the owner function, else 64 KiB. -/
def bar0Log (s : State) (link : Nat) : Nat := if s.host.owner = some link then 26 else 16

/-- The size of the BAR of PF0 that a double word belongs to, and whether it is the upper word: of the BARs from 0x10, of the VF
BARs from 0x174. -/
def barWord (s : State) (link off : Nat) : Option (Nat × Bool) :=
  match off with
  | 0x10 => some (bar0Log s link, false)
  | 0x14 => some (bar0Log s link, true)
  | 0x18 => some (bar2Log s link 0, false)
  | 0x1C => some (bar2Log s link 0, true)
  | 0x20 => some (bar4Log s link 0, false)
  | 0x24 => some (bar4Log s link 0, true)
  | 0x174 => some (16, false)
  | 0x178 => some (16, true)
  | 0x17C => some (bar2Log s link 1, false)
  | 0x180 => some (bar2Log s link 1, true)
  | 0x184 => some (bar4Log s link 1, false)
  | 0x188 => some (bar4Log s link 1, true)
  | _ => none

/-- Lanes of a link in its mode (R94). -/
def linkLanes (s : State) (link : Nat) : Nat := match linkMode s link with | 0 => 16 | 1 => 8 | _ => 4

/-- A double word of a function's configuration space as a configuration request sees it: `cfgRd` with what the board record,
the mode and state of the link, MSIX_ALLOC and the BAR sizes give (R98 to R101). -/
def cfgSee (s : State) (link fnum off : Nat) : Nat :=
  let f := fnGet s link fnum
  let v := cfgRd fnum f off
  match (if fnum = 0 then barWord s link off else none) with
  | some (n, false) => v / 2 ^ min n 32 * 2 ^ min n 32 + 4
  | some (n, true) => v / 2 ^ (n - 32) * 2 ^ (n - 32)
  | none =>
    match off with
    | 0x2C => bcrSsvid s + 65536 * bcrSsid s
    | 0x5C => 7 + 16 * linkLanes s link + 0x800
    | 0x60 => if fnum = 0 then putFld (putFld v 16 4 (fld (rdN s (hfLink link)) 1 3)) 20 6 (fld (rdN s (hfLink link)) 4 5) else v
    | 0x90 => putFld v 16 11 (f.msixAlloc - 1)
    | 0x218 => if fnum = 0 then 0x42 + 256 * (f.bar2 - 20) else v
    | 0x220 => if fnum = 0 then 4 + 256 * (f.bar4 - 20) else v
    | 0x248 => if fnum = 0 then 0x42 + 256 * (f.vfBar2 - 20) else v
    | 0x250 => if fnum = 0 then 4 + 256 * (f.vfBar4 - 20) else v
    | _ => v

def cfgSet (s : State) (link fnum off v : Nat) : State := fnUpd s link fnum (fun f => { f with cfg := aset f.cfg off v })

/-- One bit of a word of configuration space. -/
def cfgBit (s : State) (link fnum off bit : Nat) (v : Bool) : State :=
  cfgSet s link fnum off (putFld (cfgRd fnum (fnGet s link fnum) off) bit 1 (b2n v))

/-- The function's memory space answers: it is enabled, in D0 and not in an FLR, with Memory Space Enable set (R100). -/
def fnDecodes (s : State) (link fnum : Nat) : Bool :=
  let f := fnGet s link fnum
  f.enabled && f.flr.isNone && fnMse s link fnum && !(fld (cfgRd fnum f 0x44) 0 2 == 3)

/-- Bus Master Enable of the Command register. -/
def fnBme (f : FnSt) (fnum : Nat) : Bool := (cfgRd fnum f 0x04).testBit 2
/-- The function is in D3hot: PowerState 3 in the Power Management control register. -/
def fnD3 (f : FnSt) (fnum : Nat) : Bool := fld (cfgRd fnum f 0x44) 0 2 == 3
/-- MSI-X Enable and Function Mask. -/
def fnMsixEn (f : FnSt) (fnum : Nat) : Bool := (cfgRd fnum f 0x90).testBit 31 && f.msixAlloc != 0
def fnFmask (f : FnSt) (fnum : Nat) : Bool := (cfgRd fnum f 0x90).testBit 30
/-- Max_Payload_Size in force: 128 bytes doubled by the field of Device Control, at most 1,024 (R99). -/
def fnMps (f : FnSt) (fnum : Nat) : Nat := min 1024 (128 * 2 ^ fld (cfgRd fnum f 0x58) 5 3)
/-- Max_Read_Request_Size: 128 bytes doubled by its field, at most 4,096. -/
def fnMrrs (f : FnSt) (fnum : Nat) : Nat := min 4096 (128 * 2 ^ fld (cfgRd fnum f 0x58) 12 3)

/-- The function may issue requests: its link is up, it is enabled, Bus Master Enable is set and it is in D0 (R115,
R100). -/
def fnActive (s : State) (link fnum : Nat) : Bool :=
  let f := fnGet s link fnum
  f.enabled && fnBme f fnum && !fnD3 f fnum

/-- The completion timeout of a function in units of 2^-16 ns (R107). -/
def cplTimeout (s : State) (link fnum : Nat) : Nat :=
  let us := match fld (cfgRd fnum (fnGet s link fnum) 0x78) 0 4 with
    | 1 => 100
    | 2 => 10000
    | 5 => 50000
    | 6 => 200000
    | 9 => 900000
    | 10 => 3500000
    | 13 => 13000000
    | 14 => 64000000
    | _ => 50000
  us * usUnits

/-- The tag values a function may use on its link (R110). -/
def tagAllowed (s : State) (link fnum tag : Nat) : Bool :=
  let f := fnGet s link fnum
  tag < tagPool s link &&
  (if (cfgRd fnum f 0x3C8).testBit 1 then true
   else if (cfgRd fnum f 0x78).testBit 12 then 256 ≤ tag && tag ≤ 1023
   else if (cfgRd fnum f 0x58).testBit 8 then tag ≤ 255
   else tag ≤ 31)

/-- Source of a host-link event (R130). -/
def hlSrc (link idx : Nat) : Nat := 0x180 + 32 * link + idx

/-! AER (R99, R106, R130). -/

/-- The header log takes a header of four double words; the header of a TLP that fails is not among a command's operands and is
a free value (log entry 20). -/
def headerLog (s : State) (link fnum : Nat) : State :=
  (List.range 4).foldl (fun s k => let r := draw s; cfgSet r.2 link fnum (0x11C + 4 * k) (r.1 % 2 ^ 32)) s

/-- An uncorrectable error is logged in AER: its status bit; and where it is not masked and no other error waits there, First Error
Pointer and, but for a timeout, the header log (R106, R130). -/
def aerLog (s : State) (link fnum bit : Nat) : State :=
  let f := fnGet s link fnum
  let mask := cfgRd fnum f 0x108
  let first := !mask.testBit bit && (List.range 32).all (fun b => !(cfgRd fnum f 0x104).testBit b || mask.testBit b)
  let s := cfgBit s link fnum 0x104 bit true
  let s := if first then cfgSet s link fnum 0x118 (putFld (cfgRd fnum (fnGet s link fnum) 0x118) 0 5 bit) else s
  let s := if first && bit ≠ 14 then headerLog s link fnum else s
  raise s (hlSrc link 7) [(4, fnum), (4, bit)]

/-- A read of a function has failed with a host-access status (R106). -/
def readErr (s : State) (link fnum : Nat) (sts : Byte) : State :=
  let s := raise s (hlSrc link 6) [(4, fnum), (4, sts.toNat)]
  if sts = STS_HOST_UR then cfgBit s link fnum 0x04 29 true
  else if sts = STS_HOST_CA then cfgBit s link fnum 0x04 28 true
  else if sts = STS_HOST_POISON then aerLog s link fnum 12 else s

/-- A request of a function has timed out (R107, R128). -/
def readTimeout (s : State) (link fnum tag : Nat) : State :=
  aerLog (raise (bump s (hfLink link + 0x14)) (hlSrc link 5) [(4, fnum), (4, tag)]) link fnum 14

/-! Writes to host memory. -/

/-- Splits `len` bytes at `addr` at every naturally aligned boundary of `unit`: offset and length of each piece. `n`
bounds the number of pieces. -/
def splitPieces (unit : Nat) : Nat → Nat → Nat → Nat → List (Nat × Nat)
  | 0, _, _, _ => []
  | n + 1, addr, off, len =>
    if len = 0 then [] else
      let room := unit - (addr + off) % unit
      let k := min room len
      (off, k) :: splitPieces unit n addr (off + k) (len - k)

/-- The write TLPs of one host-memory write (R108). -/
def writeTlps (s : State) (link fnum : Nat) (pasid : Option Nat) (addr attr : Nat) (bs : List Byte) : State :=
  let mps := fnMps (fnGet s link fnum) fnum
  (splitPieces mps (bs.length / mps + 2) addr 0 bs.length).foldl
    (fun s p => emit s (.hostWrite link fnum pasid (addr + p.1) attr (slice bs p.1 p.2))) s

/-- Adds a number to a rising list of numbers. -/
def insNat (x : Nat) : List Nat → List Nat
  | [] => [x]
  | y :: ys => if x < y then x :: y :: ys else if x = y then y :: ys else y :: insNat x ys

/-- The pages of a log range that a write of `len` bytes at `addr` touches (R231). -/
def rangePages (r : LogRange) (addr len : Nat) : List Nat :=
  if len = 0 then [] else
  ((List.range (len / 4096 + 2)).map (fun i => addr / 4096 + i)).filter
    (fun p => p * 4096 < addr + len && r.base ≤ p * 4096 && p * 4096 < r.base + r.len)
    |>.map (fun p => p - r.base / 4096)

def markRange (r : LogRange) (addr len : Nat) : LogRange :=
  { r with marks := (rangePages r addr len).foldl (fun m p => insNat p m) r.marks }

/-- Marks the pages that a write into a slice's address space touches (R231). -/
def markDirty (s : State) (sl addr len : Nat) : State :=
  { s with slices := aupd s.slices sl (fun x => { x with logs := amap x.logs (fun _ r => markRange r addr len) }) }

/-- The link number that stands for tiller memory when a slice is bound to no function (R209). -/
abbrev noLink : Nat := 255

/-- The address space of a slice that is bound to no function is the firmware region, whose addresses are below 2^36. -/
def tilStore (s : State) (addr : Nat) (bs : List Byte) : State :=
  if addr + bs.length ≤ 2 ^ 36 then store s (fwBase + addr) bs else s
def tilFetch (s : State) (addr n : Nat) : HostData :=
  if addr + n ≤ 2 ^ 36 then .ok (memGets s.mem (fwBase + addr) n) else .failed STS_HOST_UR

/-- A write into a slice's address space: nothing while the slice is RESETTING (R227) or its function may not issue
requests (R115); its pages are marked before the TLPs issue (R231). -/
def slWrite (s : State) (sl addr attr : Nat) (bs : List Byte) : State :=
  match aget s.slices sl with
  | none => s
  | some x =>
    if x.state = 2 then s else
    match x.link with
    | none => tilStore (markDirty s sl addr bs.length) addr bs
    | some l =>
      if fnActive s l x.fnum then writeTlps (markDirty s sl addr bs.length) l x.fnum x.pasid addr attr bs else s

/-- Payload attributes of a function's write: Relaxed Ordering where the function enables it, No Snoop where the descriptor asks
and the function enables it, a steering tag where TPH is enabled: the descriptor's in Device-Specific mode, that of the bound
vector's entry in Interrupt Vector mode (R108, R109). -/
def fnAttr (s : State) (link fnum : Nat) (noSnoop : Bool) (tag : Option Nat) (vec : Option Nat) : Nat :=
  let f := fnGet s link fnum
  let c := cfgRd fnum f 0x58
  let t := cfgRd fnum f 0x1B8
  let st (v : Nat) : Nat := 4 * ((agetD f.msix v {}).st + 1)
  let hint := if !t.testBit 8 then 0 else if fld t 0 3 = 2 then (tag.map (fun x => 4 * (x + 1))).getD 0
    else if fld t 0 3 = 1 then (vec.map st).getD 0 else 0
  b2n (c.testBit 4) + 2 * b2n (noSnoop && c.testBit 11) + hint

/-- `fnAttr` of a slice's function; `tag` is the steering tag of a descriptor, none where no descriptor gives one. -/
def payloadAttr (s : State) (sl : Nat) (noSnoop : Bool) (tag : Option Nat) (vec : Option Nat) : Nat :=
  match aget s.slices sl with
  | some x => match x.link with
    | some l => fnAttr s l x.fnum noSnoop tag vec
    | none => 0
  | none => 0

/-- The attributes of a read: those of a write without Relaxed Ordering (R108, R109). -/
def readAttr (attr : Nat) : Nat := attr / 2 * 2

/-- The attributes that a descriptor gives its payload: No Snoop in bit 15 of its first word, the steering tag in bits 23 to 16
(R186). -/
def descAttr (s : State) (sl : Nat) (d : List Byte) (vec : Option Nat) : Nat :=
  payloadAttr s sl ((leAt d 0 4).testBit 15) (some (fld (leAt d 0 4) 16 8)) vec

/-! Tags and reads. -/

/-- Shows the tags held and in quarantine (R128). -/
def showTags (s : State) (link : Nat) : State :=
  let mine := s.host.reqs.filter (fun r => r.link == link && r.tag.isSome)
  let s := wrN s (hfLink link + 0x0C) (mine.filter (fun r => !r.quarantine)).length
  wrN s (hfLink link + 0x10) (mine.filter (fun r => r.quarantine)).length

/-- The lowest tag that a function may use and no request of the link holds. -/
def freeTag (s : State) (link fnum : Nat) : Option Nat :=
  let held := (s.host.reqs.filter (fun r => r.link == link)).filterMap (fun r => r.tag)
  let lo := if (cfgRd fnum (fnGet s link fnum) 0x3C8).testBit 1 then 0
            else if (cfgRd fnum (fnGet s link fnum) 0x78).testBit 12 then 256 else 0
  let cap := (fnGet s link fnum).tagMax
  let mine := (s.host.reqs.filter (fun r => r.link == link && r.fnum == fnum && r.tag.isSome)).length
  if held.length < tagPool s link && (cap = 0 || mine < cap) then
    ((List.range (held.length + 1)).map (lo + ·)).find? (fun t => tagAllowed s link fnum t && !held.contains t)
  else none

/-- Issues one request if a tag is free and its function may issue; otherwise it waits (R111). -/
def issueReq (s : State) (r : RdReq) : State × RdReq :=
  if r.tag.isSome || r.discard || r.quarantine || !fnActive s r.link r.fnum then (s, r) else
  match freeTag s r.link r.fnum with
  | none => (s, r)
  | some t =>
    let h := aget s.host.reads r.read
    (emit s (.hostRead r.link r.fnum ((h.map (fun h => h.pasid)).getD none) t r.addr r.len ((h.map (fun h => h.attr)).getD 0)),
     { r with tag := some t, deadline := s.time.elapsed + cplTimeout s r.link r.fnum })

/-- Issues the waiting requests of a link, oldest first. `done` are the requests already seen. -/
def issueAll (s : State) (link : Nat) : List RdReq → List RdReq → State
  | done, [] => { s with host := { s.host with reqs := done.reverse } }
  | done, r :: rest =>
    if r.link ≠ link then issueAll s link (r :: done) rest else
    let s1 := { s with host := { s.host with reqs := done.reverse ++ r :: rest } }
    let p := issueReq s1 r
    issueAll p.1 link (p.2 :: done) rest

def issueReads (s : State) (link : Nat) : State := showTags (issueAll s link [] s.host.reqs) link

/-- The requests of a host-memory read, as offset and length: split at Max_Read_Request_Size from its start and at every 4 KiB
boundary (R104). -/
def readPieces (s : State) (link fnum addr len : Nat) : List (Nat × Nat) :=
  let mrrs := fnMrrs (fnGet s link fnum) fnum
  (splitPieces 4096 (len / 4096 + 2) addr 0 len).flatMap (fun p =>
    (List.range (ceilDiv p.2 mrrs)).map (fun i => (p.1 + i * mrrs, min mrrs (p.2 - i * mrrs))))

/-- Starts a host-memory read: its requests take tags as they are free. -/
def startRead (s : State) (link fnum : Nat) (pasid : Option Nat) (addr len attr : Nat) (work : Work) : State :=
  let id := s.host.nextRead
  let ps := readPieces s link fnum addr len
  let reqs := ps.map (fun p => ({ read := id, link := link, fnum := fnum, addr := addr + p.1, len := p.2 } : RdReq))
  let rd : HRead := { work := work, link := link, fnum := fnum, pasid := pasid, addr := addr,
                      data := List.replicate len 0, left := reqs.length, attr := attr }
  let s := { s with host := { s.host with reads := aset s.host.reads id rd, nextRead := id + 1, reqs := s.host.reqs ++ reqs } }
  issueReads s link

/-- A read of pieces of host memory that the command which makes it also answers (Env): its requests take the lowest tag that is
free, one after the other, and its failure is reported (R104, R106, R111). -/
def hostFetch (s : State) (link fnum : Nat) (pasid : Option Nat) (ps : List (Nat × Nat)) (attr : Nat) (d : HostData) : State :=
  let tag := (freeTag s link fnum).getD 0
  let reqs := ps.flatMap (fun x => (readPieces s link fnum x.1 x.2).map (fun p => (x.1 + p.1, p.2)))
  let s := reqs.foldl (fun s p => emit s (.hostRead link fnum pasid tag p.1 p.2 (readAttr attr))) s
  match d with
  | .ok _ => s
  | .failed sts => readErr (if sts = STS_HOST_TIMEOUT then readTimeout s link fnum tag else s) link fnum sts

/-- A slice's function may issue a read now: it is active and a tag is free (R111, R115). Tiller memory always answers. -/
def mayRead (s : State) (sl : Nat) : Bool :=
  match (aget s.slices sl).bind (fun x => x.link.map (fun l => (l, x.fnum))) with
  | some (l, f) => fnActive s l f && (freeTag s l f).isSome
  | none => true

/-- Pieces of tiller memory, one after the other. -/
def tilFetches (s : State) (ps : List (Nat × Nat)) : HostData :=
  ps.foldl (fun acc p => match acc, tilFetch s p.1 p.2 with
    | .ok a, .ok b => .ok (a ++ b)
    | .ok _, .failed e => .failed e
    | .failed e, _ => .failed e) (.ok [])

/-- A read of pieces under a slice's binding (R209, R210) that the command answers with `d`; tiller memory answers for itself, and
nothing is read for no byte. -/
def slFetch (s : State) (sl : Nat) (ps : List (Nat × Nat)) (attr : Nat) (d : HostData) : State × HostData :=
  if ps.all (fun p => p.2 == 0) then (s, .ok []) else
  match aget s.slices sl with
  | none => (s, d)
  | some x => match x.link with
    | some l => (hostFetch s l x.fnum x.pasid ps attr d, d)
    | none => (s, tilFetches s ps)

/-! MSI-X. -/

/-- Sends the message of a vector, or sets its pending bit while the vector is masked, MSI-X is disabled, or the
function is in D3hot or may not master the bus (R114). -/
def sendVector (s : State) (link fnum vec : Nat) : State :=
  let f := fnGet s link fnum
  let e := agetD f.msix vec {}
  if e.masked || fnFmask f fnum || !fnMsixEn f fnum || !fnBme f fnum || fnD3 f fnum then
    fnSet s link fnum { f with msix := aset f.msix vec { e with pending := true } }
  else emit s (.msix link fnum vec e.addr e.data)

/-- Sends one message for each pending vector that is no longer held back (R114). -/
def releasePending (s : State) (link fnum : Nat) : State :=
  let f := fnGet s link fnum
  if fnFmask f fnum || !fnMsixEn f fnum || !fnBme f fnum || fnD3 f fnum then s else
  f.msix.foldl (fun s e =>
    if e.2.pending && !e.2.masked then
      emit (fnUpd s link fnum (fun f => { f with msix := aset f.msix e.1 { e.2 with pending := false } })) (.msix link fnum e.1 e.2.addr e.2.data)
    else s) s

/-! Peer windows (R123, R124). -/

/-- An access that function `fnum` of a link made through a window set has ended. One of a set from before a reset of the
function counts no longer. -/
def winDone (s : State) (link fnum gen : Nat) : State :=
  fnUpd s link fnum (fun f => if f.winGen = gen then { f with winBusy := f.winBusy - 1 }
    else if (gen + 1) % 2 ^ 32 = f.winGen && gen < 2 ^ 32 then { f with oldBusy := f.oldBusy - 1 } else f)

/-- The completion status that answers a peer-window read which failed: Unsupported Request, else Completer Abort (log
entry 20). -/
def peerSts (e : Byte) : Nat := if e = STS_HOST_UR then 1 else 4

/-- A peer-window read that another link serves is answered. -/
def peerAnswer (s : State) (link fnum gen sts : Nat) (bs : List Byte) : State :=
  let s := if sts = 1 then bump s (hfLink link + 0x20) else s
  emit (winDone s link fnum gen) (.peerReply link fnum sts bs)

/-- Reads under way that a test selects are dropped: their requests without a tag go, the others change by `mark`; a
peer-window read among them is answered Completer Abort. -/
def readsCut (s : State) (mine : HRead → Bool) (mark : RdReq → RdReq) : State :=
  let gone := s.host.reads.filter (fun e => mine e.2)
  let has (n : Nat) : Bool := gone.any (fun e => e.1 == n)
  let reqs := (s.host.reqs.filter (fun r => !(has r.read && r.tag.isNone))).map (fun r => if has r.read then mark r else r)
  let s := { s with host := { s.host with reads := s.host.reads.filter (fun e => !mine e.2), reqs := reqs } }
  gone.foldl (fun s e => match e.2.work with
    | .peer l f g => peerAnswer s l f g 4 []
    | _ => s) s

end Sys2Proof.Machine
end

