-- ==== Sys2Proof/Machine/ChanOps.lean ====
section
/-! DEFINITION. Machine/ChanOps.lean: shared operations over channels (chapter 6): handles, samples, states,
completions, notifications, and the frame of every admin command. -/

namespace Sys2Proof.Machine

/-- 32-bit index arithmetic of R176. -/
def sub32 (a b : Nat) : Nat := (a + 0x100000000 - b % 0x100000000) % 0x100000000
def add32 (a b : Nat) : Nat := (a + b) % 0x100000000

def chanHandle (i : Nat) (c : Chan) : Nat := c.gen * 0x1000000 + i

def chanGet (s : State) (i : Nat) : Option Chan := aget s.ch.chans i

/-- The channel that a handle names, unless it is zero or stale (R173). -/
def chanOf (s : State) (h : Nat) : Option (Nat × Chan) :=
  match aget s.ch.chans (h % 0x1000000) with
  | some c => if c.gen = h / 0x1000000 then some (h % 0x1000000, c) else none
  | none => none

def chanSet (s : State) (i : Nat) (c : Chan) : State := { s with ch := { s.ch with chans := aset s.ch.chans i c } }

def chanUpd (s : State) (i : Nat) (f : Chan → Chan) : State := { s with ch := { s.ch with chans := aupd s.ch.chans i f } }

/-- The device produces the ring's entries: CQ and EVENT (R170). -/
def devProduced (c : Chan) : Bool := c.kind == 6 || c.kind == 7

/-- The device's own index of a ring (R185). -/
def devIndex (c : Chan) : Nat := if devProduced c then c.pidx else c.cidx

/-- The vector bound to a channel: that of the event ring which its completion ring names (R109). -/
def boundVec (s : State) (c : Chan) : Option Nat :=
  match (chanOf s c.bind).bind (fun q => chanOf s q.2.bind) with
  | some (_, r) => if r.noVector then none else some r.vector
  | none => none

/-- Writes the index mirror, if the channel has one (R185). -/
def mirrorWrite (s : State) (i : Nat) : State :=
  match chanGet s i with
  | some c =>
    if c.mirror = 0 then s else
      slWrite s c.slice c.mirror 0 (le 4 (devIndex c) ++ le 4 (c.state + 8 * b2n c.idle + 256 * c.err))
  | none => s

/-- The PHASE bit of the entry with an index (R191). -/
def phaseBit (size idx : Nat) : Nat := 1 - (idx / size) % 2

/-! Event rings. -/

/-- Sends the vector's message when the ring's moderation says so (R196). -/
def ringModerate (s : State) (i : Nat) : State :=
  match chanGet s i with
  | some c =>
    if c.noVector then s else
    if (c.modCount ≠ 0 && c.modN ≥ c.modCount) || (c.modTime = 0 && c.modN > 0) then
      let s := chanSet s i { c with modN := 0 }
      match aget s.slices c.slice with
      | some x => match x.link with
        | some l => if x.state = 2 then s else sendVector s l x.fnum c.vector
        | none => s
      | none => s
    else s
  | none => s

/-- Writes one 32-byte entry to an event ring, then advances its index, mirror and moderation; the ring must have
room. `mk` builds the entry from its PHASE bit. -/
def ringPut (s : State) (i : Nat) (mk : Nat → List Byte) : State :=
  match chanGet s i with
  | some c =>
    let s := slWrite s c.slice (c.base + 32 * (c.pidx % c.size)) 0 (mk (phaseBit c.size c.pidx))
    let c' := { c with pidx := add32 c.pidx 1, entries := c.entries + 1, modN := c.modN + 1, modFirst := if c.modN = 0 then s.time.elapsed else c.modFirst }
    ringModerate (mirrorWrite (chanSet s i c') i) i
  | none => s

/-- Free entries of a device-produced ring. -/
def ringRoom (c : Chan) : Nat := c.size - sub32 c.pidx c.cidx

/-- A notification entry (R194). -/
def noteEntry (seq time : Nat) (n : Note) (phase : Nat) : List Byte :=
  pack 32 [(0, 12, 20, seq), (4, 0, 16, n.code), (4, 24, 1, 1), (4, 31, 1, phase), (8, 0, 64, time),
    (0x10, 0, 32, n.handle), (0x14, 0, 8, n.state), (0x15, 0, 8, n.status), (0x18, 0, 32, n.pidx)]

/-- The function of a slice may issue requests: always, for slice 0 with its rings in tiller memory. -/
def sliceLive (s : State) (sl : Nat) : Bool :=
  match (aget s.slices sl).bind (fun x => x.link.map (fun l => (l, x.fnum))) with
  | some (l, f) => fnActive s l f
  | none => true

/-- Writes the pending notifications of an event ring while it has room and its function may write; an OVERFLOW notification goes
first when device records were dropped (R195). `n` bounds the entries written. -/
def ringFlush : Nat → State → Nat → State
  | 0, s, _ => s
  | n + 1, s, i =>
    match chanGet s i with
    | some c =>
      if c.state ≠ 1 || ringRoom c = 0 || !sliceLive s c.slice then s
      else if c.dropped > 0 then
        let note : Note := { handle := chanHandle i c, code := 3, state := c.state, status := 0, pidx := min c.dropped 0xFFFFFFFF }
        let s := chanSet s i { c with dropped := 0, noteSeq := (c.noteSeq + 1) % 2 ^ 20 }
        ringFlush n (ringPut s i (noteEntry c.noteSeq (nowNs s) note)) i
      else match c.notes with
        | [] => s
        | note :: rest =>
          let s := chanSet s i { c with notes := rest, noteSeq := (c.noteSeq + 1) % 2 ^ 20 }
          ringFlush n (ringPut s i (noteEntry c.noteSeq (nowNs s) note)) i
    | none => s

/-- Posts a notification to an event ring; one already pending for the same channel and code is replaced (R195). -/
def postNote (s : State) (ring : Nat) (n : Note) : State :=
  match chanOf s ring with
  | some (i, c) =>
    if c.kind ≠ 7 then s else
    let old := c.notes.filter (fun m => m.handle ≠ n.handle || m.code ≠ n.code)
    ringFlush (old.length + 2) (chanSet s i { c with notes := old ++ [n] }) i
  | none => s

/-- The CHAN_STATE notification of a channel, to the event ring of its CQ (R195). -/
def chanNote (s : State) (i : Nat) : State :=
  match chanGet s i with
  | some c =>
    if devProduced c then s else
    match chanOf s c.bind with
    | some (_, q) => postNote s q.bind { handle := chanHandle i c, code := 2, state := c.state, status := c.err, pidx := 0 }
    | none => s
  | none => s

/-! Completion rings. -/

/-- Posts CQ_NOTIFY and disarms, if the CQ is armed and its PIDX differs from the armed index (R193). -/
def cqNotify (s : State) (q : Nat) : State :=
  match chanGet s q with
  | some c =>
    if c.armed && c.pidx ≠ c.armVal then
      postNote (chanSet s q { c with armed := false }) c.bind
        { handle := chanHandle q c, code := 1, state := c.state, status := 0, pidx := c.pidx }
    else s
  | none => s

/-- The 32 bytes of a completion entry (R191). -/
def cplEntry (s : State) (p : Cpl) (phase : Nat) : List Byte :=
  pack 32 [(0, 0, 64, p.cookie), (8, 0, 32, p.handle), (0xC, 0, 8, p.status.toNat), (0xD, 0, 8, p.op),
    (0xE, 0, 4, p.flags), (0xC, 31, 1, phase), (0x10, 0, 32, p.len), (0x14, 0, 32, p.aux),
    (0x18, 0, 64, p.time.getD (nowNs s))]

/-- Writes one completion to a CQ, then its PIDX and mirror, then the notification it owes (R184, R185, R193). One
reservation of the CQ is used up. -/
def cqWrite (s : State) (q : Nat) (p : Cpl) : State :=
  match chanGet s q with
  | some c =>
    let s := slWrite s c.slice (c.base + 32 * (c.pidx % c.size)) 0 (cplEntry s p (phaseBit c.size c.pidx))
    let c' := { c with pidx := add32 c.pidx 1, entries := c.entries + 1, reserved := c.reserved - 1 }
    cqNotify (mirrorWrite (chanSet s q c') q) q
  | none => s

/-- Gives back a reservation without writing (NO_CPL, R183). -/
def cqRelease (s : State) (cq n : Nat) : State :=
  match chanOf s cq with
  | some (q, _) => chanUpd s q (fun c => { c with reserved := c.reserved - n })
  | none => s

/-- Entries whose work ends give back the departure entries that they hold (R417). -/
def depEnd (s : State) (es : List Ent) : State :=
  let n := (es.filter (fun e => e.dep && e.result.isNone)).length
  if n = 0 then s else wrN s Reg.FT_DEP_USED (rdN s Reg.FT_DEP_USED - n)

/-- Marks an entry finished with its completion. -/
def finishEnt (s : State) (i idx : Nat) (p : Cpl) : State :=
  match chanGet s i with
  | some c =>
    chanSet (depEnd s (c.ents.filter (fun e => e.idx == idx))) i
      { c with ents := c.ents.map (fun e => if e.idx = idx && e.result.isNone then { e with result := some p, dep := false } else e) }
  | none => s

/-- The completion of an entry of a channel with a status and nothing else. -/
def stsCpl (i : Nat) (c : Chan) (e : Ent) (sts : Byte) : Cpl :=
  { cookie := leAt e.desc 8 8, handle := chanHandle i c, status := sts, op := leAt e.desc 0 1 }

/-- The fetched entries of a channel that nothing has begun, in order. -/
def idleEnts (c : Chan) : List Ent := c.ents.filter (fun e => !e.begun && e.result.isNone)

/-- The next of them, once its element list is known. -/
def nextBuf (c : Chan) : Option Ent :=
  match idleEnts c with
  | e :: _ => if e.waits = 0 then some e else none
  | [] => none

/-- How many of them stand ready in a row. -/
def readyBufs (c : Chan) : Nat := ((idleEnts c).takeWhile (fun e => e.waits == 0)).length

/-- Every entry that has not begun and has no result completes with a status (R199, R200). -/
def flushEnts (s : State) (i : Nat) (sts : Byte) : State :=
  match chanGet s i with
  | some c =>
    chanSet (depEnd s (c.ents.filter (fun e => !e.begun))) i
      { c with ents := c.ents.map (fun e => if e.begun || e.result.isSome then e else { e with result := some (stsCpl i c e sts), dep := false }) }
  | none => s

/-- Enters a state, with the mirror and the notification it owes: on ERROR, STALLED and IDLE, and on leaving STALLED (R195). -/
def chanState (s : State) (i st : Nat) : State :=
  match chanGet s i with
  | some c =>
    if c.state = st then s else
    let idle := (st == 2 || st == 4) && c.ents.isEmpty && c.fetching == 0
    let s := mirrorWrite (chanSet s i { c with state := st, idle := idle }) i
    if st = 3 || st = 4 || c.state = 3 || (idle && !c.idle) then chanNote s i else s
  | none => s

/-- Sets IDLE when a channel that is not ACTIVE has no fetched work left (R198). -/
def idleCheck (s : State) (i : Nat) : State :=
  match chanGet s i with
  | some c =>
    if (c.state == 2 || c.state == 4) && !c.idle && c.ents.isEmpty && c.fetching = 0 then
      chanNote (mirrorWrite (chanSet s i { c with idle := true }) i) i
    else s
  | none => s

/-- What a channel's read is for. -/
def workChan : Work → Option Nat
  | .desc ch _ _ => some ch
  | .gather ch _ => some ch
  | .payload ch _ _ => some ch
  | _ => none

/-- The reads under way for a channel bring nothing any more: ring entries, or with `every` its lists and payload as well.
Requests that hold no tag yet go with them. -/
def dropReads (s : State) (i : Nat) (every : Bool) : State :=
  let mine (w : Work) : Bool := workChan w == some i && (every || (match w with | .desc _ _ _ => true | _ => false))
  let gone := (s.host.reads.filter (fun r => mine r.2.work)).map (fun r => r.1)
  { s with host := { s.host with reads := s.host.reads.filter (fun r => !gone.contains r.1),
                                 reqs := s.host.reqs.filter (fun r => r.tag.isSome || !gone.contains r.read) } }

/-- Puts a channel in ERROR (R200): fetching stops, fetched entries that have not begun complete with STS_FLUSHED, and
the entry that caused it, if named, with the status. -/
def chanError (s : State) (i : Nat) (sts : Byte) (cause : Option Nat := none) : State :=
  match chanGet s i with
  | some c =>
    if c.state = 4 then s else
    let s := depEnd s (c.ents.filter (fun e => some e.idx == cause))
    let c1 := { c with err := sts.toNat, fetching := 0, ents := c.ents.map (fun e => if some e.idx = cause && e.result.isNone then { e with result := some (stsCpl i c e sts), dep := false } else e) }
    let s := dropReads (cqRelease (chanSet s i c1) c.bind c.fetching) i true
    chanState (flushEnts s i STS_FLUSHED) i 4
  | none => s

/-- Samples the PIDX of a software-produced ring and checks it (R176); true when the sample is new. -/
def samplePidx (s : State) (i : Nat) : State × Bool :=
  match chanGet s i with
  | some c =>
    if devProduced c then (s, false)
    else if sub32 c.pidxReg c.sampled > c.size || sub32 c.pidxReg c.cidx > c.size then
      (chanError s i STS_RING_INDEX, true)
    else (chanSet s i { c with sampled := c.pidxReg }, c.pidxReg ≠ c.sampled)
  | none => (s, false)

/-- The oldest finished entry of a channel is completed: written to its CQ in entry order (R177), or suppressed under
NO_CPL when its status is STS_OK (R186). -/
def writeHead (s : State) (i : Nat) : State :=
  match chanGet s i with
  | some c =>
    match c.ents with
    | e :: rest =>
      match e.result with
      | some p =>
        let s := chanSet s i { c with ents := rest }
        let s := if c.kind ≠ 1 && (leAt e.desc 0 4).testBit 13 && p.status = STS_OK then cqRelease s c.bind 1
                 else match chanOf s c.bind with
                   | some (q, _) => cqWrite s q p
                   | none => s
        idleCheck s i
      | none => s
    | [] => s
  | none => s

/-! Admin commands. -/

/-- What an admin command reports besides its cookie and opcode (R203). -/
structure AdminRes where
  sts    : Byte := 0
  handle : Nat := 0
  len    : Nat := 0
  aux    : Nat := 0
deriving DecidableEq, Repr

/-- GL_DEVICE_READY.READY. -/
def deviceReady (s : State) : Bool := rbit (rd s Reg.GL_DEVICE_READY) 0

/-- The index of a slice's ADMIN channel. -/
def adminChan (s : State) (sl : Nat) : Option Nat :=
  (s.ch.chans.find? (fun e => e.2.kind == 1 && e.2.slice == sl)).map (fun e => e.1)

/-- The admin command at the head of a slice's ring is `cmd`, fetched and not yet begun (R202). -/
def adminHead (s : State) (sl op : Nat) (cmd : List Byte) : Bool :=
  match (adminChan s sl).bind (fun i => chanGet s i) with
  | some c =>
    c.state ≠ 3 && (match c.ents.head? with
      | some e => e.desc == cmd && leAt cmd 0 1 == op && !e.begun && e.result.isNone
      | none => false)
  | none => false

/-- Changes the head entry of a slice's admin ring. -/
def adminEnt (s : State) (sl : Nat) (f : Ent → Ent) : State :=
  match adminChan s sl with
  | some i => chanUpd s i (fun c => { c with ents := match c.ents with | e :: r => f e :: r | [] => [] })
  | none => s

/-- Ends a slice's running admin command: its completion is written at once (R202, R203), unless the slice's function may
not issue requests now. -/
def adminComplete (s : State) (sl op cookie : Nat) (r : AdminRes) : State :=
  match adminChan s sl with
  | some i =>
    let p : Cpl := { cookie := cookie, handle := r.handle, status := r.sts, op := op, len := r.len, aux := r.aux }
    let s := adminEnt s sl (fun e => { e with begun := true, result := some p })
    if sliceLive s sl then writeHead s i else s
  | none => s

/-- A parameter of an admin command: `w` bits at bit `lo` of the word at byte offset `off`. -/
def par (cmd : List Byte) (off lo w : Nat) : Nat := fld (leAt cmd off 8) lo w

/-- The slice that an admin command acts on (R203): its own, or SLICE when OTHER is set, which only the owner may. -/
def adminTarget (sl : Nat) (cmd : List Byte) : Option Nat :=
  if par cmd 4 15 1 = 1 then (if sl = 0 then some (par cmd 4 0 14) else none) else some sl

/-- Opcodes that run on a target that is RESETTING: QUERY_QUOTA, QUERY_SLICE and SET_QUOTA (R222), and the generic
commands that name no slice. -/
def runsInReset (op : Nat) : Bool := op == 0x43 || op == 0x45 || op == 0x42 || op == 0 || op == 1 || op == 0x40

/-- An admin command of a slice: its 64 bytes stand at the head of the slice's ring. `f` runs it on the target slice and
answers its result, or none when it completes later. -/
def runAdmin (s : State) (sl op : Nat) (cmd : List Byte) (f : State → Nat → State × Option AdminRes) : State :=
  let cookie := leAt cmd 8 8
  match aget s.slices sl with
  | none => s
  | some x =>
    if x.state = 2 || (x.state = 4 && sl ≠ 0) || !adminHead s sl op cmd then s
    else if !deviceReady s && op ≠ 1 then adminComplete s sl op cookie { sts := STS_NOT_READY }
    else match adminTarget sl cmd with
      | none => adminComplete s sl op cookie { sts := STS_PERMISSION }
      | some t =>
        if ((aget s.slices t).map (fun y => y.state)) = some 2 && !runsInReset op then
          adminComplete s sl op cookie { sts := STS_SLICE_STATE }
        else
          match f s t with
          | (s', some r) => adminComplete s' sl op cookie r
          | (s', none) => s'

/-- Remembers that an admin command completes later, on what it waits. -/
def adminDefer (s : State) (sl op cookie key : Nat) : State :=
  adminEnt { s with ch := { s.ch with adminWait := aset s.ch.adminWait sl (op, cookie, key) } } sl (fun e => { e with begun := true })

/-- Completes every deferred admin command of an opcode that waits on a key. -/
def adminWake (s : State) (op key : Nat) (r : AdminRes) : State :=
  s.ch.adminWait.foldl (fun s e =>
    if e.2.1 = op && e.2.2.2 = key then
      adminComplete { s with ch := { s.ch with adminWait := adel s.ch.adminWait e.1 } } e.1 op e.2.2.1 r
    else s) s

/-- The first status that applies, in order; none when no check fails. -/
def firstSts : List (Bool × Byte) → Option Byte
  | [] => none
  | (b, c) :: rest => if b then some c else firstSts rest

/-- The status of the next host-memory write that a command makes: what the outside answers, else success. -/
def envWrite (e : Env) : Byte := e.writes.headD 0

/-- The answer to the `k`-th host-memory read of a command; with no answer the read times out (R106). -/
def envRead (e : Env) (k : Nat) : HostData := (e.reads[k]?).getD (.failed STS_HOST_TIMEOUT)

/-- An admin command reads `n` bytes of its slice's memory and goes on with them, or fails with the status of the read. -/
def adminRead (s : State) (sl addr n : Nat) (env : Env) (f : State → List Byte → State × Option AdminRes) : State × Option AdminRes :=
  match slFetch s sl [(addr, n)] 0 (envRead env 0) with
  | (s, .failed e) => (s, some { sts := e })
  | (s, .ok bs) => f s bs

/-- A command writes a result into its slice's memory: the status that the outside gives the write. -/
def adminPut (s : State) (sl addr : Nat) (bs : List Byte) (e : Env) : State × Byte :=
  if envWrite e = STS_OK then (slWrite s sl addr 0 bs, STS_OK) else (s, envWrite e)

/-- A result of `bs` written at the address in a command's word 0x18, with LEN its length. -/
def adminResult (s : State) (sl : Nat) (cmd bs : List Byte) (e : Env) : State × Option AdminRes :=
  match adminPut s sl (par cmd 0x18 0 64) bs e with
  | (s, sts) => (s, some (if sts = STS_OK then { len := bs.length } else { sts := sts }))

end Sys2Proof.Machine
end

