-- ==== Sys2Proof/Machine/Gate.lean ====
section
/-! DEFINITION. Machine/Gate.lean: the checks that every register write passes before its effect (chapter 3): byte
enables, the start-up stage, and the unlock window of guarded registers. -/

namespace Sys2Proof.Machine

/-- The block of an offset (R61). -/
def blockOf (off : Nat) : Nat := off / 0x100000

/-- Writes outside GL_, FT_ and OZ_ wait for STAGE 5 (R90). -/
def stageOk (s : State) (off : Nat) : Bool := blockOf off ≤ 2 || rdF s Reg.GL_BOOT_STAGE 0 4 == 5

/-- A window is open: it closes 4,096 core clocks after it opened (R78). -/
def windowOpen (s : State) : Bool :=
  match s.acc.window with
  | some w => decide (s.time.clocks < w.opened + 4096)
  | none => false

/-- The open window permits a guarded write by this requester to this block (R80). -/
def windowFor (s : State) (req : Requester) (blk : Nat) : Bool :=
  match s.acc.window with
  | some w => decide (s.time.clocks < w.opened + 4096) && decide (w.owner = req) && w.block == blk
  | none => false

/-- The window closes. -/
def closeWindow (s : State) : State := { s with acc := { s.acc with window := none } }

/-- An offset of the TIL_ region of physical tiller t. -/
def inTil (t off : Nat) : Bool := off / 0x10000 == 0x2A0 + 16 * (t / 8) + t % 8
/-- TIL_PORT_SEL and the port window of some tiller. -/
def portWindow (off : Nat) : Bool := 0x2A ≤ blockOf off && blockOf off ≤ 0x2E && 0x40 ≤ off % 0x10000 && off % 0x10000 < 0x70

/-- Whether a requester reaches a register. A tiller thread does when it is the supervisor of that tiller, or holds OWNER_REG,
and for the port window PORT_CTL as well; else its access raises an access-fault exception (R546, R549). A function whose
memory space answers reaches the map when it is the owner function, and slice control blocks by its page (R59, R100, R213). -/
def mayReach (s : State) (req : Requester) (off : Nat) : Bool :=
  match req with
  | .thread t n =>
    let cap := rdN s (Reg.TH_CAP (t / 8) (t % 8) n)
    (n == 0 && inTil t off) || (cap.testBit 0 && (!portWindow off || cap.testBit 3))
  | .fn l f => fnDecodes s l f && ((decide (s.host.owner = some l) && f == 0) || (0x210100 ≤ off && off < 0x210180))
  | .action => true

/-- An access that does not reach a register: a thread takes an access-fault exception (R546, R549), a function whose memory
space does not answer gets Unsupported Request (R128), any other function reaches an offset without effect (R62). -/
def notReached (s : State) (req : Requester) : State :=
  match req with
  | .thread t n => emit s (.control "access fault" [t, n])
  | .fn l f => if fnDecodes s l f then s else bump s (hfLink l + 0x20)
  | .action => s

/-- A tiller store that crosses a 4-byte boundary: all four byte enables at an address that is not aligned (R63). -/
def crosses (req : Requester) (be off : Nat) : Bool :=
  match req with
  | .thread _ _ => be == 15 && off % 4 ≠ 0
  | _ => false

/-- A write passes when every byte enable is set (R63), the device has started (R90) and, for a guarded register, the
window permits it (R78, R80); its effect is `f`. -/
def gate (s : State) (req : Requester) (be off : Nat) (guarded : Bool) (f : State → State) : State :=
  if !mayReach s req off || crosses req be off then notReached s req
  else if be ≠ 15 || !stageOk s off then badAccess s req off
  else if guarded then
    if windowFor s req (blockOf off) then f (closeWindow s) else lockedWrite s req off
  else f s

/-! LO and HI registers (R66). A register pair goes by the offset of its LO register. -/

/-- The value under a requester and a pair. -/
def accGet (l : List ((Requester × Nat) × W32)) (req : Requester) (lo : Nat) : Option W32 :=
  (l.find? (fun e => decide (e.1 = (req, lo)))).map (fun e => e.2)

def accDel (l : List ((Requester × Nat) × W32)) (req : Requester) (lo : Nat) : List ((Requester × Nat) × W32) :=
  l.filter (fun e => !decide (e.1 = (req, lo)))

/-- A plain write of a LO register is held for its requester and changes nothing yet. -/
def loHold (s : State) (req : Requester) (lo : Nat) (v : W32) : State :=
  { s with acc := { s.acc with held := ((req, lo), v) :: accDel s.acc.held req lo } }

/-- The held LO value is given up: the value, if there was one. -/
def loTake (s : State) (req : Requester) (lo : Nat) : Option W32 × State :=
  (accGet s.acc.held req lo, { s with acc := { s.acc with held := accDel s.acc.held req lo } })

/-- A HI write commits the LO value held for its requester; without one the LO register stays. -/
def loCommit (s : State) (req : Requester) (lo : Nat) : State :=
  match loTake s req lo with
  | (some v, s) => wr s lo v
  | (none, s) => s

/-- A plain register: the fields of access code RW take the value, the others stay (R3). -/
def plainWrite (s : State) (off mask : Nat) (v : W32) : State :=
  wr s off ((rd s off &&& BitVec.ofNat 32 (0xFFFFFFFF - mask)) ||| (v &&& BitVec.ofNat 32 mask))

end Sys2Proof.Machine
end

