-- ==== Sys2Proof/Machine/NetOps.lean ====
section
/-! DEFINITION. Machine/NetOps.lean: shared operations over port groups, logical ports and stairs' roles (chapters 5
and 17): modes and rates, pauses, and which physical stair serves a role. -/

namespace Sys2Proof.Machine

/-! Units (R578, R605). -/

def unitState (s : State) (u : Nat) : Nat := rdF s (Reg.MS_UNIT_W0 u) 16 3
def unitRole (s : State) (u : Nat) : Nat := rdF s (Reg.MS_UNIT_W0 u) 19 6
def unitEpoch (s : State) (u : Nat) : Nat := rdF s (Reg.MS_UNIT_W0 u) 0 16

/-- The physical stair that serves a logical stair. -/
def stairOf (s : State) (role : Nat) : Option Nat :=
  (List.range 9).find? (fun p => unitState s p == 1 && unitRole s p == role)

/-- The physical tiller that serves a logical tiller. -/
def tillerOf (s : State) (role : Nat) : Option Nat :=
  (List.range 34).find? (fun t => unitState s (16 + t) == 1 && unitRole s (16 + t) == role)

/-- A transfer stamped with a stale epoch is dropped and counted (R22, R585): `cnt` counts those dropped where they were sent, or
where they arrived. -/
def staleDrop (s : State) (cnt u : Nat) : State := raiseLim (bump s cnt) 0x982 0 [(4, u)]

/-- What a unit that does not run sends: the mesh port of a fenced unit drops and counts it; a unit that is not fenced has
nothing to send. -/
def fencedSend (s : State) (u : Nat) : State := if unitState s u = 3 then staleDrop s Reg.MS_STALE_SRC_CNT u else s

/-! GDDR7 controllers and guarded data (R24, R600 to R602). -/

def gmReg (f : Nat → Nat → Nat) (c : Nat) : Nat := f (c / 8) (c % 8)
/-- GM_STATUS.STATE: 0 ACTIVE, 1 LOST, 2 RESYNC, 3 ABSENT. -/
def gmState (s : State) (c : Nat) : Nat := rdF s (gmReg Reg.GM_STATUS c) 0 2
/-- The other member of a controller's pair (R24). -/
def gmPair (c : Nat) : Nat := (c + 8) % 16

/-- The controller that serves a read of guarded data on the pair of controller c: c, or its member once c is lost (R24, R600);
none when neither holds the data (R602). Both members hold the same bytes, so the data itself is held once. -/
def guardedFrom (s : State) (c : Nat) : Option Nat :=
  if gmState s c = 0 then some c else if gmState s (gmPair c) = 0 then some (gmPair c) else none

/-- Guarded data is gone: the pair that holds it has lost both members. `kind` is 0 a DEEP bucket, 1 a queue pair's spilled state,
2 a stair's table shadows, 3 the golden microcode; `obj` and `at'` say which. Log entry 12. -/
def guardedGone (s : State) (kind obj at' : Nat) : Bool :=
  let c := Config.gmHome kind obj at' % 8
  (guardedFrom s c).isNone && (gmState s c ≠ 3 || gmState s (gmPair c) ≠ 3)

/-! Ports. -/

/-- The mode in force of a port group; 5 to 7 are treated as 0 (R144). -/
def pgMode (s : State) (pg : Nat) : Nat :=
  let m := rdF s (Reg.EN_PG_STATUS pg) 12 3
  if m ≥ 5 then 0 else m

/-- The mode of the group uses the logical port (R144). -/
def portPresent (s : State) (p : Nat) : Bool :=
  p < 32 && (match pgMode s (p / 4) with
    | 0 => false
    | 1 => p % 4 == 0
    | 2 => p % 2 == 0
    | _ => true)

/-- The lanes of a port (R144). -/
def portLanes (s : State) (p : Nat) : List Nat :=
  match pgMode s (p / 4) with
  | 1 => [0, 1, 2, 3]
  | 2 => [p % 4, p % 4 + 1]
  | 0 => []
  | _ => [p % 4]

/-- Nominal rate in Gb/s. -/
def portRate (s : State) (p : Nat) : Nat :=
  match pgMode s (p / 4) with
  | 1 => 800
  | 2 => 400
  | 3 => 200
  | 4 => 100
  | _ => 0

def portGet (s : State) (p : Nat) : PortSt := agetD s.net.ports p {}
def portSet (s : State) (p : Nat) (x : PortSt) : State := { s with net := { s.net with ports := aset s.net.ports p x } }
def portUpd (s : State) (p : Nat) (f : PortSt → PortSt) : State := portSet s p (f (portGet s p))

/-- EN_PORT_STATUS.STATE: 0 DISABLED, 1 TRAINING, 2 ALIGNING, 3 UP, 4 LOCAL_FAULT, 5 REMOTE_FAULT, 6 TRAIN_FAIL. -/
def portState (s : State) (p : Nat) : Nat := rdF s (Reg.EN_PORT_STATUS (p / 4) (p % 4)) 0 3

def portCtl (s : State) (p : Nat) : W32 := rd s (Reg.EN_PORT_CTL (p / 4) (p % 4))

/-- EN_PORT_CTL.FC; 3 acts as 0. -/
def portFc (s : State) (p : Nat) : Nat :=
  let f := rfld (portCtl s p) 3 2
  if f = 3 then 0 else f

/-- The scheduler serves the port: it is UP, and neither lock is lost nor a fault seen (R150, R151). -/
def portServes (s : State) (p : Nat) : Bool :=
  let x := portGet s p
  portPresent s p && portState s p == 3 && x.lock && !x.lf && !x.rf

/-- A takeover of a stair's role is under way. -/
def stairTaking (s : State) (role : Nat) : Bool := (aget s.unit.takeovers role).isSome

/-- A role is served, or will be at the end of a takeover. -/
def roleServed (s : State) (role : Nat) : Bool := (stairOf s role).isSome || stairTaking s role

/-- What a port's transmit lanes are to carry (R148, R150, R596). -/
def lineOut (s : State) (p : Nat) : LineOut :=
  let x := portGet s p
  if !portPresent s p || portState s p = 0 then .electricalIdle
  else if !roleServed s (p / 4) then .remoteFault
  else if portState s p = 1 || portState s p = 6 then
    .training (if rbit (portCtl s p) 2 then some (pgMode s (p / 4), portFc s p) else none)
  else if !x.lock || x.lf then .remoteFault
  else if x.rf then .idles
  else .frames

/-- The transmit lanes follow. -/
def lineFollow (s : State) (p : Nat) : State :=
  let w := lineOut s p
  if (portGet s p).sends = w then s else emit (portUpd s p (fun x => { x with sends := w })) (.line p w)

/-- The largest frame of a port (R153, R167). -/
def maxFrame (s : State) (p : Nat) : Nat :=
  let m := rdF s (Reg.EN_PORT_MAXFRAME (p / 4) (p % 4)) 0 14
  if m = 0 then 16128 else min m 16128

/-- Counter j of a port. -/
def portCnt (s : State) (p j n : Nat) : State := bump64 s (Reg.EN_PORT_CNT_LO (p / 4) (p % 4) j) n

/-- Source of a port event (R169). -/
def portSrc (p idx : Nat) : Nat := 0x400 + 8 * p + idx

/-- The length of `q` pause quanta of 512 bit times, in units of 2^-16 ns. -/
def quanta (s : State) (p q : Nat) : Nat := q * 512 * 65536 / max 1 (portRate s p)

/-- The class of a priority. -/
def priClass (s : State) (p i : Nat) : Nat := rdF s (Reg.EN_PRI2CLASS (p / 4) (p % 4)) (3 * i) 3

/-- A class is paused by a running timer of a priority mapped to it, or of 802.3x (R156), unless its pause is ignored
(R158). -/
def classPaused (s : State) (p c : Nat) : Bool :=
  let x := portGet s p
  !x.ignore.contains c &&
  (((aget x.pause 8).any (fun e => s.time.elapsed < e)) ||
   (List.range 8).any (fun i => priClass s p i == c && (aget x.pause i).any (fun e => s.time.elapsed < e)))

/-- Follows the pauses of a port: the classes paused and since when, and EN_PORT_STATUS [15:8]. -/
def pauseUpdate (s : State) (p : Nat) : State :=
  let on := (List.range 8).filter (classPaused s p)
  let x := portGet s p
  let paused := on.foldl (fun m c => aset m c (agetD x.paused c s.time.elapsed)) ([] : AMap Nat)
  let s := portSet s p { x with paused := paused }
  wrF s (Reg.EN_PORT_STATUS (p / 4) (p % 4)) 8 8 (on.foldl (fun a c => a + 2 ^ c) 0)

/-- How long a control frame of 64 bytes takes at a port's rate, with its preamble and gap, in units of 2^-16 ns. -/
def controlTime (s : State) (p : Nat) : Nat := 84 * 8 * 65536 / max 1 (portRate s p)

/-- A PFC or pause frame from a port: the priorities it names with their quanta (R159). In FC mode 1 the frame is an
802.3x frame with the quanta of the first. A port that starts no frame now sends none (R150). -/
def controlFrame (s : State) (p : Nat) (qs : List (Nat × Nat)) : State :=
  if qs.isEmpty || portFc s p = 0 || !portServes s p then s else
  let mac := le 4 (rdN s (Reg.EN_PORT_MAC_LO (p / 4) (p % 4))) ++ le 2 (rdN s (Reg.EN_PORT_MAC_HI (p / 4) (p % 4)))
  let da : List Byte := [0x01, 0x80, 0xC2, 0x00, 0x00, 0x01]
  let payload := if portFc s p = 1 then be 2 1 ++ be 2 (((qs.map (fun q => q.2))[0]?).getD 0)
    else be 2 0x0101 ++ be 2 (qs.foldl (fun a q => a + 2 ^ q.1) 0) ++
      (List.range 8).flatMap (fun i => be 2 (((qs.find? (fun q => q.1 == i)).map (fun q => q.2)).getD 0))
  let frame := fit 60 (da ++ mac.reverse ++ be 2 0x8808 ++ payload)
  let s := emit (portUpd s p (fun x => { x with ctlEnd := s.time.elapsed + controlTime s p })) (.frame p (lineFrame frame))
  let s := portCnt (portCnt (portCnt s p 9 64) p 10 1) p 11 1
  if portFc s p = 2 then
    qs.foldl (fun s q => bump s (Reg.EN_TX_PFC_CNT (p / 4) (p % 4) q.1)) s
  else s

/-- EN_PFC_QUANTA; zero means that no XOFF frames are sent. -/
def pfcQuanta (s : State) (p : Nat) : Nat := rdF s (Reg.EN_PFC_QUANTA (p / 4) (p % 4)) 0 16

/-- The changed priority is to be told in a control frame (R159): in FC mode 1 when it changed the OR of the port's priorities,
else when its TX_EN is set. No XOFF frame is sent with zero quanta. -/
def xoffTold (s : State) (p i : Nat) (was on : Bool) : Bool :=
  !(on && pfcQuanta s p = 0) &&
  (if portFc s p = 1 then was != !(portGet s p).xoff.isEmpty else (rdN s (Reg.EN_PFC_CTL (p / 4) (p % 4))).testBit (8 + i))

/-- A priority of a port enters or leaves XOFF (R159): EN_PORT_STATUS [23:16], and its change waits for the next control frame. In
FC mode 1 the port's XOFF is the OR of its priorities, which share one refresh. -/
def xoffSet (s : State) (p i : Nat) (on : Bool) : State :=
  let x := portGet s p
  let sent := if portFc s p = 1 then ((x.xoff.head?).map (fun e => e.2)).getD s.time.elapsed else s.time.elapsed
  let s := portSet s p { x with xoff := if on then aset x.xoff i sent else adel x.xoff i }
  let s := wrF s (Reg.EN_PORT_STATUS (p / 4) (p % 4)) (16 + i) 1 (b2n on)
  if xoffTold s p i (!x.xoff.isEmpty) on && !x.ctl.contains i then portUpd s p (fun y => { y with ctl := y.ctl ++ [i] }) else s

/-- A port tells the changes of XOFF (R159): those that fell within the time of one control frame share the next. -/
def xoffSend (s : State) (p : Nat) : State :=
  let x := portGet s p
  if x.ctl.isEmpty || s.time.elapsed < x.ctlEnd then s else
  let q (on : Bool) : Nat := if on then pfcQuanta s p else 0
  let qs := if portFc s p = 1 then [(0, q (!x.xoff.isEmpty))] else x.ctl.map (fun i => (i, q (aget x.xoff i).isSome))
  controlFrame (portSet s p { x with ctl := [] }) p qs

end Sys2Proof.Machine
end

