-- ==== Sys2Proof/Machine/LandOps.lean ====
section
/-! DEFINITION. Machine/LandOps.lean: shared operations of the landing (chapter 12): grains, nodes, admission, pairs,
shapers, the scheduler's choice, and the metadata word's fields. -/

namespace Sys2Proof.Machine

/-! The metadata word (R243). -/

/-- A field of the metadata word: `w` bits at bit `lo` of the word at byte `off`. -/
def mdF (md : List Byte) (off lo w : Nat) : Nat := fld (leAt md off 4) lo w

/-- The metadata word with a field replaced. -/
def mdPut (md : List Byte) (off lo w v : Nat) : List Byte := patch md off (le 4 (putFld (leAt md off 4) lo w v))

def mdSheaf (md : List Byte) : Nat := mdF md 8 16 16
def mdSrc (md : List Byte) : Nat := mdF md 0xC 0 6
def mdSlice (md : List Byte) : Nat := mdF md 0xC 8 14
def mdLen (md : List Byte) : Nat := mdF md 0x10 0 14
def mdStatus (md : List Byte) : Nat := mdF md 0x10 16 3
def mdFrag (md : List Byte) : Nat := mdF md 0x14 7 2
def mdHash (md : List Byte) : Nat := mdF md 0x18 0 32
def mdDisp (md : List Byte) : Nat := mdF md 0x40 0 3
def mdReason (md : List Byte) : Nat := mdF md 0x40 3 8
def mdQueue (md : List Byte) : Nat := mdF md 0x44 0 18
def mdHandle (md : List Byte) : Nat := mdF md 0x48 0 32
/-- L2_OFF, L3_OFF, L4_OFF, TUN_OFF (`b` 0 to 3) of a layer (R243). -/
def layerOff (md : List Byte) (l b : Nat) : Nat :=
  match b with
  | 0 => mdF md (0x20 + 8 * l) 0 10
  | 1 => mdF md (0x20 + 8 * l) 16 10
  | 2 => mdF md (0x24 + 8 * l) 0 10
  | _ => mdF md (0x24 + 8 * l) 16 10
def layerL3 (md : List Byte) (l : Nat) : Nat := mdF md (0x20 + 8 * l) 10 4
def layerTun (md : List Byte) (l : Nat) : Nat := mdF md (0x24 + 8 * l) 26 4

def pktBytes (p : Pkt) : List Byte := p.hdr ++ p.body

/-! Grains (R389, R390). The pools are shown in LD_FREE, LD_QUEUED, LD_HDRM_USED and LD_UNADMITTED. -/

def grainsOf (len : Nat) : Nat := max 1 (ceilDiv len 256)

/-- LD_FREE takes a value: its low-water mark, and the crossing of LD_LOW_TH (R430). -/
def setFree (s : State) (n : Nat) : State :=
  let old := rdN s Reg.LD_FREE
  let th := rdF s Reg.LD_LOW_TH 0 21
  let s := wrN s Reg.LD_FREE n
  let s := if n < rdN s Reg.LD_FREE_LWM then wrN s Reg.LD_FREE_LWM n else s
  if th ≠ 0 && (old < th) ≠ (n < th) then raiseLim s 0x740 0 [(4, b2n (n ≥ th)), (4, n)] else s

def regAdd (s : State) (off n : Nat) : State := wrN s off (rdN s off + n)
def regSub (s : State) (off n : Nat) : State := wrN s off (rdN s off - n)

/-- Grains go from free to unadmitted. -/
def takeGrains (s : State) (n : Nat) : State := regAdd (setFree s (rdN s Reg.LD_FREE - n)) Reg.LD_UNADMITTED n

/-- Unadmitted grains return to free. -/
def freeGrains (s : State) (n : Nat) : State := setFree (regSub s Reg.LD_UNADMITTED n) (rdN s Reg.LD_FREE + n)

/-! Entry to flights (R12, R590, R596). -/

def entryGet (s : State) (role fl : Nat) : EntryQ := agetD s.land.entry (role * 2 + fl) {}
def entrySet (s : State) (role fl : Nat) (e : EntryQ) : State :=
  { s with land := { s.land with entry := aset s.land.entry (role * 2 + fl) e } }
def entryUpd (s : State) (role fl : Nat) (f : EntryQ → EntryQ) : State := entrySet s role fl (f (entryGet s role fl))

/-! Transmit completions (R192) and departure entries (R417). -/

def entFind (s : State) (o : Nat × Nat) : Option (Nat × Chan × Ent) :=
  match chanOf s o.1 with
  | some (i, c) => (c.ents.find? (fun e => e.idx == o.2)).map (fun e => (i, c, e))
  | none => none

/-- TS_REQ of an ETH_TX descriptor (R186). -/
def entTsReq (e : Ent) : Bool := (leAt e.desc 0 4).testBit 14

/-- Finishes an ETH_TX entry: LATE, TS_VALID and DROPPED in `flags`, and the capture time. -/
def txFinish (s : State) (o : Nat × Nat) (flags : Nat) (time : Option Nat) : State :=
  match entFind s o with
  | some (i, c, e) => finishEnt s i o.2 { stsCpl i c e STS_OK with flags := flags, len := e.buf.length, time := time }
  | none => s

/-- An ETH_TX frame has passed its ingress retire and admission: without TS_REQ its completion is due, with DROPPED when
it was dropped or consumed there; with TS_REQ a drop is its last copy's drop. -/
def txIngress (s : State) (o : Option (Nat × Nat)) (dropped : Bool) : State :=
  match o with
  | some o =>
    match entFind s o with
    | some (_, _, e) => if !entTsReq e || dropped then txFinish s o (if dropped then 8 else b2n e.late) none else s
    | none => s
  | none => s

/-- A copy was captured by a MAC at a time (R164). -/
def txCapture (s : State) (o : Option (Nat × Nat)) (late : Bool) (time : Nat) : State :=
  match o with
  | some o =>
    match entFind s o with
    | some (_, _, e) => if entTsReq e then txFinish s o (2 + b2n late) (some time) else s
    | none => s
  | none => s

/-- A copy was dropped after admission. -/
def txGone (s : State) (o : Option (Nat × Nat)) (late : Bool) : State :=
  match o with
  | some o =>
    match entFind s o with
    | some (_, _, e) => if entTsReq e then txFinish s o (8 + b2n late) none else s
    | none => s
  | none => s

/-- A packet of the third source joins a role's flight; while the role is unserved it is dropped and its completion
carries DROPPED (R596). -/
def enterOther (s : State) (role fl : Nat) (p : Pkt) : State :=
  if roleServed s role then entryUpd s role fl (fun e => { e with other := e.other ++ [p] })
  else
    let s := if p.depart.isSome then regSub s Reg.FT_DEP_USED 1 else s
    bump (txIngress (freeGrains s p.grains) p.origin true) Reg.MS_NOSPARE_DROP_CNT

/-- A wire frame joins the entry queue of its role; during a takeover the queue holds 32,768 headers. -/
def enterWire (s : State) (role : Nat) (p : Pkt) : State :=
  if !roleServed s role then bump (freeGrains s p.grains) Reg.MS_NOSPARE_DROP_CNT
  else if stairTaking s role && (entryGet s role 0).wire.length ≥ 32768 then bump (freeGrains s p.grains) Reg.MS_ENTRY_DROP_CNT
  else entryUpd s role 0 (fun e => { e with wire := e.wire ++ [p] })

/-- A reference on a region is released (R485); key 0 stands for none. -/
def regionUnref (s : State) (key : Nat) : State :=
  { s with rm := { s.rm with regions := aupd s.rm.regions key (fun r => { r with refs := r.refs - 1 }) } }

/-- A packet that ends gives back the reference that the ingress engine took for it (R484). -/
def releaseRkey (s : State) (p : Pkt) : State :=
  match p.rkey with
  | some k => regionUnref s k
  | none => s

def depRelease (s : State) (p : Pkt) : State := if p.depart.isSome then regSub s Reg.FT_DEP_USED 1 else s

/-- A packet whose grains are unadmitted ends before admission. -/
def endPkt (s : State) (p : Pkt) : State := txIngress (freeGrains (depRelease (releaseRkey s p) p) p.grains) p.origin true

/-- A packet whose grains are unadmitted ends after dispatch. -/
def endSent (s : State) (p : Pkt) : State := txGone (freeGrains (releaseRkey s p) p.grains) p.origin p.late

/-! Nodes (R392, R426). -/

/-- Reset configuration of a node of a type: 0 queue, 1 group, 2 class, 3 root. -/
def nodeReset (ty : Nat) : Node :=
  { cfg := [if ty ≤ 1 then 0x100 else 0, 0, 0xFFFFFFFF, 0, if ty = 0 then 0x8000000 else 0, 0, if ty = 0 then 64 else 0, 0, 0, 0] }

def nodeMap (s : State) (ty : Nat) : AMap Node :=
  match ty with
  | 0 => s.land.queues
  | 1 => s.land.groups
  | 2 => s.land.classes
  | _ => s.land.roots

def nodeGet (s : State) (ty i : Nat) : Node := agetD (nodeMap s ty) i (nodeReset ty)

def nodeSet (s : State) (ty i : Nat) (n : Node) : State :=
  { s with land := match ty with
    | 0 => { s.land with queues := aset s.land.queues i n }
    | 1 => { s.land with groups := aset s.land.groups i n }
    | 2 => { s.land with classes := aset s.land.classes i n }
    | _ => { s.land with roots := aset s.land.roots i n } }

def nodeUpd (s : State) (ty i : Nat) (f : Node → Node) : State := nodeSet s ty i (f (nodeGet s ty i))

/-- A field of a node's configuration word. -/
def nc (n : Node) (w lo k : Nat) : Nat := fld ((n.cfg[w]?).getD 0) lo k

def qGroup (n : Node) : Nat := nc n 0 16 12
def qSlice (n : Node) : Nat := nc n 1 0 14
def gRoot (n : Node) : Nat := nc n 0 16 6
def gClass (n : Node) : Nat := nc n 0 22 3
def queueRoot (s : State) (q : Node) : Nat := gRoot (nodeGet s 1 (qGroup q))
def queueClass (s : State) (q : Node) : Nat := gClass (nodeGet s 1 (qGroup q))

/-- A status count of a queue, kept on the queue and on the group, class and root above it, whose counts take in the queues below
them (R426). -/
def nodeTally (s : State) (q : Nat) (f : Node → Node) : State :=
  let g := qGroup (nodeGet s 0 q)
  let n := nodeGet s 1 g
  nodeUpd (nodeUpd (nodeUpd (nodeUpd s 0 q f) 1 g f) 2 (8 * gRoot n + gClass n) f) 3 (gRoot n) f

/-- A queue counts against its slice's QUEUES quota until it is disabled and holds no packet (R393). -/
def queueCounts (n : Node) : Bool := nc n 0 0 1 == 1 || !n.pkts.isEmpty

/-- Twice the raw rate of a host link in Gb/s, from its rate code and width. -/
def linkRate2 (s : State) (l : Nat) : Nat :=
  let st := rdN s (Reg.HF_LINK_STATUS (l / 4) (l % 4))
  let twice := match fld st 1 3 with
    | 1 => 5 | 2 => 10 | 3 => 16 | 4 => 32 | 5 => 64 | 6 => 128 | 7 => 256 | _ => 0
  twice * fld st 4 5

/-- Twice the nominal rate of a root in Gb/s (R395). -/
def rootRate2 (s : State) (r : Nat) : Nat := if r < 32 then 2 * portRate s r else min (linkRate2 s (r - 32)) 2048

def rootPresent (s : State) (r : Nat) : Bool := if r < 32 then portPresent s r else linkPresent s (r - 32)

/-- The lesser of MAX_GRAINS and the time cap, where a zero takes no part (R394, R395). -/
def queueCap (s : State) (q : Node) : Nat :=
  let a := nc q 5 0 21
  let b := if nc q 6 0 16 = 0 then 0 else nc q 6 0 16 * rootRate2 s (queueRoot s q) * 1000 / 4096
  if a = 0 then b else if b = 0 then a else min a b

/-! Shapers (R412). -/

/-- The shaper's cap in 2^-16 credit. -/
def shCap (burst : Nat) : Int := ((max burst 1) * 65536 : Nat)

/-- The refill of R412 at time t, in 2^-16 ns of elapsed time: in whole nanoseconds it gives the credit of R412, and a node at the
reset RATE regains its credit within one core clock (R413). -/
def shRefill (x : Shaper) (rate burst t : Nat) : Shaper :=
  if rate = 0 then { x with last := t } else
  let num := (t - x.last) * rate + x.rem
  let c := x.credit + ((num / 1000000000 : Nat) : Int)
  if c ≥ shCap burst then { credit := shCap burst, rem := 0, last := t }
  else { credit := c, rem := num % 1000000000, last := t }

def nodeRate (n : Node) : Nat := nc n 2 0 32
def nodeBurst (n : Node) : Nat := nc n 3 0 16

/-- The node with its shaper refilled to the present. -/
def nodeRefill (s : State) (n : Node) : Node := { n with sh := shRefill n.sh (nodeRate n) (nodeBurst n) s.time.elapsed }

/-- RATE is not zero and the credit is at least one (R408). -/
def nodeCredit (s : State) (n : Node) : Bool := nodeRate n ≠ 0 && decide ((nodeRefill s n).sh.credit ≥ 65536)

/-- Charges a node for a packet of n grains. -/
def nodeCharge (s : State) (n : Node) (grains : Nat) : Node :=
  let n := nodeRefill s n
  { n with sh := { n.sh with credit := n.sh.credit - (((if nc n 0 2 1 = 1 then grains else 1) * 65536 : Nat) : Int) } }

/-! Pairs (R401, R402). -/

def pairReg (pair k : Nat) : Nat := 0x2320000 + 0x100 * (pair / 8) + 0x20 * (pair % 8) + k

def pairLossless (s : State) (pair : Nat) : Bool :=
  portFc s (pair / 8) ≠ 0 && (rdN s (Reg.EN_PFC_CTL (pair / 8 / 4) (pair / 8 % 4))).testBit (8 + pair % 8)

/-- XOFF or XON after a change of a pair's use; `hdrm`: a packet was just admitted to headroom. -/
def pairCheck (s : State) (pair : Nat) (hdrm : Bool) : State :=
  let ll := pairLossless s pair
  let s := wrF s (pairReg pair 0x14) 1 1 (b2n ll)
  let use := rdN s (pairReg pair 0xC)
  let xoff := rdF s (pairReg pair 0) 0 21
  let on := rdF s (pairReg pair 0x14) 0 1 == 1
  let assert := ll && (hdrm || (xoff ≠ 0 && use ≥ xoff))
  let release := use ≤ rdF s (pairReg pair 4) 0 21 && rdN s (pairReg pair 0x10) == 0
  let change (s : State) (v : Bool) : State :=
    let s := raiseLim (wrF s (pairReg pair 0x14) 0 1 (b2n v)) 0x744 pair [(4, pair / 8), (4, pair % 8), (4, b2n v)]
    xoffSet s (pair / 8) (pair % 8) v
  if !on && assert then change s true
  else if on && !hdrm && release then change s false
  else s

/-- A register that flow control rests on changed: the pairs of a port are looked at again (R402), and so are the classes that
its pauses hold (R156). -/
def flowRecheck (s : State) (p : Nat) : State :=
  (List.range 8).foldl (fun s i => pairCheck s (8 * p + i) false) (pauseUpdate s p)

/-! Queues. -/

/-- Grains of the granary held by a slice's queues, and its GRANARY limit (R216). -/
def sliceUse (s : State) (sl : Nat) : Nat := agetD s.land.use sl 0
def sliceLimit (s : State) (sl res : Nat) : Nat := ((aget s.slices sl).map (fun x => agetD x.limits res 0)).getD 0

def setUse (s : State) (sl n : Nat) : State := { s with land := { s.land with use := aset s.land.use sl n } }

/-- Takes a packet's grains out of its pool: they become unadmitted (R411); overflow units are released. -/
def poolOut (s : State) (q : Nat) (x : QPkt) : State :=
  let n := x.pkt.grains
  let nd := nodeGet s 0 q
  match x.pool with
  | 2 => regSub (nodeSet s 0 q { nd with ovf := nd.ovf - x.units }) Reg.LD_OVF_USED x.units
  | k =>
    let s := nodeSet s 0 q { nd with use := nd.use - n }
    let s := setUse s (qSlice nd) (sliceUse s (qSlice nd) - n)
    let s := regAdd (regSub s (if k = 0 then Reg.LD_QUEUED else Reg.LD_HDRM_USED) n) Reg.LD_UNADMITTED n
    match x.pair with
    | some p => pairCheck (regSub s (pairReg p (if k = 0 then 0xC else 0x10)) n) p false
    | none => s

/-- Removes the packet with an id from a queue, its grains made unadmitted. -/
def queueTake (s : State) (q id : Nat) : State × Option QPkt :=
  let nd := nodeGet s 0 q
  match nd.pkts.find? (fun x => x.pkt.id == id) with
  | some x =>
    let s := nodeSet s 0 q { nd with pkts := nd.pkts.filter (fun y => y.pkt.id ≠ id) }
    (poolOut s q x, some x)
  | none => (s, none)

/-- Drops a queued packet. A body still being copied to overflow leaves the backlog. -/
def queueDrop (s : State) (q id : Nat) : State :=
  match queueTake s q id with
  | (s, some x) =>
    let s := if x.copying then regSub s Reg.LD_OVF_BACKLOG x.units else s
    endSent (depRelease s x.pkt) x.pkt
  | (s, none) => s

/-- Drops every packet of a queue; answers how many there were. -/
def queueFlush (s : State) (q : Nat) : State × Nat :=
  let ids := (nodeGet s 0 q).pkts.map (fun x => x.pkt.id)
  (ids.foldl (fun s i => queueDrop s q i) s, ids.length)

/-- Whether a handle takes packets through a queue's root (R396): the channel's host link. -/
def targetOk (s : State) (q : Node) (handle : Nat) : Bool :=
  let r := queueRoot s q
  if r < 32 then handle == 0
  else match chanOf s handle with
    | some (_, c) => (c.kind == 3 || c.kind == 4) &&
        ((aget s.slices c.slice).any (fun x => x.link == some (r - 32)))
    | none => false

/-- Refuses a packet with a cause of R399. -/
def refuse (s : State) (p : Pkt) (q c : Nat) : State :=
  let s := bump s (Reg.LD_ADMIT_DROP_CNT c)
  let s := nodeTally s q (fun n => { n with drops := aset n.drops c (agetD n.drops c 0 + 1) })
  let sl := qSlice (nodeGet s 0 q)
  let s := if c = 3 then { s with land := { s.land with refuse := aset s.land.refuse sl ((agetD s.land.refuse sl 0 + 1) % 2 ^ 32) } } else s
  let s := raiseLim s 0x742 0 [(4, c), (4, q)]
  let s := if c = 5 then raiseLim s 0x743 0 [(4, mdSrc p.md), (4, nc (nodeGet s 0 q) 0 3 3)] else s
  let s := match chanOf s (mdHandle p.md) with
    | some (_, ch) => match (aget s.slices ch.slice) with
      | some x => match x.link with
        | some l => if 3 ≤ c && c ≤ 6 && (!fnBme (fnGet s l x.fnum) x.fnum || fnD3 (fnGet s l x.fnum) x.fnum) then bump s (Reg.HF_STALL_DROP_CNT (l / 4) (l % 4)) else s
        | none => s
      | none => s
    | none => s
  endPkt s p

/-- The outermost IP header: the lowest layer whose L3_KIND is 1 or 2 (R400), its kind and offset. -/
def outerIp (md : List Byte) : Option (Nat × Nat) :=
  ((List.range 4).find? (fun l => layerL3 md l == 1 || layerL3 md l == 2)).map (fun l => (layerL3 md l, layerOff md l 1))

/-- ECN of an IP header in a header window, and the window with it set to CE, the IPv4 checksum kept correct. -/
def ecnOf (hdr : List Byte) (kind off : Nat) : Nat :=
  if kind = 1 then fld (beAt hdr (off + 1) 1) 0 2 else fld (beAt hdr (off + 1) 1) 4 2

def ecnMark (hdr : List Byte) (kind off : Nat) : List Byte :=
  if kind = 1 then
    let old := beAt hdr off 2
    let new := putFld old 0 2 3
    let c := beAt hdr (off + 10) 2
    let c' := 0xFFFF - fold16 ((0xFFFF - c) + (0xFFFF - old) + new)
    patch (patch hdr off (be 2 new)) (off + 10) (be 2 c')
  else patch hdr (off + 1) (be 1 (putFld (beAt hdr (off + 1) 1) 4 2 3))

/-- The packet marked CE at admission when the queue's use exceeds ECN_TH and the packet is ECT (R400). -/
def ecnAdmit (s : State) (q : Nat) (p : Pkt) : State × Pkt :=
  let nd := nodeGet s 0 q
  if nc nd 7 0 21 = 0 || nd.use ≤ nc nd 7 0 21 then (s, p) else
  match outerIp p.md with
  | some (k, o) =>
    if ecnOf p.hdr k o = 1 || ecnOf p.hdr k o = 2 then
      (bump (nodeTally s q (fun n => { n with ecn := n.ecn + 1 })) Reg.LD_ECN_MARK_CNT, { p with hdr := ecnMark p.hdr k o })
    else (s, p)
  | none => (s, p)

/-- Packets dispatched to a channel that have not reached it. -/
def dispatched (s : State) (h : Nat) : Nat :=
  (s.stairs.map (fun e => (e.2.egr.climbs.filter (fun c => c.pkt.dst == h)).length)).foldl (· + ·) 0 +
  (s.land.entry.map (fun e => if e.1 % 2 = 1 then (e.2.again.filter (fun k => k.dst == h)).length + (e.2.replay.filter (fun r => r.1.dst == h)).length else 0)).foldl (· + ·) 0 +
  (s.cy.aside.filter (fun a => (a.pkt.map (fun k => k.dst)) == some h)).length + (s.land.stuck.filter (fun k => k.dst == h)).length

/-- A packet admitted for a receive channel whose ready buffers are all spoken for waits for a buffer: NOBUF counts it (R204). -/
def noBuf (s : State) (h : Nat) : State :=
  match chanOf s h with
  | some (i, c) =>
    let queued := (s.land.queues.map (fun e => (e.2.pkts.filter (fun x => mdDisp x.pkt.md == 2 && mdHandle x.pkt.md == h)).length)).foldl (· + ·) 0
    if c.kind = 3 && readyBufs c ≤ dispatched s h + queued then chanSet s i { c with nobuf := c.nobuf + 1 } else s
  | none => s

/-- The controller that takes the next overflow body: the first in rotation that is neither LOST nor ABSENT (R25, R404, R601). -/
def ovfCtrl (s : State) : Option Nat :=
  ((List.range 16).map (fun k => (s.land.rotate + k) % 16)).find? (fun c => gmState s c == 0 || gmState s c == 2)

/-- Admits a packet to a pool of a queue. -/
def admitTo (s : State) (p : Pkt) (q pool stair : Nat) : State :=
  let n := p.grains
  let nd := nodeGet s 0 q
  let pair := if mdSrc p.md < 32 then some (mdSrc p.md * 8 + nc nd 0 3 3) else none
  let s := if pool = 2 then
      regAdd (regAdd (nodeSet s 0 q { nd with ovf := nd.ovf + n }) Reg.LD_OVF_USED n) Reg.LD_OVF_BACKLOG n
    else
      let s := nodeSet s 0 q { nd with use := nd.use + n }
      let s := setUse s (qSlice nd) (sliceUse s (qSlice nd) + n)
      let s := regAdd (regSub s Reg.LD_UNADMITTED n) (if pool = 0 then Reg.LD_QUEUED else Reg.LD_HDRM_USED) n
      match pair with
      | some k => pairCheck (regAdd s (pairReg k (if pool = 0 then 0xC else 0x10)) n) k (pool == 1)
      | none => s
  let s := nodeTally s q (fun n => { n with enq := n.enq + 1 })
  let (s, p) := ecnAdmit s q p
  let x : QPkt := { pkt := p, pool := pool, units := if pool = 2 then n else 0, copying := pool == 2, ctrl := (ovfCtrl s).getD s.land.rotate, stair := stair, pair := if pool = 2 then none else pair }
  let s := if pool = 2 then { s with land := { s.land with rotate := (x.ctrl + 1) % 16 } } else s
  let s := noBuf (txIngress s p.origin false) (if mdDisp p.md = 2 then mdHandle p.md else 0)
  nodeUpd s 0 q (fun n => { n with pkts := n.pkts ++ [x] })

/-- Every queued packet of a port is dropped and counted in EN_TX_DOWN_DROP (R152). -/
def portFlush (s : State) (p : Nat) : State :=
  let qs := (s.land.queues.filter (fun e => queueRoot s e.2 == p && !e.2.pkts.isEmpty)).map (fun e => e.1)
  qs.foldl (fun s q =>
    let r := queueFlush s q
    portCnt r.1 p 14 r.2) s

/-- A port is not UP and DOWN_FLUSH is set (R152). -/
def portDownFlush (s : State) (p : Nat) : Bool := portPresent s p && portState s p ≠ 3 && rbit (portCtl s p) 5

/-- A queue whose port is down with DOWN_FLUSH set keeps no packet (R152). -/
def flushDown (s : State) (q : Nat) : State :=
  let r := queueRoot s (nodeGet s 0 q)
  if r < 32 && portDownFlush s r then portFlush s r else s

/-- The egress flight's logical stair (R10). -/
def egressStair (s : State) (q : Node) (handle : Nat) : Nat :=
  let r := queueRoot s q
  if r < 32 then r / 4 else ((chanOf s handle).map (fun c => c.2.home)).getD 0

/-! The scheduler's choice. -/

/-- A queue's function may receive: Bus Master Enable set and in D0, and for an ETH_RX channel a fetched buffer (R407). -/
def linkReady (s : State) (handle : Nat) : Bool :=
  match chanOf s handle with
  | some (_, c) =>
    (match aget s.slices c.slice with
      | some x => match x.link with
        | some l => fnActive s l x.fnum
        | none => false
      | none => false) &&
    (c.kind == 4 || decide (dispatched s handle < readyBufs c))
  | none => true

/-- The release point of a departure: 182 ns before its 8 ns tick (R418). -/
def releasePoint (d : Nat) : Nat := tick8 d - 182

/-- The head of a queue, when it is ready (R407). -/
def readyHead (s : State) (q : Node) : Option QPkt :=
  match q.pkts with
  | x :: _ =>
    let r := queueRoot s q
    if !x.pkt.unverified && !x.copying && (x.pkt.depart.isNone || x.released) && (r < 32 || linkReady s (mdHandle x.pkt.md)) then some x else none
  | [] => none

/-- The first index of a list of rising indices at or after `k`, wrapping around. -/
def nextFrom (l : List Nat) (k : Nat) : Option Nat := ((l.find? (fun i => k ≤ i)).orElse (fun _ => l.head?))

/-- Enabled queues of a group, rising; a queue is eligible with credit and a ready head that no departure time has. -/
def groupQueues (s : State) (g : Nat) : List Nat :=
  (s.land.queues.filter (fun e => qGroup e.2 == g && nodeCredit s e.2 && (readyHead s e.2).any (fun x => x.pkt.depart.isNone))).map (fun e => e.1)

def classGroups (s : State) (r c : Nat) : List Nat :=
  (s.land.groups.filter (fun e => nc e.2 0 0 1 == 1 && gRoot e.2 == r && gClass e.2 == c && nodeCredit s e.2 && !(groupQueues s e.1).isEmpty)).map (fun e => e.1)

def rootClasses (s : State) (r : Nat) : List Nat :=
  (List.range 8).filter (fun c => nodeCredit s (nodeGet s 2 (8 * r + c)) && !(r < 32 && classPaused s r c) && !(classGroups s r c).isEmpty)

/-- A root is present and up and has room (R408). -/
def rootOpen (s : State) (r : Nat) : Bool :=
  rootPresent s r &&
  (if r < 32 then portServes s r && agetD s.land.begun r 0 < 2
   else linkUp s (r - 32) && agetD s.land.begun r 0 < 2)

/-- The queue of the packet that a root keeps as its choice, while that packet still heads it and is ready (R410). -/
def keptQueue (s : State) (r : Nat) : Option Nat :=
  (aget s.land.kept r).bind (fun k =>
    if rootOpen s r && (readyHead s (nodeGet s 0 k.1)).any (fun x => x.pkt.id == k.2) then some k.1 else none)

/-- The queues of a root whose head has a released departure and that nothing of R418 holds, earliest departure first,
then lower queue. -/
def releasedQueue (s : State) (r : Nat) : Option Nat :=
  let qs := s.land.queues.filter (fun e => queueRoot s e.2 == r &&
    (readyHead s e.2).any (fun x => x.pkt.depart.isSome && x.released) &&
    nodeRate e.2 ≠ 0 && nodeRate (nodeGet s 1 (qGroup e.2)) ≠ 0 &&
    nodeRate (nodeGet s 2 (8 * r + queueClass s e.2)) ≠ 0 && nodeRate (nodeGet s 3 r) ≠ 0 &&
    !(r < 32 && classPaused s r (queueClass s e.2)))
  let key (e : Nat × Node) : Nat := ((e.2.pkts.head?).bind (fun x => x.pkt.depart)).getD 0
  (qs.foldl (fun best e => match best with
    | some b => if key e < key b then some e else best
    | none => some e) none).map (fun e => e.1)

/-- The queue a root chooses (R409, R418): class, group and queue by turns. -/
def chooseQueue (s : State) (r : Nat) : Option Nat :=
  if !rootOpen s r then none else
  match releasedQueue s r with
  | some q => some q
  | none =>
    if !nodeCredit s (nodeGet s 3 r) then none else
    match (rootClasses s r).getLast? with
    | some c =>
      match nextFrom (classGroups s r c) (nodeGet s 2 (8 * r + c)).turn with
      | some g => nextFrom (groupQueues s g) (nodeGet s 1 g).turn
      | none => none
    | none => none

/-- The turn as an eligible set leaves it (R409): a holder that is not eligible loses it to the next eligible node, whose
WEIGHT starts afresh. -/
def turnKeep (elig : List Nat) (parent : Node) : Node :=
  if elig.contains parent.turn then parent else
  match nextFrom elig parent.turn with
  | some k => { parent with turn := k, left := 0 }
  | none => { parent with left := 0 }

/-- The turns above a queue after a change that may end one: eligibility is that of the next core clock's choice. -/
def turnSettle (s : State) (q : Nat) : State :=
  let g := qGroup (nodeGet s 0 q)
  let n := nodeGet s 1 g
  let s := nodeUpd s 1 g (turnKeep (groupQueues (tick s) g))
  nodeUpd s 2 (8 * gRoot n + gClass n) (turnKeep (classGroups (tick s) (gRoot n) (gClass n)))

/-- A dispatch counts in a parent's turn: the child keeps it for WEIGHT dispatches while it stays eligible, then it passes on
(R409). -/
def turnPass (elig : List Nat) (parent : Node) (child weight : Nat) : Node :=
  let left := if parent.turn = child && parent.left > 0 then parent.left else max weight 1
  if left ≤ 1 || !elig.contains child then { parent with turn := (nextFrom elig (child + 1)).getD (child + 1), left := 0 }
  else { parent with turn := child, left := left - 1 }

/-- The admission decision (R394). -/
def admitPkt (s : State) (p : Pkt) : State :=
  let q := mdQueue p.md
  let nd := nodeGet s 0 q
  let sl := qSlice nd
  let h := if mdDisp p.md = 2 then mdHandle p.md else 0
  let n := p.grains
  let alpha := agetD s.land.alpha sl 8
  let shared := 1048576 - rdF s Reg.LD_ARR_RSV 0 21 - rdF s Reg.LD_HDRM_SIZE 0 21
  let free := shared - rdN s Reg.LD_QUEUED
  let tq0 := free * 2 ^ nc nd 4 24 4 / 256
  let cap := queueCap s nd
  let tq := if cap ≠ 0 && tq0 > cap then cap else tq0
  let ts := free * 2 ^ alpha / 256
  let pair := mdSrc p.md * 8 + nc nd 0 3 3
  let lossless := mdSrc p.md < 32 && pairLossless s pair
  let deep := nc nd 0 1 1 == 1
  let hdrmFits := rdN s (pairReg pair 0x10) + n ≤ rdF s (pairReg pair 8) 0 21 && rdN s Reg.LD_HDRM_USED + n ≤ rdF s Reg.LD_HDRM_SIZE 0 21
  let ovfFits := nd.ovf + n ≤ nc nd 8 0 28 && rdN s Reg.LD_OVF_USED + n ≤ rdF s Reg.LD_OVF_SIZE 0 16 * 4096 && rdN s Reg.LD_OVF_BACKLOG + n ≤ 16384 && (ovfCtrl s).isSome
  let st := egressStair s nd h
  if nc nd 0 0 1 = 0 then refuse s p q 1
  else if !targetOk s nd h then refuse s p q 2
  else if sliceUse s sl + n > sliceLimit s sl 0 then refuse s p q 3
  else if nd.use + n ≤ nc nd 4 0 21 || (nd.use + n ≤ tq && sliceUse s sl + n ≤ ts) then turnSettle (flushDown (admitTo s p q 0 st) q) q
  else if lossless && hdrmFits then turnSettle (flushDown (admitTo s p q 1 st) q) q
  else if !lossless && deep && ovfFits then turnSettle (flushDown (admitTo s p q 2 st) q) q
  else refuse s p q (if lossless then 5 else if deep then 6 else if nd.use + n > tq then 4 else 3)

end Sys2Proof.Machine
end

