-- ==== Sys2Proof/Machine/TblOps.lean ====
section
/-! DEFINITION. Machine/TblOps.lean: lookup tables of a stair (chapter 9): configuration, keys, hashing, entry versions,
the lookups of each kind, insertion with moves, and the glean table. -/

namespace Sys2Proof.Machine

def stairGet (s : State) (p : Nat) : Stair := agetD s.stairs p {}
def stairSet (s : State) (p : Nat) (x : Stair) : State := { s with stairs := aset s.stairs p x }
def stairUpd (s : State) (p : Nat) (f : Stair → Stair) : State := stairSet s p (f (stairGet s p))

/-! Flights. -/

def flightGet (s : State) (p fl : Nat) : Flight := if fl = 0 then (stairGet s p).ing else (stairGet s p).egr
def flightUpd (s : State) (p fl : Nat) (f : Flight → Flight) : State :=
  stairUpd s p (fun x => if fl = 0 then { x with ing := f x.ing } else { x with egr := f x.egr })

/-- The number of steps of a flight. -/
def flightLen (fl : Nat) : Nat := if fl = 0 then 20 else 12

/-- The last eight steps of a flight are state steps (R326). -/
def stateStep (fl k : Nat) : Bool := if fl = 0 then 12 ≤ k else 4 ≤ k

/-! Arrays (R335). -/

def arrKind (s : State) (p fl a : Nat) : Nat := rdF s (Reg.STA_ARR_CFG p fl a) 0 2
def arrSnap (s : State) (p fl a : Nat) : Bool := rdF s (Reg.STA_ARR_CFG p fl a) 2 1 == 1

/-- The number of elements of an array, of one bank where it has two. -/
def arrCount (s : State) (p fl a : Nat) : Nat :=
  let n := rdF s (Reg.STA_ARR_CFG p fl a) 16 8 / (if arrSnap s p fl a then 2 else 1)
  match arrKind s p fl a with
  | 0 => 0
  | 3 => n * 8192
  | _ => n * 4096

def elemKey (a bank i : Nat) : Nat := a * 2 ^ 24 + bank * 2 ^ 23 + i
def liveBank (f : Flight) (a : Nat) : Nat := agetD f.liveBank a 0
def elemGet (s : State) (p fl a i : Nat) : Nat :=
  let f := flightGet s p fl
  agetD f.elems (elemKey a (liveBank f a) i) 0

/-- The map with an element stored; an element of zero is not listed. -/
def elemPut (m : AMap Nat) (k v : Nat) : AMap Nat := if v = 0 then adel m k else aset m k v

def elemSet (s : State) (p fl a i v : Nat) : State :=
  flightUpd s p fl (fun f => { f with elems := elemPut f.elems (elemKey a (liveBank f a) i) v })

/-- Source of a stair event. -/
def stairSrc (p idx : Nat) : Nat := 0x500 + 64 * p + idx

/-! Configuration (R306). -/

/-- Field `lo`, width `k`, of word `w` of a table's configuration. -/
def tcf (s : State) (p t w lo k : Nat) : Nat := rdF s (Reg.STA_TBL_CFG p t w) lo k

/-- KIND: 0 NONE, 1 EXACT, 2 DIRECT, 3 TCAM, 4 LPM, 5 DEEP, 6 L2, 7 GLEAN (R269); IDs 62 and 63 are the glean table and
the L2 store (R268). -/
def tblKind (s : State) (p t : Nat) : Nat := if t = 62 then 7 else if t = 63 then 6 else tcf s p t 0 0 3

def tblEsize (s : State) (p t : Nat) : Nat := tcf s p t 0 9 1
def tblStateEn (s : State) (p t : Nat) : Bool := tcf s p t 0 10 1 == 1 && t < 62
def tblChain (s : State) (p t : Nat) : Nat := max 1 (tcf s p t 0 12 3)
/-- Bytes of an EXACT or DEEP entry. -/
def entryBytes (esize : Nat) : Nat := if esize = 0 then 32 else 64

/-- The table that holds a table's entries: an L2 view shares the store, ID 63. -/
def tblStore (s : State) (p t : Nat) : Nat := if tblKind s p t = 6 then 63 else t

def entriesOf (s : State) (p t : Nat) : AMap TEntry := agetD (stairGet s p).tbls t []

/-- The tables whose hits are counted (R617) and whose entries a store holds, with flight and array. -/
def hitArrays (s : State) (p t : Nat) : List (Nat × Nat) :=
  ((List.range 62).filter (fun u => rdF s (Reg.STA_TBL_HITARR p u) 0 1 == 1 && tblStore s p u == t && tblKind s p u ≠ 0 && tblKind s p u ≠ 4)).map
    (fun u => (tcf s p u 0 3 1, rdF s (Reg.STA_TBL_HITARR p u) 1 4))

/-- Hit counters follow the entries of a table from one map of slots to the next (R618): an insert zeroes its slot's
element, a move adds the old slot's element to the new slot's and zeroes the old one, in both banks. -/
def hitFollow (s : State) (p t : Nat) (m0 m1 : AMap TEntry) : State :=
  let arrs := hitArrays s p t
  if arrs.isEmpty then s else
  let new := m1.filter (fun e => match aget m0 e.1 with | some o => o.key ≠ e.2.key | none => true)
  let from' (i : Nat) (e : TEntry) : Option Nat := (m0.find? (fun o => o.1 ≠ i && o.2 == e && (aget m1 o.1).any (fun x => x ≠ e))).map (fun o => o.1)
  let moved (i : Nat) : Bool := (aget m0 i).any (fun o => m1.any (fun e => e.1 ≠ i && e.2 == o))
  arrs.foldl (fun s fa =>
    let els := (flightGet s p fa.1).elems
    let n := arrCount s p fa.1 fa.2
    let val (b i : Nat) (e : TEntry) : Nat := match from' i e with
      | some j =>
        let a := if moved i then 0 else agetD els (elemKey fa.2 b i) 0
        let c := agetD els (elemKey fa.2 b j) 0
        (fld a 0 64 + fld c 0 64) % 2 ^ 64 + (fld a 64 64 + fld c 64 64) % 2 ^ 64 * 2 ^ 64
      | none => 0
    let els' := new.foldl (fun m e =>
      if e.1 < n then elemPut (elemPut m (elemKey fa.2 0 e.1) (val 0 e.1 e.2)) (elemKey fa.2 1 e.1) (val 1 e.1 e.2) else m) els
    flightUpd s p fa.1 (fun f => { f with elems := els' })) s

def setEntries (s : State) (p t : Nat) (m : AMap TEntry) : State :=
  let s := hitFollow s p t (entriesOf s p t) m
  let s := stairUpd s p (fun x => { x with tbls := aset x.tbls t m })
  if t = 63 then wrN s (Reg.STA_L2_USED p) m.length
  else if t = 62 then wrN s (Reg.STA_GLEAN_USED p) m.length else s

/-- The copy of R277 follows what a command did to a table: slot `i`, where it wrote one, is copied as written, an entry that it
moved takes its copy along, and every other copy stays. Glean entries have none. Static entries of the L2 store need none of their
own: only commands change them. -/
def shadowFollow (s : State) (p t : Nat) (m0 m1 : AMap TEntry) (i : Option Nat) : State :=
  if t ≥ 62 then s else
  let sh := agetD (stairGet s p).shadow t []
  let old (j : Nat) (e : TEntry) : Option TEntry :=
    if aget m0 j = some e then aget sh j
    else (m0.find? (fun o => o.2 == e && aget m1 o.1 ≠ some e)).bind (fun o => aget sh o.1)
  let sh' := m1.map (fun x => (x.1, if some x.1 = i then x.2 else (old x.1 x.2).getD x.2))
  stairUpd s p (fun x => { x with shadow := aset x.shadow t sh' })

/-- A command leaves a table with these entries, having written slot `i`. -/
def cmdEntries (s : State) (p t : Nat) (m : AMap TEntry) (i : Option Nat) : State :=
  shadowFollow (setEntries s p t m) p t (entriesOf s p t) m i

/-- The sum of the LENs of a table's selectors. -/
def selSum (s : State) (p t : Nat) : Nat :=
  ((List.range 8).map (fun k => if tcf s p t (4 + k) 0 2 = 0 then 0 else tcf s p t (4 + k) 15 6)).foldl (· + ·) 0

/-- Key length of a table: the sum of its selectors' LENs; fixed for L2 and GLEAN. -/
def keyLen (s : State) (p t : Nat) : Nat :=
  match tblKind s p t with
  | 6 => 8
  | 7 => 40
  | 3 => 20 * tblChain s p t
  | _ => selSum s p t

/-- Buckets of a hashed table (R284). -/
def tblBuckets (s : State) (p t : Nat) : Nat :=
  match tblKind s p t with
  | 1 => (tcf s p t 1 8 8 * 65536 - 4096) / (4 * entryBytes (tblEsize s p t))
  | 5 => tcf s p t 13 0 25
  | 6 => 65536
  | 7 => 16384
  | _ => 0

/-- The number of slots of a table. -/
def tblSlots (s : State) (p t : Nat) : Nat :=
  match tblKind s p t with
  | 2 => tcf s p t 1 8 8 * (if tblEsize s p t = 0 then 4096 else 2048)
  | 3 => 4096
  | 4 => 2097152
  | 0 => 0
  | _ => 4 * tblBuckets s p t + 64

/-- SEED0 and SEED1 (R284). -/
def tblSeeds (s : State) (p t : Nat) : Nat × Nat :=
  match tblKind s p t with
  | 1 | 5 => (rdN s (Reg.STA_TBL_CFG p t 2), rdN s (Reg.STA_TBL_CFG p t 3))
  | _ => (0, 0xFFFFFFFF)

/-- Data bytes of a table's entries (R272). -/
def dataLen (s : State) (p t : Nat) : Nat :=
  match tblKind s p t with
  | 3 => 16
  | 4 => 4
  | 6 => 8
  | 7 => 32
  | _ => if tblEsize s p t = 0 then 8 else 16

/-! Versions (R279). -/

def sheafCur (s : State) : Nat := rdF s Reg.LD_SHEAF_CUR 0 16
def sheafStaged (s : State) : Nat := rdF s Reg.LD_SHEAF_CUR 16 16

/-- u16 subtraction. -/
def sub16 (a b : Nat) : Nat := (a + 0x10000 - b % 0x10000) % 0x10000

def visible (e : TEntry) (sheaf : Nat) : Bool :=
  (e.always || sub16 sheaf e.born < 0x8000) && !(e.retSet && sub16 sheaf e.retired < 0x8000)

/-- The entry carries an uncommitted staged BORN or RETIRED (R282). -/
def uncommitted (e : TEntry) (staged : Nat) : Bool := (!e.always && e.born == staged) || (e.retSet && e.retired == staged)

/-! Keys (R271). -/

/-- The bytes that one selector adds. -/
def selBytes (sel : Nat) (hdr md : List Byte) : List Byte :=
  let len := fld sel 15 6
  let off := fld sel 6 9
  match fld sel 0 2 with
  | 1 =>
    let base := layerOff md (fld sel 2 2) (fld sel 4 2)
    if base = 0x3FF then List.replicate len 0 else slice hdr (base + off) len
  | 2 => slice md off len
  | _ => []

def buildKey (s : State) (p t : Nat) (hdr md : List Byte) : List Byte :=
  let k := (List.range 8).flatMap (fun i => selBytes (rdN s (Reg.STA_TBL_CFG p t (4 + i))) hdr md)
  if tblKind s p t = 3 then fit (20 * tblChain s p t) k else k

/-- The two candidate buckets of a key. -/
def buckets (nb : Nat) (seeds : Nat × Nat) (key : List Byte) : Nat × Nat :=
  (crc32cRaw seeds.1 key * nb / 2 ^ 32, crc32cRaw seeds.2 key * nb / 2 ^ 32)

/-- The slots that a lookup of a key compares: both candidate buckets, then the stash (R286). -/
def bucketSlots (b : Nat) : List Nat := [4 * b, 4 * b + 1, 4 * b + 2, 4 * b + 3]
def candSlots (nb : Nat) (seeds : Nat × Nat) (key : List Byte) : List Nat :=
  let b := buckets nb seeds key
  bucketSlots b.1 ++ (if b.1 = b.2 then [] else bucketSlots b.2)
def stashSlots (nb : Nat) : List Nat := (List.range 64).map (4 * nb + ·)

/-- The first slot of a list that holds a matching entry. -/
def findSlot (m : AMap TEntry) (slots : List Nat) (ok : TEntry → Bool) : Option (Nat × TEntry) :=
  match slots with
  | [] => none
  | i :: is =>
    match aget m i with
    | some e => if ok e then some (i, e) else findSlot m is ok
    | none => findSlot m is ok

/-- A hashed lookup over all of a table's entries. -/
def hashFind (s : State) (p t : Nat) (key : List Byte) (ok : TEntry → Bool) : Option (Nat × TEntry) :=
  let st := tblStore s p t
  let nb := tblBuckets s p t
  findSlot (entriesOf s p st) (candSlots nb (tblSeeds s p t) key ++ stashSlots nb) (fun e => e.key == key && ok e)

/-- The domain of an L2 key lies in bits [13:0], of an LPM key in bits [11:0] (R271). -/
def l2Key (k : List Byte) : List Byte := be 2 (beAt k 0 2 % 2 ^ 14) ++ slice k 2 6

/-- `n` leading bits of two addresses agree. -/
def prefixEq (a b : List Byte) (n : Nat) : Bool :=
  let w := 8 * a.length
  ofBe a / 2 ^ (w - n) == ofBe b / 2 ^ (w - n)

/-- The longest visible prefix of a table and domain that holds an address (R290). -/
def lpmFind (s : State) (t : Nat) (key : List Byte) (sheaf : Nat) : Option (Nat × TEntry) :=
  let dom := beAt key 0 2 % 4096
  s.lpm.foldl (fun best e =>
    if e.2.1 = t && e.2.2.key.length = key.length && beAt e.2.2.key 0 2 = dom &&
        prefixEq (e.2.2.key.drop 2) (key.drop 2) (e.2.2.pri % 256) && visible e.2.2 sheaf then
      match best with
      | some b => if b.2.pri % 256 < e.2.2.pri % 256 then some (e.1, e.2.2) else best
      | none => some (e.1, e.2.2)
    else best) none

/-- (key ^ value) & care is zero in every byte. -/
def ternary : List Byte → List Byte → List Byte → Bool
  | k :: ks, v :: vs, c :: cs => ((k ^^^ v) &&& c) == 0 && ternary ks vs cs
  | _, _, _ => true

/-- The highest PRIORITY among matching visible entries, then the lowest index (R294). -/
def tcamFind (m : AMap TEntry) (key : List Byte) (sheaf : Nat) : Option (Nat × TEntry) :=
  m.foldl (fun best e =>
    if ternary key e.2.key e.2.mask && visible e.2 sheaf then
      match best with
      | some b => if b.2.pri < e.2.pri then some e else best
      | none => some e
    else best) none

/-- A lookup as a packet of a sheaf makes it, over all entries (R286, R289, R290, R294, R297). -/
def tblFind (s : State) (p t : Nat) (key : List Byte) (sheaf : Nat) : Option (Nat × TEntry) :=
  match tblKind s p t with
  | 2 =>
    let i := ofBe key
    if i < tblSlots s p t then
      match aget (entriesOf s p t) i with
      | some e => if visible e sheaf then some (i, e) else none
      | none => none
    else none
  | 3 => tcamFind (entriesOf s p t) key sheaf
  | 4 => lpmFind s t key sheaf
  | 6 => hashFind s p t (l2Key key) (fun _ => true)
  | 7 => hashFind s p t key (fun _ => true)
  | 0 => none
  | _ => hashFind s p t key (fun e => visible e sheaf)

/-! Insertion (R287, R288). -/

def freeIn (m : AMap TEntry) (slots : List Nat) : Option Nat := slots.find? (fun i => (aget m i).isNone)

/-- The bucket other than `b` that a key may use. -/
def otherBucket (nb : Nat) (seeds : Nat × Nat) (key : List Byte) (b : Nat) : Nat :=
  let c := buckets nb seeds key
  if c.1 = b then c.2 else c.1

/-- Breadth-first search for a chain of moves. A path lists slots from the last occupant to the first; the answer is the
free slot and the path. `n` bounds the moves, `seen` the slots visited. -/
def chainSearch (nb : Nat) (seeds : Nat × Nat) (m : AMap TEntry) : Nat → List Nat → List (List Nat) → Option (Nat × List Nat)
  | 0, _, _ => none
  | n + 1, seen, paths =>
    let free (path : List Nat) : Option (Nat × List Nat) :=
      match path with
      | i :: _ =>
        match aget m i with
        | some e => (freeIn m (bucketSlots (otherBucket nb seeds e.key (i / 4)))).map (fun f => (f, path))
        | none => none
      | [] => none
    match paths.findSome? free with
    | some r => some r
    | none =>
      let step (acc : List Nat × List (List Nat)) (path : List Nat) : List Nat × List (List Nat) :=
        match path with
        | i :: _ =>
          match aget m i with
          | some e =>
            let new := (bucketSlots (otherBucket nb seeds e.key (i / 4))).filter (fun j => !acc.1.contains j)
            (acc.1 ++ new, acc.2 ++ new.map (fun j => j :: path))
          | none => acc
        | [] => acc
      let r := paths.foldl step (seen, [])
      chainSearch nb seeds m n r.1 r.2

/-- The moves of a chain, from its far end: the occupant of each slot goes to the one before it. -/
def chainMove (m : AMap TEntry) : Nat → List Nat → AMap TEntry
  | _, [] => m
  | dst, i :: rest =>
    match aget m i with
    | some e => chainMove (adel (aset m dst e) i) i rest
    | none => m

/-- Where an insert of an entry ends: the map, the slot, the moves, and whether it is the stash; none when full. -/
def placeEntry (nb : Nat) (seeds : Nat × Nat) (m : AMap TEntry) (e : TEntry) : Option (AMap TEntry × Nat × Nat × Bool) :=
  let b := buckets nb seeds e.key
  let cand := candSlots nb seeds e.key
  if nb = 0 then none else
  match freeIn m cand with
  | some i => some (aset m i e, i, 0, false)
  | none =>
    match chainSearch nb seeds m 8 cand (cand.map (fun i => [i])) with
    | some (f, path) =>
      let m' := chainMove m f path
      let i := path.getLast?.getD (4 * b.1)
      some (aset m' i e, i, path.length, false)
    | none =>
      match freeIn m (stashSlots nb) with
      | some i => some (aset m i e, i, 0, true)
      | none => none

/-- The metadata word of a packet that is dropped with a reason. -/
def dropMd (md : List Byte) (reason : Nat) : List Byte := mdPut (mdPut md 0x40 0 3 1) 0x40 3 8 reason

/-- An insert or a learn that fails for space (R314). -/
def tblFull (s : State) (p t : Nat) : State := raiseLim s (stairSrc p 8) 0 [(4, t)]

/-! The glean table (R258 to R263). -/

/-- Two park keys are one key: of a DEEP key the stair, the table and h0 count (R302). -/
def sameKey : ParkKey → ParkKey → Bool
  | .deep a t h _, .deep b u g _ => a == b && t == u && h == g
  | x, y => x == y

/-- The key of a glean park. -/
def gleanKeyed : ParkKey → Bool
  | .glean _ _ => true
  | _ => false

/-- Packets parked under a key go back to their flight in arrival order (R261, R302). -/
def unpark (s : State) (stop : Parked → Bool) (role : Nat) : State :=
  let go := s.land.hall.filter stop
  let s := { s with land := { s.land with hall := s.land.hall.filter (fun x => !stop x) } }
  go.foldl (fun s x => entryUpd s role x.flight (fun e => { e with again := e.again ++ [{ x.pkt with single := gleanKeyed x.key, waited := x.pkt.waited ++ [x.key] }] })) s

/-- Elapsed time in microseconds as the 32-bit stamp of BORN. -/
def bornNow (s : State) : Nat := elUs s % 2 ^ 32

/-- A glean entry is written under a key: it replaces one already there, and the packets parked under the key are
released (R259, R261). The answer has its slot, the moves and whether it lies in the stash; none when the table cannot take it. -/
def gleanPut (s : State) (p : Nat) (key data : List Byte) : Option (State × Nat × Nat × Bool) :=
  let e : TEntry := { key := key, data := patch (fit 32 data) 12 (le 4 (bornNow s)) }
  let m := entriesOf s p 62
  let put : Option (AMap TEntry × Nat × Nat × Bool) := match hashFind s p 62 key (fun _ => true) with
    | some (i, _) => some (aset m i e, i, 0, decide (65536 ≤ i))
    | none => placeEntry 16384 (0, 0xFFFFFFFF) m e
  put.map (fun r => (unpark (bump (setEntries s p 62 r.1) (Reg.STA_GLEAN_INS_CNT p)) (fun x => x.key == .glean p key) (unitRole s p), r.2))

def gleanWrite (s : State) (p : Nat) (key data : List Byte) : Option State := (gleanPut s p key data).map (fun r => r.1)

/-! The end of a rehearsal (R348). -/

def sheafUpd (s : State) (f : SheafSt → SheafSt) : State := { s with sheaf := f s.sheaf }
def rhRunning (s : State) : Bool := rdF s Reg.LD_RH_STATUS 0 1 == 1
/-- The stair that is the spare. -/
def spareStair (s : State) : Option Nat := (List.range 9).find? (fun q => unitState s q == 2)

/-- A running rehearsal ends with a reason: its twins are discarded. -/
def rhEnd (s : State) (reason : Nat) : State :=
  if !rhRunning s then s else
  let s := wrF (wrF (wrF s Reg.LD_RH_STATUS 0 1 0) Reg.LD_RH_STATUS 1 3 reason) Reg.LD_RH_CTL 0 1 0
  let s := match spareStair s with
    | some q => wrF (wrF (stairUpd s q (fun x => { x with twinI := [], twinE := [] })) (Reg.STA_RET_STATUS q 0) 0 1 0) (Reg.STA_RET_STATUS q 1) 0 1 0
    | none => s
  let s := sheafUpd s (fun x => { x with live := [], rhCount := [] })
  raise s 0x7F4 [(4, reason), (4, rd64 s Reg.LD_RH_TWIN_CNT_LO), (4, rdN s Reg.LD_RH_DIV_CNT)]

/-- A channel enters ERROR; a rehearsal whose records go to it ends. -/
def ringError (s : State) (i : Nat) (sts : Byte) : State :=
  match chanGet s i with
  | some c =>
    let s := chanError s i sts
    if rdN s Reg.LD_RH_RING = chanHandle i c then rhEnd s 4 else s
  | none => s

end Sys2Proof.Machine
end

