-- ==== Sys2Proof/Machine/Parse.lean ====
section
/-! DEFINITION. Machine/Parse.lean: the parser of a stair (chapter 8): profiles, the parse graph with its bookkeeping and
extracts, the flow hash, and the commands that load the parse state table. -/

namespace Sys2Proof.Machine

/-! The flow hash (R264). -/

/-- Bytes of a window from an offset; bytes at or beyond its end read zero. -/
def wBe (w : List Byte) (o n : Nat) : Nat := beAt w o n

/-- Skips up to `n` VLAN tags: the offset of the EtherType and its value. -/
def skipTags (w : List Byte) : Nat → Nat → Nat × Nat
  | 0, off => (off, wBe w off 2)
  | n + 1, off =>
    let et := wBe w off 2
    if et = 0x8100 || et = 0x88A8 || et = 0x9100 then skipTags w n (off + 4) else (off, et)

/-- The IPv6 walk: next header, offset, and whether a fragment header was met. -/
def walkV6 (w : List Byte) : Nat → Nat → Nat → Nat × Nat × Bool
  | 0, nh, p => (nh, p, false)
  | n + 1, nh, p =>
    if (nh = 0 || nh = 43 || nh = 60 || nh = 44) && p + 8 ≤ w.length then
      if nh = 44 then (wBe w p 1, p, true) else walkV6 w n (wBe w p 1) (p + (wBe w (p + 1) 1 + 1) * 8)
    else (nh, p, false)

/-- The label bytes of a stack of up to `n` MPLS labels. -/
def mplsKey (w : List Byte) : Nat → Nat → List Byte
  | 0, _ => []
  | n + 1, off =>
    if off + 4 ≤ w.length then
      slice w off 3 ++ (if wBe w (off + 2) 1 % 2 = 1 then [] else mplsKey w n (off + 4))
    else []

/-- The key of the flow hash, from the first min(PKT_LEN, 256) bytes. -/
def flowKey (w : List Byte) : List Byte :=
  let t := skipTags w 4 12
  let et := t.2
  let off := t.1 + 2
  let ports (frag : Bool) (l4 p : Nat) : List Byte :=
    if !frag && (l4 = 6 || l4 = 17) && p + 4 ≤ w.length then slice w p 4 else []
  if et = 0x0800 && off + 20 ≤ w.length && wBe w off 1 / 16 = 4 && wBe w off 1 % 16 ≥ 5 then
    let l4 := wBe w (off + 9) 1
    slice w (off + 12) 8 ++ slice w (off + 9) 1 ++ ports (wBe w (off + 6) 2 % 0x4000 ≠ 0) l4 (off + wBe w off 1 % 16 * 4)
  else if et = 0x86DD && off + 40 ≤ w.length then
    let r := walkV6 w 4 (wBe w (off + 6) 1) (off + 40)
    slice w (off + 8) 32 ++ be 1 r.1 ++ ports r.2.2 r.1 r.2.1
  else if et = 0x8847 || et = 0x8848 then mplsKey w 8 off
  else slice w 0 12 ++ be 2 et

def flowHash (bytes : List Byte) : Nat := crc32c (flowKey (bytes.take 256))

/-! Profiles (R242, R266). -/

/-- The profile of a source, and the stair whose block holds it: profiles 0 to 3 lie in the block of the role, 4 to 6 in
the stair's own. -/
def profOf (p role src : Nat) : Nat × Nat := if src < 32 then (role, src % 4) else (p, min 6 (src - 28))

def profDepth (s : State) (blk prof : Nat) : Nat :=
  let d := rdF s (Reg.STA_PROF_CTL blk prof) 0 10
  if d = 0 then 256 else if d < 64 then 64 else min d 512

/-! The walk (R245 to R253). -/

/-- The state of a parse: the metadata word so far, the cursor, the layer, and what the fragment test found. -/
structure ParseSt where
  md    : List Byte
  cur   : Nat := 0
  newLayer : Bool := false
  frag  : Nat := 0
  gkey  : Option (List Byte) := none
  /-- 0 OK, 1 TRUNCATED, 2 DEPTH_EXCEEDED, 3 BAD_IPV4_CSUM. -/
  status : Nat := 0
  part  : Bool := false
deriving DecidableEq, Repr

/-- A field of a parse state table entry. -/
def pe (e off lo w : Nat) : Nat := fld e (8 * off + lo) w

/-- The first valid entry that matches a state and a lookahead (R245). -/
def parseMatch (tbl : AMap Nat) (bank state la : Nat) : Option Nat :=
  (tbl.find? (fun r => r.1 / 256 == bank && pe r.2 0 16 1 == 1 &&
    ((state ^^^ pe r.2 0 0 8) &&& pe r.2 0 8 8) == 0 && ((la ^^^ pe r.2 4 0 32) &&& pe r.2 8 0 32) == 0)).map (fun r => r.2)

/-- The length that an entry gives its header. -/
def hdrLen (e : Nat) (vis : List Byte) (cur : Nat) : Nat :=
  if pe e 0xC 5 2 = 0 then pe e 0xC 7 9
  else fld (wBe vis (cur + pe e 0xC 16 6) 1 >>> pe e 0xC 22 3) 0 (pe e 0xC 25 3 + 1) * 2 ^ pe e 0xC 28 3 + pe e 0xC 7 9

def mdLayers (md : List Byte) : Nat := mdF md 0x10 30 2

/-- A layer field is still unset: the first header of its role records (R247). -/
def layerPut (md : List Byte) (l off lo : Nat) (val kindLo kind : Nat) : List Byte :=
  if mdF md (0x20 + 8 * l + off) lo 10 ≠ 0x3FF then md
  else mdPut (mdPut md (0x20 + 8 * l + off) lo 10 val) (0x20 + 8 * l + off) kindLo 4 kind

/-- The fragment test of a header (R258): FRAG and the key. -/
def fragTest (vis : List Byte) (md : List Byte) (kind cur l : Nat) : Nat × Option (List Byte) :=
  if kind = 4 then
    let f := wBe vis (cur + 6) 2
    if f % 0x4000 = 0 then (0, none) else
    (if f % 0x2000 = 0 then 1 else 2,
     some (pack 8 [(0, 0, 2, 1), (0, 8, 8, wBe vis (cur + 9) 1), (4, 0, 32, wBe vis (cur + 4) 2)] ++
       fit 16 (slice vis (cur + 12) 4) ++ fit 16 (slice vis (cur + 16) 4)))
  else
    let o := layerOff md l 1
    (if wBe vis (cur + 2) 2 / 8 = 0 then 1 else 2,
     if layerL3 md l ≠ 2 then none else
     some (pack 8 [(0, 0, 2, 2), (0, 8, 8, wBe vis cur 1), (4, 0, 32, wBe vis (cur + 4) 4)] ++
       slice vis (o + 8) 16 ++ slice vis (o + 24) 16))

/-- The IPv4 header at the cursor verifies (R253). -/
def v4Ok (vis : List Byte) (cur : Nat) : Bool :=
  let ihl := wBe vis cur 1 % 16
  wBe vis cur 1 / 16 == 4 && 5 ≤ ihl && fold16 (sum16 (slice vis cur (ihl * 4))) == 0xFFFF

/-- The bookkeeping of one header (R247, R251, R253): none when it fails, with the status. -/
def bookKeep (e : Nat) (vis : List Byte) (x : ParseSt) : Nat ⊕ ParseSt :=
  let kind := pe e 0xC 0 5
  let l0 := mdLayers x.md
  if (kind = 2 && mdF x.md 0x14 0 3 ≥ 4) || (kind = 3 && mdF x.md 0x14 3 4 ≥ 8) || (x.newLayer && l0 ≥ 3) then .inl 2
  else if pe e 0x10 17 1 = 1 && !v4Ok vis x.cur then .inl 3
  else
    let md := if x.newLayer then
        let m := if (kind = 4 || kind = 5) && layerTun x.md l0 = 0 then
            mdPut (mdPut x.md (0x24 + 8 * l0) 16 10 x.cur) (0x24 + 8 * l0) 26 4 4
          else x.md
        mdPut m 0x10 30 2 (l0 + 1)
      else x.md
    let l := mdLayers md
    let md := match kind with
      | 1 => layerPut md l 0 0 x.cur 10 (layerL3 md l)
      | 2 => mdPut md 0x14 0 3 (mdF md 0x14 0 3 + 1)
      | 3 => mdPut md 0x14 3 4 (mdF md 0x14 3 4 + 1)
      | 4 => if layerL3 md l ≠ 0 then md else mdPut (mdPut md (0x20 + 8 * l) 16 10 x.cur) (0x20 + 8 * l) 10 4 1
      | 5 => if layerL3 md l ≠ 0 then md else mdPut (mdPut md (0x20 + 8 * l) 16 10 x.cur) (0x20 + 8 * l) 10 4 2
      | 8 => if layerL3 md l ≠ 0 then md else mdPut (mdPut md (0x20 + 8 * l) 16 10 x.cur) (0x20 + 8 * l) 10 4 3
      | 9 => if mdF md (0x20 + 8 * l) 26 4 ≠ 0 then md else mdPut (mdPut md (0x24 + 8 * l) 0 10 x.cur) (0x20 + 8 * l) 26 4 1
      | 10 => if mdF md (0x20 + 8 * l) 26 4 ≠ 0 then md else mdPut (mdPut md (0x24 + 8 * l) 0 10 x.cur) (0x20 + 8 * l) 26 4 2
      | 11 => if mdF md (0x20 + 8 * l) 26 4 ≠ 0 then md else mdPut (mdPut md (0x24 + 8 * l) 0 10 x.cur) (0x20 + 8 * l) 26 4 3
      | 12 => layerPut md l 4 16 x.cur 26 1
      | 13 => layerPut md l 4 16 x.cur 26 2
      | 14 => layerPut md l 4 16 x.cur 26 3
      | 15 => layerPut md l 4 16 x.cur 26 5
      | _ => md
    let f := if x.frag = 0 && (kind = 4 || kind = 7) then fragTest vis md kind x.cur l else (x.frag, x.gkey)
    .inr { x with md := md, frag := f.1, gkey := f.2 }

/-- The extracts of an entry (R248). -/
def extracts (e : Nat) (vis : List Byte) (cur : Nat) (md : List Byte) : List Byte :=
  (List.range 4).foldl (fun md k =>
    let len := fld e (160 + 24 * k + 8) 5
    if len = 0 then md else patch md (fld e (160 + 24 * k + 13) 7) (slice vis (cur + fld e (160 + 24 * k) 8) len)) md

/-- The walk of R245 from a state and a lookahead offset; `n` is the number of transitions left. -/
def parseWalk (tbl : AMap Nat) (bank pktLen depth : Nat) (vis : List Byte) : Nat → Nat → Nat → ParseSt → ParseSt
  | 0, state, _, x => if state = 0 then x else { x with status := 2 }
  | n + 1, state, laOff, x =>
    if state = 0 then x else
    match parseMatch tbl bank state (wBe vis (x.cur + laOff) 4) with
    | none => { x with part := true }
    | some e =>
      let len := hdrLen e vis x.cur
      if x.cur + len > pktLen then { x with status := 1 }
      else if x.cur + len > depth then { x with status := 2 }
      else match bookKeep e vis x with
        | .inl st => { x with status := st }
        | .inr y =>
          let y := { y with md := extracts e vis x.cur y.md, cur := x.cur + len, newLayer := pe e 0x10 16 1 == 1 }
          if x.frag = 0 && y.frag = 2 then y
          else parseWalk tbl bank pktLen depth vis n (pe e 0x10 0 8) (pe e 0x10 8 7) y

/-- The metadata word with every offset absent (R244). -/
def mdAbsent (md : List Byte) : List Byte := patch md 0x20 ((List.replicate 8 (le 4 0x03FF03FF)).flatten)

/-- Parses a packet in a physical stair that serves a role: the packet with its window split off, its metadata word as
first produced and its glean key, and whether it took two slots. -/
def parsePkt (s : State) (p role : Nat) (k : Pkt) : Pkt × Bool :=
  let bytes := k.hdr ++ k.body
  let len := bytes.length
  let blk := profOf p role (mdSrc k.md)
  let ctl := Reg.STA_PROF_CTL blk.1 blk.2
  let depth := profDepth s blk.1 blk.2
  let two := decide (depth > 256) && decide (len > 256)
  let vis := bytes.take (min len depth)
  let hash := flowHash bytes
  let md := mdAbsent (fit 128 (k.md.take 0x10))
  let md := mdPut (mdPut md 8 16 16 (sheafCur s)) 0x10 0 14 len
  let md := if mdSrc md < 32 then md else mdPut (patch md 0 (le 8 (nowNs s))) 8 0 16 (s.time.now % 65536)
  let md := mdPut (mdPut (mdPut md 0x10 14 2 (if two then 2 else 1)) 0x18 0 32 hash) 0x1C 0 32 hash
  let md := patch md 0x54 (slice k.md 0x54 12)
  let bank := rdF s (Reg.STA_PARSE_BANK p) 0 1
  let r := parseWalk (stairGet s p).parse bank len depth vis 32 (rdF s ctl 10 8) (rdF s ctl 18 7) { md := md }
  let md := mdPut (mdPut (mdPut (mdPut r.md 0x10 16 3 r.status) 0x10 19 1 (b2n r.part)) 0x10 20 10 r.cur) 0x14 7 2 r.frag
  let win := min len (if two then 512 else 256)
  ({ k with hdr := bytes.take win, body := bytes.drop win, md := md, hdr0 := bytes.take win, md0 := md, gkey := r.gkey }, two)

/-! Programming the table (R249). -/

/-- The lowest cause for which an entry is refused; none when it is accepted. -/
def parseRefused (e : Nat) : Option Nat :=
  let bad (k : Nat) : Bool :=
    let len := fld e (160 + 24 * k + 8) 5
    let dst := fld e (160 + 24 * k + 13) 7
    len ≠ 0 && (dst < 0x60 || dst + len > 0x80)
  if pe e 0xC 5 2 ≥ 2 || pe e 0xC 0 5 ≥ 16 then some 1
  else if (List.range 4).any bad then some 2
  else if pe e 0x10 17 1 = 1 && pe e 0xC 0 5 ≠ 4 then some 3
  else none

/-- The physical stair that the command registers of a stair reach: its own while it serves or is spare, else the one
that stands in for its role (R307). -/
def cmdTarget (s : State) (st : Nat) : Nat :=
  if unitState s st = 1 || unitState s st = 2 then st else (stairOf s (unitRole s st)).getD st

def parseErr (s : State) (st cause : Nat) : State := wrF (wrF s (Reg.STA_PARSE_CMD st) 15 1 1) (Reg.STA_PARSE_CMD st) 16 3 cause

/-- An entry is written to the idle bank of each stair of a list. -/
def parsePut (s : State) (stairs : List Nat) (i e : Nat) : State :=
  stairs.foldl (fun s q =>
    let idle := 1 - rdF s (Reg.STA_PARSE_BANK q) 0 1
    stairUpd s q (fun x => { x with parse := aset x.parse (idle * 256 + i) e })) s

/-- The lowest cause that refuses a write of an entry to some stairs (R249, R691); `read`: READ is set as well. -/
def parseCause (s : State) (stairs : List Nat) (e : Nat) (read : Bool) : Option Nat :=
  (parseRefused e).orElse (fun _ =>
    if stairs.any (fun q => rdF s (Reg.STA_PARSE_BANK q) 1 1 == 1) then some 4 else if read then some 6 else none)

/-- A write of STA_PARSE_CMD that passed the gate. Commands take no time, so BUSY is never seen set (log entry 5). -/
def parseCmdWrite (s : State) (st : Nat) (v : W32) : State :=
  let s := if rbit v 15 then wrF s (Reg.STA_PARSE_CMD st) 15 1 0 else s
  let s := plainWrite s (Reg.STA_PARSE_CMD st) 0x3FF v
  let p := cmdTarget s st
  let i := rfld v 0 8
  if rbit v 13 then
    let e := ofLe ((List.range 8).flatMap (fun w => le 4 (rdN s (Reg.STA_PARSE_DATA st w))))
    let stairs := if rbit v 9 then List.range 9 else [p]
    match parseCause s stairs e (rbit v 12) with
    | some c => parseErr s st c
    | none =>
      let s := if rbit v 9 then { s with golden := { s.golden with parse := aset s.golden.parse ((1 - rdF s (Reg.STA_PARSE_BANK p) 0 1) * 256 + i) e } } else s
      parsePut s stairs i e
  else if rbit v 12 then
    let e := agetD (stairGet s p).parse (rfld v 8 1 * 256 + i) 0
    (List.range 8).foldl (fun s w => wrN s (Reg.STA_PARSE_DATA st w) (fld e (32 * w) 32)) s
  else s

/-- PARSE_WRITE (R249): a write of STA_PARSE_CMD with WRITE set. -/
def execParseWrite (req : Requester) (be st : Nat) (v : W32) (s : State) : Host.Outcome State Fault Refusal :=
  .next (if st < 9 && rbit v 13 then gate s req be (Reg.STA_PARSE_CMD st) false (fun s => parseCmdWrite s st v) else s)

/-- PARSE_READ (R249): a write of STA_PARSE_CMD with READ set and WRITE clear. -/
def execParseRead (req : Requester) (be st : Nat) (v : W32) (s : State) : Host.Outcome State Fault Refusal :=
  .next (if st < 9 && rbit v 12 && !rbit v 13 then gate s req be (Reg.STA_PARSE_CMD st) false (fun s => parseCmdWrite s st v) else s)

end Sys2Proof.Machine
end

