-- ==== Sys2Proof/Machine/Micro.lean ====
section
/-! DEFINITION. Machine/Micro.lean: state arrays with their pending intents (chapter 10), the lookups of a step (chapter 9),
its action (chapter 11), and the loading of the control stores. -/

namespace Sys2Proof.Machine

/-! Meters (R412, R414, R415). -/

def mtrCap (s : State) (p fl k : Nat) : Int := shCap (rdF s (Reg.STA_MTR_BURST p fl k) 0 16)

/-- The element with its fields: credit, LAST in units of 16 ns, profile, remainder. -/
def mtrPack (credit : Int) (last prof rem : Nat) : Nat :=
  putFld (putFld (putFld (putFld 0 0 40 (unsign 40 credit)) 40 39 last) 79 8 prof) 87 30 rem

/-- A meter element refilled at an elapsed time in ns. -/
def mtrRefill (s : State) (p fl v t : Nat) : Nat :=
  let prof := fld v 79 8
  let rate := rdN s (Reg.STA_MTR_RATE p fl prof)
  let credit := signed 40 (fld v 0 40)
  let last := fld v 40 39
  let t16 := t / 16 % 2 ^ 39
  if rate = 0 then mtrPack credit t16 prof (fld v 87 30)
  else if last = 0 then mtrPack (mtrCap s p fl prof) t16 prof 0
  else
    let num := (t16 + 2 ^ 39 - last) % 2 ^ 39 * 16 * rate * 65536 + fld v 87 30
    let c := credit + ((num / 1000000000 : Nat) : Int)
    if c ≥ mtrCap s p fl prof then mtrPack (mtrCap s p fl prof) t16 prof 0
    else mtrPack c t16 prof (num % 1000000000)

/-- The colour of a refilled element: green while the credit is at least one. -/
def mtrGreen (v : Nat) : Bool := decide (signed 40 (fld v 0 40) ≥ 65536)

/-- A green element charged for a packet. -/
def mtrCharge (s : State) (p fl v len : Nat) : Nat :=
  let prof := fld v 79 8
  let n := if rdF s (Reg.STA_MTR_BURST p fl prof) 16 1 = 1 then ceilDiv len 256 else 1
  mtrPack (signed 40 (fld v 0 40) - ((n * 65536 : Nat) : Int)) (fld v 40 39) prof (fld v 87 30)

/-! Intents (R328, R335). Kinds 8 to 10 are what markers do: set an element, refill a meter, clear an array. -/

/-- A REG operation: the new value. -/
def regOp (op old opnd cmp : Nat) : Nat :=
  match op with
  | 0 => opnd
  | 1 => (old + opnd) % 2 ^ 64
  | 2 => max old opnd
  | 3 => min old opnd
  | 4 => old ||| opnd
  | 5 => old &&& (0xFFFFFFFFFFFFFFFF ^^^ opnd)
  | 6 => if old = cmp then opnd else old
  | _ => old

/-- An element after an intent. -/
def applyElem (s : State) (p fl v : Nat) (x : Intent) : Nat :=
  match x.kind with
  | 1 => (fld v 0 64 + 1) % 2 ^ 64 + (fld v 64 64 + x.opnd) % 2 ^ 64 * 2 ^ 64
  | 2 => if x.op = 1 then x.opnd else v
  | 3 => regOp x.op v x.opnd x.cmp
  | 8 => x.opnd
  | 9 => mtrRefill s p fl v x.opnd
  | 10 => 0
  | _ => v

/-- An intent acts on an element of an array. -/
def onElem (x : Intent) (a i : Nat) : Bool :=
  x.array == a && ((x.kind == 10) || (x.idx == i && x.kind ≠ 4 && x.kind ≠ 5))

/-- Data of an entry after a FLOW intent: bytes beyond the entry's data are not written. -/
def applyFlow (d : List Byte) (x : Intent) : List Byte := patch d x.pos x.bytes

/-- What a read sees: the intents pending in the flight before the reader, by sequence, then its own. -/
structure View where
  earlier : List (Nat × List Intent) := []
  own     : List Intent := []
  /-- Keys under which packets before the reader are marked for parking (R303). -/
  marks   : List ParkKey := []
deriving DecidableEq, Repr

/-- An element as a reader sees it, with the sequences of the packets whose pending intents it took (R329). -/
def elemView (s : State) (p fl a i : Nat) (w : View) : Nat × List Nat :=
  let r := w.earlier.foldl (fun (acc : Nat × List Nat) e =>
    let xs := e.2.filter (fun x => onElem x a i)
    if xs.isEmpty then acc else (xs.foldl (applyElem s p fl) acc.1, acc.2 ++ [e.1])) (elemGet s p fl a i, [])
  ((w.own.filter (fun x => onElem x a i)).foldl (applyElem s p fl) r.1, r.2)

/-- Data of an entry of a table with STATE_EN as a reader sees it. -/
def flowView (t i : Nat) (d : List Byte) (w : View) : List Byte × List Nat :=
  let on (x : Intent) : Bool := x.kind == 4 && x.array == t && x.idx == i
  let r := w.earlier.foldl (fun (acc : List Byte × List Nat) e =>
    let xs := e.2.filter on
    if xs.isEmpty then acc else (xs.foldl applyFlow acc.1, acc.2 ++ [e.1])) (d, [])
  ((w.own.filter on).foldl applyFlow r.1, r.2)

/-! Lookups of a step (R272). -/

/-- The tables bound to a step, in ascending order. -/
def boundTables (s : State) (p fl k : Nat) : List Nat :=
  (List.range 62).filter (fun t => tblKind s p t ≠ 0 && tcf s p t 0 3 1 == fl && tcf s p t 0 4 5 == k)

/-- A lookup in a DEEP table: a hit or a miss, or none when a candidate bucket is absent (R302). -/
def deepLook (s : State) (p t : Nat) (key : List Byte) (sheaf : Nat) : Option (Option (Nat × TEntry)) :=
  let nb := tblBuckets s p t
  let m := entriesOf s p t
  let has (b : Nat) : Bool := (stairGet s p).lines.any (fun l => l.table == t && l.bucket == b && l.valid)
  let b := buckets nb (tblSeeds s p t) key
  let slots := (if has b.1 then bucketSlots b.1 else []) ++ (if b.1 ≠ b.2 && has b.2 then bucketSlots b.2 else []) ++ stashSlots nb
  match findSlot m slots (fun e => e.key == key && visible e sheaf) with
  | some r => some (some r)
  | none => if has b.1 && has b.2 then some none else none

/-- A packet that has not waited for a DEEP key itself parks behind those that hold it: marked before it in the flight, parked, or
released and not yet back in the flight (R303). -/
def behindKey (s : State) (p : Nat) (k : Pkt) (w : View) (key : ParkKey) : Bool :=
  !k.waited.any (sameKey key) &&
    (w.marks.any (sameKey key) || s.land.hall.any (fun x => sameKey key x.key) ||
      (entryGet s (unitRole s p) 0).again.any (fun x => x.waited.any (sameKey key)))

/-- The result of one table's lookup for a packet. `q` is the stair whose copies of unreplicated tables are read. -/
structure LookRes where
  slot : Slot
  park : Option ParkKey := none
  deps : List Nat := []
  pin  : Option (Nat × Nat) := none
  /-- DEEP: the candidate buckets that the finished lookup read. -/
  reads : List (Nat × Nat) := []
deriving DecidableEq, Repr

def lookSlot (s : State) (p q t : Nat) (k : Pkt) (w : View) : LookRes :=
  let key := buildKey s p t k.hdr k.md
  let sheaf := mdSheaf k.md
  let st := if tblKind s p t = 6 || tblStateEn s p t then q else p
  let ofHit (r : Option (Nat × TEntry)) : LookRes :=
    match r with
    | none => { slot := { table := t } }
    | some (i, e) =>
      let d := fit (dataLen s p t) e.data
      let v := if tblStateEn s p t then flowView t i d w else (d, [])
      { slot := { table := t, hit := true, idx := i, action := if tblKind s p t = 6 then 0 else e.action, data := v.1 }, deps := v.2 }
  if tblKind s p t = 5 then
    let sd := tblSeeds s p t
    let wait : ParkKey := .deep st t (crc32cRaw sd.1 key) (crc32cRaw sd.2 key)
    match (if behindKey s p k w wait then none else deepLook s st t key sheaf) with
    | some r =>
      let o := ofHit r
      { o with pin := match r with
        | some (i, _) => if i < 4 * tblBuckets s st t then some (t, i / 4) else none
        | none => none,
               reads := let b := buckets (tblBuckets s st t) sd key; [(t, b.1), (t, b.2)] }
    | none => { slot := { table := t }, park := some wait }
  else ofHit (tblFind s st t key sheaf)

/-- The copy of a hit's data into the metadata word. -/
def resCopy (s : State) (p : Nat) (md : List Byte) (x : Slot) : List Byte :=
  let len := tcf s p x.table 0 23 5
  if x.hit && len ≠ 0 then patch md (tcf s p x.table 0 16 7) (fit len x.data) else md

/-! Actions (R356 to R368). -/

/-- The key of a word of a control store: microwords from 0, nanowords from 2,048, STA_STEP_CTL at 2,560. -/
def ucKey (fl k bank addr : Nat) : Nat := ((fl * 32 + k) * 2 + bank) * 4096 + addr
def ucGet (x : Stair) (fl k bank addr : Nat) : Nat := agetD x.uc (ucKey fl k bank addr) 0

/-- The state of an action. -/
structure Act where
  md   : List Byte
  hdr  : List Byte
  z    : Bool := false
  c    : Bool := false
  red  : Bool := false
  path : Nat := 0
  /-- Intents issued by this step, in order, and how many this packet had before. -/
  ints : List Intent := []
  had  : Nat := 0
  ovf  : Bool := false
  ovfs : Nat := 0
  idxErr : Nat := 0
  deps : List Nat := []
  byp  : Nat := 0
  csum : List Nat := []
  hdrOvf : Bool := false
  draws : Nat := 0
deriving DecidableEq, Repr

/-- What an action reads besides its own state. -/
structure ActEnv where
  p     : Nat
  q     : Nat
  fl    : Nat
  k     : Nat
  len0  : Nat := 0
  entryEl : Nat
  view  : View
  slotA : Option Slot := none
  slotB : Option Slot := none
deriving DecidableEq, Repr

def bytesVal (big : Bool) (bs : List Byte) : Nat := if big then ofBe bs else ofLe bs
def valBytes (big : Bool) (n v : Nat) : List Byte := if big then be n v else le n v

/-- Writes to metadata bytes 0x00 to 0x1B are dropped; what runs past 0x7F is not written (R360). -/
def mdWrite (md : List Byte) (off : Nat) (bs : List Byte) : List Byte := md.take 0x1C ++ (patch md off bs).drop 0x1C

/-- Header bytes at an offset from a base; an absent base reads zero (R360). -/
def hdrRead (hdr : List Byte) (base off n : Nat) : List Byte := if base = 0x3FF then List.replicate n 0 else slice hdr (base + off) n
def hdrWrite (hdr : List Byte) (base off : Nat) (bs : List Byte) : List Byte := if base = 0x3FF then hdr else patch hdr (base + off) bs

def slotData (x : Option Slot) : List Byte :=
  match x with
  | some y => if y.hit then y.data else []
  | none => []

/-- Operand A of a lane: its bytes as they lie, and its value. -/
def laneA (d opa : Nat) (md hdr : List Byte) : List Byte × Nat :=
  let w := 2 ^ fld d 5 2
  let off := if fld d 7 1 = 1 then opa else fld d 14 7
  if fld d 8 1 = 1 then
    let bs := hdrRead hdr (layerOff md (fld d 10 2) (fld d 12 2)) off w
    (bs, ofBe bs)
  else
    let bs := slice md off w
    (bs, bytesVal (fld d 39 1 = 1) bs)

/-- Operand B of a lane at n bytes. -/
def laneB (d imm n : Nat) (md : List Byte) (a b : Option Slot) : Nat :=
  let off := fld d 23 7
  match fld d 21 2 with
  | 0 => bytesVal (fld d 39 1 = 1) (slice md off n)
  | 1 => imm % 2 ^ (8 * n)
  | 2 => fld d 52 12 % 2 ^ (8 * n)
  | _ => bytesVal (fld d 39 1 = 1) (slice (slotData (if off < 64 then a else b)) (off % 16) n)

/-- The result of a lane operation at `w` bits, and its C (none: unchanged). -/
def laneOp (op w a b pos flen : Nat) (c : Bool) (raw : List Byte) (b32 : Nat) : Nat × Option Bool :=
  let m := 2 ^ w
  let n := if flen = 0 then w else flen
  match op with
  | 1 => (a, some false)
  | 2 => (b, some false)
  | 3 => ((a + b) % m, some (decide (a + b ≥ m)))
  | 4 => ((a + m - b) % m, some (decide (a < b)))
  | 5 => (a &&& b, some false)
  | 6 => (a ||| b, some false)
  | 7 => (a ^^^ b, some false)
  | 8 => (a * 2 ^ (b % 64) % m, some false)
  | 9 => (a / 2 ^ (b % 64), some false)
  | 10 => (min a b, some (decide (a < b)))
  | 11 => (max a b, some (decide (a < b)))
  | 12 => ((a + m - b) % m, some (decide (a < b)))
  | 13 => (a / 2 ^ pos % 2 ^ n, some false)
  | 14 => (putFld a pos n b % m, some false)
  | 15 => (if c then b else a, none)
  | 16 => (crc32cRaw b32 raw % m, some false)
  | _ => (0, none)

/-- One lane of a nanoword: reads from the state at the start of the cycle, writes into the state of the cycle. -/
def runLane (e : ActEnv) (nano imm opa : Nat) (x0 : Act) (x : Act) (l : Nat) : Act :=
  let d := fld nano (64 * l) 64
  let op := fld d 0 5
  if op = 0 || op > 16 then x else
  let n := 2 ^ fld d 5 2
  let a := laneA d opa x0.md x0.hdr
  let r := laneOp op (8 * n) a.2 (laneB d imm n x0.md e.slotA e.slotB) (fld d 40 6) (fld d 46 6) x0.c a.1
    (laneB d imm 4 x0.md e.slotA e.slotB)
  let x := if fld d 37 1 = 1 && op ≠ 12 then
      if fld d 9 1 = 1 then { x with hdr := hdrWrite x.hdr (layerOff x0.md (fld d 10 2) (fld d 12 2)) (fld d 30 7) (be n r.1) }
      else { x with md := mdWrite x.md (fld d 30 7) (valBytes (fld d 39 1 = 1) n r.1) }
    else x
  if fld d 38 1 = 1 then { x with z := r.1 == 0, c := r.2.getD x0.c } else x

/-- The returned value of the intent field. -/
def retWrite (f : Nat) (x : Act) (v : Nat) : Act :=
  if fld f 39 1 = 1 then { x with md := mdWrite x.md (fld f 32 7) (le 8 v) } else x

/-- The intent field (R365), in a state step. `free` is a free value for what an intent that is not issued returns. -/
def runIntent (s : State) (e : ActEnv) (nano imm : Nat) (x0 x : Act) : Act :=
  let f := fld nano 256 64
  let kind := fld f 0 3
  if kind = 0 || kind = 7 then x else
  let a := fld f 3 4
  let i := if fld f 10 1 = 1 then imm else leAt x0.md (fld f 11 7) 4 % 2 ^ 23
  let opo := fld f 18 7
  let slot := if fld f 41 1 = 0 then e.slotA else e.slotB
  let ak := arrKind s e.q e.fl a
  let okIdx := match kind with
    | 4 => (match slot with | some y => y.hit && tblStateEn s e.p y.table | none => false)
    | 5 => true
    | 6 => decide (i < arrCount s e.q e.fl a)
    | k => decide (i < arrCount s e.q e.fl a) && ak == k
  let w : View := if e.p = e.q then { e.view with own := e.view.own ++ x.ints } else e.view
  if !okIdx then
    let x := { x with idxErr := x.idxErr + 1 }
    if kind = 2 || kind = 3 || kind = 6 then retWrite f x 0 else x
  else
    let v := if kind = 2 || kind = 3 || kind = 6 then elemView s e.q e.fl a i w else (0, [])
    let saw (x : Act) : Act := { x with deps := x.deps ++ v.2, byp := x.byp + b2n (!v.2.isEmpty) }
    -- a READ of a METER element returns the colour (R329, R335)
    if kind = 6 then retWrite f (saw x) (if ak = 2 then b2n !(mtrGreen (mtrRefill s e.q e.fl v.1 e.entryEl)) else fld v.1 0 64)
    else if x.ints.length ≥ 2 || x.had + x.ints.length ≥ 8 then
      let x := { x with ovf := true, ovfs := x.ovfs + 1 }
      if (kind = 2 || kind = 3) && fld f 39 1 = 1 then
        { retWrite f x (Config.freeValue (s.draws + x.draws)) with draws := x.draws + 1 }
      else x
    else match kind with
      | 1 =>
        let n := if fld f 40 1 = 1 then leAt x0.md opo 8 else mdLen x0.md
        { x with ints := x.ints ++ [{ kind := 1, array := a, idx := i, opnd := n }] }
      | 2 =>
        let r := mtrRefill s e.q e.fl v.1 e.entryEl
        let g := mtrGreen r
        let x := saw { x with ints := x.ints ++ [{ kind := 2, array := a, idx := i, op := b2n g, opnd := if g then mtrCharge s e.q e.fl r (mdLen x0.md) else 0 }] }
        { retWrite f x (b2n !g) with red := x.red || !g }
      | 3 =>
        retWrite f (saw { x with ints := x.ints ++ [{ kind := 3, array := a, idx := i, op := fld f 7 3, opnd := leAt x0.md opo 8, cmp := leAt x0.md (fld f 25 7) 8 }] }) v.1
      | 4 =>
        match slot with
        | some y => { x with ints := x.ints ++ [{ kind := 4, array := y.table, idx := y.idx, pos := fld f 42 4, bytes := slice x0.md opo (fld f 46 5) }] }
        | none => x
      | _ => { x with ints := x.ints ++ [{ kind := 5, array := a, idx := 0, bytes := slice x0.md opo 16 }] }

/-- The metadata word after the window changed by `d` bytes at point `pt` (R367). -/
def shiftMd (md : List Byte) (pt : Nat) (d : Int) : List Byte :=
  let add (v : Nat) : Nat := ((v : Int) + d).toNat
  let md := mdPut (mdPut md 0x10 0 14 (add (mdLen md))) 0x10 20 10 (add (mdF md 0x10 20 10))
  [(0x20, 0), (0x20, 16), (0x24, 0), (0x24, 16)].foldl (fun md w =>
    (List.range 4).foldl (fun md l =>
      let o := mdF md (w.1 + 8 * l) w.2 10
      if o = 0x3FF || o < pt then md else mdPut md (w.1 + 8 * l) w.2 10 (add o)) md) md

/-- The control field (R366): the edit at a base of the start of the cycle, V4_CSUM, then DROP. -/
def runControl (nano : Nat) (x0 x : Act) : Act :=
  let f := fld nano 320 64
  let n := 2 * fld f 13 6
  let base := layerOff x0.md (fld f 2 2) (fld f 4 2)
  let pt := base + fld f 6 7
  let x := if n = 0 || base = 0x3FF then x else
    match fld f 0 2 with
    | 1 =>
      if pt > x.hdr.length || x.hdr.length + n > 512 then { x with hdrOvf := true }
      else { x with hdr := x.hdr.take pt ++ List.replicate n 0 ++ x.hdr.drop pt, md := shiftMd x.md pt n }
    | 2 =>
      if pt + n > x.hdr.length then { x with hdrOvf := true }
      else { x with hdr := x.hdr.take pt ++ x.hdr.drop (pt + n), md := shiftMd x.md pt (-(n : Int)) }
    | _ => x
  let x := if fld f 19 1 = 1 then { x with csum := x.csum ++ [fld f 2 2] } else x
  if fld f 20 1 = 1 then { x with md := mdPut (mdPut x.md 0x40 0 3 1) 0x40 3 8 (fld f 21 8) } else x

/-- A condition (R361) on the flags after the cycle. -/
def condHolds (e : ActEnv) (x : Act) (cond : Nat) : Bool :=
  match cond with
  | 0 => true
  | 1 => x.z
  | 2 => !x.z
  | 3 => x.c
  | 4 => x.c || x.z
  | 5 => e.slotA.any (fun y => y.hit)
  | 6 => e.slotB.any (fun y => y.hit)
  | _ => x.red

/-- Action cycles `c` and after of action `n`; `k` bounds the cycles left (R356, R358, R359). -/
def runCycles (s : State) (st : Stair) (bank n : Nat) (e : ActEnv) : Nat → Nat → Act → Act
  | 0, _, x => x
  | k + 1, c, x0 =>
    let w := ucGet st e.fl e.k bank (8 * n + 4 * x0.path + c)
    let nano := ucGet st e.fl e.k bank (2048 + fld w 23 9)
    let imm := fld w 0 11
    let x := (List.range 4).foldl (runLane e nano imm (fld w 11 7) x0) x0
    let x := if stateStep e.fl e.k then runIntent s e nano imm x0 x else x
    let x := runControl nano x0 x
    if fld w 22 1 = 1 then x
    else
      let x := if fld w 21 1 = 1 && c < 3 && condHolds e x (fld w 18 3) then { x with path := 1 } else x
      runCycles s st bank n e k (c + 1) x

/-- The action number of a step (R357). -/
def actionNo (ctl : Nat) (a b : Option Slot) : Nat :=
  let act (x : Option Slot) : Option Nat := match x with
    | some y => if y.hit then some y.action else none
    | none => none
  let miss := fld ctl 3 8
  match fld ctl 1 2 with
  | 0 => ((act a).orElse (fun _ => act b)).getD miss
  | 1 => ((act b).orElse (fun _ => act a)).getD miss
  | _ => miss

/-- A finished lookup is counted (R313), and the lines that it read are the latest used (R304). -/
def lookCount (p : Nat) (s : State) (r : LookRes) : State :=
  let s := if r.slot.hit then bump64 s (Reg.STA_TBL_HIT_CNT_LO p r.slot.table) else bump64 s (Reg.STA_TBL_MISS_CNT_LO p r.slot.table)
  r.reads.foldl (fun s b =>
    stairUpd s p (fun x => { x with lines := x.lines.map (fun l => if l.table = b.1 && l.bucket = b.2 then { l with used := x.clock } else l), clock := x.clock + 1 })) s

/-- A packet runs one step (R272, R302, R356): the packet, its climb, and the state with the counters that moved. `w` is
what its reads see. A climb that is marked, withdrawn or not parsed OK does nothing (R254, R273, R332). -/
def runStep (s : State) (p q fl : Nat) (c : Climb) (w : View) : State × Climb :=
  let k := c.step
  let nextC (c : Climb) : Climb := { c with step := k + 1 }
  if c.marker.isSome || c.park.isSome || c.withdrawn || mdStatus c.pkt.md ≠ 0 then (s, nextC { c with steps := c.steps ++ [{}] }) else
  let ts := boundTables s p fl k
  let rs := ts.map (fun t => lookSlot s p q t c.pkt w)
  let st := stairGet s p
  let s := (rs.filter (fun r => r.park.isNone)).foldl (lookCount p) s
  let pins := c.pins ++ rs.filterMap (fun (r : LookRes) => r.pin)
  match rs.findSome? (fun r => r.park) with
  | some key => (s, nextC { c with park := some key, intents := [], shed := c.shed ++ c.intents, pins := pins, steps := c.steps ++ [{ aTable := ts[0]?, bTable := ts[1]?, park := true }] })
  | none =>
    let a := (rs[0]?).map (fun r => r.slot)
    let b := (rs[1]?).map (fun r => r.slot)
    let md := rs.foldl (fun md r => resCopy s p md r.slot) c.pkt.md
    let ctl := ucGet st fl k c.bank 2560
    let c := { c with pkt := { c.pkt with md := md }, deps := c.deps ++ (rs.map (fun (r : LookRes) => r.deps)).flatten, pins := pins }
    let rec0 : StepRec :=
      { aTable := a.map (fun x => x.table), bTable := b.map (fun x => x.table),
        aHit := a.bind (fun x => if x.hit then some x.idx else none), bHit := b.bind (fun x => if x.hit then some x.idx else none),
        aAct := (a.map (fun x => if x.hit then x.action else 0)).getD 0, bAct := (b.map (fun x => if x.hit then x.action else 0)).getD 0 }
    if fld ctl 0 1 = 0 then (s, nextC { c with steps := c.steps ++ [rec0] }) else
    let n := actionNo ctl a b
    let e : ActEnv := { p := p, q := q, fl := fl, k := k, entryEl := c.entryEl, view := w, slotA := a, slotB := b }
    let x := runCycles s st c.bank n e 4 0 { md := md, hdr := c.pkt.hdr, had := c.intents.length }
    let s := bump { s with draws := s.draws + x.draws } (Reg.stepPage p fl k + 0x80)
    let s := if x.idxErr = 0 then s else bump s (Reg.STA_UC_IDX_ERR_CNT p fl) x.idxErr
    let s := if x.byp = 0 then s else bump s (Reg.STA_RET_BYPASS_CNT p fl) x.byp
    let s := if x.ovfs = 0 then s else raiseLim (bump s (Reg.STA_INTENT_OVF_CNT p fl) x.ovfs) (stairSrc p 16) 0 [(4, fl)] x.ovfs
    let r : StepRec :=
      { rec0 with en := true, path := x.path == 1, nInt := x.ints.length, ovf := x.ovf || x.idxErr ≠ 0, action := n,
                  flags := b2n x.z + 2 * b2n x.c + 4 * b2n x.red }
    (s, nextC
      { c with pkt := { c.pkt with md := x.md, hdr := x.hdr }, intents := c.intents ++ x.ints, ovf := c.ovf || x.ovf, deps := c.deps ++ x.deps,
               csum := c.csum ++ x.csum, hdrOvf := c.hdrOvf || x.hdrOvf, steps := c.steps ++ [r] })

/-! Loading (R370 to R375). -/

/-- ACTIVE, ARM and OLD_IN_USE of a flight. -/
def ucActive (s : State) (p fl : Nat) : Nat := rdF s (Reg.STA_UC_BANK p fl) 0 1
def ucHeld (s : State) (p fl : Nat) : Bool := rdF s (Reg.STA_UC_BANK p fl) 1 2 ≠ 0

/-- The stairs that a load reaches: those SERVING or SPARE (R373). -/
def loadStairs (s : State) : List Nat := (List.range 9).filter (fun q => unitState s q == 1 || unitState s q == 2)

/-- Why a nanoword is refused by its content: the lowest cause. -/
def nanoRefused (fl k nano : Nat) : Option Nat :=
  let it := fld nano 256 64
  let ct := fld nano 320 64
  if (List.range 4).any (fun l => fld nano (64 * l) 5 > 16) || fld it 0 3 = 7 || fld ct 0 2 = 3 ||
      (fld it 0 3 = 3 && fld it 7 3 = 7) || fld it 51 13 ≠ 0 || fld ct 29 35 ≠ 0 then some 1
  else if fld it 0 3 ≠ 0 && !stateStep fl k then some 2
  else if fld it 0 3 = 4 && (fld it 46 5 = 0 || fld it 46 5 > 16) then some 3
  else none

def ucErr (s : State) (p fl k cause : Nat) : State :=
  let r := Reg.stepPage p fl k + 0x14
  wrF (wrF s r 1 1 1) r 2 3 cause

def ucAddr (s : State) (p fl k : Nat) : Nat := rdF s (Reg.stepPage p fl k + 8) 0 11

/-- ADDR advances after an accepted access with AUTO_INC set (R372). -/
def ucInc (s : State) (p fl k : Nat) : State :=
  let r := Reg.stepPage p fl k + 8
  if rdF s r 11 1 = 1 then wrF s r 0 11 (ucAddr s p fl k + 1) else s

/-- A load of one word into the idle banks, or its refusal; `bad` is the cause that its content gives. -/
def ucLoad (s : State) (p fl k addr v : Nat) (bad : Option Nat) (inc : Bool) : State :=
  let stairs := loadStairs s
  match bad with
  | some c => ucErr s p fl k c
  | none =>
    if stairs.any (fun q => ucHeld s q fl) || ucHeld s p fl then ucErr s p fl k 4
    else if rdF s (Reg.stepPage p fl k + 8) 13 1 = 0 then ucErr s p fl k 5
    else if s.unit.goldenBad || guardedGone s 3 0 0 then ucErr s p fl k 7
    else
      let gb := 1 - ucActive s ((stairs[0]?).getD p) fl
      let s := { s with golden := { s.golden with uc := aset s.golden.uc (ucKey fl k gb addr) v } }
      let s := stairs.foldl (fun s q => stairUpd s q (fun x => { x with uc := aset x.uc (ucKey fl k (1 - ucActive s q fl) addr) v })) s
      if inc then ucInc s p fl k else s

def stepOk (p fl k : Nat) : Bool := p < 9 && fl < 2 && k < flightLen fl

def ucDataWrite (s : State) (p fl k : Nat) (v : W32) : State := ucLoad s p fl k (ucAddr s p fl k) v.toNat none true

def stepCtlWrite (s : State) (p fl k : Nat) (v : W32) : State :=
  ucLoad s p fl k 2560 (rfld v 0 11) (if rfld v 1 2 = 3 then some 1 else none) false

def nanoOf (s : State) (p fl k : Nat) : Nat :=
  ofLe ((List.range 12).flatMap (fun w => le 4 (rdN s (Reg.stepPage p fl k + 0x20 + 4 * w))))

/-- A write of STA_UC_CMD that passed the gate. -/
def ucCmdWrite (s : State) (p fl k : Nat) (v : W32) : State :=
  if rbit v 0 && rbit v 1 then ucErr s p fl k 1
  else if rbit v 0 then
    ucLoad s p fl k (2048 + ucAddr s p fl k % 512) (nanoOf s p fl k) (nanoRefused fl k (nanoOf s p fl k)) true
  else if rbit v 1 then
    let bank := rdF s (Reg.stepPage p fl k + 8) 12 1
    let nano := ucGet (stairGet s p) fl k bank (2048 + ucAddr s p fl k % 512)
    ucInc ((List.range 12).foldl (fun s w => wrN s (Reg.stepPage p fl k + 0x20 + 4 * w) (fld nano (32 * w) 32)) s) p fl k
  else s

/-- A read of STA_UC_DATA (R372): microword ADDR of bank RBANK. -/
def ucDataRead (s : State) (p fl k : Nat) : State × W32 :=
  let bank := rdF s (Reg.stepPage p fl k + 8) 12 1
  (ucInc s p fl k, BitVec.ofNat 32 (ucGet (stairGet s p) fl k bank (ucAddr s p fl k)))

/-- UC_DATA_WRITE (R372). -/
def execUcDataWrite (req : Requester) (be p fl k : Nat) (v : W32) (s : State) : Host.Outcome State Fault Refusal :=
  .next (if stepOk p fl k then gate s req be (Reg.stepPage p fl k + 0xC) false (fun s => ucDataWrite s p fl k v) else s)

/-- UC_DATA_READ (R372). -/
def execUcDataRead (req : Requester) (p fl k : Nat) (s : State) : Host.Outcome State Fault Refusal :=
  .next (if stepOk p fl k then
    let r := ucDataRead s p fl k
    emit r.1 (.regRead req (Reg.stepPage p fl k + 0xC) r.2)
  else s)

/-- WRITE_NW (R372): a write of STA_UC_CMD with WRITE_NW set. -/
def execWriteNw (req : Requester) (be p fl k : Nat) (v : W32) (s : State) : Host.Outcome State Fault Refusal :=
  .next (if stepOk p fl k && rbit v 0 then gate s req be (Reg.stepPage p fl k + 0x10) false (fun s => ucCmdWrite s p fl k v) else s)

/-- READ_NW (R372): a write of STA_UC_CMD with READ_NW set and WRITE_NW clear. -/
def execReadNw (req : Requester) (be p fl k : Nat) (v : W32) (s : State) : Host.Outcome State Fault Refusal :=
  .next (if stepOk p fl k && rbit v 1 && !rbit v 0 then gate s req be (Reg.stepPage p fl k + 0x10) false (fun s => ucCmdWrite s p fl k v) else s)

/-- STEP_CTL_WRITE (R373). -/
def execStepCtlWrite (req : Requester) (be p fl k : Nat) (v : W32) (s : State) : Host.Outcome State Fault Refusal :=
  .next (if stepOk p fl k then gate s req be (Reg.stepPage p fl k) false (fun s => stepCtlWrite s p fl k v) else s)

/-- LOAD_BUSY_TIMEOUT (R374): a load written to this page found BUSY set to the end of its 2 us and is dropped with cause
6. When that happens is an operand of the outside, since loads take no time here (log entry 5). -/
def execLoadBusyTimeout (p fl k : Nat) (s : State) : Host.Outcome State Fault Refusal :=
  .next (if stepOk p fl k then ucErr s p fl k 6 else s)

/-- UC_SCRUB (R382): the scrub of a stair that is SERVING, SPARE or TESTING meets a parity error in a word (store 0
microstore, 1 nanostore, 2 parse state table) and rewrites it from the golden copy. -/
def execUcScrub (p fl k store bank addr : Nat) (s : State) : Host.Outcome State Fault Refusal :=
  .next (if p < 9 && bank < 2 && (unitState s p == 1 || unitState s p == 2 || unitState s p == 4) then
    let f := if store = 2 then 0 else fl
    let data := [(1, f), (1, if store = 2 then 0xFF else k), (1, store), (1, bank), (2, addr)]
    if store = 2 && addr < 256 then
      let s := stairUpd s p (fun x => { x with parse := aset x.parse (bank * 256 + addr) (agetD s.golden.parse (bank * 256 + addr) 0) })
      raise (bump s (Reg.STA_UC_PAR_CNT p f)) (stairSrc p 21) data
    else if store < 2 && stepOk p fl k && addr < (if store = 0 then 2048 else 512) then
      let key := ucKey fl k bank (addr + 2048 * store)
      let s := stairUpd s p (fun x => { x with uc := aset x.uc key (agetD s.golden.uc key 0) })
      raise (bump s (Reg.STA_UC_PAR_CNT p f)) (stairSrc p 21) data
    else s
  else s)

end Sys2Proof.Machine
end

