-- ==== Sys2Proof/Machine/TilOps.lean ====
section
/-! DEFINITION. Machine/TilOps.lean: shared operations over tillers (chapter 16): channel indices, port handles and
messages, thread states, punts, the thread table of the firmware image, and the release of a tiller. -/

namespace Sys2Proof.Machine

/-! Indices of channels and ports (R171, R172, R552). -/

/-- The index cannot be assigned: it is held, or it was freed less than a second ago. -/
def idxUsed (s : State) (i : Nat) : Bool :=
  (aget s.ch.chans i).isSome || (aget s.ch.ports i).isSome ||
  (aget s.ch.freed i).any (fun t => s.time.elapsed < t + 1000 * msUnits)

/-- The index lies in the handle range of another slice (R223). -/
def idxForeign (s : State) (sl i : Nat) : Bool :=
  s.slices.any (fun e => e.1 ≠ sl && e.2.hcount ≠ 0 && e.2.hbase ≤ i && i < e.2.hbase + e.2.hcount)

/-- A free index among `n` from `lo` for a slice: any may be taken, so a free value proposes one (R171 names no order). -/
def allocIndex (s : State) (sl lo n : Nat) : Option Nat × State :=
  if n = 0 then (none, s) else
  let r := draw s
  let f := lo + r.1 % n
  let ok (i : Nat) : Bool := lo ≤ i && i < lo + n && !idxUsed s i && !idxForeign s sl i
  if ok f then (some f, r.2) else
  let bases := lo :: s.slices.map (fun e => e.2.hbase + e.2.hcount)
  let held := s.ch.chans.length + s.ch.ports.length + s.ch.freed.length + 1
  ((bases.flatMap (fun b => (List.range held).map (b + ·))).find? ok, r.2)

/-- The generation that an index takes when it is assigned. -/
def nextGen (s : State) (i : Nat) : Nat :=
  match aget s.ch.gens i with
  | some g => (g + 1) % 256
  | none => 0

/-- Indices that slice 0 assigns: its handle range, or every index while it has none. -/
def idxRange (s : State) (sl : Nat) : Nat × Nat :=
  match aget s.slices sl with
  | some x => if x.hcount = 0 then (1, 8388608) else (x.hbase, x.hcount)
  | none => (1, 8388608)

/-- A slice's use of its CHANNELS quota: its channels but the admin pair, and for slice 0 the channel ports (R216, R552). -/
def chanUse (s : State) (sl : Nat) : Nat :=
  let mine := s.ch.chans.filter (fun e => e.2.slice == sl)
  let admin := mine.filter (fun e => e.2.kind == 1)
  mine.length - 2 * admin.length + (if sl = 0 then s.ch.ports.length else 0)

/-- A port handle is assigned; none when no index is free or slice 0's quota is reached. -/
def newPortHandle (s : State) : Option Nat × State :=
  if chanUse s 0 ≥ sliceLimit s 0 2 then (none, s) else
  let r := idxRange s 0
  match allocIndex s 0 r.1 r.2 with
  | (some i, s) =>
    let g := nextGen s i
    (some (g * 0x1000000 + i), { s with ch := { s.ch with ports := aset s.ch.ports i g, gens := aset s.ch.gens i g } })
  | (none, s) => (none, s)

def freePortHandle (s : State) (h : Nat) : State :=
  if h = 0 then s else
  { s with ch := { s.ch with ports := adel s.ch.ports (h % 0x1000000), freed := aset s.ch.freed (h % 0x1000000) s.time.elapsed } }

/-! Tillers, threads and ports. -/

def tilGet (s : State) (t : Nat) : Tiller := agetD s.tils t {}
def tilUpd (s : State) (t : Nat) (f : Tiller → Tiller) : State := { s with tils := aset s.tils t (f (tilGet s t)) }
def tport (s : State) (t k : Nat) : TPort := agetD (tilGet s t).ports k {}
def tportSet (s : State) (t k : Nat) (x : TPort) : State := tilUpd s t (fun a => { a with ports := aset a.ports k x })
def thGet (s : State) (t n : Nat) : Thread := agetD (tilGet s t).threads n {}
def thUpd (s : State) (t n : Nat) (f : Thread → Thread) : State := tilUpd s t (fun a => { a with threads := aset a.threads n (f (agetD a.threads n {})) })

/-- A register of a tiller, and of a thread, by physical tiller. -/
def tilR (f : Nat → Nat → Nat) (t : Nat) : Nat := f (t / 8) (t % 8)
def thR (f : Nat → Nat → Nat → Nat) (t n : Nat) : Nat := f (t / 8) (t % 8) n

/-- Source of a tiller event (R577). -/
def tilSrc (t idx : Nat) : Nat := 0xA00 + 32 * t + idx

/-- TH_STATUS.STATE: 0 HALTED, 1 RUNNING, 2 BLOCKED, 3 FAULTED. -/
def thState (s : State) (t n : Nat) : Nat := rdF s (thR Reg.TH_STATUS t n) 0 3
def thSetState (s : State) (t n st : Nat) : State := wrF s (thR Reg.TH_STATUS t n) 0 3 st
def thDbg (s : State) (t n : Nat) : Bool := rdF s (thR Reg.TH_STATUS t n) 3 1 == 1
def thCap (s : State) (t n : Nat) : Nat := rdN s (thR Reg.TH_CAP t n)
def thGroup (s : State) (t n : Nat) : Nat := rdF s (thR Reg.TH_GROUP t n) 0 6

/-- Messages for a tiller are held: its role is being taken over (R592). -/
def tilHeld (s : State) (t : Nat) : Bool := s.unit.takeovers.any (fun e => e.2.1 == 16 + t)
/-- The tiller serves its role, or its role is being taken over. -/
def tilServes (s : State) (t : Nat) : Bool := unitState s (16 + t) == 1 || tilHeld s t

/-- The IN port that a handle names, with its tiller and key. -/
def inPort (s : State) (h : Nat) : Option (Nat × Nat × TPort) :=
  if h = 0 then none else
  s.tils.findSome? (fun e => (e.2.ports.find? (fun p => p.2.mode == 1 && p.2.handle == h)).map (fun p => (e.1, p.1, p.2)))

/-- The tiller whose DMA engine has a handle. -/
def dmaOf (s : State) (h : Nat) : Option Nat :=
  if h = 0 then none else (List.range 34).find? (fun t => rdN s (tilR Reg.TIL_DMA_HANDLE t) == h)

/-- A queue has a free slot (R555). -/
def tportRoom (p : TPort) : Bool := p.msgs.length + p.resv < 2 ^ p.depthLog

/-- TH_STATUS.OPEN follows a port. -/
def showOpen (s : State) (t k : Nat) : State := wrF s (thR Reg.TH_STATUS t (k / 16)) (6 + k % 16) 1 (b2n (tport s t k).opened)

/-- A message enters the next slot of an IN port's queue and is visible at once (R554). -/
def enqueue (s : State) (t k : Nat) (words : List Nat) (kind sender : Nat) (late : Bool) : State :=
  let p := tport s t k
  let slot := p.tail % 2 ^ p.depthLog
  let s := store s (scratchBase t + p.qbase + 64 * slot) (words.flatMap (fun w => le 8 w))
  let s := tportSet s t k { p with msgs := p.msgs ++ [{ slot := slot, words := words.length, kind := kind, sender := sender, late := late }], tail := p.tail + 1 }
  thUpd s t (k / 16) (fun x => { x with since := s.time.elapsed })

/-- A producer posts a message to a port handle; none when it does not name a bound IN port, its queue is full, or its
messages are held. -/
def postMsg (s : State) (h : Nat) (words : List Nat) (kind sender : Nat) (late : Bool) : Option State :=
  match inPort s h with
  | some (t, k, p) => if tportRoom p && unitState s (16 + t) == 1 && !tilHeld s t then some (enqueue s t k words kind sender late) else none
  | none => none

/-- Words of the oldest message of a port. -/
def headWords (s : State) (t : Nat) (p : TPort) : List Nat :=
  match p.msgs with
  | m :: _ => (List.range m.words).map (fun i => ofLe (memGets s.mem (scratchBase t + p.qbase + 64 * m.slot + 8 * i) 8))
  | [] => []

/-! Punts (R566). -/

/-- Copies a packet to the next punt slot of a port and posts its record; none when the punt fails. -/
def punt (s : State) (role fl h : Nat) (md pkt : List Byte) (cls : Nat) : Option State :=
  match inPort s h with
  | some (t, k, p) =>
    if !p.puntOk || !tportRoom p || p.pslots = 0 || (p.puntK + 0x100000000 - p.prel) % 0x100000000 ≥ p.pslots ||
        unitState s (16 + t) ≠ 1 || tilHeld s t then none
    else
      let ps := p.puntK % p.pslots
      let s := store s (fwBase + p.pbase + 16384 * ps) (fit 128 md ++ pkt)
      let s := tportSet s t k { p with puntK := (p.puntK + 1) % 0x100000000 }
      let w0 := 1 + role * 2 ^ 8 + fl * 2 ^ 12 + ps * 2 ^ 16 + pkt.length * 2 ^ 32
      let w2 := mdHash md + mdSlice md * 2 ^ 32
      let s := enqueue s t k [w0, leAt md 0 8, w2, mdReason md + cls % 256 * 256] 1 role false
      some (bump64 s (tilR Reg.TIL_PUNT_CNT_LO t))
  | none => none

/-! Blocking (R562, R563). -/

/-- A thread issues an instruction: its wait group no longer stands still (R573). -/
def thIssue (s : State) (t n : Nat) : State :=
  let g := thGroup s t n
  tilUpd (thUpd s t n (fun x => { x with since := s.time.elapsed })) t (fun a => { a with still := a.still.filter (· ≠ g) })

/-- A channel instruction returns its result word; the thread runs on. -/
def chReply (s : State) (t n : Nat) (sts : Byte) (rest : Nat := 0) : State :=
  let s := thIssue (thSetState (thUpd s t n (fun x => { x with block := none })) t n 1) t n
  emit s (.threadReply t n sts.toNat [sts.toNat + rest])

/-- The thread becomes BLOCKED. -/
def chBlock (s : State) (t n : Nat) (b : Block) : State :=
  thSetState (thUpd (thIssue s t n) t n (fun x => { x with block := some b })) t n 2

/-- The seal of a message (R554): it enters the destination, or waits at the sender while its messages are held. -/
def sealMsg (s : State) (t k : Nat) (words : List Nat) : State :=
  let p := tport s t k
  let clear (s : State) : State := showOpen (tportSet s t k { tport s t k with opened := false, words := [] }) t k
  match dmaOf s p.dest with
  | some d => clear (tilUpd s d (fun a => { a with dma := a.dma ++ [{ words := words, cap := thCap s t (k / 16) }] }))
  | none =>
    match inPort s p.dest with
    | some (d, j, q) =>
      if tilHeld s d then showOpen (tportSet s t k { p with opened := false, words := words, sealed := true }) t k
      else clear (enqueue (tportSet s d j { q with resv := q.resv - 1 }) d j words 0 (p.handle % 0x1000000) false)
    | none => clear s

/-- CH.PUT (R554 to R558); none when it must wait for capacity. -/
def chPut (s : State) (t n port word : Nat) (sl : Bool) : Option State :=
  let k := 16 * n + port
  let p := tport s t k
  if p.mode ≠ 2 then some (chReply s t n STS_PORT_UNBOUND)
  else if p.abandoned then some (chReply (tportSet s t k { p with abandoned := false }) t n STS_ABANDONED)
  else if p.destGone then some (chReply (tportSet s t k { p with destGone := false }) t n STS_PORT_UNBOUND)
  else if p.sealed then none
  else if p.opened then
    if p.words.length ≥ 8 then some (chReply s t n STS_MSG_STATE)
    else if sl then some (chReply (sealMsg s t k (p.words ++ [word])) t n STS_OK)
    else some (chReply (tportSet s t k { p with words := p.words ++ [word] }) t n STS_OK)
  else
    let start (s : State) : State :=
      if sl then chReply (sealMsg s t k [word]) t n STS_OK
      else chReply (showOpen (tportSet s t k { p with opened := true, words := [word] }) t k) t n STS_OK
    match dmaOf s p.dest with
    | some _ => some (start s)
    | none =>
      match inPort s p.dest with
      | some (d, j, q) =>
        if !tilServes s d then some (chReply s t n STS_PORT_UNBOUND)
        else if tilHeld s d || !tportRoom q then none
        else some (start (tportSet s d j { q with resv := q.resv + 1 }))
      | none => some (chReply s t n STS_PORT_UNBOUND)

/-- Where `n` bytes from a physical address of a thread lie in the model's memory: scratch with the shared registers after it, and
the firmware region of `fw` bytes (R546). -/
def thAddr (fw t a n : Nat) : Option Nat :=
  if a + n ≤ 0x100800 then some (scratchBase t + a)
  else if 0x100000000 ≤ a && a + n ≤ 0x100000000 + fw then some (fwBase + (a - 0x100000000))
  else none

/-! The firmware image in the flash (R651, R652). -/

/-- Bytes of the flash. An erased byte reads 0xFF (log entry 8): the window of memory holds their complements. -/
def flashGet (s : State) (a n : Nat) : List Byte := (memGets s.mem (flashBase + a) n).map (fun b => b ^^^ 0xFF)
def flashPut (s : State) (a : Nat) (bs : List Byte) : State := store s (flashBase + a) (bs.map (fun b => b ^^^ 0xFF))
def flashErase (s : State) (lo hi : Nat) : State := { s with mem := memClear s.mem (flashBase + lo) (flashBase + hi) }
/-- A copy of the boot state passes its CRC32C. -/
def bootOk (s : State) (copy : Nat) : Bool :=
  let bs := flashGet s (0x2000 + 0x1000 * copy) 8
  leAt bs 4 4 == crc32c (bs.take 4)
/-- The boot state: [0] ACTIVE, [1] PENDING, [2] TRIED, of copy 0, or of copy 1 where only it is good. -/
def bootState (s : State) : Nat := leAt (flashGet s (if bootOk s 0 then 0x2000 else if bootOk s 1 then 0x3000 else 0x2000) 4) 0 4
def slotAddr (slot : Nat) : Nat := if slot = 0 then 0x100000 else 0x1F00000
def activeImage (s : State) : Nat := slotAddr (fld (bootState s) 0 1)

/-- The section descriptors of an image: TYPE, OFFSET, LEN, LOAD. -/
def imgSections (s : State) (base : Nat) : List (Nat × Nat × Nat × Nat) :=
  (List.range (min 16 (leAt (flashGet s (base + 0xC) 1) 0 1))).map (fun i =>
    let d := flashGet s (base + 0x80 + 64 * i) 16
    (leAt d 0 1, leAt d 4 4, leAt d 8 4, leAt d 12 4))

/-- Bytes of the firmware region (R652 FWREG_MB). -/
def fwBytes (s : State) : Nat := leAt (flashGet s (activeImage s + 0x1C) 2) 0 2 * 0x100000

/-- The thread-table entry of a thread of a logical tiller: the last that names it. -/
def threadEntry (s : State) (role n : Nat) : Option (List Byte) :=
  match (imgSections s (activeImage s)).find? (fun d => d.1 == 3) with
  | some (_, off, len, _) =>
    ((List.range (len / 32)).map (fun i => flashGet s (activeImage s + off + 32 * i) 32)).reverse.find?
      (fun e => (leAt e 0 1 == role || leAt e 0 1 == 0xFF) && leAt e 1 1 % 64 == n)
  | none => none

/-! The release of a tiller (R549, R552). -/

/-- The fault port's key: port 15 of the supervisor. -/
abbrev faultKey : Nat := 15

/-- The fault port and the DMA engine take their handles, unless they have them. -/
def bindFixed (s : State) (t : Nat) : State :=
  let s := if (tport s t faultKey).mode ≠ 0 then s else
    match newPortHandle s with
    | (some h, s) => tportSet s t faultKey { mode := 1, depthLog := 6, qbase := 0xFF000, handle := h, hw := true }
    | (none, s) => s
  if rdN s (tilR Reg.TIL_DMA_HANDLE t) ≠ 0 then s else
    match newPortHandle s with
    | (some h, s) => wrN s (tilR Reg.TIL_DMA_HANDLE t) h
    | (none, s) => s

/-- A thread as the image gives it: context, priority, group, and running where its capability mask is zero; thread 0 of
core 0 runs. -/
def releaseThread (s : State) (t role n : Nat) : State :=
  match threadEntry s role n with
  | some e =>
    let cap := leAt e 4 4 % 16
    let s := wr64 (wr64 s (thR Reg.TH_PC_LO t n) (leAt e 8 8)) (thR Reg.TH_SP_LO t n) (leAt e 0x10 8)
    let s := wrN (wrN (wrN s (thR Reg.TH_CAP t n) cap) (thR Reg.TH_PRIO t n) (leAt e 2 1 % 4)) (thR Reg.TH_GROUP t n) (if n = 0 then 0 else leAt e 3 1 % 64)
    let s := thUpd s t n (fun _ => { entryPc := leAt e 8 8, entrySp := leAt e 0x10 8, since := s.time.elapsed })
    wrN s (thR Reg.TH_STATUS t n) ((if n = 0 || cap = 0 then 1 else 0) + 16 * b2n (cap ≠ 0))
  | none => wrN (wrN (thUpd s t n (fun _ => {})) (thR Reg.TH_CAP t n) 0) (thR Reg.TH_STATUS t n) 0

/-- Ozelm, or the sequencer at a takeover, releases a tiller for a role. -/
def releaseTiller (s : State) (t role logical : Nat) : State :=
  let s := tilUpd (bindFixed s t) t (fun a => { a with image := fld (bootState s) 0 1 })
  let s := (List.range 64).foldl (fun s n => releaseThread s t role n) s
  let s := wrN s (tilR Reg.TIL_STATUS t) (1 + 4 * b2n (unitState s (16 + t) = 2) + 8 * logical)
  raise s (tilSrc t 0) [(4, logical)]

end Sys2Proof.Machine
end

