-- ==== Sys2Proof/Machine/CipherOps.lean ====
section
/-! DEFINITION. Machine/CipherOps.lean: shared operations of the key store, the lookaside engines and the inline engines
(chapter 13). -/

namespace Sys2Proof.Machine

/-! Key slots (R431 to R434). -/

def cyUpd (s : State) (f : CySt → CySt) : State := { s with cy := f s.cy }

/-- The absolute number of a slice's slot offset; none at or beyond its KEY_SLOTS limit. -/
def slotAbs (s : State) (sl off : Nat) : Option Nat :=
  match aget s.slices sl with
  | some x => if off < agetD x.limits 5 0 then some (x.ksBase + off) else none
  | none => none

/-- The DRBG runs: READY, and ENTROPY_FAIL clear (R456). -/
def drbgUp (s : State) : Bool := rdF s Reg.KS_STATUS 0 2 == 1

/-- Some alarm is latched (R455), or the part is in RETURN (R657). -/
def keyLocked (s : State) : Bool := rdF s Reg.KS_ALARM 0 5 ≠ 0 || s.oz.lc == 2

/-- The slot is named by a cipher context, by a queue pair's context or by a namespace (R434). -/
def keyBusy (s : State) (a : Nat) : Bool :=
  s.cy.ctxs.any (fun e => e.2.slot == a) || s.rm.qps.any (fun e => e.2.sec.any (fun c => c.slot == a)) ||
  s.sv.nss.any (fun e => e.2.keySlot.any (fun k => a == k || a == k + 1))

def showSlots (s : State) : State := wrN s Reg.KS_SLOTS_USED s.cy.slots.length
def showCtxs (s : State) : State := wrN s Reg.KS_CCTX_USED s.cy.ctxs.length

/-- A key is written to a slot, with a fresh salt; its role is unset and its counter zero (R432, R433, R441). -/
def putKey (s : State) (a key : Nat) : State :=
  let r := draw s
  showSlots (cyUpd r.2 (fun c => { c with slots := aset c.slots a { key := key, salt := r.1 % 2 ^ 32 } }))

/-- A slot is used in a role: its first use sets the role (R432). -/
def useSlot (s : State) (a role : Nat) : Byte ⊕ (State × KeySlot) :=
  match aget s.cy.slots a with
  | none => .inl STS_KEY_EMPTY
  | some k =>
    if k.role = 0 || k.role = role then .inr (cyUpd s (fun c => { c with slots := aset c.slots a { k with role := role } }), k)
    else .inl STS_KEY_ROLE

/-- A lookaside request that started before number `bound` has not finished and loaded a key of these slots (R434). -/
def keyHeld (s : State) (a n bound : Nat) : Bool :=
  s.cy.reqs.any (fun r => r.1 < bound && r.2.slots.any (fun x => a ≤ x && x < a + n))

/-! Cipher contexts and derived keys (R437, R438). -/

/-- The context label with DIR and EPOCH as the device writes them. -/
def labelFor (l : List Byte) (dir epoch : Nat) : List Byte := patch (patch (fit 48 l) 1 (le 1 dir)) 4 (be 4 epoch)

def derived (root : Nat) (label : List Byte) : Nat :=
  Config.deriveKey root (be 4 1 ++ [0x47, 0x5A, 0x2D, 0x43, 0x4F, 0x4E, 0x4E, 0x2D, 0x4B, 0x45, 0x59] ++ [0] ++ label ++ be 4 0x100)

/-- The code of a derived key in a cache: the context (a queue pair's index, or a context's), its direction and epoch. -/
def dkCode (qp : Bool) (id dir epoch : Nat) : Nat := ((id * 2 + b2n qp) * 2 + dir) * 2 ^ 32 + epoch

/-- The context that the cipher fields name, with its number: for a queue pair, its index through the line it is in
(R443, R462). -/
def ctxOf (s : State) (qp : Bool) (n : Nat) : Option (Nat × Cctx) :=
  if qp then
    match aget s.rm.lines n with
    | some l => ((aget s.rm.qps l.qp).bind (fun q => q.sec)).map (fun c => (l.qp, c))
    | none => none
  else (aget s.cy.ctxs n).map (fun c => (n, c))

def ctxGet (s : State) (qp : Bool) (id : Nat) : Option Cctx :=
  if qp then (aget s.rm.qps id).bind (fun q => q.sec) else aget s.cy.ctxs id

def ctxPut (s : State) (qp : Bool) (id : Nat) (c : Cctx) : State :=
  if qp then { s with rm := { s.rm with qps := aupd s.rm.qps id (fun q => { q with sec := some c }) } }
  else cyUpd s (fun y => { y with ctxs := aupd y.ctxs id (fun _ => c) })

/-- What an engine finds when it asks for a key. -/
inductive KeyRes where
  | noKey
  | miss
  | have (key : Nat)
deriving DecidableEq, Repr

/-- The key of a context for a direction and epoch in a stair's engines (R446). -/
def inlineKey (s : State) (p : Nat) (qp : Bool) (id : Nat) (c : Cctx) (dir epoch : Nat) : KeyRes :=
  if c.state = 2 then .noKey else
  match aget s.cy.slots c.slot with
  | none => .noKey
  | some k =>
    if !c.derive then .have k.key
    else match aget (agetD s.cy.caches p []) (dkCode qp id dir epoch) with
      | some d => .have d
      | none => .miss

/-- A derived key enters a stair's cache of 16,384 entries; a full cache gives up an entry of the device's choice. -/
def cacheFill (s : State) (p code key : Nat) : State :=
  let m := agetD s.cy.caches p []
  if m.length < 16384 || (aget m code).isSome then cyUpd s (fun c => { c with caches := aset c.caches p (aset m code key) })
  else
    let r := draw s
    let m := match m[r.1 % m.length]? with
      | some e => adel m e.1
      | none => m
    cyUpd r.2 (fun c => { c with caches := aset c.caches p (aset m code key) })

/-! Lookaside requests (R447 to R453). -/

/-- The active engine with the least work queued; ties are the device's choice. -/
def pickEngine (s : State) : Nat × State :=
  let act := (List.range 9).filter (fun e => (rdN s Reg.CY_LA_STATUS).testBit e)
  let work (e : Nat) : Nat := ((s.cy.reqs.filter (fun r => r.2.engine == e)).map (fun r => r.2.len + 1)).foldl (· + ·) 0
  let least := act.filter (fun e => act.all (fun f => work e ≤ work f))
  match pick s least with
  | (some e, s) => (e, s)
  | (none, s) => (0, s)

/-- The next request an engine runs: the oldest of the next slice in turn that has one. -/
def nextReq (s : State) (e : Nat) : Option (Nat × Nat) :=
  let mine := s.cy.reqs.filter (fun r => r.2.engine == e)
  let last := agetD s.cy.turn e 0
  let sls := mine.map (fun r => r.2.slice)
  let after := sls.filter (fun x => last < x)
  let pickMin (l : List Nat) : Option Nat := l.foldl (fun b x => match b with | some y => some (min x y) | none => some x) none
  match (pickMin after).orElse (fun _ => pickMin sls) with
  | some sl => (mine.find? (fun r => r.2.slice == sl)).map (fun r => (r.1, sl))
  | none => none

/-- An idle engine starts its next request. -/
def engineNext (s : State) (e : Nat) : State :=
  if (aget s.cy.serving e).isSome then s else
  match nextReq s e with
  | some (id, sl) => cyUpd s (fun c => { c with serving := aset c.serving e id, turn := aset c.turn e sl })
  | none => s

/-- The outcome of the checks on a request: its slots and keys, salt and nonce, or the status it completes with. -/
structure LaCheck where
  fixed : Option Byte := none
  slots : List Nat := []
  keys  : List Nat := []
  salt  : Nat := 0
  nonce : List Byte := []
deriving DecidableEq, Repr

/-- Two ranges overlap other than at exactly the same address (R449). -/
def overlaps (src n dst m : Nat) : Bool := src ≠ dst && src < dst + m && dst < src + n

/-- The checks of R432, R441, R449 and R450, in order. `cap` is the length that the destination holds. A GCM_ENC that
passes them draws its counter here, in request order (R440). -/
def laCheck (s : State) (sl op off aad len src dst : Nat) (cap : Option Nat) : State × LaCheck :=
  let xts := op == 0x42 || op == 0x43
  let out := if op = 0x40 then len + 16 else len
  let inLen := if op = 0x41 then len + 16 else len
  if op < 0x40 || 0x43 < op then (s, { fixed := some STS_BAD_DESC })
  else if len > 16777216 || (!xts && aad > len) || (xts && aad ≠ 0) || (xts && 1 ≤ len && len ≤ 15) then (s, { fixed := some STS_LEN_RANGE })
  else if len = 0 then (s, { fixed := some STS_OK })
  else if cap.any (fun n => n < out) then (s, { fixed := some STS_LEN_RANGE })
  else match slotAbs s sl off with
  | none => (s, { fixed := some STS_KEY_SLOT })
  | some a =>
    if xts then
      match slotAbs s sl (off + 1) with
      | none => (s, { fixed := some STS_KEY_SLOT })
      | some b =>
        match aget s.cy.slots a, aget s.cy.slots b with
        | some x, some y =>
          if (x.role ≠ 0 && x.role ≠ 1) || (y.role ≠ 0 && y.role ≠ 1) || x.key = y.key then (s, { fixed := some STS_KEY_ROLE })
          else if overlaps src inLen dst out then (s, { fixed := some STS_OVERLAP })
          else
            (cyUpd s (fun c => { c with slots := aset (aset c.slots a { x with role := 1 }) b { y with role := 1 } }),
             { slots := [a, b], keys := [x.key, y.key], salt := x.salt })
        | _, _ => (s, { fixed := some STS_KEY_EMPTY })
    else if overlaps src inLen dst out && (aget s.cy.slots a).any (fun k => k.role ≤ 1) then (s, { fixed := some STS_OVERLAP })
    else match useSlot s a 1 with
    | .inl e => (s, { fixed := some e })
    | .inr (s', k) =>
      if op = 0x40 then
        if k.ctr ≥ 2 ^ 40 then (s', { fixed := some STS_NONCE_EXHAUSTED })
        else
          (cyUpd s' (fun c => { c with slots := aupd c.slots a (fun x => { x with ctr := k.ctr + 1 }) }),
           { slots := [a], keys := [k.key], salt := k.salt, nonce := be 4 k.salt ++ be 8 k.ctr })
      else (s', { slots := [a], keys := [k.key], salt := k.salt })

/-- A lookaside request starts (R449, R452). -/
def laStart (s : State) (sl op off aad len src dst : Nat) (cap : Option Nat) (iv : List Byte) (notify : Nat) (origin : LaFrom) : State :=
  let c := laCheck s sl op off aad len src dst cap
  let e := pickEngine c.1
  let k := c.2
  let r : LaReq :=
    { slice := sl, origin := origin, engine := e.1, op := op, aad := aad, len := len, src := src, dst := dst, iv := iv,
      slots := k.slots, keys := k.keys, salt := k.salt, nonce := k.nonce, fixed := k.fixed, notify := notify }
  let s := e.2
  engineNext (cyUpd s (fun y => { y with reqs := aset y.reqs y.nextReq r, nextReq := y.nextReq + 1 })) e.1

/-- What a request that read its source produces: the bytes for the destination, or a status. -/
def laOutput (r : LaReq) (src : List Byte) : List Byte ⊕ Byte :=
  let k := (r.keys[0]?).getD 0
  let x := (r.keys[0]?).getD 0 * 2 ^ 256 + (r.keys[1]?).getD 0
  let aad := src.take r.aad
  match r.op with
  | 0x40 => .inl (aad ++ Config.gcmEnc k r.nonce aad (slice src r.aad (r.len - r.aad)))
  | 0x41 =>
    match Config.gcmDec k (r.iv.take 12) aad (slice src r.aad (r.len - r.aad + 16)) with
    | some t => .inl (aad ++ t)
    | none => .inr STS_AUTH
  | 0x42 => .inl (Config.xtsEnc x r.iv (fit r.len src))
  | _ => .inl (Config.xtsDec x r.iv (fit r.len src))

/-- The end of a request: registers of its lane with the notify record before them, or its channel entry. The nonce that was drawn
for it is returned whatever its status is (R189). -/
def laEnd (s : State) (r : LaReq) (sts : Byte) (out : Nat) : State :=
  let drawn := r.op = 0x40 && r.len ≠ 0 && !r.nonce.isEmpty
  let nonce := if drawn then r.nonce else List.replicate 12 0
  match r.origin with
  | .lane l =>
    let n := agetD s.cy.lanes (r.slice * 16 + l) 0
    let s := if r.notify = 0 then s else
      slWrite s r.slice r.notify 0 (le 4 (sts.toNat + l * 2 ^ 8 + n % 2 ^ 20 * 2 ^ 12) ++ nonce)
    let s := cyUpd s (fun c => { c with lanes := aset c.lanes (r.slice * 16 + l) ((n + 1) % 2 ^ 20) })
    let s := (List.range 3).foldl (fun s w => wrN s (Reg.LN_NONCE_OUT r.slice l w) (leAt nonce (4 * w) 4)) s
    let s := wrN s (Reg.LN_OUT_LEN r.slice l) out
    let st := Reg.LN_STATUS r.slice l
    wrF (wrF (wrF s st 8 8 sts.toNat) st 1 1 1) st 0 1 0
  | .chan i idx =>
    match chanGet s i with
    | some c =>
      match c.ents.find? (fun e => e.idx == idx) with
      | some e => finishEnt s i idx { stsCpl i c e sts with len := out, aux := leAt nonce 0 4, time := if drawn then some (leAt nonce 4 8) else none }
      | none => s
    | none => s

/-- Requests that an engine had not completed are redone from the beginning by another (R453). -/
def laRedo (s : State) (e spare : Nat) : State × Nat :=
  let n := (s.cy.reqs.filter (fun r => r.2.engine == e)).length
  let s := cyUpd s (fun c => { c with reqs := amap c.reqs (fun _ r => if r.engine = e then { r with engine := spare } else r), serving := adel c.serving e })
  (engineNext (bump s Reg.CY_LA_REDO_CNT n) spare, n)

/-! Inline engines (R443 to R446). -/

def cyCtx (md : List Byte) : Nat := mdF md 0x54 0 18
def cyQp (md : List Byte) : Bool := mdF md 0x54 24 1 == 1
def cyMode (md : List Byte) : Nat := mdF md 0x54 25 2
def cyOdd (md : List Byte) : Nat := mdF md 0x54 27 1
def aadOff (md : List Byte) : Nat := mdF md 0x58 0 10
def ctOff (md : List Byte) : Nat := mdF md 0x58 10 10
def nonceOff (md : List Byte) : Nat := mdF md 0x58 20 10

/-- The offsets of a packet's cipher fields satisfy R444. -/
def fmtOk (md : List Byte) (mode len : Nat) : Bool :=
  aadOff md ≤ ctOff md && nonceOff md + 12 ≤ ctOff md && ctOff md ≤ 512 &&
  (if mode = 1 then ctOff md + 16 ≤ len else ctOff md ≤ len && len + 16 ≤ 16128)

/-- CY_IN_FMT_CNT counts. -/
def fmtCount (s : State) (p : Nat) : State := raiseLim (bump s (Reg.CY_IN_FMT_CNT p)) 0x804 0 [(4, p)]

/-- A packet is counted in CY_IN_NOKEY_CNT, and against the slice of its context. -/
def noKeyCount (s : State) (p sl : Nat) : State :=
  cyUpd (bump s (Reg.CY_IN_NOKEY_CNT p)) (fun c => { c with noKey := aset c.noKey sl ((agetD c.noKey sl 0 + 1) % 2 ^ 32) })

/-- An authentication failure in a stair, against a slice and its context (R445, R460). -/
def authFail (s : State) (p sl : Nat) (ctx : Option (Bool × Nat)) : State :=
  let s := cyUpd (bump s (Reg.CY_IN_AUTH_FAIL_CNT p)) (fun c => { c with authFail := aset c.authFail sl ((agetD c.authFail sl 0 + 1) % 2 ^ 32) })
  let s := match ctx with
    | some (qp, id) => match ctxGet s qp id with
      | some c => ctxPut s qp id { c with fails := (c.fails + 1) % 2 ^ 32 }
      | none => s
    | none => s
  raiseLim s 0x802 0 [(2, sl), (4, p)]

/-- A packet with its bytes replaced: the header window keeps its length where the packet still fills it. -/
def withBytes (k : Pkt) (bs : List Byte) : Pkt :=
  let n := min k.hdr.length bs.length
  { k with hdr := bs.take n, body := bs.drop n, md := mdPut k.md 0x10 0 14 bs.length }

/-- Verifies and decrypts a packet under a key. -/
def openPkt (k : Pkt) (key : Nat) : Option Pkt :=
  let b := pktBytes k
  let ct := ctOff k.md
  match Config.gcmDec key (slice b (nonceOff k.md) 12) (slice b (aadOff k.md) (ct - aadOff k.md)) (b.drop ct) with
  | some t => some (withBytes k (b.take ct ++ t))
  | none => none

/-- Writes a nonce into a packet. -/
def putNonce (k : Pkt) (nonce : List Byte) : Pkt := withBytes k (patch (pktBytes k) (nonceOff k.md) nonce)

/-- Encrypts a packet whose nonce is in place, and appends the tag. -/
def sealPkt (k : Pkt) (key : Nat) (nonce : List Byte) : Pkt :=
  let b := pktBytes k
  let ct := ctOff k.md
  withBytes k (b.take ct ++ Config.gcmEnc key nonce (slice b (aadOff k.md) (ct - aadOff k.md)) (b.drop ct))

/-- Packets that an engine of a flight has set aside. -/
def asideIn (s : State) (p fl : Nat) : List Aside := s.cy.aside.filter (fun a => a.stair == p && a.flight == fl)

/-- A packet of the context is already set aside in the flight. -/
def asideCtx (s : State) (p fl : Nat) (qp : Bool) (id : Nat) : Bool := (asideIn s p fl).any (fun a => a.qp == qp && a.ctx == id)

/-- What the egress engine does with a packet. -/
inductive EncRes where
  | pass (k : Pkt)
  | dropped
  | aside
deriving DecidableEq, Repr

/-- The counter of a transmit direction (R440, R441): its own within the epoch of a derived key, that of the slot for a key used
as it stands, so that no value is issued twice under one key. -/
def txCounter (s : State) (c : Cctx) : Nat :=
  if c.derive then c.txCtr else ((aget s.cy.slots c.slot).map (fun x => x.ctr)).getD 0

/-- The transmit direction of a context takes its next counter (R440, R441): the state and the context as it encrypts, or none
when the context is exhausted. -/
def nextCounter (s : State) (p : Nat) (qp : Bool) (id : Nat) (c : Cctx) : State × Option Cctx :=
  if c.state = 1 then (bump s (Reg.CY_IN_EXHAUST_DROP_CNT p), none)
  else if txCounter s c < 2 ^ 40 then
    let c := { c with txCtr := txCounter s c }
    let s := if c.derive then s else cyUpd s (fun y => { y with slots := aupd y.slots c.slot (fun x => { x with ctr := x.ctr + 1 }) })
    (ctxPut s qp id { c with txCtr := c.txCtr + 1 }, some c)
  else if c.derive then
    let c' := { c with txEpoch := (c.txEpoch + 1) % 2 ^ 32, txCtr := 0 }
    (bump (ctxPut s qp id { c' with txCtr := 1 }) (Reg.CY_IN_REKEY_CNT p), some c')
  else
    (raise (ctxPut s qp id { c with state := 1 }) 0x803 [(4, id)], none)

/-- CMODE at egress retire (R443 to R446) in physical stair p serving a role. A CMODE 1 that the packet brought along was
used in its ingress flight, and is no wrong use here. -/
def inlineEgress (s : State) (p role : Nat) (k : Pkt) : State × EncRes :=
  match cyMode k.md with
  | 1 => (if cyMode k.md0 = 1 then s else fmtCount s p, .pass k)
  | 2 =>
    let qp := cyQp k.md
    if !fmtOk k.md 2 (pktBytes k).length then (fmtCount s p, .dropped) else
    match (if qp then k.qp.bind (fun i => (ctxGet s true i).map (fun c => (i, c))) else ctxOf s false (cyCtx k.md)) with
    | none => (noKeyCount s p 0, .dropped)
    | some (id, c) =>
      if c.state = 2 || (aget s.cy.slots c.slot).isNone then (noKeyCount s p c.slice, .dropped) else
      match nextCounter s p qp id c with
      | (s, none) => (s, .dropped)
      | (s, some c) =>
        let salt := ((aget s.cy.slots c.slot).map (fun x => x.salt)).getD 0
        let nonce := be 4 salt ++ be 8 c.txCtr
        let k := putNonce k nonce
        let wait (s : State) : State × EncRes :=
          if (asideIn s p 1).length ≥ 64 then (bump s (Reg.CY_IN_ASIDE_DROP_CNT p), .dropped)
          else
            let a : Aside := { stair := p, flight := 1, qp := qp, ctx := id, dir := 0, epoch := c.txEpoch, pkt := some k, role := role, nonce := nonce }
            (cyUpd s (fun y => { y with aside := y.aside ++ [a] }), .aside)
        if asideCtx s p 1 qp id then wait s else
        match inlineKey s p qp id c 0 c.txEpoch with
        | .have key => (bump s (Reg.CY_IN_ENC_CNT p), .pass (sealPkt k key nonce))
        | .miss => wait s
        | .noKey => (noKeyCount s p c.slice, .dropped)
  | _ => (s, .pass k)

/-- How the verification of a packet ends (R442, R445). -/
inductive VerRes where
  | ok (k : Pkt)
  | failed
  | noKey
  | miss (epoch : Nat)
deriving DecidableEq, Repr

/-- The receive direction of a context verifies a packet: the state with the context's epochs moved on. -/
def verify (s : State) (p : Nat) (qp : Bool) (id : Nat) (c : Cctx) (k : Pkt) : State × VerRes :=
  let key (e : Nat) : KeyRes := inlineKey s p qp id c 1 e
  let previous : State × VerRes := match c.rxPrev with
    | some e => match key e with
      | .have x => match openPkt k x with
        | some k' => (s, .ok k')
        | none => (s, .failed)
      | .miss => (s, .miss e)
      | .noKey => (s, .noKey)
    | none => (s, .failed)
  if !c.derive || c.rxEpoch % 2 = cyOdd k.md then
    match key c.rxEpoch with
    | .have x => match openPkt k x with
      | some k' => (s, .ok k')
      | none => (s, .failed)
    | .miss => (s, .miss c.rxEpoch)
    | .noKey => (s, .noKey)
  else
    let next := (c.rxEpoch + 1) % 2 ^ 32
    match key next with
    | .have x => match openPkt k x with
      | some k' => (ctxPut s qp id { c with rxPrev := some c.rxEpoch, rxEpoch := next }, .ok k')
      | none => previous
    | .miss => (s, .miss next)
    | .noKey => (s, .noKey)

end Sys2Proof.Machine
end

