-- ==== Sys2Proof/Machine/RmOps.lean ====
section
/-! DEFINITION. Machine/RmOps.lean: shared operations of the remote memory transport (chapter 14): queue pairs and their
state cache, regions, packets, and what the transport engine does at ingress and egress. -/

namespace Sys2Proof.Machine

def rmUpd (s : State) (f : RmSt → RmSt) : State := { s with rm := f s.rm }
def qpGet (s : State) (i : Nat) : Option Qp := aget s.rm.qps i
def qpUpd (s : State) (i : Nat) (f : Qp → Qp) : State := rmUpd s (fun r => { r with qps := aupd r.qps i f })

def pmtuOf (q : Qp) : Nat := 1024 * 2 ^ q.pmtu
def windowOf (q : Qp) : Nat := if q.window = 0 then 4096 else q.window

/-- The signed difference of two 32-bit sequence numbers. -/
def psnDiff (a b : Nat) : Int := signed 32 (sub32 a b)

/-! Regions (R483 to R486). -/

def regionRef (s : State) (key : Nat) : State :=
  rmUpd s (fun r => { r with regions := aupd r.regions key (fun x => { x with refs := x.refs + 1 }) })

/-- A live region of a slice that grants an access and covers a range (R484, R482): a range of no bytes is not checked. -/
def regionOk (s : State) (sl key acc addr len : Nat) : Bool :=
  match aget s.rm.regions key with
  | some r => r.slice == sl && !r.revoking && r.access.testBit acc && (len == 0 || (r.addr ≤ addr && addr + len ≤ r.addr + r.len))
  | none => false

/-- The local check of an element list (R477): `wr` for a scatter list. -/
def elemsOk (s : State) (sl : Nat) (es : List (Nat × Nat × Nat)) (wr' : Bool) : Bool :=
  es.all (fun e => e.2.1 == 0 ||
    (match aget s.rm.regions e.2.2 with
     | some r => r.slice == sl && !r.revoking && r.addr ≤ e.1 && e.1 + e.2.1 ≤ r.addr + r.len && (!wr' || r.access.testBit 0)
     | none => false))

/-- The keys of the elements that hold bytes. -/
def elemKeys (es : List (Nat × Nat × Nat)) : List Nat := (es.filter (fun e => e.2.1 ≠ 0)).map (fun e => e.2.2)
def refKeys (s : State) (ks : List Nat) : State := ks.foldl regionRef s
def unrefKeys (s : State) (ks : List Nat) : State := ks.foldl regionUnref s

def elemsLen (es : List (Nat × Nat × Nat)) : Nat := (es.map (fun e => e.2.1)).foldl (· + ·) 0

/-- Writes bytes at an offset of a scatter list in a slice's memory; what lies beyond the list is not written. -/
def scatter (s : State) (sl attr : Nat) : List (Nat × Nat × Nat) → Nat → List Byte → State
  | [], _, _ => s
  | e :: es, off, bs =>
    if bs.isEmpty then s
    else if e.2.1 ≤ off then scatter s sl attr es (off - e.2.1) bs
    else
      let n := min bs.length (e.2.1 - off)
      scatter (slWrite s sl (e.1 + off) attr (bs.take n)) sl attr es 0 (bs.drop n)

/-- The pieces of memory that hold `n` bytes at an offset of an element list. -/
def elemSlice : List (Nat × Nat × Nat) → Nat → Nat → List (Nat × Nat)
  | [], _, _ => []
  | e :: es, off, n =>
    if n = 0 then []
    else if e.2.1 ≤ off then elemSlice es (off - e.2.1) n
    else (e.1 + off, min n (e.2.1 - off)) :: elemSlice es 0 (n - min n (e.2.1 - off))

/-! The state cache (R497 to R500). -/

def lineOfQp (s : State) (i : Nat) : Option (Nat × QpLine) := s.rm.lines.find? (fun e => e.2.qp == i)

/-- A packet is of a queue pair: generated for it, or accepted for it. -/
def pktOfQp (i : Nat) (k : Pkt) : Bool :=
  k.qp == some i || (mdF k.md 0x5C 0 1 == 1 && mdF k.md 0x5C 1 7 == 0 && mdF k.md 0x5C 8 24 == i)

/-- A packet of the queue pair is between flight entry and egress retire. -/
def qpInFlight (s : State) (i : Nat) : Bool :=
  s.stairs.any (fun e => e.2.ing.climbs.any (fun c => pktOfQp i c.pkt) || e.2.egr.climbs.any (fun c => pktOfQp i c.pkt)) ||
  s.land.queues.any (fun e => e.2.pkts.any (fun x => pktOfQp i x.pkt)) ||
  s.land.entry.any (fun e => e.2.other.any (pktOfQp i) || e.2.again.any (pktOfQp i))

/-- The line of a queue pair is busy (R498). -/
def qpBusy (s : State) (i : Nat) : Bool :=
  match qpGet s i with
  | some q =>
    q.sent.any (fun x => !x.acked) || !q.works.isEmpty || !q.resps.isEmpty || q.msgs.any (fun m => !m.done) || !q.waits.isEmpty ||
    !q.owed.isEmpty || qpInFlight s i || s.cy.aside.any (fun a => a.qp && a.ctx == i) ||
    (chanGet s i).any (fun c => !c.ents.isEmpty || c.fetching ≠ 0)
  | none => false

/-- A fetch of a queue pair's state starts in a free line, or waits for one (R498, R499). -/
def qpFetch (s : State) (i : Nat) : State :=
  if (lineOfQp s i).isSome || s.rm.wants.contains i then s else
  match qpGet s i with
  | some q =>
    if q.tstate = 0 then s else
    match afree s.rm.lines 262144 with
    | some l =>
      let s := rmUpd s (fun r => { r with lines := aset r.lines l { qp := i, st := 3, used := r.clock }, clock := r.clock + 1 })
      bump s (if q.spillHost then Reg.RM_FETCH_HOST_CNT else Reg.RM_FETCH_GM_CNT)
    | none =>
      let s := rmUpd s (fun r => { r with wants := r.wants ++ [i] })
      if s.rm.lines.all (fun e => qpBusy s e.2.qp) then raiseLim s 0x883 0 [(4, s.rm.wants.length)] else s
  | none => s

/-- A line has become free: the oldest waiting fetch takes it. -/
def qpNextFetch (s : State) : State :=
  match s.rm.wants with
  | i :: rest => qpFetch (rmUpd s (fun r => { r with wants := rest })) i
  | [] => s

/-- A queue pair leaves the cache at once. -/
def qpDropLine (s : State) (i : Nat) : State :=
  let s := rmUpd s (fun r => { r with lines := r.lines.filter (fun e => e.2.qp ≠ i), wants := r.wants.filter (fun x => x ≠ i), again := r.again.filter (fun x => x ≠ i) })
  qpNextFetch s

/-- A packet or a demand meets the line of a queue pair (R500): true when it proceeds. A line that is leaving and whose
write-back has not started is kept. -/
def qpTouch (s : State) (i : Nat) : State × Bool :=
  match lineOfQp s i with
  | some (l, x) =>
    let s := rmUpd s (fun r => { r with lines := aset r.lines l { x with used := r.clock }, clock := r.clock + 1 })
    match x.st with
    | 0 => (s, true)
    | 1 => (bump (rmUpd s (fun r => { r with lines := aset r.lines l { x with st := 0 } })) Reg.RM_EVICT_ABORT_CNT, true)
    | 2 => (rmUpd s (fun r => { r with again := if r.again.contains i then r.again else r.again ++ [i] }), false)
    | _ => (s, false)
  | none => (qpFetch s i, false)

/-- The line number of a queue pair. -/
def qpLineNo (s : State) (i : Nat) : Nat := ((lineOfQp s i).map (fun e => e.1)).getD 0

/-! Packets (R465 to R470). -/

/-- Bytes of the extension header of an opcode, in the last packet of its message or not. -/
def extLen (op : Nat) (last : Bool) : Nat :=
  match op with
  | 1 => 8
  | 2 => if last then 12 else 8
  | 3 => 16
  | 4 => if last then 20 else 16
  | 5 => 16
  | 6 => 8
  | 0x10 => 64
  | _ => 4

def rmOpcode (op : Nat) : Bool := (1 ≤ op && op ≤ 6) || op == 0x10 || op == 0x12

/-- A GRMT header as read from a packet. -/
structure Grmt where
  ver   : Nat
  zero  : Nat
  op    : Nat
  enc   : Bool
  odd   : Nat
  ackReq : Bool
  first : Bool
  last  : Bool
  dst   : Nat
  psn   : Nat
  msn   : Nat
  time  : Nat
  src   : Nat
  /-- The extension header, and the offset and length of the payload. -/
  ext   : List Byte
  payOff : Nat
  payLen : Nat
  /-- The bytes of the packet hold every header and the UDP length covers them. -/
  whole : Bool
  nonce : Nat
deriving DecidableEq, Repr

/-- Reads the GRMT packet of LAYER[0] (R462). -/
def readGrmt (md b : List Byte) (sealed' : Bool) : Grmt :=
  let o := layerOff md 0 3
  let udp := beAt b (layerOff md 0 2 + 4) 2
  let w := beAt b (o + 2) 2
  let op := beAt b (o + 1) 1
  let last := w.testBit 11
  let x := extLen op last
  let tag := if w.testBit 15 then 16 else 0
  { ver := beAt b o 1 / 16, zero := beAt b o 1 % 16 + w % 2 ^ 11, op := op, enc := w.testBit 15, odd := fld w 14 1,
    ackReq := w.testBit 13, first := w.testBit 12, last := last, dst := beAt b (o + 4) 4, psn := beAt b (o + 8) 4,
    msn := beAt b (o + 12) 4, time := beAt b (o + 16) 8, nonce := beAt b (o + 24) 12, src := beAt b (o + 36) 4,
    ext := slice b (o + 40) x, payOff := o + 40 + x, payLen := udp - 8 - 40 - x - tag,
    whole := o ≠ 0x3FF && 8 + 40 + x + tag ≤ udp && o + (udp - 8) ≤ b.length + (if sealed' then 0 else tag) }

/-- The UDP source port of a queue pair (R474). -/
def sportOf (i : Nat) (q : Qp) : Nat := if q.sport = 0 then 0xC000 ||| (i % 2 ^ 14) else q.sport

/-- A packet's bytes as the device builds them (R466, R468), before SEND_TIME, the nonce, encryption and the UDP checksum
of egress. `fl` are the flags above bit 10 of word 0x02. -/
def buildGrmt (s : State) (i : Nat) (c : Chan) (q : Qp) (path : List Byte) (op fl psn msn : Nat) (ext pay : List Byte) : List Byte :=
  let tag := if q.enc then 16 else 0
  let w := fl + (if q.enc then 2 ^ 15 + (q.sec.map (fun x => x.txEpoch % 2)).getD 0 * 2 ^ 14 else 0)
  let grmt := be 1 0x10 ++ be 1 op ++ be 2 w ++ be 4 q.peer ++ be 4 psn ++ be 4 msn ++ be 8 0 ++ be 12 0 ++ be 4 (chanHandle i c) ++ ext ++ pay
  let dport := if leAt path 0x14 2 = 0 then rdF s Reg.RM_UDP_PORT 0 16 else leAt path 0x14 2
  let ulen := 8 + grmt.length + tag
  let udp := be 2 (sportOf i q) ++ be 2 dport ++ be 2 ulen ++ be 2 0 ++ grmt
  let v6 := leAt path 0 4 / 2 % 2 == 1
  let ttl := if leAt path 7 1 = 0 then 64 else leAt path 7 1
  let tos := leAt path 6 1 % 64 * 4 + 2
  let ip := if v6 then
      be 4 (6 * 2 ^ 28 + tos * 2 ^ 20) ++ be 2 ulen ++ be 1 17 ++ be 1 ttl ++ slice path 0x18 16 ++ slice path 0x28 16
    else
      let h := be 1 0x45 ++ be 1 tos ++ be 2 (20 + ulen) ++ be 2 0 ++ be 2 0x4000 ++ be 1 ttl ++ be 1 17 ++ be 2 0 ++ slice path 0x18 4 ++ slice path 0x28 4
      patch h 10 (be 2 (inetCsum h))
  let vlan := if leAt path 0 4 / 4 % 2 = 1 then be 2 0x8100 ++ be 2 (leAt path 4 2) else []
  slice path 8 6 ++ slice path 0xE 6 ++ vlan ++ be 2 (if v6 then 0x86DD else 0x0800) ++ ip ++ udp

/-- The sum of the pseudo header and datagram of LAYER[0], folded. -/
def udpSum (md b : List Byte) : Nat :=
  let ip := layerOff md 0 1
  let u := layerOff md 0 2
  let n := beAt b (u + 4) 2
  let addrs := if layerL3 md 0 = 2 then slice b (ip + 8) 32 else slice b (ip + 12) 8
  fold16 (sum16 addrs + 17 + n + sum16 (slice b u n))

/-- The UDP checksum of a received packet holds (R467). -/
def udpOk (md b : List Byte) : Bool :=
  let u := layerOff md 0 2
  if beAt b (u + 6) 2 = 0 then layerL3 md 0 ≠ 2 else udpSum md b == 0xFFFF

/-- A packet with its UDP checksum computed (R466). -/
def fillCsum (k : Pkt) : Pkt :=
  let u := layerOff k.md 0 2
  if u = 0x3FF || layerOff k.md 0 1 = 0x3FF then k else
  let b := patch (pktBytes k) (u + 6) (be 2 0)
  let x := 0xFFFF - udpSum k.md b
  withBytes k (patch b (u + 6) (be 2 (if x = 0 then 0xFFFF else x)))

/-- The extension header of an acknowledgement (R469) as the receiver stands. -/
def ackExt (q : Qp) (syn echo : Nat) (owd : Int) (nak rnr : Nat) : List Byte :=
  let bit (j : Nat) : Nat := b2n (q.rcvd.contains (add32 q.epsn (1 + j)))
  let sack := (List.range 32).map (fun b => BitVec.ofNat 8 ((List.range 8).foldl (fun a j => a * 2 + bit (8 * b + j)) 0))
  let o := if owd > 0x7FFFFFFF then 0x7FFFFFFF else if owd < -0x80000000 then -0x80000000 else owd
  be 4 q.epsn ++ be 1 syn ++ be 1 0 ++ be 2 (min q.ce 65535) ++ be 8 echo ++ be 4 (unsign 32 o) ++ be 4 nak ++ be 2 rnr ++ be 6 0 ++ sack

/-- An acknowledgement is owed. -/
def oweAck (s : State) (i syn echo : Nat) (owd : Int) (nak : Nat) : State :=
  let s := if syn = 0 then s else bump s Reg.RM_NAK_TX_CNT
  qpUpd s i (fun q => { q with owed := q.owed ++ [(0x10, ackExt q syn echo owd nak (if syn = 1 then q.rnrTime else 0))], ce := 0, unacked := 0, ackAt := none })

/-! ERROR (R501). -/

/-- A queue pair enters ERROR with a status; `cause` is the entry that takes it, `abort` whether an ABORT is sent. -/
def qpError (s : State) (i : Nat) (sts : Byte) (cause : Option Nat) (abort : Bool) : State :=
  match qpGet s i, chanGet s i with
  | some q, some c =>
    if q.tstate = 4 then s else
    let s := chanError s i sts cause
    let s := chanUpd s i (fun c => { c with ents := c.ents.map (fun e => if e.result.isSome then e else { e with result := some (stsCpl i c e STS_FLUSHED) }) })
    let s := idleCheck s i
    let s := q.msgs.foldl (fun s m =>
      let s := match m.buf with
        | some (j, idx) => match chanGet s j with
          | some d => match d.ents.find? (fun e => e.idx == idx) with
            | some e => finishEnt s j idx { stsCpl j d e STS_FLUSHED with handle := chanHandle i c }
            | none => s
          | none => s
        | none => s
      unrefKeys (regionUnref s m.key) m.keys) s
    let s := q.works.foldl (fun s w => unrefKeys s w.keys) s
    let s := q.resps.foldl (fun s r => regionUnref s r.key) s
    let s := q.waits.foldl (fun s r => regionUnref s r.key) s
    let naks := q.owed.filter (fun o => o.1 == 0x10 && beAt o.2 4 1 ≥ 2)
    let s := qpUpd s i (fun q =>
      { q with tstate := 4, sent := [], works := [], resps := [], msgs := [], waits := [], rnrWait := none, ackAt := none, unacked := 0,
               owed := naks ++ (if abort && (q.tstate = 2 || q.tstate = 3) then [(0x12, be 1 sts.toNat ++ be 3 0)] else []) })
    raiseLim (bump s Reg.RM_ERROR_CNT) 0x880 0 [(4, chanHandle i c), (1, sts.toNat)]
  | _, _ => s

/-- A slice that leaves FROZEN for a state by any other way than a thaw says so (R239). -/
def thawEvent (s : State) (sl : Nat) (x : Slice) (new : Nat) : State := if x.state = 4 then raise s 0x024 [(2, sl), (4, new)] else s

/-- A slice enters FAULTED (R225): its channels and queue pairs enter ERROR. -/
def sliceFault (s : State) (sl : Nat) (sts : Byte) : State :=
  match aget s.slices sl with
  | none => s
  | some x =>
    if x.state = 2 || x.state = 3 then s else
    let s := { s with slices := aset s.slices sl { x with state := 3, fault := sts.toNat, freeze := none } }
    let s := (s.rm.qps.filter (fun e => (chanGet s e.1).any (fun c => c.slice == sl))).foldl (fun s e => qpError s e.1 sts none true) s
    let s := (s.ch.chans.filter (fun e => e.2.slice == sl)).foldl (fun s e => ringError s e.1 sts) s
    let s := if x.freeze.isSome then adminWake s 0x4C sl { sts := STS_SLICE_STATE } else s
    raise (thawEvent s sl x 3) 0x021 [(2, sl), (1, sts.toNat)]

/-- The responder sends a NAK and enters ERROR (R492): 2 NAK_INVALID, 3 NAK_ACCESS, 4 NAK_OP. -/
def nakError (s : State) (i syn psn echo : Nat) (owd : Int) : State :=
  let s := oweAck s i syn echo owd psn
  qpError s i (if syn = 2 then STS_RM_REMOTE_INVALID else if syn = 3 then STS_RM_REMOTE_ACCESS else STS_RM_REMOTE_OP) none true

/-! The ingress engine (R462 to R464, R484). -/

/-- A packet of the wire that the engine acts on. -/
def rmActs (md : List Byte) : Bool := mdF md 0x5C 0 1 == 1 && layerTun md 0 == 5

/-- Zero fields and payload rules of an opcode (R468, R469) for a queue pair's PMTU. -/
def grmtOk (h : Grmt) (pmtu : Nat) : Bool :=
  h.ver == 1 && rmOpcode h.op && h.whole && h.zero == 0 && (h.enc || h.nonce == 0) &&
  (h.op ≤ 5 || h.msn == 0) &&
  (match h.op with
   | 5 => h.payLen == 0
   | 0x10 => h.payLen == 0 && beAt h.ext 5 1 == 0 && beAt h.ext 0x1A 6 == 0 && beAt h.ext 4 1 ≤ 4 &&
       (beAt h.ext 4 1 ≠ 0 || beAt h.ext 0x14 4 == 0)
   | 0x12 => h.payLen == 0 && beAt h.ext 1 3 == 0
   | _ => if h.last then decide (h.payLen ≤ pmtu) else h.payLen == pmtu)

/-- The queue pair that a handle names. -/
def qpOf (s : State) (h : Nat) : Option (Nat × Chan × Qp) :=
  match chanOf s h with
  | some (i, c) => if c.kind = 4 then (qpGet s i).map (fun q => (i, c, q)) else none
  | none => none

/-- The slice is frozen or freezing (R234). -/
def sliceFrozen (s : State) (sl : Nat) : Bool := (aget s.slices sl).any (fun x => x.state == 4 || x.freeze.isSome)

/-- A packet that a frozen slice does not take: any; while the freeze runs, one that starts a new incoming message (R234). -/
def frozenFor (s : State) (sl : Nat) (q : Qp) (h : Grmt) : Bool :=
  (aget s.slices sl).any (fun x => x.state == 4 || (x.freeze.isSome && 1 ≤ h.op && h.op ≤ 5 && !q.msgs.any (fun m => m.msn == h.msn && m.op ≠ 0)))

/-- The queue pair whose state a packet at the last step needs, when it needs one (R499). -/
def rmNeeds (s : State) (k : Pkt) : Option Nat :=
  if !rmActs k.md then none else
  match qpOf s (readGrmt k.md (pktBytes k) true).dst with
  | some (i, _, q) => if q.tstate = 0 then none else some i
  | none => none

/-- The lowest refusal code that applies; none when the packet is accepted (R463, R470). -/
def rmRefused (s : State) (h : Grmt) : Option Nat :=
  match qpOf s h.dst with
  | none => if grmtOk h h.payLen then some 2 else some 1
  | some (_, c, q) =>
    if !grmtOk h (pmtuOf q) || h.enc ≠ q.enc then some 1
    else if q.tstate < 2 || q.tstate = 4 || h.src ≠ q.peer then some 3
    else if h.op ≤ 6 && psnDiff h.psn q.epsn ≥ 4096 then some 4
    else if frozenFor s c.slice q h then some 5
    else if rdF s Reg.RM_UDP_PORT 0 16 = 0 then some 6
    else none

/-- The key check of a request's first processed packet (R484): none where none is due. -/
def rkeyCheck (s : State) (c : Chan) (q : Qp) (h : Grmt) : Option Bool :=
  if h.op < 3 || 5 < h.op then none
  else if psnDiff h.psn q.epsn < 0 || q.rcvd.contains h.psn then none
  else if q.msgs.any (fun m => m.msn == h.msn && m.key ≠ 0) then none
  else some (regionOk s c.slice (beAt h.ext 8 4) (if h.op = 5 then 2 else 1) (beAt h.ext 0 8) (beAt h.ext 12 4))

/-- What the ingress engine does with a packet of the wire at retire: refused with a code, or accepted. -/
def rmIngress (s : State) (k : Pkt) : State × Option Pkt :=
  let h := readGrmt k.md (pktBytes k) true
  match rmRefused s h with
  | some c =>
    let s := match (if c = 3 then qpOf s h.dst else none) with
      | some (i, _, q) =>
        if q.cut.contains h.msn && 1 ≤ h.op && h.op ≤ 5 then oweAck s i 3 h.time ((leAt k.md 0 8 : Int) - (h.time : Int)) h.psn else s
      | none => s
    (raiseLim (bump s (Reg.RM_REFUSE_CNT c)) 0x881 0 [(4, c)], none)
  | none =>
    match qpOf s h.dst with
    | none => (s, none)
    | some (i, c, q) =>
      let chk := rkeyCheck s c q h
      let key := beAt h.ext 8 4
      let s := if chk = some true then regionRef s key else s
      let md := mdPut (mdPut k.md 0x5C 1 7 0) 0x5C 8 24 i
      let md := mdPut (mdPut (mdPut md 0x40 0 3 2) 0x44 0 18 q.rxQ) 0x48 0 32 (chanHandle i c)
      let t := layerOff md 0 3
      let md := if q.enc then
          mdPut (mdPut md 0x54 0 32 (qpLineNo s i + 2 ^ 24 + 2 ^ 25 + h.odd * 2 ^ 27)) 0x58 0 32 (t + (h.payOff) * 2 ^ 10 + (t + 24) * 2 ^ 20)
        else md
      (bump64 s Reg.RM_RX_PKT_CNT_LO, some { k with md := md, rkey := chk.map (fun ok => if ok then key else 0) })

/-- The engine at the ingress retire of a packet that the device generated (R464). -/
def rmForward (s : State) (k : Pkt) : Pkt :=
  match k.qp with
  | some i =>
    match qpGet s i with
    | some q =>
      let d := mdDisp k.md
      if d = 1 || d = 3 || d = 4 then k else
      let op := beAt (pktBytes k) (layerOff k.md 0 3 + 1) 1
      let ackQ := ((aget s.rm.paths q.path).map (fun p => leAt p 0x38 4 % 2 ^ 18)).getD 0
      let qn := if op = 0x10 || op = 0x12 then ackQ else q.txQ
      { k with md := mdPut (mdPut (mdPut (mdPut k.md 0x40 0 3 2) 0x44 0 18 qn) 0x48 0 32 0) 0x5C 8 24 i }
    | none => k
  | none => k

/-! The egress engine: packets that go out (R464, R468). -/

/-- SEND_TIME, the transmit counter's fields and the counters of a packet that the device sends. -/
def rmSend (s : State) (k : Pkt) : State × Pkt :=
  match k.qp with
  | some i =>
    match qpGet s i with
    | some q =>
      let t := layerOff k.md 0 3
      if t = 0x3FF then (s, k) else
      let now := nowNs s
      let k := withBytes k (patch (pktBytes k) (t + 16) (be 8 now))
      let h := readGrmt k.md (pktBytes k) false
      let k := if q.enc then
          let c := q.sec.getD { slice := 0, slot := 0, derive := true, side := 0, label := [], txEpoch := 0, rxEpoch := 0 }
          let e := if c.txCtr < 2 ^ 40 then c.txEpoch else c.txEpoch + 1
          let k := withBytes k (patch (pktBytes k) (t + 2) (be 2 (putFld (beAt (pktBytes k) (t + 2) 2) 14 1 e)))
          { k with md := mdPut (mdPut k.md 0x54 0 32 (qpLineNo s i + 2 ^ 24 + 2 ^ 26)) 0x58 0 32 (t + h.payOff * 2 ^ 10 + (t + 24) * 2 ^ 20) }
        else k
      let s := if h.op ≤ 6 then
          qpUpd s i (fun q => { q with sent := q.sent.map (fun x => if x.psn = h.psn then { x with sent := now } else x) })
        else s
      (bump64 s Reg.RM_TX_PKT_CNT_LO, k)
    | none => (s, k)
  | none => (s, k)

/-! Congestion control (R496). -/

def ccInit (s : State) (p : Nat) : CcSt :=
  { rate := rdN s (Reg.RM_CC_MAX_RATE p), base := 0x7FFFFFFF, winMin := 0x7FFFFFFF, winStart := nowNs s, stepGen := rdN s Reg.FT_STEP_GEN }

/-- One update of the control state of a queue for an ACK. Where the target is zero the spec's quotient has no value, and
the cut is a free value of at most half the rate. -/
def ccUpdate (s : State) (txQ p echo : Nat) (owd : Int) (ce : Nat) : State :=
  let now := nowNs s
  let c := agetD s.land.cc txQ (ccInit s p)
  let c := if c.stepGen = rdN s Reg.FT_STEP_GEN then c else
    { c with base := 0x7FFFFFFF, winMin := 0x7FFFFFFF, winStart := now, stepGen := rdN s Reg.FT_STEP_GEN }
  let rtt := now - echo
  let c := { c with winMin := min c.winMin owd }
  let c := if c.winStart + rdN s (Reg.RM_CC_BASE_WIN_US p) * 1000 ≤ now then { c with base := c.winMin, winMin := owd, winStart := now } else c
  let qd := owd - min c.base c.winMin
  let tgt := rdN s (Reg.RM_CC_TARGET_NS p)
  let above := decide (qd > (tgt : Int))
  let r := draw s
  let s := if above && tgt = 0 then r.2 else s
  let cut := if !above then 0 else if tgt = 0 then r.1 % (c.rate / 2 + 1) else c.rate * min (qd.toNat - tgt) tgt / (2 * tgt)
  let sh := rdF s (Reg.RM_CC_STEP p) 16 8
  let cut := if ce ≠ 0 then max cut (c.rate / 2 ^ (if sh = 0 then 1 else sh)) else cut
  let c := if cut ≠ 0 then
      (if c.lastCut + rtt ≤ now then { c with rate := c.rate - cut, lastCut := now } else c)
    else if c.lastInc + rdF s (Reg.RM_CC_STEP p) 0 16 * 1000 ≤ now then { c with rate := c.rate + rdN s (Reg.RM_CC_AI p), lastInc := now }
    else c
  let c := { c with rate := min (max c.rate (rdN s (Reg.RM_CC_MIN_RATE p))) (rdN s (Reg.RM_CC_MAX_RATE p)) }
  let s := { s with land := { s.land with cc := aset s.land.cc txQ c } }
  nodeUpd s 0 txQ (fun n => { nodeRefill s n with cfg := n.cfg.set 2 c.rate })

/-! Acknowledgements (R478, R485, R490 to R492). -/

/-- A work request is complete: its entry and the references on its local keys. -/
def workDone (s : State) (i : Nat) (w : TxWork) : State :=
  let s := qpUpd (unrefKeys s w.keys) i (fun q => { q with works := q.works.filter (fun x => x.idx ≠ w.idx) })
  match chanGet s i with
  | some c => match c.ents.find? (fun e => e.idx == w.idx) with
    | some e => finishEnt s i w.idx { stsCpl i c e STS_OK with len := w.len }
    | none => s
  | none => s

/-- Works and responses whose packets have all been acknowledged end. -/
def ackDone (s : State) (i : Nat) : State :=
  match qpGet s i with
  | some q =>
    let open' (op : Nat → Bool) (w : Nat) : Bool := q.sent.any (fun x => op x.op && x.work == w && !x.acked)
    let s := (q.works.filter (fun w => w.op ≠ 5 && w.full && !open' (fun o => o ≠ 6) w.idx)).foldl (fun s w => workDone s i w) s
    let ends := q.resps.filter (fun r => r.full && !open' (fun o => o == 6) r.reqPsn)
    let s := ends.foldl (fun s r => regionUnref s r.key) s
    qpUpd s i (fun q => { q with resps := q.resps.filter (fun r => !ends.contains r) })
  | none => s

/-- An ACK or NAK is applied to its queue pair. -/
def ackProcess (s : State) (i : Nat) (ext : List Byte) : State :=
  match qpGet s i with
  | none => s
  | some q =>
    let cum := beAt ext 0 4
    let syn := beAt ext 4 1
    let echo := beAt ext 8 8
    let nak := beAt ext 0x14 4
    let s := if syn = 0 then s else bump s Reg.RM_NAK_RX_CNT
    let sacked (psn : Nat) : Bool :=
      let d := psnDiff psn cum - 1
      0 ≤ d && d < 256 && (beAt ext (0x20 + d.toNat / 8) 1).testBit (7 - d.toNat % 8)
    let hit (x : TxPkt) : Bool := psnDiff x.psn cum < 0 || sacked x.psn
    let progress := q.sent.any (fun x => !x.acked && hit x)
    let reo := rdF s Reg.RM_REO_NS 0 16
    let sent := (q.sent.map (fun x =>
      if hit x then { x with acked := true, resend := false }
      else if !x.acked && x.sent + reo ≤ echo && psnDiff x.psn cum ≤ 256 then { x with resend := true } else x)).dropWhile (fun x => x.acked)
    let una := ((sent.head?).map (fun x => x.psn)).getD q.sqNxt
    let s := qpUpd s i (fun q =>
      { q with sent := sent, sqUna := una,
               rtoAt := if sent.isEmpty then 0 else if progress then s.time.elapsed else q.rtoAt,
               rto := if progress then q.rtoMin else q.rto, expiries := if progress then 0 else q.expiries })
    let s := ackDone s i
    let s := if q.ccEn then ccUpdate s q.txQ q.ccProf echo (signed 32 (beAt ext 0x10 4)) (beAt ext 6 2) else s
    let cause := (q.sent.find? (fun x => x.psn == nak && x.op ≠ 6)).map (fun x => x.work)
    match syn with
    | 0 => s
    | 1 =>
      let s := qpUpd s i (fun q => { q with rnrCnt := q.rnrCnt + 1, rnrWait := some (s.time.elapsed + beAt ext 0x18 2 * usUnits, nak, beAt ext 0x18 2 * usUnits) })
      if q.rnrRetry ≠ 15 && q.rnrCnt + 1 > q.rnrRetry then qpError s i STS_RM_RNR_EXCEEDED cause true else s
    | 2 => qpError s i STS_RM_REMOTE_INVALID cause true
    | 3 => qpError s i STS_RM_REMOTE_ACCESS cause true
    | _ => qpError s i STS_RM_REMOTE_OP cause true

/-! The egress engine: packets received (R479 to R482, R488, R489). -/

/-- Packets of a message. -/
def msgPkts (q : Qp) (len : Nat) : Nat := max 1 (ceilDiv len (pmtuOf q))

/-- The first PSN of the message of a packet, where the packet shows it. -/
def firstPsn (q : Qp) (h : Grmt) : Nat :=
  if h.first then h.psn
  else if h.op ≤ 2 then sub32 h.psn (beAt h.ext 0 4 / pmtuOf q)
  else if h.last then sub32 h.psn (msgPkts q (beAt h.ext 12 4) - 1)
  else h.psn

/-- Receive completions go out in message order (R479). -/
def rxComplete (s : State) (i : Nat) : Nat → State
  | 0 => s
  | n + 1 =>
    match qpGet s i, chanGet s i with
    | some q, some c =>
      match q.msgs.find? (fun m => m.msn == q.rxMsn && m.done) with
      | some m =>
        let s := qpUpd s i (fun q => { q with rxMsn := add32 q.rxMsn 1, msgs := q.msgs.filter (fun x => x.msn ≠ m.msn) })
        let s := unrefKeys s m.keys
        let s := match m.buf with
          | some (j, idx) =>
            match chanGet s j with
            | some d => match d.ents.find? (fun e => e.idx == idx) with
              | some e =>
                let imm := m.op = 2 || m.op = 4
                let trunc := m.op ≤ 2 && elemsLen e.elems < m.len
                finishEnt s j idx { stsCpl j d e (if trunc then STS_RX_TRUNC else STS_OK) with
                  handle := chanHandle i c, op := if m.op = 1 then 0x30 else if m.op = 2 then 0x31 else 0x33, len := m.len,
                  flags := if imm then 4 else 0, aux := if imm then m.imm else 0 }
              | none => s
            | none => s
          | none => s
        rxComplete s i n
      | none => s
    | _, _ => s

/-- READs whose lower PSNs have all been received are executed, at most 64 at once (R480). -/
def startReads (s : State) (i : Nat) : State :=
  qpUpd s i (fun q =>
    let ready := (q.waits.filter (fun w => psnDiff w.psn q.epsn < 0)).take (64 - q.resps.length)
    { q with waits := q.waits.filter (fun w => !ready.contains w),
             resps := q.resps ++ ready.map (fun w => { reqPsn := w.psn, va := w.va, len := w.len, key := w.key, since := s.time.elapsed }) })

/-- What the responder finds when it processes a data packet: the state with the data placed, or a NAK. -/
inductive RxRes where
  | placed (s : State)
  | nak (syn : Nat)
  | local (sts : Byte) (idx : Nat)
deriving DecidableEq, Repr

/-- One buffer for a message: taken from the SRQ, or the NAK that answers (R481, R492). -/
def takeOne (s : State) (c : Chan) (m : RxMsg) : (State × RxMsg) ⊕ Nat :=
  match (if c.srq = 0 then none else chanOf s c.srq) with
  | none => .inr 2
  | some (j, d) =>
    match nextBuf d with
    | none => .inr 1
    | some e =>
      if !elemsOk s c.slice e.elems true then .inr 4 else
      let ks := elemKeys e.elems
      let s := chanUpd (refKeys s ks) j (fun d => { d with ents := d.ents.map (fun x => if x.idx = e.idx then { x with begun := true } else x) })
      .inl (s, { m with buf := some (j, e.idx), keys := ks })

/-- The buffer of a message that needs one (R479): buffers are taken in MSN order, so that each earlier message of which no
packet has arrived yet takes one first. -/
def takeBuf (s : State) (i : Nat) (c : Chan) (q : Qp) (m : RxMsg) : (State × RxMsg) ⊕ Nat :=
  if m.buf.isSome then .inl (s, m) else
  let n := sub32 m.msn q.rxMsn
  let early := if n < 4096 then ((List.range n).map (fun k => add32 q.rxMsn k)).filter (fun x => !q.msgs.any (fun y => y.msn == x)) else []
  let r : State ⊕ Nat := early.foldl (fun (acc : State ⊕ Nat) x =>
    match acc with
    | .inl s =>
      match takeOne s c { msn := x, op := 0, len := 0, since := s.time.elapsed } with
      | .inl (s, y) => .inl (qpUpd s i (fun q => { q with msgs := q.msgs ++ [y] }))
      | .inr e => .inr e
    | .inr e => .inr e) (.inl s)
  match r with
  | .inl s => takeOne s c m
  | .inr e => .inr e

/-- A message that turns out to need no buffer gives back the one taken ahead for it. -/
def giveBuf (s : State) (m : RxMsg) : State × RxMsg :=
  match m.buf with
  | some (j, idx) =>
    (chanUpd (unrefKeys s m.keys) j (fun d => { d with ents := d.ents.map (fun x => if x.idx = idx then { x with begun := false } else x) }),
     { m with buf := none, keys := [] })
  | none => (s, m)

/-- The entry of a message's buffer, its elements and its descriptor. -/
def bufEnt (s : State) (m : RxMsg) : Option Ent := m.buf.bind (fun b => (chanGet s b.1).bind (fun d => d.ents.find? (fun e => e.idx == b.2)))
def bufElems (s : State) (m : RxMsg) : List (Nat × Nat × Nat) := ((bufEnt s m).map (fun e => e.elems)).getD []
def bufDesc (s : State) (m : RxMsg) : List Byte := ((bufEnt s m).map (fun e => e.desc)).getD []

/-- Places a data packet of a request or a READ response. `ok` is the outcome of its host write. -/
def rxPlace (s : State) (i : Nat) (c : Chan) (q : Qp) (k : Pkt) (h : Grmt) (pay : List Byte) (ok : Byte) : RxRes :=
  let attr (d : List Byte) : Nat := descAttr s c.slice d (boundVec s c)
  if h.op = 6 then
    match q.works.find? (fun w => w.op == 5 && w.psn0 == beAt h.ext 0 4) with
    | some x =>
      match c.ents.find? (fun e => e.idx == x.idx) with
      | some e =>
        if ok ≠ STS_OK && !pay.isEmpty then .local ok x.idx else
        let s := scatter s c.slice (attr e.desc) e.elems (beAt h.ext 4 4) pay
        let x := { x with got := x.got + pay.length }
        let s := qpUpd s i (fun q => { q with works := q.works.map (fun y => if y.idx = x.idx then x else y) })
        .placed (if x.got ≥ x.len then workDone s i x else s)
      | none => .placed s
    | none => .placed s
  else
    let len := if h.op ≤ 2 then beAt h.ext 4 4 else beAt h.ext 12 4
    let fresh : RxMsg := { msn := h.msn, op := h.op, len := len, since := s.time.elapsed }
    let m := match q.msgs.find? (fun m => m.msn == h.msn) with
      | some m => if m.op = 0 then { fresh with buf := m.buf, keys := m.keys } else m
      | none => fresh
    let key := beAt h.ext 8 4
    let va := beAt h.ext 0 8
    -- the access check (R484): a reference is held once per message
    let acc : (State × RxMsg) ⊕ Nat :=
      if h.op ≤ 2 then .inl (s, m)
      else if m.key ≠ 0 then
        let s := releaseRkey s k
        match aget s.rm.regions m.key with
        | some r => if len = 0 || (r.addr ≤ va && va + pay.length ≤ r.addr + r.len) then .inl (s, m) else .inr 3
        | none => .inr 3
      else match k.rkey with
        | some x => if x = 0 then .inr 3 else .inl (s, { m with key := key })
        | none => .inr 3
    match acc with
    | .inr n => .nak n
    | .inl (s, m) =>
      let need := h.op == 1 || h.op == 2 || h.op == 4
      match (if need then takeBuf s i c q m else .inl (giveBuf s m)) with
      | .inr n => .nak n
      | .inl (s, m) =>
        if ok ≠ STS_OK && !pay.isEmpty then .nak 4 else
        let s := if h.op ≤ 2 then scatter s c.slice (attr (bufDesc s m)) (bufElems s m) (beAt h.ext 0 4) pay
          else if h.op ≤ 4 then (if pay.isEmpty then s else slWrite s c.slice va (payloadAttr s c.slice false none (boundVec s c)) pay) else s
        let imm := if (h.op = 2 || h.op = 4) && h.last then beAt h.ext (if h.op = 2 then 8 else 16) 4 else m.imm
        let placed := m.placed ++ [h.psn]
        let fin := h.op = 5 || placed.length ≥ msgPkts q len
        let s := if fin && h.op ≠ 5 then regionUnref s m.key else s
        let m := { m with imm := imm, placed := placed, done := fin, key := if fin then 0 else m.key }
        let s := qpUpd s i (fun q =>
          { q with msgs := q.msgs.filter (fun x => x.msn ≠ m.msn) ++ [m],
                   waits := if h.op = 5 then q.waits ++ [{ psn := h.psn, va := va, len := len, key := key }] else q.waits })
        .placed s

/-- The PSN after the last contiguous received one. -/
def advance : Nat → Nat → List Nat → Nat
  | 0, e, _ => e
  | n + 1, e, l => if l.contains e then advance n (add32 e 1) l else e

/-- A data packet of a queue pair is applied at egress retire. `ok` is the outcome of its host write. -/
def rxData (s : State) (i : Nat) (c : Chan) (q : Qp) (k : Pkt) (h : Grmt) (ok : Byte) : State :=
  let b := pktBytes k
  let owd : Int := (leAt k.md 0 8 : Int) - (h.time : Int)
  let d := psnDiff h.psn q.epsn
  let ce := (outerIp k.md).any (fun x => ecnOf k.hdr x.1 x.2 == 3)
  let s := if ce then qpUpd s i (fun q => { q with ce := q.ce + 1 }) else s
  if d < 0 || q.rcvd.contains h.psn then oweAck (bump (releaseRkey s k) Reg.RM_DUP_CNT) i 0 h.time owd 0
  else if d ≥ 4096 then releaseRkey s k
  else if q.rnrFrom.any (fun f => psnDiff h.psn f > 0) then releaseRkey s k
  else
    match rxPlace s i c q k h (slice b h.payOff h.payLen) ok with
    | .local sts idx => qpError s i sts (some idx) true
    | .nak 1 =>
      let f := firstPsn q h
      let s := match chanOf s c.srq with
        | some (j, _) => chanUpd s j (fun d => { d with nobuf := d.nobuf + 1 })
        | none => s
      oweAck (qpUpd (releaseRkey s k) i (fun q => { q with rnrFrom := some f })) i 1 h.time owd f
    | .nak n => nakError (releaseRkey s k) i n h.psn h.time owd
    | .placed s =>
      let e := advance 4097 q.epsn (h.psn :: q.rcvd)
      let s := qpUpd s i (fun q =>
        { q with epsn := e, rcvd := (h.psn :: q.rcvd).filter (fun x => psnDiff x e ≥ 0),
                 rnrFrom := if q.rnrFrom = some h.psn then none else q.rnrFrom })
      let s := startReads (rxComplete s i 4097) i
      if h.ackReq || ce || d > 0 || !q.rcvd.isEmpty then oweAck s i 0 h.time owd 0
      else
        let first := q.ackAt.getD (s.time.elapsed, h.time, owd)
        if q.unacked + 1 ≥ max 1 q.coalesce || q.ackDelay = 0 then oweAck s i 0 h.time owd 0
        else qpUpd s i (fun q => { q with unacked := q.unacked + 1, ackAt := some first })

/-- The egress engine at the retire of a packet delivered to a queue pair (R462, R488). -/
def rmEgress (s : State) (k : Pkt) (ok : Byte) : State :=
  let h := readGrmt k.md (pktBytes k) false
  match qpOf s h.dst with
  | none => releaseRkey s k
  | some (i, c, q) =>
    if q.tstate ≠ 2 && q.tstate ≠ 3 then releaseRkey s k
    else if h.op = 0x10 then ackProcess s i h.ext
    else if h.op = 0x12 then qpError s i STS_RM_PEER_ABORT none false
    else rxData s i c q k h ok

/-! Records (R474, R486). -/

/-- The queue-pair record. -/
def qpRecord (i : Nat) (c : Chan) (q : Qp) : List Byte :=
  pack 88 [(0, 0, 32, chanHandle i c), (4, 0, 3, q.tstate), (4, 3, 1, b2n q.enc), (4, 4, 1, q.side), (4, 5, 1, b2n q.ccEn), (4, 6, 3, q.ccProf),
    (4, 9, 1, b2n q.spillHost), (4, 10, 2, q.pmtu), (4, 12, 4, q.retry), (4, 16, 4, q.rnrRetry), (8, 0, 32, q.peer), (0xC, 0, 16, q.path),
    (0xC, 16, 16, q.sport), (0x10, 0, 32, q.sqNxt), (0x14, 0, 32, q.sqUna), (0x18, 0, 32, q.epsn), (0x1C, 0, 32, q.txMsn), (0x20, 0, 32, q.rxMsn),
    (0x24, 0, 18, q.txQ), (0x28, 0, 18, q.rxQ), (0x2C, 0, 16, q.window), (0x2C, 16, 16, q.coalesce), (0x30, 0, 16, q.rtoMin), (0x30, 16, 16, q.ackDelay),
    (0x34, 0, 32, q.rtoMax), (0x38, 0, 16, q.msgTimeout), (0x38, 16, 16, q.rnrTime), (0x3C, 0, 16, q.slot),
    (0x40, 0, 32, (q.sec.map (fun x => x.txEpoch)).getD 0), (0x44, 0, 32, (q.sec.map (fun x => x.rxEpoch)).getD 0),
    (0x48, 0, 64, (q.sec.map (fun x => x.txCtr)).getD 0), (0x50, 0, 32, q.inst)] ++ fit 16 q.idA ++ fit 16 q.idB ++ le 8 q.spillAddr

/-- The region record. -/
def regionRecord (key : Nat) (r : Region) : List Byte :=
  pack 64 [(0, 0, 32, key), (4, 0, 3, r.access), (4, 3, 1, b2n r.revoking), (8, 0, 64, r.addr), (0x10, 0, 64, r.len), (0x18, 0, 32, r.refs)]

/-- A queue pair goes to RESET (R472, R497): its references, line and spill slot are given up. -/
def qpReset (s : State) (i : Nat) : State :=
  match qpGet s i with
  | none => s
  | some q =>
    let s := q.msgs.foldl (fun s m => unrefKeys (regionUnref s m.key) m.keys) s
    let s := q.works.foldl (fun s w => unrefKeys s w.keys) s
    let s := q.resps.foldl (fun s r => regionUnref s r.key) s
    let s := q.waits.foldl (fun s r => regionUnref s r.key) s
    qpDropLine (rmUpd s (fun r => { r with qps := aset r.qps i {} })) i

end Sys2Proof.Machine
end

