-- ==== Sys2Proof/Machine/Cipher.lean ====
section
/-! DEFINITION. Machine/Cipher.lean: key and context commands, cipher lanes, lookaside completions and the entropy source
(chapter 13). Inline verification and derived keys are in Machine/Flight.lean, erasure alarms in Machine/Ozelm.lean. -/

namespace Sys2Proof.Machine

/-- The result of a key command that failed. -/
def failed (s : State) (sts : Byte) : State × Option AdminRes := (s, some { sts := sts })

/-- A key command has changed `n` slots from `a`: it completes now, or when the lookaside requests that loaded the old
keys have finished (R434). -/
def keyDone (s : State) (sl op : Nat) (cmd : List Byte) (a n : Nat) : State × Option AdminRes :=
  if keyHeld s a n s.cy.nextReq then (adminDefer s sl op (leAt cmd 8 8) (s.cy.nextReq * 2 ^ 40 + n * 2 ^ 20 + a), none)
  else (s, some {})

/-- Key commands whose requests have finished complete. -/
def keyWake (s : State) : State :=
  s.ch.adminWait.foldl (fun s e =>
    let k := e.2.2.2
    if (e.2.1 = 0xC0 || e.2.1 = 0xC1 || e.2.1 = 0xC2) && !keyHeld s (k % 2 ^ 20) (k / 2 ^ 20 % 2 ^ 20) (k / 2 ^ 40) then
      adminComplete { s with ch := { s.ch with adminWait := adel s.ch.adminWait e.1 } } e.1 e.2.1 e.2.2.1 {}
    else s) s

/-- The wrapped key of a KEY_IMPORT has been read (R436): it is unwrapped with the key of slot `u` into slot `a`. -/
def keyUnwrap (s : State) (sl : Nat) (cmd : List Byte) (a u : Nat) (bs : List Byte) : State × Option AdminRes :=
  match useSlot s u 3 with
  | .inl e => failed s e
  | .inr (s', k) =>
    match Config.unwrapKey k.key bs with
    | none => failed s' STS_UNWRAP
    | some key =>
      if !drbgUp s then failed s STS_ENTROPY
      else keyDone (putKey s' a (ofBe key)) sl 0xC0 cmd a 1

/-- KEY_IMPORT (R432 to R436, R455): SLOT lies in the target slice, UNWRAP in the slice that gives the command. -/
def execKeyImport (sl : Nat) (cmd : List Byte) (env : Env) (s : State) : Host.Outcome State Fault Refusal :=
  .next (if !mayRead s sl then s else runAdmin s sl 0xC0 cmd (fun s t =>
    match slotAbs s t (par cmd 0x10 0 16), slotAbs s sl (par cmd 0x10 16 16) with
    | some a, some u =>
      match useSlot s u 3 with
      | .inl e => failed s e
      | .inr _ =>
        if keyBusy s a then failed s STS_KEY_BUSY
        else if keyLocked s then failed s STS_KEY_ERASED
        else adminRead s sl (par cmd 0x18 0 64) 40 env (fun s bs => keyUnwrap s sl cmd a u (fit 40 bs))
    | _, _ => failed s STS_KEY_SLOT))

/-- KEY_GENERATE (R433, R434, R436). -/
def execKeyGenerate (sl : Nat) (cmd : List Byte) (s : State) : Host.Outcome State Fault Refusal :=
  .next (runAdmin s sl 0xC1 cmd (fun s t =>
    match slotAbs s t (par cmd 0x10 0 16) with
    | some a =>
      if keyBusy s a then failed s STS_KEY_BUSY
      else if keyLocked s then failed s STS_KEY_ERASED
      else if !drbgUp s then failed s STS_ENTROPY
      else
        let r := draw s
        keyDone (putKey r.2 a (r.1 % 2 ^ 256)) sl 0xC1 cmd a 1
    | none => failed s STS_KEY_SLOT))

/-- KEY_ERASE (R434, R435): COUNT consecutive slots; zero erases none. -/
def execKeyErase (sl : Nat) (cmd : List Byte) (s : State) : Host.Outcome State Fault Refusal :=
  .next (runAdmin s sl 0xC2 cmd (fun s t =>
    let off := par cmd 0x10 0 16
    let n := par cmd 0x10 16 16
    let base := ((aget s.slices t).map (fun x => x.ksBase)).getD 0
    if off + n > sliceLimit s t 5 || off ≥ sliceLimit s t 5 then failed s STS_KEY_SLOT
    else
      let slots := (List.range n).map (base + off + ·)
      if slots.any (keyBusy s) then failed s STS_KEY_BUSY
      else
        let s := cyUpd s (fun c => { c with slots := c.slots.filter (fun e => !slots.contains e.1) })
        keyDone (showSlots s) sl 0xC2 cmd (base + off) n))

/-- KEY_QUERY (R435). -/
def execKeyQuery (sl : Nat) (cmd : List Byte) (s : State) : Host.Outcome State Fault Refusal :=
  .next (runAdmin s sl 0xC3 cmd (fun s t =>
    match slotAbs s t (par cmd 0x10 0 16) with
    | some a => match aget s.cy.slots a with
      | some k => (s, some { aux := 1 + 2 * k.role, len := k.salt })
      | none => (s, some {})
    | none => failed s STS_KEY_SLOT))

/-- The context of a CCTX_CREATE, once its label is known, under a free index. -/
def cctxNew (s : State) (t : Nat) (cmd : List Byte) (a : Nat) (derive : Bool) (label : List Byte) : State × Option AdminRes :=
  match useSlot s a (if derive then 2 else 1) with
  | .inl e => failed s e
  | .inr (s', _) =>
    let r := draw s'
    let n := r.1 % 262144
    match (if (aget s.cy.ctxs n).isNone then some n else afree s.cy.ctxs 262144) with
    | none => failed s STS_NO_RESOURCE
    | some i =>
      let c : Cctx := { slice := t, slot := a, derive := derive, side := par cmd 0x10 17 1, label := fit 48 label,
                        txEpoch := par cmd 0x14 0 32, rxEpoch := par cmd 0x14 0 32 }
      (showCtxs (cyUpd r.2 (fun y => { y with ctxs := aset y.ctxs i c })), some { aux := i })

/-- CCTX_CREATE (R431, R432, R437). -/
def execCctxCreate (sl : Nat) (cmd : List Byte) (env : Env) (s : State) : Host.Outcome State Fault Refusal :=
  .next (if par cmd 0x10 16 1 = 1 && !mayRead s sl then s else runAdmin s sl 0xC4 cmd (fun s t =>
    let derive := par cmd 0x10 16 1 == 1
    match slotAbs s t (par cmd 0x10 0 16) with
    | none => failed s STS_KEY_SLOT
    | some a =>
      match useSlot s a (if derive then 2 else 1) with
      | .inl e => failed s e
      | .inr _ =>
        if s.cy.ctxs.length ≥ 262144 then failed s STS_NO_RESOURCE else
        if derive then adminRead s sl (par cmd 0x18 0 64) 48 env (fun s label => cctxNew s t cmd a true label) else cctxNew s t cmd a false []))

/-- The context that a command names, when it is the slice's own. -/
def cctxOf (s : State) (t : Nat) (cmd : List Byte) : Option (Nat × Cctx) :=
  match aget s.cy.ctxs (par cmd 0x10 0 18) with
  | some c => if c.slice = t then some (par cmd 0x10 0 18, c) else none
  | none => none

/-- CCTX_DESTROY (R437). -/
def execCctxDestroy (sl : Nat) (cmd : List Byte) (s : State) : Host.Outcome State Fault Refusal :=
  .next (runAdmin s sl 0xC5 cmd (fun s t =>
    match cctxOf s t cmd with
    | some (i, _) =>
      let drop (m : AMap Nat) : AMap Nat := m.filter (fun e => e.1 / 2 ^ 33 ≠ 2 * i)
      (showCtxs (cyUpd s (fun y => { y with ctxs := adel y.ctxs i, caches := amap y.caches (fun _ m => drop m) })), some {})
    | none => failed s STS_CCTX))

/-- CCTX_QUERY (R437). -/
def execCctxQuery (sl : Nat) (cmd : List Byte) (env : Env) (s : State) : Host.Outcome State Fault Refusal :=
  .next (runAdmin s sl 0xC6 cmd (fun s t =>
    match cctxOf s t cmd with
    | some (_, c) =>
      adminResult s sl cmd (pack 32 [(0, 0, 2, c.state), (4, 0, 32, c.txEpoch), (8, 0, 64, txCounter s c), (0x10, 0, 32, c.rxEpoch), (0x14, 0, 32, c.fails)]) env
    | none => failed s STS_CCTX))

/-! Lanes (R447, R448). -/

/-- BUSY of a lane. -/
def laneBusy (s : State) (sl l : Nat) : Bool := rdF s (Reg.LN_STATUS sl l) 0 1 == 1

/-- A write of a lane register other than LN_STATUS meets BUSY: it is ignored and OVERRUN sets. -/
def laneOverrun (s : State) (sl l : Nat) : State := wrF s (Reg.LN_STATUS sl l) 2 1 1

/-- A write of LN_CTL that passed the byte-enable check. -/
def laneCtlWrite (s : State) (sl l : Nat) (v : W32) : State :=
  if laneBusy s sl l then laneOverrun s sl l else
  let s := plainWrite s (Reg.LN_CTL sl l) 0xFFFF00FF v
  if !rbit v 8 then s else
  let s := wrF (wrF s (Reg.LN_STATUS sl l) 1 1 0) (Reg.LN_STATUS sl l) 0 1 1
  let iv := (List.range 4).flatMap (fun w => le 4 (rdN s (Reg.LN_IV sl l w)))
  laStart s sl (rfld v 0 8) (rdF s (Reg.LN_SLOT sl l) 0 16) (rfld v 16 16) (rdF s (Reg.LN_LEN sl l) 0 25)
    (rd64 s (Reg.LN_SRC_LO sl l)) (rd64 s (Reg.LN_DST_LO sl l)) none iv (rd64 s (Reg.LN_NOTIFY_LO sl l)) (.lane l)

/-- LANE_GO (R448): a write of LN_CTL of a slice's cipher page with GO set. -/
def execLaneGo (be sl l : Nat) (v : W32) (s : State) : Host.Outcome State Fault Refusal :=
  .next (if l < 16 && rbit v 8 && be = 15 && (aget s.slices sl).isSome then laneCtlWrite s sl l v else s)

/-- The vector bound to a lookaside request's channel; a lane has none (R109). -/
def laVec (s : State) (r : LaReq) : Option Nat :=
  match r.origin with
  | .chan i _ => (chanGet s i).bind (fun c => boundVec s c)
  | .lane _ => none

/-- The attributes of a lookaside request's payload: its descriptor's, where it came by a channel (R109, R186). -/
def laAttr (s : State) (r : LaReq) : Nat :=
  match r.origin with
  | .chan i idx => match (chanGet s i).bind (fun c => c.ents.find? (fun e => e.idx == idx)) with
    | some e => descAttr s r.slice e.desc (laVec s r)
    | none => 0
  | .lane _ => payloadAttr s r.slice false none none

/-- Bytes that a request reads: GCM_DEC its tag as well. -/
def laInLen (r : LaReq) : Nat := if r.op = 0x41 then r.len + 16 else r.len

/-- The source of a request as its passes read it; GCM_DEC reads it again before it writes (R451). -/
def laSource (s : State) (r : LaReq) (env : Env) : State × HostData :=
  match slFetch s r.slice [(r.src, laInLen r)] (laAttr s r) (envRead env 0) with
  | (s, .ok bs) =>
    let again : HostData := match (env.reads[1]? : Option HostData) with | some d => d | none => .ok bs
    if r.op = 0x41 && (Config.gcmDec ((r.keys[0]?).getD 0) (r.iv.take 12) (bs.take r.aad) (slice bs r.aad (r.len - r.aad + 16))).isSome then
      ((slFetch s r.slice [(r.src, laInLen r)] (laAttr s r) again).1, .ok bs)
    else (s, .ok bs)
  | p => p

/-- LOOKASIDE_COMPLETE (R448 to R452): the request that an engine runs ends. `env` holds the source as it was read, again as
the second pass of a GCM_DEC read it where that differs, and the outcome of the write. Where the source changed between the
passes, the destination takes a free value. -/
def execLookasideComplete (id : Nat) (env : Env) (s : State) : Host.Outcome State Fault Refusal :=
  .next (match aget s.cy.reqs id with
    | some r =>
      if unitState s (64 + r.engine) = 3 then fencedSend s (64 + r.engine) else
      if aget s.cy.serving r.engine ≠ some id || !sliceLive s r.slice || !mayRead s r.slice then s else
      let finish (s : State) (sts : Byte) (out : Nat) : State :=
        let s := cyUpd s (fun c => { c with reqs := adel c.reqs id, serving := adel c.serving r.engine })
        let s := bump64 (laEnd s r sts out) Reg.CY_LA_REQ_CNT_LO
        let s := if sts = STS_OK then bump64 s Reg.CY_LA_BYTES_LO r.len else s
        let s := if sts = STS_AUTH then bump s Reg.CY_LA_AUTH_FAIL_CNT else s
        keyWake (engineNext s r.engine)
      match r.fixed with
      | some sts => finish s sts 0
      | none =>
        match laSource s r env with
        | (s, .failed e) => finish s e 0
        | (s, .ok src) =>
          match laOutput r src with
          | .inr sts => finish s sts 0
          | .inl out =>
            let changed := r.op = 0x41 && (match (env.reads[1]? : Option HostData) with | some (HostData.ok b) => decide (b ≠ src) | _ => false)
            let x := draw s
            let s := if changed then x.2 else s
            let out := if changed then le out.length x.1 else out
            if envWrite env ≠ STS_OK then finish s (envWrite env) 0
            else finish (slWrite s r.slice r.dst (laAttr s r) out) STS_OK out.length
    | none => s)

/-! Alarm latches and the entropy source (R454 to R456). -/

/-- A write of KS_ALARM that passed the gate: bits 2 to 4 clear on a write of 1 once their condition has ended; `active` are
the conditions that still hold. -/
def ksAlarmWrite (s : State) (v : W32) (active : Nat) : State :=
  let old := rdN s Reg.KS_ALARM
  let new := (List.range 5).foldl (fun a i => if old.testBit i && !(2 ≤ i && rbit v i && !active.testBit i) then a + 2 ^ i else a) 0
  wrF (wrN s Reg.KS_ALARM new) Reg.KS_STATUS 2 1 (b2n (new ≠ 0))

/-- KS_ALARM_WRITE (R454, R455). -/
def execKsAlarmWrite (req : Requester) (be : Nat) (v : W32) (active : Nat) (s : State) : Host.Outcome State Fault Refusal :=
  .next (gate s req be Reg.KS_ALARM true (fun s => ksAlarmWrite s v active))

/-- ENTROPY_FAIL (R456): a health test, by number, fails. -/
def execEntropyFail (test : Nat) (s : State) : Host.Outcome State Fault Refusal :=
  .next (if rdF s Reg.KS_STATUS 1 1 = 1 then s else raise (wrF s Reg.KS_STATUS 1 1 1) 0x801 [(4, 1), (4, test)])

/-- ENTROPY_RECOVER (R456): 1,024 consecutive samples pass. -/
def execEntropyRecover (s : State) : Host.Outcome State Fault Refusal :=
  .next (if rdF s Reg.KS_STATUS 1 1 = 0 then s else raise (wrF s Reg.KS_STATUS 1 1 0) 0x801 [(4, 0), (4, 0)])

end Sys2Proof.Machine
end

