-- ==== Sys2Proof/Machine/LifeOps.lean ====
section
/-! DEFINITION. Machine/LifeOps.lean: the ends of things: the reset and destruction of channels with their drain (chapter 6),
of regions, and the request, course and end of a slice reset (chapter 7). -/

namespace Sys2Proof.Machine

/-! Channels (R199, R202, R206). -/

/-- A channel is gone: its slot and index are free (R172). -/
def chanGone (s : State) (i : Nat) : State :=
  match chanGet s i with
  | none => s
  | some c =>
    let s := if c.kind = 4 then rmUpd (qpReset s i) (fun r => { r with qps := adel r.qps i }) else s
    let gone (s : State) (i : Nat) : State :=
      { s with ch := { s.ch with chans := adel s.ch.chans i, freed := aset s.ch.freed i s.time.elapsed } }
    -- the admin pair goes together (R215)
    if c.kind = 1 then wrN (wrN (wrF (gone (gone s i) (c.bind % 0x1000000)) (Reg.SL_AQ_STATUS c.slice) 0 1 0) (Reg.SL_AQ_HANDLE c.slice) 0) (Reg.SL_ACQ_HANDLE c.slice) 0
    else gone s i

/-- A CQ, event ring or SRQ that a live channel names (R206, R221). -/
def chanNamed (s : State) (i : Nat) (c : Chan) : Bool :=
  s.ch.chans.any (fun e => e.1 ≠ i && (e.2.bind == chanHandle i c || (c.kind == 5 && e.2.srq == chanHandle i c)))

/-- The use of a slice's QUEUES quota (R393). -/
def queueUse (s : State) (sl : Nat) : Nat := (s.land.queues.filter (fun e => queueCounts e.2 && qSlice e.2 == sl)).length

/-- The use of a resource by a slice (R216). THREAD_SHARE is measured over windows of issue slots, which the model does not
count: a free value. -/
def useOf (s : State) (sl res : Nat) : Nat :=
  match res with
  | 0 => sliceUse s sl
  | 1 => queueUse s sl
  | 2 => chanUse s sl
  | 3 => (s.rm.qps.filter (fun e => (chanGet s e.1).any (fun c => c.slice == sl))).length
  | 4 => (s.rm.regions.filter (fun e => e.2.slice == sl)).length
  | 5 =>
    let b := ((aget s.slices sl).map (fun x => x.ksBase)).getD 0
    (s.cy.slots.filter (fun e => b ≤ e.1 && e.1 < b + sliceLimit s sl 5)).length
  | 6 => (draw s).1
  | _ => sliceLimit s sl 7

/-- The pool of slice GDDR7 in MiB: the capacity after ECC that training found, less the reserved regions (R219, R23), of which
guarded data takes two bytes for each (R24). -/
def poolMib (s : State) : Nat :=
  if rdF s Reg.GL_CAP 2 1 = 0 then 0 else
  let d := rdF s Reg.GL_CAP 0 2
  (match d with | 0 => 30720 | 1 => 46080 | _ => 61440) - (2 * Config.gmGuarded d + Config.gmBulk d)

/-- Nothing of what a reclaim destroys is left; of disabled queues none that still holds packets (R393). -/
def reclaimed (s : State) (sl res : Nat) : Bool :=
  if res = 1 then queueUse s sl ≤ sliceLimit s sl 1
  else if res = 4 then !s.rm.regions.any (fun e => e.2.slice == sl && e.2.revoking)
  else !s.ch.chans.any (fun e => e.2.slice == sl && e.2.draining == 3)

/-- A SET_QUOTA that reclaims ends once its objects are gone (R221); the key holds the slice, the resource and the count. -/
def reclaimCheck (s : State) : State :=
  s.ch.adminWait.foldl (fun s e =>
    if e.2.1 ≠ 0x42 then s else
    let sl := e.2.2.2 % 16384
    let res := e.2.2.2 / 16384 % 8
    let n := e.2.2.2 / 131072
    if !reclaimed s sl res then s else
    let s := raise { s with ch := { s.ch with adminWait := adel s.ch.adminWait e.1 } } 0x023 [(2, sl), (4, res), (4, n)]
    adminComplete s e.1 0x42 e.2.2.1 { aux := min (useOf s sl res) 0xFFFFFFFF }) s

/-- A channel whose reset or destruction waits for its work to finish has drained: it returns to DISABLED with its indices at
zero, or goes, and the commands that waited complete. -/
def drainCheck (s : State) (i : Nat) : State :=
  match chanGet s i with
  | none => s
  | some c =>
    if c.draining = 0 || !c.ents.isEmpty || c.fetching ≠ 0 || (c.draining = 3 && chanNamed s i c) then s else
    let h := chanHandle i c
    if c.draining ≠ 1 then reclaimCheck (adminWake (chanGone s i) 0x03 h { handle := h })
    else
      let s := mirrorWrite (chanSet s i { c with state := 2, before := 1, err := 0, idle := true, pidxReg := 0, sampled := 0, cidx := 0, pidx := 0,
                                                 draining := 0, armed := false, modN := 0 }) i
      let s := if c.idle then s else chanNote s i
      let s := if c.kind = 4 then qpReset s i else s
      adminWake (adminWake s 0x07 h { handle := h }) 0x80 h { handle := h }

/-- RESET_CHANNEL begins (1), or a destruction (2, 3): fetching stops, and entries whose work has not begun are flushed. -/
def resetChan (s : State) (i how : Nat) : State :=
  match chanGet s i with
  | none => s
  | some c =>
    let s := dropReads (cqRelease s c.bind c.fetching) i true
    let s := chanUpd s i (fun c => { c with fetching := 0, err := 0, held := [], draining := max c.draining how })
    drainCheck (chanState (flushEnts s i STS_FLUSHED) i 2) i

/-- RESET_CHANNEL, which a STALLED channel holds until the condition ends (R201). -/
def resetOrHold (s : State) (i : Nat) : State :=
  match chanGet s i with
  | some c => if c.state = 3 then chanSet s i { c with held := c.held ++ [2] } else resetChan s i 1
  | none => s

/-! Regions (R483, R486). -/

/-- A region's key becomes invalid; its index is free once nothing refers to it. -/
def revoke (s : State) (key : Nat) : State :=
  rmUpd s (fun r => { r with regions := aupd r.regions key (fun x => if x.revoking then x else { x with revoking := true, since := s.time.elapsed }) })

/-- A revoked region without references goes. -/
def regionGone (s : State) (key : Nat) : State :=
  rmUpd s (fun r => { r with regions := adel r.regions key, freed := aset r.freed (key % 2 ^ 24) s.time.elapsed })

/-! Slice reset (R226, R227). -/

/-- A slice reset is requested: one that runs is joined. -/
def sliceReset (s : State) (sl cause : Nat) : State :=
  match aget s.slices sl with
  | none => s
  | some x =>
    if x.state = 2 then (if cause = 6 then { s with slices := aset s.slices sl { x with dying := true } } else s) else
    let s := { s with slices := aset s.slices sl { x with state := 2, cause := cause, freeze := none, stopped := false, dying := cause == 6 } }
    let s := adminWake s 0x4C sl { sts := STS_SLICE_STATE }
    raisePhase (thawEvent s sl x 2) 0x020 3 [(2, sl), (4, 0), (4, cause)]

/-- Packets in the queues of a slice are dropped and counted against the queues (R422). -/
def sliceQueuesDrop (s : State) (sl : Nat) : State :=
  (s.land.queues.filter (fun e => qSlice e.2 == sl)).foldl (fun s e =>
    let r := queueFlush s e.1
    nodeTally r.1 e.1 (fun n => { n with flushed := n.flushed + r.2 })) s

/-- Channels of the slice stop, and fetched work that has not begun is discarded. -/
def sliceChansStop (s : State) (sl : Nat) : State :=
  (s.ch.chans.filter (fun e => e.2.slice == sl)).foldl (fun s e =>
    let s := depEnd s (e.2.ents.filter (fun x => !x.begun))
    dropReads (chanUpd s e.1 (fun c => { c with fetching := 0, notes := [], ents := c.ents.filter (fun x => x.begun) })) e.1 true) s

/-- Queue pairs of the slice enter ERROR, with the messages in progress cut; its regions are revoked. -/
def sliceQpsStop (s : State) (sl : Nat) : State :=
  let mine := s.rm.qps.filter (fun e => (chanGet s e.1).any (fun c => c.slice == sl))
  let s := mine.foldl (fun s e => qpUpd (qpError s e.1 STS_FLUSHED none true) e.1 (fun q => { q with cut := (e.2.msgs.filter (fun m => m.op ≠ 0)).map (fun m => m.msn) })) s
  (s.rm.regions.filter (fun e => e.2.slice == sl)).foldl (fun s e => revoke s e.1) s

/-- The slice's contexts, the derived keys of these and of its queue pairs, its key slots and its lanes are erased. -/
def sliceKeysErase (s : State) (sl : Nat) : State :=
  match aget s.slices sl with
  | none => s
  | some x =>
    let mine := (s.cy.ctxs.filter (fun e => e.2.slice == sl)).map (fun e => e.1)
    let qps := (s.rm.qps.filter (fun e => (chanGet s e.1).any (fun c => c.slice == sl))).map (fun e => e.1)
    let drop (m : AMap Nat) : AMap Nat := m.filter (fun e => !(if e.1 / 2 ^ 33 % 2 = 0 then mine else qps).contains (e.1 / 2 ^ 34))
    let lo := x.ksBase
    let hi := x.ksBase + agetD x.limits 5 0
    let s := cyUpd s (fun c =>
      { c with ctxs := c.ctxs.filter (fun e => e.2.slice ≠ sl), caches := amap c.caches (fun _ m => drop m),
               slots := c.slots.filter (fun e => e.1 < lo || hi ≤ e.1),
               reqs := c.reqs.filter (fun e => e.2.slice ≠ sl),
               serving := c.serving.filter (fun e => !(aget c.reqs e.2).any (fun r => r.slice == sl)) })
    let s := (List.range 9).foldl (fun s e => engineNext s e) s
    showCtxs (showSlots (resetRegs s (Reg.LN_CTL sl 0) (Reg.LN_CTL (sl + 1) 0)))

/-- The slice's objects are destroyed (step 6). -/
def sliceDestroy (s : State) (sl : Nat) : State :=
  let over' : AdminRes := { sts := STS_SLICE_STATE }
  let s := (s.ch.chans.filter (fun e => e.2.slice == sl)).foldl (fun s e =>
    let h := chanHandle e.1 e.2
    adminWake (adminWake (adminWake (chanGone s e.1) 0x03 h { handle := h }) 0x07 h over') 0x80 h over') s
  let s := (s.rm.regions.filter (fun e => e.2.slice == sl)).foldl (fun s e => adminWake (regionGone s e.1) 0x83 e.1 over') s
  let s := { s with land := { s.land with queues := s.land.queues.filter (fun e => qSlice e.2 ≠ sl), use := adel s.land.use sl } }
  let s := { s with mem := memClear s.mem (gmBase sl) (gmBase (sl + 1)) }
  let s := { s with slices := aupd s.slices sl (fun x => { x with written := [] }), ch := { s.ch with adminWait := adel s.ch.adminWait sl } }
  resetRegs s (0x10000000 + 0x80 * sl) (0x10000000 + 0x80 * (sl + 1))

/-- The end of a slice reset: ACTIVE or ABSENT, with the generation, the event, and the commands that waited. -/
def sliceResetEnd (s : State) (sl : Nat) : State :=
  match aget s.slices sl with
  | none => s
  | some x =>
    let s := sliceDestroy s sl
    let s := if x.dying then { s with slices := adel s.slices sl }
      else { s with slices := aupd s.slices sl (fun y => { y with state := 1, fault := 0, gen := (y.gen + 1) % 65536, stopped := false }) }
    let s := raisePhase s 0x020 4 [(2, sl), (4, 1), (4, x.cause)]
    reclaimCheck (adminWake (adminWake s 0x44 sl {}) 0x41 sl {})

end Sys2Proof.Machine
end

