-- ==== Sys2Proof/Machine/Net.lean ====
section
/-! DEFINITION. Machine/Net.lean: network ports (chapter 5): port-group modes, bring-up and faults, reception, flow
control, transmission with its timestamps, and recovered clocks. -/

namespace Sys2Proof.Machine

/-! Modes (R144, R145). -/

/-- Some port of the group has ENABLE set. The ports are those of the mode that the group last ran or runs: an ENABLE that a port
keeps when it becomes absent goes on refusing a change of MODE (R145 says any port of the group; DESIGN CHOICE, log entry 17). -/
def pgEnabled (s : State) (pg : Nat) : Bool := (List.range 4).any (fun k => rbit (portCtl s (4 * pg + k)) 0)

/-- A write of EN_PG_CTL that passed the gate: a change of MODE with a port enabled is dropped with BAD_ACCESS; another
change is reported once the lanes have been reconfigured. -/
def pgCtlWrite (s : State) (req : Requester) (pg : Nat) (v : W32) : State :=
  if rfld v 0 3 = rdF s (Reg.EN_PG_CTL pg) 0 3 then s
  else if pgEnabled s pg then badAccess s req (Reg.EN_PG_CTL pg)
  else
    let s := plainWrite s (Reg.EN_PG_CTL pg) 7 v
    { s with net := { s.net with modes := aset s.net.modes pg (rfld v 0 3, s.time.elapsed) } }

def execPgModeWrite (req : Requester) (be pg : Nat) (v : W32) (s : State) : Host.Outcome State Fault Refusal :=
  .next (if pg < 8 then gate s req be (Reg.EN_PG_CTL pg) false (fun s => pgCtlWrite s req pg v) else s)

/-- PG_MODE_CHANGE_DONE (R145). A port that becomes absent keeps what its registers and its capture FIFO hold, unread, and shows
it again in a later mode (DESIGN CHOICE, log entry 17); packets queued for a port that is not UP with DOWN_FLUSH set are dropped
(R152). -/
def execPgModeChangeDone (pg : Nat) (s : State) : Host.Outcome State Fault Refusal :=
  .next (match aget s.net.modes pg with
    | some m =>
      let s := { s with net := { s.net with modes := adel s.net.modes pg } }
      let s := wrF s (Reg.EN_PG_STATUS pg) 12 3 (if m.1 ≥ 5 then 0 else m.1)
      let s := (List.range 4).foldl (fun s k => if portDownFlush s (4 * pg + k) then portFlush s (4 * pg + k) else s) s
      (List.range 4).foldl (fun s k => lineFollow s (4 * pg + k)) s
    | none => s)

/-! Port states (R148 to R152). -/

/-- A change of EN_PORT_STATUS.STATE, with its counter and events (R151, R169). Leaving UP ends the ignoring of pauses
(R158). -/
def setPortState (s : State) (p st : Nat) : State :=
  let old := portState s p
  if old = st then s else
  let s := wrF s (Reg.EN_PORT_STATUS (p / 4) (p % 4)) 0 3 st
  let s := wrF s (Reg.EN_PG_STATUS (p / 4)) (8 + p % 4) 1 (b2n (st = 3))
  let s := if old = 3 then pauseUpdate (portUpd (portCnt s p 20 1) p (fun x => { x with ignore := [] })) p else s
  let s := if st = 0 then (portLanes s p).foldl (fun s l => wrF s (Reg.EN_LANE_STATUS (p / 4) l) 2 1 0) s else s
  let s := if old = 3 || st = 3 then raise s (portSrc p 0) [(4, st)] else s
  let s := if old = 4 || st = 4 then raise s (portSrc p 1) [(4, b2n (st = 4))] else s
  let s := if old = 5 || st = 5 then raise s (portSrc p 2) [(4, b2n (st = 5))] else s
  lineFollow (if portDownFlush s p then portFlush s p else s) p

/-- Every lane of a port detects a signal. -/
def lanesSignal (s : State) (p : Nat) : Bool :=
  let ls := portLanes s p
  !ls.isEmpty && ls.all (fun l => rbit (rd s (Reg.EN_LANE_STATUS (p / 4) l)) 0)

def lanesCdr (s : State) (p : Nat) : Bool := (portLanes s p).all (fun l => rbit (rd s (Reg.EN_LANE_STATUS (p / 4) l)) 1)

/-- From DISABLED with ENABLE set and every lane's signal: TRAINING, or ALIGNING with neither AN_EN nor LT_EN (R148). -/
def portStart (s : State) (p : Nat) : State :=
  if portPresent s p && portState s p = 0 && rbit (portCtl s p) 0 && lanesSignal s p then
    let s := portUpd s p (fun x => { x with trained := s.time.elapsed, since := s.time.elapsed })
    setPortState s p (if rbit (portCtl s p) 1 || rbit (portCtl s p) 2 then 1 else 2)
  else s

/-- A write of EN_PORT_CTL that passed the gate. -/
def portCtlWrite (s : State) (p : Nat) (v : W32) : State :=
  let s := plainWrite s (Reg.EN_PORT_CTL (p / 4) (p % 4)) 0x3F v
  let s := if rbit v 0 then portStart s p else setPortState s p 0
  flowRecheck (lineFollow (if portDownFlush s p then portFlush s p else s) p) p

/-- PORT_ENABLE (R148): a write of EN_PORT_CTL with ENABLE set. -/
def execPortEnable (req : Requester) (be p : Nat) (v : W32) (s : State) : Host.Outcome State Fault Refusal :=
  .next (if portPresent s p && rbit v 0 then gate s req be (Reg.EN_PORT_CTL (p / 4) (p % 4)) false (fun s => portCtlWrite s p v) else s)

/-- PORT_DISABLE (R148): a write of EN_PORT_CTL with ENABLE clear. -/
def execPortDisable (req : Requester) (be p : Nat) (v : W32) (s : State) : Host.Outcome State Fault Refusal :=
  .next (if portPresent s p && !rbit v 0 then gate s req be (Reg.EN_PORT_CTL (p / 4) (p % 4)) false (fun s => portCtlWrite s p v) else s)

/-- The lane that EN_RCLK_CTL selects has CDR lock and a signal. -/
def rclkGood (s : State) (pg : Nat) : Bool :=
  let st := rd s (Reg.EN_LANE_STATUS pg (rdF s (Reg.EN_RCLK_CTL pg) 0 2))
  rbit st 0 && rbit st 1

/-- The selected lane, or its lock, has changed from `old`: the time since which it has held. -/
def rclkMark (s : State) (pg : Nat) (old : Bool) : State :=
  if rclkGood s pg && !old then { s with net := { s.net with rclk := aset s.net.rclk pg s.time.elapsed } } else s

/-- SIGNAL_DETECT (R148): the signal and CDR lock of a lane. A port that is ALIGNING holds its locks anew from a change of CDR lock
on. -/
def execSignalDetect (pg lane : Nat) (signal cdr : Bool) (s : State) : Host.Outcome State Fault Refusal :=
  .next (if pg < 8 && lane < 4 then
    let good := rclkGood s pg
    let was := (List.range 4).map (fun k => lanesCdr s (4 * pg + k))
    let s := wrF (wrF s (Reg.EN_LANE_STATUS pg lane) 0 1 (b2n signal)) (Reg.EN_LANE_STATUS pg lane) 1 1 (b2n cdr)
    let s := wrF (wrF s (Reg.EN_PG_STATUS pg) lane 1 (b2n signal)) (Reg.EN_PG_STATUS pg) (4 + lane) 1 (b2n cdr)
    let s := rclkMark s pg good
    (List.range 4).foldl (fun s k =>
      let p := 4 * pg + k
      let s := if portState s p = 2 && was[k]? ≠ some (lanesCdr s p) then portUpd s p (fun x => { x with since := s.time.elapsed }) else s
      portStart s p) s
  else s)

/-- TRAINING_COMPLETE (R148, R149, R168): the enabled phases complete on every lane. `same`: the partner advertises the
configured mode, without which negotiation does not complete; `taps` are the transmit taps that training wrote, four per
lane. -/
def execTrainingComplete (p : Nat) (same : Bool) (taps : List Nat) (s : State) : Host.Outcome State Fault Refusal :=
  .next (if portPresent s p && portState s p = 1 && (same || !rbit (portCtl s p) 2) then
    let ls := portLanes s p
    let s := ls.foldl (fun s l => wrF s (Reg.EN_LANE_STATUS (p / 4) l) 2 1 1) s
    let s := if rbit (portCtl s p) 1 then
        ls.zipIdx.foldl (fun s e => (List.range 4).foldl (fun s i =>
          portUpd s (4 * (p / 4)) (fun x => { x with serdes := aset x.serdes (e.1 * 2 ^ 20 + 0x10 + i) (((taps[e.2 * 4 + i]?).getD 0) % 256) })) s) s
      else s
    setPortState (portUpd s p (fun x => { x with since := s.time.elapsed })) p 2
  else s)

/-- TRAINING_TIMEOUT (R148): 500 ms pass without completion; `lanes` are those that failed. -/
def execTrainingTimeout (p lanes : Nat) (s : State) : Host.Outcome State Fault Refusal :=
  .next (if portState s p = 1 && (portGet s p).trained + 500 * msUnits ≤ s.time.elapsed then
    let s := setPortState (portUpd s p (fun x => { x with trained := s.time.elapsed })) p 6
    raise s (portSrc p 7) [(4, lanes)]
  else s)

/-- TRAIN_FAIL_RETRY (R148): TRAINING again 1 s after TRAIN_FAIL was entered. -/
def execTrainFailRetry (p : Nat) (s : State) : Host.Outcome State Fault Refusal :=
  .next (if portState s p = 6 && (portGet s p).trained + 1000 * msUnits ≤ s.time.elapsed then
    setPortState (portUpd s p (fun x => { x with trained := s.time.elapsed })) p 1
  else s)

/-- The debounce of a port in units of 2^-16 ns. -/
def debounce (s : State) (p : Nat) : Nat := rdF s (Reg.EN_PORT_DEBOUNCE (p / 4) (p % 4)) 0 16 * usUnits

/-- The transition that the present fault conditions make (R148): into UP once they have held for DEBOUNCE, out of it once they
have held for longer; with a DEBOUNCE of zero at once. LOCAL_FAULT and REMOTE_FAULT are left for UP alone, with no fault of either
kind. -/
def faultStep (s : State) (p : Nat) : State :=
  let x := portGet s p
  let d := debounce s p
  let held := x.since + d ≤ s.time.elapsed
  let longer := d = 0 || x.since + d < s.time.elapsed
  let clear := x.lock && !x.lf && !x.rf
  match portState s p with
  | 2 => if held && x.lock && lanesCdr s p then setPortState s p 3 else s
  | 3 => if !longer then s else if !x.lock || x.lf then setPortState s p 4 else if x.rf then setPortState s p 5 else s
  | 4 => if held && clear then setPortState s p 3 else s
  | 5 => if held && clear then setPortState s p 3 else s
  | _ => s

/-- The fault that a port's reception shows: 1 local, 2 remote, 0 none. -/
def faultOf (lock lf rf : Bool) : Nat := if !lock || lf then 1 else if rf then 2 else 0

/-- LOCK_CHANGE (R150, R151): lock on every lane, and local and remote fault ordered sets received. The time of DEBOUNCE runs from
the last change of the fault, while ALIGNING from the last change of lock. -/
def execLockChange (p : Nat) (lock lf rf : Bool) (s : State) : Host.Outcome State Fault Refusal :=
  .next (if portPresent s p then
    let x := portGet s p
    let same := faultOf x.lock x.lf x.rf == faultOf lock lf rf && (portState s p ≠ 2 || x.lock == lock)
    let s := portSet s p { x with lock := lock, lf := lf, rf := rf, since := if same then x.since else s.time.elapsed }
    if debounce s p = 0 then faultStep (lineFollow s p) p else lineFollow s p
  else s)

/-- DEBOUNCE_EXPIRE (R148, R151). -/
def execDebounceExpire (p : Nat) (s : State) : Host.Outcome State Fault Refusal :=
  .next (if portPresent s p then faultStep s p else s)

/-- FEC_DEGRADE_WINDOW (R147): a millisecond of elapsed time ends with these codewords corrected, codewords uncorrectable and
symbols corrected. Each millisecond is judged once. -/
def execFecDegradeWindow (p cw uncorr syms : Nat) (s : State) : Host.Outcome State Fault Refusal :=
  .next (if portPresent s p && (portGet s p).fecMs < s.time.elapsed / msUnits then
    let s := portUpd s p (fun x => { x with fecMs := s.time.elapsed / msUnits })
    let s := portCnt (portCnt (portCnt s p 17 cw) p 18 uncorr) p 19 syms
    let off := Reg.EN_FEC_DEGRADE (p / 4) (p % 4)
    let th := rdF s off 0 24
    let deg := rbit (rd s off) 31
    let good := if syms > th then 0 else (portGet s p).goodMs + 1
    let s := portUpd s p (fun x => { x with goodMs := good })
    if th ≠ 0 && syms > th && !deg then raise (wrF s off 31 1 1) (portSrc p 3) [(4, 1), (4, syms)]
    else if deg && good ≥ 100 then raise (wrF s off 31 1 0) (portSrc p 3) [(4, 0), (4, syms)]
    else s
  else s)

/-! Reception (R153 to R158). -/

/-- The MAC control address and EtherType (R155). -/
def isMacControl (b : List Byte) : Bool := beAt b 0 6 == 0x0180C2000001 && beAt b 12 2 == 0x8808

/-- A frame with zero quanta for a priority (8: 802.3x) ends the ignoring of the class that it maps to (R158). -/
def unIgnore (s : State) (p i q : Nat) : State :=
  let cls := if i = 8 then List.range 8 else [priClass s p i]
  if q = 0 then portUpd s p (fun x => { x with ignore := x.ignore.filter (fun c => !cls.contains c) }) else s

/-- Loads or ends the pause timer of priority i (8: 802.3x) with some quanta. -/
def loadPause (s : State) (p i q : Nat) : State :=
  let x := portGet s p
  if q = 0 then portSet s p { x with pause := adel x.pause i }
  else portSet s p { x with pause := aset x.pause i (s.time.elapsed + quanta s p q) }

/-- A control frame is consumed by the MAC (R155): accepted pause and PFC frames act, every other is dropped. A pause that ended
before the frame came is seen first, so that what the frame loads is a pause of its own (R158). -/
def macControl (s : State) (p : Nat) (b : List Byte) : State :=
  let op := beAt b 14 2
  let s := pauseUpdate s p
  if op = 0x0001 && portFc s p = 1 then
    pauseUpdate (loadPause (unIgnore (portCnt s p 7 1) p 8 (beAt b 16 2)) p 8 (beAt b 16 2)) p
  else if op = 0x0101 && portFc s p = 2 then
    let s := portCnt s p 7 1
    let en := beAt b 16 2
    let rx := rdN s (Reg.EN_PFC_CTL (p / 4) (p % 4))
    let s := (List.range 8).foldl (fun s i =>
      if en.testBit i then
        let s := unIgnore (bump s (Reg.EN_RX_PFC_CNT (p / 4) (p % 4) i)) p i (beAt b (18 + 2 * i) 2)
        if rx.testBit i then loadPause s p i (beAt b (18 + 2 * i) 2) else s
      else s) s
    pauseUpdate s p
  else portCnt s p 8 1

/-- MAC_CONTROL_FRAME (R155, R156): a good control frame arrives; `b` is the frame without its FCS. -/
def execMacControlFrame (p : Nat) (b : List Byte) (s : State) : Host.Outcome State Fault Refusal :=
  .next (if portPresent s p && portState s p = 3 && isMacControl b && 60 ≤ b.length && b.length + 4 ≤ maxFrame s p then
    macControl (portCnt (portCnt s p 0 (b.length + 4)) p 1 1) p b
  else s)

/-- The metadata that an arriving packet carries into its flight: the timestamp and its fraction, SRC and SLICE. -/
def mdNew (ts frac src slice : Nat) : List Byte :=
  pack 128 [(0, 0, 64, ts), (8, 0, 16, frac), (0xC, 0, 6, src), (0xC, 8, 14, slice)]

/-- A new packet. -/
def newPkt (s : State) (bytes md : List Byte) : State × Pkt :=
  let id := s.land.nextPkt
  ({ s with land := { s.land with nextPkt := id + 1 } }, { id := id, hdr := bytes, body := [], md := md, grains := grainsOf bytes.length })

/-- An accepted frame takes its grains and its place at the stair, or is dropped for want of a free grain (R391). While
the role of the port group's stair is unserved the MAC drops it (R596). -/
def arrive (s : State) (p : Nat) (b : List Byte) : State :=
  let n := grainsOf b.length
  if !roleServed s (p / 4) then bump s Reg.MS_NOSPARE_DROP_CNT
  else if rdN s Reg.LD_FREE < n then
    raiseLim (bump s (Reg.LD_ARR_DROP_CNT (p / 4))) 0x741 0 [(4, p / 4)]
  else
    let r := newPkt (takeGrains s n) b (mdNew (nowNs s) (s.time.now % 65536) p 0)
    enterWire r.1 (p / 4) r.2

/-- FRAME_RECEIVE (R146, R150, R153): the frame without FCS; whether its FCS checks, whether it holds a symbol of an
uncorrectable codeword, and whether a fault cut it short. -/
def execFrameReceive (p : Nat) (b : List Byte) (fcsOk uncorr cut : Bool) (s : State) : Host.Outcome State Fault Refusal :=
  .next (if portPresent s p && portState s p = 3 then
    let len := b.length + 4
    if cut then portCnt s p 6 1
    else if uncorr then portCnt s p 3 1
    else if len < 64 then portCnt s p 4 1
    else if len > maxFrame s p then portCnt s p 5 1
    else if !fcsOk then portCnt s p 2 1
    else
      let s := portCnt (portCnt s p 0 len) p 1 1
      if isMacControl b then macControl s p b else arrive s p b
  else s)

/-- PAUSE_TIMER_EXPIRE (R156). -/
def execPauseTimerExpire (p : Nat) (s : State) : Host.Outcome State Fault Refusal :=
  .next (if portPresent s p then
    pauseUpdate (portUpd s p (fun x => { x with pause := x.pause.filter (fun e => s.time.elapsed < e.2) })) p
  else s)

/-- PFC_WATCHDOG (R158): a class has stayed paused for longer than EN_PFC_WATCHDOG. -/
def execPfcWatchdog (p c : Nat) (s : State) : Host.Outcome State Fault Refusal :=
  .next (
    let wd := rdN s (Reg.EN_PFC_WATCHDOG (p / 4) (p % 4))
    match aget (portGet s p).paused c with
    | some since =>
      if portPresent s p && wd ≠ 0 && classPaused s p c && since + wd * usUnits < s.time.elapsed then
        let s := portUpd s p (fun x => { x with ignore := x.ignore ++ [c] })
        raise (pauseUpdate s p) (portSrc p 4) [(4, c)]
      else s
    | none => s)

/-- PFC_REFRESH (R159): the priorities in XOFF whose refresh is due share one frame; in FC mode 1 the port has one refresh. -/
def execPfcRefresh (p : Nat) (s : State) : Host.Outcome State Fault Refusal :=
  .next (if portPresent s p && pfcQuanta s p ≠ 0 then
    let r := rdF s (Reg.EN_PFC_REFRESH (p / 4) (p % 4)) 0 16
    let iv := quanta s p (if r = 0 then pfcQuanta s p / 2 else r)
    let due := (portGet s p).xoff.filter (fun e => e.2 + iv ≤ s.time.elapsed && (portFc s p == 1 || (rdN s (Reg.EN_PFC_CTL (p / 4) (p % 4))).testBit (8 + e.1)))
    let s := portUpd s p (fun x => { x with xoff := due.foldl (fun m e => aset m e.1 s.time.elapsed) x.xoff })
    controlFrame s p (due.map (fun e => (e.1, pfcQuanta s p)))
  else s)

/-! Transmission (R154, R161 to R164). -/

/-- The UDP checksum at `co` after the bytes at `o` changed from `old` to `new`; a zero checksum, which stands for none,
stays. -/
def csumFix (b : List Byte) (co o : Nat) (old new : List Byte) : List Byte :=
  let c := beAt b co 2
  if c = 0 then b else
  let pre : List Byte := if (o + co) % 2 = 1 then [0] else []
  let x := 0xFFFF - fold16 ((0xFFFF - c) + (0xFFFF - fold16 (sum16 (pre ++ old))) + fold16 (sum16 (pre ++ new)))
  patch b co (be 2 (if x = 0 then 0xFFFF else x))

/-- The bytes that a transmit directive of mode 2 or 3 writes (R162): `now` and `ts` in 2^-16 ns. -/
def directiveBytes (b : List Byte) (mode o now ts : Nat) : List Byte :=
  if mode = 2 then be 6 (now / 65536 / 1000000000) ++ be 4 (now / 65536 % 1000000000)
  else
    let x := signed 64 (beAt b o 8) + ((now : Int) - ts)
    be 8 (if x ≥ 0x8000000000000000 || x < -0x8000000000000000 then 0x7FFFFFFFFFFFFFFF else unsign 64 x)

/-- A directive of mode 2 or 3 applied to a frame, or none when its field or checksum does not lie wholly within the
first 512 bytes of the frame or the two overlap (R163). -/
def directive (b md : List Byte) (now : Nat) : Option (List Byte) :=
  let mode := mdF md 0x4C 0 2
  let o := mdF md 0x4C 2 9
  let co := mdF md 0x4C 11 9
  let w := if mode = 2 then 10 else 8
  let lim := min 512 b.length
  if o + w > lim || (co ≠ 0 && (co + 2 > lim || (co < o + w && o < co + 2))) then none else
  let ts := leAt md 0 8 * 65536 + mdF md 8 0 16
  let new := directiveBytes b mode o now ts
  let b' := patch b o new
  some (if co = 0 then b' else csumFix b' co o (slice b o w) new)

/-- FRAME_TRANSMIT (R154, R161 to R164): the next frame of a port goes out: its directive, its padding and FCS over the
edited frame, the counters, the capture, and the release of its grains. -/
def frameTransmit (s : State) (p : Nat) : State :=
  match (portGet s p).tx with
  | f :: rest =>
    let s := portUpd s p (fun x => { x with tx := rest })
    let s := { s with land := { s.land with begun := aset s.land.begun p (agetD s.land.begun p 0 - 1) } }
    let padded := if f.bytes.length < 60 then fit 60 f.bytes else f.bytes
    let mode := mdF f.md 0x4C 0 2
    let d := if mode ≥ 2 then directive padded f.md s.time.now else some padded
    let s := if d.isNone then portCnt s p 15 1 else s
    let out := d.getD padded
    let s := emit (portCnt (portCnt s p 9 (out.length + 4)) p 10 1) (.frame p (lineFrame out))
    let s := if mode = 1 then
        if (portGet s p).fifo.length < 64 then
          portUpd s p (fun x => { x with fifo := x.fifo ++ [(mdF f.md 0x50 0 16, nowNs s, s.time.now % 65536)] })
        else raise (portCnt s p 16 1) (portSrc p 5) [(4, mdF f.md 0x50 0 16)]
      else s
    freeGrains (txCapture s f.origin f.late (nowNs s)) f.grains
  | [] => s

def execFrameTransmit (p : Nat) (s : State) : Host.Outcome State Fault Refusal :=
  .next (if portServes s p then frameTransmit s p else s)

/-- A read of EN_TS_FIFO_W0 (R164): it removes the oldest entry and latches words 1 to 3 for the requester; from an empty
FIFO it returns VALID 0. -/
def fifoRead (s : State) (req : Requester) (p : Nat) : State × W32 :=
  let base := Reg.EN_TS_FIFO_W0 (p / 4) (p % 4)
  match (portGet s p).fifo with
  | (tag, ns, frac) :: rest =>
    let s := portUpd s p (fun x => { x with fifo := rest })
    let keep := s.acc.latch.filter (fun e => e.1 ≠ (req, base + 4) && e.1 ≠ (req, base + 8) && e.1 ≠ (req, base + 12))
    let new := [((req, base + 4), BitVec.ofNat 32 ns), ((req, base + 8), BitVec.ofNat 32 (ns / 2 ^ 32)), ((req, base + 12), BitVec.ofNat 32 frac)]
    ({ s with acc := { s.acc with latch := new ++ keep } }, BitVec.ofNat 32 (tag + 0x10000))
  | [] => (s, 0)

def execTsFifoPop (req : Requester) (p : Nat) (s : State) : Host.Outcome State Fault Refusal :=
  .next (if portPresent s p then
    let r := fifoRead s req p
    emit r.1 (.regRead req (Reg.EN_TS_FIFO_W0 (p / 4) (p % 4)) r.2)
  else s)

/-! Recovered clocks (R165). -/

/-- The divider of a recovered clock by FREQ and the lanes' rate, 106.25 GBd or in mode 4 53.125 GBd; 0 for an output that is
off. -/
def rclkDivider (s : State) (pg : Nat) : Nat :=
  let f := rdF s (Reg.EN_RCLK_CTL pg) 2 2
  let d := if f = 1 then 680 else if f = 2 then 4250 else 0
  match pgMode s pg with
  | 0 => 0
  | 4 => d / 2
  | _ => d

/-- The output carries the lane's clock, divided; off or squelched it is held low. -/
def rclkDrive (s : State) (pg : Nat) : State :=
  if rclkDivider s pg = 0 || rdF s (Reg.EN_RCLK_CTL pg) 4 1 = 1 then drive s .recclk pg false
  else emit s (.recovered pg (rdF s (Reg.EN_RCLK_CTL pg) 0 2) (rclkDivider s pg))

/-- A write of EN_RCLK_CTL that passed the gate. -/
def rclkWrite (s : State) (pg : Nat) (v : W32) : State :=
  let old := rclkGood s pg && rdF s (Reg.EN_RCLK_CTL pg) 0 2 == rfld v 0 2
  rclkDrive (rclkMark (plainWrite s (Reg.EN_RCLK_CTL pg) 0xF v) pg old) pg

/-- RCLK_SQUELCH: the output is held low when the selected lane has lost CDR lock or signal. -/
def execRclkSquelch (pg : Nat) (s : State) : Host.Outcome State Fault Refusal :=
  .next (if pg < 8 && !rclkGood s pg && rdF s (Reg.EN_RCLK_CTL pg) 4 1 = 0 then
    let s := drive (wrF s (Reg.EN_RCLK_CTL pg) 4 1 1) .recclk pg false
    raise s (portSrc (4 * pg) 6) [(4, 1)]
  else s)

/-- RCLK_RESUME: lock has returned for 1 ms. -/
def execRclkResume (pg : Nat) (s : State) : Host.Outcome State Fault Refusal :=
  .next (if pg < 8 && rclkGood s pg && rdF s (Reg.EN_RCLK_CTL pg) 4 1 = 1 && agetD s.net.rclk pg 0 + msUnits ≤ s.time.elapsed then
    let s := rclkDrive (wrF s (Reg.EN_RCLK_CTL pg) 4 1 0) pg
    raise s (portSrc (4 * pg) 6) [(4, 0)]
  else s)

end Sys2Proof.Machine
end

