-- ==== Sys2Proof/Machine/Rm.lean ====
section
/-! DEFINITION. Machine/Rm.lean: the admin commands of the remote memory transport, the packets it generates, its timers and
its state cache (chapter 14). -/

namespace Sys2Proof.Machine

/-! QP_MODIFY (R472 to R474, R494). -/

/-- The queue-pair channel that an admin command names for a target slice: its index, channel and state, or the status. -/
def cmdQp (s : State) (t : Nat) (cmd : List Byte) : Byte ⊕ (Nat × Chan × Qp) :=
  match chanOf s (par cmd 0x10 0 32) with
  | some (i, c) =>
    if c.slice ≠ t then .inl STS_BAD_HANDLE
    else if c.kind ≠ 4 then .inl STS_BAD_KIND
    else match qpGet s i with
      | some q => .inr (i, c, q)
      | none => .inl STS_BAD_KIND
  | none => .inl STS_BAD_HANDLE

/-- Transitions that QP_MODIFY may request (R472). -/
def qpStep (old new : Nat) : Bool :=
  match old with
  | 0 => new == 1
  | 1 => new == 2 || new == 0 || new == 4
  | 2 => new == 3 || new == 0 || new == 4
  | 3 => new == 3 || new == 0 || new == 4
  | _ => new == 0

/-- An enabled queue of a slice. -/
def queueOf (s : State) (sl q : Nat) : Bool := nc (nodeGet s 0 q) 0 0 1 == 1 && qSlice (nodeGet s 0 q) == sl

/-- The host link of a slice. -/
def sliceLink (s : State) (sl : Nat) : Option Nat := (aget s.slices sl).bind (fun x => x.link)

/-- A path is valid: only valid paths are held. -/
def pathOk (s : State) (n : Nat) : Bool := (aget s.rm.paths n).isSome

/-- RESET to INIT: the attributes, the key slot's role and the spill slot. -/
def qpInit (s : State) (i : Nat) (c : Chan) (q : Qp) (a : List Byte) : Byte ⊕ State :=
  let enc := (leAt a 4 4).testBit 3
  let spillHost := (leAt a 4 4).testBit 9
  let txQ := leAt a 0x24 4 % 2 ^ 18
  let rxQ := leAt a 0x28 4 % 2 ^ 18
  let off := leAt a 0x3C 2
  let addr := leAt a 0x78 8
  if !queueOf s c.slice txQ || queueRoot s (nodeGet s 0 txQ) ≥ 32 then .inl STS_RM_ATTR
  else if !queueOf s c.slice rxQ || sliceLink s c.slice ≠ some (queueRoot s (nodeGet s 0 rxQ) - 32) || queueRoot s (nodeGet s 0 rxQ) < 32 then .inl STS_RM_ATTR
  else if !enc && rdF s Reg.RM_CTL 0 1 = 0 then .inl STS_RM_ATTR
  else if spillHost && addr % 256 ≠ 0 then .inl STS_RM_ATTR
  else if rdF s Reg.RM_UDP_PORT 0 16 = 0 then .inl STS_RM_ATTR
  else
    let key : Byte ⊕ State := if !enc then .inr s else
      match slotAbs s c.slice off with
      | none => .inl STS_KEY_SLOT
      | some x => match useSlot s x 2 with
        | .inl e => .inl e
        | .inr (s, _) => .inr s
    match key with
    | .inl e => .inl e
    | .inr s =>
      let used := s.rm.qps.filterMap (fun e => e.2.spill)
      let n := rdF s Reg.RM_SPILL_MB 0 16 * 8192
      let free := (List.range (min n (used.length + 1))).find? (fun x => !used.contains x)
      if !spillHost && free.isNone then .inl STS_NO_RESOURCE else
      .inr (qpUpd s i (fun _ =>
        { q with tstate := 1, side := fld (leAt a 4 4) 4 1, enc := enc, slot := off, spillHost := spillHost,
                 spillAddr := if spillHost then addr else 0, spill := if spillHost then none else free, pmtu := fld (leAt a 4 4) 10 2,
                 txQ := txQ, rxQ := rxQ }))

/-- The context label of a queue pair (R494). -/
def qpLabel (h : Nat) (q : Qp) : List Byte :=
  be 1 1 ++ be 7 0 ++ fit 16 q.idA ++ fit 16 q.idB ++ be 4 (if q.side = 0 then h else q.peer) ++ be 4 q.inst

/-- The keys of both directions of a new context enter the derivation cache of the queue pair's stair. -/
def qpDerive (s : State) (i : Nat) (c : Chan) (x : Cctx) (root : Nat) : State :=
  match stairOf s c.home with
  | none => s
  | some p =>
    let put (s : State) (d dir : Nat) : State := cacheFill s p (dkCode true i d x.txEpoch) (derived root (labelFor x.label dir x.txEpoch))
    bump (put (put s 0 x.side) 1 (1 - x.side)) Reg.KS_DERIVE_CNT 2

/-- INIT to RTR. -/
def qpRtr (s : State) (i : Nat) (c : Chan) (q : Qp) (a : List Byte) : Byte ⊕ State :=
  let path := leAt a 0xC 2
  if !pathOk s path then .inl STS_RM_ATTR else
  let q := { q with tstate := 2, peer := leAt a 8 4, path := path, sport := leAt a 0xE 2, epsn := leAt a 0x18 4, coalesce := leAt a 0x2E 2,
                    ackDelay := leAt a 0x32 2, msgTimeout := leAt a 0x38 2, rnrTime := leAt a 0x3A 2, inst := leAt a 0x50 4,
                    idA := slice a 0x58 16, idB := slice a 0x68 16 }
  if !q.enc then .inr (qpUpd s i (fun _ => q)) else
  match slotAbs s c.slice q.slot with
  | none => .inl STS_KEY_SLOT
  | some abs => match useSlot s abs 2 with
    | .inl e => .inl e
    | .inr (s, k) =>
      let e := leAt a 0x40 4
      let x : Cctx := { slice := c.slice, slot := abs, derive := true, side := q.side, label := qpLabel (chanHandle i c) q, txEpoch := e, rxEpoch := e }
      .inr (qpDerive (qpUpd s i (fun _ => { q with sec := some x })) i c x k.key)

/-- The attributes that RTR to RTS and RTS to RTS share. -/
def qpTimers (q : Qp) (a : List Byte) : Qp :=
  let w := leAt a 4 4
  { q with rtoMin := leAt a 0x30 2, rtoMax := leAt a 0x34 4, retry := fld w 12 4, rnrRetry := fld w 16 4, ccEn := w.testBit 5, ccProf := fld w 6 3 }

/-- A queue pair takes its next state with an attribute block (R472 to R474). -/
def qpAttrs (s : State) (i : Nat) (c : Chan) (q : Qp) (a : List Byte) : State × Option AdminRes :=
  let ok (s : State) : State × Option AdminRes := (s, some { handle := chanHandle i c })
  match q.tstate with
  | 0 => match qpInit s i c q a with
    | .inl e => failed s e
    | .inr s => ok s
  | 1 => match qpRtr s i c q a with
    | .inl e => failed s e
    | .inr s => ok s
  | 2 =>
    if leAt a 0x2C 2 > 4096 then failed s STS_RM_ATTR
    else
      let n := leAt a 0x10 4
      let q' := qpTimers { q with tstate := 3, sqNxt := n, sqUna := n, window := leAt a 0x2C 2 } a
      ok (qpUpd s i (fun _ => { q' with rto := q'.rtoMin }))
  | _ =>
    if !pathOk s (leAt a 0xC 2) then failed s STS_RM_ATTR
    else ok (qpUpd s i (fun _ => { qpTimers q a with path := leAt a 0xC 2, sport := leAt a 0xE 2 }))

/-- QP_MODIFY (R472 to R474). -/
def execQpModify (sl : Nat) (cmd : List Byte) (env : Env) (s : State) : Host.Outcome State Fault Refusal :=
  .next (if !mayRead s sl && par cmd 0x14 0 3 ≠ 0 && par cmd 0x14 0 3 ≠ 4 then s else runAdmin s sl 0x80 cmd (fun s t =>
    match cmdQp s t cmd with
    | .inl e => failed s e
    | .inr (i, c, q) =>
      let new := par cmd 0x14 0 3
      let ok (s : State) : State × Option AdminRes := (s, some { handle := chanHandle i c })
      let reads : Bool := (q.tstate = 0 && new = 1) || (q.tstate = 1 && new = 2) || (q.tstate = 2 && new = 3) || (q.tstate = 3 && new = 3)
      if !qpStep q.tstate new then failed s STS_RM_QP_STATE
      else if new = 0 then
        let s := adminDefer s sl 0x80 (leAt cmd 8 8) (chanHandle i c)
        (resetOrHold s i, none)
      else if new = 4 then ok (qpError s i STS_FLUSHED none true)
      else if reads then adminRead s sl (par cmd 0x18 0 64) 128 env (fun s bs => qpAttrs s i c q (fit 128 bs))
      else qpAttrs s i c q (fit 128 [])))

/-- QP_QUERY (R475). -/
def execQpQuery (sl : Nat) (cmd : List Byte) (env : Env) (s : State) : Host.Outcome State Fault Refusal :=
  .next (runAdmin s sl 0x81 cmd (fun s t =>
    match cmdQp s t cmd with
    | .inl e => failed s e
    | .inr (i, c, q) => adminResult s sl cmd (qpRecord i c q) env))

/-! Regions (R483 to R486). -/

/-- A region index can be taken: free for a second (R483). -/
def regionFree (s : State) (i : Nat) : Bool :=
  !s.rm.regions.any (fun e => e.1 % 2 ^ 24 == i) && !(aget s.rm.freed i).any (fun t => s.time.elapsed < t + 1000 * msUnits)

/-- REG_REGION (R483). -/
def execRegRegion (sl : Nat) (cmd : List Byte) (s : State) : Host.Outcome State Fault Refusal :=
  .next (runAdmin s sl 0x82 cmd (fun s t =>
    if par cmd 0x18 0 64 ≥ 2 ^ 48 then failed s STS_INVALID_PARAM
    else if (s.rm.regions.filter (fun e => e.2.slice == t)).length ≥ sliceLimit s t 4 then failed s STS_QUOTA
    else
      let r := draw s
      let n := r.1 % 2 ^ 24
      match (if regionFree s n then some n else (List.range (s.rm.regions.length + s.rm.freed.length + 1)).find? (fun i => i < 2 ^ 24 && regionFree s i)) with
      | none => failed s STS_NO_RESOURCE
      | some i =>
        let tag := agetD s.rm.tags i 0 % 255 + 1
        let key := tag * 2 ^ 24 + i
        let x : Region := { slice := t, addr := par cmd 0x10 0 64, len := par cmd 0x18 0 64, access := par cmd 0x20 0 3, born := s.rm.births }
        (rmUpd r.2 (fun m => { m with regions := aset m.regions key x, tags := aset m.tags i tag, births := m.births + 1 }), some { aux := key })))

/-- The region of a slice that a command names. -/
def cmdRegion (s : State) (t : Nat) (cmd : List Byte) : Option (Nat × Region) :=
  match aget s.rm.regions (par cmd 0x10 0 32) with
  | some r => if r.slice = t then some (par cmd 0x10 0 32, r) else none
  | none => none

/-- DEREG_REGION (R486): it completes at once when nothing refers to the region. -/
def execDeregRegion (sl : Nat) (cmd : List Byte) (s : State) : Host.Outcome State Fault Refusal :=
  .next (runAdmin s sl 0x83 cmd (fun s t =>
    match cmdRegion s t cmd with
    | some (key, r) =>
      if r.revoking then failed s STS_RM_BAD_KEY
      else if r.refs = 0 then (regionGone s key, some {})
      else (adminDefer (revoke s key) sl 0x83 (leAt cmd 8 8) key, none)
    | none => failed s STS_RM_BAD_KEY))

/-- DEREG_COMPLETE (R486): a revoked region's count has reached zero. -/
def execDeregComplete (key : Nat) (s : State) : Host.Outcome State Fault Refusal :=
  .next (match aget s.rm.regions key with
    | some r => if r.revoking && r.refs = 0 then reclaimCheck (adminWake (regionGone s key) 0x83 key {}) else s
    | none => s)

/-- REVOKE_SLOW (R504). -/
def execRevokeSlow (key : Nat) (s : State) : Host.Outcome State Fault Refusal :=
  .next (match aget s.rm.regions key with
    | some r =>
      if r.revoking && !r.slow && r.since + msUnits ≤ s.time.elapsed then
        raise (rmUpd s (fun m => { m with regions := aset m.regions key { r with slow := true } })) 0x885 [(2, r.slice), (4, key), (4, r.refs)]
      else s
    | none => s)

/-- QUERY_REGION (R475). -/
def execQueryRegion (sl : Nat) (cmd : List Byte) (env : Env) (s : State) : Host.Outcome State Fault Refusal :=
  .next (runAdmin s sl 0x84 cmd (fun s t =>
    match cmdRegion s t cmd with
    | some (key, r) => adminResult s sl cmd (regionRecord key r) env
    | none => failed s STS_RM_BAD_KEY))

/-! Paths (R476). -/

/-- PATH_SET. -/
def execPathSet (sl : Nat) (cmd : List Byte) (env : Env) (s : State) : Host.Outcome State Fault Refusal :=
  .next (if !mayRead s sl then s else runAdmin s sl 0x85 cmd (fun s _ =>
    if sl ≠ 0 then failed s STS_PERMISSION else
    adminRead s sl (par cmd 0x18 0 64) 64 env (fun s bs =>
      let p := fit 64 bs
      let n := par cmd 0x10 0 16
      let w := leAt p 0 4
      if !w.testBit 0 then (rmUpd s (fun r => { r with paths := adel r.paths n }), some {})
      else if !w.testBit 1 && (leAt p 0x1C 12 ≠ 0 || leAt p 0x2C 12 ≠ 0) then failed s STS_RM_ATTR
      else (rmUpd s (fun r => { r with paths := aset r.paths n p }), some {}))))

/-- PATH_QUERY. -/
def execPathQuery (sl : Nat) (cmd : List Byte) (env : Env) (s : State) : Host.Outcome State Fault Refusal :=
  .next (runAdmin s sl 0x86 cmd (fun s _ =>
    if sl ≠ 0 then failed s STS_PERMISSION
    else adminResult s sl cmd (agetD s.rm.paths (par cmd 0x10 0 16) (List.replicate 64 0)) env))

/-! Generation (R464, R466, R477, R478, R480, R487). -/

/-- Packets of a queue pair admitted to its TX_QUEUE and not yet dispatched. -/
def txWaiting (s : State) (i : Nat) (q : Qp) : Nat := ((nodeGet s 0 q.txQ).pkts.filter (fun x => x.pkt.qp == some i)).length

/-- A generated packet enters the ingress flight of its home stair. Without a valid path it counts as lost. -/
def grmtEnter (s : State) (i : Nat) (c : Chan) (q : Qp) (op fl psn msn : Nat) (ext pay : List Byte) : State :=
  match aget s.rm.paths q.path with
  | none => s
  | some path =>
    let b := buildGrmt s i c q path op fl psn msn ext pay
    let r := newPkt (takeGrains s (grainsOf b.length)) b (mdNew 0 0 33 c.slice)
    enterOther r.1 c.home 0 { r.2 with qp := some i }

/-- Flags of a data packet. -/
def grmtFlags (ack first last : Bool) : Nat := b2n ack * 2 ^ 13 + b2n first * 2 ^ 12 + b2n last * 2 ^ 11

/-- The extension header of a data packet. -/
def dataExt (op off len va key imm : Nat) (last : Bool) : List Byte :=
  let tail := if (op = 2 || op = 4) && last then be 4 imm else []
  match op with
  | 1 | 2 => be 4 off ++ be 4 len ++ tail
  | 6 => be 4 va ++ be 4 off
  | _ => be 8 (va + off) ++ be 4 key ++ be 4 len ++ tail

/-- A data packet goes out: new, or again with its PSN. `va` is REMOTE_ADDR, or REQ_PSN of a READ_RESP. -/
def sendData (s : State) (i : Nat) (c : Chan) (q : Qp) (x : TxPkt) (len msn va key imm : Nat) (again : Bool) (pay : List Byte) : State :=
  let last := x.op = 5 || x.off + x.len ≥ len
  let fl := grmtFlags (again || last || (x.psn + 1) % 64 = 0) (x.off = 0) last
  let s := qpUpd s i (fun q => { q with rtoAt := if q.rtoAt = 0 then s.time.elapsed else q.rtoAt })
  grmtEnter s i c q x.op fl x.psn msn (dataExt x.op x.off len va key imm last) pay

/-- The opcode on the wire of a descriptor opcode. -/
def wireOp (op : Nat) : Nat := op - 0x2F

/-- The memory that holds the payload of a packet sent before: of the read that it answers, or of its work request. -/
def sentPieces (c : Chan) (q : Qp) (x : TxPkt) : List (Nat × Nat) :=
  if x.op = 5 then []
  else if x.op = 6 then ((q.resps.find? (fun r => r.reqPsn == x.work)).map (fun r => [(r.va + x.off, x.len)])).getD []
  else ((c.ents.find? (fun e => e.idx == x.work)).map (fun e => elemSlice e.elems x.off x.len)).getD []
def sentAttr (s : State) (c : Chan) (x : TxPkt) : Nat :=
  if x.op = 6 then 0 else ((c.ents.find? (fun e => e.idx == x.work)).map (fun e => descAttr s c.slice e.desc (boundVec s c))).getD 0

/-- A retransmission (R487): the packet is rebuilt from its work request. -/
def genAgain (s : State) (i : Nat) (c : Chan) (q : Qp) (env : Env) : State :=
  match q.sent.find? (fun x => x.resend && !x.acked) with
  | none => s
  | some x =>
    match slFetch s c.slice (sentPieces c q x) (sentAttr s c x) (envRead env 0) with
    | (s, .failed e) => qpError s i e (if x.op = 6 then none else some x.work) true
    | (s, .ok bs) =>
      let s := qpUpd s i (fun q => { q with sent := q.sent.map (fun y => if y.psn = x.psn then { y with resend := false, sent := nowNs s } else y) })
      let s := bump s Reg.RM_RETX_CNT
      let pay := if x.op = 5 then [] else fit x.len bs
      if x.op = 6 then
        match q.resps.find? (fun r => r.reqPsn == x.work) with
        | some r => sendData s i c q x r.len 0 r.reqPsn r.key 0 true pay
        | none => s
      else match q.works.find? (fun w => w.idx == x.work), c.ents.find? (fun e => e.idx == x.work) with
        | some w, some e => sendData s i c q x w.len w.msn (leAt e.desc 0x10 8) (leAt e.desc 0x18 4) (leAt e.desc 4 4) true pay
        | _, _ => s

/-- The next READ_RESP packet. A failed read of the data is answered with NAK_OP. -/
def genResp (s : State) (i : Nat) (c : Chan) (q : Qp) (env : Env) : State :=
  match q.resps.find? (fun r => !r.full) with
  | none => s
  | some r =>
    let n := min (pmtuOf q) (r.len - r.pos)
    match slFetch s c.slice [(r.va + r.pos, n)] 0 (envRead env 0) with
    | (s, .failed _) => nakError s i 4 r.reqPsn 0 0
    | (s, .ok bs) =>
      let x : TxPkt := { psn := q.sqNxt, op := 6, work := r.reqPsn, off := r.pos, len := n, sent := nowNs s }
      let s := qpUpd s i (fun q =>
        { q with sqNxt := add32 q.sqNxt 1, sent := q.sent ++ [x],
                 resps := q.resps.map (fun y => if y.reqPsn = r.reqPsn then { y with pos := r.pos + n, full := r.pos + n ≥ r.len } else y) })
      sendData s i c q x r.len 0 r.reqPsn r.key 0 false (fit n bs)

/-- The work request whose next packet is due: the one under way, or the next fetched entry that may start (R478, FENCE of
R186). -/
def nextWork (s : State) (i : Nat) (c : Chan) (q : Qp) : (State × TxWork × Ent) ⊕ Option (Byte × Nat) :=
  let reads := q.works.filter (fun w => w.op == 5)
  match q.works.find? (fun w => !w.full) with
  | some w => match c.ents.find? (fun e => e.idx == w.idx) with
    | some e => .inl (s, w, e)
    | none => .inr none
  | none =>
    match nextBuf c with
    | none => .inr none
    | some e =>
      let op := wireOp (leAt e.desc 0 1)
      if (leAt e.desc 0 4).testBit 24 && !reads.isEmpty then .inr none
      else if op = 5 && reads.length ≥ 64 then .inr none
      else if !elemsOk s c.slice e.elems (op == 5) then .inr (some (STS_RM_LOCAL_PROT, e.idx))
      else
        let ks := elemKeys e.elems
        let w : TxWork := { idx := e.idx, op := op, msn := q.txMsn, len := elemsLen e.elems, psn0 := q.sqNxt, keys := ks }
        let s := chanUpd (refKeys s ks) i (fun c => { c with ents := c.ents.map (fun x => if x.idx = e.idx then { x with begun := true } else x) })
        .inl (qpUpd s i (fun q => { q with txMsn := add32 q.txMsn 1, works := q.works ++ [w] }), w, e)

/-- The next packet of the send queue. -/
def genWork (s : State) (i : Nat) (c : Chan) (q : Qp) (env : Env) : State :=
  match nextWork s i c q with
  | .inr none => s
  | .inr (some (sts, idx)) => qpError s i sts (some idx) true
  | .inl (s, w, e) =>
    let n := if w.op = 5 then 0 else min (pmtuOf q) (w.len - w.pos)
    match slFetch s c.slice (elemSlice e.elems w.pos n) (descAttr s c.slice e.desc (boundVec s c)) (envRead env 0) with
    | (s, .failed sts) => qpError s i sts (some w.idx) true
    | (s, .ok bs) =>
      let x : TxPkt := { psn := q.sqNxt, op := w.op, work := w.idx, off := w.pos, len := n, sent := nowNs s }
      let s := qpUpd s i (fun q =>
        { q with sqNxt := add32 q.sqNxt 1, sent := q.sent ++ [x],
                 works := q.works.map (fun y => if y.idx = w.idx then { y with pos := w.pos + n, full := w.op = 5 || w.pos + n ≥ w.len } else y) })
      sendData s i c q x w.len w.msn (leAt e.desc 0x10 8) (leAt e.desc 0x18 4) (leAt e.desc 4 4) false (fit n bs)

/-- GRMT_PACKET_GENERATE (R464): `what` is 0 an ACK, NAK or ABORT owed, 1 a retransmission, 2 a READ_RESP, 3 the next packet
of the send queue, among which the spec fixes no order. `env` holds the payload as it is read. A packet needs free grains, a
data packet room in TX_QUEUE, a channel that is not STALLED and a function that may read (R111, R115), and a new PSN the window. -/
def execGrmtPacketGenerate (i what : Nat) (env : Env) (s : State) : Host.Outcome State Fault Refusal :=
  .next (match qpGet s i, chanGet s i with
    | some q, some c =>
      let up := (lineOfQp s i).any (fun e => e.2.st == 0)
      let data := q.tstate = 3 && up && q.rnrWait.isNone && txWaiting s i q < 16 && c.state ≠ 3 && mayRead s c.slice
      let fresh := data && decide (psnDiff q.sqNxt q.sqUna < windowOf q)
      let need := if what = 0 then 1 else grainsOf (pmtuOf q + 256)
      if (aget s.slices c.slice).any (fun x => x.state == 4) then s
      else if rdN s Reg.LD_FREE ≤ rdF s Reg.LD_ARR_RSV 0 21 + need then bump s Reg.LD_HOST_WAIT_CNT else
      match what with
      | 0 =>
        match q.owed with
        | (op, ext) :: rest =>
          if q.tstate < 2 then s
          else grmtEnter (qpUpd s i (fun q => { q with owed := rest })) i c q op (grmtFlags false true true) q.sqNxt 0 ext []
        | [] => s
      | 1 => if data then genAgain s i c q env else s
      | 2 => if fresh then genResp s i c q env else s
      | 3 => if fresh then genWork s i c q env else s
      | _ => s
    | _, _ => s)

/-! Timers (R489, R491 to R493). -/

/-- ACK_DELAY_TIMER (R489). -/
def execAckDelayTimer (i : Nat) (s : State) : Host.Outcome State Fault Refusal :=
  .next (match qpGet s i with
    | some q => match q.ackAt with
      | some (t, echo, owd) => if t + q.ackDelay * usUnits ≤ s.time.elapsed then oweAck s i 0 echo owd 0 else s
      | none => s
    | none => s)

/-- RETRANSMIT_TIMEOUT (R491). -/
def execRetransmitTimeout (i : Nat) (s : State) : Host.Outcome State Fault Refusal :=
  .next (match qpGet s i, chanGet s i with
    | some q, some c =>
      if q.tstate = 3 && q.rtoMin ≠ 0 && q.sent.any (fun x => !x.acked) && q.rtoAt + q.rto * usUnits ≤ s.time.elapsed && !sliceFrozen s c.slice then
        let s := bump s Reg.RM_RTO_CNT
        if q.expiries + 1 > q.retry then
          qpError s i STS_RM_RETRY_EXCEEDED ((q.sent.find? (fun x => !x.acked && x.op ≠ 6)).map (fun x => x.work)) true
        else
          qpUpd s i (fun q =>
            { q with sent := q.sent.map (fun x => if x.psn = q.sqUna then { x with resend := true } else x),
                     rto := min (2 * q.rto) (max q.rtoMin q.rtoMax), rtoAt := s.time.elapsed, expiries := q.expiries + 1 })
      else s
    | _, _ => s)

/-- RNR_WAIT_EXPIRE (R492): every unacknowledged packet from NAK_PSN onward is resent. -/
def execRnrWaitExpire (i : Nat) (s : State) : Host.Outcome State Fault Refusal :=
  .next (match qpGet s i with
    | some q => match q.rnrWait with
      | some (t, nak, _) =>
        if t ≤ s.time.elapsed then
          qpUpd s i (fun q => { q with rnrWait := none, sent := q.sent.map (fun x => if !x.acked && psnDiff x.psn nak ≥ 0 then { x with resend := true } else x) })
        else s
      | none => s
    | none => s)

/-- MSG_TIMEOUT (R493). -/
def execMsgTimeout (i : Nat) (s : State) : Host.Outcome State Fault Refusal :=
  .next (match qpGet s i with
    | some q =>
      let late (t : Nat) : Bool := t + q.msgTimeout * msUnits ≤ s.time.elapsed
      if q.msgTimeout ≠ 0 && (q.msgs.any (fun m => m.op ≠ 0 && !m.done && late m.since) || q.resps.any (fun r => late r.since)) then
        qpError s i STS_RM_MSG_TIMEOUT none true
      else s
    | none => s)

/-! The state cache (R497 to R500). -/

/-- Packets parked on a queue pair go back to their flight in arrival order. -/
def qpUnpark (s : State) (i : Nat) : State :=
  match chanGet s i with
  | some c => unpark s (fun x => x.key == .qp i) c.home
  | none => unpark s (fun x => x.key == .qp i) 0

/-- The read of a queue pair's spill slot in its slice's memory, which ends with a status (1: the bytes fail their check): the state and
the status of the fetch. -/
def spillRead (s : State) (sl addr : Nat) (sts : Byte) : State × Byte :=
  match slFetch s sl [(addr, 256)] 0 (if sts = STS_OK || sts = 1 then .ok [] else .failed sts) with
  | (s, .failed e) => (s, e)
  | (s, .ok _) => (s, sts)

/-- A queue pair's spill slot that lies in host memory: the slice and the address. -/
def hostSpill (s : State) (i : Nat) : Option (Nat × Nat) :=
  (qpGet s i).bind (fun q => if q.spillHost then (chanGet s i).map (fun c => (c.slice, q.spillAddr)) else none)

/-- QP_FETCH_COMPLETE (R497, R499): the state returns, or fails its check or its read with a status. A state that was spilled to a
pair which has lost both members fails (R602). A read of host memory waits while the function may issue none (R111, R115). -/
def execQpFetchComplete (i : Nat) (sts : Byte) (s : State) : Host.Outcome State Fault Refusal :=
  .next (match lineOfQp s i with
    | some (l, x) =>
      if x.st ≠ 3 || (hostSpill s i).any (fun h => !mayRead s h.1) then s else
      let r := match hostSpill s i with
        | some h => spillRead s h.1 h.2 sts
        | none => (s, if guardedGone s 1 i 0 && sts = STS_OK then 1 else sts)
      let s := r.1
      let sts := r.2
      if sts = STS_OK then qpUnpark (rmUpd s (fun r => { r with lines := aset r.lines l { x with st := 0, used := r.clock }, clock := r.clock + 1 })) i
      else
        let sl := ((chanGet s i).map (fun c => c.slice)).getD 0
        let h := ((chanGet s i).map (fun c => chanHandle i c)).getD 0
        let s := raise s 0x884 [(2, sl), (4, h)]
        let s := sliceFault (qpError s i STS_RM_STATE_LOST none true) sl (if sts = 1 then STS_SLICE_FAULTED else sts)
        qpUnpark (qpDropLine s i) i
    | none => s)

/-- The least recently used line among the idle ones (R498). -/
def lruIdle (s : State) : Option Nat :=
  (s.rm.lines.foldl (fun best e =>
    if e.2.st = 0 && !qpBusy s e.2.qp then
      match best with
      | some (b : Nat × QpLine) => if e.2.used < b.2.used then some e else best
      | none => some e
    else best) none).map (fun e => e.1)

/-- QP_EVICT (R498, R500): when a fetch waits for a line, the least recently used idle line is marked LEAVING; with `start`
its write-back starts as well, as it does when the row meets a line already LEAVING. A state that spills to host memory is
written there sealed under a device key, so that its bytes are free values. -/
def execQpEvict (start : Bool) (s : State) : Host.Outcome State Fault Refusal :=
  .next (
    let go (s : State) (l : Nat) (x : QpLine) : State :=
      let s := rmUpd s (fun r => { r with lines := aset r.lines l { x with st := 2 } })
      match qpGet s x.qp, chanGet s x.qp with
      | some q, some c =>
        if q.spillHost then
          let r := draw s
          slWrite r.2 c.slice q.spillAddr 0 (le 256 r.1)
        else s
      | _, _ => s
    match s.rm.lines.find? (fun e => e.2.st == 1) with
    | some (l, x) => if start then go s l x else s
    | none =>
      if s.rm.wants.isEmpty then s else
      match lruIdle s with
      | some l => match aget s.rm.lines l with
        | some x => if start then go s l x else rmUpd s (fun r => { r with lines := aset r.lines l { x with st := 1 } })
        | none => s
      | none => s)

/-- QP_WRITEBACK_DONE (R497, R500): the write-back of a line ends with a status. -/
def execQpWritebackDone (i : Nat) (sts : Byte) (s : State) : Host.Outcome State Fault Refusal :=
  .next (match lineOfQp s i with
    | some (l, x) =>
      if x.st ≠ 2 then s else
      let met := s.rm.again.contains i
      let s := rmUpd s (fun r => { r with lines := adel r.lines l, again := r.again.filter (fun y => y ≠ i) })
      if sts = STS_OK then
        let s := bump s Reg.RM_EVICT_CNT
        qpNextFetch (if met then qpFetch s i else s)
      else
        let sl := ((chanGet s i).map (fun c => c.slice)).getD 0
        let h := ((chanGet s i).map (fun c => chanHandle i c)).getD 0
        let s := raise s 0x884 [(2, sl), (4, h)]
        qpNextFetch (qpUnpark (sliceFault (qpError s i STS_RM_STATE_LOST none true) sl sts) i)
    | none => s)

end Sys2Proof.Machine
end

