-- ==== Sys2Proof/Machine/Tables.lean ====
section
/-! DEFINITION. Machine/Tables.lean: table commands and configuration of a stair, sweeps, scrubs, L2 learning and DEEP
fetches (chapter 9). -/

namespace Sys2Proof.Machine

/-! Commands (R307 to R311). -/

/-- The command registers of a stair as they stand at a write of STA_TBL_CMD. -/
def readCmd (s : State) (st : Nat) (v : W32) (ecc : Nat := 0) : TblCmd :=
  let words (f : Nat → Nat) (n : Nat) : List Byte := (List.range n).flatMap (fun w => le 4 (rdN s (f w)))
  { op := rfld v 8 4, table := rfld v 0 6, bcast := rbit v 12, staged := rbit v 13, flag := rbit v 14,
    index := rdF s (Reg.STA_TBL_INDEX st) 0 26, hdr0 := rdN s (Reg.STA_TBL_HDR0 st), hdr1 := rdN s (Reg.STA_TBL_HDR1 st),
    key := words (Reg.STA_TBL_KEY st) 20, mask := words (Reg.STA_TBL_MASK st) 20, data := words (Reg.STA_TBL_DATA st) 8, ecc := ecc }

/-- What a command leaves: its status, RESULT, and an entry for the registers. -/
structure TblOut where
  sts   : Byte := 0
  index : Nat := 0
  moves : Nat := 0
  stash : Bool := false
  entry : Option TEntry := none
deriving DecidableEq, Repr

/-- Key and data of the command for its table, and the entry it would insert. -/
def cmdKey (s : State) (p : Nat) (c : TblCmd) : List Byte :=
  match tblKind s p c.table with
  | 4 => c.key.take (if tcf s p c.table 0 11 1 = 0 then 6 else 18)
  | k => if k = 6 then l2Key (c.key.take 8) else c.key.take (keyLen s p c.table)

def cmdEntry (s : State) (p : Nat) (c : TblCmd) : TEntry :=
  let k := tblKind s p c.table
  let pri := fld c.hdr0 16 16
  { always := !c.staged, action := if k = 6 then 0 else fld c.hdr0 8 8, pri := if k = 3 || k = 4 then pri else 0,
    born := if c.staged then sheafStaged s else sheafCur s, flags := if k = 6 then fld c.hdr0 3 2 else 0,
    key := cmdKey s p c, mask := if k = 3 then c.mask.take (keyLen s p c.table) else [],
    data := if k = 6 then le 4 (leAt c.data 0 4 % 2 ^ 20) ++ List.replicate 4 0
            else if k = 7 then patch (c.data.take 32) 12 (le 4 (bornNow s)) else c.data.take (dataLen s p c.table) }

def allZero (bs : List Byte) : Bool := bs.all (· == 0)

/-- A command key for an LPM entry that R291 rejects. -/
def badLpmKey (s : State) (p : Nat) (c : TblCmd) : Bool :=
  tblKind s p c.table == 4 &&
    (let n := if tcf s p c.table 0 11 1 = 0 then 6 else 18
     let plen := fld c.hdr0 16 8
     let w := if n = 6 then 32 else 128
     beAt c.key 0 2 > 4095 || plen > w || ofBe ((c.key.take n).drop 2) % 2 ^ (w - plen) ≠ 0)

/-- The conditions of STS_BAD_ENTRY for INSERT and WRITE (R291, R308). The key length is that of R271: for DIRECT and TCAM too the
sum of the LENs (log entry 25). -/
def badEntry (s : State) (p : Nat) (c : TblCmd) : Bool :=
  let k := tblKind s p c.table
  let n := if k = 4 then (if tcf s p c.table 0 11 1 = 0 then 6 else 18) else if k = 2 || k = 3 then selSum s p c.table else keyLen s p c.table
  (k ≠ 6 && k ≠ 7 && (c.hdr0.testBit 1 || c.hdr0.testBit 2)) ||
  !allZero (c.key.drop n) ||
  (k == 2 && c.op == 6 && !allZero (c.data.drop (dataLen s p c.table))) || badLpmKey s p c

/-- The sheaf of the command's mode. -/
def modeSheaf (s : State) (c : TblCmd) : Nat := if c.staged then sheafStaged s else sheafCur s

/-- The exact LPM prefix of a command in the mode's view, and any prefix of that key and length. -/
def lpmExact (s : State) (p : Nat) (c : TblCmd) : Option (Nat × TEntry) :=
  (s.lpm.find? (fun e => e.2.1 == c.table && e.2.2.key == cmdKey s p c && e.2.2.pri % 256 == fld c.hdr0 16 8 && visible e.2.2 (modeSheaf s c))).map (fun e => (e.1, e.2.2))

/-- The entry with the command's key in the mode's view. -/
def keyed (s : State) (p : Nat) (c : TblCmd) : Option (Nat × TEntry) :=
  match tblKind s p c.table with
  | 4 => lpmExact s p c
  | 6 | 7 => hashFind s p c.table (cmdKey s p c) (fun _ => true)
  | _ => hashFind s p c.table (cmdKey s p c) (fun e => visible e (modeSheaf s c))

/-- Some stored entry of the command's key carries an uncommitted staged change (R282, R286; log 25). -/
def stagedKey (s : State) (p : Nat) (c : TblCmd) : Bool :=
  match tblKind s p c.table with
  | 4 => s.lpm.any (fun e => e.2.1 == c.table && e.2.2.key == cmdKey s p c && e.2.2.pri % 256 == fld c.hdr0 16 8 && uncommitted e.2.2 (sheafStaged s))
  | 6 | 7 => false
  | _ => (hashFind s p c.table (cmdKey s p c) (fun e => uncommitted e (sheafStaged s))).isSome

def tblOf (s : State) (p : Nat) (c : TblCmd) : Nat := tblStore s p c.table

/-- The weight of LPM prefixes against the gallery's capacity (R292). -/
def lpmWeight (s : State) : Nat := s.lpm.foldl (fun n e => n + (if e.2.2.key.length = 6 then 1 else 2)) 0

/-- Adds an entry to the command's table. -/
def addEntry (s : State) (p : Nat) (c : TblCmd) (e : TEntry) : State × TblOut :=
  let full (s : State) : State × TblOut := (tblFull (bump s (Reg.STA_TBL_FULL_CNT p)) p c.table, { sts := STS_TABLE_FULL })
  if tblKind s p c.table = 4 then
    if lpmWeight s + (if e.key.length = 6 then 1 else 2) > 2097152 then full s else
    match afree s.lpm 2097152 with
    | some i => ({ s with lpm := aset s.lpm i (c.table, e) }, { index := i })
    | none => full s
  else match placeEntry (tblBuckets s p c.table) (tblSeeds s p c.table) (entriesOf s p (tblOf s p c)) e with
    | some (m, i, mv, st) => (cmdEntries s p (tblOf s p c) m (some i), { index := i, moves := mv, stash := st })
    | none => full s

/-- Replaces or removes the entry at a slot. -/
def putSlot (s : State) (p : Nat) (c : TblCmd) (i : Nat) (e : Option TEntry) : State :=
  if tblKind s p c.table = 4 then
    { s with lpm := match e with | some e => aset s.lpm i (c.table, e) | none => adel s.lpm i }
  else cmdEntries s p (tblOf s p c) (match e with
    | some e => aset (entriesOf s p (tblOf s p c)) i e
    | none => adel (entriesOf s p (tblOf s p c)) i) (some i)

def slotAt (s : State) (p : Nat) (c : TblCmd) (i : Nat) : Option TEntry :=
  if tblKind s p c.table = 4 then (aget s.lpm i).map (fun e => e.2) else aget (entriesOf s p (tblOf s p c)) i

/-- Removes an entry at once, or retires it at the staged sheaf (R281, R282). -/
def dropEntry (s : State) (p : Nat) (c : TblCmd) (i : Nat) (e : TEntry) : State × TblOut :=
  if c.staged then (putSlot s p c i (some { e with retSet := true, retired := sheafStaged s }), { index := i })
  else if uncommitted e (sheafStaged s) && tblKind s p c.table ≤ 5 then (s, { sts := STS_STAGED_CONFLICT })
  else (putSlot s p c i none, { index := i })

def cmdLookup (s : State) (p : Nat) (c : TblCmd) : State × TblOut :=
  if c.flag && badLpmKey s p c then (s, { sts := STS_BAD_ENTRY }) else
  let r := if tblKind s p c.table = 4 && c.flag then lpmExact s p c
    else tblFind s p c.table (if tblKind s p c.table = 2 then c.key.take (keyLen s p c.table) else cmdKey s p c) (modeSheaf s c)
  match r with
  | some (i, e) => (s, { index := i, entry := some e })
  | none => (s, { sts := STS_NO_ENTRY })

def cmdRead (s : State) (p : Nat) (c : TblCmd) : State × TblOut :=
  if c.index ≥ tblSlots s p c.table then (s, { sts := STS_BAD_INDEX }) else
  match slotAt s p c c.index with
  | some e =>
    let s := if tblKind s p c.table = 6 && c.flag then putSlot s p c c.index (some { e with flags := e.flags % 2 }) else s
    (s, { index := c.index, entry := some e })
  | none => (s, { index := c.index, entry := some { always := false, key := [], data := [] } })

def cmdInsert (s : State) (p : Nat) (c : TblCmd) : State × TblOut :=
  if badEntry s p c then (s, { sts := STS_BAD_ENTRY })
  else if (keyed s p c).isSome then (s, { sts := STS_EXISTS })
  else if !c.staged && stagedKey s p c then (s, { sts := STS_STAGED_CONFLICT })
  else if tblKind s p c.table = 7 then
    match gleanPut s p (cmdKey s p c) (c.data.take 32) with
    | some r => (r.1, { index := r.2.1, moves := r.2.2.1, stash := r.2.2.2 })
    | none => (tblFull (bump s (Reg.STA_TBL_FULL_CNT p)) p 62, { sts := STS_TABLE_FULL })
  else addEntry s p c (cmdEntry s p c)

def cmdUpdate (s : State) (p : Nat) (c : TblCmd) : State × TblOut :=
  if badLpmKey s p c then (s, { sts := STS_BAD_ENTRY }) else
  match keyed s p c with
  | none => (s, { sts := STS_NO_ENTRY })
  | some (i, e) =>
    if tblKind s p c.table = 7 then ((gleanWrite s p (cmdKey s p c) (c.data.take 32)).getD s, { index := i }) else
    let n := cmdEntry s p c
    let pri := if tblKind s p c.table = 4 then e.pri % 256 + fld c.hdr0 24 8 * 256 else e.pri
    if c.staged then
      match addEntry s p c { n with pri := pri } with
      | (s', o) =>
        if o.sts ≠ STS_OK then (s', o) else
        -- a move of the insert may have carried the old entry to another slot
        match (if tblKind s p c.table = 4 then some (i, e) else
            (entriesOf s' p (tblOf s p c)).find? (fun x => x.2 == e)) with
        | some (j, _) => (putSlot s' p c j (some { e with retSet := true, retired := sheafStaged s }), o)
        | none => (s', o)
    else if uncommitted e (sheafStaged s) && tblKind s p c.table ≤ 5 then (s, { sts := STS_STAGED_CONFLICT })
    else (putSlot s p c i (some { e with action := n.action, pri := pri, data := n.data, flags := if tblKind s p c.table = 6 then n.flags else e.flags }), { index := i })

def cmdDelete (s : State) (p : Nat) (c : TblCmd) : State × TblOut :=
  if badLpmKey s p c then (s, { sts := STS_BAD_ENTRY }) else
  match keyed s p c with
  | none => (s, { sts := STS_NO_ENTRY })
  | some (i, e) => dropEntry s p c i e

def cmdWrite (s : State) (p : Nat) (c : TblCmd) : State × TblOut :=
  if c.index ≥ tblSlots s p c.table then (s, { sts := STS_BAD_INDEX })
  else if badEntry s p c then (s, { sts := STS_BAD_ENTRY })
  else
    let new := if c.hdr0.testBit 0 then some { cmdEntry s p c with key := if tblKind s p c.table = 2 then [] else cmdKey s p c } else none
    match slotAt s p c c.index with
    | some e =>
      if c.staged then (s, { sts := STS_EXISTS })
      else if uncommitted e (sheafStaged s) then (s, { sts := STS_STAGED_CONFLICT })
      else (putSlot s p c c.index new, { index := c.index })
    | none => (putSlot s p c c.index new, { index := c.index })

def cmdErase (s : State) (p : Nat) (c : TblCmd) : State × TblOut :=
  if c.index ≥ tblSlots s p c.table then (s, { sts := STS_BAD_INDEX }) else
  match slotAt s p c c.index with
  | some e =>
    let r := dropEntry s p c c.index e
    if r.2.sts == STS_OK && tblKind s p c.table ≤ 5 && !visible e (modeSheaf s c) then (s, { sts := STS_NO_ENTRY }) else r
  | none => (s, { sts := STS_NO_ENTRY })

/-- The prefix order of ITER: domain, address, then length. -/
def lpmOrd (key : List Byte) (plen : Nat) : Nat := ofBe (fit 18 key) * 256 + plen

def cmdIter (s : State) (p : Nat) (c : TblCmd) : State × TblOut :=
  if tblKind s p c.table = 4 then
    let from' := lpmOrd (cmdKey s p c) (fld c.hdr0 16 8)
    let r := s.lpm.foldl (fun best e =>
      let o := lpmOrd e.2.2.key (e.2.2.pri % 256)
      if e.2.1 = c.table && from' < o then
        match best with
        | some b => if o < lpmOrd b.2.key (b.2.pri % 256) then some (e.1, e.2.2) else best
        | none => some (e.1, e.2.2)
      else best) (none : Option (Nat × TEntry))
    match r with
    | some (i, e) => (s, { index := i, entry := some e })
    | none => (s, { sts := STS_NO_ENTRY })
  else match (entriesOf s p (tblOf s p c)).find? (fun e => c.index ≤ e.1) with
    | some (i, e) => (s, { index := i, entry := some e })
    | none => (s, { sts := STS_NO_ENTRY })

/-- CLEAR would remove an entry with an uncommitted staged BORN or RETIRED (R282). -/
def clearConflict (s : State) (p : Nat) (c : TblCmd) : Bool :=
  match tblKind s p c.table with
  | 4 => s.lpm.any (fun e => e.2.1 == c.table && uncommitted e.2.2 (sheafStaged s))
  | 6 | 7 => false
  | _ => (entriesOf s p c.table).any (fun e => uncommitted e.2 (sheafStaged s))

/-- CLEAR removes every entry (for L2 with FLAG, every dynamic one) and releases the packets parked on the table (R282, R309). -/
def cmdClear (s : State) (p : Nat) (c : TblCmd) : State × TblOut :=
  if clearConflict s p c then (s, { sts := STS_STAGED_CONFLICT })
  else if tblKind s p c.table = 4 then
    let n := (s.lpm.filter (fun e => e.2.1 == c.table)).length
    ({ s with lpm := s.lpm.filter (fun e => e.2.1 ≠ c.table) }, { index := n })
  else
    let m := entriesOf s p (tblOf s p c)
    let keep := if tblKind s p c.table = 6 && c.flag then m.filter (fun e => e.2.flags % 2 == 1) else []
    let s := cmdEntries s p (tblOf s p c) keep none
    let s := unpark s (fun x => match x.key with | .deep st t _ _ => st == p && t == c.table | _ => false) (unitRole s p)
    (s, { index := m.length - keep.length })

/-- Whether a table takes a command in its mode: none when it does, else the status (R282, R308, R310). -/
def cmdRefused (s : State) (p : Nat) (c : TblCmd) : Bool :=
  let k := tblKind s p c.table
  let hashed := k == 1 || k == 5 || k == 4 || k == 6 || k == 7
  let okKind := match c.op with
    | 1 | 8 | 9 => k ≠ 0
    | 2 | 7 => k ≠ 0 && k ≠ 4
    | 3 | 4 | 5 => hashed
    | 6 => k == 2 || k == 3
    | _ => false
  let change := 3 ≤ c.op && c.op ≠ 8
  !okKind || (c.staged && (k == 2 || k == 6 || k == 7 || tblStateEn s p c.table || c.op == 9)) ||
  (change && !c.bcast && (k == 1 || k == 2 || k == 3 || k == 5))

/-- The buckets of a DEEP table that a command reads in guarded memory (R302, R305): its key's candidates, or that of its index. -/
def cmdBuckets (s : State) (p : Nat) (c : TblCmd) : List Nat :=
  let nb := tblBuckets s p c.table
  if tblKind s p c.table ≠ 5 then [] else
  match c.op with
  | 2 | 7 | 8 => [c.index / 4].filter (fun b => b < nb)
  | 9 => []
  | _ => let b := buckets nb (tblSeeds s p c.table) (cmdKey s p c); [b.1, b.2]

/-- A command meets an entry that cannot be read (R276, R312): an uncorrectable error in table SRAM, or a DEEP bucket that neither
member of its pair holds and no cached line has. The galleries are no table SRAM. -/
def cmdUnread (s : State) (p : Nat) (c : TblCmd) : Bool :=
  (2 ≤ c.ecc / 4 ^ p % 4 && tblKind s p c.table ≠ 4) ||
  (cmdBuckets s p c).any (fun b => guardedGone s 0 (p * 64 + c.table) b &&
    !(stairGet s p).lines.any (fun l => l.table == c.table && l.bucket == b && l.valid))

/-- What each command does. -/
def cmdAct (s : State) (p : Nat) (c : TblCmd) : State × TblOut :=
  match c.op with
  | 1 => cmdLookup s p c
  | 2 => cmdRead s p c
  | 3 => cmdInsert s p c
  | 4 => cmdUpdate s p c
  | 5 => cmdDelete s p c
  | 6 => cmdWrite s p c
  | 7 => cmdErase s p c
  | 8 => cmdIter s p c
  | _ => cmdClear s p c

/-- One command in one stair: refused, or ended by a word that it cannot read, or carried out; a corrected error is counted
(R276). -/
def cmdRun (s : State) (p : Nat) (c : TblCmd) : State × TblOut :=
  if cmdRefused s p c then (s, { sts := STS_BAD_TABLE })
  else if cmdUnread s p c then (s, { sts := STS_ENTRY_ERR })
  else cmdAct (if c.ecc / 4 ^ p % 4 = 1 && tblKind s p c.table ≠ 4 then bump s (Reg.STA_TBL_ECC_CNT p) else s) p c

/-- The slots of a table that pending FLOW intents of a stair target (R309). -/
def pendingSlots (s : State) (p t : Nat) : List Nat :=
  let x := stairGet s p
  (x.ing.climbs ++ x.egr.climbs).flatMap (fun c => (c.intents.filter (fun i => i.kind == 4 && i.array == t)).map (fun i => i.idx))

/-- The bridge-domain keys that learns of a stair target which have not applied: in the flight, and in the learn queue. -/
def pendingLearns (s : State) (p : Nat) : List (List Byte) :=
  ((stairGet s p).ing.climbs.flatMap (fun c => (c.intents.filter (fun i => i.kind == 5)).map (fun i => i.bytes)) ++ (stairGet s p).learns).map
    (fun r => l2Key (r.take 8))

/-- A stair's entry in the L2 store under a key, with its slot. -/
def l2At (s : State) (p : Nat) (key : List Byte) : Option (Nat × TEntry) := hashFind s p 63 key (fun _ => true)

/-- A command in a stair would change, move, retire or remove an entry that a pending intent targets (R288, R309). What the command
finds when it goes on is what it would have found: intents change no key. -/
def cmdBlocked (s : State) (p : Nat) (c : TblCmd) : Bool :=
  let r := (cmdRun s p c).1
  (pendingSlots s p c.table).any (fun i => aget (entriesOf s p (tblOf s p c)) i ≠ aget (entriesOf r p (tblOf s p c)) i) ||
  (tblKind s p c.table == 6 && (pendingLearns s p).any (fun k => l2At s p k ≠ l2At r p k))

/-- A staged command waits for a pending commit: an immediate one, or a timed one from 20 us before its time (R318,
R319). -/
def commitHolds (s : State) (c : TblCmd) : Bool :=
  c.staged && !c.early && s.sheaf.pending && (!s.sheaf.timed || rd64 s Reg.LD_SHEAF_AT_LO ≤ nowNs s + 20000)

/-- The stairs a command acts in: all nine with BCAST for a change; LPM tables are one store (R293). -/
def cmdStairs (s : State) (p : Nat) (c : TblCmd) : List Nat :=
  if c.bcast && 3 ≤ c.op && c.op ≠ 8 && tblKind s p c.table ≠ 4 then List.range 9 else [p]

/-- The stairs whose STA_TBL_CMD it makes busy: all nine with BCAST for a change (R310), and the one whose registers carry it. -/
def cmdBusyStairs (st p : Nat) (c : TblCmd) : List Nat :=
  if c.bcast && 3 ≤ c.op && c.op ≠ 8 then List.range 9 else [st, p]

def cmdWaits (s : State) (p : Nat) (c : TblCmd) : Bool := commitHolds s c || (cmdStairs s p c).any (fun q => cmdBlocked s q c)

/-- Places an entry in the command registers of a stair. -/
def showEntry (s : State) (st p : Nat) (c : TblCmd) (e : TEntry) : State :=
  let k := tblKind s p c.table
  let valid := b2n (e ≠ { always := false, key := [], data := [] })
  let h0 := if k = 6 then valid + 8 * (e.flags % 4) else valid + 2 * b2n e.always + 4 * b2n e.retSet + 256 * e.action + 65536 * e.pri
  let h0 := if k = 7 then valid else h0
  let h1 := if k = 6 || k = 7 then 0 else e.born + 65536 * e.retired
  let words (s : State) (f : Nat → Nat) (n : Nat) (bs : List Byte) : State :=
    (List.range n).foldl (fun s w => wrN s (f w) (leAt bs (4 * w) 4)) s
  let s := wrN (wrN s (Reg.STA_TBL_HDR0 st) h0) (Reg.STA_TBL_HDR1 st) h1
  words (words (words s (Reg.STA_TBL_KEY st) 20 e.key) (Reg.STA_TBL_MASK st) 20 e.mask) (Reg.STA_TBL_DATA st) 8 e.data

/-- A command completes: its outcome in every stair, and the registers of the stair that carries it (R310). -/
def cmdFinish (s : State) (st p : Nat) (c : TblCmd) : State :=
  let stairs := cmdStairs s p c
  let r := stairs.foldl (fun (acc : State × List (Nat × TblOut)) q =>
    let x := cmdRun acc.1 q c
    (x.1, acc.2 ++ [(q, x.2)])) (s, [])
  let own := ((r.2.find? (fun x => x.1 == p)).map (fun x => x.2)).getD {}
  let same := r.2.all (fun x => x.2.sts == own.sts)
  let mask := if same then 0 else r.2.foldl (fun a x => if x.2.sts = STS_OK then a else a + 2 ^ x.1) 0
  let sts := if same then own.sts else STS_PARTIAL
  let s := wrN r.1 (Reg.STA_TBL_STATUS st) (sts.toNat + 256 * mask)
  let s := wrN s (Reg.STA_TBL_RESULT st) (own.index + 2 ^ 26 * own.moves + 2 ^ 30 * b2n own.stash)
  match own.entry with
  | some e => showEntry s st p c e
  | none => s

def cmdBusyBits (s : State) (stairs : List Nat) (b : Nat) : State := stairs.foldl (fun s q => wrF s (Reg.STA_TBL_CMD q) 16 1 b) s

/-- A write of STA_TBL_CMD that passed the gate (R307): its RW fields are stored; with BUSY set it is dropped with ERR;
an OP other than zero starts the command, which completes at once or waits with BUSY set. -/
def tblCmdWrite (s : State) (st : Nat) (v : W32) (ecc : Nat := 0) : State :=
  let c := readCmd s st v ecc
  let p := cmdTarget s st
  let all := cmdBusyStairs st p c
  let w1c (s : State) : State := if rbit v 17 then wrF s (Reg.STA_TBL_CMD st) 17 1 0 else s
  if rdF s (Reg.STA_TBL_CMD st) 16 1 = 1 || (c.op ≠ 0 && all.any (fun q => rdF s (Reg.STA_TBL_CMD q) 16 1 == 1)) then
    wrF s (Reg.STA_TBL_CMD st) 17 1 1
  else
    let s := plainWrite (w1c s) (Reg.STA_TBL_CMD st) 0x703F v
    if c.op = 0 then s
    else if cmdWaits s p c then
      let s := stairUpd s st (fun x => { x with cmd := some { c with early := !commitHolds s c } })
      cmdBusyBits s all 1
    else cmdFinish s st p c

/-- The row of one table command: a write of STA_TBL_CMD of stair `st` whose OP is `op`. `ecc` says what the words that it reads
hold (R276): see TblCmd. -/
def tblCmdRow (op : Nat) (req : Requester) (be st : Nat) (v : W32) (ecc : Nat) (s : State) : State :=
  if st < 9 && rfld v 8 4 = op then gate s req be (Reg.STA_TBL_CMD st) false (fun s => tblCmdWrite s st v ecc) else s

def execTableLookup (req : Requester) (be : Nat) (site : TableSite) (v : W32) (s : State) : Host.Outcome State Fault Refusal := .next (tblCmdRow 1 req be site.stair v site.ecc s)
def execTableRead (req : Requester) (be : Nat) (site : TableSite) (v : W32) (s : State) : Host.Outcome State Fault Refusal := .next (tblCmdRow 2 req be site.stair v site.ecc s)
def execTableInsert (req : Requester) (be : Nat) (site : TableSite) (v : W32) (s : State) : Host.Outcome State Fault Refusal := .next (tblCmdRow 3 req be site.stair v site.ecc s)
def execTableUpdate (req : Requester) (be : Nat) (site : TableSite) (v : W32) (s : State) : Host.Outcome State Fault Refusal := .next (tblCmdRow 4 req be site.stair v site.ecc s)
def execTableDelete (req : Requester) (be : Nat) (site : TableSite) (v : W32) (s : State) : Host.Outcome State Fault Refusal := .next (tblCmdRow 5 req be site.stair v site.ecc s)
def execTableWrite (req : Requester) (be : Nat) (site : TableSite) (v : W32) (s : State) : Host.Outcome State Fault Refusal := .next (tblCmdRow 6 req be site.stair v site.ecc s)
def execTableErase (req : Requester) (be : Nat) (site : TableSite) (v : W32) (s : State) : Host.Outcome State Fault Refusal := .next (tblCmdRow 7 req be site.stair v site.ecc s)
def execTableIter (req : Requester) (be : Nat) (site : TableSite) (v : W32) (s : State) : Host.Outcome State Fault Refusal := .next (tblCmdRow 8 req be site.stair v site.ecc s)
def execTableClear (req : Requester) (be : Nat) (site : TableSite) (v : W32) (s : State) : Host.Outcome State Fault Refusal := .next (tblCmdRow 9 req be site.stair v site.ecc s)

/-- A waiting command of a stair's registers resumes when nothing holds it (R309, R318). -/
def tblResume (s : State) (st : Nat) : State :=
  match (stairGet s st).cmd with
  | some c =>
    let p := cmdTarget s st
    if cmdWaits s p c then s else
    let s := stairUpd s st (fun x => { x with cmd := none })
    let s := if c.staged then { s with sheaf := { s.sheaf with freed := nowNs s } } else s
    cmdFinish (cmdBusyBits s (cmdBusyStairs st p c) 0) st p c
  | none => s

def execTableCommandResume (st : Nat) (s : State) : Host.Outcome State Fault Refusal := .next (tblResume s st)

/-! Configuration (R306). -/

/-- The words of a configuration as a write to word 0 would apply them: held words over those in force. -/
def cfgWords (s : State) (p t : Nat) (w0 : W32) : List Nat :=
  w0.toNat :: (List.range 15).map (fun i => agetD (stairGet s p).held (t * 16 + i + 1) (rdN s (Reg.STA_TBL_CFG p t (i + 1))))

/-- A general block range [base, base + count) lies in 168 to 255. -/
def blocksIn (base count : Nat) : Bool := 168 ≤ base && base + count ≤ 256
def blocksMeet (b1 n1 b2 n2 : Nat) : Bool := n1 ≠ 0 && n2 ≠ 0 && b1 < b2 + n2 && b2 < b1 + n1

/-- The block ranges of the other tables and of the arrays of a stair. -/
def otherBlocks (s : State) (p t : Nat) : List (Nat × Nat) :=
  let ts := ((List.range 62).filter (fun u => u ≠ t && (tblKind s p u == 1 || tblKind s p u == 2 || tblKind s p u == 5))).map
    (fun u => (tcf s p u 1 0 8, tcf s p u 1 8 8))
  let as := [0, 1].flatMap (fun f => ((List.range 16).filter (fun a => rdF s (Reg.STA_ARR_CFG p f a) 0 2 ≠ 0)).map
    (fun a => (rdF s (Reg.STA_ARR_CFG p f a) 8 8, rdF s (Reg.STA_ARR_CFG p f a) 16 8)))
  ts ++ as

/-- The lowest cause for which a configuration is refused (R306, R691); none when it is accepted. -/
def cfgCheck (s : State) (p t : Nat) (w : List Nat) : Option Nat :=
  let g (i lo k : Nat) : Nat := fld ((w[i]?).getD 0) lo k
  let kind := g 0 0 3
  let egress := g 0 3 1 == 1
  let step := g 0 4 5
  let es := g 0 9 1
  let chain := max 1 (g 0 12 3)
  let sels := List.range 8
  let klen := (sels.map (fun k => if g (4 + k) 0 2 = 0 then 0 else g (4 + k) 15 6)).foldl (· + ·) 0
  let exact := kind == 1 || kind == 5
  let blocky := exact || kind == 2
  let others := (List.range 62).filter (fun u => u ≠ t && tblKind s p u ≠ 0)
  let bound := others.filter (fun u => tcf s p u 0 3 1 == g 0 3 1 && tcf s p u 0 4 5 == step)
  let c1 := sels.any (fun k => g (4 + k) 0 2 == 3) || (exact && g 2 0 32 == g 3 0 32)
  let lenOk := match kind with
    | 0 => true
    | 1 | 5 => 1 ≤ klen && klen ≤ (if es = 0 then 16 else 40)
    | 2 => 1 ≤ klen && klen ≤ 3
    | 3 => klen ≤ 20 * chain
    | 4 => klen == (if g 0 11 1 = 0 then 6 else 18)
    | 7 => true
    | _ => klen == 8
  let c2 := !lenOk || sels.any (fun k => g (4 + k) 15 6 > 40) ||
    sels.any (fun k => g (4 + k) 0 2 == 2 && g (4 + k) 15 6 ≠ 0 && g (4 + k) 6 9 + g (4 + k) 15 6 > 0x80) ||
    g 0 23 5 > 16 || (g 0 23 5 ≠ 0 && (g 0 16 7 + g 0 23 5 > 0x80 || g 0 16 7 < 0x40))
  let place := match kind with
    | 0 => true
    | 3 => !egress && 10 ≤ step && step ≤ 17
    | 4 => !egress && 4 ≤ step && step ≤ 9
    | 5 => !egress && step < 20
    | 7 => false
    | _ => step < (if egress then 12 else 20)
  let stateStep := if egress then 4 ≤ step else 12 ≤ step
  let c3 := !place || (kind ≠ 0 && g 0 10 1 == 1 && !stateStep)
  let base := g 1 0 8
  let cnt := g 1 8 8
  let c4 := blocky && (!blocksIn base cnt || cnt == 0 || (kind == 5 && cnt < 2) || (kind == 5 && (g 13 0 25 == 0 || g 13 0 25 > 16777216)) ||
    (otherBlocks s p t).any (fun o => blocksMeet base cnt o.1 o.2))
  let lpms := others.filter (fun u => tblKind s p u == 4)
  let tcams := others.filter (fun u => tblKind s p u == 3)
  let c5 := (kind ≠ 0 && bound.length ≥ 2) ||
    (kind == 4 && (lpms.length ≥ 2 || lpms.any (fun u => tcf s p u 0 4 5 == step))) ||
    (kind == 5 && (others.filter (fun u => tblKind s p u == 5)).length ≥ 4) ||
    (kind == 6 && (others.filter (fun u => tblKind s p u == 6)).length ≥ 4) ||
    (kind == 3 && (chain > 4 || step + chain > 18 ||
      tcams.any (fun u => tcf s p u 0 4 5 < step + chain && step < tcf s p u 0 4 5 + tblChain s p u)))
  let hasEntries := if tblKind s p t = 4 then s.lpm.any (fun e => e.2.1 == t) else tblKind s p t ≠ 6 && !(entriesOf s p t).isEmpty
  let same (i lo k : Nat) : Bool := g i lo k == tcf s p t i lo k
  let c6 := tblKind s p t ≠ 0 && hasEntries && !(same 0 0 3 && same 0 3 1 && same 0 4 5 && same 0 9 1 && same 0 11 1 && same 0 12 3 &&
    same 2 0 32 && same 3 0 32 && same 1 0 8 && same 1 8 8 && same 12 0 32 && same 13 0 25)
  if c1 then some 1 else if c2 then some 2 else if c3 then some 3 else if c4 then some 4 else if c5 then some 5
  else if c6 then some 6 else none

/-- A write of STA_TBL_CFG[t] word w that passed the gate: words 1 to 15 are held; word 0 applies them or is refused
together with them. -/
def tblCfgWrite (s : State) (p t w : Nat) (v : W32) : State :=
  if t ≥ 62 then s
  else if w ≠ 0 then stairUpd s p (fun x => { x with held := aset x.held (t * 16 + w) v.toNat })
  else
    let ws := cfgWords s p t v
    let s := stairUpd s p (fun x => { x with held := x.held.filter (fun e => e.1 / 16 ≠ t) })
    match cfgCheck s p t ws with
    | some c => wrN s (Reg.STA_TBL_CFG_STATUS p) (1 + 2 * c + 256 * t)
    | none =>
      let masks := [0x0FFF7FFF, 0xFFFF, 0xFFFFFFFF, 0xFFFFFFFF, 0x1FFFFF, 0x1FFFFF, 0x1FFFFF, 0x1FFFFF, 0x1FFFFF, 0x1FFFFF, 0x1FFFFF, 0x1FFFFF, 0xFFFFFFFF, 0x1FFFFFF, 0, 0]
      (ws.zip masks).zipIdx.foldl (fun s e => wr s (Reg.STA_TBL_CFG p t e.2) (BitVec.ofNat 32 e.1.1 &&& BitVec.ofNat 32 e.1.2)) s

/-- TBL_CFG_APPLY (R306): a write of word 0. -/
def execTblCfgApply (req : Requester) (be p t : Nat) (v : W32) (s : State) : Host.Outcome State Fault Refusal :=
  .next (if p < 9 && t < 64 then gate s req be (Reg.STA_TBL_CFG p t 0) false (fun s => tblCfgWrite s p t 0 v) else s)

/-! Sweep and scrubs (R280, R296). -/

/-- The sweep of a drained sheaf: entries born at or before CURRENT become ALWAYS, those retired at or before it are
freed. -/
def sweepEntry (cur : Nat) (e : TEntry) : Option TEntry :=
  if e.retSet && sub16 cur e.retired < 0x8000 then none
  else some (if sub16 cur e.born < 0x8000 then { e with always := true } else e)

def sweepMap (cur : Nat) (m : AMap TEntry) : AMap TEntry := m.filterMap (fun e => (sweepEntry cur e.2).map (fun x => (e.1, x)))

/-- SHEAF_SWEEP (R280): the sweeps that the drains so far call for are done. -/
def execSheafSweep (s : State) : Host.Outcome State Fault Refusal :=
  .next (if s.sheaf.sweeps.isEmpty || rdF s Reg.LD_SHEAF_DRAIN 16 1 = 1 then s else
    let cur := sheafCur s
    let s := { s with stairs := amap s.stairs (fun _ x => { x with tbls := amap x.tbls (fun t m => if t ≥ 62 then m else sweepMap cur m),
                                                                               shadow := amap x.shadow (fun _ m => sweepMap cur m) }),
                      lpm := s.lpm.filterMap (fun (e : Nat × (Nat × TEntry)) => (sweepEntry cur e.2.2).map (fun x => (e.1, (e.2.1, x)))) }
    wrN { s with sheaf := { s.sheaf with sweeps := [] } } Reg.LD_SHEAF_SWEEP 0)

/-- TCAM_SCRUB (R296): the scrub found an entry that differs from its shadow and rewrites it. A corrected error of the shadow's words
is counted (R276); of an uncorrectable one the entry is restored from the guarded copy of R277. The upset of the cells themselves is
not part of the state. -/
def execTcamScrub (p t : Nat) (found : ScrubFind) (s : State) : Host.Outcome State Fault Refusal :=
  let i := found.idx
  let sh := found.shadow
  .next (if p < 9 && tblKind s p t = 3 && i < 4096 && sh < 3 && !(sh == 2 && guardedGone s 2 p 0) then
    let s := if sh = 1 then bump s (Reg.STA_TBL_ECC_CNT p) else s
    let m := entriesOf s p t
    let s := if sh = 2 then stairUpd s p (fun x => { x with tbls := aset x.tbls t (match aget (agetD x.shadow t []) i with
        | some e => aset m i e
        | none => adel m i) }) else s
    raise (bump s (Reg.STA_TBL_SCRUB_FIX_CNT p)) (stairSrc p 9) [(4, t), (4, i)]
  else s)

/-! L2 learning (R298 to R301). -/

/-- A learn request has set HIT under a key (R299). -/
def noteLearn (s : State) (p : Nat) (key : List Byte) : State :=
  stairUpd s p (fun x => { x with learnt := key :: (if x.learntAt = s.time.clocks then x.learnt else []), learntAt := s.time.clocks })

/-- The learn engine acts on one request. -/
def learnOne (s : State) (p : Nat) (r : LearnReq) : State :=
  let key := l2Key (r.take 8)
  let dest := leAt r 8 4 % 2 ^ 20
  let data := le 4 dest ++ List.replicate 4 0
  let m := entriesOf s p 63
  match findSlot m (candSlots 65536 (0, 0xFFFFFFFF) key ++ stashSlots 65536) (fun e => e.key == key) with
  | some (i, e) =>
    if e.flags % 2 = 1 then (if e.data == data then s else bump s (Reg.STA_L2_STATIC_MOVE_CNT p))
    else if e.data == data then setEntries (noteLearn s p key) p 63 (aset m i { e with flags := 2 })
    else bump (setEntries (noteLearn s p key) p 63 (aset m i { e with flags := 2, data := data })) (Reg.STA_L2_MOVE_CNT p)
  | none =>
    match placeEntry 65536 (0, 0xFFFFFFFF) m { key := key, data := data, flags := 2 } with
    | some (m', _) => bump (setEntries (noteLearn s p key) p 63 m') (Reg.STA_L2_LEARN_CNT p)
    | none => tblFull (bump s (Reg.STA_L2_FULL_CNT p)) p 63

/-- L2_LEARN: the engine takes one request in queue order. -/
def execL2Learn (p : Nat) (s : State) : Host.Outcome State Fault Refusal :=
  .next (match (stairGet s p).learns with
    | r :: rest => learnOne (stairUpd s p (fun x => { x with learns := rest })) p r
    | [] => s)

/-- L2_AGEING_PASS (R299): once every AGE seconds of elapsed time. An entry that a learn request reached in this core clock keeps its
HIT: the request comes last. -/
def execL2AgeingPass (p : Nat) (s : State) : Host.Outcome State Fault Refusal :=
  .next (
    let age := rdF s (Reg.STA_L2_CTL p) 0 16
    let x := stairGet s p
    if p < 9 && age ≠ 0 && x.aged + age * (1000 * msUnits) ≤ s.time.elapsed then
      let m := entriesOf s p 63
      let gone := m.filter (fun e => e.2.flags == 0)
      let stays (e : TEntry) : Bool := e.flags % 2 ≠ 0 || (x.learntAt == s.time.clocks && x.learnt.contains e.key)
      let keep := (m.filter (fun e => e.2.flags ≠ 0)).map (fun e => (e.1, if stays e.2 then e.2 else { e.2 with flags := 0 }))
      bump (setEntries (stairUpd s p (fun x => { x with aged := s.time.elapsed })) p 63 keep) (Reg.STA_L2_AGED_CNT p) gone.length
    else s)

/-- L2_LOAD_COMPLETE (R301): the spare loads the next entries of the mirror, which lookups see from then on; a loaded entry never
replaces one that is there. The load ends with its last entry. -/
def execL2LoadComplete (part : LoadPart) (s : State) : Host.Outcome State Fault Refusal :=
  let p := part.stair
  let n := part.entries
  .next (match (stairGet s p).loaded with
    | some k =>
      let l := (stairGet s p).loading
      let r := (l.take n).foldl (fun (acc : AMap TEntry × Nat) e =>
        if (findSlot acc.1 (candSlots 65536 (0, 0xFFFFFFFF) e.key ++ stashSlots 65536) (fun x => x.key == e.key)).isSome then acc
        else match placeEntry 65536 (0, 0xFFFFFFFF) acc.1 e with
          | some (m, _) => (m, acc.2 + 1)
          | none => acc) (entriesOf s p 63, k)
      let rest := l.drop n
      let s := setEntries (stairUpd s p (fun x => { x with loading := rest, loaded := if rest.isEmpty then none else some r.2 })) p 63 r.1
      if rest.isEmpty then raise s (stairSrc p 12) [(4, unitRole s p), (4, r.2)] else s
    | none => s)

/-! DEEP fetches (R302 to R305). -/

/-- The cache sets of a DEEP table. -/
def deepSets (s : State) (p t : Nat) : Nat := (tcf s p t 1 8 8 - 1) * 65536 / (16 * entryBytes (tblEsize s p t))

def lineOf (s : State) (p t b : Nat) : Option DeepLine := (stairGet s p).lines.find? (fun l => l.table == t && l.bucket == b)
def lineValid (s : State) (p t b : Nat) : Bool := (lineOf s p t b).any (fun l => l.valid)

/-- The candidate buckets of a parked DEEP key. -/
def deepBuckets (s : State) (p t h0 h1 : Nat) : Nat × Nat :=
  (h0 * tblBuckets s p t / 2 ^ 32, h1 * tblBuckets s p t / 2 ^ 32)

/-- A key of a DEEP table, and one with a given candidate bucket. -/
def deepOf (p t : Nat) (k : ParkKey) : Bool := match k with | .deep st u _ _ => st == p && u == t | _ => false
def deepAt (s : State) (p t b : Nat) (k : ParkKey) : Bool :=
  match k with
  | .deep st u h0 h1 => st == p && u == t && (let bs := deepBuckets s p t h0 h1; bs.1 == b || bs.2 == b)
  | _ => false

/-- Both candidate buckets of a DEEP key are cached. -/
def deepHere (s : State) (k : ParkKey) : Bool :=
  match k with
  | .deep st t h0 h1 => let b := deepBuckets s st t h0 h1; lineValid s st t b.1 && lineValid s st t b.2
  | _ => false

/-- A line is pinned (R304): a packet that hit in it has not retired, packets wait for it or for their other bucket (log 25), or a
packet that waited for it has not yet passed the step that reads it. -/
def pinned (s : State) (p t b : Nat) : Bool :=
  let owes (k : Pkt) : Bool := k.waited.any (deepAt s p t b)
  let cs := (stairGet s p).ing.climbs
  cs.any (fun c => c.pins.contains (t, b)) || s.land.hall.any (fun x => deepAt s p t b x.key) ||
  (entryGet s (unitRole s p) 0).again.any owes || cs.any (fun c => c.reentry && c.step ≤ tcf s p t 0 4 5 && owes c.pkt)

/-- DEEP_FETCH_START (R302, R304): a fetch of an absent candidate bucket of a parked or marked packet takes a way of its set: a free
one, or the least recently used that is not pinned; with every way pinned it waits. A fenced stair's fetch is dropped (R22, R585). -/
def execDeepFetchStart (p t b : Nat) (s : State) : Host.Outcome State Fault Refusal :=
  .next (
    let sets := deepSets s p t
    if p < 9 && tblKind s p t = 5 && b < tcf s p t 13 0 25 && sets ≠ 0 && (lineOf s p t b).isNone &&
        (s.land.hall.any (fun x => deepAt s p t b x.key) ||
          ((stairGet s p).ing.climbs ++ (stairGet s p).twinI).any (fun c => c.park.any (deepAt s p t b))) then
      if unitState s p = 3 then fencedSend s p else
      let x := stairGet s p
      let inSet := x.lines.filter (fun l => l.table == t && l.bucket % sets == b % sets)
      let new : DeepLine := { table := t, bucket := b, valid := false, used := x.clock }
      if inSet.length < 4 then stairSet s p { x with lines := x.lines ++ [new], clock := x.clock + 1 }
      else
        let free := inSet.filter (fun l => l.valid && !pinned s p t l.bucket)
        match free.foldl (fun best l => match best with
            | some (m : DeepLine) => if l.used < m.used then some l else best
            | none => some l) (none : Option DeepLine) with
        | some v => stairSet s p { x with lines := x.lines.filter (fun l => l ≠ v) ++ [new], clock := x.clock + 1 }
        | none => s
    else s)

/-- Every packet parked under a DEEP key has its buckets cached (R302). -/
def keyHere (s : State) (key : ParkKey) : Bool := s.land.hall.all (fun x => !sameKey x.key key || deepHere s x.key)

/-- The packets parked on a bucket whose fetch failed are dropped with DROP_REASON 0x11 (R305). -/
def fetchDrop (s : State) (p t b : Nat) : State :=
  let gone := s.land.hall.filter (fun x => deepAt s p t b x.key)
  let s := { s with land := { s.land with hall := s.land.hall.filter (fun x => !deepAt s p t b x.key) } }
  let s := gone.foldl (fun s x => endPkt s { x.pkt with md := dropMd x.pkt.md 0x11 }) s
  raise (bump s (Reg.STA_DEEP_FETCH_ERR_CNT p) gone.length) (stairSrc p 10) [(4, t), (4, b)]

/-- DEEP_FETCH_COMPLETE (R302, R305): the answer to a fetch of a stair that has been fenced since is dropped; else the bucket arrives
and the packets of every key whose buckets are all cached re-enter; or the fetch failed on both members, or neither holds the bucket any
more. -/
def execDeepFetchComplete (p t b : Nat) (ok : Bool) (s : State) : Host.Outcome State Fault Refusal :=
  .next (if (lineOf s p t b).any (fun l => !l.valid) then
    let drop (s : State) : State := stairUpd s p (fun x => { x with lines := x.lines.filter (fun l => !(l.table == t && l.bucket == b)) })
    if unitState s p = 3 then staleDrop (drop s) Reg.MS_STALE_DST_CNT p
    else if ok && !guardedGone s 0 (p * 64 + t) b then
      let s := stairUpd s p (fun x => { x with lines := x.lines.map (fun l => if l.table = t && l.bucket = b then { l with valid := true, used := x.clock } else l), clock := x.clock + 1 })
      unpark s (fun x => deepOf p t x.key && keyHere s x.key) (unitRole s p)
    else fetchDrop (drop s) p t b
  else s)

end Sys2Proof.Machine
end

