-- ==== Sys2Proof/Machine/TmOps.lean ====
section
/-! DEFINITION. Machine/TmOps.lean: shared operations of telemetry (chapters 3 and 18): snapshots, telemetry rings, epoch
boundaries, ledger records, and the log of Ozelm. -/

namespace Sys2Proof.Machine

/-! Snapshots (R82, R84, R336). -/

/-- The bit of GL_SNAP_MASK for a block. -/
def snapMask (s : State) (blk : Nat) : Bool := (rd64 s Reg.GL_SNAP_MASK_LO).testBit blk

/-- The banks of the SNAP counter arrays of a flight are exchanged: the bank that becomes live starts at zero. -/
def bankSwap (s : State) (p fl : Nat) : State :=
  (List.range 16).foldl (fun s a =>
    if arrKind s p fl a = 1 && arrSnap s p fl a then
      flightUpd s p fl (fun f =>
        let b := 1 - liveBank f a
        { f with liveBank := aset f.liveBank a b, elems := f.elems.filter (fun e => e.1 < elemKey a b 0 || elemKey a b 0 + 2 ^ 23 ≤ e.1) })
    else s) s

/-- A snapshot from a source (0 GL_SNAP_CMD, 1 GL_SNAP_AT, 2 a register action): every counter of the masked blocks is
copied (HF_WIN_UR_CNT: that of the selected function), the SNAP arrays of the masked flights exchange banks, and the snapshot is counted, timed and reported. -/
def takeSnapshot (s : State) (src : Nat) (late : Bool) : State :=
  let keep := s.snap.filter (fun e => !snapMask s (e.1 / 0x100000))
  let isCtr (off : Nat) : Bool := off < 0x4000000 && snapMask s (off / 0x100000) && (regDef off).any (fun d => d.counter)
  let new := (s.regs.filter (fun e => isCtr e.1)).foldl (fun m e => aset m e.1 e.2) keep
  let new := (List.range 4).foldl (fun m f => let t := selFn s f
    if snapMask s (4 + f) then aset m (Reg.HF_WIN_UR_CNT f) (BitVec.ofNat 32 (fnGet s t.1 t.2).winUrCnt) else m) new
  let s := { s with snap := new }
  let s := (List.range 8).foldl (fun s role => match stairOf s role with
    | some p => [0, 1].foldl (fun s fl => if snapMask s (17 + 2 * role + fl) then bankSwap s p fl else s) s
    | none => s) s
  let s := wr64 (bump s Reg.GL_SNAP_GEN) Reg.GL_SNAP_TIME_LO (nowNs s)
  raiseLate s 0x012 late [(4, rdN s Reg.GL_SNAP_GEN), (4, b2n late), (4, src)]

/-! Telemetry rings (R620 to R622). -/

def tmBound (s : State) (r : Nat) : Bool := rdF s (Reg.LD_TM_CFG_CTL r) 0 1 == 1
def tmUse (s : State) (r : Nat) : Nat := rdF s (Reg.LD_TM_CFG_CTL r) 1 2
def tmHandle (s : State) (r : Nat) : Nat := rdN s (Reg.LD_TM_CFG_HANDLE r)

/-- A channel is bound as a telemetry ring. -/
def isTmRing (s : State) (h : Nat) : Bool := h ≠ 0 && (List.range 16).any (fun r => tmBound s r && tmHandle s r == h)

/-- A record, or a whole ledger, is dropped for a ring. -/
def tmDrop (s : State) (r : Nat) : State :=
  let s := { s with tm := { s.tm with drops := aset s.tm.drops r (agetD s.tm.drops r 0 + 1) } }
  raiseLim (bump s (Reg.LD_TM_DROP_CNT r)) 0x030 0 [(4, r)]

/-- One 64-byte record goes to a ring that has room for it. -/
def tmPut1 (s : State) (r i : Nat) (bs : List Byte) : State :=
  match chanGet s i with
  | some c =>
    let s := slWrite s c.slice (c.base + 32 * (c.pidx % c.size)) 0 (fit 64 bs)
    let c' := { c with pidx := add32 c.pidx 2, entries := c.entries + 2, modN := c.modN + 2,
                       modFirst := if c.modN = 0 then s.time.elapsed else c.modFirst }
    bump (ringModerate (mirrorWrite (chanSet s i c') i) i) (Reg.LD_TM_REC_CNT r)
  | none => s

/-- Records of a use go to a ring, whole or not at all; true when they were written. -/
def tmPut (s : State) (r use' : Nat) (recs : List (List Byte)) : State × Bool :=
  match (if tmBound s r && tmUse s r = use' then chanOf s (tmHandle s r) else none) with
  | some (i, c) =>
    if c.state = 1 && ringRoom c ≥ 2 * recs.length then (recs.foldl (fun s bs => tmPut1 s r i bs) s, true) else (tmDrop s r, false)
  | none => (tmDrop s r, false)

/-! Epochs (R55, R619). -/

def epochPeriod (s : State) : Nat := rd64 s Reg.FT_EPOCH_PERIOD_LO
def epochOrigin (s : State) : Nat := rd64 s Reg.FT_EPOCH_ORIGIN_LO
def boundary (s : State) (k : Nat) : Nat := epochOrigin s + k * epochPeriod s

/-- The first boundary after a time, none without epochs. -/
def nextEpoch (s : State) (t : Nat) : Option Nat :=
  if epochPeriod s = 0 then none
  else if t < epochOrigin s then some 0 else some ((t - epochOrigin s) / epochPeriod s + 1)

/-- GL_SNAP_AT is armed for a boundary, or disarmed. -/
def showSnapAt (s : State) (k : Option Nat) : State :=
  match k with
  | some k => wrF (wr64 s Reg.GL_SNAP_AT_LO (boundary s k % 2 ^ 64)) Reg.GL_SNAP_AT_CTL 0 1 1
  | none => wrF s Reg.GL_SNAP_AT_CTL 0 1 0

def armRec (s : State) : State :=
  { s with time := { s.time with epochRec := if rdF s Reg.LD_EPOCH_CTL 0 1 = 1 then nextEpoch s (max (nowNs s) s.time.barred) else none } }

def armSnap (s : State) : State :=
  if rdF s Reg.LD_EPOCH_CTL 1 1 = 1 then
    let k := nextEpoch s (max (nowNs s) s.time.barred)
    showSnapAt { s with time := { s.time with epochSnap := k } } k
  else { s with time := { s.time with epochSnap := none } }

/-- A committed write of FT_EPOCH_ORIGIN or FT_EPOCH_PERIOD arms both actions anew. -/
def epochChanged (s : State) : State := armSnap (armRec s)

/-- A committed write of LD_EPOCH_CTL. -/
def epochCtlWrite (s : State) (v : W32) : State :=
  let old := rd s Reg.LD_EPOCH_CTL
  let s := plainWrite s Reg.LD_EPOCH_CTL 0x3F v
  let s := if rbit v 0 then (if rbit old 0 then s else armRec s) else { s with time := { s.time with epochRec := none } }
  if rbit v 1 then (if rbit old 1 then s else armSnap s)
  else if rbit old 1 then showSnapAt { s with time := { s.time with epochSnap := none, snapFree := s.time.clocks + 1 } } none else s

/-- The last boundary that has passed, when an action armed for boundary `k` is due. -/
def epochDue (s : State) (k : Option Nat) : Option (Nat × Nat) :=
  match k with
  | some k => if boundary s k ≤ nowNs s then some ((nowNs s - epochOrigin s) / epochPeriod s, k) else none
  | none => none

/-- The telemetry actions that are due fire once, for the last boundary passed; answers how many firings there were. -/
def epochFire (s : State) (late : Bool) : State × Nat :=
  let snap := epochDue s s.time.epochSnap
  let rec' := epochDue s s.time.epochRec
  let s := match snap with
    | some (l, _) =>
      let s := takeSnapshot s 1 late
      let s := wrF (if late then wrF s Reg.GL_SNAP_AT_CTL 2 1 1 else s) Reg.GL_SNAP_AT_CTL 1 1 1
      showSnapAt { s with time := { s.time with epochSnap := some (l + 1) } } (some (l + 1))
    | none => s
  let s := match rec' with
    | some (l, k) =>
      let r := rdF s Reg.LD_EPOCH_CTL 2 4
      let bytes := pack 64 [(0, 0, 8, 3), (0, 8, 1, b2n late), (0, 9, 1, b2n (snap.map (fun x => x.1) == some l)), (4, 0, 32, l - k),
        (8, 0, 64, l), (0x10, 0, 64, boundary s l), (0x18, 0, 64, nowNs s), (0x20, 0, 32, rdN s Reg.GL_SNAP_GEN),
        (0x24, 0, 32, agetD s.tm.drops r 0)]
      let x := tmPut { s with time := { s.time with epochRec := some (l + 1) } } r 2 [bytes]
      if x.2 then { x.1 with tm := { x.1.tm with drops := aset x.1.tm.drops r 0 } } else x.1
    | none => s
  (s, b2n snap.isSome + b2n rec'.isSome)

/-! Intent signatures and ledgers (R623 to R627). -/

/-- The intents that a list shows: the transport engine's (kind 6) are not listed. -/
def listed (xs : List Intent) : List Intent := xs.filter (fun x => x.kind ≠ 6)

def intentSig (xs : List Intent) : Nat :=
  if (listed xs).isEmpty then 0 else
  crc32c ((listed xs).flatMap (fun x => le 8 (x.kind % 8 + x.array % 64 * 2 ^ 3 + (if x.kind = 5 then 0 else x.idx % 2 ^ 26) * 2 ^ 9)))

/-- The three words of a step entry. -/
def stepEntry (k : Nat) (r : StepRec) : List Byte :=
  let side (t h : Option Nat) : Nat := h.getD 0 % 2 ^ 26 + t.getD 0 % 64 * 2 ^ 26
  let w0 := k + 32 * b2n r.en + 64 * b2n r.path + 128 * b2n r.aTable.isSome + 256 * b2n r.aHit.isSome + 512 * b2n r.bTable.isSome +
    1024 * b2n r.bHit.isSome + 2048 * (r.nInt % 4) + 8192 * b2n r.ovf + 16384 * b2n r.park + 65536 * (r.action % 256) + 2 ^ 24 * (r.flags % 8)
  le 4 w0 ++ le 4 (side r.aTable r.aHit) ++ le 4 (side r.bTable r.bHit)

/-- The ledger of a climb that retires in physical stair p, serving a role: its head record and step records. -/
def ledgerRecs (s : State) (p role fl id : Nat) (c : Climb) : List (List Byte) :=
  let md := c.pkt.md
  let n := if fl = 0 then 5 else 3
  let head := pack 64 [(0, 0, 8, 1), (0, 8, 1, fl), (0, 9, 3, role), (0, 12, 1, b2n (p = 8)), (0, 13, 1, b2n c.replay),
    (0, 14, 1, b2n c.reentry), (0, 15, 1, b2n c.withdrawn), (0, 16, 16, mdSheaf md), (4, 0, 32, c.seq), (8, 0, 64, c.entryNs),
    (0x10, 0, 64, leAt md 0 8), (0x18, 0, 32, mdHash md), (0x1C, 0, 6, mdSrc md), (0x1C, 8, 14, mdSlice md),
    (0x20, 0, 3, mdDisp md), (0x20, 3, 8, mdReason md), (0x20, 11, 3, mdStatus md), (0x20, 14, 1, mdF md 0x10 19 1),
    (0x20, 15, 1, mdF md 0x14 9 1), (0x20, 16, 4, (listed (c.shed ++ c.intents)).length), (0x20, 20, 1, b2n c.ovf),
    (0x24, 0, 18, mdQueue md), (0x28, 0, 32, mdHandle md), (0x2C, 0, 14, mdLen md), (0x2C, 14, 2, mdF md 0x10 14 2),
    (0x2C, 16, 4, n), (0x30, 0, 32, id), (0x34, 0, 32, intentSig (c.shed ++ c.intents)), (0x38, 0, 64, nowNs s)]
  let part (i : Nat) : List Byte :=
    le 4 (2 + 256 * fl + 512 * role + 4096 * i) ++ le 4 id ++ le 4 c.seq ++ le 4 0 ++
    (List.range 4).flatMap (fun j => stepEntry (4 * i + j) ((c.steps[4 * i + j]?).getD {}))
  head :: (List.range n).map part

/-- The ledger decision at a retire (R624), and its records. -/
def ledger (s : State) (p role fl : Nat) (c : Climb) : State :=
  let f := leAt c.pkt.md 0x50 4
  let d := rdN s Reg.LD_LEDGER_DFLT
  let own := f.testBit 16
  if !own && !(c.pkt.cls < 5 && d.testBit c.pkt.cls) then s else
  let r := if own then fld f 17 3 else fld d 5 3
  let sh := if own then fld f 20 4 else fld d 8 4
  let n := agetD (flightGet s p fl).cand r 0
  let s := flightUpd s p fl (fun x => { x with cand := aset x.cand r (n + 1) })
  if n % 2 ^ sh ≠ 0 then s else
  let id := agetD s.tm.ledger r 0
  match tmPut s r 1 (ledgerRecs s p role fl id c) with
  | (s, true) => { s with tm := { s.tm with ledger := aset s.tm.ledger r ((id + 1) % 2 ^ 32) } }
  | (s, false) => s

/-! The log of Ozelm (R649). -/

/-- The 32 bytes of a log record. -/
def logRecord (boot : Nat) (e : EvRec) : List Byte :=
  let mk (crc : Nat) : List Byte := le 4 (e.source + e.seq * 2 ^ 12) ++ le 4 (e.code % 256 + boot % 256 * 256 + crc * 65536) ++ le 8 e.time ++ e.data
  mk (crc16 (mk 0))

/-- A record joins the log, or is dropped when 4,096 records wait to be mirrored. -/
def logPut (s : State) (e : EvRec) : State :=
  if s.oz.todo ≥ 4096 then bump s Reg.OZ_LOG_LOST_CNT else
  let n := rdN s Reg.OZ_LOG_NEXT
  let l := s.oz.log ++ [(n, logRecord (rdN s Reg.OZ_BOOT_CNT) e)]
  bump { s with oz := { s.oz with log := l.drop (l.length - 4096), todo := s.oz.todo + 1 } } Reg.OZ_LOG_NEXT

end Sys2Proof.Machine
end

