-- ==== Sys2Proof/Machine/FlightOps.lean ====
section
/-! DEFINITION. Machine/FlightOps.lean: shared operations of the flights: entry, the discard of intents and the withdrawals
that follow (chapter 10), the waiting hall, twins and their comparison, what retires do, and where packets go from there. -/

namespace Sys2Proof.Machine

/-! Sheaves in flight (R316, R324, R369). -/

/-- DRAINING, while a sheaf drains. -/
def draining (s : State) : Option Nat := if rdF s Reg.LD_SHEAF_DRAIN 16 1 = 1 then some (rdF s Reg.LD_SHEAF_DRAIN 0 16) else none

/-- A packet is stamped DRAINING. -/
def isOld (s : State) (md : List Byte) : Bool := draining s == some (mdSheaf md)

/-- The packets of LD_SHEAF_OLD_CNT (R324): in flights, in the hall, and awaiting re-entry or replay. -/
def oldCount (s : State) : Nat :=
  let old (k : Pkt) : Bool := isOld s k.md
  let live (cs : List Climb) : Nat := (cs.filter (fun c => c.marker.isNone && old c.pkt)).length
  (s.stairs.map (fun e => live e.2.ing.climbs + live e.2.egr.climbs)).foldl (· + ·) 0 +
  (s.land.hall.filter (fun x => old x.pkt)).length +
  (s.land.entry.map (fun e => (e.2.again.filter old).length + (e.2.replay.filter (fun r => old r.1)).length)).foldl (· + ·) 0

/-- The bank of a packet's sheaf in a flight (R369): the idle bank where the commit that ended its sheaf exchanged. -/
def flightBank (s : State) (p fl sheaf : Nat) : Nat :=
  let a := ucActive s p fl
  if sheaf ≠ sheafCur s && s.sheaf.exchanged.testBit fl then 1 - a else a

/-! Discards (R331 to R333). -/

/-- A climb is marked for parking or withdrawn. -/
def Climb.gone (c : Climb) : Bool := c.park.isSome || c.withdrawn

/-- The packet that a packet of a flow hash waits behind: the earliest of that hash that is parked or withdrawn. -/
def goneBefore (cs : List Climb) (hash : Nat) : Option Nat :=
  (cs.find? (fun c => c.marker.isNone && c.gone && mdHash c.pkt.md == hash)).map (fun c => c.after.getD c.pkt.id)

/-- Climbs behind a discard, in flight order: those that read a discarded intent, and those of a flow hash that is parked or
withdrawn, are withdrawn. `seqs` are the sequences whose intents are gone, `waits` the hashes with the packet to wait behind.
The answer counts the withdrawals. -/
def withdraw (seqs : List Nat) (waits : List (Nat × Nat)) : List Climb → List Climb × Nat
  | [] => ([], 0)
  | c :: cs =>
    let hash := mdHash c.pkt.md
    if c.marker.isSome || c.gone then
      let r := withdraw seqs waits cs
      (c :: r.1, r.2)
    else
      let after := (waits.find? (fun w => w.1 == hash)).map (fun w => w.2)
      if after.isSome || c.deps.any (fun d => seqs.contains d) then
        let r := withdraw (c.seq :: seqs) (if after.isSome then waits else waits ++ [(hash, c.pkt.id)]) cs
        ({ c with withdrawn := true, after := after, shed := c.shed ++ c.intents, intents := [] } :: r.1, r.2 + 1)
      else
        let r := withdraw seqs waits cs
        (c :: r.1, r.2)

/-- Counts withdrawals. -/
def countWithdraw (s : State) (p fl n : Nat) : State := if n = 0 then s else bump s (Reg.STA_RET_WITHDRAW_CNT p fl) n

/-- The intents of the climb with a sequence have been discarded: withdrawals follow in its flight. -/
def discardAt (s : State) (p fl : Nat) (c : Climb) (hashToo : Bool) : State :=
  let cs := (flightGet s p fl).climbs
  let pre := cs.takeWhile (fun x => x.seq ≠ c.seq)
  let rest := (cs.drop pre.length).drop 1
  let r := withdraw [c.seq] (if hashToo then [(mdHash c.pkt.md, c.after.getD c.pkt.id)] else []) rest
  countWithdraw (flightUpd s p fl (fun f => { f with climbs := pre ++ (cs.drop pre.length).take 1 ++ r.1 })) p fl r.2

/-! Rehearsal: copies and comparison (R343 to R348). -/

def rhStair (s : State) : Nat := rdF s Reg.LD_RH_CTL 1 3

/-- A header that enters a flight of the rehearsed stair is counted, and copied as a twin when its count is a multiple of
SAMPLE (R344). -/
def twinCopy (s : State) (role fl : Nat) (c : Climb) : State :=
  if !(rhRunning s && rhStair s == role && rdF s Reg.LD_RH_CTL (4 + fl) 1 == 1) then s else
  match spareStair s with
  | none => s
  | some q =>
    let n := agetD s.sheaf.rhCount fl 0 + 1
    let s := { s with sheaf := { s.sheaf with rhCount := aset s.sheaf.rhCount fl n } }
    if n % max 1 (rdF s Reg.LD_RH_CTL 16 16) ≠ 0 then s else
    let a := ucActive s q fl
    let t : Climb :=
      { c with pkt := { c.pkt with md := mdPut c.pkt.md 8 16 16 (sheafStaged s) }, twin := some c.seq, withdrawn := false, after := none,
               bank := if rdF s Reg.LD_RH_CTL 6 1 = 1 then 1 - a else a }
    stairUpd s q (fun x => if fl = 0 then { x with twinI := x.twinI ++ [t] } else { x with twinE := x.twinE ++ [t] })

def twinsOf (s : State) (q fl : Nat) : List Climb := if fl = 0 then (stairGet s q).twinI else (stairGet s q).twinE
def setTwins (s : State) (q fl : Nat) (ts : List Climb) : State :=
  stairUpd s q (fun x => if fl = 0 then { x with twinI := ts } else { x with twinE := ts })

/-- The outcome of a live retire is kept for the twin that shadows it. -/
def keepOutcome (s : State) (role fl : Nat) (c : Climb) (md : List Byte) (skip : Bool) : State :=
  match spareStair s with
  | some q =>
    if rhRunning s && rhStair s == role && (twinsOf s q fl).any (fun t => t.twin == some c.seq) then
      let o : Outcome := { flight := fl, seq := c.seq, skip := skip, time := nowNs s, md := md, intents := listed c.intents, steps := c.steps }
      { s with sheaf := { s.sheaf with live := s.sheaf.live ++ [o] } }
    else s
  | none => s

/-- The first step whose result slots differ in hit, index or ACTION; 0xFF for none. -/
def firstDiff (a b : List StepRec) : Nat :=
  ((List.range (min a.length b.length)).find? (fun k =>
    match a[k]?, b[k]? with
    | some x, some y => x.aHit ≠ y.aHit || x.bHit ≠ y.bHit || x.aAct ≠ y.aAct || x.bAct ≠ y.bAct
    | _, _ => false)).getD 0xFF

/-- Bits of the general-area bytes that differ. -/
def genDiff (a b : List Byte) : Nat :=
  (List.range 32).foldl (fun n k => n + (if slice a (0x60 + k) 1 = slice b (0x60 + k) 1 then 0 else 2 ^ k)) 0

/-- The comparison of a twin with its live packet, and its divergence record (R347). -/
def twinCompare (s : State) (o : Outcome) (md : List Byte) (xs : List Intent) (steps : List StepRec) : State :=
  let ys := listed xs
  let short (x : Intent) : Nat × Nat × Nat := (x.kind, x.array, if x.kind = 5 then 0 else x.idx)
  let g := genDiff o.md md
  let di := rdF s Reg.LD_RH_CTL 7 1 == 1 && o.intents.map short ≠ ys.map short
  let diff := b2n (mdDisp o.md ≠ mdDisp md) + 2 * b2n (mdQueue o.md ≠ mdQueue md) + 4 * b2n (mdHandle o.md ≠ mdHandle md) +
    8 * b2n (mdReason o.md ≠ mdReason md) + 16 * b2n (g &&& rdN s Reg.LD_RH_MASK ≠ 0)
  let s := bump64 s Reg.LD_RH_TWIN_CNT_LO
  if diff = 0 && !di then s else
  let rec' := pack 64 [(0, 0, 16, mdSheaf md), (0, 16, 16, mdSheaf o.md), (4, 0, 3, rhStair s), (4, 3, 1, o.flight), (4, 4, 5, diff),
    (4, 9, 1, b2n di), (4, 16, 8, firstDiff o.steps steps), (8, 0, 64, o.time), (0x10, 0, 32, mdHash o.md), (0x14, 0, 32, o.seq),
    (0x18, 0, 3, mdDisp o.md), (0x18, 3, 8, mdReason o.md), (0x1C, 0, 18, mdQueue o.md), (0x20, 0, 32, mdHandle o.md),
    (0x24, 0, 3, mdDisp md), (0x24, 3, 8, mdReason md), (0x28, 0, 18, mdQueue md), (0x2C, 0, 32, mdHandle md),
    (0x30, 0, 32, g), (0x34, 0, 32, intentSig o.intents), (0x38, 0, 32, intentSig ys)]
  let s := bump s Reg.LD_RH_DIV_CNT
  let ring := (List.range 16).find? (fun r => tmBound s r && tmHandle s r == rdN s Reg.LD_RH_RING)
  let r := match ring with
    | some r => tmPut s r 3 [rec']
    | none => (s, false)
  raiseLim (if r.2 then r.1 else bump r.1 Reg.LD_RH_REC_DROP_CNT) 0x7F5 0 []

/-! Entry (R12, R316, R338). -/

/-- A climb joins a flight: it takes as many slots as its header, a packet behind a parked or withdrawn packet of its flow
hash is withdrawn at once (R333), and a rehearsal may copy it. -/
def joinFlight (s : State) (p role fl : Nat) (c : Climb) (slots : Nat) : State :=
  let f := flightGet s p fl
  let after := if c.marker.isNone then goneBefore f.climbs (mdHash c.pkt.md) else none
  let c' := if after.isSome then { c with withdrawn := true, after := after } else c
  let s := flightUpd s p fl (fun f => { f with climbs := f.climbs ++ [c'], seq := if c.replay then f.seq else (f.seq + slots) % 2 ^ 32 })
  let s := if after.isSome then countWithdraw s p fl 1 else s
  if c.marker.isNone then twinCopy s role fl c else s

/-- A climb of a packet that enters a flight of physical stair p now. -/
def newClimb (s : State) (p fl : Nat) (k : Pkt) (again : Bool) : Climb :=
  { pkt := k, seq := (flightGet s p fl).seq, entryNs := nowNs s, entryEl := elNs s, bank := flightBank s p fl (mdSheaf k.md), reentry := again }

def pktSlots (k : Pkt) : Nat := max 1 (mdF k.md 0x10 14 2)

/-- What a marker does to the elements, as the intents that packets behind it see (R337, R415, R416). -/
def markerIntents (s : State) (p fl : Nat) (m : Marker) : List Intent :=
  match m.what with
  | 2 => [{ kind := 8, array := m.array, idx := m.idx, opnd := m.opnd }]
  | 3 => [{ kind := 8, array := m.array, idx := m.idx }]
  | 5 => [{ kind := 10, array := m.array, idx := 0 }]
  | 6 => [{ kind := 8, array := m.array, idx := m.idx, opnd := mtrPack (mtrCap s p fl m.opnd) (elNs s / 16) m.opnd 0 }]
  | _ => [{ kind := 9, array := m.array, idx := m.idx, opnd := elNs s }]

/-- A marker enters a flight. -/
def enterMarker (s : State) (p role fl : Nat) (m : Marker) : State :=
  let f := flightGet s p fl
  let s := flightUpd s p fl (fun f => { f with inside := aset f.inside f.nextMark m, nextMark := f.nextMark + 1 })
  let k : Pkt := { id := 0, hdr := [], body := [], md := [], grains := 0 }
  let c : Climb := { pkt := k, seq := f.seq, entryNs := nowNs s, entryEl := elNs s, marker := some f.nextMark, intents := markerIntents s p fl m }
  joinFlight s p role fl c 1

/-- A packet as it was first produced, for its next climb (R332). -/
def freshPkt (k : Pkt) : Pkt := { k with hdr := k.hdr0, md := k.md0, cls := 0xFF, unverified := false }

/-! The ends of packets. -/

/-- A packet dispatched to a root has begun, or has gone (R408). -/
def begunDec (s : State) (root : Nat) : State :=
  { s with land := { s.land with begun := aset s.land.begun root (agetD s.land.begun root 0 - 1) } }
def begunInc (s : State) (root : Nat) : State :=
  { s with land := { s.land with begun := aset s.land.begun root (agetD s.land.begun root 0 + 1) } }

/-- A packet ends in a flight without leaving it. -/
def endAt (s : State) (fl : Nat) (k : Pkt) : State := if fl = 0 then endPkt s k else endSent (begunDec s k.root) k

/-! Intents at retire (R328, R330). -/

/-- One intent is written into the state blocks. -/
def applyIntent (s : State) (p fl : Nat) (x : Intent) : State :=
  match x.kind with
  | 4 =>
    let st := tblStore s p x.array
    stairUpd s p (fun y => { y with tbls := aset y.tbls st (aupd (agetD y.tbls st []) x.idx (fun e => { e with data := applyFlow (fit (dataLen s p x.array) e.data) x })) })
  | 5 =>
    if rdF s (Reg.STA_L2_CTL p) 16 1 = 0 then s
    else if (stairGet s p).learns.length ≥ 1024 then bump s (Reg.STA_L2_LEARN_DROP_CNT p)
    else stairUpd s p (fun y => { y with learns := y.learns ++ [x.bytes] })
  | 10 =>
    flightUpd s p fl (fun f =>
      let lo := elemKey x.array (liveBank f x.array) 0
      { f with elems := f.elems.filter (fun e => e.1 < lo || lo + 2 ^ 23 ≤ e.1) })
  | 0 | 6 | 7 => s
  | _ => elemSet s p fl x.array x.idx (applyElem s p fl (elemGet s p fl x.array x.idx) x)

/-- A hit counts in its table's array (R617). -/
def hitCount (s : State) (p fl len : Nat) (t h : Option Nat) : State :=
  match t, h with
  | some t, some i =>
    let r := rdN s (Reg.STA_TBL_HITARR p t)
    if fld r 0 1 = 0 then s
    else if i < arrCount s p fl (fld r 1 4) then
      let a := fld r 1 4
      elemSet s p fl a i (applyElem s p fl (elemGet s p fl a i) { kind := 1, array := a, idx := i, opnd := len })
    else bump s (Reg.STA_TBL_HIT_RANGE_CNT p)
  | _, _ => s

/-- Everything that a packet's climb writes at its retire. -/
def applyAll (s : State) (p fl : Nat) (c : Climb) (len : Nat) : State :=
  let s := c.intents.foldl (fun s x => applyIntent s p fl x) s
  c.steps.foldl (fun s r => hitCount (hitCount s p fl len r.aTable r.aHit) p fl len r.bTable r.bHit) s

/-- A climb leaves its flight: the retire mark and count advance (R330, R338). -/
def popClimb (s : State) (p fl : Nat) (c : Climb) (rest : List Climb) : State :=
  let s := flightUpd s p fl (fun f => { f with climbs := rest, mark := c.seq })
  bump64 (wrN s (Reg.STA_RET_MARK p fl) c.seq) (Reg.STA_RET_PKT_CNT_LO p fl)

/-- The IPv4 header checksum of a layer recomputed over IHL × 4 bytes (R368). -/
def csumFixup (k : Pkt) (l : Nat) : Pkt :=
  let o := layerOff k.md l 1
  if layerL3 k.md l ≠ 1 || o = 0x3FF then k else
  let n := 4 * fld (beAt k.hdr o 1) 0 4
  let h := patch (slice k.hdr o n) 10 [0, 0]
  { k with hdr := patch k.hdr (o + 10) (be 2 (inetCsum h)) }

/-- The packet of a climb at its retire: checksums recomputed, and a header that overflowed its window dropped (R367). -/
def retirePkt (c : Climb) : Pkt :=
  let k := c.csum.foldl csumFixup c.pkt
  if c.hdrOvf then { k with md := dropMd k.md 0x30 } else k

/-! The waiting hall (R302, R303, R325, R333). -/

/-- The limits of R303 refuse a packet under a key. -/
def hallFull (s : State) (key : ParkKey) (grains : Nat) : Bool :=
  (s.land.hall.filter (fun x => sameKey x.key key)).length ≥ 64 ||
  (s.land.hall.map (fun x => x.pkt.grains)).foldl (· + ·) 0 + grains > 1048576

def hallPut (s : State) (p fl : Nat) (key : ParkKey) (k : Pkt) : State :=
  { s with land := { s.land with hall := s.land.hall ++ [{ stair := p, flight := fl, key := key, pkt := k, since := s.time.elapsed }] } }

/-- A drop under the sheaf drain limit, with DROP_REASON 0x20 (R325, R354). -/
def expirePkt (s : State) (fl : Nat) (k : Pkt) : State :=
  let s := bump { s with sheaf := { s.sheaf with expired := s.sheaf.expired + 1 } } Reg.LD_SHEAF_EXPIRED_CNT
  endAt s fl { k with md := dropMd k.md 0x20 }

/-- The drain limit has acted on the packet's sheaf. -/
def limitHit (s : State) (md : List Byte) : Bool := s.sheaf.limited && isOld s md

/-- A packet that a key refuses is dropped, and counted where its kind of key counts. -/
def hallRefuse (s : State) (p fl : Nat) (key : ParkKey) (k : Pkt) : State :=
  let s := match key with
    | .deep _ t _ _ => raiseLim (bump s (Reg.STA_DEEP_PARK_DROP_CNT p)) (stairSrc p 11) 0 [(4, t)]
    | .glean _ _ => bump s (Reg.STA_GLEAN_PARK_DROP_CNT p)
    | .qp _ => raiseLim (bump s Reg.RM_PARK_DROP_CNT) 0x882 0 []
    | .behind _ => bump s (Reg.STA_RET_PARK_DROP_CNT p fl)
  endAt s fl k

/-- DROP_REASON of such a drop (R303, R354). -/
def refuseReason : ParkKey → Nat
  | .deep _ _ _ _ => 0x10
  | .behind _ => 0x21
  | _ => 0

/-- A packet parks at its retire; the metadata word is what the ledger shows. -/
def parkPkt (s : State) (p fl : Nat) (key : ParkKey) (k : Pkt) (md : List Byte) : State × List Byte :=
  if limitHit s k.md then (expirePkt s fl k, dropMd md 0x20)
  else if hallFull s key k.grains then (hallRefuse s p fl key k, dropMd md (refuseReason key))
  else
    let s := match key with
      | .deep _ _ _ _ => bump s (Reg.STA_DEEP_MISS_CNT p)
      | .glean _ _ => bump s (Reg.STA_GLEAN_PARK_CNT p)
      | .qp _ => bump s Reg.RM_PARK_CNT
      | .behind _ => s
    (hallPut s p fl key k, md)

/-- A climb that was marked for parking or withdrawn retires: it has no disposition (R332). -/
def retireGone (s : State) (p role fl : Nat) (c : Climb) : State × List Byte :=
  let k := freshPkt c.pkt
  match c.park, c.after with
  | some key, _ => parkPkt s p fl key k c.pkt.md
  | none, some a => parkPkt s p fl (.behind a) k c.pkt.md
  | none, none =>
    if limitHit s k.md then (expirePkt s fl k, dropMd c.pkt.md 0x20)
    else (entryUpd s role fl (fun e => { e with again := e.again ++ [k] }), c.pkt.md)

/-- The state that a parked packet waits for is present (R302, R333, R499). -/
def keyReady (s : State) (key : ParkKey) : Bool :=
  match key with
  | .deep _ _ _ _ => keyHere s key
  | .glean st k => (hashFind s st 62 k (fun _ => true)).isSome
  | .qp i =>
    match qpGet s i with
    | some q => q.tstate = 0 || (lineOfQp s i).any (fun e => e.2.st == 0)
    | none => true
  | .behind a =>
    !s.land.hall.any (fun x => x.pkt.id == a) && !s.land.entry.any (fun e => e.2.again.any (fun k => k.id == a)) &&
    !s.stairs.any (fun e => (e.2.ing.climbs ++ e.2.egr.climbs).any (fun c => c.marker.isNone && c.gone && c.pkt.id == a))

/-! Dispositions at ingress retire. -/

/-- A default action of the packet's profile (R256). -/
def dfltAct (s : State) (p role c : Nat) (k : Pkt) : State × Pkt :=
  let b := profOf p role (mdSrc k.md)
  let tgt := rdN s (Reg.STA_PROF_DFLT_TGT b.1 b.2 c)
  let set (disp reason queue handle : Nat) : Pkt :=
    let md := mdPut (mdPut k.md 0x40 0 3 disp) 0x40 3 8 reason
    { k with md := mdPut (mdPut md 0x44 0 18 queue) 0x48 0 32 handle, cls := c }
  let k := match rdF s (Reg.STA_PROF_DFLT_ACT b.1 b.2 c) 0 3 with
    | 1 => set 3 0 (mdQueue k.md) tgt
    | 2 => set 2 0 (tgt % 2 ^ 18) 0
    | 3 => set 4 (1 + c) (tgt % 2 ^ 18) 0
    | _ => set 1 (1 + c) (mdQueue k.md) (mdHandle k.md)
  (bump s (Reg.STA_PROF_CNT b.1 b.2 c), k)

/-- The glean key of a fragment with its SLICE as it stands (R258). -/
def gleanKey (k : Pkt) : Option (List Byte) := k.gkey.map (fun g => patch g 0 (le 4 (putFld (leAt g 0 4) 16 14 (mdSlice k.md))))

/-- What an ingress retire finds for a packet: it goes on, its engine consumed it, or it parks under a glean key. -/
inductive RetRes where
  | go (k : Pkt)
  | consumed (k : Pkt)
  | glean (key : List Byte)
deriving DecidableEq, Repr

/-- The disposition of a packet at ingress retire (R254, R255, R260, R463, R464): `q` is the stair whose glean table is
read. -/
def resolveIn (s : State) (p q role : Nat) (ovf : Bool) (k : Pkt) : State × RetRes :=
  let fin (s : State) (k : Pkt) : State × RetRes :=
    let k := if mdSrc k.md = 33 then rmForward s k else k
    if mdDisp k.md = 0 then let r := dfltAct s p role 0 k; (r.1, .go r.2) else (s, .go k)
  if mdStatus k.md ≠ 0 then let r := dfltAct s p role (mdStatus k.md) k; (r.1, .go r.2)
  else if ovf then (s, .go k)
  else if rmActs k.md && mdSrc k.md ≠ 33 then
    match rmIngress s k with
    | (s, some k) => (s, .go { k with unverified := true })
    | (s, none) => (s, .consumed k)
  else if mdFrag k.md = 2 then
    if k.forced then let r := dfltAct s p role 4 k; (r.1, .go r.2)
    else match gleanKey k with
      | none => let r := dfltAct (bump s (Reg.STA_GLEAN_WAIT_EXP_CNT p)) p role 4 k; (r.1, .go r.2)
      | some key =>
        match hashFind s q 62 key (fun _ => true) with
        | some (_, e) =>
          let s := bump64 s (Reg.STA_TBL_HIT_CNT_LO q 62)
          let md := mdPut (mdPut (mdPut k.md 0x40 0 3 (leAt e.data 0 4)) 0x44 0 18 (leAt e.data 4 4)) 0x48 0 32 (leAt e.data 8 4)
          fin (bump s (Reg.STA_GLEAN_HIT_CNT p)) { k with md := mdPut (patch md 0x70 (slice e.data 16 16)) 0x14 9 1 1 }
        | none => (bump64 s (Reg.STA_TBL_MISS_CNT_LO q 62), .glean key)
  else fin s k

/-- The glean entry of a first fragment (R259), a default action that its parse came to included. -/
def gleanStore (s : State) (p role : Nat) (k : Pkt) : State :=
  let b := profOf p role (mdSrc k.md)
  if mdFrag k.md ≠ 1 || rdF s (Reg.STA_PROF_CTL b.1 b.2) 25 1 = 0 then s else
  match gleanKey k with
  | none => s
  | some key =>
    match gleanWrite s p key (le 4 (mdDisp k.md) ++ le 4 (mdQueue k.md) ++ le 4 (mdHandle k.md) ++ le 4 0 ++ slice k.md 0x70 16) with
    | some s => s
    | none => raiseLim (bump s (Reg.STA_GLEAN_FULL_CNT p)) (stairSrc p 1) 0 []

/-- A punt is carried out or fails (R257, R566): the state, and the metadata word that the ledger shows. -/
def puntPkt (s : State) (p role fl : Nat) (k : Pkt) : State × List Byte :=
  match punt s role fl (mdHandle k.md) k.md (pktBytes k) k.cls with
  | some s => (endAt s fl k, k.md)
  | none =>
    let s := raiseLim (bump s (Reg.STA_PUNT_DROP_CNT p)) (stairSrc p 2) 0 [(4, mdHandle k.md)]
    (endAt s fl k, mdPut k.md 0x40 3 8 6)

/-- A disposition at ingress retire: admission, a punt, or the end of the packet (R394). -/
def disposeIn (s : State) (p role : Nat) (k : Pkt) : State × List Byte :=
  match mdDisp k.md with
  | 2 | 4 =>
    let s := if cyMode k.md = 2 then fmtCount s p else s
    (admitPkt s { k with unverified := k.unverified || cyMode k.md == 1 }, k.md)
  | 3 => puntPkt s p role 0 k
  | _ => (endPkt s k, k.md)

/-! What leaves an egress flight (R18, R20, R154, R190). -/

/-- A packet reaches the MAC of a port. -/
def toPort (s : State) (port : Nat) (k : Pkt) : State :=
  let b := pktBytes k
  if portDownFlush s port then endAt (portCnt s port 14 1) 1 k
  else if b.length < 14 then endAt (portCnt s port 13 1) 1 k
  else if b.length + 4 > maxFrame s port then endAt (portCnt s port 12 1) 1 k
  else portUpd s port (fun x => { x with tx := x.tx ++ [{ bytes := b, md := k.md, origin := k.origin, late := k.late, grains := k.grains }] })

/-- The write engine places a packet for an ETH_RX channel in its next fetched buffer, and its completion is due (R190,
R191). -/
def toRing (s : State) (i : Nat) (c : Chan) (k : Pkt) (sts : Byte) : State :=
  match nextBuf c with
  | none => endAt s 1 k
  | some e =>
    let b := pktBytes k
    let room := elemsLen e.elems
    let s := scatter s c.slice (descAttr s c.slice e.desc (boundVec s c)) e.elems 0 (b.take room)
    let code := if sts ≠ STS_OK then sts else if b.length > room then STS_RX_TRUNC else STS_OK
    let s := finishEnt s i e.idx { stsCpl i c e code with len := b.length, aux := leAt k.md 0x1C 4, time := some (leAt k.md 0 8) }
    endAt s 1 k

/-- The write engine takes a packet for a channel; `sts` is what host memory answers to its writes. -/
def toHost (s : State) (k : Pkt) (sts : Byte) : State :=
  match chanOf s k.dst with
  | some (i, c) =>
    if (aget s.slices c.slice).any (fun x => x.state == 2) then endAt s 1 k
    else if !sliceLive s c.slice then { s with land := { s.land with stuck := s.land.stuck ++ [k] } }
    else if c.kind = 4 then freeGrains (begunDec (rmEgress s k sts) k.root) k.grains
    else if c.kind = 3 then toRing s i c k sts
    else endAt s 1 k
  | none => endAt s 1 k

/-- A packet that its inline engine has passed goes where its dispatch named. -/
def sendOut (s : State) (k : Pkt) (sts : Byte) : State :=
  let k := if k.qp.isSome then fillCsum k else k
  if k.root < 32 then toPort s k.root k else toHost s k sts

/-- The egress transport engine, then the inline engine, then the way out (R18, R464). -/
def leave (s : State) (p role : Nat) (k : Pkt) (sts : Byte) : State :=
  let r := rmSend s k
  match inlineEgress r.1 p role r.2 with
  | (s, .pass k) => sendOut s k sts
  | (s, .dropped) => endAt s 1 r.2
  | (s, .aside) => begunDec s k.root

end Sys2Proof.Machine
end

