-- ==== Sys2Proof/Machine/Arrays.lean ====
section
/-! DEFINITION. Machine/Arrays.lean: the software commands on state arrays and meters, their markers, and the configuration of
arrays (chapters 10 and 12). -/

namespace Sys2Proof.Machine

/-! Commands and their ends (R310, R337, R416). -/

/-- Whether a marker belongs to the array command (`mtr` false) or the meter command of a stair's registers. -/
def Marker.ofCmd (m : Marker) (src : Nat) (mtr : Bool) : Bool := m.src == src && (if mtr then m.what == 6 else 2 ≤ m.what && m.what ≤ 5)

/-- Markers of a command that have not retired. -/
def markersLeft (s : State) (src fl : Nat) (mtr : Bool) : Bool :=
  s.land.entry.any (fun e => e.1 % 2 == fl && e.2.marks.any (fun m => m.ofCmd src mtr)) ||
  (List.range 9).any (fun q => (flightGet s q fl).inside.any (fun m => m.2.ofCmd src mtr))

def outKey (fl : Nat) (mtr : Bool) : Nat := fl + 2 * b2n mtr

/-- One stair's outcome of a command. -/
def addOut (s : State) (src fl : Nat) (mtr : Bool) (q : Nat) (sts : Byte) : State :=
  stairUpd s src (fun x => { x with outs := aset x.outs (outKey fl mtr) (agetD x.outs (outKey fl mtr) [] ++ [(q, sts)]) })

/-- A command whose last marker has retired completes: its status, and the stairs where it failed when they differ. -/
def cmdEnd (s : State) (src fl : Nat) (mtr : Bool) : State :=
  if markersLeft s src fl mtr then s else
  let outs := agetD (stairGet s src).outs (outKey fl mtr) []
  let own := ((outs.find? (fun o => o.1 == cmdTarget s src)).map (fun o => o.2)).getD STS_OK
  let same := outs.all (fun o => o.2 == own)
  let sts := if same then own else STS_PARTIAL
  let mask := if same then 0 else outs.foldl (fun n o => if o.2 = STS_OK then n else n + 2 ^ o.1) 0
  let s := stairUpd s src (fun x => { x with outs := adel x.outs (outKey fl mtr) })
  if mtr then
    let r := Reg.STA_MTR_CMD src fl
    wrN (wrF (wrF s r 16 1 0) r 18 8 sts.toNat) (Reg.STA_MTR_STATUS src fl) mask
  else
    let r := Reg.STA_ARR_STATUS src fl
    wrF (wrF (wrF s (Reg.STA_ARR_CMD src fl) 16 1 0) r 0 8 sts.toNat) r 16 9 mask

/-- The 16 bytes of STA_ARR_DATA as a number, and their writing. -/
def arrData (s : State) (st fl : Nat) : Nat := ofLe ((List.range 4).flatMap (fun w => le 4 (rdN s (Reg.STA_ARR_DATA st fl w))))
def putArrData (s : State) (st fl v : Nat) : State := (List.range 4).foldl (fun s w => wrN s (Reg.STA_ARR_DATA st fl w) (fld v (32 * w) 32)) s

/-- What a marker does when it takes effect in a stair: its value is read first, for READ_CLEAR (R337); a meter assignment
takes the profile as it stands (R416). An array of KIND NONE fails it (R352). -/
def markerAct (s : State) (q fl : Nat) (m : Marker) (xs : List Intent) : State :=
  if m.what = 7 then (if arrKind s q fl m.array = 2 then xs.foldl (fun s x => applyIntent s q fl x) s else s)
  else
    let mtr := m.what == 6
    if arrKind s q fl m.array = 0 then addOut s m.src fl mtr q STS_BAD_TABLE else
    let s := if m.what = 3 && q = cmdTarget s m.src then putArrData s m.src fl (elemGet s q fl m.array m.idx) else s
    let xs := if mtr then xs.map (fun x => { x with opnd := mtrPack (mtrCap s q fl m.opnd) (fld x.opnd 40 39) m.opnd 0 }) else xs
    addOut (xs.foldl (fun s x => applyIntent s q fl x) s) m.src fl mtr q STS_OK

/-- A marker is sent to a stair: through the flight of a stair that serves a role, at once elsewhere. -/
def markerSend (s : State) (q fl : Nat) (m : Marker) : State :=
  if unitState s q = 1 then entryUpd s (unitRole s q) fl (fun e => { e with marks := e.marks ++ [m] })
  else (List.range m.n).foldl (fun s i => let m := { m with idx := m.idx + i, n := 1 }; markerAct s q fl m (markerIntents s q fl m)) s

/-- Why a command of the array registers fails in a stair. -/
def arrFail (s : State) (q fl op a i : Nat) : Option Byte :=
  if arrKind s q fl a = 0 || (op = 2 && arrKind s q fl a = 2) || (op = 4 && !arrSnap s q fl a) then some STS_BAD_TABLE
  else if op ≠ 5 && i ≥ arrCount s q fl a then some STS_BAD_INDEX
  else none

/-- A write of STA_ARR_CMD that passed the gate (R337). -/
def arrCmdWrite (s : State) (st fl : Nat) (v : W32) : State :=
  let r := Reg.STA_ARR_CMD st fl
  if rdF s r 16 1 = 1 then wrF s r 17 1 1 else
  let s := plainWrite (if rbit v 17 then wrF s r 17 1 0 else s) r 0x10F v
  let op := rfld v 4 4
  let a := rfld v 0 4
  let i := rdF s (Reg.STA_ARR_INDEX st fl) 0 23
  let q := cmdTarget s st
  let done (s : State) (sts : Byte) : State := let r := Reg.STA_ARR_STATUS st fl; wrF (wrF s r 0 8 sts.toNat) r 16 9 0
  if op = 0 then s
  else if op ≥ 6 then done s STS_INVALID_PARAM
  else if op = 1 || op = 4 then
    match arrFail s q fl op a i with
    | some e => done s e
    | none =>
      let f := flightGet s q fl
      let bank := if op = 1 then liveBank f a else 1 - liveBank f a
      done (putArrData s st fl (agetD f.elems (elemKey a bank i) 0)) STS_OK
  else
    let s := wrF s r 16 1 1
    let stairs := if rbit v 8 then List.range 9 else [q]
    let s := stairs.foldl (fun s q =>
      match arrFail s q fl op a i with
      | some e => addOut s st fl false q e
      | none => markerSend s q fl { what := op, array := a, idx := i, opnd := fld (arrData s st fl) 0 (if arrKind s q fl a = 3 then 64 else 128), src := st, bcast := rbit v 8 }) s
    cmdEnd s st fl false

/-- The row of one array command: a write of STA_ARR_CMD whose OP is `op`. -/
def arrCmdRow (op : Nat) (req : Requester) (be st fl : Nat) (v : W32) (s : State) : State :=
  if st < 9 && fl < 2 && rfld v 4 4 = op then gate s req be (Reg.STA_ARR_CMD st fl) false (fun s => arrCmdWrite s st fl v) else s

def execArrayRead (req : Requester) (be st fl : Nat) (v : W32) (s : State) : Host.Outcome State Fault Refusal := .next (arrCmdRow 1 req be st fl v s)
def execArrayReadSnap (req : Requester) (be st fl : Nat) (v : W32) (s : State) : Host.Outcome State Fault Refusal := .next (arrCmdRow 4 req be st fl v s)
def execArrayWrite (req : Requester) (be st fl : Nat) (v : W32) (s : State) : Host.Outcome State Fault Refusal := .next (arrCmdRow 2 req be st fl v s)
def execArrayReadClear (req : Requester) (be st fl : Nat) (v : W32) (s : State) : Host.Outcome State Fault Refusal := .next (arrCmdRow 3 req be st fl v s)
def execArrayClear (req : Requester) (be st fl : Nat) (v : W32) (s : State) : Host.Outcome State Fault Refusal := .next (arrCmdRow 5 req be st fl v s)

/-- The marker at the head of a flight retires (R337). -/
def markerRetire (s : State) (p fl : Nat) : State :=
  match (flightGet s p fl).climbs with
  | c :: rest =>
    match c.marker with
    | some n =>
      if c.step < flightLen fl then s else
      match aget (flightGet s p fl).inside n with
      | some m =>
        let s := flightUpd s p fl (fun f => { f with climbs := rest, mark := c.seq, inside := adel f.inside n })
        let s := markerAct (wrN s (Reg.STA_RET_MARK p fl) c.seq) p fl m c.intents
        if m.what = 7 then s else cmdEnd s m.src fl (m.what == 6)
      | none => flightUpd s p fl (fun f => { f with climbs := rest, mark := c.seq })
    | none => s
  | [] => s

/-- ARRAY_MARKER_RETIRE (R337). -/
def execArrayMarkerRetire (role fl : Nat) (s : State) : Host.Outcome State Fault Refusal :=
  .next (match (if fl < 2 then stairOf s role else none) with
    | some p => markerRetire s p fl
    | none => s)

/-! Meters. -/

/-- A write of STA_MTR_CMD that passed the gate (R416). -/
def mtrCmdWrite (s : State) (st fl : Nat) (v : W32) : State :=
  let r := Reg.STA_MTR_CMD st fl
  if rdF s r 16 1 = 1 then wrF s r 17 1 1 else
  let s := plainWrite (if rbit v 17 then wrF s r 17 1 0 else s) r 0x1FFF v
  if !rbit v 13 then s else
  let a := rfld v 0 4
  let first := rdF s (Reg.STA_MTR_FIRST st fl) 0 23
  let n := rdF s (Reg.STA_MTR_COUNT st fl) 0 24
  if n = 0 then wrN (wrF s r 18 8 0) (Reg.STA_MTR_STATUS st fl) 0 else
  let s := wrF s r 16 1 1
  let stairs := if rbit v 12 then List.range 9 else [cmdTarget s st]
  let s := stairs.foldl (fun s q =>
    if arrKind s q fl a ≠ 2 then addOut s st fl true q STS_BAD_TABLE
    else if first + n > arrCount s q fl a then addOut s st fl true q STS_BAD_INDEX
    else markerSend s q fl { what := 6, array := a, idx := first, opnd := rfld v 4 8, src := st, bcast := rbit v 12, n := n }) s
  cmdEnd s st fl true

/-- METER_ASSIGN (R416): a write of STA_MTR_CMD with GO set. -/
def execMeterAssign (req : Requester) (be st fl : Nat) (v : W32) (s : State) : Host.Outcome State Fault Refusal :=
  .next (if st < 9 && fl < 2 && rbit v 13 then gate s req be (Reg.STA_MTR_CMD st fl) false (fun s => mtrCmdWrite s st fl v) else s)

/-- METER_REFRESH_PASS (R415): the background pass over a METER array of a role's flight, one marker per element. -/
def execMeterRefreshPass (role fl a : Nat) (s : State) : Host.Outcome State Fault Refusal :=
  .next (match (if fl < 2 && a < 16 then stairOf s role else none) with
    | some p =>
      if arrKind s p fl a = 2 && arrCount s p fl a ≠ 0 then markerSend s p fl { what := 7, array := a, idx := 0, opnd := 0, src := p, bcast := false, n := arrCount s p fl a }
      else s
    | none => s)

/-! Configuration (R335, R352). -/

/-- The block ranges of a stair's tables and of its other arrays. -/
def arrOthers (s : State) (p fl a : Nat) : List (Nat × Nat) :=
  let ts := ((List.range 62).filter (fun u => tblKind s p u == 1 || tblKind s p u == 2 || tblKind s p u == 5)).map (fun u => (tcf s p u 1 0 8, tcf s p u 1 8 8))
  let as := [0, 1].flatMap (fun f => ((List.range 16).filter (fun b => !(f = fl && b = a) && arrKind s p f b ≠ 0)).map
    (fun b => (rdF s (Reg.STA_ARR_CFG p f b) 8 8, rdF s (Reg.STA_ARR_CFG p f b) 16 8)))
  ts ++ as

/-- The lowest cause for which an array configuration is refused. -/
def arrRefused (s : State) (p fl a : Nat) (v : W32) : Option Nat :=
  let kind := rfld v 0 2
  let snap := rbit v 2
  let base := rfld v 8 8
  let n := rfld v 16 8
  if snap && kind ≠ 1 then some 1
  else if kind ≠ 0 && (n = 0 || (snap && n % 2 = 1)) then some 2
  else if kind ≠ 0 && (!blocksIn base n || (arrOthers s p fl a).any (fun o => blocksMeet base n o.1 o.2)) then some 3
  else if arrKind s p fl a ≠ 0 && kind ≠ 0 && (rdN s (Reg.STA_ARR_CFG p fl a) &&& 0xFFFF07) ≠ (v.toNat &&& 0xFFFF07) then some 4
  else none

/-- A write of STA_ARR_CFG[a] that passed the gate. Elements of an array that is set up read zero (log entry 6). -/
def arrCfgWrite (s : State) (p fl a : Nat) (v : W32) : State :=
  match arrRefused s p fl a v with
  | some c => let r := Reg.STA_ARR_STATUS p fl; wrF (wrF s r 8 1 1) r 9 4 c
  | none =>
    let s := if rfld v 0 2 = 0 then flightUpd s p fl (fun f => { f with elems := f.elems.filter (fun e => e.1 / 2 ^ 24 ≠ a), liveBank := adel f.liveBank a }) else s
    plainWrite s (Reg.STA_ARR_CFG p fl a) 0xFFFF07 v

/-- ARR_CFG_WRITE (R352). -/
def execArrCfgWrite (req : Requester) (be p fl a : Nat) (v : W32) (s : State) : Host.Outcome State Fault Refusal :=
  .next (if p < 9 && fl < 2 && a < 16 then gate s req be (Reg.STA_ARR_CFG p fl a) false (fun s => arrCfgWrite s p fl a v) else s)

end Sys2Proof.Machine
end

