-- ==== Sys2Proof/Machine/Fabric.lean ====
section
/-! DEFINITION. Machine/Fabric.lean: fabric time (chapter 2): sources, the servo, holdover, PPS and PTM, and the pulse
outputs. Steps and register actions are in Machine/Bus.lean, because they reach every block. -/

namespace Sys2Proof.Machine

/-- FT_STATUS.STATE: 0 FREE, 1 ACQUIRING, 2 LOCKED, 3 HOLDOVER. -/
def ftState (s : State) : Nat := rdF s Reg.FT_STATUS 0 2

/-- The source in FT_SRC_CTL. -/
def ftSrc (s : State) : Nat := rdF s Reg.FT_SRC_CTL 0 3

/-- A change of STATE, with its event (R58). -/
def setFtState (s : State) (st : Nat) : State :=
  let old := ftState s
  if old = st then s else raise (wrF s Reg.FT_STATUS 0 2 st) 0x100 [(4, old), (4, st)]

/-- The clamp of the servo: plus and minus 200 ppm (R38). -/
abbrev servoMax : Int := 13107200

def clampRate (x : Int) : Int := if x > servoMax then servoMax else if x < -servoMax then -servoMax else x

/-- Puts a rate correction in use and shows it in FT_FREQ_ADJ and CLAMPED. -/
def setRate (s : State) (adj : Int) : State :=
  let s := wrN s Reg.FT_FREQ_ADJ (unsign 32 adj)
  let s := wrF s Reg.FT_STATUS 3 1 (b2n (adj ≥ servoMax || adj ≤ -servoMax))
  { s with time := { s.time with rate := adj } }

/-- A committed write of FT_FREQ_ADJ: the value is stored, and is the rate only under source 0. In HOLDOVER the register
holds the integral term (R40), and a write changes nothing. -/
def freqAdjWrite (s : State) (v : W32) : State :=
  if ftState s = 3 then s else
  let s := wr s Reg.FT_FREQ_ADJ v
  if ftSrc s = 0 then setRate s (signed 32 v.toNat) else s

/-- PTM is enabled by the host of a link: PTM Control of PF0. -/
def ptmEnabled (s : State) (link : Nat) : Bool := (cfgRd 0 (fnGet s link 0) 0x208).testBit 0

/-- Loss of the source with a cause of R692: HOLDOVER holds the integral term (R40). Whether the clamp of the servo ends
with the source is open (log entry 9): it is kept. -/
def sourceLost (s : State) (cause : Nat) : State :=
  if ftState s = 3 || ftSrc s = 0 then s else
    let src := ftSrc s
    let s := raise s 0x102 [(1, src), (1, cause)]
    setRate (setFtState s 3) s.time.acc

/-- The loss cause of a state of TCLK_IN (R692); 0 none. -/
def clockCause : ClockState → Nat
  | .stopped => 3
  | .strayed => 4
  | .good => 0

/-- Source 3 is lost while its link is down (cause 5) or PTM is disabled on it (cause 6) (R692). -/
def ptmCheck (s : State) : State :=
  let link := rdF s Reg.FT_SRC_CTL 8 4
  if ftSrc s ≠ 3 then s
  else if !linkUp s link then sourceLost s 5
  else if !ptmEnabled s link then sourceLost s 6
  else s

/-- What holds now decides whether the source selected is lost: TCLK_IN for source 2 (causes 3 and 4), the link for source 3 (R692). -/
def sourceCheck (s : State) : State :=
  if ftSrc s = 2 && s.time.tclk ≠ 0 then sourceLost s s.time.tclk else ptmCheck s

/-- A committed write of FT_SRC_CTL with SRC 0 to 3: a change of SRC moves the state to ACQUIRING, or to FREE for
source 0; the integral term stays and fabric time does not step. -/
def srcCtlApply (s : State) (v : W32) : State :=
  let old := ftSrc s
  let s := wr s Reg.FT_SRC_CTL (v &&& 0xF07)
  let src := ftSrc s
  if src = old then sourceCheck s else
    let s := { s with time := { s.time with goodRun := 0, lastSample := s.time.elapsed, lastEdge := s.time.elapsed, ptmFails := 0, ptmBusy := false, ptmStart := s.time.elapsed } }
    let s := if src = 0 then setRate s (signed 32 (rdN s Reg.FT_FREQ_ADJ)) else s
    sourceCheck (setFtState s (if src = 0 then 0 else 1))

/-- A write of FT_SRC_CTL: SRC 4 to 7 is dropped whole with BAD_ACCESS. -/
def srcCtlWrite (s : State) (req : Requester) (v : W32) : State :=
  if rfld v 0 3 ≥ 4 then badAccess s req Reg.FT_SRC_CTL else srcCtlApply s v

/-- The proportional-integral loop on one accepted sample `p`, in 2^-16 ns (R38). -/
def servoLoop (s : State) (p : Int) : State :=
  let kp := rdF s Reg.FT_SERVO_GAIN 0 5
  let ki := rdF s Reg.FT_SERVO_GAIN 8 5
  let acc := s.time.acc + p >>> ki
  let adj := acc + p >>> kp
  if adj > servoMax || adj < -servoMax then
    let entered := !s.time.inClamp
    let s := { s with time := { s.time with acc := clampRate acc, inClamp := true } }
    let s := if entered then raise s 0x104 [(1, b2n (adj < 0))] else s
    setRate s (clampRate adj)
  else
    setRate { s with time := { s.time with acc := acc, inClamp := false } } adj

/-- The lock state after an accepted sample (R39). -/
def lockUpdate (s : State) (p : Int) : State :=
  let good := p.natAbs < rdN s Reg.FT_LOCK_THRESH * 65536
  let run := if good then s.time.goodRun + 1 else 0
  let s := { s with time := { s.time with goodRun := run } }
  if ftState s = 1 && good && run ≥ 16 then setFtState s 2
  else if ftState s = 2 && !good then setFtState s 1
  else s

/-- A sample beyond FT_ALARM_THRESH is reported (R39). -/
def phaseAlarm (s : State) (p : Int) : State :=
  if rdN s Reg.FT_ALARM_THRESH ≠ 0 && p.natAbs > rdN s Reg.FT_ALARM_THRESH * 65536 then raise s 0x103 [(4, unsign 32 p)] else s

/-- A sample is accepted: the first one after a loss moves HOLDOVER to ACQUIRING and clears FT_HOLD_TIME (R40). -/
def sampleTaken (s : State) : State :=
  let s := { s with time := { s.time with lastSample := s.time.elapsed } }
  let s := if ftState s = 3 then setFtState { s with time := { s.time with goodRun := 0 } } 1 else s
  if rd64 s Reg.FT_HOLD_TIME_LO = 0 then s else wr64 s Reg.FT_HOLD_TIME_LO 0

/-- A phase sample of the selected source: the first after a step is discarded (R41), and raises no EV_FT_OFFSET_LARGE
(log entry 9). -/
def phaseSample (s : State) (p : Int) : State :=
  if s.time.discardNext then { s with time := { s.time with discardNext := false } }
  else phaseAlarm (lockUpdate (servoLoop (sampleTaken s) p) p) p

/-- The phase sample of a PPS_IN edge: the nearest whole second minus fabric time, in (-0.5 s, +0.5 s] (R35). -/
def ppsPhase (now : Nat) : Int :=
  let sec := 65536000000000
  let f := now % sec
  if 2 * f < sec then -(f : Int) else (sec : Int) - (f : Int)

/-! The meanings. -/

/-- PPS_IN_EDGE (R35, R56): the edge is captured; under source 2 it forms a sample. While TCLK_IN does not run within 100 ppm of
10 MHz, a lost source 2 has not returned (R40). -/
def execPpsInEdge (s : State) : Host.Outcome State Fault Refusal :=
  let p := ppsPhase s.time.now
  let s := wr64 s Reg.FT_PPS_IN_TS_LO (nowNs s)
  .next (if ftSrc s = 2 && (s.time.tclk = 0 || ftState s ≠ 3) then phaseSample { s with time := { s.time with lastEdge := s.time.elapsed } } p
    else s)

/-- PTM_EXCHANGE (R35, R56): under source 3, once FT_PTM_INTERVAL has passed, an exchange starts on the link, if it is up and
PTM is enabled on it. -/
def execPtmExchange (s : State) : Host.Outcome State Fault Refusal :=
  let iv := rdN s Reg.FT_PTM_INTERVAL
  if ftSrc s = 3 && iv ≠ 0 && !s.time.ptmBusy && s.time.ptmStart + iv * usUnits ≤ s.time.elapsed &&
      linkUp s (rdF s Reg.FT_SRC_CTL 8 4) && ptmEnabled s (rdF s Reg.FT_SRC_CTL 8 4) then
    let s := { s with time := { s.time with ptmBusy := true, ptmStart := s.time.elapsed } }
    .next (emit s (.linkMsg (rdF s Reg.FT_SRC_CTL 8 4) "PTM request" []))
  else .next s

/-- PTM_EXCHANGE_DONE (R35, R40): the master time in ns completes the exchange and forms a sample; without one the
exchange has failed, and the third failure in a row loses the source with cause 7. -/
def execPtmExchangeDone (master : Option Nat) (s : State) : Host.Outcome State Fault Refusal :=
  if ftSrc s = 3 && s.time.ptmBusy then
    match master with
    | some m =>
      let s := { s with time := { s.time with ptmBusy := false, ptmFails := 0 } }
      let ref : Int := ((m : Int) + signed 64 (rd64 s Reg.FT_PTM_OFFSET_LO)) * 65536
      .next (phaseSample s (ref - s.time.now))
    | none =>
      let n := s.time.ptmFails + 1
      let s := { s with time := { s.time with ptmBusy := false, ptmFails := n } }
      .next (if n ≥ 3 then sourceLost s 7 else s)
  else .next s

/-- SOURCE_LOST_TIMEOUT (R40, table of sources): under source 1 no accepted sample within FT_HOLD_TIMEOUT, under
source 2 no PPS_IN edge for 2.5 s of elapsed time. -/
def execSourceLostTimeout (s : State) : Host.Outcome State Fault Refusal :=
  let tmo := rdN s Reg.FT_HOLD_TIMEOUT
  if ftSrc s = 1 && tmo ≠ 0 && s.time.lastSample + tmo * usUnits ≤ s.time.elapsed then .next (sourceLost s 1)
  else if ftSrc s = 2 && s.time.lastEdge + 2500000 * usUnits ≤ s.time.elapsed then .next (sourceLost s 2)
  else .next s

/-- TCLK_IN_FAULT (table of sources, R692): TCLK_IN has stopped, or strays by more than 100 ppm, and source 2 is lost; or it runs as
it should again. -/
def execTclkInFault (state : ClockState) (s : State) : Host.Outcome State Fault Refusal :=
  .next (sourceCheck { s with time := { s.time with tclk := clockCause state } })

/-- PPS_OUT_RISE (R50): at a whole second of fabric time, with PPS_EN set and WIDTH not zero. With a WIDTH of a second or more
the next second restarts the pulse (log entry 9). TCLK_OUT has a rising edge here too. -/
def execPpsOutRise (s : State) : Host.Outcome State Fault Refusal :=
  let ctl := rd s Reg.FT_PPS_CTL
  let sec := nowNs s / 1000000000
  if rbit ctl 0 && rfld ctl 8 24 ≠ 0 && nowNs s % 1000000000 = 0 && s.time.ppsSecond ≠ some sec then
    let s := { s with time := { s.time with ppsHigh := true, ppsRise := s.time.elapsed, ppsSecond := some sec } }
    let s := drive s .ppsOut 0 true
    .next (if rbit ctl 1 then drive s .tclkOut 0 true else s)
  else .next s

/-- PPS_OUT_FALL (R50): WIDTH microseconds of elapsed time after the rising edge. -/
def execPpsOutFall (s : State) : Host.Outcome State Fault Refusal :=
  if s.time.ppsHigh && s.time.ppsRise + rdF s Reg.FT_PPS_CTL 8 24 * usUnits ≤ s.time.elapsed then
    .next (drive { s with time := { s.time with ppsHigh := false } } .ppsOut 0 false)
  else .next s

end Sys2Proof.Machine
end

