-- ==== Sys2Proof/Machine/Sheaf.lean ====
section
/-! DEFINITION. Machine/Sheaf.lean: sheaf commits, drains and rehearsals (chapter 10). -/

namespace Sys2Proof.Machine

/-! Rehearsal (R343, R348). -/

/-- A write of LD_RH_CTL that passed the gate: it starts or stops a rehearsal; while one runs, only EN can be written. -/
def rhCtlWrite (s : State) (v : W32) : State :=
  if rhRunning s then (if rbit v 0 then s else rhEnd s 1)
  else
    let s := plainWrite s Reg.LD_RH_CTL 0xFFFF00FE v
    if !rbit v 0 then s else
    let h := rdN s Reg.LD_RH_RING
    let ringOk := (List.range 16).any (fun r => tmBound s r && tmHandle s r == h && tmUse s r == 3) && (chanOf s h).any (fun c => c.2.slice == 0)
    match spareStair s with
    | some q =>
      if !ringOk then wrF s Reg.LD_RH_STATUS 8 8 STS_RH_BUSY.toNat else
      let s := wrN (wrF s Reg.LD_RH_CTL 0 1 1) Reg.LD_RH_STATUS (1 + sheafStaged s * 0x10000)
      let s := wrF (wrF s (Reg.STA_RET_STATUS q 0) 0 1 1) (Reg.STA_RET_STATUS q 1) 0 1 1
      let s := sheafUpd s (fun x => { x with live := [], rhCount := [] })
      raise s 0x7F3 [(4, rfld v 1 3), (4, rfld v 4 2), (4, sheafStaged s)]
    | none => wrF s Reg.LD_RH_STATUS 8 8 STS_RH_BUSY.toNat

/-- REHEARSAL_START (R343): a write of LD_RH_CTL with EN set. -/
def execRehearsalStart (req : Requester) (be : Nat) (v : W32) (s : State) : Host.Outcome State Fault Refusal :=
  .next (if rbit v 0 then gate s req be Reg.LD_RH_CTL false (fun s => rhCtlWrite s v) else s)

/-- REHEARSAL_STOP (R348): a write of LD_RH_CTL with EN clear. -/
def execRehearsalStop (req : Requester) (be : Nat) (v : W32) (s : State) : Host.Outcome State Fault Refusal :=
  .next (if rbit v 0 then s else gate s req be Reg.LD_RH_CTL false (fun s => rhCtlWrite s v))

/-! Commits (R318 to R323). -/

/-- The microcode banks of a flight at a commit (R371): they exchange when armed in every stair that serves or is spare. -/
def bankCommit (s : State) (fl sheaf : Nat) : State :=
  let stairs := loadStairs s
  let armed := stairs.filter (fun q => rdF s (Reg.STA_UC_BANK q fl) 1 1 == 1)
  if armed.isEmpty then s
  else if armed.length = stairs.length then
    let s := stairs.foldl (fun s q =>
      let r := Reg.STA_UC_BANK q fl
      let a := 1 - rdF s r 0 1
      raise (wrF (wrF s r 0 2 a) r 2 1 1) (stairSrc q 20) [(4, fl), (4, a), (4, sheaf)]) s
    sheafUpd s (fun x => { x with exchanged := x.exchanged ||| 2 ^ fl })
  else armed.foldl (fun s q => raise (wrF s (Reg.STA_UC_BANK q fl) 1 1 0) (stairSrc q 23) [(4, fl)]) s

/-- The parse banks at a commit (R250): each armed stair exchanges its own. -/
def parseCommit (s : State) (sheaf : Nat) : State :=
  (loadStairs s).foldl (fun s q =>
    let r := Reg.STA_PARSE_BANK q
    if rdF s r 1 1 = 0 then s else
    let a := 1 - rdF s r 0 1
    raise (wrF s r 0 2 a) (stairSrc q 0) [(4, a), (4, sheaf)]) s

/-- The commit takes effect (R318, R322). -/
def commitNow (s : State) (late : Bool) : State :=
  let old := sheafCur s
  let cur := sheafStaged s
  let timed := s.sheaf.timed
  let s := wrN (wrN s Reg.LD_SHEAF_CUR (cur + (cur + 1) % 0x10000 * 0x10000)) Reg.LD_SHEAF_DRAIN (old + 0x10000)
  let s := sheafUpd s (fun x => { x with pending := false, timed := false, late := false, since := elNs s, limited := false, expired := 0, exchanged := 0 })
  let s := parseCommit (bankCommit (bankCommit s 0 cur) 1 cur) cur
  let s := wr64 (wrF (rhEnd s 2) Reg.LD_SHEAF_CMD 2 1 0) Reg.LD_SHEAF_COMMIT_TIME_LO (nowNs s)
  raiseLate s 0x7F0 late [(4, cur), (4, b2n late), (4, b2n timed)]

/-- Nothing holds the pending commit any more (R318, R319). -/
def commitReady (s : State) : Bool :=
  s.sheaf.pending && !s.stairs.any (fun e => e.2.cmd.any (fun c => c.staged && c.early)) &&
  (!s.sheaf.timed || (rd64 s Reg.LD_SHEAF_AT_LO ≤ nowNs s && rdF s Reg.LD_SHEAF_DRAIN 16 1 == 0))

def commitLate (s : State) : Bool := s.sheaf.timed && (s.sheaf.late || rd64 s Reg.LD_SHEAF_AT_LO < s.sheaf.freed)

/-- SHEAF_COMMIT_EFFECT (R322). -/
def execSheafCommitEffect (s : State) : Host.Outcome State Fault Refusal :=
  .next (if commitReady s then
    let late := commitLate s
    commitNow (if late then lateFiring s else s) late
  else s)

def sheafRefuse (s : State) (sts : Byte) : State := wrF (wrF s Reg.LD_SHEAF_CMD 3 1 1) Reg.LD_SHEAF_CMD 4 8 sts.toNat

/-- A COMMIT is asked for (R318 to R320). -/
def commitAsk (s : State) (timed : Bool) : State :=
  if s.sheaf.pending then sheafRefuse s STS_SHEAF_PENDING
  else if !timed && rdF s Reg.LD_SHEAF_DRAIN 16 1 = 1 then sheafRefuse s STS_SHEAF_DRAINING
  else if s.sheaf.sweeps.any (fun o => sub16 (sheafStaged s + 1) o ≥ 1024) then sheafRefuse s STS_SHEAF_SWEEP
  else
    let t := rd64 s Reg.LD_SHEAF_AT_LO
    let s := sheafUpd s (fun x => { x with pending := true, timed := timed, late := timed && (t == 0 || decide (t < nowNs s)) })
    let s := { s with stairs := amap s.stairs (fun _ x => { x with cmd := x.cmd.map (fun c => { c with early := true }) }) }
    wrF (wrF s Reg.LD_SHEAF_CMD 2 1 1) Reg.LD_SHEAF_CMD 4 8 0

/-- CANCEL (R319). -/
def commitCancel (s : State) : State :=
  if s.sheaf.pending && s.sheaf.timed then
    wrF (sheafUpd s (fun x => { x with pending := false, timed := false, late := false })) Reg.LD_SHEAF_CMD 2 1 0
  else s

/-- An entry without what an uncommitted staged change did to it; none where the entry itself is staged (R323). -/
def unstageEntry (staged : Nat) (e : TEntry) : Option TEntry :=
  if !e.always && e.born = staged then none
  else some (if e.retSet && e.retired = staged then { e with retSet := false, retired := 0 } else e)

/-- UNSTAGE (R323). -/
def unstage (s : State) : State :=
  if s.sheaf.pending then sheafRefuse s STS_SHEAF_PENDING else
  let g := sheafStaged s
  let clean (m : AMap TEntry) : AMap TEntry := m.filterMap (fun (e : Nat × TEntry) => (unstageEntry g e.2).map (fun y => (e.1, y)))
  { s with stairs := amap s.stairs (fun _ x => { x with tbls := amap x.tbls (fun _ m => clean m), shadow := amap x.shadow (fun _ m => clean m) }),
           lpm := s.lpm.filterMap (fun (e : Nat × (Nat × TEntry)) => (unstageEntry g e.2.2).map (fun y => (e.1, (e.2.1, y)))) }

/-- A write of LD_SHEAF_CMD that passed the gate: CANCEL, UNSTAGE and COMMIT in this order. -/
def sheafCmdWrite (s : State) (v : W32) : State :=
  let s := plainWrite (if rbit v 3 then wrF s Reg.LD_SHEAF_CMD 3 1 0 else s) Reg.LD_SHEAF_CMD 2 v
  let s := if rbit v 12 then commitCancel s else s
  let s := if rbit v 13 then unstage s else s
  if rbit v 0 then commitAsk s (rbit v 1) else s

/-- The row of a write of LD_SHEAF_CMD that a condition on its value selects. -/
def sheafCmdRow (ok : Bool) (req : Requester) (be : Nat) (v : W32) (s : State) : State :=
  if ok then gate s req be Reg.LD_SHEAF_CMD false (fun s => sheafCmdWrite s v) else s

/-- SHEAF_COMMIT (R318). -/
def execSheafCommit (req : Requester) (be : Nat) (v : W32) (s : State) : Host.Outcome State Fault Refusal := .next (sheafCmdRow (rbit v 0 && !rbit v 1) req be v s)
/-- SHEAF_COMMIT_AT (R319). -/
def execSheafCommitAt (req : Requester) (be : Nat) (v : W32) (s : State) : Host.Outcome State Fault Refusal := .next (sheafCmdRow (rbit v 0 && rbit v 1) req be v s)
/-- SHEAF_CANCEL (R319). -/
def execSheafCancel (req : Requester) (be : Nat) (v : W32) (s : State) : Host.Outcome State Fault Refusal := .next (sheafCmdRow (rbit v 12) req be v s)
/-- SHEAF_UNSTAGE (R323). -/
def execSheafUnstage (req : Requester) (be : Nat) (v : W32) (s : State) : Host.Outcome State Fault Refusal := .next (sheafCmdRow (rbit v 13) req be v s)

/-! Drains (R324, R325). -/

/-- SHEAF_DRAIN (R324): the last packet of the old sheaf is gone. -/
def execSheafDrain (s : State) : Host.Outcome State Fault Refusal :=
  .next (match draining s with
    | some old =>
      if oldCount s ≠ 0 then s else
      let s := wrF s Reg.LD_SHEAF_DRAIN 16 1 0
      let s := (List.range 9).foldl (fun s q => [0, 1].foldl (fun s fl => wrF s (Reg.STA_UC_BANK q fl) 2 1 0) s) s
      let s := raise s 0x7F1 [(4, old), (4, elNs s - s.sheaf.since)]
      let s := if s.sheaf.expired = 0 then s else raise s 0x7F2 [(4, old), (4, s.sheaf.expired)]
      let sweeps := s.sheaf.sweeps ++ [old]
      let s := sheafUpd s (fun x => { x with sweeps := sweeps, exchanged := 0, limited := false, expired := 0, freed := nowNs s })
      wrN s Reg.LD_SHEAF_SWEEP (sweeps.headD 0 + 0x10000)
    | none => s)

/-- SHEAF_DRAIN_LIMIT (R325): what waits of the old sheaf is dropped, and what would wait from now on. -/
def execSheafDrainLimit (s : State) : Host.Outcome State Fault Refusal :=
  .next (
    let lim := rdN s Reg.LD_SHEAF_LIMIT
    if (draining s).isNone || lim = 0 || s.sheaf.limited || elNs s < s.sheaf.since + lim * 1000 then s else
    let s := sheafUpd s (fun x => { x with limited := true })
    let gone := s.land.hall.filter (fun x => isOld s x.pkt.md)
    let again := s.land.entry.flatMap (fun (e : Nat × EntryQ) => (e.2.again.filter (fun k => isOld s k.md)).map (fun k => (e.1 % 2, k)))
    let s := { s with land := { s.land with hall := s.land.hall.filter (fun x => !isOld s x.pkt.md),
                                            entry := amap s.land.entry (fun _ e => { e with again := e.again.filter (fun k => !isOld s k.md) }) } }
    again.foldl (fun s (k : Nat × Pkt) => expirePkt s k.1 k.2) (gone.foldl (fun s x => expirePkt s x.flight x.pkt) s))

end Sys2Proof.Machine
end

