-- ==== Sys2Proof/Machine/RingOps.lean ====
section
/-! DEFINITION. Machine/RingOps.lean: shared operations of the ring engine (chapter 6): pages, samples, the fetch and the
submission of entries, the frames of transmit entries, and what stalls and restarts a function's channels (R115, R116). -/

namespace Sys2Proof.Machine

/-! Pages. -/

/-- The link number of a slice's function; `noLink` stands for tiller memory. -/
def linkNo (x : Slice) : Nat := x.link.getD noLink

/-- The slice whose range holds a gallery page of a function (R178). -/
def pageOwner (s : State) (link fnum page : Nat) : Option (Nat × Slice) :=
  s.slices.find? (fun e => linkNo e.2 == link && e.2.fnum == fnum && e.2.page0 ≤ page && page < e.2.page0 + e.2.pages)

/-- Channels of a page, by index. -/
def pageChans (s : State) (link fnum page : Nat) : List Nat :=
  match pageOwner s link fnum page with
  | some (n, _) => (s.ch.chans.filter (fun e => e.2.slice == n && e.2.page == page)).map (fun e => e.1)
  | none => []

/-- The channel in a slot of a page. -/
def slotChan (s : State) (link fnum page slot : Nat) : Option (Nat × Chan) :=
  match pageOwner s link fnum page with
  | some (n, _) => s.ch.chans.find? (fun e => e.2.slice == n && e.2.page == page && e.2.slot == slot)
  | none => none

/-- The function's memory space answers: it is enabled, in D0, with Memory Space Enable set, and BAR2/3 holds the page
(R100, R102, R212). Tiller memory always answers. -/
def pageDecodes (s : State) (link fnum page : Nat) : Bool :=
  if link = noLink then true else
  fnDecodes s link fnum && (page + 1) * 4096 + 0x40000 ≤ 2 ^ bar2Log s link fnum

/-- A function's BAR access that is not decoded is answered Unsupported Request; a write is dropped (R128). -/
def urIn (s : State) (link : Nat) : State := if link = noLink then s else bump s (hfLink link + 0x20)

/-- A write of the register at offset `x` of a gallery page that decodes: with a byte enable clear it is dropped with BAD_ACCESS,
and its offset in BAR2/3 is recorded (R63, R689). -/
def onPage (s : State) (link fnum page be x : Nat) (f : State → State) : State :=
  if !pageDecodes s link fnum page then urIn s link
  else if be ≠ 15 then badAccess s (.fn link fnum) (0x40000 + 0x1000 * page + x) else f s

/-- The key of PAGE_DB_EMPTY. -/
def dbKey (link fnum page : Nat) : Nat := (link * 256 + fnum) * 65536 + page

/-- The doorbell of a page is processed (R180): every software-produced channel that is ACTIVE, DISABLED or STALLED is sampled. -/
def ringPage (s : State) (link fnum page : Nat) : State :=
  match pageOwner s link fnum page with
  | none => s
  | some (_, x) =>
    if x.state = 2 then s else
    let r := (pageChans s link fnum page).foldl (fun (a : State × Bool) i =>
      match chanGet a.1 i with
      | some c => if devProduced c || c.state = 4 then a else
        let p := samplePidx a.1 i
        (p.1, a.2 || p.2)
      | none => a) (s, false)
    if r.2 then r.1
    else { s with ch := { s.ch with dbEmpty := aset s.ch.dbEmpty (dbKey link fnum page) ((agetD s.ch.dbEmpty (dbKey link fnum page) 0 + 1) % 2 ^ 32) } }

/-! Fetching (R182, R183, R478). -/

/-- The index of the oldest entry of a channel whose work is unfinished. -/
def oldestOpen (c : Chan) : Nat := ((c.ents.find? (fun e => e.result.isNone)).map (fun e => e.idx)).getD c.cidx

/-- Unfinished READs of a queue pair, started or only fetched. -/
def openReads (c : Chan) : Nat := (c.ents.filter (fun e => e.result.isNone && leAt e.desc 0 1 == 0x34)).length

/-- Work requests fetched and not yet complete, device-wide. -/
def openWorks (s : State) : Nat :=
  (s.ch.chans.map (fun e => if e.2.kind = 4 then e.2.ents.length + e.2.fetching else 0)).foldl (· + ·) 0

/-- How many entries a channel may fetch in one read now: what is announced, PREFETCH, the end of the ring, eight at most,
and the slots its completion ring can still reserve. -/
def fetchRoom (s : State) (c : Chan) : Nat :=
  match chanOf s c.bind with
  | none => 0
  | some (_, q) =>
    let nxt := add32 c.cidx c.fetching
    let ahead := sub32 nxt (oldestOpen c)
    let free := q.size - sub32 q.pidx q.cidx - q.reserved
    if q.state = 4 then 0 else
    min (min (sub32 c.sampled nxt) (c.prefetch - ahead)) (min (min (c.size - nxt % c.size) 8) free)

/-- A channel may fetch: ACTIVE, of a slice that is ACTIVE and not freezing, whose function may issue requests. A queue pair
fetches in RTS within the limits of R478. -/
def mayFetch (s : State) (i : Nat) (c : Chan) : Bool :=
  !devProduced c && c.state = 1 && c.draining = 0 && (aget s.slices c.slice).any (fun x => x.state == 1 && x.freeze.isNone) &&
  sliceLive s c.slice &&
  (c.kind ≠ 4 || ((qpGet s i).any (fun q => q.tstate == 3) && openReads c < 64 && openWorks s < 1048576))

/-- A read under a slice's binding: of host memory, or at once of tiller memory. -/
def sliceRead (s : State) (sl addr len attr : Nat) (work : Work) : State :=
  match aget s.slices sl with
  | none => s
  | some x =>
    match x.link with
    | some l => startRead s l x.fnum x.pasid addr len (readAttr attr) work
    | none =>
      let id := s.host.nextRead
      let bs := match tilFetch s addr len with | .ok b => b | .failed _ => []
      let sts := match tilFetch s addr len with | .ok _ => none | .failed e => some e
      let r : HRead := { work := work, link := noLink, fnum := 0, pasid := none, addr := addr, data := bs, left := 0, failed := sts }
      { s with host := { s.host with reads := aset s.host.reads id r, nextRead := id + 1 } }

/-- A read of ring entries is issued. -/
def fetchEnts (s : State) (i : Nat) : State :=
  match chanGet s i with
  | none => s
  | some c =>
    if !mayFetch s i c then s else
    let n := fetchRoom s c
    if n = 0 then s else
    let t := if c.kind = 4 then qpTouch s i else (s, true)
    if !t.2 then t.1 else
    let f := add32 c.cidx c.fetching
    let s := chanUpd t.1 i (fun c => { c with fetching := c.fetching + n })
    let s := match chanOf s c.bind with
      | some (q, _) => chanUpd s q (fun d => { d with reserved := d.reserved + n })
      | none => s
    sliceRead s c.slice (c.base + 64 * (f % c.size)) (64 * n) 0 (.desc i f n)

/-! Submission (R186 to R189, R477). -/

/-- A descriptor's opcode is one that its kind accepts. -/
def opOk (kind op : Nat) : Bool :=
  match kind with
  | 2 => op == 0x10
  | 3 => op == 0x20
  | 4 => 0x30 ≤ op && op ≤ 0x34
  | 5 => op == 0x38
  | 8 => 0x40 ≤ op && op ≤ 0x43
  | _ => false

/-- One element: address, length, key. -/
def elemAt (bs : List Byte) (o : Nat) : Nat × Nat × Nat := (leAt bs o 8, leAt bs (o + 8) 4, leAt bs (o + 12) 4)

def descInd (d : List Byte) : Bool := (leAt d 0 4).testBit 12
def descNgather (d : List Byte) : Nat := fld (leAt d 0 4) 8 4

/-- The elements that a descriptor holds itself. -/
def descElems (d : List Byte) : List (Nat × Nat × Nat) :=
  if descNgather d = 2 then [elemAt d 0x20, elemAt d 0x30] else [elemAt d 0x20]

/-- A total length is out of range for its kind: ETH_TX 14 to 16,128, ETH_RX not zero, QP at most 2^31. -/
def lenBad (kind n : Nat) : Bool :=
  match kind with
  | 2 => n < 14 || 16128 < n
  | 3 => n == 0
  | 4 => n > 2 ^ 31
  | _ => false

/-- A field that its kind marks zero is not zero. -/
def zeroBad (kind : Nat) (d : List Byte) : Bool :=
  let op := leAt d 0 1
  fld (leAt d 0 4) 25 7 ≠ 0 ||
  (match kind with
   | 2 => leAt d 4 4 ≠ 0 || leAt d 0x18 8 ≠ 0
   | 3 => leAt d 4 4 ≠ 0 || leAt d 0x10 16 ≠ 0
   | 4 => (op ≠ 0x31 && op ≠ 0x33 && leAt d 4 4 ≠ 0) || leAt d 0x1C 4 ≠ 0
   | 5 => leAt d 4 4 ≠ 0 || leAt d 0x10 16 ≠ 0
   | _ => (op == 0x41 && leAt d 0x1C 4 ≠ 0) || (op == 0x40 && leAt d 0x10 16 ≠ 0))

/-- A kind whose elements carry no region key. -/
def keyless (kind : Nat) : Bool := kind ≠ 4 && kind ≠ 5

/-- The check of an element list once it is known: its total, and the keys that must be zero. -/
def elemsBad (kind : Nat) (es : List (Nat × Nat × Nat)) : Option Byte :=
  if lenBad kind (elemsLen es) then some STS_LEN_RANGE
  else if keyless kind && es.any (fun e => e.2.2 ≠ 0) then some STS_BAD_DESC else none

/-- The status with which a descriptor fails at submission, in the order of R188; none when it passes. -/
def descBad (kind : Nat) (d : List Byte) : Option Byte :=
  let n := descNgather d
  if !opOk kind (leAt d 0 1) then some STS_BAD_DESC
  else if n = 0 || n > 2 || (kind = 8 && (n ≠ 2 || descInd d)) || (descInd d && (n ≠ 1 || leAt d 0x28 4 = 0 || leAt d 0x28 4 > 64)) then some STS_GATHER_COUNT
  else if descInd d && leAt d 0x20 8 % 16 ≠ 0 then some STS_ALIGN
  else if !descInd d && kind ≠ 8 && lenBad kind (elemsLen (descElems d)) then some STS_LEN_RANGE
  else if zeroBad kind d || (descInd d && leAt d 0x2C 4 ≠ 0) then some STS_BAD_DESC
  else if !descInd d && keyless kind && (descElems d).any (fun e => e.2.2 ≠ 0) then some STS_BAD_DESC
  else none

/-- An entry fails: its channel goes on with the next one, but a queue pair enters ERROR (R188, R477). -/
def entFail (s : State) (i idx : Nat) (sts : Byte) : State :=
  match chanGet s i with
  | some c =>
    if c.kind = 4 then qpError s i sts (some idx) true
    else match c.ents.find? (fun e => e.idx == idx) with
      | some e => finishEnt s i idx (stsCpl i c e sts)
      | none => s
  | none => s

/-- Changes one entry of a channel. -/
def entUpd (s : State) (i idx : Nat) (f : Ent → Ent) : State :=
  chanUpd s i (fun c => { c with ents := c.ents.map (fun e => if e.idx = idx then f e else e) })

def entOf (s : State) (i idx : Nat) : Option (Chan × Ent) :=
  (chanGet s i).bind (fun c => (c.ents.find? (fun e => e.idx == idx)).map (fun e => (c, e)))

/-- Grains are free for a device source: the reserve stays after the taking (R391). -/
def grainsFree (s : State) (n : Nat) : Bool := decide (rdN s Reg.LD_FREE > rdF s Reg.LD_ARR_RSV 0 21 + n)

/-- The stair of a transmitted frame: the flow hash of its headers over stairs 0 to 7 (R9, R265). -/
def hashStair (b : List Byte) : Nat := flowHash b / 2 ^ 29

/-- A transmit frame whose payload is complete takes its grains and waits for its flight, or waits for grains (R391). -/
def txEnter (s : State) (i idx : Nat) : State :=
  match entOf s i idx with
  | none => s
  | some (c, e) =>
    if e.result.isSome || e.pkt.isSome then s else
    let n := grainsOf e.buf.length
    if !grainsFree s n then
      if e.hold then s else bump (entUpd s i idx (fun e => { e with hold := true })) Reg.LD_HOST_WAIT_CNT
    else
      let src := if (aget s.slices c.slice).any (fun x => x.link.isNone) then 34 else 32
      let r := newPkt (takeGrains s n) e.buf (mdNew 0 0 src c.slice)
      let k : Pkt := { r.2 with origin := some (chanHandle i c, idx) }
      enterOther (entUpd r.1 i idx (fun e => { e with hold := false, pkt := some k.id })) (hashStair e.buf) 0 k

/-- A piece of payload has arrived whole: placed, and with the last of them the frame is complete (R105). -/
def payloadArrived (s : State) (i idx pos : Nat) (data : List Byte) : State :=
  match entOf s i idx with
  | none => s
  | some (_, e) =>
    if e.result.isSome then s else
    let s := entUpd s i idx (fun e => { e with buf := patch e.buf pos data, waits := e.waits - 1 })
    if e.waits ≤ 1 then txEnter s i idx else s

/-- The payload elements of a frame with their places: position, address, length. -/
def payPieces (es : List (Nat × Nat × Nat)) : List (Nat × Nat × Nat) :=
  (es.foldl (fun (a : Nat × List (Nat × Nat × Nat)) e => (a.1 + e.2.1, if e.2.1 = 0 then a.2 else a.2 ++ [(a.1, e.1, e.2.1)])) (0, [])).2

/-- The reads of a frame's payload start; tiller memory answers at once. -/
def startPayload (s : State) (i idx : Nat) (c : Chan) (es : List (Nat × Nat × Nat)) : State :=
  let ps := payPieces es
  let s := entUpd s i idx (fun e => { e with buf := List.replicate (elemsLen es) 0, waits := ps.length })
  let til := (aget s.slices c.slice).any (fun x => x.link.isNone)
  let attr := ((entOf s i idx).map (fun x => descAttr s c.slice x.2.desc (boundVec s c))).getD 0
  ps.foldl (fun s p =>
    if til then
      match tilFetch s p.2.1 p.2.2 with
      | .ok b => payloadArrived s i idx p.1 b
      | .failed e => entFail s i idx e
    else sliceRead s c.slice p.2.1 p.2.2 attr (.payload i idx p.1)) s

/-- The elements of an entry are known: they are checked where they came from a list, kept, and a frame's payload is read. -/
def elemsKnown (s : State) (i idx : Nat) (es : List (Nat × Nat × Nat)) : State :=
  match entOf s i idx with
  | none => s
  | some (c, e) =>
    if e.result.isSome then s else
    match elemsBad c.kind es with
    | some sts => entFail s i idx sts
    | none =>
      let s := entUpd s i idx (fun e => { e with elems := es, waits := 0 })
      if c.kind = 2 then startPayload s i idx c es else s

/-- The elements of a list in memory (R187). -/
def listElems (bs : List Byte) : List (Nat × Nat × Nat) := (List.range (bs.length / 16)).map (fun k => elemAt bs (16 * k))

/-- A checked entry starts: its list is read, its elements are used, or its cipher request goes to an engine (R189). -/
def entStart (s : State) (i idx : Nat) : State :=
  match entOf s i idx with
  | none => s
  | some (c, e) =>
    let d := e.desc
    if c.kind = 8 then
      laStart (entUpd s i idx (fun e => { e with begun := true })) c.slice (leAt d 0 1) (leAt d 4 2) (leAt d 6 2) (leAt d 0x28 4)
        (leAt d 0x20 8) (leAt d 0x30 8) (some (leAt d 0x38 4)) (slice d 0x10 16) 0 (.chan i idx)
    else if descInd d then
      let n := 16 * leAt d 0x28 4
      match (aget s.slices c.slice).bind (fun x => x.link) with
      | some _ => sliceRead (entUpd s i idx (fun e => { e with waits := 1 })) c.slice (leAt d 0x20 8) n 0 (.gather i idx)
      | none => match tilFetch s (leAt d 0x20 8) n with
        | .ok b => elemsKnown s i idx (listElems b)
        | .failed sts => entFail s i idx sts
    else elemsKnown s i idx (descElems d)

/-- Admin opcodes that the chapters assign (R204). -/
def adminKnown (op : Nat) : Bool :=
  op ≤ 8 || (0x40 ≤ op && op ≤ 0x45) || (0x48 ≤ op && op ≤ 0x4A) || (0x4C ≤ op && op ≤ 0x4F) || (0x80 ≤ op && op ≤ 0x86) ||
  (0xA0 ≤ op && op ≤ 0xA2) || (0xA4 ≤ op && op ≤ 0xAD) || (0xC0 ≤ op && op ≤ 0xC6)

/-- A departure entry is due for a descriptor: ETH_TX with a departure time (R52). -/
def departs (kind : Nat) (d : List Byte) : Bool := kind == 2 && leAt d 0x10 8 ≠ 0

/-- A departure entry is taken: FT_DEP_USED, its mark, and EV_FT_DEP_FULL when none is left (R56, R58). -/
def depTake (s : State) : State :=
  let n := rdN s Reg.FT_DEP_USED + 1
  let s := wrN s Reg.FT_DEP_USED n
  let s := if rdN s Reg.FT_DEP_HWM < n then wrN s Reg.FT_DEP_HWM n else s
  if n = 1048576 then raise s 0x107 [] else s

/-- A fetched entry is taken into its channel: the consumer index and its mirror, the departure entry, then its submission. -/
def entTake (s : State) (i : Nat) (c : Chan) (d : List Byte) : State :=
  let dep := departs c.kind d && leAt d 0 1 == 0x10
  let e : Ent := { idx := c.cidx, desc := d, dep := dep, late := dep && leAt d 0x10 8 < nowNs s }
  let c' := { c with cidx := add32 c.cidx 1, fetching := c.fetching - 1, entries := (c.entries + 1) % 2 ^ 64, ents := c.ents ++ [e] }
  let s := mirrorWrite (chanSet s i c') i
  let s := if dep then depTake s else s
  if c.kind = 1 then
    if adminKnown (leAt d 0 1) then s
    else finishEnt s i c.cidx (stsCpl i c e (if deviceReady s then STS_INVALID_OPCODE else STS_NOT_READY) |> fun p => { p with handle := 0 })
  else match descBad c.kind d with
    | some sts => entFail s i c.cidx sts
    | none => entStart s i c.cidx

/-- The next entry of a completed ring read is taken; a failed read puts the channel in ERROR (R188). -/
def descArrive (s : State) (id : Nat) : State :=
  match aget s.host.reads id with
  | none => s
  | some r =>
    match r.work with
    | .desc i first n =>
      let drop (s : State) : State := { s with host := { s.host with reads := adel s.host.reads id } }
      match chanGet s i with
      | none => drop s
      | some c =>
        if first ≠ c.cidx then s else
        match r.failed with
        | some sts =>
          if c.kind = 4 then qpError (drop s) i sts none true else chanError (drop s) i sts
        | none =>
          if r.left ≠ 0 then s else
          let d := slice r.data 0 64
          if departs c.kind d && rdN s Reg.FT_DEP_USED ≥ 1048576 then s else
          let s := if n ≤ 1 then drop s
            else { s with host := { s.host with reads := aset s.host.reads id { r with work := .desc i (add32 first 1) (n - 1), data := r.data.drop 64 } } }
          entTake s i c d
    | _ => s

/-! Samples and notifications after a change of state. -/

/-- A channel's fetched receive buffers that hold no packet complete with STS_FLUSHED; `keep` of them stay for packets that
are on their way (R198). -/
def flushIdle (s : State) (i : Nat) : State :=
  match chanGet s i with
  | none => s
  | some c =>
    if c.kind ≠ 3 && c.kind ≠ 5 then s else
    let keep := if c.kind = 3 then dispatched s (chanHandle i c) else 0
    ((idleEnts c).drop keep).foldl (fun s e => finishEnt s i e.idx (stsCpl i c e STS_FLUSHED)) s

/-- Ring reads under way bring nothing any more: their entries stay with software, and the reservations are given back. -/
def fetchCut (s : State) (i : Nat) : State :=
  match chanGet s i with
  | some c => chanUpd (dropReads (cqRelease s c.bind c.fetching) i false) i (fun c => { c with fetching := 0 })
  | none => s

/-- An event ring that may be written again takes the notifications that wait for it (R195). -/
def ringBack (s : State) (i : Nat) : State :=
  match chanGet s i with
  | some c => if c.kind = 7 then ringFlush (c.notes.length + 2) s i else s
  | none => s

/-- DISABLE (R198): fetching stops before the next entry whose read has not completed. A channel in ERROR stays there (R200). -/
def chanDisable (s : State) (i : Nat) : State :=
  if (chanGet s i).any (fun c => c.state == 4) then s else
  idleCheck (chanState (flushIdle (fetchCut s i) i) i 2) i

/-- ENABLE: PIDX is sampled as a doorbell would. -/
def chanEnable (s : State) (i : Nat) : State :=
  match chanGet s i with
  | some c => if c.state = 4 then s else ringBack (samplePidx (chanState s i 1) i).1 i
  | none => s

/-! Bus Master Enable (R115 to R117, R201). -/

/-- The channels of a function's slices. -/
def fnChans (s : State) (link fnum : Nat) : List Nat :=
  (s.ch.chans.filter (fun e => (aget s.slices e.2.slice).any (fun x => x.link == some link && x.fnum == fnum))).map (fun e => e.1)

/-- The function issues no more requests: completions of its reads are discarded, and its channels stall. -/
def fnStall (s : State) (link fnum : Nat) : State :=
  let mine (r : HRead) : Bool := r.link == link && r.fnum == fnum && (r.left ≠ 0)
  let s := readsCut s mine (fun r => { r with discard := true })
  (fnChans s link fnum).foldl (fun s i =>
    match chanGet s i with
    | some c =>
      if c.state = 3 || c.state = 4 then s else
      chanState (chanUpd (fetchCut s i) i (fun c => { c with before := c.state })) i 3
    | none => s) s

/-- An entry whose reads were discarded starts again from its beginning (R116). -/
def entRestart (s : State) (i : Nat) (e : Ent) : State :=
  if e.result.isNone && !e.begun && e.pkt.isNone && e.waits ≠ 0 then entStart s i e.idx else s

/-- A command that was held while its channel was STALLED takes effect (R201). -/
def heldRun (s : State) (i : Nat) (h : HeldCmd) : State :=
  match h with
  | 0 => chanDisable s i
  | 1 => chanEnable s i
  | _ => resetChan s i 1

/-- The function may issue requests again: its reads and packets go on, its channels return to their earlier state, what they
held takes effect, also where a sample has put one in ERROR meanwhile (R201), and its event rings take what waited for them. -/
def fnResume (s : State) (link fnum : Nat) : State :=
  let s := (fnChans s link fnum).foldl (fun s i =>
    match chanGet s i with
    | some c =>
      let s := chanUpd s i (fun c => { c with held := [] })
      let s := if c.state ≠ 3 then s else
        c.ents.foldl (fun s e => entRestart s i e) (samplePidx (chanState s i c.before) i).1
      c.held.foldl (fun s h => heldRun s i h) s
    | none => s) s
  let s := (fnChans s link fnum).foldl (fun s i => ringBack s i) s
  let mine (k : Pkt) : Bool := (chanOf s k.dst).any (fun e => (aget s.slices e.2.slice).any (fun x => x.link == some link && x.fnum == fnum))
  let ks := s.land.stuck.filter mine
  let s := { s with land := { s.land with stuck := s.land.stuck.filter (fun k => !mine k) } }
  let s := ks.foldl (fun s k => toHost s k STS_OK) s
  issueReads (releasePending s link fnum) link

/-- Packets of a slice at the write engine are dropped (R227, step 3). -/
def stuckDrop (s : State) (sl : Nat) : State :=
  let mine (k : Pkt) : Bool := (chanOf s k.dst).any (fun e => e.2.slice == sl)
  let ks := s.land.stuck.filter mine
  ks.foldl (fun s k => endAt s 1 k) { s with land := { s.land with stuck := s.land.stuck.filter (fun k => !mine k) } }

/-- The entry at the head of a channel is complete: written in order, and the drain of a reset goes on (R177, R199). -/
def completeHead (s : State) (i : Nat) : State :=
  match chanGet s i with
  | none => s
  | some c =>
    let dead := (aget s.slices c.slice).any (fun x => x.state == 2)
    if dead || !sliceLive s c.slice then s
    else drainCheck (writeHead s i) i

end Sys2Proof.Machine
end

