-- ==== Sys2Proof/Machine/OzOps.lean ====
section
/-! DEFINITION. Machine/OzOps.lean: shared operations of Ozelm (chapter 20): its running state, the flash's boot state and
images, the update session over its three routes, restarts and debug scopes. -/

namespace Sys2Proof.Machine

def ozUpd (s : State) (f : OzSt → OzSt) : State := { s with oz := f s.oz }

/-- OZ_STATUS.RUNNING. -/
def ozRunning (s : State) : Bool := rdF s Reg.OZ_STATUS 0 1 == 1

/-- The supply thresholds (R643): of each rail its first monitor, how many monitors it has, and the warning, clear and reset levels in
mV. Rails 0 to 6 are VDD_CORE, VDD_SRAM, VDD_SERDES, VDDH_SERDES, VDDQ_GM, VDD_IO and VDD_AON. -/
def railTable : List (Nat × Nat × Nat × Nat × Nat) :=
  [(0, 12, 700, 712, 660), (12, 6, 747, 759, 704), (18, 4, 700, 712, 660), (22, 2, 1120, 1139, 1056), (24, 4, 1120, 1139, 1056),
   (28, 2, 1680, 1709, 1584), (30, 2, 747, 759, 704)]

def railFirst (rail : Nat) : Nat := (railTable[rail]?.getD (0, 0, 0, 0, 0)).1
def railCount (rail : Nat) : Nat := (railTable[rail]?.getD (0, 0, 0, 0, 0)).2.1
def railWarn (rail : Nat) : Nat := (railTable[rail]?.getD (0, 0, 0, 0, 0)).2.2.1
def railClear (rail : Nat) : Nat := (railTable[rail]?.getD (0, 0, 0, 0, 0)).2.2.2.1
def railReset (rail : Nat) : Nat := (railTable[rail]?.getD (0, 0, 0, 0, 0)).2.2.2.2

/-- The lowest reading among a rail's monitors, in mV. -/
def railLow (mvs : List Nat) : Nat := mvs.foldl min 0xFFFF

/-- Readings of the monitors from `j` on: each keeps its lowest since its word was last read (R642). -/
def noteLows (s : State) (j : Nat) (mvs : List Nat) : State :=
  let low := (List.range mvs.length).foldl (fun m k => aset m (j + k) (min (agetD m (j + k) 0xFFFF) ((mvs[k]?).getD 0xFFFF))) s.acc.lows
  { s with acc := { s.acc with lows := low } }

/-- A dip or the unstable-supply state holds (R647). -/
def unsteady (s : State) : Bool := !s.oz.dips.isEmpty || rdF s Reg.OZ_STATUS 4 1 == 1

/-- Flash writes are deferred: until 100 us after the last rail has left dip, and in the unstable-supply state (R644, R645). -/
def deferral (s : State) : Bool := unsteady s || s.oz.left.isSome

/-! The board configuration record (R651). -/

/-- A copy of the record passes its MAGIC and CRC. -/
def bcrGood (bs : List Byte) : Bool := leAt bs 0 4 == 0x43425A47 && leAt bs 0xFFC 4 == crc32c (fit 0xFFC bs)

/-- The record that a cold reset finds: copy 0, or copy 1, or none. -/
def bcrFind (s : State) : Option (List Byte) :=
  let a := flashGet s 0 4096
  let b := flashGet s 0x1000 4096
  if bcrGood a then some a else if bcrGood b then some b else none

def bcrOwner (s : State) : Nat := match bcrInUse s with | some b => leAt b 8 1 | none => 0
/-- The PMBus address of a rail's regulator; 0 none. -/
def bcrPmb (s : State) (rail : Nat) : Nat := match bcrInUse s with | some b => leAt b (0x10 + rail) 1 | none => 0

/-! Images (R652, R653). -/

def slotBytes : Nat := 31457280

/-- The slot that boots, and the other. -/
def activeSlot (s : State) : Nat := fld (bootState s) 0 1
def otherSlot (s : State) : Nat := 1 - activeSlot s
def bootPending (s : State) : Bool := (bootState s).testBit 1

/-- Writes both copies of the boot state. -/
def bootWrite (s : State) (active pending tried : Nat) : State :=
  let w := le 4 (active + 2 * pending + 4 * tried)
  let bs := w ++ le 4 (crc32c w)
  flashPut (flashPut s 0x2000 bs) 0x3000 bs

def imgSvn (s : State) (slot : Nat) : Nat := leAt (flashGet s (slotAddr slot + 0x18) 2) 0 2

/-- The section rules of R652. -/
def sectionsOk (total : Nat) (ds : List (Nat × Nat × Nat × Nat)) : Bool :=
  let count (t : Nat) : Nat := (ds.filter (fun d => d.1 == t)).length
  count 1 == 1 && count 3 == 1 && count 4 == 1 && count 5 == 1 &&
  ds.all (fun d => match d with
    | (ty, off, len, load) => 1 ≤ ty && ty ≤ 5 && off % 4096 == 0 && 0x1000 ≤ off && off + len ≤ total &&
      (ty ≠ 1 || len ≤ 1572864) && (ty < 3 || load == 0))

/-- The first part of R653 that a slot fails, in its order, where the hashes of the sections that `sel` takes are compared;
STS_OK for a valid image. -/
def imageTest (s : State) (slot : Nat) (sel : Nat → Bool) : Byte :=
  let b := slotAddr slot
  let h := flashGet s b 0x1000
  let total := leAt h 8 4
  let n := leAt h 0xC 1
  let ki := fld (leAt h 0xC 4) 8 4
  let ds := imgSections s b
  let pub := slice h 0x480 97
  let hashOk (i : Nat) : Bool :=
    let d := slice h (0x80 + 64 * i) 64
    !sel (leAt d 0 1) || Config.sha384 (flashGet s (b + leAt d 4 4) (leAt d 8 4)) == slice d 0x10 48
  if leAt h 0 4 ≠ 0x57465A47 || leAt h 4 2 ≠ 1 || leAt h 6 2 ≠ 0x6400 || total > slotBytes || n = 0 || n > 16 ||
      leAt h 0x1C 2 = 0 || leAt h 0x18 2 > 128 || !sectionsOk total ds then STS_IMAGE
  else if fld (leAt h 0xC 4) 12 4 > rdF s Reg.GL_ID 20 4 then STS_IMAGE
  else if ki > 3 || Config.vendorRevoked ki || Config.sha384 pub ≠ Config.vendorHash ki then STS_IMAGE_AUTH
  else if !Config.ecdsaOk pub (slice h 0 0x480) (slice h 0x4E8 48) (slice h 0x518 48) then STS_IMAGE_AUTH
  else if leAt h 0x18 2 < s.oz.svn then STS_ROLLBACK
  else if (List.range n).all hashOk then STS_OK else STS_IMAGE

/-- The checks of a whole image. -/
def imageCheck (s : State) (slot : Nat) : Byte := imageTest s slot (fun _ => true)

/-- The checks that precede a start of Ozelm: the header, the signature and Ozelm's own section. -/
def imageBoot (s : State) (slot : Nat) : Byte := imageTest s slot (fun t => t == 1)

/-- OZ_IMAGE and OZ_SVN follow the boot state and the fuses. -/
def showImage (s : State) : State :=
  wrN (wrF (wrF s Reg.OZ_IMAGE 16 1 (activeSlot s)) Reg.OZ_IMAGE 17 1 (b2n (bootPending s))) Reg.OZ_SVN s.oz.svn

/-! Debug scopes (R659) and restarts (R656). -/

/-- The open scope shown to every tiller (R574). -/
def showScope (s : State) : State :=
  let v := match s.oz.scope with
    | some (kind, sl, _) => if kind = 2 then 3 else 1 + sl * 4
    | none => if s.oz.lc = 0 then 3 else 0
  let s := wrF s Reg.OZ_STATUS 7 1 (b2n s.oz.scope.isSome)
  (List.range 34).foldl (fun s t => wrN s (tilR Reg.TIL_DBG_SCOPE t) v) s

/-- EV_TIL_DBG of every tiller. -/
def scopeEvents (s : State) (kind sl : Nat) : State := (List.range 34).foldl (fun s t => raise s (tilSrc t 4) [(4, kind), (4, sl)]) s

/-- An open scope closes: EV_OZ_DEBUG, outcome 2. -/
def scopeClose (s : State) : State :=
  match s.oz.scope with
  | some (kind, sl, _) =>
    scopeEvents (raise (showScope (ozUpd s (fun o => { o with scope := none }))) 0x048 [(4, 2), (4, kind), (4, sl)]) 0 sl
  | none => s

/-- A restart of Ozelm into a slot begins: the cause is 1 OZ_RESTART, 2 FW_ACTIVATE, 3 FW_REVERT, 4 lockstep, 5 SRAM,
6 watchdog. Its SRAM is lost, and the update session with it. -/
def ozRestart (s : State) (slot cause : Nat) : State :=
  let s := scopeClose (wrF s Reg.OZ_STATUS 0 1 0)
  let s := ozUpd s (fun o => { o with restart := some (s.time.elapsed, slot, cause), route := 0, step := 0, nonce := none, held := none, msgs := [] })
  let s := wrF s Reg.OZ_MB_CMD 8 1 0
  raisePhase s 0x045 3 [(4, 0), (4, slot), (4, cause)]

/-! The update session (R654, R655). Routes: 0 the mailbox, 1 PLDM, 2 NVMe. -/

/-- EV_OZ_FW_STAGE: an update step completes. -/
def fwStage (s : State) (step slot svn : Nat) : State := raise s 0x046 [(4, step), (4, slot), (4, svn)]

def fwBegin (s : State) (route : Nat) : State × Byte :=
  if s.oz.step ≠ 0 then (s, STS_OZ_BUSY) else
  let o := otherSlot s
  let s := flashErase s (slotAddr o) (slotAddr o + slotBytes)
  (fwStage (ozUpd s (fun z => { z with route := route, step := 1 })) 1 o 0, STS_OK)

/-- Bytes enter the inactive slot. -/
def fwWrite (s : State) (route off : Nat) (bs : List Byte) : State × Byte :=
  if off + bs.length > slotBytes then (s, STS_LEN_RANGE)
  else if s.oz.step ≠ 0 && s.oz.route ≠ route then (s, STS_OZ_BUSY)
  else if s.oz.step ≠ 1 then (s, STS_LC_STATE)
  else (flashPut s (slotAddr (otherSlot s) + off) bs, STS_OK)

def fwVerify (s : State) (route : Nat) : State × Byte :=
  if s.oz.route ≠ route || (s.oz.step ≠ 1 && s.oz.step ≠ 2) then (s, STS_LC_STATE) else
  let o := otherSlot s
  let c := imageCheck s o
  if c ≠ STS_OK then (s, c) else (fwStage (ozUpd s (fun z => { z with step := 2 })) 3 o (imgSvn s o), STS_OK)

/-- The verified slot becomes ACTIVE; Ozelm restarts into it, and the rolling update begins, as asked. -/
def fwActivate (s : State) (route : Nat) (ozelm tillers : Bool) : State × Byte :=
  if s.oz.route ≠ route || s.oz.step ≠ 2 then (s, STS_LC_STATE) else
  let o := otherSlot s
  let s := showImage (bootWrite (ozUpd s (fun z => { z with step := 3 })) o 1 1)
  let s := fwStage s 4 o (imgSvn s o)
  let s := if tillers then { s with unit := { s.unit with rolling := List.range 32 } } else s
  (if ozelm then ozRestart s o 2 else s, STS_OK)

/-- The anti-rollback count is burned up to the active image's SVN, and PENDING clears. -/
def fwCommit (s : State) : State × Byte :=
  if !bootPending s then (s, STS_LC_STATE) else
  let v := imgSvn s (activeSlot s)
  if v > s.oz.svn && unsteady s then (s, STS_OZ_BUSY) else
  let s := bootWrite s (activeSlot s) 0 (fld (bootState s) 2 1)
  let s := showImage (ozUpd s (fun z => { z with svn := max z.svn v, step := 0, route := 0 }))
  (fwStage s 5 (activeSlot s) v, STS_OK)

/-- The other slot becomes ACTIVE again, and Ozelm restarts into it. -/
def fwRevert (s : State) : State × Byte :=
  if !bootPending s then (s, STS_LC_STATE) else
  let o := otherSlot s
  let s := showImage (bootWrite s o 0 0)
  (ozRestart (fwStage (ozUpd s (fun z => { z with step := 0 })) 6 o (imgSvn s o)) o 3, STS_OK)

/-- The version string of the running image (R652). -/
def runningVersion (s : State) : List Byte := flashGet s (slotAddr (rdF s Reg.OZ_IMAGE 16 1) + 0x10) 8

end Sys2Proof.Machine
end

