-- ==== Sys2Proof/Machine/SvOps.lean ====
section
/-! DEFINITION. Machine/SvOps.lean: shared operations of the storage front end (chapter 15): completions, what a command waits
for, the contents of namespaces, the journal, and the resets of a controller. NVMe's own codes and layouts are those of NVMe
Base 2.0, which the spec names (log entry 21). -/

namespace Sys2Proof.Machine

def svUpd (s : State) (f : SvSt → SvSt) : State := { s with sv := f s.sv }
def ctrlUpd (s : State) (c : Nat) (f : Ctrl → Ctrl) : State := svUpd s (fun v => { v with ctrls := aupd v.ctrls c f })
def cmdUpd (s : State) (id : Nat) (f : SvCmd → SvCmd) : State := svUpd s (fun v => { v with cmds := aupd v.cmds id f })
def nsUpd (s : State) (n : Nat) (f : Ns → Ns) : State := svUpd s (fun v => { v with nss := aupd v.nss n f })
def poolUpd (s : State) (p : Nat) (f : Pool → Pool) : State := svUpd s (fun v => { v with pools := aupd v.pools p f })

/-! Status values: SC, SCT * 256; DNR is bit 14. -/

abbrev NV_OK : Nat := 0
abbrev NV_OPCODE : Nat := 0x01
abbrev NV_FIELD : Nat := 0x02
abbrev NV_TRANSFER : Nat := 0x04
abbrev NV_ABORTED : Nat := 0x07
abbrev NV_SQ_GONE : Nat := 0x08
abbrev NV_NS : Nat := 0x0B
abbrev NV_SEQUENCE : Nat := 0x0C
abbrev NV_LBA : Nat := 0x80
abbrev NV_CAPACITY : Nat := 0x81
abbrev NV_NOT_READY : Nat := 0x82
abbrev NV_CQ : Nat := 0x100
abbrev NV_QID : Nat := 0x101
abbrev NV_QSIZE : Nat := 0x102
abbrev NV_ABORTS : Nat := 0x103
abbrev NV_AERS : Nat := 0x105
abbrev NV_FW_SLOT : Nat := 0x106
abbrev NV_FW_IMAGE : Nat := 0x107
abbrev NV_VECTOR : Nat := 0x108
abbrev NV_QDELETE : Nat := 0x10C
abbrev NV_FW_PROHIBITED : Nat := 0x113
abbrev NV_SELFTEST : Nat := 0x11D
abbrev NV_READ_ERR : Nat := 0x281
abbrev NV_DENIED : Nat := 0x286
abbrev nvDnr : Nat := 0x4000

/-- The 16 bytes of a completion entry. -/
def nvCqe (dw0 sqhd sqid cid phase status : Nat) : List Byte :=
  le 4 dw0 ++ le 4 0 ++ le 2 sqhd ++ le 2 sqid ++ le 2 cid ++ le 2 (phase + 2 * status)

/-- Fields of a submission entry: opcode, CID, NSID, and double word k. -/
def sqeOp (e : List Byte) : Nat := leAt e 0 1
def sqeCid (e : List Byte) : Nat := leAt e 2 2
def sqeNsid (e : List Byte) : Nat := leAt e 4 4
def sqeDw (e : List Byte) (k : Nat) : Nat := leAt e (4 * k) 4
def sqeLba (e : List Byte) : Nat := leAt e 40 8

/-! Controllers and their function. -/

/-- The function that presents a host controller. -/
def ctrlFn (s : State) (c : Ctrl) : Option (Nat × Nat) :=
  match aget s.slices c.slice with
  | some x => x.link.map (fun l => (l, x.fnum))
  | none => none

/-- The host controller of a function. -/
def ctrlOfFn (s : State) (link fnum : Nat) : Option (Nat × Ctrl) :=
  s.sv.ctrls.find? (fun e => e.2.kind == 0 && ctrlFn s e.2 == some (link, fnum))

/-- The controller's function may issue requests, and its slice is not RESETTING (R515). -/
def ctrlWrites (s : State) (c : Ctrl) : Bool :=
  match ctrlFn s c with
  | some (l, f) => fnActive s l f && (aget s.slices c.slice).any (fun x => x.state ≠ 2)
  | none => false

/-- Commands in flight (R514). -/
def svInflight (s : State) : Nat :=
  (s.sv.cmds.filter (fun e => e.2.stage ≠ .staged)).length + (s.sv.ctrls.map (fun e => e.2.posts.length)).foldl (· + ·) 0

def showFlight (s : State) : State :=
  let n := svInflight s
  let s := wrN s Reg.SV_INFLIGHT n
  if rdN s Reg.SV_INFLIGHT_HWM < n then wrN s Reg.SV_INFLIGHT_HWM n else s

/-! Completions. -/

/-- Issues a completion: its data, its entry, and its interrupt. None while its queue is full. -/
def postOne (s : State) (i : Nat) (p : SvPost) : Option State :=
  match aget s.sv.ctrls i with
  | none => some s
  | some c =>
    match aget c.cqs p.cq with
    | none => some s
    | some q =>
      if (q.tail + 1) % q.size = q.head then none else
      let a := payloadAttr s c.slice false none none
      let s := p.data.foldl (fun s d => slWrite s c.slice d.1 a d.2) s
      let hd := ((aget c.sqs p.sq).map (fun x => x.head)).getD 0
      let s := slWrite s c.slice (q.base + 16 * q.tail) 0 (nvCqe p.dw0 hd p.sq p.cid q.phase p.status)
      let last := q.tail + 1 = q.size
      let s := ctrlUpd s i (fun x => { x with cqs := aset x.cqs p.cq { q with tail := if last then 0 else q.tail + 1, phase := if last then 1 - q.phase else q.phase } })
      some (if q.ien then match ctrlFn s c with
        | some (l, f) => sendVector s l f q.vector
        | none => s
      else s)

/-- Issues what completions a controller can, in order for each queue. -/
def postGo (s : State) (i : Nat) : State :=
  match aget s.sv.ctrls i with
  | none => s
  | some c =>
    if !ctrlWrites s c then s else
    let r := c.posts.foldl (fun (acc : State × List SvPost) p =>
      if acc.2.any (fun y => y.cq == p.cq) then (acc.1, acc.2 ++ [p]) else
      match postOne acc.1 i p with
      | some s => (s, acc.2)
      | none => (acc.1, acc.2 ++ [p])) (s, [])
    showFlight (ctrlUpd r.1 i (fun x => { x with posts := r.2 }))

/-- The DNR bit of an error that the spec does not give one for: a free value. -/
def withDnr (s : State) (st : Nat) : Nat × State :=
  if st = 0 || st = NV_NOT_READY then (st, s)
  else if st = NV_DENIED then (st + nvDnr, s)
  else let r := draw s; (st + nvDnr * (r.1 % 2), r.2)

/-- An error enters the Error Information log (64 entries). -/
def errLog (s : State) (i sq : Nat) (sqe : List Byte) (st : Nat) : State :=
  if st = 0 then s else
  ctrlUpd s i (fun c =>
    let e := pack 64 [(0, 0, 64, c.errCnt + 1), (8, 0, 16, sq), (10, 0, 16, sqeCid sqe), (12, 0, 16, 2 * st), (16, 0, 64, sqeLba sqe), (24, 0, 32, sqeNsid sqe)]
    { c with errCnt := c.errCnt + 1, errors := (e :: c.errors).take 64 })

/-- A self-test of a controller covers the namespace of a command. -/
def testCovers (c : Ctrl) (m : SvCmd) : Bool :=
  match c.test, m.ns with
  | some t, some n => (c.nss.filter (fun e => t.nsid = e.1 || t.nsid = 0 || t.nsid = 0xFFFFFFFF)).any (fun e => e.2 == n)
  | _, _ => false

/-- Tests that cover the namespace of a command note when it completes (R533). -/
def testQuiet (s : State) (m : SvCmd) : State :=
  svUpd s (fun v => { v with ctrls := amap v.ctrls (fun _ c =>
    if testCovers c m then { c with test := c.test.map (fun t => { t with last := s.time.elapsed }) } else c) })

/-- A command leaves the device: its completion is posted, a target's response is sent, or nothing is reported. -/
def endCmd (s : State) (id st dw0 : Nat) (data : List (Nat × List Byte)) (raw : List Byte) : State :=
  match aget s.sv.cmds id with
  | none => s
  | some m =>
    let s := svUpd s (fun v => { v with cmds := adel v.cmds id })
    let s := testQuiet s m
    if m.silent then showFlight s else
    let d := withDnr s st
    let s := errLog d.2 m.ctrl m.sq m.sqe d.1
    match aget s.sv.ctrls m.ctrl with
    | none => showFlight s
    | some c =>
      if c.kind = 1 then showFlight (emit s (.backing "response" [c.qp] (nvCqe dw0 0 m.sq (sqeCid m.sqe) 0 d.1 ++ raw)))
      else
        let p : SvPost := { sq := m.sq, cq := m.cq, cid := sqeCid m.sqe, dw0 := dw0, status := d.1, data := data }
        postGo (ctrlUpd s m.ctrl (fun x => { x with posts := x.posts ++ [p] })) m.ctrl

/-! What waits for the end of commands. -/

/-- Commands of a controller that are outstanding, Asynchronous Event Requests apart. -/
def ctrlBusy (s : State) (i : Nat) : Bool := s.sv.cmds.any (fun e => e.2.ctrl == i && e.2.stage ≠ .event)

/-- One thing that the end of other commands lets go on: an Abort, a Flush, a shutdown, a detachment. -/
def settleOne (s : State) : Option State :=
  let gone (id : Nat) : Bool := (aget s.sv.cmds id).isNone
  match s.sv.cmds.find? (fun e => match e.2.stage with
      | .abort id => gone id
      | .flush ids [] => ids.all gone
      | _ => false) with
  | some (id, m) => some (endCmd s id NV_OK (match m.stage with | .abort _ => 1 | _ => 0) [] [])
  | none =>
    match s.sv.ctrls.find? (fun e => e.2.shst == 1 && !ctrlBusy s e.1) with
    | some (i, _) => some (ctrlUpd s i (fun c => { c with shst := 2 }))
    | none =>
      match s.ch.adminWait.find? (fun e => e.2.1 == 0xAB && !s.sv.cmds.any (fun m => m.2.ctrl == e.2.2.2 % 4096 && m.2.ns == some (e.2.2.2 / 4096) && m.2.stage ≠ .staged)) with
      | some (_, _, _, key) => some (adminWake s 0xAB key {})
      | none => none

def settleN : Nat → State → State
  | 0, s => s
  | n + 1, s => match settleOne s with
    | some s' => settleN n s'
    | none => s

def settle (s : State) : State := settleN (s.sv.cmds.length + s.sv.ctrls.length + s.ch.adminWait.length + 1) s

/-- A command completes, and what waited on it goes on. -/
def finish (s : State) (id st : Nat) (dw0 : Nat := 0) (data : List (Nat × List Byte) := []) (raw : List Byte := []) : State :=
  settle (endCmd s id st dw0 data raw)

/-! Asynchronous events (R510, R516). -/

/-- The oldest outstanding Asynchronous Event Request of a controller completes with an event. -/
def aerFire (s : State) (i dw0 : Nat) : State :=
  match s.sv.cmds.find? (fun e => e.2.ctrl == i && e.2.stage == .event) with
  | some (id, _) => finish s id NV_OK dw0
  | none => s

/-- A doorbell write that names no queue, or a value out of range. -/
def badDoorbell (s : State) (i : Nat) : State := aerFire s i 0x10100

def featOf (c : Ctrl) (fid : Nat) : Nat :=
  agetD c.feats fid (match fid with | 4 => 373 | 6 => 1 | 7 => 0x00FF00FF | _ => 0)

/-- The Changed Namespace List takes an NSID, with a notice where Asynchronous Event Configuration enables it. -/
def nsChanged (s : State) (i nsid : Nat) : State :=
  let s := ctrlUpd s i (fun c => { c with changed := insNat nsid c.changed })
  if (aget s.sv.ctrls i).any (fun c => (featOf c 0xB).testBit 8) then aerFire s i 0x040002 else s

/-! Contents of namespaces (R519 to R523). -/

/-- The window of memory that holds a namespace's blocks as stored. -/
def nsBase (n : Nat) : Nat := 2 ^ 80 + n * 2 ^ 72
def nsBlk (x : Ns) : Nat := if x.lba4k then 4096 else 512

/-- The XTS keys of a namespace: the data key above the tweak key (R450). -/
def nsKeys (s : State) (a : Nat) : Nat :=
  let k (i : Nat) : Nat := ((aget s.cy.slots i).map (fun y => y.key)).getD 0
  k a * 2 ^ 256 + k (a + 1)

def nsEnc (s : State) (x : Ns) (lba : Nat) (b : List Byte) : List Byte :=
  match x.keySlot with
  | some a => if x.enc then Config.xtsEnc (nsKeys s a) (le 16 lba) b else b
  | none => b
def nsDec (s : State) (x : Ns) (lba : Nat) (b : List Byte) : List Byte :=
  match x.keySlot with
  | some a => if x.enc then Config.xtsDec (nsKeys s a) (le 16 lba) b else b
  | none => b

/-- The map unit of a block. -/
def unitOf (x : Ns) (lba : Nat) : Nat := lba * nsBlk x / 4096

/-- One block of a pool's namespace: an unmapped unit reads zero. -/
def nsBlock (s : State) (n : Nat) (x : Ns) (lba : Nat) : List Byte :=
  if x.mapped.contains (unitOf x lba) then nsDec s x lba (memGets s.mem (nsBase n + lba * nsBlk x) (nsBlk x))
  else List.replicate (nsBlk x) 0

def nsRead (s : State) (n lba cnt : Nat) : List Byte :=
  match aget s.sv.nss n with
  | some x => (List.range cnt).flatMap (fun k => nsBlock s n x (lba + k))
  | none => []

/-- The units of a range of blocks. -/
def rangeUnits (x : Ns) (lba cnt : Nat) : List Nat :=
  if cnt = 0 then [] else (List.range (unitOf x (lba + cnt - 1) - unitOf x lba + 1)).map (unitOf x lba + ·)

/-- A unit becomes mapped: its blocks are zero. -/
def mapUnit (s : State) (n u : Nat) : State :=
  match aget s.sv.nss n with
  | none => s
  | some x =>
    if x.mapped.contains u then s else
    let s := nsUpd s n (fun y => { y with mapped := insNat u y.mapped })
    let k := 4096 / nsBlk x
    if x.enc then (List.range k).foldl (fun s j => store s (nsBase n + u * 4096 + j * nsBlk x) (nsEnc s x (u * k + j) (List.replicate (nsBlk x) 0))) s
    else { s with mem := memClear s.mem (nsBase n + u * 4096) (nsBase n + u * 4096 + 4096) }

def unmapUnit (s : State) (n u : Nat) : State :=
  nsUpd { s with mem := memClear s.mem (nsBase n + u * 4096) (nsBase n + u * 4096 + 4096) } n (fun y => { y with mapped := y.mapped.filter (· ≠ u) })

/-- Blocks are written to a pool's namespace. -/
def nsWrite (s : State) (n lba cnt : Nat) (bs : List Byte) : State :=
  match aget s.sv.nss n with
  | none => s
  | some x =>
    let s := (rangeUnits x lba cnt).foldl (fun s u => mapUnit s n u) s
    (List.range cnt).foldl (fun s k =>
      store s (nsBase n + (lba + k) * nsBlk x) (nsEnc s x (lba + k) (slice bs (k * nsBlk x) (nsBlk x)))) s

/-- Units that lie wholly in a range of blocks. -/
def wholeUnits (x : Ns) (lba cnt : Nat) : List Nat :=
  (rangeUnits x lba cnt).filter (fun u => lba * nsBlk x ≤ u * 4096 && u * 4096 + 4096 ≤ (lba + cnt) * nsBlk x)

/-! Pools and the journal (R521, R524, R535). -/

/-- A member that is present and holds the whole pool. -/
def memberGood (p : Pool) (k : Nat) : Bool := (p.members[k]?).any (fun m => m.present) && p.rebuild ≠ some k

/-- 0 SINGLE, 1 MIRRORED, 2 DEGRADED, 3 FAILED. -/
def poolState (p : Pool) : Nat :=
  let good := ((List.range p.members.length).filter (memberGood p)).length
  if good = 0 then 3 else if !p.mirror then 0 else if good = 2 then 1 else 2

/-- Map units that a pool holds: those of its smallest member. -/
def poolUnits (p : Pool) : Nat := p.members.foldl (fun a m => min a m.units) (((p.members.head?).map (fun m => m.units)).getD 0)

/-- SV_POOL_DEGRADED. -/
def showPools (s : State) : State :=
  let bit (lo : Nat) : Nat := (List.range 32).foldl (fun a k => if (aget s.sv.pools (lo + k)).any (fun p => 2 ≤ poolState p) then a + 2 ^ k else a) 0
  wrN (wrN s Reg.SV_POOL_DEGRADED_LO (bit 0)) Reg.SV_POOL_DEGRADED_HI (bit 32)

/-- Units that a pool's namespaces map. -/
def poolUsed (s : State) (p : Nat) : Nat :=
  ((s.sv.nss.filter (fun e => e.2.backing == 0 && e.2.target == p)).map (fun e => e.2.mapped.length)).foldl (· + ·) 0

/-- A map record. -/
def mapRecord (nsx seq unit punit count : Nat) (dealloc : Bool) : List Byte :=
  let b := pack 56 [(0, 0, 32, 0x524D5A47), (4, 0, 32, nsx), (8, 0, 64, seq), (0x10, 0, 64, unit), (0x18, 0, 64, punit), (0x20, 0, 7, count), (0x20, 7, 1, b2n dealloc)]
  b ++ le 4 (crc32c b) ++ le 4 0

/-- Appends a map record for `count` units from `unit` to the journal of every present member. The place of the new extent is the
layer's choice: a free value. -/
def journalPut (s : State) (p nsx unit count : Nat) (dealloc : Bool) : State :=
  match aget s.sv.pools p with
  | none => s
  | some x =>
    let r := draw s
    let rec' := mapRecord nsx (x.seq + 1) unit (r.1 % max 1 (poolUnits x)) count dealloc
    bump (poolUpd r.2 p (fun y => { y with seq := y.seq + 1, members := y.members.map (fun m => if m.present then { m with journal := m.journal ++ [rec'] } else m) })) Reg.SV_JOURNAL_REC_CNT

/-- Map records for the units of a range, at most 64 units each. -/
def journalRange (s : State) (n lba cnt : Nat) (dealloc : Bool) : State :=
  match aget s.sv.nss n with
  | none => s
  | some x =>
    if x.backing ≠ 0 then s else
    let us := if dealloc then wholeUnits x lba cnt else rangeUnits x lba cnt
    let u0 := us.headD 0
    (List.range (ceilDiv us.length 64)).foldl (fun s k => journalPut s x.target n (u0 + 64 * k) (min 64 (us.length - 64 * k)) dealloc) s

/-! Overlap (R525). -/

/-- The command may change blocks: Write, Write Zeroes, Dataset Management with AD. -/
def cmdWrites (m : SvCmd) : Bool :=
  let op := sqeOp m.sqe
  op == 1 || op == 8 || (op == 9 && (sqeDw m.sqe 11).testBit 2)

def rangesMeet (a b : List (Nat × Nat)) : Bool := a.any (fun x => b.any (fun y => x.1 < y.1 + y.2 && y.1 < x.1 + x.2))

/-- An earlier command holds a command back: one of its queue, or a Write that finishes inside the device after a reset. -/
def blocked (s : State) (id : Nat) (m : SvCmd) : Bool :=
  s.sv.cmds.any (fun e => e.1 < id && e.2.ctrl == m.ctrl && (e.2.sq == m.sq || e.2.silent) && e.2.ns == m.ns && e.2.ns.isSome && e.2.stage ≠ .staged &&
    (cmdWrites e.2 || cmdWrites m) && rangesMeet e.2.ranges m.ranges)

/-- Requests outstanding on the queue pair of a remote namespace (R539). -/
def remoteOut (s : State) (qp : Nat) : Nat :=
  let to' (n : Nat) : Bool := (aget s.sv.nss n).any (fun x => x.backing == 1 && x.target == qp)
  (s.sv.cmds.map (fun e => match e.2.stage with
    | .sent => b2n (e.2.ns.any to')
    | .flush _ away => (away.filter to').length
    | _ => 0)).foldl (· + ·) 0

/-! Namespace states (R537, R538). -/

def nsState (s : State) (n st : Nat) : State :=
  match aget s.sv.nss n with
  | some x => if x.state = st then s else raise (nsUpd s n (fun y => { y with state := st })) 0x902 [(4, n), (4, st)]
  | none => s

/-- A FUA write of a pool whose outcome the host must learn by reading (R537): it took effect or not, by a free value. -/
def writeMaybe (s : State) (m : SvCmd) (n : Nat) : State :=
  match m.ranges with
  | [(lba, cnt)] =>
    if sqeOp m.sqe = 1 && m.stage == .sent then
      let r := draw s
      if r.1 % 2 = 1 then nsWrite r.2 n lba cnt m.data else r.2
    else s
  | _ => s

/-- Every outstanding command of a namespace completes with a status. -/
def nsEndAll (s : State) (n st : Nat) : State :=
  (s.sv.cmds.filter (fun e => e.2.ns == some n && e.2.stage ≠ .staged)).foldl (fun s e => finish (writeMaybe s e.2 n) e.1 st) s

/-- A namespace becomes NOT_READY. -/
def nsNotReady (s : State) (n : Nat) : State :=
  if (aget s.sv.nss n).any (fun x => x.state == 0) then nsEndAll (nsState s n 1) n NV_NOT_READY else s

/-- Encrypted namespaces whose keys are gone become KEYLESS. -/
def svKeyless (s : State) : State :=
  (s.sv.nss.filter (fun e => e.2.enc && e.2.state ≠ 2 && e.2.keySlot.any (fun a => (aget s.cy.slots a).isNone || (aget s.cy.slots (a + 1)).isNone))).foldl
    (fun s e => nsEndAll (nsState s e.1 2) e.1 NV_DENIED) s

/-! Self-test results (R534). -/

/-- A self-test ends with a result. -/
def testEnd (s : State) (i result segment : Nat) : State :=
  match (aget s.sv.ctrls i).bind (fun c => c.test) with
  | some t =>
    let e := pack 28 [(0, 0, 4, result), (0, 4, 4, t.kind), (1, 0, 8, segment), (2, 0, 1, b2n (t.nsid ≠ 0 && t.nsid ≠ 0xFFFFFFFF)), (4, 0, 64, s.time.elapsed / (3600000 * msUnits)), (12, 0, 32, t.nsid)]
    ctrlUpd s i (fun c => { c with test := none, results := (e :: c.results).take 20 })
  | none => s

/-! Reset of a controller (R528, R529). -/

/-- A Write whose data was read and sent to its backing. -/
def writeSent (m : SvCmd) : Bool := sqeOp m.sqe == 1 && m.sq ≠ 0 && m.stage == .sent

/-- The controller stops: nothing is reported any more; Writes sent to their backings finish inside the device, every other
outstanding command is abandoned; queues are deleted and features return to their defaults. -/
def ctrlReset (s : State) (i cause : Nat) : State :=
  let s := testEnd s i 2 0
  let mine := s.sv.cmds.filter (fun e => e.2.ctrl == i && e.2.stage ≠ .staged)
  let keep := (mine.filter (fun e => writeSent e.2 || e.2.silent)).length
  let left := s.sv.cmds.filter (fun e => e.2.ctrl ≠ i || e.2.stage == .staged || writeSent e.2 || e.2.silent)
  let hush (e : Nat × SvCmd) : Nat × SvCmd := if e.2.ctrl = i && e.2.stage ≠ .staged then (e.1, { e.2 with silent := true }) else e
  let s := svUpd s (fun v => { v with cmds := left.map hush })
  let s := ctrlUpd s i (fun c => { c with sqs := [], cqs := [], posts := [], feats := [], turn := 0, cfs := false, shst := 0 })
  let s := ctrlUpd s i (fun c => { c with rdy := c.rdy && keep ≠ 0 })
  settle (showFlight (raise s 0x903 [(4, i), (4, cause), (4, keep)]))

/-- The controllers of a slice that is reset (R529): cause 2 FLR, 3 link reset, 4 slice reset. RDY is not waited for. CC.EN clears, and
a reset of the function takes every register of the controller to its reset value (R669). -/
def svSliceReset (s : State) (sl cause : Nat) : State :=
  let c := match cause with | 3 => 2 | 4 => 3 | _ => 4
  let fn := 3 ≤ cause && cause ≤ 5
  (s.sv.ctrls.filter (fun e => e.2.slice == sl && e.2.kind == 0)).foldl (fun s e =>
    ctrlUpd (ctrlReset s e.1 c) e.1 (fun x =>
      if fn then { x with cc := 0, rdy := false, aqa := 0, asq := 0, acq := 0 } else { x with cc := putFld x.cc 0 1 0, rdy := false })) s

/-- Controllers whose function may write again issue what they held (R515). -/
def svResume (s : State) : State := s.sv.ctrls.foldl (fun s e => postGo s e.1) s

/-! Entries of a slice image (R541). -/

def ctrlEntry (s : State) (i : Nat) (c : Ctrl) : List Byte :=
  let asq := agetD c.sqs 0 { base := 0, size := 1, cq := 0 }
  let acq := agetD c.cqs 0 { base := 0, size := 1 }
  let aers := (s.sv.cmds.filter (fun e => e.2.ctrl == i && e.2.stage == .event)).map (fun e => sqeCid e.2.sqe)
  pack 256 ([(0, 0, 8, 1), (0, 8, 1, c.kind), (0, 9, 1, b2n c.fw), (0, 16, 16, i + 1), (8, 0, 32, c.cc), (0xC, 0, 32, c.aqa), (0x10, 0, 64, c.asq), (0x18, 0, 64, c.acq),
    (0x20, 0, 16, asq.head), (0x20, 16, 16, asq.tail), (0x24, 0, 16, acq.head), (0x24, 16, 16, acq.tail), (0x28, 0, 1, acq.phase),
    (0x30, 0, 32, featOf c 8), (0x34, 0, 32, featOf c 0xB), (0x38, 0, 32, featOf c 4), (0x3C, 0, 1, featOf c 6), (0x3C, 16, 16, featOf c 7),
    (0x40, 0, 3, aers.length), (0x50, 0, 32, c.qp)] ++ (List.range aers.length).map (fun k => (0x44 + 2 * k, 0, 16, (aers[k]?).getD 0)))

def sqEntry (i q : Nat) (x : SvSq) : List Byte :=
  pack 256 [(0, 0, 8, 2), (0, 16, 16, q), (4, 0, 16, i + 1), (8, 0, 64, x.base), (0x10, 0, 16, x.size - 1), (0x10, 16, 16, x.cq), (0x14, 0, 16, x.head), (0x14, 16, 16, x.tail)]
def cqEntry (i q : Nat) (x : SvCq) : List Byte :=
  pack 256 [(0, 0, 8, 3), (0, 16, 16, q), (4, 0, 16, i + 1), (8, 0, 64, x.base), (0x10, 0, 16, x.size - 1), (0x10, 16, 16, x.vector), (0x14, 0, 16, x.head), (0x14, 16, 16, x.tail), (0x18, 0, 1, x.phase), (0x18, 1, 1, b2n x.ien)]

/-- Section 6 of a slice image: its controller and each of its I/O queues. -/
def svImage (s : State) (sl : Nat) : List (List Byte) :=
  (s.sv.ctrls.filter (fun e => e.2.slice == sl)).flatMap (fun e =>
    [ctrlEntry s e.1 e.2] ++ (e.2.sqs.filter (fun q => q.1 ≠ 0)).map (fun q => sqEntry e.1 q.1 q.2) ++
    (e.2.cqs.filter (fun q => q.1 ≠ 0)).map (fun q => cqEntry e.1 q.1 q.2))

end Sys2Proof.Machine
end

