-- ==== Sys2Proof/Machine/FnOps.lean ====
section
/-! DEFINITION. Machine/FnOps.lean: shared operations over functions and host links (chapter 4): Bus Master Enable and D3hot,
resets of functions and links, VF Enable, BAR sizes, TDISP, the writes of configuration space, and the ends of host reads.
The data field "Function" of a host-link event is the function's number on its link. -/

namespace Sys2Proof.Machine

/-- A function answers configuration requests: its link is present, up and out of PERST_N, and it is enabled and in no FLR. -/
def fnAnswers (s : State) (link fnum : Nat) : Bool :=
  linkPresent s link && linkUp s link && !linkPerst s link && decide (fnum < 256) && (fnGet s link fnum).enabled && (fnGet s link fnum).flr.isNone

/-! TDISP (R127). -/

def tdispLocked (f : FnSt) : Bool := f.tdisp == 2 || f.tdisp == 3

/-- A TDISP state change, with its event. -/
def tdispTo (s : State) (link fnum st : Nat) : State :=
  if (fnGet s link fnum).tdisp = st then s
  else raise (fnUpd s link fnum (fun f => { f with tdisp := st })) (hlSrc link 14) [(4, fnum), (4, st)]

/-- An event that the lock forbids moves the interface to ERROR. -/
def tdispBreak (s : State) (link fnum : Nat) : State :=
  if tdispLocked (fnGet s link fnum) then tdispTo s link fnum 4 else s

/-- A refused change sets HF_FN_CFG_STATUS.ERR with its cause. -/
def fnRefuse (s : State) (link fnum cause : Nat) : State :=
  fnUpd s link fnum (fun f => { f with cfgErr := true, cfgCause := cause })

/-! Bus Master Enable and D3hot (R100, R115, R116). -/

/-- The function may issue requests again, if nothing else holds it: its channels and its controller go on. -/
def fnWake (s : State) (link fnum : Nat) : State :=
  if fnActive s link fnum then svResume (fnResume s link fnum) else s

/-- Bus Master Enable changes. -/
def fnBmeTo (s : State) (link fnum : Nat) (on : Bool) : State :=
  if fnBme (fnGet s link fnum) fnum == on then s else
  let s := raise (cfgBit s link fnum 0x04 2 on) (hlSrc link 4) [(4, fnum), (4, b2n on)]
  if on then fnWake s link fnum else fnStall s link fnum

/-- PowerState changes: 0 is D0, 3 is D3hot. -/
def fnPower (s : State) (link fnum st : Nat) : State :=
  let f := fnGet s link fnum
  if fld (cfgRd fnum f 0x44) 0 2 = st then s else
  let s := raise (cfgSet s link fnum 0x44 (putFld (cfgRd fnum f 0x44) 0 2 st)) (hlSrc link 15) [(4, fnum), (4, st)]
  if st = 3 then fnStall s link fnum else fnWake s link fnum

/-- The PTM source of fabric time is lost when its link goes down (cause 5) or the host disables PTM (cause 6) (R40, R692). -/
def ptmLost (s : State) (link cause : Nat) : State :=
  if ftSrc s = 3 && rdF s Reg.FT_SRC_CTL 8 4 = link then sourceLost s cause else s

/-! Resets of functions and links (R118 to R120). -/

/-- The slices of a function. -/
def fnSlices (s : State) (link fnum : Nat) : List Nat :=
  (s.slices.filter (fun e => e.2.link == some link && e.2.fnum == fnum)).map (fun e => e.1)

/-- The accesses that a function has made through its peer windows count towards no set of windows any more. -/
def winForget (s : State) (link fnum : Nat) : State :=
  { s with host := { s.host with reads := amap s.host.reads (fun _ h => match h.work with
    | .peer l f _ => if l = link && f = fnum then { h with work := .peer l f (2 ^ 32) } else h
    | _ => h) } }

/-- The reset values of a function that an FLR or a reset of its link gives it, with its registers behind HF_FN_SEL (R118, R669).
An FLR of the owner function leaves the device's configuration in BAR0/1 (R119), and the end of VF Enable that of the VF (R129);
the personality of an enabled VF never changes (R129). -/
def fnAfter (f : FnSt) (fnum : Nat) (keep : Bool) : FnSt :=
  let g := { fnReset fnum with enabled := f.enabled, flr := f.flr, tdisp := f.tdisp, nvme := f.nvme }
  if keep then { g with msixAlloc := f.msixAlloc, tagMax := f.tagMax, cfgErr := f.cfgErr, cfgCause := f.cfgCause, winGen := f.winGen,
                        winErr := f.winErr, winBusy := f.winBusy, oldBusy := f.oldBusy, drained := f.drained, winUrCnt := f.winUrCnt }
  else g

/-- What an FLR does to a function, whatever started it: its slices are reset, its configuration, peer windows and registers return
to their reset values (with the events of the changes), and its tags are quarantined. -/
def fnClear (s : State) (link fnum cause : Nat) : State :=
  let keep := cause = 5 || (cause = 3 && fnum = 0 && s.host.owner = some link)
  let s := (fnSlices s link fnum).foldl (fun s n => sliceReset s n cause) s
  let s := tdispBreak s link fnum
  let f := fnGet s link fnum
  let s := if fnBme f fnum then raise s (hlSrc link 4) [(4, fnum), (4, 0)] else s
  let s := if fnD3 f fnum then raise s (hlSrc link 15) [(4, fnum), (4, 0)] else s
  let vfs := fnum = 0 && ((cfgRd 0 f 0x158).testBit 0 || fld (cfgRd 0 f 0x160) 0 16 ≠ 0)
  let s := if vfs then raise s (hlSrc link 12) [(4, 0)] else s
  let s := readsCut s (fun r => r.link == link && r.fnum == fnum) (fun r => r)
  let s := { s with host := { s.host with
    reqs := (s.host.reqs.filter (fun r => !(r.link == link && r.fnum == fnum && r.tag.isNone))).map
      (fun r => if r.link = link && r.fnum = fnum then { r with quarantine := true } else r) } }
  let s := fnUpd (if keep then s else winForget s link fnum) link fnum (fun f => fnAfter f fnum keep)
  let s := if fnum = 0 && (cfgRd 0 f 0x208).testBit 0 then ptmLost s link 6 else s
  showTags s link

/-- The enabled VFs of a link. -/
def linkVfs (s : State) (link : Nat) : List Nat :=
  (s.host.fns.filter (fun e => e.1 / 256 == link && e.1 % 256 ≠ 0 && e.2.enabled)).map (fun e => e.1 % 256)

/-- A VF goes: it is reset and no longer enabled. -/
def vfGone (s : State) (link n cause : Nat) : State :=
  tdispTo (fnUpd (fnClear s link n cause) link n (fun f => { f with enabled := false, flr := none })) link n 0

/-- A VF appears, in CONFIG_UNLOCKED. -/
def vfCome (s : State) (link n : Nat) : State :=
  tdispTo (fnUpd s link n (fun f => { f with enabled := true })) link n 1

/-- VF Enable and NumVFs as PF0's SR-IOV capability holds them give the VFs that are enabled; cause is that of the slice
resets. -/
def vfApply (s : State) (link cause : Nat) : State :=
  let f := fnGet s link 0
  let n := if (cfgRd 0 f 0x158).testBit 0 then min 255 (fld (cfgRd 0 f 0x160) 0 16) else 0
  let s := ((linkVfs s link).filter (fun v => n < v)).foldl (fun s v => vfGone s link v cause) s
  ((List.range n).map (· + 1)).foldl (fun s v => if (fnGet s link v).enabled then s else vfCome s link v) s

/-- A change of VF Enable or NumVFs (R119): the SR-IOV words have been written. -/
def vfChange (s : State) (link : Nat) : State :=
  let n := fld (cfgRd 0 (fnGet s link 0) 0x160) 0 16
  vfApply (raise s (hlSrc link 12) [(4, n)]) link 5

/-- A Function Level Reset starts (R118, R119): one of PF0 clears VF Enable and resets every VF. -/
def fnFlr (s : State) (link fnum : Nat) : State :=
  let s := raisePhase s (hlSrc link 3) 3 [(4, fnum), (4, 0)]
  let s := fnUpd (fnClear s link fnum 3) link fnum (fun f => { f with flr := some s.time.elapsed })
  if fnum = 0 then vfApply s link 3 else s

/-- Every slice of the function, and for PF0 of the link's functions, has ended its reset. -/
def flrDone (s : State) (link fnum : Nat) : Bool :=
  s.slices.all (fun e => e.2.state ≠ 2 || e.2.link ≠ some link || (e.2.fnum ≠ fnum && fnum ≠ 0))

/-- An IDE stream of a link changes state, with its event (R126). The numbers of the states, 0 no key, 1 secure, 2 insecure, are
the model's (log entry 23). -/
def ideTo (s : State) (link k st : Nat) : State :=
  if agetD s.host.ide (link * 4 + k) 0 = st then s
  else raise { s with host := { s.host with ide := aset s.host.ide (link * 4 + k) st } } (hlSrc link 13) [(4, k), (4, st)]

/-- The status of a link: its UP bit, rate, width and FLIT, with the bit of the face. -/
def linkShow (s : State) (link up rate width flit : Nat) : State :=
  let s := wrF (wrF (wrF (wrF s (hfLink link) 0 1 up) (hfLink link) 1 3 rate) (hfLink link) 4 5 width) (hfLink link) 9 1 flit
  wrF s (Reg.HF_FACE_STATUS (link / 4)) (4 + link % 4) 1 up

/-- The keys of a link's IDE streams go, and its streams have none (R126). -/
def ideClear (s : State) (link : Nat) : State :=
  let s := { s with host := { s.host with ideKeys := s.host.ideKeys.filter (fun e => e.1 / 4 ≠ link) } }
  (List.range 4).foldl (fun s k => ideTo s link k 0) s

/-- A host link is reset with every function of it (R120); its LTR value and its counters return to their reset values (R669). -/
def linkReset (s : State) (link : Nat) : State :=
  let was := linkUp s link
  let s := linkShow s link 0 0 0 0
  let s := if was then ptmLost (raise s (hlSrc link 0) [(4, 0), (4, 0), (4, 0)]) link 5 else s
  let s := [0x04, 0x14, 0x18, 0x1C, 0x20].foldl (fun s x => wrN s (hfLink link + x) 0) s
  let s := ideClear s link
  let s := (linkVfs s link).foldl (fun s v => vfGone s link v 4) s
  let s := fnUpd (fnClear s link 0 4) link 0 (fun f => { f with flr := none })
  (s.slices.filter (fun e => e.2.link == some link)).foldl (fun s e => sliceReset s e.1 4) s

/-! BAR sizes (R101, R103, R127). -/

/-- A size that a Resizable BAR may take, as its base-2 logarithm. -/
def barOk (vf : Bool) (bar log : Nat) : Bool :=
  20 ≤ log && log ≤ (if bar = 4 then 36 else if vf then 28 else 31)

def barLog (f : FnSt) (vf : Bool) (bar : Nat) : Nat :=
  if vf then (if bar = 2 then f.vfBar2 else f.vfBar4) else (if bar = 2 then f.bar2 else f.bar4)

/-- PF0's Resizable BAR, or its VF Resizable BAR, is written; a lock that covers the VF BARs refuses it. -/
def barResize (s : State) (link : Nat) (vf : Bool) (bar log : Nat) : State :=
  let f := fnGet s link 0
  if (bar ≠ 2 && bar ≠ 4) || !barOk vf bar log || barLog f vf bar = log || fnMse s link (b2n vf) then s else
  let locked := if vf then (linkVfs s link).filter (fun v => tdispLocked (fnGet s link v)) else []
  if !locked.isEmpty then locked.foldl (fun s v => fnRefuse s link v 4) s else
  let s := fnUpd s link 0 (fun f =>
    if vf then (if bar = 2 then { f with vfBar2 := log } else { f with vfBar4 := log })
    else (if bar = 2 then { f with bar2 := log } else { f with bar4 := log }))
  raise s (hlSrc link 11) [(4, 0), (4, bar), (4, 2 ^ (log - 20))]

/-! Writes of configuration space (R99; the fields are those of the PCIe standard, log entry 20). -/

/-- The writable fields of a word and the fields that a 1 clears. -/
def cfgMask (fnum off : Nat) : Nat × Nat :=
  let pf := fnum = 0
  match off with
  | 0x04 => (if pf then 0x546 else 0x4, 0xF9000000)
  | 0x0C => (if pf then 0xFF else 0, 0)
  | 0x3C => (if pf then 0xFF else 0, 0)
  | 0x44 => (3, 0)
  | 0x58 => (0x79FF, 0xF0000)
  | 0x60 => (if pf then 0x2CB else 0, 0)
  | 0x78 => (0x170F, 0)
  | 0x80 => (if pf then 0xFFFF else 0, 0)
  | 0x90 => (0xC0000000, 0)
  | 0x104 => (0, 0xFFFFFFFF)
  | 0x108 => (0xFFFFFFFF, 0)
  | 0x10C => (0xFFFFFFFF, 0)
  | 0x110 => (0, 0xFFFFFFFF)
  | 0x114 => (0xFFFFFFFF, 0)
  | 0x118 => (0x140, 0)
  | 0x158 => (if pf then 0x19 else 0, 0)
  | 0x160 => (if pf then 0xFFFF else 0, 0)
  | 0x170 => (if pf then 0xFFFFFFFF else 0, 0)
  | 0x194 => (0x801F0000, 0)
  | 0x1A4 => (0x10000, 0)
  | 0x1B8 => (0x307, 0)
  | 0x1F4 => (if pf then 0x1FFF1FFF else 0, 0)
  | 0x208 => (if pf then 0xFF01 else 0, 0)
  | 0x274 => (if pf then 2 else 0, 0)
  | 0x278 => (0, if pf then 2 else 0)
  | 0x324 => (if pf then 0xFE03 else 0, 0)
  | 0x328 => (0, if pf then 0xFFFF else 0)
  | 0x3C8 => (2, 0)
  | _ =>
    if !pf then (0, 0)
    else if 0x10 ≤ off && off < 0x28 then (if off % 8 = 0 then 0xFFFFFFF0 else 0xFFFFFFFF, 0)
    else if 0x174 ≤ off && off < 0x18C then (if (off - 0x174) % 8 = 0 then 0xFFFFFFF0 else 0xFFFFFFFF, 0)
    else if 0x29C ≤ off && off < 0x29C + 4 * 0x2C then
      (match (off - 0x29C) % 0x2C with
       | 0 => (0, 0)
       | 4 => (0xFFC1FFFF, 0)
       | 8 => (0, 0x80000000)
       | _ => (0xFFFFFFFF, 0))
    else (0, 0)

/-- The bits of a double word whose byte enables are set. -/
def beMask (be : Nat) : Nat := (List.range 4).foldl (fun m k => if be.testBit k then m + 255 * 2 ^ (8 * k) else m) 0

/-- A write that the lock of a TDISP interface forbids: Bus Master Enable cleared, D3hot, tag enables changed, an FLR. -/
def lockForbids (off old new : Nat) (flr : Bool) : Bool :=
  (off = 0x04 && old.testBit 2 && !new.testBit 2) || (off = 0x44 && fld new 0 2 == 3) ||
  (off = 0x58 && (flr || old.testBit 8 ≠ new.testBit 8)) || (off = 0x78 && old.testBit 12 ≠ new.testBit 12) ||
  (off = 0x3C8 && old ≠ new)

/-- The Resizable BAR control registers: whether of VFs, and the BAR. -/
def rebarOf (off : Nat) : Option (Bool × Nat) :=
  match off with
  | 0x218 => some (false, 2)
  | 0x220 => some (false, 4)
  | 0x248 => some (true, 2)
  | 0x250 => some (true, 4)
  | _ => none

/-- The LTR message of a link carries HF_LTR while PF0 has LTR enabled and the link is up (R99, R128; log entry 20). -/
def ltrSend (s : State) (link : Nat) : State :=
  if linkUp s link && (cfgRd 0 (fnGet s link 0) 0x78).testBit 10 then emit s (.linkMsg link "LTR" [rdN s (hfLink link + 4)]) else s

/-- A configuration write to a function that answers. -/
def cfgWrite (s : State) (link fnum off be v : Nat) : State :=
  let m := beMask be
  match rebarOf off with
  | some (vf, bar) =>
    if fnum = 0 && be.testBit 1 then barResize s link vf bar (20 + fld v 8 6) else s
  | none =>
    let c := cfgMask fnum off
    let old := cfgSee s link fnum off
    let en := off = 0x90 && (fnGet s link fnum).msixAlloc = 0
    let new := mergeWord old ((if en then 0x40000000 else c.1) &&& m) (c.2 &&& m) v
    let flr := off = 0x58 && be.testBit 1 && v.testBit 15
    let s := if lockForbids off old new flr then tdispBreak s link fnum else s
    if flr then fnFlr s link fnum else
    match off with
    | 0x04 => fnBmeTo (cfgSet s link fnum off (putFld new 2 1 (fld old 2 1))) link fnum (new.testBit 2)
    | 0x44 => fnPower s link fnum (if fld new 0 2 = 3 then 3 else if fld new 0 2 = 0 then 0 else fld old 0 2)
    | 0x90 => releasePending (cfgSet s link fnum off new) link fnum
    | 0x158 =>
      let s := cfgSet s link fnum off new
      if old.testBit 0 ≠ new.testBit 0 then vfChange s link else s
    | 0x160 => if old = new then s else vfChange (cfgSet s link fnum off new) link
    | 0x78 =>
      let s := cfgSet s link fnum off new
      if fnum = 0 && !old.testBit 10 && new.testBit 10 then ltrSend s link else s
    | 0x208 =>
      let s := cfgSet s link fnum off new
      if old.testBit 0 && !new.testBit 0 then ptmLost s link 6 else s
    | _ => if c.1 = 0 && c.2 = 0 then s else cfgSet s link fnum off new

/-! The ends of host reads (R105 to R107, R115, R118). -/

/-- A read has ended: it is complete, or it has failed. A ring read waits for DESCRIPTOR_ARRIVE. -/
def readDue (s : State) (id : Nat) : State :=
  match aget s.host.reads id with
  | none => s
  | some h =>
    if h.left ≠ 0 && h.failed.isNone then s else
    let drop (s : State) : State := { s with host := { s.host with reads := adel s.host.reads id } }
    match h.work, h.failed with
    | .desc _ _ _, _ => s
    | .gather i idx, some sts => entFail (drop s) i idx sts
    | .gather i idx, none => elemsKnown (drop s) i idx (listElems h.data)
    | .payload i idx _, some sts => entFail (drop s) i idx sts
    | .payload i idx pos, none => payloadArrived (drop s) i idx pos h.data
    | .peer l f g, some sts => peerAnswer (drop s) l f g (peerSts sts) []
    | .peer l f g, none => peerAnswer (drop s) l f g 0 h.data

/-- The request that holds a tag of a link. -/
def tagReq (s : State) (link tag : Nat) : Option RdReq := s.host.reqs.find? (fun r => r.link == link && r.tag == some tag)

/-- A tag returns to its pool. -/
def tagFree (s : State) (link tag : Nat) : State :=
  showTags { s with host := { s.host with reqs := s.host.reqs.filter (fun r => !(r.link == link && r.tag == some tag)) } } link

/-- A read fails with a host-access status: it is reported, its requests that wait for tags go, and its work ends. -/
def readFail (s : State) (r : RdReq) (sts : Byte) : State :=
  match aget s.host.reads r.read with
  | none => s
  | some h =>
    if h.failed.isSome then s else
    let s := readErr s r.link r.fnum sts
    readDue { s with host := { s.host with
      reads := aset s.host.reads r.read { h with failed := some sts },
      reqs := s.host.reqs.filter (fun q => !(q.read == r.read && q.tag.isNone)) } } r.read

/-- A piece of a completion that the standard permits: within the request, and ending with it or on a 64-byte boundary. -/
def pieceOk (r : RdReq) (n : Nat) : Bool :=
  n ≠ 0 && r.got + n ≤ r.len && (r.got + n == r.len || (r.addr + r.got + n) % 64 == 0)

/-- A piece of data is placed; with the last of its request the tag is free. -/
def readPiece (s : State) (r : RdReq) (tag : Nat) (bs : List Byte) : State :=
  let last := r.got + bs.length = r.len
  let s := if last then tagFree s r.link tag else
    { s with host := { s.host with reqs := s.host.reqs.map (fun q => if q.link = r.link && q.tag = some tag then { q with got := r.got + bs.length } else q) } }
  if r.discard || r.quarantine then bump s (hfLink r.link + 0x18)
  else match aget s.host.reads r.read with
    | none => s
    | some h => readDue { s with host := { s.host with
        reads := aset s.host.reads r.read { h with data := patch h.data (r.addr - h.addr + r.got) bs, left := if last then h.left - 1 else h.left } } } r.read

end Sys2Proof.Machine
end

