-- ==== Sys2Proof/Machine/Flight.lean ====
section
/-! DEFINITION. Machine/Flight.lean: the events of the flights: entry, steps, retires, re-entries, the glean table's timers
(chapters 8 to 11), the inline cipher engines' ends (chapter 13), and the dispatch between the flights (chapter 12). -/

namespace Sys2Proof.Machine

/-! Entry. -/

/-- An ETH_TX frame enters its flight: its entry has begun (R199) and the packet takes over its departure entry (R417). A
packet whose entry has completed or was restarted meanwhile goes. -/
def txBegin (s : State) (k : Pkt) : State × Option Pkt :=
  match k.origin with
  | none => (s, some k)
  | some o =>
    match entFind s o with
    | some (i, _, e) =>
      if e.pkt ≠ some k.id || e.result.isSome then (endPkt s { k with origin := none }, none)
      else
        let d := leAt e.desc 0x10 8
        (chanUpd s i (fun c => { c with ents := c.ents.map (fun x => if x.idx = o.2 then { x with begun := true, dep := false } else x) }),
         some { k with depart := if e.dep then some d else none, late := e.late })
    | none => (endPkt s { k with origin := none }, none)

/-- The slot arbiter of a role's flight admits what its first source with work offers (R12): a replay, a wire frame, a
re-entry, then the third source, whose packets and markers the operand chooses between. -/
def flightEntry (s : State) (p role fl : Nat) (mark : Bool) : State :=
  let e := entryGet s role fl
  match e.replay with
  | (k, seq, ns, el) :: rest =>
    let s := entrySet s role fl { e with replay := rest }
    let c : Climb := { pkt := k, seq := seq, entryNs := ns, entryEl := el, bank := flightBank s p fl (mdSheaf k.md), replay := true }
    bump (joinFlight s p role fl c 0) (Reg.STA_RET_REPLAY_CNT p fl)
  | [] =>
    let parsed (s : State) (k : Pkt) : State :=
      match txBegin s k with
      | (s, none) => s
      | (s, some k) =>
      let r := parsePkt s p role k
      let b := profOf p role (mdSrc r.1.md)
      let s := if r.2 then bump s (Reg.STA_PROF_2SLOT_CNT b.1 b.2) else s
      let k := { r.1 with stair := p }
      joinFlight s p role fl (newClimb s p fl k false) (pktSlots k)
    match e.wire with
    | k :: rest => parsed (entrySet s role fl { e with wire := rest }) k
    | [] =>
      match e.again with
      | k :: rest =>
        let s := entrySet s role fl { e with again := rest }
        let k := { k with stair := if fl = 0 then p else k.stair }
        joinFlight s p role fl (newClimb s p fl { k with single := false } true) (if k.single then 1 else pktSlots k)
      | [] =>
        let more (m : Marker) (rest : List Marker) : List Marker := if m.n ≤ 1 then rest else { m with idx := m.idx + 1, n := m.n - 1 } :: rest
        match e.marks, e.other with
        | m :: rest, [] => enterMarker (entrySet s role fl { e with marks := more m rest }) p role fl { m with n := 1 }
        | [], k :: rest => parsed (entrySet s role fl { e with other := rest }) k
        | m :: ms, k :: ks =>
          if mark then enterMarker (entrySet s role fl { e with marks := more m ms }) p role fl { m with n := 1 }
          else parsed (entrySet s role fl { e with other := ks }) k
        | [], [] => s

/-- INGRESS_ENTRY (R12, R316): a slot of a role's flight; `fl` 1 admits the re-entries, replays and markers of its egress
flight, which its dispatches join directly. -/
def execIngressEntry (role fl : Nat) (mark : Bool) (s : State) : Host.Outcome State Fault Refusal :=
  .next (match (if fl < 2 then stairOf s role else none) with
    | some p => flightEntry s p role fl mark
    | none => s)

/-! Steps. -/

/-- Everything ahead of a climb has passed the step it is to run. -/
def aheadDone (cs : List Climb) (c : Climb) : Bool := (cs.takeWhile (fun x => x.seq ≠ c.seq)).all (fun x => c.step < x.step)

/-- What a climb's reads see of the packets ahead. -/
def viewOf (cs : List Climb) (c : Climb) : View :=
  { earlier := (cs.takeWhile (fun x => x.seq ≠ c.seq)).filterMap (fun x => if x.intents.isEmpty then none else some (x.seq, x.intents)),
    own := c.intents,
    marks := (cs.takeWhile (fun x => x.seq ≠ c.seq)).filterMap (fun x => x.park) }

/-- The transport engine at the last ingress step (R499): the queue pair's line is met, or the packet is marked. -/
def qpMeet (s : State) (c : Climb) : State × Climb :=
  if c.marker.isSome || c.gone || mdStatus c.pkt.md ≠ 0 then (s, c) else
  match rmNeeds s c.pkt with
  | none => (s, c)
  | some i =>
    match qpTouch s i with
    | (s, true) => (s, c)
    | (s, false) => (s, { c with park := some (.qp i), shed := c.shed ++ c.intents, intents := [] })

/-- A live climb passes its next step, meeting `ecc` corrected errors in table SRAM (R276). -/
def stepLive (s : State) (p fl seq ecc : Nat) : State :=
  let cs := (flightGet s p fl).climbs
  match cs.find? (fun c => c.seq == seq) with
  | some c =>
    if flightLen fl ≤ c.step || !aheadDone cs c then s else
    let r := runStep s p p fl c (viewOf cs c)
    let r := if ecc = 0 then r else (bump r.1 (Reg.STA_TBL_ECC_CNT p) ecc, r.2)
    let r := if fl = 0 && c.step = 19 then qpMeet r.1 r.2 else r
    let c' := r.2
    let s := flightUpd r.1 p fl (fun f => { f with climbs := f.climbs.map (fun x => if x.seq = seq then c' else x) })
    let s := if c'.gone && !c.gone then discardAt s p fl c' true else s
    let held := ((flightGet s p fl).climbs.filter (fun x => x.marker.isNone && !x.intents.isEmpty)).length
    if rdN s (Reg.STA_RET_BUF_HWM p fl) < held then wrN s (Reg.STA_RET_BUF_HWM p fl) held else s
  | none => s

/-- A twin passes its next step: its state reads go to the live stair's blocks, without bypass (R345). -/
def stepTwin (s : State) (q fl seq : Nat) : State :=
  let ts := twinsOf s q fl
  match ts.find? (fun c => c.seq == seq), stairOf s (rhStair s) with
  | some c, some p =>
    if flightLen fl ≤ c.step || !aheadDone ts c then s else
    let r := runStep s q p fl c {}
    setTwins r.1 q fl (ts.map (fun x => if x.seq = seq then r.2 else x))
  | _, _ => s

/-- FLIGHT_STEP (R356): a packet of a flight of physical stair p that serves, named by its sequence, passes one step; or a twin
does. An uncorrectable error of a table SRAM word that a live step reads is a MACHINE_CHECK (R276). -/
def execFlightStep (p fl seq : Nat) (kind : StepKind) (s : State) : Host.Outcome State Fault Refusal :=
  .next (if p < 9 && fl < 2 then
    match kind with
    | .twin => stepTwin s p fl seq
    | .live ecc => if unitState s p = 1 then stepLive s p fl seq ecc else s
  else s)

/-! Retires. -/

/-- The retire of a live climb of an ingress flight (R330). -/
def ingressRetire (s : State) (p role : Nat) (c : Climb) (rest : List Climb) : State :=
  let note (s : State) (md : List Byte) (c : Climb) : State := ledger s p role 0 { c with pkt := { c.pkt with md := md } }
  if c.gone then
    let s := keepOutcome (popClimb s p 0 c rest) role 0 c c.pkt.md true
    let r := retireGone s p role 0 c
    note r.1 r.2 c
  else
    let k := retirePkt c
    let s := if c.hdrOvf then bump s (Reg.STA_UC_HDR_OVF_CNT p 0) else s
    match resolveIn s p p role c.hdrOvf k with
    | (s, .glean key) =>
      let c' := { c with shed := c.shed ++ c.intents, intents := [] }
      let s := discardAt s p 0 c' false
      let s := popClimb s p 0 c' ((flightGet s p 0).climbs.drop 1)
      let s := keepOutcome s role 0 c k.md true
      let r := parkPkt s p 0 (.glean p key) (freshPkt k) k.md
      note r.1 r.2 c'
    | (s, .consumed k) =>
      let s := keepOutcome (applyAll (popClimb s p 0 c rest) p 0 c (mdLen k.md)) role 0 c k.md false
      endPkt (note s k.md c) k
    | (s, .go k) =>
      let s := keepOutcome (applyAll (popClimb s p 0 c rest) p 0 c (mdLen k.md)) role 0 c k.md false
      let r := disposeIn (gleanStore s p role k) p role k
      note r.1 r.2 { c with pkt := k }

/-- The retire of a live climb of an egress flight. -/
def egressRetire (s : State) (p role : Nat) (c : Climb) (rest : List Climb) (sts : Byte) : State :=
  let note (s : State) (md : List Byte) (c : Climb) : State := ledger s p role 1 { c with pkt := { c.pkt with md := md, cls := 0xFF } }
  let s := popClimb s p 1 c rest
  if c.gone then
    let r := retireGone (keepOutcome s role 1 c c.pkt.md true) p role 1 c
    note r.1 r.2 c
  else
    let k := retirePkt c
    let s := if c.hdrOvf then bump s (Reg.STA_UC_HDR_OVF_CNT p 1) else s
    let s := keepOutcome (applyAll s p 1 c (mdLen k.md)) role 1 c k.md false
    match mdDisp k.md with
    | 0 | 2 | 4 => leave (note s k.md c) p role k sts
    | 3 => let r := puntPkt s p role 1 k; note r.1 r.2 c
    | _ => endAt (note s k.md c) 1 k

/-- The retire of a twin, once its live packet has retired (R346, R347). -/
def twinRetire (s : State) (fl : Nat) : State :=
  match spareStair s with
  | none => s
  | some q =>
    match twinsOf s q fl with
    | [] => s
    | t :: rest =>
      if t.step < flightLen fl then s else
      match s.sheaf.live.find? (fun o => o.flight == fl && some o.seq == t.twin) with
      | none => s
      | some o =>
        let s := setTwins { s with sheaf := { s.sheaf with live := s.sheaf.live.filter (fun x => x ≠ o) } } q fl rest
        let skip := bump s Reg.LD_RH_SKIP_CNT
        if o.skip || t.gone then skip else
        let k := retirePkt t
        if fl = 1 then twinCompare s o k.md t.intents t.steps else
        match stairOf s (rhStair s) with
        | some p =>
          match (resolveIn s p p (rhStair s) t.hdrOvf k).2 with
          | .go k => twinCompare s o k.md t.intents t.steps
          | .consumed k => twinCompare s o k.md t.intents t.steps
          | .glean _ => skip
        | none => skip

/-- A stair that is fenced retires its oldest climb: no intent is written and the landing refuses the hand-off (R583); a punt
is dropped at its mesh port, once (R585). The climb stays for the replay. -/
def fencedRetire (s : State) (role fl : Nat) : State :=
  match aget s.unit.takeovers role with
  | some (f, _, _) =>
    match (flightGet s f fl).climbs with
    | c :: rest =>
      if c.marker.isNone && c.step = flightLen fl then
        let s := flightUpd s f fl (fun x => { x with climbs := { c with step := c.step + 1 } :: rest })
        if mdDisp c.pkt.md = 3 then staleDrop s Reg.MS_STALE_SRC_CNT f else s
      else s
    | [] => s
  | none => s

/-- INGRESS_RETIRE (R330): the oldest climb of a role's ingress flight, or the oldest ingress twin. -/
def execIngressRetire (role : Nat) (twin : Bool) (s : State) : Host.Outcome State Fault Refusal :=
  .next (if twin then twinRetire s 0 else
    match stairOf s role with
    | some p =>
      match (flightGet s p 0).climbs with
      | c :: rest => if c.marker.isNone && 20 ≤ c.step then ingressRetire s p role c rest else s
      | [] => s
    | none => fencedRetire s role 0)

/-- EGRESS_RETIRE (R330): the oldest climb of a role's egress flight, or the oldest egress twin; `sts` is the status of the
host writes that the packet leads to. -/
def execEgressRetire (role : Nat) (twin : Bool) (sts : Byte) (s : State) : Host.Outcome State Fault Refusal :=
  .next (if twin then twinRetire s 1 else
    match stairOf s role with
    | some p =>
      match (flightGet s p 1).climbs with
      | c :: rest => if c.marker.isNone && 12 ≤ c.step then egressRetire s p role c rest sts else s
      | [] => s
    | none => fencedRetire s role 1)

/-! Re-entries and the glean table's timers. -/

/-- REENTRY_RELEASE (R302, R333, R499): the packets parked under the key of a packet re-enter in arrival order, once what
they wait for is present. -/
def execReentryRelease (id : Nat) (s : State) : Host.Outcome State Fault Refusal :=
  .next (match s.land.hall.find? (fun x => x.pkt.id == id) with
    | some x => if keyReady s x.key then unpark s (fun y => sameKey y.key x.key && y.stair == x.stair) (unitRole s x.stair) else s
    | none => s)

/-- GLEAN_WAIT_EXPIRE (R261). -/
def execGleanWaitExpire (id : Nat) (s : State) : Host.Outcome State Fault Refusal :=
  .next (match s.land.hall.find? (fun x => x.pkt.id == id) with
    | some x =>
      match x.key with
      | .glean p _ =>
        let wait := rdF s (Reg.STA_GLEAN_CTL p) 16 16
        if wait ≠ 0 && x.since + wait * usUnits ≤ s.time.elapsed then
          let s := { s with land := { s.land with hall := s.land.hall.filter (fun y => y ≠ x) } }
          let s := raiseLim (bump s (Reg.STA_GLEAN_WAIT_EXP_CNT p)) (stairSrc p 3) 0 []
          entryUpd s (unitRole s x.stair) x.flight (fun e => { e with again := e.again ++ [{ x.pkt with forced := true, single := true }] })
        else s
      | _ => s
    | none => s)

/-- GLEAN_AGE (R262): the entry in a slot has reached LIFE. -/
def execGleanAge (p slot : Nat) (s : State) : Host.Outcome State Fault Refusal :=
  .next (match aget (entriesOf s p 62) slot with
    | some e =>
      let life := rdF s (Reg.STA_GLEAN_CTL p) 0 16
      if p < 9 && life ≠ 0 && life ≤ sub32 (bornNow s) (leAt e.data 12 4) then
        bump (setEntries s p 62 (adel (entriesOf s p 62) slot)) (Reg.STA_GLEAN_AGED_CNT p)
      else s
    | none => s)

/-! Inline cipher engines (R398, R445, R446, R467). -/

/-- A packet leaves its queue unverified: cause 7 counts it (R398). -/
def authDrop (s : State) (q id : Nat) : State :=
  match queueTake s q id with
  | (s, some x) =>
    let s := if x.copying then regSub s Reg.LD_OVF_BACKLOG x.units else s
    refuse s x.pkt q 7
  | (s, none) => s

/-- The packet is replaced by what its verification made of it, and may be dispatched. -/
def verified (s : State) (q id : Nat) (k : Pkt) : State :=
  nodeUpd s 0 q (fun n => { n with pkts := n.pkts.map (fun x => if x.pkt.id = id then { x with pkt := { k with unverified := false } } else x) })

/-- The ingress engine deals with a packet of a queue: it verifies it, drops it, or sets it aside. -/
def verifyPkt (s : State) (q id : Nat) (k : Pkt) : State :=
  let p := k.stair
  let grmt := rmActs k.md
  let csum := !grmt || udpOk k.md (pktBytes k)
  let s := if csum then s else bump s Reg.RM_CSUM_ERR_CNT
  let qp := cyQp k.md
  match (if cyMode k.md = 1 then ctxOf s qp (cyCtx k.md) else none) with
  | none =>
    if !csum then authDrop (authFail s p 0 none) q id
    else if cyMode k.md ≠ 1 then verified s q id k
    else if !fmtOk k.md 1 (pktBytes k).length then authDrop (authFail (fmtCount s p) p 0 none) q id
    else authDrop (authFail (noKeyCount s p 0) p 0 none) q id
  | some (n, c) =>
    let fail (s : State) : State := authDrop (authFail s p c.slice (some (qp, n))) q id
    let wait (s : State) (e : Nat) : State :=
      if (asideIn s p 0).length ≥ 64 then
        match queueTake s q id with
        | (s, some x) => endSent (depRelease (bump (if x.copying then regSub s Reg.LD_OVF_BACKLOG x.units else s) (Reg.CY_IN_ASIDE_DROP_CNT p)) x.pkt) x.pkt
        | (s, none) => s
      else cyUpd s (fun y => { y with aside := y.aside ++ [{ stair := p, flight := 0, qp := qp, ctx := n, dir := 1, epoch := e, queue := q, id := id }] })
    if !csum then fail s
    else if !fmtOk k.md 1 (pktBytes k).length then fail (fmtCount s p)
    else if asideCtx s p 0 qp n then wait s c.rxEpoch
    else match verify s p qp n c k with
      | (s, .ok k) => verified (bump s (Reg.CY_IN_VERIFY_CNT p)) q id k
      | (s, .failed) => fail s
      | (s, .noKey) => fail (noKeyCount s p c.slice)
      | (s, .miss e) => wait s e

/-- INLINE_VERIFY_DONE (R398): the ingress engine finishes with a packet of a queue. -/
def execInlineVerifyDone (q id : Nat) (s : State) : Host.Outcome State Fault Refusal :=
  .next (match (nodeGet s 0 q).pkts.find? (fun x => x.pkt.id == id) with
    | some x =>
      if x.pkt.unverified && !s.cy.aside.any (fun a => a.flight == 0 && a.queue == q && a.id == id) then verifyPkt s q id x.pkt else s
    | none => s)

/-- A packet set aside proceeds: at ingress it is verified again; at egress it is sealed and goes out. -/
def asideGo (s : State) (a : Aside) : State :=
  if a.flight = 0 then
    match (nodeGet s 0 a.queue).pkts.find? (fun x => x.pkt.id == a.id) with
    | some x => verifyPkt s a.queue a.id x.pkt
    | none => s
  else
    match a.pkt, ctxGet s a.qp a.ctx with
    | some k, some c =>
      let s := begunInc s k.root
      match inlineKey s a.stair a.qp a.ctx c a.dir a.epoch with
      | .have key => sendOut (bump s (Reg.CY_IN_ENC_CNT a.stair)) (sealPkt k key a.nonce) STS_OK
      | .miss => cyUpd (begunDec s k.root) (fun y => { y with aside := y.aside ++ [a] })
      | .noKey => endAt (noKeyCount s a.stair c.slice) 1 k
    | some k, none => endAt (noKeyCount (begunInc s k.root) a.stair 0) 1 k
    | none, _ => s

/-- KEY_DERIVED (R446): the derived key that a context waits for arrives in a stair's cache, and what was set aside for the
context proceeds in order. -/
def execKeyDerived (p fl : Nat) (qp : Bool) (ctx : Nat) (s : State) : Host.Outcome State Fault Refusal :=
  .next (
    let mine (a : Aside) : Bool := a.stair == p && a.flight == fl && a.qp == qp && a.ctx == ctx
    match s.cy.aside.find? mine with
    | none => s
    | some a =>
      let s := match ctxGet s qp ctx with
        | some c =>
          match (if c.state = 2 then none else aget s.cy.slots c.slot) with
          | some k =>
            let side := if a.dir = 0 then c.side else 1 - c.side
            bump (cacheFill s p (dkCode qp ctx a.dir a.epoch) (derived k.key (labelFor c.label side a.epoch))) Reg.KS_DERIVE_CNT
          | none => s
        | none => s
      let go := s.cy.aside.filter mine
      go.foldl asideGo (cyUpd s (fun y => { y with aside := y.aside.filter (fun a => !mine a) })))

/-! Dispatch (R409 to R411, R418). -/

/-- A root's chosen packet is dispatched; with the slot of its egress flight taken in this core clock the root keeps it (R410). -/
def dispatchFrom (s : State) (root q : Nat) : State :=
  let nd := nodeGet s 0 q
  match readyHead s nd with
  | none => s
  | some x =>
    let h := if mdDisp x.pkt.md = 2 then mdHandle x.pkt.md else 0
    if !targetOk s nd h then bump (queueDrop s q x.pkt.id) Reg.SC_TARGET_DROP_CNT
    else match stairOf s x.stair with
      | none => s
      | some p =>
        if aget s.land.slots x.stair = some s.time.clocks then
          { s with land := { s.land with kept := aset s.land.kept root (q, x.pkt.id) } }
        else
        let s := { s with land := { s.land with slots := aset s.land.slots x.stair s.time.clocks, kept := adel s.land.kept root } }
        let n := if x.pool = 2 then x.units else x.pkt.grains
        let timed := x.pkt.depart.isSome
        let g := qGroup nd
        let cl := 8 * root + gClass (nodeGet s 1 g)
        let s := nodeUpd (nodeUpd (nodeUpd (nodeUpd s 0 q (fun y => nodeCharge s y n)) 1 g (fun y => nodeCharge s y n)) 2 cl (fun y => nodeCharge s y n)) 3 root (fun y => nodeCharge s y n)
        match queueTake s q x.pkt.id with
        | (s, none) => s
        | (s, some x) =>
          let s := if timed then turnSettle s q else
            let s := nodeUpd s 1 g (fun y => turnPass (groupQueues (tick s) g) y q (nc nd 0 8 8))
            nodeUpd s 2 cl (fun y => turnPass (classGroups (tick s) root (cl % 8)) y g (nc (nodeGet s 1 g) 0 8 8))
          let s := nodeTally s q (fun y => { y with deq := (y.deq + 1) % 2 ^ 64, deqGr := (y.deqGr + n) % 2 ^ 64 })
          let s := bump64 s Reg.SC_DISP_CNT_LO
          let s := if timed then regSub (bump s Reg.SC_TIMED_CNT) Reg.FT_DEP_USED 1 else s
          let md := mdPut x.pkt.md 8 16 16 (sheafCur s)
          let k := { x.pkt with md := md, md0 := md, hdr0 := x.pkt.hdr, root := root, dst := h, depart := none }
          joinFlight (begunInc s root) p x.stair 1 (newClimb s p 1 k false) (pktSlots k)

/-- DISPATCH (R411). -/
def execDispatch (root : Nat) (s : State) : Host.Outcome State Fault Refusal :=
  .next (if root < 48 then
    match (keptQueue s root).orElse (fun _ => chooseQueue s root) with
    | some q => dispatchFrom s root q
    | none => s
  else s)

/-- DEPARTURE_RELEASE (R418): the head packet of a queue reaches its release point. -/
def execDepartureRelease (q : Nat) (s : State) : Host.Outcome State Fault Refusal :=
  .next (match (nodeGet s 0 q).pkts with
    | x :: rest =>
      match x.pkt.depart with
      | some d =>
        if x.released || nowNs s < releasePoint d then s
        else
          let s := if x.pkt.late then lateFiring s else s
          nodeUpd s 0 q (fun n => { n with pkts := { x with released := true } :: rest })
      | none => s
    | [] => s)

end Sys2Proof.Machine
end

