-- ==== Sys2Proof/Machine/SvIo.lean ====
section
/-! DEFINITION. Machine/SvIo.lean: the NVMe I/O commands, their backings and the capsules of remote namespaces (chapter 15). -/

namespace Sys2Proof.Machine

/-! Fetching (R510, R514, R515). -/

/-- A submission queue from which the controller may fetch, and whose turn it is. -/
def sqReady (q : SvSq) : Bool := q.head ≠ q.tail

def sqTurn (c : Ctrl) : Option Nat :=
  let full := (c.sqs.filter (fun e => sqReady e.2)).map (fun e => e.1)
  (full.find? (fun y => c.turn < y)).orElse (fun _ => full.head?)

/-- A host controller fetches its next command from queue `q`: it is enabled and not shut down, its function may issue
requests, its slice is ACTIVE and not being frozen, and the device has room. -/
def fetchable (s : State) (i q : Nat) : Bool :=
  match aget s.sv.ctrls i with
  | some c => c.kind == 0 && c.rdy && c.cc.testBit 0 && c.shst == 0 && sqTurn c == some q && ctrlWrites s c && svInflight s < 262144 &&
      (aget s.slices c.slice).any (fun x => x.state == 1 && x.freeze.isNone) && mayRead s c.slice
  | none => false

/-- Namespaces' self-test reads pause while a command is outstanding on them (R533). -/
def testTouch (s : State) (m : SvCmd) : State :=
  svUpd s (fun v => { v with ctrls := amap v.ctrls (fun _ c => if testCovers c m then { c with test := c.test.map (fun t => { t with paused := true }) } else c) })

/-- A command enters the device: its number. -/
def cmdNew (s : State) (m : SvCmd) : Nat × State :=
  (s.sv.next, showFlight (svUpd s (fun v => { v with cmds := aset v.cmds v.next m, next := v.next + 1 })))

/-- A controller reads pieces of host memory, which the command answers from its `k`-th read on, one for each piece (R104, R106). -/
def svFetch (s : State) (i : Nat) (ps : List (Nat × Nat)) (env : Env) (k : Nat) : State :=
  match aget s.sv.ctrls i with
  | none => s
  | some c => (List.range ps.length).foldl (fun s j => (slFetch s c.slice [(ps[j]?).getD (0, 0)] 0 (envRead env (k + j))).1) s

/-- The head of a queue moves past a fetched entry, which has been read; its number in the device. -/
def fetchCmd (s : State) (i q : Nat) (sqe : List Byte) : Nat × State :=
  let at' := ((aget s.sv.ctrls i).bind (fun c => (aget c.sqs q).map (fun y => y.base + 64 * y.head))).getD 0
  let s := svFetch s i [(at', 64)] { reads := [.ok sqe] } 0
  let cq := ((aget s.sv.ctrls i).bind (fun c => (aget c.sqs q).map (fun y => y.cq))).getD 0
  let s := ctrlUpd s i (fun c => { c with turn := q, sqs := aupd c.sqs q (fun y => { y with head := (y.head + 1) % y.size }) })
  let r := cmdNew s { ctrl := i, sq := q, cq := cq, sqe := fit 64 sqe, stage := .waiting }
  let follow (m : SvCmd) : SvCmd := if m.ctrl = i && m.stage == .abortAhead q (sqeCid sqe) then { m with stage := .abort r.1 } else m
  (r.1, svUpd r.2 (fun v => { v with cmds := amap v.cmds (fun _ m => follow m) }))

/-! PRPs (R512). -/

/-- Bytes of a memory page: CC.MPS. -/
def mpsBytes (c : Ctrl) : Nat := 2 ^ (12 + fld c.cc 7 4)

/-- The entries of a PRP list, read from host memory: `n` entries at `addr`, the last entry of a page naming the next list. -/
def prpList (page addr n : Nat) (env : Env) : Nat ⊕ (List Nat × Nat) :=
  let room := (page - addr % page) / 8
  let ents (bs : List Byte) (k : Nat) : List Nat := (List.range k).map (fun j => leAt bs (8 * j) 8)
  if addr % 4 ≠ 0 then .inl NV_FIELD
  else if n ≤ room then
    match envRead env 0 with
    | .ok bs => .inr (ents bs n, 1)
    | .failed _ => .inl NV_TRANSFER
  else
    match envRead env 0, envRead env 1 with
    | .ok a, .ok b =>
      let e := ents a room
      if (e.getLastD 0) % page ≠ 0 then .inl NV_FIELD else .inr (e.take (room - 1) ++ ents b (n - (room - 1)), 2)
    | _, _ => .inl NV_TRANSFER

/-- The reads of host memory that a PRP list takes. -/
def prpListReads (page addr n : Nat) (env : Env) : List (Nat × Nat) :=
  let room := (page - addr % page) / 8
  if addr % 4 ≠ 0 then []
  else if n ≤ room then [(addr, 8 * n)]
  else match envRead env 0 with
    | .ok a =>
      let next := leAt a (8 * (room - 1)) 8
      if next % page = 0 then [(addr, 8 * room), (next, 8 * (n - (room - 1)))] else [(addr, 8 * room)]
    | .failed _ => [(addr, 8 * room)]

/-- The pieces of host memory of a transfer, and how many host reads their list took. -/
def prpWalk (page prp1 prp2 len : Nat) (env : Env) : Nat ⊕ (List (Nat × Nat) × Nat) :=
  let first := min len (page - prp1 % page)
  let rest := len - first
  if prp1 % 4 ≠ 0 then .inl NV_FIELD
  else if rest = 0 then .inr ([(prp1, first)], 0)
  else if rest ≤ page then (if prp2 % page ≠ 0 then .inl NV_FIELD else .inr ([(prp1, first), (prp2, rest)], 0))
  else
    let n := ceilDiv rest page
    match prpList page prp2 n env with
    | .inl e => .inl e
    | .inr (es, used) =>
      if es.any (fun a => a % page ≠ 0) then .inl NV_FIELD
      else .inr ((prp1, first) :: (List.range n).map (fun k => ((es[k]?).getD 0, min page (rest - k * page))), used)

/-- The reads that the walk takes. -/
def prpWalkReads (page prp1 prp2 len : Nat) (env : Env) : List (Nat × Nat) :=
  let rest := len - min len (page - prp1 % page)
  if prp1 % 4 ≠ 0 || rest ≤ page then [] else prpListReads page prp2 (ceilDiv rest page) env

/-- The pieces of a command's own PRPs. -/
def cmdPrps (c : Ctrl) (sqe : List Byte) (len : Nat) (env : Env) : Nat ⊕ (List (Nat × Nat) × Nat) :=
  prpWalk (mpsBytes c) (leAt sqe 24 8) (leAt sqe 32 8) len env

/-- A controller's command has walked its PRPs. -/
def prpRead (s : State) (i : Nat) (c : Ctrl) (sqe : List Byte) (len : Nat) (env : Env) : State :=
  svFetch s i (prpWalkReads (mpsBytes c) (leAt sqe 24 8) (leAt sqe 32 8) len env) env 0

/-- Reads the pieces of a transfer from host memory, from read `k` on. -/
def prpData (env : Env) (k : Nat) (prps : List (Nat × Nat)) : Option (List Byte) :=
  (List.range prps.length).foldl (fun acc j =>
    match acc, envRead env (k + j) with
    | some bs, .ok b => some (bs ++ fit ((prps[j]?).getD (0, 0)).2 b)
    | _, _ => none) (some [])

/-- Spreads data over pieces of host memory. -/
def prpSpread : List (Nat × Nat) → List Byte → List (Nat × List Byte)
  | [], _ => []
  | (a, n) :: ps, bs => if bs.isEmpty then [] else (a, bs.take n) :: prpSpread ps (bs.drop n)

/-- PSDT and FUSE are zero. -/
def plainSqe (sqe : List Byte) : Bool := leAt sqe 1 1 &&& 0xC3 == 0

/-! Checks of an I/O command (R512, R513, R516, R537, R538). -/

/-- What a command that passes its checks acts on: LBA ranges, pieces of host memory, data read at its fetch, and how many
host reads were made. -/
structure IoPlan where
  ranges : List (Nat × Nat) := []
  prps   : List (Nat × Nat) := []
  data   : List Byte := []
  used   : Nat := 0
deriving DecidableEq, Repr

/-- The namespace that a command names, in a state that serves it. -/
def ioNs (s : State) (c : Ctrl) (sqe : List Byte) : Nat ⊕ (Nat × Ns) :=
  if !plainSqe sqe then .inl NV_FIELD else
  match (aget c.nss (sqeNsid sqe)).bind (fun n => (aget s.sv.nss n).map (fun x => (n, x))) with
  | none => .inl NV_NS
  | some (n, x) => if x.state = 1 then .inl NV_NOT_READY else if x.state = 2 then .inl NV_DENIED else .inr (n, x)

def lbaOk (x : Ns) (lba cnt : Nat) : Bool := lba + cnt ≤ x.size

/-- Bytes of the data, or of the list, that a Read, a Write or a Dataset Management moves. -/
def ioLen (x : Ns) (sqe : List Byte) : Nat :=
  if sqeOp sqe = 9 then 16 * (fld (sqeDw sqe 10) 0 8 + 1)
  else if sqeOp sqe = 8 then 0
  else (fld (sqeDw sqe 12) 0 16 + 1) * nsBlk x

/-- What refuses a Read, a Write or a Dataset Management before its PRPs are looked at. -/
def ioPre (x : Ns) (sqe : List Byte) : Option Nat :=
  if sqeOp sqe = 9 then (if sqeDw sqe 10 / 256 ≠ 0 || sqeDw sqe 11 / 8 ≠ 0 then some NV_FIELD else none)
  else if sqeDw sqe 12 &&& 0xBFFF0000 ≠ 0 || sqeDw sqe 13 ≠ 0 || ioLen x sqe > 262144 then some NV_FIELD
  else if !lbaOk x (sqeLba sqe) (fld (sqeDw sqe 12) 0 16 + 1) then some NV_LBA else none

/-- Read and Write: NLB and FUA are the options. -/
def checkRw (c : Ctrl) (x : Ns) (sqe : List Byte) (env : Env) : Nat ⊕ IoPlan :=
  let cnt := fld (sqeDw sqe 12) 0 16 + 1
  let len := cnt * nsBlk x
  if sqeDw sqe 12 &&& 0xBFFF0000 ≠ 0 || sqeDw sqe 13 ≠ 0 || len > 262144 then .inl NV_FIELD
  else if !lbaOk x (sqeLba sqe) cnt then .inl NV_LBA
  else if c.kind = 1 then .inr { ranges := [(sqeLba sqe, cnt)] }
  else match cmdPrps c sqe len env with
    | .inl e => .inl e
    | .inr (ps, k) => .inr { ranges := [(sqeLba sqe, cnt)], prps := ps, used := k }

/-- Write Zeroes: NLB and DEAC. -/
def checkZeroes (_c : Ctrl) (x : Ns) (sqe : List Byte) (_env : Env) : Nat ⊕ IoPlan :=
  let cnt := fld (sqeDw sqe 12) 0 16 + 1
  if sqeDw sqe 12 &&& 0xFDFF0000 ≠ 0 || sqeDw sqe 13 ≠ 0 then .inl NV_FIELD
  else if !lbaOk x (sqeLba sqe) cnt then .inl NV_LBA
  else .inr { ranges := [(sqeLba sqe, cnt)] }

/-- The ranges of a Dataset Management list. -/
def dsmRanges (n : Nat) (bs : List Byte) : List (Nat × Nat) := (List.range n).map (fun k => (leAt bs (16 * k + 8) 8, leAt bs (16 * k + 4) 4))

/-- Dataset Management: up to 256 ranges; IDR and IDW are ignored. A capsule carries its list as `capsule`. -/
def checkDsm (capsule : List Byte) (c : Ctrl) (x : Ns) (sqe : List Byte) (env : Env) : Nat ⊕ IoPlan :=
  let n := fld (sqeDw sqe 10) 0 8 + 1
  let done (bs : List Byte) : Nat ⊕ IoPlan :=
    let rs := dsmRanges n bs
    if rs.all (fun r => lbaOk x r.1 r.2) then .inr { ranges := rs, data := bs } else .inl NV_LBA
  if sqeDw sqe 10 / 256 ≠ 0 || sqeDw sqe 11 / 8 ≠ 0 then .inl NV_FIELD
  else if c.kind = 1 then done (fit (16 * n) capsule)
  else match cmdPrps c sqe (16 * n) env with
    | .inl e => .inl e
    | .inr (ps, k) => match prpData env k ps with
      | none => .inl NV_TRANSFER
      | some bs => done bs

/-! Backings (R518, R519, R539). -/

/-- Data of a namespace's blocks as its backing holds them. -/
def nsEncBlocks (s : State) (x : Ns) (lba : Nat) (bs : List Byte) : List Byte :=
  (List.range (ceilDiv bs.length (nsBlk x))).flatMap (fun k => nsEnc s x (lba + k) (slice bs (k * nsBlk x) (nsBlk x)))

def nsDecBlocks (s : State) (x : Ns) (lba : Nat) (bs : List Byte) : List Byte :=
  (List.range (ceilDiv bs.length (nsBlk x))).flatMap (fun k => nsDec s x (lba + k) (slice bs (k * nsBlk x) (nsBlk x)))

/-- The submission entry of a request capsule, or of a drive command: its own CID and NSID, and no PRPs. -/
def capsuleSqe (m : SvCmd) (id : Nat) (x : Ns) : List Byte :=
  patch (patch (patch (fit 64 m.sqe) 2 (le 2 id)) 4 (le 4 x.nsid)) 24 (List.replicate 16 0)

/-- The root ports whose drives work on a command: that of a pass-through drive; the member of a pool that its first unit
alternates to, for a Read (R535); every member that is present, one that is being rebuilt too, for a change (R535, R536). -/
def drvPorts (s : State) (m : SvCmd) (x : Ns) : List Nat :=
  if x.backing = 2 then [x.target] else
  if x.backing = 1 then [] else
  match aget s.sv.pools x.target with
  | none => []
  | some p =>
    let live := (List.range p.members.length).filter (memberGood p)
    let u := unitOf x (m.ranges.headD (0, 0)).1 % 2
    let there := (List.range p.members.length).filter (fun k => (p.members[k]?).any (fun y => y.present))
    let ks := if sqeOp m.sqe ≠ 2 then there else if live.contains u then [u] else live.take 1
    ks.filterMap (fun k => (p.members[k]?).map (fun y => y.port))

def rpUpd (s : State) (p : Nat) (f : RootPort → RootPort) : State :=
  { s with host := { s.host with rps := aset s.host.rps p (f (agetD s.host.rps p {})) } }

/-- The root port is contained by DPC (R139). -/
def rpContained (s : State) (p : Nat) : Bool := (agetD s.host.rps p {}).dpc

/-- A command's requests are outstanding to its drives; a contained port forwards none, and ends it at once (R139). -/
def drvOpen (s : State) (id : Nat) (m : SvCmd) (x : Ns) : State :=
  (drvPorts s m x).foldl (fun s p =>
    if rpContained s p then bump s (Reg.RP_ABORT_CNT p)
    else rpUpd s p (fun r => { r with reqs := aset r.reqs id { write := sqeOp m.sqe ≠ 2 } })) s

/-- They have ended. -/
def drvClose (s : State) (id : Nat) : State :=
  { s with host := { s.host with rps := amap s.host.rps (fun _ r => { r with reqs := adel r.reqs id }) } }

/-- Bytes of a command's read data that a drive has already written to the host (R21). -/
def drvGot (s : State) (id : Nat) : Nat := s.host.rps.foldl (fun n e => max n (((aget e.2.reqs id).map (fun q => q.got)).getD 0)) 0

/-- Sends a command to the target or the drive of its namespace. -/
def sendAway (s : State) (m : SvCmd) (id : Nat) (x : Ns) (payload : List Byte) : State :=
  if x.backing = 1 then emit s (.backing "request" [x.target] (capsuleSqe m id x ++ payload))
  else if rpContained s x.target then drvOpen s id m x
  else emit (drvOpen s id m x) (.drive x.target "nvme" 0 (capsuleSqe m id x ++ payload))

/-- Write Zeroes at a drive or target. Of an encrypted namespace the backing holds only ciphertext (R519), so that the zeros go out
encrypted, as Writes of at most 256 KiB; the command ends with the last of them. -/
def sendZeroes (s : State) (m : SvCmd) (id : Nat) (x : Ns) (lba cnt : Nat) : State :=
  if !x.enc then sendAway s m id x [] else
  let per := 262144 / nsBlk x
  (List.range (ceilDiv cnt per)).foldl (fun s k =>
    let n := min per (cnt - per * k)
    let sqe := patch (patch (patch m.sqe 0 (le 1 1)) 40 (le 8 (lba + per * k))) 48 (le 4 (n - 1))
    sendAway s { m with sqe := sqe } id x (nsEncBlocks s x (lba + per * k) (List.replicate (n * nsBlk x) 0))) s

/-- A queue pair has room for one more request (R539). -/
def awayRoom (s : State) (x : Ns) : Bool := x.backing ≠ 1 || remoteOut s x.target < 1024

/-- The command waits for durability: FUA, or the volatile write cache is disabled (R520). -/
def needsDurable (s : State) (m : SvCmd) : Bool :=
  (sqeOp m.sqe == 1 && (sqeDw m.sqe 12).testBit 30) || ((aget s.sv.ctrls m.ctrl).map (fun c => featOf c 6)) == some 0

/-- Reads and writes completed, with their bytes (R543). -/
def countIo (s : State) (m : SvCmd) (x : Ns) : State :=
  let bytes := (m.ranges.map (fun r => r.2)).foldl (· + ·) 0 * nsBlk x
  if m.silent then s
  else if sqeOp m.sqe = 2 then
    ctrlUpd (bump64 (bump64 s Reg.SV_RD_CMD_CNT_LO) Reg.SV_RD_BYTES_LO bytes) m.ctrl (fun c => { c with rdCmds := c.rdCmds + 1, rdBytes := c.rdBytes + bytes })
  else if sqeOp m.sqe = 1 then
    ctrlUpd (bump64 (bump64 s Reg.SV_WR_CMD_CNT_LO) Reg.SV_WR_BYTES_LO bytes) m.ctrl (fun c => { c with wrCmds := c.wrCmds + 1, wrBytes := c.wrBytes + bytes })
  else s

/-- A change of a pool that is held in staging: the command completes, and its record is still to be written (R520). -/
def stageDone (s : State) (id : Nat) (m : SvCmd) : State :=
  let s := finish s id NV_OK
  svUpd s (fun v => { v with cmds := aset v.cmds id { m with stage := .staged, silent := true, data := [], prps := [] } })

/-- Free units of a pool are enough to place `n` units out of place (R524). -/
def unitsFree (s : State) (p n : Nat) : Bool := poolUsed s p + n ≤ ((aget s.sv.pools p).map poolUnits).getD 0

/-! The effects of commands on a pool's blocks. -/

/-- Write Zeroes that deallocates: whole units become unmapped, the blocks of partly covered units are zeroed. -/
def deacApply (s : State) (n : Nat) (x : Ns) (lba cnt : Nat) : State :=
  let s := (wholeUnits x lba cnt).foldl (fun s u => unmapUnit s n u) s
  (List.range cnt).foldl (fun s k =>
    if ((aget s.sv.nss n).any (fun y => y.mapped.contains (unitOf x (lba + k)))) then
      store s (nsBase n + (lba + k) * nsBlk x) (nsEnc s x (lba + k) (List.replicate (nsBlk x) 0))
    else s) s

/-- Dataset Management with AD: units that lie wholly in a range become unmapped. -/
def dsmApply (s : State) (n : Nat) (x : Ns) (rs : List (Nat × Nat)) : State :=
  rs.foldl (fun s r => (wholeUnits x r.1 r.2).foldl (fun s u => unmapUnit s n u) s) s

/-- What a command does to the blocks of its pool. -/
def poolApply (s : State) (n : Nat) (x : Ns) (m : SvCmd) : State :=
  let r := m.ranges.headD (0, 0)
  match sqeOp m.sqe with
  | 1 => nsWrite s n r.1 r.2 m.data
  | 8 => if (sqeDw m.sqe 12).testBit 25 then deacApply s n x r.1 r.2 else nsWrite s n r.1 r.2 []
  | 9 => dsmApply s n x m.ranges
  | _ => s

/-- The map records of a command's change. -/
def poolJournal (s : State) (n : Nat) (m : SvCmd) : State :=
  let dealloc := sqeOp m.sqe == 9 || (sqeOp m.sqe == 8 && (sqeDw m.sqe 12).testBit 25)
  m.ranges.foldl (fun s r => journalRange s n r.1 r.2 dealloc) s

/-- A change of a pool's blocks begins: in staging at once, or when it is durable. -/
def poolChange (s : State) (id n : Nat) (x : Ns) (m : SvCmd) : State :=
  if needsDurable s m then cmdUpd (drvOpen s id m x) id (fun _ => { m with stage := .sent })
  else stageDone (countIo (poolApply s n x m) m x) id m

/-! How each command begins. -/

def cmdNs (s : State) (m : SvCmd) : Option (Nat × Ns) := m.ns.bind (fun n => (aget s.sv.nss n).map (fun x => (n, x)))

/-- Write (R519, R520, R524). `k` host reads have been made for its PRP list. -/
def beginWrite (s : State) (id : Nat) (m : SvCmd) (env : Env) (k : Nat) : State :=
  match cmdNs s m with
  | none => s
  | some (n, x) =>
    if !awayRoom s x then s else
    match (if m.prps.isEmpty then some m.data else prpData env k m.prps) with
    | none => finish (svFetch s m.ctrl m.prps env k) id NV_TRANSFER
    | some d =>
      let s := svFetch s m.ctrl m.prps env k
      let r := m.ranges.headD (0, 0)
      let m := { m with data := d }
      if x.backing = 0 then
        if unitsFree s x.target (rangeUnits x r.1 r.2).length then poolChange s id n x m else finish s id NV_CAPACITY
      else cmdUpd (sendAway s m id x (nsEncBlocks s x r.1 d)) id (fun _ => { m with stage := .sent })

/-- Read (R519, R535). -/
def beginRead (s : State) (id : Nat) (m : SvCmd) (_env : Env) (_k : Nat) : State :=
  match cmdNs s m with
  | none => s
  | some (_, x) =>
    if !awayRoom s x then s else
    cmdUpd (if x.backing = 0 then drvOpen s id m x else sendAway s m id x []) id (fun _ => { m with stage := .sent })

/-- Write Zeroes (R513, R517, R523). -/
def beginZeroes (s : State) (id : Nat) (m : SvCmd) (_env : Env) (_k : Nat) : State :=
  match cmdNs s m with
  | none => s
  | some (n, x) =>
    if !awayRoom s x then s else
    let r := m.ranges.headD (0, 0)
    if x.backing = 0 then
      if (sqeDw m.sqe 12).testBit 25 || unitsFree s x.target (rangeUnits x r.1 r.2).length then poolChange s id n x m else finish s id NV_CAPACITY
    else cmdUpd (sendZeroes s m id x r.1 r.2) id (fun _ => { m with stage := .sent })

/-- Dataset Management (R513): without AD it changes nothing. -/
def beginDsm (s : State) (id : Nat) (m : SvCmd) (_env : Env) (_k : Nat) : State :=
  match cmdNs s m with
  | none => s
  | some (n, x) =>
    if !(sqeDw m.sqe 11).testBit 2 then finish s id NV_OK
    else if !awayRoom s x then s
    else if x.backing = 0 then poolChange s id n x m
    else cmdUpd (sendAway s m id x m.data) id (fun _ => { m with stage := .sent })

/-- Flush (R527): it waits for the changes of its namespaces that were completed before it and are not durable, and for the
drive or target. -/
def beginFlush (s : State) (id : Nat) (m : SvCmd) (scope : List Nat) : State :=
  let xs := scope.filterMap (fun n => (aget s.sv.nss n).map (fun x => (n, x)))
  let far := xs.filter (fun e => e.2.backing ≠ 0)
  let ids := (s.sv.cmds.filter (fun e => e.2.stage == .staged && e.2.ns.any (fun n => scope.contains n))).map (fun e => e.1)
  let s := far.foldl (fun s e => sendAway s m id e.2 []) s
  settle (cmdUpd s id (fun _ => { m with stage := .flush ids (far.map (fun e => e.1)) }))

/-! Running a command from a queue. -/

abbrev IoCheck := Ctrl → Ns → List Byte → Env → Nat ⊕ IoPlan
abbrev IoBegin := State → Nat → SvCmd → Env → Nat → State

/-- Opcodes of the I/O set and of the admin set (R513). -/
def ioOps : List Nat := [0x00, 0x01, 0x02, 0x08, 0x09]
def adminOps : List Nat := [0x00, 0x01, 0x02, 0x04, 0x05, 0x06, 0x08, 0x09, 0x0A, 0x0C, 0x10, 0x11, 0x14]

/-- A command begins, or waits for earlier overlapping commands of its queue (R525). -/
def ioStart (s : State) (id : Nat) (env : Env) (k : Nat) (go : IoBegin) : State :=
  match aget s.sv.cmds id with
  | none => s
  | some m => if blocked s id m then bump s Reg.SV_OVERLAP_WAIT_CNT else go s id m env k

/-- What a host's I/O command reads while it is checked: its PRP list, and the list of a Dataset Management. -/
def ioReads (s : State) (i : Nat) (c : Ctrl) (x : Ns) (sqe : List Byte) (env : Env) : State :=
  if c.kind = 1 || sqeOp sqe = 8 || (ioPre x sqe).isSome then s else
  let s := prpRead s i c sqe (ioLen x sqe) env
  match (if sqeOp sqe = 9 then cmdPrps c sqe (ioLen x sqe) env else .inl 0) with
  | .inr (ps, k) => svFetch s i ps env k
  | .inl _ => s

/-- A fetched command is checked, and completes with an error or starts. -/
def ioChecked (s : State) (i id : Nat) (sqe : List Byte) (env : Env) (chk : IoCheck) (go : IoBegin) : State :=
  match aget s.sv.ctrls i with
  | none => s
  | some c =>
    match ioNs s c sqe with
    | .inl e => finish s id e
    | .inr (n, x) =>
      let s := ioReads s i c x sqe env
      match chk c x sqe env with
      | .inl e => finish s id e
      | .inr p =>
        let s := cmdUpd s id (fun m => { m with ns := some n, ranges := p.ranges, prps := p.prps, data := if p.data.isEmpty then m.data else p.data })
        let s := match aget s.sv.cmds id with
          | some m => testTouch s m
          | none => s
        ioStart s id env p.used go

/-- A fetched entry is not of this row: an opcode that no row serves completes with Invalid Command Opcode. -/
def otherOp (s : State) (i q : Nat) (sqe : List Byte) (known : List Nat) : State :=
  if known.contains (sqeOp sqe) then s else
  let r := fetchCmd s i q sqe
  finish r.2 r.1 NV_OPCODE

/-- An I/O command: it is fetched from queue `q` of controller `i` now, or `held` names one fetched earlier that waited. -/
def ioRow (s : State) (i q op : Nat) (sqe : List Byte) (env : Env) (held : Option Nat) (chk : IoCheck) (go : IoBegin) : State :=
  match held with
  | some id =>
    match aget s.sv.cmds id with
    | some m => if m.ctrl = i && m.sq = q && q ≠ 0 && sqeOp m.sqe = op && m.stage == .waiting && !blocked s id m && (aget s.sv.ctrls i).any (fun c => mayRead s c.slice) then go s id m env 0 else s
    | none => s
  | none =>
    if q = 0 || !fetchable s i q then s
    else if sqeOp (fit 64 sqe) ≠ op then otherOp s i q (fit 64 sqe) ioOps
    else
      let r := fetchCmd s i q sqe
      ioChecked r.2 i r.1 (fit 64 sqe) env chk go

def execNvmeWrite (c q : Nat) (sqe : List Byte) (env : Env) (held : Option Nat) (s : State) : Host.Outcome State Fault Refusal :=
  .next (ioRow s c q 0x01 sqe env held checkRw beginWrite)

def execNvmeRead (c q : Nat) (sqe : List Byte) (env : Env) (held : Option Nat) (s : State) : Host.Outcome State Fault Refusal :=
  .next (ioRow s c q 0x02 sqe env held checkRw beginRead)

def execWriteZeroes (c q : Nat) (sqe : List Byte) (env : Env) (held : Option Nat) (s : State) : Host.Outcome State Fault Refusal :=
  .next (ioRow s c q 0x08 sqe env held checkZeroes beginZeroes)

def execDatasetManagement (c q : Nat) (sqe : List Byte) (env : Env) (held : Option Nat) (s : State) : Host.Outcome State Fault Refusal :=
  .next (ioRow s c q 0x09 sqe env held (checkDsm []) beginDsm)

/-- The namespaces that a Flush covers. -/
def flushScope (s : State) (c : Ctrl) (sqe : List Byte) : Nat ⊕ (Option Nat × List Nat) :=
  if sqeNsid sqe = 0xFFFFFFFF then (if plainSqe sqe then .inr (none, c.nss.map (fun e => e.2)) else .inl NV_FIELD)
  else match ioNs s c sqe with
    | .inl e => .inl e
    | .inr (n, _) => .inr (some n, [n])

/-- Every queue pair that a Flush sends a request over has room for one (R539). -/
def flushRoom (s : State) (i : Nat) (sqe : List Byte) : Bool :=
  match (aget s.sv.ctrls i).map (fun c => flushScope s c sqe) with
  | some (.inr (_, scope)) => scope.all (fun n => (aget s.sv.nss n).all (awayRoom s))
  | _ => true

def flushStart (s : State) (i id : Nat) (sqe : List Byte) : State :=
  match aget s.sv.ctrls i with
  | none => s
  | some c =>
    match flushScope s c sqe with
    | .inl e => finish s id e
    | .inr (n, scope) =>
      let s := cmdUpd s id (fun m => { m with ns := n })
      match aget s.sv.cmds id with
      | some m => beginFlush (testTouch s m) id m scope
      | none => s

/-- Flush (R527). -/
def execNvmeFlush (c q : Nat) (sqe : List Byte) (s : State) : Host.Outcome State Fault Refusal :=
  .next (if q = 0 || !fetchable s c q then s
    else if sqeOp (fit 64 sqe) ≠ 0 then otherOp s c q (fit 64 sqe) ioOps
    else if !flushRoom s c (fit 64 sqe) then s
    else
      let r := fetchCmd s c q sqe
      flushStart r.2 c r.1 (fit 64 sqe))

/-! Capsules at a target (R539). -/

/-- STORAGE_CAPSULE: a request capsule reaches a target controller over its queue pair. -/
def capsuleRun (s : State) (i : Nat) (bytes : List Byte) : State :=
  match aget s.sv.ctrls i with
  | none => s
  | some c =>
    let sqe := fit 64 bytes
    if c.kind ≠ 1 || svInflight s ≥ 262144 || (sqeOp sqe = 0 && !flushRoom s i sqe) then s else
    let more := bytes.drop 64
    let op := sqeOp sqe
    let r := cmdNew s { ctrl := i, sq := 1, cq := 0, sqe := sqe, stage := .waiting, data := more }
    let id := r.1
    let s := r.2
    if !ioOps.contains op || (slice sqe 24 16).any (fun b => b ≠ 0) then finish s id NV_FIELD
    else match op with
      | 0 => flushStart s i id sqe
      | 1 => ioChecked s i id sqe {} (fun c x e v => match checkRw c x e v with
          | .inr p => if more.length = (p.ranges.headD (0, 0)).2 * nsBlk x then .inr p else .inl NV_TRANSFER
          | .inl e => .inl e) beginWrite
      | 2 => ioChecked s i id sqe {} checkRw beginRead
      | 8 => ioChecked s i id sqe {} checkZeroes beginZeroes
      | _ => ioChecked s i id sqe {} (checkDsm more) beginDsm

def execStorageCapsule (c : Nat) (bytes : List Byte) (s : State) : Host.Outcome State Fault Refusal := .next (capsuleRun s c bytes)

/-! Answers of the backings (R520, R527, R528, R535). -/

/-- A capsule's command that waited starts, once nothing holds it back: the target runs its requests as one queue. -/
def capsuleWake (s : State) : State :=
  match s.sv.cmds.find? (fun e => (aget s.sv.ctrls e.2.ctrl).any (fun c => c.kind == 1) && e.2.stage == .waiting && !blocked s e.1 e.2 &&
      (cmdNs s e.2).any (fun x => awayRoom s x.2)) with
  | some (id, m) => match sqeOp m.sqe with
    | 1 => beginWrite s id m {} 0
    | 2 => beginRead s id m {} 0
    | 8 => beginZeroes s id m {} 0
    | _ => beginDsm s id m {} 0
  | none => s

def capsuleWakeN : Nat → State → State
  | 0, s => s
  | n + 1, s => capsuleWakeN n (capsuleWake s)

/-- The pieces of a transfer without its first `n` bytes. -/
def prpDrop : Nat → List (Nat × List Byte) → List (Nat × List Byte)
  | _, [] => []
  | n, (a, b) :: ps => if b.length ≤ n then prpDrop (n - b.length) ps else (a + n, b.drop n) :: prpDrop 0 ps

/-- A read whose data has come completes: what the drive has not yet written to the host is written before its completion. -/
def readDone (s : State) (id : Nat) (m : SvCmd) (x : Ns) (d : List Byte) : State :=
  let target := (aget s.sv.ctrls m.ctrl).any (fun c => c.kind == 1)
  finish (countIo s m x) id NV_OK 0 (prpDrop (drvGot s id) (prpSpread m.prps d)) (if target then d else [])

/-- A command at its backing ends. A pool that still has another member waits for it: the loss is the member's (R535). -/
def sentDone (s : State) (id : Nat) (m : SvCmd) (st : Nat) (bytes : List Byte) : State :=
  match cmdNs s m with
  | none => s
  | some (n, x) =>
    let r := m.ranges.headD (0, 0)
    let mirrored := (aget s.sv.pools x.target).any (fun p => poolState p == 1)
    if x.backing = 0 then
      if st = 0 then
        if sqeOp m.sqe = 2 then readDone s id m x (nsRead s n r.1 r.2)
        else finish (poolJournal (countIo (poolApply s n x m) m x) n m) id NV_OK
      else if mirrored then s
      else finish s id (if sqeOp m.sqe = 2 then NV_READ_ERR else 0x280)
    else if st ≠ 0 then finish s id (st % 2048)
    else if sqeOp m.sqe = 2 then readDone s id m x (nsDecBlocks s x r.1 (fit (r.2 * nsBlk x) bytes))
    else finish (countIo s m x) id NV_OK

/-- A request of a command is outstanding at a root port. -/
def drvLive (s : State) (id : Nat) : Bool := s.host.rps.any (fun e => (aget e.2.reqs id).isSome)

/-- A command at its drive cannot succeed once its requests have ended with Completer Abort (R139). -/
def drvAborted (s : State) (id : Nat) (m : SvCmd) : Bool :=
  !drvLive s id && (match cmdNs s m with | some (_, x) => x.backing ≠ 1 | none => false)

def backingDone (s : State) (id st : Nat) (bytes : List Byte) : State :=
  match aget s.sv.cmds id with
  | none => s
  | some m =>
    match m.stage with
    | .sent => if st = 0 && drvAborted s id m then s else sentDone (if m.silent then bump s Reg.SV_RESET_DRAIN_CNT else s) id m st bytes
    | .staged =>
      if st ≠ 0 then s else
      let s := match m.ns with
        | some n => poolJournal s n m
        | none => s
      settle (svUpd s (fun v => { v with cmds := adel v.cmds id }))
    | .flush ids (_ :: away) =>
      if st ≠ 0 then finish s id (st % 2048)
      else if away.isEmpty && drvAborted s id m then s
      else settle (cmdUpd s id (fun y => { y with stage := .flush ids away }))
    | _ => s

/-- BACKING_COMPLETE: the backing of command `id` ends its work with an NVMe status, and data where it answers a read; or a
staged change becomes durable; or the drive's or target's part of a Flush ends. -/
def execBackingComplete (id status : Nat) (bytes : List Byte) (s : State) : Host.Outcome State Fault Refusal :=
  .next (
    let t := backingDone s id status bytes
    let away (m : SvCmd) : Bool := match m.stage with
      | .sent => true
      | .flush _ w => !w.isEmpty
      | _ => false
    let t := if (aget t.sv.cmds id).any away then t else drvClose t id
    capsuleWakeN t.sv.cmds.length t)

end Sys2Proof.Machine
end

