-- ==== Sys2Proof/Machine/Nvme.lean ====
section
/-! DEFINITION. Machine/Nvme.lean: a virtual controller's registers and doorbells, and the NVMe admin commands (chapter 15). -/

namespace Sys2Proof.Machine

/-! Controller registers (R508, R509, R528, R529). -/

/-- CC asks for what the controller does not offer, or the admin queues are malformed. -/
def ccBad (c : Ctrl) (v : Nat) : Bool :=
  fld v 4 3 ≠ 0 || fld v 11 3 ≠ 0 || fld v 7 4 > 4 || fld v 16 4 ≠ 6 || fld v 20 4 ≠ 4 || fld c.aqa 0 12 = 0 || fld c.aqa 16 12 = 0 ||
  c.asq % 4096 ≠ 0 || c.acq % 4096 ≠ 0

/-- CC.EN rises. -/
def ccRise (s : State) (i : Nat) (c : Ctrl) (v : Nat) : State :=
  if ccBad c v then
    raise (ctrlUpd s i (fun x => { x with cfs := true, rdy := false })) 0x906 [(4, i), (4, v)]
  else
    let sq : SvSq := { base := c.asq, size := fld c.aqa 0 12 + 1, cq := 0 }
    let cq : SvCq := { base := c.acq, size := fld c.aqa 16 12 + 1 }
    ctrlUpd s i (fun x => { x with rdy := true, cfs := false, shst := 0, sqs := [(0, sq)], cqs := [(0, cq)] })

/-- A write of CC. -/
def ccWrite (s : State) (i v : Nat) : State :=
  match aget s.sv.ctrls i with
  | none => s
  | some c =>
    let v := v &&& 0x00FFFFF1
    let s := ctrlUpd s i (fun x => { x with cc := v })
    if !c.cc.testBit 0 && v.testBit 0 then ccRise s i c v
    else if c.cc.testBit 0 && !v.testBit 0 then ctrlReset s i 1
    else if (fld v 14 2 = 1 || fld v 14 2 = 2) && fld c.cc 14 2 ≠ fld v 14 2 && c.shst = 0 then
      settle (ctrlUpd s i (fun x => { x with shst := 1 }))
    else s

/-- CSTS. -/
def cstsOf (c : Ctrl) : Nat := b2n c.rdy + 2 * b2n c.cfs + 4 * c.shst

/-- A host's access to BAR0/1 of a function that presents a controller. -/
def ctrlBar (s : State) (link fnum : Nat) : Option (Nat × Ctrl) :=
  let f := fnGet s link fnum
  if f.nvme && fnDecodes s link fnum then ctrlOfFn s link fnum else none

def execCcEnable (link fnum v : Nat) (s : State) : Host.Outcome State Fault Refusal :=
  .next (match ctrlBar s link fnum with
    | some (i, c) => if !c.cc.testBit 0 && v.testBit 0 then ccWrite s i v else s
    | none => s)

def execCcDisable (link fnum v : Nat) (s : State) : Host.Outcome State Fault Refusal :=
  .next (match ctrlBar s link fnum with
    | some (i, c) => if c.cc.testBit 0 && !v.testBit 0 then ccWrite s i v else s
    | none => s)

def execCcShutdown (link fnum v : Nat) (s : State) : Host.Outcome State Fault Refusal :=
  .next (match ctrlBar s link fnum with
    | some (i, c) => if c.cc.testBit 0 && v.testBit 0 && (fld v 14 2 = 1 || fld v 14 2 = 2) then ccWrite s i v else s
    | none => s)

/-- CONTROLLER_DRAIN_END: no Write of the disabled controller is unfinished any more, and RDY clears. -/
def execControllerDrainEnd (c : Nat) (s : State) : Host.Outcome State Fault Refusal :=
  .next (match aget s.sv.ctrls c with
    | some x =>
      if !x.cc.testBit 0 && x.rdy && !s.sv.cmds.any (fun e => e.2.ctrl == c && e.2.silent && e.2.stage ≠ .staged) then
        ctrlUpd s c (fun y => { y with rdy := false })
      else s
    | none => s)

/-! Doorbells (R506, R510). -/

def sqDoorbell (s : State) (i : Nat) (c : Ctrl) (y v : Nat) : State :=
  match aget c.sqs y with
  | none => badDoorbell s i
  | some q =>
    if v ≥ q.size then badDoorbell s i
    else if v = q.tail then bump s Reg.SV_DB_EMPTY_CNT
    else ctrlUpd s i (fun x => { x with sqs := aset x.sqs y { q with tail := v } })

def cqDoorbell (s : State) (i : Nat) (c : Ctrl) (y v : Nat) : State :=
  match aget c.cqs y with
  | none => badDoorbell s i
  | some q =>
    if v ≥ q.size then badDoorbell s i
    else postGo (ctrlUpd s i (fun x => { x with cqs := aset x.cqs y { q with head := v } })) i

/-- Doorbells of a controller whose slice is RESETTING are ignored (R227). -/
def dbLive (s : State) (c : Ctrl) : Bool := !(aget s.slices c.slice).any (fun x => x.state == 2)

def execSqTailDoorbell (link fnum y v : Nat) (s : State) : Host.Outcome State Fault Refusal :=
  .next (match ctrlBar s link fnum with
    | some (i, c) => if y ≤ 256 && dbLive s c then sqDoorbell s i c y v else s
    | none => s)

def execCqHeadDoorbell (link fnum y v : Nat) (s : State) : Host.Outcome State Fault Refusal :=
  .next (match ctrlBar s link fnum with
    | some (i, c) => if y ≤ 256 && dbLive s c then cqDoorbell s i c y v else s
    | none => s)

/-! Admin commands (R513). -/

/-- An admin command of controller `i` is fetched and runs: `f` sees its number and its controller. -/
def nvmeAdmin (s : State) (i op : Nat) (sqe : List Byte) (f : State → Nat → Ctrl → State) : State :=
  let sqe := fit 64 sqe
  if !fetchable s i 0 then s
  else if sqeOp sqe ≠ op then otherOp s i 0 sqe adminOps
  else
    let r := fetchCmd s i 0 sqe
    match aget r.2.sv.ctrls i with
    | none => r.2
    | some c => if !plainSqe sqe then finish r.2 r.1 NV_FIELD else f r.2 r.1 c

/-- The command completes with data in host memory. -/
def dataOut (s : State) (i id : Nat) (c : Ctrl) (sqe : List Byte) (env : Env) (bs : List Byte) : State :=
  let s := prpRead s i c sqe bs.length env
  match cmdPrps c sqe bs.length env with
  | .inl e => finish s id e
  | .inr (ps, _) => finish s id NV_OK 0 (prpSpread ps bs)

/-- Delete I/O Submission Queue: its commands that have not begun are aborted. -/
def execDeleteIoSubmissionQueue (c : Nat) (sqe : List Byte) (s : State) : Host.Outcome State Fault Refusal :=
  .next (nvmeAdmin s c 0x00 sqe (fun s id x =>
    let q := fld (sqeDw sqe 10) 0 16
    if q = 0 || (aget x.sqs q).isNone then finish s id NV_QID else
    let s := (s.sv.cmds.filter (fun e => e.2.ctrl == c && e.2.sq == q && e.2.stage == .waiting)).foldl (fun s e => finish s e.1 NV_SQ_GONE) s
    let s := ctrlUpd s c (fun y => { y with sqs := adel y.sqs q })
    let ahead (m : SvCmd) : Bool := match m.stage with
      | .abortAhead k _ => m.ctrl == c && k == q
      | _ => false
    let s := (s.sv.cmds.filter (fun e => ahead e.2)).foldl (fun s e => finish s e.1 NV_OK 1) s
    finish s id NV_OK))

/-- Queue numbers allowed: up to 256, and to what Number of Queues gave (R505, R513). -/
def qidOk (c : Ctrl) (q lo : Nat) : Bool := 1 ≤ q && q ≤ 256 && q ≤ fld (featOf c 7) lo 16 + 1

/-- Create I/O Submission Queue; QPRIO is ignored. -/
def execCreateIoSubmissionQueue (c : Nat) (sqe : List Byte) (s : State) : Host.Outcome State Fault Refusal :=
  .next (nvmeAdmin s c 0x01 sqe (fun s id x =>
    let q := fld (sqeDw sqe 10) 0 16
    let size := fld (sqeDw sqe 10) 16 16 + 1
    let cq := fld (sqeDw sqe 11) 16 16
    let base := leAt sqe 24 8
    if !qidOk x q 0 || (aget x.sqs q).isSome then finish s id NV_QID
    else if size < 2 then finish s id NV_QSIZE
    else if !(sqeDw sqe 11).testBit 0 || fld (sqeDw sqe 11) 3 13 ≠ 0 || base % mpsBytes x ≠ 0 then finish s id NV_FIELD
    else if cq = 0 || cq > 256 then finish s id NV_QID
    else if (aget x.cqs cq).isNone then finish s id NV_CQ
    else finish (ctrlUpd s c (fun y => { y with sqs := aset y.sqs q { base := base, size := size, cq := cq } })) id NV_OK))

/-- Delete I/O Completion Queue. -/
def execDeleteIoCompletionQueue (c : Nat) (sqe : List Byte) (s : State) : Host.Outcome State Fault Refusal :=
  .next (nvmeAdmin s c 0x04 sqe (fun s id x =>
    let q := fld (sqeDw sqe 10) 0 16
    if q = 0 || (aget x.cqs q).isNone then finish s id NV_QID
    else if x.sqs.any (fun e => e.2.cq == q) then finish s id NV_QDELETE
    else finish (ctrlUpd s c (fun y => { y with cqs := adel y.cqs q, posts := y.posts.filter (fun p => p.cq ≠ q) })) id NV_OK))

/-- MSIX_ALLOC of a controller's function. -/
def ctrlVectors (s : State) (c : Ctrl) : Nat := ((ctrlFn s c).map (fun f => (fnGet s f.1 f.2).msixAlloc)).getD 0

/-- Create I/O Completion Queue (R512). -/
def execCreateIoCompletionQueue (c : Nat) (sqe : List Byte) (s : State) : Host.Outcome State Fault Refusal :=
  .next (nvmeAdmin s c 0x05 sqe (fun s id x =>
    let q := fld (sqeDw sqe 10) 0 16
    let size := fld (sqeDw sqe 10) 16 16 + 1
    let iv := fld (sqeDw sqe 11) 16 16
    let base := leAt sqe 24 8
    if !qidOk x q 16 || (aget x.cqs q).isSome then finish s id NV_QID
    else if size < 2 then finish s id NV_QSIZE
    else if !(sqeDw sqe 11).testBit 0 || fld (sqeDw sqe 11) 2 14 ≠ 0 || base % mpsBytes x ≠ 0 then finish s id NV_FIELD
    else if iv ≥ ctrlVectors s x then finish s id NV_VECTOR
    else finish (ctrlUpd s c (fun y => { y with cqs := aset y.cqs q { base := base, size := size, vector := iv, ien := (sqeDw sqe 11).testBit 1 } })) id NV_OK))

/-! Log pages. -/

/-- Some pool of an attached namespace is DEGRADED or has failed (R535). -/
def smartWarn (s : State) (c : Ctrl) : Nat :=
  4 * b2n (c.nss.any (fun e => (aget s.sv.nss e.2).any (fun x => x.backing == 0 && (aget s.sv.pools x.target).any (fun p => 2 ≤ poolState p))))

/-- SMART / Health: what the spec does not state is a free value. -/
def smartLog (s : State) (c : Ctrl) : List Byte × State :=
  let f (k : Nat) : Nat := Config.freeValue (s.draws + k)
  let bs := le 1 (smartWarn s c) ++ le 2 (f 0) ++ le 1 (f 1) ++ le 1 (f 2) ++ le 1 (f 3) ++ List.replicate 26 0 ++
    le 16 (ceilDiv c.rdBytes 512000) ++ le 16 (ceilDiv c.wrBytes 512000) ++ le 16 c.rdCmds ++ le 16 c.wrCmds ++
    le 16 (f 4) ++ le 16 (f 5) ++ le 16 (f 6) ++ le 16 (f 7) ++ le 16 (f 8) ++ le 16 c.errCnt
  (fit 512 bs, { s with draws := s.draws + 9 })

/-- Commands Supported and Effects: CSUPP of each command, and LBCC of those that change blocks. -/
def effectsLog : List Byte :=
  (List.range 256).flatMap (fun k => le 4 (b2n (adminOps.contains k))) ++
  (List.range 256).flatMap (fun k => le 4 (if k = 1 || k = 8 || k = 9 then 3 else b2n (ioOps.contains k))) ++ List.replicate 2048 0

/-- Device Self-test: the operation and how far it is, which is a free value, and 20 results; an unused one is 0xF. -/
def selfTestLog (s : State) (c : Ctrl) : List Byte × State :=
  let r := draw s
  let head := match c.test with
    | some t => le 1 t.kind ++ le 1 (r.1 % 100) ++ le 2 0
    | none => le 4 0
  (head ++ c.results.flatten ++ (List.range (20 - c.results.length)).flatMap (fun _ => fit 28 (le 1 0xF)), r.2)

/-- A log page, and the state that has read it; none where the page is not supported. -/
def logPage (s : State) (i lid : Nat) (c : Ctrl) (rae : Bool) : Option (List Byte × State) :=
  match lid with
  | 1 => some (c.errors.flatten, s)
  | 2 => some (smartLog s c)
  | 3 => some (fit 512 (le 8 1 ++ runningVersion s), s)
  | 4 => some (fit 4096 (c.changed.flatMap (fun n => le 4 n)), if rae then s else ctrlUpd s i (fun y => { y with changed := [] }))
  | 5 => some (effectsLog, s)
  | 6 => some (selfTestLog s c)
  | _ => none

/-- Get Log Page; a page is not read from an offset. -/
def execGetLogPage (c : Nat) (sqe : List Byte) (env : Env) (s : State) : Host.Outcome State Fault Refusal :=
  .next (nvmeAdmin s c 0x02 sqe (fun s id x =>
    let d := sqeDw sqe 10
    let len := 4 * (fld d 16 12 + 1)
    let s := prpRead s c x sqe len env
    match cmdPrps x sqe len env with
    | .inl e => finish s id e
    | .inr (ps, _) =>
      if sqeDw sqe 12 ≠ 0 || sqeDw sqe 13 ≠ 0 then finish s id NV_FIELD else
      match logPage s c (fld d 0 8) x (d.testBit 15) with
      | none => finish s id NV_FIELD
      | some (bs, s) => finish s id NV_OK 0 (prpSpread ps (fit len bs))))

/-! Identify (R511, R517). -/

/-- ASCII bytes of a text, padded with spaces to `n`. -/
def asciiPad (n : Nat) (bs : List Byte) : List Byte := (bs ++ List.replicate n 0x20).take n

def hexDigit (d : Nat) : Byte := BitVec.ofNat 8 (if d < 10 then 0x30 + d else 0x37 + d)
def hex4 (v : Nat) : List Byte := [hexDigit (v / 4096 % 16), hexDigit (v / 256 % 16), hexDigit (v / 16 % 16), hexDigit (v % 16)]

/-- "SAERALEN GZ-6400 VNVME". -/
def modelName : List Byte := [0x53, 0x41, 0x45, 0x52, 0x41, 0x4C, 0x45, 0x4E, 0x20, 0x47, 0x5A, 0x2D, 0x36, 0x34, 0x30, 0x30, 0x20, 0x56, 0x4E, 0x56, 0x4D, 0x45]

/-- Bytes of the backing of a namespace. -/
def backingBytes (s : State) (x : Ns) : Nat :=
  if x.backing = 0 then ((aget s.sv.pools x.target).map poolUnits).getD 0 * 4096 else x.size * nsBlk x

def largestBacking (s : State) (c : Ctrl) : Nat :=
  c.nss.foldl (fun a e => max a (((aget s.sv.nss e.2).map (backingBytes s)).getD 0)) 0

def identifyCtrl (s : State) (i : Nat) (c : Ctrl) : List Byte :=
  let b := le 2 0x1D2A ++ le 2 (bcrSsvid s) ++ asciiPad 20 (Config.serial ++ [0x2D] ++ hex4 (i + 1)) ++ asciiPad 40 modelName ++ runningVersion s
  let edstt := max 1 (ceilDiv (20 * largestBacking s c) (2 ^ 40))
  let fs : List (Nat × List Byte) :=
    [(77, le 1 6), (78, le 2 (i + 1)), (80, le 4 0x20000), (92, le 4 0x100), (111, le 1 1), (256, le 2 0x14), (258, le 1 3), (259, le 1 3),
     (260, le 1 0x12), (261, le 1 2), (262, le 1 63), (266, le 2 373), (268, le 2 378), (316, le 2 edstt), (318, le 1 1), (512, le 1 0x66),
     (513, le 1 0x44), (516, le 4 1024), (520, le 2 0xC), (525, le 1 7), (526, le 2 63), (528, le 2 63)]
  fs.foldl (fun acc f => patch acc f.1 f.2) (fit 4096 b)

def identifyNs (x : Ns) : List Byte :=
  let aw := 262144 / nsBlk x - 1
  let d (k : Nat) : Nat := (x.drive[k]?).getD 0
  let used := if x.backing = 0 then x.mapped.length * (4096 / nsBlk x) else x.size
  let fs : List (Nat × List Byte) :=
    [(0, le 8 x.size), (8, le 8 x.size), (16, le 8 used), (24, le 1 (if x.backing = 2 then 2 * (d 3 % 2) else 3)), (30, le 1 1), (33, le 1 9),
     (34, le 2 (if x.backing = 2 then d 0 else aw)), (36, le 2 (if x.backing = 2 then d 1 else aw)), (44, le 2 (if x.backing = 2 then d 2 else 0)),
     (130, le 1 (if x.lba4k then 12 else 9))]
  fs.foldl (fun acc f => patch acc f.1 f.2) (List.replicate 4096 0)

/-- Identify: CNS 0 namespace, 1 controller, 2 active namespaces, 3 namespace descriptors. -/
def execIdentify (c : Nat) (sqe : List Byte) (env : Env) (s : State) : Host.Outcome State Fault Refusal :=
  .next (nvmeAdmin s c 0x06 sqe (fun s id x =>
    let nsid := sqeNsid sqe
    let out (bs : List Byte) : State := dataOut s c id x sqe env (fit 4096 bs)
    let ns := (aget x.nss nsid).bind (fun n => (aget s.sv.nss n).map (fun y => (n, y)))
    match fld (sqeDw sqe 10) 0 8 with
    | 0 => match ns with
      | some (_, y) => out (identifyNs y)
      | none => finish s id NV_NS
    | 1 => out (identifyCtrl s c x)
    | 2 => if nsid ≥ 0xFFFFFFFE then finish s id NV_NS else out ((x.nss.filter (fun e => nsid < e.1)).flatMap (fun e => le 4 e.1))
    | 3 => match ns with
      | some (n, _) => out (le 1 3 ++ le 1 16 ++ le 2 0 ++ be 16 (Config.nsUuid n) ++ le 1 4 ++ le 1 1 ++ le 2 0 ++ le 1 0)
      | none => finish s id NV_NS
    | _ => finish s id NV_FIELD))

/-! Abort (R532). -/

/-- Abort; `ahead` says that the named queue holds a command with the identifier that is not yet fetched, which the
controller sees in host memory. -/
def execAbort (c : Nat) (sqe : List Byte) (ahead : Bool) (s : State) : Host.Outcome State Fault Refusal :=
  .next (nvmeAdmin s c 0x08 sqe (fun s id x =>
    let q := fld (sqeDw sqe 10) 0 16
    let cid := fld (sqeDw sqe 10) 16 16
    let isAbort (m : SvCmd) : Bool := match m.stage with
      | .abort _ => m.ctrl == c
      | .abortAhead _ _ => m.ctrl == c
      | _ => false
    if 4 ≤ (s.sv.cmds.filter (fun e => isAbort e.2)).length then finish s id NV_ABORTS else
    match s.sv.cmds.find? (fun e => e.1 ≠ id && e.2.ctrl == c && e.2.sq == q && !e.2.silent && sqeCid e.2.sqe == cid) with
    | some (k, m) =>
      if m.stage == .waiting || m.stage == .event then
        finish (bump (finish s k NV_ABORTED) Reg.SV_ABORT_CAUGHT_CNT) id NV_OK 0
      else cmdUpd (bump s Reg.SV_ABORT_MISS_CNT) id (fun y => { y with stage := .abort k })
    | none =>
      let s := bump s Reg.SV_ABORT_MISS_CNT
      if ahead && (aget x.sqs q).any sqReady then cmdUpd s id (fun y => { y with stage := .abortAhead q cid })
      else finish s id NV_OK 1))

/-! Features (R513). -/

/-- Where a feature's value stands, from its FID and Dword 11: coalescing by vector, the two temperature thresholds. -/
def featKey (fid dw11 : Nat) : Nat :=
  if fid = 9 then 0x10000 + fld dw11 0 16 else if fid = 4 && fld dw11 20 2 = 1 then 0x104 else fid

def featOps : List Nat := [1, 2, 4, 6, 7, 8, 9, 0xB]

/-- Dword 11 names a setting that the controller has. -/
def featArgOk (s : State) (c : Ctrl) (fid v : Nat) : Bool :=
  match fid with
  | 2 => fld v 0 5 == 0
  | 4 => (fld v 16 4 == 0 || fld v 16 4 == 15) && fld v 20 2 < 2
  | 7 => fld v 0 16 ≠ 0xFFFF && fld v 16 16 ≠ 0xFFFF
  | 9 => fld v 0 16 < ctrlVectors s c
  | _ => true

/-- What is stored of Dword 11. -/
def featStored (fid v : Nat) : Nat :=
  match fid with
  | 4 => fld v 0 16
  | 6 => fld v 0 1
  | 7 => min 255 (fld v 0 16) + min 255 (fld v 16 16) * 65536
  | 8 => fld v 0 16
  | 9 => fld v 0 17
  | _ => v

/-- Set Features; no feature can be saved. -/
def execSetFeatures (c : Nat) (sqe : List Byte) (s : State) : Host.Outcome State Fault Refusal :=
  .next (nvmeAdmin s c 0x09 sqe (fun s id x =>
    let fid := fld (sqeDw sqe 10) 0 8
    let v := sqeDw sqe 11
    if !featOps.contains fid || (sqeDw sqe 10).testBit 31 || !featArgOk s x fid v then finish s id NV_FIELD
    else if fid = 7 && (x.sqs.any (fun e => e.1 ≠ 0) || x.cqs.any (fun e => e.1 ≠ 0)) then finish s id NV_SEQUENCE
    else
      let s := ctrlUpd s c (fun y => { y with feats := aset y.feats (featKey fid v) (featStored fid v) })
      finish s id NV_OK (if fid = 7 then featStored 7 v else 0)))

/-- The default of a feature. -/
def featDefault (key : Nat) : Nat :=
  match key with
  | 4 => 373
  | 6 => 1
  | 7 => 0x00FF00FF
  | _ => if 0x10000 ≤ key then key % 65536 else 0

/-- Get Features: SEL 0 current, 1 default, 2 saved, 3 capabilities. -/
def execGetFeatures (c : Nat) (sqe : List Byte) (s : State) : Host.Outcome State Fault Refusal :=
  .next (nvmeAdmin s c 0x0A sqe (fun s id x =>
    let fid := fld (sqeDw sqe 10) 0 8
    let sel := fld (sqeDw sqe 10) 8 3
    let key := featKey fid (sqeDw sqe 11)
    if !featOps.contains fid || sel > 3 || (fid = 4 || fid = 9) && !featArgOk s x fid (sqeDw sqe 11) then finish s id NV_FIELD
    else if sel = 3 then finish s id NV_OK 4
    else if sel = 0 then finish s id NV_OK (agetD x.feats key (featDefault key))
    else finish s id NV_OK (featDefault key)))

/-- Asynchronous Event Request: at most four are held. -/
def execAsynchronousEventRequest (c : Nat) (sqe : List Byte) (s : State) : Host.Outcome State Fault Refusal :=
  .next (nvmeAdmin s c 0x0C sqe (fun s id _ =>
    if 4 ≤ (s.sv.cmds.filter (fun e => e.2.ctrl == c && e.2.stage == .event)).length then finish s id NV_AERS
    else cmdUpd s id (fun y => { y with stage := .event })))

/-! Firmware (R530, R531). -/

/-- Firmware Image Download: a piece enters the staging area; the first begins an update session. Flash writes that are
deferred hold the command back. -/
def execFirmwareImageDownload (c : Nat) (sqe : List Byte) (env : Env) (s : State) : Host.Outcome State Fault Refusal :=
  .next (if deferral s then s else nvmeAdmin s c 0x11 sqe (fun s id x =>
    let len := 4 * (sqeDw sqe 10 + 1)
    if !x.fw || len > 262144 then finish s id NV_FIELD else
    let s := prpRead s c x sqe len env
    match cmdPrps x sqe len env with
    | .inl e => finish s id e
    | .inr (ps, k) =>
      let s := svFetch s c ps env k
      match prpData env k ps with
      | none => finish s id NV_TRANSFER
      | some bs =>
        let s := if s.oz.step = 0 then (fwBegin s 2).1 else s
        match fwWrite s 2 (4 * sqeDw sqe 11) bs with
        | (s, sts) => finish s id (if sts = STS_OK then NV_OK else if sts = STS_LEN_RANGE then NV_FIELD else NV_SEQUENCE)))

/-- Firmware Commit: action 0 verifies and stores; action 3 also activates, and completes when every serving thread runs the
new image. -/
def execFirmwareCommit (c : Nat) (sqe : List Byte) (s : State) : Host.Outcome State Fault Refusal :=
  .next (if deferral s then s else nvmeAdmin s c 0x10 sqe (fun s id x =>
    let ca := fld (sqeDw sqe 10) 3 3
    if !x.fw then finish s id NV_FW_PROHIBITED
    else if ca ≠ 0 && ca ≠ 3 || (sqeDw sqe 10).testBit 31 then finish s id NV_FIELD
    else if fld (sqeDw sqe 10) 0 3 > 1 then finish s id NV_FW_SLOT
    else
      let v := fwVerify s 2
      if v.2 ≠ STS_OK then finish v.1 id NV_FW_IMAGE
      else if ca = 0 then finish v.1 id NV_OK
      else cmdUpd (fwActivate v.1 2 true true).1 id (fun y => { y with stage := .commit })))

/-- FIRMWARE_ACTIVATION_DONE: the rolling update has ended. -/
def execFirmwareActivationDone (c : Nat) (s : State) : Host.Outcome State Fault Refusal :=
  .next (match s.sv.cmds.find? (fun e => e.2.ctrl == c && e.2.stage == .commit) with
    | some (id, _) =>
      if s.unit.rolling.isEmpty && s.unit.handover.isNone && s.oz.restart.isNone then
        finish (raise s 0x904 [(4, c), (8, ofLe (runningVersion s))]) id NV_OK
      else s
    | none => s)

/-! Self-test (R533, R534). -/

/-- Device Self-test. -/
def execDeviceSelfTest (c : Nat) (sqe : List Byte) (s : State) : Host.Outcome State Fault Refusal :=
  .next (nvmeAdmin s c 0x14 sqe (fun s id x =>
    let stc := fld (sqeDw sqe 10) 0 4
    let nsid := sqeNsid sqe
    if stc = 0xF then finish (testEnd s c 1 0) id NV_OK
    else if stc ≠ 1 && stc ≠ 2 then finish s id NV_FIELD
    else if nsid ≠ 0 && nsid ≠ 0xFFFFFFFF && (aget x.nss nsid).isNone then finish s id NV_NS
    else if x.test.isSome then finish s id NV_SELFTEST
    else
      let t : SvTest := { kind := stc, nsid := nsid }
      let y := { x with test := some t }
      let held := s.sv.cmds.any (fun e => testCovers y e.2 && e.2.stage ≠ .staged && e.1 ≠ id)
      finish (ctrlUpd s c (fun z => { z with test := some { t with paused := held } })) id NV_OK))

/-- SELF_TEST_SEGMENT: the running segment ends, well or not. Segments that read a backing do not end while paused. -/
def execSelfTestSegment (c : Nat) (ok : Bool) (s : State) : Host.Outcome State Fault Refusal :=
  .next (match (aget s.sv.ctrls c).bind (fun x => x.test) with
    | none => s
    | some t =>
      if t.paused && t.segment ≠ 1 then s
      else if !ok then raise (testEnd s c 7 t.segment) 0x905 [(4, c), (4, 7), (4, t.segment)]
      else if t.segment = (if t.kind = 1 then 4 else 5) then testEnd s c 0 0
      else ctrlUpd s c (fun x => { x with test := some { t with segment := t.segment + 1 } }))

/-- SELF_TEST_RESUME: 1 ms after the last command on a namespace under test completed. -/
def execSelfTestResume (c : Nat) (s : State) : Host.Outcome State Fault Refusal :=
  .next (match aget s.sv.ctrls c with
    | none => s
    | some x =>
      match x.test with
      | none => s
      | some t =>
        if t.paused && t.last + msUnits ≤ s.time.elapsed && !s.sv.cmds.any (fun e => testCovers x e.2 && e.2.stage ≠ .staged) then
          ctrlUpd s c (fun y => { y with test := some { t with paused := false } })
        else s)

end Sys2Proof.Machine
end

