-- ==== Sys2Proof/Machine/Sv.lean ====
section
/-! DEFINITION. Machine/Sv.lean: the owner's storage commands, pools and their journals, and the states of namespaces
(chapter 15). -/

namespace Sys2Proof.Machine

/-- A storage command of the owner (R540). -/
def svAdmin (s : State) (sl op : Nat) (cmd : List Byte) (f : State → Nat → State × Option AdminRes) : State :=
  runAdmin s sl op cmd (fun s t => if sl ≠ 0 then failed s STS_PERMISSION else f s t)

def showCtrls (s : State) : State := wrN s Reg.SV_CTRL_USED s.sv.ctrls.length
def showNss (s : State) : State := wrN s Reg.SV_NS_USED s.sv.nss.length

/-- A queue pair of slice 0 in RTS. -/
def svQpReady (s : State) (h : Nat) : Bool :=
  match chanOf s h with
  | some (i, c) => c.kind == 4 && c.slice == 0 && (qpGet s i).any (fun q => q.tstate == 3)
  | none => false

/-! Controllers (R505, R507, R540, R541). -/

/-- A slice whose function has NVME personality and presents no controller. -/
def ctrlBindOk (s : State) (t : Nat) : Bool :=
  match (aget s.slices t).bind (fun x => x.link.map (fun l => (l, x.fnum))) with
  | some (l, f) => (fnGet s l f).nvme && !s.sv.ctrls.any (fun e => e.2.kind == 0 && e.2.slice == t)
  | none => false

/-- The index of a new controller is the lowest free one. -/
def execCtrlCreate (sl : Nat) (cmd : List Byte) (s : State) : Host.Outcome State Fault Refusal :=
  .next (svAdmin s sl 0xA0 cmd (fun s t =>
    let kind := par cmd 0x10 0 1
    let h := par cmd 0x14 0 32
    if kind = 0 && !ctrlBindOk s t then failed s STS_SV_BINDING
    else if kind = 1 && !(chanOf s h).any (fun e => e.2.kind == 4 && e.2.slice == 0) then failed s STS_BAD_HANDLE
    else match afree s.sv.ctrls 4096 with
      | none => failed s STS_NO_RESOURCE
      | some i =>
        let c : Ctrl := { kind := kind, slice := if kind = 1 then 0 else t, fw := (par cmd 0x10 1 1) == 1, qp := if kind = 1 then h else 0 }
        (showCtrls (svUpd s (fun v => { v with ctrls := aset v.ctrls i c })), some { aux := i })))

/-- A controller goes with what it has outstanding. -/
def execCtrlDestroy (sl : Nat) (cmd : List Byte) (s : State) : Host.Outcome State Fault Refusal :=
  .next (svAdmin s sl 0xA1 cmd (fun s _ =>
    let i := par cmd 0x10 0 32
    match aget s.sv.ctrls i with
    | none => failed s STS_SV_CTRL
    | some c =>
      if !c.nss.isEmpty then failed s STS_IN_USE else
      let cmds := s.sv.cmds.filter (fun e => e.2.ctrl ≠ i || e.2.stage == .staged)
      (settle (showFlight (showCtrls (svUpd s (fun v => { v with ctrls := adel v.ctrls i, cmds := cmds })))), some {})))

def execCtrlQuery (sl : Nat) (cmd : List Byte) (env : Env) (s : State) : Host.Outcome State Fault Refusal :=
  .next (svAdmin s sl 0xA2 cmd (fun s _ =>
    let i := par cmd 0x10 0 32
    match aget s.sv.ctrls i with
    | none => failed s STS_SV_CTRL
    | some c => adminResult s sl cmd (ctrlEntry s i c) env))

/-! Pools (R518, R535, R536, R540). -/

/-- A drive namespace belongs to a pool or to a pass-through namespace. -/
def driveUsed (s : State) (port nsid : Nat) : Bool :=
  s.sv.pools.any (fun e => e.2.members.any (fun m => m.port == port && m.nsid == nsid)) ||
  s.sv.nss.any (fun e => e.2.backing == 2 && e.2.target == port && e.2.nsid == nsid)

/-- POOL_CREATE; `d0` and `d1` are what the drives answer of their namespaces: their size in map units, none where absent. -/
def execPoolCreate (sl : Nat) (cmd : List Byte) (d0 d1 : Option Nat) (s : State) : Host.Outcome State Fault Refusal :=
  .next (svAdmin s sl 0xA4 cmd (fun s _ =>
    let p0 := par cmd 0x10 0 3
    let p1 := par cmd 0x10 4 3
    let mirror := par cmd 0x10 3 1 == 1
    let n0 := par cmd 0x14 0 32
    let n1 := par cmd 0x18 0 32
    if mirror && p0 = p1 || driveUsed s p0 n0 || mirror && driveUsed s p1 n1 then failed s STS_SV_POOL else
    match d0, (if mirror then d1 else some 0) with
    | some u0, some u1 =>
      match afree s.sv.pools 64 with
      | none => failed s STS_NO_RESOURCE
      | some p =>
        let ms : List Member := [{ port := p0, nsid := n0, units := u0 }] ++ (if mirror then [{ port := p1, nsid := n1, units := u1 }] else [])
        (showPools (svUpd s (fun v => { v with pools := aset v.pools p { mirror := mirror, members := ms } })), some { aux := p })
    | _, _ => failed s STS_SV_POOL))

def execPoolDestroy (sl : Nat) (cmd : List Byte) (s : State) : Host.Outcome State Fault Refusal :=
  .next (svAdmin s sl 0xA5 cmd (fun s _ =>
    let p := par cmd 0x10 0 32
    if (aget s.sv.pools p).isNone then failed s STS_SV_POOL
    else if s.sv.nss.any (fun e => e.2.backing == 0 && e.2.target == p) then failed s STS_IN_USE
    else (showPools (svUpd s (fun v => { v with pools := adel v.pools p })), some {})))

/-- POOL_REBUILD: `d` is the size in map units of the replacing drive namespace, none where it is absent. -/
def execPoolRebuild (sl : Nat) (cmd : List Byte) (d : Option Nat) (s : State) : Host.Outcome State Fault Refusal :=
  .next (svAdmin s sl 0xA6 cmd (fun s _ =>
    let p := par cmd 0x10 0 8
    let port := par cmd 0x10 8 3
    let nsid := par cmd 0x14 0 32
    match aget s.sv.pools p with
    | none => failed s STS_SV_POOL
    | some x =>
      match (List.range x.members.length).find? (fun k => !memberGood x k), (List.range x.members.length).find? (memberGood x), d with
      | some k, some g, some u =>
        let old := (x.members[k]?).getD { port := 0, nsid := 0, units := 0 }
        let live := (x.members[g]?).getD old
        if x.rebuild.isSome then failed s STS_SV_STATE
        else if driveUsed (poolUpd s p (fun y => { y with members := [live] })) port nsid || live.port = port then failed s STS_SV_POOL
        else if u < old.units then failed s STS_SV_CAPACITY
        else
          let new : Member := { port := port, nsid := nsid, units := u, journal := live.journal }
          (showPools (poolUpd s p (fun y => { y with members := y.members.set k new, rebuild := some k })), some {})
      | _, _, none => failed s STS_SV_POOL
      | _, _, _ => failed s STS_SV_STATE))

/-- POOL_QUERY; how far a rebuild has come is a free value. -/
def execPoolQuery (sl : Nat) (cmd : List Byte) (s : State) : Host.Outcome State Fault Refusal :=
  .next (svAdmin s sl 0xA7 cmd (fun s _ =>
    match aget s.sv.pools (par cmd 0x10 0 32) with
    | none => failed s STS_SV_POOL
    | some x =>
      if x.rebuild.isNone then (s, some { aux := poolState x })
      else
        let r := draw s
        (r.2, some { aux := poolState x + 256 * (r.1 % 101) })))

/-- Controllers that a pool's namespaces are attached to. -/
def poolCtrls (s : State) (p : Nat) : List Nat :=
  (s.sv.ctrls.filter (fun e => e.2.nss.any (fun n => (aget s.sv.nss n.2).any (fun x => x.backing == 0 && x.target == p)))).map (fun e => e.1)

/-- Reads outstanding at a member: they read a unit that alternates to it (R535). -/
def readsAt (s : State) (p m : Nat) : Nat :=
  (s.sv.cmds.filter (fun e => e.2.stage == .sent && sqeOp e.2.sqe == 2 && (cmdNs s e.2).any (fun x =>
    x.2.backing == 0 && x.2.target == p && e.2.ranges.any (fun r => (rangeUnits x.2 r.1 r.2).any (fun u => u % 2 == m))))).length

/-- Commands at their drives that a lost member of a pool was to serve go on at the others (R535): its requests end, and a Read that
is left with none is issued again. -/
def reissue (s : State) (p port : Nat) : State :=
  (s.sv.cmds.filter (fun e => e.2.stage == .sent && (cmdNs s e.2).any (fun x => x.2.backing == 0 && x.2.target == p))).foldl (fun s e =>
    let s := rpUpd s port (fun r => { r with reqs := adel r.reqs e.1 })
    match cmdNs s e.2 with
    | some (_, x) => if sqeOp e.2.sqe = 2 && !drvLive s e.1 then drvOpen s e.1 e.2 x else s
    | none => s) s

/-- POOL_MEMBER_FAIL: a member is lost, with its cause: 1 removed, 2 DPC, 3 errors or timeouts. -/
def execPoolMemberFail (p m cause : Nat) (s : State) : Host.Outcome State Fault Refusal :=
  .next (match aget s.sv.pools p with
    | none => s
    | some x =>
      match x.members[m]? with
      | none => s
      | some y =>
        if !y.present then s else
        let was := poolState x
        let n := readsAt s p m
        let x' := { x with members := x.members.set m { y with present := false }, rebuild := if x.rebuild = some m then none else x.rebuild }
        let s := showPools (poolUpd s p (fun _ => x'))
        if poolState x' = 2 then
          let s := if was = 1 then bump s Reg.SV_REISSUE_CNT n else s
          let s := reissue s p y.port
          let s := raise s 0x900 [(4, p), (4, y.port), (4, cause)]
          (poolCtrls s p).foldl (fun s i => if (aget s.sv.ctrls i).any (fun c => (featOf c 0xB).testBit 2) then aerFire s i 0x020001 else s) s
        else (s.sv.nss.filter (fun e => e.2.backing == 0 && e.2.target == p)).foldl (fun s e => nsNotReady s e.1) s)

/-- POOL_REBUILD_DONE: the copy ends. -/
def execPoolRebuildDone (p : Nat) (s : State) : Host.Outcome State Fault Refusal :=
  .next (match aget s.sv.pools p with
    | none => s
    | some x =>
      if x.rebuild.isSome && poolState x = 2 then raise (showPools (poolUpd s p (fun y => { y with rebuild := none }))) 0x901 [(4, p)] else s)

/-! Journals (R521, R522). -/

/-- A record of a journal that replay accepts after sequence `last` (none: any). -/
def recordOk (last : Option Nat) (r : List Byte) : Bool :=
  let r := fit 64 r
  leAt r 0 4 == 0x524D5A47 && leAt r 0x38 4 == crc32c (r.take 56) && fld (leAt r 0x20 4) 0 7 ≠ 0 &&
  (match last with | some n => leAt r 8 8 == n + 1 | none => true)

/-- The records of a journal up to the first that does not follow. -/
def journalGood : Option Nat → List (List Byte) → List (List Byte)
  | _, [] => []
  | last, r :: rs => if recordOk last r then fit 64 r :: journalGood (some (leAt r 8 8)) rs else []

def journalSeq (rs : List (List Byte)) : Nat := ((rs.getLast?).map (fun r => leAt r 8 8)).getD 0

/-- A map record takes effect: its units are mapped, with the contents found on the media, or unmapped. -/
def replayRecord (blocks : List (Nat × Nat × List Byte)) (s : State) (r : List Byte) : State :=
  let n := leAt r 4 4
  let u0 := leAt r 0x10 8
  let w := leAt r 0x20 4
  (List.range (fld w 0 7)).foldl (fun s k =>
    let u := u0 + k
    if w.testBit 7 then unmapUnit s n u
    else if (aget s.sv.nss n).isSome then
      let s := nsUpd s n (fun y => { y with mapped := insNat u y.mapped })
      match blocks.find? (fun b => b.1 == n && b.2.1 == u) with
      | some b => store s (nsBase n + u * 4096) (fit 4096 b.2.2)
      | none => s
    else s) s

/-- JOURNAL_REPLAY of a pool: `j0` and `j1` are the journals found on its members, none where a member is not there; `blocks`
are the contents of units on the media: namespace, unit, bytes as stored. -/
def execJournalReplay (p : Nat) (j0 j1 : Option (List (List Byte))) (blocks : List (Nat × Nat × List Byte)) (s : State) :
    Host.Outcome State Fault Refusal :=
  .next (match aget s.sv.pools p with
    | none => s
    | some x =>
      if poolState x ≠ 3 && x.seq ≠ 0 then s else
      let js := (if x.mirror then [j0, j1] else [j0]).map (fun j => j.map (journalGood none))
      let best := js.foldl (fun a j => match j with
        | some b => if journalSeq a ≤ journalSeq b && b.length ≥ a.length || a.isEmpty then b else a
        | none => a) []
      if js.all (fun j => j.isNone) then s else
      let fixed := (js.map (fun j => match j with | some b => (best.filter (fun r => !b.contains r)).length | none => 0)).foldl (· + ·) 0
      let ms := (List.range x.members.length).map (fun k =>
        let m := (x.members[k]?).getD { port := 0, nsid := 0, units := 0 }
        match (js[k]?).getD none with
        | some _ => { m with present := true, journal := best }
        | none => { m with present := false })
      let s := showPools (poolUpd s p (fun y => { y with members := ms, seq := journalSeq best, rebuild := none }))
      let s := best.foldl (replayRecord blocks) s
      raise s 0x907 [(4, p), (4, best.length), (4, fixed)])

/-! Namespaces (R516 to R519, R524, R537, R538, R540). -/

/-- The data key and the tweak key of a namespace, both of role DIRECT. -/
def nsKeySlots (s : State) (t off : Nat) : Byte ⊕ (State × Nat) :=
  match slotAbs s t off, slotAbs s t (off + 1) with
  | some a, some b =>
    match useSlot s a 1 with
    | .inl e => .inl e
    | .inr (s, _) => match useSlot s b 1 with
      | .inl e => .inl e
      | .inr (s, _) => .inr (s, a)
  | _, _ => .inl STS_KEY_SLOT

/-- Why a namespace cannot have its backing; `d` is what the target or drive answers: its size in blocks, bytes of a block,
bytes of metadata, then NAWUN, NAWUPF, NABSPF and NSFEAT bit 1. -/
def nsBackingSts (s : State) (cmd : List Byte) (d : Option (List Nat)) : Option Byte :=
  let tgt := par cmd 0x14 0 32
  let size := par cmd 0x20 0 64
  let blk := if par cmd 0x10 2 1 = 1 then 4096 else 512
  let v (k : Nat) : Nat := (d.bind (fun l => l[k]?)).getD 0
  match par cmd 0x10 0 2 with
  | 0 => match aget s.sv.pools tgt with
    | none => some STS_SV_POOL
    | some p =>
      let sum := ((s.sv.nss.filter (fun e => e.2.backing == 0 && e.2.target == tgt)).map (fun e => e.2.size * nsBlk e.2)).foldl (· + ·) 0
      if size = 0 || (sum + size * blk) * 16 > poolUnits p * 4096 * 15 then some STS_SV_CAPACITY else none
  | 1 => if !svQpReady s tgt || d.isNone then some STS_SV_BACKING else if size = 0 || size > v 0 then some STS_SV_CAPACITY else none
  | 2 =>
    if driveUsed s (tgt % 8) (par cmd 0x18 0 32) then some STS_SV_POOL
    else if d.isNone || v 1 ≠ blk || v 2 ≠ 0 then some STS_SV_BACKING
    else if size = 0 || size > v 0 then some STS_SV_CAPACITY else none
  | _ => some STS_INVALID_PARAM

/-- The key slots that an encrypted namespace is created with. -/
def nsCreateKeys (s : State) (cmd : List Byte) (enc : Bool) : Byte ⊕ (State × Option Nat) :=
  if !enc then .inr (s, none) else
  match nsKeySlots s (par cmd 0x28 0 14) (par cmd 0x28 16 16) with
  | .inl e => .inl e
  | .inr (s, a) => .inr (s, some a)

/-- NS_CREATE; the index of a new namespace is the lowest free one. -/
def execNsCreate (sl : Nat) (cmd : List Byte) (d : Option (List Nat)) (s : State) : Host.Outcome State Fault Refusal :=
  .next (svAdmin s sl 0xA8 cmd (fun s _ =>
    let enc := par cmd 0x10 3 1 == 1
    let backing := par cmd 0x10 0 2
    match nsBackingSts s cmd d, afree s.sv.nss 65536 with
    | some e, _ => failed s e
    | none, none => failed s STS_NO_RESOURCE
    | none, some n =>
      match nsCreateKeys s cmd enc with
      | .inl e => failed s e
      | .inr (s, a) =>
        let x : Ns := { backing := backing, lba4k := par cmd 0x10 2 1 == 1, enc := enc,
                        target := if backing = 2 then par cmd 0x14 0 3 else par cmd 0x14 0 32,
                        nsid := par cmd 0x18 0 32, size := par cmd 0x20 0 64, keySlot := a, drive := (d.getD []).drop 3 }
        (showNss (svUpd s (fun v => { v with nss := aset v.nss n x })), some { aux := n })))

/-- Attachments of a namespace. -/
def nsAttachments (s : State) (n : Nat) : Nat :=
  (s.sv.ctrls.map (fun e => (e.2.nss.filter (fun y => y.2 == n)).length)).foldl (· + ·) 0

def execNsDestroy (sl : Nat) (cmd : List Byte) (s : State) : Host.Outcome State Fault Refusal :=
  .next (svAdmin s sl 0xA9 cmd (fun s _ =>
    let n := par cmd 0x10 0 32
    match aget s.sv.nss n with
    | none => failed s STS_SV_NS
    | some x =>
      if nsAttachments s n ≠ 0 then failed s STS_IN_USE else
      let s := x.mapped.foldl (fun s u => unmapUnit s n u) s
      let cmds := s.sv.cmds.filter (fun e => e.2.ns ≠ some n)
      (settle (showNss (svUpd s (fun v => { v with nss := adel v.nss n, cmds := cmds }))), some {})))

def execNsAttach (sl : Nat) (cmd : List Byte) (s : State) : Host.Outcome State Fault Refusal :=
  .next (svAdmin s sl 0xAA cmd (fun s _ =>
    let n := par cmd 0x10 0 32
    let i := par cmd 0x14 0 32
    let nsid := par cmd 0x18 0 32
    if (aget s.sv.nss n).isNone then failed s STS_SV_NS else
    match aget s.sv.ctrls i with
    | none => failed s STS_SV_CTRL
    | some c =>
      if nsid = 0 || nsid > 1024 || (aget c.nss nsid).isSome || nsAttachments s n ≥ 16 then failed s STS_SV_NSID
      else (nsChanged (ctrlUpd s i (fun x => { x with nss := aset x.nss nsid n })) i nsid, some {})))

/-- NS_DETACH: the NSID goes at once, and the command completes when the namespace's commands on the controller have. -/
def execNsDetach (sl : Nat) (cmd : List Byte) (s : State) : Host.Outcome State Fault Refusal :=
  .next (svAdmin s sl 0xAB cmd (fun s _ =>
    let n := par cmd 0x10 0 32
    let i := par cmd 0x14 0 32
    match aget s.sv.ctrls i with
    | none => if (aget s.sv.nss n).isNone then failed s STS_SV_NS else failed s STS_SV_CTRL
    | some c =>
      match c.nss.find? (fun e => e.2 == n) with
      | none => failed s STS_SV_NS
      | some (nsid, _) =>
        let s := if c.test.any (fun t => t.nsid == nsid) then testEnd s i 3 0 else s
        let s := nsChanged (ctrlUpd s i (fun x => { x with nss := adel x.nss nsid })) i nsid
        if s.sv.cmds.any (fun e => e.2.ctrl == i && e.2.ns == some n && e.2.stage ≠ .staged) then (adminDefer s sl 0xAB (leAt cmd 8 8) (n * 4096 + i), none)
        else (s, some {})))

/-- The key slots of a namespace whose keys a modification asks for again. -/
def nsKeysReady (s : State) (keys : Bool) (slot : Option Nat) : Byte ⊕ State :=
  match keys, slot with
  | true, some a => match useSlot s a 1 with
    | .inl e => .inl e
    | .inr (s, _) => match useSlot s (a + 1) 1 with
      | .inl e => .inl e
      | .inr (s, _) => .inr s
  | _, _ => .inr s

/-- NS_MODIFY: a new queue pair, or a check of the keys that were imported again. -/
def execNsModify (sl : Nat) (cmd : List Byte) (s : State) : Host.Outcome State Fault Refusal :=
  .next (svAdmin s sl 0xAC cmd (fun s _ =>
    let n := par cmd 0x10 0 32
    let qp := par cmd 0x14 0 1 == 1
    let keys := par cmd 0x14 1 1 == 1
    let h := par cmd 0x18 0 32
    match aget s.sv.nss n with
    | none => failed s STS_SV_NS
    | some x =>
      if qp && (x.backing ≠ 1 || !svQpReady s h) then failed s STS_SV_BACKING else
      match nsKeysReady s keys x.keySlot with
      | .inl e => failed s e
      | .inr s =>
        let s := if qp then nsUpd s n (fun y => { y with target := h }) else s
        let s := if keys && x.state = 2 || qp && x.state = 1 then nsState s n 0 else s
        (s, some {})))

def execNsQuery (sl : Nat) (cmd : List Byte) (s : State) : Host.Outcome State Fault Refusal :=
  .next (svAdmin s sl 0xAD cmd (fun s _ =>
    match aget s.sv.nss (par cmd 0x10 0 32) with
    | none => failed s STS_SV_NS
    | some x =>
      let used := if x.backing = 0 then x.mapped.length * (4096 / nsBlk x) else x.size
      (s, some { aux := x.state, len := min used 0xFFFFFFFF })))

/-- The backing of a namespace can be reached: a member of its pool, its queue pair in RTS; of a drive the event itself
tells. -/
def nsReachable (s : State) (x : Ns) : Bool :=
  match x.backing with
  | 0 => (aget s.sv.pools x.target).any (fun p => poolState p ≠ 3)
  | 1 => svQpReady s x.target
  | _ => true

/-- NS_NOT_READY: the backing of namespace `n` cannot be reached. -/
def execNsNotReady (n : Nat) (s : State) : Host.Outcome State Fault Refusal :=
  .next (match aget s.sv.nss n with
    | some x => if x.backing = 2 || !nsReachable s x then nsNotReady s n else s
    | none => s)

/-- NS_READY: the backing can be reached again. -/
def execNsReady (n : Nat) (s : State) : Host.Outcome State Fault Refusal :=
  .next (match aget s.sv.nss n with
    | some x => if x.state = 1 && nsReachable s x then nsState s n 0 else s
    | none => s)

end Sys2Proof.Machine
end

