-- ==== Sys2Proof/Machine/Ozelm.lean ====
section
/-! DEFINITION. Machine/Ozelm.lean: the erasure of the key store (chapter 13), the mailbox, life cycle, management messages,
supply and temperature, the log and the restarts of Ozelm (chapter 20). -/

namespace Sys2Proof.Machine

/-! Erasure of the key store (R454, R455, R495, R538). -/

/-- IDE streams that hold keys become Insecure. -/
def ideInsecure (s : State) : State :=
  let s := { s with host := { s.host with ideKeys := [] } }
  (s.host.ide.filter (fun e => e.2 == 1)).foldl (fun s e =>
    raise { s with host := { s.host with ide := aset s.host.ide e.1 2 } } (hlSrc (e.1 / 4) 13) [(4, e.1 % 4), (4, 2)]) s

/-- Encrypted queue pairs enter ERROR without an ABORT. -/
def qpsKeyless (s : State) : State :=
  (s.rm.qps.filter (fun e => e.2.sec.isSome)).foldl (fun s e =>
    qpError (qpUpd s e.1 (fun q => { q with sec := q.sec.map (fun c => { c with state := 2 }) })) e.1 STS_RM_KEYLESS none false) s

/-- Alarms (a set of the bits of KS_ALARM) erase every key. -/
def keyErase (s : State) (bits : Nat) : State :=
  let alarms := rdN s Reg.KS_ALARM ||| (bits % 32)
  let n := (s.cy.ctxs.filter (fun e => e.2.state ≠ 2)).length
  let s := wrF (wrN s Reg.KS_ALARM alarms) Reg.KS_STATUS 2 1 1
  let s := cyUpd s (fun c => { c with slots := [], caches := [], ctxs := amap c.ctxs (fun _ x => { x with state := 2 }) })
  let s := cyUpd s (fun c => { c with reqs := amap c.reqs (fun _ r => { r with keys := [], salt := 0, fixed := some STS_KEY_ERASED }) })
  let s := wr64 (bump (showSlots s) Reg.KS_ERASE_CNT) Reg.KS_ERASE_TIME_LO (nowNs s)
  let s := raise s 0x800 [(4, bits)]
  let s := raise s 0x806 [(4, n)]
  svKeyless (qpsKeyless (ideInsecure s))

/-- KEY_ERASE_ALARM (R454): the alarms of `bits` fire: 0 mesh, 1 glitch, 2 clock, 3 temperature, 4 command. -/
def execKeyEraseAlarm (bits : Nat) (s : State) : Host.Outcome State Fault Refusal :=
  .next (if bits % 32 = 0 then s else keyErase s (bits % 32))

/-! The mailbox (R661). -/

/-- What a mailbox command does: the state, its status and its results from RES0 on; none where it waits. -/
abbrev MbRun := State → List Nat → Env → Option (State × Byte × List Nat)

def argOf (a : List Nat) (k : Nat) : Nat := (a[k]?).getD 0
def argAddr (a : List Nat) (k : Nat) : Nat := argOf a k + argOf a (k + 1) * 0x100000000

/-- Writes memory of the owner. -/
def ozPut (s : State) (addr : Nat) (bs : List Byte) (e : Env) : State × Byte :=
  match s.host.owner with
  | some _ => adminPut s 0 addr bs e
  | none => if addr + bs.length ≤ fwBytes s then (store s (fwBase + addr) bs, STS_OK) else (s, STS_INVALID_PARAM)

def mbFail (s : State) (c : Byte) : Option (State × Byte × List Nat) := some (s, c, [])
def mbOk (s : State) (rs : List Nat := []) : Option (State × Byte × List Nat) := some (s, STS_OK, rs)

/-- A command ends: its results, its status, BUSY clear. -/
def mbEnd (s : State) (sts : Byte) (rs : List Nat) : State :=
  let s := (List.range (min 8 rs.length)).foldl (fun s k => wrN s (Reg.OZ_MB_RES k) (argOf rs k)) s
  wrF (wrN s Reg.OZ_MB_STATUS sts.toNat) Reg.OZ_MB_CMD 8 1 0

/-- A write of OZ_MB_CMD that passed the gate. -/
def mbStart (s : State) (v : W32) (env : Env) (run : MbRun) : State :=
  if s.oz.lc = 3 then s
  else if !ozRunning s then wrN s Reg.OZ_MB_STATUS STS_OZ_BUSY.toNat
  else if rdF s Reg.OZ_MB_CMD 8 1 = 1 then wrF s Reg.OZ_MB_CMD 9 1 1
  else
    let s := if rbit v 9 then wrF s Reg.OZ_MB_CMD 9 1 0 else s
    let args := (List.range 8).map (fun w => rdN s (Reg.OZ_MB_ARG w))
    match run s args env with
    | some (s, sts, rs) => mbEnd s sts rs
    | none => wrF (ozUpd s (fun o => { o with held := some { op := rfld v 0 8, args := args, env := env } })) Reg.OZ_MB_CMD 8 1 1

/-- The row of one OP: OPs 0x20 to 0x2F are guarded. -/
def mbRow (s : State) (req : Requester) (be : Nat) (v : W32) (op : Nat) (env : Env) (run : MbRun) : State :=
  if rfld v 0 8 ≠ op then s else gate s req be Reg.OZ_MB_CMD (op / 16 == 2) (fun s => mbStart s v env run)

/-- A command reads memory of the owner, its slice's address space or the firmware region, and goes on with it. -/
def mbRead (s : State) (addr n : Nat) (e : Env) (f : State → List Byte → Option (State × Byte × List Nat)) : Option (State × Byte × List Nat) :=
  match s.host.owner with
  | some _ => match slFetch s 0 [(addr, n)] 0 (envRead e 0) with
    | (s, .ok bs) => f s (fit n bs)
    | (s, .failed c) => mbFail s c
  | none => if addr + n ≤ fwBytes s then f s (memGets s.mem (fwBase + addr) n) else mbFail s STS_INVALID_PARAM

/-! The commands. -/

def mbInfo : MbRun := fun s _ _ =>
  mbOk s ((List.range 4).map (fun k => Config.deviceId / 2 ^ (32 * k) % 2 ^ 32) ++ [rdN s Reg.OZ_IMAGE, rdN s Reg.OZ_SVN])

/-- The number of the oldest record held: the ring keeps 510 sectors before the one it writes (R650). -/
def logOldest (s : State) : Nat :=
  let m := rdN s Reg.OZ_LOG_NEXT - s.oz.todo
  128 * (ceilDiv m 128 + 1 - 512)

/-- Where record m lies in the flash. -/
def logAddr (m : Nat) : Nat := 0x3E00000 + 32 * (m % 65536)

def logRead (s : State) (m : Nat) : List Byte :=
  match s.oz.log.find? (fun e => e.1 == m) with
  | some e => e.2
  | none => flashGet s (logAddr m) 32

def mbLogRead : MbRun := fun s a e =>
  let first := argOf a 2
  let next := rdN s Reg.OZ_LOG_NEXT
  let old := logOldest s
  if argOf a 3 > 4096 then mbFail s STS_INVALID_PARAM else
  let lo := max first old
  let ms := (List.range (min next (first + argOf a 3) - lo)).map (lo + ·)
  if ms.isEmpty then mbOk s [0, old, next] else
  match ozPut s (argAddr a 0) (ms.flatMap (logRead s)) e with
  | (s, sts) => if sts = STS_OK then mbOk s [ms.length, old, next] else mbFail s sts

def mbBindMgmt : MbRun := fun s a _ =>
  let h := argOf a 0
  if h ≠ 0 && (inPort s h).isNone then mbFail s STS_PORT_UNBOUND else mbOk (ozUpd s (fun o => { o with mgmt := h }))

def mbFwBegin : MbRun := fun s _ _ =>
  if deferral s then none else match fwBegin s 0 with | (s, c) => some (s, c, [])

def mbFwWrite : MbRun := fun s a e =>
  let n := argOf a 3
  if argOf a 2 + n > slotBytes then mbFail s STS_LEN_RANGE
  else if s.oz.step ≠ 1 || s.oz.route ≠ 0 then mbFail s (if s.oz.step ≠ 0 && s.oz.route ≠ 0 then STS_OZ_BUSY else STS_LC_STATE)
  else if deferral s then none
  else if n = 0 then mbOk s
  else mbRead s (argAddr a 0) n e (fun s bs => match fwWrite s 0 (argOf a 2) bs with | (s, c) => some (s, c, []))

def mbFwVerify : MbRun := fun s _ _ =>
  match fwVerify s 0 with
  | (s, c) => if c = STS_OK then mbOk s [imgSvn s (otherSlot s)] else mbFail s c

def mbFwActivate : MbRun := fun s a _ =>
  if deferral s then none else
  match fwActivate s 0 ((argOf a 0).testBit 0) ((argOf a 0).testBit 1) with | (s, c) => some (s, c, [])

/-- The fuse burn is refused while the supply is unsteady; the flash write waits for the deferral (R647). -/
def mbFwCommit : MbRun := fun s _ _ =>
  if !bootPending s then mbFail s STS_LC_STATE
  else if imgSvn s (activeSlot s) > s.oz.svn && unsteady s then mbFail s STS_OZ_BUSY
  else if deferral s then none
  else match fwCommit s with | (s, c) => some (s, c, [s.oz.svn])

def mbFwRevert : MbRun := fun s _ _ =>
  if bootPending s && deferral s then none else match fwRevert s with | (s, c) => some (s, c, [])

/-! STAIR_PROBE (R657, R661). -/

/-- The vector of a slice may be probed in this life-cycle state. -/
def probeMay (s : State) (sl : Nat) : Bool :=
  match s.oz.lc, s.oz.scope with
  | 0, _ => true
  | 1, some (1, k, _) => k == sl
  | 2, some (2, _, _) => true
  | _, _ => false

/-- Runs a climb through `n` steps of a stair, without any other packet. -/
def probeRun (q fl : Nat) : Nat → State → Climb → State × Climb
  | 0, s, c => (s, c)
  | n + 1, s, c => let r := runStep s q q fl c {}; probeRun q fl n r.1 r.2

/-- The outcome of a test vector on stair q in discard mode: the metadata word and the climb. -/
def probeVec (s : State) (q : Nat) (v : List Byte) : State × List Byte × Climb :=
  let fl := fld (leAt v 0 4) 8 1
  let hdr := slice v 0x88 (min 512 (fld (leAt v 4 4) 0 10))
  let md := mdPut (mdPut (slice v 8 128) 0xC 0 6 (leAt v 0 4)) 8 16 16 (sheafCur s)
  let k : Pkt := { id := 0, hdr := hdr, body := [], md := md, hdr0 := hdr, md0 := md, grains := 0, stair := q }
  let c : Climb := { pkt := k, seq := 0, entryNs := nowNs s, entryEl := elNs s, bank := ucActive s q fl }
  let r := probeRun q fl (flightLen fl) s c
  let k := retirePkt r.2
  let md := if fl = 1 || r.2.gone then k.md else match (resolveIn r.1 q q 0 r.2.hdrOvf k).2 with
    | .go k => k.md
    | .consumed k => k.md
    | .glean _ => k.md
  (r.1, md, r.2)

/-- A vector's outcome matches what it expects. -/
def probeMatch (v md : List Byte) (sig : Nat) : Bool :=
  let mask := leAt v 0x2B8 4
  mdDisp md == fld (leAt v 0x288 4) 0 3 && mdReason md == fld (leAt v 0x288 4) 3 8 && mdQueue md == leAt v 0x28C 4 % 2 ^ 18 &&
  mdHandle md == leAt v 0x290 4 && sig == leAt v 0x294 4 &&
  (List.range 32).all (fun i => !mask.testBit i || slice md (0x60 + i) 1 == slice v (0x298 + i) 1)

def mbStairProbe : MbRun := fun s a e =>
  match spareStair s with
  | none => mbFail s STS_OZ_BUSY
  | some q =>
    if rhRunning s then mbFail s STS_OZ_BUSY else
    mbRead s (argAddr a 0) 704 e (fun s v =>
      if !probeMay s (mdSlice (slice v 8 128)) then mbFail s STS_PERMISSION else
      match probeVec s q v with
      | (s, md, c) =>
        let sig := intentSig (c.shed ++ c.intents)
        let res := pack 16 [(0, 0, 1, b2n (probeMatch v md sig && !c.gone)), (0, 1, 3, mdDisp md), (0, 4, 8, mdReason md), (4, 0, 18, mdQueue md),
          (8, 0, 32, mdHandle md), (0xC, 0, 32, sig)] ++ slice md 0x60 32 ++ List.replicate 16 0
        match ozPut s (argAddr a 2) res e with
        | (s, c) => some (s, c, []))

/-! Keys, life cycle, tokens (R657 to R659). -/

def mbKeyErase : MbRun := fun s _ _ => mbOk (keyErase s 16)

/-- Checks a token: its KIND is one of those that the command takes, and it is signed by the owner or by the vendor. The nonce
is used up. -/
def tokenCheck (s : State) (t : List Byte) (kinds : List Nat) (vendor : Bool) : State × Bool :=
  let pub := slice t 0x40 97
  let fresh := match s.oz.nonce with
    | some (n, at') => ofLe (slice t 0x18 16) == n && s.time.elapsed ≤ at' + 60000 * msUnits
    | none => false
  let signer := if vendor then (List.range 4).any (fun k => Config.sha384 pub == Config.vendorHash k && !Config.vendorRevoked k)
    else Config.sha384 pub == s.oz.ownerKey && !s.oz.ownerRevoked
  let ok := leAt t 0 4 == 0x54445A47 && kinds.contains (leAt t 4 1) && leAt t 5 1 == s.oz.lc && ofLe (slice t 8 16) == Config.deviceId % 2 ^ 128 &&
    fresh && signer && Config.ecdsaOk pub (slice t 0 0xA8) (slice t 0xA8 48) (slice t 0xD8 48)
  (ozUpd s (fun o => { o with nonce := none }), ok)

/-- The life cycle moves (R658). -/
def lcMove (s : State) (dst : Nat) (owner : List Byte) : State :=
  let old := s.oz.lc
  let s := scopeClose s
  let s := ozUpd s (fun o => { o with lc := dst, ownerKey := if old = 0 then owner else o.ownerKey, ownerRevoked := o.ownerRevoked || 2 ≤ dst })
  let s := showScope (wrF s Reg.OZ_STATUS 1 2 dst)
  let s := if 2 ≤ dst then keyErase s 16 else s
  raise s 0x047 [(4, old), (4, dst)]

def mbLcTransition : MbRun := fun s a e =>
  let dst := argOf a 0
  let old := s.oz.lc
  if !((old = 0 && dst = 1) || (old = 1 && (dst = 2 || dst = 3)) || (old = 2 && dst = 3)) then mbFail s STS_LC_STATE
  else if unsteady s then mbFail s STS_OZ_BUSY
  else mbRead s (argAddr a 1) (if old = 0 then 97 else 264) e (fun s bs =>
      if old = 0 then mbOk (lcMove s dst (Config.sha384 bs))
      else match tokenCheck s bs [if dst = 2 then 3 else 4] (old == 2) with
        | (s, true) => mbOk (lcMove s dst [])
        | (s, false) => mbFail s STS_TOKEN)

def mbBcrWrite : MbRun := fun s a e =>
  if deferral s then none else
  mbRead s (argAddr a 0) 4096 e (fun s bs =>
    if bcrGood bs then mbOk (flashPut (flashPut s 0 bs) 0x1000 bs) else mbFail s STS_IMAGE)

def mbOzRestart : MbRun := fun s _ _ => mbOk s

def mbNonce : MbRun := fun s _ _ =>
  if !drbgUp s then mbFail s STS_ENTROPY else
  let r := draw s
  let n := r.1 % 2 ^ 128
  mbOk (ozUpd r.2 (fun o => { o with nonce := some (n, s.time.elapsed) })) ((List.range 4).map (fun k => n / 2 ^ (32 * k) % 2 ^ 32))

/-- A debug scope opens; one that was open closes. -/
def scopeOpen (s : State) (kind sl expiry : Nat) (token : List Byte) : State :=
  let s := scopeClose s
  let s := showScope (ozUpd s (fun o => { o with scope := some (kind, sl, expiry), history := Config.sha384 (o.history ++ token) }))
  scopeEvents (raise s 0x048 [(4, 0), (4, kind), (4, sl)]) kind sl

def mbDebugOpen : MbRun := fun s a e =>
  if s.oz.lc ≠ 1 && s.oz.lc ≠ 2 then mbFail s STS_LC_STATE else
  mbRead s (argAddr a 0) 264 e (fun s t =>
    let kind := leAt t 4 1
    let sl := leAt t 6 2 % 2 ^ 14
    match tokenCheck s t [if s.oz.lc = 2 then 2 else 1] (s.oz.lc == 2) with
    | (s, true) => mbOk (scopeOpen s kind sl (leAt t 0x28 8) t)
    | (s, false) => mbFail (raise s 0x048 [(4, 1), (4, kind), (4, sl)]) STS_TOKEN)

def mbDebugClose : MbRun := fun s _ _ => mbOk (scopeClose s)

/-- The command of an OP; one that is not assigned ends with STS_INVALID_OPCODE. -/
def mbRunOf (op : Nat) : MbRun :=
  match op with
  | 0x01 => mbInfo
  | 0x02 => mbLogRead
  | 0x03 => mbBindMgmt
  | 0x10 => mbFwBegin
  | 0x11 => mbFwWrite
  | 0x12 => mbFwVerify
  | 0x13 => mbFwActivate
  | 0x14 => mbFwCommit
  | 0x15 => mbFwRevert
  | 0x18 => mbStairProbe
  | 0x20 => mbKeyErase
  | 0x21 => mbLcTransition
  | 0x22 => mbBcrWrite
  | 0x23 => mbOzRestart
  | 0x30 => mbNonce
  | 0x31 => mbDebugOpen
  | 0x32 => mbDebugClose
  | _ => fun s _ _ => mbFail s STS_INVALID_OPCODE

/-- The command that waited for the deferral runs. -/
def mbResume (s : State) : State :=
  match s.oz.held with
  | some h =>
    match mbRunOf h.op s h.args h.env with
    | some (s, sts, rs) => mbEnd (ozUpd s (fun o => { o with held := none })) sts rs
    | none => s
  | none => s

/-- OZ_RESTART completes, then Ozelm restarts. -/
def mbRestartAfter (s0 s : State) (v : W32) : State :=
  if rfld v 0 8 = 0x23 && ozRunning s0 && s0.oz.lc ≠ 3 && rdF s0 Reg.OZ_MB_CMD 8 1 = 0 then ozRestart s (activeSlot s) 1 else s

/-- Any write of OZ_MB_CMD that passed the gate. -/
def mbWrite (s : State) (v : W32) (env : Env) : State := mbRestartAfter s (mbStart s v env (mbRunOf (rfld v 0 8))) v

def execInfo (req : Requester) (be : Nat) (v : W32) (s : State) : Host.Outcome State Fault Refusal := .next (mbRow s req be v 0x01 {} mbInfo)
def execLogRead (req : Requester) (be : Nat) (v : W32) (env : Env) (s : State) : Host.Outcome State Fault Refusal := .next (mbRow s req be v 0x02 env mbLogRead)
def execBindMgmt (req : Requester) (be : Nat) (v : W32) (s : State) : Host.Outcome State Fault Refusal := .next (mbRow s req be v 0x03 {} mbBindMgmt)
def execFwBegin (req : Requester) (be : Nat) (v : W32) (s : State) : Host.Outcome State Fault Refusal := .next (mbRow s req be v 0x10 {} mbFwBegin)
def execFwWrite (req : Requester) (be : Nat) (v : W32) (env : Env) (s : State) : Host.Outcome State Fault Refusal := .next (mbRow s req be v 0x11 env mbFwWrite)
def execFwVerify (req : Requester) (be : Nat) (v : W32) (s : State) : Host.Outcome State Fault Refusal := .next (mbRow s req be v 0x12 {} mbFwVerify)
def execFwActivate (req : Requester) (be : Nat) (v : W32) (s : State) : Host.Outcome State Fault Refusal := .next (mbRow s req be v 0x13 {} mbFwActivate)
def execFwCommit (req : Requester) (be : Nat) (v : W32) (s : State) : Host.Outcome State Fault Refusal := .next (mbRow s req be v 0x14 {} mbFwCommit)
def execFwRevert (req : Requester) (be : Nat) (v : W32) (s : State) : Host.Outcome State Fault Refusal := .next (mbRow s req be v 0x15 {} mbFwRevert)
def execStairProbe (req : Requester) (be : Nat) (v : W32) (env : Env) (s : State) : Host.Outcome State Fault Refusal := .next (mbRow s req be v 0x18 env mbStairProbe)
def execOzKeyErase (req : Requester) (be : Nat) (v : W32) (s : State) : Host.Outcome State Fault Refusal := .next (mbRow s req be v 0x20 {} mbKeyErase)
def execLcTransition (req : Requester) (be : Nat) (v : W32) (env : Env) (s : State) : Host.Outcome State Fault Refusal := .next (mbRow s req be v 0x21 env mbLcTransition)
def execBcrWrite (req : Requester) (be : Nat) (v : W32) (env : Env) (s : State) : Host.Outcome State Fault Refusal := .next (mbRow s req be v 0x22 env mbBcrWrite)

/-- OZ_RESTART (R656, R661). -/
def execOzRestart (req : Requester) (be : Nat) (v : W32) (s : State) : Host.Outcome State Fault Refusal :=
  .next (if rfld v 0 8 ≠ 0x23 then s else gate s req be Reg.OZ_MB_CMD true (fun s => mbWrite s v {}))

def execNonce (req : Requester) (be : Nat) (v : W32) (s : State) : Host.Outcome State Fault Refusal := .next (mbRow s req be v 0x30 {} mbNonce)
def execDebugOpen (req : Requester) (be : Nat) (v : W32) (env : Env) (s : State) : Host.Outcome State Fault Refusal := .next (mbRow s req be v 0x31 env mbDebugOpen)
def execDebugClose (req : Requester) (be : Nat) (v : W32) (s : State) : Host.Outcome State Fault Refusal := .next (mbRow s req be v 0x32 {} mbDebugClose)

/-- DEBUG_EXPIRY (R659). -/
def execDebugExpiry (s : State) : Host.Outcome State Fault Refusal :=
  .next (match s.oz.scope with
    | some (_, _, e) => if e ≠ 0 && e ≤ nowNs s then scopeClose s else s
    | none => s)

/-! Management messages and the management port (R638 to R641). -/

/-- A SHA-384 over the image section of a type. -/
def sectionHash (s : State) (ty : Nat) : List Byte :=
  let b := activeImage s
  let n := (imgSections s b).length
  ((List.range n).filter (fun i => leAt (flashGet s (b + 0x80 + 64 * i) 1) 0 1 == ty)).flatMap (fun i => flashGet s (b + 0x90 + 64 * i) 48)

/-- The value of an SPDM measurement. -/
def measured (s : State) (i : Nat) : List Byte :=
  match i with
  | 1 => Config.romVersion
  | 2 => sectionHash s 1
  | 3 => Config.sha384 (sectionHash s 2)
  | 4 => sectionHash s 4
  | 5 => sectionHash s 5
  | 6 => match bcrInUse s with
    | some b => Config.sha384 b
    | none => Config.sha384 []
  | 7 => le 1 s.oz.lc ++ le 1 s.oz.svn ++ le 2 (rdF s Reg.OZ_IMAGE 0 16)
  | 8 => s.oz.history
  | _ => []

/-- How a message is answered: 0 done, 1 an unsupported request, 2 busy, 3 refused; then a measurement's value. -/
def answer (s : State) (iface code : Nat) (bs : List Byte := []) : State := emit s (.mgmtReply iface (le 1 code ++ bs))

def stsAnswer (sts : Byte) : Nat := if sts = STS_OK then 0 else if sts = STS_OZ_BUSY then 2 else 3

/-- An interface on which the owner may be: SMBus (0), I3C (1), the owner's host link (2 + link) (R639). -/
def ownerIface (s : State) (iface : Nat) : Bool := iface < 2 || s.host.owner == some (iface - 2)

/-- The owner's first WRAP key enters a slot of slice 0 (R436). -/
def placeOwnerKey (s : State) (slot key : Nat) : State × Byte :=
  match slotAbs s 0 slot with
  | none => (s, STS_KEY_SLOT)
  | some a =>
    if keyBusy s a then (s, STS_KEY_BUSY)
    else if keyLocked s then (s, STS_KEY_ERASED)
    else if !drbgUp s then (s, STS_ENTROPY)
    else
      let s := putKey s a (key % 2 ^ 256)
      (cyUpd s (fun c => { c with slots := aupd c.slots a (fun k => { k with role := 3 }) }), STS_OK)

/-- A message that needs a flash write waits for the deferral to end (R647). -/
def msgHold (s : State) (iface : Nat) (m : MgmtMsg) : State := ozUpd s (fun o => { o with msgs := o.msgs ++ [(iface, m)] })

/-- A management message is answered, or refused on an interface where it is not accepted; nothing answers while Ozelm
restarts or in VOID. IDE_KM and TDISP are answered over DOE (SPDM_REQUEST). -/
def mgmtMsg (s : State) (iface : Nat) (m : MgmtMsg) : State :=
  if !ozRunning s || s.oz.lc = 3 || iface ≥ 18 then s else
  let fw (r : State × Byte) : State := answer r.1 iface (stsAnswer r.2)
  match m with
  | .plain => answer s iface 0
  | .attest => answer s iface 0
  | .measure k => answer s iface 0 (measured s k)
  | .session => answer s iface (if ownerIface s iface then 0 else 1)
  | .ownerKey slot key => if ownerIface s iface then fw (placeOwnerKey s slot key) else answer s iface 1
  | .ideKey _ _ => answer s iface 1
  | .ideGo _ => answer s iface 1
  | .ideStop _ => answer s iface 1
  | .tdisp _ _ => answer s iface 1
  | .fwVerify => if ownerIface s iface then fw (fwVerify s 1) else answer s iface 1
  | .fwBegin => if !ownerIface s iface then answer s iface 1 else if deferral s then msgHold s iface .fwBegin else fw (fwBegin s 1)
  | .fwData off bs => if !ownerIface s iface then answer s iface 1 else if deferral s then msgHold s iface (.fwData off bs) else fw (fwWrite s 1 off bs)
  | .fwActivate => if !ownerIface s iface then answer s iface 1 else if deferral s then msgHold s iface .fwActivate else fw (fwActivate s 1 true true)

/-- The deferral has ended: what waited runs, the mailbox's command first. -/
def ozResume (s : State) : State :=
  let s := mbResume s
  s.oz.msgs.foldl (fun s m => mgmtMsg s m.1 m.2) (ozUpd s (fun o => { o with msgs := [] }))

/-- MCTP_MESSAGE (R639): interface 0 SMBus, 1 I3C, 2 + l vendor-defined messages of host link l. -/
def execMctpMessage (iface : Nat) (m : MgmtMsg) (s : State) : Host.Outcome State Fault Refusal := .next (mgmtMsg s iface m)

/-- MGMT_FRAME_RECEIVE (R640): a frame, without its FCS, and whether that was good. -/
def execMgmtFrameReceive (bytes : List Byte) (good : Bool) (s : State) : Host.Outcome State Fault Refusal :=
  .next (if !good || s.oz.mgmt = 0 then s else
    (punt s 0xF 0 s.oz.mgmt (fit 128 (le 8 (nowNs s))) bytes 0).getD s)

/-- MGMT_FRAME_SEND (R640): a frame at an address of the firmware region. -/
def execMgmtFrameSend (addr len : Nat) (s : State) : Host.Outcome State Fault Refusal :=
  .next (if addr + len ≤ fwBytes s then emit s (.mgmtFrame (memGets s.mem (fwBase + addr) len)) else s)

/-- PMBUS_POLL (R641): one regulator answers with its STATUS_WORD, or does not. -/
def execPmbusPoll (rail : Nat) (status : Option Nat) (s : State) : Host.Outcome State Fault Refusal :=
  .next (if rail ≥ 7 || bcrPmb s rail = 0 || !ozRunning s then s else
    let fault (s : State) (w : Nat) : State := emit (raise s 0x04A [(4, rail), (4, w)]) (.control "CLEAR_FAULTS" [bcrPmb s rail])
    match status with
    | some w =>
      let s := ozUpd s (fun o => { o with silent := adel o.silent rail })
      if w % 65536 = 0 then s else fault s (w % 65536)
    | none =>
      let n := agetD s.oz.silent rail 0 + 1
      let s := ozUpd s (fun o => { o with silent := aset o.silent rail n })
      if n = 3 then fault s 0xFFFF else s)

/-! Supplies (R644, R645, R647). -/

/-- SUPPLY_DIP (R643, R644): a rail, of whose monitors `mvs` are the readings, has stayed below its warning threshold for 500 ns. -/
def execSupplyDip (rail : Nat) (mvs : List Nat) (s : State) : Host.Outcome State Fault Refusal :=
  .next (if rail ≥ 7 || mvs.length ≠ railCount rail || railWarn rail ≤ railLow mvs || (aget s.oz.dips rail).isSome then s else
    let mv := railLow mvs
    let s := noteLows s (railFirst rail) mvs
    let now := s.time.elapsed
    let begun := (s.oz.begun.filter (fun t => now < t + 1000 * msUnits)) ++ [now]
    let s := ozUpd s (fun o => { o with dips := aset o.dips rail (now, mv), begun := begun, left := none })
    let s := raise (bump (wrF s Reg.OZ_STATUS 3 1 1) Reg.OZ_DIP_CNT) 0x040 [(4, rail), (4, mv)]
    if begun.length > 16 && rdF s Reg.OZ_STATUS 4 1 = 0 then raisePhase (wrF s Reg.OZ_STATUS 4 1 1) 0x042 3 [(4, 0)] else s)

/-- SUPPLY_CLEAR (R643, R644): a rail has stayed above its clear threshold for 500 ns. -/
def execSupplyClear (rail : Nat) (ends : RailEnd) (s : State) : Host.Outcome State Fault Refusal :=
  let mvs := ends.mvs
  let lows := ends.lows
  .next (match aget s.oz.dips rail with
    | some (at', mv) =>
      if mvs.length ≠ railCount rail || lows.length ≠ railCount rail || railLow mvs ≤ railClear rail then s else
      let low := railLow lows
      let s := noteLows s (railFirst rail) lows
      let dips := adel s.oz.dips rail
      let s := ozUpd s (fun o => { o with dips := dips, left := if dips.isEmpty then some s.time.elapsed else o.left })
      let s := if dips.isEmpty then wrF s Reg.OZ_STATUS 3 1 0 else s
      raise s 0x041 [(4, rail), (4, (s.time.elapsed - at') / 65536), (4, min mv low)]
    | none => s)

/-- THROTTLE_RELEASE (R644): 100 us after the last rail left dip. -/
def execThrottleRelease (s : State) : Host.Outcome State Fault Refusal :=
  .next (match s.oz.left with
    | some t => if t + 100 * usUnits ≤ s.time.elapsed && !unsteady s then ozResume (ozUpd s (fun o => { o with left := none })) else s
    | none => s)

/-- UNSTABLE_END (R645): a full second has passed with no dip beginning. -/
def execUnstableEnd (s : State) : Host.Outcome State Fault Refusal :=
  .next (if rdF s Reg.OZ_STATUS 4 1 = 1 && s.oz.begun.all (fun t => t + 1000 * msUnits ≤ s.time.elapsed) then
    let s := ozUpd s (fun o => { o with begun := [] })
    ozResume (raisePhase (wrF s Reg.OZ_STATUS 4 1 0) 0x042 4 [(4, 1)])
  else s)

/-! The log (R650). -/

/-- LOG_MIRROR: the oldest record that is not in the flash goes there; before the first record of a sector, the next sector is
erased. -/
def execLogMirror (s : State) : Host.Outcome State Fault Refusal :=
  .next (if s.oz.todo = 0 || deferral s || !ozRunning s then s else
    let m := rdN s Reg.OZ_LOG_NEXT - s.oz.todo
    match s.oz.log.find? (fun e => e.1 == m) with
    | some e =>
      let nextSec := logAddr (m + 128) / 4096 * 4096
      let s := if m % 128 = 0 then flashErase s nextSec (nextSec + 4096) else s
      ozUpd (flashPut s (logAddr m) e.2) (fun o => { o with todo := o.todo - 1 })
    | none => s)

/-! Restarts (R638, R656). -/

/-- OZELM_FAULT (R638, R656): 4 a lockstep mismatch, 5 an uncorrectable SRAM error, 6 the watchdog, which also ends a restart
that has not finished within 2 s, from the other slot. -/
def execOzelmFault (cause : Nat) (s : State) : Host.Outcome State Fault Refusal :=
  .next (if cause < 4 || cause > 6 then s else
    match s.oz.restart with
    | none => if ozRunning s then ozRestart s (activeSlot s) cause else s
    | some (t, slot, _) =>
      if cause = 6 && t + 2000 * msUnits ≤ s.time.elapsed then
        ozRestart (showImage (bootWrite s (1 - slot) 0 (fld (bootState s) 2 1))) (1 - slot) 6
      else s)

/-- The slot that boots: the one named, or the other where it fails R653; none where both fail. -/
def slotBoots (s : State) (slot : Nat) : Option (Nat × State) :=
  if imageBoot s slot = STS_OK then some (slot, s)
  else if imageBoot s (1 - slot) = STS_OK then
    let o := 1 - slot
    some (o, raise (showImage (bootWrite s o 0 (fld (bootState s) 2 1))) 0x046 [(4, 0), (4, o), (4, imgSvn s o)])
  else none

/-- Ozelm runs from a slot: its image and its log stand as the flash has them. -/
def ozelmRuns (s : State) (slot : Nat) : State :=
  let s := wrN s Reg.OZ_LOG_NEXT (rdN s Reg.OZ_LOG_NEXT - s.oz.todo)
  let s := ozUpd s (fun o => { o with restart := none, log := [], todo := 0 })
  showImage (wrF (wrF s Reg.OZ_STATUS 0 1 1) Reg.OZ_IMAGE 0 16 (imgSvn s slot))

/-- OZELM_RESTART_DONE (R656). -/
def execOzelmRestartDone (s : State) : Host.Outcome State Fault Refusal :=
  .next (match s.oz.restart with
    | some (_, slot, cause) =>
      match slotBoots s slot with
      | some (k, s) => raisePhase (ozelmRuns s k) 0x045 4 [(4, 1), (4, k), (4, cause)]
      | none => s
    | none => s)

/-! Clocks (R663). -/

/-- CLOCK_MONITOR_EXCURSION: a monitor reads more than 1 % from nominal. -/
def execClockMonitorExcursion (monitor : Nat) (ppm : Int) (s : State) : Host.Outcome State Fault Refusal :=
  .next (if monitor < 8 && (ppm > 10000 || ppm < -10000) then raise s 0x04B [(4, monitor), (4, unsign 32 ppm)] else s)

end Sys2Proof.Machine
end

