-- ==== Sys2Proof/Machine/HostCmd.lean ====
section
/-! DEFINITION. Machine/HostCmd.lean: what hosts do to the device (chapter 4): configuration writes, power states and resets of
functions and links, MSI-X table writes, completions of host reads, peer windows, and the security messages of a link. -/

namespace Sys2Proof.Machine

/-! Configuration space and function states. -/

/-- CONFIG_WRITE (R99): the word at `off`, with its byte enables. -/
def execConfigWrite (link fnum off be v : Nat) (s : State) : Host.Outcome State Fault Refusal :=
  .next (if fnAnswers s link fnum && off % 4 = 0 && off < 4096 then cfgWrite s link fnum off be (v % 2 ^ 32) else s)

/-- BUS_MASTER_DISABLE (R115). -/
def execBusMasterDisable (link fnum : Nat) (s : State) : Host.Outcome State Fault Refusal :=
  .next (if fnAnswers s link fnum then fnBmeTo (if fnBme (fnGet s link fnum) fnum then tdispBreak s link fnum else s) link fnum false else s)

/-- BUS_MASTER_ENABLE (R116). -/
def execBusMasterEnable (link fnum : Nat) (s : State) : Host.Outcome State Fault Refusal :=
  .next (if fnAnswers s link fnum then fnBmeTo s link fnum true else s)

/-- D3HOT_ENTRY (R100). -/
def execD3hotEntry (link fnum : Nat) (s : State) : Host.Outcome State Fault Refusal :=
  .next (if fnAnswers s link fnum then fnPower (tdispBreak s link fnum) link fnum 3 else s)

/-- D3HOT_EXIT (R100). -/
def execD3hotExit (link fnum : Nat) (s : State) : Host.Outcome State Fault Refusal :=
  .next (if fnAnswers s link fnum then fnPower s link fnum 0 else s)

/-- FUNCTION_LEVEL_RESET (R118, R119). -/
def execFunctionLevelReset (link fnum : Nat) (s : State) : Host.Outcome State Fault Refusal :=
  .next (if fnAnswers s link fnum then fnFlr s link fnum else s)

/-- FLR_END (R118): the function's slices have ended their resets. -/
def execFlrEnd (link fnum : Nat) (s : State) : Host.Outcome State Fault Refusal :=
  .next (if fnum < 256 && (fnGet s link fnum).flr.isSome && flrDone s link fnum then
    raisePhase (fnUpd s link fnum (fun f => { f with flr := none })) (hlSrc link 3) 4 [(4, fnum), (4, 1)]
  else s)

/-- VF_ENABLE_CHANGE (R119, R129): PF0's VF Enable and NumVFs are written. -/
def execVfEnableChange (link : Nat) (on : Bool) (num : Nat) (s : State) : Host.Outcome State Fault Refusal :=
  .next (if !fnAnswers s link 0 then s else
    let f := fnGet s link 0
    let ctl := putFld (cfgRd 0 f 0x158) 0 1 (b2n on)
    let nv := putFld (cfgRd 0 f 0x160) 0 16 num
    if ctl = cfgRd 0 f 0x158 && nv = cfgRd 0 f 0x160 then s
    else vfChange (cfgSet (cfgSet s link 0 0x158 ctl) link 0 0x160 nv) link)

/-- BAR_RESIZE (R101, R103, R127): BAR 2 or 4 of PF0, or of its VFs; the size as its base-2 logarithm. -/
def execBarResize (link : Nat) (vf : Bool) (bar log : Nat) (s : State) : Host.Outcome State Fault Refusal :=
  .next (if fnAnswers s link 0 then barResize s link vf bar log else s)

/-- A word of an MSI-X entry after a write (R112): address, data, and vector control with its steering tag. -/
def msixPut (e : MsixEnt) (word be v : Nat) : MsixEnt :=
  let m := beMask be
  match word with
  | 0 => { e with addr := putFld e.addr 0 32 (mergeWord (fld e.addr 0 32) (m &&& 0xFFFFFFFC) 0 v) }
  | 1 => { e with addr := putFld e.addr 32 32 (mergeWord (fld e.addr 32 32) m 0 v) }
  | 2 => { e with data := mergeWord e.data m 0 v }
  | _ =>
    let w := mergeWord (b2n e.masked + 65536 * e.st) (m &&& 0xFFFF0001) 0 v
    { e with masked := w.testBit 0, st := fld w 16 16 }

/-- A write of a word of the MSI-X table; an entry beyond MSIX_ALLOC is not there (R112 to R114). -/
def msixWrite (s : State) (link fnum idx word be v : Nat) : State :=
  let f := fnGet s link fnum
  if !linkPresent s link || !linkUp s link || 256 ≤ fnum then s
  else if !fnDecodes s link fnum then urIn s link
  else if idx ≥ f.msixAlloc || 3 < word then s
  else releasePending (fnSet s link fnum { f with msix := aset f.msix idx (msixPut (agetD f.msix idx {}) word be v) }) link fnum

/-- A double word of the first MiB of BAR4/5: the MSI-X table, and from 0x8_0000 the pending bits (R59, R112). -/
def msixValue (f : FnSt) (x : Nat) : Nat :=
  let i := x / 16
  let e := agetD f.msix i {}
  if x < 0x8000 && i < f.msixAlloc then
    (match x % 16 / 4 with
     | 0 => fld e.addr 0 32
     | 1 => fld e.addr 32 32
     | 2 => e.data
     | _ => b2n e.masked + 65536 * e.st)
  else if 0x80000 ≤ x && x < 0x80100 then
    ((List.range 32).filter (fun j => 8 * (x - 0x80000) / 32 * 32 + j < f.msixAlloc && (agetD f.msix (8 * (x - 0x80000) / 32 * 32 + j) {}).pending)).foldl
      (fun a j => a + 2 ^ j) 0
  else 0

/-- MSIX_TABLE_WRITE (R112, R114). -/
def execMsixTableWrite (link fnum idx word be v : Nat) (s : State) : Host.Outcome State Fault Refusal :=
  .next (msixWrite s link fnum idx word be v)

/-! Links. -/

/-- PERST_ASSERT (R120). -/
def execPerstAssert (link : Nat) (s : State) : Host.Outcome State Fault Refusal :=
  .next (if linkPresent s link && !linkPerst s link then
    linkReset (raise (wrF s (hfLink link) 10 1 1) (hlSrc link 1) [(4, 0)]) link
  else s)

/-- PERST_DEASSERT (R121): the link may train. -/
def execPerstDeassert (link : Nat) (s : State) : Host.Outcome State Fault Refusal :=
  .next (if linkPresent s link && linkPerst s link then raise (wrF s (hfLink link) 10 1 0) (hlSrc link 1) [(4, 1)] else s)

/-- HOT_RESET_RECEIVED (R120). -/
def execHotResetReceived (link : Nat) (s : State) : Host.Outcome State Fault Refusal :=
  .next (if linkPresent s link && linkUp s link then linkReset (raise s (hlSrc link 2) []) link else s)

/-- HOST_LINK_DOWN (R120): the data-link layer of a link is lost. -/
def execHostLinkDown (link : Nat) (s : State) : Host.Outcome State Fault Refusal :=
  .next (if linkPresent s link && linkUp s link then linkReset s link else s)

/-- HOST_LINK_UP (R95, R121): the link comes up at a rate from 1 (2.5 GT/s) to 7 (128 GT/s), no wider than its mode, in flit mode
from 64 GT/s upward. While READY is set, DRS is sent at every link-up (log entry 23). -/
def execHostLinkUp (link rate width : Nat) (flit : Bool) (s : State) : Host.Outcome State Fault Refusal :=
  .next (
    if !s.oz.good || s.oz.tripped || s.oz.down.isSome || !linkPresent s link || linkUp s link || linkPerst s link || rate = 0 || 7 < rate ||
      !(width ∈ [1, 2, 4, 8, 16]) || linkLanes s link < width || (6 ≤ rate && !flit) then s
    else
      let s := raise (linkShow s link 1 rate width (b2n flit)) (hlSrc link 0) [(4, rate), (4, width), (4, b2n flit)]
      if rdF s Reg.GL_DEVICE_READY 0 1 = 1 then emit s (.linkMsg link "DRS" []) else s)

/-! Host reads. -/

/-- HOST_READ_COMPLETION (R105, R106): a piece of the data of the request that holds a tag, or its failure with a host-access
status. A completion of no request is not expected, and is discarded. -/
def execHostReadCompletion (link tag : Nat) (d : HostData) (s : State) : Host.Outcome State Fault Refusal :=
  .next (match tagReq s link tag with
    | none => s
    | some r =>
      match d with
      | .ok bs => if pieceOk r bs.length then readPiece s r tag bs else s
      | .failed sts =>
        if !(sts ∈ [STS_HOST_UR, STS_HOST_CA, STS_HOST_POISON, STS_HOST_ATS]) then s else
        let s := tagFree s link tag
        if r.discard || r.quarantine then bump s (hfLink link + 0x18) else readFail s r sts)

/-- COMPLETION_TIMEOUT (R107): a timeout of a request whose completion was to be discarded reports no error (R115, R118). -/
def execCompletionTimeout (link tag : Nat) (s : State) : Host.Outcome State Fault Refusal :=
  .next (match tagReq s link tag with
    | none => s
    | some r =>
      if s.time.elapsed < r.deadline then s else
      let s := tagFree s link tag
      if r.discard || r.quarantine || (aget s.host.reads r.read).isNone then s else
      readFail (readTimeout s link r.fnum tag) r STS_HOST_TIMEOUT)

/-- TAG_WAIT_END (R111): the reads of a link that wait for a tag are issued as tags are free. -/
def execTagWaitEnd (link : Nat) (s : State) : Host.Outcome State Fault Refusal :=
  .next (if linkPresent s link then issueReads s link else s)

/-! Peer windows. -/

abbrev mib : Nat := 0x100000

/-- The live window that holds an address of BAR4/5 (R123). -/
def winOf (f : FnSt) (addr : Nat) : Option PeerWin :=
  (f.live.find? (fun e => e.2.sizeMb ≠ 0 && e.2.baseMb * mib ≤ addr && addr < (e.2.baseMb + e.2.sizeMb) * mib)).map (fun e => e.2)

/-- The slice whose GDDR7 a window of a function reaches: the function's slice without a PASID, else its first (log entry 22). -/
def winSlice (s : State) (link fnum : Nat) : Option (Nat × Slice) :=
  let mine := s.slices.filter (fun e => e.2.link == some link && e.2.fnum == fnum)
  (mine.find? (fun e => e.2.pasid.isNone)).orElse (fun _ => mine.head?)

/-- A write that no window takes is dropped and counted (R123). -/
def winMiss (s : State) (link fnum addr : Nat) : State :=
  raiseLim (fnUpd s link fnum (fun f => { f with winUrCnt := (f.winUrCnt + 1) % 2 ^ 32 })) (hlSrc link 10) 0 [(4, fnum), (4, addr % 2 ^ 32)]

/-- A request that is not served: a write is dropped, a read is answered Unsupported Request. -/
def winUr (s : State) (link fnum addr : Nat) (write : Bool) : State :=
  if write then winMiss s link fnum addr else emit (bump s (hfLink link + 0x20)) (.peerReply link fnum 1 [])

/-- Marks the pages that a peer-window write into a function's memory under a PASID touches (R231). -/
def peerMark (s : State) (link fnum : Nat) (pasid : Option Nat) (addr len : Nat) : State :=
  (s.slices.filter (fun e => e.2.link == some link && e.2.fnum == fnum && e.2.pasid == pasid)).foldl (fun s e => markDirty s e.1 addr len) s

/-- A request that its window permits, at its target address. -/
def winGo (s : State) (link fnum addr : Nat) (w : PeerWin) (write : Bool) (len : Nat) (bs : List Byte) : State :=
  let a := w.target + (addr - w.baseMb * mib)
  if w.kind = 0 then
    match winSlice s link fnum with
    | none => winUr s link fnum addr write
    | some (n, x) =>
      if a + len > agetD x.limits 7 0 * mib || x.state = 2 then winUr s link fnum addr write
      else if write then
        let s := { s with slices := aset s.slices n { x with written := (List.range ((a + len - 1) / mib - a / mib + 1)).foldl (fun l k => insNat (a / mib + k) l) x.written } }
        store s (gmBase n + a) bs
      else emit s (.peerReply link fnum 0 (memGets s.mem (gmBase n + a) len))
  else
    let pas := if w.pasidEn then some w.pasid else none
    if !linkPresent s w.link || !fnActive s w.link w.tfn then winUr s link fnum addr write
    else if write then writeTlps (peerMark s w.link w.tfn pas a len) w.link w.tfn pas a (fnAttr s w.link w.tfn false none none) bs
    else
      let f := fnGet s link fnum
      let s := fnUpd s link fnum (fun f => { f with winBusy := f.winBusy + 1 })
      startRead s w.link w.tfn pas a len 0 (.peer link fnum f.winGen)

/-- PEER_WINDOW_REQUEST (R123): a memory request of `len` bytes at an offset of BAR4/5 above its first MiB; `bs` is the data of a
write. -/
def execPeerWindowRequest (link fnum : Nat) (write : Bool) (addr len : Nat) (bs : List Byte) (s : State) : Host.Outcome State Fault Refusal :=
  .next (
    if !linkPresent s link || !linkUp s link || fnum ≥ 256 || addr < mib || len = 0 || 4096 < len || (write && bs.length ≠ len) then s
    else if !fnDecodes s link fnum || addr + len > 2 ^ bar4Log s link fnum then
      (if write then urIn s link else emit (urIn s link) (.peerReply link fnum 1 []))
    else match winOf (fnGet s link fnum) addr with
      | none => winUr s link fnum addr write
      | some w =>
        if addr + len > (w.baseMb + w.sizeMb) * mib || (write && !w.wrEn) || (!write && !w.rdEn) then winUr s link fnum addr write
        else winGo s link fnum addr w write len bs)

/-- A shadow set that no swap takes (R125). -/
def winsBad (f : FnSt) : Bool :=
  let ws := (f.shadow.filter (fun e => e.2.sizeMb ≠ 0))
  ws.any (fun e => e.2.baseMb = 0 || e.2.baseMb + e.2.sizeMb > 65536 || 1 < e.2.kind ||
    ws.any (fun g => g.1 ≠ e.1 && e.2.baseMb < g.2.baseMb + g.2.sizeMb && g.2.baseMb < e.2.baseMb + e.2.sizeMb))

/-- A write of HF_WIN_SWAP that passed the gate (R124, R125, R127). -/
def winSwapWrite (s : State) (face : Nat) (v : W32) : State :=
  let t := selFn s face
  if !linkPresent s t.1 then s else
  let s := if rbit v 2 then fnUpd s t.1 t.2 (fun f => { f with winErr := false }) else s
  if !rbit v 0 then s else
  let f := fnGet s t.1 t.2
  let s := if tdispLocked f then fnRefuse s t.1 t.2 4 else s
  if !f.drained || winsBad f || tdispLocked f then fnUpd s t.1 t.2 (fun f => { f with winErr := true })
  else
    let g := (f.winGen + 1) % 2 ^ 32
    raise (fnUpd s t.1 t.2 (fun f => { f with live := f.shadow, winGen := g, oldBusy := f.winBusy, winBusy := 0, drained := false }))
      (hlSrc t.1 8) [(4, t.2), (4, g)]

/-- WIN_SWAP (R124). -/
def execWinSwap (req : Requester) (be face : Nat) (v : W32) (s : State) : Host.Outcome State Fault Refusal :=
  .next (if face < 4 then gate s req be (Reg.HF_WIN_SWAP face) false (fun s => winSwapWrite s face v) else s)

/-- WIN_OLD_DRAINED (R124). -/
def execWinOldDrained (link fnum : Nat) (s : State) : Host.Outcome State Fault Refusal :=
  .next (
    let f := fnGet s link fnum
    if 256 ≤ fnum || f.drained || f.oldBusy ≠ 0 then s
    else raise (fnSet s link fnum { f with drained := true }) (hlSrc link 9) [(4, fnum), (4, f.winGen)])

/-! Settings of functions (R113, R127, R129). -/

/-- Vectors allocated device-wide. -/
def msixTotal (s : State) : Nat := (s.host.fns.map (fun e => e.2.msixAlloc)).foldl (· + ·) 0

/-- A write of HF_FN_CFG that passed the gate: the first cause that applies refuses it. -/
def fnCfgWrite (s : State) (face : Nat) (v : W32) : State :=
  let t := selFn s face
  if !linkPresent s t.1 then s else
  let f := fnGet s t.1 t.2
  let n := rfld v 0 12
  let p := rbit v 16
  let more := n ≠ f.msixAlloc
  if more && msixTotal s - f.msixAlloc + n > 131072 then fnRefuse s t.1 t.2 1
  else if n > 2048 then fnRefuse s t.1 t.2 2
  else if (more && fnMsixEn f t.2) || (p ≠ f.nvme && f.enabled) then fnRefuse s t.1 t.2 3
  else if (more || p ≠ f.nvme) && tdispLocked f then fnRefuse s t.1 t.2 4
  else fnSet s t.1 t.2 { f with msixAlloc := n, nvme := p, msix := f.msix.filter (fun e => e.1 < n) }

/-- FN_CFG_WRITE (R113). -/
def execFnCfgWrite (req : Requester) (be face : Nat) (v : W32) (s : State) : Host.Outcome State Fault Refusal :=
  .next (if face < 4 then gate s req be (Reg.HF_FN_CFG face) false (fun s => fnCfgWrite s face v) else s)

/-! IDE and SPDM (R126, R127). -/

/-- IDE_CHECK_FAIL (R126): the TLP is discarded and logged, and its stream becomes insecure. -/
def execIdeCheckFail (link k : Nat) (s : State) : Host.Outcome State Fault Refusal :=
  .next (if !linkPresent s link || 4 ≤ k then s else
    let s := aerLog s link 0 28
    if agetD s.host.ide (link * 4 + k) 0 = 1 then ideTo s link k 2 else s)

/-- A TDISP request to a VF: lock from CONFIG_UNLOCKED, start from CONFIG_LOCKED, stop from any later state. -/
def tdispAsk (s : State) (link fnum dst : Nat) : Option State :=
  let t := (fnGet s link fnum).tdisp
  if fnum < 256 && ((dst = 2 && t = 1) || (dst = 3 && t = 2) || (dst = 1 && 1 < t)) then some (tdispTo s link fnum dst) else none

/-- IDE_KM of a link's stream (R126): a key is programmed; with a key the stream starts; it stops and its key goes. -/
def ideProg (s : State) (link k key : Nat) : State :=
  { s with host := { s.host with ideKeys := aset s.host.ideKeys (link * 4 + k) (key % 2 ^ 256) } }
def ideStart (s : State) (link k : Nat) : Option State :=
  if (aget s.host.ideKeys (link * 4 + k)).isSome then some (ideTo s link k 1) else none
def ideHalt (s : State) (link k : Nat) : State :=
  ideTo { s with host := { s.host with ideKeys := adel s.host.ideKeys (link * 4 + k) } } link k 0

/-- The request of a DOE message that Ozelm does, or none where it refuses it. -/
def ideAsk (s : State) (link k : Nat) (f : State → Option State) : State :=
  match (if k < 4 then f s else none) with
  | some t => answer t (2 + link) 0
  | none => answer s (2 + link) 3

/-- SPDM_REQUEST (R126): a request in the DOE mailbox of PF0 of a link. Ozelm answers it. -/
def execSpdmRequest (link : Nat) (m : MgmtMsg) (s : State) : Host.Outcome State Fault Refusal :=
  .next (
    if !fnAnswers s link 0 || !ozRunning s || s.oz.lc = 3 then s else
    match m with
    | .ideKey k key => ideAsk s link k (fun s => some (ideProg s link k key))
    | .ideGo k => ideAsk s link k (fun s => ideStart s link k)
    | .ideStop k => ideAsk s link k (fun s => some (ideHalt s link k))
    | .tdisp n dst =>
      match tdispAsk s link n dst with
      | some s => answer s (2 + link) 0
      | none => answer s (2 + link) 3
    | _ => mgmtMsg s (2 + link) m)

end Sys2Proof.Machine
end

