-- ==== Sys2Proof/Machine/Land.lean ====
section
/-! DEFINITION. Machine/Land.lean: the landing's own commands (chapter 12): the end of an overflow copy, the overflow region,
and the node window of the scheduling tree. -/

namespace Sys2Proof.Machine

/-! Overflow (R404, R406). -/

/-- The copy of a packet's body to GDDR7 is complete: its grains return to free, and it may be dispatched. -/
def copyDone (s : State) (q id : Nat) : State :=
  let nd := nodeGet s 0 q
  match nd.pkts.find? (fun x => x.pkt.id == id && x.copying) with
  | none => s
  | some x =>
    let s := nodeSet s 0 q { nd with pkts := nd.pkts.map (fun y =>
      if y.pkt.id = id then { y with copying := false, pkt := { y.pkt with grains := 0 } } else y) }
    freeGrains (regSub s Reg.LD_OVF_BACKLOG x.units) x.pkt.grains

/-- OVERFLOW_COPY_DONE (R404, R15). -/
def execOverflowCopyDone (q id : Nat) (s : State) : Host.Outcome State Fault Refusal := .next (copyDone s q id)

/-- A write of LD_OVF_SIZE that passed the gate (R406). -/
def ovfSizeWrite (s : State) (req : Requester) (v : W32) : State :=
  if rdN s Reg.LD_OVF_USED ≠ 0 then badAccess s req Reg.LD_OVF_SIZE else plainWrite s Reg.LD_OVF_SIZE 0xFFFF v

/-- OVF_SIZE_WRITE (R406). -/
def execOvfSizeWrite (req : Requester) (be : Nat) (v : W32) (s : State) : Host.Outcome State Fault Refusal :=
  .next (gate s req be Reg.LD_OVF_SIZE false (fun s => ovfSizeWrite s req v))

/-! The node window (R426, R427). -/

/-- TYPE and INDEX of the selected node. -/
def selType (s : State) : Nat := rdF s Reg.SC_NODE_SEL 18 2
def selIndex (s : State) : Nat := rdF s Reg.SC_NODE_SEL 0 18

/-- Nodes of a type. -/
def nodeLimit (ty : Nat) : Nat := match ty with
  | 0 => 262144
  | 1 => 4096
  | 2 => 384
  | _ => 48

def selValid (s : State) : Bool := decide (selIndex s < nodeLimit (selType s))

/-- SC_NODE_CFG[w]: until the window is first written it shows the reset configuration of queue 0. -/
def cfgWord (s : State) (w : Nat) : Nat :=
  match aget s.regs (Reg.SC_NODE_CFG w) with
  | some v => v.toNat
  | none => ((nodeReset 0).cfg[w]?).getD 0

/-- The offsets of the node window that show the selected node. -/
def windowRegs : List Nat :=
  (List.range 10).map (fun w => Reg.SC_NODE_CFG w) ++ (List.range 6).map (fun k => 0x2400040 + 4 * k) ++
  (List.range 16).map (fun k => 0x2400060 + 4 * k)

/-- A write of SC_NODE_SEL that passed the gate: SC_NODE_CFG takes the node's words. For an INDEX beyond its TYPE the spec states
no values: the window takes free ones (log entry 7). -/
def nodeSelWrite (s : State) (v : W32) : State :=
  let s := plainWrite s Reg.SC_NODE_SEL 0xFFFFF v
  if selValid s then
    let nd := nodeGet s (selType s) (selIndex s)
    (List.range 10).foldl (fun s w => wrN s (Reg.SC_NODE_CFG w) ((nd.cfg[w]?).getD 0)) s
  else windowRegs.foldl (fun s o => let r := draw s; wrN r.2 o r.1) s

/-- NODE_SEL_WRITE (R426). -/
def execNodeSelWrite (req : Requester) (be : Nat) (v : W32) (s : State) : Host.Outcome State Fault Refusal :=
  .next (gate s req be Reg.SC_NODE_SEL false (fun s => nodeSelWrite s v))

/-- The bits of word w that a node of a type has; the rest are RSV. -/
def nodeMask (ty w : Nat) : Nat :=
  match w with
  | 0 => (match ty with | 0 => 0x0FFFFF3F | 1 => 0x01FFFF05 | _ => 4)
  | 1 => if ty = 0 then 0x3FFF else 0
  | 2 => 0xFFFFFFFF
  | 3 => 0xFFFF
  | 4 => if ty = 0 then 0x0F1FFFFF else 0
  | 5 => if ty = 0 then 0x1FFFFF else 0
  | 6 => if ty = 0 then 0xFFFF else 0
  | 7 => if ty = 0 then 0x1FFFFF else 0
  | 8 => if ty = 0 then 0x0FFFFFFF else 0
  | _ => 0

/-- The node that the window's words describe. -/
def windowNode (s : State) (nd : Node) : Node := { nd with cfg := (List.range 10).map (cfgWord s) }

def nodeEn (n : Node) : Bool := nc n 0 0 1 == 1

/-- The queues of a slice, but one, that count against its QUEUES quota (R216, R393). -/
def queuesOther (s : State) (sl i : Nat) : Nat := (s.land.queues.filter (fun e => e.1 ≠ i && queueCounts e.2 && qSlice e.2 == sl)).length

/-- The lowest cause that refuses an APPLY of the window to the selected node (R427, R691); 0 when none does. -/
def applyCause (s : State) : Nat :=
  let ty := selType s
  let i := selIndex s
  let old := nodeGet s ty i
  let new := windowNode s old
  if !selValid s || (List.range 10).any (fun w => cfgWord s w ≠ (cfgWord s w &&& nodeMask ty w)) || (ty = 1 && gRoot new > 47) then 1
  else if ty = 0 && nodeEn new && (!nodeEn old || qSlice new ≠ qSlice old) &&
      ((aget s.slices (qSlice new)).isNone || queuesOther s (qSlice new) i ≥ sliceLimit s (qSlice new) 1) then 2
  else if ty = 0 && nodeEn new && !nodeEn (nodeGet s 1 (qGroup new)) then 3
  else if ty = 0 && !old.pkts.isEmpty &&
      (qGroup new ≠ qGroup old || qSlice new ≠ qSlice old || nc new 0 3 3 ≠ nc old 0 3 3 || (nc old 0 1 1 = 1 && nc new 0 1 1 = 0)) then 4
  else if ty = 1 && s.land.queues.any (fun e => nodeEn e.2 && qGroup e.2 == i) &&
      (gRoot new ≠ gRoot old || gClass new ≠ gClass old || !nodeEn new) then 4
  else 0

/-- The node under its new words: the shaper is refilled under the old ones; a change of GRAIN sets the credit to the new cap,
and a lower BURST clips it (R413). -/
def nodeApply (s : State) (old : Node) : Node :=
  let n := windowNode s (nodeRefill s old)
  let cap := shCap (nodeBurst n)
  if nc n 0 2 1 ≠ nc old 0 2 1 then { n with sh := { n.sh with credit := cap, rem := 0 } }
  else if n.sh.credit > cap then { n with sh := { n.sh with credit := cap } }
  else n

/-- A refused command (R427). -/
def nodeRefuse (s : State) (cause : Nat) : State := wrF (wrF s Reg.SC_NODE_CMD 9 1 1) Reg.SC_NODE_CMD 10 4 cause

/-- SC_NODE_CMD.APPLY. Packets that it brings under a port that is down with DOWN_FLUSH set are dropped (R152). -/
def nodeApplyCmd (s : State) : State :=
  let c := applyCause s
  if c ≠ 0 then nodeRefuse s c else
  let made := selType s = 0 && !nodeEn (nodeGet s 0 (selIndex s))
  let s := nodeUpd s (selType s) (selIndex s) (nodeApply s)
  let s := match selType s with
    | 0 => turnSettle (flushDown s (selIndex s)) (selIndex s)
    | 1 => let r := gRoot (nodeGet s 1 (selIndex s))
      let s := if r < 32 && portDownFlush s r then portFlush s r else s
      (s.land.queues.filter (fun e => qGroup e.2 == selIndex s)).foldl (fun s e => turnSettle s e.1) s
    | _ => s
  if made && nodeEn (nodeGet s 0 (selIndex s)) then
    nodeUpd { s with land := { s.land with births := s.land.births + 1 } } 0 (selIndex s) (fun n => { n with born := s.land.births })
  else s

/-- SC_NODE_CMD.FLUSH (R421): the packets dropped are counted in FLUSHED. -/
def nodeFlushCmd (s : State) : State :=
  if selType s ≠ 0 then nodeRefuse s 5 else
  let r := queueFlush s (selIndex s)
  nodeTally r.1 (selIndex s) (fun n => { n with flushed := n.flushed + r.2 })

/-- SC_NODE_CMD.CLR_CNT: the status counts are zeroed. -/
def nodeClear (n : Node) : Node := { n with enq := 0, deq := 0, deqGr := 0, drops := [], ecn := 0, flushed := 0, ovfLost := 0 }
def nodeClrCmd (s : State) : State := if selValid s then nodeUpd s (selType s) (selIndex s) nodeClear else s

/-- APPLY and FLUSH of one write are both refused: the write is refused once, with APPLY's cause, the lower (R691). -/
def bothRefused (s : State) (v : W32) : Bool := rbit v 0 && rbit v 1 && applyCause s ≠ 0 && selType s ≠ 0

/-- A write of SC_NODE_CMD that passed the gate: several bits act as APPLY, FLUSH, CLR_CNT. -/
def nodeCmdWrite (s : State) (v : W32) : State :=
  let s := if rbit v 9 then wrF s Reg.SC_NODE_CMD 9 1 0 else s
  let once := bothRefused s v
  let s := if rbit v 0 then nodeApplyCmd s else s
  let s := if rbit v 1 && !once then nodeFlushCmd s else s
  if rbit v 2 then nodeClrCmd s else s

/-- APPLY (R427): a write of SC_NODE_CMD with APPLY set. -/
def execApply (req : Requester) (be : Nat) (v : W32) (s : State) : Host.Outcome State Fault Refusal :=
  .next (if rbit v 0 then gate s req be Reg.SC_NODE_CMD false (fun s => nodeCmdWrite s v) else s)

/-- FLUSH (R421): a write of SC_NODE_CMD with FLUSH set. -/
def execFlush (req : Requester) (be : Nat) (v : W32) (s : State) : Host.Outcome State Fault Refusal :=
  .next (if rbit v 1 then gate s req be Reg.SC_NODE_CMD false (fun s => nodeCmdWrite s v) else s)

/-- CLR_CNT (R426): a write of SC_NODE_CMD with CLR_CNT set. -/
def execClrCnt (req : Requester) (be : Nat) (v : W32) (s : State) : Host.Outcome State Fault Refusal :=
  .next (if rbit v 2 then gate s req be Reg.SC_NODE_CMD false (fun s => nodeCmdWrite s v) else s)

end Sys2Proof.Machine
end

