-- ==== Sys2Proof/Machine/Ring.lean ====
section
/-! DEFINITION. Machine/Ring.lean: doorbells and index writes, the fetch of descriptors, completions, and interrupt
moderation (chapter 6). -/

namespace Sys2Proof.Machine

/-! The registers of a gallery slot (R179); a slot that holds no channel ignores writes and reads zero. -/

/-- A PIDX write is stored for a software-produced ring (R181). -/
def pidxPut (s : State) (link fnum page slot : Nat) (v : W32) : State :=
  match slotChan s link fnum page slot with
  | some (i, c) => if devProduced c then s else chanSet s i { c with pidxReg := v.toNat }
  | none => s

/-- A CIDX write of a device-produced ring is checked, then taken without a doorbell (R176, R184). -/
def cidxPut (s : State) (link fnum page slot : Nat) (v : W32) : State :=
  match slotChan s link fnum page slot with
  | some (i, c) =>
    if !devProduced c then s
    else if sub32 v.toNat c.cidx > c.size || sub32 c.pidx v.toNat > c.size then ringError s i STS_RING_INDEX
    else
      let s := chanSet s i { c with cidx := v.toNat }
      if c.kind = 7 then ringFlush (c.notes.length + 2) s i else s
  | none => s

/-- An ARM write arms the notification of a CQ (R193). -/
def armPut (s : State) (link fnum page slot : Nat) (v : W32) : State :=
  match slotChan s link fnum page slot with
  | some (i, c) => if c.kind = 6 then cqNotify (chanSet s i { c with armVal := v.toNat, armed := true }) i else s
  | none => s

/-- A write of register `x` of a slot (R87, R179). -/
def galWrite (s : State) (link fnum page slot x be : Nat) (v : W32) : State :=
  onPage s link fnum page be (64 * slot + x) (fun s =>
    match x with
    | 0x00 => pidxPut s link fnum page slot v
    | 0x04 => cidxPut s link fnum page slot v
    | 0x10 => armPut s link fnum page slot v
    | 0x18 => ringPage s link fnum page
    | _ => s)

/-- What register `x` of a slot reads as (R179). -/
def galValue (s : State) (link fnum page slot x : Nat) : Nat :=
  if x = 0x14 then agetD s.ch.dbEmpty (dbKey link fnum page) 0
  else match slotChan s link fnum page slot with
    | some (i, c) =>
      match x with
      | 0x00 => if devProduced c then c.pidx else c.pidxReg
      | 0x04 => c.cidx
      | 0x08 => c.state + 8 * b2n c.idle + 16 * b2n c.armed + 256 * c.err
      | 0x0C => chanHandle i c
      | 0x10 => if c.kind = 6 then c.armVal else 0
      | _ => 0
    | none => 0

/-- DOORBELL (R180). -/
def execDoorbell (link fnum page be : Nat) (s : State) : Host.Outcome State Fault Refusal :=
  .next (onPage s link fnum page be 0x18 (fun s => ringPage s link fnum page))

/-- PIDX_WRITE (R181): stored for a software-produced ring. -/
def execPidxWrite (link fnum page slot be : Nat) (v : W32) (s : State) : Host.Outcome State Fault Refusal :=
  .next (onPage s link fnum page be (64 * slot) (fun s => pidxPut s link fnum page slot v))

/-- CIDX_WRITE (R176, R184): checked, then taken without a doorbell. -/
def execCidxWrite (link fnum page slot be : Nat) (v : W32) (s : State) : Host.Outcome State Fault Refusal :=
  .next (onPage s link fnum page be (64 * slot + 4) (fun s => cidxPut s link fnum page slot v))

/-- CQ_ARM (R193). -/
def execCqArm (link fnum page slot be : Nat) (v : W32) (s : State) : Host.Outcome State Fault Refusal :=
  .next (onPage s link fnum page be (64 * slot + 0x10) (fun s => armPut s link fnum page slot v))

/-- DESCRIPTOR_FETCH (R182, R183). -/
def execDescriptorFetch (ch : Nat) (s : State) : Host.Outcome State Fault Refusal := .next (fetchEnts s ch)

/-- DESCRIPTOR_ARRIVE (R188): the next entry of a completed ring read is taken. -/
def execDescriptorArrive (read : Nat) (s : State) : Host.Outcome State Fault Refusal := .next (descArrive s read)

/-- COMPLETION_WRITE (R177, R184, R185). -/
def execCompletionWrite (ch : Nat) (s : State) : Host.Outcome State Fault Refusal :=
  .next (match chanGet s ch with
    | some c => if c.kind = 2 then s else completeHead s ch
    | none => s)

/-- ETH_TX_COMPLETION (R192). -/
def execEthTxCompletion (ch : Nat) (s : State) : Host.Outcome State Fault Refusal :=
  .next (match chanGet s ch with
    | some c => if c.kind = 2 then completeHead s ch else s
    | none => s)

/-- MSIX_MOD_TIMER (R196): MOD_TIME has passed since the first entry that no message has reported. -/
def execMsixModTimer (ch : Nat) (s : State) : Host.Outcome State Fault Refusal :=
  .next (match chanGet s ch with
    | some c =>
      if c.kind ≠ 7 || c.noVector || c.modN = 0 || s.time.elapsed < c.modFirst + c.modTime * usUnits then s else
      match aget s.slices c.slice with
      | some x => match x.link with
        | some l => if x.state = 2 then s else sendVector (chanSet s ch { c with modN := 0 }) l x.fnum c.vector
        | none => s
      | none => s
    | none => s)

/-- HOST_GRAIN_WAIT_END (R391): a transmit frame that waits for grains takes them once the reserve is kept. -/
def execHostGrainWaitEnd (ch idx : Nat) (s : State) : Host.Outcome State Fault Refusal :=
  .next (match entOf s ch idx with
    | some (_, e) => if e.hold then txEnter s ch idx else s
    | none => s)

end Sys2Proof.Machine
end

