-- ==== Sys2Proof/Machine/RootPort.lean ====
section
/-! DEFINITION. Machine/RootPort.lean: the root ports, their slots and drives (R131 to R143, R21). Where the standard lays out
their configuration space, its offsets are: Power Management at 0x40, PCI Express at 0x50, AER at 0x100, DPC at 0x200 (log
entry 20). -/

namespace Sys2Proof.Machine

def rpGet (s : State) (p : Nat) : RootPort := agetD s.host.rps p {}

/-- The lanes of a port as its group merges; none while it is absorbed (R131). -/
def rpLanesOf (code k : Nat) : Nat :=
  match code with
  | 0 => 4
  | 1 => if k % 2 = 0 then 8 else 0
  | 2 => if k = 0 then 16 else 0
  | _ => if k = 0 then 8 else if k = 1 then 0 else 4

def rpLanes (s : State) (p : Nat) : Nat := if 8 ≤ p then 0 else rpLanesOf (rdF s Reg.RP_MERGE (2 * (p / 4)) 2) (p % 4)

def rpHere (s : State) (p : Nat) : Bool := rpLanes s p ≠ 0

abbrev rpSrc (p idx : Nat) : Nat := 0x380 + 16 * p + idx

/-! Configuration space. -/

/-- A word of a root port's configuration space at reset. At reset both indicators and slot power are off. -/
def rpReset (off : Nat) : Nat :=
  match off with
  | 0x00 => 0x1D2A + 65536 * (Config.rpDevice % 65536)
  | 0x04 => 0x00100000
  | 0x08 => 0x06040000
  | 0x0C => 0x00010000
  | 0x34 => 0x40
  | 0x40 => 0x00035001
  | 0x44 => 0x8
  | 0x50 => 0x01420010
  | 0x54 => 0x00008003
  | 0x58 => 0x2810
  | 0x68 => 0x7C0
  | 0x74 => 0xF
  | 0x7C => 0x8000007E
  | 0x100 => 0x20020001
  | 0x10C => 0x00462030
  | 0x114 => 0xE000
  | 0x118 => 0xA0
  | 0x200 => 0x0001001D
  | _ => 0

/-- A word as it reads: the width and state of the link, the slot capabilities and the presence bit are those of the pins, the
registers and RP_SLOT_CFG (R132, R133). -/
def rpCfg (s : State) (p off : Nat) : Nat :=
  let v := agetD (rpGet s p).cfg off (rpReset off)
  if off = 0x5C then 6 + 16 * rpLanes s p + 0x180800 + 2 ^ 24 * p
  else if off = 0x60 then putFld (putFld v 16 4 (rdF s (Reg.RP_STATUS p) 1 3)) 20 6 (rdF s (Reg.RP_STATUS p) 4 5)
  else if off = 0x64 then 0x7B + 128 * rdF s (Reg.RP_SLOT_CFG p) 0 8 + 32768 * rdF s (Reg.RP_SLOT_CFG p) 8 2 + 2 ^ 19 * p
  else if off = 0x68 then putFld v 22 1 (b2n (rpGet s p).present)
  else v

def rpSet (s : State) (p off v : Nat) : State := rpUpd s p (fun r => { r with cfg := aset r.cfg off v })
def rpBit (s : State) (p off bit : Nat) (v : Bool) : State := rpSet s p off (putFld (rpCfg s p off) bit 1 (b2n v))

/-- Writable fields, and those that a 1 clears. -/
def rpMask (off : Nat) : Nat × Nat :=
  match off with
  | 0x04 => (0x546, 0xF9000000)
  | 0x0C => (0xFF, 0)
  | 0x18 => (0xFFFFFF, 0)
  | 0x1C => (0xF0F0, 0xF9000000)
  | 0x20 => (0xFFF0FFF0, 0)
  | 0x24 => (0xFFF0FFF0, 0)
  | 0x28 => (0xFFFFFFFF, 0)
  | 0x2C => (0xFFFFFFFF, 0)
  | 0x30 => (0xFFFFFFFF, 0)
  | 0x3C => (0x7F00FF, 0)
  | 0x58 => (0x79FF, 0xF0000)
  | 0x60 => (0x2DB, 0xC0000000)
  | 0x68 => (0x17FB, 0x11B0000)
  | 0x6C => (0x1F, 0)
  | 0x70 => (0, 0x10000)
  | 0x78 => (0x170F, 0)
  | 0x80 => (0xFFFF, 0)
  | 0x104 => (0, 0xFFFFFFFF)
  | 0x108 => (0xFFFFFFFF, 0)
  | 0x10C => (0xFFFFFFFF, 0)
  | 0x110 => (0, 0xFFFFFFFF)
  | 0x114 => (0xFFFFFFFF, 0)
  | 0x118 => (0x140, 0)
  | 0x12C => (7, 0)
  | 0x130 => (0, 0x7F)
  | 0x204 => (0xFF0000, 0)
  | 0x208 => (0, 0x9)
  | _ => (0, 0)

/-! Slot power (R134 to R136). -/

def powerShow (s : State) (p : Nat) : State := wrF s (Reg.RP_STATUS p) 11 1 (b2n (rpGet s p).power)

/-- RP_PERST_N is driven. -/
def slotPerst (s : State) (p : Nat) (asserted : Bool) : State :=
  drive (rpUpd s p (fun r => { r with perst := asserted })) .rpPerstN p (!asserted)

/-- RP_PWREN is driven. -/
def slotPower (s : State) (p : Nat) (on : Bool) : State :=
  powerShow (drive (rpUpd s p (fun r => { r with power := on, dropping := none, rose := if on then some s.time.elapsed else none })) .rpPwren p on) p

/-- Power is removed at once, and Power Controller Control reads back as off. -/
def slotCut (s : State) (p : Nat) : State :=
  let s := rpBit s p 0x68 10 true
  if (rpGet s p).power then slotPower (slotPerst s p true) p false else s

/-- Half a period of a blinking indicator, 250 ms (R133), and the level of that half; every indicator blinks in one phase, that of
elapsed time (log entry 24). -/
def blinkHalf (s : State) : Nat := s.time.elapsed / (250 * msUnits)
def blinkHigh (s : State) : Bool := blinkHalf s % 2 == 0

/-- An indicator: 1 on, 2 blinking, 3 off. -/
def ledShow (s : State) (pin : Pin) (p v : Nat) : State :=
  if v = 0 then s else drive s pin p (if v = 2 then blinkHigh s else v ≠ 3)

/-- The blinking indicators change level, where time has passed into another half period. -/
def blink (s : State) (before : Nat) : State :=
  if blinkHalf s = before then s else
  ((List.range 8).filter (rpHere s)).foldl (fun s p =>
    let v := rpCfg s p 0x68
    let s := if fld v 6 2 = 2 then drive s .rpAtnled p (blinkHigh s) else s
    if fld v 8 2 = 2 then drive s .rpPwrled p (blinkHigh s) else s) s

/-- A Slot Control write that passed the gate: the status bits that are written 1 clear, the indicators and slot power follow,
and Command Completed sets. -/
def slotWrite (s : State) (p v : Nat) : State :=
  let old := rpCfg s p 0x68
  let new := mergeWord old 0x17FB 0x11B0000 v
  let on := !new.testBit 10
  let refuse := on && old.testBit 10 && (!(rpGet s p).present || old.testBit 17)
  let s := rpSet s p 0x68 (putFld (putFld new 10 1 (if refuse then 1 else fld new 10 1)) 20 1 1)
  let s := if fld old 6 2 = fld new 6 2 then s else ledShow s .rpAtnled p (fld new 6 2)
  let s := if fld old 8 2 = fld new 8 2 then s else ledShow s .rpPwrled p (fld new 8 2)
  let s := if on && old.testBit 10 && !refuse then slotPower s p true
    else if !on && !old.testBit 10 && (rpGet s p).power then
      rpUpd (slotPerst s p true) p (fun r => { r with rose := none, dropping := some s.time.elapsed })
    else s
  raise s (rpSrc p 7) []

/-! DPC and the end of requests (R139, R140). -/

/-- Every request outstanding to the drive is completed with Completer Abort. -/
def rpAbort (s : State) (p : Nat) : State :=
  let r := rpGet s p
  let s := bump s (Reg.RP_ABORT_CNT p) ((r.reqs.filter (fun e => !e.2.done)).length + b2n r.dcfg.isSome)
  let s := match r.dcfg with
    | some d => wrN (if d.write then s else wrN s (Reg.RP_DCFG_DATA p) 0xFFFFFFFF) (Reg.RP_DCFG_STATUS p) 4
    | none => s
  rpUpd s p (fun r => { r with reqs := r.reqs.filter (fun e => e.2.done), dcfg := none })

/-- DPC triggers, for a source with a requester ID: the port is contained until its Trigger Status is cleared. Interrupt Status sets
where DPC Interrupt Enable is set. -/
def dpcTrigger (s : State) (p reason src : Nat) : State :=
  if (rpGet s p).dpc then s else
  let s := rpUpd s p (fun r => { r with dpc := true })
  let int := fld (rpCfg s p 0x204) 19 1 == 1 || fld (rpCfg s p 0x208) 3 1 == 1
  let s := rpSet s p 0x208 (putFld (putFld (putFld (putFld (rpCfg s p 0x208) 0 1 1) 1 2 reason) 3 1 (b2n int)) 16 16 src)
  let s := rpAbort (wrF s (Reg.RP_STATUS p) 9 1 1) p
  raise s (rpSrc p 4) [(4, reason)]

/-- The errors that the firmware has enabled in DPC Control: 1 fatal ones, 2 non-fatal ones too; link down with either. -/
def dpcEnable (s : State) (p : Nat) : Nat := fld (rpCfg s p 0x204) 16 2

/-- An error message's condition triggers DPC where it is enabled. -/
def dpcError (s : State) (p : Nat) (fatal : Bool) (src : Nat) : State :=
  let e := dpcEnable s p
  if e = 2 || (e = 1 && fatal) then dpcTrigger s p (if fatal then 2 else 1) src else s

/-- An uncorrectable error is logged in AER, with the root error status of its severity unless it is masked. -/
def rpAer (s : State) (p bit : Nat) (fatal masked : Bool) : State :=
  let s := rpBit s p 0x104 bit true
  let s := if masked then s else rpBit (rpBit s p 0x130 2 true) p 0x130 (if fatal then 6 else 5) true
  raise s (rpSrc p 6) [(4, bit), (4, b2n fatal)]

/-- A request to the drive of a port times out: the standard's Completion Timeout error, bit 14 of AER, is logged, and triggers DPC
unless it is masked. The tag that is reported is free (R140, R143). -/
def rpTimeout (s : State) (p : Nat) : State :=
  let r := draw s
  let s := raise r.2 (rpSrc p 8) [(4, r.1 % 2 ^ 32)]
  let fatal := (rpCfg s p 0x10C).testBit 14
  let masked := (rpCfg s p 0x108).testBit 14
  let first := !masked && rpCfg s p 0x104 = 0
  let s := if first then rpSet s p 0x118 (putFld (rpCfg s p 0x118) 0 5 14) else s
  let s := rpAer s p 14 fatal masked
  if masked then s else dpcError s p fatal (8 * p)

/-- A write of a word of configuration space that passed the gate. Clearing DPC Trigger Status ends the containment. -/
def rpCfgWrite (s : State) (p off v : Nat) : State :=
  if off = 0x68 then slotWrite s p v else
  let m := rpMask off
  if m.1 = 0 && m.2 = 0 then s else
  let s := rpSet s p off (mergeWord (rpCfg s p off) m.1 m.2 v)
  if off = 0x208 && v.testBit 0 then wrF (rpUpd s p (fun r => { r with dpc := false })) (Reg.RP_STATUS p) 9 1 0 else s

/-! Merging (R131). -/

/-- An absorbed port is absent: its slot pins are held inactive, so it holds no presence until they are filtered again. What is
outstanding to its drive ends by its timeout (log entry 24). -/
def rpAbsorb (s : State) (p : Nat) : State :=
  let r := rpGet s p
  let s := { s with host := { s.host with rps := aset s.host.rps p { reqs := r.reqs, dcfg := r.dcfg } } }
  let s := wrN s (Reg.RP_STATUS p) 0
  drive (drive (drive (drive s .rpPerstN p false) .rpPwren p false) .rpAtnled p false) .rpPwrled p false

/-- A write of RP_MERGE that passed the gate: it needs ENABLE clear on every port of a group whose code it changes. -/
def mergeWrite (s : State) (req : Requester) (v : W32) : State :=
  let ok (g : Nat) : Bool := rfld v (2 * g) 2 == rdF s Reg.RP_MERGE (2 * g) 2 || (List.range 4).all (fun k => rdF s (Reg.RP_CTL (4 * g + k)) 0 1 == 0)
  if !ok 0 || !ok 1 then badAccess s req Reg.RP_MERGE else
  let t := wrN s Reg.RP_MERGE (rfld v 0 4)
  ((List.range 8).filter (fun p => rpHere s p && !rpHere t p)).foldl rpAbsorb t

/-- RP_MERGE_WRITE (R131). -/
def execRpMergeWrite (req : Requester) (be : Nat) (v : W32) (s : State) : Host.Outcome State Fault Refusal :=
  .next (gate s req be Reg.RP_MERGE false (fun s => mergeWrite s req v))

/-! Slots. -/

/-- SLOT_CONTROL_WRITE (R134): a write of the word of Slot Control and Slot Status in RP_CFG. -/
def execSlotControlWrite (req : Requester) (be p : Nat) (v : W32) (s : State) : Host.Outcome State Fault Refusal :=
  .next (if rpHere s p then gate s req be (0x800068 + 0x10000 * p) false (fun s => slotWrite s p v.toNat) else s)

/-- SLOT_PERST_RELEASE (R135): 100 ms after RP_PWREN rose. -/
def execSlotPerstRelease (p : Nat) (s : State) : Host.Outcome State Fault Refusal :=
  .next (match (rpGet s p).rose with
    | some t => if t + 100 * msUnits ≤ s.time.elapsed then slotPerst (rpUpd s p (fun r => { r with rose := none })) p false else s
    | none => s)

/-- SLOT_POWER_DROP (R135): 100 us after RP_PERST_N was asserted for a power-off. -/
def execSlotPowerDrop (p : Nat) (s : State) : Host.Outcome State Fault Refusal :=
  .next (match (rpGet s p).dropping with
    | some t => if t + 100 * usUnits ≤ s.time.elapsed then slotPower s p false else s
    | none => s)

/-- PRESENCE_CHANGE (R136, R139): the filtered level of RP_PRSNT_N changed. The removal of a drive whose slot has power is a
surprise, and ends the requests that are outstanding to it. -/
def execPresenceChange (p : Nat) (present : Bool) (s : State) : Host.Outcome State Fault Refusal :=
  .next (if !rpHere s p || !s.oz.good || (rpGet s p).present == present then s else
    let surprise := !present && (rpGet s p).power && (rpGet s p).dropping.isNone
    let s := wrF (rpUpd s p (fun r => { r with present := present })) (Reg.RP_STATUS p) 10 1 (b2n present)
    let s := raise (rpBit s p 0x68 19 true) (rpSrc p 0) [(4, b2n present)]
    if present then s else
    let s := slotCut s p
    if surprise then rpAbort (bump s (Reg.RP_SURPRISE_CNT p)) p else s)

/-- POWER_FAULT (R136): RP_PWRFLT_N is seen low. -/
def execPowerFault (p : Nat) (s : State) : Host.Outcome State Fault Refusal :=
  .next (if !rpHere s p || !s.oz.good then s else
    let s := slotCut (bump (rpBit s p 0x68 17 true) (Reg.RP_PWRFLT_CNT p)) p
    raise s (rpSrc p 2) [])

/-- ATTENTION_BUTTON (R138). -/
def execAttentionButton (p : Nat) (s : State) : Host.Outcome State Fault Refusal :=
  .next (if rpHere s p && s.oz.good then raise (rpBit s p 0x68 16 true) (rpSrc p 1) [] else s)

/-! Links. -/

/-- The link's state is shown: Data Link Layer Link Active, State Changed, and the event. -/
def rpLinkShow (s : State) (p up rate width : Nat) : State :=
  let s := wrF (wrF (wrF s (Reg.RP_STATUS p) 0 1 up) (Reg.RP_STATUS p) 1 3 rate) (Reg.RP_STATUS p) 4 5 width
  raise (rpBit (rpBit s p 0x60 29 (up == 1)) p 0x68 24 true) (rpSrc p 3) [(4, rate), (4, width)]

/-- RP_LINK_UP (R132): a rate from 1 (2.5 GT/s) to 6 (64 GT/s). -/
def execRpLinkUp (p rate width : Nat) (s : State) : Host.Outcome State Fault Refusal :=
  .next (
    let r := rpGet s p
    if rdF s (Reg.RP_CTL p) 0 1 = 0 || rdF s (Reg.RP_STATUS p) 0 1 = 1 || !r.power || r.perst || r.dpc || rate = 0 || 6 < rate ||
      !(width ∈ [1, 2, 4, 8, 16]) || rpLanes s p < width then s
    else rpLinkShow s p 1 rate width)

/-- RP_LINK_DOWN (R139). -/
def execRpLinkDown (p : Nat) (s : State) : Host.Outcome State Fault Refusal :=
  .next (if 8 ≤ p || rdF s (Reg.RP_STATUS p) 0 1 = 0 then s else
    let s := rpLinkShow s p 0 0 0
    if dpcEnable s p ≠ 0 then dpcTrigger s p 0 0 else s)

/-- A correctable error is logged in AER (R143). -/
def rpAerCor (s : State) (p bit : Nat) : State :=
  raise (rpBit (rpBit s p 0x110 bit true) p 0x130 0 true) (rpSrc p 5) [(4, bit)]

/-- RP_ERROR_MESSAGE (R140, R143): a condition of severity 0 non-fatal, 1 fatal, with the bit of its error in AER; severity 2 is a
correctable error, which is only logged. A contained port discards the message (R139). The message comes from function 0 of the
secondary bus. -/
def execRpErrorMessage (p bit sev : Nat) (s : State) : Host.Outcome State Fault Refusal :=
  .next (if 8 ≤ p || rdF s (Reg.RP_STATUS p) 0 1 = 0 || 32 ≤ bit || 2 < sev || (rpGet s p).dpc then s
    else if sev = 2 then rpAerCor s p bit else dpcError (rpAer s p bit (sev == 1) false) p (sev == 1) (256 * fld (rpCfg s p 0x18) 8 8))

/-! Configuration requests to drives (R137, R142). -/

/-- A write of RP_DCFG_CMD that passed the gate: bit 0 starts a read, else bit 1 a write. A request that starts while the port is
contained ends at once with Completer Abort, counted (log entry 24). -/
def dcfgWrite (s : State) (req : Requester) (p : Nat) (v : W32) : State :=
  if !rbit v 0 && !rbit v 1 then s
  else if (rpGet s p).dcfg.isSome then badAccess s req (Reg.RP_DCFG_CMD p)
  else
    let a := rdF s (Reg.RP_DCFG_ADDR p) 0 26
    let d : DriveCfg := { write := !rbit v 0, addr := a, data := rdN s (Reg.RP_DCFG_DATA p), since := s.time.elapsed }
    let s := wrN (rpUpd s p (fun r => { r with dcfg := some d })) (Reg.RP_DCFG_STATUS p) 1
    if (rpGet s p).dpc then rpAbort s p
    else emit s (.drive p (if d.write then "config write" else "config read") a (if d.write then le 4 d.data else []))

/-- DCFG_READ (R142). -/
def execDcfgRead (req : Requester) (be p : Nat) (v : W32) (s : State) : Host.Outcome State Fault Refusal :=
  .next (if rpHere s p && rbit v 0 then gate s req be (Reg.RP_DCFG_CMD p) false (fun s => dcfgWrite s req p v) else s)

/-- DCFG_WRITE (R142). -/
def execDcfgWrite (req : Requester) (be p : Nat) (v : W32) (s : State) : Host.Outcome State Fault Refusal :=
  .next (if rpHere s p && !rbit v 0 && rbit v 1 then gate s req be (Reg.RP_DCFG_CMD p) false (fun s => dcfgWrite s req p v) else s)

/-- DCFG_ANSWER (R142): result 0 success, 1 UR, 2 CA, 3 RRS, or 4 a timeout after 50 ms. The tag that a timeout reports is free. -/
def execDcfgAnswer (p result data : Nat) (s : State) : Host.Outcome State Fault Refusal :=
  .next (match (rpGet s p).dcfg with
    | none => s
    | some d =>
      if 4 < result || (result = 4 && s.time.elapsed < d.since + 50 * msUnits) then s else
      let s := wrN (rpUpd s p (fun r => { r with dcfg := none })) (Reg.RP_DCFG_STATUS p) (2 * result)
      let s := if d.write then s else wrN s (Reg.RP_DCFG_DATA p) (if result = 0 then data % 2 ^ 32 else 0xFFFFFFFF)
      if result = 4 then rpTimeout s p else s)

/-! Drive requests. -/

/-- DRIVE_WRITE_FORWARD (R21): a drive's posted write of the next bytes of a Read's data goes to the host, deciphered where the
namespace is encrypted; of a pool they are what the pool holds. -/
def execDriveWriteForward (p id : Nat) (bytes : List Byte) (s : State) : Host.Outcome State Fault Refusal :=
  .next (match aget (rpGet s p).reqs id, aget s.sv.cmds id with
    | some q, some m =>
      match cmdNs s m, aget s.sv.ctrls m.ctrl with
      | some (n, x), some c =>
        let r := m.ranges.headD (0, 0)
        if (rpGet s p).dpc || m.silent || q.write || q.done || m.prps.isEmpty || !ctrlWrites s c || bytes.isEmpty || q.got + bytes.length > r.2 * nsBlk x ||
          (x.enc && (q.got % nsBlk x ≠ 0 || bytes.length % nsBlk x ≠ 0)) then s
        else
          let d := if x.backing = 0 then slice (nsRead s n r.1 r.2) q.got bytes.length
            else if x.enc then nsDecBlocks s x (r.1 + q.got / nsBlk x) bytes else bytes
          let a := payloadAttr s c.slice false none none
          let s := (prpDrop q.got (prpSpread m.prps (List.replicate q.got 0 ++ d))).foldl (fun s w => slWrite s c.slice w.1 a w.2) s
          rpUpd s p (fun r => { r with reqs := aupd r.reqs id (fun q => { q with got := q.got + bytes.length }) })
      | _, _ => s
    | _, _ => s)

/-- DRIVE_COMPLETION (R140): a request to a drive completes, or times out at the root port: a timeout ends that request, is
logged as the standard's Completion Timeout error, and triggers DPC where non-fatal errors do. The tag it reports is free. -/
def execDriveCompletion (p id : Nat) (timeout : Bool) (s : State) : Host.Outcome State Fault Refusal :=
  .next (match aget (rpGet s p).reqs id with
    | none => s
    | some q =>
      if q.done || (rpGet s p).dpc then s
      else if !timeout then rpUpd s p (fun r => { r with reqs := aset r.reqs id { q with done := true } })
      else
        rpTimeout (rpUpd s p (fun r => { r with reqs := adel r.reqs id })) p)

end Sys2Proof.Machine
end

