-- ==== Sys2Proof/Machine/ChanCmd.lean ====
section
/-! DEFINITION. Machine/ChanCmd.lean: the generic and channel admin commands (R204 to R206). -/

namespace Sys2Proof.Machine

/-- NOP (R204). -/
def execNop (sl : Nat) (cmd : List Byte) (s : State) : Host.Outcome State Fault Refusal :=
  .next (runAdmin s sl 0x00 cmd (fun s _ => (s, some {})))

/-- QUERY_STATUS (R204). -/
def execQueryStatus (sl : Nat) (cmd : List Byte) (s : State) : Host.Outcome State Fault Refusal :=
  .next (runAdmin s sl 0x01 cmd (fun s _ => (s, some { aux := rdF s Reg.GL_BOOT_STAGE 0 4 + 16 * b2n (deviceReady s) })))

/-- The channel that a command names in word 0x10, of the slice it acts on (R173). -/
def cmdChan (s : State) (t : Nat) (cmd : List Byte) : Option (Nat × Chan) :=
  match chanOf s (par cmd 0x10 0 32) with
  | some (i, c) => if c.slice = t then some (i, c) else none
  | none => none

/-! Creation (R205, R206). -/

/-- What is wrong with a handle that must name a channel of a kind in a slice; none when nothing is. Only some commands may
name no channel at all. -/
def handleBad (s : State) (t h kind : Nat) (mayZero : Bool) : Option Byte :=
  if h = 0 && mayZero then none else
  match chanOf s h with
  | none => some STS_BAD_HANDLE
  | some (_, c) => if c.slice ≠ t || c.kind ≠ kind then some STS_BAD_KIND else none

/-- What is wrong with a BIND for a kind: a work channel names a CQ, a CQ an event ring that is no telemetry ring or none,
and an EVENT channel names nothing. -/
def bindBad (s : State) (t kind h : Nat) : Option Byte :=
  match kind with
  | 6 => if h ≠ 0 && isTmRing s h then some STS_BAD_KIND else handleBad s t h 7 true
  | 7 => if h = 0 then none else some STS_BAD_KIND
  | _ => handleBad s t h 6 false

/-- A gallery page and slot that a slice's new channel can take (R102, R178). -/
def slotFree (s : State) (t page slot : Nat) : Bool :=
  match aget s.slices t with
  | none => false
  | some x =>
    x.page0 ≤ page && page < x.page0 + x.pages &&
    (match x.link with
      | some l => (page + 1) * 4096 + 0x40000 ≤ 2 ^ bar2Log s l x.fnum
      | none => true) &&
    !s.ch.chans.any (fun e => e.2.slice == t && e.2.page == page && e.2.slot == slot)

/-- A vector at or above the function's MSIX_ALLOC (R205). -/
def vectorBad (s : State) (t v : Nat) : Bool :=
  match (aget s.slices t).bind (fun x => x.link.map (fun l => (l, x.fnum))) with
  | some (l, f) => v ≥ (fnGet s l f).msixAlloc
  | none => true

/-- The slice's function is enabled (R212). -/
def sliceEnabled (s : State) (t : Nat) : Bool :=
  match (aget s.slices t).bind (fun x => x.link.map (fun l => (l, x.fnum))) with
  | some (l, f) => (fnGet s l f).enabled
  | none => true

/-- PREFETCH as given: zero means 8, above 64 acts as 64. -/
def prefetchOf (n : Nat) : Nat := if n = 0 then 8 else min n 64

/-- A channel takes its index and its place: its handle is returned. It is STALLED from the start while its function may not
issue requests. -/
def chanCreate (s : State) (i : Nat) (c : Chan) : State × Nat :=
  let r := draw s
  let live := sliceLive s c.slice
  let c := { c with gen := nextGen s i, home := r.1 % 8, born := s.ch.births, state := if live then 1 else 3, before := 1 }
  let s := r.2
  let s := { s with ch := { s.ch with chans := aset s.ch.chans i c, gens := aset s.ch.gens i c.gen, births := s.ch.births + 1 } }
  let s := if c.kind = 4 then rmUpd s (fun m => { m with qps := aset m.qps i {} }) else s
  (mirrorWrite s i, chanHandle i c)

/-- The channel that CREATE_CHANNEL's parameters describe. -/
def cmdNewChan (t : Nat) (cmd : List Byte) : Chan :=
  let kind := par cmd 0x10 0 8
  let ev := kind == 7
  { gen := 0, kind := kind, slice := t, page := par cmd 0x2C 0 16, slot := par cmd 0x2C 16 4, size := par cmd 0x14 0 17,
    base := par cmd 0x18 0 64, mirror := par cmd 0x20 0 64, bind := par cmd 0x28 0 32, srq := if kind = 4 then par cmd 0x38 0 32 else 0,
    prefetch := prefetchOf (par cmd 0x10 8 8), modCount := if ev then par cmd 0x30 0 16 else 0, modTime := if ev then par cmd 0x30 16 16 else 0,
    vector := if ev then par cmd 0x34 0 11 else 0, noVector := !ev || par cmd 0x34 15 1 == 1 }

/-- Why a slice cannot create a channel: the first that applies. -/
def createBad (s : State) (t : Nat) (c : Chan) : Option Byte :=
  let b := bindBad s t c.kind c.bind
  let q := if c.kind = 4 then handleBad s t c.srq 5 true else none
  let both (x : Byte) : Bool := b == some x || q == some x
  firstSts [
    (c.kind < 2 || 8 < c.kind, STS_BAD_KIND),
    (!pow2In c.size 4 16, STS_RING_SIZE),
    (c.base % 4096 ≠ 0 || c.mirror % 8 ≠ 0, STS_ALIGN),
    (!slotFree s t c.page c.slot, STS_GALLERY),
    (both STS_BAD_HANDLE, STS_BAD_HANDLE),
    (both STS_BAD_KIND, STS_BAD_KIND),
    (c.kind == 7 && !c.noVector && vectorBad s t c.vector, STS_VECTOR),
    (!sliceEnabled s t, STS_PERMISSION),
    (chanUse s t ≥ sliceLimit s t 2 || (c.kind == 4 && useOf s t 3 ≥ sliceLimit s t 3), STS_QUOTA)]

/-- CREATE_CHANNEL (R205). -/
def execCreateChannel (sl : Nat) (cmd : List Byte) (s : State) : Host.Outcome State Fault Refusal :=
  .next (runAdmin s sl 0x02 cmd (fun s t =>
    if (aget s.slices t).isNone then failed s STS_NO_SLICE else
    let c := cmdNewChan t cmd
    match createBad s t c with
    | some e => failed s e
    | none =>
      let r := idxRange s t
      match allocIndex s t r.1 r.2 with
      | (none, s) => failed s STS_NO_RESOURCE
      | (some i, s) =>
        let p := chanCreate s i c
        (p.1, some { handle := p.2 })))

/-- A live channel names this CQ or event ring, or it is bound as a telemetry ring (R206, R621). -/
def destroyBlocked (s : State) (i : Nat) (c : Chan) : Bool :=
  c.kind == 1 || ((c.kind == 6 || c.kind == 7) && (s.ch.chans.any (fun e => e.1 ≠ i && e.2.bind == chanHandle i c) || isTmRing s (chanHandle i c)))

/-- DESTROY_CHANNEL (R206): it completes once every completion of the channel has been written (R202). -/
def execDestroyChannel (sl : Nat) (cmd : List Byte) (s : State) : Host.Outcome State Fault Refusal :=
  .next (runAdmin s sl 0x03 cmd (fun s t =>
    match cmdChan s t cmd with
    | none => failed s STS_BAD_HANDLE
    | some (i, c) =>
      if destroyBlocked s i c then failed s STS_IN_USE
      else (resetChan (adminDefer s sl 0x03 (leAt cmd 8 8) (chanHandle i c)) i 2, none)))

/-- MODIFY_CHANNEL (R204, R206): the mask's attributes take the values at their creation offsets. -/
def execModifyChannel (sl : Nat) (cmd : List Byte) (s : State) : Host.Outcome State Fault Refusal :=
  .next (runAdmin s sl 0x04 cmd (fun s t =>
    match cmdChan s t cmd with
    | none => failed s STS_BAD_HANDLE
    | some (i, c) =>
      let m (k : Nat) : Bool := par cmd 0x14 k 1 == 1
      let n := cmdNewChan t (patch (fit 64 cmd) 0x10 (le 1 c.kind))
      let b := if m 1 then bindBad s t c.kind n.bind else none
      let wrong := (m 0 && devProduced c) || (m 1 && (c.kind == 1 || c.kind == 7)) || ((m 2 || m 3 || m 4) && c.kind ≠ 7)
      let bad := firstSts [
        (wrong, STS_BAD_KIND),
        (b == some STS_BAD_HANDLE, STS_BAD_HANDLE),
        (b == some STS_BAD_KIND, STS_BAD_KIND),
        (m 4 && !n.noVector && vectorBad s t n.vector, STS_VECTOR),
        ((m 1 || m 4) && (c.state ≠ 2 || !c.idle), STS_IN_USE),
        (m 5 && n.mirror % 8 ≠ 0, STS_ALIGN)]
      match bad with
      | some e => failed s e
      | none =>
        let c := { c with
          prefetch := if m 0 then n.prefetch else c.prefetch, bind := if m 1 then n.bind else c.bind,
          modCount := if m 2 then n.modCount else c.modCount, modTime := if m 3 then n.modTime else c.modTime,
          vector := if m 4 then n.vector else c.vector, noVector := if m 4 then n.noVector else c.noVector,
          mirror := if m 5 then n.mirror else c.mirror }
        (chanSet s i c, some { handle := chanHandle i c })))

/-! States (R198, R199, R201). -/

/-- A command that a STALLED channel holds, or that acts at once. -/
def holdOr (s : State) (i : Nat) (c : Chan) (h : HeldCmd) : State :=
  if c.state = 3 then chanSet s i { c with held := c.held ++ [h] } else heldRun s i h

/-- DISABLE_CHANNEL (R198). -/
def execDisableChannel (sl : Nat) (cmd : List Byte) (s : State) : Host.Outcome State Fault Refusal :=
  .next (runAdmin s sl 0x05 cmd (fun s t =>
    match cmdChan s t cmd with
    | none => failed s STS_BAD_HANDLE
    | some (i, c) => if c.state = 4 then failed s STS_CHAN_STATE else (holdOr s i c 0, some { handle := chanHandle i c })))

/-- ENABLE_CHANNEL (R197, R198). -/
def execEnableChannel (sl : Nat) (cmd : List Byte) (s : State) : Host.Outcome State Fault Refusal :=
  .next (runAdmin s sl 0x06 cmd (fun s t =>
    match cmdChan s t cmd with
    | none => failed s STS_BAD_HANDLE
    | some (i, c) => if c.state = 4 then failed s STS_CHAN_STATE else (holdOr s i c 1, some { handle := chanHandle i c })))

/-- RESET_CHANNEL (R199): it completes when the channel is back in DISABLED. -/
def execResetChannel (sl : Nat) (cmd : List Byte) (s : State) : Host.Outcome State Fault Refusal :=
  .next (runAdmin s sl 0x07 cmd (fun s t =>
    match cmdChan s t cmd with
    | none => failed s STS_BAD_HANDLE
    | some (i, c) =>
      if c.kind = 1 && t = sl then failed s STS_BAD_HANDLE
      else (resetOrHold (adminDefer s sl 0x07 (leAt cmd 8 8) (chanHandle i c)) i, none)))

/-- The result of QUERY_CHANNEL. -/
def chanRecord (i : Nat) (c : Chan) : List Byte :=
  pack 64 [(0, 0, 32, chanHandle i c), (4, 0, 8, c.kind), (4, 8, 3, c.state), (4, 11, 1, b2n c.idle), (4, 16, 8, c.err), (8, 0, 32, c.size),
    (0xC, 0, 32, if devProduced c then c.pidx else c.sampled), (0x10, 0, 32, c.cidx), (0x14, 0, 32, c.ents.length), (0x18, 0, 64, c.entries),
    (0x20, 0, 64, c.nobuf), (0x28, 0, 32, c.bind)]

/-- QUERY_CHANNEL (R204). -/
def execQueryChannel (sl : Nat) (cmd : List Byte) (env : Env) (s : State) : Host.Outcome State Fault Refusal :=
  .next (runAdmin s sl 0x08 cmd (fun s t =>
    match cmdChan s t cmd with
    | none => failed s STS_BAD_HANDLE
    | some (i, c) => adminResult s sl cmd (chanRecord i c) env))

/-! The admin pair (R214, R215). -/

/-- A requester of slice control blocks: the owner for any slice, else the slice's own function (R212, R213). -/
def sliceReq (s : State) (req : Requester) (sl : Nat) : Bool :=
  match req with
  | .fn l f => (s.host.owner == some l && f == 0) || ((aget s.slices sl).any (fun x => x.link == some l && x.fnum == f) && (fnGet s l f).enabled)
  | _ => true

/-- The size, alignment and slots of the admin pair (R214). -/
def aqBad (s : State) (sl : Nat) : Option Byte :=
  let p0 := ((aget s.slices sl).map (fun x => x.page0)).getD 0
  firstSts [
    (!pow2In (rdF s (Reg.SL_AQ_SIZE sl) 0 17) 4 16 || !pow2In (rdF s (Reg.SL_ACQ_SIZE sl) 0 17) 4 16, STS_RING_SIZE),
    (rd64 s (Reg.SL_AQ_BASE_LO sl) % 4096 ≠ 0 || rd64 s (Reg.SL_ACQ_BASE_LO sl) % 4096 ≠ 0 ||
      rd64 s (Reg.SL_AQ_MIRROR_LO sl) % 8 ≠ 0 || rd64 s (Reg.SL_ACQ_MIRROR_LO sl) % 8 ≠ 0, STS_ALIGN),
    (!slotFree s sl p0 0 || !slotFree s sl p0 1, STS_GALLERY)]

/-- The admin pair is not created: AQ_EN reads 0, ERR and ERR_CODE say why. -/
def aqFail (s : State) (sl : Nat) (sts : Byte) : State :=
  wrN (wrF s (Reg.SL_CTL sl) 0 1 0) (Reg.SL_AQ_STATUS sl) (2 + 256 * sts.toNat)

/-- AQ_EN is set: the ADMIN channel and the admin CQ are created (R214). -/
def aqEnable (s : State) (sl : Nat) : State :=
  match aget s.slices sl with
  | none => s
  | some x =>
    if x.state ≠ 1 then s else
    match aqBad s sl with
    | some e => aqFail s sl e
    | none =>
      let r := idxRange s sl
      let q : Chan := { gen := 0, kind := 6, slice := sl, page := x.page0, slot := 1, size := rdF s (Reg.SL_ACQ_SIZE sl) 0 17,
                        base := rd64 s (Reg.SL_ACQ_BASE_LO sl), mirror := rd64 s (Reg.SL_ACQ_MIRROR_LO sl), bind := 0 }
      match allocIndex s sl r.1 r.2 with
      | (none, s) => aqFail s sl STS_NO_RESOURCE
      | (some i, s1) =>
        let p := chanCreate s1 i q
        match allocIndex p.1 sl r.1 r.2 with
        | (none, s2) => aqFail { s with draws := s2.draws } sl STS_NO_RESOURCE
        | (some j, s2) =>
          let a : Chan := { gen := 0, kind := 1, slice := sl, page := x.page0, slot := 0, size := rdF s (Reg.SL_AQ_SIZE sl) 0 17,
                            base := rd64 s (Reg.SL_AQ_BASE_LO sl), mirror := rd64 s (Reg.SL_AQ_MIRROR_LO sl), bind := p.2 }
          let c := chanCreate s2 j a
          wrN (wrN (wrN (wrF c.1 (Reg.SL_CTL sl) 0 1 1) (Reg.SL_AQ_STATUS sl) 1) (Reg.SL_AQ_HANDLE sl) c.2) (Reg.SL_ACQ_HANDLE sl) p.2

/-- AQ_EN is cleared: the executing command finishes and the pair goes (R215). -/
def aqDisable (s : State) (sl : Nat) : State :=
  let s := wrF s (Reg.SL_CTL sl) 0 1 0
  match adminChan s sl with
  | some i => resetChan s i 2
  | none => s

/-- A write of SL_CTL that passed the gate; a slice whose VF is not enabled does not act (R212). -/
def slCtlWrite (s : State) (sl : Nat) (v : W32) : State :=
  if (aget s.slices sl).isNone || !sliceEnabled s sl then s else
  let en := rdF s (Reg.SL_CTL sl) 0 1 == 1
  let s := if rbit v 0 && !en then aqEnable s sl else if !rbit v 0 && en then aqDisable s sl else s
  if rbit v 1 then sliceReset s sl 1 else s

/-- The offset of SL_CTL in the window of the OZ_ block, which the checks of the write go by. -/
abbrev slCtlOff : Nat := 0x210140

/-- A write of SL_CTL by a requester of the block. -/
def slCtlBy (s : State) (req : Requester) (be sl : Nat) (v : W32) : State :=
  if sliceReq s req sl then gate s req be slCtlOff false (fun s => slCtlWrite s sl v) else s

/-- AQ_ENABLE (R214). -/
def execAqEnable (req : Requester) (be sl : Nat) (v : W32) (s : State) : Host.Outcome State Fault Refusal :=
  .next (if rbit v 0 then slCtlBy s req be sl v else s)

/-- AQ_DISABLE (R215). -/
def execAqDisable (req : Requester) (be sl : Nat) (v : W32) (s : State) : Host.Outcome State Fault Refusal :=
  .next (if !rbit v 0 then slCtlBy s req be sl v else s)

/-- SL_CTL_RESET (R226). -/
def execSlCtlReset (req : Requester) (be sl : Nat) (v : W32) (s : State) : Host.Outcome State Fault Refusal :=
  .next (if rbit v 1 then slCtlBy s req be sl v else s)

end Sys2Proof.Machine
end

