-- ==== Sys2Proof/Machine/SliceCmd.lean ====
section
/-! DEFINITION. Machine/SliceCmd.lean: the slice admin commands but for export and import, and what runs on its own for a
slice: its reset, the background zeroing, its freeze (chapter 7). -/

namespace Sys2Proof.Machine

/-- An owner's command on an existing slice: STS_PERMISSION for any other requester, STS_NO_SLICE where the target is absent
(R222). -/
def ownerCmd (s : State) (sl op : Nat) (cmd : List Byte) (f : State → Nat → Slice → State × Option AdminRes) : State :=
  runAdmin s sl op cmd (fun s t =>
    if sl ≠ 0 then failed s STS_PERMISSION else
    match aget s.slices t with
    | none => failed s STS_NO_SLICE
    | some x => f s t x)

def slUpd (s : State) (sl : Nat) (f : Slice → Slice) : State := { s with slices := aupd s.slices sl f }

/-! Creation and destruction (R210, R211, R223, R226). -/

/-- Two ranges of numbers, given by start and length, meet. -/
def spansMeet (a n b m : Nat) : Bool := n ≠ 0 && m ≠ 0 && a < b + m && b < a + n

/-- The binding of a new slice breaks R210 or R211, or its gallery pages lie beyond the function's BAR2/3 (R102). -/
def bindingBad (s : State) (link fnum : Nat) (pasid : Option Nat) (page0 pages : Nat) : Bool :=
  let mine := (s.slices.map (fun e => e.2)).filter (fun x => x.link == some link && x.fnum == fnum)
  !linkPresent s link || mine.length ≥ 64 || mine.any (fun x => x.pasid == pasid) || mine.any (fun x => spansMeet page0 pages x.page0 x.pages) ||
    0x40000 + 4096 * (page0 + pages) > 2 ^ bar2Log s link fnum

/-- A handle range is invalid or overlaps another slice's; its first two checks do not ask HCOUNT (R223). -/
def hrangeBad (s : State) (base count : Nat) : Bool :=
  base = 0 || base + count > 8388609 || s.slices.any (fun e => spansMeet base count e.2.hbase e.2.hcount)

/-- CREATE_SLICE (R223). -/
def execCreateSlice (sl : Nat) (cmd : List Byte) (s : State) : Host.Outcome State Fault Refusal :=
  .next (runAdmin s sl 0x40 cmd (fun s _ =>
    if sl ≠ 0 then failed s STS_PERMISSION else
    let link := par cmd 0x10 0 4
    let fnum := par cmd 0x10 4 8
    let pasid := if par cmd 0x10 31 1 = 1 then some (par cmd 0x14 0 20) else none
    let page0 := par cmd 0x18 0 16
    let pages := par cmd 0x18 16 16
    let hb := par cmd 0x20 0 24
    let hc := par cmd 0x24 0 24
    let num := if par cmd 0x1C 15 1 = 1 then afree s.slices 16384 else if (aget s.slices (par cmd 0x1C 0 14)).isNone then some (par cmd 0x1C 0 14) else none
    if pages = 0 then failed s STS_INVALID_PARAM
    else if bindingBad s link fnum pasid page0 pages then failed s STS_BINDING
    else if hrangeBad s hb hc then failed s STS_HANDLE_RANGE
    else match num with
      | none => failed s STS_NO_SLICE
      | some n =>
        let x : Slice := { link := some link, fnum := fnum, pasid := pasid, page0 := page0, pages := pages, hbase := hb, hcount := hc }
        ({ s with slices := aset s.slices n x }, some { aux := n })))

/-- DESTROY_SLICE (R226): it completes when the slice is ABSENT. -/
def execDestroySlice (sl : Nat) (cmd : List Byte) (s : State) : Host.Outcome State Fault Refusal :=
  .next (ownerCmd s sl 0x41 cmd (fun s t _ =>
    if t = 0 then failed s STS_PERMISSION
    else (sliceReset (adminDefer s sl 0x41 (leAt cmd 8 8) t) t 6, none)))

/-- RESET_SLICE (R226): it completes when the reset ends. -/
def execResetSlice (sl : Nat) (cmd : List Byte) (s : State) : Host.Outcome State Fault Refusal :=
  .next (runAdmin s sl 0x44 cmd (fun s t =>
    if (aget s.slices t).isNone then failed s STS_NO_SLICE
    else (sliceReset (adminDefer s sl 0x44 (leAt cmd 8 8) t) t 2, none)))

/-- SL_STATE of a slice (R213). -/
def slStateWord (x : Slice) : Nat := x.state + 256 * x.fault + 65536 * x.gen

/-- QUERY_SLICE (R222). -/
def execQuerySlice (sl : Nat) (cmd : List Byte) (s : State) : Host.Outcome State Fault Refusal :=
  .next (runAdmin s sl 0x45 cmd (fun s t =>
    match aget s.slices t with
    | some x => (s, some { aux := slStateWord x })
    | none => failed s STS_NO_SLICE))

/-! Quotas (R216 to R221). -/

/-- The maximum of a resource. -/
def quotaMax (s : State) (res : Nat) : Nat :=
  match res with
  | 0 => 1048576
  | 1 => 262144
  | 2 => 8388608
  | 3 => 4194304
  | 4 => 16777216
  | 5 => 65536
  | 6 => 1024
  | _ => poolMib s

/-- Key slots from `lo` up to `hi` hold a key. -/
def keysIn (s : State) (lo hi : Nat) : Bool := s.cy.slots.any (fun e => lo ≤ e.1 && e.1 < hi)

/-- Why a SET_QUOTA is refused: the first that applies. -/
def quotaBad (s : State) (t : Nat) (x : Slice) (res limit base : Nat) : Option Byte :=
  let others := s.slices.filter (fun e => e.1 ≠ t)
  let sum := (others.map (fun e => agetD e.2.limits 7 0)).foldl (· + ·) limit
  let old := agetD x.limits 5 0
  firstSts [
    (res = 7 && sum > poolMib s, STS_QUOTA_TOTAL),
    (limit > quotaMax s res || (res = 5 && base + limit > 65536), STS_INVALID_PARAM),
    (res = 5 && others.any (fun e => spansMeet base limit e.2.ksBase (agetD e.2.limits 5 0)), STS_KEY_RANGE),
    (res = 5 && (if base ≠ x.ksBase then keysIn s x.ksBase (x.ksBase + old) else keysIn s (base + limit) (base + old)), STS_IN_USE)]

/-- A pair of an object and its order of creation takes its place among those that are listed newest first. -/
def insNewest (x : Nat × Nat) : List (Nat × Nat) → List (Nat × Nat)
  | [] => [x]
  | y :: ys => if y.2 ≤ x.2 then x :: y :: ys else y :: insNewest x ys

/-- Objects, newest first. -/
def newestFirst (l : List (Nat × Nat)) : List Nat := (l.foldl (fun a x => insNewest x a) []).map (fun e => e.1)

/-- The channels that a reclaim destroys: those given, and with each every live channel that names it. `k` bounds the chains of
names. -/
def withNamers (s : State) : Nat → List Nat → List Nat
  | 0, l => l
  | k + 1, l =>
    let named (j : Nat) (e : Nat × Chan) : Bool := (chanGet s j).any (fun c => e.2.bind == chanHandle j c || (c.kind == 5 && e.2.srq == chanHandle j c))
    let more := (s.ch.chans.filter (fun e => !l.contains e.1 && e.2.kind ≠ 1 && l.any (fun j => named j e))).map (fun e => e.1)
    withNamers s k (l ++ more)

/-- The slice's channels besides the admin pair, of a kind if one is given. -/
def ownChans (s : State) (t : Nat) (kind : Option Nat) : List (Nat × Nat) :=
  let pair := match adminChan s t with
    | some i => i :: ((chanGet s i).map (fun (c : Chan) => c.bind % 0x1000000)).toList
    | none => []
  (s.ch.chans.filter (fun e => e.2.slice == t && !pair.contains e.1 && (kind.isNone || kind == some e.2.kind))).map (fun e => (e.1, e.2.born))

/-- A channel that is reclaimed: a queue pair enters ERROR and flushes first. -/
def chanReclaim (s : State) (i : Nat) : State :=
  match chanGet s i with
  | some c => resetChan (if c.kind = 4 then qpError s i STS_FLUSHED none true else s) i 3
  | none => s

/-- Disabled queues of a slice that still hold packets: they leave its QUEUES quota by themselves (R393). -/
def queuesLeaving (s : State) (t : Nat) : Nat := (s.land.queues.filter (fun e => queueCounts e.2 && nc e.2 0 0 1 == 0 && qSlice e.2 == t)).length

/-- Reclaims down to the limit (R221): the state with the destructions started, newest object first, and how many objects they
destroy. A channel that another live channel names goes once that one has gone. -/
def reclaim (s : State) (t res n : Nat) : State × Nat :=
  match res with
  | 1 =>
    let qs := (newestFirst ((s.land.queues.filter (fun e => nc e.2 0 0 1 == 1 && qSlice e.2 == t)).map (fun e => (e.1, e.2.born)))).take (n - queuesLeaving s t)
    (qs.foldl (fun s q => nodeUpd s 0 q (fun x => { x with cfg := x.cfg.set 0 (putFld ((x.cfg[0]?).getD 0) 0 1 0) })) s, qs.length)
  | 4 =>
    let rs := (newestFirst ((s.rm.regions.filter (fun e => e.2.slice == t)).map (fun e => (e.1, e.2.born)))).take n
    (rs.foldl (fun s k => if (aget s.rm.regions k).any (fun r => r.refs == 0) then regionGone s k else revoke s k) s, rs.length)
  | _ =>
    let cs := withNamers s 3 ((newestFirst (ownChans s t (if res = 3 then some 4 else none))).take n)
    let cs := newestFirst (cs.map (fun i => (i, ((chanGet s i).map (fun c => c.born)).getD 0)))
    (cs.foldl chanReclaim s, cs.length)

/-- SET_QUOTA (R216 to R221). -/
def execSetQuota (sl : Nat) (cmd : List Byte) (s : State) : Host.Outcome State Fault Refusal :=
  .next (ownerCmd s sl 0x42 cmd (fun s t x =>
    let res := par cmd 0x10 0 8
    let limit := par cmd 0x18 0 64
    let base := if res = 5 then par cmd 0x20 0 16 else x.ksBase
    if res > 7 then failed s STS_RESOURCE_ID else
    match quotaBad s t x res limit base with
    | some e => failed s e
    | none =>
      let s := slUpd s t (fun y => { y with limits := aset y.limits res limit, ksBase := base,
                                            written := if res = 7 then y.written.filter (· < limit) else y.written })
      let s := if res = 7 then { s with mem := memClear s.mem (gmBase t + limit * 0x100000) (gmBase (t + 1)) } else s
      let use := useOf s t res
      let lower := res ≤ 4 && limit < use
      if lower && par cmd 0x10 8 1 = 1 && 1 ≤ res then
        let s := adminDefer s sl 0x42 (leAt cmd 8 8) (t + 16384 * res)
        let r := reclaim s t res (use - limit)
        let s := { r.1 with ch := { r.1.ch with adminWait := amap r.1.ch.adminWait (fun k w =>
          if k = sl && w.1 = 0x42 then (w.1, w.2.1, t + 16384 * res + 131072 * r.2) else w) } }
        (reclaimCheck s, none)
      else
        let s := if lower && limit < agetD x.limits res 0 then raise s 0x022 [(2, t), (4, res)] else s
        (s, some { aux := min use 0xFFFFFFFF })))

/-- QUERY_QUOTA (R222); for resource 7 of slice 0 LIMIT is the pool (R219). -/
def execQueryQuota (sl : Nat) (cmd : List Byte) (env : Env) (s : State) : Host.Outcome State Fault Refusal :=
  .next (runAdmin s sl 0x43 cmd (fun s t =>
    let res := par cmd 0x10 0 8
    if (aget s.slices t).isNone then failed s STS_NO_SLICE
    else if res > 7 then failed s STS_RESOURCE_ID
    else
      let limit := if res = 7 && t = 0 then poolMib s else sliceLimit s t res
      let use := useOf s t res
      let s := if res = 6 then (draw s).2 else s
      adminResult s sl cmd (le 8 limit ++ le 8 use) env))

/-! Slice reset (R226, R227). -/

/-- SLICE_RESET_START (R227, steps 2 to 5): a slice that is RESETTING stops all its work. -/
def execSliceResetStart (sl : Nat) (s : State) : Host.Outcome State Fault Refusal :=
  .next (match aget s.slices sl with
    | some x =>
      if x.state ≠ 2 || x.stopped then s else
      let s := stuckDrop (sliceQueuesDrop (sliceChansStop s sl) sl) sl
      let s := sliceKeysErase (sliceQpsStop s sl) sl
      let s := svKeyless (svSliceReset s sl x.cause)
      slUpd s sl (fun y => { y with stopped := true })
    | none => s)

/-- SLICE_RESET_END (R227, steps 6 and 7). -/
def execSliceResetEnd (sl : Nat) (s : State) : Host.Outcome State Fault Refusal :=
  .next (if (aget s.slices sl).any (fun x => x.state == 2 && x.stopped) then sliceResetEnd s sl else s)

/-- BACKGROUND_ZERO (R228): an unwritten MiB of a slice's GDDR7 is zeroed. -/
def execBackgroundZero (sl mib : Nat) (s : State) : Host.Outcome State Fault Refusal :=
  .next (if mib < sliceLimit s sl 7 && (aget s.slices sl).any (fun x => !x.written.contains mib) then
      let a := gmBase sl + mib * 0x100000
      slUpd { s with mem := memClear s.mem a (a + 0x100000) } sl (fun x => { x with written := insNat mib x.written })
    else s)

/-! Dirty-page logging (R230 to R233). -/

/-- LOG_START (R230). -/
def execLogStart (sl : Nat) (cmd : List Byte) (s : State) : Host.Outcome State Fault Refusal :=
  .next (ownerCmd s sl 0x48 cmd (fun s t x =>
    let n := par cmd 0x10 0 4
    let base := par cmd 0x18 0 64
    let len := par cmd 0x20 0 64
    let bm := par cmd 0x28 0 64
    let total := (s.slices.map (fun e => (e.2.logs.map (fun r => r.2.len)).foldl (· + ·) 0)).foldl (· + ·) len
    match firstSts [
        (len = 0 || (aget x.logs n).isSome || x.logs.any (fun r => spansMeet base len r.2.base r.2.len), STS_LOG_RANGE),
        (base % 4096 ≠ 0 || len % 4096 ≠ 0 || bm % 8 ≠ 0, STS_ALIGN),
        (total > 2 ^ 43, STS_NO_RESOURCE)] with
    | some e => failed s e
    | none => (slUpd s t (fun y => { y with logs := aset y.logs n { base := base, len := len, bitmap := bm } }), some {})))

/-- The ranges that a mask selects: all started ones for zero; none when it names one that is not started. -/
def logSelect (x : Slice) (mask : Nat) : Option (List (Nat × LogRange)) :=
  if mask = 0 then some x.logs
  else if (List.range 16).any (fun n => mask.testBit n && (aget x.logs n).isNone) then none
  else some (x.logs.filter (fun e => mask.testBit e.1))

/-- The bitmap of a range: one bit for each page, in words of 64. -/
def logBitmap (r : LogRange) : List Byte :=
  (List.range (ceilDiv (r.len / 4096) 64)).flatMap (fun w =>
    le 8 ((r.marks.filter (fun p => p / 64 == w)).foldl (fun a p => a + 2 ^ (p % 64)) 0))

/-- LOG_FLUSH (R232): the marks are taken and cleared at the cut, then every word of the selected bitmaps is written. -/
def execLogFlush (sl : Nat) (cmd : List Byte) (env : Env) (s : State) : Host.Outcome State Fault Refusal :=
  .next (ownerCmd s sl 0x49 cmd (fun s t x =>
    match logSelect x (par cmd 0x10 0 16) with
    | none => failed s STS_LOG_RANGE
    | some rs =>
      let s := slUpd s t (fun y => { y with logs := amap y.logs (fun n r => if rs.any (fun e => e.1 == n) then { r with marks := [] } else r) })
      let pages := (rs.map (fun e => e.2.marks.length)).foldl (· + ·) 0
      if envWrite env ≠ STS_OK then failed s (envWrite env)
      else (rs.foldl (fun s e => slWrite s sl e.2.bitmap 0 (logBitmap e.2)) s, some { aux := min pages 0xFFFFFFFF })))

/-- LOG_STOP (R233). -/
def execLogStop (sl : Nat) (cmd : List Byte) (s : State) : Host.Outcome State Fault Refusal :=
  .next (ownerCmd s sl 0x4A cmd (fun s t x =>
    match logSelect x (par cmd 0x10 0 16) with
    | none => failed s STS_LOG_RANGE
    | some rs => (slUpd s t (fun y => { y with logs := y.logs.filter (fun e => !rs.any (fun r => r.1 == e.1)) }), some {})))

/-! Freeze and thaw (R234, R237). -/

/-- The channels of a slice, by index. -/
def sliceChans (s : State) (sl : Nat) : List Nat := (s.ch.chans.filter (fun e => e.2.slice == sl)).map (fun e => e.1)

/-- FREEZE_SLICE (R234): rings and queues stop at their next entry, and receive buffers that hold no packet are given back. -/
def execFreezeSlice (sl : Nat) (cmd : List Byte) (s : State) : Host.Outcome State Fault Refusal :=
  .next (ownerCmd s sl 0x4C cmd (fun s t x =>
    if x.state ≠ 1 || x.freeze.isSome then failed s STS_SLICE_STATE else
    let s := slUpd s t (fun y => { y with freeze := some (s.time.elapsed, par cmd 0x10 0 32) })
    let s := adminDefer s sl 0x4C (leAt cmd 8 8) t
    ((sliceChans s t).foldl flushIdle s, none)))

/-- Everything that a freeze waits for has ended: fetched entries, work requests, half-written messages, NVMe commands. -/
def frozenNow (s : State) (sl : Nat) : Bool :=
  (s.ch.chans.filter (fun e => e.2.slice == sl)).all (fun e => e.2.ents.isEmpty && e.2.fetching == 0) &&
  (s.rm.qps.filter (fun e => (chanGet s e.1).any (fun c => c.slice == sl))).all (fun e =>
    e.2.works.isEmpty && e.2.resps.isEmpty && e.2.waits.isEmpty && !e.2.msgs.any (fun m => m.op ≠ 0 && !m.done)) &&
  (s.sv.ctrls.filter (fun e => e.2.slice == sl)).all (fun e =>
    e.2.posts.isEmpty && !s.sv.cmds.any (fun m => m.2.ctrl == e.1 && m.2.stage ≠ .event && m.2.stage ≠ .staged))

/-- FREEZE_COMPLETE (R234). -/
def execFreezeComplete (sl : Nat) (s : State) : Host.Outcome State Fault Refusal :=
  .next (match aget s.slices sl with
    | some x =>
      if x.state ≠ 1 || x.freeze.isNone || !frozenNow s sl then s else
      let s := raise (slUpd s sl (fun y => { y with state := 4, freeze := none })) 0x024 [(2, sl), (4, 4)]
      adminWake s 0x4C sl {}
    | none => s)

/-- Timers of a slice's queue pairs start again with their full interval (R237). -/
def qpTimersRestart (s : State) (sl : Nat) : State :=
  let now := s.time.elapsed
  (s.rm.qps.filter (fun e => (chanGet s e.1).any (fun c => c.slice == sl))).foldl (fun s e => qpUpd s e.1 (fun q =>
    { q with rtoAt := if q.sent.isEmpty then 0 else now, rnrWait := q.rnrWait.map (fun w => (now + w.2.2, w.2.1, w.2.2)),
             ackAt := q.ackAt.map (fun a => (now, a.2.1, a.2.2)), msgs := q.msgs.map (fun m => { m with since := now }),
             resps := q.resps.map (fun r => { r with since := now }) })) s

/-- FREEZE_TIMEOUT (R234): the slice returns to ACTIVE. -/
def execFreezeTimeout (sl : Nat) (s : State) : Host.Outcome State Fault Refusal :=
  .next (match aget s.slices sl with
    | some x => match x.freeze with
      | some (t, us) =>
        if us = 0 || s.time.elapsed < t + us * usUnits then s else
        let s := qpTimersRestart (slUpd s sl (fun y => { y with freeze := none })) sl
        svResume (adminWake s 0x4C sl { sts := STS_TIMEOUT })
      | none => s
    | none => s)

/-- THAW_SLICE (R237). -/
def execThawSlice (sl : Nat) (cmd : List Byte) (s : State) : Host.Outcome State Fault Refusal :=
  .next (ownerCmd s sl 0x4F cmd (fun s t x =>
    if x.state ≠ 4 then failed s STS_SLICE_STATE else
    let s := raise (slUpd s t (fun y => { y with state := 1 })) 0x024 [(2, t), (4, 1)]
    let s := (sliceChans s t).foldl (fun s i =>
      match chanGet s i with
      | some c => if c.state = 4 then s else (samplePidx s i).1
      | none => s) s
    (svResume (qpTimersRestart s t), some {})))

end Sys2Proof.Machine
end

