-- ==== Sys2Proof/Machine/Til.lean ====
section
/-! DEFINITION. Machine/Til.lean: the commands of tillers (chapter 16): channel instructions, thread control, ports, the DMA
engine, faults, standstill, debug and release. RISC-V execution itself is outside the model: a command carries what the
thread's instruction computed. -/

namespace Sys2Proof.Machine

/-! Channel instructions (R559). -/

/-- A thread can issue: it is RUNNING on a tiller that serves. -/
def thRuns (s : State) (t n : Nat) : Bool := t < 34 && n < 64 && thState s t n == 1 && (unitState s (16 + t) == 1 || unitState s (16 + t) == 2)

/-- An exception of a thread, taken by its own handler (R568). -/
def thTrap (s : State) (t n : Nat) (what : String) : State := emit (thIssue s t n) (.control what [t, n])

/-- CH.RECV on a port (R561); none when it must wait. -/
def chRecv (s : State) (t n port : Nat) (addr : Option Nat) : Option State :=
  let k := 16 * n + port
  let p := tport s t k
  if p.mode ≠ 1 then some (chReply s t n STS_PORT_UNBOUND) else
  match p.msgs with
  | [] => none
  | m :: rest =>
    match addr.bind (fun a => thAddr (fwBytes s) t a (8 * m.words)) with
    | none => some (thTrap (thSetState (thUpd s t n (fun x => { x with block := none })) t n 1) t n "store access fault")
    | some a =>
      let s1 := store s a ((headWords s t p).flatMap (fun w => le 8 w))
      let s1 := tportSet s1 t k { p with msgs := rest }
      some (chReply s1 t n STS_OK (m.words * 2 ^ 8 + port * 2 ^ 12 + m.kind * 2 ^ 16 + b2n m.late * 2 ^ 20 + m.sender * 2 ^ 24))

/-- CH.WAIT on a mask (R560, R561); none when it must wait. -/
def chWait (s : State) (t n mask : Nat) : Option State :=
  let ps := (List.range 16).filter (fun p => mask.testBit p)
  if ps.any (fun p => (tport s t (16 * n + p)).mode ≠ 1) then some (chReply s t n STS_PORT_UNBOUND) else
  match ps.find? (fun p => !(tport s t (16 * n + p)).msgs.isEmpty) with
  | some p => some (chReply s t n STS_OK (p * 2 ^ 12))
  | none => none

/-- A blocking instruction attempted; none while it must wait. -/
def chTry (s : State) (t n : Nat) (b : Block) : Option State :=
  match b.op with
  | 0 => chPut s t n b.port b.word b.fin
  | 1 => chRecv s t n b.port b.addr
  | _ => chWait s t n b.mask

/-- A channel instruction that may block, with its NB bit. A deadline that is already past fires at once, LATE (R47, R562). -/
def chRun (s : State) (t n : Nat) (b : Block) (nb : Bool) : State :=
  match chTry s t n b with
  | some s' => s'
  | none =>
    if nb then chReply s t n (if b.op = 0 then STS_PORT_FULL else STS_PORT_EMPTY)
    else if b.dl.any (fun d => decide (d < nowNs s)) then chReply (lateFiring s) t n STS_TIMEOUT
    else chBlock s t n b

/-- CH_PUT (R556): CH.PUT of thread n of tiller t with the values of rs1 and rs2 and funct7 ([0] NB, [1] SEAL); other bits
of funct7 make it illegal (R559). A put of a fenced tiller is dropped at its mesh port (R22). -/
def execChPut (t n rs1 rs2 f7 : Nat) (s : State) : Host.Outcome State Fault Refusal :=
  .next (if !thRuns s t n then (if t < 34 && n < 64 then fencedSend s (16 + t) else s)
    else if f7 ≥ 4 then thTrap s t n "illegal instruction"
    else chRun s t n { op := 0, port := rs1 % 16, word := rs2 % 2 ^ 64, fin := f7.testBit 1 } (f7.testBit 0))

/-- CH_RECV (R561): the buffer's physical address is what the thread's translation of rs2 gives, none for a fault;
`deadline` is tdeadline. funct7: [0] NB, [1] DL. -/
def execChRecv (t n rs1 : Nat) (addr : Option Nat) (f7 deadline : Nat) (s : State) : Host.Outcome State Fault Refusal :=
  .next (if !thRuns s t n then s
    else if f7 ≥ 4 then thTrap s t n "illegal instruction"
    else chRun s t n { op := 1, port := rs1 % 16, addr := addr, dl := if f7.testBit 1 && deadline ≠ 0 then some deadline else none } (f7.testBit 0))

/-- CH_WAIT (R560): rs1 [15:0] is the mask; a non-zero rs2 field is illegal (R559). -/
def execChWait (t n rs1 rs2f f7 deadline : Nat) (s : State) : Host.Outcome State Fault Refusal :=
  .next (if !thRuns s t n then s
    else if f7 ≥ 4 || rs2f ≠ 0 then thTrap s t n "illegal instruction"
    else chRun s t n { op := 2, mask := rs1 % 65536, dl := if f7.testBit 1 && deadline ≠ 0 then some deadline else none } (f7.testBit 0))

/-- Discards a port's open message and frees its reservation (R557, R558). -/
def dropOpen (s : State) (t k : Nat) : State :=
  let p := tport s t k
  if !p.opened then s else
  let s := match inPort s p.dest with
    | some (d, j, q) => tportSet s d j { q with resv := q.resv - 1 }
    | none => s
  showOpen (tportSet s t k { tport s t k with opened := false, words := [] }) t k

/-- CH_ABORT (R557). -/
def execChAbort (t n rs1 rs2f f7 : Nat) (s : State) : Host.Outcome State Fault Refusal :=
  .next (if !thRuns s t n then s
    else if f7 ≠ 0 || rs2f ≠ 0 then thTrap s t n "illegal instruction"
    else
      let p := tport s t (16 * n + rs1 % 16)
      if p.mode ≠ 2 then chReply s t n STS_PORT_UNBOUND
      else if p.opened then chReply (dropOpen s t (16 * n + rs1 % 16)) t n STS_OK
      else chReply s t n STS_MSG_STATE)

/-- CH_TIMER (R565): rs1 [3:0] port, [5:4] timer; rs2 the absolute time, zero disarms. A timer armed at a past time fires
LATE (R47). -/
def execChTimer (t n rs1 rs2 f7 : Nat) (s : State) : Host.Outcome State Fault Refusal :=
  .next (if !thRuns s t n then s
    else if f7 ≠ 0 then thTrap s t n "illegal instruction"
    else if (tport s t (16 * n + rs1 % 16)).mode ≠ 1 then chReply s t n STS_PORT_UNBOUND
    else
      let k := fld rs1 4 2
      let at' := rs2 % 2 ^ 64
      chReply (thUpd s t n (fun x => { x with timers := if at' = 0 then adel x.timers k else aset x.timers k (rs1 % 16, at', decide (at' < nowNs s)) })) t n STS_OK)

/-- CH_INFO (R560): the port's state. -/
def execChInfo (t n rs1 rs2f f7 : Nat) (s : State) : Host.Outcome State Fault Refusal :=
  .next (if !thRuns s t n then s
    else if f7 ≠ 0 || rs2f ≠ 0 then thTrap s t n "illegal instruction"
    else
      let p := tport s t (16 * n + rs1 % 16)
      emit (thIssue s t n) (.threadReply t n 0 [p.msgs.length + p.resv * 2 ^ 13 + b2n (p.mode ≠ 0) * 2 ^ 26 + b2n (p.mode == 2) * 2 ^ 27 + b2n p.opened * 2 ^ 28]))

/-! Completion of blocked instructions. -/

/-- CHANNEL_UNBLOCK (R562): a BLOCKED thread's instruction completes once a message or capacity is there. -/
def execChannelUnblock (t n : Nat) (s : State) : Host.Outcome State Fault Refusal :=
  .next (if t < 34 && n < 64 && thState s t n == 2 then
    match (thGet s t n).block with
    | some b => (chTry s t n b).getD s
    | none => s
  else s)

/-- CHANNEL_DEADLINE (R562, R563): the deadline of a BLOCKED read has come; a message that is there goes first. -/
def execChannelDeadline (t n : Nat) (s : State) : Host.Outcome State Fault Refusal :=
  .next (if t < 34 && n < 64 && thState s t n == 2 then
    match (thGet s t n).block with
    | some b =>
      if b.dl.any (fun d => d ≤ nowNs s) then (chTry s t n b).getD (chReply s t n STS_TIMEOUT) else s
    | none => s
  else s)

/-- THREAD_TIMER_EXPIRE (R565): timer k has reached its time, or has fired and now finds a slot. -/
def execThreadTimerExpire (t n k : Nat) (s : State) : Host.Outcome State Fault Refusal :=
  .next (if t < 34 && n < 64 then
    let x := thGet s t n
    let h (p : Nat) : TPort := tport s t (16 * n + p)
    match aget x.fired k with
    | some (p, at', late) =>
      if (h p).mode ≠ 1 then thUpd s t n (fun y => { y with fired := adel y.fired k })
      else match postMsg s (h p).handle [at'] 3 0 late with
        | some s' => thUpd s' t n (fun y => { y with fired := adel y.fired k })
        | none => s
    | none =>
      match aget x.timers k with
      | some (p, at', late) =>
        if nowNs s < at' then s else
        let s := thUpd (if late then lateFiring s else s) t n (fun y => { y with timers := adel y.timers k })
        if (h p).mode ≠ 1 then s
        else (postMsg s (h p).handle [at'] 3 0 late).getD (thUpd s t n (fun y => { y with fired := aset y.fired k (p, at', late) }))
      | none => s
  else s)

/-! Thread control (R563, R564, R569, R571). -/

/-- Where a thread that was executing stands is outside the model: its PC is a free value. -/
def stopPc (s : State) (t n : Nat) : State :=
  let r := draw s
  wr64 (thUpd r.2 t n (fun x => { x with regs := [] })) (thR Reg.TH_PC_LO t n) (r.1 % 2 ^ 64)

def haltThread (s : State) (t n : Nat) : State :=
  if thState s t n = 1 then thSetState (stopPc s t n) t n 0
  else if thState s t n = 2 then thSetState s t n 0 else s

/-- A halted thread runs on; a read it was blocked in is BLOCKED again, or ends with STS_TIMEOUT when its deadline passed
during the halt (R564). -/
def resumeThread (s : State) (t n : Nat) : State :=
  match (thGet s t n).block with
  | some b =>
    if b.dl.any (fun d => d ≤ nowNs s) then chReply s t n STS_TIMEOUT else thSetState s t n 2
  | none => thIssue (thSetState s t n 1) t n

/-- A thread reset (R571). -/
def resetThread (s : State) (t n : Nat) : State :=
  let s := (List.range 16).foldl (fun s p => dropOpen s t (16 * n + p)) s
  let s := thUpd s t n (fun x => { x with block := none, timers := [], fired := [], bps := [], regs := [] })
  let s := wrF s (thR Reg.TH_STATUS t n) 5 1 0
  if rdF s (thR Reg.TH_CTL t n) 3 1 = 1 && thCap s t n = 0 && !thDbg s t n then
    let x := thGet s t n
    thIssue (thSetState (wr64 (wr64 s (thR Reg.TH_PC_LO t n) x.entryPc) (thR Reg.TH_SP_LO t n) x.entrySp) t n 1) t n
  else thSetState s t n 0

/-- A write of TH_CTL that passed the gate: its commands act in ascending order of their bits. A cancel does not reach a blocked
instruction for which a message or capacity is there (R563). -/
def thCtlWrite (s : State) (t n : Nat) (v : W32) : State :=
  let s := plainWrite s (thR Reg.TH_CTL t n) 0xFF08 v
  let s := if rbit v 0 then haltThread s t n else s
  let s := if rbit v 1 && (thState s t n == 0 || thState s t n == 3) && !thDbg s t n then resumeThread s t n else s
  let s := if rbit v 2 then resetThread s t n else s
  if rbit v 4 && thState s t n = 2 then
    ((thGet s t n).block.bind (chTry s t n)).getD (chReply s t n (if rfld v 8 8 = 0 then STS_CANCELLED else BitVec.ofNat 8 (rfld v 8 8)))
  else s

/-- A row that is a write of TH_CTL with one of its command bits set. -/
def thCtlRow (bit : Nat) (req : Requester) (be t n : Nat) (v : W32) (s : State) : State :=
  if t < 34 && n < 64 && rbit v bit then gate s req be (thR Reg.TH_CTL t n) false (fun s => thCtlWrite s t n v) else s

/-- TH_HALT (R564). -/
def execThHalt (req : Requester) (be t n : Nat) (v : W32) (s : State) : Host.Outcome State Fault Refusal :=
  .next (thCtlRow 0 req be t n v s)

/-- TH_RESUME (R569). -/
def execThResume (req : Requester) (be t n : Nat) (v : W32) (s : State) : Host.Outcome State Fault Refusal :=
  .next (thCtlRow 1 req be t n v s)

/-- TH_RESET (R571). -/
def execThReset (req : Requester) (be t n : Nat) (v : W32) (s : State) : Host.Outcome State Fault Refusal :=
  .next (thCtlRow 2 req be t n v s)

/-- TH_CANCEL (R563). -/
def execThCancel (req : Requester) (be t n : Nat) (v : W32) (s : State) : Host.Outcome State Fault Refusal :=
  .next (thCtlRow 4 req be t n v s)

/-- A write of TH_WAKE_HI that passed the gate (R563): the wake enters the port unless its queue is full; it ignores
bindings. -/
def thWakeWrite (s : State) (req : Requester) (t n : Nat) (v : W32) : State :=
  let s := wr (loCommit s req (thR Reg.TH_WAKE_LO t n)) (thR Reg.TH_WAKE_HI t n) v
  let k := 16 * n + rdF s (thR Reg.TH_WAKE_PORT t n) 0 4
  let ok := (tport s t k).mode = 1 && tportRoom (tport s t k)
  let s := wrF s (thR Reg.TH_WAKE_PORT t n) 8 1 (b2n (!ok))
  if ok then enqueue s t k [rd64 s (thR Reg.TH_WAKE_LO t n)] 5 0 false else s

/-- TH_WAKE (R563). -/
def execThWake (req : Requester) (be t n : Nat) (v : W32) (s : State) : Host.Outcome State Fault Refusal :=
  .next (if t < 34 && n < 64 then gate s req be (thR Reg.TH_WAKE_HI t n) false (fun s => thWakeWrite s req t n v) else s)

/-- A write of TH_PC (k = 0, 1), TH_SP (2, 3) or TH_CAP (4) that passed the gate (R550). A LO half is held; the HI half commits
both, and is the write that is checked (R66). -/
def thContextWrite (s : State) (req : Requester) (t n k : Nat) (v : W32) : State :=
  let off := thR Reg.TH_PC_LO t n + 4 * k
  if k = 0 || k = 2 then loHold s req off v
  else if thState s t n = 1 || thState s t n = 2 || (k = 4 && (req ≠ .thread t 0 || n = 0)) then badAccess s req off
  else if k = 4 then wrF (wrN s off (rfld v 0 4)) (thR Reg.TH_STATUS t n) 4 1 (b2n (rfld v 0 4 ≠ 0))
  else wr (loCommit s req (off - 4)) off v

/-- THREAD_CONTEXT_WRITE (R550). -/
def execThreadContextWrite (req : Requester) (be t n k : Nat) (v : W32) (s : State) : Host.Outcome State Fault Refusal :=
  .next (if t < 34 && n < 64 && k < 5 then
    gate s req be (thR Reg.TH_PC_LO t n + 4 * k) false (fun s => thContextWrite s req t n k v) else s)

def thGroupWrite (s : State) (req : Requester) (t n : Nat) (v : W32) : State :=
  if n = 0 && rfld v 0 6 ≠ 0 then badAccess s req (thR Reg.TH_GROUP t n) else wrN s (thR Reg.TH_GROUP t n) (rfld v 0 6)

/-- TH_GROUP_WRITE (R572). -/
def execThGroupWrite (req : Requester) (be t n : Nat) (v : W32) (s : State) : Host.Outcome State Fault Refusal :=
  .next (if t < 34 && n < 64 then gate s req be (thR Reg.TH_GROUP t n) false (fun s => thGroupWrite s req t n v) else s)

/-! Ports (R553, R575). -/

def portKey (s : State) (t : Nat) : Nat :=
  rdF s (tilR Reg.TIL_PORT_SEL t) 4 6 * 16 + rdF s (tilR Reg.TIL_PORT_SEL t) 0 4

/-- The words of TIL_PORT_CFG that show a port. -/
def portWords (p : TPort) : List Nat :=
  [p.mode + 4 * b2n p.puntOk + 8 * b2n p.event + 16 * b2n p.hw + 256 * p.depthLog, p.qbase, p.handle, p.dest,
   p.pbase % 2 ^ 32, p.pbase / 2 ^ 32, p.pslots, 0]

def loadPort (s : State) (t : Nat) : State :=
  let ws := portWords (tport s t (portKey s t))
  (List.range 8).foldl (fun s w => wrN s (Reg.TIL_PORT_CFG (t / 8) (t % 8) w) ((ws[w]?).getD 0)) s

def portSelWrite (s : State) (t : Nat) (v : W32) : State := loadPort (wrN s (tilR Reg.TIL_PORT_SEL t) (rfld v 0 10)) t

/-- PORT_SEL_WRITE (R575). -/
def execPortSelWrite (req : Requester) (be t : Nat) (v : W32) (s : State) : Host.Outcome State Fault Refusal :=
  .next (if t < 34 then gate s req be (tilR Reg.TIL_PORT_SEL t) false (fun s => portSelWrite s t v) else s)

/-- A port is unbound: its handle is freed, and open messages bound for it are discarded (R552, R558). -/
def unbindPort (s : State) (t k : Nat) : State :=
  let p := tport s t k
  if p.mode = 0 then s else
  let s := freePortHandle s p.handle
  let gone := s.tils.flatMap (fun e => (e.2.ports.filter (fun q => q.2.mode == 2 && q.2.dest == p.handle && q.2.opened)).map (fun q => (e.1, q.1)))
  let s := gone.foldl (fun s g => showOpen (tportSet s g.1 g.2 { tport s g.1 g.2 with opened := false, words := [], destGone := true }) g.1 g.2) s
  tportSet s t k { hw := p.hw }

/-- TIL_PORT_CMD.APPLY on the selected port with the words of TIL_PORT_CFG: the lowest cause that refuses it, else the
binding. Commands take no time, so cause 6 does not arise here (log entry 5). -/
def portApply (s : State) (t : Nat) : State :=
  let k := portKey s t
  let p := tport s t k
  let w (i lo n : Nat) : Nat := rdF s (Reg.TIL_PORT_CFG (t / 8) (t % 8) i) lo n
  let mode := w 0 0 2
  let d := w 0 8 4
  let refuse (s : State) (c : Nat) : State := wrF (wrF s (tilR Reg.TIL_PORT_CMD t) 2 1 1) (tilR Reg.TIL_PORT_CMD t) 3 3 c
  let dest := w 3 0 32
  if mode = 3 || (mode = 1 && (d < 2 || d > 12)) then refuse s 1
  else if mode = 1 && (w 1 0 20 % 64 ≠ 0 || w 1 0 20 + 64 * 2 ^ d > 0x100000) then refuse s 2
  else if k = faultKey then refuse s 3
  else if (p.mode = 1 && (!p.msgs.isEmpty || p.resv ≠ 0)) || (p.mode = 2 && p.opened) then refuse s 4
  else if mode = 2 && (inPort s dest).isNone && (dmaOf s dest).isNone then refuse s 5
  else
    let s1 := unbindPort s t k
    if mode = 0 then loadPort s1 t else
    match newPortHandle s1 with
    | (none, _) => refuse s 5
    | (some h, s1) =>
      let q : TPort :=
        if mode = 1 then { mode := 1, puntOk := w 0 2 1 = 1, event := w 0 3 1 = 1, hw := p.hw, depthLog := d, qbase := w 1 0 20,
                           handle := h, pbase := w 4 0 32 + w 5 0 32 * 2 ^ 32, pslots := w 6 0 16, prel := p.prel }
        else { mode := 2, handle := h, dest := dest }
      loadPort (tportSet s1 t k q) t

def portCmdWrite (s : State) (t : Nat) (v : W32) : State :=
  let s := if rbit v 2 then wrF s (tilR Reg.TIL_PORT_CMD t) 2 1 0 else s
  if rbit v 0 then portApply s t else s

/-- PORT_APPLY (R553): a write of TIL_PORT_CMD with APPLY set. -/
def execPortApply (req : Requester) (be t : Nat) (v : W32) (s : State) : Host.Outcome State Fault Refusal :=
  .next (if t < 34 && rbit v 0 then gate s req be (tilR Reg.TIL_PORT_CMD t) false (fun s => portCmdWrite s t v) else s)

/-- A thread writes TIL_PREL of its own port (R546, R566). -/
def prelWrite (s : State) (t n p : Nat) (v : W32) : State := tportSet s t (16 * n + p) { tport s t (16 * n + p) with prel := v.toNat }

/-! The DMA engine (R567). -/

/-- DMA_REQUEST (R567): the engine of a tiller takes its oldest request. A fenced tiller's transfers are dropped at its mesh
port (R22). -/
def execDmaRequest (t : Nat) (s : State) : Host.Outcome State Fault Refusal :=
  .next (if unitState s (16 + t) = 3 && !(tilGet s t).dma.isEmpty then fencedSend s (16 + t) else
    match (tilGet s t).dmaCur, (tilGet s t).dma with
    | none, r :: rest => if unitState s (16 + t) = 1 then tilUpd s t (fun a => { a with dmaCur := some r, dma := rest }) else s
    | _, _ => s)

/-- A request that reads host memory, and the slice that it names. -/
def dmaHost (r : DmaReq) : Bool := fld ((r.words[0]?).getD 0) 8 2 == 2
def dmaSlice (r : DmaReq) : Nat := fld ((r.words[0]?).getD 0) 12 14

/-- The status that refuses a DMA request before any access; no address lies in the host memory of a slice that does not exist. -/
def dmaRefused (s : State) (r : DmaReq) : Option Byte :=
  let fw := fwBytes s
  let w (i lo n : Nat) : Nat := fld ((r.words[i]?).getD 0) lo n
  let len := w 0 32 32
  let out (sp a : Nat) : Bool := (sp == 0 && a + len > 0x100000) || (sp == 1 && a + len > fw) || (sp == 2 && (a + len > 2 ^ 64 || (aget s.slices (dmaSlice r)).isNone))
  firstSts [(w 0 0 8 ≠ 1 || w 0 8 2 = 3 || w 0 10 2 = 3, STS_BAD_DESC), (decide (len > 16777216), STS_LEN_RANGE),
    ((w 0 8 2 = 2 || w 0 10 2 = 2) && !r.cap.testBit 2, STS_CAPABILITY), (len = 0, STS_OK),
    (out (w 0 8 2) (w 1 0 64) || out (w 0 10 2) (w 2 0 64), STS_INVALID_PARAM)]

/-- The copy of a request, with what host memory answers; its status. -/
def dmaCopy (s : State) (t : Nat) (r : DmaReq) (env : Env) : State × Byte :=
  let w (i lo n : Nat) : Nat := fld ((r.words[i]?).getD 0) lo n
  match dmaRefused s r with
  | some sts => (s, sts)
  | none =>
    let len := w 0 32 32
    let base (sp : Nat) : Nat := if sp = 0 then scratchBase t else fwBase
    let got : State × HostData :=
      if w 0 8 2 = 2 then slFetch s (w 0 12 14) [(w 1 0 64, len)] 0 (envRead env 0) else (s, .ok (memGets s.mem (base (w 0 8 2) + w 1 0 64) len))
    match got with
    | (s, .failed sts) => (s, sts)
    | (s, .ok bs) =>
      if w 0 10 2 = 2 then
        if envWrite env = STS_OK then (slWrite s (w 0 12 14) (w 2 0 64) (payloadAttr s (w 0 12 14) false none none) (fit len bs), STS_OK) else (s, envWrite env)
      else (store s (base (w 0 10 2) + w 2 0 64) (fit len bs), STS_OK)

/-- DMA_COMPLETE (R567): the copy ends and its reply is posted; a reply that finds its port full waits there. -/
def execDmaComplete (t : Nat) (env : Env) (s : State) : Host.Outcome State Fault Refusal :=
  .next (match (tilGet s t).dmaCur with
    | none => s
    | some r =>
      if unitState s (16 + t) = 3 then fencedSend s (16 + t) else
      if unitState s (16 + t) ≠ 1 || (r.done.isNone && dmaHost r && !mayRead s (dmaSlice r)) then s else
      let x := match r.done with
        | some sts => (s, sts)
        | none => dmaCopy s t r env
      let w3 := (r.words[3]?).getD 0
      let fin (s : State) : State := tilUpd s t (fun a => { a with dmaCur := none })
      if (inPort x.1 (w3 % 2 ^ 32)).isNone then fin x.1 else
      match postMsg x.1 (w3 % 2 ^ 32) [x.2.toNat + w3 / 2 ^ 32 * 2 ^ 32] 2 0 false with
      | some s' => fin s'
      | none => tilUpd x.1 t (fun a => { a with dmaCur := some { r with done := some x.2 } }))

/-! Faults (R568 to R570) and standstill (R572, R573). -/

/-- A record for the fault port waits behind those already waiting, else is posted, or waits for a slot. -/
def faultRecord (s : State) (t : Nat) (words : List Nat) : State :=
  let p := tport s t faultKey
  if (tilGet s t).faults.isEmpty && p.mode = 1 && tportRoom p && !tilHeld s t then enqueue s t faultKey words 6 0 false
  else tilUpd s t (fun a => { a with faults := a.faults ++ [words] })

/-- THREAD_FAULT (R568): cause 0 zero vector, 1 nested machine trap, 2 ECC in the thread's registers. Trap entry and MRET are
steps of RISC-V execution, so IN_MTRAP is seen set here when cause 1 says so. -/
def execThreadFault (t n mode cause xcause xepc xtval : Nat) (s : State) : Host.Outcome State Fault Refusal :=
  .next (if t < 34 && n < 64 && cause < 3 && thState s t n ≠ 3 && (cause = 2 || thState s t n = 1) then
    let s := if cause = 1 then wrF s (thR Reg.TH_STATUS t n) 5 1 1 else s
    let s := thSetState (thUpd s t n (fun x => { x with block := none, regs := [] })) t n 3
    let s := wr64 s (thR Reg.TH_PC_LO t n) (xepc % 2 ^ 64)
    let w0 := 2 + n * 2 ^ 8 + mode % 4 * 2 ^ 14 + cause * 2 ^ 16
    let s := faultRecord s t [w0, xcause % 2 ^ 64, xepc % 2 ^ 64, xtval % 2 ^ 64, nowNs s, 0, 0, 0]
    let s := raiseLim (bump s (tilR Reg.TIL_FAULT_CNT t)) (tilSrc t 1) 0 [(4, n)]
    if n = 0 then raise s (tilSrc t 2) [(8, w0), (8, xcause)] else s
  else s)

/-- FAULT_RECORD_POST (R569). -/
def execFaultRecordPost (t : Nat) (s : State) : Host.Outcome State Fault Refusal :=
  .next (match (tilGet s t).faults with
    | r :: rest =>
      if (tport s t faultKey).mode = 1 && tportRoom (tport s t faultKey) && !tilHeld s t && unitState s (16 + t) = 1 then
        enqueue (tilUpd s t (fun a => { a with faults := rest })) t faultKey r 6 0 false
      else s
    | [] => s)

/-- Members of a wait group of a tiller. -/
def groupOf (s : State) (t g : Nat) : List Nat := (List.range 64).filter (fun n => n ≠ 0 && thGroup s t n == g)

/-- An outstanding DMA request names a handle for its reply. -/
def dmaNames (s : State) (h : Nat) : Bool :=
  s.tils.any (fun e => (e.2.dma ++ e.2.dmaCur.toList).any (fun r => (r.words[3]?).getD 0 % 2 ^ 32 == h))

/-- An IN port is group-fed for g (R572). -/
def groupFed (s : State) (t n p g : Nat) : Bool :=
  let x := tport s t (16 * n + p)
  let th := thGet s t n
  x.mode == 1 && !x.puntOk && !x.event && !x.hw && !th.timers.any (fun e => e.2.1 == p) && !th.fired.any (fun e => e.2.1 == p) &&
  !dmaNames s x.handle &&
  s.tils.all (fun e => e.2.ports.all (fun q => q.2.mode ≠ 2 || q.2.dest ≠ x.handle || (e.1 == t && q.1 / 16 ≠ 0 && thGroup s t (q.1 / 16) == g)))

/-- A member is BLOCKED without a deadline on ports of its group only (R573). -/
def stuckIn (s : State) (t n g : Nat) : Bool :=
  thState s t n == 2 &&
  (match (thGet s t n).block with
   | some b => b.dl.isNone && (match b.op with
     | 0 => (match inPort s (tport s t (16 * n + b.port)).dest with
       | some (d, k, _) => d == t && k / 16 ≠ 0 && thGroup s t (k / 16) == g
       | none => false)
     | 1 => groupFed s t n b.port g
     | _ => (List.range 16).all (fun p => !b.mask.testBit p || groupFed s t n p g))
   | none => false)

/-- STANDSTILL (R573). -/
def execStandstill (t g : Nat) (s : State) : Host.Outcome State Fault Refusal :=
  .next (
    let ms := groupOf s t g
    let quiet := rdF s (tilR Reg.TIL_SS_QUIET t) 0 16
    if t < 34 && 1 ≤ g && g ≤ 63 && !ms.isEmpty && quiet ≠ 0 && !(tilGet s t).still.contains g &&
        ms.all (fun n => stuckIn s t n g && decide ((thGet s t n).since + quiet * usUnits ≤ s.time.elapsed)) then
      let members := ms.foldl (fun a n => a + 2 ^ n) 0
      let s := tilUpd s t (fun a => { a with still := g :: a.still })
      let s := faultRecord s t [3 + g * 256, members, nowNs s, 0]
      raise (bump s (tilR Reg.TIL_SS_CNT t)) (tilSrc t 3) [(4, g), (8, members)]
    else s)

/-! Debug (R574). -/

/-- The scope that Ozelm opened reaches the thread. -/
def dbgScope (s : State) (t n : Nat) : Bool :=
  let sc := rdN s (tilR Reg.TIL_DBG_SCOPE t)
  sc.testBit 0 && (sc.testBit 1 ||
    (n ≠ 0 && thCap s t n == 0 && rdF s (thR Reg.TH_SLICE t n) 15 1 == 1 && rdF s (thR Reg.TH_SLICE t n) 0 14 == fld sc 2 14))

/-- A register of a halted thread: one not known since it last ran is a free value, which then stays. -/
def dbgReg (s : State) (t n r : Nat) : Nat × State :=
  if r = 0 then (0, s)
  else if r = 0x40 then (rd64 s (thR Reg.TH_PC_LO t n), s)
  else if r = 0x1CC0 then (thCap s t n, s)
  else match aget (thGet s t n).regs r with
    | some v => (v, s)
    | none =>
      let d := draw s
      (d.1 % 2 ^ 64, thUpd d.2 t n (fun x => { x with regs := aset x.regs r (d.1 % 2 ^ 64) }))

/-- Register numbers of RD_REG and WR_REG. -/
def dbgRegOk (r : Nat) : Bool := r ≤ 0x40 || (0x1000 ≤ r && r < 0x2000)

/-- A debug command within scope: the state and its STATUS. `pa` is the physical address that the thread's translation
gives for ADDR, none for a fault; `pc` the PC after the instruction of STEP, which the RISC-V rules give. -/
def dbgRun (s : State) (t n op : Nat) (pa : Option Nat) (pc : Nat) : State × Byte :=
  let addr := rdN s (tilR Reg.TIL_DBG_ADDR t)
  let data := rd64 s (tilR Reg.TIL_DBG_DATA_LO t)
  let halted := thState s t n == 0
  let set (s : State) (b : Nat) : State := wrF s (thR Reg.TH_STATUS t n) 3 1 b
  match op with
  | 1 => (set (haltThread s t n) 1, STS_OK)
  | 2 => if thDbg s t n then (resumeThread (set s 0) t n, STS_OK) else (s, STS_CHAN_STATE)
  | 3 =>
    if halted && thDbg s t n then
      (wr64 (thUpd (emit (thIssue s t n) (.control "single step" [t, n])) t n (fun x => { x with regs := [] })) (thR Reg.TH_PC_LO t n) (pc % 2 ^ 64), STS_OK)
    else (s, STS_CHAN_STATE)
  | 4 =>
    if !halted then (s, STS_CHAN_STATE) else if !dbgRegOk (addr % 0x2000) then (s, STS_INVALID_PARAM) else
    let r := dbgReg s t n (addr % 0x2000)
    (wr64 r.2 (tilR Reg.TIL_DBG_DATA_LO t) r.1, STS_OK)
  | 5 =>
    if !halted then (s, STS_CHAN_STATE) else if !dbgRegOk (addr % 0x2000) then (s, STS_INVALID_PARAM)
    else if addr % 0x2000 = 0x40 then (wr64 s (thR Reg.TH_PC_LO t n) data, STS_OK)
    else (thUpd s t n (fun x => { x with regs := aset x.regs (addr % 0x2000) data }), STS_OK)
  | 6 =>
    if !halted then (s, STS_CHAN_STATE) else
    match pa.bind (fun a => thAddr (fwBytes s) t a 8) with
    | some a => (wr64 s (tilR Reg.TIL_DBG_DATA_LO t) (ofLe (memGets s.mem a 8)), STS_OK)
    | none => (s, STS_INVALID_PARAM)
  | 7 =>
    if !halted then (s, STS_CHAN_STATE) else
    match pa.bind (fun a => thAddr (fwBytes s) t a 8) with
    | some a => (store s a (le 8 data), STS_OK)
    | none => (s, STS_INVALID_PARAM)
  | 8 =>
    if !halted then (s, STS_CHAN_STATE) else
    let k := 16 * n + addr % 16
    if (tport s t k).opened then
      let s := dropOpen s t k
      (tportSet s t k { tport s t k with abandoned := true }, STS_OK)
    else (s, STS_OK)
  | 9 => (resetThread s t n, STS_OK)
  | 10 => (thUpd s t n (fun x => { x with bps := aset x.bps (data % 4) addr }), STS_OK)
  | 11 => (thUpd s t n (fun x => { x with bps := adel x.bps (data % 4) }), STS_OK)
  | _ => (s, STS_INVALID_PARAM)

/-- A write of TIL_DBG_CMD that passed the gate. -/
def dbgCmdWrite (s : State) (t : Nat) (v : W32) (pa : Option Nat) (pc : Nat) : State :=
  let s := plainWrite s (tilR Reg.TIL_DBG_CMD t) 0x3F0 v
  let op := rfld v 0 4
  let n := rfld v 4 6
  if op = 0 then s else
  let r := if dbgScope s t n then dbgRun s t n op pa pc else (s, STS_PERMISSION)
  wrF r.1 (tilR Reg.TIL_DBG_STATUS t) 0 8 r.2.toNat

def dbgRow (op : Nat) (req : Requester) (be t : Nat) (v : W32) (pa : Option Nat) (pc : Nat) (s : State) : State :=
  if t < 34 && rfld v 0 4 == op then gate s req be (tilR Reg.TIL_DBG_CMD t) false (fun s => dbgCmdWrite s t v pa pc) else s

/-- DBG_HALT (R574). -/
def execDbgHalt (req : Requester) (be t : Nat) (v : W32) (s : State) : Host.Outcome State Fault Refusal :=
  .next (dbgRow 1 req be t v none 0 s)
/-- DBG_RESUME (R574). -/
def execDbgResume (req : Requester) (be t : Nat) (v : W32) (s : State) : Host.Outcome State Fault Refusal :=
  .next (dbgRow 2 req be t v none 0 s)
/-- DBG_STEP (R574): `pc` is where the instruction leaves the PC. -/
def execDbgStep (req : Requester) (be t : Nat) (v : W32) (pc : Nat) (s : State) : Host.Outcome State Fault Refusal :=
  .next (dbgRow 3 req be t v none pc s)
/-- DBG_RD_REG (R574). -/
def execDbgRdReg (req : Requester) (be t : Nat) (v : W32) (s : State) : Host.Outcome State Fault Refusal :=
  .next (dbgRow 4 req be t v none 0 s)
/-- DBG_WR_REG (R574). -/
def execDbgWrReg (req : Requester) (be t : Nat) (v : W32) (s : State) : Host.Outcome State Fault Refusal :=
  .next (dbgRow 5 req be t v none 0 s)
/-- DBG_RD_MEM (R574). -/
def execDbgRdMem (req : Requester) (be t : Nat) (v : W32) (pa : Option Nat) (s : State) : Host.Outcome State Fault Refusal :=
  .next (dbgRow 6 req be t v pa 0 s)
/-- DBG_WR_MEM (R574). -/
def execDbgWrMem (req : Requester) (be t : Nat) (v : W32) (pa : Option Nat) (s : State) : Host.Outcome State Fault Refusal :=
  .next (dbgRow 7 req be t v pa 0 s)
/-- ABANDON (R558). -/
def execAbandon (req : Requester) (be t : Nat) (v : W32) (s : State) : Host.Outcome State Fault Refusal :=
  .next (dbgRow 8 req be t v none 0 s)
/-- DBG_RESET (R574, R571). -/
def execDbgReset (req : Requester) (be t : Nat) (v : W32) (s : State) : Host.Outcome State Fault Refusal :=
  .next (dbgRow 9 req be t v none 0 s)
/-- BP_SET (R574). -/
def execBpSet (req : Requester) (be t : Nat) (v : W32) (s : State) : Host.Outcome State Fault Refusal :=
  .next (dbgRow 10 req be t v none 0 s)
/-- BP_CLR (R574). -/
def execBpClr (req : Requester) (be t : Nat) (v : W32) (s : State) : Host.Outcome State Fault Refusal :=
  .next (dbgRow 11 req be t v none 0 s)

/-- BREAKPOINT_HIT (R574): a running thread reaches the PC of one of its breakpoints. -/
def execBreakpointHit (t n pc : Nat) (s : State) : Host.Outcome State Fault Refusal :=
  .next (if thRuns s t n && (thGet s t n).bps.any (fun e => e.2 == pc) then
    wrF (thSetState (wr64 (thUpd s t n (fun x => { x with regs := [] })) (thR Reg.TH_PC_LO t n) (pc % 2 ^ 64)) t n 0) (thR Reg.TH_STATUS t n) 3 1 1
  else s)

/-- TILLER_RELEASE (R549): Ozelm releases a tiller: one that serves, for its role, or a spare that is to take a role in a
handover (R603). -/
def execTillerRelease (t role : Nat) (s : State) : Host.Outcome State Fault Refusal :=
  .next (if t < 34 && role < 32 && rdF s (tilR Reg.TIL_STATUS t) 0 1 = 0 then
    if unitState s (16 + t) = 1 && unitRole s (16 + t) = role then releaseTiller s t role role
    else if unitState s (16 + t) = 2 then releaseTiller s t role 0x3F
    else s
  else s)

end Sys2Proof.Machine
end

