-- ==== Sys2Proof/Machine/Unit.lean ====
section
/-! DEFINITION. Machine/Unit.lean: spares, fencing and hitless change (chapter 17): heartbeats, declarations, takeovers,
re-admission, handovers, and the loss of GDDR7 controllers. -/

namespace Sys2Proof.Machine

def unitUpd (s : State) (f : UnitSt → UnitSt) : State := { s with unit := f s.unit }

/-- The units of R578: stairs 0 to 8, tillers 16 to 49, lookaside engines 64 to 72. -/
def unitValid (u : Nat) : Bool := u < 9 || (16 ≤ u && u < 50) || (64 ≤ u && u < 73)
/-- Their kind: 0 stair, 1 tiller, 2 engine; and the first unit number, the units and the roles of a kind. -/
def unitKind (u : Nat) : Nat := if u < 16 then 0 else if u < 64 then 1 else 2
def kindBase (k : Nat) : Nat := match k with | 0 => 0 | 1 => 16 | _ => 64
def kindUnits (k : Nat) : Nat := match k with | 1 => 34 | _ => 9
def kindRoles (k : Nat) : Nat := match k with | 1 => 32 | _ => 8

def unitsOf (k : Nat) : List Nat := (List.range (kindUnits k)).map (kindBase k + ·)

def setUnitState (s : State) (u st : Nat) : State := wrF s (Reg.MS_UNIT_W0 u) 16 3 st
def setUnitRole (s : State) (u r : Nat) : State := wrF s (Reg.MS_UNIT_W0 u) 19 6 r
def setUnitCause (s : State) (u c : Nat) : State := wrF s (Reg.MS_UNIT_W0 u) 25 4 c

/-- A unit's timer starts, or a beat restarts it (R581). -/
def beat (s : State) (u : Nat) : State := unitUpd s (fun x => { x with beats := aset x.beats u s.time.elapsed })

/-- A unit enters SERVING or SPARE. -/
def unitEnter (s : State) (u st role : Nat) : State := beat (setUnitRole (setUnitState s u st) u role) u

/-- Fences of a unit in the last 24 hours of elapsed time. -/
def fences24 (s : State) (u : Nat) : Nat := ((agetD s.unit.fences u []).filter (fun t => s.time.elapsed < t + 86400000 * msUnits)).length

def takeKey (k role : Nat) : Nat := k * 64 + role
def takeOf (s : State) (k role : Nat) : Option (Nat × Nat × Nat) := aget s.unit.takeovers (takeKey k role)
/-- A spare that is to take a role already. -/
def spareBusy (s : State) (u : Nat) : Bool := s.unit.takeovers.any (fun e => e.2.2.1 == u)

/-! Declaration (R580 to R584). -/

/-- The spare that takes over: the lowest-numbered of the kind; during a rolling tiller update one that runs the failed
tiller's image is preferred (R584). -/
def chooseSpare (s : State) (k u : Nat) : Option Nat :=
  let all := (unitsOf k).filter (fun x => unitState s x == 2 && !spareBusy s x)
  let same := all.filter (fun x => (tilGet s (x - 16)).image == (tilGet s (u - 16)).image)
  if k = 1 && !s.unit.rolling.isEmpty then (same.head?).orElse (fun _ => all.head?) else all.head?

/-- Packets that wait to enter a role's flights are dropped: the role stays unserved (R596). -/
def dropWaiting (s : State) (role : Nat) : State :=
  let a := entryGet s role 0
  let b := entryGet s role 1
  let s := entrySet (entrySet s role 0 { a with wire := [], again := [], other := [] }) role 1 { b with again := [] }
  let s := (a.wire ++ a.again ++ a.other).foldl (fun s k => endPkt (bump s Reg.MS_NOSPARE_DROP_CNT) k) s
  b.again.foldl (fun s k => endSent (bump s Reg.MS_NOSPARE_DROP_CNT) k) s

/-- No spare of the kind is left: the role stays unserved (R596). An engine's requests go to the others. -/
def noSpare (s : State) (k role u : Nat) : State :=
  let s := raise s 0x983 [(4, k), (4, role)]
  match k with
  | 0 => (List.range 4).foldl (fun s k => lineFollow s (4 * role + k)) (dropWaiting s role)
  | 1 => s
  | _ => (laRedo s (u - 64) (pickEngine s).1).1

/-- The role of a failed unit is promoted to a spare, or stays unserved. -/
def promote (s : State) (u role : Nat) : State :=
  let k := unitKind u
  match chooseSpare s k u with
  | some p => unitUpd s (fun x => { x with takeovers := aset x.takeovers (takeKey k role) (u, p, s.time.elapsed) })
  | none => noSpare s k role u

/-- The registers of a stair's flight, by their place in its region, that its reset leaves as they are: those that lay out the
table SRAM it keeps (R339, R669), the retire mark (R341), and the profiles under which the spare parses (R241). Log entry 33. -/
def stairKeeps (o : Nat) : Bool :=
  o < 0x1000 || (0x1100 ≤ o && o < 0x1300 && o % 0x80 < 0x40) || (0x2400 ≤ o && o < 0x3400) || (0x3900 ≤ o && o < 0x3A00) ||
  o = 0x3A04 || (0x3A80 ≤ o && o < 0x3B00)

/-- A register of a stair that its reset returns to its Reset value (R669). -/
def stairReg (u off : Nat) : Bool :=
  let o := off % 0x100000
  (off / 0x100000 = 0x11 + 2 * u || off / 0x100000 = 0x12 + 2 * u) && o < 0x4000 && !stairKeeps o

/-- A register of a tiller that its reset returns to its Reset value: all but the handle of its DMA engine and its punt counts,
which the takeover moves (R591). -/
def tillerReg (t off : Nat) : Bool :=
  tilR Reg.TIL_STATUS t ≤ off && off < tilR Reg.TIL_STATUS t + 0x10000 && off ≠ tilR Reg.TIL_DMA_HANDLE t &&
  off ≠ tilR Reg.TIL_PUNT_CNT_LO t && off ≠ tilR Reg.TIL_PUNT_CNT_HI t

/-- The reset of a unit (R669): its registers take their Reset values. -/
def unitRegsReset (s : State) (u : Nat) : State :=
  { s with regs := s.regs.filter (fun e => !(match unitKind u with
      | 0 => stairReg u e.1
      | 1 => tillerReg (u - 16) e.1
      | _ => false)) }

/-- What the fence does to a unit of each kind: it is reset; a stair's flights are in discard mode; a tiller's threads are held
in reset; an engine is shown FENCED. -/
def fenceKind (s : State) (u : Nat) : State :=
  match unitKind u with
  | 0 =>
    let s := unitRegsReset (rhEnd s 3) u
    [0, 1].foldl (fun s fl => wrF s (Reg.STA_RET_STATUS u fl) 0 7 (1 + 0xF * 4)) s
  | 1 =>
    let t := u - 16
    let s := unitRegsReset s u
    let s := (List.range 64).foldl (fun s n => thSetState s t n 0) s
    wrN s (tilR Reg.TIL_STATUS t) (2 + 8 * 0x3F)
  | _ => wrF (wrF s Reg.CY_LA_STATUS (u - 64) 1 0) Reg.CY_LA_STATUS (9 + (u - 64)) 1 1

/-- A unit that is SERVING or SPARE is declared failed with a cause (R583): its epoch moves on, it is FENCED, and its role is
promoted. A spare that was to take a role leaves it to another. -/
def declare' (s : State) (u cause : Nat) : State :=
  let st := unitState s u
  if !unitValid u || (st ≠ 1 && st ≠ 2) then s else
  let role := unitRole s u
  let owed := s.unit.takeovers.filter (fun e => e.2.2.1 == u)
  let e := (unitEpoch s u + 1) % 65536
  let s := setUnitCause (wrF (setUnitState s u 3) (Reg.MS_UNIT_W0 u) 0 16 e) u cause
  let s := wrF s (Reg.MS_UNIT_W1 u) 0 8 (min 255 (rdF s (Reg.MS_UNIT_W1 u) 0 8 + 1))
  let s := unitUpd s (fun x => { x with fences := aset x.fences u (s.time.elapsed :: agetD x.fences u []), takeovers := x.takeovers.filter (fun e => e.2.2.1 ≠ u) })
  let s := fenceKind (raise s 0x980 [(4, u), (4, cause), (4, e)]) u
  let s := if st = 1 && role < kindRoles (unitKind u) then promote s u role else s
  owed.foldl (fun s e => promote s e.2.1 (e.1 % 64)) s

/-- HEARTBEAT (R581, R585): beats from units in any other state are ignored. -/
def execHeartbeat (u : Nat) (s : State) : Host.Outcome State Fault Refusal :=
  .next (if unitValid u && (unitState s u == 1 || unitState s u == 2) then beat s u else s)

/-- HEARTBEAT_TIMEOUT (R581): 12 us of elapsed time with no beat, once the device has started. -/
def execHeartbeatTimeout (u : Nat) (s : State) : Host.Outcome State Fault Refusal :=
  .next (if rdF s Reg.GL_BOOT_STAGE 0 4 = 5 && agetD s.unit.beats u 0 + 12 * usUnits ≤ s.time.elapsed then declare' s u 2 else s)

/-- EV_STA_UC_MCHECK with its fields: flight, step, store, bank, address, outcome (R693). -/
def mcheckEvent (s : State) (p : Nat) (w : List Nat) (outcome : Nat) : State :=
  let f (k : Nat) : Nat := (w[k]?).getD 0
  raise s (stairSrc p 22) [(1, f 0), (1, f 1), (1, f 2), (1, f 3), (2, f 4), (1, outcome)]

/-- MACHINE_CHECK (R580): `what` gives flight, step, store, bank and address of a control-store or parse-table parity error of a
stair (R381, R383), and is empty for any other error. -/
def execMachineCheck (u : Nat) (what : List Nat) (s : State) : Host.Outcome State Fault Refusal :=
  .next (if unitValid u && (unitState s u == 1 || unitState s u == 2) then
    let s := if u < 9 && !what.isEmpty then mcheckEvent (unitUpd s (fun x => { x with mcheck := aset x.mcheck u what })) u what 0 else s
    declare' s u 1
  else s)

/-! Takeover (R588 to R595). -/

/-- A climb of a failed flight is replayed from the landing's copy. -/
def replayOf (c : Climb) : Pkt × Nat × Nat × Nat := ({ c.pkt with hdr := c.pkt.hdr0, md := c.pkt.md0 }, c.seq, c.entryNs, c.entryEl)

/-- A flight moves to the spare: its state, with what had not retired in the replay list and its markers before the others. -/
def takeFlight (s : State) (f p role fl : Nat) : State × Nat :=
  let x := flightGet s f fl
  let ps := x.climbs.filter (fun c => c.marker.isNone)
  let ms := (x.climbs.filterMap (fun c => c.marker)).filterMap (fun n => aget x.inside n)
  let s := entryUpd s role fl (fun e => { e with replay := ps.map replayOf ++ e.replay, marks := ms ++ e.marks })
  let s := wrN s (Reg.STA_RET_MARK p fl) (rdN s (Reg.STA_RET_MARK f fl))
  let s := flightUpd s f fl (fun _ => {})
  (flightUpd s p fl (fun _ => { x with climbs := [], inside := [] }), ps.length)

/-- The park keys of a stair move with its bindings. -/
def moveKey (f p : Nat) : ParkKey → ParkKey
  | .deep st t a b => .deep (if st = f then p else st) t a b
  | .glean st k => .glean (if st = f then p else st) k
  | k => k

/-- What the mirror of a stair's L2 store holds (R301): the store, what was being loaded into it, and what its reset took away. -/
def mirrorOf (s : State) (f : Nat) : List TEntry :=
  let x := stairGet s f
  (entriesOf s f 63).map (fun e => e.2) ++ x.loading ++ x.mirror

/-- A stair's tables with STATE_EN. -/
def stateTables (s : State) (f : Nat) : List Nat := (List.range 62).filter (fun t => tblStateEn s f t)

/-- The tables of a fenced stair whose state blocks another has taken over come back from the guarded copy (R277), so that no
flow-state write stays in them; of its L2 store only the static entries do. -/
def tablesReload (s : State) (f : Nat) : State :=
  let st := stateTables s f
  let s := stairUpd s f (fun x => { x with
    tbls := x.tbls.map (fun e => (e.1, if st.contains e.1 then agetD x.shadow e.1 [] else e.2)), learns := [], lines := [], loading := [], loaded := none, mirror := [] })
  setEntries (setEntries s f 63 ((entriesOf s f 63).filter (fun e => e.2.flags % 2 = 1))) f 62 []

/-- The spare takes over tables (R301, R339): the entries of the tables whose state is in the state blocks move to it with their copies;
its L2 store and glean table are cleared, and the L2 mirror is to be loaded, of its own stair too where that takes its role again.
Learn requests are lost (R341). -/
def takeTables (s : State) (f p : Nat) : State :=
  let l2 := mirrorOf s f
  let mine := (stateTables s f).map (fun t => (t, entriesOf s f t, agetD (stairGet s f).shadow t []))
  let s := if f = p then s else mine.foldl (fun s e => stairUpd s p (fun x => { x with tbls := aset x.tbls e.1 e.2.1, shadow := aset x.shadow e.1 e.2.2 })) (tablesReload s f)
  stairUpd (setEntries (setEntries s p 63 []) p 62 []) p (fun x => { x with loading := l2, loaded := some 0, learns := [], mirror := [] })

/-- A packet's keys move with its stair. -/
def moveWaited (f p : Nat) (k : Pkt) : Pkt := { k with waited := k.waited.map (moveKey f p) }

/-- A stair takeover ends (R589). EV_STA_REPLAY goes out with it and counts the packets that stand in the replay lists, from which
they climb afterwards (DEDUCED, log entry 33). -/
def takeStair (s : State) (f p role : Nat) : State :=
  let i := takeFlight s f p role 0
  let e := takeFlight i.1 f p role 1
  let s := takeTables e.1 f p
  let s := { s with land := { s.land with hall := s.land.hall.map (fun x => { x with key := moveKey f p x.key, pkt := moveWaited f p x.pkt, stair := if x.stair = f then p else x.stair }) } }
  let s := entryUpd s role 0 (fun e => { e with again := e.again.map (moveWaited f p), replay := e.replay.map (fun r => (moveWaited f p r.1, r.2)) })
  let s := cyUpd s (fun y => { y with aside := y.aside.map (fun a => if a.stair = f then { a with stair := p } else a) })
  let s := [0, 1].foldl (fun s fl => wrF s (Reg.STA_RET_STATUS p fl) 0 7 (2 + role * 4 + 64 * b2n (f ≠ p))) s
  raise s (stairSrc p 17) [(4, f), (4, i.2), (4, e.2)]

/-- Open messages, reservations and sealed messages of a tiller's threads end. -/
def dropSent (s : State) (t : Nat) : State :=
  let s := (tilGet s t).ports.foldl (fun s e => if e.2.mode = 2 then dropOpen s t e.1 else s) s
  tilUpd s t (fun a => { a with ports := amap a.ports (fun _ q => if q.sealed then { q with sealed := false, words := [] } else q) })

/-- Handles that a tiller holds for itself are freed. -/
def freeOwn (s : State) (t : Nat) : State :=
  let s := (tilGet s t).ports.foldl (fun s e => freePortHandle s e.2.handle) s
  let h := rdN s (tilR Reg.TIL_DMA_HANDLE t)
  wrN (tilUpd (freePortHandle s h) t (fun a => { a with ports := [] })) (tilR Reg.TIL_DMA_HANDLE t) 0

/-- The words of a tiller's scratch and shared registers, copied to another; a word that cannot be read is zero (R592). -/
def copyScratch (s : State) (f t : Nat) (bad : List Nat) : State :=
  let b := scratchBase f
  let cells := (s.mem.filter (fun e => b ≤ e.1 && e.1 < b + 0x100800 && !bad.contains ((e.1 - b) / 8))).map (fun e => (e.1 - b, e.2))
  let m := memClear s.mem (scratchBase t) (scratchBase t + 0x100800)
  { s with mem := cells.foldl (fun m e => memPut m (scratchBase t + e.1) e.2) m }

/-- Messages that wait sealed at their senders for a tiller's ports are delivered. -/
def deliverSealed (s : State) (t : Nat) : State :=
  s.tils.foldl (fun s e => e.2.ports.foldl (fun s q =>
    if q.2.sealed && (inPort s q.2.dest).any (fun x => x.1 == t) then
      let s := tportSet s e.1 q.1 { tport s e.1 q.1 with sealed := false, words := [] }
      match inPort s q.2.dest with
      | some (d, j, x) => enqueue (tportSet s d j { x with resv := x.resv - 1 }) d j q.2.words 0 (q.2.handle % 0x1000000) false
      | none => s
    else s) s) s

/-- The punt counts of a tiller are copied to another (R591, R603). -/
def puntCopy (s : State) (f t : Nat) : State :=
  wr64 s (tilR Reg.TIL_PUNT_CNT_LO t) (rd64 s (tilR Reg.TIL_PUNT_CNT_LO f))

/-- A tiller takeover ends (R591): `bad` lists the words of scratch that could not be read. -/
def takeTiller (s : State) (f p role : Nat) (bad : List Nat) : State :=
  let s := dropSent s f
  let s := if f = p then s else
    let s := copyScratch (freeOwn s p) f p bad
    let s := if bad.isEmpty then s else raise (bump s Reg.MS_COPY_ERR_CNT bad.length) 0x986 [(4, 16 + f), (4, bad.length)]
    let a := tilGet s f
    let h := rdN s (tilR Reg.TIL_DMA_HANDLE f)
    let s := wrN (wrN s (tilR Reg.TIL_DMA_HANDLE p) h) (tilR Reg.TIL_DMA_HANDLE f) 0
    let s := puntCopy s f p
    tilUpd (tilUpd s p (fun x => { x with ports := a.ports, faults := a.faults })) f (fun x => { x with ports := [], faults := [] })
  let s := tilUpd s f (fun x => { x with dma := [], dmaCur := none, threads := [], still := [] })
  let s := tilUpd s p (fun x => { x with dma := [], dmaCur := none, still := [] })
  deliverSealed (releaseTiller s p role role) p

/-- A unit takes a role: it is SERVING, and the duration is recorded. -/
def takeEnd (s : State) (f p role start : Nat) : State :=
  let k := unitKind f
  let d := (s.time.elapsed - start) / 65536
  let s := unitUpd s (fun x => { x with takeovers := adel x.takeovers (takeKey k role) })
  let s := if f ≠ p then setUnitRole s f 0x3F else s
  let s := bump (wrN (unitEnter s p 1 role) Reg.MS_TAKEOVER_NS d) Reg.MS_TAKEOVER_CNT
  let s := raise s 0x981 [(4, f), (4, p), (4, d)]
  if k = 0 then (List.range 4).foldl (fun s k => lineFollow s (4 * role + k)) s else s

/-- TAKEOVER_COMPLETE (R588): the takeover of a role of a kind ends. -/
def execTakeoverComplete (kind role : Nat) (bad : List Nat) (s : State) : Host.Outcome State Fault Refusal :=
  .next (if kind < 3 && role < kindRoles kind then
    match takeOf s kind role with
    | none => s
    | some (f, p, start) =>
      match kind with
      | 0 => takeEnd (takeStair s f p role) f p role start
      | 1 =>
        let s := takeEnd s f p role start
        takeTiller s (f - 16) (p - 16) role bad
      | _ =>
        let e := p - 64
        let s := takeEnd s f p role start
        let s := wrF (wrF s Reg.CY_LA_STATUS e 1 1) Reg.CY_LA_STATUS (9 + e) 1 0
        if f = p then s else
        let r := laRedo s (f - 64) e
        raise r.1 0x805 [(4, e), (4, r.2)]
  else s)

/-! Unit commands and re-admission (R582, R597, R605). -/

/-- A refused unit command. -/
def unitRefuse (s : State) (cause : Nat) : State := wrF (wrF s Reg.MS_UNIT_CMD 25 1 1) Reg.MS_UNIT_CMD 26 3 cause

/-- A re-admission begins: the unit is TESTING at the epoch of its fence. A tiller's test overwrites its scratch. -/
def readmit (s : State) (u : Nat) : State :=
  let s := unitUpd (setUnitState s u 4) (fun x => { x with tests := aset x.tests u s.time.elapsed })
  if unitKind u ≠ 1 then s else { s with mem := memClear s.mem (scratchBase (u - 16)) (scratchBase (u - 16) + 0x100800) }

/-- A spare tiller that a handover may take: released, and its supervisor has set READY. -/
def handoverReady (s : State) (u : Nat) : Bool :=
  16 ≤ u && u < 50 && unitState s u == 2 && !spareBusy s u && rdF s (tilR Reg.TIL_STATUS (u - 16)) 0 1 == 1 &&
  rdF s (tilR Reg.TIL_HANDOVER (u - 16)) 0 1 == 1

/-- Steps 1 and 2 of a handover (R603): IN ports move with their messages and handles, OUT ports are copied, and the spare takes
the role. The old tiller keeps its fault port, its DMA engine and its OUT ports. -/
def handover (s : State) (old new role : Nat) : State :=
  let o := old - 16
  let n := new - 16
  let s := raise s 0x985 [(4, role), (4, 1), (4, old), (4, new)]
  let h := rdN s (tilR Reg.TIL_DMA_HANDLE o)
  let h' := rdN s (tilR Reg.TIL_DMA_HANDLE n)
  let a := tilGet s o
  let ins := a.ports.filter (fun e => e.2.mode == 1 && e.1 ≠ faultKey)
  let outs := (a.ports.filter (fun e => e.2.mode == 2)).map (fun e =>
    (e.1, { e.2 with opened := false, words := [], sealed := false, abandoned := false, destGone := false, dest := if e.2.dest = h then h' else e.2.dest }))
  let s := (tilGet s n).ports.foldl (fun s e => if e.1 = faultKey then s else freePortHandle s e.2.handle) s
  let fault := tport s n faultKey
  let s := puntCopy (copyScratch s o n []) o n
  let s := tilUpd s n (fun x => { x with ports := (ins ++ outs).foldl (fun m e => aset m e.1 e.2) [(faultKey, { fault with msgs := [], tail := 0 })] })
  let s := tilUpd s o (fun x => { x with ports := x.ports.filter (fun e => e.2.mode ≠ 1 || e.1 = faultKey) })
  let s := unitEnter (setUnitRole s old 0x3F) new 1 role
  let s := wrF (wrF s (tilR Reg.TIL_STATUS o) 3 6 0x3F) (tilR Reg.TIL_STATUS n) 2 7 (role * 2)
  let s := wrF (wrF s (tilR Reg.TIL_HANDOVER o) 2 1 1) (tilR Reg.TIL_HANDOVER n) 2 1 1
  unitUpd s (fun x => { x with handover := some (old, new, role, s.time.elapsed) })

/-- The lowest cause that refuses a unit command (R605, R691): 0 when none does. -/
def unitCause (s : State) (op u target : Nat) : Nat :=
  let st := unitState s u
  let okState := match op with
    | 1 => st == 1 || st == 2
    | 2 => st == 3 || st == 5
    | 3 => unitKind u == 1 && st == 1 && unitRole s u < 32 && s.unit.handover.isNone
    | 4 => st == 3
    | _ => false
  if !unitValid u || !okState then 1
  else if op = 3 && !handoverReady s target then 2
  else if !ozRunning s then 3
  else 0

/-- A write of MS_UNIT_CMD that passed the gate. -/
def unitCmdWrite (s : State) (v : W32) : State :=
  let s := plainWrite s Reg.MS_UNIT_CMD 0x7F07F v
  let s := if rbit v 25 then wrF s Reg.MS_UNIT_CMD 25 1 0 else s
  let op := rfld v 8 3
  let u := rfld v 0 7
  if op = 0 then s else
  let c := unitCause s op u (rfld v 12 7)
  if c ≠ 0 then unitRefuse s c else
  match op with
  | 1 => declare' s u 3
  | 2 => readmit s u
  | 3 => handover s u (rfld v 12 7) (unitRole s u)
  | _ => setUnitState s u 5

def unitRow (op : Nat) (req : Requester) (be : Nat) (v : W32) (s : State) : State :=
  if rfld v 8 3 = op then gate s req be Reg.MS_UNIT_CMD true (fun s => unitCmdWrite s v) else s

/-- FENCE (R582). -/
def execFence (req : Requester) (be : Nat) (v : W32) (s : State) : Host.Outcome State Fault Refusal := .next (unitRow 1 req be v s)
/-- READMIT (R597). -/
def execReadmit (req : Requester) (be : Nat) (v : W32) (s : State) : Host.Outcome State Fault Refusal := .next (unitRow 2 req be v s)
/-- RETIRE (R597). -/
def execRetire (req : Requester) (be : Nat) (v : W32) (s : State) : Host.Outcome State Fault Refusal := .next (unitRow 4 req be v s)
/-- HANDOVER (R603). -/
def execHandover (req : Requester) (be : Nat) (v : W32) (s : State) : Host.Outcome State Fault Refusal := .next (unitRow 3 req be v s)

/-- AUTO_READMIT (R597, R27): Ozelm, while it runs and once the unit's takeover is over, re-admits a FENCED unit that has been
fenced fewer than MAX_FENCE times in the last 24 hours, with AUTO set; otherwise the unit becomes DEAD. -/
def execAutoReadmit (u : Nat) (s : State) : Host.Outcome State Fault Refusal :=
  .next (if unitValid u && unitState s u = 3 && ozRunning s && !s.unit.takeovers.any (fun e => e.2.1 == u) then
    let max' := rdF s Reg.MS_READMIT_CTL 8 4
    if rdF s Reg.MS_READMIT_CTL 0 1 = 1 && (max' = 0 || fences24 s u < max') then readmit s u else setUnitState s u 5
  else s)

/-- A role of a kind that no unit serves or is about to take, with the unit that last held it: the unit's own first, then the
lowest. -/
def unserved (s : State) (u : Nat) : Option (Nat × Nat) :=
  let k := unitKind u
  let open' (r : Nat) : Bool := !(unitsOf k).any (fun x => unitState s x == 1 && unitRole s x == r) && (takeOf s k r).isNone
  let holder (r : Nat) : Nat := ((unitsOf k).find? (fun x => unitState s x ≠ 1 && unitRole s x == r)).getD u
  if unitRole s u < kindRoles k && open' (unitRole s u) then some (unitRole s u, u)
  else ((List.range (kindRoles k)).find? open').map (fun r => (r, holder r))

/-- A fenced stair's stores, banks and tables are brought back (R383, R277): the control stores and parse table from the golden
copy, ACTIVE and ARM as the other stairs have them, and the tables from their shadows. Only flow-state writes part a table from its
copy: those of a role that another stair has taken went with it (`tablesReload`), and those of a role that it still holds are that role's
state (R339). The mirror keeps what its reset takes out of the L2 store. -/
def stairReload (s : State) (p : Nat) : State :=
  let l2 := (mirrorOf s p).filter (fun e => e.flags % 2 = 0)
  let st := stateTables s p
  let s := stairUpd s p (fun x => { x with
    uc := s.golden.uc, parse := s.golden.parse, twinI := [], twinE := [], lines := [], learns := [], loading := [], loaded := none, mirror := l2,
    tbls := x.tbls.map (fun e => (e.1, if e.1 ≥ 62 || st.contains e.1 then e.2 else agetD x.shadow e.1 [])) })
  let s := match (loadStairs s).head? with
    | some q => wrN ([0, 1].foldl (fun s fl => wrN s (Reg.STA_UC_BANK p fl) (rdN s (Reg.STA_UC_BANK q fl))) s) (Reg.STA_PARSE_BANK p) (rdN s (Reg.STA_PARSE_BANK q))
    | none => s
  let s := setEntries s p 63 ((entriesOf s p 63).filter (fun e => e.2.flags % 2 = 1))
  let s := setEntries s p 62 []
  [0, 1].foldl (fun s fl => wrF s (Reg.STA_RET_STATUS p fl) 0 7 (0xF * 4)) s

/-- The re-admission of a unit ends: EV_MS_READMIT with 1 for a unit that passed, 0 for one that failed. -/
def readmitEvent (s : State) (u : Nat) (ok : Bool) : State := raise s 0x984 [(4, u), (4, b2n ok)]

/-- SELF_TEST_DONE (R597, R383, R384): outcome 0 the unit passed, 1 a golden-copy word of a stair could not be read, 2 it failed.
A stair does not pass whose golden words or table shadows are gone (R602). A self-test that has begun ends here whether
Ozelm's cores run or not: R27 makes re-admissions wait and says nothing of one under way (DESIGN CHOICE, log entry 33). -/
def execSelfTestDone (u outcome : Nat) (s : State) : Host.Outcome State Fault Refusal :=
  .next (if unitValid u && unitState s u = 4 && (outcome ≠ 1 || u < 9) then
    let w := agetD s.unit.mcheck u []
    let s := unitUpd s (fun x => { x with tests := adel x.tests u })
    let outcome := if u < 9 && outcome = 0 then (if guardedGone s 3 0 0 then 1 else if guardedGone s 2 u 0 then 2 else 0) else outcome
    match outcome with
    | 0 =>
      let r := unserved s u
      let s := unitUpd s (fun x => { x with mcheck := adel x.mcheck u })
      let s := match unitKind u with
        | 0 => stairReload s u
        | 1 => wrN s (tilR Reg.TIL_STATUS (u - 16)) (4 + 8 * 0x3F)
        | _ => wrF s Reg.CY_LA_STATUS (9 + (u - 64)) 1 0
      let s := unitEnter s u 2 0x3F
      let s := (unitsOf (unitKind u)).foldl (fun s x => if unitKind u = 0 && unitState s x = 1 then [0, 1].foldl (fun s fl => wrF s (Reg.STA_RET_STATUS x fl) 6 1 0) s else s) s
      let s := readmitEvent s u true
      (match r with
       | some (role, f) => unitUpd s (fun x => { x with takeovers := aset x.takeovers (takeKey (unitKind u) role) (f, u, s.time.elapsed) })
       | none => s)
    | 1 =>
      let s := unitUpd (setUnitState s u 3) (fun x => { x with goldenBad := true })
      readmitEvent (mcheckEvent s u w 1) u false
    | _ =>
      let s := setUnitCause (setUnitState s u 5) u 4
      readmitEvent (if u < 9 && !w.isEmpty then mcheckEvent s u w 2 else s) u false
  else s)

/-- HANDOVER_END (R603): DONE is set by the old supervisor, or MS_HANDOVER_LIMIT has passed: the old tiller is fenced with
cause 5. -/
def execHandoverEnd (s : State) : Host.Outcome State Fault Refusal :=
  .next (match s.unit.handover with
    | none => s
    | some (old, new, role, start) =>
      let lim := rdF s Reg.MS_HANDOVER_LIMIT 0 16
      let done := rdF s (tilR Reg.TIL_HANDOVER (old - 16)) 1 1 == 1
      if done || (lim ≠ 0 && start + lim * msUnits ≤ s.time.elapsed) then
        let s := declare' (unitUpd s (fun x => { x with handover := none })) old 5
        let s := freeOwn (dropSent s (old - 16)) (old - 16)
        let s := tilUpd s (old - 16) (fun x => { x with dma := [], dmaCur := none, threads := [], still := [], faults := [] })
        let s := wrN (wrF s (tilR Reg.TIL_HANDOVER (new - 16)) 0 3 0) (tilR Reg.TIL_HANDOVER (old - 16)) 0
        raise s 0x985 [(4, role), (4, 2), (4, old), (4, new)]
      else s)

/-- ROLLING_UPDATE_STEP (R604): with two spares, one of them ready with the new image, the next role is handed over. -/
def execRollingUpdateStep (s : State) : Host.Outcome State Fault Refusal :=
  .next (match s.unit.rolling with
    | [] => s
    | role :: rest =>
      let spares := (unitsOf 1).filter (fun u => unitState s u == 2 && !spareBusy s u)
      match tillerOf s role, spares.find? (fun u => handoverReady s u && (tilGet s (u - 16)).image == activeSlot s) with
      | some o, some n =>
        if 2 ≤ spares.length && s.unit.handover.isNone && ozRunning s then
          handover (unitUpd s (fun x => { x with rolling := rest })) (16 + o) n role
        else s
      | _, _ => s)

/-! GDDR7 controllers (R600 to R602). -/

/-- Packets whose bodies lie on a lost controller are dropped (R405); answers how many there were. -/
def overflowLost (s : State) (c : Nat) : State × Nat :=
  s.land.queues.foldl (fun (acc : State × Nat) e =>
    let ids := (e.2.pkts.filter (fun x => x.pool == 2 && x.ctrl == c)).map (fun x => x.pkt.id)
    let s := ids.foldl (fun s i => queueDrop s e.1 i) acc.1
    (if ids.isEmpty then s else nodeTally s e.1 (fun n => { n with ovfLost := n.ovfLost + ids.length }), acc.2 + ids.length)) (s, 0)

/-- Controller c is declared lost: cause 1 a failed retrain, 2 uncorrectable errors, 3 the owner. -/
def gmLost (s : State) (c cause : Nat) : State :=
  if gmState s c = 1 || gmState s c = 3 then s else
  let s := wrN s (gmReg Reg.GM_STATUS c) 1
  let r := overflowLost s c
  let s := raise (bump r.1 Reg.LD_OVF_LOST_CNT r.2) 0x745 [(4, c), (4, r.2)]
  let s := raise s 0x990 [(4, c), (4, cause)]
  if gmState s (gmPair c) = 1 then raise s 0x992 [(4, c % 8)] else s

/-- GM_CMD.RETRAIN: a lost controller enters RESYNC, or stays LOST. -/
def gmRetrain (s : State) (c : Nat) (ok : Bool) : State :=
  if gmState s c = 1 && ok then wrN s (gmReg Reg.GM_STATUS c) 2 else s

/-- A write of GM_CMD that passed the gate. -/
def gmCmdWrite (s : State) (c : Nat) (v : W32) (ok : Bool) : State :=
  let s := if rbit v 0 then gmRetrain s c ok else s
  if rbit v 1 then gmLost s c 3 else s

/-- GM_LOSE (R600). -/
def execGmLose (req : Requester) (be c : Nat) (v : W32) (s : State) : Host.Outcome State Fault Refusal :=
  .next (if c < 16 && rbit v 1 && !rbit v 0 then gate s req be (gmReg Reg.GM_CMD c) true (fun s => gmCmdWrite s c v false) else s)

/-- GM_RETRAIN (R601): `ok` says whether the retrain succeeds. -/
def execGmRetrain (req : Requester) (be c : Nat) (v : W32) (ok : Bool) (s : State) : Host.Outcome State Fault Refusal :=
  .next (if c < 16 && rbit v 0 then gate s req be (gmReg Reg.GM_CMD c) true (fun s => gmCmdWrite s c v ok) else s)

/-- Uncorrectable errors of a controller within the last second. -/
def uesRecent (s : State) (c : Nat) : Nat := ((agetD s.unit.ues c []).filter (fun t => s.time.elapsed < t + 1000 * msUnits)).length

/-- CONTROLLER_LOST (R600): cause 1, a link retrain has failed; cause 2, more than 16 uncorrectable errors within a second. -/
def execControllerLost (c cause : Nat) (s : State) : Host.Outcome State Fault Refusal :=
  .next (if c < 16 && (cause = 1 || (cause = 2 && uesRecent s c > 16)) then gmLost s c cause else s)

/-- RESYNC_COMPLETE (R601). -/
def execResyncComplete (c : Nat) (s : State) : Host.Outcome State Fault Refusal :=
  .next (if c < 16 && gmState s c = 2 && gmState s (gmPair c) = 0 then raise (wrN s (gmReg Reg.GM_STATUS c) 0) 0x991 [(4, c)] else s)

/-- GUARDED_READ_FIX (R600, R24): a guarded read meets an uncorrectable error on controller c; its pair member serves it and the
data is rewritten, where the member holds it. -/
def execGuardedReadFix (c : Nat) (s : State) : Host.Outcome State Fault Refusal :=
  .next (if c < 16 && gmState s c = 0 then
    let s := raiseLim (bump s (gmReg Reg.GM_UE_CNT c)) 0x993 0 [(4, c)]
    let s := unitUpd s (fun x => { x with ues := aset x.ues c (s.time.elapsed :: (agetD x.ues c []).take 31) })
    if gmState s (gmPair c) = 0 then bump s (gmReg Reg.GM_GUARD_FIX_CNT c) else s
  else s)

end Sys2Proof.Machine
end

