-- ==== Sys2Proof/Machine/Start.lean ====
section
/-! DEFINITION. Machine/Start.lean: power, the cold and guarded warm resets, thermal levels, and start-up (chapters 20
and 21). -/

namespace Sys2Proof.Machine

/-! Output pins (R672). -/

/-- The pins that every reset of the whole device puts in their states; a warm reset removes slot power later (R670). -/
def resetPins (s : State) (cold : Bool) : State :=
  let s := drive (drive s .ppsOut 0 false) .tclkOut 0 false
  let s := (List.range 8).foldl (fun s n => drive s .recclk n false) s
  let s := (List.range 8).foldl (fun s p =>
    let s := drive (drive (drive s .rpPerstN p false) .rpAtnled p false) .rpPwrled p false
    if cold then drive s .rpPwren p false else s) s
  if cold then drive (drive (drive (drive s .uartTx 0 true) .spiCsN 0 true) .thermtripN 0 true) .smbAlertN 0 true else s

/-- The SerDes transmitters of ports go to electrical idle (R672). -/
def resetLines (s : State) (ports : AMap PortSt) : State :=
  ports.foldl (fun s e => if e.2.sends = .electricalIdle then s else emit s (.line e.1 .electricalIdle)) s

/-! Cold reset (R646, R667 to R669). -/

/-- The state right after a cold reset: the flash, the fuses and the counts that the flash keeps stay. -/
def coldReset (s : State) (cause : Nat) : State :=
  let o := s.oz
  let t : State := { State.reset with pending := s.pending, out := s.out, draws := s.draws, time := { tclk := s.time.tclk }, mem := s.mem.filter (fun e => flashBase ≤ e.1 && e.1 < poolBase) }
  let t := ozUpd t (fun z => { z with lc := o.lc, svn := o.svn, ownerKey := o.ownerKey, ownerRevoked := o.ownerRevoked, bifs := o.bifs, clks := o.clks })
  let t := wrN (wrF t Reg.OZ_STATUS 1 2 o.lc) Reg.OZ_SVN o.svn
  let t := wrN (wrN t Reg.OZ_BOOT_CNT (rdN s Reg.OZ_BOOT_CNT)) Reg.OZ_LOG_NEXT (rdN s Reg.OZ_LOG_NEXT - o.todo)
  resetPins (resetLines (wrN t Reg.OZ_RESET_CAUSE cause) s.net.ports) true

/-- What start-up sets before any stage: the modes of the faces, the levels of PERST_N, the owner and slice 0. -/
def startCommon (s : State) (perst : List Nat) : State :=
  let s := (List.range 4).foldl (fun s f => wrF s (Reg.HF_FACE_STATUS f) 0 2 (argOf s.oz.bifs f)) s
  let s := (List.range 16).foldl (fun s l => if linkPresent s l then wrF s (hfLink l) 10 1 (b2n (perst.contains l)) else s) s
  let own := if bcrOwner s = 0xFF then none else some (bcrOwner s % 16)
  { s with host := { s.host with owner := own, clkMode := (List.range 4).map (fun f => (f, argOf s.oz.clks f % 2)) },
           slices := aset s.slices 0 (ownerSlice own) }

/-- Start-up begins from a cold reset: the board configuration record is found, or its fallback is logged (R651). -/
def coldStart (s : State) (perst : List Nat) : State :=
  let b := bcrFind s
  let s := ozUpd s (fun o => { o with good := true, cold := true, down := none, bcr := b })
  let s := startCommon s perst
  if b.isNone then raise s 0x04C [(4, 0), (4, 3)] else s

/-- POWER_GOOD (R677, R93, R674): the straps of the faces, the links whose PERST_N is asserted, and what the integrator has put
into the flash, as pieces of bytes at offsets. -/
def execPowerGood (bifs clks perst : List Nat) (flash : List (Nat × List Byte)) (s : State) : Host.Outcome State Fault Refusal :=
  .next (if s.oz.good then s else
    let s := flash.foldl (fun s e => if e.1 + e.2.length ≤ 0x4000000 then flashPut s e.1 e.2 else s) s
    coldStart (ozUpd s (fun o => { o with bifs := bifs, clks := clks })) perst)

/-- POWER_GOOD_DEASSERT (R667). -/
def execPowerGoodDeassert (s : State) : Host.Outcome State Fault Refusal := .next (if s.oz.good then coldReset s 0 else s)

/-- SUPPLY_RESET (R643, R646): a rail's reading has stayed below its reset threshold for 200 ns; rail 6, VDD_AON, gives a power-on
reset. -/
def execSupplyReset (read : RailRead) (s : State) : Host.Outcome State Fault Refusal :=
  let rail := read.rail
  let mvs := read.mvs
  .next (if rail < 7 && mvs.length = railCount rail && railLow mvs < railReset rail && s.oz.good then
    ozUpd (coldReset s (if rail = 6 then 0 else 1 + 16 * rail)) (fun o => { o with good := true, down := some 0 })
  else s)

/-- Every rail reads above its clear threshold, where `mvs` are the readings of the 32 monitors (R643, R668). -/
def railsClear (mvs : List Nat) : Bool :=
  mvs.length = 32 && (List.range 7).all (fun r => railClear r < railLow ((mvs.drop (railFirst r)).take (railCount r)))

/-- SUPPLY_RESET_END (R668): every rail has stayed above its clear threshold for 10 ms. The straps and PERST_N are sampled
again, as at an assertion of PWR_GOOD (R93, R674). -/
def execSupplyResetEnd (pins : PowerPins) (s : State) : Host.Outcome State Fault Refusal :=
  .next (match s.oz.down with
    | some t => if railsClear pins.mvs && t + 10 * msUnits ≤ s.time.elapsed then coldStart (ozUpd s (fun o => { o with bifs := pins.bifs, clks := pins.clks })) pins.perst else s
    | none => s)

/-! Guarded warm reset (R91, R669, R670). -/

/-- A root port after a guarded warm reset: presence is what its pins show; slot power falls 100 us later. -/
def rpWarm (now : Nat) (r : RootPort) : RootPort :=
  { present := r.present, power := r.power, perst := true, dropping := if r.power then some now else none }

/-- A guarded warm reset; cause 2 GL_RESET_CTL, 3 a thermal trip. Ozelm, its registers, the event router, the fuses and the flash
stay. A start-up that has stopped stays stopped (R679). -/
def warmReset (s : State) (cause : Nat) : State :=
  let perst := (List.range 16).filter (linkPerst s)
  let stage := rdF s Reg.GL_BOOT_STAGE 0 4
  let up := (List.range 16).filter (fun l => linkUp s l)
  let t : State :=
    { pending := s.pending, out := s.out, draws := s.draws, oz := s.oz, ev := s.ev,
      regs := s.regs.filter (fun e => e.1 / 0x100000 == 2), snap := s.snap.filter (fun e => e.1 / 0x100000 == 2),
      mem := s.mem.filter (fun e => flashBase ≤ e.1 && e.1 < poolBase),
      time := { elapsed := s.time.elapsed, clocks := s.time.clocks, tclk := s.time.tclk } }
  let rps := amap s.host.rps (fun _ r => rpWarm s.time.elapsed r)
  let t := { t with host := { t.host with rps := rps } }
  let t := ozUpd t (fun o => { o with cold := false, mgmt := 0 })
  let t := startCommon t perst
  let t := up.foldl (fun t l => emit t (.linkMsg l "down" [])) t
  let t := wrN (wrF t Reg.OZ_RESET_CAUSE 0 4 cause) Reg.GL_BOOT_STAGE (if stage = 0xF then 0xF else 1)
  resetPins (resetLines t s.net.ports) false

/-- WARM_RESET (R91). -/
def execWarmReset (req : Requester) (be : Nat) (v : W32) (s : State) : Host.Outcome State Fault Refusal :=
  .next (if rbit v 0 then gate s req be Reg.GL_RESET_CTL true (fun s => warmReset s 2) else s)

/-! Thermal levels (R648). -/

/-- The level that a reading of the hottest sensor, in 1/16 of a degree, gives from a level. -/
def thermLevel (cur : Nat) (r : Int) : Nat :=
  let holds (l : Nat) (enter leave : Int) : Bool := enter ≤ r || (l ≤ cur && leave ≤ r)
  if holds 3 1760 1520 then 3 else if holds 2 1648 1600 then 2 else if holds 1 1600 1552 then 1 else 0

/-- THERMAL_LEVEL (R648, R670): the hottest sensor and its reading, signed, in 1/16 of a degree. -/
def execThermalLevel (sensor : Nat) (reading : Int) (s : State) : Host.Outcome State Fault Refusal :=
  .next (if sensor ≥ 64 || !s.oz.good then s else
    let raw := unsign 16 reading
    let s := wrN s Reg.OZ_TEMP_MAX (raw + 65536 * sensor)
    let s := if rdN s Reg.OZ_TEMP_HWM = 0 || reading > signed 16 (rdF s Reg.OZ_TEMP_HWM 0 16) then wrN s Reg.OZ_TEMP_HWM raw else s
    let cur := rdF s Reg.OZ_STATUS 5 2
    let l := thermLevel cur reading
    if l = cur then s else
    let s := raise (wrF s Reg.OZ_STATUS 5 2 l) 0x043 [(4, l), (4, sensor), (4, unsign 32 reading)]
    if l = 3 then
      let s := raise (drive s .thermtripN 0 false) 0x044 [(4, sensor), (4, unsign 32 reading)]
      ozUpd (warmReset s 3) (fun o => { o with tripped := true })
    else if cur = 3 then drive (ozUpd s (fun o => { o with tripped := false })) .thermtripN 0 true
    else s)

/-! Start-up (R89, R677, R679). -/

def setStage (s : State) (n : Nat) : State := wrF s Reg.GL_BOOT_STAGE 0 4 n

/-- Start-up stops; Ozelm serves the log and firmware update. -/
def bootStop (s : State) : State := setStage (wrF s Reg.OZ_STATUS 0 1 1) 0xF

/-- PLL_LOCK_TIMEOUT (R675): Ozelm logs EV_OZ_CLOCK of monitor 0; what the monitor reads is free. -/
def execPllLockTimeout (s : State) : Host.Outcome State Fault Refusal :=
  .next (if s.oz.good && s.oz.down.isNone && !ozRunning s && s.oz.restart.isNone && rdF s Reg.GL_BOOT_STAGE 0 4 = 0 && 5 * msUnits ≤ s.time.elapsed then
    let r := draw s
    raise (bootStop r.2) 0x04B [(4, 0), (4, r.1 % 2 ^ 32)]
  else s)

/-- Stage 0 to 1: the ROM verifies a slot and starts Ozelm; a part in VOID stays in the ROM (R653, R658). -/
def bootRom (s : State) : State :=
  if s.oz.lc = 3 then s else
  let s := if s.oz.cold then raise s 0x049 [(4, rdN s Reg.OZ_RESET_CAUSE)] else s
  match slotBoots s (activeSlot s) with
  | some (k, s) => setStage (wrF (showScope (ozelmRuns s k)) Reg.KS_STATUS 0 1 1) 1
  | none => bootStop s

/-- The trained densities let start-up go on (R23, R679): every device has one of the three densities, and no pair fails whole. -/
def densOk (d : List Nat) : Bool :=
  let good := (d.filter (· ≠ 3))
  d.length == 16 && good.all (fun x => x < 3 && x == good.headD 3) && (List.range 8).all (fun c => argOf d c ≠ 3 || argOf d (c + 8) ≠ 3)

/-- Stage 2 to 3: GDDR7 training ends. -/
def bootTrain (s : State) (d : List Nat) : State :=
  if !densOk d then bootStop s else
  let s := ((List.range 16).filter (fun c => argOf d c = 3)).foldl (fun s c => gmLost s c 1) s
  let s := wrN s Reg.GL_CAP (((d.filter (· ≠ 3)).headD 0) + 4)
  setStage { s with slices := aupd s.slices 0 (fun x => { x with limits := aset x.limits 7 (poolMib s) }) } 3

/-- The sections of a microcode image: type, flight, step, first address, count, and the payload's offset; none where the image
does not fit (R377 to R379). `n` bounds the sections. -/
def ucSections (img : List Byte) : Nat → Nat → Option (List (Nat × Nat × Nat × Nat × Nat × Nat))
  | 0, _ => some []
  | n + 1, off =>
    let w := leAt img off 4
    let ty := fld w 0 8
    let first := leAt img (off + 4) 2
    let count := leAt img (off + 6) 2
    let len := leAt img (off + 8) 4
    let size := if ty = 2 then 48 else 4
    let room := match ty with | 1 => 2048 | 2 => 512 | _ => 1
    if ty = 0 || ty > 3 || len ≠ count * size || first + count > room || off + 16 + len > img.length || fld w 9 5 ≥ flightLen (fld w 8 1) then none
    else (ucSections img n (off + 16 + len)).map (fun l => (ty, fld w 8 1, fld w 9 5, first, count, off + 16) :: l)

/-- The image's header fits the device. -/
def ucHeaderOk (s : State) (img : List Byte) : Bool :=
  leAt img 0 4 == 0x43555A47 && leAt img 4 2 == 1 && leAt img 6 2 == 0x6400 && leAt img 8 4 == img.length &&
  fld (leAt img 0x20 4) 0 4 ≤ rdF s Reg.GL_ID 20 4 &&
  leAt img 0x3C 4 == crc32c (img.take 0x3C ++ [0, 0, 0, 0] ++ img.drop 0x40)

/-- The control stores that an image describes, in both banks. -/
def ucStores (img : List Byte) (secs : List (Nat × Nat × Nat × Nat × Nat × Nat)) : AMap Nat :=
  secs.foldl (fun m e => match e with
    | (ty, fl, k, first, count, off) =>
      let size := if ty = 2 then 48 else 4
      let base := match ty with | 1 => 0 | 2 => 2048 | _ => 2560
      (List.range count).foldl (fun m j =>
        let v := leAt img (off + j * size) size
        [0, 1].foldl (fun m b => aset m (ucKey fl k b (base + first + j)) v) m) m) []

/-- Ozelm loads the microcode of the firmware image into both banks of every stair and the golden copy (R376); none where the
image cannot be loaded. -/
def loadMicrocode (s : State) : Option State :=
  match (imgSections s (activeImage s)).find? (fun d => d.1 == 4) with
  | some (_, off, len, _) =>
    let img := flashGet s (activeImage s + off) len
    if !ucHeaderOk s img then none else
    (ucSections img (leAt img 0xC 4) 64).map (fun secs =>
      let m := ucStores img secs
      let s := (List.range 9).foldl (fun s p => stairUpd s p (fun x => { x with uc := m })) s
      { s with golden := { s.golden with uc := m } })
  | none => none

/-- The tiller sections of the image enter the firmware region. -/
def loadFirmware (s : State) : State :=
  (imgSections s (activeImage s)).foldl (fun s d => match d with
    | (ty, off, len, load) => if ty = 2 && load + len ≤ fwBytes s then store s (fwBase + load) (flashGet s (activeImage s + off) len) else s) s

/-- Units of a kind that fail their self-test are DEAD; a spare serves the lowest role that they leave (R679, R596). -/
def startUnits (s : State) (k : Nat) (failed : List Nat) : State :=
  let bad := (unitsOf k).filter (fun u => failed.contains u)
  let s := bad.foldl (fun s u => setUnitCause (setUnitRole (setUnitState s u 5) u 0x3F) u 4) s
  ((bad.map (· - kindBase k)).filter (· < kindRoles k)).foldl (fun s r =>
    match (unitsOf k).find? (fun x => unitState s x == 2) with
    | some p => setUnitRole (setUnitState s p 1) p r
    | none => raise s 0x983 [(4, k), (4, r)]) s

/-- Stage 3 to 4: the image's sections are checked and loaded; tillers that pass their self-test are released. -/
def bootTillers (s : State) (failed : List Nat) : State :=
  if imageCheck s (activeSlot s) ≠ STS_OK then bootStop s else
  match loadMicrocode (loadFirmware s) with
  | none => bootStop s
  | some s =>
    let s := startUnits s 1 failed
    let live := (List.range 34).filter (fun t => unitState s (16 + t) == 1 || unitState s (16 + t) == 2)
    if live.isEmpty then bootStop s else
    setStage (live.foldl (fun s t =>
      let r := if unitState s (16 + t) = 1 then unitRole s (16 + t) else 0x3F
      releaseTiller s t r r) s) 4

/-- The test vectors of the image, run on a stair in discard mode: every outcome matches (R599). -/
def vectorsPass (s : State) (p : Nat) : Bool :=
  match (imgSections s (activeImage s)).find? (fun d => d.1 == 5) with
  | some (_, off, len, _) =>
    (List.range (len / 704)).all (fun i =>
      let v := flashGet s (activeImage s + off + 704 * i) 704
      match probeVec s p v with
      | (_, md, c) => !c.gone && probeMatch v md (intentSig (c.shed ++ c.intents)))
  | none => true

/-- What the registers of stairs and engines show of their units. -/
def showUnits (s : State) : State :=
  let s := (List.range 9).foldl (fun s p =>
    let v := match unitState s p with
      | 1 => 2 + 4 * unitRole s p
      | 2 => 0xF * 4
      | _ => 1 + 0xF * 4
    [0, 1].foldl (fun s fl => wrF s (Reg.STA_RET_STATUS p fl) 0 7 v) s) s
  (List.range 9).foldl (fun s e => wrF s Reg.CY_LA_STATUS e 1 (b2n (unitState s (64 + e) == 1))) s

/-- READY sets (R89, R121, R654): Device Readiness Status goes to every link that is up, and after a cold boot the boot is counted
and a pending image committed. -/
def bootReady (s : State) : State :=
  let s := setStage (wrF s Reg.GL_DEVICE_READY 0 1 1) 5
  let s := raise s 0x013 [(4, 5)]
  let s := ((List.range 16).filter (fun l => linkUp s l)).foldl (fun s l => emit s (.linkMsg l "DRS" [])) s
  if s.oz.cold then
    let s := bump s Reg.OZ_BOOT_CNT
    if bootPending s then (fwCommit s).1 else s
  else s

/-- Stage 4 to 5: stair and engine self-tests, and the calibration of fabric time. -/
def bootStairs (s : State) (r : BootRes) : State :=
  let badStairs := (List.range 9).filter (fun p => r.failed.contains p || !vectorsPass s p)
  let s := startUnits s 0 badStairs
  if (List.range 9).all (fun p => unitState s p ≠ 1 && unitState s p ≠ 2) then bootStop s else
  let s := showUnits (startUnits s 2 r.failed)
  let s := ((unitsOf 0) ++ (unitsOf 1) ++ (unitsOf 2)).foldl (fun s u => if unitState s u = 1 || unitState s u = 2 then beat s u else s) s
  let s := match r.calFail with
    | none => wrF s Reg.FT_STATUS 2 1 1
    | some u => raise s 0x108 [(4, u)]
  bootReady s

/-- STARTUP_STAGE (R677, R679): the stage under way ends, as the parts answer. A start-up that a thermal trip holds, or a supply
reset, does not move. -/
def execStartupStage (r : BootRes) (s : State) : Host.Outcome State Fault Refusal :=
  .next (if !s.oz.good || s.oz.down.isSome || s.oz.tripped || s.oz.restart.isSome then s else
    let stage := rdF s Reg.GL_BOOT_STAGE 0 4
    if stage ≥ 5 then s
    else if !ozRunning s then bootRom s
    else match stage with
      | 1 => setStage s 2
      | 2 => bootTrain s r.dens
      | 3 => bootTillers s r.failed
      | 4 => bootStairs s r
      | _ => s)

end Sys2Proof.Machine
end

