-- ==== Sys2Proof/Machine/Tm.lean ====
section
/-! DEFINITION. Machine/Tm.lean: the commands of events and telemetry (chapter 18). -/

namespace Sys2Proof.Machine

/-- EPOCH_BOUNDARY (R619): fabric time has reached a boundary for which a telemetry action is armed. -/
def execEpochBoundary (s : State) : Host.Outcome State Fault Refusal := .next (epochFire s false).1

/-- LD_EPOCH_CTL_WRITE (R619). -/
def execLdEpochCtlWrite (req : Requester) (be : Nat) (v : W32) (s : State) : Host.Outcome State Fault Refusal :=
  .next (gate s req be Reg.LD_EPOCH_CTL false (fun s => epochCtlWrite s v))

/-- A record that is not delivered (R614). -/
def undelivered (s : State) : State := bump s Reg.OZ_EV_UNDELIV_CNT

/-- A record that goes to the log (R649). -/
def logged (e : EvRec) : Bool := e.route.testBit 5 || (0x040 ≤ e.source && e.source ≤ 0x04C)

/-- Delivers a record by the route it was given (R614, R195). -/
def deliver (s : State) (e : EvRec) : State :=
  let s := if logged e then logPut s e else s
  if !e.route.testBit 0 then s else
  let entry (phase : Nat) : List Byte := le 4 (e.source + e.seq * 2 ^ 12) ++ le 4 (e.code + phase * 2 ^ 31) ++ le 8 e.time ++ e.data
  match chanOf s e.dest with
  | some (i, c) =>
    if c.kind ≠ 7 || c.slice ≠ 0 || isTmRing s e.dest then undelivered s
    else
      let s := ringFlush (c.notes.length + 2) s i
      if (chanGet s i).any (fun c => c.state == 1 && decide (ringRoom c > 0) && sliceLive s c.slice) then ringPut s i entry
      else chanUpd s i (fun c => { c with dropped := c.dropped + 1 })
  | none =>
    match inPort s e.dest with
    | some (_, _, p) =>
      if !p.event then undelivered s else
      (postMsg s e.dest ((List.range 4).map (fun i => leAt (entry 0) (8 * i) 8)) 4 0 false).getD (undelivered s)
    | none => undelivered s

/-- The record that leaves the router next: the oldest; while Ozelm restarts, records for the log wait (R656). -/
def nextRec (s : State) : Option EvRec := s.ev.queue.find? (fun e => !(s.oz.restart.isSome && logged e))

/-- EVENT_DELIVER (R614, R615): a record leaves the router; room having returned, EV_EV_LOST reports records lost before
routing. -/
def execEventDeliver (s : State) : Host.Outcome State Fault Refusal :=
  .next (match nextRec s with
    | some e =>
      let s := deliver { s with ev := { s.ev with queue := s.ev.queue.erase e } } e
      if s.ev.lost = 0 then s else raiseLim { s with ev := { s.ev with lost := 0 } } 0x031 0 [] s.ev.lost
    | none => s)

/-- RATE_LIMIT_WINDOW (R688): the millisecond of a limited source (and link or pair) ends: what was counted is raised as one
record, or the window closes. -/
def execRateLimitWindow (src key : Nat) (s : State) : Host.Outcome State Fault Refusal :=
  .next (match aget s.ev.wins (winKey src key) with
    | some w =>
      if !winOver s w then s
      else if w.count > 0 then raiseWin s src key w.count w.time w.last
      else { s with ev := { s.ev with wins := adel s.ev.wins (winKey src key) } }
    | none => s)

/-- The lowest cause that refuses a binding of ring r (R621). -/
def tmRefused (s : State) (r use' : Nat) : Option Nat :=
  let h := tmHandle s r
  match chanOf s h with
  | some (_, c) =>
    if c.kind ≠ 7 || c.slice ≠ 0 then some 1
    else if c.size < 32 || c.pidx % 2 = 1 then some 2
    else if s.ch.chans.any (fun e => e.2.kind == 6 && e.2.bind == h) || (List.range 16).any (fun d => rdN s (Reg.OZ_EV_DEST d) == h) ||
        (List.range 16).any (fun q => q ≠ r && tmBound s q && tmHandle s q == h) then some 3
    else if use' = 0 then some 4 else none
  | none => some 1

/-- A write of LD_TM_CFG_CTL[r] that passed the gate: EN set binds the ring or is refused; EN clear unbinds it, unless a
running rehearsal names it (cause 5). -/
def tmCtlWrite (s : State) (r : Nat) (v : W32) : State :=
  let off := Reg.LD_TM_CFG_CTL r
  let refuse (s : State) (c : Nat) : State := wrF (wrF (wrF s Reg.LD_TM_STATUS 0 1 1) Reg.LD_TM_STATUS 1 3 c) Reg.LD_TM_STATUS 4 4 r
  if rbit v 0 then
    match tmRefused s r (rfld v 1 2) with
    | some c => refuse (plainWrite s off 7 (v &&& 6)) c
    | none => plainWrite s off 7 v
  else if tmBound s r && rdF s Reg.LD_RH_STATUS 0 1 = 1 && rdN s Reg.LD_RH_RING = tmHandle s r then refuse s 5
  else plainWrite s off 7 v

/-- TM_RING_BIND (R621). -/
def execTmRingBind (req : Requester) (be r : Nat) (v : W32) (s : State) : Host.Outcome State Fault Refusal :=
  .next (if r < 16 then gate s req be (Reg.LD_TM_CFG_CTL r) false (fun s => tmCtlWrite s r v) else s)

/-- A write of STA_TBL_HITARR[t] that passed the gate (R618). -/
def hitarrWrite (s : State) (p t : Nat) (v : W32) : State :=
  let k := tblKind s p t
  if k = 0 || k = 4 || k = 7 || arrKind s p (tcf s p t 0 3 1) (rfld v 1 4) ≠ 1 then
    wrN s (Reg.STA_TBL_CFG_STATUS p) (1 + 2 * 7 + 256 * t)
  else plainWrite s (Reg.STA_TBL_HITARR p t) 0x1F v

/-- HITARR_WRITE (R618). -/
def execHitarrWrite (req : Requester) (be p t : Nat) (v : W32) (s : State) : Host.Outcome State Fault Refusal :=
  .next (if p < 9 && t < 62 then gate s req be (Reg.STA_TBL_HITARR p t) false (fun s => hitarrWrite s p t v) else s)

end Sys2Proof.Machine
end

