-- ==== Sys2Proof/Machine/RegWrite.lean ====
section
/-! DEFINITION. Machine/RegWrite.lean: how an access names a register (R59 to R71, R85), and what a write does to each register
(chapter 3 and the register tables of every chapter). -/

namespace Sys2Proof.Machine

/-! Addresses. -/

/-- What an access reaches: a register by its offset in the register map, through an alias (0 none, 1 set, 2 clear, 3 toggle),
or the snapshot copy of the register. -/
structure Acc where
  reg   : Nat
  ali : Nat := 0
  snap  : Bool := false
deriving DecidableEq, Repr

/-- The pages that are short-decode (R86): step pages and SerDes pages. -/
def shortPage (blk region : Nat) : Bool :=
  (17 ≤ blk && blk ≤ 34 && 1 ≤ region && region ≤ (if blk % 2 = 1 then 5 else 3)) || (9 ≤ blk && blk ≤ 16 && region == 5)

/-- An offset of the owner's BAR0/1 (R62, R67, R85); the window of the OZ_ block shows the selected slice (R213). -/
def ownerAcc (s : State) (off : Nat) : Option Acc :=
  if 0x4000000 ≤ off then none else
  let o := off / 4 * 4
  let blk := o / 0x100000
  let region := o / 0x10000 % 16
  let x := o % 0x4000
  let x := if shortPage blk (region % 8) then x / 0x1000 * 0x1000 + x % 0x400 else x
  let reg := blk * 0x100000 + region % 8 * 0x10000 + x
  let a : Acc := { reg := reg, ali := o / 0x4000 % 4, snap := decide (8 ≤ region) }
  if 0x210100 ≤ reg && reg < 0x210180 then
    (if a.snap then none else some { a with reg := 0x10000000 + 0x80 * rdF s Reg.OZ_SLICE_SEL 0 14 + (reg - 0x210100) })
  else some a

/-- The slices of a function in slice order, by which their local numbers run. -/
def localSlice (s : State) (link fnum i : Nat) : Option Nat :=
  ((s.slices.filter (fun e => e.2.link == some link && e.2.fnum == fnum)).map (fun e => e.1))[i]?

/-- An offset of the 64 KiB BAR0/1 of a function that is not the owner: its slice control page (R59, R213). -/
def pageAcc (s : State) (link fnum off : Nat) : Option Acc :=
  if 0x10000 ≤ off || !(fnGet s link fnum).enabled then none else
  let x := off / 4 * 4 % 0x4000
  if x < 0x1000 || 0x3000 ≤ x then none else
  (localSlice s link fnum ((x - 0x1000) / 0x80)).map (fun n => { reg := 0x10000000 + 0x80 * n + x % 0x80, ali := off / 0x4000 })

/-- A cipher page: a function reaches those of its slices in BAR2/3, by local number (R102, R211), a thread with KEY_PAGE that of
slice 0 (R546). -/
def laneAcc (s : State) (req : Requester) (x : Nat) : Option Acc :=
  match req with
  | .fn l f =>
    if x < 0x40000 && fnDecodes s l f then (localSlice s l f (x / 0x1000)).map (fun n => { reg := 0x20000000 + 0x1000 * n + x % 0x1000 / 4 * 4 })
    else none
  | .thread t n =>
    if x < 0x1000 && (rdN s (Reg.TH_CAP (t / 8) (t % 8) n)).testBit 1 && (aget s.slices 0).isSome then some { reg := 0x20000000 + x / 4 * 4 } else none
  | .action => none

/-- What an offset means for a requester: below 0x2000_0000 one of BAR0/1; from there upward BAR2/3, of which the cipher pages are
registers without aliases. -/
def access (s : State) (req : Requester) (off : Nat) : Option Acc :=
  if 0x20000000 ≤ off then laneAcc s req (off - 0x20000000)
  else match req with
    | .fn l f => if s.host.owner = some l && f = 0 then ownerAcc s off else pageAcc s l f off
    | _ => ownerAcc s off

/-! Registers outside the register map's rows. -/

/-- A word of a shadow (0) or live (1) peer window: face, set, window, word. -/
def winReg (reg : Nat) : Option (Nat × Nat × Nat × Nat) :=
  let blk := reg / 0x100000
  let x := reg % 0x100000
  if 4 ≤ blk && blk < 8 && 0x50100 ≤ x && x < 0x50300 && x % 32 < 24 then some (blk - 4, (x - 0x50100) / 256, x % 256 / 32, x % 32 / 4) else none

/-- A word of a root port's configuration space. -/
def rpCfgReg (reg : Nat) : Option (Nat × Nat) :=
  if 0x800000 ≤ reg && reg < 0x880000 && reg % 0x10000 < 0x1000 then some (reg / 0x10000 - 0x80, reg % 0x10000) else none

/-- A register that exists. -/
def isReg (reg : Nat) : Bool := (regDef reg).isSome || (winReg reg).isSome || (rpCfgReg reg).isSome

/-- The fields of access code RW, on which aliases act (R68). -/
def rwFields (reg : Nat) : Nat :=
  match regDef reg with
  | some d => d.rw
  | none =>
    match winReg reg with
    | some (_, 0, _, w) => (match w with | 0 => 0xFFFF | 1 => 0xFFFF | 4 => 0x1FFFF | 5 => 0xFFFFF | _ => 0xFFFFFFFF)
    | some _ => 0
    | none => ((rpCfgReg reg).map (fun e => (rpMask e.2).1)).getD 0

/-- IND_DATA or IND_CMD of an indirect set. -/
def indReg (reg : Nat) : Bool := (reg % 0x10000 == 0x3F04 || reg % 0x10000 == 0x3F10) && (regDef reg).isSome

/-- A register of a LO/HI pair: 1 its LO, 2 its HI register. -/
def pairOf (reg : Nat) : Nat := ((regDef reg).map (fun d => d.pair)).getD 0

/-- The write needs the unlock window (R78): a guarded register, or a guarded operation of the mailbox (R657). -/
def guardedWrite (reg : Nat) (v : W32) : Bool :=
  ((regDef reg).map (fun d => d.guarded)).getD false || (reg == Reg.OZ_MB_CMD && rfld v 0 8 / 16 == 2)

/-! Global registers and fabric time. -/

/-- GL_UNLOCK (R78, R79). -/
def unlockWrite (s : State) (req : Requester) (v : W32) : State :=
  if rfld v 0 16 = 0x5AE7 then
    { s with acc := { s.acc with window := some { owner := req, block := rfld v 16 6, opened := s.time.clocks } } }
  else glError (closeWindow s) 2 Reg.GL_UNLOCK

/-- Whether a snapshot source is a register action (R84). -/
def snapSrc (req : Requester) : Nat := match req with | .action => 2 | _ => 0

def autoSnap (s : State) : Bool := rdF s Reg.LD_EPOCH_CTL 1 1 == 1 || decide (s.time.clocks < s.time.snapFree)

/-- The index that stands for GL_SNAP_AT among the items armed with a time already past. -/
abbrev snapItem : Nat := 1024

def lateMark (s : State) (i : Nat) (on : Bool) : State :=
  let l := s.time.lateActs.filter (· ≠ i)
  { s with time := { s.time with lateActs := if on then i :: l else l } }

/-- The armed snapshot of GL_SNAP_AT is taken (R83). -/
def snapAtFire (s : State) (late : Bool) : State :=
  let s := takeSnapshot (lateMark s snapItem false) 1 late
  let s := wrF (wrF s Reg.GL_SNAP_AT_CTL 0 1 0) Reg.GL_SNAP_AT_CTL 1 1 1
  if late then wrF s Reg.GL_SNAP_AT_CTL 2 1 1 else s

/-- GL_SNAP_AT is armed and its time has come; with AUTO_SNAP set the telemetry epoch takes the snapshot (R83, R619). -/
def snapAtDue (s : State) : Bool := rdF s Reg.GL_SNAP_AT_CTL 0 1 = 1 && !autoSnap s && decide (rd64 s Reg.GL_SNAP_AT_LO ≤ nowNs s)

/-- The snapshot that is due is taken, LATE where it was armed with a time already past. -/
def snapAtRun (s : State) : State :=
  let late := s.time.lateActs.contains snapItem
  let s := snapAtFire s late
  if late then lateFiring s else s

/-- A snapshot is asked for by GL_SNAP_CMD, from a source. Where the one of GL_SNAP_AT is due in the same core clock, that one
is taken and reported, and no other (R84). -/
def snapGo (s : State) (src : Nat) : State :=
  if snapAtDue s then snapAtRun s else if s.time.stepSnap then s else takeSnapshot s src false

/-- A write of GL_SNAP_AT_CTL: arming with a time already past marks the item (R47, R83). -/
def snapAtCtl (s : State) (v : W32) : State :=
  let was := rdF s Reg.GL_SNAP_AT_CTL 0 1 = 1
  let s := wrN s Reg.GL_SNAP_AT_CTL (mergeWord (rdN s Reg.GL_SNAP_AT_CTL) 1 6 v.toNat)
  if rbit v 0 && !was then
    let t := rd64 s Reg.GL_SNAP_AT_LO
    lateMark s snapItem (t = 0 || t < nowNs s)
  else s

/-- A write of the control word of a register action: arming with a time already past marks it (R47, R53). -/
def ractTime (s : State) (i : Nat) : Nat := rdN s (0x110000 + 16 * i) + rdN s (0x110004 + 16 * i) * 0x100000000

def ractArmed (s : State) (i : Nat) : Bool := rbit (rd s (0x110008 + 16 * i)) 28

def ractCtl (s : State) (i : Nat) (v : W32) : State :=
  let was := ractArmed s i
  let off := 0x110008 + 16 * i
  let s := wrN s off (mergeWord (rdN s off) 0x13FFFFFF 0xE0000000 v.toNat)
  if rbit v 28 && !was then
    let t := ractTime s i
    lateMark s i (t < nowNs s || t = 0)
  else s

/-- A submission of a PTP sample (R37): the held LO half, or zero, with the HI half; it counts while source 1 is selected. -/
def phaseSubmit (s : State) (req : Requester) (v : W32) : State :=
  let t := loTake s req Reg.FT_PHASE_IN_LO
  let s := t.2
  if ftSrc s ≠ 1 then s else
  phaseSample s (signed 64 ((t.1.getD 0).toNat + v.toNat * 0x100000000))

/-- FT_PPS_CTL: a WIDTH of zero holds PPS_OUT low; TCLK_OUT runs while TCLK_EN is set (R50, R56). -/
def ppsCtl (s : State) (v : W32) : State :=
  let on (x : W32) : Bool := rbit x 0 && rfld x 8 24 ≠ 0
  -- a second that has begun before the output is on gives no edge
  let s := if on v && !on (rd s Reg.FT_PPS_CTL) then { s with time := { s.time with ppsSecond := some (nowNs s / 1000000000) } } else s
  let s := plainWrite s Reg.FT_PPS_CTL 0xFFFFFF03 v
  let s := drive s .tclkOut 0 (rbit v 1)
  if rfld v 8 24 = 0 && s.time.ppsHigh then drive { s with time := { s.time with ppsHigh := false } } .ppsOut 0 false else s

/-! The blocks. -/

/-- A register without an effect of its own: RW fields take the value, W1C fields clear where it is 1 (R3, R63). -/
def regStore (s : State) (reg : Nat) (v : W32) : State :=
  match regDef reg with
  | some d => if d.rw = 0 && d.w1c = 0 then s else wrN s reg (mergeWord (rdN s reg) d.rw d.w1c v.toNat)
  | none => s

def glEffect (s : State) (req : Requester) (reg : Nat) (v : W32) : State :=
  match reg with
  | 0x10 => unlockWrite s req v
  | 0x28 => if rbit v 0 then snapGo s (snapSrc req) else s
  | 0x34 => if autoSnap s then badAccess s req reg else regStore (loCommit s req 0x30) reg v
  | 0x38 => if autoSnap s then badAccess s req reg else snapAtCtl s v
  | 0x50 => if rbit v 0 then warmReset s 2 else s
  | _ => regStore s reg v

/-- HF_FN_TAG_MAX of the selected function; a lock refuses a change (R127, R129). -/
def tagMaxWrite (s : State) (face : Nat) (v : W32) : State :=
  let t := selFn s face
  let f := fnGet s t.1 t.2
  if !linkPresent s t.1 then s
  else if tdispLocked f && rfld v 0 15 ≠ f.tagMax then fnRefuse s t.1 t.2 4
  else fnSet s t.1 t.2 { f with tagMax := rfld v 0 15 }

/-- A word of a peer window; the two words of TARGET are no LO/HI pair, each is stored as it arrives (log entry 14). -/
def winPut (w : PeerWin) (k : Nat) (v : Nat) : PeerWin :=
  match k with
  | 0 => { w with baseMb := fld v 0 16 }
  | 1 => { w with sizeMb := fld v 0 16 }
  | 2 => { w with target := putFld w.target 0 32 v }
  | 3 => { w with target := putFld w.target 32 32 v }
  | 4 => { w with kind := fld v 0 2, rdEn := v.testBit 2, wrEn := v.testBit 3, link := fld v 4 4, tfn := fld v 8 8, pasidEn := v.testBit 16 }
  | _ => { w with pasid := fld v 0 20 }

/-- A word of a peer window as it reads. -/
def winWord (w : PeerWin) (k : Nat) : Nat :=
  match k with
  | 0 => w.baseMb
  | 1 => w.sizeMb
  | 2 => fld w.target 0 32
  | 3 => fld w.target 32 32
  | 4 => w.kind + 4 * b2n w.rdEn + 8 * b2n w.wrEn + 16 * w.link + 256 * w.tfn + 65536 * b2n w.pasidEn
  | _ => w.pasid

def hfEffect (s : State) (f x reg : Nat) (v : W32) : State :=
  match winReg reg with
  | some (_, 0, w, k) =>
    let t := selFn s f
    if !linkPresent s t.1 then s else fnUpd s t.1 t.2 (fun g => { g with shadow := aset g.shadow w (winPut (agetD g.shadow w {}) k v.toNat) })
  | some _ => s
  | none =>
    match x with
    | 0x50008 => fnCfgWrite s f v
    | 0x5000C => tagMaxWrite s f v
    | 0x50010 => let t := selFn s f; if rbit v 0 then fnUpd s t.1 t.2 (fun g => { g with cfgErr := false }) else s
    | 0x50020 => winSwapWrite s f v
    | _ =>
      let l := 4 * f + (x / 0x10000 - 1)
      if 0x10000 ≤ x && x < 0x50000 && !linkPresent s l then s
      else if x % 0x10000 = 4 && 0x10000 ≤ x && x < 0x50000 then ltrSend (regStore s reg v) l
      else regStore s reg v

/-- A write of a root-port register that passed the gate. Clearing RP_CTL.ENABLE keeps a link that is up (log entry 24). -/
def rpEffect (s : State) (req : Requester) (p y reg : Nat) (v : W32) : State :=
  if reg = Reg.RP_MERGE then mergeWrite s req v
  else if !rpHere s p then s
  else if y < 0x1000 then rpCfgWrite s p y v.toNat
  else if y = 0x1010 then dcfgWrite s req p v
  else regStore s reg v

def enEffect (s : State) (req : Requester) (pg x reg : Nat) (v : W32) : State :=
  if x = 0 then pgCtlWrite s req pg v
  else if x = 8 then rclkWrite s pg v
  else if 0x10000 ≤ x && x < 0x50000 then
    let p := 4 * pg + (x / 0x10000 - 1)
    if !portPresent s p then s else if x % 0x10000 = 0 then portCtlWrite s p v else flowRecheck (regStore s reg v) p
  else regStore s reg v

/-- A step page: its commands and loads (R385). -/
def stepEffect (s : State) (p fl k y reg : Nat) (v : W32) : State :=
  match y with
  | 0 => stepCtlWrite s p fl k v
  | 0xC => ucDataWrite s p fl k v
  | 0x10 => ucCmdWrite s p fl k v
  | _ => regStore s reg v

def staEffect (s : State) (p fl x reg : Nat) (v : W32) : State :=
  if 0x10000 ≤ x then
    let k := 4 * (x / 0x10000 - 1) + x % 0x10000 / 0x1000
    if stepOk p fl k then stepEffect s p fl k (x % 0x1000) reg v else s
  else if x = 0x3A40 then arrCmdWrite s p fl v
  else if 0x3A80 ≤ x && x < 0x3AC0 then arrCfgWrite s p fl ((x - 0x3A80) / 4) v
  else if x = 0x3C00 then mtrCmdWrite s p fl v
  else if fl = 1 then regStore s reg v
  else if 0x1480 ≤ x && x < 0x1500 then s
  else if x = 0x1000 then parseCmdWrite s p v
  else if x = 0x2000 then tblCmdWrite s p v
  else if 0x2400 ≤ x && x < 0x3400 then tblCfgWrite s p ((x - 0x2400) / 0x40) (x % 0x40 / 4) v
  else if 0x3900 ≤ x && x < 0x39F8 then hitarrWrite s p ((x - 0x3900) / 4) v
  else regStore s reg v

def ldEffect (s : State) (req : Requester) (reg : Nat) (v : W32) : State :=
  if reg = Reg.LD_OVF_SIZE then ovfSizeWrite s req v
  else if reg = Reg.LD_SLICE_CFG then
    { s with land := { s.land with alpha := aset s.land.alpha (rdF s Reg.LD_SLICE_SEL 0 14) (rfld v 0 4) } }
  else if 0x2340000 ≤ reg && reg < 0x2340080 && reg % 8 = 4 then tmCtlWrite s ((reg - 0x2340000) / 8) v
  else if reg = Reg.LD_EPOCH_CTL then epochCtlWrite s v
  else if reg = Reg.LD_SHEAF_CMD then sheafCmdWrite s v
  else if reg = Reg.LD_RH_CTL then rhCtlWrite s v
  else if 0x2320000 ≤ reg && reg < 0x2324000 then flowRecheck (regStore s reg v) ((reg - 0x2320000) / 0x100)
  else regStore s reg v

def scEffect (s : State) (reg : Nat) (v : W32) : State :=
  if reg = Reg.SC_NODE_SEL then nodeSelWrite s v
  else if reg = Reg.SC_NODE_CMD then nodeCmdWrite s v
  else regStore s reg v

/-- A GDDR7 spill slot is assigned (R503). -/
def spillUsed (s : State) : Bool := s.rm.qps.any (fun e => e.2.spill.isSome)

def tilEffect (s : State) (req : Requester) (t y reg : Nat) (v : W32) : State :=
  if 34 ≤ t then s
  else if 0x400 ≤ y && y < 0x1400 then
    let n := (y - 0x400) / 0x40
    match y % 0x40 with
    | 0x00 => thCtlWrite s t n v
    | 0x0C => thContextWrite s req t n 1 v
    | 0x14 => thContextWrite s req t n 3 v
    | 0x18 => thContextWrite s req t n 4 v
    | 0x24 => thGroupWrite s req t n v
    | 0x2C => thWakeWrite s req t n v
    | _ => regStore s reg v
  else match y with
    | 0x24 => dbgCmdWrite s t v (some (rdN s (tilR Reg.TIL_DBG_ADDR t))) 0
    | 0x40 => portSelWrite s t v
    | 0x44 => portCmdWrite s t v
    | _ => regStore s reg v

/-- GM_CMD; how a retraining of a controller that is not lost ends has no effect, and of a lost one is a free value. -/
def gmEffect (s : State) (c reg : Nat) (v : W32) : State :=
  if reg = gmReg Reg.GM_CMD c then
    let r := draw s
    gmCmdWrite (if rbit v 0 then r.2 else s) c v (r.1 % 2 = 1)
  else regStore s reg v

/-- A slice control block: bases, sizes and mirrors stay while AQ_EN is set (R214). -/
def slEffect (s : State) (sl x reg : Nat) (v : W32) : State :=
  if (aget s.slices sl).isNone then s
  else if x = 0x40 then slCtlWrite s sl v
  else if rdF s (Reg.SL_CTL sl) 0 1 = 1 then s
  else regStore s reg v

/-- A cipher lane: while BUSY, only the W1C bits of LN_STATUS take a write (R448). -/
def lnEffect (s : State) (sl l x reg : Nat) (v : W32) : State :=
  if x = 0 then laneCtlWrite s sl l v
  else if x = 0x30 then regStore s reg v
  else if laneBusy s sl l then laneOverrun s sl l
  else regStore s reg v

/-! A step of fabric time (R42 to R48). -/

/-- An absolute item that a forward step can pass. -/
inductive Item where
  | act (k : Nat)
  | snap
  | commit
  | dep (q : Nat)
  | timer (t n k : Nat)
  | deadline (t n : Nat)
  | epoch
deriving DecidableEq, Repr

/-- A list of items with their times, with one more placed after those of its time. -/
def insItem (x : Nat × Item) : List (Nat × Item) → List (Nat × Item)
  | [] => [x]
  | y :: ys => if x.1 < y.1 then x :: y :: ys else y :: insItem x ys

/-- Items that the span from `a` (not included) to `b` passes, in the order in which they would fire: by time, register actions
in ascending index. -/
def itemsIn (s : State) (a b : Nat) : List (Nat × Item) :=
  let inSpan (t : Nat) : Bool := a < t && t ≤ b
  let acts := ((s.regs.filter (fun e => 0x110000 ≤ e.1 && e.1 < 0x114000 && e.1 % 16 = 8 && rbit e.2 28)).map (fun e => (e.1 - 0x110000) / 16)).filterMap
    (fun (i : Nat) => let t := ractTime s i; if inSpan t || inSpan (tick8 t) then some (tick8 t, Item.act i) else none)
  let st := rd64 s Reg.GL_SNAP_AT_LO
  let snap := if rdF s Reg.GL_SNAP_AT_CTL 0 1 = 1 && !autoSnap s && inSpan st then [(st, Item.snap)] else []
  let ct := rd64 s Reg.LD_SHEAF_AT_LO
  let com := if s.sheaf.pending && s.sheaf.timed && inSpan ct then [(ct, Item.commit)] else []
  let deps := s.land.queues.filterMap (fun (e : Nat × Node) => match e.2.pkts with
    | x :: _ => x.pkt.depart.bind (fun d => if !x.released && (inSpan d || inSpan (tick8 d)) then some (tick8 d, Item.dep e.1) else none)
    | [] => none)
  let tims := s.tils.flatMap (fun (e : Nat × Tiller) => e.2.threads.flatMap (fun (g : Nat × Thread) =>
    (g.2.timers.filterMap (fun (h : Nat × Nat × Nat × Bool) => if inSpan h.2.2.1 then some (h.2.2.1, Item.timer e.1 g.1 h.1) else none)) ++
    (match g.2.block.bind (fun x => x.dl) with
      | some d => if inSpan d && thState s e.1 g.1 == 2 then [(d, Item.deadline e.1 g.1)] else []
      | none => [])))
  let eps := ([s.time.epochRec, s.time.epochSnap].filterMap id).map (fun k => boundary s k)
  let ep := match eps.filter inSpan with
    | t :: _ => [(t, Item.epoch)]
    | [] => []
  (acts ++ snap ++ com ++ deps ++ tims ++ ep).foldl (fun l x => insItem x l) []

/-- Descriptors and packets whose departure a step passes carry LATE, wherever the packet is: in a flight, in the waiting hall,
before a flight, or in a queue (R45, R48). -/
def depsLate (s : State) (a b : Nat) : State :=
  let inSpan (t : Nat) : Bool := (a < t && t ≤ b) || (a < tick8 t && tick8 t ≤ b)
  let ent (e : Ent) : Ent := if e.dep && inSpan (leAt e.desc 0x10 8) then { e with late := true } else e
  let pk (k : Pkt) : Pkt := if k.depart.any inSpan then { k with late := true } else k
  let climbs (f : Flight) : Flight := { f with climbs := f.climbs.map (fun c => { c with pkt := pk c.pkt }) }
  let src (e : EntryQ) : EntryQ :=
    { e with wire := e.wire.map pk, again := e.again.map pk, other := e.other.map pk, replay := e.replay.map (fun r => (pk r.1, r.2)) }
  { s with ch := { s.ch with chans := amap s.ch.chans (fun _ c => { c with ents := c.ents.map ent }) },
           stairs := amap s.stairs (fun _ x => { x with ing := climbs x.ing }),
           land := { s.land with
             queues := amap s.land.queues (fun _ n => { n with pkts := n.pkts.map (fun x => if x.released then x else { x with pkt := pk x.pkt }) }),
             hall := s.land.hall.map (fun x => { x with pkt := pk x.pkt }),
             entry := amap s.land.entry (fun _ e => src e) } }

end Sys2Proof.Machine
end

