-- ==== Sys2Proof/Machine/RegRead.lean ====
section
/-! DEFINITION. Machine/RegRead.lean: the value that each register reads as (R3, R63), the read latches (R65), and what a read
changes (R5, R76). -/

namespace Sys2Proof.Machine

/-! Registers that show state held elsewhere. -/

def glValue (s : State) (reg : Nat) : Nat :=
  if reg = Reg.GL_UNLOCK_STATUS then
    (match s.acc.window with
     | some w => if windowOpen s then 1 + 256 * w.block else 0
     | none => 0)
  else rdN s reg

def ftValue (s : State) (reg : Nat) : Nat :=
  if reg = Reg.FT_NOW_LO then nowNs s % 2 ^ 32
  else if reg = Reg.FT_NOW_HI then nowNs s / 2 ^ 32 % 2 ^ 32
  else if reg = Reg.FT_NOW_FRAC then s.time.now % 65536
  else rdN s reg

/-- The event router: route words of reserved sources read zero (R628). -/
def ozValue (s : State) (reg : Nat) : Nat :=
  if reg = Reg.OZ_EV_QUEUED then s.ev.queue.length
  else if 0x220000 ≤ reg && reg < 0x224000 && !evAssigned ((reg - 0x220000) / 4) then 0
  else rdN s reg

/-- The admission table: word 1 counts the fences of the last 24 hours (R605). -/
def msValue (s : State) (reg : Nat) : Nat :=
  if 0x300000 ≤ reg && reg < 0x300280 && reg % 8 = 4 then putFld (rdN s reg) 8 8 (min 255 (fences24 s ((reg - 0x300000) / 8)))
  else rdN s reg

/-- A word of the function that HF_FN_SEL selects. -/
def fnWord (s : State) (l n x : Nat) : Nat :=
  let f := fnGet s l n
  match x with
  | 0x04 => b2n f.enabled + 2 * b2n (fnBme f n) + 4 * b2n (fnMsixEn f n) + 8 * b2n (fnD3 f n) + 16 * b2n f.flr.isSome + 32 * f.tdisp
  | 0x08 => f.msixAlloc + 0x10000 * b2n f.nvme
  | 0x0C => f.tagMax
  | 0x10 => b2n f.cfgErr + 2 * f.cfgCause
  | 0x20 => 4 * b2n f.winErr
  | 0x24 => f.winGen % 2 ^ 32
  | 0x28 => b2n f.drained
  | _ => f.winUrCnt % 2 ^ 32

def hfValue (s : State) (f x reg : Nat) : Nat :=
  match winReg reg with
  | some (_, k, w, j) =>
    let t := selFn s f
    let g := fnGet s t.1 t.2
    if linkPresent s t.1 then winWord (agetD (if k = 0 then g.shadow else g.live) w {}) j else 0
  | none =>
    if x = 0x4 then msixTotal s
    else if 0x50004 ≤ x && x < 0x50030 then
      let t := selFn s f
      if linkPresent s t.1 then fnWord s t.1 t.2 (x - 0x50000) else 0
    else if 0x10000 ≤ x && x < 0x50000 then
      let l := 4 * f + (x / 0x10000 - 1)
      if !linkPresent s l then 0 else if x % 0x10000 = 8 then tagPool s l else rdN s reg
    else rdN s reg

def rpValue (s : State) (p y reg : Nat) : Nat :=
  if reg = Reg.RP_MERGE then rdN s reg
  else if !rpHere s p then 0
  else if y < 0x1000 then rpCfg s p y
  else rdN s reg

def enValue (s : State) (pg x reg : Nat) : Nat :=
  if 0x10000 ≤ x && x < 0x50000 && !portPresent s (4 * pg + (x / 0x10000 - 1)) then 0 else rdN s reg

/-- A step page: the bank copies of STEP_CTL (R385). -/
def stepValue (s : State) (p fl k y reg : Nat) : Nat :=
  let a := ucActive s p fl
  match y with
  | 0 => ucGet (stairGet s p) fl k (1 - a) 2560
  | 4 => ucGet (stairGet s p) fl k a 2560
  | 0xC => (ucDataRead s p fl k).2.toNat
  | _ => rdN s reg

def staValue (s : State) (p fl x reg : Nat) : Nat :=
  if 0x10000 ≤ x then
    let k := 4 * (x / 0x10000 - 1) + x % 0x10000 / 0x1000
    if stepOk p fl k then stepValue s p fl k (x % 0x1000) reg else 0
  else if fl = 0 && 0x1480 ≤ x && x < 0x1500 then 0
  else if x = 0x3818 && fl = 0 then (s.land.hall.filter (fun e => e.stair == p && (match e.key with | .deep _ _ _ _ => true | _ => false))).length
  else rdN s reg

def ldValue (s : State) (reg : Nat) : Nat :=
  let sl := rdF s Reg.LD_SLICE_SEL 0 14
  if reg = Reg.LD_SLICE_CFG then agetD s.land.alpha sl 8
  else if reg = Reg.LD_SLICE_USE then sliceUse s sl
  else if reg = Reg.LD_SLICE_REFUSE then agetD s.land.refuse sl 0 % 2 ^ 32
  else if reg = Reg.LD_SHEAF_OLD_CNT then oldCount s
  else rdN s reg

/-- SC_NODE_STATE of a queue: what R407, R408, R412 and R418 ask of it. -/
def queueFlags (s : State) (q : Node) : Nat :=
  let r := queueRoot s q
  let head := q.pkts.head?
  b2n (nodeCredit s q && (readyHead s q).any (fun x => x.pkt.depart.isNone)) + 2 * b2n (nodeRate q == 0) +
  4 * b2n (r < 32 && classPaused s r (queueClass s q)) + 8 * b2n (head.any (fun x => x.pkt.depart.isSome && !x.released)) +
  16 * b2n q.pkts.isEmpty +
  32 * b2n (head.any (fun x => x.copying || x.pkt.unverified || !(r < 32 || linkReady s (mdHandle x.pkt.md))))

/-- SC_NODE_STATE of a group, a class or a root. -/
def nodeFlags (s : State) (ty i : Nat) (n : Node) : Nat :=
  match ty with
  | 0 => queueFlags s n
  | 1 => b2n (nodeCredit s n && !(groupQueues s i).isEmpty) + 2 * b2n (nodeRate n == 0) +
         4 * b2n (gRoot n < 32 && classPaused s (gRoot n) (gClass n)) + 16 * b2n (groupQueues s i).isEmpty
  | 2 => b2n ((rootClasses s (i / 8)).contains (i % 8)) + 2 * b2n (nodeRate n == 0) + 4 * b2n (i / 8 < 32 && classPaused s (i / 8) (i % 8)) +
         16 * b2n (classGroups s (i / 8) (i % 8)).isEmpty
  | _ => b2n (nodeCredit s n && rootOpen s i) + 2 * b2n (nodeRate n == 0) + 16 * b2n (rootClasses s i).isEmpty

/-- The queues of a node, or below it. -/
def nodeQueues (s : State) (ty i : Nat) : List Node :=
  match ty with
  | 0 => [nodeGet s 0 i]
  | _ => (s.land.queues.map (fun (e : Nat × Node) => e.2)).filter (fun q =>
      match ty with
      | 1 => qGroup q == i
      | 2 => 8 * queueRoot s q + queueClass s q == i
      | _ => queueRoot s q == i)

def sumOf (l : List Node) (f : Node → Nat) : Nat := l.foldl (fun a n => a + f n) 0

/-- The live status words of the selected node (R426); for an INDEX beyond its TYPE, what the window took (log entry 7). -/
def nodeValue (s : State) (x reg : Nat) : Nat :=
  if !selValid s then rdN s reg else
  let ty := selType s
  let i := selIndex s
  let n := nodeGet s ty i
  let credit := unsign 64 (nodeRefill s n).sh.credit
  match x with
  | 0x40 => sumOf (nodeQueues s ty i) (fun q => q.pkts.length)
  | 0x44 => sumOf (nodeQueues s ty i) (fun q => q.use)
  | 0x48 => sumOf (nodeQueues s ty i) (fun q => q.ovf)
  | 0x4C => nodeFlags s ty i n
  | 0x50 => credit % 2 ^ 32
  | 0x54 => credit / 2 ^ 32
  | 0x60 => n.enq % 2 ^ 32
  | 0x64 => n.enq / 2 ^ 32
  | 0x68 => n.deq % 2 ^ 32
  | 0x6C => n.deq / 2 ^ 32
  | 0x70 => n.deqGr % 2 ^ 32
  | 0x74 => n.deqGr / 2 ^ 32
  | 0x94 => n.ecn % 2 ^ 32
  | 0x98 => n.flushed % 2 ^ 32
  | 0x9C => n.ovfLost % 2 ^ 32
  | _ => agetD n.drops ((x - 0x78) / 4 + 1) 0 % 2 ^ 32

/-- SC_ROOT_STATUS[r]. -/
def rootStatus (s : State) (r : Nat) : Nat :=
  let up := if r < 32 then portServes s r else linkUp s (r - 32)
  b2n (rootPresent s r) + 2 * b2n up + 4 * b2n (rootPresent s r && agetD s.land.begun r 0 < 2) +
  256 * ((List.range 8).filter (fun c => r < 32 && classPaused s r c)).foldl (fun a c => a + 2 ^ c) 0

def scValue (s : State) (reg : Nat) : Nat :=
  if 0x2400010 ≤ reg && reg < 0x2400038 then cfgWord s ((reg - 0x2400010) / 4)
  else if 0x2400040 ≤ reg && reg < 0x24000A0 then nodeValue s (reg - 0x2400000) reg
  else if Reg.SC_ROOT_STATUS 0 ≤ reg && reg < Reg.SC_ROOT_STATUS 48 then rootStatus s ((reg - Reg.SC_ROOT_STATUS 0) / 4)
  else rdN s reg

def cyValue (s : State) (reg : Nat) : Nat :=
  let sl := rdF s Reg.CY_SLICE_SEL 0 14
  if reg = Reg.CY_SLICE_AUTH_FAIL then agetD s.cy.authFail sl 0 % 2 ^ 32
  else if reg = Reg.CY_SLICE_NOKEY then agetD s.cy.noKey sl 0 % 2 ^ 32
  else rdN s reg

/-- GRMT's counts of what is in use (R499, R504). -/
def rmValue (s : State) (reg : Nat) : Nat :=
  if reg = Reg.RM_QP_USED then s.rm.qps.length
  else if reg = Reg.RM_QP_CACHED then s.rm.lines.length
  else if reg = Reg.RM_QP_BUSY then (s.rm.lines.filter (fun e => qpBusy s e.2.qp)).length
  else if reg = Reg.RM_REGIONS_USED then s.rm.regions.length
  else if reg = Reg.RM_WR_INFLIGHT then openWorks s
  else rdN s reg

/-- The slice control block: what the slice is (R213); that of a slice whose VF is not enabled reads zero (R212). -/
def slValue (s : State) (sl x reg : Nat) : Nat :=
  match aget s.slices sl with
  | none => 0
  | some y =>
    if !sliceEnabled s sl then 0 else
    match x with
    | 0 => sl + 2 ^ 14 * ((s.slices.filter (fun e => e.1 < sl && e.2.link == y.link && e.2.fnum == y.fnum)).length % 64) + 2 ^ 31
    | 4 => y.state + 2 ^ 8 * y.fault + 2 ^ 16 * (y.gen % 2 ^ 16)
    | 8 => (y.pasid.map (fun p => p + 2 ^ 31)).getD 0
    | 0xC => y.page0 + 2 ^ 16 * y.pages
    | _ => rdN s reg

/-- The registers of a GDDR7 controller: how far a resynchronisation has come is a free value (R601, R607). -/
def gmValue (s : State) (reg : Nat) : Nat :=
  if reg % 0x10000 = 0 && rdN s reg % 4 = 2 then rdN s reg + 256 * (Config.freeValue (2 ^ 64 + s.time.elapsed) % 101) else rdN s reg

/-- The value of a register; a WO register reads zero (R3). -/
def regValue (s : State) (reg : Nat) : W32 :=
  let b := reg / 0x100000
  let x := reg % 0x100000
  BitVec.ofNat 32 (
    if !isReg reg then 0
    else if 0x20000000 ≤ reg then rdN s reg
    else if 0x10000000 ≤ reg then slValue s ((reg - 0x10000000) / 0x80) (reg % 0x80) reg
    else match b with
      | 0 => glValue s reg
      | 1 => ftValue s reg
      | 2 => ozValue s reg
      | 3 => msValue s reg
      | 35 => ldValue s reg
      | 36 | 37 => scValue s reg
      | 38 => cyValue s reg
      | 40 => rmValue s reg
      | 47 | 48 => gmValue s reg
      | 8 => rpValue s (x / 0x10000) (x % 0x10000) reg
      | _ =>
        if 4 ≤ b && b < 8 then hfValue s (b - 4) x reg
        else if 9 ≤ b && b < 17 then enValue s (b - 9) x reg
        else if 17 ≤ b && b < 35 then staValue s ((b - 17) / 2) ((b - 17) % 2) x reg
        else rdN s reg)

/-! Latches (R65). The copies of a pair latch under the offset of the copy. -/

/-- The latch of a requester takes words. -/
def latchPut (s : State) (req : Requester) (ws : List (Nat × W32)) : State :=
  let keep := s.acc.latch.filter (fun e => !(decide (e.1.1 = req) && ws.any (fun w => w.1 == e.1.2)))
  { s with acc := { s.acc with latch := ws.map (fun w => ((req, w.1), w.2)) ++ keep } }

/-- A latched word; zero before the first LO read. -/
def latchGet (s : State) (req : Requester) (off : Nat) : W32 := (accGet s.acc.latch req off).getD 0

/-- Registers that read as latched: HI registers, FT_NOW_FRAC and the further words of a capture (R65, R164). -/
def latched (reg : Nat) : Bool :=
  pairOf reg == 2 || reg == Reg.FT_NOW_FRAC ||
  (0x900000 ≤ reg && reg < 0x1100000 && 0x10000 ≤ reg % 0x100000 && reg % 0x100000 < 0x50000 && 0x34 ≤ reg % 0x10000 && reg % 0x10000 ≤ 0x3C)

/-! Clearing reads (R5). -/

/-- What a high-water or low-water mark restarts from: the present value of what it follows (log entry 13). -/
def markFrom (s : State) (reg : Nat) : Option Nat :=
  if reg = Reg.FT_DEP_HWM then some (rdN s Reg.FT_DEP_USED)
  else if reg = Reg.LD_FREE_LWM then some (rdN s Reg.LD_FREE)
  else if reg = Reg.SV_INFLIGHT_HWM then some (rdN s Reg.SV_INFLIGHT)
  else if reg = Reg.OZ_TEMP_HWM then some (rdF s Reg.OZ_TEMP_MAX 0 16)
  else if 0x1100000 ≤ reg && reg < 0x2300000 && reg % 0x100000 = 0x3A20 then
    some (((flightGet s ((reg / 0x100000 - 17) / 2) ((reg / 0x100000 - 17) % 2)).climbs.filter (fun x => x.marker.isNone && !x.intents.isEmpty)).length)
  else none

/-- A read clears an RC register; the LO read of an RC pair clears all 64 bits. -/
def readClear (s : State) (reg : Nat) : State :=
  match markFrom s reg with
  | some n => wrN s reg n
  | none =>
    if 0x400000 ≤ reg && reg < 0x800000 && reg % 0x100000 = 0x5002C then
      let t := selFn s (reg / 0x100000 - 4)
      if linkPresent s t.1 then fnUpd s t.1 t.2 (fun g => { g with winUrCnt := 0 }) else s
    else if pairOf reg = 1 then wr64 s reg 0
    else wrN s reg 0

def isRc (reg : Nat) : Bool := ((regDef reg).map (fun d => d.rc)).getD false

/-- The stair, flight and step whose STA_UC_DATA an offset is (R385). -/
def ucDataReg (reg : Nat) : Option (Nat × Nat × Nat) :=
  let blk := reg / 0x100000
  let x := reg % 0x100000
  if 17 ≤ blk && blk < 35 && 0x10000 ≤ x && x % 0x1000 = 0xC then
    let p := (blk - 17) / 2
    let fl := (blk - 17) % 2
    let k := 4 * (x / 0x10000 - 1) + x % 0x10000 / 0x1000
    if stepOk p fl k then some (p, fl, k) else none
  else none

/-- What a read does besides: a read of STA_UC_DATA advances ADDR (R372). -/
def readAdvance (s : State) (reg : Nat) : State :=
  match ucDataReg reg with
  | some (p, fl, k) => (ucDataRead s p fl k).1
  | none => s

/-- A read of a register itself: the value, what it latches and what it clears. -/
def regRead (s : State) (req : Requester) (reg : Nat) : State × W32 :=
  if latched reg then (s, latchGet s req reg) else
  let v := regValue s reg
  let s' := if pairOf reg = 1 then
      latchPut s req ((reg + 4, regValue s (reg + 4)) :: (if reg = Reg.FT_NOW_LO then [(Reg.FT_NOW_FRAC, regValue s Reg.FT_NOW_FRAC)] else []))
    else s
  (if isRc reg then readClear s' reg else readAdvance s' reg, v)

/-- A read of the snapshot copy of a counter (R81). -/
def snapRead (s : State) (req : Requester) (reg : Nat) : State × W32 :=
  if !((regDef reg).any (fun d => d.counter)) then (s, 0) else
  let copy (r : Nat) : W32 := (aget s.snap r).getD 0
  if pairOf reg = 2 then (s, latchGet s req (reg + 0x80000))
  else if pairOf reg = 1 then (latchPut s req [(reg + 0x80004, copy (reg + 4))], copy reg)
  else (s, copy reg)

/-- The word of a controller's registers that a function with NVME personality reads (R506, R508). -/
def nvmeRead (c : Ctrl) (off : Nat) : Nat :=
  match off / 4 * 4 with
  | 0x00 => 0x1401FFFF
  | 0x04 => 0x00400020
  | 0x08 => 0x00020000
  | 0x14 => c.cc
  | 0x1C => cstsOf c
  | 0x24 => c.aqa
  | 0x28 => c.asq % 2 ^ 32
  | 0x2C => c.asq / 2 ^ 32
  | 0x30 => c.acq % 2 ^ 32
  | 0x34 => c.acq / 2 ^ 32
  | _ => 0

end Sys2Proof.Machine
end

