-- ==== Sys2Proof/Machine/Bus.lean ====
section
/-! DEFINITION. Machine/Bus.lean: accesses to the register map (chapter 3), scheduled register actions and steps of fabric time
(chapter 2): what reaches every block. -/

namespace Sys2Proof.Machine

/-! Indirect access (R71 to R77). Sets: 0 to 3 host-face PHYs, 4 to 11 root-port PHYs, 12 to 19 SerDes of the port groups, 20 to
35 GDDR7 PHYs, 36 the sensors of Ozelm. -/

/-- The region that holds a set. -/
def indBase (k : Nat) : Nat :=
  if k < 4 then 0x400000 + 0x100000 * k
  else if k < 12 then 0x800000 + 0x10000 * (k - 4)
  else if k < 20 then 0x900000 + 0x100000 * (k - 12)
  else if k < 36 then 0x2F00000 + 0x100000 * ((k - 20) / 8) + 0x10000 * ((k - 20) % 8)
  else 0x200000

def indAddr (k : Nat) : Nat := indBase k + 0x3F00
def indStat (k : Nat) : Nat := indBase k + 0x3F08
def indRdata (k : Nat) : Nat := indBase k + 0x3F0C

/-- The set of an IND_DATA or IND_CMD register. -/
def indSetOf (reg : Nat) : Option Nat :=
  (List.range 37).find? (fun k => reg == indBase k + 0x3F04 || reg == indBase k + 0x3F10)

def indGet (s : State) (k : Nat) : IndSt := agetD s.acc.ind k {}
def indPut (s : State) (k : Nat) (x : IndSt) : State := { s with acc := { s.acc with ind := aset s.acc.ind k x } }

/-- A reader of IND_DATA, or of IND_CMD, gets its word. -/
def indReply (s : State) (k : Nat) (op : IndOp) (w : W32) : State :=
  match op.reader with
  | some req => emit s (.regRead req (indBase k + if op.idle then 0x3F10 else 0x3F04) w)
  | none => s

/-- An access is issued to its domain: BUSY sets, and ADDR advances with AUTO_INC (R76). -/
def indStart (s : State) (k : Nat) (op : IndOp) : State :=
  let addr := rdF s (indAddr k) 0 24
  let s := indPut s k { indGet s k with cur := some { op with addr := addr, since := s.time.elapsed } }
  let s := wrF s (indStat k) 0 1 1
  let s := if rdF s (indAddr k) 24 1 = 1 then wrF s (indAddr k) 0 24 (addr + 1) else s
  emit s (.indirect k op.write addr op.word)

/-- An access whose turn has come: one that starts nothing is over at once, IND_CMD reading zero. -/
def indRun (s : State) (k : Nat) (op : IndOp) : State := if op.idle then indReply s k op 0 else indStart s k op

/-- An access of a requester is issued, or waits for BUSY to clear (R74). -/
def indAccess (s : State) (k : Nat) (op : IndOp) : State :=
  let x := indGet s k
  if x.cur.isSome then indPut s k { x with waiting := x.waiting ++ [{ op with since := s.time.elapsed }] } else indRun s k op

/-- The oldest waiting access is dropped when its 2 us are over: OVERRUN (R74). -/
def indExpire (s : State) (k : Nat) : State :=
  let x := indGet s k
  match x.waiting with
  | op :: rest =>
    if op.since + 2 * usUnits ≤ s.time.elapsed then indReply (wrF (indPut s k { x with waiting := rest }) (indStat k) 3 1 1) k op 0 else s
  | [] => s

/-- The waiting accesses proceed until one of them sets BUSY. -/
def indProceed (k : Nat) : List IndOp → State → State
  | [], s => indPut s k { indGet s k with waiting := [] }
  | op :: rest, s => if op.idle then indProceed k rest (indReply s k op 0) else indStart (indPut s k { indGet s k with waiting := rest }) k op

/-- BUSY clears, and the next access proceeds; one whose wait is over is dropped first. -/
def indNext (s : State) (k : Nat) : State :=
  let s := wrF (indPut s k { indGet s k with cur := none }) (indStat k) 0 1 0
  let n := (indGet s k).waiting.length
  let s := (List.range n).foldl (fun s _ => indExpire s k) s
  indProceed k (indGet s k).waiting s

/-- A stalled read of IND_DATA is over after 2 us: it returns zero and sets LATE (R73). -/
def indSettle (s : State) (k : Nat) : State :=
  let x := indGet s k
  match x.cur with
  | some op =>
    if op.reader.isSome && op.since + 2 * usUnits ≤ s.time.elapsed then
      indReply (wrF (indPut s k { x with cur := some { op with reader := none } }) (indStat k) 1 1 1) k op 0
    else s
  | none => s

/-- A write of IND_CMD: with READ set it starts a domain read without stalling; with READ clear it starts nothing, but waits for
BUSY like any access (R73, R74). -/
def indCmd (s : State) (req : Requester) (k : Nat) (v : W32) : State :=
  indAccess (indSettle s k) k { reader := none, write := false, addr := 0, word := 0, since := 0, owner := some req, idle := !rbit v 0 }

/-- A write of IND_DATA is posted (R73). -/
def indDataPut (s : State) (req : Requester) (k : Nat) (v : W32) : State :=
  indAccess (indSettle s k) k { reader := none, write := true, addr := 0, word := v, since := 0, owner := some req }

/-- A read of IND_DATA (R73), or of IND_CMD, which reads zero once BUSY is clear (R72, R74). -/
def indRead (s : State) (req : Requester) (k : Nat) (cmd : Bool) : State :=
  indAccess (indSettle s k) k { reader := some req, write := false, addr := 0, word := 0, since := 0, idle := cmd }

/-- The bits of a SerDes word that take writes (R168). -/
def serdesMask (addr : Nat) : Nat :=
  let w := addr % 0x100000
  if 0x10 ≤ w && w ≤ 0x13 then 0xFF else if w = 0x100 then 0xF else 0

/-- A word that its domain has: SerDes words of lanes 0 to 3, and sensor words (R168, R642); the PHY domains know their own. -/
def indHas (k addr : Nat) : Bool :=
  if 12 ≤ k && k < 20 then addr / 0x100000 < 4 && (serdesMask addr ≠ 0 || addr % 0x100000 == 0x104 || addr % 0x100000 == 0x200)
  else if k = 36 then addr ≤ 0x088 else true

/-- The counter of the PRBS checker of a lane, which a read clears, and the word that turns the checker on (R168). -/
def prbsCount (k addr : Nat) : Bool := 12 ≤ k && k < 20 && addr % 0x100000 == 0x104
def prbsOn (s : State) (k addr : Nat) : Bool := (agetD (portGet s (4 * (k - 12))).serdes (addr / 0x100000 * 0x100000 + 0x100) 0).testBit 1
/-- The word of a voltage monitor's lowest reading, which a read clears (R642). -/
def lowWord (k addr : Nat) : Bool := k == 36 && 0x60 ≤ addr && addr < 0x80

/-- The word that a domain answers a read with. The device holds the writable SerDes words, the symbol errors counted while the
PRBS checker was on, and the lowest readings of the voltage monitors; what the answer brings is counted or compared with what is
held. Every other word is the answer's. -/
def indWord (s : State) (k addr : Nat) (w : W32) : W32 :=
  if 12 ≤ k && k < 20 && serdesMask addr ≠ 0 then BitVec.ofNat 32 (agetD (portGet s (4 * (k - 12))).serdes addr 0)
  else if prbsCount k addr then BitVec.ofNat 32 (agetD (portGet s (4 * (k - 12))).serdes addr 0 + if prbsOn s k addr then w.toNat else 0)
  else if lowWord k addr then BitVec.ofNat 32 (min (agetD s.acc.lows (addr - 0x60) 0xFFFF) (w.toNat % 0x10000))
  else w

/-- A read of a word of access code RC clears what the device holds of it (R3, R168, R642). -/
def indClear (s : State) (k addr : Nat) : State :=
  if prbsCount k addr then portUpd s (4 * (k - 12)) (fun x => { x with serdes := adel x.serdes addr })
  else if lowWord k addr then { s with acc := { s.acc with lows := adel s.acc.lows (addr - 0x60) } }
  else s

/-- A domain takes a word; turning the PRBS checker off leaves its count. -/
def indTake (s : State) (k addr : Nat) (w : W32) : State :=
  if 12 ≤ k && k < 20 && serdesMask addr ≠ 0 then
    portUpd s (4 * (k - 12)) (fun x => { x with serdes := aset x.serdes addr (w.toNat &&& serdesMask addr) })
  else s

/-! Writes. -/

/-- FT_ registers but FT_STEP_CTL. -/
def ftEffect (s : State) (req : Requester) (reg : Nat) (v : W32) : State :=
  match reg - 0x100000 with
  | 0x10 => srcCtlWrite s req v
  | 0x20 => freqAdjWrite s v
  | 0x3C => phaseSubmit s req v
  | 0x68 => ppsCtl s v
  | 0x7C => epochChanged (regStore s reg v)
  | 0x84 => epochChanged (regStore s reg v)
  | x => if 0x10000 ≤ x && x < 0x14000 && x % 16 = 8 then ractCtl s ((x - 0x10000) / 16) v else regStore s reg v

/-- OZ_ registers; route words of reserved sources ignore writes (R628). -/
def ozEffect (s : State) (reg : Nat) (v : W32) (env : Env) : State :=
  if reg = Reg.OZ_MB_CMD then mbWrite s v env
  else if 0x220000 ≤ reg && reg < 0x224000 && !evAssigned ((reg - 0x220000) / 4) then s
  else regStore s reg v

/-- LD_TM_CFG_HANDLE ignores writes while EN is set; the rest as ldEffect has it. -/
def ldTmEffect (s : State) (req : Requester) (reg : Nat) (v : W32) : State :=
  if 0x2340000 ≤ reg && reg < 0x2340080 && reg % 8 = 0 && tmBound s ((reg - 0x2340000) / 8) then s else ldEffect s req reg v

/-- KS_ALARM; the conditions that still hold are free. -/
def ksEffect (s : State) (reg : Nat) (v : W32) : State :=
  if reg = Reg.KS_ALARM then
    let r := draw s
    ksAlarmWrite r.2 v r.1
  else regStore s reg v

/-- A HI write commits the pair; registers whose own rule does that, or checks first, come later (R66). -/
def hiCommit (s : State) (req : Requester) (reg : Nat) : State :=
  if pairOf reg ≠ 2 || reg = Reg.FT_PHASE_IN_HI || reg = Reg.GL_SNAP_AT_HI || (0x2A00000 ≤ reg && reg < 0x2F00000) then s
  else if 0x900000 ≤ reg && reg < 0x1100000 && !portPresent s (4 * (reg / 0x100000 - 9) + (reg % 0x100000 / 0x10000 - 1)) then s
  else loCommit s req (reg - 4)

/-- TIL_ registers: the HI halves of debug data commit here, those of threads by their own rules. -/
def tilHi (s : State) (req : Requester) (reg : Nat) : State :=
  if pairOf reg = 2 && reg % 0x10000 < 0x400 then loCommit s req (reg - 4) else s

/-- A register that takes no writes: of an absent port or tiller, or half of a pair whose fields are all RO or RC. -/
def deadReg (reg : Nat) : Bool :=
  (0x2E20000 ≤ reg && reg < 0x2F00000) ||
  (pairOf reg ≠ 0 && (regDef reg).any (fun d => d.rw == 0 && d.wo == 0))

/-- What a plain write does to a register other than FT_STEP_CTL, once it has passed the checks; a LO register holds. `env` is
what host memory answers a mailbox command that the write starts. -/
def plainEffect (s : State) (req : Requester) (reg : Nat) (v : W32) (env : Env) : State :=
  if deadReg reg then s
  else if indReg reg then
    (match indSetOf reg with
     | some k => if reg % 0x10000 = 0x3F10 then indCmd s req k v else indDataPut s req k v
     | none => s)
  else if pairOf reg = 1 then
    (if reg = Reg.GL_SNAP_AT_LO && autoSnap s then badAccess s req reg
     else if 0x10000000 ≤ reg && reg < 0x20000000 && rdF s (Reg.SL_CTL ((reg - 0x10000000) / 0x80)) 0 1 = 1 then s
     else if 0x20000000 ≤ reg && laneBusy s ((reg - 0x20000000) / 0x1000) (reg % 0x1000 / 0x100) then
       laneOverrun s ((reg - 0x20000000) / 0x1000) (reg % 0x1000 / 0x100)
     else loHold s req reg v)
  else
  let b := reg / 0x100000
  let x := reg % 0x100000
  if 0x20000000 ≤ reg then
    let sl := (reg - 0x20000000) / 0x1000
    let l := reg % 0x1000 / 0x100
    lnEffect (if laneBusy s sl l then s else hiCommit s req reg) sl l (reg % 0x100) reg v
  else if 0x10000000 ≤ reg then
    let sl := (reg - 0x10000000) / 0x80
    slEffect (if rdF s (Reg.SL_CTL sl) 0 1 = 1 then s else hiCommit s req reg) sl (reg % 0x80) reg v
  else
    let s := hiCommit s req reg
    match b with
    | 0 => glEffect s req reg v
    | 1 => ftEffect s req reg v
    | 2 => ozEffect s reg v env
    | 3 => if reg = Reg.MS_UNIT_CMD then unitCmdWrite s v else regStore s reg v
    | 8 => rpEffect s req (x / 0x10000) (x % 0x10000) reg v
    | 35 => ldTmEffect s req reg v
    | 36 => scEffect s reg v
    | 39 => ksEffect s reg v
    | 40 => if reg = Reg.RM_SPILL_MB && spillUsed s then badAccess s req reg else regStore s reg v
    | _ =>
      if 4 ≤ b && b < 8 then hfEffect s (b - 4) x reg v
      else if 9 ≤ b && b < 17 then enEffect s req (b - 9) x reg v
      else if 17 ≤ b && b < 35 then staEffect s ((b - 17) / 2) ((b - 17) % 2) x reg v
      else if 42 ≤ b && b < 47 then tilEffect (tilHi s req reg) req (8 * (b - 42) + x / 0x10000) (x % 0x10000) reg v
      else if 47 ≤ b && b < 49 then gmEffect s (8 * (b - 47) + x / 0x10000) reg v
      else regStore s reg v

/-- The value that an alias stores in the RW fields (R67). -/
def aliasValue (k mask old v : Nat) : Nat :=
  let new := match k with
    | 1 => old ||| v
    | 2 => old &&& (0xFFFFFFFF ^^^ v)
    | _ => old ^^^ v
  new &&& mask

/-- A register of a pair takes bits through an alias: at once, without a commit (R69); where a plain write of the pair would be
dropped, so is this one. -/
def pairAlias (s : State) (req : Requester) (reg : Nat) (v : Nat) : State :=
  let put (s : State) : State := wrN s reg (mergeWord (rdN s reg) (rwFields reg) 0 v)
  if (reg = Reg.GL_SNAP_AT_LO || reg = Reg.GL_SNAP_AT_HI) && autoSnap s then badAccess s req reg
  else if 0x10000000 ≤ reg && rdF s (Reg.SL_CTL ((reg - 0x10000000) / 0x80)) 0 1 = 1 then s
  else if 0x2A00000 ≤ reg && reg < 0x2F00000 && 0x400 ≤ reg % 0x10000 && reg % 0x40 < 0x18 then
    let t := 8 * (reg / 0x100000 - 42) + reg % 0x100000 / 0x10000
    let n := (reg % 0x10000 - 0x400) / 0x40
    if thState s t n = 1 || thState s t n = 2 then badAccess s req reg else put s
  else put s

/-- The effect of a write that passed the checks, plain (0) or through an alias. -/
def accEffect (s : State) (req : Requester) (a : Acc) (v : W32) (env : Env) (eff : State → Requester → Nat → W32 → Env → State) : State :=
  if a.ali = 0 then eff s req a.reg v env
  else
    let mask := rwFields a.reg
    let v := aliasValue a.ali mask ((regValue s a.reg).toNat &&& mask) v.toNat
    if pairOf a.reg ≠ 0 then pairAlias s req a.reg v else eff s req a.reg (BitVec.ofNat 32 v) env

/-- The write reaches a register that takes writes: not a copy, and through an alias only RW fields (R68, R81). A guarded register
without an RW field ignores its alias writes without a check of the window (log entry 14). -/
def writable (a : Acc) : Bool := isReg a.reg && !a.snap && (a.ali = 0 || (rwFields a.reg ≠ 0 && !indReg a.reg))

/-- The offset that the checks of a write go by: a slice control block counts as its window in the OZ_ block, a cipher page as
the block of the cipher engines. -/
def gateOff (reg off : Nat) : Nat :=
  if 0x20000000 ≤ reg then 0x2600000 else if 0x10000000 ≤ reg then 0x210100 + reg % 0x80 else off % 0x4000000

/-- The access is to a guarded register, or writes a guarded mailbox operation (R70, R78, R657). -/
def accGuarded (a : Acc) (v : W32) : Bool := guardedWrite a.reg (if a.ali = 0 then v else 0)

/-- A register of a gallery page in BAR2/3: link, function, page, slot and register. The page is short-decode (R85 to R87, R102). -/
def galOff (req : Requester) (off : Nat) : Option (Nat × Nat × Nat × Nat × Nat) :=
  match req with
  | .fn l f => if 0x20040000 ≤ off && off < 0xA0000000 then some (l, f, (off - 0x20040000) / 0x1000, off % 0x400 / 64, off % 64 / 4 * 4) else none
  | _ => none

/-- A double word of the first MiB of BAR4/5, which stands at 0xA000_0000 for its function: link, function and offset (R59). -/
def msixOff (req : Requester) (off : Nat) : Option (Nat × Nat × Nat) :=
  match req with
  | .fn l f => if 0xA0000000 ≤ off && off < 0xA0100000 then some (l, f, (off - 0xA0000000) / 4 * 4) else none
  | _ => none

/-- A write that reaches no register of BAR0/1 and no cipher page: a gallery page, the MSI-X table, or nothing (R59). A thread
takes an access-fault exception there (R546). -/
def barWrite (s : State) (req : Requester) (off be : Nat) (v : W32) : State :=
  match galOff req off, msixOff req off, req with
  | some (l, f, page, slot, x), _, _ => galWrite s l f page slot x be v
  | none, some (l, f, x), _ => msixWrite s l f (x / 16) (x % 16 / 4) be v.toNat
  | none, none, .thread _ _ => notReached s req
  | _, _, _ => s

/-- An effect sees the write's own offset, where it is not that of the register (R689). -/
def withOwn (s : State) (off reg : Nat) (f : State → State) : State :=
  if off = reg then f s else
  let t := f { s with acc := { s.acc with own := some off } }
  { t with acc := { t.acc with own := s.acc.own } }

/-- A register write by the checks of R63, R90 and R78 to R80; a locked write of FT_STEP_CTL sets its ERR as well (R44). Cipher
pages, which no rule starts late, and the requester who was found to hold one pass the first checks. -/
def busWith (eff : State → Requester → Nat → W32 → Env → State) (s : State) (req : Requester) (off be : Nat) (v : W32) (env : Env) : State :=
  match access s req off with
  | none => barWrite s req off be v
  | some a =>
    if !writable a then s
    else if 0x20000000 ≤ a.reg then
      (if crosses req be off then notReached s req
       else if be ≠ 15 then badAccess s req ((off - 0x20000000) % 0x4000000) else accEffect s req a v env eff)
    else
      let g := gateOff a.reg off
      let t := withOwn s (off % 0x4000000) a.reg (fun s => gate s req be g (accGuarded a v) (fun s => accEffect s req a v env eff))
      if a.reg = Reg.FT_STEP_CTL && be = 15 && mayReach s req g && !windowFor s req (blockOf g) then wrF t Reg.FT_STEP_CTL 3 1 1 else t

/-! Scheduled register actions (R53, R54, R690). -/

/-- An action is not performed: its target is guarded, or an IND_DATA register. -/
def ractRefused (s : State) (k : Nat) : Bool :=
  match access s .action (rdF s (0x110008 + 16 * k) 0 26) with
  | some a => accGuarded a (rd s (0x11000C + 16 * k)) || (a.reg % 0x10000 == 0x3F04 && indReg a.reg)
  | none => false

/-- An action fires with the words as they stand; 1 when its write was performed. -/
def ractFire (s : State) (k : Nat) (late : Bool) (env : Env) : State × Nat :=
  let c := 0x110008 + 16 * k
  let s := lateMark s k false
  if ractRefused s k then (raise (wrF (wrF s c 28 1 0) c 31 1 1) 0x106 [(4, k)], 0)
  else
    let s := wrF (wrF s c 28 1 0) c 29 1 1
    let s := if late then wrF s c 30 1 1 else s
    (busWith plainEffect s .action (rdF s c 0 26) 15 (rd s (c + 4)) env, 1)

/-- Another armed action of the same tick has a lower index. -/
def ractBehind (s : State) (k : Nat) : Bool :=
  (List.range k).any (fun j => ractArmed s j && tick8 (ractTime s j) == tick8 (ractTime s k))

/-- RACT_FIRE (R53): action k at its tick. -/
def execRactFire (k : Nat) (env : Env) (s : State) : Host.Outcome State Fault Refusal :=
  .next (if k < 1024 && ractArmed s k && (s.time.lateActs.contains k || tick8 (ractTime s k) ≤ nowNs s) && !ractBehind s k then
    let late := s.time.lateActs.contains k
    let r := ractFire s k late env
    if late && r.2 = 1 then lateFiring r.1 else r.1
  else s)

/-! GL_SNAP_AT (R83). -/

/-- SNAP_AT_FIRE (R83); with AUTO_SNAP set the telemetry epoch takes the snapshot (R619). -/
def execSnapAtFire (s : State) : Host.Outcome State Fault Refusal :=
  .next (if snapAtDue s then snapAtRun s else s)

/-! Steps (R42 to R48). -/

/-- A timer that a step passes fires. -/
def timerLate (s : State) (t n k : Nat) : State :=
  match aget (thGet s t n).timers k with
  | some (p, at', _) =>
    let s := thUpd s t n (fun y => { y with timers := adel y.timers k })
    let h := tport s t (16 * n + p)
    if h.mode ≠ 1 then s
    else (postMsg s h.handle [at'] 3 0 true).getD (thUpd s t n (fun y => { y with fired := aset y.fired k (p, at', true) }))
  | none => s

/-- A blocking read whose deadline a step passes completes as it would otherwise. -/
def deadlineLate (s : State) (t n : Nat) : State :=
  match (thGet s t n).block with
  | some b => (chTry s t n b).getD (chReply s t n STS_TIMEOUT)
  | none => s

/-- The head packet of a queue is released. -/
def depLate (s : State) (q : Nat) : State :=
  match (nodeGet s 0 q).pkts with
  | x :: rest => nodeUpd s 0 q (fun n => { n with pkts := { x with released := true } :: rest })
  | [] => s

/-- One item fires through a step; the number of LATE firings. A commit that something else still holds fires LATE once nothing
does. -/
def itemFire (s : State) (x : Item) (env : Env) : State × Nat :=
  match x with
  | .act k => if ractArmed s k then ractFire s k true env else (s, 0)
  | .snap => if rdF s Reg.GL_SNAP_AT_CTL 0 1 = 1 then
      (let s := snapAtFire s true; { s with time := { s.time with stepSnap := true } }, 1) else (s, 0)
  | .commit => if commitReady s then (commitNow s true, 1) else (sheafUpd s (fun y => { y with late := true }), 0)
  | .dep q => (depLate s q, 1)
  | .timer t n k => (timerLate s t n k, 1)
  | .deadline t n => (deadlineLate s t n, 1)
  | .epoch => epochFire s true

/-- The LATE firings of one step: counted, and reported once, with their number. The record starts a new 1 ms for the firings
outside a step (R48, R688). -/
def stepLate (s : State) (n : Nat) : State :=
  if n = 0 then s else
  let s := raiseAt (bump s Reg.FT_LATE_CNT n) 0x105 2 (nowNs s) [(4, n)]
  let w := agetD s.ev.wins (winKey 0x105 0) { start := 0, count := 0, last := [], time := 0 }
  { s with ev := { s.ev with wins := aset s.ev.wins (winKey 0x105 0) { w with start := s.time.elapsed } } }

/-- Everything that a forward step passes fires at once: the snapshot first, since a copy holds each counter's value from before
any increment of that core clock (R82), then the rest in the order of R45. -/
def passItems (s : State) (a b : Nat) (env : Env) : State :=
  let items := itemsIn s a b
  let items := items.filter (fun x => decide (x.2 = .snap)) ++ items.filter (fun x => decide (x.2 ≠ .snap))
  let r := items.foldl (fun (r : State × Nat) x => let t := itemFire r.1 x.2 env; (t.1, r.2 + t.2)) (depsLate s a b, 0)
  let s := stepLate r.1 r.2
  { s with time := { s.time with stepSnap := false } }

/-- Fabric time steps by `d` ns to `new`; the fraction stays. -/
def stepApply (s : State) (d : Int) (new : Nat) (still : Bool) (env : Env) : State :=
  let old := nowNs s
  let s := bump s Reg.FT_STEP_GEN
  let s := if still then s else
    { s with time := { s.time with now := new * 65536 + s.time.now % 65536, discardNext := true, maxNs := max s.time.maxNs new,
                                   barred := if d < 0 then s.time.maxNs else s.time.barred, ppsSecond := none } }
  let s := raise s 0x101 [(4, unsign 32 d), (4, rdN s Reg.FT_STEP_GEN)]
  if d > 0 then passItems s old new env else s

/-- A write of FT_STEP_CTL that passed the gate; a step that arrives while BUSY is set is refused (R43). -/
def stepCtl (s : State) (v : W32) (env : Env) : State :=
  let s := wrN s Reg.FT_STEP_CTL (mergeWord (rdN s Reg.FT_STEP_CTL) 2 8 v.toNat)
  if !rbit v 0 then s
  else if rdF s Reg.FT_STEP_CTL 2 1 = 1 then wrF s Reg.FT_STEP_CTL 3 1 1
  else
  let old : Int := nowNs s
  let val := rd64 s Reg.FT_STEP_VAL_LO
  let new : Int := if rbit v 1 then (val : Int) else old + signed 64 val
  if new < 0 || new ≥ 2 ^ 64 then wrF s Reg.FT_STEP_CTL 3 1 1
  else stepApply s (new - old) new.toNat (!rbit v 1 && signed 64 val == 0) env

/-- What a plain write does to a register. -/
def regEffect (s : State) (req : Requester) (reg : Nat) (v : W32) (env : Env) : State :=
  if reg = Reg.FT_STEP_CTL then stepCtl s v env else plainEffect s req reg v env

/-- A write of a controller's registers by its host (R506, R508). AQA, ASQ and ACQ take each half as it arrives. -/
def nvmeWrite (s : State) (i : Nat) (c : Ctrl) (off : Nat) (v : W32) : State :=
  let n := v.toNat
  let x := off / 4 * 4
  match x with
  | 0x14 => ccWrite s i n
  | 0x24 => ctrlUpd s i (fun y => { y with aqa := n &&& 0x0FFF0FFF })
  | 0x28 => ctrlUpd s i (fun y => { y with asq := putFld y.asq 0 32 n })
  | 0x2C => ctrlUpd s i (fun y => { y with asq := putFld y.asq 32 32 n })
  | 0x30 => ctrlUpd s i (fun y => { y with acq := putFld y.acq 0 32 n })
  | 0x34 => ctrlUpd s i (fun y => { y with acq := putFld y.acq 32 32 n })
  | _ =>
    if 0x1000 ≤ x && x < 0x1808 then
      (if !dbLive s c then s else if x % 8 = 0 then sqDoorbell s i c ((x - 0x1000) / 8) n else cqDoorbell s i c ((x - 0x1004) / 8) n)
    else s

/-- The controller whose registers a requester's BAR0/1 shows in place of slice control pages (R506). -/
def nvmeBar (s : State) (req : Requester) (off : Nat) : Option (Nat × Ctrl) :=
  match req with
  | .fn l f => if off < 0x10000 && f ≠ 0 then ctrlBar s l f else none
  | _ => none

/-- TIL_PREL[p] in the port page of a thread, which only the thread itself reaches (R546): the page stands at 0x3000_0000. -/
def prelOff (req : Requester) (off : Nat) : Option (Nat × Nat × Nat) :=
  match req with
  | .thread t n => if 0x30000000 ≤ off && off < 0x30000080 && t < 34 && n < 64 then some (t, n, (off - 0x30000000) / 8) else none
  | _ => none

/-- A register write of any requester. -/
def busWrite (s : State) (req : Requester) (off be : Nat) (v : W32) (env : Env) : State :=
  match nvmeBar s req off with
  | some (i, c) => if be ≠ 15 || !stageOk s 0x2900000 then badAccess s req off else nvmeWrite s i c off v
  | none =>
    match prelOff req off with
    | some (t, n, p) =>
      if crosses req be off then notReached s req
      else if be ≠ 15 then badAccess s req (off % 0x4000000)
      else if off % 8 < 4 then prelWrite s t n p v else s
    | none => busWith regEffect s req off be v env

/-- The access means a register of a kind. -/
def accIs (s : State) (req : Requester) (off : Nat) (p : Acc → Bool) : Bool :=
  match nvmeBar s req off with
  | some _ => false
  | none => (access s req off).any (fun a => isReg a.reg && p a)

/-! Reads. -/

/-- A port register of a port that its group's mode does not use: it reads zero (R144). -/
def portGone (s : State) (reg : Nat) : Bool :=
  0x900000 ≤ reg && reg < 0x1100000 && 0x10000 ≤ reg % 0x100000 && reg % 0x100000 < 0x50000 &&
  !portPresent s (4 * (reg / 0x100000 - 9) + (reg % 0x100000 / 0x10000 - 1))

/-- A read that reaches no register of BAR0/1 and no cipher page: a gallery page, the MSI-X table and its pending bits (R59, R112,
R179), or nothing, which reads zero. -/
def barRead (s : State) (req : Requester) (off : Nat) : W32 :=
  match galOff req off, msixOff req off with
  | some (l, f, page, slot, x), _ => BitVec.ofNat 32 (galValue s l f page slot x)
  | none, some (l, f, x) => BitVec.ofNat 32 (msixValue (fnGet s l f) x)
  | none, none => 0

/-- A read by a requester: the value it gets, and what it changes. Where it reaches nothing it reads zero. An alias of a register
without RW fields reads zero and has no side effect (R68). -/
def busRead (s : State) (req : Requester) (off : Nat) : State × W32 :=
  match nvmeBar s req off with
  | some (_, c) => (s, BitVec.ofNat 32 (nvmeRead c off))
  | none =>
    match access s req off with
    | none =>
      (match prelOff req off with
       | some (t, n, p) => (s, if off % 8 < 4 then BitVec.ofNat 32 (tport s t (16 * n + p)).prel else 0)
       | none => (s, barRead s req off))
    | some a =>
      if !isReg a.reg || !(0x20000000 ≤ a.reg || mayReach s req (gateOff a.reg off)) then (s, 0)
      else if a.snap then (if a.ali = 0 then snapRead s req a.reg else (s, 0))
      else if portGone s a.reg then (s, 0)
      else if a.ali ≠ 0 then
        (if indReg a.reg || rwFields a.reg = 0 then (s, 0)
         else if pairOf a.reg = 0 then (s, regValue s a.reg &&& BitVec.ofNat 32 (rwFields a.reg))
         else let r := regRead s req a.reg; (r.1, r.2 &&& BitVec.ofNat 32 (rwFields a.reg)))
      else if 0x900000 ≤ a.reg && a.reg < 0x1100000 && a.reg % 0x10000 = 0x30 && 0x10000 ≤ a.reg % 0x100000 then
        fifoRead s req (4 * (a.reg / 0x100000 - 9) + (a.reg % 0x100000 / 0x10000 - 1))
      else regRead s req a.reg

/-- A read whose requester does not reach what it names: a thread without the capability, a function whose memory space does not
answer (R100, R546). -/
def readDenied (s : State) (req : Requester) (off : Nat) : Bool :=
  match access s req off, req with
  | some a, _ => isReg a.reg && !(0x20000000 ≤ a.reg || mayReach s req (gateOff a.reg off))
  | none, .thread _ _ => (prelOff req off).isNone
  | none, .fn l f =>
    (match galOff req off with
     | some (_, _, page, _, _) => !pageDecodes s l f page
     | none => 0x20000000 ≤ off && !fnDecodes s l f)
  | none, .action => false

/-- The read answers its requester. -/
def readRow (s : State) (req : Requester) (off : Nat) : State :=
  if readDenied s req off then notReached s req
  else
    let r := busRead s req off
    emit r.1 (.regRead req off r.2)

/-- An access to IND_DATA, or to a word of a step page, that reads have rows of their own for. -/
def ownRead (reg : Nat) : Bool :=
  indReg reg || (0x1100000 ≤ reg && reg < 0x2300000 && 0x10000 ≤ reg % 0x100000 && reg % 0x1000 == 0xC)

/-! The rows of chapter 3. An access of a requester one of whose writes waits for an indirect domain is held behind it (R60). -/

/-- The set that an access by a register's own offset names through IND_DATA (0x3F04) or IND_CMD (0x3F10). -/
def indOf (s : State) (req : Requester) (off x : Nat) : Option Nat :=
  match access s req off with
  | some a => if a.ali ≠ 0 || a.snap || a.reg % 0x10000 ≠ x || !indReg a.reg then none else indSetOf a.reg
  | none => none

/-- What an access does, by its row. -/
def busRow (s : State) (x : Access) : State :=
  match x.row with
  | 0 =>
    if (nvmeBar s x.req x.off).isSome || (prelOff x.req x.off).isSome || (access s x.req x.off).isNone ||
        accIs s x.req x.off (fun a => a.ali == 0 && pairOf a.reg == 0 && !indReg a.reg) then busWrite s x.req x.off x.be x.v x.env else s
  | 1 => if accIs s x.req x.off (fun a => a.ali == 0 && pairOf a.reg == 1) then busWrite s x.req x.off x.be x.v {} else s
  | 2 => if accIs s x.req x.off (fun a => a.ali == 0 && pairOf a.reg == 2) then busWrite s x.req x.off x.be x.v {} else s
  | 3 => if accIs s x.req x.off (fun a => a.ali ≠ 0) then busWrite s x.req x.off x.be x.v {} else s
  | 4 => if rbit x.v 0 then busWrite s x.req Reg.FT_STEP_CTL x.be x.v x.env else s
  | 5 =>
    match indOf s x.req x.off 0x3F10 with
    | some k => if mayReach s x.req (x.off % 0x4000000) then indRead s x.req k true else notReached s x.req
    | none =>
      (match nvmeBar s x.req x.off, access s x.req x.off with
       | none, some a => if a.ali = 0 && !a.snap && ownRead a.reg then s else readRow s x.req x.off
       | _, _ => readRow s x.req x.off)
  | 6 => if accIs s x.req x.off (fun a => a.ali == 0 && !a.snap && isRc a.reg) then readRow s x.req x.off else s
  | 7 =>
    match indOf s x.req x.off 0x3F04 with
    | some k => if mayReach s x.req (x.off % 0x4000000) then indRead s x.req k false else notReached s x.req
    | none => s
  | 8 =>
    match indOf s x.req x.off 0x3F04 with
    | some k => gate s x.req x.be (x.off % 0x4000000) false (fun s => indDataPut s x.req k x.v)
    | none => s
  | _ =>
    match indOf s x.req x.off 0x3F10 with
    | some k => gate s x.req x.be (x.off % 0x4000000) false (fun s => indCmd s x.req k x.v)
    | none => s

/-- A write of the requester waits for an indirect domain, or an access waits behind one. -/
def indWaits (s : State) (req : Requester) : Bool :=
  s.acc.later.any (fun x => decide (x.req = req)) || s.acc.ind.any (fun e => e.2.waiting.any (fun o => decide (o.owner = some req)))

/-- An access takes effect, or is held until the earlier writes of its requester have (R60). -/
def inOrder (s : State) (x : Access) : State :=
  if indWaits s x.req then { s with acc := { s.acc with later := s.acc.later ++ [x] } } else busRow s x

/-- The held accesses whose requester waits no longer take effect, in order of arrival. -/
def runLater (s : State) : State := s.acc.later.foldl inOrder { s with acc := { s.acc with later := [] } }

/-- REGISTER_WRITE (R63): a write at a register's own offset, of a register that is no half of a pair and in no IND_ set's data
or command, of a gallery page or of the MSI-X table. -/
def execRegisterWrite (req : Requester) (off be : Nat) (v : W32) (env : Env) (s : State) : Host.Outcome State Fault Refusal :=
  .next (inOrder s { row := 0, req := req, off := off, be := be, v := v, env := env })

/-- LO_REGISTER_WRITE (R66). -/
def execLoRegisterWrite (req : Requester) (off be : Nat) (v : W32) (s : State) : Host.Outcome State Fault Refusal :=
  .next (inOrder s { row := 1, req := req, off := off, be := be, v := v })

/-- HI_REGISTER_WRITE (R66). -/
def execHiRegisterWrite (req : Requester) (off be : Nat) (v : W32) (s : State) : Host.Outcome State Fault Refusal :=
  .next (inOrder s { row := 2, req := req, off := off, be := be, v := v })

/-- ALIAS_WRITE (R67 to R70). -/
def execAliasWrite (req : Requester) (off be : Nat) (v : W32) (s : State) : Host.Outcome State Fault Refusal :=
  .next (inOrder s { row := 3, req := req, off := off, be := be, v := v })

/-- FT_STEP (R42): a write of FT_STEP_CTL with GO set; `env` answers the host reads of actions that the step passes. -/
def execFtStep (req : Requester) (be : Nat) (v : W32) (env : Env) (s : State) : Host.Outcome State Fault Refusal :=
  .next (inOrder s { row := 4, req := req, off := Reg.FT_STEP_CTL, be := be, v := v, env := env })

/-- LO_REGISTER_READ (R65): a read of a LO register latches; the same row reads every other register that no read changes, HI
registers, IND_CMD, gallery pages and the MSI-X table among them. -/
def execLoRegisterRead (req : Requester) (off : Nat) (s : State) : Host.Outcome State Fault Refusal :=
  .next (inOrder s { row := 5, req := req, off := off })

/-- RC_REGISTER_READ (R5). -/
def execRcRegisterRead (req : Requester) (off : Nat) (s : State) : Host.Outcome State Fault Refusal :=
  .next (inOrder s { row := 6, req := req, off := off })

/-- IND_DATA_READ (R73). -/
def execIndDataRead (req : Requester) (off : Nat) (s : State) : Host.Outcome State Fault Refusal :=
  .next (inOrder s { row := 7, req := req, off := off })

/-- IND_DATA_WRITE (R73). -/
def execIndDataWrite (req : Requester) (off be : Nat) (v : W32) (s : State) : Host.Outcome State Fault Refusal :=
  .next (inOrder s { row := 8, req := req, off := off, be := be, v := v })

/-- IND_CMD_READ (R73): a write of IND_CMD; with READ clear it starts nothing (R74). -/
def execIndCmdRead (req : Requester) (off be : Nat) (v : W32) (s : State) : Host.Outcome State Fault Refusal :=
  .next (inOrder s { row := 9, req := req, off := off, be := be, v := v })

/-- GL_UNLOCK_WRITE (R78, R79). -/
def execGlUnlockWrite (req : Requester) (be : Nat) (v : W32) (s : State) : Host.Outcome State Fault Refusal :=
  .next (gate s req be Reg.GL_UNLOCK false (fun s => unlockWrite s req v))

/-- UNLOCK_WINDOW_EXPIRE (R78). -/
def execUnlockWindowExpire (s : State) : Host.Outcome State Fault Refusal :=
  .next (if s.acc.window.isSome && !windowOpen s then closeWindow s else s)

/-- SNAPSHOT_GO (R82): a write of GL_SNAP_CMD with GO set. -/
def execSnapshotGo (req : Requester) (be : Nat) (v : W32) (s : State) : Host.Outcome State Fault Refusal :=
  .next (if rbit v 0 then gate s req be Reg.GL_SNAP_CMD false (fun s => snapGo s (snapSrc req)) else s)

/-! The rows of chapter 2 that write registers. -/

/-- FT_SRC_CTL_WRITE (R37, R56). -/
def execFtSrcCtlWrite (req : Requester) (be : Nat) (v : W32) (s : State) : Host.Outcome State Fault Refusal :=
  .next (gate s req be Reg.FT_SRC_CTL false (fun s => srcCtlWrite s req v))

/-- FT_PHASE_IN_LO_WRITE (R37). -/
def execFtPhaseInLoWrite (req : Requester) (be : Nat) (v : W32) (s : State) : Host.Outcome State Fault Refusal :=
  .next (gate s req be Reg.FT_PHASE_IN_LO false (fun s => loHold s req Reg.FT_PHASE_IN_LO v))

/-- PHASE_SAMPLE_SUBMIT (R37). -/
def execPhaseSampleSubmit (req : Requester) (be : Nat) (v : W32) (s : State) : Host.Outcome State Fault Refusal :=
  .next (gate s req be Reg.FT_PHASE_IN_HI false (fun s => phaseSubmit s req v))

/-- IND_DOMAIN_ANSWER (R73, R76): the domain of set k answers; `ok` clear: it refuses the access. -/
def execIndDomainAnswer (k : Nat) (word : W32) (ok : Bool) (s : State) : Host.Outcome State Fault Refusal :=
  .next (
    let s := indSettle s k
    match (indGet s k).cur with
    | some op =>
      let good := ok && indHas k op.addr
      let s := if good then s else wrF s (indStat k) 2 1 1
      let s :=
        if op.write then (if good then indTake s k op.addr op.word else s)
        else
          let w := if good then indWord s k op.addr word else 0
          let s := if good then indClear s k op.addr else s
          indReply (wr s (indRdata k) w) k op w
      indNext s k
    | none => s)

/-- IND_OVERRUN (R74): the oldest access of set k that waits has waited 2 us. -/
def execIndOverrun (k : Nat) (s : State) : Host.Outcome State Fault Refusal :=
  .next (if (indGet s k).cur.isSome then indExpire (indSettle s k) k else s)

/-- IND_TIMEOUT (R75): the access under way has not finished 1 ms after it was issued. -/
def execIndTimeout (k : Nat) (s : State) : Host.Outcome State Fault Refusal :=
  .next (
    let s := indSettle s k
    match (indGet s k).cur with
    | some op => if op.since + msUnits ≤ s.time.elapsed then indNext (wrF s (indStat k) 2 1 1) k else s
    | none => s)

/-- What passes on an empty queue: one core clock, after which stalled reads whose 2 us are over return, and accesses that no
earlier write holds back take effect. -/
def idle (s : State) : State :=
  let s := blink (tick s) (blinkHalf s)
  let s := s.net.ports.foldl (fun s (e : Nat × PortSt) => xoffSend s e.1) s
  runLater (s.acc.ind.foldl (fun s (e : Nat × IndSt) => indSettle s e.1) (reclaimCheck s))

end Sys2Proof.Machine
end

