-- ==== Sys2Proof/Machine/Image.lean ====
section
/-! DEFINITION. Machine/Image.lean: the image of a slice, its export and its import (R235, R236). -/

namespace Sys2Proof.Machine

/-! Export. -/

/-- A channel's state as an image gives it: ACTIVE, DISABLED or ERROR. -/
def imageState (c : Chan) : Nat := if c.state = 3 then c.before else c.state

/-- A channel's entry. -/
def chanImage (x : Slice) (i : Nat) (c : Chan) : List Byte :=
  pack 64 [(0, 0, 32, chanHandle i c), (4, 0, 8, c.kind), (4, 8, 8, c.prefetch), (4, 16, 4, c.slot), (8, 0, 16, c.page - x.page0), (8, 16, 3, imageState c),
    (8, 24, 8, c.err), (0xC, 0, 32, c.size), (0x10, 0, 64, c.base), (0x18, 0, 64, c.mirror), (0x20, 0, 32, if devProduced c then c.pidx else c.sampled),
    (0x24, 0, 32, c.cidx), (0x28, 0, 32, c.bind), (0x2C, 0, 32, c.srq), (0x30, 0, 32, c.armVal), (0x34, 0, 1, b2n c.armed), (0x38, 0, 16, c.modCount),
    (0x38, 16, 16, c.modTime), (0x3C, 0, 11, c.vector), (0x3C, 15, 1, b2n c.noVector)]

/-- A section: its type, the size of its entries, their number, eight zero bytes, and the entries. -/
def imageSection (ty size : Nat) (es : List (List Byte)) : List Byte :=
  le 2 ty ++ le 2 size ++ le 4 es.length ++ le 8 0 ++ es.flatten

/-- The entry size of a section type; 0 for an unknown type. -/
def sectionSize (ty : Nat) : Nat :=
  match ty with
  | 1 => 16
  | 2 => 64
  | 3 => 128
  | 4 => 64
  | 5 => 48
  | 6 => 256
  | _ => 0

/-- The keys in a slice's slots: offset and key. -/
def sliceKeys (s : State) (sl : Nat) (x : Slice) : List (Nat × Nat) :=
  (s.cy.slots.filter (fun e => x.ksBase ≤ e.1 && e.1 < x.ksBase + sliceLimit s sl 5)).map (fun e => (e.1 - x.ksBase, e.2.key))

/-- The entries of each section of a slice's image, keys wrapped under `wrap`. -/
def imageEntries (s : State) (sl : Nat) (x : Slice) (wrap : Nat) : List (Nat × List (List Byte)) :=
  let chans := (ownChans s sl none).filterMap (fun (e : Nat × Nat) => (chanGet s e.1).map (fun c => (e.1, c)))
  [(1, (List.range 8).map (fun r => pack 16 [(0, 0, 8, r), (0, 16, 16, x.ksBase), (8, 0, 64, agetD x.limits r 0)])),
   (2, chans.map (fun e => chanImage x e.1 e.2)),
   (3, chans.filterMap (fun (e : Nat × Chan) => (qpGet s e.1).map (fun q => qpRecord e.1 e.2 q))),
   (4, (s.rm.regions.filter (fun e => e.2.slice == sl && !e.2.revoking)).map (fun e => regionRecord e.1 { e.2 with refs := 0 })),
   (5, (sliceKeys s sl x).map (fun k => le 2 k.1 ++ le 6 0 ++ fit 40 (Config.wrapKey wrap (be 32 k.2)))),
   (6, svImage s sl)]

/-- The image of a slice: header, the sections that have entries, digest. -/
def sliceImage (s : State) (sl : Nat) (x : Slice) (wrap : Nat) : List Byte :=
  let secs := (imageEntries s sl x wrap).filter (fun e => !e.2.isEmpty)
  let body := secs.flatMap (fun e => imageSection e.1 (sectionSize e.1) e.2)
  let n := 64 + body.length + 48
  let img := pack 64 [(0, 0, 32, 0x4C535A47), (4, 0, 16, 1), (8, 0, 64, n), (0x10, 0, 32, secs.length), (0x14, 0, 32, rdN s Reg.GL_ID), (0x18, 0, 64, nowNs s)] ++ body
  img ++ fit 48 (Config.sha384 img)

/-- The owner's slot that wraps or unwraps the keys of an image: its use sets its role WRAP (R432, R435). -/
def imageSlot (s : State) (cmd : List Byte) : Byte ⊕ (State × KeySlot) :=
  match slotAbs s 0 (par cmd 0x1C 0 16) with
  | some a => useSlot s a 3
  | none => .inl STS_KEY_SLOT

/-- The wrapping key of an export: none is asked of a slice that holds no key. -/
def exportSlot (s : State) (t : Nat) (x : Slice) (cmd : List Byte) : Byte ⊕ (State × Nat) :=
  if (sliceKeys s t x).isEmpty then .inr (s, 0) else
  match imageSlot s cmd with
  | .inl e => .inl e
  | .inr (s, k) => .inr (s, k.key)

/-- EXPORT_SLICE (R235). -/
def execExportSlice (sl : Nat) (cmd : List Byte) (env : Env) (s : State) : Host.Outcome State Fault Refusal :=
  .next (ownerCmd s sl 0x4D cmd (fun s t x =>
    if x.state ≠ 4 then failed s STS_SLICE_STATE else
    let need := (sliceImage s t x 0).length
    if par cmd 0x18 0 32 < need then (s, some { sts := STS_LEN_RANGE, len := need }) else
    match exportSlot s t x cmd with
    | .inl e => failed s e
    | .inr (s, w) =>
      let img := sliceImage s t x w
      if envWrite env ≠ STS_OK then failed s (envWrite env)
      else (slWrite s sl (par cmd 0x10 0 64) (payloadAttr s sl false none none) img, some { len := img.length })))

/-! Import. -/

/-- The sections of an image from an offset: type and entries, and where the last one ends; none where one does not fit. `n`
bounds the sections. -/
def readSections (img : List Byte) : Nat → Nat → Option (List (Nat × List (List Byte)) × Nat)
  | 0, off => some ([], off)
  | n + 1, off =>
    let ty := leAt img off 2
    let size := leAt img (off + 2) 2
    let count := leAt img (off + 4) 4
    if size ≠ sectionSize ty || size = 0 || off + 16 + count * size > img.length then none else
    (readSections img n (off + 16 + count * size)).map (fun r =>
      ((ty, (List.range count).map (fun k => slice img (off + 16 + k * size) size)) :: r.1, r.2))

/-- The sections of a well-formed image whose digest holds (R236). -/
def readImage (bs : List Byte) : Option (List (Nat × List (List Byte))) :=
  let n := leAt bs 8 8
  if leAt bs 0 4 ≠ 0x4C535A47 || leAt bs 4 2 ≠ 1 || n < 112 || bs.length < n || leAt bs 0x10 4 > 6 then none else
  let img := bs.take n
  match readSections (img.take (n - 48)) (leAt bs 0x10 4) 64 with
  | some (secs, e) =>
    if e + 48 = n && fit 48 (Config.sha384 (img.take (n - 48))) == img.drop (n - 48) then some secs else none
  | none => none

/-- The entries of a type. -/
def sectionOf (secs : List (Nat × List (List Byte))) (ty : Nat) : List (List Byte) := (secs.filter (fun e => e.1 == ty)).flatMap (fun e => e.2)

/-- The index and channel of an entry, at its place in a slice. -/
def chanOfImage (s : State) (t : Nat) (x : Slice) (b : List Byte) : Nat × Chan :=
  let h := leAt b 0 4
  let kind := leAt b 4 1
  let dev := kind == 6 || kind == 7
  let st := fld (leAt b 8 4) 16 3
  let p := leAt b 0x20 4
  let live := sliceLive s t
  (h % 0x1000000,
   { gen := h / 0x1000000, kind := kind, slice := t, page := x.page0 + leAt b 8 2, slot := fld (leAt b 4 4) 16 4, size := leAt b 0xC 4, base := leAt b 0x10 8,
     mirror := leAt b 0x18 8, bind := leAt b 0x28 4, srq := leAt b 0x2C 4, prefetch := prefetchOf (leAt b 5 1), modCount := leAt b 0x38 2, modTime := leAt b 0x3A 2,
     vector := leAt b 0x3C 2 % 2048, noVector := (leAt b 0x3C 2).testBit 15, state := if live || st = 4 then st else 3, before := st, err := leAt b 0xB 1,
     pidxReg := if dev then 0 else p, sampled := if dev then 0 else p, pidx := if dev then p else 0, cidx := leAt b 0x24 4, armVal := leAt b 0x30 4,
     armed := (leAt b 0x34 1).testBit 0, idle := st ≠ 1 })

/-- A queue pair from its record. -/
def qpOfImage (b : List Byte) : Qp :=
  let w := leAt b 4 4
  { tstate := fld w 0 3, enc := w.testBit 3, side := fld w 4 1, ccEn := w.testBit 5, ccProf := fld w 6 3, spillHost := w.testBit 9, pmtu := fld w 10 2,
    retry := fld w 12 4, rnrRetry := fld w 16 4, peer := leAt b 8 4, path := leAt b 0xC 2, sport := leAt b 0xE 2, sqNxt := leAt b 0x10 4, sqUna := leAt b 0x14 4,
    epsn := leAt b 0x18 4, txMsn := leAt b 0x1C 4, rxMsn := leAt b 0x20 4, txQ := leAt b 0x24 4 % 2 ^ 18, rxQ := leAt b 0x28 4 % 2 ^ 18, window := leAt b 0x2C 2,
    coalesce := leAt b 0x2E 2, rtoMin := leAt b 0x30 2, rto := leAt b 0x30 2, ackDelay := leAt b 0x32 2, rtoMax := leAt b 0x34 4, msgTimeout := leAt b 0x38 2,
    rnrTime := leAt b 0x3A 2, slot := leAt b 0x3C 2, inst := leAt b 0x50 4, idA := slice b 0x58 16, idB := slice b 0x68 16, spillAddr := leAt b 0x78 8 }

/-- A controller from its entry, without its I/O queues. -/
def ctrlOfImage (t : Nat) (b : List Byte) : Nat × Ctrl :=
  let aqa := leAt b 0xC 4
  let cc := leAt b 8 4
  (leAt b 2 2 - 1,
   { kind := fld (leAt b 0 2) 8 1, slice := t, fw := (leAt b 0 2).testBit 9, qp := leAt b 0x50 4, cc := cc, rdy := cc.testBit 0, aqa := aqa, asq := leAt b 0x10 8,
     acq := leAt b 0x18 8,
     sqs := if cc.testBit 0 then [(0, { base := leAt b 0x10 8, size := fld aqa 0 12 + 1, cq := 0, head := leAt b 0x20 2, tail := leAt b 0x22 2 })] else [],
     cqs := if cc.testBit 0 then [(0, { base := leAt b 0x18 8, size := fld aqa 16 12 + 1, head := leAt b 0x24 2, tail := leAt b 0x26 2, phase := leAt b 0x28 1 % 2 })] else [],
     feats := [(4, leAt b 0x38 4), (6, leAt b 0x3C 1 % 2), (7, leAt b 0x3E 2 + 65536 * leAt b 0x3E 2), (8, leAt b 0x30 4), (0xB, leAt b 0x34 4)] })

/-- The Asynchronous Event Requests that an entry re-arms. -/
def aersOfImage (b : List Byte) : List (List Byte) :=
  (List.range (leAt b 0x40 1 % 8)).map (fun k => pack 64 [(0, 0, 8, 0xC), (2, 0, 16, leAt b (0x44 + 2 * k) 2)])

/-- The image does not fit the target slice: a handle, a gallery slot, a quota, a region index or a controller number. -/
def imageUnfit (s : State) (t : Nat) (x : Slice) (secs : List (Nat × List (List Byte))) : Bool :=
  let r := idxRange s t
  let chans := (sectionOf secs 2).map (fun b => chanOfImage s t x b)
  let idxs := chans.map (fun e => e.1)
  let places := chans.map (fun e => e.2.page * 16 + e.2.slot)
  let keys := (sectionOf secs 4).map (fun b => leAt b 0 4 % 2 ^ 24)
  let cids := ((sectionOf secs 6).filter (fun b => leAt b 0 1 == 1)).map (fun b => leAt b 2 2 - 1)
  let once (l : List Nat) : Bool := l.eraseDups.length == l.length
  !idxs.all (fun i => r.1 ≤ i && i < r.1 + r.2 && !idxUsed s i && !idxForeign s t i) || !once idxs ||
  !chans.all (fun e => slotFree s t e.2.page e.2.slot) || !once places ||
  (sectionOf secs 1).any (fun b => leAt b 8 8 > sliceLimit s t (leAt b 0 1)) ||
  !keys.all (regionFree s) || !once keys ||
  (s.rm.qps.filter (fun e => e.2.spill.isSome)).length + ((sectionOf secs 3).filter (fun b => !(leAt b 4 4).testBit 9 && fld (leAt b 4 4) 0 3 ≠ 0)).length >
    rdF s Reg.RM_SPILL_MB 0 16 * 8192 ||
  (sectionOf secs 5).any (fun b => leAt b 0 2 ≥ sliceLimit s t 5) ||
  cids.any (fun i => i ≥ 4096 || (aget s.sv.ctrls i).isSome) || !once cids

/-- Entries that no image of the device holds: an unknown resource, a kind or size that no channel has, a queue pair without its
channel, a queue without its controller. -/
def imageWrong (s : State) (t : Nat) (x : Slice) (secs : List (Nat × List (List Byte))) : Bool :=
  let chans := (sectionOf secs 2).map (fun b => chanOfImage s t x b)
  let qps := (sectionOf secs 3).map (fun b => leAt b 0 4 % 0x1000000)
  let sv := sectionOf secs 6
  (sectionOf secs 1).any (fun b => leAt b 0 1 > 7) ||
  chans.any (fun e => e.2.kind < 2 || 8 < e.2.kind || !pow2In e.2.size 4 16 || (e.2.before ≠ 1 && e.2.before ≠ 2 && e.2.before ≠ 4)) ||
  qps.any (fun i => !chans.any (fun e => e.1 == i && e.2.kind == 4)) ||
  chans.any (fun e => e.2.kind == 4 && !qps.contains e.1) ||
  sv.any (fun b => leAt b 0 1 ≠ 1 && !sv.any (fun c => leAt c 0 1 == 1 && leAt c 2 2 == leAt b 4 2))

/-- The slice holds nothing besides its admin pair, so that an image can be placed in it. -/
def sliceEmpty (s : State) (t : Nat) (x : Slice) : Bool :=
  (ownChans s t none).isEmpty && !s.rm.regions.any (fun e => e.2.slice == t) && (sliceKeys s t x).isEmpty

/-- The keys of an image, unwrapped; none when one fails its check. -/
def imageKeys (wrap : Nat) : List (List Byte) → Option (List (Nat × Nat))
  | [] => some []
  | b :: bs =>
    match Config.unwrapKey wrap (slice b 8 40), imageKeys wrap bs with
    | some k, some r => some ((leAt b 0 2, ofBe k) :: r)
    | _, _ => none

/-- A queue pair is recreated: its state, its spill slot, and for an encrypted connection its context. -/
def qpImport (s : State) (t : Nat) (b : List Byte) : State :=
  let i := leAt b 0 4 % 0x1000000
  let q := qpOfImage b
  let used := s.rm.qps.filterMap (fun e => e.2.spill)
  let n := rdF s Reg.RM_SPILL_MB 0 16 * 8192
  let free := (List.range (min n (used.length + 1))).find? (fun x => !used.contains x)
  let q := if q.spillHost || q.tstate = 0 then q else { q with spill := free }
  match chanGet s i, slotAbs s t q.slot with
  | some c, some a =>
    if q.enc && (q.tstate = 2 || q.tstate = 3) then
      let x : Cctx := { slice := t, slot := a, derive := true, side := q.side, label := qpLabel (chanHandle i c) q, txEpoch := leAt b 0x40 4,
                        txCtr := leAt b 0x48 8, rxEpoch := leAt b 0x44 4 }
      let s := rmUpd s (fun r => { r with qps := aset r.qps i { q with sec := some x } })
      match useSlot s a 2 with
      | .inr (s, k) => qpDerive s i c x k.key
      | .inl _ => s
    else rmUpd s (fun r => { r with qps := aset r.qps i q })
  | _, _ => rmUpd s (fun r => { r with qps := aset r.qps i q })

/-- A channel is recreated with its handle and generation. -/
def chanImport (s : State) (t : Nat) (x : Slice) (b : List Byte) : State :=
  let e := chanOfImage s t x b
  let r := draw s
  let c := { e.2 with home := r.1 % 8, born := s.ch.births }
  let s := r.2
  { s with ch := { s.ch with chans := aset s.ch.chans e.1 c, gens := aset s.ch.gens e.1 c.gen, births := s.ch.births + 1 } }

def regionImport (s : State) (t : Nat) (b : List Byte) : State :=
  let key := leAt b 0 4
  rmUpd s (fun r => { r with regions := aset r.regions key { slice := t, addr := leAt b 8 8, len := leAt b 0x10 8, access := fld (leAt b 4 4) 0 3, born := r.births },
                             tags := aset r.tags (key % 2 ^ 24) (key / 2 ^ 24), births := r.births + 1 })

/-- A controller or one of its I/O queues is recreated. -/
def ctrlImport (s : State) (t : Nat) (b : List Byte) : State :=
  let i := leAt b 4 2 - 1
  match leAt b 0 1 with
  | 1 =>
    let c := ctrlOfImage t b
    (aersOfImage b).foldl (fun s e =>
      let m : SvCmd := { ctrl := c.1, sq := 0, cq := 0, sqe := e, stage := .event }
      svUpd s (fun v => { v with cmds := aset v.cmds v.next m, next := v.next + 1 }))
      (svUpd s (fun v => { v with ctrls := aset v.ctrls c.1 c.2 }))
  | 2 =>
    let q : SvSq := { base := leAt b 8 8, size := leAt b 0x10 2 + 1, cq := leAt b 0x12 2, head := leAt b 0x14 2, tail := leAt b 0x16 2 }
    ctrlUpd s i (fun c => { c with sqs := aset c.sqs (leAt b 2 2) q })
  | _ =>
    let q : SvCq := { base := leAt b 8 8, size := leAt b 0x10 2 + 1, vector := leAt b 0x12 2, head := leAt b 0x14 2, tail := leAt b 0x16 2,
                      phase := leAt b 0x18 1 % 2, ien := (leAt b 0x18 1).testBit 1 }
    ctrlUpd s i (fun c => { c with cqs := aset c.cqs (leAt b 2 2) q })

/-- Every object of an image is placed in the slice, which becomes FROZEN. -/
def imagePlace (s : State) (t : Nat) (x : Slice) (secs : List (Nat × List (List Byte))) (keys : List (Nat × Nat)) : State :=
  let s := keys.foldl (fun s k => putKey s (x.ksBase + k.1) k.2) s
  let s := (sectionOf secs 2).foldl (fun s b => chanImport s t x b) s
  let s := (sectionOf secs 3).foldl (fun s b => qpImport s t b) s
  let s := (sectionOf secs 4).foldl (fun s b => regionImport s t b) s
  let s := showFlight (showCtrls ((sectionOf secs 6).foldl (fun s b => ctrlImport s t b) s))
  raise (slUpd s t (fun y => { y with state := 4 })) 0x024 [(2, t), (4, 4)]

/-- A slice image of an IMPORT_SLICE has been read. -/
def imageImport (s : State) (t : Nat) (x : Slice) (cmd bs : List Byte) : State × Option AdminRes :=
  match readImage bs with
  | none => failed s STS_IMAGE
  | some secs =>
    if imageWrong s t x secs then failed s STS_IMAGE
    else if imageUnfit s t x secs then failed s STS_IMAGE_FIT
    else if (sectionOf secs 5).isEmpty then (imagePlace s t x secs [], some {})
    else match imageSlot s cmd with
      | .inl e => failed s e
      | .inr (s', k) =>
        if keyLocked s then failed s STS_KEY_ERASED
        else match imageKeys k.key (sectionOf secs 5) with
          | none => failed s STS_UNWRAP
          | some keys => if !drbgUp s then failed s STS_ENTROPY else (imagePlace s' t x secs keys, some {})

/-- IMPORT_SLICE (R236): the first check that fails names the status, and nothing changes. -/
def execImportSlice (sl : Nat) (cmd : List Byte) (env : Env) (s : State) : Host.Outcome State Fault Refusal :=
  .next (if !mayRead s sl then s else ownerCmd s sl 0x4E cmd (fun s t x =>
    if x.state ≠ 1 || x.freeze.isSome || !sliceEmpty s t x then failed s STS_SLICE_STATE
    else adminRead s sl (par cmd 0x10 0 64) (par cmd 0x18 0 32) env (fun s bs => imageImport s t x cmd (fit (par cmd 0x18 0 32) bs))))

end Sys2Proof.Machine
end

