-- ==== Sys2Proof/Machine/Dispatch.lean ====
section
/-! DEFINITION. Machine/Dispatch.lean: one arm per command, each one direct call of its meaning. -/

namespace Sys2Proof.Machine

def exec (i : Instr) (s : State) : Host.Outcome State Fault Refusal :=
  match i with
  | .registerWrite req off be v env => Sys2Proof.Machine.execRegisterWrite req off be v env s
  | .loRegisterRead req off => Sys2Proof.Machine.execLoRegisterRead req off s
  | .rcRegisterRead req off => Sys2Proof.Machine.execRcRegisterRead req off s
  | .loRegisterWrite req off be v => Sys2Proof.Machine.execLoRegisterWrite req off be v s
  | .hiRegisterWrite req off be v => Sys2Proof.Machine.execHiRegisterWrite req off be v s
  | .aliasWrite req off be v => Sys2Proof.Machine.execAliasWrite req off be v s
  | .glUnlockWrite req be v => Sys2Proof.Machine.execGlUnlockWrite req be v s
  | .unlockWindowExpire => Sys2Proof.Machine.execUnlockWindowExpire s
  | .indDataRead req off => Sys2Proof.Machine.execIndDataRead req off s
  | .indDataWrite req off be v => Sys2Proof.Machine.execIndDataWrite req off be v s
  | .indCmdRead req off be v => Sys2Proof.Machine.execIndCmdRead req off be v s
  | .indDomainAnswer k word ok => Sys2Proof.Machine.execIndDomainAnswer k word ok s
  | .indOverrun k => Sys2Proof.Machine.execIndOverrun k s
  | .indTimeout k => Sys2Proof.Machine.execIndTimeout k s
  | .snapshotGo req be v => Sys2Proof.Machine.execSnapshotGo req be v s
  | .snapAtFire => Sys2Proof.Machine.execSnapAtFire s
  | .warmReset req be v => Sys2Proof.Machine.execWarmReset req be v s
  | .ftSrcCtlWrite req be v => Sys2Proof.Machine.execFtSrcCtlWrite req be v s
  | .ftPhaseInLoWrite req be v => Sys2Proof.Machine.execFtPhaseInLoWrite req be v s
  | .phaseSampleSubmit req be v => Sys2Proof.Machine.execPhaseSampleSubmit req be v s
  | .ppsInEdge => Sys2Proof.Machine.execPpsInEdge s
  | .ptmExchange => Sys2Proof.Machine.execPtmExchange s
  | .ptmExchangeDone master => Sys2Proof.Machine.execPtmExchangeDone master s
  | .sourceLostTimeout => Sys2Proof.Machine.execSourceLostTimeout s
  | .tclkInFault state => Sys2Proof.Machine.execTclkInFault state s
  | .ftStep req be v env => Sys2Proof.Machine.execFtStep req be v env s
  | .ractFire k env => Sys2Proof.Machine.execRactFire k env s
  | .departureRelease q => Sys2Proof.Machine.execDepartureRelease q s
  | .ppsOutRise => Sys2Proof.Machine.execPpsOutRise s
  | .ppsOutFall => Sys2Proof.Machine.execPpsOutFall s
  | .epochBoundary => Sys2Proof.Machine.execEpochBoundary s
  | .ldEpochCtlWrite req be v => Sys2Proof.Machine.execLdEpochCtlWrite req be v s
  | .configWrite link fnum off be v => Sys2Proof.Machine.execConfigWrite link fnum off be v s
  | .busMasterDisable link fnum => Sys2Proof.Machine.execBusMasterDisable link fnum s
  | .busMasterEnable link fnum => Sys2Proof.Machine.execBusMasterEnable link fnum s
  | .d3hotEntry link fnum => Sys2Proof.Machine.execD3hotEntry link fnum s
  | .d3hotExit link fnum => Sys2Proof.Machine.execD3hotExit link fnum s
  | .functionLevelReset link fnum => Sys2Proof.Machine.execFunctionLevelReset link fnum s
  | .flrEnd link fnum => Sys2Proof.Machine.execFlrEnd link fnum s
  | .vfEnableChange link on num => Sys2Proof.Machine.execVfEnableChange link on num s
  | .barResize link vf bar log => Sys2Proof.Machine.execBarResize link vf bar log s
  | .msixTableWrite link fnum idx word be v => Sys2Proof.Machine.execMsixTableWrite link fnum idx word be v s
  | .perstAssert link => Sys2Proof.Machine.execPerstAssert link s
  | .perstDeassert link => Sys2Proof.Machine.execPerstDeassert link s
  | .hotResetReceived link => Sys2Proof.Machine.execHotResetReceived link s
  | .hostLinkDown link => Sys2Proof.Machine.execHostLinkDown link s
  | .hostLinkUp link rate width flit => Sys2Proof.Machine.execHostLinkUp link rate width flit s
  | .hostReadCompletion link tag d => Sys2Proof.Machine.execHostReadCompletion link tag d s
  | .completionTimeout link tag => Sys2Proof.Machine.execCompletionTimeout link tag s
  | .tagWaitEnd link => Sys2Proof.Machine.execTagWaitEnd link s
  | .peerWindowRequest link fnum write addr len bs => Sys2Proof.Machine.execPeerWindowRequest link fnum write addr len bs s
  | .winSwap req be face v => Sys2Proof.Machine.execWinSwap req be face v s
  | .winOldDrained link fnum => Sys2Proof.Machine.execWinOldDrained link fnum s
  | .fnCfgWrite req be face v => Sys2Proof.Machine.execFnCfgWrite req be face v s
  | .ideCheckFail link k => Sys2Proof.Machine.execIdeCheckFail link k s
  | .spdmRequest link m => Sys2Proof.Machine.execSpdmRequest link m s
  | .rpMergeWrite req be v => Sys2Proof.Machine.execRpMergeWrite req be v s
  | .slotControlWrite req be p v => Sys2Proof.Machine.execSlotControlWrite req be p v s
  | .slotPerstRelease p => Sys2Proof.Machine.execSlotPerstRelease p s
  | .slotPowerDrop p => Sys2Proof.Machine.execSlotPowerDrop p s
  | .presenceChange p present => Sys2Proof.Machine.execPresenceChange p present s
  | .powerFault p => Sys2Proof.Machine.execPowerFault p s
  | .attentionButton p => Sys2Proof.Machine.execAttentionButton p s
  | .rpLinkDown p => Sys2Proof.Machine.execRpLinkDown p s
  | .rpLinkUp p rate width => Sys2Proof.Machine.execRpLinkUp p rate width s
  | .dcfgRead req be p v => Sys2Proof.Machine.execDcfgRead req be p v s
  | .dcfgWrite req be p v => Sys2Proof.Machine.execDcfgWrite req be p v s
  | .dcfgAnswer p result data => Sys2Proof.Machine.execDcfgAnswer p result data s
  | .driveWriteForward p id bytes => Sys2Proof.Machine.execDriveWriteForward p id bytes s
  | .driveCompletion p id timeout => Sys2Proof.Machine.execDriveCompletion p id timeout s
  | .pgModeWrite req be pg v => Sys2Proof.Machine.execPgModeWrite req be pg v s
  | .pgModeChangeDone pg => Sys2Proof.Machine.execPgModeChangeDone pg s
  | .portEnable req be p v => Sys2Proof.Machine.execPortEnable req be p v s
  | .portDisable req be p v => Sys2Proof.Machine.execPortDisable req be p v s
  | .signalDetect pg lane signal cdr => Sys2Proof.Machine.execSignalDetect pg lane signal cdr s
  | .trainingComplete p same taps => Sys2Proof.Machine.execTrainingComplete p same taps s
  | .trainingTimeout p lanes => Sys2Proof.Machine.execTrainingTimeout p lanes s
  | .trainFailRetry p => Sys2Proof.Machine.execTrainFailRetry p s
  | .lockChange p lock lf rf => Sys2Proof.Machine.execLockChange p lock lf rf s
  | .debounceExpire p => Sys2Proof.Machine.execDebounceExpire p s
  | .fecDegradeWindow p cw uncorr syms => Sys2Proof.Machine.execFecDegradeWindow p cw uncorr syms s
  | .frameReceive p b fcsOk uncorr cut => Sys2Proof.Machine.execFrameReceive p b fcsOk uncorr cut s
  | .macControlFrame p b => Sys2Proof.Machine.execMacControlFrame p b s
  | .pauseTimerExpire p => Sys2Proof.Machine.execPauseTimerExpire p s
  | .pfcWatchdog p c => Sys2Proof.Machine.execPfcWatchdog p c s
  | .pfcRefresh p => Sys2Proof.Machine.execPfcRefresh p s
  | .frameTransmit p => Sys2Proof.Machine.execFrameTransmit p s
  | .tsFifoPop req p => Sys2Proof.Machine.execTsFifoPop req p s
  | .rclkSquelch pg => Sys2Proof.Machine.execRclkSquelch pg s
  | .rclkResume pg => Sys2Proof.Machine.execRclkResume pg s
  | .doorbell link fnum page be => Sys2Proof.Machine.execDoorbell link fnum page be s
  | .pidxWrite link fnum page slot be v => Sys2Proof.Machine.execPidxWrite link fnum page slot be v s
  | .cidxWrite link fnum page slot be v => Sys2Proof.Machine.execCidxWrite link fnum page slot be v s
  | .cqArm link fnum page slot be v => Sys2Proof.Machine.execCqArm link fnum page slot be v s
  | .descriptorFetch ch => Sys2Proof.Machine.execDescriptorFetch ch s
  | .descriptorArrive read => Sys2Proof.Machine.execDescriptorArrive read s
  | .completionWrite ch => Sys2Proof.Machine.execCompletionWrite ch s
  | .ethTxCompletion ch => Sys2Proof.Machine.execEthTxCompletion ch s
  | .msixModTimer ch => Sys2Proof.Machine.execMsixModTimer ch s
  | .nop sl cmd => Sys2Proof.Machine.execNop sl cmd s
  | .queryStatus sl cmd => Sys2Proof.Machine.execQueryStatus sl cmd s
  | .createChannel sl cmd => Sys2Proof.Machine.execCreateChannel sl cmd s
  | .destroyChannel sl cmd => Sys2Proof.Machine.execDestroyChannel sl cmd s
  | .modifyChannel sl cmd => Sys2Proof.Machine.execModifyChannel sl cmd s
  | .disableChannel sl cmd => Sys2Proof.Machine.execDisableChannel sl cmd s
  | .enableChannel sl cmd => Sys2Proof.Machine.execEnableChannel sl cmd s
  | .resetChannel sl cmd => Sys2Proof.Machine.execResetChannel sl cmd s
  | .queryChannel sl cmd env => Sys2Proof.Machine.execQueryChannel sl cmd env s
  | .aqEnable req be sl v => Sys2Proof.Machine.execAqEnable req be sl v s
  | .aqDisable req be sl v => Sys2Proof.Machine.execAqDisable req be sl v s
  | .slCtlReset req be sl v => Sys2Proof.Machine.execSlCtlReset req be sl v s
  | .createSlice sl cmd => Sys2Proof.Machine.execCreateSlice sl cmd s
  | .destroySlice sl cmd => Sys2Proof.Machine.execDestroySlice sl cmd s
  | .setQuota sl cmd => Sys2Proof.Machine.execSetQuota sl cmd s
  | .queryQuota sl cmd env => Sys2Proof.Machine.execQueryQuota sl cmd env s
  | .resetSlice sl cmd => Sys2Proof.Machine.execResetSlice sl cmd s
  | .querySlice sl cmd => Sys2Proof.Machine.execQuerySlice sl cmd s
  | .sliceResetStart sl => Sys2Proof.Machine.execSliceResetStart sl s
  | .sliceResetEnd sl => Sys2Proof.Machine.execSliceResetEnd sl s
  | .backgroundZero sl mib => Sys2Proof.Machine.execBackgroundZero sl mib s
  | .logStart sl cmd => Sys2Proof.Machine.execLogStart sl cmd s
  | .logFlush sl cmd env => Sys2Proof.Machine.execLogFlush sl cmd env s
  | .logStop sl cmd => Sys2Proof.Machine.execLogStop sl cmd s
  | .freezeSlice sl cmd => Sys2Proof.Machine.execFreezeSlice sl cmd s
  | .freezeComplete sl => Sys2Proof.Machine.execFreezeComplete sl s
  | .freezeTimeout sl => Sys2Proof.Machine.execFreezeTimeout sl s
  | .exportSlice sl cmd env => Sys2Proof.Machine.execExportSlice sl cmd env s
  | .importSlice sl cmd env => Sys2Proof.Machine.execImportSlice sl cmd env s
  | .thawSlice sl cmd => Sys2Proof.Machine.execThawSlice sl cmd s
  | .ingressEntry role fl mark => Sys2Proof.Machine.execIngressEntry role fl mark s
  | .flightStep p fl seq kind => Sys2Proof.Machine.execFlightStep p fl seq kind s
  | .ingressRetire role twin => Sys2Proof.Machine.execIngressRetire role twin s
  | .arrayMarkerRetire role fl => Sys2Proof.Machine.execArrayMarkerRetire role fl s
  | .reentryRelease id => Sys2Proof.Machine.execReentryRelease id s
  | .gleanWaitExpire id => Sys2Proof.Machine.execGleanWaitExpire id s
  | .gleanAge p slot => Sys2Proof.Machine.execGleanAge p slot s
  | .parseWrite req be st v => Sys2Proof.Machine.execParseWrite req be st v s
  | .parseRead req be st v => Sys2Proof.Machine.execParseRead req be st v s
  | .tableLookup req be site v => Sys2Proof.Machine.execTableLookup req be site v s
  | .tableRead req be site v => Sys2Proof.Machine.execTableRead req be site v s
  | .tableInsert req be site v => Sys2Proof.Machine.execTableInsert req be site v s
  | .tableUpdate req be site v => Sys2Proof.Machine.execTableUpdate req be site v s
  | .tableDelete req be site v => Sys2Proof.Machine.execTableDelete req be site v s
  | .tableWrite req be site v => Sys2Proof.Machine.execTableWrite req be site v s
  | .tableErase req be site v => Sys2Proof.Machine.execTableErase req be site v s
  | .tableIter req be site v => Sys2Proof.Machine.execTableIter req be site v s
  | .tableClear req be site v => Sys2Proof.Machine.execTableClear req be site v s
  | .tableCommandResume st => Sys2Proof.Machine.execTableCommandResume st s
  | .tblCfgApply req be p t v => Sys2Proof.Machine.execTblCfgApply req be p t v s
  | .sheafSweep => Sys2Proof.Machine.execSheafSweep s
  | .tcamScrub p t found => Sys2Proof.Machine.execTcamScrub p t found s
  | .l2Learn p => Sys2Proof.Machine.execL2Learn p s
  | .l2AgeingPass p => Sys2Proof.Machine.execL2AgeingPass p s
  | .l2LoadComplete part => Sys2Proof.Machine.execL2LoadComplete part s
  | .deepFetchStart p t b => Sys2Proof.Machine.execDeepFetchStart p t b s
  | .deepFetchComplete p t b ok => Sys2Proof.Machine.execDeepFetchComplete p t b ok s
  | .sheafCommit req be v => Sys2Proof.Machine.execSheafCommit req be v s
  | .sheafCommitAt req be v => Sys2Proof.Machine.execSheafCommitAt req be v s
  | .sheafCommitEffect => Sys2Proof.Machine.execSheafCommitEffect s
  | .sheafCancel req be v => Sys2Proof.Machine.execSheafCancel req be v s
  | .sheafUnstage req be v => Sys2Proof.Machine.execSheafUnstage req be v s
  | .sheafDrain => Sys2Proof.Machine.execSheafDrain s
  | .sheafDrainLimit => Sys2Proof.Machine.execSheafDrainLimit s
  | .arrayRead req be st fl v => Sys2Proof.Machine.execArrayRead req be st fl v s
  | .arrayReadSnap req be st fl v => Sys2Proof.Machine.execArrayReadSnap req be st fl v s
  | .arrayWrite req be st fl v => Sys2Proof.Machine.execArrayWrite req be st fl v s
  | .arrayReadClear req be st fl v => Sys2Proof.Machine.execArrayReadClear req be st fl v s
  | .arrayClear req be st fl v => Sys2Proof.Machine.execArrayClear req be st fl v s
  | .arrCfgWrite req be p fl a v => Sys2Proof.Machine.execArrCfgWrite req be p fl a v s
  | .rehearsalStart req be v => Sys2Proof.Machine.execRehearsalStart req be v s
  | .rehearsalStop req be v => Sys2Proof.Machine.execRehearsalStop req be v s
  | .ucDataWrite req be p fl k v => Sys2Proof.Machine.execUcDataWrite req be p fl k v s
  | .ucDataRead req p fl k => Sys2Proof.Machine.execUcDataRead req p fl k s
  | .writeNw req be p fl k v => Sys2Proof.Machine.execWriteNw req be p fl k v s
  | .readNw req be p fl k v => Sys2Proof.Machine.execReadNw req be p fl k v s
  | .stepCtlWrite req be p fl k v => Sys2Proof.Machine.execStepCtlWrite req be p fl k v s
  | .loadBusyTimeout p fl k => Sys2Proof.Machine.execLoadBusyTimeout p fl k s
  | .ucScrub p fl k store bank addr => Sys2Proof.Machine.execUcScrub p fl k store bank addr s
  | .inlineVerifyDone q id => Sys2Proof.Machine.execInlineVerifyDone q id s
  | .dispatch root => Sys2Proof.Machine.execDispatch root s
  | .egressRetire role twin sts => Sys2Proof.Machine.execEgressRetire role twin sts s
  | .hostGrainWaitEnd ch idx => Sys2Proof.Machine.execHostGrainWaitEnd ch idx s
  | .overflowCopyDone q id => Sys2Proof.Machine.execOverflowCopyDone q id s
  | .ovfSizeWrite req be v => Sys2Proof.Machine.execOvfSizeWrite req be v s
  | .nodeSelWrite req be v => Sys2Proof.Machine.execNodeSelWrite req be v s
  | .apply req be v => Sys2Proof.Machine.execApply req be v s
  | .flush req be v => Sys2Proof.Machine.execFlush req be v s
  | .clrCnt req be v => Sys2Proof.Machine.execClrCnt req be v s
  | .meterAssign req be st fl v => Sys2Proof.Machine.execMeterAssign req be st fl v s
  | .meterRefreshPass role fl a => Sys2Proof.Machine.execMeterRefreshPass role fl a s
  | .keyImport sl cmd env => Sys2Proof.Machine.execKeyImport sl cmd env s
  | .keyGenerate sl cmd => Sys2Proof.Machine.execKeyGenerate sl cmd s
  | .keyErase sl cmd => Sys2Proof.Machine.execKeyErase sl cmd s
  | .keyQuery sl cmd => Sys2Proof.Machine.execKeyQuery sl cmd s
  | .cctxCreate sl cmd env => Sys2Proof.Machine.execCctxCreate sl cmd env s
  | .cctxDestroy sl cmd => Sys2Proof.Machine.execCctxDestroy sl cmd s
  | .cctxQuery sl cmd env => Sys2Proof.Machine.execCctxQuery sl cmd env s
  | .keyDerived p fl qp ctx => Sys2Proof.Machine.execKeyDerived p fl qp ctx s
  | .laneGo be sl l v => Sys2Proof.Machine.execLaneGo be sl l v s
  | .lookasideComplete id env => Sys2Proof.Machine.execLookasideComplete id env s
  | .keyEraseAlarm bits => Sys2Proof.Machine.execKeyEraseAlarm bits s
  | .ksAlarmWrite req be v active => Sys2Proof.Machine.execKsAlarmWrite req be v active s
  | .entropyFail test => Sys2Proof.Machine.execEntropyFail test s
  | .entropyRecover => Sys2Proof.Machine.execEntropyRecover s
  | .qpModify sl cmd env => Sys2Proof.Machine.execQpModify sl cmd env s
  | .qpQuery sl cmd env => Sys2Proof.Machine.execQpQuery sl cmd env s
  | .regRegion sl cmd => Sys2Proof.Machine.execRegRegion sl cmd s
  | .deregRegion sl cmd => Sys2Proof.Machine.execDeregRegion sl cmd s
  | .deregComplete key => Sys2Proof.Machine.execDeregComplete key s
  | .revokeSlow key => Sys2Proof.Machine.execRevokeSlow key s
  | .queryRegion sl cmd env => Sys2Proof.Machine.execQueryRegion sl cmd env s
  | .pathSet sl cmd env => Sys2Proof.Machine.execPathSet sl cmd env s
  | .pathQuery sl cmd env => Sys2Proof.Machine.execPathQuery sl cmd env s
  | .grmtPacketGenerate qp what env => Sys2Proof.Machine.execGrmtPacketGenerate qp what env s
  | .ackDelayTimer qp => Sys2Proof.Machine.execAckDelayTimer qp s
  | .retransmitTimeout qp => Sys2Proof.Machine.execRetransmitTimeout qp s
  | .rnrWaitExpire qp => Sys2Proof.Machine.execRnrWaitExpire qp s
  | .msgTimeout qp => Sys2Proof.Machine.execMsgTimeout qp s
  | .qpFetchComplete qp sts => Sys2Proof.Machine.execQpFetchComplete qp sts s
  | .qpEvict start => Sys2Proof.Machine.execQpEvict start s
  | .qpWritebackDone qp sts => Sys2Proof.Machine.execQpWritebackDone qp sts s
  | .sqTailDoorbell link fnum y v => Sys2Proof.Machine.execSqTailDoorbell link fnum y v s
  | .cqHeadDoorbell link fnum y v => Sys2Proof.Machine.execCqHeadDoorbell link fnum y v s
  | .ccEnable link fnum v => Sys2Proof.Machine.execCcEnable link fnum v s
  | .ccDisable link fnum v => Sys2Proof.Machine.execCcDisable link fnum v s
  | .controllerDrainEnd c => Sys2Proof.Machine.execControllerDrainEnd c s
  | .ccShutdown link fnum v => Sys2Proof.Machine.execCcShutdown link fnum v s
  | .deleteIoSubmissionQueue c sqe => Sys2Proof.Machine.execDeleteIoSubmissionQueue c sqe s
  | .createIoSubmissionQueue c sqe => Sys2Proof.Machine.execCreateIoSubmissionQueue c sqe s
  | .getLogPage c sqe env => Sys2Proof.Machine.execGetLogPage c sqe env s
  | .deleteIoCompletionQueue c sqe => Sys2Proof.Machine.execDeleteIoCompletionQueue c sqe s
  | .createIoCompletionQueue c sqe => Sys2Proof.Machine.execCreateIoCompletionQueue c sqe s
  | .identify c sqe env => Sys2Proof.Machine.execIdentify c sqe env s
  | .abort c sqe ahead => Sys2Proof.Machine.execAbort c sqe ahead s
  | .setFeatures c sqe => Sys2Proof.Machine.execSetFeatures c sqe s
  | .getFeatures c sqe => Sys2Proof.Machine.execGetFeatures c sqe s
  | .asynchronousEventRequest c sqe => Sys2Proof.Machine.execAsynchronousEventRequest c sqe s
  | .firmwareImageDownload c sqe env => Sys2Proof.Machine.execFirmwareImageDownload c sqe env s
  | .firmwareCommit c sqe => Sys2Proof.Machine.execFirmwareCommit c sqe s
  | .firmwareActivationDone c => Sys2Proof.Machine.execFirmwareActivationDone c s
  | .deviceSelfTest c sqe => Sys2Proof.Machine.execDeviceSelfTest c sqe s
  | .selfTestSegment c ok => Sys2Proof.Machine.execSelfTestSegment c ok s
  | .selfTestResume c => Sys2Proof.Machine.execSelfTestResume c s
  | .nvmeFlush c q sqe => Sys2Proof.Machine.execNvmeFlush c q sqe s
  | .nvmeWrite c q sqe env held => Sys2Proof.Machine.execNvmeWrite c q sqe env held s
  | .nvmeRead c q sqe env held => Sys2Proof.Machine.execNvmeRead c q sqe env held s
  | .writeZeroes c q sqe env held => Sys2Proof.Machine.execWriteZeroes c q sqe env held s
  | .datasetManagement c q sqe env held => Sys2Proof.Machine.execDatasetManagement c q sqe env held s
  | .backingComplete id status bytes => Sys2Proof.Machine.execBackingComplete id status bytes s
  | .journalReplay p j0 j1 blocks => Sys2Proof.Machine.execJournalReplay p j0 j1 blocks s
  | .poolMemberFail p m cause => Sys2Proof.Machine.execPoolMemberFail p m cause s
  | .poolRebuildDone p => Sys2Proof.Machine.execPoolRebuildDone p s
  | .nsNotReady n => Sys2Proof.Machine.execNsNotReady n s
  | .nsReady n => Sys2Proof.Machine.execNsReady n s
  | .storageCapsule c bytes => Sys2Proof.Machine.execStorageCapsule c bytes s
  | .ctrlCreate sl cmd => Sys2Proof.Machine.execCtrlCreate sl cmd s
  | .ctrlDestroy sl cmd => Sys2Proof.Machine.execCtrlDestroy sl cmd s
  | .ctrlQuery sl cmd env => Sys2Proof.Machine.execCtrlQuery sl cmd env s
  | .poolCreate sl cmd d0 d1 => Sys2Proof.Machine.execPoolCreate sl cmd d0 d1 s
  | .poolDestroy sl cmd => Sys2Proof.Machine.execPoolDestroy sl cmd s
  | .poolRebuild sl cmd d => Sys2Proof.Machine.execPoolRebuild sl cmd d s
  | .poolQuery sl cmd => Sys2Proof.Machine.execPoolQuery sl cmd s
  | .nsCreate sl cmd d => Sys2Proof.Machine.execNsCreate sl cmd d s
  | .nsDestroy sl cmd => Sys2Proof.Machine.execNsDestroy sl cmd s
  | .nsAttach sl cmd => Sys2Proof.Machine.execNsAttach sl cmd s
  | .nsDetach sl cmd => Sys2Proof.Machine.execNsDetach sl cmd s
  | .nsModify sl cmd => Sys2Proof.Machine.execNsModify sl cmd s
  | .nsQuery sl cmd => Sys2Proof.Machine.execNsQuery sl cmd s
  | .chPut t n rs1 rs2 f7 => Sys2Proof.Machine.execChPut t n rs1 rs2 f7 s
  | .chRecv t n rs1 addr f7 deadline => Sys2Proof.Machine.execChRecv t n rs1 addr f7 deadline s
  | .chWait t n rs1 rs2f f7 deadline => Sys2Proof.Machine.execChWait t n rs1 rs2f f7 deadline s
  | .chAbort t n rs1 rs2f f7 => Sys2Proof.Machine.execChAbort t n rs1 rs2f f7 s
  | .chTimer t n rs1 rs2 f7 => Sys2Proof.Machine.execChTimer t n rs1 rs2 f7 s
  | .chInfo t n rs1 rs2f f7 => Sys2Proof.Machine.execChInfo t n rs1 rs2f f7 s
  | .channelUnblock t n => Sys2Proof.Machine.execChannelUnblock t n s
  | .channelDeadline t n => Sys2Proof.Machine.execChannelDeadline t n s
  | .threadTimerExpire t n k => Sys2Proof.Machine.execThreadTimerExpire t n k s
  | .thHalt req be t n v => Sys2Proof.Machine.execThHalt req be t n v s
  | .thResume req be t n v => Sys2Proof.Machine.execThResume req be t n v s
  | .thReset req be t n v => Sys2Proof.Machine.execThReset req be t n v s
  | .thCancel req be t n v => Sys2Proof.Machine.execThCancel req be t n v s
  | .thWake req be t n v => Sys2Proof.Machine.execThWake req be t n v s
  | .threadContextWrite req be t n k v => Sys2Proof.Machine.execThreadContextWrite req be t n k v s
  | .thGroupWrite req be t n v => Sys2Proof.Machine.execThGroupWrite req be t n v s
  | .portSelWrite req be t v => Sys2Proof.Machine.execPortSelWrite req be t v s
  | .portApply req be t v => Sys2Proof.Machine.execPortApply req be t v s
  | .dmaRequest t => Sys2Proof.Machine.execDmaRequest t s
  | .dmaComplete t env => Sys2Proof.Machine.execDmaComplete t env s
  | .threadFault t n mode cause xcause xepc xtval => Sys2Proof.Machine.execThreadFault t n mode cause xcause xepc xtval s
  | .faultRecordPost t => Sys2Proof.Machine.execFaultRecordPost t s
  | .standstill t g => Sys2Proof.Machine.execStandstill t g s
  | .dbgHalt req be t v => Sys2Proof.Machine.execDbgHalt req be t v s
  | .dbgResume req be t v => Sys2Proof.Machine.execDbgResume req be t v s
  | .dbgStep req be t v pc => Sys2Proof.Machine.execDbgStep req be t v pc s
  | .dbgRdReg req be t v => Sys2Proof.Machine.execDbgRdReg req be t v s
  | .dbgWrReg req be t v => Sys2Proof.Machine.execDbgWrReg req be t v s
  | .dbgRdMem req be t v pa => Sys2Proof.Machine.execDbgRdMem req be t v pa s
  | .dbgWrMem req be t v pa => Sys2Proof.Machine.execDbgWrMem req be t v pa s
  | .abandon req be t v => Sys2Proof.Machine.execAbandon req be t v s
  | .dbgReset req be t v => Sys2Proof.Machine.execDbgReset req be t v s
  | .bpSet req be t v => Sys2Proof.Machine.execBpSet req be t v s
  | .bpClr req be t v => Sys2Proof.Machine.execBpClr req be t v s
  | .breakpointHit t n pc => Sys2Proof.Machine.execBreakpointHit t n pc s
  | .tillerRelease t role => Sys2Proof.Machine.execTillerRelease t role s
  | .heartbeat u => Sys2Proof.Machine.execHeartbeat u s
  | .heartbeatTimeout u => Sys2Proof.Machine.execHeartbeatTimeout u s
  | .machineCheck u what => Sys2Proof.Machine.execMachineCheck u what s
  | .takeoverComplete kind role bad => Sys2Proof.Machine.execTakeoverComplete kind role bad s
  | .fence req be v => Sys2Proof.Machine.execFence req be v s
  | .readmit req be v => Sys2Proof.Machine.execReadmit req be v s
  | .autoReadmit u => Sys2Proof.Machine.execAutoReadmit u s
  | .retire req be v => Sys2Proof.Machine.execRetire req be v s
  | .handover req be v => Sys2Proof.Machine.execHandover req be v s
  | .handoverEnd => Sys2Proof.Machine.execHandoverEnd s
  | .rollingUpdateStep => Sys2Proof.Machine.execRollingUpdateStep s
  | .selfTestDone u outcome => Sys2Proof.Machine.execSelfTestDone u outcome s
  | .gmLose req be c v => Sys2Proof.Machine.execGmLose req be c v s
  | .controllerLost c cause => Sys2Proof.Machine.execControllerLost c cause s
  | .gmRetrain req be c v ok => Sys2Proof.Machine.execGmRetrain req be c v ok s
  | .resyncComplete c => Sys2Proof.Machine.execResyncComplete c s
  | .guardedReadFix c => Sys2Proof.Machine.execGuardedReadFix c s
  | .eventDeliver => Sys2Proof.Machine.execEventDeliver s
  | .rateLimitWindow src key => Sys2Proof.Machine.execRateLimitWindow src key s
  | .tmRingBind req be r v => Sys2Proof.Machine.execTmRingBind req be r v s
  | .hitarrWrite req be p t v => Sys2Proof.Machine.execHitarrWrite req be p t v s
  | .info req be v => Sys2Proof.Machine.execInfo req be v s
  | .logRead req be v env => Sys2Proof.Machine.execLogRead req be v env s
  | .bindMgmt req be v => Sys2Proof.Machine.execBindMgmt req be v s
  | .fwBegin req be v => Sys2Proof.Machine.execFwBegin req be v s
  | .fwWrite req be v env => Sys2Proof.Machine.execFwWrite req be v env s
  | .fwVerify req be v => Sys2Proof.Machine.execFwVerify req be v s
  | .fwActivate req be v => Sys2Proof.Machine.execFwActivate req be v s
  | .fwCommit req be v => Sys2Proof.Machine.execFwCommit req be v s
  | .fwRevert req be v => Sys2Proof.Machine.execFwRevert req be v s
  | .stairProbe req be v env => Sys2Proof.Machine.execStairProbe req be v env s
  | .ozKeyErase req be v => Sys2Proof.Machine.execOzKeyErase req be v s
  | .lcTransition req be v env => Sys2Proof.Machine.execLcTransition req be v env s
  | .bcrWrite req be v env => Sys2Proof.Machine.execBcrWrite req be v env s
  | .ozRestart req be v => Sys2Proof.Machine.execOzRestart req be v s
  | .nonce req be v => Sys2Proof.Machine.execNonce req be v s
  | .debugOpen req be v env => Sys2Proof.Machine.execDebugOpen req be v env s
  | .debugClose req be v => Sys2Proof.Machine.execDebugClose req be v s
  | .debugExpiry => Sys2Proof.Machine.execDebugExpiry s
  | .mctpMessage iface m => Sys2Proof.Machine.execMctpMessage iface m s
  | .mgmtFrameReceive bytes good => Sys2Proof.Machine.execMgmtFrameReceive bytes good s
  | .mgmtFrameSend addr len => Sys2Proof.Machine.execMgmtFrameSend addr len s
  | .pmbusPoll rail status => Sys2Proof.Machine.execPmbusPoll rail status s
  | .supplyDip rail mvs => Sys2Proof.Machine.execSupplyDip rail mvs s
  | .supplyClear rail ends => Sys2Proof.Machine.execSupplyClear rail ends s
  | .throttleRelease => Sys2Proof.Machine.execThrottleRelease s
  | .unstableEnd => Sys2Proof.Machine.execUnstableEnd s
  | .supplyReset read => Sys2Proof.Machine.execSupplyReset read s
  | .supplyResetEnd pins => Sys2Proof.Machine.execSupplyResetEnd pins s
  | .thermalLevel sensor reading => Sys2Proof.Machine.execThermalLevel sensor reading s
  | .logMirror => Sys2Proof.Machine.execLogMirror s
  | .ozelmFault cause => Sys2Proof.Machine.execOzelmFault cause s
  | .ozelmRestartDone => Sys2Proof.Machine.execOzelmRestartDone s
  | .powerGood bifs clks perst flash => Sys2Proof.Machine.execPowerGood bifs clks perst flash s
  | .powerGoodDeassert => Sys2Proof.Machine.execPowerGoodDeassert s
  | .pllLockTimeout => Sys2Proof.Machine.execPllLockTimeout s
  | .startupStage r => Sys2Proof.Machine.execStartupStage r s
  | .clockMonitorExcursion monitor ppm => Sys2Proof.Machine.execClockMonitorExcursion monitor ppm s
  | .rpErrorMessage p bit sev => Sys2Proof.Machine.execRpErrorMessage p bit sev s

end Sys2Proof.Machine
end

