-- ==== Sys2Proof/Safety.lean ====
section
/-! DEFINITION. Safety.lean: what a safe run is, and the words that the statements share: the parts of the state that a
command leaves alone. -/

namespace Sys2Proof.Machine

/-- The parts of the state: its fields. -/
inductive Part where
  | pending | regs | snap | time | acc | ev | mem | host | ch | slices | net | stairs | golden | lpm | sheaf | land | unit | tils | tm | oz | cy | rm | sv | out | draws
deriving DecidableEq, Repr
/-- A part holds the same in both states. -/
def Part.same (s t : State) : Part → Prop
  | .pending => t.pending = s.pending
  | .regs => t.regs = s.regs
  | .snap => t.snap = s.snap
  | .time => t.time = s.time
  | .acc => t.acc = s.acc
  | .ev => t.ev = s.ev
  | .mem => t.mem = s.mem
  | .host => t.host = s.host
  | .ch => t.ch = s.ch
  | .slices => t.slices = s.slices
  | .net => t.net = s.net
  | .stairs => t.stairs = s.stairs
  | .golden => t.golden = s.golden
  | .lpm => t.lpm = s.lpm
  | .sheaf => t.sheaf = s.sheaf
  | .land => t.land = s.land
  | .unit => t.unit = s.unit
  | .tils => t.tils = s.tils
  | .tm => t.tm = s.tm
  | .oz => t.oz = s.oz
  | .cy => t.cy = s.cy
  | .rm => t.rm = s.rm
  | .sv => t.sv = s.sv
  | .out => t.out = s.out
  | .draws => t.draws = s.draws

/-- Every part outside the list is left as it was: the frame of a command. -/
structure Keeps (l : List Part) (s t : State) : Prop where
  same : ∀ p, l.contains p = false → p.same s t

/-- Every part but the queue. -/
def butPending : List Part := [.regs, .snap, .time, .acc, .ev, .mem, .host, .ch, .slices, .net, .stairs, .golden, .lpm, .sheaf, .land, .unit, .tils, .tm, .oz, .cy, .rm, .sv, .out, .draws]

/-- The parts of the state that a command may touch: its frame is every other part. -/
def touches : Instr → List Part
  | .registerWrite _ _ _ _ _ | .loRegisterWrite _ _ _ _ | .hiRegisterWrite _ _ _ _ | .aliasWrite _ _ _ _ | .ftStep _ _ _ _ | .ractFire _ _ =>
    butPending
  | .loRegisterRead _ _ | .rcRegisterRead _ _ =>
    [.regs, .acc, .host, .net, .out]
  | .glUnlockWrite _ _ _ | .indDataWrite _ _ _ _ | .indCmdRead _ _ _ _ | .ftPhaseInLoWrite _ _ _ | .ovfSizeWrite _ _ _ | .ksAlarmWrite _ _ _ _
  | .threadContextWrite _ _ _ _ _ _ | .thGroupWrite _ _ _ _ _ | .portSelWrite _ _ _ _ | .tmRingBind _ _ _ _ | .hitarrWrite _ _ _ _ _ =>
    [.regs, .acc, .ev, .out]
  | .unlockWindowExpire =>
    [.acc]
  | .indDataRead _ _ | .indOverrun _ | .indTimeout _ =>
    [.regs, .acc, .out]
  | .indDomainAnswer _ _ _ =>
    [.regs, .acc, .net, .out]
  | .snapshotGo _ _ _ =>
    [.regs, .snap, .time, .acc, .ev, .stairs, .out]
  | .snapAtFire =>
    [.regs, .snap, .time, .ev, .stairs]
  | .warmReset _ _ _ | .supplyReset _ | .thermalLevel _ _ | .powerGoodDeassert =>
    [.regs, .snap, .time, .acc, .ev, .mem, .host, .ch, .slices, .net, .stairs, .golden, .lpm, .sheaf, .land, .unit, .tils, .tm, .oz, .cy, .rm, .sv, .out]
  | .ftSrcCtlWrite _ _ _ | .phaseSampleSubmit _ _ _ | .ldEpochCtlWrite _ _ _ =>
    [.regs, .time, .acc, .ev, .out]
  | .ppsInEdge | .ptmExchangeDone _ | .sourceLostTimeout | .tclkInFault _ =>
    [.regs, .time, .ev]
  | .ptmExchange | .ppsOutRise | .ppsOutFall =>
    [.time, .out]
  | .departureRelease _ | .gleanWaitExpire _ | .overflowCopyDone _ _ =>
    [.regs, .ev, .land]
  | .epochBoundary =>
    [.regs, .snap, .time, .ev, .mem, .host, .ch, .slices, .stairs, .tm, .out]
  | .configWrite _ _ _ _ _ =>
    [.regs, .time, .ev, .mem, .host, .ch, .slices, .land, .cy, .rm, .sv, .out, .draws]
  | .busMasterDisable _ _ | .busMasterEnable _ _ | .d3hotEntry _ _ | .d3hotExit _ _ =>
    [.regs, .ev, .mem, .host, .ch, .slices, .land, .cy, .rm, .sv, .out, .draws]
  | .functionLevelReset _ _ | .vfEnableChange _ _ _ | .perstAssert _ | .hotResetReceived _ | .hostLinkDown _ =>
    [.regs, .time, .ev, .mem, .host, .ch, .slices, .out]
  | .flrEnd _ _ | .barResize _ _ _ _ | .winOldDrained _ _ | .attentionButton _ | .rpLinkDown _ | .rpLinkUp _ _ _ | .rpErrorMessage _ _ _ =>
    [.regs, .ev, .host]
  | .msixTableWrite _ _ _ _ _ _ | .tagWaitEnd _ | .slotPowerDrop _ =>
    [.regs, .host, .out]
  | .perstDeassert _ | .entropyFail _ | .entropyRecover | .resyncComplete _ | .rateLimitWindow _ _ | .clockMonitorExcursion _ _ =>
    [.regs, .ev]
  | .hostLinkUp _ _ _ _ | .rclkSquelch _ | .rclkResume _ =>
    [.regs, .ev, .out]
  | .hostReadCompletion _ _ _ | .completionTimeout _ _ | .setQuota _ _ | .sliceResetEnd _ | .grmtPacketGenerate _ _ _ =>
    [.regs, .ev, .mem, .host, .ch, .slices, .land, .rm, .out, .draws]
  | .peerWindowRequest _ _ _ _ _ _ =>
    [.regs, .ev, .mem, .host, .slices, .out]
  | .winSwap _ _ _ _ | .fnCfgWrite _ _ _ _ | .rpMergeWrite _ _ _ | .dcfgRead _ _ _ _ | .dcfgWrite _ _ _ _ =>
    [.regs, .acc, .ev, .host, .out]
  | .ideCheckFail _ _ | .dcfgAnswer _ _ _ | .driveCompletion _ _ _ =>
    [.regs, .ev, .host, .draws]
  | .spdmRequest _ _ =>
    [.regs, .ev, .mem, .host, .unit, .oz, .cy, .out, .draws]
  | .slotControlWrite _ _ _ _ =>
    [.regs, .acc, .ev, .host, .ch, .land, .rm, .out]
  | .slotPerstRelease _ =>
    [.host, .out]
  | .presenceChange _ _ | .powerFault _ =>
    [.regs, .ev, .host, .out]
  | .driveWriteForward _ _ _ =>
    [.mem, .host, .slices, .out]
  | .pgModeWrite _ _ _ _ =>
    [.regs, .acc, .ev, .net, .out]
  | .pgModeChangeDone _ | .signalDetect _ _ _ _ | .trainingComplete _ _ _ | .trainingTimeout _ _ | .trainFailRetry _ | .lockChange _ _ _ _
  | .debounceExpire _ | .controllerLost _ _ =>
    [.regs, .ev, .ch, .net, .land, .rm, .out]
  | .portEnable _ _ _ _ | .portDisable _ _ _ _ | .gmLose _ _ _ _ | .gmRetrain _ _ _ _ _ =>
    [.regs, .acc, .ev, .ch, .net, .land, .rm, .out]
  | .fecDegradeWindow _ _ _ _ | .pfcWatchdog _ _ =>
    [.regs, .ev, .net]
  | .frameReceive _ _ _ _ _ =>
    [.regs, .ev, .net, .land]
  | .macControlFrame _ _ | .pauseTimerExpire _ =>
    [.regs, .net]
  | .pfcRefresh _ =>
    [.regs, .net, .out]
  | .frameTransmit _ =>
    [.regs, .ev, .ch, .net, .land, .out]
  | .tsFifoPop _ _ =>
    [.acc, .net, .out]
  | .doorbell _ _ _ _ | .cqArm _ _ _ _ _ _ | .destroySlice _ _ | .resetSlice _ _ | .freezeComplete _ =>
    [.regs, .ev, .mem, .host, .ch, .slices, .out]
  | .pidxWrite _ _ _ _ _ _ =>
    [.regs, .ev, .ch]
  | .cidxWrite _ _ _ _ _ _ =>
    [.regs, .ev, .mem, .host, .ch, .slices, .stairs, .sheaf, .out]
  | .descriptorFetch _ =>
    [.regs, .ev, .host, .ch, .rm, .out]
  | .descriptorArrive _ =>
    [.regs, .ev, .mem, .host, .ch, .slices, .land, .cy, .rm, .out, .draws]
  | .completionWrite _ | .ethTxCompletion _ | .destroyChannel _ _ | .disableChannel _ _ | .enableChannel _ _ | .resetChannel _ _ | .deregComplete _
  | .pathSet _ _ _ =>
    [.regs, .ev, .mem, .host, .ch, .slices, .rm, .out, .draws]
  | .msixModTimer _ =>
    [.host, .ch, .out]
  | .nop _ _ | .queryStatus _ _ | .modifyChannel _ _ | .queryChannel _ _ _ | .createSlice _ _ | .querySlice _ _ | .logStart _ _ | .logFlush _ _ _
  | .logStop _ _ | .keyQuery _ _ | .cctxQuery _ _ _ | .qpQuery _ _ _ | .queryRegion _ _ _ | .pathQuery _ _ _ | .ctrlQuery _ _ _ | .nsQuery _ _ =>
    [.mem, .host, .ch, .slices, .out]
  | .createChannel _ _ | .regRegion _ _ =>
    [.mem, .host, .ch, .slices, .rm, .out, .draws]
  | .aqEnable _ _ _ _ | .aqDisable _ _ _ _ | .slCtlReset _ _ _ _ =>
    [.regs, .acc, .ev, .mem, .host, .ch, .slices, .rm, .out, .draws]
  | .queryQuota _ _ _ | .poolQuery _ _ =>
    [.mem, .host, .ch, .slices, .out, .draws]
  | .sliceResetStart _ =>
    [.regs, .ev, .mem, .host, .ch, .slices, .net, .land, .cy, .rm, .sv, .out, .draws]
  | .backgroundZero _ _ =>
    [.mem, .slices]
  | .freezeSlice _ _ =>
    [.regs, .mem, .host, .ch, .slices, .out]
  | .freezeTimeout _ =>
    [.regs, .mem, .host, .ch, .slices, .rm, .sv, .out]
  | .exportSlice _ _ _ =>
    [.mem, .host, .ch, .slices, .cy, .out]
  | .importSlice _ _ _ | .keyEraseAlarm _ =>
    [.regs, .ev, .mem, .host, .ch, .slices, .cy, .rm, .sv, .out, .draws]
  | .thawSlice _ _ =>
    [.regs, .ev, .mem, .host, .ch, .slices, .rm, .sv, .out]
  | .ingressEntry _ _ _ =>
    [.regs, .ev, .ch, .stairs, .sheaf, .land, .rm]
  | .flightStep _ _ _ _ =>
    [.regs, .ev, .stairs, .rm, .draws]
  | .ingressRetire _ _ =>
    [.regs, .time, .ev, .mem, .host, .ch, .slices, .net, .stairs, .sheaf, .land, .tils, .tm, .rm, .out]
  | .arrayMarkerRetire _ _ | .gleanAge _ _ | .l2AgeingPass _ =>
    [.regs, .stairs]
  | .reentryRelease _ =>
    [.land]
  | .parseWrite _ _ _ _ | .parseRead _ _ _ _ | .ucDataWrite _ _ _ _ _ _ | .writeNw _ _ _ _ _ _ | .readNw _ _ _ _ _ _ | .stepCtlWrite _ _ _ _ _ _ =>
    [.regs, .acc, .ev, .stairs, .golden, .out]
  | .tableLookup _ _ _ _ | .tableRead _ _ _ _ | .tableInsert _ _ _ _ | .tableUpdate _ _ _ _ | .tableDelete _ _ _ _ | .tableWrite _ _ _ _
  | .tableErase _ _ _ _ | .tableIter _ _ _ _ | .tableClear _ _ _ _ =>
    [.regs, .acc, .ev, .stairs, .lpm, .land, .out]
  | .tableCommandResume _ =>
    [.regs, .ev, .stairs, .lpm, .sheaf, .land]
  | .tblCfgApply _ _ _ _ _ | .arrCfgWrite _ _ _ _ _ _ =>
    [.regs, .acc, .ev, .stairs, .out]
  | .sheafSweep =>
    [.regs, .stairs, .lpm, .sheaf]
  | .tcamScrub _ _ _ | .l2Learn _ | .l2LoadComplete _ | .deepFetchStart _ _ _ | .ucScrub _ _ _ _ _ _ =>
    [.regs, .ev, .stairs]
  | .deepFetchComplete _ _ _ _ =>
    [.regs, .ev, .ch, .stairs, .land, .rm]
  | .sheafCommit _ _ _ | .sheafCommitAt _ _ _ | .sheafCancel _ _ _ | .sheafUnstage _ _ _ =>
    [.regs, .acc, .ev, .stairs, .lpm, .sheaf, .out]
  | .sheafCommitEffect =>
    [.regs, .ev, .stairs, .sheaf]
  | .sheafDrain =>
    [.regs, .ev, .sheaf]
  | .sheafDrainLimit =>
    [.regs, .ev, .ch, .sheaf, .land, .rm]
  | .arrayRead _ _ _ _ _ | .arrayReadSnap _ _ _ _ _ | .arrayWrite _ _ _ _ _ | .arrayReadClear _ _ _ _ _ | .arrayClear _ _ _ _ _ | .meterAssign _ _ _ _ _ =>
    [.regs, .acc, .ev, .stairs, .land, .out]
  | .rehearsalStart _ _ _ | .rehearsalStop _ _ _ =>
    [.regs, .acc, .ev, .stairs, .sheaf, .out]
  | .ucDataRead _ _ _ _ =>
    [.regs, .out]
  | .loadBusyTimeout _ _ _ =>
    [.regs]
  | .inlineVerifyDone _ _ =>
    [.regs, .ev, .ch, .net, .land, .cy, .rm, .out]
  | .dispatch _ =>
    [.regs, .time, .ev, .ch, .net, .stairs, .sheaf, .land, .rm, .out]
  | .egressRetire _ _ _ =>
    [.regs, .ev, .mem, .host, .ch, .slices, .net, .stairs, .sheaf, .land, .tils, .tm, .cy, .rm, .out, .draws]
  | .hostGrainWaitEnd _ _ =>
    [.regs, .ev, .ch, .land]
  | .nodeSelWrite _ _ _ =>
    [.regs, .acc, .ev, .out, .draws]
  | .apply _ _ _ | .flush _ _ _ | .clrCnt _ _ _ =>
    [.regs, .time, .acc, .ev, .ch, .net, .land, .rm, .out]
  | .meterRefreshPass _ _ _ =>
    [.regs, .stairs, .land]
  | .keyImport _ _ _ | .cctxCreate _ _ _ | .lookasideComplete _ _ =>
    [.regs, .ev, .mem, .host, .ch, .slices, .cy, .out, .draws]
  | .keyGenerate _ _ =>
    [.regs, .mem, .host, .ch, .slices, .cy, .out, .draws]
  | .keyErase _ _ | .cctxDestroy _ _ =>
    [.regs, .mem, .host, .ch, .slices, .cy, .out]
  | .keyDerived _ _ _ _ =>
    [.regs, .ev, .mem, .host, .ch, .slices, .net, .land, .cy, .rm, .out, .draws]
  | .laneGo _ _ _ _ =>
    [.regs, .cy, .draws]
  | .qpModify _ _ _ =>
    [.regs, .ev, .mem, .host, .ch, .slices, .cy, .rm, .out, .draws]
  | .deregRegion _ _ =>
    [.mem, .host, .ch, .slices, .rm, .out]
  | .revokeSlow _ =>
    [.regs, .ev, .rm]
  | .ackDelayTimer _ =>
    [.regs, .rm]
  | .retransmitTimeout _ | .msgTimeout _ =>
    [.regs, .ev, .mem, .host, .ch, .slices, .rm, .out]
  | .rnrWaitExpire _ =>
    [.rm]
  | .qpFetchComplete _ _ =>
    [.regs, .ev, .mem, .host, .ch, .slices, .stairs, .sheaf, .land, .rm, .out, .draws]
  | .qpEvict _ =>
    [.mem, .slices, .rm, .out, .draws]
  | .qpWritebackDone _ _ =>
    [.regs, .ev, .mem, .host, .ch, .slices, .stairs, .sheaf, .land, .rm, .out]
  | .sqTailDoorbell _ _ _ _ | .cqHeadDoorbell _ _ _ _ | .ctrlDestroy _ _ | .nsDestroy _ _ | .nsAttach _ _ | .nsDetach _ _ =>
    [.regs, .mem, .host, .ch, .slices, .sv, .out, .draws]
  | .ccEnable _ _ _ | .ccDisable _ _ _ | .ccShutdown _ _ _ | .deleteIoSubmissionQueue _ _ | .createIoSubmissionQueue _ _ | .getLogPage _ _ _
  | .deleteIoCompletionQueue _ _ | .createIoCompletionQueue _ _ | .identify _ _ _ | .abort _ _ _ | .setFeatures _ _ | .getFeatures _ _
  | .asynchronousEventRequest _ _ | .firmwareActivationDone _ | .deviceSelfTest _ _ | .nvmeFlush _ _ _ | .nvmeWrite _ _ _ _ _ | .nvmeRead _ _ _ _ _
  | .writeZeroes _ _ _ _ _ | .datasetManagement _ _ _ _ _ | .backingComplete _ _ _ | .poolMemberFail _ _ _ | .nsNotReady _ | .storageCapsule _ _ =>
    [.regs, .ev, .mem, .host, .ch, .slices, .sv, .out, .draws]
  | .controllerDrainEnd _ | .selfTestResume _ =>
    [.sv]
  | .firmwareImageDownload _ _ _ =>
    [.regs, .ev, .mem, .host, .ch, .slices, .oz, .sv, .out, .draws]
  | .firmwareCommit _ _ =>
    [.regs, .ev, .mem, .host, .ch, .slices, .unit, .oz, .sv, .out, .draws]
  | .selfTestSegment _ _ | .poolRebuildDone _ | .nsReady _ =>
    [.regs, .ev, .sv]
  | .journalReplay _ _ _ _ =>
    [.regs, .ev, .mem, .sv]
  | .ctrlCreate _ _ | .poolCreate _ _ _ _ | .poolDestroy _ _ | .poolRebuild _ _ _ =>
    [.regs, .mem, .host, .ch, .slices, .sv, .out]
  | .nsCreate _ _ _ =>
    [.regs, .mem, .host, .ch, .slices, .cy, .sv, .out]
  | .nsModify _ _ =>
    [.regs, .ev, .mem, .host, .ch, .slices, .cy, .sv, .out]
  | .chPut _ _ _ _ _ | .chRecv _ _ _ _ _ _ | .chWait _ _ _ _ _ _ =>
    [.regs, .ev, .mem, .tils, .out]
  | .chAbort _ _ _ _ _ | .chTimer _ _ _ _ _ =>
    [.regs, .tils, .out]
  | .chInfo _ _ _ _ _ =>
    [.tils, .out]
  | .channelUnblock _ _ | .channelDeadline _ _ =>
    [.regs, .mem, .tils, .out]
  | .threadTimerExpire _ _ _ | .threadFault _ _ _ _ _ _ _ | .standstill _ _ =>
    [.regs, .ev, .mem, .tils]
  | .thHalt _ _ _ _ _ | .thResume _ _ _ _ _ | .thReset _ _ _ _ _ | .thCancel _ _ _ _ _ | .dbgHalt _ _ _ _ | .dbgResume _ _ _ _ | .dbgStep _ _ _ _ _
  | .dbgRdReg _ _ _ _ | .dbgWrReg _ _ _ _ | .dbgRdMem _ _ _ _ _ | .dbgWrMem _ _ _ _ _ | .abandon _ _ _ _ | .dbgReset _ _ _ _ | .bpSet _ _ _ _
  | .bpClr _ _ _ _ =>
    [.regs, .acc, .ev, .mem, .tils, .out, .draws]
  | .thWake _ _ _ _ _ =>
    [.regs, .acc, .ev, .mem, .tils, .out]
  | .portApply _ _ _ _ =>
    [.regs, .acc, .ev, .ch, .tils, .out, .draws]
  | .dmaRequest _ =>
    [.regs, .ev, .tils]
  | .dmaComplete _ _ =>
    [.regs, .ev, .mem, .host, .slices, .tils, .out, .draws]
  | .faultRecordPost _ =>
    [.mem, .tils]
  | .breakpointHit _ _ _ =>
    [.regs, .tils]
  | .tillerRelease _ _ =>
    [.regs, .ev, .ch, .tils, .draws]
  | .heartbeat _ =>
    [.unit]
  | .heartbeatTimeout _ | .machineCheck _ _ =>
    [.regs, .ev, .ch, .net, .stairs, .sheaf, .land, .unit, .cy, .rm, .out, .draws]
  | .takeoverComplete _ _ _ =>
    [.regs, .ev, .mem, .ch, .net, .stairs, .land, .unit, .tils, .cy, .out, .draws]
  | .fence _ _ _ | .readmit _ _ _ | .retire _ _ _ | .handover _ _ _ =>
    [.regs, .acc, .ev, .mem, .ch, .net, .stairs, .sheaf, .land, .unit, .tils, .cy, .rm, .out, .draws]
  | .autoReadmit _ =>
    [.regs, .mem, .unit]
  | .handoverEnd =>
    [.regs, .ev, .ch, .net, .stairs, .sheaf, .land, .unit, .tils, .cy, .rm, .out, .draws]
  | .rollingUpdateStep =>
    [.regs, .ev, .mem, .ch, .unit, .tils]
  | .selfTestDone _ _ =>
    [.regs, .ev, .stairs, .unit]
  | .guardedReadFix _ =>
    [.regs, .ev, .unit]
  | .eventDeliver =>
    [.regs, .ev, .mem, .host, .ch, .slices, .tils, .oz, .out]
  | .info _ _ _ | .bindMgmt _ _ _ | .fwVerify _ _ _ | .debugClose _ _ _ =>
    [.regs, .acc, .ev, .oz, .out]
  | .logRead _ _ _ _ =>
    [.regs, .acc, .ev, .mem, .slices, .oz, .out]
  | .fwBegin _ _ _ | .fwCommit _ _ _ | .fwRevert _ _ _ =>
    [.regs, .acc, .ev, .mem, .oz, .out]
  | .fwWrite _ _ _ _ | .bcrWrite _ _ _ _ =>
    [.regs, .acc, .ev, .mem, .host, .oz, .out, .draws]
  | .fwActivate _ _ _ =>
    [.regs, .acc, .ev, .mem, .unit, .oz, .out]
  | .stairProbe _ _ _ _ =>
    [.regs, .acc, .ev, .mem, .host, .slices, .stairs, .oz, .rm, .out, .draws]
  | .ozKeyErase _ _ _ | .lcTransition _ _ _ _ =>
    [.regs, .acc, .ev, .mem, .host, .ch, .slices, .oz, .cy, .rm, .sv, .out, .draws]
  | .ozRestart _ _ _ =>
    [.regs, .acc, .ev, .mem, .host, .ch, .slices, .stairs, .unit, .oz, .cy, .rm, .sv, .out, .draws]
  | .nonce _ _ _ =>
    [.regs, .acc, .ev, .oz, .out, .draws]
  | .debugOpen _ _ _ _ =>
    [.regs, .acc, .ev, .host, .oz, .out, .draws]
  | .debugExpiry =>
    [.regs, .ev, .oz]
  | .mctpMessage _ _ =>
    [.regs, .ev, .mem, .unit, .oz, .cy, .out, .draws]
  | .mgmtFrameReceive _ _ =>
    [.regs, .mem, .tils]
  | .mgmtFrameSend _ _ =>
    [.out]
  | .pmbusPoll _ _ =>
    [.regs, .ev, .oz, .out]
  | .supplyDip _ _ | .supplyClear _ _ =>
    [.regs, .acc, .ev, .oz]
  | .throttleRelease | .unstableEnd =>
    [.regs, .ev, .mem, .host, .ch, .slices, .stairs, .unit, .oz, .cy, .rm, .sv, .out, .draws]
  | .supplyResetEnd _ =>
    [.regs, .ev, .host, .slices, .oz]
  | .logMirror =>
    [.mem, .oz]
  | .ozelmFault _ | .ozelmRestartDone =>
    [.regs, .ev, .mem, .oz]
  | .powerGood _ _ _ _ =>
    [.regs, .ev, .mem, .host, .slices, .oz]
  | .pllLockTimeout =>
    [.regs, .ev, .draws]
  | .startupStage _ =>
    [.regs, .ev, .mem, .ch, .slices, .net, .stairs, .golden, .land, .unit, .tils, .oz, .rm, .out, .draws]

/-! What the statements assume of a register access. -/

/-- An access of a requester at an offset means a register itself: no alias, no copy, and none of the registers that a function's
BAR0/1 or a thread's port page shows instead (R62, R67, R81, R506, R546); and no write of the requester waits for an indirect
domain (R60). -/
abbrev Means (s : State) (req : Requester) (off reg : Nat) : Prop :=
  nvmeBar s req off = none ∧ prelOff req off = none ∧ access s req off = some { reg := reg } ∧ indWaits s req = false

/-- A write with every byte enable set passes the checks of chapter 3 (R63, R78, R80, R90): its requester reaches the register, the
device has started, for a guarded register the window permits it, and it crosses no 4-byte boundary. -/
abbrev Passes (s : State) (req : Requester) (off : Nat) (guarded : Bool) : Prop :=
  mayReach s req off = true ∧ stageOk s off = true ∧ (guarded = true → windowFor s req (blockOf off) = true) ∧ crosses req 15 off = false

/-- An admin command stands at the head of a slice's ADMIN ring and runs on the target slice `t`: the device is ready, the slice may
issue commands, and a target that is RESETTING is one that the command accepts (R202, R203, R222). -/
abbrev AdminReady (s : State) (sl op : Nat) (cmd : List Byte) (t : Nat) : Prop :=
  adminHead s sl op cmd = true ∧ deviceReady s = true ∧ adminTarget sl cmd = some t ∧
  (aget s.slices sl).any (fun x => x.state != 2 && (x.state != 4 || sl == 0)) = true ∧
  (runsInReset op || !(aget s.slices t).any (fun x => x.state == 2)) = true

/-- Controller `i` fetches the admin command `sqe` of opcode `op` from its admin queue, with FUSE and PSDT zero, and `x` is the
controller with the head of that queue moved on (R510, R512, R513). -/
abbrev NvmeReady (s : State) (i op : Nat) (sqe : List Byte) (x : Ctrl) : Prop :=
  fetchable s i 0 = true ∧ sqeOp (fit 64 sqe) = op ∧ plainSqe (fit 64 sqe) = true ∧ aget (fetchCmd s i 0 (fit 64 sqe)).2.sv.ctrls i = some x

/-- A mailbox command of OP `op` is written to an idle mailbox while Ozelm runs (R661); OPs 0x20 to 0x2F are guarded. -/
abbrev MbReady (s : State) (req : Requester) (v : W32) (op : Nat) : Prop :=
  rfld v 0 8 = op ∧ Passes s req Reg.OZ_MB_CMD (op / 16 == 2) ∧ s.oz.lc ≠ 3 ∧ ozRunning s = true ∧ rdF s Reg.OZ_MB_CMD 8 1 = 0 ∧ rbit v 9 = false

/-- The arguments that a mailbox command reads. -/
abbrev mbArgs (s : State) : List Nat := (List.range 8).map (fun w => rdN s (Reg.OZ_MB_ARG w))

/-- The state in which a mailbox command runs: a guarded one has used its window up. -/
abbrev mbState (s : State) (op : Nat) : State := if op / 16 == 2 then closeWindow s else s

/-- The `n` bytes that a mailbox command reads at an address, and the state after the read: in memory of the owner's slice where the
card has an owner, else in tiller memory (R661). -/
def mbData (s : State) (addr n : Nat) (e : Env) : Option (State × List Byte) :=
  match s.host.owner with
  | some _ =>
    let r := slFetch s 0 [(addr, n)] 0 (envRead e 0)
    match r.2 with
    | .ok bs => some (r.1, fit n bs)
    | .failed _ => none
  | none => if addr + n ≤ fwBytes s then some (s, memGets s.mem (fwBase + addr) n) else none

/-- A debug command of OP `op` on thread `n` is written to tiller `t` within the scope that Ozelm opened (R574). -/
abbrev DbgReady (s : State) (req : Requester) (t n op : Nat) (v : W32) : Prop :=
  t < 34 ∧ rfld v 0 4 = op ∧ rfld v 4 6 = n ∧ Passes s req (tilR Reg.TIL_DBG_CMD t) false ∧ dbgScope (plainWrite s (tilR Reg.TIL_DBG_CMD t) 0x3F0 v) t n = true

/-! The invariants of the block. -/

/-- The keys of a map rise: every key stands once, and equal maps are equal data. -/
def Rising {α : Type} (m : AMap α) : Prop := m.Pairwise (fun a b => a.1 < b.1)

/-- What every state of the block is to satisfy: each register is held once; the memory is in canonical form; the life cycle is
one of the four states that R658 names; and between commands no access is under way. -/
structure Inv (s : State) : Prop where
  regs : Rising s.regs
  mem  : Memory.wf s.mem = true
  life : s.oz.lc ≤ 3
  own  : s.acc.own = none

end Sys2Proof.Machine
end

