-- ==== Sys2Proof/Certificates/Slice0/Obligations.lean ====
section
/-! DEFINITION. Obligations.lean: the statements about the model, for the provers. -/

section
open Sys2Proof Sys2Proof.Machine

/-- A step with a command at the front of the queue is that command's exec on the state whose queue is the rest. -/
def Obligations.StepRunsFront : Prop :=
  ∀ (c : Instr) (rest : List Instr) (s : State),
    step { s with pending := c :: rest } = exec c { s with pending := rest }

/-- Writes of plain registers, of LO and HI halves, and through aliases complete with the effects of R3, R63, R66 and R67. -/
def Obligations.RegisterWritesComplete : Prop :=
  (∀ (s : State) (req : Requester) (off r : Nat) (v : W32) (env : Env) (d : RegDef),
    Means s req off r → regDef r = some d → d.pair = 0 → d.guarded = false → indReg r = false →
    (blockOf r = 37 ∨ blockOf r = 38 ∨ blockOf r = 41 ∨ ∃ k < 4, r = Reg.GL_SCRATCH k) → (d.rw ≠ 0 ∨ d.w1c ≠ 0) →
    Passes s req (gateOff r off) false →
    ∃ t, exec (.registerWrite req off 15 v env) s = .next t ∧
      (∀ k < 32, (rd t r).toNat.testBit k =
        ((if d.rw.testBit k then v.toNat.testBit k else (rd s r).toNat.testBit k) && !(v.toNat.testBit k && d.w1c.testBit k))) ∧
      (∀ x, x ≠ r → rd t x = rd s x) ∧ Keeps [.regs] s t) ∧
  (∀ (s : State) (req : Requester) (off r : Nat) (v : W32),
    Means s req off r → pairOf r = 1 → indReg r = false → deadReg r = false → r < 0x10000000 → (r = Reg.GL_SNAP_AT_LO → autoSnap s = false) →
    ((regDef r).map (fun d => d.guarded)) = some false → Passes s req (gateOff r off) false →
    ∃ t, exec (.loRegisterWrite req off 15 v) s = .next t ∧ accGet t.acc.held req r = some v ∧ Keeps [.acc] s t) ∧
  (∀ (s : State) (req : Requester) (off r : Nat) (v lo : W32),
    Means s req off r → (r = Reg.GL_SNAP_MASK_HI ∨ r = Reg.FT_PTM_OFFSET_HI ∨ r = Reg.FT_STEP_VAL_HI) →
    accGet s.acc.held req (r - 4) = some lo → Passes s req (gateOff r off) false →
    ∃ t, exec (.hiRegisterWrite req off 15 v) s = .next t ∧ rd t (r - 4) = lo ∧ rd t r = v ∧
      accGet t.acc.held req (r - 4) = none ∧ (∀ x, x ≠ r → x ≠ r - 4 → rd t x = rd s x) ∧ Keeps [.regs, .acc] s t) ∧
  (∀ (s : State) (req : Requester) (off k a : Nat) (v : W32),
    prelOff req off = none → nvmeBar s req off = none → indWaits s req = false → k < 4 → a ≠ 0 →
    access s req off = some { reg := Reg.GL_SCRATCH k, ali := a } → Passes s req (gateOff (Reg.GL_SCRATCH k) off) false →
    ∃ t, exec (.aliasWrite req off 15 v) s = .next t ∧
      rd t (Reg.GL_SCRATCH k) = (match a with
        | 1 => rd s (Reg.GL_SCRATCH k) ||| v
        | 2 => rd s (Reg.GL_SCRATCH k) &&& ~~~v
        | _ => rd s (Reg.GL_SCRATCH k) ^^^ v) ∧
      (∀ x, x ≠ Reg.GL_SCRATCH k → rd t x = rd s x) ∧ Keeps [.regs] s t)

/-- Reads of LO, HI and clearing registers, and of the timestamp FIFO, complete with the effects of R5, R65, R144 and R164. -/
def Obligations.RegisterReadsComplete : Prop :=
  (∀ (s : State) (req : Requester) (off r : Nat),
    Means s req off r → isReg r = true → pairOf r = 1 → isRc r = false → latched r = false → ownRead r = false → portGone s r = false →
    (r < 0x900000 ∨ 0x1100000 ≤ r ∨ r % 0x10000 ≠ 0x30) → (0x20000000 ≤ r ∨ mayReach s req (gateOff r off) = true) →
    ∃ t, exec (.loRegisterRead req off) s = .next t ∧ t.out = .regRead req off (regValue s r) :: s.out ∧
      latchGet t req (r + 4) = regValue s (r + 4) ∧ Keeps [.acc, .out] s t) ∧
  (∀ (s : State) (req : Requester) (off r : Nat),
    Means s req off r → isReg r = true → pairOf r = 2 → ownRead r = false → portGone s r = false →
    (r < 0x900000 ∨ 0x1100000 ≤ r ∨ r % 0x10000 ≠ 0x30) → (0x20000000 ≤ r ∨ mayReach s req (gateOff r off) = true) →
    exec (.loRegisterRead req off) s = .next { s with out := .regRead req off (latchGet s req r) :: s.out }) ∧
  (∀ (s : State) (req : Requester) (off r : Nat),
    Means s req off r → isReg r = true → pairOf r = 0 → isRc r = true → latched r = false → markFrom s r = none →
    (r < 0x400000 ∨ (0x800000 ≤ r ∧ r < 0x900000) ∨ 0x1100000 ≤ r) → r < 0x20000000 → mayReach s req (gateOff r off) = true →
    ∃ t, exec (.rcRegisterRead req off) s = .next t ∧ t.out = .regRead req off (regValue s r) :: s.out ∧
      rd t r = 0 ∧ (∀ x, x ≠ r → rd t x = rd s x) ∧ Keeps [.regs, .out] s t) ∧
  (∀ (s : State) (req : Requester) (off r : Nat),
    Means s req off r → isReg r = true → ownRead r = false → portGone s r = true → mayReach s req (gateOff r off) = true →
    exec (.loRegisterRead req off) s = .next { s with out := .regRead req off 0 :: s.out }) ∧
  (∀ (s : State) (req : Requester) (p tag ns frac : Nat) (rest : List (Nat × Nat × Nat)),
    portPresent s p = true → (portGet s p).fifo = (tag, ns, frac) :: rest →
    ∃ t, exec (.tsFifoPop req p) s = .next t ∧ (portGet t p).fifo = rest ∧
      t.out = .regRead req (Reg.EN_TS_FIFO_W0 (p / 4) (p % 4)) (BitVec.ofNat 32 (tag + 0x10000)) :: s.out ∧
      latchGet t req (Reg.EN_TS_FIFO_W0 (p / 4) (p % 4) + 4) = BitVec.ofNat 32 ns ∧ Keeps [.acc, .net, .out] s t)

/-- GL_UNLOCK, the expiry of its window, snapshots and the warm reset complete with the effects of R78, R79, R82 to R84 and R91. -/
def Obligations.UnlockSnapshotResetComplete : Prop :=
  (∀ (s : State) (req : Requester) (v : W32), Passes s req Reg.GL_UNLOCK false → rfld v 0 16 = 0x5AE7 →
    exec (.glUnlockWrite req 15 v) s =
      .next { s with acc := { s.acc with window := some { owner := req, block := rfld v 16 6, opened := s.time.clocks } } }) ∧
  (∀ (s : State) (w : Window), s.acc.window = some w → w.opened + 4096 ≤ s.time.clocks →
    exec .unlockWindowExpire s = .next { s with acc := { s.acc with window := none } }) ∧
  (∀ (s : State) (req : Requester) (v : W32), Passes s req Reg.GL_SNAP_CMD false → rbit v 0 = true → snapAtDue s = false → s.time.stepSnap = false →
    ∃ t, exec (.snapshotGo req 15 v) s = .next t ∧ rdN t Reg.GL_SNAP_GEN = (rdN s Reg.GL_SNAP_GEN + 1) % 2 ^ 32 ∧
      rdN t Reg.GL_SNAP_TIME_LO = nowNs s % 2 ^ 32 ∧ rdN t Reg.GL_SNAP_TIME_HI = nowNs s / 2 ^ 32 % 2 ^ 32 ∧
      Keeps [.regs, .snap, .ev, .stairs] s t) ∧
  (∀ (s : State) (req : Requester) (v : W32), Passes s req Reg.GL_SNAP_CMD false → rbit v 0 = true → snapAtDue s = true →
    exec (.snapshotGo req 15 v) s = exec .snapAtFire s) ∧
  (∀ (s : State), rdF s Reg.GL_SNAP_AT_CTL 0 1 = 1 → autoSnap s = false → rd64 s Reg.GL_SNAP_AT_LO ≤ nowNs s →
    s.time.lateActs.contains snapItem = false →
    ∃ t, exec .snapAtFire s = .next t ∧ rdN t Reg.GL_SNAP_GEN = (rdN s Reg.GL_SNAP_GEN + 1) % 2 ^ 32 ∧
      rdF t Reg.GL_SNAP_AT_CTL 0 1 = 0 ∧ rdF t Reg.GL_SNAP_AT_CTL 1 1 = 1 ∧ Keeps [.regs, .snap, .time, .ev, .stairs] s t) ∧
  (∀ (s : State) (req : Requester) (v : W32), Passes s req Reg.GL_RESET_CTL true → rbit v 0 = true → rdF s Reg.GL_BOOT_STAGE 0 4 ≠ 15 →
    ∃ t, exec (.warmReset req 15 v) s = .next t ∧ rdN t Reg.GL_BOOT_STAGE = 1 ∧ rdF t Reg.OZ_RESET_CAUSE 0 4 = 2 ∧
      t.time.now = 0 ∧ t.time.elapsed = s.time.elapsed ∧ t.acc.window = none ∧ t.pending = s.pending)

/-- The commands of the time keeper's sources complete with the effects of R35, R37, R40, R41 and R56. -/
def Obligations.TimeKeeperComplete : Prop :=
  (∀ (s : State) (req : Requester) (v : W32), Passes s req Reg.FT_SRC_CTL false → rfld v 0 3 < 4 → rfld v 0 3 ≠ ftSrc s →
    ∃ t, exec (.ftSrcCtlWrite req 15 v) s = .next t ∧ ftSrc t = rfld v 0 3 ∧ ftState t = (if rfld v 0 3 = 0 then 0 else if rfld v 0 3 = 2 && s.time.tclk ≠ 0 || rfld v 0 3 = 3 && !(linkUp s (rfld v 8 4) && ptmEnabled s (rfld v 8 4)) then 3 else 1) ∧
      Keeps [.regs, .time, .ev] s t) ∧
  (∀ (s : State) (req : Requester) (v : W32), Passes s req Reg.FT_PHASE_IN_LO false →
    ∃ t, exec (.ftPhaseInLoWrite req 15 v) s = .next t ∧ accGet t.acc.held req Reg.FT_PHASE_IN_LO = some v ∧ Keeps [.acc] s t) ∧
  (∀ (s : State) (req : Requester) (v : W32), Passes s req Reg.FT_PHASE_IN_HI false → ftSrc s = 1 →
    ∃ t, exec (.phaseSampleSubmit req 15 v) s = .next t ∧ accGet t.acc.held req Reg.FT_PHASE_IN_LO = none ∧
      (s.time.discardNext = true → t.time = { s.time with discardNext := false }) ∧ Keeps [.regs, .time, .acc, .ev] s t) ∧
  (∀ s : State, ftSrc s ≠ 2 →
    ∃ t, exec .ppsInEdge s = .next t ∧ rdN t Reg.FT_PPS_IN_TS_LO = nowNs s % 2 ^ 32 ∧ rdN t Reg.FT_PPS_IN_TS_HI = nowNs s / 2 ^ 32 % 2 ^ 32 ∧
      Keeps [.regs] s t) ∧
  (∀ s : State, ftSrc s = 2 → s.time.discardNext = true → (s.time.tclk = 0 ∨ ftState s ≠ 3) →
    ∃ t, exec .ppsInEdge s = .next t ∧ rdN t Reg.FT_PPS_IN_TS_LO = nowNs s % 2 ^ 32 ∧ rdN t Reg.FT_PPS_IN_TS_HI = nowNs s / 2 ^ 32 % 2 ^ 32 ∧
      t.time = { s.time with lastEdge := s.time.elapsed, discardNext := false } ∧ Keeps [.regs, .time] s t) ∧
  (∀ s : State, ftSrc s = 3 → rdN s Reg.FT_PTM_INTERVAL ≠ 0 → s.time.ptmBusy = false →
    s.time.ptmStart + rdN s Reg.FT_PTM_INTERVAL * usUnits ≤ s.time.elapsed →
    linkUp s (rdF s Reg.FT_SRC_CTL 8 4) = true → ptmEnabled s (rdF s Reg.FT_SRC_CTL 8 4) = true →
    exec .ptmExchange s = .next { s with
      time := { s.time with ptmBusy := true, ptmStart := s.time.elapsed },
      out := .linkMsg (rdF s Reg.FT_SRC_CTL 8 4) "PTM request" [] :: s.out }) ∧
  (∀ s : State, ftSrc s = 3 → s.time.ptmBusy = true → s.time.ptmFails < 2 →
    exec (.ptmExchangeDone none) s = .next { s with time := { s.time with ptmBusy := false, ptmFails := s.time.ptmFails + 1 } }) ∧
  (∀ (s : State) (m : Nat), ftSrc s = 3 → s.time.ptmBusy = true →
    ∃ t, exec (.ptmExchangeDone (some m)) s = .next t ∧ t.time.ptmBusy = false ∧ t.time.ptmFails = 0 ∧
      (s.time.discardNext = false → t.time.lastSample = s.time.elapsed) ∧ Keeps [.regs, .time, .ev] s t) ∧
  (∀ s : State, ftSrc s = 1 → ftState s ≠ 3 → rdN s Reg.FT_HOLD_TIMEOUT ≠ 0 →
    s.time.lastSample + rdN s Reg.FT_HOLD_TIMEOUT * usUnits ≤ s.time.elapsed →
    ∃ t, exec .sourceLostTimeout s = .next t ∧ ftState t = 3 ∧ t.time = { s.time with rate := s.time.acc } ∧ Keeps [.regs, .time, .ev] s t) ∧
  (∀ (s : State) (state : ClockState), ftSrc s = 2 → ftState s ≠ 3 → state ≠ .good →
    ∃ t, exec (.tclkInFault state) s = .next t ∧ ftState t = 3 ∧ t.time = { s.time with tclk := clockCause state, rate := s.time.acc } ∧ Keeps [.regs, .time, .ev] s t) ∧
  (∀ s : State, ftSrc s ≠ 3 → exec (.tclkInFault .good) s = .next { s with time := { s.time with tclk := 0 } })

/-- Steps, register actions, departures, pulse outputs and epochs complete with the effects of R42 to R53, R418 and R619. -/
def Obligations.ScheduledCommandsComplete : Prop :=
  (∀ (s : State) (req : Requester) (v : W32) (env : Env), Means s req Reg.FT_STEP_CTL Reg.FT_STEP_CTL →
    Passes s req (gateOff Reg.FT_STEP_CTL Reg.FT_STEP_CTL) true → rbit v 0 = true → rbit v 1 = true → rdF s Reg.FT_STEP_CTL 2 1 = 0 →
    rd64 s Reg.FT_STEP_VAL_LO < nowNs s →
    ∃ t, exec (.ftStep req 15 v env) s = .next t ∧ nowNs t = rd64 s Reg.FT_STEP_VAL_LO ∧ t.time.elapsed = s.time.elapsed ∧
      t.time.discardNext = true ∧ rdN t Reg.FT_STEP_GEN = (rdN s Reg.FT_STEP_GEN + 1) % 2 ^ 32 ∧ Keeps [.regs, .time, .acc, .ev] s t) ∧
  (∀ (s : State) (env : Env) (k j : Nat), k < 1024 → j < 4 → ractArmed s k = true → tick8 (ractTime s k) ≤ nowNs s → ractBehind s k = false →
    s.time.lateActs.contains k = false → rdF s (0x110008 + 16 * k) 0 26 = Reg.GL_SCRATCH j →
    ∃ t, exec (.ractFire k env) s = .next t ∧ rd t (Reg.GL_SCRATCH j) = rd s (0x11000C + 16 * k) ∧
      rdF t (0x110008 + 16 * k) 28 1 = 0 ∧ rdF t (0x110008 + 16 * k) 29 1 = 1 ∧
      (∀ x, x ≠ Reg.GL_SCRATCH j → x ≠ 0x110008 + 16 * k → rd t x = rd s x) ∧ Keeps [.regs, .time] s t) ∧
  (∀ (s : State) (q d : Nat) (x : QPkt) (rest : List QPkt), (nodeGet s 0 q).pkts = x :: rest → x.pkt.depart = some d → x.released = false →
    x.pkt.late = false → releasePoint d ≤ nowNs s →
    ∃ t, exec (.departureRelease q) s = .next t ∧ (nodeGet t 0 q).pkts = { x with released := true } :: rest ∧ Keeps [.land] s t) ∧
  (∀ s : State, rbit (rd s Reg.FT_PPS_CTL) 0 = true → rbit (rd s Reg.FT_PPS_CTL) 1 = false → rfld (rd s Reg.FT_PPS_CTL) 8 24 ≠ 0 →
    nowNs s % 1000000000 = 0 → s.time.ppsSecond ≠ some (nowNs s / 1000000000) →
    exec .ppsOutRise s = .next { s with
      time := { s.time with ppsHigh := true, ppsRise := s.time.elapsed, ppsSecond := some (nowNs s / 1000000000) },
      out := .pin .ppsOut 0 true :: s.out }) ∧
  (∀ s : State, s.time.ppsHigh = true → s.time.ppsRise + rdF s Reg.FT_PPS_CTL 8 24 * usUnits ≤ s.time.elapsed →
    exec .ppsOutFall s = .next { s with time := { s.time with ppsHigh := false }, out := .pin .ppsOut 0 false :: s.out }) ∧
  (∀ (s : State) (k l : Nat), epochDue s s.time.epochSnap = some (l, k) → epochDue s s.time.epochRec = none →
    ∃ t, exec .epochBoundary s = .next t ∧ t.time.epochSnap = some (l + 1) ∧
      rdN t Reg.GL_SNAP_GEN = (rdN s Reg.GL_SNAP_GEN + 1) % 2 ^ 32 ∧ Keeps [.regs, .snap, .time, .ev, .stairs] s t) ∧
  (∀ (s : State) (req : Requester) (v : W32), Passes s req Reg.LD_EPOCH_CTL false → rbit v 0 = false → rbit v 1 = false →
    rbit (rd s Reg.LD_EPOCH_CTL) 1 = false →
    ∃ t, exec (.ldEpochCtlWrite req 15 v) s = .next t ∧ t.time = { s.time with epochRec := none } ∧
      rd t Reg.LD_EPOCH_CTL = (rd s Reg.LD_EPOCH_CTL &&& 0xFFFFFFC0) ||| (v &&& 0x3F) ∧
      (∀ x, x ≠ Reg.LD_EPOCH_CTL → rd t x = rd s x) ∧ Keeps [.regs, .time] s t)

/-- The indirect register sets: issue, answer, overrun and timeout complete with the effects of R73 to R76. -/
def Obligations.IndirectAccessComplete : Prop :=
  (∀ (s : State) (req : Requester) (off k : Nat), k < 37 → access s req off = some { reg := indBase k + 0x3F04 } →
    mayReach s req (off % 0x4000000) = true → indWaits s req = false → (indGet s k).cur = none →
    ∃ t, exec (.indDataRead req off) s = .next t ∧ t.out = .indirect k false (rdF s (indAddr k) 0 24) 0 :: s.out ∧
      rdF t (indStat k) 0 1 = 1 ∧ ((indGet t k).cur.map (fun o => (o.reader, o.write, o.addr))) = some (some req, false, rdF s (indAddr k) 0 24) ∧
      Keeps [.regs, .acc, .out] s t) ∧
  (∀ (s : State) (req : Requester) (off k : Nat) (v : W32), k < 37 → access s req off = some { reg := indBase k + 0x3F04 } →
    Passes s req (off % 0x4000000) false → indWaits s req = false → (indGet s k).cur = none →
    ∃ t, exec (.indDataWrite req off 15 v) s = .next t ∧ t.out = .indirect k true (rdF s (indAddr k) 0 24) v :: s.out ∧
      rdF t (indStat k) 0 1 = 1 ∧ Keeps [.regs, .acc, .ev, .out] s t) ∧
  (∀ (s : State) (req : Requester) (off k : Nat) (v : W32), k < 37 → access s req off = some { reg := indBase k + 0x3F10 } →
    Passes s req (off % 0x4000000) false → indWaits s req = false → rbit v 0 = true → (indGet s k).cur = none →
    ∃ t, exec (.indCmdRead req off 15 v) s = .next t ∧ t.out = .indirect k false (rdF s (indAddr k) 0 24) 0 :: s.out ∧
      rdF t (indStat k) 0 1 = 1 ∧ Keeps [.regs, .acc, .ev, .out] s t) ∧
  (∀ (s : State) (k : Nat) (word : W32) (op : IndOp), (k < 12 ∨ 20 ≤ k) → (indGet s k).cur = some op → (indGet s k).waiting = [] →
    op.write = false → op.reader = none → indHas k op.addr = true → lowWord k op.addr = false →
    ∃ t, exec (.indDomainAnswer k word true) s = .next t ∧ rd t (indRdata k) = word ∧ rdF t (indStat k) 0 1 = 0 ∧
      (indGet t k).cur = none ∧ Keeps [.regs, .acc, .net, .out] s t) ∧
  (∀ (s : State) (k : Nat) (word : W32) (op : IndOp), (indGet s k).cur = some op → (indGet s k).waiting = [] →
    op.write = false → op.reader = none →
    ∃ t, exec (.indDomainAnswer k word false) s = .next t ∧ rd t (indRdata k) = 0 ∧ rdF t (indStat k) 0 1 = 0 ∧ rdF t (indStat k) 2 1 = 1) ∧
  (∀ (s : State) (k : Nat) (op w : IndOp) (rest : List IndOp), (indGet s k).cur = some op → op.reader = none → (indGet s k).waiting = w :: rest →
    w.since + 2 * usUnits ≤ s.time.elapsed →
    ∃ t, exec (.indOverrun k) s = .next t ∧ (indGet t k).waiting = rest ∧ (indGet t k).cur = some op ∧ rdF t (indStat k) 3 1 = 1 ∧
      Keeps [.regs, .acc, .out] s t) ∧
  (∀ (s : State) (k : Nat) (op : IndOp), (indGet s k).cur = some op → op.reader = none → (indGet s k).waiting = [] →
    op.since + msUnits ≤ s.time.elapsed →
    ∃ t, exec (.indTimeout k) s = .next t ∧ (indGet t k).cur = none ∧ rdF t (indStat k) 0 1 = 0 ∧ rdF t (indStat k) 2 1 = 1 ∧
      Keeps [.regs, .acc, .out] s t)

/-- Commands to functions complete with the effects of R99 to R119. -/
def Obligations.FunctionCommandsComplete : Prop :=
  (∀ (s : State) (link fnum off be v : Nat), fnAnswers s link fnum = true → off % 4 = 0 → off < 4096 → rebarOf off = none → cfgMask fnum off ≠ (0, 0) →
    off ∉ [0x04, 0x44, 0x58, 0x78, 0x90, 0x158, 0x160, 0x208, 0x3C8] →
    ∃ t, exec (.configWrite link fnum off be v) s = .next t ∧
      aget (fnGet t link fnum).cfg off = some (mergeWord (cfgSee s link fnum off) ((cfgMask fnum off).1 &&& beMask be)
        ((cfgMask fnum off).2 &&& beMask be) (v % 2 ^ 32)) ∧
      (∀ x, x ≠ off → aget (fnGet t link fnum).cfg x = aget (fnGet s link fnum).cfg x) ∧ Keeps [.host] s t) ∧
  (∀ (s : State) (link fnum : Nat), fnAnswers s link fnum = true → fnBme (fnGet s link fnum) fnum = true → tdispLocked (fnGet s link fnum) = false →
    exec (.busMasterDisable link fnum) s =
      .next (fnStall (raise (cfgBit s link fnum 0x04 2 false) (hlSrc link 4) [(4, fnum), (4, 0)]) link fnum)) ∧
  (∀ (s : State) (link fnum : Nat), fnAnswers s link fnum = true → fnBme (fnGet s link fnum) fnum = false →
    exec (.busMasterEnable link fnum) s =
      .next (fnWake (raise (cfgBit s link fnum 0x04 2 true) (hlSrc link 4) [(4, fnum), (4, 1)]) link fnum)) ∧
  (∀ (s : State) (link fnum : Nat), fnAnswers s link fnum = true → fnD3 (fnGet s link fnum) fnum = false → tdispLocked (fnGet s link fnum) = false →
    exec (.d3hotEntry link fnum) s =
      .next (fnStall (raise (cfgSet s link fnum 0x44 (putFld (cfgRd fnum (fnGet s link fnum) 0x44) 0 2 3)) (hlSrc link 15) [(4, fnum), (4, 3)]) link fnum)) ∧
  (∀ (s : State) (link fnum : Nat), fnAnswers s link fnum = true → fnD3 (fnGet s link fnum) fnum = true →
    exec (.d3hotExit link fnum) s =
      .next (fnWake (raise (cfgSet s link fnum 0x44 (putFld (cfgRd fnum (fnGet s link fnum) 0x44) 0 2 0)) (hlSrc link 15) [(4, fnum), (4, 0)]) link fnum)) ∧
  (∀ (s : State) (link fnum : Nat), fnAnswers s link fnum = true → fnum ≠ 0 →
    ∃ t, exec (.functionLevelReset link fnum) s = .next t ∧ (fnGet t link fnum).flr = some s.time.elapsed) ∧
  (∀ (s : State) (link fnum : Nat), fnum < 256 → (fnGet s link fnum).flr.isSome = true → flrDone s link fnum = true →
    ∃ t, exec (.flrEnd link fnum) s = .next t ∧ fnGet t link fnum = { fnGet s link fnum with flr := none } ∧ Keeps [.regs, .ev, .host] s t) ∧
  (∀ (s : State) (link num : Nat) (on : Bool), fnAnswers s link 0 = true →
    putFld (cfgRd 0 (fnGet s link 0) 0x158) 0 1 (b2n on) ≠ cfgRd 0 (fnGet s link 0) 0x158 →
    exec (.vfEnableChange link on num) s =
      .next (vfChange (cfgSet (cfgSet s link 0 0x158 (putFld (cfgRd 0 (fnGet s link 0) 0x158) 0 1 (b2n on))) link 0 0x160
        (putFld (cfgRd 0 (fnGet s link 0) 0x160) 0 16 num)) link)) ∧
  (∀ (s : State) (link bar log : Nat), fnAnswers s link 0 = true → (bar = 2 ∨ bar = 4) → barOk false bar log = true →
    barLog (fnGet s link 0) false bar ≠ log → fnMse s link 0 = false →
    ∃ t, exec (.barResize link false bar log) s = .next t ∧ barLog (fnGet t link 0) false bar = log ∧ Keeps [.regs, .ev, .host] s t) ∧
  (∀ (s : State) (link fnum idx word be v : Nat), linkPresent s link = true → linkUp s link = true → fnum < 256 → fnDecodes s link fnum = true →
    idx < (fnGet s link fnum).msixAlloc → word ≤ 3 → fnMsixEn (fnGet s link fnum) fnum = false →
    ∃ t, exec (.msixTableWrite link fnum idx word be v) s = .next t ∧
      agetD (fnGet t link fnum).msix idx {} = msixPut (agetD (fnGet s link fnum).msix idx {}) word be v ∧ Keeps [.host] s t)

/-- Events of host links and accesses through them complete with the effects of R105 to R126. -/
def Obligations.HostLinkCommandsComplete : Prop :=
  (∀ (s : State) (link : Nat), linkPresent s link = true → linkPerst s link = false →
    exec (.perstAssert link) s = .next (linkReset (raise (wrF s (hfLink link) 10 1 1) (hlSrc link 1) [(4, 0)]) link)) ∧
  (∀ (s : State) (link : Nat), linkPresent s link = true → linkPerst s link = true →
    ∃ t, exec (.perstDeassert link) s = .next t ∧ rdF t (hfLink link) 10 1 = 0 ∧ Keeps [.regs, .ev] s t) ∧
  (∀ (s : State) (link : Nat), linkPresent s link = true → linkUp s link = true →
    exec (.hotResetReceived link) s = .next (linkReset (raise s (hlSrc link 2) []) link) ∧
    exec (.hostLinkDown link) s = .next (linkReset s link)) ∧
  (∀ (s : State) (link rate width : Nat) (flit : Bool), s.oz.good = true → s.oz.tripped = false → s.oz.down = none → linkPresent s link = true →
    linkUp s link = false → linkPerst s link = false → 1 ≤ rate → rate ≤ 7 → width ∈ [1, 2, 4, 8, 16] → width ≤ linkLanes s link → (6 ≤ rate → flit = true) →
    ∃ t, exec (.hostLinkUp link rate width flit) s = .next t ∧ rdF t (hfLink link) 0 1 = 1 ∧ rdF t (hfLink link) 1 3 = rate ∧
      rdF t (hfLink link) 4 5 = width ∧ Keeps [.regs, .ev, .out] s t) ∧
  (∀ (s : State) (link tag : Nat) (bs : List Byte) (r : RdReq) (h : HRead), tagReq s link tag = some r → pieceOk r bs.length = true →
    r.got + bs.length < r.len → r.discard = false → r.quarantine = false → aget s.host.reads r.read = some h → h.left ≠ 0 → h.failed = none →
    ∃ t, exec (.hostReadCompletion link tag (.ok bs)) s = .next t ∧
      aget t.host.reads r.read = some { h with data := patch h.data (r.addr - h.addr + r.got) bs } ∧ Keeps [.host] s t) ∧
  (∀ (s : State) (link tag : Nat) (r : RdReq) (h : HRead), tagReq s link tag = some r → r.deadline ≤ s.time.elapsed → r.discard = false →
    r.quarantine = false → aget s.host.reads r.read = some h →
    exec (.completionTimeout link tag) s =
      .next (readFail (readTimeout (tagFree s link tag) link r.fnum tag) r STS_HOST_TIMEOUT)) ∧
  (∀ (s : State) (link : Nat), linkPresent s link = true →
    exec (.tagWaitEnd link) s = .next (showTags (issueAll s link [] s.host.reqs) link)) ∧
  (∀ (s : State) (link fnum addr n : Nat) (bs : List Byte) (w : PeerWin) (x : Slice), linkPresent s link = true → linkUp s link = true → fnum < 256 →
    fnDecodes s link fnum = true → mib ≤ addr → 1 ≤ bs.length → bs.length ≤ 4096 → addr + bs.length ≤ 2 ^ bar4Log s link fnum →
    winOf (fnGet s link fnum) addr = some w → addr + bs.length ≤ (w.baseMb + w.sizeMb) * mib → w.wrEn = true → w.kind = 0 →
    winSlice s link fnum = some (n, x) → w.target + (addr - w.baseMb * mib) + bs.length ≤ agetD x.limits 7 0 * mib → x.state ≠ 2 →
    ∃ t, exec (.peerWindowRequest link fnum true addr bs.length bs) s = .next t ∧
      t.mem = memPuts s.mem (gmBase n + (w.target + (addr - w.baseMb * mib))) bs ∧ Keeps [.mem, .slices] s t) ∧
  (∀ (s : State) (req : Requester) (face : Nat) (v : W32), face < 4 → Passes s req (Reg.HF_WIN_SWAP face) false → linkPresent s (selFn s face).1 = true →
    rbit v 0 = true → rbit v 2 = false → (fnGet s (selFn s face).1 (selFn s face).2).drained = true →
    winsBad (fnGet s (selFn s face).1 (selFn s face).2) = false → tdispLocked (fnGet s (selFn s face).1 (selFn s face).2) = false →
    ∃ t, exec (.winSwap req 15 face v) s = .next t ∧
      (let f := fnGet s (selFn s face).1 (selFn s face).2
       fnGet t (selFn s face).1 (selFn s face).2 =
         { f with live := f.shadow, winGen := (f.winGen + 1) % 2 ^ 32, oldBusy := f.winBusy, winBusy := 0, drained := false }) ∧
      Keeps [.regs, .ev, .host] s t) ∧
  (∀ (s : State) (link fnum : Nat), fnum < 256 → (fnGet s link fnum).drained = false → (fnGet s link fnum).oldBusy = 0 →
    ∃ t, exec (.winOldDrained link fnum) s = .next t ∧ fnGet t link fnum = { fnGet s link fnum with drained := true } ∧ Keeps [.regs, .ev, .host] s t) ∧
  (∀ (s : State) (req : Requester) (face : Nat) (v : W32), face < 4 → Passes s req (Reg.HF_FN_CFG face) false → linkPresent s (selFn s face).1 = true →
    rfld v 0 12 ≤ 2048 → msixTotal s - (fnGet s (selFn s face).1 (selFn s face).2).msixAlloc + rfld v 0 12 ≤ 131072 →
    fnMsixEn (fnGet s (selFn s face).1 (selFn s face).2) (selFn s face).2 = false → (fnGet s (selFn s face).1 (selFn s face).2).enabled = false →
    tdispLocked (fnGet s (selFn s face).1 (selFn s face).2) = false →
    ∃ t, exec (.fnCfgWrite req 15 face v) s = .next t ∧ (fnGet t (selFn s face).1 (selFn s face).2).msixAlloc = rfld v 0 12 ∧
      (fnGet t (selFn s face).1 (selFn s face).2).nvme = rbit v 16 ∧ Keeps [.host] s t) ∧
  (∀ (s : State) (link k : Nat), linkPresent s link = true → k < 4 → agetD s.host.ide (link * 4 + k) 0 = 1 →
    ∃ t, exec (.ideCheckFail link k) s = .next t ∧ agetD t.host.ide (link * 4 + k) 0 = 2 ∧ Keeps [.regs, .ev, .host, .draws] s t) ∧
  (∀ (s : State) (link : Nat), fnAnswers s link 0 = true → ozRunning s = true → s.oz.lc ≠ 3 →
    exec (.spdmRequest link .plain) s = .next { s with out := .mgmtReply (2 + link) [0] :: s.out })

/-- The commands of root ports complete with the effects of R131 to R143. -/
def Obligations.RootPortCommandsComplete : Prop :=
  (∀ (s : State) (req : Requester) (v : W32), Passes s req Reg.RP_MERGE false → (∀ p, p < 8 → rdF s (Reg.RP_CTL p) 0 1 = 0) →
    exec (.rpMergeWrite req 15 v) s = .next
      (((List.range 8).filter (fun p => rpHere s p && !rpHere (wrN s Reg.RP_MERGE (rfld v 0 4)) p)).foldl rpAbsorb (wrN s Reg.RP_MERGE (rfld v 0 4)))) ∧
  (∀ (s : State) (req : Requester) (p : Nat) (v : W32), rpHere s p = true → Passes s req (0x800068 + 0x10000 * p) false →
    exec (.slotControlWrite req 15 p v) s = .next (slotWrite s p v.toNat)) ∧
  (∀ (s : State) (p t : Nat), (rpGet s p).rose = some t → t + 100 * msUnits ≤ s.time.elapsed →
    ∃ u, exec (.slotPerstRelease p) s = .next u ∧ rpGet u p = { rpGet s p with rose := none, perst := false } ∧ Keeps [.host, .out] s u) ∧
  (∀ (s : State) (p t : Nat), (rpGet s p).dropping = some t → t + 100 * usUnits ≤ s.time.elapsed →
    ∃ u, exec (.slotPowerDrop p) s = .next u ∧ rpGet u p = { rpGet s p with power := false, dropping := none, rose := none } ∧
      rdF u (Reg.RP_STATUS p) 11 1 = 0 ∧ Keeps [.regs, .host, .out] s u) ∧
  (∀ (s : State) (p : Nat), rpHere s p = true → s.oz.good = true → (rpGet s p).present = false →
    ∃ u, exec (.presenceChange p true) s = .next u ∧ (rpGet u p).present = true ∧ (rpCfg u p 0x68).testBit 19 = true ∧
      (rpCfg u p 0x68).testBit 22 = true ∧ Keeps [.regs, .ev, .host] s u) ∧
  (∀ (s : State) (p : Nat), rpHere s p = true → s.oz.good = true →
    exec (.powerFault p) s = .next (raise (slotCut (bump (rpBit s p 0x68 17 true) (Reg.RP_PWRFLT_CNT p)) p) (rpSrc p 2) []) ∧
    exec (.attentionButton p) s = .next (raise (rpBit s p 0x68 16 true) (rpSrc p 1) [])) ∧
  (∀ (s : State) (p rate width : Nat), rdF s (Reg.RP_CTL p) 0 1 = 1 → rdF s (Reg.RP_STATUS p) 0 1 = 0 → (rpGet s p).power = true →
    (rpGet s p).perst = false → (rpGet s p).dpc = false → 1 ≤ rate → rate ≤ 6 → width ∈ [1, 2, 4, 8, 16] → width ≤ rpLanes s p →
    ∃ u, exec (.rpLinkUp p rate width) s = .next u ∧ rdF u (Reg.RP_STATUS p) 0 1 = 1 ∧ rdF u (Reg.RP_STATUS p) 1 3 = rate ∧
      rdF u (Reg.RP_STATUS p) 4 5 = width ∧ (rpCfg u p 0x68).testBit 24 = true ∧ Keeps [.regs, .ev, .host] s u) ∧
  (∀ (s : State) (p : Nat), p < 8 → rdF s (Reg.RP_STATUS p) 0 1 = 1 →
    exec (.rpLinkDown p) s = .next (if dpcEnable (rpLinkShow s p 0 0 0) p ≠ 0 then dpcTrigger (rpLinkShow s p 0 0 0) p 0 0 else rpLinkShow s p 0 0 0) ∧
    rdF (rpLinkShow s p 0 0 0) (Reg.RP_STATUS p) 0 1 = 0 ∧ (rpCfg (rpLinkShow s p 0 0 0) p 0x68).testBit 24 = true) ∧
  (∀ (s : State) (req : Requester) (p : Nat) (v : W32), rpHere s p = true → Passes s req (Reg.RP_DCFG_CMD p) false → (rpGet s p).dcfg = none →
    (rpGet s p).dpc = false →
    (rbit v 0 = true → ∃ u, exec (.dcfgRead req 15 p v) s = .next u ∧ rdN u (Reg.RP_DCFG_STATUS p) = 1 ∧
      (rpGet u p).dcfg = some { write := false, addr := rdF s (Reg.RP_DCFG_ADDR p) 0 26, data := rdN s (Reg.RP_DCFG_DATA p), since := s.time.elapsed } ∧
      u.out = .drive p "config read" (rdF s (Reg.RP_DCFG_ADDR p) 0 26) [] :: s.out ∧ Keeps [.regs, .host, .out] s u) ∧
    (rbit v 0 = false → rbit v 1 = true → ∃ u, exec (.dcfgWrite req 15 p v) s = .next u ∧ rdN u (Reg.RP_DCFG_STATUS p) = 1 ∧
      u.out = .drive p "config write" (rdF s (Reg.RP_DCFG_ADDR p) 0 26) (le 4 (rdN s (Reg.RP_DCFG_DATA p))) :: s.out ∧ Keeps [.regs, .host, .out] s u)) ∧
  (∀ (s : State) (p result data : Nat) (d : DriveCfg), (rpGet s p).dcfg = some d → result ≤ 3 →
    ∃ u, exec (.dcfgAnswer p result data) s = .next u ∧ (rpGet u p).dcfg = none ∧ rdN u (Reg.RP_DCFG_STATUS p) = 2 * result ∧
      (d.write = false → rdN u (Reg.RP_DCFG_DATA p) = if result = 0 then data % 2 ^ 32 else 0xFFFFFFFF) ∧ Keeps [.regs, .host] s u) ∧
  (∀ (s : State) (p id : Nat) (q : DriveReq), aget (rpGet s p).reqs id = some q → q.done = false → (rpGet s p).dpc = false →
    ∃ u, exec (.driveCompletion p id false) s = .next u ∧ aget (rpGet u p).reqs id = some { q with done := true } ∧ Keeps [.host] s u) ∧
  (∀ (s : State) (p id n : Nat) (bytes : List Byte) (q : DriveReq) (m : SvCmd) (x : Ns) (c : Ctrl), aget (rpGet s p).reqs id = some q →
    aget s.sv.cmds id = some m → cmdNs s m = some (n, x) → aget s.sv.ctrls m.ctrl = some c → (rpGet s p).dpc = false → m.silent = false →
    q.write = false → q.done = false → m.prps ≠ [] → ctrlWrites s c = true → bytes ≠ [] → q.got + bytes.length ≤ (m.ranges.headD (0, 0)).2 * nsBlk x →
    x.enc = false → x.backing ≠ 0 →
    exec (.driveWriteForward p id bytes) s = .next
      (rpUpd ((prpDrop q.got (prpSpread m.prps (List.replicate q.got 0 ++ bytes))).foldl (fun u w => slWrite u c.slice w.1 (payloadAttr s c.slice false none none) w.2) s) p
        (fun r => { r with reqs := aupd r.reqs id (fun q => { q with got := q.got + bytes.length }) }))) ∧
  (∀ (s : State) (p bit : Nat), p < 8 → rdF s (Reg.RP_STATUS p) 0 1 = 1 → bit < 32 → (rpGet s p).dpc = false →
    exec (.rpErrorMessage p bit 2) s = .next (raise (rpBit (rpBit s p 0x110 bit true) p 0x130 0 true) (rpSrc p 5) [(4, bit)]))

/-- The bring-up of ports completes with the effects of R144 to R151 and R165. -/
def Obligations.PortBringUpComplete : Prop :=
  (∀ (s : State) (req : Requester) (pg : Nat) (v : W32), pg < 8 → Passes s req (Reg.EN_PG_CTL pg) false → rfld v 0 3 ≠ rdF s (Reg.EN_PG_CTL pg) 0 3 →
    pgEnabled s pg = false →
    ∃ t, exec (.pgModeWrite req 15 pg v) s = .next t ∧ t.regs = (plainWrite s (Reg.EN_PG_CTL pg) 7 v).regs ∧
      aget t.net.modes pg = some (rfld v 0 3, s.time.elapsed) ∧ Keeps [.regs, .net] s t) ∧
  (∀ (s : State) (pg m since : Nat), aget s.net.modes pg = some (m, since) →
    exec (.pgModeChangeDone pg) s = .next ((List.range 4).foldl (fun s k => lineFollow s (4 * pg + k))
      ((List.range 4).foldl (fun s k => if portDownFlush s (4 * pg + k) then portFlush s (4 * pg + k) else s)
        (wrF { s with net := { s.net with modes := adel s.net.modes pg } } (Reg.EN_PG_STATUS pg) 12 3 (if m ≥ 5 then 0 else m))))) ∧
  (∀ (s : State) (req : Requester) (p : Nat) (v : W32), portPresent s p = true → Passes s req (Reg.EN_PORT_CTL (p / 4) (p % 4)) false →
    (let u := plainWrite s (Reg.EN_PORT_CTL (p / 4) (p % 4)) 0x3F v
     (rbit v 0 = true → exec (.portEnable req 15 p v) s = .next
       (flowRecheck (lineFollow (if portDownFlush (portStart u p) p then portFlush (portStart u p) p else portStart u p) p) p)) ∧
     (rbit v 0 = false → exec (.portDisable req 15 p v) s = .next
       (flowRecheck (lineFollow (if portDownFlush (setPortState u p 0) p then portFlush (setPortState u p 0) p else setPortState u p 0) p) p)))) ∧
  (∀ (s : State) (pg lane : Nat) (signal cdr : Bool), pg < 8 → lane < 4 → (∀ k, k < 4 → portPresent s (4 * pg + k) = false) →
    (∀ k, k < 4 → portState s (4 * pg + k) ≠ 2) →
    ∃ t, exec (.signalDetect pg lane signal cdr) s = .next t ∧ rdF t (Reg.EN_LANE_STATUS pg lane) 0 1 = b2n signal ∧
      rdF t (Reg.EN_LANE_STATUS pg lane) 1 1 = b2n cdr ∧ Keeps [.regs, .net] s t) ∧
  (∀ (s : State) (p : Nat) (taps : List Nat), portPresent s p = true → portState s p = 1 → rbit (portCtl s p) 1 = false →
    exec (.trainingComplete p true taps) s = .next
      (let u := (portLanes s p).foldl (fun s l => wrF s (Reg.EN_LANE_STATUS (p / 4) l) 2 1 1) s
       setPortState (portUpd u p (fun x => { x with since := u.time.elapsed })) p 2)) ∧
  (∀ (s : State) (p lanes : Nat), portState s p = 1 → (portGet s p).trained + 500 * msUnits ≤ s.time.elapsed →
    exec (.trainingTimeout p lanes) s = .next
      (raise (setPortState (portUpd s p (fun x => { x with trained := s.time.elapsed })) p 6) (portSrc p 7) [(4, lanes)])) ∧
  (∀ (s : State) (p : Nat), portState s p = 6 → (portGet s p).trained + 1000 * msUnits ≤ s.time.elapsed →
    exec (.trainFailRetry p) s = .next (setPortState (portUpd s p (fun x => { x with trained := s.time.elapsed })) p 1)) ∧
  (∀ (s : State) (p : Nat) (lock lf rf : Bool), portPresent s p = true → debounce s p ≠ 0 → faultOf (portGet s p).lock (portGet s p).lf (portGet s p).rf ≠ faultOf lock lf rf →
    exec (.lockChange p lock lf rf) s = .next
      (lineFollow (portSet s p { portGet s p with lock := lock, lf := lf, rf := rf, since := s.time.elapsed }) p)) ∧
  (∀ (s : State) (p : Nat), portPresent s p = true → (portGet s p).since + debounce s p ≤ s.time.elapsed → portState s p = 2 → (portGet s p).lock = true →
    lanesCdr s p = true → exec (.debounceExpire p) s = .next (setPortState s p 3)) ∧
  (∀ (s : State) (p cw uncorr syms : Nat), portPresent s p = true → (portGet s p).fecMs < s.time.elapsed / msUnits →
    (let u := portCnt (portCnt (portCnt (portUpd s p (fun x => { x with fecMs := s.time.elapsed / msUnits })) p 17 cw) p 18 uncorr) p 19 syms
     let off := Reg.EN_FEC_DEGRADE (p / 4) (p % 4)
     rbit (rd u off) 31 = false → syms ≤ rdF u off 0 24 →
       exec (.fecDegradeWindow p cw uncorr syms) s = .next (portUpd u p (fun x => { x with goodMs := (portGet u p).goodMs + 1 })))) ∧
  (∀ (s : State) (pg : Nat), pg < 8 → rclkGood s pg = false → rdF s (Reg.EN_RCLK_CTL pg) 4 1 = 0 →
    ∃ t, exec (.rclkSquelch pg) s = .next t ∧ rdF t (Reg.EN_RCLK_CTL pg) 4 1 = 1 ∧ Keeps [.regs, .ev, .out] s t) ∧
  (∀ (s : State) (pg : Nat), pg < 8 → rclkGood s pg = true → rdF s (Reg.EN_RCLK_CTL pg) 4 1 = 1 → agetD s.net.rclk pg 0 + msUnits ≤ s.time.elapsed →
    ∃ t, exec (.rclkResume pg) s = .next t ∧ rdF t (Reg.EN_RCLK_CTL pg) 4 1 = 0 ∧ Keeps [.regs, .ev, .out] s t)

/-- The commands of frames and rings complete with the effects of chapters 5 and 6. -/
def Obligations.FrameAndRingCommandsComplete : Prop :=
  (∀ (s : State) (p : Nat) (b : List Byte), portPresent s p = true → portState s p = 3 → 60 ≤ b.length → b.length + 4 ≤ maxFrame s p →
    (isMacControl b = false → exec (.frameReceive p b true false false) s = .next (arrive (portCnt (portCnt s p 0 (b.length + 4)) p 1 1) p b)) ∧
    exec (.frameReceive p b false false false) s = .next (portCnt s p 2 1) ∧
    (isMacControl b = true → beAt b 14 2 = 1 → portFc (portCnt (portCnt s p 0 (b.length + 4)) p 1 1) p = 1 →
      exec (.macControlFrame p b) s = .next
        (pauseUpdate (loadPause (unIgnore (portCnt (pauseUpdate (portCnt (portCnt s p 0 (b.length + 4)) p 1 1) p) p 7 1) p 8 (beAt b 16 2)) p 8 (beAt b 16 2)) p))) ∧
  (∀ (s : State) (p : Nat), portPresent s p = true →
    exec (.pauseTimerExpire p) s = .next (pauseUpdate (portUpd s p (fun x => { x with pause := x.pause.filter (fun e => s.time.elapsed < e.2) })) p) ∧
    (portServes s p = true → ∀ f rest, (portGet s p).tx = f :: rest → mdF f.md 0x4C 0 2 = 0 → 
      (let w := portUpd s p (fun x => { x with tx := rest })
       let out := if f.bytes.length < 60 then fit 60 f.bytes else f.bytes
       let u := emit (portCnt (portCnt { w with land := { w.land with begun := aset w.land.begun p (agetD w.land.begun p 0 - 1) } } p 9 (out.length + 4)) p 10 1) (.frame p (lineFrame out))
       exec (.frameTransmit p) s = .next (freeGrains (txCapture u f.origin f.late (nowNs u)) f.grains))) ∧
    (pfcQuanta s p ≠ 0 → ∀ i, (portGet s p).xoff = [(i, 0)] → quanta s p (pfcQuanta s p / 2) ≤ s.time.elapsed → portFc s p = 1 →
      rdF s (Reg.EN_PFC_REFRESH (p / 4) (p % 4)) 0 16 = 0 →
      exec (.pfcRefresh p) s = .next (controlFrame (portUpd s p (fun x => { x with xoff := aset x.xoff i s.time.elapsed })) p [(i, pfcQuanta s p)]))) ∧
  (∀ (s : State) (p c since : Nat), portPresent s p = true → aget (portGet s p).paused c = some since → rdN s (Reg.EN_PFC_WATCHDOG (p / 4) (p % 4)) ≠ 0 →
    classPaused s p c = true → since + rdN s (Reg.EN_PFC_WATCHDOG (p / 4) (p % 4)) * usUnits < s.time.elapsed →
    exec (.pfcWatchdog p c) s = .next (raise (pauseUpdate (portUpd s p (fun x => { x with ignore := x.ignore ++ [c] })) p) (portSrc p 4) [(4, c)])) ∧
  (∀ (s : State) (link fnum page n i : Nat) (x : Slice) (c : Chan), pageDecodes s link fnum page = true → pageOwner s link fnum page = some (n, x) →
    x.state ≠ 2 → pageChans s link fnum page = [i] → chanGet s i = some c → devProduced c = false → c.state ≠ 4 → (samplePidx s i).2 = true →
    exec (.doorbell link fnum page 15) s = .next (samplePidx s i).1) ∧
  (∀ (s : State) (link fnum page slot i : Nat) (v : W32) (c : Chan), pageDecodes s link fnum page = true → slotChan s link fnum page slot = some (i, c) →
    (devProduced c = false → ∃ t, exec (.pidxWrite link fnum page slot 15 v) s = .next t ∧ chanGet t i = some { c with pidxReg := v.toNat } ∧ Keeps [.ch] s t) ∧
    (devProduced c = true → c.kind ≠ 7 → sub32 v.toNat c.cidx ≤ c.size → sub32 c.pidx v.toNat ≤ c.size →
      ∃ t, exec (.cidxWrite link fnum page slot 15 v) s = .next t ∧ chanGet t i = some { c with cidx := v.toNat } ∧ Keeps [.ch] s t) ∧
    (c.kind = 6 → exec (.cqArm link fnum page slot 15 v) s = .next (cqNotify (chanSet s i { c with armVal := v.toNat, armed := true }) i))) ∧
  (∀ (s : State) (i q : Nat) (c d : Chan), chanGet s i = some c → mayFetch s i c = true → fetchRoom s c ≠ 0 → c.kind ≠ 4 → chanOf s c.bind = some (q, d) → q ≠ i →
    exec (.descriptorFetch i) s = .next (sliceRead
      (chanUpd (chanUpd s i (fun e => { e with fetching := e.fetching + fetchRoom s c })) q (fun e => { e with reserved := e.reserved + fetchRoom s c }))
      c.slice (c.base + 64 * (add32 c.cidx c.fetching % c.size)) (64 * fetchRoom s c) 0 (.desc i (add32 c.cidx c.fetching) (fetchRoom s c)))) ∧
  (∀ (s : State) (id i : Nat) (r : HRead) (c : Chan), aget s.host.reads id = some r → r.work = .desc i c.cidx 1 → chanGet s i = some c → r.failed = none →
    r.left = 0 → rdN s Reg.FT_DEP_USED < 1048576 →
    exec (.descriptorArrive id) s = .next (entTake { s with host := { s.host with reads := adel s.host.reads id } } i c (slice r.data 0 64))) ∧
  (∀ (s : State) (i : Nat) (c : Chan) (x : Slice), chanGet s i = some c → aget s.slices c.slice = some x → x.state ≠ 2 → sliceLive s c.slice = true →
    (c.kind ≠ 2 → exec (.completionWrite i) s = .next (drainCheck (writeHead s i) i)) ∧
    (c.kind = 2 → exec (.ethTxCompletion i) s = .next (drainCheck (writeHead s i) i)) ∧
    (c.kind = 7 → c.noVector = false → c.modN ≠ 0 → c.modFirst + c.modTime * usUnits ≤ s.time.elapsed → ∀ l, x.link = some l →
      exec (.msixModTimer i) s = .next (sendVector (chanSet s i { c with modN := 0 }) l x.fnum c.vector)))

/-- The generic and channel admin commands complete with the effects of R198 to R206, R214 and R215. -/
def Obligations.ChannelAdminCommandsComplete : Prop :=
  (∀ (s : State) (sl t : Nat) (cmd : List Byte),
    (AdminReady s sl 0x00 cmd t → exec (.nop sl cmd) s = .next (adminComplete s sl 0x00 (leAt cmd 8 8) {})) ∧
    (AdminReady s sl 0x01 cmd t → exec (.queryStatus sl cmd) s = .next
      (adminComplete s sl 0x01 (leAt cmd 8 8) { aux := rdF s Reg.GL_BOOT_STAGE 0 4 + 16 * b2n (deviceReady s) }))) ∧
  (∀ (s u : State) (sl t i : Nat) (cmd : List Byte), AdminReady s sl 0x02 cmd t → (aget s.slices t).isSome = true → createBad s t (cmdNewChan t cmd) = none →
    allocIndex s t (idxRange s t).1 (idxRange s t).2 = (some i, u) →
    exec (.createChannel sl cmd) s = .next
      (adminComplete (chanCreate u i (cmdNewChan t cmd)).1 sl 0x02 (leAt cmd 8 8) { handle := (chanCreate u i (cmdNewChan t cmd)).2 })) ∧
  (∀ (s : State) (sl t i : Nat) (cmd : List Byte) (c : Chan), cmdChan s t cmd = some (i, c) →
    (AdminReady s sl 0x03 cmd t → destroyBlocked s i c = false → exec (.destroyChannel sl cmd) s = .next
      (resetChan (adminDefer s sl 0x03 (leAt cmd 8 8) (chanHandle i c)) i 2)) ∧
    (AdminReady s sl 0x04 cmd t → c.kind = 7 → par cmd 0x14 0 1 = 0 → par cmd 0x14 1 1 = 0 → par cmd 0x14 2 1 = 1 → par cmd 0x14 3 1 = 1 →
      par cmd 0x14 4 1 = 0 → par cmd 0x14 5 1 = 0 →
      (let n := cmdNewChan t (patch (fit 64 cmd) 0x10 (le 1 c.kind))
       exec (.modifyChannel sl cmd) s = .next
        (adminComplete (chanSet s i { c with modCount := n.modCount, modTime := n.modTime }) sl 0x04 (leAt cmd 8 8) { handle := chanHandle i c }))) ∧
    (AdminReady s sl 0x05 cmd t → c.state ≠ 3 → c.state ≠ 4 → exec (.disableChannel sl cmd) s = .next
      (adminComplete (chanDisable s i) sl 0x05 (leAt cmd 8 8) { handle := chanHandle i c })) ∧
    (AdminReady s sl 0x06 cmd t → c.state ≠ 3 → c.state ≠ 4 → exec (.enableChannel sl cmd) s = .next
      (adminComplete (chanEnable s i) sl 0x06 (leAt cmd 8 8) { handle := chanHandle i c })) ∧
    (AdminReady s sl 0x07 cmd t → c.kind ≠ 1 → exec (.resetChannel sl cmd) s = .next
      (resetOrHold (adminDefer s sl 0x07 (leAt cmd 8 8) (chanHandle i c)) i)) ∧
    (∀ env, AdminReady s sl 0x08 cmd t → envWrite env = STS_OK → exec (.queryChannel sl cmd env) s = .next
      (adminComplete (slWrite s sl (par cmd 0x18 0 64) 0 (chanRecord i c)) sl 0x08 (leAt cmd 8 8) { len := (chanRecord i c).length }))) ∧
  (∀ (s : State) (req : Requester) (sl : Nat) (v : W32), sliceReq s req sl = true → Passes s req slCtlOff false → (aget s.slices sl).isSome = true → sliceEnabled s sl = true →
    (rbit v 0 = true → rbit v 1 = false → rdF s (Reg.SL_CTL sl) 0 1 = 0 → exec (.aqEnable req 15 sl v) s = .next (aqEnable s sl)) ∧
    (rbit v 0 = false → rbit v 1 = false → rdF s (Reg.SL_CTL sl) 0 1 = 1 → exec (.aqDisable req 15 sl v) s = .next (aqDisable s sl)) ∧
    (rbit v 0 = false → rbit v 1 = true → rdF s (Reg.SL_CTL sl) 0 1 = 0 → exec (.slCtlReset req 15 sl v) s = .next (sliceReset s sl 1)))

/-- The slice commands complete with the effects of R216 to R233. -/
def Obligations.SliceCommandsComplete : Prop :=
  (∀ (s : State) (cmd : List Byte) (t n : Nat), AdminReady s 0 0x40 cmd t → par cmd 0x1C 15 1 = 0 → n = par cmd 0x1C 0 14 → aget s.slices n = none →
    par cmd 0x18 16 16 ≠ 0 → par cmd 0x10 31 1 = 0 → bindingBad s (par cmd 0x10 0 4) (par cmd 0x10 4 8) none (par cmd 0x18 0 16) (par cmd 0x18 16 16) = false →
    hrangeBad s (par cmd 0x20 0 24) (par cmd 0x24 0 24) = false →
    exec (.createSlice 0 cmd) s = .next (adminComplete { s with slices := aset s.slices n ({ link := some (par cmd 0x10 0 4), fnum := par cmd 0x10 4 8, pasid := none, page0 := par cmd 0x18 0 16, pages := par cmd 0x18 16 16, hbase := par cmd 0x20 0 24, hcount := par cmd 0x24 0 24 } : Slice) } 0 0x40 (leAt cmd 8 8) { aux := n })) ∧
  (∀ (s : State) (cmd : List Byte) (t : Nat) (x : Slice), aget s.slices t = some x →
    (t ≠ 0 → AdminReady s 0 0x41 cmd t → exec (.destroySlice 0 cmd) s = .next (sliceReset (adminDefer s 0 0x41 (leAt cmd 8 8) t) t 6)) ∧
    (∀ sl, AdminReady s sl 0x44 cmd t → exec (.resetSlice sl cmd) s = .next (sliceReset (adminDefer s sl 0x44 (leAt cmd 8 8) t) t 2)) ∧
    (∀ sl, AdminReady s sl 0x45 cmd t → exec (.querySlice sl cmd) s = .next
      (adminComplete s sl 0x45 (leAt cmd 8 8) { aux := x.state + 256 * x.fault + 65536 * x.gen })) ∧
    (∀ res limit, AdminReady s 0 0x42 cmd t → res = par cmd 0x10 0 8 → limit = par cmd 0x18 0 64 → res < 7 → res ≠ 5 → quotaBad s t x res limit x.ksBase = none →
      (let u := slUpd s t (fun y => { y with limits := aset y.limits res limit, ksBase := x.ksBase })
       useOf u t res ≤ limit →
       exec (.setQuota 0 cmd) s = .next (adminComplete u 0 0x42 (leAt cmd 8 8) { aux := min (useOf u t res) 0xFFFFFFFF }))) ∧
    (∀ sl res env, AdminReady s sl 0x43 cmd t → res = par cmd 0x10 0 8 → res < 6 → envWrite env = STS_OK →
      exec (.queryQuota sl cmd env) s = .next (adminComplete
        (slWrite s sl (par cmd 0x18 0 64) 0 (le 8 (sliceLimit s t res) ++ le 8 (useOf s t res))) sl 0x43 (leAt cmd 8 8) { len := 16 }))) ∧
  (∀ (s : State) (sl : Nat) (x : Slice), aget s.slices sl = some x → x.state = 2 →
    (x.stopped = false → exec (.sliceResetStart sl) s = .next
      (slUpd (svKeyless (svSliceReset (sliceKeysErase (sliceQpsStop (stuckDrop (sliceQueuesDrop (sliceChansStop s sl) sl) sl) sl) sl) sl x.cause)) sl
        (fun y => { y with stopped := true }))) ∧
    (x.stopped = true → exec (.sliceResetEnd sl) s = .next (sliceResetEnd s sl))) ∧
  (∀ (s : State) (sl m : Nat) (x : Slice), aget s.slices sl = some x → m < sliceLimit s sl 7 → x.written.contains m = false →
    ∃ u, exec (.backgroundZero sl m) s = .next u ∧ u.mem = memClear s.mem (gmBase sl + m * mib) (gmBase sl + (m + 1) * mib) ∧
      aget u.slices sl = some { x with written := insNat m x.written } ∧ Keeps [.mem, .slices] s u) ∧
  (∀ (s : State) (cmd : List Byte) (t : Nat) (x : Slice), aget s.slices t = some x →
    (∀ n base len bm, AdminReady s 0 0x48 cmd t → n = par cmd 0x10 0 4 → base = par cmd 0x18 0 64 → len = par cmd 0x20 0 64 → bm = par cmd 0x28 0 64 →
      len ≠ 0 → base % 4096 = 0 → len % 4096 = 0 → bm % 8 = 0 → x.logs = [] →
      (s.slices.map (fun e => (e.2.logs.map (fun r => r.2.len)).foldl (· + ·) 0)).foldl (· + ·) len ≤ 2 ^ 43 →
      exec (.logStart 0 cmd) s = .next (adminComplete
        (slUpd s t (fun y => { y with logs := aset y.logs n { base := base, len := len, bitmap := bm } })) 0 0x48 (leAt cmd 8 8) {})) ∧
    (∀ env, AdminReady s 0 0x49 cmd t → par cmd 0x10 0 16 = 0 → envWrite env = STS_OK →
      (let u := slUpd s t (fun y => { y with logs := amap y.logs (fun n r => if x.logs.any (fun e => e.1 == n) then { r with marks := [] } else r) })
       exec (.logFlush 0 cmd env) s = .next (adminComplete (x.logs.foldl (fun s e => slWrite s 0 e.2.bitmap 0 (logBitmap e.2)) u) 0 0x49 (leAt cmd 8 8)
         { aux := min ((x.logs.map (fun e => e.2.marks.length)).foldl (· + ·) 0) 0xFFFFFFFF }))) ∧
    (AdminReady s 0 0x4A cmd t → par cmd 0x10 0 16 = 0 →
      exec (.logStop 0 cmd) s = .next (adminComplete (slUpd s t (fun y => { y with logs := y.logs.filter (fun e => !x.logs.any (fun r => r.1 == e.1)) })) 0 0x4A (leAt cmd 8 8) {})))

/-- Freeze, thaw, export and import complete with the effects of R234 to R237. -/
def Obligations.SliceImageCommandsComplete : Prop :=
  (∀ (s : State) (cmd : List Byte) (t : Nat) (x : Slice), aget s.slices t = some x →
    (AdminReady s 0 0x4C cmd t → x.state = 1 → x.freeze = none → exec (.freezeSlice 0 cmd) s = .next
      ((sliceChans (adminDefer (slUpd s t (fun y => { y with freeze := some (s.time.elapsed, par cmd 0x10 0 32) })) 0 0x4C (leAt cmd 8 8) t) t).foldl flushIdle
        (adminDefer (slUpd s t (fun y => { y with freeze := some (s.time.elapsed, par cmd 0x10 0 32) })) 0 0x4C (leAt cmd 8 8) t))) ∧
    (x.state = 1 → x.freeze.isSome = true → frozenNow s t = true → exec (.freezeComplete t) s = .next
      (adminWake (raise (slUpd s t (fun y => { y with state := 4, freeze := none })) 0x024 [(2, t), (4, 4)]) 0x4C t {})) ∧
    (∀ t0 us, x.freeze = some (t0, us) → us ≠ 0 → t0 + us * usUnits ≤ s.time.elapsed → exec (.freezeTimeout t) s = .next
      (svResume (adminWake (qpTimersRestart (slUpd s t (fun y => { y with freeze := none })) t) 0x4C t { sts := STS_TIMEOUT }))) ∧
    (∀ env, AdminReady s 0 0x4D cmd t → x.state = 4 → sliceKeys s t x = [] → (sliceImage s t x 0).length ≤ par cmd 0x18 0 32 → envWrite env = STS_OK →
      exec (.exportSlice 0 cmd env) s = .next (adminComplete (slWrite s 0 (par cmd 0x10 0 64) (payloadAttr s 0 false none none) (sliceImage s t x 0)) 0 0x4D (leAt cmd 8 8)
        { len := (sliceImage s t x 0).length })) ∧
    (∀ env bs secs, AdminReady s 0 0x4E cmd t → x.state = 1 → x.freeze = none → sliceEmpty s t x = true → mayRead s 0 = true →
      (let r := slFetch s 0 [(par cmd 0x10 0 64, par cmd 0x18 0 32)] 0 (envRead env 0)
       r.2 = .ok bs → readImage (fit (par cmd 0x18 0 32) bs) = some secs → imageWrong r.1 t x secs = false → imageUnfit r.1 t x secs = false →
       sectionOf secs 5 = [] → exec (.importSlice 0 cmd env) s = .next (adminComplete (imagePlace r.1 t x secs []) 0 0x4E (leAt cmd 8 8) {}))) ∧
    (AdminReady s 0 0x4F cmd t → x.state = 4 →
      (let u := raise (slUpd s t (fun y => { y with state := 1 })) 0x024 [(2, t), (4, 1)]
       exec (.thawSlice 0 cmd) s = .next (adminComplete (svResume (qpTimersRestart ((sliceChans u t).foldl (fun s i =>
        match chanGet s i with
        | some c => if c.state = 4 then s else (samplePidx s i).1
        | none => s) u) t)) 0 0x4F (leAt cmd 8 8) {}))))

/-- The events of the flights complete with the effects of chapters 8 to 13. -/
def Obligations.FlightEventsComplete : Prop :=
  (∀ (s : State) (p role fl : Nat) (mark : Bool) (e : EntryQ) (k : Pkt) (rest : List Pkt), fl < 2 → stairOf s role = some p → entryGet s role fl = e → e.replay = [] →
    e.wire = k :: rest → k.origin = none →
    (let u := entrySet s role fl { e with wire := rest }
     let r := parsePkt u p role k
     let b := profOf p role (mdSrc r.1.md)
     let v := if r.2 then bump u (Reg.STA_PROF_2SLOT_CNT b.1 b.2) else u
     exec (.ingressEntry role fl mark) s = .next (joinFlight v p role fl (newClimb v p fl { r.1 with stair := p } false) (pktSlots { r.1 with stair := p })))) ∧
  (∀ (s : State) (p seq ecc : Nat) (c : Climb), p < 9 → unitState s p = 1 → (flightGet s p 1).climbs.find? (fun c => c.seq == seq) = some c → c.step < 12 →
    aheadDone (flightGet s p 1).climbs c = true →
    (let r := runStep s p p 1 c (viewOf (flightGet s p 1).climbs c)
     let v := if ecc = 0 then r.1 else bump r.1 (Reg.STA_TBL_ECC_CNT p) ecc
     let u := flightUpd v p 1 (fun f => { f with climbs := f.climbs.map (fun x => if x.seq = seq then r.2 else x) })
     let held := ((flightGet u p 1).climbs.filter (fun x => x.marker.isNone && !x.intents.isEmpty)).length
     r.2.gone = c.gone → exec (.flightStep p 1 seq (.live ecc)) s = .next
      (if rdN u (Reg.STA_RET_BUF_HWM p 1) < held then wrN u (Reg.STA_RET_BUF_HWM p 1) held else u))) ∧
  (∀ (s : State) (role p : Nat) (c : Climb) (rest : List Climb), stairOf s role = some p → c.marker = none →
    ((flightGet s p 0).climbs = c :: rest → 20 ≤ c.step → exec (.ingressRetire role false) s = .next (ingressRetire s p role c rest)) ∧
    (∀ sts, (flightGet s p 1).climbs = c :: rest → 12 ≤ c.step → exec (.egressRetire role false sts) s = .next (egressRetire s p role c rest sts))) ∧
  (∀ (s : State) (role fl p n : Nat) (c : Climb) (m : Marker) (rest : List Climb), fl < 2 → stairOf s role = some p → (flightGet s p fl).climbs = c :: rest → c.marker = some n →
    flightLen fl ≤ c.step → aget (flightGet s p fl).inside n = some m →
    (let u := markerAct (wrN (flightUpd s p fl (fun f => { f with climbs := rest, mark := c.seq, inside := adel f.inside n })) (Reg.STA_RET_MARK p fl) c.seq) p fl m c.intents
     exec (.arrayMarkerRetire role fl) s = .next (if m.what = 7 then u else cmdEnd u m.src fl (m.what == 6)))) ∧
  (∀ (s : State) (id : Nat) (x : Parked), s.land.hall.find? (fun x => x.pkt.id == id) = some x →
    (keyReady s x.key = true → exec (.reentryRelease id) s = .next (unpark s (fun y => sameKey y.key x.key && y.stair == x.stair) (unitRole s x.stair))) ∧
    (∀ p key, x.key = .glean p key → rdF s (Reg.STA_GLEAN_CTL p) 16 16 ≠ 0 → x.since + rdF s (Reg.STA_GLEAN_CTL p) 16 16 * usUnits ≤ s.time.elapsed →
      (let u := raiseLim (bump { s with land := { s.land with hall := s.land.hall.filter (fun y => y ≠ x) } } (Reg.STA_GLEAN_WAIT_EXP_CNT p)) (stairSrc p 3) 0 []
       exec (.gleanWaitExpire id) s = .next (entryUpd u (unitRole u x.stair) x.flight (fun e => { e with again := e.again ++ [{ x.pkt with forced := true, single := true }] }))))) ∧
  (∀ (s : State) (p slot : Nat) (e : TEntry), p < 9 → aget (entriesOf s p 62) slot = some e → rdF s (Reg.STA_GLEAN_CTL p) 0 16 ≠ 0 →
    rdF s (Reg.STA_GLEAN_CTL p) 0 16 ≤ sub32 (bornNow s) (leAt e.data 12 4) →
    exec (.gleanAge p slot) s = .next (bump (setEntries s p 62 (adel (entriesOf s p 62) slot)) (Reg.STA_GLEAN_AGED_CNT p))) ∧
  (∀ (s : State) (q id : Nat) (x : QPkt), (nodeGet s 0 q).pkts.find? (fun x => x.pkt.id == id) = some x → x.pkt.unverified = true →
    s.cy.aside.any (fun a => a.flight == 0 && a.queue == q && a.id == id) = false → cyMode x.pkt.md ≠ 1 → rmActs x.pkt.md = false →
    exec (.inlineVerifyDone q id) s = .next (verified s q id x.pkt)) ∧
  (∀ (s : State) (root q p : Nat) (x : QPkt), root < 48 → chooseQueue s root = some q → readyHead s (nodeGet s 0 q) = some x →
    targetOk s (nodeGet s 0 q) (if mdDisp x.pkt.md = 2 then mdHandle x.pkt.md else 0) = true → stairOf s x.stair = some p →
    exec (.dispatch root) s = .next (dispatchFrom s root ((keptQueue s root).getD q))) ∧
  (∀ (s : State) (p fl ctx : Nat) (qp : Bool) (a : Aside) (c : Cctx) (k : KeySlot), s.cy.aside.find? (fun a => a.stair == p && a.flight == fl && a.qp == qp && a.ctx == ctx) = some a →
    ctxGet s qp ctx = some c → c.state ≠ 2 → aget s.cy.slots c.slot = some k →
    (let u := bump (cacheFill s p (dkCode qp ctx a.dir a.epoch) (derived k.key (labelFor c.label (if a.dir = 0 then c.side else 1 - c.side) a.epoch))) Reg.KS_DERIVE_CNT
     exec (.keyDerived p fl qp ctx) s = .next
      ((u.cy.aside.filter (fun a => a.stair == p && a.flight == fl && a.qp == qp && a.ctx == ctx)).foldl asideGo
        (cyUpd u (fun y => { y with aside := y.aside.filter (fun a => !(a.stair == p && a.flight == fl && a.qp == qp && a.ctx == ctx)) })))))

/-- Table commands and what tables do by themselves complete with the effects of chapters 8 and 9. -/
def Obligations.TableCommandsComplete : Prop :=
  (∀ (s : State) (req : Requester) (st : Nat) (v : W32), st < 9 → Passes s req (Reg.STA_PARSE_CMD st) false → rbit v 15 = false →
    (let u := plainWrite s (Reg.STA_PARSE_CMD st) 0x3FF v
     let p := cmdTarget u st
     let e := ofLe ((List.range 8).flatMap (fun w => le 4 (rdN u (Reg.STA_PARSE_DATA st w))))
     (rbit v 13 = true → rbit v 12 = false → rbit v 9 = false → parseCause u [p] e false = none →
       exec (.parseWrite req 15 st v) s = .next (stairUpd u p (fun x => { x with parse := aset x.parse ((1 - rdF u (Reg.STA_PARSE_BANK p) 0 1) * 256 + rfld v 0 8) e }))) ∧
     (rbit v 13 = false → rbit v 12 = true → exec (.parseRead req 15 st v) s = .next
       ((List.range 8).foldl (fun s w => wrN s (Reg.STA_PARSE_DATA st w) (fld (agetD (stairGet u p).parse (rfld v 8 1 * 256 + rfld v 0 8) 0) (32 * w) 32)) u)))) ∧
  (∀ (s : State) (req : Requester) (st op ecc : Nat) (v : W32) (i : Instr), st < 9 → Passes s req (Reg.STA_TBL_CMD st) false → rfld v 8 4 = op → rbit v 17 = false →
    (op, i) ∈ [(1, Instr.tableLookup req 15 ⟨st, ecc⟩ v), (2, .tableRead req 15 ⟨st, ecc⟩ v), (3, .tableInsert req 15 ⟨st, ecc⟩ v), (4, .tableUpdate req 15 ⟨st, ecc⟩ v), (5, .tableDelete req 15 ⟨st, ecc⟩ v),
      (6, .tableWrite req 15 ⟨st, ecc⟩ v), (7, .tableErase req 15 ⟨st, ecc⟩ v), (8, .tableIter req 15 ⟨st, ecc⟩ v), (9, .tableClear req 15 ⟨st, ecc⟩ v)] →
    (let c := readCmd s st v ecc
     let p := cmdTarget s st
     let u := plainWrite s (Reg.STA_TBL_CMD st) 0x703F v
     rdF s (Reg.STA_TBL_CMD st) 16 1 = 0 → (∀ q ∈ cmdBusyStairs st p c, rdF s (Reg.STA_TBL_CMD q) 16 1 = 0) → (∀ q ∈ cmdStairs u p c, cmdRefused u q c = false ∧ cmdUnread u q c = false) →
     cmdWaits u p c = false → exec i s = .next (cmdFinish u st p c))) ∧
  (∀ (s : State) (st : Nat) (c : TblCmd), (stairGet s st).cmd = some c → c.staged = false → cmdWaits s (cmdTarget s st) c = false →
    (let u := stairUpd s st (fun x => { x with cmd := none })
     exec (.tableCommandResume st) s = .next (cmdFinish (cmdBusyBits u (cmdBusyStairs st (cmdTarget s st) c) 0) st (cmdTarget s st) c))) ∧
  (∀ (s : State) (req : Requester) (p t : Nat) (v : W32), p < 9 → t < 62 → Passes s req (Reg.STA_TBL_CFG p t 0) false →
    (let u := stairUpd s p (fun x => { x with held := x.held.filter (fun e => e.1 / 16 ≠ t) })
     (∀ c, cfgCheck u p t (cfgWords s p t v) = some c → exec (.tblCfgApply req 15 p t v) s = .next (wrN u (Reg.STA_TBL_CFG_STATUS p) (1 + 2 * c + 256 * t))) ∧
     (cfgCheck u p t (cfgWords s p t v) = none → exec (.tblCfgApply req 15 p t v) s = .next
       (((cfgWords s p t v).zip [0x0FFF7FFF, 0xFFFF, 0xFFFFFFFF, 0xFFFFFFFF, 0x1FFFFF, 0x1FFFFF, 0x1FFFFF, 0x1FFFFF, 0x1FFFFF, 0x1FFFFF, 0x1FFFFF, 0x1FFFFF, 0xFFFFFFFF, 0x1FFFFFF, 0, 0]).zipIdx.foldl
         (fun s e => wr s (Reg.STA_TBL_CFG p t e.2) (BitVec.ofNat 32 e.1.1 &&& BitVec.ofNat 32 e.1.2)) u)))) ∧
  (∀ (s : State) (p t k sh : Nat), p < 9 → tblKind s p t = 3 → k < 4096 → sh < 3 → (sh = 2 → guardedGone s 2 p 0 = false) →
    ∃ u, exec (.tcamScrub p t ⟨k, sh⟩) s = .next u ∧ rdN u (Reg.STA_TBL_SCRUB_FIX_CNT p) = (rdN s (Reg.STA_TBL_SCRUB_FIX_CNT p) + 1) % 2 ^ 32 ∧
      (sh = 1 → rdN u (Reg.STA_TBL_ECC_CNT p) = (rdN s (Reg.STA_TBL_ECC_CNT p) + 1) % 2 ^ 32) ∧
      (sh = 2 → entriesOf u p t = match aget (agetD (stairGet s p).shadow t []) k with
        | some e => aset (entriesOf s p t) k e
        | none => adel (entriesOf s p t) k) ∧
      (sh ≠ 2 → Keeps [.regs, .ev] s u) ∧ Keeps [.regs, .ev, .stairs] s u) ∧
  (∀ (s : State) (p : Nat) (r : LearnReq) (rest : List LearnReq), (stairGet s p).learns = r :: rest →
    exec (.l2Learn p) s = .next (learnOne (stairUpd s p (fun x => { x with learns := rest })) p r)) ∧
  (∀ (s : State) (p : Nat), p < 9 →
    (let age := rdF s (Reg.STA_L2_CTL p) 0 16
     let stays (e : TEntry) : Bool := e.flags % 2 ≠ 0 || ((stairGet s p).learntAt == s.time.clocks && (stairGet s p).learnt.contains e.key)
     age ≠ 0 → (stairGet s p).aged + age * (1000 * msUnits) ≤ s.time.elapsed → exec (.l2AgeingPass p) s = .next
      (bump (setEntries (stairUpd s p (fun x => { x with aged := s.time.elapsed })) p 63
        (((entriesOf s p 63).filter (fun e => e.2.flags ≠ 0)).map (fun e => (e.1, if stays e.2 then e.2 else { e.2 with flags := 0 })))) (Reg.STA_L2_AGED_CNT p)
        ((entriesOf s p 63).filter (fun e => e.2.flags == 0)).length)) ∧
    (∀ e n k, (stairGet s p).loaded = some k → (stairGet s p).loading = [e] → 1 ≤ n → (findSlot (entriesOf s p 63) (candSlots 65536 (0, 0xFFFFFFFF) e.key ++ stashSlots 65536) (fun x => x.key == e.key)).isSome = true →
      exec (.l2LoadComplete ⟨p, n⟩) s = .next (raise (setEntries (stairUpd s p (fun x => { x with loading := [], loaded := none })) p 63 (entriesOf s p 63)) (stairSrc p 12) [(4, unitRole (setEntries (stairUpd s p (fun x => { x with loading := [], loaded := none })) p 63 (entriesOf s p 63)) p), (4, k)]))) ∧
  (∀ (s : State) (p t b : Nat), p < 9 → tblKind s p t = 5 → b < tcf s p t 13 0 25 → deepSets s p t ≠ 0 → lineOf s p t b = none →
    s.land.hall.any (fun x => deepAt s p t b x.key) = true → unitState s p ≠ 3 → ((stairGet s p).lines.filter (fun l => l.table == t && l.bucket % deepSets s p t == b % deepSets s p t)).length < 4 →
    exec (.deepFetchStart p t b) s = .next (stairSet s p { stairGet s p with lines := (stairGet s p).lines ++ [{ table := t, bucket := b, valid := false, used := (stairGet s p).clock }], clock := (stairGet s p).clock + 1 })) ∧
  (∀ (s : State) (p t b : Nat), (lineOf s p t b).any (fun l => !l.valid) = true → unitState s p ≠ 3 → guardedGone s 0 (p * 64 + t) b = false →
    (let u := stairUpd s p (fun x => { x with lines := x.lines.map (fun l => if l.table = t && l.bucket = b then { l with valid := true, used := x.clock } else l), clock := x.clock + 1 })
     exec (.deepFetchComplete p t b true) s = .next (unpark u (fun x => deepOf p t x.key && keyHere u x.key) (unitRole u p))))

/-- Commits, drains, rehearsals, and commands on arrays and meters complete with the effects of chapters 9 to 12. -/
def Obligations.SheafAndArrayCommandsComplete : Prop :=
  (∀ (s : State) (req : Requester) (v : W32), Passes s req Reg.LD_SHEAF_CMD false → rbit v 3 = false →
    (rbit v 0 = true → rbit v 12 = false → rbit v 13 = false → s.sheaf.pending = false → rdF s Reg.LD_SHEAF_DRAIN 16 1 = 0 → s.sheaf.sweeps = [] →
      (rbit v 1 = false → ∃ t, exec (.sheafCommit req 15 v) s = .next t ∧ t.sheaf.pending = true ∧ t.sheaf.timed = false ∧ rdF t Reg.LD_SHEAF_CMD 2 1 = 1 ∧
        Keeps [.regs, .sheaf, .stairs] s t) ∧
      (rbit v 1 = true → ∃ t, exec (.sheafCommitAt req 15 v) s = .next t ∧ t.sheaf.pending = true ∧ t.sheaf.timed = true ∧ rdF t Reg.LD_SHEAF_CMD 2 1 = 1 ∧
        Keeps [.regs, .sheaf, .stairs] s t)) ∧
    (rbit v 0 = false → rbit v 12 = true → rbit v 13 = false → s.sheaf.pending = true → s.sheaf.timed = true →
      ∃ t, exec (.sheafCancel req 15 v) s = .next t ∧ t.sheaf.pending = false ∧ t.sheaf.timed = false ∧ rdF t Reg.LD_SHEAF_CMD 2 1 = 0 ∧ Keeps [.regs, .sheaf] s t) ∧
    (rbit v 0 = false → rbit v 12 = false → rbit v 13 = true → s.sheaf.pending = false →
      exec (.sheafUnstage req 15 v) s = .next (unstage (plainWrite s Reg.LD_SHEAF_CMD 2 v)))) ∧
  (∀ s : State, commitReady s = true → exec .sheafCommitEffect s = .next (commitNow (if commitLate s then lateFiring s else s) (commitLate s))) ∧
  (∀ (s : State) (old : Nat), draining s = some old → oldCount s = 0 → ∃ t, exec .sheafDrain s = .next t ∧ rdF t Reg.LD_SHEAF_DRAIN 16 1 = 0 ∧
    t.sheaf.sweeps = s.sheaf.sweeps ++ [old] ∧ Keeps [.regs, .ev, .sheaf] s t) ∧
  (∀ s : State, s.sheaf.sweeps ≠ [] → rdF s Reg.LD_SHEAF_DRAIN 16 1 = 0 → ∃ t, exec .sheafSweep s = .next t ∧ t.sheaf.sweeps = [] ∧ rdN t Reg.LD_SHEAF_SWEEP = 0 ∧
    (∀ p x, (p, x) ∈ s.stairs → (p, { x with tbls := amap x.tbls (fun t m => if t ≥ 62 then m else sweepMap (sheafCur s) m), shadow := amap x.shadow (fun _ m => sweepMap (sheafCur s) m) }) ∈ t.stairs) ∧ Keeps [.regs, .stairs, .lpm, .sheaf] s t) ∧
  (∀ s : State, (draining s).isSome = true → rdN s Reg.LD_SHEAF_LIMIT ≠ 0 → s.sheaf.limited = false → s.sheaf.since + rdN s Reg.LD_SHEAF_LIMIT * 1000 ≤ elNs s →
    s.land.hall.filter (fun x => isOld s x.pkt.md) = [] → s.land.entry = [] →
    ∃ t, exec .sheafDrainLimit s = .next t ∧ t.sheaf = { s.sheaf with limited := true } ∧ t.land.hall = s.land.hall.filter (fun x => !isOld s x.pkt.md) ∧ Keeps [.regs, .ev, .ch, .sheaf, .land, .rm] s t) ∧
  (∀ (s : State) (req : Requester) (v : W32), Passes s req Reg.LD_RH_CTL false →
    (rbit v 0 = true → rhRunning s = false → ∀ q, (let u := plainWrite s Reg.LD_RH_CTL 0xFFFF00FE v
      let h := rdN u Reg.LD_RH_RING
      spareStair u = some q → (List.range 16).any (fun r => tmBound u r && tmHandle u r == h && tmUse u r == 3) = true → (chanOf u h).any (fun c => c.2.slice == 0) = true →
      ∃ t, exec (.rehearsalStart req 15 v) s = .next t ∧ rdF t Reg.LD_RH_STATUS 0 1 = 1 ∧ t.sheaf = { s.sheaf with live := [], rhCount := [] } ∧ Keeps [.regs, .ev, .stairs, .sheaf] s t)) ∧
    (rbit v 0 = false → rhRunning s = true → exec (.rehearsalStop req 15 v) s = .next (rhEnd s 1))) ∧
  (∀ (s : State) (req : Requester) (st fl op : Nat) (v : W32) (i : Instr), st < 9 → fl < 2 → Passes s req (Reg.STA_ARR_CMD st fl) false → rbit v 17 = false →
    rdF s (Reg.STA_ARR_CMD st fl) 16 1 = 0 → rfld v 4 4 = op →
    (let u := plainWrite s (Reg.STA_ARR_CMD st fl) 0x10F v
     let a := rfld v 0 4
     let k := rdF u (Reg.STA_ARR_INDEX st fl) 0 23
     let q := cmdTarget u st
     ((op, i) ∈ [(1, Instr.arrayRead req 15 st fl v), (4, .arrayReadSnap req 15 st fl v)] → arrFail u q fl op a k = none →
       exec i s = .next (wrF (wrF (putArrData u st fl (agetD (flightGet u q fl).elems
         (elemKey a (if op = 1 then liveBank (flightGet u q fl) a else 1 - liveBank (flightGet u q fl) a) k) 0)) (Reg.STA_ARR_STATUS st fl) 0 8 0) (Reg.STA_ARR_STATUS st fl) 16 9 0)) ∧
     ((op, i) ∈ [(2, Instr.arrayWrite req 15 st fl v), (3, .arrayReadClear req 15 st fl v), (5, .arrayClear req 15 st fl v)] → rbit v 8 = false →
       arrFail (wrF u (Reg.STA_ARR_CMD st fl) 16 1 1) q fl op a k = none →
       (let w := wrF u (Reg.STA_ARR_CMD st fl) 16 1 1
        exec i s = .next (cmdEnd (markerSend w q fl { what := op, array := a, idx := k, opnd := fld (arrData w st fl) 0 (if arrKind w q fl a = 3 then 64 else 128), src := st, bcast := false }) st fl false))))) ∧
  (∀ (s : State) (req : Requester) (p fl a : Nat) (v : W32), p < 9 → fl < 2 → a < 16 →
    (Passes s req (Reg.STA_ARR_CFG p fl a) false → arrRefused s p fl a v = none → rfld v 0 2 ≠ 0 →
      exec (.arrCfgWrite req 15 p fl a v) s = .next (plainWrite s (Reg.STA_ARR_CFG p fl a) 0xFFFF07 v)) ∧
    (Passes s req (Reg.STA_MTR_CMD p fl) false → rdF s (Reg.STA_MTR_CMD p fl) 16 1 = 0 → rbit v 17 = false → rbit v 13 = true → rbit v 12 = false → a = rfld v 0 4 →
      (let w := wrF (plainWrite s (Reg.STA_MTR_CMD p fl) 0x1FFF v) (Reg.STA_MTR_CMD p fl) 16 1 1
       let first := rdF (plainWrite s (Reg.STA_MTR_CMD p fl) 0x1FFF v) (Reg.STA_MTR_FIRST p fl) 0 23
       let n := rdF (plainWrite s (Reg.STA_MTR_CMD p fl) 0x1FFF v) (Reg.STA_MTR_COUNT p fl) 0 24
       n ≠ 0 → arrKind w (cmdTarget w p) fl a = 2 → first + n ≤ arrCount w (cmdTarget w p) fl a →
       exec (.meterAssign req 15 p fl v) s = .next (cmdEnd (markerSend w (cmdTarget w p) fl { what := 6, array := a, idx := first, opnd := rfld v 4 8, src := p, bcast := false, n := n }) p fl true))) ∧
    (∀ role, stairOf s role = some p → arrKind s p fl a = 2 → arrCount s p fl a ≠ 0 →
      exec (.meterRefreshPass role fl a) s = .next (markerSend s p fl { what := 7, array := a, idx := 0, opnd := 0, src := p, bcast := false, n := arrCount s p fl a })))

/-- Commands of the microstores, of the overflow region and of the scheduling nodes complete with the effects of chapters 11 and 12. -/
def Obligations.MicroAndNodeCommandsComplete : Prop :=
  (∀ (s : State) (req : Requester) (p fl k addr w : Nat) (v : W32) (i : Instr), stepOk p fl k = true → (loadStairs s).any (fun q => ucHeld s q fl) = false → ucHeld s p fl = false →
    rdF s (Reg.stepPage p fl k + 8) 13 1 = 1 → rdF s (Reg.stepPage p fl k + 8) 11 1 = 0 → s.unit.goldenBad = false → guardedGone s 3 0 0 = false →
    (Passes s req (Reg.stepPage p fl k + 0xC) false ∧ addr = ucAddr s p fl k ∧ w = v.toNat ∧ i = .ucDataWrite req 15 p fl k v) ∨
    (Passes s req (Reg.stepPage p fl k + 0x10) false ∧ rbit v 0 = true ∧ rbit v 1 = false ∧ addr = 2048 + ucAddr s p fl k % 512 ∧ w = nanoOf s p fl k ∧ nanoRefused fl k w = none ∧ i = .writeNw req 15 p fl k v) ∨
    (Passes s req (Reg.stepPage p fl k) false ∧ addr = 2560 ∧ w = rfld v 0 11 ∧ rfld v 1 2 ≠ 3 ∧ i = .stepCtlWrite req 15 p fl k v) →
    exec i s = .next ((loadStairs s).foldl (fun s q => stairUpd s q (fun x => { x with uc := aset x.uc (ucKey fl k (1 - ucActive s q fl) addr) w }))
      { s with golden := { s.golden with uc := aset s.golden.uc (ucKey fl k (1 - ucActive s (((loadStairs s)[0]?).getD p) fl) addr) w } })) ∧
  (∀ (s : State) (req : Requester) (p fl k : Nat) (v : W32), stepOk p fl k = true →
    (let bank := rdF s (Reg.stepPage p fl k + 8) 12 1
     (rdF s (Reg.stepPage p fl k + 8) 11 1 = 0 →
       exec (.ucDataRead req p fl k) s = .next (emit s (.regRead req (Reg.stepPage p fl k + 0xC) (BitVec.ofNat 32 (ucGet (stairGet s p) fl k bank (ucAddr s p fl k))))) ∧
       (Passes s req (Reg.stepPage p fl k + 0x10) false → rbit v 0 = false → rbit v 1 = true →
         ∃ t, exec (.readNw req 15 p fl k v) s = .next t ∧ Keeps [.regs, .stairs, .golden] s t ∧
           ∀ w < 12, rdN t (Reg.stepPage p fl k + 0x20 + 4 * w) = fld (ucGet (stairGet s p) fl k bank (2048 + ucAddr s p fl k % 512)) (32 * w) 32)) ∧
     (∃ t, exec (.loadBusyTimeout p fl k) s = .next t ∧ rdF t (Reg.stepPage p fl k + 0x14) 1 1 = 1 ∧ rdF t (Reg.stepPage p fl k + 0x14) 2 3 = 6 ∧ Keeps [.regs] s t))) ∧
  (∀ (s : State) (p fl k store bank addr : Nat), p < 9 → bank < 2 → unitState s p = 1 ∨ unitState s p = 2 ∨ unitState s p = 4 →
    store < 2 → stepOk p fl k = true → addr < (if store = 0 then 2048 else 512) →
    ∃ t, exec (.ucScrub p fl k store bank addr) s = .next t ∧ ucGet (stairGet t p) fl k bank (addr + 2048 * store) = agetD s.golden.uc (ucKey fl k bank (addr + 2048 * store)) 0 ∧
      rdN t (Reg.STA_UC_PAR_CNT p fl) = (rdN s (Reg.STA_UC_PAR_CNT p fl) + 1) % 2 ^ 32 ∧ Keeps [.regs, .ev, .stairs] s t) ∧
  (∀ (s : State) (ch idx : Nat) (c : Chan) (e : Ent), entOf s ch idx = some (c, e) → e.hold = true → exec (.hostGrainWaitEnd ch idx) s = .next (txEnter s ch idx)) ∧
  (∀ (s : State) (q id : Nat) (x : QPkt), (nodeGet s 0 q).pkts.find? (fun x => x.pkt.id == id && x.copying) = some x →
    ∃ t, exec (.overflowCopyDone q id) s = .next t ∧ rdN t Reg.LD_OVF_BACKLOG = (rdN s Reg.LD_OVF_BACKLOG - x.units) % 2 ^ 32 ∧
      rdN t Reg.LD_UNADMITTED = (rdN s Reg.LD_UNADMITTED - x.pkt.grains) % 2 ^ 32 ∧
      (nodeGet t 0 q).pkts.find? (fun x => x.pkt.id == id && x.copying) = none ∧ Keeps [.regs, .ev, .land] s t) ∧
  (∀ (s : State) (req : Requester) (v : W32), Passes s req Reg.LD_OVF_SIZE false → rdN s Reg.LD_OVF_USED = 0 →
    exec (.ovfSizeWrite req 15 v) s = .next (plainWrite s Reg.LD_OVF_SIZE 0xFFFF v)) ∧
  (∀ (s : State) (req : Requester) (v : W32), Passes s req Reg.SC_NODE_SEL false → (let u := plainWrite s Reg.SC_NODE_SEL 0xFFFFF v
    selValid u = true → ∃ t, exec (.nodeSelWrite req 15 v) s = .next t ∧
      (∀ w < 10, rdN t (Reg.SC_NODE_CFG w) = (((nodeGet s (selType u) (selIndex u)).cfg[w]?).getD 0) % 2 ^ 32) ∧ Keeps [.regs, .draws] s t)) ∧
  (∀ (s : State) (req : Requester) (v : W32), Passes s req Reg.SC_NODE_CMD false → rbit v 9 = false →
    (rbit v 0 = true → rbit v 1 = false → rbit v 2 = false → applyCause s = 0 → selType s = 2 ∨ selType s = 3 →
      ∃ t, exec (.apply req 15 v) s = .next t ∧ nodeGet t (selType s) (selIndex s) = nodeApply s (nodeGet s (selType s) (selIndex s)) ∧ Keeps [.land] s t) ∧
    (rbit v 0 = true → rbit v 1 = false → rbit v 2 = false → exec (.apply req 15 v) s = .next (nodeApplyCmd s)) ∧
    (rbit v 0 = false → rbit v 1 = true → rbit v 2 = false → selType s = 0 →
      exec (.flush req 15 v) s = .next (nodeTally (queueFlush s (selIndex s)).1 (selIndex s) (fun n => { n with flushed := n.flushed + (nodeGet s 0 (selIndex s)).pkts.length }))) ∧
    (rbit v 0 = false → rbit v 1 = false → rbit v 2 = true → selValid s = true → exec (.clrCnt req 15 v) s = .next (nodeUpd s (selType s) (selIndex s) nodeClear)))

/-- The commands of the key store and the cipher engines complete with the effects of chapter 13. An unwrapped key is
whatever RFC 3394 gives (Config.unwrapKey), a generated one is free. -/
def Obligations.CipherCommandsComplete : Prop :=
  (∀ (s : State) (sl t : Nat) (cmd : List Byte), 
    (∀ env a u k bs, AdminReady s sl 0xC0 cmd t → slotAbs s t (par cmd 0x10 0 16) = some a → slotAbs s sl (par cmd 0x10 16 16) = some u → aget s.cy.slots u = some k → k.role = 0 ∨ k.role = 3 →
      keyBusy s a = false → keyLocked s = false → mayRead s sl = true → keyHeld s a 1 s.cy.nextReq = false →
      (let r := slFetch s sl [(par cmd 0x18 0 64, 40)] 0 (envRead env 0)
       let w := cyUpd r.1 (fun c => { c with slots := aset c.slots u { k with role := 3 } })
       r.2 = .ok bs → drbgUp r.1 = true → exec (.keyImport sl cmd env) s = .next (match Config.unwrapKey k.key (fit 40 bs) with
         | none => adminComplete w sl 0xC0 (leAt cmd 8 8) { sts := STS_UNWRAP }
         | some key => adminComplete (putKey w a (ofBe key)) sl 0xC0 (leAt cmd 8 8) {}))) ∧
    (∀ a, AdminReady s sl 0xC1 cmd t → slotAbs s t (par cmd 0x10 0 16) = some a → keyBusy s a = false → keyLocked s = false → drbgUp s = true → keyHeld s a 1 s.cy.nextReq = false →
      exec (.keyGenerate sl cmd) s = .next (adminComplete (putKey (draw s).2 a ((draw s).1 % 2 ^ 256)) sl 0xC1 (leAt cmd 8 8) {})) ∧
    (∀ off n base, AdminReady s sl 0xC2 cmd t → off = par cmd 0x10 0 16 → n = par cmd 0x10 16 16 → (aget s.slices t).map (fun x => x.ksBase) = some base → off + n ≤ sliceLimit s t 5 → off < sliceLimit s t 5 →
      (let slots := (List.range n).map (base + off + ·)
       slots.any (keyBusy s) = false → keyHeld s (base + off) n s.cy.nextReq = false →
       exec (.keyErase sl cmd) s = .next (adminComplete (showSlots (cyUpd s (fun c => { c with slots := c.slots.filter (fun e => !slots.contains e.1) }))) sl 0xC2 (leAt cmd 8 8) {}))) ∧
    (∀ a k, AdminReady s sl 0xC3 cmd t → slotAbs s t (par cmd 0x10 0 16) = some a → aget s.cy.slots a = some k →
      exec (.keyQuery sl cmd) s = .next (adminComplete s sl 0xC3 (leAt cmd 8 8) { aux := 1 + 2 * k.role, len := k.salt }))) ∧
  (∀ (s : State) (sl t : Nat) (cmd : List Byte),
    (∀ env a k, AdminReady s sl 0xC4 cmd t → slotAbs s t (par cmd 0x10 0 16) = some a → aget s.cy.slots a = some k → k.role = 0 ∨ k.role = 1 → par cmd 0x10 16 1 = 0 → s.cy.ctxs.length < 262144 →
      aget s.cy.ctxs (Config.freeValue s.draws % 262144) = none →
      (let w := cyUpd s (fun c => { c with slots := aset c.slots a { k with role := 1 } })
       let x : Cctx := { slice := t, slot := a, derive := false, side := par cmd 0x10 17 1, label := fit 48 [], txEpoch := par cmd 0x14 0 32, rxEpoch := par cmd 0x14 0 32 }
       exec (.cctxCreate sl cmd env) s = .next (adminComplete (showCtxs (cyUpd (draw w).2 (fun y => { y with ctxs := aset y.ctxs (Config.freeValue s.draws % 262144) x }))) sl 0xC4 (leAt cmd 8 8)
         { aux := Config.freeValue s.draws % 262144 }))) ∧
    (∀ n c, aget s.cy.ctxs n = some c → c.slice = t → n = par cmd 0x10 0 18 →
      (AdminReady s sl 0xC5 cmd t → exec (.cctxDestroy sl cmd) s = .next (adminComplete (showCtxs (cyUpd s (fun y =>
        { y with ctxs := adel y.ctxs n, caches := amap y.caches (fun _ m => m.filter (fun e => e.1 / 2 ^ 33 ≠ 2 * n)) }))) sl 0xC5 (leAt cmd 8 8) {})) ∧
      (∀ env, AdminReady s sl 0xC6 cmd t → envWrite env = STS_OK → 
        exec (.cctxQuery sl cmd env) s = .next (adminComplete (slWrite s sl (par cmd 0x18 0 64) 0
          (pack 32 [(0, 0, 2, c.state), (4, 0, 32, c.txEpoch), (8, 0, 64, txCounter s c), (0x10, 0, 32, c.rxEpoch), (0x14, 0, 32, c.fails)])) sl 0xC6 (leAt cmd 8 8) { len := 32 })))) ∧
  (∀ (s : State) (sl l : Nat) (v : W32), l < 16 → (aget s.slices sl).isSome = true → laneBusy s sl l = false → rbit v 8 = true →
    (let u := wrF (wrF (plainWrite s (Reg.LN_CTL sl l) 0xFFFF00FF v) (Reg.LN_STATUS sl l) 1 1 0) (Reg.LN_STATUS sl l) 0 1 1
     exec (.laneGo 15 sl l v) s = .next (laStart u sl (rfld v 0 8) (rdF u (Reg.LN_SLOT sl l) 0 16) (rfld v 16 16) (rdF u (Reg.LN_LEN sl l) 0 25)
       (rd64 u (Reg.LN_SRC_LO sl l)) (rd64 u (Reg.LN_DST_LO sl l)) none ((List.range 4).flatMap (fun w => le 4 (rdN u (Reg.LN_IV sl l w)))) (rd64 u (Reg.LN_NOTIFY_LO sl l)) (.lane l)))) ∧
  (∀ (s : State) (id : Nat) (r : LaReq) (env : Env) (src out : List Byte), aget s.cy.reqs id = some r → aget s.cy.serving r.engine = some id → sliceLive s r.slice = true → r.fixed = none → r.op ≠ 0x41 → unitState s (64 + r.engine) ≠ 3 → mayRead s r.slice = true →
    (laSource s r env).2 = .ok src → laOutput r src = .inl out → envWrite env = STS_OK →
    (let u := slWrite (laSource s r env).1 r.slice r.dst (laAttr (laSource s r env).1 r) out
     let w := laEnd (cyUpd u (fun c => { c with reqs := adel c.reqs id, serving := adel c.serving r.engine })) r STS_OK out.length
     exec (.lookasideComplete id env) s = .next (keyWake (engineNext (bump64 (bump64 w Reg.CY_LA_REQ_CNT_LO) Reg.CY_LA_BYTES_LO r.len) r.engine)))) ∧
  (∀ (s : State) (req : Requester) (v : W32) (active n : Nat), Passes s req Reg.KS_ALARM true → 2 ≤ n → n < 5 →
    ∃ t, exec (.ksAlarmWrite req 15 v active) s = .next t ∧ Keeps [.regs, .acc, .ev] s t ∧
      ((rdN t Reg.KS_ALARM).testBit n = ((rdN s Reg.KS_ALARM).testBit n && !(rbit v n && !active.testBit n)))) ∧
  (∀ (s : State) (bits : Nat), bits % 32 ≠ 0 → ∃ t, exec (.keyEraseAlarm bits) s = .next t ∧ t.cy.slots = [] ∧ t.cy.caches = [] ∧ (∀ e ∈ t.cy.ctxs, e.2.state = 2)) ∧
  (∀ (s : State) (test : Nat),
    (rdF s Reg.KS_STATUS 1 1 = 0 → ∃ t, exec (.entropyFail test) s = .next t ∧ rdF t Reg.KS_STATUS 1 1 = 1 ∧ Keeps [.regs, .ev] s t) ∧
    (rdF s Reg.KS_STATUS 1 1 = 1 → ∃ t, exec .entropyRecover s = .next t ∧ rdF t Reg.KS_STATUS 1 1 = 0 ∧ Keeps [.regs, .ev] s t))

/-- The admin commands of chapter 14 and the ends of a deregistration complete. -/
def Obligations.RemoteMemoryAdminComplete : Prop :=
  (∀ (s : State) (sl t i : Nat) (cmd : List Byte) (env : Env) (c : Chan) (q : Qp), cmdQp s t cmd = .inr (i, c, q) →
    (∀ bs, AdminReady s sl 0x80 cmd t → q.tstate = 2 → par cmd 0x14 0 3 = 3 → mayRead s sl = true → leAt (fit 128 bs) 0x2C 2 ≤ 4096 →
      (let r := slFetch s sl [(par cmd 0x18 0 64, 128)] 0 (envRead env 0)
       let a := fit 128 bs
       let q' := qpTimers { q with tstate := 3, sqNxt := leAt a 0x10 4, sqUna := leAt a 0x10 4, window := leAt a 0x2C 2 } a
       r.2 = .ok bs → exec (.qpModify sl cmd env) s = .next (adminComplete (qpUpd r.1 i (fun _ => { q' with rto := q'.rtoMin })) sl 0x80 (leAt cmd 8 8) { handle := chanHandle i c }))) ∧
    (AdminReady s sl 0x80 cmd t → 1 ≤ q.tstate → q.tstate ≤ 3 → par cmd 0x14 0 3 = 4 →
      exec (.qpModify sl cmd env) s = .next (adminComplete (qpError s i STS_FLUSHED none true) sl 0x80 (leAt cmd 8 8) { handle := chanHandle i c })) ∧
    (AdminReady s sl 0x81 cmd t → envWrite env = STS_OK →
      exec (.qpQuery sl cmd env) s = .next (adminComplete (slWrite s sl (par cmd 0x18 0 64) 0 (qpRecord i c q)) sl 0x81 (leAt cmd 8 8) { len := (qpRecord i c q).length }))) ∧
  (∀ (s : State) (sl t : Nat) (cmd : List Byte), AdminReady s sl 0x82 cmd t → par cmd 0x18 0 64 < 2 ^ 48 →
    (s.rm.regions.filter (fun e => e.2.slice == t)).length < sliceLimit s t 4 → 
    (let n := Config.freeValue s.draws % 2 ^ 24
     let tag := agetD s.rm.tags n 0 % 255 + 1
     let x : Region := { slice := t, addr := par cmd 0x10 0 64, len := par cmd 0x18 0 64, access := par cmd 0x20 0 3, born := s.rm.births }
     regionFree s n = true → exec (.regRegion sl cmd) s = .next (adminComplete (rmUpd { s with draws := s.draws + 1 } (fun m =>
       { m with regions := aset m.regions (tag * 2 ^ 24 + n) x, tags := aset m.tags n tag, births := m.births + 1 })) sl 0x82 (leAt cmd 8 8) { aux := tag * 2 ^ 24 + n }))) ∧
  (∀ (s : State) (sl t key : Nat) (cmd : List Byte) (r : Region), aget s.rm.regions key = some r → key = par cmd 0x10 0 32 → r.slice = t →
    (AdminReady s sl 0x83 cmd t → r.revoking = false →
      (r.refs = 0 → exec (.deregRegion sl cmd) s = .next (adminComplete (regionGone s key) sl 0x83 (leAt cmd 8 8) {})) ∧
      (r.refs ≠ 0 → exec (.deregRegion sl cmd) s = .next (adminDefer (revoke s key) sl 0x83 (leAt cmd 8 8) key))) ∧
    (∀ env, AdminReady s sl 0x84 cmd t → envWrite env = STS_OK →
      exec (.queryRegion sl cmd env) s = .next (adminComplete (slWrite s sl (par cmd 0x18 0 64) 0 (regionRecord key r)) sl 0x84 (leAt cmd 8 8) { len := (regionRecord key r).length }))) ∧
  (∀ (s : State) (key : Nat) (r : Region), aget s.rm.regions key = some r → r.revoking = true →
    (r.refs = 0 → exec (.deregComplete key) s = .next (reclaimCheck (adminWake (regionGone s key) 0x83 key {}))) ∧
    (r.slow = false → r.since + msUnits ≤ s.time.elapsed → ∃ u, exec (.revokeSlow key) s = .next u ∧ aget u.rm.regions key = some { r with slow := true } ∧ Keeps [.regs, .ev, .rm] s u)) ∧
  (∀ (s : State) (t n : Nat) (cmd : List Byte) (env : Env), n = par cmd 0x10 0 16 →
    (∀ bs u, AdminReady s 0 0x85 cmd t → mayRead s 0 = true → slFetch s 0 [(par cmd 0x18 0 64, 64)] 0 (envRead env 0) = (u, .ok bs) →
      (leAt (fit 64 bs) 0 4 % 2 = 0 → exec (.pathSet 0 cmd env) s = .next (adminComplete (rmUpd u (fun r => { r with paths := adel r.paths n })) 0 0x85 (leAt cmd 8 8) {})) ∧
      (leAt (fit 64 bs) 0 4 % 4 = 3 → exec (.pathSet 0 cmd env) s = .next (adminComplete (rmUpd u (fun r => { r with paths := aset r.paths n (fit 64 bs) })) 0 0x85 (leAt cmd 8 8) {}))) ∧
    (AdminReady s 0 0x86 cmd t → envWrite env = STS_OK →
      (let p := agetD s.rm.paths n (List.replicate 64 0)
       exec (.pathQuery 0 cmd env) s = .next (adminComplete (slWrite s 0 (par cmd 0x18 0 64) 0 p) 0 0x86 (leAt cmd 8 8) { len := p.length }))))

/-- The transport's own events complete with the effects of chapter 14. -/
def Obligations.RemoteMemoryEventsComplete : Prop :=
  (∀ (s : State) (i : Nat) (q : Qp) (c : Chan), qpGet s i = some q → chanGet s i = some c →
    (∀ env op ext rest, (aget s.slices c.slice).any (fun x => x.state == 4) = false → rdF s Reg.LD_ARR_RSV 0 21 + 1 < rdN s Reg.LD_FREE → q.owed = (op, ext) :: rest → 2 ≤ q.tstate →
      exec (.grmtPacketGenerate i 0 env) s = .next (grmtEnter (qpUpd s i (fun q => { q with owed := rest })) i c q op (grmtFlags false true true) q.sqNxt 0 ext [])) ∧
    (q.tstate = 3 → q.rtoMin ≠ 0 → q.sent.any (fun x => !x.acked) = true → q.rtoAt + q.rto * usUnits ≤ s.time.elapsed → sliceFrozen s c.slice = false → q.expiries < q.retry →
      ∃ t, exec (.retransmitTimeout i) s = .next t ∧ rdN t Reg.RM_RTO_CNT = (rdN s Reg.RM_RTO_CNT + 1) % 2 ^ 32 ∧
        qpGet t i = some { q with sent := q.sent.map (fun x => if x.psn = q.sqUna then { x with resend := true } else x), rto := min (2 * q.rto) (max q.rtoMin q.rtoMax), rtoAt := s.time.elapsed, expiries := q.expiries + 1 })) ∧
  (∀ (s : State) (i : Nat) (q : Qp), qpGet s i = some q →
    (∀ t echo owd, q.ackAt = some (t, echo, owd) → t + q.ackDelay * usUnits ≤ s.time.elapsed → exec (.ackDelayTimer i) s = .next (oweAck s i 0 echo owd 0)) ∧
    (∀ t nak n, q.rnrWait = some (t, nak, n) → t ≤ s.time.elapsed → ∃ u, exec (.rnrWaitExpire i) s = .next u ∧ Keeps [.rm] s u ∧
      qpGet u i = some { q with rnrWait := none, sent := q.sent.map (fun x => if !x.acked && psnDiff x.psn nak ≥ 0 then { x with resend := true } else x) }) ∧
    (∀ r, r ∈ q.resps → q.msgTimeout ≠ 0 → r.since + q.msgTimeout * msUnits ≤ s.time.elapsed → exec (.msgTimeout i) s = .next (qpError s i STS_RM_MSG_TIMEOUT none true)) ∧
    (∀ m, m ∈ q.msgs → m.op ≠ 0 → m.done = false → q.msgTimeout ≠ 0 → m.since + q.msgTimeout * msUnits ≤ s.time.elapsed → exec (.msgTimeout i) s = .next (qpError s i STS_RM_MSG_TIMEOUT none true))) ∧
  (∀ (s : State) (i l : Nat) (x : QpLine), lineOfQp s i = some (l, x) →
    (x.st = 3 → hostSpill s i = none → guardedGone s 1 i 0 = false →
      exec (.qpFetchComplete i STS_OK) s = .next (qpUnpark (rmUpd s (fun r => { r with lines := aset r.lines l { x with st := 0, used := r.clock }, clock := r.clock + 1 })) i)) ∧
    (∀ h, x.st = 3 → hostSpill s i = some h → mayRead s h.1 = true → (spillRead s h.1 h.2 STS_OK).2 = STS_OK →
      exec (.qpFetchComplete i STS_OK) s = .next (qpUnpark (rmUpd (spillRead s h.1 h.2 STS_OK).1 (fun r => { r with lines := aset r.lines l { x with st := 0, used := r.clock }, clock := r.clock + 1 })) i)) ∧
    (x.st = 2 → exec (.qpWritebackDone i STS_OK) s = .next
      (let u := bump (rmUpd s (fun r => { r with lines := adel r.lines l, again := r.again.filter (fun y => y ≠ i) })) Reg.RM_EVICT_CNT
       qpNextFetch (if s.rm.again.contains i then qpFetch u i else u)))) ∧
  (∀ (s : State) (l : Nat) (x : QpLine), 
    (s.rm.lines.find? (fun e => e.2.st == 1) = none → s.rm.wants ≠ [] → lruIdle s = some l → aget s.rm.lines l = some x →
      exec (.qpEvict false) s = .next (rmUpd s (fun r => { r with lines := aset r.lines l { x with st := 1 } }))) ∧
    (∀ q, s.rm.lines.find? (fun e => e.2.st == 1) = some (l, x) → qpGet s x.qp = some q → q.spillHost = false →
      exec (.qpEvict true) s = .next (rmUpd s (fun r => { r with lines := aset r.lines l { x with st := 2 } }))))

/-- Writes of a virtual controller's registers and doorbells, and the events of a controller, complete with the effects of chapter 15. -/
def Obligations.ControllerCommandsComplete : Prop :=
  (∀ (s : State) (link fnum v i : Nat) (c : Ctrl), ctrlBar s link fnum = some (i, c) → aget s.sv.ctrls i = some c →
    (c.cc.testBit 0 = false → v.testBit 0 = true → ccBad c (v &&& 0x00FFFFF1) = false →
      ∃ t, exec (.ccEnable link fnum v) s = .next t ∧ Keeps [.sv] s t ∧ aget t.sv.ctrls i = some { c with
        cc := v &&& 0x00FFFFF1, rdy := true, cfs := false, shst := 0, sqs := [(0, { base := c.asq, size := fld c.aqa 0 12 + 1, cq := 0 })], cqs := [(0, { base := c.acq, size := fld c.aqa 16 12 + 1 })] }) ∧
    (c.cc.testBit 0 = true → v.testBit 0 = false →
      exec (.ccDisable link fnum v) s = .next (ctrlReset (ctrlUpd s i (fun x => { x with cc := v &&& 0x00FFFFF1 })) i 1)) ∧
    (c.cc.testBit 0 = true → v.testBit 0 = true → fld v 14 2 = 1 ∨ fld v 14 2 = 2 → fld (v &&& 0x00FFFFF1) 14 2 = fld v 14 2 → fld c.cc 14 2 = 0 → c.shst = 0 →
      exec (.ccShutdown link fnum v) s = .next (settle (ctrlUpd (ctrlUpd s i (fun x => { x with cc := v &&& 0x00FFFFF1 })) i (fun x => { x with shst := 1 }))))) ∧
  (∀ (s : State) (i : Nat) (x : Ctrl), aget s.sv.ctrls i = some x →
    (x.cc.testBit 0 = false → x.rdy = true → s.sv.cmds.any (fun e => e.2.ctrl == i && e.2.silent && e.2.stage ≠ .staged) = false →
      ∃ t, exec (.controllerDrainEnd i) s = .next t ∧ aget t.sv.ctrls i = some { x with rdy := false } ∧ Keeps [.sv] s t) ∧
    (∀ t', x.test = some t' → t'.paused = true → t'.last + msUnits ≤ s.time.elapsed → s.sv.cmds.any (fun e => testCovers x e.2 && e.2.stage ≠ .staged) = false →
      ∃ t, exec (.selfTestResume i) s = .next t ∧ aget t.sv.ctrls i = some { x with test := some { t' with paused := false } } ∧ Keeps [.sv] s t) ∧
    (∀ t', x.test = some t' → t'.paused = false →
      (t'.segment < 4 → ∃ t, exec (.selfTestSegment i true) s = .next t ∧ aget t.sv.ctrls i = some { x with test := some { t' with segment := t'.segment + 1 } } ∧ Keeps [.sv] s t) ∧
      (t'.kind = 1 → t'.segment = 4 → exec (.selfTestSegment i true) s = .next (testEnd s i 0 0)) ∧
      exec (.selfTestSegment i false) s = .next (raise (testEnd s i 7 t'.segment) 0x905 [(4, i), (4, 7), (4, t'.segment)]))) ∧
  (∀ (s : State) (link fnum y v i : Nat) (c : Ctrl), ctrlBar s link fnum = some (i, c) → y ≤ 256 → dbLive s c = true →
    (∀ q, aget c.sqs y = some q → v < q.size → v ≠ q.tail →
      exec (.sqTailDoorbell link fnum y v) s = .next (ctrlUpd s i (fun x => { x with sqs := aset x.sqs y { q with tail := v } }))) ∧
    (∀ q, aget c.cqs y = some q → v < q.size →
      exec (.cqHeadDoorbell link fnum y v) s = .next (postGo (ctrlUpd s i (fun x => { x with cqs := aset x.cqs y { q with head := v } })) i))) ∧
  (∀ (s : State) (i id : Nat) (m : SvCmd), s.sv.cmds.find? (fun e => e.2.ctrl == i && e.2.stage == .commit) = some (id, m) → s.unit.rolling = [] → s.unit.handover = none → s.oz.restart = none →
    exec (.firmwareActivationDone i) s = .next (finish (raise s 0x904 [(4, i), (8, ofLe (runningVersion s))]) id NV_OK))

/-- Every admin command of a virtual controller completes with the effect that chapter 15 and NVMe give it. -/
def Obligations.NvmeAdminCommandsComplete : Prop :=
  (∀ (s : State) (c : Nat) (sqe : List Byte) (x : Ctrl) (i : Instr) (res : State → Nat → State),
    (let q := fld (sqeDw sqe 10) 0 16
     let size := fld (sqeDw sqe 10) 16 16 + 1
     let hi := fld (sqeDw sqe 11) 16 16
     let base := leAt sqe 24 8
     let r := fetchCmd s c 0 (fit 64 sqe)
     (NvmeReady s c 0x00 sqe x ∧ q ≠ 0 ∧ (aget x.sqs q).isSome = true ∧ r.2.sv.cmds.all (fun e => e.2.ctrl ≠ c || (e.2.sq ≠ q && (match e.2.stage with | .abortAhead k _ => k ≠ q | _ => true))) = true ∧
       i = .deleteIoSubmissionQueue c sqe ∧ res = (fun u id => finish (ctrlUpd u c (fun y => { y with sqs := adel y.sqs q })) id NV_OK)) ∨
     (NvmeReady s c 0x01 sqe x ∧ qidOk x q 0 = true ∧ aget x.sqs q = none ∧ 2 ≤ size ∧ (sqeDw sqe 11).testBit 0 = true ∧ fld (sqeDw sqe 11) 3 13 = 0 ∧ base % mpsBytes x = 0 ∧ 1 ≤ hi ∧ hi ≤ 256 ∧ (aget x.cqs hi).isSome = true ∧
       i = .createIoSubmissionQueue c sqe ∧ res = (fun u id => finish (ctrlUpd u c (fun y => { y with sqs := aset y.sqs q { base := base, size := size, cq := hi } })) id NV_OK)) ∨
     (NvmeReady s c 0x04 sqe x ∧ q ≠ 0 ∧ (aget x.cqs q).isSome = true ∧ x.sqs.any (fun e => e.2.cq == q) = false ∧
       i = .deleteIoCompletionQueue c sqe ∧ res = (fun u id => finish (ctrlUpd u c (fun y => { y with cqs := adel y.cqs q, posts := y.posts.filter (fun p => p.cq ≠ q) })) id NV_OK)) ∨
     (NvmeReady s c 0x05 sqe x ∧ qidOk x q 16 = true ∧ aget x.cqs q = none ∧ 2 ≤ size ∧ (sqeDw sqe 11).testBit 0 = true ∧ fld (sqeDw sqe 11) 2 14 = 0 ∧ base % mpsBytes x = 0 ∧ hi < ctrlVectors r.2 x ∧
       i = .createIoCompletionQueue c sqe ∧ res = (fun u id => finish (ctrlUpd u c (fun y => { y with cqs := aset y.cqs q { base := base, size := size, vector := hi, ien := (sqeDw sqe 11).testBit 1 } })) id NV_OK)) →
     exec i s = .next (res r.2 r.1))) ∧
  (∀ (s : State) (c : Nat) (sqe : List Byte) (x : Ctrl) (env : Env) (ps : List (Nat × Nat)) (k : Nat),
    (let r := fetchCmd s c 0 (fit 64 sqe)
     let d := sqeDw sqe 10
     (∀ bs u, NvmeReady s c 0x02 sqe x → cmdPrps x sqe (4 * (fld d 16 12 + 1)) env = .inr (ps, k) → sqeDw sqe 12 = 0 → sqeDw sqe 13 = 0 → logPage (prpRead r.2 c x sqe (4 * (fld d 16 12 + 1)) env) c (fld d 0 8) x (d.testBit 15) = some (bs, u) →
       exec (.getLogPage c sqe env) s = .next (finish u r.1 NV_OK 0 (prpSpread ps (fit (4 * (fld d 16 12 + 1)) bs)))) ∧
     (NvmeReady s c 0x06 sqe x → cmdPrps x sqe 4096 env = .inr (ps, k) →
       (fld d 0 8 = 1 → exec (.identify c sqe env) s = .next (finish (prpRead r.2 c x sqe 4096 env) r.1 NV_OK 0 (prpSpread ps (fit 4096 (identifyCtrl r.2 c x))))) ∧
       (∀ n y, fld d 0 8 = 0 → aget x.nss (sqeNsid sqe) = some n → aget r.2.sv.nss n = some y →
         exec (.identify c sqe env) s = .next (finish (prpRead r.2 c x sqe 4096 env) r.1 NV_OK 0 (prpSpread ps (fit 4096 (identifyNs y)))))))) ∧
  (∀ (s : State) (c : Nat) (sqe : List Byte) (x : Ctrl),
    (let r := fetchCmd s c 0 (fit 64 sqe)
     let d := sqeDw sqe 10
     let v := sqeDw sqe 11
     let fid := fld d 0 8
     (NvmeReady s c 0x09 sqe x → featOps.contains fid = true → d.testBit 31 = false → featArgOk r.2 x fid v = true → fid ≠ 7 →
       exec (.setFeatures c sqe) s = .next (finish (ctrlUpd r.2 c (fun y => { y with feats := aset y.feats (featKey fid v) (featStored fid v) })) r.1 NV_OK 0)) ∧
     (NvmeReady s c 0x0A sqe x → featOps.contains fid = true → fld d 8 3 = 0 → featArgOk r.2 x fid v = true →
       exec (.getFeatures c sqe) s = .next (finish r.2 r.1 NV_OK (agetD x.feats (featKey fid v) (featDefault (featKey fid v))))) ∧
     (NvmeReady s c 0x0C sqe x → (r.2.sv.cmds.filter (fun e => e.2.ctrl == c && e.2.stage == .event)).length < 4 →
       exec (.asynchronousEventRequest c sqe) s = .next (cmdUpd r.2 r.1 (fun y => { y with stage := .event }))) ∧
     (NvmeReady s c 0x08 sqe x → s.sv.cmds = [] → exec (.abort c sqe false) s = .next (finish (bump r.2 Reg.SV_ABORT_MISS_CNT) r.1 NV_OK 1)) ∧
     (∀ stc, NvmeReady s c 0x14 sqe x → stc = fld d 0 4 → stc = 1 ∨ stc = 2 → sqeNsid sqe = 0xFFFFFFFF → x.test = none →
       (let t : SvTest := { kind := stc, nsid := 0xFFFFFFFF }
        let held := r.2.sv.cmds.any (fun e => testCovers { x with test := some t } e.2 && e.2.stage ≠ .staged && e.1 ≠ r.1)
        exec (.deviceSelfTest c sqe) s = .next (finish (ctrlUpd r.2 c (fun z => { z with test := some { t with paused := held } })) r.1 NV_OK))))) ∧
  (∀ (s : State) (c : Nat) (sqe : List Byte) (x : Ctrl), deferral s = false → x.fw = true →
    (let r := fetchCmd s c 0 (fit 64 sqe)
     let len := 4 * (sqeDw sqe 10 + 1)
     (∀ env ps k bs u, NvmeReady s c 0x11 sqe x → len ≤ 262144 → cmdPrps x sqe len env = .inr (ps, k) → prpData env k ps = some bs →
       (let w := svFetch (prpRead r.2 c x sqe len env) c ps env k
        fwWrite (if w.oz.step = 0 then (fwBegin w 2).1 else w) 2 (4 * sqeDw sqe 11) bs = (u, STS_OK) →
       exec (.firmwareImageDownload c sqe env) s = .next (finish u r.1 NV_OK))) ∧
     (NvmeReady s c 0x10 sqe x → sqeDw sqe 10 ≤ 1 → exec (.firmwareCommit c sqe) s = .next
       (if (fwVerify r.2 2).2 = STS_OK then finish (fwVerify r.2 2).1 r.1 NV_OK else finish (fwVerify r.2 2).1 r.1 NV_FW_IMAGE))))

/-- The I/O commands of a controller and the events of its backings complete with the effects of chapter 15. -/
def Obligations.NvmeIoCommandsComplete : Prop :=
  (∀ (s : State) (c q op : Nat) (sqe : List Byte) (env : Env) (x : Ctrl) (n : Nat) (y : Ns) (p : IoPlan) (m : SvCmd) (chk : IoCheck) (go : IoBegin) (i : Instr),
    (op, chk, go, i) ∈ [(1, checkRw, beginWrite, Instr.nvmeWrite c q sqe env none), (2, checkRw, beginRead, .nvmeRead c q sqe env none), (8, checkZeroes, beginZeroes, .writeZeroes c q sqe env none), (9, checkDsm [], beginDsm, .datasetManagement c q sqe env none)] →
    q ≠ 0 → fetchable s c q = true → sqeOp (fit 64 sqe) = op → s.sv.cmds = [] →
    (let r := fetchCmd s c q sqe
     aget r.2.sv.ctrls c = some x → ioNs r.2 x (fit 64 sqe) = .inr (n, y) → chk x y (fit 64 sqe) env = .inr p →
     (let u := cmdUpd (ioReads r.2 c x y (fit 64 sqe) env) r.1 (fun k => { k with ns := some n, ranges := p.ranges, prps := p.prps, data := if p.data.isEmpty then k.data else p.data })
      aget u.sv.cmds r.1 = some m → exec i s = .next (go (testTouch u m) r.1 m env p.used)))) ∧
  (∀ (s : State) (c q : Nat) (sqe : List Byte) (x : Ctrl) (n : Nat) (y : Ns) (m : SvCmd), q ≠ 0 → fetchable s c q = true → sqeOp (fit 64 sqe) = 0 → sqeNsid (fit 64 sqe) ≠ 0xFFFFFFFF → flushRoom s c (fit 64 sqe) = true →
    (let r := fetchCmd s c q sqe
     aget r.2.sv.ctrls c = some x → ioNs r.2 x (fit 64 sqe) = .inr (n, y) →
     (let u := cmdUpd r.2 r.1 (fun k => { k with ns := some n })
      aget u.sv.cmds r.1 = some m → exec (.nvmeFlush c q sqe) s = .next (beginFlush (testTouch u m) r.1 m [n])))) ∧
  (∀ (s : State) (id : Nat) (m : SvCmd) (sqe : List Byte) (env : Env) (n : Nat) (x : Ns), aget s.sv.cmds id = some m → m.sq ≠ 0 → m.stage = .waiting → blocked s id m = false → cmdNs s m = some (n, x) → x.backing = 0 → (aget s.sv.ctrls m.ctrl).any (fun c => mayRead s c.slice) = true →
    (let r := m.ranges.headD (0, 0)
     (∀ d, sqeOp m.sqe = 1 → m.prps ≠ [] → prpData env 0 m.prps = some d → unitsFree (svFetch s m.ctrl m.prps env 0) x.target (rangeUnits x r.1 r.2).length = true →
       exec (.nvmeWrite m.ctrl m.sq sqe env (some id)) s = .next (poolChange (svFetch s m.ctrl m.prps env 0) id n x { m with data := d })) ∧
     (sqeOp m.sqe = 2 → exec (.nvmeRead m.ctrl m.sq sqe env (some id)) s = .next (cmdUpd (drvOpen s id m x) id (fun _ => { m with stage := .sent }))) ∧
     (sqeOp m.sqe = 8 → unitsFree s x.target (rangeUnits x r.1 r.2).length = true → exec (.writeZeroes m.ctrl m.sq sqe env (some id)) s = .next (poolChange s id n x m)) ∧
     (sqeOp m.sqe = 9 → (sqeDw m.sqe 11).testBit 2 = true → exec (.datasetManagement m.ctrl m.sq sqe env (some id)) s = .next (poolChange s id n x m)))) ∧
  (∀ (s : State) (id : Nat) (m : SvCmd) (n : Nat) (x : Ns) (bytes : List Byte), aget s.sv.cmds id = some m → m.stage = .sent → m.silent = false → cmdNs s m = some (n, x) → x.backing = 0 → sqeOp m.sqe = 2 → drvAborted s id m = false →
    (let t := readDone s id m x (nsRead s n (m.ranges.headD (0, 0)).1 (m.ranges.headD (0, 0)).2)
     let u := if (aget t.sv.cmds id).any (fun k => match k.stage with | .sent => true | .flush _ w => !w.isEmpty | _ => false) then t else drvClose t id
     exec (.backingComplete id 0 bytes) s = .next (capsuleWakeN u.sv.cmds.length u))) ∧
  (∀ (s : State) (i : Nat) (c : Ctrl) (bytes : List Byte), aget s.sv.ctrls i = some c → c.kind = 1 → svInflight s < 262144 → sqeOp (fit 64 bytes) = 2 → (slice (fit 64 bytes) 24 16).any (fun b => b ≠ 0) = false →
    (let r := cmdNew s { ctrl := i, sq := 1, cq := 0, sqe := fit 64 bytes, stage := .waiting, data := bytes.drop 64 }
     exec (.storageCapsule i bytes) s = .next (ioChecked r.2 i r.1 (fit 64 bytes) {} checkRw beginRead))) ∧
  (∀ (s : State) (p : Nat) (x : Pool), aget s.sv.pools p = some x →
    (∀ b j1 blocks, x.mirror = false → x.seq = 0 →
      (let best := journalGood none b
       let ms := (List.range x.members.length).map (fun k => let m := (x.members[k]?).getD { port := 0, nsid := 0, units := 0 }
         if k = 0 then { m with present := true, journal := best } else { m with present := false })
       exec (.journalReplay p (some b) j1 blocks) s = .next (raise (best.foldl (replayRecord blocks) (showPools (poolUpd s p (fun y => { y with members := ms, seq := journalSeq best, rebuild := none })))) 0x907 [(4, p), (4, best.length), (4, 0)]))) ∧
    (∀ k y cause, x.members[k]? = some y → y.present = true →
      (let x' := { x with members := x.members.set k { y with present := false }, rebuild := if x.rebuild = some k then none else x.rebuild }
       let u := showPools (poolUpd s p (fun _ => x'))
       (poolState x' = 3 → exec (.poolMemberFail p k cause) s = .next ((u.sv.nss.filter (fun e => e.2.backing == 0 && e.2.target == p)).foldl (fun s e => nsNotReady s e.1) u)) ∧
       (poolState x' = 2 → poolState x = 1 → (let w := raise (reissue (bump u Reg.SV_REISSUE_CNT (readsAt s p k)) p y.port) 0x900 [(4, p), (4, y.port), (4, cause)]
         poolCtrls w p = [] → exec (.poolMemberFail p k cause) s = .next w)))) ∧
    (x.rebuild.isSome = true → poolState x = 2 → exec (.poolRebuildDone p) s = .next (raise (showPools (poolUpd s p (fun y => { y with rebuild := none }))) 0x901 [(4, p)]))) ∧
  (∀ (s : State) (n : Nat) (x : Ns), aget s.sv.nss n = some x →
    (x.state = 0 → x.backing = 2 ∨ nsReachable s x = false → exec (.nsNotReady n) s = .next (nsEndAll (raise (nsUpd s n (fun y => { y with state := 1 })) 0x902 [(4, n), (4, 1)]) n NV_NOT_READY)) ∧
    (x.state = 1 → nsReachable s x = true → exec (.nsReady n) s = .next (raise (nsUpd s n (fun y => { y with state := 0 })) 0x902 [(4, n), (4, 0)])))

/-- The owner's commands on controllers, pools and namespaces complete with the effects of R540. -/
def Obligations.StorageAdminCommandsComplete : Prop :=
  (∀ (s : State) (t i : Nat) (cmd : List Byte),
    (AdminReady s 0 0xA0 cmd t → par cmd 0x10 0 1 = 0 → ctrlBindOk s t = true → afree s.sv.ctrls 4096 = some i →
      exec (.ctrlCreate 0 cmd) s = .next (adminComplete (showCtrls (svUpd s (fun v => { v with ctrls := aset v.ctrls i { kind := 0, slice := t, fw := par cmd 0x10 1 1 == 1 } }))) 0 0xA0 (leAt cmd 8 8) { aux := i })) ∧
    (∀ c, i = par cmd 0x10 0 32 → aget s.sv.ctrls i = some c →
      (AdminReady s 0 0xA1 cmd t → c.nss = [] → exec (.ctrlDestroy 0 cmd) s = .next (adminComplete (settle (showFlight (showCtrls (svUpd s (fun v => { v with ctrls := adel v.ctrls i, cmds := s.sv.cmds.filter (fun e => e.2.ctrl ≠ i || e.2.stage == .staged) }))))) 0 0xA1 (leAt cmd 8 8) {})) ∧
      (∀ env, AdminReady s 0 0xA2 cmd t → envWrite env = STS_OK → exec (.ctrlQuery 0 cmd env) s = .next
        (adminComplete (slWrite s 0 (par cmd 0x18 0 64) 0 (ctrlEntry s i c)) 0 0xA2 (leAt cmd 8 8) { len := (ctrlEntry s i c).length })))) ∧
  (∀ (s : State) (t p : Nat) (cmd : List Byte),
    (∀ u d, AdminReady s 0 0xA4 cmd t → par cmd 0x10 3 1 = 0 → driveUsed s (par cmd 0x10 0 3) (par cmd 0x14 0 32) = false → afree s.sv.pools 64 = some p →
      exec (.poolCreate 0 cmd (some u) d) s = .next (adminComplete (showPools (svUpd s (fun v => { v with pools := aset v.pools p { mirror := false, members := [{ port := par cmd 0x10 0 3, nsid := par cmd 0x14 0 32, units := u }] } }))) 0 0xA4 (leAt cmd 8 8) { aux := p })) ∧
    (AdminReady s 0 0xA5 cmd t → p = par cmd 0x10 0 32 → (aget s.sv.pools p).isSome = true → s.sv.nss.any (fun e => e.2.backing == 0 && e.2.target == p) = false →
      exec (.poolDestroy 0 cmd) s = .next (adminComplete (showPools (svUpd s (fun v => { v with pools := adel v.pools p }))) 0 0xA5 (leAt cmd 8 8) {})) ∧
    (∀ x a b u, AdminReady s 0 0xA6 cmd t → p = par cmd 0x10 0 8 → aget s.sv.pools p = some x → x.members = [a, b] → a.present = true → b.present = false → x.rebuild = none → a.port ≠ par cmd 0x10 8 3 → b.units ≤ u →
      driveUsed (poolUpd s p (fun y => { y with members := [a] })) (par cmd 0x10 8 3) (par cmd 0x14 0 32) = false →
      exec (.poolRebuild 0 cmd (some u)) s = .next (adminComplete (showPools (poolUpd s p (fun y => { y with members := y.members.set 1 { port := par cmd 0x10 8 3, nsid := par cmd 0x14 0 32, units := u, journal := a.journal }, rebuild := some 1 }))) 0 0xA6 (leAt cmd 8 8) {})) ∧
    (∀ x, AdminReady s 0 0xA7 cmd t → aget s.sv.pools (par cmd 0x10 0 32) = some x → x.rebuild = none → exec (.poolQuery 0 cmd) s = .next (adminComplete s 0 0xA7 (leAt cmd 8 8) { aux := poolState x }))) ∧
  (∀ (s : State) (t n : Nat) (cmd : List Byte),
    (∀ d, AdminReady s 0 0xA8 cmd t → nsBackingSts s cmd d = none → afree s.sv.nss 65536 = some n → par cmd 0x10 3 1 = 0 → par cmd 0x10 0 2 ≠ 2 →
      (let x : Ns := { backing := par cmd 0x10 0 2, lba4k := par cmd 0x10 2 1 == 1, enc := false, target := par cmd 0x14 0 32, nsid := par cmd 0x18 0 32, size := par cmd 0x20 0 64, drive := (d.getD []).drop 3 }
       exec (.nsCreate 0 cmd d) s = .next (adminComplete (showNss (svUpd s (fun v => { v with nss := aset v.nss n x }))) 0 0xA8 (leAt cmd 8 8) { aux := n }))) ∧
    (∀ x, n = par cmd 0x10 0 32 → aget s.sv.nss n = some x →
      (AdminReady s 0 0xA9 cmd t → nsAttachments s n = 0 → x.mapped = [] →
        exec (.nsDestroy 0 cmd) s = .next (adminComplete (settle (showNss (svUpd s (fun v => { v with nss := adel v.nss n, cmds := s.sv.cmds.filter (fun e => e.2.ns ≠ some n) })))) 0 0xA9 (leAt cmd 8 8) {})) ∧
      (∀ i c nsid, AdminReady s 0 0xAA cmd t → i = par cmd 0x14 0 32 → nsid = par cmd 0x18 0 32 → aget s.sv.ctrls i = some c → 1 ≤ nsid → nsid ≤ 1024 → aget c.nss nsid = none → nsAttachments s n < 16 →
        exec (.nsAttach 0 cmd) s = .next (adminComplete (nsChanged (ctrlUpd s i (fun x => { x with nss := aset x.nss nsid n })) i nsid) 0 0xAA (leAt cmd 8 8) {})) ∧
      (∀ i c nsid, AdminReady s 0 0xAB cmd t → i = par cmd 0x14 0 32 → aget s.sv.ctrls i = some c → c.nss.find? (fun e => e.2 == n) = some (nsid, n) → c.test = none →
        (let u := nsChanged (ctrlUpd s i (fun x => { x with nss := adel x.nss nsid })) i nsid
         u.sv.cmds.any (fun e => e.2.ctrl == i && e.2.ns == some n && e.2.stage ≠ .staged) = false → exec (.nsDetach 0 cmd) s = .next (adminComplete u 0 0xAB (leAt cmd 8 8) {}))) ∧
      (∀ h, AdminReady s 0 0xAC cmd t → par cmd 0x14 0 1 = 1 → par cmd 0x14 1 1 = 0 → h = par cmd 0x18 0 32 → x.backing = 1 → svQpReady s h = true → x.state = 0 →
        exec (.nsModify 0 cmd) s = .next (adminComplete (nsUpd s n (fun y => { y with target := h })) 0 0xAC (leAt cmd 8 8) {})) ∧
      (AdminReady s 0 0xAD cmd t → x.backing ≠ 0 → exec (.nsQuery 0 cmd) s = .next (adminComplete s 0 0xAD (leAt cmd 8 8) { aux := x.state, len := min x.size 0xFFFFFFFF }))))

/-- The channel instructions of a thread that runs, and what ends its waits, complete with the effects of chapter 16. -/
def Obligations.ChannelInstructionsComplete : Prop :=
  (∀ (s : State) (t n rs1 rs2 k : Nat), thRuns s t n = true → k = 16 * n + rs1 % 16 →
    (let p := tport s t k
     (p.mode = 2 → p.abandoned = false → p.destGone = false → p.sealed = false → p.opened = true → p.words.length < 8 →
       exec (.chPut t n rs1 rs2 0) s = .next (chReply (tportSet s t k { p with words := p.words ++ [rs2 % 2 ^ 64] }) t n STS_OK)) ∧
     (∀ addr a m rest dl, p.mode = 1 → p.msgs = m :: rest → thAddr (fwBytes s) t addr (8 * m.words) = some a →
       (let r := m.words * 2 ^ 8 + (rs1 % 16) * 2 ^ 12 + m.kind * 2 ^ 16 + b2n m.late * 2 ^ 20 + m.sender * 2 ^ 24
        exec (.chRecv t n rs1 (some addr) 0 dl) s = .next (chReply (tportSet (store s a ((headWords s t p).flatMap (fun w => le 8 w))) t k { p with msgs := rest }) t n STS_OK r))) ∧
     (∀ addr dl, p.mode = 1 → p.msgs = [] →
       exec (.chRecv t n rs1 addr 1 dl) s = .next (chReply s t n STS_PORT_EMPTY) ∧
       exec (.chRecv t n rs1 addr 0 dl) s = .next (chBlock s t n { op := 1, port := rs1 % 16, addr := addr })) ∧
     (p.mode = 2 → p.opened = true → exec (.chAbort t n rs1 0 0) s = .next (chReply (dropOpen s t k) t n STS_OK)) ∧
     (p.mode = 1 → rs2 % 2 ^ 64 ≠ 0 → exec (.chTimer t n rs1 rs2 0) s = .next (chReply (thUpd s t n (fun x => { x with timers := aset x.timers (fld rs1 4 2) (rs1 % 16, rs2 % 2 ^ 64, decide (rs2 % 2 ^ 64 < nowNs s)) })) t n STS_OK)) ∧
     exec (.chInfo t n rs1 0 0) s = .next (emit (thIssue s t n) (.threadReply t n 0
       [p.msgs.length + p.resv * 2 ^ 13 + b2n (p.mode ≠ 0) * 2 ^ 26 + b2n (p.mode == 2) * 2 ^ 27 + b2n p.opened * 2 ^ 28])) ∧
     (∀ dl, p.mode = 1 → p.msgs ≠ [] → exec (.chWait t n (2 ^ (rs1 % 16)) 0 0 dl) s = .next (chReply s t n STS_OK (rs1 % 16 * 2 ^ 12))))) ∧
  (∀ (s : State) (t n : Nat) (b : Block), t < 34 → n < 64 → thState s t n = 2 → (thGet s t n).block = some b →
    (∀ u, chTry s t n b = some u → exec (.channelUnblock t n) s = .next u) ∧
    (∀ d, b.dl = some d → d ≤ nowNs s → chTry s t n b = none → exec (.channelDeadline t n) s = .next (chReply s t n STS_TIMEOUT))) ∧
  (∀ (s : State) (t n k p when' : Nat), t < 34 → n < 64 → aget (thGet s t n).fired k = none → aget (thGet s t n).timers k = some (p, when', false) → when' ≤ nowNs s → (tport s t (16 * n + p)).mode = 1 →
    (let u := thUpd s t n (fun y => { y with timers := adel y.timers k })
     ∀ w, postMsg u (tport s t (16 * n + p)).handle [when'] 3 0 false = some w → exec (.threadTimerExpire t n k) s = .next w))

/-- Commands on threads and ports and the engines of a tiller complete with the effects of chapter 16. -/
def Obligations.ThreadCommandsComplete : Prop :=
  (∀ (s : State) (req : Requester) (t n : Nat) (v : W32), t < 34 → n < 64 →
    (Passes s req (thR Reg.TH_CTL t n) false →
      (let u := plainWrite s (thR Reg.TH_CTL t n) 0xFF08 v
       (rbit v 0 = true → rbit v 1 = false → rbit v 2 = false → rbit v 4 = false →
         (thState u t n = 1 → exec (.thHalt req 15 t n v) s = .next (thSetState (stopPc u t n) t n 0)) ∧
         (thState u t n = 2 → exec (.thHalt req 15 t n v) s = .next (thSetState u t n 0))) ∧
       (rbit v 0 = false → rbit v 1 = true → rbit v 2 = false → rbit v 4 = false → thState u t n = 0 ∨ thState u t n = 3 → thDbg u t n = false → (thGet u t n).block = none →
         exec (.thResume req 15 t n v) s = .next (thIssue (thSetState u t n 1) t n)) ∧
       (rbit v 0 = false → rbit v 1 = false → rbit v 2 = true → rbit v 4 = false → exec (.thReset req 15 t n v) s = .next (resetThread u t n)) ∧
       (rbit v 0 = false → rbit v 1 = false → rbit v 2 = false → rbit v 4 = true → thState u t n = 2 →
         ((thGet u t n).block.bind (chTry u t n) = none → exec (.thCancel req 15 t n v) s = .next (chReply u t n (if rfld v 8 8 = 0 then STS_CANCELLED else BitVec.ofNat 8 (rfld v 8 8)))) ∧
         (∀ w, (thGet u t n).block.bind (chTry u t n) = some w → exec (.thCancel req 15 t n v) s = .next w)))) ∧
    (Passes s req (thR Reg.TH_WAKE_HI t n) false →
      (let u := wr (loCommit s req (thR Reg.TH_WAKE_LO t n)) (thR Reg.TH_WAKE_HI t n) v
       let k := 16 * n + rdF u (thR Reg.TH_WAKE_PORT t n) 0 4
       (tport u t k).mode = 1 → tportRoom (tport u t k) = true →
         exec (.thWake req 15 t n v) s = .next (enqueue (wrF u (thR Reg.TH_WAKE_PORT t n) 8 1 0) t k [rd64 (wrF u (thR Reg.TH_WAKE_PORT t n) 8 1 0) (thR Reg.TH_WAKE_LO t n)] 5 0 false))) ∧
    (∀ k, k < 5 → Passes s req (thR Reg.TH_PC_LO t n + 4 * k) false →
      (k = 0 ∨ k = 2 → exec (.threadContextWrite req 15 t n k v) s = .next (loHold s req (thR Reg.TH_PC_LO t n + 4 * k) v)) ∧
      (k = 1 ∨ k = 3 → thState s t n = 0 ∨ thState s t n = 3 →
        exec (.threadContextWrite req 15 t n k v) s = .next (wr (loCommit s req (thR Reg.TH_PC_LO t n + 4 * k - 4)) (thR Reg.TH_PC_LO t n + 4 * k) v))) ∧
    (n ≠ 0 → Passes s req (thR Reg.TH_GROUP t n) false → exec (.thGroupWrite req 15 t n v) s = .next (wrN s (thR Reg.TH_GROUP t n) (rfld v 0 6)))) ∧
  (∀ (s : State) (req : Requester) (t : Nat) (v : W32), t < 34 →
    (Passes s req (tilR Reg.TIL_PORT_SEL t) false → exec (.portSelWrite req 15 t v) s = .next (loadPort (wrN s (tilR Reg.TIL_PORT_SEL t) (rfld v 0 10)) t)) ∧
    (Passes s req (tilR Reg.TIL_PORT_CMD t) false → rbit v 2 = false → rbit v 0 = true → portKey s t ≠ faultKey →
      (let k := portKey s t
       let w (i lo n : Nat) : Nat := rdF s (Reg.TIL_PORT_CFG (t / 8) (t % 8) i) lo n
       (tport s t k).msgs = [] → (tport s t k).resv = 0 → (tport s t k).opened = false →
       (w 0 0 2 = 0 → exec (.portApply req 15 t v) s = .next (loadPort (unbindPort s t k) t)) ∧
       (∀ h u, w 0 0 2 = 1 → 2 ≤ w 0 8 4 → w 0 8 4 ≤ 12 → w 1 0 20 % 64 = 0 → w 1 0 20 + 64 * 2 ^ w 0 8 4 ≤ 0x100000 → newPortHandle (unbindPort s t k) = (some h, u) →
         exec (.portApply req 15 t v) s = .next (loadPort (tportSet u t k { mode := 1, puntOk := w 0 2 1 = 1, event := w 0 3 1 = 1, hw := (tport s t k).hw, depthLog := w 0 8 4, qbase := w 1 0 20, handle := h, pbase := w 4 0 32 + w 5 0 32 * 2 ^ 32, pslots := w 6 0 16, prel := (tport s t k).prel }) t))))) ∧
  (∀ (s : State) (t : Nat) (r : DmaReq), unitState s (16 + t) = 1 →
    (∀ rest, (tilGet s t).dmaCur = none → (tilGet s t).dma = r :: rest → exec (.dmaRequest t) s = .next (tilUpd s t (fun a => { a with dmaCur := some r, dma := rest }))) ∧
    (∀ env u sts w, (tilGet s t).dmaCur = some r → r.done = none → dmaHost r = false ∨ mayRead s (dmaSlice r) = true → dmaCopy s t r env = (u, sts) →
      (let w3 := (r.words[3]?).getD 0
       postMsg u (w3 % 2 ^ 32) [sts.toNat + w3 / 2 ^ 32 * 2 ^ 32] 2 0 false = some w → exec (.dmaComplete t env) s = .next (tilUpd w t (fun a => { a with dmaCur := none })))) ∧
    (∀ ws rest, (tilGet s t).faults = ws :: rest → (tport s t faultKey).mode = 1 → tportRoom (tport s t faultKey) = true → tilHeld s t = false →
      exec (.faultRecordPost t) s = .next (enqueue (tilUpd s t (fun a => { a with faults := rest })) t faultKey ws 6 0 false))) ∧
  (∀ (s : State) (t n mode xcause xepc xtval : Nat), t < 34 → n < 64 → n ≠ 0 → thState s t n = 1 →
    (let u := wr64 (thSetState (thUpd s t n (fun x => { x with block := none, regs := [] })) t n 3) (thR Reg.TH_PC_LO t n) (xepc % 2 ^ 64)
     let w := faultRecord u t [2 + n * 2 ^ 8 + mode % 4 * 2 ^ 14 + 0 * 2 ^ 16, xcause % 2 ^ 64, xepc % 2 ^ 64, xtval % 2 ^ 64, nowNs u, 0, 0, 0]
     exec (.threadFault t n mode 0 xcause xepc xtval) s = .next (raiseLim (bump w (tilR Reg.TIL_FAULT_CNT t)) (tilSrc t 1) 0 [(4, n)]))) ∧
  (∀ (s : State) (t g : Nat), t < 34 → 1 ≤ g → g ≤ 63 → groupOf s t g ≠ [] → rdF s (tilR Reg.TIL_SS_QUIET t) 0 16 ≠ 0 → (tilGet s t).still.contains g = false →
    (groupOf s t g).all (fun n => stuckIn s t n g && decide ((thGet s t n).since + rdF s (tilR Reg.TIL_SS_QUIET t) 0 16 * usUnits ≤ s.time.elapsed)) = true →
    (let members := (groupOf s t g).foldl (fun a n => a + 2 ^ n) 0
     let u := tilUpd s t (fun a => { a with still := g :: a.still })
     exec (.standstill t g) s = .next (raise (bump (faultRecord u t [3 + g * 256, members, nowNs u, 0]) (tilR Reg.TIL_SS_CNT t)) (tilSrc t 3) [(4, g), (8, members)])))

/-- Debug commands within scope complete (R574), as do breakpoints and the release of a tiller (R549). -/
def Obligations.DebugCommandsComplete : Prop :=
  (∀ (s : State) (req : Requester) (t n : Nat) (v : W32),
    let u := plainWrite s (tilR Reg.TIL_DBG_CMD t) 0x3F0 v
    let ok (w : State) : Host.Outcome State Fault Refusal := .next (wrF w (tilR Reg.TIL_DBG_STATUS t) 0 8 STS_OK.toNat)
    let addr := rdN u (tilR Reg.TIL_DBG_ADDR t)
    let data := rd64 u (tilR Reg.TIL_DBG_DATA_LO t)
    let mark (w : State) (b : Nat) : State := wrF w (thR Reg.TH_STATUS t n) 3 1 b
    (DbgReady s req t n 1 v → exec (.dbgHalt req 15 t v) s = ok (mark (haltThread u t n) 1)) ∧
    (DbgReady s req t n 2 v → thDbg u t n = true → exec (.dbgResume req 15 t v) s = ok (resumeThread (mark u 0) t n)) ∧
    (∀ pc, DbgReady s req t n 3 v → thState u t n = 0 → thDbg u t n = true →
      exec (.dbgStep req 15 t v pc) s = ok (wr64 (thUpd (emit (thIssue u t n) (.control "single step" [t, n])) t n (fun x => { x with regs := [] })) (thR Reg.TH_PC_LO t n) (pc % 2 ^ 64))) ∧
    (DbgReady s req t n 4 v → thState u t n = 0 →
      (addr % 0x2000 = 0 → exec (.dbgRdReg req 15 t v) s = ok (wr64 u (tilR Reg.TIL_DBG_DATA_LO t) 0)) ∧
      (addr % 0x2000 = 0x40 → exec (.dbgRdReg req 15 t v) s = ok (wr64 u (tilR Reg.TIL_DBG_DATA_LO t) (rd64 u (thR Reg.TH_PC_LO t n)))) ∧
      (∀ x, 0 < addr % 0x2000 → addr % 0x2000 < 0x40 → aget (thGet u t n).regs (addr % 0x2000) = some x →
        exec (.dbgRdReg req 15 t v) s = ok (wr64 u (tilR Reg.TIL_DBG_DATA_LO t) x))) ∧
    (DbgReady s req t n 5 v → thState u t n = 0 →
      (addr % 0x2000 = 0x40 → exec (.dbgWrReg req 15 t v) s = ok (wr64 u (thR Reg.TH_PC_LO t n) data)) ∧
      (dbgRegOk (addr % 0x2000) = true → addr % 0x2000 ≠ 0x40 →
        exec (.dbgWrReg req 15 t v) s = ok (thUpd u t n (fun x => { x with regs := aset x.regs (addr % 0x2000) data })))) ∧
    (∀ pa a, thAddr (fwBytes u) t pa 8 = some a → thState u t n = 0 →
      (DbgReady s req t n 6 v → exec (.dbgRdMem req 15 t v (some pa)) s = ok (wr64 u (tilR Reg.TIL_DBG_DATA_LO t) (ofLe (memGets u.mem a 8)))) ∧
      (DbgReady s req t n 7 v → exec (.dbgWrMem req 15 t v (some pa)) s = ok (store u a (le 8 data)))) ∧
    (DbgReady s req t n 8 v → thState u t n = 0 →
      (let k := 16 * n + addr % 16
       (tport u t k).opened = true → exec (.abandon req 15 t v) s = ok (tportSet (dropOpen u t k) t k { tport (dropOpen u t k) t k with abandoned := true }))) ∧
    (DbgReady s req t n 9 v → exec (.dbgReset req 15 t v) s = ok (resetThread u t n)) ∧
    (DbgReady s req t n 10 v → exec (.bpSet req 15 t v) s = ok (thUpd u t n (fun x => { x with bps := aset x.bps (data % 4) addr }))) ∧
    (DbgReady s req t n 11 v → exec (.bpClr req 15 t v) s = ok (thUpd u t n (fun x => { x with bps := adel x.bps (data % 4) })))) ∧
  (∀ (s : State) (t n pc : Nat), thRuns s t n = true → (thGet s t n).bps.any (fun e => e.2 == pc) = true →
    exec (.breakpointHit t n pc) s = .next (wrF (thSetState (wr64 (thUpd s t n (fun x => { x with regs := [] })) (thR Reg.TH_PC_LO t n) (pc % 2 ^ 64)) t n 0) (thR Reg.TH_STATUS t n) 3 1 1)) ∧
  (∀ (s : State) (t role : Nat), t < 34 → role < 32 → rdF s (tilR Reg.TIL_STATUS t) 0 1 = 0 →
    (unitState s (16 + t) = 1 → unitRole s (16 + t) = role → exec (.tillerRelease t role) s = .next (releaseTiller s t role role)) ∧
    (unitState s (16 + t) = 2 → exec (.tillerRelease t role) s = .next (releaseTiller s t role 0x3F)))

/-- Commands on units, and the events of their lives, complete (chapter 17). -/
def Obligations.UnitCommandsComplete : Prop :=
  (∀ (s : State) (u : Nat), unitValid u = true →
    (unitState s u = 1 ∨ unitState s u = 2 → exec (.heartbeat u) s = .next (beat s u)) ∧
    (unitState s u = 1 ∨ unitState s u = 2 → u ≥ 9 → exec (.machineCheck u []) s = .next (declare' s u 1)) ∧
    (∀ w, unitState s u = 1 ∨ unitState s u = 2 → u < 9 → w ≠ [] →
      exec (.machineCheck u w) s = .next (declare' (mcheckEvent (unitUpd s (fun x => { x with mcheck := aset x.mcheck u w })) u w 0) u 1)) ∧
    (rdF s Reg.GL_BOOT_STAGE 0 4 = 5 → agetD s.unit.beats u 0 + 12 * usUnits ≤ s.time.elapsed → exec (.heartbeatTimeout u) s = .next (declare' s u 2)) ∧
    (unitState s u = 3 → ozRunning s = true → s.unit.takeovers.any (fun e => e.2.1 == u) = false →
      (rdF s Reg.MS_READMIT_CTL 0 1 = 1 → rdF s Reg.MS_READMIT_CTL 8 4 = 0 ∨ fences24 s u < rdF s Reg.MS_READMIT_CTL 8 4 → exec (.autoReadmit u) s = .next (readmit s u)) ∧
      (rdF s Reg.MS_READMIT_CTL 0 1 = 0 → exec (.autoReadmit u) s = .next (setUnitState s u 5))) ∧
    (unitState s u = 4 →
      (16 ≤ u → exec (.selfTestDone u 2) s = .next (readmitEvent (setUnitCause (setUnitState (unitUpd s (fun x => { x with tests := adel x.tests u })) u 5) u 4) u false)) ∧
      (64 ≤ u → unserved (unitUpd s (fun x => { x with tests := adel x.tests u })) u = none →
        (let z := unitUpd (unitUpd s (fun x => { x with tests := adel x.tests u })) (fun x => { x with mcheck := adel x.mcheck u })
         exec (.selfTestDone u 0) s = .next (readmitEvent (unitEnter (wrF z Reg.CY_LA_STATUS (9 + (u - 64)) 1 0) u 2 0x3F) u true))))) ∧
  (∀ (s : State) (req : Requester) (v : W32), Passes s req Reg.MS_UNIT_CMD true → rbit v 25 = false →
    (let u := plainWrite (closeWindow s) Reg.MS_UNIT_CMD 0x7F07F v
     (rfld v 8 3 = 1 → unitCause u 1 (rfld v 0 7) (rfld v 12 7) = 0 → exec (.fence req 15 v) s = .next (declare' u (rfld v 0 7) 3)) ∧
     (rfld v 8 3 = 2 → unitCause u 2 (rfld v 0 7) (rfld v 12 7) = 0 → exec (.readmit req 15 v) s = .next (readmit u (rfld v 0 7))) ∧
     (rfld v 8 3 = 3 → unitCause u 3 (rfld v 0 7) (rfld v 12 7) = 0 → exec (.handover req 15 v) s = .next (handover u (rfld v 0 7) (rfld v 12 7) (unitRole u (rfld v 0 7)))) ∧
     (rfld v 8 3 = 4 → unitCause u 4 (rfld v 0 7) (rfld v 12 7) = 0 → exec (.retire req 15 v) s = .next (setUnitState u (rfld v 0 7) 5)))) ∧
  (∀ (s : State) (role f p start : Nat) (bad : List Nat), role < 8 →
    (takeOf s 0 role = some (f, p, start) → exec (.takeoverComplete 0 role bad) s = .next (takeEnd (takeStair s f p role) f p role start)) ∧
    (takeOf s 1 role = some (f, p, start) → exec (.takeoverComplete 1 role bad) s = .next (takeTiller (takeEnd s f p role start) (f - 16) (p - 16) role bad)) ∧
    (∀ e, takeOf s 2 role = some (64 + e, 64 + e, start) →
      exec (.takeoverComplete 2 role bad) s = .next (wrF (wrF (takeEnd s (64 + e) (64 + e) role start) Reg.CY_LA_STATUS e 1 1) Reg.CY_LA_STATUS (9 + e) 1 0))) ∧
  (∀ (s : State) (old new role start : Nat), s.unit.handover = some (old, new, role, start) →
    rdF s (tilR Reg.TIL_HANDOVER (old - 16)) 1 1 = 1 ∨ (rdF s Reg.MS_HANDOVER_LIMIT 0 16 ≠ 0 ∧ start + rdF s Reg.MS_HANDOVER_LIMIT 0 16 * msUnits ≤ s.time.elapsed) →
    (let d := declare' (unitUpd s (fun x => { x with handover := none })) old 5
     let w := tilUpd (freeOwn (dropSent d (old - 16)) (old - 16)) (old - 16) (fun x => { x with dma := [], dmaCur := none, threads := [], still := [], faults := [] })
     exec .handoverEnd s = .next (raise (wrN (wrF w (tilR Reg.TIL_HANDOVER (new - 16)) 0 3 0) (tilR Reg.TIL_HANDOVER (old - 16)) 0) 0x985 [(4, role), (4, 2), (4, old), (4, new)]))) ∧
  (∀ (s : State) (role o n : Nat) (rest : List Nat), s.unit.rolling = role :: rest → tillerOf s role = some o → s.unit.handover = none → ozRunning s = true →
    (let spares := (unitsOf 1).filter (fun u => unitState s u == 2 && !spareBusy s u)
     2 ≤ spares.length → spares.find? (fun u => handoverReady s u && (tilGet s (u - 16)).image == activeSlot s) = some n →
       exec .rollingUpdateStep s = .next (handover (unitUpd s (fun x => { x with rolling := rest })) (16 + o) n role)))

/-- Commands and events of the GDDR7 controllers complete (R600, R601). -/
def Obligations.GddrCommandsComplete : Prop :=
  ∀ (s : State) (c : Nat), c < 16 →
    (∀ (req : Requester) (v : W32), Passes s req (gmReg Reg.GM_CMD c) true →
      (rbit v 0 = false → rbit v 1 = true → exec (.gmLose req 15 c v) s = .next (gmLost (closeWindow s) c 3)) ∧
      (rbit v 0 = true → rbit v 1 = false → gmState (closeWindow s) c = 1 →
        exec (.gmRetrain req 15 c v true) s = .next (wrN (closeWindow s) (gmReg Reg.GM_STATUS c) 2) ∧
        exec (.gmRetrain req 15 c v false) s = .next (closeWindow s))) ∧
    exec (.controllerLost c 1) s = .next (gmLost s c 1) ∧
    (uesRecent s c > 16 → exec (.controllerLost c 2) s = .next (gmLost s c 2)) ∧
    (gmState s c = 2 → gmState s (gmPair c) = 0 → exec (.resyncComplete c) s = .next (raise (wrN s (gmReg Reg.GM_STATUS c) 0) 0x991 [(4, c)])) ∧
    (let e := raiseLim (bump s (gmReg Reg.GM_UE_CNT c)) 0x993 0 [(4, c)]
     let u := unitUpd e (fun x => { x with ues := aset x.ues c (e.time.elapsed :: (agetD x.ues c []).take 31) })
     gmState s c = 0 →
      (gmState u (gmPair c) = 0 → exec (.guardedReadFix c) s = .next (bump u (gmReg Reg.GM_GUARD_FIX_CNT c))) ∧
      (gmState u (gmPair c) ≠ 0 → exec (.guardedReadFix c) s = .next u))

/-- The engines and commands of events and telemetry complete (chapter 18). -/
def Obligations.TelemetryCommandsComplete : Prop :=
  (∀ (s : State) (e : EvRec), nextRec s = some e → s.ev.lost = 0 → logged e = false →
    (let u : State := { s with ev := { s.ev with queue := s.ev.queue.erase e } }
     (e.route.testBit 0 = false → exec .eventDeliver s = .next u) ∧
     (∀ j c, e.route.testBit 0 = true → chanOf u e.dest = some (j, c) → c.kind = 7 → c.slice = 0 → isTmRing u e.dest = false →
        (let x := ringFlush (c.notes.length + 2) u j
         (chanGet x j).any (fun d => d.state == 1 && decide (ringRoom d > 0) && sliceLive x d.slice) = true →
         exec .eventDeliver s = .next (ringPut x j (fun phase => le 4 (e.source + e.seq * 2 ^ 12) ++ le 4 (e.code + phase * 2 ^ 31) ++ le 8 e.time ++ e.data)))) ∧
     (e.route.testBit 0 = true → chanOf u e.dest = none → inPort u e.dest = none → exec .eventDeliver s = .next (bump u Reg.OZ_EV_UNDELIV_CNT)))) ∧
  (∀ (s : State) (src key : Nat) (w : LimWin), aget s.ev.wins (winKey src key) = some w → winOver s w = true →
    (0 < w.count → exec (.rateLimitWindow src key) s = .next (raiseWin s src key w.count w.time w.last)) ∧
    (w.count = 0 → exec (.rateLimitWindow src key) s = .next { s with ev := { s.ev with wins := adel s.ev.wins (winKey src key) } })) ∧
  (∀ (s : State) (req : Requester) (r : Nat) (v : W32), r < 16 → Passes s req (Reg.LD_TM_CFG_CTL r) false →
    (∀ c, rbit v 0 = true → tmRefused s r (rfld v 1 2) = some c →
      exec (.tmRingBind req 15 r v) s = .next (wrF (wrF (wrF (plainWrite s (Reg.LD_TM_CFG_CTL r) 7 (v &&& 6)) Reg.LD_TM_STATUS 0 1 1) Reg.LD_TM_STATUS 1 3 c) Reg.LD_TM_STATUS 4 4 r)) ∧
    (rbit v 0 = true → tmRefused s r (rfld v 1 2) = none → exec (.tmRingBind req 15 r v) s = .next (plainWrite s (Reg.LD_TM_CFG_CTL r) 7 v)) ∧
    (rbit v 0 = false → rdF s Reg.LD_RH_STATUS 0 1 = 0 → exec (.tmRingBind req 15 r v) s = .next (plainWrite s (Reg.LD_TM_CFG_CTL r) 7 v)) ∧
    (rbit v 0 = false → rdF s Reg.LD_RH_STATUS 0 1 = 1 → rdN s Reg.LD_RH_RING = tmHandle s r → tmBound s r = true →
      exec (.tmRingBind req 15 r v) s = .next (wrF (wrF (wrF s Reg.LD_TM_STATUS 0 1 1) Reg.LD_TM_STATUS 1 3 5) Reg.LD_TM_STATUS 4 4 r))) ∧
  (∀ (s : State) (req : Requester) (p t : Nat) (v : W32), p < 9 → t < 62 → Passes s req (Reg.STA_TBL_HITARR p t) false →
    (let k := tblKind s p t
     (k = 0 ∨ k = 4 ∨ k = 7 ∨ arrKind s p (tcf s p t 0 3 1) (rfld v 1 4) ≠ 1 →
       exec (.hitarrWrite req 15 p t v) s = .next (wrN s (Reg.STA_TBL_CFG_STATUS p) (1 + 2 * 7 + 256 * t))) ∧
     (k ≠ 0 → k ≠ 4 → k ≠ 7 → arrKind s p (tcf s p t 0 3 1) (rfld v 1 4) = 1 →
       exec (.hitarrWrite req 15 p t v) s = .next (plainWrite s (Reg.STA_TBL_HITARR p t) 0x1F v))))

/-- Mailbox commands of information, the log, management and firmware update complete (R661, R654). -/
def Obligations.UpdateCommandsComplete : Prop :=
  ∀ (s : State) (req : Requester) (v : W32),
    let a := mbArgs s
    let o := otherSlot s
    (MbReady s req v 0x01 → exec (.info req 15 v) s =
      .next (mbEnd s STS_OK ((List.range 4).map (fun k => Config.deviceId / 2 ^ (32 * k) % 2 ^ 32) ++ [rdN s Reg.OZ_IMAGE, rdN s Reg.OZ_SVN]))) ∧
    (∀ env, MbReady s req v 0x02 → argOf a 3 ≤ 4096 →
      (let first := max (argOf a 2) (logOldest s)
       let ms := (List.range (min (rdN s Reg.OZ_LOG_NEXT) (argOf a 2 + argOf a 3) - first)).map (first + ·)
       (ms = [] → exec (.logRead req 15 v env) s = .next (mbEnd s STS_OK [0, logOldest s, rdN s Reg.OZ_LOG_NEXT])) ∧
       (∀ w, ms ≠ [] → ozPut s (argAddr a 0) (ms.flatMap (logRead s)) env = (w, STS_OK) →
         exec (.logRead req 15 v env) s = .next (mbEnd w STS_OK [ms.length, logOldest s, rdN s Reg.OZ_LOG_NEXT])))) ∧
    (MbReady s req v 0x03 → argOf a 0 = 0 ∨ (inPort s (argOf a 0)).isSome = true →
      exec (.bindMgmt req 15 v) s = .next (mbEnd (ozUpd s (fun z => { z with mgmt := argOf a 0 })) STS_OK [])) ∧
    (MbReady s req v 0x10 → deferral s = false → s.oz.step = 0 →
      exec (.fwBegin req 15 v) s = .next (mbEnd (fwStage (ozUpd (flashErase s (slotAddr o) (slotAddr o + slotBytes)) (fun z => { z with route := 0, step := 1 })) 1 o 0) STS_OK [])) ∧
    (∀ env, MbReady s req v 0x11 → deferral s = false → s.oz.step = 1 → s.oz.route = 0 → 0 < argOf a 3 → argOf a 2 + argOf a 3 ≤ slotBytes →
      (∀ u bs, mbData s (argAddr a 0) (argOf a 3) env = some (u, bs) →
        exec (.fwWrite req 15 v env) s = .next (mbEnd (flashPut u (slotAddr (otherSlot u) + argOf a 2) bs) STS_OK []))) ∧
    (MbReady s req v 0x12 → s.oz.route = 0 → s.oz.step = 1 ∨ s.oz.step = 2 →
      (let w := fwStage (ozUpd s (fun z => { z with step := 2 })) 3 o (imgSvn s o)
       exec (.fwVerify req 15 v) s = .next (if imageCheck s o = STS_OK then mbEnd w STS_OK [imgSvn w (otherSlot w)] else mbEnd s (imageCheck s o) []))) ∧
    (MbReady s req v 0x13 → deferral s = false → s.oz.route = 0 → s.oz.step = 2 →
      (let u := showImage (bootWrite (ozUpd s (fun z => { z with step := 3 })) o 1 1)
       let w := fwStage u 4 o (imgSvn u o)
       let w := if (argOf a 0).testBit 1 then { w with unit := { w.unit with rolling := List.range 32 } } else w
       exec (.fwActivate req 15 v) s = .next (mbEnd (if (argOf a 0).testBit 0 then ozRestart w o 2 else w) STS_OK []))) ∧
    (MbReady s req v 0x14 → deferral s = false → bootPending s = true →
      (let svn := imgSvn s (activeSlot s)
       let u := bootWrite s (activeSlot s) 0 (fld (bootState s) 2 1)
       let w := showImage (ozUpd u (fun z => { z with svn := max z.svn svn, step := 0, route := 0 }))
       let w := fwStage w 5 (activeSlot w) svn
       exec (.fwCommit req 15 v) s = .next (mbEnd w STS_OK [w.oz.svn]))) ∧
    (MbReady s req v 0x15 → deferral s = false → bootPending s = true →
      (let u := showImage (bootWrite s o 0 0)
       exec (.fwRevert req 15 v) s = .next (mbEnd (ozRestart (fwStage (ozUpd u (fun z => { z with step := 0 })) 6 o (imgSvn u o)) o 3) STS_OK [])))

/-- Mailbox commands of keys, life cycle, tokens and restart complete (R661). -/
def Obligations.LifeCycleCommandsComplete : Prop :=
  (∀ (s : State) (req : Requester) (v : W32),
    let a := mbArgs s
    let w := closeWindow s
    (MbReady s req v 0x20 → exec (.ozKeyErase req 15 v) s = .next (mbEnd (keyErase w 16) STS_OK [])) ∧
    (∀ env u bs, MbReady s req v 0x21 → unsteady s = false → s.oz.lc = 0 → argOf a 0 = 1 → mbData w (argAddr a 1) 97 env = some (u, bs) →
      exec (.lcTransition req 15 v env) s = .next (mbEnd (lcMove u 1 (Config.sha384 bs)) STS_OK [])) ∧
    (∀ env u bs, MbReady s req v 0x21 → unsteady s = false → (s.oz.lc = 1 ∧ argOf a 0 = 2) ∨ (s.oz.lc = 1 ∧ argOf a 0 = 3) ∨ (s.oz.lc = 2 ∧ argOf a 0 = 3) → mbData w (argAddr a 1) 264 env = some (u, bs) →
      (let r := tokenCheck u bs [if argOf a 0 = 2 then 3 else 4] (s.oz.lc == 2)
       exec (.lcTransition req 15 v env) s = .next (if r.2 then mbEnd (lcMove r.1 (argOf a 0) []) STS_OK [] else mbEnd r.1 STS_TOKEN []))) ∧
    (∀ env u bs, MbReady s req v 0x22 → deferral s = false → mbData w (argAddr a 0) 4096 env = some (u, bs) → bcrGood bs = true →
      exec (.bcrWrite req 15 v env) s = .next (mbEnd (flashPut (flashPut u 0 bs) 0x1000 bs) STS_OK [])) ∧
    (MbReady s req v 0x23 → (let x := mbEnd w STS_OK []
       exec (.ozRestart req 15 v) s = .next (ozRestart x (activeSlot x) 1))) ∧
    (MbReady s req v 0x30 → drbgUp s = true →
      (let n := (draw s).1 % 2 ^ 128
       exec (.nonce req 15 v) s = .next (mbEnd (ozUpd (draw s).2 (fun o => { o with nonce := some (n, s.time.elapsed) })) STS_OK ((List.range 4).map (fun k => n / 2 ^ (32 * k) % 2 ^ 32))))) ∧
    (∀ env u t, MbReady s req v 0x31 → s.oz.lc = 1 ∨ s.oz.lc = 2 → mbData s (argAddr a 0) 264 env = some (u, t) →
      (let r := tokenCheck u t [if s.oz.lc = 2 then 2 else 1] (s.oz.lc == 2)
       let kind := leAt t 4 1
       let sl := leAt t 6 2 % 2 ^ 14
       exec (.debugOpen req 15 v env) s = .next (if r.2 then mbEnd (scopeOpen r.1 kind sl (leAt t 0x28 8) t) STS_OK []
         else mbEnd (raise r.1 0x048 [(4, 1), (4, kind), (4, sl)]) STS_TOKEN []))) ∧
    (MbReady s req v 0x32 → exec (.debugClose req 15 v) s = .next (mbEnd (scopeClose s) STS_OK [])) ∧
    (∀ env q u t, MbReady s req v 0x18 → spareStair s = some q → rhRunning s = false → mbData s (argAddr a 0) 704 env = some (u, t) → probeMay u (mdSlice (slice t 8 128)) = true →
      (let r := probeVec u q t
       let md := r.2.1
       let sig := intentSig (r.2.2.shed ++ r.2.2.intents)
       let res := pack 16 [(0, 0, 1, b2n (probeMatch t md sig && !r.2.2.gone)), (0, 1, 3, mdDisp md), (0, 4, 8, mdReason md), (4, 0, 18, mdQueue md),
          (8, 0, 32, mdHandle md), (0xC, 0, 32, sig)] ++ slice md 0x60 32 ++ List.replicate 16 0
       let x := ozPut r.1 (argAddr a 2) res env
       exec (.stairProbe req 15 v env) s = .next (mbEnd x.1 x.2 [])))) ∧
  (∀ (s : State) (kind sl e : Nat), s.oz.scope = some (kind, sl, e) → e ≠ 0 → e ≤ nowNs s → exec .debugExpiry s = .next (scopeClose s))

/-- Events of management, power, temperature and start-up complete (chapters 20 and 21). -/
def Obligations.PowerEventsComplete : Prop :=
  (∀ (s : State) (iface : Nat), iface < 18 → ozRunning s = true → s.oz.lc ≠ 3 →
    exec (.mctpMessage iface .plain) s = .next (answer s iface 0) ∧ exec (.mctpMessage iface .attest) s = .next (answer s iface 0) ∧
    (∀ k, exec (.mctpMessage iface (.measure k)) s = .next (answer s iface 0 (measured s k))) ∧
    exec (.mctpMessage iface .session) s = .next (answer s iface (if ownerIface s iface then 0 else 1)) ∧
    (deferral s = false → s.oz.step = 0 → ownerIface s iface = true →
      (let o := otherSlot s
       exec (.mctpMessage iface .fwBegin) s = .next (answer (fwStage (ozUpd (flashErase s (slotAddr o) (slotAddr o + slotBytes)) (fun z => { z with route := 1, step := 1 })) 1 o 0) iface 0)))) ∧
  (∀ (s w : State) (bs : List Byte), s.oz.mgmt ≠ 0 → punt s 0xF 0 s.oz.mgmt (fit 128 (le 8 (nowNs s))) bs 0 = some w → exec (.mgmtFrameReceive bs true) s = .next w) ∧
  (∀ (s : State) (addr len : Nat), addr + len ≤ fwBytes s → exec (.mgmtFrameSend addr len) s = .next (emit s (.mgmtFrame (memGets s.mem (fwBase + addr) len)))) ∧
  (∀ (s : State) (rail : Nat), rail < 7 →
    (bcrPmb s rail ≠ 0 → ozRunning s = true →
      (exec (.pmbusPoll rail (some 0)) s = .next (ozUpd s (fun o => { o with silent := adel o.silent rail }))) ∧
      (agetD s.oz.silent rail 0 + 1 ≠ 3 → exec (.pmbusPoll rail none) s = .next (ozUpd s (fun o => { o with silent := aset o.silent rail (agetD s.oz.silent rail 0 + 1) }))) ∧
      (∀ x, 0 < x → x < 65536 →
        (let u := ozUpd s (fun o => { o with silent := adel o.silent rail })
         exec (.pmbusPoll rail (some x)) s = .next (emit (raise u 0x04A [(4, rail), (4, x)]) (.control "CLEAR_FAULTS" [bcrPmb u rail]))))) ∧
    (∀ mvs, mvs.length = railCount rail → railLow mvs < railWarn rail → (aget s.oz.dips rail) = none →
      (let begun := (s.oz.begun.filter (fun t => s.time.elapsed < t + 1000 * msUnits)) ++ [s.time.elapsed]
       let u := ozUpd (noteLows s (railFirst rail) mvs) (fun o => { o with dips := aset o.dips rail (s.time.elapsed, railLow mvs), begun := begun, left := none })
       begun.length ≤ 16 → exec (.supplyDip rail mvs) s = .next (raise (bump (wrF u Reg.OZ_STATUS 3 1 1) Reg.OZ_DIP_CNT) 0x040 [(4, rail), (4, railLow mvs)]))) ∧
    (∀ mvs lows at' mv, s.oz.dips = [(rail, at', mv)] → mvs.length = railCount rail → lows.length = railCount rail → railClear rail < railLow mvs →
      (let u := ozUpd (noteLows s (railFirst rail) lows) (fun o => { o with dips := [], left := some s.time.elapsed })
       exec (.supplyClear rail ⟨mvs, lows⟩) s = .next (raise (wrF u Reg.OZ_STATUS 3 1 0) 0x041 [(4, rail), (4, (s.time.elapsed - at') / 65536), (4, min mv (railLow lows))]))) ∧
    (∀ mvs, mvs.length = railCount rail → railLow mvs < railReset rail → s.oz.good = true → exec (.supplyReset ⟨rail, mvs⟩) s = .next (ozUpd (coldReset s (if rail = 6 then 0 else 1 + 16 * rail)) (fun o => { o with good := true, down := some 0 })))) ∧
  (∀ (s : State) (t : Nat),
    (s.oz.left = some t → t + 100 * usUnits ≤ s.time.elapsed → unsteady s = false → exec .throttleRelease s = .next (ozResume (ozUpd s (fun o => { o with left := none })))) ∧
    (rdF s Reg.OZ_STATUS 4 1 = 1 → s.oz.begun.all (fun t => decide (t + 1000 * msUnits ≤ s.time.elapsed)) = true →
      exec .unstableEnd s = .next (ozResume (raisePhase (wrF (ozUpd s (fun o => { o with begun := [] })) Reg.OZ_STATUS 4 1 0) 0x042 4 [(4, 1)]))) ∧
    (∀ bifs clks perst mvs, s.oz.down = some t → railsClear mvs = true → t + 10 * msUnits ≤ s.time.elapsed →
      exec (.supplyResetEnd ⟨bifs, clks, perst, mvs⟩) s = .next (coldStart (ozUpd s (fun o => { o with bifs := bifs, clks := clks })) perst)) ∧
    (∀ bifs clks perst, s.oz.good = false → exec (.powerGood bifs clks perst []) s = .next (coldStart (ozUpd s (fun o => { o with bifs := bifs, clks := clks })) perst)) ∧
    (s.oz.good = true → exec .powerGoodDeassert s = .next (coldReset s 0))) ∧
  (∀ (s : State) (sensor : Nat) (r : Int), sensor < 64 → s.oz.good = true → rdN s Reg.OZ_TEMP_HWM ≠ 0 → r ≤ signed 16 (rdF s Reg.OZ_TEMP_HWM 0 16) →
    (let u := wrN s Reg.OZ_TEMP_MAX (unsign 16 r + 65536 * sensor)
     let cur := rdF u Reg.OZ_STATUS 5 2
     let l := thermLevel cur r
     (l = cur → exec (.thermalLevel sensor r) s = .next u) ∧
     (l ≠ cur → l ≠ 3 → cur ≠ 3 → exec (.thermalLevel sensor r) s = .next (raise (wrF u Reg.OZ_STATUS 5 2 l) 0x043 [(4, l), (4, sensor), (4, unsign 32 r)])) ∧
     (l ≠ cur → l = 3 → exec (.thermalLevel sensor r) s = .next (ozUpd (warmReset (raise (drive (raise (wrF u Reg.OZ_STATUS 5 2 3) 0x043 [(4, 3), (4, sensor), (4, unsign 32 r)]) .thermtripN 0 false)
        0x044 [(4, sensor), (4, unsign 32 r)]) 3) (fun o => { o with tripped := true }))))) ∧
  (∀ (s : State) (bs : List Byte), s.oz.todo ≠ 0 → deferral s = false → ozRunning s = true →
    (let m := rdN s Reg.OZ_LOG_NEXT - s.oz.todo
     s.oz.log.find? (fun e => e.1 == m) = some (m, bs) → m % 128 ≠ 0 → exec .logMirror s = .next (ozUpd (flashPut s (logAddr m) bs) (fun o => { o with todo := o.todo - 1 })))) ∧
  (∀ (s : State) (cause : Nat), 4 ≤ cause → cause ≤ 6 → s.oz.restart = none → ozRunning s = true → exec (.ozelmFault cause) s = .next (ozRestart s (activeSlot s) cause)) ∧
  (∀ (s : State) (t slot cause : Nat), s.oz.restart = some (t, slot, cause) →
    exec .ozelmRestartDone s = .next (match slotBoots s slot with
      | some (k, u) => raisePhase (ozelmRuns u k) 0x045 4 [(4, 1), (4, k), (4, cause)]
      | none => s)) ∧
  (∀ (s : State), s.oz.good = true → s.oz.down = none → s.oz.restart = none →
    (ozRunning s = false → rdF s Reg.GL_BOOT_STAGE 0 4 = 0 → 5 * msUnits ≤ s.time.elapsed →
      exec .pllLockTimeout s = .next (raise (bootStop (draw s).2) 0x04B [(4, 0), (4, (draw s).1 % 2 ^ 32)])) ∧
    (∀ r, s.oz.tripped = false → rdF s Reg.GL_BOOT_STAGE 0 4 < 5 →
      (ozRunning s = false → exec (.startupStage r) s = .next (bootRom s)) ∧
      (ozRunning s = true → rdF s Reg.GL_BOOT_STAGE 0 4 = 1 → exec (.startupStage r) s = .next (setStage s 2)) ∧
      (∀ d, ozRunning s = true → rdF s Reg.GL_BOOT_STAGE 0 4 = 2 → d < 3 → r.dens = List.replicate 16 d →
        (let u := wrN s Reg.GL_CAP (d + 4)
         exec (.startupStage r) s = .next (setStage { u with slices := aupd u.slices 0 (fun x => { x with limits := aset x.limits 7 (poolMib u) }) } 3))) ∧
      (ozRunning s = true → rdF s Reg.GL_BOOT_STAGE 0 4 = 3 → exec (.startupStage r) s = .next (bootTillers s r.failed)) ∧
      (ozRunning s = true → rdF s Reg.GL_BOOT_STAGE 0 4 = 4 → exec (.startupStage r) s = .next (bootStairs s r)))) ∧
  (∀ (s : State) (m : Nat) (ppm : Int), m < 8 → 10000 < ppm ∨ ppm < -10000 → exec (.clockMonitorExcursion m ppm) s = .next (raise s 0x04B [(4, m), (4, unsign 32 ppm)]))

/-- What reset leaves (R6, R669), with the invariant. -/
def Obligations.ResetMeetsInvariant : Prop :=
  Inv State.reset ∧ State.reset.pending = [] ∧ (∀ off, rd State.reset off = regReset off) ∧
  (∀ u < 8, unitState State.reset u = 1 ∧ unitRole State.reset u = u) ∧ unitState State.reset 8 = 2 ∧
  (∀ u < 32, unitState State.reset (16 + u) = 1 ∧ unitRole State.reset (16 + u) = u) ∧ unitState State.reset 48 = 2 ∧ unitState State.reset 49 = 2 ∧
  (∀ u < 8, unitState State.reset (64 + u) = 1 ∧ unitRole State.reset (64 + u) = u) ∧ unitState State.reset 72 = 2

/-- Every command completes with a next state and keeps its frame. -/
def Obligations.CommandsCompleteInFrame : Prop :=
  (∀ (c : Instr) (s : State), ∃ t, exec c s = .next t ∧ Keeps (touches c) s t) ∧ (∀ c : Instr, (touches c).contains .pending = false)

/-- The invariant of the block is kept by every step. -/
def Obligations.StepKeepsInvariant : Prop := ∀ s t : State, Inv s → step s = .next t → Inv t

/-- No step undoes a fuse (R655, R658). -/
def Obligations.FusesMoveForward : Prop :=
  ∀ s t : State, step s = .next t → s.oz.lc ≤ t.oz.lc ∧ s.oz.svn ≤ t.oz.svn ∧ (s.oz.ownerRevoked = true → t.oz.ownerRevoked = true)

/-- R79: "Only one window exists in the device": a write of GL_UNLOCK replaces it, or closes it. -/
def Obligations.UnlockWindowIsOne : Prop :=
  ∀ (s : State) (req : Requester) (v : W32), s.acc.own = none → Passes s req Reg.GL_UNLOCK false →
    (rfld v 0 16 = 0x5AE7 → exec (.glUnlockWrite req 15 v) s = .next { s with acc := { s.acc with window := some { owner := req, block := rfld v 16 6, opened := s.time.clocks } } }) ∧
    (rfld v 0 16 ≠ 0x5AE7 → ∃ t, exec (.glUnlockWrite req 15 v) s = .next t ∧ t.acc = { s.acc with window := none } ∧ rdF t Reg.GL_ERR_STATUS 2 1 = 1 ∧
      (∀ k, k ≠ 2 → k < 32 → rdF t Reg.GL_ERR_STATUS k 1 = rdF s Reg.GL_ERR_STATUS k 1) ∧
      rdN t Reg.GL_ERR_ADDR = (if rdN s Reg.GL_ERR_STATUS = 0 then Reg.GL_UNLOCK else rdN s Reg.GL_ERR_ADDR) ∧
      (∀ x, x ≠ Reg.GL_ERR_STATUS → x ≠ Reg.GL_ERR_ADDR → rd t x = rd s x) ∧ Keeps [.regs, .acc] s t)

/-- R550, for each of TH_PC (word 1), TH_SP (word 3) and TH_CAP (word 4). -/
def Obligations.ThreadContextGuard : Prop :=
  ∀ (s : State) (req : Requester) (t n k : Nat) (v : W32), t < 34 → n < 64 → k = 1 ∨ k = 3 ∨ k = 4 → Passes s req (thR Reg.TH_PC_LO t n + 4 * k) false →
    (let off := thR Reg.TH_PC_LO t n + 4 * k
     (k ≠ 4 → thState s t n = 0 ∨ thState s t n = 3 → exec (.threadContextWrite req 15 t n k v) s = .next (wr (loCommit s req (off - 4)) off v)) ∧
     (k = 4 → thState s t n = 0 ∨ thState s t n = 3 → req = .thread t 0 → n ≠ 0 →
       exec (.threadContextWrite req 15 t n k v) s = .next (wrF (wrN s off (rfld v 0 4)) (thR Reg.TH_STATUS t n) 4 1 (b2n (rfld v 0 4 ≠ 0)))) ∧
     (thState s t n = 1 ∨ thState s t n = 2 ∨ (k = 4 ∧ (req ≠ .thread t 0 ∨ n = 0)) →
       ∃ u, exec (.threadContextWrite req 15 t n k v) s = .next u ∧ rdF u Reg.GL_ERR_STATUS 1 1 = 1 ∧ Keeps [.regs, .ev] s u ∧
         (∀ x, x ≠ Reg.GL_ERR_STATUS → x ≠ Reg.GL_ERR_ADDR → x ≠ Reg.OZ_EV_LOST_CNT → rd u x = rd s x)))

/-- R582: the FENCE command, its window and the states that it acts on. -/
def Obligations.FenceActs : Prop :=
  ∀ (s : State) (req : Requester) (v : W32), mayReach s req Reg.MS_UNIT_CMD = true → stageOk s Reg.MS_UNIT_CMD = true → rfld v 8 3 = 1 → rbit v 25 = false → unitValid (rfld v 0 7) = true →
    (windowFor s req 3 = true → unitState s (rfld v 0 7) = 1 ∨ unitState s (rfld v 0 7) = 2 → ozRunning s = true →
      exec (.fence req 15 v) s = .next (declare' (plainWrite (closeWindow s) Reg.MS_UNIT_CMD 0x7F07F v) (rfld v 0 7) 3)) ∧
    (windowFor s req 3 = true → unitState s (rfld v 0 7) ≠ 1 → unitState s (rfld v 0 7) ≠ 2 →
      ∃ u, exec (.fence req 15 v) s = .next u ∧ rdF u Reg.MS_UNIT_CMD 25 1 = 1 ∧ rdF u Reg.MS_UNIT_CMD 26 3 = 1 ∧ u.acc.window = none ∧
        (∀ x, x ≠ Reg.MS_UNIT_CMD → rd u x = rd s x) ∧ Keeps [.regs, .acc] s u) ∧
    (windowFor s req 3 = false → ∃ u, exec (.fence req 15 v) s = .next u ∧ rdF u Reg.GL_ERR_STATUS 0 1 = 1 ∧ Keeps [.regs, .ev] s u ∧
      (∀ x, x ≠ Reg.GL_ERR_STATUS → x ≠ Reg.GL_ERR_ADDR → x ≠ Reg.OZ_EV_LOST_CNT → rd u x = rd s x))

/-- R671: "PERST_N of a host link that its face's mode leaves absent (R94) is ignored." -/
def Obligations.AbsentPerstIgnored : Prop :=
  ∀ (s : State) (link : Nat), linkPresent s link = false → exec (.perstAssert link) s = .next s ∧ exec (.perstDeassert link) s = .next s

/-- R610, R615: the event router takes a raised record or loses it; its sequence number is consumed either way. -/
def Obligations.RouterTakesOrLoses : Prop :=
  ∀ (s : State) (m : Nat) (ppm : Int), m < 8 → ppm > 10000 ∨ ppm < -10000 →
    ∃ t, exec (.clockMonitorExcursion m ppm) s = .next t ∧ agetD t.ev.seq 0x04B 0 = (agetD s.ev.seq 0x04B 0 + 1) % 2 ^ 20 ∧ (∀ src, src ≠ 0x04B → agetD t.ev.seq src 0 = agetD s.ev.seq src 0) ∧
      (s.ev.queue.length < 4096 → t.regs = s.regs ∧ ∃ r : EvRec, t.ev.queue = s.ev.queue ++ [r] ∧ r.source = 0x04B ∧ r.seq = agetD s.ev.seq 0x04B 0 ∧ r.time = nowNs s ∧
        r.route = rdN s (Reg.OZ_EV_ROUTE 0x04B) ∧ r.dest = rdN s (Reg.OZ_EV_DEST (fld (rdN s (Reg.OZ_EV_ROUTE 0x04B)) 1 4))) ∧
      (4096 ≤ s.ev.queue.length → t.ev.queue = s.ev.queue ∧ rdN t Reg.OZ_EV_LOST_CNT = (rdN s Reg.OZ_EV_LOST_CNT + 1) % 2 ^ 32 ∧ ∀ x, x ≠ Reg.OZ_EV_LOST_CNT → rd t x = rd s x) ∧
      Keeps [.regs, .ev] s t

/-- R80: every guarded command, as offset, the operand bits that make it that command, and the command. -/
def Obligations.GuardedNeedsWindow : Prop :=
  ∀ (s : State) (req : Requester) (v : W32) (env : Env) (u active off : Nat) (ok : Bool) (c : Instr),
    (off, true, c) ∈ [(Reg.GL_RESET_CTL, rbit v 0, Instr.warmReset req 15 v),
      (Reg.MS_UNIT_CMD, rfld v 8 3 == 1, .fence req 15 v), (Reg.MS_UNIT_CMD, rfld v 8 3 == 2, .readmit req 15 v), (Reg.MS_UNIT_CMD, rfld v 8 3 == 3, .handover req 15 v), (Reg.MS_UNIT_CMD, rfld v 8 3 == 4, .retire req 15 v),
      (gmReg Reg.GM_CMD u, decide (u < 16) && rbit v 1 && !rbit v 0, .gmLose req 15 u v), (gmReg Reg.GM_CMD u, decide (u < 16) && rbit v 0, .gmRetrain req 15 u v ok), (Reg.KS_ALARM, true, .ksAlarmWrite req 15 v active),
      (Reg.OZ_MB_CMD, rfld v 0 8 == 0x20, .ozKeyErase req 15 v), (Reg.OZ_MB_CMD, rfld v 0 8 == 0x21, .lcTransition req 15 v env), (Reg.OZ_MB_CMD, rfld v 0 8 == 0x22, .bcrWrite req 15 v env), (Reg.OZ_MB_CMD, rfld v 0 8 == 0x23, .ozRestart req 15 v)] →
    s.acc.own = none → mayReach s req off = true → stageOk s off = true → windowFor s req (blockOf off) = false →
    ∃ t, exec c s = .next t ∧ rdF t Reg.GL_ERR_STATUS 0 1 = 1 ∧ (∀ k, k ≠ 0 → k < 32 → rdF t Reg.GL_ERR_STATUS k 1 = rdF s Reg.GL_ERR_STATUS k 1) ∧
      rdN t Reg.GL_ERR_ADDR = (if rdN s Reg.GL_ERR_STATUS = 0 then off % 0x4000000 else rdN s Reg.GL_ERR_ADDR) ∧
      (s.ev.queue.length < 4096 → ∃ r : EvRec, t.ev.queue = s.ev.queue ++ [r] ∧ r.source = 0x010 ∧ r.data = evData [(4, off), (4, reqCode req)]) ∧
      (∀ x, x ≠ Reg.GL_ERR_STATUS → x ≠ Reg.GL_ERR_ADDR → x ≠ Reg.OZ_EV_LOST_CNT → rd t x = rd s x) ∧ Keeps [.regs, .ev] s t

/-- The frame of DBG_WR_MEM (R574), through the read of one byte. -/
def Obligations.DebugWriteBytes : Prop :=
  ∀ (s : State) (req : Requester) (t n : Nat) (v : W32) (pa : Nat), DbgReady s req t n 7 v → Memory.wf s.mem = true →
    let u := plainWrite s (tilR Reg.TIL_DBG_CMD t) 0x3F0 v
    ∃ w, exec (.dbgWrMem req 15 t v (some pa)) s = .next w ∧ Memory.wf w.mem = true ∧ Keeps [.regs, .mem] s w ∧
      (∀ x, x ≠ tilR Reg.TIL_DBG_CMD t → x ≠ tilR Reg.TIL_DBG_STATUS t → rd w x = rd s x) ∧
      (∀ a, thState u t n = 0 → thAddr (fwBytes u) t pa 8 = some a →
        (∀ k, k < 8 → memByte w.mem (a + k) = BitVec.ofNat 8 (rd64 u (tilR Reg.TIL_DBG_DATA_LO t) / 256 ^ k)) ∧
        (∀ x, x < a ∨ a + 8 ≤ x → memByte w.mem x = memByte s.mem x)) ∧
      (thState u t n ≠ 0 ∨ thAddr (fwBytes u) t pa 8 = none → w.mem = s.mem)

/-- COMMIT and its effect complete (R318, R319, R322). -/
def Obligations.CommitCompletes : Prop :=
  (∀ (s : State) (req : Requester) (v : W32), Passes s req Reg.LD_SHEAF_CMD false → rbit v 0 = true → rbit v 3 = false → rbit v 12 = false → rbit v 13 = false →
    s.sheaf.pending = false → (∀ o ∈ s.sheaf.sweeps, sub16 (sheafStaged s + 1) o < 1024) →
    (let w := plainWrite s Reg.LD_SHEAF_CMD 2 v
     let t := rd64 s Reg.LD_SHEAF_AT_LO
     let asked (timed : Bool) : State :=
       wrF (wrF { w with sheaf := { s.sheaf with pending := true, timed := timed, late := timed && (t == 0 || decide (t < nowNs s)) },
                         stairs := amap s.stairs (fun _ x => { x with cmd := x.cmd.map (fun c => { c with early := true }) }) } Reg.LD_SHEAF_CMD 2 1 1) Reg.LD_SHEAF_CMD 4 8 0
     (rbit v 1 = false → rdF s Reg.LD_SHEAF_DRAIN 16 1 = 0 → exec (.sheafCommit req 15 v) s = .next (asked false)) ∧
     (rbit v 1 = true → exec (.sheafCommitAt req 15 v) s = .next (asked true)))) ∧
  (∀ s : State, commitReady s = true → commitLate s = false → exec .sheafCommitEffect s = .next (commitNow s false)) ∧
  (∀ s : State, commitReady s = true → commitLate s = true → exec .sheafCommitEffect s = .next (commitNow (lateFiring s) true))

/-- CANCEL and UNSTAGE complete (R319, R323). -/
def Obligations.CancelAndUnstageComplete : Prop :=
  ∀ (s : State) (req : Requester) (v : W32), Passes s req Reg.LD_SHEAF_CMD false → rbit v 3 = false → rbit v 0 = false →
    (rbit v 12 = true → rbit v 13 = false → s.sheaf.pending = true → s.sheaf.timed = true →
      exec (.sheafCancel req 15 v) s = .next (wrF (sheafUpd (plainWrite s Reg.LD_SHEAF_CMD 2 v) (fun x => { x with pending := false, timed := false, late := false })) Reg.LD_SHEAF_CMD 2 1 0)) ∧
    (rbit v 12 = false → rbit v 13 = true → s.sheaf.pending = false →
      ∃ t, exec (.sheafUnstage req 15 v) s = .next t ∧ (∀ x, x ≠ Reg.LD_SHEAF_CMD → rd t x = rd s x) ∧ Keeps [.regs, .stairs, .lpm] s t ∧
        (∀ p x, (p, x) ∈ t.stairs → ∀ k m, (k, m) ∈ x.tbls → ∀ i e, (i, e) ∈ m →
          (e.always = true ∨ e.born ≠ sheafStaged s) ∧ ¬ (e.retSet = true ∧ e.retired = sheafStaged s)) ∧
        (∀ i k e, (i, k, e) ∈ t.lpm → (e.always = true ∨ e.born ≠ sheafStaged s) ∧ ¬ (e.retSet = true ∧ e.retired = sheafStaged s)))

/-- The ends of a drain complete (R280, R324, R325). -/
def Obligations.DrainsComplete : Prop :=
  (∀ (s : State) (old : Nat), draining s = some old → oldCount s = 0 → ∃ t, exec .sheafDrain s = .next t ∧ rdF t Reg.LD_SHEAF_DRAIN 16 1 = 0 ∧
    t.sheaf.sweeps = s.sheaf.sweeps ++ [old] ∧ Keeps [.regs, .ev, .sheaf] s t) ∧
  (∀ s : State, (draining s).isSome = true → rdN s Reg.LD_SHEAF_LIMIT ≠ 0 → s.sheaf.limited = false → s.sheaf.since + rdN s Reg.LD_SHEAF_LIMIT * 1000 ≤ elNs s →
    (∃ t, exec .sheafDrainLimit s = .next t ∧ Keeps [.regs, .ev, .ch, .sheaf, .land, .rm] s t) ∧
    (s.land.hall = [] → s.land.entry = [] → exec .sheafDrainLimit s = .next { s with sheaf := { s.sheaf with limited := true } })) ∧
  (∀ s : State, s.sheaf.sweeps ≠ [] → rdF s Reg.LD_SHEAF_DRAIN 16 1 = 0 →
    (let u : State := { s with
        stairs := amap s.stairs (fun _ x => { x with tbls := amap x.tbls (fun t m => if t ≥ 62 then m else sweepMap (sheafCur s) m), shadow := amap x.shadow (fun _ m => sweepMap (sheafCur s) m) }),
        lpm := s.lpm.filterMap (fun e => (sweepEntry (sheafCur s) e.2.2).map (fun y => (e.1, (e.2.1, y)))), sheaf := { s.sheaf with sweeps := [] } }
     exec .sheafSweep s = .next (wrN u Reg.LD_SHEAF_SWEEP 0)))

/-- A rehearsal starts and stops (R343, R348). -/
def Obligations.RehearsalsComplete : Prop :=
  ∀ (s : State) (req : Requester) (v : W32), Passes s req Reg.LD_RH_CTL false →
    (rbit v 0 = true → rhRunning s = false → ∀ q, (let u := plainWrite s Reg.LD_RH_CTL 0xFFFF00FE v
      let h := rdN u Reg.LD_RH_RING
      spareStair u = some q → (List.range 16).any (fun r => tmBound u r && tmHandle u r == h && tmUse u r == 3) = true → (chanOf u h).any (fun c => c.2.slice == 0) = true →
      ∃ t, exec (.rehearsalStart req 15 v) s = .next t ∧ rdF t Reg.LD_RH_STATUS 0 1 = 1 ∧ t.sheaf = { s.sheaf with live := [], rhCount := [] } ∧ Keeps [.regs, .ev, .stairs, .sheaf] s t)) ∧
    (rbit v 0 = false → rhRunning s = true → exec (.rehearsalStop req 15 v) s = .next (rhEnd s 1))

/-- Commands on arrays complete (R337). -/
def Obligations.ArrayCommandsComplete : Prop :=
  ∀ (s : State) (req : Requester) (st fl op : Nat) (v : W32) (i : Instr), st < 9 → fl < 2 → Passes s req (Reg.STA_ARR_CMD st fl) false → rbit v 17 = false →
    rdF s (Reg.STA_ARR_CMD st fl) 16 1 = 0 → rfld v 4 4 = op →
    (let u := plainWrite s (Reg.STA_ARR_CMD st fl) 0x10F v
     let a := rfld v 0 4
     let k := rdF u (Reg.STA_ARR_INDEX st fl) 0 23
     let q := cmdTarget u st
     ((op, i) ∈ [(1, Instr.arrayRead req 15 st fl v), (4, .arrayReadSnap req 15 st fl v)] → arrFail u q fl op a k = none →
       exec i s = .next (wrF (wrF (putArrData u st fl (agetD (flightGet u q fl).elems
         (elemKey a (if op = 1 then liveBank (flightGet u q fl) a else 1 - liveBank (flightGet u q fl) a) k) 0)) (Reg.STA_ARR_STATUS st fl) 0 8 0) (Reg.STA_ARR_STATUS st fl) 16 9 0)) ∧
     ((op, i) ∈ [(2, Instr.arrayWrite req 15 st fl v), (3, .arrayReadClear req 15 st fl v), (5, .arrayClear req 15 st fl v)] → rbit v 8 = false →
       arrFail (wrF u (Reg.STA_ARR_CMD st fl) 16 1 1) q fl op a k = none →
       (let w := wrF u (Reg.STA_ARR_CMD st fl) 16 1 1
        exec i s = .next (cmdEnd (markerSend w q fl { what := op, array := a, idx := k, opnd := fld (arrData w st fl) 0 (if arrKind w q fl a = 3 then 64 else 128), src := st, bcast := false }) st fl false))))

/-- Configurations of arrays, and commands on meters, complete (R352, R415, R416). -/
def Obligations.MeterCommandsComplete : Prop :=
  ∀ (s : State) (req : Requester) (p fl a : Nat) (v : W32), p < 9 → fl < 2 → a < 16 →
    (Passes s req (Reg.STA_ARR_CFG p fl a) false → arrRefused s p fl a v = none → rfld v 0 2 ≠ 0 →
      exec (.arrCfgWrite req 15 p fl a v) s = .next (plainWrite s (Reg.STA_ARR_CFG p fl a) 0xFFFF07 v)) ∧
    (Passes s req (Reg.STA_MTR_CMD p fl) false → rdF s (Reg.STA_MTR_CMD p fl) 16 1 = 0 → rbit v 17 = false → rbit v 13 = true → rbit v 12 = false → a = rfld v 0 4 →
      (let w := wrF (plainWrite s (Reg.STA_MTR_CMD p fl) 0x1FFF v) (Reg.STA_MTR_CMD p fl) 16 1 1
       let first := rdF (plainWrite s (Reg.STA_MTR_CMD p fl) 0x1FFF v) (Reg.STA_MTR_FIRST p fl) 0 23
       let n := rdF (plainWrite s (Reg.STA_MTR_CMD p fl) 0x1FFF v) (Reg.STA_MTR_COUNT p fl) 0 24
       n ≠ 0 → arrKind w (cmdTarget w p) fl a = 2 → first + n ≤ arrCount w (cmdTarget w p) fl a →
       exec (.meterAssign req 15 p fl v) s = .next (cmdEnd (markerSend w (cmdTarget w p) fl { what := 6, array := a, idx := first, opnd := rfld v 4 8, src := p, bcast := false, n := n }) p fl true))) ∧
    (∀ role, stairOf s role = some p → arrKind s p fl a = 2 → arrCount s p fl a ≠ 0 →
      exec (.meterRefreshPass role fl a) s = .next (markerSend s p fl { what := 7, array := a, idx := 0, opnd := 0, src := p, bcast := false, n := arrCount s p fl a }))

/-- Loads of the microstores complete (R372, R373). -/
def Obligations.MicroLoadsComplete : Prop :=
  ∀ (s : State) (req : Requester) (p fl k addr w : Nat) (v : W32) (i : Instr), stepOk p fl k = true → (loadStairs s).any (fun q => ucHeld s q fl) = false → ucHeld s p fl = false →
    rdF s (Reg.stepPage p fl k + 8) 13 1 = 1 → rdF s (Reg.stepPage p fl k + 8) 11 1 = 0 → s.unit.goldenBad = false → guardedGone s 3 0 0 = false →
    (Passes s req (Reg.stepPage p fl k + 0xC) false ∧ addr = ucAddr s p fl k ∧ w = v.toNat ∧ i = .ucDataWrite req 15 p fl k v) ∨
    (Passes s req (Reg.stepPage p fl k + 0x10) false ∧ rbit v 0 = true ∧ rbit v 1 = false ∧ addr = 2048 + ucAddr s p fl k % 512 ∧ w = nanoOf s p fl k ∧ nanoRefused fl k w = none ∧ i = .writeNw req 15 p fl k v) ∨
    (Passes s req (Reg.stepPage p fl k) false ∧ addr = 2560 ∧ w = rfld v 0 11 ∧ rfld v 1 2 ≠ 3 ∧ i = .stepCtlWrite req 15 p fl k v) →
    exec i s = .next ((loadStairs s).foldl (fun s q => stairUpd s q (fun x => { x with uc := aset x.uc (ucKey fl k (1 - ucActive s q fl) addr) w }))
      { s with golden := { s.golden with uc := aset s.golden.uc (ucKey fl k (1 - ucActive s (((loadStairs s)[0]?).getD p) fl) addr) w } })

/-- Reads of the microstores, the time-out of a load and the scrub complete (R372, R374, R382). -/
def Obligations.MicroReadsComplete : Prop :=
  (∀ (s : State) (req : Requester) (p fl k : Nat) (v : W32), stepOk p fl k = true →
    (let bank := rdF s (Reg.stepPage p fl k + 8) 12 1
     (rdF s (Reg.stepPage p fl k + 8) 11 1 = 0 →
       exec (.ucDataRead req p fl k) s = .next (emit s (.regRead req (Reg.stepPage p fl k + 0xC) (BitVec.ofNat 32 (ucGet (stairGet s p) fl k bank (ucAddr s p fl k))))) ∧
       (Passes s req (Reg.stepPage p fl k + 0x10) false → rbit v 0 = false → rbit v 1 = true →
         ∃ t, exec (.readNw req 15 p fl k v) s = .next t ∧ Keeps [.regs, .stairs, .golden] s t ∧
           ∀ w < 12, rdN t (Reg.stepPage p fl k + 0x20 + 4 * w) = fld (ucGet (stairGet s p) fl k bank (2048 + ucAddr s p fl k % 512)) (32 * w) 32)) ∧
     (∃ t, exec (.loadBusyTimeout p fl k) s = .next t ∧ rdF t (Reg.stepPage p fl k + 0x14) 1 1 = 1 ∧ rdF t (Reg.stepPage p fl k + 0x14) 2 3 = 6 ∧ Keeps [.regs] s t))) ∧
  (∀ (s : State) (p fl k store bank addr : Nat), p < 9 → bank < 2 → unitState s p = 1 ∨ unitState s p = 2 ∨ unitState s p = 4 →
    store < 2 → stepOk p fl k = true → addr < (if store = 0 then 2048 else 512) →
    ∃ t, exec (.ucScrub p fl k store bank addr) s = .next t ∧ ucGet (stairGet t p) fl k bank (addr + 2048 * store) = agetD s.golden.uc (ucKey fl k bank (addr + 2048 * store)) 0 ∧
      rdN t (Reg.STA_UC_PAR_CNT p fl) = (rdN s (Reg.STA_UC_PAR_CNT p fl) + 1) % 2 ^ 32 ∧ Keeps [.regs, .ev, .stairs] s t)

/-- Waits and copies of the overflow region complete (R391, R404, R406). -/
def Obligations.OverflowCommandsComplete : Prop :=
  (∀ (s : State) (ch idx : Nat) (c : Chan) (e : Ent), entOf s ch idx = some (c, e) → e.hold = true → exec (.hostGrainWaitEnd ch idx) s = .next (txEnter s ch idx)) ∧
  (∀ (s : State) (q id : Nat) (x : QPkt), (nodeGet s 0 q).pkts.find? (fun x => x.pkt.id == id && x.copying) = some x →
    ∃ t, exec (.overflowCopyDone q id) s = .next t ∧ rdN t Reg.LD_OVF_BACKLOG = (rdN s Reg.LD_OVF_BACKLOG - x.units) % 2 ^ 32 ∧
      rdN t Reg.LD_UNADMITTED = (rdN s Reg.LD_UNADMITTED - x.pkt.grains) % 2 ^ 32 ∧
      (nodeGet t 0 q).pkts.find? (fun x => x.pkt.id == id && x.copying) = none ∧ Keeps [.regs, .ev, .land] s t) ∧
  (∀ (s : State) (req : Requester) (v : W32), Passes s req Reg.LD_OVF_SIZE false → rdN s Reg.LD_OVF_USED = 0 →
    exec (.ovfSizeWrite req 15 v) s = .next (plainWrite s Reg.LD_OVF_SIZE 0xFFFF v))

/-- Commands on scheduling nodes complete (R421, R426, R427). -/
def Obligations.NodeCommandsComplete : Prop :=
  (∀ (s : State) (req : Requester) (v : W32), Passes s req Reg.SC_NODE_SEL false → (let u := plainWrite s Reg.SC_NODE_SEL 0xFFFFF v
    selValid u = true → ∃ t, exec (.nodeSelWrite req 15 v) s = .next t ∧
      (∀ w < 10, rdN t (Reg.SC_NODE_CFG w) = (((nodeGet s (selType u) (selIndex u)).cfg[w]?).getD 0) % 2 ^ 32) ∧ Keeps [.regs, .draws] s t)) ∧
  (∀ (s : State) (req : Requester) (v : W32), Passes s req Reg.SC_NODE_CMD false → rbit v 9 = false →
    (rbit v 0 = true → rbit v 1 = false → rbit v 2 = false → applyCause s = 0 → selType s = 2 ∨ selType s = 3 →
      ∃ t, exec (.apply req 15 v) s = .next t ∧ nodeGet t (selType s) (selIndex s) = nodeApply s (nodeGet s (selType s) (selIndex s)) ∧ Keeps [.land] s t) ∧
    (rbit v 0 = true → rbit v 1 = false → rbit v 2 = false → exec (.apply req 15 v) s = .next (nodeApplyCmd s)) ∧
    (rbit v 0 = false → rbit v 1 = true → rbit v 2 = false → selType s = 0 →
      exec (.flush req 15 v) s = .next (nodeTally (queueFlush s (selIndex s)).1 (selIndex s) (fun n => { n with flushed := n.flushed + (nodeGet s 0 (selIndex s)).pkts.length }))) ∧
    (rbit v 0 = false → rbit v 1 = false → rbit v 2 = true → selValid s = true → exec (.clrCnt req 15 v) s = .next (nodeUpd s (selType s) (selIndex s) nodeClear)))

end
end

