-- ==== Sys2Proof/Laws/State.lean ====
section
/-! SUPPORT. Laws/State.lean: what the named updates of the state do to each of its fields, and the laws of maps, of registers
and of memory. -/

namespace Sys2Proof.Machine

/-! Maps. -/

@[simp] theorem aget_nil {α : Type} (k : Nat) : aget ([] : AMap α) k = none := rfl

theorem aget_aset {α : Type} (m : AMap α) (k j : Nat) (a : α) : aget (aset m k a) j = if j = k then some a else aget m j := by
  induction m with
  | nil => simp only [aset, aget]
  | cons e m ih =>
    obtain ⟨x, v⟩ := e
    simp only [aset]
    split
    · simp only [aget]
    · split
      · rename_i h; subst h; simp only [aget]; split <;> rfl
      · simp only [aget, ih]
        split
        · rename_i h1 h2 h3; subst h3; rw [if_neg]; exact fun h => h2 h.symm
        · rfl

@[simp] theorem aget_aset_same {α : Type} (m : AMap α) (k : Nat) (a : α) : aget (aset m k a) k = some a := by
  rw [aget_aset, if_pos rfl]

theorem aget_aset_ne {α : Type} (m : AMap α) {k j : Nat} (a : α) (h : j ≠ k) : aget (aset m k a) j = aget m j := by
  rw [aget_aset, if_neg h]

theorem aget_adel {α : Type} (m : AMap α) (k j : Nat) : aget (adel m k) j = if j = k then none else aget m j := by
  induction m with
  | nil => simp only [adel, aget]; split <;> rfl
  | cons e m ih =>
    obtain ⟨x, v⟩ := e
    simp only [adel]
    split
    · rename_i h; subst h; rw [ih]; simp only [aget]; split <;> rfl
    · simp only [aget, ih]
      split
      · rename_i h1 h2; subst h2; rw [if_neg]; exact fun h => h1 h.symm
      · rfl

@[simp] theorem aget_adel_same {α : Type} (m : AMap α) (k : Nat) : aget (adel m k) k = none := by
  rw [aget_adel, if_pos rfl]

theorem aget_adel_ne {α : Type} (m : AMap α) {k j : Nat} (h : j ≠ k) : aget (adel m k) j = aget m j := by
  rw [aget_adel, if_neg h]

theorem aget_aupd {α : Type} (m : AMap α) (k j : Nat) (f : α → α) :
    aget (aupd m k f) j = if j = k then (aget m k).map f else aget m j := by
  unfold aupd
  split
  · rename_i a h; rw [aget_aset, h]; rfl
  · rename_i h
    split
    · rename_i e; subst e; rw [h]; rfl
    · rfl

@[simp] theorem aget_aupd_same {α : Type} (m : AMap α) (k : Nat) (f : α → α) : aget (aupd m k f) k = (aget m k).map f := by
  rw [aget_aupd, if_pos rfl]

theorem aget_aupd_ne {α : Type} (m : AMap α) {k j : Nat} (f : α → α) (h : j ≠ k) : aget (aupd m k f) j = aget m j := by
  rw [aget_aupd, if_neg h]

@[simp] theorem agetD_aset_same {α : Type} (m : AMap α) (k : Nat) (a d : α) : agetD (aset m k a) k d = a := by
  simp only [agetD, aget_aset_same, Option.getD_some]

theorem agetD_aset_ne {α : Type} (m : AMap α) {k j : Nat} (a d : α) (h : j ≠ k) : agetD (aset m k a) j d = agetD m j d := by
  simp only [agetD, aget_aset_ne m a h]

/-! Registers. -/

theorem rd_wr (s : State) (o p : Nat) (v : W32) : rd (wr s o v) p = if p = o then v else rd s p := by
  simp only [rd, wr, aget_aset]
  by_cases h : p = o
  · simp only [if_pos h]
  · simp only [if_neg h]

@[simp] theorem rd_wr_same (s : State) (o : Nat) (v : W32) : rd (wr s o v) o = v := by rw [rd_wr, if_pos rfl]

theorem rd_wr_ne (s : State) {o p : Nat} (v : W32) (h : p ≠ o) : rd (wr s o v) p = rd s p := by rw [rd_wr, if_neg h]

@[simp] theorem rd_wrF_same (s : State) (o lo w v : Nat) : rd (wrF s o lo w v) o = rput (rd s o) lo w v := rd_wr_same _ _ _

theorem rd_wrF_ne (s : State) {o p : Nat} (lo w v : Nat) (h : p ≠ o) : rd (wrF s o lo w v) p = rd s p := rd_wr_ne _ _ h

@[simp] theorem rd_wrN_same (s : State) (o v : Nat) : rd (wrN s o v) o = BitVec.ofNat 32 v := rd_wr_same _ _ _

theorem rd_wrN_ne (s : State) {o p : Nat} (v : Nat) (h : p ≠ o) : rd (wrN s o v) p = rd s p := rd_wr_ne _ _ h

@[simp] theorem rdN_wrN_same (s : State) (o v : Nat) : rdN (wrN s o v) o = v % 2 ^ 32 := by
  simp only [rdN, rd_wrN_same, BitVec.toNat_ofNat]

theorem rdN_wrN_ne (s : State) {o p : Nat} (v : Nat) (h : p ≠ o) : rdN (wrN s o v) p = rdN s p := by
  simp only [rdN, rd_wrN_ne s v h]

theorem rdF_wrN_ne (s : State) {o p : Nat} (v lo w : Nat) (h : p ≠ o) : rdF (wrN s o v) p lo w = rdF s p lo w := by
  simp only [rdF, rdN_wrN_ne s v h]

theorem rdN_wrF_ne (s : State) {o p : Nat} (lo w v : Nat) (h : p ≠ o) : rdN (wrF s o lo w v) p = rdN s p := by
  simp only [rdN, rd_wrF_ne s lo w v h]

theorem rdF_wrF_ne (s : State) {o p : Nat} (lo w v lo' w' : Nat) (h : p ≠ o) : rdF (wrF s o lo w v) p lo' w' = rdF s p lo' w' := by
  simp only [rdF, rdN_wrF_ne s lo w v h]

/-- A bit of a word whose field is replaced. -/
theorem putFld_testBit (x lo w v k : Nat) :
    (putFld x lo w v).testBit k = if lo ≤ k ∧ k < lo + w then v.testBit (k - lo) else x.testBit k := by
  have hx : x = (x / 2 ^ (lo + w)) * 2 ^ (lo + w) + (fld x lo w * 2 ^ lo + x % 2 ^ lo) := by
    have h1 := Nat.div_add_mod x (2 ^ lo)
    have h2 := Nat.div_add_mod (x / 2 ^ lo) (2 ^ w)
    rw [Nat.div_div_eq_div_mul, ← Nat.pow_add] at h2
    have h3 : fld x lo w = x / 2 ^ lo % 2 ^ w := by simp only [fld, Nat.shiftRight_eq_div_pow]
    rw [h3]
    calc x = 2 ^ lo * (x / 2 ^ lo) + x % 2 ^ lo := h1.symm
      _ = 2 ^ lo * (2 ^ w * (x / 2 ^ (lo + w)) + x / 2 ^ lo % 2 ^ w) + x % 2 ^ lo := by rw [h2]
      _ = _ := by rw [Nat.mul_add, ← Nat.mul_assoc, ← Nat.pow_add, Nat.mul_comm _ (x / 2 ^ (lo + w)), Nat.mul_comm (2 ^ lo) (x / 2 ^ lo % 2 ^ w), Nat.add_assoc]
  have hp : putFld x lo w v = 2 ^ (lo + w) * (x / 2 ^ (lo + w)) + (2 ^ lo * (v % 2 ^ w) + x % 2 ^ lo) := by
    unfold putFld
    conv => lhs; lhs; lhs; rw [hx]
    rw [Nat.mul_comm (2 ^ (lo + w)), Nat.mul_comm (2 ^ lo) (v % 2 ^ w)]
    omega
  have hl : x % 2 ^ lo < 2 ^ lo := Nat.mod_lt _ (Nat.two_pow_pos lo)
  have hv : v % 2 ^ w < 2 ^ w := Nat.mod_lt _ (Nat.two_pow_pos w)
  have hb : 2 ^ lo * (v % 2 ^ w) + x % 2 ^ lo < 2 ^ (lo + w) := by
    rw [Nat.pow_add]
    calc 2 ^ lo * (v % 2 ^ w) + x % 2 ^ lo < 2 ^ lo * (v % 2 ^ w) + 2 ^ lo := Nat.add_lt_add_left hl _
      _ = 2 ^ lo * (v % 2 ^ w + 1) := by rw [Nat.mul_add, Nat.mul_one]
      _ ≤ 2 ^ lo * 2 ^ w := Nat.mul_le_mul_left _ hv
  rw [hp, Nat.testBit_two_pow_mul_add _ hb]
  split
  · rw [Nat.testBit_two_pow_mul_add _ hl]
    split
    · rename_i h; rw [if_neg (by omega), Nat.testBit_mod_two_pow]; simp [h]
    · rename_i h1 h2
      rw [if_pos (by omega), Nat.testBit_mod_two_pow]
      simp only [show k - lo < w by omega, decide_true, Bool.true_and]
  · rename_i h
    rw [if_neg (by omega), Nat.testBit_div_two_pow]
    congr 1; omega

/-- A bit of a field. -/
theorem fld_testBit (x lo w k : Nat) : (fld x lo w).testBit k = (decide (k < w) && x.testBit (lo + k)) := by
  simp only [fld, Nat.testBit_mod_two_pow, Nat.testBit_shiftRight]

theorem rput_testBit (r : W32) (lo w v k : Nat) :
    (rput r lo w v).toNat.testBit k = (decide (k < 32) && if lo ≤ k ∧ k < lo + w then v.testBit (k - lo) else r.toNat.testBit k) := by
  simp only [rput, BitVec.toNat_ofNat, Nat.testBit_mod_two_pow, putFld_testBit]

/-- A field that was written holds its value. -/
theorem rdF_wrF_same (s : State) (o lo w v : Nat) (h : lo + w ≤ 32) : rdF (wrF s o lo w v) o lo w = v % 2 ^ w := by
  apply Nat.eq_of_testBit_eq
  intro k
  simp only [rdF, rdN, rd_wrF_same, fld_testBit, rput_testBit, Nat.testBit_mod_two_pow]
  by_cases hk : k < w
  · rw [if_pos (by omega)]
    simp only [hk, decide_true, Bool.true_and, show lo + k < 32 by omega, Nat.add_sub_cancel_left]
  · simp only [hk, decide_false, Bool.false_and]

/-- Another field of a register that was written. -/
theorem rdF_wrF_other (s : State) (o lo w v lo' w' : Nat) (h : lo' + w' ≤ 32) (hd : lo' + w' ≤ lo ∨ lo + w ≤ lo') :
    rdF (wrF s o lo w v) o lo' w' = rdF s o lo' w' := by
  apply Nat.eq_of_testBit_eq
  intro k
  simp only [rdF, rdN, rd_wrF_same, fld_testBit, rput_testBit]
  by_cases hk : k < w'
  · rw [if_neg (by omega)]
    simp only [hk, decide_true, Bool.true_and, show lo' + k < 32 by omega]
  · simp only [hk, decide_false, Bool.false_and]

/-! Memory. -/

theorem memByte_below {m : List Host.Cell} {a : Nat} (h : ∀ e ∈ m, a < e.1) : memByte m a = 0 := by
  cases m with
  | nil => rfl
  | cons e m =>
    obtain ⟨k, v⟩ := e
    have hk : a < k := h (k, v) (List.mem_cons_self ..)
    simp only [memByte]
    rw [if_neg (by omega), if_pos hk]

theorem Memory.wf_cons {k : Nat} {b : Byte} {m : List Host.Cell} :
    Memory.wf ((k, b) :: m) = true ↔ b ≠ 0 ∧ (∀ e ∈ m, k < e.1) ∧ Memory.wf m = true := by
  induction m generalizing k b with
  | nil => simp [Memory.wf]
  | cons e m ih =>
    obtain ⟨k', b'⟩ := e
    have hs : Memory.wf ((k, b) :: (k', b') :: m) = (b != 0 && decide (k < k') && Memory.wf ((k', b') :: m)) := rfl
    rw [hs]
    simp only [Bool.and_eq_true, bne_iff_ne, ne_eq, decide_eq_true_eq, List.mem_cons, forall_eq_or_imp]
    constructor
    · rintro ⟨⟨h1, h2⟩, h3⟩
      refine ⟨h1, ⟨h2, fun e he => ?_⟩, h3⟩
      exact Nat.lt_trans h2 ((ih.mp h3).2.1 e he)
    · rintro ⟨h1, ⟨h2, _⟩, h3⟩
      exact ⟨⟨h1, h2⟩, h3⟩

theorem memPut_keys {m : List Host.Cell} {a : Nat} {b : Byte} : ∀ e ∈ memPut m a b, e.1 = a ∨ e ∈ m := by
  induction m with
  | nil => intro e he; simp only [memPut] at he; split at he <;> simp_all
  | cons x m ih =>
    obtain ⟨k, v⟩ := x
    intro e he
    simp only [memPut] at he
    split at he
    · split at he
      · exact .inr he
      · rcases List.mem_cons.mp he with h | h
        · exact .inl (h ▸ rfl)
        · exact .inr h
    · split at he
      · split at he
        · exact .inr (List.mem_cons_of_mem _ he)
        · rcases List.mem_cons.mp he with h | h
          · exact .inl (h ▸ rfl)
          · exact .inr (List.mem_cons_of_mem _ h)
      · rcases List.mem_cons.mp he with h | h
        · exact .inr (h ▸ List.mem_cons_self ..)
        · rcases ih e h with h | h
          · exact .inl h
          · exact .inr (List.mem_cons_of_mem _ h)

/-- A store keeps the canonical form. -/
theorem memPut_wf {m : List Host.Cell} {a : Nat} {b : Byte} (h : Memory.wf m = true) : Memory.wf (memPut m a b) = true := by
  induction m with
  | nil => simp only [memPut]; split <;> simp_all [Memory.wf]
  | cons x m ih =>
    obtain ⟨k, v⟩ := x
    obtain ⟨hv, hk, hm⟩ := Memory.wf_cons.mp h
    simp only [memPut]
    split
    · rename_i ha
      split
      · exact h
      · rename_i hb
        refine Memory.wf_cons.mpr ⟨hb, fun e he => ?_, h⟩
        rcases List.mem_cons.mp he with q | q
        · rw [q]; exact ha
        · exact Nat.lt_trans ha (hk e q)
    · split
      · rename_i ha
        split
        · exact hm
        · rename_i hb
          exact Memory.wf_cons.mpr ⟨hb, fun e he => ha ▸ hk e he, hm⟩
      · refine Memory.wf_cons.mpr ⟨hv, fun e he => ?_, ih hm⟩
        rcases memPut_keys e he with q | q
        · rw [q]; omega
        · exact hk e q

theorem memPuts_wf {m : List Host.Cell} {a : Nat} {bs : List Byte} (h : Memory.wf m = true) : Memory.wf (memPuts m a bs) = true := by
  induction bs generalizing m a with
  | nil => exact h
  | cons b bs ih => exact ih (memPut_wf h)

theorem filter_wf {m : List Host.Cell} (p : Host.Cell → Bool) (h : Memory.wf m = true) : Memory.wf (m.filter p) = true := by
  induction m with
  | nil => rfl
  | cons x m ih =>
    obtain ⟨k, v⟩ := x
    obtain ⟨hv, hk, hm⟩ := Memory.wf_cons.mp h
    simp only [List.filter_cons]
    split
    · exact Memory.wf_cons.mpr ⟨hv, fun e he => hk e (List.mem_filter.mp he).1, ih hm⟩
    · exact ih hm

theorem memClear_wf {m : List Host.Cell} {lo hi : Nat} (h : Memory.wf m = true) : Memory.wf (memClear m lo hi) = true := filter_wf _ h

/-- A read after a store of one byte. -/
theorem memByte_memPut {m : List Host.Cell} (a x : Nat) (b : Byte) (h : Memory.wf m = true) :
    memByte (memPut m a b) x = if x = a then b else memByte m x := by
  induction m with
  | nil =>
    simp only [memPut, memByte]
    split
    · rename_i hb; simp only [memByte]; split
      · exact hb.symm
      · rfl
    · simp only [memByte]; split
      · rfl
      · split <;> rfl
  | cons y m ih =>
    obtain ⟨k, v⟩ := y
    obtain ⟨hv, hk, hm⟩ := Memory.wf_cons.mp h
    simp only [memPut]
    split
    · rename_i ha
      split
      · rename_i hb
        split
        · rename_i e; subst e; simp only [memByte]; rw [if_neg (by omega), if_pos ha, hb]
        · rfl
      · simp only [memByte]
        split
        · rfl
        · split
          · rw [if_neg (by omega), if_pos (by omega)]
          · rfl
    · split
      · rename_i h1 ha; subst ha
        split
        · rename_i hb
          split
          · rename_i e; subst e; rw [memByte_below hk, hb]
          · rename_i e
            simp only [memByte]
            rw [if_neg e]
            split
            · rename_i hx
              exact memByte_below fun e he => Nat.lt_trans hx (hk e he)
            · rfl
        · simp only [memByte]; split
          · rfl
          · rfl
      · rename_i h1 h2
        simp only [memByte, ih hm]
        split
        · rename_i e; rw [if_neg (by omega)]
        · split
          · rw [if_neg (by omega)]
          · rfl

theorem memByte_memPuts {m : List Host.Cell} (a x : Nat) (bs : List Byte) (h : Memory.wf m = true) :
    memByte (memPuts m a bs) x = if a ≤ x ∧ x < a + bs.length then bs.getD (x - a) 0 else memByte m x := by
  induction bs generalizing m a with
  | nil => rw [if_neg (by simp only [List.length_nil]; omega)]; rfl
  | cons b bs ih =>
    simp only [memPuts, List.length_cons]
    rw [ih _ (memPut_wf h), memByte_memPut _ _ _ h]
    by_cases hx : x = a
    · subst hx
      rw [if_neg (by omega), if_pos rfl, if_pos (by omega), Nat.sub_self]; rfl
    · rw [if_neg hx]
      by_cases hr : a + 1 ≤ x ∧ x < a + 1 + bs.length
      · rw [if_pos hr, if_pos (by omega)]
        obtain ⟨n, hn⟩ : ∃ n, x - a = n + 1 := ⟨x - a - 1, by omega⟩
        rw [hn, show x - (a + 1) = n by omega]; rfl
      · rw [if_neg hr, if_neg (by omega)]

/-! Named updates, field by field. -/

@[simp] theorem State.push_pending (s : State) (c : Instr) : (s.push c).pending = c :: s.pending := rfl
@[simp] theorem State.push_regs (s : State) (c : Instr) : (s.push c).regs = s.regs := rfl
@[simp] theorem State.push_snap (s : State) (c : Instr) : (s.push c).snap = s.snap := rfl
@[simp] theorem State.push_time (s : State) (c : Instr) : (s.push c).time = s.time := rfl
@[simp] theorem State.push_acc (s : State) (c : Instr) : (s.push c).acc = s.acc := rfl
@[simp] theorem State.push_ev (s : State) (c : Instr) : (s.push c).ev = s.ev := rfl
@[simp] theorem State.push_mem (s : State) (c : Instr) : (s.push c).mem = s.mem := rfl
@[simp] theorem State.push_host (s : State) (c : Instr) : (s.push c).host = s.host := rfl
@[simp] theorem State.push_ch (s : State) (c : Instr) : (s.push c).ch = s.ch := rfl
@[simp] theorem State.push_slices (s : State) (c : Instr) : (s.push c).slices = s.slices := rfl
@[simp] theorem State.push_net (s : State) (c : Instr) : (s.push c).net = s.net := rfl
@[simp] theorem State.push_stairs (s : State) (c : Instr) : (s.push c).stairs = s.stairs := rfl
@[simp] theorem State.push_golden (s : State) (c : Instr) : (s.push c).golden = s.golden := rfl
@[simp] theorem State.push_lpm (s : State) (c : Instr) : (s.push c).lpm = s.lpm := rfl
@[simp] theorem State.push_sheaf (s : State) (c : Instr) : (s.push c).sheaf = s.sheaf := rfl
@[simp] theorem State.push_land (s : State) (c : Instr) : (s.push c).land = s.land := rfl
@[simp] theorem State.push_unit (s : State) (c : Instr) : (s.push c).unit = s.unit := rfl
@[simp] theorem State.push_tils (s : State) (c : Instr) : (s.push c).tils = s.tils := rfl
@[simp] theorem State.push_tm (s : State) (c : Instr) : (s.push c).tm = s.tm := rfl
@[simp] theorem State.push_oz (s : State) (c : Instr) : (s.push c).oz = s.oz := rfl
@[simp] theorem State.push_cy (s : State) (c : Instr) : (s.push c).cy = s.cy := rfl
@[simp] theorem State.push_rm (s : State) (c : Instr) : (s.push c).rm = s.rm := rfl
@[simp] theorem State.push_sv (s : State) (c : Instr) : (s.push c).sv = s.sv := rfl
@[simp] theorem State.push_out (s : State) (c : Instr) : (s.push c).out = s.out := rfl
@[simp] theorem State.push_draws (s : State) (c : Instr) : (s.push c).draws = s.draws := rfl

@[simp] theorem wr_pending (s : State) (o : Nat) (v : W32) : (wr s o v).pending = s.pending := rfl
@[simp] theorem wr_regs (s : State) (o : Nat) (v : W32) : (wr s o v).regs = aset s.regs o v := rfl
@[simp] theorem wr_snap (s : State) (o : Nat) (v : W32) : (wr s o v).snap = s.snap := rfl
@[simp] theorem wr_time (s : State) (o : Nat) (v : W32) : (wr s o v).time = s.time := rfl
@[simp] theorem wr_acc (s : State) (o : Nat) (v : W32) : (wr s o v).acc = s.acc := rfl
@[simp] theorem wr_ev (s : State) (o : Nat) (v : W32) : (wr s o v).ev = s.ev := rfl
@[simp] theorem wr_mem (s : State) (o : Nat) (v : W32) : (wr s o v).mem = s.mem := rfl
@[simp] theorem wr_host (s : State) (o : Nat) (v : W32) : (wr s o v).host = s.host := rfl
@[simp] theorem wr_ch (s : State) (o : Nat) (v : W32) : (wr s o v).ch = s.ch := rfl
@[simp] theorem wr_slices (s : State) (o : Nat) (v : W32) : (wr s o v).slices = s.slices := rfl
@[simp] theorem wr_net (s : State) (o : Nat) (v : W32) : (wr s o v).net = s.net := rfl
@[simp] theorem wr_stairs (s : State) (o : Nat) (v : W32) : (wr s o v).stairs = s.stairs := rfl
@[simp] theorem wr_golden (s : State) (o : Nat) (v : W32) : (wr s o v).golden = s.golden := rfl
@[simp] theorem wr_lpm (s : State) (o : Nat) (v : W32) : (wr s o v).lpm = s.lpm := rfl
@[simp] theorem wr_sheaf (s : State) (o : Nat) (v : W32) : (wr s o v).sheaf = s.sheaf := rfl
@[simp] theorem wr_land (s : State) (o : Nat) (v : W32) : (wr s o v).land = s.land := rfl
@[simp] theorem wr_unit (s : State) (o : Nat) (v : W32) : (wr s o v).unit = s.unit := rfl
@[simp] theorem wr_tils (s : State) (o : Nat) (v : W32) : (wr s o v).tils = s.tils := rfl
@[simp] theorem wr_tm (s : State) (o : Nat) (v : W32) : (wr s o v).tm = s.tm := rfl
@[simp] theorem wr_oz (s : State) (o : Nat) (v : W32) : (wr s o v).oz = s.oz := rfl
@[simp] theorem wr_cy (s : State) (o : Nat) (v : W32) : (wr s o v).cy = s.cy := rfl
@[simp] theorem wr_rm (s : State) (o : Nat) (v : W32) : (wr s o v).rm = s.rm := rfl
@[simp] theorem wr_sv (s : State) (o : Nat) (v : W32) : (wr s o v).sv = s.sv := rfl
@[simp] theorem wr_out (s : State) (o : Nat) (v : W32) : (wr s o v).out = s.out := rfl
@[simp] theorem wr_draws (s : State) (o : Nat) (v : W32) : (wr s o v).draws = s.draws := rfl

@[simp] theorem wrF_pending (s : State) (o lo w v : Nat) : (wrF s o lo w v).pending = s.pending := rfl
@[simp] theorem wrF_regs (s : State) (o lo w v : Nat) : (wrF s o lo w v).regs = aset s.regs o (rput (rd s o) lo w v) := rfl
@[simp] theorem wrF_snap (s : State) (o lo w v : Nat) : (wrF s o lo w v).snap = s.snap := rfl
@[simp] theorem wrF_time (s : State) (o lo w v : Nat) : (wrF s o lo w v).time = s.time := rfl
@[simp] theorem wrF_acc (s : State) (o lo w v : Nat) : (wrF s o lo w v).acc = s.acc := rfl
@[simp] theorem wrF_ev (s : State) (o lo w v : Nat) : (wrF s o lo w v).ev = s.ev := rfl
@[simp] theorem wrF_mem (s : State) (o lo w v : Nat) : (wrF s o lo w v).mem = s.mem := rfl
@[simp] theorem wrF_host (s : State) (o lo w v : Nat) : (wrF s o lo w v).host = s.host := rfl
@[simp] theorem wrF_ch (s : State) (o lo w v : Nat) : (wrF s o lo w v).ch = s.ch := rfl
@[simp] theorem wrF_slices (s : State) (o lo w v : Nat) : (wrF s o lo w v).slices = s.slices := rfl
@[simp] theorem wrF_net (s : State) (o lo w v : Nat) : (wrF s o lo w v).net = s.net := rfl
@[simp] theorem wrF_stairs (s : State) (o lo w v : Nat) : (wrF s o lo w v).stairs = s.stairs := rfl
@[simp] theorem wrF_golden (s : State) (o lo w v : Nat) : (wrF s o lo w v).golden = s.golden := rfl
@[simp] theorem wrF_lpm (s : State) (o lo w v : Nat) : (wrF s o lo w v).lpm = s.lpm := rfl
@[simp] theorem wrF_sheaf (s : State) (o lo w v : Nat) : (wrF s o lo w v).sheaf = s.sheaf := rfl
@[simp] theorem wrF_land (s : State) (o lo w v : Nat) : (wrF s o lo w v).land = s.land := rfl
@[simp] theorem wrF_unit (s : State) (o lo w v : Nat) : (wrF s o lo w v).unit = s.unit := rfl
@[simp] theorem wrF_tils (s : State) (o lo w v : Nat) : (wrF s o lo w v).tils = s.tils := rfl
@[simp] theorem wrF_tm (s : State) (o lo w v : Nat) : (wrF s o lo w v).tm = s.tm := rfl
@[simp] theorem wrF_oz (s : State) (o lo w v : Nat) : (wrF s o lo w v).oz = s.oz := rfl
@[simp] theorem wrF_cy (s : State) (o lo w v : Nat) : (wrF s o lo w v).cy = s.cy := rfl
@[simp] theorem wrF_rm (s : State) (o lo w v : Nat) : (wrF s o lo w v).rm = s.rm := rfl
@[simp] theorem wrF_sv (s : State) (o lo w v : Nat) : (wrF s o lo w v).sv = s.sv := rfl
@[simp] theorem wrF_out (s : State) (o lo w v : Nat) : (wrF s o lo w v).out = s.out := rfl
@[simp] theorem wrF_draws (s : State) (o lo w v : Nat) : (wrF s o lo w v).draws = s.draws := rfl

@[simp] theorem wrN_pending (s : State) (o v : Nat) : (wrN s o v).pending = s.pending := rfl
@[simp] theorem wrN_regs (s : State) (o v : Nat) : (wrN s o v).regs = aset s.regs o (BitVec.ofNat 32 v) := rfl
@[simp] theorem wrN_snap (s : State) (o v : Nat) : (wrN s o v).snap = s.snap := rfl
@[simp] theorem wrN_time (s : State) (o v : Nat) : (wrN s o v).time = s.time := rfl
@[simp] theorem wrN_acc (s : State) (o v : Nat) : (wrN s o v).acc = s.acc := rfl
@[simp] theorem wrN_ev (s : State) (o v : Nat) : (wrN s o v).ev = s.ev := rfl
@[simp] theorem wrN_mem (s : State) (o v : Nat) : (wrN s o v).mem = s.mem := rfl
@[simp] theorem wrN_host (s : State) (o v : Nat) : (wrN s o v).host = s.host := rfl
@[simp] theorem wrN_ch (s : State) (o v : Nat) : (wrN s o v).ch = s.ch := rfl
@[simp] theorem wrN_slices (s : State) (o v : Nat) : (wrN s o v).slices = s.slices := rfl
@[simp] theorem wrN_net (s : State) (o v : Nat) : (wrN s o v).net = s.net := rfl
@[simp] theorem wrN_stairs (s : State) (o v : Nat) : (wrN s o v).stairs = s.stairs := rfl
@[simp] theorem wrN_golden (s : State) (o v : Nat) : (wrN s o v).golden = s.golden := rfl
@[simp] theorem wrN_lpm (s : State) (o v : Nat) : (wrN s o v).lpm = s.lpm := rfl
@[simp] theorem wrN_sheaf (s : State) (o v : Nat) : (wrN s o v).sheaf = s.sheaf := rfl
@[simp] theorem wrN_land (s : State) (o v : Nat) : (wrN s o v).land = s.land := rfl
@[simp] theorem wrN_unit (s : State) (o v : Nat) : (wrN s o v).unit = s.unit := rfl
@[simp] theorem wrN_tils (s : State) (o v : Nat) : (wrN s o v).tils = s.tils := rfl
@[simp] theorem wrN_tm (s : State) (o v : Nat) : (wrN s o v).tm = s.tm := rfl
@[simp] theorem wrN_oz (s : State) (o v : Nat) : (wrN s o v).oz = s.oz := rfl
@[simp] theorem wrN_cy (s : State) (o v : Nat) : (wrN s o v).cy = s.cy := rfl
@[simp] theorem wrN_rm (s : State) (o v : Nat) : (wrN s o v).rm = s.rm := rfl
@[simp] theorem wrN_sv (s : State) (o v : Nat) : (wrN s o v).sv = s.sv := rfl
@[simp] theorem wrN_out (s : State) (o v : Nat) : (wrN s o v).out = s.out := rfl
@[simp] theorem wrN_draws (s : State) (o v : Nat) : (wrN s o v).draws = s.draws := rfl

@[simp] theorem emit_pending (s : State) (e : Emit) : (emit s e).pending = s.pending := rfl
@[simp] theorem emit_regs (s : State) (e : Emit) : (emit s e).regs = s.regs := rfl
@[simp] theorem emit_snap (s : State) (e : Emit) : (emit s e).snap = s.snap := rfl
@[simp] theorem emit_time (s : State) (e : Emit) : (emit s e).time = s.time := rfl
@[simp] theorem emit_acc (s : State) (e : Emit) : (emit s e).acc = s.acc := rfl
@[simp] theorem emit_ev (s : State) (e : Emit) : (emit s e).ev = s.ev := rfl
@[simp] theorem emit_mem (s : State) (e : Emit) : (emit s e).mem = s.mem := rfl
@[simp] theorem emit_host (s : State) (e : Emit) : (emit s e).host = s.host := rfl
@[simp] theorem emit_ch (s : State) (e : Emit) : (emit s e).ch = s.ch := rfl
@[simp] theorem emit_slices (s : State) (e : Emit) : (emit s e).slices = s.slices := rfl
@[simp] theorem emit_net (s : State) (e : Emit) : (emit s e).net = s.net := rfl
@[simp] theorem emit_stairs (s : State) (e : Emit) : (emit s e).stairs = s.stairs := rfl
@[simp] theorem emit_golden (s : State) (e : Emit) : (emit s e).golden = s.golden := rfl
@[simp] theorem emit_lpm (s : State) (e : Emit) : (emit s e).lpm = s.lpm := rfl
@[simp] theorem emit_sheaf (s : State) (e : Emit) : (emit s e).sheaf = s.sheaf := rfl
@[simp] theorem emit_land (s : State) (e : Emit) : (emit s e).land = s.land := rfl
@[simp] theorem emit_unit (s : State) (e : Emit) : (emit s e).unit = s.unit := rfl
@[simp] theorem emit_tils (s : State) (e : Emit) : (emit s e).tils = s.tils := rfl
@[simp] theorem emit_tm (s : State) (e : Emit) : (emit s e).tm = s.tm := rfl
@[simp] theorem emit_oz (s : State) (e : Emit) : (emit s e).oz = s.oz := rfl
@[simp] theorem emit_cy (s : State) (e : Emit) : (emit s e).cy = s.cy := rfl
@[simp] theorem emit_rm (s : State) (e : Emit) : (emit s e).rm = s.rm := rfl
@[simp] theorem emit_sv (s : State) (e : Emit) : (emit s e).sv = s.sv := rfl
@[simp] theorem emit_out (s : State) (e : Emit) : (emit s e).out = e :: s.out := rfl
@[simp] theorem emit_draws (s : State) (e : Emit) : (emit s e).draws = s.draws := rfl

@[simp] theorem store_pending (s : State) (a : Nat) (bs : List Byte) : (store s a bs).pending = s.pending := rfl
@[simp] theorem store_regs (s : State) (a : Nat) (bs : List Byte) : (store s a bs).regs = s.regs := rfl
@[simp] theorem store_snap (s : State) (a : Nat) (bs : List Byte) : (store s a bs).snap = s.snap := rfl
@[simp] theorem store_time (s : State) (a : Nat) (bs : List Byte) : (store s a bs).time = s.time := rfl
@[simp] theorem store_acc (s : State) (a : Nat) (bs : List Byte) : (store s a bs).acc = s.acc := rfl
@[simp] theorem store_ev (s : State) (a : Nat) (bs : List Byte) : (store s a bs).ev = s.ev := rfl
@[simp] theorem store_mem (s : State) (a : Nat) (bs : List Byte) : (store s a bs).mem = memPuts s.mem a bs := rfl
@[simp] theorem store_host (s : State) (a : Nat) (bs : List Byte) : (store s a bs).host = s.host := rfl
@[simp] theorem store_ch (s : State) (a : Nat) (bs : List Byte) : (store s a bs).ch = s.ch := rfl
@[simp] theorem store_slices (s : State) (a : Nat) (bs : List Byte) : (store s a bs).slices = s.slices := rfl
@[simp] theorem store_net (s : State) (a : Nat) (bs : List Byte) : (store s a bs).net = s.net := rfl
@[simp] theorem store_stairs (s : State) (a : Nat) (bs : List Byte) : (store s a bs).stairs = s.stairs := rfl
@[simp] theorem store_golden (s : State) (a : Nat) (bs : List Byte) : (store s a bs).golden = s.golden := rfl
@[simp] theorem store_lpm (s : State) (a : Nat) (bs : List Byte) : (store s a bs).lpm = s.lpm := rfl
@[simp] theorem store_sheaf (s : State) (a : Nat) (bs : List Byte) : (store s a bs).sheaf = s.sheaf := rfl
@[simp] theorem store_land (s : State) (a : Nat) (bs : List Byte) : (store s a bs).land = s.land := rfl
@[simp] theorem store_unit (s : State) (a : Nat) (bs : List Byte) : (store s a bs).unit = s.unit := rfl
@[simp] theorem store_tils (s : State) (a : Nat) (bs : List Byte) : (store s a bs).tils = s.tils := rfl
@[simp] theorem store_tm (s : State) (a : Nat) (bs : List Byte) : (store s a bs).tm = s.tm := rfl
@[simp] theorem store_oz (s : State) (a : Nat) (bs : List Byte) : (store s a bs).oz = s.oz := rfl
@[simp] theorem store_cy (s : State) (a : Nat) (bs : List Byte) : (store s a bs).cy = s.cy := rfl
@[simp] theorem store_rm (s : State) (a : Nat) (bs : List Byte) : (store s a bs).rm = s.rm := rfl
@[simp] theorem store_sv (s : State) (a : Nat) (bs : List Byte) : (store s a bs).sv = s.sv := rfl
@[simp] theorem store_out (s : State) (a : Nat) (bs : List Byte) : (store s a bs).out = s.out := rfl
@[simp] theorem store_draws (s : State) (a : Nat) (bs : List Byte) : (store s a bs).draws = s.draws := rfl

@[simp] theorem closeWindow_pending (s : State) : (closeWindow s).pending = s.pending := rfl
@[simp] theorem closeWindow_regs (s : State) : (closeWindow s).regs = s.regs := rfl
@[simp] theorem closeWindow_snap (s : State) : (closeWindow s).snap = s.snap := rfl
@[simp] theorem closeWindow_time (s : State) : (closeWindow s).time = s.time := rfl
@[simp] theorem closeWindow_acc (s : State) : (closeWindow s).acc = { s.acc with window := none } := rfl
@[simp] theorem closeWindow_ev (s : State) : (closeWindow s).ev = s.ev := rfl
@[simp] theorem closeWindow_mem (s : State) : (closeWindow s).mem = s.mem := rfl
@[simp] theorem closeWindow_host (s : State) : (closeWindow s).host = s.host := rfl
@[simp] theorem closeWindow_ch (s : State) : (closeWindow s).ch = s.ch := rfl
@[simp] theorem closeWindow_slices (s : State) : (closeWindow s).slices = s.slices := rfl
@[simp] theorem closeWindow_net (s : State) : (closeWindow s).net = s.net := rfl
@[simp] theorem closeWindow_stairs (s : State) : (closeWindow s).stairs = s.stairs := rfl
@[simp] theorem closeWindow_golden (s : State) : (closeWindow s).golden = s.golden := rfl
@[simp] theorem closeWindow_lpm (s : State) : (closeWindow s).lpm = s.lpm := rfl
@[simp] theorem closeWindow_sheaf (s : State) : (closeWindow s).sheaf = s.sheaf := rfl
@[simp] theorem closeWindow_land (s : State) : (closeWindow s).land = s.land := rfl
@[simp] theorem closeWindow_unit (s : State) : (closeWindow s).unit = s.unit := rfl
@[simp] theorem closeWindow_tils (s : State) : (closeWindow s).tils = s.tils := rfl
@[simp] theorem closeWindow_tm (s : State) : (closeWindow s).tm = s.tm := rfl
@[simp] theorem closeWindow_oz (s : State) : (closeWindow s).oz = s.oz := rfl
@[simp] theorem closeWindow_cy (s : State) : (closeWindow s).cy = s.cy := rfl
@[simp] theorem closeWindow_rm (s : State) : (closeWindow s).rm = s.rm := rfl
@[simp] theorem closeWindow_sv (s : State) : (closeWindow s).sv = s.sv := rfl
@[simp] theorem closeWindow_out (s : State) : (closeWindow s).out = s.out := rfl
@[simp] theorem closeWindow_draws (s : State) : (closeWindow s).draws = s.draws := rfl

end Sys2Proof.Machine
end

