-- ==== Sys2Proof/Laws/Keeps.lean ====
section
/-! SUPPORT. Laws/Keeps.lean: the frame relation, and with it what every operation keeps of the memory's form and of the fuses: it
is reflexive, composes, passes through choices and folds, and what it keeps can be read off. -/

namespace Sys2Proof.Machine
set_option linter.all false

/-- What no operation undoes in the fuses (R651 to R658): the life cycle moves forward only, to a state that exists, the
anti-rollback count does not fall, and a revoked key stays revoked. -/
structure OzLe (a b : OzSt) : Prop where
  lc  : a.lc ≤ b.lc
  top : a.lc ≤ 3 → b.lc ≤ 3
  svn : a.svn ≤ b.svn
  rev : a.ownerRevoked = true → b.ownerRevoked = true

theorem OzLe.refl (a : OzSt) : OzLe a a := ⟨Nat.le_refl _, id, Nat.le_refl _, id⟩
theorem OzLe.trans {a b c : OzSt} (h : OzLe a b) (k : OzLe b c) : OzLe a c :=
  ⟨Nat.le_trans h.lc k.lc, k.top ∘ h.top, Nat.le_trans h.svn k.svn, k.rev ∘ h.rev⟩
theorem OzLe.same {a b : OzSt} (h : b.lc = a.lc) (k : b.svn = a.svn) (r : b.ownerRevoked = a.ownerRevoked) : OzLe a b :=
  ⟨h ▸ Nat.le_refl _, fun x => h ▸ x, k ▸ Nat.le_refl _, fun x => r ▸ x⟩

theorem aset_rising {α : Type} {m : AMap α} (i : Nat) (a : α) (h : Rising m) : Rising (aset m i a) := by
  have key : ∀ (m : AMap α) (i : Nat) (a : α) (x : Nat × α), x ∈ aset m i a → x.1 = i ∨ x ∈ m := by
    intro m i a x
    induction m with
    | nil => intro hx; rw [aset, List.mem_singleton] at hx; exact .inl (by rw [hx])
    | cons e m ih =>
      intro hx
      rw [aset] at hx
      split at hx
      · rcases List.mem_cons.mp hx with rfl | hx
        · exact .inl rfl
        · exact .inr hx
      · split at hx
        · rcases List.mem_cons.mp hx with rfl | hx
          · exact .inl rfl
          · exact .inr (List.mem_cons_of_mem _ hx)
        · rcases List.mem_cons.mp hx with rfl | hx
          · exact .inr (List.mem_cons_self ..)
          · exact (ih hx).imp id (List.mem_cons_of_mem _)
  induction m with
  | nil => exact List.pairwise_singleton _ _
  | cons e m ih =>
    obtain ⟨h1, h2⟩ := List.pairwise_cons.mp h
    rw [aset]
    split
    · rename_i hi
      exact List.pairwise_cons.mpr ⟨fun x hx => (List.mem_cons.mp hx).elim (fun hx => hx ▸ hi) (fun hx => Nat.lt_trans hi (h1 x hx)), h⟩
    · split
      · rename_i hi
        exact List.pairwise_cons.mpr ⟨fun x hx => hi ▸ h1 x hx, h2⟩
      · refine List.pairwise_cons.mpr ⟨fun x hx => ?_, ih h2⟩
        rcases key m i a x hx with hx | hx
        · omega
        · exact h1 x hx
theorem filter_rising {α : Type} {m : AMap α} (p : Nat × α → Bool) (h : Rising m) : Rising (m.filter p) := h.filter p

/-- A frame, with the canonical form of the memory, the fuses and the idle state of the access under way kept. -/
structure Kept (l : List Part) (s t : State) : Prop where
  keeps : Keeps l s t
  rise  : Rising s.regs → Rising t.regs
  wf    : Memory.wf s.mem = true → Memory.wf t.mem = true
  ozLe  : OzLe s.oz t.oz
  own   : s.acc.own = none → t.acc.own = none

theorem Part.same_refl (s : State) (p : Part) : p.same s s := by cases p <;> rfl
theorem Part.same_trans {s t u : State} {p : Part} (h : p.same s t) (k : p.same t u) : p.same s u := by
  cases p <;> exact Eq.trans k h
theorem Keeps.refl {l : List Part} {s : State} : Keeps l s s := ⟨fun p _ => Part.same_refl s p⟩
theorem Keeps.after {l m : List Part} {s t u : State} (h : Keeps l s t) (k : Keeps m t u)
    (hm : m.all (fun p => l.contains p) = true) : Keeps l s u := by
  refine ⟨fun p hp => Part.same_trans (h.same p hp) (k.same p ?_)⟩
  cases hc : m.contains p
  · rfl
  · have := List.all_eq_true.mp hm p (by simpa using hc)
    rw [hp] at this; cases this
theorem Keeps.by' {l m : List Part} {s t u : State} (k : Keeps m t u)
    (h : Keeps l s t) (hm : m.all (fun p => l.contains p) = true) : Keeps l s u := h.after k hm
theorem Kept.of {l : List Part} {s t : State} (h : Keeps l s t) (hr : t.regs = s.regs) (hm : t.mem = s.mem) (ho : t.oz = s.oz) (ha : t.acc.own = s.acc.own) : Kept l s t :=
  ⟨h, fun x => hr ▸ x, fun x => hm ▸ x, ho ▸ OzLe.refl _, fun x => ha.trans x⟩
theorem Kept.refl {l : List Part} {s : State} : Kept l s s := ⟨Keeps.refl, id, id, OzLe.refl _, id⟩
theorem Kept.after {l m : List Part} {s t u : State} (h : Kept l s t) (k : Kept m t u)
    (hm : m.all (fun p => l.contains p) = true) : Kept l s u := ⟨h.keeps.after k.keeps hm, k.rise ∘ h.rise, k.wf ∘ h.wf, h.ozLe.trans k.ozLe, k.own ∘ h.own⟩
theorem parts_sub {m n l : List Part} (hl : n.all (fun p => l.contains p) = true) (h : m.all (fun p => n.contains p) = true) :
    m.all (fun p => l.contains p) = true := by
  rw [List.all_eq_true] at *
  intro p hp
  exact hl p (by simpa using h p hp)
theorem Kept.by' {l m : List Part} {s t u : State} (k : Kept m t u)
    (h : Kept l s t) (hm : m.all (fun p => l.contains p) = true) : Kept l s u := h.after k hm
theorem Keeps.ite {l : List Part} {s a b : State} {c : Prop} {_ : Decidable c} (h : Keeps l s a) (k : Keeps l s b) :
    Keeps l s (if c then a else b) := by split <;> assumption
theorem Keeps.ite1 {α : Type} {l : List Part} {s : State} {a b : State × α} {c : Prop} {_ : Decidable c} (h : Keeps l s a.1) (k : Keeps l s b.1) :
    Keeps l s (if c then a else b).1 := by split <;> assumption
theorem Keeps.ite2 {α : Type} {l : List Part} {s : State} {a b : α × State} {c : Prop} {_ : Decidable c} (h : Keeps l s a.2) (k : Keeps l s b.2) :
    Keeps l s (if c then a else b).2 := by split <;> assumption
theorem Keeps.eq1 {α : Type} {l : List Part} {s t : State} {p : State × α} {x : α} (h : Keeps l s p.1) (e : p = (t, x)) : Keeps l s t := by
  subst e; exact h
theorem Keeps.eq2 {α : Type} {l : List Part} {s t : State} {p : α × State} {x : α} (h : Keeps l s p.2) (e : p = (x, t)) : Keeps l s t := by
  subst e; exact h
theorem Keeps.foldl {α : Type} {l : List Part} {s t : State} {f : State → α → State} {as : List α} (h : Keeps l s t)
    (k : ∀ t a, Keeps l s t → Keeps l s (f t a)) : Keeps l s (as.foldl f t) := by
  induction as generalizing t with
  | nil => exact h
  | cons a as ih => exact ih (k t a h)
theorem Keeps.foldl1 {α β : Type} {l : List Part} {s : State} {f : State × β → α → State × β} {as : List α} {t : State × β} (h : Keeps l s t.1)
    (k : ∀ t a, Keeps l s t.1 → Keeps l s (f t a).1) : Keeps l s (as.foldl f t).1 := by
  induction as generalizing t with
  | nil => exact h
  | cons a as ih => exact ih (k t a h)
theorem Keeps.fst {α : Type} {l : List Part} {s t : State} {x : α} (h : Keeps l s t) : Keeps l s (t, x).1 := h
theorem Keeps.snd {α : Type} {l : List Part} {s t : State} {x : α} (h : Keeps l s t) : Keeps l s (x, t).2 := h
theorem Keeps.set_pending {l : List Part} {s t : State} {v} (h : Keeps l s t) (hl : l.contains .pending = true) : Keeps l s { t with pending := v } := by
  refine ⟨fun p hp => ?_⟩; cases p <;> first | exact h.same _ hp | (rw [hl] at hp; cases hp)
theorem Keeps.pending {l : List Part} {s t : State} (h : Keeps l s t) (hl : l.contains .pending = false := by rfl) : t.pending = s.pending := h.same .pending hl
theorem Keeps.set_regs {l : List Part} {s t : State} {v} (h : Keeps l s t) (hl : l.contains .regs = true) : Keeps l s { t with regs := v } := by
  refine ⟨fun p hp => ?_⟩; cases p <;> first | exact h.same _ hp | (rw [hl] at hp; cases hp)
theorem Keeps.regs {l : List Part} {s t : State} (h : Keeps l s t) (hl : l.contains .regs = false := by rfl) : t.regs = s.regs := h.same .regs hl
theorem Keeps.set_snap {l : List Part} {s t : State} {v} (h : Keeps l s t) (hl : l.contains .snap = true) : Keeps l s { t with snap := v } := by
  refine ⟨fun p hp => ?_⟩; cases p <;> first | exact h.same _ hp | (rw [hl] at hp; cases hp)
theorem Keeps.snap {l : List Part} {s t : State} (h : Keeps l s t) (hl : l.contains .snap = false := by rfl) : t.snap = s.snap := h.same .snap hl
theorem Keeps.set_time {l : List Part} {s t : State} {v} (h : Keeps l s t) (hl : l.contains .time = true) : Keeps l s { t with time := v } := by
  refine ⟨fun p hp => ?_⟩; cases p <;> first | exact h.same _ hp | (rw [hl] at hp; cases hp)
theorem Keeps.time {l : List Part} {s t : State} (h : Keeps l s t) (hl : l.contains .time = false := by rfl) : t.time = s.time := h.same .time hl
theorem Keeps.set_acc {l : List Part} {s t : State} {v} (h : Keeps l s t) (hl : l.contains .acc = true) : Keeps l s { t with acc := v } := by
  refine ⟨fun p hp => ?_⟩; cases p <;> first | exact h.same _ hp | (rw [hl] at hp; cases hp)
theorem Keeps.acc {l : List Part} {s t : State} (h : Keeps l s t) (hl : l.contains .acc = false := by rfl) : t.acc = s.acc := h.same .acc hl
theorem Keeps.set_ev {l : List Part} {s t : State} {v} (h : Keeps l s t) (hl : l.contains .ev = true) : Keeps l s { t with ev := v } := by
  refine ⟨fun p hp => ?_⟩; cases p <;> first | exact h.same _ hp | (rw [hl] at hp; cases hp)
theorem Keeps.ev {l : List Part} {s t : State} (h : Keeps l s t) (hl : l.contains .ev = false := by rfl) : t.ev = s.ev := h.same .ev hl
theorem Keeps.set_mem {l : List Part} {s t : State} {v} (h : Keeps l s t) (hl : l.contains .mem = true) : Keeps l s { t with mem := v } := by
  refine ⟨fun p hp => ?_⟩; cases p <;> first | exact h.same _ hp | (rw [hl] at hp; cases hp)
theorem Keeps.mem {l : List Part} {s t : State} (h : Keeps l s t) (hl : l.contains .mem = false := by rfl) : t.mem = s.mem := h.same .mem hl
theorem Keeps.set_host {l : List Part} {s t : State} {v} (h : Keeps l s t) (hl : l.contains .host = true) : Keeps l s { t with host := v } := by
  refine ⟨fun p hp => ?_⟩; cases p <;> first | exact h.same _ hp | (rw [hl] at hp; cases hp)
theorem Keeps.host {l : List Part} {s t : State} (h : Keeps l s t) (hl : l.contains .host = false := by rfl) : t.host = s.host := h.same .host hl
theorem Keeps.set_ch {l : List Part} {s t : State} {v} (h : Keeps l s t) (hl : l.contains .ch = true) : Keeps l s { t with ch := v } := by
  refine ⟨fun p hp => ?_⟩; cases p <;> first | exact h.same _ hp | (rw [hl] at hp; cases hp)
theorem Keeps.ch {l : List Part} {s t : State} (h : Keeps l s t) (hl : l.contains .ch = false := by rfl) : t.ch = s.ch := h.same .ch hl
theorem Keeps.set_slices {l : List Part} {s t : State} {v} (h : Keeps l s t) (hl : l.contains .slices = true) : Keeps l s { t with slices := v } := by
  refine ⟨fun p hp => ?_⟩; cases p <;> first | exact h.same _ hp | (rw [hl] at hp; cases hp)
theorem Keeps.slices {l : List Part} {s t : State} (h : Keeps l s t) (hl : l.contains .slices = false := by rfl) : t.slices = s.slices := h.same .slices hl
theorem Keeps.set_net {l : List Part} {s t : State} {v} (h : Keeps l s t) (hl : l.contains .net = true) : Keeps l s { t with net := v } := by
  refine ⟨fun p hp => ?_⟩; cases p <;> first | exact h.same _ hp | (rw [hl] at hp; cases hp)
theorem Keeps.net {l : List Part} {s t : State} (h : Keeps l s t) (hl : l.contains .net = false := by rfl) : t.net = s.net := h.same .net hl
theorem Keeps.set_stairs {l : List Part} {s t : State} {v} (h : Keeps l s t) (hl : l.contains .stairs = true) : Keeps l s { t with stairs := v } := by
  refine ⟨fun p hp => ?_⟩; cases p <;> first | exact h.same _ hp | (rw [hl] at hp; cases hp)
theorem Keeps.stairs {l : List Part} {s t : State} (h : Keeps l s t) (hl : l.contains .stairs = false := by rfl) : t.stairs = s.stairs := h.same .stairs hl
theorem Keeps.set_golden {l : List Part} {s t : State} {v} (h : Keeps l s t) (hl : l.contains .golden = true) : Keeps l s { t with golden := v } := by
  refine ⟨fun p hp => ?_⟩; cases p <;> first | exact h.same _ hp | (rw [hl] at hp; cases hp)
theorem Keeps.golden {l : List Part} {s t : State} (h : Keeps l s t) (hl : l.contains .golden = false := by rfl) : t.golden = s.golden := h.same .golden hl
theorem Keeps.set_lpm {l : List Part} {s t : State} {v} (h : Keeps l s t) (hl : l.contains .lpm = true) : Keeps l s { t with lpm := v } := by
  refine ⟨fun p hp => ?_⟩; cases p <;> first | exact h.same _ hp | (rw [hl] at hp; cases hp)
theorem Keeps.lpm {l : List Part} {s t : State} (h : Keeps l s t) (hl : l.contains .lpm = false := by rfl) : t.lpm = s.lpm := h.same .lpm hl
theorem Keeps.set_sheaf {l : List Part} {s t : State} {v} (h : Keeps l s t) (hl : l.contains .sheaf = true) : Keeps l s { t with sheaf := v } := by
  refine ⟨fun p hp => ?_⟩; cases p <;> first | exact h.same _ hp | (rw [hl] at hp; cases hp)
theorem Keeps.sheaf {l : List Part} {s t : State} (h : Keeps l s t) (hl : l.contains .sheaf = false := by rfl) : t.sheaf = s.sheaf := h.same .sheaf hl
theorem Keeps.set_land {l : List Part} {s t : State} {v} (h : Keeps l s t) (hl : l.contains .land = true) : Keeps l s { t with land := v } := by
  refine ⟨fun p hp => ?_⟩; cases p <;> first | exact h.same _ hp | (rw [hl] at hp; cases hp)
theorem Keeps.land {l : List Part} {s t : State} (h : Keeps l s t) (hl : l.contains .land = false := by rfl) : t.land = s.land := h.same .land hl
theorem Keeps.set_unit {l : List Part} {s t : State} {v} (h : Keeps l s t) (hl : l.contains .unit = true) : Keeps l s { t with unit := v } := by
  refine ⟨fun p hp => ?_⟩; cases p <;> first | exact h.same _ hp | (rw [hl] at hp; cases hp)
theorem Keeps.unit {l : List Part} {s t : State} (h : Keeps l s t) (hl : l.contains .unit = false := by rfl) : t.unit = s.unit := h.same .unit hl
theorem Keeps.set_tils {l : List Part} {s t : State} {v} (h : Keeps l s t) (hl : l.contains .tils = true) : Keeps l s { t with tils := v } := by
  refine ⟨fun p hp => ?_⟩; cases p <;> first | exact h.same _ hp | (rw [hl] at hp; cases hp)
theorem Keeps.tils {l : List Part} {s t : State} (h : Keeps l s t) (hl : l.contains .tils = false := by rfl) : t.tils = s.tils := h.same .tils hl
theorem Keeps.set_tm {l : List Part} {s t : State} {v} (h : Keeps l s t) (hl : l.contains .tm = true) : Keeps l s { t with tm := v } := by
  refine ⟨fun p hp => ?_⟩; cases p <;> first | exact h.same _ hp | (rw [hl] at hp; cases hp)
theorem Keeps.tm {l : List Part} {s t : State} (h : Keeps l s t) (hl : l.contains .tm = false := by rfl) : t.tm = s.tm := h.same .tm hl
theorem Keeps.set_oz {l : List Part} {s t : State} {v} (h : Keeps l s t) (hl : l.contains .oz = true) : Keeps l s { t with oz := v } := by
  refine ⟨fun p hp => ?_⟩; cases p <;> first | exact h.same _ hp | (rw [hl] at hp; cases hp)
theorem Keeps.oz {l : List Part} {s t : State} (h : Keeps l s t) (hl : l.contains .oz = false := by rfl) : t.oz = s.oz := h.same .oz hl
theorem Keeps.set_cy {l : List Part} {s t : State} {v} (h : Keeps l s t) (hl : l.contains .cy = true) : Keeps l s { t with cy := v } := by
  refine ⟨fun p hp => ?_⟩; cases p <;> first | exact h.same _ hp | (rw [hl] at hp; cases hp)
theorem Keeps.cy {l : List Part} {s t : State} (h : Keeps l s t) (hl : l.contains .cy = false := by rfl) : t.cy = s.cy := h.same .cy hl
theorem Keeps.set_rm {l : List Part} {s t : State} {v} (h : Keeps l s t) (hl : l.contains .rm = true) : Keeps l s { t with rm := v } := by
  refine ⟨fun p hp => ?_⟩; cases p <;> first | exact h.same _ hp | (rw [hl] at hp; cases hp)
theorem Keeps.rm {l : List Part} {s t : State} (h : Keeps l s t) (hl : l.contains .rm = false := by rfl) : t.rm = s.rm := h.same .rm hl
theorem Keeps.set_sv {l : List Part} {s t : State} {v} (h : Keeps l s t) (hl : l.contains .sv = true) : Keeps l s { t with sv := v } := by
  refine ⟨fun p hp => ?_⟩; cases p <;> first | exact h.same _ hp | (rw [hl] at hp; cases hp)
theorem Keeps.sv {l : List Part} {s t : State} (h : Keeps l s t) (hl : l.contains .sv = false := by rfl) : t.sv = s.sv := h.same .sv hl
theorem Keeps.set_out {l : List Part} {s t : State} {v} (h : Keeps l s t) (hl : l.contains .out = true) : Keeps l s { t with out := v } := by
  refine ⟨fun p hp => ?_⟩; cases p <;> first | exact h.same _ hp | (rw [hl] at hp; cases hp)
theorem Keeps.out {l : List Part} {s t : State} (h : Keeps l s t) (hl : l.contains .out = false := by rfl) : t.out = s.out := h.same .out hl
theorem Keeps.set_draws {l : List Part} {s t : State} {v} (h : Keeps l s t) (hl : l.contains .draws = true) : Keeps l s { t with draws := v } := by
  refine ⟨fun p hp => ?_⟩; cases p <;> first | exact h.same _ hp | (rw [hl] at hp; cases hp)
theorem Keeps.draws {l : List Part} {s t : State} (h : Keeps l s t) (hl : l.contains .draws = false := by rfl) : t.draws = s.draws := h.same .draws hl
theorem Keeps.getD {l : List Part} {s d : State} {o : Option State} (h : ∀ u, o = some u → Keeps l s u) (k : Keeps l s d) :
    Keeps l s (o.getD d) := by
  cases o with
  | none => exact k
  | some u => exact h u rfl

theorem Kept.ite {l : List Part} {s a b : State} {c : Prop} {_ : Decidable c} (h : Kept l s a) (k : Kept l s b) :
    Kept l s (if c then a else b) := by split <;> assumption
theorem Kept.ite1 {α : Type} {l : List Part} {s : State} {a b : State × α} {c : Prop} {_ : Decidable c} (h : Kept l s a.1) (k : Kept l s b.1) :
    Kept l s (if c then a else b).1 := by split <;> assumption
theorem Kept.ite2 {α : Type} {l : List Part} {s : State} {a b : α × State} {c : Prop} {_ : Decidable c} (h : Kept l s a.2) (k : Kept l s b.2) :
    Kept l s (if c then a else b).2 := by split <;> assumption
theorem Kept.eq1 {α : Type} {l : List Part} {s t : State} {p : State × α} {x : α} (h : Kept l s p.1) (e : p = (t, x)) : Kept l s t := by
  subst e; exact h
theorem Kept.eq2 {α : Type} {l : List Part} {s t : State} {p : α × State} {x : α} (h : Kept l s p.2) (e : p = (x, t)) : Kept l s t := by
  subst e; exact h
theorem Kept.foldl {α : Type} {l : List Part} {s t : State} {f : State → α → State} {as : List α} (h : Kept l s t)
    (k : ∀ t a, Kept l s t → Kept l s (f t a)) : Kept l s (as.foldl f t) := by
  induction as generalizing t with
  | nil => exact h
  | cons a as ih => exact ih (k t a h)
theorem Kept.foldl1 {α β : Type} {l : List Part} {s : State} {f : State × β → α → State × β} {as : List α} {t : State × β} (h : Kept l s t.1)
    (k : ∀ t a, Kept l s t.1 → Kept l s (f t a).1) : Kept l s (as.foldl f t).1 := by
  induction as generalizing t with
  | nil => exact h
  | cons a as ih => exact ih (k t a h)
theorem Kept.fst {α : Type} {l : List Part} {s t : State} {x : α} (h : Kept l s t) : Kept l s (t, x).1 := h
theorem Kept.snd {α : Type} {l : List Part} {s t : State} {x : α} (h : Kept l s t) : Kept l s (x, t).2 := h
theorem Kept.getD {l : List Part} {s d : State} {o : Option State} (h : ∀ u, o = some u → Kept l s u) (k : Kept l s d) :
    Kept l s (o.getD d) := by
  cases o with
  | none => exact k
  | some u => exact h u rfl

theorem Kept.set_pending {l : List Part} {s t : State} {v} (h : Kept l s t) (hl : l.contains .pending = true) : Kept l s { t with pending := v } := by
  refine ⟨⟨fun p hp => ?_⟩, h.rise, h.wf, h.ozLe, h.own⟩; cases p <;> first | exact h.keeps.same _ hp | (rw [hl] at hp; cases hp)
theorem Kept.pending {l : List Part} {s t : State} (h : Kept l s t) (hl : l.contains .pending = false := by rfl) : t.pending = s.pending := h.keeps.same .pending hl
theorem Kept.set_regs {l : List Part} {s t : State} {v} (h : Kept l s t) (hl : l.contains .regs = true) (hv : Rising t.regs → Rising v) : Kept l s { t with regs := v } := by
  refine ⟨⟨fun p hp => ?_⟩, hv ∘ h.rise, h.wf, h.ozLe, h.own⟩; cases p <;> first | exact h.keeps.same _ hp | (rw [hl] at hp; cases hp)
theorem Kept.regs {l : List Part} {s t : State} (h : Kept l s t) (hl : l.contains .regs = false := by rfl) : t.regs = s.regs := h.keeps.same .regs hl
theorem Kept.set_snap {l : List Part} {s t : State} {v} (h : Kept l s t) (hl : l.contains .snap = true) : Kept l s { t with snap := v } := by
  refine ⟨⟨fun p hp => ?_⟩, h.rise, h.wf, h.ozLe, h.own⟩; cases p <;> first | exact h.keeps.same _ hp | (rw [hl] at hp; cases hp)
theorem Kept.snap {l : List Part} {s t : State} (h : Kept l s t) (hl : l.contains .snap = false := by rfl) : t.snap = s.snap := h.keeps.same .snap hl
theorem Kept.set_time {l : List Part} {s t : State} {v} (h : Kept l s t) (hl : l.contains .time = true) : Kept l s { t with time := v } := by
  refine ⟨⟨fun p hp => ?_⟩, h.rise, h.wf, h.ozLe, h.own⟩; cases p <;> first | exact h.keeps.same _ hp | (rw [hl] at hp; cases hp)
theorem Kept.time {l : List Part} {s t : State} (h : Kept l s t) (hl : l.contains .time = false := by rfl) : t.time = s.time := h.keeps.same .time hl
theorem Kept.set_acc {l : List Part} {s t : State} {v : AccSt} (h : Kept l s t) (hl : l.contains .acc = true) (hv : t.acc.own = none → v.own = none) :
    Kept l s { t with acc := v } := by
  refine ⟨⟨fun p hp => ?_⟩, h.rise, h.wf, h.ozLe, hv ∘ h.own⟩; cases p <;> first | exact h.keeps.same _ hp | (rw [hl] at hp; cases hp)
theorem Kept.acc {l : List Part} {s t : State} (h : Kept l s t) (hl : l.contains .acc = false := by rfl) : t.acc = s.acc := h.keeps.same .acc hl
theorem Kept.set_ev {l : List Part} {s t : State} {v} (h : Kept l s t) (hl : l.contains .ev = true) : Kept l s { t with ev := v } := by
  refine ⟨⟨fun p hp => ?_⟩, h.rise, h.wf, h.ozLe, h.own⟩; cases p <;> first | exact h.keeps.same _ hp | (rw [hl] at hp; cases hp)
theorem Kept.ev {l : List Part} {s t : State} (h : Kept l s t) (hl : l.contains .ev = false := by rfl) : t.ev = s.ev := h.keeps.same .ev hl
theorem Kept.set_mem {l : List Part} {s t : State} {v} (h : Kept l s t) (hl : l.contains .mem = true) (hv : Memory.wf t.mem = true → Memory.wf v = true) : Kept l s { t with mem := v } := by
  refine ⟨⟨fun p hp => ?_⟩, h.rise, hv ∘ h.wf, h.ozLe, h.own⟩; cases p <;> first | exact h.keeps.same _ hp | (rw [hl] at hp; cases hp)
theorem Kept.mem {l : List Part} {s t : State} (h : Kept l s t) (hl : l.contains .mem = false := by rfl) : t.mem = s.mem := h.keeps.same .mem hl
theorem Kept.set_host {l : List Part} {s t : State} {v} (h : Kept l s t) (hl : l.contains .host = true) : Kept l s { t with host := v } := by
  refine ⟨⟨fun p hp => ?_⟩, h.rise, h.wf, h.ozLe, h.own⟩; cases p <;> first | exact h.keeps.same _ hp | (rw [hl] at hp; cases hp)
theorem Kept.host {l : List Part} {s t : State} (h : Kept l s t) (hl : l.contains .host = false := by rfl) : t.host = s.host := h.keeps.same .host hl
theorem Kept.set_ch {l : List Part} {s t : State} {v} (h : Kept l s t) (hl : l.contains .ch = true) : Kept l s { t with ch := v } := by
  refine ⟨⟨fun p hp => ?_⟩, h.rise, h.wf, h.ozLe, h.own⟩; cases p <;> first | exact h.keeps.same _ hp | (rw [hl] at hp; cases hp)
theorem Kept.ch {l : List Part} {s t : State} (h : Kept l s t) (hl : l.contains .ch = false := by rfl) : t.ch = s.ch := h.keeps.same .ch hl
theorem Kept.set_slices {l : List Part} {s t : State} {v} (h : Kept l s t) (hl : l.contains .slices = true) : Kept l s { t with slices := v } := by
  refine ⟨⟨fun p hp => ?_⟩, h.rise, h.wf, h.ozLe, h.own⟩; cases p <;> first | exact h.keeps.same _ hp | (rw [hl] at hp; cases hp)
theorem Kept.slices {l : List Part} {s t : State} (h : Kept l s t) (hl : l.contains .slices = false := by rfl) : t.slices = s.slices := h.keeps.same .slices hl
theorem Kept.set_net {l : List Part} {s t : State} {v} (h : Kept l s t) (hl : l.contains .net = true) : Kept l s { t with net := v } := by
  refine ⟨⟨fun p hp => ?_⟩, h.rise, h.wf, h.ozLe, h.own⟩; cases p <;> first | exact h.keeps.same _ hp | (rw [hl] at hp; cases hp)
theorem Kept.net {l : List Part} {s t : State} (h : Kept l s t) (hl : l.contains .net = false := by rfl) : t.net = s.net := h.keeps.same .net hl
theorem Kept.set_stairs {l : List Part} {s t : State} {v} (h : Kept l s t) (hl : l.contains .stairs = true) : Kept l s { t with stairs := v } := by
  refine ⟨⟨fun p hp => ?_⟩, h.rise, h.wf, h.ozLe, h.own⟩; cases p <;> first | exact h.keeps.same _ hp | (rw [hl] at hp; cases hp)
theorem Kept.stairs {l : List Part} {s t : State} (h : Kept l s t) (hl : l.contains .stairs = false := by rfl) : t.stairs = s.stairs := h.keeps.same .stairs hl
theorem Kept.set_golden {l : List Part} {s t : State} {v} (h : Kept l s t) (hl : l.contains .golden = true) : Kept l s { t with golden := v } := by
  refine ⟨⟨fun p hp => ?_⟩, h.rise, h.wf, h.ozLe, h.own⟩; cases p <;> first | exact h.keeps.same _ hp | (rw [hl] at hp; cases hp)
theorem Kept.golden {l : List Part} {s t : State} (h : Kept l s t) (hl : l.contains .golden = false := by rfl) : t.golden = s.golden := h.keeps.same .golden hl
theorem Kept.set_lpm {l : List Part} {s t : State} {v} (h : Kept l s t) (hl : l.contains .lpm = true) : Kept l s { t with lpm := v } := by
  refine ⟨⟨fun p hp => ?_⟩, h.rise, h.wf, h.ozLe, h.own⟩; cases p <;> first | exact h.keeps.same _ hp | (rw [hl] at hp; cases hp)
theorem Kept.lpm {l : List Part} {s t : State} (h : Kept l s t) (hl : l.contains .lpm = false := by rfl) : t.lpm = s.lpm := h.keeps.same .lpm hl
theorem Kept.set_sheaf {l : List Part} {s t : State} {v} (h : Kept l s t) (hl : l.contains .sheaf = true) : Kept l s { t with sheaf := v } := by
  refine ⟨⟨fun p hp => ?_⟩, h.rise, h.wf, h.ozLe, h.own⟩; cases p <;> first | exact h.keeps.same _ hp | (rw [hl] at hp; cases hp)
theorem Kept.sheaf {l : List Part} {s t : State} (h : Kept l s t) (hl : l.contains .sheaf = false := by rfl) : t.sheaf = s.sheaf := h.keeps.same .sheaf hl
theorem Kept.set_land {l : List Part} {s t : State} {v} (h : Kept l s t) (hl : l.contains .land = true) : Kept l s { t with land := v } := by
  refine ⟨⟨fun p hp => ?_⟩, h.rise, h.wf, h.ozLe, h.own⟩; cases p <;> first | exact h.keeps.same _ hp | (rw [hl] at hp; cases hp)
theorem Kept.land {l : List Part} {s t : State} (h : Kept l s t) (hl : l.contains .land = false := by rfl) : t.land = s.land := h.keeps.same .land hl
theorem Kept.set_unit {l : List Part} {s t : State} {v} (h : Kept l s t) (hl : l.contains .unit = true) : Kept l s { t with unit := v } := by
  refine ⟨⟨fun p hp => ?_⟩, h.rise, h.wf, h.ozLe, h.own⟩; cases p <;> first | exact h.keeps.same _ hp | (rw [hl] at hp; cases hp)
theorem Kept.unit {l : List Part} {s t : State} (h : Kept l s t) (hl : l.contains .unit = false := by rfl) : t.unit = s.unit := h.keeps.same .unit hl
theorem Kept.set_tils {l : List Part} {s t : State} {v} (h : Kept l s t) (hl : l.contains .tils = true) : Kept l s { t with tils := v } := by
  refine ⟨⟨fun p hp => ?_⟩, h.rise, h.wf, h.ozLe, h.own⟩; cases p <;> first | exact h.keeps.same _ hp | (rw [hl] at hp; cases hp)
theorem Kept.tils {l : List Part} {s t : State} (h : Kept l s t) (hl : l.contains .tils = false := by rfl) : t.tils = s.tils := h.keeps.same .tils hl
theorem Kept.set_tm {l : List Part} {s t : State} {v} (h : Kept l s t) (hl : l.contains .tm = true) : Kept l s { t with tm := v } := by
  refine ⟨⟨fun p hp => ?_⟩, h.rise, h.wf, h.ozLe, h.own⟩; cases p <;> first | exact h.keeps.same _ hp | (rw [hl] at hp; cases hp)
theorem Kept.tm {l : List Part} {s t : State} (h : Kept l s t) (hl : l.contains .tm = false := by rfl) : t.tm = s.tm := h.keeps.same .tm hl
theorem Kept.set_oz {l : List Part} {s t : State} {v} (h : Kept l s t) (hl : l.contains .oz = true) (hv : OzLe t.oz v) : Kept l s { t with oz := v } := by
  refine ⟨⟨fun p hp => ?_⟩, h.rise, h.wf, h.ozLe.trans hv, h.own⟩; cases p <;> first | exact h.keeps.same _ hp | (rw [hl] at hp; cases hp)
theorem Kept.oz {l : List Part} {s t : State} (h : Kept l s t) (hl : l.contains .oz = false := by rfl) : t.oz = s.oz := h.keeps.same .oz hl
theorem Kept.set_cy {l : List Part} {s t : State} {v} (h : Kept l s t) (hl : l.contains .cy = true) : Kept l s { t with cy := v } := by
  refine ⟨⟨fun p hp => ?_⟩, h.rise, h.wf, h.ozLe, h.own⟩; cases p <;> first | exact h.keeps.same _ hp | (rw [hl] at hp; cases hp)
theorem Kept.cy {l : List Part} {s t : State} (h : Kept l s t) (hl : l.contains .cy = false := by rfl) : t.cy = s.cy := h.keeps.same .cy hl
theorem Kept.set_rm {l : List Part} {s t : State} {v} (h : Kept l s t) (hl : l.contains .rm = true) : Kept l s { t with rm := v } := by
  refine ⟨⟨fun p hp => ?_⟩, h.rise, h.wf, h.ozLe, h.own⟩; cases p <;> first | exact h.keeps.same _ hp | (rw [hl] at hp; cases hp)
theorem Kept.rm {l : List Part} {s t : State} (h : Kept l s t) (hl : l.contains .rm = false := by rfl) : t.rm = s.rm := h.keeps.same .rm hl
theorem Kept.set_sv {l : List Part} {s t : State} {v} (h : Kept l s t) (hl : l.contains .sv = true) : Kept l s { t with sv := v } := by
  refine ⟨⟨fun p hp => ?_⟩, h.rise, h.wf, h.ozLe, h.own⟩; cases p <;> first | exact h.keeps.same _ hp | (rw [hl] at hp; cases hp)
theorem Kept.sv {l : List Part} {s t : State} (h : Kept l s t) (hl : l.contains .sv = false := by rfl) : t.sv = s.sv := h.keeps.same .sv hl
theorem Kept.set_out {l : List Part} {s t : State} {v} (h : Kept l s t) (hl : l.contains .out = true) : Kept l s { t with out := v } := by
  refine ⟨⟨fun p hp => ?_⟩, h.rise, h.wf, h.ozLe, h.own⟩; cases p <;> first | exact h.keeps.same _ hp | (rw [hl] at hp; cases hp)
theorem Kept.out {l : List Part} {s t : State} (h : Kept l s t) (hl : l.contains .out = false := by rfl) : t.out = s.out := h.keeps.same .out hl
theorem Kept.set_draws {l : List Part} {s t : State} {v} (h : Kept l s t) (hl : l.contains .draws = true) : Kept l s { t with draws := v } := by
  refine ⟨⟨fun p hp => ?_⟩, h.rise, h.wf, h.ozLe, h.own⟩; cases p <;> first | exact h.keeps.same _ hp | (rw [hl] at hp; cases hp)
theorem Kept.draws {l : List Part} {s t : State} (h : Kept l s t) (hl : l.contains .draws = false := by rfl) : t.draws = s.draws := h.keeps.same .draws hl
theorem pick_k {α : Type} (s : State) (l : List α) : Kept [.draws] s (pick s l).2 := by
  refine Kept.of ⟨fun p hp => ?_⟩ rfl rfl rfl rfl; cases p <;> first | rfl | cases hp
end Sys2Proof.Machine
end

