-- ==== Sys2Proof/Laws/Frame1.lean ====
section
/-! SUPPORT. Laws/Frame1.lean: frames: the shared operations over one part of the state. -/

namespace Sys2Proof.Machine
set_option linter.all false
theorem tilUpd_k (s : State) (a1) (a2) : Kept [.tils] s (tilUpd s a1 a2) := by
  unfold tilUpd
  try dsimp -proj only
  repeat' first
    | with_reducible assumption
    | with_reducible apply Kept.refl
    | with_reducible apply Kept.ite
    | with_reducible apply Kept.set_tils
    | (refine Kept.of ⟨fun p hp => ?_⟩ rfl rfl rfl (congrArg AccSt.own rfl); cases p <;> first | rfl | cases hp)
    | apply rfl
    | (with_reducible refine Kept.by' (by with_reducible assumption) ?_ ?_)
    | split
theorem wr_k (s : State) (a1) (a2) : Kept [.regs] s (wr s a1 a2) := by
  unfold wr
  try dsimp -proj only
  repeat' first
    | with_reducible assumption
    | with_reducible apply Kept.refl
    | with_reducible apply Kept.ite
    | with_reducible apply Kept.set_regs
    | (refine Kept.of ⟨fun p hp => ?_⟩ rfl rfl rfl (congrArg AccSt.own rfl); cases p <;> first | rfl | cases hp)
    | exact fun h => aset_rising _ _ h
    | exact fun h => filter_rising _ h
    | exact fun h => h
    | apply rfl
    | (with_reducible refine Kept.by' (by with_reducible assumption) ?_ ?_)
    | split
theorem wrN_k (s : State) (a1) (a2) : Kept [.regs] s (wrN s a1 a2) := by
  unfold wrN
  try dsimp -proj only
  repeat' first
    | with_reducible assumption
    | with_reducible apply Kept.refl
    | with_reducible apply Kept.ite
    | with_reducible apply Kept.by' (wr_k _ _ _)
    | apply rfl
    | (with_reducible refine Kept.by' (by with_reducible assumption) ?_ ?_)
    | split
theorem bump_k (s : State) (a1) (a2) : Kept [.regs] s (bump s a1 a2) := by
  unfold bump
  try dsimp -proj only
  repeat' first
    | with_reducible assumption
    | with_reducible apply Kept.refl
    | with_reducible apply Kept.ite
    | with_reducible apply Kept.by' (wrN_k _ _ _)
    | apply rfl
    | (with_reducible refine Kept.by' (by with_reducible assumption) ?_ ?_)
    | split
theorem raiseAt_k (s : State) (a1) (a2) (a3) (a4) : Kept [.regs, .ev] s (raiseAt s a1 a2 a3 a4) := by
  unfold raiseAt
  try dsimp -proj only
  repeat' first
    | with_reducible assumption
    | with_reducible apply Kept.refl
    | with_reducible apply Kept.ite
    | with_reducible apply Kept.by' (bump_k _ _ _)
    | with_reducible apply Kept.set_regs
    | with_reducible apply Kept.set_ev
    | (refine Kept.of ⟨fun p hp => ?_⟩ rfl rfl rfl (congrArg AccSt.own rfl); cases p <;> first | rfl | cases hp)
    | exact fun h => aset_rising _ _ h
    | exact fun h => filter_rising _ h
    | exact fun h => h
    | apply rfl
    | (with_reducible refine Kept.by' (by with_reducible assumption) ?_ ?_)
    | split
theorem raise_k (s : State) (a1) (a2) : Kept [.regs, .ev] s (raise s a1 a2) := by
  unfold raise
  try dsimp -proj only
  repeat' first
    | with_reducible assumption
    | with_reducible apply Kept.refl
    | with_reducible apply Kept.ite
    | with_reducible apply Kept.by' (raiseAt_k _ _ _ _ _)
    | apply rfl
    | (with_reducible refine Kept.by' (by with_reducible assumption) ?_ ?_)
    | split
theorem fnSet_k (s : State) (a1) (a2) (a3) : Kept [.host] s (fnSet s a1 a2 a3) := by
  unfold fnSet
  try dsimp -proj only
  repeat' first
    | with_reducible assumption
    | with_reducible apply Kept.refl
    | with_reducible apply Kept.ite
    | with_reducible apply Kept.set_host
    | (refine Kept.of ⟨fun p hp => ?_⟩ rfl rfl rfl (congrArg AccSt.own rfl); cases p <;> first | rfl | cases hp)
    | apply rfl
    | (with_reducible refine Kept.by' (by with_reducible assumption) ?_ ?_)
    | split
theorem fnUpd_k (s : State) (a1) (a2) (a3) : Kept [.host] s (fnUpd s a1 a2 a3) := by
  unfold fnUpd
  try dsimp -proj only
  repeat' first
    | with_reducible assumption
    | with_reducible apply Kept.refl
    | with_reducible apply Kept.ite
    | with_reducible apply Kept.by' (fnSet_k _ _ _ _)
    | apply rfl
    | (with_reducible refine Kept.by' (by with_reducible assumption) ?_ ?_)
    | split
theorem cfgSet_k (s : State) (a1) (a2) (a3) (a4) : Kept [.host] s (cfgSet s a1 a2 a3 a4) := by
  unfold cfgSet
  try dsimp -proj only
  repeat' first
    | with_reducible assumption
    | with_reducible apply Kept.refl
    | with_reducible apply Kept.ite
    | with_reducible apply Kept.by' (fnUpd_k _ _ _ _)
    | apply rfl
    | (with_reducible refine Kept.by' (by with_reducible assumption) ?_ ?_)
    | split
theorem cfgBit_k (s : State) (a1) (a2) (a3) (a4) (a5) : Kept [.host] s (cfgBit s a1 a2 a3 a4 a5) := by
  unfold cfgBit
  try dsimp -proj only
  repeat' first
    | with_reducible assumption
    | with_reducible apply Kept.refl
    | with_reducible apply Kept.ite
    | with_reducible apply Kept.by' (cfgSet_k _ _ _ _ _)
    | apply rfl
    | (with_reducible refine Kept.by' (by with_reducible assumption) ?_ ?_)
    | split
theorem draw_k (s : State) : Kept [.draws] s (draw s).2 := by
  unfold draw
  try dsimp -proj only
  repeat' first
    | with_reducible assumption
    | with_reducible apply Kept.refl
    | with_reducible apply Kept.ite
    | with_reducible apply Kept.ite2
    | with_reducible apply Kept.set_draws
    | (refine Kept.of ⟨fun p hp => ?_⟩ rfl rfl rfl (congrArg AccSt.own rfl); cases p <;> first | rfl | cases hp)
    | dsimp only
    | apply rfl
    | (with_reducible refine Kept.by' (by with_reducible assumption) ?_ ?_)
    | split
theorem headerLog_k (s : State) (a1) (a2) : Kept [.host, .draws] s (headerLog s a1 a2) := by
  unfold headerLog
  try dsimp -proj only
  repeat' first
    | with_reducible assumption
    | with_reducible apply Kept.refl
    | with_reducible apply Kept.ite
    | with_reducible apply Kept.ite1
    | with_reducible apply Kept.ite2
    | with_reducible apply Kept.by' (draw_k _)
    | with_reducible apply Kept.by' (Kept.eq2 (draw_k _) (by assumption))
    | with_reducible apply Kept.by' (cfgSet_k _ _ _ _ _)
    | with_reducible apply Kept.foldl
    | with_reducible apply Kept.foldl1
    | (intro _; intros)
    | dsimp only
    | apply rfl
    | (with_reducible refine Kept.by' (by with_reducible assumption) ?_ ?_)
    | split
theorem aerLog_k (s : State) (a1) (a2) (a3) : Kept [.regs, .ev, .host, .draws] s (aerLog s a1 a2 a3) := by
  unfold aerLog
  try dsimp -proj only
  repeat' first
    | with_reducible assumption
    | with_reducible apply Kept.refl
    | with_reducible apply Kept.ite
    | with_reducible apply Kept.by' (raise_k _ _ _)
    | with_reducible apply Kept.by' (cfgSet_k _ _ _ _ _)
    | with_reducible apply Kept.by' (cfgBit_k _ _ _ _ _ _)
    | with_reducible apply Kept.by' (headerLog_k _ _ _)
    | (intro _; intros)
    | dsimp only
    | apply rfl
    | (with_reducible refine Kept.by' (by with_reducible assumption) ?_ ?_)
    | split
theorem readErr_k (s : State) (a1) (a2) (a3) : Kept [.regs, .ev, .host, .draws] s (readErr s a1 a2 a3) := by
  unfold readErr
  try dsimp -proj only
  repeat' first
    | with_reducible assumption
    | with_reducible apply Kept.refl
    | with_reducible apply Kept.ite
    | with_reducible apply Kept.by' (raise_k _ _ _)
    | with_reducible apply Kept.by' (cfgBit_k _ _ _ _ _ _)
    | with_reducible apply Kept.by' (aerLog_k _ _ _ _)
    | dsimp only
    | apply rfl
    | (with_reducible refine Kept.by' (by with_reducible assumption) ?_ ?_)
    | split
theorem readTimeout_k (s : State) (a1) (a2) (a3) : Kept [.regs, .ev, .host, .draws] s (readTimeout s a1 a2 a3) := by
  unfold readTimeout
  try dsimp -proj only
  repeat' first
    | with_reducible assumption
    | with_reducible apply Kept.refl
    | with_reducible apply Kept.ite
    | with_reducible apply Kept.by' (bump_k _ _ _)
    | with_reducible apply Kept.by' (raise_k _ _ _)
    | with_reducible apply Kept.by' (aerLog_k _ _ _ _)
    | dsimp only
    | apply rfl
    | (with_reducible refine Kept.by' (by with_reducible assumption) ?_ ?_)
    | split
theorem emit_k (s : State) (a1) : Kept [.out] s (emit s a1) := by
  unfold emit
  try dsimp -proj only
  repeat' first
    | with_reducible assumption
    | with_reducible apply Kept.refl
    | with_reducible apply Kept.ite
    | with_reducible apply Kept.set_out
    | (refine Kept.of ⟨fun p hp => ?_⟩ rfl rfl rfl (congrArg AccSt.own rfl); cases p <;> first | rfl | cases hp)
    | apply rfl
    | (with_reducible refine Kept.by' (by with_reducible assumption) ?_ ?_)
    | split
theorem hostFetch_k (s : State) (a1) (a2) (a3) (a4) (a5) (a6) : Kept [.regs, .ev, .host, .out, .draws] s (hostFetch s a1 a2 a3 a4 a5 a6) := by
  unfold hostFetch
  try dsimp -proj only
  repeat' first
    | with_reducible assumption
    | with_reducible apply Kept.refl
    | with_reducible apply Kept.ite
    | with_reducible apply Kept.ite1
    | with_reducible apply Kept.ite2
    | with_reducible apply Kept.by' (emit_k _ _)
    | with_reducible apply Kept.by' (readErr_k _ _ _ _)
    | with_reducible apply Kept.by' (readTimeout_k _ _ _ _)
    | with_reducible apply Kept.foldl
    | with_reducible apply Kept.foldl1
    | (intro _; intros)
    | with_reducible apply Kept.getD
    | dsimp only
    | apply rfl
    | (with_reducible refine Kept.by' (by with_reducible assumption) ?_ ?_)
    | split
theorem slFetch_k (s : State) (a1) (a2) (a3) (a4) : Kept [.regs, .ev, .host, .out, .draws] s (slFetch s a1 a2 a3 a4).1 := by
  unfold slFetch
  try dsimp -proj only
  repeat' first
    | with_reducible assumption
    | with_reducible apply Kept.refl
    | with_reducible apply Kept.ite
    | with_reducible apply Kept.ite1
    | with_reducible apply Kept.ite2
    | with_reducible apply Kept.by' (hostFetch_k _ _ _ _ _ _ _)
    | (intro _; intros)
    | dsimp only
    | apply rfl
    | (with_reducible refine Kept.by' (by with_reducible assumption) ?_ ?_)
    | split
/-- What a command reads first leaves Ozelm's own state alone. -/
theorem mbRead_keeps {l : List Part} {w t : State} {addr n e f b r} (h : mbRead w addr n e f = some (t, b, r))
    (g : ∀ u bs v b r, f u bs = some (v, b, r) → u.oz = w.oz → Kept l w u → Kept l w v)
    (hl : [Part.regs, .ev, .host, .out, .draws].all (fun p => l.contains p) = true := by rfl) : Kept l w t := by
  unfold mbRead at h
  split at h
  · have hk : ∀ u x, slFetch w 0 [(addr, n)] 0 (envRead e 0) = (u, x) → Kept [.regs, .ev, .host, .out, .draws] w u :=
      fun u x hx => (Kept.refl).after (Kept.eq1 (slFetch_k _ _ _ _ _) hx) rfl
    split at h
    · rename_i hy; exact g _ _ _ _ _ h (hk _ _ hy).oz (Kept.by' (hk _ _ hy) Kept.refl hl)
    · rename_i hy
      unfold mbFail at h
      injection h with h
      have hh : _ = t := congrArg Prod.fst h
      subst hh; exact Kept.by' (hk _ _ hy) Kept.refl hl
  · split at h
    · exact g _ _ _ _ _ h rfl Kept.refl
    · unfold mbFail at h
      injection h with h
      have hh : _ = t := congrArg Prod.fst h
      subst hh; exact Kept.refl
/-- An access in order is held, which changes only the queue of accesses, or does what its row does. -/
theorem inOrder_sub {l : List Part} {s : State} {x : Access} (hl : l.contains .acc = true) (k : Kept l s (busRow s x)) : Kept l s (inOrder s x) := by
  unfold inOrder
  exact Kept.ite (Kept.set_acc Kept.refl hl (fun h => h)) k
theorem thUpd_k (s : State) (a1) (a2) (a3) : Kept [.tils] s (thUpd s a1 a2 a3) := by
  unfold thUpd
  try dsimp -proj only
  repeat' first
    | with_reducible assumption
    | with_reducible apply Kept.refl
    | with_reducible apply Kept.ite
    | with_reducible apply Kept.by' (tilUpd_k _ _ _)
    | apply rfl
    | (with_reducible refine Kept.by' (by with_reducible assumption) ?_ ?_)
    | split
theorem thIssue_k (s : State) (a1) (a2) : Kept [.tils] s (thIssue s a1 a2) := by
  unfold thIssue
  try dsimp -proj only
  repeat' first
    | with_reducible assumption
    | with_reducible apply Kept.refl
    | with_reducible apply Kept.ite
    | with_reducible apply Kept.by' (tilUpd_k _ _ _)
    | with_reducible apply Kept.by' (thUpd_k _ _ _ _)
    | apply rfl
    | (with_reducible refine Kept.by' (by with_reducible assumption) ?_ ?_)
    | split
theorem wrF_k (s : State) (a1) (a2) (a3) (a4) : Kept [.regs] s (wrF s a1 a2 a3 a4) := by
  unfold wrF
  try dsimp -proj only
  repeat' first
    | with_reducible assumption
    | with_reducible apply Kept.refl
    | with_reducible apply Kept.ite
    | with_reducible apply Kept.by' (wr_k _ _ _)
    | apply rfl
    | (with_reducible refine Kept.by' (by with_reducible assumption) ?_ ?_)
    | split
theorem thSetState_k (s : State) (a1) (a2) (a3) : Kept [.regs] s (thSetState s a1 a2 a3) := by
  unfold thSetState
  try dsimp -proj only
  repeat' first
    | with_reducible assumption
    | with_reducible apply Kept.refl
    | with_reducible apply Kept.ite
    | with_reducible apply Kept.by' (wrF_k _ _ _ _ _)
    | apply rfl
    | (with_reducible refine Kept.by' (by with_reducible assumption) ?_ ?_)
    | split
theorem chReply_k (s : State) (a1) (a2) (a3) (a4) : Kept [.regs, .tils, .out] s (chReply s a1 a2 a3 a4) := by
  unfold chReply
  try dsimp -proj only
  repeat' first
    | with_reducible assumption
    | with_reducible apply Kept.refl
    | with_reducible apply Kept.ite
    | with_reducible apply Kept.by' (thIssue_k _ _ _)
    | with_reducible apply Kept.by' (thSetState_k _ _ _ _)
    | with_reducible apply Kept.by' (thUpd_k _ _ _ _)
    | with_reducible apply Kept.by' (emit_k _ _)
    | apply rfl
    | (with_reducible refine Kept.by' (by with_reducible assumption) ?_ ?_)
    | split
theorem plainWrite_k (s : State) (a1) (a2) (a3) : Kept [.regs] s (plainWrite s a1 a2 a3) := by
  unfold plainWrite
  try dsimp -proj only
  repeat' first
    | with_reducible assumption
    | with_reducible apply Kept.refl
    | with_reducible apply Kept.ite
    | with_reducible apply Kept.by' (wr_k _ _ _)
    | apply rfl
    | (with_reducible refine Kept.by' (by with_reducible assumption) ?_ ?_)
    | split
theorem putArrData_k (s : State) (a1) (a2) (a3) : Kept [.regs] s (putArrData s a1 a2 a3) := by
  unfold putArrData
  try dsimp -proj only
  repeat' first
    | with_reducible assumption
    | with_reducible apply Kept.refl
    | with_reducible apply Kept.ite
    | with_reducible apply Kept.by' (wrN_k _ _ _)
    | with_reducible apply Kept.foldl
    | with_reducible apply Kept.foldl1
    | (intro _; intros)
    | apply rfl
    | (with_reducible refine Kept.by' (by with_reducible assumption) ?_ ?_)
    | split
theorem stairSet_k (s : State) (a1) (a2) : Kept [.stairs] s (stairSet s a1 a2) := by
  unfold stairSet
  try dsimp -proj only
  repeat' first
    | with_reducible assumption
    | with_reducible apply Kept.refl
    | with_reducible apply Kept.ite
    | with_reducible apply Kept.set_stairs
    | (refine Kept.of ⟨fun p hp => ?_⟩ rfl rfl rfl (congrArg AccSt.own rfl); cases p <;> first | rfl | cases hp)
    | apply rfl
    | (with_reducible refine Kept.by' (by with_reducible assumption) ?_ ?_)
    | split
theorem stairUpd_k (s : State) (a1) (a2) : Kept [.stairs] s (stairUpd s a1 a2) := by
  unfold stairUpd
  try dsimp -proj only
  repeat' first
    | with_reducible assumption
    | with_reducible apply Kept.refl
    | with_reducible apply Kept.ite
    | with_reducible apply Kept.by' (stairSet_k _ _ _)
    | apply rfl
    | (with_reducible refine Kept.by' (by with_reducible assumption) ?_ ?_)
    | split
theorem addOut_k (s : State) (a1) (a2) (a3) (a4) (a5) : Kept [.stairs] s (addOut s a1 a2 a3 a4 a5) := by
  unfold addOut
  try dsimp -proj only
  repeat' first
    | with_reducible assumption
    | with_reducible apply Kept.refl
    | with_reducible apply Kept.ite
    | with_reducible apply Kept.by' (stairUpd_k _ _ _)
    | apply rfl
    | (with_reducible refine Kept.by' (by with_reducible assumption) ?_ ?_)
    | split
theorem entrySet_k (s : State) (a1) (a2) (a3) : Kept [.land] s (entrySet s a1 a2 a3) := by
  unfold entrySet
  try dsimp -proj only
  repeat' first
    | with_reducible assumption
    | with_reducible apply Kept.refl
    | with_reducible apply Kept.ite
    | with_reducible apply Kept.set_land
    | (refine Kept.of ⟨fun p hp => ?_⟩ rfl rfl rfl (congrArg AccSt.own rfl); cases p <;> first | rfl | cases hp)
    | apply rfl
    | (with_reducible refine Kept.by' (by with_reducible assumption) ?_ ?_)
    | split
theorem entryUpd_k (s : State) (a1) (a2) (a3) : Kept [.land] s (entryUpd s a1 a2 a3) := by
  unfold entryUpd
  try dsimp -proj only
  repeat' first
    | with_reducible assumption
    | with_reducible apply Kept.refl
    | with_reducible apply Kept.ite
    | with_reducible apply Kept.by' (entrySet_k _ _ _ _)
    | apply rfl
    | (with_reducible refine Kept.by' (by with_reducible assumption) ?_ ?_)
    | split
theorem flightUpd_k (s : State) (a1) (a2) (a3) : Kept [.stairs] s (flightUpd s a1 a2 a3) := by
  unfold flightUpd
  try dsimp -proj only
  repeat' first
    | with_reducible assumption
    | with_reducible apply Kept.refl
    | with_reducible apply Kept.ite
    | with_reducible apply Kept.by' (stairUpd_k _ _ _)
    | apply rfl
    | (with_reducible refine Kept.by' (by with_reducible assumption) ?_ ?_)
    | split
theorem elemSet_k (s : State) (a1) (a2) (a3) (a4) (a5) : Kept [.stairs] s (elemSet s a1 a2 a3 a4 a5) := by
  unfold elemSet
  try dsimp -proj only
  repeat' first
    | with_reducible assumption
    | with_reducible apply Kept.refl
    | with_reducible apply Kept.ite
    | with_reducible apply Kept.by' (flightUpd_k _ _ _ _)
    | apply rfl
    | (with_reducible refine Kept.by' (by with_reducible assumption) ?_ ?_)
    | split
theorem applyIntent_k (s : State) (a1) (a2) (a3) : Kept [.regs, .stairs] s (applyIntent s a1 a2 a3) := by
  unfold applyIntent
  try dsimp -proj only
  repeat' first
    | with_reducible assumption
    | with_reducible apply Kept.refl
    | with_reducible apply Kept.ite
    | with_reducible apply Kept.ite1
    | with_reducible apply Kept.by' (stairUpd_k _ _ _)
    | with_reducible apply Kept.by' (bump_k _ _ _)
    | with_reducible apply Kept.by' (flightUpd_k _ _ _ _)
    | with_reducible apply Kept.by' (elemSet_k _ _ _ _ _ _)
    | apply rfl
    | (with_reducible refine Kept.by' (by with_reducible assumption) ?_ ?_)
    | split
theorem markerAct_k (s : State) (a1) (a2) (a3) (a4) : Kept [.regs, .stairs] s (markerAct s a1 a2 a3 a4) := by
  unfold markerAct
  try dsimp -proj only
  repeat' first
    | with_reducible assumption
    | with_reducible apply Kept.refl
    | with_reducible apply Kept.ite
    | with_reducible apply Kept.by' (applyIntent_k _ _ _ _)
    | with_reducible apply Kept.by' (addOut_k _ _ _ _ _ _)
    | with_reducible apply Kept.by' (putArrData_k _ _ _ _)
    | with_reducible apply Kept.foldl
    | with_reducible apply Kept.foldl1
    | (intro _; intros)
    | apply rfl
    | (with_reducible refine Kept.by' (by with_reducible assumption) ?_ ?_)
    | split
theorem markerSend_k (s : State) (a1) (a2) (a3) : Kept [.regs, .stairs, .land] s (markerSend s a1 a2 a3) := by
  unfold markerSend
  try dsimp -proj only
  repeat' first
    | with_reducible assumption
    | with_reducible apply Kept.refl
    | with_reducible apply Kept.ite
    | with_reducible apply Kept.by' (entryUpd_k _ _ _ _)
    | with_reducible apply Kept.by' (markerAct_k _ _ _ _ _)
    | with_reducible apply Kept.foldl
    | with_reducible apply Kept.foldl1
    | (intro _; intros)
    | apply rfl
    | (with_reducible refine Kept.by' (by with_reducible assumption) ?_ ?_)
    | split
theorem cmdEnd_k (s : State) (a1) (a2) (a3) : Kept [.regs, .stairs] s (cmdEnd s a1 a2 a3) := by
  unfold cmdEnd
  try dsimp -proj only
  repeat' first
    | with_reducible assumption
    | with_reducible apply Kept.refl
    | with_reducible apply Kept.ite
    | with_reducible apply Kept.ite1
    | with_reducible apply Kept.ite2
    | with_reducible apply Kept.by' (stairUpd_k _ _ _)
    | with_reducible apply Kept.by' (wrN_k _ _ _)
    | with_reducible apply Kept.by' (wrF_k _ _ _ _ _)
    | with_reducible apply Kept.foldl
    | with_reducible apply Kept.foldl1
    | (intro _; intros)
    | apply rfl
    | (with_reducible refine Kept.by' (by with_reducible assumption) ?_ ?_)
    | split
theorem arrCmdWrite_k (s : State) (a1) (a2) (a3) : Kept [.regs, .stairs, .land] s (arrCmdWrite s a1 a2 a3) := by
  unfold arrCmdWrite
  try dsimp -proj only
  repeat' first
    | with_reducible assumption
    | with_reducible apply Kept.refl
    | with_reducible apply Kept.ite
    | with_reducible apply Kept.by' (wrF_k _ _ _ _ _)
    | with_reducible apply Kept.by' (plainWrite_k _ _ _ _)
    | with_reducible apply Kept.by' (putArrData_k _ _ _ _)
    | with_reducible apply Kept.by' (addOut_k _ _ _ _ _ _)
    | with_reducible apply Kept.by' (markerSend_k _ _ _ _)
    | with_reducible apply Kept.by' (cmdEnd_k _ _ _ _)
    | with_reducible apply Kept.foldl
    | with_reducible apply Kept.foldl1
    | (intro _; intros)
    | apply rfl
    | (with_reducible refine Kept.by' (by with_reducible assumption) ?_ ?_)
    | split
theorem depEnd_k (s : State) (a1) : Kept [.regs] s (depEnd s a1) := by
  unfold depEnd
  try dsimp -proj only
  repeat' first
    | with_reducible assumption
    | with_reducible apply Kept.refl
    | with_reducible apply Kept.ite
    | with_reducible apply Kept.by' (wrN_k _ _ _)
    | apply rfl
    | (with_reducible refine Kept.by' (by with_reducible assumption) ?_ ?_)
    | split
theorem dropReads_k (s : State) (a1) (a2) : Kept [.host] s (dropReads s a1 a2) := by
  unfold dropReads
  try dsimp -proj only
  repeat' first
    | with_reducible assumption
    | with_reducible apply Kept.refl
    | with_reducible apply Kept.ite
    | with_reducible apply Kept.ite1
    | with_reducible apply Kept.ite2
    | with_reducible apply Kept.set_host
    | (refine Kept.of ⟨fun p hp => ?_⟩ rfl rfl rfl (congrArg AccSt.own rfl); cases p <;> first | rfl | cases hp)
    | apply rfl
    | (with_reducible refine Kept.by' (by with_reducible assumption) ?_ ?_)
    | split
theorem chanUpd_k (s : State) (a1) (a2) : Kept [.ch] s (chanUpd s a1 a2) := by
  unfold chanUpd
  try dsimp -proj only
  repeat' first
    | with_reducible assumption
    | with_reducible apply Kept.refl
    | with_reducible apply Kept.ite
    | with_reducible apply Kept.set_ch
    | (refine Kept.of ⟨fun p hp => ?_⟩ rfl rfl rfl (congrArg AccSt.own rfl); cases p <;> first | rfl | cases hp)
    | apply rfl
    | (with_reducible refine Kept.by' (by with_reducible assumption) ?_ ?_)
    | split
theorem cqRelease_k (s : State) (a1) (a2) : Kept [.ch] s (cqRelease s a1 a2) := by
  unfold cqRelease
  try dsimp -proj only
  repeat' first
    | with_reducible assumption
    | with_reducible apply Kept.refl
    | with_reducible apply Kept.ite
    | with_reducible apply Kept.by' (chanUpd_k _ _ _)
    | apply rfl
    | (with_reducible refine Kept.by' (by with_reducible assumption) ?_ ?_)
    | split
theorem chanSet_k (s : State) (a1) (a2) : Kept [.ch] s (chanSet s a1 a2) := by
  unfold chanSet
  try dsimp -proj only
  repeat' first
    | with_reducible assumption
    | with_reducible apply Kept.refl
    | with_reducible apply Kept.ite
    | with_reducible apply Kept.set_ch
    | (refine Kept.of ⟨fun p hp => ?_⟩ rfl rfl rfl (congrArg AccSt.own rfl); cases p <;> first | rfl | cases hp)
    | apply rfl
    | (with_reducible refine Kept.by' (by with_reducible assumption) ?_ ?_)
    | split
theorem store_k (s : State) (a1) (a2) : Kept [.mem] s (store s a1 a2) := by
  unfold store
  try dsimp -proj only
  repeat' first
    | with_reducible assumption
    | with_reducible apply Kept.refl
    | with_reducible apply Kept.ite
    | with_reducible apply Kept.set_mem
    | (refine Kept.of ⟨fun p hp => ?_⟩ rfl rfl rfl (congrArg AccSt.own rfl); cases p <;> first | rfl | cases hp)
    | exact fun h => memPuts_wf h
    | exact fun h => memClear_wf h
    | exact memPuts_wf (by assumption)
    | exact memClear_wf (by assumption)
    | exact fun h => filter_wf _ h
    | exact fun h => h
    | apply rfl
    | (with_reducible refine Kept.by' (by with_reducible assumption) ?_ ?_)
    | split
theorem tilStore_k (s : State) (a1) (a2) : Kept [.mem] s (tilStore s a1 a2) := by
  unfold tilStore
  try dsimp -proj only
  repeat' first
    | with_reducible assumption
    | with_reducible apply Kept.refl
    | with_reducible apply Kept.ite
    | with_reducible apply Kept.by' (store_k _ _ _)
    | apply rfl
    | (with_reducible refine Kept.by' (by with_reducible assumption) ?_ ?_)
    | split
theorem markDirty_k (s : State) (a1) (a2) (a3) : Kept [.slices] s (markDirty s a1 a2 a3) := by
  unfold markDirty
  try dsimp -proj only
  repeat' first
    | with_reducible assumption
    | with_reducible apply Kept.refl
    | with_reducible apply Kept.ite
    | with_reducible apply Kept.set_slices
    | (refine Kept.of ⟨fun p hp => ?_⟩ rfl rfl rfl (congrArg AccSt.own rfl); cases p <;> first | rfl | cases hp)
    | apply rfl
    | (with_reducible refine Kept.by' (by with_reducible assumption) ?_ ?_)
    | split
theorem writeTlps_k (s : State) (a1) (a2) (a3) (a4) (a5) (a6) : Kept [.out] s (writeTlps s a1 a2 a3 a4 a5 a6) := by
  unfold writeTlps
  try dsimp -proj only
  repeat' first
    | with_reducible assumption
    | with_reducible apply Kept.refl
    | with_reducible apply Kept.ite
    | with_reducible apply Kept.ite1
    | with_reducible apply Kept.ite2
    | with_reducible apply Kept.by' (emit_k _ _)
    | with_reducible apply Kept.foldl
    | with_reducible apply Kept.foldl1
    | (intro _; intros)
    | apply rfl
    | (with_reducible refine Kept.by' (by with_reducible assumption) ?_ ?_)
    | split
theorem slWrite_k (s : State) (a1) (a2) (a3) (a4) : Kept [.mem, .slices, .out] s (slWrite s a1 a2 a3 a4) := by
  unfold slWrite
  try dsimp -proj only
  repeat' first
    | with_reducible assumption
    | with_reducible apply Kept.refl
    | with_reducible apply Kept.ite
    | with_reducible apply Kept.by' (tilStore_k _ _ _)
    | with_reducible apply Kept.by' (markDirty_k _ _ _ _)
    | with_reducible apply Kept.by' (writeTlps_k _ _ _ _ _ _ _)
    | apply rfl
    | (with_reducible refine Kept.by' (by with_reducible assumption) ?_ ?_)
    | split
theorem mirrorWrite_k (s : State) (a1) : Kept [.mem, .slices, .out] s (mirrorWrite s a1) := by
  unfold mirrorWrite
  try dsimp -proj only
  repeat' first
    | with_reducible assumption
    | with_reducible apply Kept.refl
    | with_reducible apply Kept.ite
    | with_reducible apply Kept.by' (slWrite_k _ _ _ _ _)
    | apply rfl
    | (with_reducible refine Kept.by' (by with_reducible assumption) ?_ ?_)
    | split
theorem flushEnts_k (s : State) (a1) (a2) : Kept [.regs, .ch] s (flushEnts s a1 a2) := by
  unfold flushEnts
  try dsimp -proj only
  repeat' first
    | with_reducible assumption
    | with_reducible apply Kept.refl
    | with_reducible apply Kept.ite
    | with_reducible apply Kept.by' (chanSet_k _ _ _)
    | with_reducible apply Kept.by' (depEnd_k _ _)
    | apply rfl
    | (with_reducible refine Kept.by' (by with_reducible assumption) ?_ ?_)
    | split
theorem finishEnt_k (s : State) (a1) (a2) (a3) : Kept [.regs, .ch] s (finishEnt s a1 a2 a3) := by
  unfold finishEnt
  try dsimp -proj only
  repeat' first
    | with_reducible assumption
    | with_reducible apply Kept.refl
    | with_reducible apply Kept.ite
    | with_reducible apply Kept.by' (chanSet_k _ _ _)
    | with_reducible apply Kept.by' (depEnd_k _ _)
    | apply rfl
    | (with_reducible refine Kept.by' (by with_reducible assumption) ?_ ?_)
    | split
theorem regionUnref_k (s : State) (a1) : Kept [.rm] s (regionUnref s a1) := by
  unfold regionUnref
  try dsimp -proj only
  repeat' first
    | with_reducible assumption
    | with_reducible apply Kept.refl
    | with_reducible apply Kept.ite
    | with_reducible apply Kept.set_rm
    | (refine Kept.of ⟨fun p hp => ?_⟩ rfl rfl rfl (congrArg AccSt.own rfl); cases p <;> first | rfl | cases hp)
    | apply rfl
    | (with_reducible refine Kept.by' (by with_reducible assumption) ?_ ?_)
    | split
theorem unrefKeys_k (s : State) (a1) : Kept [.rm] s (unrefKeys s a1) := by
  unfold unrefKeys
  try dsimp -proj only
  repeat' first
    | with_reducible assumption
    | with_reducible apply Kept.refl
    | with_reducible apply Kept.ite
    | with_reducible apply Kept.by' (regionUnref_k _ _)
    | with_reducible apply Kept.foldl
    | with_reducible apply Kept.foldl1
    | (intro _; intros)
    | apply rfl
    | (with_reducible refine Kept.by' (by with_reducible assumption) ?_ ?_)
    | split
theorem rmUpd_k (s : State) (a1) : Kept [.rm] s (rmUpd s a1) := by
  unfold rmUpd
  try dsimp -proj only
  repeat' first
    | with_reducible assumption
    | with_reducible apply Kept.refl
    | with_reducible apply Kept.ite
    | with_reducible apply Kept.set_rm
    | (refine Kept.of ⟨fun p hp => ?_⟩ rfl rfl rfl (congrArg AccSt.own rfl); cases p <;> first | rfl | cases hp)
    | apply rfl
    | (with_reducible refine Kept.by' (by with_reducible assumption) ?_ ?_)
    | split
theorem qpUpd_k (s : State) (a1) (a2) : Kept [.rm] s (qpUpd s a1 a2) := by
  unfold qpUpd
  try dsimp -proj only
  repeat' first
    | with_reducible assumption
    | with_reducible apply Kept.refl
    | with_reducible apply Kept.ite
    | with_reducible apply Kept.by' (rmUpd_k _ _)
    | apply rfl
    | (with_reducible refine Kept.by' (by with_reducible assumption) ?_ ?_)
    | split
theorem raiseWin_k (s : State) (a1) (a2) (a3) (a4) (a5) : Kept [.regs, .ev] s (raiseWin s a1 a2 a3 a4 a5) := by
  unfold raiseWin
  try dsimp -proj only
  repeat' first
    | with_reducible assumption
    | with_reducible apply Kept.refl
    | with_reducible apply Kept.ite
    | with_reducible apply Kept.by' (raiseAt_k _ _ _ _ _)
    | with_reducible apply Kept.set_regs
    | with_reducible apply Kept.set_ev
    | (refine Kept.of ⟨fun p hp => ?_⟩ rfl rfl rfl (congrArg AccSt.own rfl); cases p <;> first | rfl | cases hp)
    | exact fun h => aset_rising _ _ h
    | exact fun h => filter_rising _ h
    | exact fun h => h
    | apply rfl
    | (with_reducible refine Kept.by' (by with_reducible assumption) ?_ ?_)
    | split
theorem depTake_k (s : State) : Kept [.regs, .ev] s (depTake s) := by
  unfold depTake
  try dsimp -proj only
  repeat' first
    | with_reducible assumption
    | with_reducible apply Kept.refl
    | with_reducible apply Kept.ite
    | with_reducible apply Kept.by' (wrN_k _ _ _)
    | with_reducible apply Kept.by' (raise_k _ _ _)
    | apply rfl
    | (with_reducible refine Kept.by' (by with_reducible assumption) ?_ ?_)
    | split
theorem cyUpd_k (s : State) (a1) : Kept [.cy] s (cyUpd s a1) := by
  unfold cyUpd
  try dsimp -proj only
  repeat' first
    | with_reducible assumption
    | with_reducible apply Kept.refl
    | with_reducible apply Kept.ite
    | with_reducible apply Kept.set_cy
    | (refine Kept.of ⟨fun p hp => ?_⟩ rfl rfl rfl (congrArg AccSt.own rfl); cases p <;> first | rfl | cases hp)
    | apply rfl
    | (with_reducible refine Kept.by' (by with_reducible assumption) ?_ ?_)
    | split
theorem pickEngine_k (s : State) : Kept [.draws] s (pickEngine s).2 := by
  unfold pickEngine
  try dsimp -proj only
  repeat' first
    | with_reducible assumption
    | with_reducible apply Kept.refl
    | with_reducible apply Kept.ite
    | with_reducible apply Kept.ite2
    | with_reducible apply Kept.by' (pick_k _ _)
    | with_reducible apply Kept.by' (Kept.eq2 (pick_k _ _) (by assumption))
    | with_reducible apply Kept.foldl
    | with_reducible apply Kept.foldl1
    | (intro _; intros)
    | dsimp only
    | apply rfl
    | (with_reducible refine Kept.by' (by with_reducible assumption) ?_ ?_)
    | split
theorem engineNext_k (s : State) (a1) : Kept [.cy] s (engineNext s a1) := by
  unfold engineNext
  try dsimp -proj only
  repeat' first
    | with_reducible assumption
    | with_reducible apply Kept.refl
    | with_reducible apply Kept.ite
    | with_reducible apply Kept.by' (cyUpd_k _ _)
    | apply rfl
    | (with_reducible refine Kept.by' (by with_reducible assumption) ?_ ?_)
    | split
theorem entUpd_k (s : State) (a1) (a2) (a3) : Kept [.ch] s (entUpd s a1 a2 a3) := by
  unfold entUpd
  try dsimp -proj only
  repeat' first
    | with_reducible assumption
    | with_reducible apply Kept.refl
    | with_reducible apply Kept.ite
    | with_reducible apply Kept.by' (chanUpd_k _ _ _)
    | apply rfl
    | (with_reducible refine Kept.by' (by with_reducible assumption) ?_ ?_)
    | split
theorem showTags_k (s : State) (a1) : Kept [.regs] s (showTags s a1) := by
  unfold showTags
  try dsimp -proj only
  repeat' first
    | with_reducible assumption
    | with_reducible apply Kept.refl
    | with_reducible apply Kept.ite
    | with_reducible apply Kept.by' (wrN_k _ _ _)
    | apply rfl
    | (with_reducible refine Kept.by' (by with_reducible assumption) ?_ ?_)
    | split
theorem newPkt_k (s : State) (a1) (a2) : Kept [.land] s (newPkt s a1 a2).1 := by
  unfold newPkt
  try dsimp -proj only
  repeat' first
    | with_reducible assumption
    | with_reducible apply Kept.refl
    | with_reducible apply Kept.ite
    | with_reducible apply Kept.ite1
    | with_reducible apply Kept.set_land
    | (refine Kept.of ⟨fun p hp => ?_⟩ rfl rfl rfl (congrArg AccSt.own rfl); cases p <;> first | rfl | cases hp)
    | dsimp only
    | apply rfl
    | (with_reducible refine Kept.by' (by with_reducible assumption) ?_ ?_)
    | split
theorem regAdd_k (s : State) (a1) (a2) : Kept [.regs] s (regAdd s a1 a2) := by
  unfold regAdd
  try dsimp -proj only
  repeat' first
    | with_reducible assumption
    | with_reducible apply Kept.refl
    | with_reducible apply Kept.ite
    | with_reducible apply Kept.by' (wrN_k _ _ _)
    | apply rfl
    | (with_reducible refine Kept.by' (by with_reducible assumption) ?_ ?_)
    | split
theorem regSub_k (s : State) (a1) (a2) : Kept [.regs] s (regSub s a1 a2) := by
  unfold regSub
  try dsimp -proj only
  repeat' first
    | with_reducible assumption
    | with_reducible apply Kept.refl
    | with_reducible apply Kept.ite
    | with_reducible apply Kept.by' (wrN_k _ _ _)
    | apply rfl
    | (with_reducible refine Kept.by' (by with_reducible assumption) ?_ ?_)
    | split
theorem txFinish_k (s : State) (a1) (a2) (a3) : Kept [.regs, .ch] s (txFinish s a1 a2 a3) := by
  unfold txFinish
  try dsimp -proj only
  repeat' first
    | with_reducible assumption
    | with_reducible apply Kept.refl
    | with_reducible apply Kept.ite
    | with_reducible apply Kept.ite2
    | with_reducible apply Kept.by' (finishEnt_k _ _ _ _)
    | apply rfl
    | (with_reducible refine Kept.by' (by with_reducible assumption) ?_ ?_)
    | split
theorem txIngress_k (s : State) (a1) (a2) : Kept [.regs, .ch] s (txIngress s a1 a2) := by
  unfold txIngress
  try dsimp -proj only
  repeat' first
    | with_reducible assumption
    | with_reducible apply Kept.refl
    | with_reducible apply Kept.ite
    | with_reducible apply Kept.by' (txFinish_k _ _ _ _)
    | apply rfl
    | (with_reducible refine Kept.by' (by with_reducible assumption) ?_ ?_)
    | split
theorem ctxPut_k (s : State) (a1) (a2) (a3) : Kept [.cy, .rm] s (ctxPut s a1 a2 a3) := by
  unfold ctxPut
  try dsimp -proj only
  repeat' first
    | with_reducible assumption
    | with_reducible apply Kept.refl
    | with_reducible apply Kept.ite
    | with_reducible apply Kept.by' (cyUpd_k _ _)
    | with_reducible apply Kept.set_cy
    | with_reducible apply Kept.set_rm
    | (refine Kept.of ⟨fun p hp => ?_⟩ rfl rfl rfl (congrArg AccSt.own rfl); cases p <;> first | rfl | cases hp)
    | apply rfl
    | (with_reducible refine Kept.by' (by with_reducible assumption) ?_ ?_)
    | split
theorem hitFollow_k (s : State) (a1) (a2) (a3) (a4) : Kept [.stairs] s (hitFollow s a1 a2 a3 a4) := by
  unfold hitFollow
  try dsimp -proj only
  repeat' first
    | with_reducible assumption
    | with_reducible apply Kept.refl
    | with_reducible apply Kept.ite
    | with_reducible apply Kept.ite1
    | with_reducible apply Kept.ite2
    | with_reducible apply Kept.by' (flightUpd_k _ _ _ _)
    | with_reducible apply Kept.foldl
    | with_reducible apply Kept.foldl1
    | (intro _; intros)
    | apply rfl
    | (with_reducible refine Kept.by' (by with_reducible assumption) ?_ ?_)
    | split
theorem nodeSet_k (s : State) (a1) (a2) (a3) : Kept [.land] s (nodeSet s a1 a2 a3) := by
  unfold nodeSet
  try dsimp -proj only
  repeat' first
    | with_reducible assumption
    | with_reducible apply Kept.refl
    | with_reducible apply Kept.ite
    | with_reducible apply Kept.set_land
    | (refine Kept.of ⟨fun p hp => ?_⟩ rfl rfl rfl (congrArg AccSt.own rfl); cases p <;> first | rfl | cases hp)
    | apply rfl
    | (with_reducible refine Kept.by' (by with_reducible assumption) ?_ ?_)
    | split
theorem nodeUpd_k (s : State) (a1) (a2) (a3) : Kept [.land] s (nodeUpd s a1 a2 a3) := by
  unfold nodeUpd
  try dsimp -proj only
  repeat' first
    | with_reducible assumption
    | with_reducible apply Kept.refl
    | with_reducible apply Kept.ite
    | with_reducible apply Kept.by' (nodeSet_k _ _ _ _)
    | apply rfl
    | (with_reducible refine Kept.by' (by with_reducible assumption) ?_ ?_)
    | split
theorem wr64_k (s : State) (a1) (a2) : Kept [.regs] s (wr64 s a1 a2) := by
  unfold wr64
  try dsimp -proj only
  repeat' first
    | with_reducible assumption
    | with_reducible apply Kept.refl
    | with_reducible apply Kept.ite
    | with_reducible apply Kept.by' (wrN_k _ _ _)
    | apply rfl
    | (with_reducible refine Kept.by' (by with_reducible assumption) ?_ ?_)
    | split
theorem tick_k (s : State) : Kept [.regs, .time] s (tick s) := by
  unfold tick
  try dsimp -proj only
  repeat' first
    | with_reducible assumption
    | with_reducible apply Kept.refl
    | with_reducible apply Kept.ite
    | with_reducible apply Kept.by' (wr64_k _ _ _)
    | with_reducible apply Kept.set_regs
    | with_reducible apply Kept.set_time
    | (refine Kept.of ⟨fun p hp => ?_⟩ rfl rfl rfl (congrArg AccSt.own rfl); cases p <;> first | rfl | cases hp)
    | exact fun h => aset_rising _ _ h
    | exact fun h => filter_rising _ h
    | exact fun h => h
    | apply rfl
    | (with_reducible refine Kept.by' (by with_reducible assumption) ?_ ?_)
    | split
theorem turnSettle_k (s : State) (a1) : Kept [.regs, .time, .land] s (turnSettle s a1) := by
  unfold turnSettle
  try dsimp -proj only
  repeat' first
    | with_reducible assumption
    | with_reducible apply Kept.refl
    | with_reducible apply Kept.ite
    | with_reducible apply Kept.by' (nodeUpd_k _ _ _ _)
    | with_reducible apply Kept.by' (tick_k _)
    | apply rfl
    | (with_reducible refine Kept.by' (by with_reducible assumption) ?_ ?_)
    | split
theorem adminEnt_k (s : State) (a1) (a2) : Kept [.ch] s (adminEnt s a1 a2) := by
  unfold adminEnt
  try dsimp -proj only
  repeat' first
    | with_reducible assumption
    | with_reducible apply Kept.refl
    | with_reducible apply Kept.ite
    | with_reducible apply Kept.by' (chanUpd_k _ _ _)
    | apply rfl
    | (with_reducible refine Kept.by' (by with_reducible assumption) ?_ ?_)
    | split
theorem flushIdle_k (s : State) (a1) : Kept [.regs, .ch] s (flushIdle s a1) := by
  unfold flushIdle
  try dsimp -proj only
  repeat' first
    | with_reducible assumption
    | with_reducible apply Kept.refl
    | with_reducible apply Kept.ite
    | with_reducible apply Kept.by' (finishEnt_k _ _ _ _)
    | with_reducible apply Kept.foldl
    | with_reducible apply Kept.foldl1
    | (intro _; intros)
    | apply rfl
    | (with_reducible refine Kept.by' (by with_reducible assumption) ?_ ?_)
    | split
theorem thTrap_k (s : State) (a1) (a2) (a3) : Kept [.tils, .out] s (thTrap s a1 a2 a3) := by
  unfold thTrap
  try dsimp -proj only
  repeat' first
    | with_reducible assumption
    | with_reducible apply Kept.refl
    | with_reducible apply Kept.ite
    | with_reducible apply Kept.by' (emit_k _ _)
    | with_reducible apply Kept.by' (thIssue_k _ _ _)
    | apply rfl
    | (with_reducible refine Kept.by' (by with_reducible assumption) ?_ ?_)
    | split
theorem tportSet_k (s : State) (a1) (a2) (a3) : Kept [.tils] s (tportSet s a1 a2 a3) := by
  unfold tportSet
  try dsimp -proj only
  repeat' first
    | with_reducible assumption
    | with_reducible apply Kept.refl
    | with_reducible apply Kept.ite
    | with_reducible apply Kept.by' (tilUpd_k _ _ _)
    | apply rfl
    | (with_reducible refine Kept.by' (by with_reducible assumption) ?_ ?_)
    | split
theorem showOpen_k (s : State) (a1) (a2) : Kept [.regs] s (showOpen s a1 a2) := by
  unfold showOpen
  try dsimp -proj only
  repeat' first
    | with_reducible assumption
    | with_reducible apply Kept.refl
    | with_reducible apply Kept.ite
    | with_reducible apply Kept.by' (wrF_k _ _ _ _ _)
    | apply rfl
    | (with_reducible refine Kept.by' (by with_reducible assumption) ?_ ?_)
    | split
theorem dropOpen_k (s : State) (a1) (a2) : Kept [.regs, .tils] s (dropOpen s a1 a2) := by
  unfold dropOpen
  try dsimp -proj only
  repeat' first
    | with_reducible assumption
    | with_reducible apply Kept.refl
    | with_reducible apply Kept.ite
    | with_reducible apply Kept.by' (tportSet_k _ _ _ _)
    | with_reducible apply Kept.by' (showOpen_k _ _ _)
    | apply rfl
    | (with_reducible refine Kept.by' (by with_reducible assumption) ?_ ?_)
    | split
theorem showFlight_k (s : State) : Kept [.regs] s (showFlight s) := by
  unfold showFlight
  try dsimp -proj only
  repeat' first
    | with_reducible assumption
    | with_reducible apply Kept.refl
    | with_reducible apply Kept.ite
    | with_reducible apply Kept.by' (wrN_k _ _ _)
    | apply rfl
    | (with_reducible refine Kept.by' (by with_reducible assumption) ?_ ?_)
    | split
theorem svUpd_k (s : State) (a1) : Kept [.sv] s (svUpd s a1) := by
  unfold svUpd
  try dsimp -proj only
  repeat' first
    | with_reducible assumption
    | with_reducible apply Kept.refl
    | with_reducible apply Kept.ite
    | with_reducible apply Kept.set_sv
    | (refine Kept.of ⟨fun p hp => ?_⟩ rfl rfl rfl (congrArg AccSt.own rfl); cases p <;> first | rfl | cases hp)
    | apply rfl
    | (with_reducible refine Kept.by' (by with_reducible assumption) ?_ ?_)
    | split
theorem cmdNew_k (s : State) (a1) : Kept [.regs, .sv] s (cmdNew s a1).2 := by
  unfold cmdNew
  try dsimp -proj only
  repeat' first
    | with_reducible assumption
    | with_reducible apply Kept.refl
    | with_reducible apply Kept.ite
    | with_reducible apply Kept.ite2
    | with_reducible apply Kept.by' (showFlight_k _)
    | with_reducible apply Kept.by' (svUpd_k _ _)
    | dsimp only
    | apply rfl
    | (with_reducible refine Kept.by' (by with_reducible assumption) ?_ ?_)
    | split
theorem stopPc_k (s : State) (a1) (a2) : Kept [.regs, .tils, .draws] s (stopPc s a1 a2) := by
  unfold stopPc
  try dsimp -proj only
  repeat' first
    | with_reducible assumption
    | with_reducible apply Kept.refl
    | with_reducible apply Kept.ite
    | with_reducible apply Kept.ite1
    | with_reducible apply Kept.ite2
    | with_reducible apply Kept.by' (draw_k _)
    | with_reducible apply Kept.by' (Kept.eq2 (draw_k _) (by assumption))
    | with_reducible apply Kept.by' (wr64_k _ _ _)
    | with_reducible apply Kept.by' (thUpd_k _ _ _ _)
    | apply rfl
    | (with_reducible refine Kept.by' (by with_reducible assumption) ?_ ?_)
    | split
theorem haltThread_k (s : State) (a1) (a2) : Kept [.regs, .tils, .draws] s (haltThread s a1 a2) := by
  unfold haltThread
  try dsimp -proj only
  repeat' first
    | with_reducible assumption
    | with_reducible apply Kept.refl
    | with_reducible apply Kept.ite
    | with_reducible apply Kept.by' (thSetState_k _ _ _ _)
    | with_reducible apply Kept.by' (stopPc_k _ _ _)
    | apply rfl
    | (with_reducible refine Kept.by' (by with_reducible assumption) ?_ ?_)
    | split
theorem resumeThread_k (s : State) (a1) (a2) : Kept [.regs, .tils, .out] s (resumeThread s a1 a2) := by
  unfold resumeThread
  try dsimp -proj only
  repeat' first
    | with_reducible assumption
    | with_reducible apply Kept.refl
    | with_reducible apply Kept.ite
    | with_reducible apply Kept.by' (chReply_k _ _ _ _ _)
    | with_reducible apply Kept.by' (thSetState_k _ _ _ _)
    | with_reducible apply Kept.by' (thIssue_k _ _ _)
    | apply rfl
    | (with_reducible refine Kept.by' (by with_reducible assumption) ?_ ?_)
    | split
theorem resetThread_k (s : State) (a1) (a2) : Kept [.regs, .tils] s (resetThread s a1 a2) := by
  unfold resetThread
  try dsimp -proj only
  repeat' first
    | with_reducible assumption
    | with_reducible apply Kept.refl
    | with_reducible apply Kept.ite
    | with_reducible apply Kept.by' (dropOpen_k _ _ _)
    | with_reducible apply Kept.by' (thUpd_k _ _ _ _)
    | with_reducible apply Kept.by' (wrF_k _ _ _ _ _)
    | with_reducible apply Kept.by' (thIssue_k _ _ _)
    | with_reducible apply Kept.by' (thSetState_k _ _ _ _)
    | with_reducible apply Kept.by' (wr64_k _ _ _)
    | with_reducible apply Kept.foldl
    | with_reducible apply Kept.foldl1
    | (intro _; intros)
    | apply rfl
    | (with_reducible refine Kept.by' (by with_reducible assumption) ?_ ?_)
    | split
theorem tagFree_k (s : State) (a1) (a2) : Kept [.regs, .host] s (tagFree s a1 a2) := by
  unfold tagFree
  try dsimp -proj only
  repeat' first
    | with_reducible assumption
    | with_reducible apply Kept.refl
    | with_reducible apply Kept.ite
    | with_reducible apply Kept.by' (showTags_k _ _)
    | with_reducible apply Kept.set_regs
    | with_reducible apply Kept.set_host
    | (refine Kept.of ⟨fun p hp => ?_⟩ rfl rfl rfl (congrArg AccSt.own rfl); cases p <;> first | rfl | cases hp)
    | exact fun h => aset_rising _ _ h
    | exact fun h => filter_rising _ h
    | exact fun h => h
    | apply rfl
    | (with_reducible refine Kept.by' (by with_reducible assumption) ?_ ?_)
    | split
theorem winDone_k (s : State) (a1) (a2) (a3) : Kept [.host] s (winDone s a1 a2 a3) := by
  unfold winDone
  try dsimp -proj only
  repeat' first
    | with_reducible assumption
    | with_reducible apply Kept.refl
    | with_reducible apply Kept.ite
    | with_reducible apply Kept.by' (fnUpd_k _ _ _ _)
    | (intro _; intros)
    | dsimp only
    | apply rfl
    | (with_reducible refine Kept.by' (by with_reducible assumption) ?_ ?_)
    | split
theorem peerAnswer_k (s : State) (a1) (a2) (a3) (a4) (a5) : Kept [.regs, .host, .out] s (peerAnswer s a1 a2 a3 a4 a5) := by
  unfold peerAnswer
  try dsimp -proj only
  repeat' first
    | with_reducible assumption
    | with_reducible apply Kept.refl
    | with_reducible apply Kept.ite
    | with_reducible apply Kept.by' (bump_k _ _ _)
    | with_reducible apply Kept.by' (emit_k _ _)
    | with_reducible apply Kept.by' (winDone_k _ _ _ _)
    | apply rfl
    | (with_reducible refine Kept.by' (by with_reducible assumption) ?_ ?_)
    | split
theorem failed_k (s : State) (a1) : Kept [] s (failed s a1).1 := by
  unfold failed
  try dsimp -proj only
  repeat' first
    | with_reducible assumption
    | with_reducible apply Kept.refl
    | with_reducible apply Kept.ite
    | with_reducible apply Kept.ite1
    | dsimp only
    | apply rfl
    | (with_reducible refine Kept.by' (by with_reducible assumption) ?_ ?_)
    | split
theorem aqFail_k (s : State) (a1) (a2) : Kept [.regs] s (aqFail s a1 a2) := by
  unfold aqFail
  try dsimp -proj only
  repeat' first
    | with_reducible assumption
    | with_reducible apply Kept.refl
    | with_reducible apply Kept.ite
    | with_reducible apply Kept.by' (wrN_k _ _ _)
    | with_reducible apply Kept.by' (wrF_k _ _ _ _ _)
    | apply rfl
    | (with_reducible refine Kept.by' (by with_reducible assumption) ?_ ?_)
    | split
theorem allocIndex_k (s : State) (a1) (a2) (a3) : Kept [.draws] s (allocIndex s a1 a2 a3).2 := by
  unfold allocIndex
  try dsimp -proj only
  repeat' first
    | with_reducible assumption
    | with_reducible apply Kept.refl
    | with_reducible apply Kept.ite
    | with_reducible apply Kept.ite1
    | with_reducible apply Kept.ite2
    | with_reducible apply Kept.by' (draw_k _)
    | with_reducible apply Kept.by' (Kept.eq2 (draw_k _) (by assumption))
    | dsimp only
    | apply rfl
    | (with_reducible refine Kept.by' (by with_reducible assumption) ?_ ?_)
    | split
theorem chanCreate_k (s : State) (a1) (a2) : Kept [.mem, .ch, .slices, .rm, .out, .draws] s (chanCreate s a1 a2).1 := by
  unfold chanCreate
  try dsimp -proj only
  repeat' first
    | with_reducible assumption
    | with_reducible apply Kept.refl
    | with_reducible apply Kept.ite
    | with_reducible apply Kept.ite1
    | with_reducible apply Kept.ite2
    | with_reducible apply Kept.by' (draw_k _)
    | with_reducible apply Kept.by' (Kept.eq2 (draw_k _) (by assumption))
    | with_reducible apply Kept.by' (rmUpd_k _ _)
    | with_reducible apply Kept.by' (mirrorWrite_k _ _)
    | with_reducible apply Kept.set_mem
    | with_reducible apply Kept.set_ch
    | with_reducible apply Kept.set_slices
    | with_reducible apply Kept.set_rm
    | with_reducible apply Kept.set_out
    | with_reducible apply Kept.set_draws
    | (refine Kept.of ⟨fun p hp => ?_⟩ rfl rfl rfl (congrArg AccSt.own rfl); cases p <;> first | rfl | cases hp)
    | dsimp only
    | exact fun h => memPuts_wf h
    | exact fun h => memClear_wf h
    | exact memPuts_wf (by assumption)
    | exact memClear_wf (by assumption)
    | exact fun h => filter_wf _ h
    | exact fun h => h
    | apply rfl
    | (with_reducible refine Kept.by' (by with_reducible assumption) ?_ ?_)
    | split
theorem raisePhase_k (s : State) (a1) (a2) (a3) : Kept [.regs, .ev] s (raisePhase s a1 a2 a3) := by
  unfold raisePhase
  try dsimp -proj only
  repeat' first
    | with_reducible assumption
    | with_reducible apply Kept.refl
    | with_reducible apply Kept.ite
    | with_reducible apply Kept.by' (raiseAt_k _ _ _ _ _)
    | apply rfl
    | (with_reducible refine Kept.by' (by with_reducible assumption) ?_ ?_)
    | split
theorem gmRetrain_k (s : State) (a1) (a2) : Kept [.regs] s (gmRetrain s a1 a2) := by
  unfold gmRetrain
  try dsimp -proj only
  repeat' first
    | with_reducible assumption
    | with_reducible apply Kept.refl
    | with_reducible apply Kept.ite
    | with_reducible apply Kept.by' (wrN_k _ _ _)
    | apply rfl
    | (with_reducible refine Kept.by' (by with_reducible assumption) ?_ ?_)
    | split
theorem setUse_k (s : State) (a1) (a2) : Kept [.land] s (setUse s a1 a2) := by
  unfold setUse
  try dsimp -proj only
  repeat' first
    | with_reducible assumption
    | with_reducible apply Kept.refl
    | with_reducible apply Kept.ite
    | with_reducible apply Kept.set_land
    | (refine Kept.of ⟨fun p hp => ?_⟩ rfl rfl rfl (congrArg AccSt.own rfl); cases p <;> first | rfl | cases hp)
    | apply rfl
    | (with_reducible refine Kept.by' (by with_reducible assumption) ?_ ?_)
    | split
theorem portSet_k (s : State) (a1) (a2) : Kept [.net] s (portSet s a1 a2) := by
  unfold portSet
  try dsimp -proj only
  repeat' first
    | with_reducible assumption
    | with_reducible apply Kept.refl
    | with_reducible apply Kept.ite
    | with_reducible apply Kept.set_net
    | (refine Kept.of ⟨fun p hp => ?_⟩ rfl rfl rfl (congrArg AccSt.own rfl); cases p <;> first | rfl | cases hp)
    | apply rfl
    | (with_reducible refine Kept.by' (by with_reducible assumption) ?_ ?_)
    | split
theorem bump64_k (s : State) (a1) (a2) : Kept [.regs] s (bump64 s a1 a2) := by
  unfold bump64
  try dsimp -proj only
  repeat' first
    | with_reducible assumption
    | with_reducible apply Kept.refl
    | with_reducible apply Kept.ite
    | with_reducible apply Kept.by' (wr64_k _ _ _)
    | apply rfl
    | (with_reducible refine Kept.by' (by with_reducible assumption) ?_ ?_)
    | split
theorem portCnt_k (s : State) (a1) (a2) (a3) : Kept [.regs] s (portCnt s a1 a2 a3) := by
  unfold portCnt
  try dsimp -proj only
  repeat' first
    | with_reducible assumption
    | with_reducible apply Kept.refl
    | with_reducible apply Kept.ite
    | with_reducible apply Kept.by' (bump64_k _ _ _)
    | apply rfl
    | (with_reducible refine Kept.by' (by with_reducible assumption) ?_ ?_)
    | split
theorem portUpd_k (s : State) (a1) (a2) : Kept [.net] s (portUpd s a1 a2) := by
  unfold portUpd
  try dsimp -proj only
  repeat' first
    | with_reducible assumption
    | with_reducible apply Kept.refl
    | with_reducible apply Kept.ite
    | with_reducible apply Kept.by' (portSet_k _ _ _)
    | apply rfl
    | (with_reducible refine Kept.by' (by with_reducible assumption) ?_ ?_)
    | split
theorem controlFrame_k (s : State) (a1) (a2) : Kept [.regs, .net, .out] s (controlFrame s a1 a2) := by
  unfold controlFrame
  try dsimp -proj only
  repeat' first
    | with_reducible assumption
    | with_reducible apply Kept.refl
    | with_reducible apply Kept.ite
    | with_reducible apply Kept.ite1
    | with_reducible apply Kept.ite2
    | with_reducible apply Kept.by' (bump_k _ _ _)
    | with_reducible apply Kept.by' (emit_k _ _)
    | with_reducible apply Kept.by' (portUpd_k _ _ _)
    | with_reducible apply Kept.by' (portCnt_k _ _ _ _)
    | with_reducible apply Kept.foldl
    | with_reducible apply Kept.foldl1
    | (intro _; intros)
    | with_reducible apply Kept.getD
    | dsimp only
    | apply rfl
    | (with_reducible refine Kept.by' (by with_reducible assumption) ?_ ?_)
    | split
theorem xoffSet_k (s : State) (a1) (a2) (a3) : Kept [.regs, .net] s (xoffSet s a1 a2 a3) := by
  unfold xoffSet
  try dsimp -proj only
  repeat' first
    | with_reducible assumption
    | with_reducible apply Kept.refl
    | with_reducible apply Kept.ite
    | with_reducible apply Kept.ite2
    | with_reducible apply Kept.by' (wrF_k _ _ _ _ _)
    | with_reducible apply Kept.by' (portSet_k _ _ _)
    | with_reducible apply Kept.by' (portUpd_k _ _ _)
    | (intro _; intros)
    | with_reducible apply Kept.getD
    | dsimp only
    | apply rfl
    | (with_reducible refine Kept.by' (by with_reducible assumption) ?_ ?_)
    | split
theorem txGone_k (s : State) (a1) (a2) : Kept [.regs, .ch] s (txGone s a1 a2) := by
  unfold txGone
  try dsimp -proj only
  repeat' first
    | with_reducible assumption
    | with_reducible apply Kept.refl
    | with_reducible apply Kept.ite
    | with_reducible apply Kept.by' (txFinish_k _ _ _ _)
    | apply rfl
    | (with_reducible refine Kept.by' (by with_reducible assumption) ?_ ?_)
    | split
theorem releaseRkey_k (s : State) (a1) : Kept [.rm] s (releaseRkey s a1) := by
  unfold releaseRkey
  try dsimp -proj only
  repeat' first
    | with_reducible assumption
    | with_reducible apply Kept.refl
    | with_reducible apply Kept.ite
    | with_reducible apply Kept.by' (regionUnref_k _ _)
    | apply rfl
    | (with_reducible refine Kept.by' (by with_reducible assumption) ?_ ?_)
    | split
theorem depRelease_k (s : State) (a1) : Kept [.regs] s (depRelease s a1) := by
  unfold depRelease
  try dsimp -proj only
  repeat' first
    | with_reducible assumption
    | with_reducible apply Kept.refl
    | with_reducible apply Kept.ite
    | with_reducible apply Kept.by' (regSub_k _ _ _)
    | apply rfl
    | (with_reducible refine Kept.by' (by with_reducible assumption) ?_ ?_)
    | split
theorem nodeTally_k (s : State) (a1) (a2) : Kept [.land] s (nodeTally s a1 a2) := by
  unfold nodeTally
  try dsimp -proj only
  repeat' first
    | with_reducible assumption
    | with_reducible apply Kept.refl
    | with_reducible apply Kept.ite
    | with_reducible apply Kept.by' (nodeUpd_k _ _ _ _)
    | apply rfl
    | (with_reducible refine Kept.by' (by with_reducible assumption) ?_ ?_)
    | split
theorem lateMark_k (s : State) (a1) (a2) : Kept [.time] s (lateMark s a1 a2) := by
  unfold lateMark
  try dsimp -proj only
  repeat' first
    | with_reducible assumption
    | with_reducible apply Kept.refl
    | with_reducible apply Kept.ite
    | with_reducible apply Kept.set_time
    | (refine Kept.of ⟨fun p hp => ?_⟩ rfl rfl rfl (congrArg AccSt.own rfl); cases p <;> first | rfl | cases hp)
    | apply rfl
    | (with_reducible refine Kept.by' (by with_reducible assumption) ?_ ?_)
    | split
theorem glError_k (s : State) (a1) (a2) : Kept [.regs] s (glError s a1 a2) := by
  unfold glError
  try dsimp -proj only
  repeat' first
    | with_reducible assumption
    | with_reducible apply Kept.refl
    | with_reducible apply Kept.ite
    | with_reducible apply Kept.by' (wrN_k _ _ _)
    | with_reducible apply Kept.by' (wrF_k _ _ _ _ _)
    | dsimp only
    | apply rfl
    | (with_reducible refine Kept.by' (by with_reducible assumption) ?_ ?_)
    | split
theorem badAccess_k (s : State) (a1) (a2) : Kept [.regs, .ev] s (badAccess s a1 a2) := by
  unfold badAccess
  try dsimp -proj only
  repeat' first
    | with_reducible assumption
    | with_reducible apply Kept.refl
    | with_reducible apply Kept.ite
    | with_reducible apply Kept.by' (raise_k _ _ _)
    | with_reducible apply Kept.by' (glError_k _ _ _)
    | dsimp only
    | apply rfl
    | (with_reducible refine Kept.by' (by with_reducible assumption) ?_ ?_)
    | split
theorem laneOverrun_k (s : State) (a1) (a2) : Kept [.regs] s (laneOverrun s a1 a2) := by
  unfold laneOverrun
  try dsimp -proj only
  repeat' first
    | with_reducible assumption
    | with_reducible apply Kept.refl
    | with_reducible apply Kept.ite
    | with_reducible apply Kept.by' (wrF_k _ _ _ _ _)
    | apply rfl
    | (with_reducible refine Kept.by' (by with_reducible assumption) ?_ ?_)
    | split
theorem loHold_k (s : State) (a1) (a2) (a3) : Kept [.acc] s (loHold s a1 a2 a3) := by
  unfold loHold
  try dsimp -proj only
  repeat' first
    | with_reducible assumption
    | with_reducible apply Kept.refl
    | with_reducible apply Kept.ite
    | with_reducible apply Kept.set_acc
    | exact fun h => h
    | exact fun _ => rfl
    | assumption
    | (refine Kept.of ⟨fun p hp => ?_⟩ rfl rfl rfl (congrArg AccSt.own rfl); cases p <;> first | rfl | cases hp)
    | apply rfl
    | (with_reducible refine Kept.by' (by with_reducible assumption) ?_ ?_)
    | split
theorem regStore_k (s : State) (a1) (a2) : Kept [.regs] s (regStore s a1 a2) := by
  unfold regStore
  try dsimp -proj only
  repeat' first
    | with_reducible assumption
    | with_reducible apply Kept.refl
    | with_reducible apply Kept.ite
    | with_reducible apply Kept.by' (wrN_k _ _ _)
    | apply rfl
    | (with_reducible refine Kept.by' (by with_reducible assumption) ?_ ?_)
    | split
theorem loTake_k (s : State) (a1) (a2) : Kept [.acc] s (loTake s a1 a2).2 := by
  unfold loTake
  try dsimp -proj only
  repeat' first
    | with_reducible assumption
    | with_reducible apply Kept.refl
    | with_reducible apply Kept.ite
    | with_reducible apply Kept.ite2
    | with_reducible apply Kept.set_acc
    | exact fun h => h
    | exact fun _ => rfl
    | assumption
    | (refine Kept.of ⟨fun p hp => ?_⟩ rfl rfl rfl (congrArg AccSt.own rfl); cases p <;> first | rfl | cases hp)
    | dsimp only
    | apply rfl
    | (with_reducible refine Kept.by' (by with_reducible assumption) ?_ ?_)
    | split
theorem loCommit_k (s : State) (a1) (a2) : Kept [.regs, .acc] s (loCommit s a1 a2) := by
  unfold loCommit
  try dsimp -proj only
  repeat' first
    | with_reducible assumption
    | with_reducible apply Kept.refl
    | with_reducible apply Kept.ite
    | with_reducible apply Kept.by' (loTake_k _ _ _)
    | with_reducible apply Kept.by' (Kept.eq2 (loTake_k _ _ _) (by assumption))
    | with_reducible apply Kept.by' (wr_k _ _ _)
    | apply rfl
    | (with_reducible refine Kept.by' (by with_reducible assumption) ?_ ?_)
    | split
theorem hiCommit_k (s : State) (a1) (a2) : Kept [.regs, .acc] s (hiCommit s a1 a2) := by
  unfold hiCommit
  try dsimp -proj only
  repeat' first
    | with_reducible assumption
    | with_reducible apply Kept.refl
    | with_reducible apply Kept.ite
    | with_reducible apply Kept.by' (loCommit_k _ _ _)
    | apply rfl
    | (with_reducible refine Kept.by' (by with_reducible assumption) ?_ ?_)
    | split
theorem closeWindow_k (s : State) : Kept [.acc] s (closeWindow s) := by
  unfold closeWindow
  try dsimp -proj only
  repeat' first
    | with_reducible assumption
    | with_reducible apply Kept.refl
    | with_reducible apply Kept.ite
    | with_reducible apply Kept.set_acc
    | exact fun h => h
    | exact fun _ => rfl
    | assumption
    | (refine Kept.of ⟨fun p hp => ?_⟩ rfl rfl rfl (congrArg AccSt.own rfl); cases p <;> first | rfl | cases hp)
    | apply rfl
    | (with_reducible refine Kept.by' (by with_reducible assumption) ?_ ?_)
    | split
theorem unlockWrite_k (s : State) (a1) (a2) : Kept [.regs, .acc] s (unlockWrite s a1 a2) := by
  unfold unlockWrite
  try dsimp -proj only
  repeat' first
    | with_reducible assumption
    | with_reducible apply Kept.refl
    | with_reducible apply Kept.ite
    | with_reducible apply Kept.by' (glError_k _ _ _)
    | with_reducible apply Kept.by' (closeWindow_k _)
    | with_reducible apply Kept.set_regs
    | with_reducible apply Kept.set_acc
    | exact fun h => h
    | exact fun _ => rfl
    | assumption
    | (refine Kept.of ⟨fun p hp => ?_⟩ rfl rfl rfl (congrArg AccSt.own rfl); cases p <;> first | rfl | cases hp)
    | exact fun h => aset_rising _ _ h
    | exact fun h => filter_rising _ h
    | exact fun h => h
    | apply rfl
    | (with_reducible refine Kept.by' (by with_reducible assumption) ?_ ?_)
    | split
theorem bankSwap_k (s : State) (a1) (a2) : Kept [.stairs] s (bankSwap s a1 a2) := by
  unfold bankSwap
  try dsimp -proj only
  repeat' first
    | with_reducible assumption
    | with_reducible apply Kept.refl
    | with_reducible apply Kept.ite
    | with_reducible apply Kept.ite1
    | with_reducible apply Kept.by' (flightUpd_k _ _ _ _)
    | with_reducible apply Kept.foldl
    | with_reducible apply Kept.foldl1
    | (intro _; intros)
    | apply rfl
    | (with_reducible refine Kept.by' (by with_reducible assumption) ?_ ?_)
    | split
theorem raiseLate_k (s : State) (a1) (a2) (a3) : Kept [.regs, .ev] s (raiseLate s a1 a2 a3) := by
  unfold raiseLate
  try dsimp -proj only
  repeat' first
    | with_reducible assumption
    | with_reducible apply Kept.refl
    | with_reducible apply Kept.ite
    | with_reducible apply Kept.by' (raiseAt_k _ _ _ _ _)
    | apply rfl
    | (with_reducible refine Kept.by' (by with_reducible assumption) ?_ ?_)
    | split
theorem snapAtCtl_k (s : State) (a1) : Kept [.regs, .time] s (snapAtCtl s a1) := by
  unfold snapAtCtl
  try dsimp -proj only
  repeat' first
    | with_reducible assumption
    | with_reducible apply Kept.refl
    | with_reducible apply Kept.ite
    | with_reducible apply Kept.by' (wrN_k _ _ _)
    | with_reducible apply Kept.by' (lateMark_k _ _ _)
    | apply rfl
    | (with_reducible refine Kept.by' (by with_reducible assumption) ?_ ?_)
    | split
theorem ozUpd_k (s : State) (a1) (h : OzLe s.oz (a1 s.oz)) : Kept [.oz] s (ozUpd s a1) := Kept.set_oz Kept.refl rfl h
theorem drive_k (s : State) (a1) (a2) (a3) : Kept [.out] s (drive s a1 a2 a3) := by
  unfold drive
  try dsimp -proj only
  repeat' first
    | with_reducible assumption
    | with_reducible apply Kept.refl
    | with_reducible apply Kept.ite
    | with_reducible apply Kept.by' (emit_k _ _)
    | apply rfl
    | (with_reducible refine Kept.by' (by with_reducible assumption) ?_ ?_)
    | split
theorem resetPins_k (s : State) (a1) : Kept [.out] s (resetPins s a1) := by
  unfold resetPins
  try dsimp -proj only
  repeat' first
    | with_reducible assumption
    | with_reducible apply Kept.refl
    | with_reducible apply Kept.ite
    | with_reducible apply Kept.by' (drive_k _ _ _ _)
    | with_reducible apply Kept.foldl
    | with_reducible apply Kept.foldl1
    | (intro _; intros)
    | apply rfl
    | (with_reducible refine Kept.by' (by with_reducible assumption) ?_ ?_)
    | split
theorem resetLines_k (s : State) (a1) : Kept [.out] s (resetLines s a1) := by
  unfold resetLines
  try dsimp -proj only
  repeat' first
    | with_reducible assumption
    | with_reducible apply Kept.refl
    | with_reducible apply Kept.ite
    | with_reducible apply Kept.ite1
    | with_reducible apply Kept.ite2
    | with_reducible apply Kept.by' (emit_k _ _)
    | with_reducible apply Kept.foldl
    | with_reducible apply Kept.foldl1
    | (intro _; intros)
    | apply rfl
    | (with_reducible refine Kept.by' (by with_reducible assumption) ?_ ?_)
    | split
theorem setRate_k (s : State) (a1) : Kept [.regs, .time] s (setRate s a1) := by
  unfold setRate
  try dsimp -proj only
  repeat' first
    | with_reducible assumption
    | with_reducible apply Kept.refl
    | with_reducible apply Kept.ite
    | with_reducible apply Kept.by' (wrN_k _ _ _)
    | with_reducible apply Kept.by' (wrF_k _ _ _ _ _)
    | with_reducible apply Kept.set_regs
    | with_reducible apply Kept.set_time
    | (refine Kept.of ⟨fun p hp => ?_⟩ rfl rfl rfl (congrArg AccSt.own rfl); cases p <;> first | rfl | cases hp)
    | exact fun h => aset_rising _ _ h
    | exact fun h => filter_rising _ h
    | exact fun h => h
    | apply rfl
    | (with_reducible refine Kept.by' (by with_reducible assumption) ?_ ?_)
    | split
theorem setFtState_k (s : State) (a1) : Kept [.regs, .ev] s (setFtState s a1) := by
  unfold setFtState
  try dsimp -proj only
  repeat' first
    | with_reducible assumption
    | with_reducible apply Kept.refl
    | with_reducible apply Kept.ite
    | with_reducible apply Kept.by' (raise_k _ _ _)
    | with_reducible apply Kept.by' (wrF_k _ _ _ _ _)
    | apply rfl
    | (with_reducible refine Kept.by' (by with_reducible assumption) ?_ ?_)
    | split
theorem sourceLost_k (s : State) (a1) : Kept [.regs, .time, .ev] s (sourceLost s a1) := by
  unfold sourceLost
  try dsimp -proj only
  repeat' first
    | with_reducible assumption
    | with_reducible apply Kept.refl
    | with_reducible apply Kept.ite
    | with_reducible apply Kept.by' (raise_k _ _ _)
    | with_reducible apply Kept.by' (setRate_k _ _)
    | with_reducible apply Kept.by' (setFtState_k _ _)
    | apply rfl
    | (with_reducible refine Kept.by' (by with_reducible assumption) ?_ ?_)
    | split
theorem ptmCheck_k (s : State) : Kept [.regs, .time, .ev] s (ptmCheck s) := by
  unfold ptmCheck
  try dsimp -proj only
  repeat' first
    | with_reducible assumption
    | with_reducible apply Kept.refl
    | with_reducible apply Kept.ite
    | with_reducible apply Kept.by' (sourceLost_k _ _)
    | dsimp only
    | apply rfl
    | (with_reducible refine Kept.by' (by with_reducible assumption) ?_ ?_)
    | split
theorem sourceCheck_k (s : State) : Kept [.regs, .time, .ev] s (sourceCheck s) := by
  unfold sourceCheck
  try dsimp -proj only
  repeat' first
    | with_reducible assumption
    | with_reducible apply Kept.refl
    | with_reducible apply Kept.ite
    | with_reducible apply Kept.by' (sourceLost_k _ _)
    | with_reducible apply Kept.by' (ptmCheck_k _)
    | dsimp only
    | apply rfl
    | (with_reducible refine Kept.by' (by with_reducible assumption) ?_ ?_)
    | split
theorem srcCtlApply_k (s : State) (a1) : Kept [.regs, .time, .ev] s (srcCtlApply s a1) := by
  unfold srcCtlApply
  try dsimp -proj only
  repeat' first
    | with_reducible assumption
    | with_reducible apply Kept.refl
    | with_reducible apply Kept.ite
    | with_reducible apply Kept.by' (wr_k _ _ _)
    | with_reducible apply Kept.by' (setFtState_k _ _)
    | with_reducible apply Kept.by' (setRate_k _ _)
    | with_reducible apply Kept.by' (sourceCheck_k _)
    | dsimp only
    | apply rfl
    | (with_reducible refine Kept.by' (by with_reducible assumption) ?_ ?_)
    | split
    | with_reducible apply Kept.set_time
theorem srcCtlWrite_k (s : State) (a1) (a2) : Kept [.regs, .time, .ev] s (srcCtlWrite s a1 a2) := by
  unfold srcCtlWrite
  try dsimp -proj only
  repeat' first
    | with_reducible assumption
    | with_reducible apply Kept.refl
    | with_reducible apply Kept.ite
    | with_reducible apply Kept.by' (badAccess_k _ _ _)
    | with_reducible apply Kept.by' (srcCtlApply_k _ _)
    | apply rfl
    | (with_reducible refine Kept.by' (by with_reducible assumption) ?_ ?_)
    | split
theorem freqAdjWrite_k (s : State) (a1) : Kept [.regs, .time] s (freqAdjWrite s a1) := by
  unfold freqAdjWrite
  try dsimp -proj only
  repeat' first
    | with_reducible assumption
    | with_reducible apply Kept.refl
    | with_reducible apply Kept.ite
    | with_reducible apply Kept.by' (wr_k _ _ _)
    | with_reducible apply Kept.by' (setRate_k _ _)
    | dsimp only
    | apply rfl
    | (with_reducible refine Kept.by' (by with_reducible assumption) ?_ ?_)
    | split
theorem lockUpdate_k (s : State) (a1) : Kept [.regs, .time, .ev] s (lockUpdate s a1) := by
  unfold lockUpdate
  try dsimp -proj only
  repeat' first
    | with_reducible assumption
    | with_reducible apply Kept.refl
    | with_reducible apply Kept.ite
    | with_reducible apply Kept.by' (setFtState_k _ _)
    | with_reducible apply Kept.set_regs
    | with_reducible apply Kept.set_time
    | with_reducible apply Kept.set_ev
    | (refine Kept.of ⟨fun p hp => ?_⟩ rfl rfl rfl (congrArg AccSt.own rfl); cases p <;> first | rfl | cases hp)
    | exact fun h => aset_rising _ _ h
    | exact fun h => filter_rising _ h
    | exact fun h => h
    | apply rfl
    | (with_reducible refine Kept.by' (by with_reducible assumption) ?_ ?_)
    | split
theorem servoLoop_k (s : State) (a1) : Kept [.regs, .time, .ev] s (servoLoop s a1) := by
  unfold servoLoop
  try dsimp -proj only
  repeat' first
    | with_reducible assumption
    | with_reducible apply Kept.refl
    | with_reducible apply Kept.ite
    | with_reducible apply Kept.by' (raise_k _ _ _)
    | with_reducible apply Kept.by' (setRate_k _ _)
    | with_reducible apply Kept.set_regs
    | with_reducible apply Kept.set_time
    | with_reducible apply Kept.set_ev
    | (refine Kept.of ⟨fun p hp => ?_⟩ rfl rfl rfl (congrArg AccSt.own rfl); cases p <;> first | rfl | cases hp)
    | exact fun h => aset_rising _ _ h
    | exact fun h => filter_rising _ h
    | exact fun h => h
    | apply rfl
    | (with_reducible refine Kept.by' (by with_reducible assumption) ?_ ?_)
    | split
theorem phaseAlarm_k (s : State) (a1) : Kept [.regs, .ev] s (phaseAlarm s a1) := by
  unfold phaseAlarm
  try dsimp -proj only
  repeat' first
    | with_reducible assumption
    | with_reducible apply Kept.refl
    | with_reducible apply Kept.ite
    | with_reducible apply Kept.by' (raise_k _ _ _)
    | dsimp only
    | apply rfl
    | (with_reducible refine Kept.by' (by with_reducible assumption) ?_ ?_)
    | split
theorem sampleTaken_k (s : State) : Kept [.regs, .time, .ev] s (sampleTaken s) := by
  unfold sampleTaken
  try dsimp -proj only
  repeat' first
    | with_reducible assumption
    | with_reducible apply Kept.refl
    | with_reducible apply Kept.ite
    | with_reducible apply Kept.by' (wr64_k _ _ _)
    | with_reducible apply Kept.by' (setFtState_k _ _)
    | dsimp only
    | apply rfl
    | (with_reducible refine Kept.by' (by with_reducible assumption) ?_ ?_)
    | split
    | with_reducible apply Kept.set_time
theorem phaseSample_k (s : State) (a1) : Kept [.regs, .time, .ev] s (phaseSample s a1) := by
  unfold phaseSample
  try dsimp -proj only
  repeat' first
    | with_reducible assumption
    | with_reducible apply Kept.refl
    | with_reducible apply Kept.ite
    | with_reducible apply Kept.by' (servoLoop_k _ _)
    | with_reducible apply Kept.by' (lockUpdate_k _ _)
    | with_reducible apply Kept.by' (phaseAlarm_k _ _)
    | with_reducible apply Kept.by' (sampleTaken_k _)
    | dsimp only
    | apply rfl
    | (with_reducible refine Kept.by' (by with_reducible assumption) ?_ ?_)
    | split
    | with_reducible apply Kept.set_time
theorem phaseSubmit_k (s : State) (a1) (a2) : Kept [.regs, .time, .acc, .ev] s (phaseSubmit s a1 a2) := by
  unfold phaseSubmit
  try dsimp -proj only
  repeat' first
    | with_reducible assumption
    | with_reducible apply Kept.refl
    | with_reducible apply Kept.ite
    | with_reducible apply Kept.ite1
    | with_reducible apply Kept.ite2
    | with_reducible apply Kept.by' (loTake_k _ _ _)
    | with_reducible apply Kept.by' (Kept.eq2 (loTake_k _ _ _) (by assumption))
    | with_reducible apply Kept.by' (phaseSample_k _ _)
    | apply rfl
    | (with_reducible refine Kept.by' (by with_reducible assumption) ?_ ?_)
    | split
theorem ppsCtl_k (s : State) (a1) : Kept [.regs, .time, .out] s (ppsCtl s a1) := by
  unfold ppsCtl
  try dsimp -proj only
  repeat' first
    | with_reducible assumption
    | with_reducible apply Kept.refl
    | with_reducible apply Kept.ite
    | with_reducible apply Kept.by' (drive_k _ _ _ _)
    | with_reducible apply Kept.by' (plainWrite_k _ _ _ _)
    | dsimp only
    | apply rfl
    | (with_reducible refine Kept.by' (by with_reducible assumption) ?_ ?_)
    | split
    | with_reducible apply Kept.set_time
theorem showSnapAt_k (s : State) (a1) : Kept [.regs] s (showSnapAt s a1) := by
  unfold showSnapAt
  try dsimp -proj only
  repeat' first
    | with_reducible assumption
    | with_reducible apply Kept.refl
    | with_reducible apply Kept.ite
    | with_reducible apply Kept.by' (wrF_k _ _ _ _ _)
    | with_reducible apply Kept.by' (wr64_k _ _ _)
    | apply rfl
    | (with_reducible refine Kept.by' (by with_reducible assumption) ?_ ?_)
    | split
theorem armSnap_k (s : State) : Kept [.regs, .time] s (armSnap s) := by
  unfold armSnap
  try dsimp -proj only
  repeat' first
    | with_reducible assumption
    | with_reducible apply Kept.refl
    | with_reducible apply Kept.ite
    | with_reducible apply Kept.by' (showSnapAt_k _ _)
    | with_reducible apply Kept.set_regs
    | with_reducible apply Kept.set_time
    | (refine Kept.of ⟨fun p hp => ?_⟩ rfl rfl rfl (congrArg AccSt.own rfl); cases p <;> first | rfl | cases hp)
    | exact fun h => aset_rising _ _ h
    | exact fun h => filter_rising _ h
    | exact fun h => h
    | apply rfl
    | (with_reducible refine Kept.by' (by with_reducible assumption) ?_ ?_)
    | split
theorem armRec_k (s : State) : Kept [.time] s (armRec s) := by
  unfold armRec
  try dsimp -proj only
  repeat' first
    | with_reducible assumption
    | with_reducible apply Kept.refl
    | with_reducible apply Kept.ite
    | with_reducible apply Kept.set_time
    | (refine Kept.of ⟨fun p hp => ?_⟩ rfl rfl rfl (congrArg AccSt.own rfl); cases p <;> first | rfl | cases hp)
    | apply rfl
    | (with_reducible refine Kept.by' (by with_reducible assumption) ?_ ?_)
    | split
theorem epochChanged_k (s : State) : Kept [.regs, .time] s (epochChanged s) := by
  unfold epochChanged
  try dsimp -proj only
  repeat' first
    | with_reducible assumption
    | with_reducible apply Kept.refl
    | with_reducible apply Kept.ite
    | with_reducible apply Kept.by' (armSnap_k _)
    | with_reducible apply Kept.by' (armRec_k _)
    | apply rfl
    | (with_reducible refine Kept.by' (by with_reducible assumption) ?_ ?_)
    | split
theorem ractCtl_k (s : State) (a1) (a2) : Kept [.regs, .time] s (ractCtl s a1 a2) := by
  unfold ractCtl
  try dsimp -proj only
  repeat' first
    | with_reducible assumption
    | with_reducible apply Kept.refl
    | with_reducible apply Kept.ite
    | with_reducible apply Kept.by' (wrN_k _ _ _)
    | with_reducible apply Kept.by' (lateMark_k _ _ _)
    | dsimp only
    | apply rfl
    | (with_reducible refine Kept.by' (by with_reducible assumption) ?_ ?_)
    | split
theorem ftEffect_k (s : State) (a1) (a2) (a3) : Kept [.regs, .time, .acc, .ev, .out] s (ftEffect s a1 a2 a3) := by
  unfold ftEffect
  try dsimp -proj only
  repeat' first
    | with_reducible assumption
    | with_reducible apply Kept.refl
    | with_reducible apply Kept.ite
    | with_reducible apply Kept.by' (srcCtlWrite_k _ _ _)
    | with_reducible apply Kept.by' (freqAdjWrite_k _ _)
    | with_reducible apply Kept.by' (phaseSubmit_k _ _ _)
    | with_reducible apply Kept.by' (ppsCtl_k _ _)
    | with_reducible apply Kept.by' (epochChanged_k _)
    | with_reducible apply Kept.by' (regStore_k _ _ _)
    | with_reducible apply Kept.by' (ractCtl_k _ _ _)
    | apply rfl
    | (with_reducible refine Kept.by' (by with_reducible assumption) ?_ ?_)
    | split
theorem mbEnd_k (s : State) (a1) (a2) : Kept [.regs] s (mbEnd s a1 a2) := by
  unfold mbEnd
  try dsimp -proj only
  repeat' first
    | with_reducible assumption
    | with_reducible apply Kept.refl
    | with_reducible apply Kept.ite
    | with_reducible apply Kept.by' (wrN_k _ _ _)
    | with_reducible apply Kept.by' (wrF_k _ _ _ _ _)
    | with_reducible apply Kept.foldl
    | with_reducible apply Kept.foldl1
    | (intro _; intros)
    | apply rfl
    | (with_reducible refine Kept.by' (by with_reducible assumption) ?_ ?_)
    | split
theorem unitRefuse_k (s : State) (a1) : Kept [.regs] s (unitRefuse s a1) := by
  unfold unitRefuse
  try dsimp -proj only
  repeat' first
    | with_reducible assumption
    | with_reducible apply Kept.refl
    | with_reducible apply Kept.ite
    | with_reducible apply Kept.by' (wrF_k _ _ _ _ _)
    | apply rfl
    | (with_reducible refine Kept.by' (by with_reducible assumption) ?_ ?_)
    | split
theorem setUnitCause_k (s : State) (a1) (a2) : Kept [.regs] s (setUnitCause s a1 a2) := by
  unfold setUnitCause
  try dsimp -proj only
  repeat' first
    | with_reducible assumption
    | with_reducible apply Kept.refl
    | with_reducible apply Kept.ite
    | with_reducible apply Kept.by' (wrF_k _ _ _ _ _)
    | apply rfl
    | (with_reducible refine Kept.by' (by with_reducible assumption) ?_ ?_)
    | split
theorem setUnitState_k (s : State) (a1) (a2) : Kept [.regs] s (setUnitState s a1 a2) := by
  unfold setUnitState
  try dsimp -proj only
  repeat' first
    | with_reducible assumption
    | with_reducible apply Kept.refl
    | with_reducible apply Kept.ite
    | with_reducible apply Kept.by' (wrF_k _ _ _ _ _)
    | apply rfl
    | (with_reducible refine Kept.by' (by with_reducible assumption) ?_ ?_)
    | split
theorem unitUpd_k (s : State) (a1) : Kept [.unit] s (unitUpd s a1) := by
  unfold unitUpd
  try dsimp -proj only
  repeat' first
    | with_reducible assumption
    | with_reducible apply Kept.refl
    | with_reducible apply Kept.ite
    | with_reducible apply Kept.set_unit
    | (refine Kept.of ⟨fun p hp => ?_⟩ rfl rfl rfl (congrArg AccSt.own rfl); cases p <;> first | rfl | cases hp)
    | apply rfl
    | (with_reducible refine Kept.by' (by with_reducible assumption) ?_ ?_)
    | split
theorem sheafUpd_k (s : State) (a1) : Kept [.sheaf] s (sheafUpd s a1) := by
  unfold sheafUpd
  try dsimp -proj only
  repeat' first
    | with_reducible assumption
    | with_reducible apply Kept.refl
    | with_reducible apply Kept.ite
    | with_reducible apply Kept.set_sheaf
    | (refine Kept.of ⟨fun p hp => ?_⟩ rfl rfl rfl (congrArg AccSt.own rfl); cases p <;> first | rfl | cases hp)
    | apply rfl
    | (with_reducible refine Kept.by' (by with_reducible assumption) ?_ ?_)
    | split
theorem rhEnd_k (s : State) (a1) : Kept [.regs, .ev, .stairs, .sheaf] s (rhEnd s a1) := by
  unfold rhEnd
  try dsimp -proj only
  repeat' first
    | with_reducible assumption
    | with_reducible apply Kept.refl
    | with_reducible apply Kept.ite
    | with_reducible apply Kept.by' (wrF_k _ _ _ _ _)
    | with_reducible apply Kept.by' (stairUpd_k _ _ _)
    | with_reducible apply Kept.by' (sheafUpd_k _ _)
    | with_reducible apply Kept.by' (raise_k _ _ _)
    | apply rfl
    | (with_reducible refine Kept.by' (by with_reducible assumption) ?_ ?_)
    | split
theorem unitRegsReset_k (s : State) (a1) : Kept [.regs] s (unitRegsReset s a1) := by
  unfold unitRegsReset
  exact Kept.set_regs Kept.refl rfl (fun h => filter_rising _ h)
theorem fenceKind_k (s : State) (a1) : Kept [.regs, .ev, .stairs, .sheaf] s (fenceKind s a1) := by
  unfold fenceKind
  try dsimp -proj only
  repeat' first
    | with_reducible assumption
    | with_reducible apply Kept.refl
    | with_reducible apply Kept.ite
    | with_reducible apply Kept.by' (wrN_k _ _ _)
    | with_reducible apply Kept.by' (wrF_k _ _ _ _ _)
    | with_reducible apply Kept.by' (rhEnd_k _ _)
    | with_reducible apply Kept.by' (thSetState_k _ _ _ _)
    | with_reducible apply Kept.by' (unitRegsReset_k _ _)
    | with_reducible apply Kept.foldl
    | with_reducible apply Kept.foldl1
    | (intro _; intros)
    | dsimp only
    | apply rfl
    | (with_reducible refine Kept.by' (by with_reducible assumption) ?_ ?_)
    | split
theorem lineFollow_k (s : State) (a1) : Kept [.net, .out] s (lineFollow s a1) := by
  unfold lineFollow
  try dsimp -proj only
  repeat' first
    | with_reducible assumption
    | with_reducible apply Kept.refl
    | with_reducible apply Kept.ite
    | with_reducible apply Kept.by' (emit_k _ _)
    | with_reducible apply Kept.by' (portUpd_k _ _ _)
    | apply rfl
    | (with_reducible refine Kept.by' (by with_reducible assumption) ?_ ?_)
    | split
theorem laRedo_k (s : State) (a1) (a2) : Kept [.regs, .cy] s (laRedo s a1 a2).1 := by
  unfold laRedo
  try dsimp -proj only
  repeat' first
    | with_reducible assumption
    | with_reducible apply Kept.refl
    | with_reducible apply Kept.ite
    | with_reducible apply Kept.ite1
    | with_reducible apply Kept.ite2
    | with_reducible apply Kept.by' (cyUpd_k _ _)
    | with_reducible apply Kept.by' (engineNext_k _ _)
    | with_reducible apply Kept.by' (bump_k _ _ _)
    | dsimp only
    | apply rfl
    | (with_reducible refine Kept.by' (by with_reducible assumption) ?_ ?_)
    | split
theorem readmit_k (s : State) (a1) : Kept [.regs, .mem, .unit] s (readmit s a1) := by
  unfold readmit
  try dsimp -proj only
  repeat' first
    | with_reducible assumption
    | with_reducible apply Kept.refl
    | with_reducible apply Kept.ite
    | with_reducible apply Kept.by' (unitUpd_k _ _)
    | with_reducible apply Kept.by' (setUnitState_k _ _ _)
    | with_reducible apply Kept.set_regs
    | with_reducible apply Kept.set_mem
    | with_reducible apply Kept.set_unit
    | (refine Kept.of ⟨fun p hp => ?_⟩ rfl rfl rfl (congrArg AccSt.own rfl); cases p <;> first | rfl | cases hp)
    | exact fun h => aset_rising _ _ h
    | exact fun h => filter_rising _ h
    | exact fun h => h
    | exact fun h => memPuts_wf h
    | exact fun h => memClear_wf h
    | exact memPuts_wf (by assumption)
    | exact memClear_wf (by assumption)
    | exact fun h => filter_wf _ h
    | exact fun h => h
    | apply rfl
    | (with_reducible refine Kept.by' (by with_reducible assumption) ?_ ?_)
    | split
theorem freePortHandle_k (s : State) (a1) : Kept [.ch] s (freePortHandle s a1) := by
  unfold freePortHandle
  try dsimp -proj only
  repeat' first
    | with_reducible assumption
    | with_reducible apply Kept.refl
    | with_reducible apply Kept.ite
    | with_reducible apply Kept.set_ch
    | (refine Kept.of ⟨fun p hp => ?_⟩ rfl rfl rfl (congrArg AccSt.own rfl); cases p <;> first | rfl | cases hp)
    | apply rfl
    | (with_reducible refine Kept.by' (by with_reducible assumption) ?_ ?_)
    | split
theorem copyScratch_k (s : State) (a1) (a2) (a3) : Kept [.mem] s (copyScratch s a1 a2 a3) := by
  refine Kept.set_mem Kept.refl rfl (fun h => ?_)
  generalize List.map _ _ = cs
  have hc : Memory.wf (memClear s.mem (scratchBase a2) (scratchBase a2 + 0x100800)) = true := memClear_wf h
  generalize memClear s.mem _ _ = m at hc
  induction cs generalizing m with
  | nil => exact hc
  | cons c cs ih => exact ih _ (memPut_wf hc)
theorem beat_k (s : State) (a1) : Kept [.unit] s (beat s a1) := by
  unfold beat
  try dsimp -proj only
  repeat' first
    | with_reducible assumption
    | with_reducible apply Kept.refl
    | with_reducible apply Kept.ite
    | with_reducible apply Kept.by' (unitUpd_k _ _)
    | apply rfl
    | (with_reducible refine Kept.by' (by with_reducible assumption) ?_ ?_)
    | split
theorem setUnitRole_k (s : State) (a1) (a2) : Kept [.regs] s (setUnitRole s a1 a2) := by
  unfold setUnitRole
  try dsimp -proj only
  repeat' first
    | with_reducible assumption
    | with_reducible apply Kept.refl
    | with_reducible apply Kept.ite
    | with_reducible apply Kept.by' (wrF_k _ _ _ _ _)
    | apply rfl
    | (with_reducible refine Kept.by' (by with_reducible assumption) ?_ ?_)
    | split
theorem unitEnter_k (s : State) (a1) (a2) (a3) : Kept [.regs, .unit] s (unitEnter s a1 a2 a3) := by
  unfold unitEnter
  try dsimp -proj only
  repeat' first
    | with_reducible assumption
    | with_reducible apply Kept.refl
    | with_reducible apply Kept.ite
    | with_reducible apply Kept.by' (beat_k _ _)
    | with_reducible apply Kept.by' (setUnitRole_k _ _ _)
    | with_reducible apply Kept.by' (setUnitState_k _ _ _)
    | apply rfl
    | (with_reducible refine Kept.by' (by with_reducible assumption) ?_ ?_)
    | split
theorem puntCopy_k (s : State) (a1) (a2) : Kept [.regs] s (puntCopy s a1 a2) := by
  unfold puntCopy
  try dsimp -proj only
  repeat' first
    | with_reducible assumption
    | with_reducible apply Kept.refl
    | with_reducible apply Kept.ite
    | with_reducible apply Kept.by' (wr64_k _ _ _)
    | dsimp only
    | apply rfl
    | (with_reducible refine Kept.by' (by with_reducible assumption) ?_ ?_)
    | split
theorem handover_k (s : State) (a1) (a2) (a3) : Kept [.regs, .ev, .mem, .ch, .unit, .tils] s (handover s a1 a2 a3) := by
  unfold handover
  try dsimp -proj only
  repeat' first
    | with_reducible assumption
    | with_reducible apply Kept.refl
    | with_reducible apply Kept.ite
    | with_reducible apply Kept.ite1
    | with_reducible apply Kept.ite2
    | with_reducible apply Kept.by' (wrF_k _ _ _ _ _)
    | with_reducible apply Kept.by' (raise_k _ _ _)
    | with_reducible apply Kept.by' (freePortHandle_k _ _)
    | with_reducible apply Kept.by' (tilUpd_k _ _ _)
    | with_reducible apply Kept.by' (unitUpd_k _ _)
    | with_reducible apply Kept.by' (setUnitRole_k _ _ _)
    | with_reducible apply Kept.by' (unitEnter_k _ _ _ _)
    | with_reducible apply Kept.by' (copyScratch_k _ _ _ _)
    | with_reducible apply Kept.by' (puntCopy_k _ _ _)
    | with_reducible apply Kept.foldl
    | with_reducible apply Kept.foldl1
    | (intro _; intros)
    | dsimp only
    | apply rfl
    | (with_reducible refine Kept.by' (by with_reducible assumption) ?_ ?_)
    | split
theorem rpAbsorb_k (s : State) (a1) : Kept [.regs, .host, .out] s (rpAbsorb s a1) := by
  unfold rpAbsorb
  try dsimp -proj only
  repeat' first
    | with_reducible assumption
    | with_reducible apply Kept.refl
    | with_reducible apply Kept.ite
    | with_reducible apply Kept.by' (wrN_k _ _ _)
    | with_reducible apply Kept.by' (drive_k _ _ _ _)
    | dsimp only
    | apply rfl
    | (with_reducible refine Kept.by' (by with_reducible assumption) ?_ ?_)
    | split
    | with_reducible apply Kept.set_host
theorem mergeWrite_k (s : State) (a1) (a2) : Kept [.regs, .ev, .host, .out] s (mergeWrite s a1 a2) := by
  unfold mergeWrite
  try dsimp -proj only
  repeat' first
    | with_reducible assumption
    | with_reducible apply Kept.refl
    | with_reducible apply Kept.ite
    | with_reducible apply Kept.by' (badAccess_k _ _ _)
    | with_reducible apply Kept.by' (wrN_k _ _ _)
    | with_reducible apply Kept.by' (rpAbsorb_k _ _)
    | with_reducible apply Kept.foldl
    | with_reducible apply Kept.foldl1
    | (intro _; intros)
    | apply rfl
    | (with_reducible refine Kept.by' (by with_reducible assumption) ?_ ?_)
    | split
theorem rpUpd_k (s : State) (a1) (a2) : Kept [.host] s (rpUpd s a1 a2) := by
  unfold rpUpd
  try dsimp -proj only
  repeat' first
    | with_reducible assumption
    | with_reducible apply Kept.refl
    | with_reducible apply Kept.ite
    | with_reducible apply Kept.set_host
    | (refine Kept.of ⟨fun p hp => ?_⟩ rfl rfl rfl (congrArg AccSt.own rfl); cases p <;> first | rfl | cases hp)
    | apply rfl
    | (with_reducible refine Kept.by' (by with_reducible assumption) ?_ ?_)
    | split
theorem rpSet_k (s : State) (a1) (a2) (a3) : Kept [.host] s (rpSet s a1 a2 a3) := by
  unfold rpSet
  try dsimp -proj only
  repeat' first
    | with_reducible assumption
    | with_reducible apply Kept.refl
    | with_reducible apply Kept.ite
    | with_reducible apply Kept.by' (rpUpd_k _ _ _)
    | apply rfl
    | (with_reducible refine Kept.by' (by with_reducible assumption) ?_ ?_)
    | split
theorem ledShow_k (s : State) (a1) (a2) (a3) : Kept [.out] s (ledShow s a1 a2 a3) := by
  unfold ledShow
  try dsimp -proj only
  repeat' first
    | with_reducible assumption
    | with_reducible apply Kept.refl
    | with_reducible apply Kept.ite
    | with_reducible apply Kept.by' (drive_k _ _ _ _)
    | dsimp only
    | apply rfl
    | (with_reducible refine Kept.by' (by with_reducible assumption) ?_ ?_)
    | split
theorem powerShow_k (s : State) (a1) : Kept [.regs] s (powerShow s a1) := by
  unfold powerShow
  try dsimp -proj only
  repeat' first
    | with_reducible assumption
    | with_reducible apply Kept.refl
    | with_reducible apply Kept.ite
    | with_reducible apply Kept.by' (wrF_k _ _ _ _ _)
    | apply rfl
    | (with_reducible refine Kept.by' (by with_reducible assumption) ?_ ?_)
    | split
theorem slotPower_k (s : State) (a1) (a2) : Kept [.regs, .host, .out] s (slotPower s a1 a2) := by
  unfold slotPower
  try dsimp -proj only
  repeat' first
    | with_reducible assumption
    | with_reducible apply Kept.refl
    | with_reducible apply Kept.ite
    | with_reducible apply Kept.by' (powerShow_k _ _)
    | with_reducible apply Kept.by' (drive_k _ _ _ _)
    | with_reducible apply Kept.by' (rpUpd_k _ _ _)
    | apply rfl
    | (with_reducible refine Kept.by' (by with_reducible assumption) ?_ ?_)
    | split
theorem slotPerst_k (s : State) (a1) (a2) : Kept [.host, .out] s (slotPerst s a1 a2) := by
  unfold slotPerst
  try dsimp -proj only
  repeat' first
    | with_reducible assumption
    | with_reducible apply Kept.refl
    | with_reducible apply Kept.ite
    | with_reducible apply Kept.by' (drive_k _ _ _ _)
    | with_reducible apply Kept.by' (rpUpd_k _ _ _)
    | apply rfl
    | (with_reducible refine Kept.by' (by with_reducible assumption) ?_ ?_)
    | split
theorem rpAbort_k (s : State) (a1) : Kept [.regs, .host] s (rpAbort s a1) := by
  unfold rpAbort
  try dsimp -proj only
  repeat' first
    | with_reducible assumption
    | with_reducible apply Kept.refl
    | with_reducible apply Kept.ite
    | with_reducible apply Kept.ite2
    | with_reducible apply Kept.by' (bump_k _ _ _)
    | with_reducible apply Kept.by' (wrN_k _ _ _)
    | with_reducible apply Kept.by' (rpUpd_k _ _ _)
    | apply rfl
    | (with_reducible refine Kept.by' (by with_reducible assumption) ?_ ?_)
    | split
theorem dcfgWrite_k (s : State) (a1) (a2) (a3) : Kept [.regs, .ev, .host, .out] s (dcfgWrite s a1 a2 a3) := by
  unfold dcfgWrite
  try dsimp -proj only
  repeat' first
    | with_reducible assumption
    | with_reducible apply Kept.refl
    | with_reducible apply Kept.ite
    | with_reducible apply Kept.by' (badAccess_k _ _ _)
    | with_reducible apply Kept.by' (wrN_k _ _ _)
    | with_reducible apply Kept.by' (rpUpd_k _ _ _)
    | with_reducible apply Kept.by' (rpAbort_k _ _)
    | with_reducible apply Kept.by' (emit_k _ _)
    | apply rfl
    | (with_reducible refine Kept.by' (by with_reducible assumption) ?_ ?_)
    | split
theorem ovfSizeWrite_k (s : State) (a1) (a2) : Kept [.regs, .ev] s (ovfSizeWrite s a1 a2) := by
  unfold ovfSizeWrite
  try dsimp -proj only
  repeat' first
    | with_reducible assumption
    | with_reducible apply Kept.refl
    | with_reducible apply Kept.ite
    | with_reducible apply Kept.by' (badAccess_k _ _ _)
    | with_reducible apply Kept.by' (plainWrite_k _ _ _ _)
    | apply rfl
    | (with_reducible refine Kept.by' (by with_reducible assumption) ?_ ?_)
    | split
theorem tmCtlWrite_k (s : State) (a1) (a2) : Kept [.regs] s (tmCtlWrite s a1 a2) := by
  unfold tmCtlWrite
  try dsimp -proj only
  repeat' first
    | with_reducible assumption
    | with_reducible apply Kept.refl
    | with_reducible apply Kept.ite
    | with_reducible apply Kept.by' (wrF_k _ _ _ _ _)
    | with_reducible apply Kept.by' (plainWrite_k _ _ _ _)
    | apply rfl
    | (with_reducible refine Kept.by' (by with_reducible assumption) ?_ ?_)
    | split
theorem epochCtlWrite_k (s : State) (a1) : Kept [.regs, .time] s (epochCtlWrite s a1) := by
  unfold epochCtlWrite
  try dsimp -proj only
  repeat' first
    | with_reducible assumption
    | with_reducible apply Kept.refl
    | with_reducible apply Kept.ite
    | with_reducible apply Kept.by' (plainWrite_k _ _ _ _)
    | with_reducible apply Kept.by' (armRec_k _)
    | with_reducible apply Kept.by' (armSnap_k _)
    | with_reducible apply Kept.by' (showSnapAt_k _ _)
    | with_reducible apply Kept.set_regs
    | with_reducible apply Kept.set_time
    | (refine Kept.of ⟨fun p hp => ?_⟩ rfl rfl rfl (congrArg AccSt.own rfl); cases p <;> first | rfl | cases hp)
    | exact fun h => aset_rising _ _ h
    | exact fun h => filter_rising _ h
    | exact fun h => h
    | apply rfl
    | (with_reducible refine Kept.by' (by with_reducible assumption) ?_ ?_)
    | split
theorem commitCancel_k (s : State) : Kept [.regs, .sheaf] s (commitCancel s) := by
  unfold commitCancel
  try dsimp -proj only
  repeat' first
    | with_reducible assumption
    | with_reducible apply Kept.refl
    | with_reducible apply Kept.ite
    | with_reducible apply Kept.by' (wrF_k _ _ _ _ _)
    | with_reducible apply Kept.by' (sheafUpd_k _ _)
    | apply rfl
    | (with_reducible refine Kept.by' (by with_reducible assumption) ?_ ?_)
    | split
theorem sheafRefuse_k (s : State) (a1) : Kept [.regs] s (sheafRefuse s a1) := by
  unfold sheafRefuse
  try dsimp -proj only
  repeat' first
    | with_reducible assumption
    | with_reducible apply Kept.refl
    | with_reducible apply Kept.ite
    | with_reducible apply Kept.by' (wrF_k _ _ _ _ _)
    | apply rfl
    | (with_reducible refine Kept.by' (by with_reducible assumption) ?_ ?_)
    | split
theorem unstage_k (s : State) : Kept [.regs, .stairs, .lpm] s (unstage s) := by
  unfold unstage
  try dsimp -proj only
  repeat' first
    | with_reducible assumption
    | with_reducible apply Kept.refl
    | with_reducible apply Kept.ite
    | with_reducible apply Kept.ite1
    | with_reducible apply Kept.ite2
    | with_reducible apply Kept.by' (sheafRefuse_k _ _)
    | (intro _; intros)
    | dsimp only
    | apply rfl
    | (with_reducible refine Kept.by' (by with_reducible assumption) ?_ ?_)
    | split
    | with_reducible apply Kept.set_stairs
    | with_reducible apply Kept.set_lpm
    | (refine Kept.of ⟨fun p hp => ?_⟩ rfl rfl rfl (congrArg AccSt.own rfl); cases p <;> first | rfl | cases hp)
theorem commitAsk_k (s : State) (a1) : Kept [.regs, .stairs, .sheaf] s (commitAsk s a1) := by
  unfold commitAsk
  try dsimp -proj only
  repeat' first
    | with_reducible assumption
    | with_reducible apply Kept.refl
    | with_reducible apply Kept.ite
    | with_reducible apply Kept.by' (wrF_k _ _ _ _ _)
    | with_reducible apply Kept.by' (sheafUpd_k _ _)
    | with_reducible apply Kept.by' (sheafRefuse_k _ _)
    | (intro _; intros)
    | dsimp only
    | apply rfl
    | (with_reducible refine Kept.by' (by with_reducible assumption) ?_ ?_)
    | split
    | with_reducible apply Kept.set_stairs
theorem sheafCmdWrite_k (s : State) (a1) : Kept [.regs, .stairs, .lpm, .sheaf] s (sheafCmdWrite s a1) := by
  unfold sheafCmdWrite
  try dsimp -proj only
  repeat' first
    | with_reducible assumption
    | with_reducible apply Kept.refl
    | with_reducible apply Kept.ite
    | with_reducible apply Kept.by' (plainWrite_k _ _ _ _)
    | with_reducible apply Kept.by' (wrF_k _ _ _ _ _)
    | with_reducible apply Kept.by' (commitCancel_k _)
    | with_reducible apply Kept.by' (unstage_k _)
    | with_reducible apply Kept.by' (commitAsk_k _ _)
    | apply rfl
    | (with_reducible refine Kept.by' (by with_reducible assumption) ?_ ?_)
    | split
theorem rhCtlWrite_k (s : State) (a1) : Kept [.regs, .ev, .stairs, .sheaf] s (rhCtlWrite s a1) := by
  unfold rhCtlWrite
  try dsimp -proj only
  repeat' first
    | with_reducible assumption
    | with_reducible apply Kept.refl
    | with_reducible apply Kept.ite
    | with_reducible apply Kept.ite2
    | with_reducible apply Kept.by' (rhEnd_k _ _)
    | with_reducible apply Kept.by' (plainWrite_k _ _ _ _)
    | with_reducible apply Kept.by' (wrF_k _ _ _ _ _)
    | with_reducible apply Kept.by' (wrN_k _ _ _)
    | with_reducible apply Kept.by' (sheafUpd_k _ _)
    | with_reducible apply Kept.by' (raise_k _ _ _)
    | apply rfl
    | (with_reducible refine Kept.by' (by with_reducible assumption) ?_ ?_)
    | split
theorem pauseUpdate_k (s : State) (a1) : Kept [.regs, .net] s (pauseUpdate s a1) := by
  unfold pauseUpdate
  try dsimp -proj only
  repeat' first
    | with_reducible assumption
    | with_reducible apply Kept.refl
    | with_reducible apply Kept.ite
    | with_reducible apply Kept.by' (portSet_k _ _ _)
    | with_reducible apply Kept.by' (wrF_k _ _ _ _ _)
    | with_reducible apply Kept.foldl
    | with_reducible apply Kept.foldl1
    | (intro _; intros)
    | apply rfl
    | (with_reducible refine Kept.by' (by with_reducible assumption) ?_ ?_)
    | split
theorem nodeSelWrite_k (s : State) (a1) : Kept [.regs, .draws] s (nodeSelWrite s a1) := by
  unfold nodeSelWrite
  try dsimp -proj only
  repeat' first
    | with_reducible assumption
    | with_reducible apply Kept.refl
    | with_reducible apply Kept.ite
    | with_reducible apply Kept.ite1
    | with_reducible apply Kept.ite2
    | with_reducible apply Kept.by' (plainWrite_k _ _ _ _)
    | with_reducible apply Kept.by' (wrN_k _ _ _)
    | with_reducible apply Kept.by' (draw_k _)
    | with_reducible apply Kept.by' (Kept.eq2 (draw_k _) (by assumption))
    | with_reducible apply Kept.foldl
    | with_reducible apply Kept.foldl1
    | (intro _; intros)
    | apply rfl
    | (with_reducible refine Kept.by' (by with_reducible assumption) ?_ ?_)
    | split
theorem nodeRefuse_k (s : State) (a1) : Kept [.regs] s (nodeRefuse s a1) := by
  unfold nodeRefuse
  try dsimp -proj only
  repeat' first
    | with_reducible assumption
    | with_reducible apply Kept.refl
    | with_reducible apply Kept.ite
    | with_reducible apply Kept.by' (wrF_k _ _ _ _ _)
    | apply rfl
    | (with_reducible refine Kept.by' (by with_reducible assumption) ?_ ?_)
    | split
theorem nodeClrCmd_k (s : State) : Kept [.land] s (nodeClrCmd s) := by
  unfold nodeClrCmd
  try dsimp -proj only
  repeat' first
    | with_reducible assumption
    | with_reducible apply Kept.refl
    | with_reducible apply Kept.ite
    | with_reducible apply Kept.by' (nodeUpd_k _ _ _ _)
    | apply rfl
    | (with_reducible refine Kept.by' (by with_reducible assumption) ?_ ?_)
    | split
theorem ksAlarmWrite_k (s : State) (a1) (a2) : Kept [.regs] s (ksAlarmWrite s a1 a2) := by
  unfold ksAlarmWrite
  try dsimp -proj only
  repeat' first
    | with_reducible assumption
    | with_reducible apply Kept.refl
    | with_reducible apply Kept.ite
    | with_reducible apply Kept.by' (wrF_k _ _ _ _ _)
    | with_reducible apply Kept.by' (wrN_k _ _ _)
    | with_reducible apply Kept.foldl
    | with_reducible apply Kept.foldl1
    | (intro _; intros)
    | apply rfl
    | (with_reducible refine Kept.by' (by with_reducible assumption) ?_ ?_)
    | split
theorem ksEffect_k (s : State) (a1) (a2) : Kept [.regs, .draws] s (ksEffect s a1 a2) := by
  unfold ksEffect
  try dsimp -proj only
  repeat' first
    | with_reducible assumption
    | with_reducible apply Kept.refl
    | with_reducible apply Kept.ite
    | with_reducible apply Kept.ite1
    | with_reducible apply Kept.ite2
    | with_reducible apply Kept.by' (draw_k _)
    | with_reducible apply Kept.by' (Kept.eq2 (draw_k _) (by assumption))
    | with_reducible apply Kept.by' (ksAlarmWrite_k _ _ _)
    | with_reducible apply Kept.by' (regStore_k _ _ _)
    | apply rfl
    | (with_reducible refine Kept.by' (by with_reducible assumption) ?_ ?_)
    | split
theorem fnRefuse_k (s : State) (a1) (a2) (a3) : Kept [.host] s (fnRefuse s a1 a2 a3) := by
  unfold fnRefuse
  try dsimp -proj only
  repeat' first
    | with_reducible assumption
    | with_reducible apply Kept.refl
    | with_reducible apply Kept.ite
    | with_reducible apply Kept.by' (fnUpd_k _ _ _ _)
    | apply rfl
    | (with_reducible refine Kept.by' (by with_reducible assumption) ?_ ?_)
    | split
theorem fnCfgWrite_k (s : State) (a1) (a2) : Kept [.host] s (fnCfgWrite s a1 a2) := by
  unfold fnCfgWrite
  try dsimp -proj only
  repeat' first
    | with_reducible assumption
    | with_reducible apply Kept.refl
    | with_reducible apply Kept.ite
    | with_reducible apply Kept.ite1
    | with_reducible apply Kept.ite2
    | with_reducible apply Kept.by' (fnRefuse_k _ _ _ _)
    | with_reducible apply Kept.by' (fnSet_k _ _ _ _)
    | apply rfl
    | (with_reducible refine Kept.by' (by with_reducible assumption) ?_ ?_)
    | split
theorem tagMaxWrite_k (s : State) (a1) (a2) : Kept [.host] s (tagMaxWrite s a1 a2) := by
  unfold tagMaxWrite
  try dsimp -proj only
  repeat' first
    | with_reducible assumption
    | with_reducible apply Kept.refl
    | with_reducible apply Kept.ite
    | with_reducible apply Kept.ite1
    | with_reducible apply Kept.ite2
    | with_reducible apply Kept.by' (fnRefuse_k _ _ _ _)
    | with_reducible apply Kept.by' (fnSet_k _ _ _ _)
    | apply rfl
    | (with_reducible refine Kept.by' (by with_reducible assumption) ?_ ?_)
    | split
theorem winSwapWrite_k (s : State) (a1) (a2) : Kept [.regs, .ev, .host] s (winSwapWrite s a1 a2) := by
  unfold winSwapWrite
  try dsimp -proj only
  repeat' first
    | with_reducible assumption
    | with_reducible apply Kept.refl
    | with_reducible apply Kept.ite
    | with_reducible apply Kept.ite1
    | with_reducible apply Kept.ite2
    | with_reducible apply Kept.by' (fnUpd_k _ _ _ _)
    | with_reducible apply Kept.by' (fnRefuse_k _ _ _ _)
    | with_reducible apply Kept.by' (raise_k _ _ _)
    | apply rfl
    | (with_reducible refine Kept.by' (by with_reducible assumption) ?_ ?_)
    | split
theorem ltrSend_k (s : State) (a1) : Kept [.out] s (ltrSend s a1) := by
  unfold ltrSend
  try dsimp -proj only
  repeat' first
    | with_reducible assumption
    | with_reducible apply Kept.refl
    | with_reducible apply Kept.ite
    | with_reducible apply Kept.by' (emit_k _ _)
    | dsimp only
    | apply rfl
    | (with_reducible refine Kept.by' (by with_reducible assumption) ?_ ?_)
    | split
theorem hfEffect_k (s : State) (a1) (a2) (a3) (a4) : Kept [.regs, .ev, .host, .out] s (hfEffect s a1 a2 a3 a4) := by
  unfold hfEffect
  try dsimp -proj only
  repeat' first
    | with_reducible assumption
    | with_reducible apply Kept.refl
    | with_reducible apply Kept.ite
    | with_reducible apply Kept.ite1
    | with_reducible apply Kept.ite2
    | with_reducible apply Kept.by' (fnUpd_k _ _ _ _)
    | with_reducible apply Kept.by' (ltrSend_k _ _)
    | with_reducible apply Kept.by' (winSwapWrite_k _ _ _)
    | with_reducible apply Kept.by' (fnCfgWrite_k _ _ _)
    | with_reducible apply Kept.by' (regStore_k _ _ _)
    | with_reducible apply Kept.by' (tagMaxWrite_k _ _ _)
    | (intro _; intros)
    | with_reducible apply Kept.getD
    | dsimp only
    | apply rfl
    | (with_reducible refine Kept.by' (by with_reducible assumption) ?_ ?_)
    | split
theorem pgCtlWrite_k (s : State) (a1) (a2) (a3) : Kept [.regs, .ev, .net] s (pgCtlWrite s a1 a2 a3) := by
  unfold pgCtlWrite
  try dsimp -proj only
  repeat' first
    | with_reducible assumption
    | with_reducible apply Kept.refl
    | with_reducible apply Kept.ite
    | with_reducible apply Kept.by' (badAccess_k _ _ _)
    | with_reducible apply Kept.by' (plainWrite_k _ _ _ _)
    | with_reducible apply Kept.set_regs
    | with_reducible apply Kept.set_ev
    | with_reducible apply Kept.set_net
    | (refine Kept.of ⟨fun p hp => ?_⟩ rfl rfl rfl (congrArg AccSt.own rfl); cases p <;> first | rfl | cases hp)
    | exact fun h => aset_rising _ _ h
    | exact fun h => filter_rising _ h
    | exact fun h => h
    | apply rfl
    | (with_reducible refine Kept.by' (by with_reducible assumption) ?_ ?_)
    | split
theorem rclkDrive_k (s : State) (a1) : Kept [.out] s (rclkDrive s a1) := by
  unfold rclkDrive
  try dsimp -proj only
  repeat' first
    | with_reducible assumption
    | with_reducible apply Kept.refl
    | with_reducible apply Kept.ite
    | with_reducible apply Kept.by' (emit_k _ _)
    | with_reducible apply Kept.by' (drive_k _ _ _ _)
    | dsimp only
    | apply rfl
    | (with_reducible refine Kept.by' (by with_reducible assumption) ?_ ?_)
    | split
theorem rclkMark_k (s : State) (a1) (a2) : Kept [.net] s (rclkMark s a1 a2) := by
  unfold rclkMark
  try dsimp -proj only
  repeat' first
    | with_reducible assumption
    | with_reducible apply Kept.refl
    | with_reducible apply Kept.ite
    | with_reducible apply Kept.set_net
    | (refine Kept.of ⟨fun p hp => ?_⟩ rfl rfl rfl (congrArg AccSt.own rfl); cases p <;> first | rfl | cases hp)
    | apply rfl
    | (with_reducible refine Kept.by' (by with_reducible assumption) ?_ ?_)
    | split
theorem rclkWrite_k (s : State) (a1) (a2) : Kept [.regs, .net, .out] s (rclkWrite s a1 a2) := by
  unfold rclkWrite
  try dsimp -proj only
  repeat' first
    | with_reducible assumption
    | with_reducible apply Kept.refl
    | with_reducible apply Kept.ite
    | with_reducible apply Kept.by' (rclkDrive_k _ _)
    | with_reducible apply Kept.by' (rclkMark_k _ _ _)
    | with_reducible apply Kept.by' (plainWrite_k _ _ _ _)
    | apply rfl
    | (with_reducible refine Kept.by' (by with_reducible assumption) ?_ ?_)
    | split
theorem ucErr_k (s : State) (a1) (a2) (a3) (a4) : Kept [.regs] s (ucErr s a1 a2 a3 a4) := by
  unfold ucErr
  try dsimp -proj only
  repeat' first
    | with_reducible assumption
    | with_reducible apply Kept.refl
    | with_reducible apply Kept.ite
    | with_reducible apply Kept.by' (wrF_k _ _ _ _ _)
    | apply rfl
    | (with_reducible refine Kept.by' (by with_reducible assumption) ?_ ?_)
    | split
theorem ucInc_k (s : State) (a1) (a2) (a3) : Kept [.regs] s (ucInc s a1 a2 a3) := by
  unfold ucInc
  try dsimp -proj only
  repeat' first
    | with_reducible assumption
    | with_reducible apply Kept.refl
    | with_reducible apply Kept.ite
    | with_reducible apply Kept.by' (wrF_k _ _ _ _ _)
    | apply rfl
    | (with_reducible refine Kept.by' (by with_reducible assumption) ?_ ?_)
    | split
theorem arrCfgWrite_k (s : State) (a1) (a2) (a3) (a4) : Kept [.regs, .stairs] s (arrCfgWrite s a1 a2 a3 a4) := by
  unfold arrCfgWrite
  try dsimp -proj only
  repeat' first
    | with_reducible assumption
    | with_reducible apply Kept.refl
    | with_reducible apply Kept.ite
    | with_reducible apply Kept.ite1
    | with_reducible apply Kept.by' (wrF_k _ _ _ _ _)
    | with_reducible apply Kept.by' (flightUpd_k _ _ _ _)
    | with_reducible apply Kept.by' (plainWrite_k _ _ _ _)
    | apply rfl
    | (with_reducible refine Kept.by' (by with_reducible assumption) ?_ ?_)
    | split
theorem mtrCmdWrite_k (s : State) (a1) (a2) (a3) : Kept [.regs, .stairs, .land] s (mtrCmdWrite s a1 a2 a3) := by
  unfold mtrCmdWrite
  try dsimp -proj only
  repeat' first
    | with_reducible assumption
    | with_reducible apply Kept.refl
    | with_reducible apply Kept.ite
    | with_reducible apply Kept.by' (wrF_k _ _ _ _ _)
    | with_reducible apply Kept.by' (plainWrite_k _ _ _ _)
    | with_reducible apply Kept.by' (wrN_k _ _ _)
    | with_reducible apply Kept.by' (addOut_k _ _ _ _ _ _)
    | with_reducible apply Kept.by' (markerSend_k _ _ _ _)
    | with_reducible apply Kept.by' (cmdEnd_k _ _ _ _)
    | with_reducible apply Kept.foldl
    | with_reducible apply Kept.foldl1
    | (intro _; intros)
    | apply rfl
    | (with_reducible refine Kept.by' (by with_reducible assumption) ?_ ?_)
    | split
theorem parseErr_k (s : State) (a1) (a2) : Kept [.regs] s (parseErr s a1 a2) := by
  unfold parseErr
  try dsimp -proj only
  repeat' first
    | with_reducible assumption
    | with_reducible apply Kept.refl
    | with_reducible apply Kept.ite
    | with_reducible apply Kept.by' (wrF_k _ _ _ _ _)
    | apply rfl
    | (with_reducible refine Kept.by' (by with_reducible assumption) ?_ ?_)
    | split
theorem parsePut_k (s : State) (a1) (a2) (a3) : Kept [.stairs] s (parsePut s a1 a2 a3) := by
  unfold parsePut
  try dsimp -proj only
  repeat' first
    | with_reducible assumption
    | with_reducible apply Kept.refl
    | with_reducible apply Kept.ite
    | with_reducible apply Kept.by' (stairUpd_k _ _ _)
    | with_reducible apply Kept.foldl
    | with_reducible apply Kept.foldl1
    | (intro _; intros)
    | apply rfl
    | (with_reducible refine Kept.by' (by with_reducible assumption) ?_ ?_)
    | split
theorem cmdBusyBits_k (s : State) (a1) (a2) : Kept [.regs] s (cmdBusyBits s a1 a2) := by
  unfold cmdBusyBits
  try dsimp -proj only
  repeat' first
    | with_reducible assumption
    | with_reducible apply Kept.refl
    | with_reducible apply Kept.ite
    | with_reducible apply Kept.by' (wrF_k _ _ _ _ _)
    | with_reducible apply Kept.foldl
    | with_reducible apply Kept.foldl1
    | (intro _; intros)
    | apply rfl
    | (with_reducible refine Kept.by' (by with_reducible assumption) ?_ ?_)
    | split
theorem cmdLookup_k (s : State) (a1) (a2) : Kept [] s (cmdLookup s a1 a2).1 := by
  unfold cmdLookup
  try dsimp -proj only
  repeat' first
    | with_reducible assumption
    | with_reducible apply Kept.refl
    | with_reducible apply Kept.ite
    | with_reducible apply Kept.ite1
    | dsimp only
    | apply rfl
    | (with_reducible refine Kept.by' (by with_reducible assumption) ?_ ?_)
    | split
theorem setEntries_k (s : State) (a1) (a2) (a3) : Kept [.regs, .stairs] s (setEntries s a1 a2 a3) := by
  unfold setEntries
  try dsimp -proj only
  repeat' first
    | with_reducible assumption
    | with_reducible apply Kept.refl
    | with_reducible apply Kept.ite
    | with_reducible apply Kept.by' (hitFollow_k _ _ _ _ _)
    | with_reducible apply Kept.by' (stairUpd_k _ _ _)
    | with_reducible apply Kept.by' (wrN_k _ _ _)
    | apply rfl
    | (with_reducible refine Kept.by' (by with_reducible assumption) ?_ ?_)
    | split
theorem shadowFollow_k (s : State) (a1) (a2) (a3) (a4) (a5) : Kept [.stairs] s (shadowFollow s a1 a2 a3 a4 a5) := by
  unfold shadowFollow
  try dsimp -proj only
  repeat' first
    | with_reducible assumption
    | with_reducible apply Kept.refl
    | with_reducible apply Kept.ite
    | with_reducible apply Kept.ite1
    | with_reducible apply Kept.ite2
    | with_reducible apply Kept.by' (stairUpd_k _ _ _)
    | (intro _; intros)
    | with_reducible apply Kept.getD
    | dsimp only
    | apply rfl
    | (with_reducible refine Kept.by' (by with_reducible assumption) ?_ ?_)
    | split
theorem cmdEntries_k (s : State) (a1) (a2) (a3) (a4) : Kept [.regs, .stairs] s (cmdEntries s a1 a2 a3 a4) := by
  unfold cmdEntries
  try dsimp -proj only
  repeat' first
    | with_reducible assumption
    | with_reducible apply Kept.refl
    | with_reducible apply Kept.ite
    | with_reducible apply Kept.by' (setEntries_k _ _ _ _)
    | with_reducible apply Kept.by' (shadowFollow_k _ _ _ _ _ _)
    | dsimp only
    | apply rfl
    | (with_reducible refine Kept.by' (by with_reducible assumption) ?_ ?_)
    | split
theorem putSlot_k (s : State) (a1) (a2) (a3) (a4) : Kept [.regs, .stairs, .lpm] s (putSlot s a1 a2 a3 a4) := by
  unfold putSlot
  try dsimp -proj only
  repeat' first
    | with_reducible assumption
    | with_reducible apply Kept.refl
    | with_reducible apply Kept.ite
    | with_reducible apply Kept.by' (cmdEntries_k _ _ _ _ _)
    | dsimp only
    | apply rfl
    | (with_reducible refine Kept.by' (by with_reducible assumption) ?_ ?_)
    | split
    | with_reducible apply Kept.set_lpm
theorem cmdRead_k (s : State) (a1) (a2) : Kept [.regs, .stairs, .lpm] s (cmdRead s a1 a2).1 := by
  unfold cmdRead
  try dsimp -proj only
  repeat' first
    | with_reducible assumption
    | with_reducible apply Kept.refl
    | with_reducible apply Kept.ite
    | with_reducible apply Kept.ite1
    | with_reducible apply Kept.by' (putSlot_k _ _ _ _ _)
    | dsimp only
    | apply rfl
    | (with_reducible refine Kept.by' (by with_reducible assumption) ?_ ?_)
    | split
theorem dropEntry_k (s : State) (a1) (a2) (a3) (a4) : Kept [.regs, .stairs, .lpm] s (dropEntry s a1 a2 a3 a4).1 := by
  unfold dropEntry
  try dsimp -proj only
  repeat' first
    | with_reducible assumption
    | with_reducible apply Kept.refl
    | with_reducible apply Kept.ite
    | with_reducible apply Kept.ite1
    | with_reducible apply Kept.by' (putSlot_k _ _ _ _ _)
    | dsimp only
    | apply rfl
    | (with_reducible refine Kept.by' (by with_reducible assumption) ?_ ?_)
    | split
theorem cmdDelete_k (s : State) (a1) (a2) : Kept [.regs, .stairs, .lpm] s (cmdDelete s a1 a2).1 := by
  unfold cmdDelete
  try dsimp -proj only
  repeat' first
    | with_reducible assumption
    | with_reducible apply Kept.refl
    | with_reducible apply Kept.ite
    | with_reducible apply Kept.ite1
    | with_reducible apply Kept.by' (dropEntry_k _ _ _ _ _)
    | with_reducible apply Kept.by' (Kept.eq1 (dropEntry_k _ _ _ _ _) (by assumption))
    | dsimp only
    | apply rfl
    | (with_reducible refine Kept.by' (by with_reducible assumption) ?_ ?_)
    | split
theorem cmdWrite_k (s : State) (a1) (a2) : Kept [.regs, .stairs, .lpm] s (cmdWrite s a1 a2).1 := by
  unfold cmdWrite
  try dsimp -proj only
  repeat' first
    | with_reducible assumption
    | with_reducible apply Kept.refl
    | with_reducible apply Kept.ite
    | with_reducible apply Kept.ite1
    | with_reducible apply Kept.by' (putSlot_k _ _ _ _ _)
    | dsimp only
    | apply rfl
    | (with_reducible refine Kept.by' (by with_reducible assumption) ?_ ?_)
    | split
theorem cmdErase_k (s : State) (a1) (a2) : Kept [.regs, .stairs, .lpm] s (cmdErase s a1 a2).1 := by
  unfold cmdErase
  try dsimp -proj only
  repeat' first
    | with_reducible assumption
    | with_reducible apply Kept.refl
    | with_reducible apply Kept.ite
    | with_reducible apply Kept.ite1
    | with_reducible apply Kept.ite2
    | with_reducible apply Kept.by' (dropEntry_k _ _ _ _ _)
    | with_reducible apply Kept.by' (Kept.eq1 (dropEntry_k _ _ _ _ _) (by assumption))
    | dsimp only
    | apply rfl
    | (with_reducible refine Kept.by' (by with_reducible assumption) ?_ ?_)
    | split
theorem cmdIter_k (s : State) (a1) (a2) : Kept [] s (cmdIter s a1 a2).1 := by
  unfold cmdIter
  try dsimp -proj only
  repeat' first
    | with_reducible assumption
    | with_reducible apply Kept.refl
    | with_reducible apply Kept.ite
    | with_reducible apply Kept.ite1
    | with_reducible apply Kept.ite2
    | with_reducible apply Kept.foldl
    | with_reducible apply Kept.foldl1
    | (intro _; intros)
    | dsimp only
    | apply rfl
    | (with_reducible refine Kept.by' (by with_reducible assumption) ?_ ?_)
    | split
theorem showEntry_k (s : State) (a1) (a2) (a3) (a4) : Kept [.regs] s (showEntry s a1 a2 a3 a4) := by
  unfold showEntry
  try dsimp -proj only
  repeat' first
    | with_reducible assumption
    | with_reducible apply Kept.refl
    | with_reducible apply Kept.ite
    | with_reducible apply Kept.by' (wrN_k _ _ _)
    | with_reducible apply Kept.foldl
    | with_reducible apply Kept.foldl1
    | (intro _; intros)
    | apply rfl
    | (with_reducible refine Kept.by' (by with_reducible assumption) ?_ ?_)
    | split
theorem tblCfgWrite_k (s : State) (a1) (a2) (a3) (a4) : Kept [.regs, .stairs] s (tblCfgWrite s a1 a2 a3 a4) := by
  unfold tblCfgWrite
  try dsimp -proj only
  repeat' first
    | with_reducible assumption
    | with_reducible apply Kept.refl
    | with_reducible apply Kept.ite
    | with_reducible apply Kept.ite1
    | with_reducible apply Kept.ite2
    | with_reducible apply Kept.by' (stairUpd_k _ _ _)
    | with_reducible apply Kept.by' (wrN_k _ _ _)
    | with_reducible apply Kept.by' (wr_k _ _ _)
    | with_reducible apply Kept.foldl
    | with_reducible apply Kept.foldl1
    | (intro _; intros)
    | apply rfl
    | (with_reducible refine Kept.by' (by with_reducible assumption) ?_ ?_)
    | split
theorem hitarrWrite_k (s : State) (a1) (a2) (a3) : Kept [.regs] s (hitarrWrite s a1 a2 a3) := by
  unfold hitarrWrite
  try dsimp -proj only
  repeat' first
    | with_reducible assumption
    | with_reducible apply Kept.refl
    | with_reducible apply Kept.ite
    | with_reducible apply Kept.by' (wrN_k _ _ _)
    | with_reducible apply Kept.by' (plainWrite_k _ _ _ _)
    | apply rfl
    | (with_reducible refine Kept.by' (by with_reducible assumption) ?_ ?_)
    | split
theorem thContextWrite_k (s : State) (a1) (a2) (a3) (a4) (a5) : Kept [.regs, .acc, .ev] s (thContextWrite s a1 a2 a3 a4 a5) := by
  unfold thContextWrite
  try dsimp -proj only
  repeat' first
    | with_reducible assumption
    | with_reducible apply Kept.refl
    | with_reducible apply Kept.ite
    | with_reducible apply Kept.by' (loHold_k _ _ _ _)
    | with_reducible apply Kept.by' (badAccess_k _ _ _)
    | with_reducible apply Kept.by' (wrF_k _ _ _ _ _)
    | with_reducible apply Kept.by' (wrN_k _ _ _)
    | with_reducible apply Kept.by' (wr_k _ _ _)
    | with_reducible apply Kept.by' (loCommit_k _ _ _)
    | apply rfl
    | (with_reducible refine Kept.by' (by with_reducible assumption) ?_ ?_)
    | split
theorem thGroupWrite_k (s : State) (a1) (a2) (a3) (a4) : Kept [.regs, .ev] s (thGroupWrite s a1 a2 a3 a4) := by
  unfold thGroupWrite
  try dsimp -proj only
  repeat' first
    | with_reducible assumption
    | with_reducible apply Kept.refl
    | with_reducible apply Kept.ite
    | with_reducible apply Kept.by' (badAccess_k _ _ _)
    | with_reducible apply Kept.by' (wrN_k _ _ _)
    | apply rfl
    | (with_reducible refine Kept.by' (by with_reducible assumption) ?_ ?_)
    | split
theorem enqueue_k (s : State) (a1) (a2) (a3) (a4) (a5) (a6) : Kept [.mem, .tils] s (enqueue s a1 a2 a3 a4 a5 a6) := by
  unfold enqueue
  try dsimp -proj only
  repeat' first
    | with_reducible assumption
    | with_reducible apply Kept.refl
    | with_reducible apply Kept.ite
    | with_reducible apply Kept.by' (store_k _ _ _)
    | with_reducible apply Kept.by' (tportSet_k _ _ _ _)
    | with_reducible apply Kept.by' (thUpd_k _ _ _ _)
    | apply rfl
    | (with_reducible refine Kept.by' (by with_reducible assumption) ?_ ?_)
    | split
theorem thWakeWrite_k (s : State) (a1) (a2) (a3) (a4) : Kept [.regs, .acc, .mem, .tils] s (thWakeWrite s a1 a2 a3 a4) := by
  unfold thWakeWrite
  try dsimp -proj only
  repeat' first
    | with_reducible assumption
    | with_reducible apply Kept.refl
    | with_reducible apply Kept.ite
    | with_reducible apply Kept.by' (wr_k _ _ _)
    | with_reducible apply Kept.by' (loCommit_k _ _ _)
    | with_reducible apply Kept.by' (wrF_k _ _ _ _ _)
    | with_reducible apply Kept.by' (enqueue_k _ _ _ _ _ _ _)
    | apply rfl
    | (with_reducible refine Kept.by' (by with_reducible assumption) ?_ ?_)
    | split
theorem dbgReg_k (s : State) (a1) (a2) (a3) : Kept [.tils, .draws] s (dbgReg s a1 a2 a3).2 := by
  unfold dbgReg
  try dsimp -proj only
  repeat' first
    | with_reducible assumption
    | with_reducible apply Kept.refl
    | with_reducible apply Kept.ite
    | with_reducible apply Kept.ite1
    | with_reducible apply Kept.ite2
    | with_reducible apply Kept.by' (draw_k _)
    | with_reducible apply Kept.by' (Kept.eq2 (draw_k _) (by assumption))
    | with_reducible apply Kept.by' (thUpd_k _ _ _ _)
    | dsimp only
    | apply rfl
    | (with_reducible refine Kept.by' (by with_reducible assumption) ?_ ?_)
    | split
theorem dbgRun_k (s : State) (a1) (a2) (a3) (a4) (a5) : Kept [.regs, .mem, .tils, .out, .draws] s (dbgRun s a1 a2 a3 a4 a5).1 := by
  unfold dbgRun
  try dsimp -proj only
  repeat' first
    | with_reducible assumption
    | with_reducible apply Kept.refl
    | with_reducible apply Kept.ite
    | with_reducible apply Kept.ite1
    | with_reducible apply Kept.ite2
    | with_reducible apply Kept.by' (wrF_k _ _ _ _ _)
    | with_reducible apply Kept.by' (wr64_k _ _ _)
    | with_reducible apply Kept.by' (emit_k _ _)
    | with_reducible apply Kept.by' (store_k _ _ _)
    | with_reducible apply Kept.by' (tportSet_k _ _ _ _)
    | with_reducible apply Kept.by' (thUpd_k _ _ _ _)
    | with_reducible apply Kept.by' (thIssue_k _ _ _)
    | with_reducible apply Kept.by' (dropOpen_k _ _ _)
    | with_reducible apply Kept.by' (haltThread_k _ _ _)
    | with_reducible apply Kept.by' (resumeThread_k _ _ _)
    | with_reducible apply Kept.by' (resetThread_k _ _ _)
    | with_reducible apply Kept.by' (dbgReg_k _ _ _ _)
    | with_reducible apply Kept.by' (Kept.eq2 (dbgReg_k _ _ _ _) (by assumption))
    | (intro _; intros)
    | dsimp only
    | apply rfl
    | (with_reducible refine Kept.by' (by with_reducible assumption) ?_ ?_)
    | split
theorem dbgCmdWrite_k (s : State) (a1) (a2) (a3) (a4) : Kept [.regs, .mem, .tils, .out, .draws] s (dbgCmdWrite s a1 a2 a3 a4) := by
  unfold dbgCmdWrite
  try dsimp -proj only
  repeat' first
    | with_reducible assumption
    | with_reducible apply Kept.refl
    | with_reducible apply Kept.ite
    | with_reducible apply Kept.ite1
    | with_reducible apply Kept.ite2
    | with_reducible apply Kept.by' (plainWrite_k _ _ _ _)
    | with_reducible apply Kept.by' (dbgRun_k _ _ _ _ _ _)
    | with_reducible apply Kept.by' (Kept.eq1 (dbgRun_k _ _ _ _ _ _) (by assumption))
    | with_reducible apply Kept.by' (wrF_k _ _ _ _ _)
    | apply rfl
    | (with_reducible refine Kept.by' (by with_reducible assumption) ?_ ?_)
    | split
theorem loadPort_k (s : State) (a1) : Kept [.regs] s (loadPort s a1) := by
  unfold loadPort
  try dsimp -proj only
  repeat' first
    | with_reducible assumption
    | with_reducible apply Kept.refl
    | with_reducible apply Kept.ite
    | with_reducible apply Kept.by' (wrN_k _ _ _)
    | with_reducible apply Kept.foldl
    | with_reducible apply Kept.foldl1
    | (intro _; intros)
    | apply rfl
    | (with_reducible refine Kept.by' (by with_reducible assumption) ?_ ?_)
    | split
theorem portSelWrite_k (s : State) (a1) (a2) : Kept [.regs] s (portSelWrite s a1 a2) := by
  unfold portSelWrite
  try dsimp -proj only
  repeat' first
    | with_reducible assumption
    | with_reducible apply Kept.refl
    | with_reducible apply Kept.ite
    | with_reducible apply Kept.by' (loadPort_k _ _)
    | with_reducible apply Kept.by' (wrN_k _ _ _)
    | apply rfl
    | (with_reducible refine Kept.by' (by with_reducible assumption) ?_ ?_)
    | split
theorem unbindPort_k (s : State) (a1) (a2) : Kept [.regs, .ch, .tils] s (unbindPort s a1 a2) := by
  unfold unbindPort
  try dsimp -proj only
  repeat' first
    | with_reducible assumption
    | with_reducible apply Kept.refl
    | with_reducible apply Kept.ite
    | with_reducible apply Kept.ite1
    | with_reducible apply Kept.ite2
    | with_reducible apply Kept.by' (freePortHandle_k _ _)
    | with_reducible apply Kept.by' (tportSet_k _ _ _ _)
    | with_reducible apply Kept.by' (showOpen_k _ _ _)
    | with_reducible apply Kept.foldl
    | with_reducible apply Kept.foldl1
    | (intro _; intros)
    | dsimp only
    | apply rfl
    | (with_reducible refine Kept.by' (by with_reducible assumption) ?_ ?_)
    | split
theorem tilHi_k (s : State) (a1) (a2) : Kept [.regs, .acc] s (tilHi s a1 a2) := by
  unfold tilHi
  try dsimp -proj only
  repeat' first
    | with_reducible assumption
    | with_reducible apply Kept.refl
    | with_reducible apply Kept.ite
    | with_reducible apply Kept.by' (loCommit_k _ _ _)
    | apply rfl
    | (with_reducible refine Kept.by' (by with_reducible assumption) ?_ ?_)
    | split
theorem sealMsg_k (s : State) (a1) (a2) (a3) : Kept [.regs, .mem, .tils] s (sealMsg s a1 a2 a3) := by
  unfold sealMsg
  try dsimp -proj only
  repeat' first
    | with_reducible assumption
    | with_reducible apply Kept.refl
    | with_reducible apply Kept.ite
    | with_reducible apply Kept.by' (showOpen_k _ _ _)
    | with_reducible apply Kept.by' (tportSet_k _ _ _ _)
    | with_reducible apply Kept.by' (tilUpd_k _ _ _)
    | with_reducible apply Kept.by' (enqueue_k _ _ _ _ _ _ _)
    | apply rfl
    | (with_reducible refine Kept.by' (by with_reducible assumption) ?_ ?_)
    | split
theorem chBlock_k (s : State) (a1) (a2) (a3) : Kept [.regs, .tils] s (chBlock s a1 a2 a3) := by
  unfold chBlock
  try dsimp -proj only
  repeat' first
    | with_reducible assumption
    | with_reducible apply Kept.refl
    | with_reducible apply Kept.ite
    | with_reducible apply Kept.by' (thSetState_k _ _ _ _)
    | with_reducible apply Kept.by' (thUpd_k _ _ _ _)
    | with_reducible apply Kept.by' (thIssue_k _ _ _)
    | apply rfl
    | (with_reducible refine Kept.by' (by with_reducible assumption) ?_ ?_)
    | split
theorem ctrlUpd_k (s : State) (a1) (a2) : Kept [.sv] s (ctrlUpd s a1 a2) := by
  unfold ctrlUpd
  try dsimp -proj only
  repeat' first
    | with_reducible assumption
    | with_reducible apply Kept.refl
    | with_reducible apply Kept.ite
    | with_reducible apply Kept.by' (svUpd_k _ _)
    | apply rfl
    | (with_reducible refine Kept.by' (by with_reducible assumption) ?_ ?_)
    | split
theorem svFetch_k (s : State) (a1) (a2) (a3) (a4) : Kept [.regs, .ev, .host, .out, .draws] s (svFetch s a1 a2 a3 a4) := by
  unfold svFetch
  try dsimp -proj only
  repeat' first
    | with_reducible assumption
    | with_reducible apply Kept.refl
    | with_reducible apply Kept.ite
    | with_reducible apply Kept.ite1
    | with_reducible apply Kept.by' (slFetch_k _ _ _ _ _)
    | with_reducible apply Kept.by' (Kept.eq1 (slFetch_k _ _ _ _ _) (by assumption))
    | with_reducible apply Kept.foldl
    | with_reducible apply Kept.foldl1
    | (intro _; intros)
    | with_reducible apply Kept.getD
    | dsimp only
    | apply rfl
    | (with_reducible refine Kept.by' (by with_reducible assumption) ?_ ?_)
    | split
theorem fetchCmd_k (s : State) (a1) (a2) (a3) : Kept [.regs, .ev, .host, .sv, .out, .draws] s (fetchCmd s a1 a2 a3).2 := by
  unfold fetchCmd
  try dsimp -proj only
  repeat' first
    | with_reducible assumption
    | with_reducible apply Kept.refl
    | with_reducible apply Kept.ite
    | with_reducible apply Kept.ite1
    | with_reducible apply Kept.ite2
    | with_reducible apply Kept.by' (svUpd_k _ _)
    | with_reducible apply Kept.by' (ctrlUpd_k _ _ _)
    | with_reducible apply Kept.by' (cmdNew_k _ _)
    | with_reducible apply Kept.by' (Kept.eq2 (cmdNew_k _ _) (by assumption))
    | with_reducible apply Kept.by' (svFetch_k _ _ _ _ _)
    | (intro _; intros)
    | with_reducible apply Kept.getD
    | dsimp only
    | apply rfl
    | (with_reducible refine Kept.by' (by with_reducible assumption) ?_ ?_)
    | split
theorem testQuiet_k (s : State) (a1) : Kept [.sv] s (testQuiet s a1) := by
  unfold testQuiet
  try dsimp -proj only
  repeat' first
    | with_reducible assumption
    | with_reducible apply Kept.refl
    | with_reducible apply Kept.ite
    | with_reducible apply Kept.by' (svUpd_k _ _)
    | apply rfl
    | (with_reducible refine Kept.by' (by with_reducible assumption) ?_ ?_)
    | split
theorem withDnr_k (s : State) (a1) : Kept [.draws] s (withDnr s a1).2 := by
  unfold withDnr
  try dsimp -proj only
  repeat' first
    | with_reducible assumption
    | with_reducible apply Kept.refl
    | with_reducible apply Kept.ite
    | with_reducible apply Kept.ite1
    | with_reducible apply Kept.ite2
    | with_reducible apply Kept.by' (draw_k _)
    | with_reducible apply Kept.by' (Kept.eq2 (draw_k _) (by assumption))
    | dsimp only
    | apply rfl
    | (with_reducible refine Kept.by' (by with_reducible assumption) ?_ ?_)
    | split
theorem errLog_k (s : State) (a1) (a2) (a3) (a4) : Kept [.sv] s (errLog s a1 a2 a3 a4) := by
  unfold errLog
  try dsimp -proj only
  repeat' first
    | with_reducible assumption
    | with_reducible apply Kept.refl
    | with_reducible apply Kept.ite
    | with_reducible apply Kept.by' (ctrlUpd_k _ _ _)
    | apply rfl
    | (with_reducible refine Kept.by' (by with_reducible assumption) ?_ ?_)
    | split
theorem sendVector_k (s : State) (a1) (a2) (a3) : Kept [.host, .out] s (sendVector s a1 a2 a3) := by
  unfold sendVector
  try dsimp -proj only
  repeat' first
    | with_reducible assumption
    | with_reducible apply Kept.refl
    | with_reducible apply Kept.ite
    | with_reducible apply Kept.by' (emit_k _ _)
    | with_reducible apply Kept.by' (fnSet_k _ _ _ _)
    | with_reducible apply Kept.getD
    | dsimp only
    | apply rfl
    | (with_reducible refine Kept.by' (by with_reducible assumption) ?_ ?_)
    | split
theorem cmdUpd_k (s : State) (a1) (a2) : Kept [.sv] s (cmdUpd s a1 a2) := by
  unfold cmdUpd
  try dsimp -proj only
  repeat' first
    | with_reducible assumption
    | with_reducible apply Kept.refl
    | with_reducible apply Kept.ite
    | with_reducible apply Kept.by' (svUpd_k _ _)
    | apply rfl
    | (with_reducible refine Kept.by' (by with_reducible assumption) ?_ ?_)
    | split
theorem testTouch_k (s : State) (a1) : Kept [.sv] s (testTouch s a1) := by
  unfold testTouch
  try dsimp -proj only
  repeat' first
    | with_reducible assumption
    | with_reducible apply Kept.refl
    | with_reducible apply Kept.ite
    | with_reducible apply Kept.by' (svUpd_k _ _)
    | apply rfl
    | (with_reducible refine Kept.by' (by with_reducible assumption) ?_ ?_)
    | split
theorem drvOpen_k (s : State) (a1) (a2) (a3) : Kept [.regs, .host] s (drvOpen s a1 a2 a3) := by
  unfold drvOpen
  try dsimp -proj only
  repeat' first
    | with_reducible assumption
    | with_reducible apply Kept.refl
    | with_reducible apply Kept.ite
    | with_reducible apply Kept.by' (bump_k _ _ _)
    | with_reducible apply Kept.by' (rpUpd_k _ _ _)
    | with_reducible apply Kept.foldl
    | with_reducible apply Kept.foldl1
    | (intro _; intros)
    | dsimp only
    | apply rfl
    | (with_reducible refine Kept.by' (by with_reducible assumption) ?_ ?_)
    | split
theorem countIo_k (s : State) (a1) (a2) : Kept [.regs, .sv] s (countIo s a1 a2) := by
  unfold countIo
  try dsimp -proj only
  repeat' first
    | with_reducible assumption
    | with_reducible apply Kept.refl
    | with_reducible apply Kept.ite
    | with_reducible apply Kept.ite2
    | with_reducible apply Kept.by' (ctrlUpd_k _ _ _)
    | with_reducible apply Kept.by' (bump64_k _ _ _)
    | with_reducible apply Kept.foldl
    | with_reducible apply Kept.foldl1
    | (intro _; intros)
    | apply rfl
    | (with_reducible refine Kept.by' (by with_reducible assumption) ?_ ?_)
    | split
theorem nsUpd_k (s : State) (a1) (a2) : Kept [.sv] s (nsUpd s a1 a2) := by
  unfold nsUpd
  try dsimp -proj only
  repeat' first
    | with_reducible assumption
    | with_reducible apply Kept.refl
    | with_reducible apply Kept.ite
    | with_reducible apply Kept.by' (svUpd_k _ _)
    | apply rfl
    | (with_reducible refine Kept.by' (by with_reducible assumption) ?_ ?_)
    | split
theorem unmapUnit_k (s : State) (a1) (a2) : Kept [.mem, .sv] s (unmapUnit s a1 a2) := by
  unfold unmapUnit
  try dsimp -proj only
  repeat' first
    | with_reducible assumption
    | with_reducible apply Kept.refl
    | with_reducible apply Kept.ite
    | with_reducible apply Kept.by' (nsUpd_k _ _ _)
    | with_reducible apply Kept.set_mem
    | with_reducible apply Kept.set_sv
    | (refine Kept.of ⟨fun p hp => ?_⟩ rfl rfl rfl (congrArg AccSt.own rfl); cases p <;> first | rfl | cases hp)
    | exact fun h => memPuts_wf h
    | exact fun h => memClear_wf h
    | exact memPuts_wf (by assumption)
    | exact memClear_wf (by assumption)
    | exact fun h => filter_wf _ h
    | exact fun h => h
    | apply rfl
    | (with_reducible refine Kept.by' (by with_reducible assumption) ?_ ?_)
    | split
theorem deacApply_k (s : State) (a1) (a2) (a3) (a4) : Kept [.mem, .sv] s (deacApply s a1 a2 a3 a4) := by
  unfold deacApply
  try dsimp -proj only
  repeat' first
    | with_reducible assumption
    | with_reducible apply Kept.refl
    | with_reducible apply Kept.ite
    | with_reducible apply Kept.by' (unmapUnit_k _ _ _)
    | with_reducible apply Kept.by' (store_k _ _ _)
    | with_reducible apply Kept.foldl
    | with_reducible apply Kept.foldl1
    | (intro _; intros)
    | apply rfl
    | (with_reducible refine Kept.by' (by with_reducible assumption) ?_ ?_)
    | split
theorem dsmApply_k (s : State) (a1) (a2) (a3) : Kept [.mem, .sv] s (dsmApply s a1 a2 a3) := by
  unfold dsmApply
  try dsimp -proj only
  repeat' first
    | with_reducible assumption
    | with_reducible apply Kept.refl
    | with_reducible apply Kept.ite
    | with_reducible apply Kept.ite1
    | with_reducible apply Kept.ite2
    | with_reducible apply Kept.by' (unmapUnit_k _ _ _)
    | with_reducible apply Kept.foldl
    | with_reducible apply Kept.foldl1
    | (intro _; intros)
    | apply rfl
    | (with_reducible refine Kept.by' (by with_reducible assumption) ?_ ?_)
    | split
theorem sendAway_k (s : State) (a1) (a2) (a3) (a4) : Kept [.regs, .host, .out] s (sendAway s a1 a2 a3 a4) := by
  unfold sendAway
  try dsimp -proj only
  repeat' first
    | with_reducible assumption
    | with_reducible apply Kept.refl
    | with_reducible apply Kept.ite
    | with_reducible apply Kept.by' (emit_k _ _)
    | with_reducible apply Kept.by' (drvOpen_k _ _ _ _)
    | dsimp only
    | apply rfl
    | (with_reducible refine Kept.by' (by with_reducible assumption) ?_ ?_)
    | split
theorem giveBuf_k (s : State) (a1) : Kept [.ch, .rm] s (giveBuf s a1).1 := by
  unfold giveBuf
  try dsimp -proj only
  repeat' first
    | with_reducible assumption
    | with_reducible apply Kept.refl
    | with_reducible apply Kept.ite
    | with_reducible apply Kept.ite1
    | with_reducible apply Kept.by' (chanUpd_k _ _ _)
    | with_reducible apply Kept.by' (unrefKeys_k _ _)
    | dsimp only
    | apply rfl
    | (with_reducible refine Kept.by' (by with_reducible assumption) ?_ ?_)
    | split
theorem cacheFill_k (s : State) (a1) (a2) (a3) : Kept [.cy, .draws] s (cacheFill s a1 a2 a3) := by
  unfold cacheFill
  try dsimp -proj only
  repeat' first
    | with_reducible assumption
    | with_reducible apply Kept.refl
    | with_reducible apply Kept.ite
    | with_reducible apply Kept.ite1
    | with_reducible apply Kept.ite2
    | with_reducible apply Kept.by' (cyUpd_k _ _)
    | with_reducible apply Kept.by' (draw_k _)
    | with_reducible apply Kept.by' (Kept.eq2 (draw_k _) (by assumption))
    | apply rfl
    | (with_reducible refine Kept.by' (by with_reducible assumption) ?_ ?_)
    | split
theorem slUpd_k (s : State) (a1) (a2) : Kept [.slices] s (slUpd s a1 a2) := by
  unfold slUpd
  try dsimp -proj only
  repeat' first
    | with_reducible assumption
    | with_reducible apply Kept.refl
    | with_reducible apply Kept.ite
    | with_reducible apply Kept.set_slices
    | (refine Kept.of ⟨fun p hp => ?_⟩ rfl rfl rfl (congrArg AccSt.own rfl); cases p <;> first | rfl | cases hp)
    | apply rfl
    | (with_reducible refine Kept.by' (by with_reducible assumption) ?_ ?_)
    | split
theorem qpTimersRestart_k (s : State) (a1) : Kept [.rm] s (qpTimersRestart s a1) := by
  unfold qpTimersRestart
  try dsimp -proj only
  repeat' first
    | with_reducible assumption
    | with_reducible apply Kept.refl
    | with_reducible apply Kept.ite
    | with_reducible apply Kept.ite1
    | with_reducible apply Kept.ite2
    | with_reducible apply Kept.by' (qpUpd_k _ _ _)
    | with_reducible apply Kept.foldl
    | with_reducible apply Kept.foldl1
    | (intro _; intros)
    | apply rfl
    | (with_reducible refine Kept.by' (by with_reducible assumption) ?_ ?_)
    | split
theorem nsState_k (s : State) (a1) (a2) : Kept [.regs, .ev, .sv] s (nsState s a1 a2) := by
  unfold nsState
  try dsimp -proj only
  repeat' first
    | with_reducible assumption
    | with_reducible apply Kept.refl
    | with_reducible apply Kept.ite
    | with_reducible apply Kept.by' (raise_k _ _ _)
    | with_reducible apply Kept.by' (nsUpd_k _ _ _)
    | apply rfl
    | (with_reducible refine Kept.by' (by with_reducible assumption) ?_ ?_)
    | split
theorem adminDefer_k (s : State) (a1) (a2) (a3) (a4) : Kept [.ch] s (adminDefer s a1 a2 a3 a4) := by
  unfold adminDefer
  try dsimp -proj only
  repeat' first
    | with_reducible assumption
    | with_reducible apply Kept.refl
    | with_reducible apply Kept.ite
    | with_reducible apply Kept.by' (adminEnt_k _ _ _)
    | with_reducible apply Kept.set_ch
    | (refine Kept.of ⟨fun p hp => ?_⟩ rfl rfl rfl (congrArg AccSt.own rfl); cases p <;> first | rfl | cases hp)
    | apply rfl
    | (with_reducible refine Kept.by' (by with_reducible assumption) ?_ ?_)
    | split
theorem keyDone_k (s : State) (a1) (a2) (a3) (a4) (a5) : Kept [.ch] s (keyDone s a1 a2 a3 a4 a5).1 := by
  unfold keyDone
  try dsimp -proj only
  repeat' first
    | with_reducible assumption
    | with_reducible apply Kept.refl
    | with_reducible apply Kept.ite
    | with_reducible apply Kept.ite1
    | with_reducible apply Kept.by' (adminDefer_k _ _ _ _ _)
    | dsimp only
    | apply rfl
    | (with_reducible refine Kept.by' (by with_reducible assumption) ?_ ?_)
    | split
theorem showSlots_k (s : State) : Kept [.regs] s (showSlots s) := by
  unfold showSlots
  try dsimp -proj only
  repeat' first
    | with_reducible assumption
    | with_reducible apply Kept.refl
    | with_reducible apply Kept.ite
    | with_reducible apply Kept.by' (wrN_k _ _ _)
    | apply rfl
    | (with_reducible refine Kept.by' (by with_reducible assumption) ?_ ?_)
    | split
theorem regionGone_k (s : State) (a1) : Kept [.rm] s (regionGone s a1) := by
  unfold regionGone
  try dsimp -proj only
  repeat' first
    | with_reducible assumption
    | with_reducible apply Kept.refl
    | with_reducible apply Kept.ite
    | with_reducible apply Kept.by' (rmUpd_k _ _)
    | apply rfl
    | (with_reducible refine Kept.by' (by with_reducible assumption) ?_ ?_)
    | split
theorem revoke_k (s : State) (a1) : Kept [.rm] s (revoke s a1) := by
  unfold revoke
  try dsimp -proj only
  repeat' first
    | with_reducible assumption
    | with_reducible apply Kept.refl
    | with_reducible apply Kept.ite
    | with_reducible apply Kept.by' (rmUpd_k _ _)
    | apply rfl
    | (with_reducible refine Kept.by' (by with_reducible assumption) ?_ ?_)
    | split
theorem freeOwn_k (s : State) (a1) : Kept [.regs, .ch, .tils] s (freeOwn s a1) := by
  unfold freeOwn
  try dsimp -proj only
  repeat' first
    | with_reducible assumption
    | with_reducible apply Kept.refl
    | with_reducible apply Kept.ite
    | with_reducible apply Kept.ite2
    | with_reducible apply Kept.by' (freePortHandle_k _ _)
    | with_reducible apply Kept.by' (wrN_k _ _ _)
    | with_reducible apply Kept.by' (tilUpd_k _ _ _)
    | with_reducible apply Kept.foldl
    | with_reducible apply Kept.foldl1
    | (intro _; intros)
    | apply rfl
    | (with_reducible refine Kept.by' (by with_reducible assumption) ?_ ?_)
    | split
theorem indReply_k (s : State) (a1) (a2) (a3) : Kept [.out] s (indReply s a1 a2 a3) := by
  unfold indReply
  try dsimp -proj only
  repeat' first
    | with_reducible assumption
    | with_reducible apply Kept.refl
    | with_reducible apply Kept.ite
    | with_reducible apply Kept.by' (emit_k _ _)
    | dsimp only
    | apply rfl
    | (with_reducible refine Kept.by' (by with_reducible assumption) ?_ ?_)
    | split
theorem indPut_k (s : State) (a1) (a2) : Kept [.acc] s (indPut s a1 a2) := by
  unfold indPut
  try dsimp -proj only
  repeat' first
    | with_reducible assumption
    | with_reducible apply Kept.refl
    | with_reducible apply Kept.ite
    | with_reducible apply Kept.set_acc
    | exact fun h => h
    | exact fun _ => rfl
    | assumption
    | (refine Kept.of ⟨fun p hp => ?_⟩ rfl rfl rfl (congrArg AccSt.own rfl); cases p <;> first | rfl | cases hp)
    | apply rfl
    | (with_reducible refine Kept.by' (by with_reducible assumption) ?_ ?_)
    | split
theorem indSettle_k (s : State) (a1) : Kept [.regs, .acc, .out] s (indSettle s a1) := by
  unfold indSettle
  try dsimp -proj only
  repeat' first
    | with_reducible assumption
    | with_reducible apply Kept.refl
    | with_reducible apply Kept.ite
    | with_reducible apply Kept.by' (wrF_k _ _ _ _ _)
    | with_reducible apply Kept.by' (indPut_k _ _ _)
    | with_reducible apply Kept.by' (indReply_k _ _ _ _)
    | dsimp only
    | apply rfl
    | (with_reducible refine Kept.by' (by with_reducible assumption) ?_ ?_)
    | split
theorem parseCommit_k (s : State) (a1) : Kept [.regs, .ev] s (parseCommit s a1) := by
  unfold parseCommit
  try dsimp -proj only
  repeat' first
    | with_reducible assumption
    | with_reducible apply Kept.refl
    | with_reducible apply Kept.ite
    | with_reducible apply Kept.by' (raise_k _ _ _)
    | with_reducible apply Kept.by' (wrF_k _ _ _ _ _)
    | with_reducible apply Kept.foldl
    | with_reducible apply Kept.foldl1
    | (intro _; intros)
    | apply rfl
    | (with_reducible refine Kept.by' (by with_reducible assumption) ?_ ?_)
    | split
theorem bankCommit_k (s : State) (a1) (a2) : Kept [.regs, .ev, .sheaf] s (bankCommit s a1 a2) := by
  unfold bankCommit
  try dsimp -proj only
  repeat' first
    | with_reducible assumption
    | with_reducible apply Kept.refl
    | with_reducible apply Kept.ite
    | with_reducible apply Kept.by' (raise_k _ _ _)
    | with_reducible apply Kept.by' (wrF_k _ _ _ _ _)
    | with_reducible apply Kept.by' (sheafUpd_k _ _)
    | with_reducible apply Kept.foldl
    | with_reducible apply Kept.foldl1
    | (intro _; intros)
    | apply rfl
    | (with_reducible refine Kept.by' (by with_reducible assumption) ?_ ?_)
    | split
theorem commitNow_k (s : State) (a1) : Kept [.regs, .ev, .stairs, .sheaf] s (commitNow s a1) := by
  unfold commitNow
  try dsimp -proj only
  repeat' first
    | with_reducible assumption
    | with_reducible apply Kept.refl
    | with_reducible apply Kept.ite
    | with_reducible apply Kept.by' (wrN_k _ _ _)
    | with_reducible apply Kept.by' (sheafUpd_k _ _)
    | with_reducible apply Kept.by' (parseCommit_k _ _)
    | with_reducible apply Kept.by' (bankCommit_k _ _ _)
    | with_reducible apply Kept.by' (wr64_k _ _ _)
    | with_reducible apply Kept.by' (wrF_k _ _ _ _ _)
    | with_reducible apply Kept.by' (rhEnd_k _ _)
    | with_reducible apply Kept.by' (raiseLate_k _ _ _ _)
    | apply rfl
    | (with_reducible refine Kept.by' (by with_reducible assumption) ?_ ?_)
    | split
theorem ptmLost_k (s : State) (a1) (a2) : Kept [.regs, .time, .ev] s (ptmLost s a1 a2) := by
  unfold ptmLost
  try dsimp -proj only
  repeat' first
    | with_reducible assumption
    | with_reducible apply Kept.refl
    | with_reducible apply Kept.ite
    | with_reducible apply Kept.by' (sourceLost_k _ _)
    | apply rfl
    | (with_reducible refine Kept.by' (by with_reducible assumption) ?_ ?_)
    | split
theorem latchPut_k (s : State) (a1) (a2) : Kept [.acc] s (latchPut s a1 a2) := by
  unfold latchPut
  try dsimp -proj only
  repeat' first
    | with_reducible assumption
    | with_reducible apply Kept.refl
    | with_reducible apply Kept.ite
    | with_reducible apply Kept.ite1
    | with_reducible apply Kept.ite2
    | with_reducible apply Kept.set_acc
    | exact fun h => h
    | exact fun _ => rfl
    | assumption
    | (refine Kept.of ⟨fun p hp => ?_⟩ rfl rfl rfl (congrArg AccSt.own rfl); cases p <;> first | rfl | cases hp)
    | apply rfl
    | (with_reducible refine Kept.by' (by with_reducible assumption) ?_ ?_)
    | split
theorem snapRead_k (s : State) (a1) (a2) : Kept [.acc] s (snapRead s a1 a2).1 := by
  unfold snapRead
  try dsimp -proj only
  repeat' first
    | with_reducible assumption
    | with_reducible apply Kept.refl
    | with_reducible apply Kept.ite
    | with_reducible apply Kept.ite1
    | with_reducible apply Kept.by' (latchPut_k _ _ _)
    | dsimp only
    | apply rfl
    | (with_reducible refine Kept.by' (by with_reducible assumption) ?_ ?_)
    | split
theorem readClear_k (s : State) (a1) : Kept [.regs, .host] s (readClear s a1) := by
  unfold readClear
  try dsimp -proj only
  repeat' first
    | with_reducible assumption
    | with_reducible apply Kept.refl
    | with_reducible apply Kept.ite
    | with_reducible apply Kept.ite1
    | with_reducible apply Kept.ite2
    | with_reducible apply Kept.by' (wrN_k _ _ _)
    | with_reducible apply Kept.by' (fnUpd_k _ _ _ _)
    | with_reducible apply Kept.by' (wr64_k _ _ _)
    | apply rfl
    | (with_reducible refine Kept.by' (by with_reducible assumption) ?_ ?_)
    | split
theorem ucDataRead_k (s : State) (a1) (a2) (a3) : Kept [.regs] s (ucDataRead s a1 a2 a3).1 := by
  unfold ucDataRead
  try dsimp -proj only
  repeat' first
    | with_reducible assumption
    | with_reducible apply Kept.refl
    | with_reducible apply Kept.ite
    | with_reducible apply Kept.ite1
    | with_reducible apply Kept.by' (ucInc_k _ _ _ _)
    | dsimp only
    | apply rfl
    | (with_reducible refine Kept.by' (by with_reducible assumption) ?_ ?_)
    | split
theorem readAdvance_k (s : State) (a1) : Kept [.regs] s (readAdvance s a1) := by
  unfold readAdvance
  try dsimp -proj only
  repeat' first
    | with_reducible assumption
    | with_reducible apply Kept.refl
    | with_reducible apply Kept.ite
    | with_reducible apply Kept.ite1
    | with_reducible apply Kept.by' (ucDataRead_k _ _ _ _)
    | with_reducible apply Kept.by' (Kept.eq1 (ucDataRead_k _ _ _ _) (by assumption))
    | apply rfl
    | (with_reducible refine Kept.by' (by with_reducible assumption) ?_ ?_)
    | split
theorem regRead_k (s : State) (a1) (a2) : Kept [.regs, .acc, .host] s (regRead s a1 a2).1 := by
  unfold regRead
  try dsimp -proj only
  repeat' first
    | with_reducible assumption
    | with_reducible apply Kept.refl
    | with_reducible apply Kept.ite
    | with_reducible apply Kept.ite1
    | with_reducible apply Kept.by' (latchPut_k _ _ _)
    | with_reducible apply Kept.by' (readClear_k _ _)
    | with_reducible apply Kept.by' (readAdvance_k _ _)
    | dsimp only
    | apply rfl
    | (with_reducible refine Kept.by' (by with_reducible assumption) ?_ ?_)
    | split
theorem logPut_k (s : State) (a1) : Kept [.regs, .oz] s (logPut s a1) := by
  unfold logPut
  try dsimp -proj only
  repeat' first
    | with_reducible assumption
    | with_reducible apply Kept.refl
    | with_reducible apply Kept.ite
    | with_reducible apply Kept.by' (bump_k _ _ _)
    | with_reducible apply Kept.set_regs
    | with_reducible apply Kept.set_oz
    | (refine Kept.of ⟨fun p hp => ?_⟩ rfl rfl rfl (congrArg AccSt.own rfl); cases p <;> first | rfl | cases hp)
    | exact fun h => aset_rising _ _ h
    | exact fun h => filter_rising _ h
    | exact fun h => h
    | exact OzLe.same rfl rfl rfl
    | apply rfl
    | (with_reducible refine Kept.by' (by with_reducible assumption) ?_ ?_)
    | split
theorem rpBit_k (s : State) (a1) (a2) (a3) (a4) : Kept [.host] s (rpBit s a1 a2 a3 a4) := by
  unfold rpBit
  try dsimp -proj only
  repeat' first
    | with_reducible assumption
    | with_reducible apply Kept.refl
    | with_reducible apply Kept.ite
    | with_reducible apply Kept.by' (rpSet_k _ _ _ _)
    | apply rfl
    | (with_reducible refine Kept.by' (by with_reducible assumption) ?_ ?_)
    | split
theorem rpAer_k (s : State) (a1) (a2) (a3) (a4) : Kept [.regs, .ev, .host] s (rpAer s a1 a2 a3 a4) := by
  unfold rpAer
  try dsimp -proj only
  repeat' first
    | with_reducible assumption
    | with_reducible apply Kept.refl
    | with_reducible apply Kept.ite
    | with_reducible apply Kept.by' (raise_k _ _ _)
    | with_reducible apply Kept.by' (rpBit_k _ _ _ _ _)
    | dsimp only
    | apply rfl
    | (with_reducible refine Kept.by' (by with_reducible assumption) ?_ ?_)
    | split
theorem takeFlight_k (s : State) (a1) (a2) (a3) (a4) : Kept [.regs, .stairs, .land] s (takeFlight s a1 a2 a3 a4).1 := by
  unfold takeFlight
  try dsimp -proj only
  repeat' first
    | with_reducible assumption
    | with_reducible apply Kept.refl
    | with_reducible apply Kept.ite
    | with_reducible apply Kept.ite1
    | with_reducible apply Kept.by' (entryUpd_k _ _ _ _)
    | with_reducible apply Kept.by' (wrN_k _ _ _)
    | with_reducible apply Kept.by' (flightUpd_k _ _ _ _)
    | dsimp only
    | apply rfl
    | (with_reducible refine Kept.by' (by with_reducible assumption) ?_ ?_)
    | split
theorem loadPause_k (s : State) (a1) (a2) (a3) : Kept [.net] s (loadPause s a1 a2 a3) := by
  unfold loadPause
  try dsimp -proj only
  repeat' first
    | with_reducible assumption
    | with_reducible apply Kept.refl
    | with_reducible apply Kept.ite
    | with_reducible apply Kept.by' (portSet_k _ _ _)
    | dsimp only
    | apply rfl
    | (with_reducible refine Kept.by' (by with_reducible assumption) ?_ ?_)
    | split
theorem unIgnore_k (s : State) (a1) (a2) (a3) : Kept [.net] s (unIgnore s a1 a2 a3) := by
  unfold unIgnore
  try dsimp -proj only
  repeat' first
    | with_reducible assumption
    | with_reducible apply Kept.refl
    | with_reducible apply Kept.ite
    | with_reducible apply Kept.by' (portUpd_k _ _ _)
    | (intro _; intros)
    | dsimp only
    | apply rfl
    | (with_reducible refine Kept.by' (by with_reducible assumption) ?_ ?_)
    | split
theorem macControl_k (s : State) (a1) (a2) : Kept [.regs, .net] s (macControl s a1 a2) := by
  unfold macControl
  try dsimp -proj only
  repeat' first
    | with_reducible assumption
    | with_reducible apply Kept.refl
    | with_reducible apply Kept.ite
    | with_reducible apply Kept.by' (bump_k _ _ _)
    | with_reducible apply Kept.by' (portCnt_k _ _ _ _)
    | with_reducible apply Kept.by' (pauseUpdate_k _ _)
    | with_reducible apply Kept.by' (unIgnore_k _ _ _ _)
    | with_reducible apply Kept.by' (loadPause_k _ _ _ _)
    | with_reducible apply Kept.foldl
    | with_reducible apply Kept.foldl1
    | (intro _; intros)
    | dsimp only
    | apply rfl
    | (with_reducible refine Kept.by' (by with_reducible assumption) ?_ ?_)
    | split
theorem setTwins_k (s : State) (a1) (a2) (a3) : Kept [.stairs] s (setTwins s a1 a2 a3) := by
  unfold setTwins
  try dsimp -proj only
  repeat' first
    | with_reducible assumption
    | with_reducible apply Kept.refl
    | with_reducible apply Kept.ite
    | with_reducible apply Kept.by' (stairUpd_k _ _ _)
    | apply rfl
    | (with_reducible refine Kept.by' (by with_reducible assumption) ?_ ?_)
    | split
theorem ringModerate_k (s : State) (a1) : Kept [.host, .ch, .out] s (ringModerate s a1) := by
  unfold ringModerate
  try dsimp -proj only
  repeat' first
    | with_reducible assumption
    | with_reducible apply Kept.refl
    | with_reducible apply Kept.ite
    | with_reducible apply Kept.by' (chanSet_k _ _ _)
    | with_reducible apply Kept.by' (sendVector_k _ _ _ _)
    | apply rfl
    | (with_reducible refine Kept.by' (by with_reducible assumption) ?_ ?_)
    | split
theorem tmPut1_k (s : State) (a1) (a2) (a3) : Kept [.regs, .mem, .host, .ch, .slices, .out] s (tmPut1 s a1 a2 a3) := by
  unfold tmPut1
  try dsimp -proj only
  repeat' first
    | with_reducible assumption
    | with_reducible apply Kept.refl
    | with_reducible apply Kept.ite
    | with_reducible apply Kept.by' (slWrite_k _ _ _ _ _)
    | with_reducible apply Kept.by' (bump_k _ _ _)
    | with_reducible apply Kept.by' (ringModerate_k _ _)
    | with_reducible apply Kept.by' (mirrorWrite_k _ _)
    | with_reducible apply Kept.by' (chanSet_k _ _ _)
    | apply rfl
    | (with_reducible refine Kept.by' (by with_reducible assumption) ?_ ?_)
    | split
theorem dfltAct_k (s : State) (a1) (a2) (a3) (a4) : Kept [.regs] s (dfltAct s a1 a2 a3 a4).1 := by
  unfold dfltAct
  try dsimp -proj only
  repeat' first
    | with_reducible assumption
    | with_reducible apply Kept.refl
    | with_reducible apply Kept.ite
    | with_reducible apply Kept.ite1
    | with_reducible apply Kept.ite2
    | with_reducible apply Kept.by' (bump_k _ _ _)
    | dsimp only
    | apply rfl
    | (with_reducible refine Kept.by' (by with_reducible assumption) ?_ ?_)
    | split
theorem oweAck_k (s : State) (a1) (a2) (a3) (a4) (a5) : Kept [.regs, .rm] s (oweAck s a1 a2 a3 a4 a5) := by
  unfold oweAck
  try dsimp -proj only
  repeat' first
    | with_reducible assumption
    | with_reducible apply Kept.refl
    | with_reducible apply Kept.ite
    | with_reducible apply Kept.by' (bump_k _ _ _)
    | with_reducible apply Kept.by' (qpUpd_k _ _ _)
    | apply rfl
    | (with_reducible refine Kept.by' (by with_reducible assumption) ?_ ?_)
    | split
theorem regionRef_k (s : State) (a1) : Kept [.rm] s (regionRef s a1) := by
  unfold regionRef
  try dsimp -proj only
  repeat' first
    | with_reducible assumption
    | with_reducible apply Kept.refl
    | with_reducible apply Kept.ite
    | with_reducible apply Kept.by' (rmUpd_k _ _)
    | apply rfl
    | (with_reducible refine Kept.by' (by with_reducible assumption) ?_ ?_)
    | split
theorem popClimb_k (s : State) (a1) (a2) (a3) (a4) : Kept [.regs, .stairs] s (popClimb s a1 a2 a3 a4) := by
  unfold popClimb
  try dsimp -proj only
  repeat' first
    | with_reducible assumption
    | with_reducible apply Kept.refl
    | with_reducible apply Kept.ite
    | with_reducible apply Kept.by' (flightUpd_k _ _ _ _)
    | with_reducible apply Kept.by' (bump64_k _ _ _)
    | with_reducible apply Kept.by' (wrN_k _ _ _)
    | apply rfl
    | (with_reducible refine Kept.by' (by with_reducible assumption) ?_ ?_)
    | split
theorem begunDec_k (s : State) (a1) : Kept [.land] s (begunDec s a1) := by
  unfold begunDec
  try dsimp -proj only
  repeat' first
    | with_reducible assumption
    | with_reducible apply Kept.refl
    | with_reducible apply Kept.ite
    | with_reducible apply Kept.set_land
    | (refine Kept.of ⟨fun p hp => ?_⟩ rfl rfl rfl (congrArg AccSt.own rfl); cases p <;> first | rfl | cases hp)
    | apply rfl
    | (with_reducible refine Kept.by' (by with_reducible assumption) ?_ ?_)
    | split
theorem hallPut_k (s : State) (a1) (a2) (a3) (a4) : Kept [.land] s (hallPut s a1 a2 a3 a4) := by
  unfold hallPut
  try dsimp -proj only
  repeat' first
    | with_reducible assumption
    | with_reducible apply Kept.refl
    | with_reducible apply Kept.ite
    | with_reducible apply Kept.set_land
    | (refine Kept.of ⟨fun p hp => ?_⟩ rfl rfl rfl (congrArg AccSt.own rfl); cases p <;> first | rfl | cases hp)
    | apply rfl
    | (with_reducible refine Kept.by' (by with_reducible assumption) ?_ ?_)
    | split
theorem countWithdraw_k (s : State) (a1) (a2) (a3) : Kept [.regs] s (countWithdraw s a1 a2 a3) := by
  unfold countWithdraw
  try dsimp -proj only
  repeat' first
    | with_reducible assumption
    | with_reducible apply Kept.refl
    | with_reducible apply Kept.ite
    | with_reducible apply Kept.by' (bump_k _ _ _)
    | apply rfl
    | (with_reducible refine Kept.by' (by with_reducible assumption) ?_ ?_)
    | split
theorem discardAt_k (s : State) (a1) (a2) (a3) (a4) : Kept [.regs, .stairs] s (discardAt s a1 a2 a3 a4) := by
  unfold discardAt
  try dsimp -proj only
  repeat' first
    | with_reducible assumption
    | with_reducible apply Kept.refl
    | with_reducible apply Kept.ite
    | with_reducible apply Kept.ite1
    | with_reducible apply Kept.ite2
    | with_reducible apply Kept.by' (countWithdraw_k _ _ _ _)
    | with_reducible apply Kept.by' (flightUpd_k _ _ _ _)
    | apply rfl
    | (with_reducible refine Kept.by' (by with_reducible assumption) ?_ ?_)
    | split
theorem hitCount_k (s : State) (a1) (a2) (a3) (a4) (a5) : Kept [.regs, .stairs] s (hitCount s a1 a2 a3 a4 a5) := by
  unfold hitCount
  try dsimp -proj only
  repeat' first
    | with_reducible assumption
    | with_reducible apply Kept.refl
    | with_reducible apply Kept.ite
    | with_reducible apply Kept.by' (elemSet_k _ _ _ _ _ _)
    | with_reducible apply Kept.by' (bump_k _ _ _)
    | apply rfl
    | (with_reducible refine Kept.by' (by with_reducible assumption) ?_ ?_)
    | split
theorem applyAll_k (s : State) (a1) (a2) (a3) (a4) : Kept [.regs, .stairs] s (applyAll s a1 a2 a3 a4) := by
  unfold applyAll
  try dsimp -proj only
  repeat' first
    | with_reducible assumption
    | with_reducible apply Kept.refl
    | with_reducible apply Kept.ite
    | with_reducible apply Kept.by' (applyIntent_k _ _ _ _)
    | with_reducible apply Kept.by' (hitCount_k _ _ _ _ _ _)
    | with_reducible apply Kept.foldl
    | with_reducible apply Kept.foldl1
    | (intro _; intros)
    | apply rfl
    | (with_reducible refine Kept.by' (by with_reducible assumption) ?_ ?_)
    | split
theorem ecnAdmit_k (s : State) (a1) (a2) : Kept [.regs, .land] s (ecnAdmit s a1 a2).1 := by
  unfold ecnAdmit
  try dsimp -proj only
  repeat' first
    | with_reducible assumption
    | with_reducible apply Kept.refl
    | with_reducible apply Kept.ite
    | with_reducible apply Kept.ite1
    | with_reducible apply Kept.by' (bump_k _ _ _)
    | with_reducible apply Kept.by' (nodeTally_k _ _ _)
    | dsimp only
    | apply rfl
    | (with_reducible refine Kept.by' (by with_reducible assumption) ?_ ?_)
    | split
theorem noBuf_k (s : State) (a1) : Kept [.ch] s (noBuf s a1) := by
  unfold noBuf
  try dsimp -proj only
  repeat' first
    | with_reducible assumption
    | with_reducible apply Kept.refl
    | with_reducible apply Kept.ite
    | with_reducible apply Kept.ite2
    | with_reducible apply Kept.by' (chanSet_k _ _ _)
    | with_reducible apply Kept.foldl
    | with_reducible apply Kept.foldl1
    | (intro _; intros)
    | apply rfl
    | (with_reducible refine Kept.by' (by with_reducible assumption) ?_ ?_)
    | split
theorem prelWrite_k (s : State) (a1) (a2) (a3) (a4) : Kept [.tils] s (prelWrite s a1 a2 a3 a4) := by
  unfold prelWrite
  try dsimp -proj only
  repeat' first
    | with_reducible assumption
    | with_reducible apply Kept.refl
    | with_reducible apply Kept.ite
    | with_reducible apply Kept.by' (tportSet_k _ _ _ _)
    | apply rfl
    | (with_reducible refine Kept.by' (by with_reducible assumption) ?_ ?_)
    | split
theorem workDone_k (s : State) (a1) (a2) : Kept [.regs, .ch, .rm] s (workDone s a1 a2) := by
  unfold workDone
  try dsimp -proj only
  repeat' first
    | with_reducible assumption
    | with_reducible apply Kept.refl
    | with_reducible apply Kept.ite
    | with_reducible apply Kept.by' (qpUpd_k _ _ _)
    | with_reducible apply Kept.by' (unrefKeys_k _ _)
    | with_reducible apply Kept.by' (finishEnt_k _ _ _ _)
    | apply rfl
    | (with_reducible refine Kept.by' (by with_reducible assumption) ?_ ?_)
    | split
theorem barResize_k (s : State) (a1) (a2) (a3) (a4) : Kept [.regs, .ev, .host] s (barResize s a1 a2 a3 a4) := by
  unfold barResize
  try dsimp -proj only
  repeat' first
    | with_reducible assumption
    | with_reducible apply Kept.refl
    | with_reducible apply Kept.ite
    | with_reducible apply Kept.by' (fnRefuse_k _ _ _ _)
    | with_reducible apply Kept.by' (fnUpd_k _ _ _ _)
    | with_reducible apply Kept.by' (raise_k _ _ _)
    | with_reducible apply Kept.foldl
    | with_reducible apply Kept.foldl1
    | (intro _; intros)
    | apply rfl
    | (with_reducible refine Kept.by' (by with_reducible assumption) ?_ ?_)
    | split
theorem tdispTo_k (s : State) (a1) (a2) (a3) : Kept [.regs, .ev, .host] s (tdispTo s a1 a2 a3) := by
  unfold tdispTo
  try dsimp -proj only
  repeat' first
    | with_reducible assumption
    | with_reducible apply Kept.refl
    | with_reducible apply Kept.ite
    | with_reducible apply Kept.by' (raise_k _ _ _)
    | with_reducible apply Kept.by' (fnUpd_k _ _ _ _)
    | apply rfl
    | (with_reducible refine Kept.by' (by with_reducible assumption) ?_ ?_)
    | split
theorem tdispBreak_k (s : State) (a1) (a2) : Kept [.regs, .ev, .host] s (tdispBreak s a1 a2) := by
  unfold tdispBreak
  try dsimp -proj only
  repeat' first
    | with_reducible assumption
    | with_reducible apply Kept.refl
    | with_reducible apply Kept.ite
    | with_reducible apply Kept.by' (tdispTo_k _ _ _ _)
    | apply rfl
    | (with_reducible refine Kept.by' (by with_reducible assumption) ?_ ?_)
    | split
theorem vfCome_k (s : State) (a1) (a2) : Kept [.regs, .ev, .host] s (vfCome s a1 a2) := by
  unfold vfCome
  try dsimp -proj only
  repeat' first
    | with_reducible assumption
    | with_reducible apply Kept.refl
    | with_reducible apply Kept.ite
    | with_reducible apply Kept.by' (tdispTo_k _ _ _ _)
    | with_reducible apply Kept.by' (fnUpd_k _ _ _ _)
    | apply rfl
    | (with_reducible refine Kept.by' (by with_reducible assumption) ?_ ?_)
    | split
theorem ackDone_k (s : State) (a1) : Kept [.regs, .ch, .rm] s (ackDone s a1) := by
  unfold ackDone
  try dsimp -proj only
  repeat' first
    | with_reducible assumption
    | with_reducible apply Kept.refl
    | with_reducible apply Kept.ite
    | with_reducible apply Kept.by' (workDone_k _ _ _)
    | with_reducible apply Kept.by' (regionUnref_k _ _)
    | with_reducible apply Kept.by' (qpUpd_k _ _ _)
    | with_reducible apply Kept.foldl
    | with_reducible apply Kept.foldl1
    | (intro _; intros)
    | apply rfl
    | (with_reducible refine Kept.by' (by with_reducible assumption) ?_ ?_)
    | split
theorem ccUpdate_k (s : State) (a1) (a2) (a3) (a4) (a5) : Kept [.land, .draws] s (ccUpdate s a1 a2 a3 a4 a5) := by
  unfold ccUpdate
  try dsimp -proj only
  repeat' first
    | with_reducible assumption
    | with_reducible apply Kept.refl
    | with_reducible apply Kept.ite
    | with_reducible apply Kept.ite1
    | with_reducible apply Kept.ite2
    | with_reducible apply Kept.by' (draw_k _)
    | with_reducible apply Kept.by' (Kept.eq2 (draw_k _) (by assumption))
    | with_reducible apply Kept.by' (nodeUpd_k _ _ _ _)
    | with_reducible apply Kept.set_land
    | with_reducible apply Kept.set_draws
    | (refine Kept.of ⟨fun p hp => ?_⟩ rfl rfl rfl (congrArg AccSt.own rfl); cases p <;> first | rfl | cases hp)
    | apply rfl
    | (with_reducible refine Kept.by' (by with_reducible assumption) ?_ ?_)
    | split
theorem startReads_k (s : State) (a1) : Kept [.rm] s (startReads s a1) := by
  unfold startReads
  try dsimp -proj only
  repeat' first
    | with_reducible assumption
    | with_reducible apply Kept.refl
    | with_reducible apply Kept.ite
    | with_reducible apply Kept.by' (qpUpd_k _ _ _)
    | apply rfl
    | (with_reducible refine Kept.by' (by with_reducible assumption) ?_ ?_)
    | split
theorem releasePending_k (s : State) (a1) (a2) : Kept [.host, .out] s (releasePending s a1 a2) := by
  unfold releasePending
  try dsimp -proj only
  repeat' first
    | with_reducible assumption
    | with_reducible apply Kept.refl
    | with_reducible apply Kept.ite
    | with_reducible apply Kept.ite1
    | with_reducible apply Kept.ite2
    | with_reducible apply Kept.by' (emit_k _ _)
    | with_reducible apply Kept.by' (fnUpd_k _ _ _ _)
    | with_reducible apply Kept.foldl
    | with_reducible apply Kept.foldl1
    | (intro _; intros)
    | dsimp only
    | apply rfl
    | (with_reducible refine Kept.by' (by with_reducible assumption) ?_ ?_)
    | split
theorem adminPut_k (s : State) (a1) (a2) (a3) (a4) : Kept [.mem, .slices, .out] s (adminPut s a1 a2 a3 a4).1 := by
  unfold adminPut
  try dsimp -proj only
  repeat' first
    | with_reducible assumption
    | with_reducible apply Kept.refl
    | with_reducible apply Kept.ite
    | with_reducible apply Kept.ite1
    | with_reducible apply Kept.by' (slWrite_k _ _ _ _ _)
    | dsimp only
    | apply rfl
    | (with_reducible refine Kept.by' (by with_reducible assumption) ?_ ?_)
    | split
theorem adminResult_k (s : State) (a1) (a2) (a3) (a4) : Kept [.mem, .slices, .out] s (adminResult s a1 a2 a3 a4).1 := by
  unfold adminResult
  try dsimp -proj only
  repeat' first
    | with_reducible assumption
    | with_reducible apply Kept.refl
    | with_reducible apply Kept.ite
    | with_reducible apply Kept.ite1
    | with_reducible apply Kept.by' (adminPut_k _ _ _ _ _)
    | with_reducible apply Kept.by' (Kept.eq1 (adminPut_k _ _ _ _ _) (by assumption))
    | dsimp only
    | apply rfl
    | (with_reducible refine Kept.by' (by with_reducible assumption) ?_ ?_)
    | split
theorem ccRise_k (s : State) (a1) (a2) (a3) : Kept [.regs, .ev, .sv] s (ccRise s a1 a2 a3) := by
  unfold ccRise
  try dsimp -proj only
  repeat' first
    | with_reducible assumption
    | with_reducible apply Kept.refl
    | with_reducible apply Kept.ite
    | with_reducible apply Kept.by' (raise_k _ _ _)
    | with_reducible apply Kept.by' (ctrlUpd_k _ _ _)
    | apply rfl
    | (with_reducible refine Kept.by' (by with_reducible assumption) ?_ ?_)
    | split
theorem faultRecord_k (s : State) (a1) (a2) : Kept [.mem, .tils] s (faultRecord s a1 a2) := by
  unfold faultRecord
  try dsimp -proj only
  repeat' first
    | with_reducible assumption
    | with_reducible apply Kept.refl
    | with_reducible apply Kept.ite
    | with_reducible apply Kept.by' (enqueue_k _ _ _ _ _ _ _)
    | with_reducible apply Kept.by' (tilUpd_k _ _ _)
    | apply rfl
    | (with_reducible refine Kept.by' (by with_reducible assumption) ?_ ?_)
    | split
theorem showImage_k (s : State) : Kept [.regs] s (showImage s) := by
  unfold showImage
  try dsimp -proj only
  repeat' first
    | with_reducible assumption
    | with_reducible apply Kept.refl
    | with_reducible apply Kept.ite
    | with_reducible apply Kept.by' (wrN_k _ _ _)
    | with_reducible apply Kept.by' (wrF_k _ _ _ _ _)
    | apply rfl
    | (with_reducible refine Kept.by' (by with_reducible assumption) ?_ ?_)
    | split
theorem flashPut_k (s : State) (a1) (a2) : Kept [.mem] s (flashPut s a1 a2) := by
  unfold flashPut
  try dsimp -proj only
  repeat' first
    | with_reducible assumption
    | with_reducible apply Kept.refl
    | with_reducible apply Kept.ite
    | with_reducible apply Kept.by' (store_k _ _ _)
    | apply rfl
    | (with_reducible refine Kept.by' (by with_reducible assumption) ?_ ?_)
    | split
theorem bootWrite_k (s : State) (a1) (a2) (a3) : Kept [.mem] s (bootWrite s a1 a2 a3) := by
  unfold bootWrite
  try dsimp -proj only
  repeat' first
    | with_reducible assumption
    | with_reducible apply Kept.refl
    | with_reducible apply Kept.ite
    | with_reducible apply Kept.by' (flashPut_k _ _ _)
    | apply rfl
    | (with_reducible refine Kept.by' (by with_reducible assumption) ?_ ?_)
    | split
theorem setStage_k (s : State) (a1) : Kept [.regs] s (setStage s a1) := by
  unfold setStage
  try dsimp -proj only
  repeat' first
    | with_reducible assumption
    | with_reducible apply Kept.refl
    | with_reducible apply Kept.ite
    | with_reducible apply Kept.by' (wrF_k _ _ _ _ _)
    | apply rfl
    | (with_reducible refine Kept.by' (by with_reducible assumption) ?_ ?_)
    | split
theorem showScope_k (s : State) : Kept [.regs] s (showScope s) := by
  unfold showScope
  try dsimp -proj only
  repeat' first
    | with_reducible assumption
    | with_reducible apply Kept.refl
    | with_reducible apply Kept.ite
    | with_reducible apply Kept.by' (wrF_k _ _ _ _ _)
    | with_reducible apply Kept.by' (wrN_k _ _ _)
    | with_reducible apply Kept.foldl
    | with_reducible apply Kept.foldl1
    | (intro _; intros)
    | apply rfl
    | (with_reducible refine Kept.by' (by with_reducible assumption) ?_ ?_)
    | split
theorem ozelmRuns_k (s : State) (a1) : Kept [.regs, .oz] s (ozelmRuns s a1) := by
  unfold ozelmRuns
  try dsimp -proj only
  repeat' first
    | with_reducible assumption
    | with_reducible apply Kept.refl
    | with_reducible apply Kept.ite
    | with_reducible apply Kept.by' (wrN_k _ _ _)
    | with_reducible apply Kept.by' (ozUpd_k _ _ ?_)
    | with_reducible apply Kept.by' (showImage_k _)
    | with_reducible apply Kept.by' (wrF_k _ _ _ _ _)
    | exact OzLe.same rfl rfl rfl
    | apply rfl
    | (with_reducible refine Kept.by' (by with_reducible assumption) ?_ ?_)
    | split
theorem bootStop_k (s : State) : Kept [.regs] s (bootStop s) := by
  unfold bootStop
  try dsimp -proj only
  repeat' first
    | with_reducible assumption
    | with_reducible apply Kept.refl
    | with_reducible apply Kept.ite
    | with_reducible apply Kept.by' (setStage_k _ _)
    | with_reducible apply Kept.by' (wrF_k _ _ _ _ _)
    | apply rfl
    | (with_reducible refine Kept.by' (by with_reducible assumption) ?_ ?_)
    | split
theorem putKey_k (s : State) (a1) (a2) : Kept [.regs, .cy, .draws] s (putKey s a1 a2) := by
  unfold putKey
  try dsimp -proj only
  repeat' first
    | with_reducible assumption
    | with_reducible apply Kept.refl
    | with_reducible apply Kept.ite
    | with_reducible apply Kept.ite1
    | with_reducible apply Kept.ite2
    | with_reducible apply Kept.by' (draw_k _)
    | with_reducible apply Kept.by' (Kept.eq2 (draw_k _) (by assumption))
    | with_reducible apply Kept.by' (showSlots_k _)
    | with_reducible apply Kept.by' (cyUpd_k _ _)
    | apply rfl
    | (with_reducible refine Kept.by' (by with_reducible assumption) ?_ ?_)
    | split
theorem placeOwnerKey_k (s : State) (a1) (a2) : Kept [.regs, .cy, .draws] s (placeOwnerKey s a1 a2).1 := by
  unfold placeOwnerKey
  try dsimp -proj only
  repeat' first
    | with_reducible assumption
    | with_reducible apply Kept.refl
    | with_reducible apply Kept.ite
    | with_reducible apply Kept.ite1
    | with_reducible apply Kept.by' (putKey_k _ _ _)
    | with_reducible apply Kept.by' (cyUpd_k _ _)
    | dsimp only
    | apply rfl
    | (with_reducible refine Kept.by' (by with_reducible assumption) ?_ ?_)
    | split
theorem scopeEvents_k (s : State) (a1) (a2) : Kept [.regs, .ev] s (scopeEvents s a1 a2) := by
  unfold scopeEvents
  try dsimp -proj only
  repeat' first
    | with_reducible assumption
    | with_reducible apply Kept.refl
    | with_reducible apply Kept.ite
    | with_reducible apply Kept.by' (raise_k _ _ _)
    | with_reducible apply Kept.foldl
    | with_reducible apply Kept.foldl1
    | (intro _; intros)
    | apply rfl
    | (with_reducible refine Kept.by' (by with_reducible assumption) ?_ ?_)
    | split
theorem scopeClose_k (s : State) : Kept [.regs, .ev, .oz] s (scopeClose s) := by
  unfold scopeClose
  try dsimp -proj only
  repeat' first
    | with_reducible assumption
    | with_reducible apply Kept.refl
    | with_reducible apply Kept.ite
    | with_reducible apply Kept.by' (scopeEvents_k _ _ _)
    | with_reducible apply Kept.by' (raise_k _ _ _)
    | with_reducible apply Kept.by' (showScope_k _)
    | with_reducible apply Kept.by' (ozUpd_k _ _ ?_)
    | exact OzLe.same rfl rfl rfl
    | apply rfl
    | (with_reducible refine Kept.by' (by with_reducible assumption) ?_ ?_)
    | split
theorem indStart_k (s : State) (a1) (a2) : Kept [.regs, .acc, .out] s (indStart s a1 a2) := by
  unfold indStart
  try dsimp -proj only
  repeat' first
    | with_reducible assumption
    | with_reducible apply Kept.refl
    | with_reducible apply Kept.ite
    | with_reducible apply Kept.by' (indPut_k _ _ _)
    | with_reducible apply Kept.by' (wrF_k _ _ _ _ _)
    | with_reducible apply Kept.by' (emit_k _ _)
    | apply rfl
    | (with_reducible refine Kept.by' (by with_reducible assumption) ?_ ?_)
    | split
theorem indRun_k (s : State) (a1) (a2) : Kept [.regs, .acc, .out] s (indRun s a1 a2) := by
  unfold indRun
  try dsimp -proj only
  repeat' first
    | with_reducible assumption
    | with_reducible apply Kept.refl
    | with_reducible apply Kept.ite
    | with_reducible apply Kept.by' (indReply_k _ _ _ _)
    | with_reducible apply Kept.by' (indStart_k _ _ _)
    | dsimp only
    | apply rfl
    | (with_reducible refine Kept.by' (by with_reducible assumption) ?_ ?_)
    | split
theorem indAccess_k (s : State) (a1) (a2) : Kept [.regs, .acc, .out] s (indAccess s a1 a2) := by
  unfold indAccess
  try dsimp -proj only
  repeat' first
    | with_reducible assumption
    | with_reducible apply Kept.refl
    | with_reducible apply Kept.ite
    | with_reducible apply Kept.by' (indPut_k _ _ _)
    | with_reducible apply Kept.by' (indRun_k _ _ _)
    | dsimp only
    | apply rfl
    | (with_reducible refine Kept.by' (by with_reducible assumption) ?_ ?_)
    | split
theorem poolUpd_k (s : State) (a1) (a2) : Kept [.sv] s (poolUpd s a1 a2) := by
  unfold poolUpd
  try dsimp -proj only
  repeat' first
    | with_reducible assumption
    | with_reducible apply Kept.refl
    | with_reducible apply Kept.ite
    | with_reducible apply Kept.by' (svUpd_k _ _)
    | apply rfl
    | (with_reducible refine Kept.by' (by with_reducible assumption) ?_ ?_)
    | split
theorem loadFirmware_k (s : State) : Kept [.mem] s (loadFirmware s) := by
  unfold loadFirmware
  try dsimp -proj only
  repeat' first
    | with_reducible assumption
    | with_reducible apply Kept.refl
    | with_reducible apply Kept.ite
    | with_reducible apply Kept.by' (store_k _ _ _)
    | with_reducible apply Kept.foldl
    | with_reducible apply Kept.foldl1
    | (intro _; intros)
    | apply rfl
    | (with_reducible refine Kept.by' (by with_reducible assumption) ?_ ?_)
    | split
theorem startUnits_k (s : State) (a1) (a2) : Kept [.regs, .ev] s (startUnits s a1 a2) := by
  unfold startUnits
  try dsimp -proj only
  repeat' first
    | with_reducible assumption
    | with_reducible apply Kept.refl
    | with_reducible apply Kept.ite
    | with_reducible apply Kept.by' (setUnitCause_k _ _ _)
    | with_reducible apply Kept.by' (setUnitRole_k _ _ _)
    | with_reducible apply Kept.by' (setUnitState_k _ _ _)
    | with_reducible apply Kept.by' (raise_k _ _ _)
    | with_reducible apply Kept.foldl
    | with_reducible apply Kept.foldl1
    | (intro _; intros)
    | apply rfl
    | (with_reducible refine Kept.by' (by with_reducible assumption) ?_ ?_)
    | split
theorem releaseThread_k (s : State) (a1) (a2) (a3) : Kept [.regs, .tils] s (releaseThread s a1 a2 a3) := by
  unfold releaseThread
  try dsimp -proj only
  repeat' first
    | with_reducible assumption
    | with_reducible apply Kept.refl
    | with_reducible apply Kept.ite
    | with_reducible apply Kept.by' (wr64_k _ _ _)
    | with_reducible apply Kept.by' (wrN_k _ _ _)
    | with_reducible apply Kept.by' (thUpd_k _ _ _ _)
    | apply rfl
    | (with_reducible refine Kept.by' (by with_reducible assumption) ?_ ?_)
    | split
theorem showUnits_k (s : State) : Kept [.regs] s (showUnits s) := by
  unfold showUnits
  try dsimp -proj only
  repeat' first
    | with_reducible assumption
    | with_reducible apply Kept.refl
    | with_reducible apply Kept.ite
    | with_reducible apply Kept.by' (wrF_k _ _ _ _ _)
    | with_reducible apply Kept.foldl
    | with_reducible apply Kept.foldl1
    | (intro _; intros)
    | apply rfl
    | (with_reducible refine Kept.by' (by with_reducible assumption) ?_ ?_)
    | split
theorem fwStage_k (s : State) (a1) (a2) (a3) : Kept [.regs, .ev] s (fwStage s a1 a2 a3) := by
  unfold fwStage
  try dsimp -proj only
  repeat' first
    | with_reducible assumption
    | with_reducible apply Kept.refl
    | with_reducible apply Kept.ite
    | with_reducible apply Kept.by' (raise_k _ _ _)
    | apply rfl
    | (with_reducible refine Kept.by' (by with_reducible assumption) ?_ ?_)
    | split
theorem fwCommit_k (s : State) : Kept [.regs, .ev, .mem, .oz] s (fwCommit s).1 := by
  unfold fwCommit
  try dsimp -proj only
  repeat' first
    | with_reducible assumption
    | with_reducible apply Kept.refl
    | with_reducible apply Kept.ite
    | with_reducible apply Kept.ite1
    | with_reducible apply Kept.by' (bootWrite_k _ _ _ _)
    | with_reducible apply Kept.by' (showImage_k _)
    | with_reducible apply Kept.by' (ozUpd_k _ _ ?_)
    | with_reducible apply Kept.by' (fwStage_k _ _ _ _)
    | dsimp only
    | exact OzLe.same rfl rfl rfl
    | exact ⟨Nat.le_refl _, id, Nat.le_max_left _ _, id⟩
    | apply rfl
    | (with_reducible refine Kept.by' (by with_reducible assumption) ?_ ?_)
    | split
theorem bootReady_k (s : State) : Kept [.regs, .ev, .mem, .oz, .out] s (bootReady s) := by
  unfold bootReady
  try dsimp -proj only
  repeat' first
    | with_reducible assumption
    | with_reducible apply Kept.refl
    | with_reducible apply Kept.ite
    | with_reducible apply Kept.ite1
    | with_reducible apply Kept.by' (setStage_k _ _)
    | with_reducible apply Kept.by' (wrF_k _ _ _ _ _)
    | with_reducible apply Kept.by' (raise_k _ _ _)
    | with_reducible apply Kept.by' (emit_k _ _)
    | with_reducible apply Kept.by' (bump_k _ _ _)
    | with_reducible apply Kept.by' (fwCommit_k _)
    | with_reducible apply Kept.by' (Kept.eq1 (fwCommit_k _) (by assumption))
    | with_reducible apply Kept.foldl
    | with_reducible apply Kept.foldl1
    | (intro _; intros)
    | apply rfl
    | (with_reducible refine Kept.by' (by with_reducible assumption) ?_ ?_)
    | split
theorem bootStairs_k (s : State) (a1) : Kept [.regs, .ev, .mem, .stairs, .unit, .oz, .rm, .out, .draws] s (bootStairs s a1) := by
  unfold bootStairs
  try dsimp -proj only
  repeat' first
    | with_reducible assumption
    | with_reducible apply Kept.refl
    | with_reducible apply Kept.ite
    | with_reducible apply Kept.by' (startUnits_k _ _ _)
    | with_reducible apply Kept.by' (bootStop_k _)
    | with_reducible apply Kept.by' (showUnits_k _)
    | with_reducible apply Kept.by' (beat_k _ _)
    | with_reducible apply Kept.by' (wrF_k _ _ _ _ _)
    | with_reducible apply Kept.by' (raise_k _ _ _)
    | with_reducible apply Kept.by' (bootReady_k _)
    | with_reducible apply Kept.foldl
    | with_reducible apply Kept.foldl1
    | (intro _; intros)
    | apply rfl
    | (with_reducible refine Kept.by' (by with_reducible assumption) ?_ ?_)
    | split
theorem rmSend_k (s : State) (a1) : Kept [.regs, .rm] s (rmSend s a1).1 := by
  unfold rmSend
  try dsimp -proj only
  repeat' first
    | with_reducible assumption
    | with_reducible apply Kept.refl
    | with_reducible apply Kept.ite
    | with_reducible apply Kept.ite1
    | with_reducible apply Kept.by' (qpUpd_k _ _ _)
    | with_reducible apply Kept.by' (bump64_k _ _ _)
    | dsimp only
    | apply rfl
    | (with_reducible refine Kept.by' (by with_reducible assumption) ?_ ?_)
    | split
theorem noKeyCount_k (s : State) (a1) (a2) : Kept [.regs, .cy] s (noKeyCount s a1 a2) := by
  unfold noKeyCount
  try dsimp -proj only
  repeat' first
    | with_reducible assumption
    | with_reducible apply Kept.refl
    | with_reducible apply Kept.ite
    | with_reducible apply Kept.by' (cyUpd_k _ _)
    | with_reducible apply Kept.by' (bump_k _ _ _)
    | apply rfl
    | (with_reducible refine Kept.by' (by with_reducible assumption) ?_ ?_)
    | split
theorem nextCounter_k (s : State) (a1) (a2) (a3) (a4) : Kept [.regs, .ev, .cy, .rm] s (nextCounter s a1 a2 a3 a4).1 := by
  unfold nextCounter
  try dsimp -proj only
  repeat' first
    | with_reducible assumption
    | with_reducible apply Kept.refl
    | with_reducible apply Kept.ite
    | with_reducible apply Kept.ite1
    | with_reducible apply Kept.by' (bump_k _ _ _)
    | with_reducible apply Kept.by' (raise_k _ _ _)
    | with_reducible apply Kept.by' (cyUpd_k _ _)
    | with_reducible apply Kept.by' (ctxPut_k _ _ _ _)
    | (intro _; intros)
    | dsimp only
    | apply rfl
    | (with_reducible refine Kept.by' (by with_reducible assumption) ?_ ?_)
    | split
theorem rpAerCor_k (s : State) (a1) (a2) : Kept [.regs, .ev, .host] s (rpAerCor s a1 a2) := by
  unfold rpAerCor
  try dsimp -proj only
  repeat' first
    | with_reducible assumption
    | with_reducible apply Kept.refl
    | with_reducible apply Kept.ite
    | with_reducible apply Kept.by' (raise_k _ _ _)
    | with_reducible apply Kept.by' (rpBit_k _ _ _ _ _)
    | apply rfl
    | (with_reducible refine Kept.by' (by with_reducible assumption) ?_ ?_)
    | split
theorem dpcTrigger_k (s : State) (a1) (a2) (a3) : Kept [.regs, .ev, .host] s (dpcTrigger s a1 a2 a3) := by
  unfold dpcTrigger
  try dsimp -proj only
  repeat' first
    | with_reducible assumption
    | with_reducible apply Kept.refl
    | with_reducible apply Kept.ite
    | with_reducible apply Kept.by' (wrF_k _ _ _ _ _)
    | with_reducible apply Kept.by' (raise_k _ _ _)
    | with_reducible apply Kept.by' (rpUpd_k _ _ _)
    | with_reducible apply Kept.by' (rpSet_k _ _ _ _)
    | with_reducible apply Kept.by' (rpAbort_k _ _)
    | (intro _; intros)
    | dsimp only
    | apply rfl
    | (with_reducible refine Kept.by' (by with_reducible assumption) ?_ ?_)
    | split
theorem dpcError_k (s : State) (a1) (a2) (a3) : Kept [.regs, .ev, .host] s (dpcError s a1 a2 a3) := by
  unfold dpcError
  try dsimp -proj only
  repeat' first
    | with_reducible assumption
    | with_reducible apply Kept.refl
    | with_reducible apply Kept.ite
    | with_reducible apply Kept.by' (dpcTrigger_k _ _ _ _)
    | dsimp only
    | apply rfl
    | (with_reducible refine Kept.by' (by with_reducible assumption) ?_ ?_)
    | split
theorem rpLinkShow_k (s : State) (a1) (a2) (a3) (a4) : Kept [.regs, .ev, .host] s (rpLinkShow s a1 a2 a3 a4) := by
  unfold rpLinkShow
  try dsimp -proj only
  repeat' first
    | with_reducible assumption
    | with_reducible apply Kept.refl
    | with_reducible apply Kept.ite
    | with_reducible apply Kept.by' (wrF_k _ _ _ _ _)
    | with_reducible apply Kept.by' (raise_k _ _ _)
    | with_reducible apply Kept.by' (rpBit_k _ _ _ _ _)
    | apply rfl
    | (with_reducible refine Kept.by' (by with_reducible assumption) ?_ ?_)
    | split
theorem showPools_k (s : State) : Kept [.regs] s (showPools s) := by
  unfold showPools
  try dsimp -proj only
  repeat' first
    | with_reducible assumption
    | with_reducible apply Kept.refl
    | with_reducible apply Kept.ite
    | with_reducible apply Kept.by' (wrN_k _ _ _)
    | with_reducible apply Kept.foldl
    | with_reducible apply Kept.foldl1
    | (intro _; intros)
    | apply rfl
    | (with_reducible refine Kept.by' (by with_reducible assumption) ?_ ?_)
    | split
theorem slotCut_k (s : State) (a1) : Kept [.regs, .host, .out] s (slotCut s a1) := by
  unfold slotCut
  try dsimp -proj only
  repeat' first
    | with_reducible assumption
    | with_reducible apply Kept.refl
    | with_reducible apply Kept.ite
    | with_reducible apply Kept.by' (rpBit_k _ _ _ _ _)
    | with_reducible apply Kept.by' (slotPower_k _ _ _)
    | with_reducible apply Kept.by' (slotPerst_k _ _ _)
    | apply rfl
    | (with_reducible refine Kept.by' (by with_reducible assumption) ?_ ?_)
    | split
theorem journalPut_k (s : State) (a1) (a2) (a3) (a4) (a5) : Kept [.regs, .sv, .draws] s (journalPut s a1 a2 a3 a4 a5) := by
  unfold journalPut
  try dsimp -proj only
  repeat' first
    | with_reducible assumption
    | with_reducible apply Kept.refl
    | with_reducible apply Kept.ite
    | with_reducible apply Kept.ite1
    | with_reducible apply Kept.ite2
    | with_reducible apply Kept.by' (draw_k _)
    | with_reducible apply Kept.by' (Kept.eq2 (draw_k _) (by assumption))
    | with_reducible apply Kept.by' (bump_k _ _ _)
    | with_reducible apply Kept.by' (poolUpd_k _ _ _)
    | apply rfl
    | (with_reducible refine Kept.by' (by with_reducible assumption) ?_ ?_)
    | split
theorem showCtrls_k (s : State) : Kept [.regs] s (showCtrls s) := by
  unfold showCtrls
  try dsimp -proj only
  repeat' first
    | with_reducible assumption
    | with_reducible apply Kept.refl
    | with_reducible apply Kept.ite
    | with_reducible apply Kept.by' (wrN_k _ _ _)
    | apply rfl
    | (with_reducible refine Kept.by' (by with_reducible assumption) ?_ ?_)
    | split
theorem testEnd_k (s : State) (a1) (a2) (a3) : Kept [.sv] s (testEnd s a1 a2 a3) := by
  unfold testEnd
  try dsimp -proj only
  repeat' first
    | with_reducible assumption
    | with_reducible apply Kept.refl
    | with_reducible apply Kept.ite
    | with_reducible apply Kept.by' (ctrlUpd_k _ _ _)
    | apply rfl
    | (with_reducible refine Kept.by' (by with_reducible assumption) ?_ ?_)
    | split
theorem regionImport_k (s : State) (a1) (a2) : Kept [.rm] s (regionImport s a1 a2) := by
  unfold regionImport
  try dsimp -proj only
  repeat' first
    | with_reducible assumption
    | with_reducible apply Kept.refl
    | with_reducible apply Kept.ite
    | with_reducible apply Kept.by' (rmUpd_k _ _)
    | apply rfl
    | (with_reducible refine Kept.by' (by with_reducible assumption) ?_ ?_)
    | split
theorem refKeys_k (s : State) (a1) : Kept [.rm] s (refKeys s a1) := by
  unfold refKeys
  try dsimp -proj only
  repeat' first
    | with_reducible assumption
    | with_reducible apply Kept.refl
    | with_reducible apply Kept.ite
    | with_reducible apply Kept.by' (regionRef_k _ _)
    | with_reducible apply Kept.foldl
    | with_reducible apply Kept.foldl1
    | (intro _; intros)
    | apply rfl
    | (with_reducible refine Kept.by' (by with_reducible assumption) ?_ ?_)
    | split
theorem journalRange_k (s : State) (a1) (a2) (a3) (a4) : Kept [.regs, .sv, .draws] s (journalRange s a1 a2 a3 a4) := by
  unfold journalRange
  try dsimp -proj only
  repeat' first
    | with_reducible assumption
    | with_reducible apply Kept.refl
    | with_reducible apply Kept.ite
    | with_reducible apply Kept.by' (journalPut_k _ _ _ _ _ _)
    | with_reducible apply Kept.foldl
    | with_reducible apply Kept.foldl1
    | (intro _; intros)
    | apply rfl
    | (with_reducible refine Kept.by' (by with_reducible assumption) ?_ ?_)
    | split
theorem poolJournal_k (s : State) (a1) (a2) : Kept [.regs, .sv, .draws] s (poolJournal s a1 a2) := by
  unfold poolJournal
  try dsimp -proj only
  repeat' first
    | with_reducible assumption
    | with_reducible apply Kept.refl
    | with_reducible apply Kept.ite
    | with_reducible apply Kept.ite1
    | with_reducible apply Kept.ite2
    | with_reducible apply Kept.by' (journalRange_k _ _ _ _ _)
    | with_reducible apply Kept.foldl
    | with_reducible apply Kept.foldl1
    | (intro _; intros)
    | apply rfl
    | (with_reducible refine Kept.by' (by with_reducible assumption) ?_ ?_)
    | split
theorem fwVerify_k (s : State) (a1) : Kept [.regs, .ev, .oz] s (fwVerify s a1).1 := by
  unfold fwVerify
  try dsimp -proj only
  repeat' first
    | with_reducible assumption
    | with_reducible apply Kept.refl
    | with_reducible apply Kept.ite
    | with_reducible apply Kept.ite1
    | with_reducible apply Kept.by' (fwStage_k _ _ _ _)
    | with_reducible apply Kept.by' (ozUpd_k _ _ ?_)
    | dsimp only
    | exact OzLe.same rfl rfl rfl
    | apply rfl
    | (with_reducible refine Kept.by' (by with_reducible assumption) ?_ ?_)
    | split
theorem beginRead_k (s : State) (a1) (a2) (a3) (a4) : Kept [.regs, .host, .sv, .out] s (beginRead s a1 a2 a3 a4) := by
  unfold beginRead
  try dsimp -proj only
  repeat' first
    | with_reducible assumption
    | with_reducible apply Kept.refl
    | with_reducible apply Kept.ite
    | with_reducible apply Kept.by' (cmdUpd_k _ _ _)
    | with_reducible apply Kept.by' (drvOpen_k _ _ _ _)
    | with_reducible apply Kept.by' (sendAway_k _ _ _ _ _)
    | apply rfl
    | (with_reducible refine Kept.by' (by with_reducible assumption) ?_ ?_)
    | split
theorem markerRetire_k (s : State) (a1) (a2) : Kept [.regs, .stairs] s (markerRetire s a1 a2) := by
  unfold markerRetire
  try dsimp -proj only
  repeat' first
    | with_reducible assumption
    | with_reducible apply Kept.refl
    | with_reducible apply Kept.ite
    | with_reducible apply Kept.by' (flightUpd_k _ _ _ _)
    | with_reducible apply Kept.by' (markerAct_k _ _ _ _ _)
    | with_reducible apply Kept.by' (wrN_k _ _ _)
    | with_reducible apply Kept.by' (cmdEnd_k _ _ _ _)
    | apply rfl
    | (with_reducible refine Kept.by' (by with_reducible assumption) ?_ ?_)
    | split
theorem chanImport_k (s : State) (a1) (a2) (a3) : Kept [.ch, .draws] s (chanImport s a1 a2 a3) := by
  unfold chanImport
  try dsimp -proj only
  repeat' first
    | with_reducible assumption
    | with_reducible apply Kept.refl
    | with_reducible apply Kept.ite
    | with_reducible apply Kept.ite1
    | with_reducible apply Kept.ite2
    | with_reducible apply Kept.by' (draw_k _)
    | with_reducible apply Kept.by' (Kept.eq2 (draw_k _) (by assumption))
    | with_reducible apply Kept.set_ch
    | with_reducible apply Kept.set_draws
    | (refine Kept.of ⟨fun p hp => ?_⟩ rfl rfl rfl (congrArg AccSt.own rfl); cases p <;> first | rfl | cases hp)
    | apply rfl
    | (with_reducible refine Kept.by' (by with_reducible assumption) ?_ ?_)
    | split
theorem qpDerive_k (s : State) (a1) (a2) (a3) (a4) : Kept [.regs, .cy, .draws] s (qpDerive s a1 a2 a3 a4) := by
  unfold qpDerive
  try dsimp -proj only
  repeat' first
    | with_reducible assumption
    | with_reducible apply Kept.refl
    | with_reducible apply Kept.ite
    | with_reducible apply Kept.by' (cacheFill_k _ _ _ _)
    | with_reducible apply Kept.by' (bump_k _ _ _)
    | apply rfl
    | (with_reducible refine Kept.by' (by with_reducible assumption) ?_ ?_)
    | split
theorem ctrlImport_k (s : State) (a1) (a2) : Kept [.sv] s (ctrlImport s a1 a2) := by
  unfold ctrlImport
  try dsimp -proj only
  repeat' first
    | with_reducible assumption
    | with_reducible apply Kept.refl
    | with_reducible apply Kept.ite
    | with_reducible apply Kept.ite1
    | with_reducible apply Kept.ite2
    | with_reducible apply Kept.by' (svUpd_k _ _)
    | with_reducible apply Kept.by' (ctrlUpd_k _ _ _)
    | with_reducible apply Kept.foldl
    | with_reducible apply Kept.foldl1
    | (intro _; intros)
    | apply rfl
    | (with_reducible refine Kept.by' (by with_reducible assumption) ?_ ?_)
    | split
theorem ozRestart_k (s : State) (a1) (a2) : Kept [.regs, .ev, .oz] s (ozRestart s a1 a2) := by
  unfold ozRestart
  try dsimp -proj only
  repeat' first
    | with_reducible assumption
    | with_reducible apply Kept.refl
    | with_reducible apply Kept.ite
    | with_reducible apply Kept.by' (wrF_k _ _ _ _ _)
    | with_reducible apply Kept.by' (raisePhase_k _ _ _ _)
    | with_reducible apply Kept.by' (ozUpd_k _ _ ?_)
    | with_reducible apply Kept.by' (scopeClose_k _)
    | (intro _; intros)
    | dsimp only
    | exact OzLe.same rfl rfl rfl
    | apply rfl
    | (with_reducible refine Kept.by' (by with_reducible assumption) ?_ ?_)
    | split
theorem readmitEvent_k (s : State) (a1) (a2) : Kept [.regs, .ev] s (readmitEvent s a1 a2) := by
  unfold readmitEvent
  try dsimp -proj only
  repeat' first
    | with_reducible assumption
    | with_reducible apply Kept.refl
    | with_reducible apply Kept.ite
    | with_reducible apply Kept.by' (raise_k _ _ _)
    | apply rfl
    | (with_reducible refine Kept.by' (by with_reducible assumption) ?_ ?_)
    | split
theorem peerMark_k (s : State) (a1) (a2) (a3) (a4) (a5) : Kept [.slices] s (peerMark s a1 a2 a3 a4 a5) := by
  unfold peerMark
  try dsimp -proj only
  repeat' first
    | with_reducible assumption
    | with_reducible apply Kept.refl
    | with_reducible apply Kept.ite
    | with_reducible apply Kept.ite1
    | with_reducible apply Kept.ite2
    | with_reducible apply Kept.by' (markDirty_k _ _ _ _)
    | with_reducible apply Kept.foldl
    | with_reducible apply Kept.foldl1
    | (intro _; intros)
    | apply rfl
    | (with_reducible refine Kept.by' (by with_reducible assumption) ?_ ?_)
    | split
theorem linkShow_k (s : State) (a1) (a2) (a3) (a4) (a5) : Kept [.regs] s (linkShow s a1 a2 a3 a4 a5) := by
  unfold linkShow
  try dsimp -proj only
  repeat' first
    | with_reducible assumption
    | with_reducible apply Kept.refl
    | with_reducible apply Kept.ite
    | with_reducible apply Kept.by' (wrF_k _ _ _ _ _)
    | apply rfl
    | (with_reducible refine Kept.by' (by with_reducible assumption) ?_ ?_)
    | split
theorem ideTo_k (s : State) (a1) (a2) (a3) : Kept [.regs, .ev, .host] s (ideTo s a1 a2 a3) := by
  unfold ideTo
  try dsimp -proj only
  repeat' first
    | with_reducible assumption
    | with_reducible apply Kept.refl
    | with_reducible apply Kept.ite
    | with_reducible apply Kept.by' (raise_k _ _ _)
    | with_reducible apply Kept.set_regs
    | with_reducible apply Kept.set_ev
    | with_reducible apply Kept.set_host
    | (refine Kept.of ⟨fun p hp => ?_⟩ rfl rfl rfl (congrArg AccSt.own rfl); cases p <;> first | rfl | cases hp)
    | exact fun h => aset_rising _ _ h
    | exact fun h => filter_rising _ h
    | exact fun h => h
    | apply rfl
    | (with_reducible refine Kept.by' (by with_reducible assumption) ?_ ?_)
    | split
theorem laEnd_k (s : State) (a1) (a2) (a3) : Kept [.regs, .mem, .ch, .slices, .cy, .out] s (laEnd s a1 a2 a3) := by
  unfold laEnd
  try dsimp -proj only
  repeat' first
    | with_reducible assumption
    | with_reducible apply Kept.refl
    | with_reducible apply Kept.ite
    | with_reducible apply Kept.by' (wrN_k _ _ _)
    | with_reducible apply Kept.by' (wrF_k _ _ _ _ _)
    | with_reducible apply Kept.by' (slWrite_k _ _ _ _ _)
    | with_reducible apply Kept.by' (finishEnt_k _ _ _ _)
    | with_reducible apply Kept.by' (cyUpd_k _ _)
    | with_reducible apply Kept.foldl
    | with_reducible apply Kept.foldl1
    | (intro _; intros)
    | with_reducible apply Kept.getD
    | dsimp only
    | apply rfl
    | (with_reducible refine Kept.by' (by with_reducible assumption) ?_ ?_)
    | split
theorem tokenCheck_k (s : State) (a1) (a2) (a3) : Kept [.oz] s (tokenCheck s a1 a2 a3).1 := by
  unfold tokenCheck
  try dsimp -proj only
  repeat' first
    | with_reducible assumption
    | with_reducible apply Kept.refl
    | with_reducible apply Kept.ite
    | with_reducible apply Kept.ite1
    | with_reducible apply Kept.by' (ozUpd_k _ _ ?_)
    | dsimp only
    | exact OzLe.same rfl rfl rfl
    | apply rfl
    | (with_reducible refine Kept.by' (by with_reducible assumption) ?_ ?_)
    | split
theorem showCtxs_k (s : State) : Kept [.regs] s (showCtxs s) := by
  unfold showCtxs
  try dsimp -proj only
  repeat' first
    | with_reducible assumption
    | with_reducible apply Kept.refl
    | with_reducible apply Kept.ite
    | with_reducible apply Kept.by' (wrN_k _ _ _)
    | apply rfl
    | (with_reducible refine Kept.by' (by with_reducible assumption) ?_ ?_)
    | split
theorem verify_k (s : State) (a1) (a2) (a3) (a4) (a5) : Kept [.cy, .rm] s (verify s a1 a2 a3 a4 a5).1 := by
  unfold verify
  try dsimp -proj only
  repeat' first
    | with_reducible assumption
    | with_reducible apply Kept.refl
    | with_reducible apply Kept.ite
    | with_reducible apply Kept.ite1
    | with_reducible apply Kept.by' (ctxPut_k _ _ _ _)
    | dsimp only
    | apply rfl
    | (with_reducible refine Kept.by' (by with_reducible assumption) ?_ ?_)
    | split
theorem pairAlias_k (s : State) (a1) (a2) (a3) : Kept [.regs, .ev] s (pairAlias s a1 a2 a3) := by
  unfold pairAlias
  try dsimp -proj only
  repeat' first
    | with_reducible assumption
    | with_reducible apply Kept.refl
    | with_reducible apply Kept.ite
    | with_reducible apply Kept.by' (wrN_k _ _ _)
    | with_reducible apply Kept.by' (badAccess_k _ _ _)
    | apply rfl
    | (with_reducible refine Kept.by' (by with_reducible assumption) ?_ ?_)
    | split
theorem undelivered_k (s : State) : Kept [.regs] s (undelivered s) := by
  unfold undelivered
  try dsimp -proj only
  repeat' first
    | with_reducible assumption
    | with_reducible apply Kept.refl
    | with_reducible apply Kept.ite
    | with_reducible apply Kept.by' (bump_k _ _ _)
    | apply rfl
    | (with_reducible refine Kept.by' (by with_reducible assumption) ?_ ?_)
    | split
theorem depLate_k (s : State) (a1) : Kept [.land] s (depLate s a1) := by
  unfold depLate
  try dsimp -proj only
  repeat' first
    | with_reducible assumption
    | with_reducible apply Kept.refl
    | with_reducible apply Kept.ite
    | with_reducible apply Kept.by' (nodeUpd_k _ _ _ _)
    | apply rfl
    | (with_reducible refine Kept.by' (by with_reducible assumption) ?_ ?_)
    | split
theorem depsLate_k (s : State) (a1) (a2) : Kept [.ch, .stairs, .land] s (depsLate s a1 a2) := by
  unfold depsLate
  try dsimp -proj only
  repeat' first
    | with_reducible assumption
    | with_reducible apply Kept.refl
    | with_reducible apply Kept.ite
    | with_reducible apply Kept.ite1
    | with_reducible apply Kept.ite2
    | (intro _; intros)
    | dsimp only
    | apply rfl
    | (with_reducible refine Kept.by' (by with_reducible assumption) ?_ ?_)
    | split
    | with_reducible apply Kept.set_ch
    | with_reducible apply Kept.set_stairs
    | with_reducible apply Kept.set_land
    | (refine Kept.of ⟨fun p hp => ?_⟩ rfl rfl rfl (congrArg AccSt.own rfl); cases p <;> first | rfl | cases hp)
theorem stepLate_k (s : State) (a1) : Kept [.regs, .ev] s (stepLate s a1) := by
  unfold stepLate
  try dsimp -proj only
  repeat' first
    | with_reducible assumption
    | with_reducible apply Kept.refl
    | with_reducible apply Kept.ite
    | with_reducible apply Kept.by' (raiseAt_k _ _ _ _ _)
    | with_reducible apply Kept.by' (bump_k _ _ _)
    | with_reducible apply Kept.set_regs
    | with_reducible apply Kept.set_ev
    | (refine Kept.of ⟨fun p hp => ?_⟩ rfl rfl rfl (congrArg AccSt.own rfl); cases p <;> first | rfl | cases hp)
    | exact fun h => aset_rising _ _ h
    | exact fun h => filter_rising _ h
    | exact fun h => h
    | apply rfl
    | (with_reducible refine Kept.by' (by with_reducible assumption) ?_ ?_)
    | split
theorem indTake_k (s : State) (a1) (a2) (a3) : Kept [.net] s (indTake s a1 a2 a3) := by
  unfold indTake
  try dsimp -proj only
  repeat' first
    | with_reducible assumption
    | with_reducible apply Kept.refl
    | with_reducible apply Kept.ite
    | with_reducible apply Kept.by' (portUpd_k _ _ _)
    | apply rfl
    | (with_reducible refine Kept.by' (by with_reducible assumption) ?_ ?_)
    | split
theorem dmaCopy_k (s : State) (a1) (a2) (a3) : Kept [.regs, .ev, .mem, .host, .slices, .out, .draws] s (dmaCopy s a1 a2 a3).1 := by
  unfold dmaCopy
  dsimp -proj only
  split
  · exact Kept.refl
  · split
    all_goals
      rename_i h
      have hk := Kept.eq1 (l := [.regs, .ev, .mem, .host, .slices, .out, .draws]) (s := s) (Kept.ite1 (Kept.by' (slFetch_k _ _ _ _ _) Kept.refl rfl) Kept.refl) h
    · exact hk
    · apply Kept.ite1
      · apply Kept.ite1
        · exact Kept.by' (slWrite_k _ _ _ _ _) hk rfl
        · exact hk
      · exact Kept.by' (store_k _ _ _) hk rfl
theorem indExpire_k (s : State) (a1) : Kept [.regs, .acc, .out] s (indExpire s a1) := by
  unfold indExpire
  try dsimp -proj only
  repeat' first
    | with_reducible assumption
    | with_reducible apply Kept.refl
    | with_reducible apply Kept.ite
    | with_reducible apply Kept.by' (wrF_k _ _ _ _ _)
    | with_reducible apply Kept.by' (indPut_k _ _ _)
    | with_reducible apply Kept.by' (indReply_k _ _ _ _)
    | dsimp only
    | apply rfl
    | (with_reducible refine Kept.by' (by with_reducible assumption) ?_ ?_)
    | split
theorem indProceed_k (a0) (a1) (s : State) : Kept [.regs, .acc, .out] s (indProceed a0 a1 s) := by
  induction a1 generalizing s with
  | nil => exact Kept.by' (indPut_k _ _ _) Kept.refl rfl
  | cons op rest ih =>
    unfold indProceed
    apply Kept.ite
    · exact Kept.by' (ih _) (Kept.by' (indReply_k _ _ _ _) Kept.refl rfl) rfl
    · exact Kept.by' (indStart_k _ _ _) (Kept.by' (indPut_k _ _ _) Kept.refl rfl) rfl
theorem indNext_k (s : State) (a1) : Kept [.regs, .acc, .out] s (indNext s a1) := by
  unfold indNext
  dsimp -proj only
  apply Kept.by' (indProceed_k _ _ _) _ rfl
  apply Kept.foldl
  · exact Kept.by' (wrF_k _ _ _ _ _) (Kept.by' (indPut_k _ _ _) Kept.refl rfl) rfl
  · intro u a hu
    exact Kept.by' (indExpire_k _ _) hu rfl
theorem tablesReload_k (s : State) (a1) : Kept [.regs, .stairs] s (tablesReload s a1) := by
  unfold tablesReload
  try dsimp -proj only
  repeat' first
    | with_reducible assumption
    | with_reducible apply Kept.refl
    | with_reducible apply Kept.ite
    | with_reducible apply Kept.ite1
    | with_reducible apply Kept.ite2
    | with_reducible apply Kept.by' (stairUpd_k _ _ _)
    | with_reducible apply Kept.by' (setEntries_k _ _ _ _)
    | (intro _; intros)
    | with_reducible apply Kept.getD
    | dsimp only
    | apply rfl
    | (with_reducible refine Kept.by' (by with_reducible assumption) ?_ ?_)
    | split
theorem takeTables_k (s : State) (a1) (a2) : Kept [.regs, .stairs] s (takeTables s a1 a2) := by
  unfold takeTables
  try dsimp -proj only
  repeat' first
    | with_reducible assumption
    | with_reducible apply Kept.refl
    | with_reducible apply Kept.ite
    | with_reducible apply Kept.ite1
    | with_reducible apply Kept.ite2
    | with_reducible apply Kept.by' (stairUpd_k _ _ _)
    | with_reducible apply Kept.by' (setEntries_k _ _ _ _)
    | with_reducible apply Kept.by' (tablesReload_k _ _)
    | with_reducible apply Kept.foldl
    | with_reducible apply Kept.foldl1
    | (intro _; intros)
    | with_reducible apply Kept.getD
    | dsimp only
    | apply rfl
    | (with_reducible refine Kept.by' (by with_reducible assumption) ?_ ?_)
    | split
theorem takeEnd_k (s : State) (a1) (a2) (a3) (a4) : Kept [.regs, .ev, .net, .unit, .out] s (takeEnd s a1 a2 a3 a4) := by
  unfold takeEnd
  try dsimp -proj only
  repeat' first
    | with_reducible assumption
    | with_reducible apply Kept.refl
    | with_reducible apply Kept.ite
    | with_reducible apply Kept.by' (unitUpd_k _ _)
    | with_reducible apply Kept.by' (setUnitRole_k _ _ _)
    | with_reducible apply Kept.by' (bump_k _ _ _)
    | with_reducible apply Kept.by' (wrN_k _ _ _)
    | with_reducible apply Kept.by' (unitEnter_k _ _ _ _)
    | with_reducible apply Kept.by' (raise_k _ _ _)
    | with_reducible apply Kept.by' (lineFollow_k _ _)
    | with_reducible apply Kept.foldl
    | with_reducible apply Kept.foldl1
    | (intro _; intros)
    | apply rfl
    | (with_reducible refine Kept.by' (by with_reducible assumption) ?_ ?_)
    | split
theorem urIn_k (s : State) (a1) : Kept [.regs] s (urIn s a1) := by
  unfold urIn
  try dsimp -proj only
  repeat' first
    | with_reducible assumption
    | with_reducible apply Kept.refl
    | with_reducible apply Kept.ite
    | with_reducible apply Kept.by' (bump_k _ _ _)
    | apply rfl
    | (with_reducible refine Kept.by' (by with_reducible assumption) ?_ ?_)
    | split
theorem answer_k (s : State) (a1) (a2) (a3) : Kept [.out] s (answer s a1 a2 a3) := by
  unfold answer
  try dsimp -proj only
  repeat' first
    | with_reducible assumption
    | with_reducible apply Kept.refl
    | with_reducible apply Kept.ite
    | with_reducible apply Kept.by' (emit_k _ _)
    | apply rfl
    | (with_reducible refine Kept.by' (by with_reducible assumption) ?_ ?_)
    | split
theorem dropSent_k (s : State) (a1) : Kept [.regs, .tils] s (dropSent s a1) := by
  unfold dropSent
  try dsimp -proj only
  repeat' first
    | with_reducible assumption
    | with_reducible apply Kept.refl
    | with_reducible apply Kept.ite
    | with_reducible apply Kept.ite1
    | with_reducible apply Kept.ite2
    | with_reducible apply Kept.by' (dropOpen_k _ _ _)
    | with_reducible apply Kept.by' (tilUpd_k _ _ _)
    | with_reducible apply Kept.foldl
    | with_reducible apply Kept.foldl1
    | (intro _; intros)
    | apply rfl
    | (with_reducible refine Kept.by' (by with_reducible assumption) ?_ ?_)
    | split
theorem deliverSealed_k (s : State) (a1) : Kept [.mem, .tils] s (deliverSealed s a1) := by
  unfold deliverSealed
  try dsimp -proj only
  repeat' first
    | with_reducible assumption
    | with_reducible apply Kept.refl
    | with_reducible apply Kept.ite
    | with_reducible apply Kept.ite1
    | with_reducible apply Kept.ite2
    | with_reducible apply Kept.by' (tportSet_k _ _ _ _)
    | with_reducible apply Kept.by' (enqueue_k _ _ _ _ _ _ _)
    | with_reducible apply Kept.foldl
    | with_reducible apply Kept.foldl1
    | (intro _; intros)
    | apply rfl
    | (with_reducible refine Kept.by' (by with_reducible assumption) ?_ ?_)
    | split
theorem flashErase_k (s : State) (a1) (a2) : Kept [.mem] s (flashErase s a1 a2) := by
  unfold flashErase
  try dsimp -proj only
  repeat' first
    | with_reducible assumption
    | with_reducible apply Kept.refl
    | with_reducible apply Kept.ite
    | with_reducible apply Kept.set_mem
    | (refine Kept.of ⟨fun p hp => ?_⟩ rfl rfl rfl (congrArg AccSt.own rfl); cases p <;> first | rfl | cases hp)
    | exact fun h => memPuts_wf h
    | exact fun h => memClear_wf h
    | exact memPuts_wf (by assumption)
    | exact memClear_wf (by assumption)
    | exact fun h => filter_wf _ h
    | exact fun h => h
    | apply rfl
    | (with_reducible refine Kept.by' (by with_reducible assumption) ?_ ?_)
    | split
theorem fwBegin_k (s : State) (a1) : Kept [.regs, .ev, .mem, .oz] s (fwBegin s a1).1 := by
  unfold fwBegin
  try dsimp -proj only
  repeat' first
    | with_reducible assumption
    | with_reducible apply Kept.refl
    | with_reducible apply Kept.ite
    | with_reducible apply Kept.ite1
    | with_reducible apply Kept.by' (flashErase_k _ _ _)
    | with_reducible apply Kept.by' (fwStage_k _ _ _ _)
    | with_reducible apply Kept.by' (ozUpd_k _ _ ?_)
    | dsimp only
    | exact OzLe.same rfl rfl rfl
    | apply rfl
    | (with_reducible refine Kept.by' (by with_reducible assumption) ?_ ?_)
    | split
theorem fwWrite_k (s : State) (a1) (a2) (a3) : Kept [.mem] s (fwWrite s a1 a2 a3).1 := by
  unfold fwWrite
  try dsimp -proj only
  repeat' first
    | with_reducible assumption
    | with_reducible apply Kept.refl
    | with_reducible apply Kept.ite
    | with_reducible apply Kept.ite1
    | with_reducible apply Kept.by' (flashPut_k _ _ _)
    | dsimp only
    | apply rfl
    | (with_reducible refine Kept.by' (by with_reducible assumption) ?_ ?_)
    | split
theorem fwActivate_k (s : State) (a1) (a2) (a3) : Kept [.regs, .ev, .mem, .unit, .oz] s (fwActivate s a1 a2 a3).1 := by
  unfold fwActivate
  try dsimp -proj only
  repeat' first
    | with_reducible assumption
    | with_reducible apply Kept.refl
    | with_reducible apply Kept.ite
    | with_reducible apply Kept.ite1
    | with_reducible apply Kept.by' (showImage_k _)
    | with_reducible apply Kept.by' (bootWrite_k _ _ _ _)
    | with_reducible apply Kept.by' (ozUpd_k _ _ ?_)
    | with_reducible apply Kept.by' (fwStage_k _ _ _ _)
    | with_reducible apply Kept.by' (ozRestart_k _ _ _)
    | with_reducible apply Kept.set_regs
    | with_reducible apply Kept.set_ev
    | with_reducible apply Kept.set_mem
    | with_reducible apply Kept.set_unit
    | with_reducible apply Kept.set_oz
    | (refine Kept.of ⟨fun p hp => ?_⟩ rfl rfl rfl (congrArg AccSt.own rfl); cases p <;> first | rfl | cases hp)
    | dsimp only
    | exact fun h => aset_rising _ _ h
    | exact fun h => filter_rising _ h
    | exact fun h => h
    | exact fun h => memPuts_wf h
    | exact fun h => memClear_wf h
    | exact memPuts_wf (by assumption)
    | exact memClear_wf (by assumption)
    | exact fun h => filter_wf _ h
    | exact fun h => h
    | exact OzLe.same rfl rfl rfl
    | apply rfl
    | (with_reducible refine Kept.by' (by with_reducible assumption) ?_ ?_)
    | split
theorem msgHold_k (s : State) (a1) (a2) : Kept [.oz] s (msgHold s a1 a2) := by
  unfold msgHold
  try dsimp -proj only
  repeat' first
    | with_reducible assumption
    | with_reducible apply Kept.refl
    | with_reducible apply Kept.ite
    | with_reducible apply Kept.by' (ozUpd_k _ _ ?_)
    | (intro _; intros)
    | dsimp only
    | exact OzLe.same rfl rfl rfl
    | apply rfl
    | (with_reducible refine Kept.by' (by with_reducible assumption) ?_ ?_)
    | split
theorem mgmtMsg_k (s : State) (a1) (a2) : Kept [.regs, .ev, .mem, .unit, .oz, .cy, .out, .draws] s (mgmtMsg s a1 a2) := by
  unfold mgmtMsg
  try dsimp -proj only
  repeat' first
    | with_reducible assumption
    | with_reducible apply Kept.refl
    | with_reducible apply Kept.ite
    | with_reducible apply Kept.ite1
    | with_reducible apply Kept.ite2
    | with_reducible apply Kept.by' (fwBegin_k _ _)
    | with_reducible apply Kept.by' (Kept.eq1 (fwBegin_k _ _) (by assumption))
    | with_reducible apply Kept.by' (fwWrite_k _ _ _ _)
    | with_reducible apply Kept.by' (Kept.eq1 (fwWrite_k _ _ _ _) (by assumption))
    | with_reducible apply Kept.by' (fwVerify_k _ _)
    | with_reducible apply Kept.by' (Kept.eq1 (fwVerify_k _ _) (by assumption))
    | with_reducible apply Kept.by' (fwActivate_k _ _ _ _)
    | with_reducible apply Kept.by' (Kept.eq1 (fwActivate_k _ _ _ _) (by assumption))
    | with_reducible apply Kept.by' (answer_k _ _ _ _)
    | with_reducible apply Kept.by' (placeOwnerKey_k _ _ _)
    | with_reducible apply Kept.by' (Kept.eq1 (placeOwnerKey_k _ _ _) (by assumption))
    | with_reducible apply Kept.by' (msgHold_k _ _ _)
    | dsimp only
    | apply rfl
    | (with_reducible refine Kept.by' (by with_reducible assumption) ?_ ?_)
    | split
theorem mcheckEvent_k (s : State) (a1) (a2) (a3) : Kept [.regs, .ev] s (mcheckEvent s a1 a2 a3) := by
  unfold mcheckEvent
  try dsimp -proj only
  repeat' first
    | with_reducible assumption
    | with_reducible apply Kept.refl
    | with_reducible apply Kept.ite
    | with_reducible apply Kept.by' (raise_k _ _ _)
    | apply rfl
    | (with_reducible refine Kept.by' (by with_reducible assumption) ?_ ?_)
    | split
/-- The state that a cold reset starts from. -/
theorem cold_k {s : State} {f : OzSt → OzSt} {p : Host.Cell → Bool} (h : OzLe s.oz (f {})) :
    Kept [.regs, .snap, .time, .acc, .ev, .mem, .host, .ch, .slices, .net, .stairs, .golden, .lpm, .sheaf, .land, .unit, .tils, .tm, .oz, .cy, .rm, .sv, .out] s
      (ozUpd { State.reset with pending := s.pending, out := s.out, draws := s.draws, time := { tclk := s.time.tclk }, mem := s.mem.filter p } f) := by
  refine ⟨⟨fun p hp => ?_⟩, fun _ => List.Pairwise.nil, fun h => filter_wf _ h, h, fun _ => rfl⟩; cases p <;> first | rfl | cases hp
theorem coldReset_k (s : State) (a1) : Kept [.regs, .snap, .time, .acc, .ev, .mem, .host, .ch, .slices, .net, .stairs, .golden, .lpm, .sheaf, .land, .unit, .tils, .tm, .oz, .cy, .rm, .sv, .out] s (coldReset s a1) := by
  unfold coldReset
  dsimp -proj only
  apply Kept.by' (resetPins_k _ _) _ rfl
  apply Kept.by' (resetLines_k _ _) _ rfl
  iterate 4 apply Kept.by' (wrN_k _ _ _) _ rfl
  apply Kept.by' (wrF_k _ _ _ _ _) _ rfl
  exact cold_k ⟨Nat.le_refl _, id, Nat.le_refl _, id⟩
theorem drvClose_k (s : State) (a1) : Kept [.host] s (drvClose s a1) := by
  unfold drvClose
  try dsimp -proj only
  repeat' first
    | with_reducible assumption
    | with_reducible apply Kept.refl
    | with_reducible apply Kept.ite
    | with_reducible apply Kept.set_host
    | (refine Kept.of ⟨fun p hp => ?_⟩ rfl rfl rfl (congrArg AccSt.own rfl); cases p <;> first | rfl | cases hp)
    | apply rfl
    | (with_reducible refine Kept.by' (by with_reducible assumption) ?_ ?_)
    | split
theorem begunInc_k (s : State) (a1) : Kept [.land] s (begunInc s a1) := by
  unfold begunInc
  try dsimp -proj only
  repeat' first
    | with_reducible assumption
    | with_reducible apply Kept.refl
    | with_reducible apply Kept.ite
    | with_reducible apply Kept.set_land
    | (refine Kept.of ⟨fun p hp => ?_⟩ rfl rfl rfl (congrArg AccSt.own rfl); cases p <;> first | rfl | cases hp)
    | apply rfl
    | (with_reducible refine Kept.by' (by with_reducible assumption) ?_ ?_)
    | split
theorem smartLog_k (s : State) (a1) : Kept [.draws] s (smartLog s a1).2 := by
  unfold smartLog
  try dsimp -proj only
  repeat' first
    | with_reducible assumption
    | with_reducible apply Kept.refl
    | with_reducible apply Kept.ite
    | with_reducible apply Kept.ite2
    | with_reducible apply Kept.set_draws
    | (refine Kept.of ⟨fun p hp => ?_⟩ rfl rfl rfl (congrArg AccSt.own rfl); cases p <;> first | rfl | cases hp)
    | dsimp only
    | apply rfl
    | (with_reducible refine Kept.by' (by with_reducible assumption) ?_ ?_)
    | split
theorem selfTestLog_k (s : State) (a1) : Kept [.draws] s (selfTestLog s a1).2 := by
  unfold selfTestLog
  try dsimp -proj only
  repeat' first
    | with_reducible assumption
    | with_reducible apply Kept.refl
    | with_reducible apply Kept.ite
    | with_reducible apply Kept.ite1
    | with_reducible apply Kept.ite2
    | with_reducible apply Kept.by' (draw_k _)
    | with_reducible apply Kept.by' (Kept.eq2 (draw_k _) (by assumption))
    | dsimp only
    | apply rfl
    | (with_reducible refine Kept.by' (by with_reducible assumption) ?_ ?_)
    | split
theorem verified_k (s : State) (a1) (a2) (a3) : Kept [.land] s (verified s a1 a2 a3) := by
  unfold verified
  try dsimp -proj only
  repeat' first
    | with_reducible assumption
    | with_reducible apply Kept.refl
    | with_reducible apply Kept.ite
    | with_reducible apply Kept.by' (nodeUpd_k _ _ _ _)
    | apply rfl
    | (with_reducible refine Kept.by' (by with_reducible assumption) ?_ ?_)
    | split
theorem issueReq_k (s : State) (a1) : Kept [.out] s (issueReq s a1).1 := by
  unfold issueReq
  try dsimp -proj only
  repeat' first
    | with_reducible assumption
    | with_reducible apply Kept.refl
    | with_reducible apply Kept.ite
    | with_reducible apply Kept.ite1
    | with_reducible apply Kept.by' (emit_k _ _)
    | (intro _; intros)
    | with_reducible apply Kept.getD
    | dsimp only
    | apply rfl
    | (with_reducible refine Kept.by' (by with_reducible assumption) ?_ ?_)
    | split
theorem resetRegs_k (s : State) (a1) (a2) : Kept [.regs] s (resetRegs s a1 a2) := by
  unfold resetRegs
  try dsimp -proj only
  repeat' first
    | with_reducible assumption
    | with_reducible apply Kept.refl
    | with_reducible apply Kept.ite
    | with_reducible apply Kept.ite1
    | with_reducible apply Kept.set_regs
    | (refine Kept.of ⟨fun p hp => ?_⟩ rfl rfl rfl (congrArg AccSt.own rfl); cases p <;> first | rfl | cases hp)
    | exact fun h => aset_rising _ _ h
    | exact fun h => filter_rising _ h
    | exact fun h => h
    | apply rfl
    | (with_reducible refine Kept.by' (by with_reducible assumption) ?_ ?_)
    | split
theorem ringPut_k (s : State) (a1) (a2) : Kept [.mem, .host, .ch, .slices, .out] s (ringPut s a1 a2) := by
  unfold ringPut
  try dsimp -proj only
  repeat' first
    | with_reducible assumption
    | with_reducible apply Kept.refl
    | with_reducible apply Kept.ite
    | with_reducible apply Kept.by' (slWrite_k _ _ _ _ _)
    | with_reducible apply Kept.by' (ringModerate_k _ _)
    | with_reducible apply Kept.by' (mirrorWrite_k _ _)
    | with_reducible apply Kept.by' (chanSet_k _ _ _)
    | apply rfl
    | (with_reducible refine Kept.by' (by with_reducible assumption) ?_ ?_)
    | split
theorem showNss_k (s : State) : Kept [.regs] s (showNss s) := by
  unfold showNss
  try dsimp -proj only
  repeat' first
    | with_reducible assumption
    | with_reducible apply Kept.refl
    | with_reducible apply Kept.ite
    | with_reducible apply Kept.by' (wrN_k _ _ _)
    | apply rfl
    | (with_reducible refine Kept.by' (by with_reducible assumption) ?_ ?_)
    | split
theorem ozPut_k (s : State) (a1) (a2) (a3) : Kept [.mem, .slices, .out] s (ozPut s a1 a2 a3).1 := by
  unfold ozPut
  try dsimp -proj only
  repeat' first
    | with_reducible assumption
    | with_reducible apply Kept.refl
    | with_reducible apply Kept.ite
    | with_reducible apply Kept.ite1
    | with_reducible apply Kept.by' (adminPut_k _ _ _ _ _)
    | with_reducible apply Kept.by' (Kept.eq1 (adminPut_k _ _ _ _ _) (by assumption))
    | with_reducible apply Kept.by' (store_k _ _ _)
    | dsimp only
    | apply rfl
    | (with_reducible refine Kept.by' (by with_reducible assumption) ?_ ?_)
    | split
theorem sliceChansStop_k (s : State) (a1) : Kept [.regs, .host, .ch] s (sliceChansStop s a1) := by
  unfold sliceChansStop
  try dsimp -proj only
  repeat' first
    | with_reducible assumption
    | with_reducible apply Kept.refl
    | with_reducible apply Kept.ite
    | with_reducible apply Kept.ite1
    | with_reducible apply Kept.ite2
    | with_reducible apply Kept.by' (depEnd_k _ _)
    | with_reducible apply Kept.by' (dropReads_k _ _ _)
    | with_reducible apply Kept.by' (chanUpd_k _ _ _)
    | with_reducible apply Kept.foldl
    | with_reducible apply Kept.foldl1
    | (intro _; intros)
    | apply rfl
    | (with_reducible refine Kept.by' (by with_reducible assumption) ?_ ?_)
    | split
theorem sliceKeysErase_k (s : State) (a1) : Kept [.regs, .cy] s (sliceKeysErase s a1) := by
  unfold sliceKeysErase
  try dsimp -proj only
  repeat' first
    | with_reducible assumption
    | with_reducible apply Kept.refl
    | with_reducible apply Kept.ite
    | with_reducible apply Kept.ite1
    | with_reducible apply Kept.ite2
    | with_reducible apply Kept.by' (resetRegs_k _ _ _)
    | with_reducible apply Kept.by' (cyUpd_k _ _)
    | with_reducible apply Kept.by' (showSlots_k _)
    | with_reducible apply Kept.by' (showCtxs_k _)
    | with_reducible apply Kept.by' (engineNext_k _ _)
    | with_reducible apply Kept.foldl
    | with_reducible apply Kept.foldl1
    | (intro _; intros)
    | with_reducible apply Kept.getD
    | dsimp only
    | apply rfl
    | (with_reducible refine Kept.by' (by with_reducible assumption) ?_ ?_)
    | split
theorem fwRevert_k (s : State) : Kept [.regs, .ev, .mem, .oz] s (fwRevert s).1 := by
  unfold fwRevert
  try dsimp -proj only
  repeat' first
    | with_reducible assumption
    | with_reducible apply Kept.refl
    | with_reducible apply Kept.ite
    | with_reducible apply Kept.ite1
    | with_reducible apply Kept.by' (showImage_k _)
    | with_reducible apply Kept.by' (bootWrite_k _ _ _ _)
    | with_reducible apply Kept.by' (ozRestart_k _ _ _)
    | with_reducible apply Kept.by' (fwStage_k _ _ _ _)
    | with_reducible apply Kept.by' (ozUpd_k _ _ ?_)
    | dsimp only
    | exact OzLe.same rfl rfl rfl
    | apply rfl
    | (with_reducible refine Kept.by' (by with_reducible assumption) ?_ ?_)
    | split
theorem stairReload_k (s : State) (a1) : Kept [.regs, .stairs] s (stairReload s a1) := by
  unfold stairReload
  try dsimp -proj only
  repeat' first
    | with_reducible assumption
    | with_reducible apply Kept.refl
    | with_reducible apply Kept.ite
    | with_reducible apply Kept.ite1
    | with_reducible apply Kept.ite2
    | with_reducible apply Kept.by' (wrN_k _ _ _)
    | with_reducible apply Kept.by' (wrF_k _ _ _ _ _)
    | with_reducible apply Kept.by' (stairUpd_k _ _ _)
    | with_reducible apply Kept.by' (setEntries_k _ _ _ _)
    | with_reducible apply Kept.foldl
    | with_reducible apply Kept.foldl1
    | (intro _; intros)
    | with_reducible apply Kept.getD
    | dsimp only
    | apply rfl
    | (with_reducible refine Kept.by' (by with_reducible assumption) ?_ ?_)
    | split
theorem txCapture_k (s : State) (a1) (a2) (a3) : Kept [.regs, .ch] s (txCapture s a1 a2 a3) := by
  unfold txCapture
  try dsimp -proj only
  repeat' first
    | with_reducible assumption
    | with_reducible apply Kept.refl
    | with_reducible apply Kept.ite
    | with_reducible apply Kept.by' (txFinish_k _ _ _ _)
    | apply rfl
    | (with_reducible refine Kept.by' (by with_reducible assumption) ?_ ?_)
    | split
theorem replayRecord_k (a0) (s : State) (a2) : Kept [.mem, .sv] s (replayRecord a0 s a2) := by
  unfold replayRecord
  try dsimp -proj only
  repeat' first
    | with_reducible assumption
    | with_reducible apply Kept.refl
    | with_reducible apply Kept.ite
    | with_reducible apply Kept.ite1
    | with_reducible apply Kept.ite2
    | with_reducible apply Kept.by' (unmapUnit_k _ _ _)
    | with_reducible apply Kept.by' (nsUpd_k _ _ _)
    | with_reducible apply Kept.by' (store_k _ _ _)
    | with_reducible apply Kept.foldl
    | with_reducible apply Kept.foldl1
    | (intro _; intros)
    | apply rfl
    | (with_reducible refine Kept.by' (by with_reducible assumption) ?_ ?_)
    | split
theorem lockedWrite_k (s : State) (a1) (a2) : Kept [.regs, .ev] s (lockedWrite s a1 a2) := by
  unfold lockedWrite
  try dsimp -proj only
  repeat' first
    | with_reducible assumption
    | with_reducible apply Kept.refl
    | with_reducible apply Kept.ite
    | with_reducible apply Kept.by' (raise_k _ _ _)
    | with_reducible apply Kept.by' (glError_k _ _ _)
    | dsimp only
    | apply rfl
    | (with_reducible refine Kept.by' (by with_reducible assumption) ?_ ?_)
    | split
theorem scopeOpen_k (s : State) (a1) (a2) (a3) (a4) : Kept [.regs, .ev, .oz] s (scopeOpen s a1 a2 a3 a4) := by
  unfold scopeOpen
  try dsimp -proj only
  repeat' first
    | with_reducible assumption
    | with_reducible apply Kept.refl
    | with_reducible apply Kept.ite
    | with_reducible apply Kept.by' (scopeClose_k _)
    | with_reducible apply Kept.by' (showScope_k _)
    | with_reducible apply Kept.by' (ozUpd_k _ _ ?_)
    | with_reducible apply Kept.by' (scopeEvents_k _ _ _)
    | with_reducible apply Kept.by' (raise_k _ _ _)
    | exact OzLe.same rfl rfl rfl
    | apply rfl
    | (with_reducible refine Kept.by' (by with_reducible assumption) ?_ ?_)
    | split

open Sys2Proof
theorem raiseLim_k (s : State) (a1) (a2) (a3) (a4) : Kept [.regs, .ev] s (raiseLim s a1 a2 a3 a4) := by
  unfold raiseLim
  split
  · apply raiseWin_k
  · apply Kept.ite
    · apply raiseWin_k
    · apply Kept.set_ev _ rfl
      split
      · apply raiseWin_k
      · exact Kept.refl
theorem notReached_k (s : State) (a1) : Kept [.regs, .out] s (notReached s a1) := by
  unfold notReached
  try dsimp -proj only
  repeat' first
    | with_reducible assumption
    | with_reducible apply Kept.refl
    | with_reducible apply Kept.ite
    | with_reducible apply Kept.by' (bump_k _ _ _)
    | with_reducible apply Kept.by' (emit_k _ _)
    | dsimp only
    | apply rfl
    | (with_reducible refine Kept.by' (by with_reducible assumption) ?_ ?_)
    | split
theorem xoffSend_k (s : State) (a1) : Kept [.regs, .net, .out] s (xoffSend s a1) := by
  unfold xoffSend
  try dsimp -proj only
  repeat' first
    | with_reducible assumption
    | with_reducible apply Kept.refl
    | with_reducible apply Kept.ite
    | with_reducible apply Kept.by' (portSet_k _ _ _)
    | with_reducible apply Kept.by' (controlFrame_k _ _ _)
    | (intro _; intros)
    | dsimp only
    | apply rfl
    | (with_reducible refine Kept.by' (by with_reducible assumption) ?_ ?_)
    | split
theorem adminRead_k {l : List Part} {s t : State} {sl addr n env f} (h : Kept l s t) (g : ∀ u bs, Kept l s u → Kept l s (f u bs).1)
    (hl : [Part.regs, .ev, .host, .out, .draws].all (fun p => l.contains p) = true) : Kept l s (adminRead t sl addr n env f).1 := by
  unfold adminRead
  split
  · exact h.after (Kept.eq1 (slFetch_k _ _ _ _ _) (by assumption)) hl
  · exact g _ _ (h.after (Kept.eq1 (slFetch_k _ _ _ _ _) (by assumption)) hl)
theorem thawEvent_k (s : State) (a1) (a2) (a3) : Kept [.regs, .ev] s (thawEvent s a1 a2 a3) := by
  unfold thawEvent
  try dsimp -proj only
  repeat' first
    | with_reducible assumption
    | with_reducible apply Kept.refl
    | with_reducible apply Kept.ite
    | with_reducible apply Kept.by' (raise_k _ _ _)
    | dsimp only
    | apply rfl
    | (with_reducible refine Kept.by' (by with_reducible assumption) ?_ ?_)
    | split
theorem laSource_k (s : State) (a1) (a2) : Kept [.regs, .ev, .host, .out, .draws] s (laSource s a1 a2).1 := by
  unfold laSource
  try dsimp -proj only
  repeat' first
    | with_reducible assumption
    | with_reducible apply Kept.refl
    | with_reducible apply Kept.ite
    | with_reducible apply Kept.ite1
    | with_reducible apply Kept.by' (slFetch_k _ _ _ _ _)
    | with_reducible apply Kept.by' (Kept.eq1 (slFetch_k _ _ _ _ _) (by assumption))
    | with_reducible apply Kept.getD
    | dsimp only
    | apply rfl
    | (with_reducible refine Kept.by' (by with_reducible assumption) ?_ ?_)
    | split
theorem spillRead_k (s : State) (a1) (a2) (a3) : Kept [.regs, .ev, .host, .out, .draws] s (spillRead s a1 a2 a3).1 := by
  unfold spillRead
  try dsimp -proj only
  repeat' first
    | with_reducible assumption
    | with_reducible apply Kept.refl
    | with_reducible apply Kept.ite
    | with_reducible apply Kept.ite1
    | with_reducible apply Kept.by' (slFetch_k _ _ _ _ _)
    | with_reducible apply Kept.by' (Kept.eq1 (slFetch_k _ _ _ _ _) (by assumption))
    | dsimp only
    | apply rfl
    | (with_reducible refine Kept.by' (by with_reducible assumption) ?_ ?_)
    | split
theorem lookCount_k (a0) (s : State) (a2) : Kept [.regs, .stairs] s (lookCount a0 s a2) := by
  unfold lookCount
  try dsimp -proj only
  repeat' first
    | with_reducible assumption
    | with_reducible apply Kept.refl
    | with_reducible apply Kept.ite
    | with_reducible apply Kept.ite1
    | with_reducible apply Kept.ite2
    | with_reducible apply Kept.by' (bump64_k _ _ _)
    | with_reducible apply Kept.by' (stairUpd_k _ _ _)
    | with_reducible apply Kept.foldl
    | with_reducible apply Kept.foldl1
    | (intro _; intros)
    | dsimp only
    | apply rfl
    | (with_reducible refine Kept.by' (by with_reducible assumption) ?_ ?_)
    | split
theorem noteLearn_k (s : State) (a1) (a2) : Kept [.stairs] s (noteLearn s a1 a2) := by
  unfold noteLearn
  try dsimp -proj only
  repeat' first
    | with_reducible assumption
    | with_reducible apply Kept.refl
    | with_reducible apply Kept.ite
    | with_reducible apply Kept.by' (stairUpd_k _ _ _)
    | (intro _; intros)
    | dsimp only
    | apply rfl
    | (with_reducible refine Kept.by' (by with_reducible assumption) ?_ ?_)
    | split
theorem noteLows_k (s : State) (a1) (a2) : Kept [.acc] s (noteLows s a1 a2) := by
  unfold noteLows
  try dsimp -proj only
  repeat' first
    | with_reducible assumption
    | with_reducible apply Kept.refl
    | with_reducible apply Kept.ite
    | with_reducible apply Kept.foldl
    | with_reducible apply Kept.foldl1
    | (intro _; intros)
    | with_reducible apply Kept.getD
    | dsimp only
    | apply rfl
    | (with_reducible refine Kept.by' (by with_reducible assumption) ?_ ?_)
    | split
    | with_reducible apply Kept.set_acc
    | exact fun h => h
    | exact fun _ => rfl
    | assumption
theorem fetchCut_k (s : State) (a1) : Kept [.host, .ch] s (fetchCut s a1) := by
  unfold fetchCut
  try dsimp -proj only
  repeat' first
    | with_reducible assumption
    | with_reducible apply Kept.refl
    | with_reducible apply Kept.ite
    | with_reducible apply Kept.by' (chanUpd_k _ _ _)
    | with_reducible apply Kept.by' (cqRelease_k _ _ _)
    | with_reducible apply Kept.by' (dropReads_k _ _ _)
    | (intro _; intros)
    | dsimp only
    | apply rfl
    | (with_reducible refine Kept.by' (by with_reducible assumption) ?_ ?_)
    | split
theorem winForget_k (s : State) (a1) (a2) : Kept [.host] s (winForget s a1 a2) := by
  unfold winForget
  try dsimp -proj only
  repeat' first
    | with_reducible assumption
    | with_reducible apply Kept.refl
    | with_reducible apply Kept.ite
    | (intro _; intros)
    | dsimp only
    | apply rfl
    | (with_reducible refine Kept.by' (by with_reducible assumption) ?_ ?_)
    | split
    | with_reducible apply Kept.set_host
theorem ideClear_k (s : State) (a1) : Kept [.regs, .ev, .host] s (ideClear s a1) := by
  unfold ideClear
  try dsimp -proj only
  repeat' first
    | with_reducible assumption
    | with_reducible apply Kept.refl
    | with_reducible apply Kept.ite
    | with_reducible apply Kept.ite1
    | with_reducible apply Kept.by' (ideTo_k _ _ _ _)
    | with_reducible apply Kept.foldl
    | with_reducible apply Kept.foldl1
    | (intro _; intros)
    | dsimp only
    | apply rfl
    | (with_reducible refine Kept.by' (by with_reducible assumption) ?_ ?_)
    | split
    | with_reducible apply Kept.set_host
theorem prpRead_k (s : State) (a1) (a2) (a3) (a4) (a5) : Kept [.regs, .ev, .host, .out, .draws] s (prpRead s a1 a2 a3 a4 a5) := by
  unfold prpRead
  try dsimp -proj only
  repeat' first
    | with_reducible assumption
    | with_reducible apply Kept.refl
    | with_reducible apply Kept.ite
    | with_reducible apply Kept.by' (svFetch_k _ _ _ _ _)
    | dsimp only
    | apply rfl
    | (with_reducible refine Kept.by' (by with_reducible assumption) ?_ ?_)
    | split
theorem sendZeroes_k (s : State) (a1) (a2) (a3) (a4) (a5) : Kept [.regs, .host, .out] s (sendZeroes s a1 a2 a3 a4 a5) := by
  unfold sendZeroes
  try dsimp -proj only
  repeat' first
    | with_reducible assumption
    | with_reducible apply Kept.refl
    | with_reducible apply Kept.ite
    | with_reducible apply Kept.by' (sendAway_k _ _ _ _ _)
    | with_reducible apply Kept.foldl
    | with_reducible apply Kept.foldl1
    | (intro _; intros)
    | dsimp only
    | apply rfl
    | (with_reducible refine Kept.by' (by with_reducible assumption) ?_ ?_)
    | split
theorem ioReads_k (s : State) (a1) (a2) (a3) (a4) (a5) : Kept [.regs, .ev, .host, .out, .draws] s (ioReads s a1 a2 a3 a4 a5) := by
  unfold ioReads
  try dsimp -proj only
  repeat' first
    | with_reducible assumption
    | with_reducible apply Kept.refl
    | with_reducible apply Kept.ite
    | with_reducible apply Kept.by' (svFetch_k _ _ _ _ _)
    | with_reducible apply Kept.by' (prpRead_k _ _ _ _ _ _)
    | dsimp only
    | apply rfl
    | (with_reducible refine Kept.by' (by with_reducible assumption) ?_ ?_)
    | split
theorem reissue_k (s : State) (a1) (a2) : Kept [.regs, .host] s (reissue s a1 a2) := by
  unfold reissue
  try dsimp -proj only
  repeat' first
    | with_reducible assumption
    | with_reducible apply Kept.refl
    | with_reducible apply Kept.ite
    | with_reducible apply Kept.ite1
    | with_reducible apply Kept.ite2
    | with_reducible apply Kept.by' (rpUpd_k _ _ _)
    | with_reducible apply Kept.by' (drvOpen_k _ _ _ _)
    | with_reducible apply Kept.foldl
    | with_reducible apply Kept.foldl1
    | (intro _; intros)
    | dsimp only
    | apply rfl
    | (with_reducible refine Kept.by' (by with_reducible assumption) ?_ ?_)
    | split
theorem mbRead_k {l : List Part} {s w t : State} {addr n e f b r} (e' : mbRead w addr n e f = some (t, b, r)) (h : Kept l s w)
    (g : ∀ u bs v b r, f u bs = some (v, b, r) → Kept l s u → Kept l s v)
    (hl : [Part.regs, .ev, .host, .out, .draws].all (fun p => l.contains p) = true) : Kept l s t := by
  unfold mbRead at e'
  split at e'
  · have hk : ∀ u x, slFetch w 0 [(addr, n)] 0 (envRead e 0) = (u, x) → Kept l s u := fun u x hx => h.after (Kept.eq1 (slFetch_k _ _ _ _ _) hx) hl
    split at e'
    · exact g _ _ _ _ _ e' (hk _ _ (by assumption))
    · unfold mbFail at e'
      injection e' with e'
      have hh : _ = t := congrArg Prod.fst e'
      subst hh; exact hk _ _ (by assumption)
  · split at e'
    · exact g _ _ _ _ _ e' h
    · unfold mbFail at e'
      injection e' with e'
      have hh : _ = t := congrArg Prod.fst e'
      subst hh; exact h
theorem msixWrite_k (s : State) (a1) (a2) (a3) (a4) (a5) (a6) : Kept [.regs, .host, .out] s (msixWrite s a1 a2 a3 a4 a5 a6) := by
  unfold msixWrite
  try dsimp -proj only
  repeat' first
    | with_reducible assumption
    | with_reducible apply Kept.refl
    | with_reducible apply Kept.ite
    | with_reducible apply Kept.by' (fnSet_k _ _ _ _)
    | with_reducible apply Kept.by' (releasePending_k _ _ _)
    | with_reducible apply Kept.by' (urIn_k _ _)
    | with_reducible apply Kept.getD
    | dsimp only
    | apply rfl
    | (with_reducible refine Kept.by' (by with_reducible assumption) ?_ ?_)
    | split
theorem ideProg_k (s : State) (a1) (a2) (a3) : Kept [.host] s (ideProg s a1 a2 a3) := by
  unfold ideProg
  try dsimp -proj only
  repeat' first
    | with_reducible assumption
    | with_reducible apply Kept.refl
    | with_reducible apply Kept.ite
    | dsimp only
    | apply rfl
    | (with_reducible refine Kept.by' (by with_reducible assumption) ?_ ?_)
    | split
    | with_reducible apply Kept.set_host
theorem ideStart_k {s l k t} (e : ideStart s l k = some t) : Kept [.regs, .ev, .host] s t := by
  unfold ideStart at e
  split at e
  · cases e; exact Kept.by' (ideTo_k _ _ _ _) Kept.refl rfl
  · cases e
theorem ideHalt_k (s : State) (a1) (a2) : Kept [.regs, .ev, .host] s (ideHalt s a1 a2) := by
  unfold ideHalt
  try dsimp -proj only
  repeat' first
    | with_reducible assumption
    | with_reducible apply Kept.refl
    | with_reducible apply Kept.ite
    | with_reducible apply Kept.by' (ideTo_k _ _ _ _)
    | dsimp only
    | apply rfl
    | (with_reducible refine Kept.by' (by with_reducible assumption) ?_ ?_)
    | split
    | with_reducible apply Kept.set_host
theorem ideAsk_k {l : List Part} {s t : State} {li k f} (h : Kept l s t) (g : ∀ u v, f u = some v → Kept l s u → Kept l s v)
    (hl : [Part.out].all (fun p => l.contains p) = true) : Kept l s (ideAsk t li k f) := by
  unfold ideAsk
  split
  · rename_i e
    split at e
    · exact (g _ _ e h).after (answer_k _ _ _ _) hl
    · cases e
  · exact h.after (answer_k _ _ _ _) hl
theorem blink_k (s : State) (a1) : Kept [.out] s (blink s a1) := by
  unfold blink
  try dsimp -proj only
  repeat' first
    | with_reducible assumption
    | with_reducible apply Kept.refl
    | with_reducible apply Kept.ite
    | with_reducible apply Kept.by' (drive_k _ _ _ _)
    | with_reducible apply Kept.foldl
    | with_reducible apply Kept.foldl1
    | (intro _; intros)
    | dsimp only
    | apply rfl
    | (with_reducible refine Kept.by' (by with_reducible assumption) ?_ ?_)
    | split
theorem rpTimeout_k (s : State) (a1) : Kept [.regs, .ev, .host, .draws] s (rpTimeout s a1) := by
  unfold rpTimeout
  try dsimp -proj only
  repeat' first
    | with_reducible assumption
    | with_reducible apply Kept.refl
    | with_reducible apply Kept.ite
    | with_reducible apply Kept.ite1
    | with_reducible apply Kept.ite2
    | with_reducible apply Kept.by' (draw_k _)
    | with_reducible apply Kept.by' (Kept.eq2 (draw_k _) (by assumption))
    | with_reducible apply Kept.by' (raise_k _ _ _)
    | with_reducible apply Kept.by' (rpSet_k _ _ _ _)
    | with_reducible apply Kept.by' (dpcError_k _ _ _ _)
    | with_reducible apply Kept.by' (rpAer_k _ _ _ _ _)
    | dsimp only
    | apply rfl
    | (with_reducible refine Kept.by' (by with_reducible assumption) ?_ ?_)
    | split
theorem pidxPut_k (s : State) (a1) (a2) (a3) (a4) (a5) : Kept [.ch] s (pidxPut s a1 a2 a3 a4 a5) := by
  unfold pidxPut
  try dsimp -proj only
  repeat' first
    | with_reducible assumption
    | with_reducible apply Kept.refl
    | with_reducible apply Kept.ite
    | with_reducible apply Kept.by' (chanSet_k _ _ _)
    | dsimp only
    | apply rfl
    | (with_reducible refine Kept.by' (by with_reducible assumption) ?_ ?_)
    | split
theorem indCmd_k (s : State) (a1) (a2) (a3) : Kept [.regs, .acc, .out] s (indCmd s a1 a2 a3) := by
  unfold indCmd
  try dsimp -proj only
  repeat' first
    | with_reducible assumption
    | with_reducible apply Kept.refl
    | with_reducible apply Kept.ite
    | with_reducible apply Kept.by' (indAccess_k _ _ _)
    | with_reducible apply Kept.by' (indSettle_k _ _)
    | dsimp only
    | apply rfl
    | (with_reducible refine Kept.by' (by with_reducible assumption) ?_ ?_)
    | split
theorem indDataPut_k (s : State) (a1) (a2) (a3) : Kept [.regs, .acc, .out] s (indDataPut s a1 a2 a3) := by
  unfold indDataPut
  try dsimp -proj only
  repeat' first
    | with_reducible assumption
    | with_reducible apply Kept.refl
    | with_reducible apply Kept.ite
    | with_reducible apply Kept.by' (indAccess_k _ _ _)
    | with_reducible apply Kept.by' (indSettle_k _ _)
    | dsimp only
    | apply rfl
    | (with_reducible refine Kept.by' (by with_reducible assumption) ?_ ?_)
    | split
theorem indRead_k (s : State) (a1) (a2) (a3) : Kept [.regs, .acc, .out] s (indRead s a1 a2 a3) := by
  unfold indRead
  try dsimp -proj only
  repeat' first
    | with_reducible assumption
    | with_reducible apply Kept.refl
    | with_reducible apply Kept.ite
    | with_reducible apply Kept.by' (indAccess_k _ _ _)
    | with_reducible apply Kept.by' (indSettle_k _ _)
    | dsimp only
    | apply rfl
    | (with_reducible refine Kept.by' (by with_reducible assumption) ?_ ?_)
    | split
theorem indClear_k (s : State) (a1) (a2) : Kept [.acc, .net] s (indClear s a1 a2) := by
  unfold indClear
  try dsimp -proj only
  repeat' first
    | with_reducible assumption
    | with_reducible apply Kept.refl
    | with_reducible apply Kept.ite
    | with_reducible apply Kept.by' (portUpd_k _ _ _)
    | (intro _; intros)
    | dsimp only
    | apply rfl
    | (with_reducible refine Kept.by' (by with_reducible assumption) ?_ ?_)
    | split
    | with_reducible apply Kept.set_acc
    | exact fun h => h
    | exact fun _ => rfl
    | assumption
theorem withOwn_k {l : List Part} {s t : State} {off reg f} (h : Kept l s t) (k : ∀ u, Kept l u (f u))
    (hl : [Part.acc].all (fun p => l.contains p) = true) : Kept l s (withOwn t off reg f) := by
  have ha : l.contains .acc = true := by simpa using hl
  have hm : l.all (fun p => l.contains p) = true := List.all_eq_true.mpr (fun p hp => by simpa using hp)
  unfold withOwn
  split
  · exact h.after (k _) hm
  · have g := k { t with acc := { t.acc with own := some off } }
    exact ⟨((h.keeps.set_acc ha).after g.keeps hm).set_acc ha, g.rise ∘ h.rise, g.wf ∘ h.wf, h.ozLe.trans g.ozLe, h.own⟩
end Sys2Proof.Machine
end

