-- ==== Sys2Proof/Laws/Frame2.lean ====
section
/-! SUPPORT. Laws/Frame2.lean: frames: operations over several parts: tables, rings, channels, start-up. -/

namespace Sys2Proof.Machine
set_option linter.all false
theorem chPut_k {s t n p w sl u} (e : chPut s t n p w sl = some u) : Kept [.regs, .mem, .tils, .out] s u := by
  unfold chPut at e
  dsimp -proj only at e
  have hs : ∀ s : State, ∀ x, Kept [.regs, .mem, .tils, .out] s (sealMsg s t (16 * n + p) x) := fun s x => Kept.after Kept.refl (sealMsg_k _ _ _ _) rfl
  have hr : ∀ (s v : State) x, Kept [.regs, .mem, .tils, .out] s v → Kept [.regs, .mem, .tils, .out] s (chReply v t n x 0) := fun s v x h => h.after (chReply_k _ _ _ _ _) rfl
  have ht : ∀ (s v : State) a b c, Kept [.regs, .mem, .tils, .out] s v → Kept [.regs, .mem, .tils, .out] s (tportSet v a b c) := fun s v a b c h => h.after (tportSet_k _ _ _ _) rfl
  have ho : ∀ (s v : State) a b, Kept [.regs, .mem, .tils, .out] s v → Kept [.regs, .mem, .tils, .out] s (showOpen v a b) := fun s v a b h => h.after (showOpen_k _ _ _) rfl
  repeat' split at e
  all_goals first
    | cases e; done
    | (cases e
       first
         | exact hr _ _ _ Kept.refl
         | exact hr _ _ _ (ht _ _ _ _ _ Kept.refl)
         | exact hr _ _ _ (hs _ _)
         | exact hr _ _ _ (ho _ _ _ _ (ht _ _ _ _ _ Kept.refl))
         | exact hr _ _ _ ((ht _ _ _ _ _ Kept.refl).after (hs _ _) rfl)
         | exact hr _ _ _ (ho _ _ _ _ (ht _ _ _ _ _ (ht _ _ _ _ _ Kept.refl))))
theorem chRecv_k {s t n p a u} (e : chRecv s t n p a = some u) : Kept [.regs, .mem, .tils, .out] s u := by
  unfold chRecv at e
  dsimp -proj only at e
  repeat' split at e
  all_goals first
    | cases e; done
    | (cases e
       repeat' first
         | with_reducible apply Kept.by' (chReply_k _ _ _ _ _)
         | with_reducible apply Kept.by' (thTrap_k _ _ _ _)
         | with_reducible apply Kept.by' (thSetState_k _ _ _ _)
         | with_reducible apply Kept.by' (thUpd_k _ _ _ _)
         | with_reducible apply Kept.by' (tportSet_k _ _ _ _)
         | with_reducible apply Kept.by' (store_k _ _ _)
         | with_reducible apply Kept.refl
         | apply rfl)
theorem chWait_k {s t n m u} (e : chWait s t n m = some u) : Kept [.regs, .mem, .tils, .out] s u := by
  unfold chWait at e
  dsimp -proj only at e
  repeat' split at e
  all_goals first
    | cases e; done
    | (cases e; exact Kept.after Kept.refl (chReply_k _ _ _ _ _) rfl)
theorem chTry_k {s t n b u} (e : chTry s t n b = some u) : Kept [.regs, .mem, .tils, .out] s u := by
  unfold chTry at e
  split at e
  · exact chPut_k e
  · exact chRecv_k e
  · exact chWait_k e
theorem thCtlWrite_k (s : State) (a1) (a2) (a3) : Kept [.regs, .mem, .tils, .out, .draws] s (thCtlWrite s a1 a2 a3) := by
  unfold thCtlWrite
  try dsimp -proj only
  repeat' first
    | with_reducible assumption
    | with_reducible apply Kept.refl
    | with_reducible apply Kept.ite
    | (intro u e; obtain ⟨b, hb, e⟩ := Option.bind_eq_some_iff.mp e)
    | with_reducible apply Kept.by' (chTry_k (by assumption))
    | with_reducible apply Kept.by' (plainWrite_k _ _ _ _)
    | with_reducible apply Kept.by' (chReply_k _ _ _ _ _)
    | with_reducible apply Kept.by' (chTry_k (by assumption))
    | with_reducible apply Kept.by' (haltThread_k _ _ _)
    | with_reducible apply Kept.by' (resumeThread_k _ _ _)
    | with_reducible apply Kept.by' (resetThread_k _ _ _)
    | with_reducible apply Kept.getD
    | dsimp only
    | apply rfl
    | (with_reducible refine Kept.by' (by with_reducible assumption) ?_ ?_)
    | split
theorem setFree_k (s : State) (a1) : Kept [.regs, .ev] s (setFree s a1) := by
  unfold setFree
  try dsimp -proj only
  repeat' first
    | with_reducible assumption
    | with_reducible apply Kept.refl
    | with_reducible apply Kept.ite
    | with_reducible apply Kept.by' (wrN_k _ _ _)
    | with_reducible apply Kept.by' (raiseLim_k _ _ _ _ _)
    | apply rfl
    | (with_reducible refine Kept.by' (by with_reducible assumption) ?_ ?_)
    | split
theorem freeGrains_k (s : State) (a1) : Kept [.regs, .ev] s (freeGrains s a1) := by
  unfold freeGrains
  try dsimp -proj only
  repeat' first
    | with_reducible assumption
    | with_reducible apply Kept.refl
    | with_reducible apply Kept.ite
    | with_reducible apply Kept.by' (setFree_k _ _)
    | with_reducible apply Kept.by' (regSub_k _ _ _)
    | apply rfl
    | (with_reducible refine Kept.by' (by with_reducible assumption) ?_ ?_)
    | split
theorem endPkt_k (s : State) (a1) : Kept [.regs, .ev, .ch, .rm] s (endPkt s a1) := by
  unfold endPkt
  try dsimp -proj only
  repeat' first
    | with_reducible assumption
    | with_reducible apply Kept.refl
    | with_reducible apply Kept.ite
    | with_reducible apply Kept.by' (txIngress_k _ _ _)
    | with_reducible apply Kept.by' (freeGrains_k _ _)
    | with_reducible apply Kept.by' (depRelease_k _ _)
    | with_reducible apply Kept.by' (releaseRkey_k _ _)
    | apply rfl
    | (with_reducible refine Kept.by' (by with_reducible assumption) ?_ ?_)
    | split
theorem refuse_k (s : State) (a1) (a2) (a3) : Kept [.regs, .ev, .ch, .land, .rm] s (refuse s a1 a2 a3) := by
  unfold refuse
  try dsimp -proj only
  repeat' first
    | with_reducible assumption
    | with_reducible apply Kept.refl
    | with_reducible apply Kept.ite
    | with_reducible apply Kept.by' (bump_k _ _ _)
    | with_reducible apply Kept.by' (raiseLim_k _ _ _ _ _)
    | with_reducible apply Kept.by' (endPkt_k _ _)
    | with_reducible apply Kept.by' (nodeTally_k _ _ _)
    | (intro _; intros)
    | with_reducible apply Kept.getD
    | dsimp only
    | apply rfl
    | (with_reducible refine Kept.by' (by with_reducible assumption) ?_ ?_)
    | split
    | with_reducible apply Kept.set_land
theorem slotWrite_k (s : State) (a1) (a2) : Kept [.regs, .ev, .host, .ch, .land, .rm, .out] s (slotWrite s a1 a2) := by
  unfold slotWrite
  try dsimp -proj only
  repeat' first
    | with_reducible assumption
    | with_reducible apply Kept.refl
    | with_reducible apply Kept.ite
    | with_reducible apply Kept.by' (raise_k _ _ _)
    | with_reducible apply Kept.by' (refuse_k _ _ _ _)
    | with_reducible apply Kept.by' (rpUpd_k _ _ _)
    | with_reducible apply Kept.by' (rpSet_k _ _ _ _)
    | with_reducible apply Kept.by' (slotPerst_k _ _ _)
    | with_reducible apply Kept.by' (slotPower_k _ _ _)
    | with_reducible apply Kept.by' (ledShow_k _ _ _ _)
    | (intro _; intros)
    | dsimp only
    | apply rfl
    | (with_reducible refine Kept.by' (by with_reducible assumption) ?_ ?_)
    | split
theorem rpCfgWrite_k (s : State) (a1) (a2) (a3) : Kept [.regs, .ev, .host, .ch, .land, .rm, .out] s (rpCfgWrite s a1 a2 a3) := by
  unfold rpCfgWrite
  try dsimp -proj only
  repeat' first
    | with_reducible assumption
    | with_reducible apply Kept.refl
    | with_reducible apply Kept.ite
    | with_reducible apply Kept.ite1
    | with_reducible apply Kept.ite2
    | with_reducible apply Kept.by' (slotWrite_k _ _ _)
    | with_reducible apply Kept.by' (rpSet_k _ _ _ _)
    | with_reducible apply Kept.by' (wrF_k _ _ _ _ _)
    | with_reducible apply Kept.by' (rpUpd_k _ _ _)
    | apply rfl
    | (with_reducible refine Kept.by' (by with_reducible assumption) ?_ ?_)
    | split
theorem rpEffect_k (s : State) (a1) (a2) (a3) (a4) (a5) : Kept [.regs, .ev, .host, .ch, .land, .rm, .out] s (rpEffect s a1 a2 a3 a4 a5) := by
  unfold rpEffect
  try dsimp -proj only
  repeat' first
    | with_reducible assumption
    | with_reducible apply Kept.refl
    | with_reducible apply Kept.ite
    | with_reducible apply Kept.by' (mergeWrite_k _ _ _)
    | with_reducible apply Kept.by' (rpCfgWrite_k _ _ _ _)
    | with_reducible apply Kept.by' (dcfgWrite_k _ _ _ _)
    | with_reducible apply Kept.by' (regStore_k _ _ _)
    | apply rfl
    | (with_reducible refine Kept.by' (by with_reducible assumption) ?_ ?_)
    | split
theorem takeGrains_k (s : State) (a1) : Kept [.regs, .ev] s (takeGrains s a1) := by
  unfold takeGrains
  try dsimp -proj only
  repeat' first
    | with_reducible assumption
    | with_reducible apply Kept.refl
    | with_reducible apply Kept.ite
    | with_reducible apply Kept.by' (regAdd_k _ _ _)
    | with_reducible apply Kept.by' (setFree_k _ _)
    | apply rfl
    | (with_reducible refine Kept.by' (by with_reducible assumption) ?_ ?_)
    | split
theorem enterOther_k (s : State) (a1) (a2) (a3) : Kept [.regs, .ev, .ch, .land] s (enterOther s a1 a2 a3) := by
  unfold enterOther
  try dsimp -proj only
  repeat' first
    | with_reducible assumption
    | with_reducible apply Kept.refl
    | with_reducible apply Kept.ite
    | with_reducible apply Kept.by' (entryUpd_k _ _ _ _)
    | with_reducible apply Kept.by' (regSub_k _ _ _)
    | with_reducible apply Kept.by' (bump_k _ _ _)
    | with_reducible apply Kept.by' (txIngress_k _ _ _)
    | with_reducible apply Kept.by' (freeGrains_k _ _)
    | apply rfl
    | (with_reducible refine Kept.by' (by with_reducible assumption) ?_ ?_)
    | split
theorem txEnter_k (s : State) (a1) (a2) : Kept [.regs, .ev, .ch, .land] s (txEnter s a1 a2) := by
  unfold txEnter
  try dsimp -proj only
  repeat' first
    | with_reducible assumption
    | with_reducible apply Kept.refl
    | with_reducible apply Kept.ite
    | with_reducible apply Kept.ite1
    | with_reducible apply Kept.ite2
    | with_reducible apply Kept.by' (bump_k _ _ _)
    | with_reducible apply Kept.by' (entUpd_k _ _ _ _)
    | with_reducible apply Kept.by' (newPkt_k _ _ _)
    | with_reducible apply Kept.by' (Kept.eq1 (newPkt_k _ _ _) (by assumption))
    | with_reducible apply Kept.by' (takeGrains_k _ _)
    | with_reducible apply Kept.by' (enterOther_k _ _ _ _)
    | apply rfl
    | (with_reducible refine Kept.by' (by with_reducible assumption) ?_ ?_)
    | split
theorem payloadArrived_k (s : State) (a1) (a2) (a3) (a4) : Kept [.regs, .ev, .ch, .land] s (payloadArrived s a1 a2 a3 a4) := by
  unfold payloadArrived
  try dsimp -proj only
  repeat' first
    | with_reducible assumption
    | with_reducible apply Kept.refl
    | with_reducible apply Kept.ite
    | with_reducible apply Kept.by' (entUpd_k _ _ _ _)
    | with_reducible apply Kept.by' (txEnter_k _ _ _)
    | apply rfl
    | (with_reducible refine Kept.by' (by with_reducible assumption) ?_ ?_)
    | split
theorem qpFetch_k (s : State) (a1) : Kept [.regs, .ev, .rm] s (qpFetch s a1) := by
  unfold qpFetch
  try dsimp -proj only
  repeat' first
    | with_reducible assumption
    | with_reducible apply Kept.refl
    | with_reducible apply Kept.ite
    | with_reducible apply Kept.ite2
    | with_reducible apply Kept.by' (rmUpd_k _ _)
    | with_reducible apply Kept.by' (bump_k _ _ _)
    | with_reducible apply Kept.by' (raiseLim_k _ _ _ _ _)
    | apply rfl
    | (with_reducible refine Kept.by' (by with_reducible assumption) ?_ ?_)
    | split
theorem qpNextFetch_k (s : State) : Kept [.regs, .ev, .rm] s (qpNextFetch s) := by
  unfold qpNextFetch
  try dsimp -proj only
  repeat' first
    | with_reducible assumption
    | with_reducible apply Kept.refl
    | with_reducible apply Kept.ite
    | with_reducible apply Kept.by' (qpFetch_k _ _)
    | with_reducible apply Kept.by' (rmUpd_k _ _)
    | apply rfl
    | (with_reducible refine Kept.by' (by with_reducible assumption) ?_ ?_)
    | split
theorem qpDropLine_k (s : State) (a1) : Kept [.regs, .ev, .rm] s (qpDropLine s a1) := by
  unfold qpDropLine
  try dsimp -proj only
  repeat' first
    | with_reducible assumption
    | with_reducible apply Kept.refl
    | with_reducible apply Kept.ite
    | with_reducible apply Kept.ite2
    | with_reducible apply Kept.by' (rmUpd_k _ _)
    | with_reducible apply Kept.by' (qpNextFetch_k _)
    | apply rfl
    | (with_reducible refine Kept.by' (by with_reducible assumption) ?_ ?_)
    | split
theorem qpReset_k (s : State) (a1) : Kept [.regs, .ev, .rm] s (qpReset s a1) := by
  unfold qpReset
  try dsimp -proj only
  repeat' first
    | with_reducible assumption
    | with_reducible apply Kept.refl
    | with_reducible apply Kept.ite
    | with_reducible apply Kept.by' (unrefKeys_k _ _)
    | with_reducible apply Kept.by' (regionUnref_k _ _)
    | with_reducible apply Kept.by' (qpDropLine_k _ _)
    | with_reducible apply Kept.by' (rmUpd_k _ _)
    | with_reducible apply Kept.foldl
    | with_reducible apply Kept.foldl1
    | (intro _; intros)
    | apply rfl
    | (with_reducible refine Kept.by' (by with_reducible assumption) ?_ ?_)
    | split
theorem chanGone_k (s : State) (a1) : Kept [.regs, .ev, .ch, .rm] s (chanGone s a1) := by
  unfold chanGone
  try dsimp -proj only
  repeat' first
    | with_reducible assumption
    | with_reducible apply Kept.refl
    | with_reducible apply Kept.ite
    | with_reducible apply Kept.by' (rmUpd_k _ _)
    | with_reducible apply Kept.by' (qpReset_k _ _)
    | with_reducible apply Kept.by' (wrN_k _ _ _)
    | with_reducible apply Kept.by' (wrF_k _ _ _ _ _)
    | exact fun h => aset_rising _ _ h
    | exact fun h => filter_rising _ h
    | exact fun h => h
    | apply rfl
    | (with_reducible refine Kept.by' (by with_reducible assumption) ?_ ?_)
    | split
    | with_reducible apply Kept.set_regs
    | with_reducible apply Kept.set_ev
    | with_reducible apply Kept.set_ch
    | with_reducible apply Kept.set_rm
    | (refine Kept.of ⟨fun p hp => ?_⟩ rfl rfl rfl (congrArg AccSt.own rfl); cases p <;> first | rfl | cases hp)
theorem aqEnable_k (s : State) (a1) : Kept [.regs, .mem, .ch, .slices, .rm, .out, .draws] s (aqEnable s a1) := by
  unfold aqEnable
  try dsimp -proj only
  repeat' first
    | with_reducible assumption
    | with_reducible apply Kept.refl
    | with_reducible apply Kept.ite
    | with_reducible apply Kept.ite1
    | with_reducible apply Kept.ite2
    | with_reducible apply Kept.by' (aqFail_k _ _ _)
    | with_reducible apply Kept.by' (allocIndex_k _ _ _ _)
    | with_reducible apply Kept.by' (Kept.eq2 (allocIndex_k _ _ _ _) (by assumption))
    | with_reducible apply Kept.by' (chanCreate_k _ _ _)
    | with_reducible apply Kept.by' (Kept.eq1 (chanCreate_k _ _ _) (by assumption))
    | with_reducible apply Kept.by' (wrN_k _ _ _)
    | with_reducible apply Kept.by' (wrF_k _ _ _ _ _)
    | exact fun h => aset_rising _ _ h
    | exact fun h => filter_rising _ h
    | exact fun h => h
    | exact fun h => memPuts_wf h
    | exact fun h => memClear_wf h
    | exact memPuts_wf (by assumption)
    | exact memClear_wf (by assumption)
    | exact fun h => filter_wf _ h
    | exact fun h => h
    | apply rfl
    | (with_reducible refine Kept.by' (by with_reducible assumption) ?_ ?_)
    | split
    | with_reducible apply Kept.set_regs
    | with_reducible apply Kept.set_mem
    | with_reducible apply Kept.set_ch
    | with_reducible apply Kept.set_slices
    | with_reducible apply Kept.set_rm
    | with_reducible apply Kept.set_out
    | with_reducible apply Kept.set_draws
    | (refine Kept.of ⟨fun p hp => ?_⟩ rfl rfl rfl (congrArg AccSt.own rfl); cases p <;> first | rfl | cases hp)
theorem pairCheck_k (s : State) (a1) (a2) : Kept [.regs, .ev, .net, .out] s (pairCheck s a1 a2) := by
  unfold pairCheck
  try dsimp -proj only
  repeat' first
    | with_reducible assumption
    | with_reducible apply Kept.refl
    | with_reducible apply Kept.ite
    | with_reducible apply Kept.by' (wrF_k _ _ _ _ _)
    | with_reducible apply Kept.by' (raiseLim_k _ _ _ _ _)
    | with_reducible apply Kept.by' (xoffSet_k _ _ _ _)
    | apply rfl
    | (with_reducible refine Kept.by' (by with_reducible assumption) ?_ ?_)
    | split
theorem poolOut_k (s : State) (a1) (a2) : Kept [.regs, .ev, .net, .land, .out] s (poolOut s a1 a2) := by
  unfold poolOut
  try dsimp -proj only
  repeat' first
    | with_reducible assumption
    | with_reducible apply Kept.refl
    | with_reducible apply Kept.ite
    | with_reducible apply Kept.by' (regSub_k _ _ _)
    | with_reducible apply Kept.by' (nodeSet_k _ _ _ _)
    | with_reducible apply Kept.by' (setUse_k _ _ _)
    | with_reducible apply Kept.by' (regAdd_k _ _ _)
    | with_reducible apply Kept.by' (pairCheck_k _ _ _)
    | apply rfl
    | (with_reducible refine Kept.by' (by with_reducible assumption) ?_ ?_)
    | split
theorem queueTake_k (s : State) (a1) (a2) : Kept [.regs, .ev, .net, .land, .out] s (queueTake s a1 a2).1 := by
  unfold queueTake
  try dsimp -proj only
  repeat' first
    | with_reducible assumption
    | with_reducible apply Kept.refl
    | with_reducible apply Kept.ite
    | with_reducible apply Kept.ite1
    | with_reducible apply Kept.by' (nodeSet_k _ _ _ _)
    | with_reducible apply Kept.by' (poolOut_k _ _ _)
    | dsimp only
    | apply rfl
    | (with_reducible refine Kept.by' (by with_reducible assumption) ?_ ?_)
    | split
theorem endSent_k (s : State) (a1) : Kept [.regs, .ev, .ch, .rm] s (endSent s a1) := by
  unfold endSent
  try dsimp -proj only
  repeat' first
    | with_reducible assumption
    | with_reducible apply Kept.refl
    | with_reducible apply Kept.ite
    | with_reducible apply Kept.by' (txGone_k _ _ _)
    | with_reducible apply Kept.by' (freeGrains_k _ _)
    | with_reducible apply Kept.by' (releaseRkey_k _ _)
    | apply rfl
    | (with_reducible refine Kept.by' (by with_reducible assumption) ?_ ?_)
    | split
theorem queueDrop_k (s : State) (a1) (a2) : Kept [.regs, .ev, .ch, .net, .land, .rm, .out] s (queueDrop s a1 a2) := by
  unfold queueDrop
  try dsimp -proj only
  repeat' first
    | with_reducible assumption
    | with_reducible apply Kept.refl
    | with_reducible apply Kept.ite
    | with_reducible apply Kept.by' (queueTake_k _ _ _)
    | with_reducible apply Kept.by' (Kept.eq1 (queueTake_k _ _ _) (by assumption))
    | with_reducible apply Kept.by' (regSub_k _ _ _)
    | with_reducible apply Kept.by' (endSent_k _ _)
    | with_reducible apply Kept.by' (depRelease_k _ _)
    | apply rfl
    | (with_reducible refine Kept.by' (by with_reducible assumption) ?_ ?_)
    | split
theorem overflowLost_k (s : State) (a1) : Kept [.regs, .ev, .ch, .net, .land, .rm, .out] s (overflowLost s a1).1 := by
  unfold overflowLost
  try dsimp -proj only
  repeat' first
    | with_reducible assumption
    | with_reducible apply Kept.refl
    | with_reducible apply Kept.ite
    | with_reducible apply Kept.ite1
    | with_reducible apply Kept.ite2
    | with_reducible apply Kept.by' (queueDrop_k _ _ _)
    | with_reducible apply Kept.by' (nodeTally_k _ _ _)
    | with_reducible apply Kept.foldl
    | with_reducible apply Kept.foldl1
    | (intro _; intros)
    | dsimp only
    | apply rfl
    | (with_reducible refine Kept.by' (by with_reducible assumption) ?_ ?_)
    | split
theorem gmLost_k (s : State) (a1) (a2) : Kept [.regs, .ev, .ch, .net, .land, .rm, .out] s (gmLost s a1 a2) := by
  unfold gmLost
  try dsimp -proj only
  repeat' first
    | with_reducible assumption
    | with_reducible apply Kept.refl
    | with_reducible apply Kept.ite
    | with_reducible apply Kept.ite1
    | with_reducible apply Kept.ite2
    | with_reducible apply Kept.by' (wrN_k _ _ _)
    | with_reducible apply Kept.by' (overflowLost_k _ _)
    | with_reducible apply Kept.by' (Kept.eq1 (overflowLost_k _ _) (by assumption))
    | with_reducible apply Kept.by' (raise_k _ _ _)
    | with_reducible apply Kept.by' (bump_k _ _ _)
    | apply rfl
    | (with_reducible refine Kept.by' (by with_reducible assumption) ?_ ?_)
    | split
theorem gmCmdWrite_k (s : State) (a1) (a2) (a3) : Kept [.regs, .ev, .ch, .net, .land, .rm, .out] s (gmCmdWrite s a1 a2 a3) := by
  unfold gmCmdWrite
  try dsimp -proj only
  repeat' first
    | with_reducible assumption
    | with_reducible apply Kept.refl
    | with_reducible apply Kept.ite
    | with_reducible apply Kept.by' (gmRetrain_k _ _ _)
    | with_reducible apply Kept.by' (gmLost_k _ _ _)
    | apply rfl
    | (with_reducible refine Kept.by' (by with_reducible assumption) ?_ ?_)
    | split
theorem qpTouch_k (s : State) (a1) : Kept [.regs, .ev, .rm] s (qpTouch s a1).1 := by
  unfold qpTouch
  try dsimp -proj only
  repeat' first
    | with_reducible assumption
    | with_reducible apply Kept.refl
    | with_reducible apply Kept.ite
    | with_reducible apply Kept.ite1
    | with_reducible apply Kept.by' (rmUpd_k _ _)
    | with_reducible apply Kept.by' (bump_k _ _ _)
    | with_reducible apply Kept.by' (qpFetch_k _ _)
    | dsimp only
    | apply rfl
    | (with_reducible refine Kept.by' (by with_reducible assumption) ?_ ?_)
    | split
theorem takeSnapshot_k (s : State) (a1) (a2) : Kept [.regs, .snap, .ev, .stairs] s (takeSnapshot s a1 a2) := by
  unfold takeSnapshot
  try dsimp -proj only
  repeat' first
    | with_reducible assumption
    | with_reducible apply Kept.refl
    | with_reducible apply Kept.ite
    | with_reducible apply Kept.ite1
    | with_reducible apply Kept.ite2
    | with_reducible apply Kept.by' (bankSwap_k _ _ _)
    | with_reducible apply Kept.by' (wr64_k _ _ _)
    | with_reducible apply Kept.by' (bump_k _ _ _)
    | with_reducible apply Kept.by' (raiseLate_k _ _ _ _)
    | with_reducible apply Kept.foldl
    | with_reducible apply Kept.foldl1
    | (intro _; intros)
    | exact fun h => aset_rising _ _ h
    | exact fun h => filter_rising _ h
    | exact fun h => h
    | apply rfl
    | (with_reducible refine Kept.by' (by with_reducible assumption) ?_ ?_)
    | split
    | with_reducible apply Kept.set_regs
    | with_reducible apply Kept.set_snap
    | with_reducible apply Kept.set_ev
    | with_reducible apply Kept.set_stairs
    | (refine Kept.of ⟨fun p hp => ?_⟩ rfl rfl rfl (congrArg AccSt.own rfl); cases p <;> first | rfl | cases hp)
theorem dropWaiting_k (s : State) (a1) : Kept [.regs, .ev, .ch, .land, .rm] s (dropWaiting s a1) := by
  unfold dropWaiting
  try dsimp -proj only
  repeat' first
    | with_reducible assumption
    | with_reducible apply Kept.refl
    | with_reducible apply Kept.ite
    | with_reducible apply Kept.by' (entrySet_k _ _ _ _)
    | with_reducible apply Kept.by' (endPkt_k _ _)
    | with_reducible apply Kept.by' (bump_k _ _ _)
    | with_reducible apply Kept.by' (endSent_k _ _)
    | with_reducible apply Kept.foldl
    | with_reducible apply Kept.foldl1
    | (intro _; intros)
    | apply rfl
    | (with_reducible refine Kept.by' (by with_reducible assumption) ?_ ?_)
    | split
theorem noSpare_k (s : State) (a1) (a2) (a3) : Kept [.regs, .ev, .ch, .net, .land, .cy, .rm, .out, .draws] s (noSpare s a1 a2 a3) := by
  unfold noSpare
  try dsimp -proj only
  repeat' first
    | with_reducible assumption
    | with_reducible apply Kept.refl
    | with_reducible apply Kept.ite
    | with_reducible apply Kept.ite1
    | with_reducible apply Kept.by' (raise_k _ _ _)
    | with_reducible apply Kept.by' (lineFollow_k _ _)
    | with_reducible apply Kept.by' (dropWaiting_k _ _)
    | with_reducible apply Kept.by' (laRedo_k _ _ _)
    | with_reducible apply Kept.by' (Kept.eq1 (laRedo_k _ _ _) (by assumption))
    | with_reducible apply Kept.by' (pickEngine_k _)
    | with_reducible apply Kept.by' (Kept.eq2 (pickEngine_k _) (by assumption))
    | with_reducible apply Kept.foldl
    | with_reducible apply Kept.foldl1
    | (intro _; intros)
    | apply rfl
    | (with_reducible refine Kept.by' (by with_reducible assumption) ?_ ?_)
    | split
theorem promote_k (s : State) (a1) (a2) : Kept [.regs, .ev, .ch, .net, .land, .unit, .cy, .rm, .out, .draws] s (promote s a1 a2) := by
  unfold promote
  try dsimp -proj only
  repeat' first
    | with_reducible assumption
    | with_reducible apply Kept.refl
    | with_reducible apply Kept.ite
    | with_reducible apply Kept.by' (unitUpd_k _ _)
    | with_reducible apply Kept.by' (noSpare_k _ _ _ _)
    | apply rfl
    | (with_reducible refine Kept.by' (by with_reducible assumption) ?_ ?_)
    | split
theorem declare'_k (s : State) (a1) (a2) : Kept [.regs, .ev, .ch, .net, .stairs, .sheaf, .land, .unit, .cy, .rm, .out, .draws] s (declare' s a1 a2) := by
  unfold declare'
  try dsimp -proj only
  repeat' first
    | with_reducible assumption
    | with_reducible apply Kept.refl
    | with_reducible apply Kept.ite
    | with_reducible apply Kept.ite1
    | with_reducible apply Kept.ite2
    | with_reducible apply Kept.by' (setUnitCause_k _ _ _)
    | with_reducible apply Kept.by' (wrF_k _ _ _ _ _)
    | with_reducible apply Kept.by' (setUnitState_k _ _ _)
    | with_reducible apply Kept.by' (unitUpd_k _ _)
    | with_reducible apply Kept.by' (fenceKind_k _ _)
    | with_reducible apply Kept.by' (raise_k _ _ _)
    | with_reducible apply Kept.by' (promote_k _ _ _)
    | with_reducible apply Kept.foldl
    | with_reducible apply Kept.foldl1
    | (intro _; intros)
    | apply rfl
    | (with_reducible refine Kept.by' (by with_reducible assumption) ?_ ?_)
    | split
theorem unitCmdWrite_k (s : State) (a1) : Kept [.regs, .ev, .mem, .ch, .net, .stairs, .sheaf, .land, .unit, .tils, .cy, .rm, .out, .draws] s (unitCmdWrite s a1) := by
  unfold unitCmdWrite
  try dsimp -proj only
  repeat' first
    | with_reducible assumption
    | with_reducible apply Kept.refl
    | with_reducible apply Kept.ite
    | with_reducible apply Kept.by' (plainWrite_k _ _ _ _)
    | with_reducible apply Kept.by' (wrF_k _ _ _ _ _)
    | with_reducible apply Kept.by' (unitRefuse_k _ _)
    | with_reducible apply Kept.by' (declare'_k _ _ _)
    | with_reducible apply Kept.by' (readmit_k _ _)
    | with_reducible apply Kept.by' (handover_k _ _ _ _)
    | with_reducible apply Kept.by' (setUnitState_k _ _ _)
    | apply rfl
    | (with_reducible refine Kept.by' (by with_reducible assumption) ?_ ?_)
    | split
theorem flowRecheck_k (s : State) (a1) : Kept [.regs, .ev, .net, .out] s (flowRecheck s a1) := by
  unfold flowRecheck
  try dsimp -proj only
  repeat' first
    | with_reducible assumption
    | with_reducible apply Kept.refl
    | with_reducible apply Kept.ite
    | with_reducible apply Kept.by' (pairCheck_k _ _ _)
    | with_reducible apply Kept.by' (pauseUpdate_k _ _)
    | with_reducible apply Kept.foldl
    | with_reducible apply Kept.foldl1
    | (intro _; intros)
    | apply rfl
    | (with_reducible refine Kept.by' (by with_reducible assumption) ?_ ?_)
    | split
theorem ldEffect_k (s : State) (a1) (a2) (a3) : Kept [.regs, .time, .ev, .net, .stairs, .lpm, .sheaf, .land, .out] s (ldEffect s a1 a2 a3) := by
  unfold ldEffect
  try dsimp -proj only
  repeat' first
    | with_reducible assumption
    | with_reducible apply Kept.refl
    | with_reducible apply Kept.ite
    | with_reducible apply Kept.by' (ovfSizeWrite_k _ _ _)
    | with_reducible apply Kept.by' (tmCtlWrite_k _ _ _)
    | with_reducible apply Kept.by' (epochCtlWrite_k _ _)
    | with_reducible apply Kept.by' (sheafCmdWrite_k _ _)
    | with_reducible apply Kept.by' (rhCtlWrite_k _ _)
    | with_reducible apply Kept.by' (flowRecheck_k _ _)
    | with_reducible apply Kept.by' (regStore_k _ _ _)
    | exact fun h => aset_rising _ _ h
    | exact fun h => filter_rising _ h
    | exact fun h => h
    | apply rfl
    | (with_reducible refine Kept.by' (by with_reducible assumption) ?_ ?_)
    | split
    | with_reducible apply Kept.set_regs
    | with_reducible apply Kept.set_time
    | with_reducible apply Kept.set_ev
    | with_reducible apply Kept.set_net
    | with_reducible apply Kept.set_stairs
    | with_reducible apply Kept.set_lpm
    | with_reducible apply Kept.set_sheaf
    | with_reducible apply Kept.set_land
    | with_reducible apply Kept.set_out
    | (refine Kept.of ⟨fun p hp => ?_⟩ rfl rfl rfl (congrArg AccSt.own rfl); cases p <;> first | rfl | cases hp)
theorem ldTmEffect_k (s : State) (a1) (a2) (a3) : Kept [.regs, .time, .ev, .net, .stairs, .lpm, .sheaf, .land, .out] s (ldTmEffect s a1 a2 a3) := by
  unfold ldTmEffect
  try dsimp -proj only
  repeat' first
    | with_reducible assumption
    | with_reducible apply Kept.refl
    | with_reducible apply Kept.ite
    | with_reducible apply Kept.by' (ldEffect_k _ _ _ _)
    | apply rfl
    | (with_reducible refine Kept.by' (by with_reducible assumption) ?_ ?_)
    | split
theorem queueFlush_k (s : State) (a1) : Kept [.regs, .ev, .ch, .net, .land, .rm, .out] s (queueFlush s a1).1 := by
  unfold queueFlush
  try dsimp -proj only
  repeat' first
    | with_reducible assumption
    | with_reducible apply Kept.refl
    | with_reducible apply Kept.ite
    | with_reducible apply Kept.ite1
    | with_reducible apply Kept.by' (queueDrop_k _ _ _)
    | with_reducible apply Kept.foldl
    | with_reducible apply Kept.foldl1
    | (intro _; intros)
    | dsimp only
    | apply rfl
    | (with_reducible refine Kept.by' (by with_reducible assumption) ?_ ?_)
    | split
theorem portFlush_k (s : State) (a1) : Kept [.regs, .ev, .ch, .net, .land, .rm, .out] s (portFlush s a1) := by
  unfold portFlush
  try dsimp -proj only
  repeat' first
    | with_reducible assumption
    | with_reducible apply Kept.refl
    | with_reducible apply Kept.ite
    | with_reducible apply Kept.ite1
    | with_reducible apply Kept.ite2
    | with_reducible apply Kept.by' (queueFlush_k _ _)
    | with_reducible apply Kept.by' (Kept.eq1 (queueFlush_k _ _) (by assumption))
    | with_reducible apply Kept.by' (portCnt_k _ _ _ _)
    | with_reducible apply Kept.foldl
    | with_reducible apply Kept.foldl1
    | (intro _; intros)
    | apply rfl
    | (with_reducible refine Kept.by' (by with_reducible assumption) ?_ ?_)
    | split
theorem flushDown_k (s : State) (a1) : Kept [.regs, .ev, .ch, .net, .land, .rm, .out] s (flushDown s a1) := by
  unfold flushDown
  try dsimp -proj only
  repeat' first
    | with_reducible assumption
    | with_reducible apply Kept.refl
    | with_reducible apply Kept.ite
    | with_reducible apply Kept.by' (portFlush_k _ _)
    | apply rfl
    | (with_reducible refine Kept.by' (by with_reducible assumption) ?_ ?_)
    | split
theorem nodeApplyCmd_k (s : State) : Kept [.regs, .time, .ev, .ch, .net, .land, .rm, .out] s (nodeApplyCmd s) := by
  unfold nodeApplyCmd
  try dsimp -proj only
  repeat' first
    | with_reducible assumption
    | with_reducible apply Kept.refl
    | with_reducible apply Kept.ite
    | with_reducible apply Kept.ite1
    | with_reducible apply Kept.ite2
    | with_reducible apply Kept.by' (nodeUpd_k _ _ _ _)
    | with_reducible apply Kept.by' (portFlush_k _ _)
    | with_reducible apply Kept.by' (flushDown_k _ _)
    | with_reducible apply Kept.by' (turnSettle_k _ _)
    | with_reducible apply Kept.by' (nodeRefuse_k _ _)
    | with_reducible apply Kept.foldl
    | with_reducible apply Kept.foldl1
    | (intro _; intros)
    | dsimp only
    | apply rfl
    | (with_reducible refine Kept.by' (by with_reducible assumption) ?_ ?_)
    | split
    | with_reducible apply Kept.set_land
theorem nodeFlushCmd_k (s : State) : Kept [.regs, .ev, .ch, .net, .land, .rm, .out] s (nodeFlushCmd s) := by
  unfold nodeFlushCmd
  try dsimp -proj only
  repeat' first
    | with_reducible assumption
    | with_reducible apply Kept.refl
    | with_reducible apply Kept.ite
    | with_reducible apply Kept.ite1
    | with_reducible apply Kept.ite2
    | with_reducible apply Kept.by' (nodeRefuse_k _ _)
    | with_reducible apply Kept.by' (queueFlush_k _ _)
    | with_reducible apply Kept.by' (Kept.eq1 (queueFlush_k _ _) (by assumption))
    | with_reducible apply Kept.by' (nodeTally_k _ _ _)
    | apply rfl
    | (with_reducible refine Kept.by' (by with_reducible assumption) ?_ ?_)
    | split
theorem nodeCmdWrite_k (s : State) (a1) : Kept [.regs, .time, .ev, .ch, .net, .land, .rm, .out] s (nodeCmdWrite s a1) := by
  unfold nodeCmdWrite
  try dsimp -proj only
  repeat' first
    | with_reducible assumption
    | with_reducible apply Kept.refl
    | with_reducible apply Kept.ite
    | with_reducible apply Kept.by' (wrF_k _ _ _ _ _)
    | with_reducible apply Kept.by' (nodeApplyCmd_k _)
    | with_reducible apply Kept.by' (nodeFlushCmd_k _)
    | with_reducible apply Kept.by' (nodeClrCmd_k _)
    | dsimp only
    | apply rfl
    | (with_reducible refine Kept.by' (by with_reducible assumption) ?_ ?_)
    | split
theorem scEffect_k (s : State) (a1) (a2) : Kept [.regs, .time, .ev, .ch, .net, .land, .rm, .out, .draws] s (scEffect s a1 a2) := by
  unfold scEffect
  try dsimp -proj only
  repeat' first
    | with_reducible assumption
    | with_reducible apply Kept.refl
    | with_reducible apply Kept.ite
    | with_reducible apply Kept.by' (nodeSelWrite_k _ _)
    | with_reducible apply Kept.by' (nodeCmdWrite_k _ _)
    | with_reducible apply Kept.by' (regStore_k _ _ _)
    | apply rfl
    | (with_reducible refine Kept.by' (by with_reducible assumption) ?_ ?_)
    | split
theorem setPortState_k (s : State) (a1) (a2) : Kept [.regs, .ev, .ch, .net, .land, .rm, .out] s (setPortState s a1 a2) := by
  unfold setPortState
  try dsimp -proj only
  repeat' first
    | with_reducible assumption
    | with_reducible apply Kept.refl
    | with_reducible apply Kept.ite
    | with_reducible apply Kept.by' (wrF_k _ _ _ _ _)
    | with_reducible apply Kept.by' (pauseUpdate_k _ _)
    | with_reducible apply Kept.by' (portUpd_k _ _ _)
    | with_reducible apply Kept.by' (portCnt_k _ _ _ _)
    | with_reducible apply Kept.by' (raise_k _ _ _)
    | with_reducible apply Kept.by' (lineFollow_k _ _)
    | with_reducible apply Kept.by' (portFlush_k _ _)
    | with_reducible apply Kept.foldl
    | with_reducible apply Kept.foldl1
    | (intro _; intros)
    | apply rfl
    | (with_reducible refine Kept.by' (by with_reducible assumption) ?_ ?_)
    | split
theorem portStart_k (s : State) (a1) : Kept [.regs, .ev, .ch, .net, .land, .rm, .out] s (portStart s a1) := by
  unfold portStart
  try dsimp -proj only
  repeat' first
    | with_reducible assumption
    | with_reducible apply Kept.refl
    | with_reducible apply Kept.ite
    | with_reducible apply Kept.by' (portUpd_k _ _ _)
    | with_reducible apply Kept.by' (setPortState_k _ _ _)
    | apply rfl
    | (with_reducible refine Kept.by' (by with_reducible assumption) ?_ ?_)
    | split
theorem portCtlWrite_k (s : State) (a1) (a2) : Kept [.regs, .ev, .ch, .net, .land, .rm, .out] s (portCtlWrite s a1 a2) := by
  unfold portCtlWrite
  try dsimp -proj only
  repeat' first
    | with_reducible assumption
    | with_reducible apply Kept.refl
    | with_reducible apply Kept.ite
    | with_reducible apply Kept.by' (plainWrite_k _ _ _ _)
    | with_reducible apply Kept.by' (lineFollow_k _ _)
    | with_reducible apply Kept.by' (flowRecheck_k _ _)
    | with_reducible apply Kept.by' (portFlush_k _ _)
    | with_reducible apply Kept.by' (setPortState_k _ _ _)
    | with_reducible apply Kept.by' (portStart_k _ _)
    | dsimp only
    | apply rfl
    | (with_reducible refine Kept.by' (by with_reducible assumption) ?_ ?_)
    | split
theorem enEffect_k (s : State) (a1) (a2) (a3) (a4) (a5) : Kept [.regs, .ev, .ch, .net, .land, .rm, .out] s (enEffect s a1 a2 a3 a4 a5) := by
  unfold enEffect
  try dsimp -proj only
  repeat' first
    | with_reducible assumption
    | with_reducible apply Kept.refl
    | with_reducible apply Kept.ite
    | with_reducible apply Kept.by' (pgCtlWrite_k _ _ _ _)
    | with_reducible apply Kept.by' (rclkWrite_k _ _ _)
    | with_reducible apply Kept.by' (portCtlWrite_k _ _ _)
    | with_reducible apply Kept.by' (flowRecheck_k _ _)
    | with_reducible apply Kept.by' (regStore_k _ _ _)
    | apply rfl
    | (with_reducible refine Kept.by' (by with_reducible assumption) ?_ ?_)
    | split
theorem ucLoad_k (s : State) (a1) (a2) (a3) (a4) (a5) (a6) (a7) : Kept [.regs, .stairs, .golden] s (ucLoad s a1 a2 a3 a4 a5 a6 a7) := by
  unfold ucLoad
  try dsimp -proj only
  repeat' first
    | with_reducible assumption
    | with_reducible apply Kept.refl
    | with_reducible apply Kept.ite
    | with_reducible apply Kept.by' (stairUpd_k _ _ _)
    | with_reducible apply Kept.by' (ucErr_k _ _ _ _ _)
    | with_reducible apply Kept.by' (ucInc_k _ _ _ _)
    | with_reducible apply Kept.foldl
    | with_reducible apply Kept.foldl1
    | (intro _; intros)
    | with_reducible apply Kept.getD
    | dsimp only
    | apply rfl
    | (with_reducible refine Kept.by' (by with_reducible assumption) ?_ ?_)
    | split
    | with_reducible apply Kept.set_golden
theorem stepCtlWrite_k (s : State) (a1) (a2) (a3) (a4) : Kept [.regs, .stairs, .golden] s (stepCtlWrite s a1 a2 a3 a4) := by
  unfold stepCtlWrite
  try dsimp -proj only
  repeat' first
    | with_reducible assumption
    | with_reducible apply Kept.refl
    | with_reducible apply Kept.ite
    | with_reducible apply Kept.by' (ucLoad_k _ _ _ _ _ _ _ _)
    | apply rfl
    | (with_reducible refine Kept.by' (by with_reducible assumption) ?_ ?_)
    | split
theorem ucDataWrite_k (s : State) (a1) (a2) (a3) (a4) : Kept [.regs, .stairs, .golden] s (ucDataWrite s a1 a2 a3 a4) := by
  unfold ucDataWrite
  try dsimp -proj only
  repeat' first
    | with_reducible assumption
    | with_reducible apply Kept.refl
    | with_reducible apply Kept.ite
    | with_reducible apply Kept.by' (ucLoad_k _ _ _ _ _ _ _ _)
    | apply rfl
    | (with_reducible refine Kept.by' (by with_reducible assumption) ?_ ?_)
    | split
theorem ucCmdWrite_k (s : State) (a1) (a2) (a3) (a4) : Kept [.regs, .stairs, .golden] s (ucCmdWrite s a1 a2 a3 a4) := by
  unfold ucCmdWrite
  try dsimp -proj only
  repeat' first
    | with_reducible assumption
    | with_reducible apply Kept.refl
    | with_reducible apply Kept.ite
    | with_reducible apply Kept.by' (ucErr_k _ _ _ _ _)
    | with_reducible apply Kept.by' (ucLoad_k _ _ _ _ _ _ _ _)
    | with_reducible apply Kept.by' (ucInc_k _ _ _ _)
    | with_reducible apply Kept.by' (wrN_k _ _ _)
    | with_reducible apply Kept.foldl
    | with_reducible apply Kept.foldl1
    | (intro _; intros)
    | apply rfl
    | (with_reducible refine Kept.by' (by with_reducible assumption) ?_ ?_)
    | split
theorem stepEffect_k (s : State) (a1) (a2) (a3) (a4) (a5) (a6) : Kept [.regs, .stairs, .golden] s (stepEffect s a1 a2 a3 a4 a5 a6) := by
  unfold stepEffect
  try dsimp -proj only
  repeat' first
    | with_reducible assumption
    | with_reducible apply Kept.refl
    | with_reducible apply Kept.ite
    | with_reducible apply Kept.by' (stepCtlWrite_k _ _ _ _ _)
    | with_reducible apply Kept.by' (ucDataWrite_k _ _ _ _ _)
    | with_reducible apply Kept.by' (ucCmdWrite_k _ _ _ _ _)
    | with_reducible apply Kept.by' (regStore_k _ _ _)
    | apply rfl
    | (with_reducible refine Kept.by' (by with_reducible assumption) ?_ ?_)
    | split
theorem parseCmdWrite_k (s : State) (a1) (a2) : Kept [.regs, .stairs, .golden] s (parseCmdWrite s a1 a2) := by
  unfold parseCmdWrite
  try dsimp -proj only
  repeat' first
    | with_reducible assumption
    | with_reducible apply Kept.refl
    | with_reducible apply Kept.ite
    | with_reducible apply Kept.by' (wrN_k _ _ _)
    | with_reducible apply Kept.by' (wrF_k _ _ _ _ _)
    | with_reducible apply Kept.by' (plainWrite_k _ _ _ _)
    | with_reducible apply Kept.by' (parseErr_k _ _ _)
    | with_reducible apply Kept.by' (parsePut_k _ _ _ _)
    | with_reducible apply Kept.foldl
    | with_reducible apply Kept.foldl1
    | (intro _; intros)
    | with_reducible apply Kept.getD
    | dsimp only
    | apply rfl
    | (with_reducible refine Kept.by' (by with_reducible assumption) ?_ ?_)
    | split
    | with_reducible apply Kept.set_golden
theorem unpark_k (s : State) (a1) (a2) : Kept [.land] s (unpark s a1 a2) := by
  unfold unpark
  try dsimp -proj only
  repeat' first
    | with_reducible assumption
    | with_reducible apply Kept.refl
    | with_reducible apply Kept.ite
    | with_reducible apply Kept.by' (entryUpd_k _ _ _ _)
    | with_reducible apply Kept.foldl
    | with_reducible apply Kept.foldl1
    | (intro _; intros)
    | dsimp only
    | apply rfl
    | (with_reducible refine Kept.by' (by with_reducible assumption) ?_ ?_)
    | split
    | with_reducible apply Kept.set_land
theorem tblFull_k (s : State) (a1) (a2) : Kept [.regs, .ev] s (tblFull s a1 a2) := by
  unfold tblFull
  try dsimp -proj only
  repeat' first
    | with_reducible assumption
    | with_reducible apply Kept.refl
    | with_reducible apply Kept.ite
    | with_reducible apply Kept.by' (raiseLim_k _ _ _ _ _)
    | apply rfl
    | (with_reducible refine Kept.by' (by with_reducible assumption) ?_ ?_)
    | split
theorem addEntry_k (s : State) (a1) (a2) (a3) : Kept [.regs, .ev, .stairs, .lpm] s (addEntry s a1 a2 a3).1 := by
  unfold addEntry
  try dsimp -proj only
  repeat' first
    | with_reducible assumption
    | with_reducible apply Kept.refl
    | with_reducible apply Kept.ite
    | with_reducible apply Kept.ite1
    | with_reducible apply Kept.by' (bump_k _ _ _)
    | with_reducible apply Kept.by' (cmdEntries_k _ _ _ _ _)
    | with_reducible apply Kept.by' (tblFull_k _ _ _)
    | dsimp only
    | apply rfl
    | (with_reducible refine Kept.by' (by with_reducible assumption) ?_ ?_)
    | split
    | with_reducible apply Kept.set_lpm
theorem cmdClear_k (s : State) (a1) (a2) : Kept [.regs, .stairs, .lpm, .land] s (cmdClear s a1 a2).1 := by
  unfold cmdClear
  try dsimp -proj only
  repeat' first
    | with_reducible assumption
    | with_reducible apply Kept.refl
    | with_reducible apply Kept.ite
    | with_reducible apply Kept.ite1
    | with_reducible apply Kept.ite2
    | with_reducible apply Kept.by' (cmdEntries_k _ _ _ _ _)
    | with_reducible apply Kept.by' (unpark_k _ _ _)
    | (intro _; intros)
    | dsimp only
    | apply rfl
    | (with_reducible refine Kept.by' (by with_reducible assumption) ?_ ?_)
    | split
    | with_reducible apply Kept.set_lpm
theorem newPortHandle_k (s : State) : Kept [.ch, .draws] s (newPortHandle s).2 := by
  unfold newPortHandle
  try dsimp -proj only
  repeat' first
    | with_reducible assumption
    | with_reducible apply Kept.refl
    | with_reducible apply Kept.ite
    | with_reducible apply Kept.ite1
    | with_reducible apply Kept.ite2
    | with_reducible apply Kept.by' (allocIndex_k _ _ _ _)
    | with_reducible apply Kept.by' (Kept.eq2 (allocIndex_k _ _ _ _) (by assumption))
    | dsimp only
    | apply rfl
    | (with_reducible refine Kept.by' (by with_reducible assumption) ?_ ?_)
    | split
    | with_reducible apply Kept.set_ch
    | with_reducible apply Kept.set_draws
    | (refine Kept.of ⟨fun p hp => ?_⟩ rfl rfl rfl (congrArg AccSt.own rfl); cases p <;> first | rfl | cases hp)
theorem portApply_k (s : State) (a1) : Kept [.regs, .ch, .tils, .draws] s (portApply s a1) := by
  unfold portApply
  try dsimp -proj only
  repeat' first
    | with_reducible assumption
    | with_reducible apply Kept.refl
    | with_reducible apply Kept.ite
    | with_reducible apply Kept.by' (wrF_k _ _ _ _ _)
    | with_reducible apply Kept.by' (unbindPort_k _ _ _)
    | with_reducible apply Kept.by' (loadPort_k _ _)
    | with_reducible apply Kept.by' (newPortHandle_k _)
    | with_reducible apply Kept.by' (Kept.eq2 (newPortHandle_k _) (by assumption))
    | with_reducible apply Kept.by' (tportSet_k _ _ _ _)
    | apply rfl
    | (with_reducible refine Kept.by' (by with_reducible assumption) ?_ ?_)
    | split
theorem portCmdWrite_k (s : State) (a1) (a2) : Kept [.regs, .ch, .tils, .draws] s (portCmdWrite s a1 a2) := by
  unfold portCmdWrite
  try dsimp -proj only
  repeat' first
    | with_reducible assumption
    | with_reducible apply Kept.refl
    | with_reducible apply Kept.ite
    | with_reducible apply Kept.by' (wrF_k _ _ _ _ _)
    | with_reducible apply Kept.by' (portApply_k _ _)
    | apply rfl
    | (with_reducible refine Kept.by' (by with_reducible assumption) ?_ ?_)
    | split
theorem tilEffect_k (s : State) (a1) (a2) (a3) (a4) (a5) : Kept [.regs, .acc, .ev, .mem, .ch, .tils, .out, .draws] s (tilEffect s a1 a2 a3 a4 a5) := by
  unfold tilEffect
  try dsimp -proj only
  repeat' first
    | with_reducible assumption
    | with_reducible apply Kept.refl
    | with_reducible apply Kept.ite
    | with_reducible apply Kept.by' (thCtlWrite_k _ _ _ _)
    | with_reducible apply Kept.by' (thContextWrite_k _ _ _ _ _ _)
    | with_reducible apply Kept.by' (thGroupWrite_k _ _ _ _ _)
    | with_reducible apply Kept.by' (thWakeWrite_k _ _ _ _ _)
    | with_reducible apply Kept.by' (regStore_k _ _ _)
    | with_reducible apply Kept.by' (dbgCmdWrite_k _ _ _ _ _)
    | with_reducible apply Kept.by' (portSelWrite_k _ _ _)
    | with_reducible apply Kept.by' (portCmdWrite_k _ _ _)
    | apply rfl
    | (with_reducible refine Kept.by' (by with_reducible assumption) ?_ ?_)
    | split
theorem gmEffect_k (s : State) (a1) (a2) (a3) : Kept [.regs, .ev, .ch, .net, .land, .rm, .out, .draws] s (gmEffect s a1 a2 a3) := by
  unfold gmEffect
  try dsimp -proj only
  repeat' first
    | with_reducible assumption
    | with_reducible apply Kept.refl
    | with_reducible apply Kept.ite
    | with_reducible apply Kept.ite1
    | with_reducible apply Kept.ite2
    | with_reducible apply Kept.by' (draw_k _)
    | with_reducible apply Kept.by' (Kept.eq2 (draw_k _) (by assumption))
    | with_reducible apply Kept.by' (gmCmdWrite_k _ _ _ _)
    | with_reducible apply Kept.by' (regStore_k _ _ _)
    | apply rfl
    | (with_reducible refine Kept.by' (by with_reducible assumption) ?_ ?_)
    | split
theorem readsCut_k (s : State) (a1) (a2) : Kept [.regs, .host, .out] s (readsCut s a1 a2) := by
  unfold readsCut
  try dsimp -proj only
  repeat' first
    | with_reducible assumption
    | with_reducible apply Kept.refl
    | with_reducible apply Kept.ite
    | with_reducible apply Kept.ite1
    | with_reducible apply Kept.ite2
    | with_reducible apply Kept.by' (peerAnswer_k _ _ _ _ _ _)
    | with_reducible apply Kept.foldl
    | with_reducible apply Kept.foldl1
    | (intro _; intros)
    | exact fun h => aset_rising _ _ h
    | exact fun h => filter_rising _ h
    | exact fun h => h
    | apply rfl
    | (with_reducible refine Kept.by' (by with_reducible assumption) ?_ ?_)
    | split
    | with_reducible apply Kept.set_regs
    | with_reducible apply Kept.set_host
    | with_reducible apply Kept.set_out
    | (refine Kept.of ⟨fun p hp => ?_⟩ rfl rfl rfl (congrArg AccSt.own rfl); cases p <;> first | rfl | cases hp)
theorem mapUnit_k (s : State) (a1) (a2) : Kept [.mem, .sv] s (mapUnit s a1 a2) := by
  unfold mapUnit
  try dsimp -proj only
  repeat' first
    | with_reducible assumption
    | with_reducible apply Kept.refl
    | with_reducible apply Kept.ite
    | with_reducible apply Kept.by' (nsUpd_k _ _ _)
    | with_reducible apply Kept.by' (store_k _ _ _)
    | with_reducible apply Kept.foldl
    | with_reducible apply Kept.foldl1
    | (intro _; intros)
    | exact fun h => memPuts_wf h
    | exact fun h => memClear_wf h
    | exact memPuts_wf (by assumption)
    | exact memClear_wf (by assumption)
    | exact fun h => filter_wf _ h
    | exact fun h => h
    | apply rfl
    | (with_reducible refine Kept.by' (by with_reducible assumption) ?_ ?_)
    | split
    | with_reducible apply Kept.set_mem
    | with_reducible apply Kept.set_sv
    | (refine Kept.of ⟨fun p hp => ?_⟩ rfl rfl rfl (congrArg AccSt.own rfl); cases p <;> first | rfl | cases hp)
theorem nsWrite_k (s : State) (a1) (a2) (a3) (a4) : Kept [.mem, .sv] s (nsWrite s a1 a2 a3 a4) := by
  unfold nsWrite
  try dsimp -proj only
  repeat' first
    | with_reducible assumption
    | with_reducible apply Kept.refl
    | with_reducible apply Kept.ite
    | with_reducible apply Kept.by' (mapUnit_k _ _ _)
    | with_reducible apply Kept.by' (store_k _ _ _)
    | with_reducible apply Kept.foldl
    | with_reducible apply Kept.foldl1
    | (intro _; intros)
    | apply rfl
    | (with_reducible refine Kept.by' (by with_reducible assumption) ?_ ?_)
    | split
theorem poolApply_k (s : State) (a1) (a2) (a3) : Kept [.mem, .sv] s (poolApply s a1 a2 a3) := by
  unfold poolApply
  try dsimp -proj only
  repeat' first
    | with_reducible assumption
    | with_reducible apply Kept.refl
    | with_reducible apply Kept.ite
    | with_reducible apply Kept.ite1
    | with_reducible apply Kept.ite2
    | with_reducible apply Kept.by' (nsWrite_k _ _ _ _ _)
    | with_reducible apply Kept.by' (deacApply_k _ _ _ _ _)
    | with_reducible apply Kept.by' (dsmApply_k _ _ _ _)
    | apply rfl
    | (with_reducible refine Kept.by' (by with_reducible assumption) ?_ ?_)
    | split
theorem writeMaybe_k (s : State) (a1) (a2) : Kept [.mem, .sv, .draws] s (writeMaybe s a1 a2) := by
  unfold writeMaybe
  try dsimp -proj only
  repeat' first
    | with_reducible assumption
    | with_reducible apply Kept.refl
    | with_reducible apply Kept.ite
    | with_reducible apply Kept.ite1
    | with_reducible apply Kept.ite2
    | with_reducible apply Kept.by' (draw_k _)
    | with_reducible apply Kept.by' (Kept.eq2 (draw_k _) (by assumption))
    | with_reducible apply Kept.by' (nsWrite_k _ _ _ _ _)
    | apply rfl
    | (with_reducible refine Kept.by' (by with_reducible assumption) ?_ ?_)
    | split
theorem lateFiring_k (s : State) : Kept [.regs, .ev] s (lateFiring s) := by
  unfold lateFiring
  try dsimp -proj only
  repeat' first
    | with_reducible assumption
    | with_reducible apply Kept.refl
    | with_reducible apply Kept.ite
    | with_reducible apply Kept.by' (raiseLim_k _ _ _ _ _)
    | with_reducible apply Kept.by' (bump_k _ _ _)
    | apply rfl
    | (with_reducible refine Kept.by' (by with_reducible assumption) ?_ ?_)
    | split
theorem qpUnpark_k (s : State) (a1) : Kept [.land] s (qpUnpark s a1) := by
  unfold qpUnpark
  try dsimp -proj only
  repeat' first
    | with_reducible assumption
    | with_reducible apply Kept.refl
    | with_reducible apply Kept.ite
    | with_reducible apply Kept.by' (unpark_k _ _ _)
    | apply rfl
    | (with_reducible refine Kept.by' (by with_reducible assumption) ?_ ?_)
    | split
theorem enterWire_k (s : State) (a1) (a2) : Kept [.regs, .ev, .land] s (enterWire s a1 a2) := by
  unfold enterWire
  try dsimp -proj only
  repeat' first
    | with_reducible assumption
    | with_reducible apply Kept.refl
    | with_reducible apply Kept.ite
    | with_reducible apply Kept.by' (bump_k _ _ _)
    | with_reducible apply Kept.by' (freeGrains_k _ _)
    | with_reducible apply Kept.by' (entryUpd_k _ _ _ _)
    | apply rfl
    | (with_reducible refine Kept.by' (by with_reducible assumption) ?_ ?_)
    | split
theorem fifoRead_k (s : State) (a1) (a2) : Kept [.acc, .net] s (fifoRead s a1 a2).1 := by
  unfold fifoRead
  try dsimp -proj only
  repeat' first
    | with_reducible assumption
    | with_reducible apply Kept.refl
    | with_reducible apply Kept.ite
    | with_reducible apply Kept.ite1
    | with_reducible apply Kept.by' (portUpd_k _ _ _)
    | dsimp only
    | apply rfl
    | (with_reducible refine Kept.by' (by with_reducible assumption) ?_ ?_)
    | split
    | with_reducible apply Kept.set_acc
    | exact fun h => h
    | exact fun _ => rfl
    | assumption
    | with_reducible apply Kept.set_net
    | (refine Kept.of ⟨fun p hp => ?_⟩ rfl rfl rfl (congrArg AccSt.own rfl); cases p <;> first | rfl | cases hp)
theorem busRead_k (s : State) (a1) (a2) : Kept [.regs, .acc, .host, .net] s (busRead s a1 a2).1 := by
  unfold busRead
  try dsimp -proj only
  repeat' first
    | with_reducible assumption
    | with_reducible apply Kept.refl
    | with_reducible apply Kept.ite
    | with_reducible apply Kept.ite1
    | with_reducible apply Kept.ite2
    | with_reducible apply Kept.by' (fifoRead_k _ _ _)
    | with_reducible apply Kept.by' (Kept.eq1 (fifoRead_k _ _ _) (by assumption))
    | with_reducible apply Kept.by' (regRead_k _ _ _)
    | with_reducible apply Kept.by' (Kept.eq1 (regRead_k _ _ _) (by assumption))
    | with_reducible apply Kept.by' (snapRead_k _ _ _)
    | with_reducible apply Kept.by' (Kept.eq1 (snapRead_k _ _ _) (by assumption))
    | dsimp only
    | apply rfl
    | (with_reducible refine Kept.by' (by with_reducible assumption) ?_ ?_)
    | split
theorem readRow_k (s : State) (a1) (a2) : Kept [.regs, .acc, .host, .net, .out] s (readRow s a1 a2) := by
  unfold readRow
  try dsimp -proj only
  repeat' first
    | with_reducible assumption
    | with_reducible apply Kept.refl
    | with_reducible apply Kept.ite
    | with_reducible apply Kept.ite1
    | with_reducible apply Kept.ite2
    | with_reducible apply Kept.by' (emit_k _ _)
    | with_reducible apply Kept.by' (notReached_k _ _)
    | with_reducible apply Kept.by' (busRead_k _ _ _)
    | with_reducible apply Kept.by' (Kept.eq1 (busRead_k _ _ _) (by assumption))
    | dsimp only
    | apply rfl
    | (with_reducible refine Kept.by' (by with_reducible assumption) ?_ ?_)
    | split
theorem grmtEnter_k (s : State) (a1) (a2) (a3) (a4) (a5) (a6) (a7) (a8) (a9) : Kept [.regs, .ev, .ch, .land] s (grmtEnter s a1 a2 a3 a4 a5 a6 a7 a8 a9) := by
  unfold grmtEnter
  try dsimp -proj only
  repeat' first
    | with_reducible assumption
    | with_reducible apply Kept.refl
    | with_reducible apply Kept.ite
    | with_reducible apply Kept.ite1
    | with_reducible apply Kept.ite2
    | with_reducible apply Kept.by' (newPkt_k _ _ _)
    | with_reducible apply Kept.by' (Kept.eq1 (newPkt_k _ _ _) (by assumption))
    | with_reducible apply Kept.by' (takeGrains_k _ _)
    | with_reducible apply Kept.by' (enterOther_k _ _ _ _)
    | apply rfl
    | (with_reducible refine Kept.by' (by with_reducible assumption) ?_ ?_)
    | split
theorem arrive_k (s : State) (a1) (a2) : Kept [.regs, .ev, .land] s (arrive s a1 a2) := by
  unfold arrive
  try dsimp -proj only
  repeat' first
    | with_reducible assumption
    | with_reducible apply Kept.refl
    | with_reducible apply Kept.ite
    | with_reducible apply Kept.ite1
    | with_reducible apply Kept.ite2
    | with_reducible apply Kept.by' (bump_k _ _ _)
    | with_reducible apply Kept.by' (raiseLim_k _ _ _ _ _)
    | with_reducible apply Kept.by' (takeGrains_k _ _)
    | with_reducible apply Kept.by' (enterWire_k _ _ _)
    | with_reducible apply Kept.by' (newPkt_k _ _ _)
    | with_reducible apply Kept.by' (Kept.eq1 (newPkt_k _ _ _) (by assumption))
    | dsimp only
    | apply rfl
    | (with_reducible refine Kept.by' (by with_reducible assumption) ?_ ?_)
    | split
theorem tmDrop_k (s : State) (a1) : Kept [.regs, .ev, .tm] s (tmDrop s a1) := by
  unfold tmDrop
  try dsimp -proj only
  repeat' first
    | with_reducible assumption
    | with_reducible apply Kept.refl
    | with_reducible apply Kept.ite
    | with_reducible apply Kept.by' (raiseLim_k _ _ _ _ _)
    | with_reducible apply Kept.by' (bump_k _ _ _)
    | exact fun h => aset_rising _ _ h
    | exact fun h => filter_rising _ h
    | exact fun h => h
    | apply rfl
    | (with_reducible refine Kept.by' (by with_reducible assumption) ?_ ?_)
    | split
    | with_reducible apply Kept.set_regs
    | with_reducible apply Kept.set_ev
    | with_reducible apply Kept.set_tm
    | (refine Kept.of ⟨fun p hp => ?_⟩ rfl rfl rfl (congrArg AccSt.own rfl); cases p <;> first | rfl | cases hp)
theorem tmPut_k (s : State) (a1) (a2) (a3) : Kept [.regs, .ev, .mem, .host, .ch, .slices, .tm, .out] s (tmPut s a1 a2 a3).1 := by
  unfold tmPut
  try dsimp -proj only
  repeat' first
    | with_reducible assumption
    | with_reducible apply Kept.refl
    | with_reducible apply Kept.ite
    | with_reducible apply Kept.ite1
    | with_reducible apply Kept.by' (tmPut1_k _ _ _ _)
    | with_reducible apply Kept.by' (tmDrop_k _ _)
    | with_reducible apply Kept.foldl
    | with_reducible apply Kept.foldl1
    | (intro _; intros)
    | dsimp only
    | apply rfl
    | (with_reducible refine Kept.by' (by with_reducible assumption) ?_ ?_)
    | split
theorem twinCompare_k (s : State) (a1) (a2) (a3) (a4) : Kept [.regs, .ev, .mem, .host, .ch, .slices, .tm, .out] s (twinCompare s a1 a2 a3 a4) := by
  unfold twinCompare
  try dsimp -proj only
  repeat' first
    | with_reducible assumption
    | with_reducible apply Kept.refl
    | with_reducible apply Kept.ite
    | with_reducible apply Kept.ite1
    | with_reducible apply Kept.ite2
    | with_reducible apply Kept.by' (bump64_k _ _ _)
    | with_reducible apply Kept.by' (bump_k _ _ _)
    | with_reducible apply Kept.by' (tmPut_k _ _ _ _)
    | with_reducible apply Kept.by' (Kept.eq1 (tmPut_k _ _ _ _) (by assumption))
    | with_reducible apply Kept.by' (raiseLim_k _ _ _ _ _)
    | apply rfl
    | (with_reducible refine Kept.by' (by with_reducible assumption) ?_ ?_)
    | split
theorem rmIngress_k (s : State) (a1) : Kept [.regs, .ev, .rm] s (rmIngress s a1).1 := by
  unfold rmIngress
  try dsimp -proj only
  repeat' first
    | with_reducible assumption
    | with_reducible apply Kept.refl
    | with_reducible apply Kept.ite
    | with_reducible apply Kept.ite1
    | with_reducible apply Kept.by' (oweAck_k _ _ _ _ _ _)
    | with_reducible apply Kept.by' (raiseLim_k _ _ _ _ _)
    | with_reducible apply Kept.by' (bump_k _ _ _)
    | with_reducible apply Kept.by' (regionRef_k _ _)
    | with_reducible apply Kept.by' (bump64_k _ _ _)
    | dsimp only
    | apply rfl
    | (with_reducible refine Kept.by' (by with_reducible assumption) ?_ ?_)
    | split
theorem resolveIn_k (s : State) (a1) (a2) (a3) (a4) (a5) : Kept [.regs, .ev, .rm] s (resolveIn s a1 a2 a3 a4 a5).1 := by
  unfold resolveIn
  try dsimp -proj only
  repeat' first
    | with_reducible assumption
    | with_reducible apply Kept.refl
    | with_reducible apply Kept.ite
    | with_reducible apply Kept.ite1
    | with_reducible apply Kept.ite2
    | with_reducible apply Kept.by' (bump_k _ _ _)
    | with_reducible apply Kept.by' (bump64_k _ _ _)
    | with_reducible apply Kept.by' (rmIngress_k _ _)
    | with_reducible apply Kept.by' (Kept.eq1 (rmIngress_k _ _) (by assumption))
    | with_reducible apply Kept.by' (dfltAct_k _ _ _ _ _)
    | with_reducible apply Kept.by' (Kept.eq1 (dfltAct_k _ _ _ _ _) (by assumption))
    | (intro _; intros)
    | dsimp only
    | apply rfl
    | (with_reducible refine Kept.by' (by with_reducible assumption) ?_ ?_)
    | split
theorem twinRetire_k (s : State) (a1) : Kept [.regs, .ev, .mem, .host, .ch, .slices, .stairs, .sheaf, .tm, .rm, .out] s (twinRetire s a1) := by
  unfold twinRetire
  try dsimp -proj only
  repeat' first
    | with_reducible assumption
    | with_reducible apply Kept.refl
    | with_reducible apply Kept.ite
    | with_reducible apply Kept.ite2
    | with_reducible apply Kept.by' (setTwins_k _ _ _ _)
    | with_reducible apply Kept.by' (bump_k _ _ _)
    | with_reducible apply Kept.by' (twinCompare_k _ _ _ _ _)
    | with_reducible apply Kept.by' (resolveIn_k _ _ _ _ _ _)
    | with_reducible apply Kept.by' (Kept.eq1 (resolveIn_k _ _ _ _ _ _) (by assumption))
    | exact fun h => aset_rising _ _ h
    | exact fun h => filter_rising _ h
    | exact fun h => h
    | exact fun h => memPuts_wf h
    | exact fun h => memClear_wf h
    | exact memPuts_wf (by assumption)
    | exact memClear_wf (by assumption)
    | exact fun h => filter_wf _ h
    | exact fun h => h
    | apply rfl
    | (with_reducible refine Kept.by' (by with_reducible assumption) ?_ ?_)
    | split
    | with_reducible apply Kept.set_regs
    | with_reducible apply Kept.set_ev
    | with_reducible apply Kept.set_mem
    | with_reducible apply Kept.set_host
    | with_reducible apply Kept.set_ch
    | with_reducible apply Kept.set_slices
    | with_reducible apply Kept.set_stairs
    | with_reducible apply Kept.set_sheaf
    | with_reducible apply Kept.set_tm
    | with_reducible apply Kept.set_rm
    | with_reducible apply Kept.set_out
    | (refine Kept.of ⟨fun p hp => ?_⟩ rfl rfl rfl (congrArg AccSt.own rfl); cases p <;> first | rfl | cases hp)
theorem ledger_k (s : State) (a1) (a2) (a3) (a4) : Kept [.regs, .ev, .mem, .host, .ch, .slices, .stairs, .tm, .out] s (ledger s a1 a2 a3 a4) := by
  unfold ledger
  try dsimp -proj only
  repeat' first
    | with_reducible assumption
    | with_reducible apply Kept.refl
    | with_reducible apply Kept.ite
    | with_reducible apply Kept.by' (flightUpd_k _ _ _ _)
    | with_reducible apply Kept.by' (tmPut_k _ _ _ _)
    | with_reducible apply Kept.by' (Kept.eq1 (tmPut_k _ _ _ _) (by assumption))
    | exact fun h => aset_rising _ _ h
    | exact fun h => filter_rising _ h
    | exact fun h => h
    | exact fun h => memPuts_wf h
    | exact fun h => memClear_wf h
    | exact memPuts_wf (by assumption)
    | exact memClear_wf (by assumption)
    | exact fun h => filter_wf _ h
    | exact fun h => h
    | apply rfl
    | (with_reducible refine Kept.by' (by with_reducible assumption) ?_ ?_)
    | split
    | with_reducible apply Kept.set_regs
    | with_reducible apply Kept.set_ev
    | with_reducible apply Kept.set_mem
    | with_reducible apply Kept.set_host
    | with_reducible apply Kept.set_ch
    | with_reducible apply Kept.set_slices
    | with_reducible apply Kept.set_stairs
    | with_reducible apply Kept.set_tm
    | with_reducible apply Kept.set_out
    | (refine Kept.of ⟨fun p hp => ?_⟩ rfl rfl rfl (congrArg AccSt.own rfl); cases p <;> first | rfl | cases hp)
theorem keepOutcome_k (s : State) (a1) (a2) (a3) (a4) (a5) : Kept [.sheaf] s (keepOutcome s a1 a2 a3 a4 a5) := by
  unfold keepOutcome
  try dsimp -proj only
  repeat' first
    | with_reducible assumption
    | with_reducible apply Kept.refl
    | with_reducible apply Kept.ite
    | apply rfl
    | (with_reducible refine Kept.by' (by with_reducible assumption) ?_ ?_)
    | split
    | with_reducible apply Kept.set_sheaf
    | (refine Kept.of ⟨fun p hp => ?_⟩ rfl rfl rfl (congrArg AccSt.own rfl); cases p <;> first | rfl | cases hp)
theorem endAt_k (s : State) (a1) (a2) : Kept [.regs, .ev, .ch, .land, .rm] s (endAt s a1 a2) := by
  unfold endAt
  try dsimp -proj only
  repeat' first
    | with_reducible assumption
    | with_reducible apply Kept.refl
    | with_reducible apply Kept.ite
    | with_reducible apply Kept.by' (endPkt_k _ _)
    | with_reducible apply Kept.by' (endSent_k _ _)
    | with_reducible apply Kept.by' (begunDec_k _ _)
    | apply rfl
    | (with_reducible refine Kept.by' (by with_reducible assumption) ?_ ?_)
    | split
theorem expirePkt_k (s : State) (a1) (a2) : Kept [.regs, .ev, .ch, .sheaf, .land, .rm] s (expirePkt s a1 a2) := by
  unfold expirePkt
  try dsimp -proj only
  repeat' first
    | with_reducible assumption
    | with_reducible apply Kept.refl
    | with_reducible apply Kept.ite
    | with_reducible apply Kept.by' (bump_k _ _ _)
    | with_reducible apply Kept.by' (endAt_k _ _ _)
    | dsimp only
    | apply rfl
    | (with_reducible refine Kept.by' (by with_reducible assumption) ?_ ?_)
    | split
    | with_reducible apply Kept.set_sheaf
theorem hallRefuse_k (s : State) (a1) (a2) (a3) (a4) : Kept [.regs, .ev, .ch, .land, .rm] s (hallRefuse s a1 a2 a3 a4) := by
  unfold hallRefuse
  try dsimp -proj only
  repeat' first
    | with_reducible assumption
    | with_reducible apply Kept.refl
    | with_reducible apply Kept.ite
    | with_reducible apply Kept.by' (raiseLim_k _ _ _ _ _)
    | with_reducible apply Kept.by' (bump_k _ _ _)
    | with_reducible apply Kept.by' (endAt_k _ _ _)
    | apply rfl
    | (with_reducible refine Kept.by' (by with_reducible assumption) ?_ ?_)
    | split
theorem parkPkt_k (s : State) (a1) (a2) (a3) (a4) (a5) : Kept [.regs, .ev, .ch, .sheaf, .land, .rm] s (parkPkt s a1 a2 a3 a4 a5).1 := by
  unfold parkPkt
  try dsimp -proj only
  repeat' first
    | with_reducible assumption
    | with_reducible apply Kept.refl
    | with_reducible apply Kept.ite
    | with_reducible apply Kept.ite1
    | with_reducible apply Kept.by' (bump_k _ _ _)
    | with_reducible apply Kept.by' (hallPut_k _ _ _ _ _)
    | with_reducible apply Kept.by' (expirePkt_k _ _ _)
    | with_reducible apply Kept.by' (hallRefuse_k _ _ _ _ _)
    | dsimp only
    | apply rfl
    | (with_reducible refine Kept.by' (by with_reducible assumption) ?_ ?_)
    | split
theorem retireGone_k (s : State) (a1) (a2) (a3) (a4) : Kept [.regs, .ev, .ch, .sheaf, .land, .rm] s (retireGone s a1 a2 a3 a4).1 := by
  unfold retireGone
  try dsimp -proj only
  repeat' first
    | with_reducible assumption
    | with_reducible apply Kept.refl
    | with_reducible apply Kept.ite
    | with_reducible apply Kept.ite1
    | with_reducible apply Kept.by' (entryUpd_k _ _ _ _)
    | with_reducible apply Kept.by' (expirePkt_k _ _ _)
    | with_reducible apply Kept.by' (parkPkt_k _ _ _ _ _ _)
    | with_reducible apply Kept.by' (Kept.eq1 (parkPkt_k _ _ _ _ _ _) (by assumption))
    | (intro _; intros)
    | dsimp only
    | apply rfl
    | (with_reducible refine Kept.by' (by with_reducible assumption) ?_ ?_)
    | split
theorem fmtCount_k (s : State) (a1) : Kept [.regs, .ev] s (fmtCount s a1) := by
  unfold fmtCount
  try dsimp -proj only
  repeat' first
    | with_reducible assumption
    | with_reducible apply Kept.refl
    | with_reducible apply Kept.ite
    | with_reducible apply Kept.by' (bump_k _ _ _)
    | with_reducible apply Kept.by' (raiseLim_k _ _ _ _ _)
    | dsimp only
    | apply rfl
    | (with_reducible refine Kept.by' (by with_reducible assumption) ?_ ?_)
    | split
theorem admitTo_k (s : State) (a1) (a2) (a3) (a4) : Kept [.regs, .ev, .ch, .net, .land, .out] s (admitTo s a1 a2 a3 a4) := by
  unfold admitTo
  try dsimp -proj only
  repeat' first
    | with_reducible assumption
    | with_reducible apply Kept.refl
    | with_reducible apply Kept.ite
    | with_reducible apply Kept.ite1
    | with_reducible apply Kept.by' (regAdd_k _ _ _)
    | with_reducible apply Kept.by' (regSub_k _ _ _)
    | with_reducible apply Kept.by' (txIngress_k _ _ _)
    | with_reducible apply Kept.by' (nodeSet_k _ _ _ _)
    | with_reducible apply Kept.by' (nodeUpd_k _ _ _ _)
    | with_reducible apply Kept.by' (nodeTally_k _ _ _)
    | with_reducible apply Kept.by' (pairCheck_k _ _ _)
    | with_reducible apply Kept.by' (setUse_k _ _ _)
    | with_reducible apply Kept.by' (ecnAdmit_k _ _ _)
    | with_reducible apply Kept.by' (Kept.eq1 (ecnAdmit_k _ _ _) (by assumption))
    | with_reducible apply Kept.by' (noBuf_k _ _)
    | (intro _; intros)
    | with_reducible apply Kept.getD
    | dsimp only
    | apply rfl
    | (with_reducible refine Kept.by' (by with_reducible assumption) ?_ ?_)
    | split
    | with_reducible apply Kept.set_land
theorem admitPkt_k (s : State) (a1) : Kept [.regs, .time, .ev, .ch, .net, .land, .rm, .out] s (admitPkt s a1) := by
  unfold admitPkt
  try dsimp -proj only
  repeat' first
    | with_reducible assumption
    | with_reducible apply Kept.refl
    | with_reducible apply Kept.ite
    | with_reducible apply Kept.by' (refuse_k _ _ _ _)
    | with_reducible apply Kept.by' (admitTo_k _ _ _ _ _)
    | with_reducible apply Kept.by' (flushDown_k _ _)
    | with_reducible apply Kept.by' (turnSettle_k _ _)
    | with_reducible apply Kept.getD
    | dsimp only
    | apply rfl
    | (with_reducible refine Kept.by' (by with_reducible assumption) ?_ ?_)
    | split
theorem staleDrop_k (s : State) (a1) (a2) : Kept [.regs, .ev] s (staleDrop s a1 a2) := by
  unfold staleDrop
  try dsimp -proj only
  repeat' first
    | with_reducible assumption
    | with_reducible apply Kept.refl
    | with_reducible apply Kept.ite
    | with_reducible apply Kept.by' (raiseLim_k _ _ _ _ _)
    | with_reducible apply Kept.by' (bump_k _ _ _)
    | apply rfl
    | (with_reducible refine Kept.by' (by with_reducible assumption) ?_ ?_)
    | split
theorem fencedRetire_k (s : State) (a1) (a2) : Kept [.regs, .ev, .stairs] s (fencedRetire s a1 a2) := by
  unfold fencedRetire
  try dsimp -proj only
  repeat' first
    | with_reducible assumption
    | with_reducible apply Kept.refl
    | with_reducible apply Kept.ite
    | with_reducible apply Kept.by' (flightUpd_k _ _ _ _)
    | with_reducible apply Kept.by' (staleDrop_k _ _ _)
    | apply rfl
    | (with_reducible refine Kept.by' (by with_reducible assumption) ?_ ?_)
    | split
theorem ideInsecure_k (s : State) : Kept [.regs, .ev, .host] s (ideInsecure s) := by
  unfold ideInsecure
  try dsimp -proj only
  repeat' first
    | with_reducible assumption
    | with_reducible apply Kept.refl
    | with_reducible apply Kept.ite
    | with_reducible apply Kept.ite1
    | with_reducible apply Kept.ite2
    | with_reducible apply Kept.by' (raise_k _ _ _)
    | with_reducible apply Kept.foldl
    | with_reducible apply Kept.foldl1
    | (intro _; intros)
    | dsimp only
    | apply rfl
    | (with_reducible refine Kept.by' (by with_reducible assumption) ?_ ?_)
    | split
    | with_reducible apply Kept.set_host
theorem runStep_k (s : State) (a1) (a2) (a3) (a4) (a5) : Kept [.regs, .ev, .stairs, .draws] s (runStep s a1 a2 a3 a4 a5).1 := by
  unfold runStep
  try dsimp -proj only
  repeat' first
    | with_reducible assumption
    | with_reducible apply Kept.refl
    | with_reducible apply Kept.ite
    | with_reducible apply Kept.ite1
    | with_reducible apply Kept.by' (bump_k _ _ _)
    | with_reducible apply Kept.by' (raiseLim_k _ _ _ _ _)
    | with_reducible apply Kept.by' (lookCount_k _ _ _)
    | with_reducible apply Kept.foldl
    | with_reducible apply Kept.foldl1
    | (intro _; intros)
    | with_reducible apply Kept.getD
    | dsimp only
    | apply rfl
    | (with_reducible refine Kept.by' (by with_reducible assumption) ?_ ?_)
    | split
    | with_reducible apply Kept.set_draws
theorem stepTwin_k (s : State) (a1) (a2) (a3) : Kept [.regs, .ev, .stairs, .draws] s (stepTwin s a1 a2 a3) := by
  unfold stepTwin
  try dsimp -proj only
  repeat' first
    | with_reducible assumption
    | with_reducible apply Kept.refl
    | with_reducible apply Kept.ite
    | with_reducible apply Kept.ite1
    | with_reducible apply Kept.ite2
    | with_reducible apply Kept.by' (runStep_k _ _ _ _ _ _)
    | with_reducible apply Kept.by' (Kept.eq1 (runStep_k _ _ _ _ _ _) (by assumption))
    | with_reducible apply Kept.by' (setTwins_k _ _ _ _)
    | apply rfl
    | (with_reducible refine Kept.by' (by with_reducible assumption) ?_ ?_)
    | split
theorem qpMeet_k (s : State) (a1) : Kept [.regs, .ev, .rm] s (qpMeet s a1).1 := by
  unfold qpMeet
  try dsimp -proj only
  repeat' first
    | with_reducible assumption
    | with_reducible apply Kept.refl
    | with_reducible apply Kept.ite
    | with_reducible apply Kept.ite1
    | with_reducible apply Kept.by' (qpTouch_k _ _)
    | with_reducible apply Kept.by' (Kept.eq1 (qpTouch_k _ _) (by assumption))
    | dsimp only
    | apply rfl
    | (with_reducible refine Kept.by' (by with_reducible assumption) ?_ ?_)
    | split
theorem stepLive_k (s : State) (a1) (a2) (a3) (a4) : Kept [.regs, .ev, .stairs, .rm, .draws] s (stepLive s a1 a2 a3 a4) := by
  unfold stepLive
  try dsimp -proj only
  repeat' first
    | with_reducible assumption
    | with_reducible apply Kept.refl
    | with_reducible apply Kept.ite
    | with_reducible apply Kept.ite1
    | with_reducible apply Kept.ite2
    | with_reducible apply Kept.by' (wrN_k _ _ _)
    | with_reducible apply Kept.by' (bump_k _ _ _)
    | with_reducible apply Kept.by' (flightUpd_k _ _ _ _)
    | with_reducible apply Kept.by' (runStep_k _ _ _ _ _ _)
    | with_reducible apply Kept.by' (Kept.eq1 (runStep_k _ _ _ _ _ _) (by assumption))
    | with_reducible apply Kept.by' (discardAt_k _ _ _ _ _)
    | with_reducible apply Kept.by' (qpMeet_k _ _)
    | with_reducible apply Kept.by' (Kept.eq1 (qpMeet_k _ _) (by assumption))
    | (intro _; intros)
    | dsimp only
    | apply rfl
    | (with_reducible refine Kept.by' (by with_reducible assumption) ?_ ?_)
    | split
theorem bootTrain_k (s : State) (a1) : Kept [.regs, .ev, .ch, .slices, .net, .land, .rm, .out] s (bootTrain s a1) := by
  unfold bootTrain
  try dsimp -proj only
  repeat' first
    | with_reducible assumption
    | with_reducible apply Kept.refl
    | with_reducible apply Kept.ite
    | with_reducible apply Kept.by' (bootStop_k _)
    | with_reducible apply Kept.by' (gmLost_k _ _ _)
    | with_reducible apply Kept.by' (wrN_k _ _ _)
    | with_reducible apply Kept.by' (setStage_k _ _)
    | with_reducible apply Kept.foldl
    | with_reducible apply Kept.foldl1
    | (intro _; intros)
    | exact fun h => aset_rising _ _ h
    | exact fun h => filter_rising _ h
    | exact fun h => h
    | apply rfl
    | (with_reducible refine Kept.by' (by with_reducible assumption) ?_ ?_)
    | split
    | with_reducible apply Kept.set_regs
    | with_reducible apply Kept.set_ev
    | with_reducible apply Kept.set_ch
    | with_reducible apply Kept.set_slices
    | with_reducible apply Kept.set_net
    | with_reducible apply Kept.set_land
    | with_reducible apply Kept.set_rm
    | with_reducible apply Kept.set_out
    | (refine Kept.of ⟨fun p hp => ?_⟩ rfl rfl rfl (congrArg AccSt.own rfl); cases p <;> first | rfl | cases hp)
theorem bindFixed_k (s : State) (a1) : Kept [.regs, .ch, .tils, .draws] s (bindFixed s a1) := by
  unfold bindFixed
  try dsimp -proj only
  repeat' first
    | with_reducible assumption
    | with_reducible apply Kept.refl
    | with_reducible apply Kept.ite
    | with_reducible apply Kept.by' (newPortHandle_k _)
    | with_reducible apply Kept.by' (Kept.eq2 (newPortHandle_k _) (by assumption))
    | with_reducible apply Kept.by' (tportSet_k _ _ _ _)
    | with_reducible apply Kept.by' (wrN_k _ _ _)
    | apply rfl
    | (with_reducible refine Kept.by' (by with_reducible assumption) ?_ ?_)
    | split
theorem releaseTiller_k (s : State) (a1) (a2) (a3) : Kept [.regs, .ev, .ch, .tils, .draws] s (releaseTiller s a1 a2 a3) := by
  unfold releaseTiller
  try dsimp -proj only
  repeat' first
    | with_reducible assumption
    | with_reducible apply Kept.refl
    | with_reducible apply Kept.ite
    | with_reducible apply Kept.by' (tilUpd_k _ _ _)
    | with_reducible apply Kept.by' (bindFixed_k _ _)
    | with_reducible apply Kept.by' (releaseThread_k _ _ _ _)
    | with_reducible apply Kept.by' (wrN_k _ _ _)
    | with_reducible apply Kept.by' (raise_k _ _ _)
    | with_reducible apply Kept.foldl
    | with_reducible apply Kept.foldl1
    | (intro _; intros)
    | apply rfl
    | (with_reducible refine Kept.by' (by with_reducible assumption) ?_ ?_)
    | split
theorem inlineEgress_k (s : State) (a1) (a2) (a3) : Kept [.regs, .ev, .cy, .rm] s (inlineEgress s a1 a2 a3).1 := by
  unfold inlineEgress
  try dsimp -proj only
  repeat' first
    | with_reducible assumption
    | with_reducible apply Kept.refl
    | with_reducible apply Kept.ite
    | with_reducible apply Kept.ite1
    | with_reducible apply Kept.by' (fmtCount_k _ _)
    | with_reducible apply Kept.by' (noKeyCount_k _ _ _)
    | with_reducible apply Kept.by' (nextCounter_k _ _ _ _ _)
    | with_reducible apply Kept.by' (Kept.eq1 (nextCounter_k _ _ _ _ _) (by assumption))
    | with_reducible apply Kept.by' (bump_k _ _ _)
    | with_reducible apply Kept.by' (cyUpd_k _ _)
    | dsimp only
    | apply rfl
    | (with_reducible refine Kept.by' (by with_reducible assumption) ?_ ?_)
    | split
theorem toPort_k (s : State) (a1) (a2) : Kept [.regs, .ev, .ch, .net, .land, .rm] s (toPort s a1 a2) := by
  unfold toPort
  try dsimp -proj only
  repeat' first
    | with_reducible assumption
    | with_reducible apply Kept.refl
    | with_reducible apply Kept.ite
    | with_reducible apply Kept.by' (endAt_k _ _ _)
    | with_reducible apply Kept.by' (portCnt_k _ _ _ _)
    | with_reducible apply Kept.by' (portUpd_k _ _ _)
    | apply rfl
    | (with_reducible refine Kept.by' (by with_reducible assumption) ?_ ?_)
    | split
theorem winMiss_k (s : State) (a1) (a2) (a3) : Kept [.regs, .ev, .host] s (winMiss s a1 a2 a3) := by
  unfold winMiss
  try dsimp -proj only
  repeat' first
    | with_reducible assumption
    | with_reducible apply Kept.refl
    | with_reducible apply Kept.ite
    | with_reducible apply Kept.by' (raiseLim_k _ _ _ _ _)
    | with_reducible apply Kept.by' (fnUpd_k _ _ _ _)
    | apply rfl
    | (with_reducible refine Kept.by' (by with_reducible assumption) ?_ ?_)
    | split
theorem twinCopy_k (s : State) (a1) (a2) (a3) : Kept [.stairs, .sheaf] s (twinCopy s a1 a2 a3) := by
  unfold twinCopy
  try dsimp -proj only
  repeat' first
    | with_reducible assumption
    | with_reducible apply Kept.refl
    | with_reducible apply Kept.ite
    | with_reducible apply Kept.by' (stairUpd_k _ _ _)
    | apply rfl
    | (with_reducible refine Kept.by' (by with_reducible assumption) ?_ ?_)
    | split
    | with_reducible apply Kept.set_stairs
    | with_reducible apply Kept.set_sheaf
    | (refine Kept.of ⟨fun p hp => ?_⟩ rfl rfl rfl (congrArg AccSt.own rfl); cases p <;> first | rfl | cases hp)
theorem joinFlight_k (s : State) (a1) (a2) (a3) (a4) (a5) : Kept [.regs, .stairs, .sheaf] s (joinFlight s a1 a2 a3 a4 a5) := by
  unfold joinFlight
  try dsimp -proj only
  repeat' first
    | with_reducible assumption
    | with_reducible apply Kept.refl
    | with_reducible apply Kept.ite
    | with_reducible apply Kept.by' (flightUpd_k _ _ _ _)
    | with_reducible apply Kept.by' (countWithdraw_k _ _ _ _)
    | with_reducible apply Kept.by' (twinCopy_k _ _ _ _)
    | apply rfl
    | (with_reducible refine Kept.by' (by with_reducible assumption) ?_ ?_)
    | split
theorem txBegin_k (s : State) (a1) : Kept [.regs, .ev, .ch, .rm] s (txBegin s a1).1 := by
  unfold txBegin
  try dsimp -proj only
  repeat' first
    | with_reducible assumption
    | with_reducible apply Kept.refl
    | with_reducible apply Kept.ite
    | with_reducible apply Kept.ite1
    | with_reducible apply Kept.ite2
    | with_reducible apply Kept.by' (endPkt_k _ _)
    | with_reducible apply Kept.by' (chanUpd_k _ _ _)
    | dsimp only
    | apply rfl
    | (with_reducible refine Kept.by' (by with_reducible assumption) ?_ ?_)
    | split
theorem enterMarker_k (s : State) (a1) (a2) (a3) (a4) : Kept [.regs, .stairs, .sheaf] s (enterMarker s a1 a2 a3 a4) := by
  unfold enterMarker
  try dsimp -proj only
  repeat' first
    | with_reducible assumption
    | with_reducible apply Kept.refl
    | with_reducible apply Kept.ite
    | with_reducible apply Kept.by' (flightUpd_k _ _ _ _)
    | with_reducible apply Kept.by' (joinFlight_k _ _ _ _ _ _)
    | apply rfl
    | (with_reducible refine Kept.by' (by with_reducible assumption) ?_ ?_)
    | split
theorem flightEntry_k (s : State) (a1) (a2) (a3) (a4) : Kept [.regs, .ev, .ch, .stairs, .sheaf, .land, .rm] s (flightEntry s a1 a2 a3 a4) := by
  unfold flightEntry
  try dsimp -proj only
  repeat' first
    | with_reducible assumption
    | with_reducible apply Kept.refl
    | with_reducible apply Kept.ite
    | with_reducible apply Kept.ite1
    | with_reducible apply Kept.ite2
    | with_reducible apply Kept.by' (bump_k _ _ _)
    | with_reducible apply Kept.by' (entrySet_k _ _ _ _)
    | with_reducible apply Kept.by' (joinFlight_k _ _ _ _ _ _)
    | with_reducible apply Kept.by' (enterMarker_k _ _ _ _ _)
    | with_reducible apply Kept.by' (txBegin_k _ _)
    | with_reducible apply Kept.by' (Kept.eq1 (txBegin_k _ _) (by assumption))
    | dsimp only
    | apply rfl
    | (with_reducible refine Kept.by' (by with_reducible assumption) ?_ ?_)
    | split
theorem sliceQueuesDrop_k (s : State) (a1) : Kept [.regs, .ev, .ch, .net, .land, .rm, .out] s (sliceQueuesDrop s a1) := by
  unfold sliceQueuesDrop
  try dsimp -proj only
  repeat' first
    | with_reducible assumption
    | with_reducible apply Kept.refl
    | with_reducible apply Kept.ite
    | with_reducible apply Kept.ite1
    | with_reducible apply Kept.ite2
    | with_reducible apply Kept.by' (queueFlush_k _ _)
    | with_reducible apply Kept.by' (Kept.eq1 (queueFlush_k _ _) (by assumption))
    | with_reducible apply Kept.by' (nodeTally_k _ _ _)
    | with_reducible apply Kept.foldl
    | with_reducible apply Kept.foldl1
    | (intro _; intros)
    | apply rfl
    | (with_reducible refine Kept.by' (by with_reducible assumption) ?_ ?_)
    | split
theorem faultStep_k (s : State) (a1) : Kept [.regs, .ev, .ch, .net, .land, .rm, .out] s (faultStep s a1) := by
  unfold faultStep
  try dsimp -proj only
  repeat' first
    | with_reducible assumption
    | with_reducible apply Kept.refl
    | with_reducible apply Kept.ite
    | with_reducible apply Kept.by' (setPortState_k _ _ _)
    | dsimp only
    | apply rfl
    | (with_reducible refine Kept.by' (by with_reducible assumption) ?_ ?_)
    | split
theorem snapAtFire_k (s : State) (a1) : Kept [.regs, .snap, .time, .ev, .stairs] s (snapAtFire s a1) := by
  unfold snapAtFire
  try dsimp -proj only
  repeat' first
    | with_reducible assumption
    | with_reducible apply Kept.refl
    | with_reducible apply Kept.ite
    | with_reducible apply Kept.by' (takeSnapshot_k _ _ _)
    | with_reducible apply Kept.by' (lateMark_k _ _ _)
    | with_reducible apply Kept.by' (wrF_k _ _ _ _ _)
    | apply rfl
    | (with_reducible refine Kept.by' (by with_reducible assumption) ?_ ?_)
    | split
theorem epochFire_k (s : State) (a1) : Kept [.regs, .snap, .time, .ev, .mem, .host, .ch, .slices, .stairs, .tm, .out] s (epochFire s a1).1 := by
  unfold epochFire
  try dsimp -proj only
  repeat' first
    | with_reducible assumption
    | with_reducible apply Kept.refl
    | with_reducible apply Kept.ite
    | with_reducible apply Kept.ite1
    | with_reducible apply Kept.ite2
    | with_reducible apply Kept.by' (takeSnapshot_k _ _ _)
    | with_reducible apply Kept.by' (wrF_k _ _ _ _ _)
    | with_reducible apply Kept.by' (showSnapAt_k _ _)
    | with_reducible apply Kept.by' (tmPut_k _ _ _ _)
    | with_reducible apply Kept.by' (Kept.eq1 (tmPut_k _ _ _ _) (by assumption))
    | dsimp only
    | exact fun h => aset_rising _ _ h
    | exact fun h => filter_rising _ h
    | exact fun h => h
    | exact fun h => memPuts_wf h
    | exact fun h => memClear_wf h
    | exact memPuts_wf (by assumption)
    | exact memClear_wf (by assumption)
    | exact fun h => filter_wf _ h
    | exact fun h => h
    | apply rfl
    | (with_reducible refine Kept.by' (by with_reducible assumption) ?_ ?_)
    | split
    | with_reducible apply Kept.set_regs
    | with_reducible apply Kept.set_snap
    | with_reducible apply Kept.set_time
    | with_reducible apply Kept.set_ev
    | with_reducible apply Kept.set_mem
    | with_reducible apply Kept.set_host
    | with_reducible apply Kept.set_ch
    | with_reducible apply Kept.set_slices
    | with_reducible apply Kept.set_stairs
    | with_reducible apply Kept.set_tm
    | with_reducible apply Kept.set_out
    | (refine Kept.of ⟨fun p hp => ?_⟩ rfl rfl rfl (congrArg AccSt.own rfl); cases p <;> first | rfl | cases hp)
theorem stuckDrop_k (s : State) (a1) : Kept [.regs, .ev, .ch, .land, .rm] s (stuckDrop s a1) := by
  unfold stuckDrop
  try dsimp -proj only
  repeat' first
    | with_reducible assumption
    | with_reducible apply Kept.refl
    | with_reducible apply Kept.ite
    | with_reducible apply Kept.ite2
    | with_reducible apply Kept.by' (endAt_k _ _ _)
    | with_reducible apply Kept.foldl
    | with_reducible apply Kept.foldl1
    | (intro _; intros)
    | exact fun h => aset_rising _ _ h
    | exact fun h => filter_rising _ h
    | exact fun h => h
    | apply rfl
    | (with_reducible refine Kept.by' (by with_reducible assumption) ?_ ?_)
    | split
    | with_reducible apply Kept.set_regs
    | with_reducible apply Kept.set_ev
    | with_reducible apply Kept.set_ch
    | with_reducible apply Kept.set_land
    | with_reducible apply Kept.set_rm
    | (refine Kept.of ⟨fun p hp => ?_⟩ rfl rfl rfl (congrArg AccSt.own rfl); cases p <;> first | rfl | cases hp)
theorem authDrop_k (s : State) (a1) (a2) : Kept [.regs, .ev, .ch, .net, .land, .rm, .out] s (authDrop s a1 a2) := by
  unfold authDrop
  try dsimp -proj only
  repeat' first
    | with_reducible assumption
    | with_reducible apply Kept.refl
    | with_reducible apply Kept.ite
    | with_reducible apply Kept.by' (queueTake_k _ _ _)
    | with_reducible apply Kept.by' (Kept.eq1 (queueTake_k _ _ _) (by assumption))
    | with_reducible apply Kept.by' (regSub_k _ _ _)
    | with_reducible apply Kept.by' (refuse_k _ _ _ _)
    | apply rfl
    | (with_reducible refine Kept.by' (by with_reducible assumption) ?_ ?_)
    | split
theorem winUr_k (s : State) (a1) (a2) (a3) (a4) : Kept [.regs, .ev, .host, .out] s (winUr s a1 a2 a3 a4) := by
  unfold winUr
  try dsimp -proj only
  repeat' first
    | with_reducible assumption
    | with_reducible apply Kept.refl
    | with_reducible apply Kept.ite
    | with_reducible apply Kept.by' (winMiss_k _ _ _ _)
    | with_reducible apply Kept.by' (emit_k _ _)
    | with_reducible apply Kept.by' (bump_k _ _ _)
    | apply rfl
    | (with_reducible refine Kept.by' (by with_reducible assumption) ?_ ?_)
    | split
theorem takeStair_k (s : State) (a1) (a2) (a3) : Kept [.regs, .ev, .stairs, .land, .cy] s (takeStair s a1 a2 a3) := by
  unfold takeStair
  try dsimp -proj only
  repeat' first
    | with_reducible assumption
    | with_reducible apply Kept.refl
    | with_reducible apply Kept.ite
    | with_reducible apply Kept.ite1
    | with_reducible apply Kept.ite2
    | with_reducible apply Kept.by' (wrF_k _ _ _ _ _)
    | with_reducible apply Kept.by' (raise_k _ _ _)
    | with_reducible apply Kept.by' (entryUpd_k _ _ _ _)
    | with_reducible apply Kept.by' (cyUpd_k _ _)
    | with_reducible apply Kept.by' (takeFlight_k _ _ _ _ _)
    | with_reducible apply Kept.by' (Kept.eq1 (takeFlight_k _ _ _ _ _) (by assumption))
    | with_reducible apply Kept.by' (takeTables_k _ _ _)
    | with_reducible apply Kept.foldl
    | with_reducible apply Kept.foldl1
    | (intro _; intros)
    | dsimp only
    | apply rfl
    | (with_reducible refine Kept.by' (by with_reducible assumption) ?_ ?_)
    | split
    | with_reducible apply Kept.set_land
theorem takeTiller_k (s : State) (a1) (a2) (a3) (a4) : Kept [.regs, .ev, .mem, .ch, .tils, .draws] s (takeTiller s a1 a2 a3 a4) := by
  unfold takeTiller
  try dsimp -proj only
  repeat' first
    | with_reducible assumption
    | with_reducible apply Kept.refl
    | with_reducible apply Kept.ite
    | with_reducible apply Kept.by' (wrN_k _ _ _)
    | with_reducible apply Kept.by' (bump_k _ _ _)
    | with_reducible apply Kept.by' (raise_k _ _ _)
    | with_reducible apply Kept.by' (tilUpd_k _ _ _)
    | with_reducible apply Kept.by' (releaseTiller_k _ _ _ _)
    | with_reducible apply Kept.by' (dropSent_k _ _)
    | with_reducible apply Kept.by' (freeOwn_k _ _)
    | with_reducible apply Kept.by' (copyScratch_k _ _ _ _)
    | with_reducible apply Kept.by' (deliverSealed_k _ _)
    | with_reducible apply Kept.by' (puntCopy_k _ _ _)
    | (intro _; intros)
    | dsimp only
    | apply rfl
    | (with_reducible refine Kept.by' (by with_reducible assumption) ?_ ?_)
    | split
theorem sendData_k (s : State) (a1) (a2) (a3) (a4) (a5) (a6) (a7) (a8) (a9) (a10) (a11) : Kept [.regs, .ev, .ch, .land, .rm] s (sendData s a1 a2 a3 a4 a5 a6 a7 a8 a9 a10 a11) := by
  unfold sendData
  try dsimp -proj only
  repeat' first
    | with_reducible assumption
    | with_reducible apply Kept.refl
    | with_reducible apply Kept.ite
    | with_reducible apply Kept.by' (qpUpd_k _ _ _)
    | with_reducible apply Kept.by' (grmtEnter_k _ _ _ _ _ _ _ _ _ _)
    | apply rfl
    | (with_reducible refine Kept.by' (by with_reducible assumption) ?_ ?_)
    | split
theorem dispatchFrom_k (s : State) (a1) (a2) : Kept [.regs, .time, .ev, .ch, .net, .stairs, .sheaf, .land, .rm, .out] s (dispatchFrom s a1 a2) := by
  unfold dispatchFrom
  try dsimp -proj only
  repeat' first
    | with_reducible assumption
    | with_reducible apply Kept.refl
    | with_reducible apply Kept.ite
    | with_reducible apply Kept.ite1
    | with_reducible apply Kept.by' (bump_k _ _ _)
    | with_reducible apply Kept.by' (bump64_k _ _ _)
    | with_reducible apply Kept.by' (tick_k _)
    | with_reducible apply Kept.by' (regSub_k _ _ _)
    | with_reducible apply Kept.by' (nodeUpd_k _ _ _ _)
    | with_reducible apply Kept.by' (nodeTally_k _ _ _)
    | with_reducible apply Kept.by' (queueTake_k _ _ _)
    | with_reducible apply Kept.by' (Kept.eq1 (queueTake_k _ _ _) (by assumption))
    | with_reducible apply Kept.by' (queueDrop_k _ _ _)
    | with_reducible apply Kept.by' (turnSettle_k _ _)
    | with_reducible apply Kept.by' (joinFlight_k _ _ _ _ _ _)
    | with_reducible apply Kept.by' (begunInc_k _ _)
    | (intro _; intros)
    | dsimp only
    | apply rfl
    | (with_reducible refine Kept.by' (by with_reducible assumption) ?_ ?_)
    | split
    | with_reducible apply Kept.set_land
theorem copyDone_k (s : State) (a1) (a2) : Kept [.regs, .ev, .land] s (copyDone s a1 a2) := by
  unfold copyDone
  try dsimp -proj only
  repeat' first
    | with_reducible assumption
    | with_reducible apply Kept.refl
    | with_reducible apply Kept.ite
    | with_reducible apply Kept.by' (nodeSet_k _ _ _ _)
    | with_reducible apply Kept.by' (freeGrains_k _ _)
    | with_reducible apply Kept.by' (regSub_k _ _ _)
    | apply rfl
    | (with_reducible refine Kept.by' (by with_reducible assumption) ?_ ?_)
    | split
theorem authFail_k (s : State) (a1) (a2) (a3) : Kept [.regs, .ev, .cy, .rm] s (authFail s a1 a2 a3) := by
  unfold authFail
  try dsimp -proj only
  repeat' first
    | with_reducible assumption
    | with_reducible apply Kept.refl
    | with_reducible apply Kept.ite
    | with_reducible apply Kept.by' (bump_k _ _ _)
    | with_reducible apply Kept.by' (raiseLim_k _ _ _ _ _)
    | with_reducible apply Kept.by' (cyUpd_k _ _)
    | with_reducible apply Kept.by' (ctxPut_k _ _ _ _)
    | (intro _; intros)
    | with_reducible apply Kept.getD
    | dsimp only
    | apply rfl
    | (with_reducible refine Kept.by' (by with_reducible assumption) ?_ ?_)
    | split
theorem verifyPkt_k (s : State) (a1) (a2) (a3) : Kept [.regs, .ev, .ch, .net, .land, .cy, .rm, .out] s (verifyPkt s a1 a2 a3) := by
  unfold verifyPkt
  try dsimp -proj only
  repeat' first
    | with_reducible assumption
    | with_reducible apply Kept.refl
    | with_reducible apply Kept.ite
    | with_reducible apply Kept.by' (bump_k _ _ _)
    | with_reducible apply Kept.by' (authDrop_k _ _ _)
    | with_reducible apply Kept.by' (authFail_k _ _ _ _)
    | with_reducible apply Kept.by' (verified_k _ _ _ _)
    | with_reducible apply Kept.by' (fmtCount_k _ _)
    | with_reducible apply Kept.by' (noKeyCount_k _ _ _)
    | with_reducible apply Kept.by' (queueTake_k _ _ _)
    | with_reducible apply Kept.by' (Kept.eq1 (queueTake_k _ _ _) (by assumption))
    | with_reducible apply Kept.by' (endSent_k _ _)
    | with_reducible apply Kept.by' (depRelease_k _ _)
    | with_reducible apply Kept.by' (regSub_k _ _ _)
    | with_reducible apply Kept.by' (cyUpd_k _ _)
    | with_reducible apply Kept.by' (verify_k _ _ _ _ _ _)
    | with_reducible apply Kept.by' (Kept.eq1 (verify_k _ _ _ _ _ _) (by assumption))
    | apply rfl
    | (with_reducible refine Kept.by' (by with_reducible assumption) ?_ ?_)
    | split
theorem learnOne_k (s : State) (a1) (a2) : Kept [.regs, .ev, .stairs] s (learnOne s a1 a2) := by
  unfold learnOne
  try dsimp -proj only
  repeat' first
    | with_reducible assumption
    | with_reducible apply Kept.refl
    | with_reducible apply Kept.ite
    | with_reducible apply Kept.by' (bump_k _ _ _)
    | with_reducible apply Kept.by' (setEntries_k _ _ _ _)
    | with_reducible apply Kept.by' (tblFull_k _ _ _)
    | with_reducible apply Kept.by' (noteLearn_k _ _ _)
    | (intro _; intros)
    | dsimp only
    | apply rfl
    | (with_reducible refine Kept.by' (by with_reducible assumption) ?_ ?_)
    | split
theorem frameTransmit_k (s : State) (a1) : Kept [.regs, .ev, .ch, .net, .land, .out] s (frameTransmit s a1) := by
  unfold frameTransmit
  try dsimp -proj only
  repeat' first
    | with_reducible assumption
    | with_reducible apply Kept.refl
    | with_reducible apply Kept.ite
    | with_reducible apply Kept.by' (portUpd_k _ _ _)
    | with_reducible apply Kept.by' (portCnt_k _ _ _ _)
    | with_reducible apply Kept.by' (emit_k _ _)
    | with_reducible apply Kept.by' (raise_k _ _ _)
    | with_reducible apply Kept.by' (freeGrains_k _ _)
    | with_reducible apply Kept.by' (txCapture_k _ _ _ _)
    | exact fun h => aset_rising _ _ h
    | exact fun h => filter_rising _ h
    | exact fun h => h
    | apply rfl
    | (with_reducible refine Kept.by' (by with_reducible assumption) ?_ ?_)
    | split
    | with_reducible apply Kept.set_regs
    | with_reducible apply Kept.set_ev
    | with_reducible apply Kept.set_ch
    | with_reducible apply Kept.set_net
    | with_reducible apply Kept.set_land
    | with_reducible apply Kept.set_out
    | (refine Kept.of ⟨fun p hp => ?_⟩ rfl rfl rfl (congrArg AccSt.own rfl); cases p <;> first | rfl | cases hp)

open Sys2Proof
theorem gate_k {l : List Part} {s t : State} {req be off g f} (h : Kept l s t) (k : ∀ u, Kept l s u → Kept l s (f u))
    (hl : [Part.regs, .acc, .ev, .out].all (fun p => l.contains p) = true) : Kept l s (gate t req be off g f) := by
  unfold gate
  split
  · exact h.after (notReached_k _ _) (parts_sub hl rfl)
  · split
    · exact h.after (badAccess_k _ _ _) (parts_sub hl rfl)
    · split
      · split
        · exact k _ (h.after (closeWindow_k _) (parts_sub hl rfl))
        · exact h.after (lockedWrite_k _ _ _) (parts_sub hl rfl)
      · exact k _ h
theorem onPage_k {l : List Part} {s t : State} {link fnum page be x f} (h : Kept l s t) (k : ∀ u, Kept l s u → Kept l s (f u))
    (hl : [Part.regs, .ev].all (fun p => l.contains p) = true) : Kept l s (onPage t link fnum page be x f) := by
  unfold onPage
  split
  · exact h.after (urIn_k _ _) (parts_sub hl rfl)
  · split
    · exact h.after (badAccess_k _ _ _) hl
    · exact k _ h
theorem issueAll_k (s : State) (a1 a2 a3) : Kept [.host, .out] s (issueAll s a1 a2 a3) := by
  induction a3 generalizing s a2 with
  | nil => exact Kept.set_host Kept.refl rfl
  | cons r rest ih =>
    unfold issueAll
    split
    · exact ih _ _
    · exact ((Kept.set_host Kept.refl rfl).after (issueReq_k _ _) rfl).after (ih _ _) rfl
theorem ringFlush_k (n) (s : State) (i) : Kept [.mem, .host, .ch, .slices, .out] s (ringFlush n s i) := by
  induction n generalizing s with
  | zero => exact Kept.refl
  | succ n ih =>
    unfold ringFlush
    split
    · split
      · exact Kept.refl
      · split
        · exact ((Kept.refl.after (chanSet_k _ _ _) rfl).after (ringPut_k _ _ _) rfl).after (ih _) rfl
        · split
          · exact Kept.refl
          · exact ((Kept.refl.after (chanSet_k _ _ _) rfl).after (ringPut_k _ _ _) rfl).after (ih _) rfl
    · exact Kept.refl
theorem scatter_k (s : State) (a1 a2 a3 a4 a5) : Kept [.mem, .slices, .out] s (scatter s a1 a2 a3 a4 a5) := by
  fun_induction scatter s a1 a2 a3 a4 a5
  · exact Kept.refl
  · exact Kept.refl
  · assumption
  · rename_i ih
    exact Kept.after (slWrite_k _ _ _ _ _) ih rfl
theorem startCommon_k (s : State) (a1) : Kept [.regs, .host, .slices] s (startCommon s a1) := by
  unfold startCommon
  dsimp -proj only
  have h1 : ∀ s : State, Kept [.regs, .host, .slices] s ((List.range 4).foldl (fun s f => wrF s (Reg.HF_FACE_STATUS f) 0 2 (argOf s.oz.bifs f)) s) := by
    intro s; apply Kept.foldl Kept.refl; intro t a h; exact h.after (wrF_k _ _ _ _ _) rfl
  have h2 : ∀ s : State, Kept [.regs, .host, .slices] s ((List.range 16).foldl (fun s l => if linkPresent s l then wrF s (hfLink l) 10 1 (b2n (a1.contains l)) else s) s) := by
    intro s; apply Kept.foldl Kept.refl; intro t a h; split
    · exact h.after (wrF_k _ _ _ _ _) rfl
    · exact h
  have h := (h1 s).after (h2 _) rfl
  generalize List.foldl (fun s l => if linkPresent s l = true then wrF s (hfLink l) 10 1 (b2n (a1.contains l)) else s) _ _ = u at *
  refine Kept.after h (m := [.host, .slices]) (Kept.of ⟨fun p hp => ?_⟩ rfl rfl rfl rfl) rfl
  cases p <;> first | rfl | cases hp
theorem rxComplete_k (s : State) (a1 a2) : Kept [.regs, .ch, .rm] s (rxComplete s a1 a2) := by
  induction a2 generalizing s with
  | zero => exact Kept.refl
  | succ n ih =>
    unfold rxComplete
    split
    · split
      · dsimp only
        refine Kept.after ?_ (ih _) rfl
        repeat' first
          | with_reducible apply Kept.by' (unrefKeys_k _ _)
          | with_reducible apply Kept.by' (qpUpd_k _ _ _)
          | with_reducible apply Kept.by' (finishEnt_k _ _ _ _)
          | with_reducible apply Kept.refl
          | apply rfl
          | split
      · exact Kept.refl
    · exact Kept.refl
theorem probeRun_k (a0 a1 n) (s : State) (c) : Kept [.regs, .ev, .stairs, .draws] s (probeRun a0 a1 n s c).1 := by
  induction n generalizing s c with
  | zero => exact Kept.refl
  | succ n ih => unfold probeRun; exact Kept.after (runStep_k _ _ _ _ _ _) (ih _ _) rfl
theorem useSlot_k {s a r t k} (e : useSlot s a r = .inr (t, k)) : Kept [.cy] s t := by
  unfold useSlot at e
  split at e
  · cases e
  · split at e
    · cases e; exact cyUpd_k _ _
    · cases e
theorem gleanPut_k {s p key data t x} (e : gleanPut s p key data = some (t, x)) : Kept [.regs, .stairs, .land] s t := by
  unfold gleanPut at e
  simp only [Option.map_eq_some_iff] at e
  obtain ⟨m, _, h⟩ := e
  have hh : _ = t := congrArg Prod.fst h
  subst hh
  exact ((Kept.refl.after (setEntries_k _ _ _ _) rfl).after (bump_k _ _ _) rfl).after (unpark_k _ _ _) rfl
theorem gleanWrite_k {s p key data t} (e : gleanWrite s p key data = some t) : Kept [.regs, .stairs, .land] s t := by
  unfold gleanWrite at e
  simp only [Option.map_eq_some_iff] at e
  obtain ⟨⟨u, x⟩, h, rfl⟩ := e
  exact gleanPut_k h
theorem enq_k {s : State} {t k w kd sd l u} (e : u = enqueue s t k w kd sd l) : Kept [.mem, .tils] s u := by subst e; exact enqueue_k _ _ _ _ _ _ _
theorem postMsg_k {s h w kd sd l t} (e : postMsg s h w kd sd l = some t) : Kept [.mem, .tils] s t := by
  unfold postMsg at e
  split at e
  · split at e
    · cases e; exact enqueue_k _ _ _ _ _ _ _
    · cases e
  · cases e
theorem punt_k {s r f h md pk c t} (e : punt s r f h md pk c = some t) : Kept [.regs, .mem, .tils] s t := by
  unfold punt at e
  split at e
  · split at e
    · cases e
    · cases e
      exact (((Kept.refl.after (store_k _ _ _) rfl).after (tportSet_k _ _ _ _) rfl).after (enqueue_k _ _ _ _ _ _ _) rfl).after (bump64_k _ _ _) rfl
  · cases e
theorem chRun_k (s : State) (t n b nb) : Kept [.regs, .ev, .mem, .tils, .out] s (chRun s t n b nb) := by
  unfold chRun
  split
  · exact Kept.after Kept.refl (chTry_k ‹_›) rfl
  · split
    · exact Kept.after Kept.refl (chReply_k _ _ _ _ _) rfl
    · split
      · exact (Kept.after Kept.refl (lateFiring_k _) rfl).after (chReply_k _ _ _ _ _) rfl
      · exact Kept.after Kept.refl (chBlock_k _ _ _ _) rfl
theorem slotBoots_k {s a o t} (e : slotBoots s a = some (o, t)) : Kept [.regs, .ev, .mem] s t := by
  unfold slotBoots at e
  split at e
  · cases e; exact Kept.refl
  · split at e
    · cases e
      exact ((Kept.refl.after (bootWrite_k _ _ _ _) rfl).after (showImage_k _) rfl).after (raise_k _ _ _) rfl
    · cases e
theorem loadMicrocode_k {s t} (e : loadMicrocode s = some t) : Kept [.stairs, .golden] s t := by
  unfold loadMicrocode at e
  dsimp -proj only at e
  split at e
  · split at e
    · cases e
    · simp only [Option.map_eq_some_iff] at e
      obtain ⟨m, _, rfl⟩ := e
      exact Kept.set_golden (Kept.foldl Kept.refl (fun t a h => h.after (stairUpd_k _ _ _) rfl)) rfl
  · cases e
theorem tdispAsk_k {s l f d t} (e : tdispAsk s l f d = some t) : Kept [.regs, .ev, .host] s t := by
  unfold tdispAsk at e
  dsimp -proj only at e
  split at e
  · cases e; exact tdispTo_k _ _ _ _
  · cases e
theorem imageSlot_k {s c t k} (e : imageSlot s c = .inr (t, k)) : Kept [.cy] s t := by
  unfold imageSlot at e
  split at e
  · exact useSlot_k e
  · cases e
theorem nsKeySlots_k {s t o u k} (e : nsKeySlots s t o = .inr (u, k)) : Kept [.cy] s u := by
  unfold nsKeySlots at e
  repeat' split at e
  all_goals first
    | cases e; done
    | (cases e
       repeat' first
         | with_reducible apply Kept.refl
         | apply rfl
         | with_reducible apply Kept.by' (useSlot_k (by assumption)))
theorem qpInit_k {s i c q a t} (e : qpInit s i c q a = .inr t) : Kept [.cy, .rm] s t := by
  unfold qpInit at e
  dsimp -proj only at e
  repeat' split at e
  all_goals first
    | cases e; done
    | skip
  all_goals
    cases e
    rename_i h _ _
    refine Kept.after ?_ (qpUpd_k _ _ _) rfl
    repeat' split at h
    all_goals first
      | (cases h; done)
      | (cases h
         first
           | exact Kept.refl
           | exact Kept.after Kept.refl (useSlot_k (by assumption)) rfl)
theorem qpRtr_k {s i c q a t} (e : qpRtr s i c q a = .inr t) : Kept [.regs, .cy, .rm, .draws] s t := by
  unfold qpRtr at e
  dsimp -proj only at e
  repeat' split at e
  all_goals first
    | cases e; done
    | (cases e; exact Kept.after Kept.refl (qpUpd_k _ _ _) rfl)
    | (cases e; rename_i h; exact ((Kept.after Kept.refl (useSlot_k h) rfl).after (qpUpd_k _ _ _) rfl).after (qpDerive_k _ _ _ _ _) rfl)
theorem fencedSend_k (s : State) (a1) : Kept [.regs, .ev] s (fencedSend s a1) := by
  unfold fencedSend
  try dsimp -proj only
  repeat' first
    | with_reducible assumption
    | with_reducible apply Kept.refl
    | with_reducible apply Kept.ite
    | with_reducible apply Kept.by' (staleDrop_k _ _ _)
    | dsimp only
    | apply rfl
    | (with_reducible refine Kept.by' (by with_reducible assumption) ?_ ?_)
    | split
theorem keyUnwrap_k (s : State) (a1) (a2) (a3) (a4) (a5) : Kept [.regs, .ch, .cy, .draws] s (keyUnwrap s a1 a2 a3 a4 a5).1 := by
  unfold keyUnwrap
  try dsimp -proj only
  repeat' first
    | with_reducible assumption
    | with_reducible apply Kept.refl
    | with_reducible apply Kept.ite
    | with_reducible apply Kept.ite1
    | with_reducible apply Kept.by' (putKey_k _ _ _)
    | with_reducible apply Kept.by' (useSlot_k (by assumption))
    | with_reducible apply Kept.by' (failed_k _ _)
    | with_reducible apply Kept.by' (Kept.eq1 (failed_k _ _) (by assumption))
    | with_reducible apply Kept.by' (keyDone_k _ _ _ _ _ _)
    | with_reducible apply Kept.by' (Kept.eq1 (keyDone_k _ _ _ _ _ _) (by assumption))
    | dsimp only
    | apply rfl
    | (with_reducible refine Kept.by' (by with_reducible assumption) ?_ ?_)
    | split
theorem cctxNew_k (s : State) (a1) (a2) (a3) (a4) (a5) : Kept [.regs, .cy, .draws] s (cctxNew s a1 a2 a3 a4 a5).1 := by
  unfold cctxNew
  try dsimp -proj only
  repeat' first
    | with_reducible assumption
    | with_reducible apply Kept.refl
    | with_reducible apply Kept.ite
    | with_reducible apply Kept.ite1
    | with_reducible apply Kept.ite2
    | with_reducible apply Kept.by' (draw_k _)
    | with_reducible apply Kept.by' (Kept.eq2 (draw_k _) (by assumption))
    | with_reducible apply Kept.by' (cyUpd_k _ _)
    | with_reducible apply Kept.by' (showCtxs_k _)
    | with_reducible apply Kept.by' (useSlot_k (by assumption))
    | with_reducible apply Kept.by' (failed_k _ _)
    | with_reducible apply Kept.by' (Kept.eq1 (failed_k _ _) (by assumption))
    | (intro _; intros)
    | dsimp only
    | apply rfl
    | (with_reducible refine Kept.by' (by with_reducible assumption) ?_ ?_)
    | split
theorem qpAttrs_k (s : State) (a1) (a2) (a3) (a4) : Kept [.regs, .cy, .rm, .draws] s (qpAttrs s a1 a2 a3 a4).1 := by
  unfold qpAttrs
  try dsimp -proj only
  repeat' first
    | with_reducible assumption
    | with_reducible apply Kept.refl
    | with_reducible apply Kept.ite
    | with_reducible apply Kept.ite1
    | with_reducible apply Kept.by' (qpUpd_k _ _ _)
    | with_reducible apply Kept.by' (failed_k _ _)
    | with_reducible apply Kept.by' (Kept.eq1 (failed_k _ _) (by assumption))
    | with_reducible apply Kept.by' (qpInit_k (by assumption))
    | with_reducible apply Kept.by' (qpRtr_k (by assumption))
    | (intro _; intros)
    | dsimp only
    | apply rfl
    | (with_reducible refine Kept.by' (by with_reducible assumption) ?_ ?_)
    | split
theorem fetchDrop_k (s : State) (a1) (a2) (a3) : Kept [.regs, .ev, .ch, .land, .rm] s (fetchDrop s a1 a2 a3) := by
  unfold fetchDrop
  try dsimp -proj only
  repeat' first
    | with_reducible assumption
    | with_reducible apply Kept.refl
    | with_reducible apply Kept.ite
    | with_reducible apply Kept.by' (bump_k _ _ _)
    | with_reducible apply Kept.by' (raise_k _ _ _)
    | with_reducible apply Kept.by' (endPkt_k _ _)
    | with_reducible apply Kept.foldl
    | with_reducible apply Kept.foldl1
    | (intro _; intros)
    | dsimp only
    | apply rfl
    | (with_reducible refine Kept.by' (by with_reducible assumption) ?_ ?_)
    | split
    | with_reducible apply Kept.set_land
theorem ringBack_k (s : State) (a1) : Kept [.mem, .host, .ch, .slices, .out] s (ringBack s a1) := by
  unfold ringBack
  try dsimp -proj only
  repeat' first
    | with_reducible assumption
    | with_reducible apply Kept.refl
    | with_reducible apply Kept.ite
    | with_reducible apply Kept.by' (ringFlush_k _ _ _)
    | dsimp only
    | apply rfl
    | (with_reducible refine Kept.by' (by with_reducible assumption) ?_ ?_)
    | split
theorem snapAtRun_k (s : State) : Kept [.regs, .snap, .time, .ev, .stairs] s (snapAtRun s) := by
  unfold snapAtRun
  try dsimp -proj only
  repeat' first
    | with_reducible assumption
    | with_reducible apply Kept.refl
    | with_reducible apply Kept.ite
    | with_reducible apply Kept.by' (lateFiring_k _)
    | with_reducible apply Kept.by' (snapAtFire_k _ _)
    | dsimp only
    | apply rfl
    | (with_reducible refine Kept.by' (by with_reducible assumption) ?_ ?_)
    | split
theorem snapGo_k (s : State) (a1) : Kept [.regs, .snap, .time, .ev, .stairs] s (snapGo s a1) := by
  unfold snapGo
  try dsimp -proj only
  repeat' first
    | with_reducible assumption
    | with_reducible apply Kept.refl
    | with_reducible apply Kept.ite
    | with_reducible apply Kept.by' (takeSnapshot_k _ _ _)
    | with_reducible apply Kept.by' (snapAtRun_k _)
    | dsimp only
    | apply rfl
    | (with_reducible refine Kept.by' (by with_reducible assumption) ?_ ?_)
    | split
end Sys2Proof.Machine
end

