-- ==== Sys2Proof/Laws/Frame3.lean ====
section
/-! SUPPORT. Laws/Frame3.lean: frames: channels, queues and descriptors. -/

namespace Sys2Proof.Machine
set_option linter.all false
theorem postNote_k (s : State) (a1) (a2) : Kept [.mem, .host, .ch, .slices, .out] s (postNote s a1 a2) := by
  unfold postNote
  try dsimp -proj only
  repeat' first
    | with_reducible assumption
    | with_reducible apply Kept.refl
    | with_reducible apply Kept.ite
    | with_reducible apply Kept.by' (ringFlush_k _ _ _)
    | with_reducible apply Kept.by' (chanSet_k _ _ _)
    | apply rfl
    | (with_reducible refine Kept.by' (by with_reducible assumption) ?_ ?_)
    | split
theorem chanNote_k (s : State) (a1) : Kept [.mem, .host, .ch, .slices, .out] s (chanNote s a1) := by
  unfold chanNote
  try dsimp -proj only
  repeat' first
    | with_reducible assumption
    | with_reducible apply Kept.refl
    | with_reducible apply Kept.ite
    | with_reducible apply Kept.by' (postNote_k _ _ _)
    | apply rfl
    | (with_reducible refine Kept.by' (by with_reducible assumption) ?_ ?_)
    | split
theorem chanState_k (s : State) (a1) (a2) : Kept [.mem, .host, .ch, .slices, .out] s (chanState s a1 a2) := by
  unfold chanState
  try dsimp -proj only
  repeat' first
    | with_reducible assumption
    | with_reducible apply Kept.refl
    | with_reducible apply Kept.ite
    | with_reducible apply Kept.by' (mirrorWrite_k _ _)
    | with_reducible apply Kept.by' (chanSet_k _ _ _)
    | with_reducible apply Kept.by' (chanNote_k _ _)
    | apply rfl
    | (with_reducible refine Kept.by' (by with_reducible assumption) ?_ ?_)
    | split
theorem chanError_k (s : State) (a1) (a2) (a3) : Kept [.regs, .mem, .host, .ch, .slices, .out] s (chanError s a1 a2 a3) := by
  unfold chanError
  try dsimp -proj only
  repeat' first
    | with_reducible assumption
    | with_reducible apply Kept.refl
    | with_reducible apply Kept.ite
    | with_reducible apply Kept.by' (depEnd_k _ _)
    | with_reducible apply Kept.by' (dropReads_k _ _ _)
    | with_reducible apply Kept.by' (cqRelease_k _ _ _)
    | with_reducible apply Kept.by' (chanSet_k _ _ _)
    | with_reducible apply Kept.by' (chanState_k _ _ _)
    | with_reducible apply Kept.by' (flushEnts_k _ _ _)
    | apply rfl
    | (with_reducible refine Kept.by' (by with_reducible assumption) ?_ ?_)
    | split
theorem idleCheck_k (s : State) (a1) : Kept [.mem, .host, .ch, .slices, .out] s (idleCheck s a1) := by
  unfold idleCheck
  try dsimp -proj only
  repeat' first
    | with_reducible assumption
    | with_reducible apply Kept.refl
    | with_reducible apply Kept.ite
    | with_reducible apply Kept.by' (chanNote_k _ _)
    | with_reducible apply Kept.by' (mirrorWrite_k _ _)
    | with_reducible apply Kept.by' (chanSet_k _ _ _)
    | apply rfl
    | (with_reducible refine Kept.by' (by with_reducible assumption) ?_ ?_)
    | split
theorem qpError_k (s : State) (a1) (a2) (a3) (a4) : Kept [.regs, .ev, .mem, .host, .ch, .slices, .rm, .out] s (qpError s a1 a2 a3 a4) := by
  unfold qpError
  try dsimp -proj only
  repeat' first
    | with_reducible assumption
    | with_reducible apply Kept.refl
    | with_reducible apply Kept.ite
    | with_reducible apply Kept.ite1
    | with_reducible apply Kept.ite2
    | with_reducible apply Kept.by' (chanError_k _ _ _ _)
    | with_reducible apply Kept.by' (chanUpd_k _ _ _)
    | with_reducible apply Kept.by' (idleCheck_k _ _)
    | with_reducible apply Kept.by' (finishEnt_k _ _ _ _)
    | with_reducible apply Kept.by' (unrefKeys_k _ _)
    | with_reducible apply Kept.by' (regionUnref_k _ _)
    | with_reducible apply Kept.by' (qpUpd_k _ _ _)
    | with_reducible apply Kept.by' (raiseLim_k _ _ _ _ _)
    | with_reducible apply Kept.by' (bump_k _ _ _)
    | with_reducible apply Kept.foldl
    | with_reducible apply Kept.foldl1
    | (intro _; intros)
    | apply rfl
    | (with_reducible refine Kept.by' (by with_reducible assumption) ?_ ?_)
    | split
theorem entFail_k (s : State) (a1) (a2) (a3) : Kept [.regs, .ev, .mem, .host, .ch, .slices, .rm, .out] s (entFail s a1 a2 a3) := by
  unfold entFail
  try dsimp -proj only
  repeat' first
    | with_reducible assumption
    | with_reducible apply Kept.refl
    | with_reducible apply Kept.ite
    | with_reducible apply Kept.by' (qpError_k _ _ _ _ _)
    | with_reducible apply Kept.by' (finishEnt_k _ _ _ _)
    | apply rfl
    | (with_reducible refine Kept.by' (by with_reducible assumption) ?_ ?_)
    | split
theorem laCheck_k (s : State) (a1) (a2) (a3) (a4) (a5) (a6) (a7) (a8) : Kept [.cy] s (laCheck s a1 a2 a3 a4 a5 a6 a7 a8).1 := by
  unfold laCheck
  try dsimp -proj only
  repeat' first
    | with_reducible assumption
    | with_reducible apply Kept.refl
    | with_reducible apply Kept.ite
    | with_reducible apply Kept.ite1
    | with_reducible apply Kept.by' (cyUpd_k _ _)
    | with_reducible apply Kept.by' (useSlot_k (by assumption))
    | dsimp only
    | apply rfl
    | (with_reducible refine Kept.by' (by with_reducible assumption) ?_ ?_)
    | split
theorem laStart_k (s : State) (a1) (a2) (a3) (a4) (a5) (a6) (a7) (a8) (a9) (a10) (a11) : Kept [.cy, .draws] s (laStart s a1 a2 a3 a4 a5 a6 a7 a8 a9 a10 a11) := by
  unfold laStart
  try dsimp -proj only
  repeat' first
    | with_reducible assumption
    | with_reducible apply Kept.refl
    | with_reducible apply Kept.ite
    | with_reducible apply Kept.ite1
    | with_reducible apply Kept.ite2
    | with_reducible apply Kept.by' (laCheck_k _ _ _ _ _ _ _ _ _)
    | with_reducible apply Kept.by' (Kept.eq1 (laCheck_k _ _ _ _ _ _ _ _ _) (by assumption))
    | with_reducible apply Kept.by' (pickEngine_k _)
    | with_reducible apply Kept.by' (Kept.eq2 (pickEngine_k _) (by assumption))
    | with_reducible apply Kept.by' (engineNext_k _ _)
    | with_reducible apply Kept.by' (cyUpd_k _ _)
    | apply rfl
    | (with_reducible refine Kept.by' (by with_reducible assumption) ?_ ?_)
    | split
theorem issueReads_k (s : State) (a1) : Kept [.regs, .host, .out] s (issueReads s a1) := by
  unfold issueReads
  try dsimp -proj only
  repeat' first
    | with_reducible assumption
    | with_reducible apply Kept.refl
    | with_reducible apply Kept.ite
    | with_reducible apply Kept.by' (showTags_k _ _)
    | with_reducible apply Kept.by' (issueAll_k _ _ _ _)
    | apply rfl
    | (with_reducible refine Kept.by' (by with_reducible assumption) ?_ ?_)
    | split
theorem startRead_k (s : State) (a1) (a2) (a3) (a4) (a5) (a6) (a7) : Kept [.regs, .host, .out] s (startRead s a1 a2 a3 a4 a5 a6 a7) := by
  unfold startRead
  try dsimp -proj only
  repeat' first
    | with_reducible assumption
    | with_reducible apply Kept.refl
    | with_reducible apply Kept.ite
    | with_reducible apply Kept.ite1
    | with_reducible apply Kept.ite2
    | with_reducible apply Kept.by' (issueReads_k _ _)
    | (intro _; intros)
    | dsimp only
    | apply rfl
    | (with_reducible refine Kept.by' (by with_reducible assumption) ?_ ?_)
    | split
    | with_reducible apply Kept.set_host
theorem sliceRead_k (s : State) (a1) (a2) (a3) (a4) (a5) : Kept [.regs, .host, .out] s (sliceRead s a1 a2 a3 a4 a5) := by
  unfold sliceRead
  try dsimp -proj only
  repeat' first
    | with_reducible assumption
    | with_reducible apply Kept.refl
    | with_reducible apply Kept.ite
    | with_reducible apply Kept.by' (startRead_k _ _ _ _ _ _ _ _)
    | dsimp only
    | apply rfl
    | (with_reducible refine Kept.by' (by with_reducible assumption) ?_ ?_)
    | split
    | with_reducible apply Kept.set_host
theorem startPayload_k (s : State) (a1) (a2) (a3) (a4) : Kept [.regs, .ev, .mem, .host, .ch, .slices, .land, .rm, .out] s (startPayload s a1 a2 a3 a4) := by
  unfold startPayload
  try dsimp -proj only
  repeat' first
    | with_reducible assumption
    | with_reducible apply Kept.refl
    | with_reducible apply Kept.ite
    | with_reducible apply Kept.ite1
    | with_reducible apply Kept.ite2
    | with_reducible apply Kept.by' (sliceRead_k _ _ _ _ _ _)
    | with_reducible apply Kept.by' (entFail_k _ _ _ _)
    | with_reducible apply Kept.by' (entUpd_k _ _ _ _)
    | with_reducible apply Kept.by' (payloadArrived_k _ _ _ _ _)
    | with_reducible apply Kept.foldl
    | with_reducible apply Kept.foldl1
    | (intro _; intros)
    | with_reducible apply Kept.getD
    | dsimp only
    | apply rfl
    | (with_reducible refine Kept.by' (by with_reducible assumption) ?_ ?_)
    | split
theorem elemsKnown_k (s : State) (a1) (a2) (a3) : Kept [.regs, .ev, .mem, .host, .ch, .slices, .land, .rm, .out] s (elemsKnown s a1 a2 a3) := by
  unfold elemsKnown
  try dsimp -proj only
  repeat' first
    | with_reducible assumption
    | with_reducible apply Kept.refl
    | with_reducible apply Kept.ite
    | with_reducible apply Kept.by' (entFail_k _ _ _ _)
    | with_reducible apply Kept.by' (entUpd_k _ _ _ _)
    | with_reducible apply Kept.by' (startPayload_k _ _ _ _ _)
    | apply rfl
    | (with_reducible refine Kept.by' (by with_reducible assumption) ?_ ?_)
    | split
theorem entStart_k (s : State) (a1) (a2) : Kept [.regs, .ev, .mem, .host, .ch, .slices, .land, .cy, .rm, .out, .draws] s (entStart s a1 a2) := by
  unfold entStart
  try dsimp -proj only
  repeat' first
    | with_reducible assumption
    | with_reducible apply Kept.refl
    | with_reducible apply Kept.ite
    | with_reducible apply Kept.by' (laStart_k _ _ _ _ _ _ _ _ _ _ _ _)
    | with_reducible apply Kept.by' (sliceRead_k _ _ _ _ _ _)
    | with_reducible apply Kept.by' (entFail_k _ _ _ _)
    | with_reducible apply Kept.by' (entUpd_k _ _ _ _)
    | with_reducible apply Kept.by' (elemsKnown_k _ _ _ _)
    | (intro _; intros)
    | dsimp only
    | apply rfl
    | (with_reducible refine Kept.by' (by with_reducible assumption) ?_ ?_)
    | split
theorem entTake_k (s : State) (a1) (a2) (a3) : Kept [.regs, .ev, .mem, .host, .ch, .slices, .land, .cy, .rm, .out, .draws] s (entTake s a1 a2 a3) := by
  unfold entTake
  try dsimp -proj only
  repeat' first
    | with_reducible assumption
    | with_reducible apply Kept.refl
    | with_reducible apply Kept.ite
    | with_reducible apply Kept.by' (chanSet_k _ _ _)
    | with_reducible apply Kept.by' (mirrorWrite_k _ _)
    | with_reducible apply Kept.by' (finishEnt_k _ _ _ _)
    | with_reducible apply Kept.by' (entFail_k _ _ _ _)
    | with_reducible apply Kept.by' (entStart_k _ _ _)
    | with_reducible apply Kept.by' (depTake_k _)
    | (intro _; intros)
    | dsimp only
    | apply rfl
    | (with_reducible refine Kept.by' (by with_reducible assumption) ?_ ?_)
    | split
theorem descArrive_k (s : State) (a1) : Kept [.regs, .ev, .mem, .host, .ch, .slices, .land, .cy, .rm, .out, .draws] s (descArrive s a1) := by
  unfold descArrive
  try dsimp -proj only
  repeat' first
    | with_reducible assumption
    | with_reducible apply Kept.refl
    | with_reducible apply Kept.ite
    | with_reducible apply Kept.by' (qpError_k _ _ _ _ _)
    | with_reducible apply Kept.by' (chanError_k _ _ _ _)
    | with_reducible apply Kept.by' (entTake_k _ _ _ _)
    | exact fun h => aset_rising _ _ h
    | exact fun h => filter_rising _ h
    | exact fun h => h
    | exact fun h => memPuts_wf h
    | exact fun h => memClear_wf h
    | exact memPuts_wf (by assumption)
    | exact memClear_wf (by assumption)
    | exact fun h => filter_wf _ h
    | exact fun h => h
    | apply rfl
    | (with_reducible refine Kept.by' (by with_reducible assumption) ?_ ?_)
    | split
    | with_reducible apply Kept.set_regs
    | with_reducible apply Kept.set_ev
    | with_reducible apply Kept.set_mem
    | with_reducible apply Kept.set_host
    | with_reducible apply Kept.set_ch
    | with_reducible apply Kept.set_slices
    | with_reducible apply Kept.set_land
    | with_reducible apply Kept.set_cy
    | with_reducible apply Kept.set_rm
    | with_reducible apply Kept.set_out
    | with_reducible apply Kept.set_draws
    | (refine Kept.of ⟨fun p hp => ?_⟩ rfl rfl rfl (congrArg AccSt.own rfl); cases p <;> first | rfl | cases hp)
theorem cqNotify_k (s : State) (a1) : Kept [.mem, .host, .ch, .slices, .out] s (cqNotify s a1) := by
  unfold cqNotify
  try dsimp -proj only
  repeat' first
    | with_reducible assumption
    | with_reducible apply Kept.refl
    | with_reducible apply Kept.ite
    | with_reducible apply Kept.by' (postNote_k _ _ _)
    | with_reducible apply Kept.by' (chanSet_k _ _ _)
    | apply rfl
    | (with_reducible refine Kept.by' (by with_reducible assumption) ?_ ?_)
    | split
theorem cqWrite_k (s : State) (a1) (a2) : Kept [.mem, .host, .ch, .slices, .out] s (cqWrite s a1 a2) := by
  unfold cqWrite
  try dsimp -proj only
  repeat' first
    | with_reducible assumption
    | with_reducible apply Kept.refl
    | with_reducible apply Kept.ite
    | with_reducible apply Kept.by' (slWrite_k _ _ _ _ _)
    | with_reducible apply Kept.by' (cqNotify_k _ _)
    | with_reducible apply Kept.by' (mirrorWrite_k _ _)
    | with_reducible apply Kept.by' (chanSet_k _ _ _)
    | apply rfl
    | (with_reducible refine Kept.by' (by with_reducible assumption) ?_ ?_)
    | split
theorem writeHead_k (s : State) (a1) : Kept [.mem, .host, .ch, .slices, .out] s (writeHead s a1) := by
  unfold writeHead
  try dsimp -proj only
  repeat' first
    | with_reducible assumption
    | with_reducible apply Kept.refl
    | with_reducible apply Kept.ite
    | with_reducible apply Kept.by' (chanSet_k _ _ _)
    | with_reducible apply Kept.by' (cqRelease_k _ _ _)
    | with_reducible apply Kept.by' (cqWrite_k _ _ _)
    | with_reducible apply Kept.by' (idleCheck_k _ _)
    | apply rfl
    | (with_reducible refine Kept.by' (by with_reducible assumption) ?_ ?_)
    | split
theorem adminComplete_k (s : State) (a1) (a2) (a3) (a4) : Kept [.mem, .host, .ch, .slices, .out] s (adminComplete s a1 a2 a3 a4) := by
  unfold adminComplete
  try dsimp -proj only
  repeat' first
    | with_reducible assumption
    | with_reducible apply Kept.refl
    | with_reducible apply Kept.ite
    | with_reducible apply Kept.by' (adminEnt_k _ _ _)
    | with_reducible apply Kept.by' (writeHead_k _ _)
    | apply rfl
    | (with_reducible refine Kept.by' (by with_reducible assumption) ?_ ?_)
    | split
theorem reclaimCheck_k (s : State) : Kept [.regs, .ev, .mem, .host, .ch, .slices, .out, .draws] s (reclaimCheck s) := by
  unfold reclaimCheck
  try dsimp -proj only
  repeat' first
    | with_reducible assumption
    | with_reducible apply Kept.refl
    | with_reducible apply Kept.ite
    | with_reducible apply Kept.ite1
    | with_reducible apply Kept.ite2
    | with_reducible apply Kept.by' (raise_k _ _ _)
    | with_reducible apply Kept.by' (adminComplete_k _ _ _ _ _)
    | with_reducible apply Kept.foldl
    | with_reducible apply Kept.foldl1
    | (intro _; intros)
    | exact fun h => aset_rising _ _ h
    | exact fun h => filter_rising _ h
    | exact fun h => h
    | exact fun h => memPuts_wf h
    | exact fun h => memClear_wf h
    | exact memPuts_wf (by assumption)
    | exact memClear_wf (by assumption)
    | exact fun h => filter_wf _ h
    | exact fun h => h
    | apply rfl
    | (with_reducible refine Kept.by' (by with_reducible assumption) ?_ ?_)
    | split
    | with_reducible apply Kept.set_regs
    | with_reducible apply Kept.set_ev
    | with_reducible apply Kept.set_mem
    | with_reducible apply Kept.set_host
    | with_reducible apply Kept.set_ch
    | with_reducible apply Kept.set_slices
    | with_reducible apply Kept.set_out
    | with_reducible apply Kept.set_draws
    | (refine Kept.of ⟨fun p hp => ?_⟩ rfl rfl rfl (congrArg AccSt.own rfl); cases p <;> first | rfl | cases hp)
theorem adminWake_k (s : State) (a1) (a2) (a3) : Kept [.mem, .host, .ch, .slices, .out] s (adminWake s a1 a2 a3) := by
  unfold adminWake
  try dsimp -proj only
  repeat' first
    | with_reducible assumption
    | with_reducible apply Kept.refl
    | with_reducible apply Kept.ite
    | with_reducible apply Kept.ite1
    | with_reducible apply Kept.ite2
    | with_reducible apply Kept.by' (adminComplete_k _ _ _ _ _)
    | with_reducible apply Kept.foldl
    | with_reducible apply Kept.foldl1
    | (intro _; intros)
    | exact fun h => memPuts_wf h
    | exact fun h => memClear_wf h
    | exact memPuts_wf (by assumption)
    | exact memClear_wf (by assumption)
    | exact fun h => filter_wf _ h
    | exact fun h => h
    | apply rfl
    | (with_reducible refine Kept.by' (by with_reducible assumption) ?_ ?_)
    | split
    | with_reducible apply Kept.set_mem
    | with_reducible apply Kept.set_host
    | with_reducible apply Kept.set_ch
    | with_reducible apply Kept.set_slices
    | with_reducible apply Kept.set_out
    | (refine Kept.of ⟨fun p hp => ?_⟩ rfl rfl rfl (congrArg AccSt.own rfl); cases p <;> first | rfl | cases hp)
theorem drainCheck_k (s : State) (a1) : Kept [.regs, .ev, .mem, .host, .ch, .slices, .rm, .out, .draws] s (drainCheck s a1) := by
  unfold drainCheck
  try dsimp -proj only
  repeat' first
    | with_reducible assumption
    | with_reducible apply Kept.refl
    | with_reducible apply Kept.ite
    | with_reducible apply Kept.by' (reclaimCheck_k _)
    | with_reducible apply Kept.by' (adminWake_k _ _ _ _)
    | with_reducible apply Kept.by' (chanGone_k _ _)
    | with_reducible apply Kept.by' (mirrorWrite_k _ _)
    | with_reducible apply Kept.by' (chanSet_k _ _ _)
    | with_reducible apply Kept.by' (chanNote_k _ _)
    | with_reducible apply Kept.by' (qpReset_k _ _)
    | apply rfl
    | (with_reducible refine Kept.by' (by with_reducible assumption) ?_ ?_)
    | split
theorem resetChan_k (s : State) (a1) (a2) : Kept [.regs, .ev, .mem, .host, .ch, .slices, .rm, .out, .draws] s (resetChan s a1 a2) := by
  unfold resetChan
  try dsimp -proj only
  repeat' first
    | with_reducible assumption
    | with_reducible apply Kept.refl
    | with_reducible apply Kept.ite
    | with_reducible apply Kept.by' (dropReads_k _ _ _)
    | with_reducible apply Kept.by' (cqRelease_k _ _ _)
    | with_reducible apply Kept.by' (chanUpd_k _ _ _)
    | with_reducible apply Kept.by' (drainCheck_k _ _)
    | with_reducible apply Kept.by' (chanState_k _ _ _)
    | with_reducible apply Kept.by' (flushEnts_k _ _ _)
    | apply rfl
    | (with_reducible refine Kept.by' (by with_reducible assumption) ?_ ?_)
    | split
theorem chanReclaim_k (s : State) (a1) : Kept [.regs, .ev, .mem, .host, .ch, .slices, .rm, .out, .draws] s (chanReclaim s a1) := by
  unfold chanReclaim
  try dsimp -proj only
  repeat' first
    | with_reducible assumption
    | with_reducible apply Kept.refl
    | with_reducible apply Kept.ite
    | with_reducible apply Kept.by' (resetChan_k _ _ _)
    | with_reducible apply Kept.by' (qpError_k _ _ _ _ _)
    | apply rfl
    | (with_reducible refine Kept.by' (by with_reducible assumption) ?_ ?_)
    | split
theorem chanDisable_k (s : State) (a1) : Kept [.regs, .mem, .host, .ch, .slices, .out] s (chanDisable s a1) := by
  unfold chanDisable
  try dsimp -proj only
  repeat' first
    | with_reducible assumption
    | with_reducible apply Kept.refl
    | with_reducible apply Kept.ite
    | with_reducible apply Kept.by' (chanState_k _ _ _)
    | with_reducible apply Kept.by' (idleCheck_k _ _)
    | with_reducible apply Kept.by' (flushIdle_k _ _)
    | with_reducible apply Kept.by' (fetchCut_k _ _)
    | (intro _; intros)
    | dsimp only
    | apply rfl
    | (with_reducible refine Kept.by' (by with_reducible assumption) ?_ ?_)
    | split
theorem samplePidx_k (s : State) (a1) : Kept [.regs, .mem, .host, .ch, .slices, .out] s (samplePidx s a1).1 := by
  unfold samplePidx
  try dsimp -proj only
  repeat' first
    | with_reducible assumption
    | with_reducible apply Kept.refl
    | with_reducible apply Kept.ite
    | with_reducible apply Kept.ite1
    | with_reducible apply Kept.by' (chanError_k _ _ _ _)
    | with_reducible apply Kept.by' (chanSet_k _ _ _)
    | dsimp only
    | apply rfl
    | (with_reducible refine Kept.by' (by with_reducible assumption) ?_ ?_)
    | split
theorem chanEnable_k (s : State) (a1) : Kept [.regs, .mem, .host, .ch, .slices, .out] s (chanEnable s a1) := by
  unfold chanEnable
  try dsimp -proj only
  repeat' first
    | with_reducible assumption
    | with_reducible apply Kept.refl
    | with_reducible apply Kept.ite
    | with_reducible apply Kept.ite1
    | with_reducible apply Kept.by' (chanState_k _ _ _)
    | with_reducible apply Kept.by' (samplePidx_k _ _)
    | with_reducible apply Kept.by' (Kept.eq1 (samplePidx_k _ _) (by assumption))
    | with_reducible apply Kept.by' (ringBack_k _ _)
    | dsimp only
    | apply rfl
    | (with_reducible refine Kept.by' (by with_reducible assumption) ?_ ?_)
    | split
theorem heldRun_k (s : State) (a1) (a2) : Kept [.regs, .ev, .mem, .host, .ch, .slices, .rm, .out, .draws] s (heldRun s a1 a2) := by
  unfold heldRun
  try dsimp -proj only
  repeat' first
    | with_reducible assumption
    | with_reducible apply Kept.refl
    | with_reducible apply Kept.ite
    | with_reducible apply Kept.by' (chanDisable_k _ _)
    | with_reducible apply Kept.by' (chanEnable_k _ _)
    | with_reducible apply Kept.by' (resetChan_k _ _ _)
    | apply rfl
    | (with_reducible refine Kept.by' (by with_reducible assumption) ?_ ?_)
    | split
theorem readDue_k (s : State) (a1) : Kept [.regs, .ev, .mem, .host, .ch, .slices, .land, .rm, .out] s (readDue s a1) := by
  unfold readDue
  try dsimp -proj only
  repeat' first
    | with_reducible assumption
    | with_reducible apply Kept.refl
    | with_reducible apply Kept.ite
    | with_reducible apply Kept.by' (entFail_k _ _ _ _)
    | with_reducible apply Kept.by' (elemsKnown_k _ _ _ _)
    | with_reducible apply Kept.by' (payloadArrived_k _ _ _ _ _)
    | with_reducible apply Kept.by' (peerAnswer_k _ _ _ _ _ _)
    | exact fun h => aset_rising _ _ h
    | exact fun h => filter_rising _ h
    | exact fun h => h
    | exact fun h => memPuts_wf h
    | exact fun h => memClear_wf h
    | exact memPuts_wf (by assumption)
    | exact memClear_wf (by assumption)
    | exact fun h => filter_wf _ h
    | exact fun h => h
    | apply rfl
    | (with_reducible refine Kept.by' (by with_reducible assumption) ?_ ?_)
    | split
    | with_reducible apply Kept.set_regs
    | with_reducible apply Kept.set_ev
    | with_reducible apply Kept.set_mem
    | with_reducible apply Kept.set_host
    | with_reducible apply Kept.set_ch
    | with_reducible apply Kept.set_slices
    | with_reducible apply Kept.set_land
    | with_reducible apply Kept.set_rm
    | with_reducible apply Kept.set_out
    | (refine Kept.of ⟨fun p hp => ?_⟩ rfl rfl rfl (congrArg AccSt.own rfl); cases p <;> first | rfl | cases hp)
theorem readPiece_k (s : State) (a1) (a2) (a3) : Kept [.regs, .ev, .mem, .host, .ch, .slices, .land, .rm, .out] s (readPiece s a1 a2 a3) := by
  unfold readPiece
  try dsimp -proj only
  repeat' first
    | with_reducible assumption
    | with_reducible apply Kept.refl
    | with_reducible apply Kept.ite
    | with_reducible apply Kept.by' (tagFree_k _ _ _)
    | with_reducible apply Kept.by' (bump_k _ _ _)
    | with_reducible apply Kept.by' (readDue_k _ _)
    | exact fun h => aset_rising _ _ h
    | exact fun h => filter_rising _ h
    | exact fun h => h
    | exact fun h => memPuts_wf h
    | exact fun h => memClear_wf h
    | exact memPuts_wf (by assumption)
    | exact memClear_wf (by assumption)
    | exact fun h => filter_wf _ h
    | exact fun h => h
    | apply rfl
    | (with_reducible refine Kept.by' (by with_reducible assumption) ?_ ?_)
    | split
    | with_reducible apply Kept.set_regs
    | with_reducible apply Kept.set_ev
    | with_reducible apply Kept.set_mem
    | with_reducible apply Kept.set_host
    | with_reducible apply Kept.set_ch
    | with_reducible apply Kept.set_slices
    | with_reducible apply Kept.set_land
    | with_reducible apply Kept.set_rm
    | with_reducible apply Kept.set_out
    | (refine Kept.of ⟨fun p hp => ?_⟩ rfl rfl rfl (congrArg AccSt.own rfl); cases p <;> first | rfl | cases hp)
theorem readFail_k (s : State) (a1) (a2) : Kept [.regs, .ev, .mem, .host, .ch, .slices, .land, .rm, .out, .draws] s (readFail s a1 a2) := by
  unfold readFail
  try dsimp -proj only
  repeat' first
    | with_reducible assumption
    | with_reducible apply Kept.refl
    | with_reducible apply Kept.ite
    | with_reducible apply Kept.by' (readErr_k _ _ _ _)
    | with_reducible apply Kept.by' (readDue_k _ _)
    | (intro _; intros)
    | dsimp only
    | apply rfl
    | (with_reducible refine Kept.by' (by with_reducible assumption) ?_ ?_)
    | split
    | with_reducible apply Kept.set_host
theorem resetOrHold_k (s : State) (a1) : Kept [.regs, .ev, .mem, .host, .ch, .slices, .rm, .out, .draws] s (resetOrHold s a1) := by
  unfold resetOrHold
  try dsimp -proj only
  repeat' first
    | with_reducible assumption
    | with_reducible apply Kept.refl
    | with_reducible apply Kept.ite
    | with_reducible apply Kept.by' (chanSet_k _ _ _)
    | with_reducible apply Kept.by' (resetChan_k _ _ _)
    | apply rfl
    | (with_reducible refine Kept.by' (by with_reducible assumption) ?_ ?_)
    | split
theorem aqDisable_k (s : State) (a1) : Kept [.regs, .ev, .mem, .host, .ch, .slices, .rm, .out, .draws] s (aqDisable s a1) := by
  unfold aqDisable
  try dsimp -proj only
  repeat' first
    | with_reducible assumption
    | with_reducible apply Kept.refl
    | with_reducible apply Kept.ite
    | with_reducible apply Kept.by' (wrF_k _ _ _ _ _)
    | with_reducible apply Kept.by' (resetChan_k _ _ _)
    | apply rfl
    | (with_reducible refine Kept.by' (by with_reducible assumption) ?_ ?_)
    | split
theorem sliceReset_k (s : State) (a1) (a2) : Kept [.regs, .ev, .mem, .host, .ch, .slices, .out] s (sliceReset s a1 a2) := by
  unfold sliceReset
  try dsimp -proj only
  repeat' first
    | with_reducible assumption
    | with_reducible apply Kept.refl
    | with_reducible apply Kept.ite
    | with_reducible apply Kept.by' (raisePhase_k _ _ _ _)
    | with_reducible apply Kept.by' (adminWake_k _ _ _ _)
    | with_reducible apply Kept.by' (thawEvent_k _ _ _ _)
    | dsimp only
    | apply rfl
    | (with_reducible refine Kept.by' (by with_reducible assumption) ?_ ?_)
    | split
    | with_reducible apply Kept.set_slices
theorem slCtlWrite_k (s : State) (a1) (a2) : Kept [.regs, .ev, .mem, .host, .ch, .slices, .rm, .out, .draws] s (slCtlWrite s a1 a2) := by
  unfold slCtlWrite
  try dsimp -proj only
  repeat' first
    | with_reducible assumption
    | with_reducible apply Kept.refl
    | with_reducible apply Kept.ite
    | with_reducible apply Kept.by' (sliceReset_k _ _ _)
    | with_reducible apply Kept.by' (aqEnable_k _ _)
    | with_reducible apply Kept.by' (aqDisable_k _ _)
    | dsimp only
    | apply rfl
    | (with_reducible refine Kept.by' (by with_reducible assumption) ?_ ?_)
    | split
theorem fetchEnts_k (s : State) (a1) : Kept [.regs, .ev, .host, .ch, .rm, .out] s (fetchEnts s a1) := by
  unfold fetchEnts
  try dsimp -proj only
  repeat' first
    | with_reducible assumption
    | with_reducible apply Kept.refl
    | with_reducible apply Kept.ite
    | with_reducible apply Kept.ite1
    | with_reducible apply Kept.ite2
    | with_reducible apply Kept.by' (chanUpd_k _ _ _)
    | with_reducible apply Kept.by' (qpTouch_k _ _)
    | with_reducible apply Kept.by' (Kept.eq1 (qpTouch_k _ _) (by assumption))
    | with_reducible apply Kept.by' (sliceRead_k _ _ _ _ _ _)
    | (intro _; intros)
    | dsimp only
    | apply rfl
    | (with_reducible refine Kept.by' (by with_reducible assumption) ?_ ?_)
    | split
theorem laneCtlWrite_k (s : State) (a1) (a2) (a3) : Kept [.regs, .cy, .draws] s (laneCtlWrite s a1 a2 a3) := by
  unfold laneCtlWrite
  try dsimp -proj only
  repeat' first
    | with_reducible assumption
    | with_reducible apply Kept.refl
    | with_reducible apply Kept.ite
    | with_reducible apply Kept.by' (laneOverrun_k _ _ _)
    | with_reducible apply Kept.by' (plainWrite_k _ _ _ _)
    | with_reducible apply Kept.by' (wrF_k _ _ _ _ _)
    | with_reducible apply Kept.by' (laStart_k _ _ _ _ _ _ _ _ _ _ _ _)
    | apply rfl
    | (with_reducible refine Kept.by' (by with_reducible assumption) ?_ ?_)
    | split
theorem lnEffect_k (s : State) (a1) (a2) (a3) (a4) (a5) : Kept [.regs, .cy, .draws] s (lnEffect s a1 a2 a3 a4 a5) := by
  unfold lnEffect
  try dsimp -proj only
  repeat' first
    | with_reducible assumption
    | with_reducible apply Kept.refl
    | with_reducible apply Kept.ite
    | with_reducible apply Kept.by' (laneCtlWrite_k _ _ _ _)
    | with_reducible apply Kept.by' (regStore_k _ _ _)
    | with_reducible apply Kept.by' (laneOverrun_k _ _ _)
    | apply rfl
    | (with_reducible refine Kept.by' (by with_reducible assumption) ?_ ?_)
    | split
theorem slEffect_k (s : State) (a1) (a2) (a3) (a4) : Kept [.regs, .ev, .mem, .host, .ch, .slices, .rm, .out, .draws] s (slEffect s a1 a2 a3 a4) := by
  unfold slEffect
  try dsimp -proj only
  repeat' first
    | with_reducible assumption
    | with_reducible apply Kept.refl
    | with_reducible apply Kept.ite
    | with_reducible apply Kept.by' (slCtlWrite_k _ _ _)
    | with_reducible apply Kept.by' (regStore_k _ _ _)
    | apply rfl
    | (with_reducible refine Kept.by' (by with_reducible assumption) ?_ ?_)
    | split
theorem warmReset_k (s : State) (a1) : Kept [.regs, .snap, .time, .acc, .ev, .mem, .host, .ch, .slices, .net, .stairs, .golden, .lpm, .sheaf, .land, .unit, .tils, .tm, .oz, .cy, .rm, .sv, .out] s (warmReset s a1) := by
  unfold warmReset
  try dsimp -proj only
  repeat' first
    | with_reducible assumption
    | with_reducible apply Kept.refl
    | with_reducible apply Kept.ite
    | with_reducible apply Kept.ite1
    | with_reducible apply Kept.by' (ozUpd_k _ _ ?_)
    | with_reducible apply Kept.by' (startCommon_k _ _)
    | with_reducible apply Kept.by' (emit_k _ _)
    | with_reducible apply Kept.by' (wrN_k _ _ _)
    | with_reducible apply Kept.by' (wrF_k _ _ _ _ _)
    | with_reducible apply Kept.by' (resetPins_k _ _)
    | with_reducible apply Kept.by' (resetLines_k _ _)
    | with_reducible apply Kept.foldl
    | with_reducible apply Kept.foldl1
    | (intro _; intros)
    | exact fun h => aset_rising _ _ h
    | exact fun h => filter_rising _ h
    | exact fun h => h
    | exact fun h => memPuts_wf h
    | exact fun h => memClear_wf h
    | exact memPuts_wf (by assumption)
    | exact memClear_wf (by assumption)
    | exact fun h => filter_wf _ h
    | exact fun h => h
    | exact OzLe.same rfl rfl rfl
    | (refine ⟨⟨fun p hp => ?_⟩, fun h => filter_rising _ h, fun h => filter_wf _ h, ⟨Nat.le_refl _, id, Nat.le_refl _, id⟩, fun _ => rfl⟩; cases p <;> first | rfl | cases hp)
    | apply rfl
    | (with_reducible refine Kept.by' (by with_reducible assumption) ?_ ?_)
    | split
    | with_reducible apply Kept.set_regs
    | with_reducible apply Kept.set_snap
    | with_reducible apply Kept.set_time
    | with_reducible apply Kept.set_acc
    | exact fun h => h
    | exact fun _ => rfl
    | assumption
    | with_reducible apply Kept.set_mem
    | with_reducible apply Kept.set_host
    | with_reducible apply Kept.set_ch
    | with_reducible apply Kept.set_slices
    | with_reducible apply Kept.set_net
    | with_reducible apply Kept.set_stairs
    | with_reducible apply Kept.set_golden
    | with_reducible apply Kept.set_lpm
    | with_reducible apply Kept.set_sheaf
    | with_reducible apply Kept.set_land
    | with_reducible apply Kept.set_unit
    | with_reducible apply Kept.set_tils
    | with_reducible apply Kept.set_tm
    | with_reducible apply Kept.set_oz
    | with_reducible apply Kept.set_cy
    | with_reducible apply Kept.set_rm
    | with_reducible apply Kept.set_sv
    | with_reducible apply Kept.set_out
    | (refine Kept.of ⟨fun p hp => ?_⟩ rfl rfl rfl (congrArg AccSt.own rfl); cases p <;> first | rfl | cases hp)
theorem glEffect_k (s : State) (a1) (a2) (a3) : Kept [.regs, .snap, .time, .acc, .ev, .mem, .host, .ch, .slices, .net, .stairs, .golden, .lpm, .sheaf, .land, .unit, .tils, .tm, .oz, .cy, .rm, .sv, .out] s (glEffect s a1 a2 a3) := by
  unfold glEffect
  try dsimp -proj only
  repeat' first
    | with_reducible assumption
    | with_reducible apply Kept.refl
    | with_reducible apply Kept.ite
    | with_reducible apply Kept.by' (badAccess_k _ _ _)
    | with_reducible apply Kept.by' (loCommit_k _ _ _)
    | with_reducible apply Kept.by' (warmReset_k _ _)
    | with_reducible apply Kept.by' (unlockWrite_k _ _ _)
    | with_reducible apply Kept.by' (snapGo_k _ _)
    | with_reducible apply Kept.by' (snapAtCtl_k _ _)
    | with_reducible apply Kept.by' (regStore_k _ _ _)
    | dsimp only
    | apply rfl
    | (with_reducible refine Kept.by' (by with_reducible assumption) ?_ ?_)
    | split
theorem cmdInsert_k (s : State) (a1) (a2) : Kept [.regs, .ev, .stairs, .lpm, .land] s (cmdInsert s a1 a2).1 := by
  unfold cmdInsert
  try dsimp -proj only
  repeat' first
    | with_reducible assumption
    | with_reducible apply Kept.refl
    | with_reducible apply Kept.ite
    | with_reducible apply Kept.ite1
    | with_reducible apply Kept.ite2
    | with_reducible apply Kept.by' (bump_k _ _ _)
    | with_reducible apply Kept.by' (tblFull_k _ _ _)
    | with_reducible apply Kept.by' (gleanPut_k (by assumption))
    | with_reducible apply Kept.by' (addEntry_k _ _ _ _)
    | with_reducible apply Kept.by' (Kept.eq1 (addEntry_k _ _ _ _) (by assumption))
    | dsimp only
    | apply rfl
    | (with_reducible refine Kept.by' (by with_reducible assumption) ?_ ?_)
    | split
theorem completeHead_k (s : State) (a1) : Kept [.regs, .ev, .mem, .host, .ch, .slices, .rm, .out, .draws] s (completeHead s a1) := by
  unfold completeHead
  try dsimp -proj only
  repeat' first
    | with_reducible assumption
    | with_reducible apply Kept.refl
    | with_reducible apply Kept.ite
    | with_reducible apply Kept.by' (drainCheck_k _ _)
    | with_reducible apply Kept.by' (writeHead_k _ _)
    | apply rfl
    | (with_reducible refine Kept.by' (by with_reducible assumption) ?_ ?_)
    | split
theorem ringPage_k (s : State) (a1) (a2) (a3) : Kept [.regs, .mem, .host, .ch, .slices, .out] s (ringPage s a1 a2 a3) := by
  unfold ringPage
  try dsimp -proj only
  repeat' first
    | with_reducible assumption
    | with_reducible apply Kept.refl
    | with_reducible apply Kept.ite
    | with_reducible apply Kept.ite1
    | with_reducible apply Kept.ite2
    | with_reducible apply Kept.by' (samplePidx_k _ _)
    | with_reducible apply Kept.by' (Kept.eq1 (samplePidx_k _ _) (by assumption))
    | with_reducible apply Kept.foldl
    | with_reducible apply Kept.foldl1
    | (intro _; intros)
    | exact fun h => aset_rising _ _ h
    | exact fun h => filter_rising _ h
    | exact fun h => h
    | exact fun h => memPuts_wf h
    | exact fun h => memClear_wf h
    | exact memPuts_wf (by assumption)
    | exact memClear_wf (by assumption)
    | exact fun h => filter_wf _ h
    | exact fun h => h
    | apply rfl
    | (with_reducible refine Kept.by' (by with_reducible assumption) ?_ ?_)
    | split
    | with_reducible apply Kept.set_regs
    | with_reducible apply Kept.set_mem
    | with_reducible apply Kept.set_host
    | with_reducible apply Kept.set_ch
    | with_reducible apply Kept.set_slices
    | with_reducible apply Kept.set_out
    | (refine Kept.of ⟨fun p hp => ?_⟩ rfl rfl rfl (congrArg AccSt.own rfl); cases p <;> first | rfl | cases hp)
theorem ringError_k (s : State) (a1) (a2) : Kept [.regs, .ev, .mem, .host, .ch, .slices, .stairs, .sheaf, .out] s (ringError s a1 a2) := by
  unfold ringError
  try dsimp -proj only
  repeat' first
    | with_reducible assumption
    | with_reducible apply Kept.refl
    | with_reducible apply Kept.ite
    | with_reducible apply Kept.by' (chanError_k _ _ _ _)
    | with_reducible apply Kept.by' (rhEnd_k _ _)
    | apply rfl
    | (with_reducible refine Kept.by' (by with_reducible assumption) ?_ ?_)
    | split
theorem sliceFault_k (s : State) (a1) (a2) : Kept [.regs, .ev, .mem, .host, .ch, .slices, .stairs, .sheaf, .rm, .out] s (sliceFault s a1 a2) := by
  unfold sliceFault
  try dsimp -proj only
  repeat' first
    | with_reducible assumption
    | with_reducible apply Kept.refl
    | with_reducible apply Kept.ite
    | with_reducible apply Kept.ite1
    | with_reducible apply Kept.ite2
    | with_reducible apply Kept.by' (raise_k _ _ _)
    | with_reducible apply Kept.by' (adminWake_k _ _ _ _)
    | with_reducible apply Kept.by' (ringError_k _ _ _)
    | with_reducible apply Kept.by' (qpError_k _ _ _ _ _)
    | with_reducible apply Kept.by' (thawEvent_k _ _ _ _)
    | with_reducible apply Kept.foldl
    | with_reducible apply Kept.foldl1
    | (intro _; intros)
    | dsimp only
    | apply rfl
    | (with_reducible refine Kept.by' (by with_reducible assumption) ?_ ?_)
    | split
    | with_reducible apply Kept.set_slices
theorem reclaim_k (s : State) (a1) (a2) (a3) : Kept [.regs, .ev, .mem, .host, .ch, .slices, .land, .rm, .out, .draws] s (reclaim s a1 a2 a3).1 := by
  unfold reclaim
  try dsimp -proj only
  repeat' first
    | with_reducible assumption
    | with_reducible apply Kept.refl
    | with_reducible apply Kept.ite
    | with_reducible apply Kept.ite1
    | with_reducible apply Kept.ite2
    | with_reducible apply Kept.by' (nodeUpd_k _ _ _ _)
    | with_reducible apply Kept.by' (revoke_k _ _)
    | with_reducible apply Kept.by' (regionGone_k _ _)
    | with_reducible apply Kept.by' (chanReclaim_k _ _)
    | with_reducible apply Kept.foldl
    | with_reducible apply Kept.foldl1
    | (intro _; intros)
    | with_reducible apply Kept.getD
    | dsimp only
    | apply rfl
    | (with_reducible refine Kept.by' (by with_reducible assumption) ?_ ?_)
    | split
theorem puntPkt_k (s : State) (a1) (a2) (a3) (a4) : Kept [.regs, .ev, .mem, .ch, .land, .tils, .rm] s (puntPkt s a1 a2 a3 a4).1 := by
  unfold puntPkt
  try dsimp -proj only
  repeat' first
    | with_reducible assumption
    | with_reducible apply Kept.refl
    | with_reducible apply Kept.ite
    | with_reducible apply Kept.ite1
    | with_reducible apply Kept.by' (punt_k (by assumption))
    | with_reducible apply Kept.by' (endAt_k _ _ _)
    | with_reducible apply Kept.by' (raiseLim_k _ _ _ _ _)
    | with_reducible apply Kept.by' (bump_k _ _ _)
    | dsimp only
    | apply rfl
    | (with_reducible refine Kept.by' (by with_reducible assumption) ?_ ?_)
    | split
theorem disposeIn_k (s : State) (a1) (a2) (a3) : Kept [.regs, .time, .ev, .mem, .ch, .net, .land, .tils, .rm, .out] s (disposeIn s a1 a2 a3).1 := by
  unfold disposeIn
  try dsimp -proj only
  repeat' first
    | with_reducible assumption
    | with_reducible apply Kept.refl
    | with_reducible apply Kept.ite
    | with_reducible apply Kept.ite1
    | with_reducible apply Kept.by' (fmtCount_k _ _)
    | with_reducible apply Kept.by' (admitPkt_k _ _)
    | with_reducible apply Kept.by' (puntPkt_k _ _ _ _ _)
    | with_reducible apply Kept.by' (Kept.eq1 (puntPkt_k _ _ _ _ _) (by assumption))
    | with_reducible apply Kept.by' (endPkt_k _ _)
    | dsimp only
    | apply rfl
    | (with_reducible refine Kept.by' (by with_reducible assumption) ?_ ?_)
    | split
theorem gleanStore_k (s : State) (a1) (a2) (a3) : Kept [.regs, .ev, .stairs, .land] s (gleanStore s a1 a2 a3) := by
  unfold gleanStore
  try dsimp -proj only
  repeat' first
    | with_reducible assumption
    | with_reducible apply Kept.refl
    | with_reducible apply Kept.ite
    | with_reducible apply Kept.ite1
    | with_reducible apply Kept.ite2
    | with_reducible apply Kept.by' (bump_k _ _ _)
    | with_reducible apply Kept.by' (raiseLim_k _ _ _ _ _)
    | with_reducible apply Kept.by' (gleanWrite_k (by assumption))
    | dsimp only
    | apply rfl
    | (with_reducible refine Kept.by' (by with_reducible assumption) ?_ ?_)
    | split
theorem ingressRetire_k (s : State) (a1) (a2) (a3) (a4) : Kept [.regs, .time, .ev, .mem, .host, .ch, .slices, .net, .stairs, .sheaf, .land, .tils, .tm, .rm, .out] s (ingressRetire s a1 a2 a3 a4) := by
  unfold ingressRetire
  try dsimp -proj only
  repeat' first
    | with_reducible assumption
    | with_reducible apply Kept.refl
    | with_reducible apply Kept.ite
    | with_reducible apply Kept.ite1
    | with_reducible apply Kept.ite2
    | with_reducible apply Kept.by' (ledger_k _ _ _ _ _)
    | with_reducible apply Kept.by' (keepOutcome_k _ _ _ _ _ _)
    | with_reducible apply Kept.by' (popClimb_k _ _ _ _ _)
    | with_reducible apply Kept.by' (retireGone_k _ _ _ _ _)
    | with_reducible apply Kept.by' (Kept.eq1 (retireGone_k _ _ _ _ _) (by assumption))
    | with_reducible apply Kept.by' (bump_k _ _ _)
    | with_reducible apply Kept.by' (resolveIn_k _ _ _ _ _ _)
    | with_reducible apply Kept.by' (Kept.eq1 (resolveIn_k _ _ _ _ _ _) (by assumption))
    | with_reducible apply Kept.by' (discardAt_k _ _ _ _ _)
    | with_reducible apply Kept.by' (parkPkt_k _ _ _ _ _ _)
    | with_reducible apply Kept.by' (Kept.eq1 (parkPkt_k _ _ _ _ _ _) (by assumption))
    | with_reducible apply Kept.by' (applyAll_k _ _ _ _ _)
    | with_reducible apply Kept.by' (endPkt_k _ _)
    | with_reducible apply Kept.by' (disposeIn_k _ _ _ _)
    | with_reducible apply Kept.by' (Kept.eq1 (disposeIn_k _ _ _ _) (by assumption))
    | with_reducible apply Kept.by' (gleanStore_k _ _ _ _)
    | apply rfl
    | (with_reducible refine Kept.by' (by with_reducible assumption) ?_ ?_)
    | split
theorem entRestart_k (s : State) (a1) (a2) : Kept [.regs, .ev, .mem, .host, .ch, .slices, .land, .cy, .rm, .out, .draws] s (entRestart s a1 a2) := by
  unfold entRestart
  try dsimp -proj only
  repeat' first
    | with_reducible assumption
    | with_reducible apply Kept.refl
    | with_reducible apply Kept.ite
    | with_reducible apply Kept.by' (entStart_k _ _ _)
    | apply rfl
    | (with_reducible refine Kept.by' (by with_reducible assumption) ?_ ?_)
    | split
theorem fnClear_k (s : State) (a1) (a2) (a3) : Kept [.regs, .time, .ev, .mem, .host, .ch, .slices, .out] s (fnClear s a1 a2 a3) := by
  unfold fnClear
  try dsimp -proj only
  repeat' first
    | with_reducible assumption
    | with_reducible apply Kept.refl
    | with_reducible apply Kept.ite
    | with_reducible apply Kept.by' (raise_k _ _ _)
    | with_reducible apply Kept.by' (fnUpd_k _ _ _ _)
    | with_reducible apply Kept.by' (showTags_k _ _)
    | with_reducible apply Kept.by' (readsCut_k _ _ _)
    | with_reducible apply Kept.by' (sliceReset_k _ _ _)
    | with_reducible apply Kept.by' (tdispBreak_k _ _ _)
    | with_reducible apply Kept.by' (ptmLost_k _ _ _)
    | with_reducible apply Kept.by' (winForget_k _ _ _)
    | with_reducible apply Kept.foldl
    | with_reducible apply Kept.foldl1
    | (intro _; intros)
    | dsimp only
    | apply rfl
    | (with_reducible refine Kept.by' (by with_reducible assumption) ?_ ?_)
    | split
    | with_reducible apply Kept.set_host
theorem vfGone_k (s : State) (a1) (a2) (a3) : Kept [.regs, .time, .ev, .mem, .host, .ch, .slices, .out] s (vfGone s a1 a2 a3) := by
  unfold vfGone
  try dsimp -proj only
  repeat' first
    | with_reducible assumption
    | with_reducible apply Kept.refl
    | with_reducible apply Kept.ite
    | with_reducible apply Kept.by' (tdispTo_k _ _ _ _)
    | with_reducible apply Kept.by' (fnUpd_k _ _ _ _)
    | with_reducible apply Kept.by' (fnClear_k _ _ _ _)
    | apply rfl
    | (with_reducible refine Kept.by' (by with_reducible assumption) ?_ ?_)
    | split
theorem vfApply_k (s : State) (a1) (a2) : Kept [.regs, .time, .ev, .mem, .host, .ch, .slices, .out] s (vfApply s a1 a2) := by
  unfold vfApply
  try dsimp -proj only
  repeat' first
    | with_reducible assumption
    | with_reducible apply Kept.refl
    | with_reducible apply Kept.ite
    | with_reducible apply Kept.by' (vfGone_k _ _ _ _)
    | with_reducible apply Kept.by' (vfCome_k _ _ _)
    | with_reducible apply Kept.foldl
    | with_reducible apply Kept.foldl1
    | (intro _; intros)
    | apply rfl
    | (with_reducible refine Kept.by' (by with_reducible assumption) ?_ ?_)
    | split
theorem fnFlr_k (s : State) (a1) (a2) : Kept [.regs, .time, .ev, .mem, .host, .ch, .slices, .out] s (fnFlr s a1 a2) := by
  unfold fnFlr
  try dsimp -proj only
  repeat' first
    | with_reducible assumption
    | with_reducible apply Kept.refl
    | with_reducible apply Kept.ite
    | with_reducible apply Kept.by' (raisePhase_k _ _ _ _)
    | with_reducible apply Kept.by' (fnUpd_k _ _ _ _)
    | with_reducible apply Kept.by' (fnClear_k _ _ _ _)
    | with_reducible apply Kept.by' (vfApply_k _ _ _)
    | apply rfl
    | (with_reducible refine Kept.by' (by with_reducible assumption) ?_ ?_)
    | split
theorem ackProcess_k (s : State) (a1) (a2) : Kept [.regs, .ev, .mem, .host, .ch, .slices, .land, .rm, .out, .draws] s (ackProcess s a1 a2) := by
  unfold ackProcess
  try dsimp -proj only
  repeat' first
    | with_reducible assumption
    | with_reducible apply Kept.refl
    | with_reducible apply Kept.ite
    | with_reducible apply Kept.by' (bump_k _ _ _)
    | with_reducible apply Kept.by' (qpUpd_k _ _ _)
    | with_reducible apply Kept.by' (ackDone_k _ _)
    | with_reducible apply Kept.by' (ccUpdate_k _ _ _ _ _ _)
    | with_reducible apply Kept.by' (qpError_k _ _ _ _ _)
    | apply rfl
    | (with_reducible refine Kept.by' (by with_reducible assumption) ?_ ?_)
    | split
theorem nakError_k (s : State) (a1) (a2) (a3) (a4) (a5) : Kept [.regs, .ev, .mem, .host, .ch, .slices, .rm, .out] s (nakError s a1 a2 a3 a4 a5) := by
  unfold nakError
  try dsimp -proj only
  repeat' first
    | with_reducible assumption
    | with_reducible apply Kept.refl
    | with_reducible apply Kept.ite
    | with_reducible apply Kept.by' (oweAck_k _ _ _ _ _ _)
    | with_reducible apply Kept.by' (qpError_k _ _ _ _ _)
    | apply rfl
    | (with_reducible refine Kept.by' (by with_reducible assumption) ?_ ?_)
    | split
theorem toRing_k (s : State) (a1) (a2) (a3) (a4) : Kept [.regs, .ev, .mem, .ch, .slices, .land, .rm, .out] s (toRing s a1 a2 a3 a4) := by
  unfold toRing
  try dsimp -proj only
  repeat' first
    | with_reducible assumption
    | with_reducible apply Kept.refl
    | with_reducible apply Kept.ite
    | with_reducible apply Kept.by' (finishEnt_k _ _ _ _)
    | with_reducible apply Kept.by' (scatter_k _ _ _ _ _ _)
    | with_reducible apply Kept.by' (endAt_k _ _ _)
    | dsimp only
    | apply rfl
    | (with_reducible refine Kept.by' (by with_reducible assumption) ?_ ?_)
    | split
theorem fnStall_k (s : State) (a1) (a2) : Kept [.regs, .mem, .host, .ch, .slices, .out] s (fnStall s a1 a2) := by
  unfold fnStall
  try dsimp -proj only
  repeat' first
    | with_reducible assumption
    | with_reducible apply Kept.refl
    | with_reducible apply Kept.ite
    | with_reducible apply Kept.by' (readsCut_k _ _ _)
    | with_reducible apply Kept.by' (chanUpd_k _ _ _)
    | with_reducible apply Kept.by' (chanState_k _ _ _)
    | with_reducible apply Kept.by' (fetchCut_k _ _)
    | with_reducible apply Kept.foldl
    | with_reducible apply Kept.foldl1
    | (intro _; intros)
    | dsimp only
    | apply rfl
    | (with_reducible refine Kept.by' (by with_reducible assumption) ?_ ?_)
    | split
theorem vfChange_k (s : State) (a1) : Kept [.regs, .time, .ev, .mem, .host, .ch, .slices, .out] s (vfChange s a1) := by
  unfold vfChange
  try dsimp -proj only
  repeat' first
    | with_reducible assumption
    | with_reducible apply Kept.refl
    | with_reducible apply Kept.ite
    | with_reducible apply Kept.by' (vfApply_k _ _ _)
    | with_reducible apply Kept.by' (raise_k _ _ _)
    | apply rfl
    | (with_reducible refine Kept.by' (by with_reducible assumption) ?_ ?_)
    | split
theorem bootRom_k (s : State) : Kept [.regs, .ev, .mem, .oz] s (bootRom s) := by
  unfold bootRom
  try dsimp -proj only
  repeat' first
    | with_reducible assumption
    | with_reducible apply Kept.refl
    | with_reducible apply Kept.ite
    | with_reducible apply Kept.by' (raise_k _ _ _)
    | with_reducible apply Kept.by' (slotBoots_k (by assumption))
    | with_reducible apply Kept.by' (setStage_k _ _)
    | with_reducible apply Kept.by' (wrF_k _ _ _ _ _)
    | with_reducible apply Kept.by' (showScope_k _)
    | with_reducible apply Kept.by' (ozelmRuns_k _ _)
    | with_reducible apply Kept.by' (bootStop_k _)
    | apply rfl
    | (with_reducible refine Kept.by' (by with_reducible assumption) ?_ ?_)
    | split
theorem qpsKeyless_k (s : State) : Kept [.regs, .ev, .mem, .host, .ch, .slices, .rm, .out] s (qpsKeyless s) := by
  unfold qpsKeyless
  try dsimp -proj only
  repeat' first
    | with_reducible assumption
    | with_reducible apply Kept.refl
    | with_reducible apply Kept.ite
    | with_reducible apply Kept.ite1
    | with_reducible apply Kept.ite2
    | with_reducible apply Kept.by' (qpError_k _ _ _ _ _)
    | with_reducible apply Kept.by' (qpUpd_k _ _ _)
    | with_reducible apply Kept.foldl
    | with_reducible apply Kept.foldl1
    | (intro _; intros)
    | apply rfl
    | (with_reducible refine Kept.by' (by with_reducible assumption) ?_ ?_)
    | split
theorem bootTillers_k (s : State) (a1) : Kept [.regs, .ev, .mem, .ch, .stairs, .golden, .tils, .draws] s (bootTillers s a1) := by
  unfold bootTillers
  try dsimp -proj only
  repeat' first
    | with_reducible assumption
    | with_reducible apply Kept.refl
    | with_reducible apply Kept.ite
    | with_reducible apply Kept.by' (bootStop_k _)
    | with_reducible apply Kept.by' (loadMicrocode_k (by assumption))
    | with_reducible apply Kept.by' (loadFirmware_k _)
    | with_reducible apply Kept.by' (startUnits_k _ _ _)
    | with_reducible apply Kept.by' (setStage_k _ _)
    | with_reducible apply Kept.by' (releaseTiller_k _ _ _ _)
    | with_reducible apply Kept.foldl
    | with_reducible apply Kept.foldl1
    | (intro _; intros)
    | apply rfl
    | (with_reducible refine Kept.by' (by with_reducible assumption) ?_ ?_)
    | split
theorem sliceQpsStop_k (s : State) (a1) : Kept [.regs, .ev, .mem, .host, .ch, .slices, .rm, .out] s (sliceQpsStop s a1) := by
  unfold sliceQpsStop
  try dsimp -proj only
  repeat' first
    | with_reducible assumption
    | with_reducible apply Kept.refl
    | with_reducible apply Kept.ite
    | with_reducible apply Kept.ite1
    | with_reducible apply Kept.ite2
    | with_reducible apply Kept.by' (qpUpd_k _ _ _)
    | with_reducible apply Kept.by' (qpError_k _ _ _ _ _)
    | with_reducible apply Kept.by' (revoke_k _ _)
    | with_reducible apply Kept.foldl
    | with_reducible apply Kept.foldl1
    | (intro _; intros)
    | apply rfl
    | (with_reducible refine Kept.by' (by with_reducible assumption) ?_ ?_)
    | split
theorem coldStart_k (s : State) (a1) : Kept [.regs, .ev, .host, .slices, .oz] s (coldStart s a1) := by
  unfold coldStart
  try dsimp -proj only
  repeat' first
    | with_reducible assumption
    | with_reducible apply Kept.refl
    | with_reducible apply Kept.ite
    | with_reducible apply Kept.by' (ozUpd_k _ _ ?_)
    | with_reducible apply Kept.by' (startCommon_k _ _)
    | with_reducible apply Kept.by' (raise_k _ _ _)
    | exact OzLe.same rfl rfl rfl
    | apply rfl
    | (with_reducible refine Kept.by' (by with_reducible assumption) ?_ ?_)
    | split
theorem qpImport_k (s : State) (a1) (a2) : Kept [.regs, .cy, .rm, .draws] s (qpImport s a1 a2) := by
  unfold qpImport
  try dsimp -proj only
  repeat' first
    | with_reducible assumption
    | with_reducible apply Kept.refl
    | with_reducible apply Kept.ite
    | with_reducible apply Kept.ite2
    | with_reducible apply Kept.by' (rmUpd_k _ _)
    | with_reducible apply Kept.by' (useSlot_k (by assumption))
    | with_reducible apply Kept.by' (qpDerive_k _ _ _ _ _)
    | apply rfl
    | (with_reducible refine Kept.by' (by with_reducible assumption) ?_ ?_)
    | split
theorem imagePlace_k (s : State) (a1) (a2) (a3) (a4) : Kept [.regs, .ev, .ch, .slices, .cy, .rm, .sv, .draws] s (imagePlace s a1 a2 a3 a4) := by
  unfold imagePlace
  try dsimp -proj only
  repeat' first
    | with_reducible assumption
    | with_reducible apply Kept.refl
    | with_reducible apply Kept.ite
    | with_reducible apply Kept.ite1
    | with_reducible apply Kept.ite2
    | with_reducible apply Kept.by' (putKey_k _ _ _)
    | with_reducible apply Kept.by' (chanImport_k _ _ _ _)
    | with_reducible apply Kept.by' (qpImport_k _ _ _)
    | with_reducible apply Kept.by' (regionImport_k _ _ _)
    | with_reducible apply Kept.by' (showFlight_k _)
    | with_reducible apply Kept.by' (showCtrls_k _)
    | with_reducible apply Kept.by' (ctrlImport_k _ _ _)
    | with_reducible apply Kept.by' (raise_k _ _ _)
    | with_reducible apply Kept.by' (slUpd_k _ _ _)
    | with_reducible apply Kept.foldl
    | with_reducible apply Kept.foldl1
    | (intro _; intros)
    | apply rfl
    | (with_reducible refine Kept.by' (by with_reducible assumption) ?_ ?_)
    | split
theorem linkReset_k (s : State) (a1) : Kept [.regs, .time, .ev, .mem, .host, .ch, .slices, .out] s (linkReset s a1) := by
  unfold linkReset
  try dsimp -proj only
  repeat' first
    | with_reducible assumption
    | with_reducible apply Kept.refl
    | with_reducible apply Kept.ite
    | with_reducible apply Kept.ite1
    | with_reducible apply Kept.ite2
    | with_reducible apply Kept.by' (wrN_k _ _ _)
    | with_reducible apply Kept.by' (raise_k _ _ _)
    | with_reducible apply Kept.by' (fnUpd_k _ _ _ _)
    | with_reducible apply Kept.by' (sliceReset_k _ _ _)
    | with_reducible apply Kept.by' (ptmLost_k _ _ _)
    | with_reducible apply Kept.by' (fnClear_k _ _ _ _)
    | with_reducible apply Kept.by' (vfGone_k _ _ _ _)
    | with_reducible apply Kept.by' (linkShow_k _ _ _ _ _ _)
    | with_reducible apply Kept.by' (ideClear_k _ _)
    | with_reducible apply Kept.foldl
    | with_reducible apply Kept.foldl1
    | (intro _; intros)
    | dsimp only
    | apply rfl
    | (with_reducible refine Kept.by' (by with_reducible assumption) ?_ ?_)
    | split
theorem keyWake_k (s : State) : Kept [.mem, .host, .ch, .slices, .out] s (keyWake s) := by
  unfold keyWake
  try dsimp -proj only
  repeat' first
    | with_reducible assumption
    | with_reducible apply Kept.refl
    | with_reducible apply Kept.ite
    | with_reducible apply Kept.ite1
    | with_reducible apply Kept.ite2
    | with_reducible apply Kept.by' (adminComplete_k _ _ _ _ _)
    | with_reducible apply Kept.foldl
    | with_reducible apply Kept.foldl1
    | (intro _; intros)
    | exact fun h => memPuts_wf h
    | exact fun h => memClear_wf h
    | exact memPuts_wf (by assumption)
    | exact memClear_wf (by assumption)
    | exact fun h => filter_wf _ h
    | exact fun h => h
    | apply rfl
    | (with_reducible refine Kept.by' (by with_reducible assumption) ?_ ?_)
    | split
    | with_reducible apply Kept.set_mem
    | with_reducible apply Kept.set_host
    | with_reducible apply Kept.set_ch
    | with_reducible apply Kept.set_slices
    | with_reducible apply Kept.set_out
    | (refine Kept.of ⟨fun p hp => ?_⟩ rfl rfl rfl (congrArg AccSt.own rfl); cases p <;> first | rfl | cases hp)
theorem winGo_k (s : State) (a1) (a2) (a3) (a4) (a5) (a6) (a7) : Kept [.regs, .ev, .mem, .host, .slices, .out] s (winGo s a1 a2 a3 a4 a5 a6 a7) := by
  unfold winGo
  try dsimp -proj only
  repeat' first
    | with_reducible assumption
    | with_reducible apply Kept.refl
    | with_reducible apply Kept.ite
    | with_reducible apply Kept.by' (emit_k _ _)
    | with_reducible apply Kept.by' (store_k _ _ _)
    | with_reducible apply Kept.by' (fnUpd_k _ _ _ _)
    | with_reducible apply Kept.by' (writeTlps_k _ _ _ _ _ _ _)
    | with_reducible apply Kept.by' (startRead_k _ _ _ _ _ _ _ _)
    | with_reducible apply Kept.by' (winUr_k _ _ _ _ _)
    | with_reducible apply Kept.by' (peerMark_k _ _ _ _ _ _)
    | with_reducible apply Kept.foldl
    | with_reducible apply Kept.foldl1
    | (intro _; intros)
    | with_reducible apply Kept.getD
    | dsimp only
    | apply rfl
    | (with_reducible refine Kept.by' (by with_reducible assumption) ?_ ?_)
    | split
    | with_reducible apply Kept.set_slices
theorem genAgain_k (s : State) (a1) (a2) (a3) (a4) : Kept [.regs, .ev, .mem, .host, .ch, .slices, .land, .rm, .out, .draws] s (genAgain s a1 a2 a3 a4) := by
  unfold genAgain
  try dsimp -proj only
  repeat' first
    | with_reducible assumption
    | with_reducible apply Kept.refl
    | with_reducible apply Kept.ite
    | with_reducible apply Kept.ite1
    | with_reducible apply Kept.by' (bump_k _ _ _)
    | with_reducible apply Kept.by' (slFetch_k _ _ _ _ _)
    | with_reducible apply Kept.by' (Kept.eq1 (slFetch_k _ _ _ _ _) (by assumption))
    | with_reducible apply Kept.by' (qpUpd_k _ _ _)
    | with_reducible apply Kept.by' (qpError_k _ _ _ _ _)
    | with_reducible apply Kept.by' (sendData_k _ _ _ _ _ _ _ _ _ _ _ _)
    | (intro _; intros)
    | dsimp only
    | apply rfl
    | (with_reducible refine Kept.by' (by with_reducible assumption) ?_ ?_)
    | split
theorem genResp_k (s : State) (a1) (a2) (a3) (a4) : Kept [.regs, .ev, .mem, .host, .ch, .slices, .land, .rm, .out, .draws] s (genResp s a1 a2 a3 a4) := by
  unfold genResp
  try dsimp -proj only
  repeat' first
    | with_reducible assumption
    | with_reducible apply Kept.refl
    | with_reducible apply Kept.ite
    | with_reducible apply Kept.ite1
    | with_reducible apply Kept.by' (slFetch_k _ _ _ _ _)
    | with_reducible apply Kept.by' (Kept.eq1 (slFetch_k _ _ _ _ _) (by assumption))
    | with_reducible apply Kept.by' (qpUpd_k _ _ _)
    | with_reducible apply Kept.by' (nakError_k _ _ _ _ _ _)
    | with_reducible apply Kept.by' (sendData_k _ _ _ _ _ _ _ _ _ _ _ _)
    | (intro _; intros)
    | dsimp only
    | apply rfl
    | (with_reducible refine Kept.by' (by with_reducible assumption) ?_ ?_)
    | split
theorem probeVec_k (s : State) (a1) (a2) : Kept [.regs, .ev, .stairs, .rm, .draws] s (probeVec s a1 a2).1 := by
  unfold probeVec
  try dsimp -proj only
  repeat' first
    | with_reducible assumption
    | with_reducible apply Kept.refl
    | with_reducible apply Kept.ite
    | with_reducible apply Kept.ite1
    | with_reducible apply Kept.ite2
    | with_reducible apply Kept.by' (probeRun_k _ _ _ _ _)
    | with_reducible apply Kept.by' (Kept.eq1 (probeRun_k _ _ _ _ _) (by assumption))
    | with_reducible apply Kept.by' (resolveIn_k _ _ _ _ _ _)
    | with_reducible apply Kept.by' (Kept.eq1 (resolveIn_k _ _ _ _ _ _) (by assumption))
    | dsimp only
    | apply rfl
    | (with_reducible refine Kept.by' (by with_reducible assumption) ?_ ?_)
    | split
theorem holdOr_k (s : State) (a1) (a2) (a3) : Kept [.regs, .ev, .mem, .host, .ch, .slices, .rm, .out, .draws] s (holdOr s a1 a2 a3) := by
  unfold holdOr
  try dsimp -proj only
  repeat' first
    | with_reducible assumption
    | with_reducible apply Kept.refl
    | with_reducible apply Kept.ite
    | with_reducible apply Kept.by' (chanSet_k _ _ _)
    | with_reducible apply Kept.by' (heldRun_k _ _ _)
    | apply rfl
    | (with_reducible refine Kept.by' (by with_reducible assumption) ?_ ?_)
    | split

open Sys2Proof
theorem takeOne_k {s c m t n} (e : takeOne s c m = .inl (t, n)) : Kept [.ch, .rm] s t := by
  unfold takeOne at e
  dsimp -proj only at e
  repeat' split at e
  all_goals first
    | (cases e; done)
    | (cases e; exact Kept.after (Kept.after Kept.refl (refKeys_k _ _) rfl) (chanUpd_k _ _ _) rfl)
theorem takeBuf_fold_k {s : State} (i c) (m : State → Nat → RxMsg) : ∀ (l : List Nat) (t : State ⊕ Nat), (∀ u, t = .inl u → Kept [.ch, .rm] s u) →
    ∀ u, l.foldl (fun (acc : State ⊕ Nat) x =>
    match acc with
    | .inl s =>
      match takeOne s c (m s x) with
      | .inl (s, y) => .inl (qpUpd s i (fun q => { q with msgs := q.msgs ++ [y] }))
      | .inr e => .inr e
    | .inr e => .inr e) t = .inl u → Kept [.ch, .rm] s u := by
  intro l
  induction l with
  | nil => intro t ht u hu; exact ht u hu
  | cons x l ih =>
    intro t ht
    refine ih _ ?_
    intro u hu
    dsimp only at hu
    cases t with
    | inr e => cases hu
    | inl s1 =>
     dsimp only at hu
     split at hu
     all_goals first
      | (cases hu; done)
      | (cases hu
         exact Kept.after (Kept.after (ht _ rfl) (takeOne_k (by assumption)) rfl) (qpUpd_k _ _ _) rfl)
theorem takeBuf_k {s i c q m t n} (e : takeBuf s i c q m = .inl (t, n)) : Kept [.ch, .rm] s t := by
  unfold takeBuf at e
  dsimp -proj only at e
  split at e
  · cases e; exact Kept.refl
  · split at e
    · rename_i u hu
      exact Kept.after (takeBuf_fold_k i c (fun s x => { msn := x, op := 0, len := 0, since := s.time.elapsed }) _ _ (fun v hv => by cases hv; exact Kept.refl) u hu) (takeOne_k e) rfl
    · cases e
theorem nextWork_k {s i c q t w e'} (e : nextWork s i c q = .inl (t, w, e')) : Kept [.ch, .rm] s t := by
  unfold nextWork at e
  dsimp -proj only at e
  repeat' split at e
  all_goals first
    | (cases e; done)
    | (cases e; exact Kept.refl)
    | (cases e; exact Kept.after (Kept.after (Kept.after Kept.refl (refKeys_k _ _) rfl) (chanUpd_k _ _ _) rfl) (qpUpd_k _ _ _) rfl)
theorem logPage_k {s i l c r b t} (e : logPage s i l c r = some (b, t)) : Kept [.sv, .draws] s t := by
  unfold logPage at e
  split at e
  · cases e; exact Kept.refl
  · injection e with e
    have h := congrArg Prod.snd e
    dsimp only at h; subst h
    exact Kept.after Kept.refl (smartLog_k _ _) rfl
  · cases e; exact Kept.refl
  · injection e with e
    have h := congrArg Prod.snd e
    dsimp only at h; subst h
    split
    · exact Kept.refl
    · exact Kept.after Kept.refl (ctrlUpd_k _ _ _) rfl
  · injection e with e
    have h := congrArg Prod.snd e
    dsimp only at h; subst h
    exact Kept.refl
  · injection e with e
    have h := congrArg Prod.snd e
    dsimp only at h; subst h
    exact Kept.after Kept.refl (selfTestLog_k _ _) rfl
  · cases e
theorem postOne_k {s i p t} (e : postOne s i p = some t) : Kept [.mem, .host, .slices, .sv, .out] s t := by
  unfold postOne at e
  dsimp -proj only at e
  repeat' split at e
  all_goals first
    | (cases e; done)
    | (cases e; exact Kept.refl)
    | (cases e
       repeat' first
         | with_reducible apply Kept.refl
         | with_reducible assumption
         | with_reducible apply Kept.by' (ctrlUpd_k _ _ _)
         | with_reducible apply Kept.by' (sendVector_k _ _ _ _)
         | with_reducible apply Kept.by' (slWrite_k _ _ _ _ _)
         | with_reducible apply Kept.foldl
         | (intro _ _ _)
         | apply rfl
         | split)
theorem postGo_k (s i) : Kept [.regs, .mem, .host, .slices, .sv, .out] s (postGo s i) := by
  unfold postGo
  dsimp -proj only
  split
  · exact Kept.refl
  · split
    · exact Kept.refl
    · refine Kept.after (Kept.after ?_ (ctrlUpd_k _ _ _) rfl) (showFlight_k _) rfl
      refine Kept.foldl1 (t := (s, [])) (Kept.refl (s := s)) ?_
      intro t a h
      repeat' first
        | with_reducible assumption
        | with_reducible apply Kept.ite1
        | with_reducible apply Kept.by' (postOne_k (by assumption))
        | apply rfl
        | split
theorem rxPlace_k {s i c q k h p o t} (e : rxPlace s i c q k h p o = .placed t) : Kept [.regs, .mem, .ch, .slices, .rm, .out] s t := by
  unfold rxPlace at e
  dsimp -proj only at e
  split at e
  · repeat' split at e
    all_goals first
      | (cases e; done)
      | (cases e
         repeat' first
           | with_reducible apply Kept.refl
           | with_reducible apply Kept.by' (workDone_k _ _ _)
           | with_reducible apply Kept.by' (qpUpd_k _ _ _)
           | with_reducible apply Kept.by' (scatter_k _ _ _ _ _ _)
           | apply rfl
           | split)
  · split at e
    · cases e
    · rename_i u m1 hacc
      have h1 : Kept [.regs, .mem, .ch, .slices, .rm, .out] s u := by
        repeat' split at hacc
        all_goals first
          | (cases hacc; done)
          | (cases hacc; exact Kept.refl)
          | (cases hacc; exact Kept.after Kept.refl (releaseRkey_k _ _) rfl)
      split at e
      · cases e
      · rename_i v m2 hb
        have h2 : Kept [.regs, .mem, .ch, .slices, .rm, .out] s v := by
          split at hb
          · exact Kept.after h1 (takeBuf_k hb) rfl
          · injection hb with hb
            exact Kept.after h1 (Kept.eq1 (giveBuf_k _ _) hb) rfl
        split at e
        · cases e
        · cases e
          repeat' first
            | with_reducible assumption
            | with_reducible apply Kept.ite
            | with_reducible apply Kept.by' (qpUpd_k _ _ _)
            | with_reducible apply Kept.by' (regionUnref_k _ _)
            | with_reducible apply Kept.by' (scatter_k _ _ _ _ _ _)
            | with_reducible apply Kept.by' (slWrite_k _ _ _ _ _)
            | apply rfl
theorem cidxPut_k (s : State) (a1) (a2) (a3) (a4) (a5) : Kept [.regs, .ev, .mem, .host, .ch, .slices, .stairs, .sheaf, .out] s (cidxPut s a1 a2 a3 a4 a5) := by
  unfold cidxPut
  try dsimp -proj only
  repeat' first
    | with_reducible assumption
    | with_reducible apply Kept.refl
    | with_reducible apply Kept.ite
    | with_reducible apply Kept.by' (chanSet_k _ _ _)
    | with_reducible apply Kept.by' (ringFlush_k _ _ _)
    | with_reducible apply Kept.by' (ringError_k _ _ _)
    | dsimp only
    | apply rfl
    | (with_reducible refine Kept.by' (by with_reducible assumption) ?_ ?_)
    | split
theorem armPut_k (s : State) (a1) (a2) (a3) (a4) (a5) : Kept [.mem, .host, .ch, .slices, .out] s (armPut s a1 a2 a3 a4 a5) := by
  unfold armPut
  try dsimp -proj only
  repeat' first
    | with_reducible assumption
    | with_reducible apply Kept.refl
    | with_reducible apply Kept.ite
    | with_reducible apply Kept.by' (chanSet_k _ _ _)
    | with_reducible apply Kept.by' (cqNotify_k _ _)
    | dsimp only
    | apply rfl
    | (with_reducible refine Kept.by' (by with_reducible assumption) ?_ ?_)
    | split
theorem galWrite_k (s : State) (a1) (a2) (a3) (a4) (a5) (a6) (a7) : Kept [.regs, .ev, .mem, .host, .ch, .slices, .stairs, .sheaf, .out] s (galWrite s a1 a2 a3 a4 a5 a6 a7) := by
  unfold galWrite
  try dsimp -proj only
  repeat' first
    | with_reducible assumption
    | with_reducible apply Kept.refl
    | with_reducible apply Kept.ite
    | with_reducible apply onPage_k
    | with_reducible apply Kept.by' (ringPage_k _ _ _ _)
    | with_reducible apply Kept.by' (pidxPut_k _ _ _ _ _ _)
    | with_reducible apply Kept.by' (cidxPut_k _ _ _ _ _ _)
    | with_reducible apply Kept.by' (armPut_k _ _ _ _ _ _)
    | (intro _; intros)
    | dsimp only
    | apply rfl
    | (with_reducible refine Kept.by' (by with_reducible assumption) ?_ ?_)
    | split
theorem barWrite_k (s : State) (a1) (a2) (a3) (a4) : Kept [.regs, .ev, .mem, .host, .ch, .slices, .stairs, .sheaf, .out] s (barWrite s a1 a2 a3 a4) := by
  unfold barWrite
  try dsimp -proj only
  repeat' first
    | with_reducible assumption
    | with_reducible apply Kept.refl
    | with_reducible apply Kept.ite
    | with_reducible apply Kept.by' (notReached_k _ _)
    | with_reducible apply Kept.by' (msixWrite_k _ _ _ _ _ _ _)
    | with_reducible apply Kept.by' (galWrite_k _ _ _ _ _ _ _ _)
    | dsimp only
    | apply rfl
    | (with_reducible refine Kept.by' (by with_reducible assumption) ?_ ?_)
    | split
theorem imageImport_k (s : State) (a1) (a2) (a3) (a4) : Kept [.regs, .ev, .ch, .slices, .cy, .rm, .sv, .draws] s (imageImport s a1 a2 a3 a4).1 := by
  unfold imageImport
  try dsimp -proj only
  repeat' first
    | with_reducible assumption
    | with_reducible apply Kept.refl
    | with_reducible apply Kept.ite
    | with_reducible apply Kept.ite1
    | with_reducible apply Kept.by' (failed_k _ _)
    | with_reducible apply Kept.by' (Kept.eq1 (failed_k _ _) (by assumption))
    | with_reducible apply Kept.by' (imageSlot_k (by assumption))
    | with_reducible apply Kept.by' (imagePlace_k _ _ _ _ _)
    | dsimp only
    | apply rfl
    | (with_reducible refine Kept.by' (by with_reducible assumption) ?_ ?_)
    | split
end Sys2Proof.Machine
end

