-- ==== Sys2Proof/Laws/Frame4.lean ====
section
/-! SUPPORT. Laws/Frame4.lean: frames: the shared pipelines of admin and storage commands. -/

namespace Sys2Proof.Machine
set_option linter.all false
theorem arrCmdRow_k (a0) (a1) (a2) (a3) (a4) (a5) (s : State) : Kept [.regs, .acc, .ev, .stairs, .land, .out] s (arrCmdRow a0 a1 a2 a3 a4 a5 s) := by
  unfold arrCmdRow
  try dsimp -proj only
  repeat' first
    | with_reducible assumption
    | with_reducible apply Kept.refl
    | with_reducible apply Kept.ite
    | with_reducible apply gate_k
    | with_reducible apply Kept.by' (arrCmdWrite_k _ _ _ _)
    | (intro _; intros)
    | apply rfl
    | (with_reducible refine Kept.by' (by with_reducible assumption) ?_ ?_)
    | split
theorem thCtlRow_k (a0) (a1) (a2) (a3) (a4) (a5) (s : State) : Kept [.regs, .acc, .ev, .mem, .tils, .out, .draws] s (thCtlRow a0 a1 a2 a3 a4 a5 s) := by
  unfold thCtlRow
  try dsimp -proj only
  repeat' first
    | with_reducible assumption
    | with_reducible apply Kept.refl
    | with_reducible apply Kept.ite
    | with_reducible apply gate_k
    | with_reducible apply Kept.by' (thCtlWrite_k _ _ _ _)
    | (intro _; intros)
    | apply rfl
    | (with_reducible refine Kept.by' (by with_reducible assumption) ?_ ?_)
    | split
theorem slCtlBy_k (s : State) (a1) (a2) (a3) (a4) : Kept [.regs, .acc, .ev, .mem, .host, .ch, .slices, .rm, .out, .draws] s (slCtlBy s a1 a2 a3 a4) := by
  unfold slCtlBy
  try dsimp -proj only
  repeat' first
    | with_reducible assumption
    | with_reducible apply Kept.refl
    | with_reducible apply Kept.ite
    | with_reducible apply gate_k
    | with_reducible apply Kept.by' (slCtlWrite_k _ _ _)
    | (intro _; intros)
    | apply rfl
    | (with_reducible refine Kept.by' (by with_reducible assumption) ?_ ?_)
    | split
theorem cmdUpdate_k (s : State) (a1) (a2) : Kept [.regs, .ev, .stairs, .lpm, .land] s (cmdUpdate s a1 a2).1 := by
  unfold cmdUpdate
  try dsimp -proj only
  repeat' first
    | with_reducible assumption
    | with_reducible apply Kept.refl
    | with_reducible apply Kept.ite
    | with_reducible apply Kept.ite1
    | with_reducible apply Kept.ite2
    | with_reducible apply Kept.by' (gleanWrite_k (by assumption))
    | with_reducible apply Kept.by' (addEntry_k _ _ _ _)
    | with_reducible apply Kept.by' (Kept.eq1 (addEntry_k _ _ _ _) (by assumption))
    | with_reducible apply Kept.by' (putSlot_k _ _ _ _ _)
    | with_reducible apply Kept.getD
    | (intro _; intros)
    | dsimp only
    | apply rfl
    | (with_reducible refine Kept.by' (by with_reducible assumption) ?_ ?_)
    | split
theorem cmdAct_k (s : State) (a1) (a2) : Kept [.regs, .ev, .stairs, .lpm, .land] s (cmdAct s a1 a2).1 := by
  unfold cmdAct
  try dsimp -proj only
  repeat' first
    | with_reducible assumption
    | with_reducible apply Kept.refl
    | with_reducible apply Kept.ite
    | with_reducible apply Kept.ite1
    | with_reducible apply Kept.by' (cmdLookup_k _ _ _)
    | with_reducible apply Kept.by' (Kept.eq1 (cmdLookup_k _ _ _) (by assumption))
    | with_reducible apply Kept.by' (cmdRead_k _ _ _)
    | with_reducible apply Kept.by' (Kept.eq1 (cmdRead_k _ _ _) (by assumption))
    | with_reducible apply Kept.by' (cmdInsert_k _ _ _)
    | with_reducible apply Kept.by' (Kept.eq1 (cmdInsert_k _ _ _) (by assumption))
    | with_reducible apply Kept.by' (cmdUpdate_k _ _ _)
    | with_reducible apply Kept.by' (Kept.eq1 (cmdUpdate_k _ _ _) (by assumption))
    | with_reducible apply Kept.by' (cmdDelete_k _ _ _)
    | with_reducible apply Kept.by' (Kept.eq1 (cmdDelete_k _ _ _) (by assumption))
    | with_reducible apply Kept.by' (cmdWrite_k _ _ _)
    | with_reducible apply Kept.by' (Kept.eq1 (cmdWrite_k _ _ _) (by assumption))
    | with_reducible apply Kept.by' (cmdErase_k _ _ _)
    | with_reducible apply Kept.by' (Kept.eq1 (cmdErase_k _ _ _) (by assumption))
    | with_reducible apply Kept.by' (cmdIter_k _ _ _)
    | with_reducible apply Kept.by' (Kept.eq1 (cmdIter_k _ _ _) (by assumption))
    | with_reducible apply Kept.by' (cmdClear_k _ _ _)
    | with_reducible apply Kept.by' (Kept.eq1 (cmdClear_k _ _ _) (by assumption))
    | dsimp only
    | apply rfl
    | (with_reducible refine Kept.by' (by with_reducible assumption) ?_ ?_)
    | split
theorem cmdRun_k (s : State) (a1) (a2) : Kept [.regs, .ev, .stairs, .lpm, .land] s (cmdRun s a1 a2).1 := by
  unfold cmdRun
  try dsimp -proj only
  repeat' first
    | with_reducible assumption
    | with_reducible apply Kept.refl
    | with_reducible apply Kept.ite
    | with_reducible apply Kept.ite1
    | with_reducible apply Kept.by' (bump_k _ _ _)
    | with_reducible apply Kept.by' (cmdAct_k _ _ _)
    | with_reducible apply Kept.by' (Kept.eq1 (cmdAct_k _ _ _) (by assumption))
    | dsimp only
    | apply rfl
    | (with_reducible refine Kept.by' (by with_reducible assumption) ?_ ?_)
    | split
theorem cmdFinish_k (s : State) (a1) (a2) (a3) : Kept [.regs, .ev, .stairs, .lpm, .land] s (cmdFinish s a1 a2 a3) := by
  unfold cmdFinish
  try dsimp -proj only
  repeat' first
    | with_reducible assumption
    | with_reducible apply Kept.refl
    | with_reducible apply Kept.ite
    | with_reducible apply Kept.ite1
    | with_reducible apply Kept.ite2
    | with_reducible apply Kept.by' (cmdRun_k _ _ _)
    | with_reducible apply Kept.by' (Kept.eq1 (cmdRun_k _ _ _) (by assumption))
    | with_reducible apply Kept.by' (wrN_k _ _ _)
    | with_reducible apply Kept.by' (showEntry_k _ _ _ _ _)
    | with_reducible apply Kept.getD
    | (intro _; intros)
    | with_reducible apply Kept.foldl
    | with_reducible apply Kept.foldl1
    | (intro _; intros)
    | apply rfl
    | (with_reducible refine Kept.by' (by with_reducible assumption) ?_ ?_)
    | split
theorem tblCmdWrite_k (s : State) (a1) (a2) (a3) : Kept [.regs, .ev, .stairs, .lpm, .land] s (tblCmdWrite s a1 a2 a3) := by
  unfold tblCmdWrite
  try dsimp -proj only
  repeat' first
    | with_reducible assumption
    | with_reducible apply Kept.refl
    | with_reducible apply Kept.ite
    | with_reducible apply Kept.by' (wrF_k _ _ _ _ _)
    | with_reducible apply Kept.by' (plainWrite_k _ _ _ _)
    | with_reducible apply Kept.by' (stairUpd_k _ _ _)
    | with_reducible apply Kept.by' (cmdFinish_k _ _ _ _)
    | with_reducible apply Kept.by' (cmdBusyBits_k _ _ _)
    | (intro _; intros)
    | dsimp only
    | apply rfl
    | (with_reducible refine Kept.by' (by with_reducible assumption) ?_ ?_)
    | split
theorem staEffect_k (s : State) (a1) (a2) (a3) (a4) (a5) : Kept [.regs, .ev, .stairs, .golden, .lpm, .land] s (staEffect s a1 a2 a3 a4 a5) := by
  unfold staEffect
  try dsimp -proj only
  repeat' first
    | with_reducible assumption
    | with_reducible apply Kept.refl
    | with_reducible apply Kept.ite
    | with_reducible apply Kept.by' (parseCmdWrite_k _ _ _)
    | with_reducible apply Kept.by' (tblCmdWrite_k _ _ _ _)
    | with_reducible apply Kept.by' (tblCfgWrite_k _ _ _ _ _)
    | with_reducible apply Kept.by' (arrCmdWrite_k _ _ _ _)
    | with_reducible apply Kept.by' (mtrCmdWrite_k _ _ _ _)
    | with_reducible apply Kept.by' (arrCfgWrite_k _ _ _ _ _)
    | with_reducible apply Kept.by' (hitarrWrite_k _ _ _ _)
    | with_reducible apply Kept.by' (regStore_k _ _ _)
    | with_reducible apply Kept.by' (stepEffect_k _ _ _ _ _ _ _)
    | dsimp only
    | apply rfl
    | (with_reducible refine Kept.by' (by with_reducible assumption) ?_ ?_)
    | split
theorem endCmd_k (s : State) (a1) (a2) (a3) (a4) (a5) : Kept [.regs, .mem, .host, .slices, .sv, .out, .draws] s (endCmd s a1 a2 a3 a4 a5) := by
  unfold endCmd
  try dsimp -proj only
  repeat' first
    | with_reducible assumption
    | with_reducible apply Kept.refl
    | with_reducible apply Kept.ite
    | with_reducible apply Kept.ite1
    | with_reducible apply Kept.ite2
    | with_reducible apply Kept.by' (svUpd_k _ _)
    | with_reducible apply Kept.by' (testQuiet_k _ _)
    | with_reducible apply Kept.by' (showFlight_k _)
    | with_reducible apply Kept.by' (withDnr_k _ _)
    | with_reducible apply Kept.by' (Kept.eq2 (withDnr_k _ _) (by assumption))
    | with_reducible apply Kept.by' (errLog_k _ _ _ _ _)
    | with_reducible apply Kept.by' (emit_k _ _)
    | with_reducible apply Kept.by' (postGo_k _ _)
    | with_reducible apply Kept.by' (ctrlUpd_k _ _ _)
    | apply rfl
    | (with_reducible refine Kept.by' (by with_reducible assumption) ?_ ?_)
    | split
theorem svResume_k (s : State) : Kept [.regs, .mem, .host, .slices, .sv, .out] s (svResume s) := by
  unfold svResume
  try dsimp -proj only
  repeat' first
    | with_reducible assumption
    | with_reducible apply Kept.refl
    | with_reducible apply Kept.ite
    | with_reducible apply Kept.ite1
    | with_reducible apply Kept.by' (postGo_k _ _)
    | with_reducible apply Kept.foldl
    | with_reducible apply Kept.foldl1
    | (intro _; intros)
    | apply rfl
    | (with_reducible refine Kept.by' (by with_reducible assumption) ?_ ?_)
    | split
theorem dbgRow_k (a0) (a1) (a2) (a3) (a4) (a5) (a6) (s : State) : Kept [.regs, .acc, .ev, .mem, .tils, .out, .draws] s (dbgRow a0 a1 a2 a3 a4 a5 a6 s) := by
  unfold dbgRow
  try dsimp -proj only
  repeat' first
    | with_reducible assumption
    | with_reducible apply Kept.refl
    | with_reducible apply Kept.ite
    | with_reducible apply gate_k
    | with_reducible apply Kept.by' (dbgCmdWrite_k _ _ _ _ _)
    | (intro _; intros)
    | apply rfl
    | (with_reducible refine Kept.by' (by with_reducible assumption) ?_ ?_)
    | split
theorem rxData_k (s : State) (a1) (a2) (a3) (a4) (a5) (a6) : Kept [.regs, .ev, .mem, .host, .ch, .slices, .rm, .out] s (rxData s a1 a2 a3 a4 a5 a6) := by
  unfold rxData
  try dsimp -proj only
  repeat' first
    | with_reducible assumption
    | with_reducible apply Kept.refl
    | with_reducible apply Kept.ite
    | with_reducible apply Kept.ite1
    | with_reducible apply Kept.ite2
    | with_reducible apply Kept.by' (qpUpd_k _ _ _)
    | with_reducible apply Kept.by' (oweAck_k _ _ _ _ _ _)
    | with_reducible apply Kept.by' (bump_k _ _ _)
    | with_reducible apply Kept.by' (releaseRkey_k _ _)
    | with_reducible apply Kept.by' (qpError_k _ _ _ _ _)
    | with_reducible apply Kept.by' (chanUpd_k _ _ _)
    | with_reducible apply Kept.by' (nakError_k _ _ _ _ _ _)
    | with_reducible apply Kept.by' (startReads_k _ _)
    | with_reducible apply Kept.by' (rxComplete_k _ _ _)
    | with_reducible apply Kept.by' (rxPlace_k (by assumption))
    | with_reducible apply Kept.getD
    | (intro _; intros)
    | apply rfl
    | (with_reducible refine Kept.by' (by with_reducible assumption) ?_ ?_)
    | split
theorem rmEgress_k (s : State) (a1) (a2) : Kept [.regs, .ev, .mem, .host, .ch, .slices, .land, .rm, .out, .draws] s (rmEgress s a1 a2) := by
  unfold rmEgress
  try dsimp -proj only
  repeat' first
    | with_reducible assumption
    | with_reducible apply Kept.refl
    | with_reducible apply Kept.ite
    | with_reducible apply Kept.by' (releaseRkey_k _ _)
    | with_reducible apply Kept.by' (ackProcess_k _ _ _)
    | with_reducible apply Kept.by' (qpError_k _ _ _ _ _)
    | with_reducible apply Kept.by' (rxData_k _ _ _ _ _ _ _)
    | apply rfl
    | (with_reducible refine Kept.by' (by with_reducible assumption) ?_ ?_)
    | split
theorem toHost_k (s : State) (a1) (a2) : Kept [.regs, .ev, .mem, .host, .ch, .slices, .land, .rm, .out, .draws] s (toHost s a1 a2) := by
  unfold toHost
  try dsimp -proj only
  repeat' first
    | with_reducible assumption
    | with_reducible apply Kept.refl
    | with_reducible apply Kept.ite
    | with_reducible apply Kept.by' (endAt_k _ _ _)
    | with_reducible apply Kept.by' (freeGrains_k _ _)
    | with_reducible apply Kept.by' (begunDec_k _ _)
    | with_reducible apply Kept.by' (rmEgress_k _ _ _)
    | with_reducible apply Kept.by' (toRing_k _ _ _ _ _)
    | exact fun h => aset_rising _ _ h
    | exact fun h => filter_rising _ h
    | exact fun h => h
    | exact fun h => memPuts_wf h
    | exact fun h => memClear_wf h
    | exact memPuts_wf (by assumption)
    | exact memClear_wf (by assumption)
    | exact fun h => filter_wf _ h
    | exact fun h => h
    | apply rfl
    | (with_reducible refine Kept.by' (by with_reducible assumption) ?_ ?_)
    | split
    | with_reducible apply Kept.set_regs
    | with_reducible apply Kept.set_ev
    | with_reducible apply Kept.set_mem
    | with_reducible apply Kept.set_host
    | with_reducible apply Kept.set_ch
    | with_reducible apply Kept.set_slices
    | with_reducible apply Kept.set_land
    | with_reducible apply Kept.set_rm
    | with_reducible apply Kept.set_out
    | with_reducible apply Kept.set_draws
    | (refine Kept.of ⟨fun p hp => ?_⟩ rfl rfl rfl (congrArg AccSt.own rfl); cases p <;> first | rfl | cases hp)
theorem fnResume_k (s : State) (a1) (a2) : Kept [.regs, .ev, .mem, .host, .ch, .slices, .land, .cy, .rm, .out, .draws] s (fnResume s a1 a2) := by
  unfold fnResume
  try dsimp -proj only
  repeat' first
    | with_reducible assumption
    | with_reducible apply Kept.refl
    | with_reducible apply Kept.ite
    | with_reducible apply Kept.ite1
    | with_reducible apply Kept.ite2
    | with_reducible apply Kept.by' (issueReads_k _ _)
    | with_reducible apply Kept.by' (releasePending_k _ _ _)
    | with_reducible apply Kept.by' (chanUpd_k _ _ _)
    | with_reducible apply Kept.by' (chanState_k _ _ _)
    | with_reducible apply Kept.by' (samplePidx_k _ _)
    | with_reducible apply Kept.by' (Kept.eq1 (samplePidx_k _ _) (by assumption))
    | with_reducible apply Kept.by' (toHost_k _ _ _)
    | with_reducible apply Kept.by' (ringBack_k _ _)
    | with_reducible apply Kept.by' (entRestart_k _ _ _)
    | with_reducible apply Kept.by' (heldRun_k _ _ _)
    | with_reducible apply Kept.foldl
    | with_reducible apply Kept.foldl1
    | (intro _; intros)
    | dsimp only
    | apply rfl
    | (with_reducible refine Kept.by' (by with_reducible assumption) ?_ ?_)
    | split
    | with_reducible apply Kept.set_land
theorem fnWake_k (s : State) (a1) (a2) : Kept [.regs, .ev, .mem, .host, .ch, .slices, .land, .cy, .rm, .sv, .out, .draws] s (fnWake s a1 a2) := by
  unfold fnWake
  try dsimp -proj only
  repeat' first
    | with_reducible assumption
    | with_reducible apply Kept.refl
    | with_reducible apply Kept.ite
    | with_reducible apply Kept.by' (svResume_k _)
    | with_reducible apply Kept.by' (fnResume_k _ _ _)
    | apply rfl
    | (with_reducible refine Kept.by' (by with_reducible assumption) ?_ ?_)
    | split
theorem fnBmeTo_k (s : State) (a1) (a2) (a3) : Kept [.regs, .ev, .mem, .host, .ch, .slices, .land, .cy, .rm, .sv, .out, .draws] s (fnBmeTo s a1 a2 a3) := by
  unfold fnBmeTo
  try dsimp -proj only
  repeat' first
    | with_reducible assumption
    | with_reducible apply Kept.refl
    | with_reducible apply Kept.ite
    | with_reducible apply Kept.by' (raise_k _ _ _)
    | with_reducible apply Kept.by' (cfgBit_k _ _ _ _ _ _)
    | with_reducible apply Kept.by' (fnWake_k _ _ _)
    | with_reducible apply Kept.by' (fnStall_k _ _ _)
    | apply rfl
    | (with_reducible refine Kept.by' (by with_reducible assumption) ?_ ?_)
    | split
theorem fnPower_k (s : State) (a1) (a2) (a3) : Kept [.regs, .ev, .mem, .host, .ch, .slices, .land, .cy, .rm, .sv, .out, .draws] s (fnPower s a1 a2 a3) := by
  unfold fnPower
  try dsimp -proj only
  repeat' first
    | with_reducible assumption
    | with_reducible apply Kept.refl
    | with_reducible apply Kept.ite
    | with_reducible apply Kept.by' (raise_k _ _ _)
    | with_reducible apply Kept.by' (cfgSet_k _ _ _ _ _)
    | with_reducible apply Kept.by' (fnStall_k _ _ _)
    | with_reducible apply Kept.by' (fnWake_k _ _ _)
    | apply rfl
    | (with_reducible refine Kept.by' (by with_reducible assumption) ?_ ?_)
    | split
theorem cfgWrite_k (s : State) (a1) (a2) (a3) (a4) (a5) : Kept [.regs, .time, .ev, .mem, .host, .ch, .slices, .land, .cy, .rm, .sv, .out, .draws] s (cfgWrite s a1 a2 a3 a4 a5) := by
  unfold cfgWrite
  try dsimp -proj only
  repeat' first
    | with_reducible assumption
    | with_reducible apply Kept.refl
    | with_reducible apply Kept.ite
    | with_reducible apply Kept.ite1
    | with_reducible apply Kept.ite2
    | with_reducible apply Kept.by' (cfgSet_k _ _ _ _ _)
    | with_reducible apply Kept.by' (releasePending_k _ _ _)
    | with_reducible apply Kept.by' (tdispBreak_k _ _ _)
    | with_reducible apply Kept.by' (fnBmeTo_k _ _ _ _)
    | with_reducible apply Kept.by' (fnPower_k _ _ _ _)
    | with_reducible apply Kept.by' (ptmLost_k _ _ _)
    | with_reducible apply Kept.by' (vfChange_k _ _)
    | with_reducible apply Kept.by' (fnFlr_k _ _ _)
    | with_reducible apply Kept.by' (barResize_k _ _ _ _ _)
    | with_reducible apply Kept.by' (ltrSend_k _ _)
    | dsimp only
    | apply rfl
    | (with_reducible refine Kept.by' (by with_reducible assumption) ?_ ?_)
    | split
theorem sheafCmdRow_k (a0) (a1) (a2) (a3) (s : State) : Kept [.regs, .acc, .ev, .stairs, .lpm, .sheaf, .out] s (sheafCmdRow a0 a1 a2 a3 s) := by
  unfold sheafCmdRow
  try dsimp -proj only
  repeat' first
    | with_reducible assumption
    | with_reducible apply Kept.refl
    | with_reducible apply Kept.ite
    | with_reducible apply gate_k
    | with_reducible apply Kept.by' (sheafCmdWrite_k _ _)
    | (intro _; intros)
    | apply rfl
    | (with_reducible refine Kept.by' (by with_reducible assumption) ?_ ?_)
    | split
theorem sendOut_k (s : State) (a1) (a2) : Kept [.regs, .ev, .mem, .host, .ch, .slices, .net, .land, .rm, .out, .draws] s (sendOut s a1 a2) := by
  unfold sendOut
  try dsimp -proj only
  repeat' first
    | with_reducible assumption
    | with_reducible apply Kept.refl
    | with_reducible apply Kept.ite
    | with_reducible apply Kept.by' (toPort_k _ _ _)
    | with_reducible apply Kept.by' (toHost_k _ _ _)
    | apply rfl
    | (with_reducible refine Kept.by' (by with_reducible assumption) ?_ ?_)
    | split
theorem leave_k (s : State) (a1) (a2) (a3) (a4) : Kept [.regs, .ev, .mem, .host, .ch, .slices, .net, .land, .cy, .rm, .out, .draws] s (leave s a1 a2 a3 a4) := by
  unfold leave
  try dsimp -proj only
  repeat' first
    | with_reducible assumption
    | with_reducible apply Kept.refl
    | with_reducible apply Kept.ite
    | with_reducible apply Kept.ite1
    | with_reducible apply Kept.ite2
    | with_reducible apply Kept.by' (rmSend_k _ _)
    | with_reducible apply Kept.by' (Kept.eq1 (rmSend_k _ _) (by assumption))
    | with_reducible apply Kept.by' (inlineEgress_k _ _ _ _)
    | with_reducible apply Kept.by' (Kept.eq1 (inlineEgress_k _ _ _ _) (by assumption))
    | with_reducible apply Kept.by' (sendOut_k _ _ _)
    | with_reducible apply Kept.by' (endAt_k _ _ _)
    | with_reducible apply Kept.by' (begunDec_k _ _)
    | apply rfl
    | (with_reducible refine Kept.by' (by with_reducible assumption) ?_ ?_)
    | split
theorem egressRetire_k (s : State) (a1) (a2) (a3) (a4) (a5) : Kept [.regs, .ev, .mem, .host, .ch, .slices, .net, .stairs, .sheaf, .land, .tils, .tm, .cy, .rm, .out, .draws] s (egressRetire s a1 a2 a3 a4 a5) := by
  unfold egressRetire
  try dsimp -proj only
  repeat' first
    | with_reducible assumption
    | with_reducible apply Kept.refl
    | with_reducible apply Kept.ite
    | with_reducible apply Kept.ite1
    | with_reducible apply Kept.ite2
    | with_reducible apply Kept.by' (ledger_k _ _ _ _ _)
    | with_reducible apply Kept.by' (popClimb_k _ _ _ _ _)
    | with_reducible apply Kept.by' (retireGone_k _ _ _ _ _)
    | with_reducible apply Kept.by' (Kept.eq1 (retireGone_k _ _ _ _ _) (by assumption))
    | with_reducible apply Kept.by' (keepOutcome_k _ _ _ _ _ _)
    | with_reducible apply Kept.by' (bump_k _ _ _)
    | with_reducible apply Kept.by' (applyAll_k _ _ _ _ _)
    | with_reducible apply Kept.by' (leave_k _ _ _ _ _)
    | with_reducible apply Kept.by' (puntPkt_k _ _ _ _ _)
    | with_reducible apply Kept.by' (Kept.eq1 (puntPkt_k _ _ _ _ _) (by assumption))
    | with_reducible apply Kept.by' (endAt_k _ _ _)
    | apply rfl
    | (with_reducible refine Kept.by' (by with_reducible assumption) ?_ ?_)
    | split
theorem tblCmdRow_k (a0) (a1) (a2) (a3) (a4) (a5) (s : State) : Kept [.regs, .acc, .ev, .stairs, .lpm, .land, .out] s (tblCmdRow a0 a1 a2 a3 a4 a5 s) := by
  unfold tblCmdRow
  try dsimp -proj only
  repeat' first
    | with_reducible assumption
    | with_reducible apply Kept.refl
    | with_reducible apply Kept.ite
    | with_reducible apply gate_k
    | with_reducible apply Kept.by' (tblCmdWrite_k _ _ _ _)
    | (intro _; intros)
    | dsimp only
    | apply rfl
    | (with_reducible refine Kept.by' (by with_reducible assumption) ?_ ?_)
    | split
theorem timerLate_k (s : State) (a1) (a2) (a3) : Kept [.mem, .tils] s (timerLate s a1 a2 a3) := by
  unfold timerLate
  try dsimp -proj only
  repeat' first
    | with_reducible assumption
    | with_reducible apply Kept.refl
    | with_reducible apply Kept.ite
    | with_reducible apply Kept.by' (thUpd_k _ _ _ _)
    | with_reducible apply Kept.by' (postMsg_k (by assumption))
    | with_reducible apply Kept.getD
    | (intro _; intros)
    | apply rfl
    | (with_reducible refine Kept.by' (by with_reducible assumption) ?_ ?_)
    | split
theorem deadlineLate_k (s : State) (a1) (a2) : Kept [.regs, .mem, .tils, .out] s (deadlineLate s a1 a2) := by
  unfold deadlineLate
  try dsimp -proj only
  repeat' first
    | with_reducible assumption
    | with_reducible apply Kept.refl
    | with_reducible apply Kept.ite
    | with_reducible apply Kept.by' (chTry_k (by assumption))
    | with_reducible apply Kept.by' (chReply_k _ _ _ _ _)
    | with_reducible apply Kept.getD
    | (intro _; intros)
    | apply rfl
    | (with_reducible refine Kept.by' (by with_reducible assumption) ?_ ?_)
    | split
theorem tblResume_k (s : State) (a1) : Kept [.regs, .ev, .stairs, .lpm, .sheaf, .land] s (tblResume s a1) := by
  unfold tblResume
  try dsimp -proj only
  repeat' first
    | with_reducible assumption
    | with_reducible apply Kept.refl
    | with_reducible apply Kept.ite
    | with_reducible apply Kept.by' (stairUpd_k _ _ _)
    | with_reducible apply Kept.by' (cmdFinish_k _ _ _ _)
    | with_reducible apply Kept.by' (cmdBusyBits_k _ _ _)
    | (intro _; intros)
    | dsimp only
    | apply rfl
    | (with_reducible refine Kept.by' (by with_reducible assumption) ?_ ?_)
    | split
    | with_reducible apply Kept.set_sheaf
theorem genWork_k (s : State) (a1) (a2) (a3) (a4) : Kept [.regs, .ev, .mem, .host, .ch, .slices, .land, .rm, .out, .draws] s (genWork s a1 a2 a3 a4) := by
  unfold genWork
  try dsimp -proj only
  repeat' first
    | with_reducible assumption
    | with_reducible apply Kept.refl
    | with_reducible apply Kept.ite
    | with_reducible apply Kept.ite1
    | with_reducible apply Kept.by' (slFetch_k _ _ _ _ _)
    | with_reducible apply Kept.by' (Kept.eq1 (slFetch_k _ _ _ _ _) (by assumption))
    | with_reducible apply Kept.by' (qpUpd_k _ _ _)
    | with_reducible apply Kept.by' (qpError_k _ _ _ _ _)
    | with_reducible apply Kept.by' (sendData_k _ _ _ _ _ _ _ _ _ _ _ _)
    | with_reducible apply Kept.by' (nextWork_k (by assumption))
    | (intro _; intros)
    | dsimp only
    | apply rfl
    | (with_reducible refine Kept.by' (by with_reducible assumption) ?_ ?_)
    | split
theorem unitRow_k (a0) (a1) (a2) (a3) (s : State) : Kept [.regs, .acc, .ev, .mem, .ch, .net, .stairs, .sheaf, .land, .unit, .tils, .cy, .rm, .out, .draws] s (unitRow a0 a1 a2 a3 s) := by
  unfold unitRow
  try dsimp -proj only
  repeat' first
    | with_reducible assumption
    | with_reducible apply Kept.refl
    | with_reducible apply Kept.ite
    | with_reducible apply gate_k
    | with_reducible apply Kept.by' (unitCmdWrite_k _ _)
    | (intro _; intros)
    | apply rfl
    | (with_reducible refine Kept.by' (by with_reducible assumption) ?_ ?_)
    | split
theorem asideGo_k (s : State) (a1) : Kept [.regs, .ev, .mem, .host, .ch, .slices, .net, .land, .cy, .rm, .out, .draws] s (asideGo s a1) := by
  unfold asideGo
  try dsimp -proj only
  repeat' first
    | with_reducible assumption
    | with_reducible apply Kept.refl
    | with_reducible apply Kept.ite
    | with_reducible apply Kept.by' (verifyPkt_k _ _ _ _)
    | with_reducible apply Kept.by' (begunInc_k _ _)
    | with_reducible apply Kept.by' (sendOut_k _ _ _)
    | with_reducible apply Kept.by' (bump_k _ _ _)
    | with_reducible apply Kept.by' (cyUpd_k _ _)
    | with_reducible apply Kept.by' (begunDec_k _ _)
    | with_reducible apply Kept.by' (endAt_k _ _ _)
    | with_reducible apply Kept.by' (noKeyCount_k _ _ _)
    | apply rfl
    | (with_reducible refine Kept.by' (by with_reducible assumption) ?_ ?_)
    | split
theorem deliver_k (s : State) (a1) : Kept [.regs, .mem, .host, .ch, .slices, .tils, .oz, .out] s (deliver s a1) := by
  unfold deliver
  try dsimp -proj only
  repeat' first
    | with_reducible assumption
    | with_reducible apply Kept.refl
    | with_reducible apply Kept.ite
    | with_reducible apply Kept.by' (logPut_k _ _)
    | with_reducible apply Kept.by' (undelivered_k _)
    | with_reducible apply Kept.by' (ringPut_k _ _ _)
    | with_reducible apply Kept.by' (ringFlush_k _ _ _)
    | with_reducible apply Kept.by' (chanSet_k _ _ _)
    | with_reducible apply Kept.by' (chanUpd_k _ _ _)
    | with_reducible apply Kept.by' (postMsg_k (by assumption))
    | with_reducible apply Kept.getD
    | (intro _; intros)
    | apply rfl
    | (with_reducible refine Kept.by' (by with_reducible assumption) ?_ ?_)
    | split
theorem settleOne_k {s t} (e : settleOne s = some t) : Kept [.regs, .mem, .host, .ch, .slices, .sv, .out, .draws] s t := by
  unfold settleOne at e
  dsimp -proj only at e
  split at e
  · cases e; exact Kept.after Kept.refl (endCmd_k _ _ _ _ _ _) rfl
  · split at e
    · cases e; exact Kept.after Kept.refl (ctrlUpd_k _ _ _) rfl
    · split at e
      · cases e; exact Kept.after Kept.refl (adminWake_k _ _ _ _) rfl
      · cases e
theorem settleN_k (n) (s) : Kept [.regs, .mem, .host, .ch, .slices, .sv, .out, .draws] s (settleN n s) := by
  induction n generalizing s with
  | zero => exact Kept.refl
  | succ n ih =>
    unfold settleN
    split
    · exact Kept.after (settleOne_k (by assumption)) (ih _) rfl
    · exact Kept.refl
theorem settle_k (s) : Kept [.regs, .mem, .host, .ch, .slices, .sv, .out, .draws] s (settle s) := settleN_k _ _
theorem finish_k (s a b c d e) : Kept [.regs, .mem, .host, .ch, .slices, .sv, .out, .draws] s (finish s a b c d e) :=
  Kept.after (Kept.after Kept.refl (endCmd_k _ _ _ _ _ _) rfl) (settle_k _) rfl
theorem otherOp_k (s a b c d) : Kept [.regs, .ev, .mem, .host, .ch, .slices, .sv, .out, .draws] s (otherOp s a b c d) := by
  unfold otherOp
  split
  · exact Kept.refl
  · exact Kept.after (Kept.after Kept.refl (fetchCmd_k _ _ _ _) rfl) (finish_k _ _ _ _ _ _) rfl
theorem ioStart_k {l : List Part} {s t : State} {id env k go} (h : Kept l s t) (g : ∀ u m, Kept l s u → Kept l s (go u id m env k))
    (hl : [Part.regs].all (fun p => l.contains p) = true) : Kept l s (ioStart t id env k go) := by
  unfold ioStart
  split
  · exact h
  · split
    · exact h.after (bump_k _ _ _) hl
    · exact g _ _ h
theorem runAdmin_k {l : List Part} {s t : State} {sl op cmd f} (h : Kept l s t) (g : ∀ u n, Kept l s u → Kept l s (f u n).1)
    (hl : [Part.mem, .host, .ch, .slices, .out].all (fun p => l.contains p) = true) : Kept l s (runAdmin t sl op cmd f) := by
  unfold runAdmin
  dsimp -proj only
  split
  · exact h
  · split
    · exact h
    · split
      · exact h.after (adminComplete_k _ _ _ _ _) hl
      · split
        · exact h.after (adminComplete_k _ _ _ _ _) hl
        · split
          · exact h.after (adminComplete_k _ _ _ _ _) hl
          · split
            · exact Kept.after (Kept.eq1 (g _ _ h) (by assumption)) (adminComplete_k _ _ _ _ _) hl
            · exact Kept.eq1 (g _ _ h) (by assumption)
theorem svAdmin_k {l : List Part} {s t : State} {sl op cmd f} (h : Kept l s t) (g : ∀ u n, Kept l s u → Kept l s (f u n).1)
    (hl : [Part.mem, .host, .ch, .slices, .out].all (fun p => l.contains p) = true) : Kept l s (svAdmin t sl op cmd f) := by
  unfold svAdmin
  refine runAdmin_k h (fun u n hu => ?_) hl
  split
  · exact hu
  · exact g _ _ hu
theorem ownerCmd_k {l : List Part} {s t : State} {sl op cmd f} (h : Kept l s t) (g : ∀ u n x, Kept l s u → Kept l s (f u n x).1)
    (hl : [Part.mem, .host, .ch, .slices, .out].all (fun p => l.contains p) = true) : Kept l s (ownerCmd t sl op cmd f) := by
  unfold ownerCmd
  refine runAdmin_k h (fun u n hu => ?_) hl
  split
  · exact hu
  · split
    · exact hu
    · exact g _ _ _ hu
theorem nvmeAdmin_k {l : List Part} {s t : State} {i op sqe f} (h : Kept l s t) (g : ∀ u n x, Kept l s u → Kept l s (f u n x))
    (hl : [Part.regs, .ev, .mem, .host, .ch, .slices, .sv, .out, .draws].all (fun p => l.contains p) = true) : Kept l s (nvmeAdmin t i op sqe f) := by
  have hf : ∀ a b c, Kept l s (fetchCmd t a b c).2 := fun a b c => h.after (fetchCmd_k _ _ _ _) (parts_sub hl rfl)
  unfold nvmeAdmin
  dsimp -proj only
  split
  · exact h
  · split
    · exact h.after (otherOp_k _ _ _ _ _) (parts_sub hl rfl)
    · split
      · exact hf _ _ _
      · split
        · exact (hf _ _ _).after (finish_k _ _ _ _ _ _) (parts_sub hl rfl)
        · exact g _ _ _ (hf _ _ _)
theorem two_k {s : State} {v w} : Kept [.land] s { s with land := { s.land with queues := v, use := w } } := Kept.of ⟨fun p hp => by cases p <;> first | rfl | cases hp⟩ rfl rfl rfl rfl
theorem sliceDestroy_k (s : State) (sl) : Kept [.regs, .ev, .mem, .host, .ch, .slices, .land, .rm, .out] s (sliceDestroy s sl) := by
  unfold sliceDestroy
  dsimp -proj only
  refine Kept.after ?_ (resetRegs_k _ _ _) rfl
  have h1 : ∀ s : State, Kept [.regs, .ev, .mem, .host, .ch, .slices, .land, .rm, .out] s ((s.ch.chans.filter (fun e => e.2.slice == sl)).foldl (fun s e =>
    adminWake (adminWake (adminWake (chanGone s e.1) 0x03 (chanHandle e.1 e.2) { handle := chanHandle e.1 e.2 }) 0x07 (chanHandle e.1 e.2) { sts := STS_SLICE_STATE }) 0x80 (chanHandle e.1 e.2) { sts := STS_SLICE_STATE }) s) := by
    intro s
    apply Kept.foldl Kept.refl
    intro t a h
    exact (((h.after (chanGone_k _ _) rfl).after (adminWake_k _ _ _ _) rfl).after (adminWake_k _ _ _ _) rfl).after (adminWake_k _ _ _ _) rfl
  have h2 : ∀ s : State, Kept [.regs, .ev, .mem, .host, .ch, .slices, .land, .rm, .out] s ((s.rm.regions.filter (fun e => e.2.slice == sl)).foldl (fun s e => adminWake (regionGone s e.1) 0x83 e.1 { sts := STS_SLICE_STATE }) s) := by
    intro s
    apply Kept.foldl Kept.refl
    intro t a h
    exact (h.after (regionGone_k _ _) rfl).after (adminWake_k _ _ _ _) rfl
  have h := (h1 s).after (h2 _) rfl
  refine Kept.after h (m := [.mem, .ch, .slices, .land]) ⟨⟨fun p hp => ?_⟩, id, fun h => memClear_wf h, OzLe.refl _, id⟩ rfl
  cases p <;> first | rfl | cases hp
end Sys2Proof.Machine
end

