-- ==== Sys2Proof/Laws/Frame5.lean ====
section
/-! SUPPORT. Laws/Frame5.lean: frames: storage commands and the mailbox. -/

namespace Sys2Proof.Machine
set_option linter.all false
theorem stageDone_k (s : State) (a1) (a2) : Kept [.regs, .mem, .host, .ch, .slices, .sv, .out, .draws] s (stageDone s a1 a2) := by
  unfold stageDone
  try dsimp -proj only
  repeat' first
    | with_reducible assumption
    | with_reducible apply Kept.refl
    | with_reducible apply Kept.ite
    | with_reducible apply Kept.by' (finish_k _ _ _ _ _ _)
    | with_reducible apply Kept.by' (svUpd_k _ _)
    | apply rfl
    | (with_reducible refine Kept.by' (by with_reducible assumption) ?_ ?_)
    | split
theorem poolChange_k (s : State) (a1) (a2) (a3) (a4) : Kept [.regs, .mem, .host, .ch, .slices, .sv, .out, .draws] s (poolChange s a1 a2 a3 a4) := by
  unfold poolChange
  try dsimp -proj only
  repeat' first
    | with_reducible assumption
    | with_reducible apply Kept.refl
    | with_reducible apply Kept.ite
    | with_reducible apply Kept.by' (cmdUpd_k _ _ _)
    | with_reducible apply Kept.by' (drvOpen_k _ _ _ _)
    | with_reducible apply Kept.by' (stageDone_k _ _ _)
    | with_reducible apply Kept.by' (countIo_k _ _ _)
    | with_reducible apply Kept.by' (poolApply_k _ _ _ _)
    | apply rfl
    | (with_reducible refine Kept.by' (by with_reducible assumption) ?_ ?_)
    | split
theorem beginDsm_k (s : State) (a1) (a2) (a3) (a4) : Kept [.regs, .mem, .host, .ch, .slices, .sv, .out, .draws] s (beginDsm s a1 a2 a3 a4) := by
  unfold beginDsm
  try dsimp -proj only
  repeat' first
    | with_reducible assumption
    | with_reducible apply Kept.refl
    | with_reducible apply Kept.ite
    | with_reducible apply Kept.by' (finish_k _ _ _ _ _ _)
    | with_reducible apply Kept.by' (poolChange_k _ _ _ _ _)
    | with_reducible apply Kept.by' (cmdUpd_k _ _ _)
    | with_reducible apply Kept.by' (sendAway_k _ _ _ _ _)
    | apply rfl
    | (with_reducible refine Kept.by' (by with_reducible assumption) ?_ ?_)
    | split
theorem nsEndAll_k (s : State) (a1) (a2) : Kept [.regs, .mem, .host, .ch, .slices, .sv, .out, .draws] s (nsEndAll s a1 a2) := by
  unfold nsEndAll
  try dsimp -proj only
  repeat' first
    | with_reducible assumption
    | with_reducible apply Kept.refl
    | with_reducible apply Kept.ite
    | with_reducible apply Kept.ite1
    | with_reducible apply Kept.ite2
    | with_reducible apply Kept.by' (finish_k _ _ _ _ _ _)
    | with_reducible apply Kept.by' (writeMaybe_k _ _ _)
    | with_reducible apply Kept.foldl
    | with_reducible apply Kept.foldl1
    | (intro _; intros)
    | apply rfl
    | (with_reducible refine Kept.by' (by with_reducible assumption) ?_ ?_)
    | split
theorem svKeyless_k (s : State) : Kept [.regs, .ev, .mem, .host, .ch, .slices, .sv, .out, .draws] s (svKeyless s) := by
  unfold svKeyless
  try dsimp -proj only
  repeat' first
    | with_reducible assumption
    | with_reducible apply Kept.refl
    | with_reducible apply Kept.ite
    | with_reducible apply Kept.ite1
    | with_reducible apply Kept.ite2
    | with_reducible apply Kept.by' (nsEndAll_k _ _ _)
    | with_reducible apply Kept.by' (nsState_k _ _ _)
    | with_reducible apply Kept.foldl
    | with_reducible apply Kept.foldl1
    | (intro _; intros)
    | apply rfl
    | (with_reducible refine Kept.by' (by with_reducible assumption) ?_ ?_)
    | split
theorem dataOut_k (s : State) (a1) (a2) (a3) (a4) (a5) (a6) : Kept [.regs, .ev, .mem, .host, .ch, .slices, .sv, .out, .draws] s (dataOut s a1 a2 a3 a4 a5 a6) := by
  unfold dataOut
  try dsimp -proj only
  repeat' first
    | with_reducible assumption
    | with_reducible apply Kept.refl
    | with_reducible apply Kept.ite
    | with_reducible apply Kept.by' (finish_k _ _ _ _ _ _)
    | with_reducible apply Kept.by' (prpRead_k _ _ _ _ _ _)
    | dsimp only
    | apply rfl
    | (with_reducible refine Kept.by' (by with_reducible assumption) ?_ ?_)
    | split
theorem aerFire_k (s : State) (a1) (a2) : Kept [.regs, .mem, .host, .ch, .slices, .sv, .out, .draws] s (aerFire s a1 a2) := by
  unfold aerFire
  try dsimp -proj only
  repeat' first
    | with_reducible assumption
    | with_reducible apply Kept.refl
    | with_reducible apply Kept.ite
    | with_reducible apply Kept.ite2
    | with_reducible apply Kept.by' (finish_k _ _ _ _ _ _)
    | apply rfl
    | (with_reducible refine Kept.by' (by with_reducible assumption) ?_ ?_)
    | split
theorem badDoorbell_k (s : State) (a1) : Kept [.regs, .mem, .host, .ch, .slices, .sv, .out, .draws] s (badDoorbell s a1) := by
  unfold badDoorbell
  try dsimp -proj only
  repeat' first
    | with_reducible assumption
    | with_reducible apply Kept.refl
    | with_reducible apply Kept.ite
    | with_reducible apply Kept.by' (aerFire_k _ _ _)
    | apply rfl
    | (with_reducible refine Kept.by' (by with_reducible assumption) ?_ ?_)
    | split
theorem cqDoorbell_k (s : State) (a1) (a2) (a3) (a4) : Kept [.regs, .mem, .host, .ch, .slices, .sv, .out, .draws] s (cqDoorbell s a1 a2 a3 a4) := by
  unfold cqDoorbell
  try dsimp -proj only
  repeat' first
    | with_reducible assumption
    | with_reducible apply Kept.refl
    | with_reducible apply Kept.ite
    | with_reducible apply Kept.by' (badDoorbell_k _ _)
    | with_reducible apply Kept.by' (postGo_k _ _)
    | with_reducible apply Kept.by' (ctrlUpd_k _ _ _)
    | apply rfl
    | (with_reducible refine Kept.by' (by with_reducible assumption) ?_ ?_)
    | split
theorem keyErase_k (s : State) (a1) : Kept [.regs, .ev, .mem, .host, .ch, .slices, .cy, .rm, .sv, .out, .draws] s (keyErase s a1) := by
  unfold keyErase
  try dsimp -proj only
  repeat' first
    | with_reducible assumption
    | with_reducible apply Kept.refl
    | with_reducible apply Kept.ite
    | with_reducible apply Kept.ite2
    | with_reducible apply Kept.by' (wrF_k _ _ _ _ _)
    | with_reducible apply Kept.by' (wrN_k _ _ _)
    | with_reducible apply Kept.by' (cyUpd_k _ _)
    | with_reducible apply Kept.by' (wr64_k _ _ _)
    | with_reducible apply Kept.by' (bump_k _ _ _)
    | with_reducible apply Kept.by' (showSlots_k _)
    | with_reducible apply Kept.by' (raise_k _ _ _)
    | with_reducible apply Kept.by' (svKeyless_k _)
    | with_reducible apply Kept.by' (qpsKeyless_k _)
    | with_reducible apply Kept.by' (ideInsecure_k _)
    | apply rfl
    | (with_reducible refine Kept.by' (by with_reducible assumption) ?_ ?_)
    | split
theorem scopeClose_lc (s : State) : (scopeClose s).oz.lc = s.oz.lc := by
  unfold scopeClose
  split
  · rw [(scopeEvents_k _ _ _).oz, (raise_k _ _ _).oz, (showScope_k _).oz]
    rfl
  · rfl
theorem lcMove_k (s : State) (a1) (a2) (h0 : s.oz.lc ≤ a1) (h3 : a1 ≤ 3) : Kept [.regs, .ev, .mem, .host, .ch, .slices, .oz, .cy, .rm, .sv, .out, .draws] s (lcMove s a1 a2) := by
  unfold lcMove
  try dsimp -proj only
  repeat' first
    | with_reducible assumption
    | with_reducible apply Kept.refl
    | with_reducible apply Kept.ite
    | with_reducible apply Kept.by' (scopeClose_k _)
    | with_reducible apply Kept.by' (ozUpd_k _ _ ?_)
    | exact ⟨(scopeClose_lc s).symm ▸ h0, fun _ => h3, Nat.le_refl _, fun h => by rw [h]; rfl⟩
    | with_reducible apply Kept.by' (showScope_k _)
    | with_reducible apply Kept.by' (wrF_k _ _ _ _ _)
    | with_reducible apply Kept.by' (keyErase_k _ _)
    | with_reducible apply Kept.by' (raise_k _ _ _)
    | exact OzLe.same rfl rfl rfl
    | apply rfl
    | (with_reducible refine Kept.by' (by with_reducible assumption) ?_ ?_)
    | split
theorem nsChanged_k (s : State) (a1) (a2) : Kept [.regs, .mem, .host, .ch, .slices, .sv, .out, .draws] s (nsChanged s a1 a2) := by
  unfold nsChanged
  try dsimp -proj only
  repeat' first
    | with_reducible assumption
    | with_reducible apply Kept.refl
    | with_reducible apply Kept.ite
    | with_reducible apply Kept.by' (ctrlUpd_k _ _ _)
    | with_reducible apply Kept.by' (aerFire_k _ _ _)
    | apply rfl
    | (with_reducible refine Kept.by' (by with_reducible assumption) ?_ ?_)
    | split
theorem readDone_k (s : State) (a1) (a2) (a3) (a4) : Kept [.regs, .mem, .host, .ch, .slices, .sv, .out, .draws] s (readDone s a1 a2 a3 a4) := by
  unfold readDone
  try dsimp -proj only
  repeat' first
    | with_reducible assumption
    | with_reducible apply Kept.refl
    | with_reducible apply Kept.ite
    | with_reducible apply Kept.by' (finish_k _ _ _ _ _ _)
    | with_reducible apply Kept.by' (countIo_k _ _ _)
    | apply rfl
    | (with_reducible refine Kept.by' (by with_reducible assumption) ?_ ?_)
    | split
theorem sentDone_k (s : State) (a1) (a2) (a3) (a4) : Kept [.regs, .mem, .host, .ch, .slices, .sv, .out, .draws] s (sentDone s a1 a2 a3 a4) := by
  unfold sentDone
  try dsimp -proj only
  repeat' first
    | with_reducible assumption
    | with_reducible apply Kept.refl
    | with_reducible apply Kept.ite
    | with_reducible apply Kept.ite1
    | with_reducible apply Kept.ite2
    | with_reducible apply Kept.by' (readDone_k _ _ _ _ _)
    | with_reducible apply Kept.by' (finish_k _ _ _ _ _ _)
    | with_reducible apply Kept.by' (poolJournal_k _ _ _)
    | with_reducible apply Kept.by' (countIo_k _ _ _)
    | with_reducible apply Kept.by' (poolApply_k _ _ _ _)
    | apply rfl
    | (with_reducible refine Kept.by' (by with_reducible assumption) ?_ ?_)
    | split
theorem beginWrite_k (s : State) (a1) (a2) (a3) (a4) : Kept [.regs, .ev, .mem, .host, .ch, .slices, .sv, .out, .draws] s (beginWrite s a1 a2 a3 a4) := by
  unfold beginWrite
  try dsimp -proj only
  repeat' first
    | with_reducible assumption
    | with_reducible apply Kept.refl
    | with_reducible apply Kept.ite
    | with_reducible apply Kept.ite1
    | with_reducible apply Kept.ite2
    | with_reducible apply Kept.by' (cmdUpd_k _ _ _)
    | with_reducible apply Kept.by' (finish_k _ _ _ _ _ _)
    | with_reducible apply Kept.by' (svFetch_k _ _ _ _ _)
    | with_reducible apply Kept.by' (sendAway_k _ _ _ _ _)
    | with_reducible apply Kept.by' (poolChange_k _ _ _ _ _)
    | (intro _; intros)
    | dsimp only
    | apply rfl
    | (with_reducible refine Kept.by' (by with_reducible assumption) ?_ ?_)
    | split
theorem beginZeroes_k (s : State) (a1) (a2) (a3) (a4) : Kept [.regs, .mem, .host, .ch, .slices, .sv, .out, .draws] s (beginZeroes s a1 a2 a3 a4) := by
  unfold beginZeroes
  try dsimp -proj only
  repeat' first
    | with_reducible assumption
    | with_reducible apply Kept.refl
    | with_reducible apply Kept.ite
    | with_reducible apply Kept.ite1
    | with_reducible apply Kept.ite2
    | with_reducible apply Kept.by' (cmdUpd_k _ _ _)
    | with_reducible apply Kept.by' (finish_k _ _ _ _ _ _)
    | with_reducible apply Kept.by' (sendZeroes_k _ _ _ _ _ _)
    | with_reducible apply Kept.by' (poolChange_k _ _ _ _ _)
    | (intro _; intros)
    | dsimp only
    | apply rfl
    | (with_reducible refine Kept.by' (by with_reducible assumption) ?_ ?_)
    | split
theorem capsuleWake_k (s : State) : Kept [.regs, .ev, .mem, .host, .ch, .slices, .sv, .out, .draws] s (capsuleWake s) := by
  unfold capsuleWake
  try dsimp -proj only
  repeat' first
    | with_reducible assumption
    | with_reducible apply Kept.refl
    | with_reducible apply Kept.ite
    | with_reducible apply Kept.ite1
    | with_reducible apply Kept.ite2
    | with_reducible apply Kept.by' (beginWrite_k _ _ _ _ _)
    | with_reducible apply Kept.by' (beginRead_k _ _ _ _ _)
    | with_reducible apply Kept.by' (beginZeroes_k _ _ _ _ _)
    | with_reducible apply Kept.by' (beginDsm_k _ _ _ _ _)
    | apply rfl
    | (with_reducible refine Kept.by' (by with_reducible assumption) ?_ ?_)
    | split
theorem nsNotReady_k (s : State) (a1) : Kept [.regs, .ev, .mem, .host, .ch, .slices, .sv, .out, .draws] s (nsNotReady s a1) := by
  unfold nsNotReady
  try dsimp -proj only
  repeat' first
    | with_reducible assumption
    | with_reducible apply Kept.refl
    | with_reducible apply Kept.ite
    | with_reducible apply Kept.by' (nsEndAll_k _ _ _)
    | with_reducible apply Kept.by' (nsState_k _ _ _)
    | apply rfl
    | (with_reducible refine Kept.by' (by with_reducible assumption) ?_ ?_)
    | split
theorem ctrlReset_k (s : State) (a1) (a2) : Kept [.regs, .ev, .mem, .host, .ch, .slices, .sv, .out, .draws] s (ctrlReset s a1 a2) := by
  unfold ctrlReset
  try dsimp -proj only
  repeat' first
    | with_reducible assumption
    | with_reducible apply Kept.refl
    | with_reducible apply Kept.ite
    | with_reducible apply Kept.ite1
    | with_reducible apply Kept.ite2
    | with_reducible apply Kept.by' (raise_k _ _ _)
    | with_reducible apply Kept.by' (svUpd_k _ _)
    | with_reducible apply Kept.by' (ctrlUpd_k _ _ _)
    | with_reducible apply Kept.by' (showFlight_k _)
    | with_reducible apply Kept.by' (settle_k _)
    | with_reducible apply Kept.by' (testEnd_k _ _ _ _)
    | (intro _; intros)
    | dsimp only
    | apply rfl
    | (with_reducible refine Kept.by' (by with_reducible assumption) ?_ ?_)
    | split
theorem ccWrite_k (s : State) (a1) (a2) : Kept [.regs, .ev, .mem, .host, .ch, .slices, .sv, .out, .draws] s (ccWrite s a1 a2) := by
  unfold ccWrite
  try dsimp -proj only
  repeat' first
    | with_reducible assumption
    | with_reducible apply Kept.refl
    | with_reducible apply Kept.ite
    | with_reducible apply Kept.by' (ctrlUpd_k _ _ _)
    | with_reducible apply Kept.by' (ccRise_k _ _ _ _)
    | with_reducible apply Kept.by' (ctrlReset_k _ _ _)
    | with_reducible apply Kept.by' (settle_k _)
    | apply rfl
    | (with_reducible refine Kept.by' (by with_reducible assumption) ?_ ?_)
    | split
theorem sqDoorbell_k (s : State) (a1) (a2) (a3) (a4) : Kept [.regs, .mem, .host, .ch, .slices, .sv, .out, .draws] s (sqDoorbell s a1 a2 a3 a4) := by
  unfold sqDoorbell
  try dsimp -proj only
  repeat' first
    | with_reducible assumption
    | with_reducible apply Kept.refl
    | with_reducible apply Kept.ite
    | with_reducible apply Kept.by' (badDoorbell_k _ _)
    | with_reducible apply Kept.by' (bump_k _ _ _)
    | with_reducible apply Kept.by' (ctrlUpd_k _ _ _)
    | apply rfl
    | (with_reducible refine Kept.by' (by with_reducible assumption) ?_ ?_)
    | split
theorem nvmeWrite_k (s : State) (a1) (a2) (a3) (a4) : Kept [.regs, .ev, .mem, .host, .ch, .slices, .sv, .out, .draws] s (nvmeWrite s a1 a2 a3 a4) := by
  unfold nvmeWrite
  try dsimp -proj only
  repeat' first
    | with_reducible assumption
    | with_reducible apply Kept.refl
    | with_reducible apply Kept.ite
    | with_reducible apply Kept.by' (ctrlUpd_k _ _ _)
    | with_reducible apply Kept.by' (ccWrite_k _ _ _)
    | with_reducible apply Kept.by' (sqDoorbell_k _ _ _ _ _)
    | with_reducible apply Kept.by' (cqDoorbell_k _ _ _ _ _)
    | (intro _; intros)
    | dsimp only
    | apply rfl
    | (with_reducible refine Kept.by' (by with_reducible assumption) ?_ ?_)
    | split
theorem beginFlush_k (s : State) (a1) (a2) (a3) : Kept [.regs, .mem, .host, .ch, .slices, .sv, .out, .draws] s (beginFlush s a1 a2 a3) := by
  unfold beginFlush
  try dsimp -proj only
  repeat' first
    | with_reducible assumption
    | with_reducible apply Kept.refl
    | with_reducible apply Kept.ite
    | with_reducible apply Kept.ite1
    | with_reducible apply Kept.ite2
    | with_reducible apply Kept.by' (cmdUpd_k _ _ _)
    | with_reducible apply Kept.by' (settle_k _)
    | with_reducible apply Kept.by' (sendAway_k _ _ _ _ _)
    | with_reducible apply Kept.foldl
    | with_reducible apply Kept.foldl1
    | (intro _; intros)
    | dsimp only
    | apply rfl
    | (with_reducible refine Kept.by' (by with_reducible assumption) ?_ ?_)
    | split
theorem flushStart_k (s : State) (a1) (a2) (a3) : Kept [.regs, .mem, .host, .ch, .slices, .sv, .out, .draws] s (flushStart s a1 a2 a3) := by
  unfold flushStart
  try dsimp -proj only
  repeat' first
    | with_reducible assumption
    | with_reducible apply Kept.refl
    | with_reducible apply Kept.ite
    | with_reducible apply Kept.by' (finish_k _ _ _ _ _ _)
    | with_reducible apply Kept.by' (cmdUpd_k _ _ _)
    | with_reducible apply Kept.by' (beginFlush_k _ _ _ _)
    | with_reducible apply Kept.by' (testTouch_k _ _)
    | apply rfl
    | (with_reducible refine Kept.by' (by with_reducible assumption) ?_ ?_)
    | split
theorem svSliceReset_k (s : State) (a1) (a2) : Kept [.regs, .ev, .mem, .host, .ch, .slices, .sv, .out, .draws] s (svSliceReset s a1 a2) := by
  unfold svSliceReset
  try dsimp -proj only
  repeat' first
    | with_reducible assumption
    | with_reducible apply Kept.refl
    | with_reducible apply Kept.ite
    | with_reducible apply Kept.ite1
    | with_reducible apply Kept.ite2
    | with_reducible apply Kept.by' (ctrlUpd_k _ _ _)
    | with_reducible apply Kept.by' (ctrlReset_k _ _ _)
    | with_reducible apply Kept.foldl
    | with_reducible apply Kept.foldl1
    | (intro _; intros)
    | dsimp only
    | apply rfl
    | (with_reducible refine Kept.by' (by with_reducible assumption) ?_ ?_)
    | split
theorem backingDone_k (s : State) (a1) (a2) (a3) : Kept [.regs, .mem, .host, .ch, .slices, .sv, .out, .draws] s (backingDone s a1 a2 a3) := by
  unfold backingDone
  try dsimp -proj only
  repeat' first
    | with_reducible assumption
    | with_reducible apply Kept.refl
    | with_reducible apply Kept.ite
    | with_reducible apply Kept.by' (bump_k _ _ _)
    | with_reducible apply Kept.by' (svUpd_k _ _)
    | with_reducible apply Kept.by' (cmdUpd_k _ _ _)
    | with_reducible apply Kept.by' (settle_k _)
    | with_reducible apply Kept.by' (finish_k _ _ _ _ _ _)
    | with_reducible apply Kept.by' (poolJournal_k _ _ _)
    | with_reducible apply Kept.by' (sentDone_k _ _ _ _ _)
    | (intro _; intros)
    | dsimp only
    | apply rfl
    | (with_reducible refine Kept.by' (by with_reducible assumption) ?_ ?_)
    | split
theorem sliceResetEnd_k (s : State) (a1) : Kept [.regs, .ev, .mem, .host, .ch, .slices, .land, .rm, .out, .draws] s (sliceResetEnd s a1) := by
  unfold sliceResetEnd
  try dsimp -proj only
  repeat' first
    | with_reducible assumption
    | with_reducible apply Kept.refl
    | with_reducible apply Kept.ite
    | with_reducible apply Kept.by' (sliceDestroy_k _ _)
    | with_reducible apply Kept.by' (raisePhase_k _ _ _ _)
    | with_reducible apply Kept.by' (reclaimCheck_k _)
    | with_reducible apply Kept.by' (adminWake_k _ _ _ _)
    | exact fun h => aset_rising _ _ h
    | exact fun h => filter_rising _ h
    | exact fun h => h
    | exact fun h => memPuts_wf h
    | exact fun h => memClear_wf h
    | exact memPuts_wf (by assumption)
    | exact memClear_wf (by assumption)
    | exact fun h => filter_wf _ h
    | exact fun h => h
    | apply rfl
    | (with_reducible refine Kept.by' (by with_reducible assumption) ?_ ?_)
    | split
    | with_reducible apply Kept.set_regs
    | with_reducible apply Kept.set_ev
    | with_reducible apply Kept.set_mem
    | with_reducible apply Kept.set_host
    | with_reducible apply Kept.set_ch
    | with_reducible apply Kept.set_slices
    | with_reducible apply Kept.set_land
    | with_reducible apply Kept.set_rm
    | with_reducible apply Kept.set_out
    | with_reducible apply Kept.set_draws
    | (refine Kept.of ⟨fun p hp => ?_⟩ rfl rfl rfl (congrArg AccSt.own rfl); cases p <;> first | rfl | cases hp)

open Sys2Proof
theorem ioChecked_k {l : List Part} {s t : State} {i id sqe env chk go} (h : Kept l s t) (g : ∀ u m k, Kept l s u → Kept l s (go u id m env k))
    (hl : [Part.regs, .ev, .mem, .host, .ch, .slices, .sv, .out, .draws].all (fun p => l.contains p) = true) : Kept l s (ioChecked t i id sqe env chk go) := by
  unfold ioChecked
  dsimp -proj only
  split
  · exact h
  · split
    · exact h.after (finish_k _ _ _ _ _ _) (parts_sub hl rfl)
    · have hi : ∀ a b c d e, Kept l s (ioReads t a b c d e) := fun _ _ _ _ _ => h.after (ioReads_k _ _ _ _ _ _) (parts_sub hl rfl)
      split
      · exact (hi _ _ _ _ _).after (finish_k _ _ _ _ _ _) (parts_sub hl rfl)
      · refine ioStart_k ?_ (fun u m hu => g _ _ _ hu) (parts_sub hl rfl)
        split
        · exact ((hi _ _ _ _ _).after (cmdUpd_k _ _ _) (parts_sub hl rfl)).after (testTouch_k _ _) (parts_sub hl rfl)
        · exact (hi _ _ _ _ _).after (cmdUpd_k _ _ _) (parts_sub hl rfl)
theorem ioRow_k {l : List Part} {s t : State} {i q op sqe env held chk go} (h : Kept l s t) (g : ∀ u id m k, Kept l s u → Kept l s (go u id m env k))
    (hl : [Part.regs, .ev, .mem, .host, .ch, .slices, .sv, .out, .draws].all (fun p => l.contains p) = true) : Kept l s (ioRow t i q op sqe env held chk go) := by
  unfold ioRow
  dsimp -proj only
  split
  · split
    · split
      · exact g _ _ _ _ h
      · exact h
    · exact h
  · split
    · exact h
    · split
      · exact h.after (otherOp_k _ _ _ _ _) (parts_sub hl rfl)
      · exact ioChecked_k (h.after (fetchCmd_k _ _ _ _) (parts_sub hl rfl)) (fun u m k hu => g _ _ _ _ hu) hl
theorem capsuleWakeN_k (n) (s) : Kept [.regs, .ev, .mem, .host, .ch, .slices, .sv, .out, .draws] s (capsuleWakeN n s) := by
  induction n generalizing s with
  | zero => exact Kept.refl
  | succ n ih => exact Kept.after (capsuleWake_k _) (ih _) rfl
theorem mbInfo_k {s a e t b l} (h : mbInfo s a e = some (t, b, l)) : Kept [] s t := by
  unfold mbInfo at h
  try dsimp -proj only at h
  repeat' split at h
  all_goals first
    | (injection h; done)
    | (try unfold mbOk at h
       try unfold mbFail at h
       first
         | (injection h; done)
         | (injection h with h
            have hh : _ = t := congrArg Prod.fst h
            subst hh
            repeat' first
              | with_reducible apply Kept.refl
              | apply rfl))
theorem mbLogRead_k {s a e t b l} (h : mbLogRead s a e = some (t, b, l)) : Kept [.mem, .slices, .out] s t := by
  unfold mbLogRead at h
  try dsimp -proj only at h
  repeat' split at h
  all_goals first
    | (injection h; done)
    | (try unfold mbOk at h
       try unfold mbFail at h
       first
         | (injection h; done)
         | (injection h with h
            have hh : _ = t := congrArg Prod.fst h
            subst hh
            repeat' first
              | with_reducible apply Kept.refl
              | with_reducible apply Kept.by' (Kept.eq1 (ozPut_k _ _ _ _) (by assumption))
              | with_reducible apply Kept.by' (ozPut_k _ _ _ _)
              | apply rfl))
theorem mbBindMgmt_k {s a e t b l} (h : mbBindMgmt s a e = some (t, b, l)) : Kept [.oz] s t := by
  unfold mbBindMgmt at h
  try dsimp -proj only at h
  repeat' split at h
  all_goals first
    | (injection h; done)
    | (try unfold mbOk at h
       try unfold mbFail at h
       first
         | (injection h; done)
         | (injection h with h
            have hh : _ = t := congrArg Prod.fst h
            subst hh
            repeat' first
              | with_reducible apply Kept.refl
              | with_reducible apply Kept.by' (ozUpd_k _ _ ?_)
              | exact OzLe.same rfl rfl rfl
              | apply rfl))
theorem mbFwBegin_k {s a e t b l} (h : mbFwBegin s a e = some (t, b, l)) : Kept [.regs, .ev, .mem, .oz] s t := by
  unfold mbFwBegin at h
  try dsimp -proj only at h
  repeat' split at h
  all_goals first
    | (injection h; done)
    | (try unfold mbOk at h
       try unfold mbFail at h
       first
         | (injection h; done)
         | (injection h with h
            have hh : _ = t := congrArg Prod.fst h
            subst hh
            repeat' first
              | with_reducible apply Kept.refl
              | with_reducible apply Kept.by' (Kept.eq1 (fwBegin_k _ _) (by assumption))
              | with_reducible apply Kept.by' (fwBegin_k _ _)
              | apply rfl))
theorem mbFwWrite_k {s a e t b l} (h : mbFwWrite s a e = some (t, b, l)) : Kept [.regs, .ev, .mem, .host, .oz, .out, .draws] s t := by
  unfold mbFwWrite at h
  try dsimp -proj only at h
  repeat' split at h
  all_goals first
    | (injection h; done)
    | (try unfold mbOk at h
       try unfold mbFail at h
       injection h with h
       have hh : _ = t := congrArg Prod.fst h
       subst hh
       exact Kept.refl)
    | (refine mbRead_k h Kept.refl (fun u bs v c r e' hu => ?_) rfl
       try dsimp -proj only at e'
       repeat' split at e'
       all_goals
         try unfold mbOk at e'
         try unfold mbFail at e'
         injection e' with e'
         have hh : _ = v := congrArg Prod.fst e'
         subst hh
         repeat' first
           | with_reducible assumption
           | with_reducible apply Kept.by' (Kept.eq1 (fwWrite_k _ _ _ _) (by assumption))
           | with_reducible apply Kept.by' (fwWrite_k _ _ _ _)
           | apply rfl)
theorem mbFwVerify_k {s a e t b l} (h : mbFwVerify s a e = some (t, b, l)) : Kept [.regs, .ev, .oz] s t := by
  unfold mbFwVerify at h
  try dsimp -proj only at h
  repeat' split at h
  all_goals first
    | (injection h; done)
    | (try unfold mbOk at h
       try unfold mbFail at h
       first
         | (injection h; done)
         | (injection h with h
            have hh : _ = t := congrArg Prod.fst h
            subst hh
            repeat' first
              | with_reducible apply Kept.refl
              | with_reducible apply Kept.by' (Kept.eq1 (fwVerify_k _ _) (by assumption))
              | with_reducible apply Kept.by' (fwVerify_k _ _)
              | apply rfl))
theorem mbFwActivate_k {s a e t b l} (h : mbFwActivate s a e = some (t, b, l)) : Kept [.regs, .ev, .mem, .unit, .oz] s t := by
  unfold mbFwActivate at h
  try dsimp -proj only at h
  repeat' split at h
  all_goals first
    | (injection h; done)
    | (try unfold mbOk at h
       try unfold mbFail at h
       first
         | (injection h; done)
         | (injection h with h
            have hh : _ = t := congrArg Prod.fst h
            subst hh
            repeat' first
              | with_reducible apply Kept.refl
              | with_reducible apply Kept.by' (Kept.eq1 (fwActivate_k _ _ _ _) (by assumption))
              | with_reducible apply Kept.by' (fwActivate_k _ _ _ _)
              | apply rfl))
theorem mbFwCommit_k {s a e t b l} (h : mbFwCommit s a e = some (t, b, l)) : Kept [.regs, .ev, .mem, .oz] s t := by
  unfold mbFwCommit at h
  try dsimp -proj only at h
  repeat' split at h
  all_goals first
    | (injection h; done)
    | (try unfold mbOk at h
       try unfold mbFail at h
       first
         | (injection h; done)
         | (injection h with h
            have hh : _ = t := congrArg Prod.fst h
            subst hh
            repeat' first
              | with_reducible apply Kept.refl
              | with_reducible apply Kept.by' (Kept.eq1 (fwCommit_k _) (by assumption))
              | with_reducible apply Kept.by' (fwCommit_k _)
              | apply rfl))
theorem mbFwRevert_k {s a e t b l} (h : mbFwRevert s a e = some (t, b, l)) : Kept [.regs, .ev, .mem, .oz] s t := by
  unfold mbFwRevert at h
  try dsimp -proj only at h
  repeat' split at h
  all_goals first
    | (injection h; done)
    | (try unfold mbOk at h
       try unfold mbFail at h
       first
         | (injection h; done)
         | (injection h with h
            have hh : _ = t := congrArg Prod.fst h
            subst hh
            repeat' first
              | with_reducible apply Kept.refl
              | with_reducible apply Kept.by' (Kept.eq1 (fwRevert_k _) (by assumption))
              | with_reducible apply Kept.by' (fwRevert_k _)
              | apply rfl))
theorem mbStairProbe_k {s a e t b l} (h : mbStairProbe s a e = some (t, b, l)) : Kept [.regs, .ev, .mem, .host, .slices, .stairs, .rm, .out, .draws] s t := by
  unfold mbStairProbe at h
  split at h
  · unfold mbFail at h
    injection h with h
    have hh : _ = t := congrArg Prod.fst h
    subst hh
    exact Kept.refl
  · split at h
    · unfold mbFail at h
      injection h with h
      have hh : _ = t := congrArg Prod.fst h
      subst hh
      exact Kept.refl
    · refine mbRead_k h Kept.refl (fun u bs v c r e' hu => ?_) rfl
      split at e'
      · unfold mbFail at e'
        injection e' with e'
        have hh : _ = v := congrArg Prod.fst e'
        subst hh
        exact hu
      · injection e' with e'
        have hh : _ = v := congrArg Prod.fst e'
        subst hh
        exact Kept.by' (ozPut_k _ _ _ _) (Kept.by' (probeVec_k _ _ _) hu rfl) rfl
theorem mbKeyErase_k {s a e t b l} (h : mbKeyErase s a e = some (t, b, l)) : Kept [.regs, .ev, .mem, .host, .ch, .slices, .cy, .rm, .sv, .out, .draws] s t := by
  unfold mbKeyErase at h
  try dsimp -proj only at h
  repeat' split at h
  all_goals first
    | (injection h; done)
    | (try unfold mbOk at h
       try unfold mbFail at h
       first
         | (injection h; done)
         | (injection h with h
            have hh : _ = t := congrArg Prod.fst h
            subst hh
            repeat' first
              | with_reducible apply Kept.refl
              | with_reducible apply Kept.by' (keyErase_k _ _)
              | apply rfl))
/-- A token check leaves the life cycle alone. -/
theorem tokenCheck_lc {s u : State} {t ks v b} (h : tokenCheck s t ks v = (u, b)) : u.oz.lc = s.oz.lc := by
  have := congrArg Prod.fst h
  unfold tokenCheck at this
  dsimp only at this
  rw [← this]
  rfl
/-- A transition that R658 allows moves forward. -/
theorem lcDst_ok {s : State} {a : List Nat} (h : ¬ (!((decide (s.oz.lc = 0) && decide (argOf a 0 = 1)) || (decide (s.oz.lc = 1) && (decide (argOf a 0 = 2) || decide (argOf a 0 = 3))) ||
    (decide (s.oz.lc = 2) && decide (argOf a 0 = 3)))) = true) : s.oz.lc ≤ argOf a 0 ∧ argOf a 0 ≤ 3 := by
  simp only [Bool.not_eq_true', Bool.not_eq_false, Bool.or_eq_true, Bool.and_eq_true, decide_eq_true_eq] at h
  omega
theorem mbLcTransition_k {s a e t b l} (h : mbLcTransition s a e = some (t, b, l)) : Kept [.regs, .ev, .mem, .host, .ch, .slices, .oz, .cy, .rm, .sv, .out, .draws] s t := by
  unfold mbLcTransition at h
  try dsimp -proj only at h
  split at h
  · unfold mbFail at h
    injection h with h
    have hh : _ = t := congrArg Prod.fst h
    subst hh
    exact Kept.refl
  · rename_i hd
    split at h
    · unfold mbFail at h
      injection h with h
      have hh : _ = t := congrArg Prod.fst h
      subst hh
      exact Kept.refl
    · have hk : ∀ (u : State), u.oz = s.oz → s.oz.lc ≤ argOf a 0 ∧ argOf a 0 ≤ 3 → u.oz.lc ≤ argOf a 0 ∧ argOf a 0 ≤ 3 := fun u hu k => hu ▸ k
      refine mbRead_keeps h (fun u bs v c r e' hz hu => ?_)
      have hq := hk u hz (lcDst_ok hd)
      split at e'
      · unfold mbOk at e'
        injection e' with e'
        have hh : _ = v := congrArg Prod.fst e'
        subst hh
        exact Kept.by' (lcMove_k _ _ _ hq.1 hq.2) hu rfl
      · split at e'
        · rename_i hc
          unfold mbOk at e'
          injection e' with e'
          have hh : _ = v := congrArg Prod.fst e'
          subst hh
          exact Kept.by' (lcMove_k _ _ _ ((tokenCheck_lc hc).symm ▸ hq.1) hq.2) (Kept.by' (Kept.eq1 (tokenCheck_k _ _ _ _) hc) hu rfl) rfl
        · rename_i hc
          unfold mbFail at e'
          injection e' with e'
          have hh : _ = v := congrArg Prod.fst e'
          subst hh
          exact Kept.by' (Kept.eq1 (tokenCheck_k _ _ _ _) hc) hu rfl
theorem mbBcrWrite_k {s a e t b l} (h : mbBcrWrite s a e = some (t, b, l)) : Kept [.regs, .ev, .mem, .host, .out, .draws] s t := by
  unfold mbBcrWrite at h
  try dsimp -proj only at h
  repeat' split at h
  all_goals first
    | (injection h; done)
    | (try unfold mbOk at h
       try unfold mbFail at h
       injection h with h
       have hh : _ = t := congrArg Prod.fst h
       subst hh
       exact Kept.refl)
    | (refine mbRead_k h Kept.refl (fun u bs v c r e' hu => ?_) rfl
       try dsimp -proj only at e'
       repeat' split at e'
       all_goals
         try unfold mbOk at e'
         try unfold mbFail at e'
         injection e' with e'
         have hh : _ = v := congrArg Prod.fst e'
         subst hh
         repeat' first
           | with_reducible assumption
           | with_reducible apply Kept.by' (flashPut_k _ _ _)
           | apply rfl)
theorem mbOzRestart_k {s a e t b l} (h : mbOzRestart s a e = some (t, b, l)) : Kept [] s t := by
  unfold mbOzRestart at h
  try dsimp -proj only at h
  repeat' split at h
  all_goals first
    | (injection h; done)
    | (try unfold mbOk at h
       try unfold mbFail at h
       first
         | (injection h; done)
         | (injection h with h
            have hh : _ = t := congrArg Prod.fst h
            subst hh
            repeat' first
              | with_reducible apply Kept.refl
              | apply rfl))
theorem mbNonce_k {s a e t b l} (h : mbNonce s a e = some (t, b, l)) : Kept [.oz, .draws] s t := by
  unfold mbNonce at h
  try dsimp -proj only at h
  repeat' split at h
  all_goals first
    | (injection h; done)
    | (try unfold mbOk at h
       try unfold mbFail at h
       first
         | (injection h; done)
         | (injection h with h
            have hh : _ = t := congrArg Prod.fst h
            subst hh
            repeat' first
              | with_reducible apply Kept.refl
              | with_reducible apply Kept.by' (ozUpd_k _ _ ?_)
              | with_reducible apply Kept.by' (draw_k _)
              | exact OzLe.same rfl rfl rfl
              | apply rfl))
theorem mbDebugOpen_k {s a e t b l} (h : mbDebugOpen s a e = some (t, b, l)) : Kept [.regs, .ev, .host, .oz, .out, .draws] s t := by
  unfold mbDebugOpen at h
  try dsimp -proj only at h
  repeat' split at h
  all_goals first
    | (injection h; done)
    | (try unfold mbOk at h
       try unfold mbFail at h
       injection h with h
       have hh : _ = t := congrArg Prod.fst h
       subst hh
       exact Kept.refl)
    | (refine mbRead_k h Kept.refl (fun u bs v c r e' hu => ?_) rfl
       try dsimp -proj only at e'
       repeat' split at e'
       all_goals
         try unfold mbOk at e'
         try unfold mbFail at e'
         injection e' with e'
         have hh : _ = v := congrArg Prod.fst e'
         subst hh
         repeat' first
           | with_reducible assumption
           | with_reducible apply Kept.by' (scopeOpen_k _ _ _ _ _)
           | with_reducible apply Kept.by' (raise_k _ _ _)
           | with_reducible apply Kept.by' (Kept.eq1 (tokenCheck_k _ _ _ _) (by assumption))
           | with_reducible apply Kept.by' (tokenCheck_k _ _ _ _)
           | apply rfl)
theorem mbDebugClose_k {s a e t b l} (h : mbDebugClose s a e = some (t, b, l)) : Kept [.regs, .ev, .oz] s t := by
  unfold mbDebugClose at h
  try dsimp -proj only at h
  repeat' split at h
  all_goals first
    | (injection h; done)
    | (try unfold mbOk at h
       try unfold mbFail at h
       first
         | (injection h; done)
         | (injection h with h
            have hh : _ = t := congrArg Prod.fst h
            subst hh
            repeat' first
              | with_reducible apply Kept.refl
              | with_reducible apply Kept.by' (scopeClose_k _)
              | apply rfl))
theorem mbRunOf_k {op s a e t b l} (h : mbRunOf op s a e = some (t, b, l)) : Kept [.regs, .ev, .mem, .host, .ch, .slices, .stairs, .unit, .oz, .cy, .rm, .sv, .out, .draws] s t := by
  unfold mbRunOf at h
  split at h
  · exact Kept.after Kept.refl (mbInfo_k h) rfl
  · exact Kept.after Kept.refl (mbLogRead_k h) rfl
  · exact Kept.after Kept.refl (mbBindMgmt_k h) rfl
  · exact Kept.after Kept.refl (mbFwBegin_k h) rfl
  · exact Kept.after Kept.refl (mbFwWrite_k h) rfl
  · exact Kept.after Kept.refl (mbFwVerify_k h) rfl
  · exact Kept.after Kept.refl (mbFwActivate_k h) rfl
  · exact Kept.after Kept.refl (mbFwCommit_k h) rfl
  · exact Kept.after Kept.refl (mbFwRevert_k h) rfl
  · exact Kept.after Kept.refl (mbStairProbe_k h) rfl
  · exact Kept.after Kept.refl (mbKeyErase_k h) rfl
  · exact Kept.after Kept.refl (mbLcTransition_k h) rfl
  · exact Kept.after Kept.refl (mbBcrWrite_k h) rfl
  · exact Kept.after Kept.refl (mbOzRestart_k h) rfl
  · exact Kept.after Kept.refl (mbNonce_k h) rfl
  · exact Kept.after Kept.refl (mbDebugOpen_k h) rfl
  · exact Kept.after Kept.refl (mbDebugClose_k h) rfl
  · cases h; exact Kept.refl
theorem mbStart_k {l : List Part} {s t : State} {v env} {run : MbRun} (h : Kept l s t)
    (g : ∀ u a w b r, run u a env = some (w, b, r) → Kept l s u → Kept l s w)
    (hl : [Part.regs, .oz].all (fun p => l.contains p) = true) : Kept l s (mbStart t v env run) := by
  have hr : [Part.regs].all (fun p => l.contains p) = true := by
    simp only [List.all_cons, List.all_nil, Bool.and_true, Bool.and_eq_true] at hl ⊢; exact hl.1
  have ho : [Part.oz].all (fun p => l.contains p) = true := by
    simp only [List.all_cons, List.all_nil, Bool.and_true, Bool.and_eq_true] at hl ⊢; exact hl.2
  unfold mbStart
  dsimp -proj only
  split
  · exact h
  · split
    · exact h.after (wrN_k _ _ _) hr
    · split
      · exact h.after (wrF_k _ _ _ _ _) hr
      · have h1 : Kept l s (if rbit v 9 then wrF t Reg.OZ_MB_CMD 9 1 0 else t) := Kept.ite (h.after (wrF_k _ _ _ _ _) hr) h
        split
        · exact (g _ _ _ _ _ (by assumption) h1).after (mbEnd_k _ _ _) hr
        · exact (h1.after (ozUpd_k _ _ (OzLe.same rfl rfl rfl)) ho).after (wrF_k _ _ _ _ _) hr
theorem mbRow_k {l : List Part} {s t : State} {req be v op env} {run : MbRun} (h : Kept l s t)
    (g : ∀ u a w b r, run u a env = some (w, b, r) → Kept l s u → Kept l s w)
    (hl : [Part.regs, .acc, .ev, .oz, .out].all (fun p => l.contains p) = true) : Kept l s (mbRow t req be v op env run) := by
  unfold mbRow
  split
  · exact h
  · exact gate_k h (fun u hu => mbStart_k hu g (parts_sub hl rfl)) (parts_sub hl rfl)
theorem mbResume_k (s) : Kept [.regs, .ev, .mem, .host, .ch, .slices, .stairs, .unit, .oz, .cy, .rm, .sv, .out, .draws] s (mbResume s) := by
  unfold mbResume
  split
  · split
    · exact (Kept.after (Kept.after Kept.refl (mbRunOf_k (by assumption)) rfl) (ozUpd_k _ _ (OzLe.same rfl rfl rfl)) rfl).after (mbEnd_k _ _ _) rfl
    · exact Kept.refl
  · exact Kept.refl
theorem mbWrite_raw : True := trivial

open Sys2Proof
theorem mbWrite_k (s v e) : Kept [.regs, .ev, .mem, .host, .ch, .slices, .stairs, .unit, .oz, .cy, .rm, .sv, .out, .draws] s (mbWrite s v e) := by
  unfold mbWrite mbRestartAfter
  split
  · refine Kept.after (mbStart_k Kept.refl (fun u a w b r hr hu => hu.after (mbRunOf_k hr) rfl) rfl) (ozRestart_k _ _ _) rfl
  · exact mbStart_k Kept.refl (fun u a w b r hr hu => hu.after (mbRunOf_k hr) rfl) rfl
theorem ozResume_k (s : State) : Kept [.regs, .ev, .mem, .host, .ch, .slices, .stairs, .unit, .oz, .cy, .rm, .sv, .out, .draws] s (ozResume s) := by
  unfold ozResume
  try dsimp -proj only
  repeat' first
    | with_reducible assumption
    | with_reducible apply Kept.refl
    | with_reducible apply Kept.ite
    | with_reducible apply Kept.ite1
    | with_reducible apply Kept.ite2
    | with_reducible apply Kept.by' (ozUpd_k _ _ ?_)
    | with_reducible apply Kept.by' (mbResume_k _)
    | with_reducible apply Kept.by' (mgmtMsg_k _ _ _)
    | with_reducible apply Kept.foldl
    | with_reducible apply Kept.foldl1
    | (intro _; intros)
    | dsimp only
    | exact OzLe.same rfl rfl rfl
    | apply rfl
    | (with_reducible refine Kept.by' (by with_reducible assumption) ?_ ?_)
    | split
end Sys2Proof.Machine
end

