-- ==== Sys2Proof/Laws/Frame6.lean ====
section
/-! SUPPORT. Laws/Frame6.lean: frames: what each command leaves alone. -/

namespace Sys2Proof.Machine
set_option linter.all false
theorem accEffect_k {s t : State} {req a v env} {eff : State → Requester → Nat → W32 → Env → State}
    (h : Kept butPending s t) (k : ∀ u r x w e, Kept butPending s u → Kept butPending s (eff u r x w e)) :
    Kept butPending s (accEffect t req a v env eff) := by
  unfold accEffect
  apply Kept.ite (k _ _ _ _ _ h)
  apply Kept.ite
  · exact Kept.by' (pairAlias_k _ _ _ _) h rfl
  · exact k _ _ _ _ _ h

theorem busWith_k {s t : State} {req off be v env} {eff : State → Requester → Nat → W32 → Env → State}
    (h : Kept butPending s t) (k : ∀ u r x w e, Kept butPending u (eff u r x w e)) :
    Kept butPending s (busWith eff t req off be v env) := by
  unfold busWith
  split
  · exact Kept.by' (barWrite_k _ _ _ _ _) h rfl
  · rename_i a _
    have hg : ∀ o r g b, Kept butPending s (withOwn t o r (fun s => gate s req be g b (fun s => accEffect s req a v env eff))) :=
      fun o r g b => withOwn_k h (fun u => gate_k Kept.refl (fun w hw => accEffect_k hw (fun u r x w e hu => hu.after (k u r x w e) rfl)) rfl) rfl
    apply Kept.ite h
    apply Kept.ite
    · apply Kept.ite
      · exact Kept.by' (notReached_k _ _) h rfl
      · apply Kept.ite
        · exact Kept.by' (badAccess_k _ _ _) h rfl
        · exact accEffect_k h (fun u r x w e hu => hu.after (k u r x w e) rfl)
    · apply Kept.ite
      · exact Kept.by' (wrF_k _ _ _ _ _) (hg _ _ _ _) rfl
      · exact hg _ _ _ _
theorem ozEffect_k (s : State) (a1) (a2) (a3) : Kept [.regs, .ev, .mem, .host, .ch, .slices, .stairs, .unit, .oz, .cy, .rm, .sv, .out, .draws] s (ozEffect s a1 a2 a3) := by
  unfold ozEffect
  try dsimp -proj only
  repeat' first
    | with_reducible assumption
    | with_reducible apply Kept.refl
    | with_reducible apply Kept.ite
    | with_reducible apply Kept.by' (mbWrite_k _ _ _)
    | with_reducible apply Kept.by' (regStore_k _ _ _)
    | apply rfl
    | (with_reducible refine Kept.by' (by with_reducible assumption) ?_ ?_)
    | split
theorem plainEffect_k (s : State) (a1) (a2) (a3) (a4) : Kept butPending s (plainEffect s a1 a2 a3 a4) := by
  unfold plainEffect
  try dsimp -proj only
  repeat' first
    | with_reducible assumption
    | with_reducible apply Kept.refl
    | with_reducible apply Kept.ite
    | with_reducible apply Kept.by' (badAccess_k _ _ _)
    | with_reducible apply Kept.by' (loHold_k _ _ _ _)
    | with_reducible apply Kept.by' (laneOverrun_k _ _ _)
    | with_reducible apply Kept.by' (unitCmdWrite_k _ _)
    | with_reducible apply Kept.by' (regStore_k _ _ _)
    | with_reducible apply Kept.by' (glEffect_k _ _ _ _)
    | with_reducible apply Kept.by' (hfEffect_k _ _ _ _ _)
    | with_reducible apply Kept.by' (rpEffect_k _ _ _ _ _ _)
    | with_reducible apply Kept.by' (enEffect_k _ _ _ _ _ _)
    | with_reducible apply Kept.by' (staEffect_k _ _ _ _ _ _)
    | with_reducible apply Kept.by' (scEffect_k _ _ _)
    | with_reducible apply Kept.by' (tilEffect_k _ _ _ _ _ _)
    | with_reducible apply Kept.by' (gmEffect_k _ _ _ _)
    | with_reducible apply Kept.by' (slEffect_k _ _ _ _ _)
    | with_reducible apply Kept.by' (lnEffect_k _ _ _ _ _ _)
    | with_reducible apply Kept.by' (indCmd_k _ _ _ _)
    | with_reducible apply Kept.by' (indDataPut_k _ _ _ _)
    | with_reducible apply Kept.by' (ftEffect_k _ _ _ _)
    | with_reducible apply Kept.by' (ozEffect_k _ _ _ _)
    | with_reducible apply Kept.by' (ldTmEffect_k _ _ _ _)
    | with_reducible apply Kept.by' (ksEffect_k _ _ _)
    | with_reducible apply Kept.by' (hiCommit_k _ _ _)
    | with_reducible apply Kept.by' (tilHi_k _ _ _)
    | dsimp only
    | apply rfl
    | (with_reducible refine Kept.by' (by with_reducible assumption) ?_ ?_)
    | split
theorem ractFire_k (s : State) (a1) (a2) (a3) : Kept butPending s (ractFire s a1 a2 a3).1 := by
  unfold ractFire
  dsimp -proj only
  have hl : Kept butPending s (lateMark s a1 false) := Kept.by' (lateMark_k _ _ _) Kept.refl rfl
  apply Kept.ite1
  · apply Kept.by' (raise_k _ _ _) _ rfl
    apply Kept.by' (wrF_k _ _ _ _ _) _ rfl
    exact Kept.by' (wrF_k _ _ _ _ _) hl rfl
  · apply busWith_k
    · apply Kept.ite
      · apply Kept.by' (wrF_k _ _ _ _ _) _ rfl
        apply Kept.by' (wrF_k _ _ _ _ _) _ rfl
        exact Kept.by' (wrF_k _ _ _ _ _) hl rfl
      · apply Kept.by' (wrF_k _ _ _ _ _) _ rfl
        exact Kept.by' (wrF_k _ _ _ _ _) hl rfl
    · intro u r x w e; exact plainEffect_k _ _ _ _ _

theorem itemFire_k (s : State) (a1) (a2) : Kept butPending s (itemFire s a1 a2).1 := by
  cases a1 <;> unfold itemFire <;> dsimp only
  · exact Kept.ite1 (ractFire_k _ _ _ _) Kept.refl
  · split
    · exact Kept.set_time (Kept.by' (snapAtFire_k s true) Kept.refl rfl) rfl
    · exact Kept.refl
  · split
    · exact Kept.by' (commitNow_k s true) Kept.refl rfl
    · exact Kept.by' (sheafUpd_k s (fun y => { y with late := true })) Kept.refl rfl
  · exact Kept.by' (depLate_k s _) Kept.refl rfl
  · exact Kept.by' (timerLate_k s _ _ _) Kept.refl rfl
  · exact Kept.by' (deadlineLate_k s _ _) Kept.refl rfl
  · exact Kept.by' (u := (epochFire s true).1) (epochFire_k s true) Kept.refl rfl
theorem passItems_k (s : State) (a1) (a2) (a3) : Kept butPending s (passItems s a1 a2 a3) := by
  unfold passItems
  dsimp -proj only
  refine Kept.set_time ?_ rfl
  apply Kept.by' (stepLate_k _ _) _ rfl
  apply Kept.foldl1
  · exact Kept.by' (depsLate_k _ _ _) Kept.refl rfl
  · intro u x hu
    exact hu.after (itemFire_k _ _ _) rfl
theorem stepApply_k (s : State) (a1) (a2) (a3) (a4) : Kept butPending s (stepApply s a1 a2 a3 a4) := by
  have hb : Kept butPending s (bump s Reg.FT_STEP_GEN) := Kept.by' (bump_k _ _ _) Kept.refl rfl
  have hr : ∀ u e d, Kept butPending s u → Kept butPending s (raise u e d) := fun u e d hu => Kept.by' (raise_k _ _ _) hu rfl
  unfold stepApply
  dsimp only
  apply Kept.ite
  · refine Kept.after (hr _ _ _ ?_) (passItems_k _ _ _ _) rfl
    exact Kept.ite hb (Kept.set_time hb rfl)
  · apply hr
    exact Kept.ite hb (Kept.set_time hb rfl)

theorem stepCtl_k (s : State) (a1) (a2) : Kept butPending s (stepCtl s a1 a2) := by
  have h : Kept butPending s (wrN s Reg.FT_STEP_CTL (mergeWord (rdN s Reg.FT_STEP_CTL) 2 8 a1.toNat)) := Kept.by' (wrN_k _ _ _) Kept.refl rfl
  unfold stepCtl
  dsimp only
  apply Kept.ite h
  apply Kept.ite
  · exact Kept.by' (wrF_k _ _ _ _ _) h rfl
  · apply Kept.ite
    · exact Kept.by' (wrF_k _ _ _ _ _) h rfl
    · exact h.after (stepApply_k _ _ _ _ _) rfl
theorem regEffect_k (s : State) (a1) (a2) (a3) (a4) : Kept butPending s (regEffect s a1 a2 a3 a4) := by
  unfold regEffect
  exact Kept.ite (stepCtl_k _ _ _) (plainEffect_k _ _ _ _ _)

theorem busWrite_k (s : State) (a1) (a2) (a3) (a4) (a5) : Kept butPending s (busWrite s a1 a2 a3 a4 a5) := by
  unfold busWrite
  split
  · apply Kept.ite
    · exact Kept.by' (badAccess_k _ _ _) Kept.refl rfl
    · exact Kept.by' (nvmeWrite_k _ _ _ _ _) Kept.refl rfl
  · split
    · apply Kept.ite
      · exact Kept.by' (notReached_k _ _) Kept.refl rfl
      · apply Kept.ite
        · exact Kept.by' (badAccess_k _ _ _) Kept.refl rfl
        · apply Kept.ite _ Kept.refl
          exact Kept.by' (prelWrite_k _ _ _ _ _) Kept.refl rfl
    · exact busWith_k Kept.refl (fun u r x w e => regEffect_k _ _ _ _ _)
theorem busRow_k (s : State) (a1) : Kept butPending s (busRow s a1) := by
  unfold busRow
  try dsimp -proj only
  repeat' first
    | with_reducible assumption
    | with_reducible apply Kept.refl
    | with_reducible apply Kept.ite
    | with_reducible apply Kept.by' (notReached_k _ _)
    | with_reducible apply gate_k
    | with_reducible apply Kept.by' (indCmd_k _ _ _ _)
    | with_reducible apply Kept.by' (indDataPut_k _ _ _ _)
    | with_reducible apply Kept.by' (indRead_k _ _ _ _)
    | with_reducible apply Kept.by' (busWrite_k _ _ _ _ _ _)
    | with_reducible apply Kept.by' (readRow_k _ _ _)
    | (intro _; intros)
    | dsimp only
    | apply rfl
    | (with_reducible refine Kept.by' (by with_reducible assumption) ?_ ?_)
    | split
theorem inOrder_k (s : State) (a1) : Kept butPending s (inOrder s a1) := by
  unfold inOrder
  try dsimp -proj only
  repeat' first
    | with_reducible assumption
    | with_reducible apply Kept.refl
    | with_reducible apply Kept.ite
    | with_reducible apply Kept.by' (busRow_k _ _)
    | dsimp only
    | apply rfl
    | (with_reducible refine Kept.by' (by with_reducible assumption) ?_ ?_)
    | split
    | with_reducible apply Kept.set_acc
    | exact fun h => h
    | exact fun _ => rfl
    | assumption
theorem runLater_k (s : State) : Kept butPending s (runLater s) := by
  unfold runLater
  apply Kept.foldl
  · exact Kept.set_acc Kept.refl rfl (fun h => h)
  · intro u x hu
    exact hu.after (inOrder_k _ _) rfl
theorem idle_k (s : State) : Kept butPending s (idle s) := by
  unfold idle
  try dsimp -proj only
  repeat' first
    | with_reducible assumption
    | with_reducible apply Kept.refl
    | with_reducible apply Kept.ite
    | with_reducible apply Kept.ite1
    | with_reducible apply Kept.by' (tick_k _)
    | with_reducible apply Kept.by' (xoffSend_k _ _)
    | with_reducible apply Kept.by' (reclaimCheck_k _)
    | with_reducible apply Kept.by' (blink_k _ _)
    | with_reducible apply Kept.by' (indSettle_k _ _)
    | with_reducible apply Kept.by' (runLater_k _)
    | with_reducible apply Kept.foldl
    | with_reducible apply Kept.foldl1
    | (intro _; intros)
    | dsimp only
    | apply rfl
    | (with_reducible refine Kept.by' (by with_reducible assumption) ?_ ?_)
    | split
theorem execArrayClear_k (a0) (a1) (a2) (a3) (a4) (s : State) {t : State} (h : execArrayClear a0 a1 a2 a3 a4 s = .next t) : Kept [.regs, .acc, .ev, .stairs, .land, .out] s t := by
  unfold execArrayClear at h
  injection h with h
  subst h
  try dsimp -proj only
  repeat' first
    | with_reducible assumption
    | with_reducible apply Kept.refl
    | with_reducible apply Kept.ite
    | with_reducible apply Kept.by' (arrCmdRow_k _ _ _ _ _ _ _)
    | dsimp only
    | apply rfl
    | (with_reducible refine Kept.by' (by with_reducible assumption) ?_ ?_)
    | split
theorem execPerstDeassert_k (a0) (s : State) {t : State} (h : execPerstDeassert a0 s = .next t) : Kept [.regs, .ev] s t := by
  unfold execPerstDeassert at h
  injection h with h
  subst h
  try dsimp -proj only
  repeat' first
    | with_reducible assumption
    | with_reducible apply Kept.refl
    | with_reducible apply Kept.ite
    | with_reducible apply Kept.by' (raise_k _ _ _)
    | with_reducible apply Kept.by' (wrF_k _ _ _ _ _)
    | dsimp only
    | apply rfl
    | (with_reducible refine Kept.by' (by with_reducible assumption) ?_ ?_)
    | split
theorem execChAbort_k (a0) (a1) (a2) (a3) (a4) (s : State) {t : State} (h : execChAbort a0 a1 a2 a3 a4 s = .next t) : Kept [.regs, .tils, .out] s t := by
  unfold execChAbort at h
  injection h with h
  subst h
  try dsimp -proj only
  repeat' first
    | with_reducible assumption
    | with_reducible apply Kept.refl
    | with_reducible apply Kept.ite
    | with_reducible apply Kept.by' (thTrap_k _ _ _ _)
    | with_reducible apply Kept.by' (chReply_k _ _ _ _ _)
    | with_reducible apply Kept.by' (dropOpen_k _ _ _)
    | dsimp only
    | apply rfl
    | (with_reducible refine Kept.by' (by with_reducible assumption) ?_ ?_)
    | split
theorem execThReset_k (a0) (a1) (a2) (a3) (a4) (s : State) {t : State} (h : execThReset a0 a1 a2 a3 a4 s = .next t) : Kept [.regs, .acc, .ev, .mem, .tils, .out, .draws] s t := by
  unfold execThReset at h
  injection h with h
  subst h
  try dsimp -proj only
  repeat' first
    | with_reducible assumption
    | with_reducible apply Kept.refl
    | with_reducible apply Kept.ite
    | with_reducible apply Kept.by' (thCtlRow_k _ _ _ _ _ _ _)
    | dsimp only
    | apply rfl
    | (with_reducible refine Kept.by' (by with_reducible assumption) ?_ ?_)
    | split
theorem execHostReadCompletion_k (a0) (a1) (a2) (s : State) {t : State} (h : execHostReadCompletion a0 a1 a2 s = .next t) : Kept [.regs, .ev, .mem, .host, .ch, .slices, .land, .rm, .out, .draws] s t := by
  unfold execHostReadCompletion at h
  injection h with h
  subst h
  try dsimp -proj only
  repeat' first
    | with_reducible assumption
    | with_reducible apply Kept.refl
    | with_reducible apply Kept.ite
    | with_reducible apply Kept.by' (readPiece_k _ _ _ _)
    | with_reducible apply Kept.by' (tagFree_k _ _ _)
    | with_reducible apply Kept.by' (bump_k _ _ _)
    | with_reducible apply Kept.by' (readFail_k _ _ _)
    | dsimp only
    | apply rfl
    | (with_reducible refine Kept.by' (by with_reducible assumption) ?_ ?_)
    | split
theorem execNsQuery_k (a0) (a1) (s : State) {t : State} (h : execNsQuery a0 a1 s = .next t) : Kept [.mem, .host, .ch, .slices, .out] s t := by
  unfold execNsQuery at h
  injection h with h
  subst h
  try dsimp -proj only
  repeat' first
    | with_reducible assumption
    | with_reducible apply Kept.refl
    | with_reducible apply Kept.ite
    | with_reducible apply svAdmin_k
    | with_reducible apply Kept.by' (failed_k _ _)
    | with_reducible apply Kept.by' (Kept.eq1 (failed_k _ _) (by assumption))
    | (intro _; intros)
    | dsimp only
    | apply rfl
    | (with_reducible refine Kept.by' (by with_reducible assumption) ?_ ?_)
    | split
theorem execSlCtlReset_k (a0) (a1) (a2) (a3) (s : State) {t : State} (h : execSlCtlReset a0 a1 a2 a3 s = .next t) : Kept [.regs, .acc, .ev, .mem, .host, .ch, .slices, .rm, .out, .draws] s t := by
  unfold execSlCtlReset at h
  injection h with h
  subst h
  try dsimp -proj only
  repeat' first
    | with_reducible assumption
    | with_reducible apply Kept.refl
    | with_reducible apply Kept.ite
    | with_reducible apply Kept.by' (slCtlBy_k _ _ _ _ _)
    | dsimp only
    | apply rfl
    | (with_reducible refine Kept.by' (by with_reducible assumption) ?_ ?_)
    | split
theorem execGmLose_k (a0) (a1) (a2) (a3) (s : State) {t : State} (h : execGmLose a0 a1 a2 a3 s = .next t) : Kept [.regs, .acc, .ev, .ch, .net, .land, .rm, .out] s t := by
  unfold execGmLose at h
  injection h with h
  subst h
  try dsimp -proj only
  repeat' first
    | with_reducible assumption
    | with_reducible apply Kept.refl
    | with_reducible apply Kept.ite
    | with_reducible apply gate_k
    | with_reducible apply Kept.by' (gmCmdWrite_k _ _ _ _)
    | (intro _; intros)
    | dsimp only
    | apply rfl
    | (with_reducible refine Kept.by' (by with_reducible assumption) ?_ ?_)
    | split
theorem execDescriptorFetch_k (a0) (s : State) {t : State} (h : execDescriptorFetch a0 s = .next t) : Kept [.regs, .ev, .host, .ch, .rm, .out] s t := by
  unfold execDescriptorFetch at h
  injection h with h
  subst h
  try dsimp -proj only
  repeat' first
    | with_reducible assumption
    | with_reducible apply Kept.refl
    | with_reducible apply Kept.ite
    | with_reducible apply Kept.by' (fetchEnts_k _ _)
    | dsimp only
    | apply rfl
    | (with_reducible refine Kept.by' (by with_reducible assumption) ?_ ?_)
    | split
theorem execClockMonitorExcursion_k (a0) (a1) (s : State) {t : State} (h : execClockMonitorExcursion a0 a1 s = .next t) : Kept [.regs, .ev] s t := by
  unfold execClockMonitorExcursion at h
  injection h with h
  subst h
  try dsimp -proj only
  repeat' first
    | with_reducible assumption
    | with_reducible apply Kept.refl
    | with_reducible apply Kept.ite
    | with_reducible apply Kept.by' (raise_k _ _ _)
    | dsimp only
    | apply rfl
    | (with_reducible refine Kept.by' (by with_reducible assumption) ?_ ?_)
    | split
theorem execChWait_k (a0) (a1) (a2) (a3) (a4) (a5) (s : State) {t : State} (h : execChWait a0 a1 a2 a3 a4 a5 s = .next t) : Kept [.regs, .ev, .mem, .tils, .out] s t := by
  unfold execChWait at h
  injection h with h
  subst h
  try dsimp -proj only
  repeat' first
    | with_reducible assumption
    | with_reducible apply Kept.refl
    | with_reducible apply Kept.ite
    | with_reducible apply Kept.by' (thTrap_k _ _ _ _)
    | with_reducible apply Kept.by' (chRun_k _ _ _ _ _)
    | dsimp only
    | apply rfl
    | (with_reducible refine Kept.by' (by with_reducible assumption) ?_ ?_)
    | split
theorem execDatasetManagement_k (a0) (a1) (a2) (a3) (a4) (s : State) {t : State} (h : execDatasetManagement a0 a1 a2 a3 a4 s = .next t) : Kept [.regs, .ev, .mem, .host, .ch, .slices, .sv, .out, .draws] s t := by
  unfold execDatasetManagement at h
  injection h with h
  subst h
  try dsimp -proj only
  repeat' first
    | with_reducible assumption
    | with_reducible apply Kept.refl
    | with_reducible apply Kept.ite
    | with_reducible apply ioRow_k
    | (intro _; intros)
    | with_reducible apply Kept.by' (ioRow_k _ _ _ _ _ _ _ _ _)
    | with_reducible apply Kept.by' (beginDsm_k _ _ _ _ _)
    | dsimp only
    | apply rfl
    | (with_reducible refine Kept.by' (by with_reducible assumption) ?_ ?_)
    | split
theorem execEthTxCompletion_k (a0) (s : State) {t : State} (h : execEthTxCompletion a0 s = .next t) : Kept [.regs, .ev, .mem, .host, .ch, .slices, .rm, .out, .draws] s t := by
  unfold execEthTxCompletion at h
  injection h with h
  subst h
  try dsimp -proj only
  repeat' first
    | with_reducible assumption
    | with_reducible apply Kept.refl
    | with_reducible apply Kept.ite
    | with_reducible apply Kept.by' (completeHead_k _ _)
    | dsimp only
    | apply rfl
    | (with_reducible refine Kept.by' (by with_reducible assumption) ?_ ?_)
    | split
theorem execFlrEnd_k (a0) (a1) (s : State) {t : State} (h : execFlrEnd a0 a1 s = .next t) : Kept [.regs, .ev, .host] s t := by
  unfold execFlrEnd at h
  injection h with h
  subst h
  try dsimp -proj only
  repeat' first
    | with_reducible assumption
    | with_reducible apply Kept.refl
    | with_reducible apply Kept.ite
    | with_reducible apply Kept.by' (raisePhase_k _ _ _ _)
    | with_reducible apply Kept.by' (fnUpd_k _ _ _ _)
    | dsimp only
    | apply rfl
    | (with_reducible refine Kept.by' (by with_reducible assumption) ?_ ?_)
    | split
theorem execThawSlice_k (a0) (a1) (s : State) {t : State} (h : execThawSlice a0 a1 s = .next t) : Kept [.regs, .ev, .mem, .host, .ch, .slices, .rm, .sv, .out] s t := by
  unfold execThawSlice at h
  injection h with h
  subst h
  try dsimp -proj only
  repeat' first
    | with_reducible assumption
    | with_reducible apply Kept.refl
    | with_reducible apply Kept.ite
    | with_reducible apply Kept.ite1
    | with_reducible apply ownerCmd_k
    | with_reducible apply Kept.by' (failed_k _ _)
    | with_reducible apply Kept.by' (Kept.eq1 (failed_k _ _) (by assumption))
    | with_reducible apply Kept.by' (raise_k _ _ _)
    | with_reducible apply Kept.by' (slUpd_k _ _ _)
    | with_reducible apply Kept.by' (samplePidx_k _ _)
    | with_reducible apply Kept.by' (Kept.eq1 (samplePidx_k _ _) (by assumption))
    | with_reducible apply Kept.by' (svResume_k _)
    | with_reducible apply Kept.by' (qpTimersRestart_k _ _)
    | (intro _; intros)
    | with_reducible apply Kept.foldl
    | with_reducible apply Kept.foldl1
    | (intro _; intros)
    | dsimp only
    | apply rfl
    | (with_reducible refine Kept.by' (by with_reducible assumption) ?_ ?_)
    | split
theorem execQpWritebackDone_k (a0) (a1) (s : State) {t : State} (h : execQpWritebackDone a0 a1 s = .next t) : Kept [.regs, .ev, .mem, .host, .ch, .slices, .stairs, .sheaf, .land, .rm, .out] s t := by
  unfold execQpWritebackDone at h
  injection h with h
  subst h
  try dsimp -proj only
  repeat' first
    | with_reducible assumption
    | with_reducible apply Kept.refl
    | with_reducible apply Kept.ite
    | with_reducible apply Kept.by' (rmUpd_k _ _)
    | with_reducible apply Kept.by' (bump_k _ _ _)
    | with_reducible apply Kept.by' (qpNextFetch_k _)
    | with_reducible apply Kept.by' (qpFetch_k _ _)
    | with_reducible apply Kept.by' (raise_k _ _ _)
    | with_reducible apply Kept.by' (qpUnpark_k _ _)
    | with_reducible apply Kept.by' (sliceFault_k _ _ _)
    | with_reducible apply Kept.by' (qpError_k _ _ _ _ _)
    | with_reducible apply Kept.getD
    | (intro _; intros)
    | dsimp only
    | apply rfl
    | (with_reducible refine Kept.by' (by with_reducible assumption) ?_ ?_)
    | split
theorem execFreezeSlice_k (a0) (a1) (s : State) {t : State} (h : execFreezeSlice a0 a1 s = .next t) : Kept [.regs, .mem, .host, .ch, .slices, .out] s t := by
  unfold execFreezeSlice at h
  injection h with h
  subst h
  try dsimp -proj only
  repeat' first
    | with_reducible assumption
    | with_reducible apply Kept.refl
    | with_reducible apply Kept.ite
    | with_reducible apply ownerCmd_k
    | with_reducible apply Kept.by' (failed_k _ _)
    | with_reducible apply Kept.by' (Kept.eq1 (failed_k _ _) (by assumption))
    | with_reducible apply Kept.by' (slUpd_k _ _ _)
    | with_reducible apply Kept.by' (adminDefer_k _ _ _ _ _)
    | with_reducible apply Kept.by' (flushIdle_k _ _)
    | (intro _; intros)
    | with_reducible apply Kept.foldl
    | with_reducible apply Kept.foldl1
    | (intro _; intros)
    | dsimp only
    | apply rfl
    | (with_reducible refine Kept.by' (by with_reducible assumption) ?_ ?_)
    | split
theorem execRehearsalStart_k (a0) (a1) (a2) (s : State) {t : State} (h : execRehearsalStart a0 a1 a2 s = .next t) : Kept [.regs, .acc, .ev, .stairs, .sheaf, .out] s t := by
  unfold execRehearsalStart at h
  injection h with h
  subst h
  try dsimp -proj only
  repeat' first
    | with_reducible assumption
    | with_reducible apply Kept.refl
    | with_reducible apply Kept.ite
    | with_reducible apply gate_k
    | with_reducible apply Kept.by' (rhCtlWrite_k _ _)
    | (intro _; intros)
    | dsimp only
    | apply rfl
    | (with_reducible refine Kept.by' (by with_reducible assumption) ?_ ?_)
    | split
theorem execKeyErase_k (a0) (a1) (s : State) {t : State} (h : execKeyErase a0 a1 s = .next t) : Kept [.regs, .mem, .host, .ch, .slices, .cy, .out] s t := by
  unfold execKeyErase at h
  injection h with h
  subst h
  try dsimp -proj only
  repeat' first
    | with_reducible assumption
    | with_reducible apply Kept.refl
    | with_reducible apply Kept.ite
    | with_reducible apply Kept.ite1
    | with_reducible apply runAdmin_k
    | with_reducible apply Kept.by' (failed_k _ _)
    | with_reducible apply Kept.by' (Kept.eq1 (failed_k _ _) (by assumption))
    | with_reducible apply Kept.by' (cyUpd_k _ _)
    | with_reducible apply Kept.by' (keyDone_k _ _ _ _ _ _)
    | with_reducible apply Kept.by' (Kept.eq1 (keyDone_k _ _ _ _ _ _) (by assumption))
    | with_reducible apply Kept.by' (showSlots_k _)
    | with_reducible apply Kept.getD
    | (intro _; intros)
    | (intro _; intros)
    | dsimp only
    | apply rfl
    | (with_reducible refine Kept.by' (by with_reducible assumption) ?_ ?_)
    | split
theorem execIdentify_k (a0) (a1) (a2) (s : State) {t : State} (h : execIdentify a0 a1 a2 s = .next t) : Kept [.regs, .ev, .mem, .host, .ch, .slices, .sv, .out, .draws] s t := by
  unfold execIdentify at h
  injection h with h
  subst h
  try dsimp -proj only
  repeat' first
    | with_reducible assumption
    | with_reducible apply Kept.refl
    | with_reducible apply Kept.ite
    | with_reducible apply Kept.ite1
    | with_reducible apply Kept.by' (finish_k _ _ _ _ _ _)
    | with_reducible apply nvmeAdmin_k
    | with_reducible apply Kept.by' (dataOut_k _ _ _ _ _ _ _)
    | (intro _; intros)
    | dsimp only
    | apply rfl
    | (with_reducible refine Kept.by' (by with_reducible assumption) ?_ ?_)
    | split
theorem execPmbusPoll_k (a0) (a1) (s : State) {t : State} (h : execPmbusPoll a0 a1 s = .next t) : Kept [.regs, .ev, .oz, .out] s t := by
  unfold execPmbusPoll at h
  injection h with h
  subst h
  try dsimp -proj only
  repeat' first
    | with_reducible assumption
    | with_reducible apply Kept.refl
    | with_reducible apply Kept.ite
    | with_reducible apply Kept.by' (emit_k _ _)
    | with_reducible apply Kept.by' (raise_k _ _ _)
    | with_reducible apply Kept.by' (ozUpd_k _ _ ?_)
    | dsimp only
    | exact OzLe.same rfl rfl rfl
    | apply rfl
    | (with_reducible refine Kept.by' (by with_reducible assumption) ?_ ?_)
    | split
theorem execSlotPowerDrop_k (a0) (s : State) {t : State} (h : execSlotPowerDrop a0 s = .next t) : Kept [.regs, .host, .out] s t := by
  unfold execSlotPowerDrop at h
  injection h with h
  subst h
  try dsimp -proj only
  repeat' first
    | with_reducible assumption
    | with_reducible apply Kept.refl
    | with_reducible apply Kept.ite
    | with_reducible apply Kept.by' (slotPower_k _ _ _)
    | dsimp only
    | apply rfl
    | (with_reducible refine Kept.by' (by with_reducible assumption) ?_ ?_)
    | split
theorem execFrameReceive_k (a0) (a1) (a2) (a3) (a4) (s : State) {t : State} (h : execFrameReceive a0 a1 a2 a3 a4 s = .next t) : Kept [.regs, .ev, .net, .land] s t := by
  unfold execFrameReceive at h
  injection h with h
  subst h
  try dsimp -proj only
  repeat' first
    | with_reducible assumption
    | with_reducible apply Kept.refl
    | with_reducible apply Kept.ite
    | with_reducible apply Kept.by' (portCnt_k _ _ _ _)
    | with_reducible apply Kept.by' (macControl_k _ _ _)
    | with_reducible apply Kept.by' (arrive_k _ _ _)
    | dsimp only
    | apply rfl
    | (with_reducible refine Kept.by' (by with_reducible assumption) ?_ ?_)
    | split
theorem execReentryRelease_k (a0) (s : State) {t : State} (h : execReentryRelease a0 s = .next t) : Kept [.land] s t := by
  unfold execReentryRelease at h
  injection h with h
  subst h
  try dsimp -proj only
  repeat' first
    | with_reducible assumption
    | with_reducible apply Kept.refl
    | with_reducible apply Kept.ite
    | with_reducible apply Kept.by' (unpark_k _ _ _)
    | (intro _; intros)
    | dsimp only
    | apply rfl
    | (with_reducible refine Kept.by' (by with_reducible assumption) ?_ ?_)
    | split
theorem execSupplyClear_k (a0) (a1) (s : State) {t : State} (h : execSupplyClear a0 a1 s = .next t) : Kept [.regs, .acc, .ev, .oz] s t := by
  unfold execSupplyClear at h
  injection h with h
  subst h
  try dsimp -proj only
  repeat' first
    | with_reducible assumption
    | with_reducible apply Kept.refl
    | with_reducible apply Kept.ite
    | with_reducible apply Kept.by' (wrF_k _ _ _ _ _)
    | with_reducible apply Kept.by' (raise_k _ _ _)
    | with_reducible apply Kept.by' (ozUpd_k _ _ ?_)
    | with_reducible apply Kept.by' (noteLows_k _ _ _)
    | (intro _; intros)
    | dsimp only
    | exact OzLe.same rfl rfl rfl
    | apply rfl
    | (with_reducible refine Kept.by' (by with_reducible assumption) ?_ ?_)
    | split
theorem execIngressRetire_k (a0) (a1) (s : State) {t : State} (h : execIngressRetire a0 a1 s = .next t) : Kept [.regs, .time, .ev, .mem, .host, .ch, .slices, .net, .stairs, .sheaf, .land, .tils, .tm, .rm, .out] s t := by
  unfold execIngressRetire at h
  injection h with h
  subst h
  try dsimp -proj only
  repeat' first
    | with_reducible assumption
    | with_reducible apply Kept.refl
    | with_reducible apply Kept.ite
    | with_reducible apply Kept.by' (twinRetire_k _ _)
    | with_reducible apply Kept.by' (ingressRetire_k _ _ _ _ _)
    | with_reducible apply Kept.by' (fencedRetire_k _ _ _)
    | dsimp only
    | apply rfl
    | (with_reducible refine Kept.by' (by with_reducible assumption) ?_ ?_)
    | split
theorem execRetransmitTimeout_k (a0) (s : State) {t : State} (h : execRetransmitTimeout a0 s = .next t) : Kept [.regs, .ev, .mem, .host, .ch, .slices, .rm, .out] s t := by
  unfold execRetransmitTimeout at h
  injection h with h
  subst h
  try dsimp -proj only
  repeat' first
    | with_reducible assumption
    | with_reducible apply Kept.refl
    | with_reducible apply Kept.ite
    | with_reducible apply Kept.by' (bump_k _ _ _)
    | with_reducible apply Kept.by' (qpError_k _ _ _ _ _)
    | with_reducible apply Kept.by' (qpUpd_k _ _ _)
    | dsimp only
    | apply rfl
    | (with_reducible refine Kept.by' (by with_reducible assumption) ?_ ?_)
    | split
theorem execDbgStep_k (a0) (a1) (a2) (a3) (a4) (s : State) {t : State} (h : execDbgStep a0 a1 a2 a3 a4 s = .next t) : Kept [.regs, .acc, .ev, .mem, .tils, .out, .draws] s t := by
  unfold execDbgStep at h
  injection h with h
  subst h
  try dsimp -proj only
  repeat' first
    | with_reducible assumption
    | with_reducible apply Kept.refl
    | with_reducible apply Kept.ite
    | with_reducible apply Kept.by' (dbgRow_k _ _ _ _ _ _ _ _)
    | dsimp only
    | apply rfl
    | (with_reducible refine Kept.by' (by with_reducible assumption) ?_ ?_)
    | split
theorem execWarmReset_k (a0) (a1) (a2) (s : State) {t : State} (h : execWarmReset a0 a1 a2 s = .next t) : Kept [.regs, .snap, .time, .acc, .ev, .mem, .host, .ch, .slices, .net, .stairs, .golden, .lpm, .sheaf, .land, .unit, .tils, .tm, .oz, .cy, .rm, .sv, .out] s t := by
  unfold execWarmReset at h
  injection h with h
  subst h
  try dsimp -proj only
  repeat' first
    | with_reducible assumption
    | with_reducible apply Kept.refl
    | with_reducible apply Kept.ite
    | with_reducible apply gate_k
    | with_reducible apply Kept.by' (warmReset_k _ _)
    | (intro _; intros)
    | dsimp only
    | apply rfl
    | (with_reducible refine Kept.by' (by with_reducible assumption) ?_ ?_)
    | split
theorem execCreateIoCompletionQueue_k (a0) (a1) (s : State) {t : State} (h : execCreateIoCompletionQueue a0 a1 s = .next t) : Kept [.regs, .ev, .mem, .host, .ch, .slices, .sv, .out, .draws] s t := by
  unfold execCreateIoCompletionQueue at h
  injection h with h
  subst h
  try dsimp -proj only
  repeat' first
    | with_reducible assumption
    | with_reducible apply Kept.refl
    | with_reducible apply Kept.ite
    | with_reducible apply nvmeAdmin_k
    | with_reducible apply Kept.by' (finish_k _ _ _ _ _ _)
    | with_reducible apply Kept.by' (ctrlUpd_k _ _ _)
    | (intro _; intros)
    | dsimp only
    | apply rfl
    | (with_reducible refine Kept.by' (by with_reducible assumption) ?_ ?_)
    | split
theorem execFaultRecordPost_k (a0) (s : State) {t : State} (h : execFaultRecordPost a0 s = .next t) : Kept [.mem, .tils] s t := by
  unfold execFaultRecordPost at h
  injection h with h
  subst h
  try dsimp -proj only
  repeat' first
    | with_reducible assumption
    | with_reducible apply Kept.refl
    | with_reducible apply Kept.ite
    | with_reducible apply Kept.by' (enqueue_k _ _ _ _ _ _ _)
    | with_reducible apply Kept.by' (tilUpd_k _ _ _)
    | dsimp only
    | apply rfl
    | (with_reducible refine Kept.by' (by with_reducible assumption) ?_ ?_)
    | split
theorem execConfigWrite_k (a0) (a1) (a2) (a3) (a4) (s : State) {t : State} (h : execConfigWrite a0 a1 a2 a3 a4 s = .next t) : Kept [.regs, .time, .ev, .mem, .host, .ch, .slices, .land, .cy, .rm, .sv, .out, .draws] s t := by
  unfold execConfigWrite at h
  injection h with h
  subst h
  try dsimp -proj only
  repeat' first
    | with_reducible assumption
    | with_reducible apply Kept.refl
    | with_reducible apply Kept.ite
    | with_reducible apply Kept.by' (cfgWrite_k _ _ _ _ _ _)
    | dsimp only
    | apply rfl
    | (with_reducible refine Kept.by' (by with_reducible assumption) ?_ ?_)
    | split
theorem execGleanAge_k (a0) (a1) (s : State) {t : State} (h : execGleanAge a0 a1 s = .next t) : Kept [.regs, .stairs] s t := by
  unfold execGleanAge at h
  injection h with h
  subst h
  try dsimp -proj only
  repeat' first
    | with_reducible assumption
    | with_reducible apply Kept.refl
    | with_reducible apply Kept.ite
    | with_reducible apply Kept.by' (bump_k _ _ _)
    | with_reducible apply Kept.by' (setEntries_k _ _ _ _)
    | dsimp only
    | apply rfl
    | (with_reducible refine Kept.by' (by with_reducible assumption) ?_ ?_)
    | split
theorem execHitarrWrite_k (a0) (a1) (a2) (a3) (a4) (s : State) {t : State} (h : execHitarrWrite a0 a1 a2 a3 a4 s = .next t) : Kept [.regs, .acc, .ev, .out] s t := by
  unfold execHitarrWrite at h
  injection h with h
  subst h
  try dsimp -proj only
  repeat' first
    | with_reducible assumption
    | with_reducible apply Kept.refl
    | with_reducible apply Kept.ite
    | with_reducible apply gate_k
    | with_reducible apply Kept.by' (hitarrWrite_k _ _ _ _)
    | (intro _; intros)
    | dsimp only
    | apply rfl
    | (with_reducible refine Kept.by' (by with_reducible assumption) ?_ ?_)
    | split
theorem execQueryRegion_k (a0) (a1) (a2) (s : State) {t : State} (h : execQueryRegion a0 a1 a2 s = .next t) : Kept [.mem, .host, .ch, .slices, .out] s t := by
  unfold execQueryRegion at h
  injection h with h
  subst h
  try dsimp -proj only
  repeat' first
    | with_reducible assumption
    | with_reducible apply Kept.refl
    | with_reducible apply Kept.ite
    | with_reducible apply runAdmin_k
    | with_reducible apply Kept.by' (adminResult_k _ _ _ _ _)
    | with_reducible apply Kept.by' (Kept.eq1 (adminResult_k _ _ _ _ _) (by assumption))
    | with_reducible apply Kept.by' (failed_k _ _)
    | with_reducible apply Kept.by' (Kept.eq1 (failed_k _ _) (by assumption))
    | (intro _; intros)
    | dsimp only
    | apply rfl
    | (with_reducible refine Kept.by' (by with_reducible assumption) ?_ ?_)
    | split
theorem execControllerDrainEnd_k (a0) (s : State) {t : State} (h : execControllerDrainEnd a0 s = .next t) : Kept [.sv] s t := by
  unfold execControllerDrainEnd at h
  injection h with h
  subst h
  try dsimp -proj only
  repeat' first
    | with_reducible assumption
    | with_reducible apply Kept.refl
    | with_reducible apply Kept.ite
    | with_reducible apply Kept.ite2
    | with_reducible apply Kept.by' (ctrlUpd_k _ _ _)
    | dsimp only
    | apply rfl
    | (with_reducible refine Kept.by' (by with_reducible assumption) ?_ ?_)
    | split
theorem execClrCnt_k (a0) (a1) (a2) (s : State) {t : State} (h : execClrCnt a0 a1 a2 s = .next t) : Kept [.regs, .time, .acc, .ev, .ch, .net, .land, .rm, .out] s t := by
  unfold execClrCnt at h
  injection h with h
  subst h
  try dsimp -proj only
  repeat' first
    | with_reducible assumption
    | with_reducible apply Kept.refl
    | with_reducible apply Kept.ite
    | with_reducible apply gate_k
    | with_reducible apply Kept.by' (nodeCmdWrite_k _ _)
    | (intro _; intros)
    | dsimp only
    | apply rfl
    | (with_reducible refine Kept.by' (by with_reducible assumption) ?_ ?_)
    | split
theorem execAsynchronousEventRequest_k (a0) (a1) (s : State) {t : State} (h : execAsynchronousEventRequest a0 a1 s = .next t) : Kept [.regs, .ev, .mem, .host, .ch, .slices, .sv, .out, .draws] s t := by
  unfold execAsynchronousEventRequest at h
  injection h with h
  subst h
  try dsimp -proj only
  repeat' first
    | with_reducible assumption
    | with_reducible apply Kept.refl
    | with_reducible apply Kept.ite
    | with_reducible apply Kept.ite2
    | with_reducible apply nvmeAdmin_k
    | with_reducible apply Kept.by' (finish_k _ _ _ _ _ _)
    | with_reducible apply Kept.by' (cmdUpd_k _ _ _)
    | (intro _; intros)
    | dsimp only
    | apply rfl
    | (with_reducible refine Kept.by' (by with_reducible assumption) ?_ ?_)
    | split
theorem execIndDataRead_k (a0) (a1) (s : State) {t : State} (h : execIndDataRead a0 a1 s = .next t) : Kept [.regs, .acc, .out] s t := by
  rw [← Host.Outcome.next.inj h]
  apply inOrder_sub rfl
  simp only [busRow]
  split
  · apply Kept.ite
    · exact Kept.by' (indRead_k _ _ _ _) Kept.refl rfl
    · exact Kept.by' (notReached_k _ _) Kept.refl rfl
  · exact Kept.refl
theorem execThHalt_k (a0) (a1) (a2) (a3) (a4) (s : State) {t : State} (h : execThHalt a0 a1 a2 a3 a4 s = .next t) : Kept [.regs, .acc, .ev, .mem, .tils, .out, .draws] s t := by
  unfold execThHalt at h
  injection h with h
  subst h
  try dsimp -proj only
  repeat' first
    | with_reducible assumption
    | with_reducible apply Kept.refl
    | with_reducible apply Kept.ite
    | with_reducible apply Kept.by' (thCtlRow_k _ _ _ _ _ _ _)
    | dsimp only
    | apply rfl
    | (with_reducible refine Kept.by' (by with_reducible assumption) ?_ ?_)
    | split
theorem execDbgResume_k (a0) (a1) (a2) (a3) (s : State) {t : State} (h : execDbgResume a0 a1 a2 a3 s = .next t) : Kept [.regs, .acc, .ev, .mem, .tils, .out, .draws] s t := by
  unfold execDbgResume at h
  injection h with h
  subst h
  try dsimp -proj only
  repeat' first
    | with_reducible assumption
    | with_reducible apply Kept.refl
    | with_reducible apply Kept.ite
    | with_reducible apply Kept.by' (dbgRow_k _ _ _ _ _ _ _ _)
    | dsimp only
    | apply rfl
    | (with_reducible refine Kept.by' (by with_reducible assumption) ?_ ?_)
    | split
theorem execDeregRegion_k (a0) (a1) (s : State) {t : State} (h : execDeregRegion a0 a1 s = .next t) : Kept [.mem, .host, .ch, .slices, .rm, .out] s t := by
  unfold execDeregRegion at h
  injection h with h
  subst h
  try dsimp -proj only
  repeat' first
    | with_reducible assumption
    | with_reducible apply Kept.refl
    | with_reducible apply Kept.ite
    | with_reducible apply runAdmin_k
    | with_reducible apply Kept.by' (failed_k _ _)
    | with_reducible apply Kept.by' (Kept.eq1 (failed_k _ _) (by assumption))
    | with_reducible apply Kept.by' (regionGone_k _ _)
    | with_reducible apply Kept.by' (adminDefer_k _ _ _ _ _)
    | with_reducible apply Kept.by' (revoke_k _ _)
    | (intro _; intros)
    | dsimp only
    | apply rfl
    | (with_reducible refine Kept.by' (by with_reducible assumption) ?_ ?_)
    | split
theorem execDcfgAnswer_k (a0) (a1) (a2) (s : State) {t : State} (h : execDcfgAnswer a0 a1 a2 s = .next t) : Kept [.regs, .ev, .host, .draws] s t := by
  unfold execDcfgAnswer at h
  injection h with h
  subst h
  try dsimp -proj only
  repeat' first
    | with_reducible assumption
    | with_reducible apply Kept.refl
    | with_reducible apply Kept.ite
    | with_reducible apply Kept.by' (wrN_k _ _ _)
    | with_reducible apply Kept.by' (rpUpd_k _ _ _)
    | with_reducible apply Kept.by' (rpTimeout_k _ _)
    | (intro _; intros)
    | dsimp only
    | apply rfl
    | (with_reducible refine Kept.by' (by with_reducible assumption) ?_ ?_)
    | split
theorem execFlightStep_k (a0) (a1) (a2) (a3) (s : State) {t : State} (h : execFlightStep a0 a1 a2 a3 s = .next t) : Kept [.regs, .ev, .stairs, .rm, .draws] s t := by
  unfold execFlightStep at h
  injection h with h
  subst h
  try dsimp -proj only
  repeat' first
    | with_reducible assumption
    | with_reducible apply Kept.refl
    | with_reducible apply Kept.ite
    | with_reducible apply Kept.by' (stepLive_k _ _ _ _ _)
    | with_reducible apply Kept.by' (stepTwin_k _ _ _ _)
    | dsimp only
    | apply rfl
    | (with_reducible refine Kept.by' (by with_reducible assumption) ?_ ?_)
    | split
theorem execCtrlQuery_k (a0) (a1) (a2) (s : State) {t : State} (h : execCtrlQuery a0 a1 a2 s = .next t) : Kept [.mem, .host, .ch, .slices, .out] s t := by
  unfold execCtrlQuery at h
  injection h with h
  subst h
  try dsimp -proj only
  repeat' first
    | with_reducible assumption
    | with_reducible apply Kept.refl
    | with_reducible apply Kept.ite
    | with_reducible apply svAdmin_k
    | with_reducible apply Kept.by' (failed_k _ _)
    | with_reducible apply Kept.by' (Kept.eq1 (failed_k _ _) (by assumption))
    | with_reducible apply Kept.by' (adminResult_k _ _ _ _ _)
    | with_reducible apply Kept.by' (Kept.eq1 (adminResult_k _ _ _ _ _) (by assumption))
    | (intro _; intros)
    | dsimp only
    | apply rfl
    | (with_reducible refine Kept.by' (by with_reducible assumption) ?_ ?_)
    | split
theorem execStartupStage_k (a0) (s : State) {t : State} (h : execStartupStage a0 s = .next t) : Kept [.regs, .ev, .mem, .ch, .slices, .net, .stairs, .golden, .land, .unit, .tils, .oz, .rm, .out, .draws] s t := by
  unfold execStartupStage at h
  injection h with h
  subst h
  try dsimp -proj only
  repeat' first
    | with_reducible assumption
    | with_reducible apply Kept.refl
    | with_reducible apply Kept.ite
    | with_reducible apply Kept.by' (bootRom_k _)
    | with_reducible apply Kept.by' (setStage_k _ _)
    | with_reducible apply Kept.by' (bootTrain_k _ _)
    | with_reducible apply Kept.by' (bootTillers_k _ _)
    | with_reducible apply Kept.by' (bootStairs_k _ _)
    | dsimp only
    | apply rfl
    | (with_reducible refine Kept.by' (by with_reducible assumption) ?_ ?_)
    | split
theorem execLcTransition_k (a0) (a1) (a2) (a3) (s : State) {t : State} (h : execLcTransition a0 a1 a2 a3 s = .next t) : Kept [.regs, .acc, .ev, .mem, .host, .ch, .slices, .oz, .cy, .rm, .sv, .out, .draws] s t := by
  unfold execLcTransition at h
  injection h with h
  subst h
  try dsimp -proj only
  repeat' first
    | with_reducible assumption
    | with_reducible apply Kept.refl
    | with_reducible apply Kept.ite
    | with_reducible apply mbRow_k
    | (intro _; intros)
    | with_reducible apply Kept.by' (mbLcTransition_k (by assumption))
    | with_reducible apply Kept.by' (mbRow_k _ _ _ _ _ _ _)
    | dsimp only
    | apply rfl
    | (with_reducible refine Kept.by' (by with_reducible assumption) ?_ ?_)
    | split
theorem execPowerGood_k (a0) (a1) (a2) (a3) (s : State) {t : State} (h : execPowerGood a0 a1 a2 a3 s = .next t) : Kept [.regs, .ev, .mem, .host, .slices, .oz] s t := by
  unfold execPowerGood at h
  injection h with h
  subst h
  try dsimp -proj only
  repeat' first
    | with_reducible assumption
    | with_reducible apply Kept.refl
    | with_reducible apply Kept.ite
    | with_reducible apply Kept.ite1
    | with_reducible apply Kept.ite2
    | with_reducible apply Kept.by' (flashPut_k _ _ _)
    | with_reducible apply Kept.by' (coldStart_k _ _)
    | with_reducible apply Kept.by' (ozUpd_k _ _ ?_)
    | with_reducible apply Kept.foldl
    | with_reducible apply Kept.foldl1
    | (intro _; intros)
    | dsimp only
    | exact OzLe.same rfl rfl rfl
    | apply rfl
    | (with_reducible refine Kept.by' (by with_reducible assumption) ?_ ?_)
    | split
theorem execThermalLevel_k (a0) (a1) (s : State) {t : State} (h : execThermalLevel a0 a1 s = .next t) : Kept [.regs, .snap, .time, .acc, .ev, .mem, .host, .ch, .slices, .net, .stairs, .golden, .lpm, .sheaf, .land, .unit, .tils, .tm, .oz, .cy, .rm, .sv, .out] s t := by
  unfold execThermalLevel at h
  injection h with h
  subst h
  try dsimp -proj only
  repeat' first
    | with_reducible assumption
    | with_reducible apply Kept.refl
    | with_reducible apply Kept.ite
    | with_reducible apply Kept.by' (wrN_k _ _ _)
    | with_reducible apply Kept.by' (raise_k _ _ _)
    | with_reducible apply Kept.by' (wrF_k _ _ _ _ _)
    | with_reducible apply Kept.by' (drive_k _ _ _ _)
    | with_reducible apply Kept.by' (ozUpd_k _ _ ?_)
    | with_reducible apply Kept.by' (warmReset_k _ _)
    | dsimp only
    | exact OzLe.same rfl rfl rfl
    | apply rfl
    | (with_reducible refine Kept.by' (by with_reducible assumption) ?_ ?_)
    | split
theorem execBcrWrite_k (a0) (a1) (a2) (a3) (s : State) {t : State} (h : execBcrWrite a0 a1 a2 a3 s = .next t) : Kept [.regs, .acc, .ev, .mem, .host, .oz, .out, .draws] s t := by
  unfold execBcrWrite at h
  injection h with h
  subst h
  try dsimp -proj only
  repeat' first
    | with_reducible assumption
    | with_reducible apply Kept.refl
    | with_reducible apply Kept.ite
    | with_reducible apply mbRow_k
    | (intro _; intros)
    | with_reducible apply Kept.by' (mbBcrWrite_k (by assumption))
    | with_reducible apply Kept.by' (mbRow_k _ _ _ _ _ _ _)
    | dsimp only
    | apply rfl
    | (with_reducible refine Kept.by' (by with_reducible assumption) ?_ ?_)
    | split
theorem execRpErrorMessage_k (a0) (a1) (a2) (s : State) {t : State} (h : execRpErrorMessage a0 a1 a2 s = .next t) : Kept [.regs, .ev, .host] s t := by
  unfold execRpErrorMessage at h
  injection h with h
  subst h
  try dsimp -proj only
  repeat' first
    | with_reducible assumption
    | with_reducible apply Kept.refl
    | with_reducible apply Kept.ite
    | with_reducible apply Kept.by' (dpcError_k _ _ _ _)
    | with_reducible apply Kept.by' (rpAer_k _ _ _ _ _)
    | with_reducible apply Kept.by' (rpAerCor_k _ _ _)
    | dsimp only
    | apply rfl
    | (with_reducible refine Kept.by' (by with_reducible assumption) ?_ ?_)
    | split
theorem execRpLinkUp_k (a0) (a1) (a2) (s : State) {t : State} (h : execRpLinkUp a0 a1 a2 s = .next t) : Kept [.regs, .ev, .host] s t := by
  unfold execRpLinkUp at h
  injection h with h
  subst h
  try dsimp -proj only
  repeat' first
    | with_reducible assumption
    | with_reducible apply Kept.refl
    | with_reducible apply Kept.ite
    | with_reducible apply Kept.by' (rpLinkShow_k _ _ _ _ _)
    | dsimp only
    | apply rfl
    | (with_reducible refine Kept.by' (by with_reducible assumption) ?_ ?_)
    | split
theorem execAqDisable_k (a0) (a1) (a2) (a3) (s : State) {t : State} (h : execAqDisable a0 a1 a2 a3 s = .next t) : Kept [.regs, .acc, .ev, .mem, .host, .ch, .slices, .rm, .out, .draws] s t := by
  unfold execAqDisable at h
  injection h with h
  subst h
  try dsimp -proj only
  repeat' first
    | with_reducible assumption
    | with_reducible apply Kept.refl
    | with_reducible apply Kept.ite
    | with_reducible apply Kept.by' (slCtlBy_k _ _ _ _ _)
    | dsimp only
    | apply rfl
    | (with_reducible refine Kept.by' (by with_reducible assumption) ?_ ?_)
    | split
theorem execPowerFault_k (a0) (s : State) {t : State} (h : execPowerFault a0 s = .next t) : Kept [.regs, .ev, .host, .out] s t := by
  unfold execPowerFault at h
  injection h with h
  subst h
  try dsimp -proj only
  repeat' first
    | with_reducible assumption
    | with_reducible apply Kept.refl
    | with_reducible apply Kept.ite
    | with_reducible apply Kept.by' (slotCut_k _ _)
    | with_reducible apply Kept.by' (bump_k _ _ _)
    | with_reducible apply Kept.by' (rpBit_k _ _ _ _ _)
    | with_reducible apply Kept.by' (raise_k _ _ _)
    | dsimp only
    | apply rfl
    | (with_reducible refine Kept.by' (by with_reducible assumption) ?_ ?_)
    | split
theorem execCtrlCreate_k (a0) (a1) (s : State) {t : State} (h : execCtrlCreate a0 a1 s = .next t) : Kept [.regs, .mem, .host, .ch, .slices, .sv, .out] s t := by
  unfold execCtrlCreate at h
  injection h with h
  subst h
  try dsimp -proj only
  repeat' first
    | with_reducible assumption
    | with_reducible apply Kept.refl
    | with_reducible apply Kept.ite
    | with_reducible apply Kept.ite2
    | with_reducible apply svAdmin_k
    | with_reducible apply Kept.by' (failed_k _ _)
    | with_reducible apply Kept.by' (Kept.eq1 (failed_k _ _) (by assumption))
    | with_reducible apply Kept.by' (showCtrls_k _)
    | with_reducible apply Kept.by' (svUpd_k _ _)
    | (intro _; intros)
    | dsimp only
    | apply rfl
    | (with_reducible refine Kept.by' (by with_reducible assumption) ?_ ?_)
    | split
theorem execDescriptorArrive_k (a0) (s : State) {t : State} (h : execDescriptorArrive a0 s = .next t) : Kept [.regs, .ev, .mem, .host, .ch, .slices, .land, .cy, .rm, .out, .draws] s t := by
  unfold execDescriptorArrive at h
  injection h with h
  subst h
  try dsimp -proj only
  repeat' first
    | with_reducible assumption
    | with_reducible apply Kept.refl
    | with_reducible apply Kept.ite
    | with_reducible apply Kept.by' (descArrive_k _ _)
    | dsimp only
    | apply rfl
    | (with_reducible refine Kept.by' (by with_reducible assumption) ?_ ?_)
    | split
theorem execEntropyFail_k (a0) (s : State) {t : State} (h : execEntropyFail a0 s = .next t) : Kept [.regs, .ev] s t := by
  unfold execEntropyFail at h
  injection h with h
  subst h
  try dsimp -proj only
  repeat' first
    | with_reducible assumption
    | with_reducible apply Kept.refl
    | with_reducible apply Kept.ite
    | with_reducible apply Kept.by' (raise_k _ _ _)
    | with_reducible apply Kept.by' (wrF_k _ _ _ _ _)
    | dsimp only
    | apply rfl
    | (with_reducible refine Kept.by' (by with_reducible assumption) ?_ ?_)
    | split
theorem execNsDetach_k (a0) (a1) (s : State) {t : State} (h : execNsDetach a0 a1 s = .next t) : Kept [.regs, .mem, .host, .ch, .slices, .sv, .out, .draws] s t := by
  unfold execNsDetach at h
  injection h with h
  subst h
  try dsimp -proj only
  repeat' first
    | with_reducible assumption
    | with_reducible apply Kept.refl
    | with_reducible apply Kept.ite
    | with_reducible apply Kept.ite2
    | with_reducible apply svAdmin_k
    | with_reducible apply Kept.by' (failed_k _ _)
    | with_reducible apply Kept.by' (Kept.eq1 (failed_k _ _) (by assumption))
    | with_reducible apply Kept.by' (testEnd_k _ _ _ _)
    | with_reducible apply Kept.by' (nsChanged_k _ _ _)
    | with_reducible apply Kept.by' (ctrlUpd_k _ _ _)
    | with_reducible apply Kept.by' (adminDefer_k _ _ _ _ _)
    | (intro _; intros)
    | dsimp only
    | apply rfl
    | (with_reducible refine Kept.by' (by with_reducible assumption) ?_ ?_)
    | split
theorem execIngressEntry_k (a0) (a1) (a2) (s : State) {t : State} (h : execIngressEntry a0 a1 a2 s = .next t) : Kept [.regs, .ev, .ch, .stairs, .sheaf, .land, .rm] s t := by
  unfold execIngressEntry at h
  injection h with h
  subst h
  try dsimp -proj only
  repeat' first
    | with_reducible assumption
    | with_reducible apply Kept.refl
    | with_reducible apply Kept.ite
    | with_reducible apply Kept.by' (flightEntry_k _ _ _ _ _)
    | dsimp only
    | apply rfl
    | (with_reducible refine Kept.by' (by with_reducible assumption) ?_ ?_)
    | split
theorem execDbgReset_k (a0) (a1) (a2) (a3) (s : State) {t : State} (h : execDbgReset a0 a1 a2 a3 s = .next t) : Kept [.regs, .acc, .ev, .mem, .tils, .out, .draws] s t := by
  unfold execDbgReset at h
  injection h with h
  subst h
  try dsimp -proj only
  repeat' first
    | with_reducible assumption
    | with_reducible apply Kept.refl
    | with_reducible apply Kept.ite
    | with_reducible apply Kept.by' (dbgRow_k _ _ _ _ _ _ _ _)
    | dsimp only
    | apply rfl
    | (with_reducible refine Kept.by' (by with_reducible assumption) ?_ ?_)
    | split
theorem execQpQuery_k (a0) (a1) (a2) (s : State) {t : State} (h : execQpQuery a0 a1 a2 s = .next t) : Kept [.mem, .host, .ch, .slices, .out] s t := by
  unfold execQpQuery at h
  injection h with h
  subst h
  try dsimp -proj only
  repeat' first
    | with_reducible assumption
    | with_reducible apply Kept.refl
    | with_reducible apply Kept.ite
    | with_reducible apply runAdmin_k
    | with_reducible apply Kept.by' (failed_k _ _)
    | with_reducible apply Kept.by' (Kept.eq1 (failed_k _ _) (by assumption))
    | with_reducible apply Kept.by' (adminResult_k _ _ _ _ _)
    | with_reducible apply Kept.by' (Kept.eq1 (adminResult_k _ _ _ _ _) (by assumption))
    | (intro _; intros)
    | dsimp only
    | apply rfl
    | (with_reducible refine Kept.by' (by with_reducible assumption) ?_ ?_)
    | split
theorem execPllLockTimeout_k (s : State) {t : State} (h : execPllLockTimeout s = .next t) : Kept [.regs, .ev, .draws] s t := by
  unfold execPllLockTimeout at h
  injection h with h
  subst h
  try dsimp -proj only
  repeat' first
    | with_reducible assumption
    | with_reducible apply Kept.refl
    | with_reducible apply Kept.ite
    | with_reducible apply Kept.ite1
    | with_reducible apply Kept.ite2
    | with_reducible apply Kept.by' (draw_k _)
    | with_reducible apply Kept.by' (Kept.eq2 (draw_k _) (by assumption))
    | with_reducible apply Kept.by' (raise_k _ _ _)
    | with_reducible apply Kept.by' (bootStop_k _)
    | dsimp only
    | apply rfl
    | (with_reducible refine Kept.by' (by with_reducible assumption) ?_ ?_)
    | split
theorem execArrCfgWrite_k (a0) (a1) (a2) (a3) (a4) (a5) (s : State) {t : State} (h : execArrCfgWrite a0 a1 a2 a3 a4 a5 s = .next t) : Kept [.regs, .acc, .ev, .stairs, .out] s t := by
  unfold execArrCfgWrite at h
  injection h with h
  subst h
  try dsimp -proj only
  repeat' first
    | with_reducible assumption
    | with_reducible apply Kept.refl
    | with_reducible apply Kept.ite
    | with_reducible apply gate_k
    | with_reducible apply Kept.by' (arrCfgWrite_k _ _ _ _ _)
    | (intro _; intros)
    | dsimp only
    | apply rfl
    | (with_reducible refine Kept.by' (by with_reducible assumption) ?_ ?_)
    | split
theorem execKeyQuery_k (a0) (a1) (s : State) {t : State} (h : execKeyQuery a0 a1 s = .next t) : Kept [.mem, .host, .ch, .slices, .out] s t := by
  unfold execKeyQuery at h
  injection h with h
  subst h
  try dsimp -proj only
  repeat' first
    | with_reducible assumption
    | with_reducible apply Kept.refl
    | with_reducible apply Kept.ite
    | with_reducible apply runAdmin_k
    | with_reducible apply Kept.by' (failed_k _ _)
    | with_reducible apply Kept.by' (Kept.eq1 (failed_k _ _) (by assumption))
    | (intro _; intros)
    | dsimp only
    | apply rfl
    | (with_reducible refine Kept.by' (by with_reducible assumption) ?_ ?_)
    | split
theorem execThrottleRelease_k (s : State) {t : State} (h : execThrottleRelease s = .next t) : Kept [.regs, .ev, .mem, .host, .ch, .slices, .stairs, .unit, .oz, .cy, .rm, .sv, .out, .draws] s t := by
  unfold execThrottleRelease at h
  injection h with h
  subst h
  try dsimp -proj only
  repeat' first
    | with_reducible assumption
    | with_reducible apply Kept.refl
    | with_reducible apply Kept.ite
    | with_reducible apply Kept.by' (ozUpd_k _ _ ?_)
    | with_reducible apply Kept.by' (ozResume_k _)
    | (intro _; intros)
    | dsimp only
    | exact OzLe.same rfl rfl rfl
    | apply rfl
    | (with_reducible refine Kept.by' (by with_reducible assumption) ?_ ?_)
    | split
theorem execSupplyDip_k (a0) (a1) (s : State) {t : State} (h : execSupplyDip a0 a1 s = .next t) : Kept [.regs, .acc, .ev, .oz] s t := by
  unfold execSupplyDip at h
  injection h with h
  subst h
  try dsimp -proj only
  repeat' first
    | with_reducible assumption
    | with_reducible apply Kept.refl
    | with_reducible apply Kept.ite
    | with_reducible apply Kept.by' (wrF_k _ _ _ _ _)
    | with_reducible apply Kept.by' (bump_k _ _ _)
    | with_reducible apply Kept.by' (raise_k _ _ _)
    | with_reducible apply Kept.by' (raisePhase_k _ _ _ _)
    | with_reducible apply Kept.by' (ozUpd_k _ _ ?_)
    | with_reducible apply Kept.by' (noteLows_k _ _ _)
    | (intro _; intros)
    | dsimp only
    | exact OzLe.same rfl rfl rfl
    | apply rfl
    | (with_reducible refine Kept.by' (by with_reducible assumption) ?_ ?_)
    | split
theorem execBpSet_k (a0) (a1) (a2) (a3) (s : State) {t : State} (h : execBpSet a0 a1 a2 a3 s = .next t) : Kept [.regs, .acc, .ev, .mem, .tils, .out, .draws] s t := by
  unfold execBpSet at h
  injection h with h
  subst h
  try dsimp -proj only
  repeat' first
    | with_reducible assumption
    | with_reducible apply Kept.refl
    | with_reducible apply Kept.ite
    | with_reducible apply Kept.by' (dbgRow_k _ _ _ _ _ _ _ _)
    | dsimp only
    | apply rfl
    | (with_reducible refine Kept.by' (by with_reducible assumption) ?_ ?_)
    | split
theorem execImportSlice_k (a0) (a1) (a2) (s : State) {t : State} (h : execImportSlice a0 a1 a2 s = .next t) : Kept [.regs, .ev, .mem, .host, .ch, .slices, .cy, .rm, .sv, .out, .draws] s t := by
  unfold execImportSlice at h
  injection h with h
  subst h
  try dsimp -proj only
  repeat' first
    | with_reducible assumption
    | with_reducible apply Kept.refl
    | with_reducible apply Kept.ite
    | with_reducible apply Kept.ite1
    | with_reducible apply adminRead_k
    | with_reducible apply Kept.by' (failed_k _ _)
    | with_reducible apply Kept.by' (Kept.eq1 (failed_k _ _) (by assumption))
    | with_reducible apply ownerCmd_k
    | with_reducible apply Kept.by' (imageImport_k _ _ _ _ _)
    | with_reducible apply Kept.by' (Kept.eq1 (imageImport_k _ _ _ _ _) (by assumption))
    | (intro _; intros)
    | dsimp only
    | apply rfl
    | (with_reducible refine Kept.by' (by with_reducible assumption) ?_ ?_)
    | split
theorem execAqEnable_k (a0) (a1) (a2) (a3) (s : State) {t : State} (h : execAqEnable a0 a1 a2 a3 s = .next t) : Kept [.regs, .acc, .ev, .mem, .host, .ch, .slices, .rm, .out, .draws] s t := by
  unfold execAqEnable at h
  injection h with h
  subst h
  try dsimp -proj only
  repeat' first
    | with_reducible assumption
    | with_reducible apply Kept.refl
    | with_reducible apply Kept.ite
    | with_reducible apply Kept.by' (slCtlBy_k _ _ _ _ _)
    | dsimp only
    | apply rfl
    | (with_reducible refine Kept.by' (by with_reducible assumption) ?_ ?_)
    | split
theorem execPathQuery_k (a0) (a1) (a2) (s : State) {t : State} (h : execPathQuery a0 a1 a2 s = .next t) : Kept [.mem, .host, .ch, .slices, .out] s t := by
  unfold execPathQuery at h
  injection h with h
  subst h
  try dsimp -proj only
  repeat' first
    | with_reducible assumption
    | with_reducible apply Kept.refl
    | with_reducible apply Kept.ite
    | with_reducible apply runAdmin_k
    | with_reducible apply Kept.by' (failed_k _ _)
    | with_reducible apply Kept.by' (Kept.eq1 (failed_k _ _) (by assumption))
    | with_reducible apply Kept.by' (adminResult_k _ _ _ _ _)
    | with_reducible apply Kept.by' (Kept.eq1 (adminResult_k _ _ _ _ _) (by assumption))
    | (intro _; intros)
    | dsimp only
    | apply rfl
    | (with_reducible refine Kept.by' (by with_reducible assumption) ?_ ?_)
    | split
theorem execDriveCompletion_k (a0) (a1) (a2) (s : State) {t : State} (h : execDriveCompletion a0 a1 a2 s = .next t) : Kept [.regs, .ev, .host, .draws] s t := by
  unfold execDriveCompletion at h
  injection h with h
  subst h
  try dsimp -proj only
  repeat' first
    | with_reducible assumption
    | with_reducible apply Kept.refl
    | with_reducible apply Kept.ite
    | with_reducible apply Kept.by' (rpUpd_k _ _ _)
    | with_reducible apply Kept.by' (rpTimeout_k _ _)
    | (intro _; intros)
    | dsimp only
    | apply rfl
    | (with_reducible refine Kept.by' (by with_reducible assumption) ?_ ?_)
    | split
theorem execQueryQuota_k (a0) (a1) (a2) (s : State) {t : State} (h : execQueryQuota a0 a1 a2 s = .next t) : Kept [.mem, .host, .ch, .slices, .out, .draws] s t := by
  unfold execQueryQuota at h
  injection h with h
  subst h
  try dsimp -proj only
  repeat' first
    | with_reducible assumption
    | with_reducible apply Kept.refl
    | with_reducible apply Kept.ite
    | with_reducible apply Kept.ite2
    | with_reducible apply runAdmin_k
    | with_reducible apply Kept.by' (failed_k _ _)
    | with_reducible apply Kept.by' (Kept.eq1 (failed_k _ _) (by assumption))
    | with_reducible apply Kept.by' (draw_k _)
    | with_reducible apply Kept.by' (Kept.eq2 (draw_k _) (by assumption))
    | with_reducible apply Kept.by' (adminResult_k _ _ _ _ _)
    | with_reducible apply Kept.by' (Kept.eq1 (adminResult_k _ _ _ _ _) (by assumption))
    | (intro _; intros)
    | dsimp only
    | apply rfl
    | (with_reducible refine Kept.by' (by with_reducible assumption) ?_ ?_)
    | split
theorem execSnapshotGo_k (a0) (a1) (a2) (s : State) {t : State} (h : execSnapshotGo a0 a1 a2 s = .next t) : Kept [.regs, .snap, .time, .acc, .ev, .stairs, .out] s t := by
  unfold execSnapshotGo at h
  injection h with h
  subst h
  try dsimp -proj only
  repeat' first
    | with_reducible assumption
    | with_reducible apply Kept.refl
    | with_reducible apply Kept.ite
    | with_reducible apply gate_k
    | with_reducible apply Kept.by' (snapGo_k _ _)
    | (intro _; intros)
    | dsimp only
    | apply rfl
    | (with_reducible refine Kept.by' (by with_reducible assumption) ?_ ?_)
    | split
theorem execDbgHalt_k (a0) (a1) (a2) (a3) (s : State) {t : State} (h : execDbgHalt a0 a1 a2 a3 s = .next t) : Kept [.regs, .acc, .ev, .mem, .tils, .out, .draws] s t := by
  unfold execDbgHalt at h
  injection h with h
  subst h
  try dsimp -proj only
  repeat' first
    | with_reducible assumption
    | with_reducible apply Kept.refl
    | with_reducible apply Kept.ite
    | with_reducible apply Kept.by' (dbgRow_k _ _ _ _ _ _ _ _)
    | dsimp only
    | apply rfl
    | (with_reducible refine Kept.by' (by with_reducible assumption) ?_ ?_)
    | split
theorem execNonce_k (a0) (a1) (a2) (s : State) {t : State} (h : execNonce a0 a1 a2 s = .next t) : Kept [.regs, .acc, .ev, .oz, .out, .draws] s t := by
  unfold execNonce at h
  injection h with h
  subst h
  try dsimp -proj only
  repeat' first
    | with_reducible assumption
    | with_reducible apply Kept.refl
    | with_reducible apply Kept.ite
    | with_reducible apply mbRow_k
    | (intro _; intros)
    | with_reducible apply Kept.by' (mbNonce_k (by assumption))
    | with_reducible apply Kept.by' (mbRow_k _ _ _ _ _ _ _)
    | dsimp only
    | apply rfl
    | (with_reducible refine Kept.by' (by with_reducible assumption) ?_ ?_)
    | split
theorem execKeyEraseAlarm_k (a0) (s : State) {t : State} (h : execKeyEraseAlarm a0 s = .next t) : Kept [.regs, .ev, .mem, .host, .ch, .slices, .cy, .rm, .sv, .out, .draws] s t := by
  unfold execKeyEraseAlarm at h
  injection h with h
  subst h
  try dsimp -proj only
  repeat' first
    | with_reducible assumption
    | with_reducible apply Kept.refl
    | with_reducible apply Kept.ite
    | with_reducible apply Kept.by' (keyErase_k _ _)
    | dsimp only
    | apply rfl
    | (with_reducible refine Kept.by' (by with_reducible assumption) ?_ ?_)
    | split
theorem execHotResetReceived_k (a0) (s : State) {t : State} (h : execHotResetReceived a0 s = .next t) : Kept [.regs, .time, .ev, .mem, .host, .ch, .slices, .out] s t := by
  unfold execHotResetReceived at h
  injection h with h
  subst h
  try dsimp -proj only
  repeat' first
    | with_reducible assumption
    | with_reducible apply Kept.refl
    | with_reducible apply Kept.ite
    | with_reducible apply Kept.by' (linkReset_k _ _)
    | with_reducible apply Kept.by' (raise_k _ _ _)
    | dsimp only
    | apply rfl
    | (with_reducible refine Kept.by' (by with_reducible assumption) ?_ ?_)
    | split
theorem execPoolDestroy_k (a0) (a1) (s : State) {t : State} (h : execPoolDestroy a0 a1 s = .next t) : Kept [.regs, .mem, .host, .ch, .slices, .sv, .out] s t := by
  unfold execPoolDestroy at h
  injection h with h
  subst h
  try dsimp -proj only
  repeat' first
    | with_reducible assumption
    | with_reducible apply Kept.refl
    | with_reducible apply Kept.ite
    | with_reducible apply Kept.ite2
    | with_reducible apply svAdmin_k
    | with_reducible apply Kept.by' (failed_k _ _)
    | with_reducible apply Kept.by' (Kept.eq1 (failed_k _ _) (by assumption))
    | with_reducible apply Kept.by' (showPools_k _)
    | with_reducible apply Kept.by' (svUpd_k _ _)
    | (intro _; intros)
    | dsimp only
    | apply rfl
    | (with_reducible refine Kept.by' (by with_reducible assumption) ?_ ?_)
    | split
theorem execMacControlFrame_k (a0) (a1) (s : State) {t : State} (h : execMacControlFrame a0 a1 s = .next t) : Kept [.regs, .net] s t := by
  unfold execMacControlFrame at h
  injection h with h
  subst h
  try dsimp -proj only
  repeat' first
    | with_reducible assumption
    | with_reducible apply Kept.refl
    | with_reducible apply Kept.ite
    | with_reducible apply Kept.by' (macControl_k _ _ _)
    | with_reducible apply Kept.by' (portCnt_k _ _ _ _)
    | dsimp only
    | apply rfl
    | (with_reducible refine Kept.by' (by with_reducible assumption) ?_ ?_)
    | split
theorem execUnlockWindowExpire_k (s : State) {t : State} (h : execUnlockWindowExpire s = .next t) : Kept [.acc] s t := by
  unfold execUnlockWindowExpire at h
  injection h with h
  subst h
  try dsimp -proj only
  repeat' first
    | with_reducible assumption
    | with_reducible apply Kept.refl
    | with_reducible apply Kept.ite
    | with_reducible apply Kept.by' (closeWindow_k _)
    | dsimp only
    | apply rfl
    | (with_reducible refine Kept.by' (by with_reducible assumption) ?_ ?_)
    | split
theorem execThGroupWrite_k (a0) (a1) (a2) (a3) (a4) (s : State) {t : State} (h : execThGroupWrite a0 a1 a2 a3 a4 s = .next t) : Kept [.regs, .acc, .ev, .out] s t := by
  unfold execThGroupWrite at h
  injection h with h
  subst h
  try dsimp -proj only
  repeat' first
    | with_reducible assumption
    | with_reducible apply Kept.refl
    | with_reducible apply Kept.ite
    | with_reducible apply gate_k
    | with_reducible apply Kept.by' (thGroupWrite_k _ _ _ _ _)
    | (intro _; intros)
    | dsimp only
    | apply rfl
    | (with_reducible refine Kept.by' (by with_reducible assumption) ?_ ?_)
    | split
theorem execLookasideComplete_k (a0) (a1) (s : State) {t : State} (h : execLookasideComplete a0 a1 s = .next t) : Kept [.regs, .ev, .mem, .host, .ch, .slices, .cy, .out, .draws] s t := by
  unfold execLookasideComplete at h
  injection h with h
  subst h
  try dsimp -proj only
  repeat' first
    | with_reducible assumption
    | with_reducible apply Kept.refl
    | with_reducible apply Kept.ite
    | with_reducible apply Kept.ite1
    | with_reducible apply Kept.ite2
    | with_reducible apply Kept.by' (bump_k _ _ _)
    | with_reducible apply Kept.by' (bump64_k _ _ _)
    | with_reducible apply Kept.by' (draw_k _)
    | with_reducible apply Kept.by' (Kept.eq2 (draw_k _) (by assumption))
    | with_reducible apply Kept.by' (slWrite_k _ _ _ _ _)
    | with_reducible apply Kept.by' (fencedSend_k _ _)
    | with_reducible apply Kept.by' (cyUpd_k _ _)
    | with_reducible apply Kept.by' (engineNext_k _ _)
    | with_reducible apply Kept.by' (laEnd_k _ _ _ _)
    | with_reducible apply Kept.by' (keyWake_k _)
    | with_reducible apply Kept.by' (laSource_k _ _ _)
    | with_reducible apply Kept.by' (Kept.eq1 (laSource_k _ _ _) (by assumption))
    | (intro _; intros)
    | dsimp only
    | apply rfl
    | (with_reducible refine Kept.by' (by with_reducible assumption) ?_ ?_)
    | split
theorem execFwActivate_k (a0) (a1) (a2) (s : State) {t : State} (h : execFwActivate a0 a1 a2 s = .next t) : Kept [.regs, .acc, .ev, .mem, .unit, .oz, .out] s t := by
  unfold execFwActivate at h
  injection h with h
  subst h
  try dsimp -proj only
  repeat' first
    | with_reducible assumption
    | with_reducible apply Kept.refl
    | with_reducible apply Kept.ite
    | with_reducible apply mbRow_k
    | (intro _; intros)
    | with_reducible apply Kept.by' (mbFwActivate_k (by assumption))
    | with_reducible apply Kept.by' (mbRow_k _ _ _ _ _ _ _)
    | dsimp only
    | apply rfl
    | (with_reducible refine Kept.by' (by with_reducible assumption) ?_ ?_)
    | split
theorem execArrayRead_k (a0) (a1) (a2) (a3) (a4) (s : State) {t : State} (h : execArrayRead a0 a1 a2 a3 a4 s = .next t) : Kept [.regs, .acc, .ev, .stairs, .land, .out] s t := by
  unfold execArrayRead at h
  injection h with h
  subst h
  try dsimp -proj only
  repeat' first
    | with_reducible assumption
    | with_reducible apply Kept.refl
    | with_reducible apply Kept.ite
    | with_reducible apply Kept.by' (arrCmdRow_k _ _ _ _ _ _ _)
    | dsimp only
    | apply rfl
    | (with_reducible refine Kept.by' (by with_reducible assumption) ?_ ?_)
    | split
theorem execPoolMemberFail_k (a0) (a1) (a2) (s : State) {t : State} (h : execPoolMemberFail a0 a1 a2 s = .next t) : Kept [.regs, .ev, .mem, .host, .ch, .slices, .sv, .out, .draws] s t := by
  unfold execPoolMemberFail at h
  injection h with h
  subst h
  try dsimp -proj only
  repeat' first
    | with_reducible assumption
    | with_reducible apply Kept.refl
    | with_reducible apply Kept.ite
    | with_reducible apply Kept.ite1
    | with_reducible apply Kept.ite2
    | with_reducible apply Kept.by' (bump_k _ _ _)
    | with_reducible apply Kept.by' (raise_k _ _ _)
    | with_reducible apply Kept.by' (poolUpd_k _ _ _)
    | with_reducible apply Kept.by' (aerFire_k _ _ _)
    | with_reducible apply Kept.by' (showPools_k _)
    | with_reducible apply Kept.by' (nsNotReady_k _ _)
    | with_reducible apply Kept.by' (reissue_k _ _ _)
    | with_reducible apply Kept.foldl
    | with_reducible apply Kept.foldl1
    | (intro _; intros)
    | dsimp only
    | apply rfl
    | (with_reducible refine Kept.by' (by with_reducible assumption) ?_ ?_)
    | split
theorem execThreadTimerExpire_k (a0) (a1) (a2) (s : State) {t : State} (h : execThreadTimerExpire a0 a1 a2 s = .next t) : Kept [.regs, .ev, .mem, .tils] s t := by
  unfold execThreadTimerExpire at h
  injection h with h
  subst h
  try dsimp -proj only
  repeat' first
    | with_reducible assumption
    | with_reducible apply Kept.refl
    | with_reducible apply Kept.ite
    | with_reducible apply Kept.by' (thUpd_k _ _ _ _)
    | with_reducible apply Kept.by' (postMsg_k (by assumption))
    | with_reducible apply Kept.by' (lateFiring_k _)
    | with_reducible apply Kept.getD
    | (intro _; intros)
    | dsimp only
    | apply rfl
    | (with_reducible refine Kept.by' (by with_reducible assumption) ?_ ?_)
    | split
theorem execSheafUnstage_k (a0) (a1) (a2) (s : State) {t : State} (h : execSheafUnstage a0 a1 a2 s = .next t) : Kept [.regs, .acc, .ev, .stairs, .lpm, .sheaf, .out] s t := by
  unfold execSheafUnstage at h
  injection h with h
  subst h
  try dsimp -proj only
  repeat' first
    | with_reducible assumption
    | with_reducible apply Kept.refl
    | with_reducible apply Kept.ite
    | with_reducible apply Kept.by' (sheafCmdRow_k _ _ _ _ _)
    | dsimp only
    | apply rfl
    | (with_reducible refine Kept.by' (by with_reducible assumption) ?_ ?_)
    | split
theorem execNsAttach_k (a0) (a1) (s : State) {t : State} (h : execNsAttach a0 a1 s = .next t) : Kept [.regs, .mem, .host, .ch, .slices, .sv, .out, .draws] s t := by
  unfold execNsAttach at h
  injection h with h
  subst h
  try dsimp -proj only
  repeat' first
    | with_reducible assumption
    | with_reducible apply Kept.refl
    | with_reducible apply Kept.ite
    | with_reducible apply svAdmin_k
    | with_reducible apply Kept.by' (failed_k _ _)
    | with_reducible apply Kept.by' (Kept.eq1 (failed_k _ _) (by assumption))
    | with_reducible apply Kept.by' (nsChanged_k _ _ _)
    | with_reducible apply Kept.by' (ctrlUpd_k _ _ _)
    | (intro _; intros)
    | dsimp only
    | apply rfl
    | (with_reducible refine Kept.by' (by with_reducible assumption) ?_ ?_)
    | split
theorem execDmaRequest_k (a0) (s : State) {t : State} (h : execDmaRequest a0 s = .next t) : Kept [.regs, .ev, .tils] s t := by
  unfold execDmaRequest at h
  injection h with h
  subst h
  try dsimp -proj only
  repeat' first
    | with_reducible assumption
    | with_reducible apply Kept.refl
    | with_reducible apply Kept.ite
    | with_reducible apply Kept.by' (fencedSend_k _ _)
    | with_reducible apply Kept.by' (tilUpd_k _ _ _)
    | (intro _; intros)
    | dsimp only
    | apply rfl
    | (with_reducible refine Kept.by' (by with_reducible assumption) ?_ ?_)
    | split
theorem execBackgroundZero_k (a0) (a1) (s : State) {t : State} (h : execBackgroundZero a0 a1 s = .next t) : Kept [.mem, .slices] s t := by
  unfold execBackgroundZero at h
  injection h with h
  subst h
  try dsimp -proj only
  repeat' first
    | with_reducible assumption
    | with_reducible apply Kept.refl
    | with_reducible apply Kept.ite
    | with_reducible apply Kept.by' (slUpd_k _ _ _)
    | dsimp only
    | exact fun h => memPuts_wf h
    | exact fun h => memClear_wf h
    | exact memPuts_wf (by assumption)
    | exact memClear_wf (by assumption)
    | exact fun h => filter_wf _ h
    | exact fun h => h
    | apply rfl
    | (with_reducible refine Kept.by' (by with_reducible assumption) ?_ ?_)
    | split
    | with_reducible apply Kept.set_mem
    | with_reducible apply Kept.set_slices
    | (refine Kept.of ⟨fun p hp => ?_⟩ rfl rfl rfl (congrArg AccSt.own rfl); cases p <;> first | rfl | cases hp)
theorem execLockChange_k (a0) (a1) (a2) (a3) (s : State) {t : State} (h : execLockChange a0 a1 a2 a3 s = .next t) : Kept [.regs, .ev, .ch, .net, .land, .rm, .out] s t := by
  unfold execLockChange at h
  injection h with h
  subst h
  try dsimp -proj only
  repeat' first
    | with_reducible assumption
    | with_reducible apply Kept.refl
    | with_reducible apply Kept.ite
    | with_reducible apply Kept.by' (portSet_k _ _ _)
    | with_reducible apply Kept.by' (faultStep_k _ _)
    | with_reducible apply Kept.by' (lineFollow_k _ _)
    | dsimp only
    | apply rfl
    | (with_reducible refine Kept.by' (by with_reducible assumption) ?_ ?_)
    | split
theorem execHeartbeatTimeout_k (a0) (s : State) {t : State} (h : execHeartbeatTimeout a0 s = .next t) : Kept [.regs, .ev, .ch, .net, .stairs, .sheaf, .land, .unit, .cy, .rm, .out, .draws] s t := by
  unfold execHeartbeatTimeout at h
  injection h with h
  subst h
  try dsimp -proj only
  repeat' first
    | with_reducible assumption
    | with_reducible apply Kept.refl
    | with_reducible apply Kept.ite
    | with_reducible apply Kept.by' (declare'_k _ _ _)
    | dsimp only
    | apply rfl
    | (with_reducible refine Kept.by' (by with_reducible assumption) ?_ ?_)
    | split
theorem execChInfo_k (a0) (a1) (a2) (a3) (a4) (s : State) {t : State} (h : execChInfo a0 a1 a2 a3 a4 s = .next t) : Kept [.tils, .out] s t := by
  unfold execChInfo at h
  injection h with h
  subst h
  try dsimp -proj only
  repeat' first
    | with_reducible assumption
    | with_reducible apply Kept.refl
    | with_reducible apply Kept.ite
    | with_reducible apply Kept.by' (thTrap_k _ _ _ _)
    | with_reducible apply Kept.by' (emit_k _ _)
    | with_reducible apply Kept.by' (thIssue_k _ _ _)
    | dsimp only
    | apply rfl
    | (with_reducible refine Kept.by' (by with_reducible assumption) ?_ ?_)
    | split
theorem execRevokeSlow_k (a0) (s : State) {t : State} (h : execRevokeSlow a0 s = .next t) : Kept [.regs, .ev, .rm] s t := by
  unfold execRevokeSlow at h
  injection h with h
  subst h
  try dsimp -proj only
  repeat' first
    | with_reducible assumption
    | with_reducible apply Kept.refl
    | with_reducible apply Kept.ite
    | with_reducible apply Kept.by' (raise_k _ _ _)
    | with_reducible apply Kept.by' (rmUpd_k _ _)
    | dsimp only
    | apply rfl
    | (with_reducible refine Kept.by' (by with_reducible assumption) ?_ ?_)
    | split
theorem execAbandon_k (a0) (a1) (a2) (a3) (s : State) {t : State} (h : execAbandon a0 a1 a2 a3 s = .next t) : Kept [.regs, .acc, .ev, .mem, .tils, .out, .draws] s t := by
  unfold execAbandon at h
  injection h with h
  subst h
  try dsimp -proj only
  repeat' first
    | with_reducible assumption
    | with_reducible apply Kept.refl
    | with_reducible apply Kept.ite
    | with_reducible apply Kept.by' (dbgRow_k _ _ _ _ _ _ _ _)
    | dsimp only
    | apply rfl
    | (with_reducible refine Kept.by' (by with_reducible assumption) ?_ ?_)
    | split
theorem execDmaComplete_k (a0) (a1) (s : State) {t : State} (h : execDmaComplete a0 a1 s = .next t) : Kept [.regs, .ev, .mem, .host, .slices, .tils, .out, .draws] s t := by
  unfold execDmaComplete at h
  injection h with h
  subst h
  try dsimp -proj only
  repeat' first
    | with_reducible assumption
    | with_reducible apply Kept.refl
    | with_reducible apply Kept.ite
    | with_reducible apply Kept.ite1
    | with_reducible apply Kept.ite2
    | with_reducible apply Kept.by' (fencedSend_k _ _)
    | with_reducible apply Kept.by' (tilUpd_k _ _ _)
    | with_reducible apply Kept.by' (postMsg_k (by assumption))
    | with_reducible apply Kept.by' (dmaCopy_k _ _ _ _)
    | with_reducible apply Kept.by' (Kept.eq1 (dmaCopy_k _ _ _ _) (by assumption))
    | (intro _; intros)
    | with_reducible apply Kept.getD
    | dsimp only
    | apply rfl
    | (with_reducible refine Kept.by' (by with_reducible assumption) ?_ ?_)
    | split
theorem execApply_k (a0) (a1) (a2) (s : State) {t : State} (h : execApply a0 a1 a2 s = .next t) : Kept [.regs, .time, .acc, .ev, .ch, .net, .land, .rm, .out] s t := by
  unfold execApply at h
  injection h with h
  subst h
  try dsimp -proj only
  repeat' first
    | with_reducible assumption
    | with_reducible apply Kept.refl
    | with_reducible apply Kept.ite
    | with_reducible apply gate_k
    | with_reducible apply Kept.by' (nodeCmdWrite_k _ _)
    | (intro _; intros)
    | dsimp only
    | apply rfl
    | (with_reducible refine Kept.by' (by with_reducible assumption) ?_ ?_)
    | split
theorem execCompletionWrite_k (a0) (s : State) {t : State} (h : execCompletionWrite a0 s = .next t) : Kept [.regs, .ev, .mem, .host, .ch, .slices, .rm, .out, .draws] s t := by
  unfold execCompletionWrite at h
  injection h with h
  subst h
  try dsimp -proj only
  repeat' first
    | with_reducible assumption
    | with_reducible apply Kept.refl
    | with_reducible apply Kept.ite
    | with_reducible apply Kept.by' (completeHead_k _ _)
    | dsimp only
    | apply rfl
    | (with_reducible refine Kept.by' (by with_reducible assumption) ?_ ?_)
    | split
theorem execDebugOpen_k (a0) (a1) (a2) (a3) (s : State) {t : State} (h : execDebugOpen a0 a1 a2 a3 s = .next t) : Kept [.regs, .acc, .ev, .host, .oz, .out, .draws] s t := by
  unfold execDebugOpen at h
  injection h with h
  subst h
  try dsimp -proj only
  repeat' first
    | with_reducible assumption
    | with_reducible apply Kept.refl
    | with_reducible apply Kept.ite
    | with_reducible apply mbRow_k
    | (intro _; intros)
    | with_reducible apply Kept.by' (mbDebugOpen_k (by assumption))
    | with_reducible apply Kept.by' (mbRow_k _ _ _ _ _ _ _)
    | dsimp only
    | apply rfl
    | (with_reducible refine Kept.by' (by with_reducible assumption) ?_ ?_)
    | split
theorem execEntropyRecover_k (s : State) {t : State} (h : execEntropyRecover s = .next t) : Kept [.regs, .ev] s t := by
  unfold execEntropyRecover at h
  injection h with h
  subst h
  try dsimp -proj only
  repeat' first
    | with_reducible assumption
    | with_reducible apply Kept.refl
    | with_reducible apply Kept.ite
    | with_reducible apply Kept.by' (raise_k _ _ _)
    | with_reducible apply Kept.by' (wrF_k _ _ _ _ _)
    | dsimp only
    | apply rfl
    | (with_reducible refine Kept.by' (by with_reducible assumption) ?_ ?_)
    | split
theorem execSheafCommitAt_k (a0) (a1) (a2) (s : State) {t : State} (h : execSheafCommitAt a0 a1 a2 s = .next t) : Kept [.regs, .acc, .ev, .stairs, .lpm, .sheaf, .out] s t := by
  unfold execSheafCommitAt at h
  injection h with h
  subst h
  try dsimp -proj only
  repeat' first
    | with_reducible assumption
    | with_reducible apply Kept.refl
    | with_reducible apply Kept.ite
    | with_reducible apply Kept.by' (sheafCmdRow_k _ _ _ _ _)
    | dsimp only
    | apply rfl
    | (with_reducible refine Kept.by' (by with_reducible assumption) ?_ ?_)
    | split
theorem execDriveWriteForward_k (a0) (a1) (a2) (s : State) {t : State} (h : execDriveWriteForward a0 a1 a2 s = .next t) : Kept [.mem, .host, .slices, .out] s t := by
  unfold execDriveWriteForward at h
  injection h with h
  subst h
  try dsimp -proj only
  repeat' first
    | with_reducible assumption
    | with_reducible apply Kept.refl
    | with_reducible apply Kept.ite
    | with_reducible apply Kept.ite1
    | with_reducible apply Kept.ite2
    | with_reducible apply Kept.by' (slWrite_k _ _ _ _ _)
    | with_reducible apply Kept.by' (rpUpd_k _ _ _)
    | with_reducible apply Kept.foldl
    | with_reducible apply Kept.foldl1
    | (intro _; intros)
    | dsimp only
    | apply rfl
    | (with_reducible refine Kept.by' (by with_reducible assumption) ?_ ?_)
    | split
theorem execAttentionButton_k (a0) (s : State) {t : State} (h : execAttentionButton a0 s = .next t) : Kept [.regs, .ev, .host] s t := by
  unfold execAttentionButton at h
  injection h with h
  subst h
  try dsimp -proj only
  repeat' first
    | with_reducible assumption
    | with_reducible apply Kept.refl
    | with_reducible apply Kept.ite
    | with_reducible apply Kept.by' (raise_k _ _ _)
    | with_reducible apply Kept.by' (rpBit_k _ _ _ _ _)
    | dsimp only
    | apply rfl
    | (with_reducible refine Kept.by' (by with_reducible assumption) ?_ ?_)
    | split
theorem execTableLookup_k (a0) (a1) (a2) (a3) (s : State) {t : State} (h : execTableLookup a0 a1 a2 a3 s = .next t) : Kept [.regs, .acc, .ev, .stairs, .lpm, .land, .out] s t := by
  unfold execTableLookup at h
  injection h with h
  subst h
  try dsimp -proj only
  repeat' first
    | with_reducible assumption
    | with_reducible apply Kept.refl
    | with_reducible apply Kept.ite
    | with_reducible apply Kept.by' (tblCmdRow_k _ _ _ _ _ _ _)
    | dsimp only
    | apply rfl
    | (with_reducible refine Kept.by' (by with_reducible assumption) ?_ ?_)
    | split
theorem execIndDomainAnswer_k (a0) (a1) (a2) (s : State) {t : State} (h : execIndDomainAnswer a0 a1 a2 s = .next t) : Kept [.regs, .acc, .net, .out] s t := by
  unfold execIndDomainAnswer at h
  injection h with h
  subst h
  try dsimp -proj only
  repeat' first
    | with_reducible assumption
    | with_reducible apply Kept.refl
    | with_reducible apply Kept.ite
    | with_reducible apply Kept.by' (wr_k _ _ _)
    | with_reducible apply Kept.by' (wrF_k _ _ _ _ _)
    | with_reducible apply Kept.by' (indReply_k _ _ _ _)
    | with_reducible apply Kept.by' (indNext_k _ _)
    | with_reducible apply Kept.by' (indSettle_k _ _)
    | with_reducible apply Kept.by' (indClear_k _ _ _)
    | with_reducible apply Kept.by' (indTake_k _ _ _ _)
    | dsimp only
    | apply rfl
    | (with_reducible refine Kept.by' (by with_reducible assumption) ?_ ?_)
    | split
theorem execCreateIoSubmissionQueue_k (a0) (a1) (s : State) {t : State} (h : execCreateIoSubmissionQueue a0 a1 s = .next t) : Kept [.regs, .ev, .mem, .host, .ch, .slices, .sv, .out, .draws] s t := by
  unfold execCreateIoSubmissionQueue at h
  injection h with h
  subst h
  try dsimp -proj only
  repeat' first
    | with_reducible assumption
    | with_reducible apply Kept.refl
    | with_reducible apply Kept.ite
    | with_reducible apply nvmeAdmin_k
    | with_reducible apply Kept.by' (finish_k _ _ _ _ _ _)
    | with_reducible apply Kept.by' (ctrlUpd_k _ _ _)
    | (intro _; intros)
    | dsimp only
    | apply rfl
    | (with_reducible refine Kept.by' (by with_reducible assumption) ?_ ?_)
    | split
theorem execHeartbeat_k (a0) (s : State) {t : State} (h : execHeartbeat a0 s = .next t) : Kept [.unit] s t := by
  unfold execHeartbeat at h
  injection h with h
  subst h
  try dsimp -proj only
  repeat' first
    | with_reducible assumption
    | with_reducible apply Kept.refl
    | with_reducible apply Kept.ite
    | with_reducible apply Kept.by' (beat_k _ _)
    | dsimp only
    | apply rfl
    | (with_reducible refine Kept.by' (by with_reducible assumption) ?_ ?_)
    | split
theorem execWinOldDrained_k (a0) (a1) (s : State) {t : State} (h : execWinOldDrained a0 a1 s = .next t) : Kept [.regs, .ev, .host] s t := by
  unfold execWinOldDrained at h
  injection h with h
  subst h
  try dsimp -proj only
  repeat' first
    | with_reducible assumption
    | with_reducible apply Kept.refl
    | with_reducible apply Kept.ite
    | with_reducible apply Kept.by' (raise_k _ _ _)
    | with_reducible apply Kept.by' (fnSet_k _ _ _ _)
    | dsimp only
    | apply rfl
    | (with_reducible refine Kept.by' (by with_reducible assumption) ?_ ?_)
    | split
theorem execTableErase_k (a0) (a1) (a2) (a3) (s : State) {t : State} (h : execTableErase a0 a1 a2 a3 s = .next t) : Kept [.regs, .acc, .ev, .stairs, .lpm, .land, .out] s t := by
  unfold execTableErase at h
  injection h with h
  subst h
  try dsimp -proj only
  repeat' first
    | with_reducible assumption
    | with_reducible apply Kept.refl
    | with_reducible apply Kept.ite
    | with_reducible apply Kept.by' (tblCmdRow_k _ _ _ _ _ _ _)
    | dsimp only
    | apply rfl
    | (with_reducible refine Kept.by' (by with_reducible assumption) ?_ ?_)
    | split
theorem execTableInsert_k (a0) (a1) (a2) (a3) (s : State) {t : State} (h : execTableInsert a0 a1 a2 a3 s = .next t) : Kept [.regs, .acc, .ev, .stairs, .lpm, .land, .out] s t := by
  unfold execTableInsert at h
  injection h with h
  subst h
  try dsimp -proj only
  repeat' first
    | with_reducible assumption
    | with_reducible apply Kept.refl
    | with_reducible apply Kept.ite
    | with_reducible apply Kept.by' (tblCmdRow_k _ _ _ _ _ _ _)
    | dsimp only
    | apply rfl
    | (with_reducible refine Kept.by' (by with_reducible assumption) ?_ ?_)
    | split
theorem execKeyGenerate_k (a0) (a1) (s : State) {t : State} (h : execKeyGenerate a0 a1 s = .next t) : Kept [.regs, .mem, .host, .ch, .slices, .cy, .out, .draws] s t := by
  unfold execKeyGenerate at h
  injection h with h
  subst h
  try dsimp -proj only
  repeat' first
    | with_reducible assumption
    | with_reducible apply Kept.refl
    | with_reducible apply Kept.ite
    | with_reducible apply Kept.ite1
    | with_reducible apply Kept.ite2
    | with_reducible apply runAdmin_k
    | with_reducible apply Kept.by' (failed_k _ _)
    | with_reducible apply Kept.by' (Kept.eq1 (failed_k _ _) (by assumption))
    | with_reducible apply Kept.by' (draw_k _)
    | with_reducible apply Kept.by' (Kept.eq2 (draw_k _) (by assumption))
    | with_reducible apply Kept.by' (keyDone_k _ _ _ _ _ _)
    | with_reducible apply Kept.by' (Kept.eq1 (keyDone_k _ _ _ _ _ _) (by assumption))
    | with_reducible apply Kept.by' (putKey_k _ _ _)
    | (intro _; intros)
    | dsimp only
    | apply rfl
    | (with_reducible refine Kept.by' (by with_reducible assumption) ?_ ?_)
    | split
theorem execDebugClose_k (a0) (a1) (a2) (s : State) {t : State} (h : execDebugClose a0 a1 a2 s = .next t) : Kept [.regs, .acc, .ev, .oz, .out] s t := by
  unfold execDebugClose at h
  injection h with h
  subst h
  try dsimp -proj only
  repeat' first
    | with_reducible assumption
    | with_reducible apply Kept.refl
    | with_reducible apply Kept.ite
    | with_reducible apply mbRow_k
    | (intro _; intros)
    | with_reducible apply Kept.by' (mbDebugClose_k (by assumption))
    | with_reducible apply Kept.by' (mbRow_k _ _ _ _ _ _ _)
    | dsimp only
    | apply rfl
    | (with_reducible refine Kept.by' (by with_reducible assumption) ?_ ?_)
    | split
theorem execBreakpointHit_k (a0) (a1) (a2) (s : State) {t : State} (h : execBreakpointHit a0 a1 a2 s = .next t) : Kept [.regs, .tils] s t := by
  unfold execBreakpointHit at h
  injection h with h
  subst h
  try dsimp -proj only
  repeat' first
    | with_reducible assumption
    | with_reducible apply Kept.refl
    | with_reducible apply Kept.ite
    | with_reducible apply Kept.ite2
    | with_reducible apply Kept.by' (wrF_k _ _ _ _ _)
    | with_reducible apply Kept.by' (thSetState_k _ _ _ _)
    | with_reducible apply Kept.by' (wr64_k _ _ _)
    | with_reducible apply Kept.by' (thUpd_k _ _ _ _)
    | dsimp only
    | apply rfl
    | (with_reducible refine Kept.by' (by with_reducible assumption) ?_ ?_)
    | split
theorem execPeerWindowRequest_k (a0) (a1) (a2) (a3) (a4) (a5) (s : State) {t : State} (h : execPeerWindowRequest a0 a1 a2 a3 a4 a5 s = .next t) : Kept [.regs, .ev, .mem, .host, .slices, .out] s t := by
  unfold execPeerWindowRequest at h
  injection h with h
  subst h
  try dsimp -proj only
  repeat' first
    | with_reducible assumption
    | with_reducible apply Kept.refl
    | with_reducible apply Kept.ite
    | with_reducible apply Kept.by' (urIn_k _ _)
    | with_reducible apply Kept.by' (emit_k _ _)
    | with_reducible apply Kept.by' (winUr_k _ _ _ _ _)
    | with_reducible apply Kept.by' (winGo_k _ _ _ _ _ _ _ _)
    | dsimp only
    | apply rfl
    | (with_reducible refine Kept.by' (by with_reducible assumption) ?_ ?_)
    | split
theorem execDcfgRead_k (a0) (a1) (a2) (a3) (s : State) {t : State} (h : execDcfgRead a0 a1 a2 a3 s = .next t) : Kept [.regs, .acc, .ev, .host, .out] s t := by
  unfold execDcfgRead at h
  injection h with h
  subst h
  try dsimp -proj only
  repeat' first
    | with_reducible assumption
    | with_reducible apply Kept.refl
    | with_reducible apply Kept.ite
    | with_reducible apply gate_k
    | with_reducible apply Kept.by' (dcfgWrite_k _ _ _ _)
    | (intro _; intros)
    | dsimp only
    | apply rfl
    | (with_reducible refine Kept.by' (by with_reducible assumption) ?_ ?_)
    | split
theorem execFunctionLevelReset_k (a0) (a1) (s : State) {t : State} (h : execFunctionLevelReset a0 a1 s = .next t) : Kept [.regs, .time, .ev, .mem, .host, .ch, .slices, .out] s t := by
  unfold execFunctionLevelReset at h
  injection h with h
  subst h
  try dsimp -proj only
  repeat' first
    | with_reducible assumption
    | with_reducible apply Kept.refl
    | with_reducible apply Kept.ite
    | with_reducible apply Kept.by' (fnFlr_k _ _ _)
    | dsimp only
    | apply rfl
    | (with_reducible refine Kept.by' (by with_reducible assumption) ?_ ?_)
    | split
theorem execEgressRetire_k (a0) (a1) (a2) (s : State) {t : State} (h : execEgressRetire a0 a1 a2 s = .next t) : Kept [.regs, .ev, .mem, .host, .ch, .slices, .net, .stairs, .sheaf, .land, .tils, .tm, .cy, .rm, .out, .draws] s t := by
  unfold execEgressRetire at h
  injection h with h
  subst h
  try dsimp -proj only
  repeat' first
    | with_reducible assumption
    | with_reducible apply Kept.refl
    | with_reducible apply Kept.ite
    | with_reducible apply Kept.by' (twinRetire_k _ _)
    | with_reducible apply Kept.by' (egressRetire_k _ _ _ _ _ _)
    | with_reducible apply Kept.by' (fencedRetire_k _ _ _)
    | dsimp only
    | apply rfl
    | (with_reducible refine Kept.by' (by with_reducible assumption) ?_ ?_)
    | split
theorem execFwVerify_k (a0) (a1) (a2) (s : State) {t : State} (h : execFwVerify a0 a1 a2 s = .next t) : Kept [.regs, .acc, .ev, .oz, .out] s t := by
  unfold execFwVerify at h
  injection h with h
  subst h
  try dsimp -proj only
  repeat' first
    | with_reducible assumption
    | with_reducible apply Kept.refl
    | with_reducible apply Kept.ite
    | with_reducible apply mbRow_k
    | (intro _; intros)
    | with_reducible apply Kept.by' (mbFwVerify_k (by assumption))
    | with_reducible apply Kept.by' (mbRow_k _ _ _ _ _ _ _)
    | dsimp only
    | apply rfl
    | (with_reducible refine Kept.by' (by with_reducible assumption) ?_ ?_)
    | split
theorem execIndCmdRead_k (a0) (a1) (a2) (a3) (s : State) {t : State} (h : execIndCmdRead a0 a1 a2 a3 s = .next t) : Kept [.regs, .acc, .ev, .out] s t := by
  rw [← Host.Outcome.next.inj h]
  apply inOrder_sub rfl
  simp only [busRow]
  split
  · exact gate_k Kept.refl (fun u hu => Kept.by' (indCmd_k _ _ _ _) hu rfl) rfl
  · exact Kept.refl
theorem execFwWrite_k (a0) (a1) (a2) (a3) (s : State) {t : State} (h : execFwWrite a0 a1 a2 a3 s = .next t) : Kept [.regs, .acc, .ev, .mem, .host, .oz, .out, .draws] s t := by
  unfold execFwWrite at h
  injection h with h
  subst h
  try dsimp -proj only
  repeat' first
    | with_reducible assumption
    | with_reducible apply Kept.refl
    | with_reducible apply Kept.ite
    | with_reducible apply mbRow_k
    | (intro _; intros)
    | with_reducible apply Kept.by' (mbFwWrite_k (by assumption))
    | with_reducible apply Kept.by' (mbRow_k _ _ _ _ _ _ _)
    | dsimp only
    | apply rfl
    | (with_reducible refine Kept.by' (by with_reducible assumption) ?_ ?_)
    | split
theorem execParseRead_k (a0) (a1) (a2) (a3) (s : State) {t : State} (h : execParseRead a0 a1 a2 a3 s = .next t) : Kept [.regs, .acc, .ev, .stairs, .golden, .out] s t := by
  unfold execParseRead at h
  injection h with h
  subst h
  try dsimp -proj only
  repeat' first
    | with_reducible assumption
    | with_reducible apply Kept.refl
    | with_reducible apply Kept.ite
    | with_reducible apply gate_k
    | with_reducible apply Kept.by' (parseCmdWrite_k _ _ _)
    | (intro _; intros)
    | dsimp only
    | apply rfl
    | (with_reducible refine Kept.by' (by with_reducible assumption) ?_ ?_)
    | split
theorem execRclkSquelch_k (a0) (s : State) {t : State} (h : execRclkSquelch a0 s = .next t) : Kept [.regs, .ev, .out] s t := by
  unfold execRclkSquelch at h
  injection h with h
  subst h
  try dsimp -proj only
  repeat' first
    | with_reducible assumption
    | with_reducible apply Kept.refl
    | with_reducible apply Kept.ite
    | with_reducible apply Kept.by' (drive_k _ _ _ _)
    | with_reducible apply Kept.by' (wrF_k _ _ _ _ _)
    | with_reducible apply Kept.by' (raise_k _ _ _)
    | dsimp only
    | apply rfl
    | (with_reducible refine Kept.by' (by with_reducible assumption) ?_ ?_)
    | split
theorem execChPut_k (a0) (a1) (a2) (a3) (a4) (s : State) {t : State} (h : execChPut a0 a1 a2 a3 a4 s = .next t) : Kept [.regs, .ev, .mem, .tils, .out] s t := by
  unfold execChPut at h
  injection h with h
  subst h
  try dsimp -proj only
  repeat' first
    | with_reducible assumption
    | with_reducible apply Kept.refl
    | with_reducible apply Kept.ite
    | with_reducible apply Kept.by' (fencedSend_k _ _)
    | with_reducible apply Kept.by' (thTrap_k _ _ _ _)
    | with_reducible apply Kept.by' (chRun_k _ _ _ _ _)
    | dsimp only
    | apply rfl
    | (with_reducible refine Kept.by' (by with_reducible assumption) ?_ ?_)
    | split
theorem execTakeoverComplete_k (a0) (a1) (a2) (s : State) {t : State} (h : execTakeoverComplete a0 a1 a2 s = .next t) : Kept [.regs, .ev, .mem, .ch, .net, .stairs, .land, .unit, .tils, .cy, .out, .draws] s t := by
  unfold execTakeoverComplete at h
  injection h with h
  subst h
  try dsimp -proj only
  repeat' first
    | with_reducible assumption
    | with_reducible apply Kept.refl
    | with_reducible apply Kept.ite
    | with_reducible apply Kept.ite1
    | with_reducible apply Kept.ite2
    | with_reducible apply Kept.by' (wrF_k _ _ _ _ _)
    | with_reducible apply Kept.by' (raise_k _ _ _)
    | with_reducible apply Kept.by' (laRedo_k _ _ _)
    | with_reducible apply Kept.by' (Kept.eq1 (laRedo_k _ _ _) (by assumption))
    | with_reducible apply Kept.by' (takeStair_k _ _ _ _)
    | with_reducible apply Kept.by' (takeTiller_k _ _ _ _ _)
    | with_reducible apply Kept.by' (takeEnd_k _ _ _ _ _)
    | dsimp only
    | apply rfl
    | (with_reducible refine Kept.by' (by with_reducible assumption) ?_ ?_)
    | split
theorem execMctpMessage_k (a0) (a1) (s : State) {t : State} (h : execMctpMessage a0 a1 s = .next t) : Kept [.regs, .ev, .mem, .unit, .oz, .cy, .out, .draws] s t := by
  unfold execMctpMessage at h
  injection h with h
  subst h
  try dsimp -proj only
  repeat' first
    | with_reducible assumption
    | with_reducible apply Kept.refl
    | with_reducible apply Kept.ite
    | with_reducible apply Kept.by' (mgmtMsg_k _ _ _)
    | dsimp only
    | apply rfl
    | (with_reducible refine Kept.by' (by with_reducible assumption) ?_ ?_)
    | split
theorem execFreezeTimeout_k (a0) (s : State) {t : State} (h : execFreezeTimeout a0 s = .next t) : Kept [.regs, .mem, .host, .ch, .slices, .rm, .sv, .out] s t := by
  unfold execFreezeTimeout at h
  injection h with h
  subst h
  try dsimp -proj only
  repeat' first
    | with_reducible assumption
    | with_reducible apply Kept.refl
    | with_reducible apply Kept.ite
    | with_reducible apply Kept.by' (qpTimersRestart_k _ _)
    | with_reducible apply Kept.by' (slUpd_k _ _ _)
    | with_reducible apply Kept.by' (svResume_k _)
    | with_reducible apply Kept.by' (adminWake_k _ _ _ _)
    | dsimp only
    | apply rfl
    | (with_reducible refine Kept.by' (by with_reducible assumption) ?_ ?_)
    | split
theorem execSheafCommit_k (a0) (a1) (a2) (s : State) {t : State} (h : execSheafCommit a0 a1 a2 s = .next t) : Kept [.regs, .acc, .ev, .stairs, .lpm, .sheaf, .out] s t := by
  unfold execSheafCommit at h
  injection h with h
  subst h
  try dsimp -proj only
  repeat' first
    | with_reducible assumption
    | with_reducible apply Kept.refl
    | with_reducible apply Kept.ite
    | with_reducible apply Kept.by' (sheafCmdRow_k _ _ _ _ _)
    | dsimp only
    | apply rfl
    | (with_reducible refine Kept.by' (by with_reducible assumption) ?_ ?_)
    | split
theorem execLogStop_k (a0) (a1) (s : State) {t : State} (h : execLogStop a0 a1 s = .next t) : Kept [.mem, .host, .ch, .slices, .out] s t := by
  unfold execLogStop at h
  injection h with h
  subst h
  try dsimp -proj only
  repeat' first
    | with_reducible assumption
    | with_reducible apply Kept.refl
    | with_reducible apply Kept.ite
    | with_reducible apply Kept.ite1
    | with_reducible apply ownerCmd_k
    | with_reducible apply Kept.by' (failed_k _ _)
    | with_reducible apply Kept.by' (Kept.eq1 (failed_k _ _) (by assumption))
    | with_reducible apply Kept.by' (slUpd_k _ _ _)
    | (intro _; intros)
    | dsimp only
    | apply rfl
    | (with_reducible refine Kept.by' (by with_reducible assumption) ?_ ?_)
    | split
theorem execGrmtPacketGenerate_k (a0) (a1) (a2) (s : State) {t : State} (h : execGrmtPacketGenerate a0 a1 a2 s = .next t) : Kept [.regs, .ev, .mem, .host, .ch, .slices, .land, .rm, .out, .draws] s t := by
  unfold execGrmtPacketGenerate at h
  injection h with h
  subst h
  try dsimp -proj only
  repeat' first
    | with_reducible assumption
    | with_reducible apply Kept.refl
    | with_reducible apply Kept.ite
    | with_reducible apply Kept.ite2
    | with_reducible apply Kept.by' (bump_k _ _ _)
    | with_reducible apply Kept.by' (qpUpd_k _ _ _)
    | with_reducible apply Kept.by' (grmtEnter_k _ _ _ _ _ _ _ _ _ _)
    | with_reducible apply Kept.by' (genAgain_k _ _ _ _ _)
    | with_reducible apply Kept.by' (genResp_k _ _ _ _ _)
    | with_reducible apply Kept.by' (genWork_k _ _ _ _ _)
    | (intro _; intros)
    | dsimp only
    | apply rfl
    | (with_reducible refine Kept.by' (by with_reducible assumption) ?_ ?_)
    | split
theorem execSqTailDoorbell_k (a0) (a1) (a2) (a3) (s : State) {t : State} (h : execSqTailDoorbell a0 a1 a2 a3 s = .next t) : Kept [.regs, .mem, .host, .ch, .slices, .sv, .out, .draws] s t := by
  unfold execSqTailDoorbell at h
  injection h with h
  subst h
  try dsimp -proj only
  repeat' first
    | with_reducible assumption
    | with_reducible apply Kept.refl
    | with_reducible apply Kept.ite
    | with_reducible apply Kept.by' (sqDoorbell_k _ _ _ _ _)
    | dsimp only
    | apply rfl
    | (with_reducible refine Kept.by' (by with_reducible assumption) ?_ ?_)
    | split
theorem execSelfTestResume_k (a0) (s : State) {t : State} (h : execSelfTestResume a0 s = .next t) : Kept [.sv] s t := by
  unfold execSelfTestResume at h
  injection h with h
  subst h
  try dsimp -proj only
  repeat' first
    | with_reducible assumption
    | with_reducible apply Kept.refl
    | with_reducible apply Kept.ite
    | with_reducible apply Kept.ite2
    | with_reducible apply Kept.by' (ctrlUpd_k _ _ _)
    | dsimp only
    | apply rfl
    | (with_reducible refine Kept.by' (by with_reducible assumption) ?_ ?_)
    | split
theorem execNop_k (a0) (a1) (s : State) {t : State} (h : execNop a0 a1 s = .next t) : Kept [.mem, .host, .ch, .slices, .out] s t := by
  unfold execNop at h
  injection h with h
  subst h
  try dsimp -proj only
  repeat' first
    | with_reducible assumption
    | with_reducible apply Kept.refl
    | with_reducible apply Kept.ite
    | with_reducible apply runAdmin_k
    | (intro _; intros)
    | dsimp only
    | apply rfl
    | (with_reducible refine Kept.by' (by with_reducible assumption) ?_ ?_)
    | split
theorem execSupplyReset_k (a0) (s : State) {t : State} (h : execSupplyReset a0 s = .next t) : Kept [.regs, .snap, .time, .acc, .ev, .mem, .host, .ch, .slices, .net, .stairs, .golden, .lpm, .sheaf, .land, .unit, .tils, .tm, .oz, .cy, .rm, .sv, .out] s t := by
  unfold execSupplyReset at h
  injection h with h
  subst h
  try dsimp -proj only
  repeat' first
    | with_reducible assumption
    | with_reducible apply Kept.refl
    | with_reducible apply Kept.ite
    | with_reducible apply Kept.by' (ozUpd_k _ _ ?_)
    | with_reducible apply Kept.by' (coldReset_k _ _)
    | (intro _; intros)
    | dsimp only
    | exact OzLe.same rfl rfl rfl
    | apply rfl
    | (with_reducible refine Kept.by' (by with_reducible assumption) ?_ ?_)
    | split
theorem execTableWrite_k (a0) (a1) (a2) (a3) (s : State) {t : State} (h : execTableWrite a0 a1 a2 a3 s = .next t) : Kept [.regs, .acc, .ev, .stairs, .lpm, .land, .out] s t := by
  unfold execTableWrite at h
  injection h with h
  subst h
  try dsimp -proj only
  repeat' first
    | with_reducible assumption
    | with_reducible apply Kept.refl
    | with_reducible apply Kept.ite
    | with_reducible apply Kept.by' (tblCmdRow_k _ _ _ _ _ _ _)
    | dsimp only
    | apply rfl
    | (with_reducible refine Kept.by' (by with_reducible assumption) ?_ ?_)
    | split
theorem execDbgWrMem_k (a0) (a1) (a2) (a3) (a4) (s : State) {t : State} (h : execDbgWrMem a0 a1 a2 a3 a4 s = .next t) : Kept [.regs, .acc, .ev, .mem, .tils, .out, .draws] s t := by
  unfold execDbgWrMem at h
  injection h with h
  subst h
  try dsimp -proj only
  repeat' first
    | with_reducible assumption
    | with_reducible apply Kept.refl
    | with_reducible apply Kept.ite
    | with_reducible apply Kept.by' (dbgRow_k _ _ _ _ _ _ _ _)
    | dsimp only
    | apply rfl
    | (with_reducible refine Kept.by' (by with_reducible assumption) ?_ ?_)
    | split
theorem execSheafDrain_k (s : State) {t : State} (h : execSheafDrain s = .next t) : Kept [.regs, .ev, .sheaf] s t := by
  unfold execSheafDrain at h
  injection h with h
  subst h
  try dsimp -proj only
  repeat' first
    | with_reducible assumption
    | with_reducible apply Kept.refl
    | with_reducible apply Kept.ite
    | with_reducible apply Kept.by' (wrF_k _ _ _ _ _)
    | with_reducible apply Kept.by' (raise_k _ _ _)
    | with_reducible apply Kept.by' (sheafUpd_k _ _)
    | with_reducible apply Kept.by' (wrN_k _ _ _)
    | with_reducible apply Kept.foldl
    | with_reducible apply Kept.foldl1
    | (intro _; intros)
    | dsimp only
    | apply rfl
    | (with_reducible refine Kept.by' (by with_reducible assumption) ?_ ?_)
    | split
theorem execOzKeyErase_k (a0) (a1) (a2) (s : State) {t : State} (h : execOzKeyErase a0 a1 a2 s = .next t) : Kept [.regs, .acc, .ev, .mem, .host, .ch, .slices, .oz, .cy, .rm, .sv, .out, .draws] s t := by
  unfold execOzKeyErase at h
  injection h with h
  subst h
  try dsimp -proj only
  repeat' first
    | with_reducible assumption
    | with_reducible apply Kept.refl
    | with_reducible apply Kept.ite
    | with_reducible apply mbRow_k
    | (intro _; intros)
    | with_reducible apply Kept.by' (mbKeyErase_k (by assumption))
    | with_reducible apply Kept.by' (mbRow_k _ _ _ _ _ _ _)
    | dsimp only
    | apply rfl
    | (with_reducible refine Kept.by' (by with_reducible assumption) ?_ ?_)
    | split
theorem execThResume_k (a0) (a1) (a2) (a3) (a4) (s : State) {t : State} (h : execThResume a0 a1 a2 a3 a4 s = .next t) : Kept [.regs, .acc, .ev, .mem, .tils, .out, .draws] s t := by
  unfold execThResume at h
  injection h with h
  subst h
  try dsimp -proj only
  repeat' first
    | with_reducible assumption
    | with_reducible apply Kept.refl
    | with_reducible apply Kept.ite
    | with_reducible apply Kept.by' (thCtlRow_k _ _ _ _ _ _ _)
    | dsimp only
    | apply rfl
    | (with_reducible refine Kept.by' (by with_reducible assumption) ?_ ?_)
    | split
theorem execQueryStatus_k (a0) (a1) (s : State) {t : State} (h : execQueryStatus a0 a1 s = .next t) : Kept [.mem, .host, .ch, .slices, .out] s t := by
  unfold execQueryStatus at h
  injection h with h
  subst h
  try dsimp -proj only
  repeat' first
    | with_reducible assumption
    | with_reducible apply Kept.refl
    | with_reducible apply Kept.ite
    | with_reducible apply runAdmin_k
    | (intro _; intros)
    | dsimp only
    | apply rfl
    | (with_reducible refine Kept.by' (by with_reducible assumption) ?_ ?_)
    | split
theorem execDeleteIoSubmissionQueue_k (a0) (a1) (s : State) {t : State} (h : execDeleteIoSubmissionQueue a0 a1 s = .next t) : Kept [.regs, .ev, .mem, .host, .ch, .slices, .sv, .out, .draws] s t := by
  unfold execDeleteIoSubmissionQueue at h
  injection h with h
  subst h
  try dsimp -proj only
  repeat' first
    | with_reducible assumption
    | with_reducible apply Kept.refl
    | with_reducible apply Kept.ite
    | with_reducible apply Kept.ite1
    | with_reducible apply Kept.ite2
    | with_reducible apply nvmeAdmin_k
    | with_reducible apply Kept.by' (finish_k _ _ _ _ _ _)
    | with_reducible apply Kept.by' (ctrlUpd_k _ _ _)
    | (intro _; intros)
    | with_reducible apply Kept.foldl
    | with_reducible apply Kept.foldl1
    | (intro _; intros)
    | dsimp only
    | apply rfl
    | (with_reducible refine Kept.by' (by with_reducible assumption) ?_ ?_)
    | split
theorem execDispatch_k (a0) (s : State) {t : State} (h : execDispatch a0 s = .next t) : Kept [.regs, .time, .ev, .ch, .net, .stairs, .sheaf, .land, .rm, .out] s t := by
  unfold execDispatch at h
  injection h with h
  subst h
  try dsimp -proj only
  repeat' first
    | with_reducible assumption
    | with_reducible apply Kept.refl
    | with_reducible apply Kept.ite
    | with_reducible apply Kept.by' (dispatchFrom_k _ _ _)
    | (intro _; intros)
    | dsimp only
    | apply rfl
    | (with_reducible refine Kept.by' (by with_reducible assumption) ?_ ?_)
    | split
theorem execPortApply_k (a0) (a1) (a2) (a3) (s : State) {t : State} (h : execPortApply a0 a1 a2 a3 s = .next t) : Kept [.regs, .acc, .ev, .ch, .tils, .out, .draws] s t := by
  unfold execPortApply at h
  injection h with h
  subst h
  try dsimp -proj only
  repeat' first
    | with_reducible assumption
    | with_reducible apply Kept.refl
    | with_reducible apply Kept.ite
    | with_reducible apply gate_k
    | with_reducible apply Kept.by' (portCmdWrite_k _ _ _)
    | (intro _; intros)
    | dsimp only
    | apply rfl
    | (with_reducible refine Kept.by' (by with_reducible assumption) ?_ ?_)
    | split
theorem execOzelmFault_k (a0) (s : State) {t : State} (h : execOzelmFault a0 s = .next t) : Kept [.regs, .ev, .mem, .oz] s t := by
  unfold execOzelmFault at h
  injection h with h
  subst h
  try dsimp -proj only
  repeat' first
    | with_reducible assumption
    | with_reducible apply Kept.refl
    | with_reducible apply Kept.ite
    | with_reducible apply Kept.by' (ozRestart_k _ _ _)
    | with_reducible apply Kept.by' (showImage_k _)
    | with_reducible apply Kept.by' (bootWrite_k _ _ _ _)
    | dsimp only
    | apply rfl
    | (with_reducible refine Kept.by' (by with_reducible assumption) ?_ ?_)
    | split
theorem execNodeSelWrite_k (a0) (a1) (a2) (s : State) {t : State} (h : execNodeSelWrite a0 a1 a2 s = .next t) : Kept [.regs, .acc, .ev, .out, .draws] s t := by
  unfold execNodeSelWrite at h
  injection h with h
  subst h
  try dsimp -proj only
  repeat' first
    | with_reducible assumption
    | with_reducible apply Kept.refl
    | with_reducible apply Kept.ite
    | with_reducible apply gate_k
    | with_reducible apply Kept.by' (nodeSelWrite_k _ _)
    | (intro _; intros)
    | dsimp only
    | apply rfl
    | (with_reducible refine Kept.by' (by with_reducible assumption) ?_ ?_)
    | split
theorem execSheafCommitEffect_k (s : State) {t : State} (h : execSheafCommitEffect s = .next t) : Kept [.regs, .ev, .stairs, .sheaf] s t := by
  unfold execSheafCommitEffect at h
  injection h with h
  subst h
  try dsimp -proj only
  repeat' first
    | with_reducible assumption
    | with_reducible apply Kept.refl
    | with_reducible apply Kept.ite
    | with_reducible apply Kept.by' (commitNow_k _ _)
    | with_reducible apply Kept.by' (lateFiring_k _)
    | dsimp only
    | apply rfl
    | (with_reducible refine Kept.by' (by with_reducible assumption) ?_ ?_)
    | split
theorem execLogFlush_k (a0) (a1) (a2) (s : State) {t : State} (h : execLogFlush a0 a1 a2 s = .next t) : Kept [.mem, .host, .ch, .slices, .out] s t := by
  unfold execLogFlush at h
  injection h with h
  subst h
  try dsimp -proj only
  repeat' first
    | with_reducible assumption
    | with_reducible apply Kept.refl
    | with_reducible apply Kept.ite
    | with_reducible apply Kept.ite1
    | with_reducible apply Kept.ite2
    | with_reducible apply ownerCmd_k
    | with_reducible apply Kept.by' (failed_k _ _)
    | with_reducible apply Kept.by' (Kept.eq1 (failed_k _ _) (by assumption))
    | with_reducible apply Kept.by' (slUpd_k _ _ _)
    | with_reducible apply Kept.by' (slWrite_k _ _ _ _ _)
    | (intro _; intros)
    | with_reducible apply Kept.foldl
    | with_reducible apply Kept.foldl1
    | (intro _; intros)
    | dsimp only
    | apply rfl
    | (with_reducible refine Kept.by' (by with_reducible assumption) ?_ ?_)
    | split
theorem execMsixTableWrite_k (a0) (a1) (a2) (a3) (a4) (a5) (s : State) {t : State} (h : execMsixTableWrite a0 a1 a2 a3 a4 a5 s = .next t) : Kept [.regs, .host, .out] s t := by
  unfold execMsixTableWrite at h
  injection h with h
  subst h
  try dsimp -proj only
  repeat' first
    | with_reducible assumption
    | with_reducible apply Kept.refl
    | with_reducible apply Kept.ite
    | with_reducible apply Kept.by' (msixWrite_k _ _ _ _ _ _ _)
    | dsimp only
    | apply rfl
    | (with_reducible refine Kept.by' (by with_reducible assumption) ?_ ?_)
    | split
theorem execCreateChannel_k (a0) (a1) (s : State) {t : State} (h : execCreateChannel a0 a1 s = .next t) : Kept [.mem, .host, .ch, .slices, .rm, .out, .draws] s t := by
  unfold execCreateChannel at h
  injection h with h
  subst h
  try dsimp -proj only
  repeat' first
    | with_reducible assumption
    | with_reducible apply Kept.refl
    | with_reducible apply Kept.ite
    | with_reducible apply Kept.ite1
    | with_reducible apply Kept.ite2
    | with_reducible apply runAdmin_k
    | with_reducible apply Kept.by' (failed_k _ _)
    | with_reducible apply Kept.by' (Kept.eq1 (failed_k _ _) (by assumption))
    | with_reducible apply Kept.by' (allocIndex_k _ _ _ _)
    | with_reducible apply Kept.by' (Kept.eq2 (allocIndex_k _ _ _ _) (by assumption))
    | with_reducible apply Kept.by' (chanCreate_k _ _ _)
    | with_reducible apply Kept.by' (Kept.eq1 (chanCreate_k _ _ _) (by assumption))
    | (intro _; intros)
    | dsimp only
    | apply rfl
    | (with_reducible refine Kept.by' (by with_reducible assumption) ?_ ?_)
    | split
theorem execIndTimeout_k (a0) (s : State) {t : State} (h : execIndTimeout a0 s = .next t) : Kept [.regs, .acc, .out] s t := by
  unfold execIndTimeout at h
  injection h with h
  subst h
  try dsimp -proj only
  repeat' first
    | with_reducible assumption
    | with_reducible apply Kept.refl
    | with_reducible apply Kept.ite
    | with_reducible apply Kept.by' (indSettle_k _ _)
    | with_reducible apply Kept.by' (indNext_k _ _)
    | with_reducible apply Kept.by' (wrF_k _ _ _ _ _)
    | dsimp only
    | apply rfl
    | (with_reducible refine Kept.by' (by with_reducible assumption) ?_ ?_)
    | split
theorem execLogRead_k (a0) (a1) (a2) (a3) (s : State) {t : State} (h : execLogRead a0 a1 a2 a3 s = .next t) : Kept [.regs, .acc, .ev, .mem, .slices, .oz, .out] s t := by
  unfold execLogRead at h
  injection h with h
  subst h
  try dsimp -proj only
  repeat' first
    | with_reducible assumption
    | with_reducible apply Kept.refl
    | with_reducible apply Kept.ite
    | with_reducible apply mbRow_k
    | (intro _; intros)
    | with_reducible apply Kept.by' (mbLogRead_k (by assumption))
    | with_reducible apply Kept.by' (mbRow_k _ _ _ _ _ _ _)
    | dsimp only
    | apply rfl
    | (with_reducible refine Kept.by' (by with_reducible assumption) ?_ ?_)
    | split
theorem execIndDataWrite_k (a0) (a1) (a2) (a3) (s : State) {t : State} (h : execIndDataWrite a0 a1 a2 a3 s = .next t) : Kept [.regs, .acc, .ev, .out] s t := by
  rw [← Host.Outcome.next.inj h]
  apply inOrder_sub rfl
  simp only [busRow]
  split
  · exact gate_k Kept.refl (fun u hu => Kept.by' (indDataPut_k _ _ _ _) hu rfl) rfl
  · exact Kept.refl
theorem execStandstill_k (a0) (a1) (s : State) {t : State} (h : execStandstill a0 a1 s = .next t) : Kept [.regs, .ev, .mem, .tils] s t := by
  unfold execStandstill at h
  injection h with h
  subst h
  try dsimp -proj only
  repeat' first
    | with_reducible assumption
    | with_reducible apply Kept.refl
    | with_reducible apply Kept.ite
    | with_reducible apply Kept.by' (tilUpd_k _ _ _)
    | with_reducible apply Kept.by' (faultRecord_k _ _ _)
    | with_reducible apply Kept.by' (raise_k _ _ _)
    | with_reducible apply Kept.by' (bump_k _ _ _)
    | with_reducible apply Kept.foldl
    | with_reducible apply Kept.foldl1
    | (intro _; intros)
    | dsimp only
    | apply rfl
    | (with_reducible refine Kept.by' (by with_reducible assumption) ?_ ?_)
    | split
theorem execFwBegin_k (a0) (a1) (a2) (s : State) {t : State} (h : execFwBegin a0 a1 a2 s = .next t) : Kept [.regs, .acc, .ev, .mem, .oz, .out] s t := by
  unfold execFwBegin at h
  injection h with h
  subst h
  try dsimp -proj only
  repeat' first
    | with_reducible assumption
    | with_reducible apply Kept.refl
    | with_reducible apply Kept.ite
    | with_reducible apply mbRow_k
    | (intro _; intros)
    | with_reducible apply Kept.by' (mbFwBegin_k (by assumption))
    | with_reducible apply Kept.by' (mbRow_k _ _ _ _ _ _ _)
    | dsimp only
    | apply rfl
    | (with_reducible refine Kept.by' (by with_reducible assumption) ?_ ?_)
    | split
theorem execNsNotReady_k (a0) (s : State) {t : State} (h : execNsNotReady a0 s = .next t) : Kept [.regs, .ev, .mem, .host, .ch, .slices, .sv, .out, .draws] s t := by
  unfold execNsNotReady at h
  injection h with h
  subst h
  try dsimp -proj only
  repeat' first
    | with_reducible assumption
    | with_reducible apply Kept.refl
    | with_reducible apply Kept.ite
    | with_reducible apply Kept.by' (nsNotReady_k _ _)
    | dsimp only
    | apply rfl
    | (with_reducible refine Kept.by' (by with_reducible assumption) ?_ ?_)
    | split
theorem execCcEnable_k (a0) (a1) (a2) (s : State) {t : State} (h : execCcEnable a0 a1 a2 s = .next t) : Kept [.regs, .ev, .mem, .host, .ch, .slices, .sv, .out, .draws] s t := by
  unfold execCcEnable at h
  injection h with h
  subst h
  try dsimp -proj only
  repeat' first
    | with_reducible assumption
    | with_reducible apply Kept.refl
    | with_reducible apply Kept.ite
    | with_reducible apply Kept.by' (ccWrite_k _ _ _)
    | dsimp only
    | apply rfl
    | (with_reducible refine Kept.by' (by with_reducible assumption) ?_ ?_)
    | split
theorem execSupplyResetEnd_k (a0) (s : State) {t : State} (h : execSupplyResetEnd a0 s = .next t) : Kept [.regs, .ev, .host, .slices, .oz] s t := by
  unfold execSupplyResetEnd at h
  injection h with h
  subst h
  try dsimp -proj only
  repeat' first
    | with_reducible assumption
    | with_reducible apply Kept.refl
    | with_reducible apply Kept.ite
    | with_reducible apply Kept.by' (ozUpd_k _ _ ?_)
    | with_reducible apply Kept.by' (coldStart_k _ _)
    | (intro _; intros)
    | dsimp only
    | exact OzLe.same rfl rfl rfl
    | apply rfl
    | (with_reducible refine Kept.by' (by with_reducible assumption) ?_ ?_)
    | split
theorem execBusMasterEnable_k (a0) (a1) (s : State) {t : State} (h : execBusMasterEnable a0 a1 s = .next t) : Kept [.regs, .ev, .mem, .host, .ch, .slices, .land, .cy, .rm, .sv, .out, .draws] s t := by
  unfold execBusMasterEnable at h
  injection h with h
  subst h
  try dsimp -proj only
  repeat' first
    | with_reducible assumption
    | with_reducible apply Kept.refl
    | with_reducible apply Kept.ite
    | with_reducible apply Kept.by' (fnBmeTo_k _ _ _ _)
    | dsimp only
    | apply rfl
    | (with_reducible refine Kept.by' (by with_reducible assumption) ?_ ?_)
    | split
theorem execUcDataWrite_k (a0) (a1) (a2) (a3) (a4) (a5) (s : State) {t : State} (h : execUcDataWrite a0 a1 a2 a3 a4 a5 s = .next t) : Kept [.regs, .acc, .ev, .stairs, .golden, .out] s t := by
  unfold execUcDataWrite at h
  injection h with h
  subst h
  try dsimp -proj only
  repeat' first
    | with_reducible assumption
    | with_reducible apply Kept.refl
    | with_reducible apply Kept.ite
    | with_reducible apply gate_k
    | with_reducible apply Kept.by' (ucDataWrite_k _ _ _ _ _)
    | (intro _; intros)
    | dsimp only
    | apply rfl
    | (with_reducible refine Kept.by' (by with_reducible assumption) ?_ ?_)
    | split
theorem execDeregComplete_k (a0) (s : State) {t : State} (h : execDeregComplete a0 s = .next t) : Kept [.regs, .ev, .mem, .host, .ch, .slices, .rm, .out, .draws] s t := by
  unfold execDeregComplete at h
  injection h with h
  subst h
  try dsimp -proj only
  repeat' first
    | with_reducible assumption
    | with_reducible apply Kept.refl
    | with_reducible apply Kept.ite
    | with_reducible apply Kept.by' (reclaimCheck_k _)
    | with_reducible apply Kept.by' (adminWake_k _ _ _ _)
    | with_reducible apply Kept.by' (regionGone_k _ _)
    | dsimp only
    | apply rfl
    | (with_reducible refine Kept.by' (by with_reducible assumption) ?_ ?_)
    | split
theorem execTableClear_k (a0) (a1) (a2) (a3) (s : State) {t : State} (h : execTableClear a0 a1 a2 a3 s = .next t) : Kept [.regs, .acc, .ev, .stairs, .lpm, .land, .out] s t := by
  unfold execTableClear at h
  injection h with h
  subst h
  try dsimp -proj only
  repeat' first
    | with_reducible assumption
    | with_reducible apply Kept.refl
    | with_reducible apply Kept.ite
    | with_reducible apply Kept.by' (tblCmdRow_k _ _ _ _ _ _ _)
    | dsimp only
    | apply rfl
    | (with_reducible refine Kept.by' (by with_reducible assumption) ?_ ?_)
    | split
theorem execGetLogPage_k (a0) (a1) (a2) (s : State) {t : State} (h : execGetLogPage a0 a1 a2 s = .next t) : Kept [.regs, .ev, .mem, .host, .ch, .slices, .sv, .out, .draws] s t := by
  unfold execGetLogPage at h
  injection h with h
  subst h
  try dsimp -proj only
  repeat' first
    | with_reducible assumption
    | with_reducible apply Kept.refl
    | with_reducible apply Kept.ite
    | with_reducible apply Kept.by' (finish_k _ _ _ _ _ _)
    | with_reducible apply Kept.by' (prpRead_k _ _ _ _ _ _)
    | with_reducible apply nvmeAdmin_k
    | with_reducible apply Kept.by' (logPage_k (by assumption))
    | (intro _; intros)
    | dsimp only
    | apply rfl
    | (with_reducible refine Kept.by' (by with_reducible assumption) ?_ ?_)
    | split
theorem execHostGrainWaitEnd_k (a0) (a1) (s : State) {t : State} (h : execHostGrainWaitEnd a0 a1 s = .next t) : Kept [.regs, .ev, .ch, .land] s t := by
  unfold execHostGrainWaitEnd at h
  injection h with h
  subst h
  try dsimp -proj only
  repeat' first
    | with_reducible assumption
    | with_reducible apply Kept.refl
    | with_reducible apply Kept.ite
    | with_reducible apply Kept.by' (txEnter_k _ _ _)
    | dsimp only
    | apply rfl
    | (with_reducible refine Kept.by' (by with_reducible assumption) ?_ ?_)
    | split
theorem execInlineVerifyDone_k (a0) (a1) (s : State) {t : State} (h : execInlineVerifyDone a0 a1 s = .next t) : Kept [.regs, .ev, .ch, .net, .land, .cy, .rm, .out] s t := by
  unfold execInlineVerifyDone at h
  injection h with h
  subst h
  try dsimp -proj only
  repeat' first
    | with_reducible assumption
    | with_reducible apply Kept.refl
    | with_reducible apply Kept.ite
    | with_reducible apply Kept.by' (verifyPkt_k _ _ _ _)
    | dsimp only
    | apply rfl
    | (with_reducible refine Kept.by' (by with_reducible assumption) ?_ ?_)
    | split
theorem execPoolRebuildDone_k (a0) (s : State) {t : State} (h : execPoolRebuildDone a0 s = .next t) : Kept [.regs, .ev, .sv] s t := by
  unfold execPoolRebuildDone at h
  injection h with h
  subst h
  try dsimp -proj only
  repeat' first
    | with_reducible assumption
    | with_reducible apply Kept.refl
    | with_reducible apply Kept.ite
    | with_reducible apply Kept.by' (raise_k _ _ _)
    | with_reducible apply Kept.by' (showPools_k _)
    | with_reducible apply Kept.by' (poolUpd_k _ _ _)
    | dsimp only
    | apply rfl
    | (with_reducible refine Kept.by' (by with_reducible assumption) ?_ ?_)
    | split
theorem execLoRegisterRead_k (a0) (a1) (s : State) {t : State} (h : execLoRegisterRead a0 a1 s = .next t) : Kept [.regs, .acc, .host, .net, .out] s t := by
  rw [← Host.Outcome.next.inj h]
  apply inOrder_sub rfl
  simp only [busRow]
  repeat' first
    | exact Kept.refl
    | with_reducible apply Kept.ite
    | with_reducible apply Kept.by' (readRow_k _ _ _)
    | with_reducible apply Kept.by' (indRead_k _ _ _ _)
    | with_reducible apply Kept.by' (notReached_k _ _)
    | apply rfl
    | split
theorem execPoolCreate_k (a0) (a1) (a2) (a3) (s : State) {t : State} (h : execPoolCreate a0 a1 a2 a3 s = .next t) : Kept [.regs, .mem, .host, .ch, .slices, .sv, .out] s t := by
  unfold execPoolCreate at h
  injection h with h
  subst h
  try dsimp -proj only
  repeat' first
    | with_reducible assumption
    | with_reducible apply Kept.refl
    | with_reducible apply Kept.ite
    | with_reducible apply svAdmin_k
    | with_reducible apply Kept.by' (failed_k _ _)
    | with_reducible apply Kept.by' (Kept.eq1 (failed_k _ _) (by assumption))
    | with_reducible apply Kept.by' (showPools_k _)
    | with_reducible apply Kept.by' (svUpd_k _ _)
    | (intro _; intros)
    | dsimp only
    | apply rfl
    | (with_reducible refine Kept.by' (by with_reducible assumption) ?_ ?_)
    | split
theorem execGlUnlockWrite_k (a0) (a1) (a2) (s : State) {t : State} (h : execGlUnlockWrite a0 a1 a2 s = .next t) : Kept [.regs, .acc, .ev, .out] s t := by
  unfold execGlUnlockWrite at h
  injection h with h
  subst h
  try dsimp -proj only
  repeat' first
    | with_reducible assumption
    | with_reducible apply Kept.refl
    | with_reducible apply Kept.ite
    | with_reducible apply gate_k
    | with_reducible apply Kept.by' (unlockWrite_k _ _ _)
    | (intro _; intros)
    | dsimp only
    | apply rfl
    | (with_reducible refine Kept.by' (by with_reducible assumption) ?_ ?_)
    | split
theorem execCidxWrite_k (a0) (a1) (a2) (a3) (a4) (a5) (s : State) {t : State} (h : execCidxWrite a0 a1 a2 a3 a4 a5 s = .next t) : Kept [.regs, .ev, .mem, .host, .ch, .slices, .stairs, .sheaf, .out] s t := by
  unfold execCidxWrite at h
  injection h with h
  subst h
  try dsimp -proj only
  repeat' first
    | with_reducible assumption
    | with_reducible apply Kept.refl
    | with_reducible apply Kept.ite
    | with_reducible apply onPage_k
    | with_reducible apply Kept.by' (cidxPut_k _ _ _ _ _ _)
    | (intro _; intros)
    | dsimp only
    | apply rfl
    | (with_reducible refine Kept.by' (by with_reducible assumption) ?_ ?_)
    | split
theorem execNvmeRead_k (a0) (a1) (a2) (a3) (a4) (s : State) {t : State} (h : execNvmeRead a0 a1 a2 a3 a4 s = .next t) : Kept [.regs, .ev, .mem, .host, .ch, .slices, .sv, .out, .draws] s t := by
  unfold execNvmeRead at h
  injection h with h
  subst h
  try dsimp -proj only
  repeat' first
    | with_reducible assumption
    | with_reducible apply Kept.refl
    | with_reducible apply Kept.ite
    | with_reducible apply ioRow_k
    | (intro _; intros)
    | with_reducible apply Kept.by' (ioRow_k _ _ _ _ _ _ _ _ _)
    | with_reducible apply Kept.by' (beginRead_k _ _ _ _ _)
    | dsimp only
    | apply rfl
    | (with_reducible refine Kept.by' (by with_reducible assumption) ?_ ?_)
    | split
theorem execFnCfgWrite_k (a0) (a1) (a2) (a3) (s : State) {t : State} (h : execFnCfgWrite a0 a1 a2 a3 s = .next t) : Kept [.regs, .acc, .ev, .host, .out] s t := by
  unfold execFnCfgWrite at h
  injection h with h
  subst h
  try dsimp -proj only
  repeat' first
    | with_reducible assumption
    | with_reducible apply Kept.refl
    | with_reducible apply Kept.ite
    | with_reducible apply gate_k
    | with_reducible apply Kept.by' (fnCfgWrite_k _ _ _)
    | (intro _; intros)
    | dsimp only
    | apply rfl
    | (with_reducible refine Kept.by' (by with_reducible assumption) ?_ ?_)
    | split
theorem execPathSet_k (a0) (a1) (a2) (s : State) {t : State} (h : execPathSet a0 a1 a2 s = .next t) : Kept [.regs, .ev, .mem, .host, .ch, .slices, .rm, .out, .draws] s t := by
  unfold execPathSet at h
  injection h with h
  subst h
  try dsimp -proj only
  repeat' first
    | with_reducible assumption
    | with_reducible apply Kept.refl
    | with_reducible apply Kept.ite
    | with_reducible apply Kept.ite1
    | with_reducible apply runAdmin_k
    | with_reducible apply adminRead_k
    | with_reducible apply Kept.by' (rmUpd_k _ _)
    | with_reducible apply Kept.by' (failed_k _ _)
    | with_reducible apply Kept.by' (Kept.eq1 (failed_k _ _) (by assumption))
    | (intro _; intros)
    | dsimp only
    | apply rfl
    | (with_reducible refine Kept.by' (by with_reducible assumption) ?_ ?_)
    | split
theorem execCtrlDestroy_k (a0) (a1) (s : State) {t : State} (h : execCtrlDestroy a0 a1 s = .next t) : Kept [.regs, .mem, .host, .ch, .slices, .sv, .out, .draws] s t := by
  unfold execCtrlDestroy at h
  injection h with h
  subst h
  try dsimp -proj only
  repeat' first
    | with_reducible assumption
    | with_reducible apply Kept.refl
    | with_reducible apply Kept.ite
    | with_reducible apply Kept.ite1
    | with_reducible apply Kept.ite2
    | with_reducible apply Kept.by' (failed_k _ _)
    | with_reducible apply Kept.by' (Kept.eq1 (failed_k _ _) (by assumption))
    | with_reducible apply Kept.by' (svUpd_k _ _)
    | with_reducible apply Kept.by' (showFlight_k _)
    | with_reducible apply Kept.by' (settle_k _)
    | with_reducible apply svAdmin_k
    | with_reducible apply Kept.by' (showCtrls_k _)
    | (intro _; intros)
    | dsimp only
    | apply rfl
    | (with_reducible refine Kept.by' (by with_reducible assumption) ?_ ?_)
    | split
theorem execPresenceChange_k (a0) (a1) (s : State) {t : State} (h : execPresenceChange a0 a1 s = .next t) : Kept [.regs, .ev, .host, .out] s t := by
  unfold execPresenceChange at h
  injection h with h
  subst h
  try dsimp -proj only
  repeat' first
    | with_reducible assumption
    | with_reducible apply Kept.refl
    | with_reducible apply Kept.ite
    | with_reducible apply Kept.by' (wrF_k _ _ _ _ _)
    | with_reducible apply Kept.by' (rpUpd_k _ _ _)
    | with_reducible apply Kept.by' (raise_k _ _ _)
    | with_reducible apply Kept.by' (rpBit_k _ _ _ _ _)
    | with_reducible apply Kept.by' (slotCut_k _ _)
    | with_reducible apply Kept.by' (rpAbort_k _ _)
    | with_reducible apply Kept.by' (bump_k _ _ _)
    | dsimp only
    | apply rfl
    | (with_reducible refine Kept.by' (by with_reducible assumption) ?_ ?_)
    | split
theorem execHandover_k (a0) (a1) (a2) (s : State) {t : State} (h : execHandover a0 a1 a2 s = .next t) : Kept [.regs, .acc, .ev, .mem, .ch, .net, .stairs, .sheaf, .land, .unit, .tils, .cy, .rm, .out, .draws] s t := by
  unfold execHandover at h
  injection h with h
  subst h
  try dsimp -proj only
  repeat' first
    | with_reducible assumption
    | with_reducible apply Kept.refl
    | with_reducible apply Kept.ite
    | with_reducible apply Kept.by' (unitRow_k _ _ _ _ _)
    | dsimp only
    | apply rfl
    | (with_reducible refine Kept.by' (by with_reducible assumption) ?_ ?_)
    | split
theorem execOzRestart_k (a0) (a1) (a2) (s : State) {t : State} (h : execOzRestart a0 a1 a2 s = .next t) : Kept [.regs, .acc, .ev, .mem, .host, .ch, .slices, .stairs, .unit, .oz, .cy, .rm, .sv, .out, .draws] s t := by
  unfold execOzRestart at h
  injection h with h
  subst h
  try dsimp -proj only
  repeat' first
    | with_reducible assumption
    | with_reducible apply Kept.refl
    | with_reducible apply Kept.ite
    | with_reducible apply gate_k
    | with_reducible apply Kept.by' (mbWrite_k _ _ _)
    | (intro _; intros)
    | dsimp only
    | apply rfl
    | (with_reducible refine Kept.by' (by with_reducible assumption) ?_ ?_)
    | split
theorem execDeepFetchStart_k (a0) (a1) (a2) (s : State) {t : State} (h : execDeepFetchStart a0 a1 a2 s = .next t) : Kept [.regs, .ev, .stairs] s t := by
  unfold execDeepFetchStart at h
  injection h with h
  subst h
  try dsimp -proj only
  repeat' first
    | with_reducible assumption
    | with_reducible apply Kept.refl
    | with_reducible apply Kept.ite
    | with_reducible apply Kept.by' (fencedSend_k _ _)
    | with_reducible apply Kept.by' (stairSet_k _ _ _)
    | with_reducible apply Kept.foldl
    | with_reducible apply Kept.foldl1
    | (intro _; intros)
    | dsimp only
    | apply rfl
    | (with_reducible refine Kept.by' (by with_reducible assumption) ?_ ?_)
    | split
theorem execDestroySlice_k (a0) (a1) (s : State) {t : State} (h : execDestroySlice a0 a1 s = .next t) : Kept [.regs, .ev, .mem, .host, .ch, .slices, .out] s t := by
  unfold execDestroySlice at h
  injection h with h
  subst h
  try dsimp -proj only
  repeat' first
    | with_reducible assumption
    | with_reducible apply Kept.refl
    | with_reducible apply Kept.ite
    | with_reducible apply ownerCmd_k
    | with_reducible apply Kept.by' (failed_k _ _)
    | with_reducible apply Kept.by' (Kept.eq1 (failed_k _ _) (by assumption))
    | with_reducible apply Kept.by' (sliceReset_k _ _ _)
    | with_reducible apply Kept.by' (adminDefer_k _ _ _ _ _)
    | (intro _; intros)
    | dsimp only
    | apply rfl
    | (with_reducible refine Kept.by' (by with_reducible assumption) ?_ ?_)
    | split
theorem execParseWrite_k (a0) (a1) (a2) (a3) (s : State) {t : State} (h : execParseWrite a0 a1 a2 a3 s = .next t) : Kept [.regs, .acc, .ev, .stairs, .golden, .out] s t := by
  unfold execParseWrite at h
  injection h with h
  subst h
  try dsimp -proj only
  repeat' first
    | with_reducible assumption
    | with_reducible apply Kept.refl
    | with_reducible apply Kept.ite
    | with_reducible apply gate_k
    | with_reducible apply Kept.by' (parseCmdWrite_k _ _ _)
    | (intro _; intros)
    | dsimp only
    | apply rfl
    | (with_reducible refine Kept.by' (by with_reducible assumption) ?_ ?_)
    | split
theorem execPauseTimerExpire_k (a0) (s : State) {t : State} (h : execPauseTimerExpire a0 s = .next t) : Kept [.regs, .net] s t := by
  unfold execPauseTimerExpire at h
  injection h with h
  subst h
  try dsimp -proj only
  repeat' first
    | with_reducible assumption
    | with_reducible apply Kept.refl
    | with_reducible apply Kept.ite
    | with_reducible apply Kept.ite2
    | with_reducible apply Kept.by' (pauseUpdate_k _ _)
    | with_reducible apply Kept.by' (portUpd_k _ _ _)
    | dsimp only
    | apply rfl
    | (with_reducible refine Kept.by' (by with_reducible assumption) ?_ ?_)
    | split
theorem execHostLinkUp_k (a0) (a1) (a2) (a3) (s : State) {t : State} (h : execHostLinkUp a0 a1 a2 a3 s = .next t) : Kept [.regs, .ev, .out] s t := by
  unfold execHostLinkUp at h
  injection h with h
  subst h
  try dsimp -proj only
  repeat' first
    | with_reducible assumption
    | with_reducible apply Kept.refl
    | with_reducible apply Kept.ite
    | with_reducible apply Kept.by' (raise_k _ _ _)
    | with_reducible apply Kept.by' (linkShow_k _ _ _ _ _ _)
    | with_reducible apply Kept.by' (emit_k _ _)
    | dsimp only
    | apply rfl
    | (with_reducible refine Kept.by' (by with_reducible assumption) ?_ ?_)
    | split
theorem execThreadContextWrite_k (a0) (a1) (a2) (a3) (a4) (a5) (s : State) {t : State} (h : execThreadContextWrite a0 a1 a2 a3 a4 a5 s = .next t) : Kept [.regs, .acc, .ev, .out] s t := by
  unfold execThreadContextWrite at h
  injection h with h
  subst h
  try dsimp -proj only
  repeat' first
    | with_reducible assumption
    | with_reducible apply Kept.refl
    | with_reducible apply Kept.ite
    | with_reducible apply gate_k
    | with_reducible apply Kept.by' (thContextWrite_k _ _ _ _ _ _)
    | (intro _; intros)
    | dsimp only
    | apply rfl
    | (with_reducible refine Kept.by' (by with_reducible assumption) ?_ ?_)
    | split
theorem execResetChannel_k (a0) (a1) (s : State) {t : State} (h : execResetChannel a0 a1 s = .next t) : Kept [.regs, .ev, .mem, .host, .ch, .slices, .rm, .out, .draws] s t := by
  unfold execResetChannel at h
  injection h with h
  subst h
  try dsimp -proj only
  repeat' first
    | with_reducible assumption
    | with_reducible apply Kept.refl
    | with_reducible apply Kept.ite
    | with_reducible apply runAdmin_k
    | with_reducible apply Kept.by' (failed_k _ _)
    | with_reducible apply Kept.by' (Kept.eq1 (failed_k _ _) (by assumption))
    | with_reducible apply Kept.by' (resetOrHold_k _ _)
    | with_reducible apply Kept.by' (adminDefer_k _ _ _ _ _)
    | (intro _; intros)
    | dsimp only
    | apply rfl
    | (with_reducible refine Kept.by' (by with_reducible assumption) ?_ ?_)
    | split
theorem execUcScrub_k (a0) (a1) (a2) (a3) (a4) (a5) (s : State) {t : State} (h : execUcScrub a0 a1 a2 a3 a4 a5 s = .next t) : Kept [.regs, .ev, .stairs] s t := by
  unfold execUcScrub at h
  injection h with h
  subst h
  try dsimp -proj only
  repeat' first
    | with_reducible assumption
    | with_reducible apply Kept.refl
    | with_reducible apply Kept.ite
    | with_reducible apply Kept.by' (stairUpd_k _ _ _)
    | with_reducible apply Kept.by' (raise_k _ _ _)
    | with_reducible apply Kept.by' (bump_k _ _ _)
    | dsimp only
    | apply rfl
    | (with_reducible refine Kept.by' (by with_reducible assumption) ?_ ?_)
    | split
theorem execL2Learn_k (a0) (s : State) {t : State} (h : execL2Learn a0 s = .next t) : Kept [.regs, .ev, .stairs] s t := by
  unfold execL2Learn at h
  injection h with h
  subst h
  try dsimp -proj only
  repeat' first
    | with_reducible assumption
    | with_reducible apply Kept.refl
    | with_reducible apply Kept.ite
    | with_reducible apply Kept.by' (learnOne_k _ _ _)
    | with_reducible apply Kept.by' (stairUpd_k _ _ _)
    | dsimp only
    | apply rfl
    | (with_reducible refine Kept.by' (by with_reducible assumption) ?_ ?_)
    | split
theorem execDoorbell_k (a0) (a1) (a2) (a3) (s : State) {t : State} (h : execDoorbell a0 a1 a2 a3 s = .next t) : Kept [.regs, .ev, .mem, .host, .ch, .slices, .out] s t := by
  unfold execDoorbell at h
  injection h with h
  subst h
  try dsimp -proj only
  repeat' first
    | with_reducible assumption
    | with_reducible apply Kept.refl
    | with_reducible apply Kept.ite
    | with_reducible apply onPage_k
    | with_reducible apply Kept.by' (ringPage_k _ _ _ _)
    | (intro _; intros)
    | dsimp only
    | apply rfl
    | (with_reducible refine Kept.by' (by with_reducible assumption) ?_ ?_)
    | split
theorem execPoolQuery_k (a0) (a1) (s : State) {t : State} (h : execPoolQuery a0 a1 s = .next t) : Kept [.mem, .host, .ch, .slices, .out, .draws] s t := by
  unfold execPoolQuery at h
  injection h with h
  subst h
  try dsimp -proj only
  repeat' first
    | with_reducible assumption
    | with_reducible apply Kept.refl
    | with_reducible apply Kept.ite
    | with_reducible apply Kept.ite1
    | with_reducible apply Kept.ite2
    | with_reducible apply svAdmin_k
    | with_reducible apply Kept.by' (failed_k _ _)
    | with_reducible apply Kept.by' (Kept.eq1 (failed_k _ _) (by assumption))
    | with_reducible apply Kept.by' (draw_k _)
    | with_reducible apply Kept.by' (Kept.eq2 (draw_k _) (by assumption))
    | (intro _; intros)
    | dsimp only
    | apply rfl
    | (with_reducible refine Kept.by' (by with_reducible assumption) ?_ ?_)
    | split
theorem execAckDelayTimer_k (a0) (s : State) {t : State} (h : execAckDelayTimer a0 s = .next t) : Kept [.regs, .rm] s t := by
  unfold execAckDelayTimer at h
  injection h with h
  subst h
  try dsimp -proj only
  repeat' first
    | with_reducible assumption
    | with_reducible apply Kept.refl
    | with_reducible apply Kept.ite
    | with_reducible apply Kept.by' (oweAck_k _ _ _ _ _ _)
    | dsimp only
    | apply rfl
    | (with_reducible refine Kept.by' (by with_reducible assumption) ?_ ?_)
    | split
theorem execOvfSizeWrite_k (a0) (a1) (a2) (s : State) {t : State} (h : execOvfSizeWrite a0 a1 a2 s = .next t) : Kept [.regs, .acc, .ev, .out] s t := by
  unfold execOvfSizeWrite at h
  injection h with h
  subst h
  try dsimp -proj only
  repeat' first
    | with_reducible assumption
    | with_reducible apply Kept.refl
    | with_reducible apply Kept.ite
    | with_reducible apply gate_k
    | with_reducible apply Kept.by' (ovfSizeWrite_k _ _ _)
    | (intro _; intros)
    | dsimp only
    | apply rfl
    | (with_reducible refine Kept.by' (by with_reducible assumption) ?_ ?_)
    | split
theorem execRehearsalStop_k (a0) (a1) (a2) (s : State) {t : State} (h : execRehearsalStop a0 a1 a2 s = .next t) : Kept [.regs, .acc, .ev, .stairs, .sheaf, .out] s t := by
  unfold execRehearsalStop at h
  injection h with h
  subst h
  try dsimp -proj only
  repeat' first
    | with_reducible assumption
    | with_reducible apply Kept.refl
    | with_reducible apply Kept.ite
    | with_reducible apply gate_k
    | with_reducible apply Kept.by' (rhCtlWrite_k _ _)
    | (intro _; intros)
    | dsimp only
    | apply rfl
    | (with_reducible refine Kept.by' (by with_reducible assumption) ?_ ?_)
    | split
theorem execSliceResetStart_k (a0) (s : State) {t : State} (h : execSliceResetStart a0 s = .next t) : Kept [.regs, .ev, .mem, .host, .ch, .slices, .net, .land, .cy, .rm, .sv, .out, .draws] s t := by
  unfold execSliceResetStart at h
  injection h with h
  subst h
  try dsimp -proj only
  repeat' first
    | with_reducible assumption
    | with_reducible apply Kept.refl
    | with_reducible apply Kept.ite
    | with_reducible apply Kept.by' (stuckDrop_k _ _)
    | with_reducible apply Kept.by' (sliceQueuesDrop_k _ _)
    | with_reducible apply Kept.by' (sliceChansStop_k _ _)
    | with_reducible apply Kept.by' (sliceKeysErase_k _ _)
    | with_reducible apply Kept.by' (sliceQpsStop_k _ _)
    | with_reducible apply Kept.by' (svKeyless_k _)
    | with_reducible apply Kept.by' (svSliceReset_k _ _ _)
    | with_reducible apply Kept.by' (slUpd_k _ _ _)
    | dsimp only
    | apply rfl
    | (with_reducible refine Kept.by' (by with_reducible assumption) ?_ ?_)
    | split
theorem execLogMirror_k (s : State) {t : State} (h : execLogMirror s = .next t) : Kept [.mem, .oz] s t := by
  unfold execLogMirror at h
  injection h with h
  subst h
  try dsimp -proj only
  repeat' first
    | with_reducible assumption
    | with_reducible apply Kept.refl
    | with_reducible apply Kept.ite
    | with_reducible apply Kept.ite1
    | with_reducible apply Kept.ite2
    | with_reducible apply Kept.by' (flashErase_k _ _ _)
    | with_reducible apply Kept.by' (ozUpd_k _ _ ?_)
    | with_reducible apply Kept.by' (flashPut_k _ _ _)
    | dsimp only
    | exact OzLe.same rfl rfl rfl
    | apply rfl
    | (with_reducible refine Kept.by' (by with_reducible assumption) ?_ ?_)
    | split
theorem execD3hotExit_k (a0) (a1) (s : State) {t : State} (h : execD3hotExit a0 a1 s = .next t) : Kept [.regs, .ev, .mem, .host, .ch, .slices, .land, .cy, .rm, .sv, .out, .draws] s t := by
  unfold execD3hotExit at h
  injection h with h
  subst h
  try dsimp -proj only
  repeat' first
    | with_reducible assumption
    | with_reducible apply Kept.refl
    | with_reducible apply Kept.ite
    | with_reducible apply Kept.by' (fnPower_k _ _ _ _)
    | dsimp only
    | apply rfl
    | (with_reducible refine Kept.by' (by with_reducible assumption) ?_ ?_)
    | split
theorem execFwCommit_k (a0) (a1) (a2) (s : State) {t : State} (h : execFwCommit a0 a1 a2 s = .next t) : Kept [.regs, .acc, .ev, .mem, .oz, .out] s t := by
  unfold execFwCommit at h
  injection h with h
  subst h
  try dsimp -proj only
  repeat' first
    | with_reducible assumption
    | with_reducible apply Kept.refl
    | with_reducible apply Kept.ite
    | with_reducible apply mbRow_k
    | (intro _; intros)
    | with_reducible apply Kept.by' (mbFwCommit_k (by assumption))
    | with_reducible apply Kept.by' (mbRow_k _ _ _ _ _ _ _)
    | dsimp only
    | apply rfl
    | (with_reducible refine Kept.by' (by with_reducible assumption) ?_ ?_)
    | split
theorem execMgmtFrameReceive_k (a0) (a1) (s : State) {t : State} (h : execMgmtFrameReceive a0 a1 s = .next t) : Kept [.regs, .mem, .tils] s t := by
  unfold execMgmtFrameReceive at h
  injection h with h
  subst h
  try dsimp -proj only
  repeat' first
    | with_reducible assumption
    | with_reducible apply Kept.refl
    | with_reducible apply Kept.ite
    | with_reducible apply Kept.by' (punt_k (by assumption))
    | with_reducible apply Kept.getD
    | (intro _; intros)
    | dsimp only
    | apply rfl
    | (with_reducible refine Kept.by' (by with_reducible assumption) ?_ ?_)
    | split
theorem execRateLimitWindow_k (a0) (a1) (s : State) {t : State} (h : execRateLimitWindow a0 a1 s = .next t) : Kept [.regs, .ev] s t := by
  unfold execRateLimitWindow at h
  injection h with h
  subst h
  try dsimp -proj only
  repeat' first
    | with_reducible assumption
    | with_reducible apply Kept.refl
    | with_reducible apply Kept.ite
    | with_reducible apply Kept.by' (raiseWin_k _ _ _ _ _ _)
    | dsimp only
    | exact fun h => aset_rising _ _ h
    | exact fun h => filter_rising _ h
    | exact fun h => h
    | apply rfl
    | (with_reducible refine Kept.by' (by with_reducible assumption) ?_ ?_)
    | split
    | with_reducible apply Kept.set_regs
    | with_reducible apply Kept.set_ev
    | (refine Kept.of ⟨fun p hp => ?_⟩ rfl rfl rfl (congrArg AccSt.own rfl); cases p <;> first | rfl | cases hp)
theorem execD3hotEntry_k (a0) (a1) (s : State) {t : State} (h : execD3hotEntry a0 a1 s = .next t) : Kept [.regs, .ev, .mem, .host, .ch, .slices, .land, .cy, .rm, .sv, .out, .draws] s t := by
  unfold execD3hotEntry at h
  injection h with h
  subst h
  try dsimp -proj only
  repeat' first
    | with_reducible assumption
    | with_reducible apply Kept.refl
    | with_reducible apply Kept.ite
    | with_reducible apply Kept.by' (fnPower_k _ _ _ _)
    | with_reducible apply Kept.by' (tdispBreak_k _ _ _)
    | dsimp only
    | apply rfl
    | (with_reducible refine Kept.by' (by with_reducible assumption) ?_ ?_)
    | split
theorem execTblCfgApply_k (a0) (a1) (a2) (a3) (a4) (s : State) {t : State} (h : execTblCfgApply a0 a1 a2 a3 a4 s = .next t) : Kept [.regs, .acc, .ev, .stairs, .out] s t := by
  unfold execTblCfgApply at h
  injection h with h
  subst h
  try dsimp -proj only
  repeat' first
    | with_reducible assumption
    | with_reducible apply Kept.refl
    | with_reducible apply Kept.ite
    | with_reducible apply gate_k
    | with_reducible apply Kept.by' (tblCfgWrite_k _ _ _ _ _)
    | (intro _; intros)
    | dsimp only
    | apply rfl
    | (with_reducible refine Kept.by' (by with_reducible assumption) ?_ ?_)
    | split
theorem execControllerLost_k (a0) (a1) (s : State) {t : State} (h : execControllerLost a0 a1 s = .next t) : Kept [.regs, .ev, .ch, .net, .land, .rm, .out] s t := by
  unfold execControllerLost at h
  injection h with h
  subst h
  try dsimp -proj only
  repeat' first
    | with_reducible assumption
    | with_reducible apply Kept.refl
    | with_reducible apply Kept.ite
    | with_reducible apply Kept.by' (gmLost_k _ _ _)
    | dsimp only
    | apply rfl
    | (with_reducible refine Kept.by' (by with_reducible assumption) ?_ ?_)
    | split
theorem execPerstAssert_k (a0) (s : State) {t : State} (h : execPerstAssert a0 s = .next t) : Kept [.regs, .time, .ev, .mem, .host, .ch, .slices, .out] s t := by
  unfold execPerstAssert at h
  injection h with h
  subst h
  try dsimp -proj only
  repeat' first
    | with_reducible assumption
    | with_reducible apply Kept.refl
    | with_reducible apply Kept.ite
    | with_reducible apply Kept.by' (linkReset_k _ _)
    | with_reducible apply Kept.by' (raise_k _ _ _)
    | with_reducible apply Kept.by' (wrF_k _ _ _ _ _)
    | dsimp only
    | apply rfl
    | (with_reducible refine Kept.by' (by with_reducible assumption) ?_ ?_)
    | split
theorem execRcRegisterRead_k (a0) (a1) (s : State) {t : State} (h : execRcRegisterRead a0 a1 s = .next t) : Kept [.regs, .acc, .host, .net, .out] s t := by
  rw [← Host.Outcome.next.inj h]
  apply inOrder_sub rfl
  simp only [busRow]
  apply Kept.ite _ Kept.refl
  exact Kept.by' (readRow_k _ _ _) Kept.refl rfl
theorem execThWake_k (a0) (a1) (a2) (a3) (a4) (s : State) {t : State} (h : execThWake a0 a1 a2 a3 a4 s = .next t) : Kept [.regs, .acc, .ev, .mem, .tils, .out] s t := by
  unfold execThWake at h
  injection h with h
  subst h
  try dsimp -proj only
  repeat' first
    | with_reducible assumption
    | with_reducible apply Kept.refl
    | with_reducible apply Kept.ite
    | with_reducible apply gate_k
    | with_reducible apply Kept.by' (thWakeWrite_k _ _ _ _ _)
    | (intro _; intros)
    | dsimp only
    | apply rfl
    | (with_reducible refine Kept.by' (by with_reducible assumption) ?_ ?_)
    | split
theorem execRpLinkDown_k (a0) (s : State) {t : State} (h : execRpLinkDown a0 s = .next t) : Kept [.regs, .ev, .host] s t := by
  unfold execRpLinkDown at h
  injection h with h
  subst h
  try dsimp -proj only
  repeat' first
    | with_reducible assumption
    | with_reducible apply Kept.refl
    | with_reducible apply Kept.ite
    | with_reducible apply Kept.by' (dpcTrigger_k _ _ _ _)
    | with_reducible apply Kept.by' (rpLinkShow_k _ _ _ _ _)
    | dsimp only
    | apply rfl
    | (with_reducible refine Kept.by' (by with_reducible assumption) ?_ ?_)
    | split
theorem execCcDisable_k (a0) (a1) (a2) (s : State) {t : State} (h : execCcDisable a0 a1 a2 s = .next t) : Kept [.regs, .ev, .mem, .host, .ch, .slices, .sv, .out, .draws] s t := by
  unfold execCcDisable at h
  injection h with h
  subst h
  try dsimp -proj only
  repeat' first
    | with_reducible assumption
    | with_reducible apply Kept.refl
    | with_reducible apply Kept.ite
    | with_reducible apply Kept.by' (ccWrite_k _ _ _)
    | dsimp only
    | apply rfl
    | (with_reducible refine Kept.by' (by with_reducible assumption) ?_ ?_)
    | split
theorem execSpdmRequest_k (a0) (a1) (s : State) {t : State} (h : execSpdmRequest a0 a1 s = .next t) : Kept [.regs, .ev, .mem, .host, .unit, .oz, .cy, .out, .draws] s t := by
  unfold execSpdmRequest at h
  injection h with h
  subst h
  try dsimp -proj only
  repeat' first
    | with_reducible assumption
    | with_reducible apply Kept.refl
    | with_reducible apply Kept.ite
    | (intro u v e hu; cases e)
    | with_reducible apply Kept.by' (ideStart_k (by assumption))
    | with_reducible apply Kept.by' (answer_k _ _ _ _)
    | with_reducible apply Kept.by' (mgmtMsg_k _ _ _)
    | with_reducible apply Kept.by' (tdispAsk_k (by assumption))
    | with_reducible apply Kept.by' (ideProg_k _ _ _ _)
    | with_reducible apply Kept.by' (ideStart_k (by assumption))
    | with_reducible apply Kept.by' (ideHalt_k _ _ _)
    | with_reducible apply ideAsk_k
    | (intro _; intros)
    | dsimp only
    | apply rfl
    | (with_reducible refine Kept.by' (by with_reducible assumption) ?_ ?_)
    | split
theorem execCctxDestroy_k (a0) (a1) (s : State) {t : State} (h : execCctxDestroy a0 a1 s = .next t) : Kept [.regs, .mem, .host, .ch, .slices, .cy, .out] s t := by
  unfold execCctxDestroy at h
  injection h with h
  subst h
  try dsimp -proj only
  repeat' first
    | with_reducible assumption
    | with_reducible apply Kept.refl
    | with_reducible apply Kept.ite
    | with_reducible apply Kept.ite1
    | with_reducible apply runAdmin_k
    | with_reducible apply Kept.by' (showCtxs_k _)
    | with_reducible apply Kept.by' (cyUpd_k _ _)
    | with_reducible apply Kept.by' (failed_k _ _)
    | with_reducible apply Kept.by' (Kept.eq1 (failed_k _ _) (by assumption))
    | (intro _; intros)
    | dsimp only
    | apply rfl
    | (with_reducible refine Kept.by' (by with_reducible assumption) ?_ ?_)
    | split
theorem execCcShutdown_k (a0) (a1) (a2) (s : State) {t : State} (h : execCcShutdown a0 a1 a2 s = .next t) : Kept [.regs, .ev, .mem, .host, .ch, .slices, .sv, .out, .draws] s t := by
  unfold execCcShutdown at h
  injection h with h
  subst h
  try dsimp -proj only
  repeat' first
    | with_reducible assumption
    | with_reducible apply Kept.refl
    | with_reducible apply Kept.ite
    | with_reducible apply Kept.by' (ccWrite_k _ _ _)
    | dsimp only
    | apply rfl
    | (with_reducible refine Kept.by' (by with_reducible assumption) ?_ ?_)
    | split
theorem execPortEnable_k (a0) (a1) (a2) (a3) (s : State) {t : State} (h : execPortEnable a0 a1 a2 a3 s = .next t) : Kept [.regs, .acc, .ev, .ch, .net, .land, .rm, .out] s t := by
  unfold execPortEnable at h
  injection h with h
  subst h
  try dsimp -proj only
  repeat' first
    | with_reducible assumption
    | with_reducible apply Kept.refl
    | with_reducible apply Kept.ite
    | with_reducible apply gate_k
    | with_reducible apply Kept.by' (portCtlWrite_k _ _ _)
    | (intro _; intros)
    | dsimp only
    | apply rfl
    | (with_reducible refine Kept.by' (by with_reducible assumption) ?_ ?_)
    | split
theorem execModifyChannel_k (a0) (a1) (s : State) {t : State} (h : execModifyChannel a0 a1 s = .next t) : Kept [.mem, .host, .ch, .slices, .out] s t := by
  unfold execModifyChannel at h
  injection h with h
  subst h
  try dsimp -proj only
  repeat' first
    | with_reducible assumption
    | with_reducible apply Kept.refl
    | with_reducible apply Kept.ite
    | with_reducible apply runAdmin_k
    | with_reducible apply Kept.by' (failed_k _ _)
    | with_reducible apply Kept.by' (Kept.eq1 (failed_k _ _) (by assumption))
    | with_reducible apply Kept.by' (chanSet_k _ _ _)
    | (intro _; intros)
    | dsimp only
    | apply rfl
    | (with_reducible refine Kept.by' (by with_reducible assumption) ?_ ?_)
    | split
theorem execDeviceSelfTest_k (a0) (a1) (s : State) {t : State} (h : execDeviceSelfTest a0 a1 s = .next t) : Kept [.regs, .ev, .mem, .host, .ch, .slices, .sv, .out, .draws] s t := by
  unfold execDeviceSelfTest at h
  injection h with h
  subst h
  try dsimp -proj only
  repeat' first
    | with_reducible assumption
    | with_reducible apply Kept.refl
    | with_reducible apply Kept.ite
    | with_reducible apply Kept.ite1
    | with_reducible apply Kept.ite2
    | with_reducible apply nvmeAdmin_k
    | with_reducible apply Kept.by' (finish_k _ _ _ _ _ _)
    | with_reducible apply Kept.by' (testEnd_k _ _ _ _)
    | with_reducible apply Kept.by' (ctrlUpd_k _ _ _)
    | (intro _; intros)
    | dsimp only
    | apply rfl
    | (with_reducible refine Kept.by' (by with_reducible assumption) ?_ ?_)
    | split
theorem execBindMgmt_k (a0) (a1) (a2) (s : State) {t : State} (h : execBindMgmt a0 a1 a2 s = .next t) : Kept [.regs, .acc, .ev, .oz, .out] s t := by
  unfold execBindMgmt at h
  injection h with h
  subst h
  try dsimp -proj only
  repeat' first
    | with_reducible assumption
    | with_reducible apply Kept.refl
    | with_reducible apply Kept.ite
    | with_reducible apply mbRow_k
    | (intro _; intros)
    | with_reducible apply Kept.by' (mbBindMgmt_k (by assumption))
    | with_reducible apply Kept.by' (mbRow_k _ _ _ _ _ _ _)
    | dsimp only
    | apply rfl
    | (with_reducible refine Kept.by' (by with_reducible assumption) ?_ ?_)
    | split
theorem execTableIter_k (a0) (a1) (a2) (a3) (s : State) {t : State} (h : execTableIter a0 a1 a2 a3 s = .next t) : Kept [.regs, .acc, .ev, .stairs, .lpm, .land, .out] s t := by
  unfold execTableIter at h
  injection h with h
  subst h
  try dsimp -proj only
  repeat' first
    | with_reducible assumption
    | with_reducible apply Kept.refl
    | with_reducible apply Kept.ite
    | with_reducible apply Kept.by' (tblCmdRow_k _ _ _ _ _ _ _)
    | dsimp only
    | apply rfl
    | (with_reducible refine Kept.by' (by with_reducible assumption) ?_ ?_)
    | split
theorem execArrayMarkerRetire_k (a0) (a1) (s : State) {t : State} (h : execArrayMarkerRetire a0 a1 s = .next t) : Kept [.regs, .stairs] s t := by
  unfold execArrayMarkerRetire at h
  injection h with h
  subst h
  try dsimp -proj only
  repeat' first
    | with_reducible assumption
    | with_reducible apply Kept.refl
    | with_reducible apply Kept.ite
    | with_reducible apply Kept.by' (markerRetire_k _ _ _)
    | dsimp only
    | apply rfl
    | (with_reducible refine Kept.by' (by with_reducible assumption) ?_ ?_)
    | split
theorem execChannelUnblock_k (a0) (a1) (s : State) {t : State} (h : execChannelUnblock a0 a1 s = .next t) : Kept [.regs, .mem, .tils, .out] s t := by
  unfold execChannelUnblock at h
  injection h with h
  subst h
  try dsimp -proj only
  repeat' first
    | with_reducible assumption
    | with_reducible apply Kept.refl
    | with_reducible apply Kept.ite
    | with_reducible apply Kept.by' (chTry_k (by assumption))
    | with_reducible apply Kept.getD
    | (intro _; intros)
    | dsimp only
    | apply rfl
    | (with_reducible refine Kept.by' (by with_reducible assumption) ?_ ?_)
    | split
theorem execRollingUpdateStep_k (s : State) {t : State} (h : execRollingUpdateStep s = .next t) : Kept [.regs, .ev, .mem, .ch, .unit, .tils] s t := by
  unfold execRollingUpdateStep at h
  injection h with h
  subst h
  try dsimp -proj only
  repeat' first
    | with_reducible assumption
    | with_reducible apply Kept.refl
    | with_reducible apply Kept.ite
    | with_reducible apply Kept.by' (handover_k _ _ _ _)
    | with_reducible apply Kept.by' (unitUpd_k _ _)
    | dsimp only
    | apply rfl
    | (with_reducible refine Kept.by' (by with_reducible assumption) ?_ ?_)
    | split
theorem execFence_k (a0) (a1) (a2) (s : State) {t : State} (h : execFence a0 a1 a2 s = .next t) : Kept [.regs, .acc, .ev, .mem, .ch, .net, .stairs, .sheaf, .land, .unit, .tils, .cy, .rm, .out, .draws] s t := by
  unfold execFence at h
  injection h with h
  subst h
  try dsimp -proj only
  repeat' first
    | with_reducible assumption
    | with_reducible apply Kept.refl
    | with_reducible apply Kept.ite
    | with_reducible apply Kept.by' (unitRow_k _ _ _ _ _)
    | dsimp only
    | apply rfl
    | (with_reducible refine Kept.by' (by with_reducible assumption) ?_ ?_)
    | split
theorem execArrayReadClear_k (a0) (a1) (a2) (a3) (a4) (s : State) {t : State} (h : execArrayReadClear a0 a1 a2 a3 a4 s = .next t) : Kept [.regs, .acc, .ev, .stairs, .land, .out] s t := by
  unfold execArrayReadClear at h
  injection h with h
  subst h
  try dsimp -proj only
  repeat' first
    | with_reducible assumption
    | with_reducible apply Kept.refl
    | with_reducible apply Kept.ite
    | with_reducible apply Kept.by' (arrCmdRow_k _ _ _ _ _ _ _)
    | dsimp only
    | apply rfl
    | (with_reducible refine Kept.by' (by with_reducible assumption) ?_ ?_)
    | split
theorem execSelfTestSegment_k (a0) (a1) (s : State) {t : State} (h : execSelfTestSegment a0 a1 s = .next t) : Kept [.regs, .ev, .sv] s t := by
  unfold execSelfTestSegment at h
  injection h with h
  subst h
  try dsimp -proj only
  repeat' first
    | with_reducible assumption
    | with_reducible apply Kept.refl
    | with_reducible apply Kept.ite
    | with_reducible apply Kept.by' (raise_k _ _ _)
    | with_reducible apply Kept.by' (testEnd_k _ _ _ _)
    | with_reducible apply Kept.by' (ctrlUpd_k _ _ _)
    | dsimp only
    | apply rfl
    | (with_reducible refine Kept.by' (by with_reducible assumption) ?_ ?_)
    | split
theorem execPortDisable_k (a0) (a1) (a2) (a3) (s : State) {t : State} (h : execPortDisable a0 a1 a2 a3 s = .next t) : Kept [.regs, .acc, .ev, .ch, .net, .land, .rm, .out] s t := by
  unfold execPortDisable at h
  injection h with h
  subst h
  try dsimp -proj only
  repeat' first
    | with_reducible assumption
    | with_reducible apply Kept.refl
    | with_reducible apply Kept.ite
    | with_reducible apply gate_k
    | with_reducible apply Kept.by' (portCtlWrite_k _ _ _)
    | (intro _; intros)
    | dsimp only
    | apply rfl
    | (with_reducible refine Kept.by' (by with_reducible assumption) ?_ ?_)
    | split
theorem execChRecv_k (a0) (a1) (a2) (a3) (a4) (a5) (s : State) {t : State} (h : execChRecv a0 a1 a2 a3 a4 a5 s = .next t) : Kept [.regs, .ev, .mem, .tils, .out] s t := by
  unfold execChRecv at h
  injection h with h
  subst h
  try dsimp -proj only
  repeat' first
    | with_reducible assumption
    | with_reducible apply Kept.refl
    | with_reducible apply Kept.ite
    | with_reducible apply Kept.by' (thTrap_k _ _ _ _)
    | with_reducible apply Kept.by' (chRun_k _ _ _ _ _)
    | dsimp only
    | apply rfl
    | (with_reducible refine Kept.by' (by with_reducible assumption) ?_ ?_)
    | split
theorem execPfcWatchdog_k (a0) (a1) (s : State) {t : State} (h : execPfcWatchdog a0 a1 s = .next t) : Kept [.regs, .ev, .net] s t := by
  unfold execPfcWatchdog at h
  injection h with h
  subst h
  try dsimp -proj only
  repeat' first
    | with_reducible assumption
    | with_reducible apply Kept.refl
    | with_reducible apply Kept.ite
    | with_reducible apply Kept.by' (portUpd_k _ _ _)
    | with_reducible apply Kept.by' (raise_k _ _ _)
    | with_reducible apply Kept.by' (pauseUpdate_k _ _)
    | dsimp only
    | apply rfl
    | (with_reducible refine Kept.by' (by with_reducible assumption) ?_ ?_)
    | split
theorem execL2AgeingPass_k (a0) (s : State) {t : State} (h : execL2AgeingPass a0 s = .next t) : Kept [.regs, .stairs] s t := by
  unfold execL2AgeingPass at h
  injection h with h
  subst h
  try dsimp -proj only
  repeat' first
    | with_reducible assumption
    | with_reducible apply Kept.refl
    | with_reducible apply Kept.ite
    | with_reducible apply Kept.ite1
    | with_reducible apply Kept.ite2
    | with_reducible apply Kept.by' (bump_k _ _ _)
    | with_reducible apply Kept.by' (stairUpd_k _ _ _)
    | with_reducible apply Kept.by' (setEntries_k _ _ _ _)
    | (intro _; intros)
    | dsimp only
    | apply rfl
    | (with_reducible refine Kept.by' (by with_reducible assumption) ?_ ?_)
    | split
theorem execMeterAssign_k (a0) (a1) (a2) (a3) (a4) (s : State) {t : State} (h : execMeterAssign a0 a1 a2 a3 a4 s = .next t) : Kept [.regs, .acc, .ev, .stairs, .land, .out] s t := by
  unfold execMeterAssign at h
  injection h with h
  subst h
  try dsimp -proj only
  repeat' first
    | with_reducible assumption
    | with_reducible apply Kept.refl
    | with_reducible apply Kept.ite
    | with_reducible apply gate_k
    | with_reducible apply Kept.by' (mtrCmdWrite_k _ _ _ _)
    | (intro _; intros)
    | dsimp only
    | apply rfl
    | (with_reducible refine Kept.by' (by with_reducible assumption) ?_ ?_)
    | split
theorem execOzelmRestartDone_k (s : State) {t : State} (h : execOzelmRestartDone s = .next t) : Kept [.regs, .ev, .mem, .oz] s t := by
  unfold execOzelmRestartDone at h
  injection h with h
  subst h
  try dsimp -proj only
  repeat' first
    | with_reducible assumption
    | with_reducible apply Kept.refl
    | with_reducible apply Kept.ite
    | with_reducible apply Kept.by' (slotBoots_k (by assumption))
    | with_reducible apply Kept.by' (raisePhase_k _ _ _ _)
    | with_reducible apply Kept.by' (ozelmRuns_k _ _)
    | dsimp only
    | apply rfl
    | (with_reducible refine Kept.by' (by with_reducible assumption) ?_ ?_)
    | split
theorem execMeterRefreshPass_k (a0) (a1) (a2) (s : State) {t : State} (h : execMeterRefreshPass a0 a1 a2 s = .next t) : Kept [.regs, .stairs, .land] s t := by
  unfold execMeterRefreshPass at h
  injection h with h
  subst h
  try dsimp -proj only
  repeat' first
    | with_reducible assumption
    | with_reducible apply Kept.refl
    | with_reducible apply Kept.ite
    | with_reducible apply Kept.by' (markerSend_k _ _ _ _)
    | dsimp only
    | apply rfl
    | (with_reducible refine Kept.by' (by with_reducible assumption) ?_ ?_)
    | split
theorem execBackingComplete_k (a0) (a1) (a2) (s : State) {t : State} (h : execBackingComplete a0 a1 a2 s = .next t) : Kept [.regs, .ev, .mem, .host, .ch, .slices, .sv, .out, .draws] s t := by
  unfold execBackingComplete at h
  injection h with h
  subst h
  try dsimp -proj only
  repeat' first
    | with_reducible assumption
    | with_reducible apply Kept.refl
    | with_reducible apply Kept.ite
    | with_reducible apply Kept.by' (drvClose_k _ _)
    | with_reducible apply Kept.by' (capsuleWakeN_k _ _)
    | with_reducible apply Kept.by' (backingDone_k _ _ _ _)
    | dsimp only
    | apply rfl
    | (with_reducible refine Kept.by' (by with_reducible assumption) ?_ ?_)
    | split
theorem execFecDegradeWindow_k (a0) (a1) (a2) (a3) (s : State) {t : State} (h : execFecDegradeWindow a0 a1 a2 a3 s = .next t) : Kept [.regs, .ev, .net] s t := by
  unfold execFecDegradeWindow at h
  injection h with h
  subst h
  try dsimp -proj only
  repeat' first
    | with_reducible assumption
    | with_reducible apply Kept.refl
    | with_reducible apply Kept.ite
    | with_reducible apply Kept.by' (wrF_k _ _ _ _ _)
    | with_reducible apply Kept.by' (raise_k _ _ _)
    | with_reducible apply Kept.by' (portUpd_k _ _ _)
    | with_reducible apply Kept.by' (portCnt_k _ _ _ _)
    | (intro _; intros)
    | dsimp only
    | apply rfl
    | (with_reducible refine Kept.by' (by with_reducible assumption) ?_ ?_)
    | split
theorem execQuerySlice_k (a0) (a1) (s : State) {t : State} (h : execQuerySlice a0 a1 s = .next t) : Kept [.mem, .host, .ch, .slices, .out] s t := by
  unfold execQuerySlice at h
  injection h with h
  subst h
  try dsimp -proj only
  repeat' first
    | with_reducible assumption
    | with_reducible apply Kept.refl
    | with_reducible apply Kept.ite
    | with_reducible apply runAdmin_k
    | with_reducible apply Kept.by' (failed_k _ _)
    | with_reducible apply Kept.by' (Kept.eq1 (failed_k _ _) (by assumption))
    | (intro _; intros)
    | dsimp only
    | apply rfl
    | (with_reducible refine Kept.by' (by with_reducible assumption) ?_ ?_)
    | split
theorem execNsDestroy_k (a0) (a1) (s : State) {t : State} (h : execNsDestroy a0 a1 s = .next t) : Kept [.regs, .mem, .host, .ch, .slices, .sv, .out, .draws] s t := by
  unfold execNsDestroy at h
  injection h with h
  subst h
  try dsimp -proj only
  repeat' first
    | with_reducible assumption
    | with_reducible apply Kept.refl
    | with_reducible apply Kept.ite
    | with_reducible apply Kept.ite2
    | with_reducible apply svAdmin_k
    | with_reducible apply Kept.by' (failed_k _ _)
    | with_reducible apply Kept.by' (Kept.eq1 (failed_k _ _) (by assumption))
    | with_reducible apply Kept.by' (unmapUnit_k _ _ _)
    | with_reducible apply Kept.by' (settle_k _)
    | with_reducible apply Kept.by' (showNss_k _)
    | with_reducible apply Kept.by' (svUpd_k _ _)
    | (intro _; intros)
    | with_reducible apply Kept.foldl
    | with_reducible apply Kept.foldl1
    | (intro _; intros)
    | dsimp only
    | apply rfl
    | (with_reducible refine Kept.by' (by with_reducible assumption) ?_ ?_)
    | split
theorem execQpEvict_k (a0) (s : State) {t : State} (h : execQpEvict a0 s = .next t) : Kept [.mem, .slices, .rm, .out, .draws] s t := by
  unfold execQpEvict at h
  injection h with h
  subst h
  try dsimp -proj only
  repeat' first
    | with_reducible assumption
    | with_reducible apply Kept.refl
    | with_reducible apply Kept.ite
    | with_reducible apply Kept.ite1
    | with_reducible apply Kept.ite2
    | with_reducible apply Kept.by' (rmUpd_k _ _)
    | with_reducible apply Kept.by' (draw_k _)
    | with_reducible apply Kept.by' (Kept.eq2 (draw_k _) (by assumption))
    | with_reducible apply Kept.by' (slWrite_k _ _ _ _ _)
    | dsimp only
    | apply rfl
    | (with_reducible refine Kept.by' (by with_reducible assumption) ?_ ?_)
    | split
theorem execAutoReadmit_k (a0) (s : State) {t : State} (h : execAutoReadmit a0 s = .next t) : Kept [.regs, .mem, .unit] s t := by
  unfold execAutoReadmit at h
  injection h with h
  subst h
  try dsimp -proj only
  repeat' first
    | with_reducible assumption
    | with_reducible apply Kept.refl
    | with_reducible apply Kept.ite
    | with_reducible apply Kept.ite1
    | with_reducible apply Kept.ite2
    | with_reducible apply Kept.by' (readmit_k _ _)
    | with_reducible apply Kept.by' (setUnitState_k _ _ _)
    | dsimp only
    | apply rfl
    | (with_reducible refine Kept.by' (by with_reducible assumption) ?_ ?_)
    | split
theorem execVfEnableChange_k (a0) (a1) (a2) (s : State) {t : State} (h : execVfEnableChange a0 a1 a2 s = .next t) : Kept [.regs, .time, .ev, .mem, .host, .ch, .slices, .out] s t := by
  unfold execVfEnableChange at h
  injection h with h
  subst h
  try dsimp -proj only
  repeat' first
    | with_reducible assumption
    | with_reducible apply Kept.refl
    | with_reducible apply Kept.ite
    | with_reducible apply Kept.by' (vfChange_k _ _)
    | with_reducible apply Kept.by' (cfgSet_k _ _ _ _ _)
    | dsimp only
    | apply rfl
    | (with_reducible refine Kept.by' (by with_reducible assumption) ?_ ?_)
    | split
theorem execNsReady_k (a0) (s : State) {t : State} (h : execNsReady a0 s = .next t) : Kept [.regs, .ev, .sv] s t := by
  unfold execNsReady at h
  injection h with h
  subst h
  try dsimp -proj only
  repeat' first
    | with_reducible assumption
    | with_reducible apply Kept.refl
    | with_reducible apply Kept.ite
    | with_reducible apply Kept.by' (nsState_k _ _ _)
    | dsimp only
    | apply rfl
    | (with_reducible refine Kept.by' (by with_reducible assumption) ?_ ?_)
    | split
theorem execChannelDeadline_k (a0) (a1) (s : State) {t : State} (h : execChannelDeadline a0 a1 s = .next t) : Kept [.regs, .mem, .tils, .out] s t := by
  unfold execChannelDeadline at h
  injection h with h
  subst h
  try dsimp -proj only
  repeat' first
    | with_reducible assumption
    | with_reducible apply Kept.refl
    | with_reducible apply Kept.ite
    | with_reducible apply Kept.by' (chTry_k (by assumption))
    | with_reducible apply Kept.by' (chReply_k _ _ _ _ _)
    | with_reducible apply Kept.getD
    | (intro _; intros)
    | dsimp only
    | apply rfl
    | (with_reducible refine Kept.by' (by with_reducible assumption) ?_ ?_)
    | split
theorem execSheafSweep_k (s : State) {t : State} (h : execSheafSweep s = .next t) : Kept [.regs, .stairs, .lpm, .sheaf] s t := by
  unfold execSheafSweep at h
  injection h with h
  subst h
  try dsimp -proj only
  repeat' first
    | with_reducible assumption
    | with_reducible apply Kept.refl
    | with_reducible apply Kept.ite
    | with_reducible apply Kept.ite1
    | with_reducible apply Kept.ite2
    | with_reducible apply Kept.by' (wrN_k _ _ _)
    | (intro _; intros)
    | dsimp only
    | apply rfl
    | (with_reducible refine Kept.by' (by with_reducible assumption) ?_ ?_)
    | split
    | with_reducible apply Kept.set_stairs
    | with_reducible apply Kept.set_lpm
    | with_reducible apply Kept.set_sheaf
    | (refine Kept.of ⟨fun p hp => ?_⟩ rfl rfl rfl (congrArg AccSt.own rfl); cases p <;> first | rfl | cases hp)
theorem execEventDeliver_k (s : State) {t : State} (h : execEventDeliver s = .next t) : Kept [.regs, .ev, .mem, .host, .ch, .slices, .tils, .oz, .out] s t := by
  unfold execEventDeliver at h
  injection h with h
  subst h
  try dsimp -proj only
  repeat' first
    | with_reducible assumption
    | with_reducible apply Kept.refl
    | with_reducible apply Kept.ite
    | with_reducible apply Kept.by' (deliver_k _ _)
    | with_reducible apply Kept.by' (raiseLim_k _ _ _ _ _)
    | dsimp only
    | exact fun h => aset_rising _ _ h
    | exact fun h => filter_rising _ h
    | exact fun h => h
    | exact fun h => memPuts_wf h
    | exact fun h => memClear_wf h
    | exact memPuts_wf (by assumption)
    | exact memClear_wf (by assumption)
    | exact fun h => filter_wf _ h
    | exact fun h => h
    | exact OzLe.same rfl rfl rfl
    | apply rfl
    | (with_reducible refine Kept.by' (by with_reducible assumption) ?_ ?_)
    | split
    | with_reducible apply Kept.set_regs
    | with_reducible apply Kept.set_ev
    | with_reducible apply Kept.set_mem
    | with_reducible apply Kept.set_host
    | with_reducible apply Kept.set_ch
    | with_reducible apply Kept.set_slices
    | with_reducible apply Kept.set_tils
    | with_reducible apply Kept.set_oz
    | with_reducible apply Kept.set_out
    | (refine Kept.of ⟨fun p hp => ?_⟩ rfl rfl rfl (congrArg AccSt.own rfl); cases p <;> first | rfl | cases hp)
theorem execTrainingComplete_k (a0) (a1) (a2) (s : State) {t : State} (h : execTrainingComplete a0 a1 a2 s = .next t) : Kept [.regs, .ev, .ch, .net, .land, .rm, .out] s t := by
  unfold execTrainingComplete at h
  injection h with h
  subst h
  try dsimp -proj only
  repeat' first
    | with_reducible assumption
    | with_reducible apply Kept.refl
    | with_reducible apply Kept.ite
    | with_reducible apply Kept.ite1
    | with_reducible apply Kept.ite2
    | with_reducible apply Kept.by' (wrF_k _ _ _ _ _)
    | with_reducible apply Kept.by' (portUpd_k _ _ _)
    | with_reducible apply Kept.by' (setPortState_k _ _ _)
    | with_reducible apply Kept.getD
    | (intro _; intros)
    | with_reducible apply Kept.foldl
    | with_reducible apply Kept.foldl1
    | (intro _; intros)
    | dsimp only
    | apply rfl
    | (with_reducible refine Kept.by' (by with_reducible assumption) ?_ ?_)
    | split
theorem execTagWaitEnd_k (a0) (s : State) {t : State} (h : execTagWaitEnd a0 s = .next t) : Kept [.regs, .host, .out] s t := by
  unfold execTagWaitEnd at h
  injection h with h
  subst h
  try dsimp -proj only
  repeat' first
    | with_reducible assumption
    | with_reducible apply Kept.refl
    | with_reducible apply Kept.ite
    | with_reducible apply Kept.by' (issueReads_k _ _)
    | dsimp only
    | apply rfl
    | (with_reducible refine Kept.by' (by with_reducible assumption) ?_ ?_)
    | split
theorem execPgModeChangeDone_k (a0) (s : State) {t : State} (h : execPgModeChangeDone a0 s = .next t) : Kept [.regs, .ev, .ch, .net, .land, .rm, .out] s t := by
  unfold execPgModeChangeDone at h
  injection h with h
  subst h
  try dsimp -proj only
  repeat' first
    | with_reducible assumption
    | with_reducible apply Kept.refl
    | with_reducible apply Kept.ite
    | with_reducible apply Kept.ite1
    | with_reducible apply Kept.by' (wrF_k _ _ _ _ _)
    | with_reducible apply Kept.by' (lineFollow_k _ _)
    | with_reducible apply Kept.by' (portFlush_k _ _)
    | with_reducible apply Kept.foldl
    | with_reducible apply Kept.foldl1
    | (intro _; intros)
    | dsimp only
    | apply rfl
    | (with_reducible refine Kept.by' (by with_reducible assumption) ?_ ?_)
    | split
    | with_reducible apply Kept.set_net
theorem execUcDataRead_k (a0) (a1) (a2) (a3) (s : State) {t : State} (h : execUcDataRead a0 a1 a2 a3 s = .next t) : Kept [.regs, .out] s t := by
  unfold execUcDataRead at h
  injection h with h
  subst h
  try dsimp -proj only
  repeat' first
    | with_reducible assumption
    | with_reducible apply Kept.refl
    | with_reducible apply Kept.ite
    | with_reducible apply Kept.ite1
    | with_reducible apply Kept.ite2
    | with_reducible apply Kept.by' (ucDataRead_k _ _ _ _)
    | with_reducible apply Kept.by' (Kept.eq1 (ucDataRead_k _ _ _ _) (by assumption))
    | with_reducible apply Kept.by' (emit_k _ _)
    | dsimp only
    | apply rfl
    | (with_reducible refine Kept.by' (by with_reducible assumption) ?_ ?_)
    | split
theorem execThreadFault_k (a0) (a1) (a2) (a3) (a4) (a5) (a6) (s : State) {t : State} (h : execThreadFault a0 a1 a2 a3 a4 a5 a6 s = .next t) : Kept [.regs, .ev, .mem, .tils] s t := by
  unfold execThreadFault at h
  injection h with h
  subst h
  try dsimp -proj only
  repeat' first
    | with_reducible assumption
    | with_reducible apply Kept.refl
    | with_reducible apply Kept.ite
    | with_reducible apply Kept.by' (wrF_k _ _ _ _ _)
    | with_reducible apply Kept.by' (thSetState_k _ _ _ _)
    | with_reducible apply Kept.by' (thUpd_k _ _ _ _)
    | with_reducible apply Kept.by' (wr64_k _ _ _)
    | with_reducible apply Kept.by' (faultRecord_k _ _ _)
    | with_reducible apply Kept.by' (raiseLim_k _ _ _ _ _)
    | with_reducible apply Kept.by' (bump_k _ _ _)
    | with_reducible apply Kept.by' (raise_k _ _ _)
    | dsimp only
    | apply rfl
    | (with_reducible refine Kept.by' (by with_reducible assumption) ?_ ?_)
    | split
theorem execSliceResetEnd_k (a0) (s : State) {t : State} (h : execSliceResetEnd a0 s = .next t) : Kept [.regs, .ev, .mem, .host, .ch, .slices, .land, .rm, .out, .draws] s t := by
  unfold execSliceResetEnd at h
  injection h with h
  subst h
  try dsimp -proj only
  repeat' first
    | with_reducible assumption
    | with_reducible apply Kept.refl
    | with_reducible apply Kept.ite
    | with_reducible apply Kept.by' (sliceResetEnd_k _ _)
    | dsimp only
    | apply rfl
    | (with_reducible refine Kept.by' (by with_reducible assumption) ?_ ?_)
    | split
theorem execDeepFetchComplete_k (a0) (a1) (a2) (a3) (s : State) {t : State} (h : execDeepFetchComplete a0 a1 a2 a3 s = .next t) : Kept [.regs, .ev, .ch, .stairs, .land, .rm] s t := by
  unfold execDeepFetchComplete at h
  injection h with h
  subst h
  try dsimp -proj only
  repeat' first
    | with_reducible assumption
    | with_reducible apply Kept.refl
    | with_reducible apply Kept.ite
    | with_reducible apply Kept.by' (staleDrop_k _ _ _)
    | with_reducible apply Kept.by' (stairUpd_k _ _ _)
    | with_reducible apply Kept.by' (unpark_k _ _ _)
    | with_reducible apply Kept.by' (fetchDrop_k _ _ _ _)
    | (intro _; intros)
    | dsimp only
    | apply rfl
    | (with_reducible refine Kept.by' (by with_reducible assumption) ?_ ?_)
    | split
theorem execIdeCheckFail_k (a0) (a1) (s : State) {t : State} (h : execIdeCheckFail a0 a1 s = .next t) : Kept [.regs, .ev, .host, .draws] s t := by
  unfold execIdeCheckFail at h
  injection h with h
  subst h
  try dsimp -proj only
  repeat' first
    | with_reducible assumption
    | with_reducible apply Kept.refl
    | with_reducible apply Kept.ite
    | with_reducible apply Kept.by' (aerLog_k _ _ _ _)
    | with_reducible apply Kept.by' (ideTo_k _ _ _ _)
    | dsimp only
    | apply rfl
    | (with_reducible refine Kept.by' (by with_reducible assumption) ?_ ?_)
    | split
theorem execSetQuota_k (a0) (a1) (s : State) {t : State} (h : execSetQuota a0 a1 s = .next t) : Kept [.regs, .ev, .mem, .host, .ch, .slices, .land, .rm, .out, .draws] s t := by
  unfold execSetQuota at h
  injection h with h
  subst h
  try dsimp -proj only
  repeat' first
    | with_reducible assumption
    | with_reducible apply Kept.refl
    | with_reducible apply Kept.ite
    | with_reducible apply Kept.ite1
    | with_reducible apply Kept.ite2
    | with_reducible apply Kept.by' (raise_k _ _ _)
    | with_reducible apply Kept.by' (adminDefer_k _ _ _ _ _)
    | with_reducible apply Kept.by' (failed_k _ _)
    | with_reducible apply Kept.by' (Kept.eq1 (failed_k _ _) (by assumption))
    | with_reducible apply Kept.by' (reclaimCheck_k _)
    | with_reducible apply ownerCmd_k
    | with_reducible apply Kept.by' (slUpd_k _ _ _)
    | with_reducible apply Kept.by' (reclaim_k _ _ _ _)
    | with_reducible apply Kept.by' (Kept.eq1 (reclaim_k _ _ _ _) (by assumption))
    | (intro _; intros)
    | with_reducible apply Kept.getD
    | dsimp only
    | exact fun h => memPuts_wf h
    | exact fun h => memClear_wf h
    | exact memPuts_wf (by assumption)
    | exact memClear_wf (by assumption)
    | exact fun h => filter_wf _ h
    | exact fun h => h
    | apply rfl
    | (with_reducible refine Kept.by' (by with_reducible assumption) ?_ ?_)
    | split
    | with_reducible apply Kept.set_mem
    | with_reducible apply Kept.set_ch
    | (refine Kept.of ⟨fun p hp => ?_⟩ rfl rfl rfl (congrArg AccSt.own rfl); cases p <;> first | rfl | cases hp)
theorem execFtSrcCtlWrite_k (a0) (a1) (a2) (s : State) {t : State} (h : execFtSrcCtlWrite a0 a1 a2 s = .next t) : Kept [.regs, .time, .acc, .ev, .out] s t := by
  unfold execFtSrcCtlWrite at h
  injection h with h
  subst h
  try dsimp -proj only
  repeat' first
    | with_reducible assumption
    | with_reducible apply Kept.refl
    | with_reducible apply Kept.ite
    | with_reducible apply gate_k
    | with_reducible apply Kept.by' (srcCtlWrite_k _ _ _)
    | (intro _; intros)
    | dsimp only
    | apply rfl
    | (with_reducible refine Kept.by' (by with_reducible assumption) ?_ ?_)
    | split
theorem execTableRead_k (a0) (a1) (a2) (a3) (s : State) {t : State} (h : execTableRead a0 a1 a2 a3 s = .next t) : Kept [.regs, .acc, .ev, .stairs, .lpm, .land, .out] s t := by
  unfold execTableRead at h
  injection h with h
  subst h
  try dsimp -proj only
  repeat' first
    | with_reducible assumption
    | with_reducible apply Kept.refl
    | with_reducible apply Kept.ite
    | with_reducible apply Kept.by' (tblCmdRow_k _ _ _ _ _ _ _)
    | dsimp only
    | apply rfl
    | (with_reducible refine Kept.by' (by with_reducible assumption) ?_ ?_)
    | split
theorem execDepartureRelease_k (a0) (s : State) {t : State} (h : execDepartureRelease a0 s = .next t) : Kept [.regs, .ev, .land] s t := by
  unfold execDepartureRelease at h
  injection h with h
  subst h
  try dsimp -proj only
  repeat' first
    | with_reducible assumption
    | with_reducible apply Kept.refl
    | with_reducible apply Kept.ite
    | with_reducible apply Kept.by' (lateFiring_k _)
    | with_reducible apply Kept.by' (nodeUpd_k _ _ _ _)
    | dsimp only
    | apply rfl
    | (with_reducible refine Kept.by' (by with_reducible assumption) ?_ ?_)
    | split
theorem execLoadBusyTimeout_k (a0) (a1) (a2) (s : State) {t : State} (h : execLoadBusyTimeout a0 a1 a2 s = .next t) : Kept [.regs] s t := by
  unfold execLoadBusyTimeout at h
  injection h with h
  subst h
  try dsimp -proj only
  repeat' first
    | with_reducible assumption
    | with_reducible apply Kept.refl
    | with_reducible apply Kept.ite
    | with_reducible apply Kept.by' (ucErr_k _ _ _ _ _)
    | dsimp only
    | apply rfl
    | (with_reducible refine Kept.by' (by with_reducible assumption) ?_ ?_)
    | split
theorem execWriteNw_k (a0) (a1) (a2) (a3) (a4) (a5) (s : State) {t : State} (h : execWriteNw a0 a1 a2 a3 a4 a5 s = .next t) : Kept [.regs, .acc, .ev, .stairs, .golden, .out] s t := by
  unfold execWriteNw at h
  injection h with h
  subst h
  try dsimp -proj only
  repeat' first
    | with_reducible assumption
    | with_reducible apply Kept.refl
    | with_reducible apply Kept.ite
    | with_reducible apply gate_k
    | with_reducible apply Kept.by' (ucCmdWrite_k _ _ _ _ _)
    | (intro _; intros)
    | dsimp only
    | apply rfl
    | (with_reducible refine Kept.by' (by with_reducible assumption) ?_ ?_)
    | split
theorem execSlotPerstRelease_k (a0) (s : State) {t : State} (h : execSlotPerstRelease a0 s = .next t) : Kept [.host, .out] s t := by
  unfold execSlotPerstRelease at h
  injection h with h
  subst h
  try dsimp -proj only
  repeat' first
    | with_reducible assumption
    | with_reducible apply Kept.refl
    | with_reducible apply Kept.ite
    | with_reducible apply Kept.by' (slotPerst_k _ _ _)
    | with_reducible apply Kept.by' (rpUpd_k _ _ _)
    | dsimp only
    | apply rfl
    | (with_reducible refine Kept.by' (by with_reducible assumption) ?_ ?_)
    | split
theorem execGleanWaitExpire_k (a0) (s : State) {t : State} (h : execGleanWaitExpire a0 s = .next t) : Kept [.regs, .ev, .land] s t := by
  unfold execGleanWaitExpire at h
  injection h with h
  subst h
  try dsimp -proj only
  repeat' first
    | with_reducible assumption
    | with_reducible apply Kept.refl
    | with_reducible apply Kept.ite
    | with_reducible apply Kept.by' (bump_k _ _ _)
    | with_reducible apply Kept.by' (raiseLim_k _ _ _ _ _)
    | with_reducible apply Kept.by' (entryUpd_k _ _ _ _)
    | (intro _; intros)
    | dsimp only
    | apply rfl
    | (with_reducible refine Kept.by' (by with_reducible assumption) ?_ ?_)
    | split
    | with_reducible apply Kept.set_land
theorem execKeyDerived_k (a0) (a1) (a2) (a3) (s : State) {t : State} (h : execKeyDerived a0 a1 a2 a3 s = .next t) : Kept [.regs, .ev, .mem, .host, .ch, .slices, .net, .land, .cy, .rm, .out, .draws] s t := by
  unfold execKeyDerived at h
  injection h with h
  subst h
  try dsimp -proj only
  repeat' first
    | with_reducible assumption
    | with_reducible apply Kept.refl
    | with_reducible apply Kept.ite
    | with_reducible apply Kept.by' (bump_k _ _ _)
    | with_reducible apply Kept.by' (cacheFill_k _ _ _ _)
    | with_reducible apply Kept.by' (asideGo_k _ _)
    | with_reducible apply Kept.by' (cyUpd_k _ _)
    | with_reducible apply Kept.foldl
    | with_reducible apply Kept.foldl1
    | (intro _; intros)
    | dsimp only
    | apply rfl
    | (with_reducible refine Kept.by' (by with_reducible assumption) ?_ ?_)
    | split
theorem execMsgTimeout_k (a0) (s : State) {t : State} (h : execMsgTimeout a0 s = .next t) : Kept [.regs, .ev, .mem, .host, .ch, .slices, .rm, .out] s t := by
  unfold execMsgTimeout at h
  injection h with h
  subst h
  try dsimp -proj only
  repeat' first
    | with_reducible assumption
    | with_reducible apply Kept.refl
    | with_reducible apply Kept.ite
    | with_reducible apply Kept.by' (qpError_k _ _ _ _ _)
    | dsimp only
    | apply rfl
    | (with_reducible refine Kept.by' (by with_reducible assumption) ?_ ?_)
    | split
theorem execFwRevert_k (a0) (a1) (a2) (s : State) {t : State} (h : execFwRevert a0 a1 a2 s = .next t) : Kept [.regs, .acc, .ev, .mem, .oz, .out] s t := by
  unfold execFwRevert at h
  injection h with h
  subst h
  try dsimp -proj only
  repeat' first
    | with_reducible assumption
    | with_reducible apply Kept.refl
    | with_reducible apply Kept.ite
    | with_reducible apply mbRow_k
    | (intro _; intros)
    | with_reducible apply Kept.by' (mbFwRevert_k (by assumption))
    | with_reducible apply Kept.by' (mbRow_k _ _ _ _ _ _ _)
    | dsimp only
    | apply rfl
    | (with_reducible refine Kept.by' (by with_reducible assumption) ?_ ?_)
    | split
theorem execReadNw_k (a0) (a1) (a2) (a3) (a4) (a5) (s : State) {t : State} (h : execReadNw a0 a1 a2 a3 a4 a5 s = .next t) : Kept [.regs, .acc, .ev, .stairs, .golden, .out] s t := by
  unfold execReadNw at h
  injection h with h
  subst h
  try dsimp -proj only
  repeat' first
    | with_reducible assumption
    | with_reducible apply Kept.refl
    | with_reducible apply Kept.ite
    | with_reducible apply gate_k
    | with_reducible apply Kept.by' (ucCmdWrite_k _ _ _ _ _)
    | (intro _; intros)
    | dsimp only
    | apply rfl
    | (with_reducible refine Kept.by' (by with_reducible assumption) ?_ ?_)
    | split
theorem execOverflowCopyDone_k (a0) (a1) (s : State) {t : State} (h : execOverflowCopyDone a0 a1 s = .next t) : Kept [.regs, .ev, .land] s t := by
  unfold execOverflowCopyDone at h
  injection h with h
  subst h
  try dsimp -proj only
  repeat' first
    | with_reducible assumption
    | with_reducible apply Kept.refl
    | with_reducible apply Kept.ite
    | with_reducible apply Kept.by' (copyDone_k _ _ _)
    | dsimp only
    | apply rfl
    | (with_reducible refine Kept.by' (by with_reducible assumption) ?_ ?_)
    | split
theorem execDbgRdMem_k (a0) (a1) (a2) (a3) (a4) (s : State) {t : State} (h : execDbgRdMem a0 a1 a2 a3 a4 s = .next t) : Kept [.regs, .acc, .ev, .mem, .tils, .out, .draws] s t := by
  unfold execDbgRdMem at h
  injection h with h
  subst h
  try dsimp -proj only
  repeat' first
    | with_reducible assumption
    | with_reducible apply Kept.refl
    | with_reducible apply Kept.ite
    | with_reducible apply Kept.by' (dbgRow_k _ _ _ _ _ _ _ _)
    | dsimp only
    | apply rfl
    | (with_reducible refine Kept.by' (by with_reducible assumption) ?_ ?_)
    | split
theorem execTableUpdate_k (a0) (a1) (a2) (a3) (s : State) {t : State} (h : execTableUpdate a0 a1 a2 a3 s = .next t) : Kept [.regs, .acc, .ev, .stairs, .lpm, .land, .out] s t := by
  unfold execTableUpdate at h
  injection h with h
  subst h
  try dsimp -proj only
  repeat' first
    | with_reducible assumption
    | with_reducible apply Kept.refl
    | with_reducible apply Kept.ite
    | with_reducible apply Kept.by' (tblCmdRow_k _ _ _ _ _ _ _)
    | dsimp only
    | apply rfl
    | (with_reducible refine Kept.by' (by with_reducible assumption) ?_ ?_)
    | split
theorem execArrayReadSnap_k (a0) (a1) (a2) (a3) (a4) (s : State) {t : State} (h : execArrayReadSnap a0 a1 a2 a3 a4 s = .next t) : Kept [.regs, .acc, .ev, .stairs, .land, .out] s t := by
  unfold execArrayReadSnap at h
  injection h with h
  subst h
  try dsimp -proj only
  repeat' first
    | with_reducible assumption
    | with_reducible apply Kept.refl
    | with_reducible apply Kept.ite
    | with_reducible apply Kept.by' (arrCmdRow_k _ _ _ _ _ _ _)
    | dsimp only
    | apply rfl
    | (with_reducible refine Kept.by' (by with_reducible assumption) ?_ ?_)
    | split
theorem execDisableChannel_k (a0) (a1) (s : State) {t : State} (h : execDisableChannel a0 a1 s = .next t) : Kept [.regs, .ev, .mem, .host, .ch, .slices, .rm, .out, .draws] s t := by
  unfold execDisableChannel at h
  injection h with h
  subst h
  try dsimp -proj only
  repeat' first
    | with_reducible assumption
    | with_reducible apply Kept.refl
    | with_reducible apply Kept.ite
    | with_reducible apply runAdmin_k
    | with_reducible apply Kept.by' (failed_k _ _)
    | with_reducible apply Kept.by' (Kept.eq1 (failed_k _ _) (by assumption))
    | with_reducible apply Kept.by' (holdOr_k _ _ _ _)
    | (intro _; intros)
    | dsimp only
    | apply rfl
    | (with_reducible refine Kept.by' (by with_reducible assumption) ?_ ?_)
    | split
theorem execFtPhaseInLoWrite_k (a0) (a1) (a2) (s : State) {t : State} (h : execFtPhaseInLoWrite a0 a1 a2 s = .next t) : Kept [.regs, .acc, .ev, .out] s t := by
  unfold execFtPhaseInLoWrite at h
  injection h with h
  subst h
  try dsimp -proj only
  repeat' first
    | with_reducible assumption
    | with_reducible apply Kept.refl
    | with_reducible apply Kept.ite
    | with_reducible apply gate_k
    | with_reducible apply Kept.by' (loHold_k _ _ _ _)
    | (intro _; intros)
    | dsimp only
    | apply rfl
    | (with_reducible refine Kept.by' (by with_reducible assumption) ?_ ?_)
    | split
theorem execTrainFailRetry_k (a0) (s : State) {t : State} (h : execTrainFailRetry a0 s = .next t) : Kept [.regs, .ev, .ch, .net, .land, .rm, .out] s t := by
  unfold execTrainFailRetry at h
  injection h with h
  subst h
  try dsimp -proj only
  repeat' first
    | with_reducible assumption
    | with_reducible apply Kept.refl
    | with_reducible apply Kept.ite
    | with_reducible apply Kept.by' (setPortState_k _ _ _)
    | with_reducible apply Kept.by' (portUpd_k _ _ _)
    | dsimp only
    | apply rfl
    | (with_reducible refine Kept.by' (by with_reducible assumption) ?_ ?_)
    | split
theorem execCompletionTimeout_k (a0) (a1) (s : State) {t : State} (h : execCompletionTimeout a0 a1 s = .next t) : Kept [.regs, .ev, .mem, .host, .ch, .slices, .land, .rm, .out, .draws] s t := by
  unfold execCompletionTimeout at h
  injection h with h
  subst h
  try dsimp -proj only
  repeat' first
    | with_reducible assumption
    | with_reducible apply Kept.refl
    | with_reducible apply Kept.ite
    | with_reducible apply Kept.by' (readTimeout_k _ _ _ _)
    | with_reducible apply Kept.by' (tagFree_k _ _ _)
    | with_reducible apply Kept.by' (readFail_k _ _ _)
    | dsimp only
    | apply rfl
    | (with_reducible refine Kept.by' (by with_reducible assumption) ?_ ?_)
    | split
theorem execNvmeWrite_k (a0) (a1) (a2) (a3) (a4) (s : State) {t : State} (h : execNvmeWrite a0 a1 a2 a3 a4 s = .next t) : Kept [.regs, .ev, .mem, .host, .ch, .slices, .sv, .out, .draws] s t := by
  unfold execNvmeWrite at h
  injection h with h
  subst h
  try dsimp -proj only
  repeat' first
    | with_reducible assumption
    | with_reducible apply Kept.refl
    | with_reducible apply Kept.ite
    | with_reducible apply ioRow_k
    | (intro _; intros)
    | with_reducible apply Kept.by' (ioRow_k _ _ _ _ _ _ _ _ _)
    | with_reducible apply Kept.by' (beginWrite_k _ _ _ _ _)
    | dsimp only
    | apply rfl
    | (with_reducible refine Kept.by' (by with_reducible assumption) ?_ ?_)
    | split
theorem execRegRegion_k (a0) (a1) (s : State) {t : State} (h : execRegRegion a0 a1 s = .next t) : Kept [.mem, .host, .ch, .slices, .rm, .out, .draws] s t := by
  unfold execRegRegion at h
  injection h with h
  subst h
  try dsimp -proj only
  repeat' first
    | with_reducible assumption
    | with_reducible apply Kept.refl
    | with_reducible apply Kept.ite
    | with_reducible apply Kept.ite1
    | with_reducible apply Kept.ite2
    | with_reducible apply runAdmin_k
    | with_reducible apply Kept.by' (failed_k _ _)
    | with_reducible apply Kept.by' (Kept.eq1 (failed_k _ _) (by assumption))
    | with_reducible apply Kept.by' (draw_k _)
    | with_reducible apply Kept.by' (Kept.eq2 (draw_k _) (by assumption))
    | with_reducible apply Kept.by' (rmUpd_k _ _)
    | (intro _; intros)
    | dsimp only
    | apply rfl
    | (with_reducible refine Kept.by' (by with_reducible assumption) ?_ ?_)
    | split
theorem execBpClr_k (a0) (a1) (a2) (a3) (s : State) {t : State} (h : execBpClr a0 a1 a2 a3 s = .next t) : Kept [.regs, .acc, .ev, .mem, .tils, .out, .draws] s t := by
  unfold execBpClr at h
  injection h with h
  subst h
  try dsimp -proj only
  repeat' first
    | with_reducible assumption
    | with_reducible apply Kept.refl
    | with_reducible apply Kept.ite
    | with_reducible apply Kept.by' (dbgRow_k _ _ _ _ _ _ _ _)
    | dsimp only
    | apply rfl
    | (with_reducible refine Kept.by' (by with_reducible assumption) ?_ ?_)
    | split
theorem execTsFifoPop_k (a0) (a1) (s : State) {t : State} (h : execTsFifoPop a0 a1 s = .next t) : Kept [.acc, .net, .out] s t := by
  unfold execTsFifoPop at h
  injection h with h
  subst h
  try dsimp -proj only
  repeat' first
    | with_reducible assumption
    | with_reducible apply Kept.refl
    | with_reducible apply Kept.ite
    | with_reducible apply Kept.ite1
    | with_reducible apply Kept.ite2
    | with_reducible apply Kept.by' (fifoRead_k _ _ _)
    | with_reducible apply Kept.by' (Kept.eq1 (fifoRead_k _ _ _) (by assumption))
    | with_reducible apply Kept.by' (emit_k _ _)
    | dsimp only
    | apply rfl
    | (with_reducible refine Kept.by' (by with_reducible assumption) ?_ ?_)
    | split
theorem execQpFetchComplete_k (a0) (a1) (s : State) {t : State} (h : execQpFetchComplete a0 a1 s = .next t) : Kept [.regs, .ev, .mem, .host, .ch, .slices, .stairs, .sheaf, .land, .rm, .out, .draws] s t := by
  unfold execQpFetchComplete at h
  injection h with h
  subst h
  try dsimp -proj only
  repeat' first
    | with_reducible assumption
    | with_reducible apply Kept.refl
    | with_reducible apply Kept.ite
    | with_reducible apply Kept.ite1
    | with_reducible apply Kept.ite2
    | with_reducible apply Kept.by' (raise_k _ _ _)
    | with_reducible apply Kept.by' (rmUpd_k _ _)
    | with_reducible apply Kept.by' (qpDropLine_k _ _)
    | with_reducible apply Kept.by' (qpError_k _ _ _ _ _)
    | with_reducible apply Kept.by' (sliceFault_k _ _ _)
    | with_reducible apply Kept.by' (qpUnpark_k _ _)
    | with_reducible apply Kept.by' (spillRead_k _ _ _ _)
    | with_reducible apply Kept.by' (Kept.eq1 (spillRead_k _ _ _ _) (by assumption))
    | (intro _; intros)
    | with_reducible apply Kept.getD
    | dsimp only
    | apply rfl
    | (with_reducible refine Kept.by' (by with_reducible assumption) ?_ ?_)
    | split
theorem execThCancel_k (a0) (a1) (a2) (a3) (a4) (s : State) {t : State} (h : execThCancel a0 a1 a2 a3 a4 s = .next t) : Kept [.regs, .acc, .ev, .mem, .tils, .out, .draws] s t := by
  unfold execThCancel at h
  injection h with h
  subst h
  try dsimp -proj only
  repeat' first
    | with_reducible assumption
    | with_reducible apply Kept.refl
    | with_reducible apply Kept.ite
    | with_reducible apply Kept.by' (thCtlRow_k _ _ _ _ _ _ _)
    | dsimp only
    | apply rfl
    | (with_reducible refine Kept.by' (by with_reducible assumption) ?_ ?_)
    | split
theorem execFirmwareActivationDone_k (a0) (s : State) {t : State} (h : execFirmwareActivationDone a0 s = .next t) : Kept [.regs, .ev, .mem, .host, .ch, .slices, .sv, .out, .draws] s t := by
  unfold execFirmwareActivationDone at h
  injection h with h
  subst h
  try dsimp -proj only
  repeat' first
    | with_reducible assumption
    | with_reducible apply Kept.refl
    | with_reducible apply Kept.ite
    | with_reducible apply Kept.ite2
    | with_reducible apply Kept.by' (finish_k _ _ _ _ _ _)
    | with_reducible apply Kept.by' (raise_k _ _ _)
    | dsimp only
    | apply rfl
    | (with_reducible refine Kept.by' (by with_reducible assumption) ?_ ?_)
    | split
theorem execUnstableEnd_k (s : State) {t : State} (h : execUnstableEnd s = .next t) : Kept [.regs, .ev, .mem, .host, .ch, .slices, .stairs, .unit, .oz, .cy, .rm, .sv, .out, .draws] s t := by
  unfold execUnstableEnd at h
  injection h with h
  subst h
  try dsimp -proj only
  repeat' first
    | with_reducible assumption
    | with_reducible apply Kept.refl
    | with_reducible apply Kept.ite
    | with_reducible apply Kept.by' (wrF_k _ _ _ _ _)
    | with_reducible apply Kept.by' (raisePhase_k _ _ _ _)
    | with_reducible apply Kept.by' (ozUpd_k _ _ ?_)
    | with_reducible apply Kept.by' (ozResume_k _)
    | (intro _; intros)
    | dsimp only
    | exact OzLe.same rfl rfl rfl
    | apply rfl
    | (with_reducible refine Kept.by' (by with_reducible assumption) ?_ ?_)
    | split
theorem execNvmeFlush_k (a0) (a1) (a2) (s : State) {t : State} (h : execNvmeFlush a0 a1 a2 s = .next t) : Kept [.regs, .ev, .mem, .host, .ch, .slices, .sv, .out, .draws] s t := by
  unfold execNvmeFlush at h
  injection h with h
  subst h
  try dsimp -proj only
  repeat' first
    | with_reducible assumption
    | with_reducible apply Kept.refl
    | with_reducible apply Kept.ite
    | with_reducible apply Kept.ite1
    | with_reducible apply Kept.ite2
    | with_reducible apply Kept.by' (fetchCmd_k _ _ _ _)
    | with_reducible apply Kept.by' (Kept.eq2 (fetchCmd_k _ _ _ _) (by assumption))
    | with_reducible apply Kept.by' (otherOp_k _ _ _ _ _)
    | with_reducible apply Kept.by' (flushStart_k _ _ _ _)
    | dsimp only
    | apply rfl
    | (with_reducible refine Kept.by' (by with_reducible assumption) ?_ ?_)
    | split
theorem execFirmwareImageDownload_k (a0) (a1) (a2) (s : State) {t : State} (h : execFirmwareImageDownload a0 a1 a2 s = .next t) : Kept [.regs, .ev, .mem, .host, .ch, .slices, .oz, .sv, .out, .draws] s t := by
  unfold execFirmwareImageDownload at h
  injection h with h
  subst h
  try dsimp -proj only
  repeat' first
    | with_reducible assumption
    | with_reducible apply Kept.refl
    | with_reducible apply Kept.ite
    | with_reducible apply Kept.ite1
    | with_reducible apply Kept.by' (fwBegin_k _ _)
    | with_reducible apply Kept.by' (Kept.eq1 (fwBegin_k _ _) (by assumption))
    | with_reducible apply Kept.by' (fwWrite_k _ _ _ _)
    | with_reducible apply Kept.by' (Kept.eq1 (fwWrite_k _ _ _ _) (by assumption))
    | with_reducible apply Kept.by' (finish_k _ _ _ _ _ _)
    | with_reducible apply Kept.by' (svFetch_k _ _ _ _ _)
    | with_reducible apply Kept.by' (prpRead_k _ _ _ _ _ _)
    | with_reducible apply nvmeAdmin_k
    | (intro _; intros)
    | dsimp only
    | apply rfl
    | (with_reducible refine Kept.by' (by with_reducible assumption) ?_ ?_)
    | split
theorem execChTimer_k (a0) (a1) (a2) (a3) (a4) (s : State) {t : State} (h : execChTimer a0 a1 a2 a3 a4 s = .next t) : Kept [.regs, .tils, .out] s t := by
  unfold execChTimer at h
  injection h with h
  subst h
  try dsimp -proj only
  repeat' first
    | with_reducible assumption
    | with_reducible apply Kept.refl
    | with_reducible apply Kept.ite
    | with_reducible apply Kept.by' (thTrap_k _ _ _ _)
    | with_reducible apply Kept.by' (chReply_k _ _ _ _ _)
    | with_reducible apply Kept.by' (thUpd_k _ _ _ _)
    | dsimp only
    | apply rfl
    | (with_reducible refine Kept.by' (by with_reducible assumption) ?_ ?_)
    | split
theorem execCqArm_k (a0) (a1) (a2) (a3) (a4) (a5) (s : State) {t : State} (h : execCqArm a0 a1 a2 a3 a4 a5 s = .next t) : Kept [.regs, .ev, .mem, .host, .ch, .slices, .out] s t := by
  unfold execCqArm at h
  injection h with h
  subst h
  try dsimp -proj only
  repeat' first
    | with_reducible assumption
    | with_reducible apply Kept.refl
    | with_reducible apply Kept.ite
    | with_reducible apply onPage_k
    | with_reducible apply Kept.by' (armPut_k _ _ _ _ _ _)
    | (intro _; intros)
    | dsimp only
    | apply rfl
    | (with_reducible refine Kept.by' (by with_reducible assumption) ?_ ?_)
    | split
theorem execCqHeadDoorbell_k (a0) (a1) (a2) (a3) (s : State) {t : State} (h : execCqHeadDoorbell a0 a1 a2 a3 s = .next t) : Kept [.regs, .mem, .host, .ch, .slices, .sv, .out, .draws] s t := by
  unfold execCqHeadDoorbell at h
  injection h with h
  subst h
  try dsimp -proj only
  repeat' first
    | with_reducible assumption
    | with_reducible apply Kept.refl
    | with_reducible apply Kept.ite
    | with_reducible apply Kept.by' (cqDoorbell_k _ _ _ _ _)
    | dsimp only
    | apply rfl
    | (with_reducible refine Kept.by' (by with_reducible assumption) ?_ ?_)
    | split
theorem execTableCommandResume_k (a0) (s : State) {t : State} (h : execTableCommandResume a0 s = .next t) : Kept [.regs, .ev, .stairs, .lpm, .sheaf, .land] s t := by
  unfold execTableCommandResume at h
  injection h with h
  subst h
  try dsimp -proj only
  repeat' first
    | with_reducible assumption
    | with_reducible apply Kept.refl
    | with_reducible apply Kept.ite
    | with_reducible apply Kept.by' (tblResume_k _ _)
    | dsimp only
    | apply rfl
    | (with_reducible refine Kept.by' (by with_reducible assumption) ?_ ?_)
    | split
theorem execFrameTransmit_k (a0) (s : State) {t : State} (h : execFrameTransmit a0 s = .next t) : Kept [.regs, .ev, .ch, .net, .land, .out] s t := by
  unfold execFrameTransmit at h
  injection h with h
  subst h
  try dsimp -proj only
  repeat' first
    | with_reducible assumption
    | with_reducible apply Kept.refl
    | with_reducible apply Kept.ite
    | with_reducible apply Kept.by' (frameTransmit_k _ _)
    | dsimp only
    | apply rfl
    | (with_reducible refine Kept.by' (by with_reducible assumption) ?_ ?_)
    | split
theorem execBusMasterDisable_k (a0) (a1) (s : State) {t : State} (h : execBusMasterDisable a0 a1 s = .next t) : Kept [.regs, .ev, .mem, .host, .ch, .slices, .land, .cy, .rm, .sv, .out, .draws] s t := by
  unfold execBusMasterDisable at h
  injection h with h
  subst h
  try dsimp -proj only
  repeat' first
    | with_reducible assumption
    | with_reducible apply Kept.refl
    | with_reducible apply Kept.ite
    | with_reducible apply Kept.by' (fnBmeTo_k _ _ _ _)
    | with_reducible apply Kept.by' (tdispBreak_k _ _ _)
    | dsimp only
    | apply rfl
    | (with_reducible refine Kept.by' (by with_reducible assumption) ?_ ?_)
    | split
theorem execSlotControlWrite_k (a0) (a1) (a2) (a3) (s : State) {t : State} (h : execSlotControlWrite a0 a1 a2 a3 s = .next t) : Kept [.regs, .acc, .ev, .host, .ch, .land, .rm, .out] s t := by
  unfold execSlotControlWrite at h
  injection h with h
  subst h
  try dsimp -proj only
  repeat' first
    | with_reducible assumption
    | with_reducible apply Kept.refl
    | with_reducible apply Kept.ite
    | with_reducible apply gate_k
    | with_reducible apply Kept.by' (slotWrite_k _ _ _)
    | (intro _; intros)
    | dsimp only
    | apply rfl
    | (with_reducible refine Kept.by' (by with_reducible assumption) ?_ ?_)
    | split
theorem execLaneGo_k (a0) (a1) (a2) (a3) (s : State) {t : State} (h : execLaneGo a0 a1 a2 a3 s = .next t) : Kept [.regs, .cy, .draws] s t := by
  unfold execLaneGo at h
  injection h with h
  subst h
  try dsimp -proj only
  repeat' first
    | with_reducible assumption
    | with_reducible apply Kept.refl
    | with_reducible apply Kept.ite
    | with_reducible apply Kept.by' (laneCtlWrite_k _ _ _ _)
    | dsimp only
    | apply rfl
    | (with_reducible refine Kept.by' (by with_reducible assumption) ?_ ?_)
    | split
theorem execKeyImport_k (a0) (a1) (a2) (s : State) {t : State} (h : execKeyImport a0 a1 a2 s = .next t) : Kept [.regs, .ev, .mem, .host, .ch, .slices, .cy, .out, .draws] s t := by
  unfold execKeyImport at h
  injection h with h
  subst h
  try dsimp -proj only
  repeat' first
    | with_reducible assumption
    | with_reducible apply Kept.refl
    | with_reducible apply Kept.ite
    | with_reducible apply Kept.ite1
    | with_reducible apply runAdmin_k
    | with_reducible apply adminRead_k
    | with_reducible apply Kept.by' (useSlot_k (by assumption))
    | with_reducible apply Kept.by' (failed_k _ _)
    | with_reducible apply Kept.by' (Kept.eq1 (failed_k _ _) (by assumption))
    | with_reducible apply Kept.by' (keyUnwrap_k _ _ _ _ _ _)
    | with_reducible apply Kept.by' (Kept.eq1 (keyUnwrap_k _ _ _ _ _ _) (by assumption))
    | (intro _; intros)
    | dsimp only
    | apply rfl
    | (with_reducible refine Kept.by' (by with_reducible assumption) ?_ ?_)
    | split
theorem execPowerGoodDeassert_k (s : State) {t : State} (h : execPowerGoodDeassert s = .next t) : Kept [.regs, .snap, .time, .acc, .ev, .mem, .host, .ch, .slices, .net, .stairs, .golden, .lpm, .sheaf, .land, .unit, .tils, .tm, .oz, .cy, .rm, .sv, .out] s t := by
  unfold execPowerGoodDeassert at h
  injection h with h
  subst h
  try dsimp -proj only
  repeat' first
    | with_reducible assumption
    | with_reducible apply Kept.refl
    | with_reducible apply Kept.ite
    | with_reducible apply Kept.by' (coldReset_k _ _)
    | dsimp only
    | apply rfl
    | (with_reducible refine Kept.by' (by with_reducible assumption) ?_ ?_)
    | split
theorem execDestroyChannel_k (a0) (a1) (s : State) {t : State} (h : execDestroyChannel a0 a1 s = .next t) : Kept [.regs, .ev, .mem, .host, .ch, .slices, .rm, .out, .draws] s t := by
  unfold execDestroyChannel at h
  injection h with h
  subst h
  try dsimp -proj only
  repeat' first
    | with_reducible assumption
    | with_reducible apply Kept.refl
    | with_reducible apply Kept.ite
    | with_reducible apply runAdmin_k
    | with_reducible apply Kept.by' (failed_k _ _)
    | with_reducible apply Kept.by' (Kept.eq1 (failed_k _ _) (by assumption))
    | with_reducible apply Kept.by' (resetChan_k _ _ _)
    | with_reducible apply Kept.by' (adminDefer_k _ _ _ _ _)
    | (intro _; intros)
    | dsimp only
    | apply rfl
    | (with_reducible refine Kept.by' (by with_reducible assumption) ?_ ?_)
    | split
theorem execWinSwap_k (a0) (a1) (a2) (a3) (s : State) {t : State} (h : execWinSwap a0 a1 a2 a3 s = .next t) : Kept [.regs, .acc, .ev, .host, .out] s t := by
  unfold execWinSwap at h
  injection h with h
  subst h
  try dsimp -proj only
  repeat' first
    | with_reducible assumption
    | with_reducible apply Kept.refl
    | with_reducible apply Kept.ite
    | with_reducible apply gate_k
    | with_reducible apply Kept.by' (winSwapWrite_k _ _ _)
    | (intro _; intros)
    | dsimp only
    | apply rfl
    | (with_reducible refine Kept.by' (by with_reducible assumption) ?_ ?_)
    | split
theorem execTableDelete_k (a0) (a1) (a2) (a3) (s : State) {t : State} (h : execTableDelete a0 a1 a2 a3 s = .next t) : Kept [.regs, .acc, .ev, .stairs, .lpm, .land, .out] s t := by
  unfold execTableDelete at h
  injection h with h
  subst h
  try dsimp -proj only
  repeat' first
    | with_reducible assumption
    | with_reducible apply Kept.refl
    | with_reducible apply Kept.ite
    | with_reducible apply Kept.by' (tblCmdRow_k _ _ _ _ _ _ _)
    | dsimp only
    | apply rfl
    | (with_reducible refine Kept.by' (by with_reducible assumption) ?_ ?_)
    | split
theorem execCctxCreate_k (a0) (a1) (a2) (s : State) {t : State} (h : execCctxCreate a0 a1 a2 s = .next t) : Kept [.regs, .ev, .mem, .host, .ch, .slices, .cy, .out, .draws] s t := by
  unfold execCctxCreate at h
  injection h with h
  subst h
  try dsimp -proj only
  repeat' first
    | with_reducible assumption
    | with_reducible apply Kept.refl
    | with_reducible apply Kept.ite
    | with_reducible apply Kept.ite1
    | with_reducible apply runAdmin_k
    | with_reducible apply adminRead_k
    | with_reducible apply Kept.by' (useSlot_k (by assumption))
    | with_reducible apply Kept.by' (failed_k _ _)
    | with_reducible apply Kept.by' (Kept.eq1 (failed_k _ _) (by assumption))
    | with_reducible apply Kept.by' (cctxNew_k _ _ _ _ _ _)
    | with_reducible apply Kept.by' (Kept.eq1 (cctxNew_k _ _ _ _ _ _) (by assumption))
    | (intro _; intros)
    | dsimp only
    | apply rfl
    | (with_reducible refine Kept.by' (by with_reducible assumption) ?_ ?_)
    | split
theorem execHandoverEnd_k (s : State) {t : State} (h : execHandoverEnd s = .next t) : Kept [.regs, .ev, .ch, .net, .stairs, .sheaf, .land, .unit, .tils, .cy, .rm, .out, .draws] s t := by
  unfold execHandoverEnd at h
  injection h with h
  subst h
  try dsimp -proj only
  repeat' first
    | with_reducible assumption
    | with_reducible apply Kept.refl
    | with_reducible apply Kept.ite
    | with_reducible apply Kept.by' (declare'_k _ _ _)
    | with_reducible apply Kept.by' (unitUpd_k _ _)
    | with_reducible apply Kept.by' (freeOwn_k _ _)
    | with_reducible apply Kept.by' (dropSent_k _ _)
    | with_reducible apply Kept.by' (tilUpd_k _ _ _)
    | with_reducible apply Kept.by' (wrN_k _ _ _)
    | with_reducible apply Kept.by' (wrF_k _ _ _ _ _)
    | with_reducible apply Kept.by' (raise_k _ _ _)
    | dsimp only
    | apply rfl
    | (with_reducible refine Kept.by' (by with_reducible assumption) ?_ ?_)
    | split
theorem execJournalReplay_k (a0) (a1) (a2) (a3) (s : State) {t : State} (h : execJournalReplay a0 a1 a2 a3 s = .next t) : Kept [.regs, .ev, .mem, .sv] s t := by
  unfold execJournalReplay at h
  injection h with h
  subst h
  try dsimp -proj only
  repeat' first
    | with_reducible assumption
    | with_reducible apply Kept.refl
    | with_reducible apply Kept.ite
    | with_reducible apply Kept.by' (showPools_k _)
    | with_reducible apply Kept.by' (poolUpd_k _ _ _)
    | with_reducible apply Kept.by' (replayRecord_k _ _ _)
    | with_reducible apply Kept.by' (raise_k _ _ _)
    | with_reducible apply Kept.getD
    | (intro _; intros)
    | with_reducible apply Kept.foldl
    | with_reducible apply Kept.foldl1
    | (intro _; intros)
    | dsimp only
    | apply rfl
    | (with_reducible refine Kept.by' (by with_reducible assumption) ?_ ?_)
    | split
theorem execSignalDetect_k (a0) (a1) (a2) (a3) (s : State) {t : State} (h : execSignalDetect a0 a1 a2 a3 s = .next t) : Kept [.regs, .ev, .ch, .net, .land, .rm, .out] s t := by
  unfold execSignalDetect at h
  injection h with h
  subst h
  try dsimp -proj only
  repeat' first
    | with_reducible assumption
    | with_reducible apply Kept.refl
    | with_reducible apply Kept.ite
    | with_reducible apply Kept.by' (wrF_k _ _ _ _ _)
    | with_reducible apply Kept.by' (rclkMark_k _ _ _)
    | with_reducible apply Kept.by' (portUpd_k _ _ _)
    | with_reducible apply Kept.by' (portStart_k _ _)
    | with_reducible apply Kept.foldl
    | with_reducible apply Kept.foldl1
    | (intro _; intros)
    | dsimp only
    | apply rfl
    | (with_reducible refine Kept.by' (by with_reducible assumption) ?_ ?_)
    | split
theorem execRclkResume_k (a0) (s : State) {t : State} (h : execRclkResume a0 s = .next t) : Kept [.regs, .ev, .out] s t := by
  unfold execRclkResume at h
  injection h with h
  subst h
  try dsimp -proj only
  repeat' first
    | with_reducible assumption
    | with_reducible apply Kept.refl
    | with_reducible apply Kept.ite
    | with_reducible apply Kept.by' (rclkDrive_k _ _)
    | with_reducible apply Kept.by' (wrF_k _ _ _ _ _)
    | with_reducible apply Kept.by' (raise_k _ _ _)
    | dsimp only
    | apply rfl
    | (with_reducible refine Kept.by' (by with_reducible assumption) ?_ ?_)
    | split
theorem execStepCtlWrite_k (a0) (a1) (a2) (a3) (a4) (a5) (s : State) {t : State} (h : execStepCtlWrite a0 a1 a2 a3 a4 a5 s = .next t) : Kept [.regs, .acc, .ev, .stairs, .golden, .out] s t := by
  unfold execStepCtlWrite at h
  injection h with h
  subst h
  try dsimp -proj only
  repeat' first
    | with_reducible assumption
    | with_reducible apply Kept.refl
    | with_reducible apply Kept.ite
    | with_reducible apply gate_k
    | with_reducible apply Kept.by' (stepCtlWrite_k _ _ _ _ _)
    | (intro _; intros)
    | dsimp only
    | apply rfl
    | (with_reducible refine Kept.by' (by with_reducible assumption) ?_ ?_)
    | split
theorem execKsAlarmWrite_k (a0) (a1) (a2) (a3) (s : State) {t : State} (h : execKsAlarmWrite a0 a1 a2 a3 s = .next t) : Kept [.regs, .acc, .ev, .out] s t := by
  unfold execKsAlarmWrite at h
  injection h with h
  subst h
  try dsimp -proj only
  repeat' first
    | with_reducible assumption
    | with_reducible apply Kept.refl
    | with_reducible apply Kept.ite
    | with_reducible apply gate_k
    | with_reducible apply Kept.by' (ksAlarmWrite_k _ _ _)
    | (intro _; intros)
    | dsimp only
    | apply rfl
    | (with_reducible refine Kept.by' (by with_reducible assumption) ?_ ?_)
    | split
theorem execTcamScrub_k (a0) (a1) (a2) (s : State) {t : State} (h : execTcamScrub a0 a1 a2 s = .next t) : Kept [.regs, .ev, .stairs] s t := by
  unfold execTcamScrub at h
  injection h with h
  subst h
  try dsimp -proj only
  repeat' first
    | with_reducible assumption
    | with_reducible apply Kept.refl
    | with_reducible apply Kept.ite
    | with_reducible apply Kept.by' (bump_k _ _ _)
    | with_reducible apply Kept.by' (raise_k _ _ _)
    | with_reducible apply Kept.by' (stairUpd_k _ _ _)
    | (intro _; intros)
    | with_reducible apply Kept.getD
    | dsimp only
    | apply rfl
    | (with_reducible refine Kept.by' (by with_reducible assumption) ?_ ?_)
    | split
theorem execArrayWrite_k (a0) (a1) (a2) (a3) (a4) (s : State) {t : State} (h : execArrayWrite a0 a1 a2 a3 a4 s = .next t) : Kept [.regs, .acc, .ev, .stairs, .land, .out] s t := by
  unfold execArrayWrite at h
  injection h with h
  subst h
  try dsimp -proj only
  repeat' first
    | with_reducible assumption
    | with_reducible apply Kept.refl
    | with_reducible apply Kept.ite
    | with_reducible apply Kept.by' (arrCmdRow_k _ _ _ _ _ _ _)
    | dsimp only
    | apply rfl
    | (with_reducible refine Kept.by' (by with_reducible assumption) ?_ ?_)
    | split
theorem execFreezeComplete_k (a0) (s : State) {t : State} (h : execFreezeComplete a0 s = .next t) : Kept [.regs, .ev, .mem, .host, .ch, .slices, .out] s t := by
  unfold execFreezeComplete at h
  injection h with h
  subst h
  try dsimp -proj only
  repeat' first
    | with_reducible assumption
    | with_reducible apply Kept.refl
    | with_reducible apply Kept.ite
    | with_reducible apply Kept.by' (raise_k _ _ _)
    | with_reducible apply Kept.by' (slUpd_k _ _ _)
    | with_reducible apply Kept.by' (adminWake_k _ _ _ _)
    | dsimp only
    | apply rfl
    | (with_reducible refine Kept.by' (by with_reducible assumption) ?_ ?_)
    | split
theorem execTmRingBind_k (a0) (a1) (a2) (a3) (s : State) {t : State} (h : execTmRingBind a0 a1 a2 a3 s = .next t) : Kept [.regs, .acc, .ev, .out] s t := by
  unfold execTmRingBind at h
  injection h with h
  subst h
  try dsimp -proj only
  repeat' first
    | with_reducible assumption
    | with_reducible apply Kept.refl
    | with_reducible apply Kept.ite
    | with_reducible apply gate_k
    | with_reducible apply Kept.by' (tmCtlWrite_k _ _ _)
    | (intro _; intros)
    | dsimp only
    | apply rfl
    | (with_reducible refine Kept.by' (by with_reducible assumption) ?_ ?_)
    | split
theorem execPgModeWrite_k (a0) (a1) (a2) (a3) (s : State) {t : State} (h : execPgModeWrite a0 a1 a2 a3 s = .next t) : Kept [.regs, .acc, .ev, .net, .out] s t := by
  unfold execPgModeWrite at h
  injection h with h
  subst h
  try dsimp -proj only
  repeat' first
    | with_reducible assumption
    | with_reducible apply Kept.refl
    | with_reducible apply Kept.ite
    | with_reducible apply gate_k
    | with_reducible apply Kept.by' (pgCtlWrite_k _ _ _ _)
    | (intro _; intros)
    | dsimp only
    | apply rfl
    | (with_reducible refine Kept.by' (by with_reducible assumption) ?_ ?_)
    | split
theorem execPortSelWrite_k (a0) (a1) (a2) (a3) (s : State) {t : State} (h : execPortSelWrite a0 a1 a2 a3 s = .next t) : Kept [.regs, .acc, .ev, .out] s t := by
  unfold execPortSelWrite at h
  injection h with h
  subst h
  try dsimp -proj only
  repeat' first
    | with_reducible assumption
    | with_reducible apply Kept.refl
    | with_reducible apply Kept.ite
    | with_reducible apply gate_k
    | with_reducible apply Kept.by' (portSelWrite_k _ _ _)
    | (intro _; intros)
    | dsimp only
    | apply rfl
    | (with_reducible refine Kept.by' (by with_reducible assumption) ?_ ?_)
    | split
theorem execDbgWrReg_k (a0) (a1) (a2) (a3) (s : State) {t : State} (h : execDbgWrReg a0 a1 a2 a3 s = .next t) : Kept [.regs, .acc, .ev, .mem, .tils, .out, .draws] s t := by
  unfold execDbgWrReg at h
  injection h with h
  subst h
  try dsimp -proj only
  repeat' first
    | with_reducible assumption
    | with_reducible apply Kept.refl
    | with_reducible apply Kept.ite
    | with_reducible apply Kept.by' (dbgRow_k _ _ _ _ _ _ _ _)
    | dsimp only
    | apply rfl
    | (with_reducible refine Kept.by' (by with_reducible assumption) ?_ ?_)
    | split
theorem execQpModify_k (a0) (a1) (a2) (s : State) {t : State} (h : execQpModify a0 a1 a2 s = .next t) : Kept [.regs, .ev, .mem, .host, .ch, .slices, .cy, .rm, .out, .draws] s t := by
  unfold execQpModify at h
  injection h with h
  subst h
  try dsimp -proj only
  repeat' first
    | with_reducible assumption
    | with_reducible apply Kept.refl
    | with_reducible apply Kept.ite
    | with_reducible apply Kept.ite1
    | with_reducible apply runAdmin_k
    | with_reducible apply Kept.by' (adminDefer_k _ _ _ _ _)
    | with_reducible apply adminRead_k
    | with_reducible apply Kept.by' (qpError_k _ _ _ _ _)
    | with_reducible apply Kept.by' (failed_k _ _)
    | with_reducible apply Kept.by' (Kept.eq1 (failed_k _ _) (by assumption))
    | with_reducible apply Kept.by' (resetOrHold_k _ _)
    | with_reducible apply Kept.by' (qpAttrs_k _ _ _ _ _)
    | with_reducible apply Kept.by' (Kept.eq1 (qpAttrs_k _ _ _ _ _) (by assumption))
    | (intro _; intros)
    | dsimp only
    | apply rfl
    | (with_reducible refine Kept.by' (by with_reducible assumption) ?_ ?_)
    | split
theorem execResetSlice_k (a0) (a1) (s : State) {t : State} (h : execResetSlice a0 a1 s = .next t) : Kept [.regs, .ev, .mem, .host, .ch, .slices, .out] s t := by
  unfold execResetSlice at h
  injection h with h
  subst h
  try dsimp -proj only
  repeat' first
    | with_reducible assumption
    | with_reducible apply Kept.refl
    | with_reducible apply Kept.ite
    | with_reducible apply runAdmin_k
    | with_reducible apply Kept.by' (failed_k _ _)
    | with_reducible apply Kept.by' (Kept.eq1 (failed_k _ _) (by assumption))
    | with_reducible apply Kept.by' (sliceReset_k _ _ _)
    | with_reducible apply Kept.by' (adminDefer_k _ _ _ _ _)
    | (intro _; intros)
    | dsimp only
    | apply rfl
    | (with_reducible refine Kept.by' (by with_reducible assumption) ?_ ?_)
    | split
theorem execEnableChannel_k (a0) (a1) (s : State) {t : State} (h : execEnableChannel a0 a1 s = .next t) : Kept [.regs, .ev, .mem, .host, .ch, .slices, .rm, .out, .draws] s t := by
  unfold execEnableChannel at h
  injection h with h
  subst h
  try dsimp -proj only
  repeat' first
    | with_reducible assumption
    | with_reducible apply Kept.refl
    | with_reducible apply Kept.ite
    | with_reducible apply runAdmin_k
    | with_reducible apply Kept.by' (failed_k _ _)
    | with_reducible apply Kept.by' (Kept.eq1 (failed_k _ _) (by assumption))
    | with_reducible apply Kept.by' (holdOr_k _ _ _ _)
    | (intro _; intros)
    | dsimp only
    | apply rfl
    | (with_reducible refine Kept.by' (by with_reducible assumption) ?_ ?_)
    | split
theorem execInfo_k (a0) (a1) (a2) (s : State) {t : State} (h : execInfo a0 a1 a2 s = .next t) : Kept [.regs, .acc, .ev, .oz, .out] s t := by
  unfold execInfo at h
  injection h with h
  subst h
  try dsimp -proj only
  repeat' first
    | with_reducible assumption
    | with_reducible apply Kept.refl
    | with_reducible apply Kept.ite
    | with_reducible apply mbRow_k
    | (intro _; intros)
    | with_reducible apply Kept.by' (mbInfo_k (by assumption))
    | with_reducible apply Kept.by' (mbRow_k _ _ _ _ _ _ _)
    | dsimp only
    | apply rfl
    | (with_reducible refine Kept.by' (by with_reducible assumption) ?_ ?_)
    | split
theorem execMgmtFrameSend_k (a0) (a1) (s : State) {t : State} (h : execMgmtFrameSend a0 a1 s = .next t) : Kept [.out] s t := by
  unfold execMgmtFrameSend at h
  injection h with h
  subst h
  try dsimp -proj only
  repeat' first
    | with_reducible assumption
    | with_reducible apply Kept.refl
    | with_reducible apply Kept.ite
    | with_reducible apply Kept.by' (emit_k _ _)
    | dsimp only
    | apply rfl
    | (with_reducible refine Kept.by' (by with_reducible assumption) ?_ ?_)
    | split
theorem execSheafDrainLimit_k (s : State) {t : State} (h : execSheafDrainLimit s = .next t) : Kept [.regs, .ev, .ch, .sheaf, .land, .rm] s t := by
  unfold execSheafDrainLimit at h
  injection h with h
  subst h
  try dsimp -proj only
  repeat' first
    | with_reducible assumption
    | with_reducible apply Kept.refl
    | with_reducible apply Kept.ite
    | with_reducible apply Kept.ite1
    | with_reducible apply Kept.ite2
    | with_reducible apply Kept.by' (sheafUpd_k _ _)
    | with_reducible apply Kept.by' (expirePkt_k _ _ _)
    | with_reducible apply Kept.foldl
    | with_reducible apply Kept.foldl1
    | (intro _; intros)
    | dsimp only
    | exact fun h => aset_rising _ _ h
    | exact fun h => filter_rising _ h
    | exact fun h => h
    | apply rfl
    | (with_reducible refine Kept.by' (by with_reducible assumption) ?_ ?_)
    | split
    | with_reducible apply Kept.set_regs
    | with_reducible apply Kept.set_ev
    | with_reducible apply Kept.set_ch
    | with_reducible apply Kept.set_sheaf
    | with_reducible apply Kept.set_land
    | with_reducible apply Kept.set_rm
    | (refine Kept.of ⟨fun p hp => ?_⟩ rfl rfl rfl (congrArg AccSt.own rfl); cases p <;> first | rfl | cases hp)
theorem execSetFeatures_k (a0) (a1) (s : State) {t : State} (h : execSetFeatures a0 a1 s = .next t) : Kept [.regs, .ev, .mem, .host, .ch, .slices, .sv, .out, .draws] s t := by
  unfold execSetFeatures at h
  injection h with h
  subst h
  try dsimp -proj only
  repeat' first
    | with_reducible assumption
    | with_reducible apply Kept.refl
    | with_reducible apply Kept.ite
    | with_reducible apply Kept.ite1
    | with_reducible apply nvmeAdmin_k
    | with_reducible apply Kept.by' (finish_k _ _ _ _ _ _)
    | with_reducible apply Kept.by' (ctrlUpd_k _ _ _)
    | (intro _; intros)
    | dsimp only
    | apply rfl
    | (with_reducible refine Kept.by' (by with_reducible assumption) ?_ ?_)
    | split
theorem execEpochBoundary_k (s : State) {t : State} (h : execEpochBoundary s = .next t) : Kept [.regs, .snap, .time, .ev, .mem, .host, .ch, .slices, .stairs, .tm, .out] s t := by
  unfold execEpochBoundary at h
  injection h with h
  subst h
  try dsimp -proj only
  repeat' first
    | with_reducible assumption
    | with_reducible apply Kept.refl
    | with_reducible apply Kept.ite
    | with_reducible apply Kept.ite1
    | with_reducible apply Kept.by' (epochFire_k _ _)
    | with_reducible apply Kept.by' (Kept.eq1 (epochFire_k _ _) (by assumption))
    | dsimp only
    | apply rfl
    | (with_reducible refine Kept.by' (by with_reducible assumption) ?_ ?_)
    | split
theorem execRpMergeWrite_k (a0) (a1) (a2) (s : State) {t : State} (h : execRpMergeWrite a0 a1 a2 s = .next t) : Kept [.regs, .acc, .ev, .host, .out] s t := by
  unfold execRpMergeWrite at h
  injection h with h
  subst h
  try dsimp -proj only
  repeat' first
    | with_reducible assumption
    | with_reducible apply Kept.refl
    | with_reducible apply Kept.ite
    | with_reducible apply gate_k
    | with_reducible apply Kept.by' (mergeWrite_k _ _ _)
    | (intro _; intros)
    | dsimp only
    | apply rfl
    | (with_reducible refine Kept.by' (by with_reducible assumption) ?_ ?_)
    | split
theorem execSnapAtFire_k (s : State) {t : State} (h : execSnapAtFire s = .next t) : Kept [.regs, .snap, .time, .ev, .stairs] s t := by
  unfold execSnapAtFire at h
  injection h with h
  subst h
  try dsimp -proj only
  repeat' first
    | with_reducible assumption
    | with_reducible apply Kept.refl
    | with_reducible apply Kept.ite
    | with_reducible apply Kept.by' (snapAtRun_k _)
    | dsimp only
    | apply rfl
    | (with_reducible refine Kept.by' (by with_reducible assumption) ?_ ?_)
    | split
theorem execGmRetrain_k (a0) (a1) (a2) (a3) (a4) (s : State) {t : State} (h : execGmRetrain a0 a1 a2 a3 a4 s = .next t) : Kept [.regs, .acc, .ev, .ch, .net, .land, .rm, .out] s t := by
  unfold execGmRetrain at h
  injection h with h
  subst h
  try dsimp -proj only
  repeat' first
    | with_reducible assumption
    | with_reducible apply Kept.refl
    | with_reducible apply Kept.ite
    | with_reducible apply gate_k
    | with_reducible apply Kept.by' (gmCmdWrite_k _ _ _ _)
    | (intro _; intros)
    | dsimp only
    | apply rfl
    | (with_reducible refine Kept.by' (by with_reducible assumption) ?_ ?_)
    | split
theorem execFirmwareCommit_k (a0) (a1) (s : State) {t : State} (h : execFirmwareCommit a0 a1 s = .next t) : Kept [.regs, .ev, .mem, .host, .ch, .slices, .unit, .oz, .sv, .out, .draws] s t := by
  unfold execFirmwareCommit at h
  injection h with h
  subst h
  try dsimp -proj only
  repeat' first
    | with_reducible assumption
    | with_reducible apply Kept.refl
    | with_reducible apply Kept.ite
    | with_reducible apply Kept.ite1
    | with_reducible apply Kept.ite2
    | with_reducible apply nvmeAdmin_k
    | with_reducible apply Kept.by' (finish_k _ _ _ _ _ _)
    | with_reducible apply Kept.by' (fwVerify_k _ _)
    | with_reducible apply Kept.by' (Kept.eq1 (fwVerify_k _ _) (by assumption))
    | with_reducible apply Kept.by' (cmdUpd_k _ _ _)
    | with_reducible apply Kept.by' (fwActivate_k _ _ _ _)
    | with_reducible apply Kept.by' (Kept.eq1 (fwActivate_k _ _ _ _) (by assumption))
    | (intro _; intros)
    | dsimp only
    | apply rfl
    | (with_reducible refine Kept.by' (by with_reducible assumption) ?_ ?_)
    | split
theorem execGuardedReadFix_k (a0) (s : State) {t : State} (h : execGuardedReadFix a0 s = .next t) : Kept [.regs, .ev, .unit] s t := by
  unfold execGuardedReadFix at h
  injection h with h
  subst h
  try dsimp -proj only
  repeat' first
    | with_reducible assumption
    | with_reducible apply Kept.refl
    | with_reducible apply Kept.ite
    | with_reducible apply Kept.by' (bump_k _ _ _)
    | with_reducible apply Kept.by' (raiseLim_k _ _ _ _ _)
    | with_reducible apply Kept.by' (unitUpd_k _ _)
    | (intro _; intros)
    | with_reducible apply Kept.getD
    | dsimp only
    | apply rfl
    | (with_reducible refine Kept.by' (by with_reducible assumption) ?_ ?_)
    | split
theorem execPidxWrite_k (a0) (a1) (a2) (a3) (a4) (a5) (s : State) {t : State} (h : execPidxWrite a0 a1 a2 a3 a4 a5 s = .next t) : Kept [.regs, .ev, .ch] s t := by
  unfold execPidxWrite at h
  injection h with h
  subst h
  try dsimp -proj only
  repeat' first
    | with_reducible assumption
    | with_reducible apply Kept.refl
    | with_reducible apply Kept.ite
    | with_reducible apply onPage_k
    | with_reducible apply Kept.by' (pidxPut_k _ _ _ _ _ _)
    | (intro _; intros)
    | dsimp only
    | apply rfl
    | (with_reducible refine Kept.by' (by with_reducible assumption) ?_ ?_)
    | split
theorem execSelfTestDone_k (a0) (a1) (s : State) {t : State} (h : execSelfTestDone a0 a1 s = .next t) : Kept [.regs, .ev, .stairs, .unit] s t := by
  unfold execSelfTestDone at h
  injection h with h
  subst h
  try dsimp -proj only
  repeat' first
    | with_reducible assumption
    | with_reducible apply Kept.refl
    | with_reducible apply Kept.ite
    | with_reducible apply Kept.by' (wrN_k _ _ _)
    | with_reducible apply Kept.by' (wrF_k _ _ _ _ _)
    | with_reducible apply Kept.by' (unitUpd_k _ _)
    | with_reducible apply Kept.by' (setUnitState_k _ _ _)
    | with_reducible apply Kept.by' (setUnitCause_k _ _ _)
    | with_reducible apply Kept.by' (unitEnter_k _ _ _ _)
    | with_reducible apply Kept.by' (mcheckEvent_k _ _ _ _)
    | with_reducible apply Kept.by' (stairReload_k _ _)
    | with_reducible apply Kept.by' (readmitEvent_k _ _ _)
    | with_reducible apply Kept.foldl
    | with_reducible apply Kept.foldl1
    | (intro _; intros)
    | with_reducible apply Kept.getD
    | dsimp only
    | apply rfl
    | (with_reducible refine Kept.by' (by with_reducible assumption) ?_ ?_)
    | split
theorem execDbgRdReg_k (a0) (a1) (a2) (a3) (s : State) {t : State} (h : execDbgRdReg a0 a1 a2 a3 s = .next t) : Kept [.regs, .acc, .ev, .mem, .tils, .out, .draws] s t := by
  unfold execDbgRdReg at h
  injection h with h
  subst h
  try dsimp -proj only
  repeat' first
    | with_reducible assumption
    | with_reducible apply Kept.refl
    | with_reducible apply Kept.ite
    | with_reducible apply Kept.by' (dbgRow_k _ _ _ _ _ _ _ _)
    | dsimp only
    | apply rfl
    | (with_reducible refine Kept.by' (by with_reducible assumption) ?_ ?_)
    | split
theorem execLdEpochCtlWrite_k (a0) (a1) (a2) (s : State) {t : State} (h : execLdEpochCtlWrite a0 a1 a2 s = .next t) : Kept [.regs, .time, .acc, .ev, .out] s t := by
  unfold execLdEpochCtlWrite at h
  injection h with h
  subst h
  try dsimp -proj only
  repeat' first
    | with_reducible assumption
    | with_reducible apply Kept.refl
    | with_reducible apply Kept.ite
    | with_reducible apply gate_k
    | with_reducible apply Kept.by' (epochCtlWrite_k _ _)
    | (intro _; intros)
    | dsimp only
    | apply rfl
    | (with_reducible refine Kept.by' (by with_reducible assumption) ?_ ?_)
    | split
theorem execIndOverrun_k (a0) (s : State) {t : State} (h : execIndOverrun a0 s = .next t) : Kept [.regs, .acc, .out] s t := by
  unfold execIndOverrun at h
  injection h with h
  subst h
  try dsimp -proj only
  repeat' first
    | with_reducible assumption
    | with_reducible apply Kept.refl
    | with_reducible apply Kept.ite
    | with_reducible apply Kept.by' (indExpire_k _ _)
    | with_reducible apply Kept.by' (indSettle_k _ _)
    | dsimp only
    | apply rfl
    | (with_reducible refine Kept.by' (by with_reducible assumption) ?_ ?_)
    | split
theorem execAbort_k (a0) (a1) (a2) (s : State) {t : State} (h : execAbort a0 a1 a2 s = .next t) : Kept [.regs, .ev, .mem, .host, .ch, .slices, .sv, .out, .draws] s t := by
  unfold execAbort at h
  injection h with h
  subst h
  try dsimp -proj only
  repeat' first
    | with_reducible assumption
    | with_reducible apply Kept.refl
    | with_reducible apply Kept.ite
    | with_reducible apply Kept.ite1
    | with_reducible apply Kept.ite2
    | with_reducible apply nvmeAdmin_k
    | with_reducible apply Kept.by' (finish_k _ _ _ _ _ _)
    | with_reducible apply Kept.by' (bump_k _ _ _)
    | with_reducible apply Kept.by' (cmdUpd_k _ _ _)
    | (intro _; intros)
    | dsimp only
    | apply rfl
    | (with_reducible refine Kept.by' (by with_reducible assumption) ?_ ?_)
    | split
theorem execFlush_k (a0) (a1) (a2) (s : State) {t : State} (h : execFlush a0 a1 a2 s = .next t) : Kept [.regs, .time, .acc, .ev, .ch, .net, .land, .rm, .out] s t := by
  unfold execFlush at h
  injection h with h
  subst h
  try dsimp -proj only
  repeat' first
    | with_reducible assumption
    | with_reducible apply Kept.refl
    | with_reducible apply Kept.ite
    | with_reducible apply gate_k
    | with_reducible apply Kept.by' (nodeCmdWrite_k _ _)
    | (intro _; intros)
    | dsimp only
    | apply rfl
    | (with_reducible refine Kept.by' (by with_reducible assumption) ?_ ?_)
    | split
theorem execRetire_k (a0) (a1) (a2) (s : State) {t : State} (h : execRetire a0 a1 a2 s = .next t) : Kept [.regs, .acc, .ev, .mem, .ch, .net, .stairs, .sheaf, .land, .unit, .tils, .cy, .rm, .out, .draws] s t := by
  unfold execRetire at h
  injection h with h
  subst h
  try dsimp -proj only
  repeat' first
    | with_reducible assumption
    | with_reducible apply Kept.refl
    | with_reducible apply Kept.ite
    | with_reducible apply Kept.by' (unitRow_k _ _ _ _ _)
    | dsimp only
    | apply rfl
    | (with_reducible refine Kept.by' (by with_reducible assumption) ?_ ?_)
    | split
theorem execLogStart_k (a0) (a1) (s : State) {t : State} (h : execLogStart a0 a1 s = .next t) : Kept [.mem, .host, .ch, .slices, .out] s t := by
  unfold execLogStart at h
  injection h with h
  subst h
  try dsimp -proj only
  repeat' first
    | with_reducible assumption
    | with_reducible apply Kept.refl
    | with_reducible apply Kept.ite
    | with_reducible apply Kept.ite2
    | with_reducible apply ownerCmd_k
    | with_reducible apply Kept.by' (failed_k _ _)
    | with_reducible apply Kept.by' (Kept.eq1 (failed_k _ _) (by assumption))
    | with_reducible apply Kept.by' (slUpd_k _ _ _)
    | (intro _; intros)
    | with_reducible apply Kept.foldl
    | with_reducible apply Kept.foldl1
    | (intro _; intros)
    | dsimp only
    | apply rfl
    | (with_reducible refine Kept.by' (by with_reducible assumption) ?_ ?_)
    | split
theorem execRnrWaitExpire_k (a0) (s : State) {t : State} (h : execRnrWaitExpire a0 s = .next t) : Kept [.rm] s t := by
  unfold execRnrWaitExpire at h
  injection h with h
  subst h
  try dsimp -proj only
  repeat' first
    | with_reducible assumption
    | with_reducible apply Kept.refl
    | with_reducible apply Kept.ite
    | with_reducible apply Kept.by' (qpUpd_k _ _ _)
    | dsimp only
    | apply rfl
    | (with_reducible refine Kept.by' (by with_reducible assumption) ?_ ?_)
    | split
theorem execCreateSlice_k (a0) (a1) (s : State) {t : State} (h : execCreateSlice a0 a1 s = .next t) : Kept [.mem, .host, .ch, .slices, .out] s t := by
  unfold execCreateSlice at h
  injection h with h
  subst h
  try dsimp -proj only
  repeat' first
    | with_reducible assumption
    | with_reducible apply Kept.refl
    | with_reducible apply Kept.ite
    | with_reducible apply runAdmin_k
    | with_reducible apply Kept.by' (failed_k _ _)
    | with_reducible apply Kept.by' (Kept.eq1 (failed_k _ _) (by assumption))
    | (intro _; intros)
    | dsimp only
    | exact fun h => memPuts_wf h
    | exact fun h => memClear_wf h
    | exact memPuts_wf (by assumption)
    | exact memClear_wf (by assumption)
    | exact fun h => filter_wf _ h
    | exact fun h => h
    | apply rfl
    | (with_reducible refine Kept.by' (by with_reducible assumption) ?_ ?_)
    | split
    | with_reducible apply Kept.set_mem
    | with_reducible apply Kept.set_host
    | with_reducible apply Kept.set_ch
    | with_reducible apply Kept.set_slices
    | with_reducible apply Kept.set_out
    | (refine Kept.of ⟨fun p hp => ?_⟩ rfl rfl rfl (congrArg AccSt.own rfl); cases p <;> first | rfl | cases hp)
theorem execMachineCheck_k (a0) (a1) (s : State) {t : State} (h : execMachineCheck a0 a1 s = .next t) : Kept [.regs, .ev, .ch, .net, .stairs, .sheaf, .land, .unit, .cy, .rm, .out, .draws] s t := by
  unfold execMachineCheck at h
  injection h with h
  subst h
  try dsimp -proj only
  repeat' first
    | with_reducible assumption
    | with_reducible apply Kept.refl
    | with_reducible apply Kept.ite
    | with_reducible apply Kept.by' (mcheckEvent_k _ _ _ _)
    | with_reducible apply Kept.by' (unitUpd_k _ _)
    | with_reducible apply Kept.by' (declare'_k _ _ _)
    | dsimp only
    | apply rfl
    | (with_reducible refine Kept.by' (by with_reducible assumption) ?_ ?_)
    | split
theorem execTillerRelease_k (a0) (a1) (s : State) {t : State} (h : execTillerRelease a0 a1 s = .next t) : Kept [.regs, .ev, .ch, .tils, .draws] s t := by
  unfold execTillerRelease at h
  injection h with h
  subst h
  try dsimp -proj only
  repeat' first
    | with_reducible assumption
    | with_reducible apply Kept.refl
    | with_reducible apply Kept.ite
    | with_reducible apply Kept.by' (releaseTiller_k _ _ _ _)
    | dsimp only
    | apply rfl
    | (with_reducible refine Kept.by' (by with_reducible assumption) ?_ ?_)
    | split
theorem execDebounceExpire_k (a0) (s : State) {t : State} (h : execDebounceExpire a0 s = .next t) : Kept [.regs, .ev, .ch, .net, .land, .rm, .out] s t := by
  unfold execDebounceExpire at h
  injection h with h
  subst h
  try dsimp -proj only
  repeat' first
    | with_reducible assumption
    | with_reducible apply Kept.refl
    | with_reducible apply Kept.ite
    | with_reducible apply Kept.by' (faultStep_k _ _)
    | dsimp only
    | apply rfl
    | (with_reducible refine Kept.by' (by with_reducible assumption) ?_ ?_)
    | split
theorem execWriteZeroes_k (a0) (a1) (a2) (a3) (a4) (s : State) {t : State} (h : execWriteZeroes a0 a1 a2 a3 a4 s = .next t) : Kept [.regs, .ev, .mem, .host, .ch, .slices, .sv, .out, .draws] s t := by
  unfold execWriteZeroes at h
  injection h with h
  subst h
  try dsimp -proj only
  repeat' first
    | with_reducible assumption
    | with_reducible apply Kept.refl
    | with_reducible apply Kept.ite
    | with_reducible apply ioRow_k
    | (intro _; intros)
    | with_reducible apply Kept.by' (ioRow_k _ _ _ _ _ _ _ _ _)
    | with_reducible apply Kept.by' (beginZeroes_k _ _ _ _ _)
    | dsimp only
    | apply rfl
    | (with_reducible refine Kept.by' (by with_reducible assumption) ?_ ?_)
    | split
theorem execMsixModTimer_k (a0) (s : State) {t : State} (h : execMsixModTimer a0 s = .next t) : Kept [.host, .ch, .out] s t := by
  unfold execMsixModTimer at h
  injection h with h
  subst h
  try dsimp -proj only
  repeat' first
    | with_reducible assumption
    | with_reducible apply Kept.refl
    | with_reducible apply Kept.ite
    | with_reducible apply Kept.by' (sendVector_k _ _ _ _)
    | with_reducible apply Kept.by' (chanSet_k _ _ _)
    | dsimp only
    | apply rfl
    | (with_reducible refine Kept.by' (by with_reducible assumption) ?_ ?_)
    | split
theorem execPoolRebuild_k (a0) (a1) (a2) (s : State) {t : State} (h : execPoolRebuild a0 a1 a2 s = .next t) : Kept [.regs, .mem, .host, .ch, .slices, .sv, .out] s t := by
  unfold execPoolRebuild at h
  injection h with h
  subst h
  try dsimp -proj only
  repeat' first
    | with_reducible assumption
    | with_reducible apply Kept.refl
    | with_reducible apply Kept.ite
    | with_reducible apply svAdmin_k
    | with_reducible apply Kept.by' (failed_k _ _)
    | with_reducible apply Kept.by' (Kept.eq1 (failed_k _ _) (by assumption))
    | with_reducible apply Kept.by' (poolUpd_k _ _ _)
    | with_reducible apply Kept.by' (showPools_k _)
    | with_reducible apply Kept.getD
    | (intro _; intros)
    | (intro _; intros)
    | dsimp only
    | apply rfl
    | (with_reducible refine Kept.by' (by with_reducible assumption) ?_ ?_)
    | split
theorem execBarResize_k (a0) (a1) (a2) (a3) (s : State) {t : State} (h : execBarResize a0 a1 a2 a3 s = .next t) : Kept [.regs, .ev, .host] s t := by
  unfold execBarResize at h
  injection h with h
  subst h
  try dsimp -proj only
  repeat' first
    | with_reducible assumption
    | with_reducible apply Kept.refl
    | with_reducible apply Kept.ite
    | with_reducible apply Kept.by' (barResize_k _ _ _ _ _)
    | dsimp only
    | apply rfl
    | (with_reducible refine Kept.by' (by with_reducible assumption) ?_ ?_)
    | split
theorem execTrainingTimeout_k (a0) (a1) (s : State) {t : State} (h : execTrainingTimeout a0 a1 s = .next t) : Kept [.regs, .ev, .ch, .net, .land, .rm, .out] s t := by
  unfold execTrainingTimeout at h
  injection h with h
  subst h
  try dsimp -proj only
  repeat' first
    | with_reducible assumption
    | with_reducible apply Kept.refl
    | with_reducible apply Kept.ite
    | with_reducible apply Kept.by' (setPortState_k _ _ _)
    | with_reducible apply Kept.by' (portUpd_k _ _ _)
    | with_reducible apply Kept.by' (raise_k _ _ _)
    | dsimp only
    | apply rfl
    | (with_reducible refine Kept.by' (by with_reducible assumption) ?_ ?_)
    | split
theorem execReadmit_k (a0) (a1) (a2) (s : State) {t : State} (h : execReadmit a0 a1 a2 s = .next t) : Kept [.regs, .acc, .ev, .mem, .ch, .net, .stairs, .sheaf, .land, .unit, .tils, .cy, .rm, .out, .draws] s t := by
  unfold execReadmit at h
  injection h with h
  subst h
  try dsimp -proj only
  repeat' first
    | with_reducible assumption
    | with_reducible apply Kept.refl
    | with_reducible apply Kept.ite
    | with_reducible apply Kept.by' (unitRow_k _ _ _ _ _)
    | dsimp only
    | apply rfl
    | (with_reducible refine Kept.by' (by with_reducible assumption) ?_ ?_)
    | split
theorem execSheafCancel_k (a0) (a1) (a2) (s : State) {t : State} (h : execSheafCancel a0 a1 a2 s = .next t) : Kept [.regs, .acc, .ev, .stairs, .lpm, .sheaf, .out] s t := by
  unfold execSheafCancel at h
  injection h with h
  subst h
  try dsimp -proj only
  repeat' first
    | with_reducible assumption
    | with_reducible apply Kept.refl
    | with_reducible apply Kept.ite
    | with_reducible apply Kept.by' (sheafCmdRow_k _ _ _ _ _)
    | dsimp only
    | apply rfl
    | (with_reducible refine Kept.by' (by with_reducible assumption) ?_ ?_)
    | split
theorem execDeleteIoCompletionQueue_k (a0) (a1) (s : State) {t : State} (h : execDeleteIoCompletionQueue a0 a1 s = .next t) : Kept [.regs, .ev, .mem, .host, .ch, .slices, .sv, .out, .draws] s t := by
  unfold execDeleteIoCompletionQueue at h
  injection h with h
  subst h
  try dsimp -proj only
  repeat' first
    | with_reducible assumption
    | with_reducible apply Kept.refl
    | with_reducible apply Kept.ite
    | with_reducible apply Kept.ite2
    | with_reducible apply nvmeAdmin_k
    | with_reducible apply Kept.by' (finish_k _ _ _ _ _ _)
    | with_reducible apply Kept.by' (ctrlUpd_k _ _ _)
    | (intro _; intros)
    | dsimp only
    | apply rfl
    | (with_reducible refine Kept.by' (by with_reducible assumption) ?_ ?_)
    | split
theorem execResyncComplete_k (a0) (s : State) {t : State} (h : execResyncComplete a0 s = .next t) : Kept [.regs, .ev] s t := by
  unfold execResyncComplete at h
  injection h with h
  subst h
  try dsimp -proj only
  repeat' first
    | with_reducible assumption
    | with_reducible apply Kept.refl
    | with_reducible apply Kept.ite
    | with_reducible apply Kept.by' (raise_k _ _ _)
    | with_reducible apply Kept.by' (wrN_k _ _ _)
    | dsimp only
    | apply rfl
    | (with_reducible refine Kept.by' (by with_reducible assumption) ?_ ?_)
    | split
theorem execL2LoadComplete_k (a0) (s : State) {t : State} (h : execL2LoadComplete a0 s = .next t) : Kept [.regs, .ev, .stairs] s t := by
  unfold execL2LoadComplete at h
  injection h with h
  subst h
  try dsimp -proj only
  repeat' first
    | with_reducible assumption
    | with_reducible apply Kept.refl
    | with_reducible apply Kept.ite
    | with_reducible apply Kept.ite1
    | with_reducible apply Kept.ite2
    | with_reducible apply Kept.by' (raise_k _ _ _)
    | with_reducible apply Kept.by' (stairUpd_k _ _ _)
    | with_reducible apply Kept.by' (setEntries_k _ _ _ _)
    | with_reducible apply Kept.foldl
    | with_reducible apply Kept.foldl1
    | (intro _; intros)
    | dsimp only
    | apply rfl
    | (with_reducible refine Kept.by' (by with_reducible assumption) ?_ ?_)
    | split
theorem execCctxQuery_k (a0) (a1) (a2) (s : State) {t : State} (h : execCctxQuery a0 a1 a2 s = .next t) : Kept [.mem, .host, .ch, .slices, .out] s t := by
  unfold execCctxQuery at h
  injection h with h
  subst h
  try dsimp -proj only
  repeat' first
    | with_reducible assumption
    | with_reducible apply Kept.refl
    | with_reducible apply Kept.ite
    | with_reducible apply Kept.ite1
    | with_reducible apply runAdmin_k
    | with_reducible apply Kept.by' (adminResult_k _ _ _ _ _)
    | with_reducible apply Kept.by' (Kept.eq1 (adminResult_k _ _ _ _ _) (by assumption))
    | with_reducible apply Kept.by' (failed_k _ _)
    | with_reducible apply Kept.by' (Kept.eq1 (failed_k _ _) (by assumption))
    | (intro _; intros)
    | dsimp only
    | apply rfl
    | (with_reducible refine Kept.by' (by with_reducible assumption) ?_ ?_)
    | split
theorem execHostLinkDown_k (a0) (s : State) {t : State} (h : execHostLinkDown a0 s = .next t) : Kept [.regs, .time, .ev, .mem, .host, .ch, .slices, .out] s t := by
  unfold execHostLinkDown at h
  injection h with h
  subst h
  try dsimp -proj only
  repeat' first
    | with_reducible assumption
    | with_reducible apply Kept.refl
    | with_reducible apply Kept.ite
    | with_reducible apply Kept.by' (linkReset_k _ _)
    | dsimp only
    | apply rfl
    | (with_reducible refine Kept.by' (by with_reducible assumption) ?_ ?_)
    | split
theorem execDcfgWrite_k (a0) (a1) (a2) (a3) (s : State) {t : State} (h : execDcfgWrite a0 a1 a2 a3 s = .next t) : Kept [.regs, .acc, .ev, .host, .out] s t := by
  unfold execDcfgWrite at h
  injection h with h
  subst h
  try dsimp -proj only
  repeat' first
    | with_reducible assumption
    | with_reducible apply Kept.refl
    | with_reducible apply Kept.ite
    | with_reducible apply gate_k
    | with_reducible apply Kept.by' (dcfgWrite_k _ _ _ _)
    | (intro _; intros)
    | dsimp only
    | apply rfl
    | (with_reducible refine Kept.by' (by with_reducible assumption) ?_ ?_)
    | split
theorem execPfcRefresh_k (a0) (s : State) {t : State} (h : execPfcRefresh a0 s = .next t) : Kept [.regs, .net, .out] s t := by
  unfold execPfcRefresh at h
  injection h with h
  subst h
  try dsimp -proj only
  repeat' first
    | with_reducible assumption
    | with_reducible apply Kept.refl
    | with_reducible apply Kept.ite
    | with_reducible apply Kept.ite1
    | with_reducible apply Kept.ite2
    | with_reducible apply Kept.by' (portUpd_k _ _ _)
    | with_reducible apply Kept.by' (controlFrame_k _ _ _)
    | with_reducible apply Kept.foldl
    | with_reducible apply Kept.foldl1
    | (intro _; intros)
    | dsimp only
    | apply rfl
    | (with_reducible refine Kept.by' (by with_reducible assumption) ?_ ?_)
    | split
theorem execQueryChannel_k (a0) (a1) (a2) (s : State) {t : State} (h : execQueryChannel a0 a1 a2 s = .next t) : Kept [.mem, .host, .ch, .slices, .out] s t := by
  unfold execQueryChannel at h
  injection h with h
  subst h
  try dsimp -proj only
  repeat' first
    | with_reducible assumption
    | with_reducible apply Kept.refl
    | with_reducible apply Kept.ite
    | with_reducible apply runAdmin_k
    | with_reducible apply Kept.by' (failed_k _ _)
    | with_reducible apply Kept.by' (Kept.eq1 (failed_k _ _) (by assumption))
    | with_reducible apply Kept.by' (adminResult_k _ _ _ _ _)
    | with_reducible apply Kept.by' (Kept.eq1 (adminResult_k _ _ _ _ _) (by assumption))
    | (intro _; intros)
    | dsimp only
    | apply rfl
    | (with_reducible refine Kept.by' (by with_reducible assumption) ?_ ?_)
    | split
theorem execDebugExpiry_k (s : State) {t : State} (h : execDebugExpiry s = .next t) : Kept [.regs, .ev, .oz] s t := by
  unfold execDebugExpiry at h
  injection h with h
  subst h
  try dsimp -proj only
  repeat' first
    | with_reducible assumption
    | with_reducible apply Kept.refl
    | with_reducible apply Kept.ite
    | with_reducible apply Kept.by' (scopeClose_k _)
    | dsimp only
    | apply rfl
    | (with_reducible refine Kept.by' (by with_reducible assumption) ?_ ?_)
    | split
theorem execStairProbe_k (a0) (a1) (a2) (a3) (s : State) {t : State} (h : execStairProbe a0 a1 a2 a3 s = .next t) : Kept [.regs, .acc, .ev, .mem, .host, .slices, .stairs, .oz, .rm, .out, .draws] s t := by
  unfold execStairProbe at h
  injection h with h
  subst h
  try dsimp -proj only
  repeat' first
    | with_reducible assumption
    | with_reducible apply Kept.refl
    | with_reducible apply Kept.ite
    | with_reducible apply mbRow_k
    | (intro _; intros)
    | with_reducible apply Kept.by' (mbStairProbe_k (by assumption))
    | with_reducible apply Kept.by' (mbRow_k _ _ _ _ _ _ _)
    | dsimp only
    | apply rfl
    | (with_reducible refine Kept.by' (by with_reducible assumption) ?_ ?_)
    | split
theorem execGetFeatures_k (a0) (a1) (s : State) {t : State} (h : execGetFeatures a0 a1 s = .next t) : Kept [.regs, .ev, .mem, .host, .ch, .slices, .sv, .out, .draws] s t := by
  unfold execGetFeatures at h
  injection h with h
  subst h
  try dsimp -proj only
  repeat' first
    | with_reducible assumption
    | with_reducible apply Kept.refl
    | with_reducible apply Kept.ite
    | with_reducible apply nvmeAdmin_k
    | with_reducible apply Kept.by' (finish_k _ _ _ _ _ _)
    | (intro _; intros)
    | dsimp only
    | apply rfl
    | (with_reducible refine Kept.by' (by with_reducible assumption) ?_ ?_)
    | split
theorem execPhaseSampleSubmit_k (a0) (a1) (a2) (s : State) {t : State} (h : execPhaseSampleSubmit a0 a1 a2 s = .next t) : Kept [.regs, .time, .acc, .ev, .out] s t := by
  unfold execPhaseSampleSubmit at h
  injection h with h
  subst h
  try dsimp -proj only
  repeat' first
    | with_reducible assumption
    | with_reducible apply Kept.refl
    | with_reducible apply Kept.ite
    | with_reducible apply gate_k
    | with_reducible apply Kept.by' (phaseSubmit_k _ _ _)
    | (intro _; intros)
    | dsimp only
    | apply rfl
    | (with_reducible refine Kept.by' (by with_reducible assumption) ?_ ?_)
    | split

theorem next_inj {s t : State} (h : (Host.Outcome.next s : Host.Outcome State Fault Refusal) = .next t) : s = t := by
  injection h
theorem next_ite {c : Prop} {_ : Decidable c} {a b : Host.Outcome State Fault Refusal} {l : List Part} {s t : State}
    (h : (if c then a else b) = .next t) (ha : a = .next t → Kept l s t) (hb : b = .next t → Kept l s t) : Kept l s t := by
  split at h
  · exact ha h
  · exact hb h
theorem execPtmExchange_k (s : State) {t : State} (h : execPtmExchange s = .next t) : Kept [.time, .out] s t := by
  unfold execPtmExchange at h
  refine next_ite h (fun h => ?_) (fun h => next_inj h ▸ Kept.refl)
  rw [← next_inj h]
  apply Kept.by' (emit_k _ _) _ rfl
  exact Kept.set_time Kept.refl rfl
theorem execPtmExchangeDone_k (a0) (s : State) {t : State} (h : execPtmExchangeDone a0 s = .next t) : Kept [.regs, .time, .ev] s t := by
  unfold execPtmExchangeDone at h
  refine next_ite h (fun h => ?_) (fun h => next_inj h ▸ Kept.refl)
  cases a0 with
  | some m =>
    rw [← next_inj h]
    apply Kept.by' (phaseSample_k _ _) _ rfl
    exact Kept.set_time Kept.refl rfl
  | none =>
    rw [← next_inj h]
    apply Kept.ite
    · apply Kept.by' (sourceLost_k _ _) _ rfl
      exact Kept.set_time Kept.refl rfl
    · exact Kept.set_time Kept.refl rfl
theorem execSourceLostTimeout_k (s : State) {t : State} (h : execSourceLostTimeout s = .next t) : Kept [.regs, .time, .ev] s t := by
  unfold execSourceLostTimeout at h
  refine next_ite h (fun h => ?_) (fun h => next_ite h (fun h => ?_) (fun h => next_inj h ▸ Kept.refl))
  · rw [← next_inj h]; exact Kept.by' (sourceLost_k _ _) Kept.refl rfl
  · rw [← next_inj h]; exact Kept.by' (sourceLost_k _ _) Kept.refl rfl
theorem execTclkInFault_k (a0) (s : State) {t : State} (h : execTclkInFault a0 s = .next t) : Kept [.regs, .time, .ev] s t := by
  rw [← Host.Outcome.next.inj h]
  exact Kept.by' (sourceCheck_k _) (Kept.set_time Kept.refl rfl) rfl
theorem execPpsInEdge_k (s : State) {t : State} (h : execPpsInEdge s = .next t) : Kept [.regs, .time, .ev] s t := by
  unfold execPpsInEdge at h
  dsimp -proj only at h
  rw [← Host.Outcome.next.inj h]
  apply Kept.ite
  · apply Kept.by' (phaseSample_k _ _) _ rfl
    exact Kept.set_time (Kept.by' (wr64_k _ _ _) Kept.refl rfl) rfl
  · exact Kept.by' (wr64_k _ _ _) Kept.refl rfl
theorem execPpsOutRise_k (s : State) {t : State} (h : execPpsOutRise s = .next t) : Kept [.time, .out] s t := by
  unfold execPpsOutRise at h
  refine next_ite h (fun h => ?_) (fun h => next_inj h ▸ Kept.refl)
  rw [← next_inj h]
  apply Kept.ite
  · apply Kept.by' (drive_k _ _ _ _) _ rfl
    apply Kept.by' (drive_k _ _ _ _) _ rfl
    exact Kept.set_time Kept.refl rfl
  · apply Kept.by' (drive_k _ _ _ _) _ rfl
    exact Kept.set_time Kept.refl rfl
theorem execPpsOutFall_k (s : State) {t : State} (h : execPpsOutFall s = .next t) : Kept [.time, .out] s t := by
  unfold execPpsOutFall at h
  refine next_ite h (fun h => ?_) (fun h => next_inj h ▸ Kept.refl)
  rw [← next_inj h]
  apply Kept.by' (drive_k _ _ _ _) _ rfl
  exact Kept.set_time Kept.refl rfl

theorem execRactFire_k (a0) (a1) (s : State) {t : State} (h : execRactFire a0 a1 s = .next t) : Kept butPending s t := by
  unfold execRactFire at h
  rw [← Host.Outcome.next.inj h]
  apply Kept.ite _ Kept.refl
  dsimp only
  apply Kept.ite
  · exact Kept.by' (lateFiring_k _) (ractFire_k _ _ _ _) rfl
  · exact ractFire_k _ _ _ _

theorem execRegisterWrite_k (a0) (a1) (a2) (a3) (a4) (s : State) {t : State} (h : execRegisterWrite a0 a1 a2 a3 a4 s = .next t) : Kept butPending s t := by
  rw [← Host.Outcome.next.inj h]; exact inOrder_k _ _
theorem execLoRegisterWrite_k (a0) (a1) (a2) (a3) (s : State) {t : State} (h : execLoRegisterWrite a0 a1 a2 a3 s = .next t) : Kept butPending s t := by
  rw [← Host.Outcome.next.inj h]; exact inOrder_k _ _
theorem execHiRegisterWrite_k (a0) (a1) (a2) (a3) (s : State) {t : State} (h : execHiRegisterWrite a0 a1 a2 a3 s = .next t) : Kept butPending s t := by
  rw [← Host.Outcome.next.inj h]; exact inOrder_k _ _
theorem execAliasWrite_k (a0) (a1) (a2) (a3) (s : State) {t : State} (h : execAliasWrite a0 a1 a2 a3 s = .next t) : Kept butPending s t := by
  rw [← Host.Outcome.next.inj h]; exact inOrder_k _ _
theorem execFtStep_k (a0) (a1) (a2) (a3) (s : State) {t : State} (h : execFtStep a0 a1 a2 a3 s = .next t) : Kept butPending s t := by
  rw [← Host.Outcome.next.inj h]; exact inOrder_k _ _
theorem exportSlot_k {s u : State} {t x c k} (e : exportSlot s t x c = .inr (u, k)) : Kept [.cy] s u := by
  unfold exportSlot at e
  split at e
  · injection e with e; injection e with e _; exact e ▸ Kept.refl
  · split at e
    · cases e
    · rename_i q; injection e with e; injection e with e _; exact e ▸ imageSlot_k q
theorem nsKeysReady_k {s u : State} {k a} (e : nsKeysReady s k a = .inr u) : Kept [.cy] s u := by
  unfold nsKeysReady at e
  split at e
  · split at e
    · cases e
    · rename_i q
      split at e
      · cases e
      · rename_i q'
        injection e with e
        exact e ▸ Kept.by' (useSlot_k q') (useSlot_k q) rfl
  · injection e with e; exact e ▸ Kept.refl
theorem nsCreateKeys_k {s u : State} {c n a} (e : nsCreateKeys s c n = .inr (u, a)) : Kept [.cy] s u := by
  unfold nsCreateKeys at e
  split at e
  · injection e with e; injection e with e _; exact e ▸ Kept.refl
  · split at e
    · cases e
    · rename_i q; injection e with e; injection e with e _; exact e ▸ nsKeySlots_k q
theorem execExportSlice_k (a0) (a1) (a2) (s : State) {t : State} (h : execExportSlice a0 a1 a2 s = .next t) : Kept [.mem, .host, .ch, .slices, .cy, .out] s t := by
  unfold execExportSlice at h
  rw [← Host.Outcome.next.inj h]
  refine ownerCmd_k Kept.refl (fun u n x hu => ?_) rfl
  apply Kept.ite1 hu
  dsimp only
  apply Kept.ite1 hu
  split
  · exact hu
  · rename_i q
    have hv := Kept.by' (exportSlot_k q) hu rfl
    apply Kept.ite1 hv
    exact Kept.by' (slWrite_k _ _ _ _ _) hv rfl
theorem execNsModify_k (a0) (a1) (s : State) {t : State} (h : execNsModify a0 a1 s = .next t) : Kept [.regs, .ev, .mem, .host, .ch, .slices, .cy, .sv, .out] s t := by
  unfold execNsModify at h
  rw [← Host.Outcome.next.inj h]
  refine svAdmin_k Kept.refl (fun u n hu => ?_) rfl
  dsimp -proj only
  split
  · exact hu
  · apply Kept.ite1 hu
    split
    · exact hu
    · rename_i q
      have hv := Kept.by' (nsKeysReady_k q) hu rfl
      dsimp only
      apply Kept.ite
      · apply Kept.by' (nsState_k _ _ _) _ rfl
        apply Kept.ite _ hv
        exact Kept.by' (nsUpd_k _ _ _) hv rfl
      · apply Kept.ite _ hv
        exact Kept.by' (nsUpd_k _ _ _) hv rfl
theorem execNsCreate_k (a0) (a1) (a2) (s : State) {t : State} (h : execNsCreate a0 a1 a2 s = .next t) : Kept [.regs, .mem, .host, .ch, .slices, .cy, .sv, .out] s t := by
  unfold execNsCreate at h
  rw [← Host.Outcome.next.inj h]
  refine svAdmin_k Kept.refl (fun u n hu => ?_) rfl
  dsimp -proj only
  split
  · exact hu
  · exact hu
  · split
    · exact hu
    · rename_i q
      have hv := Kept.by' (nsCreateKeys_k q) hu rfl
      dsimp only
      apply Kept.by' (showNss_k _) _ rfl
      exact Kept.by' (svUpd_k _ _) hv rfl
theorem capsuleRun_k (s : State) (a1) (a2) : Kept [.regs, .ev, .mem, .host, .ch, .slices, .sv, .out, .draws] s (capsuleRun s a1 a2) := by
  unfold capsuleRun
  split
  · exact Kept.refl
  · rename_i c _
    apply Kept.ite Kept.refl
    dsimp -proj only
    have h : ∀ x, Kept [.regs, .ev, .mem, .host, .ch, .slices, .sv, .out, .draws] s (cmdNew s x).2 := fun x => Kept.by' (cmdNew_k _ _) Kept.refl rfl
    apply Kept.ite
    · exact Kept.by' (finish_k _ _ _ _ _ _) (h _) rfl
    · split
      · exact Kept.by' (flushStart_k _ _ _ _) (h _) rfl
      · exact ioChecked_k (h _) (fun u m k hu => Kept.by' (beginWrite_k _ _ _ _ _) hu rfl) rfl
      · exact ioChecked_k (h _) (fun u m k hu => Kept.by' (beginRead_k _ _ _ _ _) hu rfl) rfl
      · exact ioChecked_k (h _) (fun u m k hu => Kept.by' (beginZeroes_k _ _ _ _ _) hu rfl) rfl
      · exact ioChecked_k (h _) (fun u m k hu => Kept.by' (beginDsm_k _ _ _ _ _) hu rfl) rfl
theorem execStorageCapsule_k (a0 a1) (s : State) {t : State} (h : execStorageCapsule a0 a1 s = .next t) : Kept [.regs, .ev, .mem, .host, .ch, .slices, .sv, .out, .draws] s t := by
  rw [← Host.Outcome.next.inj h]; exact capsuleRun_k _ _ _
end Sys2Proof.Machine
end

