-- ==== Sys2Proof/Laws/Access.lean ====
section
/-! SUPPORT. Laws/Access.lean: what the shared operations leave, once each: the access checks, register writes, the event
router, snapshots, the admin commands of the rings, of the controllers and of the mailbox, and debug commands. -/

namespace Sys2Proof.Machine
set_option linter.all false
/-- An aligned store crosses no boundary (R63). -/
theorem crosses_aligned {off : Nat} (h : off % 4 = 0) (req : Requester) (be : Nat) : crosses req be off = false := by
  cases req <;> simp [crosses, h]
/-- Between commands the offset that an error records is the register's own (R689). -/
theorem ownOff_idle {s : State} (h : s.acc.own = none) (off : Nat) : ownOff s off = off := by simp [ownOff, h]
theorem gate_open {s : State} {req off f} (h : Passes s req off false) : gate s req 15 off false f = f s := by
  simp [gate, h.1, h.2.1, h.2.2.2]
theorem gate_window {s : State} {req off f} (h : Passes s req off true) : gate s req 15 off true f = f (closeWindow s) := by
  simp [gate, h.1, h.2.1, h.2.2.1 rfl, h.2.2.2]
theorem mergeWord_testBit (old rw w1c v k : Nat) (h : k < 32) :
    (mergeWord old rw w1c v).testBit k = ((if rw.testBit k then v.testBit k else old.testBit k) && !(v.testBit k && w1c.testBit k)) := by
  have hm : Nat.testBit 0xFFFFFFFF k = true := by
    have : (0xFFFFFFFF : Nat) = 2 ^ 32 - 1 := by decide
    rw [this, Nat.testBit_two_pow_sub_one]; simpa using h
  simp only [mergeWord, Nat.testBit_and, Nat.testBit_or, Nat.testBit_xor, hm, Bool.and_true, Bool.true_bne]
  cases rw.testBit k <;> cases v.testBit k <;> cases old.testBit k <;> cases w1c.testBit k <;> rfl

theorem accIs_means {s req off r} {p : Acc → Bool} (h : Means s req off r) : accIs s req off p = (isReg r && p { reg := r }) := by
  simp [accIs, h.1, h.2.2.1]
theorem busWrite_means {s req off r be v env} (h : Means s req off r) : busWrite s req off be v env = busWith regEffect s req off be v env := by
  simp [busWrite, h.1, h.2.1]
/-- An access that no earlier write of its requester holds back does what its row does. -/
theorem inOrder_now {s : State} {x : Access} (h : indWaits s x.req = false) : inOrder s x = busRow s x := by simp [inOrder, h]
theorem isReg_def {r d} (h : regDef r = some d) : isReg r = true := by simp [isReg, h]
theorem regStore_def {s r v d} (hd : regDef r = some d) (h0 : d.rw ≠ 0 ∨ d.w1c ≠ 0) :
    regStore s r v = wrN s r (mergeWord (rdN s r) d.rw d.w1c v.toNat) := by
  simp only [regStore, hd]; rw [if_neg]; simp; omega
theorem hiCommit_none {s req r} (h : pairOf r ≠ 2) : hiCommit s req r = s := by simp [hiCommit, h]
/-- An effect that leaves the offset of the write alone, and does not go by it, is the same with it set. -/
theorem withOwn_comm {s : State} {off reg : Nat} {f : State → State} (hf : ∀ o, f { s with acc := { s.acc with own := o } } = { f s with acc := { (f s).acc with own := o } })
    (h0 : (f s).acc.own = s.acc.own) : withOwn s off reg f = f s := by
  unfold withOwn
  split
  · rfl
  · dsimp only
    rw [hf]
    dsimp only
    rw [← h0]
theorem withOwn_congr {s : State} {off reg : Nat} {f g : State → State}
    (h : ∀ o, f { s with acc := { s.acc with own := o } } = g { s with acc := { s.acc with own := o } }) : withOwn s off reg f = withOwn s off reg g := by
  unfold withOwn
  split
  · exact h s.acc.own
  · dsimp only
    rw [h]
/-- A write of a register itself that passes the checks has its effect, with its offset known. -/
theorem busWith_open {s req off r v env} {eff : State → Requester → Nat → W32 → Env → State} (h : access s req off = some { reg := r })
    (hr : isReg r = true) (hl : r < 0x20000000) (hs : r ≠ Reg.FT_STEP_CTL) (hg : guardedWrite r v = false)
    (hp : Passes s req (gateOff r off) false) : busWith eff s req off 15 v env = withOwn s (off % 0x4000000) r (fun u => eff u req r v env) := by
  have hl' : ¬ 0x20000000 ≤ r := by omega
  simp only [busWith, h, writable, hr, accGuarded]
  simp only [hg, hl', hs, Bool.not_false, Bool.and_true, Bool.true_and, decide_true, decide_false, Bool.false_and, if_false, if_true, Bool.true_or, Bool.not_true, Bool.false_eq_true]
  unfold withOwn
  split
  · dsimp only; rw [gate_open hp]; simp [accEffect]
  · dsimp only
    rw [gate_open (s := { s with acc := { s.acc with own := some (off % 0x4000000) } }) ⟨hp.1, hp.2.1, hp.2.2.1, hp.2.2.2⟩]; simp [accEffect]

theorem mergeWord_full (old : Nat) (v : W32) : BitVec.ofNat 32 (mergeWord old 0xFFFFFFFF 0 v.toNat) = v := by
  apply BitVec.eq_of_toNat_eq
  apply Nat.eq_of_testBit_eq
  intro k
  rw [BitVec.toNat_ofNat, Nat.testBit_mod_two_pow]
  by_cases hk : k < 32
  · have hm : Nat.testBit 0xFFFFFFFF k = true := by
      have : (0xFFFFFFFF : Nat) = 2 ^ 32 - 1 := by decide
      rw [this, Nat.testBit_two_pow_sub_one]; simpa using hk
    rw [mergeWord_testBit _ _ _ _ _ hk]
    simp [hk, hm]
  · have h : v.toNat.testBit k = false := Nat.testBit_lt_two_pow (Nat.lt_of_lt_of_le v.isLt (Nat.pow_le_pow_right (by omega) (by omega)))
    simp [hk, h]
theorem guardedWrite_false {r : Nat} (v : W32) (h : (regDef r).map (fun d => d.guarded) = some false) (h' : r ≠ Reg.OZ_MB_CMD) : guardedWrite r v = false := by
  simp [guardedWrite, h, h']
theorem regStore_full {s r v d} (h1 : regDef r = some d) (h2 : d.rw = 0xFFFFFFFF) (h3 : d.w1c = 0) : regStore s r v = wr s r v := by
  rw [regStore_def h1 (.inl (by rw [h2]; decide)), h2, h3, wrN, mergeWord_full]

theorem Keeps.weak {l m : List Part} {s t : State} (h : Keeps m s t) (hm : m.all (fun p => l.contains p) = true) : Keeps l s t :=
  Keeps.refl.after h hm
theorem Keeps.after' {l m k : List Part} {s t u : State} (h : Keeps m s t) (h' : Keeps k t u)
    (hm : (m ++ k).all (fun p => l.contains p) = true := by rfl) : Keeps l s u := by
  rw [List.all_append, Bool.and_eq_true] at hm
  exact (h.weak hm.1).after h' hm.2

theorem rd_regs {s t : State} (h : t.regs = s.regs) (x : Nat) : rd t x = rd s x := by simp only [rd, h]
theorem raiseAt_rd (s : State) (src code time fs) {x : Nat} (h : x ≠ Reg.OZ_EV_LOST_CNT) : rd (raiseAt s src code time fs) x = rd s x := by
  unfold raiseAt
  dsimp only
  split
  · rfl
  · unfold bump; rw [rd_wrN_ne _ _ h]; rfl
theorem raise_rd (s : State) (src fs) {x : Nat} (h : x ≠ Reg.OZ_EV_LOST_CNT) : rd (raise s src fs) x = rd s x := raiseAt_rd _ _ _ _ _ h
theorem raiseLate_rd (s : State) (src l fs) {x : Nat} (h : x ≠ Reg.OZ_EV_LOST_CNT) : rd (raiseLate s src l fs) x = rd s x := raiseAt_rd _ _ _ _ _ h
theorem raisePhase_rd (s : State) (src f fs) {x : Nat} (h : x ≠ Reg.OZ_EV_LOST_CNT) : rd (raisePhase s src f fs) x = rd s x := raiseAt_rd _ _ _ _ _ h
theorem raiseWin_rd (s : State) (src k c t fs) {x : Nat} (h : x ≠ Reg.OZ_EV_LOST_CNT) : rd (raiseWin s src k c t fs) x = rd s x := raiseAt_rd _ _ _ _ _ h
theorem raiseLim_rd (s : State) (src k fs n) {x : Nat} (h : x ≠ Reg.OZ_EV_LOST_CNT) : rd (raiseLim s src k fs n) x = rd s x := by
  unfold raiseLim
  split
  · exact raiseWin_rd _ _ _ _ _ _ h
  · rename_i w _
    split
    · exact raiseWin_rd _ _ _ _ _ _ h
    · have h2 : ∀ (u : State) (e : EvSt), rd { u with ev := e } x = rd u x := fun _ _ => rfl
      dsimp only
      rw [h2]
      split
      · exact raiseWin_rd _ _ _ _ _ _ h
      · rfl
theorem rdN_eq {s t : State} {x : Nat} (h : rd t x = rd s x) : rdN t x = rdN s x := by simp only [rdN, h]
theorem rdF_eq {s t : State} {x lo w : Nat} (h : rd t x = rd s x) : rdF t x lo w = rdF s x lo w := by simp only [rdF, rdN, h]
/-- What a raised event leaves in the router. -/
theorem raiseAt_ev (s : State) (src code time fs) (h : s.ev.queue.length < 4096) :
    (raiseAt s src code time fs).ev.queue = s.ev.queue ++ [{ source := src, seq := agetD s.ev.seq src 0, code := code, time := time, data := evData fs, route := evRoute s src, dest := rdN s (Reg.OZ_EV_DEST (fld (evRoute s src) 1 4)) }] := by
  unfold raiseAt
  dsimp only
  rw [if_pos h]
theorem wr64_rd_ne (s : State) (lo v : Nat) {x : Nat} (h : x ≠ lo) (h' : x ≠ lo + 4) : rd (wr64 s lo v) x = rd s x := by
  unfold wr64; rw [rd_wrN_ne _ _ h', rd_wrN_ne _ _ h]
theorem wr64_lo (s : State) (lo v : Nat) : rdN (wr64 s lo v) lo = v % 2 ^ 32 := by
  unfold wr64; rw [rdN_wrN_ne _ _ (by omega), rdN_wrN_same]; omega
theorem wr64_hi (s : State) (lo v : Nat) : rdN (wr64 s lo v) (lo + 4) = v / 2 ^ 32 % 2 ^ 32 := by
  unfold wr64; exact rdN_wrN_same _ _ _
theorem rd64_wr64 (s : State) (lo v : Nat) (h : v < 2 ^ 64) : rd64 (wr64 s lo v) lo = v := by
  unfold rd64; rw [wr64_lo, wr64_hi]; omega
theorem bump_same (s : State) (o n : Nat) : rdN (bump s o n) o = (rdN s o + n) % 2 ^ 32 := by unfold bump; rw [rdN_wrN_same]
theorem bump_rd_ne (s : State) (o n : Nat) {x : Nat} (h : x ≠ o) : rd (bump s o n) x = rd s x := by unfold bump; rw [rd_wrN_ne _ _ h]

theorem takeSnapshot_rd (s : State) (src late) {x : Nat} (h : x ≠ Reg.OZ_EV_LOST_CNT) (h1 : x ≠ Reg.GL_SNAP_GEN) (h2 : x ≠ Reg.GL_SNAP_TIME_LO) (h3 : x ≠ Reg.GL_SNAP_TIME_HI) :
    rd (takeSnapshot s src late) x = rd s x := by
  unfold takeSnapshot
  dsimp only
  rw [raiseLate_rd _ _ _ _ h, wr64_rd_ne _ _ _ h2 h3, bump_rd_ne _ _ _ h1]
  apply rd_regs
  refine Keeps.regs (l := [.stairs, .snap]) ?_
  apply Keeps.foldl
  · exact Keeps.set_snap Keeps.refl rfl
  · intro t a h
    split
    · apply Keeps.foldl h
      intro u b k
      exact Keeps.ite (Keeps.by' (bankSwap_k _ _ _).keeps k rfl) k
    · exact h
theorem takeSnapshot_gen (s : State) (src late) : rdN (takeSnapshot s src late) Reg.GL_SNAP_GEN = (rdN s Reg.GL_SNAP_GEN + 1) % 2 ^ 32 := by
  unfold takeSnapshot
  dsimp only
  rw [rdN_eq (raiseLate_rd _ _ _ _ (by decide)), rdN_eq (wr64_rd_ne _ _ _ (by decide) (by decide)), bump_same]
  congr 2
  apply rdN_eq
  apply rd_regs
  refine Keeps.regs (l := [.stairs, .snap]) ?_
  apply Keeps.foldl
  · exact Keeps.set_snap Keeps.refl rfl
  · intro t a h
    split
    · apply Keeps.foldl h
      intro u b k
      exact Keeps.ite (Keeps.by' (bankSwap_k _ _ _).keeps k rfl) k
    · exact h
theorem takeSnapshot_time (s : State) (src late) : rdN (takeSnapshot s src late) Reg.GL_SNAP_TIME_LO = nowNs s % 2 ^ 32 ∧ rdN (takeSnapshot s src late) Reg.GL_SNAP_TIME_HI = nowNs s / 2 ^ 32 % 2 ^ 32 := by
  unfold takeSnapshot
  dsimp only
  rw [rdN_eq (raiseLate_rd _ _ _ _ (by decide)), rdN_eq (raiseLate_rd _ _ _ _ (by decide)), wr64_lo, show Reg.GL_SNAP_TIME_HI = Reg.GL_SNAP_TIME_LO + 4 from rfl, wr64_hi]
  have : ∀ u : State, Keeps [.stairs, .snap] s u → nowNs u = nowNs s := by intro u h; simp only [nowNs, h.time]
  rw [this]
  · exact ⟨rfl, rfl⟩
  apply Keeps.foldl
  · exact Keeps.set_snap Keeps.refl rfl
  · intro t a h
    split
    · apply Keeps.foldl h
      intro u b k
      exact Keeps.ite (Keeps.by' (bankSwap_k _ _ _).keeps k rfl) k
    · exact h

theorem fnGet_fnUpd (s l n f) : fnGet (fnUpd s l n f) l n = f (fnGet s l n) := by simp [fnGet, fnUpd, fnSet]
theorem fnGet_host {s t : State} (h : t.host = s.host) (l n) : fnGet t l n = fnGet s l n := by simp only [fnGet, h]

/-- An admin command that is ready runs its body on its target. -/
theorem runAdmin_ready {s : State} {sl op : Nat} {cmd : List Byte} {t : Nat} {f} (h : AdminReady s sl op cmd t) :
    runAdmin s sl op cmd f = match f s t with
      | (s', some r) => adminComplete s' sl op (leAt cmd 8 8) r
      | (s', none) => s' := by
  obtain ⟨h1, h2, h3, h4, h5⟩ := h
  unfold runAdmin
  cases hx : aget s.slices sl with
  | none => rw [hx] at h4; cases h4
  | some x =>
    rw [hx] at h4
    simp only [Option.any_some, Bool.and_eq_true, bne_iff_ne, ne_eq, Bool.or_eq_true, beq_iff_eq] at h4
    have hb : ¬ ((decide (x.state = 2) || (decide (x.state = 4) && decide (sl ≠ 0)) || !adminHead s sl op cmd) = true) := by
      simp only [h1, Bool.not_true, Bool.or_false, Bool.or_eq_true, decide_eq_true_eq, Bool.and_eq_true]
      rintro (q | ⟨q, r⟩)
      · exact h4.1 q
      · exact h4.2.elim (fun w => w q) (fun w => r w)
    dsimp only
    rw [if_neg hb, if_neg (by simp [h2]), h3]
    dsimp only
    have hc : ¬ ((decide (((aget s.slices t).map (fun y => y.state)) = some 2) && !runsInReset op) = true) := by
      cases hy : aget s.slices t with
      | none => simp
      | some y =>
        rw [hy] at h5
        intro hh
        simp only [Option.map_some, Bool.and_eq_true, decide_eq_true_eq, Option.some.injEq, Bool.not_eq_true'] at hh
        simp [hh.1, hh.2] at h5
    exact (if_neg hc).trans (by cases f s t with | mk a b => cases b <;> rfl)
/-- The owner's command on an existing slice. -/
theorem ownerCmd_ready {s : State} {op : Nat} {cmd : List Byte} {t : Nat} {x : Slice} {f} (h : AdminReady s 0 op cmd t) (hx : aget s.slices t = some x) :
    ownerCmd s 0 op cmd f = match f s t x with
      | (s', some r) => adminComplete s' 0 op (leAt cmd 8 8) r
      | (s', none) => s' := by
  unfold ownerCmd
  rw [runAdmin_ready h]
  simp only [ne_eq, not_true_eq_false, if_false, hx]

theorem le_length (n x : Nat) : (le n x).length = n := by
  induction n generalizing x with
  | zero => rfl
  | succ n ih => simp only [le, List.length_cons, ih]

theorem fit_length (n : Nat) (bs : List Byte) : (fit n bs).length = n := by
  simp only [fit, slice, List.length_append, List.length_take, List.length_drop, List.length_replicate]; omega

theorem fit_full {n : Nat} {bs : List Byte} (h : bs.length = n) : fit n bs = bs := by
  subst h
  simp only [fit, slice, List.drop_zero, List.take_length, Nat.sub_self, List.replicate_zero, List.append_nil]
theorem fold_rdF {α : Type} (l : List α) (f : State → α → State) (r lo w : Nat) (h : ∀ s a, a ∈ l → rdF (f s a) r lo w = rdF s r lo w) (s : State) :
    rdF (l.foldl f s) r lo w = rdF s r lo w := by
  induction l generalizing s with
  | nil => rfl
  | cons a l ih => rw [List.foldl_cons, ih (fun s b hb => h s b (List.mem_cons_of_mem _ hb)), h s a (List.mem_cons_self ..)]
theorem raise_sheaf (s src fs) : (raise s src fs).sheaf = s.sheaf := (raise_k _ _ _).keeps.sheaf

theorem fold_wrN_other {α : Type} (l : List α) (f g : α → Nat) (r : Nat) (h : ∀ a ∈ l, r ≠ f a) (s : State) :
    rd (l.foldl (fun s a => wrN s (f a) (g a)) s) r = rd s r := by
  induction l generalizing s with
  | nil => rfl
  | cons a l ih => rw [List.foldl_cons, ih (fun b hb => h b (List.mem_cons_of_mem _ hb)), rd_wrN_ne _ _ (h a (List.mem_cons_self ..))]
theorem fold_wrN_range (n : Nat) (f g : Nat → Nat) (hf : ∀ i j, f i = f j → i = j) (s : State) {w : Nat} (h : w < n) :
    rdN ((List.range n).foldl (fun s a => wrN s (f a) (g a)) s) (f w) = g w % 2 ^ 32 := by
  induction n with
  | zero => omega
  | succ n ih =>
    rw [List.range_succ, List.foldl_append, List.foldl_cons, List.foldl_nil]
    by_cases hw : w = n
    · subst hw; rw [rdN_wrN_same]
    · rw [rdN_wrN_ne _ _ (fun e => hw (hf _ _ e))]
      exact ih (by omega)
theorem stairGet_stairUpd (s : State) (p : Nat) (f) : stairGet (stairUpd s p f) p = f (stairGet s p) := by
  simp [stairGet, stairUpd, stairSet, agetD]
theorem stairGet_eq {s t : State} (h : t.stairs = s.stairs) (p : Nat) : stairGet t p = stairGet s p := by simp only [stairGet, h]
theorem aset_aset {α : Type} (m : AMap α) (k : Nat) (a b : α) : aset (aset m k a) k b = aset m k b := by
  induction m with
  | nil => simp [aset]
  | cons e m ih =>
    obtain ⟨j, v⟩ := e
    simp only [aset]
    split
    · simp [aset]
    · split
      · simp [aset]
      · rename_i h1 h2; simp only [aset, if_neg h1, if_neg h2, ih]
theorem agetD_aset {α : Type} (m : AMap α) (k : Nat) (a d : α) : agetD (aset m k a) k d = a := by simp [agetD]
theorem setFree_rd (s : State) (n : Nat) {x : Nat} (h : x ≠ Reg.LD_FREE) (h1 : x ≠ Reg.LD_FREE_LWM) (h2 : x ≠ Reg.OZ_EV_LOST_CNT) : rd (setFree s n) x = rd s x := by
  unfold setFree
  dsimp only
  have hi : ∀ (c : Prop) [Decidable c] (u w : State), rd u x = rd s x → rd w x = rd s x → rd (if c then u else w) x = rd s x := by
    intro c _ u w h h'; split <;> assumption
  have ha : rd (wrN s Reg.LD_FREE n) x = rd s x := rd_wrN_ne _ _ h
  have hb : rd (wrN (wrN s Reg.LD_FREE n) Reg.LD_FREE_LWM n) x = rd s x := (rd_wrN_ne _ _ h1).trans ha
  refine hi _ _ _ ((raiseLim_rd _ _ _ _ _ h2).trans ?_) ?_ <;> exact hi _ _ _ hb ha
theorem freeGrains_rd (s : State) (n : Nat) {x : Nat} (h : x ≠ Reg.LD_FREE) (h1 : x ≠ Reg.LD_FREE_LWM) (h2 : x ≠ Reg.OZ_EV_LOST_CNT) (h3 : x ≠ Reg.LD_UNADMITTED) :
    rd (freeGrains s n) x = rd s x := (setFree_rd _ _ h h1 h2).trans (rd_wrN_ne _ _ h3)
theorem freeGrains_unadmitted (s : State) (n : Nat) : rdN (freeGrains s n) Reg.LD_UNADMITTED = (rdN s Reg.LD_UNADMITTED - n) % 2 ^ 32 := by
  unfold freeGrains regSub
  rw [rdN_eq (setFree_rd _ _ (by decide) (by decide) (by decide)), rdN_wrN_same]
theorem pack_length (n : Nat) (fs) : (pack n fs).length = n := le_length _ _
/-- The result of a command that the target takes. -/
theorem adminResult_ok {s : State} {sl : Nat} {cmd bs : List Byte} {e : Env} (h : envWrite e = STS_OK) :
    adminResult s sl cmd bs e = (slWrite s sl (par cmd 0x18 0 64) 0 bs, some { len := bs.length }) := by
  simp only [adminResult, adminPut, h, if_true]
/-- An admin command of a controller that is fetched and well formed runs. -/
theorem nvmeAdmin_ready {s : State} {i op : Nat} {sqe : List Byte} {x : Ctrl} {f} (h : NvmeReady s i op sqe x) :
    nvmeAdmin s i op sqe f = f (fetchCmd s i 0 (fit 64 sqe)).2 (fetchCmd s i 0 (fit 64 sqe)).1 x := by
  obtain ⟨h1, h2, h3, h4⟩ := h
  unfold nvmeAdmin
  simp only [h1, h2, h3, h4, Bool.not_true, Bool.false_eq_true, if_false, ne_eq, not_true_eq_false]
theorem memGets_length (m : List Host.Cell) (a n : Nat) : (memGets m a n).length = n := by
  induction n generalizing a with
  | zero => rfl
  | succ n ih => simp [memGets, ih]
/-- What a mailbox command does with the bytes it reads. -/
theorem mbRead_ready {s u : State} {addr n : Nat} {e : Env} {bs : List Byte} (h : mbData s addr n e = some (u, bs)) (f) : mbRead s addr n e f = f u bs := by
  unfold mbData at h
  unfold mbRead
  cases hw : s.host.owner with
  | some l =>
    rw [hw] at h
    dsimp only at h ⊢
    generalize slFetch s 0 [(addr, n)] 0 (envRead e 0) = r at h ⊢
    obtain ⟨w, d⟩ := r
    cases d <;> simp at h
    simp [h]
  | none =>
    rw [hw] at h
    dsimp only at h ⊢
    split at h
    · rw [if_pos ‹_›]
      simp at h
      rw [← h.1, ← h.2]
    · cases h
/-- The bytes that a mailbox command reads are as many as it asks for, and the read leaves Ozelm's state alone. -/
theorem mbData_keeps {s u : State} {addr n : Nat} {e : Env} {bs : List Byte} (h : mbData s addr n e = some (u, bs)) : bs.length = n ∧ u.oz = s.oz := by
  unfold mbData at h
  split at h
  · have hk := (slFetch_k s 0 [(addr, n)] 0 (envRead e 0)).keeps.same .oz (by decide)
    generalize slFetch s 0 [(addr, n)] 0 (envRead e 0) = r at h hk
    obtain ⟨w, d⟩ := r
    cases d <;> simp at h
    exact ⟨by rw [← h.2]; exact fit_length _ _, by rw [← h.1]; exact hk⟩
  · split at h
    · simp at h
      exact ⟨by rw [← h.2]; exact memGets_length _ _ _, by rw [← h.1]⟩
    · cases h
/-- A mailbox command that is ready runs. -/
theorem mbRow_ready {s : State} {req : Requester} {v : W32} {op : Nat} {env : Env} {run : MbRun} {u : State} {sts : Byte} {rs : List Nat} (h : MbReady s req v op)
    (hr : run (mbState s op) (mbArgs s) env = some (u, sts, rs)) : mbRow s req 15 v op env run = mbEnd u sts rs := by
  obtain ⟨h1, h2, h3, h4, h5, h6⟩ := h
  unfold mbRow
  rw [if_neg (by simp [h1])]
  have hs : ∀ w : State, w = mbState s op → mbStart w v env run = mbEnd u sts rs := by
    intro w hw
    have hreg : w.regs = s.regs := by subst hw; unfold mbState; split <;> rfl
    have hoz : w.oz = s.oz := by subst hw; unfold mbState; split <;> rfl
    unfold mbStart
    have e1 : rdF w Reg.OZ_MB_CMD 8 1 = 0 := (rdF_eq (rd_regs hreg _)).trans h5
    have e2 : ozRunning w = true := by rw [← h4]; unfold ozRunning; rw [rdF_eq (rd_regs hreg _)]
    have e3 : (List.range 8).map (fun w' => rdN w (Reg.OZ_MB_ARG w')) = mbArgs s := List.map_congr_left (fun a _ => rdN_eq (rd_regs hreg _))
    rw [if_neg (by rw [hoz]; exact h3), if_neg (by simp [e2]), if_neg (by omega)]
    simp only [h6, Bool.false_eq_true, if_false, e3]
    rw [hw, hr]
  cases hg : (op / 16 == 2)
  · rw [hg] at h2
    rw [gate_open h2]
    exact hs s (by simp [mbState, hg])
  · rw [hg] at h2
    rw [gate_window h2]
    exact hs _ (by simp [mbState, hg])
/-- A debug command within scope runs, and its status is shown. -/
theorem dbgRow_ready {s : State} {req : Requester} {t n op : Nat} {v : W32} {pa : Option Nat} {pc : Nat} (h : DbgReady s req t n op v) (h0 : op ≠ 0) :
    dbgRow op req 15 t v pa pc s =
      wrF (dbgRun (plainWrite s (tilR Reg.TIL_DBG_CMD t) 0x3F0 v) t n op pa pc).1 (tilR Reg.TIL_DBG_STATUS t) 0 8
        (dbgRun (plainWrite s (tilR Reg.TIL_DBG_CMD t) 0x3F0 v) t n op pa pc).2.toNat := by
  obtain ⟨h1, h2, h3, h4, h5⟩ := h
  unfold dbgRow
  rw [if_pos (by simp [h1, h2]), gate_open h4]
  unfold dbgCmdWrite
  simp only [h2, h3, h0, if_false, h5, if_true]
/-- Where every controller of the lower half is ACTIVE, no guarded data is gone, wherever it lies. -/
theorem guardedGone_whole {s : State} (h : ∀ c ∈ List.range 8, gmState s c = 0) (k o a : Nat) : guardedGone s k o a = false := by
  have h0 : gmState s (Config.gmHome k o a % 8) = 0 := h _ (List.mem_range.2 (Nat.mod_lt _ (by decide)))
  simp only [guardedGone, guardedFrom, h0, if_true, Option.isNone_some, Bool.false_and]

end Sys2Proof.Machine
end

