-- ==== Sys2Proof/Laws/PerInstr.lean ====
section
/-! SUPPORT. Laws/PerInstr.lean: statements about every command as syntax. -/

namespace Sys2Proof.Laws

end Sys2Proof.Laws
end

