-- ==== Sys2Proof/WellFormed.lean ====
section
/-! DEFINITION. WellFormed.lean: the commands whose operands are in the ranges the spec gives them: byte enables of four bytes,
units, links, functions, ports, threads, steps and tables that exist, 64-byte command entries. Values that a register takes are
not restricted: every value of a register write is a command. -/

namespace Sys2Proof

/-- Chapters 1 and 3: 16 host links with 256 functions each; 34 tillers with 64 threads each. -/
def reqOk : Requester → Bool
  | .fn link fnum => link < 16 && fnum < 256
  | .thread tiller n => tiller < 34 && n < 64
  | .action => true

/-- R171: channel indices 1 to 8,388,608; a queue pair is a channel. -/
def chOk (i : Nat) : Bool := 1 ≤ i && i ≤ 8388608

/-- R578: 9 stairs, 34 tillers and 9 engines under their unit numbers. -/
def unitOk (u : Nat) : Bool := u < 9 || (16 ≤ u && u < 50) || (64 ≤ u && u < 73)

/-- Chapter 1: 20 steps of the ingress flight (0), 12 of the egress flight (1). -/
def stepNo (fl k : Nat) : Bool := k < (if fl = 0 then 20 else 12)

/-- Chapter 6 (kind 0x01) and chapter 15: an entry of an admin ring or of a submission queue has 64 bytes. -/
def entryOk (bs : List Byte) : Bool := bs.length = 64

/-- R643: a rail reads as many monitors as the table gives it. -/
def railMons (rail : Nat) (mvs : List Nat) : Bool := mvs.length = ([12, 6, 4, 2, 4, 2, 2][rail]?).getD 0

/-- The operands of a command are in range. -/
def Instr.wf : Instr → Bool
  | .registerWrite req off be _ _ => reqOk req && off < 2 ^ 32 && be < 16
  | .loRegisterRead req off => reqOk req && off < 2 ^ 32
  | .rcRegisterRead req off => reqOk req && off < 2 ^ 32
  | .loRegisterWrite req off be _ => reqOk req && off < 2 ^ 32 && be < 16
  | .hiRegisterWrite req off be _ => reqOk req && off < 2 ^ 32 && be < 16
  | .aliasWrite req off be _ => reqOk req && off < 2 ^ 32 && be < 16
  | .glUnlockWrite req be _ => reqOk req && be < 16
  | .unlockWindowExpire => true
  | .indDataRead req off => reqOk req && off < 2 ^ 32
  | .indDataWrite req off be _ => reqOk req && off < 2 ^ 32 && be < 16
  | .indCmdRead req off be _ => reqOk req && off < 2 ^ 32 && be < 16
  | .indDomainAnswer k _ _ => k < 37
  | .indOverrun k => k < 37
  | .indTimeout k => k < 37
  | .snapshotGo req be _ => reqOk req && be < 16
  | .snapAtFire => true
  | .warmReset req be _ => reqOk req && be < 16
  | .ftSrcCtlWrite req be _ => reqOk req && be < 16
  | .ftPhaseInLoWrite req be _ => reqOk req && be < 16
  | .phaseSampleSubmit req be _ => reqOk req && be < 16
  | .ppsInEdge => true
  | .ptmExchange => true
  | .ptmExchangeDone _ => true
  | .sourceLostTimeout => true
  | .tclkInFault _ => true
  | .ftStep req be _ _ => reqOk req && be < 16
  | .ractFire k _ => k < 1024
  | .departureRelease q => q < 262144
  | .ppsOutRise => true
  | .ppsOutFall => true
  | .epochBoundary => true
  | .ldEpochCtlWrite req be _ => reqOk req && be < 16
  | .configWrite link fnum off be v => link < 16 && fnum < 256 && (off < 4096 && off % 4 = 0) && be < 16 && v < 2 ^ 32
  | .busMasterDisable link fnum => link < 16 && fnum < 256
  | .busMasterEnable link fnum => link < 16 && fnum < 256
  | .d3hotEntry link fnum => link < 16 && fnum < 256
  | .d3hotExit link fnum => link < 16 && fnum < 256
  | .functionLevelReset link fnum => link < 16 && fnum < 256
  | .flrEnd link fnum => link < 16 && fnum < 256
  | .vfEnableChange link _ num => link < 16 && num < 256
  | .barResize link _ bar _ => link < 16 && bar ≤ 5
  | .msixTableWrite link fnum idx word be v => link < 16 && fnum < 256 && idx < 2048 && word < 4 && be < 16 && v < 2 ^ 32
  | .perstAssert link => link < 16
  | .perstDeassert link => link < 16
  | .hotResetReceived link => link < 16
  | .hostLinkDown link => link < 16
  | .hostLinkUp link rate width _ => link < 16 && rate < 8 && width < 17
  | .hostReadCompletion link tag _ => link < 16 && tag < 16384
  | .completionTimeout link tag => link < 16 && tag < 16384
  | .tagWaitEnd link => link < 16
  | .peerWindowRequest link fnum _ _ len _ => link < 16 && fnum < 256 && (1 ≤ len && len ≤ 4096)
  | .winSwap req be face _ => reqOk req && be < 16 && face < 4
  | .winOldDrained link fnum => link < 16 && fnum < 256
  | .fnCfgWrite req be face _ => reqOk req && be < 16 && face < 4
  | .ideCheckFail link k => link < 16 && k < 4
  | .spdmRequest link _ => link < 16
  | .rpMergeWrite req be _ => reqOk req && be < 16
  | .slotControlWrite req be p _ => reqOk req && be < 16 && p < 8
  | .slotPerstRelease p => p < 8
  | .slotPowerDrop p => p < 8
  | .presenceChange p _ => p < 8
  | .powerFault p => p < 8
  | .attentionButton p => p < 8
  | .rpLinkDown p => p < 8
  | .rpLinkUp p rate width => p < 8 && rate < 8 && width < 17
  | .dcfgRead req be p _ => reqOk req && be < 16 && p < 8
  | .dcfgWrite req be p _ => reqOk req && be < 16 && p < 8
  | .dcfgAnswer p result data => p < 8 && result ≤ 4 && data < 2 ^ 32
  | .driveWriteForward p _ _ => p < 8
  | .driveCompletion p _ _ => p < 8
  | .pgModeWrite req be pg _ => reqOk req && be < 16 && pg < 8
  | .pgModeChangeDone pg => pg < 8
  | .portEnable req be p _ => reqOk req && be < 16 && p < 32
  | .portDisable req be p _ => reqOk req && be < 16 && p < 32
  | .signalDetect pg lane _ _ => pg < 8 && lane < 4
  | .trainingComplete p _ _ => p < 32
  | .trainingTimeout p _ => p < 32
  | .trainFailRetry p => p < 32
  | .lockChange p _ _ _ => p < 32
  | .debounceExpire p => p < 32
  | .fecDegradeWindow p _ _ _ => p < 32
  | .frameReceive p _ _ _ _ => p < 32
  | .macControlFrame p _ => p < 32
  | .pauseTimerExpire p => p < 32
  | .pfcWatchdog p c => p < 32 && c < 8
  | .pfcRefresh p => p < 32
  | .frameTransmit p => p < 32
  | .tsFifoPop req p => reqOk req && p < 32
  | .rclkSquelch pg => pg < 8
  | .rclkResume pg => pg < 8
  | .doorbell link fnum page be => (link < 16 || link = 255) && fnum < 256 && page < 65536 && be < 16
  | .pidxWrite link fnum page slot be _ => (link < 16 || link = 255) && fnum < 256 && page < 65536 && slot < 16 && be < 16
  | .cidxWrite link fnum page slot be _ => (link < 16 || link = 255) && fnum < 256 && page < 65536 && slot < 16 && be < 16
  | .cqArm link fnum page slot be _ => (link < 16 || link = 255) && fnum < 256 && page < 65536 && slot < 16 && be < 16
  | .descriptorFetch ch => chOk ch
  | .descriptorArrive _ => true
  | .completionWrite ch => chOk ch
  | .ethTxCompletion ch => chOk ch
  | .msixModTimer ch => chOk ch
  | .nop sl cmd => sl < 16384 && entryOk cmd
  | .queryStatus sl cmd => sl < 16384 && entryOk cmd
  | .createChannel sl cmd => sl < 16384 && entryOk cmd
  | .destroyChannel sl cmd => sl < 16384 && entryOk cmd
  | .modifyChannel sl cmd => sl < 16384 && entryOk cmd
  | .disableChannel sl cmd => sl < 16384 && entryOk cmd
  | .enableChannel sl cmd => sl < 16384 && entryOk cmd
  | .resetChannel sl cmd => sl < 16384 && entryOk cmd
  | .queryChannel sl cmd _ => sl < 16384 && entryOk cmd
  | .aqEnable req be sl _ => reqOk req && be < 16 && sl < 16384
  | .aqDisable req be sl _ => reqOk req && be < 16 && sl < 16384
  | .slCtlReset req be sl _ => reqOk req && be < 16 && sl < 16384
  | .createSlice sl cmd => sl < 16384 && entryOk cmd
  | .destroySlice sl cmd => sl < 16384 && entryOk cmd
  | .setQuota sl cmd => sl < 16384 && entryOk cmd
  | .queryQuota sl cmd _ => sl < 16384 && entryOk cmd
  | .resetSlice sl cmd => sl < 16384 && entryOk cmd
  | .querySlice sl cmd => sl < 16384 && entryOk cmd
  | .sliceResetStart sl => sl < 16384
  | .sliceResetEnd sl => sl < 16384
  | .backgroundZero sl _ => sl < 16384
  | .logStart sl cmd => sl < 16384 && entryOk cmd
  | .logFlush sl cmd _ => sl < 16384 && entryOk cmd
  | .logStop sl cmd => sl < 16384 && entryOk cmd
  | .freezeSlice sl cmd => sl < 16384 && entryOk cmd
  | .freezeComplete sl => sl < 16384
  | .freezeTimeout sl => sl < 16384
  | .exportSlice sl cmd _ => sl < 16384 && entryOk cmd
  | .importSlice sl cmd _ => sl < 16384 && entryOk cmd
  | .thawSlice sl cmd => sl < 16384 && entryOk cmd
  | .ingressEntry role fl _ => role < 8 && fl < 2
  | .flightStep p fl _ _ => p < 9 && fl < 2
  | .ingressRetire role _ => role < 8
  | .arrayMarkerRetire role fl => role < 8 && fl < 2
  | .reentryRelease _ => true
  | .gleanWaitExpire _ => true
  | .gleanAge p slot => p < 9 && slot < 65536
  | .parseWrite req be st _ => reqOk req && be < 16 && st < 9
  | .parseRead req be st _ => reqOk req && be < 16 && st < 9
  | .tableLookup req be site _ => reqOk req && be < 16 && site.stair < 9 && site.ecc < 4 ^ 9
  | .tableRead req be site _ => reqOk req && be < 16 && site.stair < 9 && site.ecc < 4 ^ 9
  | .tableInsert req be site _ => reqOk req && be < 16 && site.stair < 9 && site.ecc < 4 ^ 9
  | .tableUpdate req be site _ => reqOk req && be < 16 && site.stair < 9 && site.ecc < 4 ^ 9
  | .tableDelete req be site _ => reqOk req && be < 16 && site.stair < 9 && site.ecc < 4 ^ 9
  | .tableWrite req be site _ => reqOk req && be < 16 && site.stair < 9 && site.ecc < 4 ^ 9
  | .tableErase req be site _ => reqOk req && be < 16 && site.stair < 9 && site.ecc < 4 ^ 9
  | .tableIter req be site _ => reqOk req && be < 16 && site.stair < 9 && site.ecc < 4 ^ 9
  | .tableClear req be site _ => reqOk req && be < 16 && site.stair < 9 && site.ecc < 4 ^ 9
  | .tableCommandResume st => st < 9
  | .tblCfgApply req be p t _ => reqOk req && be < 16 && p < 9 && t < 64
  | .sheafSweep => true
  | .tcamScrub p t found => p < 9 && t < 64 && found.idx < 4096 && found.shadow < 3
  | .l2Learn p => p < 9
  | .l2AgeingPass p => p < 9
  | .l2LoadComplete part => part.stair < 9
  | .deepFetchStart p t _ => p < 9 && t < 64
  | .deepFetchComplete p t _ _ => p < 9 && t < 64
  | .sheafCommit req be _ => reqOk req && be < 16
  | .sheafCommitAt req be _ => reqOk req && be < 16
  | .sheafCommitEffect => true
  | .sheafCancel req be _ => reqOk req && be < 16
  | .sheafUnstage req be _ => reqOk req && be < 16
  | .sheafDrain => true
  | .sheafDrainLimit => true
  | .arrayRead req be st fl _ => reqOk req && be < 16 && st < 9 && fl < 2
  | .arrayReadSnap req be st fl _ => reqOk req && be < 16 && st < 9 && fl < 2
  | .arrayWrite req be st fl _ => reqOk req && be < 16 && st < 9 && fl < 2
  | .arrayReadClear req be st fl _ => reqOk req && be < 16 && st < 9 && fl < 2
  | .arrayClear req be st fl _ => reqOk req && be < 16 && st < 9 && fl < 2
  | .arrCfgWrite req be p fl a _ => reqOk req && be < 16 && p < 9 && fl < 2 && a < 16
  | .rehearsalStart req be _ => reqOk req && be < 16
  | .rehearsalStop req be _ => reqOk req && be < 16
  | .ucDataWrite req be p fl k _ => reqOk req && be < 16 && p < 9 && fl < 2 && stepNo fl k
  | .ucDataRead req p fl k => reqOk req && p < 9 && fl < 2 && stepNo fl k
  | .writeNw req be p fl k _ => reqOk req && be < 16 && p < 9 && fl < 2 && stepNo fl k
  | .readNw req be p fl k _ => reqOk req && be < 16 && p < 9 && fl < 2 && stepNo fl k
  | .stepCtlWrite req be p fl k _ => reqOk req && be < 16 && p < 9 && fl < 2 && stepNo fl k
  | .loadBusyTimeout p fl k => p < 9 && fl < 2 && stepNo fl k
  | .ucScrub p fl k store bank addr => p < 9 && fl < 2 && (store = 2 || stepNo fl k) && store < 3 && bank < 2 && addr < (if store = 0 then 2048 else if store = 1 then 512 else 256)
  | .inlineVerifyDone q _ => q < 262144
  | .dispatch root => root < 48
  | .egressRetire role _ _ => role < 8
  | .hostGrainWaitEnd ch _ => chOk ch
  | .overflowCopyDone q _ => q < 262144
  | .ovfSizeWrite req be _ => reqOk req && be < 16
  | .nodeSelWrite req be _ => reqOk req && be < 16
  | .apply req be _ => reqOk req && be < 16
  | .flush req be _ => reqOk req && be < 16
  | .clrCnt req be _ => reqOk req && be < 16
  | .meterAssign req be st fl _ => reqOk req && be < 16 && st < 9 && fl < 2
  | .meterRefreshPass role fl a => role < 8 && fl < 2 && a < 16
  | .keyImport sl cmd _ => sl < 16384 && entryOk cmd
  | .keyGenerate sl cmd => sl < 16384 && entryOk cmd
  | .keyErase sl cmd => sl < 16384 && entryOk cmd
  | .keyQuery sl cmd => sl < 16384 && entryOk cmd
  | .cctxCreate sl cmd _ => sl < 16384 && entryOk cmd
  | .cctxDestroy sl cmd => sl < 16384 && entryOk cmd
  | .cctxQuery sl cmd _ => sl < 16384 && entryOk cmd
  | .keyDerived p fl _ _ => p < 9 && fl < 2
  | .laneGo be sl l _ => be < 16 && sl < 16384 && l < 16
  | .lookasideComplete _ _ => true
  | .keyEraseAlarm bits => (1 ≤ bits && bits < 32)
  | .ksAlarmWrite req be _ _ => reqOk req && be < 16
  | .entropyFail _ => true
  | .entropyRecover => true
  | .qpModify sl cmd _ => sl < 16384 && entryOk cmd
  | .qpQuery sl cmd _ => sl < 16384 && entryOk cmd
  | .regRegion sl cmd => sl < 16384 && entryOk cmd
  | .deregRegion sl cmd => sl < 16384 && entryOk cmd
  | .deregComplete _ => true
  | .revokeSlow _ => true
  | .queryRegion sl cmd _ => sl < 16384 && entryOk cmd
  | .pathSet sl cmd _ => sl < 16384 && entryOk cmd
  | .pathQuery sl cmd _ => sl < 16384 && entryOk cmd
  | .grmtPacketGenerate qp _ _ => chOk qp
  | .ackDelayTimer qp => chOk qp
  | .retransmitTimeout qp => chOk qp
  | .rnrWaitExpire qp => chOk qp
  | .msgTimeout qp => chOk qp
  | .qpFetchComplete qp _ => chOk qp
  | .qpEvict _ => true
  | .qpWritebackDone qp _ => chOk qp
  | .sqTailDoorbell link fnum y v => link < 16 && fnum < 256 && y ≤ 256 && v < 2 ^ 32
  | .cqHeadDoorbell link fnum y v => link < 16 && fnum < 256 && y ≤ 256 && v < 2 ^ 32
  | .ccEnable link fnum v => link < 16 && fnum < 256 && v < 2 ^ 32
  | .ccDisable link fnum v => link < 16 && fnum < 256 && v < 2 ^ 32
  | .controllerDrainEnd c => c < 4096
  | .ccShutdown link fnum v => link < 16 && fnum < 256 && v < 2 ^ 32
  | .deleteIoSubmissionQueue c sqe => c < 4096 && entryOk sqe
  | .createIoSubmissionQueue c sqe => c < 4096 && entryOk sqe
  | .getLogPage c sqe _ => c < 4096 && entryOk sqe
  | .deleteIoCompletionQueue c sqe => c < 4096 && entryOk sqe
  | .createIoCompletionQueue c sqe => c < 4096 && entryOk sqe
  | .identify c sqe _ => c < 4096 && entryOk sqe
  | .abort c sqe _ => c < 4096 && entryOk sqe
  | .setFeatures c sqe => c < 4096 && entryOk sqe
  | .getFeatures c sqe => c < 4096 && entryOk sqe
  | .asynchronousEventRequest c sqe => c < 4096 && entryOk sqe
  | .firmwareImageDownload c sqe _ => c < 4096 && entryOk sqe
  | .firmwareCommit c sqe => c < 4096 && entryOk sqe
  | .firmwareActivationDone c => c < 4096
  | .deviceSelfTest c sqe => c < 4096 && entryOk sqe
  | .selfTestSegment c _ => c < 4096
  | .selfTestResume c => c < 4096
  | .nvmeFlush c q sqe => c < 4096 && (1 ≤ q && q ≤ 256) && entryOk sqe
  | .nvmeWrite c q sqe _ _ => c < 4096 && (1 ≤ q && q ≤ 256) && entryOk sqe
  | .nvmeRead c q sqe _ _ => c < 4096 && (1 ≤ q && q ≤ 256) && entryOk sqe
  | .writeZeroes c q sqe _ _ => c < 4096 && (1 ≤ q && q ≤ 256) && entryOk sqe
  | .datasetManagement c q sqe _ _ => c < 4096 && (1 ≤ q && q ≤ 256) && entryOk sqe
  | .backingComplete _ _ _ => true
  | .journalReplay p _ _ _ => p < 64
  | .poolMemberFail p _ _ => p < 64
  | .poolRebuildDone p => p < 64
  | .nsNotReady n => n < 65536
  | .nsReady n => n < 65536
  | .storageCapsule c _ => c < 4096
  | .ctrlCreate sl cmd => sl < 16384 && entryOk cmd
  | .ctrlDestroy sl cmd => sl < 16384 && entryOk cmd
  | .ctrlQuery sl cmd _ => sl < 16384 && entryOk cmd
  | .poolCreate sl cmd _ _ => sl < 16384 && entryOk cmd
  | .poolDestroy sl cmd => sl < 16384 && entryOk cmd
  | .poolRebuild sl cmd _ => sl < 16384 && entryOk cmd
  | .poolQuery sl cmd => sl < 16384 && entryOk cmd
  | .nsCreate sl cmd _ => sl < 16384 && entryOk cmd
  | .nsDestroy sl cmd => sl < 16384 && entryOk cmd
  | .nsAttach sl cmd => sl < 16384 && entryOk cmd
  | .nsDetach sl cmd => sl < 16384 && entryOk cmd
  | .nsModify sl cmd => sl < 16384 && entryOk cmd
  | .nsQuery sl cmd => sl < 16384 && entryOk cmd
  | .chPut t n rs1 rs2 f7 => t < 34 && n < 64 && rs1 < 32 && rs2 < 32 && f7 < 128
  | .chRecv t n rs1 _ f7 deadline => t < 34 && n < 64 && rs1 < 32 && f7 < 128 && deadline < 2 ^ 64
  | .chWait t n rs1 rs2f f7 deadline => t < 34 && n < 64 && rs1 < 32 && rs2f < 32 && f7 < 128 && deadline < 2 ^ 64
  | .chAbort t n rs1 rs2f f7 => t < 34 && n < 64 && rs1 < 32 && rs2f < 32 && f7 < 128
  | .chTimer t n rs1 rs2 f7 => t < 34 && n < 64 && rs1 < 32 && rs2 < 32 && f7 < 128
  | .chInfo t n rs1 rs2f f7 => t < 34 && n < 64 && rs1 < 32 && rs2f < 32 && f7 < 128
  | .channelUnblock t n => t < 34 && n < 64
  | .channelDeadline t n => t < 34 && n < 64
  | .threadTimerExpire t n k => t < 34 && n < 64 && k < 4
  | .thHalt req be t n _ => reqOk req && be < 16 && t < 34 && n < 64
  | .thResume req be t n _ => reqOk req && be < 16 && t < 34 && n < 64
  | .thReset req be t n _ => reqOk req && be < 16 && t < 34 && n < 64
  | .thCancel req be t n _ => reqOk req && be < 16 && t < 34 && n < 64
  | .thWake req be t n _ => reqOk req && be < 16 && t < 34 && n < 64
  | .threadContextWrite req be t n k _ => reqOk req && be < 16 && t < 34 && n < 64 && k < 5
  | .thGroupWrite req be t n _ => reqOk req && be < 16 && t < 34 && n < 64
  | .portSelWrite req be t _ => reqOk req && be < 16 && t < 34
  | .portApply req be t _ => reqOk req && be < 16 && t < 34
  | .dmaRequest t => t < 34
  | .dmaComplete t _ => t < 34
  | .threadFault t n _ cause _ _ _ => t < 34 && n < 64 && cause < 3
  | .faultRecordPost t => t < 34
  | .standstill t g => t < 34 && (1 ≤ g && g ≤ 63)
  | .dbgHalt req be t _ => reqOk req && be < 16 && t < 34
  | .dbgResume req be t _ => reqOk req && be < 16 && t < 34
  | .dbgStep req be t _ pc => reqOk req && be < 16 && t < 34 && pc < 2 ^ 64
  | .dbgRdReg req be t _ => reqOk req && be < 16 && t < 34
  | .dbgWrReg req be t _ => reqOk req && be < 16 && t < 34
  | .dbgRdMem req be t _ _ => reqOk req && be < 16 && t < 34
  | .dbgWrMem req be t _ _ => reqOk req && be < 16 && t < 34
  | .abandon req be t _ => reqOk req && be < 16 && t < 34
  | .dbgReset req be t _ => reqOk req && be < 16 && t < 34
  | .bpSet req be t _ => reqOk req && be < 16 && t < 34
  | .bpClr req be t _ => reqOk req && be < 16 && t < 34
  | .breakpointHit t n pc => t < 34 && n < 64 && pc < 2 ^ 64
  | .tillerRelease t role => t < 34 && role < 32
  | .heartbeat u => unitOk u
  | .heartbeatTimeout u => unitOk u
  | .machineCheck u _ => unitOk u
  | .takeoverComplete kind role _ => kind < 3 && role < (if kind = 1 then 32 else 8)
  | .fence req be _ => reqOk req && be < 16
  | .readmit req be _ => reqOk req && be < 16
  | .autoReadmit u => unitOk u
  | .retire req be _ => reqOk req && be < 16
  | .handover req be _ => reqOk req && be < 16
  | .handoverEnd => true
  | .rollingUpdateStep => true
  | .selfTestDone u outcome => unitOk u && outcome < 3
  | .gmLose req be c _ => reqOk req && be < 16 && c < 16
  | .controllerLost c cause => c < 16 && (cause = 1 || cause = 2)
  | .gmRetrain req be c _ _ => reqOk req && be < 16 && c < 16
  | .resyncComplete c => c < 16
  | .guardedReadFix c => c < 16
  | .eventDeliver => true
  | .rateLimitWindow src _ => src < 4096
  | .tmRingBind req be r _ => reqOk req && be < 16 && r < 16
  | .hitarrWrite req be p t _ => reqOk req && be < 16 && p < 9 && t < 62
  | .info req be _ => reqOk req && be < 16
  | .logRead req be _ _ => reqOk req && be < 16
  | .bindMgmt req be _ => reqOk req && be < 16
  | .fwBegin req be _ => reqOk req && be < 16
  | .fwWrite req be _ _ => reqOk req && be < 16
  | .fwVerify req be _ => reqOk req && be < 16
  | .fwActivate req be _ => reqOk req && be < 16
  | .fwCommit req be _ => reqOk req && be < 16
  | .fwRevert req be _ => reqOk req && be < 16
  | .stairProbe req be _ _ => reqOk req && be < 16
  | .ozKeyErase req be _ => reqOk req && be < 16
  | .lcTransition req be _ _ => reqOk req && be < 16
  | .bcrWrite req be _ _ => reqOk req && be < 16
  | .ozRestart req be _ => reqOk req && be < 16
  | .nonce req be _ => reqOk req && be < 16
  | .debugOpen req be _ _ => reqOk req && be < 16
  | .debugClose req be _ => reqOk req && be < 16
  | .debugExpiry => true
  | .mctpMessage iface _ => iface < 18
  | .mgmtFrameReceive _ _ => true
  | .mgmtFrameSend _ _ => true
  | .pmbusPoll rail _ => rail < 7
  | .supplyDip rail mvs => rail < 7 && railMons rail mvs
  | .supplyClear rail ends => rail < 7 && railMons rail ends.mvs && railMons rail ends.lows
  | .throttleRelease => true
  | .unstableEnd => true
  | .supplyReset read => read.rail < 7 && railMons read.rail read.mvs
  | .supplyResetEnd pins => pins.bifs.length = 4 && pins.clks.length = 4 && pins.mvs.length = 32
  | .thermalLevel sensor _ => sensor < 64
  | .logMirror => true
  | .ozelmFault cause => (4 ≤ cause && cause ≤ 6)
  | .ozelmRestartDone => true
  | .powerGood bifs clks _ _ => bifs.length = 4 && clks.length = 4
  | .powerGoodDeassert => true
  | .pllLockTimeout => true
  | .startupStage _ => true
  | .clockMonitorExcursion monitor _ => monitor < 8
  | .rpErrorMessage p bit sev => p < 8 && bit < 32 && sev < 3

end Sys2Proof
end

