-- ==== Sys2Proof/Tests/Slice0.lean ====
section
/-! SUPPORT. Tests/Slice0.lean: tests of single steps, and for every statement with hypotheses a state and operands that meet
them. -/

namespace Sys2Proof.Tests
open Sys2Proof Sys2Proof.Machine
set_option Elab.async false

/-- A state whose host link 0 is up. -/
def linkedUp : State := wrF {} (hfLink 0) 0 1 1

/-- A state past start-up whose port group 0 works in mode 4. -/
def portsUp : State := wrF (wrN {} Reg.GL_BOOT_STAGE 5) (Reg.EN_PG_STATUS 0) 12 3 4

/-- A port that is UP, in 802.3x mode. -/
def portUpNow : State := wrN (wrF (portSet portsUp 3 { lock := true }) (Reg.EN_PORT_STATUS 0 3) 0 3 3) (Reg.EN_PORT_CTL 0 3) 9

/-- A channel of a kind, in a slot of page 0, that completes on channel 6. -/
def ringChan (kind slot : Nat) : Chan := { gen := 0, kind := kind, slice := 1, page := 0, slot := slot, size := 8, base := 0, mirror := 0, bind := 6 }

/-- A slice of tiller memory with a transmit ring and its completion ring. -/
def ringsUp : State :=
  { slices := [(1, { link := none, fnum := 0, pasid := none, page0 := 0, pages := 1 })],
    ch := { chans := [(2, { ringChan 2 2 with sampled := 1, pidxReg := 1 }), (6, ringChan 6 6)] } }

/-- An admin command of the owner on slice `t`. -/
def adminCmd (op t : Nat) (ps : List (Nat × Nat × Nat × Nat)) : List Byte := pack 64 ([(0, 0, 8, op), (4, 0, 14, t), (4, 15, 1, 1)] ++ ps)

/-- A ready device whose slice 0 has an admin command at the head of its ring; slice 1 exists too, with a CQ and a transmit ring. -/
def adminAt (cmd : List Byte) : State :=
  wrN { slices := [(0, { link := none, fnum := 0, pasid := none, page0 := 0, pages := 1 }), (1, { link := none, fnum := 0, pasid := none, page0 := 1, pages := 1 })],
        ch := { chans := [(1, { ringChan 1 0 with slice := 0, ents := [{ idx := 0, desc := cmd }] }), (2, ringChan 2 2), (6, ringChan 6 6)] } } Reg.GL_DEVICE_READY 1

/-- A slice is bound to function 0 of link 0, which is up and masters its bus. -/
def onHost (s : State) (sl : Nat) : State := slUpd (cfgSet (wrF s (hfLink 0) 0 1 1) 0 0 0x04 6) sl (fun x => { x with link := some 0 })

/-- Function 0 of link 0 presents controller 3 of slice 1. -/
def nvAt (c : Ctrl) : State :=
  let s := fnUpd linkedUp 0 0 (fun f => { f with nvme := true, msixAlloc := 8, enabled := true, cfg := [(4, 6)] })
  { s with slices := [(1, { link := some 0, fnum := 0, pasid := none, page0 := 1, pages := 1 })], sv := { ctrls := [(3, c)] } }

/-- An enabled controller with one entry in its admin queue. -/
def nvUp : Ctrl := { kind := 0, slice := 1, fw := true, cc := 0x460001, rdy := true, sqs := [(0, { base := 0, size := 4, cq := 0, tail := 1 }), (2, { base := 0, size := 4, cq := 255 })], cqs := [(0, { base := 0, size := 4 }), (1, { base := 0, size := 4 })] }

def nvReadyUp : Ctrl := { nvUp with sqs := [(0, { base := 0, size := 4, cq := 0, head := 1, tail := 1 }), (2, { base := 0, size := 4, cq := 255 })] }

def nvSqe (op : Nat) (ps : List (Nat × Nat × Nat × Nat)) : List Byte := pack 64 ([(0, 0, 8, op)] ++ ps)

/-- Thread 63 of the tiller 31 in a state, with a port 15. -/
def thAt (st : Nat) (p : TPort) (x : Thread) : State :=
  wrF { tils := [(31, { ports := [(16 * 63 + 15, p)], threads := [(63, x)] })] } (thR Reg.TH_STATUS 31 63) 0 3 st

/-- Thread 63 of the tiller 31, with the debug scope of the whole tiller. -/
def dbgAt (st : Nat) (p : TPort) (x : Thread) : State := wrN (wrN (thAt st p x) (tilR Reg.TIL_DBG_SCOPE 31) 3) Reg.GL_BOOT_STAGE 5

/-- A running Ozelm with an idle mailbox. -/
def ozUp : State := wrF {} Reg.OZ_STATUS 0 1 1

theorem test_reset_queue_empty : State.reset.pending = [] := by decide


/-- Chapter 3, the example of a guarded step of fabric time, just before the write of FT_STEP_CTL: +4,000 ns, block 1 unlocked. -/
def stepReady : State :=
  { wrN (wrN {} Reg.GL_BOOT_STAGE 5) Reg.FT_STEP_VAL_LO 0xFA0 with acc := { window := some { opened := 0, owner := .action, block := 1 } } }
/-- Chapter 3, example: KEY 0x5AE7 with BLOCK 1 opens the window of block 1. -/
theorem test_unlock_example : (match exec (.glUnlockWrite .action 15 0x00015AE7) {} with | .next t => t.acc.window.map (fun w => w.block) | _ => none) = some 1 := by decide +kernel
/-- Chapter 3, example: the step applies as in R42 and the window closes on that write. -/
theorem test_step_example : (match exec (.ftStep .action 15 1 {}) stepReady with | .next t => (nowNs t, t.acc.window.isSome, rdN t Reg.FT_STEP_GEN) | _ => (0, true, 0)) = (4000, false, 1) := by decide +kernel
/-- Chapter 4, the example of splitting a gather element: requests of 192, 4,096, 4,096 and 616 bytes. -/
theorem test_split_example : (splitPieces 4096 4 0x720000F40 0 9000).map (fun p => p.2) = [192, 4096, 4096, 616] := by decide +kernel
/-- Chapter 5, the example of PFC timing: a quantum of a 400 GbE port is 1.28 ns, so 65,535 of them are 83,884.8 ns. -/
theorem test_quanta_example : quanta (wrN (wrF {} (Reg.EN_PG_STATUS 3) 12 3 2) Reg.GL_BOOT_STAGE 5) 14 65535 / 65536 = 83884 := by decide +kernel
/-- The published check value of CRC32C over the digits 1 to 9. -/
theorem test_crc32c_check : crc32c [0x31, 0x32, 0x33, 0x34, 0x35, 0x36, 0x37, 0x38, 0x39] = 0xE3069283 := by decide +kernel
/-- The queue is first in, first out: a step takes the front command and leaves the rest. -/
theorem test_step_takes_front : (match step { pending := [.epochBoundary, .sheafSweep] } with | .next t => t.pending | _ => []) = [.sheafSweep] := by decide +kernel
/-- R80: without the window the write of FT_STEP_CTL is dropped and LOCKED_WR sets. -/
theorem test_step_locked : (match exec (.ftStep .action 15 1 {}) { stepReady with acc := {} } with | .next t => (nowNs t, rdF t Reg.GL_ERR_STATUS 0 1) | _ => (0, 0)) = (0, 1) := by decide +kernel

theorem test_wf_refuses_1 : ([.registerWrite (.fn 16 0) 0 0 0 {}, .registerWrite (.fn 0 256) 0 0 0 {}, .registerWrite (.thread 34 0) 0 0 0 {}, .registerWrite (.thread 0 64) 0 0 0 {}, .registerWrite .action 4294967296 0 0 {}, .registerWrite .action 0 16 0 {}, .indDomainAnswer 37 0 false, .ractFire 1024 {}, .departureRelease 262144, .configWrite 16 0 0 0 0, .configWrite 0 256 0 0 0, .configWrite 0 0 2 0 0] : List Instr).all (fun c => !c.wf) = true := by decide +kernel
theorem test_wf_refuses_2 : ([.configWrite 0 0 4096 0 0, .configWrite 0 0 0 0 4294967296, .vfEnableChange 0 false 256, .barResize 0 false 6 0, .msixTableWrite 0 0 2048 0 0 0, .msixTableWrite 0 0 0 4 0 0, .hostLinkUp 0 8 0 false, .hostLinkUp 0 0 17 false, .hostReadCompletion 0 16384 (.ok []), .peerWindowRequest 0 0 false 0 0 [], .peerWindowRequest 0 0 false 0 4097 [], .winSwap .action 0 4 0] : List Instr).all (fun c => !c.wf) = true := by decide +kernel
theorem test_wf_refuses_3 : ([.ideCheckFail 0 4, .slotControlWrite .action 0 8 0, .dcfgAnswer 0 5 0, .dcfgAnswer 0 0 4294967296, .pgModeWrite .action 0 8 0, .portEnable .action 0 32 0, .signalDetect 0 4 false false, .pfcWatchdog 0 8, .doorbell 16 0 0 0, .doorbell 0 0 65536 0, .pidxWrite 0 0 0 16 0 0, .descriptorFetch 0] : List Instr).all (fun c => !c.wf) = true := by decide +kernel
theorem test_wf_refuses_4 : ([.descriptorFetch 8388609, .nop 16384 (List.replicate 64 0), .nop 0 (List.replicate 63 0), .ingressEntry 8 0 false, .ingressEntry 0 2 false, .flightStep 9 0 0 .twin, .gleanAge 0 65536, .parseWrite .action 0 9 0, .tableLookup .action 0 ⟨9, 0⟩ 0, .tableLookup .action 0 ⟨0, 4 ^ 9⟩ 0, .tblCfgApply .action 0 0 64 0, .tcamScrub 0 0 ⟨4096, 0⟩] : List Instr).all (fun c => !c.wf) = true := by decide +kernel
theorem test_wf_refuses_5 : ([.tcamScrub 0 0 ⟨0, 3⟩, .l2LoadComplete ⟨9, 0⟩, .arrCfgWrite .action 0 0 0 16 0, .ucDataWrite .action 0 0 0 20 0, .ucScrub 0 0 20 0 0 0, .ucScrub 0 0 0 3 0 0, .ucScrub 0 0 0 0 2 0, .ucScrub 0 0 0 0 0 2048, .dispatch 48, .laneGo 0 0 16 0, .keyEraseAlarm 0, .keyEraseAlarm 32] : List Instr).all (fun c => !c.wf) = true := by decide +kernel
theorem test_wf_refuses_6 : ([.grmtPacketGenerate 0 0 {}, .grmtPacketGenerate 8388609 0 {}, .sqTailDoorbell 0 0 257 0, .controllerDrainEnd 4096, .deleteIoSubmissionQueue 0 (List.replicate 63 0), .nvmeFlush 0 0 (List.replicate 64 0), .nvmeFlush 0 257 (List.replicate 64 0), .journalReplay 64 none none [], .nsNotReady 65536, .chPut 34 0 0 0 0, .chPut 0 64 0 0 0, .chPut 0 0 32 0 0] : List Instr).all (fun c => !c.wf) = true := by decide +kernel
theorem test_wf_refuses_7 : ([.chPut 0 0 0 32 0, .chPut 0 0 0 0 128, .chRecv 0 0 0 none 0 18446744073709551616, .chWait 0 0 0 32 0 0, .threadContextWrite .action 0 0 0 5 0, .threadFault 0 0 0 3 0 0 0, .standstill 0 0, .standstill 0 64, .dbgStep .action 0 0 0 18446744073709551616, .tillerRelease 0 32, .heartbeat 9, .heartbeat 50] : List Instr).all (fun c => !c.wf) = true := by decide +kernel
theorem test_wf_refuses_8 : ([.heartbeat 73, .takeoverComplete 3 0 [], .takeoverComplete 0 8 [], .selfTestDone 0 3, .gmLose .action 0 16 0, .controllerLost 0 0, .controllerLost 0 3, .rateLimitWindow 4096 0, .tmRingBind .action 0 16 0, .hitarrWrite .action 0 0 62 0, .mctpMessage 18 .plain, .pmbusPoll 7 none] : List Instr).all (fun c => !c.wf) = true := by decide +kernel
theorem test_wf_refuses_9 : ([.supplyDip 0 (List.replicate 1 0), .supplyClear 0 ⟨[], List.replicate 12 0⟩, .supplyClear 0 ⟨List.replicate 12 0, []⟩, .supplyReset ⟨7, []⟩, .supplyReset ⟨1, []⟩, .supplyResetEnd ⟨[], [0, 0, 0, 0], [], List.replicate 32 0⟩, .supplyResetEnd ⟨[0, 0, 0, 0], [], [], List.replicate 32 0⟩, .supplyResetEnd ⟨[0, 0, 0, 0], [0, 0, 0, 0], [], []⟩, .thermalLevel 64 0, .ozelmFault 3, .ozelmFault 7, .powerGood (List.replicate 1 0) (List.replicate 4 0) [] []] : List Instr).all (fun c => !c.wf) = true := by decide +kernel
theorem test_wf_refuses_10 : ([.powerGood (List.replicate 4 0) (List.replicate 1 0) [] [], .clockMonitorExcursion 8 0, .rpErrorMessage 0 32 0, .rpErrorMessage 0 0 3] : List Instr).all (fun c => !c.wf) = true := by decide +kernel
theorem test_wf_takes_1 : ([.registerWrite .action 0 0 0 {}, .indDomainAnswer 0 0 false, .ractFire 0 {}, .departureRelease 0, .configWrite 0 0 0 0 0, .vfEnableChange 0 false 0, .barResize 0 false 0 0, .msixTableWrite 0 0 0 0 0 0, .hostLinkUp 0 0 0 false, .hostReadCompletion 0 0 (.ok []), .peerWindowRequest 0 0 false 0 1 [], .winSwap .action 0 0 0] : List Instr).all (fun c => c.wf) = true := by decide +kernel
theorem test_wf_takes_2 : ([.ideCheckFail 0 0, .slotControlWrite .action 0 0 0, .dcfgAnswer 0 0 0, .pgModeWrite .action 0 0 0, .portEnable .action 0 0 0, .signalDetect 0 0 false false, .pfcWatchdog 0 0, .doorbell 0 0 0 0, .pidxWrite 0 0 0 0 0 0, .descriptorFetch 1, .nop 0 (List.replicate 64 0), .ingressEntry 0 0 false] : List Instr).all (fun c => c.wf) = true := by decide +kernel
theorem test_wf_takes_3 : ([.flightStep 0 0 0 .twin, .gleanAge 0 0, .parseWrite .action 0 0 0, .tableLookup .action 0 ⟨8, 0⟩ 0, .tblCfgApply .action 0 0 0 0, .tcamScrub 0 0 ⟨4095, 2⟩, .l2LoadComplete ⟨8, 5⟩, .arrCfgWrite .action 0 0 0 0 0, .ucDataWrite .action 0 0 0 0 0, .ucScrub 0 0 0 0 0 0, .dispatch 0, .laneGo 0 0 0 0] : List Instr).all (fun c => c.wf) = true := by decide +kernel
theorem test_wf_takes_4 : ([.keyEraseAlarm 1, .grmtPacketGenerate 1 0 {}, .sqTailDoorbell 0 0 0 0, .controllerDrainEnd 0, .deleteIoSubmissionQueue 0 (List.replicate 64 0), .nvmeFlush 0 1 (List.replicate 64 0), .journalReplay 0 none none [], .nsNotReady 0, .chPut 0 0 0 0 0, .chRecv 0 0 0 none 0 0, .chWait 0 0 0 0 0 0, .threadContextWrite .action 0 0 0 0 0] : List Instr).all (fun c => c.wf) = true := by decide +kernel
theorem test_wf_takes_5 : ([.threadFault 0 0 0 0 0 0 0, .standstill 0 1, .dbgStep .action 0 0 0 0, .tillerRelease 0 0, .heartbeat 0, .takeoverComplete 0 0 [], .selfTestDone 0 0, .gmLose .action 0 0 0, .controllerLost 0 1, .rateLimitWindow 0 0, .tmRingBind .action 0 0 0, .hitarrWrite .action 0 0 0 0] : List Instr).all (fun c => c.wf) = true := by decide +kernel
theorem test_wf_takes_6 : ([.mctpMessage 0 .plain, .pmbusPoll 0 none, .supplyDip 0 (List.replicate 12 0), .supplyClear 0 ⟨List.replicate 12 0, List.replicate 12 0⟩, .supplyReset ⟨1, List.replicate 6 0⟩, .supplyResetEnd ⟨[0, 0, 0, 0], [0, 0, 0, 0], [], List.replicate 32 0⟩, .thermalLevel 0 0, .ozelmFault 4, .powerGood (List.replicate 4 0) (List.replicate 4 0) [] [], .clockMonitorExcursion 0 0, .rpErrorMessage 0 0 0] : List Instr).all (fun c => c.wf) = true := by decide +kernel

theorem wit_RegisterWritesComplete_1 :
    Means {} .action 0x60 (Reg.GL_SCRATCH 0) ∧ ((regDef (Reg.GL_SCRATCH 0)).map (fun d => (d.pair, d.guarded, d.rw))) = some (0, false, 0xFFFFFFFF) ∧
    indReg (Reg.GL_SCRATCH 0) = false ∧ Passes {} .action (gateOff (Reg.GL_SCRATCH 0) 0x60) false := by decide +kernel
theorem wit_RegisterWritesComplete_2 :
    Means {} .action 0x20 0x20 ∧ pairOf 0x20 = 1 ∧ indReg 0x20 = false ∧ deadReg 0x20 = false ∧ ((regDef 0x20).map (fun d => d.guarded)) = some false ∧
    Passes {} .action (gateOff 0x20 0x20) false := by decide +kernel
theorem wit_RegisterWritesComplete_3 :
    let s : State := loHold {} .action 0x20 5
    Means s .action 0x24 Reg.GL_SNAP_MASK_HI ∧ accGet s.acc.held .action 0x20 = some 5 ∧ Passes s .action (gateOff 0x24 0x24) false := by decide +kernel
theorem wit_RegisterWritesComplete_4 :
    prelOff .action 0x406C = none ∧ nvmeBar {} .action 0x406C = none ∧ indWaits {} .action = false ∧
    access {} .action 0x406C = some { reg := Reg.GL_SCRATCH 3, ali := 1 } ∧ Passes {} .action (gateOff (Reg.GL_SCRATCH 3) 0x406C) false := by decide +kernel

theorem wit_RegisterReadsComplete_1 :
    Means {} .action 0x20 0x20 ∧ isReg 0x20 = true ∧ pairOf 0x20 = 1 ∧ isRc 0x20 = false ∧ latched 0x20 = false ∧ ownRead 0x20 = false ∧ portGone {} 0x20 = false ∧
    mayReach {} .action (gateOff 0x20 0x20) = true := by decide +kernel
theorem wit_RegisterReadsComplete_2 :
    Means {} .action 0x24 0x24 ∧ isReg 0x24 = true ∧ pairOf 0x24 = 2 ∧ ownRead 0x24 = false ∧ portGone {} 0x24 = false ∧ mayReach {} .action (gateOff 0x24 0x24) = true := by decide +kernel
theorem wit_RegisterReadsComplete_3 :
    Means {} .action Reg.FT_LATE_CNT Reg.FT_LATE_CNT ∧ isReg Reg.FT_LATE_CNT = true ∧ pairOf Reg.FT_LATE_CNT = 0 ∧
    isRc Reg.FT_LATE_CNT = true ∧ latched Reg.FT_LATE_CNT = false ∧ markFrom {} Reg.FT_LATE_CNT = none := by decide +kernel
theorem wit_RegisterReadsComplete_5 :
    Means {} .action 0x910000 0x910000 ∧ isReg 0x910000 = true ∧ ownRead 0x910000 = false ∧ portGone {} 0x910000 = true ∧
    mayReach {} .action (gateOff 0x910000 0x910000) = true := by decide +kernel
theorem wit_RegisterReadsComplete_4 :
    let s : State := portUpd (wrF {} (Reg.EN_PG_STATUS 0) 12 3 1) 0 (fun x => { x with fifo := [(1, 2, 3)] })
    portPresent s 0 = true ∧ (portGet s 0).fifo = [(1, 2, 3)] := by decide +kernel

theorem wit_UnlockSnapshotResetComplete_1 : Passes {} .action Reg.GL_UNLOCK false ∧ rfld (0x5AE7 : W32) 0 16 = 0x5AE7 := by decide +kernel
theorem wit_UnlockSnapshotResetComplete_2 :
    let s : State := { acc := { window := some { owner := .action, block := 0, opened := 0 } }, time := { clocks := 4096 } }
    s.acc.window = some { owner := .action, block := 0, opened := 0 } ∧ 0 + 4096 ≤ s.time.clocks := by decide +kernel
theorem wit_UnlockSnapshotResetComplete_3 : Passes {} .action Reg.GL_SNAP_CMD false ∧ rbit 1 0 = true ∧ snapAtDue {} = false ∧ (({} : State).time.stepSnap) = false := by decide +kernel
theorem wit_UnlockSnapshotResetComplete_4 :
    let s := wrN {} Reg.GL_SNAP_AT_CTL 1
    Passes s .action Reg.GL_SNAP_CMD false ∧ snapAtDue s = true ∧ rdF s Reg.GL_SNAP_AT_CTL 0 1 = 1 ∧ autoSnap s = false ∧ rd64 s Reg.GL_SNAP_AT_LO ≤ nowNs s ∧ s.time.lateActs.contains snapItem = false := by decide +kernel
theorem wit_UnlockSnapshotResetComplete_5 :
    let s : State := { acc := { window := some { owner := .action, block := 0, opened := 0 } } }
    Passes s .action Reg.GL_RESET_CTL true ∧ rbit 1 0 = true ∧ rdF s Reg.GL_BOOT_STAGE 0 4 ≠ 15 := by decide +kernel

theorem wit_TimeKeeperComplete_1 :
    Passes {} .action Reg.FT_SRC_CTL false ∧ rfld (3 : W32) 0 3 < 4 ∧ rfld (3 : W32) 0 3 ≠ ftSrc {} ∧
    Passes {} .action Reg.FT_PHASE_IN_LO false ∧ Passes {} .action Reg.FT_PHASE_IN_HI false ∧ ftSrc {} ≠ 2 := by decide +kernel
theorem wit_TimeKeeperComplete_2 : let s := wrN {} Reg.FT_SRC_CTL 1; Passes s .action Reg.FT_PHASE_IN_HI false ∧ ftSrc s = 1 := by decide +kernel
theorem wit_TimeKeeperComplete_3 :
    let s : State := fnUpd { wrN (wrN (wrN {} Reg.FT_SRC_CTL 3) Reg.FT_PTM_INTERVAL 1) (hfLink 0) 1 with time := { elapsed := usUnits } } 0 0
      (fun f => { f with cfg := aset f.cfg 0x208 1 })
    linkUp s (rdF s Reg.FT_SRC_CTL 8 4) = true ∧ ptmEnabled s (rdF s Reg.FT_SRC_CTL 8 4) = true ∧
    ftSrc s = 3 ∧ rdN s Reg.FT_PTM_INTERVAL ≠ 0 ∧ s.time.ptmBusy = false ∧ s.time.ptmStart + rdN s Reg.FT_PTM_INTERVAL * usUnits ≤ s.time.elapsed := by decide +kernel
theorem wit_TimeKeeperComplete_4 :
    let s : State := { wrN {} Reg.FT_SRC_CTL 3 with time := { ptmBusy := true, ptmFails := 1 } }
    ftSrc s = 3 ∧ s.time.ptmBusy = true ∧ s.time.ptmFails < 2 := by decide +kernel
theorem wit_TimeKeeperComplete_5 :
    let s : State := { wrN (wrN {} Reg.FT_SRC_CTL 1) Reg.FT_HOLD_TIMEOUT 1 with time := { elapsed := usUnits } }
    ftSrc s = 1 ∧ ftState s ≠ 3 ∧ rdN s Reg.FT_HOLD_TIMEOUT ≠ 0 ∧ s.time.lastSample + rdN s Reg.FT_HOLD_TIMEOUT * usUnits ≤ s.time.elapsed := by decide +kernel
theorem wit_TimeKeeperComplete_6 :
    let s : State := { wrN {} Reg.FT_SRC_CTL 2 with time := { discardNext := true } }
    ftSrc s = 2 ∧ ftState s ≠ 3 ∧ s.time.discardNext = true := by decide +kernel

theorem wit_ScheduledCommandsComplete_1 :
    let s : State := { wrN {} Reg.FT_STEP_VAL_LO 7 with time := { now := 8 * 65536 }, acc := { window := some { owner := .action, block := 1, opened := 0 } } }
    Means s .action Reg.FT_STEP_CTL Reg.FT_STEP_CTL ∧ Passes s .action (gateOff Reg.FT_STEP_CTL Reg.FT_STEP_CTL) true ∧
    rbit 3 0 = true ∧ rbit 3 1 = true ∧ rdF s Reg.FT_STEP_CTL 2 1 = 0 ∧ rd64 s Reg.FT_STEP_VAL_LO < nowNs s := by decide +kernel
theorem wit_ScheduledCommandsComplete_2 :
    let s := wrN {} 0x110008 (0x10000000 + 0x60)
    ractArmed s 0 = true ∧ tick8 (ractTime s 0) ≤ nowNs s ∧ ractBehind s 0 = false ∧ s.time.lateActs.contains 0 = false ∧
    rdF s (0x110008 + 16 * 0) 0 26 = Reg.GL_SCRATCH 0 := by decide +kernel
theorem wit_ScheduledCommandsComplete_3 :
    let x : QPkt := { pkt := { id := 0, hdr := [], body := [], md := [], depart := some 0 }, pool := 0 }
    let s := nodeUpd {} 0 5 (fun n => { n with pkts := [x] })
    (nodeGet s 0 5).pkts = [x] ∧ x.pkt.depart = some 0 ∧ x.released = false ∧ x.pkt.late = false ∧ releasePoint 0 ≤ nowNs s := by decide +kernel
theorem wit_ScheduledCommandsComplete_4 :
    let s := wrN {} Reg.FT_PPS_CTL 0x101
    rbit (rd s Reg.FT_PPS_CTL) 0 = true ∧ rbit (rd s Reg.FT_PPS_CTL) 1 = false ∧ rfld (rd s Reg.FT_PPS_CTL) 8 24 ≠ 0 ∧
    nowNs s % 1000000000 = 0 ∧ s.time.ppsSecond ≠ some (nowNs s / 1000000000) := by decide +kernel
theorem wit_ScheduledCommandsComplete_5 :
    let s : State := { time := { ppsHigh := true, elapsed := 0x10000000000000000 } }
    s.time.ppsHigh = true ∧ s.time.ppsRise + rdF s Reg.FT_PPS_CTL 8 24 * usUnits ≤ s.time.elapsed := by decide +kernel
theorem wit_ScheduledCommandsComplete_6 :
    let s : State := { wrN {} Reg.FT_EPOCH_PERIOD_LO 1000 with time := { epochSnap := some 0 } }
    (epochDue s s.time.epochSnap).isSome = true ∧ epochDue s s.time.epochRec = none := by decide +kernel
theorem wit_ScheduledCommandsComplete_7 :
    let s := wrN {} Reg.GL_BOOT_STAGE 5
    Passes s .action Reg.LD_EPOCH_CTL false ∧ rbit 0 0 = false ∧ rbit 0 1 = false ∧ rbit (rd s Reg.LD_EPOCH_CTL) 1 = false := by decide +kernel

theorem wit_IndirectAccessComplete_1 :
    let s := wrN {} Reg.GL_BOOT_STAGE 5
    access s .action 0x203F04 = some { reg := indBase 36 + 0x3F04 } ∧ mayReach s .action (0x203F04 % 0x4000000) = true ∧
    Passes s .action (0x203F04 % 0x4000000) false ∧ access s .action 0x403F10 = some { reg := indBase 0 + 0x3F10 } ∧
    Passes s .action (0x403F10 % 0x4000000) false ∧ indWaits s .action = false ∧ rbit 1 0 = true ∧ (indGet s 36).cur = none ∧ (indGet s 0).cur = none := by decide +kernel
theorem wit_IndirectAccessComplete_2 :
    let op : IndOp := { reader := none, write := false, addr := 8, word := 0, since := 0 }
    let s : State := { indPut {} 36 { cur := some op } with time := { elapsed := msUnits } }
    (indGet s 36).cur = some op ∧ (indGet s 36).waiting = [] ∧ op.write = false ∧ op.reader = none ∧ indHas 36 op.addr = true ∧ lowWord 36 op.addr = false ∧
    op.since + msUnits ≤ s.time.elapsed := by decide +kernel
theorem wit_IndirectAccessComplete_3 :
    let op : IndOp := { reader := none, write := false, addr := 8, word := 0, since := 0 }
    let s : State := { indPut {} 0 { cur := some op, waiting := [op] } with time := { elapsed := 2 * usUnits } }
    (indGet s 0).cur = some op ∧ op.reader = none ∧ (indGet s 0).waiting = op :: [] ∧ op.since + 2 * usUnits ≤ s.time.elapsed := by decide +kernel

theorem wit_FunctionCommandsComplete_1 :
    fnAnswers linkedUp 0 0 = true ∧ rebarOf 0x3C = none ∧ cfgMask 0 0x3C ≠ (0, 0) ∧ 0x3C ∉ [0x04, 0x44, 0x58, 0x78, 0x90, 0x158, 0x160, 0x208, 0x3C8] ∧
    fnBme (fnGet linkedUp 0 0) 0 = false ∧ fnD3 (fnGet linkedUp 0 0) 0 = false ∧ tdispLocked (fnGet linkedUp 0 0) = false ∧
    putFld (cfgRd 0 (fnGet linkedUp 0 0) 0x158) 0 1 (b2n true) ≠ cfgRd 0 (fnGet linkedUp 0 0) 0x158 ∧
    barOk false 2 21 = true ∧ barLog (fnGet linkedUp 0 0) false 2 ≠ 21 ∧ fnMse linkedUp 0 0 = false := by decide +kernel
theorem wit_FunctionCommandsComplete_2 :
    let s := cfgSet (cfgSet linkedUp 0 0 0x04 4) 0 0 0x44 3
    fnAnswers s 0 0 = true ∧ fnBme (fnGet s 0 0) 0 = true ∧ tdispLocked (fnGet s 0 0) = false ∧ fnD3 (fnGet s 0 0) 0 = true := by decide +kernel
theorem wit_FunctionCommandsComplete_3 :
    let s := fnUpd linkedUp 0 255 (fun f => { f with enabled := true })
    fnAnswers s 0 255 = true := by decide +kernel
theorem wit_FunctionCommandsComplete_4 :
    let s := fnUpd linkedUp 0 255 (fun f => { f with flr := some 0 })
    (fnGet s 0 255).flr.isSome = true ∧ flrDone s 0 255 = true := by decide +kernel
theorem wit_FunctionCommandsComplete_5 :
    let s := cfgSet (fnUpd linkedUp 0 0 (fun f => { f with msixAlloc := 1 })) 0 0 0x04 2
    linkPresent s 0 = true ∧ linkUp s 0 = true ∧ fnDecodes s 0 0 = true ∧ 0 < (fnGet s 0 0).msixAlloc ∧ fnMsixEn (fnGet s 0 0) 0 = false := by decide +kernel

theorem wit_HostLinkCommandsComplete_1 :
    linkPresent {} 12 = true ∧ linkPerst {} 12 = false ∧ linkPerst (wrF {} (hfLink 12) 10 1 1) 12 = true ∧
    linkPresent linkedUp 0 = true ∧ linkUp linkedUp 0 = true := by decide +kernel
theorem wit_HostLinkCommandsComplete_2 :
    let s : State := { oz := { good := true } }
    s.oz.good = true ∧ s.oz.tripped = false ∧ s.oz.down = none ∧ linkPresent s 0 = true ∧ linkUp s 0 = false ∧ linkPerst s 0 = false ∧
    16 ≤ linkLanes s 0 := by decide +kernel
theorem wit_HostLinkCommandsComplete_3 :
    let r : RdReq := { read := 0, link := 0, fnum := 0, addr := 0, len := 128, tag := some 0 }
    let h : HRead := { work := .desc 0 0 0, link := 0, fnum := 0, pasid := none, addr := 0, data := [], left := 1 }
    let s : State := { host := { reqs := [r], reads := [(0, h)] } }
    tagReq s 0 0 = some r ∧ pieceOk r 64 = true ∧ r.got + 64 < r.len ∧ r.discard = false ∧ r.quarantine = false ∧
    aget s.host.reads r.read = some h ∧ h.left ≠ 0 ∧ h.failed = none ∧ r.deadline ≤ s.time.elapsed := by decide +kernel
theorem wit_HostLinkCommandsComplete_4 :
    let w : PeerWin := { baseMb := 1, sizeMb := 1, wrEn := true }
    let x : Slice := { link := some 0, fnum := 0, pasid := none, page0 := 0, pages := 1, limits := [(7, 1)] }
    let s := { cfgSet (fnUpd linkedUp 0 0 (fun f => { f with live := [(0, w)], bar4 := 21 })) 0 0 0x04 2 with slices := [(1, x)] }
    linkPresent s 0 = true ∧ linkUp s 0 = true ∧ fnDecodes s 0 0 = true ∧ mib + 1 ≤ 2 ^ bar4Log s 0 0 ∧ winOf (fnGet s 0 0) mib = some w ∧
    mib + 1 ≤ (w.baseMb + w.sizeMb) * mib ∧ winSlice s 0 0 = some (1, x) ∧ w.target + (mib - w.baseMb * mib) + 1 ≤ agetD x.limits 7 0 * mib ∧ x.state ≠ 2 := by
  decide +kernel
theorem wit_HostLinkCommandsComplete_5 :
    let s := wrN {} Reg.GL_BOOT_STAGE 5
    Passes s .action (Reg.HF_WIN_SWAP 3) false ∧ linkPresent s (selFn s 3).1 = true ∧ (fnGet s (selFn s 3).1 (selFn s 3).2).drained = true ∧
    winsBad (fnGet s (selFn s 3).1 (selFn s 3).2) = false ∧ tdispLocked (fnGet s (selFn s 3).1 (selFn s 3).2) = false := by decide +kernel
theorem wit_HostLinkCommandsComplete_6 :
    let s := wrN (wrN {} Reg.GL_BOOT_STAGE 5) (Reg.HF_FN_SEL 0) 1
    Passes s .action (Reg.HF_FN_CFG 0) false ∧ linkPresent s (selFn s 0).1 = true ∧
    msixTotal s - (fnGet s (selFn s 0).1 (selFn s 0).2).msixAlloc + 2048 ≤ 131072 ∧
    fnMsixEn (fnGet s (selFn s 0).1 (selFn s 0).2) (selFn s 0).2 = false ∧ (fnGet s (selFn s 0).1 (selFn s 0).2).enabled = false ∧
    tdispLocked (fnGet s (selFn s 0).1 (selFn s 0).2) = false := by decide +kernel
theorem wit_HostLinkCommandsComplete_7 :
    let s := fnUpd { host := { ide := [(3, 1)] } } 0 255 (fun f => { f with drained := false })
    (fnGet s 0 255).drained = false ∧ (fnGet s 0 255).oldBusy = 0 ∧ linkPresent s 0 = true ∧ agetD s.host.ide (0 * 4 + 3) 0 = 1 := by decide +kernel
theorem wit_HostLinkCommandsComplete_8 :
    let s := wrF linkedUp Reg.OZ_STATUS 0 1 1
    fnAnswers s 0 0 = true ∧ ozRunning s = true ∧ s.oz.lc ≠ 3 := by decide +kernel

theorem wit_RootPortCommandsComplete_1 :
    let s := wrN {} Reg.GL_BOOT_STAGE 5
    Passes s .action Reg.RP_MERGE false ∧ (∀ p, p < 8 → rdF s (Reg.RP_CTL p) 0 1 = 0) ∧ rpHere s 7 = true ∧
    Passes s .action (0x800068 + 0x10000 * 7) false ∧ Passes s .action (Reg.RP_DCFG_CMD 7) false ∧ (rpGet s 7).dcfg = none ∧ (rpGet s 7).dpc = false := by decide +kernel
theorem wit_RootPortCommandsComplete_2 :
    let s : State := { time := { elapsed := 100 * msUnits }, host := { rps := [(0, { rose := some 0, dropping := some 0 })] } }
    (rpGet s 0).rose = some 0 ∧ 0 + 100 * msUnits ≤ s.time.elapsed ∧ (rpGet s 0).dropping = some 0 ∧ 0 + 100 * usUnits ≤ s.time.elapsed := by decide +kernel
theorem wit_RootPortCommandsComplete_3 :
    let s : State := { oz := { good := true } }
    rpHere s 7 = true ∧ s.oz.good = true ∧ (rpGet s 7).present = false := by decide +kernel
theorem wit_RootPortCommandsComplete_4 :
    let s : State := wrN { host := { rps := [(0, { power := true, perst := false })] } } (Reg.RP_CTL 0) 1
    rdF s (Reg.RP_CTL 0) 0 1 = 1 ∧ rdF s (Reg.RP_STATUS 0) 0 1 = 0 ∧ (rpGet s 0).power = true ∧ (rpGet s 0).perst = false ∧ (rpGet s 0).dpc = false ∧
    4 ≤ rpLanes s 0 := by decide +kernel
theorem wit_RootPortCommandsComplete_5 :
    let s : State := wrN { host := { rps := [(7, { dcfg := some { write := false, addr := 0, data := 0, since := 0 }, reqs := [(3, { write := true })] })] } } (Reg.RP_STATUS 7) 1
    rdF s (Reg.RP_STATUS 7) 0 1 = 1 ∧ (rpGet s 7).dcfg = some { write := false, addr := 0, data := 0, since := 0 } ∧
    aget (rpGet s 7).reqs 3 = some { write := true } ∧ (rpGet s 7).dpc = false := by decide +kernel

theorem wit_PortBringUpComplete_1 :
    let s := wrN {} Reg.GL_BOOT_STAGE 5
    Passes s .action (Reg.EN_PG_CTL 7) false ∧ rfld 4 0 3 ≠ rdF s (Reg.EN_PG_CTL 7) 0 3 ∧ pgEnabled s 7 = false ∧
    portPresent portsUp 3 = true ∧ Passes portsUp .action (Reg.EN_PORT_CTL 0 3) false ∧ rbit 1 0 = true ∧ rbit 0 0 = false := by decide +kernel
theorem wit_PortBringUpComplete_2 :
    aget ({ net := { modes := [(7, (1, 0))] } } : State).net.modes 7 = some (1, 0) ∧
    (∀ k, k < 4 → portPresent {} (4 * 7 + k) = false) ∧ (∀ k, k < 4 → portState {} (4 * 7 + k) ≠ 2) := by decide +kernel
theorem wit_PortBringUpComplete_3 :
    let s := { wrF portsUp (Reg.EN_PORT_STATUS 0 3) 0 3 1 with time := { elapsed := 500 * msUnits } }
    portPresent s 3 = true ∧ portState s 3 = 1 ∧ rbit (portCtl s 3) 1 = false ∧ (portGet s 3).trained + 500 * msUnits ≤ s.time.elapsed := by decide +kernel
theorem wit_PortBringUpComplete_4 :
    let s := { wrF portsUp (Reg.EN_PORT_STATUS 0 3) 0 3 6 with time := { elapsed := 1000 * msUnits } }
    portState s 3 = 6 ∧ (portGet s 3).trained + 1000 * msUnits ≤ s.time.elapsed := by decide +kernel
theorem wit_PortBringUpComplete_5 :
    let s := wrN portsUp (Reg.EN_PORT_DEBOUNCE 0 3) 10
    portPresent s 3 = true ∧ debounce s 3 ≠ 0 ∧ faultOf (portGet s 3).lock (portGet s 3).lf (portGet s 3).rf ≠ faultOf true false false := by decide +kernel
theorem wit_PortBringUpComplete_6 :
    let s := { portSet (wrN (wrF (wrN portsUp (Reg.EN_LANE_STATUS 0 3) 3) (Reg.EN_PORT_STATUS 0 3) 0 3 2) (Reg.EN_PORT_DEBOUNCE 0 3) 10) 3 { lock := true } with time := { elapsed := 10 * usUnits } }
    portPresent s 3 = true ∧ (portGet s 3).since + debounce s 3 ≤ s.time.elapsed ∧ portState s 3 = 2 ∧ (portGet s 3).lock = true ∧ lanesCdr s 3 = true := by
  decide +kernel
theorem wit_PortBringUpComplete_7 :
    let s := { portsUp with time := { elapsed := msUnits } }
    let u := portCnt (portCnt (portCnt (portUpd s 3 (fun x => { x with fecMs := 1 })) 3 17 1) 3 18 1) 3 19 0
    portPresent s 3 = true ∧ (portGet s 3).fecMs < s.time.elapsed / msUnits ∧ rbit (rd u (Reg.EN_FEC_DEGRADE 0 3)) 31 = false ∧ 0 ≤ rdF u (Reg.EN_FEC_DEGRADE 0 3) 0 24 := by decide +kernel
theorem wit_PortBringUpComplete_8 :
    let s := { wrF (wrN {} (Reg.EN_LANE_STATUS 7 0) 3) (Reg.EN_RCLK_CTL 7) 4 1 1 with time := { elapsed := msUnits } }
    rclkGood {} 7 = false ∧ rdF {} (Reg.EN_RCLK_CTL 7) 4 1 = 0 ∧
    rclkGood s 7 = true ∧ rdF s (Reg.EN_RCLK_CTL 7) 4 1 = 1 ∧ agetD s.net.rclk 7 0 + msUnits ≤ s.time.elapsed := by decide +kernel

theorem wit_FrameAndRingCommandsComplete_1 :
    let b : List Byte := fit 60 ([0x01, 0x80, 0xC2, 0, 0, 1] ++ List.replicate 6 0 ++ [0x88, 0x08, 0, 1])
    portPresent portUpNow 3 = true ∧ portState portUpNow 3 = 3 ∧ b.length = 60 ∧ b.length + 4 ≤ maxFrame portUpNow 3 ∧
    isMacControl (List.replicate 60 0) = false ∧ isMacControl b = true ∧ beAt b 14 2 = 1 ∧
    portFc (portCnt (portCnt portUpNow 3 0 64) 3 1 1) 3 = 1 ∧ portServes portUpNow 3 = true := by decide +kernel
theorem wit_FrameAndRingCommandsComplete_2 :
    let f : TxFrame := { bytes := [1], md := [], grains := 1 }
    let s := portUpd (wrN portUpNow (Reg.EN_PFC_QUANTA 0 3) 1) 3 (fun x => { x with tx := [f] })
    portServes s 3 = true ∧ (portGet s 3).tx = [f] ∧ mdF f.md 0x4C 0 2 = 0 ∧ pfcQuanta s 3 ≠ 0 ∧ 
    (let s' := portUpd (wrN s (Reg.EN_PFC_REFRESH 0 3) 0) 3 (fun x => { x with xoff := [(0, 0)] })
     pfcQuanta s' 3 ≠ 0 ∧ (portGet s' 3).xoff = [(0, 0)] ∧ quanta s' 3 (pfcQuanta s' 3 / 2) ≤ s'.time.elapsed ∧ portFc s' 3 = 1 ∧
     rdF s' (Reg.EN_PFC_REFRESH 0 3) 0 16 = 0) := by decide +kernel
theorem wit_FrameAndRingCommandsComplete_3 :
    let s := { wrN (portSet portUpNow 3 { pause := [(8, 100 * usUnits)], paused := [(0, 0)] }) (Reg.EN_PFC_WATCHDOG 0 3) 1 with time := { elapsed := 2 * usUnits } }
    portPresent s 3 = true ∧ aget (portGet s 3).paused 0 = some 0 ∧ rdN s (Reg.EN_PFC_WATCHDOG 0 3) ≠ 0 ∧ classPaused s 3 0 = true ∧
    0 + rdN s (Reg.EN_PFC_WATCHDOG 0 3) * usUnits < s.time.elapsed := by decide +kernel
theorem wit_FrameAndRingCommandsComplete_4 :
    let s := { ringsUp with ch := { chans := [(2, { ringChan 2 2 with pidxReg := 1 })] } }
    pageDecodes s noLink 0 0 = true ∧ (pageOwner s noLink 0 0).isSome = true ∧ pageChans s noLink 0 0 = [2] ∧
    chanGet s 2 = some { ringChan 2 2 with pidxReg := 1 } ∧ devProduced (ringChan 2 2) = false ∧ (samplePidx s 2).2 = true := by decide +kernel
theorem wit_FrameAndRingCommandsComplete_5 :
    slotChan ringsUp noLink 0 0 2 = some (2, { ringChan 2 2 with sampled := 1, pidxReg := 1 }) ∧ slotChan ringsUp noLink 0 0 6 = some (6, ringChan 6 6) ∧
    devProduced (ringChan 6 6) = true ∧ sub32 0 (ringChan 6 6).cidx ≤ (ringChan 6 6).size ∧ sub32 (ringChan 6 6).pidx 0 ≤ (ringChan 6 6).size := by decide +kernel
theorem wit_FrameAndRingCommandsComplete_6 :
    let c := { ringChan 2 2 with sampled := 1, pidxReg := 1 }
    chanGet ringsUp 2 = some c ∧ mayFetch ringsUp 2 c = true ∧ fetchRoom ringsUp c ≠ 0 ∧ chanOf ringsUp c.bind = some (6, ringChan 6 6) := by decide +kernel
theorem wit_FrameAndRingCommandsComplete_7 :
    let c := { ringChan 2 2 with sampled := 1, pidxReg := 1 }
    let r : HRead := { work := .desc 2 0 1, link := 0, fnum := 0, pasid := none, addr := 0, data := [], left := 0 }
    let s := { ringsUp with host := { reads := [(0, r)] } }
    aget s.host.reads 0 = some r ∧ r.work = .desc 2 c.cidx 1 ∧ chanGet s 2 = some c ∧ rdN s Reg.FT_DEP_USED < 1048576 ∧ sliceLive s 1 = true := by decide +kernel
theorem wit_FrameAndRingCommandsComplete_8 :
    let x : Slice := { link := some 0, fnum := 0, pasid := none, page0 := 0, pages := 1 }
    let s := { cfgSet linkedUp 0 0 0x04 6 with slices := [(1, x)], ch := { chans := [(7, { ringChan 7 0 with noVector := false, modN := 1 })] } }
    (chanGet s 7).isSome = true ∧ aget s.slices 1 = some x ∧ sliceLive s 1 = true ∧ 0 + 0 * usUnits ≤ s.time.elapsed := by decide +kernel

theorem wit_ChannelAdminCommandsComplete_1 :
    AdminReady (adminAt (adminCmd 0 1 [])) 0 0 (adminCmd 0 1 []) 1 ∧ AdminReady (adminAt (adminCmd 1 1 [])) 0 1 (adminCmd 1 1 []) 1 := by decide +kernel
theorem wit_ChannelAdminCommandsComplete_2 :
    let cmd := adminCmd 2 1 [(0x10, 0, 8, 2), (0x14, 0, 17, 16), (0x28, 0, 32, 6), (0x2C, 0, 16, 1), (0x2C, 16, 4, 3)]
    let s := adminAt cmd
    let s := { s with slices := aset s.slices 1 { link := none, fnum := 0, pasid := none, page0 := 1, pages := 1, hbase := 9, hcount := 1, limits := [(2, 8)] } }
    AdminReady s 0 2 cmd 1 ∧ (aget s.slices 1).isSome = true ∧ createBad s 1 (cmdNewChan 1 cmd) = none ∧
    allocIndex s 1 (idxRange s 1).1 (idxRange s 1).2 = (some 9, (draw s).2) := by
  refine ⟨?_, ?_, ?_, ?_⟩
  · decide +kernel
  · decide +kernel
  · decide +kernel
  · rw [show (idxRange _ 1) = (9, 1) by decide +kernel]
    unfold allocIndex
    rw [if_neg (by decide)]
    dsimp only
    rw [Nat.mod_one, if_pos (by decide +kernel)]
theorem wit_ChannelAdminCommandsComplete_3 :
    let cmd (op : Nat) := adminCmd op 1 [(0x10, 0, 32, 2)]
    cmdChan (adminAt (cmd 3)) 1 (cmd 3) = some (2, ringChan 2 2) ∧ AdminReady (adminAt (cmd 3)) 0 3 (cmd 3) 1 ∧ destroyBlocked (adminAt (cmd 3)) 2 (ringChan 2 2) = false ∧
    AdminReady (adminAt (cmd 5)) 0 5 (cmd 5) 1 ∧ AdminReady (adminAt (cmd 6)) 0 6 (cmd 6) 1 ∧ AdminReady (adminAt (cmd 7)) 0 7 (cmd 7) 1 ∧
    AdminReady (adminAt (cmd 8)) 0 8 (cmd 8) 1 ∧ cmdChan (adminAt (cmd 8)) 1 (cmd 8) = some (2, ringChan 2 2) := by decide +kernel
theorem wit_ChannelAdminCommandsComplete_4 :
    let cmd := adminCmd 4 1 [(0x10, 0, 32, 7), (0x14, 0, 6, 12), (0x30, 0, 32, 0x10001)]
    let s := adminAt cmd
    let s := { s with ch := { s.ch with chans := aset s.ch.chans 7 (ringChan 7 4) } }
    cmdChan s 1 cmd = some (7, ringChan 7 4) ∧ AdminReady s 0 4 cmd 1 ∧ par cmd 0x14 0 1 = 0 ∧ par cmd 0x14 1 1 = 0 ∧ par cmd 0x14 2 1 = 1 ∧
    par cmd 0x14 3 1 = 1 ∧ par cmd 0x14 4 1 = 0 ∧ par cmd 0x14 5 1 = 0 := by decide +kernel
theorem wit_ChannelAdminCommandsComplete_5 :
    let s := wrN { slices := [(1, { link := none, fnum := 0, pasid := none, page0 := 0, pages := 1 })] } Reg.GL_BOOT_STAGE 5
    sliceReq s .action 1 = true ∧ Passes s .action slCtlOff false ∧ (aget s.slices 1).isSome = true ∧ sliceEnabled s 1 = true ∧ rdF s (Reg.SL_CTL 1) 0 1 = 0 ∧
    rdF (wrN s (Reg.SL_CTL 1) 1) (Reg.SL_CTL 1) 0 1 = 1 ∧ Passes (wrN s (Reg.SL_CTL 1) 1) .action slCtlOff false := by decide +kernel

theorem wit_SliceCommandsComplete_1 :
    let cmd := adminCmd 0x40 1 [(0x18, 16, 16, 1), (0x1C, 0, 14, 16383), (0x20, 0, 24, 1)]
    AdminReady (adminAt cmd) 0 0x40 cmd 1 ∧ par cmd 0x1C 15 1 = 0 ∧ 16383 = par cmd 0x1C 0 14 ∧ aget (adminAt cmd).slices 16383 = none ∧ par cmd 0x18 16 16 ≠ 0 ∧
    par cmd 0x10 31 1 = 0 ∧ bindingBad (adminAt cmd) (par cmd 0x10 0 4) (par cmd 0x10 4 8) none (par cmd 0x18 0 16) (par cmd 0x18 16 16) = false ∧
    hrangeBad (adminAt cmd) (par cmd 0x20 0 24) (par cmd 0x24 0 24) = false := by decide +kernel
theorem wit_SliceCommandsComplete_2 :
    let cmd (op : Nat) := adminCmd op 1 [(0x10, 0, 8, 4), (0x18, 0, 32, 100)]
    AdminReady (adminAt (cmd 0x41)) 0 0x41 (cmd 0x41) 1 ∧ AdminReady (adminAt (cmd 0x44)) 0 0x44 (cmd 0x44) 1 ∧ AdminReady (adminAt (cmd 0x45)) 0 0x45 (cmd 0x45) 1 ∧
    AdminReady (adminAt (cmd 0x42)) 0 0x42 (cmd 0x42) 1 ∧ AdminReady (adminAt (cmd 0x43)) 0 0x43 (cmd 0x43) 1 ∧ par (cmd 0x42) 0x10 0 8 = 4 ∧ par (cmd 0x42) 0x18 0 64 = 100 ∧
    quotaBad (adminAt (cmd 0x42)) 1 { link := none, fnum := 0, pasid := none, page0 := 1, pages := 1 } 4 100 0 = none ∧
    useOf (slUpd (adminAt (cmd 0x42)) 1 (fun y => { y with limits := aset y.limits 4 100, ksBase := 0 })) 1 4 ≤ 100 := by decide +kernel
theorem wit_SliceCommandsComplete_3 :
    let x : Slice := { link := none, fnum := 0, pasid := none, page0 := 1, pages := 1, limits := [(7, 2)] }
    let s : State := { slices := [(1, x)] }
    aget s.slices 1 = some x ∧ 1 < sliceLimit s 1 7 ∧ x.written.contains 1 = false := by decide +kernel
theorem wit_SliceCommandsComplete_4 :
    let x (b : Bool) : Slice := { link := none, fnum := 0, pasid := none, page0 := 1, pages := 1, state := 2, stopped := b }
    aget ({ slices := [(1, x true)] } : State).slices 1 = some (x true) ∧ aget ({ slices := [(1, x false)] } : State).slices 1 = some (x false) := by decide +kernel
theorem wit_SliceCommandsComplete_5 :
    let cmd (op : Nat) := adminCmd op 1 [(0x20, 0, 32, 4096)]
    let flush := adminCmd 0x49 1 []
    AdminReady (adminAt (cmd 0x48)) 0 0x48 (cmd 0x48) 1 ∧ par (cmd 0x48) 0x18 0 64 = 0 ∧ par (cmd 0x48) 0x20 0 64 = 4096 ∧ par (cmd 0x48) 0x28 0 64 = 0 ∧
    (aget (adminAt (cmd 0x48)).slices 1).map (fun x => x.logs) = some [] ∧
    ((adminAt (cmd 0x48)).slices.map (fun e => (e.2.logs.map (fun r => r.2.len)).foldl (· + ·) 0)).foldl (· + ·) 4096 ≤ 2 ^ 43 ∧
    AdminReady (adminAt flush) 0 0x49 flush 1 ∧ par flush 0x10 0 16 = 0 ∧ AdminReady (adminAt (adminCmd 0x4A 1 [])) 0 0x4A (adminCmd 0x4A 1 []) 1 := by decide +kernel

theorem wit_SliceImageCommandsComplete_1 :
    let cmd (op : Nat) := adminCmd op 1 []
    let x : Slice := { link := none, fnum := 0, pasid := none, page0 := 1, pages := 1 }
    let s := { adminAt (cmd 0x4F) with slices := [(0, { x with page0 := 0 }), (1, { x with state := 4 })] }
    let z : State := { slices := [(1, { x with freeze := some (0, 1) })], time := { elapsed := usUnits } }
    aget (adminAt (cmd 0x4C)).slices 1 = some x ∧ AdminReady (adminAt (cmd 0x4C)) 0 0x4C (cmd 0x4C) 1 ∧
    aget z.slices 1 = some { x with freeze := some (0, 1) } ∧ frozenNow z 1 = true ∧ 0 + 1 * usUnits ≤ z.time.elapsed ∧
    aget s.slices 1 = some { x with state := 4 } ∧ AdminReady s 0 0x4F (cmd 0x4F) 1 := by decide +kernel
theorem wit_SliceImageCommandsComplete_2 :
    let cmd := adminCmd 0x4D 1 [(0x18, 0, 32, 4096)]
    let x : Slice := { link := none, fnum := 0, pasid := none, page0 := 1, pages := 1, state := 4 }
    let s := { adminAt cmd with slices := [(0, { x with page0 := 0, state := 1 }), (1, x)], ch := { chans := [(1, { ringChan 1 0 with slice := 0, ents := [{ idx := 0, desc := cmd }] })] } }
    aget s.slices 1 = some x ∧ AdminReady s 0 0x4D cmd 1 ∧ sliceKeys s 1 x = [] ∧ (sliceImage s 1 x 0).length ≤ par cmd 0x18 0 32 := by
  refine ⟨by decide +kernel, by decide +kernel, by decide +kernel, ?_⟩
  unfold sliceImage
  dsimp only
  rw [List.length_append, List.length_append, fit_length]
  decide +kernel
theorem wit_SliceImageCommandsComplete_3 :
    let h : List Byte := pack 64 [(0, 0, 32, 0x4C535A47), (4, 0, 16, 1), (8, 0, 64, 112)]
    let img := h ++ fit 48 (Config.sha384 h)
    let cmd := adminCmd 0x4E 1 [(0x18, 0, 32, 112)]
    let x : Slice := { link := none, fnum := 0, pasid := none, page0 := 1, pages := 1 }
    let s := { cfgSet (wrN linkedUp Reg.GL_DEVICE_READY 1) 0 0 0x04 6 with
      slices := [(0, { x with link := some 0, page0 := 0 }), (1, x)], ch := { chans := [(1, { ringChan 1 0 with slice := 0, ents := [{ idx := 0, desc := cmd }] })] } }
    let r := slFetch s 0 [(par cmd 0x10 0 64, par cmd 0x18 0 32)] 0 (.ok img)
    aget s.slices 1 = some x ∧ AdminReady s 0 0x4E cmd 1 ∧ x.state = 1 ∧ sliceEmpty s 1 x = true ∧ mayRead s 0 = true ∧ r.2 = .ok img ∧
    readImage (fit (par cmd 0x18 0 32) img) = some [] ∧ imageWrong r.1 1 x [] = false ∧ imageUnfit r.1 1 x [] = false ∧ sectionOf [] 5 = [] := by
  refine ⟨by decide +kernel, by decide +kernel, rfl, by decide +kernel, by decide +kernel, rfl, ?_, by decide +kernel, by decide +kernel, rfl⟩
  rw [show par (adminCmd 0x4E 1 [(0x18, 0, 32, 112)]) 0x18 0 32 = 112 by decide +kernel]
  generalize hh : pack 64 [(0, 0, 32, 0x4C535A47), (4, 0, 16, 1), (8, 0, 64, 112)] = h
  have hl : h.length = 64 := by rw [← hh]; decide +kernel
  have hd : (fit 48 (Config.sha384 h)).length = 48 := fit_length _ _
  have hf : fit 112 (h ++ fit 48 (Config.sha384 h)) = h ++ fit 48 (Config.sha384 h) := fit_full (by rw [List.length_append, hl, hd])
  rw [hf]
  have ha : ∀ o n, o + n ≤ 64 → leAt (h ++ fit 48 (Config.sha384 h)) o n = leAt h o n := by
    intro o n hon
    unfold leAt slice
    rw [List.drop_append_of_le_length (by omega), List.take_append_of_le_length (by rw [List.length_drop]; omega)]
  unfold readImage
  dsimp only
  rw [ha _ _ (by decide), ha _ _ (by decide), ha _ _ (by decide), ha _ _ (by decide)]
  rw [show leAt h 8 8 = 112 by rw [← hh]; decide +kernel, show leAt h 0 4 = 0x4C535A47 by rw [← hh]; decide +kernel, show leAt h 4 2 = 1 by rw [← hh]; decide +kernel,
    show leAt h 0x10 4 = 0 by rw [← hh]; decide +kernel]
  have hll : (h ++ fit 48 (Config.sha384 h)).length = 112 := by rw [List.length_append, hl, hd]
  rw [hll]
  rw [List.take_of_length_le (l := h ++ fit 48 (Config.sha384 h)) (by omega)]
  simp only [readSections]
  have ht : (h ++ fit 48 (Config.sha384 h)).take (112 - 48) = h := by rw [List.take_append_of_le_length (by omega), List.take_of_length_le (by omega)]
  have hr : (h ++ fit 48 (Config.sha384 h)).drop (112 - 48) = fit 48 (Config.sha384 h) := by rw [List.drop_append_of_le_length (by omega), List.drop_of_length_le (by omega)]; rfl
  rw [ht, hr]
  simp

/-- A packet of no bytes. -/
def emptyPkt : Pkt := { id := 5, hdr := [], body := [], md := [] }
def emptyClimb : Climb := { pkt := emptyPkt, seq := 1, entryNs := 0, entryEl := 0 }
theorem wit_FlightEventsComplete_1 :
    let s := entrySet {} 7 1 { wire := [emptyPkt] }
    stairOf s 7 = some 7 ∧ (entryGet s 7 1).replay = [] ∧ (entryGet s 7 1).wire = [emptyPkt] ∧ emptyPkt.origin = none := by decide +kernel
theorem wit_FlightEventsComplete_2 :
    let s := flightUpd {} 0 1 (fun f => { f with climbs := [{ emptyClimb with park := some (.qp 0) }] })
    unitState s 0 = 1 ∧ ((flightGet s 0 1).climbs.find? (fun c => c.seq == 1)).isSome = true ∧ aheadDone (flightGet s 0 1).climbs { emptyClimb with park := some (.qp 0) } = true ∧
    (runStep s 0 0 1 { emptyClimb with park := some (.qp 0) } (viewOf (flightGet s 0 1).climbs { emptyClimb with park := some (.qp 0) })).2.gone = true := by decide +kernel
theorem wit_FlightEventsComplete_3 :
    let s := flightUpd (flightUpd {} 7 0 (fun f => { f with climbs := [{ emptyClimb with step := 20 }] })) 7 1 (fun f => { f with climbs := [{ emptyClimb with step := 12 }] })
    stairOf s 7 = some 7 ∧ (flightGet s 7 0).climbs = [{ emptyClimb with step := 20 }] ∧ (flightGet s 7 1).climbs = [{ emptyClimb with step := 12 }] := by decide +kernel
theorem wit_FlightEventsComplete_4 :
    let m : Marker := { what := 7, array := 0, idx := 0, opnd := 0, src := 0, bcast := false }
    let s := flightUpd {} 7 1 (fun f => { f with climbs := [{ emptyClimb with step := 12, marker := some 3 }], inside := [(3, m)] })
    stairOf s 7 = some 7 ∧ (flightGet s 7 1).climbs = [{ emptyClimb with step := 12, marker := some 3 }] ∧ flightLen 1 ≤ 12 ∧ aget (flightGet s 7 1).inside 3 = some m := by decide +kernel
theorem wit_FlightEventsComplete_5 :
    let x : Parked := { stair := 0, flight := 0, key := .qp 0, pkt := emptyPkt, since := 0 }
    let y : Parked := { stair := 0, flight := 0, key := .glean 0 [], pkt := emptyPkt, since := 0 }
    let s : State := { land := { hall := [x] } }
    let t : State := { land := { hall := [y] }, time := { elapsed := 65536 * usUnits } }
    s.land.hall.find? (fun x => x.pkt.id == 5) = some x ∧ keyReady s x.key = true ∧ t.land.hall.find? (fun x => x.pkt.id == 5) = some y ∧
    rdF t (Reg.STA_GLEAN_CTL 0) 16 16 ≠ 0 ∧ 0 + rdF t (Reg.STA_GLEAN_CTL 0) 16 16 * usUnits ≤ t.time.elapsed := by decide +kernel
theorem wit_FlightEventsComplete_6 :
    let s : State := { stairs := [(8, { tbls := [(62, [(3, {})])] })], time := { elapsed := 65536 * usUnits } }
    aget (entriesOf s 8 62) 3 = some {} ∧ rdF s (Reg.STA_GLEAN_CTL 8) 0 16 ≠ 0 ∧ rdF s (Reg.STA_GLEAN_CTL 8) 0 16 ≤ sub32 (bornNow s) (leAt [] 12 4) := by decide +kernel
theorem wit_FlightEventsComplete_7 :
    let x : QPkt := { pkt := { emptyPkt with unverified := true }, pool := 0 }
    let s : State := { land := { queues := [(9, { nodeReset 0 with pkts := [x] })] } }
    (nodeGet s 0 9).pkts.find? (fun x => x.pkt.id == 5) = some x ∧ s.cy.aside.any (fun a => a.flight == 0 && a.queue == 9 && a.id == 5) = false ∧
    cyMode x.pkt.md ≠ 1 ∧ rmActs x.pkt.md = false := by decide +kernel
theorem wit_FlightEventsComplete_8 :
    let x : QPkt := { pkt := { emptyPkt with depart := some 1 }, pool := 0, released := true }
    let s := { portUpNow with land := { queues := [(9, { nodeReset 0 with pkts := [x] })], groups := [(0, { nodeReset 1 with cfg := [0x30101, 0, 0xFFFFFFFF, 0, 0, 0, 0, 0, 0, 0] })] } }
    chooseQueue s 3 = some 9 ∧ readyHead s (nodeGet s 0 9) = some x ∧ targetOk s (nodeGet s 0 9) (if mdDisp x.pkt.md = 2 then mdHandle x.pkt.md else 0) = true ∧
    stairOf s x.stair = some 0 := by decide +kernel
theorem wit_FlightEventsComplete_9 :
    let a : Aside := { stair := 0, flight := 0, qp := false, ctx := 4, dir := 1, epoch := 0 }
    let c : Cctx := { slice := 0, slot := 2, derive := true, side := 0, label := [], txEpoch := 0, rxEpoch := 0 }
    let s : State := { cy := { aside := [a], ctxs := [(4, c)], slots := [(2, { key := 1, salt := 0 })] } }
    s.cy.aside.find? (fun a => a.stair == 0 && a.flight == 0 && a.qp == false && a.ctx == 4) = some a ∧ ctxGet s false 4 = some c ∧ c.state ≠ 2 ∧
    aget s.cy.slots c.slot = some { key := 1, salt := 0 } := by decide +kernel

theorem wit_TableCommandsComplete_1 :
    let s := wrN {} Reg.GL_BOOT_STAGE 5
    let v : W32 := 0x2000
    let u := plainWrite s (Reg.STA_PARSE_CMD 8) 0x3FF v
    Passes s .action (Reg.STA_PARSE_CMD 8) false ∧ rbit v 15 = false ∧ rbit v 13 = true ∧ rbit v 12 = false ∧ rbit v 9 = false ∧
    parseCause u [cmdTarget u 8] (ofLe ((List.range 8).flatMap (fun w => le 4 (rdN u (Reg.STA_PARSE_DATA 8 w))))) false = none := by decide +kernel
theorem wit_TableCommandsComplete_2 :
    let s := wrN {} Reg.GL_BOOT_STAGE 5
    ∀ op ∈ [1, 2, 3, 4, 5, 7, 8, 9],
      let v : W32 := BitVec.ofNat 32 (63 + 256 * op)
      let c := readCmd s 8 v
      let p := cmdTarget s 8
      let u := plainWrite s (Reg.STA_TBL_CMD 8) 0x703F v
      Passes s .action (Reg.STA_TBL_CMD 8) false ∧ rfld v 8 4 = op ∧ rbit v 17 = false ∧ rdF s (Reg.STA_TBL_CMD 8) 16 1 = 0 ∧
      (∀ q ∈ cmdBusyStairs 8 p c, rdF s (Reg.STA_TBL_CMD q) 16 1 = 0) ∧ (∀ q ∈ cmdStairs u p c, cmdRefused u q c = false ∧ cmdUnread u q c = false) ∧ cmdWaits u p c = false := by decide +kernel
theorem wit_TableCommandsComplete_3 :
    let s := (List.range 9).foldl (fun s q => wrN s (Reg.STA_TBL_CFG q 0 0) 3) (wrN {} Reg.GL_BOOT_STAGE 5)
    let v : W32 := BitVec.ofNat 32 (0x1000 + 256 * 6)
    let c := readCmd s 8 v
    let p := cmdTarget s 8
    let u := plainWrite s (Reg.STA_TBL_CMD 8) 0x703F v
    Passes s .action (Reg.STA_TBL_CMD 8) false ∧ rfld v 8 4 = 6 ∧ rbit v 17 = false ∧ rdF s (Reg.STA_TBL_CMD 8) 16 1 = 0 ∧
    (∀ q ∈ cmdBusyStairs 8 p c, rdF s (Reg.STA_TBL_CMD q) 16 1 = 0) ∧ (∀ q ∈ cmdStairs u p c, cmdRefused u q c = false ∧ cmdUnread u q c = false) ∧ cmdWaits u p c = false ∧ tblKind s 8 0 = 3 := by decide +kernel
theorem wit_TableCommandsComplete_4 :
    let c : TblCmd := { op := 1, table := 63, bcast := false, staged := false, flag := false, index := 0, hdr0 := 0, hdr1 := 0, key := [], mask := [], data := [] }
    let s : State := { stairs := [(8, { cmd := some c })] }
    (stairGet s 8).cmd = some c ∧ cmdWaits s (cmdTarget s 8) c = false := by decide +kernel
theorem wit_TableCommandsComplete_5 :
    let s := wrN {} Reg.GL_BOOT_STAGE 5
    let u := stairUpd s 8 (fun x => { x with held := x.held.filter (fun e => e.1 / 16 ≠ 61) })
    Passes s .action (Reg.STA_TBL_CFG 8 61 0) false ∧ (cfgCheck u 8 61 (cfgWords s 8 61 1)).isSome = true ∧ cfgCheck u 8 61 (cfgWords s 8 61 0) = none := by decide +kernel
theorem wit_TableCommandsComplete_6 :
    let s := { wrN {} (Reg.STA_L2_CTL 8) 1 with stairs := [(8, { learns := [[]], tbls := [(63, [((candSlots 65536 (0, 0xFFFFFFFF) []).headD 0, {})])], loading := [{}], loaded := some 2 })], time := { elapsed := 1000 * msUnits } }
    (stairGet s 8).learns = [[]] ∧ rdF s (Reg.STA_L2_CTL 8) 0 16 ≠ 0 ∧ (stairGet s 8).aged + rdF s (Reg.STA_L2_CTL 8) 0 16 * (1000 * msUnits) ≤ s.time.elapsed ∧
    (stairGet s 8).loaded = some 2 ∧ (stairGet s 8).loading = [{}] ∧ (findSlot (entriesOf s 8 63) (candSlots 65536 (0, 0xFFFFFFFF) [] ++ stashSlots 65536) (fun x => x.key == [])).isSome = true := by decide +kernel
theorem wit_TableCommandsComplete_7 :
    let x : Parked := { stair := 8, flight := 0, key := .deep 8 0 0 0, pkt := { id := 0, hdr := [], body := [], md := [] }, since := 0 }
    let s := { wrN (wrN (wrN {} (Reg.STA_TBL_CFG 8 0 0) 5) (Reg.STA_TBL_CFG 8 0 1) 0x200) (Reg.STA_TBL_CFG 8 0 13) 4 with land := { hall := [x] } }
    let t := stairUpd {} 8 (fun x => { x with lines := [{ table := 0, bucket := 3, valid := false, used := 0 }] })
    tblKind s 8 0 = 5 ∧ 0 < tcf s 8 0 13 0 25 ∧ deepSets s 8 0 ≠ 0 ∧ lineOf s 8 0 0 = none ∧ s.land.hall.any (fun x => deepAt s 8 0 0 x.key) = true ∧ unitState s 8 ≠ 3 ∧
    (lineOf t 8 0 3).any (fun l => !l.valid) = true ∧ unitState t 8 ≠ 3 ∧ guardedGone t 0 (8 * 64) 3 = false := by
  intro x s t
  exact ⟨by decide +kernel, by decide +kernel, by decide +kernel, by decide +kernel, by decide +kernel, by decide +kernel, by decide +kernel, by decide +kernel, guardedGone_whole (s := t) (by decide +kernel) 0 (8 * 64) 3⟩

theorem wit_SheafAndArrayCommandsComplete_1 :
    let s := wrN {} Reg.GL_BOOT_STAGE 5
    let z := { s with sheaf := { pending := true, timed := true } }
    Passes s .action Reg.LD_SHEAF_CMD false ∧ rbit 1 3 = false ∧ rbit 1 0 = true ∧ rbit 1 1 = false ∧ rbit 3 1 = true ∧ rbit 1 12 = false ∧ rbit 1 13 = false ∧
    rdF s Reg.LD_SHEAF_DRAIN 16 1 = 0 ∧ s.sheaf.sweeps = [] ∧ s.sheaf.pending = false ∧ Passes z .action Reg.LD_SHEAF_CMD false ∧
    commitReady { sheaf := { pending := true } } = true := by decide +kernel
theorem wit_SheafAndArrayCommandsComplete_2 :
    let s := wrN {} Reg.LD_SHEAF_DRAIN 0x10007
    let z := { wrN s Reg.LD_SHEAF_LIMIT 1 with time := { elapsed := 1000 * 65536 } }
    draining s = some 7 ∧ oldCount s = 0 ∧ rdF { sheaf := { sweeps := [7] } } Reg.LD_SHEAF_DRAIN 16 1 = 0 ∧ (draining z).isSome = true ∧ rdN z Reg.LD_SHEAF_LIMIT ≠ 0 ∧
    z.sheaf.since + rdN z Reg.LD_SHEAF_LIMIT * 1000 ≤ elNs z ∧ z.land.hall.filter (fun x => isOld z x.pkt.md) = [] ∧ z.land.entry = [] := by decide +kernel
theorem wit_SheafAndArrayCommandsComplete_3 :
    let s := wrN (wrN (wrN (wrN { ch := { chans := [(7, { ringChan 7 0 with slice := 0 })] } } Reg.GL_BOOT_STAGE 5) Reg.LD_RH_RING 7) (Reg.LD_TM_CFG_CTL 15) 7) (Reg.LD_TM_CFG_HANDLE 15) 7
    let u := plainWrite s Reg.LD_RH_CTL 0xFFFF00FE 1
    Passes s .action Reg.LD_RH_CTL false ∧ rhRunning s = false ∧ spareStair u = some 8 ∧
    (List.range 16).any (fun r => tmBound u r && tmHandle u r == rdN u Reg.LD_RH_RING && tmUse u r == 3) = true ∧ (chanOf u (rdN u Reg.LD_RH_RING)).any (fun c => c.2.slice == 0) = true ∧
    rhRunning (wrN s Reg.LD_RH_STATUS 1) = true ∧ Passes (wrN s Reg.LD_RH_STATUS 1) .action Reg.LD_RH_CTL false := by decide +kernel
theorem wit_SheafAndArrayCommandsComplete_4 :
    let s := wrN (wrN {} Reg.GL_BOOT_STAGE 5) (Reg.STA_ARR_CFG 8 1 15) 0x2A805
    Passes s .action (Reg.STA_ARR_CMD 8 1) false ∧ rdF s (Reg.STA_ARR_CMD 8 1) 16 1 = 0 ∧
    (∀ op ∈ [1, 2, 3, 4, 5],
      let v : W32 := BitVec.ofNat 32 (15 + 16 * op)
      let u := plainWrite s (Reg.STA_ARR_CMD 8 1) 0x10F v
      rbit v 17 = false ∧ rbit v 8 = false ∧ rfld v 4 4 = op ∧ arrFail u (cmdTarget u 8) 1 op 15 0 = none ∧
      arrFail (wrF u (Reg.STA_ARR_CMD 8 1) 16 1 1) (cmdTarget u 8) 1 op 15 0 = none ∧ rdF u (Reg.STA_ARR_INDEX 8 1) 0 23 = 0) := by decide +kernel
theorem wit_SheafAndArrayCommandsComplete_5 :
    let s := wrN (wrN (wrN {} Reg.GL_BOOT_STAGE 5) (Reg.STA_ARR_CFG 7 1 15) 0x1A802) (Reg.STA_MTR_COUNT 7 1) 2
    let v : W32 := 0x200F
    let u := plainWrite s (Reg.STA_MTR_CMD 7 1) 0x1FFF v
    let w := wrF u (Reg.STA_MTR_CMD 7 1) 16 1 1
    Passes s .action (Reg.STA_ARR_CFG 8 1 15) false ∧ arrRefused s 8 1 15 0x2A805 = none ∧ rfld 0x2A805 0 2 ≠ 0 ∧
    Passes s .action (Reg.STA_MTR_CMD 7 1) false ∧ rdF s (Reg.STA_MTR_CMD 7 1) 16 1 = 0 ∧ rbit v 17 = false ∧ rbit v 13 = true ∧ rbit v 12 = false ∧ 15 = rfld v 0 4 ∧
    rdF u (Reg.STA_MTR_COUNT 7 1) 0 24 ≠ 0 ∧ arrKind w (cmdTarget w 7) 1 15 = 2 ∧ rdF u (Reg.STA_MTR_FIRST 7 1) 0 23 + rdF u (Reg.STA_MTR_COUNT 7 1) 0 24 ≤ arrCount w (cmdTarget w 7) 1 15 ∧
    stairOf s 7 = some 7 ∧ arrKind s 7 1 15 = 2 ∧ arrCount s 7 1 15 ≠ 0 := by decide +kernel

theorem wit_MicroAndNodeCommandsComplete_1 :
    let s := wrN (wrN {} Reg.GL_BOOT_STAGE 5) (Reg.stepPage 8 1 11 + 8) 0x2000
    stepOk 8 1 11 = true ∧ (loadStairs s).any (fun q => ucHeld s q 1) = false ∧ ucHeld s 8 1 = false ∧ rdF s (Reg.stepPage 8 1 11 + 8) 13 1 = 1 ∧
    rdF s (Reg.stepPage 8 1 11 + 8) 11 1 = 0 ∧ s.unit.goldenBad = false ∧ Passes s .action (Reg.stepPage 8 1 11 + 0xC) false ∧ Passes s .action (Reg.stepPage 8 1 11 + 0x10) false ∧
    Passes s .action (Reg.stepPage 8 1 11) false ∧ nanoRefused 1 11 (nanoOf s 8 1 11) = none ∧ rbit 1 0 = true ∧ rbit 1 1 = false ∧ rfld 1 1 2 ≠ 3 ∧
    rbit 2 0 = false ∧ rbit 2 1 = true := by decide +kernel
theorem wit_MicroAndNodeCommandsComplete_2 :
    let s := wrN {} Reg.GL_BOOT_STAGE 5
    unitState s 7 = 1 ∧ unitState s 8 = 2 ∧ 511 < (if (1 : Nat) = 0 then 2048 else 512) ∧
    (entOf { ch := { chans := [(3, { ringChan 2 0 with ents := [{ idx := 5, desc := [], hold := true }] })] } } 3 5).any (fun x => x.2.hold) = true ∧
    ((nodeGet { land := { queues := [(7, { nodeReset 0 with pkts := [{ pkt := { id := 4, hdr := [], body := [], md := [] }, pool := 0, copying := true, units := 1 }] })] } } 0 7).pkts.find?
      (fun x => x.pkt.id == 4 && x.copying)).isSome = true ∧
    Passes s .action Reg.LD_OVF_SIZE false ∧ rdN s Reg.LD_OVF_USED = 0 ∧ Passes s .action Reg.SC_NODE_SEL false ∧ selValid (plainWrite s Reg.SC_NODE_SEL 0xFFFFF 0x3FFFF) = true := by decide +kernel
theorem wit_MicroAndNodeCommandsComplete_3 :
    let s := wrN (wrN (wrN {} Reg.GL_BOOT_STAGE 5) Reg.SC_NODE_SEL (3 * 2 ^ 18 + 47)) (Reg.SC_NODE_CFG 0) 0
    let z := wrN (wrN {} Reg.GL_BOOT_STAGE 5) Reg.SC_NODE_SEL 0x3FFFF
    Passes s .action Reg.SC_NODE_CMD false ∧ applyCause s = 1 ∧ applyCause (wrN (wrN s (Reg.SC_NODE_CFG 4) 0) (Reg.SC_NODE_CFG 6) 0) = 0 ∧ selType s = 3 ∧
    Passes z .action Reg.SC_NODE_CMD false ∧ selType z = 0 ∧ selValid z = true ∧ rbit 1 9 = false ∧ rbit 1 1 = false ∧ rbit 1 2 = false ∧ rbit 2 2 = false ∧ rbit 2 9 = false ∧
    rbit 4 0 = false ∧ rbit 4 1 = false ∧ rbit 4 2 = true ∧ rbit 4 9 = false := by decide +kernel

/-- Slice 1 holds the key slots 0 to 3: slot 1 holds a key for anything; the DRBG runs. -/
def keysAt (cmd : List Byte) : State :=
  let s := wrN (adminAt cmd) Reg.KS_STATUS 1
  { slUpd s 1 (fun x => { x with limits := [(5, 4)] }) with cy := { slots := [(1, { key := 7, salt := 9 })] } }
theorem wit_CipherCommandsComplete_1 :
    let cmd := adminCmd 0xC0 0 [(0x10, 0, 16, 0), (0x10, 16, 16, 1)]
    let s := onHost (slUpd (keysAt cmd) 0 (fun x => { x with limits := [(5, 4)] })) 0
    AdminReady s 0 0xC0 cmd 0 ∧ slotAbs s 0 (par cmd 0x10 0 16) = some 0 ∧ slotAbs s 0 (par cmd 0x10 16 16) = some 1 ∧ (aget s.cy.slots 1).map (fun k => k.role) = some 0 ∧
    keyBusy s 0 = false ∧ keyLocked s = false ∧ drbgUp s = true ∧ keyHeld s 0 1 s.cy.nextReq = false ∧ mayRead s 0 = true ∧
    (slFetch s 0 [(par cmd 0x18 0 64, 40)] 0 (envRead { reads := [.ok []] } 0)).2 = .ok [] ∧ drbgUp (slFetch s 0 [(par cmd 0x18 0 64, 40)] 0 (envRead { reads := [.ok []] } 0)).1 = true := by decide +kernel
theorem wit_CipherCommandsComplete_2 :
    let gen := adminCmd 0xC1 1 [(0x10, 0, 16, 3)]
    let era := adminCmd 0xC2 1 [(0x10, 0, 16, 1), (0x10, 16, 16, 3)]
    let qry := adminCmd 0xC3 1 [(0x10, 0, 16, 1)]
    AdminReady (keysAt gen) 0 0xC1 gen 1 ∧ slotAbs (keysAt gen) 1 (par gen 0x10 0 16) = some 3 ∧ keyBusy (keysAt gen) 3 = false ∧ keyLocked (keysAt gen) = false ∧ drbgUp (keysAt gen) = true ∧
    keyHeld (keysAt gen) 3 1 (keysAt gen).cy.nextReq = false ∧ AdminReady (keysAt era) 0 0xC2 era 1 ∧ 1 = par era 0x10 0 16 ∧ 3 = par era 0x10 16 16 ∧
    (aget (keysAt era).slices 1).map (fun x => x.ksBase) = some 0 ∧ 1 + 3 ≤ sliceLimit (keysAt era) 1 5 ∧ ((List.range 3).map (0 + 1 + ·)).any (keyBusy (keysAt era)) = false ∧
    keyHeld (keysAt era) 1 3 (keysAt era).cy.nextReq = false ∧ AdminReady (keysAt qry) 0 0xC3 qry 1 ∧ slotAbs (keysAt qry) 1 (par qry 0x10 0 16) = some 1 := by decide +kernel
theorem wit_CipherCommandsComplete_3 :
    let cre := adminCmd 0xC4 1 [(0x10, 0, 16, 1)]
    let des := adminCmd 0xC5 1 [(0x10, 0, 18, 262143)]
    let qry := adminCmd 0xC6 1 [(0x10, 0, 18, 262143)]
    let c : Cctx := { slice := 1, slot := 1, derive := false, side := 0, label := [], txEpoch := 0, rxEpoch := 0 }
    AdminReady (keysAt cre) 0 0xC4 cre 1 ∧ slotAbs (keysAt cre) 1 (par cre 0x10 0 16) = some 1 ∧ par cre 0x10 16 1 = 0 ∧ (keysAt cre).cy.ctxs.length < 262144 ∧
    AdminReady { keysAt des with cy := { ctxs := [(262143, c)] } } 0 0xC5 des 1 ∧ 262143 = par des 0x10 0 18 ∧
    AdminReady { keysAt qry with cy := { ctxs := [(262143, c)] } } 0 0xC6 qry 1 ∧ 262143 = par qry 0x10 0 18 := by decide +kernel
theorem wit_CipherCommandsComplete_4 : aget (keysAt (adminCmd 0xC4 1 [])).cy.ctxs (Config.freeValue 0 % 262144) = none := rfl
/-- A lookaside request of XTS that engine 0 runs, for slice 1. -/
def laReq : LaReq := { slice := 1, origin := .lane 15, engine := 0, op := 0x42, aad := 0, len := 16, src := 0, dst := 0, iv := [] }
def laAt : State := { onHost (keysAt (adminCmd 0xC4 1 [])) 1 with cy := { reqs := [(4, laReq)], serving := [(0, 4)] } }
theorem wit_CipherCommandsComplete_5 :
    aget laAt.cy.reqs 4 = some laReq ∧ aget laAt.cy.serving laReq.engine = some 4 ∧ sliceLive laAt laReq.slice = true ∧ laReq.fixed = none ∧ laReq.op ≠ 0x41 ∧
    unitState laAt (64 + laReq.engine) ≠ 3 ∧ mayRead laAt laReq.slice = true ∧ (laSource laAt laReq { reads := [.ok []] }).2 = .ok [] ∧ envWrite {} = STS_OK ∧ (15 : Nat) < 16 ∧ (aget laAt.slices 1).isSome = true ∧ laneBusy laAt 1 15 = false ∧ rbit 0x100 8 = true ∧
    Passes { wrN laAt Reg.GL_BOOT_STAGE 5 with acc := { window := some { opened := 0, owner := .action, block := blockOf Reg.KS_ALARM } } } .action Reg.KS_ALARM true ∧ rdF laAt Reg.KS_STATUS 1 1 = 0 ∧ rdF (wrN laAt Reg.KS_STATUS 2) Reg.KS_STATUS 1 1 = 1 := by decide +kernel
theorem wit_CipherCommandsComplete_6 : ∃ out, laOutput laReq [] = .inl out := ⟨_, rfl⟩

/-- Slice 1 has a queue pair in a state, and a region. -/
def qpAt (cmd : List Byte) (st : Nat) (r : Region) : State :=
  let s := slUpd (adminAt cmd) 1 (fun x => { x with limits := [(4, 2)] })
  { s with ch := { s.ch with chans := aset s.ch.chans 9 (ringChan 4 3) }, rm := { qps := [(9, { tstate := st })], regions := [(0x1000005, r)] } }
theorem wit_RemoteMemoryAdminComplete_1 :
    let r : Region := { slice := 1, addr := 0, len := 4096, access := 1 }
    let rts := adminCmd 0x80 1 [(0x10, 0, 32, chanHandle 9 (ringChan 4 3)), (0x14, 0, 3, 3)]
    let err := adminCmd 0x80 1 [(0x10, 0, 32, chanHandle 9 (ringChan 4 3)), (0x14, 0, 3, 4)]
    let qry := adminCmd 0x81 1 [(0x10, 0, 32, chanHandle 9 (ringChan 4 3))]
    let bs := le 128 (4096 * 2 ^ (8 * 0x2C))
    cmdQp (onHost (qpAt rts 2 r) 0) 1 rts = .inr (9, ringChan 4 3, { tstate := 2 }) ∧ AdminReady (onHost (qpAt rts 2 r) 0) 0 0x80 rts 1 ∧ par rts 0x14 0 3 = 3 ∧
    mayRead (onHost (qpAt rts 2 r) 0) 0 = true ∧ (slFetch (onHost (qpAt rts 2 r) 0) 0 [(par rts 0x18 0 64, 128)] 0 (envRead { reads := [.ok bs] } 0)).2 = .ok bs ∧
    leAt (fit 128 bs) 0x2C 2 = 4096 ∧ cmdQp (qpAt err 1 r) 1 err = .inr (9, ringChan 4 3, { tstate := 1 }) ∧ AdminReady (qpAt err 1 r) 0 0x80 err 1 ∧ par err 0x14 0 3 = 4 ∧
    cmdQp (qpAt qry 4 r) 1 qry = .inr (9, ringChan 4 3, { tstate := 4 }) ∧ AdminReady (qpAt qry 4 r) 0 0x81 qry 1 ∧ envWrite {} = STS_OK := by decide +kernel
theorem wit_RemoteMemoryAdminComplete_2 :
    let r : Region := { slice := 1, addr := 0, len := 4096, access := 1 }
    let reg := adminCmd 0x82 1 [(0x1C, 0, 16, 0xFFFF)]
    let der := adminCmd 0x83 1 [(0x10, 0, 32, 0x1000005)]
    let qry := adminCmd 0x84 1 [(0x10, 0, 32, 0x1000005)]
    AdminReady (qpAt reg 0 r) 0 0x82 reg 1 ∧ par reg 0x18 0 64 < 2 ^ 48 ∧ ((qpAt reg 0 r).rm.regions.filter (fun e => e.2.slice == 1)).length < sliceLimit (qpAt reg 0 r) 1 4 ∧
    AdminReady (qpAt der 0 r) 0 0x83 der 1 ∧ 0x1000005 = par der 0x10 0 32 ∧ aget (qpAt der 0 r).rm.regions 0x1000005 = some r ∧ 
    AdminReady (qpAt qry 0 r) 0 0x84 qry 1 ∧ 0x1000005 = par qry 0x10 0 32 ∧ aget (qpAt der 0 { r with refs := 1, revoking := true }).rm.regions 0x1000005 = some { r with refs := 1, revoking := true } ∧
    r.since + msUnits ≤ ({ time := { elapsed := msUnits } } : State).time.elapsed := by decide +kernel
theorem wit_RemoteMemoryAdminComplete_3 : regionFree (adminAt (adminCmd 0x82 1 [])) (Config.freeValue 0 % 2 ^ 24) = true := rfl
theorem wit_RemoteMemoryAdminComplete_4 :
    let set := adminCmd 0x85 1 [(0x10, 0, 16, 0xFFFF)]
    let qry := adminCmd 0x86 1 [(0x10, 0, 16, 0xFFFF)]
    AdminReady (onHost (adminAt set) 0) 0 0x85 set 1 ∧ 0xFFFF = par set 0x10 0 16 ∧ mayRead (onHost (adminAt set) 0) 0 = true ∧
    (∀ b ∈ [2, 3], (slFetch (onHost (adminAt set) 0) 0 [(par set 0x18 0 64, 64)] 0 (envRead { reads := [.ok [b]] } 0)).2 = .ok [b]) ∧ leAt (fit 64 [2]) 0 4 % 2 = 0 ∧ leAt (fit 64 [3]) 0 4 % 4 = 3 ∧
    AdminReady (adminAt qry) 0 0x86 qry 1 ∧ 0xFFFF = par qry 0x10 0 16 := by decide +kernel

/-- A queue pair 9 and its line 4 in a state. -/
def lineAt (q : Qp) (st : Nat) : State :=
  { slices := [(1, { link := none, fnum := 0, pasid := none, page0 := 1, pages := 1 })], ch := { chans := [(9, ringChan 4 3)] },
    rm := { qps := [(9, q)], lines := [(4, { qp := 9, st := st, used := 0 })], wants := [8] }, time := { elapsed := 10 ^ 15 } }
theorem wit_RemoteMemoryEventsComplete_1 :
    let p : TxPkt := { psn := 0, op := 1, work := 0, off := 0, len := 0, sent := 0 }
    let q : Qp := { tstate := 3, owed := [(7, [])], rtoMin := 1, sent := [p], retry := 1, ackAt := some (0, 0, 0), rnrWait := some (0, 0, 0), msgTimeout := 1,
                    resps := [{ reqPsn := 0, va := 0, len := 0, key := 0, since := 0 }], msgs := [{ msn := 0, op := 1, len := 0, since := 0 }] }
    let s := wrN (lineAt q 3) Reg.LD_FREE 100000
    (qpGet s 9).any (fun x => x.owed == [(7, [])] && x.tstate == 3 && x.sent.any (fun x => !x.acked) && decide (x.expiries < x.retry) && decide (x.rtoAt + x.rto * usUnits ≤ s.time.elapsed) &&
      decide (0 + x.ackDelay * usUnits ≤ s.time.elapsed) && decide (0 + x.msgTimeout * msUnits ≤ s.time.elapsed)) = true ∧
    chanGet s 9 = some (ringChan 4 3) ∧ (aget s.slices 1).any (fun x => x.state == 4) = false ∧ rdF s Reg.LD_ARR_RSV 0 21 + 1 < rdN s Reg.LD_FREE ∧ sliceFrozen s 1 = false := by decide +kernel
theorem wit_RemoteMemoryEventsComplete_2 :
    (lineOfQp (lineAt {} 3) 9).map (fun e => e.2.st) = some 3 ∧ (lineOfQp (lineAt {} 2) 9).map (fun e => e.2.st) = some 2 ∧
    (lineAt {} 0).rm.lines.find? (fun e => e.2.st == 1) = none ∧ (lineAt {} 0).rm.wants ≠ [] ∧ lruIdle (lineAt {} 0) = some 4 ∧ (aget (lineAt {} 0).rm.lines 4).isSome = true ∧
    ((lineAt {} 1).rm.lines.find? (fun e => e.2.st == 1)).map (fun e => e.1) = some 4 ∧ (qpGet (lineAt {} 1) 9).map (fun q => q.spillHost) = some false := by decide +kernel
theorem wit_RemoteMemoryEventsComplete_3 :
    let s := onHost (lineAt { spillHost := true } 3) 1
    hostSpill (lineAt {} 3) 9 = none ∧ guardedGone (lineAt {} 3) 1 9 0 = false ∧
    hostSpill s 9 = some (1, 0) ∧ mayRead s 1 = true ∧ (spillRead s 1 0 STS_OK).2 = STS_OK ∧ (lineOfQp s 9).map (fun e => e.2.st) = some 3 :=
  ⟨by decide +kernel, guardedGone_whole (by decide +kernel) _ _ _, by decide +kernel, by decide +kernel, by decide +kernel, by decide +kernel⟩

theorem wit_ControllerCommandsComplete_1 :
    let off : Ctrl := { kind := 0, slice := 1, aqa := 0x10001 }
    let up : Ctrl := { off with cc := 0x460001, rdy := true, sqs := [(256, { base := 0, size := 2, cq := 0 })], cqs := [(256, { base := 0, size := 2 })] }
    ctrlBar (nvAt off) 0 0 = some (3, off) ∧ ccBad off (0x460001 &&& 0x00FFFFF1) = false ∧ ctrlBar (nvAt up) 0 0 = some (3, up) ∧ fld 0x464001 14 2 = 1 ∧
    fld (0x464001 &&& 0x00FFFFF1) 14 2 = fld 0x464001 14 2 ∧ fld up.cc 14 2 = 0 ∧ (aget up.sqs 256).map (fun q => (q.size, q.tail)) = some (2, 0) ∧ (aget up.cqs 256).map (fun q => q.size) = some 2 ∧ dbLive (nvAt up) up = true := by decide +kernel
theorem wit_ControllerCommandsComplete_2 :
    let x : Ctrl := { kind := 0, slice := 1, rdy := true, test := some { kind := 1, nsid := 0, segment := 4, paused := true } }
    let s : State := { nvAt x with time := { elapsed := msUnits } }
    aget s.sv.ctrls 3 = some x ∧ x.cc.testBit 0 = false ∧ s.sv.cmds.any (fun e => e.2.ctrl == 3 && e.2.silent && e.2.stage ≠ .staged) = false ∧
    0 + msUnits ≤ s.time.elapsed ∧ s.sv.cmds.any (fun e => testCovers x e.2 && e.2.stage ≠ .staged) = false := by decide +kernel
theorem wit_ControllerCommandsComplete_3 :
    let m : SvCmd := { ctrl := 3, sq := 0, cq := 0, sqe := [], stage := .commit }
    let s : State := { sv := { cmds := [(9, m)] } }
    s.sv.cmds.find? (fun e => e.2.ctrl == 3 && e.2.stage == .commit) = some (9, m) ∧ s.unit.rolling = [] ∧ s.unit.handover = none ∧ s.oz.restart = none := by decide +kernel

theorem wit_NvmeAdminCommandsComplete_1 :
    let s := nvAt nvUp
    let d0 := nvSqe 0x00 [(40, 0, 16, 2)]
    let d1 := nvSqe 0x01 [(40, 0, 16, 256), (42, 0, 16, 1), (44, 0, 1, 1), (46, 0, 16, 1)]
    let d4 := nvSqe 0x04 [(40, 0, 16, 1)]
    let d5 := nvSqe 0x05 [(40, 0, 16, 256), (42, 0, 16, 1), (44, 0, 1, 1), (46, 0, 16, 7)]
    NvmeReady s 3 0x00 d0 nvReadyUp ∧ fld (sqeDw d0 10) 0 16 = 2 ∧ (aget nvReadyUp.sqs 2).isSome = true ∧
    (fetchCmd s 3 0 (fit 64 d0)).2.sv.cmds.all (fun e => e.2.ctrl ≠ 3 || (e.2.sq ≠ 2 && (match e.2.stage with | .abortAhead k _ => k ≠ 2 | _ => true))) = true ∧
    NvmeReady s 3 0x01 d1 nvReadyUp ∧ qidOk nvReadyUp 256 0 = true ∧ fld (sqeDw d1 10) 0 16 = 256 ∧ aget nvReadyUp.sqs 256 = none ∧ fld (sqeDw d1 10) 16 16 + 1 = 2 ∧ (sqeDw d1 11).testBit 0 = true ∧
    fld (sqeDw d1 11) 3 13 = 0 ∧ leAt d1 24 8 % mpsBytes nvReadyUp = 0 ∧ fld (sqeDw d1 11) 16 16 = 1 ∧ (aget nvReadyUp.cqs 1).isSome = true ∧
    NvmeReady s 3 0x04 d4 nvReadyUp ∧ fld (sqeDw d4 10) 0 16 = 1 ∧ nvReadyUp.sqs.any (fun e => e.2.cq == 1) = false ∧
    NvmeReady s 3 0x05 d5 nvReadyUp ∧ qidOk nvReadyUp 256 16 = true ∧ fld (sqeDw d5 10) 0 16 = 256 ∧ aget nvReadyUp.cqs 256 = none ∧ (sqeDw d5 11).testBit 0 = true ∧ fld (sqeDw d5 11) 2 14 = 0 ∧
    fld (sqeDw d5 11) 16 16 = 7 ∧ 7 < ctrlVectors (fetchCmd s 3 0 (fit 64 d5)).2 nvReadyUp := by decide +kernel
theorem wit_NvmeAdminCommandsComplete_2 :
    let s := nvAt nvUp
    let lp := nvSqe 0x02 [(40, 0, 8, 1), (42, 0, 12, 1023)]
    let id := nvSqe 0x06 [(40, 0, 8, 1)]
    let in' := nvSqe 0x06 [(4, 0, 32, 5)]
    let z := nvAt { nvUp with nss := [(5, 9)] }
    NvmeReady s 3 0x02 lp nvReadyUp ∧ cmdPrps nvReadyUp lp 4096 {} = .inr ([(0, 4096)], 0) ∧ 4 * (fld (sqeDw lp 10) 16 12 + 1) = 4096 ∧ sqeDw lp 12 = 0 ∧ sqeDw lp 13 = 0 ∧
    (logPage (prpRead (fetchCmd s 3 0 (fit 64 lp)).2 3 nvReadyUp lp 4096 {}) 3 (fld (sqeDw lp 10) 0 8) nvReadyUp ((sqeDw lp 10).testBit 15)).isSome = true ∧
    NvmeReady s 3 0x06 id nvReadyUp ∧ cmdPrps nvReadyUp id 4096 {} = .inr ([(0, 4096)], 0) ∧ fld (sqeDw id 10) 0 8 = 1 ∧
    NvmeReady { z with sv := { z.sv with nss := [(9, {})] } } 3 0x06 in' { nvReadyUp with nss := [(5, 9)] } ∧ fld (sqeDw in' 10) 0 8 = 0 ∧ sqeNsid in' = 5 ∧
    aget (fetchCmd { z with sv := { z.sv with nss := [(9, {})] } } 3 0 (fit 64 in')).2.sv.nss 9 = some {} := by decide +kernel
theorem wit_NvmeAdminCommandsComplete_3 :
    let s := nvAt nvUp
    let sf := nvSqe 0x09 [(40, 0, 8, 0xB), (44, 0, 16, 0x100)]
    let gf := nvSqe 0x0A [(40, 0, 8, 9), (44, 0, 16, 7)]
    let ae := nvSqe 0x0C []
    let ab := nvSqe 0x08 []
    let st := nvSqe 0x14 [(4, 0, 32, 0xFFFFFFFF), (40, 0, 4, 2)]
    NvmeReady s 3 0x09 sf nvReadyUp ∧ featOps.contains (fld (sqeDw sf 10) 0 8) = true ∧ (sqeDw sf 10).testBit 31 = false ∧ featArgOk (fetchCmd s 3 0 (fit 64 sf)).2 nvReadyUp 0xB (sqeDw sf 11) = true ∧
    NvmeReady s 3 0x0A gf nvReadyUp ∧ featOps.contains (fld (sqeDw gf 10) 0 8) = true ∧ fld (sqeDw gf 10) 8 3 = 0 ∧ featArgOk (fetchCmd s 3 0 (fit 64 gf)).2 nvReadyUp 9 (sqeDw gf 11) = true ∧
    NvmeReady s 3 0x0C ae nvReadyUp ∧ ((fetchCmd s 3 0 (fit 64 ae)).2.sv.cmds.filter (fun e => e.2.ctrl == 3 && e.2.stage == .event)).length < 4 ∧
    NvmeReady s 3 0x08 ab nvReadyUp ∧ s.sv.cmds = [] ∧ NvmeReady s 3 0x14 st nvReadyUp ∧ fld (sqeDw st 10) 0 4 = 2 ∧ sqeNsid st = 0xFFFFFFFF ∧ nvReadyUp.test = none := by decide +kernel
theorem wit_NvmeAdminCommandsComplete_4 :
    let s := nvAt nvUp
    let z : State := { s with oz := { route := 2, step := 1 } }
    let dl := nvSqe 0x11 []
    let co := nvSqe 0x10 [(40, 0, 3, 1)]
    deferral z = false ∧ nvReadyUp.fw = true ∧ NvmeReady z 3 0x11 dl nvReadyUp ∧ 4 * (sqeDw dl 10 + 1) ≤ 262144 ∧ cmdPrps nvReadyUp dl 4 { reads := [.ok [0, 0, 0, 0]] } = .inr ([(0, 4)], 0) ∧
    prpData { reads := [.ok [0, 0, 0, 0]] } 0 [(0, 4)] = some [0, 0, 0, 0] ∧ (let w := svFetch (prpRead (fetchCmd z 3 0 (fit 64 dl)).2 3 nvReadyUp dl 4 { reads := [.ok [0, 0, 0, 0]] }) 3 [(0, 4)] { reads := [.ok [0, 0, 0, 0]] } 0
     (fwWrite w 2 (4 * sqeDw dl 11) [0, 0, 0, 0]).2 = STS_OK ∧ w.oz.step ≠ 0) ∧
    NvmeReady z 3 0x10 co nvReadyUp ∧ sqeDw co 10 ≤ 1 := by decide +kernel

/-- An enabled controller with one entry in I/O queue 256 and a namespace of a pool under NSID 5. -/
def ioUp : Ctrl := { kind := 0, slice := 1, cc := 0x460001, rdy := true, nss := [(5, 9)], sqs := [(256, { base := 0, size := 4, cq := 255, tail := 1 })] }
def ioReadyUp : Ctrl := { ioUp with turn := 256, sqs := [(256, { base := 0, size := 4, cq := 255, head := 1, tail := 1 })] }
def ioPool : Pool := { mirror := false, members := [{ port := 0, nsid := 1, units := 100 }] }
def ioAt : State := { nvAt ioUp with sv := { ctrls := [(3, ioUp)], nss := [(9, { size := 8 })], pools := [(0, ioPool)] } }
theorem wit_NvmeIoCommandsComplete_1 :
    let e (op : Nat) := nvSqe op [(4, 0, 32, 5)]
    (∀ op ∈ [0, 1, 2, 8, 9], fetchable ioAt 3 256 = true ∧ sqeOp (fit 64 (e op)) = op ∧ aget (fetchCmd ioAt 3 256 (e op)).2.sv.ctrls 3 = some ioReadyUp ∧
      ioNs (fetchCmd ioAt 3 256 (e op)).2 ioReadyUp (fit 64 (e op)) = .inr (9, { size := 8 }) ∧ (aget (fetchCmd ioAt 3 256 (e op)).2.sv.cmds (fetchCmd ioAt 3 256 (e op)).1).isSome = true ∧
      sqeNsid (fit 64 (e op)) = 5) ∧ flushRoom ioAt 3 (fit 64 (e 0)) = true ∧
    ioAt.sv.cmds = [] ∧ checkRw ioReadyUp { size := 8 } (fit 64 (e 1)) {} = .inr { ranges := [(0, 1)], prps := [(0, 4096)] } ∧ checkRw ioReadyUp { size := 8 } (fit 64 (e 2)) {} = .inr { ranges := [(0, 1)], prps := [(0, 4096)] } ∧
    checkZeroes ioReadyUp { size := 8 } (fit 64 (e 8)) {} = .inr { ranges := [(0, 1)] } ∧
    checkDsm [] ioReadyUp { size := 8 } (fit 64 (e 9)) { reads := [.ok []] } = .inr { ranges := [(0, 0)], data := List.replicate 16 0 } := by decide +kernel
def heldCmd (op : Nat) : SvCmd := { ctrl := 3, sq := 256, cq := 0, sqe := nvSqe op [(4, 0, 32, 5), (44, 0, 32, 4)], stage := .waiting, ns := some 9, prps := [(0, 4096)], ranges := [(0, 1)] }
def heldAt (m : SvCmd) : State := { ioAt with sv := { ioAt.sv with cmds := [(7, m)] } }
theorem wit_NvmeIoCommandsComplete_2 :
    (∀ op ∈ [1, 2, 8, 9], aget (heldAt (heldCmd op)).sv.cmds 7 = some (heldCmd op) ∧ (heldCmd op).sq ≠ 0 ∧ (heldCmd op).stage = .waiting ∧ blocked (heldAt (heldCmd op)) 7 (heldCmd op) = false ∧
      cmdNs (heldAt (heldCmd op)) (heldCmd op) = some (9, { size := 8 }) ∧ sqeOp (heldCmd op).sqe = op ∧ (sqeDw (heldCmd op).sqe 11).testBit 2 = true ∧
      (aget (heldAt (heldCmd op)).sv.ctrls 3).any (fun c => mayRead (heldAt (heldCmd op)) c.slice) = true ∧
      unitsFree (svFetch (heldAt (heldCmd op)) 3 [(0, 4096)] { reads := [.ok []] } 0) 0 (rangeUnits { size := 8 } 0 1).length = true ∧
      unitsFree (heldAt (heldCmd op)) 0 (rangeUnits { size := 8 } 0 1).length = true) ∧ (prpData { reads := [.ok []] } 0 [(0, 4096)]).isSome = true ∧
    drvAborted (drvOpen (heldAt { heldCmd 2 with stage := .sent }) 7 (heldCmd 2) { size := 8 }) 7 { heldCmd 2 with stage := .sent } = false ∧ cmdNs (drvOpen (heldAt { heldCmd 2 with stage := .sent }) 7 (heldCmd 2) { size := 8 }) { heldCmd 2 with stage := .sent } = some (9, { size := 8 }) := by decide +kernel
theorem wit_NvmeIoCommandsComplete_3 :
    let t : Ctrl := { kind := 1, slice := 0 }
    let s : State := { sv := { ctrls := [(3, t)] } }
    let two : Pool := { mirror := true, members := [{ port := 0, nsid := 1, units := 1 }, { port := 1, nsid := 1, units := 1 }] }
    aget s.sv.ctrls 3 = some t ∧ svInflight s < 262144 ∧ sqeOp (fit 64 (nvSqe 2 [])) = 2 ∧ (slice (fit 64 (nvSqe 2 [])) 24 16).any (fun b => b ≠ 0) = false ∧ ioPool.seq = 0 ∧
    poolState { ioPool with members := ioPool.members.set 0 { port := 0, nsid := 1, units := 100, present := false } } = 3 ∧ poolState two = 1 ∧
    poolState { two with members := two.members.set 1 { port := 1, nsid := 1, units := 1, present := false } } = 2 ∧ poolState { two with rebuild := some 1 } = 2 ∧
    poolCtrls ({ sv := { pools := [(0, two)] } } : State) 0 = [] ∧ nsReachable ({ sv := { pools := [(0, two)] } } : State) {} = true ∧ nsReachable s {} = false := by decide +kernel

/-- A ready device with a storage command of the owner at the head of its ring, and a storage front end. -/
def svAt (cmd : List Byte) (v : SvSt) : State :=
  let s := fnUpd (adminAt cmd) 0 0 (fun f => { f with nvme := true })
  { slUpd s 1 (fun x => { x with link := some 0 }) with sv := v }
theorem wit_StorageAdminCommandsComplete_1 :
    let cre := adminCmd 0xA0 1 [(0x10, 1, 1, 1)]
    let des := adminCmd 0xA1 1 [(0x10, 0, 32, 3)]
    let qry := adminCmd 0xA2 1 [(0x10, 0, 32, 3)]
    let c : Ctrl := { kind := 0, slice := 1 }
    AdminReady (svAt cre {}) 0 0xA0 cre 1 ∧ par cre 0x10 0 1 = 0 ∧ ctrlBindOk (svAt cre {}) 1 = true ∧ afree (svAt cre {}).sv.ctrls 4096 = some 0 ∧
    AdminReady (svAt des { ctrls := [(3, c)] }) 0 0xA1 des 1 ∧ 3 = par des 0x10 0 32 ∧ AdminReady (svAt qry { ctrls := [(3, c)] }) 0 0xA2 qry 1 ∧ 3 = par qry 0x10 0 32 ∧ envWrite {} = STS_OK := by decide +kernel
theorem wit_StorageAdminCommandsComplete_2 :
    let cre := adminCmd 0xA4 1 [(0x10, 0, 3, 7), (0x14, 0, 32, 1)]
    let des := adminCmd 0xA5 1 [(0x10, 0, 32, 63)]
    let reb := adminCmd 0xA6 1 [(0x10, 0, 8, 63), (0x10, 8, 3, 7), (0x14, 0, 32, 1)]
    let qry := adminCmd 0xA7 1 [(0x10, 0, 32, 63)]
    let a : Member := { port := 0, nsid := 1, units := 5 }
    let b : Member := { port := 1, nsid := 1, units := 5, present := false }
    let v : SvSt := { pools := [(63, { mirror := true, members := [a, b] })] }
    AdminReady (svAt cre {}) 0 0xA4 cre 1 ∧ par cre 0x10 3 1 = 0 ∧ driveUsed (svAt cre {}) (par cre 0x10 0 3) (par cre 0x14 0 32) = false ∧ afree (svAt cre {}).sv.pools 64 = some 0 ∧
    AdminReady (svAt des v) 0 0xA5 des 1 ∧ 63 = par des 0x10 0 32 ∧ (aget (svAt des v).sv.pools 63).isSome = true ∧ (svAt des v).sv.nss.any (fun e => e.2.backing == 0 && e.2.target == 63) = false ∧
    AdminReady (svAt reb v) 0 0xA6 reb 1 ∧ 63 = par reb 0x10 0 8 ∧ 0 ≠ par reb 0x10 8 3 ∧
    driveUsed (poolUpd (svAt reb v) 63 (fun y => { y with members := [a] })) (par reb 0x10 8 3) (par reb 0x14 0 32) = false ∧
    AdminReady (svAt qry v) 0 0xA7 qry 1 ∧ 63 = par qry 0x10 0 32 := by decide +kernel
theorem wit_StorageAdminCommandsComplete_3 :
    let cre := adminCmd 0xA8 1 [(0x20, 0, 64, 8)]
    let pool : Pool := { mirror := false, members := [{ port := 0, nsid := 1, units := 100 }] }
    let des := adminCmd 0xA9 1 [(0x10, 0, 32, 9)]
    let qry := adminCmd 0xAD 1 [(0x10, 0, 32, 9)]
    let att := adminCmd 0xAA 1 [(0x10, 0, 32, 9), (0x14, 0, 32, 3), (0x18, 0, 32, 1024)]
    let x : Ns := { backing := 1 }
    let c : Ctrl := { kind := 0, slice := 1 }
    let v : SvSt := { nss := [(9, x)], ctrls := [(3, c)] }
    AdminReady (svAt cre { pools := [(0, pool)] }) 0 0xA8 cre 1 ∧ nsBackingSts (svAt cre { pools := [(0, pool)] }) cre none = none ∧ afree (svAt cre { pools := [(0, pool)] }).sv.nss 65536 = some 0 ∧
    par cre 0x10 3 1 = 0 ∧ par cre 0x10 0 2 = 0 ∧ AdminReady (svAt des v) 0 0xA9 des 1 ∧ 9 = par des 0x10 0 32 ∧ nsAttachments (svAt des v) 9 = 0 ∧
    AdminReady (svAt qry v) 0 0xAD qry 1 ∧ 9 = par qry 0x10 0 32 ∧ AdminReady (svAt att v) 0 0xAA att 1 ∧ 9 = par att 0x10 0 32 ∧ 3 = par att 0x14 0 32 ∧ 1024 = par att 0x18 0 32 ∧ nsAttachments (svAt att v) 9 < 16 := by decide +kernel
theorem wit_StorageAdminCommandsComplete_4 :
    let det := adminCmd 0xAB 1 [(0x10, 0, 32, 9), (0x14, 0, 32, 3)]
    let mod := adminCmd 0xAC 1 [(0x10, 0, 32, 9), (0x14, 0, 1, 1), (0x18, 0, 32, chanHandle 9 (ringChan 4 3))]
    let c : Ctrl := { kind := 0, slice := 1, nss := [(1024, 9)] }
    let v : SvSt := { nss := [(9, { backing := 1 })], ctrls := [(3, c)] }
    let s := svAt mod v
    let u : State := { s with ch := { s.ch with chans := aset s.ch.chans 9 { ringChan 4 3 with slice := 0 } }, rm := { qps := [(9, { tstate := 3 })] } }
    AdminReady (svAt det v) 0 0xAB det 1 ∧ 9 = par det 0x10 0 32 ∧ 3 = par det 0x14 0 32 ∧ c.nss.find? (fun e => e.2 == 9) = some (1024, 9) ∧
    (nsChanged (ctrlUpd (svAt det v) 3 (fun x => { x with nss := adel x.nss 1024 })) 3 1024).sv.cmds.any (fun e => e.2.ctrl == 3 && e.2.ns == some 9 && e.2.stage ≠ .staged) = false ∧
    AdminReady u 0 0xAC mod 1 ∧ par mod 0x14 0 1 = 1 ∧ par mod 0x14 1 1 = 0 ∧ svQpReady u (par mod 0x18 0 32) = true ∧ (aget u.sv.nss 9).isSome = true ∧ 9 = par mod 0x10 0 32 := by decide +kernel

theorem wit_ChannelInstructionsComplete_1 :
    let out : TPort := { mode := 2, opened := true }
    let m : Msg := { slot := 0, words := 1, kind := 0 }
    let inp : TPort := { mode := 1, depthLog := 2, msgs := [m], handle := 5 }
    thRuns (thAt 1 out {}) 31 63 = true ∧ 16 * 63 + 15 = 16 * 63 + 15 % 16 ∧ tport (thAt 1 out {}) 31 1023 = out ∧ out.words.length < 8 ∧
    thRuns (thAt 1 inp {}) 31 63 = true ∧ tport (thAt 1 inp {}) 31 1023 = inp ∧ (thAddr (fwBytes (thAt 1 inp {})) 31 0xFFFC0 8).isSome = true := by decide +kernel
theorem wit_ChannelInstructionsComplete_2 :
    let b : Block := { op := 1, port := 15, dl := some 0 }
    let m : Msg := { slot := 0, words := 1, kind := 0 }
    let p (ms : List Msg) : TPort := { mode := 1, depthLog := 2, msgs := ms, handle := 5 }
    let s := thAt 2 (p []) { block := some b }
    let z := thAt 2 (p []) { timers := [(3, 15, 0, false)] }
    thState s 31 63 = 2 ∧ (thGet s 31 63).block = some b ∧ chTry s 31 63 b = none ∧ 0 ≤ nowNs s ∧ (chTry (thAt 2 (p [m]) { block := some b }) 31 63 b).isSome = true ∧
    aget (thGet z 31 63).fired 3 = none ∧ aget (thGet z 31 63).timers 3 = some (15, 0, false) ∧ (tport z 31 1023).mode = 1 ∧
    (postMsg (thUpd z 31 63 (fun y => { y with timers := adel y.timers 3 })) 5 [0] 3 0 false).isSome = true := by decide +kernel

theorem wit_ThreadCommandsComplete_1 :
    let s (st : Nat) := wrN (thAt st { mode := 1, depthLog := 2 } {}) Reg.GL_BOOT_STAGE 5
    let z := wrN (s 0) (thR Reg.TH_WAKE_PORT 31 63) 15
    Passes (s 1) .action (thR Reg.TH_CTL 31 63) false ∧ thState (plainWrite (s 1) (thR Reg.TH_CTL 31 63) 0xFF08 1) 31 63 = 1 ∧ thState (plainWrite (s 2) (thR Reg.TH_CTL 31 63) 0xFF08 1) 31 63 = 2 ∧
    thState (plainWrite (s 3) (thR Reg.TH_CTL 31 63) 0xFF08 2) 31 63 = 3 ∧ thDbg (plainWrite (s 3) (thR Reg.TH_CTL 31 63) 0xFF08 2) 31 63 = false ∧
    (thGet (plainWrite (s 3) (thR Reg.TH_CTL 31 63) 0xFF08 2) 31 63).block = none ∧ (thGet (plainWrite (s 2) (thR Reg.TH_CTL 31 63) 0xFF08 16) 31 63).block = none ∧ rbit 16 4 = true ∧ rbit 16 0 = false ∧ rbit 16 1 = false ∧ rbit 16 2 = false ∧
    Passes z .action (thR Reg.TH_WAKE_HI 31 63) false ∧ (tport (wr (loCommit z .action (thR Reg.TH_WAKE_LO 31 63)) (thR Reg.TH_WAKE_HI 31 63) 0) 31 1023).mode = 1 ∧
    rdF (wr (loCommit z .action (thR Reg.TH_WAKE_LO 31 63)) (thR Reg.TH_WAKE_HI 31 63) 0) (thR Reg.TH_WAKE_PORT 31 63) 0 4 = 15 ∧
    tportRoom (tport (wr (loCommit z .action (thR Reg.TH_WAKE_LO 31 63)) (thR Reg.TH_WAKE_HI 31 63) 0) 31 1023) = true := by decide +kernel
theorem wit_ThreadCommandsComplete_2 :
    let s := wrN (thAt 0 {} {}) Reg.GL_BOOT_STAGE 5
    let z := wrN (wrN s (tilR Reg.TIL_PORT_SEL 31) (15 + 63 * 16)) (Reg.TIL_PORT_CFG 3 7 0) (1 + 256 * 12)
    (∀ k < 5, Passes s .action (thR Reg.TH_PC_LO 31 63 + 4 * k) false) ∧ thState s 31 63 = 0 ∧ Passes s .action (thR Reg.TH_GROUP 31 63) false ∧ Passes s .action (tilR Reg.TIL_PORT_SEL 31) false ∧
    Passes z .action (tilR Reg.TIL_PORT_CMD 31) false ∧ rbit 1 2 = false ∧ rbit 1 0 = true ∧ portKey z 31 = 1023 ∧ (tport z 31 1023).msgs = [] ∧ (tport z 31 1023).resv = 0 ∧ (tport z 31 1023).opened = false ∧
    rdF z (Reg.TIL_PORT_CFG 3 7 0) 0 2 = 1 ∧ rdF z (Reg.TIL_PORT_CFG 3 7 0) 8 4 = 12 ∧ rdF z (Reg.TIL_PORT_CFG 3 7 1) 0 20 % 64 = 0 ∧
    rdF z (Reg.TIL_PORT_CFG 3 7 1) 0 20 + 64 * 2 ^ 12 ≤ 0x100000 ∧ rdF s (Reg.TIL_PORT_CFG 3 7 0) 0 2 = 0 := by decide +kernel
/-- Slice 0 may hold channel ports. -/
def portsFree : State := { slices := [(0, { link := none, fnum := 0, pasid := none, page0 := 0, pages := 1, limits := [(2, 1)] })] }
theorem wit_ThreadCommandsComplete_3 : ∃ h u, newPortHandle portsFree = (some h, u) := by
  have h0 : chanUse portsFree 0 = 0 := by decide
  have h1 : sliceLimit portsFree 0 2 = 1 := by decide
  have h2 : idxRange portsFree 0 = (1, 8388608) := by decide
  have h3 : ∀ i, idxUsed portsFree i = false := fun i => rfl
  have h4 : ∀ i, idxForeign portsFree 0 i = false := by intro i; simp [idxForeign, portsFree]
  have h5 : ∃ i u, allocIndex portsFree 0 1 8388608 = (some i, u) := by
    unfold allocIndex
    simp only [h3, h4]
    rw [if_neg (by decide), if_pos (by simp; omega)]
    exact ⟨_, _, rfl⟩
  obtain ⟨i, u, h5⟩ := h5
  unfold newPortHandle
  rw [if_neg (by omega), h2]
  simp only [h5]
  exact ⟨_, _, rfl⟩
theorem wit_ThreadCommandsComplete_4 :
    let r : DmaReq := { words := [1, 0, 0, 5], cap := 0 }
    let s : State := { tils := [(31, { dmaCur := some r, ports := [(1023, { mode := 1, depthLog := 2, handle := 5 })] })] }
    let z : State := { tils := [(31, { dma := [r], faults := [[1]], ports := [(faultKey, { mode := 1, depthLog := 6, handle := 5 })] })] }
    unitState s (16 + 31) = 1 ∧ unitState z (16 + 31) = 1 ∧ (tilGet z 31).dmaCur = none ∧ (tilGet z 31).dma = [r] ∧ (tilGet s 31).dmaCur = some r ∧
    dmaHost r = false ∧ (postMsg (dmaCopy s 31 r {}).1 5 [(dmaCopy s 31 r {}).2.toNat] 2 0 false).isSome = true ∧ (tilGet z 31).faults = [[1]] ∧ (tport z 31 faultKey).mode = 1 ∧
    tportRoom (tport z 31 faultKey) = true ∧ tilHeld z 31 = false := by decide +kernel
theorem wit_ThreadCommandsComplete_5 :
    let b : Block := { op := 2, mask := 0 }
    let s := { wrN (wrN (thAt 2 {} { block := some b }) (thR Reg.TH_GROUP 31 63) 63) (tilR Reg.TIL_SS_QUIET 31) 1 with time := { elapsed := 10 ^ 15 } }
    thState (thAt 1 {} {}) 31 63 = 1 ∧ groupOf s 31 63 = [63] ∧ rdF s (tilR Reg.TIL_SS_QUIET 31) 0 16 ≠ 0 ∧ (tilGet s 31).still.contains 63 = false ∧
    (groupOf s 31 63).all (fun n => stuckIn s 31 n 63 && decide ((thGet s 31 n).since + rdF s (tilR Reg.TIL_SS_QUIET 31) 0 16 * usUnits ≤ s.time.elapsed)) = true := by decide +kernel

theorem wit_DebugCommandsComplete_1 :
    let s := dbgAt 0 {} {}
    ∀ op ∈ [1, 2, 3, 4, 5, 6, 7, 8, 9, 10, 11], DbgReady s .action 31 63 op (BitVec.ofNat 32 (op + 16 * 63)) ∧ thState (plainWrite s (tilR Reg.TIL_DBG_CMD 31) 0x3F0 (BitVec.ofNat 32 (op + 16 * 63))) 31 63 = 0 := by decide +kernel
theorem wit_DebugCommandsComplete_2 :
    let s := dbgAt 8 { mode := 2, opened := true } { regs := [(0x3F, 7)] }
    let z := wrN s (tilR Reg.TIL_DBG_ADDR 31) 0x3F
    thDbg (plainWrite s (tilR Reg.TIL_DBG_CMD 31) 0x3F0 2) 31 63 = false ∧ thDbg (plainWrite (wrF s (thR Reg.TH_STATUS 31 63) 3 1 1) (tilR Reg.TIL_DBG_CMD 31) 0x3F0 2) 31 63 = true ∧
    thState (plainWrite (wrF s (thR Reg.TH_STATUS 31 63) 3 1 1) (tilR Reg.TIL_DBG_CMD 31) 0x3F0 2) 31 63 = 0 ∧
    aget (thGet (plainWrite z (tilR Reg.TIL_DBG_CMD 31) 0x3F0 2) 31 63).regs 0x3F = some 7 ∧ rdN (plainWrite z (tilR Reg.TIL_DBG_CMD 31) 0x3F0 2) (tilR Reg.TIL_DBG_ADDR 31) = 0x3F ∧
    dbgRegOk 0x1FFF = true ∧ (tport (plainWrite z (tilR Reg.TIL_DBG_CMD 31) 0x3F0 2) 31 (16 * 63 + 0x3F % 16)).opened = true ∧
    thAddr (fwBytes s) 31 0xFFFF8 8 = some (scratchBase 31 + 0xFFFF8) := by decide +kernel
theorem wit_DebugCommandsComplete_3 :
    let s := thAt 1 {} { bps := [(3, 64)] }
    thRuns s 31 63 = true ∧ (thGet s 31 63).bps.any (fun e => e.2 == 64) = true ∧ rdF s (tilR Reg.TIL_STATUS 31) 0 1 = 0 ∧ unitState s (16 + 31) = 1 ∧ unitRole s (16 + 31) = 31 ∧
    unitState s (16 + 33) = 2 ∧ rdF s (tilR Reg.TIL_STATUS 33) 0 1 = 0 := by decide +kernel

theorem wit_UnitCommandsComplete_1 :
    let s := { setUnitState (wrN (wrN (wrF {} Reg.OZ_STATUS 0 1 1) Reg.GL_BOOT_STAGE 5) Reg.MS_READMIT_CTL 1) 72 3 with time := { elapsed := 10 ^ 15 } }
    unitValid 72 = true ∧ unitState {} 72 = 2 ∧ unitState {} 8 = 2 ∧ unitState {} 0 = 1 ∧ unitValid 8 = true ∧ rdF s Reg.GL_BOOT_STAGE 0 4 = 5 ∧ agetD s.unit.beats 72 0 + 12 * usUnits ≤ s.time.elapsed ∧
    unitState s 72 = 3 ∧ ozRunning s = true ∧ s.unit.takeovers.any (fun e => e.2.1 == 72) = false ∧ rdF s Reg.MS_READMIT_CTL 0 1 = 1 ∧ rdF s Reg.MS_READMIT_CTL 8 4 = 0 ∧
    rdF (wrN s Reg.MS_READMIT_CTL 0) Reg.MS_READMIT_CTL 0 1 = 0 ∧ unitState (setUnitState s 72 4) 72 = 4 ∧
    unserved (unitUpd (setUnitState s 72 4) (fun x => { x with tests := adel x.tests 72 })) 72 = none := by decide +kernel
theorem wit_UnitCommandsComplete_2 :
    let s : State := { wrN (wrF {} Reg.OZ_STATUS 0 1 1) Reg.GL_BOOT_STAGE 5 with acc := { window := some { opened := 0, owner := .action, block := blockOf Reg.MS_UNIT_CMD } } }
    let v (op u t : Nat) : W32 := BitVec.ofNat 32 (u + 256 * op + 4096 * t)
    let z (s : State) (v : W32) : State := plainWrite (closeWindow s) Reg.MS_UNIT_CMD 0x7F07F v
    let h := wrF (wrF s (tilR Reg.TIL_STATUS 33) 0 1 1) (tilR Reg.TIL_HANDOVER 33) 0 1 1
    Passes s .action Reg.MS_UNIT_CMD true ∧ rbit (v 3 16 49) 25 = false ∧ rfld (v 3 16 49) 8 3 = 3 ∧ rfld (v 3 16 49) 0 7 = 16 ∧ rfld (v 3 16 49) 12 7 = 49 ∧
    unitCause (z s (v 1 72 0)) 1 72 0 = 0 ∧ unitCause (z (setUnitState s 72 3) (v 2 72 0)) 2 72 0 = 0 ∧ unitCause (z (setUnitState s 72 3) (v 4 72 0)) 4 72 0 = 0 ∧
    Passes h .action Reg.MS_UNIT_CMD true ∧ unitCause (z h (v 3 16 49)) 3 16 49 = 0 := by decide +kernel
theorem wit_UnitCommandsComplete_3 :
    let s (k f p : Nat) : State := { unit := { takeovers := [(takeKey k 7, f, p, 0)] } }
    takeOf (s 0 7 8) 0 7 = some (7, 8, 0) ∧ takeOf (s 1 23 48) 1 7 = some (23, 48, 0) ∧ takeOf (s 2 71 71) 2 7 = some (64 + 7, 64 + 7, 0) := by decide +kernel
theorem wit_UnitCommandsComplete_4 :
    let s : State := { unit := { handover := some (16, 49, 0, 0) } }
    let h := wrF (wrF (wrF {} (tilR Reg.TIL_STATUS 33) 0 1 1) (tilR Reg.TIL_HANDOVER 33) 0 1 1) Reg.OZ_STATUS 0 1 1
    let r : State := { h with unit := { h.unit with rolling := [0] }, tils := [(33, { image := 1 })] }
    let spares := (unitsOf 1).filter (fun u => unitState r u == 2 && !spareBusy r u)
    rdF (wrF s (tilR Reg.TIL_HANDOVER 0) 1 1 1) (tilR Reg.TIL_HANDOVER (16 - 16)) 1 1 = 1 ∧ (wrF s (tilR Reg.TIL_HANDOVER 0) 1 1 1).unit.handover = some (16, 49, 0, 0) ∧
    rdF { s with time := { elapsed := 10 ^ 15 } } Reg.MS_HANDOVER_LIMIT 0 16 * msUnits ≤ 10 ^ 15 ∧
    r.unit.rolling = [0] ∧ tillerOf r 0 = some 0 ∧ r.unit.handover = none ∧ ozRunning r = true ∧ 2 ≤ spares.length ∧
    spares.find? (fun u => handoverReady r u && (tilGet r (u - 16)).image == activeSlot r) = some 49 := by decide +kernel

theorem wit_GddrCommandsComplete :
    let s : State := { wrN (wrN {} Reg.GL_BOOT_STAGE 5) (gmReg Reg.GM_STATUS 15) 1 with acc := { window := some { opened := 0, owner := .action, block := blockOf (gmReg Reg.GM_CMD 15) } } }
    let z : State := { unit := { ues := [(15, (List.range 17))] } }
    Passes s .action (gmReg Reg.GM_CMD 15) true ∧ rbit 1 0 = true ∧ rbit 1 1 = false ∧ rbit 2 0 = false ∧ rbit 2 1 = true ∧ gmState (closeWindow s) 15 = 1 ∧ uesRecent z 15 = 17 ∧
    gmState (wrN {} (gmReg Reg.GM_STATUS 15) 2) 15 = 2 ∧ gmState (wrN {} (gmReg Reg.GM_STATUS 15) 2) (gmPair 15) = 0 ∧ gmState {} 15 = 0 := by decide +kernel
theorem wit_GddrCommandsComplete_2 :
    let s := wrN {} (gmReg Reg.GM_STATUS 7) 1
    let u (s : State) : State := unitUpd (raiseLim (bump s (gmReg Reg.GM_UE_CNT 15)) 0x993 0 [(4, 15)]) (fun x => { x with ues := aset x.ues 15 ((raiseLim (bump s (gmReg Reg.GM_UE_CNT 15)) 0x993 0 [(4, 15)]).time.elapsed :: (agetD x.ues 15 []).take 31) })
    gmState s 15 = 0 ∧ gmState (u s) (gmPair 15) ≠ 0 ∧ gmState {} 15 = 0 ∧ gmState (u {}) (gmPair 15) = 0 := by decide +kernel

/-- An event ring of slice 0 in slot 2. -/
def evRing : State := { slices := [(0, { link := none, fnum := 0, pasid := none, page0 := 0, pages := 1 })], ch := { chans := [(2, { ringChan 7 2 with slice := 0 })] } }
theorem wit_TelemetryCommandsComplete_1 :
    let r (route dest : Nat) : EvRec := { source := 0x980, seq := 0, code := 0, time := 0, data := [], route := route, dest := dest }
    let s (e : EvRec) : State := { evRing with ev := { queue := [e] } }
    let h := chanHandle 2 { ringChan 7 2 with slice := 0 }
    (∀ e ∈ [r 0 0, r 1 h, r 1 0], nextRec (s e) = some e ∧ (s e).ev.lost = 0 ∧ logged e = false) ∧ (r 0 0).route.testBit 0 = false ∧ (r 1 h).route.testBit 0 = true ∧
    (chanOf evRing h).any (fun x => x.1 == 2 && x.2.kind == 7 && x.2.slice == 0 && x.2.notes.isEmpty) = true ∧
    (let x := ringFlush 2 evRing 2
     (chanGet x 2).any (fun d => d.state == 1 && decide (ringRoom d > 0) && sliceLive x d.slice) = true) ∧
    isTmRing evRing h = false ∧ chanOf evRing 0 = none ∧ inPort evRing 0 = none := by decide +kernel
theorem wit_TelemetryCommandsComplete_2 :
    let w (n : Nat) : LimWin := { start := 0, count := n, last := [], time := 0 }
    let s (n : Nat) : State := { ev := { wins := [(winKey 0x993 15, w n)] }, time := { elapsed := msUnits } }
    let z := wrN {} Reg.GL_BOOT_STAGE 5
    (∀ n < 2, aget (s n).ev.wins (winKey 0x993 15) = some (w n) ∧ winOver (s n) (w n) = true) ∧
    Passes z .action (Reg.LD_TM_CFG_CTL 15) false ∧ tmRefused z 15 (rfld 3 1 2) = some 1 ∧
    tmRefused (wrN { evRing with ch := { chans := [(2, { ringChan 7 2 with slice := 0, size := 32 })] } } (Reg.LD_TM_CFG_HANDLE 15) (chanHandle 2 { ringChan 7 2 with slice := 0 })) 15 (rfld 3 1 2) = none ∧
    rbit 3 0 = true ∧ rbit 0 0 = false ∧ rdF z Reg.LD_RH_STATUS 0 1 = 0 ∧ rdF (wrN z Reg.LD_RH_STATUS 1) Reg.LD_RH_STATUS 0 1 = 1 ∧ tmBound (wrN z (Reg.LD_TM_CFG_CTL 15) 1) 15 = true ∧
    rdN (wrN z (Reg.LD_TM_CFG_CTL 15) 1) Reg.LD_RH_RING = tmHandle (wrN z (Reg.LD_TM_CFG_CTL 15) 1) 15 := by decide +kernel
theorem wit_TelemetryCommandsComplete_3 :
    let z := wrN {} Reg.GL_BOOT_STAGE 5
    Passes z .action (Reg.STA_TBL_HITARR 8 61) false ∧ tblKind z 8 61 = 0 ∧
    (let y := wrN (wrN z (Reg.STA_TBL_CFG 8 61 0) 1) (Reg.STA_ARR_CFG 8 0 15) 1
     Passes y .action (Reg.STA_TBL_HITARR 8 61) false ∧ tblKind y 8 61 = 1 ∧ arrKind y 8 (tcf y 8 61 0 3 1) (rfld 0x1F 1 4) = 1) := by decide +kernel

theorem wit_UpdateCommandsComplete_1 :
    let z := wrN (wrN ozUp (Reg.OZ_MB_ARG 3) 4096) Reg.OZ_LOG_NEXT 1
    (∀ op ∈ [1, 2, 3, 0x10, 0x11, 0x12, 0x13, 0x14, 0x15], MbReady ozUp .action (BitVec.ofNat 32 op) op) ∧ argOf (mbArgs ozUp) 3 = 0 ∧ rdN ozUp Reg.OZ_LOG_NEXT = 0 ∧
    MbReady z .action 2 2 ∧ argOf (mbArgs z) 3 = 4096 ∧ logOldest z = 0 ∧ min (rdN z Reg.OZ_LOG_NEXT) (argOf (mbArgs z) 2 + argOf (mbArgs z) 3) = 1 ∧
    deferral ozUp = false ∧ ozUp.oz.step = 0 := by decide +kernel
theorem wit_UpdateCommandsComplete_2 :
    let z : State := wrN (wrN { ozUp with oz := { step := 1 } } (Reg.OZ_MB_ARG 3) 1) (Reg.OZ_MB_ARG 2) (slotBytes - 1)
    let y : State := { ozUp with oz := { step := 2 } }
    MbReady z .action 0x11 0x11 ∧ deferral z = false ∧ z.oz.step = 1 ∧ z.oz.route = 0 ∧ 0 < argOf (mbArgs z) 3 ∧ argOf (mbArgs z) 2 + argOf (mbArgs z) 3 ≤ slotBytes ∧
    (mbData z (argAddr (mbArgs z) 0) (argOf (mbArgs z) 3) {}).map (·.2) = some [0] ∧
    (let h := { z with host := { owner := some 15 } }
     MbReady h .action 0x11 0x11 ∧ deferral h = false ∧ (mbData h (argAddr (mbArgs h) 0) (argOf (mbArgs h) 3) { reads := [.ok [7]] }).map (·.2) = some [7]) ∧
    MbReady y .action 0x12 0x12 ∧ MbReady y .action 0x13 0x13 ∧ y.oz.step = 2 ∧ y.oz.route = 0 ∧ deferral y = false ∧ bootPending y = true := by decide +kernel

/-- A running Ozelm in a life-cycle state, owned over host link 15, with the window of its mailbox open. -/
def ozField (lc a0 : Nat) : State :=
  { wrN ozUp (Reg.OZ_MB_ARG 0) a0 with oz := { lc := lc }, host := { owner := some 15 }, acc := { window := some { opened := 0, owner := .action, block := blockOf Reg.OZ_MB_CMD } } }
theorem wit_LifeCycleCommandsComplete_1 :
    (∀ op ∈ [0x20, 0x21, 0x22, 0x23, 0x30, 0x31, 0x32, 0x18], MbReady (ozField 1 2) .action (BitVec.ofNat 32 op) op) ∧ unsteady (ozField 1 2) = false ∧ deferral (ozField 1 2) = false ∧
    (ozField 1 2).oz.lc = 1 ∧ argOf (mbArgs (ozField 1 2)) 0 = 2 ∧ MbReady (ozField 0 1) .action 0x21 0x21 ∧ argOf (mbArgs (ozField 0 1)) 0 = 1 ∧ unsteady (ozField 0 1) = false ∧ (ozField 0 1).oz.lc = 0 ∧
    (∀ n ∈ [97, 264, 4096, 704], (mbData (onHost (closeWindow (ozField 1 2)) 0) 0 n { reads := [.ok [1]] }).map (·.2) = some (fit n [1]) ∧ mayRead (onHost (closeWindow (ozField 1 2)) 0) 0 = true) := by decide +kernel
/-- The bytes of a board configuration record before its CRC. -/
def recHead (rest : List Byte) : List Byte := le 4 0x43425A47 ++ rest
theorem ofLe_le (n x : Nat) : ofLe (le n x) = x % 256 ^ n := by
  induction n generalizing x with
  | zero => simp [le, ofLe, Nat.mod_one]
  | succ n ih =>
    rw [le, ofLe, ih, Nat.pow_succ, Nat.mul_comm (256 ^ n) 256, Nat.mod_mul]
    simp
theorem crcBits_lt (k c : Nat) (h : c < 2 ^ 32) : crcBits 0x82F63B78 k c < 2 ^ 32 := by
  induction k generalizing c with
  | zero => exact h
  | succ k ih =>
    rw [crcBits]
    refine ih _ ?_
    split
    · exact Nat.xor_lt_two_pow (by omega) (by decide)
    · omega
theorem crc32c_lt (bs : List Byte) : crc32c bs < 2 ^ 32 := by
  have h : ∀ (bs : List Byte) (c : Nat), c < 2 ^ 32 → crc32cRaw c bs < 2 ^ 32 := by
    intro bs
    induction bs with
    | nil => exact fun c h => h
    | cons b bs ih =>
      intro c h
      refine ih _ (crcBits_lt 8 _ (Nat.xor_lt_two_pow h ?_))
      have := b.isLt
      omega
  exact Nat.xor_lt_two_pow (h bs _ (by decide)) (by decide)
theorem recHead_good (rest : List Byte) (h : rest.length = 0xFF8) : bcrGood (recHead rest ++ le 4 (crc32c (recHead rest))) = true := by
  have hl : ∀ n x, (le n x).length = n := by intro n; induction n <;> simp_all [le]
  have hr : (recHead rest).length = 0xFFC := by rw [recHead, List.length_append, hl, h]
  have e1 : leAt (recHead rest ++ le 4 (crc32c (recHead rest))) 0 4 = 0x43425A47 := by
    unfold leAt slice
    rw [recHead, List.drop_zero, List.append_assoc, List.take_left' (hl _ _)]
    decide
  have e2 : leAt (recHead rest ++ le 4 (crc32c (recHead rest))) 0xFFC 4 = crc32c (recHead rest) := by
    unfold leAt slice
    rw [List.drop_left' hr, List.take_of_length_le (Nat.le_of_eq (hl _ _))]
    dsimp only
    rw [hl, Nat.sub_self, List.replicate_zero, List.append_nil]
    exact (ofLe_le _ _).trans (Nat.mod_eq_of_lt (crc32c_lt _))
  have e3 : fit 0xFFC (recHead rest ++ le 4 (crc32c (recHead rest))) = recHead rest := by
    unfold fit slice
    rw [List.drop_zero, List.take_left' hr]
    dsimp only
    rw [hr, Nat.sub_self, List.replicate_zero, List.append_nil]
  unfold bcrGood
  rw [e1, e2, e3]
  simp only [beq_self_eq_true, Bool.and_self]
theorem wit_LifeCycleCommandsComplete_2 : ∃ bs, bcrGood bs = true := ⟨_, recHead_good (List.replicate 0xFF8 0) (List.length_replicate ..)⟩
theorem wit_LifeCycleCommandsComplete_3 :
    drbgUp (wrF (ozField 1 2) Reg.KS_STATUS 0 1 1) = true ∧ MbReady (wrF (ozField 1 2) Reg.KS_STATUS 0 1 1) .action 0x30 0x30 ∧ spareStair (ozField 0 0) = some 8 ∧ rhRunning (ozField 0 0) = false ∧
    probeMay (ozField 0 0) 5 = true ∧ MbReady (ozField 0 0) .action 0x18 0x18 ∧ (1 : Nat) ≤ nowNs { time := { now := 65536 } } := by decide +kernel

theorem wit_PowerEventsComplete_1 :
    let z : State := { ozUp with oz := { lc := 1, good := true, log := [(1, [7])], todo := 1, left := some 0, begun := [0] }, time := { elapsed := 10 ^ 15 } }
    ozRunning ozUp = true ∧ ozUp.oz.lc ≠ 3 ∧ deferral ozUp = false ∧ ozUp.oz.step = 0 ∧ ownerIface ozUp 1 = true ∧ ownerIface { ozUp with host := { owner := some 15 } } 17 = true ∧
    5 + 3 ≤ fwBytes {} ∧ aget ozUp.oz.dips 6 = none ∧ z.oz.good = true ∧ z.oz.left = some 0 ∧ 100 * usUnits ≤ z.time.elapsed ∧ unsteady z = false ∧
    rdF (wrF z Reg.OZ_STATUS 4 1 1) Reg.OZ_STATUS 4 1 = 1 ∧ z.oz.begun.all (fun t => decide (t + 1000 * msUnits ≤ z.time.elapsed)) = true ∧ ({} : State).oz.good = false ∧
    railCount 6 = 2 ∧ railLow [746, 747] < railWarn 6 ∧ railClear 6 < railLow [760, 760] ∧ railLow [703, 747] < railReset 6 ∧
    railsClear (List.replicate 32 1710) = true ∧ z.oz.restart = none ∧ z.oz.todo ≠ 0 := by decide +kernel
theorem wit_PowerEventsComplete_2 :
    let b : List Byte := List.replicate 0x16 0 ++ [0x5A]
    let z : State := { ozUp with oz := { good := true, bcr := some b, log := [(1, [7])], todo := 1, down := none } }
    let y := wrN z Reg.OZ_LOG_NEXT 2
    bcrPmb z 6 = 0x5A ∧ agetD z.oz.silent 6 0 + 1 ≠ 3 ∧ deferral y = false ∧ ozRunning y = true ∧ y.oz.log.find? (fun e => e.1 == rdN y Reg.OZ_LOG_NEXT - y.oz.todo) = some (1, [7]) ∧
    (rdN y Reg.OZ_LOG_NEXT - y.oz.todo) % 128 ≠ 0 ∧ z.oz.good = true ∧ z.oz.down = none ∧ z.oz.restart = none ∧ z.oz.tripped = false ∧
    rdF (wrF z Reg.GL_BOOT_STAGE 0 4 4) Reg.GL_BOOT_STAGE 0 4 = 4 ∧ ozRunning (wrF z Reg.OZ_STATUS 0 1 0) = false ∧ rdF z Reg.GL_BOOT_STAGE 0 4 = 0 := by decide +kernel
theorem wit_PowerEventsComplete_3 :
    let z : State := wrN { ozUp with oz := { good := true, down := some 0, restart := some (0, 0, 1), dips := [(6, 0, 700)] }, time := { elapsed := 10 ^ 12 } } Reg.OZ_TEMP_HWM 1800
    z.oz.down = some 0 ∧ 10 * msUnits ≤ z.time.elapsed ∧ z.oz.restart = some (0, 0, 1) ∧ z.oz.dips = [(6, 0, 700)] ∧ z.oz.good = true ∧ rdN z Reg.OZ_TEMP_HWM ≠ 0 ∧
    (1760 : Int) ≤ signed 16 (rdF z Reg.OZ_TEMP_HWM 0 16) ∧ thermLevel (rdF z Reg.OZ_STATUS 5 2) 1760 = 3 ∧ rdF z Reg.OZ_STATUS 5 2 = 0 ∧ thermLevel 0 1648 = 2 ∧ thermLevel 0 (-5) = 0 := by decide +kernel
theorem wit_PowerEventsComplete_4 :
    let s : State := { tils := [(31, { ports := [(1023, { mode := 1, depthLog := 2, handle := 5, puntOk := true, pslots := 1 })] })], oz := { mgmt := 5 } }
    s.oz.mgmt ≠ 0 ∧ (punt s 0xF 0 s.oz.mgmt (fit 128 (le 8 (nowNs s))) [1, 2] 0).isSome = true := by decide +kernel

theorem wit_StepKeepsInvariant : Inv (State.reset.push .eventDeliver) ∧ ∃ t, step (State.reset.push .eventDeliver) = .next t :=
  ⟨⟨List.Pairwise.nil, rfl, by decide, rfl⟩, _, rfl⟩

theorem wit_FusesMoveForward :
    let s : State := { ({} : State) with oz := { lc := 2, svn := 5, ownerRevoked := true }, pending := [.powerGoodDeassert] }
    (∃ t, step s = .next t) ∧ s.oz.ownerRevoked = true := ⟨⟨_, rfl⟩, rfl⟩

theorem wit_UnlockWindowIsOne : ({} : State).acc.own = none ∧ Passes {} .action Reg.GL_UNLOCK false ∧ rfld (0x5AE7 : W32) 0 16 = 0x5AE7 ∧ rfld (0x5AE6 : W32) 0 16 ≠ 0x5AE7 := by decide +kernel

theorem wit_ThreadContextGuard :
    let s (st : Nat) := wrN (wrN (thAt st {} {}) Reg.GL_BOOT_STAGE 5) (thR Reg.TH_CAP 31 0) 1
    (∀ k ∈ [1, 3, 4], ∀ st < 4, Passes (s st) .action (thR Reg.TH_PC_LO 31 63 + 4 * k) false ∧ thState (s st) 31 63 = st) ∧
    Passes (s 0) (.thread 31 0) (thR Reg.TH_PC_LO 31 63 + 4 * 4) false ∧ Passes (s 0) (.thread 31 0) (thR Reg.TH_PC_LO 31 0 + 4 * 4) false := by decide +kernel

theorem wit_FenceActs :
    let s : State := { wrN (wrF {} Reg.OZ_STATUS 0 1 1) Reg.GL_BOOT_STAGE 5 with acc := { window := some { opened := 0, owner := .action, block := 3 } } }
    let v (u : Nat) : W32 := BitVec.ofNat 32 (u + 256)
    mayReach s .action Reg.MS_UNIT_CMD = true ∧ stageOk s Reg.MS_UNIT_CMD = true ∧ rfld (v 72) 8 3 = 1 ∧ rbit (v 72) 25 = false ∧ unitValid (rfld (v 72) 0 7) = true ∧ unitValid (rfld (v 8) 0 7) = true ∧
    windowFor s .action 3 = true ∧ unitState s (rfld (v 72) 0 7) = 2 ∧ unitState s (rfld (v 0) 0 7) = 1 ∧ ozRunning s = true ∧ unitState (wrF s (Reg.MS_UNIT_W0 72) 16 3 5) 72 = 5 ∧
    windowFor { s with acc := {} } .action 3 = false := by decide +kernel

theorem wit_AbsentPerstIgnored : linkPresent {} 1 = false ∧ linkPresent {} 0 = true ∧ linkPresent (wrF {} (Reg.HF_FACE_STATUS 3) 0 2 1) 15 = false ∧ linkPresent (wrF {} (Reg.HF_FACE_STATUS 3) 0 2 1) 14 = true ∧ linkPresent {} 16 = false := by decide +kernel

theorem wit_RouterTakesOrLoses :
    let full : EvSt := { queue := List.replicate 4096 { source := 0, seq := 0, code := 0, time := 0, data := [], route := 0, dest := 0 } }
    (7 : Nat) < 8 ∧ (10001 : Int) > 10000 ∧ (-10001 : Int) < -10000 ∧ ({} : State).ev.queue.length < 4096 ∧ 4096 ≤ full.queue.length := by decide +kernel

theorem wit_GuardedNeedsWindow :
    let s : State := wrN {} Reg.GL_BOOT_STAGE 5
    s.acc.own = none ∧ [Reg.GL_RESET_CTL, Reg.MS_UNIT_CMD, gmReg Reg.GM_CMD 15, Reg.KS_ALARM, Reg.OZ_MB_CMD].all (fun off => mayReach s .action off && stageOk s off && !windowFor s .action (blockOf off)) = true ∧
    rbit (1 : W32) 0 = true ∧ rfld (0x100 : W32) 8 3 = 1 ∧ rfld (0x400 : W32) 8 3 = 4 ∧ (rbit (2 : W32) 1 && !rbit (2 : W32) 0) = true ∧ rfld (0x23 : W32) 0 8 = 0x23 := by decide +kernel

theorem wit_DebugWriteBytes :
    let s := dbgAt 0 {} {}
    let u := plainWrite s (tilR Reg.TIL_DBG_CMD 31) 0x3F0 (BitVec.ofNat 32 (7 + 16 * 63))
    let r := dbgAt 1 {} {}
    DbgReady s .action 31 63 7 (BitVec.ofNat 32 (7 + 16 * 63)) ∧ Memory.wf s.mem = true ∧ thState u 31 63 = 0 ∧ (thAddr (fwBytes u) 31 0xFFFFF 8).isSome = true ∧ thAddr (fwBytes u) 31 0x1007F9 8 = none ∧ thAddr (fwBytes u) 31 0x8000000000000000 8 = none ∧
    DbgReady r .action 31 63 7 (BitVec.ofNat 32 (7 + 16 * 63)) ∧ thState (plainWrite r (tilR Reg.TIL_DBG_CMD 31) 0x3F0 (BitVec.ofNat 32 (7 + 16 * 63))) 31 63 ≠ 0 := by decide +kernel

theorem wit_CommitCompletes :
    let s := { wrN {} Reg.GL_BOOT_STAGE 5 with sheaf := { sweeps := [64515] } }
    let z : State := { wr64 {} Reg.LD_SHEAF_AT_LO 4 with sheaf := { pending := true, timed := true, late := true }, time := { now := 10 * 65536 } }
    Passes s .action Reg.LD_SHEAF_CMD false ∧ rbit (1 : W32) 0 = true ∧ rbit (3 : W32) 1 = true ∧ rbit (3 : W32) 3 = false ∧ rbit (3 : W32) 12 = false ∧ rbit (3 : W32) 13 = false ∧ s.sheaf.pending = false ∧
    s.sheaf.sweeps.all (fun o => decide (sub16 (sheafStaged s + 1) o < 1024)) = true ∧ s.sheaf.sweeps ≠ [] ∧ rdF s Reg.LD_SHEAF_DRAIN 16 1 = 0 ∧ rbit (1 : W32) 1 = false ∧
    commitReady { sheaf := { pending := true } } = true ∧ commitLate { sheaf := { pending := true } } = false ∧ commitReady z = true ∧ commitLate z = true := by decide +kernel

theorem wit_CancelAndUnstageComplete :
    let s := wrN {} Reg.GL_BOOT_STAGE 5
    let z := { s with sheaf := { pending := true, timed := true } }
    Passes s .action Reg.LD_SHEAF_CMD false ∧ Passes z .action Reg.LD_SHEAF_CMD false ∧ z.sheaf.pending = true ∧ z.sheaf.timed = true ∧ s.sheaf.pending = false ∧
    rbit (0x1000 : W32) 12 = true ∧ rbit (0x1000 : W32) 13 = false ∧ rbit (0x2000 : W32) 13 = true ∧ rbit (0x2000 : W32) 12 = false ∧ rbit (0x2000 : W32) 0 = false ∧ rbit (0x2000 : W32) 3 = false := by decide +kernel

theorem wit_DrainsComplete :
    let s := wrN {} Reg.LD_SHEAF_DRAIN 0x10007
    let z := { wrN s Reg.LD_SHEAF_LIMIT 1 with time := { elapsed := 1000 * 65536 } }
    draining s = some 7 ∧ oldCount s = 0 ∧ rdF { sheaf := { sweeps := [7] } } Reg.LD_SHEAF_DRAIN 16 1 = 0 ∧ (draining z).isSome = true ∧ rdN z Reg.LD_SHEAF_LIMIT ≠ 0 ∧ z.sheaf.limited = false ∧
    z.sheaf.since + rdN z Reg.LD_SHEAF_LIMIT * 1000 ≤ elNs z ∧ z.land.hall = [] ∧ z.land.entry = [] := by decide +kernel

theorem wit_RehearsalsComplete :
    let s := wrN (wrN (wrN (wrN { ch := { chans := [(7, { ringChan 7 0 with slice := 0 })] } } Reg.GL_BOOT_STAGE 5) Reg.LD_RH_RING 7) (Reg.LD_TM_CFG_CTL 15) 7) (Reg.LD_TM_CFG_HANDLE 15) 7
    let u := plainWrite s Reg.LD_RH_CTL 0xFFFF00FE 1
    Passes s .action Reg.LD_RH_CTL false ∧ rhRunning s = false ∧ spareStair u = some 8 ∧
    (List.range 16).any (fun r => tmBound u r && tmHandle u r == rdN u Reg.LD_RH_RING && tmUse u r == 3) = true ∧ (chanOf u (rdN u Reg.LD_RH_RING)).any (fun c => c.2.slice == 0) = true ∧
    rhRunning (wrN s Reg.LD_RH_STATUS 1) = true ∧ Passes (wrN s Reg.LD_RH_STATUS 1) .action Reg.LD_RH_CTL false := by decide +kernel

theorem wit_ArrayCommandsComplete :
    let s := wrN (wrN {} Reg.GL_BOOT_STAGE 5) (Reg.STA_ARR_CFG 8 1 15) 0x2A805
    Passes s .action (Reg.STA_ARR_CMD 8 1) false ∧ rdF s (Reg.STA_ARR_CMD 8 1) 16 1 = 0 ∧
    (∀ op ∈ [1, 2, 3, 4, 5],
      let v : W32 := BitVec.ofNat 32 (15 + 16 * op)
      let u := plainWrite s (Reg.STA_ARR_CMD 8 1) 0x10F v
      rbit v 17 = false ∧ rbit v 8 = false ∧ rfld v 4 4 = op ∧ arrFail u (cmdTarget u 8) 1 op 15 0 = none ∧
      arrFail (wrF u (Reg.STA_ARR_CMD 8 1) 16 1 1) (cmdTarget u 8) 1 op 15 0 = none ∧ rdF u (Reg.STA_ARR_INDEX 8 1) 0 23 = 0) := by decide +kernel

theorem wit_MeterCommandsComplete :
    let s := wrN (wrN (wrN {} Reg.GL_BOOT_STAGE 5) (Reg.STA_ARR_CFG 7 1 15) 0x1A802) (Reg.STA_MTR_COUNT 7 1) 2
    let v : W32 := 0x200F
    let u := plainWrite s (Reg.STA_MTR_CMD 7 1) 0x1FFF v
    let w := wrF u (Reg.STA_MTR_CMD 7 1) 16 1 1
    Passes s .action (Reg.STA_ARR_CFG 8 1 15) false ∧ arrRefused s 8 1 15 0x2A805 = none ∧ rfld 0x2A805 0 2 ≠ 0 ∧
    Passes s .action (Reg.STA_MTR_CMD 7 1) false ∧ rdF s (Reg.STA_MTR_CMD 7 1) 16 1 = 0 ∧ rbit v 17 = false ∧ rbit v 13 = true ∧ rbit v 12 = false ∧ 15 = rfld v 0 4 ∧
    rdF u (Reg.STA_MTR_COUNT 7 1) 0 24 ≠ 0 ∧ arrKind w (cmdTarget w 7) 1 15 = 2 ∧ rdF u (Reg.STA_MTR_FIRST 7 1) 0 23 + rdF u (Reg.STA_MTR_COUNT 7 1) 0 24 ≤ arrCount w (cmdTarget w 7) 1 15 ∧
    stairOf s 7 = some 7 ∧ arrKind s 7 1 15 = 2 ∧ arrCount s 7 1 15 ≠ 0 := by decide +kernel

theorem wit_MicroLoadsComplete :
    let s := wrN (wrN {} Reg.GL_BOOT_STAGE 5) (Reg.stepPage 8 1 11 + 8) 0x2000
    stepOk 8 1 11 = true ∧ (loadStairs s).any (fun q => ucHeld s q 1) = false ∧ ucHeld s 8 1 = false ∧ rdF s (Reg.stepPage 8 1 11 + 8) 13 1 = 1 ∧
    rdF s (Reg.stepPage 8 1 11 + 8) 11 1 = 0 ∧ s.unit.goldenBad = false ∧ Passes s .action (Reg.stepPage 8 1 11 + 0xC) false ∧ Passes s .action (Reg.stepPage 8 1 11 + 0x10) false ∧
    Passes s .action (Reg.stepPage 8 1 11) false ∧ nanoRefused 1 11 (nanoOf s 8 1 11) = none ∧ rbit 1 0 = true ∧ rbit 1 1 = false ∧ rfld 1 1 2 ≠ 3 ∧
    rbit 2 0 = false ∧ rbit 2 1 = true := by decide +kernel

theorem wit_MicroReadsComplete :
    let s := wrN {} Reg.GL_BOOT_STAGE 5
    stepOk 8 1 11 = true ∧ rdF s (Reg.stepPage 8 1 11 + 8) 11 1 = 0 ∧ Passes s .action (Reg.stepPage 8 1 11 + 0x10) false ∧ rbit (2 : W32) 0 = false ∧ rbit (2 : W32) 1 = true ∧
    unitState s 7 = 1 ∧ unitState s 8 = 2 ∧ unitState (wrF s (Reg.MS_UNIT_W0 8) 16 3 4) 8 = 4 ∧ 511 < (if (1 : Nat) = 0 then 2048 else 512) ∧ 2047 < (if (0 : Nat) = 0 then 2048 else 512) := by decide +kernel

theorem wit_OverflowCommandsComplete :
    let s := wrN {} Reg.GL_BOOT_STAGE 5
    (entOf { ch := { chans := [(3, { ringChan 2 0 with ents := [{ idx := 5, desc := [], hold := true }] })] } } 3 5).any (fun x => x.2.hold) = true ∧
    ((nodeGet { land := { queues := [(7, { nodeReset 0 with pkts := [{ pkt := { id := 4, hdr := [], body := [], md := [] }, pool := 0, copying := true, units := 1 }] })] } } 0 7).pkts.find?
      (fun x => x.pkt.id == 4 && x.copying)).isSome = true ∧
    Passes s .action Reg.LD_OVF_SIZE false ∧ rdN s Reg.LD_OVF_USED = 0 := by decide +kernel

theorem wit_NodeCommandsComplete :
    let s := wrN (wrN (wrN {} Reg.GL_BOOT_STAGE 5) Reg.SC_NODE_SEL (3 * 2 ^ 18 + 47)) (Reg.SC_NODE_CFG 0) 0
    let z := wrN (wrN {} Reg.GL_BOOT_STAGE 5) Reg.SC_NODE_SEL 0x3FFFF
    Passes s .action Reg.SC_NODE_SEL false ∧ selValid (plainWrite s Reg.SC_NODE_SEL 0xFFFFF 0x3FFFF) = true ∧ Passes s .action Reg.SC_NODE_CMD false ∧
    applyCause (wrN (wrN s (Reg.SC_NODE_CFG 4) 0) (Reg.SC_NODE_CFG 6) 0) = 0 ∧ Passes (wrN (wrN s (Reg.SC_NODE_CFG 4) 0) (Reg.SC_NODE_CFG 6) 0) .action Reg.SC_NODE_CMD false ∧
    selType (wrN (wrN s (Reg.SC_NODE_CFG 4) 0) (Reg.SC_NODE_CFG 6) 0) = 3 ∧
    Passes z .action Reg.SC_NODE_CMD false ∧ selType z = 0 ∧ selValid z = true ∧ rbit (1 : W32) 0 = true ∧ rbit (1 : W32) 9 = false ∧ rbit (1 : W32) 1 = false ∧ rbit (1 : W32) 2 = false ∧
    rbit (2 : W32) 0 = false ∧ rbit (2 : W32) 1 = true ∧ rbit (2 : W32) 2 = false ∧ rbit (2 : W32) 9 = false ∧ rbit (4 : W32) 0 = false ∧ rbit (4 : W32) 1 = false ∧ rbit (4 : W32) 2 = true ∧ rbit (4 : W32) 9 = false := by decide +kernel

end Sys2Proof.Tests
end

section
/-! PROOFS. Every command answers a next state and keeps its frame (O37). -/

namespace Sys2Proof.Machine

/-! The commands whose meaning chooses between outcomes: both are a next state. -/

theorem exists_next_ite {c : Prop} [Decidable c] {a b : Host.Outcome State Fault Refusal} (ha : ∃ t, a = .next t) (hb : ∃ t, b = .next t) :
    ∃ t, (if c then a else b) = .next t := by split <;> assumption
theorem execPtmExchange_next (s : State) : ∃ t, execPtmExchange s = .next t := exists_next_ite ⟨_, rfl⟩ ⟨_, rfl⟩
theorem execPtmExchangeDone_next (master : Option Nat) (s : State) : ∃ t, execPtmExchangeDone master s = .next t := by
  cases master with
  | none => exact exists_next_ite ⟨_, rfl⟩ ⟨_, rfl⟩
  | some m => exact exists_next_ite ⟨_, rfl⟩ ⟨_, rfl⟩
theorem execSourceLostTimeout_next (s : State) : ∃ t, execSourceLostTimeout s = .next t :=
  exists_next_ite ⟨_, rfl⟩ (exists_next_ite ⟨_, rfl⟩ ⟨_, rfl⟩)
theorem execPpsOutRise_next (s : State) : ∃ t, execPpsOutRise s = .next t := exists_next_ite ⟨_, rfl⟩ ⟨_, rfl⟩
theorem execPpsOutFall_next (s : State) : ∃ t, execPpsOutFall s = .next t := exists_next_ite ⟨_, rfl⟩ ⟨_, rfl⟩

/-- Every command answers a next state: the meaning of every other command is one by its form. -/
theorem exec_next (c : Instr) (s : State) : ∃ t, exec c s = .next t := by
  cases c with
  | ptmExchange => exact execPtmExchange_next s
  | ptmExchangeDone master => exact execPtmExchangeDone_next master s
  | sourceLostTimeout => exact execSourceLostTimeout_next s
  | ppsOutRise => exact execPpsOutRise_next s
  | ppsOutFall => exact execPpsOutFall_next s
  | _ => exact ⟨_, rfl⟩

theorem touches_pending (c : Instr) : (touches c).contains .pending = false := by
  cases c with
  | _ => rfl

/-- Every command keeps its frame, the form of the memory and of the register file, and the fuses: the frame lemma of its
meaning, command by command. -/
theorem exec_kept : ∀ {c : Instr} {s t : State}, exec c s = .next t → Kept (touches c) s t
  | .registerWrite .., _, _, h => execRegisterWrite_k _ _ _ _ _ _ h
  | .loRegisterRead .., _, _, h => execLoRegisterRead_k _ _ _ h
  | .rcRegisterRead .., _, _, h => execRcRegisterRead_k _ _ _ h
  | .loRegisterWrite .., _, _, h => execLoRegisterWrite_k _ _ _ _ _ h
  | .hiRegisterWrite .., _, _, h => execHiRegisterWrite_k _ _ _ _ _ h
  | .aliasWrite .., _, _, h => execAliasWrite_k _ _ _ _ _ h
  | .glUnlockWrite .., _, _, h => execGlUnlockWrite_k _ _ _ _ h
  | .unlockWindowExpire .., _, _, h => execUnlockWindowExpire_k _ h
  | .indDataRead .., _, _, h => execIndDataRead_k _ _ _ h
  | .indDataWrite .., _, _, h => execIndDataWrite_k _ _ _ _ _ h
  | .indCmdRead .., _, _, h => execIndCmdRead_k _ _ _ _ _ h
  | .indDomainAnswer .., _, _, h => execIndDomainAnswer_k _ _ _ _ h
  | .indOverrun .., _, _, h => execIndOverrun_k _ _ h
  | .indTimeout .., _, _, h => execIndTimeout_k _ _ h
  | .snapshotGo .., _, _, h => execSnapshotGo_k _ _ _ _ h
  | .snapAtFire .., _, _, h => execSnapAtFire_k _ h
  | .warmReset .., _, _, h => execWarmReset_k _ _ _ _ h
  | .ftSrcCtlWrite .., _, _, h => execFtSrcCtlWrite_k _ _ _ _ h
  | .ftPhaseInLoWrite .., _, _, h => execFtPhaseInLoWrite_k _ _ _ _ h
  | .phaseSampleSubmit .., _, _, h => execPhaseSampleSubmit_k _ _ _ _ h
  | .ppsInEdge .., _, _, h => execPpsInEdge_k _ h
  | .ptmExchange .., _, _, h => execPtmExchange_k _ h
  | .ptmExchangeDone .., _, _, h => execPtmExchangeDone_k _ _ h
  | .sourceLostTimeout .., _, _, h => execSourceLostTimeout_k _ h
  | .tclkInFault .., _, _, h => execTclkInFault_k _ _ h
  | .ftStep .., _, _, h => execFtStep_k _ _ _ _ _ h
  | .ractFire .., _, _, h => execRactFire_k _ _ _ h
  | .departureRelease .., _, _, h => execDepartureRelease_k _ _ h
  | .ppsOutRise .., _, _, h => execPpsOutRise_k _ h
  | .ppsOutFall .., _, _, h => execPpsOutFall_k _ h
  | .epochBoundary .., _, _, h => execEpochBoundary_k _ h
  | .ldEpochCtlWrite .., _, _, h => execLdEpochCtlWrite_k _ _ _ _ h
  | .configWrite .., _, _, h => execConfigWrite_k _ _ _ _ _ _ h
  | .busMasterDisable .., _, _, h => execBusMasterDisable_k _ _ _ h
  | .busMasterEnable .., _, _, h => execBusMasterEnable_k _ _ _ h
  | .d3hotEntry .., _, _, h => execD3hotEntry_k _ _ _ h
  | .d3hotExit .., _, _, h => execD3hotExit_k _ _ _ h
  | .functionLevelReset .., _, _, h => execFunctionLevelReset_k _ _ _ h
  | .flrEnd .., _, _, h => execFlrEnd_k _ _ _ h
  | .vfEnableChange .., _, _, h => execVfEnableChange_k _ _ _ _ h
  | .barResize .., _, _, h => execBarResize_k _ _ _ _ _ h
  | .msixTableWrite .., _, _, h => execMsixTableWrite_k _ _ _ _ _ _ _ h
  | .perstAssert .., _, _, h => execPerstAssert_k _ _ h
  | .perstDeassert .., _, _, h => execPerstDeassert_k _ _ h
  | .hotResetReceived .., _, _, h => execHotResetReceived_k _ _ h
  | .hostLinkDown .., _, _, h => execHostLinkDown_k _ _ h
  | .hostLinkUp .., _, _, h => execHostLinkUp_k _ _ _ _ _ h
  | .hostReadCompletion .., _, _, h => execHostReadCompletion_k _ _ _ _ h
  | .completionTimeout .., _, _, h => execCompletionTimeout_k _ _ _ h
  | .tagWaitEnd .., _, _, h => execTagWaitEnd_k _ _ h
  | .peerWindowRequest .., _, _, h => execPeerWindowRequest_k _ _ _ _ _ _ _ h
  | .winSwap .., _, _, h => execWinSwap_k _ _ _ _ _ h
  | .winOldDrained .., _, _, h => execWinOldDrained_k _ _ _ h
  | .fnCfgWrite .., _, _, h => execFnCfgWrite_k _ _ _ _ _ h
  | .ideCheckFail .., _, _, h => execIdeCheckFail_k _ _ _ h
  | .spdmRequest .., _, _, h => execSpdmRequest_k _ _ _ h
  | .rpMergeWrite .., _, _, h => execRpMergeWrite_k _ _ _ _ h
  | .slotControlWrite .., _, _, h => execSlotControlWrite_k _ _ _ _ _ h
  | .slotPerstRelease .., _, _, h => execSlotPerstRelease_k _ _ h
  | .slotPowerDrop .., _, _, h => execSlotPowerDrop_k _ _ h
  | .presenceChange .., _, _, h => execPresenceChange_k _ _ _ h
  | .powerFault .., _, _, h => execPowerFault_k _ _ h
  | .attentionButton .., _, _, h => execAttentionButton_k _ _ h
  | .rpLinkDown .., _, _, h => execRpLinkDown_k _ _ h
  | .rpLinkUp .., _, _, h => execRpLinkUp_k _ _ _ _ h
  | .dcfgRead .., _, _, h => execDcfgRead_k _ _ _ _ _ h
  | .dcfgWrite .., _, _, h => execDcfgWrite_k _ _ _ _ _ h
  | .dcfgAnswer .., _, _, h => execDcfgAnswer_k _ _ _ _ h
  | .driveWriteForward .., _, _, h => execDriveWriteForward_k _ _ _ _ h
  | .driveCompletion .., _, _, h => execDriveCompletion_k _ _ _ _ h
  | .pgModeWrite .., _, _, h => execPgModeWrite_k _ _ _ _ _ h
  | .pgModeChangeDone .., _, _, h => execPgModeChangeDone_k _ _ h
  | .portEnable .., _, _, h => execPortEnable_k _ _ _ _ _ h
  | .portDisable .., _, _, h => execPortDisable_k _ _ _ _ _ h
  | .signalDetect .., _, _, h => execSignalDetect_k _ _ _ _ _ h
  | .trainingComplete .., _, _, h => execTrainingComplete_k _ _ _ _ h
  | .trainingTimeout .., _, _, h => execTrainingTimeout_k _ _ _ h
  | .trainFailRetry .., _, _, h => execTrainFailRetry_k _ _ h
  | .lockChange .., _, _, h => execLockChange_k _ _ _ _ _ h
  | .debounceExpire .., _, _, h => execDebounceExpire_k _ _ h
  | .fecDegradeWindow .., _, _, h => execFecDegradeWindow_k _ _ _ _ _ h
  | .frameReceive .., _, _, h => execFrameReceive_k _ _ _ _ _ _ h
  | .macControlFrame .., _, _, h => execMacControlFrame_k _ _ _ h
  | .pauseTimerExpire .., _, _, h => execPauseTimerExpire_k _ _ h
  | .pfcWatchdog .., _, _, h => execPfcWatchdog_k _ _ _ h
  | .pfcRefresh .., _, _, h => execPfcRefresh_k _ _ h
  | .frameTransmit .., _, _, h => execFrameTransmit_k _ _ h
  | .tsFifoPop .., _, _, h => execTsFifoPop_k _ _ _ h
  | .rclkSquelch .., _, _, h => execRclkSquelch_k _ _ h
  | .rclkResume .., _, _, h => execRclkResume_k _ _ h
  | .doorbell .., _, _, h => execDoorbell_k _ _ _ _ _ h
  | .pidxWrite .., _, _, h => execPidxWrite_k _ _ _ _ _ _ _ h
  | .cidxWrite .., _, _, h => execCidxWrite_k _ _ _ _ _ _ _ h
  | .cqArm .., _, _, h => execCqArm_k _ _ _ _ _ _ _ h
  | .descriptorFetch .., _, _, h => execDescriptorFetch_k _ _ h
  | .descriptorArrive .., _, _, h => execDescriptorArrive_k _ _ h
  | .completionWrite .., _, _, h => execCompletionWrite_k _ _ h
  | .ethTxCompletion .., _, _, h => execEthTxCompletion_k _ _ h
  | .msixModTimer .., _, _, h => execMsixModTimer_k _ _ h
  | .nop .., _, _, h => execNop_k _ _ _ h
  | .queryStatus .., _, _, h => execQueryStatus_k _ _ _ h
  | .createChannel .., _, _, h => execCreateChannel_k _ _ _ h
  | .destroyChannel .., _, _, h => execDestroyChannel_k _ _ _ h
  | .modifyChannel .., _, _, h => execModifyChannel_k _ _ _ h
  | .disableChannel .., _, _, h => execDisableChannel_k _ _ _ h
  | .enableChannel .., _, _, h => execEnableChannel_k _ _ _ h
  | .resetChannel .., _, _, h => execResetChannel_k _ _ _ h
  | .queryChannel .., _, _, h => execQueryChannel_k _ _ _ _ h
  | .aqEnable .., _, _, h => execAqEnable_k _ _ _ _ _ h
  | .aqDisable .., _, _, h => execAqDisable_k _ _ _ _ _ h
  | .slCtlReset .., _, _, h => execSlCtlReset_k _ _ _ _ _ h
  | .createSlice .., _, _, h => execCreateSlice_k _ _ _ h
  | .destroySlice .., _, _, h => execDestroySlice_k _ _ _ h
  | .setQuota .., _, _, h => execSetQuota_k _ _ _ h
  | .queryQuota .., _, _, h => execQueryQuota_k _ _ _ _ h
  | .resetSlice .., _, _, h => execResetSlice_k _ _ _ h
  | .querySlice .., _, _, h => execQuerySlice_k _ _ _ h
  | .sliceResetStart .., _, _, h => execSliceResetStart_k _ _ h
  | .sliceResetEnd .., _, _, h => execSliceResetEnd_k _ _ h
  | .backgroundZero .., _, _, h => execBackgroundZero_k _ _ _ h
  | .logStart .., _, _, h => execLogStart_k _ _ _ h
  | .logFlush .., _, _, h => execLogFlush_k _ _ _ _ h
  | .logStop .., _, _, h => execLogStop_k _ _ _ h
  | .freezeSlice .., _, _, h => execFreezeSlice_k _ _ _ h
  | .freezeComplete .., _, _, h => execFreezeComplete_k _ _ h
  | .freezeTimeout .., _, _, h => execFreezeTimeout_k _ _ h
  | .exportSlice .., _, _, h => execExportSlice_k _ _ _ _ h
  | .importSlice .., _, _, h => execImportSlice_k _ _ _ _ h
  | .thawSlice .., _, _, h => execThawSlice_k _ _ _ h
  | .ingressEntry .., _, _, h => execIngressEntry_k _ _ _ _ h
  | .flightStep .., _, _, h => execFlightStep_k _ _ _ _ _ h
  | .ingressRetire .., _, _, h => execIngressRetire_k _ _ _ h
  | .arrayMarkerRetire .., _, _, h => execArrayMarkerRetire_k _ _ _ h
  | .reentryRelease .., _, _, h => execReentryRelease_k _ _ h
  | .gleanWaitExpire .., _, _, h => execGleanWaitExpire_k _ _ h
  | .gleanAge .., _, _, h => execGleanAge_k _ _ _ h
  | .parseWrite .., _, _, h => execParseWrite_k _ _ _ _ _ h
  | .parseRead .., _, _, h => execParseRead_k _ _ _ _ _ h
  | .tableLookup .., _, _, h => execTableLookup_k _ _ _ _ _ h
  | .tableRead .., _, _, h => execTableRead_k _ _ _ _ _ h
  | .tableInsert .., _, _, h => execTableInsert_k _ _ _ _ _ h
  | .tableUpdate .., _, _, h => execTableUpdate_k _ _ _ _ _ h
  | .tableDelete .., _, _, h => execTableDelete_k _ _ _ _ _ h
  | .tableWrite .., _, _, h => execTableWrite_k _ _ _ _ _ h
  | .tableErase .., _, _, h => execTableErase_k _ _ _ _ _ h
  | .tableIter .., _, _, h => execTableIter_k _ _ _ _ _ h
  | .tableClear .., _, _, h => execTableClear_k _ _ _ _ _ h
  | .tableCommandResume .., _, _, h => execTableCommandResume_k _ _ h
  | .tblCfgApply .., _, _, h => execTblCfgApply_k _ _ _ _ _ _ h
  | .sheafSweep .., _, _, h => execSheafSweep_k _ h
  | .tcamScrub .., _, _, h => execTcamScrub_k _ _ _ _ h
  | .l2Learn .., _, _, h => execL2Learn_k _ _ h
  | .l2AgeingPass .., _, _, h => execL2AgeingPass_k _ _ h
  | .l2LoadComplete .., _, _, h => execL2LoadComplete_k _ _ h
  | .deepFetchStart .., _, _, h => execDeepFetchStart_k _ _ _ _ h
  | .deepFetchComplete .., _, _, h => execDeepFetchComplete_k _ _ _ _ _ h
  | .sheafCommit .., _, _, h => execSheafCommit_k _ _ _ _ h
  | .sheafCommitAt .., _, _, h => execSheafCommitAt_k _ _ _ _ h
  | .sheafCommitEffect .., _, _, h => execSheafCommitEffect_k _ h
  | .sheafCancel .., _, _, h => execSheafCancel_k _ _ _ _ h
  | .sheafUnstage .., _, _, h => execSheafUnstage_k _ _ _ _ h
  | .sheafDrain .., _, _, h => execSheafDrain_k _ h
  | .sheafDrainLimit .., _, _, h => execSheafDrainLimit_k _ h
  | .arrayRead .., _, _, h => execArrayRead_k _ _ _ _ _ _ h
  | .arrayReadSnap .., _, _, h => execArrayReadSnap_k _ _ _ _ _ _ h
  | .arrayWrite .., _, _, h => execArrayWrite_k _ _ _ _ _ _ h
  | .arrayReadClear .., _, _, h => execArrayReadClear_k _ _ _ _ _ _ h
  | .arrayClear .., _, _, h => execArrayClear_k _ _ _ _ _ _ h
  | .arrCfgWrite .., _, _, h => execArrCfgWrite_k _ _ _ _ _ _ _ h
  | .rehearsalStart .., _, _, h => execRehearsalStart_k _ _ _ _ h
  | .rehearsalStop .., _, _, h => execRehearsalStop_k _ _ _ _ h
  | .ucDataWrite .., _, _, h => execUcDataWrite_k _ _ _ _ _ _ _ h
  | .ucDataRead .., _, _, h => execUcDataRead_k _ _ _ _ _ h
  | .writeNw .., _, _, h => execWriteNw_k _ _ _ _ _ _ _ h
  | .readNw .., _, _, h => execReadNw_k _ _ _ _ _ _ _ h
  | .stepCtlWrite .., _, _, h => execStepCtlWrite_k _ _ _ _ _ _ _ h
  | .loadBusyTimeout .., _, _, h => execLoadBusyTimeout_k _ _ _ _ h
  | .ucScrub .., _, _, h => execUcScrub_k _ _ _ _ _ _ _ h
  | .inlineVerifyDone .., _, _, h => execInlineVerifyDone_k _ _ _ h
  | .dispatch .., _, _, h => execDispatch_k _ _ h
  | .egressRetire .., _, _, h => execEgressRetire_k _ _ _ _ h
  | .hostGrainWaitEnd .., _, _, h => execHostGrainWaitEnd_k _ _ _ h
  | .overflowCopyDone .., _, _, h => execOverflowCopyDone_k _ _ _ h
  | .ovfSizeWrite .., _, _, h => execOvfSizeWrite_k _ _ _ _ h
  | .nodeSelWrite .., _, _, h => execNodeSelWrite_k _ _ _ _ h
  | .apply .., _, _, h => execApply_k _ _ _ _ h
  | .flush .., _, _, h => execFlush_k _ _ _ _ h
  | .clrCnt .., _, _, h => execClrCnt_k _ _ _ _ h
  | .meterAssign .., _, _, h => execMeterAssign_k _ _ _ _ _ _ h
  | .meterRefreshPass .., _, _, h => execMeterRefreshPass_k _ _ _ _ h
  | .keyImport .., _, _, h => execKeyImport_k _ _ _ _ h
  | .keyGenerate .., _, _, h => execKeyGenerate_k _ _ _ h
  | .keyErase .., _, _, h => execKeyErase_k _ _ _ h
  | .keyQuery .., _, _, h => execKeyQuery_k _ _ _ h
  | .cctxCreate .., _, _, h => execCctxCreate_k _ _ _ _ h
  | .cctxDestroy .., _, _, h => execCctxDestroy_k _ _ _ h
  | .cctxQuery .., _, _, h => execCctxQuery_k _ _ _ _ h
  | .keyDerived .., _, _, h => execKeyDerived_k _ _ _ _ _ h
  | .laneGo .., _, _, h => execLaneGo_k _ _ _ _ _ h
  | .lookasideComplete .., _, _, h => execLookasideComplete_k _ _ _ h
  | .keyEraseAlarm .., _, _, h => execKeyEraseAlarm_k _ _ h
  | .ksAlarmWrite .., _, _, h => execKsAlarmWrite_k _ _ _ _ _ h
  | .entropyFail .., _, _, h => execEntropyFail_k _ _ h
  | .entropyRecover .., _, _, h => execEntropyRecover_k _ h
  | .qpModify .., _, _, h => execQpModify_k _ _ _ _ h
  | .qpQuery .., _, _, h => execQpQuery_k _ _ _ _ h
  | .regRegion .., _, _, h => execRegRegion_k _ _ _ h
  | .deregRegion .., _, _, h => execDeregRegion_k _ _ _ h
  | .deregComplete .., _, _, h => execDeregComplete_k _ _ h
  | .revokeSlow .., _, _, h => execRevokeSlow_k _ _ h
  | .queryRegion .., _, _, h => execQueryRegion_k _ _ _ _ h
  | .pathSet .., _, _, h => execPathSet_k _ _ _ _ h
  | .pathQuery .., _, _, h => execPathQuery_k _ _ _ _ h
  | .grmtPacketGenerate .., _, _, h => execGrmtPacketGenerate_k _ _ _ _ h
  | .ackDelayTimer .., _, _, h => execAckDelayTimer_k _ _ h
  | .retransmitTimeout .., _, _, h => execRetransmitTimeout_k _ _ h
  | .rnrWaitExpire .., _, _, h => execRnrWaitExpire_k _ _ h
  | .msgTimeout .., _, _, h => execMsgTimeout_k _ _ h
  | .qpFetchComplete .., _, _, h => execQpFetchComplete_k _ _ _ h
  | .qpEvict .., _, _, h => execQpEvict_k _ _ h
  | .qpWritebackDone .., _, _, h => execQpWritebackDone_k _ _ _ h
  | .sqTailDoorbell .., _, _, h => execSqTailDoorbell_k _ _ _ _ _ h
  | .cqHeadDoorbell .., _, _, h => execCqHeadDoorbell_k _ _ _ _ _ h
  | .ccEnable .., _, _, h => execCcEnable_k _ _ _ _ h
  | .ccDisable .., _, _, h => execCcDisable_k _ _ _ _ h
  | .controllerDrainEnd .., _, _, h => execControllerDrainEnd_k _ _ h
  | .ccShutdown .., _, _, h => execCcShutdown_k _ _ _ _ h
  | .deleteIoSubmissionQueue .., _, _, h => execDeleteIoSubmissionQueue_k _ _ _ h
  | .createIoSubmissionQueue .., _, _, h => execCreateIoSubmissionQueue_k _ _ _ h
  | .getLogPage .., _, _, h => execGetLogPage_k _ _ _ _ h
  | .deleteIoCompletionQueue .., _, _, h => execDeleteIoCompletionQueue_k _ _ _ h
  | .createIoCompletionQueue .., _, _, h => execCreateIoCompletionQueue_k _ _ _ h
  | .identify .., _, _, h => execIdentify_k _ _ _ _ h
  | .abort .., _, _, h => execAbort_k _ _ _ _ h
  | .setFeatures .., _, _, h => execSetFeatures_k _ _ _ h
  | .getFeatures .., _, _, h => execGetFeatures_k _ _ _ h
  | .asynchronousEventRequest .., _, _, h => execAsynchronousEventRequest_k _ _ _ h
  | .firmwareImageDownload .., _, _, h => execFirmwareImageDownload_k _ _ _ _ h
  | .firmwareCommit .., _, _, h => execFirmwareCommit_k _ _ _ h
  | .firmwareActivationDone .., _, _, h => execFirmwareActivationDone_k _ _ h
  | .deviceSelfTest .., _, _, h => execDeviceSelfTest_k _ _ _ h
  | .selfTestSegment .., _, _, h => execSelfTestSegment_k _ _ _ h
  | .selfTestResume .., _, _, h => execSelfTestResume_k _ _ h
  | .nvmeFlush .., _, _, h => execNvmeFlush_k _ _ _ _ h
  | .nvmeWrite .., _, _, h => execNvmeWrite_k _ _ _ _ _ _ h
  | .nvmeRead .., _, _, h => execNvmeRead_k _ _ _ _ _ _ h
  | .writeZeroes .., _, _, h => execWriteZeroes_k _ _ _ _ _ _ h
  | .datasetManagement .., _, _, h => execDatasetManagement_k _ _ _ _ _ _ h
  | .backingComplete .., _, _, h => execBackingComplete_k _ _ _ _ h
  | .journalReplay .., _, _, h => execJournalReplay_k _ _ _ _ _ h
  | .poolMemberFail .., _, _, h => execPoolMemberFail_k _ _ _ _ h
  | .poolRebuildDone .., _, _, h => execPoolRebuildDone_k _ _ h
  | .nsNotReady .., _, _, h => execNsNotReady_k _ _ h
  | .nsReady .., _, _, h => execNsReady_k _ _ h
  | .storageCapsule .., _, _, h => execStorageCapsule_k _ _ _ h
  | .ctrlCreate .., _, _, h => execCtrlCreate_k _ _ _ h
  | .ctrlDestroy .., _, _, h => execCtrlDestroy_k _ _ _ h
  | .ctrlQuery .., _, _, h => execCtrlQuery_k _ _ _ _ h
  | .poolCreate .., _, _, h => execPoolCreate_k _ _ _ _ _ h
  | .poolDestroy .., _, _, h => execPoolDestroy_k _ _ _ h
  | .poolRebuild .., _, _, h => execPoolRebuild_k _ _ _ _ h
  | .poolQuery .., _, _, h => execPoolQuery_k _ _ _ h
  | .nsCreate .., _, _, h => execNsCreate_k _ _ _ _ h
  | .nsDestroy .., _, _, h => execNsDestroy_k _ _ _ h
  | .nsAttach .., _, _, h => execNsAttach_k _ _ _ h
  | .nsDetach .., _, _, h => execNsDetach_k _ _ _ h
  | .nsModify .., _, _, h => execNsModify_k _ _ _ h
  | .nsQuery .., _, _, h => execNsQuery_k _ _ _ h
  | .chPut .., _, _, h => execChPut_k _ _ _ _ _ _ h
  | .chRecv .., _, _, h => execChRecv_k _ _ _ _ _ _ _ h
  | .chWait .., _, _, h => execChWait_k _ _ _ _ _ _ _ h
  | .chAbort .., _, _, h => execChAbort_k _ _ _ _ _ _ h
  | .chTimer .., _, _, h => execChTimer_k _ _ _ _ _ _ h
  | .chInfo .., _, _, h => execChInfo_k _ _ _ _ _ _ h
  | .channelUnblock .., _, _, h => execChannelUnblock_k _ _ _ h
  | .channelDeadline .., _, _, h => execChannelDeadline_k _ _ _ h
  | .threadTimerExpire .., _, _, h => execThreadTimerExpire_k _ _ _ _ h
  | .thHalt .., _, _, h => execThHalt_k _ _ _ _ _ _ h
  | .thResume .., _, _, h => execThResume_k _ _ _ _ _ _ h
  | .thReset .., _, _, h => execThReset_k _ _ _ _ _ _ h
  | .thCancel .., _, _, h => execThCancel_k _ _ _ _ _ _ h
  | .thWake .., _, _, h => execThWake_k _ _ _ _ _ _ h
  | .threadContextWrite .., _, _, h => execThreadContextWrite_k _ _ _ _ _ _ _ h
  | .thGroupWrite .., _, _, h => execThGroupWrite_k _ _ _ _ _ _ h
  | .portSelWrite .., _, _, h => execPortSelWrite_k _ _ _ _ _ h
  | .portApply .., _, _, h => execPortApply_k _ _ _ _ _ h
  | .dmaRequest .., _, _, h => execDmaRequest_k _ _ h
  | .dmaComplete .., _, _, h => execDmaComplete_k _ _ _ h
  | .threadFault .., _, _, h => execThreadFault_k _ _ _ _ _ _ _ _ h
  | .faultRecordPost .., _, _, h => execFaultRecordPost_k _ _ h
  | .standstill .., _, _, h => execStandstill_k _ _ _ h
  | .dbgHalt .., _, _, h => execDbgHalt_k _ _ _ _ _ h
  | .dbgResume .., _, _, h => execDbgResume_k _ _ _ _ _ h
  | .dbgStep .., _, _, h => execDbgStep_k _ _ _ _ _ _ h
  | .dbgRdReg .., _, _, h => execDbgRdReg_k _ _ _ _ _ h
  | .dbgWrReg .., _, _, h => execDbgWrReg_k _ _ _ _ _ h
  | .dbgRdMem .., _, _, h => execDbgRdMem_k _ _ _ _ _ _ h
  | .dbgWrMem .., _, _, h => execDbgWrMem_k _ _ _ _ _ _ h
  | .abandon .., _, _, h => execAbandon_k _ _ _ _ _ h
  | .dbgReset .., _, _, h => execDbgReset_k _ _ _ _ _ h
  | .bpSet .., _, _, h => execBpSet_k _ _ _ _ _ h
  | .bpClr .., _, _, h => execBpClr_k _ _ _ _ _ h
  | .breakpointHit .., _, _, h => execBreakpointHit_k _ _ _ _ h
  | .tillerRelease .., _, _, h => execTillerRelease_k _ _ _ h
  | .heartbeat .., _, _, h => execHeartbeat_k _ _ h
  | .heartbeatTimeout .., _, _, h => execHeartbeatTimeout_k _ _ h
  | .machineCheck .., _, _, h => execMachineCheck_k _ _ _ h
  | .takeoverComplete .., _, _, h => execTakeoverComplete_k _ _ _ _ h
  | .fence .., _, _, h => execFence_k _ _ _ _ h
  | .readmit .., _, _, h => execReadmit_k _ _ _ _ h
  | .autoReadmit .., _, _, h => execAutoReadmit_k _ _ h
  | .retire .., _, _, h => execRetire_k _ _ _ _ h
  | .handover .., _, _, h => execHandover_k _ _ _ _ h
  | .handoverEnd .., _, _, h => execHandoverEnd_k _ h
  | .rollingUpdateStep .., _, _, h => execRollingUpdateStep_k _ h
  | .selfTestDone .., _, _, h => execSelfTestDone_k _ _ _ h
  | .gmLose .., _, _, h => execGmLose_k _ _ _ _ _ h
  | .controllerLost .., _, _, h => execControllerLost_k _ _ _ h
  | .gmRetrain .., _, _, h => execGmRetrain_k _ _ _ _ _ _ h
  | .resyncComplete .., _, _, h => execResyncComplete_k _ _ h
  | .guardedReadFix .., _, _, h => execGuardedReadFix_k _ _ h
  | .eventDeliver .., _, _, h => execEventDeliver_k _ h
  | .rateLimitWindow .., _, _, h => execRateLimitWindow_k _ _ _ h
  | .tmRingBind .., _, _, h => execTmRingBind_k _ _ _ _ _ h
  | .hitarrWrite .., _, _, h => execHitarrWrite_k _ _ _ _ _ _ h
  | .info .., _, _, h => execInfo_k _ _ _ _ h
  | .logRead .., _, _, h => execLogRead_k _ _ _ _ _ h
  | .bindMgmt .., _, _, h => execBindMgmt_k _ _ _ _ h
  | .fwBegin .., _, _, h => execFwBegin_k _ _ _ _ h
  | .fwWrite .., _, _, h => execFwWrite_k _ _ _ _ _ h
  | .fwVerify .., _, _, h => execFwVerify_k _ _ _ _ h
  | .fwActivate .., _, _, h => execFwActivate_k _ _ _ _ h
  | .fwCommit .., _, _, h => execFwCommit_k _ _ _ _ h
  | .fwRevert .., _, _, h => execFwRevert_k _ _ _ _ h
  | .stairProbe .., _, _, h => execStairProbe_k _ _ _ _ _ h
  | .ozKeyErase .., _, _, h => execOzKeyErase_k _ _ _ _ h
  | .lcTransition .., _, _, h => execLcTransition_k _ _ _ _ _ h
  | .bcrWrite .., _, _, h => execBcrWrite_k _ _ _ _ _ h
  | .ozRestart .., _, _, h => execOzRestart_k _ _ _ _ h
  | .nonce .., _, _, h => execNonce_k _ _ _ _ h
  | .debugOpen .., _, _, h => execDebugOpen_k _ _ _ _ _ h
  | .debugClose .., _, _, h => execDebugClose_k _ _ _ _ h
  | .debugExpiry .., _, _, h => execDebugExpiry_k _ h
  | .mctpMessage .., _, _, h => execMctpMessage_k _ _ _ h
  | .mgmtFrameReceive .., _, _, h => execMgmtFrameReceive_k _ _ _ h
  | .mgmtFrameSend .., _, _, h => execMgmtFrameSend_k _ _ _ h
  | .pmbusPoll .., _, _, h => execPmbusPoll_k _ _ _ h
  | .supplyDip .., _, _, h => execSupplyDip_k _ _ _ h
  | .supplyClear .., _, _, h => execSupplyClear_k _ _ _ h
  | .throttleRelease .., _, _, h => execThrottleRelease_k _ h
  | .unstableEnd .., _, _, h => execUnstableEnd_k _ h
  | .supplyReset .., _, _, h => execSupplyReset_k _ _ h
  | .supplyResetEnd .., _, _, h => execSupplyResetEnd_k _ _ h
  | .thermalLevel .., _, _, h => execThermalLevel_k _ _ _ h
  | .logMirror .., _, _, h => execLogMirror_k _ h
  | .ozelmFault .., _, _, h => execOzelmFault_k _ _ h
  | .ozelmRestartDone .., _, _, h => execOzelmRestartDone_k _ h
  | .powerGood .., _, _, h => execPowerGood_k _ _ _ _ _ h
  | .powerGoodDeassert .., _, _, h => execPowerGoodDeassert_k _ h
  | .pllLockTimeout .., _, _, h => execPllLockTimeout_k _ h
  | .startupStage .., _, _, h => execStartupStage_k _ _ h
  | .clockMonitorExcursion .., _, _, h => execClockMonitorExcursion_k _ _ _ h
  | .rpErrorMessage .., _, _, h => execRpErrorMessage_k _ _ _ _ h

/-- Settles O37: every command has a next state, and the frame lemma of its meaning holds of it. -/
theorem commandsCompleteInFrame : Obligations.CommandsCompleteInFrame := by
  refine ⟨fun c s => ?_, touches_pending⟩
  obtain ⟨t, ht⟩ := exec_next c s
  exact ⟨t, ht, (exec_kept ht).keeps⟩

end Sys2Proof.Machine
end

section
/-! PROOFS. Register writes (O2): the rows of the register map, the effects behind the checks, and the four commands. -/

namespace Sys2Proof.Machine

/-! Rows of the register map. -/

/-- A register without guard whose 32 bits are all of access code RW; `pair` says which half of a pair it is. -/
def RwWord (r pair : Nat) : Prop :=
  ∃ d, regDef r = some d ∧ d.rw = 0xFFFFFFFF ∧ d.w1c = 0 ∧ d.pair = pair ∧ d.guarded = false

theorem lt_four_cases {k : Nat} (h : k < 4) : k = 0 ∨ k = 1 ∨ k = 2 ∨ k = 3 := by omega
theorem rwWord_scratch {k : Nat} (h : k < 4) : RwWord (Reg.GL_SCRATCH k) 0 := by
  rcases lt_four_cases h with rfl | rfl | rfl | rfl <;> exact ⟨_, rfl, rfl, rfl, rfl, rfl⟩
theorem indReg_scratch {k : Nat} (h : k < 4) : indReg (Reg.GL_SCRATCH k) = false := by
  rcases lt_four_cases h with rfl | rfl | rfl | rfl <;> rfl
theorem glEffect_scratch {k : Nat} (h : k < 4) (s : State) (req : Requester) (v : W32) : glEffect s req (Reg.GL_SCRATCH k) v = regStore s (Reg.GL_SCRATCH k) v := by
  rcases lt_four_cases h with rfl | rfl | rfl | rfl <;> rfl
theorem scratch_lt {k : Nat} (h : k < 4) : Reg.GL_SCRATCH k < 0x100000 := by unfold Reg.GL_SCRATCH; omega
theorem rwWord_snapMaskHi : RwWord Reg.GL_SNAP_MASK_HI 2 := ⟨_, rfl, rfl, rfl, rfl, rfl⟩
theorem rwWord_ptmOffsetHi : RwWord Reg.FT_PTM_OFFSET_HI 2 := ⟨_, rfl, rfl, rfl, rfl, rfl⟩
theorem rwWord_stepValHi : RwWord Reg.FT_STEP_VAL_HI 2 := ⟨_, rfl, rfl, rfl, rfl, rfl⟩

section
variable {r p : Nat} (h : RwWord r p)
include h

theorem RwWord.isReg : isReg r = true := by
  obtain ⟨d, hd, -⟩ := h
  exact isReg_def hd
theorem RwWord.pairOf : pairOf r = p := by
  obtain ⟨d, hd, -, -, hp, -⟩ := h
  simp [Machine.pairOf, hd, hp]
theorem RwWord.rwFields : rwFields r = 0xFFFFFFFF := by
  obtain ⟨d, hd, hw, -⟩ := h
  simp [Machine.rwFields, hd, hw]
theorem RwWord.unguarded (v : W32) (hm : r ≠ Reg.OZ_MB_CMD) : guardedWrite r v = false := by
  obtain ⟨d, hd, -, -, -, hg⟩ := h
  exact guardedWrite_false v (by simp [hd, hg]) hm
theorem RwWord.regStore (s : State) (v : W32) : regStore s r v = wr s r v := by
  obtain ⟨d, hd, hw, hc, -⟩ := h
  exact regStore_full hd hw hc

end

theorem isReg_of_pairOf {r : Nat} (h : pairOf r ≠ 0) : isReg r = true := by
  cases hd : regDef r with
  | none => simp [pairOf, hd] at h
  | some d => exact isReg_def hd
/-- A bit of a word after a write by its access codes (R3, R63). -/
theorem rd_wrN_mergeWord_testBit (s : State) (r rw w1c : Nat) (v : W32) {k : Nat} (hk : k < 32) :
    (rd (wrN s r (mergeWord (rdN s r) rw w1c v.toNat)) r).toNat.testBit k =
      ((if rw.testBit k then v.toNat.testBit k else (rd s r).toNat.testBit k) && !(v.toNat.testBit k && w1c.testBit k)) := by
  rw [rd_wrN_same, BitVec.toNat_ofNat, Nat.testBit_mod_two_pow, mergeWord_testBit _ _ _ _ _ hk]
  simp [hk, rdN]

/-! The words that LO writes hold (R66). -/

@[simp] theorem accGet_loHold (s : State) (req : Requester) (lo : Nat) (v : W32) : accGet (loHold s req lo v).acc.held req lo = some v := by
  simp [accGet, loHold]
@[simp] theorem accGet_accDel (l : List ((Requester × Nat) × W32)) (req : Requester) (lo : Nat) : accGet (accDel l req lo) req lo = none := by
  simp [accGet, accDel, List.find?_filter]
/-- A held LO value is stored and given up. -/
theorem loCommit_held {s : State} {req : Requester} {lo : Nat} {v : W32} (h : accGet s.acc.held req lo = some v) :
    loCommit s req lo = wr { s with acc := { s.acc with held := accDel s.acc.held req lo } } lo v := by
  simp [loCommit, loTake, h]

/-! What a write that passed the checks does to the registers of this family. -/

/-- A register of SC_ beyond the node commands, of CY_ or of SV_, or GL_SCRATCH: none has an effect of its own. -/
abbrev Effectless (r : Nat) : Prop := blockOf r = 37 ∨ blockOf r = 38 ∨ blockOf r = 41 ∨ ∃ k < 4, r = Reg.GL_SCRATCH k

theorem Effectless.range {r : Nat} (h : Effectless r) : r < 0x2A00000 ∧ r ≠ Reg.FT_STEP_CTL ∧ r ≠ Reg.OZ_MB_CMD := by
  unfold Effectless blockOf Reg.GL_SCRATCH at h
  unfold Reg.FT_STEP_CTL Reg.OZ_MB_CMD
  rcases h with h | h | h | ⟨k, hk, rfl⟩
  · omega
  · omega
  · omega
  · omega

/-- A write of such a register stores by the access codes alone (R3). -/
theorem plainEffect_store {r : Nat} (hp : pairOf r = 0) (hi : indReg r = false)
    (hb : Effectless r) (s : State) (req : Requester) (v : W32) (env : Env) :
    plainEffect s req r v env = regStore s r v := by
  have hr := hb.range.1
  have h1 : ¬ 0x20000000 ≤ r := by omega
  have h2 : ¬ 0x10000000 ≤ r := by omega
  have h3 : ¬ 0x2E20000 ≤ r := by omega
  have hd : deadReg r = false := by simp [deadReg, hp, h3]
  have hh : hiCommit s req r = s := hiCommit_none (by omega)
  rcases hb with hb | hb | hb | ⟨k, hk, rfl⟩
  · have hb' : r / 0x100000 = 37 := hb
    simp [plainEffect, hd, hi, hp, hh, h1, h2, hb']
  · have hb' : r / 0x100000 = 38 := hb
    simp [plainEffect, hd, hi, hp, hh, h1, h2, hb']
  · have hb' : r / 0x100000 = 41 := hb
    simp [plainEffect, hd, hi, hp, hh, h1, h2, hb']
  · have hb' : Reg.GL_SCRATCH k / 0x100000 = 0 := Nat.div_eq_of_lt (scratch_lt hk)
    simp only [plainEffect, hd, hi, hp, hh, h1, h2, hb', glEffect_scratch hk, if_false, Bool.false_eq_true, Nat.zero_ne_one]

/-- A plain write of a LO register is held, where nothing refuses it (R66). -/
theorem plainEffect_lo {s : State} {r : Nat} (hp : pairOf r = 1) (hi : indReg r = false) (hd : deadReg r = false) (hr : r < 0x10000000)
    (ha : r = Reg.GL_SNAP_AT_LO → autoSnap s = false) (req : Requester) (v : W32) (env : Env) : plainEffect s req r v env = loHold s req r v := by
  have h1 : ¬ 0x20000000 ≤ r := by omega
  have h2 : ¬ 0x10000000 ≤ r := by omega
  have h3 : ¬ (r = Reg.GL_SNAP_AT_LO ∧ autoSnap s = true) := fun ⟨e, w⟩ => by simp [ha e] at w
  simp [plainEffect, hd, hi, hp, h1, h2, h3]

/-- The state after a HI write that finds the LO half `lo` held: both halves are stored, and the held one is given up (R66). -/
def pairStored (s : State) (req : Requester) (r : Nat) (lo v : W32) : State :=
  wr (wr { s with acc := { s.acc with held := accDel s.acc.held req (r - 4) } } (r - 4) lo) r v
theorem plainEffect_hi {s : State} {req : Requester} {r : Nat} {lo : W32} (hr : r = Reg.GL_SNAP_MASK_HI ∨ r = Reg.FT_PTM_OFFSET_HI ∨ r = Reg.FT_STEP_VAL_HI)
    (hl : accGet s.acc.held req (r - 4) = some lo) (v : W32) (env : Env) : plainEffect s req r v env = pairStored s req r lo v := by
  have hc : wr (loCommit s req (r - 4)) r v = pairStored s req r lo v := by rw [loCommit_held hl]; rfl
  rw [← hc]
  rcases hr with rfl | rfl | rfl
  · exact rwWord_snapMaskHi.regStore _ v
  · exact rwWord_ptmOffsetHi.regStore _ v
  · exact rwWord_stepValHi.regStore _ v

/-! From the row of an access to its effect. -/

theorem means_waits {s : State} {req : Requester} {off r : Nat} (h : Means s req off r) : indWaits s req = false := by
  obtain ⟨-, -, -, hw⟩ := h
  exact hw
theorem means_access {s : State} {req : Requester} {off r : Nat} (h : Means s req off r) : access s req off = some { reg := r } := by
  obtain ⟨-, -, ha, -⟩ := h
  exact ha

/-- REGISTER_WRITE of a register itself that is no half of a pair is a bus write (R63). -/
theorem exec_registerWrite {s : State} {req : Requester} {off r : Nat} (h : Means s req off r) (hr : isReg r = true) (hp : pairOf r = 0) (hi : indReg r = false)
    (be : Nat) (v : W32) (env : Env) : exec (.registerWrite req off be v env) s = .next (busWith regEffect s req off be v env) := by
  refine congrArg Host.Outcome.next ((inOrder_now (means_waits h)).trans ?_)
  simp [busRow, accIs_means h, hr, hp, hi, busWrite_means h]
/-- LO_REGISTER_WRITE of a LO register itself is a bus write (R66). -/
theorem exec_loRegisterWrite {s : State} {req : Requester} {off r : Nat} (h : Means s req off r) (hp : pairOf r = 1)
    (be : Nat) (v : W32) : exec (.loRegisterWrite req off be v) s = .next (busWith regEffect s req off be v {}) := by
  refine congrArg Host.Outcome.next ((inOrder_now (means_waits h)).trans ?_)
  simp [busRow, accIs_means h, isReg_of_pairOf (r := r) (by omega), hp, busWrite_means h]
/-- HI_REGISTER_WRITE of a HI register itself is a bus write (R66). -/
theorem exec_hiRegisterWrite {s : State} {req : Requester} {off r : Nat} (h : Means s req off r) (hp : pairOf r = 2)
    (be : Nat) (v : W32) : exec (.hiRegisterWrite req off be v) s = .next (busWith regEffect s req off be v {}) := by
  refine congrArg Host.Outcome.next ((inOrder_now (means_waits h)).trans ?_)
  simp [busRow, accIs_means h, isReg_of_pairOf (r := r) (by omega), hp, busWrite_means h]
/-- ALIAS_WRITE of a register is a bus write (R67). -/
theorem exec_aliasWrite {s : State} {req : Requester} {off : Nat} {a : Acc} (hn : nvmeBar s req off = none) (hl : prelOff req off = none) (hw : indWaits s req = false)
    (ha : access s req off = some a) (hr : isReg a.reg = true) (h0 : a.ali ≠ 0) (be : Nat) (v : W32) :
    exec (.aliasWrite req off be v) s = .next (busWith regEffect s req off be v {}) := by
  refine congrArg Host.Outcome.next ((inOrder_now hw).trans ?_)
  simp [busRow, accIs, hn, ha, hr, h0, busWrite, hl]

/-- The effect of a bus write, other than of FT_STEP_CTL, on a register itself. -/
theorem busWith_plain {s : State} {req : Requester} {off r : Nat} {v : W32} {env : Env} (h : Means s req off r) (hr : isReg r = true) (hl : r < 0x20000000)
    (hs : r ≠ Reg.FT_STEP_CTL) (hg : guardedWrite r v = false) (hp : Passes s req (gateOff r off) false) :
    busWith regEffect s req off 15 v env = withOwn s (off % 0x4000000) r (fun u => plainEffect u req r v env) := by
  rw [busWith_open (means_access h) hr hl hs hg hp]
  simp only [regEffect, if_neg hs]

/-- The effect of a bus write at a set, clear or toggle offset of a whole RW word: that of a plain write of the combined bits (R67). -/
theorem busWith_alias {s : State} {req : Requester} {off : Nat} {a : Acc} {v : W32} {env : Env} (ha : access s req off = some a) (h0 : a.ali ≠ 0) (hn : a.snap = false)
    (hw : RwWord a.reg 0) (hi : indReg a.reg = false) (hl : a.reg < 0x100000) (hp : Passes s req (gateOff a.reg off) false) :
    busWith regEffect s req off 15 v env = withOwn s (off % 0x4000000) a.reg
      (fun u => plainEffect u req a.reg (BitVec.ofNat 32 (aliasValue a.ali 0xFFFFFFFF ((regValue u a.reg).toNat &&& 0xFFFFFFFF) v.toNat)) env) := by
  have hl' : ¬ 0x20000000 ≤ a.reg := by omega
  have hs : a.reg ≠ Reg.FT_STEP_CTL := by unfold Reg.FT_STEP_CTL; omega
  have hg : accGuarded a v = false := hw.unguarded _ (by unfold Reg.OZ_MB_CMD; omega)
  have hb : writable a = true := by simp [writable, hw.isReg, hn, hw.rwFields, hi]
  have ho : ∀ u : State, accEffect u req a v env regEffect =
      plainEffect u req a.reg (BitVec.ofNat 32 (aliasValue a.ali 0xFFFFFFFF ((regValue u a.reg).toNat &&& 0xFFFFFFFF) v.toNat)) env := fun u => by
    simp [accEffect, h0, hw.pairOf, hw.rwFields, regEffect, hs]
  simp only [busWith, ha, hb, hl', hs, hg]
  simp only [decide_false, Bool.false_and, Bool.not_true, Bool.false_eq_true, if_false]
  exact withOwn_congr (fun _ => (gate_open (by exact hp)).trans (ho _))

/-- The word `x` with the bits of `v` set (1), cleared (2) or inverted (R67). -/
def aliasWord (a : Nat) (x v : W32) : W32 :=
  match a with
  | 1 => x ||| v
  | 2 => x &&& ~~~v
  | _ => x ^^^ v
theorem aliasValue_full (a : Nat) (x v : W32) : BitVec.ofNat 32 (aliasValue a 0xFFFFFFFF (x.toNat &&& 0xFFFFFFFF) v.toNat) = aliasWord a x v := by
  unfold aliasValue aliasWord
  have ha : ∀ y : W32, y &&& 0xFFFFFFFF#32 = y := fun _ => BitVec.and_allOnes
  have hx : ∀ y : W32, 0xFFFFFFFF#32 ^^^ y = ~~~y := fun _ => BitVec.allOnes_xor
  split <;> simp [BitVec.ofNat_and, BitVec.ofNat_or, BitVec.ofNat_xor, ha, hx]

/-- GL_SCRATCH reads as it is stored. -/
theorem regValue_scratch (s : State) {k : Nat} (hk : k < 4) : regValue s (Reg.GL_SCRATCH k) = rd s (Reg.GL_SCRATCH k) := by
  have hr := (rwWord_scratch hk).isReg
  have h0 : (0x60 + 0x4 * k) / 0x100000 = 0 := by omega
  have h1 : ¬ 0x20000000 ≤ 0x60 + 0x4 * k := by omega
  have h2 : ¬ 0x10000000 ≤ 0x60 + 0x4 * k := by omega
  have h3 : 0x60 + 0x4 * k ≠ 0x14 := by omega
  simp [regValue, glValue, hr, h0, h1, h2, h3, rdN]

/-! The four writes. -/

/-- R3, R63. -/
theorem registerWrite_eq {s : State} {req : Requester} {off r : Nat} {d : RegDef} (h : Means s req off r) (hd : regDef r = some d) (hp : d.pair = 0) (hg : d.guarded = false)
    (hi : indReg r = false) (hb : Effectless r) (h0 : d.rw ≠ 0 ∨ d.w1c ≠ 0) (hw : Passes s req (gateOff r off) false) (v : W32) (env : Env) :
    exec (.registerWrite req off 15 v env) s = .next (wrN s r (mergeWord (rdN s r) d.rw d.w1c v.toNat)) := by
  obtain ⟨hl, hs, hm⟩ := hb.range
  have hr : isReg r = true := isReg_def hd
  have hp' : pairOf r = 0 := by simp [pairOf, hd, hp]
  have hg' : guardedWrite r v = false := guardedWrite_false v (by simp [hd, hg]) hm
  have hf : ∀ u, plainEffect u req r v env = wrN u r (mergeWord (rdN u r) d.rw d.w1c v.toNat) := fun u => by
    rw [plainEffect_store hp' hi hb, regStore_def hd h0]
  rw [exec_registerWrite h hr hp' hi, busWith_plain h hr (by omega) hs hg' hw, withOwn_congr (g := fun u => wrN u r (mergeWord (rdN u r) d.rw d.w1c v.toNat)) (fun o => hf _),
    withOwn_comm (fun o => rfl) rfl]

/-- R66: the LO half. -/
theorem loRegisterWrite_eq {s : State} {req : Requester} {off r : Nat} (h : Means s req off r) (hp : pairOf r = 1) (hi : indReg r = false) (hd : deadReg r = false)
    (hl : r < 0x10000000) (ha : r = Reg.GL_SNAP_AT_LO → autoSnap s = false) (hg : (regDef r).map (fun d => d.guarded) = some false)
    (hw : Passes s req (gateOff r off) false) (v : W32) : exec (.loRegisterWrite req off 15 v) s = .next (loHold s req r v) := by
  have hr : isReg r = true := isReg_of_pairOf (by omega)
  have hs : r ≠ Reg.FT_STEP_CTL := fun e => by subst e; exact absurd hp (by decide)
  have hm : r ≠ Reg.OZ_MB_CMD := fun e => by subst e; exact absurd hp (by decide)
  rw [exec_loRegisterWrite h hp, busWith_plain h hr (by omega) hs (guardedWrite_false v hg hm) hw,
    withOwn_congr (g := fun u => loHold u req r v) (fun o => plainEffect_lo hp hi hd hl (by exact ha) req v {}), withOwn_comm (fun o => rfl) rfl]

/-- R66: the HI half. -/
theorem hiRegisterWrite_eq {s : State} {req : Requester} {off r : Nat} {lo : W32} (h : Means s req off r)
    (hr : r = Reg.GL_SNAP_MASK_HI ∨ r = Reg.FT_PTM_OFFSET_HI ∨ r = Reg.FT_STEP_VAL_HI) (hl : accGet s.acc.held req (r - 4) = some lo)
    (hw : Passes s req (gateOff r off) false) (v : W32) : exec (.hiRegisterWrite req off 15 v) s = .next (pairStored s req r lo v) := by
  have hx : RwWord r 2 := by
    rcases hr with rfl | rfl | rfl
    · exact rwWord_snapMaskHi
    · exact rwWord_ptmOffsetHi
    · exact rwWord_stepValHi
  have hn : r < 0x20000000 ∧ r ≠ Reg.FT_STEP_CTL ∧ r ≠ Reg.OZ_MB_CMD := by rcases hr with rfl | rfl | rfl <;> decide
  obtain ⟨h1, h2, h3⟩ := hn
  rw [exec_hiRegisterWrite h hx.pairOf, busWith_plain h hx.isReg h1 h2 (hx.unguarded v h3) hw,
    withOwn_congr (g := fun u => pairStored u req r lo v) (fun o => plainEffect_hi hr (by exact hl) v {}), withOwn_comm (fun o => rfl) rfl]

/-- R67. -/
theorem aliasWrite_eq {s : State} {req : Requester} {off k a : Nat} (hl : prelOff req off = none) (hn : nvmeBar s req off = none) (hi : indWaits s req = false) (hk : k < 4) (h0 : a ≠ 0)
    (ha : access s req off = some { reg := Reg.GL_SCRATCH k, ali := a }) (hw : Passes s req (gateOff (Reg.GL_SCRATCH k) off) false) (v : W32) :
    exec (.aliasWrite req off 15 v) s = .next (wr s (Reg.GL_SCRATCH k) (aliasWord a (rd s (Reg.GL_SCRATCH k)) v)) := by
  have hx := rwWord_scratch hk
  have hi' := indReg_scratch hk
  rw [exec_aliasWrite (a := { reg := Reg.GL_SCRATCH k, ali := a }) hn hl hi ha hx.isReg h0, busWith_alias (a := { reg := Reg.GL_SCRATCH k, ali := a }) ha h0 rfl hx hi' (scratch_lt hk) hw,
    withOwn_congr (g := fun u => wr u (Reg.GL_SCRATCH k) (aliasWord a (rd u (Reg.GL_SCRATCH k)) v)) (fun o => ?_), withOwn_comm (fun o => rfl) rfl]
  rw [plainEffect_store hx.pairOf hi' (.inr (.inr (.inr ⟨k, hk, rfl⟩))), hx.regStore, regValue_scratch _ hk, aliasValue_full]

/-- Settles O2: each of the four writes answers the state that its rule names, and what that state holds is read off. -/
theorem registerWritesComplete : Obligations.RegisterWritesComplete := by
  unfold Obligations.RegisterWritesComplete
  refine ⟨?_, ?_, ?_, ?_⟩
  · intro s req off r v env d h hd hp hg hi hb h0 hw
    exact ⟨_, registerWrite_eq h hd hp hg hi hb h0 hw v env, fun k hk => rd_wrN_mergeWord_testBit s r d.rw d.w1c v hk,
      fun x hx => rd_wrN_ne _ _ hx, (wrN_k _ _ _).keeps⟩
  · intro s req off r v h hp hi hd hl ha hg hw
    exact ⟨_, loRegisterWrite_eq h hp hi hd hl ha hg hw v, accGet_loHold s req r v, (loHold_k _ _ _ _).keeps⟩
  · intro s req off r v lo h hr hl hw
    have hn : r - 4 ≠ r := by rcases hr with rfl | rfl | rfl <;> decide
    refine ⟨_, hiRegisterWrite_eq h hr hl hw v, ?_, rd_wr_same _ _ _, accGet_accDel _ _ _, fun x hx hx' => ?_, ?_⟩
    · exact (rd_wr_ne _ _ hn).trans (rd_wr_same _ _ _)
    · exact (rd_wr_ne _ _ hx).trans (rd_wr_ne _ _ hx')
    · exact ((Keeps.refl.set_acc rfl).set_regs rfl).set_regs rfl
  · intro s req off k a v hl hn hi hk h0 ha hw
    exact ⟨_, aliasWrite_eq hl hn hi hk h0 ha hw v, rd_wr_same _ _ _, fun x hx => rd_wr_ne _ _ hx, (wr_k _ _ _).keeps⟩

end Sys2Proof.Machine
end

section
/-! PROOFS. The state after reset (O36). -/

namespace Sys2Proof.Machine

theorem inv_reset : Inv State.reset := ⟨List.Pairwise.nil, rfl, by decide, rfl⟩

/-- After reset word 0 of a unit's entry in the admission table is the one of its kind and place (R578). -/
theorem rdF_unitWord_reset {u : Nat} (h : u < 80) (lo w : Nat) : rdF State.reset (Reg.MS_UNIT_W0 u) lo w = fld (unitReset u % 2 ^ 32) lo w := by
  have hr : regReset (Reg.MS_UNIT_W0 u) = BitVec.ofNat 32 (unitReset u) := by
    unfold regReset Reg.MS_UNIT_W0
    rw [if_pos (by omega)]
    congr 2
    omega
  have hd : rd State.reset (Reg.MS_UNIT_W0 u) = BitVec.ofNat 32 (unitReset u) := hr
  rw [rdF, rdN, hd, BitVec.toNat_ofNat]

/-- After reset unit `u` serves role `r` (state 1). -/
theorem serves_reset {u r : Nat} (h : u < 80) (hw : unitReset u = 0x10000 + r * 0x80000) (hr : r < 64) :
    unitState State.reset u = 1 ∧ unitRole State.reset u = r := by
  rw [unitState, unitRole, rdF_unitWord_reset h, rdF_unitWord_reset h, hw]
  simp only [fld, Nat.shiftRight_eq_div_pow]
  omega
/-- After reset unit `u` is a spare (state 2). -/
theorem spare_reset {u : Nat} (h : u < 80) (hw : unitReset u = 0x20000 + 0x3F * 0x80000) : unitState State.reset u = 2 := by
  rw [unitState, rdF_unitWord_reset h, hw]
  rfl

theorem unitReset_stair {u : Nat} (h : u < 8) : unitReset u = 0x10000 + u * 0x80000 := by
  rw [unitReset, if_pos (by omega)]
  exact if_pos h
theorem unitReset_tiller {u : Nat} (h : u < 32) : unitReset (16 + u) = 0x10000 + u * 0x80000 := by
  rw [unitReset, if_neg (by omega), if_pos (by omega), Nat.add_sub_cancel_left]
  exact if_pos h
theorem unitReset_engine {u : Nat} (h : u < 8) : unitReset (64 + u) = 0x10000 + u * 0x80000 := by
  rw [unitReset, if_neg (by omega), if_neg (by omega), Nat.add_sub_cancel_left]
  exact if_pos h

/-- Settles O36: the registers are at their reset values, so each unit's entry is the one that its place gives it. -/
theorem resetMeetsInvariant : Obligations.ResetMeetsInvariant := by
  unfold Obligations.ResetMeetsInvariant
  refine ⟨inv_reset, rfl, fun _ => rfl, fun u h => ?_, spare_reset (by decide) rfl, fun u h => ?_, spare_reset (by decide) rfl, spare_reset (by decide) rfl,
    fun u h => ?_, spare_reset (by decide) rfl⟩
  · exact serves_reset (by omega) (unitReset_stair h) (by omega)
  · exact serves_reset (by omega) (unitReset_tiller h) (by omega)
  · exact serves_reset (by omega) (unitReset_engine h) (by omega)

end Sys2Proof.Machine
end

section
/-! PROOFS. Root ports, slots, drive configuration requests and drive requests (O10): what the updates of a root port leave in its
record and in its configuration words, and the commands over them. -/

namespace Sys2Proof.Machine

/-! The record of a root port. -/

theorem rpGet_host {s t : State} (h : t.host = s.host) (p : Nat) : rpGet t p = rpGet s p := by simp only [rpGet, h]
@[simp] theorem rpGet_rpUpd (s : State) (p : Nat) (f : RootPort → RootPort) : rpGet (rpUpd s p f) p = f (rpGet s p) := by
  simp [rpGet, rpUpd]
@[simp] theorem rpGet_wrN (s : State) (o v p : Nat) : rpGet (wrN s o v) p = rpGet s p := rfl
@[simp] theorem rpGet_wrF (s : State) (o lo w v p : Nat) : rpGet (wrF s o lo w v) p = rpGet s p := rfl
@[simp] theorem rpGet_emit (s : State) (e : Emit) (p : Nat) : rpGet (emit s e) p = rpGet s p := rfl
@[simp] theorem rpGet_drive (s : State) (pin : Pin) (i : Nat) (high : Bool) (p : Nat) : rpGet (drive s pin i high) p = rpGet s p := rfl
@[simp] theorem rpGet_raise (s : State) (src : Nat) (fs : List EvField) (p : Nat) : rpGet (raise s src fs) p = rpGet s p :=
  rpGet_host (raise_k s src fs).keeps.host p
@[simp] theorem rpGet_rpBit (s : State) (p off bit : Nat) (v : Bool) :
    rpGet (rpBit s p off bit v) p = { rpGet s p with cfg := aset (rpGet s p).cfg off (putFld (rpCfg s p off) bit 1 (b2n v)) } := rpGet_rpUpd ..

/-! The word of Slot Control and Slot Status. -/

theorem b2n_testBit_zero (b : Bool) : (b2n b).testBit 0 = b := by cases b <;> rfl
theorem rpCfg_slot (s : State) (p : Nat) :
    rpCfg s p 0x68 = putFld (agetD (rpGet s p).cfg 0x68 (rpReset 0x68)) 22 1 (b2n (rpGet s p).present) := rfl
theorem rpCfg_slot_congr {s t : State} {p : Nat} (h : rpGet t p = rpGet s p) : rpCfg t p 0x68 = rpCfg s p 0x68 := by
  simp only [rpCfg_slot, h]
/-- Bit 22 is the presence of a drive. -/
theorem rpCfg_slot_presence (s : State) (p : Nat) : (rpCfg s p 0x68).testBit 22 = (rpGet s p).present := by
  rw [rpCfg_slot, putFld_testBit, if_pos (by omega)]
  exact b2n_testBit_zero _
/-- Every other bit holds what is written to it. -/
theorem rpCfg_slot_rpBit (s : State) (p : Nat) {bit : Nat} (v : Bool) (h : bit ≠ 22) : (rpCfg (rpBit s p 0x68 bit v) p 0x68).testBit bit = v := by
  rw [rpCfg_slot, putFld_testBit, if_neg (by omega), rpGet_rpBit, agetD_aset_same, putFld_testBit, if_pos (by omega), Nat.sub_self]
  exact b2n_testBit_zero v

theorem rpBit_keeps (s : State) (p off bit : Nat) (v : Bool) : Keeps [.host] s (rpBit s p off bit v) := by
  unfold rpBit rpSet
  exact (rpUpd_k ..).keeps

/-! Merging and slots (R131 to R138). -/

/-- R131: with every port disabled, no code is refused. -/
theorem mergeWrite_disabled {s : State} (h : ∀ p, p < 8 → rdF s (Reg.RP_CTL p) 0 1 = 0) (req : Requester) (v : W32) :
    mergeWrite s req v =
      ((List.range 8).filter (fun p => rpHere s p && !rpHere (wrN s Reg.RP_MERGE (rfld v 0 4)) p)).foldl rpAbsorb (wrN s Reg.RP_MERGE (rfld v 0 4)) := by
  have hg : ∀ g < 2, (List.range 4).all (fun k => rdF s (Reg.RP_CTL (4 * g + k)) 0 1 == 0) = true := fun g hg =>
    List.all_eq_true.mpr fun k hk => beq_iff_eq.mpr (h _ (by have := List.mem_range.mp hk; omega))
  simp only [mergeWrite, hg 0 (by decide), hg 1 (by decide), Bool.or_true, Bool.not_true, Bool.false_eq_true, if_false, Bool.or_self]
theorem exec_rpMergeWrite {s : State} {req : Requester} (hp : Passes s req Reg.RP_MERGE false) (h : ∀ p, p < 8 → rdF s (Reg.RP_CTL p) 0 1 = 0) (v : W32) :
    exec (.rpMergeWrite req 15 v) s = .next
      (((List.range 8).filter (fun p => rpHere s p && !rpHere (wrN s Reg.RP_MERGE (rfld v 0 4)) p)).foldl rpAbsorb (wrN s Reg.RP_MERGE (rfld v 0 4))) :=
  congrArg Host.Outcome.next ((gate_open hp).trans (mergeWrite_disabled h req v))
theorem exec_slotControlWrite {s : State} {req : Requester} {p : Nat} (hh : rpHere s p = true) (hp : Passes s req (0x800068 + 0x10000 * p) false) (v : W32) :
    exec (.slotControlWrite req 15 p v) s = .next (slotWrite s p v.toNat) :=
  congrArg Host.Outcome.next ((if_pos hh).trans (gate_open hp))

theorem rpGet_slotPerst (s : State) (p : Nat) (asserted : Bool) : rpGet (slotPerst s p asserted) p = { rpGet s p with perst := asserted } := by
  simp [slotPerst]
theorem rpGet_slotPower_off (s : State) (p : Nat) : rpGet (slotPower s p false) p = { rpGet s p with power := false, dropping := none, rose := none } := by
  simp [slotPower, powerShow]
/-- Without slot power RP_STATUS shows none. -/
theorem slotPower_off_status (s : State) (p : Nat) : rdF (slotPower s p false) (Reg.RP_STATUS p) 11 1 = 0 := by
  simp [slotPower, powerShow, rdF_wrF_same, b2n]

theorem exec_slotPerstRelease {s : State} {p t : Nat} (hr : (rpGet s p).rose = some t) (ht : t + 100 * msUnits ≤ s.time.elapsed) :
    exec (.slotPerstRelease p) s = .next (slotPerst (rpUpd s p (fun r => { r with rose := none })) p false) := by
  show execSlotPerstRelease p s = _
  simp only [execSlotPerstRelease, hr, if_pos ht]
theorem exec_slotPowerDrop {s : State} {p t : Nat} (hd : (rpGet s p).dropping = some t) (ht : t + 100 * usUnits ≤ s.time.elapsed) :
    exec (.slotPowerDrop p) s = .next (slotPower s p false) := by
  show execSlotPowerDrop p s = _
  simp only [execSlotPowerDrop, hd, if_pos ht]

/-- The state in which a drive has been inserted: RP_STATUS, Presence Detect Changed and the event show it (R136). -/
def slotInserted (s : State) (p : Nat) : State :=
  raise (rpBit (wrF (rpUpd s p (fun r => { r with present := true })) (Reg.RP_STATUS p) 10 1 1) p 0x68 19 true) (rpSrc p 0) [(4, 1)]
theorem exec_presenceChange_insert {s : State} {p : Nat} (hh : rpHere s p = true) (hg : s.oz.good = true) (hn : (rpGet s p).present = false) :
    exec (.presenceChange p true) s = .next (slotInserted s p) := by
  show execPresenceChange p true s = _
  simp [execPresenceChange, hh, hg, hn, slotInserted, b2n]
theorem rpGet_slotInserted_present (s : State) (p : Nat) : (rpGet (slotInserted s p) p).present = true := by simp [slotInserted]
theorem slotInserted_changed (s : State) (p : Nat) : (rpCfg (slotInserted s p) p 0x68).testBit 19 = true := by
  rw [slotInserted, rpCfg_slot_congr (rpGet_raise ..)]
  exact rpCfg_slot_rpBit _ _ _ (by decide)
theorem slotInserted_keeps (s : State) (p : Nat) : Keeps [.regs, .ev, .host] s (slotInserted s p) :=
  (raise_k ..).keeps.by' ((rpBit_keeps ..).by' (((rpUpd_k ..).keeps.weak rfl).set_regs rfl) rfl) rfl

theorem exec_powerFault {s : State} {p : Nat} (hh : rpHere s p = true) (hg : s.oz.good = true) :
    exec (.powerFault p) s = .next (raise (slotCut (bump (rpBit s p 0x68 17 true) (Reg.RP_PWRFLT_CNT p)) p) (rpSrc p 2) []) := by
  show execPowerFault p s = _
  simp [execPowerFault, hh, hg]
theorem exec_attentionButton {s : State} {p : Nat} (hh : rpHere s p = true) (hg : s.oz.good = true) :
    exec (.attentionButton p) s = .next (raise (rpBit s p 0x68 16 true) (rpSrc p 1) []) := by
  show execAttentionButton p s = _
  simp [execAttentionButton, hh, hg]

/-! Links (R132, R139). -/

/-- Showing a link's state leaves RP_STATUS to the three field writes. -/
theorem rd_rpLinkShow (s : State) (p up rate width : Nat) :
    rd (rpLinkShow s p up rate width) (Reg.RP_STATUS p) =
      rd (wrF (wrF (wrF s (Reg.RP_STATUS p) 0 1 up) (Reg.RP_STATUS p) 1 3 rate) (Reg.RP_STATUS p) 4 5 width) (Reg.RP_STATUS p) :=
  raise_rd _ _ _ (by unfold Reg.RP_STATUS Reg.OZ_EV_LOST_CNT; omega)
theorem rpLinkShow_up (s : State) (p up rate width : Nat) : rdF (rpLinkShow s p up rate width) (Reg.RP_STATUS p) 0 1 = up % 2 ^ 1 := by
  rw [rdF_eq (rd_rpLinkShow ..), rdF_wrF_other _ _ _ _ _ _ _ (by decide) (by decide), rdF_wrF_other _ _ _ _ _ _ _ (by decide) (by decide),
    rdF_wrF_same _ _ _ _ _ (by decide)]
theorem rpLinkShow_rate (s : State) (p up rate width : Nat) : rdF (rpLinkShow s p up rate width) (Reg.RP_STATUS p) 1 3 = rate % 2 ^ 3 := by
  rw [rdF_eq (rd_rpLinkShow ..), rdF_wrF_other _ _ _ _ _ _ _ (by decide) (by decide), rdF_wrF_same _ _ _ _ _ (by decide)]
theorem rpLinkShow_width (s : State) (p up rate width : Nat) : rdF (rpLinkShow s p up rate width) (Reg.RP_STATUS p) 4 5 = width % 2 ^ 5 := by
  rw [rdF_eq (rd_rpLinkShow ..), rdF_wrF_same _ _ _ _ _ (by decide)]
/-- Data Link Layer State Changed sets. -/
theorem rpLinkShow_changed (s : State) (p up rate width : Nat) : (rpCfg (rpLinkShow s p up rate width) p 0x68).testBit 24 = true := by
  rw [rpLinkShow, rpCfg_slot_congr (rpGet_raise ..)]
  exact rpCfg_slot_rpBit _ _ _ (by decide)
theorem exec_rpLinkUp {s : State} {p rate width : Nat} (he : rdF s (Reg.RP_CTL p) 0 1 = 1) (hd : rdF s (Reg.RP_STATUS p) 0 1 = 0) (hp : (rpGet s p).power = true)
    (hr : (rpGet s p).perst = false) (hc : (rpGet s p).dpc = false) (h1 : 1 ≤ rate) (h6 : rate ≤ 6) (hw : width ∈ [1, 2, 4, 8, 16]) (hl : width ≤ rpLanes s p) :
    exec (.rpLinkUp p rate width) s = .next (rpLinkShow s p 1 rate width) := by
  refine congrArg Host.Outcome.next (if_neg ?_)
  simp only [Bool.or_eq_true, decide_eq_true_eq, he, hd, hp, hr, hc, hw, decide_true, Bool.not_true, Bool.false_eq_true, or_false]
  omega
theorem exec_rpLinkDown {s : State} {p : Nat} (h8 : p < 8) (hu : rdF s (Reg.RP_STATUS p) 0 1 = 1) :
    exec (.rpLinkDown p) s =
      .next (if dpcEnable (rpLinkShow s p 0 0 0) p ≠ 0 then dpcTrigger (rpLinkShow s p 0 0 0) p 0 0 else rpLinkShow s p 0 0 0) := by
  refine congrArg Host.Outcome.next (if_neg ?_)
  simp only [Bool.or_eq_true, decide_eq_true_eq, hu]
  omega
/-- R143: a correctable error is only logged. -/
theorem exec_rpErrorMessage_correctable {s : State} {p bit : Nat} (h8 : p < 8) (hu : rdF s (Reg.RP_STATUS p) 0 1 = 1) (hb : bit < 32) (hc : (rpGet s p).dpc = false) :
    exec (.rpErrorMessage p bit 2) s = .next (rpAerCor s p bit) := by
  have hg : ¬ (decide (8 ≤ p) || decide (rdF s (Reg.RP_STATUS p) 0 1 = 0) || decide (32 ≤ bit) || decide (2 < 2) || (rpGet s p).dpc) = true := by
    simp only [Bool.or_eq_true, decide_eq_true_eq, hu, hc, Bool.false_eq_true, or_false]
    omega
  exact congrArg Host.Outcome.next ((if_neg hg).trans (if_pos rfl))

/-! Configuration requests to drives (R142). -/

/-- A configuration request that RP_DCFG_ADDR and RP_DCFG_DATA name. -/
def dcfgNamed (s : State) (p : Nat) (write : Bool) : DriveCfg :=
  { write, addr := rdF s (Reg.RP_DCFG_ADDR p) 0 26, data := rdN s (Reg.RP_DCFG_DATA p), since := s.time.elapsed }
/-- The state after a request is sent to the drive of a port: it is outstanding, and BUSY shows. -/
def dcfgSent (s : State) (p : Nat) (d : DriveCfg) : State :=
  emit (wrN (rpUpd s p (fun r => { r with dcfg := some d })) (Reg.RP_DCFG_STATUS p) 1)
    (.drive p (if d.write then "config write" else "config read") d.addr (if d.write then le 4 d.data else []))

theorem dcfgWrite_sent {s : State} {p : Nat} {v : W32} (hn : (rpGet s p).dcfg = none) (hc : (rpGet s p).dpc = false) (hv : rbit v 0 = true ∨ rbit v 1 = true) (req : Requester) :
    dcfgWrite s req p v = dcfgSent s p (dcfgNamed s p (!rbit v 0)) := by
  have hg : (!rbit v 0 && !rbit v 1) = false := by rcases hv with hv | hv <;> simp [hv]
  simp [dcfgWrite, hg, hn, hc, dcfgSent, dcfgNamed]
section
variable {s : State} {req : Requester} {p : Nat} {v : W32} (hh : rpHere s p = true) (hp : Passes s req (Reg.RP_DCFG_CMD p) false) (hn : (rpGet s p).dcfg = none)
  (hc : (rpGet s p).dpc = false)
include hh hp hn hc

theorem exec_dcfgRead (h0 : rbit v 0 = true) : exec (.dcfgRead req 15 p v) s = .next (dcfgSent s p (dcfgNamed s p false)) := by
  show execDcfgRead req 15 p v s = _
  simp only [execDcfgRead, hh, h0, Bool.and_self, if_true, gate_open hp, dcfgWrite_sent hn hc (.inl h0), Bool.not_true]
theorem exec_dcfgWrite (h0 : rbit v 0 = false) (h1 : rbit v 1 = true) : exec (.dcfgWrite req 15 p v) s = .next (dcfgSent s p (dcfgNamed s p true)) := by
  show execDcfgWrite req 15 p v s = _
  simp only [execDcfgWrite, hh, h0, h1, Bool.not_false, Bool.and_self, if_true, gate_open hp, dcfgWrite_sent hn hc (.inr h1)]

end
theorem dcfgSent_busy (s : State) (p : Nat) (d : DriveCfg) : rdN (dcfgSent s p d) (Reg.RP_DCFG_STATUS p) = 1 := rdN_wrN_same ..
theorem rpGet_dcfgSent (s : State) (p : Nat) (d : DriveCfg) : (rpGet (dcfgSent s p d) p).dcfg = some d := by simp [dcfgSent]
theorem dcfgSent_keeps (s : State) (p : Nat) (d : DriveCfg) : Keeps [.regs, .host, .out] s (dcfgSent s p d) :=
  (emit_k ..).keeps.by' (((rpUpd_k ..).keeps.weak rfl).set_regs rfl) rfl

/-- The state after the answer of a drive to request `d`: the result, and of a read the data. -/
def dcfgAnswered (s : State) (p result data : Nat) (d : DriveCfg) : State :=
  let u := wrN (rpUpd s p (fun r => { r with dcfg := none })) (Reg.RP_DCFG_STATUS p) (2 * result)
  if d.write then u else wrN u (Reg.RP_DCFG_DATA p) (if result = 0 then data % 2 ^ 32 else 0xFFFFFFFF)
theorem exec_dcfgAnswer {s : State} {p result : Nat} {d : DriveCfg} (hd : (rpGet s p).dcfg = some d) (hr : result ≤ 3) (data : Nat) :
    exec (.dcfgAnswer p result data) s = .next (dcfgAnswered s p result data d) := by
  show execDcfgAnswer p result data s = _
  have h4 : ¬ 4 < result := by omega
  have h4' : result ≠ 4 := by omega
  simp [execDcfgAnswer, hd, h4, h4', dcfgAnswered]
theorem rpGet_dcfgAnswered (s : State) (p result data : Nat) (d : DriveCfg) : (rpGet (dcfgAnswered s p result data d) p).dcfg = none := by
  unfold dcfgAnswered
  dsimp only
  split <;> simp
theorem dcfgAnswered_status (s : State) (p data : Nat) {result : Nat} (hr : result ≤ 3) (d : DriveCfg) :
    rdN (dcfgAnswered s p result data d) (Reg.RP_DCFG_STATUS p) = 2 * result := by
  have hs : rdN (wrN (rpUpd s p (fun r => { r with dcfg := none })) (Reg.RP_DCFG_STATUS p) (2 * result)) (Reg.RP_DCFG_STATUS p) = 2 * result := by
    rw [rdN_wrN_same]
    omega
  unfold dcfgAnswered
  dsimp only
  split
  · exact hs
  · exact (rdN_wrN_ne _ _ (by unfold Reg.RP_DCFG_STATUS Reg.RP_DCFG_DATA; omega)).trans hs
theorem dcfgAnswered_data (s : State) (p result data : Nat) {d : DriveCfg} (hw : d.write = false) :
    rdN (dcfgAnswered s p result data d) (Reg.RP_DCFG_DATA p) = if result = 0 then data % 2 ^ 32 else 0xFFFFFFFF := by
  simp only [dcfgAnswered, hw, Bool.false_eq_true, if_false, rdN_wrN_same]
  split <;> omega
theorem dcfgAnswered_keeps (s : State) (p result data : Nat) (d : DriveCfg) : Keeps [.regs, .host] s (dcfgAnswered s p result data d) :=
  have hu := ((rpUpd_k ..).keeps.weak rfl).set_regs rfl
  Keeps.ite hu (hu.set_regs rfl)

/-! Drive requests (R21, R140). -/

theorem exec_driveCompletion {s : State} {p id : Nat} {q : DriveReq} (hq : aget (rpGet s p).reqs id = some q) (hd : q.done = false) (hc : (rpGet s p).dpc = false) :
    exec (.driveCompletion p id false) s = .next (rpUpd s p (fun r => { r with reqs := aset r.reqs id { q with done := true } })) := by
  show execDriveCompletion p id false s = _
  simp [execDriveCompletion, hq, hd, hc]

/-- The bytes of a Read's data from `q.got` on go to the host as they come: the namespace is not encrypted and lies on a drive. -/
theorem exec_driveWriteForward {s : State} {p id n : Nat} {bytes : List Byte} {q : DriveReq} {m : SvCmd} {x : Ns} {c : Ctrl} (hq : aget (rpGet s p).reqs id = some q)
    (hm : aget s.sv.cmds id = some m) (hx : cmdNs s m = some (n, x)) (hc : aget s.sv.ctrls m.ctrl = some c) (hd : (rpGet s p).dpc = false) (hs : m.silent = false)
    (hw : q.write = false) (hq' : q.done = false) (hp : m.prps ≠ []) (hcw : ctrlWrites s c = true) (hb : bytes ≠ [])
    (hl : q.got + bytes.length ≤ (m.ranges.headD (0, 0)).2 * nsBlk x) (he : x.enc = false) (hk : x.backing ≠ 0) :
    exec (.driveWriteForward p id bytes) s = .next
      (rpUpd ((prpDrop q.got (prpSpread m.prps (List.replicate q.got 0 ++ bytes))).foldl (fun u w => slWrite u c.slice w.1 (payloadAttr s c.slice false none none) w.2) s) p
        (fun r => { r with reqs := aupd r.reqs id (fun q => { q with got := q.got + bytes.length }) })) := by
  show execDriveWriteForward p id bytes s = _
  have hp' : m.prps.isEmpty = false := by simpa using hp
  have hb' : bytes.isEmpty = false := by simpa using hb
  have hl' : ¬ q.got + bytes.length > (m.ranges.headD (0, 0)).2 * nsBlk x := by omega
  simp only [execDriveWriteForward, hq, hm, hx, hc, hd, hs, hw, hq', hp', hcw, hb', hl', he, hk, Bool.or_false, Bool.not_true, Bool.false_and, decide_false, Bool.false_eq_true, if_false]

/-- Settles O10: each command answers the state that its lemma names, and what that state shows is read off. -/
theorem rootPortCommandsComplete : Obligations.RootPortCommandsComplete := by
  unfold Obligations.RootPortCommandsComplete
  refine ⟨?merge, ?slot, ?perst, ?drop, ?presence, ?signals, ?up, ?down, ?dcfg, ?answer, ?completion, ?forward, ?error⟩
  case merge => exact fun s req v hp h => exec_rpMergeWrite hp h v
  case slot => exact fun s req p v hh hp => exec_slotControlWrite hh hp v
  case perst =>
    intro s p t hr ht
    exact ⟨_, exec_slotPerstRelease hr ht, by rw [rpGet_slotPerst, rpGet_rpUpd], (rpUpd_k ..).keeps.after' (slotPerst_k ..).keeps⟩
  case drop =>
    intro s p t hd ht
    exact ⟨_, exec_slotPowerDrop hd ht, rpGet_slotPower_off s p, slotPower_off_status s p, (slotPower_k ..).keeps⟩
  case presence =>
    intro s p hh hg hn
    exact ⟨_, exec_presenceChange_insert hh hg hn, rpGet_slotInserted_present s p, slotInserted_changed s p,
      (rpCfg_slot_presence _ p).trans (rpGet_slotInserted_present s p), slotInserted_keeps s p⟩
  case signals => exact fun s p hh hg => ⟨exec_powerFault hh hg, exec_attentionButton hh hg⟩
  case up =>
    intro s p rate width he hd hp hr hc h1 h6 hw hl
    have hw32 : width < 32 := by
      simp only [List.mem_cons, List.not_mem_nil, or_false] at hw
      omega
    exact ⟨_, exec_rpLinkUp he hd hp hr hc h1 h6 hw hl, rpLinkShow_up .., (rpLinkShow_rate ..).trans (Nat.mod_eq_of_lt (by omega)),
      (rpLinkShow_width ..).trans (Nat.mod_eq_of_lt hw32), rpLinkShow_changed .., (rpLinkShow_k ..).keeps⟩
  case down => exact fun s p h8 hu => ⟨exec_rpLinkDown h8 hu, rpLinkShow_up .., rpLinkShow_changed ..⟩
  case dcfg =>
    intro s req p v hh hp hn hc
    refine ⟨fun h0 => ?_, fun h0 h1 => ?_⟩
    · exact ⟨_, exec_dcfgRead hh hp hn hc h0, dcfgSent_busy .., rpGet_dcfgSent .., rfl, dcfgSent_keeps ..⟩
    · exact ⟨_, exec_dcfgWrite hh hp hn hc h0 h1, dcfgSent_busy .., rfl, dcfgSent_keeps ..⟩
  case answer =>
    intro s p result data d hd hr
    exact ⟨_, exec_dcfgAnswer hd hr data, rpGet_dcfgAnswered .., dcfgAnswered_status s p data hr d, dcfgAnswered_data s p result data, dcfgAnswered_keeps ..⟩
  case completion =>
    intro s p id q hq hd hc
    exact ⟨_, exec_driveCompletion hq hd hc, by rw [rpGet_rpUpd, aget_aset_same], (rpUpd_k ..).keeps⟩
  case forward =>
    intro s p id n bytes q m x c hq hm hx hc hd hs hw hq' hp hcw hb hl he hk
    exact exec_driveWriteForward hq hm hx hc hd hs hw hq' hp hcw hb hl he hk
  case error => exact fun s p bit h8 hu hb hc => exec_rpErrorMessage_correctable h8 hu hb hc

end Sys2Proof.Machine
end

section
/-! PROOFS. The events of the flights (O16): what each does where its condition holds. -/

namespace Sys2Proof.Machine

/-! Entry and steps (R12, R276, R356). -/

/-- A wire frame that no ring entry waits for is parsed and joins the flight (R12). -/
theorem flightEntry_wire {s : State} {p role fl : Nat} {k : Pkt} {rest : List Pkt} (hr : (entryGet s role fl).replay = []) (hw : (entryGet s role fl).wire = k :: rest)
    (ho : k.origin = none) (mark : Bool) :
    (let u := entrySet s role fl { entryGet s role fl with wire := rest }
     let r := parsePkt u p role k
     let b := profOf p role (mdSrc r.1.md)
     let v := if r.2 then bump u (Reg.STA_PROF_2SLOT_CNT b.1 b.2) else u
     flightEntry s p role fl mark = joinFlight v p role fl (newClimb v p fl { r.1 with stair := p } false) (pktSlots { r.1 with stair := p })) := by
  have ht : ∀ u : State, txBegin u k = (u, some k) := fun u => by simp only [txBegin, ho]
  simp only [flightEntry, hr, hw, ht]
theorem exec_ingressEntry {s : State} {role fl p : Nat} (hf : fl < 2) (hp : stairOf s role = some p) (mark : Bool) :
    exec (.ingressEntry role fl mark) s = .next (flightEntry s p role fl mark) := by
  show execIngressEntry role fl mark s = _
  simp only [execIngressEntry, if_pos hf, hp]

/-- An egress climb that everything ahead has passed runs its step; where the step does not end it, the flight holds what the step made of it. -/
theorem stepLive_egress {s : State} {p seq ecc : Nat} {c : Climb} (hc : (flightGet s p 1).climbs.find? (fun c => c.seq == seq) = some c) (hs : c.step < 12)
    (ha : aheadDone (flightGet s p 1).climbs c = true) :
    (let r := runStep s p p 1 c (viewOf (flightGet s p 1).climbs c)
     let v := if ecc = 0 then r.1 else bump r.1 (Reg.STA_TBL_ECC_CNT p) ecc
     let u := flightUpd v p 1 (fun f => { f with climbs := f.climbs.map (fun x => if x.seq = seq then r.2 else x) })
     let held := ((flightGet u p 1).climbs.filter (fun x => x.marker.isNone && !x.intents.isEmpty)).length
     r.2.gone = c.gone → stepLive s p 1 seq ecc = if rdN u (Reg.STA_RET_BUF_HWM p 1) < held then wrN u (Reg.STA_RET_BUF_HWM p 1) held else u) := by
  intro r v u held hg
  have hl : ¬ (decide (flightLen 1 ≤ c.step) || !aheadDone (flightGet s p 1).climbs c) = true := by
    simp only [Bool.or_eq_true, decide_eq_true_eq, ha, Bool.not_true, Bool.false_eq_true, or_false, Nat.not_le]
    exact hs
  have hr : (if ecc = 0 then r else (bump r.1 (Reg.STA_TBL_ECC_CNT p) ecc, r.2)) = (v, r.2) := by
    simp only [v]
    split <;> rfl
  have hn : ¬ (r.2.gone && !c.gone) = true := by simp [hg]
  unfold stepLive
  simp only [hc]
  rw [if_neg hl]
  rw [hr]
  simp only [Nat.one_ne_zero, decide_false, Bool.false_and, Bool.false_eq_true, if_false, if_neg hn]
  rfl
theorem exec_flightStep_live {s : State} {p : Nat} (hp : p < 9) (hu : unitState s p = 1) (seq ecc : Nat) :
    exec (.flightStep p 1 seq (.live ecc)) s = .next (stepLive s p 1 seq ecc) := by
  show execFlightStep p 1 seq (.live ecc) s = _
  simp [execFlightStep, hp, hu]

/-! Retires (R330, R337). -/

theorem exec_ingressRetire {s : State} {role p : Nat} {c : Climb} {rest : List Climb} (hp : stairOf s role = some p) (hm : c.marker = none)
    (hc : (flightGet s p 0).climbs = c :: rest) (hs : 20 ≤ c.step) : exec (.ingressRetire role false) s = .next (ingressRetire s p role c rest) := by
  show execIngressRetire role false s = _
  simp [execIngressRetire, hp, hc, hm, hs]
theorem exec_egressRetire {s : State} {role p : Nat} {c : Climb} {rest : List Climb} (hp : stairOf s role = some p) (hm : c.marker = none)
    (hc : (flightGet s p 1).climbs = c :: rest) (hs : 12 ≤ c.step) (sts : Byte) : exec (.egressRetire role false sts) s = .next (egressRetire s p role c rest sts) := by
  show execEgressRetire role false sts s = _
  simp [execEgressRetire, hp, hc, hm, hs]
theorem exec_arrayMarkerRetire {s : State} {role fl p n : Nat} {c : Climb} {m : Marker} {rest : List Climb} (hf : fl < 2) (hp : stairOf s role = some p)
    (hc : (flightGet s p fl).climbs = c :: rest) (hn : c.marker = some n) (hs : flightLen fl ≤ c.step) (hm : aget (flightGet s p fl).inside n = some m) :
    (let u := markerAct (wrN (flightUpd s p fl (fun f => { f with climbs := rest, mark := c.seq, inside := adel f.inside n })) (Reg.STA_RET_MARK p fl) c.seq) p fl m c.intents
     exec (.arrayMarkerRetire role fl) s = .next (if m.what = 7 then u else cmdEnd u m.src fl (m.what == 6))) := by
  show execArrayMarkerRetire role fl s = _
  simp only [execArrayMarkerRetire, if_pos hf, hp, markerRetire, hc, hn, if_neg (Nat.not_lt.mpr hs), hm]

/-! Re-entries and the glean table's timers (R261, R262, R333). -/

theorem exec_reentryRelease {s : State} {id : Nat} {x : Parked} (hx : s.land.hall.find? (fun x => x.pkt.id == id) = some x) (hk : keyReady s x.key = true) :
    exec (.reentryRelease id) s = .next (unpark s (fun y => sameKey y.key x.key && y.stair == x.stair) (unitRole s x.stair)) := by
  show execReentryRelease id s = _
  simp only [execReentryRelease, hx, if_pos hk]
theorem exec_gleanWaitExpire {s : State} {id p : Nat} {x : Parked} {key : List Byte} (hx : s.land.hall.find? (fun x => x.pkt.id == id) = some x) (hk : x.key = .glean p key)
    (h0 : rdF s (Reg.STA_GLEAN_CTL p) 16 16 ≠ 0) (ht : x.since + rdF s (Reg.STA_GLEAN_CTL p) 16 16 * usUnits ≤ s.time.elapsed) :
    (let u := raiseLim (bump { s with land := { s.land with hall := s.land.hall.filter (fun y => y ≠ x) } } (Reg.STA_GLEAN_WAIT_EXP_CNT p)) (stairSrc p 3) 0 []
     exec (.gleanWaitExpire id) s = .next (entryUpd u (unitRole u x.stair) x.flight (fun e => { e with again := e.again ++ [{ x.pkt with forced := true, single := true }] }))) := by
  show execGleanWaitExpire id s = _
  simp only [execGleanWaitExpire, hx, hk, h0, ht, ne_eq, not_false_eq_true, decide_true, Bool.and_self, if_true]
theorem exec_gleanAge {s : State} {p slot : Nat} {e : TEntry} (hp : p < 9) (he : aget (entriesOf s p 62) slot = some e) (h0 : rdF s (Reg.STA_GLEAN_CTL p) 0 16 ≠ 0)
    (ha : rdF s (Reg.STA_GLEAN_CTL p) 0 16 ≤ sub32 (bornNow s) (leAt e.data 12 4)) :
    exec (.gleanAge p slot) s = .next (bump (setEntries s p 62 (adel (entriesOf s p 62) slot)) (Reg.STA_GLEAN_AGED_CNT p)) := by
  show execGleanAge p slot s = _
  simp only [execGleanAge, he, hp, h0, ha, ne_eq, not_false_eq_true, decide_true, Bool.and_self, if_true]

/-! Verification, dispatch and derived keys (R398, R411, R446). -/

/-- A packet that is no transport packet and names no context has nothing to verify (R398). -/
theorem verifyPkt_plain {k : Pkt} (hm : cyMode k.md ≠ 1) (hr : rmActs k.md = false) (s : State) (q id : Nat) : verifyPkt s q id k = verified s q id k := by
  simp [verifyPkt, hm, hr]
theorem exec_inlineVerifyDone {s : State} {q id : Nat} {x : QPkt} (hx : (nodeGet s 0 q).pkts.find? (fun x => x.pkt.id == id) = some x) (hu : x.pkt.unverified = true)
    (ha : s.cy.aside.any (fun a => a.flight == 0 && a.queue == q && a.id == id) = false) : exec (.inlineVerifyDone q id) s = .next (verifyPkt s q id x.pkt) := by
  show execInlineVerifyDone q id s = _
  simp only [execInlineVerifyDone, hx, hu, ha, Bool.not_false, Bool.and_self, if_true]
/-- A root dispatches the packet that it keeps, else the head of the queue that it chooses (R410, R411). -/
theorem exec_dispatch {s : State} {root q : Nat} (hr : root < 48) (hq : chooseQueue s root = some q) :
    exec (.dispatch root) s = .next (dispatchFrom s root ((keptQueue s root).getD q)) := by
  show execDispatch root s = _
  cases hk : keptQueue s root <;> simp [execDispatch, hr, hq, hk]
/-- The key that a context derives fills the cache, and what was set aside for the context proceeds (R446). -/
theorem exec_keyDerived {s : State} {p fl ctx : Nat} {qp : Bool} {a : Aside} {c : Cctx} {k : KeySlot}
    (ha : s.cy.aside.find? (fun a => a.stair == p && a.flight == fl && a.qp == qp && a.ctx == ctx) = some a) (hc : ctxGet s qp ctx = some c) (hs : c.state ≠ 2)
    (hk : aget s.cy.slots c.slot = some k) :
    (let u := bump (cacheFill s p (dkCode qp ctx a.dir a.epoch) (derived k.key (labelFor c.label (if a.dir = 0 then c.side else 1 - c.side) a.epoch))) Reg.KS_DERIVE_CNT
     exec (.keyDerived p fl qp ctx) s = .next
      ((u.cy.aside.filter (fun a => a.stair == p && a.flight == fl && a.qp == qp && a.ctx == ctx)).foldl asideGo
        (cyUpd u (fun y => { y with aside := y.aside.filter (fun a => !(a.stair == p && a.flight == fl && a.qp == qp && a.ctx == ctx)) })))) := by
  show execKeyDerived p fl qp ctx s = _
  simp only [execKeyDerived, ha, hc, if_neg hs, hk]

/-- Settles O16: each event, where its condition holds, answers the state that its lemma names. -/
theorem flightEventsComplete : Obligations.FlightEventsComplete := by
  unfold Obligations.FlightEventsComplete
  refine ⟨?entry, ?step, ?retire, ?marker, ?hall, ?age, ?verify, ?dispatch, ?derived⟩
  case entry =>
    rintro s p role fl mark _ k rest hf hp rfl hr hw ho
    exact (exec_ingressEntry hf hp mark).trans (congrArg Host.Outcome.next (flightEntry_wire hr hw ho mark))
  case step =>
    intro s p seq ecc c hp hu hc hs ha r v u held hg
    exact (exec_flightStep_live hp hu seq ecc).trans (congrArg Host.Outcome.next (stepLive_egress hc hs ha hg))
  case retire => exact fun s role p c rest hp hm => ⟨fun hc hs => exec_ingressRetire hp hm hc hs, fun sts hc hs => exec_egressRetire hp hm hc hs sts⟩
  case marker => exact fun s role fl p n c m rest hf hp hc hn hs hm => exec_arrayMarkerRetire hf hp hc hn hs hm
  case hall => exact fun s id x hx => ⟨exec_reentryRelease hx, fun p key hk h0 ht => exec_gleanWaitExpire hx hk h0 ht⟩
  case age => exact fun s p slot e hp he h0 ha => exec_gleanAge hp he h0 ha
  case verify =>
    intro s q id x hx hu ha hm hr
    exact (exec_inlineVerifyDone hx hu ha).trans (congrArg Host.Outcome.next (verifyPkt_plain hm hr s q id))
  case dispatch => exact fun s root q p x hr hq _ _ _ => exec_dispatch hr hq
  case derived => exact fun s p fl ctx qp a c k ha hc hs hk => exec_keyDerived ha hc hs hk

end Sys2Proof.Machine
end

section
/-! PROOFS. The time keeper (O5): what a change of state, a rate, the loss of a source and a sample leave in the registers and in
the time record, and the commands over them. -/

namespace Sys2Proof.Machine

/-! The state of the time keeper and its rate (R38, R58). -/

theorem ftState_eq {s t : State} (h : rd t Reg.FT_STATUS = rd s Reg.FT_STATUS) : ftState t = ftState s := rdF_eq h
theorem ftSrc_eq {s t : State} (h : rd t Reg.FT_SRC_CTL = rd s Reg.FT_SRC_CTL) : ftSrc t = ftSrc s := rdF_eq h
theorem setFtState_rd (s : State) (st : Nat) {x : Nat} (h : x ≠ Reg.FT_STATUS) (h' : x ≠ Reg.OZ_EV_LOST_CNT) : rd (setFtState s st) x = rd s x := by
  unfold setFtState
  dsimp only
  split
  · rfl
  · rw [raise_rd _ _ _ h', rd_wrF_ne _ _ _ _ h]
theorem ftState_setFtState (s : State) {st : Nat} (h : st < 4) : ftState (setFtState s st) = st := by
  unfold setFtState
  dsimp only
  split
  · assumption
  · rw [ftState_eq (raise_rd _ _ _ (by decide)), ftState, rdF_wrF_same _ _ _ _ _ (by decide)]
    exact Nat.mod_eq_of_lt h
@[simp] theorem setFtState_time (s : State) (st : Nat) : (setFtState s st).time = s.time := (setFtState_k s st).keeps.time
@[simp] theorem setRate_time (s : State) (adj : Int) : (setRate s adj).time = { s.time with rate := adj } := rfl
theorem setRate_rd (s : State) (adj : Int) {x : Nat} (h : x ≠ Reg.FT_STATUS) (h' : x ≠ Reg.FT_FREQ_ADJ) : rd (setRate s adj) x = rd s x :=
  (rd_wrF_ne _ _ _ _ h).trans (rd_wrN_ne _ _ h')
/-- A rate shows in CLAMPED, beside STATE. -/
theorem ftState_setRate (s : State) (adj : Int) : ftState (setRate s adj) = ftState s :=
  (rdF_wrF_other (wrN s Reg.FT_FREQ_ADJ (unsign 32 adj)) Reg.FT_STATUS 3 1 _ 0 2 (by decide) (by decide)).trans (rdF_wrN_ne _ _ _ _ (by decide))

/-! Loss of the source (R40, R692). -/

theorem sourceLost_holdover {s : State} (h : ftState s ≠ 3) (h0 : ftSrc s ≠ 0) (cause : Nat) :
    ftState (sourceLost s cause) = 3 ∧ (sourceLost s cause).time = { s.time with rate := s.time.acc } := by
  have hr : ∀ fs, (raise s 0x102 fs).time = s.time := fun fs => (raise_k s 0x102 fs).keeps.time
  simp only [sourceLost, h, h0, decide_false, Bool.or_self, Bool.false_eq_true, if_false]
  exact ⟨(ftState_setRate ..).trans (ftState_setFtState _ (by decide)), by rw [setRate_time, setFtState_time, hr]⟩
theorem ftState_sourceLost {s : State} (h0 : ftSrc s ≠ 0) (cause : Nat) : ftState (sourceLost s cause) = 3 := by
  by_cases h : ftState s = 3
  · simp [sourceLost, h]
  · obtain ⟨hs, -⟩ := sourceLost_holdover h h0 cause
    exact hs
/-- What R692 loses the selected source to at once: TCLK_IN for source 2, the link of FT_SRC_CTL or its PTM for source 3. -/
def sourceOut (s : State) : Bool :=
  ftSrc s = 2 && s.time.tclk ≠ 0 || ftSrc s = 3 && !(linkUp s (rdF s Reg.FT_SRC_CTL 8 4) && ptmEnabled s (rdF s Reg.FT_SRC_CTL 8 4))
theorem sourceCheck_out {s : State} (h : sourceOut s = true) : ftSrc s ≠ 0 ∧ ∃ cause, sourceCheck s = sourceLost s cause := by
  by_cases h2 : ftSrc s = 2
  · have hc : s.time.tclk ≠ 0 := by simpa [sourceOut, h2] using h
    exact ⟨by omega, s.time.tclk, by simp [sourceCheck, h2, hc]⟩
  · have h3 : ftSrc s = 3 := by simp [sourceOut, h2] at h; exact h.1
    refine ⟨by omega, ?_⟩
    by_cases hl : linkUp s (rdF s Reg.FT_SRC_CTL 8 4) = true
    · have hp : ptmEnabled s (rdF s Reg.FT_SRC_CTL 8 4) = false := by simpa [sourceOut, h3, hl] using h
      exact ⟨6, by simp [sourceCheck, ptmCheck, h3, hl, hp]⟩
    · exact ⟨5, by simp [sourceCheck, ptmCheck, h3, hl]⟩
theorem sourceCheck_kept {s : State} (h : sourceOut s = false) : sourceCheck s = s := by
  simp only [sourceOut, Bool.or_eq_false_iff] at h
  obtain ⟨h2, h3⟩ := h
  simp only [sourceCheck, h2, Bool.false_eq_true, if_false, ptmCheck]
  by_cases hs : ftSrc s = 3
  · have hb : linkUp s (rdF s Reg.FT_SRC_CTL 8 4) = true ∧ ptmEnabled s (rdF s Reg.FT_SRC_CTL 8 4) = true := by simpa [hs] using h3
    obtain ⟨hl, hp⟩ := hb
    simp [hl, hp]
  · exact if_pos hs
theorem ftState_sourceCheck (s : State) : ftState (sourceCheck s) = if sourceOut s then 3 else ftState s := by
  cases h : sourceOut s with
  | true =>
    obtain ⟨h0, cause, hc⟩ := sourceCheck_out h
    rw [hc, ftState_sourceLost h0]
    rfl
  | false => rw [sourceCheck_kept h]; rfl
theorem ftSrc_sourceLost (s : State) (cause : Nat) : ftSrc (sourceLost s cause) = ftSrc s := by
  unfold sourceLost
  dsimp only
  split
  · rfl
  · exact ftSrc_eq ((setRate_rd _ _ (by decide) (by decide)).trans ((setFtState_rd _ _ (by decide) (by decide)).trans (raise_rd _ _ _ (by decide))))
theorem ftSrc_sourceCheck (s : State) : ftSrc (sourceCheck s) = ftSrc s := by
  cases h : sourceOut s with
  | true =>
    obtain ⟨-, cause, hc⟩ := sourceCheck_out h
    rw [hc, ftSrc_sourceLost]
  | false => rw [sourceCheck_kept h]

/-! Selecting a source (R56). -/

/-- A field of a masked word that the mask leaves whole. -/
theorem fld_and_mask (v m : W32) {lo w : Nat} (h : ∀ k < w, m.toNat.testBit (lo + k) = true) : fld (v &&& m).toNat lo w = rfld v lo w := by
  apply Nat.eq_of_testBit_eq
  intro k
  rw [rfld, fld_testBit, fld_testBit, BitVec.toNat_and, Nat.testBit_and]
  by_cases hk : k < w
  · rw [h k hk, Bool.and_true]
  · simp only [hk, decide_false, Bool.false_and]

/-- The state in which another source has been selected, before it is judged whether that source is lost. -/
def srcSwitched (s : State) (v : W32) : State :=
  let u := { wr s Reg.FT_SRC_CTL (v &&& 0xF07) with
    time := { s.time with goodRun := 0, lastSample := s.time.elapsed, lastEdge := s.time.elapsed, ptmFails := 0, ptmBusy := false, ptmStart := s.time.elapsed } }
  setFtState (if rfld v 0 3 = 0 then setRate u (signed 32 (rdN u Reg.FT_FREQ_ADJ)) else u) (if rfld v 0 3 = 0 then 0 else 1)
theorem ftSrc_wr (s : State) (v : W32) : ftSrc (wr s Reg.FT_SRC_CTL (v &&& 0xF07)) = rfld v 0 3 := by
  rw [ftSrc, rdF, rdN, rd_wr_same]
  exact fld_and_mask v _ (by decide)
theorem srcCtlApply_switch {s : State} {v : W32} (h : rfld v 0 3 ≠ ftSrc s) : srcCtlApply s v = sourceCheck (srcSwitched s v) := by
  simp only [srcCtlApply, ftSrc_wr, if_neg h]
  rfl
theorem srcSwitched_rd (s : State) (v : W32) {x : Nat} (h1 : x ≠ Reg.FT_STATUS) (h2 : x ≠ Reg.FT_FREQ_ADJ) (h3 : x ≠ Reg.OZ_EV_LOST_CNT) :
    rd (srcSwitched s v) x = rd (wr s Reg.FT_SRC_CTL (v &&& 0xF07)) x := by
  unfold srcSwitched
  dsimp only
  rw [setFtState_rd _ _ h1 h3]
  split
  · exact setRate_rd _ _ h1 h2
  · rfl
theorem srcSwitched_tclk (s : State) (v : W32) : (srcSwitched s v).time.tclk = s.time.tclk := by
  unfold srcSwitched
  dsimp only
  rw [setFtState_time]
  split <;> rfl
theorem srcSwitched_host (s : State) (v : W32) : (srcSwitched s v).host = s.host := by
  unfold srcSwitched
  dsimp only
  rw [(setFtState_k _ _).keeps.host]
  split <;> rfl
theorem ftState_srcSwitched (s : State) (v : W32) : ftState (srcSwitched s v) = if rfld v 0 3 = 0 then 0 else 1 :=
  ftState_setFtState _ (by split <;> decide)
theorem ftSrc_srcSwitched (s : State) (v : W32) : ftSrc (srcSwitched s v) = rfld v 0 3 :=
  (ftSrc_eq (srcSwitched_rd s v (by decide) (by decide) (by decide))).trans (ftSrc_wr s v)
theorem srcSwitched_link (s : State) (v : W32) : rdF (srcSwitched s v) Reg.FT_SRC_CTL 8 4 = rfld v 8 4 := by
  rw [rdF_eq (srcSwitched_rd s v (by decide) (by decide) (by decide)), rdF, rdN, rd_wr_same]
  exact fld_and_mask v _ (by decide)
theorem linkUp_srcSwitched (s : State) (v : W32) (link : Nat) : linkUp (srcSwitched s v) link = linkUp s link := by
  have hl : 0x410000 ≤ hfLink link := by unfold hfLink; omega
  have hn : ∀ r, r < 0x410000 → hfLink link ≠ r := fun r hr => by omega
  rw [linkUp, srcSwitched_rd s v (hn _ (by decide)) (hn _ (by decide)) (hn _ (by decide)), rd_wr_ne _ _ (hn _ (by decide)), linkUp]
theorem ptmEnabled_srcSwitched (s : State) (v : W32) (link : Nat) : ptmEnabled (srcSwitched s v) link = ptmEnabled s link := by
  rw [ptmEnabled, fnGet_host (srcSwitched_host s v), ptmEnabled]
theorem sourceOut_srcSwitched (s : State) (v : W32) : sourceOut (srcSwitched s v) =
    (rfld v 0 3 = 2 && s.time.tclk ≠ 0 || rfld v 0 3 = 3 && !(linkUp s (rfld v 8 4) && ptmEnabled s (rfld v 8 4))) := by
  rw [sourceOut, ftSrc_srcSwitched, srcSwitched_tclk, srcSwitched_link, linkUp_srcSwitched, ptmEnabled_srcSwitched]
theorem ftState_srcCtlApply {s : State} {v : W32} (h : rfld v 0 3 ≠ ftSrc s) :
    ftState (srcCtlApply s v) = if rfld v 0 3 = 0 then 0
      else if rfld v 0 3 = 2 && s.time.tclk ≠ 0 || rfld v 0 3 = 3 && !(linkUp s (rfld v 8 4) && ptmEnabled s (rfld v 8 4)) then 3 else 1 := by
  rw [srcCtlApply_switch h, ftState_sourceCheck, sourceOut_srcSwitched, ftState_srcSwitched]
  by_cases h0 : rfld v 0 3 = 0
  · simp [h0]
  · simp only [if_neg h0]
theorem exec_ftSrcCtlWrite {s : State} {req : Requester} {v : W32} (hp : Passes s req Reg.FT_SRC_CTL false) (h4 : rfld v 0 3 < 4) :
    exec (.ftSrcCtlWrite req 15 v) s = .next (srcCtlApply s v) :=
  congrArg Host.Outcome.next ((gate_open hp).trans (if_neg (by omega)))

/-! Samples (R37 to R41). -/

theorem phaseSample_discard {s : State} (h : s.time.discardNext = true) (p : Int) : phaseSample s p = { s with time := { s.time with discardNext := false } } :=
  if_pos h
theorem phaseSample_accept {s : State} (h : s.time.discardNext = false) (p : Int) :
    phaseSample s p = phaseAlarm (lockUpdate (servoLoop (sampleTaken s) p) p) p := if_neg (by simp [h])

/-- What the servo and the lock state leave alone of the time record: the last sample and the exchanges of PTM. -/
def exchange (x : TimeSt) : Nat × Bool × Nat := (x.lastSample, x.ptmBusy, x.ptmFails)
theorem exchange_setRate (s : State) (adj : Int) : exchange (setRate s adj).time = exchange s.time := rfl
theorem exchange_sampleTaken (s : State) : exchange (sampleTaken s).time = (s.time.elapsed, s.time.ptmBusy, s.time.ptmFails) := by
  have hw : ∀ u : State, (if rd64 u Reg.FT_HOLD_TIME_LO = 0 then u else wr64 u Reg.FT_HOLD_TIME_LO 0).time = u.time := fun u => by
    split
    · rfl
    · exact (wr64_k ..).keeps.time
  refine (congrArg exchange (hw _)).trans ?_
  split
  · rw [setFtState_time]
    rfl
  · rfl
theorem exchange_servoLoop (s : State) (p : Int) : exchange (servoLoop s p).time = exchange s.time := by
  unfold servoLoop
  dsimp only
  split
  · rw [exchange_setRate]
    split
    · rw [(raise_k _ _ _).keeps.time]; rfl
    · rfl
  · rfl
theorem exchange_lockUpdate (s : State) (p : Int) : exchange (lockUpdate s p).time = exchange s.time := by
  have hm : ∀ (u : State) (lock unlock : Bool), (if lock then setFtState u 2 else if unlock then setFtState u 1 else u).time = u.time := fun u lock unlock => by
    split
    · exact setFtState_time ..
    · split
      · exact setFtState_time ..
      · rfl
  exact (congrArg exchange (hm ..)).trans rfl
theorem exchange_accept {s : State} (h : s.time.discardNext = false) (p : Int) :
    exchange (phaseSample s p).time = (s.time.elapsed, s.time.ptmBusy, s.time.ptmFails) := by
  rw [phaseSample_accept h, (phaseAlarm_k _ _).keeps.time, exchange_lockUpdate, exchange_servoLoop, exchange_sampleTaken]
theorem exchange_discard {s : State} (h : s.time.discardNext = true) (p : Int) : exchange (phaseSample s p).time = exchange s.time := by
  rw [phaseSample_discard h]
  rfl
/-- A sample, taken or discarded, leaves the exchanges of PTM alone. -/
theorem phaseSample_ptm (s : State) (p : Int) : (phaseSample s p).time.ptmBusy = s.time.ptmBusy ∧ (phaseSample s p).time.ptmFails = s.time.ptmFails := by
  cases h : s.time.discardNext with
  | true => exact Prod.mk.inj (Prod.mk.inj (exchange_discard h p)).2
  | false => exact Prod.mk.inj (Prod.mk.inj (exchange_accept h p)).2

/-! The commands of the sources (R35, R37, R40). -/

theorem exec_ftPhaseInLoWrite {s : State} {req : Requester} (hp : Passes s req Reg.FT_PHASE_IN_LO false) (v : W32) :
    exec (.ftPhaseInLoWrite req 15 v) s = .next (loHold s req Reg.FT_PHASE_IN_LO v) := congrArg Host.Outcome.next (gate_open hp)
theorem exec_phaseSampleSubmit {s : State} {req : Requester} (hp : Passes s req Reg.FT_PHASE_IN_HI false) (v : W32) :
    exec (.phaseSampleSubmit req 15 v) s = .next (phaseSubmit s req v) := congrArg Host.Outcome.next (gate_open hp)
/-- Under source 1 a submission is a sample, and gives up the LO half held for its requester. -/
theorem phaseSubmit_sample {s : State} (h : ftSrc s = 1) (req : Requester) (v : W32) :
    phaseSubmit s req v = phaseSample (loTake s req Reg.FT_PHASE_IN_LO).2
      (signed 64 (((accGet s.acc.held req Reg.FT_PHASE_IN_LO).getD 0).toNat + v.toNat * 0x100000000)) :=
  if_neg (fun hn => hn h)

/-- PPS_IN_EDGE captures fabric time in FT_PPS_IN_TS. -/
def ppsCaptured (s : State) : State := wr64 s Reg.FT_PPS_IN_TS_LO (nowNs s)
theorem ppsCaptured_rd (s : State) {x : Nat} (h : x ≠ Reg.FT_PPS_IN_TS_LO) (h' : x ≠ Reg.FT_PPS_IN_TS_HI) : rd (ppsCaptured s) x = rd s x := wr64_rd_ne _ _ _ h h'
theorem ppsCaptured_ts (s : State) : rdN (ppsCaptured s) Reg.FT_PPS_IN_TS_LO = nowNs s % 2 ^ 32 ∧ rdN (ppsCaptured s) Reg.FT_PPS_IN_TS_HI = nowNs s / 2 ^ 32 % 2 ^ 32 :=
  ⟨wr64_lo .., wr64_hi ..⟩
theorem ppsCaptured_keeps (s : State) : Keeps [.regs] s (ppsCaptured s) := (wr64_k ..).keeps
theorem ftSrc_ppsCaptured (s : State) : ftSrc (ppsCaptured s) = ftSrc s := ftSrc_eq (ppsCaptured_rd s (by decide) (by decide))
theorem ftState_ppsCaptured (s : State) : ftState (ppsCaptured s) = ftState s := ftState_eq (ppsCaptured_rd s (by decide) (by decide))
theorem exec_ppsInEdge (s : State) : exec .ppsInEdge s = .next (if ftSrc s = 2 && (s.time.tclk = 0 || ftState s ≠ 3) then
    phaseSample { ppsCaptured s with time := { s.time with lastEdge := s.time.elapsed } } (ppsPhase s.time.now) else ppsCaptured s) := by
  rw [← ftSrc_ppsCaptured s, ← ftState_ppsCaptured s]
  rfl
theorem exec_ppsInEdge_capture {s : State} (h : ftSrc s ≠ 2) : exec .ppsInEdge s = .next (ppsCaptured s) := by
  simp [exec_ppsInEdge, h]
theorem exec_ppsInEdge_sample {s : State} (h : ftSrc s = 2) (ht : s.time.tclk = 0 ∨ ftState s ≠ 3) :
    exec .ppsInEdge s = .next (phaseSample { ppsCaptured s with time := { s.time with lastEdge := s.time.elapsed } } (ppsPhase s.time.now)) := by
  rw [exec_ppsInEdge, if_pos]
  simpa [h] using ht

theorem exec_ptmExchange {s : State} (hs : ftSrc s = 3) (hi : rdN s Reg.FT_PTM_INTERVAL ≠ 0) (hb : s.time.ptmBusy = false)
    (ht : s.time.ptmStart + rdN s Reg.FT_PTM_INTERVAL * usUnits ≤ s.time.elapsed)
    (hl : linkUp s (rdF s Reg.FT_SRC_CTL 8 4) = true) (hp : ptmEnabled s (rdF s Reg.FT_SRC_CTL 8 4) = true) :
    exec .ptmExchange s = .next { s with
      time := { s.time with ptmBusy := true, ptmStart := s.time.elapsed },
      out := .linkMsg (rdF s Reg.FT_SRC_CTL 8 4) "PTM request" [] :: s.out } := by
  refine (if_pos ?_).trans rfl
  simp [hs, hi, hb, ht, hl, hp]
/-- R40: the first and the second failure in a row lose nothing. -/
theorem exec_ptmExchangeDone_fail {s : State} (hs : ftSrc s = 3) (hb : s.time.ptmBusy = true) (hf : s.time.ptmFails < 2) :
    exec (.ptmExchangeDone none) s = .next { s with time := { s.time with ptmBusy := false, ptmFails := s.time.ptmFails + 1 } } := by
  have hn : ¬ 3 ≤ s.time.ptmFails + 1 := by omega
  show execPtmExchangeDone none s = _
  simp only [execPtmExchangeDone, hs, hb, decide_true, Bool.and_self, if_true, ge_iff_le, if_neg hn]
theorem exec_ptmExchangeDone_sample {s : State} (hs : ftSrc s = 3) (hb : s.time.ptmBusy = true) (m : Nat) :
    exec (.ptmExchangeDone (some m)) s = .next (phaseSample { s with time := { s.time with ptmBusy := false, ptmFails := 0 } }
      (((m : Int) + signed 64 (rd64 s Reg.FT_PTM_OFFSET_LO)) * 65536 - s.time.now)) := by
  refine if_pos ?_
  simp [hs, hb]

theorem exec_sourceLostTimeout_ptp {s : State} (hs : ftSrc s = 1) (h0 : rdN s Reg.FT_HOLD_TIMEOUT ≠ 0)
    (ht : s.time.lastSample + rdN s Reg.FT_HOLD_TIMEOUT * usUnits ≤ s.time.elapsed) : exec .sourceLostTimeout s = .next (sourceLost s 1) := by
  refine if_pos ?_
  simp [hs, h0, ht]
theorem clockCause_ne {state : ClockState} (h : state ≠ .good) : clockCause state ≠ 0 := by
  cases state with
  | good => exact absurd rfl h
  | stopped => decide
  | strayed => decide
/-- R692: under source 2 a TCLK_IN that has stopped or strays loses the source. -/
theorem exec_tclkInFault_lost {s : State} {state : ClockState} (hs : ftSrc s = 2) (hg : state ≠ .good) :
    exec (.tclkInFault state) s = .next (sourceLost { s with time := { s.time with tclk := clockCause state } } (clockCause state)) := by
  have hs' : ftSrc { s with time := { s.time with tclk := clockCause state } } = 2 := hs
  refine congrArg Host.Outcome.next (if_pos ?_)
  simp [hs', clockCause_ne hg]
theorem exec_tclkInFault_good {s : State} (hs : ftSrc s ≠ 3) : exec (.tclkInFault .good) s = .next { s with time := { s.time with tclk := 0 } } := by
  have ho : sourceOut { s with time := { s.time with tclk := 0 } } = false := by
    have hs' : ftSrc { s with time := { s.time with tclk := 0 } } ≠ 3 := hs
    simp [sourceOut, hs']
  exact congrArg Host.Outcome.next (sourceCheck_kept ho)

/-- Settles O5: each command answers the state that its lemma names, and what that state holds is read off. -/
theorem timeKeeperComplete : Obligations.TimeKeeperComplete := by
  unfold Obligations.TimeKeeperComplete
  refine ⟨?source, ?low, ?submit, ?edge, ?edgeDiscard, ?ptmStart, ?ptmFail, ?ptmDone, ?timeout, ?fault, ?good⟩
  case source =>
    intro s req v hp h4 hn
    have hsrc : ftSrc (srcCtlApply s v) = rfld v 0 3 := by rw [srcCtlApply_switch hn, ftSrc_sourceCheck, ftSrc_srcSwitched]
    exact ⟨_, exec_ftSrcCtlWrite hp h4, hsrc, ftState_srcCtlApply hn, (srcCtlApply_k s v).keeps⟩
  case low => exact fun s req v hp => ⟨_, exec_ftPhaseInLoWrite hp v, accGet_loHold .., (loHold_k ..).keeps⟩
  case submit =>
    intro s req v hp h1
    have hs := phaseSubmit_sample h1 req v
    refine ⟨_, exec_phaseSampleSubmit hp v, ?_, fun hd => ?_, (phaseSubmit_k s req v).keeps⟩
    · rw [hs, (phaseSample_k ..).keeps.acc]
      exact accGet_accDel ..
    · rw [hs, phaseSample_discard (by exact hd)]
      rfl
  case edge =>
    intro s h2
    obtain ⟨hlo, hhi⟩ := ppsCaptured_ts s
    exact ⟨_, exec_ppsInEdge_capture h2, hlo, hhi, ppsCaptured_keeps s⟩
  case edgeDiscard =>
    intro s h2 hd ht
    obtain ⟨hlo, hhi⟩ := ppsCaptured_ts s
    refine ⟨_, (exec_ppsInEdge_sample h2 ht).trans (congrArg Host.Outcome.next (phaseSample_discard (by exact hd) _)), hlo, hhi, rfl, ?_⟩
    exact ((ppsCaptured_keeps s).weak rfl).set_time rfl
  case ptmStart => exact fun s hs hi hb ht hl hp => exec_ptmExchange hs hi hb ht hl hp
  case ptmFail => exact fun s hs hb hf => exec_ptmExchangeDone_fail hs hb hf
  case ptmDone =>
    intro s m hs hb
    obtain ⟨hbusy, hfails⟩ := phaseSample_ptm { s with time := { s.time with ptmBusy := false, ptmFails := 0 } }
      (((m : Int) + signed 64 (rd64 s Reg.FT_PTM_OFFSET_LO)) * 65536 - s.time.now)
    exact ⟨_, exec_ptmExchangeDone_sample hs hb m, hbusy, hfails, fun hd => (Prod.mk.inj (exchange_accept (by exact hd) _)).1,
      (phaseSample_k ..).keeps.by' (Keeps.refl.set_time rfl) rfl⟩
  case timeout =>
    intro s h1 h3 h0 ht
    obtain ⟨hst, htm⟩ := sourceLost_holdover h3 (by omega) 1
    exact ⟨_, exec_sourceLostTimeout_ptp h1 h0 ht, hst, htm, (sourceLost_k s 1).keeps⟩
  case fault =>
    intro s state h2 h3 hg
    have h0 : ftSrc { s with time := { s.time with tclk := clockCause state } } ≠ 0 := fun h => absurd (h2.symm.trans h) (by decide)
    obtain ⟨hst, htm⟩ := sourceLost_holdover (s := { s with time := { s.time with tclk := clockCause state } }) h3 h0 (clockCause state)
    exact ⟨_, exec_tclkInFault_lost h2 hg, hst, htm, (sourceLost_k ..).keeps.by' (Keeps.refl.set_time rfl) rfl⟩
  case good => exact fun s h3 => exec_tclkInFault_good h3

end Sys2Proof.Machine
end

section
/-! PROOFS. Steps, register actions, departures, pulse outputs and epochs (O6): what each leaves, and the commands over them. -/

namespace Sys2Proof.Machine

/-! Steps of fabric time (R41 to R46). -/

theorem rd64_lt (s : State) (lo : Nat) : rd64 s lo < 2 ^ 64 := by
  have h1 : rdN s lo < 2 ^ 32 := (rd s lo).isLt
  have h2 : rdN s (lo + 4) < 2 ^ 32 := (rd s (lo + 4)).isLt
  unfold rd64
  omega
/-- A write of FT_STEP_CTL within its window takes effect, and uses the window up (R44, R80). -/
theorem busWith_stepCtl {s : State} {req : Requester} (h : Means s req Reg.FT_STEP_CTL Reg.FT_STEP_CTL)
    (hp : Passes s req (gateOff Reg.FT_STEP_CTL Reg.FT_STEP_CTL) true) (v : W32) (env : Env) :
    busWith regEffect s req Reg.FT_STEP_CTL 15 v env = stepCtl (closeWindow s) v env := by
  have hw : writable { reg := Reg.FT_STEP_CTL } = true := rfl
  have hg : accGuarded { reg := Reg.FT_STEP_CTL } v = true := rfl
  have hwin : windowFor s req (blockOf (gateOff Reg.FT_STEP_CTL Reg.FT_STEP_CTL)) = true := by
    obtain ⟨-, -, hwin, -⟩ := hp
    exact hwin rfl
  have ho : ∀ f, withOwn s (Reg.FT_STEP_CTL % 0x4000000) Reg.FT_STEP_CTL f = f s := fun f => if_pos rfl
  have hl : ¬ 0x20000000 ≤ Reg.FT_STEP_CTL := by decide
  simp only [busWith, means_access h, hw, hg, hwin, ho, if_neg hl, gate_window hp, Bool.not_true, Bool.and_false, Bool.false_eq_true, if_false]
  rfl
theorem exec_ftStep {s : State} {req : Requester} {v : W32} (h : Means s req Reg.FT_STEP_CTL Reg.FT_STEP_CTL)
    (hp : Passes s req (gateOff Reg.FT_STEP_CTL Reg.FT_STEP_CTL) true) (hgo : rbit v 0 = true) (env : Env) :
    exec (.ftStep req 15 v env) s = .next (stepCtl (closeWindow s) v env) := by
  refine congrArg Host.Outcome.next ((inOrder_now (means_waits h)).trans ((if_pos hgo).trans ?_))
  exact (busWrite_means h).trans (busWith_stepCtl h hp v env)

/-- The fields of FT_STEP_CTL take a written word by their access codes. -/
def stepMerged (s : State) (v : W32) : State := wrN s Reg.FT_STEP_CTL (mergeWord (rdN s Reg.FT_STEP_CTL) 2 8 v.toNat)
theorem stepMerged_rd (s : State) (v : W32) {x : Nat} (h : x ≠ Reg.FT_STEP_CTL) : rd (stepMerged s v) x = rd s x := rd_wrN_ne _ _ h
/-- BUSY is none of the fields that a write changes. -/
theorem stepMerged_busy (s : State) (v : W32) : rdF (stepMerged s v) Reg.FT_STEP_CTL 2 1 = rdF s Reg.FT_STEP_CTL 2 1 := by
  have hb : (rdN (stepMerged s v) Reg.FT_STEP_CTL).testBit 2 = (rdN s Reg.FT_STEP_CTL).testBit 2 := by
    have h := rd_wrN_mergeWord_testBit s Reg.FT_STEP_CTL 2 8 v (k := 2) (by decide)
    rwa [show Nat.testBit 2 2 = false from rfl, show Nat.testBit 8 2 = false from rfl, Bool.and_false, Bool.not_false, Bool.and_true] at h
  apply Nat.eq_of_testBit_eq
  intro k
  rw [rdF, rdF, fld_testBit, fld_testBit]
  by_cases hk : k < 1
  · rw [show 2 + k = 2 by omega, hb]
  · simp only [hk, decide_false, Bool.false_and]
theorem rd64_stepVal_stepMerged (s : State) (v : W32) : rd64 (stepMerged s v) Reg.FT_STEP_VAL_LO = rd64 s Reg.FT_STEP_VAL_LO := by
  rw [rd64, rdN_eq (stepMerged_rd s v (by decide)), rdN_eq (stepMerged_rd s v (by decide)), rd64]

/-- The state in which fabric time has gone back to `new` ns; the fraction of a nanosecond stays. -/
def steppedBack (s : State) (new : Nat) : State :=
  { bump s Reg.FT_STEP_GEN with
    time := { s.time with now := new * 65536 + s.time.now % 65536, discardNext := true, maxNs := max s.time.maxNs new, barred := s.time.maxNs, ppsSecond := none } }
/-- A backward step passes no item: it only moves the time and is reported. -/
theorem stepApply_backward (s : State) {d : Int} (hd : d < 0) (new : Nat) (env : Env) :
    stepApply s d new false env = raise (steppedBack s new) 0x101 [(4, unsign 32 d), (4, rdN (steppedBack s new) Reg.FT_STEP_GEN)] := by
  have hn : ¬ d > 0 := by omega
  simp only [stepApply, if_pos hd, if_neg hn, Bool.false_eq_true, if_false]
  rfl
/-- An absolute step goes to the target in FT_STEP_VAL (R42). -/
theorem stepCtl_absolute {s : State} {v : W32} (hgo : rbit v 0 = true) (habs : rbit v 1 = true) (hbusy : rdF s Reg.FT_STEP_CTL 2 1 = 0) (env : Env) :
    stepCtl s v env = stepApply (stepMerged s v) ((rd64 s Reg.FT_STEP_VAL_LO : Int) - nowNs s) (rd64 s Reg.FT_STEP_VAL_LO) false env := by
  have hm : wrN s Reg.FT_STEP_CTL (mergeWord (rdN s Reg.FT_STEP_CTL) 2 8 v.toNat) = stepMerged s v := rfl
  have hn : nowNs (stepMerged s v) = nowNs s := rfl
  have hb : ¬ rdF (stepMerged s v) Reg.FT_STEP_CTL 2 1 = 1 := by rw [stepMerged_busy]; omega
  have hl := rd64_lt s Reg.FT_STEP_VAL_LO
  have hr : ¬ (decide ((rd64 s Reg.FT_STEP_VAL_LO : Int) < 0) || decide ((rd64 s Reg.FT_STEP_VAL_LO : Int) ≥ 2 ^ 64)) = true := by
    simp only [Bool.or_eq_true, decide_eq_true_eq]
    omega
  simp only [stepCtl, hm, hn, hgo, habs, hb, rd64_stepVal_stepMerged, Bool.not_true, Bool.false_and, Bool.false_eq_true, if_true, if_false]
  exact if_neg hr

/-! Register actions (R53). -/

theorem access_scratch (s : State) {j : Nat} (hj : j < 4) : access s .action (Reg.GL_SCRATCH j) = some { reg := Reg.GL_SCRATCH j } := by
  rcases lt_four_cases hj with rfl | rfl | rfl | rfl <;> rfl
theorem passes_scratch (s : State) {j : Nat} (hj : j < 4) : Passes s .action (gateOff (Reg.GL_SCRATCH j) (Reg.GL_SCRATCH j)) false := by
  refine ⟨rfl, ?_, fun h => Bool.noConfusion h, rfl⟩
  rcases lt_four_cases hj with rfl | rfl | rfl | rfl <;> rfl
/-- The write of an action to GL_SCRATCH stores its word. -/
theorem busWith_action_scratch (s : State) {j : Nat} (hj : j < 4) (v : W32) (env : Env) :
    busWith plainEffect s .action (Reg.GL_SCRATCH j) 15 v env = wr s (Reg.GL_SCRATCH j) v := by
  have hx := rwWord_scratch hj
  have hl := scratch_lt hj
  rw [busWith_open (access_scratch s hj) hx.isReg (by omega) (by unfold Reg.FT_STEP_CTL; omega) (hx.unguarded v (by unfold Reg.OZ_MB_CMD; omega)) (passes_scratch s hj),
    Nat.mod_eq_of_lt (by omega), withOwn, if_pos rfl, plainEffect_store hx.pairOf (indReg_scratch hj) (.inr (.inr (.inr ⟨j, hj, rfl⟩))), hx.regStore]
theorem ractRefused_scratch {s : State} {k j : Nat} (hj : j < 4) (ht : rdF s (0x110008 + 16 * k) 0 26 = Reg.GL_SCRATCH j) : ractRefused s k = false := by
  have hg : ∀ v, accGuarded { reg := Reg.GL_SCRATCH j } v = false := fun v => (rwWord_scratch hj).unguarded _ (by have := scratch_lt hj; unfold Reg.OZ_MB_CMD; omega)
  simp only [ractRefused, ht, access_scratch s hj, hg, indReg_scratch hj, Bool.and_false, Bool.or_self]

/-- The state in which action `k` has been disarmed and is DONE, before its write. -/
def ractDone (s : State) (k : Nat) : State := wrF (wrF (lateMark s k false) (0x110008 + 16 * k) 28 1 0) (0x110008 + 16 * k) 29 1 1
theorem ractDone_rd (s : State) {k x : Nat} (h : x ≠ 0x110008 + 16 * k) : rd (ractDone s k) x = rd s x :=
  (rd_wrF_ne _ _ _ _ h).trans (rd_wrF_ne (lateMark s k false) _ _ _ h)
theorem ractDone_target (s : State) (k : Nat) : rdF (ractDone s k) (0x110008 + 16 * k) 0 26 = rdF s (0x110008 + 16 * k) 0 26 :=
  (rdF_wrF_other _ _ _ _ _ _ _ (by decide) (by decide)).trans (rdF_wrF_other (lateMark s k false) _ _ _ _ _ _ (by decide) (by decide))
theorem ractDone_arm (s : State) (k : Nat) : rdF (ractDone s k) (0x110008 + 16 * k) 28 1 = 0 :=
  (rdF_wrF_other _ _ _ _ _ _ _ (by decide) (by decide)).trans (rdF_wrF_same _ _ _ _ _ (by decide))
theorem ractDone_done (s : State) (k : Nat) : rdF (ractDone s k) (0x110008 + 16 * k) 29 1 = 1 := rdF_wrF_same _ _ _ _ _ (by decide)
theorem ractDone_keeps (s : State) (k : Nat) : Keeps [.regs, .time] s (ractDone s k) :=
  (((lateMark_k ..).keeps.weak rfl).set_regs rfl).set_regs rfl
theorem ractFire_scratch {s : State} {k j : Nat} (hj : j < 4) (ht : rdF s (0x110008 + 16 * k) 0 26 = Reg.GL_SCRATCH j) (env : Env) :
    ractFire s k false env = (wr (ractDone s k) (Reg.GL_SCRATCH j) (rd s (0x11000C + 16 * k)), 1) := by
  have hr : ractRefused (lateMark s k false) k = false := ractRefused_scratch hj ht
  have hw : rd (ractDone s k) (0x110008 + 16 * k + 4) = rd s (0x11000C + 16 * k) := by
    rw [ractDone_rd s (by omega)]
    congr 1
    omega
  simp only [ractFire, hr, Bool.false_eq_true, if_false]
  refine Prod.ext ?_ rfl
  show busWith plainEffect (ractDone s k) .action (rdF (ractDone s k) (0x110008 + 16 * k) 0 26) 15 (rd (ractDone s k) (0x110008 + 16 * k + 4)) env = _
  rw [ractDone_target, ht, hw, busWith_action_scratch _ hj]
theorem exec_ractFire_scratch {s : State} {k j : Nat} (hk : k < 1024) (hj : j < 4) (ha : ractArmed s k = true) (hn : tick8 (ractTime s k) ≤ nowNs s)
    (hb : ractBehind s k = false) (hl : s.time.lateActs.contains k = false) (ht : rdF s (0x110008 + 16 * k) 0 26 = Reg.GL_SCRATCH j) (env : Env) :
    exec (.ractFire k env) s = .next (wr (ractDone s k) (Reg.GL_SCRATCH j) (rd s (0x11000C + 16 * k))) := by
  show execRactFire k env s = _
  simp only [execRactFire, hk, ha, hn, hb, hl, ractFire_scratch hj ht, decide_true, Bool.and_self, Bool.or_true, Bool.not_false, Bool.false_and, Bool.false_eq_true, if_true, if_false]

/-! Departures (R418). -/

theorem nodeGet_queue_nodeUpd (s : State) (q : Nat) (f : Node → Node) : nodeGet (nodeUpd s 0 q f) 0 q = f (nodeGet s 0 q) :=
  agetD_aset_same ..
theorem exec_departureRelease {s : State} {q d : Nat} {x : QPkt} {rest : List QPkt} (hp : (nodeGet s 0 q).pkts = x :: rest) (hd : x.pkt.depart = some d)
    (hr : x.released = false) (hl : x.pkt.late = false) (ht : releasePoint d ≤ nowNs s) :
    exec (.departureRelease q) s = .next (nodeUpd s 0 q (fun n => { n with pkts := { x with released := true } :: rest })) := by
  have hn : ¬ nowNs s < releasePoint d := by omega
  show execDepartureRelease q s = _
  simp only [execDepartureRelease, hp, hd, hr, hl, hn, decide_false, Bool.or_self, Bool.false_eq_true, if_false]

/-! Pulse outputs (R50). -/

theorem exec_ppsOutRise {s : State} (he : rbit (rd s Reg.FT_PPS_CTL) 0 = true) (hc : rbit (rd s Reg.FT_PPS_CTL) 1 = false) (hw : rfld (rd s Reg.FT_PPS_CTL) 8 24 ≠ 0)
    (hn : nowNs s % 1000000000 = 0) (hs : s.time.ppsSecond ≠ some (nowNs s / 1000000000)) :
    exec .ppsOutRise s = .next { s with
      time := { s.time with ppsHigh := true, ppsRise := s.time.elapsed, ppsSecond := some (nowNs s / 1000000000) },
      out := .pin .ppsOut 0 true :: s.out } := by
  show execPpsOutRise s = _
  simp only [execPpsOutRise, he, hc, hw, hn, hs, ne_eq, not_false_eq_true, decide_true, Bool.and_self, Bool.false_eq_true, if_true, if_false]
  rfl
theorem exec_ppsOutFall {s : State} (hh : s.time.ppsHigh = true) (ht : s.time.ppsRise + rdF s Reg.FT_PPS_CTL 8 24 * usUnits ≤ s.time.elapsed) :
    exec .ppsOutFall s = .next { s with time := { s.time with ppsHigh := false }, out := .pin .ppsOut 0 false :: s.out } :=
  (if_pos (by simp only [hh, ht, decide_true, Bool.and_self])).trans rfl

/-! Telemetry epochs (R619). -/

/-- The state in which the snapshot of boundary `l` has been taken and GL_SNAP_AT stands for the next one. -/
def epochSnapped (s : State) (l : Nat) : State :=
  let u := wrF (takeSnapshot s 1 false) Reg.GL_SNAP_AT_CTL 1 1 1
  showSnapAt { u with time := { u.time with epochSnap := some (l + 1) } } (some (l + 1))
theorem exec_epochBoundary_snap {s : State} {l k : Nat} (hs : epochDue s s.time.epochSnap = some (l, k)) (hr : epochDue s s.time.epochRec = none) :
    exec .epochBoundary s = .next (epochSnapped s l) := by
  show execEpochBoundary s = _
  simp only [execEpochBoundary, epochFire, hs, hr, Bool.false_eq_true, if_false]
  rfl
theorem epochSnapped_time (s : State) (l : Nat) : (epochSnapped s l).time = { s.time with epochSnap := some (l + 1) } := by
  have ht : (takeSnapshot s 1 false).time = s.time := (takeSnapshot_k ..).keeps.time
  show { (takeSnapshot s 1 false).time with epochSnap := some (l + 1) } = _
  rw [ht]
theorem epochSnapped_gen (s : State) (l : Nat) : rdN (epochSnapped s l) Reg.GL_SNAP_GEN = (rdN s Reg.GL_SNAP_GEN + 1) % 2 ^ 32 := by
  refine Eq.trans ?_ (takeSnapshot_gen s 1 false)
  unfold epochSnapped showSnapAt
  dsimp only
  rw [rdN_wrF_ne _ _ _ _ (by decide), rdN_eq (wr64_rd_ne _ _ _ (by decide) (by decide))]
  exact rdN_wrF_ne _ _ _ _ (by decide)
theorem epochSnapped_keeps (s : State) (l : Nat) : Keeps [.regs, .snap, .time, .ev, .stairs] s (epochSnapped s l) :=
  ((((((takeSnapshot_k ..).keeps.weak rfl).set_regs rfl).set_time rfl).set_regs rfl).set_regs rfl).set_regs rfl
/-- With AUTO_SNAP clear before and after, a write that clears REC_EN only disarms the records. -/
theorem exec_ldEpochCtlWrite_off {s : State} {req : Requester} {v : W32} (hp : Passes s req Reg.LD_EPOCH_CTL false) (h0 : rbit v 0 = false) (h1 : rbit v 1 = false)
    (ho : rbit (rd s Reg.LD_EPOCH_CTL) 1 = false) :
    exec (.ldEpochCtlWrite req 15 v) s = .next { plainWrite s Reg.LD_EPOCH_CTL 0x3F v with time := { s.time with epochRec := none } } := by
  refine congrArg Host.Outcome.next ((gate_open hp).trans ?_)
  simp only [epochCtlWrite, h0, h1, ho, Bool.false_eq_true, if_false]
  rfl

/-- Settles O6: each command answers the state that its lemma names, and what that state holds is read off. -/
theorem scheduledCommandsComplete : Obligations.ScheduledCommandsComplete := by
  unfold Obligations.ScheduledCommandsComplete
  refine ⟨?step, ?action, ?departure, ?rise, ?fall, ?epoch, ?control⟩
  case step =>
    intro s req v env hm hp hgo habs hbusy ht
    have hback := (stepCtl_absolute (s := closeWindow s) hgo habs hbusy env).trans (stepApply_backward _ (Int.sub_neg_of_lt (Int.ofNat_lt.mpr ht)) _ env)
    have htime : ∀ u fs, (raise u 0x101 fs).time = u.time := fun u fs => (raise_k u 0x101 fs).keeps.time
    refine ⟨_, (exec_ftStep hm hp hgo env).trans (congrArg Host.Outcome.next hback), ?_, ?_, ?_, ?_, ?_⟩
    · rw [nowNs, htime]
      show (rd64 s Reg.FT_STEP_VAL_LO * 65536 + s.time.now % 65536) / 65536 = _
      omega
    · rw [htime]; rfl
    · rw [htime]; rfl
    · rw [rdN_eq (raise_rd _ _ _ (by decide))]
      exact (bump_same ..).trans (by rw [rdN_eq (stepMerged_rd _ v (by decide))]; rfl)
    · exact (raise_k ..).keeps.by' ((((Keeps.refl.set_acc rfl).set_regs rfl).set_regs rfl).set_time rfl) rfl
  case action =>
    intro s env k j hk hj ha hn hb hl ht
    have hc : 0x110008 + 16 * k ≠ Reg.GL_SCRATCH j := by unfold Reg.GL_SCRATCH; omega
    refine ⟨_, exec_ractFire_scratch hk hj ha hn hb hl ht env, rd_wr_same .., ?_, ?_, fun x hx hx' => ?_, (ractDone_keeps s k).set_regs rfl⟩
    · exact (rdF_eq (rd_wr_ne _ _ hc)).trans (ractDone_arm s k)
    · exact (rdF_eq (rd_wr_ne _ _ hc)).trans (ractDone_done s k)
    · exact (rd_wr_ne _ _ hx).trans (ractDone_rd s hx')
  case departure =>
    intro s q d x rest hp hd hr hl ht
    exact ⟨_, exec_departureRelease hp hd hr hl ht, by rw [nodeGet_queue_nodeUpd], (nodeUpd_k ..).keeps⟩
  case rise => exact fun s he hc hw hn hs => exec_ppsOutRise he hc hw hn hs
  case fall => exact fun s hh ht => exec_ppsOutFall hh ht
  case epoch =>
    intro s k l hs hr
    exact ⟨_, exec_epochBoundary_snap hs hr, by rw [epochSnapped_time], epochSnapped_gen s l, epochSnapped_keeps s l⟩
  case control =>
    intro s req v hp h0 h1 ho
    exact ⟨_, exec_ldEpochCtlWrite_off hp h0 h1 ho, rfl, rd_wr_same .., fun x hx => rd_wr_ne _ _ hx, ((plainWrite_k ..).keeps.weak rfl).set_time rfl⟩

end Sys2Proof.Machine
end

section
/-! PROOFS. The unlock window (O40, O45): the gate's outcomes, what an error record leaves, and the guarded commands. -/

namespace Sys2Proof.Machine

/-! The error record of the global registers (R689). -/

/-- Only the offset of the record is written beside GL_ERR_STATUS, and only by the first error. -/
theorem rd_glErrAddr (s : State) (c : Prop) [Decidable c] (n : Nat) {x : Nat} (h : x ≠ Reg.GL_ERR_ADDR) : rd (if c then wrN s Reg.GL_ERR_ADDR n else s) x = rd s x := by
  split
  · exact rd_wrN_ne _ _ h
  · rfl
theorem glError_status (s : State) (bit off : Nat) (hb : bit < 32) : rdF (glError s bit off) Reg.GL_ERR_STATUS bit 1 = 1 :=
  rdF_wrF_same _ _ _ _ _ (by omega)
theorem glError_status_other (s : State) {bit k : Nat} (off : Nat) (h : k ≠ bit) (hk : k < 32) :
    rdF (glError s bit off) Reg.GL_ERR_STATUS k 1 = rdF s Reg.GL_ERR_STATUS k 1 :=
  (rdF_wrF_other _ _ _ _ _ _ _ (by omega) (by omega)).trans (rdF_eq (rd_glErrAddr _ _ _ (by decide)))
theorem glError_rd (s : State) (bit off : Nat) {x : Nat} (h : x ≠ Reg.GL_ERR_STATUS) (h' : x ≠ Reg.GL_ERR_ADDR) : rd (glError s bit off) x = rd s x :=
  (rd_wrF_ne _ _ _ _ h).trans (rd_glErrAddr _ _ _ h')
/-- Between commands the first error records the register's own offset; later ones leave the record. -/
theorem glError_addr {s : State} (h : s.acc.own = none) (bit off : Nat) :
    rdN (glError s bit off) Reg.GL_ERR_ADDR = if rdN s Reg.GL_ERR_STATUS = 0 then off % 0x4000000 else rdN s Reg.GL_ERR_ADDR := by
  refine (rdN_wrF_ne _ _ _ _ (by decide)).trans ?_
  split
  · rw [rdN_wrN_same, ownOff_idle h]
    omega
  · rfl

/-! GL_UNLOCK (R78, R79). -/

theorem exec_glUnlockWrite {s : State} {req : Requester} (hp : Passes s req Reg.GL_UNLOCK false) (v : W32) :
    exec (.glUnlockWrite req 15 v) s = .next (unlockWrite s req v) :=
  congrArg Host.Outcome.next (gate_open hp)
theorem exec_glUnlockWrite_key {s : State} {req : Requester} {v : W32} (hp : Passes s req Reg.GL_UNLOCK false) (hk : rfld v 0 16 = 0x5AE7) :
    exec (.glUnlockWrite req 15 v) s = .next { s with acc := { s.acc with window := some { owner := req, block := rfld v 16 6, opened := s.time.clocks } } } :=
  (exec_glUnlockWrite hp v).trans (congrArg Host.Outcome.next (if_pos hk))
theorem exec_glUnlockWrite_badKey {s : State} {req : Requester} {v : W32} (hp : Passes s req Reg.GL_UNLOCK false) (hk : rfld v 0 16 ≠ 0x5AE7) :
    exec (.glUnlockWrite req 15 v) s = .next (glError (closeWindow s) 2 Reg.GL_UNLOCK) :=
  (exec_glUnlockWrite hp v).trans (congrArg Host.Outcome.next (if_neg hk))
theorem exec_unlockWindowExpire {s : State} {w : Window} (hw : s.acc.window = some w) (ht : w.opened + 4096 ≤ s.time.clocks) :
    exec .unlockWindowExpire s = .next (closeWindow s) := by
  have hn : ¬ s.time.clocks < w.opened + 4096 := by omega
  refine congrArg Host.Outcome.next (if_pos ?_)
  simp only [windowOpen, hw, hn, Option.isSome_some, decide_false, Bool.not_false, Bool.and_self]

/-- Settles O40: the key leaves the window of this write, and any other key the error record over no window. -/
theorem unlockWindowIsOne : Obligations.UnlockWindowIsOne := by
  unfold Obligations.UnlockWindowIsOne
  intro s req v ho hp
  refine ⟨exec_glUnlockWrite_key hp, fun hk => ⟨_, exec_glUnlockWrite_badKey hp hk, ?window, ?bit, ?others, ?addr, ?rest, ?frame⟩⟩
  case window => exact (glError_k ..).keeps.acc rfl
  case bit => exact glError_status _ 2 _ (by decide)
  case others => exact fun k h hk => glError_status_other (closeWindow s) _ h hk
  case addr => exact glError_addr (s := closeWindow s) ho 2 Reg.GL_UNLOCK
  case rest => exact fun x h h' => glError_rd (closeWindow s) 2 _ h h'
  case frame => exact (closeWindow_k s).keeps.after' (glError_k ..).keeps rfl

/-! Guarded writes without their window (R80). -/

theorem gate_locked {s : State} {req : Requester} {off : Nat} (hm : mayReach s req off = true) (hs : stageOk s off = true) (ha : off % 4 = 0)
    (hw : windowFor s req (blockOf off) = false) (f : State → State) : gate s req 15 off true f = lockedWrite s req off := by
  simp [gate, hm, hs, hw, crosses_aligned ha]
theorem lockedWrite_rd (s : State) (req : Requester) (off : Nat) {x : Nat} (h : x ≠ Reg.OZ_EV_LOST_CNT) :
    rd (lockedWrite s req off) x = rd (glError s 0 off) x := raise_rd _ _ _ h
theorem lockedWrite_queue {s : State} (ho : s.acc.own = none) (req : Requester) (off : Nat) (h : s.ev.queue.length < 4096) :
    ∃ r : EvRec, (lockedWrite s req off).ev.queue = s.ev.queue ++ [r] ∧ r.source = 0x010 ∧ r.data = evData [(4, off), (4, reqCode req)] := by
  have he : (glError s 0 off).ev = s.ev := (glError_k ..).keeps.ev rfl
  refine ⟨_, (raiseAt_ev _ _ _ _ _ (by rw [he]; exact h)).trans (by rw [he]), rfl, ?_⟩
  show evData [(4, ownOff s off), (4, reqCode req)] = _
  rw [ownOff_idle ho]

theorem unitRow_gate {v : W32} {op : Nat} (h : rfld v 8 3 = op) (req : Requester) (s : State) :
    unitRow op req 15 v s = gate s req 15 Reg.MS_UNIT_CMD true (fun s => unitCmdWrite s v) := if_pos h
theorem mbRow_gate {v : W32} {op : Nat} (h : rfld v 0 8 = op) (hg : (op / 16 == 2) = true) (s : State) (req : Requester) (env : Env) (run : MbRun) :
    mbRow s req 15 v op env run = gate s req 15 Reg.OZ_MB_CMD true (fun s => mbStart s v env run) := by
  rw [mbRow, if_neg (not_not_intro h), hg]
theorem gmCmd_aligned (u : Nat) : gmReg Reg.GM_CMD u % 4 = 0 := by
  unfold gmReg Reg.GM_CMD
  omega

/-- Settles O45: each of the commands is a guarded write of its register, which without the window is the drop of R80. -/
theorem guardedNeedsWindow : Obligations.GuardedNeedsWindow := by
  unfold Obligations.GuardedNeedsWindow
  intro s req v env u active off ok c hc ho hm hs hw
  have hgate : off % 4 = 0 ∧ ∃ f, exec c s = .next (gate s req 15 off true f) := by
    simp only [List.mem_cons, List.not_mem_nil, or_false, Prod.mk.injEq, eq_comm (a := true), Bool.and_eq_true, Bool.not_eq_true', decide_eq_true_eq, beq_iff_eq] at hc
    rcases hc with ⟨rfl, hgo, rfl⟩ | ⟨rfl, hop, rfl⟩ | ⟨rfl, hop, rfl⟩ | ⟨rfl, hop, rfl⟩ | ⟨rfl, hop, rfl⟩ | ⟨rfl, ⟨⟨hu, hlose⟩, hno⟩, rfl⟩ | ⟨rfl, ⟨hu, hgo⟩, rfl⟩ |
      ⟨rfl, -, rfl⟩ | ⟨rfl, hop, rfl⟩ | ⟨rfl, hop, rfl⟩ | ⟨rfl, hop, rfl⟩ | ⟨rfl, hop, rfl⟩
    · exact ⟨rfl, _, congrArg Host.Outcome.next (if_pos hgo)⟩
    · exact ⟨rfl, _, congrArg Host.Outcome.next (unitRow_gate hop req s)⟩
    · exact ⟨rfl, _, congrArg Host.Outcome.next (unitRow_gate hop req s)⟩
    · exact ⟨rfl, _, congrArg Host.Outcome.next (unitRow_gate hop req s)⟩
    · exact ⟨rfl, _, congrArg Host.Outcome.next (unitRow_gate hop req s)⟩
    · exact ⟨gmCmd_aligned u, _, congrArg Host.Outcome.next (if_pos (by simp [hu, hlose, hno]))⟩
    · exact ⟨gmCmd_aligned u, _, congrArg Host.Outcome.next (if_pos (by simp [hu, hgo]))⟩
    · exact ⟨rfl, _, rfl⟩
    · exact ⟨rfl, _, congrArg Host.Outcome.next (mbRow_gate hop rfl s req {} mbKeyErase)⟩
    · exact ⟨rfl, _, congrArg Host.Outcome.next (mbRow_gate hop rfl s req env mbLcTransition)⟩
    · exact ⟨rfl, _, congrArg Host.Outcome.next (mbRow_gate hop rfl s req env mbBcrWrite)⟩
    · exact ⟨rfl, _, congrArg Host.Outcome.next (if_neg (not_not_intro hop))⟩
  obtain ⟨ha, f, hf⟩ := hgate
  rw [gate_locked hm hs ha hw f] at hf
  refine ⟨_, hf, ?bit, ?others, ?addr, lockedWrite_queue ho req off, ?rest, (lockedWrite_k ..).keeps⟩
  case bit => exact (rdF_eq (lockedWrite_rd s req off (by decide))).trans (glError_status s 0 off (by decide))
  case others => exact fun k h hk => (rdF_eq (lockedWrite_rd s req off (by decide))).trans (glError_status_other s off h hk)
  case addr => exact (rdN_eq (lockedWrite_rd s req off (by decide))).trans (glError_addr ho 0 off)
  case rest => exact fun x h h' h'' => (lockedWrite_rd s req off h'').trans (glError_rd s 0 off h h')

end Sys2Proof.Machine
end

section
/-! PROOFS. The unlock window, snapshots and the guarded warm reset (O4): what each leaves. -/

namespace Sys2Proof.Machine

/-! Snapshots (R82 to R84). -/

/-- A snapshot that GL_SNAP_CMD asks for is the one of GL_SNAP_AT where that is due (R84). -/
theorem exec_snapshotGo {s : State} {req : Requester} {v : W32} (hp : Passes s req Reg.GL_SNAP_CMD false) (hgo : rbit v 0 = true) :
    exec (.snapshotGo req 15 v) s = .next (snapGo s (snapSrc req)) :=
  congrArg Host.Outcome.next ((if_pos hgo).trans (gate_open hp))
theorem snapGo_due {s : State} (h : snapAtDue s = true) (src : Nat) : snapGo s src = snapAtRun s := if_pos h
theorem snapGo_command {s : State} (h : snapAtDue s = false) (hs : s.time.stepSnap = false) (src : Nat) : snapGo s src = takeSnapshot s src false := by
  simp only [snapGo, h, hs, Bool.false_eq_true, if_false]
theorem exec_snapAtFire {s : State} (h : snapAtDue s = true) : exec .snapAtFire s = .next (snapAtRun s) := congrArg Host.Outcome.next (if_pos h)
theorem snapAtDue_of {s : State} (ha : rdF s Reg.GL_SNAP_AT_CTL 0 1 = 1) (hs : autoSnap s = false) (ht : rd64 s Reg.GL_SNAP_AT_LO ≤ nowNs s) : snapAtDue s = true := by
  simp only [snapAtDue, ha, hs, ht, decide_true, Bool.not_false, Bool.and_self]
theorem snapAtRun_onTime {s : State} (h : s.time.lateActs.contains snapItem = false) : snapAtRun s = snapAtFire s false := by
  simp only [snapAtRun, h, Bool.false_eq_true, if_false]
theorem snapAtFire_gen (s : State) : rdN (snapAtFire s false) Reg.GL_SNAP_GEN = (rdN s Reg.GL_SNAP_GEN + 1) % 2 ^ 32 :=
  (rdN_wrF_ne _ _ _ _ (by decide)).trans ((rdN_wrF_ne _ _ _ _ (by decide)).trans (takeSnapshot_gen (lateMark s snapItem false) 1 false))
/-- The firing disarms GL_SNAP_AT (bit 0) and marks it FIRED (bit 1). -/
theorem snapAtFire_disarmed (s : State) : rdF (snapAtFire s false) Reg.GL_SNAP_AT_CTL 0 1 = 0 :=
  (rdF_wrF_other _ _ _ _ _ _ _ (by decide) (by decide)).trans (rdF_wrF_same _ _ _ _ _ (by decide))
theorem snapAtFire_fired (s : State) : rdF (snapAtFire s false) Reg.GL_SNAP_AT_CTL 1 1 = 1 := rdF_wrF_same _ _ _ _ _ (by decide)

/-! The guarded warm reset (R91). -/

theorem exec_warmReset {s : State} {req : Requester} {v : W32} (hp : Passes s req Reg.GL_RESET_CTL true) (hgo : rbit v 0 = true) :
    exec (.warmReset req 15 v) s = .next (warmReset (closeWindow s) 2) :=
  congrArg Host.Outcome.next ((if_pos hgo).trans (gate_window hp))

/-- What a warm reset keeps of the clocks: elapsed time, the core clocks and TCLK_IN; fabric time is zero. -/
def warmTime (x : TimeSt) : TimeSt := { elapsed := x.elapsed, clocks := x.clocks, tclk := x.tclk }
/-- The registers that a warm reset writes last: the cause, and the stage, which a stopped start-up keeps. -/
def warmMarked (t : State) (cause stage : Nat) : State :=
  wrN (wrF t Reg.OZ_RESET_CAUSE 0 4 cause) Reg.GL_BOOT_STAGE (if stage = 0xF then 0xF else 1)
/-- What start-up sets before any stage, and the link messages of a reset, leave the rest of the state. -/
theorem startCommon_emits_keeps {α : Type} (t : State) (perst : List Nat) (links : List α) (e : α → Emit) :
    Keeps [.regs, .host, .slices, .out] t (links.foldl (fun t l => emit t (e l)) (startCommon t perst)) :=
  Keeps.foldl ((startCommon_k ..).keeps.weak rfl) (fun _ _ h => h.set_out rfl)
/-- A warm reset marks the registers of a state with only the parts that survive, and drives pins and lines. -/
theorem warmReset_marked (s : State) (cause : Nat) :
    ∃ t, Keeps [.out] (warmMarked t cause (rdF s Reg.GL_BOOT_STAGE 0 4)) (warmReset s cause) ∧ t.time = warmTime s.time ∧ t.acc = {} := by
  unfold warmReset
  dsimp only
  refine ⟨_, (resetLines_k _ _).keeps.after' (resetPins_k _ _).keeps rfl, ?time, ?acc⟩
  case time => exact (startCommon_emits_keeps ..).time rfl
  case acc => exact (startCommon_emits_keeps ..).acc rfl
theorem warmReset_time (s : State) (cause : Nat) : (warmReset s cause).time = warmTime s.time := by
  obtain ⟨t, hk, ht, -⟩ := warmReset_marked s cause
  exact (hk.time rfl).trans ht
theorem warmReset_acc (s : State) (cause : Nat) : (warmReset s cause).acc = {} := by
  obtain ⟨t, hk, -, ha⟩ := warmReset_marked s cause
  exact (hk.acc rfl).trans ha
theorem warmReset_stage {s : State} (h : rdF s Reg.GL_BOOT_STAGE 0 4 ≠ 15) (cause : Nat) : rdN (warmReset s cause) Reg.GL_BOOT_STAGE = 1 := by
  obtain ⟨t, hk, -, -⟩ := warmReset_marked s cause
  rw [rdN_eq (rd_regs (hk.regs rfl) _), warmMarked, if_neg h]
  exact rdN_wrN_same ..
theorem warmReset_cause (s : State) (cause : Nat) : rdF (warmReset s cause) Reg.OZ_RESET_CAUSE 0 4 = cause % 2 ^ 4 := by
  obtain ⟨t, hk, -, -⟩ := warmReset_marked s cause
  rw [rdF_eq (rd_regs (hk.regs rfl) _)]
  exact (rdF_wrN_ne _ _ _ _ (by decide)).trans (rdF_wrF_same _ _ _ _ _ (by decide))

/-- Settles O4: each command answers the state that its lemma names, and what that state holds is read off. -/
theorem unlockSnapshotResetComplete : Obligations.UnlockSnapshotResetComplete := by
  unfold Obligations.UnlockSnapshotResetComplete
  refine ⟨?unlock, ?expire, ?go, ?together, ?fire, ?reset⟩
  case unlock => exact fun s req v hp hk => exec_glUnlockWrite_key hp hk
  case expire => exact fun s w hw ht => exec_unlockWindowExpire hw ht
  case go =>
    intro s req v hp hgo hd hs
    refine ⟨_, (exec_snapshotGo hp hgo).trans (congrArg Host.Outcome.next (snapGo_command hd hs _)), takeSnapshot_gen s _ _, ?_, ?_, (takeSnapshot_k ..).keeps⟩
    · exact (takeSnapshot_time s _ _).1
    · exact (takeSnapshot_time s _ _).2
  case together =>
    intro s req v hp hgo hd
    rw [exec_snapshotGo hp hgo, snapGo_due hd, exec_snapAtFire hd]
  case fire =>
    intro s ha hs ht hl
    exact ⟨_, (exec_snapAtFire (snapAtDue_of ha hs ht)).trans (congrArg Host.Outcome.next (snapAtRun_onTime hl)), snapAtFire_gen s, snapAtFire_disarmed s,
      snapAtFire_fired s, (snapAtFire_k ..).keeps⟩
  case reset =>
    intro s req v hp hgo hst
    have htime : (warmReset (closeWindow s) 2).time = warmTime s.time := warmReset_time _ 2
    refine ⟨_, exec_warmReset hp hgo, warmReset_stage hst 2, warmReset_cause _ 2, ?_, ?_, ?_, (warmReset_k ..).keeps.pending rfl⟩
    · rw [htime]; rfl
    · rw [htime]; rfl
    · rw [warmReset_acc]

end Sys2Proof.Machine
end

section
/-! PROOFS. Indirect access (O7): the registers of the sets, how an access is issued, how it ends, and the rows over them. -/

namespace Sys2Proof.Machine

/-! The registers of the 37 sets (R71, R72). -/

/-- IND_DATA (0x3F04) and IND_CMD (0x3F10) of a set are its registers and no other set's. -/
theorem indSet_reg : ∀ x ∈ [0x3F04, 0x3F10], ∀ k < 37, indReg (indBase k + x) = true ∧ (indBase k + x) % 0x10000 = x ∧ indSetOf (indBase k + x) = some k := by
  decide +kernel
theorem indOf_set {s : State} {req : Requester} {off k x : Nat} (hx : x ∈ [0x3F04, 0x3F10]) (hk : k < 37) (ha : access s req off = some { reg := indBase k + x }) :
    indOf s req off x = some k := by
  obtain ⟨hr, hm, hs⟩ := indSet_reg x hx k hk
  simp [indOf, ha, hr, hm, hs]
theorem indStat_ne_indAddr (k : Nat) : indStat k ≠ indAddr k := by unfold indStat indAddr; omega
theorem indRdata_ne_indStat (k : Nat) : indRdata k ≠ indStat k := by unfold indRdata indStat; omega

/-! The record of a set. -/

@[simp] theorem indGet_indPut (s : State) (k : Nat) (x : IndSt) : indGet (indPut s k x) k = x := agetD_aset_same ..
@[simp] theorem indGet_wr (s : State) (o : Nat) (v : W32) (k : Nat) : indGet (wr s o v) k = indGet s k := rfl
@[simp] theorem indGet_wrF (s : State) (o lo w v k : Nat) : indGet (wrF s o lo w v) k = indGet s k := rfl
@[simp] theorem indGet_indReply (s : State) (k j : Nat) (op : IndOp) (w : W32) : indGet (indReply s k op w) j = indGet s j := by
  simp only [indGet, (indReply_k s k op w).keeps.acc rfl]
theorem indReply_posted (s : State) (k : Nat) {op : IndOp} (h : op.reader = none) (w : W32) : indReply s k op w = s := by simp [indReply, h]
/-- Only a stalled read settles. -/
theorem indSettle_idle {s : State} {k : Nat} (h : (indGet s k).cur = none) : indSettle s k = s := by simp [indSettle, h]
theorem indSettle_posted {s : State} {k : Nat} {op : IndOp} (h : (indGet s k).cur = some op) (hr : op.reader = none) : indSettle s k = s := by simp [indSettle, h, hr]

/-! Issue (R73, R76). -/

/-- An access of a set that is not busy, and that starts something, is issued at once. -/
theorem indAccess_idle {s : State} {k : Nat} (h : (indGet s k).cur = none) {op : IndOp} (hi : op.idle = false) : indAccess (indSettle s k) k op = indStart s k op := by
  rw [indSettle_idle h]
  simp [indAccess, indRun, h, hi]
theorem indStart_out (s : State) (k : Nat) (op : IndOp) : (indStart s k op).out = .indirect k op.write (rdF s (indAddr k) 0 24) op.word :: s.out := by
  unfold indStart
  dsimp only
  split <;> rfl
theorem indStart_busy (s : State) (k : Nat) (op : IndOp) : rdF (indStart s k op) (indStat k) 0 1 = 1 := by
  have hb : ∀ u : State, rdF (wrF u (indStat k) 0 1 1) (indStat k) 0 1 = 1 := fun u => rdF_wrF_same _ _ _ _ _ (by decide)
  unfold indStart
  dsimp only
  split
  · exact (rdF_wrF_ne _ _ _ _ _ _ (indStat_ne_indAddr k)).trans (hb _)
  · exact hb _
theorem indGet_indStart (s : State) (k : Nat) (op : IndOp) :
    indGet (indStart s k op) k = { indGet s k with cur := some { op with addr := rdF s (indAddr k) 0 24, since := s.time.elapsed } } := by
  unfold indStart
  dsimp only
  split <;> exact indGet_indPut ..

section
variable {s : State} {req : Requester} {off k : Nat} (hk : k < 37) (hw : indWaits s req = false) (hc : (indGet s k).cur = none)
include hk hw hc

theorem exec_indDataRead (ha : access s req off = some { reg := indBase k + 0x3F04 }) (hm : mayReach s req (off % 0x4000000) = true) :
    exec (.indDataRead req off) s = .next (indStart s k { reader := some req, write := false, addr := 0, word := 0, since := 0 }) := by
  refine congrArg Host.Outcome.next ((inOrder_now hw).trans ?_)
  simp only [busRow, indOf_set (by decide) hk ha, hm, if_true]
  exact indAccess_idle hc rfl
theorem exec_indDataWrite (ha : access s req off = some { reg := indBase k + 0x3F04 }) (hp : Passes s req (off % 0x4000000) false) (v : W32) :
    exec (.indDataWrite req off 15 v) s = .next (indStart s k { reader := none, write := true, addr := 0, word := v, since := 0, owner := some req }) := by
  refine congrArg Host.Outcome.next ((inOrder_now hw).trans ?_)
  simp only [busRow, indOf_set (by decide) hk ha, gate_open hp]
  exact indAccess_idle hc rfl
theorem exec_indCmdRead (ha : access s req off = some { reg := indBase k + 0x3F10 }) (hp : Passes s req (off % 0x4000000) false) {v : W32} (hv : rbit v 0 = true) :
    exec (.indCmdRead req off 15 v) s =
      .next (indStart s k { reader := none, write := false, addr := 0, word := 0, since := 0, owner := some req, idle := !rbit v 0 }) := by
  refine congrArg Host.Outcome.next ((inOrder_now hw).trans ?_)
  simp only [busRow, indOf_set (by decide) hk ha, gate_open hp]
  exact indAccess_idle hc (by simp [hv])

end

/-! The end of an access (R73 to R75). -/

theorem not_serdes_set {k : Nat} (h : k < 12 ∨ 20 ≤ k) : (decide (12 ≤ k) && decide (k < 20)) = false := by
  rw [Bool.and_eq_false_iff, decide_eq_false_iff_not, decide_eq_false_iff_not]
  omega
/-- Of a word that the device holds nothing of, a read gets what the domain answers. -/
theorem indWord_plain {k addr : Nat} (h : k < 12 ∨ 20 ≤ k) (hl : lowWord k addr = false) (s : State) (w : W32) : indWord s k addr w = w := by
  simp only [indWord, prbsCount, not_serdes_set h, hl, Bool.false_and, Bool.false_eq_true, if_false]
theorem indClear_plain {k addr : Nat} (h : k < 12 ∨ 20 ≤ k) (hl : lowWord k addr = false) (s : State) : indClear s k addr = s := by
  simp only [indClear, prbsCount, not_serdes_set h, hl, Bool.false_and, Bool.false_eq_true, if_false]

/-- The state in which set `k` is no longer busy, and nothing waits. -/
def indFreed (s : State) (k : Nat) : State := indPut (wrF (indPut s k { indGet s k with cur := none }) (indStat k) 0 1 0) k {}
theorem indNext_alone {s : State} {k : Nat} (h : (indGet s k).waiting = []) : indNext s k = indFreed s k := by
  simp [indNext, indFreed, indProceed, h]
theorem indFreed_cur (s : State) (k : Nat) : (indGet (indFreed s k) k).cur = none := by simp [indFreed]
theorem indFreed_rd (s : State) (k : Nat) {r : Nat} (h : r ≠ indStat k) : rd (indFreed s k) r = rd s r := rd_wrF_ne _ _ _ _ h
theorem indFreed_busy (s : State) (k : Nat) : rdF (indFreed s k) (indStat k) 0 1 = 0 := rdF_wrF_same _ _ _ _ _ (by decide)
theorem indFreed_status (s : State) (k : Nat) {b : Nat} (h0 : b ≠ 0) (h : b < 32) : rdF (indFreed s k) (indStat k) b 1 = rdF s (indStat k) b 1 :=
  rdF_wrF_other _ _ _ _ _ _ _ (by omega) (by omega)
theorem indFreed_keeps (s : State) (k : Nat) : Keeps [.regs, .acc] s (indFreed s k) :=
  ((Keeps.refl.set_acc rfl).set_regs rfl).set_acc rfl

section
variable {s : State} {k : Nat} {op : IndOp} (hc : (indGet s k).cur = some op) (hr : op.reader = none)
include hc hr

/-- A domain answers a read: the word is shown, and the set is free. -/
theorem exec_indDomainAnswer_read (hw : (indGet s k).waiting = []) (hread : op.write = false) (hd : k < 12 ∨ 20 ≤ k) (hh : indHas k op.addr = true)
    (hl : lowWord k op.addr = false) (word : W32) : exec (.indDomainAnswer k word true) s = .next (indFreed (wr s (indRdata k) word) k) := by
  show execIndDomainAnswer k word true s = _
  simp [execIndDomainAnswer, indSettle_posted hc hr, hc, hh, hread, indWord_plain hd hl, indClear_plain hd hl, indReply_posted _ _ hr, indNext_alone, hw]
/-- A domain refuses a read: ERR, and zero in IND_RDATA. -/
theorem exec_indDomainAnswer_refused (hw : (indGet s k).waiting = []) (hread : op.write = false) (word : W32) :
    exec (.indDomainAnswer k word false) s = .next (indFreed (wr (wrF s (indStat k) 2 1 1) (indRdata k) 0) k) := by
  show execIndDomainAnswer k word false s = _
  simp [execIndDomainAnswer, indSettle_posted hc hr, hc, hread, indReply_posted _ _ hr, indNext_alone, hw]
theorem exec_indOverrun {w : IndOp} {rest : List IndOp} (hw : (indGet s k).waiting = w :: rest) (ht : w.since + 2 * usUnits ≤ s.time.elapsed) :
    exec (.indOverrun k) s = .next (indReply (wrF (indPut s k { indGet s k with waiting := rest }) (indStat k) 3 1 1) k w 0) := by
  show execIndOverrun k s = _
  simp [execIndOverrun, indSettle_posted hc hr, hc, indExpire, hw, ht]
theorem exec_indTimeout (hw : (indGet s k).waiting = []) (ht : op.since + msUnits ≤ s.time.elapsed) :
    exec (.indTimeout k) s = .next (indFreed (wrF s (indStat k) 2 1 1) k) := by
  show execIndTimeout k s = _
  simp [execIndTimeout, indSettle_posted hc hr, hc, ht, indNext_alone, hw]

end

/-- Settles O7: each row answers the state that its lemma names, and what that state shows is read off. -/
theorem indirectAccessComplete : Obligations.IndirectAccessComplete := by
  unfold Obligations.IndirectAccessComplete
  refine ⟨?dataRead, ?dataWrite, ?cmdRead, ?answer, ?refused, ?overrun, ?timeout⟩
  case dataRead =>
    intro s req off k hk ha hm hw hc
    refine ⟨_, exec_indDataRead hk hw hc ha hm, indStart_out .., indStart_busy .., ?_, (indStart_k ..).keeps⟩
    rw [indGet_indStart]
    rfl
  case dataWrite =>
    intro s req off k v hk ha hp hw hc
    exact ⟨_, exec_indDataWrite hk hw hc ha hp v, indStart_out .., indStart_busy .., (indStart_k ..).keeps.weak rfl⟩
  case cmdRead =>
    intro s req off k v hk ha hp hw hv hc
    exact ⟨_, exec_indCmdRead hk hw hc ha hp hv, indStart_out .., indStart_busy .., (indStart_k ..).keeps.weak rfl⟩
  case answer =>
    intro s k word op hd hc hw hread hr hh hl
    refine ⟨_, exec_indDomainAnswer_read hc hr hw hread hd hh hl word, ?_, indFreed_busy .., indFreed_cur .., ?_⟩
    · exact (indFreed_rd _ k (indRdata_ne_indStat k)).trans (rd_wr_same ..)
    · exact (Keeps.refl.set_regs rfl).after (indFreed_keeps ..) rfl
  case refused =>
    intro s k word op hc hw hread hr
    refine ⟨_, exec_indDomainAnswer_refused hc hr hw hread word, ?_, indFreed_busy .., ?_⟩
    · exact (indFreed_rd _ k (indRdata_ne_indStat k)).trans (rd_wr_same ..)
    · rw [indFreed_status _ k (by decide) (by decide), rdF_eq (rd_wr_ne _ _ (indRdata_ne_indStat k).symm)]
      exact rdF_wrF_same _ _ _ _ _ (by decide)
  case overrun =>
    intro s k op w rest hc hr hw ht
    have hk : Keeps [.out] _ (indReply (wrF (indPut s k { indGet s k with waiting := rest }) (indStat k) 3 1 1) k w 0) := (indReply_k ..).keeps
    refine ⟨_, exec_indOverrun hc hr hw ht, ?_, ?_, ?_, ?_⟩
    · simp
    · simpa using hc
    · exact (rdF_eq (rd_regs (hk.regs rfl) _)).trans (rdF_wrF_same _ _ _ _ _ (by decide))
    · exact Keeps.after ((Keeps.refl.set_acc rfl).set_regs rfl) hk rfl
  case timeout =>
    intro s k op hc hr hw ht
    refine ⟨_, exec_indTimeout hc hr hw ht, indFreed_cur .., indFreed_busy .., ?_, (Keeps.refl.set_regs rfl).after (indFreed_keeps ..) rfl⟩
    rw [indFreed_status _ k (by decide) (by decide)]
    exact rdF_wrF_same _ _ _ _ _ (by decide)

end Sys2Proof.Machine
end

section
/-! PROOFS. Commands to functions (O8): the record of a function and its configuration words, the words with rules of their own, and
the commands over them. -/

namespace Sys2Proof.Machine

/-! The record of a function. -/

@[simp] theorem fnGet_fnSet (s : State) (link fnum : Nat) (f : FnSt) : fnGet (fnSet s link fnum f) link fnum = f := agetD_aset_same ..
@[simp] theorem fnGet_raise (s : State) (src : Nat) (fs : List EvField) (link fnum : Nat) : fnGet (raise s src fs) link fnum = fnGet s link fnum :=
  fnGet_host ((raise_k s src fs).keeps.host rfl) link fnum
@[simp] theorem fnGet_raisePhase (s : State) (src form : Nat) (fs : List EvField) (link fnum : Nat) :
    fnGet (raisePhase s src form fs) link fnum = fnGet s link fnum :=
  fnGet_host ((raisePhase_k s src form fs).keeps.host rfl) link fnum
/-- A change of a function with its event. -/
theorem raise_fnUpd_keeps (s : State) (link fnum : Nat) (g : FnSt → FnSt) (src : Nat) (fs : List EvField) :
    Keeps [.regs, .ev, .host] s (raise (fnUpd s link fnum g) src fs) :=
  (fnUpd_k ..).keeps.after' (raise_k ..).keeps rfl

theorem cfg_cfgSet_same (s : State) (link fnum off v : Nat) : aget (fnGet (cfgSet s link fnum off v) link fnum).cfg off = some v :=
  (congrArg (fun f => aget (FnSt.cfg f) off) (fnGet_fnUpd ..)).trans (aget_aset_same ..)
theorem cfg_cfgSet_ne (s : State) (link fnum : Nat) {off x : Nat} (v : Nat) (h : x ≠ off) :
    aget (fnGet (cfgSet s link fnum off v) link fnum).cfg x = aget (fnGet s link fnum).cfg x :=
  (congrArg (fun f => aget (FnSt.cfg f) x) (fnGet_fnUpd ..)).trans (aget_aset_ne _ _ h)

/-! Configuration writes (R99). -/

/-- A TDISP interface that is not locked forbids nothing (R127). -/
theorem tdispBreak_unlocked {s : State} {link fnum : Nat} (h : tdispLocked (fnGet s link fnum) = false) : tdispBreak s link fnum = s :=
  if_neg (ne_true_of_eq_false h)
/-- A write of a word without a rule of its own stores by its writable bits alone. -/
theorem cfgWrite_plain {fnum off : Nat} (hr : rebarOf off = none) (hm : cfgMask fnum off ≠ (0, 0))
    (ho : off ∉ [0x04, 0x44, 0x58, 0x78, 0x90, 0x158, 0x160, 0x208, 0x3C8]) (s : State) (link be v : Nat) :
    cfgWrite s link fnum off be v = cfgSet s link fnum off
      (mergeWord (cfgSee s link fnum off) ((cfgMask fnum off).1 &&& beMask be) ((cfgMask fnum off).2 &&& beMask be) v) := by
  simp only [List.mem_cons, List.not_mem_nil, or_false, not_or] at ho
  obtain ⟨h04, h44, h58, h78, h90, h158, h160, h208, h3C8⟩ := ho
  have hlock : ∀ old new flr, lockForbids off old new flr = false := fun old new flr => by simp [lockForbids, h04, h44, h58, h78, h3C8]
  have hmask : ¬ ((cfgMask fnum off).1 = 0 ∧ (cfgMask fnum off).2 = 0) := fun h => hm (Prod.ext h.1 h.2)
  -- the rows of the words with rules of their own are excluded by the inequalities above
  simp [cfgWrite, hr, hlock, hmask, h58, h90]
theorem exec_configWrite {s : State} {link fnum off : Nat} (ha : fnAnswers s link fnum = true) (h4 : off % 4 = 0) (hl : off < 4096) (be v : Nat) :
    exec (.configWrite link fnum off be v) s = .next (cfgWrite s link fnum off be (v % 2 ^ 32)) :=
  congrArg Host.Outcome.next (if_pos (by simp [ha, h4, hl]))

/-! Bus Master Enable, PowerState and Function Level Reset (R100, R115, R116, R118). -/

section
variable {s : State} {link fnum : Nat} (ha : fnAnswers s link fnum = true)
include ha

theorem exec_busMasterDisable (hb : fnBme (fnGet s link fnum) fnum = true) (ht : tdispLocked (fnGet s link fnum) = false) :
    exec (.busMasterDisable link fnum) s =
      .next (fnStall (raise (cfgBit s link fnum 0x04 2 false) (hlSrc link 4) [(4, fnum), (4, 0)]) link fnum) := by
  refine congrArg Host.Outcome.next ((if_pos ha).trans ?_)
  rw [if_pos hb, tdispBreak_unlocked ht]
  exact if_neg (by simp [hb])
theorem exec_busMasterEnable (hb : fnBme (fnGet s link fnum) fnum = false) :
    exec (.busMasterEnable link fnum) s =
      .next (fnWake (raise (cfgBit s link fnum 0x04 2 true) (hlSrc link 4) [(4, fnum), (4, 1)]) link fnum) :=
  congrArg Host.Outcome.next ((if_pos ha).trans (if_neg (by simp [hb])))
theorem exec_d3hotEntry (hd : fnD3 (fnGet s link fnum) fnum = false) (ht : tdispLocked (fnGet s link fnum) = false) :
    exec (.d3hotEntry link fnum) s =
      .next (fnStall (raise (cfgSet s link fnum 0x44 (putFld (cfgRd fnum (fnGet s link fnum) 0x44) 0 2 3)) (hlSrc link 15) [(4, fnum), (4, 3)]) link fnum) := by
  refine congrArg Host.Outcome.next ((if_pos ha).trans ?_)
  rw [tdispBreak_unlocked ht]
  exact if_neg (beq_eq_false_iff_ne.mp hd)
theorem exec_d3hotExit (hd : fnD3 (fnGet s link fnum) fnum = true) :
    exec (.d3hotExit link fnum) s =
      .next (fnWake (raise (cfgSet s link fnum 0x44 (putFld (cfgRd fnum (fnGet s link fnum) 0x44) 0 2 0)) (hlSrc link 15) [(4, fnum), (4, 0)]) link fnum) := by
  have h3 : fld (cfgRd fnum (fnGet s link fnum) 0x44) 0 2 = 3 := eq_of_beq hd
  exact congrArg Host.Outcome.next ((if_pos ha).trans (if_neg (by omega)))

/-- The state in which a reset of a VF runs: its slices are reset with it, and the present elapsed time is its start. -/
def flrStarted (s : State) (link fnum : Nat) : State :=
  fnUpd (fnClear (raisePhase s (hlSrc link 3) 3 [(4, fnum), (4, 0)]) link fnum 3) link fnum (fun f => { f with flr := some s.time.elapsed })
theorem exec_functionLevelReset_vf (h0 : fnum ≠ 0) : exec (.functionLevelReset link fnum) s = .next (flrStarted s link fnum) := by
  refine congrArg Host.Outcome.next ((if_pos ha).trans ((if_neg h0).trans ?_))
  rw [(raisePhase_k ..).keeps.time rfl]
  rfl

end

theorem flrStarted_flr (s : State) (link fnum : Nat) : (fnGet (flrStarted s link fnum) link fnum).flr = some s.time.elapsed :=
  congrArg FnSt.flr (fnGet_fnUpd ..)

/-- The state in which the reset of a function has ended, with its event. -/
def flrEnded (s : State) (link fnum : Nat) : State :=
  raisePhase (fnUpd s link fnum (fun f => { f with flr := none })) (hlSrc link 3) 4 [(4, fnum), (4, 1)]
theorem exec_flrEnd {s : State} {link fnum : Nat} (hn : fnum < 256) (hf : (fnGet s link fnum).flr.isSome = true) (hd : flrDone s link fnum = true) :
    exec (.flrEnd link fnum) s = .next (flrEnded s link fnum) :=
  congrArg Host.Outcome.next (if_pos (by simp [hn, hf, hd]))
theorem fnGet_flrEnded (s : State) (link fnum : Nat) : fnGet (flrEnded s link fnum) link fnum = { fnGet s link fnum with flr := none } :=
  (fnGet_raisePhase ..).trans (fnGet_fnUpd ..)
theorem flrEnded_keeps (s : State) (link fnum : Nat) : Keeps [.regs, .ev, .host] s (flrEnded s link fnum) :=
  (fnUpd_k ..).keeps.after' (raisePhase_k ..).keeps rfl

/-! VFs and BAR sizes (R101, R103, R119). -/

/-- VF Enable changes, whatever happens to NumVFs. -/
theorem exec_vfEnableChange {s : State} {link : Nat} {on : Bool} (ha : fnAnswers s link 0 = true)
    (hc : putFld (cfgRd 0 (fnGet s link 0) 0x158) 0 1 (b2n on) ≠ cfgRd 0 (fnGet s link 0) 0x158) (num : Nat) :
    exec (.vfEnableChange link on num) s =
      .next (vfChange (cfgSet (cfgSet s link 0 0x158 (putFld (cfgRd 0 (fnGet s link 0) 0x158) 0 1 (b2n on))) link 0 0x160
        (putFld (cfgRd 0 (fnGet s link 0) 0x160) 0 16 num)) link) :=
  congrArg Host.Outcome.next ((if_neg (by simp [ha])).trans (if_neg (by simp [hc])))

/-- A function with the size of a BAR of PF0 given, as its base-2 logarithm. -/
def barGiven (bar log : Nat) (f : FnSt) : FnSt := if bar = 2 then { f with bar2 := log } else { f with bar4 := log }
theorem barLog_barGiven (bar log : Nat) (f : FnSt) : barLog (barGiven bar log f) false bar = log := by
  simp only [barLog, barGiven, Bool.false_eq_true, if_false]
  split <;> rfl
theorem exec_barResize {s : State} {link bar log : Nat} (ha : fnAnswers s link 0 = true) (hb : bar = 2 ∨ bar = 4) (ho : barOk false bar log = true)
    (hl : barLog (fnGet s link 0) false bar ≠ log) (hm : fnMse s link 0 = false) :
    exec (.barResize link false bar log) s =
      .next (raise (fnUpd s link 0 (barGiven bar log)) (hlSrc link 11) [(4, 0), (4, bar), (4, 2 ^ (log - 20))]) := by
  refine congrArg Host.Outcome.next ((if_pos ha).trans ((if_neg ?_).trans (if_neg ?_)))
  · simp only [ho, hl, b2n, hm, Bool.not_true, Bool.or_false, decide_false, Bool.false_eq_true, if_false, Bool.and_eq_true, decide_eq_true_eq]
    omega
  · exact Bool.false_ne_true

/-! The MSI-X table (R112, R114). -/

/-- While MSI-X is disabled no pending vector goes out. -/
theorem releasePending_disabled {s : State} {link fnum : Nat} (h : fnMsixEn (fnGet s link fnum) fnum = false) : releasePending s link fnum = s :=
  if_pos (by simp [h])
theorem exec_msixTableWrite {s : State} {link fnum idx word : Nat} (hp : linkPresent s link = true) (hu : linkUp s link = true) (hn : fnum < 256)
    (hd : fnDecodes s link fnum = true) (hi : idx < (fnGet s link fnum).msixAlloc) (hw : word ≤ 3) (he : fnMsixEn (fnGet s link fnum) fnum = false) (be v : Nat) :
    exec (.msixTableWrite link fnum idx word be v) s =
      .next (fnUpd s link fnum (fun f => { f with msix := aset f.msix idx (msixPut (agetD f.msix idx {}) word be v) })) := by
  refine congrArg Host.Outcome.next ((if_neg ?_).trans ((if_neg ?_).trans ((if_neg ?_).trans (releasePending_disabled ?_))))
  · simp [hp, hu, hn]
  · simp [hd]
  · simp only [Bool.or_eq_true, decide_eq_true_eq]
    omega
  · rw [fnGet_fnSet]
    exact he

/-- Settles O8: each command answers the state that its lemma names, and what that state holds is read off. The offsets and writable
bits of configuration space are those of log entry 20, the Function field of the events and what TDISP forbids those of entry 23. -/
theorem functionCommandsComplete : Obligations.FunctionCommandsComplete := by
  unfold Obligations.FunctionCommandsComplete
  refine ⟨?config, ?disable, ?enable, ?entry, ?exit, ?flr, ?flrEnd, ?vf, ?bar, ?msix⟩
  case config =>
    intro s link fnum off be v ha h4 hl hr hm ho
    exact ⟨_, (exec_configWrite ha h4 hl be v).trans (congrArg Host.Outcome.next (cfgWrite_plain hr hm ho s link be _)), cfg_cfgSet_same ..,
      fun x hx => cfg_cfgSet_ne s link fnum _ hx, (cfgSet_k ..).keeps⟩
  case disable => exact fun s link fnum ha hb ht => exec_busMasterDisable ha hb ht
  case enable => exact fun s link fnum ha hb => exec_busMasterEnable ha hb
  case entry => exact fun s link fnum ha hd ht => exec_d3hotEntry ha hd ht
  case exit => exact fun s link fnum ha hd => exec_d3hotExit ha hd
  case flr => exact fun s link fnum ha h0 => ⟨_, exec_functionLevelReset_vf ha h0, flrStarted_flr ..⟩
  case flrEnd => exact fun s link fnum hn hf hd => ⟨_, exec_flrEnd hn hf hd, fnGet_flrEnded .., flrEnded_keeps ..⟩
  case vf => exact fun s link num on ha hc => exec_vfEnableChange ha hc num
  case bar =>
    intro s link bar log ha hb ho hl hm
    refine ⟨_, exec_barResize ha hb ho hl hm, ?_, raise_fnUpd_keeps ..⟩
    rw [fnGet_raise, fnGet_fnUpd, barLog_barGiven]
  case msix =>
    intro s link fnum idx word be v hp hu hn hd hi hw he
    refine ⟨_, exec_msixTableWrite hp hu hn hd hi hw he be v, ?_, (fnUpd_k ..).keeps⟩
    rw [fnGet_fnUpd, agetD_aset_same]

end Sys2Proof.Machine
end

section
/-! PROOFS. Events of host links and accesses through them (O9): what showing a link leaves in its status, reads of host memory and
their tags, peer windows, the settings of functions, and the security messages of a link. -/

namespace Sys2Proof.Machine

/-! Links (R120, R121). -/

theorem linkPresent_lt {s : State} {link : Nat} (h : linkPresent s link = true) : link < 16 :=
  of_decide_eq_true (Bool.and_eq_true_iff.mp h).1
theorem hfLink_ne_lost (link : Nat) : hfLink link ≠ Reg.OZ_EV_LOST_CNT := by
  unfold hfLink Reg.OZ_EV_LOST_CNT
  omega
theorem hfLink_ne_face (link : Nat) : hfLink link ≠ Reg.HF_FACE_STATUS (link / 4) := by
  unfold hfLink Reg.HF_FACE_STATUS
  omega
/-- Showing a link leaves its status to the four field writes. -/
theorem rd_linkShow (s : State) (link up rate width flit : Nat) :
    rd (linkShow s link up rate width flit) (hfLink link) =
      rd (wrF (wrF (wrF (wrF s (hfLink link) 0 1 up) (hfLink link) 1 3 rate) (hfLink link) 4 5 width) (hfLink link) 9 1 flit) (hfLink link) :=
  rd_wrF_ne _ _ _ _ (hfLink_ne_face link)
theorem linkShow_up (s : State) (link up rate width flit : Nat) : rdF (linkShow s link up rate width flit) (hfLink link) 0 1 = up % 2 ^ 1 := by
  rw [rdF_eq (rd_linkShow ..), rdF_wrF_other _ _ _ _ _ _ _ (by decide) (by decide), rdF_wrF_other _ _ _ _ _ _ _ (by decide) (by decide),
    rdF_wrF_other _ _ _ _ _ _ _ (by decide) (by decide), rdF_wrF_same _ _ _ _ _ (by decide)]
theorem linkShow_rate (s : State) (link up rate width flit : Nat) : rdF (linkShow s link up rate width flit) (hfLink link) 1 3 = rate % 2 ^ 3 := by
  rw [rdF_eq (rd_linkShow ..), rdF_wrF_other _ _ _ _ _ _ _ (by decide) (by decide), rdF_wrF_other _ _ _ _ _ _ _ (by decide) (by decide),
    rdF_wrF_same _ _ _ _ _ (by decide)]
theorem linkShow_width (s : State) (link up rate width flit : Nat) : rdF (linkShow s link up rate width flit) (hfLink link) 4 5 = width % 2 ^ 5 := by
  rw [rdF_eq (rd_linkShow ..), rdF_wrF_other _ _ _ _ _ _ _ (by decide) (by decide), rdF_wrF_same _ _ _ _ _ (by decide)]

section
variable {s : State} {link : Nat} (hp : linkPresent s link = true)
include hp

theorem exec_perstAssert (hn : linkPerst s link = false) :
    exec (.perstAssert link) s = .next (linkReset (raise (wrF s (hfLink link) 10 1 1) (hlSrc link 1) [(4, 0)]) link) :=
  congrArg Host.Outcome.next (if_pos (by simp [hp, hn]))
theorem exec_perstDeassert (hn : linkPerst s link = true) :
    exec (.perstDeassert link) s = .next (raise (wrF s (hfLink link) 10 1 0) (hlSrc link 1) [(4, 1)]) :=
  congrArg Host.Outcome.next (if_pos (by simp [hp, hn]))
theorem exec_hotResetReceived (hu : linkUp s link = true) : exec (.hotResetReceived link) s = .next (linkReset (raise s (hlSrc link 2) []) link) :=
  congrArg Host.Outcome.next (if_pos (by simp [hp, hu]))
theorem exec_hostLinkDown (hu : linkUp s link = true) : exec (.hostLinkDown link) s = .next (linkReset s link) :=
  congrArg Host.Outcome.next (if_pos (by simp [hp, hu]))
theorem exec_tagWaitEnd : exec (.tagWaitEnd link) s = .next (showTags (issueAll s link [] s.host.reqs) link) :=
  congrArg Host.Outcome.next (if_pos hp)

end

theorem perst_released (s : State) (link src : Nat) (fs : List EvField) : rdF (raise (wrF s (hfLink link) 10 1 0) src fs) (hfLink link) 10 1 = 0 :=
  (rdF_eq (raise_rd _ _ _ (hfLink_ne_lost link))).trans (rdF_wrF_same _ _ _ _ _ (by decide))

/-- The state in which a link is up, with its event; while READY is set, DRS goes out (R121, log entry 23). -/
def linkRisen (s : State) (link rate width : Nat) (flit : Bool) : State :=
  let u := raise (linkShow s link 1 rate width (b2n flit)) (hlSrc link 0) [(4, rate), (4, width), (4, b2n flit)]
  if rdF u Reg.GL_DEVICE_READY 0 1 = 1 then emit u (.linkMsg link "DRS" []) else u
theorem rd_linkRisen (s : State) (link rate width : Nat) (flit : Bool) :
    rd (linkRisen s link rate width flit) (hfLink link) = rd (linkShow s link 1 rate width (b2n flit)) (hfLink link) :=
  have hk : Keeps [.out] (raise (linkShow s link 1 rate width (b2n flit)) (hlSrc link 0) [(4, rate), (4, width), (4, b2n flit)]) (linkRisen s link rate width flit) :=
    Keeps.ite (Keeps.refl.set_out rfl) Keeps.refl
  (rd_regs (hk.regs rfl) _).trans (raise_rd _ _ _ (hfLink_ne_lost link))
theorem linkRisen_keeps (s : State) (link rate width : Nat) (flit : Bool) : Keeps [.regs, .ev, .out] s (linkRisen s link rate width flit) :=
  have hu := (linkShow_k ..).keeps.after' (raise_k ..).keeps rfl
  Keeps.ite (hu.set_out rfl) hu
/-- A link comes up only while the supplies are good, at a rate and a width that it has, and in flit mode at the rates that need it (R95). -/
theorem exec_hostLinkUp {s : State} {link rate width : Nat} {flit : Bool} (hg : s.oz.good = true) (ht : s.oz.tripped = false) (hd : s.oz.down = none)
    (hp : linkPresent s link = true) (hu : linkUp s link = false) (hn : linkPerst s link = false) (h1 : 1 ≤ rate) (h7 : rate ≤ 7)
    (hw : width ∈ [1, 2, 4, 8, 16]) (hl : width ≤ linkLanes s link) (hf : 6 ≤ rate → flit = true) :
    exec (.hostLinkUp link rate width flit) s = .next (linkRisen s link rate width flit) := by
  have hflit : ¬ (6 ≤ rate ∧ flit = false) := fun h => by simp [hf h.1] at h
  refine congrArg Host.Outcome.next (if_neg ?_)
  simp only [hg, ht, hd, hp, hu, hn, hw, hflit, Bool.or_eq_true, Bool.and_eq_true, Bool.not_eq_true', decide_eq_true_eq, decide_true, Option.isSome_none,
    Bool.not_true, Bool.false_eq_true, or_false, false_or]
  omega

/-! Reads of host memory (R105, R107). -/

/-- A read of which requests are still to complete goes on. -/
theorem readDue_open {s : State} {id : Nat} {h : HRead} (hr : aget s.host.reads id = some h) (hl : h.left ≠ 0) (hf : h.failed = none) : readDue s id = s := by
  simp [readDue, hr, hl, hf]
/-- The state in which a piece of the data of a request, not its last, is placed in its read `h`. -/
def piecePlaced (s : State) (r : RdReq) (h : HRead) (tag : Nat) (bs : List Byte) : State :=
  { s with host := { s.host with
      reqs := s.host.reqs.map (fun q => if q.link = r.link && q.tag = some tag then { q with got := r.got + bs.length } else q)
      reads := aset s.host.reads r.read { h with data := patch h.data (r.addr - h.addr + r.got) bs } } }
theorem readPiece_open {s : State} {r : RdReq} {h : HRead} {bs : List Byte} (hb : r.got + bs.length < r.len) (hd : r.discard = false) (hq : r.quarantine = false)
    (hr : aget s.host.reads r.read = some h) (hl : h.left ≠ 0) (hf : h.failed = none) (tag : Nat) : readPiece s r tag bs = piecePlaced s r h tag bs := by
  have hlast : ¬ r.got + bs.length = r.len := by omega
  simp only [readPiece, hlast, hd, hq, hr, Bool.or_self, Bool.false_eq_true, if_false]
  exact readDue_open (aget_aset_same ..) hl hf
theorem exec_hostReadCompletion_open {s : State} {link tag : Nat} {bs : List Byte} {r : RdReq} {h : HRead} (ht : tagReq s link tag = some r)
    (hp : pieceOk r bs.length = true) (hb : r.got + bs.length < r.len) (hd : r.discard = false) (hq : r.quarantine = false)
    (hr : aget s.host.reads r.read = some h) (hl : h.left ≠ 0) (hf : h.failed = none) :
    exec (.hostReadCompletion link tag (.ok bs)) s = .next (piecePlaced s r h tag bs) := by
  refine congrArg Host.Outcome.next ?_
  rw [ht]
  exact (if_pos hp).trans (readPiece_open hb hd hq hr hl hf tag)
theorem piecePlaced_keeps (s : State) (r : RdReq) (h : HRead) (tag : Nat) (bs : List Byte) : Keeps [.host] s (piecePlaced s r h tag bs) :=
  Keeps.refl.set_host rfl

theorem tagFree_reads (s : State) (link tag : Nat) : (tagFree s link tag).host.reads = s.host.reads :=
  (congrArg HostSt.reads ((showTags_k _ link).keeps.host rfl)).trans rfl
theorem exec_completionTimeout {s : State} {link tag : Nat} {r : RdReq} {h : HRead} (ht : tagReq s link tag = some r) (hd : r.deadline ≤ s.time.elapsed)
    (hc : r.discard = false) (hq : r.quarantine = false) (hr : aget s.host.reads r.read = some h) :
    exec (.completionTimeout link tag) s = .next (readFail (readTimeout (tagFree s link tag) link r.fnum tag) r STS_HOST_TIMEOUT) := by
  refine congrArg Host.Outcome.next ?_
  rw [ht]
  exact (if_neg (Nat.not_lt.mpr hd)).trans (if_neg (by simp [hc, hq, tagFree_reads, hr]))

/-! Peer windows (R123 to R125). -/

/-- A slice of whose GDDR7 the bytes from `a` on are written: the MiB that they touch count as written (R228). -/
def gmWritten (x : Slice) (a len : Nat) : Slice :=
  { x with written := (List.range ((a + len - 1) / mib - a / mib + 1)).foldl (fun l k => insNat (a / mib + k) l) x.written }
/-- The state after a peer-window write of the GDDR7 of slice `n`, which is `x`, at `a`. -/
def gmStored (s : State) (n : Nat) (x : Slice) (a : Nat) (bs : List Byte) : State :=
  store { s with slices := aset s.slices n (gmWritten x a bs.length) } (gmBase n + a) bs
theorem gmStored_keeps (s : State) (n : Nat) (x : Slice) (a : Nat) (bs : List Byte) : Keeps [.mem, .slices] s (gmStored s n x a bs) :=
  (Keeps.refl.set_slices rfl).set_mem rfl

section
variable {s : State} {link fnum addr n : Nat} {bs : List Byte} {w : PeerWin} {x : Slice} (hk : w.kind = 0) (hs : winSlice s link fnum = some (n, x))
  (hl : w.target + (addr - w.baseMb * mib) + bs.length ≤ agetD x.limits 7 0 * mib) (hx : x.state ≠ 2)
include hk hs hl hx

/-- A local window reaches the slice's GDDR7 within its limit (log entry 22). -/
theorem winGo_store : winGo s link fnum addr w true bs.length bs = gmStored s n x (w.target + (addr - w.baseMb * mib)) bs := by
  refine (if_pos hk).trans ?_
  rw [hs]
  exact (if_neg (by simp [Nat.not_lt.mpr hl, hx])).trans (if_pos rfl)
theorem exec_peerWindowRequest_store (hp : linkPresent s link = true) (hu : linkUp s link = true) (hn : fnum < 256) (hd : fnDecodes s link fnum = true)
    (hm : mib ≤ addr) (h1 : 1 ≤ bs.length) (h4 : bs.length ≤ 4096) (hb : addr + bs.length ≤ 2 ^ bar4Log s link fnum)
    (hw : winOf (fnGet s link fnum) addr = some w) (he : addr + bs.length ≤ (w.baseMb + w.sizeMb) * mib) (hwr : w.wrEn = true) :
    exec (.peerWindowRequest link fnum true addr bs.length bs) s = .next (gmStored s n x (w.target + (addr - w.baseMb * mib)) bs) := by
  refine congrArg Host.Outcome.next ((if_neg ?_).trans ((if_neg ?_).trans ?_))
  · simp only [hp, hu, Bool.or_eq_true, decide_eq_true_eq, Bool.not_true, Bool.false_eq_true, false_or, ne_eq, not_true_eq_false, decide_false, Bool.and_false, or_false]
    omega
  · simp [hd, hb]
  · rw [hw]
    exact (if_neg (by simp [he, hwr])).trans (winGo_store hk hs hl hx)

end

/-- A function whose shadow set has become its live set; the accesses under the former one are to drain (R124). -/
def winSwapped (f : FnSt) : FnSt :=
  { f with live := f.shadow, winGen := (f.winGen + 1) % 2 ^ 32, oldBusy := f.winBusy, winBusy := 0, drained := false }
/-- The state in which the function that a face selects has swapped its windows, with the event. -/
def winSwapDone (s : State) (link fnum : Nat) : State :=
  raise (fnUpd s link fnum winSwapped) (hlSrc link 8) [(4, fnum), (4, ((fnGet s link fnum).winGen + 1) % 2 ^ 32)]
theorem fnGet_winSwapDone (s : State) (link fnum : Nat) : fnGet (winSwapDone s link fnum) link fnum = winSwapped (fnGet s link fnum) :=
  (fnGet_raise ..).trans (fnGet_fnUpd ..)
theorem exec_winSwap {s : State} {req : Requester} {face : Nat} {v : W32} (hf : face < 4) (hp : Passes s req (Reg.HF_WIN_SWAP face) false)
    (hl : linkPresent s (selFn s face).1 = true) (hgo : rbit v 0 = true) (hc : rbit v 2 = false)
    (hd : (fnGet s (selFn s face).1 (selFn s face).2).drained = true) (hb : winsBad (fnGet s (selFn s face).1 (selFn s face).2) = false)
    (ht : tdispLocked (fnGet s (selFn s face).1 (selFn s face).2) = false) :
    exec (.winSwap req 15 face v) s = .next (winSwapDone s (selFn s face).1 (selFn s face).2) := by
  refine congrArg Host.Outcome.next ((if_pos hf).trans ((gate_open hp).trans ?_))
  simp only [winSwapWrite, hl, hgo, hc, hd, hb, ht, Bool.not_true, Bool.or_self, Bool.false_eq_true, if_false]
  rfl

/-- The state in which the accesses under a function's former windows have ended, with the event. -/
def winDrained (s : State) (link fnum : Nat) : State :=
  raise (fnUpd s link fnum (fun f => { f with drained := true })) (hlSrc link 9) [(4, fnum), (4, (fnGet s link fnum).winGen)]
theorem exec_winOldDrained {s : State} {link fnum : Nat} (hn : fnum < 256) (hd : (fnGet s link fnum).drained = false) (ho : (fnGet s link fnum).oldBusy = 0) :
    exec (.winOldDrained link fnum) s = .next (winDrained s link fnum) :=
  congrArg Host.Outcome.next (if_neg (by simp [hn, hd, ho]))
theorem fnGet_winDrained (s : State) (link fnum : Nat) : fnGet (winDrained s link fnum) link fnum = { fnGet s link fnum with drained := true } :=
  (fnGet_raise ..).trans (fnGet_fnUpd ..)

/-! Settings of functions (R113). -/

/-- A function with its vectors and its personality as a word of HF_FN_CFG gives them. -/
def fnConfigured (v : W32) (f : FnSt) : FnSt :=
  { f with msixAlloc := rfld v 0 12, nvme := rbit v 16, msix := f.msix.filter (fun e => e.1 < rfld v 0 12) }
theorem exec_fnCfgWrite {s : State} {req : Requester} {face : Nat} {v : W32} (hf : face < 4) (hp : Passes s req (Reg.HF_FN_CFG face) false)
    (hl : linkPresent s (selFn s face).1 = true) (hn : rfld v 0 12 ≤ 2048)
    (ht : msixTotal s - (fnGet s (selFn s face).1 (selFn s face).2).msixAlloc + rfld v 0 12 ≤ 131072)
    (he : fnMsixEn (fnGet s (selFn s face).1 (selFn s face).2) (selFn s face).2 = false)
    (hd : (fnGet s (selFn s face).1 (selFn s face).2).enabled = false) (hk : tdispLocked (fnGet s (selFn s face).1 (selFn s face).2) = false) :
    exec (.fnCfgWrite req 15 face v) s = .next (fnUpd s (selFn s face).1 (selFn s face).2 (fnConfigured v)) := by
  refine congrArg Host.Outcome.next ((if_pos hf).trans ((gate_open hp).trans ((if_neg ?present).trans ((if_neg ?total).trans ((if_neg ?vectors).trans
    ((if_neg ?busy).trans (if_neg ?locked)))))))
  case present => simp [hl]
  case total => simp [Nat.not_lt.mpr ht]
  case vectors => exact Nat.not_lt.mpr hn
  case busy => simp [he, hd]
  case locked => simp [hk]

/-! IDE and SPDM (R126). -/

theorem headerLog_ide (s : State) (link fnum : Nat) : (headerLog s link fnum).host.ide = s.host.ide :=
  List.foldlRecOn (motive := fun u : State => u.host.ide = s.host.ide) _ _ rfl (fun _ hu _ _ => hu)
/-- The log of an error leaves the states of the streams alone. -/
theorem aerLog_ide (s : State) (link fnum bit : Nat) : (aerLog s link fnum bit).host.ide = s.host.ide := by
  unfold aerLog
  dsimp only
  rw [(raise_k ..).keeps.host rfl]
  split
  · rw [headerLog_ide]
    split <;> rfl
  · split <;> rfl
theorem ideTo_ide {s : State} {link k st : Nat} (h : agetD s.host.ide (link * 4 + k) 0 ≠ st) : agetD (ideTo s link k st).host.ide (link * 4 + k) 0 = st := by
  rw [ideTo, if_neg h, (raise_k ..).keeps.host rfl]
  exact agetD_aset_same ..
/-- The codes of a stream's states, 1 secure and 2 insecure, are those of log entry 23. -/
theorem exec_ideCheckFail {s : State} {link k : Nat} (hp : linkPresent s link = true) (hk : k < 4) (hi : agetD s.host.ide (link * 4 + k) 0 = 1) :
    exec (.ideCheckFail link k) s = .next (ideTo (aerLog s link 0 28) link k 2) := by
  refine congrArg Host.Outcome.next ((if_neg ?_).trans (if_pos ?_))
  · simp [hp, hk]
  · rw [aerLog_ide, hi]

theorem fnAnswers_present {s : State} {link fnum : Nat} (h : fnAnswers s link fnum = true) : linkPresent s link = true := by
  simp only [fnAnswers, Bool.and_eq_true] at h
  obtain ⟨⟨⟨⟨⟨hp, -⟩, -⟩, -⟩, -⟩, -⟩ := h
  exact hp
/-- A plain message on an interface that exists is answered with code 0 (log entry 35). -/
theorem mgmtMsg_plain {s : State} {iface : Nat} (hr : ozRunning s = true) (hlc : s.oz.lc ≠ 3) (hi : iface < 18) : mgmtMsg s iface .plain = answer s iface 0 :=
  if_neg (by simp [hr, hlc, hi])
theorem exec_spdmRequest_plain {s : State} {link : Nat} (ha : fnAnswers s link 0 = true) (hr : ozRunning s = true) (hlc : s.oz.lc ≠ 3) :
    exec (.spdmRequest link .plain) s = .next (answer s (2 + link) 0) := by
  have hlt : link < 16 := linkPresent_lt (fnAnswers_present ha)
  exact congrArg Host.Outcome.next ((if_neg (by simp [ha, hr, hlc])).trans (mgmtMsg_plain hr hlc (by omega)))

/-- Settles O9: each command answers the state that its lemma names, and what that state shows is read off. The slice of a window is
that of log entry 22, the codes of a stream those of entry 23, and the bytes of a reply those of entry 35. -/
theorem hostLinkCommandsComplete : Obligations.HostLinkCommandsComplete := by
  unfold Obligations.HostLinkCommandsComplete
  refine ⟨?assert, ?deassert, ?reset, ?up, ?completion, ?timeout, ?tags, ?window, ?swap, ?drained, ?config, ?ide, ?spdm⟩
  case assert => exact fun s link hp hn => exec_perstAssert hp hn
  case deassert => exact fun s link hp hn => ⟨_, exec_perstDeassert hp hn, perst_released .., (Keeps.refl.set_regs rfl).after (raise_k ..).keeps rfl⟩
  case reset => exact fun s link hp hu => ⟨exec_hotResetReceived hp hu, exec_hostLinkDown hp hu⟩
  case up =>
    intro s link rate width flit hg ht hd hp hu hn h1 h7 hw hl hf
    have hw32 : width < 32 := by
      simp only [List.mem_cons, List.not_mem_nil, or_false] at hw
      omega
    have hshow := rd_linkRisen s link rate width flit
    exact ⟨_, exec_hostLinkUp hg ht hd hp hu hn h1 h7 hw hl hf, (rdF_eq hshow).trans (linkShow_up ..),
      ((rdF_eq hshow).trans (linkShow_rate ..)).trans (Nat.mod_eq_of_lt (by omega)),
      ((rdF_eq hshow).trans (linkShow_width ..)).trans (Nat.mod_eq_of_lt hw32), linkRisen_keeps ..⟩
  case completion =>
    intro s link tag bs r h ht hp hb hd hq hr hl hf
    exact ⟨_, exec_hostReadCompletion_open ht hp hb hd hq hr hl hf, aget_aset_same .., piecePlaced_keeps ..⟩
  case timeout => exact fun s link tag r h ht hd hc hq hr => exec_completionTimeout ht hd hc hq hr
  case tags => exact fun s link hp => exec_tagWaitEnd hp
  case window =>
    intro s link fnum addr n bs w x hp hu hn hd hm h1 h4 hb hw he hwr hk hs hl hx
    exact ⟨_, exec_peerWindowRequest_store hk hs hl hx hp hu hn hd hm h1 h4 hb hw he hwr, rfl, gmStored_keeps ..⟩
  case swap =>
    intro s req face v hf hp hl hgo hc hd hb ht
    exact ⟨_, exec_winSwap hf hp hl hgo hc hd hb ht, fnGet_winSwapDone .., raise_fnUpd_keeps ..⟩
  case drained => exact fun s link fnum hn hd ho => ⟨_, exec_winOldDrained hn hd ho, fnGet_winDrained .., raise_fnUpd_keeps ..⟩
  case config =>
    intro s req face v hf hp hl hn ht he hd hk
    refine ⟨_, exec_fnCfgWrite hf hp hl hn ht he hd hk, ?_, ?_, (fnUpd_k ..).keeps⟩
    · rw [fnGet_fnUpd]
      rfl
    · rw [fnGet_fnUpd]
      rfl
  case ide =>
    intro s link k hp hk hi
    refine ⟨_, exec_ideCheckFail hp hk hi, ideTo_ide ?_, (aerLog_k ..).keeps.after' (ideTo_k ..).keeps rfl⟩
    rw [aerLog_ide, hi]
    decide
  case spdm => exact fun s link ha hr hlc => exec_spdmRequest_plain ha hr hlc

end Sys2Proof.Machine
end

section
/-! PROOFS. The bring-up of ports (O11): the record of a port and what showing a lane leaves alone, and the commands over them. -/

namespace Sys2Proof.Machine

/-! Modes (R144, R145). -/

/-- The state in which a change of MODE has been written and the lanes of the group are to be reconfigured. -/
def modeChanging (s : State) (pg : Nat) (v : W32) : State :=
  let u := plainWrite s (Reg.EN_PG_CTL pg) 7 v
  { u with net := { u.net with modes := aset u.net.modes pg (rfld v 0 3, u.time.elapsed) } }
theorem exec_pgModeWrite {s : State} {req : Requester} {pg : Nat} {v : W32} (h8 : pg < 8) (hp : Passes s req (Reg.EN_PG_CTL pg) false)
    (hm : rfld v 0 3 ≠ rdF s (Reg.EN_PG_CTL pg) 0 3) (he : pgEnabled s pg = false) : exec (.pgModeWrite req 15 pg v) s = .next (modeChanging s pg v) :=
  congrArg Host.Outcome.next ((if_pos h8).trans ((gate_open hp).trans ((if_neg hm).trans (if_neg (ne_true_of_eq_false he)))))
theorem modeChanging_keeps (s : State) (pg : Nat) (v : W32) : Keeps [.regs, .net] s (modeChanging s pg v) :=
  ((plainWrite_k ..).keeps.weak rfl).set_net rfl
theorem exec_pgModeChangeDone {s : State} {pg m since : Nat} (h : aget s.net.modes pg = some (m, since)) :
    exec (.pgModeChangeDone pg) s = .next ((List.range 4).foldl (fun s k => lineFollow s (4 * pg + k))
      ((List.range 4).foldl (fun s k => if portDownFlush s (4 * pg + k) then portFlush s (4 * pg + k) else s)
        (wrF { s with net := { s.net with modes := adel s.net.modes pg } } (Reg.EN_PG_STATUS pg) 12 3 (if m ≥ 5 then 0 else m)))) := by
  show execPgModeChangeDone pg s = _
  simp only [execPgModeChangeDone, h]

/-! Port states (R148 to R151). -/

section
variable {s : State} {req : Requester} {p : Nat} {v : W32} (hh : portPresent s p = true) (hp : Passes s req (Reg.EN_PORT_CTL (p / 4) (p % 4)) false)
include hh hp

theorem exec_portEnable (h0 : rbit v 0 = true) : exec (.portEnable req 15 p v) s = .next (portCtlWrite s p v) :=
  congrArg Host.Outcome.next ((if_pos (by simp [hh, h0])).trans (gate_open hp))
theorem exec_portDisable (h0 : rbit v 0 = false) : exec (.portDisable req 15 p v) s = .next (portCtlWrite s p v) :=
  congrArg Host.Outcome.next ((if_pos (by simp [hh, h0])).trans (gate_open hp))

end
/-- After a write of EN_PORT_CTL the port has started or stopped, and its queues and its lanes follow. -/
theorem portCtlWrite_started {v : W32} (h0 : rbit v 0 = true) (s : State) (p : Nat) :
    (let u := portStart (plainWrite s (Reg.EN_PORT_CTL (p / 4) (p % 4)) 0x3F v) p
     portCtlWrite s p v = flowRecheck (lineFollow (if portDownFlush u p then portFlush u p else u) p) p) := by
  simp only [portCtlWrite, h0, if_true]
theorem portCtlWrite_stopped {v : W32} (h0 : rbit v 0 = false) (s : State) (p : Nat) :
    (let u := setPortState (plainWrite s (Reg.EN_PORT_CTL (p / 4) (p % 4)) 0x3F v) p 0
     portCtlWrite s p v = flowRecheck (lineFollow (if portDownFlush u p then portFlush u p else u) p) p) := by
  simp only [portCtlWrite, h0, Bool.false_eq_true, if_false]

/-- The state in which the signal and the CDR lock of a lane show, in its own status and in that of the group. -/
def laneShown (s : State) (pg lane : Nat) (signal cdr : Bool) : State :=
  let u := wrF (wrF s (Reg.EN_LANE_STATUS pg lane) 0 1 (b2n signal)) (Reg.EN_LANE_STATUS pg lane) 1 1 (b2n cdr)
  rclkMark (wrF (wrF u (Reg.EN_PG_STATUS pg) lane 1 (b2n signal)) (Reg.EN_PG_STATUS pg) (4 + lane) 1 (b2n cdr)) pg (rclkGood s pg)
theorem laneShown_keeps (s : State) (pg lane : Nat) (signal cdr : Bool) : Keeps [.regs, .net] s (laneShown s pg lane signal cdr) :=
  (Keeps.refl.set_regs (l := [.regs]) rfl).after' (rclkMark_k ..).keeps
theorem rd_laneShown (s : State) (pg lane : Nat) (signal cdr : Bool) {x : Nat} (hx : x ≠ Reg.EN_PG_STATUS pg) :
    rd (laneShown s pg lane signal cdr) x =
      rd (wrF (wrF s (Reg.EN_LANE_STATUS pg lane) 0 1 (b2n signal)) (Reg.EN_LANE_STATUS pg lane) 1 1 (b2n cdr)) x :=
  (rd_regs ((rclkMark_k ..).keeps.regs rfl) x).trans ((rd_wrF_ne _ _ _ _ hx).trans (rd_wrF_ne _ _ _ _ hx))
theorem laneStatus_ne_pgStatus (pg lane : Nat) : Reg.EN_LANE_STATUS pg lane ≠ Reg.EN_PG_STATUS pg := by
  unfold Reg.EN_LANE_STATUS Reg.EN_PG_STATUS
  omega
theorem b2n_mod_two (b : Bool) : b2n b % 2 ^ 1 = b2n b := by cases b <;> rfl
theorem laneShown_signal (s : State) (pg lane : Nat) (signal cdr : Bool) :
    rdF (laneShown s pg lane signal cdr) (Reg.EN_LANE_STATUS pg lane) 0 1 = b2n signal := by
  rw [rdF_eq (rd_laneShown _ _ _ _ _ (laneStatus_ne_pgStatus pg lane)), rdF_wrF_other _ _ _ _ _ _ _ (by decide) (by decide), rdF_wrF_same _ _ _ _ _ (by decide),
    b2n_mod_two]
theorem laneShown_cdr (s : State) (pg lane : Nat) (signal cdr : Bool) :
    rdF (laneShown s pg lane signal cdr) (Reg.EN_LANE_STATUS pg lane) 1 1 = b2n cdr := by
  rw [rdF_eq (rd_laneShown _ _ _ _ _ (laneStatus_ne_pgStatus pg lane)), rdF_wrF_same _ _ _ _ _ (by decide), b2n_mod_two]

/-- A port is present by the mode of its group alone. -/
theorem portPresent_congr {s t : State} {p : Nat} (h : rdF t (Reg.EN_PG_STATUS (p / 4)) 12 3 = rdF s (Reg.EN_PG_STATUS (p / 4)) 12 3) :
    portPresent t p = portPresent s p := by
  simp only [portPresent, pgMode, h]
/-- Showing a lane leaves the mode of its group alone. -/
theorem laneShown_mode (s : State) (pg : Nat) {lane : Nat} (hl : lane < 4) (signal cdr : Bool) :
    rdF (laneShown s pg lane signal cdr) (Reg.EN_PG_STATUS pg) 12 3 = rdF s (Reg.EN_PG_STATUS pg) 12 3 := by
  unfold laneShown
  rw [rdF_eq (rd_regs ((rclkMark_k ..).keeps.regs rfl) _), rdF_wrF_other _ _ _ _ _ _ _ (by decide) (by omega), rdF_wrF_other _ _ _ _ _ _ _ (by decide) (by omega),
    rdF_wrF_ne _ _ _ _ _ _ (laneStatus_ne_pgStatus pg lane).symm, rdF_wrF_ne _ _ _ _ _ _ (laneStatus_ne_pgStatus pg lane).symm]
/-- Showing a lane leaves the states of the group's ports alone. -/
theorem laneShown_portState (s : State) (pg lane : Nat) (signal cdr : Bool) {k : Nat} (hk : k < 4) :
    portState (laneShown s pg lane signal cdr) (4 * pg + k) = portState s (4 * pg + k) := by
  unfold portState
  apply rdF_eq
  rw [rd_laneShown _ _ _ _ _ (by unfold Reg.EN_PORT_STATUS Reg.EN_PG_STATUS; omega), rd_wrF_ne _ _ _ _ (by unfold Reg.EN_PORT_STATUS Reg.EN_LANE_STATUS; omega),
    rd_wrF_ne _ _ _ _ (by unfold Reg.EN_PORT_STATUS Reg.EN_LANE_STATUS; omega)]
/-- A port that the mode does not use stays where it is. -/
theorem portStart_absent {s : State} {p : Nat} (h : portPresent s p = false) : portStart s p = s := if_neg (by simp [h])
/-- While the mode of the group uses no port and none is ALIGNING, the signal of a lane is only shown. -/
theorem exec_signalDetect_idle {s : State} {pg lane : Nat} (h8 : pg < 8) (hl : lane < 4) (ha : ∀ k, k < 4 → portPresent s (4 * pg + k) = false)
    (hs : ∀ k, k < 4 → portState s (4 * pg + k) ≠ 2) (signal cdr : Bool) :
    exec (.signalDetect pg lane signal cdr) s = .next (laneShown s pg lane signal cdr) := by
  refine congrArg Host.Outcome.next ((if_pos (by simp [h8, hl])).trans ?_)
  refine List.foldlRecOn (motive := fun u => u = laneShown s pg lane signal cdr) _ _ rfl fun u hu k hk => ?_
  have hk : k < 4 := List.mem_range.mp hk
  have hpg : (4 * pg + k) / 4 = pg := by omega
  have habsent : portPresent (laneShown s pg lane signal cdr) (4 * pg + k) = false :=
    (portPresent_congr (by rw [hpg]; exact laneShown_mode s pg hl signal cdr)).trans (ha k hk)
  have hstate : portState (laneShown s pg lane signal cdr) (4 * pg + k) ≠ 2 := by
    rw [laneShown_portState _ _ _ _ _ hk]
    exact hs k hk
  subst hu
  exact (congrArg (fun u => portStart u (4 * pg + k)) (if_neg (by simp [hstate]))).trans (portStart_absent habsent)

/-- Writes of the status of lanes leave the control word of a port of their group alone. -/
theorem portCtl_lanes (s : State) (p : Nat) (ls : List Nat) :
    portCtl (ls.foldl (fun s l => wrF s (Reg.EN_LANE_STATUS (p / 4) l) 2 1 1) s) p = portCtl s p :=
  List.foldlRecOn (motive := fun u => portCtl u p = portCtl s p) _ _ rfl fun _ hu _ _ =>
    (rd_wrF_ne _ _ _ _ (by unfold Reg.EN_PORT_CTL Reg.EN_LANE_STATUS; omega)).trans hu
/-- Without link training no taps are written. -/
theorem exec_trainingComplete_untapped {s : State} {p : Nat} (hh : portPresent s p = true) (hs : portState s p = 1) (hl : rbit (portCtl s p) 1 = false)
    (taps : List Nat) :
    (let u := (portLanes s p).foldl (fun s l => wrF s (Reg.EN_LANE_STATUS (p / 4) l) 2 1 1) s
     exec (.trainingComplete p true taps) s = .next (setPortState (portUpd u p (fun x => { x with since := u.time.elapsed })) p 2)) := by
  intro u
  have hu : rbit (portCtl u p) 1 = false := by rw [portCtl_lanes, hl]
  show execTrainingComplete p true taps s = _
  refine congrArg Host.Outcome.next ((if_pos (by simp [hh, hs])).trans ?_)
  exact congrArg (fun w : State => setPortState (portUpd w p (fun x => { x with since := w.time.elapsed })) p 2) (if_neg (ne_true_of_eq_false hu))
theorem exec_trainingTimeout {s : State} {p : Nat} (hs : portState s p = 1) (ht : (portGet s p).trained + 500 * msUnits ≤ s.time.elapsed) (lanes : Nat) :
    exec (.trainingTimeout p lanes) s = .next
      (raise (setPortState (portUpd s p (fun x => { x with trained := s.time.elapsed })) p 6) (portSrc p 7) [(4, lanes)]) :=
  congrArg Host.Outcome.next (if_pos (by simp only [hs, ht, decide_true, Bool.and_self]))
theorem exec_trainFailRetry {s : State} {p : Nat} (hs : portState s p = 6) (ht : (portGet s p).trained + 1000 * msUnits ≤ s.time.elapsed) :
    exec (.trainFailRetry p) s = .next (setPortState (portUpd s p (fun x => { x with trained := s.time.elapsed })) p 1) :=
  congrArg Host.Outcome.next (if_pos (by simp only [hs, ht, decide_true, Bool.and_self]))

/-! Faults (R150, R151). -/

/-- Another fault than before, with a DEBOUNCE that is not zero: the time of the fault runs anew, and no state changes yet (log
entry 17). -/
theorem exec_lockChange_debounced {s : State} {p : Nat} {lock lf rf : Bool} (hh : portPresent s p = true) (hd : debounce s p ≠ 0)
    (hf : faultOf (portGet s p).lock (portGet s p).lf (portGet s p).rf ≠ faultOf lock lf rf) :
    exec (.lockChange p lock lf rf) s = .next
      (lineFollow (portSet s p { portGet s p with lock := lock, lf := lf, rf := rf, since := s.time.elapsed }) p) := by
  have hnew : (faultOf (portGet s p).lock (portGet s p).lf (portGet s p).rf == faultOf lock lf rf) = false := beq_false_of_ne hf
  show execLockChange p lock lf rf s = _
  simp only [execLockChange, hh, hnew, Bool.false_and, Bool.false_eq_true, if_false, if_true]
  exact congrArg Host.Outcome.next (if_neg hd)
theorem exec_debounceExpire_aligned {s : State} {p : Nat} (hh : portPresent s p = true) (ht : (portGet s p).since + debounce s p ≤ s.time.elapsed)
    (hs : portState s p = 2) (hl : (portGet s p).lock = true) (hc : lanesCdr s p = true) : exec (.debounceExpire p) s = .next (setPortState s p 3) := by
  refine congrArg Host.Outcome.next ((if_pos hh).trans ?_)
  simp only [faultStep, hs, ht, hl, hc, decide_true, Bool.and_self, if_true]

/-! Degradation (R147). -/

/-- A millisecond within the threshold, while the link is not degraded, only lengthens the run of good ones. -/
theorem exec_fecDegradeWindow_within {s : State} {p cw uncorr syms : Nat} (hh : portPresent s p = true) (ht : (portGet s p).fecMs < s.time.elapsed / msUnits) :
    (let u := portCnt (portCnt (portCnt (portUpd s p (fun x => { x with fecMs := s.time.elapsed / msUnits })) p 17 cw) p 18 uncorr) p 19 syms
     let off := Reg.EN_FEC_DEGRADE (p / 4) (p % 4)
     rbit (rd u off) 31 = false → syms ≤ rdF u off 0 24 →
       exec (.fecDegradeWindow p cw uncorr syms) s = .next (portUpd u p (fun x => { x with goodMs := (portGet u p).goodMs + 1 }))) := by
  intro u off hd hsyms
  have hover : ¬ syms > rdF u off 0 24 := Nat.not_lt.mpr hsyms
  have hgood : (if syms > rdF u off 0 24 then 0 else (portGet u p).goodMs + 1) = (portGet u p).goodMs + 1 := if_neg hover
  refine congrArg Host.Outcome.next ((if_pos (by simp only [hh, ht, decide_true, Bool.and_self])).trans ((if_neg ?raised).trans ((if_neg ?cleared).trans ?_)))
  case raised => simp [u, off, hover]
  case cleared => simp [u, off, hd]
  exact congrArg (fun n => portUpd u p (fun x => { x with goodMs := n })) hgood

/-! Recovered clocks (R165). -/

theorem rclkCtl_ne_lost (pg : Nat) : Reg.EN_RCLK_CTL pg ≠ Reg.OZ_EV_LOST_CNT := by
  unfold Reg.EN_RCLK_CTL Reg.OZ_EV_LOST_CNT
  omega

/-- The state in which the recovered clock of a group is held low, with its event. -/
def rclkSquelched (s : State) (pg : Nat) : State :=
  raise (drive (wrF s (Reg.EN_RCLK_CTL pg) 4 1 1) .recclk pg false) (portSrc (4 * pg) 6) [(4, 1)]
theorem exec_rclkSquelch {s : State} {pg : Nat} (h8 : pg < 8) (hg : rclkGood s pg = false) (h0 : rdF s (Reg.EN_RCLK_CTL pg) 4 1 = 0) :
    exec (.rclkSquelch pg) s = .next (rclkSquelched s pg) :=
  congrArg Host.Outcome.next (if_pos (by simp [h8, hg, h0]))
theorem rclkSquelched_ctl (s : State) (pg : Nat) : rdF (rclkSquelched s pg) (Reg.EN_RCLK_CTL pg) 4 1 = 1 :=
  (rdF_eq (raise_rd _ _ _ (rclkCtl_ne_lost pg))).trans (rdF_wrF_same _ _ _ _ _ (by decide))
theorem rclkSquelched_keeps (s : State) (pg : Nat) : Keeps [.regs, .ev, .out] s (rclkSquelched s pg) :=
  ((Keeps.refl.set_regs (l := [.regs, .out]) rfl).set_out rfl).after' (raise_k ..).keeps

/-- The state in which the recovered clock of a group runs again, with its event. -/
def rclkResumed (s : State) (pg : Nat) : State :=
  raise (rclkDrive (wrF s (Reg.EN_RCLK_CTL pg) 4 1 0) pg) (portSrc (4 * pg) 6) [(4, 0)]
theorem exec_rclkResume {s : State} {pg : Nat} (h8 : pg < 8) (hg : rclkGood s pg = true) (h1 : rdF s (Reg.EN_RCLK_CTL pg) 4 1 = 1)
    (ht : agetD s.net.rclk pg 0 + msUnits ≤ s.time.elapsed) : exec (.rclkResume pg) s = .next (rclkResumed s pg) :=
  congrArg Host.Outcome.next (if_pos (by simp only [h8, hg, h1, ht, decide_true, Bool.and_self]))
theorem rclkResumed_ctl (s : State) (pg : Nat) : rdF (rclkResumed s pg) (Reg.EN_RCLK_CTL pg) 4 1 = 0 :=
  ((rdF_eq (raise_rd _ _ _ (rclkCtl_ne_lost pg))).trans (rdF_eq (rd_regs ((rclkDrive_k ..).keeps.regs rfl) _))).trans (rdF_wrF_same _ _ _ _ _ (by decide))
theorem rclkResumed_keeps (s : State) (pg : Nat) : Keeps [.regs, .ev, .out] s (rclkResumed s pg) :=
  ((Keeps.refl.set_regs (l := [.regs]) rfl).after' (l := [.regs, .out]) (rclkDrive_k ..).keeps).after' (raise_k ..).keeps

/-- Settles O11: each command answers the state that its lemma names, and what that state shows is read off. From which change
DEBOUNCE runs, and that a millisecond of FEC is judged once, are log entry 17. -/
theorem portBringUpComplete : Obligations.PortBringUpComplete := by
  unfold Obligations.PortBringUpComplete
  refine ⟨?mode, ?done, ?control, ?signal, ?training, ?timeout, ?retry, ?lock, ?debounce, ?fec, ?squelch, ?resume⟩
  case mode =>
    exact fun s req pg v h8 hp hm he => ⟨_, exec_pgModeWrite h8 hp hm he, rfl, aget_aset_same .., modeChanging_keeps ..⟩
  case done => exact fun s pg m since h => exec_pgModeChangeDone h
  case control =>
    exact fun s req p v hh hp => ⟨fun h0 => (exec_portEnable hh hp h0).trans (congrArg Host.Outcome.next (portCtlWrite_started h0 s p)),
      fun h0 => (exec_portDisable hh hp h0).trans (congrArg Host.Outcome.next (portCtlWrite_stopped h0 s p))⟩
  case signal =>
    exact fun s pg lane signal cdr h8 hl ha hs => ⟨_, exec_signalDetect_idle h8 hl ha hs signal cdr, laneShown_signal .., laneShown_cdr .., laneShown_keeps ..⟩
  case training => exact fun s p taps hh hs hl => exec_trainingComplete_untapped hh hs hl taps
  case timeout => exact fun s p lanes hs ht => exec_trainingTimeout hs ht lanes
  case retry => exact fun s p hs ht => exec_trainFailRetry hs ht
  case lock => exact fun s p lock lf rf hh hd hf => exec_lockChange_debounced hh hd hf
  case debounce => exact fun s p hh ht hs hl hc => exec_debounceExpire_aligned hh ht hs hl hc
  case fec => exact fun s p cw uncorr syms hh ht => exec_fecDegradeWindow_within hh ht
  case squelch => exact fun s pg h8 hg h0 => ⟨_, exec_rclkSquelch h8 hg h0, rclkSquelched_ctl .., rclkSquelched_keeps ..⟩
  case resume => exact fun s pg h8 hg h1 ht => ⟨_, exec_rclkResume h8 hg h1 ht, rclkResumed_ctl .., rclkResumed_keeps ..⟩

end Sys2Proof.Machine
end

section
/-! PROOFS. Frames, doorbells, index writes and the ring engine (O12): what the registers and the records that these commands read
hold after the updates before them, and the commands over them. -/

namespace Sys2Proof.Machine

/-! Reception and flow control (R153 to R159). -/

/-- Following the pauses of a port leaves its flow-control mode alone. -/
theorem portFc_pauseUpdate (s : State) (p : Nat) : portFc (pauseUpdate s p) p = portFc s p := by
  have hctl : portCtl (pauseUpdate s p) p = portCtl s p := rd_wrF_ne _ _ _ _ (by unfold Reg.EN_PORT_CTL Reg.EN_PORT_STATUS; omega)
  simp only [portFc, hctl]

@[simp] theorem pfcQuanta_portUpd (s : State) (p : Nat) (f : PortSt → PortSt) : pfcQuanta (portUpd s p f) p = pfcQuanta s p := rfl

section
variable {s : State} {p : Nat} {b : List Byte} (hh : portPresent s p = true) (hs : portState s p = 3) (h60 : 60 ≤ b.length) (hm : b.length + 4 ≤ maxFrame s p)
include hh hs h60 hm

/-- A whole frame of an allowed length on a port that is UP is judged by its FCS. -/
theorem exec_frameReceive_whole (fcsOk : Bool) :
    (let u := portCnt (portCnt s p 0 (b.length + 4)) p 1 1
     exec (.frameReceive p b fcsOk false false) s = .next
      (if fcsOk = true then if isMacControl b = true then macControl u p b else arrive u p b else portCnt s p 2 1)) := by
  have hlong : ¬ b.length + 4 < 64 := by omega
  refine congrArg Host.Outcome.next ((if_pos (by simp [hh, hs])).trans ((if_neg (by decide)).trans ((if_neg (by decide)).trans ((if_neg hlong).trans
    ((if_neg (Nat.not_lt.mpr hm)).trans ?_)))))
  cases fcsOk <;> rfl
theorem exec_macControlFrame (hb : isMacControl b = true) :
    exec (.macControlFrame p b) s = .next (macControl (portCnt (portCnt s p 0 (b.length + 4)) p 1 1) p b) :=
  congrArg Host.Outcome.next (if_pos (by simp only [hh, hs, h60, hm, hb, decide_true, Bool.and_self]))

end
/-- A pause frame is accepted in FC mode 1: it is counted, and its quanta load the pause timer (R155, R156). -/
theorem macControl_pause {s : State} {p : Nat} {b : List Byte} (ho : beAt b 14 2 = 1) (hf : portFc s p = 1) :
    macControl s p b = pauseUpdate (loadPause (unIgnore (portCnt (pauseUpdate s p) p 7 1) p 8 (beAt b 16 2)) p 8 (beAt b 16 2)) p :=
  if_pos (by simp [ho, portFc_pauseUpdate, hf])

theorem exec_pauseTimerExpire {s : State} {p : Nat} (hh : portPresent s p = true) :
    exec (.pauseTimerExpire p) s = .next (pauseUpdate (portUpd s p (fun x => { x with pause := x.pause.filter (fun e => s.time.elapsed < e.2) })) p) :=
  congrArg Host.Outcome.next (if_pos hh)
theorem exec_pfcWatchdog {s : State} {p c since : Nat} (hh : portPresent s p = true) (hp : aget (portGet s p).paused c = some since)
    (hw : rdN s (Reg.EN_PFC_WATCHDOG (p / 4) (p % 4)) ≠ 0) (hc : classPaused s p c = true)
    (ht : since + rdN s (Reg.EN_PFC_WATCHDOG (p / 4) (p % 4)) * usUnits < s.time.elapsed) :
    exec (.pfcWatchdog p c) s = .next (raise (pauseUpdate (portUpd s p (fun x => { x with ignore := x.ignore ++ [c] })) p) (portSrc p 4) [(4, c)]) := by
  show execPfcWatchdog p c s = _
  simp only [execPfcWatchdog, hp, hh, hw, hc, ht, ne_eq, not_false_eq_true, decide_true, Bool.and_self, if_true]
/-- In FC mode 1 the port has one refresh (R159, log entry 17); EN_PFC_REFRESH zero takes half of the quanta. -/
theorem exec_pfcRefresh_pause {s : State} {p i : Nat} (hh : portPresent s p = true) (hq : pfcQuanta s p ≠ 0) (hx : (portGet s p).xoff = [(i, 0)])
    (ht : quanta s p (pfcQuanta s p / 2) ≤ s.time.elapsed) (hf : portFc s p = 1) (hr : rdF s (Reg.EN_PFC_REFRESH (p / 4) (p % 4)) 0 16 = 0) :
    exec (.pfcRefresh p) s = .next
      (controlFrame (portUpd s p (fun x => { x with xoff := aset x.xoff i s.time.elapsed })) p [(i, pfcQuanta s p)]) := by
  have hdue : (portGet s p).xoff.filter (fun e => e.2 + quanta s p (pfcQuanta s p / 2) ≤ s.time.elapsed) = [(i, 0)] := by simp [hx, ht]
  show execPfcRefresh p s = _
  simp only [execPfcRefresh, hh, hq, hr, hf, hdue, ne_eq, not_false_eq_true, decide_true, Bool.and_self, BEq.rfl, Bool.true_or, Bool.and_true, if_true,
    List.foldl_cons, List.foldl_nil, List.map_cons, List.map_nil, pfcQuanta_portUpd]

/-! Transmission (R154). -/

/-- The state in which the next frame of a port has left its queue, with the rest of the queue. -/
def txTaken (s : State) (p : Nat) (rest : List TxFrame) : State :=
  let w := portUpd s p (fun x => { x with tx := rest })
  { w with land := { w.land with begun := aset w.land.begun p (agetD w.land.begun p 0 - 1) } }
/-- A frame without a directive goes out as it is, padded to 60 bytes. -/
theorem frameTransmit_plain {s : State} {p : Nat} {f : TxFrame} {rest : List TxFrame} (ht : (portGet s p).tx = f :: rest) (hm : mdF f.md 0x4C 0 2 = 0) :
    (let out := if f.bytes.length < 60 then fit 60 f.bytes else f.bytes
     let u := emit (portCnt (portCnt (txTaken s p rest) p 9 (out.length + 4)) p 10 1) (.frame p (lineFrame out))
     frameTransmit s p = freeGrains (txCapture u f.origin f.late (nowNs u)) f.grains) := by
  intro out u
  unfold frameTransmit
  simp only [ht, hm]
  rfl
theorem exec_frameTransmit {s : State} {p : Nat} (h : portServes s p = true) : exec (.frameTransmit p) s = .next (frameTransmit s p) :=
  congrArg Host.Outcome.next (if_pos h)

/-! The record of a channel. -/

@[simp] theorem chanGet_chanSet (s : State) (i : Nat) (c : Chan) : chanGet (chanSet s i c) i = some c := aget_aset_same ..
/-- A change of one channel leaves what a handle of another names. -/
theorem chanOf_chanUpd_ne {s : State} {i h q : Nat} {d : Chan} (hd : chanOf s h = some (q, d)) (hq : q ≠ i) (f : Chan → Chan) :
    chanOf (chanUpd s i f) h = some (q, d) := by
  have hqh : q = h % 0x1000000 := by
    unfold chanOf at hd
    split at hd
    · split at hd
      · injection hd with hd
        exact (congrArg Prod.fst hd).symm
      · cases hd
    · cases hd
  rw [← hd]
  simp only [chanOf, chanUpd, aget_aupd_ne _ _ (hqh ▸ hq)]

/-! The registers of a gallery page (R179 to R184, R193). -/

theorem onPage_whole {s : State} {link fnum page : Nat} (h : pageDecodes s link fnum page = true) (x : Nat) (f : State → State) :
    onPage s link fnum page 15 x f = f s :=
  (if_neg (by simp [h])).trans (if_neg (by decide))
/-- The doorbell of a page with one software-produced channel that has announced entries samples it. -/
theorem ringPage_one {s : State} {link fnum page n i : Nat} {x : Slice} {c : Chan} (ho : pageOwner s link fnum page = some (n, x)) (hx : x.state ≠ 2)
    (hp : pageChans s link fnum page = [i]) (hc : chanGet s i = some c) (hd : devProduced c = false) (h4 : c.state ≠ 4) (hs : (samplePidx s i).2 = true) :
    ringPage s link fnum page = (samplePidx s i).1 := by
  simp only [ringPage, ho, if_neg hx, hp, List.foldl_cons, List.foldl_nil, hc, hd, h4, hs, decide_false, Bool.or_self, Bool.false_or, Bool.false_eq_true,
    if_false, if_true]

section
variable {s : State} {link fnum page : Nat} (hp : pageDecodes s link fnum page = true)
include hp

theorem exec_doorbell : exec (.doorbell link fnum page 15) s = .next (ringPage s link fnum page) := congrArg Host.Outcome.next (onPage_whole hp _ _)

variable {slot i : Nat} {c : Chan} (hc : slotChan s link fnum page slot = some (i, c)) (v : W32)
include hc

theorem exec_pidxWrite (hd : devProduced c = false) : exec (.pidxWrite link fnum page slot 15 v) s = .next (chanSet s i { c with pidxReg := v.toNat }) := by
  refine congrArg Host.Outcome.next ((onPage_whole hp _ _).trans ?_)
  simp only [pidxPut, hc, hd, Bool.false_eq_true, if_false]
/-- A legal consumer index of a ring without notifications is taken. -/
theorem exec_cidxWrite (hd : devProduced c = true) (h7 : c.kind ≠ 7) (hl : sub32 v.toNat c.cidx ≤ c.size) (hu : sub32 c.pidx v.toNat ≤ c.size) :
    exec (.cidxWrite link fnum page slot 15 v) s = .next (chanSet s i { c with cidx := v.toNat }) := by
  have hbad : ¬ (decide (sub32 v.toNat c.cidx > c.size) || decide (sub32 c.pidx v.toNat > c.size)) = true := by
    simp [Nat.not_lt.mpr hl, Nat.not_lt.mpr hu]
  refine congrArg Host.Outcome.next ((onPage_whole hp _ _).trans ?_)
  simp only [cidxPut, hc, hd, Bool.not_true, Bool.false_eq_true, if_false, if_neg hbad, if_neg h7]
theorem exec_cqArm (h6 : c.kind = 6) :
    exec (.cqArm link fnum page slot 15 v) s = .next (cqNotify (chanSet s i { c with armVal := v.toNat, armed := true }) i) := by
  refine congrArg Host.Outcome.next ((onPage_whole hp _ _).trans ?_)
  simp only [armPut, hc, if_pos h6]

end

/-! The ring engine (R177, R182, R188, R192, R196). -/

/-- A fetch reads as many entries as there is room for, and reserves their completions in the ring that the channel names. -/
theorem exec_descriptorFetch {s : State} {i q : Nat} {c d : Chan} (hc : chanGet s i = some c) (hm : mayFetch s i c = true) (hr : fetchRoom s c ≠ 0)
    (h4 : c.kind ≠ 4) (hd : chanOf s c.bind = some (q, d)) (hq : q ≠ i) :
    exec (.descriptorFetch i) s = .next (sliceRead
      (chanUpd (chanUpd s i (fun e => { e with fetching := e.fetching + fetchRoom s c })) q (fun e => { e with reserved := e.reserved + fetchRoom s c }))
      c.slice (c.base + 64 * (add32 c.cidx c.fetching % c.size)) (64 * fetchRoom s c) 0 (.desc i (add32 c.cidx c.fetching) (fetchRoom s c))) := by
  show Host.Outcome.next (fetchEnts s i) = _
  simp only [fetchEnts, hc, hm, hr, h4, chanOf_chanUpd_ne hd hq, Bool.not_true, Bool.false_eq_true, if_false]
/-- The last entry of a completed ring read is taken, and the read is over. -/
theorem exec_descriptorArrive_last {s : State} {id i : Nat} {r : HRead} {c : Chan} (hr : aget s.host.reads id = some r) (hw : r.work = .desc i c.cidx 1)
    (hc : chanGet s i = some c) (hf : r.failed = none) (hl : r.left = 0) (hd : rdN s Reg.FT_DEP_USED < 1048576) :
    exec (.descriptorArrive id) s = .next (entTake { s with host := { s.host with reads := adel s.host.reads id } } i c (slice r.data 0 64)) := by
  have hfull : ¬ (departs c.kind (slice r.data 0 64) && decide (rdN s Reg.FT_DEP_USED ≥ 1048576)) = true := by simp [Nat.not_le.mpr hd]
  show Host.Outcome.next (descArrive s id) = _
  simp only [descArrive, hr, hw, hc, hf, hl, if_neg hfull, ne_eq, not_true_eq_false, if_false, Nat.le_refl, if_true]

section
variable {s : State} {i : Nat} {c : Chan} {x : Slice} (hc : chanGet s i = some c) (hx : aget s.slices c.slice = some x) (h2 : x.state ≠ 2)
include hc hx h2

theorem completeHead_live (hl : sliceLive s c.slice = true) : completeHead s i = drainCheck (writeHead s i) i := by
  simp [completeHead, hc, hx, h2, hl]
theorem exec_completionWrite (hl : sliceLive s c.slice = true) (hk : c.kind ≠ 2) : exec (.completionWrite i) s = .next (drainCheck (writeHead s i) i) := by
  show execCompletionWrite i s = _
  simp only [execCompletionWrite, hc, if_neg hk, completeHead_live hc hx h2 hl]
theorem exec_ethTxCompletion (hl : sliceLive s c.slice = true) (hk : c.kind = 2) : exec (.ethTxCompletion i) s = .next (drainCheck (writeHead s i) i) := by
  show execEthTxCompletion i s = _
  simp only [execEthTxCompletion, hc, if_pos hk, completeHead_live hc hx h2 hl]
theorem exec_msixModTimer {l : Nat} (h7 : c.kind = 7) (hv : c.noVector = false) (hn : c.modN ≠ 0) (ht : c.modFirst + c.modTime * usUnits ≤ s.time.elapsed)
    (hl : x.link = some l) : exec (.msixModTimer i) s = .next (sendVector (chanSet s i { c with modN := 0 }) l x.fnum c.vector) := by
  show execMsixModTimer i s = _
  simp only [execMsixModTimer, hc, hx, hl, h7, hv, hn, Nat.not_lt.mpr ht, h2, ne_eq, not_true_eq_false, decide_false, Bool.or_self, Bool.false_eq_true, if_false]

end

/-- Settles O12: each command answers the state that its lemma names. The single refresh of FC mode 1 is that of log entry 17. -/
theorem frameAndRingCommandsComplete : Obligations.FrameAndRingCommandsComplete := by
  unfold Obligations.FrameAndRingCommandsComplete
  refine ⟨?receive, ?transmit, ?watchdog, ?doorbell, ?index, ?fetch, ?arrive, ?complete⟩
  case receive =>
    intro s p b hh hs h60 hm
    refine ⟨fun hb => ?_, exec_frameReceive_whole hh hs h60 hm false, fun hb ho hf => ?_⟩
    · refine (exec_frameReceive_whole hh hs h60 hm true).trans (congrArg Host.Outcome.next ?_)
      exact (if_pos rfl).trans (if_neg (ne_true_of_eq_false hb))
    · exact (exec_macControlFrame hh hs h60 hm hb).trans (congrArg Host.Outcome.next (macControl_pause ho hf))
  case transmit =>
    intro s p hh
    refine ⟨exec_pauseTimerExpire hh, fun hv f rest ht hm => ?_, fun hq i hx ht hf hr => exec_pfcRefresh_pause hh hq hx ht hf hr⟩
    exact (exec_frameTransmit hv).trans (congrArg Host.Outcome.next (frameTransmit_plain ht hm))
  case watchdog => exact fun s p c since hh hp hw hc ht => exec_pfcWatchdog hh hp hw hc ht
  case doorbell =>
    exact fun s link fnum page n i x c hp ho hx hi hc hd h4 hs => (exec_doorbell hp).trans (congrArg Host.Outcome.next (ringPage_one ho hx hi hc hd h4 hs))
  case index =>
    exact fun s link fnum page slot i v c hp hc => ⟨fun hd => ⟨_, exec_pidxWrite hp hc v hd, chanGet_chanSet .., (chanSet_k ..).keeps⟩,
      fun hd h7 hl hu => ⟨_, exec_cidxWrite hp hc v hd h7 hl hu, chanGet_chanSet .., (chanSet_k ..).keeps⟩, exec_cqArm hp hc v⟩
  case fetch => exact fun s i q c d hc hm hr h4 hd hq => exec_descriptorFetch hc hm hr h4 hd hq
  case arrive => exact fun s id i r c hr hw hc hf hl hd => exec_descriptorArrive_last hr hw hc hf hl hd
  case complete =>
    exact fun s i c x hc hx h2 hl => ⟨exec_completionWrite hc hx h2 hl, exec_ethTxCompletion hc hx h2 hl,
      fun h7 hv hn ht l hk => exec_msixModTimer hc hx h2 h7 hv hn ht hk⟩

end Sys2Proof.Machine
end

section
/-! PROOFS. Generic and channel admin commands and the admin pair (O13): an admin command that is ready completes with the answer
of its body or waits, and the body of each command where its checks pass. -/

namespace Sys2Proof.Machine

/-! Admin commands in general (R202, R203). -/

section
variable {s u : State} {sl op t : Nat} {cmd : List Byte} {f : State → Nat → State × Option AdminRes} (h : AdminReady s sl op cmd t)
include h

/-- A command whose body answers completes with that answer. -/
theorem runAdmin_answers {r : AdminRes} (hf : f s t = (u, some r)) : runAdmin s sl op cmd f = adminComplete u sl op (leAt cmd 8 8) r := by
  rw [runAdmin_ready h, hf]
/-- A command whose body does not answer leaves its completion for later. -/
theorem runAdmin_waits (hf : f s t = (u, none)) : runAdmin s sl op cmd f = u := by
  rw [runAdmin_ready h, hf]

end

/-! Generic commands and creation (R204, R205). -/

theorem exec_nop {s : State} {sl t : Nat} {cmd : List Byte} (h : AdminReady s sl 0x00 cmd t) :
    exec (.nop sl cmd) s = .next (adminComplete s sl 0x00 (leAt cmd 8 8) {}) := congrArg Host.Outcome.next (runAdmin_answers h rfl)
theorem exec_queryStatus {s : State} {sl t : Nat} {cmd : List Byte} (h : AdminReady s sl 0x01 cmd t) :
    exec (.queryStatus sl cmd) s = .next
      (adminComplete s sl 0x01 (leAt cmd 8 8) { aux := rdF s Reg.GL_BOOT_STAGE 0 4 + 16 * b2n (deviceReady s) }) :=
  congrArg Host.Outcome.next (runAdmin_answers h rfl)
/-- A channel that passes every check takes the index that is allocated for it. -/
theorem exec_createChannel {s u : State} {sl t i : Nat} {cmd : List Byte} (h : AdminReady s sl 0x02 cmd t) (ht : (aget s.slices t).isSome = true)
    (hb : createBad s t (cmdNewChan t cmd) = none) (hi : allocIndex s t (idxRange s t).1 (idxRange s t).2 = (some i, u)) :
    exec (.createChannel sl cmd) s = .next
      (adminComplete (chanCreate u i (cmdNewChan t cmd)).1 sl 0x02 (leAt cmd 8 8) { handle := (chanCreate u i (cmdNewChan t cmd)).2 }) := by
  refine congrArg Host.Outcome.next (runAdmin_answers h ?_)
  simp only [Option.isNone_eq_false_iff.mpr ht, Bool.false_eq_true, if_false, hb, hi]

/-! Commands on a channel of the target (R198, R199, R204, R206). -/

/-- Outside STALLED a command on a channel acts at once (R201). -/
theorem holdOr_now {s : State} {i : Nat} {c : Chan} (h : c.state ≠ 3) (k : HeldCmd) : holdOr s i c k = heldRun s i k := if_neg h

section
variable {s : State} {sl t i : Nat} {cmd : List Byte} {c : Chan} (hc : cmdChan s t cmd = some (i, c))
include hc

theorem exec_destroyChannel (h : AdminReady s sl 0x03 cmd t) (hb : destroyBlocked s i c = false) :
    exec (.destroyChannel sl cmd) s = .next (resetChan (adminDefer s sl 0x03 (leAt cmd 8 8) (chanHandle i c)) i 2) := by
  refine congrArg Host.Outcome.next (runAdmin_waits h ?_)
  simp only [hc, hb, Bool.false_eq_true, if_false]
/-- With the bits of the moderation alone in its mask the command writes the two moderation fields of an event ring. -/
theorem exec_modifyChannel_moderation (h : AdminReady s sl 0x04 cmd t) (h7 : c.kind = 7) (h0 : par cmd 0x14 0 1 = 0) (h1 : par cmd 0x14 1 1 = 0)
    (h2 : par cmd 0x14 2 1 = 1) (h3 : par cmd 0x14 3 1 = 1) (h4 : par cmd 0x14 4 1 = 0) (h5 : par cmd 0x14 5 1 = 0) {n : Chan}
    (hn : cmdNewChan t (patch (fit 64 cmd) 0x10 (le 1 c.kind)) = n) :
    exec (.modifyChannel sl cmd) s = .next
      (adminComplete (chanSet s i { c with modCount := n.modCount, modTime := n.modTime }) sl 0x04 (leAt cmd 8 8) { handle := chanHandle i c }) := by
  refine congrArg Host.Outcome.next (runAdmin_answers h ?_)
  have hk : decide (c.kind ≠ 7) = false := decide_eq_false (not_not_intro h7)
  simp only [hc, hn, h0, h1, h2, h3, h4, h5, hk, Nat.reduceBEq, Bool.false_and, Bool.and_false, Bool.or_self, Bool.false_eq_true, if_false, if_true,
    firstSts, reduceCtorEq, beq_iff_eq, chanHandle]
theorem exec_disableChannel (h : AdminReady s sl 0x05 cmd t) (h3 : c.state ≠ 3) (h4 : c.state ≠ 4) :
    exec (.disableChannel sl cmd) s = .next (adminComplete (chanDisable s i) sl 0x05 (leAt cmd 8 8) { handle := chanHandle i c }) := by
  refine congrArg Host.Outcome.next (runAdmin_answers h ?_)
  simp only [hc, if_neg h4, holdOr_now h3, heldRun]
theorem exec_enableChannel (h : AdminReady s sl 0x06 cmd t) (h3 : c.state ≠ 3) (h4 : c.state ≠ 4) :
    exec (.enableChannel sl cmd) s = .next (adminComplete (chanEnable s i) sl 0x06 (leAt cmd 8 8) { handle := chanHandle i c }) := by
  refine congrArg Host.Outcome.next (runAdmin_answers h ?_)
  simp only [hc, if_neg h4, holdOr_now h3, heldRun]
theorem exec_resetChannel (h : AdminReady s sl 0x07 cmd t) (h1 : c.kind ≠ 1) :
    exec (.resetChannel sl cmd) s = .next (resetOrHold (adminDefer s sl 0x07 (leAt cmd 8 8) (chanHandle i c)) i) := by
  refine congrArg Host.Outcome.next (runAdmin_waits h ?_)
  simp only [hc, h1, decide_false, Bool.false_and, Bool.false_eq_true, if_false]
theorem exec_queryChannel {env : Env} (h : AdminReady s sl 0x08 cmd t) (he : envWrite env = STS_OK) :
    exec (.queryChannel sl cmd env) s = .next
      (adminComplete (slWrite s sl (par cmd 0x18 0 64) 0 (chanRecord i c)) sl 0x08 (leAt cmd 8 8) { len := (chanRecord i c).length }) := by
  refine congrArg Host.Outcome.next (runAdmin_answers h ?_)
  simp only [hc, adminResult_ok he]

end

/-! The admin pair (R214, R215, R226). -/

/-- A write of SL_CTL that its requester may make and that passes the checks has its effect. -/
theorem slCtlBy_open {s : State} {req : Requester} {sl : Nat} (hr : sliceReq s req sl = true) (hp : Passes s req slCtlOff false) (v : W32) :
    slCtlBy s req 15 sl v = slCtlWrite s sl v := (if_pos hr).trans (gate_open hp)

section
variable {s : State} {sl : Nat} {v : W32} (hx : (aget s.slices sl).isSome = true) (he : sliceEnabled s sl = true)
include hx he

/-- What a write does whose slice is there and whose function is enabled, by the two bits that it writes. -/
theorem slCtlWrite_acts : slCtlWrite s sl v =
    (let en := rdF s (Reg.SL_CTL sl) 0 1 == 1
     let u := if rbit v 0 && !en then aqEnable s sl else if !rbit v 0 && en then aqDisable s sl else s
     if rbit v 1 then sliceReset u sl 1 else u) := by
  have hn : ¬ ((aget s.slices sl).isNone || !sliceEnabled s sl) = true := by
    rw [he, Option.isNone_eq_false_iff.mpr hx]; exact Bool.false_ne_true
  exact if_neg hn
theorem slCtlWrite_enable (h0 : rbit v 0 = true) (h1 : rbit v 1 = false) (hq : rdF s (Reg.SL_CTL sl) 0 1 = 0) : slCtlWrite s sl v = aqEnable s sl := by
  rw [slCtlWrite_acts hx he, h0, h1, hq]; rfl
theorem slCtlWrite_disable (h0 : rbit v 0 = false) (h1 : rbit v 1 = false) (hq : rdF s (Reg.SL_CTL sl) 0 1 = 1) : slCtlWrite s sl v = aqDisable s sl := by
  rw [slCtlWrite_acts hx he, h0, h1, hq]; rfl
theorem slCtlWrite_reset (h0 : rbit v 0 = false) (h1 : rbit v 1 = true) (hq : rdF s (Reg.SL_CTL sl) 0 1 = 0) : slCtlWrite s sl v = sliceReset s sl 1 := by
  rw [slCtlWrite_acts hx he, h0, h1, hq]; rfl

end

section
variable {s : State} {req : Requester} {sl : Nat} {v : W32} (hr : sliceReq s req sl = true) (hp : Passes s req slCtlOff false)
include hr hp

theorem exec_aqEnable (h0 : rbit v 0 = true) : exec (.aqEnable req 15 sl v) s = .next (slCtlWrite s sl v) :=
  congrArg Host.Outcome.next ((if_pos h0).trans (slCtlBy_open hr hp v))
theorem exec_aqDisable (h0 : rbit v 0 = false) : exec (.aqDisable req 15 sl v) s = .next (slCtlWrite s sl v) :=
  congrArg Host.Outcome.next ((if_pos (by rw [h0]; rfl)).trans (slCtlBy_open hr hp v))
theorem exec_slCtlReset (h1 : rbit v 1 = true) : exec (.slCtlReset req 15 sl v) s = .next (slCtlWrite s sl v) :=
  congrArg Host.Outcome.next ((if_pos h1).trans (slCtlBy_open hr hp v))

end

/-- Settles O13: each command, where its checks pass, completes or waits as its lemma says, and a write of SL_CTL enables, disables
or resets by the bits that it writes. -/
theorem channelAdminCommandsComplete : Obligations.ChannelAdminCommandsComplete := by
  unfold Obligations.ChannelAdminCommandsComplete
  refine ⟨?generic, ?create, ?channel, ?pair⟩
  case generic => exact fun s sl t cmd => ⟨exec_nop, exec_queryStatus⟩
  case create => exact fun s u sl t i cmd h ht hb hi => exec_createChannel h ht hb hi
  case channel =>
    exact fun s sl t i cmd c hc => ⟨exec_destroyChannel hc, fun h h7 h0 h1 h2 h3 h4 h5 => exec_modifyChannel_moderation hc h h7 h0 h1 h2 h3 h4 h5 rfl,
      exec_disableChannel hc, exec_enableChannel hc, exec_resetChannel hc, fun _ => exec_queryChannel hc⟩
  case pair =>
    exact fun s req sl v hr hp hx he =>
      ⟨fun h0 h1 hq => (exec_aqEnable hr hp h0).trans (congrArg Host.Outcome.next (slCtlWrite_enable hx he h0 h1 hq)),
       fun h0 h1 hq => (exec_aqDisable hr hp h0).trans (congrArg Host.Outcome.next (slCtlWrite_disable hx he h0 h1 hq)),
       fun h0 h1 hq => (exec_slCtlReset hr hp h1).trans (congrArg Host.Outcome.next (slCtlWrite_reset hx he h0 h1 hq))⟩

end Sys2Proof.Machine
end

section
/-! PROOFS. The slice commands (O14): the owner's commands on a slice that is there, creation and quotas, the start and the end of a
reset, background zeroing, and the logging of dirty pages. -/

namespace Sys2Proof.Machine

/-! The owner's commands on a slice (R203, R222). -/

section
variable {s u : State} {op t : Nat} {cmd : List Byte} {x : Slice} {f : State → Nat → Slice → State × Option AdminRes}
  (hx : aget s.slices t = some x) (h : AdminReady s 0 op cmd t)
include hx h

/-- An owner's command whose body answers completes with that answer. -/
theorem ownerCmd_answers {r : AdminRes} (hf : f s t x = (u, some r)) : ownerCmd s 0 op cmd f = adminComplete u 0 op (leAt cmd 8 8) r := by
  rw [ownerCmd_ready h hx, hf]
/-- An owner's command whose body does not answer leaves its completion for later. -/
theorem ownerCmd_waits (hf : f s t x = (u, none)) : ownerCmd s 0 op cmd f = u := by
  rw [ownerCmd_ready h hx, hf]

end

/-! Creation, destruction and queries (R222, R223, R226). -/

/-- A slice without a PASID whose number, binding and handle range are free is created under that number. -/
theorem exec_createSlice {s : State} {cmd : List Byte} {t n : Nat} (h : AdminReady s 0 0x40 cmd t) (ha : par cmd 0x1C 15 1 = 0)
    (hn : n = par cmd 0x1C 0 14) (hx : aget s.slices n = none) (hp : par cmd 0x18 16 16 ≠ 0) (hq : par cmd 0x10 31 1 = 0)
    (hb : bindingBad s (par cmd 0x10 0 4) (par cmd 0x10 4 8) none (par cmd 0x18 0 16) (par cmd 0x18 16 16) = false)
    (hr : hrangeBad s (par cmd 0x20 0 24) (par cmd 0x24 0 24) = false) :
    exec (.createSlice 0 cmd) s = .next (adminComplete { s with slices := aset s.slices n ({
        link := some (par cmd 0x10 0 4), fnum := par cmd 0x10 4 8, pasid := none, page0 := par cmd 0x18 0 16, pages := par cmd 0x18 16 16,
        hbase := par cmd 0x20 0 24, hcount := par cmd 0x24 0 24 } : Slice) } 0 0x40 (leAt cmd 8 8) { aux := n }) := by
  subst hn
  refine congrArg Host.Outcome.next (runAdmin_answers h ?_)
  simp only [ne_eq, not_true_eq_false, if_false, ha, hq, Nat.zero_ne_one, hp, hb, hr, hx, Option.isNone_none, if_true, Bool.false_eq_true]

section
variable {s : State} {cmd : List Byte} {t : Nat} {x : Slice} (hx : aget s.slices t = some x)
include hx

theorem exec_destroySlice (h0 : t ≠ 0) (h : AdminReady s 0 0x41 cmd t) :
    exec (.destroySlice 0 cmd) s = .next (sliceReset (adminDefer s 0 0x41 (leAt cmd 8 8) t) t 6) :=
  congrArg Host.Outcome.next (ownerCmd_waits hx h (if_neg h0))
theorem exec_resetSlice {sl : Nat} (h : AdminReady s sl 0x44 cmd t) :
    exec (.resetSlice sl cmd) s = .next (sliceReset (adminDefer s sl 0x44 (leAt cmd 8 8) t) t 2) :=
  congrArg Host.Outcome.next (runAdmin_waits h (if_neg (by rw [hx]; exact Bool.false_ne_true)))
theorem exec_querySlice {sl : Nat} (h : AdminReady s sl 0x45 cmd t) :
    exec (.querySlice sl cmd) s = .next (adminComplete s sl 0x45 (leAt cmd 8 8) { aux := x.state + 256 * x.fault + 65536 * x.gen }) := by
  refine congrArg Host.Outcome.next (runAdmin_answers h ?_)
  simp only [hx, slStateWord]

/-! Quotas (R216, R222). -/

/-- A limit of a resource other than the key slots and the memory that is at least the use reclaims nothing. -/
theorem exec_setQuota {res limit : Nat} {u : State} (h : AdminReady s 0 0x42 cmd t) (hr : res = par cmd 0x10 0 8) (hl : limit = par cmd 0x18 0 64)
    (h7 : res < 7) (h5 : res ≠ 5) (hq : quotaBad s t x res limit x.ksBase = none)
    (hu : slUpd s t (fun y => { y with limits := aset y.limits res limit, ksBase := x.ksBase }) = u) (ho : useOf u t res ≤ limit) :
    exec (.setQuota 0 cmd) s = .next (adminComplete u 0 0x42 (leAt cmd 8 8) { aux := min (useOf u t res) 0xFFFFFFFF }) := by
  have hk : ¬ res > 7 := by omega
  have hm : res ≠ 7 := by omega
  have hn : decide (limit < useOf u t res) = false := decide_eq_false (by omega)
  refine congrArg Host.Outcome.next (ownerCmd_answers hx h ?_)
  simp only [← hr, ← hl, if_neg hk, if_neg h5, hq, if_neg hm, hu, hn, Bool.and_false, Bool.false_and, Bool.false_eq_true, if_false]
theorem exec_queryQuota {sl res : Nat} {env : Env} (h : AdminReady s sl 0x43 cmd t) (hr : res = par cmd 0x10 0 8) (h6 : res < 6)
    (he : envWrite env = STS_OK) :
    exec (.queryQuota sl cmd env) s = .next (adminComplete
      (slWrite s sl (par cmd 0x18 0 64) 0 (le 8 (sliceLimit s t res) ++ le 8 (useOf s t res))) sl 0x43 (leAt cmd 8 8) { len := 16 }) := by
  have hk : ¬ res > 7 := by omega
  have hm : ¬ res = 6 := by omega
  have hn : decide (res = 7) = false := decide_eq_false (by omega)
  refine congrArg Host.Outcome.next (runAdmin_answers h ?_)
  simp only [← hr, hx, Option.isNone_some, Bool.false_eq_true, if_false, if_neg hk, if_neg hm, hn, Bool.false_and, adminResult_ok he,
    List.length_append, le_length]

end

/-! Slice reset and background zeroing (R227, R228). -/

section
variable {s : State} {sl : Nat} {x : Slice} (hx : aget s.slices sl = some x)
include hx

theorem exec_sliceResetStart (h2 : x.state = 2) (hs : x.stopped = false) :
    exec (.sliceResetStart sl) s = .next
      (slUpd (svKeyless (svSliceReset (sliceKeysErase (sliceQpsStop (stuckDrop (sliceQueuesDrop (sliceChansStop s sl) sl) sl) sl) sl) sl x.cause)) sl
        (fun y => { y with stopped := true })) := by
  refine congrArg Host.Outcome.next ?_
  simp only [hx, h2, hs, ne_eq, not_true_eq_false, decide_false, Bool.or_self, Bool.false_eq_true, if_false]
theorem exec_sliceResetEnd (h2 : x.state = 2) (hs : x.stopped = true) : exec (.sliceResetEnd sl) s = .next (sliceResetEnd s sl) := by
  refine congrArg Host.Outcome.next (if_pos ?_)
  rw [hx, Option.any_some, h2, hs]; rfl

end

/-- A MiB of a slice's GDDR7 reads zero and counts as written. -/
def mibZeroed (s : State) (sl m : Nat) : State :=
  slUpd { s with mem := memClear s.mem (gmBase sl + m * mib) (gmBase sl + (m + 1) * mib) } sl (fun x => { x with written := insNat m x.written })

theorem mibZeroed_mem (s : State) (sl m : Nat) : (mibZeroed s sl m).mem = memClear s.mem (gmBase sl + m * mib) (gmBase sl + (m + 1) * mib) := rfl
theorem mibZeroed_slice {s : State} {sl : Nat} {x : Slice} (hx : aget s.slices sl = some x) (m : Nat) :
    aget (mibZeroed s sl m).slices sl = some { x with written := insNat m x.written } :=
  (aget_aupd_same ..).trans (congrArg (Option.map _) hx)
theorem mibZeroed_keeps (s : State) (sl m : Nat) : Keeps [.mem, .slices] s (mibZeroed s sl m) :=
  (Keeps.refl.set_mem rfl).set_slices rfl

theorem exec_backgroundZero {s : State} {sl m : Nat} {x : Slice} (hx : aget s.slices sl = some x) (hm : m < sliceLimit s sl 7)
    (hw : x.written.contains m = false) : exec (.backgroundZero sl m) s = .next (mibZeroed s sl m) := by
  have he : gmBase sl + m * mib + mib = gmBase sl + (m + 1) * mib := by rw [Nat.add_mul, Nat.one_mul, Nat.add_assoc]
  rw [mibZeroed, ← he]
  refine congrArg Host.Outcome.next (if_pos ?_)
  rw [hx, Option.any_some, hw, decide_eq_true hm]; rfl

/-! Dirty-page logging (R230 to R233). -/

/-- The mask zero selects every range that is started. -/
theorem logSelect_zero (x : Slice) : logSelect x 0 = some x.logs := rfl

section
variable {s : State} {cmd : List Byte} {t : Nat} {x : Slice} (hx : aget s.slices t = some x)
include hx

/-- The first range of a slice overlaps none, so that alignment and the total over the slices decide. -/
theorem exec_logStart {n base len bm : Nat} (h : AdminReady s 0 0x48 cmd t) (hn : n = par cmd 0x10 0 4) (hb : base = par cmd 0x18 0 64)
    (hl : len = par cmd 0x20 0 64) (hm : bm = par cmd 0x28 0 64) (h0 : len ≠ 0) (hab : base % 4096 = 0) (hal : len % 4096 = 0) (ham : bm % 8 = 0)
    (he : x.logs = []) (ht : (s.slices.map (fun e => (e.2.logs.map (fun r => r.2.len)).foldl (· + ·) 0)).foldl (· + ·) len ≤ 2 ^ 43) :
    exec (.logStart 0 cmd) s = .next (adminComplete
      (slUpd s t (fun y => { y with logs := aset y.logs n { base := base, len := len, bitmap := bm } })) 0 0x48 (leAt cmd 8 8) {}) := by
  subst hn hb hl hm
  refine congrArg Host.Outcome.next (ownerCmd_answers hx h ?_)
  simp only [he, h0, hab, hal, ham, Nat.not_lt.mpr ht, aget_nil, Option.isSome_none, List.any_nil, ne_eq, not_true_eq_false, decide_false,
    Bool.or_self, firstSts, Bool.false_eq_true, if_false]
theorem exec_logFlush_all {env : Env} {u : State} (h : AdminReady s 0 0x49 cmd t) (h0 : par cmd 0x10 0 16 = 0) (he : envWrite env = STS_OK)
    (hu : slUpd s t (fun y => { y with logs := amap y.logs (fun n r => if x.logs.any (fun e => e.1 == n) then { r with marks := [] } else r) }) = u) :
    exec (.logFlush 0 cmd env) s = .next (adminComplete (x.logs.foldl (fun s e => slWrite s 0 e.2.bitmap 0 (logBitmap e.2)) u) 0 0x49 (leAt cmd 8 8)
      { aux := min ((x.logs.map (fun e => e.2.marks.length)).foldl (· + ·) 0) 0xFFFFFFFF }) := by
  refine congrArg Host.Outcome.next (ownerCmd_answers hx h ?_)
  simp only [h0, logSelect_zero, he, ne_eq, not_true_eq_false, if_false, hu]
theorem exec_logStop_all (h : AdminReady s 0 0x4A cmd t) (h0 : par cmd 0x10 0 16 = 0) :
    exec (.logStop 0 cmd) s = .next (adminComplete
      (slUpd s t (fun y => { y with logs := y.logs.filter (fun e => !x.logs.any (fun r => r.1 == e.1)) })) 0 0x4A (leAt cmd 8 8) {}) := by
  refine congrArg Host.Outcome.next (ownerCmd_answers hx h ?_)
  simp only [h0, logSelect_zero]

end

/-- Settles O14: each command, where its checks pass, answers the state that its lemma names, and what background zeroing leaves is
read off. -/
theorem sliceCommandsComplete : Obligations.SliceCommandsComplete := by
  unfold Obligations.SliceCommandsComplete
  refine ⟨?create, ?target, ?reset, ?zero, ?log⟩
  case create => exact fun s cmd t n h ha hn hx hp hq hb hr => exec_createSlice h ha hn hx hp hq hb hr
  case target =>
    exact fun s cmd t x hx => ⟨exec_destroySlice hx, fun _ => exec_resetSlice hx, fun _ => exec_querySlice hx,
      fun _ _ h hr hl h7 h5 hq ho => exec_setQuota hx h hr hl h7 h5 hq rfl ho, fun _ _ _ => exec_queryQuota hx⟩
  case reset => exact fun s sl x hx h2 => ⟨exec_sliceResetStart hx h2, exec_sliceResetEnd hx h2⟩
  case zero =>
    exact fun s sl m x hx hm hw => ⟨_, exec_backgroundZero hx hm hw, mibZeroed_mem s sl m, mibZeroed_slice hx m, mibZeroed_keeps s sl m⟩
  case log =>
    exact fun s cmd t x hx => ⟨fun _ _ _ _ => exec_logStart hx, fun _ h h0 he => exec_logFlush_all hx h h0 he rfl, exec_logStop_all hx⟩

end Sys2Proof.Machine
end

section
/-! PROOFS. Images of slices (O15): freeze and thaw, EXPORT_SLICE of a slice without keys, and IMPORT_SLICE of an image without keys. -/

namespace Sys2Proof.Machine

/-! Freeze and thaw (R234, R237). -/

section
variable {s : State} {t : Nat} {x : Slice} (hx : aget s.slices t = some x)
include hx

theorem exec_freezeSlice {cmd : List Byte} {u : State} (h : AdminReady s 0 0x4C cmd t) (h1 : x.state = 1) (hf : x.freeze = none)
    (hu : adminDefer (slUpd s t (fun y => { y with freeze := some (s.time.elapsed, par cmd 0x10 0 32) })) 0 0x4C (leAt cmd 8 8) t = u) :
    exec (.freezeSlice 0 cmd) s = .next ((sliceChans u t).foldl flushIdle u) := by
  refine congrArg Host.Outcome.next (ownerCmd_waits hx h ?_)
  simp only [h1, hf, hu, ne_eq, not_true_eq_false, decide_false, Option.isSome_none, Bool.or_self, Bool.false_eq_true, if_false]
theorem exec_freezeComplete (h1 : x.state = 1) (hf : x.freeze.isSome = true) (hn : frozenNow s t = true) :
    exec (.freezeComplete t) s = .next
      (adminWake (raise (slUpd s t (fun y => { y with state := 4, freeze := none })) 0x024 [(2, t), (4, 4)]) 0x4C t {}) := by
  refine congrArg Host.Outcome.next ?_
  simp only [hx, h1, hn, Option.isNone_eq_false_iff.mpr hf, ne_eq, not_true_eq_false, decide_false, Bool.not_true, Bool.or_self,
    Bool.false_eq_true, if_false]
theorem exec_freezeTimeout {t0 us : Nat} (hf : x.freeze = some (t0, us)) (h0 : us ≠ 0) (ht : t0 + us * usUnits ≤ s.time.elapsed) :
    exec (.freezeTimeout t) s = .next
      (svResume (adminWake (qpTimersRestart (slUpd s t (fun y => { y with freeze := none })) t) 0x4C t { sts := STS_TIMEOUT })) := by
  refine congrArg Host.Outcome.next ?_
  simp only [hx, hf, h0, Nat.not_lt.mpr ht, decide_false, Bool.or_self, Bool.false_eq_true, if_false]

end

/-! Images without keys (R235, R236). -/

/-- A slice that holds no key asks no wrapping key of EXPORT_SLICE. -/
theorem exportSlot_noKeys {s : State} {t : Nat} {x : Slice} (cmd : List Byte) (hk : sliceKeys s t x = []) : exportSlot s t x cmd = .inr (s, 0) :=
  if_pos (by rw [hk]; rfl)
/-- An image without keys that is well formed and fits is placed. -/
theorem imageImport_noKeys {s : State} {t : Nat} {x : Slice} {secs : List (Nat × List (List Byte))} {bs : List Byte} (cmd : List Byte)
    (hi : readImage bs = some secs) (hw : imageWrong s t x secs = false) (hu : imageUnfit s t x secs = false) (hk : sectionOf secs 5 = []) :
    imageImport s t x cmd bs = (imagePlace s t x secs [], some {}) := by
  simp only [imageImport, hi, hw, hu, hk, Bool.false_eq_true, if_false, List.isEmpty_nil, if_true]
/-- A command that reads memory goes on with the bytes that it got. -/
theorem adminRead_ok {s u : State} {sl addr n : Nat} {env : Env} {bs : List Byte} {f : State → List Byte → State × Option AdminRes}
    (h : slFetch s sl [(addr, n)] 0 (envRead env 0) = (u, .ok bs)) : adminRead s sl addr n env f = f u bs := by
  rw [adminRead, h]

/-- After a thaw a ring takes up what the driver gave it meanwhile, unless it is in ERROR. -/
def ringThaw (s : State) (i : Nat) : State :=
  match chanGet s i with
  | some c => if c.state = 4 then s else (samplePidx s i).1
  | none => s

section
variable {s : State} {cmd : List Byte} {t : Nat} {x : Slice} (hx : aget s.slices t = some x)
include hx

theorem exec_thawSlice {u : State} (h : AdminReady s 0 0x4F cmd t) (h4 : x.state = 4)
    (hu : raise (slUpd s t (fun y => { y with state := 1 })) 0x024 [(2, t), (4, 1)] = u) :
    exec (.thawSlice 0 cmd) s = .next
      (adminComplete (svResume (qpTimersRestart ((sliceChans u t).foldl ringThaw u) t)) 0 0x4F (leAt cmd 8 8) {}) := by
  subst hu
  exact congrArg Host.Outcome.next (ownerCmd_answers hx h (if_neg (not_not_intro h4)))

/-! EXPORT_SLICE (R235). -/

theorem exec_exportSlice_noKeys {env : Env} (h : AdminReady s 0 0x4D cmd t) (h4 : x.state = 4) (hk : sliceKeys s t x = [])
    (hl : (sliceImage s t x 0).length ≤ par cmd 0x18 0 32) (he : envWrite env = STS_OK) :
    exec (.exportSlice 0 cmd env) s = .next
      (adminComplete (slWrite s 0 (par cmd 0x10 0 64) (payloadAttr s 0 false none none) (sliceImage s t x 0)) 0 0x4D (leAt cmd 8 8)
        { len := (sliceImage s t x 0).length }) := by
  refine congrArg Host.Outcome.next (ownerCmd_answers hx h ?_)
  simp only [h4, ne_eq, not_true_eq_false, if_false, Nat.not_lt.mpr hl, exportSlot_noKeys cmd hk, he]

/-! IMPORT_SLICE (R236). -/

/-- An image without keys that is well formed, holds no wrong entry and fits an empty slice is placed. -/
theorem exec_importSlice_noKeys {env : Env} {bs : List Byte} {secs : List (Nat × List (List Byte))} {u : State} (h : AdminReady s 0 0x4E cmd t)
    (h1 : x.state = 1) (hf : x.freeze = none) (he : sliceEmpty s t x = true) (hm : mayRead s 0 = true)
    (hr : slFetch s 0 [(par cmd 0x10 0 64, par cmd 0x18 0 32)] 0 (envRead env 0) = (u, .ok bs))
    (hi : readImage (fit (par cmd 0x18 0 32) bs) = some secs) (hw : imageWrong u t x secs = false) (hu : imageUnfit u t x secs = false)
    (hk : sectionOf secs 5 = []) :
    exec (.importSlice 0 cmd env) s = .next (adminComplete (imagePlace u t x secs []) 0 0x4E (leAt cmd 8 8) {}) := by
  have hn : ¬ (!mayRead s 0) = true := by rw [hm]; exact Bool.false_ne_true
  refine congrArg Host.Outcome.next ((if_neg hn).trans (ownerCmd_answers hx h ?_))
  simp only [h1, hf, he, ne_eq, not_true_eq_false, decide_false, Option.isSome_none, Bool.not_true, Bool.or_self, Bool.false_eq_true, if_false,
    adminRead_ok hr, imageImport_noKeys cmd hi hw hu hk]

end

/-- Settles O15: each command, where its checks pass, answers the state that its lemma names. -/
theorem sliceImageCommandsComplete : Obligations.SliceImageCommandsComplete := by
  unfold Obligations.SliceImageCommandsComplete
  intro s cmd t x hx
  refine ⟨?freeze, ?frozen, ?timeout, ?imageOut, ?imageIn, ?thaw⟩
  case freeze => exact fun h h1 hf => exec_freezeSlice hx h h1 hf rfl
  case frozen => exact exec_freezeComplete hx
  case timeout => exact fun _ _ => exec_freezeTimeout hx
  case imageOut => exact fun _ => exec_exportSlice_noKeys hx
  case imageIn => exact fun _ _ _ h h1 hf he hm hr hi hw hu hk => exec_importSlice_noKeys hx h h1 hf he hm (Prod.ext rfl hr) hi hw hu hk
  case thaw => exact fun h h4 => exec_thawSlice hx h h4 rfl

end Sys2Proof.Machine
end

section
/-! PROOFS. Table commands and what tables do by themselves (O17): the parse table, the table commands and their resumption, the
configuration, the scrub, the L2 engines and the DEEP fetches. -/

namespace Sys2Proof.Machine
-- As in the tests: declarations elaborated side by side would take the check past its memory.
set_option Elab.async false

/-! The parse table (R249). -/

section
variable {s u : State} {st p : Nat} {v : W32} (hu : plainWrite s (Reg.STA_PARSE_CMD st) 0x3FF v = u) (hp : cmdTarget u st = p) (h15 : rbit v 15 = false)
include hu hp h15

/-- A write of a legal entry to one stair puts it in that stair's idle bank. -/
theorem parseCmdWrite_put {e : Nat} (he : ofLe ((List.range 8).flatMap (fun w => le 4 (rdN u (Reg.STA_PARSE_DATA st w)))) = e) (hw : rbit v 13 = true)
    (hr : rbit v 12 = false) (hb : rbit v 9 = false) (hc : parseCause u [p] e false = none) :
    parseCmdWrite s st v = stairUpd u p (fun x => { x with parse := aset x.parse ((1 - rdF u (Reg.STA_PARSE_BANK p) 0 1) * 256 + rfld v 0 8) e }) := by
  simp only [parseCmdWrite, h15, hw, hr, hb, hu, hp, he, hc, Bool.false_eq_true, if_false, if_true, parsePut, List.foldl_cons, List.foldl_nil]
/-- A read shows the entry in STA_PARSE_DATA. -/
theorem parseCmdWrite_show (hw : rbit v 13 = false) (hr : rbit v 12 = true) :
    parseCmdWrite s st v = (List.range 8).foldl (fun s w =>
      wrN s (Reg.STA_PARSE_DATA st w) (fld (agetD (stairGet u p).parse (rfld v 8 1 * 256 + rfld v 0 8) 0) (32 * w) 32)) u := by
  simp only [parseCmdWrite, h15, hw, hr, hu, hp, Bool.false_eq_true, if_false, if_true]

end

theorem exec_parseWrite {s : State} {req : Requester} {st : Nat} {v : W32} (hs : st < 9) (hp : Passes s req (Reg.STA_PARSE_CMD st) false) (hw : rbit v 13 = true) :
    exec (.parseWrite req 15 st v) s = .next (parseCmdWrite s st v) := by
  show execParseWrite req 15 st v s = _
  simp only [execParseWrite, hs, hw, decide_true, Bool.and_self, if_true, gate_open hp]
theorem exec_parseRead {s : State} {req : Requester} {st : Nat} {v : W32} (hs : st < 9) (hp : Passes s req (Reg.STA_PARSE_CMD st) false) (hw : rbit v 13 = false)
    (hr : rbit v 12 = true) : exec (.parseRead req 15 st v) s = .next (parseCmdWrite s st v) := by
  show execParseRead req 15 st v s = _
  simp only [execParseRead, hs, hw, hr, decide_true, Bool.not_false, Bool.and_self, if_true, gate_open hp]

/-! The table commands (R307 to R310). -/

/-- The rows of the table commands of a stair, each with its OP. -/
def tableRows (req : Requester) (st ecc : Nat) (v : W32) : List (Nat × Instr) :=
  [(1, .tableLookup req 15 ⟨st, ecc⟩ v), (2, .tableRead req 15 ⟨st, ecc⟩ v), (3, .tableInsert req 15 ⟨st, ecc⟩ v), (4, .tableUpdate req 15 ⟨st, ecc⟩ v),
    (5, .tableDelete req 15 ⟨st, ecc⟩ v), (6, .tableWrite req 15 ⟨st, ecc⟩ v), (7, .tableErase req 15 ⟨st, ecc⟩ v), (8, .tableIter req 15 ⟨st, ecc⟩ v),
    (9, .tableClear req 15 ⟨st, ecc⟩ v)]
theorem exec_tableRows (s : State) (req : Requester) (st ecc : Nat) (v : W32) :
    ∀ r ∈ tableRows req st ecc v, r.1 ≠ 0 ∧ exec r.2 s = .next (tblCmdRow r.1 req 15 st v ecc s) := by
  iterate 9 refine List.forall_mem_cons.mpr ⟨⟨Nat.succ_ne_zero _, rfl⟩, ?_⟩
  exact List.forall_mem_nil _
theorem readCmd_op (s : State) (st : Nat) (v : W32) (ecc : Nat) : (readCmd s st v ecc).op = rfld v 8 4 := rfl
/-- A command that finds none busy and that nothing holds completes at once. -/
theorem tblCmdWrite_finishes {s : State} {st ecc : Nat} {v : W32} (hv : rbit v 17 = false) (ho : rfld v 8 4 ≠ 0) (hs : rdF s (Reg.STA_TBL_CMD st) 16 1 = 0)
    (hb : ∀ q ∈ cmdBusyStairs st (cmdTarget s st) (readCmd s st v ecc), rdF s (Reg.STA_TBL_CMD q) 16 1 = 0)
    (hw : cmdWaits (plainWrite s (Reg.STA_TBL_CMD st) 0x703F v) (cmdTarget s st) (readCmd s st v ecc) = false) :
    tblCmdWrite s st v ecc = cmdFinish (plainWrite s (Reg.STA_TBL_CMD st) 0x703F v) st (cmdTarget s st) (readCmd s st v ecc) := by
  have hn : (cmdBusyStairs st (cmdTarget s st) (readCmd s st v ecc)).any (fun q => rdF s (Reg.STA_TBL_CMD q) 16 1 == 1) = false :=
    List.any_eq_false.mpr fun q hq => by rw [hb q hq]; decide
  simp only [tblCmdWrite, readCmd_op, hs, hn, hv, hw, ho, Nat.zero_ne_one, decide_false, Bool.and_false, Bool.or_self, Bool.false_eq_true, if_false]
theorem tblCmdRow_open {s : State} {req : Requester} {st op : Nat} {v : W32} (hs : st < 9) (hp : Passes s req (Reg.STA_TBL_CMD st) false) (ho : rfld v 8 4 = op)
    (ecc : Nat) : tblCmdRow op req 15 st v ecc s = tblCmdWrite s st v ecc := by
  simp only [tblCmdRow, hs, ho, decide_true, Bool.and_self, if_true, gate_open hp]
/-- A command that waited unstaged completes once nothing holds it (R309). -/
theorem exec_tableCommandResume {s : State} {st : Nat} {c : TblCmd} (hc : (stairGet s st).cmd = some c) (hg : c.staged = false)
    (hw : cmdWaits s (cmdTarget s st) c = false) :
    exec (.tableCommandResume st) s = .next
      (cmdFinish (cmdBusyBits (stairUpd s st (fun x => { x with cmd := none })) (cmdBusyStairs st (cmdTarget s st) c) 0) st (cmdTarget s st) c) := by
  refine congrArg Host.Outcome.next ?_
  simp only [tblResume, hc, hg, hw, Bool.false_eq_true, if_false]

/-! Configuration (R306). -/

/-- The configuration `w` in force: each word within the bits that it implements. -/
def cfgApplied (s : State) (p t : Nat) (w : List Nat) : State :=
  (w.zip [0x0FFF7FFF, 0xFFFF, 0xFFFFFFFF, 0xFFFFFFFF, 0x1FFFFF, 0x1FFFFF, 0x1FFFFF, 0x1FFFFF, 0x1FFFFF, 0x1FFFFF, 0x1FFFFF, 0x1FFFFF, 0xFFFFFFFF, 0x1FFFFFF, 0, 0]).zipIdx.foldl
    (fun s e => wr s (Reg.STA_TBL_CFG p t e.2) (BitVec.ofNat 32 e.1.1 &&& BitVec.ofNat 32 e.1.2)) s
/-- The configuration that a write of word 0 takes leaves nothing held for its table: it is applied, or refused with its cause. -/
theorem exec_tblCfgApply {s u : State} {req : Requester} {p t : Nat} {v : W32} (hp : p < 9) (ht : t < 62) (hw : Passes s req (Reg.STA_TBL_CFG p t 0) false)
    (hu : stairUpd s p (fun x => { x with held := x.held.filter (fun e => e.1 / 16 ≠ t) }) = u) :
    exec (.tblCfgApply req 15 p t v) s = .next (match cfgCheck u p t (cfgWords s p t v) with
      | some c => wrN u (Reg.STA_TBL_CFG_STATUS p) (1 + 2 * c + 256 * t)
      | none => cfgApplied u p t (cfgWords s p t v)) := by
  have h64 : t < 64 := by omega
  show execTblCfgApply req 15 p t v s = _
  simp only [execTblCfgApply, hp, h64, decide_true, Bool.and_self, if_true, gate_open hw, tblCfgWrite, if_neg (Nat.not_le.mpr ht), ne_eq, not_true_eq_false, if_false, hu]
  rfl

/-! The scrub (R276, R296). -/

/-- The entries of a TCAM table with slot `k` as the guarded copy has it. -/
def shadowRestored (s : State) (p t k : Nat) : AMap TEntry :=
  match aget (agetD (stairGet s p).shadow t []) k with
  | some e => aset (entriesOf s p t) k e
  | none => adel (entriesOf s p t) k

/-- What a scrub's find `sh` in the words of the shadow does before the fix is reported: 1, a corrected error is counted; 2, the entry is restored
from the guarded copy. -/
def shadowActs (s : State) (p t k sh : Nat) : State :=
  if sh = 1 then bump s (Reg.STA_TBL_ECC_CNT p)
  else if sh = 2 then stairUpd s p (fun x => { x with tbls := aset x.tbls t (shadowRestored s p t k) })
  else s
def scrubbed (s : State) (p t k sh : Nat) : State :=
  raise (bump (shadowActs s p t k sh) (Reg.STA_TBL_SCRUB_FIX_CNT p)) (stairSrc p 9) [(4, t), (4, k)]

theorem exec_tcamScrub {s : State} {p t k sh : Nat} (hp : p < 9) (ht : tblKind s p t = 3) (hk : k < 4096) (hs : sh < 3)
    (hg : sh = 2 → guardedGone s 2 p 0 = false) : exec (.tcamScrub p t ⟨k, sh⟩) s = .next (scrubbed s p t k sh) := by
  have hg' : (sh == 2 && guardedGone s 2 p 0) = false := by
    by_cases h : sh = 2
    · rw [hg h, Bool.and_false]
    · rw [beq_false_of_ne h, Bool.false_and]
  show execTcamScrub p t ⟨k, sh⟩ s = _
  simp only [execTcamScrub, hp, ht, hk, hs, hg', decide_true, Bool.not_false, Bool.and_self, if_true]
  obtain rfl | rfl | rfl : sh = 0 ∨ sh = 1 ∨ sh = 2 := by omega
  · rfl
  · rfl
  · rfl

theorem scrubFix_ne_lost (p : Nat) : Reg.STA_TBL_SCRUB_FIX_CNT p ≠ Reg.OZ_EV_LOST_CNT := by unfold Reg.STA_TBL_SCRUB_FIX_CNT Reg.OZ_EV_LOST_CNT; omega
theorem tblEcc_ne_lost (p : Nat) : Reg.STA_TBL_ECC_CNT p ≠ Reg.OZ_EV_LOST_CNT := by unfold Reg.STA_TBL_ECC_CNT Reg.OZ_EV_LOST_CNT; omega
theorem tblEcc_ne_scrubFix (p : Nat) : Reg.STA_TBL_ECC_CNT p ≠ Reg.STA_TBL_SCRUB_FIX_CNT p := by unfold Reg.STA_TBL_ECC_CNT Reg.STA_TBL_SCRUB_FIX_CNT; omega

section
variable (s : State) (p t k sh : Nat)

/-- Beside its table a scrub's fix writes the count of corrected errors alone. -/
theorem shadowActs_rd {x : Nat} (h : x ≠ Reg.STA_TBL_ECC_CNT p) : rd (shadowActs s p t k sh) x = rd s x := by
  by_cases h1 : sh = 1
  · exact (congrArg (rd · x) (if_pos h1)).trans (bump_rd_ne _ _ _ h)
  · exact (congrArg (rd · x) (if_neg h1)).trans (by split <;> rfl)
theorem shadowActs_keeps : Keeps [.regs, .stairs] s (shadowActs s p t k sh) :=
  Keeps.ite ((bump_k ..).keeps.weak rfl) (Keeps.ite ((stairUpd_k ..).keeps.weak rfl) Keeps.refl)
theorem shadowActs_keeps_stairs (h : sh ≠ 2) : Keeps [.regs] s (shadowActs s p t k sh) :=
  Keeps.ite (bump_k ..).keeps (by rw [if_neg h]; exact Keeps.refl)
/-- The report of a fix leaves all but its count and the router alone. -/
theorem scrubbed_from_shadowActs : Keeps [.regs, .ev] (shadowActs s p t k sh) (scrubbed s p t k sh) := (bump_k ..).keeps.after' (raise_k ..).keeps
theorem scrubbed_fixes : rdN (scrubbed s p t k sh) (Reg.STA_TBL_SCRUB_FIX_CNT p) = (rdN s (Reg.STA_TBL_SCRUB_FIX_CNT p) + 1) % 2 ^ 32 :=
  calc rdN (scrubbed s p t k sh) (Reg.STA_TBL_SCRUB_FIX_CNT p)
    _ = rdN (bump (shadowActs s p t k sh) (Reg.STA_TBL_SCRUB_FIX_CNT p)) (Reg.STA_TBL_SCRUB_FIX_CNT p) := rdN_eq (raise_rd _ _ _ (scrubFix_ne_lost p))
    _ = (rdN (shadowActs s p t k sh) (Reg.STA_TBL_SCRUB_FIX_CNT p) + 1) % 2 ^ 32 := bump_same ..
    _ = (rdN s (Reg.STA_TBL_SCRUB_FIX_CNT p) + 1) % 2 ^ 32 := by rw [rdN_eq (shadowActs_rd s p t k sh (tblEcc_ne_scrubFix p).symm)]
theorem scrubbed_corrected : rdN (scrubbed s p t k 1) (Reg.STA_TBL_ECC_CNT p) = (rdN s (Reg.STA_TBL_ECC_CNT p) + 1) % 2 ^ 32 :=
  calc rdN (scrubbed s p t k 1) (Reg.STA_TBL_ECC_CNT p)
    _ = rdN (bump (bump s (Reg.STA_TBL_ECC_CNT p)) (Reg.STA_TBL_SCRUB_FIX_CNT p)) (Reg.STA_TBL_ECC_CNT p) := rdN_eq (raise_rd _ _ _ (tblEcc_ne_lost p))
    _ = rdN (bump s (Reg.STA_TBL_ECC_CNT p)) (Reg.STA_TBL_ECC_CNT p) := rdN_eq (bump_rd_ne _ _ _ (tblEcc_ne_scrubFix p))
    _ = (rdN s (Reg.STA_TBL_ECC_CNT p) + 1) % 2 ^ 32 := bump_same ..
theorem scrubbed_restored : entriesOf (scrubbed s p t k 2) p t = shadowRestored s p t k :=
  calc entriesOf (scrubbed s p t k 2) p t
    _ = agetD (stairGet (stairUpd s p (fun x => { x with tbls := aset x.tbls t (shadowRestored s p t k) })) p).tbls t [] :=
      congrArg (fun x : Stair => agetD x.tbls t []) (stairGet_eq ((scrubbed_from_shadowActs s p t k 2).stairs rfl) p)
    _ = shadowRestored s p t k := by rw [stairGet_stairUpd, agetD_aset_same]
theorem scrubbed_keeps : Keeps [.regs, .ev, .stairs] s (scrubbed s p t k sh) := (shadowActs_keeps ..).after' (scrubbed_from_shadowActs ..)
theorem scrubbed_keeps_stairs (h : sh ≠ 2) : Keeps [.regs, .ev] s (scrubbed s p t k sh) := (shadowActs_keeps_stairs _ _ _ _ _ h).after' (scrubbed_from_shadowActs ..)

end

/-! The L2 engines (R298, R299, R301). -/

theorem exec_l2Learn {s : State} {p : Nat} {r : LearnReq} {rest : List LearnReq} (h : (stairGet s p).learns = r :: rest) :
    exec (.l2Learn p) s = .next (learnOne (stairUpd s p (fun x => { x with learns := rest })) p r) := by
  show execL2Learn p s = _
  simp only [execL2Learn, h]

/-- An ageing pass leaves the marks of an entry alone: it is static, or a learn request of this core clock reached it. -/
def keepsMarks (s : State) (p : Nat) (e : TEntry) : Bool := e.flags % 2 ≠ 0 || ((stairGet s p).learntAt == s.time.clocks && (stairGet s p).learnt.contains e.key)
/-- The entries that an ageing pass leaves, with their marks. -/
def agedEntries (s : State) (p : Nat) : AMap TEntry :=
  ((entriesOf s p 63).filter (fun e => e.2.flags ≠ 0)).map (fun e => (e.1, if keepsMarks s p e.2 then e.2 else { e.2 with flags := 0 }))
theorem exec_l2AgeingPass {s : State} {p : Nat} (hp : p < 9) (h0 : rdF s (Reg.STA_L2_CTL p) 0 16 ≠ 0)
    (ht : (stairGet s p).aged + rdF s (Reg.STA_L2_CTL p) 0 16 * (1000 * msUnits) ≤ s.time.elapsed) :
    exec (.l2AgeingPass p) s = .next (bump (setEntries (stairUpd s p (fun x => { x with aged := s.time.elapsed })) p 63 (agedEntries s p)) (Reg.STA_L2_AGED_CNT p)
      ((entriesOf s p 63).filter (fun e => e.2.flags == 0)).length) := by
  show execL2AgeingPass p s = _
  simp only [execL2AgeingPass, hp, h0, ht, ne_eq, not_false_eq_true, decide_true, Bool.and_self, if_true]
  rfl
/-- The last entry of a load, whose key the table holds, changes no entry, and its load ends and is reported. -/
theorem exec_l2LoadComplete_held {s u : State} {p n k : Nat} {e : TEntry} (hk : (stairGet s p).loaded = some k) (hl : (stairGet s p).loading = [e]) (hn : 1 ≤ n)
    (hf : (findSlot (entriesOf s p 63) (candSlots 65536 (0, 0xFFFFFFFF) e.key ++ stashSlots 65536) (fun x => x.key == e.key)).isSome = true)
    (hu : setEntries (stairUpd s p (fun x => { x with loading := [], loaded := none })) p 63 (entriesOf s p 63) = u) :
    exec (.l2LoadComplete ⟨p, n⟩) s = .next (raise u (stairSrc p 12) [(4, unitRole u p), (4, k)]) := by
  have ht : [e].take n = [e] := List.take_of_length_le hn
  have hd : [e].drop n = [] := List.drop_of_length_le hn
  show execL2LoadComplete ⟨p, n⟩ s = _
  simp only [execL2LoadComplete, hk, hl, ht, hd, List.foldl_cons, List.foldl_nil, hf, if_true, List.isEmpty_nil, hu]

/-! DEEP fetches (R302, R304). -/

theorem exec_deepFetchStart_free {s : State} {p t b : Nat} (hp : p < 9) (hk : tblKind s p t = 5) (hb : b < tcf s p t 13 0 25) (h0 : deepSets s p t ≠ 0)
    (hl : lineOf s p t b = none) (hh : s.land.hall.any (fun x => deepAt s p t b x.key) = true) (hu : unitState s p ≠ 3)
    (hf : ((stairGet s p).lines.filter (fun l => l.table == t && l.bucket % deepSets s p t == b % deepSets s p t)).length < 4) :
    exec (.deepFetchStart p t b) s = .next (stairSet s p { stairGet s p with
      lines := (stairGet s p).lines ++ [{ table := t, bucket := b, valid := false, used := (stairGet s p).clock }], clock := (stairGet s p).clock + 1 }) := by
  show execDeepFetchStart p t b s = _
  simp only [execDeepFetchStart, hp, hk, hb, h0, hl, hh, if_neg hu, if_pos hf, ne_eq, not_false_eq_true, decide_true, Option.isNone_none, Bool.true_or,
    Bool.and_self, if_true]
theorem exec_deepFetchComplete_ok {s : State} {p t b : Nat} (hl : (lineOf s p t b).any (fun l => !l.valid) = true) (hu : unitState s p ≠ 3)
    (hg : guardedGone s 0 (p * 64 + t) b = false) :
    (let u := stairUpd s p (fun x =>
      { x with lines := x.lines.map (fun l => if l.table = t && l.bucket = b then { l with valid := true, used := x.clock } else l), clock := x.clock + 1 })
     exec (.deepFetchComplete p t b true) s = .next (unpark u (fun x => deepOf p t x.key && keyHere u x.key) (unitRole u p))) := by
  show execDeepFetchComplete p t b true s = _
  simp only [execDeepFetchComplete, hl, if_neg hu, hg, Bool.not_false, Bool.and_self, if_true]

/-- Settles O17: each command and each event, where its condition holds, answers the state that its lemma names. -/
theorem tableCommandsComplete : Obligations.TableCommandsComplete := by
  unfold Obligations.TableCommandsComplete
  refine ⟨?parse, ?command, ?resume, ?config, ?scrub, ?learn, ?age, ?start, ?fetched⟩
  case parse =>
    intro s req st v hs hp h15 u p e
    refine ⟨fun hw hr hb hc => ?_, fun hw hr => ?_⟩
    · exact (exec_parseWrite hs hp hw).trans (congrArg Host.Outcome.next (parseCmdWrite_put rfl rfl h15 rfl hw hr hb hc))
    · exact (exec_parseRead hs hp hw hr).trans (congrArg Host.Outcome.next (parseCmdWrite_show rfl rfl h15 hw hr))
  case command =>
    intro s req st op ecc v i hs hp ho hv hi c p u h0 hb _ hw
    obtain ⟨hne, he⟩ := exec_tableRows s req st ecc v (op, i) hi
    exact he.trans (congrArg Host.Outcome.next ((tblCmdRow_open hs hp ho ecc).trans (tblCmdWrite_finishes hv (ho ▸ hne) h0 hb hw)))
  case resume => exact fun s st c hc hg hw => exec_tableCommandResume hc hg hw
  case config =>
    intro s req p t v hp ht hw u
    have he := exec_tblCfgApply (v := v) hp ht hw rfl
    exact ⟨fun c hc => he.trans (by rw [hc]), fun hc => he.trans (by rw [hc]; rfl)⟩
  case scrub =>
    intro s p t k sh hp ht hk hs hg
    refine ⟨_, exec_tcamScrub hp ht hk hs hg, scrubbed_fixes .., ?_, ?_, scrubbed_keeps_stairs s p t k sh, scrubbed_keeps ..⟩
    · exact fun h => h ▸ scrubbed_corrected s p t k
    · exact fun h => h ▸ scrubbed_restored s p t k
  case learn => exact fun s p r rest h => exec_l2Learn h
  case age => exact fun s p hp => ⟨fun h0 ht => exec_l2AgeingPass hp h0 ht, fun e n k hk hl hn hf => exec_l2LoadComplete_held hk hl hn hf rfl⟩
  case start => exact fun s p t b hp hk hb h0 hl hh hu hf => exec_deepFetchStart_free hp hk hb h0 hl hh hu hf
  case fetched => exact fun s p t b hl hu hg => exec_deepFetchComplete_ok hl hu hg

end Sys2Proof.Machine
end

section
/-! PROOFS. Sheaves, rehearsals, arrays and meters (O18) and the ends of a drain (O49): the writes of LD_SHEAF_CMD, what ends and what
limits a drain, the sweep, the writes of LD_RH_CTL, and the commands on arrays and meters. -/

namespace Sys2Proof.Machine
-- As in the tests: declarations elaborated side by side would take the check past its memory.
set_option Elab.async false

/-! Commits, their cancelling and their undoing (R318 to R323). -/

theorem sheafCmdRow_open {s : State} {req : Requester} {v : W32} {ok : Bool} (hp : Passes s req Reg.LD_SHEAF_CMD false) (hok : ok = true) :
    sheafCmdRow ok req 15 v s = sheafCmdWrite s v := by
  rw [sheafCmdRow, if_pos hok, gate_open hp]

section
variable {s : State} {v : W32} (h3 : rbit v 3 = false)
include h3

/-- A write of LD_SHEAF_CMD that clears no error and carries one command does that command on the written register. -/
theorem sheafCmdWrite_commit (h0 : rbit v 0 = true) (h12 : rbit v 12 = false) (h13 : rbit v 13 = false) :
    sheafCmdWrite s v = commitAsk (plainWrite s Reg.LD_SHEAF_CMD 2 v) (rbit v 1) := by
  simp only [sheafCmdWrite, h0, h3, h12, h13, Bool.false_eq_true, if_false, if_true]
theorem sheafCmdWrite_cancel (h0 : rbit v 0 = false) (h12 : rbit v 12 = true) (h13 : rbit v 13 = false) :
    sheafCmdWrite s v = commitCancel (plainWrite s Reg.LD_SHEAF_CMD 2 v) := by
  simp only [sheafCmdWrite, h0, h3, h12, h13, Bool.false_eq_true, if_false, if_true]
theorem sheafCmdWrite_unstage (h0 : rbit v 0 = false) (h12 : rbit v 12 = false) (h13 : rbit v 13 = true) :
    sheafCmdWrite s v = unstage (plainWrite s Reg.LD_SHEAF_CMD 2 v) := by
  simp only [sheafCmdWrite, h0, h3, h12, h13, Bool.false_eq_true, if_false, if_true]

end

section
variable {s : State} {req : Requester} {v : W32} (hp : Passes s req Reg.LD_SHEAF_CMD false) (h3 : rbit v 3 = false)
include hp h3

theorem exec_sheafCommit (h0 : rbit v 0 = true) (h1 : rbit v 1 = false) (h12 : rbit v 12 = false) (h13 : rbit v 13 = false) :
    exec (.sheafCommit req 15 v) s = .next (commitAsk (plainWrite s Reg.LD_SHEAF_CMD 2 v) false) :=
  congrArg Host.Outcome.next ((sheafCmdRow_open hp (by rw [h0, h1]; rfl)).trans (h1 ▸ sheafCmdWrite_commit h3 h0 h12 h13))
theorem exec_sheafCommitAt (h0 : rbit v 0 = true) (h1 : rbit v 1 = true) (h12 : rbit v 12 = false) (h13 : rbit v 13 = false) :
    exec (.sheafCommitAt req 15 v) s = .next (commitAsk (plainWrite s Reg.LD_SHEAF_CMD 2 v) true) :=
  congrArg Host.Outcome.next ((sheafCmdRow_open hp (by rw [h0, h1]; rfl)).trans (h1 ▸ sheafCmdWrite_commit h3 h0 h12 h13))
theorem exec_sheafCancel (h0 : rbit v 0 = false) (h12 : rbit v 12 = true) (h13 : rbit v 13 = false) :
    exec (.sheafCancel req 15 v) s = .next (commitCancel (plainWrite s Reg.LD_SHEAF_CMD 2 v)) :=
  congrArg Host.Outcome.next ((sheafCmdRow_open hp h12).trans (sheafCmdWrite_cancel h3 h0 h12 h13))
theorem exec_sheafUnstage (h0 : rbit v 0 = false) (h12 : rbit v 12 = false) (h13 : rbit v 13 = true) :
    exec (.sheafUnstage req 15 v) s = .next (unstage (plainWrite s Reg.LD_SHEAF_CMD 2 v)) :=
  congrArg Host.Outcome.next ((sheafCmdRow_open hp h13).trans (sheafCmdWrite_unstage h3 h0 h12 h13))

end

/-- A commit is pending; one with a time that lies back, or with none, is late. -/
def commitNoted (s : State) (timed : Bool) : State :=
  sheafUpd s (fun x => { x with pending := true, timed := timed, late := timed && (rd64 s Reg.LD_SHEAF_AT_LO == 0 || decide (rd64 s Reg.LD_SHEAF_AT_LO < nowNs s)) })
/-- The table command that a stair keeps waiting stands ahead of the commit. -/
def commitQueued (s : State) (timed : Bool) : State := { commitNoted s timed with
  stairs := amap s.stairs (fun _ x => { x with cmd := x.cmd.map (fun c => { c with early := true }) }) }
/-- LD_SHEAF_CMD shows the pending commit. -/
def commitAsked (s : State) (timed : Bool) : State := wrF (wrF (commitQueued s timed) Reg.LD_SHEAF_CMD 2 1 1) Reg.LD_SHEAF_CMD 4 8 0
/-- With no commit pending, no drain under way where it is to be at once, and no sweep too far behind, a commit is taken (R318 to R320). -/
theorem commitAsk_taken {s : State} {timed : Bool} (hp : s.sheaf.pending = false) (hd : timed = false → rdF s Reg.LD_SHEAF_DRAIN 16 1 = 0)
    (hs : ∀ o ∈ s.sheaf.sweeps, sub16 (sheafStaged s + 1) o < 1024) : commitAsk s timed = commitAsked s timed := by
  have hb : ¬ (!timed && decide (rdF s Reg.LD_SHEAF_DRAIN 16 1 = 1)) = true := by
    cases timed with
    | true => exact Bool.false_ne_true
    | false => rw [hd rfl]; decide
  have hw : s.sheaf.sweeps.any (fun o => decide (sub16 (sheafStaged s + 1) o ≥ 1024)) = false :=
    List.any_eq_false.mpr fun o ho => by simpa using hs o ho
  unfold commitAsk
  rw [if_neg (by rw [hp]; decide), if_neg hb, if_neg (by rw [hw]; decide)]
  rfl
theorem commitAsked_pending (s : State) (timed : Bool) : (commitAsked s timed).sheaf.pending = true := rfl
theorem commitAsked_timed (s : State) (timed : Bool) : (commitAsked s timed).sheaf.timed = timed := rfl
theorem commitAsked_shown (s : State) (timed : Bool) : rdF (commitAsked s timed) Reg.LD_SHEAF_CMD 2 1 = 1 :=
  (rdF_wrF_other _ _ _ _ _ _ _ (by decide) (.inl (by decide))).trans (rdF_wrF_same _ _ _ _ _ (by decide))
theorem commitQueued_keeps (s : State) (timed : Bool) : Keeps [.sheaf, .stairs] s (commitQueued s timed) :=
  ((sheafUpd_k ..).keeps.weak rfl : Keeps _ s (commitNoted s timed)).set_stairs rfl
theorem commitAsked_shows (s : State) (timed : Bool) : Keeps [.regs] (commitQueued s timed) (commitAsked s timed) := (wrF_k ..).keeps.after' (wrF_k ..).keeps
theorem commitAsked_keeps (s : State) (timed : Bool) : Keeps [.regs, .sheaf, .stairs] s (commitAsked s timed) :=
  (commitQueued_keeps s timed).after' (commitAsked_shows s timed)

/-- The write of LD_SHEAF_CMD leaves what decides on a commit: one that is asked for while nothing is pending, draining or to be swept is taken. -/
theorem commitAsk_written {s : State} {v : W32} (hp : s.sheaf.pending = false) (hd : rdF s Reg.LD_SHEAF_DRAIN 16 1 = 0) (hs : s.sheaf.sweeps = []) (timed : Bool) :
    commitAsk (plainWrite s Reg.LD_SHEAF_CMD 2 v) timed = commitAsked (plainWrite s Reg.LD_SHEAF_CMD 2 v) timed :=
  commitAsk_taken hp (fun _ => (rdF_eq (rd_wr_ne _ _ (by decide))).trans hd) fun o ho => absurd (hs ▸ ho : o ∈ []) List.not_mem_nil

/-- A pending timed commit is withdrawn. -/
def commitWithdrawn (s : State) : State :=
  wrF (sheafUpd s (fun x => { x with pending := false, timed := false, late := false })) Reg.LD_SHEAF_CMD 2 1 0
theorem commitCancel_timed {s : State} (hp : s.sheaf.pending = true) (ht : s.sheaf.timed = true) : commitCancel s = commitWithdrawn s :=
  if_pos (by rw [hp, ht]; rfl)
theorem commitWithdrawn_shown (s : State) : rdF (commitWithdrawn s) Reg.LD_SHEAF_CMD 2 1 = 0 := rdF_wrF_same _ _ _ _ _ (by decide)
theorem commitWithdrawn_keeps (s : State) : Keeps [.regs, .sheaf] s (commitWithdrawn s) := (sheafUpd_k ..).keeps.after' (wrF_k ..).keeps

theorem exec_sheafCommitEffect {s : State} (h : commitReady s = true) :
    exec .sheafCommitEffect s = .next (commitNow (if commitLate s then lateFiring s else s) (commitLate s)) := congrArg Host.Outcome.next (if_pos h)

/-! The end of a drain and its sweep (R280, R324). -/

/-- No microcode bank is in use for the old sheaf any more. -/
def drainBanks (s : State) : State := (List.range 9).foldl (fun s q => [0, 1].foldl (fun s fl => wrF s (Reg.STA_UC_BANK q fl) 2 1 0) s) s
/-- The events of a drain's end: the drain, and what its limit dropped. -/
def drainEvents (s : State) (old : Nat) : State :=
  let s := raise s 0x7F1 [(4, old), (4, elNs s - s.sheaf.since)]
  if s.sheaf.expired = 0 then s else raise s 0x7F2 [(4, old), (4, s.sheaf.expired)]
/-- A sweep is owed for the drained sheaf, and LD_SHEAF_SWEEP shows the first that is owed. -/
def sweepOwed (s : State) (old : Nat) : State :=
  wrN (sheafUpd s (fun x => { x with sweeps := s.sheaf.sweeps ++ [old], exchanged := 0, limited := false, expired := 0, freed := nowNs s }))
    Reg.LD_SHEAF_SWEEP ((s.sheaf.sweeps ++ [old]).headD 0 + 0x10000)
def drained (s : State) (old : Nat) : State := sweepOwed (drainEvents (drainBanks (wrF s Reg.LD_SHEAF_DRAIN 16 1 0)) old) old

theorem exec_sheafDrain {s : State} {old : Nat} (hd : draining s = some old) (h0 : oldCount s = 0) : exec .sheafDrain s = .next (drained s old) := by
  refine congrArg Host.Outcome.next ?_
  simp only [hd]
  exact if_neg (not_not_intro h0)

theorem drainBanks_keeps (s : State) : Keeps [.regs] s (drainBanks s) :=
  Keeps.refl.foldl fun _ _ h => Keeps.foldl h fun _ _ h => h.after' (wrF_k ..).keeps
theorem drainBanks_rdF (s : State) {r : Nat} (h : ∀ q fl, r ≠ Reg.STA_UC_BANK q fl) (lo w : Nat) : rdF (drainBanks s) r lo w = rdF s r lo w :=
  fold_rdF _ _ _ _ _ (fun _ q _ => fold_rdF _ _ _ _ _ (fun _ fl _ => rdF_wrF_ne _ _ _ _ _ _ (h q fl)) _) _
theorem drainEvents_rdF (s : State) (old : Nat) {r : Nat} (h : r ≠ Reg.OZ_EV_LOST_CNT) (lo w : Nat) : rdF (drainEvents s old) r lo w = rdF s r lo w := by
  unfold drainEvents
  dsimp only
  split
  · exact rdF_eq (raise_rd _ _ _ h)
  · exact (rdF_eq (raise_rd _ _ _ h)).trans (rdF_eq (raise_rd _ _ _ h))
theorem drainEvents_keeps (s : State) (old : Nat) : Keeps [.regs, .ev] s (drainEvents s old) :=
  Keeps.ite (raise_k ..).keeps ((raise_k ..).keeps.after' (raise_k ..).keeps)
theorem drain_ne_ucBank (q fl : Nat) : Reg.LD_SHEAF_DRAIN ≠ Reg.STA_UC_BANK q fl := by unfold Reg.LD_SHEAF_DRAIN Reg.STA_UC_BANK; omega
theorem drained_shown (s : State) (old : Nat) : rdF (drained s old) Reg.LD_SHEAF_DRAIN 16 1 = 0 :=
  calc rdF (drained s old) Reg.LD_SHEAF_DRAIN 16 1
    _ = rdF (drainEvents (drainBanks (wrF s Reg.LD_SHEAF_DRAIN 16 1 0)) old) Reg.LD_SHEAF_DRAIN 16 1 := rdF_wrN_ne _ _ _ _ (by decide)
    _ = rdF (drainBanks (wrF s Reg.LD_SHEAF_DRAIN 16 1 0)) Reg.LD_SHEAF_DRAIN 16 1 := drainEvents_rdF _ _ (by decide) _ _
    _ = rdF (wrF s Reg.LD_SHEAF_DRAIN 16 1 0) Reg.LD_SHEAF_DRAIN 16 1 := drainBanks_rdF _ drain_ne_ucBank _ _
    _ = 0 := rdF_wrF_same _ _ _ _ _ (by decide)
theorem drained_sweeps (s : State) (old : Nat) : (drained s old).sheaf.sweeps = s.sheaf.sweeps ++ [old] :=
  congrArg (fun x : SheafSt => x.sweeps ++ [old]) ((drainEvents_keeps ..).sheaf.trans (drainBanks_keeps _).sheaf)
theorem sheafDrain_completes (s : State) (old : Nat) (hd : draining s = some old) (h0 : oldCount s = 0) :
    ∃ t, exec .sheafDrain s = .next t ∧ rdF t Reg.LD_SHEAF_DRAIN 16 1 = 0 ∧ t.sheaf.sweeps = s.sheaf.sweeps ++ [old] ∧ Keeps [.regs, .ev, .sheaf] s t :=
  ⟨_, exec_sheafDrain hd h0, drained_shown s old, drained_sweeps s old, (exec_kept (exec_sheafDrain hd h0)).keeps⟩

/-- A stair with its tables but those of parsing and learning swept, in the TCAM and in the guarded copy. -/
def sweptStair (cur : Nat) (x : Stair) : Stair :=
  { x with tbls := amap x.tbls (fun t m => if t ≥ 62 then m else sweepMap cur m), shadow := amap x.shadow (fun _ m => sweepMap cur m) }
/-- Every stair and the longest-match store are swept, and no sweep is owed. -/
def swept (s : State) : State := { s with
  stairs := amap s.stairs (fun _ x => sweptStair (sheafCur s) x)
  lpm := s.lpm.filterMap (fun e => (sweepEntry (sheafCur s) e.2.2).map (fun y => (e.1, (e.2.1, y))))
  sheaf := { s.sheaf with sweeps := [] } }
theorem exec_sheafSweep {s : State} (hs : s.sheaf.sweeps ≠ []) (hd : rdF s Reg.LD_SHEAF_DRAIN 16 1 = 0) :
    exec .sheafSweep s = .next (wrN (swept s) Reg.LD_SHEAF_SWEEP 0) :=
  congrArg Host.Outcome.next (if_neg (by simp [hs, hd]))
theorem mem_amap {α : Type} {m : AMap α} {k : Nat} {a : α} (f : Nat → α → α) (h : (k, a) ∈ m) : (k, f k a) ∈ amap m f :=
  List.mem_map_of_mem (f := fun e => (e.1, f e.1 e.2)) h

/-! The limit of a drain (R325). -/

/-- The packets of the old sheaf that await re-entry, each with its flight. -/
def oldAgain (s : State) : List (Nat × Pkt) :=
  s.land.entry.flatMap (fun (e : Nat × EntryQ) => (e.2.again.filter (fun k => isOld s k.md)).map (fun k => (e.1 % 2, k)))
/-- The limit has acted: of the old sheaf nothing waits in the hall or for re-entry. -/
def limitMarked (s : State) : State := { s with
  sheaf := { s.sheaf with limited := true }
  land := { s.land with
    hall := s.land.hall.filter (fun x => !isOld s x.pkt.md)
    entry := amap s.land.entry (fun _ e => { e with again := e.again.filter (fun k => !isOld s k.md) }) } }
/-- What waited of the old sheaf is dropped. -/
def limitActs (s : State) : State :=
  (oldAgain s).foldl (fun s k => expirePkt s k.1 k.2)
    ((s.land.hall.filter (fun x => isOld s x.pkt.md)).foldl (fun s x => expirePkt s x.flight x.pkt) (limitMarked s))
theorem exec_sheafDrainLimit {s : State} (hd : (draining s).isSome = true) (h0 : rdN s Reg.LD_SHEAF_LIMIT ≠ 0) (hl : s.sheaf.limited = false)
    (ht : s.sheaf.since + rdN s Reg.LD_SHEAF_LIMIT * 1000 ≤ elNs s) : exec .sheafDrainLimit s = .next (limitActs s) := by
  have hn : (draining s).isNone = false := by rw [← Option.not_isSome, hd]; rfl
  refine congrArg Host.Outcome.next (if_neg ?_)
  simp [hn, h0, hl, Nat.not_lt.mpr ht]
/-- Where nothing of the old sheaf waits, nothing is dropped. -/
theorem limitActs_idle {s : State} (hh : s.land.hall.filter (fun x => isOld s x.pkt.md) = []) (he : s.land.entry = []) : limitActs s = limitMarked s := by
  simp only [limitActs, oldAgain, hh, he, List.flatMap_nil, List.foldl_nil]
/-- Where nothing waits at all, the landing stays as it is. -/
theorem limitMarked_empty {s : State} (hh : s.land.hall = []) (he : s.land.entry = []) :
    limitMarked s = { s with sheaf := { s.sheaf with limited := true } } := by
  have hl : { s.land with hall := [], entry := [] } = s.land := by rw [← hh, ← he]
  simp only [limitMarked, hh, he, List.filter_nil]
  exact congrArg (fun l => { s with sheaf := { s.sheaf with limited := true }, land := l }) hl

/-! Rehearsals (R343, R348). -/

/-- LD_RH_STATUS shows a rehearsal of the staged sheaf, and the spare stair `q` one in each flight. -/
def rhShown (u : State) (q : Nat) : State :=
  wrF (wrF (wrN (wrF u Reg.LD_RH_CTL 0 1 1) Reg.LD_RH_STATUS (1 + sheafStaged u * 0x10000)) (Reg.STA_RET_STATUS q 0) 0 1 1) (Reg.STA_RET_STATUS q 1) 0 1 1
/-- The rehearsal starts with nothing counted or matched yet, and is reported. -/
def rhStarted (u : State) (q : Nat) (v : W32) : State :=
  let s := sheafUpd (rhShown u q) (fun x => { x with live := [], rhCount := [] })
  raise s 0x7F3 [(4, rfld v 1 3), (4, rfld v 4 2), (4, sheafStaged s)]
theorem rhCtlWrite_start {s u : State} {v : W32} {q : Nat} (hr : rhRunning s = false) (h0 : rbit v 0 = true) (hu : plainWrite s Reg.LD_RH_CTL 0xFFFF00FE v = u)
    (hq : spareStair u = some q) (hb : (List.range 16).any (fun r => tmBound u r && tmHandle u r == rdN u Reg.LD_RH_RING && tmUse u r == 3) = true)
    (hc : (chanOf u (rdN u Reg.LD_RH_RING)).any (fun c => c.2.slice == 0) = true) : rhCtlWrite s v = rhStarted u q v := by
  simp only [rhCtlWrite, hr, h0, hu, hq, hb, hc, Bool.and_self, Bool.not_true, Bool.false_eq_true, if_false]
  rfl
theorem rhCtlWrite_stop {s : State} {v : W32} (hr : rhRunning s = true) (h0 : rbit v 0 = false) : rhCtlWrite s v = rhEnd s 1 := by
  simp only [rhCtlWrite, hr, h0, Bool.false_eq_true, if_false, if_true]
theorem rhStatus_ne_retStatus (q fl : Nat) : Reg.LD_RH_STATUS ≠ Reg.STA_RET_STATUS q fl := by unfold Reg.LD_RH_STATUS Reg.STA_RET_STATUS; omega
theorem rdF_wrN_low_one (s : State) (r n : Nat) : rdF (wrN s r (1 + n * 0x10000)) r 0 1 = 1 := by
  simp only [rdF, rdN_wrN_same, fld, Nat.shiftRight_zero]
  omega
theorem rhShown_runs (u : State) (q : Nat) : rdF (rhShown u q) Reg.LD_RH_STATUS 0 1 = 1 :=
  (rdF_wrF_ne _ _ _ _ _ _ (rhStatus_ne_retStatus q 1)).trans ((rdF_wrF_ne _ _ _ _ _ _ (rhStatus_ne_retStatus q 0)).trans (rdF_wrN_low_one ..))
theorem rhStarted_runs (u : State) (q : Nat) (v : W32) : rdF (rhStarted u q v) Reg.LD_RH_STATUS 0 1 = 1 :=
  calc rdF (rhStarted u q v) Reg.LD_RH_STATUS 0 1
    _ = rdF (sheafUpd (rhShown u q) (fun x => { x with live := [], rhCount := [] })) Reg.LD_RH_STATUS 0 1 := rdF_eq (raise_rd _ _ _ (by decide))
    _ = rdF (rhShown u q) Reg.LD_RH_STATUS 0 1 := rdF_eq (rd_regs (sheafUpd_k ..).keeps.regs _)
    _ = 1 := rhShown_runs u q
theorem rhStarted_sheaf (u : State) (q : Nat) (v : W32) : (rhStarted u q v).sheaf = { u.sheaf with live := [], rhCount := [] } := raise_sheaf ..

section
variable {s : State} {req : Requester} {v : W32} (hp : Passes s req Reg.LD_RH_CTL false)
include hp

theorem exec_rehearsalStart (h0 : rbit v 0 = true) : exec (.rehearsalStart req 15 v) s = .next (rhCtlWrite s v) :=
  congrArg Host.Outcome.next ((if_pos h0).trans (gate_open hp))
theorem exec_rehearsalStop (h0 : rbit v 0 = false) : exec (.rehearsalStop req 15 v) s = .next (rhCtlWrite s v) :=
  congrArg Host.Outcome.next ((if_neg (by rw [h0]; decide)).trans (gate_open hp))

end

/-! Commands on arrays (R337, R352). -/

/-- The rows that show an element and those that send a marker, each with its OP. -/
def arrayReads (req : Requester) (st fl : Nat) (v : W32) : List (Nat × Instr) := [(1, .arrayRead req 15 st fl v), (4, .arrayReadSnap req 15 st fl v)]
def arrayMarkers (req : Requester) (st fl : Nat) (v : W32) : List (Nat × Instr) :=
  [(2, .arrayWrite req 15 st fl v), (3, .arrayReadClear req 15 st fl v), (5, .arrayClear req 15 st fl v)]
theorem exec_arrayReads (s : State) (req : Requester) (st fl : Nat) (v : W32) :
    ∀ r ∈ arrayReads req st fl v, (r.1 = 1 ∨ r.1 = 4) ∧ exec r.2 s = .next (arrCmdRow r.1 req 15 st fl v s) :=
  List.forall_mem_cons.mpr ⟨⟨.inl rfl, rfl⟩, List.forall_mem_cons.mpr ⟨⟨.inr rfl, rfl⟩, List.forall_mem_nil _⟩⟩
theorem exec_arrayMarkers (s : State) (req : Requester) (st fl : Nat) (v : W32) :
    ∀ r ∈ arrayMarkers req st fl v, (r.1 = 2 ∨ r.1 = 3 ∨ r.1 = 5) ∧ exec r.2 s = .next (arrCmdRow r.1 req 15 st fl v s) :=
  List.forall_mem_cons.mpr ⟨⟨.inl rfl, rfl⟩, List.forall_mem_cons.mpr ⟨⟨.inr (.inl rfl), rfl⟩, List.forall_mem_cons.mpr ⟨⟨.inr (.inr rfl), rfl⟩, List.forall_mem_nil _⟩⟩⟩
theorem arrCmdRow_open {s : State} {req : Requester} {st fl op : Nat} {v : W32} (hs : st < 9) (hf : fl < 2) (hp : Passes s req (Reg.STA_ARR_CMD st fl) false)
    (ho : rfld v 4 4 = op) : arrCmdRow op req 15 st fl v s = arrCmdWrite s st fl v := by
  simp only [arrCmdRow, hs, hf, ho, decide_true, Bool.and_self, if_true, gate_open hp]

section
variable {s u : State} {st fl op a k q : Nat} {v : W32} (h16 : rdF s (Reg.STA_ARR_CMD st fl) 16 1 = 0) (h17 : rbit v 17 = false) (ho : rfld v 4 4 = op)
  (hu : plainWrite s (Reg.STA_ARR_CMD st fl) 0x10F v = u) (ha : rfld v 0 4 = a) (hk : rdF u (Reg.STA_ARR_INDEX st fl) 0 23 = k) (hq : cmdTarget u st = q)
include h16 h17 ho hu ha hk hq

/-- A read shows the element in the live bank, a read of the snapshot that in the other. -/
theorem arrCmdWrite_show (h : op = 1 ∨ op = 4) (hf : arrFail u q fl op a k = none) :
    arrCmdWrite s st fl v = wrF (wrF (putArrData u st fl (agetD (flightGet u q fl).elems
      (elemKey a (if op = 1 then liveBank (flightGet u q fl) a else 1 - liveBank (flightGet u q fl) a) k) 0)) (Reg.STA_ARR_STATUS st fl) 0 8 0) (Reg.STA_ARR_STATUS st fl) 16 9 0 := by
  have h0 : op ≠ 0 := by omega
  have h6 : ¬ 6 ≤ op := by omega
  have hr : (decide (op = 1) || decide (op = 4)) = true := by simpa using h
  simp only [arrCmdWrite, h16, h17, ho, hu, ha, hk, hq, hf, hr, if_neg h0, if_neg h6, Nat.zero_ne_one, Bool.false_eq_true, if_false, if_true, ge_iff_le]
  rfl
/-- A write, a read that clears and a clear of one stair send it their marker. -/
theorem arrCmdWrite_mark (h : op = 2 ∨ op = 3 ∨ op = 5) (h8 : rbit v 8 = false) {w : State} (hw : wrF u (Reg.STA_ARR_CMD st fl) 16 1 1 = w)
    (hf : arrFail w q fl op a k = none) :
    arrCmdWrite s st fl v = cmdEnd (markerSend w q fl
      { what := op, array := a, idx := k, opnd := fld (arrData w st fl) 0 (if arrKind w q fl a = 3 then 64 else 128), src := st, bcast := false }) st fl false := by
  have h0 : op ≠ 0 := by omega
  have h6 : ¬ 6 ≤ op := by omega
  have hr : (decide (op = 1) || decide (op = 4)) = false := by
    simp only [Bool.or_eq_false_iff, decide_eq_false_iff_not]
    omega
  simp only [arrCmdWrite, h16, h17, h8, ho, hu, ha, hk, hq, hf, hr, hw, if_neg h0, if_neg h6, Nat.zero_ne_one, Bool.false_eq_true, if_false, ge_iff_le,
    List.foldl_cons, List.foldl_nil]

end

theorem exec_arrCfgWrite_set {s : State} {req : Requester} {p fl a : Nat} {v : W32} (hp : p < 9) (hf : fl < 2) (ha : a < 16)
    (hw : Passes s req (Reg.STA_ARR_CFG p fl a) false) (hr : arrRefused s p fl a v = none) (h0 : rfld v 0 2 ≠ 0) :
    exec (.arrCfgWrite req 15 p fl a v) s = .next (plainWrite s (Reg.STA_ARR_CFG p fl a) 0xFFFF07 v) := by
  refine congrArg Host.Outcome.next ?_
  simp only [hp, hf, ha, decide_true, Bool.and_self, if_true, gate_open hw, arrCfgWrite, hr, if_neg h0]

/-! Commands on meters (R415, R416). -/

/-- The marker of an assignment of `n` meters from `first` on is sent to the one stair that the command reaches. -/
theorem exec_meterAssign_mark {s u w : State} {req : Requester} {p fl a q first n : Nat} {v : W32} (hp : p < 9) (hf : fl < 2)
    (hw : Passes s req (Reg.STA_MTR_CMD p fl) false) (h16 : rdF s (Reg.STA_MTR_CMD p fl) 16 1 = 0) (h17 : rbit v 17 = false) (h13 : rbit v 13 = true)
    (h12 : rbit v 12 = false) (ha : rfld v 0 4 = a) (hu : plainWrite s (Reg.STA_MTR_CMD p fl) 0x1FFF v = u) (hu' : wrF u (Reg.STA_MTR_CMD p fl) 16 1 1 = w)
    (h1 : rdF u (Reg.STA_MTR_FIRST p fl) 0 23 = first) (hn : rdF u (Reg.STA_MTR_COUNT p fl) 0 24 = n) (hq : cmdTarget w p = q) (h0 : n ≠ 0)
    (hk : arrKind w q fl a = 2) (hc : first + n ≤ arrCount w q fl a) :
    exec (.meterAssign req 15 p fl v) s = .next
      (cmdEnd (markerSend w q fl { what := 6, array := a, idx := first, opnd := rfld v 4 8, src := p, bcast := false, n := n }) p fl true) := by
  refine congrArg Host.Outcome.next ?_
  simp only [hp, hf, h13, decide_true, Bool.and_self, if_true, gate_open hw]
  simp only [mtrCmdWrite, h16, h17, h13, h12, ha, hu, h1, hn, hu', hq, hk, if_neg h0, if_neg (Nat.not_lt.mpr hc), Nat.zero_ne_one, Bool.not_true, Bool.false_eq_true,
    ne_eq, not_true_eq_false, if_false, gt_iff_lt, List.foldl_cons, List.foldl_nil]
theorem exec_meterRefreshPass {s : State} {role p fl a : Nat} (hf : fl < 2) (ha : a < 16) (hp : stairOf s role = some p) (hk : arrKind s p fl a = 2)
    (h0 : arrCount s p fl a ≠ 0) : exec (.meterRefreshPass role fl a) s = .next
      (markerSend s p fl { what := 7, array := a, idx := 0, opnd := 0, src := p, bcast := false, n := arrCount s p fl a }) := by
  show execMeterRefreshPass role fl a s = _
  simp only [execMeterRefreshPass, hf, ha, hp, hk, h0, ne_eq, not_false_eq_true, decide_true, Bool.and_self, if_true]

/-- Settles O49: the end of a drain, its limit and its sweep answer the states that their lemmas name. -/
theorem drainsComplete : Obligations.DrainsComplete := by
  unfold Obligations.DrainsComplete
  refine ⟨sheafDrain_completes, ?limit, ?sweep⟩
  case limit =>
    intro s hd h0 hl ht
    have he := exec_sheafDrainLimit hd h0 hl ht
    refine ⟨⟨_, he, (exec_kept he).keeps⟩, fun hh hn => ?_⟩
    have hi : limitActs s = limitMarked s := limitActs_idle (by rw [hh]; rfl) hn
    rw [he, hi, limitMarked_empty hh hn]
  case sweep => exact fun s hs hd => exec_sheafSweep hs hd

/-- Settles O18: each command and each event, where its condition holds, answers the state that its lemma names. -/
theorem sheafAndArrayCommandsComplete : Obligations.SheafAndArrayCommandsComplete := by
  unfold Obligations.SheafAndArrayCommandsComplete
  refine ⟨?command, fun s h => exec_sheafCommitEffect h, sheafDrain_completes, ?sweep, ?limit, ?rehearsal, ?array, ?meter⟩
  case command =>
    intro s req v hp h3
    refine ⟨fun h0 h12 h13 hn hd hs => ⟨fun h1 => ?_, fun h1 => ?_⟩, fun h0 h12 h13 hn ht => ?_, fun h0 h12 h13 _ => exec_sheafUnstage hp h3 h0 h12 h13⟩
    · refine ⟨_, (exec_sheafCommit hp h3 h0 h1 h12 h13).trans (congrArg _ (commitAsk_written hn hd hs false)), commitAsked_pending .., commitAsked_timed ..,
        commitAsked_shown .., (plainWrite_k ..).keeps.after' (commitAsked_keeps ..)⟩
    · refine ⟨_, (exec_sheafCommitAt hp h3 h0 h1 h12 h13).trans (congrArg _ (commitAsk_written hn hd hs true)), commitAsked_pending .., commitAsked_timed ..,
        commitAsked_shown .., (plainWrite_k ..).keeps.after' (commitAsked_keeps ..)⟩
    · refine ⟨_, (exec_sheafCancel hp h3 h0 h12 h13).trans (congrArg _ (commitCancel_timed hn ht)), rfl, rfl, commitWithdrawn_shown _,
        (plainWrite_k ..).keeps.after' (commitWithdrawn_keeps _)⟩
  case sweep =>
    intro s hs hd
    have he := exec_sheafSweep hs hd
    exact ⟨_, he, rfl, rdN_wrN_same .., fun p x hx => mem_amap (fun _ x => sweptStair (sheafCur s) x) hx, (exec_kept he).keeps⟩
  case limit =>
    intro s hd h0 hl ht hh hn
    have he := (exec_sheafDrainLimit hd h0 hl ht).trans (congrArg _ (limitActs_idle hh hn))
    exact ⟨_, he, rfl, rfl, (exec_kept he).keeps⟩
  case rehearsal =>
    intro s req v hp
    refine ⟨fun h0 hr q => ?_, fun h0 hr => (exec_rehearsalStop hp h0).trans (congrArg _ (rhCtlWrite_stop hr h0))⟩
    intro u h hq hb hc
    have hw := rhCtlWrite_start hr h0 rfl hq hb hc
    exact ⟨_, (exec_rehearsalStart hp h0).trans (congrArg _ hw), rhStarted_runs u q v, rhStarted_sheaf u q v, hw ▸ (rhCtlWrite_k s v).keeps⟩
  case array =>
    intro s req st fl op v i hs hf hp h17 h16 ho u a k q
    refine ⟨fun hi hn => ?_, fun hi h8 hn => ?_⟩
    · obtain ⟨h, he⟩ := exec_arrayReads s req st fl v (op, i) hi
      exact he.trans (congrArg _ ((arrCmdRow_open hs hf hp ho).trans (arrCmdWrite_show h16 h17 ho rfl rfl rfl rfl h hn)))
    · obtain ⟨h, he⟩ := exec_arrayMarkers s req st fl v (op, i) hi
      exact he.trans (congrArg _ ((arrCmdRow_open hs hf hp ho).trans (arrCmdWrite_mark h16 h17 ho rfl rfl rfl rfl h h8 rfl hn)))
  case meter =>
    intro s req p fl a v hp hf ha
    refine ⟨fun hw hr h0 => exec_arrCfgWrite_set hp hf ha hw hr h0, ?_, fun role hs hk h0 => exec_meterRefreshPass hf ha hs hk h0⟩
    intro hw h16 h17 h13 h12 hv w first n h0 hk hc
    exact exec_meterAssign_mark hp hf hw h16 h17 h13 h12 hv.symm rfl rfl rfl rfl rfl h0 hk hc

end Sys2Proof.Machine
end

section
/-! PROOFS. Commits (O47), their cancelling and their undoing (O48), rehearsals (O50), arrays (O51) and meters (O52): what a write of LD_SHEAF_CMD
leaves of what decides on a commit, and that UNSTAGE leaves no entry with a staged change. -/

namespace Sys2Proof.Machine
-- As in the tests: declarations elaborated side by side would take the check past its memory.
set_option Elab.async false

/-! Commits (R318, R319). -/

section
variable (s : State) (v : W32)

theorem rd_sheafCmdWritten {x : Nat} (h : x ≠ Reg.LD_SHEAF_CMD) : rd (plainWrite s Reg.LD_SHEAF_CMD 2 v) x = rd s x := rd_wr_ne _ _ h
theorem sheafStaged_sheafCmdWritten : sheafStaged (plainWrite s Reg.LD_SHEAF_CMD 2 v) = sheafStaged s := rdF_eq (rd_sheafCmdWritten s v (by decide))
theorem commitTime_sheafCmdWritten : rd64 (plainWrite s Reg.LD_SHEAF_CMD 2 v) Reg.LD_SHEAF_AT_LO = rd64 s Reg.LD_SHEAF_AT_LO := by
  simp only [rd64, rdN_eq (rd_sheafCmdWritten s v (x := Reg.LD_SHEAF_AT_LO) (by decide)), rdN_eq (rd_sheafCmdWritten s v (x := Reg.LD_SHEAF_AT_LO + 4) (by decide))]

end

/-- A commit asked for by a write of LD_SHEAF_CMD is taken also while sweeps are owed that the next sheaf does not need (R320), and a timed one also during a drain. -/
theorem commitAsk_sheafCmdWritten {s : State} {v : W32} {timed : Bool} (hp : s.sheaf.pending = false) (hd : timed = false → rdF s Reg.LD_SHEAF_DRAIN 16 1 = 0)
    (hs : ∀ o ∈ s.sheaf.sweeps, sub16 (sheafStaged s + 1) o < 1024) :
    commitAsk (plainWrite s Reg.LD_SHEAF_CMD 2 v) timed = commitAsked (plainWrite s Reg.LD_SHEAF_CMD 2 v) timed :=
  commitAsk_taken hp (fun ht => (rdF_eq (rd_sheafCmdWritten s v (by decide))).trans (hd ht)) ((sheafStaged_sheafCmdWritten s v).symm ▸ hs)

/-- Settles O47: the commit asked for is taken, its time and lateness are those of before the write, and its effect is the one that its lemma names. -/
theorem commitCompletes : Obligations.CommitCompletes := by
  unfold Obligations.CommitCompletes
  refine ⟨?asked, ?onTime, ?late⟩
  case asked =>
    intro s req v hp h0 h3 h12 h13 hn hs w t asked
    have ha : ∀ timed, commitAsked w timed = asked timed := fun timed => by
      simp only [commitAsked, commitQueued, commitNoted, w, commitTime_sheafCmdWritten]
      rfl
    refine ⟨fun h1 hd => ?_, fun h1 => ?_⟩
    · rw [exec_sheafCommit hp h3 h0 h1 h12 h13, commitAsk_sheafCmdWritten hn (fun _ => hd) hs, ha]
    · rw [exec_sheafCommitAt hp h3 h0 h1 h12 h13, commitAsk_sheafCmdWritten hn (fun ht => Bool.noConfusion ht) hs, ha]
  case onTime =>
    intro s hr hl
    rw [exec_sheafCommitEffect hr, hl]
    rfl
  case late =>
    intro s hr hl
    rw [exec_sheafCommitEffect hr, hl]
    rfl

/-! UNSTAGE (R323). -/

/-- Neither the entry nor its retirement belongs to sheaf `g`. -/
def Unstaged (g : Nat) (e : TEntry) : Prop := (e.always = true ∨ e.born ≠ g) ∧ ¬ (e.retSet = true ∧ e.retired = g)
theorem unstaged_of_unstageEntry {g : Nat} {e y : TEntry} (h : unstageEntry g e = some y) : Unstaged g y := by
  unfold unstageEntry at h
  split at h
  case isTrue => cases h
  case isFalse hb =>
    have hborn : e.always = true ∨ e.born ≠ g := by
      cases ha : e.always
      · exact .inr fun hg => hb (by simp [ha, hg])
      · exact .inl rfl
    split at h
    case isTrue =>
      cases h
      exact ⟨hborn, fun hr => Bool.noConfusion hr.1⟩
    case isFalse hret =>
      cases h
      exact ⟨hborn, fun hr => hret (by simp [hr])⟩

/-- The entries of a table that UNSTAGE leaves. -/
def unstagedMap (g : Nat) (m : AMap TEntry) : AMap TEntry := m.filterMap (fun (e : Nat × TEntry) => (unstageEntry g e.2).map (fun y => (e.1, y)))
/-- A stair with every table unstaged, and the guarded copy of each. -/
def unstagedStair (g : Nat) (x : Stair) : Stair :=
  { x with tbls := amap x.tbls (fun _ m => unstagedMap g m), shadow := amap x.shadow (fun _ m => unstagedMap g m) }
/-- Every stair and the longest-match store are unstaged. -/
def unstagedState (s : State) : State := { s with
  stairs := amap s.stairs (fun _ x => unstagedStair (sheafStaged s) x)
  lpm := s.lpm.filterMap (fun (e : Nat × (Nat × TEntry)) => (unstageEntry (sheafStaged s) e.2.2).map (fun y => (e.1, (e.2.1, y)))) }
theorem unstage_acts {s : State} (hp : s.sheaf.pending = false) : unstage s = unstagedState s := if_neg (by rw [hp]; decide)

theorem exists_of_mem_amap {α : Type} {m : AMap α} {f : Nat → α → α} {k : Nat} {b : α} (h : (k, b) ∈ amap m f) : ∃ a, (k, a) ∈ m ∧ f k a = b := by
  obtain ⟨⟨j, a⟩, ha, he⟩ := List.mem_map.mp h
  obtain ⟨rfl, rfl⟩ := Prod.mk.inj he
  exact ⟨a, ha, rfl⟩
/-- What a list keeps of its entries when each is unstaged is unstaged. -/
theorem exists_unstaged_of_mem {α β : Type} {g : Nat} {l : List α} {entry : α → TEntry} {put : α → TEntry → β} {b : β}
    (h : b ∈ l.filterMap (fun a => (unstageEntry g (entry a)).map (put a))) : ∃ a y, Unstaged g y ∧ put a y = b := by
  obtain ⟨a, -, ha⟩ := List.mem_filterMap.mp h
  obtain ⟨y, hy, hb⟩ := Option.map_eq_some_iff.mp ha
  exact ⟨a, y, unstaged_of_unstageEntry hy, hb⟩
theorem unstaged_of_mem_unstagedMap {g i : Nat} {m : AMap TEntry} {e : TEntry} (h : (i, e) ∈ unstagedMap g m) : Unstaged g e := by
  obtain ⟨_, y, hy, he⟩ := exists_unstaged_of_mem h
  cases he
  exact hy
theorem unstagedStair_tables {g k i : Nat} {x : Stair} {m : AMap TEntry} {e : TEntry} (hm : (k, m) ∈ (unstagedStair g x).tbls) (he : (i, e) ∈ m) : Unstaged g e := by
  obtain ⟨_, -, rfl⟩ := exists_of_mem_amap (f := fun _ m => unstagedMap g m) hm
  exact unstaged_of_mem_unstagedMap he
theorem unstagedState_stairs {s : State} {p : Nat} {x : Stair} (h : (p, x) ∈ (unstagedState s).stairs) : ∃ y, unstagedStair (sheafStaged s) y = x := by
  obtain ⟨y, -, hy⟩ := exists_of_mem_amap (f := fun _ x => unstagedStair (sheafStaged s) x) h
  exact ⟨y, hy⟩
theorem unstagedState_lpm {s : State} {i k : Nat} {e : TEntry} (h : (i, k, e) ∈ (unstagedState s).lpm) : Unstaged (sheafStaged s) e := by
  obtain ⟨_, y, hy, he⟩ := exists_unstaged_of_mem (l := s.lpm) h
  cases he
  exact hy

/-- Settles O48: CANCEL withdraws the pending timed commit, and every entry that UNSTAGE leaves is unstaged. -/
theorem cancelAndUnstageComplete : Obligations.CancelAndUnstageComplete := by
  unfold Obligations.CancelAndUnstageComplete
  intro s req v hp h3 h0
  refine ⟨fun h12 h13 hn ht => (exec_sheafCancel hp h3 h0 h12 h13).trans (congrArg _ (commitCancel_timed hn ht)), fun h12 h13 hn => ?_⟩
  have hu := unstage_acts (s := plainWrite s Reg.LD_SHEAF_CMD 2 v) hn
  have hg := sheafStaged_sheafCmdWritten s v
  refine ⟨_, (exec_sheafUnstage hp h3 h0 h12 h13).trans (congrArg _ hu), fun x hx => rd_sheafCmdWritten s v hx,
    (plainWrite_k ..).keeps.after' (hu ▸ (unstage_k _).keeps), fun p x hx k m hm i e he => ?_, fun i k e he => hg ▸ unstagedState_lpm he⟩
  obtain ⟨y, rfl⟩ := unstagedState_stairs hx
  exact hg ▸ unstagedStair_tables hm he

/-! Rehearsals (R343, R348), arrays (R337) and meters (R352, R415, R416): each statement is a part of the family's (O18). -/

/-- Settles O50, as the part of O18 on LD_RH_CTL. -/
theorem rehearsalsComplete : Obligations.RehearsalsComplete := by
  obtain ⟨-, -, -, -, -, hrehearsal, -, -⟩ := sheafAndArrayCommandsComplete
  exact hrehearsal

/-- Settles O51, as the part of O18 on STA_ARR_CMD. -/
theorem arrayCommandsComplete : Obligations.ArrayCommandsComplete := by
  obtain ⟨-, -, -, -, -, -, harray, -⟩ := sheafAndArrayCommandsComplete
  exact harray

/-- Settles O52, as the part of O18 on STA_ARR_CFG and the meters. -/
theorem meterCommandsComplete : Obligations.MeterCommandsComplete := by
  obtain ⟨-, -, -, -, -, -, -, hmeter⟩ := sheafAndArrayCommandsComplete
  exact hmeter

end Sys2Proof.Machine
end

section
/-! PROOFS. Steps (O1, O38, O39), the absent host link (O43) and the event router (O44): what a step keeps is what its command, or
one idle clock, keeps; what the router does with a raised record. -/

namespace Sys2Proof.Machine

/-! Steps (R655, R657, R658). -/

/-- A step does to the state without its front command what the frame of that command, or of one idle clock, allows. -/
theorem step_kept {s t : State} (h : step s = .next t) : ∃ (l : List Part) (rest : List Instr), Kept l { s with pending := rest } t := by
  unfold step at h
  split at h
  · cases h
    exact ⟨_, s.pending, idle_k s⟩
  · next c rest _ => exact ⟨_, rest, exec_kept h⟩

/-- Settles O1: the queue of the state is its front command and the rest, by definition. -/
theorem stepRunsFront : Obligations.StepRunsFront := by
  unfold Obligations.StepRunsFront
  exact fun _ _ _ => rfl

/-- Settles O38: each part of the invariant is one that every frame keeps. -/
theorem stepKeepsInvariant : Obligations.StepKeepsInvariant := by
  unfold Obligations.StepKeepsInvariant
  intro s t hi h
  obtain ⟨l, rest, hk⟩ := step_kept h
  exact { regs := hk.rise hi.regs, mem := hk.wf hi.mem, life := hk.ozLe.top hi.life, own := hk.own hi.own }

/-- Settles O39: every frame moves the fuses forward only. -/
theorem fusesMoveForward : Obligations.FusesMoveForward := by
  unfold Obligations.FusesMoveForward
  intro s t h
  obtain ⟨l, rest, hk⟩ := step_kept h
  exact ⟨hk.ozLe.lc, hk.ozLe.svn, hk.ozLe.rev⟩

/-! Host links (R671). -/

/-- Settles O43: both edges act on a present link only. -/
theorem absentPerstIgnored : Obligations.AbsentPerstIgnored := by
  unfold Obligations.AbsentPerstIgnored
  intro s link h
  have hn (b : Bool) : ¬ (linkPresent s link && b) = true := by rw [h]; exact Bool.false_ne_true
  exact ⟨congrArg Host.Outcome.next (if_neg (hn _)), congrArg Host.Outcome.next (if_neg (hn _))⟩

/-! The event router (R610, R615). -/

section
variable (s : State) (src code time : Nat) (fs : List EvField)

/-- A record that is raised uses up a sequence number of its source, whether it is queued or lost. -/
theorem raiseAt_seq : (raiseAt s src code time fs).ev.seq = aset s.ev.seq src ((agetD s.ev.seq src 0 + 1) % 2 ^ 20) := by
  unfold raiseAt
  dsimp only
  split <;> rfl
/-- A router with room changes no register. -/
theorem raiseAt_room_regs (h : s.ev.queue.length < 4096) : (raiseAt s src code time fs).regs = s.regs := by
  unfold raiseAt
  dsimp only
  rw [if_pos h]
/-- A full router keeps the records that wait, and counts the one that is lost. -/
theorem raiseAt_full (h : 4096 ≤ s.ev.queue.length) : (raiseAt s src code time fs).ev.queue = s.ev.queue ∧
    rdN (raiseAt s src code time fs) Reg.OZ_EV_LOST_CNT = (rdN s Reg.OZ_EV_LOST_CNT + 1) % 2 ^ 32 := by
  unfold raiseAt
  dsimp only
  rw [if_neg (Nat.not_lt.mpr h)]
  exact ⟨rfl, bump_same ..⟩

end

theorem exec_clockMonitorExcursion {s : State} {m : Nat} {ppm : Int} (hm : m < 8) (hp : 10000 < ppm ∨ ppm < -10000) :
    exec (.clockMonitorExcursion m ppm) s = .next (raise s 0x04B [(4, m), (4, unsign 32 ppm)]) := by
  refine congrArg Host.Outcome.next (if_pos ?_)
  simpa [hm] using hp

/-- Settles O44: the excursion raises one record, and the router queues it where it has room. -/
theorem routerTakesOrLoses : Obligations.RouterTakesOrLoses := by
  unfold Obligations.RouterTakesOrLoses
  intro s m ppm hm hp
  refine ⟨_, exec_clockMonitorExcursion hm hp, ?seq, ?others, ?room, ?full, (raise_k ..).keeps⟩
  case seq => rw [raise, raiseAt_seq]; exact agetD_aset_same ..
  case others => intro src h; rw [raise, raiseAt_seq]; exact agetD_aset_ne _ _ _ h
  case room => exact fun h => ⟨raiseAt_room_regs _ _ _ _ _ h, _, raiseAt_ev _ _ _ _ _ h, rfl, rfl, rfl, rfl, rfl⟩
  case full =>
    intro h
    obtain ⟨hq, hc⟩ := raiseAt_full s 0x04B 1 (nowNs s) [(4, m), (4, unsign 32 ppm)] h
    exact ⟨hq, hc, fun x hx => raise_rd _ _ _ hx⟩

end Sys2Proof.Machine
end

section
/-! PROOFS. The context of threads (O41) and the memory that the debug port writes (O46): a write of a thread's context by the
thread's state and its requester, and what a debug write stores, byte by byte. -/

namespace Sys2Proof.Machine

/-! Dropped writes (R63, R90, R550, R689). -/

theorem badAccess_rd (s : State) (req : Requester) (off : Nat) {x : Nat} (h : x ≠ Reg.GL_ERR_STATUS) (h' : x ≠ Reg.GL_ERR_ADDR)
    (h'' : x ≠ Reg.OZ_EV_LOST_CNT) : rd (badAccess s req off) x = rd s x := (raise_rd _ _ _ h'').trans (glError_rd s 1 off h h')
theorem badAccess_status (s : State) (req : Requester) (off : Nat) : rdF (badAccess s req off) Reg.GL_ERR_STATUS 1 1 = 1 :=
  (rdF_eq (raise_rd _ _ _ (by decide))).trans (glError_status s 1 off (by decide))

/-! TH_PC, TH_SP and TH_CAP (R550). -/

section
variable {s : State} {req : Requester} {t n k : Nat} {v : W32}

theorem exec_threadContextWrite (ht : t < 34) (hn : n < 64) (hk : k < 5) (hp : Passes s req (thR Reg.TH_PC_LO t n + 4 * k) false) :
    exec (.threadContextWrite req 15 t n k v) s = .next (thContextWrite s req t n k v) := by
  refine congrArg Host.Outcome.next ((if_pos ?_).trans (gate_open hp))
  rw [decide_eq_true ht, decide_eq_true hn, decide_eq_true hk]; rfl
theorem thContextWrite_lo (hk : k = 0 ∨ k = 2) : thContextWrite s req t n k v = loHold s req (thR Reg.TH_PC_LO t n + 4 * k) v := by
  refine if_pos ?_
  rcases hk with rfl | rfl <;> rfl
/-- A write that commits is dropped while the thread may run, as is one of TH_CAP that the supervisor does not make of another thread. -/
theorem thContextWrite_dropped (hk : k = 1 ∨ k = 3 ∨ k = 4) (h : thState s t n = 1 ∨ thState s t n = 2 ∨ (k = 4 ∧ (req ≠ .thread t 0 ∨ n = 0))) :
    thContextWrite s req t n k v = badAccess s req (thR Reg.TH_PC_LO t n + 4 * k) := by
  refine (if_neg ?_).trans (if_pos ?_)
  · rcases hk with rfl | rfl | rfl <;> decide
  · simpa [or_assoc] using h

section
variable (hs : thState s t n = 0 ∨ thState s t n = 3)
include hs

theorem thContextWrite_commits (hk : k = 1 ∨ k = 3) :
    thContextWrite s req t n k v = wr (loCommit s req (thR Reg.TH_PC_LO t n + 4 * k - 4)) (thR Reg.TH_PC_LO t n + 4 * k) v := by
  rcases hk with rfl | rfl <;> rcases hs with h | h <;> simp [thContextWrite, h]
theorem thContextWrite_cap (hr : req = .thread t 0) (hn : n ≠ 0) : thContextWrite s req t n 4 v =
    wrF (wrN s (thR Reg.TH_PC_LO t n + 4 * 4) (rfld v 0 4)) (thR Reg.TH_STATUS t n) 4 1 (b2n (rfld v 0 4 ≠ 0)) := by
  rcases hs with h | h <;> simp [thContextWrite, h, hr, hn]

end

end

/-- Settles O41: the thread's state and the requester choose between the store and the drop. -/
theorem threadContextGuard : Obligations.ThreadContextGuard := by
  unfold Obligations.ThreadContextGuard
  intro s req t n k v ht hn hk hp
  have he : exec (.threadContextWrite req 15 t n k v) s = .next (thContextWrite s req t n k v) := exec_threadContextWrite ht hn (by omega) hp
  refine ⟨fun h4 hs => ?commit, fun h4 hs hr h0 => ?cap, fun h => ⟨_, he.trans (congrArg _ (thContextWrite_dropped hk h)), badAccess_status .., ?frame, ?rest⟩⟩
  case commit => exact he.trans (congrArg _ (thContextWrite_commits hs (by omega)))
  case cap =>
    subst h4
    exact he.trans (congrArg _ (thContextWrite_cap hs hr h0))
  case frame => exact (badAccess_k ..).keeps
  case rest => exact fun x h h' h'' => badAccess_rd s req _ h h' h''

/-! Debug writes (R574). -/

/-- Byte `k` of a number's little-endian bytes. -/
theorem le_getD (n x : Nat) {k : Nat} (h : k < n) : (le n x).getD k 0 = BitVec.ofNat 8 (x / 256 ^ k) := by
  induction n generalizing x k with
  | zero => omega
  | succ n ih =>
    cases k with
    | zero => simp [le]
    | succ k =>
      rw [le, List.getD_cons_succ, ih _ (by omega), Nat.div_div_eq_div_mul, Nat.pow_succ']
theorem plainWrite_rd_ne (s : State) {o x : Nat} (mask : Nat) (v : W32) (h : x ≠ o) : rd (plainWrite s o mask v) x = rd s x := rd_wr_ne _ _ h

/-- What DBG_WR_MEM does to the memory of a halted thread, at an address that its translation places. -/
theorem dbgRun_write {u : State} {t n pa a pc : Nat} (hh : thState u t n = 0) (ha : thAddr (fwBytes u) t pa 8 = some a) :
    dbgRun u t n 7 (some pa) pc = (store u a (le 8 (rd64 u (tilR Reg.TIL_DBG_DATA_LO t))), STS_OK) := by
  simp [dbgRun, hh, ha]
/-- Without a halted thread or a place the command changes nothing but its status. -/
theorem dbgRun_write_refused {u : State} {t n pa : Nat} (pc : Nat) (h : thState u t n ≠ 0 ∨ thAddr (fwBytes u) t pa 8 = none) :
    (dbgRun u t n 7 (some pa) pc).1 = u := by
  by_cases hh : thState u t n = 0
  · have ha := h.resolve_left (not_not_intro hh)
    simp [dbgRun, hh, ha]
  · simp [dbgRun, hh]

/-- A debug command's status is its only effect on the registers beyond its command word where it leaves the others. -/
theorem rd_dbgStatus {s w : State} {t : Nat} {v : W32} {c : Nat} (hw : w.regs = (plainWrite s (tilR Reg.TIL_DBG_CMD t) 0x3F0 v).regs) {x : Nat}
    (h : x ≠ tilR Reg.TIL_DBG_CMD t) (h' : x ≠ tilR Reg.TIL_DBG_STATUS t) : rd (wrF w (tilR Reg.TIL_DBG_STATUS t) 0 8 c) x = rd s x :=
  (rd_wrF_ne _ _ _ _ h').trans ((rd_regs hw x).trans (plainWrite_rd_ne _ _ _ h))

/-- Settles O46: the command stores the eight bytes where the translation leads, or leaves the memory; its own two registers alone
change. -/
theorem debugWriteBytes : Obligations.DebugWriteBytes := by
  unfold Obligations.DebugWriteBytes
  intro s req t n v pa hr hm u
  have he : exec (.dbgWrMem req 15 t v (some pa)) s = _ := congrArg Host.Outcome.next (dbgRow_ready (pa := some pa) (pc := 0) hr (by decide))
  have hu : Keeps [.regs, .mem] s u := (plainWrite_k ..).keeps.weak rfl
  by_cases h : thState u t n ≠ 0 ∨ thAddr (fwBytes u) t pa 8 = none
  · have hw := dbgRun_write_refused 0 h
    refine ⟨_, he, ?_, ?_, fun x => rd_dbgStatus (congrArg State.regs hw), fun a h0 ha => ?_, fun _ => (congrArg State.mem hw :)⟩
    · rw [hw]; exact hm
    · rw [hw]; exact hu.after (wrF_k ..).keeps rfl
    · exact (h.elim (fun k => k h0) (fun k => by rw [ha] at k; cases k)).elim
  · obtain ⟨h0, a, ha⟩ : thState u t n = 0 ∧ ∃ a, thAddr (fwBytes u) t pa 8 = some a := by
      rw [not_or, Classical.not_not] at h
      exact ⟨h.1, Option.ne_none_iff_exists'.mp h.2⟩
    have hw := congrArg Prod.fst (dbgRun_write (pc := 0) h0 ha)
    have hb (x : Nat) := memByte_memPuts a x (le 8 (rd64 u (tilR Reg.TIL_DBG_DATA_LO t))) hm
    refine ⟨_, he, ?_, ?_, fun x => rd_dbgStatus ((congrArg State.regs hw :).trans rfl), fun b _ hab => ?_, fun k => (h k).elim⟩
    · rw [hw]; exact memPuts_wf hm
    · rw [hw]; exact (hu.set_mem rfl).after (wrF_k ..).keeps rfl
    · obtain rfl : a = b := Option.some.inj (ha.symm.trans hab)
      rw [hw]
      refine ⟨fun k hk => (hb (a + k)).trans ?_, fun x hx => (hb x).trans (if_neg ?_)⟩
      · rw [le_length, if_pos (by omega), Nat.add_sub_cancel_left, le_getD 8 _ hk]
      · rw [le_length]; omega

end Sys2Proof.Machine
end

section
/-! PROOFS. Units (O30, O42) and the GDDR7 controllers (O31): heartbeats, declarations, the guarded unit commands, takeovers,
re-admission and handovers, and the loss and the resynchronisation of a controller. -/

namespace Sys2Proof.Machine

/-! The lives of units (R580, R581, R597). -/

section
variable {s : State} {u : Nat} (hu : unitValid u = true)
include hu

section
variable (hs : unitState s u = 1 ∨ unitState s u = 2)
include hs

/-- The units that may beat or fail are those that serve or are spare. -/
theorem unitAlive : (unitValid u && (unitState s u == 1 || unitState s u == 2)) = true := by
  rw [hu]
  rcases hs with h | h <;> rw [h] <;> rfl
theorem exec_heartbeat : exec (.heartbeat u) s = .next (beat s u) := congrArg Host.Outcome.next (if_pos (unitAlive hu hs))
theorem exec_machineCheck_other (h9 : 9 ≤ u) : exec (.machineCheck u []) s = .next (declare' s u 1) := by
  refine congrArg Host.Outcome.next ((if_pos (unitAlive hu hs)).trans ?_)
  rw [decide_eq_false (Nat.not_lt.mpr h9)]; rfl
theorem exec_machineCheck_parity {w : List Nat} (h9 : u < 9) (hw : w ≠ []) : exec (.machineCheck u w) s =
    .next (declare' (mcheckEvent (unitUpd s (fun x => { x with mcheck := aset x.mcheck u w })) u w 0) u 1) := by
  refine congrArg Host.Outcome.next ((if_pos (unitAlive hu hs)).trans ?_)
  rw [decide_eq_true h9, List.isEmpty_eq_false_iff.mpr hw]; rfl

end

theorem exec_autoReadmit (h3 : unitState s u = 3) (hr : ozRunning s = true) (ht : s.unit.takeovers.any (fun e => e.2.1 == u) = false) :
    exec (.autoReadmit u) s = .next
      (if rdF s Reg.MS_READMIT_CTL 0 1 = 1 && (rdF s Reg.MS_READMIT_CTL 8 4 = 0 || fences24 s u < rdF s Reg.MS_READMIT_CTL 8 4) then readmit s u
      else setUnitState s u 5) := by
  refine congrArg Host.Outcome.next (if_pos ?_)
  simp [hu, h3, hr, ht]

/-! Self-tests (R597, R384). -/

section
variable (h4 : unitState s u = 4) {w : State} (hw : unitUpd s (fun x => { x with tests := adel x.tests u }) = w)
include h4 hw

theorem exec_selfTestDone_fail (h16 : 16 ≤ u) : exec (.selfTestDone u 2) s = .next (readmitEvent (setUnitCause (setUnitState w u 5) u 4) u false) := by
  have h9 : ¬ u < 9 := by omega
  refine congrArg Host.Outcome.next ?_
  simp only [hu, h4, hw, h9, decide_false, decide_true, ne_eq, Nat.reduceEqDiff, not_false_eq_true, Bool.true_or, Bool.and_self, Bool.false_and,
    Bool.false_eq_true, if_true, if_false]
/-- An engine that passes is a spare, and takes no role where none is left unserved. -/
theorem exec_selfTestDone_engine (h64 : 64 ≤ u) (hn : unserved w u = none) : exec (.selfTestDone u 0) s = .next
    (readmitEvent (unitEnter (wrF (unitUpd w (fun x => { x with mcheck := adel x.mcheck u })) Reg.CY_LA_STATUS (9 + (u - 64)) 1 0) u 2 0x3F) u true) := by
  have h9 : ¬ u < 9 := by omega
  have hk : unitKind u = 2 := by rw [unitKind, if_neg (by omega), if_neg (by omega)]
  have hf (z : State) (l : List Nat) : l.foldl (fun s _ => s) z = z := by
    induction l with
    | nil => rfl
    | cons _ _ ih => exact ih
  refine congrArg Host.Outcome.next ?_
  simp only [hu, h4, hw, h9, hn, hk, hf, decide_false, decide_true, ne_eq, Nat.reduceEqDiff, not_false_eq_true, Bool.true_or, Bool.and_self, Bool.false_and,
    Bool.false_eq_true, if_true, if_false]

end

end

theorem exec_heartbeatTimeout {s : State} {u : Nat} (h5 : rdF s Reg.GL_BOOT_STAGE 0 4 = 5) (ht : agetD s.unit.beats u 0 + 12 * usUnits ≤ s.time.elapsed) :
    exec (.heartbeatTimeout u) s = .next (declare' s u 2) := by
  refine congrArg Host.Outcome.next (if_pos ?_)
  rw [h5, decide_eq_true ht]; rfl

/-! The guarded commands of MS_UNIT_CMD (R582, R597, R603). -/

/-- The state on which a unit command runs: the window is used up, and the word stands in the register. -/
def unitCmdState (s : State) (v : W32) : State := plainWrite (closeWindow s) Reg.MS_UNIT_CMD 0x7F07F v

theorem unitCmdState_rd (s : State) (v : W32) {x : Nat} (h : x ≠ Reg.MS_UNIT_CMD) : rd (unitCmdState s v) x = rd s x :=
  (plainWrite_rd_ne _ _ _ h).trans (rd_regs rfl x)
theorem unitCmdState_keeps (s : State) (v : W32) : Keeps [.regs, .acc] s (unitCmdState s v) :=
  (closeWindow_k s).keeps.after' (plainWrite_k ..).keeps rfl

/-- What each command does to the unit that it names: FENCE, READMIT, HANDOVER and RETIRE. -/
def unitAct (s : State) (op u target : Nat) : State :=
  match op with
  | 1 => declare' s u 3
  | 2 => readmit s u
  | 3 => handover s u target (unitRole s u)
  | _ => setUnitState s u 5

theorem unitRow_runs {s : State} {req : Requester} {v : W32} {op : Nat} (hp : Passes s req Reg.MS_UNIT_CMD true) (ho : rfld v 8 3 = op) :
    unitRow op req 15 v s = unitCmdWrite (closeWindow s) v := (unitRow_gate ho req s).trans (gate_window hp)

section
variable {s : State} {v : W32} (hc : rbit v 25 = false)
include hc

/-- A command with a cause to refuse it shows the cause. -/
theorem unitCmdWrite_refused {op c : Nat} (ho : rfld v 8 3 = op) (h0 : op ≠ 0) (hu : unitCause (unitCmdState s v) op (rfld v 0 7) (rfld v 12 7) = c) (hn : c ≠ 0) :
    unitCmdWrite (closeWindow s) v = unitRefuse (unitCmdState s v) c := by
  subst ho hu
  simp only [unitCmdState] at hn
  simp only [unitCmdWrite, unitCmdState, hc, h0, hn, Bool.false_eq_true, if_false, ne_eq, not_false_eq_true, if_true]
theorem unitCmdWrite_acts {op : Nat} (ho : rfld v 8 3 = op) (h0 : op ≠ 0) (hu : unitCause (unitCmdState s v) op (rfld v 0 7) (rfld v 12 7) = 0) :
    unitCmdWrite (closeWindow s) v = unitAct (unitCmdState s v) op (rfld v 0 7) (rfld v 12 7) := by
  subst ho
  simp only [unitCmdState] at hu
  simp only [unitCmdWrite, unitCmdState, hc, h0, hu, Bool.false_eq_true, if_false, ne_eq, not_true_eq_false, unitAct] <;> rfl

end

/-- A command that no cause refuses acts. -/
theorem unitRow_acts {s : State} {req : Requester} {v : W32} {op : Nat} (hp : Passes s req Reg.MS_UNIT_CMD true) (hc : rbit v 25 = false)
    (ho : rfld v 8 3 = op) (h0 : op ≠ 0) (hu : unitCause (unitCmdState s v) op (rfld v 0 7) (rfld v 12 7) = 0) :
    unitRow op req 15 v s = unitAct (unitCmdState s v) op (rfld v 0 7) (rfld v 12 7) := (unitRow_runs hp ho).trans (unitCmdWrite_acts hc ho h0 hu)

/-! FENCE (R582). -/

theorem unitWord_ne_cmd {u : Nat} (h : u < 128) : Reg.MS_UNIT_W0 u ≠ Reg.MS_UNIT_CMD := by
  unfold Reg.MS_UNIT_W0 Reg.MS_UNIT_CMD
  omega
theorem unitState_unitCmdState (s : State) (v : W32) {u : Nat} (h : u < 128) : unitState (unitCmdState s v) u = unitState s u :=
  rdF_eq (unitCmdState_rd s v (unitWord_ne_cmd h))
theorem rfld_lt (v : W32) (lo w : Nat) : rfld v lo w < 2 ^ w := Nat.mod_lt _ (Nat.two_pow_pos w)
theorem passes_unitCmd {s : State} {req : Requester} (hm : mayReach s req Reg.MS_UNIT_CMD = true) (hs : stageOk s Reg.MS_UNIT_CMD = true)
    (hw : windowFor s req 3 = true) : Passes s req Reg.MS_UNIT_CMD true := ⟨hm, hs, fun _ => hw, crosses_aligned rfl req 15⟩

theorem unitCause_fence_none {s : State} {u : Nat} (target : Nat) (hu : unitValid u = true) (hs : unitState s u = 1 ∨ unitState s u = 2) (hr : ozRunning s = true) :
    unitCause s 1 u target = 0 := by
  rcases hs with h | h <;> simp [unitCause, hu, h, hr]
theorem unitCause_fence_state {s : State} {u : Nat} (target : Nat) (h1 : unitState s u ≠ 1) (h2 : unitState s u ≠ 2) : unitCause s 1 u target = 1 := by
  simp [unitCause, h1, h2]

theorem unitRefuse_rd (s : State) (c : Nat) {x : Nat} (h : x ≠ Reg.MS_UNIT_CMD) : rd (unitRefuse s c) x = rd s x :=
  (rd_wrF_ne _ _ _ _ h).trans (rd_wrF_ne _ _ _ _ h)
theorem unitRefuse_shown (s : State) (c : Nat) : rdF (unitRefuse s c) Reg.MS_UNIT_CMD 25 1 = 1 ∧ rdF (unitRefuse s c) Reg.MS_UNIT_CMD 26 3 = c % 2 ^ 3 :=
  ⟨(rdF_wrF_other _ _ _ _ _ _ _ (by decide) (by decide)).trans (rdF_wrF_same _ _ _ _ _ (by decide)), rdF_wrF_same _ _ _ _ _ (by decide)⟩
theorem unitRefuse_keeps (s : State) (c : Nat) : Keeps [.regs] s (unitRefuse s c) := (wrF_k ..).keeps.after (wrF_k ..).keeps rfl

/-- Settles O42: the window lets the command through, and the state of the unit chooses between the declaration and cause 1. -/
theorem fenceActs : Obligations.FenceActs := by
  unfold Obligations.FenceActs
  intro s req v hm hst ho hc hu
  have hlt : rfld v 0 7 < 128 := rfld_lt v 0 7
  have hst' : unitState (unitCmdState s v) (rfld v 0 7) = unitState s (rfld v 0 7) := unitState_unitCmdState s v hlt
  refine ⟨fun hw hs hr => ?acts, fun hw h1 h2 => ?refused, fun hw => ?locked⟩
  case acts =>
    have hoz : ozRunning (unitCmdState s v) = true := by rw [← hr, ozRunning, rdF_eq (unitCmdState_rd s v (by decide)), ozRunning]
    exact congrArg Host.Outcome.next (unitRow_acts (passes_unitCmd hm hst hw) hc ho (by decide) (unitCause_fence_none _ hu (by rwa [hst']) hoz))
  case refused =>
    have he := unitCmdWrite_refused hc ho (by decide) (unitCause_fence_state (rfld v 12 7) (by rwa [hst']) (by rwa [hst'])) (by decide)
    obtain ⟨herr, hcause⟩ := unitRefuse_shown (unitCmdState s v) 1
    exact ⟨_, congrArg Host.Outcome.next ((unitRow_runs (passes_unitCmd hm hst hw) ho).trans he), herr, hcause, rfl,
      fun x hx => (unitRefuse_rd _ _ hx).trans (unitCmdState_rd s v hx), (unitCmdState_keeps s v).after (unitRefuse_keeps _ _) rfl⟩
  case locked =>
    have he : exec (.fence req 15 v) s = _ := congrArg Host.Outcome.next ((unitRow_gate ho req s).trans (gate_locked hm hst rfl hw _))
    exact ⟨_, he, (rdF_eq (lockedWrite_rd _ _ _ (by decide))).trans (glError_status s 0 _ (by decide)), (lockedWrite_k ..).keeps,
      fun x h h' h'' => (lockedWrite_rd _ _ _ h'').trans (glError_rd _ _ _ h h')⟩

/-! Takeovers and handovers (R588 to R591, R603, R604). -/

section
variable {s : State} {role f p start : Nat} (hr : role < 8)
include hr

theorem exec_takeoverComplete_stair (bad : List Nat) (h : takeOf s 0 role = some (f, p, start)) :
    exec (.takeoverComplete 0 role bad) s = .next (takeEnd (takeStair s f p role) f p role start) := by
  refine congrArg Host.Outcome.next ((if_pos ?_).trans ?_)
  · simpa [kindRoles] using hr
  · rw [h]; rfl
theorem exec_takeoverComplete_tiller (bad : List Nat) (h : takeOf s 1 role = some (f, p, start)) :
    exec (.takeoverComplete 1 role bad) s = .next (takeTiller (takeEnd s f p role start) (f - 16) (p - 16) role bad) := by
  refine congrArg Host.Outcome.next ((if_pos ?_).trans ?_)
  · simp [kindRoles]; omega
  · rw [h]; rfl
/-- An engine that takes its own role again has no requests to move. -/
theorem exec_takeoverComplete_engine {e : Nat} (bad : List Nat) (h : takeOf s 2 role = some (64 + e, 64 + e, start)) :
    exec (.takeoverComplete 2 role bad) s =
      .next (wrF (wrF (takeEnd s (64 + e) (64 + e) role start) Reg.CY_LA_STATUS e 1 1) Reg.CY_LA_STATUS (9 + e) 1 0) := by
  refine congrArg Host.Outcome.next ((if_pos ?_).trans ?_)
  · simpa [kindRoles] using hr
  · rw [h]
    simp only [if_true, Nat.add_sub_cancel_left]

end

/-- A handover ends: the old tiller is fenced and gives up what it holds. -/
theorem exec_handoverEnd {s d : State} {old new role start : Nat} (h : s.unit.handover = some (old, new, role, start))
    (ht : rdF s (tilR Reg.TIL_HANDOVER (old - 16)) 1 1 = 1 ∨
      (rdF s Reg.MS_HANDOVER_LIMIT 0 16 ≠ 0 ∧ start + rdF s Reg.MS_HANDOVER_LIMIT 0 16 * msUnits ≤ s.time.elapsed))
    (hd : declare' (unitUpd s (fun x => { x with handover := none })) old 5 = d) :
    exec .handoverEnd s = .next (raise (wrN (wrF (tilUpd (freeOwn (dropSent d (old - 16)) (old - 16)) (old - 16)
      (fun x => { x with dma := [], dmaCur := none, threads := [], still := [], faults := [] }))
        (tilR Reg.TIL_HANDOVER (new - 16)) 0 3 0) (tilR Reg.TIL_HANDOVER (old - 16)) 0) 0x985 [(4, role), (4, 2), (4, old), (4, new)]) := by
  subst hd
  have hc : (rdF s (tilR Reg.TIL_HANDOVER (old - 16)) 1 1 == 1 ||
      (rdF s Reg.MS_HANDOVER_LIMIT 0 16 ≠ 0 && start + rdF s Reg.MS_HANDOVER_LIMIT 0 16 * msUnits ≤ s.time.elapsed)) = true := by
    simpa using ht
  refine congrArg Host.Outcome.next ?_
  simp only [h]
  exact if_pos hc

theorem exec_rollingUpdateStep {s : State} {role o n : Nat} {rest : List Nat} (h : s.unit.rolling = role :: rest) (ho : tillerOf s role = some o)
    (hh : s.unit.handover = none) (hr : ozRunning s = true)
    (h2 : 2 ≤ ((unitsOf 1).filter (fun u => unitState s u == 2 && !spareBusy s u)).length)
    (hn : ((unitsOf 1).filter (fun u => unitState s u == 2 && !spareBusy s u)).find?
      (fun u => handoverReady s u && (tilGet s (u - 16)).image == activeSlot s) = some n) :
    exec .rollingUpdateStep s = .next (handover (unitUpd s (fun x => { x with rolling := rest })) (16 + o) n role) := by
  refine congrArg Host.Outcome.next ?_
  simp only [h, ho, hn, hh, hr, decide_eq_true h2, Option.isNone_none, Bool.and_self, if_true]

/-- Settles O30: each command and each event, where its condition holds, answers the state that its lemma names. -/
theorem unitCommandsComplete : Obligations.UnitCommandsComplete := by
  unfold Obligations.UnitCommandsComplete
  refine ⟨fun s u hu => ⟨?beat, ?check, ?parity, ?silent, ?auto, ?test⟩, ?guarded, ?takeover, ?handover, ?rolling⟩
  case beat => exact exec_heartbeat hu
  case check => exact exec_machineCheck_other hu
  case parity => exact fun w hs h9 hw => exec_machineCheck_parity hu hs h9 hw
  case silent => exact exec_heartbeatTimeout
  case auto =>
    intro h3 hr ht
    refine ⟨fun h1 hm => ?_, fun h0 => ?_⟩
    · exact (exec_autoReadmit hu h3 hr ht).trans (congrArg _ (if_pos (by simpa [h1] using hm)))
    · exact (exec_autoReadmit hu h3 hr ht).trans (congrArg _ (if_neg (by simp [h0])))
  case test => exact fun h4 => ⟨exec_selfTestDone_fail hu h4 rfl, exec_selfTestDone_engine hu h4 rfl⟩
  case guarded =>
    intro s req v hp hc
    have hrow {op : Nat} (ho : rfld v 8 3 = op) (h0 : op ≠ 0) := unitRow_acts hp hc ho h0
    exact ⟨fun ho hu => congrArg Host.Outcome.next (hrow ho (by decide) hu), fun ho hu => congrArg Host.Outcome.next (hrow ho (by decide) hu),
      fun ho hu => congrArg Host.Outcome.next (hrow ho (by decide) hu), fun ho hu => congrArg Host.Outcome.next (hrow ho (by decide) hu)⟩
  case takeover =>
    exact fun s role f p start bad hr => ⟨exec_takeoverComplete_stair hr bad, exec_takeoverComplete_tiller hr bad, fun e => exec_takeoverComplete_engine hr bad⟩
  case handover => exact fun s old new role start h ht => exec_handoverEnd h ht rfl
  case rolling => exact fun s role o n rest h ho hh hr h2 hn => exec_rollingUpdateStep h ho hh hr h2 hn

/-! GDDR7 controllers (R600, R601). -/

section
variable {s : State} {c : Nat} (hc : c < 16)
include hc

section
variable {req : Requester} {v : W32} (hp : Passes s req (gmReg Reg.GM_CMD c) true)
include hp

theorem exec_gmLose (h0 : rbit v 0 = false) (h1 : rbit v 1 = true) : exec (.gmLose req 15 c v) s = .next (gmLost (closeWindow s) c 3) := by
  refine congrArg Host.Outcome.next (((if_pos ?_).trans (gate_window hp)).trans ?_)
  · rw [decide_eq_true hc, h0, h1]; rfl
  · simp only [gmCmdWrite, h0, h1, Bool.false_eq_true, if_false, if_true]
theorem exec_gmRetrain (h0 : rbit v 0 = true) (h1 : rbit v 1 = false) (ok : Bool) :
    exec (.gmRetrain req 15 c v ok) s = .next (gmRetrain (closeWindow s) c ok) := by
  refine congrArg Host.Outcome.next (((if_pos ?_).trans (gate_window hp)).trans ?_)
  · rw [decide_eq_true hc, h0]; rfl
  · simp only [gmCmdWrite, h0, h1, Bool.false_eq_true, if_false, if_true]

end

theorem exec_controllerLost_retrain : exec (.controllerLost c 1) s = .next (gmLost s c 1) := by
  refine congrArg Host.Outcome.next (if_pos ?_)
  rw [decide_eq_true hc]; rfl
theorem exec_controllerLost_errors (h : uesRecent s c > 16) : exec (.controllerLost c 2) s = .next (gmLost s c 2) := by
  refine congrArg Host.Outcome.next (if_pos ?_)
  rw [decide_eq_true hc, decide_eq_true h]; rfl
theorem exec_resyncComplete (h2 : gmState s c = 2) (h0 : gmState s (gmPair c) = 0) :
    exec (.resyncComplete c) s = .next (raise (wrN s (gmReg Reg.GM_STATUS c) 0) 0x991 [(4, c)]) := by
  refine congrArg Host.Outcome.next (if_pos ?_)
  rw [decide_eq_true hc, h2, h0]; rfl
/-- The error is counted and noted, and where the pair member is ACTIVE the fix is counted too. -/
theorem exec_guardedReadFix (h0 : gmState s c = 0) {e u : State} (he : raiseLim (bump s (gmReg Reg.GM_UE_CNT c)) 0x993 0 [(4, c)] = e)
    (hu : unitUpd e (fun x => { x with ues := aset x.ues c (e.time.elapsed :: (agetD x.ues c []).take 31) }) = u) :
    exec (.guardedReadFix c) s = .next (if gmState u (gmPair c) = 0 then bump u (gmReg Reg.GM_GUARD_FIX_CNT c) else u) := by
  subst he hu
  refine congrArg Host.Outcome.next (if_pos ?_)
  rw [decide_eq_true hc, h0]; rfl

end

/-- Settles O31: each command and each event, where its condition holds, answers the state that its lemma names. -/
theorem gddrCommandsComplete : Obligations.GddrCommandsComplete := by
  unfold Obligations.GddrCommandsComplete
  intro s c hc
  refine ⟨fun req v hp => ⟨exec_gmLose hc hp, fun h0 h1 hl => ⟨?passes, ?fails⟩⟩, exec_controllerLost_retrain hc, exec_controllerLost_errors hc,
    exec_resyncComplete hc, fun h0 => ⟨fun hm => ?fixed, fun hm => ?counted⟩⟩
  case passes => exact (exec_gmRetrain hc hp h0 h1 true).trans (congrArg _ (if_pos (by rw [hl]; rfl)))
  case fails => exact (exec_gmRetrain hc hp h0 h1 false).trans (congrArg _ (if_neg (by rw [Bool.and_false]; exact Bool.false_ne_true)))
  case fixed => exact (exec_guardedReadFix hc h0 rfl rfl).trans (congrArg _ (if_pos hm))
  case counted => exact (exec_guardedReadFix hc h0 rfl rfl).trans (congrArg _ (if_neg hm))

end Sys2Proof.Machine
end

section
/-! PROOFS. Channel instructions, their waits and thread timers (O27). -/

namespace Sys2Proof.Machine

/-! Instructions that may block (R561, R562). -/

section
variable {s u : State} {t n : Nat} {b : Block}

/-- An instruction that can go on completes at once. -/
theorem chRun_now (h : chTry s t n b = some u) (nb : Bool) : chRun s t n b nb = u := by simp only [chRun, h]
/-- An instruction that must wait answers at once with NB set. -/
theorem chRun_nb (h : chTry s t n b = none) : chRun s t n b true = chReply s t n (if b.op = 0 then STS_PORT_FULL else STS_PORT_EMPTY) := by
  simp only [chRun, h, if_true]
/-- Without NB and without a deadline it blocks its thread. -/
theorem chRun_blocks (h : chTry s t n b = none) (hd : b.dl = none) : chRun s t n b false = chBlock s t n b := by
  simp only [chRun, h, hd, Option.any_none, Bool.false_eq_true, if_false]

end

section
variable {s : State} {t n port : Nat}

theorem chPut_appends {p : TPort} (hp : tport s t (16 * n + port) = p) (h2 : p.mode = 2) (ha : p.abandoned = false) (hg : p.destGone = false)
    (hs : p.sealed = false) (ho : p.opened = true) (hl : p.words.length < 8) (word : Nat) :
    chPut s t n port word false = some (chReply (tportSet s t (16 * n + port) { p with words := p.words ++ [word] }) t n STS_OK) := by
  subst hp
  simp only [chPut, h2, ha, hg, hs, ho, Nat.not_le.mpr hl, ne_eq, not_true_eq_false, Bool.false_eq_true, if_false, if_true]
theorem chRecv_takes {p : TPort} {m : Msg} {rest : List Msg} {addr a : Nat} (hp : tport s t (16 * n + port) = p) (h1 : p.mode = 1) (hm : p.msgs = m :: rest)
    (ha : thAddr (fwBytes s) t addr (8 * m.words) = some a) : chRecv s t n port (some addr) =
      some (chReply (tportSet (store s a ((headWords s t p).flatMap (fun w => le 8 w))) t (16 * n + port) { p with msgs := rest }) t n STS_OK
        (m.words * 2 ^ 8 + port * 2 ^ 12 + m.kind * 2 ^ 16 + b2n m.late * 2 ^ 20 + m.sender * 2 ^ 24)) := by
  subst hp
  simp only [chRecv, h1, hm, ha, ne_eq, not_true_eq_false, if_false, Option.bind_some]
theorem chRecv_empty (h1 : (tport s t (16 * n + port)).mode = 1) (hm : (tport s t (16 * n + port)).msgs = []) (addr : Option Nat) :
    chRecv s t n port addr = none := by
  simp only [chRecv, h1, hm, ne_eq, not_true_eq_false, if_false]

/-- A mask with one bit names one port. -/
theorem mask_one {j : Nat} (h : j < 16) : (List.range 16).filter (fun p => (2 ^ j % 65536).testBit p) = [j] := by
  have hall : ∀ j < 16, (List.range 16).filter (fun p => (2 ^ j % 65536).testBit p) = [j] := by decide
  exact hall j h
theorem chWait_one (hj : port < 16) (h1 : (tport s t (16 * n + port)).mode = 1) (hm : (tport s t (16 * n + port)).msgs ≠ []) :
    chWait s t n (2 ^ port % 65536) = some (chReply s t n STS_OK (port * 2 ^ 12)) := by
  have he : (!(tport s t (16 * n + port)).msgs.isEmpty) = true := by rw [List.isEmpty_eq_false_iff.mpr hm]; rfl
  simp only [chWait, mask_one hj, List.any_cons, List.any_nil, Bool.or_false, h1, ne_eq, not_true_eq_false, decide_false, Bool.false_eq_true, if_false,
    List.find?_cons, he]

end

/-! The instructions of a thread that can issue (R559, R560). -/

section
variable {s : State} {t n : Nat} (hr : thRuns s t n = true)
include hr

theorem exec_chPut {rs1 rs2 : Nat} {u : State} (h : chPut s t n (rs1 % 16) (rs2 % 2 ^ 64) false = some u) : exec (.chPut t n rs1 rs2 0) s = .next u := by
  have hc : chRun s t n { op := 0, port := rs1 % 16, word := rs2 % 2 ^ 64, fin := false } false = u := chRun_now (b := { op := 0, port := rs1 % 16, word := rs2 % 2 ^ 64 }) h false
  refine congrArg Host.Outcome.next (Eq.trans ?_ hc)
  rw [hr]; rfl
/-- Bit 0 of funct7 is NB; without bit 1 there is no deadline. -/
theorem exec_chRecv (rs1 dl : Nat) (addr : Option Nat) (nb : Bool) : exec (.chRecv t n rs1 addr (b2n nb) dl) s =
    .next (chRun s t n { op := 1, port := rs1 % 16, addr := addr } nb) := by
  refine congrArg Host.Outcome.next ?_
  rw [hr]; cases nb <;> rfl
theorem exec_chRecv_now {rs1 : Nat} {addr : Option Nat} {u : State} (h : chRecv s t n (rs1 % 16) addr = some u) (dl : Nat) :
    exec (.chRecv t n rs1 addr 0 dl) s = .next u := (exec_chRecv hr rs1 dl addr false).trans (congrArg Host.Outcome.next (chRun_now (b := { op := 1, port := rs1 % 16, addr := addr }) h false))
theorem exec_chWait {mask : Nat} {u : State} (h : chWait s t n (mask % 65536) = some u) (dl : Nat) : exec (.chWait t n mask 0 0 dl) s = .next u := by
  have hc : chRun s t n { op := 2, mask := mask % 65536 } false = u := chRun_now (b := { op := 2, mask := mask % 65536 }) h false
  refine congrArg Host.Outcome.next (Eq.trans ?_ hc)
  rw [hr]; rfl
theorem exec_chAbort {rs1 : Nat} (h2 : (tport s t (16 * n + rs1 % 16)).mode = 2) (ho : (tport s t (16 * n + rs1 % 16)).opened = true) :
    exec (.chAbort t n rs1 0 0) s = .next (chReply (dropOpen s t (16 * n + rs1 % 16)) t n STS_OK) := by
  refine congrArg Host.Outcome.next ?_
  simp only [hr, h2, ho, ne_eq, not_true_eq_false, decide_false, Bool.not_true, Bool.or_self, Bool.false_eq_true, if_false, if_true]
theorem exec_chTimer_arm {rs1 rs2 : Nat} (h1 : (tport s t (16 * n + rs1 % 16)).mode = 1) (h0 : rs2 % 2 ^ 64 ≠ 0) :
    exec (.chTimer t n rs1 rs2 0) s = .next (chReply (thUpd s t n (fun x =>
      { x with timers := aset x.timers (fld rs1 4 2) (rs1 % 16, rs2 % 2 ^ 64, decide (rs2 % 2 ^ 64 < nowNs s)) })) t n STS_OK) := by
  refine congrArg Host.Outcome.next ?_
  simp only [hr, h1, h0, ne_eq, not_true_eq_false, Bool.not_true, Bool.false_eq_true, if_false]
theorem exec_chInfo {rs1 : Nat} {p : TPort} (hp : tport s t (16 * n + rs1 % 16) = p) : exec (.chInfo t n rs1 0 0) s = .next (emit (thIssue s t n)
    (.threadReply t n 0 [p.msgs.length + p.resv * 2 ^ 13 + b2n (p.mode ≠ 0) * 2 ^ 26 + b2n (p.mode == 2) * 2 ^ 27 + b2n p.opened * 2 ^ 28])) := by
  subst hp
  refine congrArg Host.Outcome.next ?_
  simp only [hr, ne_eq, not_true_eq_false, decide_false, Bool.not_true, Bool.or_self, Bool.false_eq_true, if_false]

end

/-! The ends of waits (R562, R563, R565). -/

section
variable {s : State} {t n : Nat} (ht : t < 34) (hn : n < 64)
include ht hn

section
variable {b : Block} (h2 : thState s t n = 2) (hb : (thGet s t n).block = some b)
include h2 hb

theorem exec_channelUnblock {u : State} (h : chTry s t n b = some u) : exec (.channelUnblock t n) s = .next u := by
  refine congrArg Host.Outcome.next ((if_pos ?_).trans ?_)
  · rw [decide_eq_true ht, decide_eq_true hn, h2]; rfl
  · simp only [hb, h, Option.getD_some]
theorem exec_channelDeadline {d : Nat} (hd : b.dl = some d) (hl : d ≤ nowNs s) (h : chTry s t n b = none) :
    exec (.channelDeadline t n) s = .next (chReply s t n STS_TIMEOUT) := by
  refine congrArg Host.Outcome.next ((if_pos ?_).trans ?_)
  · rw [decide_eq_true ht, decide_eq_true hn, h2]; rfl
  · simp only [hb, h, hd, Option.any_some, decide_eq_true hl, if_true, Option.getD_none]

end

theorem exec_threadTimerExpire {k p at' : Nat} {w : State} (hf : aget (thGet s t n).fired k = none) (hx : aget (thGet s t n).timers k = some (p, at', false))
    (hl : at' ≤ nowNs s) (h1 : (tport s t (16 * n + p)).mode = 1)
    (hw : postMsg (thUpd s t n (fun y => { y with timers := adel y.timers k })) (tport s t (16 * n + p)).handle [at'] 3 0 false = some w) :
    exec (.threadTimerExpire t n k) s = .next w := by
  refine congrArg Host.Outcome.next ((if_pos ?_).trans ?_)
  · rw [decide_eq_true ht, decide_eq_true hn]; rfl
  · simp only [hf, hx, Nat.not_lt.mpr hl, h1, hw, ne_eq, not_true_eq_false, Bool.false_eq_true, if_false, Option.getD_some]

end

/-- Settles O27: each instruction and each end of a wait, where its condition holds, answers the state that its lemma names. -/
theorem channelInstructionsComplete : Obligations.ChannelInstructionsComplete := by
  unfold Obligations.ChannelInstructionsComplete
  refine ⟨?instr, ?waits, ?timer⟩
  case instr =>
    intro s t n rs1 rs2 k hr hk
    subst hk
    refine ⟨?put, ?recv, ?empty, exec_chAbort hr, exec_chTimer_arm hr, exec_chInfo hr rfl, ?wait⟩
    case put => exact fun h2 ha hg hs ho hl => exec_chPut hr (chPut_appends rfl h2 ha hg hs ho hl _)
    case recv => exact fun addr a m rest dl h1 hm ha => exec_chRecv_now hr (chRecv_takes rfl h1 hm ha) dl
    case empty =>
      intro addr dl h1 hm
      have hw : chTry s t n { op := 1, port := rs1 % 16, addr := addr } = none := chRecv_empty h1 hm addr
      exact ⟨(exec_chRecv hr rs1 dl addr true).trans (congrArg _ (chRun_nb hw)), (exec_chRecv hr rs1 dl addr false).trans (congrArg _ (chRun_blocks hw rfl))⟩
    case wait => exact fun dl h1 hm => exec_chWait hr (chWait_one (Nat.mod_lt _ (by decide)) h1 hm) dl
  case waits => exact fun s t n b ht hn h2 hb => ⟨fun u => exec_channelUnblock ht hn h2 hb, fun d => exec_channelDeadline ht hn h2 hb⟩
  case timer => exact fun s t n k p at' ht hn hf hx hl h1 w => exec_threadTimerExpire ht hn hf hx hl h1

end Sys2Proof.Machine
end

section
/-! PROOFS. Thread control, ports, the DMA engine, faults and standstill (O28), and the debug port (O29). -/

namespace Sys2Proof.Machine

/-! TH_CTL (R563, R564, R569, R571). -/

theorem thCtlRow_gate {s : State} {req : Requester} {t n : Nat} {v : W32} (ht : t < 34) (hn : n < 64) (hp : Passes s req (thR Reg.TH_CTL t n) false)
    {bit : Nat} (hb : rbit v bit = true) : thCtlRow bit req 15 t n v s = thCtlWrite s t n v := by
  refine (if_pos ?_).trans (gate_open hp)
  rw [decide_eq_true ht, decide_eq_true hn, hb]; rfl

section
variable {s u : State} {t n : Nat} {v : W32} (hu : plainWrite s (thR Reg.TH_CTL t n) 0xFF08 v = u)
include hu

theorem thCtlWrite_halt (h0 : rbit v 0 = true) (h1 : rbit v 1 = false) (h2 : rbit v 2 = false) (h4 : rbit v 4 = false) :
    thCtlWrite s t n v = haltThread u t n := by
  simp only [thCtlWrite, hu, h0, h1, h2, h4, if_true, Bool.false_and, Bool.false_eq_true, if_false]
theorem thCtlWrite_resume (h0 : rbit v 0 = false) (h1 : rbit v 1 = true) (h2 : rbit v 2 = false) (h4 : rbit v 4 = false)
    (hs : thState u t n = 0 ∨ thState u t n = 3) (hd : thDbg u t n = false) : thCtlWrite s t n v = resumeThread u t n := by
  have hc : (thState u t n == 0 || thState u t n == 3) = true := by rcases hs with h | h <;> rw [h] <;> rfl
  simp only [thCtlWrite, hu, h0, h1, h2, h4, hc, hd, Bool.not_false, Bool.and_self, Bool.false_and, Bool.false_eq_true, if_true, if_false]
theorem thCtlWrite_reset (h0 : rbit v 0 = false) (h1 : rbit v 1 = false) (h2 : rbit v 2 = true) (h4 : rbit v 4 = false) :
    thCtlWrite s t n v = resetThread u t n := by
  simp only [thCtlWrite, hu, h0, h1, h2, h4, Bool.false_and, Bool.false_eq_true, if_true, if_false]
theorem thCtlWrite_cancel (h0 : rbit v 0 = false) (h1 : rbit v 1 = false) (h2 : rbit v 2 = false) (h4 : rbit v 4 = true) (hs : thState u t n = 2) :
    thCtlWrite s t n v = ((thGet u t n).block.bind (chTry u t n)).getD
      (chReply u t n (if rfld v 8 8 = 0 then STS_CANCELLED else BitVec.ofNat 8 (rfld v 8 8))) := by
  simp only [thCtlWrite, hu, h0, h1, h2, h4, hs, Bool.false_and, Bool.false_eq_true, if_false, decide_true, Bool.and_self, if_true]

end

theorem haltThread_running {u : State} {t n : Nat} (h : thState u t n = 1) : haltThread u t n = thSetState (stopPc u t n) t n 0 := if_pos h
theorem haltThread_blocked {u : State} {t n : Nat} (h : thState u t n = 2) : haltThread u t n = thSetState u t n 0 :=
  (if_neg (by omega)).trans (if_pos h)
/-- A thread that was in no read when it was halted runs on. -/
theorem resumeThread_free {u : State} {t n : Nat} (h : (thGet u t n).block = none) : resumeThread u t n = thIssue (thSetState u t n 1) t n := by
  simp only [resumeThread, h]

/-! Wakes and groups (R563, R572). -/

section
variable {s : State} {req : Requester} {t n : Nat} {v : W32} (ht : t < 34) (hn : n < 64)
include ht hn

theorem exec_thWake {u w : State} (hp : Passes s req (thR Reg.TH_WAKE_HI t n) false)
    (hu : wr (loCommit s req (thR Reg.TH_WAKE_LO t n)) (thR Reg.TH_WAKE_HI t n) v = u) (hw : wrF u (thR Reg.TH_WAKE_PORT t n) 8 1 0 = w)
    (h1 : (tport u t (16 * n + rdF u (thR Reg.TH_WAKE_PORT t n) 0 4)).mode = 1)
    (hr : tportRoom (tport u t (16 * n + rdF u (thR Reg.TH_WAKE_PORT t n) 0 4)) = true) :
    exec (.thWake req 15 t n v) s =
      .next (enqueue w t (16 * n + rdF u (thR Reg.TH_WAKE_PORT t n) 0 4) [rd64 w (thR Reg.TH_WAKE_LO t n)] 5 0 false) := by
  subst hu hw
  refine congrArg Host.Outcome.next (((if_pos ?_).trans (gate_open hp)).trans ?_)
  · rw [decide_eq_true ht, decide_eq_true hn]; rfl
  · simp only [thWakeWrite, h1, hr, decide_true, Bool.and_self, Bool.not_true, if_true]
    rfl
theorem exec_thGroupWrite (h0 : n ≠ 0) (hp : Passes s req (thR Reg.TH_GROUP t n) false) :
    exec (.thGroupWrite req 15 t n v) s = .next (wrN s (thR Reg.TH_GROUP t n) (rfld v 0 6)) := by
  refine congrArg Host.Outcome.next (((if_pos ?_).trans (gate_open hp)).trans (if_neg ?_))
  · rw [decide_eq_true ht, decide_eq_true hn]; rfl
  · rw [decide_eq_false h0]; exact Bool.false_ne_true

end

/-! Ports (R553, R575). -/

section
variable {s : State} {req : Requester} {t : Nat} {v : W32} (ht : t < 34)
include ht

theorem exec_portSelWrite (hp : Passes s req (tilR Reg.TIL_PORT_SEL t) false) :
    exec (.portSelWrite req 15 t v) s = .next (loadPort (wrN s (tilR Reg.TIL_PORT_SEL t) (rfld v 0 10)) t) :=
  congrArg Host.Outcome.next ((if_pos ht).trans (gate_open hp))
theorem exec_portApply (hp : Passes s req (tilR Reg.TIL_PORT_CMD t) false) (h2 : rbit v 2 = false) (h0 : rbit v 0 = true) :
    exec (.portApply req 15 t v) s = .next (portApply s t) := by
  refine congrArg Host.Outcome.next (((if_pos ?_).trans (gate_open hp)).trans ?_)
  · rw [decide_eq_true ht, h0]; rfl
  · simp only [portCmdWrite, h2, h0, Bool.false_eq_true, if_false, if_true]

end

section
variable {s : State} {t : Nat} (hk : portKey s t ≠ faultKey) (hm : (tport s t (portKey s t)).msgs = []) (hv : (tport s t (portKey s t)).resv = 0)
  (ho : (tport s t (portKey s t)).opened = false)
include hk hm hv ho

/-- A port that holds nothing may be unbound. -/
theorem portApply_unbind (h0 : rdF s (Reg.TIL_PORT_CFG (t / 8) (t % 8) 0) 0 2 = 0) : portApply s t = loadPort (unbindPort s t (portKey s t)) t := by
  simp only [portApply, h0, hk, hm, hv, ho, Nat.reduceEqDiff, decide_false, Bool.false_and, Bool.and_false, Bool.or_self, Bool.false_eq_true, if_false,
    List.isEmpty_nil, Bool.not_true, ne_eq, not_true_eq_false, if_true]
/-- An IN port whose queue lies where it may is bound under a new handle. -/
theorem portApply_bind {h : Nat} {u : State} (h1 : rdF s (Reg.TIL_PORT_CFG (t / 8) (t % 8) 0) 0 2 = 1)
    (hd2 : 2 ≤ rdF s (Reg.TIL_PORT_CFG (t / 8) (t % 8) 0) 8 4) (hd12 : rdF s (Reg.TIL_PORT_CFG (t / 8) (t % 8) 0) 8 4 ≤ 12)
    (ha : rdF s (Reg.TIL_PORT_CFG (t / 8) (t % 8) 1) 0 20 % 64 = 0)
    (he : rdF s (Reg.TIL_PORT_CFG (t / 8) (t % 8) 1) 0 20 + 64 * 2 ^ rdF s (Reg.TIL_PORT_CFG (t / 8) (t % 8) 0) 8 4 ≤ 0x100000)
    (hn : newPortHandle (unbindPort s t (portKey s t)) = (some h, u)) :
    portApply s t = loadPort (tportSet u t (portKey s t)
      { mode := 1, puntOk := rdF s (Reg.TIL_PORT_CFG (t / 8) (t % 8) 0) 2 1 = 1, event := rdF s (Reg.TIL_PORT_CFG (t / 8) (t % 8) 0) 3 1 = 1,
        hw := (tport s t (portKey s t)).hw, depthLog := rdF s (Reg.TIL_PORT_CFG (t / 8) (t % 8) 0) 8 4,
        qbase := rdF s (Reg.TIL_PORT_CFG (t / 8) (t % 8) 1) 0 20, handle := h,
        pbase := rdF s (Reg.TIL_PORT_CFG (t / 8) (t % 8) 4) 0 32 + rdF s (Reg.TIL_PORT_CFG (t / 8) (t % 8) 5) 0 32 * 2 ^ 32,
        pslots := rdF s (Reg.TIL_PORT_CFG (t / 8) (t % 8) 6) 0 16, prel := (tport s t (portKey s t)).prel }) t := by
  have hlo : ¬ rdF s (Reg.TIL_PORT_CFG (t / 8) (t % 8) 0) 8 4 < 2 := by omega
  have hhi : ¬ rdF s (Reg.TIL_PORT_CFG (t / 8) (t % 8) 0) 8 4 > 12 := by omega
  have hend : ¬ rdF s (Reg.TIL_PORT_CFG (t / 8) (t % 8) 1) 0 20 + 64 * 2 ^ rdF s (Reg.TIL_PORT_CFG (t / 8) (t % 8) 0) 8 4 > 0x100000 := by omega
  simp only [portApply, h1, hlo, hhi, ha, hend, hk, hm, hv, ho, hn, Nat.reduceEqDiff, decide_false, decide_true, Bool.false_and,
    Bool.and_false, Bool.or_self, Bool.false_eq_true, if_false, List.isEmpty_nil, Bool.not_true, ne_eq, not_true_eq_false, if_true]

end

/-! The DMA engine (R567) and the records that wait (R569). -/

/-- A message that is posted goes to a bound port. -/
theorem inPort_of_postMsg {s w : State} {h kind sender : Nat} {words : List Nat} {late : Bool} (hw : postMsg s h words kind sender late = some w) :
    (inPort s h).isNone = false := by
  unfold postMsg at hw
  split at hw
  · next e => rw [e]; rfl
  · cases hw

section
variable {s : State} {t : Nat} (hs : unitState s (16 + t) = 1)
include hs

theorem exec_dmaRequest {r : DmaReq} {rest : List DmaReq} (hc : (tilGet s t).dmaCur = none) (hd : (tilGet s t).dma = r :: rest) :
    exec (.dmaRequest t) s = .next (tilUpd s t (fun a => { a with dmaCur := some r, dma := rest })) := by
  refine congrArg Host.Outcome.next ((if_neg ?_).trans ?_)
  · rw [hs]; exact Bool.false_ne_true
  · simp only [hc, hd, hs, if_true]
theorem exec_dmaComplete {r : DmaReq} {env : Env} {u w : State} {sts : Byte} {w3 : Nat} (hc : (tilGet s t).dmaCur = some r) (hn : r.done = none)
    (hm : dmaHost r = false ∨ mayRead s (dmaSlice r) = true) (hd : dmaCopy s t r env = (u, sts)) (h3 : (r.words[3]?).getD 0 = w3)
    (hw : postMsg u (w3 % 2 ^ 32) [sts.toNat + w3 / 2 ^ 32 * 2 ^ 32] 2 0 false = some w) :
    exec (.dmaComplete t env) s = .next (tilUpd w t (fun a => { a with dmaCur := none })) := by
  have hb : (dmaHost r && !mayRead s (dmaSlice r)) = false := by rcases hm with h | h <;> simp [h]
  refine congrArg Host.Outcome.next ?_
  simp only [hc, hs, hn, hd, h3, hw, hb, inPort_of_postMsg hw, Nat.reduceEqDiff, Option.isNone_none, Bool.true_and, ne_eq, not_true_eq_false, decide_false,
    Bool.or_self, Bool.false_eq_true, if_false]
theorem exec_faultRecordPost {ws : List Nat} {rest : List (List Nat)} (hf : (tilGet s t).faults = ws :: rest) (h1 : (tport s t faultKey).mode = 1)
    (hr : tportRoom (tport s t faultKey) = true) (hh : tilHeld s t = false) :
    exec (.faultRecordPost t) s = .next (enqueue (tilUpd s t (fun a => { a with faults := rest })) t faultKey ws 6 0 false) := by
  refine congrArg Host.Outcome.next ?_
  simp only [hf, h1, hr, hh, hs, decide_true, Bool.not_false, Bool.and_self, if_true]

end

/-! Faults and standstill (R568, R573). -/

/-- A trap that finds its vector zero faults a running thread other than the supervisor. -/
theorem exec_threadFault {s u : State} {t n : Nat} (mode xcause xepc xtval : Nat) (ht : t < 34) (hn : n < 64) (h0 : n ≠ 0) (h1 : thState s t n = 1)
    (hu : wr64 (thSetState (thUpd s t n (fun x => { x with block := none, regs := [] })) t n 3) (thR Reg.TH_PC_LO t n) (xepc % 2 ^ 64) = u) :
    exec (.threadFault t n mode 0 xcause xepc xtval) s = .next (raiseLim (bump (faultRecord u t
      [2 + n * 2 ^ 8 + mode % 4 * 2 ^ 14 + 0 * 2 ^ 16, xcause % 2 ^ 64, xepc % 2 ^ 64, xtval % 2 ^ 64, nowNs u, 0, 0, 0]) (tilR Reg.TIL_FAULT_CNT t)) (tilSrc t 1) 0 [(4, n)]) := by
  subst hu
  refine congrArg Host.Outcome.next ((if_pos ?_).trans (if_neg h0))
  rw [decide_eq_true ht, decide_eq_true hn, h1]; rfl
theorem exec_standstill {s u : State} {t g members : Nat} (ht : t < 34) (h1 : 1 ≤ g) (h63 : g ≤ 63) (hg : groupOf s t g ≠ [])
    (hq : rdF s (tilR Reg.TIL_SS_QUIET t) 0 16 ≠ 0) (hs : (tilGet s t).still.contains g = false)
    (hall : (groupOf s t g).all (fun n => stuckIn s t n g &&
      decide ((thGet s t n).since + rdF s (tilR Reg.TIL_SS_QUIET t) 0 16 * usUnits ≤ s.time.elapsed)) = true)
    (hm : (groupOf s t g).foldl (fun a n => a + 2 ^ n) 0 = members) (hu : tilUpd s t (fun a => { a with still := g :: a.still }) = u) :
    exec (.standstill t g) s =
      .next (raise (bump (faultRecord u t [3 + g * 256, members, nowNs u, 0]) (tilR Reg.TIL_SS_CNT t)) (tilSrc t 3) [(4, g), (8, members)]) := by
  subst hm hu
  refine congrArg Host.Outcome.next (if_pos ?_)
  rw [hall, hs, List.isEmpty_eq_false_iff.mpr hg, decide_eq_true ht, decide_eq_true h1, decide_eq_true h63, decide_eq_true hq]; rfl

/-- Settles O28: each command and each event, where its condition holds, answers the state that its lemma names. -/
theorem threadCommandsComplete : Obligations.ThreadCommandsComplete := by
  unfold Obligations.ThreadCommandsComplete
  refine ⟨fun s req t n v ht hn => ⟨?ctl, ?wake, ?context, exec_thGroupWrite ht hn⟩, ?ports, ?dma, ?fault, ?still⟩
  case ctl =>
    intro hp u
    have hrow {bit : Nat} (hb : rbit v bit = true) := thCtlRow_gate (bit := bit) ht hn hp hb
    refine ⟨fun h0 h1 h2 h4 => ⟨fun hs => ?_, fun hs => ?_⟩, fun h0 h1 h2 h4 hs hd hb => ?_, fun h0 h1 h2 h4 => ?_, fun h0 h1 h2 h4 hs => ⟨fun hw => ?_, fun w hw => ?_⟩⟩
    · exact congrArg Host.Outcome.next ((hrow h0).trans ((thCtlWrite_halt rfl h0 h1 h2 h4).trans (haltThread_running hs)))
    · exact congrArg Host.Outcome.next ((hrow h0).trans ((thCtlWrite_halt rfl h0 h1 h2 h4).trans (haltThread_blocked hs)))
    · exact congrArg Host.Outcome.next ((hrow h1).trans ((thCtlWrite_resume rfl h0 h1 h2 h4 hs hd).trans (resumeThread_free hb)))
    · exact congrArg Host.Outcome.next ((hrow h2).trans (thCtlWrite_reset rfl h0 h1 h2 h4))
    · exact congrArg Host.Outcome.next ((hrow h4).trans ((thCtlWrite_cancel rfl h0 h1 h2 h4 hs).trans (congrArg (Option.getD · _) hw)))
    · exact congrArg Host.Outcome.next ((hrow h4).trans ((thCtlWrite_cancel rfl h0 h1 h2 h4 hs).trans (congrArg (Option.getD · _) hw)))
  case wake => exact fun hp h1 hr => exec_thWake ht hn hp rfl rfl h1 hr
  case context =>
    exact fun k hk hp => ⟨fun h => (exec_threadContextWrite ht hn hk hp).trans (congrArg _ (thContextWrite_lo h)),
      fun h hs => (exec_threadContextWrite ht hn hk hp).trans (congrArg _ (thContextWrite_commits hs h))⟩
  case ports =>
    exact fun s req t v ht => ⟨exec_portSelWrite ht, fun hp h2 h0 hk hm hv ho =>
      ⟨fun h => (exec_portApply ht hp h2 h0).trans (congrArg _ (portApply_unbind hk hm hv ho h)),
       fun h u h1 hd2 hd12 ha he hn => (exec_portApply ht hp h2 h0).trans (congrArg _ (portApply_bind hk hm hv ho h1 hd2 hd12 ha he hn))⟩⟩
  case dma =>
    exact fun s t r hs => ⟨fun rest => exec_dmaRequest hs, fun env u sts w hc hn hm hd hw => exec_dmaComplete hs hc hn hm hd rfl hw,
      fun ws rest => exec_faultRecordPost hs⟩
  case fault => exact fun s t n mode xcause xepc xtval ht hn h0 h1 => exec_threadFault mode xcause xepc xtval ht hn h0 h1 rfl
  case still => exact fun s t g ht h1 h63 hg hq hs hall => exec_standstill ht h1 h63 hg hq hs hall rfl rfl

/-! Debug commands (R558, R571, R574). -/

section
variable {u : State} {t n : Nat} (pa : Option Nat) (pc : Nat)

theorem dbgRun_resume (hd : thDbg u t n = true) :
    dbgRun u t n 2 pa pc = (resumeThread (wrF u (thR Reg.TH_STATUS t n) 3 1 0) t n, STS_OK) := if_pos hd

section
variable (h0 : thState u t n = 0)
include h0

/-- STEP, RD_REG, WR_REG, RD_MEM, WR_MEM and ABANDON act on a halted thread alone. -/
theorem dbg_halted : (thState u t n == 0) = true := by rw [h0]; rfl
theorem dbgRun_step (hd : thDbg u t n = true) : dbgRun u t n 3 pa pc =
    (wr64 (thUpd (emit (thIssue u t n) (.control "single step" [t, n])) t n (fun x => { x with regs := [] })) (thR Reg.TH_PC_LO t n) (pc % 2 ^ 64), STS_OK) := by
  simp only [dbgRun, dbg_halted h0, hd, Bool.and_self, if_true]
theorem dbgRun_readReg {r x : Nat} {w : State} (hr : rdN u (tilR Reg.TIL_DBG_ADDR t) % 0x2000 = r) (hk : dbgRegOk r = true) (hx : dbgReg u t n r = (x, w)) :
    dbgRun u t n 4 pa pc = (wr64 w (tilR Reg.TIL_DBG_DATA_LO t) x, STS_OK) := by
  simp only [dbgRun, dbg_halted h0, hr, hk, hx, Bool.not_true, Bool.false_eq_true, if_false]
theorem dbgRun_writePc (hr : rdN u (tilR Reg.TIL_DBG_ADDR t) % 0x2000 = 0x40) :
    dbgRun u t n 5 pa pc = (wr64 u (thR Reg.TH_PC_LO t n) (rd64 u (tilR Reg.TIL_DBG_DATA_LO t)), STS_OK) := by
  have hk : dbgRegOk 0x40 = true := rfl
  simp only [dbgRun, dbg_halted h0, hr, hk, Bool.not_true, Bool.false_eq_true, if_false, if_true]
theorem dbgRun_writeReg {r : Nat} (hr : rdN u (tilR Reg.TIL_DBG_ADDR t) % 0x2000 = r) (hk : dbgRegOk r = true) (hn : r ≠ 0x40) :
    dbgRun u t n 5 pa pc = (thUpd u t n (fun x => { x with regs := aset x.regs r (rd64 u (tilR Reg.TIL_DBG_DATA_LO t)) }), STS_OK) := by
  simp only [dbgRun, dbg_halted h0, hr, hk, hn, Bool.not_true, Bool.false_eq_true, if_false]
theorem dbgRun_readMem {a pa : Nat} (ha : thAddr (fwBytes u) t pa 8 = some a) :
    dbgRun u t n 6 (some pa) pc = (wr64 u (tilR Reg.TIL_DBG_DATA_LO t) (ofLe (memGets u.mem a 8)), STS_OK) := by
  simp only [dbgRun, dbg_halted h0, ha, Option.bind_some, Bool.not_true, Bool.false_eq_true, if_false]
theorem dbgRun_abandon {k : Nat} (hk : 16 * n + rdN u (tilR Reg.TIL_DBG_ADDR t) % 16 = k) (ho : (tport u t k).opened = true) :
    dbgRun u t n 8 pa pc = (tportSet (dropOpen u t k) t k { tport (dropOpen u t k) t k with abandoned := true }, STS_OK) := by
  simp only [dbgRun, dbg_halted h0, hk, ho, Bool.not_true, Bool.false_eq_true, if_false, if_true]

end

/-- Register numbers below that of the PC name the integer registers. -/
theorem dbgRegOk_int {r : Nat} (h : r < 0x40) : dbgRegOk r = true := by simp [dbgRegOk]; omega
theorem dbgReg_known {r x : Nat} (h0 : 0 < r) (h : r < 0x40) (hx : aget (thGet u t n).regs r = some x) : dbgReg u t n r = (x, u) := by
  have h1 : r ≠ 0 := by omega
  have h2 : r ≠ 0x40 := by omega
  have h3 : r ≠ 0x1CC0 := by omega
  simp only [dbgReg, h1, h2, h3, hx, if_false]

end

theorem exec_breakpointHit {s : State} {t n pc : Nat} (hr : thRuns s t n = true) (hb : (thGet s t n).bps.any (fun e => e.2 == pc) = true) :
    exec (.breakpointHit t n pc) s = .next (wrF (thSetState (wr64 (thUpd s t n (fun x => { x with regs := [] })) (thR Reg.TH_PC_LO t n) (pc % 2 ^ 64)) t n 0)
      (thR Reg.TH_STATUS t n) 3 1 1) := by
  refine congrArg Host.Outcome.next (if_pos ?_)
  rw [hr, hb]; rfl

/-! The release of a tiller (R549). -/

section
variable {s : State} {t role : Nat} (ht : t < 34) (hr : role < 32) (h0 : rdF s (tilR Reg.TIL_STATUS t) 0 1 = 0)
include ht hr h0

theorem tiller_unreleased : (decide (t < 34) && decide (role < 32) && decide (rdF s (tilR Reg.TIL_STATUS t) 0 1 = 0)) = true := by
  rw [decide_eq_true ht, decide_eq_true hr, decide_eq_true h0]; rfl
theorem exec_tillerRelease_serving (h1 : unitState s (16 + t) = 1) (hu : unitRole s (16 + t) = role) :
    exec (.tillerRelease t role) s = .next (releaseTiller s t role role) := by
  refine congrArg Host.Outcome.next ((if_pos (tiller_unreleased ht hr h0)).trans (if_pos ?_))
  rw [decide_eq_true h1, decide_eq_true hu]; rfl
theorem exec_tillerRelease_spare (h2 : unitState s (16 + t) = 2) : exec (.tillerRelease t role) s = .next (releaseTiller s t role 0x3F) := by
  refine congrArg Host.Outcome.next ((if_pos (tiller_unreleased ht hr h0)).trans ((if_neg ?_).trans (if_pos h2)))
  rw [h2]; exact Bool.false_ne_true

end

/-- Settles O29: each debug command within scope does what its lemma says and shows STATUS 0. -/
theorem debugCommandsComplete : Obligations.DebugCommandsComplete := by
  unfold Obligations.DebugCommandsComplete
  refine ⟨fun s req t n v => ?debug, fun s t n pc => exec_breakpointHit, fun s t role ht hr h0 =>
    ⟨exec_tillerRelease_serving ht hr h0, exec_tillerRelease_spare ht hr h0⟩⟩
  intro u ok addr data mark
  have hrow {op : Nat} {pa : Option Nat} {pc : Nat} {w : State} (h : DbgReady s req t n op v) (h0 : op ≠ 0) (hw : dbgRun u t n op pa pc = (w, STS_OK)) :
      Host.Outcome.next (dbgRow op req 15 t v pa pc s) = ok w := by
    refine congrArg Host.Outcome.next ((dbgRow_ready h h0).trans ?_)
    rw [hw]
  refine ⟨fun h => ?_, fun h hd => ?_, fun pc h h0 hd => ?_, fun h h0 => ⟨fun ha => ?_, fun ha => ?_, fun x hp ha hx => ?_⟩, fun h h0 => ⟨fun ha => ?_, fun hk ha => ?_⟩,
    fun pa a ha h0 => ⟨fun h => ?_, fun h => ?_⟩, fun h h0 ho => ?_, fun h => ?_, fun h => ?_, fun h => ?_⟩
  · exact hrow h (by decide) rfl
  · exact hrow h (by decide) (dbgRun_resume none 0 hd)
  · exact hrow h (by decide) (dbgRun_step none pc h0 hd)
  · exact hrow h (by decide) (dbgRun_readReg none 0 h0 ha rfl rfl)
  · exact hrow h (by decide) (dbgRun_readReg none 0 h0 ha rfl rfl)
  · exact hrow h (by decide) (dbgRun_readReg none 0 h0 rfl (dbgRegOk_int ha) (dbgReg_known hp ha hx))
  · exact hrow h (by decide) (dbgRun_writePc none 0 h0 ha)
  · exact hrow h (by decide) (dbgRun_writeReg none 0 h0 rfl hk ha)
  · exact hrow h (by decide) (dbgRun_readMem 0 h0 ha)
  · exact hrow h (by decide) (dbgRun_write h0 ha)
  · exact hrow h (by decide) (dbgRun_abandon none 0 h0 rfl ho)
  · exact hrow h (by decide) rfl
  · exact hrow h (by decide) rfl
  · exact hrow h (by decide) rfl

end Sys2Proof.Machine
end

section
/-! PROOFS. Loads of the microstores (O53), the overflow region (O55) and the nodes of the scheduling tree (O56). -/

namespace Sys2Proof.Machine

/-! Loads (R372, R373). -/

/-- A word in the bank of a flight's step that is not in use, in each stair that a load reaches and in the golden copy. -/
def ucLoaded (s : State) (p fl k addr w : Nat) : State :=
  (loadStairs s).foldl (fun s q => stairUpd s q (fun x => { x with uc := aset x.uc (ucKey fl k (1 - ucActive s q fl) addr) w }))
    { s with golden := { s.golden with uc := aset s.golden.uc (ucKey fl k (1 - ucActive s (((loadStairs s)[0]?).getD p) fl) addr) w } }

theorem ucLoaded_regs (s : State) (p fl k addr w : Nat) : (ucLoaded s p fl k addr w).regs = s.regs := by
  refine Keeps.regs (l := [.stairs, .golden]) (Keeps.foldl (Keeps.refl.set_golden rfl) fun u q h => h.after (stairUpd_k ..).keeps rfl)

section
variable {s : State} {req : Requester} {p fl k : Nat}

/-- A load that nothing refuses writes its word and, with AUTO_INC clear, nothing else. -/
theorem ucLoad_idle (hl : (loadStairs s).any (fun q => ucHeld s q fl) = false) (hp : ucHeld s p fl = false)
    (hen : rdF s (Reg.stepPage p fl k + 8) 13 1 = 1) (hinc : rdF s (Reg.stepPage p fl k + 8) 11 1 = 0) (hg : s.unit.goldenBad = false)
    (h3 : guardedGone s 3 0 0 = false) (addr w : Nat) (inc : Bool) : ucLoad s p fl k addr w none inc = ucLoaded s p fl k addr w := by
  have hi : ucInc (ucLoaded s p fl k addr w) p fl k = ucLoaded s p fl k addr w :=
    if_neg (by rw [rdF_eq (rd_regs (ucLoaded_regs ..) _), hinc]; exact Nat.zero_ne_one)
  simp only [ucLoad, hl, hp, hen, hg, h3, Bool.or_self, Bool.false_eq_true, if_false, Nat.reduceEqDiff]
  cases inc with
  | false => rfl
  | true => exact hi

section
variable (hs : stepOk p fl k = true)
include hs

theorem exec_ucDataWrite (hp : Passes s req (Reg.stepPage p fl k + 0xC) false) (v : W32) :
    exec (.ucDataWrite req 15 p fl k v) s = .next (ucLoad s p fl k (ucAddr s p fl k) v.toNat none true) :=
  congrArg Host.Outcome.next ((if_pos hs).trans (gate_open hp))
theorem exec_writeNw {v : W32} (hp : Passes s req (Reg.stepPage p fl k + 0x10) false) (h0 : rbit v 0 = true) (h1 : rbit v 1 = false)
    (hn : nanoRefused fl k (nanoOf s p fl k) = none) :
    exec (.writeNw req 15 p fl k v) s = .next (ucLoad s p fl k (2048 + ucAddr s p fl k % 512) (nanoOf s p fl k) none true) := by
  refine congrArg Host.Outcome.next (((if_pos ?_).trans (gate_open hp)).trans ?_)
  · rw [hs, h0]; rfl
  · simp only [ucCmdWrite, h0, h1, hn, Bool.and_false, Bool.false_eq_true, if_false, if_true]
theorem exec_stepCtlWrite {v : W32} (hp : Passes s req (Reg.stepPage p fl k) false) (h3 : rfld v 1 2 ≠ 3) :
    exec (.stepCtlWrite req 15 p fl k v) s = .next (ucLoad s p fl k 2560 (rfld v 0 11) none false) := by
  refine congrArg Host.Outcome.next (((if_pos hs).trans (gate_open hp)).trans ?_)
  simp only [stepCtlWrite, if_neg h3]

end

end

/-- Settles O53: each of the three writes is a load that nothing refuses. -/
theorem microLoadsComplete : Obligations.MicroLoadsComplete := by
  unfold Obligations.MicroLoadsComplete
  intro s req p fl k addr w v i hs hl hh hen hinc hg h3 hcase
  have hload := ucLoad_idle hl hh hen hinc hg h3
  show exec i s = .next (ucLoaded s p fl k addr w)
  obtain ⟨hp, ha, hw, hi⟩ | ⟨hp, h0, h1, ha, hw, hn, hi⟩ | ⟨hp, ha, hw, h3', hi⟩ := hcase
  · rw [hi, ha, hw]
    exact (exec_ucDataWrite hs hp v).trans (congrArg Host.Outcome.next (hload _ _ true))
  · rw [hi, ha, hw]
    exact (exec_writeNw hs hp h0 h1 (hw ▸ hn)).trans (congrArg Host.Outcome.next (hload _ _ true))
  · rw [hi, ha, hw]
    exact (exec_stepCtlWrite hs hp h3').trans (congrArg Host.Outcome.next (hload _ _ false))

/-! Overflow (R391, R404, R406). -/

theorem exec_hostGrainWaitEnd {s : State} {ch idx : Nat} {c : Chan} {e : Ent} (he : entOf s ch idx = some (c, e)) (hh : e.hold = true) :
    exec (.hostGrainWaitEnd ch idx) s = .next (txEnter s ch idx) := by
  refine congrArg Host.Outcome.next ?_
  simp only [he, hh, if_true]

/-- A packet in its queue once its body lies in GDDR7. -/
def pktCopied (id : Nat) (y : QPkt) : QPkt := if y.pkt.id = id then { y with copying := false, pkt := { y.pkt with grains := 0 } } else y

/-- No packet under the number is left copying. -/
theorem find_pktCopied (l : List QPkt) (id : Nat) : (l.map (pktCopied id)).find? (fun x => x.pkt.id == id && x.copying) = none := by
  refine List.find?_eq_none.mpr fun x hx => ?_
  obtain ⟨y, -, rfl⟩ := List.mem_map.mp hx
  by_cases hy : y.pkt.id = id
  · simp [pktCopied, hy]
  · simp [pktCopied, hy]

section
variable {s : State} {q id : Nat} {x : QPkt} (hx : (nodeGet s 0 q).pkts.find? (fun x => x.pkt.id == id && x.copying) = some x)
include hx

theorem copyDone_found : copyDone s q id = freeGrains (regSub (nodeSet s 0 q { nodeGet s 0 q with pkts := (nodeGet s 0 q).pkts.map (pktCopied id) })
    Reg.LD_OVF_BACKLOG x.units) x.pkt.grains := by
  unfold copyDone
  dsimp only
  rw [hx]
  rfl
theorem copyDone_backlog : rdN (copyDone s q id) Reg.LD_OVF_BACKLOG = (rdN s Reg.LD_OVF_BACKLOG - x.units) % 2 ^ 32 := by
  rw [copyDone_found hx, rdN_eq (freeGrains_rd _ _ (by decide) (by decide) (by decide) (by decide))]
  exact rdN_wrN_same ..
theorem copyDone_unadmitted : rdN (copyDone s q id) Reg.LD_UNADMITTED = (rdN s Reg.LD_UNADMITTED - x.pkt.grains) % 2 ^ 32 := by
  rw [copyDone_found hx, freeGrains_unadmitted, regSub, rdN_wrN_ne _ _ (by decide)]
  rfl
theorem copyDone_pkts : (nodeGet (copyDone s q id) 0 q).pkts = (nodeGet s 0 q).pkts.map (pktCopied id) := by
  have hl : (copyDone s q id).land = (nodeSet s 0 q { nodeGet s 0 q with pkts := (nodeGet s 0 q).pkts.map (pktCopied id) }).land := by
    rw [copyDone_found hx]
    exact ((regSub_k ..).keeps.after' (freeGrains_k ..).keeps (l := [.regs, .ev])).land
  rw [nodeGet, nodeMap, hl]
  exact congrArg Node.pkts (agetD_aset_same ..)

end

theorem exec_ovfSizeWrite {s : State} {req : Requester} (hp : Passes s req Reg.LD_OVF_SIZE false) (h0 : rdN s Reg.LD_OVF_USED = 0) (v : W32) :
    exec (.ovfSizeWrite req 15 v) s = .next (plainWrite s Reg.LD_OVF_SIZE 0xFFFF v) :=
  congrArg Host.Outcome.next ((gate_open hp).trans (if_neg (not_not_intro h0)))

/-- Settles O55: each command answers the state that its lemma names, and what the end of a copy leaves is read off. -/
theorem overflowCommandsComplete : Obligations.OverflowCommandsComplete := by
  unfold Obligations.OverflowCommandsComplete
  refine ⟨fun s ch idx c e => exec_hostGrainWaitEnd, fun s q id x hx => ⟨_, rfl, copyDone_backlog hx, copyDone_unadmitted hx, ?_, ?_⟩,
    fun s req v hp h0 => exec_ovfSizeWrite hp h0 v⟩
  · rw [copyDone_pkts hx]
    exact find_pktCopied _ id
  · exact (execOverflowCopyDone_k q id s rfl).keeps

/-! The node window (R421, R426, R427). -/

theorem exec_nodeSelWrite_valid {s u : State} {req : Requester} {v : W32} (hp : Passes s req Reg.SC_NODE_SEL false)
    (hu : plainWrite s Reg.SC_NODE_SEL 0xFFFFF v = u) (hv : selValid u = true) : exec (.nodeSelWrite req 15 v) s =
      .next ((List.range 10).foldl (fun s w => wrN s (Reg.SC_NODE_CFG w) (((nodeGet u (selType u) (selIndex u)).cfg[w]?).getD 0)) u) := by
  subst hu
  exact congrArg Host.Outcome.next ((gate_open hp).trans (if_pos hv))
theorem nodeCfg_inj (i j : Nat) (h : Reg.SC_NODE_CFG i = Reg.SC_NODE_CFG j) : i = j := by
  unfold Reg.SC_NODE_CFG at h
  omega

/-- A node of a type is the one that was put there. -/
theorem nodeGet_nodeUpd (s : State) (ty i : Nat) (f : Node → Node) : nodeGet (nodeUpd s ty i f) ty i = f (nodeGet s ty i) := by
  match ty with
  | 0 => exact agetD_aset_same ..
  | 1 => exact agetD_aset_same ..
  | 2 => exact agetD_aset_same ..
  | _ + 3 => exact agetD_aset_same ..

section
variable {s : State} {req : Requester} {v : W32} (hp : Passes s req Reg.SC_NODE_CMD false) (h9 : rbit v 9 = false)
include hp h9

/-- A command word with one bit set does that bit's work. -/
theorem exec_apply (h0 : rbit v 0 = true) (h1 : rbit v 1 = false) (h2 : rbit v 2 = false) : exec (.apply req 15 v) s = .next (nodeApplyCmd s) := by
  refine congrArg Host.Outcome.next (((if_pos h0).trans (gate_open hp)).trans ?_)
  simp only [nodeCmdWrite, h9, h0, h1, h2, Bool.false_and, Bool.false_eq_true, if_true, if_false]
theorem exec_flush (h0 : rbit v 0 = false) (h1 : rbit v 1 = true) (h2 : rbit v 2 = false) : exec (.flush req 15 v) s = .next (nodeFlushCmd s) := by
  refine congrArg Host.Outcome.next (((if_pos h1).trans (gate_open hp)).trans ?_)
  simp only [nodeCmdWrite, bothRefused, h9, h0, h1, h2, Bool.false_and, Bool.not_false, Bool.and_self, Bool.false_eq_true, if_true, if_false]
theorem exec_clrCnt (h0 : rbit v 0 = false) (h1 : rbit v 1 = false) (h2 : rbit v 2 = true) : exec (.clrCnt req 15 v) s = .next (nodeClrCmd s) := by
  refine congrArg Host.Outcome.next (((if_pos h2).trans (gate_open hp)).trans ?_)
  simp only [nodeCmdWrite, h9, h0, h1, h2, Bool.false_and, Bool.false_eq_true, if_true, if_false]

end

/-- A class or a root has no queue below it to settle and no place among the queues' births. -/
theorem nodeApplyCmd_inner {s : State} (hc : applyCause s = 0) (ht : selType s = 2 ∨ selType s = 3) :
    nodeApplyCmd s = nodeUpd s (selType s) (selIndex s) (nodeApply s) := by
  have hsel (ty i : Nat) : selType (nodeUpd s ty i (nodeApply s)) = selType s := rfl
  rcases ht with h | h <;>
    simp only [nodeApplyCmd, hc, hsel, h, ne_eq, not_true_eq_false, Nat.reduceEqDiff, decide_false, Bool.false_and, Bool.false_eq_true, if_false]
theorem nodeFlushCmd_queue {s : State} (h0 : selType s = 0) : nodeFlushCmd s =
    nodeTally (queueFlush s (selIndex s)).1 (selIndex s) (fun n => { n with flushed := n.flushed + (nodeGet s 0 (selIndex s)).pkts.length }) := by
  have hn : (queueFlush s (selIndex s)).2 = (nodeGet s 0 (selIndex s)).pkts.length := List.length_map _
  simp only [nodeFlushCmd, h0, hn, ne_eq, not_true_eq_false, if_false]

/-- Settles O56: each command answers the state that its lemma names, and what the window and the node hold is read off. -/
theorem nodeCommandsComplete : Obligations.NodeCommandsComplete := by
  unfold Obligations.NodeCommandsComplete
  refine ⟨?select, fun s req v hp h9 => ⟨?inner, exec_apply hp h9, ?flush, ?clear⟩⟩
  case select =>
    intro s req v hp u hv
    exact ⟨_, exec_nodeSelWrite_valid hp rfl hv, fun w hw => fold_wrN_range 10 _ _ nodeCfg_inj u hw,
      Keeps.foldl ((plainWrite_k ..).keeps.weak rfl) fun t w h => h.after (wrN_k ..).keeps rfl⟩
  case inner =>
    intro h0 h1 h2 hc ht
    refine ⟨_, (exec_apply hp h9 h0 h1 h2).trans (congrArg _ (nodeApplyCmd_inner hc ht)), nodeGet_nodeUpd .., (nodeUpd_k ..).keeps⟩
  case flush => exact fun h0 h1 h2 ht => (exec_flush hp h9 h0 h1 h2).trans (congrArg _ (nodeFlushCmd_queue ht))
  case clear => exact fun h0 h1 h2 hv => (exec_clrCnt hp h9 h0 h1 h2).trans (congrArg _ (if_pos hv))

end Sys2Proof.Machine
end

section
/-! PROOFS. Keys, cipher contexts, lanes, lookaside requests, alarms and the entropy source (O20). -/

namespace Sys2Proof.Machine

/-! Keys (R432 to R435). -/

/-- A slot in the role that it is used in, or in none. -/
theorem useSlot_role {s : State} {a role : Nat} {k : KeySlot} (hk : aget s.cy.slots a = some k) (hr : k.role = 0 ∨ k.role = role) :
    useSlot s a role = .inr (cyUpd s (fun c => { c with slots := aset c.slots a { k with role := role } }), k) := by
  have h : (decide (k.role = 0) || decide (k.role = role)) = true := by simpa using hr
  simp only [useSlot, hk, h, if_true]
/-- A command whose new key no older request still uses completes at once. -/
theorem keyDone_free {s : State} {a n : Nat} (h : keyHeld s a n s.cy.nextReq = false) (sl op : Nat) (cmd : List Byte) :
    keyDone s sl op cmd a n = (s, some {}) := if_neg (ne_true_of_eq_false h)

section
variable {s : State} {a u : Nat} {k : KeySlot} {bs : List Byte} (hk : aget s.cy.slots u = some k) (hr : k.role = 0 ∨ k.role = 3)
include hk hr

theorem keyUnwrap_fails (hw : Config.unwrapKey k.key bs = none) (sl : Nat) (cmd : List Byte) : keyUnwrap s sl cmd a u bs =
    (cyUpd s (fun c => { c with slots := aset c.slots u { k with role := 3 } }), some { sts := STS_UNWRAP }) := by
  simp only [keyUnwrap, useSlot_role hk hr, hw, failed]
theorem keyUnwrap_stores {key : List Byte} (hw : Config.unwrapKey k.key bs = some key) (hd : drbgUp s = true) (hh : keyHeld s a 1 s.cy.nextReq = false)
    (sl : Nat) (cmd : List Byte) : keyUnwrap s sl cmd a u bs =
      (putKey (cyUpd s (fun c => { c with slots := aset c.slots u { k with role := 3 } })) a (ofBe key), some {}) := by
  simp only [keyUnwrap, useSlot_role hk hr, hw, hd, Bool.not_true, Bool.false_eq_true, if_false]
  refine keyDone_free ?_ ..
  exact hh

end

section
variable {s : State} {sl t a : Nat} {cmd : List Byte} (ha : slotAbs s t (par cmd 0x10 0 16) = some a)
include ha

theorem exec_keyImport {u : Nat} {w : State} {env : Env} {k : KeySlot} {bs : List Byte} (h : AdminReady s sl 0xC0 cmd t)
    (hu : slotAbs s sl (par cmd 0x10 16 16) = some u) (hk : aget s.cy.slots u = some k) (hr : k.role = 0 ∨ k.role = 3) (hb : keyBusy s a = false)
    (hl : keyLocked s = false) (hm : mayRead s sl = true) (hh : keyHeld s a 1 s.cy.nextReq = false)
    (hf : slFetch s sl [(par cmd 0x18 0 64, 40)] 0 (envRead env 0) = (w, .ok bs)) (hd : drbgUp w = true) :
    exec (.keyImport sl cmd env) s = .next (match Config.unwrapKey k.key (fit 40 bs) with
      | none => adminComplete (cyUpd w (fun c => { c with slots := aset c.slots u { k with role := 3 } })) sl 0xC0 (leAt cmd 8 8) { sts := STS_UNWRAP }
      | some key => adminComplete (putKey (cyUpd w (fun c => { c with slots := aset c.slots u { k with role := 3 } })) a (ofBe key)) sl 0xC0 (leAt cmd 8 8) {}) := by
  have hcy : w.cy = s.cy := by
    have := (slFetch_k s sl [(par cmd 0x18 0 64, 40)] 0 (envRead env 0)).keeps.cy
    rwa [hf] at this
  have hkw : aget w.cy.slots u = some k := hcy.symm ▸ hk
  have hhw : keyHeld w a 1 w.cy.nextReq = false := by rw [keyHeld, hcy]; exact hh
  refine congrArg Host.Outcome.next ((if_neg (by rw [hm]; exact Bool.false_ne_true)).trans ?_)
  cases hw : Config.unwrapKey k.key (fit 40 bs) with
  | none =>
    refine runAdmin_answers h ?_
    simp only [ha, hu, useSlot_role hk hr, hb, hl, Bool.false_eq_true, if_false]
    exact (adminRead_ok hf).trans (keyUnwrap_fails hkw hr hw ..)
  | some key =>
    refine runAdmin_answers h ?_
    simp only [ha, hu, useSlot_role hk hr, hb, hl, Bool.false_eq_true, if_false]
    exact (adminRead_ok hf).trans (keyUnwrap_stores hkw hr hw hd hhw ..)

theorem exec_keyGenerate (h : AdminReady s sl 0xC1 cmd t) (hb : keyBusy s a = false) (hl : keyLocked s = false) (hd : drbgUp s = true)
    (hh : keyHeld s a 1 s.cy.nextReq = false) :
    exec (.keyGenerate sl cmd) s = .next (adminComplete (putKey (draw s).2 a ((draw s).1 % 2 ^ 256)) sl 0xC1 (leAt cmd 8 8) {}) := by
  refine congrArg Host.Outcome.next (runAdmin_answers h ?_)
  simp only [ha, hb, hl, hd, Bool.not_true, Bool.false_eq_true, if_false]
  refine keyDone_free ?_ ..
  exact hh

theorem exec_keyQuery {k : KeySlot} (h : AdminReady s sl 0xC3 cmd t) (hk : aget s.cy.slots a = some k) :
    exec (.keyQuery sl cmd) s = .next (adminComplete s sl 0xC3 (leAt cmd 8 8) { aux := 1 + 2 * k.role, len := k.salt }) := by
  refine congrArg Host.Outcome.next (runAdmin_answers h ?_)
  simp only [ha, hk]

/-- A context of a key that is used as it stands takes the free index that it draws. -/
theorem exec_cctxCreate {env : Env} {k : KeySlot} (h : AdminReady s sl 0xC4 cmd t) (hk : aget s.cy.slots a = some k) (hr : k.role = 0 ∨ k.role = 1)
    (h0 : par cmd 0x10 16 1 = 0) (hn : s.cy.ctxs.length < 262144) (hi : aget s.cy.ctxs (Config.freeValue s.draws % 262144) = none) {w : State} {x : Cctx}
    (hw : cyUpd s (fun c => { c with slots := aset c.slots a { k with role := 1 } }) = w)
    (hx : { slice := t, slot := a, derive := false, side := par cmd 0x10 17 1, label := fit 48 [], txEpoch := par cmd 0x14 0 32, rxEpoch := par cmd 0x14 0 32 } = x) :
    exec (.cctxCreate sl cmd env) s = .next (adminComplete
      (showCtxs (cyUpd (draw w).2 (fun y => { y with ctxs := aset y.ctxs (Config.freeValue s.draws % 262144) x }))) sl 0xC4 (leAt cmd 8 8) { aux := Config.freeValue s.draws % 262144 }) := by
  subst hw hx
  have hd : (par cmd 0x10 16 1 == 1) = false := by rw [h0]; rfl
  refine congrArg Host.Outcome.next ((if_neg (by rw [h0]; exact Bool.false_ne_true)).trans (runAdmin_answers h ?_))
  simp only [ha, hd, Bool.false_eq_true, if_false, useSlot_role hk hr, if_neg (Nat.not_le.mpr hn), cctxNew, draw, cyUpd, hi, Option.isNone_none, if_true]

end

theorem exec_keyErase {s : State} {sl t off n base : Nat} {cmd : List Byte} {slots : List Nat} (h : AdminReady s sl 0xC2 cmd t) (ho : par cmd 0x10 0 16 = off)
    (hn : par cmd 0x10 16 16 = n) (hb : (aget s.slices t).map (fun x => x.ksBase) = some base) (hlast : off + n ≤ sliceLimit s t 5) (hfirst : off < sliceLimit s t 5)
    (hs : (List.range n).map (base + off + ·) = slots) (hk : slots.any (keyBusy s) = false) (hh : keyHeld s (base + off) n s.cy.nextReq = false) :
    exec (.keyErase sl cmd) s = .next
      (adminComplete (showSlots (cyUpd s (fun c => { c with slots := c.slots.filter (fun e => !slots.contains e.1) }))) sl 0xC2 (leAt cmd 8 8) {}) := by
  refine congrArg Host.Outcome.next (runAdmin_answers h ?_)
  simp only [ho, hn, hb, Option.getD_some, hs, hk, decide_eq_false (Nat.not_lt.mpr hlast), decide_eq_false (Nat.not_le.mpr hfirst), Bool.or_self, Bool.false_eq_true,
    gt_iff_lt, ge_iff_le, if_false]
  refine keyDone_free ?_ ..
  exact hh

/-! Cipher contexts (R437). -/

section
variable {s : State} {sl t n : Nat} {cmd : List Byte} {c : Cctx} (hc : aget s.cy.ctxs n = some c) (ht : c.slice = t) (hn : n = par cmd 0x10 0 18)
include hc ht hn

theorem cctxOf_own : cctxOf s t cmd = some (n, c) := by
  subst hn
  simp only [cctxOf, hc, ht, if_true]
theorem exec_cctxDestroy (h : AdminReady s sl 0xC5 cmd t) : exec (.cctxDestroy sl cmd) s = .next (adminComplete (showCtxs (cyUpd s (fun y =>
    { y with ctxs := adel y.ctxs n, caches := amap y.caches (fun _ m => m.filter (fun e => e.1 / 2 ^ 33 ≠ 2 * n)) }))) sl 0xC5 (leAt cmd 8 8) {}) := by
  refine congrArg Host.Outcome.next (runAdmin_answers h ?_)
  simp only [cctxOf_own hc ht hn]
theorem exec_cctxQuery {env : Env} (h : AdminReady s sl 0xC6 cmd t) (hw : envWrite env = STS_OK) :
    exec (.cctxQuery sl cmd env) s = .next (adminComplete (slWrite s sl (par cmd 0x18 0 64) 0
      (pack 32 [(0, 0, 2, c.state), (4, 0, 32, c.txEpoch), (8, 0, 64, txCounter s c), (0x10, 0, 32, c.rxEpoch), (0x14, 0, 32, c.fails)])) sl 0xC6 (leAt cmd 8 8) { len := 32 }) := by
  refine congrArg Host.Outcome.next (runAdmin_answers h ?_)
  simp only [cctxOf_own hc ht hn, adminResult_ok hw, pack_length]

end

/-! Lanes and lookaside requests (R448, R452). -/

theorem exec_laneGo {s u : State} {sl l : Nat} {v : W32} (hl : l < 16) (hs : (aget s.slices sl).isSome = true) (hb : laneBusy s sl l = false) (h8 : rbit v 8 = true)
    (hu : wrF (wrF (plainWrite s (Reg.LN_CTL sl l) 0xFFFF00FF v) (Reg.LN_STATUS sl l) 1 1 0) (Reg.LN_STATUS sl l) 0 1 1 = u) :
    exec (.laneGo 15 sl l v) s = .next (laStart u sl (rfld v 0 8) (rdF u (Reg.LN_SLOT sl l) 0 16) (rfld v 16 16) (rdF u (Reg.LN_LEN sl l) 0 25)
      (rd64 u (Reg.LN_SRC_LO sl l)) (rd64 u (Reg.LN_DST_LO sl l)) none ((List.range 4).flatMap (fun w => le 4 (rdN u (Reg.LN_IV sl l w))))
      (rd64 u (Reg.LN_NOTIFY_LO sl l)) (.lane l)) := by
  subst hu
  refine congrArg Host.Outcome.next ((if_pos ?_).trans ?_)
  · rw [decide_eq_true hl, h8, hs]; rfl
  · simp only [laneCtlWrite, hb, h8, Bool.not_true, Bool.false_eq_true, if_false]

theorem exec_lookasideComplete {s u v w : State} {id : Nat} {r : LaReq} {env : Env} {src out : List Byte} (hr : aget s.cy.reqs id = some r)
    (hs : aget s.cy.serving r.engine = some id) (hl : sliceLive s r.slice = true) (hx : r.fixed = none) (ho : r.op ≠ 0x41) (hf : unitState s (64 + r.engine) ≠ 3)
    (hm : mayRead s r.slice = true) (hsrc : laSource s r env = (u, .ok src)) (hout : laOutput r src = .inl out) (hw : envWrite env = STS_OK)
    (hv : slWrite u r.slice r.dst (laAttr u r) out = v)
    (hend : laEnd (cyUpd v (fun c => { c with reqs := adel c.reqs id, serving := adel c.serving r.engine })) r STS_OK out.length = w) :
    exec (.lookasideComplete id env) s = .next (keyWake (engineNext (bump64 (bump64 w Reg.CY_LA_REQ_CNT_LO) Reg.CY_LA_BYTES_LO r.len) r.engine)) := by
  subst hv hend
  refine congrArg Host.Outcome.next ?_
  have hauth : STS_OK ≠ STS_AUTH := by decide
  simp only [hr, if_neg hf, hs, hl, hm, hx, hsrc, hout, hw, decide_eq_false ho, if_neg hauth, ne_eq, not_true_eq_false, decide_false, Bool.not_true, Bool.or_self,
    Bool.false_and, Bool.false_eq_true, if_false, if_true]

/-! Alarms and the entropy source (R454 to R456). -/

/-- The number whose bits below `m` are those that `p` answers. -/
def bitsBelow (p : Nat → Bool) (m : Nat) : Nat := (List.range m).foldl (fun a i => if p i then a + 2 ^ i else a) 0

theorem bitsBelow_succ (p : Nat → Bool) (m : Nat) : bitsBelow p (m + 1) = if p m then bitsBelow p m + 2 ^ m else bitsBelow p m := by
  simp only [bitsBelow, List.range_succ, List.foldl_append, List.foldl_cons, List.foldl_nil]
theorem bitsBelow_lt (p : Nat → Bool) (m : Nat) : bitsBelow p m < 2 ^ m := by
  induction m with
  | zero => exact Nat.one_pos
  | succ m ih =>
    rw [bitsBelow_succ, Nat.pow_succ]
    split <;> omega
theorem bitsBelow_testBit (p : Nat → Bool) {m n : Nat} (h : n < m) : (bitsBelow p m).testBit n = p n := by
  induction m with
  | zero => exact absurd h (Nat.not_lt_zero n)
  | succ m ih =>
    rw [bitsBelow_succ]
    rcases Nat.lt_succ_iff_lt_or_eq.mp h with hlt | rfl
    · split
      · rw [Nat.add_comm, Nat.testBit_two_pow_add_gt hlt, ih hlt]
      · exact ih hlt
    · split
      · next hp => rw [Nat.add_comm, Nat.testBit_two_pow_add_eq, Nat.testBit_lt_two_pow (bitsBelow_lt p n), hp]; rfl
      · next hp => rw [Nat.testBit_lt_two_pow (bitsBelow_lt p n)]; exact (eq_false_of_ne_true hp).symm

/-- A latch of bits 2 to 4 stays unless a 1 is written to it while its condition has ended. -/
theorem ksAlarmWrite_testBit (s : State) (v : W32) (active : Nat) {n : Nat} (h2 : 2 ≤ n) (h5 : n < 5) :
    (rdN (ksAlarmWrite s v active) Reg.KS_ALARM).testBit n = ((rdN s Reg.KS_ALARM).testBit n && !(rbit v n && !active.testBit n)) := by
  have hb : rdN (ksAlarmWrite s v active) Reg.KS_ALARM =
      bitsBelow (fun i => (rdN s Reg.KS_ALARM).testBit i && !(2 ≤ i && rbit v i && !active.testBit i)) 5 % 2 ^ 32 :=
    (rdN_wrF_ne _ _ _ _ (by decide)).trans (rdN_wrN_same ..)
  rw [hb, Nat.testBit_mod_two_pow, decide_eq_true (show n < 32 by omega), Bool.true_and, bitsBelow_testBit _ h5, decide_eq_true h2, Bool.true_and]

theorem exec_keyEraseAlarm {s : State} {bits : Nat} (h : bits % 32 ≠ 0) : exec (.keyEraseAlarm bits) s = .next (keyErase s (bits % 32)) :=
  congrArg Host.Outcome.next (if_neg h)
/-- An erasure leaves no key and no derived key, and every context without one. -/
theorem keyErase_cy (s : State) (bits : Nat) : (keyErase s bits).cy.slots = [] ∧ (keyErase s bits).cy.caches = [] ∧
    (keyErase s bits).cy.ctxs = amap s.cy.ctxs (fun _ x => { x with state := 2 }) := by
  unfold keyErase
  dsimp only
  rw [(svKeyless_k _).keeps.cy, (qpsKeyless_k _).keeps.cy, (ideInsecure_k _).keeps.cy, (raise_k ..).keeps.cy, (raise_k ..).keeps.cy]
  exact ⟨rfl, rfl, rfl⟩

theorem exec_entropyFail {s : State} (h : rdF s Reg.KS_STATUS 1 1 = 0) (test : Nat) :
    exec (.entropyFail test) s = .next (raise (wrF s Reg.KS_STATUS 1 1 1) 0x801 [(4, 1), (4, test)]) :=
  congrArg Host.Outcome.next (if_neg (by rw [h]; exact Nat.zero_ne_one))
theorem exec_entropyRecover {s : State} (h : rdF s Reg.KS_STATUS 1 1 = 1) :
    exec .entropyRecover s = .next (raise (wrF s Reg.KS_STATUS 1 1 0) 0x801 [(4, 0), (4, 0)]) :=
  congrArg Host.Outcome.next (if_neg (by rw [h]; exact Nat.one_ne_zero))
/-- An event leaves the bit of the entropy source as it was set. -/
theorem entropy_raised (s : State) (fs : List EvField) {b : Nat} (h : b < 2) : rdF (raise (wrF s Reg.KS_STATUS 1 1 b) 0x801 fs) Reg.KS_STATUS 1 1 = b := by
  rw [rdF_eq (raise_rd _ _ _ (by decide)), rdF_wrF_same _ _ _ _ _ (by decide)]
  exact Nat.mod_eq_of_lt h

/-- Settles O20: each command answers the state that its lemma names. -/
theorem cipherCommandsComplete : Obligations.CipherCommandsComplete := by
  unfold Obligations.CipherCommandsComplete
  refine ⟨fun s sl t cmd => ⟨?load, ?generate, ?erase, ?query⟩, fun s sl t cmd => ⟨?create, ?contexts⟩, ?lane, ?lookaside, ?alarm, ?erased, ?entropy⟩
  case load =>
    intro env a u k bs h ha hu hk hr hb hl hm hh r w hok hd
    exact exec_keyImport ha h hu hk hr hb hl hm hh (Prod.ext rfl hok) hd
  case generate => exact fun a h ha hb hl hd hh => exec_keyGenerate ha h hb hl hd hh
  case erase =>
    intro off n base h ho hn hb hlast hfirst slots hk hh
    exact exec_keyErase h ho.symm hn.symm hb hlast hfirst rfl hk hh
  case query => exact fun a k h ha hk => exec_keyQuery ha h hk
  case create =>
    intro env a k h ha hk hr h0 hn hi w x
    exact exec_cctxCreate ha h hk hr h0 hn hi rfl rfl
  case contexts => exact fun n c hc ht hn => ⟨fun h => exec_cctxDestroy hc ht hn h, fun env h hw => exec_cctxQuery hc ht hn h hw⟩
  case lane =>
    intro s sl l v hl hs hb h8 u
    exact exec_laneGo hl hs hb h8 rfl
  case lookaside =>
    intro s id r env src out hr hs hl hx ho hf hm hsrc hout hw u w
    exact exec_lookasideComplete hr hs hl hx ho hf hm (Prod.ext rfl hsrc) hout hw rfl rfl
  case alarm =>
    intro s req v active n hp h2 h5
    refine ⟨_, congrArg Host.Outcome.next (gate_window hp), (closeWindow_k s).keeps.after' (ksAlarmWrite_k ..).keeps, ?_⟩
    rw [ksAlarmWrite_testBit _ _ _ h2 h5, rdN_eq (rd_regs (closeWindow_k s).keeps.regs _)]
  case erased =>
    intro s bits h
    refine ⟨_, exec_keyEraseAlarm h, ?_⟩
    obtain ⟨hslots, hcaches, hctxs⟩ := keyErase_cy s (bits % 32)
    refine ⟨hslots, hcaches, fun e he => ?_⟩
    rw [hctxs] at he
    obtain ⟨x, -, rfl⟩ := List.mem_map.mp he
    rfl
  case entropy =>
    intro s test
    exact ⟨fun h => ⟨_, exec_entropyFail h test, entropy_raised s _ (by decide), (wrF_k ..).keeps.after' (raise_k ..).keeps⟩,
      fun h => ⟨_, exec_entropyRecover h, entropy_raised s _ (by decide), (wrF_k ..).keeps.after' (raise_k ..).keeps⟩⟩

end Sys2Proof.Machine
end

section
/-! PROOFS. The admin commands of the remote memory transport (O21). -/

namespace Sys2Proof.Machine

/-! Queue pairs (R472 to R475). -/

/-- From RTR with a window in range the attributes start the sequence numbers and the timers. -/
theorem qpAttrs_rts {s : State} {q : Qp} {a : List Byte} (h2 : q.tstate = 2) (hw : leAt a 0x2C 2 ≤ 4096) (i : Nat) (c : Chan) {q' : Qp}
    (hq : qpTimers { q with tstate := 3, sqNxt := leAt a 0x10 4, sqUna := leAt a 0x10 4, window := leAt a 0x2C 2 } a = q') :
    qpAttrs s i c q a = (qpUpd s i (fun _ => { q' with rto := q'.rtoMin }), some { handle := chanHandle i c }) := by
  subst hq
  simp only [qpAttrs, h2, if_neg (Nat.not_lt.mpr hw)]
/-- Every state but RESET and ERROR may go to ERROR. -/
theorem qpStep_error {old : Nat} (h1 : 1 ≤ old) (h3 : old ≤ 3) : qpStep old 4 = true := by
  obtain rfl | rfl | rfl : old = 1 ∨ old = 2 ∨ old = 3 := by omega
  all_goals rfl

section
variable {s : State} {sl t i : Nat} {cmd : List Byte} {env : Env} {c : Chan} {q : Qp} (hq : cmdQp s t cmd = .inr (i, c, q))
include hq

theorem exec_qpModify_rts {u : State} {bs : List Byte} {q' : Qp} (h : AdminReady s sl 0x80 cmd t) (h2 : q.tstate = 2) (h3 : par cmd 0x14 0 3 = 3)
    (hm : mayRead s sl = true) (hw : leAt (fit 128 bs) 0x2C 2 ≤ 4096) (hf : slFetch s sl [(par cmd 0x18 0 64, 128)] 0 (envRead env 0) = (u, .ok bs))
    (hq' : qpTimers { q with tstate := 3, sqNxt := leAt (fit 128 bs) 0x10 4, sqUna := leAt (fit 128 bs) 0x10 4, window := leAt (fit 128 bs) 0x2C 2 } (fit 128 bs) = q') :
    exec (.qpModify sl cmd env) s = .next (adminComplete (qpUpd u i (fun _ => { q' with rto := q'.rtoMin })) sl 0x80 (leAt cmd 8 8) { handle := chanHandle i c }) := by
  refine congrArg Host.Outcome.next ((if_neg (by rw [hm]; exact Bool.false_ne_true)).trans (runAdmin_answers h ?_))
  have hs : qpStep 2 3 = true := rfl
  simp only [hq, h2, h3, hs, Bool.not_true, Bool.false_eq_true, Nat.reduceEqDiff, decide_true, decide_false, Bool.and_true,
    Bool.and_self, Bool.or_true, Bool.or_false, if_false, if_true]
  exact (adminRead_ok hf).trans (qpAttrs_rts h2 hw i c hq')
theorem exec_qpModify_error (h : AdminReady s sl 0x80 cmd t) (h1 : 1 ≤ q.tstate) (h3 : q.tstate ≤ 3) (h4 : par cmd 0x14 0 3 = 4) :
    exec (.qpModify sl cmd env) s = .next (adminComplete (qpError s i STS_FLUSHED none true) sl 0x80 (leAt cmd 8 8) { handle := chanHandle i c }) := by
  refine congrArg Host.Outcome.next ((if_neg ?_).trans (runAdmin_answers h ?_))
  · rw [h4, decide_eq_false (not_not_intro rfl : ¬4 ≠ 4), Bool.and_false]
    exact Bool.false_ne_true
  · simp only [hq, h4, qpStep_error h1 h3, Bool.not_true, Bool.false_eq_true, Nat.reduceEqDiff, if_false, if_true]
theorem exec_qpQuery (h : AdminReady s sl 0x81 cmd t) (hw : envWrite env = STS_OK) :
    exec (.qpQuery sl cmd env) s = .next
      (adminComplete (slWrite s sl (par cmd 0x18 0 64) 0 (qpRecord i c q)) sl 0x81 (leAt cmd 8 8) { len := (qpRecord i c q).length }) := by
  refine congrArg Host.Outcome.next (runAdmin_answers h ?_)
  simp only [hq, adminResult_ok hw]

end

/-! Regions (R475, R483, R486, R504). -/

theorem exec_regRegion {s : State} {sl t n tag : Nat} {cmd : List Byte} {x : Region} (h : AdminReady s sl 0x82 cmd t) (hlen : par cmd 0x18 0 64 < 2 ^ 48)
    (hquota : (s.rm.regions.filter (fun e => e.2.slice == t)).length < sliceLimit s t 4) (hn : Config.freeValue s.draws % 2 ^ 24 = n)
    (htag : agetD s.rm.tags n 0 % 255 + 1 = tag)
    (hx : { slice := t, addr := par cmd 0x10 0 64, len := par cmd 0x18 0 64, access := par cmd 0x20 0 3, born := s.rm.births } = x) (hfree : regionFree s n = true) :
    exec (.regRegion sl cmd) s = .next (adminComplete (rmUpd { s with draws := s.draws + 1 } (fun m =>
      { m with regions := aset m.regions (tag * 2 ^ 24 + n) x, tags := aset m.tags n tag, births := m.births + 1 })) sl 0x82 (leAt cmd 8 8) { aux := tag * 2 ^ 24 + n }) := by
  subst htag hx hn
  refine congrArg Host.Outcome.next (runAdmin_answers h ?_)
  simp only [if_neg (Nat.not_le.mpr hlen), if_neg (Nat.not_le.mpr hquota), draw, hfree, if_true]

section
variable {s : State} {sl t key : Nat} {cmd : List Byte} {r : Region} (hr : aget s.rm.regions key = some r) (hk : key = par cmd 0x10 0 32) (ht : r.slice = t)
include hr hk ht

theorem cmdRegion_own : cmdRegion s t cmd = some (key, r) := by
  subst hk
  simp only [cmdRegion, hr, ht, if_true]
theorem exec_deregRegion_gone (h : AdminReady s sl 0x83 cmd t) (hv : r.revoking = false) (h0 : r.refs = 0) :
    exec (.deregRegion sl cmd) s = .next (adminComplete (regionGone s key) sl 0x83 (leAt cmd 8 8) {}) := by
  refine congrArg Host.Outcome.next (runAdmin_answers h ?_)
  simp only [cmdRegion_own hr hk ht, hv, h0, Bool.false_eq_true, if_false, if_true]
theorem exec_deregRegion_waits (h : AdminReady s sl 0x83 cmd t) (hv : r.revoking = false) (h0 : r.refs ≠ 0) :
    exec (.deregRegion sl cmd) s = .next (adminDefer (revoke s key) sl 0x83 (leAt cmd 8 8) key) := by
  refine congrArg Host.Outcome.next (runAdmin_waits h ?_)
  simp only [cmdRegion_own hr hk ht, hv, h0, Bool.false_eq_true, if_false]
theorem exec_queryRegion {env : Env} (h : AdminReady s sl 0x84 cmd t) (hw : envWrite env = STS_OK) :
    exec (.queryRegion sl cmd env) s = .next
      (adminComplete (slWrite s sl (par cmd 0x18 0 64) 0 (regionRecord key r)) sl 0x84 (leAt cmd 8 8) { len := (regionRecord key r).length }) := by
  refine congrArg Host.Outcome.next (runAdmin_answers h ?_)
  simp only [cmdRegion_own hr hk ht, adminResult_ok hw]

end

section
variable {s : State} {key : Nat} {r : Region} (hr : aget s.rm.regions key = some r) (hv : r.revoking = true)
include hr hv

theorem exec_deregComplete (h0 : r.refs = 0) : exec (.deregComplete key) s = .next (reclaimCheck (adminWake (regionGone s key) 0x83 key {})) := by
  refine congrArg Host.Outcome.next ?_
  simp only [hr, hv, h0, decide_true, Bool.and_self, if_true]
theorem exec_revokeSlow (hs : r.slow = false) (ht : r.since + msUnits ≤ s.time.elapsed) : exec (.revokeSlow key) s = .next
    (raise (rmUpd s (fun m => { m with regions := aset m.regions key { r with slow := true } })) 0x885 [(2, r.slice), (4, key), (4, r.refs)]) := by
  refine congrArg Host.Outcome.next ?_
  simp only [hr, hv, hs, decide_eq_true ht, Bool.not_false, Bool.and_self, if_true]

end

/-! Paths (R476). -/

section
variable {s : State} {t : Nat} {cmd : List Byte} {env : Env}

theorem exec_pathSet {u w : State} {bs : List Byte} {r : AdminRes} (h : AdminReady s 0 0x85 cmd t) (hm : mayRead s 0 = true)
    (hf : slFetch s 0 [(par cmd 0x18 0 64, 64)] 0 (envRead env 0) = (u, .ok bs))
    (hset : (if !(leAt (fit 64 bs) 0 4).testBit 0 then (rmUpd u (fun r => { r with paths := adel r.paths (par cmd 0x10 0 16) }), some {})
      else if !(leAt (fit 64 bs) 0 4).testBit 1 && (leAt (fit 64 bs) 0x1C 12 ≠ 0 || leAt (fit 64 bs) 0x2C 12 ≠ 0) then failed u STS_RM_ATTR
      else (rmUpd u (fun r => { r with paths := aset r.paths (par cmd 0x10 0 16) (fit 64 bs) }), some {})) = (w, some r)) :
    exec (.pathSet 0 cmd env) s = .next (adminComplete w 0 0x85 (leAt cmd 8 8) r) := by
  refine congrArg Host.Outcome.next ((if_neg (by rw [hm]; exact Bool.false_ne_true)).trans (runAdmin_answers h ?_))
  simp only [ne_eq, not_true_eq_false, if_false]
  exact (adminRead_ok hf).trans hset
theorem exec_pathQuery (h : AdminReady s 0 0x86 cmd t) (hw : envWrite env = STS_OK) {p : List Byte}
    (hp : agetD s.rm.paths (par cmd 0x10 0 16) (List.replicate 64 0) = p) :
    exec (.pathQuery 0 cmd env) s = .next (adminComplete (slWrite s 0 (par cmd 0x18 0 64) 0 p) 0 0x86 (leAt cmd 8 8) { len := p.length }) := by
  subst hp
  refine congrArg Host.Outcome.next (runAdmin_answers h ?_)
  simp only [ne_eq, not_true_eq_false, if_false, adminResult_ok hw]

end

/-- Settles O21: each command answers the state that its lemma names. -/
theorem remoteMemoryAdminComplete : Obligations.RemoteMemoryAdminComplete := by
  unfold Obligations.RemoteMemoryAdminComplete
  refine ⟨fun s sl t i cmd env c q hq => ⟨?rts, fun h => exec_qpModify_error hq h, fun h => exec_qpQuery hq h⟩, ?register,
    fun s sl t key cmd r hr hk ht => ⟨fun h hv => ⟨exec_deregRegion_gone hr hk ht h hv, exec_deregRegion_waits hr hk ht h hv⟩, fun env h => exec_queryRegion hr hk ht h⟩,
    fun s key r hr hv => ⟨exec_deregComplete hr hv, ?slow⟩, fun s t n cmd env hn => ⟨fun bs u h hm hf => ⟨?delete, ?store⟩, fun h hw => ?query⟩⟩
  case rts =>
    intro bs h h2 h3 hm hw r a q' hok
    exact exec_qpModify_rts hq h h2 h3 hm hw (Prod.ext rfl hok) rfl
  case register =>
    intro s sl t cmd h hlen hquota n tag x hfree
    exact exec_regRegion h hlen hquota rfl rfl rfl hfree
  case slow =>
    intro hs ht
    refine ⟨_, exec_revokeSlow hr hv hs ht, ?_, (rmUpd_k ..).keeps.after' (raise_k ..).keeps⟩
    rw [(raise_k ..).keeps.rm]
    exact aget_aset_same ..
  case delete =>
    intro h2
    subst hn
    have h0 : (leAt (fit 64 bs) 0 4).testBit 0 = false := by rw [Nat.testBit_zero, h2]; rfl
    exact exec_pathSet h hm hf (by rw [h0]; rfl)
  case store =>
    intro h4
    subst hn
    have h0 : (leAt (fit 64 bs) 0 4).testBit 0 = true := by rw [Nat.testBit_zero]; exact decide_eq_true (by omega)
    have h1 : (leAt (fit 64 bs) 0 4).testBit 1 = true := by rw [Nat.testBit_eq_decide_div_mod_eq]; exact decide_eq_true (by omega)
    exact exec_pathSet h hm hf (by rw [h0, h1]; rfl)
  case query => subst hn; exact exec_pathQuery h hw rfl

end Sys2Proof.Machine
end

section
/-! PROOFS. The packets, timers and state cache of the remote memory transport (O22). -/

namespace Sys2Proof.Machine

/-- The state of a queue pair after a change of it. -/
theorem qpGet_qpUpd {s : State} {i : Nat} {q : Qp} (hq : qpGet s i = some q) (f : Qp → Qp) : qpGet (qpUpd s i f) i = some (f q) := by
  rw [qpGet, show (qpUpd s i f).rm.qps = aupd s.rm.qps i f from rfl, aget_aupd_same]
  exact congrArg (Option.map f) hq

section
variable {s : State} {i : Nat} {q : Qp} (hq : qpGet s i = some q)
include hq

/-! Packets and timers of a queue pair (R464, R489, R491 to R493). -/

/-- With a grain to spare the oldest control packet owed goes out. -/
theorem exec_grmtPacketGenerate_owed {c : Chan} {op : Nat} {ext : List Byte} {rest : List (Nat × List Byte)} (hc : chanGet s i = some c) (env : Env)
    (hf : (aget s.slices c.slice).any (fun x => x.state == 4) = false) (hg : rdF s Reg.LD_ARR_RSV 0 21 + 1 < rdN s Reg.LD_FREE)
    (ho : q.owed = (op, ext) :: rest) (ht : 2 ≤ q.tstate) : exec (.grmtPacketGenerate i 0 env) s =
      .next (grmtEnter (qpUpd s i (fun q => { q with owed := rest })) i c q op (grmtFlags false true true) q.sqNxt 0 ext []) := by
  refine congrArg Host.Outcome.next ?_
  simp only [hq, hc, hf, Bool.false_eq_true, if_false, if_true, if_neg (Nat.not_le.mpr hg), ho, if_neg (Nat.not_lt.mpr ht)]

theorem exec_retransmitTimeout {c : Chan} (hc : chanGet s i = some c) (h3 : q.tstate = 3) (h0 : q.rtoMin ≠ 0) (hs : q.sent.any (fun x => !x.acked) = true)
    (ht : q.rtoAt + q.rto * usUnits ≤ s.time.elapsed) (hf : sliceFrozen s c.slice = false) (he : q.expiries < q.retry) : exec (.retransmitTimeout i) s =
      .next (qpUpd (bump s Reg.RM_RTO_CNT) i (fun q =>
        { q with sent := q.sent.map (fun x => if x.psn = q.sqUna then { x with resend := true } else x), rto := min (2 * q.rto) (max q.rtoMin q.rtoMax),
                 rtoAt := s.time.elapsed, expiries := q.expiries + 1 })) := by
  refine congrArg Host.Outcome.next ?_
  have hn : ¬q.expiries + 1 > q.retry := by omega
  simp only [hq, hc, h3, h0, hs, decide_eq_true ht, hf, hn, ne_eq, not_false_eq_true, decide_true, Bool.not_false, Bool.and_self, if_true, if_false]
  rfl

theorem exec_ackDelayTimer {t echo : Nat} {owd : Int} (ha : q.ackAt = some (t, echo, owd)) (ht : t + q.ackDelay * usUnits ≤ s.time.elapsed) :
    exec (.ackDelayTimer i) s = .next (oweAck s i 0 echo owd 0) := by
  refine congrArg Host.Outcome.next ?_
  simp only [hq, ha, if_pos ht]

theorem exec_rnrWaitExpire {t nak n : Nat} (hw : q.rnrWait = some (t, nak, n)) (ht : t ≤ s.time.elapsed) : exec (.rnrWaitExpire i) s =
    .next (qpUpd s i (fun q => { q with rnrWait := none, sent := q.sent.map (fun x => if !x.acked && psnDiff x.psn nak ≥ 0 then { x with resend := true } else x) })) := by
  refine congrArg Host.Outcome.next ?_
  simp only [hq, hw, if_pos ht]

/-- A message or a read under way for the message timeout ends the queue pair. -/
theorem exec_msgTimeout (h0 : q.msgTimeout ≠ 0)
    (hl : (∃ m ∈ q.msgs, m.op ≠ 0 ∧ m.done = false ∧ m.since + q.msgTimeout * msUnits ≤ s.time.elapsed) ∨ ∃ r ∈ q.resps, r.since + q.msgTimeout * msUnits ≤ s.time.elapsed) :
    exec (.msgTimeout i) s = .next (qpError s i STS_RM_MSG_TIMEOUT none true) := by
  refine congrArg Host.Outcome.next ?_
  simp only [hq]
  refine if_pos ?_
  rw [decide_eq_true h0, Bool.true_and, Bool.or_eq_true, List.any_eq_true, List.any_eq_true]
  refine hl.imp ?_ ?_
  · rintro ⟨m, hm, hop, hd, ht⟩
    exact ⟨m, hm, by rw [decide_eq_true hop, hd, decide_eq_true ht]; rfl⟩
  · rintro ⟨r, hr, ht⟩
    exact ⟨r, hr, decide_eq_true ht⟩

end

/-! The state cache (R497 to R500). -/

/-- The read of a queue pair's state from its spill slot, when the outside answers it without an error. -/
def stateRead (s : State) (i : Nat) : State × Byte :=
  match hostSpill s i with
  | some h => spillRead s h.1 h.2 STS_OK
  | none => (s, if guardedGone s 1 i 0 && STS_OK = STS_OK then 1 else STS_OK)

theorem stateRead_gddr {s : State} {i : Nat} (h : hostSpill s i = none) (hg : guardedGone s 1 i 0 = false) : stateRead s i = (s, STS_OK) := by
  rw [stateRead, h, hg]; rfl
theorem stateRead_host {s : State} {i : Nat} {h : Nat × Nat} (hs : hostSpill s i = some h) : stateRead s i = spillRead s h.1 h.2 STS_OK := by
  rw [stateRead, hs]

section
variable {s : State} {i l : Nat} {x : QpLine} (hl : lineOfQp s i = some (l, x))
include hl

theorem exec_qpFetchComplete {u : State} (h3 : x.st = 3) (hm : (hostSpill s i).any (fun h => !mayRead s h.1) = false)
    (hu : stateRead s i = (u, STS_OK)) :
    exec (.qpFetchComplete i STS_OK) s =
      .next (qpUnpark (rmUpd u (fun r => { r with lines := aset r.lines l { x with st := 0, used := r.clock }, clock := r.clock + 1 })) i) := by
  refine congrArg Host.Outcome.next ?_
  simp only [hl]
  refine (if_neg ?_).trans ?_
  · rw [h3, hm]; exact Bool.false_ne_true
  · exact (congrArg (fun r : State × Byte => if r.2 = STS_OK then qpUnpark (rmUpd r.1 _) i else _) hu).trans (if_pos rfl)

theorem exec_qpWritebackDone (h2 : x.st = 2) {u : State}
    (hu : bump (rmUpd s (fun r => { r with lines := adel r.lines l, again := r.again.filter (fun y => y ≠ i) })) Reg.RM_EVICT_CNT = u) :
    exec (.qpWritebackDone i STS_OK) s = .next (qpNextFetch (if s.rm.again.contains i then qpFetch u i else u)) := by
  subst hu
  refine congrArg Host.Outcome.next ?_
  simp only [hl, h2, ne_eq, not_true_eq_false, if_false, if_true]

end

section
variable {s : State} {l : Nat} {x : QpLine}

/-- With no line leaving and a fetch waiting the least recently used idle line is to leave. -/
theorem exec_qpEvict_marks (hn : s.rm.lines.find? (fun e => e.2.st == 1) = none) (hw : s.rm.wants ≠ []) (hl : lruIdle s = some l) (hx : aget s.rm.lines l = some x) :
    exec (.qpEvict false) s = .next (rmUpd s (fun r => { r with lines := aset r.lines l { x with st := 1 } })) := by
  refine congrArg Host.Outcome.next ?_
  have hw' : s.rm.wants.isEmpty = false := by rwa [List.isEmpty_eq_false_iff]
  simp only [hn, hw', hl, hx, Bool.false_eq_true, if_false]
/-- The write-back of a line whose queue pair spills to GDDR7 starts. -/
theorem exec_qpEvict_starts {q : Qp} (hf : s.rm.lines.find? (fun e => e.2.st == 1) = some (l, x)) (hq : qpGet s x.qp = some q) (hh : q.spillHost = false) :
    exec (.qpEvict true) s = .next (rmUpd s (fun r => { r with lines := aset r.lines l { x with st := 2 } })) := by
  have hq' : qpGet (rmUpd s (fun r => { r with lines := aset r.lines l { x with st := 2 } })) x.qp = some q := hq
  refine congrArg Host.Outcome.next ?_
  simp only [hf, if_true, hq']
  split
  · next heq _ => cases heq; exact if_neg (ne_true_of_eq_false hh)
  · rfl

end

/-- Settles O22: each event answers the state that its lemma names. -/
theorem remoteMemoryEventsComplete : Obligations.RemoteMemoryEventsComplete := by
  unfold Obligations.RemoteMemoryEventsComplete
  refine ⟨fun s i q c hq hc => ⟨fun env op ext rest => exec_grmtPacketGenerate_owed hq hc env, ?retransmit⟩,
    fun s i q hq => ⟨fun t echo owd => exec_ackDelayTimer hq, ?rnr, ?resps, ?msgs⟩, fun s i l x hl => ⟨?fetched, ?spilled, fun h2 => exec_qpWritebackDone hl h2 rfl⟩,
    fun s l x => ⟨exec_qpEvict_marks, fun q => exec_qpEvict_starts⟩⟩
  case retransmit =>
    intro h3 h0 hs ht hf he
    exact ⟨_, exec_retransmitTimeout hq hc h3 h0 hs ht hf he, bump_same .., qpGet_qpUpd hq _⟩
  case rnr =>
    intro t nak n hw ht
    exact ⟨_, exec_rnrWaitExpire hq hw ht, (qpUpd_k ..).keeps, qpGet_qpUpd hq _⟩
  case resps => exact fun r hr h0 ht => exec_msgTimeout hq h0 (.inr ⟨r, hr, ht⟩)
  case msgs => exact fun m hm hop hd h0 ht => exec_msgTimeout hq h0 (.inl ⟨m, hm, hop, hd, ht⟩)
  case fetched =>
    intro h3 hn hg
    exact exec_qpFetchComplete hl h3 (by rw [hn]; rfl) (stateRead_gddr hn hg)
  case spilled =>
    intro h h3 hs hm hr
    exact exec_qpFetchComplete hl h3 (by rw [hs, Option.any_some, hm]; rfl) ((stateRead_host hs).trans (Prod.ext rfl hr))

end Sys2Proof.Machine
end

section
/-! PROOFS. The registers, doorbells and events of a controller (O23). -/

namespace Sys2Proof.Machine

/-- A controller after a change of it. -/
theorem ctrls_ctrlUpd {s : State} {i : Nat} {c : Ctrl} (hc : aget s.sv.ctrls i = some c) (f : Ctrl → Ctrl) :
    aget (ctrlUpd s i f).sv.ctrls i = some (f c) := by
  rw [show (ctrlUpd s i f).sv.ctrls = aupd s.sv.ctrls i f from rfl, aget_aupd_same, hc]
  rfl

/-! CC (R509, R528, R529). -/

/-- The bits of CC that a write reaches hold EN. -/
theorem ccWritten_en (v : Nat) : (v &&& 0x00FFFFF1).testBit 0 = v.testBit 0 := by
  rw [Nat.testBit_and, show Nat.testBit 0x00FFFFF1 0 = true by decide, Bool.and_true]

/-- A controller takes EN: it is ready, with the admin queues that the registers of `c` give. -/
def ctrlReady (c x : Ctrl) : Ctrl :=
  { x with rdy := true, cfs := false, shst := 0, sqs := [(0, { base := c.asq, size := fld c.aqa 0 12 + 1, cq := 0 })],
           cqs := [(0, { base := c.acq, size := fld c.aqa 16 12 + 1 })] }

section
variable {s : State} {link fnum v i : Nat} {c : Ctrl} (hb : ctrlBar s link fnum = some (i, c)) (hc : aget s.sv.ctrls i = some c)
include hb hc

theorem exec_ccEnable (h0 : c.cc.testBit 0 = false) (h1 : v.testBit 0 = true) (hv : ccBad c (v &&& 0x00FFFFF1) = false) :
    exec (.ccEnable link fnum v) s = .next (ctrlUpd (ctrlUpd s i (fun x => { x with cc := v &&& 0x00FFFFF1 })) i (ctrlReady c)) := by
  refine congrArg Host.Outcome.next ?_
  simp only [hb, ccWrite, hc, h0, h1, ccWritten_en, ccRise, hv, Bool.not_false, Bool.and_self, Bool.false_eq_true, if_true, if_false]
  rfl
theorem exec_ccDisable (h1 : c.cc.testBit 0 = true) (h0 : v.testBit 0 = false) :
    exec (.ccDisable link fnum v) s = .next (ctrlReset (ctrlUpd s i (fun x => { x with cc := v &&& 0x00FFFFF1 })) i 1) := by
  refine congrArg Host.Outcome.next ?_
  simp only [hb, ccWrite, hc, h0, h1, ccWritten_en, Bool.not_true, Bool.not_false, Bool.and_self, Bool.false_eq_true, if_true, if_false]
/-- A controller that is not shut down starts its shutdown. -/
theorem exec_ccShutdown (h1 : c.cc.testBit 0 = true) (hv : v.testBit 0 = true) (hn : fld v 14 2 = 1 ∨ fld v 14 2 = 2) (hm : fld (v &&& 0x00FFFFF1) 14 2 = fld v 14 2)
    (h0 : fld c.cc 14 2 = 0) (hs : c.shst = 0) :
    exec (.ccShutdown link fnum v) s = .next (settle (ctrlUpd (ctrlUpd s i (fun x => { x with cc := v &&& 0x00FFFFF1 })) i (fun x => { x with shst := 1 }))) := by
  have hn' : (decide (fld v 14 2 = 1) || decide (fld v 14 2 = 2)) = true := by simpa using hn
  have hd : fld v 14 2 ≠ 0 := by omega
  refine congrArg Host.Outcome.next ?_
  simp only [hb, ccWrite, hc, hv, h1, ccWritten_en, hm, hn', h0, hs, hd.symm, ne_eq, not_false_eq_true, decide_true, Bool.not_true, Bool.false_and, Bool.and_false, Bool.and_self,
    Bool.false_eq_true, if_true, if_false]

end

/-! Events of a controller (R528, R533, R534). -/

section
variable {s : State} {i : Nat} {x : Ctrl} (hx : aget s.sv.ctrls i = some x)
include hx

theorem exec_controllerDrainEnd (h0 : x.cc.testBit 0 = false) (hr : x.rdy = true)
    (hd : s.sv.cmds.any (fun e => e.2.ctrl == i && e.2.silent && e.2.stage ≠ .staged) = false) :
    exec (.controllerDrainEnd i) s = .next (ctrlUpd s i (fun y => { y with rdy := false })) := by
  refine congrArg Host.Outcome.next ?_
  simp only [hx, h0, hr, hd, Bool.not_false, Bool.and_self, if_true]

variable {t : SvTest} (ht : x.test = some t)
include ht

theorem exec_selfTestResume (hp : t.paused = true) (hl : t.last + msUnits ≤ s.time.elapsed)
    (hd : s.sv.cmds.any (fun e => testCovers x e.2 && e.2.stage ≠ .staged) = false) :
    exec (.selfTestResume i) s = .next (ctrlUpd s i (fun y => { y with test := some { t with paused := false } })) := by
  refine congrArg Host.Outcome.next ?_
  simp only [hx, ht, hp, hl, hd, decide_true, Bool.not_false, Bool.and_self, if_true]

variable (hp : t.paused = false)
include hp

theorem exec_selfTestSegment_next (h4 : t.segment < 4) :
    exec (.selfTestSegment i true) s = .next (ctrlUpd s i (fun x => { x with test := some { t with segment := t.segment + 1 } })) := by
  have hn : ¬t.segment = (if t.kind = 1 then 4 else 5) := by split <;> omega
  refine congrArg Host.Outcome.next ?_
  simp only [hx, ht, hp, hn, Option.bind_some, Bool.false_and, Bool.not_true, Bool.false_eq_true, if_false]
theorem exec_selfTestSegment_last (hk : t.kind = 1) (h4 : t.segment = 4) : exec (.selfTestSegment i true) s = .next (testEnd s i 0 0) := by
  refine congrArg Host.Outcome.next ?_
  simp only [hx, ht, hp, hk, h4, Option.bind_some, Bool.false_and, Bool.not_true, Bool.false_eq_true, if_false, if_true]
theorem exec_selfTestSegment_fails :
    exec (.selfTestSegment i false) s = .next (raise (testEnd s i 7 t.segment) 0x905 [(4, i), (4, 7), (4, t.segment)]) := by
  refine congrArg Host.Outcome.next ?_
  simp only [hx, ht, hp, Option.bind_some, Bool.false_and, Bool.not_false, Bool.false_eq_true, if_false, if_true]

end

/-! Doorbells (R510). -/

section
variable {s : State} {link fnum y v i : Nat} {c : Ctrl} (hb : ctrlBar s link fnum = some (i, c)) (hy : y ≤ 256) (hl : dbLive s c = true)
include hb hy hl

theorem exec_sqTailDoorbell {q : SvSq} (hq : aget c.sqs y = some q) (hv : v < q.size) (ht : v ≠ q.tail) :
    exec (.sqTailDoorbell link fnum y v) s = .next (ctrlUpd s i (fun x => { x with sqs := aset x.sqs y { q with tail := v } })) := by
  refine congrArg Host.Outcome.next ?_
  simp only [hb, hl, decide_eq_true hy, Bool.and_self, if_true, sqDoorbell, hq, if_neg (Nat.not_le.mpr hv), if_neg ht]
theorem exec_cqHeadDoorbell {q : SvCq} (hq : aget c.cqs y = some q) (hv : v < q.size) :
    exec (.cqHeadDoorbell link fnum y v) s = .next (postGo (ctrlUpd s i (fun x => { x with cqs := aset x.cqs y { q with head := v } })) i) := by
  refine congrArg Host.Outcome.next ?_
  simp only [hb, hl, decide_eq_true hy, Bool.and_self, if_true, cqDoorbell, hq, if_neg (Nat.not_le.mpr hv)]

end

/-- With no update under way any more the command that asked for it completes (R531). -/
theorem exec_firmwareActivationDone {s : State} {i id : Nat} {m : SvCmd} (hf : s.sv.cmds.find? (fun e => e.2.ctrl == i && e.2.stage == .commit) = some (id, m))
    (hr : s.unit.rolling = []) (hh : s.unit.handover = none) (ho : s.oz.restart = none) :
    exec (.firmwareActivationDone i) s = .next (finish (raise s 0x904 [(4, i), (8, ofLe (runningVersion s))]) id NV_OK) := by
  refine congrArg Host.Outcome.next ?_
  simp only [hf, hr, hh, ho, List.isEmpty_nil, Option.isNone_none, Bool.and_self, if_true]

/-- Settles O23: each write and each event answers the state that its lemma names. -/
theorem controllerCommandsComplete : Obligations.ControllerCommandsComplete := by
  unfold Obligations.ControllerCommandsComplete
  refine ⟨fun s link fnum v i c hb hc => ⟨?enable, exec_ccDisable hb hc, exec_ccShutdown hb hc⟩, fun s i x hx => ⟨?drained, ?resume, ?segment⟩,
    fun s link fnum y v i c hb hy hl => ⟨fun q => exec_sqTailDoorbell hb hy hl, fun q => exec_cqHeadDoorbell hb hy hl⟩, fun s i id m => exec_firmwareActivationDone⟩
  case enable =>
    exact fun h0 h1 hv => ⟨_, exec_ccEnable hb hc h0 h1 hv, (ctrlUpd_k ..).keeps.after' (ctrlUpd_k ..).keeps, ctrls_ctrlUpd (ctrls_ctrlUpd hc _) _⟩
  case drained => exact fun h0 hr hd => ⟨_, exec_controllerDrainEnd hx h0 hr hd, ctrls_ctrlUpd hx _, (ctrlUpd_k ..).keeps⟩
  case resume => exact fun t ht hp hl hd => ⟨_, exec_selfTestResume hx ht hp hl hd, ctrls_ctrlUpd hx _, (ctrlUpd_k ..).keeps⟩
  case segment =>
    exact fun t ht hp => ⟨fun h4 => ⟨_, exec_selfTestSegment_next hx ht hp h4, ctrls_ctrlUpd hx _, (ctrlUpd_k ..).keeps⟩,
      exec_selfTestSegment_last hx ht hp, exec_selfTestSegment_fails hx ht hp⟩

end Sys2Proof.Machine
end

section
/-! PROOFS. NVMe admin commands (O24). -/

namespace Sys2Proof.Machine

/-- Data of a page goes to the pieces of memory that the command names. -/
theorem dataOut_page {u : State} {c id k : Nat} {x : Ctrl} {sqe : List Byte} {env : Env} {ps : List (Nat × Nat)}
    (hp : cmdPrps x sqe 4096 env = .inr (ps, k)) (bs : List Byte) :
    dataOut u c id x sqe env (fit 4096 bs) = finish (prpRead u c x sqe 4096 env) id NV_OK 0 (prpSpread ps (fit 4096 bs)) := by
  simp only [dataOut, fit_length, hp]

section
variable {s u : State} {c id : Nat} {sqe : List Byte} {x : Ctrl} (hr : fetchCmd s c 0 (fit 64 sqe) = (id, u))
include hr

/-- An admin command that is fetched and well formed runs under its number on the state that has fetched it. -/
theorem nvmeAdmin_runs {op : Nat} (h : NvmeReady s c op sqe x) (f : State → Nat → Ctrl → State) : nvmeAdmin s c op sqe f = f u id x := by
  rw [nvmeAdmin_ready h, hr]

/-! I/O queues (R512, R513). -/

section
variable {q size hi base : Nat} (hq : fld (sqeDw sqe 10) 0 16 = q)
include hq

/-- A submission queue without commands goes. -/
theorem exec_deleteIoSubmissionQueue (h : NvmeReady s c 0x00 sqe x) (h0 : q ≠ 0) (hx : (aget x.sqs q).isSome = true)
    (hn : ∀ e ∈ u.sv.cmds, e.2.ctrl = c → e.2.sq ≠ q ∧ ∀ n, e.2.stage ≠ .abortAhead q n) :
    exec (.deleteIoSubmissionQueue c sqe) s = .next (finish (ctrlUpd u c (fun y => { y with sqs := adel y.sqs q })) id NV_OK) := by
  refine congrArg Host.Outcome.next ((nvmeAdmin_runs hr h _).trans ?_)
  have hwait : u.sv.cmds.filter (fun e => e.2.ctrl == c && e.2.sq == q && e.2.stage == .waiting) = [] := by
    refine List.filter_eq_nil_iff.mpr fun e he hp => ?_
    simp only [Bool.and_eq_true, beq_iff_eq] at hp
    exact (hn e he hp.1.1).1 hp.1.2
  simp only [hq, h0, Option.isNone_eq_false_iff.mpr hx, decide_false, Bool.or_self, Bool.false_eq_true, if_false, hwait, List.foldl_nil]
  rw [List.filter_eq_nil_iff.mpr]
  · rfl
  · intro e he hp
    cases hs : e.2.stage with
    | abortAhead k n =>
      simp only [hs, Bool.and_eq_true, beq_iff_eq] at hp
      exact (hn e he hp.1).2 n (by rw [hs, hp.2])
    | _ => simp only [hs, Bool.false_eq_true] at hp

theorem exec_deleteIoCompletionQueue (h : NvmeReady s c 0x04 sqe x) (h0 : q ≠ 0) (hx : (aget x.cqs q).isSome = true) (hu : x.sqs.any (fun e => e.2.cq == q) = false) :
    exec (.deleteIoCompletionQueue c sqe) s =
      .next (finish (ctrlUpd u c (fun y => { y with cqs := adel y.cqs q, posts := y.posts.filter (fun p => p.cq ≠ q) })) id NV_OK) := by
  refine congrArg Host.Outcome.next ((nvmeAdmin_runs hr h _).trans ?_)
  simp only [hq, h0, Option.isNone_eq_false_iff.mpr hx, hu, decide_false, Bool.or_self, Bool.false_eq_true, if_false]

variable (hsize : fld (sqeDw sqe 10) 16 16 + 1 = size) (hhi : fld (sqeDw sqe 11) 16 16 = hi) (hbase : leAt sqe 24 8 = base) (h2 : 2 ≤ size)
  (hpc : (sqeDw sqe 11).testBit 0 = true) (hpage : base % mpsBytes x = 0)
include hsize hhi hbase h2 hpc hpage

theorem exec_createIoSubmissionQueue (h : NvmeReady s c 0x01 sqe x) (hok : qidOk x q 0 = true) (hx : aget x.sqs q = none) (hz : fld (sqeDw sqe 11) 3 13 = 0)
    (h1 : 1 ≤ hi) (h256 : hi ≤ 256) (hc : (aget x.cqs hi).isSome = true) :
    exec (.createIoSubmissionQueue c sqe) s = .next (finish (ctrlUpd u c (fun y => { y with sqs := aset y.sqs q { base := base, size := size, cq := hi } })) id NV_OK) := by
  refine congrArg Host.Outcome.next ((nvmeAdmin_runs hr h _).trans ?_)
  have hhi0 : hi ≠ 0 := by omega
  simp only [hq, hsize, hhi, hbase, hok, hx, hpc, hz, hpage, hhi0, Option.isSome_none, if_neg (Nat.not_lt.mpr h2), decide_eq_false (Nat.not_lt.mpr h256), gt_iff_lt,
    Option.isNone_eq_false_iff.mpr hc, ne_eq, not_true_eq_false, decide_false, Bool.not_true, Bool.or_self, Bool.false_eq_true, if_false]
theorem exec_createIoCompletionQueue (h : NvmeReady s c 0x05 sqe x) (hok : qidOk x q 16 = true) (hx : aget x.cqs q = none) (hz : fld (sqeDw sqe 11) 2 14 = 0)
    (hv : hi < ctrlVectors u x) : exec (.createIoCompletionQueue c sqe) s =
      .next (finish (ctrlUpd u c (fun y => { y with cqs := aset y.cqs q { base := base, size := size, vector := hi, ien := (sqeDw sqe 11).testBit 1 } })) id NV_OK) := by
  refine congrArg Host.Outcome.next ((nvmeAdmin_runs hr h _).trans ?_)
  simp only [hq, hsize, hhi, hbase, hok, hx, hpc, hz, hpage, Option.isSome_none, if_neg (Nat.not_lt.mpr h2), if_neg (Nat.not_le.mpr hv), ge_iff_le,
    ne_eq, not_true_eq_false, decide_false, Bool.not_true, Bool.or_self, Bool.false_eq_true, if_false]

end

/-! Log pages and Identify (R513). -/

section
variable {env : Env} {ps : List (Nat × Nat)} {k : Nat}

theorem exec_getLogPage {len : Nat} {bs : List Byte} {w : State} (h : NvmeReady s c 0x02 sqe x) (hlen : 4 * (fld (sqeDw sqe 10) 16 12 + 1) = len)
    (hp : cmdPrps x sqe len env = .inr (ps, k)) (h12 : sqeDw sqe 12 = 0) (h13 : sqeDw sqe 13 = 0)
    (hl : logPage (prpRead u c x sqe len env) c (fld (sqeDw sqe 10) 0 8) x ((sqeDw sqe 10).testBit 15) = some (bs, w)) :
    exec (.getLogPage c sqe env) s = .next (finish w id NV_OK 0 (prpSpread ps (fit len bs))) := by
  refine congrArg Host.Outcome.next ((nvmeAdmin_runs hr h _).trans ?_)
  simp only [hlen, hp, h12, h13, hl, ne_eq, not_true_eq_false, decide_false, Bool.or_self, Bool.false_eq_true, if_false]

variable (h : NvmeReady s c 0x06 sqe x) (hp : cmdPrps x sqe 4096 env = .inr (ps, k))
include h hp

theorem exec_identify_controller (h1 : fld (sqeDw sqe 10) 0 8 = 1) :
    exec (.identify c sqe env) s = .next (finish (prpRead u c x sqe 4096 env) id NV_OK 0 (prpSpread ps (fit 4096 (identifyCtrl u c x)))) := by
  refine congrArg Host.Outcome.next ((nvmeAdmin_runs hr h _).trans ?_)
  simp only [h1]
  exact dataOut_page hp _
theorem exec_identify_namespace {n : Nat} {y : Ns} (h0 : fld (sqeDw sqe 10) 0 8 = 0) (hn : aget x.nss (sqeNsid sqe) = some n) (hy : aget u.sv.nss n = some y) :
    exec (.identify c sqe env) s = .next (finish (prpRead u c x sqe 4096 env) id NV_OK 0 (prpSpread ps (fit 4096 (identifyNs y)))) := by
  refine congrArg Host.Outcome.next ((nvmeAdmin_runs hr h _).trans ?_)
  simp only [h0, hn, hy, Option.bind_some, Option.map_some]
  exact dataOut_page hp _

end

/-! Features, events and tests (R513, R533). -/

section
variable {fid v : Nat} (hf : fld (sqeDw sqe 10) 0 8 = fid) (hv : sqeDw sqe 11 = v) (ho : featOps.contains fid = true) (ha : featArgOk u x fid v = true)
include hf hv ho ha

theorem exec_setFeatures (h : NvmeReady s c 0x09 sqe x) (hs : (sqeDw sqe 10).testBit 31 = false) (h7 : fid ≠ 7) :
    exec (.setFeatures c sqe) s = .next (finish (ctrlUpd u c (fun y => { y with feats := aset y.feats (featKey fid v) (featStored fid v) })) id NV_OK 0) := by
  refine congrArg Host.Outcome.next ((nvmeAdmin_runs hr h _).trans ?_)
  simp only [hf, hv, ho, ha, hs, h7, decide_false, Bool.false_and, Bool.not_true, Bool.or_self, Bool.false_eq_true, if_false]
theorem exec_getFeatures (h : NvmeReady s c 0x0A sqe x) (h0 : fld (sqeDw sqe 10) 8 3 = 0) :
    exec (.getFeatures c sqe) s = .next (finish u id NV_OK (agetD x.feats (featKey fid v) (featDefault (featKey fid v)))) := by
  refine congrArg Host.Outcome.next ((nvmeAdmin_runs hr h _).trans ?_)
  have h3 : decide (0 > 3) = false := rfl
  simp only [hf, hv, ho, ha, h0, h3, Bool.and_false, Bool.not_true, Bool.or_self, Bool.false_eq_true, Nat.reduceEqDiff, if_false, if_true]

end

theorem exec_asynchronousEventRequest (h : NvmeReady s c 0x0C sqe x) (hn : (u.sv.cmds.filter (fun e => e.2.ctrl == c && e.2.stage == .event)).length < 4) :
    exec (.asynchronousEventRequest c sqe) s = .next (cmdUpd u id (fun y => { y with stage := .event })) :=
  congrArg Host.Outcome.next ((nvmeAdmin_runs hr h _).trans (if_neg (Nat.not_le.mpr hn)))

/-- A test of every attached namespace starts, paused while a command is outstanding on one. -/
theorem exec_deviceSelfTest {stc : Nat} {t : SvTest} {held : Bool} (h : NvmeReady s c 0x14 sqe x) (hk : fld (sqeDw sqe 10) 0 4 = stc) (h12 : stc = 1 ∨ stc = 2)
    (hn : sqeNsid sqe = 0xFFFFFFFF) (hx : x.test = none) (ht : { kind := stc, nsid := 0xFFFFFFFF } = t)
    (hh : u.sv.cmds.any (fun e => testCovers { x with test := some t } e.2 && e.2.stage ≠ .staged && e.1 ≠ id) = held) :
    exec (.deviceSelfTest c sqe) s = .next (finish (ctrlUpd u c (fun z => { z with test := some { t with paused := held } })) id NV_OK) := by
  subst ht hh
  refine congrArg Host.Outcome.next ((nvmeAdmin_runs hr h _).trans ?_)
  have h15 : stc ≠ 0xF := by omega
  have hbad : (decide (stc ≠ 1) && decide (stc ≠ 2)) = false := by
    obtain rfl | rfl := h12 <;> rfl
  simp only [hk, hn, hx, if_neg h15, hbad, ne_eq, not_true_eq_false, decide_false, Bool.and_false, Bool.false_and, Option.isSome_none, Bool.false_eq_true, if_false]

/-- An Abort that finds no other command is counted as a miss. -/
theorem exec_abort_miss {m : SvCmd} (h : NvmeReady s c 0x08 sqe x) (hu : u.sv.cmds = [(id, m)]) (hm : m.stage = .waiting) :
    exec (.abort c sqe false) s = .next (finish (bump u Reg.SV_ABORT_MISS_CNT) id NV_OK 1) := by
  refine congrArg Host.Outcome.next ((nvmeAdmin_runs hr h _).trans ?_)
  have h4 : ¬4 ≤ 0 := by decide
  simp only [hu, List.filter_cons, hm, Bool.false_eq_true, if_false, List.filter_nil, List.length_nil, h4, List.find?_cons, ne_eq, not_true_eq_false, decide_false,
    Bool.false_and, List.find?_nil]

/-! Firmware (R530, R531). -/

section
variable (hd : deferral s = false) (hfw : x.fw = true)
include hd hfw

theorem exec_firmwareImageDownload {len k : Nat} {env : Env} {ps : List (Nat × Nat)} {bs : List Byte} {w t : State} (h : NvmeReady s c 0x11 sqe x)
    (hlen : 4 * (sqeDw sqe 10 + 1) = len) (hl : len ≤ 262144) (hp : cmdPrps x sqe len env = .inr (ps, k)) (hb : prpData env k ps = some bs)
    (hw : svFetch (prpRead u c x sqe len env) c ps env k = w) (ht : fwWrite (if w.oz.step = 0 then (fwBegin w 2).1 else w) 2 (4 * sqeDw sqe 11) bs = (t, STS_OK)) :
    exec (.firmwareImageDownload c sqe env) s = .next (finish t id NV_OK) := by
  subst hw
  refine congrArg Host.Outcome.next ((if_neg (ne_true_of_eq_false hd)).trans ((nvmeAdmin_runs hr h _).trans ?_))
  simp only [hfw, hlen, decide_eq_false (Nat.not_lt.mpr hl), gt_iff_lt, Bool.not_true, Bool.or_self, Bool.false_eq_true, if_false, hp, hb, ht, if_true]

/-- A commit of action 0 completes with the outcome of the verification. -/
theorem exec_firmwareCommit_verifies (h : NvmeReady s c 0x10 sqe x) (h1 : sqeDw sqe 10 ≤ 1) : exec (.firmwareCommit c sqe) s =
    .next (if (fwVerify u 2).2 = STS_OK then finish (fwVerify u 2).1 id NV_OK else finish (fwVerify u 2).1 id NV_FW_IMAGE) := by
  have hca : fld (sqeDw sqe 10) 3 3 = 0 ∧ (sqeDw sqe 10).testBit 31 = false ∧ ¬fld (sqeDw sqe 10) 0 3 > 1 := by
    obtain h | h : sqeDw sqe 10 = 0 ∨ sqeDw sqe 10 = 1 := by omega
    · rw [h]; decide
    · rw [h]; decide
  obtain ⟨h3, h31, h0⟩ := hca
  refine congrArg Host.Outcome.next ((if_neg (ne_true_of_eq_false hd)).trans ((nvmeAdmin_runs hr h _).trans ?_))
  by_cases hv : (fwVerify u 2).2 = STS_OK
  · simp only [hfw, h3, h31, h0, hv, ne_eq, not_true_eq_false, decide_false, Bool.false_and, Bool.or_self, Bool.not_true, Bool.false_eq_true, if_false, if_true]
  · simp only [hfw, h3, h31, h0, hv, ne_eq, not_true_eq_false, not_false_eq_true, decide_false, Bool.false_and, Bool.or_self, Bool.not_true, Bool.false_eq_true, if_false, if_true]

end

end

/-- A new command stands among the commands under the next number. -/
theorem cmdNew_cmds (s : State) (m : SvCmd) : (cmdNew s m).2.sv.cmds = aset s.sv.cmds s.sv.next m := congrArg SvSt.cmds (showFlight_k _).keeps.sv

/-- A command that enters alone is the only one, also after a change that leaves it as it is. -/
theorem cmdNew_alone {s : State} {m : SvCmd} {f : SvCmd → SvCmd} (h : s.sv.cmds = []) (hf : f m = m) :
    (svUpd (cmdNew s m).2 (fun v => { v with cmds := amap v.cmds (fun _ m => f m) })).sv.cmds = [((cmdNew s m).1, m)] := by
  show amap (cmdNew s m).2.sv.cmds (fun _ m => f m) = [(s.sv.next, m)]
  rw [cmdNew_cmds, h]
  exact congrArg (fun m => [(s.sv.next, m)]) hf
/-- A command that is fetched by itself waits as the only one. -/
theorem fetchCmd_alone {s : State} (h : s.sv.cmds = []) (c q : Nat) (sqe : List Byte) :
    ∃ m : SvCmd, m.stage = .waiting ∧ (fetchCmd s c q sqe).2.sv.cmds = [((fetchCmd s c q sqe).1, m)] := by
  refine ⟨_, ?_, cmdNew_alone (s := ctrlUpd (svFetch s c _ _ 0) c _) ((congrArg SvSt.cmds (svFetch_k ..).keeps.sv).trans h) (if_neg ?_)⟩
  · rfl
  · simp

/-- Settles O24: each command answers the state that its lemma names. -/
theorem nvmeAdminCommandsComplete : Obligations.NvmeAdminCommandsComplete := by
  unfold Obligations.NvmeAdminCommandsComplete
  refine ⟨?queues, ?pages, ?features, ?firmware⟩
  case queues =>
    intro s c sqe x i res q size hi base r hcase
    obtain ⟨h, h0, hx, hn, hi', hres⟩ | ⟨h, hok, hx, h2, hpc, hz, hpage, h1, h256, hc, hi', hres⟩ | ⟨h, h0, hx, hu, hi', hres⟩ |
      ⟨h, hok, hx, h2, hpc, hz, hpage, hv, hi', hres⟩ := hcase
    · rw [hi', hres]
      refine exec_deleteIoSubmissionQueue rfl rfl h h0 hx fun e he hc => ?_
      have hp := List.all_eq_true.mp hn e he
      rw [decide_eq_false (not_not_intro hc), Bool.false_or, Bool.and_eq_true] at hp
      refine ⟨of_decide_eq_true hp.1, fun n hs => ?_⟩
      have hk := hp.2
      rw [hs] at hk
      exact of_decide_eq_true hk rfl
    · rw [hi', hres]
      exact exec_createIoSubmissionQueue rfl rfl rfl rfl rfl h2 hpc hpage h hok hx hz h1 h256 hc
    · rw [hi', hres]
      exact exec_deleteIoCompletionQueue rfl rfl h h0 hx hu
    · rw [hi', hres]
      exact exec_createIoCompletionQueue rfl rfl rfl rfl rfl h2 hpc hpage h hok hx hz hv
  case pages =>
    intro s c sqe x env ps k r d
    exact ⟨fun bs u h hp h12 h13 hl => exec_getLogPage rfl h rfl hp h12 h13 hl,
      fun h hp => ⟨exec_identify_controller rfl h hp, fun n y => exec_identify_namespace rfl h hp⟩⟩
  case features =>
    intro s c sqe x r d v fid
    refine ⟨fun h ho hs ha h7 => exec_setFeatures rfl rfl rfl ho ha h hs h7, fun h ho h0 ha => exec_getFeatures rfl rfl rfl ho ha h h0, exec_asynchronousEventRequest rfl, ?abort, ?test⟩
    case abort =>
      intro h hs
      obtain ⟨m, hm, hu⟩ := fetchCmd_alone hs c 0 (fit 64 sqe)
      exact exec_abort_miss rfl h hu hm
    case test =>
      intro stc h hk h12 hn hx t held
      exact exec_deviceSelfTest rfl h hk.symm h12 hn hx rfl rfl
  case firmware =>
    intro s c sqe x hd hfw r len
    refine ⟨?download, exec_firmwareCommit_verifies rfl hd hfw⟩
    intro env ps k bs u h hl hp hb w ht
    exact exec_firmwareImageDownload rfl hd hfw h rfl hl hp hb rfl ht

end Sys2Proof.Machine
end

section
/-! PROOFS. NVMe I/O commands, the answers of their backings, pools and the states of namespaces (O25). -/

namespace Sys2Proof.Machine

/-! Fetched commands (R513, R516, R525, R527). -/

/-- A command that is the only one is held back by none. -/
theorem blocked_alone {s : State} {id : Nat} {k : SvCmd} (h : s.sv.cmds = [(id, k)]) (m : SvCmd) : blocked s id m = false := by
  rw [blocked, h, List.any_cons, decide_eq_false (Nat.lt_irrefl id)]
  simp only [Bool.false_and, List.any_nil, Bool.or_self]
/-- A change of the only command leaves it the only one. -/
theorem cmdUpd_alone {s : State} {id : Nat} {k : SvCmd} (h : s.sv.cmds = [(id, k)]) (f : SvCmd → SvCmd) : (cmdUpd s id f).sv.cmds = [(id, f k)] := by
  rw [show (cmdUpd s id f).sv.cmds = aupd s.sv.cmds id f from rfl, h]
  simp [aupd, aget, aset]

section
variable {s u : State} {c id : Nat} {sqe : List Byte} {env : Env} {x : Ctrl} {n : Nat} {y : Ns} {p : IoPlan} {m k : SvCmd} {chk : IoCheck} {go : IoBegin}
  (hc : s.sv.cmds = [(id, k)]) (hx : aget s.sv.ctrls c = some x) (hn : ioNs s x sqe = .inr (n, y)) (hchk : chk x y sqe env = .inr p)
  (hu : cmdUpd (ioReads s c x y sqe env) id (fun k => { k with ns := some n, ranges := p.ranges, prps := p.prps, data := if p.data.isEmpty then k.data else p.data }) = u)
  (hm : aget u.sv.cmds id = some m)
include hc hx hn hchk hu hm

/-- A command alone in the device that passes its checks begins. -/
theorem ioChecked_begins : ioChecked s c id sqe env chk go = go (testTouch u m) id m env p.used := by
  have hr : (ioReads s c x y sqe env).sv.cmds = [(id, k)] := (congrArg SvSt.cmds (ioReads_k ..).keeps.sv).trans hc
  have hb : blocked (testTouch u m) id m = false := blocked_alone ((congrArg (fun t : State => t.sv.cmds) hu).symm.trans (cmdUpd_alone hr _)) m
  have ht : aget (testTouch u m).sv.cmds id = some m := hm
  simp only [ioChecked, hx, hn, hchk, hu, hm, ioStart, ht, hb, Bool.false_eq_true, if_false]

end

section
variable {s : State} {c q op : Nat} {sqe : List Byte} {x : Ctrl} {n : Nat} {y : Ns} {m : SvCmd} (h0 : q ≠ 0) (hf : fetchable s c q = true)
  (ho : sqeOp (fit 64 sqe) = op)
include h0 hf ho

theorem ioRow_fetched (env : Env) (chk : IoCheck) (go : IoBegin) :
    ioRow s c q op sqe env none chk go = ioChecked (fetchCmd s c q sqe).2 c (fetchCmd s c q sqe).1 (fit 64 sqe) env chk go := by
  simp only [ioRow, h0, hf, ho, decide_false, Bool.not_true, Bool.or_self, Bool.false_eq_true, ne_eq, not_true_eq_false, if_false]

/-- A command fetched into an empty device that passes its checks begins. -/
theorem ioRow_begins {u : State} {env : Env} {p : IoPlan} {chk : IoCheck} {go : IoBegin} (he : s.sv.cmds = [])
    (hx : aget (fetchCmd s c q sqe).2.sv.ctrls c = some x) (hn : ioNs (fetchCmd s c q sqe).2 x (fit 64 sqe) = .inr (n, y)) (hchk : chk x y (fit 64 sqe) env = .inr p)
    (hu : cmdUpd (ioReads (fetchCmd s c q sqe).2 c x y (fit 64 sqe) env) (fetchCmd s c q sqe).1
      (fun k => { k with ns := some n, ranges := p.ranges, prps := p.prps, data := if p.data.isEmpty then k.data else p.data }) = u)
    (hm : aget u.sv.cmds (fetchCmd s c q sqe).1 = some m) :
    ioRow s c q op sqe env none chk go = go (testTouch u m) (fetchCmd s c q sqe).1 m env p.used := by
  obtain ⟨k, -, hk⟩ := fetchCmd_alone he c q sqe
  rw [ioRow_fetched h0 hf ho]
  exact ioChecked_begins hk hx hn hchk hu hm

end

theorem exec_nvmeFlush {s t u : State} {c q id : Nat} {sqe : List Byte} {x : Ctrl} {n : Nat} {y : Ns} {m : SvCmd} (h0 : q ≠ 0) (hf : fetchable s c q = true)
    (ho : sqeOp (fit 64 sqe) = 0) (hns : sqeNsid (fit 64 sqe) ≠ 0xFFFFFFFF) (hr : flushRoom s c (fit 64 sqe) = true) (ht : fetchCmd s c q sqe = (id, t))
    (hx : aget t.sv.ctrls c = some x) (hn : ioNs t x (fit 64 sqe) = .inr (n, y)) (hu : cmdUpd t id (fun k => { k with ns := some n }) = u)
    (hm : aget u.sv.cmds id = some m) : exec (.nvmeFlush c q sqe) s = .next (beginFlush (testTouch u m) id m [n]) := by
  refine congrArg Host.Outcome.next ?_
  simp only [h0, hf, ho, hr, ht, decide_false, Bool.not_true, Bool.or_self, Bool.false_eq_true, ne_eq, not_true_eq_false, if_false,
    flushStart, hx, flushScope, if_neg hns, hn, hu, hm]

/-! Commands held back (R519, R520, R524, R525). -/

section
variable {s : State} {id op : Nat} {m : SvCmd} {sqe : List Byte} {env : Env} (hm : aget s.sv.cmds id = some m) (hq : m.sq ≠ 0) (hw : m.stage = .waiting)
  (hb : blocked s id m = false) (hr : (aget s.sv.ctrls m.ctrl).any (fun c => mayRead s c.slice) = true)
include hm hq hw hb hr

/-- A command that nothing holds back any more begins. -/
theorem ioRow_held (ho : sqeOp m.sqe = op) (chk : IoCheck) (go : IoBegin) : ioRow s m.ctrl m.sq op sqe env (some id) chk go = go s id m env 0 := by
  have hst : (m.stage == .waiting) = true := by rw [hw]; rfl
  simp only [ioRow, hm, hq, hst, hb, hr, ho, ne_eq, not_false_eq_true, decide_true, Bool.not_false, Bool.and_self, if_true]

end

section
variable {s : State} {id n : Nat} {m : SvCmd} {x : Ns} (hn : cmdNs s m = some (n, x)) (h0 : x.backing = 0)
include h0

/-- A pool takes every request. -/
theorem awayRoom_pool (s : State) : awayRoom s x = true := by
  rw [awayRoom, h0]; rfl

include hn

theorem beginWrite_pool {env : Env} {d : List Byte} (hp : m.prps ≠ []) (hd : prpData env 0 m.prps = some d)
    (hu : unitsFree (svFetch s m.ctrl m.prps env 0) x.target (rangeUnits x (m.ranges.headD (0, 0)).1 (m.ranges.headD (0, 0)).2).length = true) :
    beginWrite s id m env 0 = poolChange (svFetch s m.ctrl m.prps env 0) id n x { m with data := d } := by
  have hp' : m.prps.isEmpty = false := by rwa [List.isEmpty_eq_false_iff]
  simp only [beginWrite, hn, awayRoom_pool h0, hp', hd, h0, hu, Bool.not_true, Bool.false_eq_true, if_false, if_true]
theorem beginRead_pool (env : Env) (k : Nat) : beginRead s id m env k = cmdUpd (drvOpen s id m x) id (fun _ => { m with stage := .sent }) := by
  simp only [beginRead, hn, awayRoom_pool h0, h0, Bool.not_true, Bool.false_eq_true, if_false, if_true]
theorem beginZeroes_pool (env : Env) (k : Nat)
    (hu : unitsFree s x.target (rangeUnits x (m.ranges.headD (0, 0)).1 (m.ranges.headD (0, 0)).2).length = true) : beginZeroes s id m env k = poolChange s id n x m := by
  simp only [beginZeroes, hn, awayRoom_pool h0, h0, hu, Bool.or_true, Bool.not_true, Bool.false_eq_true, if_false, if_true]
theorem beginDsm_pool (env : Env) (k : Nat) (hd : (sqeDw m.sqe 11).testBit 2 = true) : beginDsm s id m env k = poolChange s id n x m := by
  simp only [beginDsm, hn, awayRoom_pool h0, h0, hd, Bool.not_true, Bool.false_eq_true, if_false, if_true]

end

/-! Answers of backings, and capsules (R519, R539). -/

/-- A command is still at its backing. -/
def atBacking (m : SvCmd) : Bool :=
  match m.stage with
  | .sent => true
  | .flush _ w => !w.isEmpty
  | _ => false
/-- The drives of a command that has left its backing have nothing outstanding for it. -/
def backingClosed (s : State) (id : Nat) : State := if (aget s.sv.cmds id).any atBacking then s else drvClose s id

theorem exec_backingComplete {s t : State} {id st : Nat} {bytes : List Byte} (h : backingDone s id st bytes = t) :
    exec (.backingComplete id st bytes) s = .next (capsuleWakeN (backingClosed t id).sv.cmds.length (backingClosed t id)) := by
  subst h; rfl
/-- A read of a pool that has come back completes with the blocks that the namespace holds. -/
theorem backingDone_read {s : State} {id n : Nat} {m : SvCmd} {x : Ns} (hm : aget s.sv.cmds id = some m) (hs : m.stage = .sent) (hq : m.silent = false)
    (hn : cmdNs s m = some (n, x)) (h0 : x.backing = 0) (h2 : sqeOp m.sqe = 2) (ha : drvAborted s id m = false) (bytes : List Byte) :
    backingDone s id 0 bytes = readDone s id m x (nsRead s n (m.ranges.headD (0, 0)).1 (m.ranges.headD (0, 0)).2) := by
  simp only [backingDone, hm, hs, ha, hq, Bool.and_false, Bool.false_eq_true, if_false, sentDone, hn, h0, h2, if_true]

/-- A Read in a capsule without data pointers is checked as one from a queue. -/
theorem exec_storageCapsule_read {s t : State} {i id : Nat} {c : Ctrl} {bytes : List Byte} (hc : aget s.sv.ctrls i = some c) (h1 : c.kind = 1) (hf : svInflight s < 262144)
    (h2 : sqeOp (fit 64 bytes) = 2) (hp : (slice (fit 64 bytes) 24 16).any (fun b => b ≠ 0) = false)
    (ht : cmdNew s { ctrl := i, sq := 1, cq := 0, sqe := fit 64 bytes, stage := .waiting, data := bytes.drop 64 } = (id, t)) :
    exec (.storageCapsule i bytes) s = .next (ioChecked t i id (fit 64 bytes) {} checkRw beginRead) := by
  refine congrArg Host.Outcome.next ?_
  have hops : ioOps.contains 2 = true := rfl
  simp only [capsuleRun, hc, h1, h2, hp, ht, hops, decide_eq_false (Nat.not_le.mpr hf), ge_iff_le, Nat.reduceEqDiff, ne_eq, not_true_eq_false, decide_false,
    Bool.not_true, Bool.false_and, Bool.or_self, Bool.false_eq_true, if_false]

/-! Pools (R521, R522, R535, R536). -/

/-- A pool whose members take a journal, and the map that its records give. -/
def poolReplayed (s : State) (p : Nat) (blocks : List (Nat × Nat × List Byte)) (best : List (List Byte)) (ms : List Member) : State :=
  raise (best.foldl (replayRecord blocks) (showPools (poolUpd s p (fun y => { y with members := ms, seq := journalSeq best, rebuild := none })))) 0x907
    [(4, p), (4, best.length), (4, 0)]

section
variable {s : State} {p : Nat} {x : Pool} (hx : aget s.sv.pools p = some x)
include hx

/-- The only journal of a pool is the best, and no record of it is missing on its member. -/
theorem exec_journalReplay_single {best b : List (List Byte)} {ms : List Member} (j1 : Option (List (List Byte))) (blocks : List (Nat × Nat × List Byte))
    (h1 : x.mirror = false) (h0 : x.seq = 0) (hb : journalGood none b = best)
    (hms : (List.range x.members.length).map (fun k => if k = 0 then { (x.members[k]?).getD { port := 0, nsid := 0, units := 0 } with present := true, journal := best }
      else { (x.members[k]?).getD { port := 0, nsid := 0, units := 0 } with present := false }) = ms) :
    exec (.journalReplay p (some b) j1 blocks) s = .next (poolReplayed s p blocks best ms) := by
  subst hms hb
  refine congrArg Host.Outcome.next ?_
  have hmiss : (journalGood none b).filter (fun r => !(journalGood none b).contains r) = [] :=
    List.filter_eq_nil_iff.mpr fun r hr => by rw [List.contains_iff_mem.mpr hr]; exact Bool.false_ne_true
  simp only [hx, h1, h0, ne_eq, not_true_eq_false, decide_false, Bool.and_false, Bool.false_eq_true, if_false, List.map_cons, List.map_nil, Option.map_some,
    List.foldl_cons, List.foldl_nil, List.isEmpty_nil, Bool.or_true, if_true, List.all_cons, Option.isNone_some, Bool.false_and, hmiss, List.length_nil, Nat.add_zero]
  exact congrArg (poolReplayed s p blocks _) (List.map_congr_left fun k _ => by cases k <;> rfl)

section
variable {k cause : Nat} {y : Member} {x' : Pool} {u : State} (hk : x.members[k]? = some y) (hy : y.present = true)
  (hx' : { x with members := x.members.set k { y with present := false }, rebuild := if x.rebuild = some k then none else x.rebuild } = x')
  (hu : showPools (poolUpd s p (fun _ => x')) = u)
include hk hy hx' hu

/-- The last member of a pool takes its namespaces with it. -/
theorem exec_poolMemberFail_last (h3 : poolState x' = 3) : exec (.poolMemberFail p k cause) s =
    .next ((u.sv.nss.filter (fun e => e.2.backing == 0 && e.2.target == p)).foldl (fun s e => nsNotReady s e.1) u) := by
  have h2 : poolState x' ≠ 2 := by omega
  refine congrArg Host.Outcome.next ?_
  simp only [hx, hk, hy, hx', hu, if_neg h2, Bool.not_true, Bool.false_eq_true, if_false]
/-- A mirror goes on without the member, and reads that were outstanding there are issued again. -/
theorem exec_poolMemberFail_mirror {w : State} (h2 : poolState x' = 2) (h1 : poolState x = 1)
    (hw : raise (reissue (bump u Reg.SV_REISSUE_CNT (readsAt s p k)) p y.port) 0x900 [(4, p), (4, y.port), (4, cause)] = w) (hc : poolCtrls w p = []) :
    exec (.poolMemberFail p k cause) s = .next w := by
  refine congrArg Host.Outcome.next ?_
  simp only [hx, hk, hy, hx', hu, h1, h2, hw, hc, Bool.not_true, Bool.false_eq_true, if_false, if_true, List.foldl_nil]

end

theorem exec_poolRebuildDone (hr : x.rebuild.isSome = true) (h2 : poolState x = 2) :
    exec (.poolRebuildDone p) s = .next (raise (showPools (poolUpd s p (fun y => { y with rebuild := none }))) 0x901 [(4, p)]) := by
  refine congrArg Host.Outcome.next ?_
  simp only [hx, hr, h2, decide_true, Bool.and_self, if_true]

end

/-! States of namespaces (R537). -/

section
variable {s : State} {n : Nat} {x : Ns} (hx : aget s.sv.nss n = some x)
include hx

theorem nsState_changes {st : Nat} (h : x.state ≠ st) : nsState s n st = raise (nsUpd s n (fun y => { y with state := st })) 0x902 [(4, n), (4, st)] := by
  simp only [nsState, hx, if_neg h]
theorem exec_nsNotReady (h0 : x.state = 0) (hr : x.backing = 2 ∨ nsReachable s x = false) :
    exec (.nsNotReady n) s = .next (nsEndAll (raise (nsUpd s n (fun y => { y with state := 1 })) 0x902 [(4, n), (4, 1)]) n NV_NOT_READY) := by
  have hr' : (decide (x.backing = 2) || !nsReachable s x) = true := by simpa using hr
  have h1 : x.state ≠ 1 := by omega
  refine congrArg Host.Outcome.next ?_
  simp only [hx, hr', if_true, nsNotReady, Option.any_some, h0, BEq.rfl, nsState_changes hx h1]
theorem exec_nsReady (h1 : x.state = 1) (hr : nsReachable s x = true) :
    exec (.nsReady n) s = .next (raise (nsUpd s n (fun y => { y with state := 0 })) 0x902 [(4, n), (4, 0)]) := by
  have h0 : x.state ≠ 0 := by omega
  refine congrArg Host.Outcome.next ?_
  simp only [hx, h1, hr, decide_true, Bool.and_self, if_true, nsState_changes hx h0]

end

/-- Settles O25: each command and each event answers the state that its lemma names. -/
theorem nvmeIoCommandsComplete : Obligations.NvmeIoCommandsComplete := by
  unfold Obligations.NvmeIoCommandsComplete
  refine ⟨?fetched, ?flush, ?held, ?backing, ?capsule, fun s p x hx => ⟨?replay, ?member, exec_poolRebuildDone hx⟩, fun s n x hx => ⟨exec_nsNotReady hx, exec_nsReady hx⟩⟩
  case fetched =>
    intro s c q op sqe env x n y p m chk go i hi h0 hf ho he r hx hn hchk u hm
    simp only [List.mem_cons, Prod.mk.injEq, List.not_mem_nil, or_false] at hi
    obtain ⟨ho', hchk', hgo, hi⟩ | ⟨ho', hchk', hgo, hi⟩ | ⟨ho', hchk', hgo, hi⟩ | ⟨ho', hchk', hgo, hi⟩ := hi <;>
      subst ho' hchk' hgo hi <;> exact congrArg Host.Outcome.next (ioRow_begins h0 hf ho he hx hn hchk rfl hm)
  case flush =>
    intro s c q sqe x n y m h0 hf ho hns hr r hx hn u hm
    exact exec_nvmeFlush h0 hf ho hns hr rfl hx hn rfl hm
  case held =>
    intro s id m sqe env n x hm hq hw hb hn h0 hr r
    refine ⟨fun d ho hp hd hu => ?_, fun ho => ?_, fun ho hu => ?_, fun ho hd => ?_⟩ <;> refine congrArg Host.Outcome.next ((ioRow_held hm hq hw hb hr ho ..).trans ?_)
    · exact beginWrite_pool hn h0 hp hd hu
    · exact beginRead_pool hn h0 ..
    · exact beginZeroes_pool hn h0 _ _ hu
    · exact beginDsm_pool hn h0 _ _ hd
  case backing =>
    intro s id m n x bytes hm hs hq hn h0 h2 ha t u
    exact exec_backingComplete (backingDone_read hm hs hq hn h0 h2 ha bytes)
  case capsule =>
    intro s i c bytes hc h1 hf h2 hp r
    exact exec_storageCapsule_read hc h1 hf h2 hp rfl
  case replay =>
    intro b j1 blocks h1 h0 best ms
    exact exec_journalReplay_single hx j1 blocks h1 h0 rfl rfl
  case member =>
    intro k y cause hk hy x' u
    refine ⟨exec_poolMemberFail_last hx hk hy rfl rfl, ?_⟩
    intro h2 h1 w hc
    exact exec_poolMemberFail_mirror hx hk hy rfl rfl h2 h1 rfl hc

end Sys2Proof.Machine
end

section
/-! PROOFS. The owner's commands on controllers, pools and namespaces (O26). -/

namespace Sys2Proof.Machine

/-- A storage command of the owner whose body answers completes with that answer. -/
theorem svAdmin_answers {s u : State} {op t : Nat} {cmd : List Byte} {f : State → Nat → State × Option AdminRes} {r : AdminRes} (h : AdminReady s 0 op cmd t)
    (hf : f s t = (u, some r)) : svAdmin s 0 op cmd f = adminComplete u 0 op (leAt cmd 8 8) r :=
  runAdmin_answers h ((if_neg (not_not_intro rfl)).trans hf)

/-! Controllers (R505, R507). -/

theorem exec_ctrlCreate_host {s : State} {t i : Nat} {cmd : List Byte} (h : AdminReady s 0 0xA0 cmd t) (h0 : par cmd 0x10 0 1 = 0) (hb : ctrlBindOk s t = true)
    (hi : afree s.sv.ctrls 4096 = some i) {c : Ctrl} (hc : { kind := 0, slice := t, fw := par cmd 0x10 1 1 == 1 } = c) :
    exec (.ctrlCreate 0 cmd) s = .next (adminComplete (showCtrls (svUpd s (fun v => { v with ctrls := aset v.ctrls i c }))) 0 0xA0 (leAt cmd 8 8) { aux := i }) := by
  subst hc
  refine congrArg Host.Outcome.next (svAdmin_answers h ?_)
  simp only [h0, hb, hi, Bool.not_true, Bool.and_false, Bool.false_eq_true, Nat.reduceEqDiff, decide_false, Bool.false_and, if_false]

section
variable {s : State} {t i : Nat} {cmd : List Byte} {c : Ctrl} (hi : i = par cmd 0x10 0 32) (hc : aget s.sv.ctrls i = some c)
include hi hc

theorem exec_ctrlDestroy (h : AdminReady s 0 0xA1 cmd t) (hn : c.nss = []) : exec (.ctrlDestroy 0 cmd) s = .next (adminComplete (settle (showFlight (showCtrls
    (svUpd s (fun v => { v with ctrls := adel v.ctrls i, cmds := s.sv.cmds.filter (fun e => e.2.ctrl ≠ i || e.2.stage == .staged) }))))) 0 0xA1 (leAt cmd 8 8) {}) := by
  refine congrArg Host.Outcome.next (svAdmin_answers h ?_)
  simp only [← hi, hc, hn, List.isEmpty_nil, Bool.not_true, Bool.false_eq_true, if_false]
theorem exec_ctrlQuery {env : Env} (h : AdminReady s 0 0xA2 cmd t) (hw : envWrite env = STS_OK) : exec (.ctrlQuery 0 cmd env) s = .next
    (adminComplete (slWrite s 0 (par cmd 0x18 0 64) 0 (ctrlEntry s i c)) 0 0xA2 (leAt cmd 8 8) { len := (ctrlEntry s i c).length }) := by
  refine congrArg Host.Outcome.next (svAdmin_answers h ?_)
  simp only [← hi, hc, adminResult_ok hw]

end

/-! Pools (R518, R535). -/

section
variable {s : State} {t p : Nat} {cmd : List Byte}

theorem exec_poolCreate_single {u : Nat} {d : Option Nat} (h : AdminReady s 0 0xA4 cmd t) (h3 : par cmd 0x10 3 1 = 0)
    (hd : driveUsed s (par cmd 0x10 0 3) (par cmd 0x14 0 32) = false) (hp : afree s.sv.pools 64 = some p) {x : Pool}
    (hx : { mirror := false, members := [{ port := par cmd 0x10 0 3, nsid := par cmd 0x14 0 32, units := u }] } = x) :
    exec (.poolCreate 0 cmd (some u) d) s = .next (adminComplete (showPools (svUpd s (fun v => { v with pools := aset v.pools p x }))) 0 0xA4 (leAt cmd 8 8) { aux := p }) := by
  subst hx
  refine congrArg Host.Outcome.next (svAdmin_answers h ?_)
  have hm : (0 == 1) = false := rfl
  simp only [h3, hm, hd, hp, Bool.false_and, Bool.or_self, Bool.false_eq_true, if_false, List.append_nil]

theorem exec_poolDestroy (h : AdminReady s 0 0xA5 cmd t) (hp : p = par cmd 0x10 0 32) (hx : (aget s.sv.pools p).isSome = true)
    (hn : s.sv.nss.any (fun e => e.2.backing == 0 && e.2.target == p) = false) :
    exec (.poolDestroy 0 cmd) s = .next (adminComplete (showPools (svUpd s (fun v => { v with pools := adel v.pools p }))) 0 0xA5 (leAt cmd 8 8) {}) := by
  refine congrArg Host.Outcome.next (svAdmin_answers h ?_)
  simp only [← hp, Option.isNone_eq_false_iff.mpr hx, hn, Bool.false_eq_true, if_false]

/-- The second member of a mirror is lost: it is the one to replace, and the first the one to copy from. -/
theorem mirror_lostSecond {x : Pool} {a b : Member} (hm : x.members = [a, b]) (ha : a.present = true) (hb : b.present = false) (hr : x.rebuild = none) :
    (List.range x.members.length).find? (fun k => !memberGood x k) = some 1 ∧ (List.range x.members.length).find? (memberGood x) = some 0 := by
  have h0 : memberGood x 0 = true := by simp [memberGood, hm, ha, hr]
  have h1 : memberGood x 1 = false := by simp [memberGood, hm, hb]
  rw [hm, show List.range [a, b].length = [0, 1] from rfl]
  simp only [List.find?_cons, h0, h1, Bool.not_true, Bool.not_false, and_self]

theorem exec_poolRebuild_second {x : Pool} {a b new : Member} {u port nsid : Nat} (h : AdminReady s 0 0xA6 cmd t) (hp : p = par cmd 0x10 0 8)
    (hport : par cmd 0x10 8 3 = port) (hnsid : par cmd 0x14 0 32 = nsid) (hx : aget s.sv.pools p = some x) (hm : x.members = [a, b]) (ha : a.present = true)
    (hb : b.present = false) (hr : x.rebuild = none) (hother : a.port ≠ port) (hu : b.units ≤ u)
    (hd : driveUsed (poolUpd s p (fun y => { y with members := [a] })) port nsid = false) (hnew : { port := port, nsid := nsid, units := u, journal := a.journal } = new) :
    exec (.poolRebuild 0 cmd (some u)) s =
      .next (adminComplete (showPools (poolUpd s p (fun y => { y with members := y.members.set 1 new, rebuild := some 1 }))) 0 0xA6 (leAt cmd 8 8) {}) := by
  subst hnew
  obtain ⟨hlost, hlive⟩ := mirror_lostSecond hm ha hb hr
  have hold : (x.members[1]?).getD { port := 0, nsid := 0, units := 0 } = b := by rw [hm]; rfl
  have hfrom : (x.members[0]?).getD b = a := by rw [hm]; rfl
  refine congrArg Host.Outcome.next (svAdmin_answers h ?_)
  simp only [← hp, hport, hnsid, hx, hlost, hlive, hold, hfrom, hr, hd, decide_eq_false hother, if_neg (Nat.not_lt.mpr hu), Option.isSome_none, Bool.or_self,
    Bool.false_eq_true, if_false]

theorem exec_poolQuery {x : Pool} (h : AdminReady s 0 0xA7 cmd t) (hx : aget s.sv.pools (par cmd 0x10 0 32) = some x) (hr : x.rebuild = none) :
    exec (.poolQuery 0 cmd) s = .next (adminComplete s 0 0xA7 (leAt cmd 8 8) { aux := poolState x }) := by
  refine congrArg Host.Outcome.next (svAdmin_answers h ?_)
  simp only [hx, hr, Option.isNone_none, if_true]

end

/-! Namespaces (R516, R517, R540). -/

/-- A namespace that is not encrypted, on a pool or a target, takes the lowest free index. -/
theorem exec_nsCreate {s : State} {t n : Nat} {cmd : List Byte} {d : Option (List Nat)} {x : Ns} (h : AdminReady s 0 0xA8 cmd t) (hb : nsBackingSts s cmd d = none)
    (hn : afree s.sv.nss 65536 = some n) (he : par cmd 0x10 3 1 = 0) (h2 : par cmd 0x10 0 2 ≠ 2)
    (hx : { backing := par cmd 0x10 0 2, lba4k := par cmd 0x10 2 1 == 1, enc := false, target := par cmd 0x14 0 32, nsid := par cmd 0x18 0 32, size := par cmd 0x20 0 64,
            drive := (d.getD []).drop 3 } = x) :
    exec (.nsCreate 0 cmd d) s = .next (adminComplete (showNss (svUpd s (fun v => { v with nss := aset v.nss n x }))) 0 0xA8 (leAt cmd 8 8) { aux := n }) := by
  subst hx
  refine congrArg Host.Outcome.next (svAdmin_answers h ?_)
  have he' : (0 == 1) = false := rfl
  simp only [hb, hn, he, he', nsCreateKeys, Bool.not_false, if_true, if_neg h2]

section
variable {s : State} {t n : Nat} {cmd : List Byte} {x : Ns} (hn : n = par cmd 0x10 0 32) (hx : aget s.sv.nss n = some x)
include hn hx

theorem exec_nsDestroy (h : AdminReady s 0 0xA9 cmd t) (ha : nsAttachments s n = 0) (hm : x.mapped = []) : exec (.nsDestroy 0 cmd) s = .next (adminComplete
    (settle (showNss (svUpd s (fun v => { v with nss := adel v.nss n, cmds := s.sv.cmds.filter (fun e => e.2.ns ≠ some n) })))) 0 0xA9 (leAt cmd 8 8) {}) := by
  refine congrArg Host.Outcome.next (svAdmin_answers h ?_)
  simp only [← hn, hx, ha, hm, ne_eq, not_true_eq_false, if_false, List.foldl_nil]
theorem exec_nsModify_target {h : Nat} (hr : AdminReady s 0 0xAC cmd t) (hq : par cmd 0x14 0 1 = 1) (hk : par cmd 0x14 1 1 = 0) (hh : h = par cmd 0x18 0 32)
    (h1 : x.backing = 1) (hqp : svQpReady s h = true) (h0 : x.state = 0) :
    exec (.nsModify 0 cmd) s = .next (adminComplete (nsUpd s n (fun y => { y with target := h })) 0 0xAC (leAt cmd 8 8) {}) := by
  have hk' : (0 == 1) = false := rfl
  refine congrArg Host.Outcome.next (svAdmin_answers hr ?_)
  simp only [← hn, hx, hq, hk, ← hh, h1, hqp, h0, hk', BEq.rfl, ne_eq, not_true_eq_false, decide_false, Bool.not_true, Bool.or_self, Bool.and_false, Bool.false_eq_true,
    if_false, nsKeysReady, if_true, Nat.reduceEqDiff]
theorem exec_nsQuery (h : AdminReady s 0 0xAD cmd t) (h0 : x.backing ≠ 0) :
    exec (.nsQuery 0 cmd) s = .next (adminComplete s 0 0xAD (leAt cmd 8 8) { aux := x.state, len := min x.size 0xFFFFFFFF }) := by
  refine congrArg Host.Outcome.next (svAdmin_answers h ?_)
  simp only [← hn, hx, if_neg h0]

end

section
variable {s : State} {t n i nsid : Nat} {cmd : List Byte} {c : Ctrl} (hn : n = par cmd 0x10 0 32) (hi : i = par cmd 0x14 0 32) (hc : aget s.sv.ctrls i = some c)
include hn hi hc

theorem exec_nsAttach {x : Ns} (hx : aget s.sv.nss n = some x) (h : AdminReady s 0 0xAA cmd t) (hid : nsid = par cmd 0x18 0 32) (h1 : 1 ≤ nsid) (h1024 : nsid ≤ 1024) (hf : aget c.nss nsid = none)
    (ha : nsAttachments s n < 16) : exec (.nsAttach 0 cmd) s =
      .next (adminComplete (nsChanged (ctrlUpd s i (fun x => { x with nss := aset x.nss nsid n })) i nsid) 0 0xAA (leAt cmd 8 8) {}) := by
  have h0 : nsid ≠ 0 := by omega
  refine congrArg Host.Outcome.next (svAdmin_answers h ?_)
  simp only [← hn, ← hi, ← hid, hx, hc, h0, hf, decide_eq_false (Nat.not_lt.mpr h1024), decide_eq_false (Nat.not_le.mpr ha), gt_iff_lt, ge_iff_le, Option.isNone_some,
    Option.isSome_none, decide_false, Bool.or_self, Bool.false_eq_true, if_false]
theorem exec_nsDetach {u : State} (h : AdminReady s 0 0xAB cmd t) (hf : c.nss.find? (fun e => e.2 == n) = some (nsid, n)) (ht : c.test = none)
    (hu : nsChanged (ctrlUpd s i (fun x => { x with nss := adel x.nss nsid })) i nsid = u)
    (hd : u.sv.cmds.any (fun e => e.2.ctrl == i && e.2.ns == some n && e.2.stage ≠ .staged) = false) :
    exec (.nsDetach 0 cmd) s = .next (adminComplete u 0 0xAB (leAt cmd 8 8) {}) := by
  refine congrArg Host.Outcome.next (svAdmin_answers h ?_)
  simp only [← hn, ← hi, hc, hf, ht, hu, hd, Option.any_none, Bool.false_eq_true, if_false]

end

/-- Settles O26: each command answers the state that its lemma names. -/
theorem storageAdminCommandsComplete : Obligations.StorageAdminCommandsComplete := by
  unfold Obligations.StorageAdminCommandsComplete
  refine ⟨fun s t i cmd => ⟨fun h h0 hb hi => exec_ctrlCreate_host h h0 hb hi rfl, fun c hi hc => ⟨exec_ctrlDestroy hi hc, fun env => exec_ctrlQuery hi hc⟩⟩,
    fun s t p cmd => ⟨fun u d h h3 hd hp => exec_poolCreate_single h h3 hd hp rfl, exec_poolDestroy, ?rebuild, fun x => exec_poolQuery⟩,
    fun s t n cmd => ⟨?create, fun x hn hx => ⟨exec_nsDestroy hn hx, ?attach, ?detach, fun h => exec_nsModify_target hn hx, exec_nsQuery hn hx⟩⟩⟩
  case rebuild => exact fun x a b u h hp hx hm ha hb hr ho hu hd => exec_poolRebuild_second h hp rfl rfl hx hm ha hb hr ho hu hd rfl
  case create =>
    intro d h hb hf he h2 x
    exact exec_nsCreate h hb hf he h2 rfl
  case attach => exact fun i c nsid h hi hid hc h1 h1024 hf ha => exec_nsAttach hn hi hc hx h hid h1 h1024 hf ha
  case detach =>
    intro i c nsid h hi hc hf ht u hd
    exact exec_nsDetach hn hi hc h hf ht rfl hd

end Sys2Proof.Machine
end

section
/-! PROOFS. Delivery of events, rate limits, telemetry rings and hit arrays (O32). -/

namespace Sys2Proof.Machine

/-! Delivery (R614). -/

section
variable {s u : State} {e : EvRec} (hl : logged e = false)
include hl

/-- Without EN a record that no log keeps goes nowhere. -/
theorem deliver_off (h0 : e.route.testBit 0 = false) : deliver s e = s := by
  simp only [deliver, hl, h0, Bool.not_false, Bool.false_eq_true, if_false, if_true]

variable (h0 : e.route.testBit 0 = true)
include h0

theorem deliver_ring {j : Nat} {c : Chan} (hc : chanOf s e.dest = some (j, c)) (h7 : c.kind = 7) (hs : c.slice = 0) (ht : isTmRing s e.dest = false)
    (hx : ringFlush (c.notes.length + 2) s j = u) (hr : (chanGet u j).any (fun d => d.state == 1 && decide (ringRoom d > 0) && sliceLive u d.slice) = true) :
    deliver s e = ringPut u j (fun phase => le 4 (e.source + e.seq * 2 ^ 12) ++ le 4 (e.code + phase * 2 ^ 31) ++ le 8 e.time ++ e.data) := by
  simp only [deliver, hl, h0, hc, h7, hs, ht, hx, hr, ne_eq, not_true_eq_false, decide_false, Bool.not_true, Bool.or_self, Bool.false_eq_true, if_false, if_true]
theorem deliver_nowhere (hc : chanOf s e.dest = none) (hp : inPort s e.dest = none) : deliver s e = bump s Reg.OZ_EV_UNDELIV_CNT := by
  simp only [deliver, hl, h0, hc, hp, Bool.not_true, Bool.false_eq_true, if_false, undelivered]

end

/-- With no record lost before it the delivery of a record is all that happens. -/
theorem exec_eventDeliver {s t : State} {e : EvRec} (he : nextRec s = some e) (ht : deliver { s with ev := { s.ev with queue := s.ev.queue.erase e } } e = t)
    (hl : t.ev.lost = 0) : exec .eventDeliver s = .next t := by
  refine congrArg Host.Outcome.next ?_
  simp only [he, ht, hl, if_true]

/-! Rate limits (R688). -/

section
variable {s : State} {src key : Nat} {w : LimWin} (hw : aget s.ev.wins (winKey src key) = some w) (ho : winOver s w = true)
include hw ho

theorem exec_rateLimitWindow_counted (hc : 0 < w.count) : exec (.rateLimitWindow src key) s = .next (raiseWin s src key w.count w.time w.last) := by
  refine congrArg Host.Outcome.next ?_
  simp only [hw, ho, Bool.not_true, Bool.false_eq_true, if_false, gt_iff_lt, hc, if_true]
theorem exec_rateLimitWindow_quiet (hc : w.count = 0) :
    exec (.rateLimitWindow src key) s = .next { s with ev := { s.ev with wins := adel s.ev.wins (winKey src key) } } := by
  refine congrArg Host.Outcome.next ?_
  simp only [hw, ho, hc, Bool.not_true, Bool.false_eq_true, if_false, gt_iff_lt, Nat.lt_irrefl]

end

/-! Telemetry rings and hit arrays (R618, R621). -/

theorem exec_tmRingBind {s : State} {req : Requester} {r : Nat} (hr : r < 16) (hp : Passes s req (Reg.LD_TM_CFG_CTL r) false) (v : W32) :
    exec (.tmRingBind req 15 r v) s = .next (tmCtlWrite s r v) := congrArg Host.Outcome.next ((if_pos hr).trans (gate_open hp))

/-- A refused binding shows its cause and its ring. -/
def tmRefuse (s : State) (r c : Nat) : State := wrF (wrF (wrF s Reg.LD_TM_STATUS 0 1 1) Reg.LD_TM_STATUS 1 3 c) Reg.LD_TM_STATUS 4 4 r

section
variable {s : State} {r : Nat} {v : W32}

theorem tmCtlWrite_refused {c : Nat} (h0 : rbit v 0 = true) (hc : tmRefused s r (rfld v 1 2) = some c) :
    tmCtlWrite s r v = tmRefuse (plainWrite s (Reg.LD_TM_CFG_CTL r) 7 (v &&& 6)) r c := by
  simp only [tmCtlWrite, h0, hc, if_true]; rfl
theorem tmCtlWrite_binds (h0 : rbit v 0 = true) (hc : tmRefused s r (rfld v 1 2) = none) : tmCtlWrite s r v = plainWrite s (Reg.LD_TM_CFG_CTL r) 7 v := by
  simp only [tmCtlWrite, h0, hc, if_true]
theorem tmCtlWrite_unbinds (h0 : rbit v 0 = false) (hh : rdF s Reg.LD_RH_STATUS 0 1 = 0) : tmCtlWrite s r v = plainWrite s (Reg.LD_TM_CFG_CTL r) 7 v := by
  simp only [tmCtlWrite, h0, hh, Nat.reduceEqDiff, decide_false, Bool.and_false, Bool.false_and, Bool.false_eq_true, if_false]
/-- A ring that a running rehearsal names stays bound. -/
theorem tmCtlWrite_rehearsed (h0 : rbit v 0 = false) (hh : rdF s Reg.LD_RH_STATUS 0 1 = 1) (hr : rdN s Reg.LD_RH_RING = tmHandle s r) (hb : tmBound s r = true) :
    tmCtlWrite s r v = tmRefuse s r 5 := by
  simp only [tmCtlWrite, h0, hh, hr, hb, decide_true, Bool.and_self, Bool.false_eq_true, if_false, if_true]; rfl

end

section
variable {s : State} {req : Requester} {p t k : Nat} {v : W32} (hp : p < 9) (ht : t < 62) (hg : Passes s req (Reg.STA_TBL_HITARR p t) false) (hk : tblKind s p t = k)
include hp ht hg hk

theorem exec_hitarrWrite_refused (h : k = 0 ∨ k = 4 ∨ k = 7 ∨ arrKind s p (tcf s p t 0 3 1) (rfld v 1 4) ≠ 1) :
    exec (.hitarrWrite req 15 p t v) s = .next (wrN s (Reg.STA_TBL_CFG_STATUS p) (1 + 2 * 7 + 256 * t)) := by
  refine congrArg Host.Outcome.next ((if_pos ?_).trans ((gate_open hg).trans (if_pos ?_)))
  · rw [decide_eq_true hp, decide_eq_true ht]; rfl
  · rw [hk]; simpa [or_assoc] using h
theorem exec_hitarrWrite_binds (h0 : k ≠ 0) (h4 : k ≠ 4) (h7 : k ≠ 7) (ha : arrKind s p (tcf s p t 0 3 1) (rfld v 1 4) = 1) :
    exec (.hitarrWrite req 15 p t v) s = .next (plainWrite s (Reg.STA_TBL_HITARR p t) 0x1F v) := by
  refine congrArg Host.Outcome.next ((if_pos ?_).trans ((gate_open hg).trans (if_neg ?_)))
  · rw [decide_eq_true hp, decide_eq_true ht]; rfl
  · rw [hk, ha, decide_eq_false h0, decide_eq_false h4, decide_eq_false h7]; decide

end

/-- Settles O32: each command answers the state that its lemma names. -/
theorem telemetryCommandsComplete : Obligations.TelemetryCommandsComplete := by
  unfold Obligations.TelemetryCommandsComplete
  refine ⟨?deliver, fun s src key w hw ho => ⟨exec_rateLimitWindow_counted hw ho, exec_rateLimitWindow_quiet hw ho⟩, fun s req r v hr hp => ?ring, fun s req p t v hp ht hg => ?hits⟩
  case deliver =>
    intro s e he hz hl u
    refine ⟨fun h0 => exec_eventDeliver he (deliver_off hl h0) hz, ?_, fun h0 hc hp => exec_eventDeliver he (deliver_nowhere hl h0 hc hp) hz⟩
    intro j c h0 hc h7 hs ht x hr
    refine exec_eventDeliver he (deliver_ring hl h0 hc h7 hs ht rfl hr) ?_
    rw [(ringPut_k ..).keeps.ev, (ringFlush_k ..).keeps.ev]
    exact hz
  case ring =>
    have hx := exec_tmRingBind hr hp v
    exact ⟨fun c h0 hc => hx.trans (congrArg Host.Outcome.next (tmCtlWrite_refused h0 hc)), fun h0 hc => hx.trans (congrArg Host.Outcome.next (tmCtlWrite_binds h0 hc)),
      fun h0 hh => hx.trans (congrArg Host.Outcome.next (tmCtlWrite_unbinds h0 hh)),
      fun h0 hh hq hb => hx.trans (congrArg Host.Outcome.next (tmCtlWrite_rehearsed h0 hh hq hb))⟩
  case hits => exact ⟨exec_hitarrWrite_refused hp ht hg rfl, exec_hitarrWrite_binds hp ht hg rfl⟩

end Sys2Proof.Machine
end

section
/-! PROOFS. Mailbox commands of information and firmware update (O33). -/

namespace Sys2Proof.Machine

section
variable {s : State} {req : Requester} {v : W32}

/-! Information, the log and the management port (R640, R650). -/

theorem exec_info (h : MbReady s req v 0x01) : exec (.info req 15 v) s =
    .next (mbEnd s STS_OK ((List.range 4).map (fun k => Config.deviceId / 2 ^ (32 * k) % 2 ^ 32) ++ [rdN s Reg.OZ_IMAGE, rdN s Reg.OZ_SVN])) :=
  congrArg Host.Outcome.next (mbRow_ready h rfl)

section
variable {a ms : List Nat} {env : Env} (ha : mbArgs s = a) (hn : argOf a 3 ≤ 4096)
  (hm : (List.range (min (rdN s Reg.OZ_LOG_NEXT) (argOf a 2 + argOf a 3) - max (argOf a 2) (logOldest s))).map (max (argOf a 2) (logOldest s) + ·) = ms)
include hn hm

theorem mbLogRead_none (h0 : ms = []) : mbLogRead s a env = mbOk s [0, logOldest s, rdN s Reg.OZ_LOG_NEXT] := by
  simp only [mbLogRead, if_neg (Nat.not_lt.mpr hn), gt_iff_lt, hm, h0, List.isEmpty_nil, if_true]
theorem mbLogRead_some {w : State} (h0 : ms ≠ []) (hw : ozPut s (argAddr a 0) (ms.flatMap (logRead s)) env = (w, STS_OK)) :
    mbLogRead s a env = mbOk w [ms.length, logOldest s, rdN s Reg.OZ_LOG_NEXT] := by
  have h0' : ms.isEmpty = false := by rwa [List.isEmpty_eq_false_iff]
  simp only [mbLogRead, if_neg (Nat.not_lt.mpr hn), gt_iff_lt, hm, h0', hw, Bool.false_eq_true, if_false, if_true]

include ha

theorem exec_logRead_none (h : MbReady s req v 0x02) (h0 : ms = []) :
    exec (.logRead req 15 v env) s = .next (mbEnd s STS_OK [0, logOldest s, rdN s Reg.OZ_LOG_NEXT]) := by
  subst ha
  exact congrArg Host.Outcome.next (mbRow_ready h (mbLogRead_none hn hm h0))
theorem exec_logRead_some {w : State} (h : MbReady s req v 0x02) (h0 : ms ≠ []) (hw : ozPut s (argAddr a 0) (ms.flatMap (logRead s)) env = (w, STS_OK)) :
    exec (.logRead req 15 v env) s = .next (mbEnd w STS_OK [ms.length, logOldest s, rdN s Reg.OZ_LOG_NEXT]) := by
  subst ha
  exact congrArg Host.Outcome.next (mbRow_ready h (mbLogRead_some hn hm h0 hw))

end

theorem mbBindMgmt_binds {a : List Nat} (hb : argOf a 0 = 0 ∨ (inPort s (argOf a 0)).isSome = true) (env : Env) :
    mbBindMgmt s a env = mbOk (ozUpd s (fun z => { z with mgmt := argOf a 0 })) := by
  refine if_neg ?_
  rw [Bool.and_eq_true, decide_eq_true_eq, Option.isNone_iff_eq_none]
  rintro ⟨h0, hn⟩
  exact hb.elim h0 (by rw [hn]; exact Bool.false_ne_true)
theorem exec_bindMgmt (h : MbReady s req v 0x03) (hb : argOf (mbArgs s) 0 = 0 ∨ (inPort s (argOf (mbArgs s) 0)).isSome = true) :
    exec (.bindMgmt req 15 v) s = .next (mbEnd (ozUpd s (fun z => { z with mgmt := argOf (mbArgs s) 0 })) STS_OK []) :=
  congrArg Host.Outcome.next (mbRow_ready h (mbBindMgmt_binds hb _))

/-! The update session (R653, R654). -/

/-- Outside an update session a route begins one. -/
theorem fwBegin_idle (h0 : s.oz.step = 0) (route : Nat) : fwBegin s route =
    (fwStage (ozUpd (flashErase s (slotAddr (otherSlot s)) (slotAddr (otherSlot s) + slotBytes)) (fun z => { z with route := route, step := 1 })) 1 (otherSlot s) 0, STS_OK) :=
  if_neg (not_not_intro h0)
/-- The mailbox verifies its own session with the outcome of the image's checks. -/
theorem fwVerify_mailbox (hr : s.oz.route = 0) (h12 : s.oz.step = 1 ∨ s.oz.step = 2) : fwVerify s 0 =
    if imageCheck s (otherSlot s) ≠ STS_OK then (s, imageCheck s (otherSlot s))
    else (fwStage (ozUpd s (fun z => { z with step := 2 })) 3 (otherSlot s) (imgSvn s (otherSlot s)), STS_OK) := by
  refine if_neg ?_
  rw [hr]
  obtain h | h := h12 <;> rw [h] <;> decide
theorem mbFwVerify_ends (hr : s.oz.route = 0) (h12 : s.oz.step = 1 ∨ s.oz.step = 2) {w : State}
    (hw : fwStage (ozUpd s (fun z => { z with step := 2 })) 3 (otherSlot s) (imgSvn s (otherSlot s)) = w) (a : List Nat) (env : Env) :
    mbFwVerify s a env = if imageCheck s (otherSlot s) = STS_OK then mbOk w [imgSvn w (otherSlot w)] else mbFail s (imageCheck s (otherSlot s)) := by
  by_cases hc : imageCheck s (otherSlot s) = STS_OK
  · simp only [mbFwVerify, fwVerify_mailbox hr h12, hw, hc, ne_eq, not_true_eq_false, if_false, if_true]
  · simp only [mbFwVerify, fwVerify_mailbox hr h12, hc, ne_eq, not_false_eq_true, if_false, if_true]
theorem exec_fwVerify (h : MbReady s req v 0x12) (hr : s.oz.route = 0) (h12 : s.oz.step = 1 ∨ s.oz.step = 2) {w : State}
    (hw : fwStage (ozUpd s (fun z => { z with step := 2 })) 3 (otherSlot s) (imgSvn s (otherSlot s)) = w) :
    exec (.fwVerify req 15 v) s =
      .next (if imageCheck s (otherSlot s) = STS_OK then mbEnd w STS_OK [imgSvn w (otherSlot w)] else mbEnd s (imageCheck s (otherSlot s)) []) := by
  have hrun := mbFwVerify_ends hr h12 hw (mbArgs s) {}
  by_cases hc : imageCheck s (otherSlot s) = STS_OK
  · rw [if_pos hc] at hrun ⊢
    exact congrArg Host.Outcome.next (mbRow_ready h hrun)
  · rw [if_neg hc] at hrun ⊢
    exact congrArg Host.Outcome.next (mbRow_ready h hrun)

/-- The rolling update of the tillers begins where it is asked for. -/
def rollTillers (s : State) (on : Bool) : State := if on then { s with unit := { s.unit with rolling := List.range 32 } } else s

/-- The verified slot becomes ACTIVE, and Ozelm and the tillers go over as asked. -/
theorem fwActivate_verified (hr : s.oz.route = 0) (h2 : s.oz.step = 2) {o : Nat} {u t : State} (ho : otherSlot s = o)
    (hu : showImage (bootWrite (ozUpd s (fun z => { z with step := 3 })) o 1 1) = u) (ht : fwStage u 4 o (imgSvn u o) = t) (ozelm tillers : Bool) :
    fwActivate s 0 ozelm tillers = (if ozelm then ozRestart (rollTillers t tillers) o 2 else rollTillers t tillers, STS_OK) := by
  subst ho hu ht
  simp only [fwActivate, hr, h2, ne_eq, not_true_eq_false, decide_false, Bool.or_self, Bool.false_eq_true, if_false, rollTillers]

section
variable (hd : deferral s = false)
include hd

/-- Where flash writes are not deferred the supply is steady. -/
theorem unsteady_of_deferral : unsteady s = false := (Bool.or_eq_false_iff.mp hd).1

theorem exec_fwBegin (h : MbReady s req v 0x10) (h0 : s.oz.step = 0) : exec (.fwBegin req 15 v) s = .next (mbEnd
    (fwStage (ozUpd (flashErase s (slotAddr (otherSlot s)) (slotAddr (otherSlot s) + slotBytes)) (fun z => { z with route := 0, step := 1 })) 1 (otherSlot s) 0) STS_OK []) := by
  refine congrArg Host.Outcome.next (mbRow_ready h ((if_neg (ne_true_of_eq_false hd)).trans ?_))
  show (match fwBegin s 0 with | (s, c) => some (s, c, [])) = _
  rw [fwBegin_idle h0]

/-- Bytes that fit enter the inactive slot while a session of the mailbox takes them. -/
theorem mbFwWrite_writes {a : List Nat} {env : Env} {u : State} {bs : List Byte} (h1 : s.oz.step = 1) (hr : s.oz.route = 0) (hn : 0 < argOf a 3)
    (hl : argOf a 2 + argOf a 3 ≤ slotBytes) (hb : mbData s (argAddr a 0) (argOf a 3) env = some (u, bs)) :
    mbFwWrite s a env = some (flashPut u (slotAddr (otherSlot u) + argOf a 2) bs, STS_OK, []) := by
  obtain ⟨hlen, hoz⟩ := mbData_keeps hb
  have hu : fwWrite u 0 (argOf a 2) bs = (flashPut u (slotAddr (otherSlot u) + argOf a 2) bs, STS_OK) := by
    simp only [fwWrite, hlen, if_neg (Nat.not_lt.mpr hl), gt_iff_lt, hoz, h1, hr, ne_eq, not_true_eq_false, decide_false, Bool.and_false, Bool.false_eq_true, if_false]
  simp only [mbFwWrite, if_neg (Nat.not_lt.mpr hl), gt_iff_lt, h1, hr, hd, if_neg (Nat.pos_iff_ne_zero.mp hn), ne_eq, not_true_eq_false, decide_false, Bool.or_self,
    Bool.false_eq_true, if_false, mbRead_ready hb, hu]
theorem exec_fwWrite {env : Env} {u : State} {bs : List Byte} (h : MbReady s req v 0x11) (h1 : s.oz.step = 1) (hr : s.oz.route = 0) (hn : 0 < argOf (mbArgs s) 3)
    (hl : argOf (mbArgs s) 2 + argOf (mbArgs s) 3 ≤ slotBytes) (hb : mbData s (argAddr (mbArgs s) 0) (argOf (mbArgs s) 3) env = some (u, bs)) :
    exec (.fwWrite req 15 v env) s = .next (mbEnd (flashPut u (slotAddr (otherSlot u) + argOf (mbArgs s) 2) bs) STS_OK []) :=
  congrArg Host.Outcome.next (mbRow_ready h (mbFwWrite_writes hd h1 hr hn hl hb))

theorem exec_fwActivate (h : MbReady s req v 0x13) (hr : s.oz.route = 0) (h2 : s.oz.step = 2) {o : Nat} {u t : State} (ho : otherSlot s = o)
    (hu : showImage (bootWrite (ozUpd s (fun z => { z with step := 3 })) o 1 1) = u) (ht : fwStage u 4 o (imgSvn u o) = t) :
    exec (.fwActivate req 15 v) s = .next (mbEnd (if (argOf (mbArgs s) 0).testBit 0 then ozRestart (rollTillers t ((argOf (mbArgs s) 0).testBit 1)) o 2
      else rollTillers t ((argOf (mbArgs s) 0).testBit 1)) STS_OK []) := by
  refine congrArg Host.Outcome.next (mbRow_ready h ((if_neg (ne_true_of_eq_false hd)).trans ?_))
  show (match fwActivate s 0 ((argOf (mbArgs s) 0).testBit 0) ((argOf (mbArgs s) 0).testBit 1) with | (s, c) => some (s, c, [])) = _
  rw [fwActivate_verified hr h2 ho hu ht]

theorem exec_fwCommit (h : MbReady s req v 0x14) (hp : bootPending s = true) {svn : Nat} {u w t : State} (hv : imgSvn s (activeSlot s) = svn)
    (hu : bootWrite s (activeSlot s) 0 (fld (bootState s) 2 1) = u) (hw : showImage (ozUpd u (fun z => { z with svn := max z.svn svn, step := 0, route := 0 })) = w)
    (ht : fwStage w 5 (activeSlot w) svn = t) : exec (.fwCommit req 15 v) s = .next (mbEnd t STS_OK [t.oz.svn]) := by
  have hs := unsteady_of_deferral hd
  have hc : fwCommit s = (t, STS_OK) := by
    subst hv hu hw ht
    simp only [fwCommit, hp, hs, Bool.not_true, Bool.and_false, Bool.false_eq_true, if_false]
  refine congrArg Host.Outcome.next (mbRow_ready h ?_)
  show mbFwCommit s _ _ = _
  simp only [mbFwCommit, hp, hs, hd, hc, Bool.not_true, Bool.and_false, Bool.false_eq_true, if_false]

theorem exec_fwRevert (h : MbReady s req v 0x15) (hp : bootPending s = true) {o : Nat} {u : State} (ho : otherSlot s = o) (hu : showImage (bootWrite s o 0 0) = u) :
    exec (.fwRevert req 15 v) s = .next (mbEnd (ozRestart (fwStage (ozUpd u (fun z => { z with step := 0 })) 6 o (imgSvn u o)) o 3) STS_OK []) := by
  subst ho hu
  refine congrArg Host.Outcome.next (mbRow_ready h ?_)
  show mbFwRevert s _ _ = _
  simp only [mbFwRevert, fwRevert, hp, hd, Bool.not_true, Bool.and_false, Bool.false_eq_true, if_false]

end

end

/-- Settles O33: each command answers the state that its lemma names. -/
theorem updateCommandsComplete : Obligations.UpdateCommandsComplete := by
  unfold Obligations.UpdateCommandsComplete
  intro s req v a o
  refine ⟨exec_info, ?logRead, exec_bindMgmt, fun h hd h0 => exec_fwBegin hd h h0, fun env h hd h1 hr hn hl u bs hb => exec_fwWrite hd h h1 hr hn hl hb, ?verify, ?activate, ?commit, ?revert⟩
  case logRead =>
    intro env h hn first ms
    exact ⟨exec_logRead_none rfl hn rfl h, fun w h0 hw => exec_logRead_some rfl hn rfl h h0 hw⟩
  case verify =>
    intro h hr h12 w
    exact exec_fwVerify h hr h12 rfl
  case activate =>
    intro h hd hr h2 u t w
    exact exec_fwActivate hd h hr h2 rfl rfl rfl
  case commit =>
    intro h hd hp svn u w w'
    exact exec_fwCommit hd h hp rfl rfl rfl rfl
  case revert =>
    intro h hd hp u
    exact exec_fwRevert hd h hp rfl rfl

end Sys2Proof.Machine
end

section
/-! PROOFS. Mailbox commands of keys, life cycle, tokens and restart (O34). -/

namespace Sys2Proof.Machine

section
variable {s u : State} {req : Requester} {v : W32} {env : Env} {bs : List Byte}

/-! Keys, life cycle and the configuration record (R455, R651, R658). -/

theorem exec_ozKeyErase (h : MbReady s req v 0x20) : exec (.ozKeyErase req 15 v) s = .next (mbEnd (keyErase (closeWindow s) 16) STS_OK []) :=
  congrArg Host.Outcome.next (mbRow_ready h rfl)

/-- From FACTORY the part moves to FIELD under the owner's key that it reads. -/
theorem mbLcTransition_field {a : List Nat} (hs : unsteady s = false) (h0 : s.oz.lc = 0) (h1 : argOf a 0 = 1) (hb : mbData s (argAddr a 1) 97 env = some (u, bs)) :
    mbLcTransition s a env = mbOk (lcMove u 1 (Config.sha384 bs)) := by
  simp only [mbLcTransition, h0, h1, decide_true, Bool.and_self, Bool.true_or, Bool.not_true, Bool.false_eq_true, if_false, hs, if_true, mbRead_ready hb]
/-- Later moves take a token: of the owner from FIELD, of the vendor from RETURN. -/
theorem mbLcTransition_token {a : List Nat} {r : State × Bool} (hs : unsteady s = false)
    (hm : (s.oz.lc = 1 ∧ argOf a 0 = 2) ∨ (s.oz.lc = 1 ∧ argOf a 0 = 3) ∨ (s.oz.lc = 2 ∧ argOf a 0 = 3)) (hb : mbData s (argAddr a 1) 264 env = some (u, bs))
    (hr : tokenCheck u bs [if argOf a 0 = 2 then 3 else 4] (s.oz.lc == 2) = r) :
    mbLcTransition s a env = if r.2 then mbOk (lcMove r.1 (argOf a 0) []) else mbFail r.1 STS_TOKEN := by
  have h0 : s.oz.lc ≠ 0 := by omega
  have hmay : ((s.oz.lc = 1 && (argOf a 0 = 2 || argOf a 0 = 3)) || (s.oz.lc = 2 && argOf a 0 = 3)) = true := by
    obtain ⟨h, h'⟩ | ⟨h, h'⟩ | ⟨h, h'⟩ := hm <;> rw [h, h'] <;> decide
  simp only [mbLcTransition, h0, decide_false, Bool.false_and, Bool.false_or, hmay, hs, Bool.not_true, Bool.false_eq_true, if_false, mbRead_ready hb, hr]
  obtain ⟨w, ok⟩ := r
  cases ok <;> rfl

theorem exec_lcTransition_field (h : MbReady s req v 0x21) (hs : unsteady s = false) (h0 : s.oz.lc = 0) (h1 : argOf (mbArgs s) 0 = 1)
    (hb : mbData (closeWindow s) (argAddr (mbArgs s) 1) 97 env = some (u, bs)) :
    exec (.lcTransition req 15 v env) s = .next (mbEnd (lcMove u 1 (Config.sha384 bs)) STS_OK []) :=
  congrArg Host.Outcome.next (mbRow_ready h (mbLcTransition_field (s := closeWindow s) hs h0 h1 hb))
theorem exec_lcTransition_token {r : State × Bool} (h : MbReady s req v 0x21) (hs : unsteady s = false)
    (hm : (s.oz.lc = 1 ∧ argOf (mbArgs s) 0 = 2) ∨ (s.oz.lc = 1 ∧ argOf (mbArgs s) 0 = 3) ∨ (s.oz.lc = 2 ∧ argOf (mbArgs s) 0 = 3))
    (hb : mbData (closeWindow s) (argAddr (mbArgs s) 1) 264 env = some (u, bs)) (hr : tokenCheck u bs [if argOf (mbArgs s) 0 = 2 then 3 else 4] (s.oz.lc == 2) = r) :
    exec (.lcTransition req 15 v env) s = .next (if r.2 then mbEnd (lcMove r.1 (argOf (mbArgs s) 0) []) STS_OK [] else mbEnd r.1 STS_TOKEN []) := by
  have hrun := mbLcTransition_token (s := closeWindow s) hs hm hb hr
  obtain ⟨w, ok⟩ := r
  cases ok <;> exact congrArg Host.Outcome.next (mbRow_ready h hrun)

theorem mbBcrWrite_good {a : List Nat} (hd : deferral s = false) (hb : mbData s (argAddr a 0) 4096 env = some (u, bs)) (hg : bcrGood bs = true) :
    mbBcrWrite s a env = mbOk (flashPut (flashPut u 0 bs) 0x1000 bs) := by
  simp only [mbBcrWrite, hd, Bool.false_eq_true, if_false, mbRead_ready hb, hg, if_true]
theorem exec_bcrWrite (h : MbReady s req v 0x22) (hd : deferral s = false) (hb : mbData (closeWindow s) (argAddr (mbArgs s) 0) 4096 env = some (u, bs))
    (hg : bcrGood bs = true) : exec (.bcrWrite req 15 v env) s = .next (mbEnd (flashPut (flashPut u 0 bs) 0x1000 bs) STS_OK []) :=
  congrArg Host.Outcome.next (mbRow_ready h (mbBcrWrite_good (s := closeWindow s) hd hb hg))

/-! Restart (R656). -/

/-- A command that is ready runs and ends the mailbox's use. -/
theorem mbStart_ready {op : Nat} {run : MbRun} {sts : Byte} {rs : List Nat} (h : MbReady s req v op) (hg : (op / 16 == 2) = true)
    (hr : run (closeWindow s) (mbArgs s) env = some (u, sts, rs)) : mbStart (closeWindow s) v env run = mbEnd u sts rs := by
  have hrow : mbRow s req 15 v op env run = mbEnd u sts rs := mbRow_ready h (by rw [mbState, hg]; exact hr)
  obtain ⟨hop, hp, -⟩ := h
  rw [hg] at hp
  rw [← hrow, mbRow, if_neg (not_not_intro hop), hg, gate_window hp]
/-- Ozelm restarts into the slot that runs once its command has ended. -/
theorem exec_ozRestart {x : State} (h : MbReady s req v 0x23) (hx : mbEnd (closeWindow s) STS_OK [] = x) :
    exec (.ozRestart req 15 v) s = .next (ozRestart x (activeSlot x) 1) := by
  have hstart : mbStart (closeWindow s) v {} mbOzRestart = x := (mbStart_ready h rfl rfl).trans hx
  obtain ⟨hop, hp, hlc, hrun, hbusy, -⟩ := h
  refine congrArg Host.Outcome.next ((if_neg (not_not_intro hop)).trans ((gate_window hp).trans ?_))
  have hafter : (decide (rfld v 0 8 = 0x23) && ozRunning (closeWindow s) && decide ((closeWindow s).oz.lc ≠ 3) && decide (rdF (closeWindow s) Reg.OZ_MB_CMD 8 1 = 0)) = true := by
    rw [decide_eq_true hop, show ozRunning (closeWindow s) = true from hrun, decide_eq_true (show (closeWindow s).oz.lc ≠ 3 from hlc),
      decide_eq_true (show rdF (closeWindow s) Reg.OZ_MB_CMD 8 1 = 0 from hbusy)]
    rfl
  simp only [mbWrite, hop, mbRunOf, hstart, mbRestartAfter]
  exact if_pos (by rw [hop] at hafter; exact hafter)

/-! Tokens and debug scopes (R659). -/

theorem exec_nonce (h : MbReady s req v 0x30) (hd : drbgUp s = true) {n : Nat} (hn : (draw s).1 % 2 ^ 128 = n) : exec (.nonce req 15 v) s =
    .next (mbEnd (ozUpd (draw s).2 (fun o => { o with nonce := some (n, s.time.elapsed) })) STS_OK ((List.range 4).map (fun k => n / 2 ^ (32 * k) % 2 ^ 32))) := by
  subst hn
  refine congrArg Host.Outcome.next (mbRow_ready h ?_)
  show mbNonce s _ _ = _
  simp only [mbNonce, hd, Bool.not_true, Bool.false_eq_true, if_false]
  rfl

theorem mbDebugOpen_token {a : List Nat} {r : State × Bool} {kind sl : Nat} (hl : s.oz.lc = 1 ∨ s.oz.lc = 2) (hb : mbData s (argAddr a 0) 264 env = some (u, bs))
    (hr : tokenCheck u bs [if s.oz.lc = 2 then 2 else 1] (s.oz.lc == 2) = r) (hk : leAt bs 4 1 = kind) (hs : leAt bs 6 2 % 2 ^ 14 = sl) :
    mbDebugOpen s a env = if r.2 then mbOk (scopeOpen r.1 kind sl (leAt bs 0x28 8) bs) else mbFail (raise r.1 0x048 [(4, 1), (4, kind), (4, sl)]) STS_TOKEN := by
  have hlc : (decide (s.oz.lc ≠ 1) && decide (s.oz.lc ≠ 2)) = false := by
    obtain h | h := hl <;> rw [h] <;> rfl
  obtain ⟨-, hoz⟩ := mbData_keeps hb
  rw [← hoz] at hr
  simp only [mbDebugOpen, hlc, Bool.false_eq_true, if_false, mbRead_ready hb, hr, hk, hs]
  obtain ⟨w, ok⟩ := r
  cases ok <;> rfl
theorem exec_debugOpen {r : State × Bool} {kind sl : Nat} (h : MbReady s req v 0x31) (hl : s.oz.lc = 1 ∨ s.oz.lc = 2)
    (hb : mbData s (argAddr (mbArgs s) 0) 264 env = some (u, bs)) (hr : tokenCheck u bs [if s.oz.lc = 2 then 2 else 1] (s.oz.lc == 2) = r) (hk : leAt bs 4 1 = kind)
    (hs : leAt bs 6 2 % 2 ^ 14 = sl) : exec (.debugOpen req 15 v env) s = .next
      (if r.2 then mbEnd (scopeOpen r.1 kind sl (leAt bs 0x28 8) bs) STS_OK [] else mbEnd (raise r.1 0x048 [(4, 1), (4, kind), (4, sl)]) STS_TOKEN []) := by
  have hrun := mbDebugOpen_token hl hb hr hk hs
  obtain ⟨w, ok⟩ := r
  cases ok <;> exact congrArg Host.Outcome.next (mbRow_ready h hrun)

theorem exec_debugClose (h : MbReady s req v 0x32) : exec (.debugClose req 15 v) s = .next (mbEnd (scopeClose s) STS_OK []) :=
  congrArg Host.Outcome.next (mbRow_ready h rfl)
theorem exec_debugExpiry {kind sl e : Nat} (hs : s.oz.scope = some (kind, sl, e)) (h0 : e ≠ 0) (he : e ≤ nowNs s) : exec .debugExpiry s = .next (scopeClose s) := by
  refine congrArg Host.Outcome.next ?_
  simp only [hs, h0, he, ne_eq, not_false_eq_true, decide_true, Bool.and_self, if_true]

/-! Probes of a spare stair (R657). -/

/-- What a probe writes of the outcome of its vector. -/
def probeResult (vec md : List Byte) (c : Climb) : List Byte :=
  let sig := intentSig (c.shed ++ c.intents)
  pack 16 [(0, 0, 1, b2n (probeMatch vec md sig && !c.gone)), (0, 1, 3, mdDisp md), (0, 4, 8, mdReason md), (4, 0, 18, mdQueue md), (8, 0, 32, mdHandle md),
    (0xC, 0, 32, sig)] ++ slice md 0x60 32 ++ List.replicate 16 0

theorem mbStairProbe_runs {a : List Nat} {q : Nat} {w : State} {md : List Byte} {c : Climb} (hq : spareStair s = some q) (hr : rhRunning s = false)
    (hb : mbData s (argAddr a 0) 704 env = some (u, bs)) (hm : probeMay u (mdSlice (slice bs 8 128)) = true) (hp : probeVec u q bs = (w, md, c)) :
    mbStairProbe s a env = some ((ozPut w (argAddr a 2) (probeResult bs md c) env).1, (ozPut w (argAddr a 2) (probeResult bs md c) env).2, []) := by
  simp only [mbStairProbe, hq, hr, Bool.false_eq_true, if_false, mbRead_ready hb, hm, Bool.not_true, hp]
  rfl
theorem exec_stairProbe {q : Nat} {w : State} {md : List Byte} {c : Climb} {x : State × Byte} (h : MbReady s req v 0x18) (hq : spareStair s = some q)
    (hr : rhRunning s = false) (hb : mbData s (argAddr (mbArgs s) 0) 704 env = some (u, bs)) (hm : probeMay u (mdSlice (slice bs 8 128)) = true)
    (hp : probeVec u q bs = (w, md, c)) (hx : ozPut w (argAddr (mbArgs s) 2) (probeResult bs md c) env = x) :
    exec (.stairProbe req 15 v env) s = .next (mbEnd x.1 x.2 []) := by
  subst hx
  exact congrArg Host.Outcome.next (mbRow_ready h (mbStairProbe_runs hq hr hb hm hp))

end

/-- Settles O34: each command answers the state that its lemma names. -/
theorem lifeCycleCommandsComplete : Obligations.LifeCycleCommandsComplete := by
  unfold Obligations.LifeCycleCommandsComplete
  refine ⟨?mailbox, fun s kind sl e => exec_debugExpiry⟩
  intro s req v a w
  refine ⟨exec_ozKeyErase, fun env u bs h hs h0 h1 hb => exec_lcTransition_field h hs h0 h1 hb, ?token, fun env u bs h hd hb hg => exec_bcrWrite h hd hb hg,
    fun h => exec_ozRestart h rfl, fun h hd => exec_nonce h hd rfl, ?opens, exec_debugClose, ?probe⟩
  case token => exact fun env u bs h hs hm hb => exec_lcTransition_token h hs hm hb rfl
  case opens => exact fun env u t h hl hb => exec_debugOpen h hl hb rfl rfl rfl
  case probe => exact fun env q u t h hq hr hb hm => exec_stairProbe h hq hr hb hm rfl rfl

end Sys2Proof.Machine
end

section
/-! PROOFS. Management, supply, temperature, the log, restarts and start-up (O35). -/

namespace Sys2Proof.Machine

/-! Management (R638 to R641). -/

section
variable {s : State} {iface : Nat} (hi : iface < 18) (hr : ozRunning s = true) (hlc : s.oz.lc ≠ 3)
include hi hr hlc

/-- On an interface that exists a running Ozelm looks at the message. -/
theorem mgmtMsg_heard : (!ozRunning s || s.oz.lc = 3 || iface ≥ 18) = false := by
  rw [hr, decide_eq_false hlc, decide_eq_false (Nat.not_le.mpr hi)]; rfl

theorem exec_mctpMessage_plain : exec (.mctpMessage iface .plain) s = .next (answer s iface 0) := congrArg Host.Outcome.next (mgmtMsg_plain hr hlc hi)
theorem exec_mctpMessage_attest : exec (.mctpMessage iface .attest) s = .next (answer s iface 0) :=
  congrArg Host.Outcome.next (if_neg (ne_true_of_eq_false (mgmtMsg_heard hi hr hlc)))
theorem exec_mctpMessage_measure (k : Nat) : exec (.mctpMessage iface (.measure k)) s = .next (answer s iface 0 (measured s k)) :=
  congrArg Host.Outcome.next (if_neg (ne_true_of_eq_false (mgmtMsg_heard hi hr hlc)))
theorem exec_mctpMessage_session : exec (.mctpMessage iface .session) s = .next (answer s iface (if ownerIface s iface then 0 else 1)) :=
  congrArg Host.Outcome.next (if_neg (ne_true_of_eq_false (mgmtMsg_heard hi hr hlc)))
/-- The owner begins an update session over PLDM. -/
theorem exec_mctpMessage_fwBegin (hd : deferral s = false) (h0 : s.oz.step = 0) (ho : ownerIface s iface = true) {o : Nat} (hslot : otherSlot s = o) :
    exec (.mctpMessage iface .fwBegin) s = .next
      (answer (fwStage (ozUpd (flashErase s (slotAddr o) (slotAddr o + slotBytes)) (fun z => { z with route := 1, step := 1 })) 1 o 0) iface 0) := by
  subst hslot
  refine congrArg Host.Outcome.next ((if_neg (ne_true_of_eq_false (mgmtMsg_heard hi hr hlc))).trans ?_)
  simp only [ho, hd, fwBegin_idle h0, Bool.not_true, Bool.false_eq_true, if_false]
  rfl

end

theorem exec_mgmtFrameReceive {s w : State} {bs : List Byte} (hm : s.oz.mgmt ≠ 0) (hp : punt s 0xF 0 s.oz.mgmt (fit 128 (le 8 (nowNs s))) bs 0 = some w) :
    exec (.mgmtFrameReceive bs true) s = .next w := by
  refine congrArg Host.Outcome.next ?_
  simp only [hm, hp, decide_false, Bool.not_true, Bool.or_self, Bool.false_eq_true, if_false, Option.getD_some]
theorem exec_mgmtFrameSend {s : State} {addr len : Nat} (h : addr + len ≤ fwBytes s) :
    exec (.mgmtFrameSend addr len) s = .next (emit s (.mgmtFrame (memGets s.mem (fwBase + addr) len))) := congrArg Host.Outcome.next (if_pos h)

section
variable {s : State} {rail : Nat} (hrail : rail < 7)
include hrail

section
variable (hb : bcrPmb s rail ≠ 0) (hr : ozRunning s = true)
include hb hr

/-- A regulator that Ozelm polls. -/
theorem pmbus_polled : (decide (rail ≥ 7) || decide (bcrPmb s rail = 0) || !ozRunning s) = false := by
  rw [decide_eq_false (Nat.not_le.mpr hrail), decide_eq_false hb, hr]; rfl

theorem exec_pmbusPoll_quiet : exec (.pmbusPoll rail (some 0)) s = .next (ozUpd s (fun o => { o with silent := adel o.silent rail })) :=
  congrArg Host.Outcome.next ((if_neg (ne_true_of_eq_false (pmbus_polled hrail hb hr))).trans (if_pos rfl))
theorem exec_pmbusPoll_silent (hn : agetD s.oz.silent rail 0 + 1 ≠ 3) :
    exec (.pmbusPoll rail none) s = .next (ozUpd s (fun o => { o with silent := aset o.silent rail (agetD s.oz.silent rail 0 + 1) })) :=
  congrArg Host.Outcome.next ((if_neg (ne_true_of_eq_false (pmbus_polled hrail hb hr))).trans (if_neg hn))
theorem exec_pmbusPoll_status {x : Nat} (h0 : 0 < x) (hx : x < 65536) {u : State} (hu : ozUpd s (fun o => { o with silent := adel o.silent rail }) = u) :
    exec (.pmbusPoll rail (some x)) s = .next (emit (raise u 0x04A [(4, rail), (4, x)]) (.control "CLEAR_FAULTS" [bcrPmb u rail])) := by
  subst hu
  have hm : x % 65536 = x := Nat.mod_eq_of_lt hx
  refine congrArg Host.Outcome.next ((if_neg (ne_true_of_eq_false (pmbus_polled hrail hb hr))).trans ?_)
  simp only [hm, if_neg (Nat.pos_iff_ne_zero.mp h0)]

end

/-! Supplies (R643 to R646). -/

theorem exec_supplyDip {mvs begun : List Nat} {u : State} (hl : mvs.length = railCount rail) (hw : railLow mvs < railWarn rail) (hd : aget s.oz.dips rail = none)
    (hbegun : (s.oz.begun.filter (fun t => s.time.elapsed < t + 1000 * msUnits)) ++ [s.time.elapsed] = begun)
    (hu : ozUpd (noteLows s (railFirst rail) mvs) (fun o => { o with dips := aset o.dips rail (s.time.elapsed, railLow mvs), begun := begun, left := none }) = u)
    (h16 : begun.length ≤ 16) : exec (.supplyDip rail mvs) s = .next (raise (bump (wrF u Reg.OZ_STATUS 3 1 1) Reg.OZ_DIP_CNT) 0x040 [(4, rail), (4, railLow mvs)]) := by
  subst hu hbegun
  refine congrArg Host.Outcome.next ((if_neg ?_).trans (if_neg ?_))
  · rw [decide_eq_false (Nat.not_le.mpr hrail), decide_eq_false (not_not_intro hl), decide_eq_false (Nat.not_le.mpr hw), hd]; decide
  · exact fun h => absurd (of_decide_eq_true (Bool.and_eq_true_iff.mp h).1) (Nat.not_lt.mpr h16)

theorem exec_supplyReset {mvs : List Nat} (hl : mvs.length = railCount rail) (hw : railLow mvs < railReset rail) (hg : s.oz.good = true) :
    exec (.supplyReset ⟨rail, mvs⟩) s = .next (ozUpd (coldReset s (if rail = 6 then 0 else 1 + 16 * rail)) (fun o => { o with good := true, down := some 0 })) := by
  refine congrArg Host.Outcome.next (if_pos ?_)
  rw [decide_eq_true hrail, decide_eq_true hl, decide_eq_true hw, hg]; rfl

end

/-- The last rail leaves its dip. -/
theorem exec_supplyClear_last {s u : State} {rail at' mv : Nat} {mvs lows : List Nat} (hd : s.oz.dips = [(rail, at', mv)]) (hl : mvs.length = railCount rail)
    (hl' : lows.length = railCount rail) (hc : railClear rail < railLow mvs)
    (hu : ozUpd (noteLows s (railFirst rail) lows) (fun o => { o with dips := [], left := some s.time.elapsed }) = u) :
    exec (.supplyClear rail ⟨mvs, lows⟩) s =
      .next (raise (wrF u Reg.OZ_STATUS 3 1 0) 0x041 [(4, rail), (4, (s.time.elapsed - at') / 65536), (4, min mv (railLow lows))]) := by
  subst hu
  have ha : aget s.oz.dips rail = some (at', mv) := by rw [hd]; exact if_pos rfl
  have hdel : adel (noteLows s (railFirst rail) lows).oz.dips rail = [] := by
    show adel s.oz.dips rail = []
    rw [hd]
    exact if_pos rfl
  refine congrArg Host.Outcome.next ?_
  simp only [ha, hl, hl', decide_eq_false (Nat.not_le.mpr hc), hdel, List.isEmpty_nil, ne_eq, not_true_eq_false, decide_false, Bool.or_self, Bool.false_eq_true, if_false, if_true]
  rfl

section
variable {s : State} {t : Nat}

theorem exec_throttleRelease (hl : s.oz.left = some t) (ht : t + 100 * usUnits ≤ s.time.elapsed) (hu : unsteady s = false) :
    exec .throttleRelease s = .next (ozResume (ozUpd s (fun o => { o with left := none }))) := by
  refine congrArg Host.Outcome.next ?_
  simp only [hl, ht, hu, decide_true, Bool.not_false, Bool.and_self, if_true]
theorem exec_unstableEnd (h4 : rdF s Reg.OZ_STATUS 4 1 = 1) (hb : s.oz.begun.all (fun t => decide (t + 1000 * msUnits ≤ s.time.elapsed)) = true) :
    exec .unstableEnd s = .next (ozResume (raisePhase (wrF (ozUpd s (fun o => { o with begun := [] })) Reg.OZ_STATUS 4 1 0) 0x042 4 [(4, 1)])) := by
  refine congrArg Host.Outcome.next (if_pos ?_)
  rw [decide_eq_true h4, hb]; rfl
theorem exec_supplyResetEnd {bifs clks perst mvs : List Nat} (hd : s.oz.down = some t) (hc : railsClear mvs = true) (ht : t + 10 * msUnits ≤ s.time.elapsed) :
    exec (.supplyResetEnd ⟨bifs, clks, perst, mvs⟩) s = .next (coldStart (ozUpd s (fun o => { o with bifs := bifs, clks := clks })) perst) := by
  refine congrArg Host.Outcome.next ?_
  simp only [hd, hc, ht, decide_true, Bool.and_self, if_true]
theorem exec_powerGood (bifs clks perst : List Nat) (hg : s.oz.good = false) :
    exec (.powerGood bifs clks perst []) s = .next (coldStart (ozUpd s (fun o => { o with bifs := bifs, clks := clks })) perst) :=
  congrArg Host.Outcome.next (if_neg (ne_true_of_eq_false hg))
theorem exec_powerGoodDeassert (hg : s.oz.good = true) : exec .powerGoodDeassert s = .next (coldReset s 0) := congrArg Host.Outcome.next (if_pos hg)

end

/-! Temperature (R648). -/

section
variable {s u : State} {sensor cur l : Nat} {r : Int} (hn : sensor < 64) (hg : s.oz.good = true) (h0 : rdN s Reg.OZ_TEMP_HWM ≠ 0)
  (hr : r ≤ signed 16 (rdF s Reg.OZ_TEMP_HWM 0 16)) (hu : wrN s Reg.OZ_TEMP_MAX (unsign 16 r + 65536 * sensor) = u) (hcur : rdF u Reg.OZ_STATUS 5 2 = cur)
  (hl : thermLevel cur r = l)
include hn hg h0 hr hu hcur hl

/-- A reading that sets no new high is shown, and its level is told from the one that holds. -/
theorem execThermalLevel_below : execThermalLevel sensor r s = .next (if l = cur then u else
    if l = 3 then ozUpd (warmReset (raise (drive (raise (wrF u Reg.OZ_STATUS 5 2 l) 0x043 [(4, l), (4, sensor), (4, unsign 32 r)]) .thermtripN 0 false)
      0x044 [(4, sensor), (4, unsign 32 r)]) 3) (fun o => { o with tripped := true })
    else if cur = 3 then drive (ozUpd (raise (wrF u Reg.OZ_STATUS 5 2 l) 0x043 [(4, l), (4, sensor), (4, unsign 32 r)]) (fun o => { o with tripped := false })) .thermtripN 0 true
    else raise (wrF u Reg.OZ_STATUS 5 2 l) 0x043 [(4, l), (4, sensor), (4, unsign 32 r)]) := by
  have hhwm : rd u Reg.OZ_TEMP_HWM = rd s Reg.OZ_TEMP_HWM := by
    rw [← hu]
    exact rd_wrN_ne _ _ (by decide)
  have hnew : (decide (rdN u Reg.OZ_TEMP_HWM = 0) || decide (r > signed 16 (rdF u Reg.OZ_TEMP_HWM 0 16))) = false := by
    rw [rdN_eq hhwm, rdF_eq hhwm, decide_eq_false h0, decide_eq_false (Int.not_lt.mpr hr)]; rfl
  refine congrArg Host.Outcome.next ((if_neg ?_).trans ?_)
  · rw [decide_eq_false (Nat.not_le.mpr hn), hg]; decide
  · simp only [hu, hnew, Bool.false_eq_true, if_false, hcur, hl]

theorem exec_thermalLevel_same (h : l = cur) : exec (.thermalLevel sensor r) s = .next u :=
  (execThermalLevel_below hn hg h0 hr hu hcur hl).trans (congrArg Host.Outcome.next (if_pos h))
theorem exec_thermalLevel_moves (h : l ≠ cur) (h3 : l ≠ 3) (hc3 : cur ≠ 3) :
    exec (.thermalLevel sensor r) s = .next (raise (wrF u Reg.OZ_STATUS 5 2 l) 0x043 [(4, l), (4, sensor), (4, unsign 32 r)]) :=
  (execThermalLevel_below hn hg h0 hr hu hcur hl).trans (congrArg Host.Outcome.next ((if_neg h).trans ((if_neg h3).trans (if_neg hc3))))
theorem exec_thermalLevel_trips (h : l ≠ cur) (h3 : l = 3) : exec (.thermalLevel sensor r) s =
    .next (ozUpd (warmReset (raise (drive (raise (wrF u Reg.OZ_STATUS 5 2 3) 0x043 [(4, 3), (4, sensor), (4, unsign 32 r)]) .thermtripN 0 false)
      0x044 [(4, sensor), (4, unsign 32 r)]) 3) (fun o => { o with tripped := true })) := by
  refine (execThermalLevel_below hn hg h0 hr hu hcur hl).trans (congrArg Host.Outcome.next ((if_neg h).trans ((if_pos h3).trans ?_)))
  rw [h3]

end

/-! The log, and restarts (R638, R650, R656). -/

theorem exec_logMirror {s : State} {m : Nat} {bs : List Byte} (ht : s.oz.todo ≠ 0) (hd : deferral s = false) (hr : ozRunning s = true)
    (hm : rdN s Reg.OZ_LOG_NEXT - s.oz.todo = m) (hf : s.oz.log.find? (fun e => e.1 == m) = some (m, bs)) (h128 : m % 128 ≠ 0) :
    exec .logMirror s = .next (ozUpd (flashPut s (logAddr m) bs) (fun o => { o with todo := o.todo - 1 })) := by
  refine congrArg Host.Outcome.next ?_
  simp only [ht, hd, hr, hm, hf, if_neg h128, decide_false, Bool.not_true, Bool.or_self, Bool.false_eq_true, if_false]

theorem exec_ozelmFault {s : State} {cause : Nat} (h4 : 4 ≤ cause) (h6 : cause ≤ 6) (hn : s.oz.restart = none) (hr : ozRunning s = true) :
    exec (.ozelmFault cause) s = .next (ozRestart s (activeSlot s) cause) := by
  refine congrArg Host.Outcome.next ?_
  simp only [decide_eq_false (Nat.not_lt.mpr h4), decide_eq_false (Nat.not_lt.mpr h6), gt_iff_lt, hn, hr, Bool.or_self, Bool.false_eq_true, if_false, if_true]

section
variable {s : State} {t slot cause : Nat} (hr : s.oz.restart = some (t, slot, cause))
include hr

theorem exec_ozelmRestartDone_boots {k : Nat} {u : State} (hb : slotBoots s slot = some (k, u)) :
    exec .ozelmRestartDone s = .next (raisePhase (ozelmRuns u k) 0x045 4 [(4, 1), (4, k), (4, cause)]) := by
  refine congrArg Host.Outcome.next ?_
  simp only [hr, hb]
theorem exec_ozelmRestartDone_stays (hb : slotBoots s slot = none) : exec .ozelmRestartDone s = .next s := by
  refine congrArg Host.Outcome.next ?_
  simp only [hr, hb]

end

/-! Start-up (R675, R677, R679). -/

/-- Training that finds one density in every device goes on, with the pool that it gives. -/
theorem bootTrain_uniform {s u : State} {d : Nat} (hd : d < 3) (hu : wrN s Reg.GL_CAP (d + 4) = u) :
    bootTrain s (List.replicate 16 d) = setStage { u with slices := aupd u.slices 0 (fun x => { x with limits := aset x.limits 7 (poolMib u) }) } 3 := by
  subst hu
  have hd' : densOk (List.replicate 16 d) = true ∧ (List.range 16).filter (fun c => argOf (List.replicate 16 d) c = 3) = [] ∧
      ((List.replicate 16 d).filter (· ≠ 3)).headD 0 = d := by
    obtain rfl | rfl | rfl : d = 0 ∨ d = 1 ∨ d = 2 := by omega
    all_goals decide
  obtain ⟨hok, hlost, hhead⟩ := hd'
  simp only [bootTrain, hok, hlost, hhead, Bool.not_true, Bool.false_eq_true, if_false, List.foldl_nil]

/-- The end of a stage of start-up while Ozelm runs. -/
def stageEnd (s : State) (r : BootRes) (stage : Nat) : State :=
  match stage with
  | 1 => setStage s 2
  | 2 => bootTrain s r.dens
  | 3 => bootTillers s r.failed
  | 4 => bootStairs s r
  | _ => s

section
variable {s : State} (hg : s.oz.good = true) (hd : s.oz.down = none) (hr : s.oz.restart = none)
include hg hd hr

theorem exec_pllLockTimeout (ho : ozRunning s = false) (h0 : rdF s Reg.GL_BOOT_STAGE 0 4 = 0) (ht : 5 * msUnits ≤ s.time.elapsed) :
    exec .pllLockTimeout s = .next (raise (bootStop (draw s).2) 0x04B [(4, 0), (4, (draw s).1 % 2 ^ 32)]) := by
  refine congrArg Host.Outcome.next (if_pos ?_)
  rw [hg, hd, hr, ho, decide_eq_true h0, decide_eq_true ht]; rfl

variable (ht : s.oz.tripped = false) (r : BootRes)
include ht

theorem exec_startupStage_rom (h5 : rdF s Reg.GL_BOOT_STAGE 0 4 < 5) (ho : ozRunning s = false) : exec (.startupStage r) s = .next (bootRom s) := by
  refine congrArg Host.Outcome.next ?_
  simp only [hg, hd, hr, ht, if_neg (Nat.not_le.mpr h5), ge_iff_le, ho, Option.isSome_none, Bool.not_true, Bool.not_false, Bool.or_self, Bool.false_eq_true, if_false, if_true]

variable (ho : ozRunning s = true)
include ho

/-- With Ozelm running the stage under way ends. -/
theorem exec_startupStage_running {stage : Nat} (h : rdF s Reg.GL_BOOT_STAGE 0 4 = stage) (h5 : stage < 5) :
    exec (.startupStage r) s = .next (stageEnd s r stage) := by
  refine congrArg Host.Outcome.next ?_
  simp only [hg, hd, hr, ht, ho, h, if_neg (Nat.not_le.mpr h5), ge_iff_le, Option.isSome_none, Bool.not_true, Bool.or_self, Bool.false_eq_true, if_false]
  rfl

end

/-- Settles O35: each event answers the state that its lemma names. -/
theorem powerEventsComplete : Obligations.PowerEventsComplete := by
  unfold Obligations.PowerEventsComplete
  refine ⟨?messages, fun s w bs => exec_mgmtFrameReceive, fun s addr len => exec_mgmtFrameSend, ?rails, ?supply, ?thermal, ?log, fun s cause => exec_ozelmFault, ?restarted, ?start,
    fun s m ppm => exec_clockMonitorExcursion⟩
  case messages =>
    intro s iface hi hr hlc
    refine ⟨exec_mctpMessage_plain hi hr hlc, exec_mctpMessage_attest hi hr hlc, exec_mctpMessage_measure hi hr hlc, exec_mctpMessage_session hi hr hlc, ?_⟩
    intro hd h0 ho o
    exact exec_mctpMessage_fwBegin hi hr hlc hd h0 ho rfl
  case rails =>
    intro s rail hrail
    refine ⟨fun hb hr => ⟨exec_pmbusPoll_quiet hrail hb hr, exec_pmbusPoll_silent hrail hb hr, fun x h0 hx => exec_pmbusPoll_status hrail hb hr h0 hx rfl⟩, ?dips, ?clears,
      fun mvs => exec_supplyReset hrail⟩
    case dips =>
      intro mvs hl hw hd begun u h16
      exact exec_supplyDip hrail hl hw hd rfl rfl h16
    case clears => exact fun mvs lows at' mv hd hl hl' hc => exec_supplyClear_last hd hl hl' hc rfl
  case supply =>
    exact fun s t => ⟨exec_throttleRelease, exec_unstableEnd, fun bifs clks perst mvs => exec_supplyResetEnd, fun bifs clks perst => exec_powerGood bifs clks perst,
      exec_powerGoodDeassert⟩
  case thermal =>
    intro s sensor r hn hg h0 hr u cur l
    exact ⟨exec_thermalLevel_same hn hg h0 hr rfl rfl rfl, exec_thermalLevel_moves hn hg h0 hr rfl rfl rfl, exec_thermalLevel_trips hn hg h0 hr rfl rfl rfl⟩
  case log =>
    intro s bs ht hd hr m hf h128
    exact exec_logMirror ht hd hr rfl hf h128
  case restarted =>
    intro s t slot cause hr
    split
    · next hb => exact exec_ozelmRestartDone_boots hr hb
    · next hb => exact exec_ozelmRestartDone_stays hr hb
  case start =>
    intro s hg hd hr
    refine ⟨exec_pllLockTimeout hg hd hr, fun r ht h5 => ⟨exec_startupStage_rom hg hd hr ht r h5,
      fun ho h => exec_startupStage_running (stage := 1) hg hd hr ht r ho h (by decide), ?trains,
      fun ho h => exec_startupStage_running (stage := 3) hg hd hr ht r ho h (by decide),
      fun ho h => exec_startupStage_running (stage := 4) hg hd hr ht r ho h (by decide)⟩⟩
    intro d ho h2 h3 hdens u
    refine (exec_startupStage_running (stage := 2) hg hd hr ht r ho h2 (by decide)).trans (congrArg Host.Outcome.next ?_)
    show bootTrain s r.dens = _
    rw [hdens]
    exact bootTrain_uniform h3 rfl

end Sys2Proof.Machine
end
